-- ==== Sys2Proof/Word.lean ====
section
/-! DEFINITION. The word types of the machine (R12, R15, R33) and the sparse table type in which the state holds what is
addressed by number. -/

namespace Sys2Proof

/-- One byte of memory (R12). -/
abbrev Byte := BitVec 8

/-- The 32 bits of a register lane (R15). -/
abbrev Word := BitVec 32

/-- A 64-bit value, virtual address or code position (R17, R38). -/
abbrev Long := BitVec 64

/-- One instruction slot, bits 95:0 (R33). -/
abbrev Slot := BitVec 96

/-- A table from numbers to entries, sorted by number with no repeats. -/
abbrev Tbl (α : Type) := List (Nat × α)

end Sys2Proof
end

