-- ==== Sys2Proof/Config.lean ====
section
/-! DEFINITION. What an implementation fixes, and the free values: opaque constants that no proof can see into. -/

namespace Sys2Proof.Config

/-- A free 64-bit value for each number drawn (assumption log 4). -/
opaque freeValue : Nat → BitVec 64

/-- A free choice between two allowed behaviours for each number drawn (assumption log 4). -/
opaque freeBool : Nat → Bool

/-- R349, R350: the codeword that a soft error makes uncorrectable, if any, for each number drawn: unit, unit index and location of Table 20-6
(assumption log 46). -/
opaque upset : Nat → Option (Nat × Nat × Nat)

/-- R349: the unit of Table 20-6 whose codeword is corrected, if any, for each number drawn (assumption log 46). -/
opaque corrected : Nat → Option Nat

/-- R350: which uncorrectable codeword a scrub, a rotation, an eviction or a write-back finds, if any, for each number drawn (assumption log 46). -/
opaque found : Nat → Option Nat

/-- The time in ticks an operation of variable latency takes, for each number drawn (assumption log 5). -/
opaque latency : Nat → Nat

/-- R120: which of the values within its error bound frsq, fsin, fcos, fex2, flg2 or ftanh returns: a fixed function of the source bits and
the flush bits that the manual does not state (assumption log 6). The first argument numbers the function. -/
opaque specialChoice : Nat → BitVec 32 → Bool → Bool → BitVec 32

/-- R443: the SHAKE256 digest of an image, 64 bytes. -/
opaque shake256 : List (BitVec 8) → BitVec 512

/-- R443: whether a Falcon-1024 signature over a measurement verifies under the fused root key. -/
opaque falconVerify : BitVec 512 → List (BitVec 8) → Bool

/-- R445: the Falcon-1024 padded signature (1280 bytes) made with the identity key. -/
opaque falconSign : List (BitVec 8) → BitVec 10240

/-- R445: the public part of the identity key (1793 bytes). -/
opaque identityKey : BitVec 14344

/-- Table 26-6: the serial number. -/
opaque serialNumber : BitVec 128

/-- Table 22-5: the version of the firmware that runs at device reset. -/
opaque firmwareVersion : BitVec 64

/-- R443: the measurement of the firmware that runs at device reset. -/
opaque firmwareMeasurement : BitVec 512

/-- R443, R444: the security version a staged image carries; the image format is not stated. -/
opaque imageSecurityVersion : List (BitVec 8) → BitVec 32

/-- R443, R444: the firmware version a staged image carries; the image format is not stated. -/
opaque imageVersion : List (BitVec 8) → BitVec 64

/-- R443: the security version of the running image, and the fused minimum, at device reset. -/
opaque securityVersion : BitVec 32

/-- R32, Table 01-7: what a debugger reads of a thread. -/
inductive ThreadItem where
  | reg (r : Nat)
  | preds
  | pos
  | depth
  | ret (d : Nat)
  | path
  | stall
  | tokens
  | special (i : Nat)
  | pred (p : Nat)
  deriving DecidableEq, Repr

/-- Table 23-3: which item of Table 01-7 an item number of commands 0x46 and 0x47 names; the numbers are not stated. -/
opaque threadItem : Nat → Option ThreadItem

/-- Table 23-3: whether an argument of command 0x42 that reads both as a target word and as a context with all = 1 is the latter. -/
opaque haltAllForm : Bool

/-- R422, R425: whether a connection of a bus arrives wrong, for each number drawn (assumption log 4). -/
opaque connFails : Nat → Nat → Nat → Nat → Bool

/-- R406, Table 24-6: how the two counts of every core are laid out in the result of a query; the form is not stated. -/
opaque perCoreCounts : List (Nat × Nat) → List (BitVec 8)

/-- R437: the frequency of an operating point, in MHz (Table 26-1). -/
def frequencyMHz (point : Nat) : Nat :=
  match point with
  | 0 => 1100
  | 1 => 950
  | 2 => 800
  | _ => 550

/-- R2: the die of a core. -/
def dieOfCore (core : Nat) : Nat := core / 80

/-- R2: the quadrant of a core, numbered through the package. -/
def quadrantOfCore (core : Nat) : Nat := core / 20

/-- R193: the home compute die of a stack. -/
def dieOfStack (stack : Nat) : Nat := stack / 3

/-- R7: the latency of the lectern in ticks. -/
def lecternLatency : Nat := 48

/-- R181: time-base ticks in a microsecond. -/
def ticksPerMicrosecond : Nat := 1100

/-- R347: the time within which firmware must resolve a translation, 10 ms, in ticks. -/
def pageFaultTicks : Nat := 11000000

/-- R375: the time a command may take, 1 s, in ticks. -/
def commandTicks : Nat := 1100000000

end Sys2Proof.Config
end

