-- ==== Sys2Proof/Machine/Functions.lean ====
section
/-! DEFINITION. The functions of Table 07-4 in fixed point, far more exactly than a result needs, and the f32 values that lie within an error
bound of them (R120). A fixed-point number is an integer in units of 2^-664; its last places are not exact. -/

namespace Sys2Proof.Machine

/-- The places of a fixed-point number, and how many of them are kept. -/
def fixBits : Nat := 664
def keptBits : Nat := 600

/-- The series of the inverse tangent (alternating) or the inverse hyperbolic tangent at 1/k: t is the power reached, n its exponent. -/
def atanSeries (alt : Bool) (k2 : Nat) (t n : Nat) (fuel : Nat) : Int :=
  match fuel with
  | 0 => 0
  | f + 1 => if t = 0 then 0 else
    let rest := atanSeries alt k2 (t / k2) (n + 2) f
    (t / n : Nat) + (if alt then -rest else rest)

/-- π to a number of places, by the inverse tangents of 1/5 and 1/239. -/
def fixPi (places : Nat) : Nat :=
  (16 * atanSeries true 25 (2 ^ places / 5) 1 (places / 4) - 4 * atanSeries true 57121 (2 ^ places / 239) 1 (places / 4)).toNat

/-- The natural logarithm of 2. -/
def fixLn2 : Nat := (2 * atanSeries false 9 (2 ^ fixBits / 3) 1 fixBits).toNat

/-- The series of sine (n = 2) or cosine (n = 1) from a term on: r2 is the square of the argument. -/
def sinSeries (r2 : Nat) (t : Int) (n : Nat) (fuel : Nat) : Int :=
  match fuel with
  | 0 => 0
  | f + 1 => if t = 0 then 0 else t + sinSeries r2 (-(t * r2 / (2 ^ fixBits * (n * (n + 1)) : Nat))) (n + 2) f

/-- The series of the exponential from a term on. -/
def expSeries (r : Nat) (t n : Nat) (fuel : Nat) : Nat :=
  match fuel with
  | 0 => 0
  | f + 1 => if t = 0 then 0 else t + expSeries r (t * r / (2 ^ fixBits * n)) (n + 1) f

/-- m × 2^e in fixed point. -/
def fixOf (m : Nat) (e : Int) : Nat := m * 2 ^ (e + fixBits).toNat / 2 ^ (-(e + fixBits)).toNat

/-- sin (or cos) of m × 2^e, the argument reduced exactly. -/
def fixSin (cosine neg : Bool) (m : Nat) (e : Int) : Int :=
  let half := fixPi (fixBits + 160)
  let x := fixOf m e * 2 ^ 161
  let k := (x + half / 2) / half
  let r : Int := ((x : Int) - (k * half : Nat)) / (2 ^ 161 : Nat)
  let r2 := (r * r / (2 ^ fixBits : Nat)).toNat
  let q := (k + if cosine then 1 else 0) % 4
  let v := if q % 2 = 0 then sinSeries r2 r 2 fixBits else sinSeries r2 (2 ^ fixBits : Nat) 1 fixBits
  let w := if q ≥ 2 then -v else v
  if neg && !cosine then -w else w

/-- The exponential of a fixed-point number. -/
def fixExp (y : Nat) : Nat :=
  let k := y / fixLn2
  2 ^ k * expSeries (y - k * fixLn2) (2 ^ fixBits) 1 fixBits

/-- 2 to the power of a fixed-point number. -/
def fixExp2 (x : Int) : Nat :=
  let k := x / (2 ^ fixBits : Nat)
  let f := (x - k * (2 ^ fixBits : Nat)).toNat
  let v := expSeries (f * fixLn2 / 2 ^ fixBits) (2 ^ fixBits) 1 fixBits
  v * 2 ^ k.toNat / 2 ^ (-k).toNat

/-- The logarithm to base 2 of m × 2^e, m not zero. -/
def fixLog2 (m : Nat) (e : Int) : Int :=
  let n := Nat.log2 m
  let p := 2 ^ n
  let z := (m - p) * 2 ^ fixBits / (m + p)
  let ln := (2 * lnSeries (z * z / 2 ^ fixBits) z 1 fixBits).toNat
  (e + n) * (2 ^ fixBits : Nat) + (ln * 2 ^ fixBits / fixLn2 : Nat)
where
  /-- The series of the inverse hyperbolic tangent. -/
  lnSeries (z2 : Nat) (t n : Nat) (fuel : Nat) : Int :=
    match fuel with
    | 0 => 0
    | f + 1 => if t = 0 then 0 else (t / n : Nat) + lnSeries z2 (t * z2 / 2 ^ fixBits) (n + 2) f

/-- The hyperbolic tangent of a fixed-point number; below 1 for every argument. -/
def fixTanh (x : Nat) : Nat :=
  let one := 2 ^ fixBits
  if x ≥ 512 * one then one - 1
  else
    let v := fixExp (2 * x)
    min ((v - one) * one / (v + one)) (one - 1)

/-- 1/√(m × 2^e). -/
def fixRsqrt (m : Nat) (e : Int) : Nat :=
  let k : Int := 2 * fixBits - e
  Nat.sqrt (2 ^ k.toNat / m)

/-- R120: the f32 magnitudes within a bound, in half units of the last place, of a fixed-point magnitude: pairs j, h for j × 2^h. -/
def withinBound (v : Nat) (bound : Nat) : List (Nat × Int) :=
  let w := v / 2 ^ (fixBits - keptBits)
  let h : Int := max ((Nat.log2 w : Int) - keptBits - 24) (-150)
  let unit := 2 ^ (h + keptBits).toNat
  let b := w / unit
  ((List.range 11).map (fun i => b + i)).filterMap (fun i =>
    if i < 5 then none
    else
      let j := i - 5
      let d := if j * unit ≥ w then j * unit - w else w - j * unit
      let fits := (j < 2 ^ 24 && decide (h ≥ -149)) || (j % 2 = 0 && (j / 2 < 2 ^ 24 || j % 4 = 0))
      if d ≤ bound * unit && fits && decide (j * unit < 2 ^ (128 + keptBits)) then some (j, h) else none)

end Sys2Proof.Machine
end

