-- ==== Sys2Proof/Syntax.lean ====
section
/-! DEFINITION. The instructions: one constructor for each row of spec/opcode_table.json. A program instruction carries its
header (Table 02-4) and the fields of its format (Tables 02-5 to 02-11) as they stand in the word; a device event carries the
numbers of what it happens to; a firmware command carries the kick page it runs from and its arguments (Table 22-5). -/

namespace Sys2Proof

/-- Table 02-4: the header less opcode and variant, which the constructor gives. -/
structure Hdr where
  stall : BitVec 4
  neg : BitVec 1
  pred : BitVec 3
  wait : BitVec 6
  tok : BitVec 3
  deriving DecidableEq, Repr

/-- Table 02-5, format A. -/
structure FmtA where
  dst : BitVec 9
  a : BitVec 9
  b : BitVec 9
  c : BitVec 9
  ty : BitVec 4
  rnd : BitVec 3
  sat : BitVec 1
  win : BitVec 3
  off : BitVec 17
  deriving DecidableEq, Repr

/-- Table 02-6, format I. -/
structure FmtI where
  dst : BitVec 9
  a : BitVec 9
  ty : BitVec 4
  modi : BitVec 10
  imm : BitVec 32
  deriving DecidableEq, Repr

/-- Table 02-7, format M. -/
structure FmtM where
  data : BitVec 9
  addr : BitVec 9
  space : BitVec 3
  size : BitVec 3
  cache : BitVec 2
  scope : BitVec 3
  bound : BitVec 4
  span : BitVec 6
  mode : BitVec 2
  off : BitVec 23
  deriving DecidableEq, Repr

/-- Table 02-8, format B. -/
structure FmtB where
  cond : BitVec 9
  slot : BitVec 3
  modi : BitVec 4
  off : BitVec 32
  resv : BitVec 16
  deriving DecidableEq, Repr

/-- Table 02-9, format G. -/
structure FmtG where
  dst : BitVec 9
  a : BitVec 9
  b : BitVec 9
  mask : BitVec 9
  lane : BitVec 16
  modi : BitVec 12
  deriving DecidableEq, Repr

/-- Table 02-10, format E. -/
structure FmtE where
  handle : BitVec 16
  a : BitVec 9
  b : BitVec 9
  c : BitVec 9
  par : BitVec 21
  deriving DecidableEq, Repr

/-- Table 02-11, format S. -/
structure FmtS where
  idx : BitVec 12
  a : BitVec 9
  modi : BitVec 11
  imm : BitVec 32
  deriving DecidableEq, Repr

/-- One constructor a row of the opcode table: 186 program instructions, 126 events and firmware commands. -/
inductive Instr where
  /-- R99: Adds two 32-bit operands per lane, wrapping or saturating; runs at a home when a source holds a proxy. -/
  | add (h : Hdr) (f : FmtA)
  /-- R94: Format I form of add, with the 32-bit immediate as the last source. -/
  | addImm (h : Hdr) (f : FmtI)
  /-- R99: Subtracts two 32-bit operands per lane, wrapping or saturating; proxy-capable. -/
  | sub (h : Hdr) (f : FmtA)
  /-- R94: Format I form of sub, with an immediate source. -/
  | subImm (h : Hdr) (f : FmtI)
  /-- R100: Adds with carry-in and writes the sum and carry-out as a pair. -/
  | addc (h : Hdr) (f : FmtA)
  /-- R100: Subtracts with borrow-in and writes the difference and borrow-out as a pair. -/
  | subc (h : Hdr) (f : FmtA)
  /-- R101: Writes the low 32 bits of the product; proxy-capable. -/
  | mulLo (h : Hdr) (f : FmtA)
  /-- R94: Format I form of mul.lo. -/
  | mulLoImm (h : Hdr) (f : FmtI)
  /-- R101: Writes the high 32 bits of the 64-bit product. -/
  | mulHi (h : Hdr) (f : FmtA)
  /-- R94: Format I form of mul.hi. -/
  | mulHiImm (h : Hdr) (f : FmtI)
  /-- R101: Writes the full 64-bit product to a register pair. -/
  | mulWide (h : Hdr) (f : FmtA)
  /-- R94: Format I form of mul.wide. -/
  | mulWideImm (h : Hdr) (f : FmtI)
  /-- R102: Multiplies and adds c, with saturation on the exact result. -/
  | mad (h : Hdr) (f : FmtA)
  /-- R102: Adds a 64-bit pair to the 64-bit product. -/
  | madWide (h : Hdr) (f : FmtA)
  /-- R99: Writes the smaller operand in the type; proxy-capable. -/
  | minI (h : Hdr) (f : FmtA)
  /-- R94: Format I form of min. -/
  | minImm (h : Hdr) (f : FmtI)
  /-- R99: Writes the larger operand in the type; proxy-capable. -/
  | maxI (h : Hdr) (f : FmtA)
  /-- R94: Format I form of max. -/
  | maxImm (h : Hdr) (f : FmtI)
  /-- R99: Writes the absolute value of a signed operand. -/
  | abs (h : Hdr) (f : FmtA)
  /-- R99: Writes the negation of a signed operand. -/
  | neg (h : Hdr) (f : FmtA)
  /-- R99: Writes the exact absolute difference as n32. -/
  | absdiff (h : Hdr) (f : FmtA)
  /-- R102: Adds the absolute difference of a and b to c. -/
  | sad (h : Hdr) (f : FmtA)
  /-- R102: Four-way byte dot product added to c. -/
  | dp4 (h : Hdr) (f : FmtA)
  /-- R102: Two-way halfword dot product added to c. -/
  | dp2 (h : Hdr) (f : FmtA)
  /-- R103: Adds a shifted 32-bit index to a 64-bit pair. -/
  | lea (h : Hdr) (f : FmtA)
  /-- R103: Adds a sign-extended immediate displacement to a 64-bit pair. -/
  | leaImm (h : Hdr) (f : FmtI)
  /-- R103: Adds two 64-bit pairs, wrapping or saturating. -/
  | add64 (h : Hdr) (f : FmtA)
  /-- R103: Subtracts two 64-bit pairs, wrapping or saturating. -/
  | sub64 (h : Hdr) (f : FmtA)
  /-- R104: Bitwise and; proxy-capable. -/
  | andB (h : Hdr) (f : FmtA)
  /-- R94: Format I form of and. -/
  | andImm (h : Hdr) (f : FmtI)
  /-- R104: Bitwise or; proxy-capable. -/
  | orB (h : Hdr) (f : FmtA)
  /-- R94: Format I form of or. -/
  | orImm (h : Hdr) (f : FmtI)
  /-- R104: Bitwise exclusive or; proxy-capable. -/
  | xorB (h : Hdr) (f : FmtA)
  /-- R94: Format I form of xor. -/
  | xorImm (h : Hdr) (f : FmtI)
  /-- R104: Bitwise complement. -/
  | notB (h : Hdr) (f : FmtA)
  /-- R105: Applies an 8-bit truth table to three inputs bit by bit. -/
  | lop3 (h : Hdr) (f : FmtA)
  /-- R106: Logical shift left; proxy-capable. -/
  | shl (h : Hdr) (f : FmtA)
  /-- R94: Format I form of shl. -/
  | shlImm (h : Hdr) (f : FmtI)
  /-- R106: Logical shift right; proxy-capable. -/
  | shr (h : Hdr) (f : FmtA)
  /-- R94: Format I form of shr. -/
  | shrImm (h : Hdr) (f : FmtI)
  /-- R106: Arithmetic shift right. -/
  | sar (h : Hdr) (f : FmtA)
  /-- R94: Format I form of sar. -/
  | sarImm (h : Hdr) (f : FmtI)
  /-- R106: Rotates left by the amount modulo 32. -/
  | rot (h : Hdr) (f : FmtA)
  /-- R94: Format I form of rot. -/
  | rotImm (h : Hdr) (f : FmtI)
  /-- R106: Funnel shift left of the 64-bit concatenation, high word result. -/
  | shfL (h : Hdr) (f : FmtA)
  /-- R106: Funnel shift right of the 64-bit concatenation, low word result. -/
  | shfR (h : Hdr) (f : FmtA)
  /-- R107: Extracts a bit field, sign- or zero-filled. -/
  | bfe (h : Hdr) (f : FmtA)
  /-- R107: Inserts a bit field into b. -/
  | bfi (h : Hdr) (f : FmtA)
  /-- R108: Reverses the bits of a 32- or 64-bit value. -/
  | brev (h : Hdr) (f : FmtA)
  /-- R108: Counts set bits. -/
  | popc (h : Hdr) (f : FmtA)
  /-- R108: Counts leading zeros. -/
  | clz (h : Hdr) (f : FmtA)
  /-- R108: Counts trailing zeros. -/
  | ctz (h : Hdr) (f : FmtA)
  /-- R109: Assembles four result bytes from eight source bytes under a control word. -/
  | prmt (h : Hdr) (f : FmtA)
  /-- R104: Selects a or b by whether c is nonzero; proxy-capable. -/
  | sel (h : Hdr) (f : FmtA)
  /-- R110: Compares and writes all ones or zero. -/
  | cmp (h : Hdr) (v : BitVec 5) (f : FmtA)
  /-- R94: Format I form of cmp. -/
  | cmpImm (h : Hdr) (v : BitVec 5) (f : FmtI)
  /-- R110: Compares and writes one or zero. -/
  | setc (h : Hdr) (v : BitVec 5) (f : FmtA)
  /-- R94: Format I form of setc. -/
  | setcImm (h : Hdr) (v : BitVec 5) (f : FmtI)
  /-- R104: Copies a register or pair; a proxy b32 copy duplicates the value into a new slot. -/
  | mov (h : Hdr) (f : FmtA)
  /-- R94: Writes an immediate, sign-extended for b64. -/
  | movImm (h : Hdr) (f : FmtI)
  /-- R115: f32 add rounded once; proxy-capable. -/
  | fadd (h : Hdr) (f : FmtA)
  /-- R115: f32 subtract rounded once. -/
  | fsub (h : Hdr) (f : FmtA)
  /-- R115: f32 multiply rounded once; proxy-capable. -/
  | fmul (h : Hdr) (f : FmtA)
  /-- R115: f32 fused multiply-add rounded once; proxy-capable. -/
  | ffma (h : Hdr) (f : FmtA)
  /-- R116: Returns the smaller f32 operand with its own NaN rules. -/
  | fmin (h : Hdr) (f : FmtA)
  /-- R116: Returns the larger f32 operand with its own NaN rules. -/
  | fmax (h : Hdr) (f : FmtA)
  /-- R117: Tests two f32 values under a condition code. -/
  | fcmp (h : Hdr) (v : BitVec 5) (f : FmtA)
  /-- R118: Writes one bit naming the class of an f32 value. -/
  | fclass (h : Hdr) (f : FmtA)
  /-- R119: Rounds an f32 to an integral value. -/
  | frint (h : Hdr) (f : FmtA)
  /-- R119: Writes the fractional part of an f32. -/
  | ffrac (h : Hdr) (f : FmtA)
  /-- R119: Multiplies an f32 by a power of two. -/
  | fscale (h : Hdr) (f : FmtA)
  /-- R119: Writes the unbiased exponent as f32. -/
  | fgetexp (h : Hdr) (f : FmtA)
  /-- R115: f64 add on pairs. -/
  | dadd (h : Hdr) (f : FmtA)
  /-- R115: f64 multiply on pairs. -/
  | dmul (h : Hdr) (f : FmtA)
  /-- R115: f64 fused multiply-add on pairs. -/
  | dfma (h : Hdr) (f : FmtA)
  /-- R115: Two-element f16 add. -/
  | hadd2 (h : Hdr) (f : FmtA)
  /-- R115: Two-element f16 multiply. -/
  | hmul2 (h : Hdr) (f : FmtA)
  /-- R115: Two-element f16 fused multiply-add. -/
  | hfma2 (h : Hdr) (f : FmtA)
  /-- R115: Two-element bf16 add; proxy-capable. -/
  | bfadd2 (h : Hdr) (f : FmtA)
  /-- R115: Two-element bf16 fused multiply-add; proxy-capable. -/
  | bfma2 (h : Hdr) (f : FmtA)
  /-- R123: Converts between a legal pair of integer and float types. -/
  | cvt (h : Hdr) (v : BitVec 5) (f : FmtA)
  /-- R123: Converts with stochastic rounding from a register-supplied random value. -/
  | cvtSr (h : Hdr) (v : BitVec 5) (f : FmtA)
  /-- R124: Packs four f32 values into four 8-bit floats. -/
  | pk4 (h : Hdr) (f : FmtA)
  /-- R125: Unpacks four 8-bit floats into four f16 values. -/
  | upk4 (h : Hdr) (f : FmtA)
  /-- R120: Correctly rounded f32 reciprocal, variable latency. -/
  | frcp (h : Hdr) (f : FmtA)
  /-- R120: f32 reciprocal square root within 1 ulp. -/
  | frsq (h : Hdr) (f : FmtA)
  /-- R120: Correctly rounded f32 square root. -/
  | fsqrt (h : Hdr) (f : FmtA)
  /-- R120: f32 sine within 2 ulp. -/
  | fsin (h : Hdr) (f : FmtA)
  /-- R120: f32 cosine within 2 ulp. -/
  | fcos (h : Hdr) (f : FmtA)
  /-- R120: f32 power of two within 2 ulp. -/
  | fex2 (h : Hdr) (f : FmtA)
  /-- R120: f32 base-2 logarithm within 2 ulp. -/
  | flg2 (h : Hdr) (f : FmtA)
  /-- R120: f32 hyperbolic tangent within 2 ulp. -/
  | ftanh (h : Hdr) (f : FmtA)
  /-- R121: A special function completes within 40 cycles, writes results and flags, and may take its FP trap. -/
  | specialFunctionCompletion (id : Nat)
  /-- R219: Global load through the L1 with span hint and cache priority. -/
  | ld (h : Hdr) (f : FmtM)
  /-- R220: Global store, updating the L1 and going to the home slice or a gather entry. -/
  | st (h : Hdr) (f : FmtM)
  /-- R221: Bounded-staleness load with bound test and report predicate. -/
  | ldB (h : Hdr) (f : FmtM)
  /-- R219: Acquire load at a scope, holding the thread until complete. -/
  | ldAcq (h : Hdr) (f : FmtM)
  /-- R220: Release store at a scope. -/
  | stRel (h : Hdr) (f : FmtM)
  /-- R219: Core scratchpad load, fixed 24 cycles. -/
  | ldsp (h : Hdr) (f : FmtM)
  /-- R220: Core scratchpad store, fixed 24 cycles. -/
  | stsp (h : Hdr) (f : FmtM)
  /-- R219: Cluster-shared load from a team rank's scratchpad. -/
  | ldcl (h : Hdr) (f : FmtM)
  /-- R220: Cluster-shared store. -/
  | stcl (h : Hdr) (f : FmtM)
  /-- R219: Die scratchpad load. -/
  | ldds (h : Hdr) (f : FmtM)
  /-- R220: Die scratchpad store. -/
  | stds (h : Hdr) (f : FmtM)
  /-- R219: Lane-private load. -/
  | ldlp (h : Hdr) (f : FmtM)
  /-- R220: Lane-private store. -/
  | stlp (h : Hdr) (f : FmtM)
  /-- R218: Indexed read through a constant window. -/
  | ldc (h : Hdr) (f : FmtM)
  /-- R224: Atomic read-modify-write at the home slice, lanes in ascending order, returning the old value. -/
  | atom (h : Hdr) (v : BitVec 5) (f : FmtM)
  /-- R224: Reduction at the home slice with no result. -/
  | red (h : Hdr) (v : BitVec 5) (f : FmtM)
  /-- R225: Acquire fence at a scope. -/
  | fenceAcq (h : Hdr) (f : FmtM)
  /-- R225: Release fence at a scope, flushing gather entries at wide scope. -/
  | fenceRel (h : Hdr) (f : FmtM)
  /-- R225: Acquire-release fence at a scope. -/
  | fenceAr (h : Hdr) (f : FmtM)
  /-- R226: Writes back gather entries and, at .sys, dirty L2 blocks of a range. -/
  | cwb (h : Hdr) (f : FmtM)
  /-- R226: Removes a range's words from L1s and replicas at a scope. -/
  | cinv (h : Hdr) (f : FmtM)
  /-- R227: Prefetches into the L1 without writing registers. -/
  | cpf (h : Hdr) (f : FmtM)
  /-- R228: Advances a staleness region's round counter as a release and announces it. -/
  | rndAdv (h : Hdr) (f : FmtM)
  /-- R228: Reads the core's mirror of a region's round. -/
  | rndGet (h : Hdr) (f : FmtM)
  /-- R229: Publishes a host window's staged bytes and increments its version counter. -/
  | pub (h : Hdr) (f : FmtM)
  /-- R147: Does nothing. -/
  | nop (h : Hdr) (f : FmtS)
  /-- R143: Unconditional branch to a line offset and slot. -/
  | bra (h : Hdr) (f : FmtB)
  /-- R143: Indirect branch to the position in a pair. -/
  | brx (h : Hdr) (f : FmtB)
  /-- R143: Branches lanes whose register is zero. -/
  | brz (h : Hdr) (f : FmtB)
  /-- R143: Branches lanes whose register is nonzero. -/
  | brnz (h : Hdr) (f : FmtB)
  /-- R143: Pushes the return address and branches. -/
  | call (h : Hdr) (f : FmtB)
  /-- R143: Pushes the return address and branches to a pair. -/
  | callx (h : Hdr) (f : FmtB)
  /-- R145: Pops the return stack and continues there. -/
  | ret (h : Hdr) (f : FmtB)
  /-- R146: Ends active threads; the group leaves its slot when all have exited. -/
  | exitI (h : Hdr) (f : FmtB)
  /-- R147: Makes threads ineligible until another thread issues or 64 cycles pass. -/
  | yield (h : Hdr) (f : FmtS)
  /-- R147: A yielding thread becomes eligible after 64 cycles. -/
  | yieldTimeout (core slot id : Nat)
  /-- R148: Arrives at workgroup barrier k as fence.ar.wg. -/
  | bar (h : Hdr) (f : FmtS)
  /-- R148: Waiting threads become eligible 4 cycles after the completing arrival. -/
  | barrierComplete (wg k : Nat)
  /-- R149: Arrives at route-tag barrier t at the binding's scope. -/
  | bart (h : Hdr) (f : FmtS)
  /-- R149: Waiting threads become eligible 12, 24 or 40 cycles after the last arrival. -/
  | bartRelease (set t : Nat)
  /-- R150: Waits while a token counter exceeds n. -/
  | waitt (h : Hdr) (f : FmtS)
  /-- R151: Takes a user trap with cause TRAP, or halts if no handler. -/
  | trapI (h : Hdr) (f : FmtS)
  /-- R152: Resumes handler threads at their recorded resume position. -/
  | rti (h : Hdr) (f : FmtS)
  /-- R154: Group-wide election of the lowest contributing lane. -/
  | elect (h : Hdr) (f : FmtG)
  /-- R153: Sets a predicate from a register being zero or nonzero. -/
  | pset (h : Hdr) (f : FmtI)
  /-- R153: Predicate and with optional negation. -/
  | pand (h : Hdr) (f : FmtI)
  /-- R153: Predicate or with optional negation. -/
  | por (h : Hdr) (f : FmtI)
  /-- R153: Predicate exclusive or with optional negation. -/
  | pxor (h : Hdr) (f : FmtI)
  /-- R153: Predicate complement. -/
  | pnot (h : Hdr) (f : FmtI)
  /-- R163: Sets a predicate to the and of a predicate over the lane's set. -/
  | voteAll (h : Hdr) (f : FmtG)
  /-- R163: Sets a predicate to the or of a predicate over the lane's set. -/
  | voteAny (h : Hdr) (f : FmtG)
  /-- R163: Sets a predicate when all values in the set are equal. -/
  | voteEq (h : Hdr) (f : FmtG)
  /-- R164: Writes the mask of lanes whose predicate is true. -/
  | ballot (h : Hdr) (f : FmtG)
  /-- R165: Reads a register from a source lane within a window (idx, up, down, xor). -/
  | shfl (h : Hdr) (v : BitVec 5) (f : FmtG)
  /-- R166: Masked butterfly exchange with the partner lane. -/
  | xchg (h : Hdr) (f : FmtG)
  /-- R167: Reduces a register over the lane's set. -/
  | redux (h : Hdr) (v : BitVec 5) (f : FmtG)
  /-- R168: Writes the mask of lanes holding an equal value. -/
  | matchAny (h : Hdr) (f : FmtG)
  /-- R168: Writes the set mask and a predicate when all values match. -/
  | matchAll (h : Hdr) (f : FmtG)
  /-- R169: Gathers the participation set at one position. -/
  | gsync (h : Hdr) (f : FmtG)
  /-- R159: A group-wide instruction writes its results 8 or 12 cycles after issue or after its last crossing. -/
  | groupWideCompletion (id : Nat)
  /-- R298: Supplies the group's slice to a collective copy slot. -/
  | cpySlice (h : Hdr) (f : FmtE)
  /-- R302: A copy starts 8 cycles after assembly or on leaving the queue, taking range locks and a ring slot. -/
  | copyStart (wg k : Nat)
  /-- R302: A copy's last byte is written; slots change state and range locks clear. -/
  | copyComplete (wg k : Nat)
  /-- R309: Waits until named copy slots are idle, then acquires. -/
  | cpyWait (h : Hdr) (f : FmtE)
  /-- R305: Sets up a staging ring from a control word. -/
  | ringInit (h : Hdr) (f : FmtE)
  /-- R309: Waits for the full slot at the pop index and moves it to draining. -/
  | ringPop (h : Hdr) (f : FmtE)
  /-- R309: Releases the draining slot at the release index to free. -/
  | ringRel (h : Hdr) (f : FmtE)
  /-- R309: Waits until a named ring slot is in a state. -/
  | bufWait (h : Hdr) (f : FmtE)
  /-- R309: Makes a ring slot transition by thread. -/
  | bufSet (h : Hdr) (f : FmtE)
  /-- R324: Claims consecutive free operand-memory slots or accumulator banks. -/
  | opmClaim (h : Hdr) (f : FmtE)
  /-- R325: Frees held slots or banks once unused. -/
  | opmRel (h : Hdr) (f : FmtE)
  /-- R326: Submits matrix operations, one per active lane. -/
  | mma (h : Hdr) (f : FmtE)
  /-- R318: The engine takes a queue entry, reads the block and scales, and binds slots. -/
  | mmaAccept (core slot id : Nat)
  /-- R320: A matrix operation completes after its chunks and leaves the queue. -/
  | mmaComplete (core : Nat)
  /-- R327: Waits until earlier operations on named banks complete. -/
  | mmaWait (h : Hdr) (f : FmtE)
  /-- R328: Drains accumulator elements to registers. -/
  | accLd (h : Hdr) (f : FmtE)
  /-- R329: Clears an accumulator bank to +0.0. -/
  | accClr (h : Hdr) (f : FmtE)
  /-- R184: Sends active-message packets to a core's receive ring. -/
  | amSend (h : Hdr) (f : FmtE)
  /-- R184: A refused packet is retried every 64 cycles until accepted. -/
  | amPacketRetry (id : Nat)
  /-- R185: Waits until the workgroup's outstanding packets are handled. -/
  | amDone (h : Hdr) (f : FmtE)
  /-- R186: Spawns a handler group from 32 queued packets or after 256 cycles. -/
  | handlerSpawn (core launch : Nat)
  /-- R290: Leaves a global element at its home and writes proxy words. -/
  | ldP (h : Hdr) (f : FmtM)
  /-- R291: Materialises proxies into plain values by explicit crossing. -/
  | mat (h : Hdr) (f : FmtA)
  /-- R292: Releases proxy slots of registers and writes zero. -/
  | pxrel (h : Hdr) (f : FmtE)
  /-- R293: Reads one proxy quota, lease or crossing item. -/
  | pxq (h : Hdr) (f : FmtE)
  /-- R294: Fills a core's lease for a home to at least n numbers. -/
  | pxlease (h : Hdr) (f : FmtE)
  /-- R294: Returns every number of a lease to its home. -/
  | pxleaseRet (h : Hdr) (f : FmtE)
  /-- R282: A crossed value arrives at the core and is counted. -/
  | crossingReturn (core slot id k : Nat)
  /-- R280: A home executes a proxy operation once its slots are ready. -/
  | homeOperationExecute (id : Nat)
  /-- R276: A core requests slot numbers for a lease. -/
  | leaseRequest (core ctx home : Nat)
  /-- R276: A home grants slot numbers to a lease. -/
  | leaseGrant (core ctx home : Nat)
  /-- R276: A held lease request is refused after 2048 home-die cycles. -/
  | leaseRefuse (core ctx home : Nat)
  /-- R284: A batch of released slot numbers leaves at 32 numbers or 64 cycles. -/
  | releaseBatchSend (core home : Nat)
  /-- R274: A releasing slot becomes free after its last read, generation incremented. -/
  | slotFree (home slot : Nat)
  /-- R28: Reads a special register into a register or pair. -/
  | rdsr (h : Hdr) (f : FmtS)
  /-- R28: Writes a special register from a register, pair or immediate. -/
  | wrsr (h : Hdr) (f : FmtS)
  /-- R175: Submits one launch per active lane. -/
  | launch (h : Hdr) (f : FmtS)
  /-- R175: Submits launches that start at a global time. -/
  | launchAt (h : Hdr) (f : FmtS)
  /-- R176: Validates a kernel record and accepts or rejects the launch. -/
  | launchAccept (id : Nat)
  /-- R182: Groups of a launch.at become eligible at the start tick. -/
  | timedLaunchRelease (launch : Nat)
  /-- R386: Raises BREAK as a user trap, debug stop or fault. -/
  | brk (h : Hdr) (f : FmtS)
  /-- R386: Takes a debug stop in a debug-enabled context. -/
  | haltI (h : Hdr) (f : FmtS)
  /-- R386: Privileged resume of debug-stopped workgroups named by target words. -/
  | rfe (h : Hdr) (f : FmtS)
  /-- R410: Adds active threads to a progress counter. -/
  | prog (h : Hdr) (f : FmtS)
  /-- R410: Writes a trace mark and may start a waiting sampler. -/
  | tmark (h : Hdr) (f : FmtS)
  /-- R434: Takes a vertical bus out of service for the workgroup. -/
  | vbtQuiesce (h : Hdr) (f : FmtS)
  /-- R434: Drives one walking-test step on a quiesced bus. -/
  | vbtDriveWalk (h : Hdr) (f : FmtS)
  /-- R434: Drives all zeros then all ones on a quiesced bus. -/
  | vbtDriveFlat (h : Hdr) (f : FmtS)
  /-- R434: Samples the loopback of the last drive. -/
  | vbtSample (h : Hdr) (f : FmtS)
  /-- R434: Writes a spare group's VBREP. -/
  | vbtRepGrp (h : Hdr) (f : FmtS)
  /-- R434: Writes the stack's ROTCTL. -/
  | vbtRepRot (h : Hdr) (f : FmtS)
  /-- R434: Retires a bus and returns the target bank group. -/
  | vbtRetire (h : Hdr) (f : FmtS)
  /-- R434: Returns a quiesced bus to service. -/
  | vbtResume (h : Hdr) (f : FmtS)
  /-- R36: A line with a parity mismatch is refetched from memory once. -/
  | lineRefetch (core launch line : Nat)
  /-- R50: A fixed-latency instruction writes its results its latency after issue, and may take an FP trap. -/
  | fixedLatencyWrite (id : Nat)
  /-- R230: A variable-latency memory operation completes, writing results and decrementing its token. -/
  | loadCompletion (id : Nat)
  /-- R199: A fill arrives at a cache and merges with or trims blocks. -/
  | fillArrival (id : Nat)
  /-- R204: A write is performed at its home slice, sequenced and invalidations sent. -/
  | storePerformedAtHome (id : Nat)
  /-- R204: An L1 applies an invalidation in sequence order, trimming or splitting blocks. -/
  | invalidationApply (core : Nat)
  /-- R208: The home collects replica acknowledgements and then performs the write. -/
  | readMostlyCollapse (id : Nat)
  /-- R243: A gather entry unwritten for 65,536 cycles is flushed. -/
  | gatherIdleFlush (die frame : Nat)
  /-- R212: A packet waiting 256 cycles at a full settle buffer moves to the escape buffer. -/
  | settleEscape (settle : Nat)
  /-- R264: A round announcement arrives and sets every mirror of its region. -/
  | roundAnnouncementArrival (ctx slot : Nat) (round : Word)
  /-- R336: A fault's halt reaches partitions at f+1 and f+24, stopping issue. -/
  | haltDelivery (wg part : Nat)
  /-- R339: A launch halt announcement arrives and halts the launch's workgroups. -/
  | launchHaltArrival (launch core : Nat)
  /-- R347: Firmware resolves a parked translation and the access continues. -/
  | pageFaultResolve (core slot id : Nat)
  /-- R347: A park unresolved within 10 ms raises PAGE. -/
  | pageFaultTimeout (core slot id : Nat)
  /-- R355: A die's time slice ends and the next entry is chosen. -/
  | sliceExpiry (die : Nat)
  /-- R358: A workgroup's state is saved through the chest to the save area. -/
  | workgroupPark (wg : Nat)
  /-- R359: An unfinished switch at the limit force-resets the context. -/
  | preemptionLimitExpiry (die : Nat)
  /-- R360: Halts and discards a context's work, frees slots and writes status 2. -/
  | forcedReset (ctx reason : Nat)
  /-- R392: A replay workgroup takes a checkpoint, advancing sr.ival and emptying logs. -/
  | checkpoint (wg : Nat)
  /-- R399: A TIME packet is written every 65,536 ticks while tracing. -/
  | traceTimePacket (core : Nat)
  /-- R401: A LOST packet is written when the trace queue has room again. -/
  | traceLostPacket (core : Nat)
  /-- R404: Every N cycles each sampled partition writes one stall-reason record. -/
  | sampleTick (core : Nat)
  /-- R407: A causal trial ends at its duration and its debts clear. -/
  | trialEnd (ctx : Nat)
  /-- R423: Every 1 ms the tester runs a walking-test pass on the next bus. -/
  | backgroundTestPass (stack : Nat)
  /-- R424: A demand stops a test or quiesce and the bus returns to service. -/
  | demandPreemptTest (stack bus : Nat)
  /-- R428: A bus is retired and its bank group migrated to a reserve. -/
  | busRetire (stack bus : Nat)
  /-- R429: One 64 KiB stripe is copied and the migration pointer advanced. -/
  | stripeMigrate (stack : Nat)
  /-- R430: At each rotation interval one logical bank group migrates to a reserve. -/
  | rotationInterval (stack : Nat)
  /-- R437: A column changes operating point with its clock stopped up to 1 µs. -/
  | operatingPointChange (core point : Nat)
  /-- R380: A pub lacking a window translation retries every 1 ms and logs an event. -/
  | pubTranslationRetry (core slot id : Nat)
  /-- R375: A command not finished within 1 s completes with status 0x0C. -/
  | commandTimeout (page : BitVec 6)
  /-- R184: An active-message packet arrives at the target core's receive ring and is accepted in arrival order or refused when the ring is full. -/
  | amPacketArrival (id : Nat)
  /-- R360: The first halt announcement of a forced reset arrives at a core, which stops every group of the context there. -/
  | resetHaltArrival (ctx core : Nat)
  /-- R353: Every die has finished discarding a resetting context's work, so pending launches receive status 2 and the context leaves the resetting state for started or free. -/
  | contextResetComplete (ctx : Nat)
  /-- R320: The idle engine starts the oldest operation whose slots and bank are ready. -/
  | mmaStart (core : Nat)
  /-- R177: An accepted launch starts, or is cancelled, when its wait events are final. -/
  | launchStart (launch : Nat)
  /-- R178: The placer places a team on a quadrant with free cores. -/
  | teamPlace (launch : Nat)
  /-- R179: A workgroup completes when threads exited and operations performed, freeing resources. -/
  | workgroupComplete (wg : Nat)
  /-- R180: A launch completes and its completion record receives status 1. -/
  | launchComplete (launch : Nat)
  /-- R129: Each partition cycle selects the oldest ready group and its paths, updating ages, stall and overdue counts. -/
  | issueCycle (core part : Nat)
  /-- R210: A gather entry is flushed to its home as one write. -/
  | gatherFlush (die frame : Nat)
  /-- R181: The global time base advances by one tick. -/
  | timeBaseTick
  /-- R7: A die announces an item on the lectern, queued in announcement order. -/
  | lecternAnnounce (die : Nat)
  /-- R139: The core lowers a long-waiting group into the chest. -/
  | groupLower (core slot : Nat)
  /-- R140: The core raises a lowered group once its waits end and registers are free. -/
  | groupRaise (core slot : Nat)
  /-- R140: After 2048 cycles of a blocked raise, the youngest resident group is lowered. -/
  | forcedLower (core : Nat)
  /-- R338: An asynchronous fault reaches the core and halts all partitions. -/
  | asyncFaultArrival (wg code lane : Nat) (pos tvalue : Long)
  /-- R337: A halted workgroup settles and its fault and skid records are written. -/
  | workgroupSettle (wg : Nat)
  /-- R356: An urgent entry with work pre-empts a non-urgent entry. -/
  | urgentPreempt (die : Nat)
  /-- R357: The outgoing context has drained from the die and the incoming turn begins. -/
  | switchComplete (die : Nat)
  /-- R358: A parked workgroup resumes on its core when resources are free. -/
  | workgroupResume (wg : Nat)
  /-- R412: A column closes an accounting interval and shares its energy. -/
  | energyIntervalClose (kind column dynamic leakage : Nat)
  /-- R425: Four corrections on one connection add a shift repair or mark the bus beyond repair. -/
  | persistentErrorRepair (stack bus conn : Nat)
  /-- R427: A two-bit codeword error is repaired and reread, or faults and retires the bus. -/
  | doubleError (stack bus pa wg : Nat) (conns : List Nat)
  /-- R439: Each 1 ms over 3.2 kW the hottest core column is lowered a point. -/
  | powerLimitStep (milliwatts : Nat)
  /-- R439: Each 10 ms at or below 3.1 kW a lowered column is raised a point. -/
  | powerRecoveryStep (milliwatts : Nat)
  /-- R440: A junction reading lowers a column's point or force-resets contexts. -/
  | thermalAction (core celsius : Nat)
  /-- R441: Hourly predicted life is derived and caps applied. -/
  | wearPrediction (die column hours : Nat)
  /-- R422: Device reset clears state, zeros the time base and runs the walking test on every bus. -/
  | deviceReset
  /-- R372: Host write to a kick page field without behaviour of its own. -/
  | kickPageWrite (page : BitVec 6) (off : Nat) (data : List Byte)
  /-- R378: A host or peer BAR2 access is performed at the home or aborted and logged. -/
  | hostApertureAccess (link : BitVec 1) (write : Bool) (pa len : Nat) (data : List Byte)
  /-- R375: Returns part number, firmware version and measurement. -/
  | identify (page : BitVec 6)
  /-- R376: Returns corrected-error counts per unit. -/
  | deviceQueryErrorCounts (page : BitVec 6) (arg : Word)
  /-- R376: Returns machine-check records. -/
  | deviceQueryMachineChecks (page : BitVec 6) (arg : Word)
  /-- R376: Returns malformed page-table entry records. -/
  | deviceQueryMalformedEntries (page : BitVec 6) (arg : Word)
  /-- R441: Returns wear entries of a die. -/
  | deviceQueryWear (page : BitVec 6) (arg : Word)
  /-- R432: Returns the repair state of a bus and its stack. -/
  | deviceQueryRepairState (page : BitVec 6) (arg : Word)
  /-- R376: Returns event records. -/
  | deviceQueryEvents (page : BitVec 6) (arg : Word)
  /-- R352: Starts a context from a supplied record. -/
  | contextStart (page : BitVec 6) (rec : BitVec 1024)
  /-- R359: Force-resets a context with reason 2 and discards its record. -/
  | contextStop (page : BitVec 6) (ctx : Word)
  /-- R359: Force-resets a context with reason 4. -/
  | contextReset (page : BitVec 6) (ctx : Word)
  /-- R375: Submits a context's root kernel launch from the host. -/
  | rootLaunch (page : BitVec 6) (ctx : Word) (va : Long)
  /-- R375: Returns a context record and state. -/
  | contextQuery (page : BitVec 6) (ctx : Word)
  /-- R375: Sets a context's proxy quota at a home. -/
  | quotaSet (page : BitVec 6) (ctx home quota : Word)
  /-- R354: Writes one run-list entry. -/
  | runListEdit (page : BitVec 6) (entry : Word) (word : Long)
  /-- R375: Writes one page-table entry and invalidates cached translations. -/
  | mapCmd (page : BitVec 6) (ctx : Word) (va : Long) (level : Word) (entry : Long)
  /-- R377: Gives a shared region to the device. -/
  | handoverToDevice (page : BitVec 6) (ctx : Word) (va len : Long)
  /-- R377: Flushes and gives a shared region to the host. -/
  | handoverToHost (page : BitVec 6) (ctx : Word) (va len : Long)
  /-- R368: Replaces one layout record whole. -/
  | layoutWrite (page : BitVec 6) (ctx handle : Word) (rec : BitVec 512)
  /-- R368: Clears a layout record's valid bit. -/
  | layoutInvalidate (page : BitVec 6) (ctx handle : Word)
  /-- R379: Binds a host-visible window with staging and a version counter. -/
  | windowBind (page : BitVec 6) (ctx window : Word) (va len host counter : Long)
  /-- R380: Unbinds a window after in-flight pubs finish. -/
  | windowUnbind (page : BitVec 6) (ctx window : Word)
  /-- R340: Returns the last 64 fault records of a context. -/
  | faultQuery (page : BitVec 6) (ctx : Word)
  /-- R443: Verifies a staged firmware image and returns its measurement. -/
  | imageVerify (page : BitVec 6) (image len sig : Long)
  /-- R444: Activates the verified image and restarts firmware. -/
  | imageActivate (page : BitVec 6)
  /-- R445: Returns a signed attestation report for a nonce. -/
  | attestationReport (page : BitVec 6) (nonce : BitVec 256)
  /-- R445: Returns the device identity public key. -/
  | identityPublicKey (page : BitVec 6)
  /-- R383: Sets a context breakpoint. -/
  | breakpointSet (page : BitVec 6) (ctx index enable : Word) (pos : Long)
  /-- R383: Sets a context watchpoint. -/
  | watchpointSet (page : BitVec 6) (ctx index kind : Word) (va : Long) (len : Word)
  /-- R389: Stops named workgroups as an asynchronous debug stop. -/
  | debugHalt (page : BitVec 6) (target : Long) (all : Bool)
  /-- R341: Resumes a debug-stopped workgroup. -/
  | debugResume (page : BitVec 6) (target : Long)
  /-- R390: Advances one thread by one instruction while others are held. -/
  | stepCmd (page : BitVec 6) (target : Long) (group lane : Word)
  /-- R388: Lists debug-stopped workgroups with fault records. -/
  | listStopped (page : BitVec 6) (ctx : Word)
  /-- R32: Reads one item of a halted thread's state. -/
  | readThread (page : BitVec 6) (target : Long) (group lane item : Word)
  /-- R389: Writes a register, predicate or return-stack entry of a halted thread. -/
  | writeThread (page : BitVec 6) (target : Long) (group lane item : Word) (value : Long)
  /-- R389: Reads barrier, ring, matrix, skid or log state of a workgroup. -/
  | readWorkgroup (page : BitVec 6) (target : Long) (item : Word)
  /-- R395: Rolls back or runs forward a workgroup to a retired-work count. -/
  | preciseStop (page : BitVec 6) (target interval count : Long)
  /-- R416: Arms or disarms instruction trace. -/
  | traceArm (page : BitVec 6) (ctx : Word) (core enable : BitVec 16) (size : Word) (base : Long)
  /-- R403: Arms or disarms stall-reason sampling. -/
  | samplerArm (page : BitVec 6) (rec : BitVec 224)
  /-- R407: Arms a causal trial for a context. -/
  | trialArm (page : BitVec 6) (rec : BitVec 224)
  /-- R416: Returns trace bytes written and lost per core. -/
  | queryTraceBytes (page : BitVec 6) (ctx : Word)
  /-- R406: Returns sample written and dropped counts per core. -/
  | querySampleCounts (page : BitVec 6) (ctx : Word)
  /-- R409: Returns the context's progress counters. -/
  | queryProgressCounters (page : BitVec 6) (ctx : Word)
  /-- R407: Returns trial start and end counters and held cycles. -/
  | queryTrialCounters (page : BitVec 6) (ctx : Word)
  /-- R415: Returns context and device idle energy accounts. -/
  | queryEnergyAccounts (page : BitVec 6) (ctx : Word)
  /-- R380: The host invalidates an ATS translation the device holds for a bound window, so the device must request it again at the next pub. -/
  | atsTranslationInvalidate (ctx window : Nat)
  deriving DecidableEq, Repr

end Sys2Proof
end

