-- ==== Sys2Proof/Machine/State.lean ====
section
/-! DEFINITION. The state of the machine as plain data: every piece of state that spec/ names (INVENTORY.md, '## State'), the
model's own fields (agenda, timers, cur, fresh: assumption log 3), the faults and refusals, and the state after reset. -/

namespace Sys2Proof.Machine

/-- R15: a register lane, 32 bits and its proxy tag (under replay the home mark of R288). -/
structure Reg where
  val : Word := 0
  tag : Bool := false
  deriving DecidableEq, Repr

/-- R15-R28, R42, R133, R343, R384: the state of one thread; came tells that a control transfer brought it to its position (R400). -/
structure Thread where
  regs : Tbl Reg := []
  preds : BitVec 8 := 0
  pos : Long := 0
  depth : Nat := 0
  lp : Tbl Byte := []
  exited : Bool := false
  entering : Bool := false
  came : Bool := false
  stall : Nat := 0
  overdue : Nat := 0
  skip : Bool := false
  inHandler : Bool := false
  resume : Long := 0
  fpflags : BitVec 5 := 0
  fpctl : BitVec 5 := 0
  chk : Bool := false
  tcause : Word := 0
  tlanes : Word := 0
  tpc : Long := 0
  tvalue : Long := 0
  amsrc : Word := 0
  pscratch : Long := 0
  path : Nat := 0
  since : Nat := 0
  deriving DecidableEq, Repr

/-- R349, R350: a codeword that holds an uncorrectable error, named as Table 20-6 names it: unit, unit index, location
(assumption log 46). -/
structure Bad where
  unit : Nat
  index : Nat
  loc : Nat
  deriving DecidableEq, Repr

/-- R287, R350: an operand lane that failed: its register (0x200: a window word), the proxy word it held, and the uncorrectable codeword that its
crossing or its read at issue met (none: its generation check failed). -/
structure CrossFail where
  lane : Nat
  reg : Nat
  word : Word := 0
  bad : Option Bad := none
  deriving DecidableEq, Repr

/-- The issue of one path of one group: which core and slot (32 × partition + slot), path 0 (A) or 1 (B), the threads of the
path, their code position, the operand values captured at issue (key lane × 512 + select), how often the instruction has waited
already (phase), the numbers it carries from one phase to the next, the proxy words that stay at a home and are held as read (R274),
and the result slots it took at issue (R277): lane, home, number, generation. -/
structure Issue where
  core : Nat := 0
  slot : Nat := 0
  path : Nat := 0
  lanes : BitVec 32 := 0
  pos : Long := 0
  caps : Tbl Word := []
  phase : Nat := 0
  nums : List Nat := []
  held : List Word := []
  slots : List (Nat × Nat × Nat × Nat) := []
  failed : List CrossFail := []
  deriving DecidableEq, Repr

/-- The events that a condition on the state brings about: the scheduler lays them out when the condition holds. -/
inductive Poll where
  | timeBaseTick
  | resolve (core part : Nat)
  | issueCycle (core part : Nat)
  | slotLeave (core : Nat)
  | lecternAnnounce (die : Nat)
  | launchStart (launch : Nat)
  | teamPlace (launch : Nat)
  | workgroupComplete (wg : Nat)
  | launchComplete (launch : Nat)
  | workgroupSettle (wg : Nat)
  | mmaStart (core : Nat)
  | copyMove (core : Nat)
  | groupLower (core slot : Nat)
  | groupRaise (core slot : Nat)
  | forcedLower (core : Nat)
  | workgroupResume (wg : Nat)
  | urgentPreempt (die : Nat)
  | switchComplete (die : Nat)
  | energyClose (kind n : Nat)
  | powerLimit
  | powerRecovery
  | thermal (column : Nat)
  | wear (die column : Nat)
  deriving DecidableEq, Repr

/-- What the agenda holds: an event, an event of the scheduler's own, the firmware command a kick page started, the laying out of a tick, an
issue that fetches and decodes, or the continuation of an instruction that waited. -/
inductive Act where
  | event (i : Instr)
  | poll (p : Poll)
  | command (page : Nat)
  | plan
  | issue (k : Issue)
  | resume (k : Issue) (i : Instr)
  deriving DecidableEq, Repr

/-- An event under way: due at a tick (clk 0) or at a cycle of core clk - 1 (R10, R437). -/
structure Timer where
  clk : Nat := 0
  due : Nat := 0
  ev : Instr
  deriving DecidableEq, Repr

/-- Table 08-4 and Table 08-1: what ends a wait. -/
inductive WaitCond where
  /-- the operations numbered are no longer outstanding, and the mirrors have reached the rounds (context, region id, round) of R271 -/
  | gone (ids : List Nat) (rounds : List (Nat × Nat × Word))
  /-- R147: another thread issues, or the column cycle comes -/
  | yield (due : Nat)
  /-- the column cycle comes -/
  | cycle (due : Nat)
  /-- R148: barrier k has completed more often than gen -/
  | barGen (k gen : Nat)
  /-- R149: core set has been released more often than gen -/
  | bartGen (set gen : Nat)
  /-- R150 -/
  | token (k n : Nat)
  /-- R185 -/
  | packets
  /-- R309: the copy slots of the mask are idle -/
  | copies (mask : Nat)
  /-- R309: the slot at the pop index of ring j is full -/
  | ringFull (j : Nat)
  /-- R309: slot m of ring j is in state st -/
  | bufState (j m st : Nat)
  /-- R324: the claim is first of its kind and a run of free units exists -/
  | claim (id : Nat)
  /-- R325: the units can be given back -/
  | release (kind base n : Nat)
  /-- R294, R276: the lease holds n numbers, or its request was refused -/
  | lease (home n : Nat)
  /-- R290: a lease holds a number that a lane of ld.p needs (home, count), or a request was refused -/
  | leases (needs : List (Nat × Nat))
  /-- R177: the context holds fewer than 256 accepted launches -/
  | launches
  /-- R347: ended by PAGE_FAULT_RESOLVE or PAGE_FAULT_TIMEOUT; va is what is not translated -/
  | page (va : Long)
  /-- R36, R39: the line is being fetched again -/
  | refetch (launch line : Nat)
  /-- R344, R282: the threads are only held until the result is written -/
  | hold (id : Nat)
  /-- ended by the event that names it (an answer from a home, the host or a submission) -/
  | event
  deriving DecidableEq, Repr

/-- Table 08-4: threads that wait, why, and the row of Table 08-1 the wait ranks as. -/
structure Waiting where
  id : Nat
  iss : Issue
  instr : Instr
  cond : WaitCond
  row : Nat
  deriving DecidableEq, Repr

/-- R281, R287: one operand lane that crosses: home, slot and generation, whether the value has arrived, how it is counted (0 implicit,
1 explicit, 2 auto), and what its home found: a stale generation, or an uncorrectable slot. -/
structure XOp where
  lane : Nat
  reg : Nat
  word : Word
  count : Nat
  got : Bool := false
  stale : Bool := false
  bad : Option Bad := none
  deriving DecidableEq, Repr

/-- R282: an instruction whose crossing values have not all arrived. -/
structure Xing where
  id : Nat
  iss : Issue
  instr : Instr
  ops : List XOp
  deriving DecidableEq, Repr

/-- R400: an issue as a SYNC names it: its position, the threads that stood there, and sr.rwc. -/
structure Traced where
  pos : Long := 0
  lanes : Word := 0
  rwc : Nat := 0
  deriving DecidableEq, Repr

/-- R399, R400: what the trace of a group has reached: its last issue, and the one that the RUN in hand goes on from. -/
structure TraceSt where
  synced : Bool := false
  next : Long := 0
  lanes : Word := 0
  run : Nat := 0
  count : Nat := 0
  lost : Bool := false
  last : Traced := {}
  start : Traced := {}
  deriving DecidableEq, Repr

/-- R157: a mask register that has crossed for the gathering at a position: what it held, in which lane and register, or how it failed. -/
structure MaskVal where
  lane : Nat
  pos : Long
  reg : Nat
  val : Word
  fail : Option CrossFail := none
  deriving DecidableEq, Repr

/-- R20, R129, R139, R157, R336: a group in a slot of a core; masks are the mask registers that have crossed for a gathering, asked the
homes whose leases it has asked for a need under row 10 of Table 08-1 (R276), chest 0 in the register file, 1 lowered, 2 being raised, 3
being lowered (to be done at raiseAt), entered that it is lowered since it entered its slot (R140), sunk that it has been lowered, or entered
its slot lowered, and has not been eligible since (R31, R140), levels the predicted wait of each access it waits on as its last thread became ineligible (R139), readySince one more than the cycle since which it is blocked from being
raised (R140), stopCycle the cycle of its core in which it stopped
(R32). -/
structure Group where
  wg : Nat := 0
  idx : Nat := 0
  n : Nat := 8
  threads : List Thread := []
  tokens : Tbl Nat := []
  age : Nat := 0
  chest : Nat := 0
  raiseAt : Nat := 0
  forced : Bool := false
  entered : Bool := false
  readySince : Nat := 0
  held : Bool := false
  waits : List Waiting := []
  xings : List Xing := []
  masks : List MaskVal := []
  sunk : Bool := false
  levels : Option (Tbl Nat) := none
  lastA : Long := 0
  skid : Nat := 0
  ownFault : Nat := 0
  stopped : Bool := false
  stopKind : Nat := 1
  stopCycle : Nat := 0
  debt : Nat := 0
  trace : TraceSt := {}
  asked : List Nat := []
  reason : Nat := 1
  lead : Long := 0
  leadN : Nat := 0
  deriving DecidableEq, Repr

/-- A fault or stop as Table 20-3 records it. -/
structure HaltRec where
  code : Nat := 0
  kind : Nat := 0
  group : Nat := 0xFF
  pathB : Bool := false
  lanes : Word := 0
  pos : Long := 0
  tvalue : Long := 0
  time : Nat := 0
  mc : Word := 0xFFFFFFFF
  deriving DecidableEq, Repr

/-- R148: one barrier: arrivals, and how often it has completed. -/
structure Bar where
  arrived : Nat := 0
  gen : Nat := 0
  closing : Bool := false
  deriving DecidableEq, Repr

/-- R298: one slice of a collective copy. -/
structure Slice where
  group : Nat
  lane : Nat
  pos : Long
  empty : Bool
  handle : Nat
  org : List Word
  dst : Word
  part : Word
  dk : Nat
  deriving DecidableEq, Repr

/-- R297, R302: a copy slot: 0 idle, 1 gathering, 2 queued, 3 running; when assembled, its layout record, rows and the destination; order is the
cycle of its cycle of its assembly, then its place in the order of starts, ready the cycle from which it may start or its next data is there, done the elements written, num its
number, drawn at assembly, and pages the translations it was assembled with (R366). -/
structure CopySlot where
  st : Nat := 0
  slices : List Slice := []
  layout : BitVec 512 := 0
  order : Nat := 0
  dest : Nat := 0
  ringSlot : Nat := 0
  taken : Bool := false
  parkedAt : Option Nat := none
  done : Nat := 0
  ready : Nat := 0
  num : Nat := 0
  pages : Tbl (Nat × Nat) := []
  deriving DecidableEq, Repr

/-- Table 18-3: a staging ring; slot states 0 free, 1 filling, 2 full, 3 draining, and which slots buf.set filled. -/
structure Ring where
  inited : Bool := false
  control : Long := 0
  slots : Tbl Nat := []
  bySet : List Nat := []
  free : Nat := 0
  filled : Nat := 0
  fill : Nat := 0
  pop : Nat := 0
  rel : Nat := 0
  deriving DecidableEq, Repr

/-- R194, R195, Table 12-2: a cache block; a region tag is context, region slot and fill round; lru is larger the later the last
access. -/
structure Block where
  frame : Nat
  lo : Nat
  hi : Nat
  prio : Nat := 2
  filler : Nat := 0
  train : Bool := true
  touched : Nat := 0
  replica : Bool := false
  tag : Option (Nat × Nat × Word) := none
  dirty : Bool := false
  data : List Byte := []
  lru : Nat := 0
  deriving DecidableEq, Repr

/-- R303: a range-lock entry: a destination entry locks scratchpad bytes of a workgroup, a source entry locks a span of VAs. -/
structure Lock where
  owner : Nat
  slot : Nat
  dest : Bool
  base : Nat
  len : Nat
  deriving DecidableEq, Repr

/-- Table 19-1: an operand-memory slot: 0 free, 1 claimed, 2 loading, 3 ready; version counts the loads it has received. -/
structure OpmSlot where
  st : Nat := 0
  holder : Nat := 0
  version : Nat := 0
  waiting : Nat := 0
  data : Tbl Byte := []
  deriving DecidableEq, Repr

/-- R311, R313: an accumulator bank; elements by 128 × row + column. -/
structure Bank where
  held : Bool := false
  holder : Nat := 0
  elems : Tbl Word := []
  deriving DecidableEq, Repr

/-- R318-R320: an operation of the matrix engine: kind 0 mma, an entry of the queue of 8, 1 acc.clr, 2 acc.ld, from its acceptance until it is
complete; slots with the version each is bound to; due the cycle of its core in which a running mma completes. -/
structure MmaOp where
  id : Nat
  kind : Nat
  wg : Nat
  slot : Nat
  lane : Nat
  banks : List Nat
  control : Word := 0
  aslots : List (Nat × Nat) := []
  bslots : List (Nat × Nat) := []
  sa : List Word := []
  sb : List Word := []
  block : List Byte := []
  running : Bool := false
  due : Nat := 0
  deriving DecidableEq, Repr

/-- R324: a waiting opm.claim: kind 0 slot, 1 acc. -/
structure Claim where
  id : Nat
  wg : Nat
  kind : Nat
  n : Nat
  deriving DecidableEq, Repr

/-- What a lane of a result writes: a register and its tag, or a predicate. -/
structure LaneWrite where
  lane : Nat
  reg : Nat
  val : Word
  tag : Bool := false
  deriving DecidableEq, Repr

/-- R393: what a checkpoint or a step of the history keeps of a workgroup: its count, the model's counter and the length of the
load-value log at that time, and the workgroup's own state (assumption log 12). -/
structure Snap where
  rwc : Nat := 0
  firsts : List (Nat × Nat × Nat) := []
  fresh : Nat := 0
  loads : Nat := 0
  groups : Tbl Group := []
  sp : Tbl Byte := []
  bars : Tbl Bar := []
  copies : Tbl CopySlot := []
  rings : Tbl Ring := []
  opm : Tbl OpmSlot := []
  banks : Tbl Bank := []
  mq : List MmaOp := []
  deriving DecidableEq, Repr

/-- R394: one entry of the undo log: the count at which it was written, the address, before- and after-image. -/
structure Undo where
  rwc : Nat
  pa : Nat
  before : Byte
  after : Byte
  deriving DecidableEq, Repr

/-- R396 (assumption log 12): a result as it was written: the count then, its number, its slot, and what it wrote. -/
structure Landed where
  rwc : Nat
  id : Nat
  slot : Nat
  tok : Nat
  writes : List LaneWrite
  preds : List (Nat × Nat × Bool)
  flags : List (Nat × BitVec 5)
  deriving DecidableEq, Repr

/-- R391-R394: checkpoint image, undo log, load-value log, schedule log; the units whose first write in the interval has saved their prior contents (R393): a
group-register by group and number, a lane-private slice by group and lane, a scratchpad block, an operand-memory slot, a bank; and the states the interval has
passed through, with the results written in it and the faults a debugger has mended a thread after (assumption log 12). -/
structure Replay where
  firsts : List (Nat × Nat × Nat) := []
  faults : List (Nat × HaltRec) := []
  image : Snap := {}
  undo : List Undo := []
  loads : List Long := []
  sched : List (Nat × Nat) := []
  hist : List Snap := []
  lands : List Landed := []
  deriving DecidableEq, Repr

/-- R178-R180, R185, R337, R358: a workgroup: phase 0 resident, 1 parked, with the bytes it takes in the save area; left are the last position and the skid count of each group that has
left its slot (Table 20-2); rwcStart is its count as the present cycle began (Table 24-3). -/
structure Workgroup where
  launch : Nat := 0
  core : Nat := 0
  index : Word := 0
  team : Nat := 0
  gcount : Nat := 1
  slots : List Nat := []
  spBase : Nat := 0
  spSize : Nat := 0
  sp : Tbl Byte := []
  handler : Bool := false
  phase : Nat := 0
  saved : Tbl Group := []
  savedOpm : Tbl OpmSlot := []
  savedBanks : Tbl Bank := []
  savedMq : List MmaOp := []
  savedClaims : List Claim := []
  saveLen : Nat := 0
  rwc : Nat := 0
  ival : Word := 0
  rwcStart : Nat := 0
  bars : Tbl Bar := []
  copies : Tbl CopySlot := []
  rings : Tbl Ring := []
  packets : Nat := 0
  left : Tbl (Nat × Nat) := []
  halt : Option HaltRec := none
  reach : BitVec 4 := 0
  settled : Bool := false
  step : Option (Nat × Nat) := none
  stepDone : Option (Nat × Nat) := none
  stopAt : Option Nat := none
  replay : Replay := {}
  deriving DecidableEq, Repr

/-- R184, R186: a packet of an active message. -/
structure Packet where
  handler : Nat
  words : List Word
  sender : Nat
  senderWg : Nat
  arrived : Nat := 0
  rounds : List (Nat × Nat × Word) := []
  deriving DecidableEq, Repr

/-- R183: a receive ring of a launch on a core. -/
structure RxRing where
  cap : Nat := 0
  base : Nat := 0
  packets : List Packet := []
  spawned : List (Nat × List Nat) := []
  saved : Bool := false
  deriving DecidableEq, Repr

/-- R276: a lease: numbers with generations, an outstanding request (numbers asked), the refused mark. -/
structure Lease where
  nums : List (Nat × Nat) := []
  asked : Nat := 0
  refused : Bool := false
  deriving DecidableEq, Repr

/-- R284: released numbers of one home with the context of each, and the cycle of the oldest. -/
structure RelBatch where
  nums : List (Nat × Nat) := []
  oldest : Nat := 0
  deriving DecidableEq, Repr

/-- R403-R406: the sampler of a context on a core; on is false once it is disarmed. -/
structure Sampler where
  on : Bool := true
  mask : Nat
  atMark : Bool
  stopEmpty : Bool
  period : Nat
  capacity : Nat
  base : Nat
  size : Nat
  started : Bool := false
  seen : Bool := false
  next : Nat := 0
  last : Tbl Nat := []
  written : Nat := 0
  dropped : Nat := 0
  deriving DecidableEq, Repr

/-- R397-R401: the trace of a core; on is false once it is disarmed. -/
structure Trace where
  on : Bool := true
  ctx : Nat
  base : Nat
  size : Nat
  queue : List Byte := []
  written : Nat := 0
  lost : Nat := 0
  drop : Nat := 0
  deriving DecidableEq, Repr

/-- R36: a line that a core fetches again for the parity of one of its slots, or of its line word (5), and whether the second copy has come. -/
structure LineCopy where
  launch : Nat
  line : Nat
  slot : Nat
  got : Bool := false
  deriving DecidableEq, Repr

/-- A core and its column (R2, R311, R437); tags are the core sets it is a member of, by route tag (R179); consts are the lines of its
constant cache, and fetched the code lines it has fetched, with the cycle from which each is present (R48, R126); hits are the path issues of
the present cycle in the range of a trial, by group and context (R408); landed are the register lanes written in the present cycle, each with the
number of the result written (R51) (assumption log 1). -/
structure Core where
  l1 : List Block := []
  pred : Tbl Nat := []
  locks : List Lock := []
  opm : Tbl OpmSlot := []
  banks : Tbl Bank := []
  mq : List MmaOp := []
  claims : List Claim := []
  rings : Tbl RxRing := []
  leases : Tbl Lease := []
  rel : Tbl RelBatch := []
  lines : List LineCopy := []
  consts : List (Nat × Nat × Nat) := []
  fetched : List (Nat × Nat × Nat) := []
  hits : List (Nat × Nat × Nat) := []
  landed : Tbl Nat := []
  port : Tbl Nat := []
  cycles : Nat := 0
  point : Nat := 0
  cap : Nat := 0
  phase : Nat := 0
  stopped : Nat := 0
  ran : Bool := false
  samplers : Tbl Sampler := []
  trace : Option Trace := none
  issued : Tbl Nat := []
  occupied : Tbl Nat := []
  tags : Tbl Nat := []
  deriving DecidableEq, Repr

/-- R7: an item that waits at a die's lectern port; halts do not wait there. -/
inductive Item where
  /-- R263: a region of a context; an rnd.adv gives its result and lane, the activation of a region none -/
  | round (ctx slot lane : Nat) (id : Option Nat)
  /-- R204: the sequence number of a write -/
  | seqNo (n : Nat)
  /-- R357: a pre-emption of the context on the die that announces it -/
  | preempt (ctx : Nat)
  deriving DecidableEq, Repr

/-- R209: a gather entry: bytes by offset in the frame, contexts, the stores it holds, the last write, and how many bytes each launch has put
into it (R413). -/
structure Gather where
  bytes : Tbl Byte := []
  ctxs : BitVec 64 := 0
  causes : List Nat := []
  last : Nat := 0
  owners : List (Nat × Nat) := []
  deriving DecidableEq, Repr

/-- R355-R357: a die's scheduler: the entry and the context whose turn it is; 64 means none; the slice its turn began with. -/
structure Sched where
  entry : Nat := 64
  ctx : Nat := 64
  sliceEnd : Nat := 0
  draining : Bool := false
  drainAt : Nat := 0
  nextEntry : Nat := 64
  interrupted : Nat := 64
  remaining : Nat := 0
  slice : Nat := 0
  deriving DecidableEq, Repr

/-- A compute die; haltNext is the first tick that no halt announcement of the die has taken (R7) (assumption log 1). -/
structure Die where
  lect : List Item := []
  haltNext : Nat := 0
  seq : Nat := 0
  gather : Tbl Gather := []
  l2 : List Block := []
  replicas : Tbl (List Nat) := []
  ds : Tbl (Tbl Byte) := []
  sched : Sched := {}
  deriving DecidableEq, Repr

/-- Table 17-2: a sideboard slot: 0 free, 1 leased, 2 pending, 3 ready, 4 releasing. -/
structure SbSlot where
  st : Nat := 0
  gen : Nat := 0
  ctx : Nat := 0
  val : Word := 0
  full : Bool := false
  readers : Nat := 0
  deriving DecidableEq, Repr

/-- R276: a lease request a home holds. -/
structure LeaseReq where
  core : Nat
  ctx : Nat
  n : Nat
  due : Nat
  deriving DecidableEq, Repr

/-- R433, R434: a bus quiesced by a workgroup, and the last drive (connection, flat) with its end. -/
structure Quiesce where
  wg : Nat
  drive : Option (Nat × Bool) := none
  driveEnd : Nat := 0
  deriving DecidableEq, Repr

/-- R428, R429: a migration of a logical bank group; the bus to be retired at its end. -/
structure Migration where
  group : Nat
  target : Nat
  stripe : Nat
  retire : Option Nat
  deriving DecidableEq, Repr

/-- A stack with its home die (R3, R274, R418-R432); streak is the connection of the last corrections of a spare group of a bus, and how many fell on it
one after the other (R425) (assumption log 1). -/
structure Home where
  slots : Tbl SbSlot := []
  reqs : List LeaseReq := []
  vbrep : Tbl Word := []
  remap : Tbl Word := []
  bg : Tbl Nat := [(32, 1), (33, 1)]
  resOrder : List Nat := [32, 33]
  rotctl : Word := 0x29
  rotPtr : Nat := 0
  quiesce : Tbl Quiesce := []
  ended : List (Nat × Nat) := []
  beyond : List Nat := []
  streak : Tbl (Nat × Nat) := []
  testNext : Nat := 0
  testBus : Option Nat := none
  testEnd : Nat := 0
  mig : Option Migration := none
  retireQ : List Nat := []
  retiring : List (Nat × Nat) := []
  deriving DecidableEq, Repr

/-- Table 20-6: a machine-check record. -/
structure McRec where
  seq : Nat
  unit : Nat
  flags : Nat
  index : Nat
  location : Nat
  time : Nat
  ctx : Nat
  syndrome : Nat := 0
  deriving DecidableEq, Repr

/-- Table 22-7: an event record. -/
structure EvRec where
  kind : Nat
  link : Nat
  ctx : Nat
  arg : Nat
  addr : Nat
  time : Nat
  deriving DecidableEq, Repr

/-- R364, Table 22-6: a malformed-entry record. -/
structure BadEntry where
  ctx : Nat
  level : Nat
  va : Nat
  deriving DecidableEq, Repr

/-- R259-R264: a staleness region of a context, its counter, and the mirror every cache holds of it; id numbers its activation (R271). -/
structure Region where
  base : Nat
  len : Nat
  stack : Nat
  counter : Word := 0
  mirror : Word := 0
  users : List Nat := []
  announced : Bool := false
  id : Nat := 0
  deriving DecidableEq, Repr

/-- R383: a watchpoint; kinds bit 1 load, bit 2 store, bit 3 atomic. -/
structure Watch where
  kinds : Nat := 0
  base : Nat := 0
  len : Nat := 0
  deriving DecidableEq, Repr

/-- R407: a causal trial. -/
structure Trial where
  core : Nat
  delay : Nat
  lo : Nat
  hi : Nat
  ends : Nat
  deriving DecidableEq, Repr

/-- A kept fault record with its skid records (R340). -/
structure FaultKept where
  wg : Word
  core : Nat
  ctx : Nat
  ival : Word
  rwc : Nat
  halt : HaltRec
  skids : List (Nat × Nat × Nat × Nat)
  deriving DecidableEq, Repr

/-- R352, R353: a context: state 0 free, 1 started, 2 resetting; closing are the writes that the end of its reset waits for (R174, R360). -/
structure Ctx where
  st : Nat := 0
  priv : Bool := false
  debug : Bool := false
  replay : Bool := false
  pasid : Nat := 0
  root : Nat := 0
  save : Nat := 0
  saveSize : Nat := 0
  saveUsed : Nat := 0
  debugVA : Nat := 0
  layLen : Nat := 0
  layPA : Nat := 0
  ds : List Nat := []
  quota : List Nat := []
  ximp : Long := 0
  xexp : Long := 0
  xauto : Long := 0
  pauto : Long := 0
  regions : Tbl Region := []
  bps : Tbl Long := []
  wps : Tbl Watch := []
  progress : Tbl Long := []
  trial : Option Trial := none
  trialStart : Tbl Long := []
  trialEnd : Tbl Long := []
  trialHeld : Nat := 0
  faults : List FaultKept := []
  idle : Nat := 0
  reason : Nat := 0
  stopAfter : Bool := false
  resetCores : List Nat := []
  closing : Option (List Nat) := none
  deriving DecidableEq, Repr

/-- Table 11-2: the fields of a kernel record. -/
structure KRec where
  entry : Long := 0
  comp : Nat := 0
  waits : List Nat := []
  start : Nat := 0
  w : Nat := 1
  g : Nat := 1
  t : Nat := 1
  n : Nat := 8
  dieMask : Nat := 1
  sp : Nat := 0
  flags : Nat := 0
  routes : Nat := 0
  handVA : Nat := 0
  handN : Nat := 0
  traps : List Nat := []
  regVA : Nat := 0
  regN : Nat := 0
  windows : List (Nat × Nat) := []
  deriving DecidableEq, Repr

/-- R173-R182, R340: a launch: phase 0 accepted, 1 started, 2 ended; snap is the memory as its first workgroup found it (R24,
R37); redo are the teams whose reservations a pre-emption released (R357); closing are the writes that its final status waits for (R174),
ending that status and the second word. -/
structure Launch where
  ctx : Nat := 0
  number : Nat := 0
  kr : KRec := {}
  timed : Bool := false
  phase : Nat := 0
  released : Bool := true
  nextTeam : Nat := 0
  lastQuad : Option Nat := none
  began : Nat := 0
  begun : Bool := false
  late : Bool := false
  energy : Nat := 0
  fault : Option FaultKept := none
  halting : Bool := false
  regions : List Nat := []
  snap : List Host.Cell := []
  die : Nat := 0
  rounds : List (Nat × Nat × Word) := []
  redo : List Nat := []
  closing : Option (List Nat) := none
  ending : Nat × Nat := (1, 0)
  deriving DecidableEq, Repr

/-- R173, R175, R176, R259: a submitted record not yet accepted: context, record VA, launch.at, the die it was submitted from,
the instruction that waits for it, and what the submission orders before it (Table 14-3); widen: the writes its thread may have observed are still to be found (R240). -/
structure Submit where
  ctx : Nat
  va : Nat
  timed : Bool
  die : Nat
  op : Option Nat
  after : List Nat := []
  widen : Bool := false
  deriving DecidableEq, Repr

/-- R149, R179: a core set of a route tag: the launch, the tag, its instance (team or die number), arrivals, releases. -/
structure BartSet where
  launch : Nat
  tag : Nat
  inst : Nat
  arrived : Nat := 0
  gen : Nat := 0
  closing : Bool := false
  relAt : Nat := 0
  deriving DecidableEq, Repr

/-- R51, R230: a result not yet written: kind 0 fixed, 1 special, 2 group-wide, 3 load or other completion. srs are special registers it
writes (lane, index, value: R50). traps are the lanes that fault (R87) with the union of their exceptions; missing are bytes not yet arrived (key lane × 16 + byte, PA), bad
the lowest lane that received an uncorrectable codeword (R231), frames the entries it occupies of the core's outstanding requests (R230). -/
structure Pend where
  core : Nat
  slot : Nat
  kind : Nat
  path : Nat
  lanes : BitVec 32
  act : BitVec 32 := 0
  pos : Long
  tok : Nat := 0
  due : Nat := 0
  writes : List LaneWrite := []
  preds : List (Nat × Nat × Bool) := []
  flags : List (Nat × BitVec 5) := []
  srs : List (Nat × Nat × Long) := []
  traps : BitVec 32 := 0
  exc : BitVec 5 := 0
  bad : Option (Nat × Bad) := none
  frames : Nat := 0
  fpu : Bool := false
  size : Nat := 0
  sx : Bool := false
  dst : Nat := 0x1FE
  bytes : Tbl Byte := []
  missing : List (Nat × Nat) := []
  eas : List (Nat × Long) := []
  wait : Nat := 0
  overtaken : Bool := false
  deriving DecidableEq, Repr

/-- R196, R199: a fill under way to the L1 of a core; bound is the bound and the .flag of the ld.b it is for (R266), skip
the words whose L1 copy failed the bound (R267). -/
structure Fill where
  core : Nat
  frame : Nat
  lo : Nat
  hi : Nat
  hint : Nat
  filler : Nat
  train : Bool
  install : Bool
  replica : Bool
  tag : Option (Nat × Nat × Word)
  pend : Option Nat
  ctx : Nat
  bound : Option (Nat × Bool) := none
  skip : BitVec 64 := 0
  deriving DecidableEq, Repr

/-- What a message does at its home slice. -/
inductive MsgKind where
  /-- a store or a flushed gather entry -/
  | write
  /-- R224: one lane of atom or red: operation, mode, size in bytes, operand and swap value, lane, and the result it fills -/
  | atomic (op mode size : Nat) (src swp : Long) (lane : Nat) (pend : Option Nat)
  /-- R228, R263: one lane of rnd.adv: the region and the result it fills -/
  | round (slot lane pend : Nat)
  /-- R220, R223: a store of proxy data to a host-window page: the window and the VA at which its home stages it -/
  | stage (w va : Nat)
  deriving DecidableEq, Repr

/-- R203-R209, R224: a write on its way to its home slice: where it comes from, its bytes, the messages it comes after, the stores it
carries (causes), the result it completes, a proxy operand, its cache hint, and sr.rwc, lane and position at its issue. held tells that it
is not yet performed at its L1 (a release, and a store behind one of its own thread that is not), atHome that its home slice is where it
is first performed (Table 14-2); overhead is the time of Table 15-1 it has still to take, stamp the order of performance at the L1, ctxs the contexts
whose bytes it carries, owners the launches of a gather entry's bytes with their counts (R413), widen that it is a release that has still to find
what its thread may have observed (R240). -/
structure Msg where
  core : Nat
  die : Nat
  slot : Nat
  lanes : BitVec 32
  wg : Nat
  ctx : Nat
  pa : Nat
  bytes : List (Nat × Byte)
  kind : MsgKind
  readMostly : Bool := false
  acked : List Nat := []
  collapsing : Bool := false
  after : List Nat := []
  causes : List Nat := []
  pend : Option Nat := none
  proxy : Option Word := none
  rwc : Nat := 0
  hint : Nat := 0
  held : Bool := false
  atHome : Bool := false
  scope : Nat := 0
  overhead : Nat := 0
  stamp : Nat := 0
  lane : Nat := 0
  pos : Long := 0
  ctxs : BitVec 64 := 0
  owners : List (Nat × Nat) := []
  widen : Bool := false
  deriving DecidableEq, Repr

/-- R204: an invalidation on its way to the L1 of a core; die is the home that sequenced the write, due the tick in which its announced
sequence number arrives, ctxs the contexts that wrote, mostly that the write was to a read-mostly page. -/
structure Inval where
  core : Nat
  die : Nat
  seq : Nat
  frame : Nat
  mask : BitVec 64
  causes : List Nat
  due : Option Nat := none
  ctxs : BitVec 64 := 0
  mostly : Bool := false
  deriving DecidableEq, Repr

/-- R279, R280: an argument of a home operation: a plain word or a proxy word. -/
inductive HArg where
  | plain (w : Word)
  | slot (w : Word)
  deriving DecidableEq, Repr

/-- R280: an operation a home has not executed: the home stack, the result slot (none for a store), the instruction, the
arguments, the kernel's flush bits, and the instruction and lane it came from. -/
structure HomeOp where
  stack : Nat
  res : Option Nat
  instr : Instr
  args : List HArg
  flags : Nat
  ctx : Nat
  wg : Nat
  slot : Nat
  core : Nat
  lane : Nat
  pos : Long
  msg : Option Nat := none
  elem : Option Nat := none
  after : List Nat := []
  deriving DecidableEq, Repr

/-- R184: a packet on its way to a ring: launch, target core, the sending instruction, whether it is a release (am.send.rel), and what it
comes after; widen as for a submission. -/
structure Sent where
  launch : Nat
  core : Nat
  slot : Nat
  lane : Nat
  packet : Packet
  op : Nat
  rel : Bool := false
  prev : List Nat
  widen : Bool := false
  deriving DecidableEq, Repr

/-- R212: one direction of a settle: its request and response buffers and the escape buffer, packet by packet (source, destination, class, the tick it came to the head) (assumption log 30). -/
structure Settle where
  queue : List (Nat × Nat × Nat × Nat) := []
  escape : List (Nat × Nat × Nat × Nat) := []
  deriving DecidableEq, Repr

/-- Table 22-3: a kick page; code0, flags0, len0 and args0 are what a command was taken with (R373), taken and latchedAt the places in the order of arrival
of its sequence write and of one that is latched (R374); undo, stops and keep are what a time-out takes back (R375): entries written, halts made, and the
halt record of a workgroup that was let run. -/
structure Kick where
  seq : Nat := 0
  code : Nat := 0
  flags : Nat := 0
  argLen : Nat := 0
  args : Tbl Byte := []
  done : Nat := 0
  status : Nat := 0
  resLen : Nat := 0
  result : List Byte := []
  running : Bool := false
  phase : Nat := 0
  irq : Bool := false
  taken : Nat := 0
  args0 : List Byte := []
  code0 : Nat := 0
  flags0 : Nat := 0
  len0 : Nat := 0
  latched : Option Nat := none
  latchedAt : Nat := 0
  undo : List (Nat × Nat × Nat) := []
  stops : List (Nat × HaltRec) := []
  keep : Option HaltRec := none
  deriving DecidableEq, Repr

/-- R370, R379, R380: a host-visible window, with the PASID that its requests carry: staged bytes by die × 2^26 + offset. -/
structure Window where
  pasid : Nat := 0
  va : Nat
  len : Nat
  host : Nat
  counter : Nat
  version : Long := 0
  staged : Tbl Byte := []
  held : Bool := true
  busy : Nat := 0
  deriving DecidableEq, Repr

/-- R443, R444: firmware: the verified image, the running image and the fused minimum; none for the running image means the one
the device was reset with, whose values Config gives. -/
structure Firmware where
  verified : Option (BitVec 512 × Word × Long) := none
  running : Option (BitVec 512 × Word × Long) := none
  fused : Option Word := none
  deriving DecidableEq, Repr

/-- The state of the machine (assumption log 1). -/
structure State where
  agenda : List Act := []
  timers : List Timer := []
  cur : Issue := {}
  fresh : Nat := 0
  tick : Nat := 0
  mem : List Host.Cell := []
  hostMem : List Host.Cell := []
  cores : Tbl Core := []
  groups : Tbl Group := []
  wgs : Tbl Workgroup := []
  launches : Tbl Launch := []
  submits : Tbl Submit := []
  bsets : Tbl BartSet := []
  dies : Tbl Die := []
  homes : Tbl Home := []
  ctxs : Tbl Ctx := []
  pends : Tbl Pend := []
  fills : Tbl Fill := []
  msgs : Tbl Msg := []
  invals : List Inval := []
  homeOps : Tbl HomeOp := []
  sent : Tbl Sent := []
  settles : Tbl Settle := []
  runList : Tbl Long := []
  kicks : Tbl Kick := []
  windows : Tbl Window := []
  msix : BitVec 64 := 0
  mclog : List McRec := []
  mcNext : Nat := 0
  evlog : List EvRec := []
  evLost : Nat := 0
  malformed : List BadEntry := []
  corrected : Tbl Nat := []
  lowered : List Nat := []
  powerNext : List Nat := []
  thermalHold : Bool := false
  thermalAt : Tbl Nat := []
  junction : Tbl Nat := []
  uncore : Tbl Nat := []
  wear : Tbl Word := []
  idle : Nat := 0
  metered : Tbl (Tbl Nat) := []
  spent : Tbl (List (Nat × Nat)) := []
  fw : Firmware := {}
  bad : List Bad := []
  deriving DecidableEq, Repr

/-- Why a step stops. Everything the spec calls a fault is a next state of this model (R332); this one is the model's own. -/
inductive Fault where
  /-- Raised by step when the agenda names an issue of a slot that holds no group: the machine's own scheduler never lays such an
  item out. Safe: the machine stops where no hardware step is described. -/
  | issueWithoutGroup
  deriving DecidableEq, Repr

/-- Why an instruction has no meaning. -/
inductive Refusal where
  /-- Raised by the arm of an instruction that is not modelled. Safe: nothing is claimed about it. -/
  | notModelled (mnemonic : String)
  deriving DecidableEq, Repr

/-- The machine right after device reset (R422): no context, no work, every table empty; INVENTORY.md lists each value (assumption log 1). -/
def State.reset : State := {}

end Sys2Proof.Machine
end

