-- ==== Sys2Proof/Machine/Table.lean ====
section
/-! DEFINITION. Tables by number in their sorted form, and bytes in memory: the one place where byte order is decided (R12). -/

namespace Sys2Proof.Machine

variable {α : Type}

/-- The entry of a number. -/
def tblFind (t : Tbl α) (k : Nat) : Option α :=
  match t with
  | [] => none
  | (j, x) :: r => if j = k then some x else tblFind r k

/-- The entry of a number, or d where the table lists none. -/
def tblGet (d : α) (t : Tbl α) (k : Nat) : α := (tblFind t k).getD d

/-- The table with the entry of k set, in its sorted place. -/
def tblPut (t : Tbl α) (k : Nat) (x : α) : Tbl α :=
  match t with
  | [] => [(k, x)]
  | (j, y) :: r => if k < j then (k, x) :: (j, y) :: r else if j = k then (k, x) :: r else (j, y) :: tblPut r k x

/-- The table without the entry of k. -/
def tblDel (t : Tbl α) (k : Nat) : Tbl α := t.filter (fun p => p.1 ≠ k)

/-- The table with the entry of k set; an entry equal to the default d is not listed, so equal contents are equal tables. -/
def tblSet [DecidableEq α] (d : α) (t : Tbl α) (k : Nat) (x : α) : Tbl α := if x = d then tblDel t k else tblPut t k x

/-- Keys strictly rising. -/
def tblSorted (t : Tbl α) : Bool :=
  match t with
  | [] => true
  | [_] => true
  | (j, _) :: (k, y) :: r => j < k && tblSorted ((k, y) :: r)

/-- R193: the canonical form of memory: addresses strictly rising, no entry equal to what an unlisted address reads as. -/
def Memory.wf (m : List Host.Cell) : Bool := tblSorted m && m.all (fun c => c.2 ≠ 0)

/-- What an unlisted byte of memory reads as (assumption log 2). -/
def Memory.unlisted : Byte := 0

/-- One byte of memory (assumption log 2). -/
def memGet (m : List Host.Cell) (a : Nat) : Byte := tblGet Memory.unlisted m a

/-- Memory with one byte written. -/
def memSet (m : List Host.Cell) (a : Nat) (v : Byte) : List Host.Cell := tblSet Memory.unlisted m a v

/-- Memory with a list of bytes written, in order. -/
def memSetAll (m : List Host.Cell) (l : List (Nat × Byte)) : List Host.Cell := l.foldl (fun m p => memSet m p.1 p.2) m

/-- R12: the number whose bytes, lowest first, are l. -/
def leNat (l : List Byte) : Nat :=
  match l with
  | [] => 0
  | b :: r => b.toNat + 256 * leNat r

/-- R12: the n bytes of a number, lowest first. -/
def leBytes (n x : Nat) : List Byte :=
  match n with
  | 0 => []
  | k + 1 => BitVec.ofNat 8 x :: leBytes k (x / 256)

/-- n bytes of memory from a. -/
def memBytes (m : List Host.Cell) (a n : Nat) : List Byte := (List.range n).map (fun i => memGet m (a + i))

/-- R12: the little-endian number in n bytes of memory from a. -/
def memNat (m : List Host.Cell) (a n : Nat) : Nat := leNat (memBytes m a n)

/-- A list of bytes with the addresses they go to from a. -/
def placed (a : Nat) (l : List Byte) : List (Nat × Byte) :=
  match l with
  | [] => []
  | b :: r => (a, b) :: placed (a + 1) r

/-- n bytes of a sparse byte table from a. -/
def tabBytes (t : Tbl Byte) (a n : Nat) : List Byte := (List.range n).map (fun i => tblGet 0 t (a + i))

/-- A sparse byte table with a list of bytes written. -/
def tabSetAll (t : Tbl Byte) (l : List (Nat × Byte)) : Tbl Byte := l.foldl (fun t p => tblSet 0 t p.1 p.2) t

/-- The numbers below 32 whose bit is set: the lanes of a mask in ascending order. -/
def lanesOf (m : BitVec 32) : List Nat := (List.range 32).filter (fun i => m.getLsbD i)

/-- The mask of a list of lanes. -/
def maskOf (l : List Nat) : BitVec 32 := l.foldl (fun m i => m ||| BitVec.ofNat 32 (2 ^ i)) 0

/-- Bits hi to lo of a number. -/
def bits (x hi lo : Nat) : Nat := x / 2 ^ lo % 2 ^ (hi + 1 - lo)

/-- Bit k of a number. -/
def bit (x k : Nat) : Bool := x / 2 ^ k % 2 == 1

/-- A number with a bit set. -/
def bitNat (b : Bool) (k : Nat) : Nat := if b then 2 ^ k else 0

/-- The signed value of the low n bits of x. -/
def sext (x n : Nat) : Int := let y := x % 2 ^ n; if y / 2 ^ (n - 1) == 1 then (y : Int) - (2 ^ n : Nat) else (y : Int)

/-- The low 64 bits of an integer. -/
def wrap64 (x : Int) : Long := BitVec.ofInt 64 x

/-- The low 32 bits of an integer. -/
def wrap32 (x : Int) : Word := BitVec.ofInt 32 x

end Sys2Proof.Machine
end

