-- ==== Sys2Proof/Machine/Flags.lean ====
section
/-! DEFINITION. Number formats, rounding, saturation, flushing and every flag the spec computes (R75-R92): exact dyadic values,
rounded once, with the exceptions of Table 05-7. -/

namespace Sys2Proof.Machine

/-- R85, Table 05-7: the exception bits. -/
def xINV : BitVec 5 := 1
def xDIV : BitVec 5 := 2
def xOVF : BitVec 5 := 4
def xUNF : BitVec 5 := 8
def xINX : BitVec 5 := 16

/-- Table 05-2: exponent and fraction bits; e4m3 has no infinities. -/
structure FFmt where
  eb : Nat
  fb : Nat
  e4m3 : Bool := false
  deriving DecidableEq, Repr

def fmt64 : FFmt := ⟨11, 52, false⟩
def fmt32 : FFmt := ⟨8, 23, false⟩
def fmt16 : FFmt := ⟨5, 10, false⟩
def fmtBf16 : FFmt := ⟨8, 7, false⟩
def fmtE4m3 : FFmt := ⟨4, 3, true⟩
def fmtE5m2 : FFmt := ⟨5, 2, false⟩

def FFmt.bias (f : FFmt) : Nat := 2 ^ (f.eb - 1) - 1
def FFmt.width (f : FFmt) : Nat := 1 + f.eb + f.fb
def FFmt.signBit (f : FFmt) : Nat := 2 ^ (f.eb + f.fb)
/-- R78: the canonical NaN. -/
def FFmt.canon (f : FFmt) : Nat := if f.e4m3 then 0x7F else (2 ^ f.eb - 1) * 2 ^ f.fb + 2 ^ (f.fb - 1)
def FFmt.infBits (f : FFmt) : Nat := (2 ^ f.eb - 1) * 2 ^ f.fb
/-- Table 05-2: the bits of the greatest finite magnitude. -/
def FFmt.maxBits (f : FFmt) : Nat := if f.e4m3 then 0x7E else f.infBits - 1
/-- The least quantum: a subnormal is a multiple of 2 to this exponent. -/
def FFmt.minExp (f : FFmt) : Int := 1 - (f.bias : Int) - f.fb

/-- A floating-point datum: a NaN with its quiet bit and payload, an infinity, or an exact dyadic m × 2^e with a sign. -/
inductive FVal where
  | nan (neg quiet : Bool) (payload : Nat)
  | inf (neg : Bool)
  | fin (neg : Bool) (m : Nat) (e : Int)
  deriving DecidableEq, Repr

/-- R77, R78: the datum that bits encode. -/
def FFmt.decode (f : FFmt) (x : Nat) : FVal :=
  let neg := x / f.signBit % 2 == 1
  let ex := x / 2 ^ f.fb % 2 ^ f.eb
  let fr := x % 2 ^ f.fb
  if f.e4m3 && ex = 15 && fr = 7 then .nan neg true 0
  else if !f.e4m3 && ex = 2 ^ f.eb - 1 then
    (if fr = 0 then .inf neg else .nan neg (fr / 2 ^ (f.fb - 1) == 1) (fr % 2 ^ (f.fb - 1)))
  else if ex = 0 then .fin neg fr f.minExp
  else .fin neg (fr + 2 ^ f.fb) (f.minExp + (ex : Int) - 1)

def FVal.isNan : FVal → Bool
  | .nan .. => true
  | _ => false
def FVal.isSnan : FVal → Bool
  | .nan _ q _ => !q
  | _ => false
def FVal.neg? : FVal → Bool
  | .nan n _ _ => n
  | .inf n => n
  | .fin n _ _ => n
def FVal.isZero : FVal → Bool
  | .fin _ m _ => m == 0
  | _ => false

/-- R79: a NaN made quiet in a format, given the fraction width it comes from. -/
def quietTo (src dst : FFmt) (v : FVal) : Nat :=
  match v with
  | .nan n _ p =>
    let s := if n then dst.signBit else 0
    if dst.e4m3 then s + 0x7F
    else
      let k := src.fb - 1
      let j := dst.fb - 1
      let p' := if k ≥ j then p / 2 ^ (k - j) else p * 2 ^ (j - k)
      s + dst.canon + p' % 2 ^ j
  | _ => dst.canon

/-- A rounded result with its exceptions; tiny by R81. -/
structure FRes where
  bits : Nat
  flags : BitVec 5 := 0
  tiny : Bool := false
  deriving DecidableEq, Repr

/-- Bit length. -/
def bitLen (m : Nat) : Nat := if m = 0 then 0 else Nat.log2 m + 1

/-- R80, R82: m × 2^e rounded to a multiple of 2^q by a mode; the multiple, and whether it is exact. -/
def roundAt (neg : Bool) (mode rnd m : Nat) (e q : Int) : Nat × Bool :=
  if e ≥ q then (m * 2 ^ (e - q).toNat, true)
  else
    let k := (q - e).toNat
    let lo := m / 2 ^ k
    let rem := m % 2 ^ k
    let up := match mode with
      | 0 => 2 * rem > 2 ^ k || (2 * rem == 2 ^ k && lo % 2 == 1)
      | 1 => false
      | 2 => rem ≠ 0 && !neg
      | 3 => rem ≠ 0 && neg
      | _ => rem * 2 ^ 16 / 2 ^ k > rnd % 2 ^ 16
    (if up then lo + 1 else lo, rem == 0)

/-- The bits of n × 2^q without sign, n at most 2^(fb+1). -/
def FFmt.pack (f : FFmt) (n : Nat) (q : Int) : Nat :=
  if n = 0 then 0
  else
    let (n', q') := if n ≥ 2 ^ (f.fb + 1) then (n / 2, q + 1) else (n, q)
    if n' < 2 ^ f.fb then n' else ((q' - f.minExp).toNat + 1) * 2 ^ f.fb + (n' - 2 ^ f.fb)

/-- Table 05-3: the result of an overflow. -/
def FFmt.overflow (f : FFmt) (neg sat : Bool) (mode : Nat) : Nat :=
  let big := if f.e4m3 then 0x7F else f.infBits
  let toMax := sat || mode == 1 || (mode == 2 && neg) || (mode == 3 && !neg)
  (if neg then f.signBit else 0) + (if toMax then f.maxBits else big)

/-- R80-R82: the exact value ±m × 2^e rounded to a format; zero keeps its sign. satMax is the .sat of a conversion (R83). -/
def FFmt.round (f : FFmt) (mode rnd : Nat) (satMax neg : Bool) (m : Nat) (e : Int) : FRes :=
  let s := if neg then f.signBit else 0
  if m = 0 then ⟨s, 0, false⟩
  else
    let qu : Int := e + (bitLen m : Int) - 1 - f.fb
    let u := roundAt neg mode rnd m e qu
    let tiny := decide (qu < f.minExp) && !(decide (qu = f.minExp - 1) && decide (u.1 = 2 ^ (f.fb + 1)))
    if tiny then
      let r := roundAt neg mode rnd m e f.minExp
      ⟨s + f.pack r.1 f.minExp, if r.2 then 0 else xUNF ||| xINX, true⟩
    else
      let b := f.pack u.1 qu
      if b > f.maxBits then ⟨f.overflow neg satMax mode, xOVF ||| xINX, false⟩
      else ⟨s + b, if u.2 then 0 else xINX, false⟩

/-- R80: an infinity into a format: exact, but an overflow into e4m3. -/
def FFmt.ofInf (f : FFmt) (mode : Nat) (satMax neg : Bool) : FRes :=
  if f.e4m3 then ⟨f.overflow neg satMax mode, xOVF ||| xINX, false⟩ else ⟨(if neg then f.signBit else 0) + f.infBits, 0, false⟩

/-- R84: a subnormal source read as a zero of its sign. -/
def FFmt.flushIn (f : FFmt) (on : Bool) (x : Nat) : Nat :=
  if on && x / 2 ^ f.fb % 2 ^ f.eb = 0 then x / f.signBit % 2 * f.signBit else x

/-- R84: a tiny result delivered as a zero of its sign, with underflow and inexact. -/
def FFmt.flushOut (f : FFmt) (on : Bool) (r : FRes) : FRes :=
  if on && r.tiny then ⟨r.bits / f.signBit % 2 * f.signBit, r.flags ||| xUNF ||| xINX, false⟩ else r

/-- R83, Table 05-5: the .sat of arithmetic: clamped to [+0, 1], NaN and -0 become +0. -/
def FFmt.satUnit (f : FFmt) (x : Nat) : Nat :=
  let one := f.bias * 2 ^ f.fb
  match f.decode x with
  | .nan .. => 0
  | v => if v.neg? then 0 else if x % f.signBit > one then one else x

/-- The exact sum of two dyadics as a signed integer at the lower exponent. -/
def addExact (n1 : Bool) (m1 : Nat) (e1 : Int) (n2 : Bool) (m2 : Nat) (e2 : Int) : Int × Int :=
  let e := min e1 e2
  let a : Int := (m1 * 2 ^ (e1 - e).toNat : Nat)
  let b : Int := (m2 * 2 ^ (e2 - e).toNat : Nat)
  ((if n1 then -a else a) + (if n2 then -b else b), e)

/-- R81, R115: the rounded sum of two data that are not NaN; none for inf - inf. -/
def FFmt.addVals (f : FFmt) (mode : Nat) (x y : FVal) : Option FRes :=
  match x, y with
  | .inf a, .inf b => if a = b then some (f.ofInf mode false a) else none
  | .inf a, _ => some (f.ofInf mode false a)
  | _, .inf b => some (f.ofInf mode false b)
  | .fin n1 m1 e1, .fin n2 m2 e2 =>
    let r := addExact n1 m1 e1 n2 m2 e2
    if r.1 = 0 then some ⟨if (if m1 = 0 && m2 = 0 && n1 = n2 then n1 else mode = 3) then f.signBit else 0, 0, false⟩
    else some (f.round mode 0 false (decide (r.1 < 0)) r.1.natAbs r.2)
  | _, _ => none

/-- The exact product of two data that are not NaN; none for 0 × inf. -/
def mulVals (x y : FVal) : Option FVal :=
  match x, y with
  | .fin a m1 e1, .fin b m2 e2 => some (.fin (a != b) (m1 * m2) (e1 + e2))
  | .inf a, .fin b m _ => if m = 0 then none else some (.inf (a != b))
  | .fin a m _, .inf b => if m = 0 then none else some (.inf (a != b))
  | .inf a, .inf b => some (.inf (a != b))
  | _, _ => none

/-- A datum that is not NaN, rounded. -/
def FFmt.ofVal (f : FFmt) (mode rnd : Nat) (satMax : Bool) (x : FVal) : FRes :=
  match x with
  | .fin n m e => f.round mode rnd satMax n m e
  | .inf n => f.ofInf mode satMax n
  | .nan .. => ⟨f.canon, 0, false⟩

/-- Which of the four operations of R115. -/
inductive FOp where
  | add
  | sub
  | mul
  | fma
  deriving DecidableEq, Repr

/-- R115: the result of an operation before .sat and flushing of it, its operands flushed already. -/
def FFmt.arithCore (f : FFmt) (op : FOp) (mode : Nat) (a b c : Nat) : FRes :=
  let x := f.decode a
  let y := f.decode b
  let z := f.decode c
  let used := if op = .fma then [x, y, z] else [x, y]
  let snan := used.any FVal.isSnan
  let badMul := (op = .fma) && ((x.isZero && (match y with | .inf _ => true | _ => false)) ||
    (y.isZero && (match x with | .inf _ => true | _ => false)))
  let inv := if snan || badMul then xINV else 0
  match used.find? FVal.isNan with
  | some v => ⟨quietTo f f v, inv, false⟩
  | none =>
    let r := match op with
      | .add => f.addVals mode x y
      | .sub => f.addVals mode x (match y with | .fin n m e => .fin (!n) m e | .inf n => .inf (!n) | v => v)
      | .mul => (mulVals x y).map (f.ofVal mode 0 false)
      | .fma => (mulVals x y).bind (fun p => f.addVals mode p z)
    match r with
    | some q => { q with flags := q.flags ||| inv }
    | none => ⟨f.canon, xINV, false⟩

/-- R83: the .sat of arithmetic on a rounded result, whose flags stand; a result that becomes +0 is not tiny. -/
def FFmt.saturate (f : FFmt) (on : Bool) (r : FRes) : FRes :=
  if on then { r with bits := f.satUnit r.bits, tiny := r.tiny && f.satUnit r.bits ≠ 0 } else r

/-- R115, R83, R84: an arithmetic operation: flushed operands, then .sat, then the flush of the result. -/
def FFmt.arith (f : FFmt) (op : FOp) (mode : Nat) (sat fin fout : Bool) (a b c : Nat) : FRes :=
  f.flushOut fout (f.saturate sat (f.arithCore op mode (f.flushIn fin a) (f.flushIn fin b) (f.flushIn fin c)))

/-- A rank that orders data that are not NaN, -0 below +0. -/
def FFmt.rank (f : FFmt) (x : Nat) : Int := if x / f.signBit % 2 = 1 then -((x % f.signBit : Nat) : Int) - 1 else (x % f.signBit : Nat)

/-- R116: the operand that fmin or fmax returns. -/
def FFmt.pick (f : FFmt) (isMax : Bool) (a b : Nat) : Nat :=
  let x := f.decode a
  let y := f.decode b
  if x.isNan && y.isNan then quietTo f f x
  else if x.isNan then b
  else if y.isNan then a
  else if (decide (f.rank a ≤ f.rank b)) != isMax then a else b

/-- R116, R84: fmin and fmax: operands and result are flushed, which raises nothing here; a signalling NaN raises invalid. -/
def FFmt.minMax (f : FFmt) (isMax fin fout : Bool) (a b : Nat) : FRes :=
  let a := f.flushIn fin a
  let b := f.flushIn fin b
  ⟨f.flushIn fout (f.pick isMax a b), if (f.decode a).isSnan || (f.decode b).isSnan then xINV else 0, false⟩

/-- Less-than, equal of data that are not NaN as numbers (R117: -0 equals +0). -/
def fLt (x y : FVal) : Bool :=
  match x, y with
  | .inf a, .inf b => a && !b
  | .inf a, _ => a
  | _, .inf b => !b
  | .fin n1 m1 e1, .fin n2 m2 e2 => (addExact n1 m1 e1 (!n2) m2 e2).1 < 0
  | _, _ => false

/-- R117: fcmp under a condition code. -/
def FFmt.compare (f : FFmt) (fin : Bool) (cc a b : Nat) : Bool × BitVec 5 :=
  let x := f.decode (f.flushIn fin a)
  let y := f.decode (f.flushIn fin b)
  let un := x.isNan || y.isNan
  let sn := x.isSnan || y.isSnan
  let lt := !un && fLt x y
  let gt := !un && fLt y x
  let eq := !un && !lt && !gt
  let base := match cc % 8 with
    | 0 => eq
    | 1 => !un && !eq
    | 2 => lt
    | 3 => lt || eq
    | 4 => gt
    | 5 => gt || eq
    | 6 => !un
    | _ => un
  let res := if cc ≥ 14 then base else if cc ≥ 8 then base || un else base
  (res, if sn || ((cc ≥ 2 && cc ≤ 5) && un) then xINV else 0)

/-- R118: the class of an f32 datum. -/
def classOf (a : Nat) : Nat :=
  match fmt32.decode a with
  | .nan _ q _ => if q then 2 else 1
  | .inf n => if n then 4 else 512
  | .fin n m _ =>
    if m = 0 then (if n then 32 else 64)
    else if m < 2 ^ 23 then (if n then 16 else 128)
    else (if n then 8 else 256)

/-- The floor of ±m × 2^e. -/
def floorDyadic (neg : Bool) (m : Nat) (e : Int) : Int :=
  let v : Int := if neg then -(m : Int) else m
  if e ≥ 0 then v * (2 ^ e.toNat : Nat) else v / (2 ^ (-e).toNat : Nat)

/-- R119: frint. -/
def frint (mode : Nat) (fin : Bool) (a : Nat) : FRes :=
  let a := fmt32.flushIn fin a
  match fmt32.decode a with
  | .nan n q p => ⟨quietTo fmt32 fmt32 (.nan n q p), if q then 0 else xINV, false⟩
  | .inf _ => ⟨a, 0, false⟩
  | .fin n m e => { fmt32.round 0 0 false n (roundAt n mode 0 m e 0).1 0 with flags := 0, tiny := false }

/-- R119: ffrac. -/
def ffrac (fin fout : Bool) (a : Nat) : FRes :=
  let a := fmt32.flushIn fin a
  match fmt32.decode a with
  | .nan n q p => ⟨quietTo fmt32 fmt32 (.nan n q p), if q then 0 else xINV, false⟩
  | .inf _ => ⟨fmt32.canon, xINV, false⟩
  | .fin n m e =>
    if e ≥ 0 || m = 0 then ⟨0, 0, false⟩
    else
      let fr := ((if n then -(m : Int) else m) % (2 ^ (-e).toNat : Nat)).toNat
      if fr = 0 then ⟨0, 0, false⟩ else fmt32.flushOut fout (fmt32.round 3 0 false false fr e)

/-- R119: fscale. -/
def fscale (mode : Nat) (fin fout : Bool) (a : Nat) (n : Int) : FRes :=
  let a := fmt32.flushIn fin a
  match fmt32.decode a with
  | .nan s q p => ⟨quietTo fmt32 fmt32 (.nan s q p), if q then 0 else xINV, false⟩
  | .inf _ => ⟨a, 0, false⟩
  | .fin s m e =>
    if m = 0 then ⟨a, 0, false⟩
    else
      let k := max (min n 1000) (-1000)
      fmt32.flushOut fout (fmt32.round mode 0 false s m (e + k))

/-- R119: fgetexp. -/
def fgetexp (fin : Bool) (a : Nat) : FRes :=
  let a := fmt32.flushIn fin a
  match fmt32.decode a with
  | .nan s q p => ⟨quietTo fmt32 fmt32 (.nan s q p), if q then 0 else xINV, false⟩
  | .inf _ => ⟨fmt32.infBits, 0, false⟩
  | .fin _ m e =>
    if m = 0 then ⟨fmt32.signBit + fmt32.infBits, xDIV, false⟩
    else
      let x : Int := e + (bitLen m : Int) - 1
      fmt32.round 0 0 false (decide (x < 0)) x.natAbs 0

/-- R120: frcp, correctly rounded. -/
def frcp (a : Nat) : FRes :=
  match fmt32.decode a with
  | .nan n q p => ⟨quietTo fmt32 fmt32 (.nan n q p), if q then 0 else xINV, false⟩
  | .inf n => ⟨if n then fmt32.signBit else 0, 0, false⟩
  | .fin n m e =>
    if m = 0 then ⟨(if n then fmt32.signBit else 0) + fmt32.infBits, xDIV, false⟩
    else
      let q := 2 ^ 80 / m
      let sticky := if 2 ^ 80 % m = 0 then 0 else 1
      fmt32.round 0 0 false n (2 * q + sticky) (-81 - e)

/-- R120: fsqrt, correctly rounded. -/
def fsqrt (a : Nat) : FRes :=
  match fmt32.decode a with
  | .nan n q p => ⟨quietTo fmt32 fmt32 (.nan n q p), if q then 0 else xINV, false⟩
  | .inf n => if n then ⟨fmt32.canon, xINV, false⟩ else ⟨a, 0, false⟩
  | .fin n m e =>
    if m = 0 then ⟨a, 0, false⟩
    else if n then ⟨fmt32.canon, xINV, false⟩
    else
      let odd := e % 2 ≠ 0
      let m' := (if odd then 2 * m else m) * 2 ^ 80
      let e' := (if odd then e - 1 else e) - 80
      let r := Nat.sqrt m'
      let sticky := if r * r = m' then 0 else 1
      fmt32.round 0 0 false false (2 * r + sticky) (e' / 2 - 1)

/-- R120: a result that Tables 07-4 and 07-5 do not name as exact: inexact, and underflow where it is tiny (assumption log 6). -/
def inexactRes (b : Nat) : FRes :=
  let tiny := b / 2 ^ 23 % 256 == 0
  ⟨b, if tiny then xUNF ||| xINX else xINX, tiny⟩

/-- R120, Table 07-4: one of the values within a bound, in half units of the last place, of a fixed-point magnitude with a sign: which of them
the function returns is free (assumption log 6). -/
def specialValue (k a : Nat) (fin fout : Bool) (bound : Nat) (neg : Bool) (v : Nat) : FRes :=
  let l := withinBound v bound
  let c := l.getD ((Config.specialChoice k (BitVec.ofNat 32 a) fin fout).toNat % l.length) (0, 0)
  inexactRes (fmt32.round 0 0 false neg c.1 c.2).bits

/-- Tables 07-4, 07-5: frsq. -/
def frsq (fin fout : Bool) (a : Nat) : FRes :=
  match fmt32.decode a with
  | .nan n q p => ⟨quietTo fmt32 fmt32 (.nan n q p), if q then 0 else xINV, false⟩
  | .inf n => if n then ⟨fmt32.canon, xINV, false⟩ else ⟨0, 0, false⟩
  | .fin n m e =>
    if m = 0 then ⟨(if n then fmt32.signBit else 0) + fmt32.infBits, xDIV, false⟩
    else if n then ⟨fmt32.canon, xINV, false⟩
    else
      let k : Int := e + (bitLen m : Int) - 1
      if m = 2 ^ (bitLen m - 1) && k % 2 = 0 then fmt32.round 0 0 false false 1 (-(k / 2))
      else specialValue 1 a fin fout 2 false (fixRsqrt m e)

/-- Tables 07-4, 07-5: fsin and fcos (cosine). -/
def fsincos (cosine fin fout : Bool) (a : Nat) : FRes :=
  match fmt32.decode a with
  | .nan n q p => ⟨quietTo fmt32 fmt32 (.nan n q p), if q then 0 else xINV, false⟩
  | .inf _ => ⟨fmt32.canon, xINV, false⟩
  | .fin n m e =>
    if m = 0 then ⟨if cosine then 0x3F800000 else a, 0, false⟩
    else
      let v := fixSin cosine n m e
      specialValue (if cosine then 4 else 3) a fin fout 4 (decide (v < 0)) v.natAbs

/-- Tables 07-4, 07-5: fex2; far below the subnormals the magnitude in fixed point is 0. -/
def fex2 (fin fout : Bool) (a : Nat) : FRes :=
  match fmt32.decode a with
  | .nan n q p => ⟨quietTo fmt32 fmt32 (.nan n q p), if q then 0 else xINV, false⟩
  | .inf n => ⟨if n then 0 else fmt32.infBits, 0, false⟩
  | .fin n m e =>
    if m = 0 then ⟨0x3F800000, 0, false⟩
    else
      let fl := floorDyadic n m e
      let whole := e ≥ 0 || m % 2 ^ (-e).toNat = 0
      if fl ≥ 128 then ⟨fmt32.infBits, xOVF ||| xINX, false⟩
      else if whole && fl ≥ -149 then fmt32.round 0 0 false false 1 fl
      else
        let x : Int := if n then -(fixOf m e : Int) else fixOf m e
        specialValue 5 a fin fout 4 false (if fl < -1000 then 0 else fixExp2 x)

/-- Tables 07-4, 07-5: flg2. -/
def flg2 (fin fout : Bool) (a : Nat) : FRes :=
  match fmt32.decode a with
  | .nan n q p => ⟨quietTo fmt32 fmt32 (.nan n q p), if q then 0 else xINV, false⟩
  | .inf n => if n then ⟨fmt32.canon, xINV, false⟩ else ⟨a, 0, false⟩
  | .fin n m e =>
    if m = 0 then ⟨fmt32.signBit + fmt32.infBits, xDIV, false⟩
    else if n then ⟨fmt32.canon, xINV, false⟩
    else if m = 2 ^ (bitLen m - 1) then
      let x : Int := e + (bitLen m : Int) - 1
      fmt32.round 0 0 false (decide (x < 0)) x.natAbs 0
    else
      let v := fixLog2 m e
      specialValue 6 a fin fout 4 (decide (v < 0)) v.natAbs

/-- Tables 07-4, 07-5: ftanh. -/
def ftanh (fin fout : Bool) (a : Nat) : FRes :=
  match fmt32.decode a with
  | .nan n q p => ⟨quietTo fmt32 fmt32 (.nan n q p), if q then 0 else xINV, false⟩
  | .inf n => ⟨if n then 0xBF800000 else 0x3F800000, 0, false⟩
  | .fin n m e => if m = 0 then ⟨a, 0, false⟩ else specialValue 7 a fin fout 4 n (fixTanh (fixOf m e))

/-- R122: the float format of a type code. -/
def fmtOfType (t : Nat) : FFmt :=
  match t with
  | 9 => fmt64
  | 0xA => fmt16
  | 0xB => fmtBf16
  | 0xC => fmtE4m3
  | 0xD => fmtE5m2
  | _ => fmt32

/-- R84: the formats flushing applies to. -/
def flushable (t : Nat) : Bool := t == 8 || t == 0xA || t == 0xB

/-- Table 04-1: width and signedness of an integer type. -/
def intWidth (t : Nat) : Nat := match t / 2 with | 0 => 32 | 1 => 64 | 2 => 16 | _ => 8
def intSigned (t : Nat) : Bool := t % 2 == 0

/-- R76: an integer clamped to the range of a type, and wrapped. -/
def clampInt (t : Nat) (x : Int) : Int :=
  let w := intWidth t
  let lo : Int := if intSigned t then -(2 ^ (w - 1) : Nat) else 0
  let hi : Int := if intSigned t then (2 ^ (w - 1) : Nat) - 1 else (2 ^ w : Nat) - 1
  max lo (min hi x)

/-- The value of the low bits of a register in an integer type. -/
def readInt (t x : Nat) : Int := if intSigned t then sext x (intWidth t) else ((x % 2 ^ intWidth t : Nat) : Int)

/-- R75: the register bits of an integer result: sign-extended or zero-extended to 32, 64 for 64-bit types. -/
def writeInt (t : Nat) (x : Int) : Nat :=
  let w := intWidth t
  let y := if intSigned t then sext (x % (2 ^ w : Nat)).toNat w else x % (2 ^ w : Nat)
  (y % (2 ^ (max w 32) : Nat)).toNat

/-- R122, R123: cvt from a type to a type: register bits in, register bits and flags out. The .sat of a conversion to a wider integer changes
nothing, as Table 07-6 says and the pseudocode of R123 does not; one of equal width clamps, as the pseudocode says (assumption log 48). -/
def convert (st dt mode rnd : Nat) (sat fin fout : Bool) (x : Nat) : FRes :=
  if st ≤ 7 then
    let v := readInt st x
    if dt ≤ 7 then ⟨writeInt dt (if sat && intWidth dt ≤ intWidth st then clampInt dt v else v), 0, false⟩
    else (fmtOfType dt).round mode rnd sat (decide (v < 0)) v.natAbs 0
  else
    let sf := fmtOfType st
    let a := x % 2 ^ sf.width
    let a := if dt ≤ 7 then a else sf.flushIn (fin && flushable st) a
    let v := sf.decode a
    if dt ≤ 7 then
      match v with
      | .nan .. => ⟨0, xINV, false⟩
      | .inf n => ⟨writeInt dt (clampInt dt (if n then -(2 ^ 70 : Nat) else (2 ^ 70 : Nat))), xINV, false⟩
      | .fin n m e =>
        let r := roundAt n mode 0 m e 0
        let y : Int := if n then -(r.1 : Int) else r.1
        if clampInt dt y ≠ y then ⟨writeInt dt (clampInt dt y), xINV, false⟩ else ⟨writeInt dt y, if r.2 then 0 else xINX, false⟩
    else
      let df := fmtOfType dt
      match v with
      | .nan n q p => ⟨quietTo sf df (.nan n q p), if q then 0 else xINV, false⟩
      | v => df.flushOut (fout && flushable dt) (df.ofVal mode rnd sat v)

/-- R115, R77: a two-element operation on the halves of a word. -/
def pairOp (g : Nat → Nat → Nat → FRes) (a b c : Nat) : Nat × BitVec 5 :=
  let r0 := g (a % 65536) (b % 65536) (c % 65536)
  let r1 := g (a / 65536 % 65536) (b / 65536 % 65536) (c / 65536 % 65536)
  (r0.bits + 65536 * r1.bits, r0.flags ||| r1.flags)

/-- R224: a float operation of an atomic: no flushing, no flags, a NaN result canonical. -/
def atomFloat (f : FFmt) (op : Nat) (old s : Nat) : Nat :=
  let r := match op with
    | 0 => (f.arithCore .add 0 old s 0).bits
    | 1 => (f.minMax false false false old s).bits
    | _ => (f.minMax true false false old s).bits
  if (f.decode r).isNan then f.canon else r

end Sys2Proof.Machine
end

