-- ==== Sys2Proof/WellFormed.lean ====
section
/-! DEFINITION. Which field values an instruction may hold (R15-R17, R43-R49, R67-R71 and the encoding tables of the
chapters). Instr.wf n is the check of Table 04-13, order 5, for a kernel that declares n registers. -/

namespace Sys2Proof

/-- What a register select stands for in a form (Table 02-12). -/
inductive Role where
  /-- not used by the form: holds 0x1FE (R49) -/
  | unused
  /-- a 32-bit source: a register, laneid, zero, or in format A a window word -/
  | src
  /-- a 64-bit source: an even pair, zero, or in format A two window words -/
  | srcPair
  /-- a 32-bit destination: a register, or 0x1FE to discard -/
  | dst
  /-- a 64-bit destination: an even pair, or 0x1FE to discard -/
  | dstPair
  /-- a register 0 to N-1 and nothing else -/
  | reg
  /-- an even pair below N and nothing else -/
  | regPair
  /-- a register or 0x1FE -/
  | regOrZero
  /-- a register, laneid or zero -/
  | regLaneZero
  /-- a register or laneid -/
  | regLane
  /-- four registers vK:vK+3, K a multiple of 4, or 0x1FE -/
  | quad
  deriving DecidableEq, Repr

/-- Table 02-12, R16, R17: whether a select may stand in a role, n registers being declared; win says the form may name a
constant-window operand (format A). -/
def Role.ok (n : Nat) (win : Bool) (r : Role) (x : BitVec 9) : Bool :=
  let k := x.toNat
  let pair := k % 2 == 0 && k + 1 < n
  match r with
  | .unused => k == 0x1FE
  | .src => k < n || k == 0x1FD || k == 0x1FE || (win && k == 0x1FF)
  | .srcPair => pair || k == 0x1FE || (win && k == 0x1FF)
  | .dst => k < n || k == 0x1FE
  | .dstPair => pair || k == 0x1FE
  | .reg => k < n
  | .regPair => pair
  | .regOrZero => k < n || k == 0x1FE
  | .regLaneZero => k < n || k == 0x1FD || k == 0x1FE
  | .regLane => k < n || k == 0x1FD
  | .quad => (k % 4 == 0 && k + 3 < n) || k == 0x1FE

/-- R43: a token-set field of 7 is illegal. -/
def Hdr.ok (h : Hdr) : Bool := h.tok != 7

/-- What a row of Tables 04-5 to 04-7 and 06-3, 07-3 allows a format A word to hold. -/
structure SpecA where
  types : List Nat
  rnds : List Nat
  sat : Bool
  dst : Role
  a : Role
  b : Role
  c : Role
  deriving DecidableEq, Repr

/-- R48: whether some source that the form uses names the constant window. -/
def FmtA.usesWindow (f : FmtA) : Bool := f.a == 0x1FF || f.b == 0x1FF || f.c == 0x1FF

/-- R48: an odd window offset under a pair source is illegal. -/
def FmtA.windowPairOk (p : SpecA) (f : FmtA) : Bool :=
  let odd := f.off.toNat % 2 == 1
  !(odd && ((p.a == .srcPair && f.a == 0x1FF) || (p.b == .srcPair && f.b == 0x1FF) || (p.c == .srcPair && f.c == 0x1FF)))

/-- R93, R111, R48: format A fields against their row. -/
def SpecA.ok (n : Nat) (p : SpecA) (f : FmtA) : Bool :=
  p.types.contains f.ty.toNat && p.rnds.contains f.rnd.toNat && (p.sat || f.sat == 0) &&
  p.dst.ok n false f.dst && p.a.ok n true f.a && p.b.ok n true f.b && p.c.ok n true f.c &&
  (f.usesWindow || (f.win == 0 && f.off == 0)) && f.windowPairOk p

/-- Two-source and three-source 32-bit shapes. -/
def SpecA.two (types rnds : List Nat) (sat : Bool) : SpecA := ⟨types, rnds, sat, .dst, .src, .src, .unused⟩

/-- One-source 32-bit shape. -/
def SpecA.one (types rnds : List Nat) (sat : Bool) : SpecA := ⟨types, rnds, sat, .dst, .src, .unused, .unused⟩

/-- Three-source 32-bit shape. -/
def SpecA.three (types rnds : List Nat) (sat : Bool) : SpecA := ⟨types, rnds, sat, .dst, .src, .src, .src⟩

/-- A shape whose type decides between a register and a pair source (R108, R110, R104). -/
def SpecA.wide (p : SpecA) (is64 : Bool) (dst a b : Role) : SpecA := if is64 then ⟨p.types, p.rnds, p.sat, dst, a, b, .unused⟩ else p

/-- Table 04-1: the types that occupy a pair. -/
def typeIs64 (t : Nat) : Bool := t == 2 || t == 3 || t == 9 || t == 0xF

/-- Table 04-1: the eight integer types. -/
def typeIsInt (t : Nat) : Bool := t ≤ 7

/-- Table 07-6: whether a conversion from st to dt is listed with rounding code r. -/
def cvtPairOk (st dt r : Nat) : Bool :=
  if st > 0xD || dt > 0xD || st == dt then false
  else if typeIsInt st && typeIsInt dt then r == 0
  else if typeIsInt st then dt ≤ 0xB && r ≤ 3
  else if typeIsInt dt then st ≤ 0xB && r ≤ 3
  else if dt ≥ 0xC then 8 ≤ st && st ≤ 0xB && st != 9 && (r ≤ 3 || (r == 4 && st == 8))
  else if st ≥ 0xC then (dt == 8 || dt == 0xA || dt == 0xB) && r == 0
  else if st == 9 then r ≤ 3 || (r == 4 && dt == 8)
  else if dt == 9 || dt == 8 then r == 0
  else if st == 8 then r ≤ 4
  else r ≤ 3

/-- R122, R70: the shape of a cvt from st. -/
def cvtSpec (st : Nat) (f : FmtA) : SpecA :=
  ⟨[f.ty.toNat], [f.rnd.toNat], true, if typeIs64 f.ty.toNat then .dstPair else .dst,
    if typeIs64 st then .srcPair else .src, if f.rnd == 4 then .src else .unused, .unused⟩

/-- R93, R111: the row of each format A instruction. -/
def Instr.specA (f : FmtA) : Instr → Option SpecA
  | .add .. | .sub .. => some (.two [0, 1] [0] true)
  | .addc .. | .subc .. => some ⟨[1], [0], false, .dstPair, .src, .src, .src⟩
  | .mulLo .. | .mulHi .. => some (.two [0, 1] [0] false)
  | .mulWide .. => some ⟨[0, 1], [0], false, .dstPair, .src, .src, .unused⟩
  | .mad .. => some (.three [0, 1] [0] true)
  | .madWide .. => some ⟨[0, 1], [0], false, .dstPair, .src, .src, .srcPair⟩
  | .minI .. | .maxI .. | .absdiff .. => some (.two [0, 1] [0] false)
  | .abs .. | .neg .. => some (.one [0] [0] true)
  | .sad .. | .dp4 .. | .dp2 .. => some (.three [0, 1] [0] false)
  | .lea .. => some ⟨[3], [0], false, .dstPair, .srcPair, .src, .src⟩
  | .add64 .. | .sub64 .. => some ⟨[2, 3], [0], true, .dstPair, .srcPair, .srcPair, .unused⟩
  | .andB .. | .orB .. | .xorB .. | .shl .. | .shr .. | .sar .. | .rot .. => some (.two [0xE] [0] false)
  | .notB .. => some (.one [0xE] [0] false)
  | .lop3 .. => some ⟨[f.ty.toNat], [f.rnd.toNat], true, .dst, .src, .src, .src⟩
  | .shfL .. | .shfR .. | .bfi .. | .prmt .. | .sel .. => some (.three [0xE] [0] false)
  | .bfe .. => some (.two [1, 0] [0] false)
  | .brev .. => some ((SpecA.one [0xE, 0xF] [0] false).wide (typeIs64 f.ty.toNat) .dstPair .srcPair .unused)
  | .popc .. | .clz .. | .ctz .. => some ((SpecA.one [0xE, 0xF] [0] false).wide (typeIs64 f.ty.toNat) .dst .srcPair .unused)
  | .cmp .. | .setc .. => some ((SpecA.two [0, 1, 2, 3] [0] false).wide (typeIs64 f.ty.toNat) .dst .srcPair .srcPair)
  | .mov .. => some ((SpecA.one [0xE, 0xF] [0] false).wide (typeIs64 f.ty.toNat) .dstPair .srcPair .unused)
  | .fadd .. | .fsub .. | .fmul .. => some (.two [8] [0, 1, 2, 3] true)
  | .ffma .. => some (.three [8] [0, 1, 2, 3] true)
  | .fmin .. | .fmax .. | .fcmp .. => some (.two [8] [0] false)
  | .fclass .. | .ffrac .. | .fgetexp .. => some (.one [8] [0] false)
  | .frint .. => some (.one [8] [0, 1, 2, 3] false)
  | .fscale .. => some (.two [8] [0, 1, 2, 3] false)
  | .dadd .. | .dmul .. => some ⟨[9], [0, 1, 2, 3], false, .dstPair, .srcPair, .srcPair, .unused⟩
  | .dfma .. => some ⟨[9], [0, 1, 2, 3], false, .dstPair, .srcPair, .srcPair, .srcPair⟩
  | .hadd2 .. | .hmul2 .. => some (.two [0xA] [0, 1, 2, 3] true)
  | .hfma2 .. => some (.three [0xA] [0, 1, 2, 3] true)
  | .bfadd2 .. => some (.two [0xB] [0, 1, 2, 3] true)
  | .bfma2 .. => some (.three [0xB] [0, 1, 2, 3] true)
  | .cvt _ sty _ => some (cvtSpec sty.toNat f)
  | .cvtSr _ sty _ => some (cvtSpec sty.toNat f)
  | .pk4 .. => some ⟨[0xC, 0xD], [0, 4], true, .dst, .srcPair, .srcPair, if f.rnd == 4 then .srcPair else .unused⟩
  | .upk4 .. => some ⟨[0xC, 0xD], [0], false, .dstPair, .src, .unused, .unused⟩
  | .frcp .. | .frsq .. | .fsqrt .. | .fsin .. | .fcos .. | .fex2 .. | .flg2 .. | .ftanh .. => some (.one [8] [0] false)
  | .mat .. => some ⟨[0xE], [0], false, .reg, .reg, .unused, .unused⟩
  | _ => none

/-- What a row allows a format I word to hold (R71, R94). -/
structure SpecI where
  types : List Nat
  sat : Bool
  dst : Role
  a : Role
  deriving DecidableEq, Repr

/-- R71, R94: format I fields against their row; modifier bits 9:1 are 0. -/
def SpecI.ok (n : Nat) (p : SpecI) (f : FmtI) : Bool :=
  p.types.contains f.ty.toNat && f.modi.toNat ≤ (if p.sat then 1 else 0) && p.dst.ok n false f.dst && p.a.ok n false f.a

/-- R94: the row of each arithmetic format I instruction. -/
def Instr.specI (f : FmtI) : Instr → Option SpecI
  | .addImm .. | .subImm .. => some ⟨[0, 1], true, .dst, .src⟩
  | .mulLoImm .. | .mulHiImm .. | .minImm .. | .maxImm .. => some ⟨[0, 1], false, .dst, .src⟩
  | .mulWideImm .. => some ⟨[0, 1], false, .dstPair, .src⟩
  | .leaImm .. => some ⟨[3], false, .dstPair, .srcPair⟩
  | .andImm .. | .orImm .. | .xorImm .. | .shlImm .. | .shrImm .. | .sarImm .. | .rotImm .. => some ⟨[0xE], false, .dst, .src⟩
  | .cmpImm .. | .setcImm .. => some ⟨[0, 1, 2, 3], false, .dst, if typeIs64 f.ty.toNat then .srcPair else .src⟩
  | .movImm .. => some ⟨[0xE, 0xF], false, if typeIs64 f.ty.toNat then .dstPair else .dst, .unused⟩
  | _ => none

/-- R141: pset, and the logic of predicates; a predicate field holds 0 to 7. -/
def predFieldsOk (n : Nat) (f : FmtI) : Instr → Bool
  | .pset .. => f.dst.toNat ≤ 7 && Role.ok n false .regLaneZero f.a && f.ty == 0 && f.modi.toNat ≤ 1 && f.imm == 0
  | .pand .. | .por .. | .pxor .. => f.dst.toNat ≤ 7 && f.a.toNat ≤ 7 && f.ty == 0 && f.modi.toNat < 32 && f.imm == 0
  | .pnot .. => f.dst.toNat ≤ 7 && f.a.toNat ≤ 7 && f.ty == 0 && f.modi == 0 && f.imm == 0
  | _ => false

/-- What a row of Table 13-2 allows a format M word to hold. -/
structure SpecM where
  space : Nat
  sizes : List Nat
  cache : Bool
  scopes : List Nat
  bound : Bool
  span : Bool
  modes : List Nat
  data : Role
  addr : Role
  deriving DecidableEq, Repr

/-- Table 13-2, R214-R216: format M fields against their row. -/
def SpecM.ok (n : Nat) (p : SpecM) (f : FmtM) : Bool :=
  f.space.toNat == p.space && p.sizes.contains f.size.toNat && (p.cache || f.cache == 0) && p.scopes.contains f.scope.toNat &&
  (p.bound || f.bound == 0) && (p.span || f.span == 0) && p.modes.contains f.mode.toNat &&
  p.data.ok n false f.data && p.addr.ok n false f.addr

/-- R216: the data role of a load of a size code. -/
def loadRole (size : Nat) : Role := if size ≤ 2 then .dst else if size == 3 then .dstPair else .quad

/-- R216: the data role of a store of a size code; laneid may stand only in a b32 store or red. -/
def storeRole (size : Nat) : Role :=
  if size < 2 then .regOrZero else if size == 2 then .regLaneZero else if size == 3 then .dstPair else .quad

/-- Table 13-2: .sx only with b8 and b16. -/
def extModes (size : Nat) : List Nat := if size ≤ 1 then [0, 1] else [0]

/-- Table 13-2: the legal modes of an atomic operation. -/
def atomModes (v size : Nat) : List Nat :=
  if v == 0 then [0, 1, 2] else if v ≤ 2 then (if size == 2 then [0, 1, 2] else [0, 1]) else [0]

/-- Table 13-2: the row of each format M instruction. -/
def Instr.specM (f : FmtM) : Instr → Option SpecM
  | .ld .. => some ⟨0, [0, 1, 2, 3, 4], true, [0], false, true, extModes f.size.toNat, loadRole f.size.toNat, .dstPair⟩
  | .st .. => some ⟨0, [0, 1, 2, 3, 4], true, [0], false, false, [0], storeRole f.size.toNat, .dstPair⟩
  | .ldB .. => some ⟨0, [0, 1, 2, 3, 4], true, [0], true, true, [0, 1], loadRole f.size.toNat, .dstPair⟩
  | .ldAcq .. => some ⟨0, [0, 1, 2, 3], true, [0, 1, 2, 3, 4], false, true, extModes f.size.toNat, loadRole f.size.toNat, .dstPair⟩
  | .stRel .. => some ⟨0, [0, 1, 2, 3], true, [0, 1, 2, 3, 4], false, false, [0], storeRole f.size.toNat, .dstPair⟩
  | .ldsp .. => some ⟨1, [0, 1, 2, 3, 4], false, [0], false, false, extModes f.size.toNat, loadRole f.size.toNat, .dstPair⟩
  | .stsp .. => some ⟨1, [0, 1, 2, 3, 4], false, [0], false, false, [0], storeRole f.size.toNat, .dstPair⟩
  | .ldcl .. => some ⟨2, [0, 1, 2, 3, 4], false, [0], false, false, extModes f.size.toNat, loadRole f.size.toNat, .dstPair⟩
  | .stcl .. => some ⟨2, [0, 1, 2, 3, 4], false, [0], false, false, [0], storeRole f.size.toNat, .dstPair⟩
  | .ldds .. => some ⟨3, [0, 1, 2, 3, 4], false, [0], false, false, extModes f.size.toNat, loadRole f.size.toNat, .dstPair⟩
  | .stds .. => some ⟨3, [0, 1, 2, 3, 4], false, [0], false, false, [0], storeRole f.size.toNat, .dstPair⟩
  | .ldlp .. => some ⟨4, [0, 1, 2, 3, 4], false, [0], false, false, extModes f.size.toNat, loadRole f.size.toNat, .dstPair⟩
  | .stlp .. => some ⟨4, [0, 1, 2, 3, 4], false, [0], false, false, [0], storeRole f.size.toNat, .dstPair⟩
  | .ldc .. => some ⟨5, [2, 3, 4], false, [0], false, false, [0], loadRole f.size.toNat, .regOrZero⟩
  | .atom _ v _ =>
    some ⟨0, [2, 3], false, [0, 1, 2, 3, 4], false, false, atomModes v.toNat f.size.toNat,
      if v == 7 then (if f.size == 2 then .dstPair else .quad) else loadRole f.size.toNat, .dstPair⟩
  | .red _ v _ => some ⟨0, [2, 3], false, [0, 1, 2, 3, 4], false, false, atomModes v.toNat f.size.toNat, storeRole f.size.toNat, .dstPair⟩
  | .fenceAcq .. | .fenceRel .. | .fenceAr .. => some ⟨0, [0], false, [0, 1, 2, 3, 4], false, false, [0], .unused, .unused⟩
  | .cwb .. => some ⟨0, [0], false, [2, 3, 4], false, false, [0], .regOrZero, .dstPair⟩
  | .cinv .. => some ⟨0, [0], false, [0, 1, 2, 3, 4], false, false, [0], .regOrZero, .dstPair⟩
  | .cpf .. => some ⟨0, [0, 1, 2, 3, 4], true, [0], false, true, [0], .unused, .dstPair⟩
  | .rndAdv .. => some ⟨0, [2], false, [0, 1, 2, 3, 4], false, false, [0], .dst, .dstPair⟩
  | .rndGet .. => some ⟨0, [2], false, [0], false, false, [0], .dst, .dstPair⟩
  | .pub .. => some ⟨0, [0], false, [0], false, false, [0], .unused, .unused⟩
  | .ldP .. => some ⟨0, [2], false, [0], false, false, [0], .reg, .dstPair⟩
  | _ => none

/-- Constraints of Table 13-2 beyond its columns: the operation codes of atom and red, fence without offset, and pub's window
number in offset bits 5:0. -/
def memExtraOk (f : FmtM) : Instr → Bool
  | .atom _ v _ => v.toNat ≤ 9
  | .red _ v _ => v.toNat ≤ 9 && v != 6 && v != 7
  | .fenceAcq .. | .fenceRel .. | .fenceAr .. => f.off == 0
  | .pub .. => f.off.toNat < 64
  | _ => true

/-- R141: the format B codes; modifier and reserved bits are zero. -/
def branchFieldsOk (n : Nat) (f : FmtB) (i : Instr) : Bool :=
  f.modi == 0 && f.resv == 0 &&
  match i with
  | .bra .. | .call .. => f.cond == 0x1FF
  | .brx .. | .callx .. => Role.ok n false .regPair f.cond && f.slot == 0 && f.off == 0
  | .brz .. | .brnz .. => Role.ok n false .regLaneZero f.cond
  | .ret .. | .exitI .. => f.cond == 0x1FF && f.slot == 0 && f.off == 0
  | _ => false

/-- Tables 10-1, 10-2 and R141 (elect): the format G codes. -/
def groupFieldsOk (n : Nat) (f : FmtG) (i : Instr) : Bool :=
  let m := f.modi.toNat
  let z (x : BitVec 9) := x == 0x1FE
  Role.ok n false .regOrZero f.mask &&
  match i with
  | .elect .. => Role.ok n false .dst f.dst && z f.a && z f.b && f.lane == 0 && m < 8
  | .voteAll .. | .voteAny .. => z f.dst && z f.a && z f.b && f.lane == 0 && m % 32 == 0
  | .voteEq .. => z f.dst && Role.ok n false .regLane f.a && z f.b && f.lane == 0 && m % 512 == 0xE
  | .ballot .. => Role.ok n false .reg f.dst && z f.a && z f.b && f.lane == 0 && m % 32 == 0 && m < 512
  | .shfl _ v _ => v.toNat ≤ 3 && Role.ok n false .reg f.dst && Role.ok n false .reg f.a && Role.ok n false .regOrZero f.b &&
      (z f.b || f.lane.toNat % 32 == 0) && f.lane.toNat / 32 % 8 ≤ 4 && f.lane.toNat < 512 && m % 512 == 0xE
  | .xchg .. => Role.ok n false .reg f.dst && Role.ok n false .reg f.a && Role.ok n false .regOrZero f.b &&
      [1, 2, 4, 8, 16].contains f.lane.toNat && m == 0xE
  | .redux _ v _ => v.toNat ≤ 5 && Role.ok n false .reg f.dst && Role.ok n false .reg f.a && z f.b && f.lane == 0 &&
      (m ≤ 1 || (m == 8 && v.toNat ≤ 2))
  | .matchAny .. => Role.ok n false .reg f.dst && z f.b && f.lane == 0 &&
      ((m == 0xE && Role.ok n false .reg f.a) || (m == 0xF && Role.ok n false .regPair f.a))
  | .matchAll .. => Role.ok n false .reg f.dst && z f.b && f.lane == 0 &&
      ((m % 512 == 0xE && Role.ok n false .reg f.a) || (m % 512 == 0xF && Role.ok n false .regPair f.a))
  | .gsync .. => z f.dst && z f.a && z f.b && f.lane == 0 && m == 0
  | _ => false

/-- Tables 11-9, 17-4, 18-5 and 19-7: the format E codes (assumption log 16). -/
def engineFieldsOk (n : Nat) (f : FmtE) (i : Instr) : Bool :=
  let h := f.handle.toNat
  let p := f.par.toNat
  let z (x : BitVec 9) := x == 0x1FE
  match i with
  | .cpySlice .. => f.a.toNat + 4 < n && Role.ok n false .reg f.b && Role.ok n false .reg f.c && p < 32 && p / 8 ≤ 2
  | .cpyWait .. => h == 0 && z f.a && z f.b && z f.c && 0 < p && p < 256
  | .ringInit .. | .ringPop .. => h < 16 && Role.ok n false .reg f.a && z f.b && z f.c && p == 0
  | .ringRel .. => h < 16 && z f.a && z f.b && z f.c && p == 0
  | .bufWait .. | .bufSet .. => h < 16 && Role.ok n false .regOrZero f.a && z f.b && z f.c && p < 256
  | .opmClaim .. => h == 0 && Role.ok n false .dst f.a && z f.b && z f.c && p < 128 &&
      (if p / 64 == 0 then 1 ≤ p % 64 && p % 64 ≤ 32 else 1 ≤ p % 64 && p % 64 ≤ 4)
  | .opmRel .. => h == 0 && Role.ok n false .reg f.a && z f.b && z f.c && p < 128 &&
      (if p / 64 == 0 then 1 ≤ p % 64 && p % 64 ≤ 32 else 1 ≤ p % 64 && p % 64 ≤ 4)
  | .mma .. | .accClr .. => h == 0 && Role.ok n false .reg f.a && z f.b && z f.c && p == 0
  | .mmaWait .. => h == 0 && z f.a && z f.b && z f.c && 0 < p && p < 16
  | .accLd .. => h == 0 && Role.ok n false .reg f.a && f.b.toNat + p + 1 ≤ n && z f.c && p < 64
  | .amSend .. => h < 256 && Role.ok n false .reg f.a && z f.c && p < 16 && 1 ≤ p % 8 && p % 8 ≤ 4 && f.b.toNat + p % 8 ≤ n
  | .amDone .. => h == 0 && z f.a && z f.b && z f.c && p == 0
  | .pxrel .. => h == 0 && z f.b && z f.c && 1 ≤ p && p ≤ 320 && f.a.toNat + p ≤ n
  | .pxq .. => h ≤ 6 && (if 3 ≤ h && h ≤ 6 then Role.ok n false .regPair f.a && p == 0
      else Role.ok n false .reg f.a && p ≤ 11) && z f.b && z f.c
  | .pxlease .. => h ≤ 11 && z f.a && z f.b && z f.c && 1 ≤ p && p ≤ 64
  | .pxleaseRet .. => h ≤ 11 && z f.a && z f.b && z f.c && p == 128
  | _ => false

/-- R28, R141, Tables 11-5, 23-2, 24-5 and R433: the format S codes (assumption log 16). -/
def systemFieldsOk (n : Nat) (f : FmtS) (i : Instr) : Bool :=
  let imm := f.imm.toNat
  let bare := f.idx == 0 && f.a == 0x1FE && f.modi == 0
  let pairOnly := f.idx == 0 && Role.ok n false .regPair f.a && f.imm == 0
  match i with
  | .nop .. | .yield .. | .rti .. => bare && imm == 0
  | .bar .. => bare && imm < 16
  | .bart .. => bare && imm < 8
  | .waitt .. => bare && 1 ≤ imm % 256 && imm % 256 ≤ 6 && imm < 65536
  | .trapI .. | .brk .. | .haltI .. | .tmark .. => bare
  | .prog .. => bare && imm < 16
  | .rdsr .. => f.modi == 0 && f.imm == 0
  | .wrsr .. => (f.modi == 1 && f.a == 0x1FE) || (f.modi == 0 && f.imm == 0)
  | .launch .. | .launchAt .. | .rfe .. => pairOnly && f.modi == 0
  | .vbtQuiesce .. | .vbtSample .. | .vbtRetire .. | .vbtResume .. | .vbtDriveWalk .. | .vbtRepGrp .. => pairOnly && f.modi == 0
  | .vbtDriveFlat .. | .vbtRepRot .. => pairOnly && f.modi == 1
  | _ => false

/-- The body of an instruction word (R44). -/
inductive Body where
  | a (f : FmtA)
  | i (f : FmtI)
  | m (f : FmtM)
  | b (f : FmtB)
  | g (f : FmtG)
  | e (f : FmtE)
  | s (f : FmtS)
  deriving DecidableEq, Repr

/-- An instruction word taken apart: opcode, variant, header and body. -/
structure Parts where
  op : BitVec 10
  v : BitVec 5
  hdr : Hdr
  body : Body
  deriving DecidableEq, Repr

/-- Tables 04-5 to 04-12: the opcode and variant of each program instruction; an event or a command has no word. -/
def Instr.parts : Instr → Option Parts
  | .add h f => some ⟨0x001, 0, h, .a f⟩
  | .addImm h f => some ⟨0x041, 0, h, .i f⟩
  | .sub h f => some ⟨0x002, 0, h, .a f⟩
  | .subImm h f => some ⟨0x042, 0, h, .i f⟩
  | .addc h f => some ⟨0x003, 0, h, .a f⟩
  | .subc h f => some ⟨0x004, 0, h, .a f⟩
  | .mulLo h f => some ⟨0x005, 0, h, .a f⟩
  | .mulLoImm h f => some ⟨0x045, 0, h, .i f⟩
  | .mulHi h f => some ⟨0x005, 1, h, .a f⟩
  | .mulHiImm h f => some ⟨0x045, 1, h, .i f⟩
  | .mulWide h f => some ⟨0x005, 2, h, .a f⟩
  | .mulWideImm h f => some ⟨0x045, 2, h, .i f⟩
  | .mad h f => some ⟨0x006, 0, h, .a f⟩
  | .madWide h f => some ⟨0x006, 2, h, .a f⟩
  | .minI h f => some ⟨0x007, 0, h, .a f⟩
  | .minImm h f => some ⟨0x047, 0, h, .i f⟩
  | .maxI h f => some ⟨0x008, 0, h, .a f⟩
  | .maxImm h f => some ⟨0x048, 0, h, .i f⟩
  | .abs h f => some ⟨0x009, 0, h, .a f⟩
  | .neg h f => some ⟨0x00A, 0, h, .a f⟩
  | .absdiff h f => some ⟨0x00B, 0, h, .a f⟩
  | .sad h f => some ⟨0x00C, 0, h, .a f⟩
  | .dp4 h f => some ⟨0x024, 0, h, .a f⟩
  | .dp2 h f => some ⟨0x025, 0, h, .a f⟩
  | .lea h f => some ⟨0x00D, 0, h, .a f⟩
  | .leaImm h f => some ⟨0x04D, 0, h, .i f⟩
  | .add64 h f => some ⟨0x00E, 0, h, .a f⟩
  | .sub64 h f => some ⟨0x00F, 0, h, .a f⟩
  | .andB h f => some ⟨0x010, 0, h, .a f⟩
  | .andImm h f => some ⟨0x050, 0, h, .i f⟩
  | .orB h f => some ⟨0x011, 0, h, .a f⟩
  | .orImm h f => some ⟨0x051, 0, h, .i f⟩
  | .xorB h f => some ⟨0x012, 0, h, .a f⟩
  | .xorImm h f => some ⟨0x052, 0, h, .i f⟩
  | .notB h f => some ⟨0x013, 0, h, .a f⟩
  | .lop3 h f => some ⟨0x014, 0, h, .a f⟩
  | .shl h f => some ⟨0x015, 0, h, .a f⟩
  | .shlImm h f => some ⟨0x055, 0, h, .i f⟩
  | .shr h f => some ⟨0x016, 0, h, .a f⟩
  | .shrImm h f => some ⟨0x056, 0, h, .i f⟩
  | .sar h f => some ⟨0x017, 0, h, .a f⟩
  | .sarImm h f => some ⟨0x057, 0, h, .i f⟩
  | .rot h f => some ⟨0x018, 0, h, .a f⟩
  | .rotImm h f => some ⟨0x058, 0, h, .i f⟩
  | .shfL h f => some ⟨0x019, 0, h, .a f⟩
  | .shfR h f => some ⟨0x019, 1, h, .a f⟩
  | .bfe h f => some ⟨0x01A, 0, h, .a f⟩
  | .bfi h f => some ⟨0x01B, 0, h, .a f⟩
  | .brev h f => some ⟨0x01C, 0, h, .a f⟩
  | .popc h f => some ⟨0x01D, 0, h, .a f⟩
  | .clz h f => some ⟨0x01E, 0, h, .a f⟩
  | .ctz h f => some ⟨0x01F, 0, h, .a f⟩
  | .prmt h f => some ⟨0x020, 0, h, .a f⟩
  | .sel h f => some ⟨0x021, 0, h, .a f⟩
  | .cmp h v f => some ⟨0x022, v, h, .a f⟩
  | .cmpImm h v f => some ⟨0x062, v, h, .i f⟩
  | .setc h v f => some ⟨0x023, v, h, .a f⟩
  | .setcImm h v f => some ⟨0x063, v, h, .i f⟩
  | .mov h f => some ⟨0x026, 0, h, .a f⟩
  | .movImm h f => some ⟨0x066, 0, h, .i f⟩
  | .fadd h f => some ⟨0x081, 0, h, .a f⟩
  | .fsub h f => some ⟨0x082, 0, h, .a f⟩
  | .fmul h f => some ⟨0x083, 0, h, .a f⟩
  | .ffma h f => some ⟨0x084, 0, h, .a f⟩
  | .fmin h f => some ⟨0x085, 0, h, .a f⟩
  | .fmax h f => some ⟨0x086, 0, h, .a f⟩
  | .fcmp h v f => some ⟨0x087, v, h, .a f⟩
  | .fclass h f => some ⟨0x088, 0, h, .a f⟩
  | .frint h f => some ⟨0x089, 0, h, .a f⟩
  | .ffrac h f => some ⟨0x08A, 0, h, .a f⟩
  | .fscale h f => some ⟨0x08B, 0, h, .a f⟩
  | .fgetexp h f => some ⟨0x08C, 0, h, .a f⟩
  | .dadd h f => some ⟨0x090, 0, h, .a f⟩
  | .dmul h f => some ⟨0x091, 0, h, .a f⟩
  | .dfma h f => some ⟨0x092, 0, h, .a f⟩
  | .hadd2 h f => some ⟨0x098, 0, h, .a f⟩
  | .hmul2 h f => some ⟨0x099, 0, h, .a f⟩
  | .hfma2 h f => some ⟨0x09A, 0, h, .a f⟩
  | .bfadd2 h f => some ⟨0x09C, 0, h, .a f⟩
  | .bfma2 h f => some ⟨0x09D, 0, h, .a f⟩
  | .cvt h v f => some ⟨0x101, v, h, .a f⟩
  | .cvtSr h v f => some ⟨0x101, v, h, .a f⟩
  | .pk4 h f => some ⟨0x102, 0, h, .a f⟩
  | .upk4 h f => some ⟨0x103, 0, h, .a f⟩
  | .frcp h f => some ⟨0x110, 0, h, .a f⟩
  | .frsq h f => some ⟨0x111, 0, h, .a f⟩
  | .fsqrt h f => some ⟨0x112, 0, h, .a f⟩
  | .fsin h f => some ⟨0x113, 0, h, .a f⟩
  | .fcos h f => some ⟨0x114, 0, h, .a f⟩
  | .fex2 h f => some ⟨0x115, 0, h, .a f⟩
  | .flg2 h f => some ⟨0x116, 0, h, .a f⟩
  | .ftanh h f => some ⟨0x117, 0, h, .a f⟩
  | .ld h f => some ⟨0x181, 0, h, .m f⟩
  | .st h f => some ⟨0x182, 0, h, .m f⟩
  | .ldB h f => some ⟨0x183, 0, h, .m f⟩
  | .ldAcq h f => some ⟨0x184, 0, h, .m f⟩
  | .stRel h f => some ⟨0x185, 0, h, .m f⟩
  | .ldsp h f => some ⟨0x186, 0, h, .m f⟩
  | .stsp h f => some ⟨0x187, 0, h, .m f⟩
  | .ldcl h f => some ⟨0x188, 0, h, .m f⟩
  | .stcl h f => some ⟨0x189, 0, h, .m f⟩
  | .ldds h f => some ⟨0x18A, 0, h, .m f⟩
  | .stds h f => some ⟨0x18B, 0, h, .m f⟩
  | .ldlp h f => some ⟨0x18C, 0, h, .m f⟩
  | .stlp h f => some ⟨0x18D, 0, h, .m f⟩
  | .ldc h f => some ⟨0x18E, 0, h, .m f⟩
  | .atom h v f => some ⟨0x190, v, h, .m f⟩
  | .red h v f => some ⟨0x191, v, h, .m f⟩
  | .fenceAcq h f => some ⟨0x198, 0, h, .m f⟩
  | .fenceRel h f => some ⟨0x198, 1, h, .m f⟩
  | .fenceAr h f => some ⟨0x198, 2, h, .m f⟩
  | .cwb h f => some ⟨0x199, 0, h, .m f⟩
  | .cinv h f => some ⟨0x19A, 0, h, .m f⟩
  | .cpf h f => some ⟨0x19B, 0, h, .m f⟩
  | .rndAdv h f => some ⟨0x1A0, 0, h, .m f⟩
  | .rndGet h f => some ⟨0x1A1, 0, h, .m f⟩
  | .pub h f => some ⟨0x1A2, 0, h, .m f⟩
  | .nop h f => some ⟨0x200, 0, h, .s f⟩
  | .bra h f => some ⟨0x201, 0, h, .b f⟩
  | .brx h f => some ⟨0x202, 0, h, .b f⟩
  | .brz h f => some ⟨0x203, 0, h, .b f⟩
  | .brnz h f => some ⟨0x204, 0, h, .b f⟩
  | .call h f => some ⟨0x205, 0, h, .b f⟩
  | .callx h f => some ⟨0x206, 0, h, .b f⟩
  | .ret h f => some ⟨0x207, 0, h, .b f⟩
  | .exitI h f => some ⟨0x208, 0, h, .b f⟩
  | .yield h f => some ⟨0x209, 0, h, .s f⟩
  | .bar h f => some ⟨0x20A, 0, h, .s f⟩
  | .bart h f => some ⟨0x20B, 0, h, .s f⟩
  | .waitt h f => some ⟨0x20C, 0, h, .s f⟩
  | .trapI h f => some ⟨0x20D, 0, h, .s f⟩
  | .rti h f => some ⟨0x20E, 0, h, .s f⟩
  | .elect h f => some ⟨0x20F, 0, h, .g f⟩
  | .pset h f => some ⟨0x210, 0, h, .i f⟩
  | .pand h f => some ⟨0x211, 0, h, .i f⟩
  | .por h f => some ⟨0x212, 0, h, .i f⟩
  | .pxor h f => some ⟨0x213, 0, h, .i f⟩
  | .pnot h f => some ⟨0x214, 0, h, .i f⟩
  | .voteAll h f => some ⟨0x281, 0, h, .g f⟩
  | .voteAny h f => some ⟨0x281, 1, h, .g f⟩
  | .voteEq h f => some ⟨0x281, 2, h, .g f⟩
  | .ballot h f => some ⟨0x282, 0, h, .g f⟩
  | .shfl h v f => some ⟨0x283, v, h, .g f⟩
  | .xchg h f => some ⟨0x284, 0, h, .g f⟩
  | .redux h v f => some ⟨0x285, v, h, .g f⟩
  | .matchAny h f => some ⟨0x286, 0, h, .g f⟩
  | .matchAll h f => some ⟨0x286, 1, h, .g f⟩
  | .gsync h f => some ⟨0x287, 0, h, .g f⟩
  | .cpySlice h f => some ⟨0x301, 0, h, .e f⟩
  | .cpyWait h f => some ⟨0x302, 0, h, .e f⟩
  | .ringInit h f => some ⟨0x303, 0, h, .e f⟩
  | .ringPop h f => some ⟨0x304, 0, h, .e f⟩
  | .ringRel h f => some ⟨0x305, 0, h, .e f⟩
  | .bufWait h f => some ⟨0x306, 0, h, .e f⟩
  | .bufSet h f => some ⟨0x307, 0, h, .e f⟩
  | .opmClaim h f => some ⟨0x310, 0, h, .e f⟩
  | .opmRel h f => some ⟨0x311, 0, h, .e f⟩
  | .mma h f => some ⟨0x312, 0, h, .e f⟩
  | .mmaWait h f => some ⟨0x313, 0, h, .e f⟩
  | .accLd h f => some ⟨0x314, 0, h, .e f⟩
  | .accClr h f => some ⟨0x315, 0, h, .e f⟩
  | .amSend h f => some ⟨0x318, 0, h, .e f⟩
  | .amDone h f => some ⟨0x319, 0, h, .e f⟩
  | .ldP h f => some ⟨0x320, 0, h, .m f⟩
  | .mat h f => some ⟨0x321, 0, h, .a f⟩
  | .pxrel h f => some ⟨0x322, 0, h, .e f⟩
  | .pxq h f => some ⟨0x323, 0, h, .e f⟩
  | .pxlease h f => some ⟨0x324, 0, h, .e f⟩
  | .pxleaseRet h f => some ⟨0x324, 0, h, .e f⟩
  | .rdsr h f => some ⟨0x380, 0, h, .s f⟩
  | .wrsr h f => some ⟨0x381, 0, h, .s f⟩
  | .launch h f => some ⟨0x388, 0, h, .s f⟩
  | .launchAt h f => some ⟨0x389, 0, h, .s f⟩
  | .brk h f => some ⟨0x390, 0, h, .s f⟩
  | .haltI h f => some ⟨0x391, 0, h, .s f⟩
  | .rfe h f => some ⟨0x392, 0, h, .s f⟩
  | .prog h f => some ⟨0x398, 0, h, .s f⟩
  | .tmark h f => some ⟨0x399, 0, h, .s f⟩
  | .vbtQuiesce h f => some ⟨0x3A0, 0, h, .s f⟩
  | .vbtDriveWalk h f => some ⟨0x3A1, 0, h, .s f⟩
  | .vbtDriveFlat h f => some ⟨0x3A1, 0, h, .s f⟩
  | .vbtSample h f => some ⟨0x3A2, 0, h, .s f⟩
  | .vbtRepGrp h f => some ⟨0x3A3, 0, h, .s f⟩
  | .vbtRepRot h f => some ⟨0x3A3, 0, h, .s f⟩
  | .vbtRetire h f => some ⟨0x3A4, 0, h, .s f⟩
  | .vbtResume h f => some ⟨0x3A5, 0, h, .s f⟩
  | _ => none

/-- Condition codes of Table 04-4 and the rounding that tells cvt from cvt.sr (R70). -/
def Instr.variantOk : Instr → Bool
  | .cmp _ cc _ | .setc _ cc _ => cc.toNat ≤ 5
  | .cmpImm _ cc _ | .setcImm _ cc _ => cc.toNat ≤ 5
  | .fcmp _ cc _ => cc.toNat ≤ 5 || (8 ≤ cc.toNat && cc.toNat ≤ 15)
  | .cvt _ sty f => f.rnd != 4 && cvtPairOk sty.toNat f.ty.toNat f.rnd.toNat
  | .cvtSr _ sty f => f.rnd == 4 && cvtPairOk sty.toNat f.ty.toNat 4
  | _ => true

/-- Table 04-13, order 5: whether the fields of an instruction are legal when n registers are declared. An event or a command
has no word: its arguments are checked where it acts. -/
def Instr.wf (n : Nat) (i : Instr) : Bool :=
  match i.parts with
  | none => true
  | some p =>
    p.hdr.ok && i.variantOk &&
    match p.body with
    | .a f => (i.specA f).any (fun r => r.ok n f)
    | .i f => (i.specI f).any (fun r => r.ok n f) || predFieldsOk n f i
    | .m f => (i.specM f).any (fun r => r.ok n f) && memExtraOk f i
    | .b f => branchFieldsOk n f i
    | .g f => groupFieldsOk n f i
    | .e f => engineFieldsOk n f i
    | .s f => systemFieldsOk n f i

end Sys2Proof
end

