-- ==== Sys2Proof/Decode.lean ====
section
/-! DEFINITION. Decoding of an instruction slot, total and by name, from Tables 02-4 to 02-11 and 04-5 to 04-12, and the encoder
written from the same tables. Field values are checked afterwards, by Instr.wf. -/

namespace Sys2Proof

/-- Why a slot stands for no instruction. -/
inductive DecodeError where
  /-- R72: the opcode is in none of Tables 04-5 to 04-12 -/
  | unassigned (op : BitVec 10)
  /-- R69: the row of the opcode does not list this variant -/
  | variant (op : BitVec 10) (v : BitVec 5)
  deriving DecidableEq, Repr

/-- Bits of a slot from lo up, n of them. -/
def Slot.field (w : Slot) (lo n : Nat) : BitVec n := BitVec.extractLsb' lo n w

/-- Table 02-4. -/
def slotOp (w : Slot) : BitVec 10 := Slot.field w 86 10

/-- Table 02-4. -/
def slotVariant (w : Slot) : BitVec 5 := Slot.field w 81 5

/-- Table 02-4: the header less opcode and variant. -/
def slotHdr (w : Slot) : Hdr :=
  ⟨Slot.field w 77 4, Slot.field w 76 1, Slot.field w 73 3, Slot.field w 67 6, Slot.field w 64 3⟩

/-- Table 02-5. -/
def slotA (w : Slot) : FmtA :=
  ⟨Slot.field w 55 9, Slot.field w 46 9, Slot.field w 37 9, Slot.field w 28 9, Slot.field w 24 4, Slot.field w 21 3, Slot.field w 20 1, Slot.field w 17 3, Slot.field w 0 17⟩

/-- Table 02-6. -/
def slotI (w : Slot) : FmtI :=
  ⟨Slot.field w 55 9, Slot.field w 46 9, Slot.field w 42 4, Slot.field w 32 10, Slot.field w 0 32⟩

/-- Table 02-7. -/
def slotM (w : Slot) : FmtM :=
  ⟨Slot.field w 55 9, Slot.field w 46 9, Slot.field w 43 3, Slot.field w 40 3, Slot.field w 38 2, Slot.field w 35 3, Slot.field w 31 4, Slot.field w 25 6, Slot.field w 23 2, Slot.field w 0 23⟩

/-- Table 02-8. -/
def slotB (w : Slot) : FmtB :=
  ⟨Slot.field w 55 9, Slot.field w 52 3, Slot.field w 48 4, Slot.field w 16 32, Slot.field w 0 16⟩

/-- Table 02-9. -/
def slotG (w : Slot) : FmtG :=
  ⟨Slot.field w 55 9, Slot.field w 46 9, Slot.field w 37 9, Slot.field w 28 9, Slot.field w 12 16, Slot.field w 0 12⟩

/-- Table 02-10. -/
def slotE (w : Slot) : FmtE :=
  ⟨Slot.field w 48 16, Slot.field w 39 9, Slot.field w 30 9, Slot.field w 21 9, Slot.field w 0 21⟩

/-- Table 02-11. -/
def slotS (w : Slot) : FmtS :=
  ⟨Slot.field w 52 12, Slot.field w 43 9, Slot.field w 32 11, Slot.field w 0 32⟩

/-- R69: a row that lists no variants has variant 0. -/
def plain (v : BitVec 5) (i : Instr) : Option Instr := if v == 0 then some i else none

/-- Table 04-5, format A. -/
def decodeAlu (op : Nat) (v : BitVec 5) (h : Hdr) (w : Slot) : Option Instr :=
  match op with
  | 0x001 => plain v (.add h (slotA w))
  | 0x002 => plain v (.sub h (slotA w))
  | 0x003 => plain v (.addc h (slotA w))
  | 0x004 => plain v (.subc h (slotA w))
  | 0x005 => if v == 0 then some (.mulLo h (slotA w)) else if v == 1 then some (.mulHi h (slotA w)) else if v == 2 then some (.mulWide h (slotA w)) else none
  | 0x006 => if v == 0 then some (.mad h (slotA w)) else if v == 2 then some (.madWide h (slotA w)) else none
  | 0x007 => plain v (.minI h (slotA w))
  | 0x008 => plain v (.maxI h (slotA w))
  | 0x009 => plain v (.abs h (slotA w))
  | 0x00A => plain v (.neg h (slotA w))
  | 0x00B => plain v (.absdiff h (slotA w))
  | 0x00C => plain v (.sad h (slotA w))
  | 0x00D => plain v (.lea h (slotA w))
  | 0x00E => plain v (.add64 h (slotA w))
  | 0x00F => plain v (.sub64 h (slotA w))
  | 0x010 => plain v (.andB h (slotA w))
  | 0x011 => plain v (.orB h (slotA w))
  | 0x012 => plain v (.xorB h (slotA w))
  | 0x013 => plain v (.notB h (slotA w))
  | 0x014 => plain v (.lop3 h (slotA w))
  | 0x015 => plain v (.shl h (slotA w))
  | 0x016 => plain v (.shr h (slotA w))
  | 0x017 => plain v (.sar h (slotA w))
  | 0x018 => plain v (.rot h (slotA w))
  | 0x019 => if v == 0 then some (.shfL h (slotA w)) else if v == 1 then some (.shfR h (slotA w)) else none
  | 0x01A => plain v (.bfe h (slotA w))
  | 0x01B => plain v (.bfi h (slotA w))
  | 0x01C => plain v (.brev h (slotA w))
  | 0x01D => plain v (.popc h (slotA w))
  | 0x01E => plain v (.clz h (slotA w))
  | 0x01F => plain v (.ctz h (slotA w))
  | 0x020 => plain v (.prmt h (slotA w))
  | 0x021 => plain v (.sel h (slotA w))
  | 0x022 => some (.cmp h v (slotA w))
  | 0x023 => some (.setc h v (slotA w))
  | 0x024 => plain v (.dp4 h (slotA w))
  | 0x025 => plain v (.dp2 h (slotA w))
  | 0x026 => plain v (.mov h (slotA w))
  | _ => none

/-- Table 04-5, the format I codes of R71. -/
def decodeImm (op : Nat) (v : BitVec 5) (h : Hdr) (w : Slot) : Option Instr :=
  match op with
  | 0x041 => plain v (.addImm h (slotI w))
  | 0x042 => plain v (.subImm h (slotI w))
  | 0x045 => if v == 0 then some (.mulLoImm h (slotI w)) else if v == 1 then some (.mulHiImm h (slotI w)) else if v == 2 then some (.mulWideImm h (slotI w)) else none
  | 0x047 => plain v (.minImm h (slotI w))
  | 0x048 => plain v (.maxImm h (slotI w))
  | 0x04D => plain v (.leaImm h (slotI w))
  | 0x050 => plain v (.andImm h (slotI w))
  | 0x051 => plain v (.orImm h (slotI w))
  | 0x052 => plain v (.xorImm h (slotI w))
  | 0x055 => plain v (.shlImm h (slotI w))
  | 0x056 => plain v (.shrImm h (slotI w))
  | 0x057 => plain v (.sarImm h (slotI w))
  | 0x058 => plain v (.rotImm h (slotI w))
  | 0x062 => some (.cmpImm h v (slotI w))
  | 0x063 => some (.setcImm h v (slotI w))
  | 0x066 => plain v (.movImm h (slotI w))
  | _ => none

/-- Table 04-6. -/
def decodeFloat (op : Nat) (v : BitVec 5) (h : Hdr) (w : Slot) : Option Instr :=
  match op with
  | 0x081 => plain v (.fadd h (slotA w))
  | 0x082 => plain v (.fsub h (slotA w))
  | 0x083 => plain v (.fmul h (slotA w))
  | 0x084 => plain v (.ffma h (slotA w))
  | 0x085 => plain v (.fmin h (slotA w))
  | 0x086 => plain v (.fmax h (slotA w))
  | 0x087 => some (.fcmp h v (slotA w))
  | 0x088 => plain v (.fclass h (slotA w))
  | 0x089 => plain v (.frint h (slotA w))
  | 0x08A => plain v (.ffrac h (slotA w))
  | 0x08B => plain v (.fscale h (slotA w))
  | 0x08C => plain v (.fgetexp h (slotA w))
  | 0x090 => plain v (.dadd h (slotA w))
  | 0x091 => plain v (.dmul h (slotA w))
  | 0x092 => plain v (.dfma h (slotA w))
  | 0x098 => plain v (.hadd2 h (slotA w))
  | 0x099 => plain v (.hmul2 h (slotA w))
  | 0x09A => plain v (.hfma2 h (slotA w))
  | 0x09C => plain v (.bfadd2 h (slotA w))
  | 0x09D => plain v (.bfma2 h (slotA w))
  | _ => none

/-- Table 04-7 (cvt.sr is cvt with rounding code 4, R70). -/
def decodeConvert (op : Nat) (v : BitVec 5) (h : Hdr) (w : Slot) : Option Instr :=
  match op with
  | 0x101 => some (if (slotA w).rnd == 4 then .cvtSr h v (slotA w) else .cvt h v (slotA w))
  | 0x102 => plain v (.pk4 h (slotA w))
  | 0x103 => plain v (.upk4 h (slotA w))
  | 0x110 => plain v (.frcp h (slotA w))
  | 0x111 => plain v (.frsq h (slotA w))
  | 0x112 => plain v (.fsqrt h (slotA w))
  | 0x113 => plain v (.fsin h (slotA w))
  | 0x114 => plain v (.fcos h (slotA w))
  | 0x115 => plain v (.fex2 h (slotA w))
  | 0x116 => plain v (.flg2 h (slotA w))
  | 0x117 => plain v (.ftanh h (slotA w))
  | _ => none

/-- Table 04-8. -/
def decodeMemory (op : Nat) (v : BitVec 5) (h : Hdr) (w : Slot) : Option Instr :=
  match op with
  | 0x181 => plain v (.ld h (slotM w))
  | 0x182 => plain v (.st h (slotM w))
  | 0x183 => plain v (.ldB h (slotM w))
  | 0x184 => plain v (.ldAcq h (slotM w))
  | 0x185 => plain v (.stRel h (slotM w))
  | 0x186 => plain v (.ldsp h (slotM w))
  | 0x187 => plain v (.stsp h (slotM w))
  | 0x188 => plain v (.ldcl h (slotM w))
  | 0x189 => plain v (.stcl h (slotM w))
  | 0x18A => plain v (.ldds h (slotM w))
  | 0x18B => plain v (.stds h (slotM w))
  | 0x18C => plain v (.ldlp h (slotM w))
  | 0x18D => plain v (.stlp h (slotM w))
  | 0x18E => plain v (.ldc h (slotM w))
  | 0x190 => some (.atom h v (slotM w))
  | 0x191 => some (.red h v (slotM w))
  | 0x198 => if v == 0 then some (.fenceAcq h (slotM w)) else if v == 1 then some (.fenceRel h (slotM w)) else if v == 2 then some (.fenceAr h (slotM w)) else none
  | 0x199 => plain v (.cwb h (slotM w))
  | 0x19A => plain v (.cinv h (slotM w))
  | 0x19B => plain v (.cpf h (slotM w))
  | 0x1A0 => plain v (.rndAdv h (slotM w))
  | 0x1A1 => plain v (.rndGet h (slotM w))
  | 0x1A2 => plain v (.pub h (slotM w))
  | _ => none

/-- Table 04-9. -/
def decodeControl (op : Nat) (v : BitVec 5) (h : Hdr) (w : Slot) : Option Instr :=
  match op with
  | 0x200 => plain v (.nop h (slotS w))
  | 0x201 => plain v (.bra h (slotB w))
  | 0x202 => plain v (.brx h (slotB w))
  | 0x203 => plain v (.brz h (slotB w))
  | 0x204 => plain v (.brnz h (slotB w))
  | 0x205 => plain v (.call h (slotB w))
  | 0x206 => plain v (.callx h (slotB w))
  | 0x207 => plain v (.ret h (slotB w))
  | 0x208 => plain v (.exitI h (slotB w))
  | 0x209 => plain v (.yield h (slotS w))
  | 0x20A => plain v (.bar h (slotS w))
  | 0x20B => plain v (.bart h (slotS w))
  | 0x20C => plain v (.waitt h (slotS w))
  | 0x20D => plain v (.trapI h (slotS w))
  | 0x20E => plain v (.rti h (slotS w))
  | 0x20F => plain v (.elect h (slotG w))
  | 0x210 => plain v (.pset h (slotI w))
  | 0x211 => plain v (.pand h (slotI w))
  | 0x212 => plain v (.por h (slotI w))
  | 0x213 => plain v (.pxor h (slotI w))
  | 0x214 => plain v (.pnot h (slotI w))
  | _ => none

/-- Table 04-10. -/
def decodeGroup (op : Nat) (v : BitVec 5) (h : Hdr) (w : Slot) : Option Instr :=
  match op with
  | 0x281 => if v == 0 then some (.voteAll h (slotG w)) else if v == 1 then some (.voteAny h (slotG w)) else if v == 2 then some (.voteEq h (slotG w)) else none
  | 0x282 => plain v (.ballot h (slotG w))
  | 0x283 => some (.shfl h v (slotG w))
  | 0x284 => plain v (.xchg h (slotG w))
  | 0x285 => some (.redux h v (slotG w))
  | 0x286 => if v == 0 then some (.matchAny h (slotG w)) else if v == 1 then some (.matchAll h (slotG w)) else none
  | 0x287 => plain v (.gsync h (slotG w))
  | _ => none

/-- Table 04-11. -/
def decodeEngine (op : Nat) (v : BitVec 5) (h : Hdr) (w : Slot) : Option Instr :=
  match op with
  | 0x301 => plain v (.cpySlice h (slotE w))
  | 0x302 => plain v (.cpyWait h (slotE w))
  | 0x303 => plain v (.ringInit h (slotE w))
  | 0x304 => plain v (.ringPop h (slotE w))
  | 0x305 => plain v (.ringRel h (slotE w))
  | 0x306 => plain v (.bufWait h (slotE w))
  | 0x307 => plain v (.bufSet h (slotE w))
  | 0x310 => plain v (.opmClaim h (slotE w))
  | 0x311 => plain v (.opmRel h (slotE w))
  | 0x312 => plain v (.mma h (slotE w))
  | 0x313 => plain v (.mmaWait h (slotE w))
  | 0x314 => plain v (.accLd h (slotE w))
  | 0x315 => plain v (.accClr h (slotE w))
  | 0x318 => plain v (.amSend h (slotE w))
  | 0x319 => plain v (.amDone h (slotE w))
  | 0x320 => plain v (.ldP h (slotM w))
  | 0x321 => plain v (.mat h (slotA w))
  | 0x322 => plain v (.pxrel h (slotE w))
  | 0x323 => plain v (.pxq h (slotE w))
  | 0x324 => plain v (if (slotE w).par.toNat / 128 % 2 == 1 then .pxleaseRet h (slotE w) else .pxlease h (slotE w))
  | _ => none

/-- Table 04-12. -/
def decodeSystem (op : Nat) (v : BitVec 5) (h : Hdr) (w : Slot) : Option Instr :=
  match op with
  | 0x380 => plain v (.rdsr h (slotS w))
  | 0x381 => plain v (.wrsr h (slotS w))
  | 0x388 => plain v (.launch h (slotS w))
  | 0x389 => plain v (.launchAt h (slotS w))
  | 0x390 => plain v (.brk h (slotS w))
  | 0x391 => plain v (.haltI h (slotS w))
  | 0x392 => plain v (.rfe h (slotS w))
  | 0x398 => plain v (.prog h (slotS w))
  | 0x399 => plain v (.tmark h (slotS w))
  | 0x3A0 => plain v (.vbtQuiesce h (slotS w))
  | 0x3A1 => plain v (if (slotS w).modi.toNat % 2 == 1 then .vbtDriveFlat h (slotS w) else .vbtDriveWalk h (slotS w))
  | 0x3A2 => plain v (.vbtSample h (slotS w))
  | 0x3A3 => plain v (if (slotS w).modi.toNat % 2 == 1 then .vbtRepRot h (slotS w) else .vbtRepGrp h (slotS w))
  | 0x3A4 => plain v (.vbtRetire h (slotS w))
  | 0x3A5 => plain v (.vbtResume h (slotS w))
  | _ => none

/-- Tables 04-5 to 04-12, column Iss: runs of assigned opcodes (first, last) with their issue class. -/
def opcodeRuns : List (Nat × Nat × Nat) :=
  [(0x001, 0x004, 3), (0x005, 0x006, 0), (0x007, 0x00B, 3), (0x00C, 0x00C, 0), (0x00D, 0x023, 3),
   (0x024, 0x025, 0), (0x026, 0x026, 3), (0x041, 0x042, 3), (0x045, 0x045, 0), (0x047, 0x048, 3),
   (0x04D, 0x04D, 3), (0x050, 0x052, 3), (0x055, 0x058, 3), (0x062, 0x063, 3), (0x066, 0x066, 3),
   (0x081, 0x08C, 0), (0x090, 0x092, 0), (0x098, 0x09A, 0), (0x09C, 0x09D, 0), (0x101, 0x103, 3),
   (0x110, 0x117, 3), (0x181, 0x18E, 1), (0x190, 0x191, 1), (0x198, 0x19B, 1), (0x1A0, 0x1A2, 1),
   (0x200, 0x20F, 2), (0x210, 0x214, 3), (0x281, 0x287, 2), (0x301, 0x307, 2), (0x310, 0x315, 2),
   (0x318, 0x319, 2), (0x320, 0x321, 1), (0x322, 0x324, 2), (0x380, 0x381, 2), (0x388, 0x389, 2),
   (0x390, 0x392, 2), (0x398, 0x399, 2), (0x3A0, 0x3A5, 2)]

/-- R72, Table 04-13, order 3: the issue class of an assigned opcode, none of an unassigned one. -/
def issueClass (op : BitVec 10) : Option Nat :=
  (opcodeRuns.find? fun r => r.1 ≤ op.toNat && op.toNat ≤ r.2.1).map (fun r => r.2.2)

/-- R66: the class chapters, by opcode bits 9:7. -/
def decodeClass (op : Nat) (v : BitVec 5) (h : Hdr) (w : Slot) : Option Instr :=
  match op / 128 with
  | 0 => if op < 0x40 then decodeAlu op v h w else decodeImm op v h w
  | 1 => decodeFloat op v h w
  | 2 => decodeConvert op v h w
  | 3 => decodeMemory op v h w
  | 4 => decodeControl op v h w
  | 5 => decodeGroup op v h w
  | 6 => decodeEngine op v h w
  | _ => decodeSystem op v h w

/-- R72, R69: the instruction a slot stands for. -/
def decode (w : Slot) : Except DecodeError Instr :=
  match decodeClass (slotOp w).toNat (slotVariant w) (slotHdr w) w with
  | some i => .ok i
  | none => if (issueClass (slotOp w)).isSome then .error (.variant (slotOp w) (slotVariant w)) else .error (.unassigned (slotOp w))

/-- Table 02-5, as 64 bits. -/
def FmtA.bits (f : FmtA) : BitVec 64 :=
  f.dst ++ f.a ++ f.b ++ f.c ++ f.ty ++ f.rnd ++ f.sat ++ f.win ++ f.off

/-- Table 02-6, as 64 bits. -/
def FmtI.bits (f : FmtI) : BitVec 64 :=
  f.dst ++ f.a ++ f.ty ++ f.modi ++ f.imm

/-- Table 02-7, as 64 bits. -/
def FmtM.bits (f : FmtM) : BitVec 64 :=
  f.data ++ f.addr ++ f.space ++ f.size ++ f.cache ++ f.scope ++ f.bound ++ f.span ++ f.mode ++ f.off

/-- Table 02-8, as 64 bits. -/
def FmtB.bits (f : FmtB) : BitVec 64 :=
  f.cond ++ f.slot ++ f.modi ++ f.off ++ f.resv

/-- Table 02-9, as 64 bits. -/
def FmtG.bits (f : FmtG) : BitVec 64 :=
  f.dst ++ f.a ++ f.b ++ f.mask ++ f.lane ++ f.modi

/-- Table 02-10, as 64 bits. -/
def FmtE.bits (f : FmtE) : BitVec 64 :=
  f.handle ++ f.a ++ f.b ++ f.c ++ f.par

/-- Table 02-11, as 64 bits. -/
def FmtS.bits (f : FmtS) : BitVec 64 :=
  f.idx ++ f.a ++ f.modi ++ f.imm

/-- Tables 02-5 to 02-11: the body of a word as 64 bits. -/
def Body.bits : Body → BitVec 64
  | .a f => f.bits
  | .i f => f.bits
  | .m f => f.bits
  | .b f => f.bits
  | .g f => f.bits
  | .e f => f.bits
  | .s f => f.bits

/-- Table 02-4: the header as 32 bits. -/
def Hdr.bits (op : BitVec 10) (v : BitVec 5) (h : Hdr) : BitVec 32 := op ++ v ++ h.stall ++ h.neg ++ h.pred ++ h.wait ++ h.tok

/-- R33, R40, R44: the slot of an instruction taken apart. -/
def Parts.bits (p : Parts) : Slot := Hdr.bits p.op p.v p.hdr ++ p.body.bits

/-- R33: the slot that encodes a program instruction; an event or a firmware command has none. -/
def encode (i : Instr) : Option Slot := i.parts.map Parts.bits

/-- The instruction of a word whose bits are numbered as the opcode table numbers them. -/
def decodeTableWord (_nbits w : Nat) : Option Instr :=
  match decode (BitVec.ofNat 96 w) with
  | .ok i => some i
  | .error _ => none

/-- R34: the entry mask of a line word. -/
def lineEntry (w : Word) : BitVec 5 := BitVec.extractLsb' 0 5 w

/-- R34: the template class of a slot. -/
def lineClass (w : Word) (k : Nat) : Nat := w.toNat / 2 ^ (5 + 2 * k) % 4

/-- R34: the stored parity bit of a slot. -/
def lineParity (w : Word) (k : Nat) : Bool := w.toNat / 2 ^ (15 + k) % 2 == 1

/-- Number of set bits in the low n bits. -/
def countOnes (n x : Nat) : Nat := (List.range n).foldl (fun c i => c + x / 2 ^ i % 2) 0

/-- R34, R36: reserved bits zero and even parity over bits 20:0. -/
def lineReservedOk (w : Word) : Bool := w.toNat / 2 ^ 21 == 0

/-- R34: even parity over bits 20:0. -/
def lineParityOk (w : Word) : Bool := countOnes 21 w.toNat % 2 == 0

/-- R34: even parity over a slot together with its bit. -/
def slotParityOk (w : Word) (k : Nat) (s : Slot) : Bool :=
  (countOnes 96 s.toNat % 2 == 1) == lineParity w k

end Sys2Proof
end

