-- ==== Sys2Proof/Machine/Ops.lean ====
section
/-! DEFINITION. The named operations over the state that every family uses: reading and changing its tables, time and events,
translation, register lanes and their slots, tokens, taking a fault, taking a user trap and returning from it, waits, results not
yet written, and the trace. -/

namespace Sys2Proof.Machine

/-- What a meaning answers. -/
abbrev Out := Host.Outcome State Fault Refusal

/-! ### Tables of the state -/

def State.core (s : State) (c : Nat) : Core := tblGet {} s.cores c
def State.setCore (s : State) (c : Nat) (k : Core) : State := { s with cores := tblPut s.cores c k }
def State.modCore (s : State) (c : Nat) (f : Core → Core) : State := s.setCore c (f (s.core c))
def State.die (s : State) (d : Nat) : Die := tblGet {} s.dies d
def State.modDie (s : State) (d : Nat) (f : Die → Die) : State := { s with dies := tblPut s.dies d (f (s.die d)) }
def State.home (s : State) (h : Nat) : Home := tblGet {} s.homes h
def State.modHome (s : State) (h : Nat) (f : Home → Home) : State := { s with homes := tblPut s.homes h (f (s.home h)) }
def State.ctx (s : State) (c : Nat) : Ctx := tblGet {} s.ctxs c
def State.modCtx (s : State) (c : Nat) (f : Ctx → Ctx) : State := { s with ctxs := tblPut s.ctxs c (f (s.ctx c)) }
def State.wg (s : State) (w : Nat) : Workgroup := tblGet {} s.wgs w
def State.modWg (s : State) (w : Nat) (f : Workgroup → Workgroup) : State := { s with wgs := tblPut s.wgs w (f (s.wg w)) }
def State.launch (s : State) (l : Nat) : Launch := tblGet {} s.launches l
def State.modLaunch (s : State) (l : Nat) (f : Launch → Launch) : State := { s with launches := tblPut s.launches l (f (s.launch l)) }

/-- The key of a group: 128 slots a core. -/
def gkey (core slot : Nat) : Nat := core * 128 + slot

def State.group (s : State) (core slot : Nat) : Group := tblGet {} s.groups (gkey core slot)
def State.hasGroup (s : State) (core slot : Nat) : Bool := (tblFind s.groups (gkey core slot)).isSome
def State.setGroup (s : State) (core slot : Nat) (g : Group) : State := { s with groups := tblPut s.groups (gkey core slot) g }
def State.modGroup (s : State) (core slot : Nat) (f : Group → Group) : State :=
  if s.hasGroup core slot then s.setGroup core slot (f (s.group core slot)) else s
def Group.thread (g : Group) (l : Nat) : Thread := g.threads.getD l {}
def State.thread (s : State) (core slot l : Nat) : Thread := (s.group core slot).thread l
def State.modThread (s : State) (core slot l : Nat) (f : Thread → Thread) : State :=
  s.modGroup core slot (fun g => { g with threads := g.threads.modify l f })

/-- Every thread of a mask changed by f, which also gets the lane. -/
def Group.modLanes (g : Group) (m : BitVec 32) (f : Nat → Thread → Thread) : Group :=
  { g with threads := g.threads.mapIdx (fun l t => if m.getLsbD l then f l t else t) }

def State.modLanes (s : State) (core slot : Nat) (m : BitVec 32) (f : Nat → Thread → Thread) : State :=
  s.modGroup core slot (fun g => g.modLanes m f)

/-- The workgroup, launch and context of the group in a slot. -/
def State.wgOf (s : State) (core slot : Nat) : Nat :=
  match tblFind s.groups (gkey core slot) with
  | some g => g.wg
  | none => (s.wgs.foldl (fun m p => if p.2.core = core && p.2.slots.contains slot then p.1 else m) 0)
def State.launchOfWg (s : State) (w : Nat) : Nat := (s.wg w).launch
def State.ctxOfWg (s : State) (w : Nat) : Nat := (s.launch (s.wg w).launch).ctx
def State.curWg (s : State) : Nat := s.wgOf s.cur.core s.cur.slot
def State.curLaunch (s : State) : Launch := s.launch (s.launchOfWg s.curWg)
def State.curCtx (s : State) : Nat := s.ctxOfWg s.curWg
def State.replaying (s : State) (w : Nat) : Bool := (s.ctx (s.ctxOfWg w)).replay

/-! ### Numbers, time and events -/

/-- A number not used before, and the state that has used it (assumption log 3). -/
def State.tickFresh (s : State) : State := { s with fresh := s.fresh + 1 }

/-- An event due n ticks from now. -/
def State.inTicks (s : State) (n : Nat) (ev : Instr) : State := { s with timers := s.timers ++ [⟨0, s.tick + n, ev⟩] }

/-- R10, R437: an event due n cycles of a core from now. -/
def State.inCycles (s : State) (core n : Nat) (ev : Instr) : State :=
  { s with timers := s.timers ++ [⟨core + 1, (s.core core).cycles + n, ev⟩] }

/-- An event whose latency no rule fixes (assumption log 5): at least one tick from now. -/
def State.later (s : State) (ev : Instr) : State :=
  (s.inTicks (1 + Config.latency s.fresh) ev).tickFresh

/-- An event that could not happen yet is looked at again in the next tick (assumption log 9). -/
def State.again (s : State) (ev : Instr) : State := s.inTicks 1 ev

/-- An event that happens next. -/
def State.now (s : State) (ev : Instr) : State := { s with agenda := .event ev :: s.agenda }

/-- A value the spec leaves open (assumption log 4). -/
def State.anyValue (s : State) : Long := Config.freeValue s.fresh

/-! ### Translation (R362-R365) -/

/-- What a walk finds. -/
inductive Walk where
  | ok (pa : Nat) (entry : Nat)
  | absent (level : Nat)
  | bad (level : Nat)
  deriving DecidableEq, Repr

/-- Table 21-4: the lowest VA bit a level indexes, and its number of entries. -/
def levelShift (lv : Nat) : Nat := match lv with | 0 => 16 | 1 => 21 | 2 => 30 | 3 => 39 | _ => 48
def levelEntries (lv : Nat) : Nat := if lv = 0 then 32 else 512

/-- R364: a malformed entry at a level. -/
def badEntry (lv e : Nat) : Bool :=
  let pa := bits e 47 16 * 256
  let leaf := bit e 1
  bits e 63 48 ≠ 0 || bit e 15 || (lv ≥ 3 && leaf) || (lv = 0 && !leaf) || bits e 47 44 ≥ 12 ||
  (if leaf then pa % 2 ^ levelShift lv ≠ 0 else pa % (8 * levelEntries (lv - 1)) ≠ 0) ||
  (bit e 6 && (bit e 5 || bit e 14 || !bit e 3)) || (bit e 7 && !bit e 14) || (bits e 13 8 ≠ 0 && !bit e 6)

/-- R362: the walk from a table at a physical address, level lv - 1 next. -/
def walkFrom (mem : List Host.Cell) (va : Nat) (lv table : Nat) : Walk :=
  match lv with
  | 0 => .absent 0
  | k + 1 =>
    let e := memNat mem (table + 8 * (va / 2 ^ levelShift k % levelEntries k)) 8
    if !bit e 0 then .absent k
    else if badEntry k e then .bad k
    else if bit e 1 then .ok (bits e 47 16 * 256 + va % 2 ^ levelShift k) e
    else walkFrom mem va k (bits e 47 16 * 256)

/-- R362: the translation of a VA in a context. -/
def State.walk (s : State) (ctx va : Nat) : Walk := walkFrom s.mem va 5 (s.ctx ctx).root

/-- Table 21-7: attributes of a leaf. -/
def leafR (e : Nat) : Bool := bit e 2
def leafW (e : Nat) : Bool := bit e 3
def leafX (e : Nat) : Bool := bit e 4
def leafReadMostly (e : Nat) : Bool := bit e 5
def leafWindow (e : Nat) : Bool := bit e 6
def leafHostOwned (e : Nat) : Bool := bit e 7 && bit e 14

/-- R364: a walk that meets a malformed entry is recorded, newest first, 256 at most. -/
def State.noteBad (s : State) (ctx level va : Nat) : State :=
  { s with malformed := (⟨ctx, level, va⟩ :: s.malformed).take 256 }

/-- R391: whether a VA lies in the debug area of a replay context. -/
def State.inDebugArea (s : State) (ctx va : Nat) : Bool :=
  let c := s.ctx ctx
  c.replay && c.debugVA ≤ va && va < c.debugVA + 1280 * 1048576

/-- R365, R391: a VA that a device read may not use: in the debug area, of a malformed entry, without R, or host-owned. One that is not
translated is another case. -/
def State.unreadable (s : State) (ctx va : Nat) : Bool :=
  va ≥ 2 ^ 57 || s.inDebugArea ctx va || (match s.walk ctx va with
    | .bad _ => true
    | .ok _ e => !leafR e || leafHostOwned e
    | .absent _ => false)

/-- R364: of the VAs an access walks, those that meet a malformed entry: a page of 64 KiB is walked once, by the first that names it (assumption log 50). -/
def State.badWalks (s : State) (ctx : Nat) (l : List Nat) : List Nat :=
  (l.foldl (fun a va => if a.any (fun x => x / 65536 = va / 65536) then a else a ++ [va]) []).filter (fun va => va < 2 ^ 57 && !s.inDebugArea ctx va &&
    (match s.walk ctx va with | .bad _ => true | _ => false))

/-- R364: firmware records each walk that met a malformed entry. -/
def State.noteWalks (s : State) (ctx : Nat) (l : List Nat) : State :=
  l.foldl (fun s va => match s.walk ctx va with | .bad lv => s.noteBad ctx lv va | _ => s) s

/-- R24, R37: n bytes of a launch's VA range as its first workgroup found them, where the page is translated. -/
def snapBytes (snap : List Host.Cell) (pa n : Nat) : List Byte := memBytes snap pa n

/-- R24, R37: the aligned part of n bytes at pa: its value at launch start, or the present one, a free choice where they differ (assumption log 45). -/
def State.startOrNow (s : State) (l : Nat) (pa n : Nat) : List Byte :=
  let old := snapBytes (s.launch l).snap pa n
  let new := memBytes s.mem pa n
  if old = new then new else if Config.freeBool (s.fresh * 2 ^ 40 + pa) then old else new

/-! ### Code positions and lines -/

/-- R38: the sequential successor of a position. -/
def seqPos (p : Long) : Long := if p.toNat % 8 < 4 then p + 1 else BitVec.ofNat 64 (p.toNat / 64 * 64 + 64)

/-- R38: the line address of a position. -/
def lineOf (p : Long) : Nat := p.toNat / 64 * 64

/-- R37: the 64 bytes of the line at pa as a launch reads them, in aligned parts of 8 bytes (assumption log 45). -/
def State.lineBytes (s : State) (l pa : Nat) : List Byte :=
  ((List.range 8).map (fun i => s.startOrNow l (pa + 8 * i) 8)).flatten

/-- R33: the line word of a line. -/
def lineWord (b : List Byte) : Word := BitVec.ofNat 32 (leNat ((b.drop 60).take 4))

/-- R33: slot k of a line. -/
def lineSlot (b : List Byte) (k : Nat) : Slot := BitVec.ofNat 96 (leNat ((b.drop (12 * k)).take 12))

/-- Table 20-1: the fault codes. -/
def cILLEGAL : Nat := 0x01
def cPRIV : Nat := 0x02
def cLINE : Nat := 0x03
def cALIGN : Nat := 0x04
def cENTRY : Nat := 0x05
def cSHORT : Nat := 0x06
def cMISALIGN : Nat := 0x07
def cACCESS : Nat := 0x08
def cPAGE : Nat := 0x09
def cRANGE : Nat := 0x0A
def cSCRATCH : Nat := 0x0B
def cEXHAUST : Nat := 0x0C
def cSTALE : Nat := 0x0D
def cFP : Nat := 0x0E
def cOPM : Nat := 0x0F
def cBUF : Nat := 0x10
def cHANDLER : Nat := 0x11
def cUNCORR : Nat := 0x12
def cTAG : Nat := 0x13
def cBREAK : Nat := 0x14
def cWATCH : Nat := 0x15
def cTRAP : Nat := 0x16
def cLAYOUT : Nat := 0x17
def cSTEP : Nat := 0x18
def cDEPTH : Nat := 0x19

/-- What checking a line finds: its bytes, a fault, or a page not translated. -/
inductive LineSt where
  | ok (b : List Byte)
  | fault (code : Nat) (bad : Option Nat)
  | absent
  deriving DecidableEq, Repr

/-- Table 02-3, checks 2 to 4, of the line of a position: translated, executable, line word well formed (R36; a parity mismatch
that stands after the refetch is the fault). -/
def State.lineCheck (s : State) (l : Nat) (p : Long) : LineSt :=
  let ctx := (s.launch l).ctx
  if p.toNat / 2 ^ 57 ≠ 0 then .fault cACCESS none
  else match s.walk ctx (lineOf p) with
    | .absent _ => .absent
    | .bad lv => .fault cACCESS (some lv)
    | .ok pa e =>
      if !leafX e || leafHostOwned e || s.inDebugArea ctx (lineOf p) then .fault cACCESS none
      else
        let b := s.lineBytes l pa
        if lineReservedOk (lineWord b) && lineParityOk (lineWord b) then .ok b else .fault cLINE none

/-- Table 02-3: all checks of a control transfer's target (assumption log 15). -/
def State.targetCheck (s : State) (l : Nat) (p : Long) : LineSt :=
  if bits p.toNat 5 3 ≠ 0 || p.toNat % 8 > 4 then .fault cALIGN none
  else match s.lineCheck l p with
    | .ok b => if (lineEntry (lineWord b)).getLsbD (p.toNat % 8) then .ok b else .fault cENTRY none
    | r => r

/-! ### Predicates and register lanes -/

/-- R19: a predicate as it reads. -/
def Thread.pred (t : Thread) (p : Nat) : Bool := p == 7 || t.preds.getLsbD p

/-- R19: a predicate written; p7 discards. -/
def Thread.setPred (t : Thread) (p : Nat) (b : Bool) : Thread :=
  if p == 7 then t
  else { t with preds := if b then t.preds ||| BitVec.ofNat 8 (2 ^ p) else t.preds &&& ~~~ (BitVec.ofNat 8 (2 ^ p)) }

/-- R15: a register lane as it stands. -/
def Thread.reg (t : Thread) (r : Nat) : Reg := tblGet {} t.regs r

/-- The key under which an issue that waits keeps the lanes its guard selected (R41). -/
def actKey : Nat := 65536
/-- The key under which it keeps the predicates of a lane. -/
def predKey (l : Nat) : Nat := 70000 + l

/-- R41, R92: the lanes of the issuing path whose guard is true, read when the instruction issues. -/
def State.active (s : State) (h : Hdr) : BitVec 32 :=
  if s.cur.phase > 0 then (tblFind s.cur.caps actKey).getD 0
  else maskOf ((lanesOf s.cur.lanes).filter (fun l => (s.thread s.cur.core s.cur.slot l).pred h.pred.toNat != (h.neg == 1)))

/-- Table 17-1. -/
def proxyStack (w : Word) : Nat := bits w.toNat 31 28
def proxySlot (w : Word) : Nat := bits w.toNat 27 6
def proxyGen (w : Word) : Nat := bits w.toNat 5 0
def proxyWord (stack slot gen : Nat) : Word := BitVec.ofNat 32 (stack * 2 ^ 28 + slot * 64 + gen)

/-- R274: a reader of a sideboard slot. -/
def State.addReader (s : State) (w : Word) : State :=
  s.modHome (proxyStack w) (fun h =>
    let x := tblGet {} h.slots (proxySlot w)
    { h with slots := tblPut h.slots (proxySlot w) { x with readers := x.readers + 1 } })

/-- Table 17-2: the last read of a releasing slot frees it. -/
def State.dropReader (s : State) (w : Word) : State :=
  let h := s.home (proxyStack w)
  let x := tblGet {} h.slots (proxySlot w)
  let s1 := s.modHome (proxyStack w) (fun h => { h with slots := tblPut h.slots (proxySlot w) { x with readers := x.readers - 1 } })
  if x.st = 4 && x.readers ≤ 1 then s1.now (.slotFree (proxyStack w) (proxySlot w)) else s1

/-- R276: the lease of the issuing context at a home, held by the issuing core. -/
def leaseKey (ctx home : Nat) : Nat := ctx * 12 + home
def State.lease (s : State) (core ctx home : Nat) : Lease := tblGet {} (s.core core).leases (leaseKey ctx home)
def State.modLease (s : State) (core ctx home : Nat) (f : Lease → Lease) : State :=
  s.modCore core (fun k => { k with leases := tblPut k.leases (leaseKey ctx home) (f (tblGet {} k.leases (leaseKey ctx home))) })

/-- R277: one number leaves the lease and its slot becomes pending. -/
def State.takeSlot (s : State) (core ctx home : Nat) : Option (Nat × Nat) × State :=
  match (s.lease core ctx home).nums with
  | [] => (none, s)
  | (n, g) :: r =>
    (some (n, g), (s.modLease core ctx home (fun l => { l with nums := r })).modHome home (fun h =>
      { h with slots := tblPut h.slots n { tblGet {} h.slots n with st := 2, ctx := ctx, full := false } }))

/-- R277, R334: a slot taken at issue goes back to the lease of an instruction that faults before it is formed. -/
def State.untakeSlot (s : State) (core ctx home n gen : Nat) : State :=
  (s.modLease core ctx home (fun l => { l with nums := (n, gen) :: l.nums })).modHome home (fun h =>
    { h with slots := tblPut h.slots n { tblGet {} h.slots n with st := 1, ctx := ctx, full := false } })

/-! ### Codewords that are uncorrectable (R349, R350; assumption log 46) -/

/-- Table 20-6: the units by number. -/
def uREG : Nat := 1
def uCHEST : Nat := 2
def uSCRATCH : Nat := 3
def uDS : Nat := 6
def uSIDE : Nat := 8
def uOPM : Nat := 9
def uBANK : Nat := 10

/-- The location of a register lane, and of a return-stack entry, in its unit of a core. -/
def regLoc (slot lane r : Nat) : Nat := (slot * 32 + lane) * 512 + r
def retLoc (slot lane d : Nat) : Nat := 2 ^ 32 + (slot * 32 + lane) * 32 + d

/-- Whether a codeword holds device memory: an L1, an L2 slice, stack DRAM, a constant cache or an instruction line. -/
def Bad.ofMemory (b : Bad) : Bool := b.unit == 4 || b.unit == 5 || b.unit == 7 || b.unit == 11 || b.unit == 12

/-- R350: the uncorrectable codeword of 64 bits among n bytes of device memory. -/
def State.badMem (s : State) (pa n : Nat) : Option Bad := s.bad.find? (fun b => b.ofMemory && b.loc / 8 * 8 < pa + n && pa < b.loc / 8 * 8 + 8)

/-- R350: the uncorrectable codeword at a place of a unit. -/
def State.badAt (s : State) (unit index loc : Nat) : Option Bad := s.bad.find? (fun b => b.unit == unit && b.index == index && b.loc == loc)

/-- R350: the uncorrectable codeword of 64 bits among n bytes from a place of a unit on. -/
def State.badIn (s : State) (unit index loc n : Nat) : Option Bad :=
  s.bad.find? (fun b => b.unit == unit && b.index == index && b.loc / 8 * 8 < loc + n && loc < b.loc / 8 * 8 + 8)

/-- A codeword written whole holds no error any longer. -/
def State.mend (s : State) (p : Bad → Bool) : State := { s with bad := s.bad.filter (fun b => !p b) }

/-- Whether a write of n bytes covers the codeword at a location whole. -/
def wholeIn (a n loc : Nat) : Bool := a ≤ loc / 8 * 8 && loc / 8 * 8 + 8 ≤ a + n

/-- R394: the load-value log of a replay workgroup: values, and the reports of ld.b. -/
def State.noteLoads (s : State) (w : Nat) (l : List Long) : State :=
  if !s.replaying w then s else s.modWg w (fun x => { x with replay := { x.replay with loads := x.replay.loads ++ l } })

/-- R393: units of a replay workgroup are written: what they held before the interval's first write to each is saved. Kind 0 is a group-register (group,
number), 1 a lane-private slice (group, lane), 2 a 256-byte scratchpad block, 3 an operand-memory slot, 4 a bank (assumption log 33). -/
def State.noteFirst (s : State) (w : Nat) (l : List (Nat × Nat × Nat)) : State :=
  if s.replaying w then
    s.modWg w (fun x => { x with replay := { x.replay with firsts := l.foldl (fun a u => if a.contains u then a else u :: a) x.replay.firsts } })
  else s

/-- R191: bytes of a workgroup's scratchpad are written. -/
def State.putSp (s : State) (w : Nat) (l : List (Nat × Byte)) : State :=
  let x := s.wg w
  ((s.noteFirst w (l.map (fun b => (2, b.1 / 256, 0)))).modWg w (fun y => { y with sp := tabSetAll y.sp l })).mend (fun b => b.unit == uSCRATCH && b.index == x.core &&
    (List.range 8).all (fun j => l.any (fun p => x.spBase + p.1 = b.loc / 8 * 8 + j)))

/-- R311: bytes of an operand-memory slot are written. -/
def State.putOpm (s : State) (core n : Nat) (l : List (Nat × Byte)) : State :=
  ((s.noteFirst (tblGet {} (s.core core).opm n).holder [(3, n, 0)]).modCore core (fun c =>
    { c with opm := tblPut c.opm n { tblGet {} c.opm n with data := tabSetAll (tblGet {} c.opm n).data l } })).mend
    (fun b => b.unit == uOPM && b.index == core && (List.range 8).all (fun j => l.any (fun p => 16384 * n + p.1 = b.loc / 8 * 8 + j)))

/-- R284: a slot number joins the core's batch for its home, which leaves at 32 numbers or when 64 cycles old. -/
def State.release (s : State) (core ctx : Nat) (w : Word) : State :=
  let h := proxyStack w
  let b := tblGet {} (s.core core).rel h
  let fresh := b.nums.isEmpty
  let b' : RelBatch := { nums := b.nums ++ [(proxySlot w, ctx)], oldest := if fresh then (s.core core).cycles else b.oldest }
  let s1 := s.modCore core (fun k => { k with rel := tblPut k.rel h b' })
  if b'.nums.length ≥ 32 then s1.now (.releaseBatchSend core h)
  else if fresh then s1.inCycles core 64 (.releaseBatchSend core h) else s1

/-- R18: a write of a register lane: the tag follows the result, and a slot the lane held is released (under replay a tag is a
home mark and names no slot, R288). 0x1FE discards. A mask that crossed from the lane is no longer what it holds (R157). -/
def State.writeReg (s : State) (core slot lane r : Nat) (v : Word) (tag : Bool) : State :=
  if r = 0x1FE then s
  else
    let w := s.wgOf core slot
    let old := (s.thread core slot lane).reg r
    let s0 := ((s.noteFirst w [(0, (s.group core slot).idx, r)]).modThread core slot lane (fun t => { t with regs := tblSet {} t.regs r ⟨v, tag⟩ })).modGroup core slot
      (fun g => { g with masks := g.masks.filter (fun m => !(m.lane = lane && m.reg = r)) })
    let s1 := s0.mend (fun b => b.unit == uREG && b.index == core && b.loc == regLoc slot lane r)
    if old.tag && !s.replaying w then s1.release core (s.ctxOfWg w) old.val else s1

/-- R39, R142: threads move to a position that has been checked. -/
def State.moveTo (s : State) (core slot : Nat) (m : BitVec 32) (p : Nat → Long) : State :=
  s.modLanes core slot m (fun l t => { t with pos := p l })

/-! ### Tokens (R20) -/

def Group.token (g : Group) (k : Nat) : Nat := tblGet 0 g.tokens k

def State.tokUp (s : State) (core slot k : Nat) : State :=
  if k = 0 then s else s.modGroup core slot (fun g => { g with tokens := tblSet 0 g.tokens k (g.token k + 1) })

def State.tokDown (s : State) (core slot k : Nat) : State :=
  if k = 0 then s else s.modGroup core slot (fun g => { g with tokens := tblSet 0 g.tokens k (g.token k - 1) })

/-! ### Trace (R398-R401) -/

/-- R398: 0xFF inside a packet is followed by 0x00. -/
def escaped (l : List Byte) : List Byte := (l.map (fun b => if b == 0xFF then [b, 0] else [b])).flatten

/-- R401: a packet's bytes enter the trace queue of 4 KiB, or are dropped and counted. -/
def State.traceBytes (s : State) (core : Nat) (l : List Byte) : State :=
  s.modCore core (fun k => { k with trace := k.trace.map (fun t =>
    if !t.on then t else if t.queue.length + l.length ≤ 4096 then { t with queue := t.queue ++ l }
    else { t with lost := t.lost + l.length, drop := t.drop + l.length }) })

/-- Whether a group's core traces its context. -/
def State.traced (s : State) (core slot : Nat) : Bool :=
  match (s.core core).trace with
  | none => false
  | some t => t.on && t.ctx == s.ctxOfWg (s.wgOf core slot)

/-- R400: an issue of a group at a position, as it stands. -/
def State.issueAt (s : State) (core slot : Nat) (p : Long) : Traced :=
  let g := s.group core slot
  { pos := p, lanes := maskOf ((List.range 32).filter (fun l => (g.thread l).pos == p && !(g.thread l).exited)), rwc := (s.wg g.wg).rwc }

/-- Table 24-1: a SYNC that names an issue of a group. -/
def State.traceSync (s : State) (core slot : Nat) (x : Traced) : State :=
  let w := s.wg (s.wgOf core slot)
  let s1 := s.traceBytes core ([0xFF, 0xA5] ++ escaped (leBytes 1 slot ++ leBytes 8 x.pos.toNat ++ leBytes 4 x.lanes.toNat ++
    leBytes 4 w.ival.toNat ++ leBytes 8 x.rwc ++ leBytes 4 w.index.toNat))
  s1.modGroup core slot (fun g => { g with trace := { g.trace with synced := true, count := 0, lost := false } })

/-- R400: a packet of a group, with a SYNC before what would be the 256th since the last and after a LOST; the SYNC names the issue that the
packet goes on from (assumption log 34). -/
def State.tracePacket (s : State) (core slot : Nat) (x : Traced) (l : List Byte) : State :=
  let t := (s.group core slot).trace
  let s1 := if t.count ≥ 255 || t.lost then s.traceSync core slot x else s
  (s1.traceBytes core (escaped l)).modGroup core slot (fun g => { g with trace := { g.trace with count := g.trace.count + 1 } })

/-- R399: a RUN that accumulated is written before another packet of the group. -/
def State.traceFlush (s : State) (core slot : Nat) : State :=
  let t := (s.group core slot).trace
  if t.run = 0 then s
  else (s.tracePacket core slot t.start ([1] ++ leBytes 1 slot ++ leBytes 1 t.run)).modGroup core slot
    (fun g => { g with trace := { g.trace with run := 0, start := t.last } })

/-- R399: MARK, EXIT and ENTER, and JUMP. -/
def State.traceNote (s : State) (core slot : Nat) (l : List Byte) : State :=
  if s.traced core slot && (s.group core slot).trace.synced then
    let s1 := s.traceFlush core slot
    s1.tracePacket core slot (s1.group core slot).trace.last l
  else s

/-- R399, R400: a retiring issue at a position with its lanes. The first one traced stands in slot 0 or where a control transfer brought it. -/
def State.traceRetire (s : State) (core slot : Nat) (p : Long) (lanes : BitVec 32) : State :=
  if !s.traced core slot then s
  else
    let g := s.group core slot
    let t := g.trace
    let x := s.issueAt core slot p
    let keep (s : State) (run : Nat) (start : Traced) : State := s.modGroup core slot
      (fun g => { g with trace := { g.trace with next := seqPos p, lanes := lanes, run := run, last := x, start := start } })
    if !t.synced then
      if p.toNat % 8 = 0 || (lanesOf lanes).any (fun l => (g.thread l).came) then keep (s.traceSync core slot x) 0 x else s
    else if p = t.next && lanes = t.lanes then
      if t.run + 1 = 255 then (keep s 255 t.start).traceFlush core slot else keep s (t.run + 1) t.start
    else keep (s.traceNote core slot ([2] ++ leBytes 1 slot ++ leBytes 8 p.toNat ++ leBytes 4 lanes.toNat)) 0 x

/-! ### Machine checks (R351) -/

/-- Table 20-6: a machine-check record, the newest 256 kept. -/
def State.machineCheck (s : State) (unit flags index loc ctx : Nat) : State :=
  { s with mclog := (⟨s.mcNext, unit, flags, index, loc, s.tick, ctx, 0⟩ :: s.mclog).take 256, mcNext := s.mcNext + 1 }

/-- R349: corrected errors of a unit. -/
def State.corrects (s : State) (unit n : Nat) : State := { s with corrected := tblPut s.corrected unit (tblGet 0 s.corrected unit + n) }

/-! ### Taking a fault (R332-R340) -/

/-- R7: an item joins those that wait at a die's lectern port; the port announces one in a tick, at the end of it (assumption log 47). -/
def State.announce (s : State) (die : Nat) (i : Item) : State := s.modDie die (fun d => { d with lect := d.lect ++ [i] })

/-- R7: a die announces a halt in the tick it is made, or in the next that no other halt of the die has taken: the ticks until it arrives. -/
def State.haltDelay (s : State) (die : Nat) : Nat := max s.tick (s.die die).haltNext - s.tick + Config.lecternLatency

/-- R7: the tick of a halt announcement of a die is taken. -/
def State.takeHaltTick (s : State) (die : Nat) : State := s.modDie die (fun d => { d with haltNext := max s.tick d.haltNext + 1 })

/-- R7, R339: a die announces the halt of a launch: it arrives at each core that holds a workgroup of it, and where none does at core 0, so
that the end of the launch is looked at (assumption log 47). -/
def State.announceLaunchHalt (s : State) (die launch : Nat) : State :=
  let cs := ((s.wgs.filter (fun p => p.2.launch = launch)).map (fun p => p.2.core)).eraseDups
  let n := s.haltDelay die
  ((if cs.isEmpty then [0] else cs).foldl (fun s c => s.inTicks n (.launchHaltArrival launch c)) s).takeHaltTick die

/-- R7, R360: a die announces the halt of a context to the cores that hold work of it. -/
def State.announceResetHalt (s : State) (die ctx : Nat) : State :=
  let n := s.haltDelay die
  ((s.ctx ctx).resetCores.foldl (fun s c => s.inTicks n (.resetHaltArrival ctx c)) s).takeHaltTick die

/-- R340: a workgroup halted by any kind other than debug stop, in a context without debug, ends its launch: its core announces a
launch halt and the placer places no more of it. -/
def State.endLaunchOf (s : State) (w : Nat) : State :=
  let l := s.launchOfWg w
  if (s.ctx (s.ctxOfWg w)).debug || (s.launch l).halting then s
  else (s.modLaunch l (fun x => { x with halting := true })).announceLaunchHalt (Config.dieOfCore (s.wg w).core) l

/-- The halt of a workgroup on its way to the partitions of its core (R336, R338). -/
def State.deliverHalt (s : State) (w : Nat) (part : Option Nat) : State :=
  (List.range 4).foldl (fun s q => s.inCycles (s.wg w).core (if part = none || part = some q then 1 else 24) (.haltDelivery w q)) s

/-- The partition of a group of a workgroup by its number; 4 where the record names none. -/
def State.partOf (s : State) (w idx : Nat) : Nat :=
  ((s.groups.find? (fun p => p.2.wg = w && p.2.idx = idx)).map (fun p => p.1 % 128 / 32)).getD 4

/-- R348, Table 20-5: whether a fault takes the place of the record that a halt of the same cycle has made: of a debug stop, or of a fault in a
higher-numbered partition. -/
def State.outranks (s : State) (w : Nat) (part : Option Nat) (r : HaltRec) : Bool :=
  match (s.wg w).halt, part with
  | some q, some p => r.kind ≤ 1 && q.time = s.tick && (q.kind = 4 || (q.kind ≤ 1 && p < s.partOf w q.group))
  | _, _ => false

/-- R348: a halt meets one that stands: the record stays, unless the new fault outranks it; the group whose fault gives way keeps it as its own
fault. -/
def State.haltAgain (s : State) (w : Nat) (part : Option Nat) (r : HaltRec) : State :=
  if !s.outranks w part r then s
  else
    let q := (s.wg w).halt.getD {}
    let s1 := s.modWg w (fun x => { x with halt := some r, settled := false })
    if q.kind = 4 then s1.deliverHalt w part
    else
      { s1 with
        groups := s1.groups.map (fun (p : Nat × Group) =>
          if p.2.wg = w && p.2.idx = q.group then (p.1, { p.2 with ownFault := q.code, stopKind := 1 }) else p)
        timers := s1.timers.filter (fun (t : Timer) => match t.ev with | .haltDelivery v _ => v ≠ w | _ => true) }.deliverHalt w part

/-- R336, R338: the halt of a workgroup is recorded, and delivered to the raising group's partition one cycle later and to the
others 24 cycles later; without a raising group to all of them one cycle later. -/
def State.haltWg (s : State) (w : Nat) (part : Option Nat) (r : HaltRec) : State :=
  if (s.wg w).halt.isSome then s.haltAgain w part r
  else
    let s1 := s.modWg w (fun x => { x with halt := some r, reach := 0, settled := false, step := none, stepDone := none, stopAt := none })
    let s2 := s1.deliverHalt w part
    if r.kind = 4 then s2 else s2.endLaunchOf w

/-- R32: a group stops in a cycle of its core. -/
def Group.stopIn (g : Group) (kind cycle : Nat) : Group :=
  { g with stopped := true, stopKind := kind, stopCycle := if g.stopped then g.stopCycle else cycle }

/-- R334, R335: the group in a slot stops with a fault named at a position, the threads m carrying the fault registers. A group
of a workgroup that is halting already records the fault as its own, unless the fault outranks the record that stands (R348). -/
def State.stopGroup (s : State) (core slot : Nat) (m : BitVec 32) (lanes : BitVec 32) (r : HaltRec) : State :=
  let g := s.group core slot
  let w := s.wgOf core slot
  let part := slot % 128 / 32
  let late := (s.wg w).halt.isSome && !s.outranks w (some part) r
  let s1 := s.modGroup core slot (fun g => { ((g.modLanes m (fun _ t =>
    { t with tcause := BitVec.ofNat 32 r.code, tlanes := lanes, tpc := r.pos, tvalue := r.tvalue })).stopIn
      (if late then g.stopKind else 0) (s.core core).cycles) with
      ownFault := if late then r.code else g.ownFault })
  s1.haltWg w (some part) { r with group := if s.hasGroup core slot then g.idx else 0xFF, lanes := lanes, time := s.tick }

/-- R334: the path B issue laid out beside a path A issue of the same group is not performed. -/
def State.dropPathB (s : State) : State :=
  { s with agenda := match s.agenda with
      | .issue k :: r => if k.core = s.cur.core && k.slot = s.cur.slot then r else s.agenda
      | a => a }

/-- R274: the reads that the issue in hand has announced at homes and not made are given up. -/
def State.dropHeld (s : State) : State :=
  let s1 := s.cur.held.foldl (fun s w => s.dropReader w) s
  { s1 with cur := { s1.cur with held := [] } }

/-- R277: the result slots that the issue in hand took and will not form go back to its leases. -/
def State.dropSlots (s : State) : State :=
  let s1 := s.cur.slots.foldl (fun s x => s.untakeSlot s.cur.core s.curCtx x.2.1 x.2.2.1 x.2.2.2) s
  { s1 with cur := { s1.cur with slots := [] } }

/-- R334: TAKING A PRECISE FAULT, with the machine-check record it names, if any. The threads of the issuing path stay at the instruction,
nothing is written, and the workgroup halts. What an instruction that had begun to wait holds is given up: its token falls. -/
def State.raiseMc (s : State) (h : Hdr) (lanes : BitVec 32) (code : Nat) (tv : Long) (mc : Word) : State :=
  let k := s.cur
  let s0 := if k.phase > 0 then (s.dropHeld.dropSlots).tokDown k.core k.slot h.tok.toNat else if k.path = 0 then s.dropPathB else s
  let kind := if code = cWATCH || code = cSTEP then 4 else 0
  s0.stopGroup k.core k.slot k.lanes lanes { code := code, kind := kind, pathB := k.path == 1, pos := k.pos, tvalue := tv, mc := mc }

/-- R334: a precise fault that names no machine-check record. -/
def State.raise (s : State) (h : Hdr) (lanes : BitVec 32) (code : Nat) (tv : Long) : State := s.raiseMc h lanes code tv 0xFFFFFFFF

/-- R350: the instruction in hand consumes an uncorrectable codeword at issue: a record is written, and UNCORRECTABLE names it. -/
def State.raiseBad (s : State) (h : Hdr) (lanes : BitVec 32) (b : Bad) : State :=
  (s.machineCheck b.unit 1 b.index b.loc s.curCtx).raiseMc h lanes cUNCORR (BitVec.ofNat 64 s.mcNext) (BitVec.ofNat 32 s.mcNext)

/-- The first of the failures of the lowest lane. -/
def lowestFail (l : List CrossFail) : Option CrossFail :=
  l.foldl (fun a f => match a with | some g => if f.lane < g.lane then some f else a | none => some f) none

/-- R287, R333: of the operand lanes that failed, the one that decides: a failed generation check before an uncorrectable codeword, the lowest
lane within each. -/
def crossFail (l : List CrossFail) : Option CrossFail :=
  (lowestFail (l.filter (fun f => f.bad.isNone))).or (lowestFail (l.filter (fun f => f.bad.isSome)))

/-- R287, R350: an operand lane that failed is raised. -/
def State.raiseCross (s : State) (h : Hdr) (lanes : BitVec 32) (f : CrossFail) : State :=
  match f.bad with
  | some b => s.raiseBad h lanes b
  | none => s.raise h lanes cSTALE (f.word.setWidth 64)

/-- R287, R350: the order of crossings and uncorrectable codewords in an execution table; where no operand lane failed, k. A register operand
and a window word that are read at issue stand in the order of the crossings (assumption log 46). -/
def State.raiseFailed (s : State) (h : Hdr) (lanes : BitVec 32) (k : State → State) : State :=
  match crossFail s.cur.failed with
  | some f => s.raiseCross h lanes f
  | none => k s

/-- Whether register r of a lane is one of the operand lanes that failed. -/
def State.hasFailed (s : State) (lane r : Nat) : Bool := s.cur.failed.any (fun f => f.lane == lane && f.reg == r)

/-- The lanes of m none of whose registers rs failed. -/
def State.knownLanes (s : State) (m : BitVec 32) (rs : List Nat) : BitVec 32 :=
  if s.cur.failed.isEmpty then m else maskOf ((lanesOf m).filter (fun l => !rs.any (fun r => s.hasFailed l r)))

/-- R335: A COMPLETION FAULT of an operation that the threads m of a slot issued on a path at a position: they stop wherever they stand. Their
sr.tlanes takes the lanes of ACTIVE, as R334 has it. -/
def State.completionFault (s : State) (core slot path : Nat) (m lanes : BitVec 32) (pos : Long) (code : Nat) (tv : Long) (mc : Word) : State :=
  s.stopGroup core slot m lanes { code := code, kind := 1, pathB := path == 1, pos := pos, tvalue := tv, mc := mc }

/-- R231, R335: a load whose data held an uncorrectable codeword completes with the fault: sr.tvalue is the EA of the lane. -/
def State.loadFault (s : State) (p : Pend) (lane : Nat) (b : Bad) : State :=
  let ea := ((p.eas.find? (fun x => x.1 = lane)).map (fun x => x.2)).getD 0
  let s1 := (s.machineCheck b.unit 3 b.index b.loc (s.ctxOfWg (s.wgOf p.core p.slot))).tokDown p.core p.slot p.tok
  s1.completionFault p.core p.slot p.path p.lanes p.act p.pos cUNCORR ea (BitVec.ofNat 32 s.mcNext)

/-- R338: AN ASYNCHRONOUS FAULT of a workgroup. -/
def State.asyncFault (s : State) (w code : Nat) (lanes : BitVec 32) (pos tv : Long) (mc : Word) : State :=
  s.haltWg w none { code := code, kind := 2, lanes := lanes, pos := pos, tvalue := tv, time := s.tick, mc := mc }

/-! ### User traps (R342-R346) and the return from one (R345, R152) -/

/-- Table 11-2: the handler entry for a cause. -/
def State.trapEntry (s : State) (w code : Nat) : Nat :=
  let k := if code = cFP then 0 else if code = cTRAP then 1 else 2
  ((s.launch (s.launchOfWg w)).kr.traps).getD k 0

/-- R343: TAKING A USER TRAP, one cycle for the threads m: the resume position and the trap registers are written, and the threads
stand at the handler's entry, which is checked when they issue there. They are eligible in the next cycle: where this cycle is still to issue,
a countdown of 1 holds them in it. Nothing else changes. -/
def State.enterHandler (s : State) (core slot : Nat) (m lanes : BitVec 32) (code : Nat) (pos tv : Long) (stall : Nat) (res : Nat → Long) : State :=
  let e := s.trapEntry (s.wgOf core slot) code
  let s1 := s.modLanes core slot m (fun l t => { t with
    resume := res l, inHandler := true, tcause := BitVec.ofNat 32 code, tlanes := lanes, tpc := pos, tvalue := tv,
    pos := BitVec.ofNat 64 e, entering := true, came := true, stall := stall })
  s1.traceNote core slot ([3] ++ leBytes 1 slot ++ leBytes 1 code ++ leBytes 8 e ++ leBytes 4 m.toNat)

/-- R342, R345: the kernel installs a handler for a cause, and no thread of m is inside one. -/
def State.traps (s : State) (core slot : Nat) (m : BitVec 32) (code : Nat) : Bool :=
  s.trapEntry (s.wgOf core slot) code ≠ 0 && !(lanesOf m).any (fun l => (s.thread core slot l).inHandler)

/-- R345: THE RETURN FROM A USER TRAP: each thread of m stands at its resume position, outside the handler; the trap registers keep
their values. -/
def State.leaveHandler (s : State) (core slot : Nat) (m : BitVec 32) : State :=
  s.modLanes core slot m (fun _ t => { t with pos := t.resume, inHandler := false })

/-! ### Retiring an issue -/

/-- R393: a workgroup's own state as it stands: its groups, scratchpad, barriers, copies and rings, the operand-memory slots and banks it
holds, and its matrix operations. -/
def State.snapOf (s : State) (w : Nat) : Snap :=
  let x := s.wg w
  let c := s.core x.core
  { rwc := x.rwc, firsts := x.replay.firsts, fresh := s.fresh, loads := x.replay.loads.length, groups := s.groups.filter (fun p => p.2.wg = w && p.1 / 128 = x.core), sp := x.sp
    bars := x.bars, copies := x.copies, rings := x.rings, opm := c.opm.filter (fun p => p.2.st ≠ 0 && p.2.holder = w)
    banks := c.banks.filter (fun p => p.2.held && p.2.holder = w), mq := c.mq.filter (fun o => o.wg = w) }

/-- R393, R394: an interval of a replay workgroup begins: the image is kept and the logs are empty. -/
def State.startInterval (s : State) (w : Nat) : State :=
  if s.replaying w then s.modWg w (fun x => { x with replay := { image := { s.snapOf w with loads := 0, firsts := [] } } }) else s

/-- A snapshot in front of the history; one of the same count is replaced. -/
def pushSnap (n : Snap) (l : List Snap) : List Snap :=
  match l with
  | m :: r => if m.rwc = n.rwc then n :: r else n :: m :: r
  | [] => [n]

/-- R395 (assumption log 12): what a replay context keeps before an issue goes on: the workgroup as it stands. -/
def State.keepHistory (s : State) (core slot : Nat) : State :=
  let w := s.wgOf core slot
  if s.replaying w then s.modWg w (fun x => { x with replay := { x.replay with hist := pushSnap (s.snapOf w) x.replay.hist } }) else s

/-- R394: the schedule log of a replay context: the group and the path of each retiring issue. -/
def State.noteIssue (s : State) (core slot : Nat) : State :=
  let w := s.wgOf core slot
  if s.replaying w then s.modWg w (fun x => { x with replay := { x.replay with sched := x.replay.sched ++ [(slot, s.cur.path)] } }) else s

/-- R42, R133, R392, R399: the issue in hand retires: the count of retired group-instructions rises, its threads stand at the
positions p, and their stall countdown begins. The token has been raised at issue; announced reads it did not make are given up (R274). -/
def State.retire (s : State) (h : Hdr) (p : Nat → Long) : State :=
  let k := s.cur
  let s0 := (if k.phase > 0 then s.dropHeld else s).noteIssue k.core k.slot
  let s1 := (s0.traceRetire k.core k.slot k.pos k.lanes).modWg (s0.wgOf k.core k.slot) (fun x => { x with rwc := x.rwc + 1 })
  let s2 := s1.modLanes k.core k.slot k.lanes (fun l t => { t with pos := p l, came := p l ≠ seqPos k.pos, stall := if k.phase = 0 then h.stall.toNat else t.stall })
  s2.modWg (s2.wgOf k.core k.slot) (fun x => { x with stepDone :=
    match x.step with
    | some (g, l) => if (s2.group k.core k.slot).idx = g && k.lanes.getLsbD l then some (g, l) else x.stepDone
    | none => x.stepDone })

/-- R38: every thread of the issue goes on at the sequential successor. -/
def State.retireSeq (s : State) (h : Hdr) : State := s.retire h (fun _ => seqPos s.cur.pos)

/-- R20, R43: the token a first issue names is raised; an instruction that waited has raised it already. -/
def State.takeToken (s : State) (h : Hdr) : State :=
  if s.cur.phase = 0 then s.tokUp s.cur.core s.cur.slot h.tok.toNat else s

/-- R43: the token of an instruction that completes falls. -/
def State.dropToken (s : State) (h : Hdr) : State := s.tokDown s.cur.core s.cur.slot h.tok.toNat

/-- R142: an instruction without results sets and clears its token in the cycle it issues. -/
def State.doneNow (s : State) (h : Hdr) : State := if s.cur.phase > 0 then s.dropToken h else s

/-! ### Waits -/

/-- R20, R41, R42: what an instruction that is going to wait does when it issues: it raises its token, its threads' stall
countdown begins, and the lanes its guard selects are kept. -/
def State.beginWait (s : State) (h : Hdr) : State :=
  if s.cur.phase > 0 || (tblFind s.cur.caps actKey).isSome then s
  else
    let act := s.active h
    let s1 := (s.takeToken h).modLanes s.cur.core s.cur.slot s.cur.lanes (fun _ t => { t with stall := h.stall.toNat })
    let caps := (lanesOf s.cur.lanes).foldl (fun t l => tblPut t (predKey l) ((s.thread s.cur.core s.cur.slot l).preds.setWidth 32))
      (tblPut s1.cur.caps actKey act)
    { s1 with cur := { s1.cur with caps := caps } }

/-- R51: a predicate as the issue in hand read it. -/
def State.lanePred (s : State) (l p : Nat) : Bool :=
  match tblFind s.cur.caps (predKey l) with
  | some v => p == 7 || v.getLsbD p
  | none => (s.thread s.cur.core s.cur.slot l).pred p

/-- R347: the threads of the issue in hand park before it is issued, for a page that is not translated; when it has been resolved
they issue the instruction again. -/
def State.park (s : State) (i : Instr) (va : Long) : State :=
  let k := s.cur
  let w : Waiting := ⟨s.fresh, k, i, .page va, 8⟩
  ((s.modGroup k.core k.slot (fun g => { g with waits := g.waits ++ [w] })).tickFresh).inTicks Config.pageFaultTicks
    (.pageFaultTimeout k.core k.slot s.fresh)

/-- Table 08-4: the threads of the issue in hand wait, having raised their token; the instruction goes on when the condition
holds. The wait is numbered by the next fresh number. -/
def State.waitFor (s : State) (h : Hdr) (i : Instr) (c : WaitCond) (row : Nat) : State :=
  let s1 := s.beginWait h
  let k := s1.cur
  let w : Waiting := ⟨s1.fresh, { k with phase := k.phase + 1 }, i, c, row⟩
  (s1.modGroup k.core k.slot (fun g => { g with waits := g.waits ++ [w] })).tickFresh

/-- R142: the lanes outside ACTIVE go on at the sequential successor; only the active ones wait. -/
def State.waitActive (s : State) (h : Hdr) (i : Instr) (c : WaitCond) (row : Nat) : State :=
  if s.cur.phase > 0 then s.waitFor h i c row
  else
    let k := s.cur
    let act := s.active h
    let rest := k.lanes &&& ~~~ act
    let s1 := s.modLanes k.core k.slot rest (fun _ t => { t with pos := seqPos k.pos, came := false, stall := h.stall.toNat })
    { s1 with cur := { k with lanes := act } }.waitFor h i c row

/-- R282, R344: threads are held until a result is written. -/
def State.hold (s : State) (lanes : BitVec 32) (i : Instr) (id row : Nat) : State :=
  let k := s.cur
  let w : Waiting := ⟨s.fresh, { k with lanes := lanes }, i, .hold id, row⟩
  (s.modGroup k.core k.slot (fun g => { g with waits := g.waits ++ [w] })).tickFresh

/-- The issue in hand with numbers to carry over a wait. -/
def State.carry (s : State) (l : List Nat) : State := { s with cur := { s.cur with nums := l } }

/-- A wait of a group by its number ends and its instruction goes on next. -/
def State.endWait (s : State) (core slot id : Nat) : State :=
  match (s.group core slot).waits.find? (fun w => w.id = id) with
  | none => s
  | some w =>
    let s1 := s.modGroup core slot (fun g => { g with waits := g.waits.filter (fun w => w.id ≠ id) })
    { s1 with agenda := .resume w.iss w.instr :: s1.agenda }

/-- A wait ends with a number for its instruction. -/
def State.endWaitWith (s : State) (core slot id : Nat) (l : List Nat) : State :=
  match (s.group core slot).waits.find? (fun w => w.id = id) with
  | none => s
  | some w =>
    let s1 := s.modGroup core slot (fun g => { g with waits := g.waits.filter (fun w => w.id ≠ id) })
    { s1 with agenda := .resume { w.iss with nums := l } w.instr :: s1.agenda }

/-- Which operations are still outstanding, by number: results (of which one whose trap alone is due is none, R121), stores and atomics on their way, gather entries and
invalidations they caused, home operations, fills, packets, crossings, matrix operations. -/
def State.outstanding (s : State) (id : Nat) : Bool :=
  ((tblFind s.pends id).map (fun p => decide (p.kind ≠ 4))).getD false || s.msgs.any (fun m => m.1 = id || m.2.causes.contains id) ||
  s.invals.any (fun v => v.causes.contains id) || s.dies.any (fun d => d.2.gather.any (fun g => g.2.causes.contains id)) ||
  (tblFind s.homeOps id).isSome || (tblFind s.fills id).isSome || s.sent.any (fun p => p.1 = id || p.2.op = id) ||
  s.groups.any (fun g => g.2.xings.any (fun x => x.id = id)) || s.cores.any (fun c => c.2.mq.any (fun o => o.id = id))

/-! ### Results not yet written (R50, R51, R230) -/

/-- A result under way, numbered by the next fresh number. -/
def State.addPend (s : State) (p : Pend) : State := { s with pends := tblPut s.pends s.fresh p }.tickFresh

/-- A fixed result, written n cycles of its core from now. -/
def State.pendFixed (s : State) (n : Nat) (p : Pend) : State :=
  (s.addPend { p with due := (s.core p.core).cycles + n }).inCycles p.core n (.fixedLatencyWrite s.fresh)

/-- R28: a special register of a thread takes a value, reserved bits ignored. -/
def Thread.srWrite (t : Thread) (i : Nat) (x : Long) : Thread :=
  match i with
  | 0x09 => { t with fpflags := x.setWidth 5 }
  | 0x0A => { t with fpctl := x.setWidth 5 }
  | 0x0F => { t with chk := x.getLsbD 0 }
  | 0x103 => { t with pscratch := x }
  | _ => t

/-- A register lane of a core, as the writes of a cycle are told apart. -/
def laneKey (slot lane r : Nat) : Nat := regLoc slot lane r

/-- R51, R146: one register lane of a result arrives. A lane of an exited thread discards it, and so does a lane that a later-issued result
has reached in this cycle (results are numbered as they issue); a slot it names is then released. -/
def State.landLane (s : State) (id core slot ctx : Nat) (rep : Bool) (w : LaneWrite) : State :=
  let key := laneKey slot w.lane w.reg
  if s.hasGroup core slot && !(s.thread core slot w.lane).exited && tblGet 0 (s.core core).landed key ≤ id then
    (s.writeReg core slot w.lane w.reg w.val w.tag).modCore core (fun k => { k with landed := tblPut k.landed key id })
  else if w.tag && !rep then s.release core ctx w.val else s

/-- R51, R146: the writes of a result that arrive. -/
def State.land (s : State) (id : Nat) (p : Pend) : State :=
  let ctx := s.ctxOfWg (s.wgOf p.core p.slot)
  let rep := s.replaying (s.wgOf p.core p.slot)
  let s0 := p.srs.foldl (fun s q => s.modThread p.core p.slot q.1 (fun t => t.srWrite q.2.1 q.2.2)) s
  let s1 := p.writes.foldl (fun s w => s.landLane id p.core p.slot ctx rep w) s0
  let s2 := p.preds.foldl (fun s q => s.modThread p.core p.slot q.1 (fun t => t.setPred q.2.1 q.2.2)) s1
  let s3 := p.flags.foldl (fun s q => s.modThread p.core p.slot q.1 (fun t => { t with fpflags := t.fpflags ||| q.2 })) s2
  if rep then s3.modWg (s.wgOf p.core p.slot) (fun x => { x with replay := { x.replay with lands := x.replay.lands ++
      [{ rwc := x.rwc, id := id, slot := p.slot, tok := p.tok, writes := p.writes, preds := p.preds, flags := p.flags }] } })
  else s3

/-- R52: whether a register lane of a group has a pending write, and whether a predicate of a lane has; p7 is never written (R19). -/
def State.pendingReg (s : State) (core slot lane r : Nat) : Bool :=
  s.pends.any (fun p => p.2.core = core && p.2.slot = slot && p.2.writes.any (fun w => w.lane = lane && w.reg = r)) ||
  s.pends.any (fun p => p.2.core = core && p.2.slot = slot && p.2.act.getLsbD lane && p.2.size > 0 && p.2.dst ≤ r &&
    r < p.2.dst + (p.2.size + 3) / 4)
def State.pendingPred (s : State) (core slot lane p : Nat) : Bool :=
  p ≠ 7 && s.pends.any (fun q => q.2.core = core && q.2.slot = slot && q.2.preds.any (fun w => w.1 = lane && w.2.1 = p))

/-- The numbers of the results the threads m of a group still wait for. -/
def State.pendsOf (s : State) (core slot : Nat) (m : BitVec 32) : List Nat :=
  (s.pends.filter (fun p => p.2.core = core && p.2.slot = slot && p.2.kind ≠ 4 && p.2.lanes &&& m ≠ 0)).map (fun p => p.1)

/-- The numbers of the stores, atomics and home operations a group's threads have sent that are not performed at home. -/
def State.sentOf (s : State) (core slot : Nat) (m : BitVec 32) : List Nat :=
  (s.msgs.filter (fun p => p.2.core = core && p.2.slot = slot && p.2.lanes &&& m ≠ 0)).map (fun p => p.1)

end Sys2Proof.Machine
end

