-- ==== Sys2Proof/Machine/Operands.lean ====
section
/-! DEFINITION. Every operand form (Table 02-12, R23, R47, R48, R94): what a source reads, which registers it names, the faults an
operand raises, crossings (R281, R282), and the slots and operations of lanes that execute at a home (R276-R280). -/

namespace Sys2Proof.Machine

/-- A source operand: a register select, a pair or a quad of registers, constant-window words, or an immediate. -/
inductive Src where
  | reg (r : Nat)
  | pair (r : Nat)
  | quad (r : Nat)
  | win (w off : Nat) (pair : Bool)
  | imm (x : Long)
  deriving DecidableEq, Repr

/-- R47, R48: a format A source select. -/
def srcA (f : FmtA) (sel : BitVec 9) (pair : Bool) : Src :=
  if sel = 0x1FF then .win f.win.toNat f.off.toNat pair else if pair then .pair sel.toNat else .reg sel.toNat

/-- The registers a source reads. -/
def Src.regs : Src → List Nat
  | .reg r => if r < 0x1FD then [r] else []
  | .pair r => if r < 0x1FD then [r, r + 1] else []
  | .quad r => if r < 0x1FD then [r, r + 1, r + 2, r + 3] else []
  | _ => []

/-- Where an issue that waits keeps, for a register lane it reads, the bits at issue, the tag at issue, and the value a crossing
brought. -/
def bitsKey (lane r : Nat) : Nat := lane * 512 + r
def tagKey (lane r : Nat) : Nat := 16384 + lane * 512 + r
def crossKey (lane r : Nat) : Nat := 32768 + lane * 512 + r

/-- R51: the bits of a register lane as the issue in hand read them. -/
def State.laneBits (s : State) (lane r : Nat) : Word :=
  (tblFind s.cur.caps (bitsKey lane r)).getD ((s.thread s.cur.core s.cur.slot lane).reg r).val

/-- R51: the tag of a register lane as the issue in hand read it. -/
def State.laneTag (s : State) (lane r : Nat) : Bool :=
  match tblFind s.cur.caps (tagKey lane r) with
  | some v => v != 0
  | none => ((s.thread s.cur.core s.cur.slot lane).reg r).tag

/-- Table 02-12: the word a select reads in a lane of the issue in hand: what a crossing brought, or the bits at issue (R51). -/
def State.selWord (s : State) (lane r : Nat) : Word :=
  if r = 0x1FD then BitVec.ofNat 32 lane
  else if r = 0x1FE then 0
  else (tblFind s.cur.caps (crossKey lane r)).getD (s.laneBits lane r)

/-- R17: a pair of words. -/
def joinWords (lo hi : Word) : Long := BitVec.ofNat 64 (lo.toNat + 2 ^ 32 * hi.toNat)

def State.selPair (s : State) (lane r : Nat) : Long :=
  if r = 0x1FE then 0 else joinWords (s.selWord lane r) (s.selWord lane (r + 1))

/-- R23: the base and length of a window of the issuing launch. -/
def State.window (s : State) (w : Nat) : Nat × Nat := s.curLaunch.kr.windows.getD w (0, 0)

/-- R24: a word through a window, as at launch start. -/
def State.windowWord (s : State) (w off : Nat) : Word :=
  match s.walk s.curCtx ((s.window w).1 + 4 * off) with
  | .ok pa _ => BitVec.ofNat 32 (leNat (s.startOrNow (s.launchOfWg s.curWg) pa 4))
  | _ => 0

/-- The value a source reads in a lane, a 32-bit one zero-extended. -/
def State.srcVal (s : State) (lane : Nat) : Src → Long
  | .reg r => (s.selWord lane r).setWidth 64
  | .pair r => s.selPair lane r
  | .quad r => s.selPair lane r
  | .win w off p => if p then joinWords (s.windowWord w off) (s.windowWord w (off + 1)) else (s.windowWord w off).setWidth 64
  | .imm x => x

/-- R52: the first register, source or destination, that a checking thread finds pending; the lowest lane decides. -/
def State.shortFault (s : State) (act : BitVec 32) (regs preds : List Nat) : Option Long :=
  (lanesOf act).findSome? (fun l =>
    if !(s.thread s.cur.core s.cur.slot l).chk then none
    else match regs.find? (fun r => s.pendingReg s.cur.core s.cur.slot l r) with
      | some r => some (BitVec.ofNat 64 r)
      | none => (preds.find? (fun p => s.pendingPred s.cur.core s.cur.slot l p)).map (fun p => BitVec.ofNat 64 (0x200 + p)))

/-- R23: a window operand beyond its window, or of a page that may not be read. R23 names no sr.tvalue: a free value (assumption log 15). -/
def State.windowFault (s : State) (srcs : List Src) : Bool :=
  srcs.any (fun x => match x with
    | .win w off p =>
      (if p then off + 1 else off) ≥ (s.window w).2 ||
      s.unreadable s.curCtx ((s.window w).1 + 4 * off)
    | _ => false)

/-- The VAs of the window words of operands. -/
def State.windowVAs (s : State) (srcs : List Src) : List Nat :=
  srcs.filterMap (fun x => match x with | .win w off _ => some ((s.window w).1 + 4 * off) | _ => none)

/-- R48, R347: the VA of a window word whose page is not translated. -/
def State.windowAbsent (s : State) (srcs : List Src) : Option Long :=
  srcs.findSome? (fun x => match x with
    | .win w off _ =>
      let va := (s.window w).1 + 4 * off
      (match s.walk s.curCtx va with
        | .absent _ => some (BitVec.ofNat 64 va)
        | _ => none)
    | _ => none)

/-- Whether a register lane holds a proxy (R18); under replay no lane does (R288). -/
def State.isProxy (s : State) (lane r : Nat) : Bool :=
  r < 0x1FD && s.laneTag lane r && !s.replaying s.curWg

/-- R288: whether a register lane carries the home mark. -/
def State.isMarked (s : State) (lane r : Nat) : Bool :=
  r < 0x1FD && s.laneTag lane r && s.replaying s.curWg

/-- Whether a source holds a proxy, and whether it carries the mark, in a lane. -/
def State.srcProxy (s : State) (lane : Nat) (x : Src) : Bool := x.regs.any (fun r => s.isProxy lane r)
def State.srcMarked (s : State) (lane : Nat) (x : Src) : Bool := x.regs.any (fun r => s.isMarked lane r)

/-- R283: the halves of one operand that cross, the second half of a pair counted with the first (count 3: not counted). -/
def State.xopsOf (s : State) (lane count : Nat) (x : Src) : List XOp :=
  let l := x.regs.filter (fun r => s.isProxy lane r)
  l.mapIdx (fun i r => { lane := lane, reg := r, word := s.laneBits lane r, count := if i = 0 then count else 3 })

/-- R51: the values of the registers read, captured for an instruction that will go on later. -/
def State.capture (s : State) (act : BitVec 32) (regs : List Nat) : State :=
  let caps := (lanesOf act).foldl (fun t l => regs.foldl (fun t r =>
    tblPut (tblPut t (bitsKey l r) (s.laneBits l r)) (tagKey l r) (if s.laneTag l r then 1 else 0)) t) s.cur.caps
  { s with cur := { s.cur with caps := caps } }

/-- R350: the registers and window words among the sources of lanes that are uncorrectable. -/
def State.badOperands (s : State) (act : BitVec 32) (srcs : List Src) : List CrossFail :=
  if s.bad.isEmpty then []
  else ((lanesOf act).map (fun l => (srcs.map (fun x => match x with
    | .win w off p => (match s.walk s.curCtx ((s.window w).1 + 4 * off) with
      | .ok pa _ => (s.badMem pa (if p then 8 else 4)).toList.map (fun b => ({ lane := l, reg := 0x200, bad := some b } : CrossFail))
      | _ => [])
    | _ => x.regs.filterMap (fun r => (s.badAt uREG s.cur.core (regLoc s.cur.slot l r)).map (fun b => { lane := l, reg := r, bad := some b })))).flatten)).flatten

/-- R350: what the instruction in hand reads at issue of uncorrectable codewords is noted; its order of faults raises it. -/
def State.noteBadOperands (s : State) (act : BitVec 32) (srcs : List Src) : State :=
  { s with cur := { s.cur with failed := s.cur.failed ++ s.badOperands act srcs } }

/-- R281, R282: the crossings of an instruction begin: its operands are captured, each proxy is read at its home, and its threads
wait. Proxies that stay at a home are held for the reads to come; of an instruction that had waited already, those that now cross are held
no longer. -/
def State.startXing (s : State) (h : Hdr) (i : Instr) (act : BitVec 32) (regs : List Nat) (ops : List XOp) (staying : List Word) :
    State :=
  let s1 := (s.beginWait h).capture act regs
  let k := s1.cur
  let id := s1.fresh
  let held := if k.phase > 0 then (ops.map XOp.word).foldl (fun l w => l.erase w) k.held else staying
  let x : Xing := { id := id, iss := { k with phase := k.phase + 1, held := held }, instr := i, ops := ops }
  let s2 := (s1.modGroup k.core k.slot (fun g => { g with xings := g.xings ++ [x] })).tickFresh
  let s3 := if k.phase > 0 then s2 else (ops.map XOp.word ++ staying).foldl (fun s w => s.addReader w) s2
  (List.range ops.length).foldl (fun s j => s.later (.crossingReturn k.core k.slot id j)) s3

/-- R274: a read of a slot that goes on from the issue in hand: announced now, or by the issue before it waited. -/
def State.claimRead (s : State) (w : Word) : State :=
  if s.cur.phase > 0 then { s with cur := { s.cur with held := s.cur.held.erase w } } else s.addReader w

/-- R281: the operands of the lanes that cross, those that stay at a home (by lane and source number) apart. -/
def State.crossings (s : State) (act : BitVec 32) (srcs : List Src) (stay : Nat → Nat → Bool) (count : Nat) : List XOp :=
  ((lanesOf act).map (fun l => ((srcs.mapIdx (fun j x => if stay l j then [] else s.xopsOf l count x)).flatten))).flatten

/-- The registers that sources read. -/
def srcRegs (srcs : List Src) : List Nat := (srcs.map Src.regs).flatten

/-- The first checks of an instruction's operands (Tables 06-4, 07-2, 09-2, 13-3): pending writes, then windows; then the operands
that must be plain cross. stay names the lanes and sources that stay at a home, pre what the instruction takes at issue where it has to wait for
its crossings. The rest goes on as k, which raises what failed (Issue.failed) in the order of its own table. R23 names no sr.tvalue: a free
value. -/
def State.withOperandsLate (s : State) (h : Hdr) (i : Instr) (act : BitVec 32) (srcs : List Src) (dsts preds : List Nat)
    (stay : Nat → Nat → Bool) (count : Nat) (pre k : State → State) : State :=
  if s.cur.phase > 0 then k s
  else
    match s.shortFault act (srcRegs srcs ++ dsts) preds with
    | some v => s.raise h act cSHORT v
    | none =>
      if act ≠ 0 && s.windowFault srcs then (s.noteWalks s.curCtx (s.badWalks s.curCtx (s.windowVAs srcs))).tickFresh.raise h act cACCESS s.anyValue
      else match if act = 0 then none else s.windowAbsent srcs with
        | some va => s.park i va
        | none =>
          let s := s.noteBadOperands act srcs
          let ops := s.crossings act srcs stay count
          if ops.isEmpty then k s
          else (pre s).startXing h i act (srcRegs srcs) ops ((s.crossings act srcs (fun l j => !stay l j) count).map XOp.word)

/-- The checks of an instruction whose table has the crossings next: what failed is raised, else k. -/
def State.withOperandsPre (s : State) (h : Hdr) (i : Instr) (act : BitVec 32) (srcs : List Src) (dsts preds : List Nat)
    (stay : Nat → Nat → Bool) (count : Nat) (pre k : State → State) : State :=
  s.withOperandsLate h i act srcs dsts preds stay count pre (fun s => s.raiseFailed h act k)

/-- The checks of an instruction that takes nothing before its crossings. -/
def State.withOperands (s : State) (h : Hdr) (i : Instr) (act : BitVec 32) (srcs : List Src) (dsts preds : List Nat)
    (stay : Nat → Nat → Bool) (count : Nat) (k : State → State) : State :=
  s.withOperandsPre h i act srcs dsts preds stay count id k

/-- No lane stays at a home. -/
def stayNone : Nat → Nat → Bool := fun _ _ => false

/-- R279: the home a lane executes at: that of the first proxy source. -/
def State.homeOf (s : State) (lane : Nat) (srcs : List Src) : Option Nat :=
  (srcs.find? (fun x => s.srcProxy lane x)).bind (fun x => (x.regs.find? (fun r => s.isProxy lane r)).map
    (fun r => proxyStack (s.laneBits lane r)))

/-- R279: an argument of a home operation as it travels. -/
def State.homeArg (s : State) (lane : Nat) (x : Src) : HArg :=
  match x with
  | .reg r => if s.isProxy lane r then .slot (s.laneBits lane r) else .plain (s.selWord lane r)
  | _ => .plain ((s.srcVal lane x).setWidth 32)

/-- The proxy words among arguments. -/
def HArg.words : HArg → List Word
  | .slot w => [w]
  | .plain _ => []

/-- R277: the slot a lane's result takes: the one it took at issue, or the next of the lease. -/
def State.resultSlot (s : State) (lane home : Nat) : Option (Nat × Nat) × State :=
  match s.cur.slots.find? (fun x => x.1 = lane) with
  | some x => (some (x.2.2.1, x.2.2.2), { s with cur := { s.cur with slots := s.cur.slots.filter (fun x => x.1 ≠ lane) } })
  | none => s.takeSlot s.cur.core s.curCtx home

/-- R277, R280: a home operation is sent, its result slot named; the reads it makes are those the instruction announced at issue. Answers the
proxy word. -/
def State.sendHome (s : State) (i : Instr) (lane home : Nat) (args : List HArg) : Word × State :=
  let k := s.cur
  let ctx := s.curCtx
  match s.resultSlot lane home with
  | (none, s1) => (0, s1)
  | (some (n, g), s1) =>
    let op : HomeOp := { stack := home, res := some n, instr := i, args := args, flags := s.curLaunch.kr.flags, ctx := ctx, wg := s.curWg, slot := k.slot, core := k.core, lane := lane, pos := k.pos }
    let s2 := ((args.map HArg.words).flatten).foldl (fun s w => s.claimRead w) s1
    let id := s2.fresh
    let s3 := ({ s2 with homeOps := tblPut s2.homeOps id op }.tickFresh).later (.homeOperationExecute id)
    (proxyWord home n g, s3)

/-- R277: how many numbers of each lease the lanes need: a list of homes with repeats. -/
def State.homeNeeds (s : State) (act : BitVec 32) (srcs : List Src) (dst : Nat) : List Nat :=
  if dst = 0x1FE then [] else (lanesOf act).filterMap (fun l => s.homeOf l srcs)

/-- R277: the first home whose lease holds fewer numbers than the lanes need. -/
def State.shortLease (s : State) (core ctx : Nat) (needs : List Nat) : Option Nat :=
  needs.find? (fun h => (s.lease core ctx h).nums.length < needs.count h)

end Sys2Proof.Machine
end

