-- ==== Sys2Proof/Machine/Alu.lean ====
section
/-! DEFINITION. How an arithmetic instruction of classes 000, 001 and 010 issues (R93-R98, R111-R114): operands, lanes that
execute at a home, computing, the FP trap, and the result under way. -/

namespace Sys2Proof.Machine

/-- The form of an arithmetic instruction: sources, how many of the first sources stay at a home (0: every proxy crosses), the
destination, whether it is a pair, the latency of Table 02-13, and whether it is a float or convert instruction. -/
structure Form where
  srcs : List Src
  home : Nat := 0
  dst : Nat
  pair : Bool := false
  lat : Nat
  fpu : Bool := false
  deriving DecidableEq, Repr

/-- The registers a destination names. -/
def dstRegs (dst : Nat) (pair : Bool) : List Nat := if dst = 0x1FE then [] else if pair then [dst, dst + 1] else [dst]

/-- What a form computes: the flush bits of the kernel record, then the values of its sources. -/
abbrev Eval := Bool → Bool → List Nat → FRes

/-- Table 11-3: the kernel record's flush bits and auto-materialise. -/
def flagFlushIn (k : KRec) : Bool := bit k.flags 0
def flagFlushOut (k : KRec) : Bool := bit k.flags 1
def flagAuto (k : KRec) : Bool := bit k.flags 2

/-- The mark an issue carries once R278 has made every proxy source cross. -/
def autoMark : List Nat := [1]

/-- R279: the home a lane of a form executes at. -/
def State.formHome (s : State) (fm : Form) (l : Nat) : Option Nat :=
  if s.cur.nums = autoMark then none else s.homeOf l (fm.srcs.take fm.home)

/-- The writes of a result to a lane. -/
def laneWrites (l dst : Nat) (pair : Bool) (x : Nat) (tag : Bool) : List LaneWrite :=
  if dst = 0x1FE then []
  else if pair then [⟨l, dst, BitVec.ofNat 32 x, tag⟩, ⟨l, dst + 1, BitVec.ofNat 32 (x / 2 ^ 32), tag⟩]
  else [⟨l, dst, BitVec.ofNat 32 x, tag⟩]

/-- R87, R88, R279: one lane computes, at its home or at the core, and adds to the result. -/
def State.aluLane (fm : Form) (i : Instr) (ev : Eval) (a : State × Pend) (l : Nat) : State × Pend :=
  let (s, p) := a
  match s.formHome fm l with
  | some home =>
    if fm.dst = 0x1FE then (s, p)
    else
      let args := fm.srcs.mapIdx (fun j x => if j < fm.home then s.homeArg l x else .plain ((s.srcVal l x).setWidth 32))
      let (w, s1) := s.sendHome i l home args
      (s1, { p with writes := p.writes ++ [⟨l, fm.dst, w, true⟩] })
  | none =>
    let kr := s.curLaunch.kr
    let r := ev (flagFlushIn kr) (flagFlushOut kr) (fm.srcs.map (fun x => (s.srcVal l x).toNat))
    let marked := (fm.srcs.take fm.home).any (fun x => s.srcMarked l x)
    let fl := if marked then 0 else r.flags
    let en := fl &&& (s.thread s.cur.core s.cur.slot l).fpctl
    let p1 := { p with flags := if fl = 0 then p.flags else p.flags ++ [(l, fl)] }
    if en = 0 then (s, { p1 with writes := p1.writes ++ laneWrites l fm.dst fm.pair r.bits marked })
    else (s, { p1 with traps := p1.traps ||| BitVec.ofNat 32 (2 ^ l), exc := p1.exc ||| en })

/-- R50, R282, R344: the form computes in every active lane; its result is under way and the issue retires. -/
def State.aluCompute (s : State) (h : Hdr) (i : Instr) (fm : Form) (ev : Eval) (act : BitVec 32) : State :=
  let k := s.cur
  let p0 : Pend := { core := k.core, slot := k.slot, kind := 0, path := k.path, lanes := k.lanes, act := act, pos := k.pos, tok := h.tok.toNat, fpu := fm.fpu }
  let (s1, p) := (lanesOf act).foldl (fun a l => State.aluLane fm i ev a l) (s.takeToken h, p0)
  let id := s1.fresh
  let s2 := (s1.pendFixed fm.lat p).retireSeq h
  let heldBy := maskOf ((lanesOf k.lanes).filter (fun l => (s.thread k.core k.slot l).fpctl != 0))
  let s3 := if k.phase > 0 then s2.hold k.lanes i id 7 else s2
  if fm.fpu && heldBy != 0 then s3.hold heldBy i id 6 else s3

/-- R277, R278: the lanes that need a result slot have taken it at issue or find it in the lease; otherwise PROXY_EXHAUST, or, with auto-materialise set, every
proxy source crosses. -/
def State.aluLease (s : State) (h : Hdr) (i : Instr) (fm : Form) (ev : Eval) (act : BitVec 32) : State :=
  let needs := if fm.dst = 0x1FE || !s.cur.slots.isEmpty then [] else (lanesOf act).filterMap (s.formHome fm)
  match s.shortLease s.cur.core s.curCtx needs with
  | none => s.aluCompute h i fm ev act
  | some home =>
    let ops := s.crossings act (fm.srcs.take fm.home) stayNone 2
    if flagAuto s.curLaunch.kr then (s.carry autoMark).startXing h i act (srcRegs fm.srcs) ops []
    else s.raise h act cEXHAUST (BitVec.ofNat 64 home)

/-- R277: an instruction that has to wait for a crossing takes its result slots at issue, in ascending lane order, where its leases hold
enough. -/
def State.takeSlots (s : State) (fm : Form) (act : BitVec 32) : State :=
  let needs := (lanesOf act).filterMap (fun l => (s.formHome fm l).map (fun home => (l, home)))
  if fm.dst = 0x1FE || (s.shortLease s.cur.core s.curCtx (needs.map (fun x => x.2))).isSome then s
  else needs.foldl (fun s x => match s.takeSlot s.cur.core s.curCtx x.2 with
    | (some (n, g), s1) => { s1 with cur := { s1.cur with slots := s1.cur.slots ++ [(x.1, x.2, n, g)] } }
    | (none, s1) => s1) s

/-- R93-R98, R111-R114: an arithmetic instruction issues. -/
def State.alu (s : State) (h : Hdr) (i : Instr) (fm : Form) (ev : Eval) : State :=
  let act := s.active h
  s.withOperandsPre h i act fm.srcs (dstRegs fm.dst fm.pair) []
    (fun l j => j < fm.home || (fm.dst == 0x1FE && (s.formHome fm l).isSome)) 0 (fun s => s.takeSlots fm act) (fun s => s.aluLease h i fm ev act)

end Sys2Proof.Machine
end

