-- ==== Sys2Proof/Machine/Energy.lean ====
section
/-! DEFINITION. What the columns meter, and the energy accounts (R412-R415). Energies count units of 2^-40 J. -/

namespace Sys2Proof.Machine

/-! ### Columns and what they move (R193, R412, R413, R441) -/

/-- R193: the home compute die of a physical address, and its stack. -/
def stackOf (pa : Nat) : Nat := pa / 2 ^ 36 % 16
def homeDie (pa : Nat) : Nat := stackOf pa / 3

/-- The number of a column of a kind: 0 core, 1 uncore, 2 home die, 3 stack. -/
def meterKey (kind n : Nat) : Nat := kind * 512 + n

/-- R193, R441: the uncore column of the L2 slice that a physical address lies in: a die has 32 slices, then 4 stations, then 8 slices of its
scratchpad. -/
def l2Column (pa : Nat) : Nat := homeDie pa * 44 + bits pa 12 8
/-- R192, R441: the uncore column of the slice of a die's scratchpad that holds an offset. -/
def dsColumn (die off : Nat) : Nat := die * 44 + 36 + off / 256 % 8
/-- R441: the uncore columns that are stations. -/
def isStation (n : Nat) : Bool := 32 ≤ n % 44 && n % 44 < 36

/-- The die a column belongs to. -/
def dieOfColumn (kind n : Nat) : Nat :=
  match kind with
  | 0 => Config.dieOfCore n
  | 1 => n / 44
  | _ => Config.dieOfStack n

/-- R413: bytes moved at columns for a launch; key 0 of the weights is no launch. -/
def State.movedAt (s : State) (launch : Option Nat) (n : Nat) (keys : List Nat) : State :=
  let who := match launch with | some l => l + 1 | none => 0
  keys.foldl (fun s key =>
    let t := tblGet [] s.metered key
    { s with metered := tblPut s.metered key (tblPut t who (tblGet 0 t who + n)) }) s

/-- R413: bytes at a physical address moved for a launch: at its L2 slice, its home die and its stack. -/
def State.moved (s : State) (pa : Nat) (launch : Option Nat) (n : Nat) : State :=
  s.movedAt launch n [meterKey 1 (l2Column pa), meterKey 2 (stackOf pa), meterKey 3 (stackOf pa)]

/-! ### The buses of a stack (R418, R421, R424) -/

/-- R421, Table 25-2: the remap entry of a logical bank group. -/
def Home.remapEntry (h : Home) (l : Nat) : Word := tblGet (BitVec.ofNat 32 l) h.remap l
def remapPhys (e : Word) : Nat := bits e.toNat 5 0

/-- R418: the stripe of its logical bank group that a physical address lies in. -/
def stripeOf (pa : Nat) : Nat := (bits pa 35 13 * 256 + pa % 256) / 65536

/-- R418, R421: the bus that serves a physical address of a stack. -/
def Home.busOf (h : Home) (pa : Nat) : Nat :=
  let l := bits pa 12 8
  match h.mig with
  | some m => if m.group = l && stripeOf pa < m.stripe then m.target else remapPhys (h.remapEntry l)
  | none => remapPhys (h.remapEntry l)

/-- R424: the demands that accesses to physical addresses are for buses under test or quiesced; whether an access goes to its stack is a free choice
(assumption log 4, 39). -/
def State.demandEvents (s : State) (pas : List Nat) : List Instr :=
  let buses := ((pas.filter (fun a => stackOf a < 12)).map (fun a => (stackOf a, (s.home (stackOf a)).busOf a))).eraseDups
  (buses.filter (fun b => ((tblFind (s.home b.1).quiesce b.2).isSome || (s.home b.1).testBus = some b.2) && Config.freeBool (s.fresh * 2 ^ 40 + b.1 * 64 + b.2))).map
    (fun b => .demandPreemptTest b.1 b.2)

/-- R424: accesses that are made now. -/
def State.demands (s : State) (pas : List Nat) : State := { s with agenda := (s.demandEvents pas).map Act.event ++ s.agenda }.tickFresh

/-! ### Accounts (R412-R415) -/

/-- The sum of weights. -/
def weightSum (w : Tbl Nat) : Nat := (w.map (fun p => p.2)).foldl (· + ·) 0

/-- R415: the whole units of an energy that each weight receives. -/
def shares (total : Nat) (w : Tbl Nat) : Tbl Nat := w.map (fun p => (p.1, total * p.2 / weightSum w))

/-- R415: a launch is charged from the start of its first workgroup on; what has no launch goes to the device idle account. -/
def State.charge (s : State) (launch : Option Nat) (x : Nat) : State :=
  match launch with
  | some l => if (s.launch l).begun then s.modLaunch l (fun y => { y with energy := y.energy + x }) else { s with idle := s.idle + x }
  | none => { s with idle := s.idle + x }

/-- R412, R413, R415: an energy shared by weights, whose key 0 is no launch; the remainder goes to the device idle account. -/
def State.share (s : State) (total : Nat) (w : Tbl Nat) : State :=
  let l := shares total w
  let s1 := l.foldl (fun s p => s.charge (if p.1 = 0 then none else some (p.1 - 1)) p.2) s
  { s1 with idle := s1.idle + (total - weightSum l) }

/-- R414: a column of a die held no launch: the account of the context whose turn it is there, or the device's. -/
def State.idleOn (s : State) (die x : Nat) : State :=
  let c := (s.die die).sched.ctx
  if c < 64 then s.modCtx c (fun y => { y with idle := y.idle + x }) else { s with idle := s.idle + x }

/-- R439: what a column metered is kept for 10 ms. -/
def State.logSpent (s : State) (key x : Nat) : State :=
  { s with spent := tblPut s.spent key ((tblGet [] s.spent key).filter (fun p => p.1 + 11000000 > s.tick) ++ [(s.tick, x)]) }

/-- R412, R414: a core column closes its interval. -/
def State.closeCore (s : State) (core dynamic leakage : Nat) : State :=
  let k := s.core core
  let s1 := if k.occupied.isEmpty && k.issued.isEmpty then s.idleOn (Config.dieOfCore core) (dynamic + leakage)
    else (s.share dynamic (if weightSum k.issued = 0 then k.occupied else k.issued)).share leakage k.occupied
  (s1.modCore core (fun c => { c with issued := [], occupied := [] })).logSpent (meterKey 0 core) (dynamic + leakage)

/-- R413: what a column that is no core shares its energy by: the bytes it moved. Which bytes pass a station the spec does not say: the weights of the
launches that have begun are free there (assumption log 4, 40). -/
def State.weights (s : State) (kind n : Nat) : Tbl Nat :=
  if kind = 1 && isStation n then
    let l := (s.launches.filter (fun p => p.2.begun)).map (fun p => p.1 + 1)
    if l.isEmpty then [] else (0 :: l).map (fun k => (k, (Config.freeValue (s.fresh * 2 ^ 40 + k)).toNat % 2 ^ 32))
  else tblGet [] s.metered (meterKey kind n)

/-- R413, R414: an uncore column (1), a home die (2) or a stack (3) closes its interval; one that moved nothing held no launch. -/
def State.closeOther (s : State) (kind n energy : Nat) : State :=
  let w := s.weights kind n
  let s1 := if w.isEmpty then s.idleOn (dieOfColumn kind n) energy else s.tickFresh.share energy w
  { s1 with metered := tblDel s.metered (meterKey kind n) }.logSpent (meterKey kind n) energy

/-- R412-R415: ENERGY_INTERVAL_CLOSE: the meter of a column (kind 0 core, 1 uncore, 2 home die, 3 stack) gives the energies of its interval. -/
def execEnergyIntervalClose (kind column dynamic leakage : Nat) (s : State) : Out :=
  .next (match kind with
    | 0 => s.closeCore column dynamic leakage
    | _ => s.closeOther kind column (dynamic + leakage))

/-- R412: an interval closes with the meter's reading, a free value (assumption log 4). -/
def State.closeRead (s : State) (kind n : Nat) : State :=
  let d := (Config.freeValue (2 * s.fresh)).toNat % 2 ^ 48
  let l := (Config.freeValue (2 * s.fresh + 1)).toNat % 2 ^ 48
  match kind with
  | 0 => s.tickFresh.closeCore n d l
  | _ => s.tickFresh.closeOther kind n (d + l)

/-- R412: the columns that hold a launch, as (kind, number): the cores it occupied or issued on, and what moved bytes for it; whether a station did is a
free choice (assumption log 40). -/
def State.columnsOf (s : State) (l : Nat) : List (Nat × Nat) :=
  let bytes (kind n : Nat) : Bool := (tblFind (tblGet [] s.metered (meterKey kind n)) (l + 1)).isSome
  ((s.cores.filter (fun c => (tblFind c.2.issued (l + 1)).isSome || (tblFind c.2.occupied (l + 1)).isSome)).map (fun c => (0, c.1))) ++
  ((List.range 176).filter (fun n => bytes 1 n || (isStation n && Config.freeBool (s.fresh * 2 ^ 40 + n)))).map (fun n => (1, n)) ++
  ((List.range 12).filter (bytes 2)).map (fun n => (2, n)) ++ ((List.range 12).filter (bytes 3)).map (fun n => (3, n))

/-- R412: every column a completing launch holds closes its interval. -/
def State.closeLaunch (s : State) (l : Nat) : State := (s.columnsOf l).foldl (fun s c => s.closeRead c.1 c.2) s.tickFresh

end Sys2Proof.Machine
end

