-- ==== Sys2Proof/Machine/Cache.lean ====
section
/-! DEFINITION. Caches and the paths of writes (R194-R210, R265-R269): blocks of variable length, the predictor, gather entries, writes
on their way to a home slice, invalidations and fills. Memory is the point of coherence: L2 home blocks are tags, L1 and replica
blocks hold data (assumption log 8). -/

namespace Sys2Proof.Machine

/-! ### Blocks (R194-R202) -/

/-- R194: granules a block occupies. -/
def Block.granules (b : Block) : Nat := (b.hi - b.lo + 4) / 4

/-- A part [lo, hi] of a block. -/
def Block.part (b : Block) (lo hi : Nat) : Block :=
  { b with lo := lo, hi := hi, data := (b.data.drop (4 * (lo - b.lo))).take (4 * (hi + 1 - lo)) }

/-- R204: what is left of a block without the words [a, c]; canSplit tells whether a tag is free for a second piece. -/
def Block.without (b : Block) (a c : Nat) (canSplit : Bool) : List Block :=
  if c < b.lo || b.hi < a then [b]
  else
    let low := if b.lo < a then [b.part b.lo (a - 1)] else []
    let high := if c < b.hi then [b.part (c + 1) b.hi] else []
    match low, high with
    | [x], [y] => if canSplit then [x, y] else if x.hi - x.lo ≥ y.hi - y.lo then [x] else [y]
    | l, h => l ++ h

/-- R194, R193: blocks of the same set: L1 sets by the low 7 bits of the frame, L2 sets by the low 16. -/
def sameSet (sets a b : Nat) : Bool := a % sets == b % sets

/-- R194: tags and granules a set uses. -/
def setTags (sets frame : Nat) (l : List Block) : Nat := (l.filter (fun b => sameSet sets b.frame frame)).length
def setGranules (sets frame : Nat) (l : List Block) : Nat :=
  ((l.filter (fun b => sameSet sets b.frame frame)).map Block.granules).foldl (· + ·) 0

/-- The runs [a, c] of words of a mask, ascending. -/
def maskRuns (mask : BitVec 64) : List (Nat × Nat) :=
  (List.range 64).foldl (fun l w =>
    if !mask.getLsbD w then l
    else match l.getLast? with
      | some r => if r.2 + 1 = w then l.dropLast ++ [(r.1, w)] else l ++ [(w, w)]
      | none => [(w, w)]) []

/-- R204: the words [a, c] leave the blocks of a frame that pred selects. A block is split only where a tag is free and the granules of both
pieces fit the pool (R194) (assumption log 20). -/
def dropRun (sets frame a c : Nat) (pred : Block → Bool) (l : List Block) : List Block :=
  (l.filter (fun b => b.frame = frame && pred b && a ≤ b.hi && b.lo ≤ c)).foldl (fun l b =>
    let others := l.filter (fun x => x ≠ b)
    let both := others ++ b.without a c true
    others ++ b.without a c (decide (setTags sets frame both ≤ 32 && setGranules sets frame both ≤ 128))) l

/-- R204: the words of a mask leave the blocks of a frame, one run of words at a time; pred selects the blocks it concerns. -/
def dropWords (sets frame : Nat) (mask : BitVec 64) (pred : Block → Bool) (l : List Block) : List Block :=
  (maskRuns mask).foldl (fun l r => dropRun sets frame r.1 r.2 pred l) l

/-- R198: the predictor entry an access at a position uses. -/
def predIndex (p : Long) : Nat := (bits p.toNat 13 6) ^^^ (bits p.toNat 2 0 * 32)

/-- R198: training by a block that leaves. -/
def trainPred (t : Tbl Nat) (b : Block) : Tbl Nat :=
  if !b.train then t
  else if b.touched = 0 then tblPut t b.filler (max 1 (tblGet 8 t b.filler / 2))
  else
    let ws := (List.range 64).filter (fun w => bit b.touched w)
    tblPut t b.filler (ws.getLastD 0 - ws.headD 0 + 1)

/-- R200: the victim of a set: not of the frame being filled, evict-first before normal before evict-last, then least recent (assumption log 20). -/
def victim (sets frame : Nat) (l : List Block) : Option Block :=
  (l.filter (fun b => sameSet sets b.frame frame && b.frame ≠ frame)).foldl (fun v b =>
    match v with
    | none => some b
    | some x => if b.prio < x.prio || (b.prio = x.prio && b.lru < x.lru) then some b else v) none

/-- R199: the blocks after a fill b: overlapping or abutting blocks of the same staleness field merge, others are trimmed as R204 trims. A block
that the trimming removes whole trains no predictor entry, and whether a tag is free for the second piece of a split is asked before any victim of
R200 has left (assumption log 20). -/
def mergeFill (sets : Nat) (b : Block) (l : List Block) : List Block :=
  let near (x : Block) : Bool := x.frame = b.frame && x.lo ≤ b.hi + 1 && b.lo ≤ x.hi + 1
  let same := l.filter (fun x => near x && x.tag = b.tag && x.replica = b.replica)
  let rest := l.filter (fun x => !(near x && x.tag = b.tag && x.replica = b.replica))
  let lo := same.foldl (fun m x => min m x.lo) b.lo
  let hi := same.foldl (fun m x => max m x.hi) b.hi
  let byte (i : Nat) : Byte :=
    let w := lo + i / 4
    if b.lo ≤ w && w ≤ b.hi then b.data.getD (4 * lo + i - 4 * b.lo) 0
    else match same.find? (fun x => x.lo ≤ w && w ≤ x.hi) with
      | some x => x.data.getD (4 * lo + i - 4 * x.lo) 0
      | none => 0
  let m : Block := { b with lo := lo, hi := hi, touched := same.foldl (fun t x => t ||| x.touched) b.touched, dirty := b.dirty || same.any (fun x => x.dirty), data := if b.data.isEmpty then [] else (List.range (4 * (hi + 1 - lo))).map byte }
  dropRun sets b.frame b.lo b.hi (fun x => x ≠ m) (m :: rest)

/-- R200, R201: a fill is installed, victims leaving while tags or granules are short; none where no victim is left. Answers the
blocks and those that left. -/
def evictFor (sets frame : Nat) (fuel : Nat) (l gone : List Block) : Option (List Block × List Block) :=
  if setTags sets frame l ≤ 32 && setGranules sets frame l ≤ 128 then some (l, gone)
  else match fuel with
    | 0 => none
    | k + 1 => match victim sets frame l with
      | none => none
      | some v => evictFor sets frame k (l.filter (fun x => x ≠ v)) (v :: gone)

def installBlock (sets : Nat) (b : Block) (l : List Block) : Option (List Block × List Block) :=
  evictFor sets b.frame 64 (mergeFill sets b l) []

/-- R197: the extent of a fill for missing words [m0, m1] and length P. -/
def fillExtent (m0 m1 p : Nat) : Nat × Nat := if m1 + 1 - m0 ≥ p then (m0, m1) else (min m0 (64 - p), min m0 (64 - p) + p - 1)

/-- The frame and the word of a physical address. -/
def frameOf (pa : Nat) : Nat := pa / 256
def wordOf (pa : Nat) : Nat := pa / 4 % 64

/-- R195, R202: an access to words of a block: touched by loads, its priority by a hint, its time of access. -/
def Block.accessed (b : Block) (words : List Nat) (hint now : Nat) (load : Bool) : Block :=
  { b with touched := if load then words.foldl (fun t w => t ||| 2 ^ w) b.touched else b.touched, prio := if hint = 0 then b.prio else hint, lru := now }

/-- The mask of the words that bytes at physical addresses touch in a frame. -/
def wordMask (frame : Nat) (pas : List Nat) : BitVec 64 :=
  pas.foldl (fun m a => if frameOf a = frame then m ||| BitVec.ofNat 64 (2 ^ wordOf a) else m) 0

/-- The frames that addresses touch, ascending. -/
def framesOf (pas : List Nat) : List Nat := (pas.map frameOf).foldl (fun l f => (l.filter (· < f)) ++ [f] ++ l.filter (· > f)) []

/-- R204: words leave the blocks of an L1; a block that leaves whole trains the predictor (R198). -/
def State.dropL1 (s : State) (core frame : Nat) (mask : BitVec 64) (pred : Block → Bool) : State :=
  let k := s.core core
  let whole := k.l1.filter (fun b => b.frame = frame && pred b && (List.range 64).all (fun w => !(b.lo ≤ w && w ≤ b.hi) || mask.getLsbD w))
  if k.l1.any (fun b => b.frame = frame) then
    s.setCore core { k with l1 := dropWords 128 frame mask pred k.l1, pred := whole.foldl trainPred k.pred }
  else s

/-- R202, R203: a store updates the words its L1 holds; the fill round of a tagged block stays (Table 16-4). -/
def State.updateL1 (s : State) (core : Nat) (bytes : List (Nat × Byte)) (hint : Nat) : State :=
  let upd (b : Block) : Block :=
    let mine := bytes.filter (fun p => frameOf p.1 = b.frame && b.lo ≤ wordOf p.1 && wordOf p.1 ≤ b.hi)
    if mine.isEmpty then b
    else { b.accessed [] hint s.fresh false with data := mine.foldl (fun d p => d.set (p.1 % 256 - 4 * b.lo) p.2) b.data }
  if (s.core core).l1.isEmpty then s else s.modCore core (fun k => { k with l1 := k.l1.map upd })

/-! ### Regions (R259-R271) -/

/-- The active region of a context that holds a VA, with its slot. -/
def State.regionAt (s : State) (ctx va : Nat) : Option (Nat × Region) :=
  (s.ctx ctx).regions.find? (fun p => p.2.base ≤ va && va < p.2.base + p.2.len * 65536)

/-- R266: d of a tagged block. -/
def State.staleness (s : State) (t : Nat × Nat × Word) : Nat :=
  ((tblGet { base := 0, len := 0, stack := 0 } (s.ctx t.1).regions t.2.1).mirror - t.2.2).toNat

/-! ### Writes on their way (R203-R209) -/

/-- A store that its core's L1 does not show: one not yet performed there, one that waits for a collapse, one whose value is a proxy, an
atomic, a round. -/
def Msg.hidden (m : Msg) : Bool := m.held || m.readMostly || m.proxy.isSome || m.kind ≠ .write

/-- The bytes of device memory that a message writes. -/
def Msg.touches (m : Msg) (pa : Nat) : Bool := m.bytes.any (fun b => b.1 = pa)

/-- The writes in flight to a frame that the L1 of a core shows, or that have left the gather entries of its die: a write of the core that is
sent now comes after them at the home slice. -/
def State.sentTo (s : State) (core frame : Nat) : List Nat :=
  (s.msgs.filter (fun p => frameOf p.2.pa = frame && !p.2.hidden && (p.2.core = core && p.2.lanes ≠ 0 ||
    p.2.die = Config.dieOfCore core && p.2.lanes = 0))).map (fun p => p.1)

/-- Whether an operation of a slot was issued by one of the issuing threads. -/
def State.own (s : State) (core slot : Nat) (lanes : BitVec 32) : Bool := core = s.cur.core && slot = s.cur.slot && lanes &&& s.cur.lanes ≠ 0

/-- R222: the stores and atomics of the issuing threads, not shown by their L1, that write one of some bytes. -/
def State.behind (s : State) (pas : List Nat) : List Nat :=
  (s.msgs.filter (fun p => p.2.hidden && s.own p.2.core p.2.slot p.2.lanes && pas.any p.2.touches)).map (fun p => p.1)

/-- R222: the loads of the issuing threads that still miss one of some bytes. -/
def State.missers (s : State) (pas : List Nat) : List Nat :=
  (s.pends.filter (fun q => s.own q.2.core q.2.slot q.2.lanes && q.2.missing.any (fun m => pas.contains m.2))).map (fun q => q.1)

/-- R222, R290: the ld.p of the cores selected whose element lies among some bytes and is not yet fixed. -/
def State.elemReads (s : State) (sel : Nat → Bool) (pas : List Nat) : List Nat :=
  (s.homeOps.filter (fun p => sel p.2.core && (match p.2.elem with | some a => pas.any (fun b => a ≤ b && b < a + 4) | none => false))).map (fun p => p.1)

/-- R222: what a write of the issuing threads to some bytes comes after: the stores and atomics of theirs that their L1 does not show, their loads
without their bytes, and the elements of their core still to be read. -/
def State.earlier (s : State) (pas : List Nat) : List Nat :=
  s.behind pas ++ s.missers pas ++ s.elemReads (fun c => c = s.cur.core) pas

/-- R203: a write leaves for its home slice, numbered by the next fresh number. -/
def State.sendMsg (s : State) (m : Msg) : State :=
  let id := s.fresh
  let s1 := { s with msgs := tblPut s.msgs id { m with stamp := id } }.tickFresh
  if m.readMostly then s1.later (.readMostlyCollapse id) else s1.later (.storePerformedAtHome id)

/-- R210: a gather entry is flushed: it leaves as one write of its masked bytes; extra are
results that wait for it. -/
def State.flushGather (s : State) (die frame : Nat) (extra : List Nat := []) : State :=
  match tblFind (s.die die).gather frame with
  | none => s
  | some g =>
    let s1 := s.modDie die (fun d => { d with gather := tblDel d.gather frame })
    let before := (s1.msgs.filter (fun p => frameOf p.2.pa = frame && p.2.die = die && p.2.lanes = 0)).map (fun p => p.1)
    s1.sendMsg { core := 0, die := die, slot := 0, lanes := 0, wg := 0, ctx := 0, pa := frame * 256, bytes := g.bytes.map (fun b => (frame * 256 + b.1, b.2)), kind := .write, after := before, causes := g.causes ++ extra, ctxs := g.ctxs, owners := g.owners }

/-- R209, R210: bytes of a store enter the gather entry of their frame; a new entry whose slice is full evicts the least recently
written one; an entry not written for 65,536 ticks is flushed (R243). -/
def State.gatherStore (s : State) (die frame ctx launch : Nat) (causes : List Nat) (bytes : List (Nat × Byte)) : State :=
  let d := s.die die
  let slice := d.gather.filter (fun p => p.1 % 32 = frame % 32)
  let s1 :=
    if (tblFind d.gather frame).isNone && slice.length ≥ 128 then
      match slice.foldl (fun v p => match v with
        | none => some p
        | some q => if p.2.last < q.2.last then some p else v) (none : Option (Nat × Gather)) with
      | some v => s.flushGather die v.1
      | none => s
    else s
  let g := tblGet {} (s1.die die).gather frame
  let g' : Gather := { bytes := bytes.foldl (fun t p => tblPut t (p.1 % 256) p.2) g.bytes, ctxs := g.ctxs ||| BitVec.ofNat 64 (2 ^ ctx), causes := g.causes ++ causes, last := s.fresh, owners := tblPut g.owners launch (tblGet 0 g.owners launch + bytes.length) }
  (s1.modDie die (fun d => { d with gather := tblPut d.gather frame g' })).tickFresh.inTicks 65536 (.gatherIdleFlush die frame)

/-- Of some writes on their way, the byte the last performed one gives an address. -/
def lastByte (l : List (Nat × Msg)) (pa : Nat) (v : Byte) : Byte :=
  (l.foldl (fun (a : Nat × Byte) p => match p.2.bytes.find? (fun b => b.1 = pa) with
    | some b => if a.1 ≤ p.2.stamp then (p.2.stamp, b.2) else a
    | none => a) (0, v)).2

/-- R206: a byte as a request of a die reads it at the point of coherence: memory, replaced by what has left the die's gather entries and is
not performed, and by the entry of its frame. -/
def State.dieByte (s : State) (die pa : Nat) : Byte :=
  let base := lastByte (s.msgs.filter (fun p => frameOf p.2.pa = frameOf pa && p.2.die = die && p.2.lanes = 0)) pa (memGet s.mem pa)
  match tblFind (s.die die).gather (frameOf pa) with
  | some g => (tblFind g.bytes (pa % 256)).getD base
  | none => base

/-- Table 14-2, row 1: a byte as it stands performed at the L1 of a core: the stores of the core that its L1 shows and that are still on
their way replace what its die reads. -/
def State.beyondL1 (s : State) (core pa : Nat) : Byte :=
  lastByte (s.msgs.filter (fun p => frameOf p.2.pa = frameOf pa && p.2.core = core && p.2.lanes ≠ 0 && !p.2.hidden && !p.2.atHome)) pa
    (s.dieByte (Config.dieOfCore core) pa)

/-- R203, R270: a byte as a block of an L1 holds it when it is formed from a copy: the stores of its core that the L1 shows and that are still on their
way replace it, those to a region frame of a read-mostly page among them. -/
def State.shownByte (s : State) (core pa : Nat) (copy : Byte) : Byte :=
  lastByte (s.msgs.filter (fun p => frameOf p.2.pa = frameOf pa && p.2.core = core && p.2.lanes ≠ 0 && !p.2.hidden)) pa copy

/-- R205: two bytes of one lane's data lie in one aligned 8 bytes of a load of 8 bytes or more, or are the same. -/
def Pend.together (p : Pend) (a b : Nat × Nat) : Bool := a = b || (p.size ≥ 8 && a.1 / 8 = b.1 / 8)

/-- R231: a load has received an uncorrectable codeword in a lane; the lowest such lane is kept. -/
def Pend.hurt (p : Pend) (l : Nat) (b : Bad) : Pend :=
  match p.bad with
  | some x => if x.1 ≤ l then p else { p with bad := some (l, b) }
  | none => { p with bad := some (l, b) }

/-- R231: bytes (key lane × 16 + byte, PA) that a load receives from device memory, with the codewords they lie in. -/
def State.received (s : State) (l : List (Nat × Nat)) (p : Pend) : Pend :=
  if s.bad.isEmpty then p
  else l.foldl (fun p m => match s.badMem m.2 1 with | some b => p.hurt (m.1 / 16) b | none => p) p

/-- R222: a byte that a load still misses is written by an earlier store of its threads that their L1 does not show. -/
def State.waitsFor (s : State) (q : Nat) (p : Pend) (pa : Nat) : Bool :=
  s.msgs.any (fun m => m.1 < q && (m.2.hidden || m.2.atHome) && m.2.core = p.core && m.2.slot = p.slot && m.2.lanes &&& p.lanes ≠ 0 && m.2.touches pa)

/-- The loads whose last missing byte has come since a state complete. -/
def State.filled (s old : State) : State :=
  (s.pends.filter (fun q => q.2.missing.isEmpty && (tblFind old.pends q.1).any (fun p => !p.missing.isEmpty))).foldl
    (fun s q => s.later (.loadCompletion q.1)) s

/-- R222, R234, R237: as a store is performed at the L1 of its core, the loads of the core that were issued before it and still miss a byte of
it are performed first, with what stands beyond the L1 then: none of them reads the store, and none reads an older write after it. A byte
that waits for a store of the load's own threads stays. -/
def State.fixLoads (s : State) (core before : Nat) (pas : List Nat) : State :=
  let fix (q : Nat × Pend) : Pend :=
    let p := q.2
    if q.1 < before && p.core = core && p.missing.any (fun m => pas.contains m.2) then
      let mine := p.missing.filter (fun m => p.missing.any (fun x => pas.contains x.2 && p.together x m) &&
        p.missing.all (fun x => !p.together m x || !s.waitsFor q.1 p x.2))
      s.received mine { p with bytes := mine.foldl (fun t m => tblPut t m.1 (s.beyondL1 core m.2)) p.bytes, missing := p.missing.filter (fun m => !mine.contains m) }
    else p
  { s with pends := s.pends.map (fun (q : Nat × Pend) => (q.1, fix q)) }.filled s

/-- R208: the dies that hold replicas of a frame. -/
def State.replicasOf (s : State) (pa : Nat) : List Nat := tblGet [] (s.die (homeDie pa)).replicas (frameOf pa)

/-- R202: the priority of the blocks of a frame that words [lo, hi] overlap or abut, that of the most recent access. -/
def nearPrio (l : List Block) (frame lo hi : Nat) : Nat :=
  (((l.filter (fun b => !b.replica && b.frame = frame && b.lo ≤ hi + 1 && lo ≤ b.hi + 1)).foldl (fun (v : Option Block) b => match v with
    | some x => if x.lru < b.lru then some b else v
    | none => some b) none).map Block.prio).getD 2

/-- R200-R202: an access of words [lo, hi] at their home slice: a block that holds them takes the access and its hint; else a block is formed. A
write without a hint leaves the priority of what it merges with. -/
def State.touchL2 (s : State) (die frame lo hi : Nat) (dirty : Bool) (hint : Nat) : State :=
  match (s.die die).l2.find? (fun b => !b.replica && b.frame = frame && b.lo ≤ lo && hi ≤ b.hi) with
  | some b => s.modDie die (fun d => { d with l2 := d.l2.map (fun x => if x = b then { x.accessed [] hint s.fresh false with dirty := x.dirty || dirty } else x) })
  | none =>
    match installBlock 65536 { frame := frame, lo := lo, hi := hi, prio := if hint ≠ 0 then hint else if dirty then nearPrio (s.die die).l2 frame lo hi else 2, filler := 0, train := false, dirty := dirty, lru := s.fresh } (s.die die).l2 with
    | some (l, _) => s.modDie die (fun d => { d with l2 := l })
    | none => s

/-- R394: the undo log of a replay workgroup: physical address, before- and after-image, newest first. -/
def State.noteUndo (s : State) (w rwc : Nat) (l : List (Nat × Byte × Byte)) : State :=
  if !s.replaying w then s
  else s.modWg w (fun x => { x with replay := { x.replay with undo := l.reverse.map (fun b => ({ rwc := rwc, pa := b.1, before := b.2.1, after := b.2.2 } : Undo)) ++ x.replay.undo } })

/-- R204: a write performed at its home slice: memory, the sequence number, which the die announces (R7), and invalidations to the L1s that
hold words of it, tagged blocks of a region frame excepted; they are effective once the number has arrived (assumption log 8, 47). The words of
a write that its own core's L1 did not show leave that L1 (R203, R205, R208, R223). Codewords written whole are good again. -/
def State.performWrite (s : State) (m : Msg) (id : Nat) (bytes : List (Nat × Byte)) : State :=
  let home := homeDie m.pa
  let frame := frameOf m.pa
  let mask := wordMask frame (bytes.map (fun b => b.1))
  let ws := (List.range 64).filter (fun w => mask.getLsbD w)
  let seq := (s.die home).seq
  let s' := if m.lanes = 0 then s else s.noteUndo m.wg m.rwc (bytes.map (fun b => (b.1, memGet s.mem b.1, b.2)))
  let s0 := if m.lanes ≠ 0 then s'.moved m.pa (some (s.launchOfWg m.wg)) bytes.length
    else if m.owners.isEmpty then s'.moved m.pa none bytes.length
    else m.owners.foldl (fun s o => s.moved m.pa (some o.1) o.2) s'
  let s1 := ({ s0 with mem := memSetAll s0.mem bytes }.modDie home (fun d => { d with seq := (d.seq + 1) % 2 ^ 32 })).mend
    (fun b => b.ofMemory && (List.range 8).all (fun j => bytes.any (fun x => x.1 = b.loc / 8 * 8 + j)))
  let s2 := s1.touchL2 home frame (ws.headD 0) (ws.getLastD 0) true m.hint
  let s3 := if m.lanes = 0 || !m.hidden then s2 else s2.dropL1 m.core frame mask (fun b => b.tag = none)
  let hit := s3.cores.filter (fun c => !(c.1 = m.core && m.lanes ≠ 0) &&
    c.2.l1.any (fun b => b.frame = frame && b.tag = none && (List.range 64).any (fun w => mask.getLsbD w && b.lo ≤ w && w ≤ b.hi)))
  { s3 with invals := s3.invals ++ hit.map (fun (c : Nat × Core) => ({ core := c.1, die := home, seq := seq, frame := frame, mask := mask, causes := id :: m.causes, ctxs := m.ctxs, mostly := m.readMostly || (m.atHome && !m.hidden) } : Inval)) }.announce
    home (.seqNo seq)

/-- R237, R242: an atomic comes after the stores to its bytes that its core's L1 shows, or that have left the gather entries of its die. -/
def State.atomicBehind (s : State) (m : Msg) : Bool :=
  s.msgs.any (fun q => !q.2.hidden && m.bytes.any (fun b => q.2.touches b.1) && (q.2.core = m.core && q.2.lanes ≠ 0 || q.2.die = m.die && q.2.lanes = 0))

/-- R224: one lane of an atomic or a reduction. -/
def MsgKind.isAtomic : MsgKind → Bool
  | .atomic .. => true
  | _ => false

/-- R210, R237: a gather entry of its die holds a byte of an atomic again: it leaves first. -/
def State.atomicGathered (s : State) (m : Msg) : Bool :=
  (tblFind (s.die m.die).gather (frameOf m.pa)).any (fun g => m.bytes.any (fun b => (tblFind g.bytes (b.1 % 256)).isSome))

/-- A message may be performed: everything it comes after is done (R222, R224); the lanes of rnd.adv are announced in ascending order
(R228). -/
def State.msgReady (s : State) (m : Msg) : Bool :=
  m.after.all (fun a => !s.outstanding a) &&
  (match m.kind with
    | .round _ lane pend => (match tblFind s.pends pend with
      | some p => decide (p.wait = ((lanesOf p.act).filter (fun l => lane ≤ l)).length)
      | none => true)
    | _ => true) && !(m.kind.isAtomic && s.atomicBehind m)

/-- R280, R246: the value of a proxy operand, once its slot is ready. -/
def State.slotValue (s : State) (stack slot : Nat) : Option Word :=
  let x := tblGet {} (s.home stack).slots slot
  if x.full then some x.val else none

/-- R287: the first proxy word among arguments whose generation is not that of its slot. -/
def State.staleWord (s : State) (l : List Word) : Option Word :=
  l.find? (fun w => (tblGet {} (s.home (proxyStack w)).slots (proxySlot w)).gen ≠ proxyGen w)

/-- R287: a home reports a stale generation to the issuing core, which writes a record and halts the workgroup, naming position and lane. -/
def State.reportStale (s : State) (ctx wg lane : Nat) (pos : Long) (w : Word) : State :=
  (s.machineCheck uSIDE 3 (proxyStack w) (proxySlot w) ctx).asyncFault wg cSTALE (BitVec.ofNat 32 (2 ^ lane)) pos (w.setWidth 64) (BitVec.ofNat 32 s.mcNext)

/-- R287, R350: a home reports an uncorrectable slot, or memory that ld.p reads, in the same way. -/
def State.reportBad (s : State) (ctx wg lane : Nat) (pos : Long) (b : Bad) : State :=
  (s.machineCheck b.unit 3 b.index b.loc ctx).asyncFault wg cUNCORR (BitVec.ofNat 32 (2 ^ lane)) pos (BitVec.ofNat 64 s.mcNext) (BitVec.ofNat 32 s.mcNext)

/-- R224: the new value of an atomic of w bits in mode n (0), i (1) or f (2). -/
def atomNew (op mode w old src swp : Nat) : Nat :=
  let r (x : Nat) : Int := if mode = 1 then sext x w else ((x % 2 ^ w : Nat) : Int)
  match op with
  | 0 => if mode = 2 then atomFloat (if w = 32 then fmt32 else fmt64) 0 old src else (old + src) % 2 ^ w
  | 1 => if mode = 2 then atomFloat fmt32 1 old src else if r src < r old then src else old
  | 2 => if mode = 2 then atomFloat fmt32 2 old src else if r src > r old then src else old
  | 3 => old &&& src
  | 4 => old ||| src
  | 5 => old ^^^ src
  | 6 => src
  | 7 => if old = src then swp else old
  | 8 => if old ≥ src then 0 else old + 1
  | _ => if old = 0 || old > src then src else old - 1

/-- A result under way changed. -/
def State.modPend (s : State) (q : Nat) (f : Pend → Pend) : State :=
  match tblFind s.pends q with
  | some p => { s with pends := tblPut s.pends q (f p) }
  | none => s

/-- Every core, or the cores of a die, changed. -/
def State.modCores (s : State) (sel : Nat → Bool) (f : Core → Core) : State :=
  { s with cores := s.cores.map (fun (c : Nat × Core) => if sel c.1 then (c.1, f c.2) else c) }

/-- One of the writes that a result waits for is performed; with the last one the result may be written. -/
def State.pendDown (s : State) (q : Option Nat) : State :=
  match q with
  | none => s
  | some q =>
    let s1 := s.modPend q (fun x => { x with wait := x.wait - 1 })
    match tblFind s1.pends q with
    | some p => if p.wait = 0 then s1.now (.loadCompletion q) else s1
    | none => s1

/-! ### Fills (R196-R201, R206-R208, R265) -/

/-- What serves a request for missing words: their page's attributes, whether the L1 keeps the data, and how. -/
structure FillPlan where
  install : Bool
  replica : Bool
  region : Option (Nat × Nat)
  deriving DecidableEq, Repr

/-- R206, R207, R270: how a request of a core for a physical address is served, its VA in a region or none. bounded is ld.b or cpf, the
accesses that fill region frames. -/
def fillPlan (core pa entry : Nat) (region : Option (Nat × Nat)) (bounded : Bool) : FillPlan :=
  let local' := homeDie pa = Config.dieOfCore core
  let rm := leafReadMostly entry
  match region with
  | some r => ⟨bounded && (local' || rm), rm && !local' && bounded, if bounded then some r else none⟩
  | none => ⟨local' || rm, rm && !local', none⟩

/-- R197: the length of a fill: the span hint, or the predictor's entry. -/
def State.fillLength (s : State) (core : Nat) (pos : Long) (span : Nat) : Nat :=
  if span = 0 then tblGet 8 (s.core core).pred (predIndex pos) else if span = 63 then 64 else span

/-- A fill leaves for the words [lo, hi] of a frame, numbered by the next fresh number. -/
def State.startFill (s : State) (f : Fill) : State := ({ s with fills := tblPut s.fills s.fresh f }.later (.fillArrival s.fresh)).tickFresh

/-- R198, R261, R262, R269: the blocks that a predicate selects leave every L1, training the predictor, and the replicas every L2. -/
def State.removeBlocks (s : State) (sel : Block → Bool) : State :=
  { s.modCores (fun _ => true) (fun c => { c with l1 := c.l1.filter (fun b => !sel b), pred := (c.l1.filter sel).foldl trainPred c.pred }) with
    dies := s.dies.map (fun (d : Nat × Die) => (d.1, { d.2 with l2 := d.2.l2.filter (fun b => !(b.replica && sel b)) })) }

/-- R261, R262: the fills under way that a predicate selects form no block any longer. -/
def State.cutFills (s : State) (sel : Fill → Bool) : State :=
  { s with fills := s.fills.map (fun (p : Nat × Fill) => if sel p.2 then (p.1, { p.2 with install := false, replica := false }) else p) }

/-- R413: the launch a fill is for. -/
def State.fillLaunch (s : State) (f : Fill) : Option Nat :=
  match f.pend.bind (tblFind s.pends) with
  | some p => some (s.launchOfWg (s.wgOf p.core p.slot))
  | none => (s.wgs.find? (fun w => w.2.core = f.core && s.ctxOfWg w.1 = f.ctx)).map (fun w => w.2.launch)

/-- Tables 16-3, 12-2: where a word of a fill comes from: a replica of the die, with its tag and whether it passes, or the point of coherence. -/
inductive FillSrc where
  | replica (tag : Option (Nat × Nat × Word)) (ok : Bool)
  | home
  deriving DecidableEq, Repr

/-- A tag of the region a fill is for. -/
def sameRegion (a b : Option (Nat × Nat × Word)) : Bool := a.map (fun t => (t.1, t.2.1)) == b.map (fun t => (t.1, t.2.1))

/-- R206-R208, R266, R267: the L2 slice of the requesting die looks a word up: a replica of the fill's region, or of none, serves it where it
passes the bound or .flag takes it; a word that was skipped at the L1, or is here, comes from the point of coherence (assumption log 20). -/
def State.fillSrc (s : State) (f : Fill) (w : Nat) : FillSrc :=
  if !f.replica || f.skip.getLsbD w then .home
  else match (s.die (Config.dieOfCore f.core)).l2.find? (fun b => b.replica && b.frame = f.frame && b.lo ≤ w && w ≤ b.hi && sameRegion b.tag f.tag) with
    | none => .home
    | some b => match b.tag, f.bound with
      | some t, some (k, flag) => if s.staleness t ≤ k then .replica b.tag true else if flag then .replica b.tag false else .home
      | _, _ => .replica b.tag true

/-- R206, R207: a byte that a fill brings. -/
def State.fillByte (s : State) (f : Fill) (pa : Nat) : Byte :=
  match s.fillSrc f (wordOf pa) with
  | .replica tag _ => (match (s.die (Config.dieOfCore f.core)).l2.find? (fun b => b.replica && b.frame = f.frame && b.lo ≤ wordOf pa && wordOf pa ≤ b.hi && b.tag = tag) with
    | some b => b.data.getD (pa % 256 - 4 * b.lo) 0
    | none => 0)
  | _ => s.dieByte (Config.dieOfCore f.core) pa

/-- The runs of words of a fill that come from one place. -/
def State.fillRuns (s : State) (f : Fill) : List (Nat × Nat × FillSrc) :=
  ((List.range (f.hi + 1 - f.lo)).map (fun i => f.lo + i)).foldl (fun l w =>
    let x := s.fillSrc f w
    match l.getLast? with
    | some r => if r.2.2 = x then l.dropLast ++ [(r.1, w, x)] else l ++ [(w, w, x)]
    | none => [(w, w, x)]) []

/-- R199-R202, R207, R265: one run of a fill is installed. From a replica the L1 takes its tag; from the home the tag of the request, and a
read-mostly frame of another die also forms a replica. The block formed counts no word as touched until it is read (assumption log 20);
it shows the stores that its L1 has performed and that are still on their way. -/
def State.installRun (s : State) (f : Fill) (r : Nat × Nat × FillSrc) : State :=
  let die := Config.dieOfCore f.core
  let home := homeDie (f.frame * 256)
  let bytes (read : Nat → Byte) : List Byte := (List.range (4 * (r.2.1 + 1 - r.1))).map (fun i => read (f.frame * 256 + 4 * r.1 + i))
  let blk (tag : Option (Nat × Nat × Word)) (data : List Byte) : Block :=
    { frame := f.frame, lo := r.1, hi := r.2.1, prio := if f.hint = 0 then 2 else f.hint, filler := f.filler, train := f.train, replica := f.replica, tag := tag, data := data, lru := s.fresh }
  let toL1 (s : State) (tag : Option (Nat × Nat × Word)) (data : List Byte) : State :=
    if !f.install then s
    else match installBlock 128 (blk tag data) (s.core f.core).l1 with
      | some (l, gone) => s.modCore f.core (fun k => { k with l1 := l, pred := gone.foldl trainPred k.pred })
      | none => s
  match r.2.2 with
  | .replica tag _ =>
    toL1 (s.modDie die (fun d => { d with l2 := d.l2.map (fun b =>
      if b.replica && b.frame = f.frame && b.tag = tag && b.lo ≤ r.2.1 && r.1 ≤ b.hi then b.accessed [] f.hint s.fresh false else b) }))
      tag (bytes (fun pa => s.shownByte f.core pa (s.fillByte f pa)))
  | .home =>
    let s1 := s.touchL2 home f.frame r.1 r.2.1 false f.hint
    let s2 := if !f.replica then s1
      else match installBlock 65536 (blk f.tag (bytes (s.dieByte die))) (s1.die die).l2 with
        | some (l, _) => (s1.modDie die (fun d => { d with l2 := l })).modDie home (fun d =>
            { d with replicas := tblPut d.replicas f.frame ((tblGet [] d.replicas f.frame).filter (· ≠ die) ++ [die]) })
        | none => s1
    toL1 s2 f.tag (bytes (fun pa => s.shownByte f.core pa (s.dieByte die pa)))

/-- R222, R237: a byte at the point of coherence with the stores of a core that its L1 shows and that are on their way, but for those the load's own
threads have issued after it. -/
def State.byteFor (s : State) (q : Nat) (p : Pend) (pa : Nat) : Byte :=
  lastByte (s.msgs.filter (fun m => (m.1 < q || m.2.slot ≠ p.slot || m.2.lanes &&& p.lanes = 0) && frameOf m.2.pa = frameOf pa && m.2.core = p.core &&
    m.2.lanes ≠ 0 && !m.2.hidden && !m.2.atHome)) pa (s.dieByte (Config.dieOfCore p.core) pa)

/-- R196, R205, R237: a fill delivers the bytes it brings to the loads of its core that still miss them: to its own, and what every load may
read to the others too, so that of two loads of one byte the later one reads no older write. The other half of an aligned 8 bytes comes with
its half. A lane that a failing replica serves is reported false (R267). -/
def State.give (s : State) (f : Fill) (q : Nat) (p : Pend) : Pend :=
  if p.core ≠ f.core then p
  else
    let within (m : Nat × Nat) : Bool := frameOf m.2 = f.frame && f.lo ≤ wordOf m.2 && wordOf m.2 ≤ f.hi
    let here (m : Nat × Nat) : Bool := within m && (f.pend = some q || (match s.fillSrc f (wordOf m.2) with | .replica tag _ => tag.isNone | _ => true))
    let mine := p.missing.filter (fun m => p.missing.any (fun x => here x && p.together x m) &&
      p.missing.all (fun x => !p.together x m || !s.waitsFor q p x.2))
    let byte (m : Nat × Nat) : Byte := match s.fillSrc f (wordOf m.2) with
      | .replica _ _ => if within m then s.fillByte f m.2 else s.byteFor q p m.2
      | _ => s.byteFor q p m.2
    let fails (l : Nat) : Bool := mine.any (fun m => m.1 / 16 = l && within m && (match s.fillSrc f (wordOf m.2) with | .replica _ ok => !ok | _ => false))
    s.received mine { p with
      bytes := mine.foldl (fun t m => tblPut t m.1 (byte m)) p.bytes, missing := p.missing.filter (fun m => !mine.contains m)
      preds := p.preds.map (fun w => if fails w.1 then (w.1, w.2.1, false) else w) }

/-- R204, R208, R222: what a fill waits for: an invalidation of its frame that its L1 has not applied, so that a block holds no word older
than its neighbours (R205), a collapse of the frame, and a store of the load's own threads that it is to read. -/
def State.fillBlocked (s : State) (f : Fill) : Bool :=
  s.invals.any (fun v => v.core = f.core && v.frame = f.frame) || (f.replica && s.msgs.any (fun m => m.2.collapsing && frameOf m.2.pa = f.frame)) ||
  (match f.pend with
    | some q => (tblFind s.pends q).any (fun p => p.missing.any (fun x => frameOf x.2 = f.frame && s.waitsFor q p x.2))
    | none => false)

/-- R199-R201, R206, R265: FILL_ARRIVAL: the data of a fill is delivered to the loads that wait for it, and installed where the plan says. -/
def execFillArrival (id : Nat) (s : State) : Out :=
  match tblFind s.fills id with
  | none => .next s
  | some f =>
    if s.fillBlocked f then .next (s.again (.fillArrival id))
    else
      let s1 := { s with fills := tblDel s.fills id }.moved (f.frame * 256) (s.fillLaunch f) (4 * (f.hi + 1 - f.lo))
      let s2 := { s1 with pends := s1.pends.map (fun (q : Nat × Pend) => (q.1, s.give f q.1 q.2)) }
      .next ((((s.fillRuns f).foldl (fun s r => s.installRun f r) s2).tickFresh).filled s)

/-- R204: INVALIDATION_APPLY: the oldest invalidation for an L1 takes effect. -/
def execInvalidationApply (core : Nat) (s : State) : Out :=
  match s.invals.find? (fun v => v.core = core && decide (v.due.getD (s.tick + 1) ≤ s.tick)) with
  | none => .next s
  | some v => .next ({ s with invals := s.invals.erase v }.dropL1 core v.frame v.mask (fun b => b.tag = none))

/-! ### What a thread may have observed (R240, R241) -/

/-- R362, R363: the ranges of device memory that the leaves below a table map (base, shift). -/
def leafRanges (mem : List Host.Cell) (lv table : Nat) : List (Nat × Nat) :=
  match lv with
  | 0 => []
  | k + 1 => ((List.range (levelEntries k)).map (fun i =>
      let e := memNat mem (table + 8 * i) 8
      if !bit e 0 then []
      else if bit e 1 then (if leafWindow e then [] else [(bits e 47 16 * 256, levelShift k)])
      else leafRanges mem k (bits e 47 16 * 256))).flatten

/-- Whether two contexts map a byte of device memory in common. -/
def State.mapsInCommon (s : State) (a b : Nat) : Bool :=
  let of (c : Nat) : List (Nat × Nat) := leafRanges s.mem 5 (s.ctx c).root
  (of a).any (fun x => (of b).any (fun y => x.1 / 2 ^ max x.2 y.2 = y.1 / 2 ^ max x.2 y.2))

/-- The contexts whose writes a thread of a context can have observed, through memory they map in common, one after the other. -/
def State.related (s : State) (ctx : Nat) : List Nat :=
  s.ctxs.foldl (fun l _ => l ++ (((s.ctxs.filter (fun c => c.2.st ≠ 0)).map (fun c => c.1)).filter (fun c => !l.contains c && l.any (fun d => s.mapsInCommon c d)))) [ctx]

/-- Whether a set of contexts holds one whose writes a thread of a context can have observed. -/
def State.reaches (s : State) (ctx : Nat) (ctxs : BitVec 64) : Bool :=
  ctxs.getLsbD ctx || (ctxs &&& ~~~ (BitVec.ofNat 64 (2 ^ ctx)) ≠ 0 && (s.related ctx).any (fun c => ctxs.getLsbD c))

/-- R210, R225: at .die, .pkg and .sys the gather entries of a die that may hold a byte a thread of a context has observed are flushed (assumption
log 18). -/
def State.flushDie (s : State) (die ctx scope : Nat) : State :=
  if scope < 2 then s else ((s.die die).gather.filter (fun p => s.reaches ctx p.2.ctxs)).foldl (fun s p => s.flushGather die p.1) s

/-- R240, R241, Table 14-2: the writes that threads of a context may have observed, or that happen before what they do now, and that are not
performed at a scope: at .wg those to read-mostly pages, at .tm those that an L1 shows, from .die on those that have left a gather entry too
(assumption log 18). -/
def State.observed (s : State) (ctx scope : Nat) : List Nat :=
  (s.msgs.filter (fun m => !m.2.hidden && (m.2.lanes ≠ 0 || scope ≥ 2) && (scope ≥ 1 || m.2.atHome) && s.reaches ctx m.2.ctxs)).map (fun m => m.1) ++
  ((s.invals.filter (fun v => (scope ≥ 1 || v.mostly) && s.reaches ctx v.ctxs)).map (fun v => v.causes.headD 0))

/-- Every write of the contexts that a context shares memory with, and every invalidation of theirs, on its way. -/
def State.unperformed (s : State) (ctx : Nat) : List Nat :=
  (s.msgs.filter (fun m => s.reaches ctx m.2.ctxs)).map (fun m => m.1) ++
  (s.invals.filter (fun v => s.reaches ctx v.ctxs)).map (fun v => v.causes.headD 0)

/-- R252: a release that may be performed takes the time of Table 15-1 first; ev looks at it again. -/
def State.takeOverhead (s : State) (id : Nat) (m : Msg) (ev : Instr) : State :=
  { s with msgs := tblPut s.msgs id { m with overhead := 0 } }.inCycles m.core m.overhead ev

/-- R240: the accesses that come before a release in its thread are performed: what they may have observed is found, but not what the thread has
stored since, and the release comes after that too. -/
def State.widenMsg (s : State) (id : Nat) (m : Msg) (ev : Instr) : State :=
  let s1 := s.flushDie m.die m.ctx m.scope
  let later (q : Nat) : Bool := match tblFind s1.msgs q with
    | some x => x.core = m.core && x.slot = m.slot && x.lanes &&& m.lanes ≠ 0 && (id < q || x.pos == m.pos)
    | none => false
  let m' := { m with widen := false, after := ((s1.observed m.ctx m.scope).filter (fun q => !later q)) }
  if m'.after.isEmpty && m.overhead > 0 then s1.takeOverhead id m' ev else { s1 with msgs := tblPut s1.msgs id m' }.again ev

/-- R208: READ_MOSTLY_COLLAPSE: the replicas of the frame leave the dies that hold them, one acknowledgement a die; with all of them in
the write is performed. A region frame is not collapsed (Table 16-4): its message is not of this kind. -/
def execReadMostlyCollapse (id : Nat) (s : State) : Out :=
  match tblFind s.msgs id with
  | none => .next s
  | some m =>
    if !s.msgReady m then .next (s.again (.readMostlyCollapse id))
    else if m.widen then .next (s.widenMsg id m (.readMostlyCollapse id))
    else if m.overhead > 0 then .next (s.takeOverhead id m (.readMostlyCollapse id))
    else match (s.replicasOf m.pa).head? with
      | none => .next ({ s with msgs := tblPut s.msgs id { m with collapsing := true } }.now (.storePerformedAtHome id))
      | some d =>
        let frame := frameOf m.pa
        let gone (b : Block) : Bool := b.replica && b.frame = frame
        let s1 := { s with msgs := tblPut s.msgs id { m with collapsing := true, acked := m.acked ++ [d] } }
        let s2 := s1.modDie d (fun x => { x with l2 := x.l2.filter (fun b => !gone b) })
        let s3 := s2.modCores (fun c => Config.dieOfCore c = d) (fun c => { c with l1 := c.l1.filter (fun b => !gone b), pred := (c.l1.filter gone).foldl trainPred c.pred })
        let s4 := s3.modDie (homeDie m.pa) (fun x => { x with replicas := tblPut x.replicas frame ((tblGet [] x.replicas frame).filter (· ≠ d)) })
        .next (s4.later (.readMostlyCollapse id))

/-- Whether a wait, a message that is to come after it, or a command (R367) waits for a store to be performed at its home. -/
def State.awaited (s : State) (id : Nat) : Bool :=
  s.groups.any (fun g => g.2.waits.any (fun w => match w.cond with | .gone ids _ => ids.contains id | _ => false)) ||
  s.msgs.any (fun m => m.2.after.contains id) || s.submits.any (fun x => x.2.after.contains id) || s.sent.any (fun x => x.2.prev.contains id) ||
  s.launches.any (fun l => (l.2.closing.getD []).contains id) || s.ctxs.any (fun c => (c.2.closing.getD []).contains id) ||
  s.kicks.any (fun k => k.2.running && k.2.phase > id)

/-- R203, R209, R220, R238: a store that was held is performed at its L1: what the L1 holds is updated, and the store leaves for its home
slice, or enters the gather entry of its frame. A store at .wg is complete with it (Table 14-2), one at .tm or .die once it is in an entry; of
a wider release, of a store that something waits for, and of one whose group has left its slot (R180, R185), the entry leaves at once (R210)
(assumption log 18). -/
def State.performAtL1 (s : State) (id : Nat) (m : Msg) : State :=
  let frame := frameOf m.pa
  if homeDie m.pa = m.die || m.atHome then
    let wg := m.scope = 0 && !m.atHome
    let sent := s.sentTo m.core frame
    let m' := { m with held := false, stamp := s.fresh, after := if m.atHome then sent.filter (· < id) else sent, pend := if wg then none else m.pend, causes := if wg then [] else m.causes }
    let s0 := if m.atHome then s else s.fixLoads m.core id (m.bytes.map (fun b => b.1))
    let s1 := ({ s0.updateL1 m.core m.bytes m.hint with msgs := tblPut s.msgs id m' }.tickFresh).later (.storePerformedAtHome id)
    if wg then s1.pendDown m.pend else s1
  else
    let wide := m.scope ≥ 3
    let s0 : State := { s with msgs := tblDel s.msgs id }
    let s1 := s0.fixLoads m.core id (m.bytes.map (fun b => b.1))
    let s2 := s1.noteUndo m.wg m.rwc (m.bytes.map (fun b => (b.1, s1.beyondL1 m.core b.1, b.2)))
    let s3 := (s2.updateL1 m.core m.bytes m.hint).gatherStore m.die frame m.ctx (s.launchOfWg m.wg) (id :: if wide then m.causes else []) m.bytes
    (if wide || s.awaited id || m.slot ≥ 2 ^ 20 then s3.flushGather m.die frame else s3).pendDown m.pend

/-- The bytes of a host-window store of proxy data that loads of its threads wait for: how they are named. -/
def winKey (die w off : Nat) : Nat := 2 ^ 60 + w * 2 ^ 32 + die * 2 ^ 26 + off

/-- R220, R222, R223: the value of a proxy is staged for a window on the die of its store, and loads that wait for it receive it. -/
def State.stageAt (s : State) (die w va : Nat) (bytes : List Byte) : State :=
  let x : Window := tblGet { va := 0, len := 0, host := 0, counter := 0 } s.windows w
  let s1 : State := { s with windows := tblPut s.windows w { x with staged := (placed (die * 2 ^ 26 + (va - x.va)) bytes).foldl (fun t b => tblPut t b.1 b.2) x.staged } }
  let new : List (Nat × Byte) := placed (winKey die w (va - x.va)) bytes
  let take (p : Pend) : Pend :=
    if !p.missing.any (fun m => new.any (fun b => b.1 = m.2)) then p
    else { p with
      bytes := p.missing.foldl (fun t m => match new.find? (fun b => b.1 = m.2) with | some b => tblPut t m.1 b.2 | none => t) p.bytes
      missing := p.missing.filter (fun m => !new.any (fun b => b.1 = m.2)) }
  let s2 := { s1 with pends := s1.pends.map (fun (q : Nat × Pend) => (q.1, take q.2)) }
  s2.filled s

/-- R203-R205, R224, R246, R287: STORE_PERFORMED_AT_HOME: a store that was held is performed at its L1; a write, a flushed entry or one lane of
an atomic is performed at its home slice; one lane of rnd.adv joins the lectern port of its counter's die (R263). A proxy store whose slot
fails is not performed. -/
def execStorePerformedAtHome (id : Nat) (s : State) : Out :=
  match tblFind s.msgs id with
  | none => .next s
  | some m =>
    let proxy := m.proxy.bind (fun w => s.slotValue (proxyStack w) (proxySlot w))
    if m.kind.isAtomic && s.atomicGathered m then .next ((s.flushGather m.die (frameOf m.pa)).again (.storePerformedAtHome id))
    else if !s.msgReady m || (m.readMostly && !m.collapsing) || (m.proxy.isSome && proxy.isNone) then .next (s.again (.storePerformedAtHome id))
    else if m.widen then .next (s.widenMsg id m (.storePerformedAtHome id))
    else if m.overhead > 0 then .next (s.takeOverhead id m (.storePerformedAtHome id))
    else if m.held then .next (s.performAtL1 id m)
    else
      let s0 := match m.proxy with | some w => s.dropReader w | none => s
      let s1 : State := { s0 with msgs := tblDel s0.msgs id }
      let stale := m.proxy.bind (fun w => s.staleWord [w])
      let bad := m.proxy.bind (fun w => s.badAt uSIDE (proxyStack w) (proxySlot w))
      match stale, bad with
      | some w, _ => .next ((s1.reportStale m.ctx m.wg m.lane m.pos w).pendDown m.pend)
      | none, some b => .next ((s1.reportBad m.ctx m.wg m.lane m.pos b).pendDown m.pend)
      | none, none =>
        let s2 : State := match m.kind with
          | .write =>
            let bytes := match proxy with | some v => placed m.pa (leBytes 4 v.toNat) | none => m.bytes
            s1.performWrite m id bytes
          | .stage w va => s1.stageAt m.die w va (match proxy with | some v => leBytes 4 v.toNat | none => m.bytes.map (fun b => b.2))
          | .atomic op mode size src swp lane pend =>
            let v := match proxy with | some v => v.toNat | none => src.toNat
            let old := memNat s1.mem m.pa size
            let s2 := s1.performWrite m id (placed m.pa (leBytes size (atomNew op mode (8 * size) old v swp.toNat)))
            (match pend with
            | none => s2
            | some q => s2.modPend q (fun x =>
                let y : Pend := { x with bytes := (placed (lane * 16) (leBytes size old)).foldl (fun t b => tblPut t b.1 b.2) x.bytes }
                s.received ((List.range size).map (fun j => (lane * 16 + j, m.pa + j))) y))
          | .round slot lane pend =>
            let r := tblGet { base := 0, len := 0, stack := 0 } (s1.ctx m.ctx).regions slot
            s1.announce (Config.dieOfStack r.stack) (.round m.ctx slot lane (some pend))
        .next (s2.pendDown m.pend)

/-- R210: GATHER_FLUSH. -/
def execGatherFlush (die frame : Nat) (s : State) : Out := .next (s.flushGather die frame)

/-- R243: GATHER_IDLE_FLUSH: an entry not written for 65,536 ticks; entries written since have an event of their own. -/
def execGatherIdleFlush (die frame : Nat) (s : State) : Out :=
  .next (if s.timers.any (fun t => t.ev = .gatherIdleFlush die frame) then s else s.flushGather die frame)

end Sys2Proof.Machine
end

