-- ==== Sys2Proof/Machine/Fetch.lean ====
section
/-! DEFINITION. Fetching and checking the instruction of an issue (R33-R39, R72-R74, Table 04-13), the line refetch of R36, and the
placing of one word where the step fetches next. -/

namespace Sys2Proof.Machine

/-- A header with no fields set, for faults raised before the word is decoded. -/
def Hdr.none : Hdr := ⟨0, 0, 7, 0, 0⟩

/-- R73: the privileged opcodes. -/
def privileged : Instr → Bool
  | .rfe .. | .vbtQuiesce .. | .vbtDriveWalk .. | .vbtDriveFlat .. | .vbtSample .. | .vbtRepGrp .. | .vbtRepRot .. | .vbtRetire ..
  | .vbtResume .. => true
  | _ => false

/-- The header of an instruction slot as a value of sr.tvalue (Table 20-1). -/
def headerValue (w : Slot) : Long := (Slot.field w 64 32).setWidth 64

/-- Table 04-13, orders 3 to 6, for a slot whose template class is c, in a group of n registers: the instruction, or the fault. -/
def checkSlot (w : Slot) (c n : Nat) (priv : Bool) (line : Word) : Except (Nat × Long) Instr :=
  match issueClass (slotOp w) with
  | none => .error (cILLEGAL, headerValue w)
  | some k =>
    if k ≠ c then .error (cLINE, line.setWidth 64)
    else match decode w with
      | .error _ => .error (cILLEGAL, headerValue w)
      | .ok i =>
        if !i.wf n then .error (cILLEGAL, headerValue w)
        else if privileged i && !priv then .error (cPRIV, headerValue w)
        else .ok i

/-- R36: whether the core has refetched a line for the parity of a slot (5: of its line word), and whether it is fetching the line again now. -/
def State.refetched (s : State) (core launch line slot : Nat) : Bool := (s.core core).lines.contains ⟨launch, line, slot, true⟩
def State.refetching (s : State) (core launch line : Nat) : Bool :=
  (s.core core).lines.any (fun x => x.launch = launch && x.line = line && !x.got)

/-- R36: the core discards its copy of a line and fetches it once more, which takes a time that no rule fixes (assumption log 5). -/
def State.startRefetch (s : State) (core launch line slot : Nat) : State :=
  if s.refetching core launch line then s
  else (s.modCore core (fun c => { c with lines := ⟨launch, line, slot, false⟩ :: c.lines })).later (.lineRefetch core launch line)

/-- R36: a parity mismatch of a slot, or of the line word: the line is fetched once more, or, where it has been for that, LINE_FORMAT is
raised. -/
def State.parityFault (s : State) (line slot : Nat) (tv : Long) : State :=
  let k := s.cur
  let l := s.launchOfWg s.curWg
  if s.refetched k.core l line slot then
    s.raise Hdr.none k.lanes cLINE tv
  else s.startRefetch k.core l line slot

/-- R36: the line word and a slot have passed, so a later mismatch of theirs is refetched anew; one of another slot that has persisted is not. -/
def State.lineGood (s : State) (line slot : Nat) : State :=
  s.modCore s.cur.core (fun c => { c with lines := c.lines.filter (fun x =>
    !(x.launch = s.launchOfWg s.curWg && x.line = line && x.got && (x.slot = slot || x.slot = 5))) })

/-- R39: whether a thread of the issue in hand enters the kernel, a handler group or a trap handler here. -/
def State.enteringNow (s : State) : Bool :=
  (lanesOf s.cur.lanes).any (fun l => (s.thread s.cur.core s.cur.slot l).entering)

/-- The line word of a position in a launch's image. -/
def State.lineWordAt (s : State) (l : Nat) (p : Long) : Word :=
  match s.walk (s.launch l).ctx (lineOf p) with
  | .ok pa _ => lineWord (s.lineBytes l pa)
  | _ => 0

/-- R350: an uncorrectable codeword of the slot at a position or of its line word. -/
def State.badLine (s : State) (p : Long) : Option Bad :=
  if s.bad.isEmpty then none
  else match s.walk s.curCtx (lineOf p) with
    | .ok pa _ => (s.badMem (pa + 12 * (p.toNat % 8)) 12).or (s.badMem (pa + 60) 4)
    | _ => none

/-- R39, R347: what an issue that finds its line untranslated is parked on, and what PAGE names: the position of an entry, otherwise the line. -/
def parkedOn (entering : Bool) (p : Long) : Long := if entering then p else BitVec.ofNat 64 (lineOf p)

/-- R333, Table 04-13: the instruction the issue in hand fetches, or the state after what stops it. The spec gives an uncorrectable line (R350)
no place among the checks of that table: it comes after checks 1 and 2, before check 3 (assumption log 46). -/
def State.fetch (s : State) : State × Option Instr :=
  let k := s.cur
  let l := s.launchOfWg s.curWg
  let ent := s.enteringNow
  match if ent then s.targetCheck l k.pos else s.lineCheck l k.pos with
  | .absent => (s.park (.lineRefetch k.core l (lineOf k.pos)) (parkedOn ent k.pos), none)
  | .fault code bad =>
    let s1 := match bad with | some lv => s.noteBad s.curCtx lv (lineOf k.pos) | none => s
    let w := s.lineWordAt l k.pos
    let tv := if code = cLINE && !ent then w.setWidth 64 else k.pos
    if code = cLINE && lineReservedOk w then (s1.parityFault (lineOf k.pos) 5 tv, none)
    else (s1.raise Hdr.none k.lanes code tv, none)
  | .ok b =>
    let w := lineWord b
    let j := k.pos.toNat % 8
    let x := lineSlot b j
    if !slotParityOk w j x then (s.parityFault (lineOf k.pos) j (w.setWidth 64), none)
    else
      match s.badLine k.pos with
      | some bd => ((s.raiseBad Hdr.none k.lanes bd), none)
      | none =>
      let s1 := (s.lineGood (lineOf k.pos) j).modLanes k.core k.slot k.lanes (fun _ t => { t with entering := false })
      match checkSlot x (lineClass w j) (s.group k.core k.slot).n (s.ctx s.curCtx).priv w with
      | .error (code, tv) => (s1.raise (slotHdr x) (s.active (slotHdr x)) code tv, none)
      | .ok i => (s1, some i)

/-- R36: LINE_REFETCH: the second copy of a line has come: the core holds it in place of the one it discarded. -/
def execLineRefetch (core launch line : Nat) (s : State) : Out :=
  .next (s.modCore core (fun c => { c with lines := c.lines.map (fun x => if x.launch = launch && x.line = line then { x with got := true } else x) }))

/-- What stands at a position, without any effect of fetching it: for the eligibility of Table 08-1. -/
inductive SlotSt where
  /-- the slot's word, its instruction where it is one, and its template class -/
  | present (x : Slot) (i : Option Instr) (c : Nat)
  /-- R347: the line is not translated -/
  | absent
  /-- R126: the line is translated, and the core has not fetched it, or is fetching it -/
  | missing
  /-- R36: the line word fails its parity (5), or a slot whose word is x does, and the line has not been fetched again for it -/
  | mismatch (slot : Nat) (x : Option Slot)
  /-- R36: the line is being fetched again -/
  | refetching
  /-- a check of the line fails, or one of the slot x, which the issue will raise -/
  | faulty (x : Option Slot)
  deriving DecidableEq, Repr

/-- R126: a core has fetched a line of a launch, and is fetching it. -/
def State.lineHere (s : State) (core launch line : Nat) : Bool :=
  (s.core core).fetched.any (fun x => x.1 = launch && x.2.1 = line && x.2.2 ≤ (s.core core).cycles)
def State.lineComes (s : State) (core launch line : Nat) : Bool :=
  (s.core core).fetched.any (fun x => x.1 = launch && x.2.1 = line)

/-- Table 08-1, row 8, and Table 02-3: what stands at a position, as threads that enter there, or do not, find it. -/
def State.slotAt (s : State) (core slot : Nat) (p : Long) (entering : Bool) : SlotSt :=
  let g := s.group core slot
  let l := s.launchOfWg g.wg
  if s.refetching core l (lineOf p) then .refetching
  else match if entering then s.targetCheck l p else s.lineCheck l p with
    | .absent => .absent
    | .fault code _ =>
      if (code = cLINE || code = cENTRY) && !s.lineHere core l (lineOf p) then .missing
      else if code = cLINE && lineReservedOk (s.lineWordAt l p) && !s.refetched core l (lineOf p) 5 then .mismatch 5 none else .faulty none
    | .ok b =>
      if !s.lineHere core l (lineOf p) then .missing else
      let w := lineWord b
      let j := p.toNat % 8
      let x := lineSlot b j
      if !slotParityOk w j x then (if s.refetched core l (lineOf p) j then .faulty (some x) else .mismatch j (some x))
      else match checkSlot x (lineClass w j) g.n (s.ctx (s.ctxOfWg g.wg)).priv w with
        | .ok i => .present x (some i) (lineClass w j)
        | .error _ => .present x none (lineClass w j)

/-- The instruction that stands at a position. -/
def State.peek (s : State) (core slot : Nat) (p : Long) : Option (Instr × Nat) :=
  match s.slotAt core slot p false with
  | .present _ (some i) c => some (i, c)
  | _ => none

/-! ### Placing a word -/

/-- R34: the line word of a line whose first slot holds w and whose other slots are zero: entry bit 0, the template class of its
opcode, its parity, and the parity of the line word (assumption log 7). -/
def lineWordFor (w : Slot) : Word :=
  let x := 1 + (issueClass (slotOp w)).getD 0 * 2 ^ 5 + (countOnes 96 w.toNat % 2) * 2 ^ 15
  BitVec.ofNat 32 (x + (countOnes 21 x % 2) * 2 ^ 20)

/-- Where withFetchWord puts the code, and three tables that map the first 1 GiB onto itself. -/
def placeVA : Nat := 0x8000
def placeCells (w : Slot) : List (Nat × Byte) :=
  placed 0x1000 (leBytes 8 0x200001) ++ placed 0x2000 (leBytes 8 0x300001) ++ placed 0x3000 (leBytes 8 0x1F) ++
  placed placeVA (leBytes 12 w.toNat ++ List.replicate 48 0 ++ leBytes 4 (lineWordFor w).toNat)

/-- The group that runs the placed word (assumption log 7). -/
def placeGroup : Group := { n := 320, threads := List.replicate 32 { pos := BitVec.ofNat 64 placeVA } }

/-- The state with a word placed where the step fetches next (assumption log 7): a started privileged context, a launch with one
workgroup of one group on core 0, its page tables and its code, and the issue of that group next. -/
def State.place (s : State) (w : Slot) : State :=
  let m := memSetAll s.mem (placeCells w)
  { s with
    mem := m
    ctxs := tblPut s.ctxs 0 { s.ctx 0 with st := 1, priv := true, root := 0x1000, quota := List.replicate 12 64 }
    launches := tblPut s.launches 0 { s.launch 0 with ctx := 0, phase := 1, begun := true, kr := { n := 320, windows := List.replicate 8 (0x8000, 64) }, snap := m }
    wgs := tblPut s.wgs 0 { s.wg 0 with launch := 0, core := 0, gcount := 1, slots := [0], spSize := 65536 }
    groups := tblPut s.groups (gkey 0 0) placeGroup
    cores := tblPut s.cores 0 { s.core 0 with fetched := (0, placeVA, 0) :: (s.core 0).fetched }
    agenda := [.issue { core := 0, slot := 0, lanes := BitVec.allOnes 32, pos := BitVec.ofNat 64 placeVA }] }

end Sys2Proof.Machine
end

