-- ==== Sys2Proof/Machine/Control.lean ====
section
/-! DEFINITION. The control instructions of class 100 that concern one thread at a time (R141-R147, R150-R153), and YIELD_TIMEOUT. -/

namespace Sys2Proof.Machine

/-- R46: the target of a branch in a line offset by off lines. -/
def branchTarget (f : FmtB) (pos : Long) : Long :=
  BitVec.ofInt 64 ((lineOf pos : Int) + 64 * f.off.toInt + f.slot.toNat)

/-- R39, R143: the first lane, in ascending order, whose target does not pass (assumption log 15). -/
def State.badTarget (s : State) (targets : List (Nat × Long)) : Option (LineSt × Long) :=
  targets.findSome? (fun p => match s.targetCheck (s.launchOfWg s.curWg) p.2 with | .ok _ => none | r => some (r, p.2))

/-- Targets by lane as numbers an issue carries over a wait, and back. -/
def packTargets (l : List (Nat × Long)) : List Nat := (l.map (fun p => [p.1, p.2.toNat])).flatten
def unpackTargets : List Nat → List (Nat × Long)
  | l :: p :: r => (l, BitVec.ofNat 64 p) :: unpackTargets r
  | _ => []

/-- R39, R347: the transfer in hand waits at itself for a target's line, with the targets it has found; when the wait ends it checks them all
again. Its token has been raised, as that of any instruction that has begun (assumption log 15). -/
def State.awaitTarget (s : State) (h : Hdr) (i : Instr) (targets : List (Nat × Long)) (c : WaitCond) : State :=
  (s.carry (packTargets targets)).waitFor h i c 8

/-- R39, R142, R143: a control transfer: every target is checked before any thread moves. A fault is raised here, and names the target in
sr.tvalue, whichever check fails (R39; Table 20-1 would give a line word for LINE_FORMAT: assumption log 15); an untranslated target parks the
transfer, and a target line that fails its parity is fetched once more (R36). Otherwise each lane moves to its target, the others to the
sequential successor, with eff applied. -/
def State.transfer (s : State) (h : Hdr) (i : Instr) (act : BitVec 32) (found : List (Nat × Long)) (eff : State → State) : State :=
  let l := s.launchOfWg s.curWg
  let targets := if s.cur.nums.isEmpty then found else unpackTargets s.cur.nums
  match s.badTarget targets with
  | some (.fault code bad, t) =>
    if code = cLINE && lineReservedOk (s.lineWordAt l t) && !s.refetched s.cur.core l (lineOf t) 5 then
      (s.awaitTarget h i targets (.refetch l (lineOf t))).startRefetch s.cur.core l (lineOf t) 5
    else (match bad with | some lv => s.noteBad s.curCtx lv (lineOf t) | none => s).raise h act code t
  | some (_, t) =>
    (s.awaitTarget h i targets (.page t)).inTicks Config.pageFaultTicks (.pageFaultTimeout s.cur.core s.cur.slot s.fresh)
  | none =>
    let dest (l : Nat) : Long := ((targets.find? (fun p => p.1 = l)).map (fun p => p.2)).getD (seqPos s.cur.pos)
    ((eff s).doneNow h).retire h dest

/-- R143: a branch or call: a lane whose next position is the sequential successor goes on there unchecked. -/
def State.branchTo (s : State) (h : Hdr) (i : Instr) (act : BitVec 32) (targets : List (Nat × Long)) (eff : State → State) : State :=
  s.transfer h i act (targets.filter (fun p => p.2 ≠ seqPos s.cur.pos)) eff

/-- R147: nop changes nothing. -/
def execNop (h : Hdr) (_f : FmtS) (s : State) : Out := .next (s.retireSeq h)

/-- R143: bra. -/
def execBra (h : Hdr) (f : FmtB) (s : State) : Out :=
  let act := s.active h
  .next (s.branchTo h (.bra h f) act ((lanesOf act).map (fun l => (l, branchTarget f s.cur.pos))) id)

/-- R143: brx. -/
def execBrx (h : Hdr) (f : FmtB) (s : State) : Out :=
  let act := s.active h
  .next (s.withOperands h (.brx h f) act [.pair f.cond.toNat] [] [] stayNone 0 (fun s =>
    s.branchTo h (.brx h f) act ((lanesOf act).map (fun l => (l, s.selPair l f.cond.toNat))) id))

/-- R143: a branch on a register: the lanes whose register is zero (z) or not go to the target. -/
def State.branchOn (s : State) (h : Hdr) (i : Instr) (f : FmtB) (z : Bool) : State :=
  let act := s.active h
  s.withOperands h i act [.reg f.cond.toNat] [] [] stayNone 0 (fun s =>
    s.branchTo h i act (((lanesOf act).filter (fun l => (s.selWord l f.cond.toNat == 0) == z)).map (fun l => (l, branchTarget f s.cur.pos))) id)

/-- R143: brz. -/
def execBrz (h : Hdr) (f : FmtB) (s : State) : Out := .next (s.branchOn h (.brz h f) f true)

/-- R143: brnz. -/
def execBrnz (h : Hdr) (f : FmtB) (s : State) : Out := .next (s.branchOn h (.brnz h f) f false)

/-- R22: the return stack: entry d is the code position at byte 768 + 8d of the lane-private slice. -/
def Thread.ret (t : Thread) (d : Nat) : Long := BitVec.ofNat 64 (leNat (tabBytes t.lp (768 + 8 * d) 8))
def Thread.setRet (t : Thread) (d : Nat) (p : Long) : Thread :=
  { t with lp := tabSetAll t.lp (placed (768 + 8 * d) (leBytes 8 p.toNat)) }

/-- R143, R144: a call to targets: depth 32 is CALL_DEPTH; the sequential successor is pushed. -/
def State.callTo (s : State) (h : Hdr) (i : Instr) (act : BitVec 32) (targets : List (Nat × Long)) : State :=
  let k := s.cur
  if (lanesOf act).any (fun l => (s.thread k.core k.slot l).depth ≥ 32) then s.raise h act cDEPTH 32
  else s.branchTo h i act targets (fun s => (s.noteFirst s.curWg ((lanesOf act).map (fun l => (1, (s.group k.core k.slot).idx, l)))).modLanes k.core k.slot act (fun _ t =>
    { t.setRet t.depth (seqPos k.pos) with depth := t.depth + 1 }) |>.mend (fun b => b.unit == uSCRATCH && b.index == k.core &&
      (lanesOf act).any (fun l => b.loc == retLoc k.slot l (s.thread k.core k.slot l).depth)))

/-- R143, R144: call. -/
def execCall (h : Hdr) (f : FmtB) (s : State) : Out :=
  let act := s.active h
  .next (s.callTo h (.call h f) act ((lanesOf act).map (fun l => (l, branchTarget f s.cur.pos))))

/-- R143, R144: callx. -/
def execCallx (h : Hdr) (f : FmtB) (s : State) : Out :=
  let act := s.active h
  .next (s.withOperands h (.callx h f) act [.pair f.cond.toNat] [] [] stayNone 0 (fun s =>
    s.callTo h (.callx h f) act ((lanesOf act).map (fun l => (l, s.selPair l f.cond.toNat)))))

/-- R145, Table 09-2: an uncorrectable return-stack entry that the lowest lane reads. -/
def State.badReturn (s : State) (act : BitVec 32) : Option Bad :=
  (lanesOf act).findSome? (fun l =>
    let d := (s.thread s.cur.core s.cur.slot l).depth
    if d = 0 then none else s.badAt uSCRATCH s.cur.core (retLoc s.cur.slot l (d - 1)))

/-- R145: ret; an uncorrectable entry is UNCORRECTABLE, depth 0 is CALL_DEPTH; each popped address is checked. -/
def execRet (h : Hdr) (f : FmtB) (s : State) : Out :=
  let act := s.active h
  let k := s.cur
  .next (match if k.phase > 0 then none else s.badReturn act with
    | some b => s.raiseBad h act b
    | none => if (lanesOf act).any (fun l => (s.thread k.core k.slot l).depth = 0) then s.raise h act cDEPTH 0
    else s.transfer h (.ret h f) act
      ((lanesOf act).map (fun l => (l, (s.thread k.core k.slot l).ret ((s.thread k.core k.slot l).depth - 1))))
      (fun s => s.modLanes k.core k.slot act (fun _ t => { t with depth := t.depth - 1 })))

/-- The non-exited threads of groups. -/
def liveIn (l : Tbl Group) : Nat := (l.map (fun p => (p.2.threads.filter (fun t => !t.exited)).length)).foldl (· + ·) 0

/-- R148: the non-exited threads of a workgroup, resident or parked. -/
def State.liveThreads (s : State) (w : Nat) : Nat := liveIn (s.groups.filter (fun p => p.2.wg = w)) + liveIn (s.wg w).saved

/-- R146, R148: barrier k completes when its arrivals equal its participants: its threads become eligible 4 cycles later. -/
def State.barCheck (s : State) (w k : Nat) : State :=
  let b := tblGet {} (s.wg w).bars k
  if b.arrived > 0 && !b.closing && b.arrived ≥ s.liveThreads w then
    (s.modWg w (fun x => { x with bars := tblPut x.bars k { b with closing := true } })).inCycles (s.wg w).core 4 (.barrierComplete w k)
  else s

/-- R18, R284: every slot that the register lanes of a thread of a workgroup hold is released; under replay they hold none (R288). -/
def State.releaseRegs (s : State) (core w : Nat) (t : Thread) : State :=
  if s.replaying w then s else (t.regs.filter (fun p => p.2.tag)).foldl (fun s p => s.release core (s.ctxOfWg w) p.2.val) s

def State.releaseThread (s : State) (core slot l : Nat) : State := s.releaseRegs core (s.wgOf core slot) (s.thread core slot l)

/-- R146, R298: the threads of a mask end: their slots are released, and barriers and copies may complete without them. -/
def State.exitThreads (s : State) (core slot : Nat) (m : BitVec 32) : State :=
  let w := s.wgOf core slot
  let s1 := (lanesOf m).foldl (fun s l => s.releaseThread core slot l) s
  let s2 := s1.modLanes core slot m (fun _ t => { t with exited := true, regs := [] })
  let s3 := (List.range 16).foldl (fun s k => s.barCheck w k) s2
  let s4 := (s3.wg w).copies.foldl (fun s c => if c.2.st = 1 then s.now (.copyStart w c.1) else s) s3
  s4.bsets.foldl (fun s b => if b.2.launch = s.launchOfWg w && b.2.arrived > 0 then s.now (.bartRelease b.1 b.2.tag) else s) s4

/-- R185, R249: a handler group has exited: its packets no longer count for their senders, and what it stored leaves its die. -/
def State.handlerExit (s : State) (w : Nat) : State :=
  let x := s.wg w
  let ctx := s.ctxOfWg w
  let senders : List Nat := match tblFind (s.core x.core).rings x.launch with
    | some r => ((r.spawned.find? (fun (p : Nat × List Nat) => p.1 = w)).map (fun p => p.2)).getD []
    | none => []
  let s1 := s.modCore x.core (fun c => { c with rings := c.rings.map (fun (r : Nat × RxRing) => if r.1 = x.launch then (r.1, { r.2 with spawned := r.2.spawned.filter (fun (p : Nat × List Nat) => p.1 ≠ w) }) else r) })
  let s2 := senders.foldl (fun (s : State) (v : Nat) => if (tblFind s.wgs v).isSome then s.modWg v (fun y => { y with packets := y.packets - 1 }) else s) s1
  let die := Config.dieOfCore x.core
  ((s2.die die).gather.filter (fun (p : Nat × Gather) => p.2.ctxs.getLsbD ctx)).foldl (fun s p => s.flushGather die p.1) s2

/-- Table 11-8, R146: a slot is free as its group leaves; what was issued from it and is still under way goes on under a number that is no
slot (assumption log 3). -/
def State.vacate (s : State) (core slot : Nat) : State :=
  let w := s.wgOf core slot
  let to' := 2 ^ 20 + 128 * s.fresh + slot
  let new (c k : Nat) : Nat := if c = core && k = slot then to' else k
  let g := s.group core slot
  let s1 := s.modWg w (fun x => { x with slots := x.slots.map (fun k => if k = slot then to' else k), left := tblPut x.left g.idx (g.lastA.toNat, g.skid) })
  { s1 with
    groups := tblDel s1.groups (gkey core slot)
    pends := s1.pends.map (fun (p : Nat × Pend) => (p.1, { p.2 with slot := new p.2.core p.2.slot }))
    msgs := s1.msgs.map (fun (p : Nat × Msg) => (p.1, { p.2 with slot := new p.2.core p.2.slot }))
    homeOps := s1.homeOps.map (fun (p : Nat × HomeOp) => (p.1, { p.2 with slot := new p.2.core p.2.slot }))
    sent := s1.sent.map (fun (p : Nat × Sent) => if p.2.packet.senderWg = w && p.2.slot = slot then (p.1, { p.2 with slot := to' }) else p) }.tickFresh

/-- R126, R185: a group whose threads have all exited leaves its slot. -/
def State.leaveSlot (s : State) (core slot : Nat) : State :=
  let w := s.wgOf core slot
  if !(s.group core slot).threads.all (fun t => t.exited) then s
  else if (s.wg w).handler then (s.vacate core slot).handlerExit w else s.vacate core slot

/-- R126: at the end of a cycle of a core, the groups whose threads have all exited leave their slots. -/
def State.leaveSlots (s : State) (core : Nat) : State :=
  (s.groups.filter (fun p => p.1 / 128 = core)).foldl (fun s p => s.leaveSlot core (p.1 % 128)) s

/-- R146: exit. Where its group has no other thread, it leaves its slot at the end of the cycle. -/
def execExitI (h : Hdr) (_f : FmtB) (s : State) : Out :=
  let act := s.active h
  let k := s.cur
  let s1 := (s.retireSeq h).traceNote k.core k.slot ([5] ++ leBytes 1 k.slot ++ leBytes 4 act.toNat)
  .next (s1.exitThreads k.core k.slot act)

/-- R147: yield: its threads are ineligible until another thread of the group issues or 64 cycles pass. -/
def execYield (h : Hdr) (f : FmtS) (s : State) : Out :=
  let act := s.active h
  let k := s.cur
  let s1 := s.retireSeq h
  if act = 0 then .next s1
  else
    let due := (s1.core k.core).cycles + 64
    let w : Waiting := ⟨s1.fresh, { k with lanes := act }, .yield h f, .yield due, 6⟩
    let s2 := s1.modGroup k.core k.slot (fun g => { g with waits := g.waits ++ [w] })
    .next ((s2.inCycles k.core 64 (.yieldTimeout k.core k.slot s1.fresh)).tickFresh)

/-- R147: YIELD_TIMEOUT. -/
def execYieldTimeout (core slot id : Nat) (s : State) : Out :=
  .next (s.modGroup core slot (fun g => { g with waits := g.waits.filter (fun w => w.id ≠ id) }))

/-- R150: waitt waits while the counter of token k exceeds n; its own token is set and cleared at issue (R142). -/
def execWaitt (h : Hdr) (f : FmtS) (s : State) : Out :=
  let k := f.imm.toNat % 8
  let n := f.imm.toNat / 256 % 256
  let c := s.cur
  .next (if s.active h = 0 || (s.group c.core c.slot).token k ≤ n then s.retireSeq h
    else s.waitActive { h with tok := 0 } (.waitt h f) (.token k n) 7)

/-- R342, R343, R346, R386: a software trap at issue: with a handler the instruction retires and the active threads enter it; brk in a context
with debug and no handler retires and takes a debug stop; otherwise it is a fault at the instruction (assumption log 31). -/
def State.softTrap (s : State) (h : Hdr) (code : Nat) (tv : Long) : State :=
  let act := s.active h
  let k := s.cur
  if act = 0 then s.retireSeq h
  else if s.traps k.core k.slot act code then
    (s.retireSeq h).enterHandler k.core k.slot act act code k.pos tv 0 (fun _ => seqPos k.pos)
  else if code = cBREAK && (s.ctx s.curCtx).debug && s.trapEntry s.curWg code = 0 then
    ((if k.path = 0 then s.dropPathB else s).retireSeq h).stopGroup k.core k.slot act act { code := code, kind := 4, pathB := k.path == 1, pos := k.pos, tvalue := tv }
  else s.raise h act code tv

/-- R151: trap. -/
def execTrapI (h : Hdr) (f : FmtS) (s : State) : Out := .next (s.softTrap h cTRAP (f.imm.setWidth 64))

/-- R152, R345: rti: THE RETURN FROM A USER TRAP. -/
def execRti (h : Hdr) (f : FmtS) (s : State) : Out :=
  let act := s.active h
  let k := s.cur
  .next (if (lanesOf act).any (fun l => !(s.thread k.core k.slot l).inHandler) then s.raise h act cILLEGAL 0
    else s.transfer h (.rti h f) act ((lanesOf act).map (fun l => (l, (s.thread k.core k.slot l).resume)))
      (fun s => s.leaveHandler k.core k.slot act))

/-- R153: a predicate instruction: its predicate is written 2 cycles after issue, or after its last crossing. -/
def State.predOp (s : State) (h : Hdr) (i : Instr) (srcs : List Src) (d : Nat) (v : State → Nat → Bool) : State :=
  let act := s.active h
  s.withOperands h i act srcs [] (if d = 7 then [] else [d]) stayNone 0 (fun s =>
    let k := s.cur
    let s1 := s.takeToken h
    let p : Pend := { core := k.core, slot := k.slot, kind := 0, path := k.path, lanes := k.lanes, act := act, pos := k.pos, tok := h.tok.toNat, preds := (lanesOf act).map (fun l => (l, d, v s l)) }
    let id := s1.fresh
    let s2 := (s1.pendFixed 2 p).retireSeq h
    if k.phase > 0 then s2.hold k.lanes i id 7 else s2)

/-- R153: pset. -/
def execPset (h : Hdr) (f : FmtI) (s : State) : Out :=
  .next (s.predOp h (.pset h f) [.reg f.a.toNat] f.dst.toNat (fun s l => (s.selWord l f.a.toNat == 0) == (f.modi == 1)))

/-- R153: the two operands of pand, por and pxor. -/
def predA (f : FmtI) (s : State) (l : Nat) : Bool := s.lanePred l f.a.toNat != bit f.modi.toNat 3
def predB (f : FmtI) (s : State) (l : Nat) : Bool := s.lanePred l (f.modi.toNat % 8) != bit f.modi.toNat 4

/-- R153: pand. -/
def execPand (h : Hdr) (f : FmtI) (s : State) : Out :=
  .next (s.predOp h (.pand h f) [] f.dst.toNat (fun s l => predA f s l && predB f s l))

/-- R153: por. -/
def execPor (h : Hdr) (f : FmtI) (s : State) : Out :=
  .next (s.predOp h (.por h f) [] f.dst.toNat (fun s l => predA f s l || predB f s l))

/-- R153: pxor. -/
def execPxor (h : Hdr) (f : FmtI) (s : State) : Out :=
  .next (s.predOp h (.pxor h f) [] f.dst.toNat (fun s l => predA f s l != predB f s l))

/-- R153: pnot. -/
def execPnot (h : Hdr) (f : FmtI) (s : State) : Out :=
  .next (s.predOp h (.pnot h f) [] f.dst.toNat (fun s l => !s.lanePred l f.a.toNat))

end Sys2Proof.Machine
end

