-- ==== Sys2Proof/Machine/Memory.lean ====
section
/-! DEFINITION. Memory instructions (R214-R224, R230, R231): effective addresses, the checks of Table 13-3, loads and stores of every
space, and LOAD_COMPLETION. -/

namespace Sys2Proof.Machine

/-! ### Addresses and checks -/

/-- R217: the operand forms of format M. -/
def addrSrc (f : FmtM) : Src := .pair f.addr.toNat
def sizeBytes (f : FmtM) : Nat := 2 ^ f.size.toNat

/-- R216: the registers of data of n bytes, as one source. -/
def dataSrcs (r n : Nat) : List Src := if n ≤ 4 then [.reg r] else if n = 8 then [.pair r] else [.quad r]

/-- R217: the effective address of a lane. -/
def State.ea (s : State) (f : FmtM) (l : Nat) : Nat := (s.selPair l f.addr.toNat + f.off.signExtend 64).toNat

/-- One lane's access: its effective address, and where it is translated its physical address and leaf entry; in other spaces pa is the
byte offset. -/
structure Acc where
  lane : Nat
  ea : Nat
  pa : Nat := 0
  entry : Nat := 0
  deriving DecidableEq, Repr

/-- What the checks of Table 13-3 find; bad are the VAs of the walks that met a malformed entry. -/
inductive MemChk where
  | ok (l : List Acc)
  | fault (code : Nat) (tv : Nat) (bad : List Nat := [])
  | park (va : Nat)
  deriving DecidableEq, Repr

/-- The kinds of access, by the bit of a watchpoint's kinds; element is the load of ld.p, which a host-window page forbids (R290). -/
inductive AccKind where
  | load
  | element
  | store
  | atomic
  | reduce
  deriving DecidableEq, Repr

/-- R363, R365, R377, R380: whether a leaf entry forbids an access. -/
def forbids (k : AccKind) (e : Nat) : Bool :=
  leafHostOwned e ||
  match k with
  | .load => !leafR e
  | .element => !leafR e || leafWindow e
  | .store => !leafW e
  | .atomic => !leafW e || !leafR e || leafWindow e
  | .reduce => !leafW e || !leafR e || leafWindow e

/-- Two spans of bytes share a byte. -/
def spansMeet (a la b lb : Nat) : Bool := a < b + lb && b < a + la

/-- R304: a write of the locking core under a source entry of the context. -/
def State.sourceLocked (s : State) (va n : Nat) : Bool :=
  (s.core s.cur.core).locks.any (fun x => !x.dest && s.ctxOfWg x.owner = s.curCtx && spansMeet va n x.base x.len)

/-- R304: scratchpad bytes of a workgroup on its core under a destination entry. -/
def State.destLocked (s : State) (w off n : Nat) : Bool :=
  (s.core (s.wg w).core).locks.any (fun x => x.dest && x.owner = w && spansMeet off n x.base x.len)

/-- R383: a watchpoint of the context that the bytes match. -/
def State.watched (s : State) (k : AccKind) (va n : Nat) : Bool :=
  let b := match k with | .load => 1 | .element => 1 | .store => 2 | _ => 3
  (s.ctx s.curCtx).wps.any (fun p => bit p.2.kinds b && p.2.len > 0 && spansMeet va n p.2.base p.2.len)

/-- Table 13-3, order 3, of one lane of the g space. -/
def State.accessFault (s : State) (k : AccKind) (va : Nat) : Bool :=
  va ≥ 2 ^ 57 || s.inDebugArea s.curCtx va || (match s.walk s.curCtx va with
    | .bad _ => true
    | .ok _ e => forbids k e
    | .absent _ => false)

/-- The translated accesses of lanes. -/
def State.translated (s : State) (l : List (Nat × Nat)) : List Acc :=
  l.filterMap (fun p => match s.walk s.curCtx p.2 with | .ok pa e => some ⟨p.1, p.2, pa, e⟩ | _ => none)

/-- Table 13-3, orders 2 to 6, in the g space: (lane, EA) of n bytes, in order; within an order the lowest lane decides. -/
def State.checkG (s : State) (k : AccKind) (n align : Nat) (l : List (Nat × Nat)) : MemChk :=
  match l.find? (fun p => p.2 % align ≠ 0) with
  | some p => .fault cMISALIGN p.2
  | none => match l.find? (fun p => s.accessFault k p.2) with
    | some p => .fault cACCESS p.2 (s.badWalks s.curCtx (l.map (fun p => p.2)))
    | none => match l.find? (fun p => match s.walk s.curCtx p.2 with | .absent _ => true | _ => false) with
      | some p => .park p.2
      | none => match if k = .load || k = .element then none else l.find? (fun p => s.sourceLocked p.2 n) with
        | some p => .fault cRANGE p.2
        | none => match l.find? (fun p => s.watched k p.2 n) with
          | some p => .fault cWATCH p.2
          | none => .ok (s.translated l)

/-- R190: the resident workgroup of a rank of the issuing team. A handler group belongs to no team; its team is taken as 0 here, so that it reaches the
windows of team 0 of its launch (assumption log 25). -/
def State.rankWg (s : State) (rank : Nat) : Option Nat :=
  let w := s.wg s.curWg
  if rank ≥ s.curLaunch.kr.t then none
  else (s.wgs.find? (fun p => p.2.launch = w.launch && p.2.team = w.team && p.2.phase = 0 && !p.2.handler &&
    p.2.index.toNat = s.curLaunch.kr.t * w.team + rank)).map (fun p => p.1)

/-- R191, R190, R192, R22: the spaces beside g. -/
inductive Space where
  | sp
  | cl
  | ds
  | lp
  deriving DecidableEq, Repr

/-- R188: whether bytes of a space exist for the issuing thread. -/
def State.inSpace (s : State) (spc : Space) (a n : Nat) : Bool :=
  a < 2 ^ 32 &&
  match spc with
  | .sp => a + n ≤ (s.wg s.curWg).spSize
  | .cl => a / 2 ^ 23 = 0 && (match s.rankWg (a / 2 ^ 19) with | some w => a % 2 ^ 19 + n ≤ (s.wg w).spSize | none => false)
  | .ds => a + n ≤ (s.ctx s.curCtx).ds.getD (Config.dieOfCore s.cur.core) 0 * 65536
  | .lp => a + n ≤ 768

/-- R304: a range lock on bytes of a space. -/
def State.spaceLocked (s : State) (spc : Space) (a n : Nat) : Bool :=
  match spc with
  | .sp => s.destLocked s.curWg a n
  | .cl => (match s.rankWg (a / 2 ^ 19) with | some w => s.destLocked w (a % 2 ^ 19) n | none => false)
  | _ => false

/-- Table 13-3, orders 2 to 5, in the other spaces. -/
def State.checkSpace (s : State) (spc : Space) (n : Nat) (l : List (Nat × Nat)) : MemChk :=
  match l.find? (fun p => p.2 % n ≠ 0) with
  | some p => .fault cMISALIGN p.2
  | none => match l.find? (fun p => !s.inSpace spc p.2 n) with
    | some p => .fault cACCESS p.2
    | none => match l.find? (fun p => s.spaceLocked spc p.2 n) with
      | some p => .fault cRANGE p.2
      | none => .ok (l.map (fun p => ⟨p.1, p.2, p.2, 0⟩))

/-- R347: a memory instruction parks: its operands are kept, its proxies held as read (R274), and its threads wait. -/
def State.parkMem (s : State) (h : Hdr) (i : Instr) (act : BitVec 32) (srcs : List Src) (va : Nat) : State :=
  let words := (s.crossings act srcs stayNone 0).map XOp.word
  let s0 := if s.cur.phase > 0 then s else { words.foldl (fun s w => s.addReader w) s with cur := { s.cur with held := words } }
  let s1 := (s0.beginWait h).capture act (srcRegs srcs)
  (s1.waitFor h i (.page (BitVec.ofNat 64 va)) 7).inTicks Config.pageFaultTicks (.pageFaultTimeout s.cur.core s.cur.slot s1.fresh)

/-- The mark an issue carries once its data has crossed. -/
def dataMark : List Nat := [2]

/-- R231: the checks of a memory instruction on the lanes whose address is known: alignment needs only the low half of a pair. -/
def State.checkKnown (s : State) (addr : Src) (act : BitVec 32) (check : State → BitVec 32 → MemChk) : MemChk :=
  match check s (s.knownLanes act (addr.regs.take 1)) with
  | .fault code tv bad => if code = cMISALIGN then .fault code tv bad else check s (s.knownLanes act addr.regs)
  | _ => check s (s.knownLanes act addr.regs)

/-- R231: a memory instruction: pending writes, the address crossing, the checks in order, the crossing of data lanes (stay names
those whose data stays at a home), what failed, then the access. -/
def State.memOp (s : State) (h : Hdr) (i : Instr) (addr : Src) (data : List Src) (dsts preds : List Nat) (stay : State → Nat → Bool)
    (check : State → BitVec 32 → MemChk) (k : State → BitVec 32 → List Acc → State) : State :=
  let act := s.active h
  s.withOperandsLate h i act (addr :: data) dsts preds (fun _ j => j > 0) 0 id (fun s =>
    match s.checkKnown addr act check with
    | .fault code tv bad => (s.noteWalks s.curCtx bad).raise h act code (BitVec.ofNat 64 tv)
    | .park va => s.parkMem h i act (addr :: data) va
    | .ok l =>
      let ops := s.crossings act data (fun l _ => stay s l) 0
      if ops.isEmpty || s.cur.nums.contains 2 then s.raiseFailed h act (fun s => k s act l)
      else (s.carry dataMark).startXing h i act (srcRegs (addr :: data)) ops
        ((s.crossings act data (fun l _ => !stay s l) 0).map XOp.word))

/-- Every lane's EA. -/
def State.eas (s : State) (f : FmtM) (act : BitVec 32) : List (Nat × Nat) := (lanesOf act).map (fun l => (l, s.ea f l))

/-! ### Loads -/

/-- The registers that n bytes of a load fill. -/
def loadRegs (dst n : Nat) : List Nat := if dst = 0x1FE then [] else (List.range ((n + 3) / 4)).map (fun j => dst + j)

/-- R219: the writes of a load of n bytes to a lane. -/
def loadWrites (dst n : Nat) (sx : Bool) (lane : Nat) (bytes : Tbl Byte) (tag : Bool) : List LaneWrite :=
  if dst = 0x1FE then []
  else
    let x := leNat (tabBytes bytes (lane * 16) n)
    let x := if sx && n < 4 then (wrap32 (sext x (8 * n))).toNat else x
    (List.range ((n + 3) / 4)).map (fun j => ⟨lane, dst + j, BitVec.ofNat 32 (x / 2 ^ (32 * j)), tag⟩)

/-- R370: the place of a host address in host memory: every request of a window carries its context's PASID (assumption log 37). -/
def Window.hostAt (x : Window) (a : Nat) : Nat := x.pasid * 2 ^ 64 + a

/-- R379, R250: the window of the context that a page with the host-window attribute names, and a byte as the die reads it. -/
def windowOf (ctx entry : Nat) : Nat := ctx * 64 + bits entry 13 8
def State.windowByte (s : State) (die : Nat) (w va : Nat) : Byte :=
  let x := tblGet { va := 0, len := 0, host := 0, counter := 0 } s.windows w
  match tblFind x.staged (die * 2 ^ 26 + (va - x.va)) with
  | some b => b
  | none => memGet s.hostMem (x.hostAt (x.host + (va - x.va)))

/-- R221, R266: a bounded load's bound, or none for an ordinary load. -/
structure Bound where
  k : Nat
  flag : Bool
  deriving DecidableEq, Repr

/-- Table 16-3, Table 16-4: whether an L1 block serves a word of an access: none where it does not, some false where it fails the bound
but is served. -/
def State.blockServes (s : State) (region : Option (Nat × Nat)) (bound : Option Bound) (b : Block) : Option Bool :=
  match region, b.tag with
  | none, none => some true
  | some r, some t =>
    if (t.1, t.2.1) ≠ r then none
    else (match bound with
      | none => none
      | some x => if s.staleness t ≤ x.k then some true else if x.flag then some false else none)
  | _, _ => none

/-- What a load has gathered: the state, the result under way, and the lanes a failing copy served. -/
abbrev Loading := State × Pend × BitVec 32

/-- R270: the region an access belongs to, by its VA; a host-window page has none (R266). -/
def State.accRegion (s : State) (x : Acc) : Option (Nat × Nat) :=
  if leafWindow x.entry then none else (s.regionAt s.curCtx x.ea).map (fun r => (s.curCtx, r.1))

/-- The accesses to host-window pages, and those to device memory. -/
def inWindow (l : List Acc) : List Acc := l.filter (fun x => leafWindow x.entry)
def inDevice (l : List Acc) : List Acc := l.filter (fun x => !leafWindow x.entry)

/-- The requests of accesses to device memory: one for each frame, ascending (R196), and within one for each region its VAs lie in. -/
def State.requests (s : State) (accs : List Acc) : List (Nat × Option (Nat × Nat)) :=
  ((framesOf (accs.map Acc.pa)).map (fun fr => (((accs.filter (fun x => frameOf x.pa = fr)).map s.accRegion).eraseDups).map (fun r => (fr, r)))).flatten

/-- R222, R237: a word that an earlier access of the issuing threads to it still leaves open: a store their L1 does not show, or, for an
ordinary load, a load that still misses it. A present copy does not serve it. -/
def State.wordOpen (s : State) (frame w : Nat) (ordinary : Bool) : Bool :=
  !(s.behind ((List.range 4).map (fun j => frame * 256 + 4 * w + j))).isEmpty ||
  (ordinary && s.pends.any (fun q => q.2.core = s.cur.core && q.2.slot = s.cur.slot && q.2.lanes &&& s.cur.lanes ≠ 0 &&
    q.2.missing.any (fun m => frameOf m.2 = frame && wordOf m.2 = w)))

/-- R379, R222: loads of a host-window page: the bytes as the die reads them, but for those that a proxy store of the threads will stage. -/
def loadWindow (n die : Nat) (mine : List Acc) (a : Loading) : Loading :=
  let (s, p, bad) := a
  mine.foldl (fun a x =>
    let w := windowOf s.curCtx x.entry
    let off := x.ea - (tblGet { va := 0, len := 0, host := 0, counter := 0 } s.windows w).va
    (List.range n).foldl (fun (a : Loading) j =>
      let key := x.lane * 16 + j
      if (s.behind [winKey die w (off + j)]).isEmpty then
        (a.1, { a.2.1 with bytes := tblPut a.2.1.bytes key (s.windowByte die w (x.ea + j)) }, a.2.2)
      else (a.1, { a.2.1 with missing := a.2.1.missing ++ [(key, winKey die w (off + j))] }, a.2.2)) a) (s, p, bad)

/-- One request (R196, R197, R265-R267): present words are delivered, an aligned 8 bytes of a lane only whole and of one tag (R205), and one fill
brings the missing ones and those whose copy fails; a prefetch delivers nothing and reads no word. -/
def loadFrame (f : FmtM) (n : Nat) (bound : Option Bound) (bounded prefetch : Bool) (id : Nat) (accs : List Acc) (a : Loading)
    (req : Nat × Option (Nat × Nat)) : Loading :=
  let (s, p, bad) := a
  let (frame, region) := req
  let core := s.cur.core
  let mine := accs.filter (fun x => frameOf x.pa = frame && s.accRegion x = region)
  match mine.head? with
  | none => a
  | some x0 =>
    let plan := fillPlan core x0.pa x0.entry region bounded
    let ws := (List.range 64).filter (fun w => (wordMask frame ((mine.map (fun x => (List.range n).map (fun j => x.pa + j))).flatten)).getLsbD w)
    let found (w : Nat) : Option (Block × Bool) := if s.wordOpen frame w bound.isNone then none
      else (s.core core).l1.findSome? (fun b =>
        if b.frame = frame && b.lo ≤ w && w ≤ b.hi then (s.blockServes region bound b).map (fun ok => (b, ok)) else none)
    let there := ws.filterMap (fun w => (found w).map (fun b => (w, b.1, b.2)))
    let miss := ws.filter (fun w => !there.any (fun t => t.1 = w))
    let served := there.filter (fun t => n < 8 || there.any (fun u => u.1 = t.1 ^^^ 1 && u.2.1.tag = t.2.1.tag))
    let skip := (s.core core).l1.foldl (fun (m : BitVec 64) b => if b.frame = frame && region.isSome && b.tag.map (fun t => (t.1, t.2.1)) = region &&
        (s.blockServes region bound b).isNone then ws.foldl (fun m w => if b.lo ≤ w && w ≤ b.hi then m ||| BitVec.ofNat 64 (2 ^ w) else m) m else m) 0
    let byteOf (a : Nat) : Option Byte := (served.find? (fun t => t.1 = wordOf a)).map (fun t => t.2.1.data.getD (a % 256 - 4 * t.2.1.lo) 0)
    let took (b : Block) : Block :=
      let mineW := (served.filter (fun t => t.2.1 = b)).map (fun t => t.1)
      if mineW.isEmpty then b else b.accessed mineW f.cache.toNat s.fresh (!prefetch)
    let s1 := if there.isEmpty then s else s.modCore core (fun k => { k with l1 := k.l1.map took })
    let keys := (mine.map (fun x => (List.range n).map (fun j => (x.lane * 16 + j, x.pa + j)))).flatten
    let got := keys.foldl (fun t m => match byteOf m.2 with | some b => tblPut t m.1 b | none => t) p.bytes
    let need := keys.filter (fun m => (byteOf m.2).isNone)
    let failed := maskOf ((keys.filter (fun m => served.any (fun t => t.1 = wordOf m.2 && !t.2.2))).map (fun m => m.1 / 16))
    let e := fillExtent (miss.headD 0) (miss.getLastD 0) (s.fillLength core s.cur.pos f.span.toNat)
    let tag := plan.region.map (fun r => (r.1, r.2, (tblGet { base := 0, len := 0, stack := 0 } (s.ctx r.1).regions r.2).mirror))
    let fill : Fill := { core := core, frame := frame, lo := e.1, hi := e.2, hint := f.cache.toNat, filler := predIndex s.cur.pos, train := f.span == 0, install := plan.install, replica := plan.replica, tag := tag, pend := if prefetch then none else some id, ctx := s.curCtx, bound := bound.map (fun b => (b.k, b.flag)), skip := skip }
    let s2 := if miss.isEmpty then s1.tickFresh else s1.startFill fill
    if prefetch then (s2, p, bad)
    else (s2, s.received (keys.filter (fun m => (byteOf m.2).isSome)) { p with bytes := got, missing := p.missing ++ need }, bad ||| failed)

/-- R219, R221: a load of the g space is performed: its result is under way. Answers its number. -/
def State.loadG (s : State) (f : FmtM) (n : Nat) (sx : Bool) (bound : Option Bound) (report : Option Nat) (tok : Nat) (act : BitVec 32)
    (accs : List Acc) (mark : Bool) : Nat × State :=
  let k := s.cur
  let id := s.fresh
  let p0 : Pend := { core := k.core, slot := k.slot, kind := 3, path := k.path, lanes := k.lanes, act := act, pos := k.pos, tok := tok, size := n, sx := sx, dst := f.data.toNat, eas := accs.map (fun x => (x.lane, BitVec.ofNat 64 x.ea)), overtaken := mark, frames := (framesOf (accs.map Acc.pa)).length }
  let dev := inDevice accs
  let (s1, p, bad) := (s.requests dev).foldl (fun a r => loadFrame f n bound bound.isSome false id dev a r)
    (loadWindow n (Config.dieOfCore k.core) (inWindow accs) ((s.tickFresh, p0, 0) : Loading))
  let p1 := match report with
    | some q => { p with preds := (lanesOf act).map (fun l => (l, q, !bad.getLsbD l)) }
    | none => p
  let s2 := { s1 with pends := tblPut s1.pends id p1 }
  (id, if p1.missing.isEmpty then s2.later (.loadCompletion id) else s2)

/-- R219: ld. -/
def execLd (h : Hdr) (f : FmtM) (s : State) : Out :=
  let n := sizeBytes f
  .next (s.memOp h (.ld h f) (addrSrc f) [] (loadRegs f.data.toNat n) [] (fun _ _ => false)
    (fun s act => s.checkG .load n n (s.eas f act))
    (fun s act l => ((s.takeToken h).loadG f n (f.mode == 1) none none h.tok.toNat act l false).2.retireSeq h))

/-- R221, R267: ld.b; the report goes to the guard's predicate. -/
def execLdB (h : Hdr) (f : FmtM) (s : State) : Out :=
  let n := sizeBytes f
  .next (s.memOp h (.ldB h f) (addrSrc f) [] (loadRegs f.data.toNat n) (if h.pred = 7 then [] else [h.pred.toNat]) (fun _ _ => false)
    (fun s act => s.checkG .load n n (s.eas f act))
    (fun s act l => ((s.takeToken h).loadG f n false (some ⟨f.bound.toNat, f.mode == 1⟩) (some h.pred.toNat) h.tok.toNat act l false).2.retireSeq h))

/-- R271: the rounds an acquire waits for: of every active region of the context whose mirror has not reached its counter. -/
def State.roundsDue (s : State) (ctx : Nat) : List (Nat × Nat × Word) :=
  (s.ctx ctx).regions.filterMap (fun p => if p.2.mirror = p.2.counter then none else some (ctx, p.2.id, p.2.counter))

/-- R219, R230, R271: ld.acq: its token falls when the load's result is written; its active threads wait until then, and until the rounds it
may have synchronised with are judged. -/
def execLdAcq (h : Hdr) (f : FmtM) (s : State) : Out :=
  let n := sizeBytes f
  let i := Instr.ldAcq h f
  if s.cur.nums = [3] then
    .next (if (s.roundsDue s.curCtx).isEmpty then s.retireSeq h
      else (s.carry [4]).waitFor h i (.gone [] (s.roundsDue s.curCtx)) 7)
  else if s.cur.nums = [4] then .next (s.retireSeq h)
  else .next (s.memOp h i (addrSrc f) [] (loadRegs f.data.toNat n) [] (fun _ _ => false)
    (fun s act => s.checkG .load n n (s.eas f act))
    (fun s act l =>
      let r := s.loadG f n (f.mode == 1) none none h.tok.toNat act l false
      (r.2.carry [3]).waitActive h i (.gone [r.1] []) 7))

/-- R230, R231: LOAD_COMPLETION: the last byte of a load has arrived, or everything a store, reduction or cache operation waits for has been
performed: the result is written and the token falls; a load that received an uncorrectable codeword writes nothing and faults. -/
def execLoadCompletion (id : Nat) (s : State) : Out :=
  match tblFind s.pends id with
  | none => .next s
  | some p =>
    let waiting := !p.missing.isEmpty || p.wait > 0 || s.msgs.any (fun m => m.2.causes.contains id) ||
      s.invals.any (fun v => v.causes.contains id) || s.dies.any (fun d => d.2.gather.any (fun g => g.2.causes.contains id))
    if waiting then .next (s.again (.loadCompletion id))
    else
      let s1 := { s with pends := tblDel s.pends id }.modCore p.core (fun c => { c with mq := c.mq.filter (fun o => o.id ≠ id) })
      match p.bad with
      | some (l, b) => .next (s1.loadFault p l b)
      | none =>
        let ws := if p.size = 0 then p.writes else ((lanesOf p.act).map (fun l => loadWrites p.dst p.size p.sx l p.bytes p.overtaken)).flatten
        let vals := if p.size = 0 then [] else (lanesOf p.act).flatMap (fun l =>
          (List.range ((p.size + 7) / 8)).map (fun j => BitVec.ofNat 64 (leNat (tabBytes p.bytes (l * 16 + 8 * j) (min 8 (p.size - 8 * j))))))
        let reports := p.preds.map (fun q => if q.2.2 then (1 : Long) else 0)
        .next (((s1.land id { p with writes := ws }).noteLoads (s1.wgOf p.core p.slot) (vals ++ reports)).tokDown p.core p.slot p.tok)

/-! ### Stores -/

/-- The bytes a lane stores. -/
def State.dataBytes (s : State) (r n l : Nat) : List Byte :=
  leBytes n (leNat ((List.range ((n + 3) / 4)).map (fun j => leBytes 4 (if r = 0x1FE then 0 else (s.selWord l (r + j)).toNat))).flatten)

/-- Whether two accesses are to one place: a place in a host window, or in device memory or another space. -/
def Acc.meets (x y : Acc) : Bool := leafWindow x.entry == leafWindow y.entry && (if leafWindow x.entry then x.ea = y.ea else x.pa = y.pa)

/-- R220: of lanes that write one place, the highest-numbered. -/
def winners (l : List Acc) : List Acc := l.filter (fun x => !l.any (fun y => y.lane > x.lane && x.meets y))

/-- R379, R220: bytes of a store to a host-window page are staged on the issuing die. -/
def State.stage (s : State) (w va : Nat) (bytes : List Byte) : State := s.stageAt (Config.dieOfCore s.cur.core) w va bytes

/-- A write of the issuing threads to bytes of one frame; at its home slice it comes after the stores to the frame that its L1 shows. -/
def State.newMsg (s : State) (pa : Nat) (bytes : List (Nat × Byte)) : Msg :=
  { core := s.cur.core, die := Config.dieOfCore s.cur.core, slot := s.cur.slot, lanes := s.cur.lanes, wg := s.curWg, ctx := s.curCtx, pa := pa, bytes := bytes, kind := .write, after := s.sentTo s.cur.core (frameOf pa), rwc := (s.wg s.curWg).rwc, pos := s.cur.pos, ctxs := BitVec.ofNat 64 (2 ^ s.curCtx) }

/-- R203, R208, R270: whether a write must collapse replicas first. -/
def State.mustCollapse (s : State) (x : Acc) : Bool := leafReadMostly x.entry && (s.regionAt s.curCtx x.ea).isNone

/-- How a store of the g space is ordered: at once, or, for st.rel, only after the operations named and the time of Table 15-1. -/
structure StoreOrder where
  after : List Nat := []
  release : Bool := false
  scope : Nat := 0
  overhead : Nat := 0
  deriving DecidableEq, Repr

/-- R220, R379: one lane of a store to a host-window page: staged at once, or, behind a proxy store of its threads to the bytes or a load of theirs that
waits for one, after that (R222). -/
def stageLane (f : FmtM) (n pend : Nat) (a : State × Nat) (x : Acc) : State × Nat :=
  let (s, c) := a
  let w := windowOf s.curCtx x.entry
  let key := winKey (Config.dieOfCore s.cur.core) w (x.ea - (tblGet { va := 0, len := 0, host := 0, counter := 0 } s.windows w).va)
  let data := s.dataBytes f.data.toNat n x.lane
  let before := s.earlier ((List.range n).map (fun j => key + j))
  if before.isEmpty then (s.stage w x.ea data, c)
  else
    let m := s.newMsg key (placed key data)
    (s.sendMsg { m with kind := .stage w x.ea, atHome := true, after := m.after ++ before, pend := some pend, causes := [pend], lane := x.lane }, c + 1)

/-- R203, R208, R209, R220, R270: the store of one frame. To a read-mostly page it is performed at its home
slice, after a collapse outside regions; in a region it updates the tagged block of its core. Any other is performed at its L1 and leaves for
its home slice or enters a gather entry, after the loads of its core that still miss a byte of it (R237); it is held while it is a release whose
order does not hold yet, or comes behind an access of its threads, or an element, that is not performed. Answers how many writes it must wait for
before it is performed at .wg. -/
def storeFrame (f : FmtM) (n : Nat) (ord : StoreOrder) (pend : Nat) (accs : List Acc) (a : State × Nat) (frame : Nat) : State × Nat :=
  let (s, c) := a
  let core := s.cur.core
  let die := Config.dieOfCore core
  let mine := accs.filter (fun x => frameOf x.pa = frame)
  match mine.head? with
  | none => a
  | some x0 =>
    let bytes := (mine.map (fun x => placed x.pa (s.dataBytes f.data.toNat n x.lane))).flatten
    let pas := bytes.map (fun b => b.1)
    let rm := leafReadMostly x0.entry
    let near := rm || homeDie x0.pa = die
    let s := if rm || ord.release then s else s.fixLoads core s.fresh pas
    let before := s.behind pas ++ s.missers pas ++ s.elemReads (fun c => if near then c = core else Config.dieOfCore c = die) pas
    let m0 := s.newMsg x0.pa bytes
    let m := { m0 with hint := f.cache.toNat, after := m0.after ++ before ++ ord.after, overhead := ord.overhead, scope := ord.scope, lane := x0.lane, atHome := rm, pend := some pend, causes := [pend], widen := ord.release }
    if s.mustCollapse x0 then (s.sendMsg { m with readMostly := true }, c + 1)
    else if ord.release || !before.isEmpty then
      (s.sendMsg { m with held := true, after := before ++ ord.after }, c + 1)
    else if rm then ((s.updateL1 core bytes f.cache.toNat).sendMsg m, c + 1)
    else if near then ((s.updateL1 core bytes f.cache.toNat).sendMsg { m with pend := none, causes := [] }, c)
    else
      let s2 := s.noteUndo s.curWg (s.wg s.curWg).rwc (bytes.map (fun b => (b.1, s.beyondL1 core b.1, b.2)))
      ((s2.updateL1 core bytes f.cache.toNat).gatherStore die frame s.curCtx (s.launchOfWg s.curWg) [s.fresh] bytes, c)

/-- R223, R246: a lane whose data is a proxy: its home sends the value to the home slice, after the bytes the die gathers for the frame and the
stores of its threads before it (R222), or, to a host-window page, to the staging area of the die (R220). -/
def proxyStore (f : FmtM) (pend : Nat) (a : State × Nat) (x : Acc) : State × Nat :=
  let (s, c) := a
  let w := s.laneBits x.lane f.data.toNat
  let k := windowOf s.curCtx x.entry
  let key := winKey (Config.dieOfCore s.cur.core) k (x.ea - (tblGet { va := 0, len := 0, host := 0, counter := 0 } s.windows k).va)
  let at' := if leafWindow x.entry then key else x.pa
  let s1 := s.claimRead w
  let s2 := if leafWindow x.entry then s1
    else (s1.flushGather (Config.dieOfCore s.cur.core) (frameOf x.pa)).dropL1 s.cur.core (frameOf x.pa) (wordMask (frameOf x.pa) [x.pa]) (fun _ => true)
  let m := s2.newMsg at' (placed at' (leBytes 4 0))
  (s2.sendMsg { m with kind := if leafWindow x.entry then .stage k x.ea else .write, proxy := some w, atHome := true, hint := f.cache.toNat, readMostly := !leafWindow x.entry && s.mustCollapse x, after := m.after ++ s2.earlier ((List.range 4).map (fun j => at' + j)), pend := some pend, causes := [pend], lane := x.lane }, c + 1)

/-- R220, R230: a store of the g space is performed or sent; its token falls when it is performed at .wg, for a release at its scope. -/
def State.storeG (s : State) (h : Hdr) (f : FmtM) (n : Nat) (ord : StoreOrder) (act : BitVec 32) (accs : List Acc) (homeData : Bool) : State :=
  let k := s.cur
  let win := winners accs
  let px := win.filter (fun x => homeData && s.isProxy x.lane f.data.toNat)
  let plain := win.filter (fun x => !px.contains x)
  let id := s.fresh
  let s0 := (s.takeToken h).tickFresh
  let dev := inDevice plain
  let (s1, c1) := (framesOf (dev.map Acc.pa)).foldl (fun a fr => storeFrame f n ord id dev a fr) ((inWindow plain).foldl (fun a x => stageLane f n id a x) (s0, 0))
  let (s2, c2) := px.foldl (fun a x => proxyStore f id a x) (s1, c1)
  if c2 = 0 then (s2.dropToken h).retireSeq h
  else
    let p : Pend := { core := k.core, slot := k.slot, kind := 3, path := k.path, lanes := k.lanes, act := act, pos := k.pos, tok := h.tok.toNat, wait := c2, frames := (framesOf (accs.map Acc.pa)).length }
    { s2 with pends := tblPut s2.pends id p }.retireSeq h

/-- R220, R223: st; b32 proxy data stays at its home. -/
def execSt (h : Hdr) (f : FmtM) (s : State) : Out :=
  let n := sizeBytes f
  .next (s.memOp h (.st h f) (addrSrc f) (dataSrcs f.data.toNat n) [] [] (fun _ _ => f.size == 2)
    (fun s act => s.checkG .store n n (s.eas f act))
    (fun s act l => s.storeG h f n {} act l (f.size == 2)))

/-! ### The other spaces -/

/-- The memory of a space: bytes at an offset, read and written. -/
def State.spaceRead (s : State) (spc : Space) (lane a n : Nat) : List Byte :=
  match spc with
  | .sp => tabBytes (s.wg s.curWg).sp a n
  | .cl => tabBytes (s.wg ((s.rankWg (a / 2 ^ 19)).getD 0)).sp (a % 2 ^ 19) n
  | .ds => tabBytes (tblGet [] (s.die (Config.dieOfCore s.cur.core)).ds s.curCtx) a n
  | .lp => tabBytes (s.thread s.cur.core s.cur.slot lane).lp a n

/-- R192: the slice of a die scratchpad that holds an offset, numbered over the package as die × 8 + slice (assumption log 46). -/
def dsSlice (die off : Nat) : Nat := die * 8 + off / 256 % 8

/-- R350: the uncorrectable codeword among n bytes of a space. -/
def State.badSpace (s : State) (spc : Space) (lane a n : Nat) : Option Bad :=
  match spc with
  | .sp => s.badIn uSCRATCH s.cur.core ((s.wg s.curWg).spBase + a) n
  | .cl => let w := s.wg ((s.rankWg (a / 2 ^ 19)).getD 0); s.badIn uSCRATCH w.core (w.spBase + a % 2 ^ 19) n
  | .ds => s.badIn uDS (dsSlice (Config.dieOfCore s.cur.core) a) (s.curCtx * 2 ^ 26 + a) n
  | .lp => s.badIn uCHEST s.cur.core ((s.cur.slot * 32 + lane) * 1024 + a) n

/-- R394: how the undo log names bytes of a die scratchpad and of a scratchpad of the cluster. -/
def undoDs (ctx die off : Nat) : Nat := 2 ^ 48 + (ctx * 4 + die) * 2 ^ 26 + off
def undoCl (w off : Nat) : Nat := 2 ^ 49 + w * 2 ^ 19 + off

def State.spaceWrite (s : State) (spc : Space) (lane a : Nat) (l : List Byte) : State :=
  let note (s : State) (base : Nat) (old : List Byte) : State :=
    s.noteUndo s.curWg (s.wg s.curWg).rwc ((List.range l.length).map (fun j => (base + j, old.getD j 0, l.getD j 0)))
  match spc with
  | .sp => s.putSp s.curWg (placed a l)
  | .cl =>
    let w := (s.rankWg (a / 2 ^ 19)).getD 0
    (note s (undoCl w (a % 2 ^ 19)) (s.spaceRead spc lane a l.length)).putSp w (placed (a % 2 ^ 19) l)
  | .ds =>
    let d := Config.dieOfCore s.cur.core
    (note s (undoDs s.curCtx d a) (s.spaceRead spc lane a l.length)).modDie d (fun x =>
      { x with ds := tblPut x.ds s.curCtx (tabSetAll (tblGet [] x.ds s.curCtx) (placed a l)) }) |>.mend (fun b =>
        b.unit == uDS && b.index == dsSlice d a && wholeIn (s.curCtx * 2 ^ 26 + a) l.length b.loc)
  | .lp => ((s.noteFirst s.curWg [(1, (s.group s.cur.core s.cur.slot).idx, lane)]).modThread s.cur.core s.cur.slot lane (fun t => { t with lp := tabSetAll t.lp (placed a l) })).mend (fun b =>
      b.unit == uCHEST && b.index == s.cur.core && wholeIn ((s.cur.slot * 32 + lane) * 1024 + a) l.length b.loc)

/-- R413: the bytes that accesses to a die scratchpad move are counted at the columns of its slices. -/
def State.meterSpace (s : State) (spc : Space) (n : Nat) (l : List Acc) : State :=
  if spc = .ds then l.foldl (fun s x => s.movedAt (some (s.launchOfWg s.curWg)) n [meterKey 1 (dsColumn (Config.dieOfCore s.cur.core) x.pa)]) s else s

/-- R191: the conflict degree of a scratchpad access. -/
def conflictDegree (n : Nat) (accs : List Acc) : Nat :=
  let words := ((accs.map (fun x => (List.range ((n + 3) / 4)).map (fun j => x.pa / 4 + j))).flatten).eraseDups
  (List.range 32).foldl (fun m b => max m (words.filter (fun w => w % 32 = b)).length) 0

/-- R50: the scratchpad port of the partition is held for the conflict degree (assumption log 18). -/
def State.holdPort (s : State) (n : Nat) (accs : List Acc) : State :=
  let j := conflictDegree n accs
  if j ≤ 1 then s
  else s.modCore s.cur.core (fun k => { k with port := tblPut k.port (s.cur.slot / 32) (max (tblGet 0 k.port (s.cur.slot / 32)) (k.cycles + j)) })

/-- R189, R219: a load of another space: performed at issue, written after 24 cycles (ldsp) or when it completes (assumption log 18). -/
def State.loadSpace (s : State) (h : Hdr) (i : Instr) (f : FmtM) (spc : Space) : State :=
  let n := sizeBytes f
  s.memOp h i (addrSrc f) [] (loadRegs f.data.toNat n) [] (fun _ _ => false)
    (fun s act => s.checkSpace spc n (s.eas f act))
    (fun s act l =>
      let k := s.cur
      let bytes := l.foldl (fun t x => (placed (x.lane * 16) (s.spaceRead spc x.lane x.pa n)).foldl (fun t b => tblPut t b.1 b.2) t) ([] : Tbl Byte)
      let p : Pend := { core := k.core, slot := k.slot, kind := 3, path := k.path, lanes := k.lanes, act := act, pos := k.pos, tok := h.tok.toNat, size := n, sx := f.mode == 1, dst := f.data.toNat, bytes := bytes, eas := l.map (fun x => (x.lane, BitVec.ofNat 64 x.ea)), bad := l.findSome? (fun x => (s.badSpace spc x.lane x.pa n).map (fun b => (x.lane, b))) }
      let s1 := (s.meterSpace spc n l).takeToken h
      let id := s1.fresh
      if spc = .sp then
        let p' := { p with kind := 0, size := 0, writes := ((lanesOf act).map (fun l => loadWrites p.dst n p.sx l bytes false)).flatten }
        let s2 := ((s1.holdPort n l).pendFixed 24 p').retireSeq h
        if k.phase > 0 then s2.hold k.lanes i id 7 else s2
      else ((s1.addPend p).later (.loadCompletion id)).retireSeq h)

/-- R189, R220, R230: a store of another space: performed at issue, lanes in ascending order; its token falls at once, that of stsp
after 24 cycles (assumption log 18). -/
def State.storeSpace (s : State) (h : Hdr) (i : Instr) (f : FmtM) (spc : Space) : State :=
  let n := sizeBytes f
  s.memOp h i (addrSrc f) (dataSrcs f.data.toNat n) [] [] (fun _ _ => false)
    (fun s act => s.checkSpace spc n (s.eas f act))
    (fun s act l =>
      let k := s.cur
      let s1 := l.foldl (fun s x => s.spaceWrite spc x.lane x.pa (s.dataBytes f.data.toNat n x.lane)) ((s.meterSpace spc n l).takeToken h)
      if spc = .sp then
        let p : Pend := { core := k.core, slot := k.slot, kind := 0, path := k.path, lanes := k.lanes, act := act, pos := k.pos, tok := h.tok.toNat }
        let id := s1.fresh
        let s2 := ((s1.holdPort n l).pendFixed 24 p).retireSeq h
        if k.phase > 0 then s2.hold k.lanes i id 7 else s2
      else (s1.dropToken h).retireSeq h)

/-- R219: ldsp. -/
def execLdsp (h : Hdr) (f : FmtM) (s : State) : Out := .next (s.loadSpace h (.ldsp h f) f .sp)
/-- R220: stsp. -/
def execStsp (h : Hdr) (f : FmtM) (s : State) : Out := .next (s.storeSpace h (.stsp h f) f .sp)
/-- R219: ldcl. -/
def execLdcl (h : Hdr) (f : FmtM) (s : State) : Out := .next (s.loadSpace h (.ldcl h f) f .cl)
/-- R220: stcl. -/
def execStcl (h : Hdr) (f : FmtM) (s : State) : Out := .next (s.storeSpace h (.stcl h f) f .cl)
/-- R219: ldds. -/
def execLdds (h : Hdr) (f : FmtM) (s : State) : Out := .next (s.loadSpace h (.ldds h f) f .ds)
/-- R220: stds. -/
def execStds (h : Hdr) (f : FmtM) (s : State) : Out := .next (s.storeSpace h (.stds h f) f .ds)
/-- R219: ldlp. -/
def execLdlp (h : Hdr) (f : FmtM) (s : State) : Out := .next (s.loadSpace h (.ldlp h f) f .lp)
/-- R220: stlp. -/
def execStlp (h : Hdr) (f : FmtM) (s : State) : Out := .next (s.storeSpace h (.stlp h f) f .lp)

/-- R218: the byte offset of ldc in a lane. -/
def State.ldcOffset (s : State) (f : FmtM) (l : Nat) : Nat := (s.selWord l f.addr.toNat).toNat + f.off.toNat % 2 ^ 20

/-- R218: the checks of ldc: alignment, the window, its page (assumption log 15). -/
def State.checkLdc (s : State) (f : FmtM) (n : Nat) (act : BitVec 32) : MemChk :=
  let w := s.window (f.off.toNat / 2 ^ 20)
  let l := (lanesOf act).map (fun l => (l, s.ldcOffset f l))
  match l.find? (fun p => p.2 % n ≠ 0) with
  | some p => .fault cMISALIGN p.2
  | none => match l.find? (fun p => p.2 + n > 4 * w.2) with
    | some p => .fault cACCESS p.2
    | none => match l.find? (fun p => s.unreadable s.curCtx (w.1 + p.2)) with
      | some p => .fault cACCESS p.2 (s.badWalks s.curCtx (l.map (fun p => w.1 + p.2)))
      | none => match l.find? (fun p => match s.walk s.curCtx (w.1 + p.2) with | .absent _ => true | _ => false) with
        | some p => .park (w.1 + p.2)
        | none => .ok (l.filterMap (fun p => match s.walk s.curCtx (w.1 + p.2) with | .ok pa e => some ⟨p.1, p.2, pa, e⟩ | _ => none))

/-- R218, R24: ldc reads the contents at launch start, word by word (assumption log 45). -/
def execLdc (h : Hdr) (f : FmtM) (s : State) : Out :=
  let n := sizeBytes f
  .next (s.memOp h (.ldc h f) (.reg f.addr.toNat) [] (loadRegs f.data.toNat n) [] (fun _ _ => false) (fun s act => s.checkLdc f n act)
    (fun s act l =>
      let k := s.cur
      let word (x : Acc) (j : Nat) : List Byte := s.startOrNow (s.launchOfWg s.curWg) (x.pa + 4 * j) 4
      let bytes := l.foldl (fun t x => (placed (x.lane * 16) ((List.range (n / 4)).map (word x)).flatten).foldl (fun t b => tblPut t b.1 b.2) t) ([] : Tbl Byte)
      let p : Pend := { core := k.core, slot := k.slot, kind := 3, path := k.path, lanes := k.lanes, act := act, pos := k.pos, tok := h.tok.toNat, size := n, dst := f.data.toNat, bytes := bytes, eas := l.map (fun x => (x.lane, BitVec.ofNat 64 x.ea)), bad := l.findSome? (fun x => (s.badMem x.pa n).map (fun b => (x.lane, b))) }
      let s1 := s.takeToken h
      ((s1.addPend p).later (.loadCompletion s1.fresh)).retireSeq h))

end Sys2Proof.Machine
end

