-- ==== Sys2Proof/Machine/Ordering.lean ====
section
/-! DEFINITION. Release stores, atomics, fences, cache operations, rounds and publication (R224-R229, R238-R243, R263, R271). -/

namespace Sys2Proof.Machine

/-! ### What a release waits for (R238-R241) -/

/-- R232, R246: the ld.p of a context whose elements their homes have not fixed. -/
def State.elementsOf (s : State) (ctx : Nat) : List Nat :=
  (s.homeOps.filter (fun p => p.2.ctx = ctx && p.2.elem.isSome)).map (fun p => p.1)

/-- R232, R246: the memory operations that the threads m of the issuing group have issued and that are not performed, of loads only or of all:
results under way, and the elements of ld.p. -/
def State.accessesOf (s : State) (m : BitVec 32) (loads : Bool) : List Nat :=
  ((s.pends.filter (fun p => p.2.core = s.cur.core && p.2.slot = s.cur.slot && p.2.kind = 3 && p.2.lanes &&& m ≠ 0 &&
    (!loads || (p.2.size > 0 && !p.2.eas.isEmpty)))).map (fun p => p.1) ++
   (s.homeOps.filter (fun p => p.2.core = s.cur.core && p.2.slot = s.cur.slot && m.getLsbD p.2.lane && p.2.elem.isSome)).map (fun p => p.1)).filter s.outstanding

/-- Table 15-1: the fixed time of a fence or a release by scope. -/
def overheadOf (scope : Nat) : Nat := match scope with | 0 => 4 | 1 => 8 | 2 => 8 | _ => 16

/-- R252: the active threads of the issue in hand wait for the time of Table 15-1, counted from now. -/
def State.waitOverhead (s : State) (h : Hdr) (i : Instr) (scope row : Nat) : State :=
  s.waitActive h i (.cycle ((s.core s.cur.core).cycles + overheadOf scope)) row

/-- R240, R241: once the accesses of its threads are performed, a release or fence finds what they may have observed and waits for it, its issue
then carrying mark; then k. -/
def State.afterObserved (s : State) (h : Hdr) (i : Instr) (scope row : Nat) (mark : List Nat) (k : State → State) : State :=
  let s1 := s.flushDie (Config.dieOfCore s.cur.core) s.curCtx scope
  let ids := (s1.observed s.curCtx scope).filter s1.outstanding
  if ids.isEmpty then k s1 else (s1.carry mark).waitActive h i (.gone ids []) row

/-- R220, R238, R252: st.rel: performed after everything that the release orders before it, and the time of its scope. To a host-window page,
where a store is only staged, its threads wait for both first (assumption log 18). -/
def execStRel (h : Hdr) (f : FmtM) (s : State) : Out :=
  let n := sizeBytes f
  let i := Instr.stRel h f
  let scope := f.scope.toNat
  .next (s.memOp h i (addrSrc f) (dataSrcs f.data.toNat n) [] [] (fun _ _ => false)
    (fun s act => s.checkG .store n n (s.eas f act))
    (fun s act l =>
      let own := s.accessesOf act false
      if !l.any (fun x => leafWindow x.entry) then s.storeG h f n { after := own, release := true, scope := scope, overhead := overheadOf scope } act l false
      else if s.cur.nums.contains 10 then s.storeG h f n {} act l false
      else
        let s2 := (s.beginWait h).capture act (srcRegs (addrSrc f :: dataSrcs f.data.toNat n))
        if s.cur.nums.contains 8 then (s2.carry [2, 10]).waitOverhead h i scope 7
        else if s.cur.nums.contains 9 || own.isEmpty then s2.afterObserved h i scope 7 [2, 8] (fun s => (s.carry [2, 10]).waitOverhead h i scope 7)
        else (s2.carry [2, 9]).waitActive h i (.gone own []) 7))

/-! ### Atomics and reductions (R224) -/

/-- R224: the operand of an atomic lane, and the swap value of cas. -/
def State.atomArgs (s : State) (cas : Bool) (f : FmtM) (l : Nat) : Long × Long :=
  let n := sizeBytes f
  let b := s.dataBytes f.data.toNat (if cas then 2 * n else n) l
  (BitVec.ofNat 64 (leNat (b.take n)), BitVec.ofNat 64 (leNat (b.drop n)))

/-- R224: one lane of an atomic leaves for its home slice, after the lanes below it. -/
def State.atomLane (op : Nat) (f : FmtM) (old : Bool) (id : Nat) (a : State × List Nat) (x : Acc) : State × List Nat :=
  let (s, prev) := a
  let px := op ≠ 7 && f.size == 2 && s.isProxy x.lane f.data.toNat
  let w := s.laneBits x.lane f.data.toNat
  let s1 := if px then s.claimRead w else s
  let (src, swp) := if px then (0, 0) else s.atomArgs (op = 7) f x.lane
  let pas := (List.range (sizeBytes f)).map (fun j => x.pa + j)
  let s2 := s1.dropL1 s.cur.core (frameOf x.pa) (wordMask (frameOf x.pa) pas) (fun _ => true)
  let m := s2.newMsg x.pa (placed x.pa (leBytes (sizeBytes f) 0))
  (s2.sendMsg { m with kind := .atomic op f.mode.toNat (sizeBytes f) src swp x.lane (if old then some id else none), atHome := true, readMostly := s.mustCollapse x, after := m.after ++ s2.earlier pas ++ prev, pend := some id, proxy := if px then some w else none, lane := x.lane }, [s2.fresh])

/-- R224: atom and red: gather entries of the frames are flushed, then each lane is sent. -/
def State.atomOp (s : State) (h : Hdr) (i : Instr) (v : BitVec 5) (f : FmtM) (old : Bool) : State :=
  let n := sizeBytes f
  let op := v.toNat
  s.memOp h i (addrSrc f) (dataSrcs f.data.toNat (if op = 7 then 2 * n else n)) (if old then loadRegs f.data.toNat n else []) []
    (fun _ _ => op ≠ 7 && f.size == 2)
    (fun s act => s.checkG (if old then .atomic else .reduce) n n (s.eas f act))
    (fun s act l =>
      let k := s.cur
      let die := Config.dieOfCore k.core
      let id := s.fresh
      let s0 := (framesOf (l.map Acc.pa)).foldl (fun s fr => s.flushGather die fr) (s.takeToken h).tickFresh
      let (s1, _) := l.foldl (fun a x => State.atomLane op f old id a x) (s0, [])
      if l.isEmpty then (s1.dropToken h).retireSeq h
      else
        let p : Pend := { core := k.core, slot := k.slot, kind := 3, path := k.path, lanes := k.lanes, act := act, pos := k.pos, tok := h.tok.toNat, size := if old then n else 0, dst := f.data.toNat, wait := l.length, eas := l.map (fun x => (x.lane, BitVec.ofNat 64 x.ea)), frames := (framesOf (l.map Acc.pa)).length }
        { s1 with pends := tblPut s1.pends id p }.retireSeq h)

/-- R224: atom. -/
def execAtom (h : Hdr) (v : BitVec 5) (f : FmtM) (s : State) : Out := .next (s.atomOp h (.atom h v f) v f true)

/-- R224: red. -/
def execRed (h : Hdr) (v : BitVec 5) (f : FmtM) (s : State) : Out := .next (s.atomOp h (.red h v f) v f false)

/-! ### Fences (R225, R238, R241, R271) -/

/-- R252, R271: with the accesses a fence waits for performed, it takes the time of its scope from now; an acquire also waits for the rounds it
may have synchronised with. -/
def State.fenceEnd (s : State) (h : Hdr) (i : Instr) (kind scope : Nat) : State :=
  let due := (s.core s.cur.core).cycles + overheadOf scope
  let rounds := if kind = 1 then [] else s.roundsDue s.curCtx
  if rounds.isEmpty then (s.carry [3]).waitActive h i (.cycle due) 7 else (s.carry [2, due]).waitActive h i (.gone [] rounds) 7

/-- R225, R238, R241: a fence: kind acq 0, rel 1, ar 2. Its active threads wait until the order it names holds: for their own accesses (an acquire for
their loads), then for what they may have observed (assumption log 18). -/
def State.fence (s : State) (h : Hdr) (i : Instr) (kind scope : Nat) : State :=
  let wide (s : State) : State := if kind = 0 then s.fenceEnd h i kind scope else s.afterObserved h i scope 7 [4] (fun s => s.fenceEnd h i kind scope)
  match s.cur.nums with
  | [] =>
    let act := s.active h
    if act = 0 then s.retireSeq h
    else
      let own := s.accessesOf act (kind == 0)
      if own.isEmpty then wide s else (s.carry [1]).waitActive h i (.gone own []) 7
  | [1] => wide s
  | [4] => s.fenceEnd h i kind scope
  | [2, due] => if due ≤ (s.core s.cur.core).cycles then (s.doneNow h).retireSeq h else (s.carry [3]).waitActive h i (.cycle due) 7
  | _ => (s.doneNow h).retireSeq h

/-- R225: fence.acq. -/
def execFenceAcq (h : Hdr) (f : FmtM) (s : State) : Out := .next (s.fence h (.fenceAcq h f) 0 f.scope.toNat)
/-- R225: fence.rel. -/
def execFenceRel (h : Hdr) (f : FmtM) (s : State) : Out := .next (s.fence h (.fenceRel h f) 1 f.scope.toNat)
/-- R225: fence.ar. -/
def execFenceAr (h : Hdr) (f : FmtM) (s : State) : Out := .next (s.fence h (.fenceAr h f) 2 f.scope.toNat)

/-! ### Cache operations (R226, R227) -/

/-- The end of the page that holds a VA: the level that maps it gives its size (Table 21-4). -/
def State.pageEnd (s : State) (ctx va : Nat) : Nat :=
  let rec size (lv table : Nat) : Nat :=
    match lv with
    | 0 => levelShift 0
    | k + 1 =>
      let e := memNat s.mem (table + 8 * (va / 2 ^ levelShift k % levelEntries k)) 8
      if bit e 1 || !bit e 0 then levelShift k else size k (bits e 47 16 * 256)
  let z := 2 ^ size 5 (s.ctx ctx).root
  (va / z + 1) * z

/-- What walking a range of VAs finds: the physical extents (start, length), or what stops it, with the VA of a malformed entry. -/
inductive RangeChk where
  | ok (l : List (Nat × Nat))
  | fault (bad : List Nat)
  | park (va : Nat)
  deriving DecidableEq, Repr

/-- R226: every page a range touches is checked; a fault before a page that is not translated (assumption log 20). -/
def State.rangeCheck (s : State) (ctx va len fuel : Nat) : RangeChk :=
  if len = 0 then .ok []
  else match fuel with
    | 0 => .ok []
    | k + 1 =>
      if va ≥ 2 ^ 57 || s.inDebugArea ctx va then .fault []
      else
        let n := min len (s.pageEnd ctx va - va)
        let rest := s.rangeCheck ctx (va + n) (len - n) k
        match s.walk ctx va with
        | .bad _ => .fault [va]
        | .absent _ => (match rest with | .fault b => .fault b | _ => .park va)
        | .ok pa e =>
          if leafHostOwned e then .fault []
          else match rest with | .ok l => .ok ((pa, n) :: l) | r => r

/-- Whether a physical address lies in one of the extents. -/
def inExtents (ext : List (Nat × Nat)) (pa : Nat) : Bool := ext.any (fun x => x.1 ≤ pa && pa < x.1 + x.2)

/-- The words of a frame in the extents. -/
def extentMask (ext : List (Nat × Nat)) (frame : Nat) : BitVec 64 :=
  (List.range 64).foldl (fun m w => if inExtents ext (frame * 256 + 4 * w) then m ||| BitVec.ofNat 64 (2 ^ w) else m) 0

/-- R226: the words of the extents leave the L1 of a core. -/
def State.invalidateL1 (s : State) (ext : List (Nat × Nat)) (core : Nat) : State :=
  (((s.core core).l1.map Block.frame).eraseDups).foldl (fun s fr => s.dropL1 core fr (extentMask ext fr) (fun _ => true)) s

/-- R226: the words of the extents leave the replica blocks of a die, and with clean its clean home blocks too. -/
def State.invalidateL2 (s : State) (ext : List (Nat × Nat)) (clean : Bool) (die : Nat) : State :=
  s.modDie die (fun d => { d with l2 := ((d.l2.map Block.frame).eraseDups).foldl (fun l fr =>
    dropWords 65536 fr (extentMask ext fr) (fun b => b.replica || (clean && !b.dirty)) l) d.l2 })

/-- R226: cinv at a scope. -/
def State.cinvExtents (s : State) (scope : Nat) (ext : List (Nat × Nat)) : State :=
  let die := Config.dieOfCore s.cur.core
  if scope = 0 then s.invalidateL1 ext s.cur.core
  else
    let there (d : Nat) : Bool := scope ≥ 3 || d = die
    let s1 := ((s.cores.map (fun c => c.1)).filter (fun c => there (Config.dieOfCore c))).foldl (fun s c => s.invalidateL1 ext c) s
    ((s1.dies.map (fun d => d.1)).filter there).foldl (fun s d => s.invalidateL2 ext (scope = 4) d) s1

/-- R226: cwb at a scope: gather entries of the die that hold a byte of the range leave, and at .sys dirty L2 blocks are written
back (the data is in memory: assumption log 8); the result numbered id waits for them. -/
def State.cwbExtents (s : State) (scope id : Nat) (ext : List (Nat × Nat)) : State :=
  let die := Config.dieOfCore s.cur.core
  let es := (s.die die).gather.filter (fun g => g.2.bytes.any (fun b => inExtents ext (g.1 * 256 + b.1)))
  let s1 := es.foldl (fun s g => s.flushGather die g.1 [id]) s
  if scope = 4 then
    { s1 with dies := s1.dies.map (fun (d : Nat × Die) => (d.1, { d.2 with l2 := d.2.l2.map (fun b =>
      if b.dirty && extentMask ext b.frame ≠ 0 then { b with dirty := false } else b) })) }
  else s1

/-- R226: the length a lane of cwb or cinv names, in words. -/
def State.rangeWords (s : State) (f : FmtM) (l : Nat) : Nat := (s.selWord l f.data.toNat).toNat

/-- R230: the frames that extents touch. -/
def extentFrames (l : List (Nat × Nat)) : Nat := (l.map (fun x => (x.1 + x.2 - 1) / 256 - x.1 / 256 + 1)).foldl (· + ·) 0

/-- R226, R231: the checks of cwb and cinv, orders 2 to 4, of the ranges of the lanes whose address is known; a length that is not known is looked
at by none. A range that is not translated parks with its lane's EA. -/
def State.rangeChecks (s : State) (f : FmtM) (act : BitVec 32) : MemChk × Nat :=
  let l := s.eas f (s.knownLanes act (addrSrc f).regs)
  let known (p : Nat × Nat) : Bool := !s.hasFailed p.1 f.data.toNat
  let chk (p : Nat × Nat) : RangeChk := if known p then s.rangeCheck s.curCtx p.2 (4 * s.rangeWords f p.1) 1100 else .ok []
  match (s.eas f (s.knownLanes act ((addrSrc f).regs.take 1))).find? (fun p => p.2 % 4 ≠ 0) with
  | some p => (.fault cMISALIGN p.2, p.2)
  | none =>
    match l.findSome? (fun p => if p.2 ≥ 2 ^ 57 || (known p && s.rangeWords f p.1 > 2 ^ 24) then some p.2
      else match chk p with | .fault _ => some p.2 | _ => none) with
    | some v => (.fault cACCESS v (s.badWalks s.curCtx (l.flatMap (fun p => match chk p with | .fault b => b | _ => []))), v)
    | none => match l.findSome? (fun p => match chk p with | .park va => some (p.2, va) | _ => none) with
      | some (v, va) => (.park va, v)
      | none => (.ok (l.map (fun p => ⟨p.1, p.2, 0, 0⟩)), 0)

/-- R226, R231: cwb and cinv: pending writes, the crossing of addresses and lengths, the checks of every lane's range, what failed, then the
effect (assumption log 20). -/
def State.rangeOp (s : State) (h : Hdr) (i : Instr) (f : FmtM) (eff : State → Nat → List (Nat × Nat) → State) : State :=
  let act := s.active h
  let srcs := [addrSrc f, .reg f.data.toNat]
  s.withOperandsLate h i act srcs [] [] stayNone 0 id (fun s =>
    match s.rangeChecks f act with
    | (.fault code tv bad, _) => (s.noteWalks s.curCtx bad).raise h act code (BitVec.ofNat 64 tv)
    | (.park va, v) => (s.carry (v :: s.cur.nums)).parkMem h i act srcs va
    | (.ok _, _) => s.raiseFailed h act (fun s =>
        let k := s.cur
        let id := s.fresh
        let exts := (s.eas f act).filterMap (fun p => match s.rangeCheck s.curCtx p.2 (4 * s.rangeWords f p.1) 1100 with | .ok ext => some ext | _ => none)
        let s1 := exts.foldl (fun s ext => eff s id ext) (s.takeToken h).tickFresh
        let p : Pend := { core := k.core, slot := k.slot, kind := 3, path := k.path, lanes := k.lanes, act := act, pos := k.pos, tok := h.tok.toNat, frames := extentFrames exts.flatten }
        ({ s1 with pends := tblPut s1.pends id p }.later (.loadCompletion id)).retireSeq h))

/-- R226: cwb. -/
def execCwb (h : Hdr) (f : FmtM) (s : State) : Out :=
  .next (s.rangeOp h (.cwb h f) f (fun s id ext => s.cwbExtents f.scope.toNat id ext))

/-- R226: cinv. -/
def execCinv (h : Hdr) (f : FmtM) (s : State) : Out :=
  .next (s.rangeOp h (.cinv h f) f (fun s _ ext => s.cinvExtents f.scope.toNat ext))

/-- R227: the lanes of cpf whose access would raise nothing. -/
def State.cpfLanes (s : State) (f : FmtM) (act : BitVec 32) : List Acc :=
  s.translated ((s.eas f act).filter (fun p =>
    p.2 % sizeBytes f = 0 && !s.accessFault .load p.2 && !s.watched .load p.2 (sizeBytes f)))

/-- R227, R230, R364: cpf fills the L1 and writes nothing; its token falls at issue. -/
def execCpf (h : Hdr) (f : FmtM) (s : State) : Out :=
  let act := s.active h
  .next (s.withOperands h (.cpf h f) act [addrSrc f] [] [] stayNone 0 (fun s =>
    let accs := inDevice (s.cpfLanes f act)
    let s := s.noteWalks s.curCtx (s.badWalks s.curCtx ((s.eas f act).map (fun p => p.2)))
    let (s1, _, _) := (s.requests accs).foldl
      (fun a r => loadFrame f (sizeBytes f) (some ⟨0, false⟩) true true 0 accs a r) ((s, { core := 0, slot := 0, kind := 3, path := 0, lanes := 0, pos := 0 }, 0) : Loading)
    (s1.doneNow h).retireSeq h))

/-! ### Rounds (R228, R263) -/

/-- R228: the checks of rnd.adv and rnd.get: alignment, then a region, then what failed. -/
def State.roundOp (s : State) (h : Hdr) (i : Instr) (f : FmtM) (k : State → BitVec 32 → List (Nat × Nat × Region) → State) : State :=
  let act := s.active h
  s.withOperandsLate h i act [addrSrc f] (loadRegs f.data.toNat 4) [] stayNone 0 id (fun s =>
    match (s.eas f (s.knownLanes act ((addrSrc f).regs.take 1))).find? (fun p => p.2 % 4 ≠ 0) with
    | some p => s.raise h act cMISALIGN (BitVec.ofNat 64 p.2)
    | none => match (s.eas f (s.knownLanes act (addrSrc f).regs)).find? (fun p => p.2 ≥ 2 ^ 57 || (s.regionAt s.curCtx p.2).isNone) with
      | some p => s.raise h act cACCESS (BitVec.ofNat 64 p.2)
      | none => s.raiseFailed h act (fun s => k s act ((s.eas f act).filterMap (fun p => (s.regionAt s.curCtx p.2).map (fun r => (p.1, r.1, r.2))))))

/-- R228, R263: rnd.adv: each lane leaves for the counter's die as the store of a release. -/
def execRndAdv (h : Hdr) (f : FmtM) (s : State) : Out :=
  .next (s.roundOp h (.rndAdv h f) f (fun s act l =>
    let k := s.cur
    let own := s.accessesOf act false
    let id := s.fresh
    let s1 := (s.takeToken h).tickFresh
    let lane (s : State) (x : Nat × Nat × Region) : State :=
      s.sendMsg { s.newMsg (2 ^ 60) [] with kind := .round x.2.1 x.1 id, atHome := true, after := own, scope := f.scope.toNat, widen := true, overhead := overheadOf f.scope.toNat }
    if l.isEmpty then (s1.dropToken h).retireSeq h
    else
      let p : Pend := { core := k.core, slot := k.slot, kind := 3, path := k.path, lanes := k.lanes, act := act, pos := k.pos, tok := h.tok.toNat, size := 4, dst := f.data.toNat, wait := l.length }
      { (l.foldl lane s1) with pends := tblPut s1.pends id p }.retireSeq h))

/-- R228: rnd.get: each lane receives the mirror of its region. -/
def execRndGet (h : Hdr) (f : FmtM) (s : State) : Out :=
  .next (s.roundOp h (.rndGet h f) f (fun s act l =>
    let k := s.cur
    let bytes := l.foldl (fun t x => (placed (x.1 * 16) (leBytes 4 x.2.2.mirror.toNat)).foldl (fun t b => tblPut t b.1 b.2) t) ([] : Tbl Byte)
    let p : Pend := { core := k.core, slot := k.slot, kind := 3, path := k.path, lanes := k.lanes, act := act, pos := k.pos, tok := h.tok.toNat, size := 4, dst := f.data.toNat, bytes := bytes }
    let s1 := s.takeToken h
    ((s1.addPend p).later (.loadCompletion s1.fresh)).retireSeq h))

/-! ### Publication (R229, R380) -/

/-- R229, R380: the staged bytes of a window reach host memory, then its counter rises. Where two dies staged one byte the spec does
not say which is written last: a free choice (assumption log 19). -/
def State.publish (s : State) (w : Nat) : State :=
  let x := tblGet { va := 0, len := 0, host := 0, counter := 0 } s.windows w
  let all := if Config.freeBool s.fresh then x.staged else x.staged.reverse
  let data := all.map (fun b => (x.hostAt (x.host + b.1 % 2 ^ 26), b.2))
  let v := x.version + 1
  { s with
    hostMem := memSetAll (memSetAll s.hostMem data) (placed (x.hostAt x.counter) (leBytes 8 v.toNat))
    windows := tblPut s.windows w { x with version := v, staged := [], busy := x.busy - 1 } }.tickFresh

/-- Table 22-7: an event record, the newest 256 kept; those that leave are counted. -/
def State.logEvent (s : State) (e : EvRec) : State :=
  { s with evlog := (e :: s.evlog).take 256, evLost := s.evLost + (if s.evlog.length ≥ 256 then 1 else 0) }

/-- R229, R252, R380: pub: a release at .sys, then the translation of the window, then the bytes and the counter (assumption log 19). -/
def execPub (h : Hdr) (f : FmtM) (s : State) : Out :=
  let act := s.active h
  let i := Instr.pub h f
  let n := f.off.toNat % 64
  let w := s.curCtx * 64 + n
  let finish (s : State) : State :=
    let x := tblGet { va := 0, len := 0, host := 0, counter := 0 } s.windows w
    if x.held then ((s.publish w).doneNow h).retireSeq h
    else if Config.freeBool s.fresh then
      (({ s with windows := tblPut s.windows w { x with held := true } }.tickFresh.publish w).doneNow h).retireSeq h
    else
      let s1 := (s.tickFresh.logEvent { kind := 2, link := w % 2, ctx := s.curCtx, arg := n, addr := x.host, time := s.tick }).carry [2]
      (s1.waitActive h i .event 7).inTicks (1000 * Config.ticksPerMicrosecond) (.pubTranslationRetry s.cur.core s.cur.slot s1.fresh)
  let wide (s : State) : State := s.afterObserved h i 4 7 [3] (fun s => (s.carry [2]).waitOverhead h i 4 7)
  .next (match s.cur.nums with
    | [] =>
      if act = 0 then s.retireSeq h
      else match tblFind s.windows w with
        | none => s.raise h act cACCESS (BitVec.ofNat 64 n)
        | some x =>
          let s0 : State := { s with windows := tblPut s.windows w { x with busy := x.busy + 1 } }
          let own := s0.accessesOf act false
          if own.isEmpty then wide s0 else (s0.carry [1]).waitActive h i (.gone own []) 7
    | [1] => wide s
    | [3] => (s.carry [2]).waitOverhead h i 4 7
    | _ => finish s)

/-- R380: PUB_TRANSLATION_RETRY: the pub that waits tries again. -/
def execPubTranslationRetry (core slot id : Nat) (s : State) : Out := .next (s.endWait core slot id)

end Sys2Proof.Machine
end

