-- ==== Sys2Proof/Machine/Barrier.lean ====
section
/-! DEFINITION. Barriers within a workgroup and route-tag barriers (R148, R149, R179, R249, R257). -/

namespace Sys2Proof.Machine

/-- R148, R149, R249: a barrier acts for each active thread as fence.ar at a scope: its accesses are performed, then what it may have observed, and for
bart the time of the scope passes (R252); it arrives, and when the barrier has completed the rounds it may have synchronised with are judged
(R271). -/
def State.barrier (s : State) (h : Hdr) (i : Instr) (scope : Nat) (timed : Bool) (arrive : State → State) : State :=
  let h0 := { h with tok := 0 }
  let ready (s : State) : State := if timed then (s.carry [4]).waitOverhead h0 i scope 3 else arrive (s.carry [2])
  match s.cur.nums with
  | [] =>
    let act := s.active h
    if act = 0 then s.retireSeq h
    else
      let own := s.accessesOf act false
      if own.isEmpty then s.afterObserved h0 i scope 3 [5] ready else (s.carry [1]).waitActive h0 i (.gone own []) 3
  | [1] => s.afterObserved h0 i scope 3 [5] ready
  | [5] => ready s
  | [4] => arrive (s.carry [2])
  | [2] =>
    let rounds := s.roundsDue s.curCtx
    if rounds.isEmpty then s.retireSeq h else (s.carry [3]).waitFor h0 i (.gone [] rounds) 3
  | _ => s.retireSeq h

/-- R148: bar k. -/
def execBar (h : Hdr) (f : FmtS) (s : State) : Out :=
  let k := f.imm.toNat % 16
  .next (s.barrier h (.bar h f) 0 false (fun s =>
    let w := s.curWg
    let b := tblGet {} (s.wg w).bars k
    let n := (lanesOf (s.active h)).length
    let s1 := s.waitActive { h with tok := 0 } (.bar h f) (.barGen k b.gen) 3
    (s1.modWg w (fun x => { x with bars := tblPut x.bars k { b with arrived := b.arrived + n } })).barCheck w k))

/-- R148: BARRIER_COMPLETE: the waiting threads become eligible and the count resets. -/
def execBarrierComplete (wg k : Nat) (s : State) : Out :=
  let b := tblGet {} (s.wg wg).bars k
  .next (if b.closing then s.modWg wg (fun x => { x with bars := tblPut x.bars k { arrived := 0, gen := b.gen + 1 } }) else s)

/-! ### Route tags -/

/-- Table 11-2: the scope code of a route tag: 0 unbound, 1 team, 2 die portion, 3 launch. -/
def routeScope (k : KRec) (t : Nat) : Nat := k.routes / 4 ^ t % 4

/-- R149: the scope of bart: .tm, .die or .pkg. -/
def bartScope (k : KRec) (t : Nat) : Nat :=
  match routeScope k t with
  | 1 => 1
  | 2 => 2
  | _ => if countOnes 4 k.dieMask ≤ 1 then 2 else 3

/-- R149: cycles from the last arrival to the release (assumption log 26). -/
def bartDelay (scope : Nat) : Nat := match scope with | 1 => 12 | 2 => 24 | _ => 40

/-- R179: the core set of a tag that a workgroup of a launch on a core belongs to. -/
def State.setInst (s : State) (l t team core : Nat) : Nat :=
  match routeScope (s.launch l).kr t with
  | 1 => team
  | 2 => Config.dieOfCore core
  | _ => 0
def setKey (l t inst : Nat) : Nat := (l * 8 + t) * 2 ^ 24 + inst
def keyLaunch (k : Nat) : Nat := k / 2 ^ 27

/-- R179: whether a workgroup belongs to a core set. -/
def State.inSet (s : State) (b : BartSet) (w : Nat) : Bool :=
  let x := s.wg w
  x.launch = b.launch && !x.handler && s.setInst b.launch b.tag x.team x.core = b.inst

/-- R257: whether every workgroup that may join a core set has been placed (assumption log 26). -/
def State.setPlaced (s : State) (b : BartSet) : Bool :=
  let k := (s.launch b.launch).kr
  routeScope k b.tag = 1 || (s.launch b.launch).nextTeam * k.t ≥ k.w

/-- R149: the participants of a core set: the non-exited threads of its workgroups. -/
def State.setLive (s : State) (b : BartSet) : Nat :=
  ((s.wgs.filter (fun p => s.inSet b p.1)).map (fun p => s.liveThreads p.1)).foldl (· + ·) 0

/-- R149: bart t. A handler group belongs to no core set (assumption log 25). -/
def execBart (h : Hdr) (f : FmtS) (s : State) : Out :=
  let t := f.imm.toNat % 8
  let act := s.active h
  let w := s.curWg
  let l := s.launchOfWg w
  let k := (s.launch l).kr
  let x := s.wg w
  .next (
    if s.cur.phase = 0 && act ≠ 0 && (routeScope k t = 0 || x.handler) then s.raise h act cTAG (BitVec.ofNat 64 t)
    else s.barrier h (.bart h f) (bartScope k t) true (fun s =>
      let key := setKey l t (s.setInst l t x.team x.core)
      let b := tblGet { launch := l, tag := t, inst := s.setInst l t x.team x.core } s.bsets key
      let n := (lanesOf (s.active h)).length
      let s1 := s.waitActive { h with tok := 0 } (.bart h f) (.bartGen key b.gen) 3
      { s1 with bsets := tblPut s1.bsets key { b with arrived := b.arrived + n } }.now (.bartRelease key t)))

/-- R149, R257: BART_RELEASE: with every participant arrived, the waiting threads become eligible 12, 24 or 40 ticks later, and the
count resets. Before that nothing happens (assumption log 26). -/
def execBartRelease (set _t : Nat) (s : State) : Out :=
  match tblFind s.bsets set with
  | none => .next s
  | some b =>
    if b.closing then
      .next (if s.tick ≥ b.relAt then { s with bsets := tblPut s.bsets set { b with arrived := 0, gen := b.gen + 1, closing := false } } else s)
    else if b.arrived > 0 && s.setPlaced b && b.arrived ≥ s.setLive b then
      let d := bartDelay (bartScope (s.launch b.launch).kr b.tag)
      .next ({ s with bsets := tblPut s.bsets set { b with closing := true, relAt := s.tick + d } }.inTicks d (.bartRelease set b.tag))
    else .next s

end Sys2Proof.Machine
end

