-- ==== Sys2Proof/Machine/Copy.lean ====
section
/-! DEFINITION. Collective copies, range locks and staging rings (R296-R310), and the layout records they use (R368, R369). -/

namespace Sys2Proof.Machine

/-! ### Layout records (Tables 21-9, 21-10) -/

/-- A layout record taken apart: element size, dimensions, swizzle, base, box extents, sizes and strides. -/
structure Layout where
  valid : Bool
  owner : Nat
  swz : Nat
  n : Nat
  esz : Nat
  base : Nat
  ext : List Nat
  size : List Nat
  stride : List Nat
  deriving DecidableEq, Repr

/-- Tables 21-9, 21-10. -/
def layoutOf (r : BitVec 512) : Layout :=
  let f (off n : Nat) : Nat := r.toNat / 2 ^ (8 * off) % 2 ^ (8 * n)
  let c := f 8 4
  { valid := bit c 31, owner := bits c 29 24, swz := bits c 9 8, n := bits c 6 4, esz := 2 ^ (c % 4), base := f 0 8,
    ext := (List.range 5).map (fun d => f (0xC + d) 1 + 1), size := (List.range 5).map (fun d => f (0x14 + 4 * d) 4),
    stride := f 0x12 2 :: (List.range 4).map (fun d => f (0x28 + 5 * d) 5) }

/-- R299: rows of the box, bytes of a row (R300) and the footprint. -/
def Layout.rows (l : Layout) : Nat := ((l.ext.take l.n).drop 1).foldl (· * ·) 1
def Layout.rowBytes (l : Layout) : Nat := (l.ext.headD 1 * l.esz + 15) / 16 * 16
def Layout.footprint (l : Layout) : Nat := l.rows * l.rowBytes

/-- R299: the indices (i_1, …) of row q. -/
def rowIndices (exts : List Nat) (q : Nat) : List Nat :=
  match exts with
  | [] => []
  | e :: r => q % e :: rowIndices r (q / e)

/-- R300: the VA of element i0 of row q, or none outside the tensor. -/
def Layout.elemVA (l : Layout) (org : List Word) (q i0 : Nat) : Option Nat :=
  let is := i0 :: rowIndices ((l.ext.take l.n).drop 1) q
  let idx := (List.range l.n).map (fun d => (org.getD d 0).toInt + (is.getD d 0 : Int))
  if (List.range l.n).all (fun d => decide (0 ≤ idx.getD d 0) && decide (idx.getD d 0 < (l.size.getD d 0 : Int))) then
    some ((List.range l.n).foldl (fun a d => a + (idx.getD d 0).toNat * l.stride.getD d 0) l.base)
  else none

/-- R300: where byte j of element i0 of row q goes, from the destination base. -/
def Layout.destOff (l : Layout) (q i0 : Nat) : Nat :=
  let c := i0 * l.esz / 16
  q * l.rowBytes + 16 * (c ^^^ (q % 2 ^ l.swz)) + i0 * l.esz % 16

/-- R340, R357: a workgroup that is only being ended. -/
def State.beingEnded (s : State) (w : Nat) : Bool := (s.launch (s.wg w).launch).halting

/-- R357: a workgroup of a draining context, not a handler group, that is to be parked: it holds a debug-halted group or a parked access. -/
def State.mustPark (s : State) (w : Nat) : Bool :=
  let x := s.wg w
  let sch := (s.die (Config.dieOfCore x.core)).sched
  sch.draining && sch.ctx = s.ctxOfWg w && x.phase = 0 && !x.handler && !s.beingEnded w &&
  (x.halt.isSome || x.copies.any (fun c => c.2.parkedAt.isSome) ||
    s.groups.any (fun p => p.2.wg = w && p.2.waits.any (fun y => match y.cond with | .page _ => true | _ => false)))

/-- R368: the record of a handle in a context's layout table, which lies in memory at the address of the context's record. -/
def State.layoutRec (s : State) (ctx h : Nat) : BitVec 512 := BitVec.ofNat 512 (memNat s.mem ((s.ctx ctx).layPA + 64 * h) 64)

/-! ### Assembly (R298-R301, R310, Table 18-4) -/

def State.copySlot (s : State) (w k : Nat) : CopySlot := tblGet {} (s.wg w).copies k
def State.modCopy (s : State) (w k : Nat) (f : CopySlot → CopySlot) : State :=
  s.modWg w (fun x => { x with copies := tblPut x.copies k (f (tblGet {} x.copies k)) })
def State.ring (s : State) (w j : Nat) : Ring := tblGet {} (s.wg w).rings j
def State.modRing (s : State) (w j : Nat) (f : Ring → Ring) : State :=
  s.modWg w (fun x => { x with rings := tblPut x.rings j (f (tblGet {} x.rings j)) })
def State.opmSlot (s : State) (core n : Nat) : OpmSlot := tblGet {} (s.core core).opm n
def State.modOpm (s : State) (core n : Nat) (f : OpmSlot → OpmSlot) : State :=
  s.modCore core (fun c => { c with opm := tblPut c.opm n (f (tblGet {} c.opm n)) })

/-- Table 18-1: fields of a control word. -/
def Ring.unit (r : Ring) : Nat := bits r.control.toNat 41 31 * 256
def Ring.depth (r : Ring) : Nat := bits r.control.toNat 30 24
def Ring.base (r : Ring) : Nat := bits r.control.toNat 18 0
def Ring.slot (r : Ring) (m : Nat) : Nat := tblGet 0 r.slots m

/-- The slices that contribute rows, the lowest group first. -/
def CopySlot.live (c : CopySlot) : List Slice :=
  (List.range 128).flatMap (fun g => c.slices.filter (fun x => x.group = g && !x.empty))

/-- R299: the rows that slices name, each once, in ascending order. -/
def CopySlot.rowsNamed (c : CopySlot) (l : Layout) : List Nat :=
  (List.range l.rows).filter (fun q => c.live.any (fun x => x.part.toNat % 65536 ≤ q && q < x.part.toNat % 65536 + x.part.toNat / 65536))

/-- R298: every non-exited group of the workgroup has supplied a slice. -/
def State.copyFull (s : State) (w : Nat) (c : CopySlot) : Bool :=
  let gs := (s.groups.filter (fun p => p.2.wg = w)).map (fun p => p.2) ++ (s.wg w).saved.map (fun p => p.2)
  !c.slices.isEmpty && gs.all (fun g => g.threads.all (fun t => t.exited) || c.slices.any (fun x => x.group = g.idx))

/-- What the checks at assembly find. -/
inductive CopyChk where
  | ok
  | fault (code tv : Nat) (slice : Slice)
  | free (code : Nat) (slice : Slice)
  | park (va : Nat) (slice : Slice)
  deriving DecidableEq, Repr

/-- R299: two slices agree. -/
def Slice.agrees (n : Nat) (a b : Slice) : Bool :=
  a.handle = b.handle && a.org.take n = b.org.take n && a.dk = b.dk && a.dst = b.dst

/-- Every in-bounds element a copy reads. -/
def CopySlot.elements (c : CopySlot) (l : Layout) (org : List Word) : List Nat :=
  ((c.rowsNamed l).map (fun q => (List.range (l.ext.headD 1)).filterMap (fun i => l.elemVA org q i))).flatten

/-- Table 18-4, in order; a fault names the offending slice of lowest group. Where no byte lies outside the allocation the spec names no
sr.tvalue for SCRATCH_RANGE: a free value (assumption log 21). -/
def State.copyCheck (s : State) (w k : Nat) : CopyChk :=
  let c := s.copySlot w k
  let x := s.wg w
  let ctx := s.ctxOfWg w
  match c.live with
  | [] => .ok
  | a :: rest =>
    let l := layoutOf (s.layoutRec ctx a.handle)
    let tooFar := (a :: rest).find? (fun y => y.part.toNat % 65536 + y.part.toNat / 65536 > l.rows)
    let B := a.dst.toNat
    let R := s.ring w (B % 16)
    let slot := s.opmSlot x.core B
    if a.handle ≥ (s.ctx ctx).layLen || !l.valid || l.owner ≠ ctx then .fault cLAYOUT a.handle a
    else match rest.find? (fun y => !a.agrees l.n y) with
      | some y => .fault cLAYOUT y.handle y
      | none => match tooFar with
        | some y => .fault cLAYOUT y.handle y
        | none =>
          if l.rowBytes % (16 * 2 ^ l.swz) ≠ 0 then .fault cLAYOUT a.handle a
          else if a.dk = 0 && B + l.footprint > x.spSize then .fault cSCRATCH (max B x.spSize) a
          else if (a.dk = 0 && B % 16 ≠ 0) || (a.dk = 1 && l.footprint > R.unit) then .free cSCRATCH a
          else if a.dk = 2 && (B > 31 || slot.st = 0 || slot.holder ≠ w) then .fault cOPM (1 + 256 * (B % 256)) a
          else if a.dk = 2 && l.footprint > 16384 then .fault cOPM (6 + 256 * (B % 256)) a
          else
            let vas := c.elements l a.org
            match vas.find? (fun va => s.unreadable ctx va) with
            | some va => .fault cACCESS va a
            | none => match vas.find? (fun va => match s.walk ctx va with | .absent _ => true | _ => false) with
              | some va => .park va a
              | none => .ok

/-- The VAs a copy reads. -/
def State.copyVAs (s : State) (w k : Nat) : List Nat :=
  let c := s.copySlot w k
  match c.live with
  | [] => []
  | a :: _ => c.elements (layoutOf (s.layoutRec (s.ctxOfWg w) a.handle)) a.org

/-- R299, R366: the translations that a copy is assembled with, by page of 64 KiB: the physical address of the page and the leaf. -/
def State.copyPages (s : State) (w k : Nat) : Tbl (Nat × Nat) :=
  (((s.copyVAs w k).map (· / 65536)).eraseDups).foldl (fun t p => match s.walk (s.ctxOfWg w) (65536 * p) with | .ok pa e => tblPut t p (pa, e) | _ => t) []

/-- R310, R338: an assembly fault halts the workgroup; its record names the slice by its code position, and no raising group. -/
def State.copyFault (s : State) (w code : Nat) (tv : Long) (x : Slice) : State :=
  s.asyncFault w code 0 x.pos tv 0xFFFFFFFF

/-! ### Running (R302, R303, R305) -/

/-- A byte of a translated page as an engine of a core reads it (R300, Table 16-4, R250). -/
def State.leafByte (s : State) (core ctx va pa e : Nat) : Byte :=
  if leafWindow e then s.windowByte (Config.dieOfCore core) (windowOf ctx e) va else s.beyondL1 core pa

/-- A byte as the device reads it for a launch instruction of a core; 0 where it may not be read. -/
def State.engineByte (s : State) (core ctx va : Nat) : Byte :=
  match s.walk ctx va with
  | .ok pa e => if s.unreadable ctx va then 0 else s.leafByte core ctx va pa e
  | _ => 0

/-- R302, R310, R366: n bytes of a source element as they stand, through the translations the copy was assembled with; those of an uncorrectable codeword as
0, and that codeword. -/
def State.engineRead (s : State) (core ctx : Nat) (pages : Tbl (Nat × Nat)) (va n : Nat) : List Byte × Option Bad :=
  match tblFind pages (va / 65536) with
  | none => (List.replicate n 0, none)
  | some (p, e) =>
    let pa (j : Nat) : Nat := p + (va + j) % 65536
    let bad (j : Nat) : Option Bad := if leafWindow e then none else s.badMem (pa j) 1
    ((List.range n).map (fun j => if (bad j).isSome then 0 else s.leafByte core ctx (va + j) (pa j) e), (List.range n).findSome? bad)

/-- R310, R322, R338, R350: an engine meets an uncorrectable codeword: a record is written, and the workgroup halts. -/
def State.engineBad (s : State) (w : Nat) (b : Bad) : State :=
  (s.machineCheck b.unit 3 b.index b.loc (s.ctxOfWg w)).asyncFault w cUNCORR 0 0 (BitVec.ofNat 64 s.mcNext) (BitVec.ofNat 32 s.mcNext)

/-- R299, R302: the elements (row, index) that a copy writes, in order. -/
def CopySlot.items (c : CopySlot) : List (Nat × Nat) :=
  let l := layoutOf c.layout
  ((c.rowsNamed l).map (fun q => (List.range (l.ext.headD 1)).map (fun i => (q, i)))).flatten

/-- R300: the padding bytes of a row, by offset from the destination base. -/
def Layout.padding (l : Layout) (q : Nat) : List (Nat × Byte) :=
  ((List.range (l.rowBytes - l.ext.headD 1 * l.esz)).map (fun j =>
    let b := l.ext.headD 1 * l.esz + j
    (q * l.rowBytes + 16 * ((b / 16) ^^^ (q % 2 ^ l.swz)) + b % 16, (0 : Byte))))

/-- R303: the span of VAs of the in-bounds elements, or none. -/
def CopySlot.span (c : CopySlot) : Option (Nat × Nat) :=
  let l := layoutOf c.layout
  match c.live with
  | [] => none
  | a :: _ =>
    match c.elements l a.org with
    | [] => none
    | v :: vs => let lo := vs.foldl min v
                 some (lo, vs.foldl max v + l.esz - lo)

/-- The kind and the value of the destination. -/
def CopySlot.kind (c : CopySlot) : Nat := match c.live with | a :: _ => a.dk | [] => 0
def CopySlot.value (c : CopySlot) : Nat := match c.live with | a :: _ => a.dst.toNat | [] => 0

/-- R303: how many entries a copy needs. -/
def CopySlot.entries (c : CopySlot) : Nat := (if c.live.isEmpty || c.kind = 2 then 0 else 1) + (if c.span.isSome then 1 else 0)

/-- The copy slots of a core: workgroup, number, slot. -/
def State.copiesOn (s : State) (core : Nat) : List (Nat × Nat × CopySlot) :=
  ((s.wgs.filter (fun p => p.2.core = core)).map (fun p => p.2.copies.map (fun c => (p.1, c.1, c.2)))).flatten

/-- R312, R319, Table 19-1: a copy may start into an operand-memory slot. -/
def State.opmFree (s : State) (core n : Nat) : Bool :=
  let x := s.opmSlot core n
  x.st ≠ 2 && !(s.core core).mq.any (fun o => (o.aslots ++ o.bslots).contains (n, x.version))

/-- R303: the place of a queued copy in the order of assembly: by cycle, then by the lower workgroup slot, then by the lower copy slot; of a running
copy in the order of start, of which no two are alike. -/
def State.copyRank (s : State) (w k : Nat) : Nat :=
  (s.copySlot w k).order * 2 ^ 16 + (((s.wg w).slots.foldl min 127) * 8 + k)

/-- R307: gathering and queued copies of a workgroup go on: it is neither halted nor parked, nor being parked. -/
def State.copiesGoOn (s : State) (w : Nat) : Bool := (s.wg w).phase = 0 && (s.wg w).halt.isNone && !s.mustPark w

/-- R303, R307: whether a queued copy is one that can be served. -/
def State.served (s : State) (w k : Nat) : Bool :=
  let c := s.copySlot w k
  c.st = 2 && s.copiesGoOn w && (c.kind ≠ 2 || s.opmFree (s.wg w).core c.value)

/-- R302, R303: a queued copy may start: its 8 cycles have passed, its entries are free, and no copy assembled earlier waits for entries
(assumption log 21). -/
def State.mayStart (s : State) (w k : Nat) : Bool :=
  let core := (s.wg w).core
  let c := s.copySlot w k
  s.served w k && decide (c.ready ≤ (s.core core).cycles) && (s.core core).locks.length + c.entries ≤ 64 &&
  !(s.copiesOn core).any (fun y => s.served y.1 y.2.1 && s.copyRank y.1 y.2.1 < s.copyRank w k)

/-- R305: a running copy into a ring takes the slot at the fill index when that is free and no copy started earlier waits for the ring (assumption log 21). -/
def State.takeRingSlot (s : State) (w k : Nat) : State :=
  let c := s.copySlot w k
  let j := c.value % 16
  let r := s.ring w j
  let earlier := (s.wg w).copies.any (fun y => y.2.st = 3 && !y.2.taken && y.2.kind = 1 && y.2.value % 16 = j && s.copyRank w y.1 < s.copyRank w k)
  if r.free = 0 || r.slot r.fill ≠ 0 || earlier then s.again (.copyStart w k)
  else
    let s := if c.items.isEmpty then s.later (.copyComplete w k) else s
    let b := r.base + r.fill * r.unit
    let s1 := s.modRing w j (fun r => { r with slots := tblPut r.slots r.fill 1, free := r.free - 1, fill := (r.fill + 1) % r.depth })
    let s2 := s1.modCopy w k (fun c => { c with taken := true, dest := b, ringSlot := r.fill })
    s2.modCore (s.wg w).core (fun x => { x with locks := x.locks.map (fun y =>
      if y.owner = w && y.slot = k && y.dest then { y with base := b, len := (layoutOf c.layout).footprint } else y) })

/-- R302: the cycle from which a copy has its next source data: the latency is free (assumption log 5). -/
def State.copyDelay (s : State) (w k : Nat) : State :=
  (s.modCopy w k (fun c => { c with ready := (s.core (s.wg w).core).cycles + 1 + Config.latency s.fresh })).tickFresh

/-- R302, R303: a copy starts: its entries are written, and the slot it fills is taken. One that writes nothing completes. -/
def State.beginCopy (s : State) (w k : Nat) : State :=
  let core := (s.wg w).core
  let c := s.copySlot w k
  let dst : List Lock := if c.live.isEmpty || c.kind = 2 then [] else [⟨w, k, true, if c.kind = 0 then c.value else 0, if c.kind = 0 then (layoutOf c.layout).footprint else 0⟩]
  let src : List Lock := match c.span with | some (b, n) => [⟨w, k, false, b, n⟩] | none => []
  let s1 := s.modCore core (fun x => { x with locks := x.locks ++ dst ++ src })
  let s2 := (s1.modCopy w k (fun c => { c with st := 3, order := s1.fresh, taken := c.kind ≠ 1, dest := if c.kind = 0 then c.value else 0, done := 0 })).copyDelay w k
  let s3 := if c.kind = 2 && !c.live.isEmpty then s2.modOpm core c.value (fun o => { o with st := 2 }) else s2
  let s4 := if c.kind = 1 then s3.takeRingSlot w k else s3
  if c.items.isEmpty && c.kind ≠ 1 then s4.later (.copyComplete w k) else s4

/-- Copies by their rank, the lowest first. -/
def insertRank (p : Nat × Nat × Nat) (l : List (Nat × Nat × Nat)) : List (Nat × Nat × Nat) :=
  match l with
  | [] => [p]
  | q :: r => if p.1 < q.1 then p :: q :: r else q :: insertRank p r
def State.copiesInOrder (s : State) (core st : Nat) : List (Nat × Nat) :=
  ((((s.copiesOn core).filter (fun y => y.2.2.st = st)).map (fun y => (s.copyRank y.1 y.2.1, y.1, y.2.1))).foldl (fun l p => insertRank p l) []).map (fun p => p.2)

/-- R303: the queued copies of a core that may start do, in order of assembly. -/
def State.serveCopies (s : State) (core : Nat) : State :=
  (s.copiesInOrder core 2).foldl (fun s p => if s.mayStart p.1 p.2 then s.beginCopy p.1 p.2 else s) s

/-- R300, R302, R310: one element is read as it stands and written; with the last of a row, its padding. -/
def State.copyElem (w k : Nat) (s : State) (x : Nat × Nat) : State :=
  let c := s.copySlot w k
  let l := layoutOf c.layout
  let core := (s.wg w).core
  let org := match c.live with | a :: _ => a.org | [] => []
  let (data, bad) := match l.elemVA org x.1 x.2 with
    | some va => s.engineRead core (s.ctxOfWg w) c.pages va l.esz
    | none => (List.replicate l.esz 0, none)
  let bytes := placed (l.destOff x.1 x.2) data ++ (if x.2 + 1 = l.ext.headD 1 then l.padding x.1 else [])
  let s0 := match (l.elemVA org x.1 x.2).bind (fun va => (tblFind c.pages (va / 65536)).map (fun p => p.1 + va % 65536)) with
    | some pa => (s.moved pa (some (s.launchOfWg w)) l.esz).demands [pa]
    | none => s
  let s1 := if c.kind = 2 then s0.putOpm core c.value bytes
    else s0.putSp w (bytes.map (fun b => (c.dest + b.1, b.2)))
  let s2 := s1.noteLoads w (if (l.elemVA org x.1 x.2).isSome then data.map (fun b => b.setWidth 64) else [])
  match bad with | some b => s2.engineBad w b | none => s2

/-- R302: a running copy takes what it can use of the bytes that the cycle still has. -/
def State.moveCopy (a : State × Nat) (p : Nat × Nat) : State × Nat :=
  let (s, left) := a
  let (w, k) := p
  let c := s.copySlot w k
  let esz := (layoutOf c.layout).esz
  let todo := (c.items.drop c.done).take (left / esz)
  if !c.taken || (s.core (s.wg w).core).cycles < c.ready || todo.isEmpty then a
  else
    let s1 := (todo.foldl (State.copyElem w k) s).modCopy w k (fun c => { c with done := c.done + todo.length })
    (if c.done + todo.length = c.items.length then s1.now (.copyComplete w k) else s1.copyDelay w k, left - todo.length * esz)

/-- R302: a cycle of a core's copy engine: 256 bytes, to the running copies in start order. -/
def State.moveCopies (s : State) (core : Nat) : State := ((s.copiesInOrder core 3).foldl State.moveCopy (s, 256)).1

/-- R298, R310: assembly: with every slice in, the copy is checked and queued; it starts 8 cycles later. An untranslated source page holds
it gathering, up to 10 ms (R347). -/
def State.assemble (s : State) (w k : Nat) : State :=
  let c := s.copySlot w k
  if !s.copyFull w c || !s.copiesGoOn w then s
  else match s.copyCheck w k with
    | .fault code tv x => (if code = cACCESS then s.noteWalks (s.ctxOfWg w) (s.badWalks (s.ctxOfWg w) (s.copyVAs w k)) else s).copyFault w code (BitVec.ofNat 64 tv) x
    | .free code x => s.tickFresh.copyFault w code s.anyValue x
    | .park va x => (match c.parkedAt with
      | none => (s.modCopy w k (fun c => { c with parkedAt := some s.tick })).again (.copyStart w k)
      | some t => if s.tick ≥ t + Config.pageFaultTicks then s.copyFault w cPAGE (BitVec.ofNat 64 va) x else s.again (.copyStart w k))
    | .ok =>
      let rec' := match c.live with | a :: _ => s.layoutRec (s.ctxOfWg w) a.handle | [] => 0
      let now := (s.core (s.wg w).core).cycles
      let s1 := s.tickFresh.modCopy w k (fun c => { c with st := 2, layout := rec', order := now, ready := now + 8, parkedAt := none, num := s.fresh, pages := s.copyPages w k })
      let s2 := if c.kind = 2 && !c.live.isEmpty then s1.modOpm (s.wg w).core c.value (fun o => { o with waiting := o.waiting + 1 }) else s1
      s2.inCycles (s.wg w).core 8 (.copyStart w k)

/-- R298, R302, R307: COPY_START: a gathering copy is assembled, the queued ones of the core are served, a running one takes its ring slot, each
when it can; one of a halted or parked workgroup stays as it is. -/
def execCopyStart (wg k : Nat) (s : State) : Out :=
  let c := s.copySlot wg k
  .next (match c.st with
    | 1 => s.assemble wg k
    | 2 =>
      let s1 := s.serveCopies (s.wg wg).core
      if (s1.copySlot wg k).st = 2 then s1.again (.copyStart wg k) else s1
    | 3 => if c.taken then s else s.takeRingSlot wg k
    | _ => s)

/-- R302: COPY_COMPLETE: every element has been written: the slot it filled changes state, and the locks clear. A copy into a ring waits for the
copies that took earlier slots (assumption log 21). -/
def execCopyComplete (wg k : Nat) (s : State) : Out :=
  let c := s.copySlot wg k
  let core := (s.wg wg).core
  let j := c.value % 16
  if c.st ≠ 3 || !c.taken || c.done < c.items.length then .next s
  else if c.kind = 1 && (s.wg wg).copies.any (fun y => y.2.st = 3 && y.2.taken && y.2.kind = 1 && y.2.value % 16 = j && s.copyRank wg y.1 < s.copyRank wg k) then
    .next (s.again (.copyComplete wg k))
  else
    let s1 := if c.kind = 2 && !c.live.isEmpty then s.modOpm core c.value (fun o => { o with st := 3, version := o.version + 1, waiting := o.waiting - 1 })
      else if c.kind = 1 then s.modRing wg j (fun r => { r with slots := tblPut r.slots c.ringSlot 2, filled := r.filled + 1 })
      else s
    let s2 := s1.modCore core (fun x => { x with locks := x.locks.filter (fun y => !(y.owner = wg && y.slot = k)) })
    .next (s2.modWg wg (fun x => { x with copies := tblPut x.copies k {} }))

/-! ### The instructions (R308-R310) -/

/-- R308: register operands are read from the lowest lane of ACTIVE alone, after Materialise; dsts are written in every lane of ACTIVE. -/
def State.lowOperands (s : State) (h : Hdr) (i : Instr) (act : BitVec 32) (srcs : List Src) (dsts : List Nat) (k : State → State) : State :=
  if s.cur.phase > 0 || act = 0 then s.raiseFailed h act k
  else
    let low := BitVec.ofNat 32 (2 ^ ((lanesOf act).headD 0))
    match (s.shortFault low (srcRegs srcs ++ dsts) []).or (s.shortFault act dsts []) with
    | some v => s.raise h act cSHORT v
    | none =>
      let s := s.noteBadOperands low srcs
      let ops := s.crossings low srcs stayNone 0
      if ops.isEmpty then s.raiseFailed h act k else s.startXing h i low (srcRegs srcs) ops []

/-- R309: an instruction that does not wait completes 8 cycles after its effect. -/
def State.finish8 (s : State) (h : Hdr) : State :=
  let k := s.cur
  let p : Pend := { core := k.core, slot := k.slot, kind := 5, path := k.path, lanes := k.lanes, pos := k.pos, tok := h.tok.toNat }
  ((s.takeToken h).pendFixed 8 p).retireSeq h

/-- R248, R309: an instruction that acts as fence.rel.wg first waits for the accesses of the threads m, then for what they may have observed; then k. -/
def State.afterRelease (s : State) (h : Hdr) (i : Instr) (m : BitVec 32) (srcs : List Src) (row : Nat) (k : State → State) : State :=
  if s.cur.nums.contains 9 then k s
  else
    let own := if s.cur.nums.contains 11 then [] else s.accessesOf m false
    let ids := if own.isEmpty then (s.observed s.curCtx 0).filter s.outstanding else own
    if ids.isEmpty then k s
    else
      let low := BitVec.ofNat 32 (2 ^ ((lanesOf (s.active h)).headD 0))
      let s1 := ((s.beginWait h).capture low (srcRegs srcs)).carry [if own.isEmpty then 9 else 11]
      if m = s.cur.lanes then s1.waitFor h i (.gone ids []) row else s1.waitActive h i (.gone ids []) row

/-- R248, R271: an instruction that ends as an acquire waits for the rounds it may have synchronised with; then it completes. -/
def State.acquireDone (s : State) (h : Hdr) (i : Instr) (row : Nat) : State :=
  let rounds := s.roundsDue s.curCtx
  if rounds.isEmpty then (s.doneNow h).retireSeq h else (s.carry [7]).waitFor h i (.gone [] rounds) row

/-- The lowest active lane. -/
def State.lowLane (s : State) (h : Hdr) : Nat := (lanesOf (s.active h)).headD 0

/-- Table 20-1: sr.tvalue of BUF_STATE. -/
def bufTv (j m st : Nat) : Long := BitVec.ofNat 64 (j % 16 + 256 * (m % 64) + 65536 * st)
def bufTvUninit (j : Nat) : Long := BitVec.ofNat 64 (j % 16 + 2 ^ 19)

/-- R298, R309: cpy.slice: the group's slice is supplied after a release; with the last one the copy is assembled. -/
def execCpySlice (h : Hdr) (f : FmtE) (s : State) : Out :=
  let act := s.active h
  let i := Instr.cpySlice h f
  let k := f.par.toNat % 8
  let dk := bits f.par.toNat 4 3
  let srcs := (List.range 5).map (fun j => Src.reg (f.a.toNat + j)) ++ [.reg f.b.toNat, .reg f.c.toNat]
  .next (s.lowOperands h i act srcs [] (fun s =>
    let l := s.lowLane h
    let w := s.curWg
    let dst := s.selWord l f.b.toNat
    if act ≠ 0 && dk = 1 && (dst.toNat ≥ 16 || !(s.ring w dst.toNat).inited) then s.raise h act cBUF (bufTvUninit dst.toNat)
    else s.afterRelease h i s.cur.lanes srcs 4 (fun s =>
      let x : Slice := { group := (s.group s.cur.core s.cur.slot).idx, lane := l, pos := s.cur.pos, empty := act = 0, handle := f.handle.toNat, org := (List.range 5).map (fun j => s.selWord l (f.a.toNat + j)), dst := dst, part := s.selWord l f.c.toNat, dk := dk }
      let s1 := s.modCopy w k (fun c => { c with st := if c.st = 0 then 1 else c.st, slices := c.slices ++ [x] })
      (s1.finish8 h).now (.copyStart w k))))

/-- R309: cpy.wait: the issuing threads wait until the slots of the mask are idle. -/
def execCpyWait (h : Hdr) (f : FmtE) (s : State) : Out :=
  let w := s.curWg
  let m := f.par.toNat % 256
  let g := s.group s.cur.core s.cur.slot
  let bad := (List.range 8).find? (fun k => bit m k && (s.copySlot w k).st = 1 && !(s.copySlot w k).slices.any (fun x => x.group = g.idx))
  .next (
    if s.cur.nums.contains 7 then (s.doneNow h).retireSeq h
    else match if s.cur.phase > 0 then none else bad with
      | some k => s.raise h (s.active h) cBUF (BitVec.ofNat 64 (2 ^ 20 + 256 * k))
      | none =>
        if (List.range 8).all (fun k => !bit m k || (s.copySlot w k).st = 0) then s.acquireDone h (.cpyWait h f) 4
        else s.waitFor h (.cpyWait h f) (.copies m) 4)

/-- R304, R305, R309: ring.init; a control word that a copy is writing raises RANGE_LOCK. -/
def execRingInit (h : Hdr) (f : FmtE) (s : State) : Out :=
  let act := s.active h
  let j := f.handle.toNat % 16
  .next (s.lowOperands h (.ringInit h f) act [.reg f.a.toNat] [] (fun s =>
    if act = 0 then s.retireSeq h
    else
      let w := s.curWg
      let size := (s.wg w).spSize
      let off := (s.selWord (s.lowLane h) f.a.toNat).toNat
      let c := BitVec.ofNat 64 (leNat (tabBytes (s.wg w).sp off 8))
      let r : Ring := { inited := true, control := c, free := bits c.toNat 30 24 }
      let old := s.ring w j
      let busy := if old.inited then (List.range old.depth).find? (fun m => old.slot m ≠ 0) else none
      if off % 8 ≠ 0 then s.raise h act cMISALIGN (BitVec.ofNat 64 off)
      else if off + 8 > size then s.raise h act cACCESS (BitVec.ofNat 64 off)
      else if s.destLocked w off 8 then s.raise h act cRANGE (BitVec.ofNat 64 off)
      else if bits c.toNat 63 42 ≠ 0 || bits c.toNat 23 19 ≠ 0 || r.unit = 0 || r.depth = 0 || r.depth > 64 || r.base % 256 ≠ 0 then
        s.raise h act cBUF (bufTv j 0 0)
      else match busy with
        | some m => s.raise h act cBUF (bufTv j m (old.slot m))
        | none =>
          if r.base + r.depth * r.unit > size then s.raise h act cSCRATCH (BitVec.ofNat 64 (max r.base size))
          else (s.modRing w j (fun _ => r)).finish8 h))

/-- R309, R394: the slot at the pop index leaves for draining and its offset is written to every active lane, and logged. -/
def State.popRing (s : State) (h : Hdr) (i : Instr) (f : FmtE) : State :=
  let j := f.handle.toNat % 16
  let w := s.curWg
  let r := s.ring w j
  let v := r.base + r.pop * r.unit
  let s1 := s.modRing w j (fun r => { r with slots := tblPut r.slots r.pop 3, filled := r.filled - 1, pop := (r.pop + 1) % r.depth })
  let s2 := (lanesOf (s.active h)).foldl (fun s l => s.writeReg s.cur.core s.cur.slot l f.a.toNat (BitVec.ofNat 32 v) false) s1
  (s2.noteLoads w [BitVec.ofNat 64 v]).acquireDone h i 4

/-- R309: ring.pop. -/
def execRingPop (h : Hdr) (f : FmtE) (s : State) : Out :=
  let act := s.active h
  let i := Instr.ringPop h f
  let r := s.ring s.curWg (f.handle.toNat % 16)
  .next (
    if s.cur.nums.contains 7 then (s.doneNow h).retireSeq h
    else s.withOperands h i act [] (dstRegs f.a.toNat false) [] stayNone 0 (fun s =>
      if act = 0 then s.retireSeq h
      else if !r.inited then s.raise h act cBUF (bufTvUninit f.handle.toNat)
      else if r.slot r.pop = 2 then s.popRing h i f
      else s.waitActive h i (.ringFull (f.handle.toNat % 16)) 4))

/-- R309: ring.rel, a release first. -/
def execRingRel (h : Hdr) (f : FmtE) (s : State) : Out :=
  let act := s.active h
  let j := f.handle.toNat % 16
  let w := s.curWg
  let r := s.ring w j
  .next (
    if act = 0 then s.retireSeq h
    else if !r.inited then s.raise h act cBUF (bufTvUninit j)
    else if r.slot r.rel ≠ 3 then s.raise h act cBUF (bufTv j r.rel (r.slot r.rel))
    else s.afterRelease h (.ringRel h f) act [] 4 (fun s =>
      (s.modRing w j (fun r => { r with slots := tblPut r.slots r.rel 0, free := r.free + 1, rel := (r.rel + 1) % r.depth })).finish8 h))

/-- R308: the slot that buf.wait and buf.set name. -/
def State.bufSlot (s : State) (h : Hdr) (f : FmtE) (r : Ring) : Nat :=
  (f.par.toNat % 64 + (if f.a = 0x1FE then 0 else (s.selWord (s.lowLane h) f.a.toNat).toNat)) % r.depth

/-- The operand of buf.wait and buf.set. -/
def bufSrcs (f : FmtE) : List Src := if f.a = 0x1FE then [] else [.reg f.a.toNat]

/-- R309: buf.wait. -/
def execBufWait (h : Hdr) (f : FmtE) (s : State) : Out :=
  let act := s.active h
  let i := Instr.bufWait h f
  let j := f.handle.toNat % 16
  let st := bits f.par.toNat 7 6
  .next (
    if s.cur.nums.contains 7 then (s.doneNow h).retireSeq h
    else if s.cur.nums.contains 8 then (if st = 2 then s.acquireDone h i 4 else (s.doneNow h).retireSeq h)
    else s.lowOperands h i act (bufSrcs f) [] (fun s =>
      let r := s.ring s.curWg j
      if act = 0 then s.retireSeq h
      else if !r.inited then s.raise h act cBUF (bufTvUninit j)
      else
        let m := s.bufSlot h f r
        if r.slot m = st then (if st = 2 then s.acquireDone h i 4 else (s.doneNow h).retireSeq h)
        else (s.carry [8]).waitActive h i (.bufState j m st) 4))

/-- Table 18-2: whether buf.set may move slot m to a state, and the ring after it. -/
def Ring.setTo (r : Ring) (m st : Nat) : Option Ring :=
  match st with
  | 1 => if r.slot m = 0 && m = r.fill then some { r with slots := tblPut r.slots m 1, free := r.free - 1, fill := (r.fill + 1) % r.depth, bySet := m :: r.bySet } else none
  | 2 => if r.slot m = 1 && r.bySet.contains m then some { r with slots := tblPut r.slots m 2, filled := r.filled + 1, bySet := r.bySet.filter (· ≠ m) } else none
  | 0 => if r.slot m = 3 && m = r.rel then some { r with slots := tblPut r.slots m 0, free := r.free + 1, rel := (r.rel + 1) % r.depth } else none
  | _ => none

/-- R309: buf.set; to free or full a release first. -/
def execBufSet (h : Hdr) (f : FmtE) (s : State) : Out :=
  let act := s.active h
  let i := Instr.bufSet h f
  let j := f.handle.toNat % 16
  let st := bits f.par.toNat 7 6
  .next (s.lowOperands h i act (bufSrcs f) [] (fun s =>
    let r := s.ring s.curWg j
    if act = 0 then s.retireSeq h
    else if !r.inited then s.raise h act cBUF (bufTvUninit j)
    else
      let m := s.bufSlot h f r
      match r.setTo m st with
      | none => s.raise h act cBUF (bufTv j m (r.slot m))
      | some r' =>
        if st = 1 then (s.modRing s.curWg j (fun _ => r')).finish8 h
        else s.afterRelease h i act (bufSrcs f) 4 (fun s => (s.modRing s.curWg j (fun _ => r')).finish8 h)))

end Sys2Proof.Machine
end

