-- ==== Sys2Proof/Machine/Matrix.lean ====
section
/-! DEFINITION. The matrix engine (R311-R331) and its arithmetic (R89-R91). -/

namespace Sys2Proof.Machine

/-! ### Arithmetic (R89-R91) -/

/-- An exact value rounded to binary32 by rn; none is the canonical NaN (R91). -/
def roundVal (v : Option FVal) : Nat :=
  match v with
  | some (.fin n m e) => (fmt32.round 0 0 false n m e).bits
  | some (.inf n) => (fmt32.ofInf 0 false n).bits
  | _ => fmt32.canon

/-- The exact product of several data, none where one is NaN or 0 meets an infinity. -/
def productOf (l : List FVal) : Option FVal :=
  l.foldl (fun a v => a.bind (fun x => if x.isNan || v.isNan then none else mulVals x v)) (some (.fin false 1 0))

/-- The rounded sum of two data, the canonical NaN for NaN and for inf - inf. -/
def sumOf (x y : Option FVal) : Nat :=
  match x, y with
  | some a, some b => if a.isNan || b.isNan then fmt32.canon else ((fmt32.addVals 0 a b).map FRes.bits).getD fmt32.canon
  | _, _ => fmt32.canon

/-- R89: the exact sum of E4M3 products, in units of 2^-18; none where an element is NaN. -/
def exactSum (a b : List Nat) : Option Int :=
  (a.zip b).foldl (fun s p => s.bind (fun x =>
    match fmtE4m3.decode p.1, fmtE4m3.decode p.2 with
    | .fin n1 m1 e1, .fin n2 m2 e2 =>
      let m : Int := (m1 * 2 ^ (e1 + 9).toNat * (m2 * 2 ^ (e2 + 9).toNat) : Nat)
      some (if n1 == n2 then x + m else x - m)
    | _, _ => none)) (some 0)

/-- R90: one level of the pairwise tree, each node rounded. -/
def sumLevel (l : List (Option FVal)) : List (Option FVal) :=
  match l with
  | x :: y :: r => some (fmt32.decode (sumOf x y)) :: sumLevel r
  | r => r

/-- R89, R90: t of one element and chunk: format 0 E4M3, 1 BF16. -/
def chunkTerm (format : Nat) (a b : List Nat) (sa sb : Nat) : Nat :=
  let v := fmt32.decode sa
  let w := fmt32.decode sb
  if format = 0 then
    roundVal ((exactSum a b).bind (fun p => productOf [.fin (decide (p < 0)) p.natAbs (-18), v, w]))
  else
    let x := (a.zip b).map (fun p => productOf [fmtBf16.decode p.1, fmtBf16.decode p.2])
    let t := ((List.range 6).foldl (fun l _ => sumLevel l) x).headD none
    roundVal (t.bind (fun t => productOf [t, v, w]))

/-- R89: the accumulator after a chunk. -/
def accStep (overwrite first : Bool) (acc t : Nat) : Nat :=
  if overwrite && first then t else sumOf (some (fmt32.decode acc)) (some (fmt32.decode t))

/-! ### Blocks and slots (R314-R316) -/

/-- Table 19-4: fields of the control word. -/
def ctlFormat (c : Word) : Nat := c.toNat % 4
def ctlChunks (c : Word) : Nat := bits c.toNat 4 2 + 1
def ctlBank (c : Word) : Nat := bits c.toNat 6 5
def ctlSaAbsent (c : Word) : Bool := bit c.toNat 14
def ctlSbAbsent (c : Word) : Bool := bit c.toNat 15

/-- R314: an element of a slot. -/
def slotElem (d : Tbl Byte) (E Lr r c sw : Nat) : Nat :=
  leNat (tabBytes d (r * Lr + 16 * ((c * E / 16) ^^^ (r % 2 ^ sw)) + c * E % 16) E)

/-- Table 19-2: elements of the A and B chunks. -/
def chunkA (c : Word) (d : Tbl Byte) (i k : Nat) : Nat :=
  let E := if ctlFormat c = 0 then 1 else 2
  if bit c.toNat 8 then slotElem d E (128 * E) k i (bits c.toNat 11 10) else slotElem d E 128 i k (bits c.toNat 11 10)
def chunkB (c : Word) (d : Tbl Byte) (k j : Nat) : Nat :=
  let E := if ctlFormat c = 0 then 1 else 2
  if bit c.toNat 9 then slotElem d E 128 j k (bits c.toNat 13 12) else slotElem d E (128 * E) k j (bits c.toNat 13 12)

/-- A word of a block. -/
def blockWord (b : List Byte) (off : Nat) : Word := BitVec.ofNat 32 (leNat ((b.drop off).take 4))
def blockByte (b : List Byte) (off : Nat) : Nat := (b.getD off 0).toNat

/-- R317: one element of the bank after the first n chunks of an operation (assumption log 22). -/
def State.mmaElem (s : State) (core : Nat) (o : MmaOp) (n acc i j : Nat) : Nat :=
  let K := if ctlFormat o.control = 0 then 128 else 64
  (List.range n).foldl (fun acc kc =>
    let a := (s.opmSlot core (o.aslots.getD kc (0, 0)).1).data
    let b := (s.opmSlot core (o.bslots.getD kc (0, 0)).1).data
    let sa := if ctlSaAbsent o.control then 0x3F800000 else (o.sa.getD (128 * kc + i) 0).toNat
    let sb := if ctlSbAbsent o.control then 0x3F800000 else (o.sb.getD kc 0).toNat
    accStep (bit o.control.toNat 7) (kc == 0) acc
      (chunkTerm (ctlFormat o.control) ((List.range K).map (fun k => chunkA o.control a i k)) ((List.range K).map (fun k => chunkB o.control b k j)) sa sb)) acc

def State.bank (s : State) (core n : Nat) : Bank := tblGet {} (s.core core).banks n
def State.modBank (s : State) (core n : Nat) (f : Bank → Bank) : State :=
  s.modCore core (fun c => { c with banks := tblPut c.banks n (f (tblGet {} c.banks n)) })

/-- R313, R329: every element of a bank is written. -/
def State.writeBank (s : State) (core n : Nat) (elems : Tbl Word) : State :=
  ((s.noteFirst (s.bank core n).holder [(4, n, 0)]).modBank core n (fun b => { b with elems := elems })).mend (fun b => b.unit == uBANK && b.index == core && b.loc / 65536 == n)

/-- R322: the first chunk of an operation that reads an uncorrectable codeword, of a slot or, where chunk 0 adds to it, of the bank. -/
def State.badChunk (s : State) (core : Nat) (o : MmaOp) : Option (Nat × Bad) :=
  (List.range (ctlChunks o.control)).findSome? (fun kc =>
    let slot (l : List (Nat × Nat)) : Option Bad := s.badIn uOPM core (16384 * (l.getD kc (0, 0)).1) 16384
    let bank := if kc = 0 && !bit o.control.toNat 7 then s.badIn uBANK core (65536 * o.banks.headD 0) 65536 else none
    (((slot o.aslots).or (slot o.bslots)).or bank).map (fun b => (kc, b)))

/-- R322: the chunks an operation applies. -/
def State.chunksDone (s : State) (core : Nat) (o : MmaOp) : Nat := ((s.badChunk core o).map (fun x => x.1)).getD (ctlChunks o.control)

/-- R317: the elements of a bank once the first n chunks of an operation are applied to it. -/
def State.mmaBank (s : State) (core : Nat) (o : MmaOp) (n : Nat) : Tbl Word :=
  let old := (s.bank core (o.banks.headD 0)).elems
  (List.range 16384).filterMap (fun e =>
    let v := BitVec.ofNat 32 (s.mmaElem core o n (tblGet 0 old e).toNat (e / 128) (e % 128))
    if v = 0 then none else some (e, v))

/-- R311: units held by a workgroup. -/
def State.holdsSlot (s : State) (core w n : Nat) : Bool := n < 32 && (s.opmSlot core n).st ≠ 0 && (s.opmSlot core n).holder = w
def State.holdsBank (s : State) (core w n : Nat) : Bool := n < 4 && (s.bank core n).held && (s.bank core n).holder = w

/-! ### opm.claim and opm.rel (R324, R325) -/

/-- R324: the lowest run of n free units of a kind. -/
def State.freeRun (s : State) (core kind n : Nat) : Option Nat :=
  let free (u : Nat) : Bool := if kind = 0 then (s.opmSlot core u).st = 0 else !(s.bank core u).held
  (List.range ((if kind = 0 then 32 else 4) + 1 - n)).find? (fun b => (List.range n).all (fun j => free (b + j)))

/-- R324: whether a claim is first of its kind and its run exists. -/
def State.claimReady (s : State) (core id : Nat) : Bool :=
  match (s.core core).claims.find? (fun c => c.id = id) with
  | none => true
  | some c => ((s.core core).claims.find? (fun d => d.kind = c.kind)) = some c && (s.freeRun core c.kind c.n).isSome

/-- R311, R313: units b to b + n - 1 are taken; banks are zeroed. -/
def State.takeUnits (s : State) (core w kind b n : Nat) : State :=
  (List.range n).foldl (fun s j =>
    if kind = 0 then s.modOpm core (b + j) (fun o => { o with st := 1, holder := w, waiting := 0 })
    else (s.modBank core (b + j) (fun x => { x with held := true, holder := w })).writeBank core (b + j) []) s

/-- R324, R394: opm.claim. -/
def execOpmClaim (h : Hdr) (f : FmtE) (s : State) : Out :=
  let act := s.active h
  let kind := bits f.par.toNat 6 6
  let n := f.par.toNat % 64
  let core := s.cur.core
  let take (s : State) : State :=
    match s.freeRun core kind n with
    | none => s
    | some b =>
      let k := s.cur
      let s1 := s.takeUnits core s.curWg kind b n
      let p : Pend := { core := k.core, slot := k.slot, kind := 5, path := k.path, lanes := k.lanes, act := act, pos := k.pos, tok := h.tok.toNat, writes := ((lanesOf act).map (fun l => laneWrites l f.a.toNat false b false)).flatten }
      (((s1.noteLoads s.curWg [BitVec.ofNat 64 b]).takeToken h).pendFixed 8 p).retireSeq h
  .next (s.withOperands h (.opmClaim h f) act [] (dstRegs f.a.toNat false) [] stayNone 0 (fun s =>
    if s.cur.phase > 0 then
      take (s.modCore core (fun c => { c with claims := c.claims.filter (fun d => d.id ≠ s.cur.nums.headD 0) }))
    else if act = 0 then s.retireSeq h
    else if (s.core core).claims.all (fun d => d.kind ≠ kind) && (s.freeRun core kind n).isSome then take s
    else
      let s1 := (s.modCore core (fun c => { c with claims := c.claims ++ [⟨s.fresh, s.curWg, kind, n⟩] })).carry [s.fresh]
      s1.tickFresh.waitActive h (.opmClaim h f) (.claim s.fresh) 4))

/-- R325, Table 19-1: whether units can be given back. -/
def State.unitsIdle (s : State) (core kind b n : Nat) : Bool :=
  (List.range n).all (fun j =>
    if kind = 0 then
      let o := s.opmSlot core (b + j)
      o.st ≠ 2 && o.waiting = 0 && !(s.core core).mq.any (fun x => (x.aslots ++ x.bslots).any (fun y => y.1 = b + j))
    else !(s.core core).mq.any (fun x => x.banks.contains (b + j)))

/-- R325: units are free again. -/
def State.freeUnits (s : State) (core kind b n : Nat) : State :=
  (List.range n).foldl (fun s j =>
    if kind = 0 then s.modOpm core (b + j) (fun o => { o with st := 0 }) else s.modBank core (b + j) (fun _ => {})) s

/-- Table 20-1, R330: sr.tvalue of OPM. -/
def opmTv (reason unit : Nat) : Long := BitVec.ofNat 64 (reason + 256 * (unit % 256))

/-- R325: opm.rel. -/
def execOpmRel (h : Hdr) (f : FmtE) (s : State) : Out :=
  let act := s.active h
  let kind := bits f.par.toNat 6 6
  let n := f.par.toNat % 64
  let core := s.cur.core
  .next (s.lowOperands h (.opmRel h f) act [.reg f.a.toNat] [] (fun s =>
    if act = 0 then s.retireSeq h
    else if s.cur.nums.length = 2 then (s.freeUnits core kind (s.cur.nums.headD 0) n).finish8 h
    else
      let b := (s.selWord (s.lowLane h) f.a.toNat).toNat
      if b + n > (if kind = 0 then 32 else 4) then s.raise h act cOPM (opmTv 5 b)
      else match (List.range n).find? (fun j => !(if kind = 0 then s.holdsSlot core s.curWg (b + j) else s.holdsBank core s.curWg (b + j))) with
        | some j => s.raise h act cOPM (opmTv 1 (b + j))
        | none =>
          if s.unitsIdle core kind b n then (s.freeUnits core kind b n).finish8 h
          else (s.carry [b, n]).waitActive h (.opmRel h f) (.release kind b n) 4))

/-! ### mma (R315, R318, R319, R326) -/

/-- R315, Table 19-9, reason 2: the chunk of a malformed block. -/
def badBlock (b : List Byte) : Option Nat :=
  let c := blockWord b 0
  let nk := ctlChunks c
  if bits c.toNat 31 16 ≠ 0 || ctlFormat c ≥ 2 || blockWord b 12 ≠ 0 || (List.range 32).any (fun j => blockByte b (32 + j) ≠ 0) then some 0
  else (List.range 8).find? (fun kc =>
    if kc < nk then blockByte b (16 + kc) > 31 || blockByte b (24 + kc) > 31 else blockByte b (16 + kc) ≠ 0 || blockByte b (24 + kc) ≠ 0)

/-- R316: the present scale arrays: offset and length. -/
def scaleArrays (b : List Byte) : List (Nat × Nat) :=
  let c := blockWord b 0
  let nk := ctlChunks c
  (if ctlSaAbsent c then [] else [((blockWord b 4).toNat, 512 * nk)]) ++ (if ctlSbAbsent c then [] else [((blockWord b 8).toNat, 4 * nk)])

/-- Table 19-8: what is wrong with a block: a fault, or a codeword that is uncorrectable. -/
inductive BlockFault where
  | fault (code : Nat) (tv : Long)
  | bad (b : Bad)
  deriving DecidableEq, Repr

/-- Table 19-8, orders 3 to 7, for a block offset: the fault, or the block. -/
def State.blockCheck (s : State) (w off : Nat) : Except BlockFault (List Byte) :=
  let x := s.wg w
  let core := x.core
  let err (code : Nat) (tv : Long) : Except BlockFault (List Byte) := .error (.fault code tv)
  if off % 64 ≠ 0 then err cMISALIGN (BitVec.ofNat 64 off)
  else if off + 64 > x.spSize || off ≥ 2 ^ 19 then err cACCESS (BitVec.ofNat 64 off)
  else
    let b := tabBytes x.sp off 64
    let c := blockWord b 0
    let reads := (off, 64) :: scaleArrays b
    if reads.any (fun a => s.destLocked w a.1 a.2) then err cRANGE (BitVec.ofNat 64 off)
    else match reads.findSome? (fun a => s.badIn uSCRATCH core (x.spBase + a.1) a.2) with
      | some b => .error (.bad b)
      | none => match badBlock b with
        | some kc => err cOPM (opmTv 2 kc)
        | none =>
          let used := ((List.range (ctlChunks c)).map (fun kc => [blockByte b (16 + kc), blockByte b (24 + kc)])).flatten
          match used.find? (fun n => !s.holdsSlot core w n) with
          | some n => err cOPM (opmTv 1 n)
          | none =>
            if !s.holdsBank core w (ctlBank c) then err cOPM (opmTv 1 (ctlBank c))
            else if (scaleArrays b).any (fun a => a.1 % 4 ≠ 0 || a.1 + a.2 > x.spSize) then err cOPM (opmTv 3 0)
            else .ok b

/-- R319, Table 19-5: the contents a slot is bound to. -/
def State.boundVersion (s : State) (core n : Nat) : Nat :=
  let o := s.opmSlot core n
  if o.st = 3 && o.waiting = 0 then o.version else o.version + 1

/-- R318, R319: an operation enters the queue with its scales read and its slots bound. -/
def State.acceptMma (s : State) (core slot lane w : Nat) (b : List Byte) : State :=
  let c := blockWord b 0
  let sp := (s.wg w).sp
  let words (off n : Nat) : List Word := (List.range n).map (fun j => BitVec.ofNat 32 (leNat (tabBytes sp (off + 4 * j) 4)))
  let bound (off : Nat) : List (Nat × Nat) := (List.range (ctlChunks c)).map (fun kc => (blockByte b (off + kc), s.boundVersion core (blockByte b (off + kc))))
  let o : MmaOp := { id := s.fresh, kind := 0, wg := w, slot := slot, lane := lane, banks := [ctlBank c], control := c, aslots := bound 16, bslots := bound 24, sa := if ctlSaAbsent c then [] else words (blockWord b 4).toNat (128 * ctlChunks c), sb := if ctlSbAbsent c then [] else words (blockWord b 8).toNat (ctlChunks c), block := b }
  (s.modCore core (fun k => { k with mq := k.mq ++ [o] })).tickFresh

/-- R326: mma: its threads wait while their lanes are accepted in ascending order; an operand that failed is raised in its lane's turn. -/
def execMma (h : Hdr) (f : FmtE) (s : State) : Out :=
  let act := s.active h
  let i := Instr.mma h f
  .next (
    if s.cur.nums = [9] then (s.doneNow h).retireSeq h
    else s.withOperandsLate h i act [.reg f.a.toNat] [] [] stayNone 0 id (fun s =>
      if act = 0 then s.retireSeq h
      else
        let off := (s.selWord (s.lowLane h) f.a.toNat).toNat
        let nk := ctlChunks (BitVec.ofNat 32 (leNat (tabBytes (s.wg s.curWg).sp off 4)))
        let s1 := (((s.beginWait h).capture act (srcRegs [.reg f.a.toNat])).carry (lanesOf act))
        (s1.waitActive h i .event 4).inCycles s.cur.core (8 + 2 * nk) (.mmaAccept s.cur.core s.cur.slot s1.fresh)))

/-- R318, R326: MMA_ACCEPT: the next lane of the mma that waits is checked and accepted once one of the 8 entries is free. -/
def execMmaAccept (core slot id : Nat) (s : State) : Out :=
  match (s.group core slot).waits.find? (fun w => w.id = id) with
  | none => .next s
  | some w =>
    match w.iss.nums, w.instr with
    | l :: rest, .mma h f =>
      let s0 := { s with cur := w.iss }
      let wg := s.wgOf core slot
      let off := (s0.selWord l f.a.toNat).toNat
      let gone (s : State) : State := s.modGroup core slot (fun g => { g with waits := g.waits.filter (fun x => x.id ≠ id) })
      (match crossFail (w.iss.failed.filter (fun x => x.lane = l)) with
      | some x => .next ((gone s0).raiseCross h (s0.active h) x)
      | none => match s0.blockCheck wg off with
        | .error (.fault code tv) => .next ((gone s0).raise h (s0.active h) code tv)
        | .error (.bad b) => .next ((gone s0).raiseBad h (s0.active h) b)
        | .ok b =>
          if ((s.core core).mq.filter (fun o => o.kind = 0)).length ≥ 8 then .next (s.again (.mmaAccept core slot id))
          else
            let s1 := s0.acceptMma core slot l wg b
            if rest.isEmpty then .next (s1.endWaitWith core slot id [9])
            else
              let s2 := s1.modGroup core slot (fun g => { g with waits := g.waits.map (fun x => if x.id = id then { x with iss := { x.iss with nums := rest } } else x) })
              .next (s2.inCycles core (8 + 2 * ctlChunks (blockWord b 0)) (.mmaAccept core slot id)))
    | _, _ => .next s

/-! ### acc.ld, acc.clr, mma.wait (R327-R329) -/

/-- R327: mma.wait: it waits for the matrix operations that mma has submitted (R318, R326; assumption log 22). -/
def execMmaWait (h : Hdr) (f : FmtE) (s : State) : Out :=
  let act := s.active h
  let ids := ((s.core s.cur.core).mq.filter (fun o => o.kind = 0 && o.wg = s.curWg && o.banks.any (fun b => bit f.par.toNat b))).map MmaOp.id
  .next (if s.cur.phase > 0 then (s.doneNow h).retireSeq h
    else if act = 0 || ids.isEmpty then s.retireSeq h
    else s.waitActive h (.mmaWait h f) (.gone ids []) 7)

/-- R328: the position word of a lane: row, first column, bank. -/
def accRow (w : Word) : Nat := bits w.toNat 6 0
def accCol (w : Word) : Nat := bits w.toNat 14 8
def accBank (w : Word) : Nat := bits w.toNat 17 16

/-- R328: acc.ld is accepted for every bank its lanes name; the position words are kept in the operation's scales, and with its result
(R322). -/
def execAccLd (h : Hdr) (f : FmtE) (s : State) : Out :=
  let act := s.active h
  let n := f.par.toNat % 64 + 1
  let dst := f.b.toNat
  .next (s.withOperands h (.accLd h f) act [.reg f.a.toNat] ((List.range n).map (fun j => dst + j)) [] stayNone 0 (fun s =>
    let k := s.cur
    let w (l : Nat) : Word := s.selWord l f.a.toNat
    let bad := (lanesOf act).findSome? (fun l =>
      if !s.holdsBank k.core s.curWg (accBank (w l)) then some (opmTv 1 (accBank (w l)))
      else if accCol (w l) + n > 128 then some (opmTv 4 (accBank (w l))) else none)
    match bad with
    | some tv => s.raise h act cOPM tv
    | none =>
      if act = 0 then s.retireSeq h
      else
        let ls := lanesOf act
        let id := s.fresh
        let o : MmaOp := { id := id, kind := 2, wg := s.curWg, slot := k.slot, lane := n, banks := (ls.map (fun l => accBank (w l))).eraseDups, sa := ls.map w, sb := ls.map (fun l => BitVec.ofNat 32 l) }
        let p : Pend := { core := k.core, slot := k.slot, kind := 5, path := k.path, lanes := k.lanes, act := act, pos := k.pos, tok := h.tok.toNat, wait := 1, dst := dst, eas := ls.map (fun l => (l, (w l).setWidth 64)), writes := (ls.map (fun l => (List.range n).map (fun j => (⟨l, dst + j, 0, false⟩ : LaneWrite)))).flatten }
        ((s.takeToken h).addPend p).modCore k.core (fun c => { c with mq := c.mq ++ [o] }) |>.retireSeq h))

/-- R329: acc.clr. -/
def execAccClr (h : Hdr) (f : FmtE) (s : State) : Out :=
  let act := s.active h
  .next (s.lowOperands h (.accClr h f) act [.reg f.a.toNat] [] (fun s =>
    let k := s.cur
    let b := (s.selWord (s.lowLane h) f.a.toNat).toNat % 4
    if act = 0 then s.retireSeq h
    else if !s.holdsBank k.core s.curWg b then s.raise h act cOPM (opmTv 1 b)
    else
      let o : MmaOp := { id := s.fresh, kind := 1, wg := s.curWg, slot := k.slot, lane := 0, banks := [b] }
      let p : Pend := { core := k.core, slot := k.slot, kind := 5, path := k.path, lanes := k.lanes, pos := k.pos, tok := h.tok.toNat, wait := 1 }
      ((s.takeToken h).addPend p).modCore k.core (fun c => { c with mq := c.mq ++ [o] }) |>.retireSeq h))

/-! ### The engine (R320) -/

/-- R320: the operations of a queue before one of them. -/
def beforeOp (q : List MmaOp) (o : MmaOp) : List MmaOp := q.takeWhile (fun x => x.id ≠ o.id)

/-- R320: no operation accepted earlier on a bank of an operation is unfinished; an acc.ld that has read its banks holds none back. -/
def bankFree (q : List MmaOp) (o : MmaOp) : Bool :=
  !(beforeOp q o).any (fun x => !(x.kind = 2 && x.running) && x.banks.any (fun b => o.banks.contains b))

/-- R320: whether an operation may go on: on its banks, and with every slot ready with the contents it is bound to. -/
def State.opReady (s : State) (core : Nat) (o : MmaOp) : Bool :=
  bankFree (s.core core).mq o && (o.aslots ++ o.bslots).all (fun x => (s.opmSlot core x.1).st = 3 && (s.opmSlot core x.1).version = x.2)

/-- The operation the engine of a core takes up next: an acc.ld or acc.clr, or, when no mma runs, the oldest mma. -/
def State.nextOp (s : State) (core : Nat) : Option MmaOp :=
  let q := (s.core core).mq
  let busy := q.any (fun o => o.running && o.kind = 0)
  q.find? (fun o => !o.running && s.opReady core o && (o.kind ≠ 0 || !busy))

/-- Table 19-6: the cycles of an mma that applies n chunks. -/
def MmaOp.cycles (o : MmaOp) (n : Nat) : Nat := 16 + (if ctlFormat o.control = 0 then 128 else 256) * n

/-- The operation is under way. -/
def State.startOp (s : State) (core : Nat) (o : MmaOp) (due : Nat) : State :=
  s.modCore core (fun c => { c with mq := c.mq.map (fun x => if x.id = o.id then { x with running := true, due := due } else x) })

/-- R322, R328: what an acc.ld finds in its banks: the words it writes, and the first lane that receives an uncorrectable element. -/
def State.accWrites (s : State) (core dst : Nat) (o : MmaOp) : List LaneWrite :=
  ((o.sa.zip o.sb).map (fun x => (List.range o.lane).map (fun j =>
    (⟨x.2.toNat, dst + j, tblGet 0 (s.bank core (accBank x.1)).elems (128 * accRow x.1 + accCol x.1 + j), false⟩ : LaneWrite)))).flatten
def State.accBad (s : State) (core : Nat) (o : MmaOp) : Option (Nat × Bad) :=
  (o.sa.zip o.sb).findSome? (fun x => (s.badIn uBANK core (65536 * accBank x.1 + 4 * (128 * accRow x.1 + accCol x.1)) (4 * o.lane)).map (fun b => (x.2.toNat, b)))

/-- R320, R322, R328, R329: MMA_START: the engine takes up an operation: an acc.ld reads its banks, an acc.clr clears its bank, an mma runs. Each
stays an operation on its banks until it is complete; one whose result has been taken back (R395) only has its effect on its bank. -/
def execMmaStart (core : Nat) (s : State) : Out :=
  match s.nextOp core with
  | none => .next s
  | some o =>
    match if o.kind ≠ 0 && (tblFind s.pends o.id).isNone then 3 else o.kind with
    | 0 =>
      let n := o.cycles (s.chunksDone core o)
      .next ((s.startOp core o ((s.core core).cycles + n)).inCycles core n (.mmaComplete core))
    | 1 =>
      let s1 := (s.startOp core o 0).writeBank core (o.banks.headD 0) []
      .next ((s1.modPend o.id (fun p => { p with wait := 0 })).inCycles core 4 (.loadCompletion o.id))
    | 3 =>
      let s1 := if o.kind = 1 then s.writeBank core (o.banks.headD 0) [] else s
      .next (s1.modCore core (fun c => { c with mq := c.mq.filter (fun x => x.id ≠ o.id) }))
    | _ =>
      let s1 := (s.startOp core o 0).modPend o.id (fun p => { p with wait := 0, writes := s.accWrites core p.dst o, bad := s.accBad core o })
      .next (s1.inCycles core (8 + (o.lane + 3) / 4) (.loadCompletion o.id))

/-- R317, R320, R322: MMA_COMPLETE: the running mma, once its time has passed, has applied its chunks to its bank, those before an uncorrectable
codeword where it met one, and leaves the queue (assumption log 22). -/
def execMmaComplete (core : Nat) (s : State) : Out :=
  match (s.core core).mq.find? (fun o => o.running && o.kind = 0 && o.due ≤ (s.core core).cycles) with
  | none => .next s
  | some o =>
    let n := s.chunksDone core o
    let s1 := if n = 0 then s else s.writeBank core (o.banks.headD 0) (s.mmaBank core o n)
    let s2 := s1.modCore core (fun c => { c with mq := c.mq.filter (fun x => x.id ≠ o.id) })
    .next (match s.badChunk core o with
      | some x => s2.engineBad o.wg x.2
      | none => s2)

/-- Table 19-10: how many chunks of a running mma have been applied. -/
def State.chunksApplied (s : State) (core : Nat) (o : MmaOp) : Nat :=
  let n := s.chunksDone core o
  if o.running then n - (o.due - (s.core core).cycles + o.cycles 1 - 17) / (o.cycles 1 - 16) else 0

/-- R312, R313, R321: the units of a workgroup that has completed are free. -/
def State.freeAllUnits (s : State) (core w : Nat) : State :=
  let s1 := (List.range 32).foldl (fun s n => if s.holdsSlot core w n then s.modOpm core n (fun o => { o with st := 0, waiting := 0 }) else s) s
  let s2 := (List.range 4).foldl (fun s n => if s.holdsBank core w n then s.modBank core n (fun _ => {}) else s) s1
  s2.modCore core (fun c => { c with claims := c.claims.filter (fun d => d.wg ≠ w) })

end Sys2Proof.Machine
end

