-- ==== Sys2Proof/Machine/Integer.lean ====
section
/-! DEFINITION. The integer, logic and address instructions of class 000 (R93-R110). -/

namespace Sys2Proof.Machine

/-! ### What each operation computes from its source values -/

/-- Source k of an operation. -/
def arg (x : List Nat) (k : Nat) : Nat := x.getD k 0

/-- R99, R76: a result in its type, wrapped or saturated. -/
def resI (ty : Nat) (sat : Bool) (v : Int) : FRes := ⟨writeInt ty (if sat then clampInt ty v else v), 0, false⟩

/-- A plain bit result. -/
def resN (v : Nat) : FRes := ⟨v, 0, false⟩

/-- R99 -/
def addI (ty : Nat) (sat : Bool) (x : List Nat) : FRes := resI ty sat (readInt ty (arg x 0) + readInt ty (arg x 1))
/-- R99 -/
def subI (ty : Nat) (sat : Bool) (x : List Nat) : FRes := resI ty sat (readInt ty (arg x 0) - readInt ty (arg x 1))
/-- R99 -/
def minmaxI (isMax : Bool) (ty : Nat) (x : List Nat) : FRes :=
  let a := readInt ty (arg x 0)
  let b := readInt ty (arg x 1)
  resI ty false (if isMax then (if a ≥ b then a else b) else (if a ≤ b then a else b))
/-- R99 -/
def absdiffI (ty : Nat) (x : List Nat) : FRes := resI 1 false ((readInt ty (arg x 0) - readInt ty (arg x 1)).natAbs)
/-- R99 -/
def absI (ty : Nat) (sat : Bool) (x : List Nat) : FRes := resI ty sat (readInt ty (arg x 0)).natAbs
/-- R99 -/
def negI (ty : Nat) (sat : Bool) (x : List Nat) : FRes := resI ty sat (-(readInt ty (arg x 0)))
/-- R100 -/
def addcI (x : List Nat) : FRes :=
  let t := arg x 0 % 2 ^ 32 + arg x 1 % 2 ^ 32 + arg x 2 % 2
  resN (t % 2 ^ 32 + (if t ≥ 2 ^ 32 then 2 ^ 32 else 0))
/-- R100 -/
def subcI (x : List Nat) : FRes :=
  let t : Int := ((arg x 0 % 2 ^ 32 : Nat) : Int) - ((arg x 1 % 2 ^ 32 : Nat) : Int) - ((arg x 2 % 2 : Nat) : Int)
  resN ((t % (2 ^ 32 : Nat)).toNat + (if t < 0 then 2 ^ 32 else 0))
/-- R101 -/
def mulLoI (ty : Nat) (x : List Nat) : FRes := resI ty false (readInt ty (arg x 0) * readInt ty (arg x 1))
/-- R101 -/
def mulHiI (ty : Nat) (x : List Nat) : FRes := resI ty false (readInt ty (arg x 0) * readInt ty (arg x 1) / (2 ^ 32 : Nat))
/-- R101 -/
def mulWideI (ty : Nat) (x : List Nat) : FRes := resI 3 false (readInt ty (arg x 0) * readInt ty (arg x 1))
/-- R102 -/
def madI (ty : Nat) (sat : Bool) (x : List Nat) : FRes :=
  resI ty sat (readInt ty (arg x 0) * readInt ty (arg x 1) + readInt ty (arg x 2))
/-- R102 -/
def madWideI (ty : Nat) (x : List Nat) : FRes := resI 3 false (readInt ty (arg x 0) * readInt ty (arg x 1) + (arg x 2 : Int))
/-- R102 -/
def sadI (ty : Nat) (x : List Nat) : FRes :=
  resN (((readInt ty (arg x 0) - readInt ty (arg x 1)).natAbs + arg x 2) % 2 ^ 32)
/-- R102: parts of w bits. -/
def dotI (w ty : Nat) (x : List Nat) : FRes :=
  let part (v k : Nat) : Int := if ty = 0 then sext (v / 2 ^ (w * k)) w else ((v / 2 ^ (w * k) % 2 ^ w : Nat) : Int)
  resI ty false ((List.range (32 / w)).foldl (fun t k => t + part (arg x 0) k * part (arg x 1) k) (readInt ty (arg x 2)))
/-- R103 -/
def leaI (x : List Nat) : FRes := resN ((arg x 0 + arg x 1 % 2 ^ 32 * 2 ^ (arg x 2 % 64)) % 2 ^ 64)
/-- R103 -/
def leaDispI (x : List Nat) : FRes := resN ((arg x 0 + arg x 1) % 2 ^ 64)
/-- R103 -/
def add64I (ty : Nat) (sat : Bool) (x : List Nat) : FRes := resI ty sat (readInt ty (arg x 0) + readInt ty (arg x 1))
/-- R103 -/
def sub64I (ty : Nat) (sat : Bool) (x : List Nat) : FRes := resI ty sat (readInt ty (arg x 0) - readInt ty (arg x 1))
/-- R104 -/
def andI (x : List Nat) : FRes := resN (arg x 0 &&& arg x 1)
/-- R104 -/
def orI (x : List Nat) : FRes := resN (arg x 0 ||| arg x 1)
/-- R104 -/
def xorI (x : List Nat) : FRes := resN (arg x 0 ^^^ arg x 1)
/-- R104 -/
def notI (x : List Nat) : FRes := resN (2 ^ 32 - 1 - arg x 0 % 2 ^ 32)
/-- R104 -/
def selI (x : List Nat) : FRes := resN (if arg x 2 % 2 ^ 32 ≠ 0 then arg x 0 else arg x 1)
/-- R104 -/
def movI (x : List Nat) : FRes := resN (arg x 0)
/-- R105: bit k of the result is bit a[k] + 2 b[k] + 4 c[k] of the table. -/
def lop3I (t : Nat) (x : List Nat) : FRes :=
  resN ((List.range 32).foldl (fun r k =>
    r + (t / 2 ^ (bits (arg x 0) k k + 2 * bits (arg x 1) k k + 4 * bits (arg x 2) k k) % 2) * 2 ^ k) 0)
/-- R106 -/
def shlI (x : List Nat) : FRes := resN (if arg x 1 % 2 ^ 32 ≥ 32 then 0 else arg x 0 * 2 ^ (arg x 1 % 2 ^ 32) % 2 ^ 32)
/-- R106 -/
def shrI (x : List Nat) : FRes := resN (if arg x 1 % 2 ^ 32 ≥ 32 then 0 else arg x 0 % 2 ^ 32 / 2 ^ (arg x 1 % 2 ^ 32))
/-- R106 -/
def sarI (x : List Nat) : FRes :=
  let n := min (arg x 1 % 2 ^ 32) 32
  resI 0 false (sext (arg x 0) 32 / (2 ^ n : Nat))
/-- R106 -/
def rotI (x : List Nat) : FRes :=
  let n := arg x 1 % 32
  let a := arg x 0 % 2 ^ 32
  resN ((a * 2 ^ n + a / 2 ^ (32 - n)) % 2 ^ 32)
/-- R106 -/
def shfLI (x : List Nat) : FRes :=
  let y := arg x 1 % 2 ^ 32 * 2 ^ 32 + arg x 0 % 2 ^ 32
  resN (y * 2 ^ (min (arg x 2 % 2 ^ 32) 32) / 2 ^ 32 % 2 ^ 32)
/-- R106 -/
def shfRI (x : List Nat) : FRes :=
  let y := arg x 1 % 2 ^ 32 * 2 ^ 32 + arg x 0 % 2 ^ 32
  resN (y / 2 ^ (min (arg x 2 % 2 ^ 32) 32) % 2 ^ 32)
/-- R107: position and length of a control word. -/
def fieldPos (c : Nat) : Nat := bits c 7 0
def fieldLen (c : Nat) : Nat := min (bits c 15 8) 32
/-- R107: bits from pos up, filled above bit 31 and above the length; with a sign the fill is bit 31, then the top bit taken. -/
def bfeI (signed : Bool) (x : List Nat) : FRes :=
  let a := arg x 0 % 2 ^ 32
  let p := fieldPos (arg x 1)
  let len := fieldLen (arg x 1)
  let src (k : Nat) : Bool := if p + k ≤ 31 then bit a (p + k) else signed && bit a 31
  let fill := len ≠ 0 && signed && src (len - 1)
  resN ((List.range 32).foldl (fun r k => r + bitNat (if k < len then src k else fill) k) 0)
/-- R107 -/
def bfiI (x : List Nat) : FRes :=
  let p := fieldPos (arg x 2)
  let len := fieldLen (arg x 2)
  resN ((List.range 32).foldl (fun r k =>
    r + bitNat (if p ≤ k && k < p + len then bit (arg x 0) (k - p) else bit (arg x 1) k) k) 0)
/-- R108: the width of a bit operation. -/
def bitW (wide : Bool) : Nat := if wide then 64 else 32
/-- R108 -/
def brevI (wide : Bool) (x : List Nat) : FRes :=
  resN ((List.range (bitW wide)).foldl (fun r k => r + bitNat (bit (arg x 0) (bitW wide - 1 - k)) k) 0)
/-- R108 -/
def popcI (wide : Bool) (x : List Nat) : FRes := resN (countOnes (bitW wide) (arg x 0))
/-- R108 -/
def clzI (wide : Bool) (x : List Nat) : FRes := resN (bitW wide - bitLen (arg x 0 % 2 ^ bitW wide))
/-- R108 -/
def ctzI (wide : Bool) (x : List Nat) : FRes :=
  resN (((List.range (bitW wide)).find? (fun k => bit (arg x 0) k)).getD (bitW wide))
/-- R109 -/
def prmtI (x : List Nat) : FRes :=
  let c := arg x 2
  let all := arg x 1 % 2 ^ 32 * 2 ^ 32 + arg x 0 % 2 ^ 32
  let out (k : Nat) : Nat :=
    let y := all / 2 ^ (8 * bits c (3 * k + 2) (3 * k)) % 256
    if bit c (16 + k) then 0 else if bit c (12 + k) then (if y ≥ 128 then 255 else 0) else y
  resN (out 0 + out 1 * 2 ^ 8 + out 2 * 2 ^ 16 + out 3 * 2 ^ 24)
/-- R110, Table 04-4: a condition on two integers. -/
def condI (cc : Nat) (a b : Int) : Bool :=
  match cc with
  | 0 => a == b
  | 1 => a != b
  | 2 => a < b
  | 3 => a ≤ b
  | 4 => a > b
  | _ => a ≥ b
/-- R110 -/
def cmpI (cc ty t : Nat) (x : List Nat) : FRes := resN (if condI cc (readInt ty (arg x 0)) (readInt ty (arg x 1)) then t else 0)

/-! ### Operand forms (R93, R94) -/

/-- R94: the immediate of a format I form: 32 bits, sign-extended for i64 and mov.b64. -/
def immValue (f : FmtI) : Src := .imm (if f.ty = 2 || f.ty = 0xF then f.imm.signExtend 64 else f.imm.setWidth 64)

/-- R103: the displacement of lea. -/
def immDisp (f : FmtI) : Src := .imm (f.imm.signExtend 64)

/-- R94: the register source of a format I form. -/
def immA (f : FmtI) (pair : Bool) : Src := if pair then .pair f.a.toNat else .reg f.a.toNat

end Sys2Proof.Machine

namespace Sys2Proof

open Sys2Proof.Machine

/-- Operand forms of Table 06-3. -/
def FmtA.one (f : FmtA) (home lat : Nat) : Form := { srcs := [srcA f f.a false], home := home, dst := f.dst.toNat, lat := lat }
def FmtA.two (f : FmtA) (home lat : Nat) : Form :=
  { srcs := [srcA f f.a false, srcA f f.b false], home := home, dst := f.dst.toNat, lat := lat }
def FmtA.three (f : FmtA) (home lat : Nat) : Form :=
  { srcs := [srcA f f.a false, srcA f f.b false, srcA f f.c false], home := home, dst := f.dst.toNat, lat := lat }
def FmtA.twoP (f : FmtA) (home lat : Nat) : Form := { f.two home lat with pair := true }
def FmtA.threeP (f : FmtA) (home lat : Nat) : Form := { f.three home lat with pair := true }
def FmtA.madWideForm (f : FmtA) (home lat : Nat) : Form :=
  { srcs := [srcA f f.a false, srcA f f.b false, srcA f f.c true], home := home, dst := f.dst.toNat, pair := true, lat := lat }
def FmtA.leaForm (f : FmtA) (home lat : Nat) : Form :=
  { srcs := [srcA f f.a true, srcA f f.b false, srcA f f.c false], home := home, dst := f.dst.toNat, pair := true, lat := lat }
def FmtA.wide2 (f : FmtA) (home lat : Nat) : Form :=
  { srcs := [srcA f f.a true, srcA f f.b true], home := home, dst := f.dst.toNat, pair := true, lat := lat }
def FmtA.bits1 (f : FmtA) (home lat : Nat) : Form :=
  { srcs := [srcA f f.a (f.ty == 0xF)], home := home, dst := f.dst.toNat, lat := lat }
def FmtA.bits2 (f : FmtA) (home lat : Nat) : Form := { f.bits1 home lat with pair := f.ty == 0xF }
def FmtA.cmpForm (f : FmtA) (home lat : Nat) : Form :=
  { srcs := [srcA f f.a (typeIs64 f.ty.toNat), srcA f f.b (typeIs64 f.ty.toNat)], home := home, dst := f.dst.toNat, lat := lat }
def FmtI.two (f : FmtI) (home lat : Nat) : Form := { srcs := [immA f false, immValue f], home := home, dst := f.dst.toNat, lat := lat }
def FmtI.twoP (f : FmtI) (home lat : Nat) : Form := { f.two home lat with pair := true }
def FmtI.leaImmForm (f : FmtI) (home lat : Nat) : Form :=
  { srcs := [immA f true, immDisp f], home := home, dst := f.dst.toNat, pair := true, lat := lat }
def FmtI.cmpForm (f : FmtI) (home lat : Nat) : Form :=
  { srcs := [immA f (typeIs64 f.ty.toNat), immValue f], home := home, dst := f.dst.toNat, lat := lat }
def FmtI.movImmForm (f : FmtI) (home lat : Nat) : Form :=
  { srcs := [immValue f], home := home, dst := f.dst.toNat, pair := f.ty == 0xF, lat := lat }

end Sys2Proof

namespace Sys2Proof.Machine

/-! ### The instructions -/

/-- R99: add. What it computes. -/
def evalAdd (f : FmtA) : Eval := fun _ _ x => addI f.ty.toNat (f.sat == 1) x

/-- R99: add. -/
def execAdd (h : Hdr) (f : FmtA) (s : State) : Out := .next (s.alu h (.add h f) (f.two 2 4) (evalAdd f))

/-- R94, R99: add with an immediate. What it computes. -/
def evalAddImm (f : FmtI) : Eval := fun _ _ x => addI f.ty.toNat (f.modi == 1) x

/-- R94, R99: add with an immediate. -/
def execAddImm (h : Hdr) (f : FmtI) (s : State) : Out := .next (s.alu h (.addImm h f) (f.two 1 4) (evalAddImm f))

/-- R99: sub. What it computes. -/
def evalSub (f : FmtA) : Eval := fun _ _ x => subI f.ty.toNat (f.sat == 1) x

/-- R99: sub. -/
def execSub (h : Hdr) (f : FmtA) (s : State) : Out := .next (s.alu h (.sub h f) (f.two 2 4) (evalSub f))

/-- R94, R99: sub with an immediate. What it computes. -/
def evalSubImm (f : FmtI) : Eval := fun _ _ x => subI f.ty.toNat (f.modi == 1) x

/-- R94, R99: sub with an immediate. -/
def execSubImm (h : Hdr) (f : FmtI) (s : State) : Out := .next (s.alu h (.subImm h f) (f.two 1 4) (evalSubImm f))

/-- R100: addc. What it computes. -/
def evalAddc (_f : FmtA) : Eval := fun _ _ x => addcI x

/-- R100: addc. -/
def execAddc (h : Hdr) (f : FmtA) (s : State) : Out := .next (s.alu h (.addc h f) (f.threeP 0 4) (evalAddc f))

/-- R100: subc. What it computes. -/
def evalSubc (_f : FmtA) : Eval := fun _ _ x => subcI x

/-- R100: subc. -/
def execSubc (h : Hdr) (f : FmtA) (s : State) : Out := .next (s.alu h (.subc h f) (f.threeP 0 4) (evalSubc f))

/-- R101: mul.lo. What it computes. -/
def evalMulLo (f : FmtA) : Eval := fun _ _ x => mulLoI f.ty.toNat x

/-- R101: mul.lo. -/
def execMulLo (h : Hdr) (f : FmtA) (s : State) : Out := .next (s.alu h (.mulLo h f) (f.two 2 6) (evalMulLo f))

/-- R94, R101: mul.lo with an immediate. What it computes. -/
def evalMulLoImm (f : FmtI) : Eval := fun _ _ x => mulLoI f.ty.toNat x

/-- R94, R101: mul.lo with an immediate. -/
def execMulLoImm (h : Hdr) (f : FmtI) (s : State) : Out := .next (s.alu h (.mulLoImm h f) (f.two 1 6) (evalMulLoImm f))

/-- R101: mul.hi. What it computes. -/
def evalMulHi (f : FmtA) : Eval := fun _ _ x => mulHiI f.ty.toNat x

/-- R101: mul.hi. -/
def execMulHi (h : Hdr) (f : FmtA) (s : State) : Out := .next (s.alu h (.mulHi h f) (f.two 0 6) (evalMulHi f))

/-- R94, R101: mul.hi with an immediate. What it computes. -/
def evalMulHiImm (f : FmtI) : Eval := fun _ _ x => mulHiI f.ty.toNat x

/-- R94, R101: mul.hi with an immediate. -/
def execMulHiImm (h : Hdr) (f : FmtI) (s : State) : Out := .next (s.alu h (.mulHiImm h f) (f.two 0 6) (evalMulHiImm f))

/-- R101: mul.wide. What it computes. -/
def evalMulWide (f : FmtA) : Eval := fun _ _ x => mulWideI f.ty.toNat x

/-- R101: mul.wide. -/
def execMulWide (h : Hdr) (f : FmtA) (s : State) : Out := .next (s.alu h (.mulWide h f) (f.twoP 0 6) (evalMulWide f))

/-- R94, R101: mul.wide with an immediate. What it computes. -/
def evalMulWideImm (f : FmtI) : Eval := fun _ _ x => mulWideI f.ty.toNat x

/-- R94, R101: mul.wide with an immediate. -/
def execMulWideImm (h : Hdr) (f : FmtI) (s : State) : Out := .next (s.alu h (.mulWideImm h f) (f.twoP 0 6) (evalMulWideImm f))

/-- R102: mad. What it computes. -/
def evalMad (f : FmtA) : Eval := fun _ _ x => madI f.ty.toNat (f.sat == 1) x

/-- R102: mad. -/
def execMad (h : Hdr) (f : FmtA) (s : State) : Out := .next (s.alu h (.mad h f) (f.three 0 6) (evalMad f))

/-- R102: mad.wide. What it computes. -/
def evalMadWide (f : FmtA) : Eval := fun _ _ x => madWideI f.ty.toNat x

/-- R102: mad.wide. -/
def execMadWide (h : Hdr) (f : FmtA) (s : State) : Out := .next (s.alu h (.madWide h f) (f.madWideForm 0 6) (evalMadWide f))

/-- R99: min. What it computes. -/
def evalMinI (f : FmtA) : Eval := fun _ _ x => minmaxI false f.ty.toNat x

/-- R99: min. -/
def execMinI (h : Hdr) (f : FmtA) (s : State) : Out := .next (s.alu h (.minI h f) (f.two 2 4) (evalMinI f))

/-- R94, R99: min with an immediate. What it computes. -/
def evalMinImm (f : FmtI) : Eval := fun _ _ x => minmaxI false f.ty.toNat x

/-- R94, R99: min with an immediate. -/
def execMinImm (h : Hdr) (f : FmtI) (s : State) : Out := .next (s.alu h (.minImm h f) (f.two 1 4) (evalMinImm f))

/-- R99: max. What it computes. -/
def evalMaxI (f : FmtA) : Eval := fun _ _ x => minmaxI true f.ty.toNat x

/-- R99: max. -/
def execMaxI (h : Hdr) (f : FmtA) (s : State) : Out := .next (s.alu h (.maxI h f) (f.two 2 4) (evalMaxI f))

/-- R94, R99: max with an immediate. What it computes. -/
def evalMaxImm (f : FmtI) : Eval := fun _ _ x => minmaxI true f.ty.toNat x

/-- R94, R99: max with an immediate. -/
def execMaxImm (h : Hdr) (f : FmtI) (s : State) : Out := .next (s.alu h (.maxImm h f) (f.two 1 4) (evalMaxImm f))

/-- R99: abs. What it computes. -/
def evalAbs (f : FmtA) : Eval := fun _ _ x => absI f.ty.toNat (f.sat == 1) x

/-- R99: abs. -/
def execAbs (h : Hdr) (f : FmtA) (s : State) : Out := .next (s.alu h (.abs h f) (f.one 0 4) (evalAbs f))

/-- R99: neg. What it computes. -/
def evalNeg (f : FmtA) : Eval := fun _ _ x => negI f.ty.toNat (f.sat == 1) x

/-- R99: neg. -/
def execNeg (h : Hdr) (f : FmtA) (s : State) : Out := .next (s.alu h (.neg h f) (f.one 0 4) (evalNeg f))

/-- R99: absdiff. What it computes. -/
def evalAbsdiff (f : FmtA) : Eval := fun _ _ x => absdiffI f.ty.toNat x

/-- R99: absdiff. -/
def execAbsdiff (h : Hdr) (f : FmtA) (s : State) : Out := .next (s.alu h (.absdiff h f) (f.two 0 4) (evalAbsdiff f))

/-- R102: sad. What it computes. -/
def evalSad (f : FmtA) : Eval := fun _ _ x => sadI f.ty.toNat x

/-- R102: sad. -/
def execSad (h : Hdr) (f : FmtA) (s : State) : Out := .next (s.alu h (.sad h f) (f.three 0 6) (evalSad f))

/-- R102: dp4. What it computes. -/
def evalDp4 (f : FmtA) : Eval := fun _ _ x => dotI 8 f.ty.toNat x

/-- R102: dp4. -/
def execDp4 (h : Hdr) (f : FmtA) (s : State) : Out := .next (s.alu h (.dp4 h f) (f.three 0 6) (evalDp4 f))

/-- R102: dp2. What it computes. -/
def evalDp2 (f : FmtA) : Eval := fun _ _ x => dotI 16 f.ty.toNat x

/-- R102: dp2. -/
def execDp2 (h : Hdr) (f : FmtA) (s : State) : Out := .next (s.alu h (.dp2 h f) (f.three 0 6) (evalDp2 f))

/-- R103: lea. What it computes. -/
def evalLea (_f : FmtA) : Eval := fun _ _ x => leaI x

/-- R103: lea. -/
def execLea (h : Hdr) (f : FmtA) (s : State) : Out := .next (s.alu h (.lea h f) (f.leaForm 0 4) (evalLea f))

/-- R94, R103: lea with a displacement. What it computes. -/
def evalLeaImm (_f : FmtI) : Eval := fun _ _ x => leaDispI x

/-- R94, R103: lea with a displacement. -/
def execLeaImm (h : Hdr) (f : FmtI) (s : State) : Out := .next (s.alu h (.leaImm h f) (f.leaImmForm 0 4) (evalLeaImm f))

/-- R103: add64. What it computes. -/
def evalAdd64 (f : FmtA) : Eval := fun _ _ x => add64I f.ty.toNat (f.sat == 1) x

/-- R103: add64. -/
def execAdd64 (h : Hdr) (f : FmtA) (s : State) : Out := .next (s.alu h (.add64 h f) (f.wide2 0 4) (evalAdd64 f))

/-- R103: sub64. What it computes. -/
def evalSub64 (f : FmtA) : Eval := fun _ _ x => sub64I f.ty.toNat (f.sat == 1) x

/-- R103: sub64. -/
def execSub64 (h : Hdr) (f : FmtA) (s : State) : Out := .next (s.alu h (.sub64 h f) (f.wide2 0 4) (evalSub64 f))

/-- R104: and. What it computes. -/
def evalAndB (_f : FmtA) : Eval := fun _ _ x => andI x

/-- R104: and. -/
def execAndB (h : Hdr) (f : FmtA) (s : State) : Out := .next (s.alu h (.andB h f) (f.two 2 4) (evalAndB f))

/-- R94, R104: and with an immediate. What it computes. -/
def evalAndImm (_f : FmtI) : Eval := fun _ _ x => andI x

/-- R94, R104: and with an immediate. -/
def execAndImm (h : Hdr) (f : FmtI) (s : State) : Out := .next (s.alu h (.andImm h f) (f.two 1 4) (evalAndImm f))

/-- R104: or. What it computes. -/
def evalOrB (_f : FmtA) : Eval := fun _ _ x => orI x

/-- R104: or. -/
def execOrB (h : Hdr) (f : FmtA) (s : State) : Out := .next (s.alu h (.orB h f) (f.two 2 4) (evalOrB f))

/-- R94, R104: or with an immediate. What it computes. -/
def evalOrImm (_f : FmtI) : Eval := fun _ _ x => orI x

/-- R94, R104: or with an immediate. -/
def execOrImm (h : Hdr) (f : FmtI) (s : State) : Out := .next (s.alu h (.orImm h f) (f.two 1 4) (evalOrImm f))

/-- R104: xor. What it computes. -/
def evalXorB (_f : FmtA) : Eval := fun _ _ x => xorI x

/-- R104: xor. -/
def execXorB (h : Hdr) (f : FmtA) (s : State) : Out := .next (s.alu h (.xorB h f) (f.two 2 4) (evalXorB f))

/-- R94, R104: xor with an immediate. What it computes. -/
def evalXorImm (_f : FmtI) : Eval := fun _ _ x => xorI x

/-- R94, R104: xor with an immediate. -/
def execXorImm (h : Hdr) (f : FmtI) (s : State) : Out := .next (s.alu h (.xorImm h f) (f.two 1 4) (evalXorImm f))

/-- R104: not. What it computes. -/
def evalNotB (_f : FmtA) : Eval := fun _ _ x => notI x

/-- R104: not. -/
def execNotB (h : Hdr) (f : FmtA) (s : State) : Out := .next (s.alu h (.notB h f) (f.one 0 4) (evalNotB f))

/-- R105: lop3; the truth table stands in bits 27:20. What it computes. -/
def evalLop3 (f : FmtA) : Eval := fun _ _ x => lop3I (f.ty.toNat * 16 + f.rnd.toNat * 2 + f.sat.toNat) x

/-- R105: lop3; the truth table stands in bits 27:20. -/
def execLop3 (h : Hdr) (f : FmtA) (s : State) : Out := .next (s.alu h (.lop3 h f) (f.three 0 4) (evalLop3 f))

/-- R106: shl. What it computes. -/
def evalShl (_f : FmtA) : Eval := fun _ _ x => shlI x

/-- R106: shl. -/
def execShl (h : Hdr) (f : FmtA) (s : State) : Out := .next (s.alu h (.shl h f) (f.two 2 4) (evalShl f))

/-- R94, R106: shl with an immediate. What it computes. -/
def evalShlImm (_f : FmtI) : Eval := fun _ _ x => shlI x

/-- R94, R106: shl with an immediate. -/
def execShlImm (h : Hdr) (f : FmtI) (s : State) : Out := .next (s.alu h (.shlImm h f) (f.two 1 4) (evalShlImm f))

/-- R106: shr. What it computes. -/
def evalShr (_f : FmtA) : Eval := fun _ _ x => shrI x

/-- R106: shr. -/
def execShr (h : Hdr) (f : FmtA) (s : State) : Out := .next (s.alu h (.shr h f) (f.two 2 4) (evalShr f))

/-- R94, R106: shr with an immediate. What it computes. -/
def evalShrImm (_f : FmtI) : Eval := fun _ _ x => shrI x

/-- R94, R106: shr with an immediate. -/
def execShrImm (h : Hdr) (f : FmtI) (s : State) : Out := .next (s.alu h (.shrImm h f) (f.two 1 4) (evalShrImm f))

/-- R106: sar. What it computes. -/
def evalSar (_f : FmtA) : Eval := fun _ _ x => sarI x

/-- R106: sar. -/
def execSar (h : Hdr) (f : FmtA) (s : State) : Out := .next (s.alu h (.sar h f) (f.two 0 4) (evalSar f))

/-- R94, R106: sar with an immediate. What it computes. -/
def evalSarImm (_f : FmtI) : Eval := fun _ _ x => sarI x

/-- R94, R106: sar with an immediate. -/
def execSarImm (h : Hdr) (f : FmtI) (s : State) : Out := .next (s.alu h (.sarImm h f) (f.two 0 4) (evalSarImm f))

/-- R106: rot. What it computes. -/
def evalRot (_f : FmtA) : Eval := fun _ _ x => rotI x

/-- R106: rot. -/
def execRot (h : Hdr) (f : FmtA) (s : State) : Out := .next (s.alu h (.rot h f) (f.two 0 4) (evalRot f))

/-- R94, R106: rot with an immediate. What it computes. -/
def evalRotImm (_f : FmtI) : Eval := fun _ _ x => rotI x

/-- R94, R106: rot with an immediate. -/
def execRotImm (h : Hdr) (f : FmtI) (s : State) : Out := .next (s.alu h (.rotImm h f) (f.two 0 4) (evalRotImm f))

/-- R106: shf.l. What it computes. -/
def evalShfL (_f : FmtA) : Eval := fun _ _ x => shfLI x

/-- R106: shf.l. -/
def execShfL (h : Hdr) (f : FmtA) (s : State) : Out := .next (s.alu h (.shfL h f) (f.three 0 4) (evalShfL f))

/-- R106: shf.r. What it computes. -/
def evalShfR (_f : FmtA) : Eval := fun _ _ x => shfRI x

/-- R106: shf.r. -/
def execShfR (h : Hdr) (f : FmtA) (s : State) : Out := .next (s.alu h (.shfR h f) (f.three 0 4) (evalShfR f))

/-- R107: bfe. What it computes. -/
def evalBfe (f : FmtA) : Eval := fun _ _ x => bfeI (f.ty == 0) x

/-- R107: bfe. -/
def execBfe (h : Hdr) (f : FmtA) (s : State) : Out := .next (s.alu h (.bfe h f) (f.two 0 4) (evalBfe f))

/-- R107: bfi. What it computes. -/
def evalBfi (_f : FmtA) : Eval := fun _ _ x => bfiI x

/-- R107: bfi. -/
def execBfi (h : Hdr) (f : FmtA) (s : State) : Out := .next (s.alu h (.bfi h f) (f.three 0 4) (evalBfi f))

/-- R108: brev. What it computes. -/
def evalBrev (f : FmtA) : Eval := fun _ _ x => brevI (f.ty == 0xF) x

/-- R108: brev. -/
def execBrev (h : Hdr) (f : FmtA) (s : State) : Out := .next (s.alu h (.brev h f) (f.bits2 0 4) (evalBrev f))

/-- R108: popc. What it computes. -/
def evalPopc (f : FmtA) : Eval := fun _ _ x => popcI (f.ty == 0xF) x

/-- R108: popc. -/
def execPopc (h : Hdr) (f : FmtA) (s : State) : Out := .next (s.alu h (.popc h f) (f.bits1 0 4) (evalPopc f))

/-- R108: clz. What it computes. -/
def evalClz (f : FmtA) : Eval := fun _ _ x => clzI (f.ty == 0xF) x

/-- R108: clz. -/
def execClz (h : Hdr) (f : FmtA) (s : State) : Out := .next (s.alu h (.clz h f) (f.bits1 0 4) (evalClz f))

/-- R108: ctz. What it computes. -/
def evalCtz (f : FmtA) : Eval := fun _ _ x => ctzI (f.ty == 0xF) x

/-- R108: ctz. -/
def execCtz (h : Hdr) (f : FmtA) (s : State) : Out := .next (s.alu h (.ctz h f) (f.bits1 0 4) (evalCtz f))

/-- R109: prmt. What it computes. -/
def evalPrmt (_f : FmtA) : Eval := fun _ _ x => prmtI x

/-- R109: prmt. -/
def execPrmt (h : Hdr) (f : FmtA) (s : State) : Out := .next (s.alu h (.prmt h f) (f.three 0 4) (evalPrmt f))

/-- R104: sel. What it computes. -/
def evalSel (_f : FmtA) : Eval := fun _ _ x => selI x

/-- R104: sel. -/
def execSel (h : Hdr) (f : FmtA) (s : State) : Out := .next (s.alu h (.sel h f) (f.three 3 4) (evalSel f))

/-- R110: cmp. What it computes. -/
def evalCmp (v : BitVec 5) (f : FmtA) : Eval := fun _ _ x => cmpI v.toNat f.ty.toNat 0xFFFFFFFF x

/-- R110: cmp. -/
def execCmp (h : Hdr) (v : BitVec 5) (f : FmtA) (s : State) : Out := .next (s.alu h (.cmp h v f) (f.cmpForm 0 4) (evalCmp v f))

/-- R94, R110: cmp with an immediate. What it computes. -/
def evalCmpImm (v : BitVec 5) (f : FmtI) : Eval := fun _ _ x => cmpI v.toNat f.ty.toNat 0xFFFFFFFF x

/-- R94, R110: cmp with an immediate. -/
def execCmpImm (h : Hdr) (v : BitVec 5) (f : FmtI) (s : State) : Out := .next (s.alu h (.cmpImm h v f) (f.cmpForm 0 4) (evalCmpImm v f))

/-- R110: setc. What it computes. -/
def evalSetc (v : BitVec 5) (f : FmtA) : Eval := fun _ _ x => cmpI v.toNat f.ty.toNat 1 x

/-- R110: setc. -/
def execSetc (h : Hdr) (v : BitVec 5) (f : FmtA) (s : State) : Out := .next (s.alu h (.setc h v f) (f.cmpForm 0 4) (evalSetc v f))

/-- R94, R110: setc with an immediate. What it computes. -/
def evalSetcImm (v : BitVec 5) (f : FmtI) : Eval := fun _ _ x => cmpI v.toNat f.ty.toNat 1 x

/-- R94, R110: setc with an immediate. -/
def execSetcImm (h : Hdr) (v : BitVec 5) (f : FmtI) (s : State) : Out := .next (s.alu h (.setcImm h v f) (f.cmpForm 0 4) (evalSetcImm v f))

/-- R104: mov; a b32 copy of a proxy runs at its home. What it computes. -/
def evalMov (_f : FmtA) : Eval := fun _ _ x => movI x

/-- R104: mov; a b32 copy of a proxy runs at its home. -/
def execMov (h : Hdr) (f : FmtA) (s : State) : Out := .next (s.alu h (.mov h f) (f.bits2 (if f.ty == 0xE then 1 else 0) 4) (evalMov f))

/-- R94, R104: mov of an immediate. What it computes. -/
def evalMovImm (_f : FmtI) : Eval := fun _ _ x => movI x

/-- R94, R104: mov of an immediate. -/
def execMovImm (h : Hdr) (f : FmtI) (s : State) : Out := .next (s.alu h (.movImm h f) (f.movImmForm 0 4) (evalMovImm f))

end Sys2Proof.Machine
end

