-- ==== Sys2Proof/Machine/Float.lean ====
section
/-! DEFINITION. The float, special-function and conversion instructions of classes 001 and 010 (R111-R125), the events that write
their results (FIXED_LATENCY_WRITE, SPECIAL_FUNCTION_COMPLETION), and the FP trap (R87, R121, R344). -/

namespace Sys2Proof

open Sys2Proof.Machine

/-- Operand forms of Table 07-3. -/
def FmtA.oneP (f : FmtA) (home lat : Nat) : Form := { f.one home lat with pair := true }
def FmtA.wide3 (f : FmtA) (home lat : Nat) : Form :=
  { srcs := [srcA f f.a true, srcA f f.b true, srcA f f.c true], home := home, dst := f.dst.toNat, pair := true, lat := lat }
def FmtA.cvtForm (f : FmtA) (st home lat : Nat) : Form :=
  { srcs := if f.rnd == 4 then [srcA f f.a (typeIs64 st), srcA f f.b false] else [srcA f f.a (typeIs64 st)],
    home := home, dst := f.dst.toNat, pair := typeIs64 f.ty.toNat, lat := lat }
def FmtA.pk4Form (f : FmtA) (home lat : Nat) : Form :=
  { srcs := if f.rnd == 4 then [srcA f f.a true, srcA f f.b true, srcA f f.c true] else [srcA f f.a true, srcA f f.b true],
    home := home, dst := f.dst.toNat, lat := lat }

end Sys2Proof

namespace Sys2Proof.Machine

/-- R117: fcmp writes all ones or zero. -/
def fcmpRes (r : Bool × BitVec 5) : FRes := ⟨if r.1 then 0xFFFFFFFF else 0, r.2, false⟩

/-- R115: the x2 forms. -/
def halves (f : FFmt) (op : FOp) (mode : Nat) (sat fin fout : Bool) (x : List Nat) : FRes :=
  let r := pairOp (fun a b c => f.arith op mode sat fin fout a b c) (arg x 0) (arg x 1) (arg x 2)
  ⟨r.1, r.2, false⟩

/-- R122: the proxy-capable pairs f32 and bf16, f32 and i32, bf16 and i32. -/
def homeCvt (st dt : Nat) : Bool := [(8, 0xB), (0xB, 8), (8, 0), (0, 8), (0xB, 0), (0, 0xB)].contains (st, dt)

/-- R124: four f32 elements packed; element k takes random bits 16k+15:16k. -/
def pack4 (ty mode : Nat) (sat fin fout : Bool) (x : List Nat) : FRes :=
  let e (k : Nat) : FRes :=
    convert 8 ty mode (arg x 2 / 2 ^ (16 * k)) sat fin fout (arg x (k / 2) / 2 ^ (32 * (k % 2)) % 2 ^ 32)
  ⟨(e 0).bits + (e 1).bits * 2 ^ 8 + (e 2).bits * 2 ^ 16 + (e 3).bits * 2 ^ 24,
    (e 0).flags ||| (e 1).flags ||| (e 2).flags ||| (e 3).flags, false⟩

/-- R125: four bytes unpacked to f16. -/
def unpack4 (ty : Nat) (fin fout : Bool) (a : Nat) : FRes :=
  let e (k : Nat) : FRes := convert ty 0xA 0 0 false fin fout (a / 2 ^ (8 * k) % 256)
  ⟨(e 0).bits + (e 1).bits * 2 ^ 16 + (e 2).bits * 2 ^ 32 + (e 3).bits * 2 ^ 48,
    (e 0).flags ||| (e 1).flags ||| (e 2).flags ||| (e 3).flags, false⟩

/-- R121: a special function issues: its operands cross, its result is under way, and it completes within 40 cycles. -/
def State.special (s : State) (h : Hdr) (i : Instr) (f : FmtA) (ev : Eval) : State :=
  let act := s.active h
  let fm := f.one 0 0
  s.withOperands h i act fm.srcs (dstRegs fm.dst false) [] stayNone 0 (fun s =>
    let k := s.cur
    let p0 : Pend := { core := k.core, slot := k.slot, kind := 1, path := k.path, lanes := k.lanes, act := act, pos := k.pos, tok := h.tok.toNat, fpu := true }
    let (s1, p) := (lanesOf act).foldl (fun a l => State.aluLane fm i ev a l) (s.takeToken h, p0)
    let id := s1.fresh
    ((s1.addPend p).inCycles k.core (1 + Config.latency id % 40) (.specialFunctionCompletion id)).retireSeq h)

/-! ### The instructions -/

/-- R115: fadd. What it computes. -/
def evalFadd (f : FmtA) : Eval := fun i o x => fmt32.arith .add f.rnd.toNat (f.sat == 1) i o (arg x 0) (arg x 1) 0

/-- R115: fadd. -/
def execFadd (h : Hdr) (f : FmtA) (s : State) : Out :=
  .next (s.alu h (.fadd h f) { f.two 2 4 with fpu := true } (evalFadd f))

/-- R115: fsub. What it computes. -/
def evalFsub (f : FmtA) : Eval := fun i o x => fmt32.arith .sub f.rnd.toNat (f.sat == 1) i o (arg x 0) (arg x 1) 0

/-- R115: fsub. -/
def execFsub (h : Hdr) (f : FmtA) (s : State) : Out :=
  .next (s.alu h (.fsub h f) { f.two 0 4 with fpu := true } (evalFsub f))

/-- R115: fmul. What it computes. -/
def evalFmul (f : FmtA) : Eval := fun i o x => fmt32.arith .mul f.rnd.toNat (f.sat == 1) i o (arg x 0) (arg x 1) 0

/-- R115: fmul. -/
def execFmul (h : Hdr) (f : FmtA) (s : State) : Out :=
  .next (s.alu h (.fmul h f) { f.two 2 4 with fpu := true } (evalFmul f))

/-- R115: ffma. What it computes. -/
def evalFfma (f : FmtA) : Eval := fun i o x => fmt32.arith .fma f.rnd.toNat (f.sat == 1) i o (arg x 0) (arg x 1) (arg x 2)

/-- R115: ffma. -/
def execFfma (h : Hdr) (f : FmtA) (s : State) : Out :=
  .next (s.alu h (.ffma h f) { f.three 3 4 with fpu := true } (evalFfma f))

/-- R116: fmin. What it computes. -/
def evalFmin (_f : FmtA) : Eval := fun i o x => fmt32.minMax false i o (arg x 0) (arg x 1)

/-- R116: fmin. -/
def execFmin (h : Hdr) (f : FmtA) (s : State) : Out :=
  .next (s.alu h (.fmin h f) { f.two 2 4 with fpu := true } (evalFmin f))

/-- R116: fmax. What it computes. -/
def evalFmax (_f : FmtA) : Eval := fun i o x => fmt32.minMax true i o (arg x 0) (arg x 1)

/-- R116: fmax. -/
def execFmax (h : Hdr) (f : FmtA) (s : State) : Out :=
  .next (s.alu h (.fmax h f) { f.two 2 4 with fpu := true } (evalFmax f))

/-- R117: fcmp. What it computes. -/
def evalFcmp (v : BitVec 5) (_f : FmtA) : Eval := fun i _o x => fcmpRes (fmt32.compare i v.toNat (arg x 0) (arg x 1))

/-- R117: fcmp. -/
def execFcmp (h : Hdr) (v : BitVec 5) (f : FmtA) (s : State) : Out :=
  .next (s.alu h (.fcmp h v f) { f.two 0 4 with fpu := true } (evalFcmp v f))

/-- R118: fclass. What it computes. -/
def evalFclass (_f : FmtA) : Eval := fun _i _o x => resN (classOf (arg x 0))

/-- R118: fclass. -/
def execFclass (h : Hdr) (f : FmtA) (s : State) : Out :=
  .next (s.alu h (.fclass h f) { f.one 0 4 with fpu := true } (evalFclass f))

/-- R119: frint. What it computes. -/
def evalFrint (f : FmtA) : Eval := fun i _o x => frint f.rnd.toNat i (arg x 0)

/-- R119: frint. -/
def execFrint (h : Hdr) (f : FmtA) (s : State) : Out :=
  .next (s.alu h (.frint h f) { f.one 0 4 with fpu := true } (evalFrint f))

/-- R119: ffrac. What it computes. -/
def evalFfrac (_f : FmtA) : Eval := fun i o x => ffrac i o (arg x 0)

/-- R119: ffrac. -/
def execFfrac (h : Hdr) (f : FmtA) (s : State) : Out :=
  .next (s.alu h (.ffrac h f) { f.one 0 4 with fpu := true } (evalFfrac f))

/-- R119: fscale. What it computes. -/
def evalFscale (f : FmtA) : Eval := fun i o x => fscale f.rnd.toNat i o (arg x 0) (readInt 0 (arg x 1))

/-- R119: fscale. -/
def execFscale (h : Hdr) (f : FmtA) (s : State) : Out :=
  .next (s.alu h (.fscale h f) { f.two 0 4 with fpu := true } (evalFscale f))

/-- R119: fgetexp. What it computes. -/
def evalFgetexp (_f : FmtA) : Eval := fun i _o x => fgetexp i (arg x 0)

/-- R119: fgetexp. -/
def execFgetexp (h : Hdr) (f : FmtA) (s : State) : Out :=
  .next (s.alu h (.fgetexp h f) { f.one 0 4 with fpu := true } (evalFgetexp f))

/-- R115: dadd. What it computes. -/
def evalDadd (f : FmtA) : Eval := fun _i _o x => fmt64.arith .add f.rnd.toNat false false false (arg x 0) (arg x 1) 0

/-- R115: dadd. -/
def execDadd (h : Hdr) (f : FmtA) (s : State) : Out :=
  .next (s.alu h (.dadd h f) { f.wide2 0 8 with fpu := true } (evalDadd f))

/-- R115: dmul. What it computes. -/
def evalDmul (f : FmtA) : Eval := fun _i _o x => fmt64.arith .mul f.rnd.toNat false false false (arg x 0) (arg x 1) 0

/-- R115: dmul. -/
def execDmul (h : Hdr) (f : FmtA) (s : State) : Out :=
  .next (s.alu h (.dmul h f) { f.wide2 0 8 with fpu := true } (evalDmul f))

/-- R115: dfma. What it computes. -/
def evalDfma (f : FmtA) : Eval := fun _i _o x => fmt64.arith .fma f.rnd.toNat false false false (arg x 0) (arg x 1) (arg x 2)

/-- R115: dfma. -/
def execDfma (h : Hdr) (f : FmtA) (s : State) : Out :=
  .next (s.alu h (.dfma h f) { f.wide3 0 8 with fpu := true } (evalDfma f))

/-- R115: hadd2. What it computes. -/
def evalHadd2 (f : FmtA) : Eval := fun i o x => halves fmt16 .add f.rnd.toNat (f.sat == 1) i o x

/-- R115: hadd2. -/
def execHadd2 (h : Hdr) (f : FmtA) (s : State) : Out :=
  .next (s.alu h (.hadd2 h f) { f.two 0 4 with fpu := true } (evalHadd2 f))

/-- R115: hmul2. What it computes. -/
def evalHmul2 (f : FmtA) : Eval := fun i o x => halves fmt16 .mul f.rnd.toNat (f.sat == 1) i o x

/-- R115: hmul2. -/
def execHmul2 (h : Hdr) (f : FmtA) (s : State) : Out :=
  .next (s.alu h (.hmul2 h f) { f.two 0 4 with fpu := true } (evalHmul2 f))

/-- R115: hfma2. What it computes. -/
def evalHfma2 (f : FmtA) : Eval := fun i o x => halves fmt16 .fma f.rnd.toNat (f.sat == 1) i o x

/-- R115: hfma2. -/
def execHfma2 (h : Hdr) (f : FmtA) (s : State) : Out :=
  .next (s.alu h (.hfma2 h f) { f.three 0 4 with fpu := true } (evalHfma2 f))

/-- R115: bfadd2. What it computes. -/
def evalBfadd2 (f : FmtA) : Eval := fun i o x => halves fmtBf16 .add f.rnd.toNat (f.sat == 1) i o x

/-- R115: bfadd2. -/
def execBfadd2 (h : Hdr) (f : FmtA) (s : State) : Out :=
  .next (s.alu h (.bfadd2 h f) { f.two 2 4 with fpu := true } (evalBfadd2 f))

/-- R115: bfma2. What it computes. -/
def evalBfma2 (f : FmtA) : Eval := fun i o x => halves fmtBf16 .fma f.rnd.toNat (f.sat == 1) i o x

/-- R115: bfma2. -/
def execBfma2 (h : Hdr) (f : FmtA) (s : State) : Out :=
  .next (s.alu h (.bfma2 h f) { f.three 3 4 with fpu := true } (evalBfma2 f))

/-- R122, R123: cvt. What it computes. -/
def evalCvt (v : BitVec 5) (f : FmtA) : Eval := fun i o x => convert v.toNat f.ty.toNat f.rnd.toNat 0 (f.sat == 1) i o (arg x 0)

/-- R122, R123: cvt. -/
def execCvt (h : Hdr) (v : BitVec 5) (f : FmtA) (s : State) : Out :=
  .next (s.alu h (.cvt h v f) { f.cvtForm v.toNat (if homeCvt v.toNat f.ty.toNat then 1 else 0) 6 with fpu := true } (evalCvt v f))

/-- R122, R123: cvt.sr. What it computes. -/
def evalCvtSr (v : BitVec 5) (f : FmtA) : Eval := fun i o x => convert v.toNat f.ty.toNat 4 (arg x 1) (f.sat == 1) i o (arg x 0)

/-- R122, R123: cvt.sr. -/
def execCvtSr (h : Hdr) (v : BitVec 5) (f : FmtA) (s : State) : Out :=
  .next (s.alu h (.cvtSr h v f) { f.cvtForm v.toNat (if homeCvt v.toNat f.ty.toNat then 1 else 0) 6 with fpu := true } (evalCvtSr v f))

/-- R124: pk4. What it computes. -/
def evalPk4 (f : FmtA) : Eval := fun i o x => pack4 f.ty.toNat f.rnd.toNat (f.sat == 1) i o x

/-- R124: pk4. -/
def execPk4 (h : Hdr) (f : FmtA) (s : State) : Out :=
  .next (s.alu h (.pk4 h f) { f.pk4Form 0 6 with fpu := true } (evalPk4 f))

/-- R125: upk4. What it computes. -/
def evalUpk4 (f : FmtA) : Eval := fun i o x => unpack4 f.ty.toNat i o (arg x 0)

/-- R125: upk4. -/
def execUpk4 (h : Hdr) (f : FmtA) (s : State) : Out :=
  .next (s.alu h (.upk4 h f) { f.oneP 0 6 with fpu := true } (evalUpk4 f))

/-- R120: frcp. What it computes. -/
def evalFrcp : Eval := fun i o x => fmt32.flushOut o (frcp (fmt32.flushIn i (arg x 0)))

/-- R120, R121: frcp. -/
def execFrcp (h : Hdr) (f : FmtA) (s : State) : Out := .next (s.special h (.frcp h f) f evalFrcp)

/-- R120: frsq. What it computes. -/
def evalFrsq : Eval := fun i o x => fmt32.flushOut o (frsq i o (fmt32.flushIn i (arg x 0)))

/-- R120, R121: frsq. -/
def execFrsq (h : Hdr) (f : FmtA) (s : State) : Out := .next (s.special h (.frsq h f) f evalFrsq)

/-- R120: fsqrt. What it computes. -/
def evalFsqrt : Eval := fun i o x => fmt32.flushOut o (fsqrt (fmt32.flushIn i (arg x 0)))

/-- R120, R121: fsqrt. -/
def execFsqrt (h : Hdr) (f : FmtA) (s : State) : Out := .next (s.special h (.fsqrt h f) f evalFsqrt)

/-- R120: fsin. What it computes. -/
def evalFsin : Eval := fun i o x => fmt32.flushOut o (fsincos false i o (fmt32.flushIn i (arg x 0)))

/-- R120, R121: fsin. -/
def execFsin (h : Hdr) (f : FmtA) (s : State) : Out := .next (s.special h (.fsin h f) f evalFsin)

/-- R120: fcos. What it computes. -/
def evalFcos : Eval := fun i o x => fmt32.flushOut o (fsincos true i o (fmt32.flushIn i (arg x 0)))

/-- R120, R121: fcos. -/
def execFcos (h : Hdr) (f : FmtA) (s : State) : Out := .next (s.special h (.fcos h f) f evalFcos)

/-- R120: fex2. What it computes. -/
def evalFex2 : Eval := fun i o x => fmt32.flushOut o (fex2 i o (fmt32.flushIn i (arg x 0)))

/-- R120, R121: fex2. -/
def execFex2 (h : Hdr) (f : FmtA) (s : State) : Out := .next (s.special h (.fex2 h f) f evalFex2)

/-- R120: flg2. What it computes. -/
def evalFlg2 : Eval := fun i o x => fmt32.flushOut o (flg2 i o (fmt32.flushIn i (arg x 0)))

/-- R120, R121: flg2. -/
def execFlg2 (h : Hdr) (f : FmtA) (s : State) : Out := .next (s.special h (.flg2 h f) f evalFlg2)

/-- R120: ftanh. What it computes. -/
def evalFtanh : Eval := fun i o x => fmt32.flushOut o (ftanh i o (fmt32.flushIn i (arg x 0)))

/-- R120, R121: ftanh. -/
def execFtanh (h : Hdr) (f : FmtA) (s : State) : Out := .next (s.special h (.ftanh h f) f evalFtanh)

/-! ### Results and traps -/

/-- R121: a thread that is waiting in an instruction it has issued, a yield among them; being held until a fixed-latency result is written, parked
before issue, or gathering while its mask crosses, is no such wait. -/
def Group.waitingIn (g : Group) (l : Nat) : Bool :=
  g.waits.any (fun w => w.iss.lanes.getLsbD l && (match w.cond with | .hold _ => false | .yield _ => true | _ => w.iss.phase > 0)) || g.xings.any (fun x => x.iss.phase > 0 && x.iss.lanes.getLsbD l)

/-- R121, R335, R345, R346: the threads m take the FP trap of a variable-latency instruction, each to resume where it stands; a park
before issue is given up. Without a handler, or inside one, it is a completion fault of the issuing threads iss. -/
def State.lateTrap (s : State) (core slot path : Nat) (iss m lanes : BitVec 32) (pos : Long) (exc : BitVec 5) : State :=
  let g := s.group core slot
  if s.traps core slot m cFP then
    let s1 := s.modGroup core slot (fun g => { g with waits := g.waits.map (fun x =>
      if x.iss.phase = 0 && x.row = 8 then { x with iss := { x.iss with lanes := x.iss.lanes &&& ~~~ m } } else x) })
    s1.enterHandler core slot m lanes cFP pos (exc.setWidth 64) 1 (fun l => (g.thread l).pos)
  else s.stopGroup core slot iss lanes { code := cFP, kind := 1, pathB := path == 1, pos := pos, tvalue := exc.setWidth 64 }

/-- R121, R335: a completed result whose FP trap is due: the threads that are not waiting take it now; for the others it stays due, as a
result of kind 4. Where the kernel installs no handler it is a completion fault, which waits for nothing. -/
def State.lateTraps (s : State) (id : Nat) : State :=
  match tblFind s.pends id with
  | none => s
  | some p =>
    let g := s.group p.core p.slot
    let waits (l : Nat) : Bool := g.waitingIn l && s.trapEntry g.wg cFP ≠ 0
    let live := if s.hasGroup p.core p.slot then (lanesOf p.act).filter (fun l => !(g.thread l).exited) else []
    let nowM := maskOf (live.filter (fun l => !waits l))
    let laterM := maskOf (live.filter waits)
    let s1 := if laterM = 0 then { s with pends := tblDel s.pends id } else { s with pends := tblPut s.pends id { p with kind := 4, act := laterM } }
    if nowM = 0 then s1 else s1.lateTrap p.core p.slot p.path p.lanes nowM p.traps p.pos p.exc

/-- R51, R121: the result of a special function or of redux.f32 arrives: writes, flags, token, and the trap that becomes due; those due are
numbered in the order in which they became so. -/
def State.arriveLate (s : State) (id : Nat) : State :=
  match tblFind s.pends id with
  | none => s
  | some p =>
    let s1 := ({ s with pends := tblDel s.pends id }.land id p).tokDown p.core p.slot p.tok
    if p.traps = 0 then s1
    else ({ s1 with pends := tblPut s1.pends id { p with kind := 4, writes := [], flags := [], due := s1.fresh } }.tickFresh).lateTraps id

/-- R334, R344, R346: the FP trap of a fixed-latency instruction in the cycle its results are written. Where it is a fault, the writes stand
and the issuing threads are at the instruction, which has not retired. -/
def State.fixedTrap (s : State) (p : Pend) : State :=
  let tv : Long := p.exc.setWidth 64
  if s.traps p.core p.slot p.act cFP then s.enterHandler p.core p.slot p.act p.traps cFP p.pos tv 1 (fun _ => seqPos p.pos)
  else
    ((s.modLanes p.core p.slot p.lanes (fun _ t => { t with pos := p.pos })).modWg (s.wgOf p.core p.slot) (fun x => { x with rwc := x.rwc - 1 })).stopGroup
      p.core p.slot p.lanes p.traps { code := cFP, kind := 0, pathB := p.path == 1, pos := p.pos, tvalue := tv }

/-- R50, R51, R231: FIXED_LATENCY_WRITE: the results are written, the flags set, the token falls, and the FP trap is taken (assumption log 17); an
ldsp that met an uncorrectable codeword writes nothing and faults. -/
def execFixedLatencyWrite (id : Nat) (s : State) : Out :=
  match tblFind s.pends id with
  | none => .next s
  | some p =>
    let s0 := { s with pends := tblDel s.pends id }
    match p.bad with
    | some (l, b) => .next (s0.loadFault p l b)
    | none =>
      let s1 := (s0.land id p).tokDown p.core p.slot p.tok
      .next (if p.traps = 0 then s1 else s1.fixedTrap p)

/-- R121: SPECIAL_FUNCTION_COMPLETION (assumption log 17). -/
def execSpecialFunctionCompletion (id : Nat) (s : State) : Out := .next (s.arriveLate id)

end Sys2Proof.Machine
end

