-- ==== Sys2Proof/Machine/Proxy.lean ====
section
/-! DEFINITION. Proxies (R272-R295): sideboard slots, leases, releases, home operations, crossings, and the five proxy instructions. -/

namespace Sys2Proof.Machine

/-! ### Slots and leases (R274-R276, R284, R286) -/

/-- R275: the count of a context at a home. -/
def State.slotCount (s : State) (ctx home : Nat) : Nat := ((s.home home).slots.filter (fun p => p.2.st ≠ 0 && p.2.ctx = ctx)).length

/-- R275: the quota of a context at a home. -/
def State.quotaAt (s : State) (ctx home : Nat) : Nat := (s.ctx ctx).quota.getD home 0

/-- The n lowest free slot numbers of a home, from k on (assumption log: which free slots a grant takes) (assumption log 27). -/
def freeSlots (t : Tbl SbSlot) (k fuel n : Nat) : List Nat :=
  match fuel with
  | 0 => []
  | f + 1 =>
    if n = 0 then []
    else if (tblGet {} t k).st = 0 then k :: freeSlots t (k + 1) f (n - 1) else freeSlots t (k + 1) f n

/-- R286: whether a context has a workgroup or handler group resident on a core. -/
def State.residentOn (s : State) (core ctx : Nat) : Bool :=
  s.wgs.any (fun w => w.2.core = core && w.2.phase = 0 && s.ctxOfWg w.1 = ctx)

/-- R276: a lease asks for 64 minus the numbers it holds; a refused mark is cleared. Nothing is asked while a request is outstanding
or the lease is full. -/
def State.askLease (s : State) (core ctx home : Nat) : State :=
  let l := s.lease core ctx home
  if l.asked ≠ 0 || l.nums.length ≥ 64 then s
  else (s.modLease core ctx home (fun l => { l with asked := 64 - l.nums.length, refused := false })).later (.leaseGrant core ctx home)

/-- R276: LEASE_REQUEST: a lease that holds fewer than 32 numbers and is not marked refused asks. -/
def execLeaseRequest (core ctx home : Nat) (s : State) : Out :=
  let l := s.lease core ctx home
  .next (if l.nums.length < 32 && !l.refused then s.askLease core ctx home else s)

/-- R276: LEASE_GRANT: the home grants min(request, quota - count) at once, or holds the request. A core on which the context has nothing
resident any longer takes nothing (R286) (assumption log 27). -/
def execLeaseGrant (core ctx home : Nat) (s : State) : Out :=
  let l := s.lease core ctx home
  let drop (s : State) : State := s.modHome home (fun h => { h with reqs := h.reqs.filter (fun r => !(r.core = core && r.ctx = ctx)) })
  if l.asked = 0 then .next s
  else if !s.residentOn core ctx then .next (drop (s.modLease core ctx home (fun l => { l with asked := 0 })))
  else
    let n := min l.asked (s.quotaAt ctx home - s.slotCount ctx home)
    if n = 0 then
      if (s.home home).reqs.any (fun r => r.core = core && r.ctx = ctx) then .next s
      else .next ((s.modHome home (fun h => { h with reqs := h.reqs ++ [({ core := core, ctx := ctx, n := l.asked, due := s.tick + 2048 } : LeaseReq)] })).inTicks 2048
        (.leaseRefuse core ctx home))
    else
      let ns := freeSlots (s.home home).slots 0 ((s.home home).slots.length + n) n
      let nums := ns.map (fun k => (k, (tblGet {} (s.home home).slots k).gen))
      let s1 := (drop s).modHome home (fun h => { h with slots := nums.foldl (fun t k => tblPut t k.1 { st := 1, gen := k.2, ctx := ctx }) h.slots })
      .next (s1.modLease core ctx home (fun l => { nums := l.nums ++ nums, asked := 0, refused := false }))

/-- R276: LEASE_REFUSE: a request held for 2048 home-die cycles is refused. -/
def execLeaseRefuse (core ctx home : Nat) (s : State) : Out :=
  if (s.home home).reqs.any (fun r => r.core = core && r.ctx = ctx && r.due ≤ s.tick) then
    .next ((s.modHome home (fun h => { h with reqs := h.reqs.filter (fun r => !(r.core = core && r.ctx = ctx)) })).modLease core ctx home
      (fun l => { l with asked := 0, refused := true }))
  else .next s

/-- R276: room at a home: the requests it holds for the context are looked at again. -/
def State.regrant (s : State) (home ctx : Nat) : State :=
  ((s.home home).reqs.filter (fun r => r.ctx = ctx)).foldl (fun s r => s.now (.leaseGrant r.core r.ctx home)) s

/-- Table 17-2: whether an operation that will form the slot's value has not executed. -/
def State.forming (s : State) (home slot : Nat) : Bool := s.homeOps.any (fun o => o.2.stack = home && o.2.res = some slot)

/-- Table 17-2: SLOT_FREE: a releasing slot with no read left is free, its generation one higher. -/
def execSlotFree (home slot : Nat) (s : State) : Out :=
  let x := tblGet {} (s.home home).slots slot
  if x.st = 4 && x.readers = 0 && !s.forming home slot then
    .next ((s.modHome home (fun h => { h with slots := tblPut h.slots slot { gen := (x.gen + 1) % 64 } })).regrant home x.ctx)
  else .next s

/-- R284: RELEASE_BATCH_SEND: the batch of a home leaves when it holds 32 numbers or its oldest is 64 cycles old. -/
def execReleaseBatchSend (core home : Nat) (s : State) : Out :=
  let b := tblGet {} (s.core core).rel home
  if b.nums.length ≥ 32 || (!b.nums.isEmpty && b.oldest + 64 ≤ (s.core core).cycles) then
    let s1 := s.modCore core (fun k => { k with rel := tblDel k.rel home })
    .next (b.nums.foldl (fun s n =>
      let x := tblGet {} (s.home home).slots n.1
      if x.st = 2 || x.st = 3 then
        (s.modHome home (fun h => { h with slots := tblPut h.slots n.1 { x with st := 4 } })).now (.slotFree home n.1)
      else s) s1)
  else .next s

/-- R286, R294: every unused number of a lease goes back to its home and its slot is free. -/
def State.returnLease (s : State) (core ctx home : Nat) : State :=
  let l := s.lease core ctx home
  if l.nums.isEmpty then s
  else
    let s1 := s.modLease core ctx home (fun l => { l with nums := [] })
    (s1.modHome home (fun h => { h with slots := l.nums.foldl (fun t k => tblPut t k.1 { gen := k.2 }) h.slots })).regrant home ctx

/-- R286: a core on which a context has nothing left resident returns the context's leases. -/
def State.leaveCore (s : State) (core ctx : Nat) : State :=
  if s.residentOn core ctx then s
  else (List.range 12).foldl (fun s h => (s.returnLease core ctx h).modLease core ctx h (fun l => { l with refused := false })) s

/-! ### Home operations and crossings (R279-R283, R287) -/

/-- The header of a program instruction. -/
def headerOf (i : Instr) : Hdr := match i.parts with | some p => p.hdr | none => ⟨0, 0, 7, 0, 0⟩

/-- R273: what a proxy-capable instruction computes. -/
def homeEval : Instr → Eval
  | .add _ f => evalAdd f
  | .addImm _ f => evalAddImm f
  | .sub _ f => evalSub f
  | .subImm _ f => evalSubImm f
  | .mulLo _ f => evalMulLo f
  | .mulLoImm _ f => evalMulLoImm f
  | .minI _ f => evalMinI f
  | .minImm _ f => evalMinImm f
  | .maxI _ f => evalMaxI f
  | .maxImm _ f => evalMaxImm f
  | .andB _ f => evalAndB f
  | .andImm _ f => evalAndImm f
  | .orB _ f => evalOrB f
  | .orImm _ f => evalOrImm f
  | .xorB _ f => evalXorB f
  | .xorImm _ f => evalXorImm f
  | .shl _ f => evalShl f
  | .shlImm _ f => evalShlImm f
  | .shr _ f => evalShr f
  | .shrImm _ f => evalShrImm f
  | .sel _ f => evalSel f
  | .mov _ f => evalMov f
  | .fadd _ f => evalFadd f
  | .fmul _ f => evalFmul f
  | .ffma _ f => evalFfma f
  | .fmin _ f => evalFmin f
  | .fmax _ f => evalFmax f
  | .bfadd2 _ f => evalBfadd2 f
  | .bfma2 _ f => evalBfma2 f
  | .cvt _ v f => evalCvt v f
  | .cvtSr _ v f => evalCvtSr v f
  | _ => fun _ _ x => { bits := x.headD 0 }

/-- R293: the value of a pxq item of a home. -/
def State.pxqHome (s : State) (core ctx item home : Nat) : Nat :=
  match item with
  | 0 => s.slotCount ctx home
  | 1 => s.quotaAt ctx home
  | _ => (s.lease core ctx home).nums.length

/-- R350: the uncorrectable codeword that a home operation reads: a slot, or memory. -/
def State.badHomeRead (s : State) (o : HomeOp) (words : List Word) : Option Bad :=
  (words.findSome? (fun w => s.badAt uSIDE (proxyStack w) (proxySlot w))).or (o.elem.bind (fun pa => s.badMem pa 4))

/-- R280: the value of an operation stands in its result slot; a slot released meanwhile may be free now. -/
def State.formSlot (s : State) (home n : Nat) (v : Word) : State :=
  let x := tblGet {} (s.home home).slots n
  let s1 := (s.mend (fun b => b.unit == uSIDE && b.index == home && b.loc == n)).modHome home (fun h => { h with slots := tblPut h.slots n { x with st := if x.st = 2 then 3 else x.st, val := v, full := true } })
  if x.st = 4 then s1.now (.slotFree home n) else s1

/-- R287: an operation that failed marks no slot: its result slot holds a free value (assumption log 4). -/
def State.formAny (s : State) (o : HomeOp) : State :=
  match o.res with
  | some n => (s.formSlot o.stack n (s.anyValue.setWidth 32)).tickFresh
  | none => s

/-- R280, R290, R293: HOME_OPERATION_EXECUTE: an operation whose slots are ready executes and makes its result slot ready; the element of
ld.p is read at the point of coherence after everything it comes after; a pxq request is answered. -/
def execHomeOperationExecute (id : Nat) (s : State) : Out :=
  match tblFind s.homeOps id with
  | none => .next s
  | some o =>
    let words := (o.args.map HArg.words).flatten
    let ready := o.after.all (fun a => !s.outstanding a) && words.all (fun w => (s.slotValue (proxyStack w) (proxySlot w)).isSome)
    if !ready then .next (s.again (.homeOperationExecute id))
    else
      let s0 := { s with homeOps := tblDel s.homeOps id }
      let s1 := match o.elem with
        | some pa => s0.moved pa (some (s.launchOfWg o.wg)) 4
        | none => s0.movedAt (some (s.launchOfWg o.wg)) 4 [meterKey 2 o.stack]
      let s2 := words.foldl (fun s w => s.dropReader w) s1
      match s.staleWord words, s.badHomeRead o words with
      | some w, _ => .next ((s2.formAny o).reportStale o.ctx o.wg o.lane o.pos w)
      | none, some b => .next ((s2.formAny o).reportBad o.ctx o.wg o.lane o.pos b)
      | none, none =>
        match o.res, o.msg with
        | some n, _ =>
          let val := match o.elem with
            | some pa => memNat s.mem pa 4
            | none => (homeEval o.instr (bit o.flags 0) (bit o.flags 1) (o.args.map (fun a => match a with
                | .plain w => w.toNat
                | .slot w => ((s.slotValue (proxyStack w) (proxySlot w)).getD 0).toNat))).bits
          .next (s2.formSlot o.stack n (BitVec.ofNat 32 val))
        | none, some q =>
          let v := s2.pxqHome o.core o.ctx o.flags o.stack
          .next ((s2.modPend q (fun p => { p with writes := ((lanesOf p.act).map (fun l => laneWrites l p.dst false v false)).flatten, wait := 0 })).later (.loadCompletion q))
        | none, none => .next s2

/-- R283: one crossing counted: 0 implicit, 1 explicit, 2 auto-materialise, 3 not counted. -/
def State.countCrossing (s : State) (ctx kind : Nat) : State :=
  s.modCtx ctx (fun c => match kind with
    | 0 => { c with ximp := c.ximp + 1 }
    | 1 => { c with xexp := c.xexp + 1 }
    | 2 => { c with xauto := c.xauto + 1 }
    | _ => c)

/-- R287: how a crossing failed: PROXY_STALE comes before UNCORRECTABLE. -/
def XOp.fail (o : XOp) : Option CrossFail :=
  if o.stale then some { lane := o.lane, reg := o.reg, word := o.word }
  else o.bad.map (fun b => { lane := o.lane, reg := o.reg, word := o.word, bad := some b })

/-- R157: a mask register that crossed for the gathering at a position is kept with the group until the instruction issues there; one written
meanwhile is not. One that failed counts as its own lane until the instance raises it (assumption log 27). -/
def Group.keepMasks (g : Group) (pos : Long) (ops : List XOp) (vals : Tbl Word) : Group :=
  let new := (ops.filter (fun o => let r := (g.thread o.lane).reg o.reg; r.tag && r.val == o.word)).map (fun o =>
    (⟨o.lane, pos, o.reg, if o.fail.isSome then 0 else (tblFind vals (crossKey o.lane o.reg)).getD 0, o.fail⟩ : MaskVal))
  { g with masks := g.masks.filter (fun m => !new.any (fun n => n.lane = m.lane && n.pos == m.pos && n.reg = m.reg)) ++ new }

/-- Table 11-11, order 3: a lane whose am.send names no ring: the launch sets none, or the core is none of its dies. -/
def State.amTargetBad (s : State) (f : FmtE) (l : Nat) : Bool :=
  let target := (s.selWord l f.a.toNat).toNat
  bits s.curLaunch.kr.flags 11 10 = 0 || (!s.hasFailed l f.a.toNat && (target ≥ 320 || !bit s.curLaunch.kr.dieMask (Config.dieOfCore target)))

/-- R282, R287: the last value of a crossing has arrived: the instruction goes on with what failed, which it raises in its own order of faults, or
the masks are kept. -/
def State.crossed (s : State) (core slot : Nat) (x : Xing) : State :=
  if x.iss.phase = 0 then s.modGroup core slot (fun g => g.keepMasks x.iss.pos x.ops x.iss.caps)
  else { s with agenda := .resume { x.iss with failed := x.iss.failed ++ x.ops.filterMap XOp.fail } x.instr :: s.agenda }

/-- R281, R282, R283, R287: CROSSING_RETURN: the value of one operand arrives and is counted; with the last one the instruction goes on. -/
def execCrossingReturn (core slot id k : Nat) (s : State) : Out :=
  match (s.group core slot).xings.find? (fun x => x.id = id) with
  | none => .next s
  | some x =>
    match x.ops[k]? with
    | none => .next s
    | some o =>
      if o.got then .next s
      else match s.slotValue (proxyStack o.word) (proxySlot o.word) with
        | none => .next (s.again (.crossingReturn core slot id k))
        | some v =>
          let s1 := (s.dropReader o.word).countCrossing (s.ctxOfWg (s.wgOf core slot)) o.count
          let o' := { o with got := true, stale := (s.staleWord [o.word]).isSome, bad := s.badAt uSIDE (proxyStack o.word) (proxySlot o.word) }
          let y : Xing := { x with ops := x.ops.set k o', iss := { x.iss with caps := tblPut x.iss.caps (crossKey o.lane o.reg) v } }
          let rest := (s1.group core slot).xings.filter (fun y => y.id ≠ id)
          if y.ops.all XOp.got then .next ((s1.modGroup core slot (fun g => { g with xings := rest })).crossed core slot y)
          else .next (s1.modGroup core slot (fun g => { g with xings := rest ++ [y] }))

/-! ### The proxy instructions -/

/-- R290: whether a lane of ld.p holds a number of the home of its element. -/
def State.hasNumber (s : State) (x : Acc) : Bool := s.cur.slots.any (fun y => y.1 = x.lane && y.2.1 = stackOf x.pa)

/-- R290: the lanes of ld.p that have no number take one each where the lease of their home holds any, in ascending order, and keep it while others
wait; a number of a home that a page no longer names goes back first. -/
def State.takeNumbers (s : State) (l : List Acc) : State :=
  let old := s.cur.slots.filter (fun y => !l.any (fun x => x.lane = y.1 && stackOf x.pa = y.2.1))
  let s1 := old.foldl (fun s y => s.untakeSlot s.cur.core s.curCtx y.2.1 y.2.2.1 y.2.2.2) { s with cur := { s.cur with slots := s.cur.slots.filter (fun y => !old.contains y) } }
  l.foldl (fun s x =>
    if s.hasNumber x then s
    else match s.takeSlot s.cur.core s.curCtx (stackOf x.pa) with
      | (some (n, g), s1) => { s1 with cur := { s1.cur with slots := s1.cur.slots ++ [(x.lane, stackOf x.pa, n, g)] } }
      | (none, s1) => s1) s1

/-- R290: the homes on whose lease a lane waits. -/
def State.shortHomes (s : State) (l : List Acc) : List Nat := ((l.filter (fun x => !s.hasNumber x)).map (fun x => stackOf x.pa)).eraseDups

/-- R222, R237: what the element of an ld.p is read after: the stores of its threads to its bytes, those that the L1 of the core shows, and those that
have left the gather entries of its die. -/
def State.beforeElem (s : State) (pa : Nat) : List Nat :=
  (s.msgs.filter (fun p => (List.range 4).any (fun j => p.2.touches (pa + j)) && (s.own p.2.core p.2.slot p.2.lanes ||
    (p.2.core = s.cur.core && p.2.lanes ≠ 0 && !p.2.hidden) || (p.2.die = Config.dieOfCore s.cur.core && p.2.lanes = 0)))).map (fun p => p.1)

/-- R290: one lane of ld.p names a slot and its home will read the element; where no number is left the lane stays for a plain load (assumption log 27). -/
def State.ldpLane (h : Hdr) (f : FmtM) (a : State × List Acc) (x : Acc) : State × List Acc :=
  let (s, plain) := a
  let k := s.cur
  let home := stackOf x.pa
  match s.resultSlot x.lane home with
  | (none, _) => (s, plain ++ [x])
  | (some (n, g), s1) =>
    let op : HomeOp := { stack := home, res := some n, instr := .ldP h f, args := [], flags := 0, ctx := s.curCtx, wg := s.curWg, slot := k.slot, core := k.core, lane := x.lane, pos := k.pos, elem := some x.pa, after := s.beforeElem x.pa }
    let s2 := { s1 with homeOps := tblPut s1.homeOps s1.fresh op }.later (.homeOperationExecute s1.fresh)
    (s2.tickFresh.writeReg k.core k.slot x.lane f.data.toNat (proxyWord home n g) true, plain)

/-- R290: every active lane names its slot, in ascending order, and the proxy words are written; with auto-materialise set, lanes
without a number receive the element as a plain value, each counted. -/
def State.ldpName (s : State) (h : Hdr) (f : FmtM) (l : List Acc) : State :=
  let s0 := (framesOf (l.map Acc.pa)).foldl (fun s fr => s.flushGather (Config.dieOfCore s.cur.core) fr) (s.takeToken h)
  let (s1, plain) := l.foldl (fun a x => State.ldpLane h f a x) (s0, [])
  if plain.isEmpty then (s1.dropToken h).retireSeq h
  else
    let s2 := s1.modCtx s.curCtx (fun c => { c with pauto := c.pauto + BitVec.ofNat 64 plain.length })
    (s2.loadG f 4 false none none h.tok.toNat (maskOf (plain.map Acc.lane)) plain false).2.retireSeq h

/-- R290, R295: ld.p: its lanes take numbers, and its threads wait until every lane has one, or a request of theirs is refused; then the numbers go back and
PROXY_EXHAUST, or, with auto-materialise, the lanes without a number are plain loads (assumption log 27). Under replay a load that sets the home mark (R288). -/
def execLdP (h : Hdr) (f : FmtM) (s : State) : Out :=
  let i := Instr.ldP h f
  .next (s.memOp h i (addrSrc f) [] (loadRegs f.data.toNat 4) [] (fun _ _ => false)
    (fun s act => s.checkG .element 4 4 (s.eas f act))
    (fun s act l =>
      if s.replaying s.curWg then ((s.takeToken h).loadG f 4 false none none h.tok.toNat act l true).2.retireSeq h
      else
        let s := s.takeNumbers l
        let short := s.shortHomes l
        let refused := if s.cur.nums.contains 9 then short.filter (fun p => (s.lease s.cur.core s.curCtx p).refused) else []
        if short.isEmpty then s.ldpName h f l
        else match refused with
          | r :: _ => if flagAuto s.curLaunch.kr then s.ldpName h f l else s.raise h act cEXHAUST (BitVec.ofNat 64 r)
          | [] =>
            let s1 := short.foldl (fun s p => s.askLease s.cur.core s.curCtx p) (((s.beginWait h).capture act (srcRegs [addrSrc f])).carry [9])
            s1.waitFor h i (.leases (short.map (fun p => (p, 1)))) 10))

/-- R291: mat; its crossings are explicit. -/
def execMat (h : Hdr) (f : FmtA) (s : State) : Out :=
  let act := s.active h
  .next (s.withOperands h (.mat h f) act [.reg f.a.toNat] (dstRegs f.dst.toNat false) [] stayNone 1 (fun s =>
    let k := s.cur
    let ws := ((lanesOf act).map (fun l => laneWrites l f.dst.toNat false (s.selWord l f.a.toNat).toNat false)).flatten
    let p : Pend := { core := k.core, slot := k.slot, kind := 5, path := k.path, lanes := k.lanes, act := act, pos := k.pos, tok := h.tok.toNat, writes := ws }
    let s1 := s.takeToken h
    if k.phase > 0 then ((s1.land s.fresh p).doneNow h).retireSeq h
    else ((s1.addPend p).later (.loadCompletion s1.fresh)).retireSeq h))

/-- R292: pxrel writes zeros, which release, 4 cycles after issue. -/
def execPxrel (h : Hdr) (f : FmtE) (s : State) : Out :=
  let act := s.active h
  let regs := (List.range (f.par.toNat % 512)).map (fun j => f.a.toNat + j)
  .next (s.withOperands h (.pxrel h f) act [] regs [] stayNone 0 (fun s =>
    let k := s.cur
    let p : Pend := { core := k.core, slot := k.slot, kind := 0, path := k.path, lanes := k.lanes, act := act, pos := k.pos, tok := h.tok.toNat, writes := ((lanesOf act).map (fun l => regs.map (fun r => (⟨l, r, 0, false⟩ : LaneWrite)))).flatten }
    ((s.takeToken h).pendFixed 4 p).retireSeq h))

/-- R293: pxq; items 0 to 2 are asked of the home, under replay 0 (R288). -/
def execPxq (h : Hdr) (f : FmtE) (s : State) : Out :=
  let act := s.active h
  let item := f.handle.toNat % 16
  let home := f.par.toNat % 16
  .next (s.withOperands h (.pxq h f) act [] (dstRegs f.a.toNat (item ≥ 3)) [] stayNone 0 (fun s =>
    let k := s.cur
    let c := s.ctx s.curCtx
    let p : Pend := { core := k.core, slot := k.slot, kind := 0, path := k.path, lanes := k.lanes, act := act, pos := k.pos, tok := h.tok.toNat, dst := f.a.toNat }
    let s1 := s.takeToken h
    if act = 0 then (s1.dropToken h).retireSeq h
    else if item < 3 && !s.replaying s.curWg then
      let op : HomeOp := { stack := home, res := none, instr := .pxq h f, args := [], flags := item, ctx := s.curCtx, wg := s.curWg, slot := k.slot, core := k.core, lane := 0, pos := k.pos, msg := some s1.fresh }
      let s2 := s1.addPend { p with kind := 5, wait := 1, writes := ((lanesOf act).map (fun l => laneWrites l f.a.toNat false 0 false)).flatten }
      ({ s2 with homeOps := tblPut s2.homeOps s2.fresh op }.later (.homeOperationExecute s2.fresh)).tickFresh.retireSeq h
    else
      let v := match item with | 3 => c.ximp.toNat | 4 => c.xexp.toNat | 5 => c.xauto.toNat | 6 => c.pauto.toNat | _ => 0
      (s1.pendFixed 8 { p with writes := ((lanesOf act).map (fun l => laneWrites l f.a.toNat (item ≥ 3) v false)).flatten }).retireSeq h))

/-- R294: pxlease fills a lease to n numbers; its token falls when that is done. Under replay it does nothing (R288). -/
def execPxlease (h : Hdr) (f : FmtE) (s : State) : Out :=
  let home := f.handle.toNat % 16
  let n := f.par.toNat % 128
  let k := s.cur
  .next (
    if k.phase > 0 then s.doneNow h
    else if s.active h = 0 || s.replaying s.curWg then s.retireSeq h
    else
      let s1 := s.askLease k.core s.curCtx home
      if (s1.lease k.core s1.curCtx home).nums.length ≥ n then s1.retireSeq h
      else
        let s2 := (s1.takeToken h).retireSeq h
        let w : Waiting := ⟨s2.fresh, { k with lanes := 0, phase := 1 }, .pxlease h f, .lease home n, 7⟩
        (s2.modGroup k.core k.slot (fun g => { g with waits := g.waits ++ [w] })).tickFresh)

/-- R294: pxlease.ret gives every number of the lease back to the home. Under replay it does nothing (R288). -/
def execPxleaseRet (h : Hdr) (f : FmtE) (s : State) : Out :=
  .next (
    if s.active h = 0 || s.replaying s.curWg then s.retireSeq h
    else (s.returnLease s.cur.core s.curCtx (f.handle.toNat % 16)).retireSeq h)

end Sys2Proof.Machine
end

