-- ==== Sys2Proof/Machine/Launch.lean ====
section
/-! DEFINITION. Launches, placement, and active messages (R172-R187), and the activation and end of staleness regions (R259-R262). -/

namespace Sys2Proof.Machine

/-! ### Reading and writing records -/

/-- One byte of a VA as the device reads it at .sys scope: memory, or for a host-window page what a die reads (R250). -/
def State.sysByte (s : State) (ctx die va : Nat) : Option Byte :=
  if va ≥ 2 ^ 57 || s.inDebugArea ctx va then none
  else match s.walk ctx va with
    | .ok pa e => if !leafR e || leafHostOwned e then none else if leafWindow e then some (s.windowByte die (windowOf ctx e) va) else some (memGet s.mem pa)
    | _ => none

/-- The bytes of a record at a VA; what cannot be read reads 0. -/
def State.sysBytes (s : State) (ctx die va n : Nat) : List Byte := (List.range n).map (fun i => (s.sysByte ctx die (va + i)).getD 0)

/-- R177: the status word of a completion record as the device reads it, none where it cannot. -/
def State.statusWord (s : State) (ctx die va : Nat) : Option Nat :=
  if (s.sysByte ctx die va).isNone then none else some (leNat (s.sysBytes ctx die va 4))

/-- Whether a completion record may be written. -/
def State.mayWrite (s : State) (ctx va : Nat) : Bool :=
  va < 2 ^ 57 && !s.inDebugArea ctx va && (match s.walk ctx va with | .ok _ e => leafW e && !leafHostOwned e | _ => false)

/-- R208: the replicas of a frame leave every die. -/
def State.collapseFrame (s : State) (pa : Nat) : State :=
  (s.removeBlocks (fun b => b.replica && b.frame = frameOf pa && b.tag.isNone)).modDie (homeDie pa) (fun d => { d with replicas := tblDel d.replicas (frameOf pa) })

/-- R358, R397: the device writes bytes at the point of coherence. -/
def State.bufferWrite (s : State) (pa : Nat) (l : List Byte) : State :=
  (placed pa l).foldl (fun s b =>
    let m : Msg := { core := 0, die := homeDie b.1, slot := 0, lanes := 0, wg := 0, ctx := 0, pa := b.1, bytes := [b], kind := .write }
    s.tickFresh.performWrite m s.fresh [b]) s

/-- R174: the device writes bytes at a VA it may write: at the home slice, or staged on a die for a host-window page (R220) (assumption log 23). -/
def State.deviceWrite (s : State) (ctx die va : Nat) (bytes : List Byte) : State :=
  match s.walk ctx va with
  | .ok pa e =>
    if leafWindow e then
      let w := windowOf ctx e
      let x := tblGet { va := 0, len := 0, host := 0, counter := 0 } s.windows w
      { s with windows := tblPut s.windows w { x with staged := (placed (die * 2 ^ 26 + (va - x.va)) bytes).foldl (fun t b => tblPut t b.1 b.2) x.staged } }
    else
      let s1 := if leafReadMostly e then s.collapseFrame pa else s
      let m : Msg := { core := 0, die := homeDie pa, slot := 0, lanes := 0, wg := 0, ctx := ctx, pa := pa, bytes := placed pa bytes, kind := .write }
      s1.tickFresh.performWrite m s1.fresh m.bytes
  | _ => s

/-- R174, R364: a completion record receives a status, with the words after it when the status is final; where it may no longer be written the
event is recorded. A record at VA 0 is none (assumption log 23). -/
def State.writeStatus (s : State) (ctx die va status : Nat) (rest : List Byte) : State :=
  if va = 0 then s
  else if s.mayWrite ctx va then s.deviceWrite ctx die va (leBytes 4 status ++ rest)
  else (s.noteWalks ctx (s.badWalks ctx [va])).logEvent { kind := 3, link := 0, ctx := ctx, arg := status, addr := va, time := s.tick }

/-- Table 11-4: what follows the status word of a final record: the second word, the energy, the start, the completion time (assumption log 23). -/
def State.statusRest (s : State) (second energy began : Nat) : List Byte :=
  leBytes 4 second ++ leBytes 8 (min energy (2 ^ 64 - 1)) ++ leBytes 8 began ++ leBytes 8 s.tick ++ List.replicate 32 0

/-! ### Kernel records (R173, R176, R259) -/

/-- Table 11-2: the fields of a kernel record. -/
def krOf (b : List Byte) : KRec :=
  let f (o n : Nat) : Nat := leNat ((b.drop o).take n)
  { entry := BitVec.ofNat 64 (f 0 8), comp := f 8 8, waits := [f 0x10 8, f 0x18 8, f 0x20 8], start := f 0x28 8, w := f 0x30 4, g := f 0x34 1,
    t := f 0x35 1, n := 8 * f 0x36 1, dieMask := f 0x37 1, sp := f 0x38 4, flags := f 0x3C 4, routes := f 0x40 2, handVA := f 0x48 8,
    handN := f 0x50 2, traps := [f 0x58 8, f 0x60 8, f 0x68 8], regVA := f 0x70 8, regN := f 0x78 1,
    windows := (List.range 8).map (fun c => (f (0x80 + 16 * c) 8, f (0x88 + 16 * c) 4)) }

/-- Table 11-2: a reserved byte is not zero. -/
def reservedBad (b : List Byte) : Bool :=
  let z (o n : Nat) : Bool := ((b.drop o).take n).any (fun x => x ≠ 0)
  z 0x42 6 || z 0x52 6 || z 0x79 7 || (List.range 8).any (fun c => z (0x8C + 16 * c) 4)

/-- Table 11-3: packets of a receive ring, and fields of the flags. -/
def KRec.ringCap (k : KRec) : Nat := match bits k.flags 11 10 with | 0 => 0 | 1 => 64 | 2 => 128 | _ => 256
def KRec.ringBytes (k : KRec) : Nat := 32 * k.ringCap

/-- Table 16-1: an entry of a region table: base, length in 64 KiB, counter stack, and whether it keeps its limits. -/
structure RegEntry where
  base : Nat
  len : Nat
  stack : Nat
  ok : Bool
  deriving DecidableEq, Repr

def regEntries (b : List Byte) (n : Nat) : List RegEntry :=
  (List.range n).map (fun i =>
    let f (o k : Nat) : Nat := leNat ((b.drop (16 * i + o)).take k)
    { base := f 0 8, len := f 8 4, stack := f 12 4 % 16,
      ok := f 0 8 % 65536 = 0 && f 0 8 < 2 ^ 57 && 1 ≤ f 8 4 && f 8 4 ≤ 16777216 && f 12 4 < 16 && f 12 4 % 16 < 12 })

/-- R259: two spans of a table share a byte. -/
def entriesMeet : List RegEntry → Bool
  | [] => false
  | e :: r => r.any (fun x => spansMeet e.base (e.len * 65536) x.base (x.len * 65536)) || entriesMeet r

/-- Table 11-7, reason 1 (assumption log 23). -/
def recordBad (k : KRec) (b : List Byte) (rs : List RegEntry) : Bool :=
  reservedBad b || k.comp % 64 ≠ 0 || k.waits.any (fun w => w % 64 ≠ 0 || (w ≠ 0 && w = k.comp)) ||
  k.w = 0 || k.w > 16777216 || k.g = 0 || k.g > 128 || k.t = 0 || k.t > 16 || k.w % k.t ≠ 0 || k.n = 0 || k.n > 320 ||
  k.dieMask = 0 || k.dieMask > 15 || k.sp % 1024 ≠ 0 || k.sp > 524288 || bits k.flags 31 12 ≠ 0 || bit k.flags 3 || k.handN > 256 ||
  (k.handN ≠ 0 && k.handVA % 8 ≠ 0) || k.regN > 64 || (k.regN ≠ 0 && k.regVA % 16 ≠ 0) || rs.any (fun r => !r.ok) || entriesMeet rs ||
  k.windows.any (fun w => w.1 % 64 ≠ 0 || w.2 > 2 ^ 17)

/-- R182: how many workgroups of a launch one core of an empty device takes. -/
def KRec.coreCap (k : KRec) : Nat :=
  let slots := (List.range 4).foldl (fun m q => if k.g > q then min m (32 / ((k.g - q + 3) / 4)) else m) 32
  let room := 524288 - k.ringBytes
  let byMem := if k.sp = 0 then slots else min slots (room / k.sp)
  if (List.range 8).any (fun t => routeScope k t = 1) then min 1 byMem else byMem

/-- Table 11-7, reasons 2 and 3. -/
def KRec.fitsAtOnce (k : KRec) : Bool := k.w / k.t ≤ 4 * countOnes 4 k.dieMask * (20 / k.t) * k.coreCap
def KRec.fitsNowhere (k : KRec) : Bool := k.coreCap = 0

/-- R260: the slot each entry of a record uses, or none where an entry overlaps an active region without matching it or slots run out;
the flag says that the entry activates a new region. -/
def matchRegions (act : Tbl Region) : List RegEntry → Option (List (Nat × RegEntry × Bool))
  | [] => some []
  | e :: r =>
    match act.find? (fun p => p.2.base = e.base && p.2.len = e.len && p.2.stack = e.stack) with
    | some p => (matchRegions act r).map (fun l => (p.1, e, false) :: l)
    | none =>
      if act.any (fun p => spansMeet e.base (e.len * 65536) p.2.base (p.2.len * 65536)) then none
      else match (List.range 64).find? (fun k => (tblFind act k).isNone) with
        | none => none
        | some k => (matchRegions (tblPut act k { base := e.base, len := e.len, stack := e.stack }) r).map (fun l => (k, e, true) :: l)

/-- Table 11-7 and Table 16-2: the lowest-numbered reason to reject a record, or none. -/
def State.rejectReason (s : State) (ctx : Nat) (timed : Bool) (k : KRec) (b : List Byte) (rs : List RegEntry) : Option Nat :=
  if recordBad k b rs then some 1
  else if timed && !k.fitsAtOnce then some 2
  else if k.fitsNowhere then some 3
  else if (matchRegions (s.ctx ctx).regions rs).isNone then some 6
  else none

/-! ### Regions (R261, R262) -/

/-- R261: whether a frame is mapped by a page of a region in the context's translation. -/
def State.inRegion (s : State) (ctx : Nat) (r : Region) (frame : Nat) : Bool :=
  (List.range r.len).any (fun p => match s.walk ctx (r.base + p * 65536) with
    | .ok pa _ => pa / 65536 = frame / 256
    | _ => false)

/-- Whether a tag is of a region. -/
def tagOf (ctx slot : Nat) (t : Option (Nat × Nat × Word)) : Bool := match t with | some x => x.1 = ctx && x.2.1 = slot | none => false

/-- R261, R262: the blocks that hold a word of a region's frames leave every L1 and every replica, with its tagged blocks, and the fills under
way that would form such a block form none. -/
def State.purgeRegion (s : State) (ctx slot : Nat) (r : Region) : State :=
  (s.removeBlocks (fun b => tagOf ctx slot b.tag || s.inRegion ctx r b.frame)).cutFills (fun f => tagOf ctx slot f.tag || (f.tag.isNone && s.inRegion ctx r f.frame))

/-- R261: a region is activated in a slot for a launch: its counter is 0, its frames leave the caches, and round 0 is announced. -/
def State.activateRegion (s : State) (ctx slot launch : Nat) (e : RegEntry) : State :=
  let r : Region := { base := e.base, len := e.len, stack := e.stack, users := [launch], id := s.fresh }
  ((s.tickFresh.modCtx ctx (fun c => { c with regions := tblPut c.regions slot r })).purgeRegion ctx slot r).announce (Config.dieOfStack e.stack) (.round ctx slot 0 none)

/-- R262: a region is deactivated: its blocks leave, its counter and slot are free, and what is still on its way to the counter or being
announced of it is dropped; an rnd.adv that waits for it counts those lanes as done, and the round they would have made is a free value (R262 gives none). -/
def State.deactivateRegion (s : State) (ctx slot : Nat) : State :=
  match tblFind (s.ctx ctx).regions slot with
  | none => s
  | some r =>
    let s1 := (s.purgeRegion ctx slot r).modCtx ctx (fun c => { c with regions := tblDel c.regions slot })
    let mine (k : MsgKind) : Option (Nat × Nat) := match k with | .round k lane q => if k = slot then some (lane, q) else none | _ => none
    let atPort (i : Item) : Option (Nat × Nat) := match i with | .round c k lane (some q) => if c = ctx && k = slot then some (lane, q) else none | _ => none
    let lost := s1.msgs.filterMap (fun m => if m.2.ctx = ctx then mine m.2.kind else none) ++ (s1.dies.map (fun d => d.2.lect.filterMap atPort)).flatten
    let s2 : State := { s1 with
      msgs := s1.msgs.filter (fun m => !(m.2.ctx = ctx && (mine m.2.kind).isSome))
      timers := s1.timers.filter (fun t => match t.ev with | .roundAnnouncementArrival c k _ => !(c = ctx && k = slot) | _ => true)
      dies := s1.dies.map (fun (d : Nat × Die) => (d.1, { d.2 with lect := d.2.lect.filter (fun i => match i with | .round c k _ _ => !(c = ctx && k = slot) | _ => true) })) }
    lost.foldl (fun s x => (s.modPend x.2 (fun p => { p with bytes := (placed (x.1 * 16) (leBytes 4 s.anyValue.toNat)).foldl (fun t b => tblPut t b.1 b.2) p.bytes })).tickFresh.pendDown (some x.2)) s2

/-- R262: a launch no longer uses its regions. -/
def State.leaveRegions (s : State) (l : Nat) : State :=
  let ctx := (s.launch l).ctx
  (s.launch l).regions.foldl (fun s k =>
    let s1 := s.modCtx ctx (fun c => { c with regions := c.regions.map (fun (p : Nat × Region) => if p.1 = k then (k, { p.2 with users := p.2.users.filter (· ≠ l) }) else p) })
    if (match tblFind (s1.ctx ctx).regions k with | some r => r.users.isEmpty | none => false) then s1.deactivateRegion ctx k else s1) s

/-! ### Acceptance, start, and the end of a launch (R174-R177, R180, R262) -/

/-- R177: accepted launches of a context that have not completed, and submissions on their way. -/
def State.launchCount (s : State) (ctx : Nat) : Nat :=
  (s.launches.filter (fun p => p.2.ctx = ctx)).length + (s.submits.filter (fun p => p.2.ctx = ctx)).length

/-- R382: the lowest launch number that no uncompleted launch of the context holds. -/
def State.freeNumber (s : State) (ctx : Nat) : Nat :=
  ((List.range 257).find? (fun n => !s.launches.any (fun p => p.2.ctx = ctx && p.2.number = n))).getD 0

/-- R173, R176, R259, R260, R271: a record and the region table it names are read, and it is accepted or rejected; answers the reason of a rejection. -/
def State.accept (s : State) (u : Submit) : Option Nat × State :=
  let b := s.sysBytes u.ctx u.die u.va 256
  let k := krOf b
  let s := s.noteWalks u.ctx (s.badWalks u.ctx (u.va :: if k.regN = 0 then [] else [k.regVA]))
  let rs := if k.regN ≤ 64 then regEntries (s.sysBytes u.ctx u.die k.regVA (16 * k.regN)) k.regN else []
  match s.rejectReason u.ctx u.timed k b rs with
  | some r => (some r, s.writeStatus u.ctx u.die k.comp 5 (s.statusRest r 0 0))
  | none =>
    let id := s.fresh + 1
    let m := (matchRegions (s.ctx u.ctx).regions rs).getD []
    let l : Launch := { ctx := u.ctx, number := s.freeNumber u.ctx, kr := k, timed := u.timed, released := !u.timed, regions := m.map (fun x => x.1), die := u.die, rounds := if u.op.isNone then [] else s.roundsDue u.ctx }
    let s1 := { s with launches := tblPut s.launches id l }.tickFresh
    let s2 := m.foldl (fun s x =>
      if x.2.2 then s.activateRegion u.ctx x.1 id x.2.1
      else s.modCtx u.ctx (fun c => { c with regions := c.regions.map (fun (p : Nat × Region) => if p.1 = x.1 then (p.1, { p.2 with users := p.2.users ++ [id] }) else p) })) s1
    (none, s2.writeStatus u.ctx u.die k.comp 0 [])

/-- R176: LAUNCH_ACCEPT: once everything the submission orders before it is performed (Table 14-3), the record is accepted or rejected,
and the instruction that submitted it counts one less. -/
def execLaunchAccept (id : Nat) (s : State) : Out :=
  match tblFind s.submits id with
  | none => .next s
  | some u =>
    if u.after.any s.outstanding then .next (s.again (.launchAccept id))
    else if u.widen then
      let s1 := s.flushDie u.die u.ctx 3
      .next ({ s1 with submits := tblPut s1.submits id { u with widen := false, after := s1.observed u.ctx 3 } }.again (.launchAccept id))
    else
      let s1 := ({ s with submits := tblDel s.submits id }.accept u).2
      .next (match u.op with
        | none => s1
        | some q =>
          let s2 := s1.modPend q (fun p => { p with wait := p.wait - 1 })
          match tblFind s2.pends q with
          | some p => if p.wait = 0 then s2.now (.loadCompletion q) else s2
          | none => s2)

/-- The rings of a launch are given back, with what is on its way to them, its core sets, and the copies of its lines and windows. -/
def State.freeLaunch (s : State) (l : Nat) : State :=
  let s1 := s.modCores (fun _ => true) (fun c => { c with
    rings := tblDel c.rings l, lines := c.lines.filter (fun x => x.launch ≠ l), consts := c.consts.filter (fun x => x.1 ≠ l), fetched := c.fetched.filter (fun x => x.1 ≠ l)
    tags := c.tags.filter (fun (t : Nat × Nat) => keyLaunch t.2 ≠ l) })
  { s1 with launches := tblDel s1.launches l, sent := s1.sent.filter (fun p => p.2.launch ≠ l), bsets := s1.bsets.filter (fun p => p.2.launch ≠ l) }

/-- R174, R262, R412, R415: a launch ends with a status: its regions are left first, the intervals of its columns close, its completion record receives the status with the second word's
low byte, and its number is free. -/
def State.endLaunch (s : State) (l status code : Nat) : State :=
  let x := s.launch l
  let s1 := (s.leaveRegions l).closeLaunch l
  (s1.writeStatus x.ctx x.die x.kr.comp status (s1.statusRest (code + bitNat x.late 8) (if status = 4 || status = 5 then 0 else (s1.launch l).energy) x.began)).freeLaunch l

/-- R177: the wait events a record names. -/
def KRec.waitVAs (k : KRec) : List Nat := k.waits.filter (· ≠ 0)

/-- R179, R183: the parts of a core's scratchpad that are taken: workgroups that are resident, and rings, which are held until their launch
completes, saved ones too (assumption log 25). -/
def State.spTaken (s : State) (core : Nat) : List (Nat × Nat) :=
  ((s.wgs.filter (fun p => p.2.core = core && p.2.phase ≠ 1)).map (fun p => (p.2.spBase, p.2.spSize))) ++
  (s.core core).rings.map (fun p => (p.2.base, 32 * p.2.cap))

/-- R179: a contiguous range of n free bytes of a core's scratchpad. Which one a workgroup or a receive ring takes the spec does not say: the lowest,
in units of 1024 bytes (assumption log 24). -/
def State.spFree (s : State) (core n : Nat) : Option Nat :=
  if n = 0 then some 0
  else
    let taken := s.spTaken core
    ((List.range 512).find? (fun k => 1024 * k + n ≤ 524288 && !taken.any (fun t => spansMeet (1024 * k) n t.1 t.2))).map (· * 1024)

/-- The cores of the dies of a mask. -/
def maskCores (m : Nat) : List Nat := (List.range 320).filter (fun c => bit m (Config.dieOfCore c))

/-- R177, R183: LAUNCH_START: every named wait event is done, so the launch starts and its rings are reserved, once every core has room for
them; a wait event with another status, or one that cannot be read, cancels it (assumption log 24). -/
def execLaunchStart (launch : Nat) (s : State) : Out :=
  match tblFind s.launches launch with
  | none => .next s
  | some l =>
    let st := l.kr.waitVAs.map (fun va => s.statusWord l.ctx l.die va)
    if l.phase ≠ 0 || (s.ctx l.ctx).st = 2 then .next s
    else if st.any (· = none) then .next ((s.noteWalks l.ctx (s.badWalks l.ctx l.kr.waitVAs)).endLaunch launch 4 0)
    else if st.any (· = some 0) then .next s
    else if st.any (fun x => x ≠ some 1) then .next (s.endLaunch launch 4 0)
    else
      let cores := if l.kr.ringCap = 0 then [] else maskCores l.kr.dieMask
      if cores.any (fun c => (s.spFree c l.kr.ringBytes).isNone) then .next s
      else
        let s1 := cores.foldl (fun s c => s.modCore c (fun k => { k with rings := tblPut k.rings launch { cap := l.kr.ringCap, base := (s.spFree c l.kr.ringBytes).getD 0 } })) s
        .next (s1.modLaunch launch (fun l => { l with phase := 1, rounds := l.rounds ++ if l.kr.waitVAs.isEmpty then [] else s.roundsDue l.ctx }))

/-! ### Placement (R178, R179, R182) -/

/-- R355: a context runs on a die: it is its turn, and it is not being pre-empted there. -/
def State.running (s : State) (die ctx : Nat) : Bool :=
  let x := (s.die die).sched
  x.ctx = ctx && !x.draining && (s.ctx ctx).st = 1

/-- R271: mirrors have reached rounds; a region that is gone is waited for no longer. -/
def State.roundsReached (s : State) (l : List (Nat × Nat × Word)) : Bool :=
  l.all (fun r => match (s.ctx r.1).regions.find? (fun x => x.2.id = r.2.1) with
    | some x => decide ((x.2.mirror - r.2.2).toNat < 2 ^ 31)
    | none => true)

/-- The free slots of a partition of a core: a slot is taken while a group stands in it (R126, Table 11-8). -/
def State.slotsFree (s : State) (core part : Nat) : List Nat := ((List.range 32).map (fun k => 32 * part + k)).filter (fun k => !s.hasGroup core k)

/-- R179: the slots of g groups, group j in partition j mod 4; none where they are not free. Which free ones the spec does not say: the lowest
(assumption log 24). -/
def State.slotsFor (s : State) (core g : Nat) : Option (List Nat) :=
  let free := (List.range 4).map (fun q => s.slotsFree core q)
  let l := (List.range g).map (fun j => (free.getD (j % 4) [])[j / 4]?)
  if l.any (·.isNone) then none else some (l.map (·.getD 0))

/-- R179: a core's membership allows the core sets of a launch's bound tags. -/
def State.tagsFree (s : State) (core l team : Nat) : Bool :=
  (List.range 8).all (fun t => routeScope (s.launch l).kr t = 0 ||
    (match tblFind (s.core core).tags t with | some k => k = setKey l t (s.setInst l t team core) | none => true))

/-- R186: a ring of a core is due to spawn: 32 packets, or 256 cycles since the oldest arrived. -/
def State.spawnDue (s : State) (core l : Nat) : Bool :=
  match tblFind (s.core core).rings l with
  | some r => !r.saved && (r.packets.length ≥ 32 || r.packets.any (fun p => p.arrived + 256 ≤ (s.core core).cycles))
  | none => false

/-- R179, R186, R358: a core can take a workgroup of a team: its resources are free, no handler group waits for a slot, and no parked
workgroup of the context waits to resume there (assumption log 24). -/
def State.coreTakes (s : State) (l team core : Nat) : Bool :=
  let x := s.launch l
  (s.slotsFor core x.kr.g).isSome && (s.spFree core x.kr.sp).isSome && s.tagsFree core l team &&
  !(s.core core).rings.any (fun r => s.spawnDue core r.1) &&
  !s.wgs.any (fun w => w.2.core = core && w.2.phase = 1 && s.ctxOfWg w.1 = x.ctx)

/-- R178: the quadrants of a die mask in die-major order, from the one after the quadrant that took the previous team. -/
def quadOrder (mask : Nat) (last : Option Nat) : List Nat :=
  let qs := (List.range 16).filter (fun q => bit mask (q / 4))
  match last with
  | none => qs
  | some x => qs.filter (· > x) ++ qs.filter (· ≤ x)

/-- R178: the cores a team takes (assumption log 24). -/
def State.teamCores (s : State) (l team : Nat) : Option (List Nat) :=
  let x := s.launch l
  (quadOrder x.kr.dieMask x.lastQuad).findSome? (fun q =>
    if !s.running (q / 4) x.ctx then none
    else
      let cs := ((List.range 20).map (fun i => 20 * q + i)).filter (fun c => s.coreTakes l team c)
      if cs.length ≥ x.kr.t then some (cs.take x.kr.t) else none)

/-- R15, R140: group-registers of a core that resident groups use. -/
def State.regsUsed (s : State) (core : Nat) : Nat :=
  ((s.groups.filter (fun p => p.1 / 128 = core && p.2.chest ≠ 1)).map (fun p => p.2.n)).foldl (· + ·) 0

/-- R30, R140, Table 01-6: a group of a workgroup begins in a slot: its threads stand at a position, lowered where no registers are free. -/
def State.beginGroup (s : State) (w core slot idx : Nat) (kr : KRec) (pos : Long) (held : Bool) (f : Nat → Thread → Thread) : State :=
  let t : Thread := { pos := pos, entering := true, came := true, fpctl := BitVec.ofNat 5 (bits kr.flags 9 5), chk := bit kr.flags 4 }
  let room := s.regsUsed core + kr.n ≤ 6144
  let g : Group := { wg := w, idx := idx, n := kr.n, threads := (List.range 32).map (fun l => f l t), held := held, chest := if room then 0 else 1, entered := true, sunk := !room }
  s.setGroup core slot g

/-- R178-R180, R391: a workgroup of a launch begins on a core. -/
def State.beginWg (s : State) (l core team idx : Nat) : State :=
  let x := s.launch l
  let w := s.fresh + 1
  let slots := (s.slotsFor core x.kr.g).getD []
  let wg : Workgroup := { launch := l, core := core, index := BitVec.ofNat 32 idx, team := team, gcount := x.kr.g, slots := slots, spBase := (s.spFree core x.kr.sp).getD 0, spSize := x.kr.sp }
  let s1 := { s with wgs := tblPut s.wgs w wg }.tickFresh
  let s2 := (List.range x.kr.g).foldl (fun s j => s.beginGroup w core (slots.getD j 0) j x.kr x.kr.entry (!x.released) (fun _ t => t)) s1
  let s3 := s2.modCore core (fun c => { c with tags := (List.range 8).foldl (fun t k =>
    if routeScope x.kr k = 0 then t else tblPut t k (setKey l k (s.setInst l k team core))) c.tags })
  s3.startInterval w

/-- R178: the next team a launch places: one whose reservation was released, or the next in order (assumption log 24). -/
def State.nextTeamOf (s : State) (l : Nat) : Option Nat :=
  let x := s.launch l
  match x.redo with
  | k :: _ => some k
  | [] => if x.nextTeam * x.kr.t < x.kr.w then some x.nextTeam else none

/-- R261, R271: a launch may begin: the rounds of its regions are announced and judged. -/
def State.mayBegin (s : State) (l : Nat) : Bool :=
  let x := s.launch l
  x.phase = 1 && !x.halting && s.roundsReached x.rounds &&
  x.regions.all (fun k => match tblFind (s.ctx x.ctx).regions k with | some r => r.announced | none => true)

/-- R179: with every team of a launch placed, a core set that no workgroup stands in has ended. -/
def State.endSets (s : State) (l : Nat) : State :=
  if (s.nextTeamOf l).isSome then s
  else
    let live := (List.range 8).flatMap (fun t => (s.wgs.filter (fun p => p.2.launch = l && !p.2.handler)).map (fun p => setKey l t (s.setInst l t p.2.team p.2.core)))
    s.modCores (fun _ => true) (fun c => { c with tags := c.tags.filter (fun (t : Nat × Nat) => keyLaunch t.2 ≠ l || live.contains t.2) })

/-- R178, R180, R257: TEAM_PLACE: the next team of a started launch takes its quadrant; with the last team of a launch.at its reservations
are complete and its start is due (R182). A team that finds no quadrant waits. -/
def execTeamPlace (launch : Nat) (s : State) : Out :=
  let x := s.launch launch
  match s.nextTeamOf launch with
  | none => .next s
  | some k =>
    if !s.mayBegin launch then .next s
    else match s.teamCores launch k with
      | none => .next s
      | some cs =>
        let s0 := if x.begun || x.timed then s else s.modLaunch launch (fun x => { x with begun := true, began := s.tick })
        let s1 := if x.snap.isEmpty then s0.modLaunch launch (fun x => { x with snap := s.mem }) else s0
        let s2 := s1.modLaunch launch (fun x => { x with lastQuad := (cs.head?).map (· / 20), redo := x.redo.drop 1, nextTeam := if x.redo.isEmpty then x.nextTeam + 1 else x.nextTeam })
        let s3 := ((List.range cs.length).foldl (fun s r => s.beginWg launch (cs.getD r 0) k (k * x.kr.t + r)) s2).endSets launch
        let s4 := if x.timed && !x.released && (s3.nextTeamOf launch).isNone then
            (if x.kr.start ≤ s.tick then s3.now (.timedLaunchRelease launch) else s3.inTicks (x.kr.start - s.tick) (.timedLaunchRelease launch)) else s3
        .next (s4.bsets.foldl (fun s b => if b.2.launch = launch && b.2.arrived > 0 then s.now (.bartRelease b.1 b.2.tag) else s) s4)

/-- R182: TIMED_LAUNCH_RELEASE: with all reservations complete and the context running where they stand, every group becomes eligible; late
where that is after the start tick. It is looked at in the start tick, as the last reservation is made, and as a turn of the context begins. -/
def execTimedLaunchRelease (launch : Nat) (s : State) : Out :=
  let x := s.launch launch
  let mine := s.wgs.filter (fun p => p.2.launch = launch)
  if !x.timed || x.released || (s.nextTeamOf launch).isSome || x.halting || s.tick < x.kr.start ||
      !mine.all (fun p => s.running (Config.dieOfCore p.2.core) x.ctx) then .next s
  else
    let s1 := s.modLaunch launch (fun x => { x with released := true, begun := true, began := s.tick, late := s.tick ≠ x.kr.start, snap := s.mem })
    .next { s1 with groups := s1.groups.map (fun (p : Nat × Group) => if (s.wg p.2.wg).launch = launch then (p.1, { p.2 with held := false }) else p) }

/-! ### Completion (R146, R179, R180, R286) -/

/-- R146: operations of a workgroup that are not performed. -/
def State.wgBusy (s : State) (w : Nat) : Bool :=
  let x := s.wg w
  s.pends.any (fun p => s.wgOf p.2.core p.2.slot = w) ||
  s.msgs.any (fun m => m.2.wg = w && m.2.lanes ≠ 0) || s.homeOps.any (fun o => o.2.wg = w) || x.copies.any (fun c => c.2.st ≠ 0) ||
  (s.core x.core).mq.any (fun o => o.wg = w) || s.sent.any (fun p => p.2.packet.senderWg = w)

/-- R433: a quiesce ends when its workgroup completes, is parked or is reset; that one has ended at a demand (R424) stays known while the workgroup is
parked. -/
def State.dropQuiesces (s : State) (w : Nat) (parked : Bool) : State :=
  { s with homes := s.homes.map (fun (p : Nat × Home) => (p.1, { p.2 with
      quiesce := p.2.quiesce.filter (fun (q : Nat × Quiesce) => q.2.wg ≠ w), ended := if parked then p.2.ended else p.2.ended.filter (fun (e : Nat × Nat) => e.1 ≠ w) })) }

/-- R179: the core sets that end with a workgroup: no other workgroup of the set stands anywhere, and none will be placed in it. -/
def State.endedSets (s : State) (w : Nat) : List Nat :=
  let x := s.wg w
  let l := s.launch x.launch
  let all := l.redo.isEmpty && l.nextTeam * l.kr.t ≥ l.kr.w
  if x.handler then []
  else (List.range 8).filterMap (fun t =>
    let i := s.setInst x.launch t x.team x.core
    if routeScope l.kr t ≠ 0 && (all || routeScope l.kr t = 1) && !s.wgs.any (fun p => p.1 ≠ w && p.2.launch = x.launch && !p.2.handler &&
      s.setInst x.launch t p.2.team p.2.core = i) then some (setKey x.launch t i) else none)

/-- R179: a workgroup's resources are free: its groups, scratchpad, barriers, operand memory, its part of the save area (R358), with the last workgroup
of a core set every core's membership of it, and its leases (R286). -/
def State.freeWg (s : State) (w : Nat) : State :=
  let x := s.wg w
  let ctx := s.ctxOfWg w
  let sets := s.endedSets w
  let s0 := (s.freeAllUnits x.core w).modCtx ctx (fun c => { c with saveUsed := c.saveUsed - x.saveLen })
  let s1 := { s0 with wgs := tblDel s0.wgs w, groups := s0.groups.filter (fun p => p.2.wg ≠ w) }
  let s2 := if sets.isEmpty then s1 else s1.modCores (fun _ => true) (fun c => { c with tags := c.tags.filter (fun (t : Nat × Nat) => !sets.contains t.2) })
  ((s2.modCore x.core (fun c => { c with locks := c.locks.filter (fun y => y.owner ≠ w) })).leaveCore x.core ctx).dropQuiesces w false

/-- R146, R179: WORKGROUP_COMPLETE: all its threads have exited and its operations have been performed. -/
def execWorkgroupComplete (wg : Nat) (s : State) : Out :=
  match tblFind s.wgs wg with
  | none => .next s
  | some x =>
    if s.groups.any (fun p => p.2.wg = wg) || !x.saved.isEmpty || x.halt.isSome || s.wgBusy wg then .next s
    else .next (s.freeWg wg)

/-- R180: the workgroups, handler groups and rings of a launch are done. -/
def State.launchDone (s : State) (l : Nat) : Bool :=
  let x := s.launch l
  x.phase = 1 && !x.halting && (s.nextTeamOf l).isNone && !s.wgs.any (fun p => p.2.launch = l) && !s.sent.any (fun p => p.2.launch = l) &&
  !s.cores.any (fun c => (match tblFind c.2.rings l with | some r => !r.packets.isEmpty || !r.spawned.isEmpty | none => false))

/-- R174, R210: every gather entry that holds bytes of a context leaves. -/
def State.flushAll (s : State) (ctx : Nat) : State :=
  s.dies.foldl (fun s d => (d.2.gather.filter (fun p => p.2.ctxs.getLsbD ctx)).foldl (fun s p => s.flushGather d.1 p.1) s) s

/-- R174: a launch is to end with a status. The completion record is a release at .sys, so the context's gather entries leave first, and the
status is written once every write on its way then has been performed. -/
def State.finishLaunch (s : State) (l status code : Nat) : State :=
  let s1 := s.flushAll (s.launch l).ctx
  s1.modLaunch l (fun x => { x with closing := some (s1.unperformed (s.launch l).ctx), ending := (status, code) })

/-- R174, R180: LAUNCH_COMPLETE: a launch that is done is to end with status 1; one that is to end does when its writes are performed. -/
def execLaunchComplete (launch : Nat) (s : State) : Out :=
  let x := s.launch launch
  .next (match x.closing with
    | none => if s.launchDone launch then s.finishLaunch launch 1 0 else s
    | some ids => if ids.any s.outstanding then s else s.endLaunch launch x.ending.1 x.ending.2)

/-! ### launch and launch.at (R175) -/

/-- Table 11-6, order 3: a record at a VA: a fault, a page that is not translated, or none. -/
def State.recordCheck (s : State) (ctx va n : Nat) (write : Bool) : RangeChk :=
  if n = 0 then .ok []
  else match s.rangeCheck ctx va n 5 with
    | .ok l => if (List.range ((n + 65535) / 65536 + 1)).any (fun p =>
        let a := if p = 0 then va else min (va + n - 1) ((va / 65536 + p) * 65536)
        match s.walk ctx a with | .ok _ e => if write then !leafW e else !leafR e | _ => false) then .fault [] else .ok l
    | r => r

/-- The first VA of those a submission reads or names that cannot be used, and why. -/
def State.submitCheck (s : State) (va : Nat) : Option (Nat × RangeChk) :=
  let ctx := s.curCtx
  let bad (v n : Nat) (w : Bool) : Option (Nat × RangeChk) := match s.recordCheck ctx v n w with | .ok _ => none | r => some (v, r)
  match bad va 256 false with
  | some r => some r
  | none =>
    let b := (List.range 256).map (fun i => s.engineByte s.cur.core ctx (va + i))
    let k := krOf b
    (k.waitVAs.findSome? (fun v => bad v 4 false)).or ((if k.comp = 0 then none else bad k.comp 64 true).or (bad k.regVA (16 * k.regN) false))

/-- R175, R259, R350: an uncorrectable codeword of n bytes that a submission reads at a VA. -/
def State.recordBadWord (s : State) (ctx va n : Nat) : Option Bad :=
  if s.bad.isEmpty then none
  else (List.range n).findSome? (fun i => match s.walk ctx (va + i) with
    | .ok pa e => if leafWindow e then none else s.badMem pa 1
    | _ => none)

/-- R175: a lane submits its record. -/
def State.submitOne (s : State) (timed : Bool) (q lane va : Nat) : State :=
  let u : Submit := { ctx := s.curCtx, va := va, timed := timed, die := Config.dieOfCore s.cur.core, op := some q, after := s.accessesOf (BitVec.ofNat 32 (2 ^ lane)) false, widen := true }
  ({ s with submits := tblPut s.submits s.fresh u }.tickFresh).later (.launchAccept s.fresh)

/-- R175, R177: the lanes submit in ascending order; number q is what the instruction's submissions are known by. Each lane's faults
come in its turn; what orders 2 and 3 of Table 11-6 look at is known of a lane whose crossing has not failed there. -/
def State.submitLanes (s : State) (h : Hdr) (i : Instr) (f : FmtS) (timed : Bool) (q : Nat) (lanes : List Nat) : State :=
  match lanes with
  | [] =>
    let k := s.cur
    let n := (s.submits.filter (fun p => p.2.op = some q)).length
    let p : Pend := { core := k.core, slot := k.slot, kind := 5, path := k.path, lanes := k.lanes, act := s.active h, pos := k.pos, tok := h.tok.toNat, wait := n }
    let s1 := s.takeToken h
    let s2 := { s1 with pends := tblPut s1.pends q p }
    (if n = 0 then s2.later (.loadCompletion q) else s2).retireSeq h
  | l :: rest =>
    let va := (s.selPair l f.a.toNat).toNat
    let act := s.active h
    if !s.hasFailed l f.a.toNat && va % 256 ≠ 0 then s.raise h act cMISALIGN (BitVec.ofNat 64 va)
    else match crossFail (s.cur.failed.filter (fun x => x.lane = l)) with
    | some x => s.raiseCross h act x
    | none => match s.submitCheck va with
      | some (v, .fault bad) => (s.noteWalks s.curCtx bad).raise h act cACCESS (BitVec.ofNat 64 v)
      | some (v, .park _) => ((s.carry (v :: q :: lanes)).waitFor h i (.page (BitVec.ofNat 64 v)) 7).inTicks Config.pageFaultTicks
          (.pageFaultTimeout s.cur.core s.cur.slot (s.beginWait h).fresh)
      | _ =>
        let k := krOf ((List.range 256).map (fun j => s.engineByte s.cur.core s.curCtx (va + j)))
        match (s.recordBadWord s.curCtx va 256).or (s.recordBadWord s.curCtx k.regVA (16 * k.regN)) with
        | some b => s.raiseBad h act b
        | none =>
          if s.launchCount s.curCtx ≥ 256 then (s.carry (0 :: q :: lanes)).waitFor h i .launches 9
          else State.submitLanes (s.submitOne timed q l va) h i f timed q rest

/-- R175: launch and launch.at: the pairs cross, then the lanes submit. -/
def State.launchOp (s : State) (h : Hdr) (i : Instr) (f : FmtS) (timed : Bool) : State :=
  let act := s.active h
  let srcs := [Src.pair f.a.toNat]
  s.withOperandsLate h i act srcs [] [] stayNone 0 id (fun s =>
    match s.cur.nums with
    | _ :: q :: lanes => s.submitLanes h i f timed q lanes
    | _ => ((s.capture act (srcRegs srcs)).tickFresh).submitLanes h i f timed s.fresh (lanesOf act))

/-- R175: launch. -/
def execLaunch (h : Hdr) (f : FmtS) (s : State) : Out := .next (s.launchOp h (.launch h f) f false)
/-- R175: launch.at. -/
def execLaunchAt (h : Hdr) (f : FmtS) (s : State) : Out := .next (s.launchOp h (.launchAt h f) f true)

/-! ### Active messages (R183-R187) -/

/-- R184: one lane's packet is sent, after what the lane orders before it and its earlier packets to the same core. -/
def State.sendPacket (f : FmtE) (n q : Nat) (rel : Bool) (s : State) (l : Nat) : State :=
  let k := s.cur
  let w := s.curWg
  let dest := (s.selWord l f.a.toNat).toNat
  let before := (s.sent.filter (fun p => p.2.packet.senderWg = w && p.2.slot = k.slot && p.2.lane = l && p.2.core = dest)).map (fun p => p.1)
  let pk : Packet := { handler := f.handle.toNat % 256, words := (List.range n).map (fun j => s.selWord l (f.b.toNat + j)), sender := k.core, senderWg := w }
  (({ s with sent := tblPut s.sent s.fresh { launch := s.launchOfWg w, core := dest, slot := k.slot, lane := l, packet := pk, op := q, rel := rel, prev := (if rel then s.accessesOf (BitVec.ofNat 32 (2 ^ l)) false else []) ++ before, widen := rel } }.tickFresh).later
    (.amPacketArrival s.fresh))

/-- R184, R187: am.send. -/
def execAmSend (h : Hdr) (f : FmtE) (s : State) : Out :=
  let act := s.active h
  let n := f.par.toNat % 8
  let rel := bit f.par.toNat 3
  .next (s.withOperandsLate h (.amSend h f) act (.reg f.a.toNat :: (List.range n).map (fun j => Src.reg (f.b.toNat + j))) [] [] stayNone 0 id (fun s =>
    let k := s.cur
    match (lanesOf act).find? (fun l => s.amTargetBad f l) with
    | some l => s.raise h act cACCESS ((s.selWord l f.a.toNat).setWidth 64)
    | none => s.raiseFailed h act (fun s =>
      let q := s.fresh
      let s1 := (lanesOf act).foldl (fun s l => State.sendPacket f n q rel s l) (s.takeToken h).tickFresh
      if act = 0 then (s1.dropToken h).retireSeq h
      else
        let p : Pend := { core := k.core, slot := k.slot, kind := 5, path := k.path, lanes := k.lanes, act := act, pos := k.pos, tok := h.tok.toNat, wait := (lanesOf act).length }
        { s1 with pends := tblPut s1.pends q p }.retireSeq h)))

/-- R184, R271: a packet reaches its ring, which accepts it, and of a release the rounds it must not miss, or, full or saved, refuses it; the sender's core tries again 64 cycles later.
The ring of a launch that is being ended takes no packet, and none is kept for it (assumption log 25). -/
def State.packetArrives (s : State) (id : Nat) : State :=
  match tblFind s.sent id with
  | none => s
  | some p =>
    if p.prev.any s.outstanding then s.again (.amPacketArrival id)
    else if p.widen then
      let ctx := (s.launch p.launch).ctx
      let s1 := s.flushDie (Config.dieOfCore p.packet.sender) ctx 3
      { s1 with sent := tblPut s1.sent id { p with widen := false, prev := s1.observed ctx 3 } }.again (.amPacketArrival id)
    else
      let accepted (s : State) : State :=
        let s1 := { s with sent := tblDel s.sent id }.modPend p.op (fun q => { q with wait := q.wait - 1 })
        match tblFind s1.pends p.op with | some q => if q.wait = 0 then s1.now (.loadCompletion p.op) else s1 | none => s1
      if (s.launch p.launch).halting then accepted s
      else match tblFind (s.core p.core).rings p.launch with
      | none => s.inCycles p.packet.sender 64 (.amPacketRetry id)
      | some r =>
        if r.saved || r.packets.length ≥ r.cap then s.inCycles p.packet.sender 64 (.amPacketRetry id)
        else
          let pk := { p.packet with arrived := (s.core p.core).cycles, rounds := if p.rel then s.roundsDue (s.launch p.launch).ctx else [] }
          let s1 := s.modCore p.core (fun c => { c with rings := tblPut c.rings p.launch { r with packets := r.packets ++ [pk] } })
          let s4 := accepted (s1.modWg p.packet.senderWg (fun w => { w with packets := w.packets + 1 }))
          let s5 := s4.inCycles p.core 256 (.handlerSpawn p.core p.launch)
          if r.packets.length + 1 ≥ 32 then s5.now (.handlerSpawn p.core p.launch) else s5

/-- R184: AM_PACKET_ARRIVAL. -/
def execAmPacketArrival (id : Nat) (s : State) : Out := .next (s.packetArrives id)

/-- R184: AM_PACKET_RETRY. -/
def execAmPacketRetry (id : Nat) (s : State) : Out := .next (s.packetArrives id)

/-- R185: no packet of a workgroup is outstanding, those not yet accepted included (assumption log 13). -/
def State.packetsDone (s : State) (w : Nat) : Bool := (s.wg w).packets = 0 && !s.sent.any (fun p => p.2.packet.senderWg = w)

/-- R185: am.done: its threads wait until no packet of the workgroup is outstanding, and end as an acquire of what the handler groups stored
(Table 14-3) (assumption log 13). -/
def execAmDone (h : Hdr) (f : FmtE) (s : State) : Out :=
  let i := Instr.amDone h f
  let act := s.active h
  .next (
    if act = 0 || s.cur.nums = [2] then (s.doneNow h).retireSeq h
    else if !s.packetsDone s.curWg then s.waitActive h i .packets 4
    else
      let ids := (s.unperformed s.curCtx).filter s.outstanding
      let rounds := s.roundsDue s.curCtx
      if ids.isEmpty && rounds.isEmpty then (s.doneNow h).retireSeq h else (s.carry [2]).waitActive h i (.gone ids rounds) 4)

/-- R187: the entry of a handler index, 0 where it is invalid, or where the table cannot be read any longer (assumption log 25). -/
def State.handlerEntry (s : State) (l idx : Nat) : Nat :=
  let x := s.launch l
  if idx ≥ x.kr.handN then 0 else leNat (s.sysBytes x.ctx x.die (x.kr.handVA + 8 * idx) 8)

/-- R187: AM_HANDLER: the packet is removed, the core records the fault, and the launch halts (assumption log 25). -/
def State.handlerFault (s : State) (core l : Nat) (p : Packet) : State :=
  let ctx := (s.launch l).ctx
  let r : HaltRec := { code := cHANDLER, kind := 3, tvalue := BitVec.ofNat 64 (p.sender + 2 ^ 16 * p.handler), time := s.tick }
  let f : FaultKept := { wg := 0xFFFFFFFF, core := core, ctx := ctx, ival := 0, rwc := 0, halt := r, skids := [] }
  let s1 := s.modLaunch l (fun x => { x with fault := if x.fault.isSome then x.fault else some f, halting := !(s.ctx ctx).debug || x.halting })
  if (s.launch l).halting then s1 else s1.announceLaunchHalt (Config.dieOfCore core) l

/-- R186: the packets a handler group takes: the oldest, and those behind it with the same index, 32 at most (assumption log 25). -/
def takePackets (l : List Packet) : List Packet :=
  match l with
  | [] => []
  | p :: _ => (l.filter (fun q => q.handler = p.handler)).take 32

/-- The packets left of a list without the first ones that were taken. -/
def leavePackets (n idx : Nat) : List Packet → List Packet
  | [] => []
  | p :: r => match n with
    | 0 => p :: r
    | k + 1 => if p.handler = idx then leavePackets k idx r else p :: leavePackets (k + 1) idx r

/-- R186: a handler group begins with packets in its lanes. Neither R186 nor Table 01-1 gives its sr.team a value: 0 (assumption log 25). -/
def State.beginHandler (s : State) (core l slot entry : Nat) (ps : List Packet) : State :=
  let x := s.launch l
  let w := s.fresh + 1
  let wg : Workgroup := { launch := l, core := core, index := 0xFFFFFFFF, gcount := 1, slots := [slot], handler := true }
  let s1 := { s with wgs := tblPut s.wgs w wg }.tickFresh
  let s2 := s1.modCore core (fun c => { c with rings := c.rings.map (fun (r : Nat × RxRing) =>
    if r.1 = l then (r.1, { r.2 with packets := leavePackets ps.length ((ps.map (fun p => p.handler)).headD 0) r.2.packets, spawned := r.2.spawned ++ [(w, ps.map (fun p => p.senderWg))] }) else r) })
  (s2.beginGroup w core slot 0 x.kr (BitVec.ofNat 64 entry) false (fun k t =>
    match ps[k]? with
    | none => { t with exited := true }
    | some p => { t with amsrc := BitVec.ofNat 32 p.sender, regs := (List.range 4).foldl (fun t j => tblSet {} t j ⟨p.words.getD j 0, false⟩) [] })).startInterval w

/-- R186, R187: HANDLER_SPAWN: with 32 packets, or 256 cycles after the oldest arrived, and a slot free, a handler group takes packets of
one index; an invalid index ends the launch. Nothing spawns on a die where the context does not run. -/
def execHandlerSpawn (core launch : Nat) (s : State) : Out :=
  match tblFind (s.core core).rings launch with
  | none => .next s
  | some r =>
    match r.packets with
    | [] => .next s
    | p :: rest =>
      let x := s.launch launch
      let ps := takePackets r.packets
      if !s.spawnDue core launch then .next s
      else if !s.running (Config.dieOfCore core) x.ctx || x.halting || !s.roundsReached ((ps.map (fun p => p.rounds)).flatten) then
        .next (s.again (.handlerSpawn core launch))
      else
        let e := s.handlerEntry launch p.handler
        if e = 0 then
          let s := if p.handler < x.kr.handN then s.noteWalks x.ctx (s.badWalks x.ctx [x.kr.handVA + 8 * p.handler]) else s
          let s1 := s.modCore core (fun c => { c with rings := tblPut c.rings launch { r with packets := rest } })
          .next ((s1.handlerFault core launch p).again (.handlerSpawn core launch))
        else match s.slotsFree core 0 with
          | [] => .next (s.again (.handlerSpawn core launch))
          | slot :: _ =>
            let s1 := s.beginHandler core launch slot e ps
            .next (if s1.spawnDue core launch then s1.again (.handlerSpawn core launch) else s1)

end Sys2Proof.Machine
end

