-- ==== Sys2Proof/Machine/Halt.lean ====
section
/-! DEFINITION. What follows a fault (R336-R341): delivery of a halt, settling, the end of a faulted launch; page faults (R347); the lectern
(R7, R263, R264, R269, R339, R360); the settles of the ring (R212). -/

namespace Sys2Proof.Machine

/-! ### Delivery and settling (R336-R340) -/

/-- R336: how the groups that raise no fault stop: as siblings of the raising group (1), or by an asynchronous fault or a launch halt (2). -/
def HaltRec.siblingKind (r : HaltRec) : Nat := if r.kind = 2 || r.kind = 3 || r.group = 0xFF then 2 else 1

/-- R336: HALT_DELIVERY: the halt of a workgroup reaches a partition of its core; its groups there stop. -/
def execHaltDelivery (wg part : Nat) (s : State) : Out :=
  match (s.wg wg).halt with
  | none => .next s
  | some r =>
    let core := (s.wg wg).core
    let s1 := s.modWg wg (fun x => { x with reach := x.reach ||| BitVec.ofNat 4 (2 ^ part) })
    .next { s1 with groups := s1.groups.map (fun (p : Nat × Group) =>
      if p.2.wg = wg && p.1 / 128 = core && p.1 % 128 / 32 = part && !p.2.stopped then (p.1, p.2.stopIn r.siblingKind (s.core core).cycles) else p) }

/-- R337: waits that end when operations a thread issued before the stop complete (assumption log 28). -/
def Waiting.counts (w : Waiting) : Bool := match w.cond with | .gone .. => true | .hold _ => true | _ => false

/-- R337: every group has stopped, and every thread operation issued before the stops has completed; engine operations, and a trap that is due
at the end of a wait (R121), are not waited for. -/
def State.mayDeclareSettled (s : State) (w : Nat) : Bool :=
  let x := s.wg w
  x.halt.isSome && !x.settled && x.phase = 0 && x.reach = 15 &&
  s.groups.all (fun p => p.2.wg ≠ w || (p.2.stopped && p.2.xings.isEmpty && !p.2.waits.any Waiting.counts)) &&
  !s.pends.any (fun p => p.2.kind ≠ 4 && s.wgOf p.2.core p.2.slot = w) &&
  !s.msgs.any (fun m => m.2.wg = w && m.2.lanes ≠ 0) && !s.homeOps.any (fun o => o.2.wg = w) && !s.sent.any (fun p => p.2.packet.senderWg = w)

/-- Table 20-2: the skid records of a workgroup's groups, by group number, those that have left their slots among them (assumption log 28). -/
def State.skidsOf (s : State) (w : Nat) : List (Nat × Nat × Nat × Nat) :=
  let x := s.wg w
  let gs := (s.groups.filter (fun p => p.2.wg = w)).map (fun p => p.2) ++ x.saved.map (fun p => p.2)
  (List.range 128).flatMap (fun i => (gs.filter (fun g => g.idx = i)).map (fun g => (g.lastA.toNat, g.skid, g.stopKind, g.ownFault)) ++
    (x.left.filter (fun p => p.1 = i)).map (fun p => (p.2.1, p.2.2, (x.halt.map HaltRec.siblingKind).getD 1, 0)))

/-- Table 20-3: the fault record of a halted workgroup with its skid records. -/
def State.faultKept (s : State) (w : Nat) (r : HaltRec) : FaultKept :=
  let x := s.wg w
  { wg := x.index, core := x.core, ctx := s.ctxOfWg w, ival := x.ival, rwc := x.rwc, halt := r, skids := s.skidsOf w }

/-- R340: of two faults the earlier is the launch's first; ties go to the lower core, then the lower sr.wg. -/
def earlier (a b : FaultKept) : Bool :=
  a.halt.time < b.halt.time || (a.halt.time = b.halt.time && (a.core < b.core || (a.core = b.core && a.wg.toNat ≤ b.wg.toNat)))

/-- R340: a workgroup's operations that are not done are dropped with it: copies, matrix operations, results. -/
def State.dropWgWork (s : State) (w : Nat) : State :=
  let x := s.wg w
  let s1 := s.modCore x.core (fun c => { c with mq := c.mq.filter (fun o => o.wg ≠ w), locks := c.locks.filter (fun y => y.owner ≠ w) })
  { s1 with
    pends := s1.pends.filter (fun p => s.wgOf p.2.core p.2.slot ≠ w)
    homeOps := s1.homeOps.filter (fun o => o.2.wg ≠ w)
    sent := s1.sent.filter (fun p => p.2.packet.senderWg ≠ w) }

/-- R229, R380: the pubs that wait in a group are no longer in flight. -/
def State.dropPubs (s : State) (ctx : Nat) (g : Group) : State :=
  g.waits.foldl (fun s w => match w.instr with
    | .pub _ f => { s with windows := s.windows.map (fun (p : Nat × Window) => if p.1 = ctx * 64 + f.off.toNat % 64 then (p.1, { p.2 with busy := p.2.busy - 1 }) else p) }
    | _ => s) s

/-- R274, R277: the reads that a group's waiting instructions have announced, and the result slots they have taken, are given up. -/
def State.dropReads (s : State) (core ctx : Nat) (g : Group) : State :=
  let iss := g.waits.map Waiting.iss ++ g.xings.map Xing.iss
  let words := (iss.map Issue.held).flatten ++ (g.xings.map (fun x => (x.ops.filter (fun o => !o.got)).map XOp.word)).flatten
  let s1 := words.foldl (fun s w => s.dropReader w) s
  ((iss.map Issue.slots).flatten).foldl (fun s x => s.untakeSlot core ctx x.2.1 x.2.2.1 x.2.2.2) s1

/-- The groups of a workgroup: those on its core, and those it has saved. -/
def State.groupsOf (s : State) (w : Nat) : List Group := (s.groups.filter (fun p => p.2.wg = w)).map (fun p => p.2) ++ (s.wg w).saved.map (fun p => p.2)

/-- R284, R340: the slots that a workgroup's groups hold, those it has saved too, are released, and its waiting instructions are given up. -/
def State.releaseGroups (s : State) (w : Nat) : State :=
  let core := (s.wg w).core
  (s.groupsOf w).foldl (fun s g =>
    (List.range 32).foldl (fun s l => s.releaseRegs core w (g.thread l)) ((s.dropPubs (s.ctxOfWg w) g).dropReads core (s.ctxOfWg w) g)) s

/-- R174, R340: a faulted launch ends once every workgroup and handler group of it has settled: resources are freed, the first fault is kept for
the query, and the completion record receives status 3 once the launch's writes are performed. Parked workgroups issue nothing and are freed with it. -/
def State.endFaulted (s : State) (l : Nat) : State :=
  let x := s.launch l
  let mine := s.wgs.filter (fun p => p.2.launch = l)
  if !x.halting || x.closing.isSome || !mine.all (fun p => p.2.settled || p.2.phase = 1) then s
  else
    let s1 := mine.foldl (fun s p => ((s.releaseGroups p.1).dropWgWork p.1).freeWg p.1) s
    let s2 := match x.fault with
      | some f => s1.modCtx x.ctx (fun c => { c with faults := (f :: c.faults).take 64 })
      | none => s1
    s2.finishLaunch l 3 ((x.fault.map (fun f => f.halt.code)).getD 0)

/-- R337, R340: WORKGROUP_SETTLE: the fault record and the skid records are written; without debug the launch ends when its last workgroup
settles. -/
def execWorkgroupSettle (wg : Nat) (s : State) : Out :=
  if !s.mayDeclareSettled wg then .next s
  else match (s.wg wg).halt with
    | none => .next s
    | some r =>
      let l := s.launchOfWg wg
      let s1 := s.modWg wg (fun x => { x with settled := true })
      if (s.ctx (s.ctxOfWg wg)).debug || r.kind = 4 then .next s1
      else
        let f := s1.faultKept wg r
        let s2 := if r.kind = 3 then s1
          else s1.modLaunch l (fun x => { x with fault := match x.fault with | some g => if earlier g f then some g else some f | none => some f })
        .next (s2.endFaulted l)

/-- R338: ASYNC_FAULT_ARRIVAL: a fault from outside the issuing pipeline reaches a workgroup. An uncorrectable error, or a stale slot, is also a
machine check, whose number is sr.tvalue of UNCORRECTABLE (Table 20-1); which unit met an uncorrectable error is not part of the event: a free value (assumption log 4, 10). -/
def execAsyncFaultArrival (wg code lane : Nat) (pos tvalue : Long) (s : State) : Out :=
  if (tblFind s.wgs wg).isNone then .next s
  else
    let x := s.wg wg
    let lanes := if lane < 32 then BitVec.ofNat 32 (2 ^ lane) else 0
    let mc := BitVec.ofNat 32 s.mcNext
    .next (
      if code = cUNCORR then
        (s.tickFresh.machineCheck (1 + s.anyValue.toNat % 13) 3 x.core tvalue.toNat (s.ctxOfWg wg)).asyncFault wg code lanes pos (BitVec.ofNat 64 s.mcNext) mc
      else if code = cSTALE then
        (s.machineCheck 8 3 (proxyStack (tvalue.setWidth 32)) (proxySlot (tvalue.setWidth 32)) (s.ctxOfWg wg)).asyncFault wg code lanes pos tvalue mc
      else s.asyncFault wg code lanes pos tvalue 0xFFFFFFFF)

/-- R339: LAUNCH_HALT_ARRIVAL: the halt of a launch reaches a core: its workgroups and handler groups there halt. -/
def execLaunchHaltArrival (launch core : Nat) (s : State) : Out :=
  let mine := s.wgs.filter (fun p => p.2.launch = launch && p.2.core = core && p.2.phase = 0)
  let s1 := mine.foldl (fun s p => s.haltWg p.1 none { code := 0, kind := 3, time := s.tick }) s
  .next (s1.endFaulted launch)

/-! ### Page faults (R347) -/

/-- A wait of a group by its number. -/
def State.findWait (s : State) (core slot id : Nat) : Option Waiting := (s.group core slot).waits.find? (fun w => w.id = id)

/-- A wait is removed; its threads stand where they stood. -/
def State.dropWait (s : State) (core slot id : Nat) : State :=
  s.modGroup core slot (fun g => { g with waits := g.waits.filter (fun w => w.id ≠ id) })

/-- R347: whether a page is still not translated. -/
def State.stillAbsent (s : State) (core slot : Nat) (va : Long) : Bool :=
  match s.walk (s.ctxOfWg (s.wgOf core slot)) va.toNat with | .absent _ => true | _ => false

/-- R347: a parked access goes on: an instruction that had begun to wait goes on from there, one that had not issues again. -/
def State.unpark (s : State) (core slot : Nat) (w : Waiting) : State :=
  if w.iss.phase = 0 then s.dropWait core slot w.id else s.endWait core slot w.id

/-- R347: PAGE_FAULT_RESOLVE: firmware has resolved the translation of what a parked access needs. A stopped group stays parked; it checks
again when it is resumed. -/
def execPageFaultResolve (core slot id : Nat) (s : State) : Out :=
  match s.findWait core slot id with
  | none => .next s
  | some w =>
    match w.cond with
    | .page va => .next (if s.stillAbsent core slot va || (s.group core slot).stopped then s else s.unpark core slot w)
    | _ => .next s

/-- R347: PAGE_FAULT_TIMEOUT: firmware has not resolved the translation within 10 ms: PAGE is raised precisely. -/
def execPageFaultTimeout (core slot id : Nat) (s : State) : Out :=
  match s.findWait core slot id with
  | none => .next s
  | some w =>
    match w.cond with
    | .page va =>
      if (s.group core slot).stopped then .next s
      else if !s.stillAbsent core slot va then .next (s.unpark core slot w)
      else
        let s1 := { s.dropWait core slot id with cur := w.iss }
        let h := headerOf w.instr
        let lanes := match w.instr with | .lineRefetch .. => w.iss.lanes | _ => s1.active h
        let tv := match w.instr with | .cwb .. => BitVec.ofNat 64 (w.iss.nums.headD 0) | .cinv .. => BitVec.ofNat 64 (w.iss.nums.headD 0) | _ => va
        .next (s1.raise h lanes cPAGE tv)
    | _ => .next s

/-- R347, R358: the accesses of a group that are parked check their pages again, with 10 ms from now. -/
def State.rearm (s : State) (core slot : Nat) : State :=
  (s.group core slot).waits.foldl (fun s w => match w.cond with
    | .page _ => (s.now (.pageFaultResolve core slot w.id)).inTicks Config.pageFaultTicks (.pageFaultTimeout core slot w.id)
    | _ => s) s

/-- R347, R366: the accesses that are parked look at their pages again: a table may serve several contexts (R364). -/
def State.wakeParked (s : State) : State :=
  s.groups.foldl (fun s p => p.2.waits.foldl (fun s w => match w.cond with | .page _ => s.now (.pageFaultResolve (p.1 / 128) (p.1 % 128) w.id) | _ => s) s) s

/-! ### The lectern (R7, R263, R264, R269) -/

/-- R263: an increment of a counter is announced: the round is the lane's result, and arrives at every mirror 48 cycles later. -/
def State.announceRound (s : State) (ctx slot lane : Nat) (id : Option Nat) : State :=
  match tblFind (s.ctx ctx).regions slot with
  | none => s
  | some r =>
    match id with
    | none => s.inTicks Config.lecternLatency (.roundAnnouncementArrival ctx slot r.counter)
    | some q =>
      let v := r.counter + 1
      let s1 := s.modCtx ctx (fun c => { c with regions := tblPut c.regions slot { r with counter := v } })
      let s2 := s1.modPend q (fun p => { p with bytes := (placed (lane * 16) (leBytes 4 v.toNat)).foldl (fun t b => tblPut t b.1 b.2) p.bytes, wait := p.wait - 1 })
      let s3 := s2.inTicks Config.lecternLatency (.roundAnnouncementArrival ctx slot v)
      match tblFind s3.pends q with
      | some p => if p.wait = 0 then s3.now (.loadCompletion q) else s3
      | none => s3

/-- R204: the sequence number of a write is announced: its invalidations become effective as it arrives. -/
def State.announceSeq (s : State) (die n : Nat) : State :=
  let at' := s.tick + Config.lecternLatency
  let mine := s.invals.filter (fun v => v.die = die && v.seq = n && v.due.isNone)
  mine.foldl (fun (s : State) (v : Inval) => s.inTicks Config.lecternLatency (.invalidationApply v.core))
    { s with invals := s.invals.map (fun (v : Inval) => if v.die = die && v.seq = n && v.due.isNone then { v with due := some at' } else v) }

/-- The cores that hold a workgroup that a predicate selects. -/
def State.coresOf (s : State) (f : Nat × Workgroup → Bool) : List Nat := ((s.wgs.filter f).map (fun p => p.2.core)).eraseDups

/-- R7: LECTERN_ANNOUNCE: a die announces the item that is first at its port, but in a tick that a halt of the die has taken. A pre-emption changes nothing where it arrives: the die that
requests it acts on it from that cycle on (R357; assumption log 47). -/
def execLecternAnnounce (die : Nat) (s : State) : Out :=
  match (s.die die).lect with
  | [] => .next s
  | i :: r =>
    if s.tick < (s.die die).haltNext then .next s else
    let s1 := s.modDie die (fun d => { d with lect := r })
    .next (match i with
      | .round ctx slot lane id => s1.announceRound ctx slot lane id
      | .seqNo n => s1.announceSeq die n
      | .preempt _ => s1)

/-- R264, R269: ROUND_ANNOUNCEMENT_ARRIVAL: every mirror of the region takes the round; at a multiple of 2^28 the tagged blocks with d above 15
leave. -/
def execRoundAnnouncementArrival (ctx slot : Nat) (round : Word) (s : State) : Out :=
  match tblFind (s.ctx ctx).regions slot with
  | none => .next s
  | some r =>
    let s1 := s.modCtx ctx (fun c => { c with regions := tblPut c.regions slot { r with mirror := round, announced := true } })
    .next (if round.toNat % 2 ^ 28 = 0 then
        s1.removeBlocks (fun b => match b.tag with | some t => t.1 = ctx && t.2.1 = slot && s1.staleness t > 15 | none => false)
      else s1)

/-! ### The settles of the ring (R212, R213) -/

/-- R212: SETTLE_ESCAPE: a packet that has waited 256 cycles at the head of a full buffer of 64 moves to the escape buffer with every older
packet of its triple. The fabric's orders are not part of the programming model (R213): the model's messages carry their own order, and
nothing puts packets into these buffers (assumption log 30). -/
def execSettleEscape (settle : Nat) (s : State) : Out :=
  let x := tblGet {} s.settles settle
  let due (c : Nat) : Option (Nat × Nat × Nat × Nat) :=
    let b := x.queue.filter (fun p => p.2.2.1 = c)
    if b.length < 64 then none
    else match b with
      | p :: _ => if p.2.2.2 + 256 ≤ s.tick then some p else none
      | [] => none
  .next (match (due 0).or (due 1) with
    | none => s
    | some p =>
      let same (q : Nat × Nat × Nat × Nat) : Bool := q.1 = p.1 && q.2.1 = p.2.1 && q.2.2.1 = p.2.2.1 && q.2.2.2 ≤ p.2.2.2
      { s with settles := tblPut s.settles settle { queue := x.queue.filter (fun q => !same q), escape := x.escape ++ x.queue.filter same } })

end Sys2Proof.Machine
end

