-- ==== Sys2Proof/Machine/Context.lean ====
section
/-! DEFINITION. Contexts in time: the run list, pre-emption, parking and resuming workgroups, and forced reset (R353-R361). -/

namespace Sys2Proof.Machine

/-! ### The run list (R354-R356) -/

/-- Table 21-3: a run-list entry's fields. -/
def State.rlWord (s : State) (e : Nat) : Nat := (tblGet 0 s.runList e).toNat
def rlEnabled (w : Nat) : Bool := bit w 63
def rlUrgent (w : Nat) : Bool := bit w 62
def rlCtx (w : Nat) : Nat := bits w 61 56
def rlMask (w : Nat) : Nat := bits w 55 52
def rlLimit (w : Nat) : Nat := bits w 51 32 * Config.ticksPerMicrosecond
def rlSlice (w : Nat) : Nat := bits w 31 0 * Config.ticksPerMicrosecond

/-- R355: a context has work on a die. -/
def State.hasWork (s : State) (die ctx : Nat) : Bool :=
  s.launches.any (fun p => p.2.ctx = ctx && p.2.phase = 1 && !p.2.halting && bit p.2.kr.dieMask die && (s.nextTeamOf p.1).isSome) ||
  s.wgs.any (fun p => s.ctxOfWg p.1 = ctx && Config.dieOfCore p.2.core = die) ||
  s.cores.any (fun c => Config.dieOfCore c.1 = die && c.2.rings.any (fun r => (s.launch r.1).ctx = ctx && !r.2.packets.isEmpty))

/-- An entry of a kind whose context may run on a die and has work there. -/
def State.entryReady (s : State) (die : Nat) (urgent : Bool) (e : Nat) : Bool :=
  let w := s.rlWord e
  rlEnabled w && rlUrgent w == urgent && bit (rlMask w) die && (s.ctx (rlCtx w)).st = 1 && s.hasWork die (rlCtx w)

/-- R355: the next ready entry of a kind in circular order after an entry. -/
def State.nextReady (s : State) (die : Nat) (urgent : Bool) (e : Nat) : Option Nat :=
  ((List.range 64).map (fun k => (e + 1 + k) % 64)).find? (fun k => s.entryReady die urgent k)

/-- R356: the lowest urgent entry that is ready. -/
def State.urgentReady (s : State) (die : Nat) : Option Nat := (List.range 64).find? (fun k => s.entryReady die true k)

def State.modSched (s : State) (die : Nat) (f : Sched → Sched) : State := s.modDie die (fun d => { d with sched := f d.sched })

/-- R355: an entry's turn begins, or a new slice of it: the slice counts in ticks from now; receive rings saved on the die come back, their packets are looked at again (R186), and a launch.at that is past its start tick may begin
(R182) (assumption log 29). -/
def State.startTurn (s : State) (die e slice : Nat) : State :=
  let ctx := rlCtx (s.rlWord e)
  let s1 := s.modSched die (fun x => { x with entry := e, ctx := ctx, sliceEnd := s.tick + slice, draining := false, nextEntry := 64, slice := rlSlice (s.rlWord e) })
  let s2 := s1.modCores (fun c => Config.dieOfCore c = die) (fun c => { c with rings := c.rings.map (fun (r : Nat × RxRing) => if (s.launch r.1).ctx = ctx then (r.1, { r.2 with saved := false }) else r) })
  let s3 := (s2.cores.filter (fun k => Config.dieOfCore k.1 = die)).foldl (fun s k =>
    (k.2.rings.filter (fun r => (s.launch r.1).ctx = ctx && !r.2.packets.isEmpty)).foldl (fun s r => s.now (.handlerSpawn k.1 r.1)) s) s2
  let s4 := (s3.launches.filter (fun l => l.2.ctx = ctx && l.2.timed && !l.2.released)).foldl (fun s l => s.now (.timedLaunchRelease l.1)) s3
  s4.inTicks slice (.sliceExpiry die)

/-- R355: a new slice of the context that runs on a die, of its entry's length; where the entry names it no longer, as long as the last (assumption log 29). -/
def State.newSlice (s : State) (die : Nat) : State :=
  let x := (s.die die).sched
  let w := s.rlWord x.entry
  let n := if rlEnabled w && rlCtx w = x.ctx then rlSlice w else x.slice
  (s.modSched die (fun y => { y with sliceEnd := s.tick + n, slice := n })).inTicks n (.sliceExpiry die)

/-- R356: the interrupted entry goes on with the rest of its slice. -/
def State.resumeEntry (s : State) (die : Nat) : State :=
  let x := (s.die die).sched
  (s.startTurn die x.interrupted x.remaining).modSched die (fun y => { y with interrupted := 64, remaining := 0 })

/-- R355, R356: the entry after which a non-urgent one is looked for: the interrupted one, or the current one (assumption log 29). -/
def Sched.after (x : Sched) : Nat := if x.interrupted < 64 then x.interrupted else x.entry

/-- R182, R357: the reservations of a launch.at that has not begun are released on a die: its teams there will be placed again (assumption log 24). -/
def State.releaseReservations (s : State) (die ctx : Nat) : State :=
  let mine := s.wgs.filter (fun p => s.ctxOfWg p.1 = ctx && Config.dieOfCore p.2.core = die && !(s.launch p.2.launch).released)
  mine.foldl (fun s p => (s.modLaunch p.2.launch (fun l => { l with redo := if l.redo.contains p.2.team then l.redo else l.redo ++ [p.2.team] })).freeWg p.1) s

/-- R7, R357: a pre-emption of the running context on a die is requested and announced; entry e comes next, and its limit counts. -/
def State.preempt (s : State) (die e : Nat) : State :=
  let x := (s.die die).sched
  let lim := rlLimit (s.rlWord x.entry)
  let s1 := (s.modSched die (fun x => { x with draining := true, drainAt := s.tick + lim, nextEntry := e })).announce die (.preempt x.ctx)
  (s1.releaseReservations die x.ctx).inTicks lim (.preemptionLimitExpiry die)

/-- R355: the turn passes to an entry: a new slice where it names the running context, a pre-emption otherwise. -/
def State.passTurn (s : State) (die e : Nat) : State :=
  if rlCtx (s.rlWord e) = (s.die die).sched.ctx then s.startTurn die e (rlSlice (s.rlWord e)) else s.preempt die e

/-- R355, R356: SLICE_EXPIRY: the slice has ended, or its context has no work on the die: the next entry's turn. Where an urgent context has
work it is next; where none has any more, the interrupted entry goes on with the rest of its slice. With no other entry a new slice begins. -/
def execSliceExpiry (die : Nat) (s : State) : Out :=
  let x := (s.die die).sched
  let fresh (s : State) : State := s.modSched die (fun y => { y with interrupted := 64, remaining := 0 })
  let nonUrgent (s : State) : State := match s.nextReady die false x.after with
    | some e => (fresh s).passTurn die e
    | none => (fresh s).newSlice die
  if x.ctx = 64 || x.draining || (s.ctx x.ctx).st = 2 || (s.tick < x.sliceEnd && s.hasWork die x.ctx) then .next s
  else if rlUrgent (s.rlWord x.entry) then
    .next (match s.nextReady die true x.entry with
      | some e => s.passTurn die e
      | none =>
        if x.interrupted < 64 && s.entryReady die false x.interrupted then
          (if rlCtx (s.rlWord x.interrupted) = x.ctx then s.resumeEntry die else s.preempt die x.interrupted)
        else nonUrgent s)
  else
    .next (match s.urgentReady die with
      | some e => (s.modSched die (fun y => { y with interrupted := x.entry, remaining := 0 })).passTurn die e
      | none => nonUrgent s)

/-- R356: an urgent entry is due to pre-empt a die's non-urgent one (assumption log 29). -/
def State.urgentDue (s : State) (die : Nat) : Option Nat :=
  let x := (s.die die).sched
  if x.ctx = 64 || x.draining || (s.ctx x.ctx).st = 2 || rlUrgent (s.rlWord x.entry) then none else s.urgentReady die

/-- R356: URGENT_PREEMPT: the non-urgent entry keeps the rest of its slice. -/
def execUrgentPreempt (die : Nat) (s : State) : Out :=
  match s.urgentDue die with
  | none => .next s
  | some e => .next ((s.modSched die (fun x => { x with interrupted := x.entry, remaining := x.sliceEnd - s.tick })).passTurn die e)

/-! ### Parking and resuming (R357, R358) -/

/-- R358: a workgroup may be saved: what its threads issued is complete, and no copy and no matrix operation of it runs. -/
def State.quietWg (s : State) (w : Nat) : Bool :=
  let x := s.wg w
  !s.pends.any (fun p => s.wgOf p.2.core p.2.slot = w) && !s.msgs.any (fun m => m.2.wg = w && m.2.lanes ≠ 0) &&
  !s.homeOps.any (fun o => o.2.wg = w) && !s.sent.any (fun p => p.2.packet.senderWg = w) && !x.copies.any (fun c => c.2.st = 3) &&
  !(s.core x.core).mq.any (fun o => o.wg = w && o.running) &&
  s.groups.all (fun p => p.2.wg ≠ w || (p.2.xings.isEmpty && !p.2.waits.any (fun y => y.counts || (match y.cond with | .event => true | .lease .. => true | _ => false))))

/-- R358: what a workgroup takes in the save area. The spec names what is saved and not its form; the model counts the bytes of each item
(assumption log 29). -/
def State.saveBytes (s : State) (w : Nat) : Nat :=
  let x := s.wg w
  let gs := s.groups.filter (fun p => p.2.wg = w)
  (gs.map (fun p => 32 * (4 * p.2.n + p.2.n / 8 + 1024 + 64))).foldl (· + ·) 0 + x.spSize +
  16384 * ((List.range 32).filter (fun n => s.holdsSlot x.core w n)).length + 65536 * ((List.range 4).filter (fun n => s.holdsBank x.core w n)).length

/-- R358: a workgroup leaves its core for the save area, whose bytes are then what the device writes there: the spec gives what is saved and not its form, so each
is a free value, and the saved state itself is kept in Workgroup.saved and beside it (assumption log 29). -/
def State.saveWg (s : State) (w : Nat) : State :=
  let x := s.wg w
  let c := s.core x.core
  let gs := (s.groups.filter (fun p => p.2.wg = w)).map (fun (p : Nat × Group) => (p.1 % 128, p.2))
  let opm := c.opm.filter (fun p => s.holdsSlot x.core w p.1)
  let banks := c.banks.filter (fun p => s.holdsBank x.core w p.1)
  let n := s.saveBytes w
  let ctx := s.ctxOfWg w
  let a := (s.ctx ctx).save + (s.ctx ctx).saveUsed
  let s0 := s.bufferWrite a ((List.range n).map (fun i => (Config.freeValue (s.fresh + i)).setWidth 8))
  let s1 := s0.modWg w (fun x => { x with phase := 1, saveLen := n, saved := gs, savedOpm := opm, savedBanks := banks, savedMq := c.mq.filter (fun o => o.wg = w), savedClaims := c.claims.filter (fun d => d.wg = w) })
  let s2 := (s1.freeAllUnits x.core w).modCore x.core (fun c => { c with mq := c.mq.filter (fun o => o.wg ≠ w) })
  ({ s2 with groups := s2.groups.filter (fun p => p.2.wg ≠ w) }.modCtx ctx (fun c => { c with saveUsed := c.saveUsed + n })).leaveCore x.core ctx |>.dropQuiesces w true

/-- R359, R360: a forced reset of a context begins: every die announces the halt of its groups, and no turn of it goes on. -/
def State.reset1 (s : State) (ctx reason : Nat) (stop : Bool) : State :=
  let c := s.ctx ctx
  if c.st = 2 then s.modCtx ctx (fun c => { c with stopAfter := c.stopAfter || stop })
  else if c.st = 0 then s
  else
    let cs := s.coresOf (fun p => s.ctxOfWg p.1 = ctx && p.2.phase = 0)
    let s1 := s.modCtx ctx (fun c => { c with st := 2, reason := reason, stopAfter := stop, resetCores := cs })
    let s2 := (List.range 4).foldl (fun s d => s.announceResetHalt d ctx) s1
    if cs.isEmpty then s2.inTicks Config.lecternLatency (.contextResetComplete ctx) else s2

/-- R358: WORKGROUP_PARK: once it is quiet, a workgroup that must be parked is saved; where the save area has no room the context is reset. -/
def execWorkgroupPark (wg : Nat) (s : State) : Out :=
  if !s.mustPark wg || !s.quietWg wg then .next s
  else
    let ctx := s.ctxOfWg wg
    let c := s.ctx ctx
    .next (if c.saveUsed + s.saveBytes wg > c.saveSize then s.reset1 ctx 3 false else s.saveWg wg)

/-- R358: the slots a parked workgroup resumes in: one for each of its groups, in the partition of its number; the one it left where free. -/
def State.resumeSlots (s : State) (core : Nat) (gs : Tbl Group) : Option (List (Nat × Nat)) :=
  gs.foldl (fun a p =>
    match a with
    | none => none
    | some l =>
      let used := l.map (fun x => x.2)
      let ok (k : Nat) : Bool := !s.hasGroup core k && !used.contains k
      match if ok p.1 then some p.1 else ((List.range 32).map (fun i => 32 * (p.1 / 32) + i)).find? ok with
      | some k => some (l ++ [(p.1, k)])
      | none => none) (some [])

/-- R358: a parked workgroup may resume: its context runs on the die and its core has free what it needs. -/
def State.mayResume (s : State) (w : Nat) : Bool :=
  let x := s.wg w
  x.phase = 1 && !(s.launch x.launch).halting && s.running (Config.dieOfCore x.core) (s.ctxOfWg w) && (s.resumeSlots x.core x.saved).isSome && (s.spFree x.core x.spSize).isSome &&
  x.savedOpm.all (fun p => (s.opmSlot x.core p.1).st = 0) && x.savedBanks.all (fun p => !(s.bank x.core p.1).held)

/-- The waits of a group named by its new slot. -/
def Group.atSlot (g : Group) (k : Nat) : Group :=
  { g with
    waits := g.waits.map (fun w => { w with iss := { w.iss with slot := k } })
    xings := g.xings.map (fun x => { x with iss := { x.iss with slot := k } }) }

/-- R395: what a replay workgroup has kept, with its slots renamed. -/
def Snap.moved (n : Snap) (core : Nat) (f : Nat → Nat) : Snap :=
  { n with
    groups := n.groups.foldl (fun t p => tblPut t (gkey core (f (p.1 % 128))) (p.2.atSlot (f (p.1 % 128)))) []
    mq := n.mq.map (fun o => { o with slot := f o.slot }) }
def Replay.moved (r : Replay) (core : Nat) (f : Nat → Nat) : Replay :=
  { r with
    image := r.image.moved core f, hist := r.hist.map (fun n => n.moved core f), sched := r.sched.map (fun p => (f p.1, p.2))
    lands := r.lands.map (fun d => { d with slot := f d.slot }) }

/-- R358: WORKGROUP_RESUME: a parked workgroup is restored on the core it left, halted groups still halted; a parked access checks again. -/
def execWorkgroupResume (wg : Nat) (s : State) : Out :=
  if !s.mayResume wg then .next s
  else
    let x := s.wg wg
    let ctx := s.ctxOfWg wg
    let m := (s.resumeSlots x.core x.saved).getD []
    let to' (k : Nat) : Nat := ((m.find? (fun p => p.1 = k)).map (fun p => p.2)).getD k
    let s0 := s.modWg wg (fun y => { y with phase := 0, saveLen := 0, replay := y.replay.moved x.core to', saved := [], savedOpm := [], savedBanks := [], savedMq := [], savedClaims := [], spBase := (s.spFree x.core x.spSize).getD 0, slots := m.map (fun p => p.2) })
    let s1 := x.saved.foldl (fun s p => s.setGroup x.core (to' p.1) { p.2.atSlot (to' p.1) with age := 0, chest := if s.regsUsed x.core + p.2.n ≤ 6144 then 0 else 1, entered := true, sunk := !(s.regsUsed x.core + p.2.n ≤ 6144) }) s0
    let s2 := s1.modCore x.core (fun c => { c with opm := x.savedOpm.foldl (fun t p => tblPut t p.1 p.2) c.opm, banks := x.savedBanks.foldl (fun t p => tblPut t p.1 p.2) c.banks, mq := c.mq ++ x.savedMq.map (fun o => { o with slot := to' o.slot }), claims := c.claims ++ x.savedClaims })
    let s3 := s2.modCtx ctx (fun c => { c with saveUsed := c.saveUsed - x.saveLen })
    let s4 := x.copies.foldl (fun s c => if c.2.st = 1 || c.2.st = 2 then s.now (.copyStart wg c.1) else s) s3
    .next (m.foldl (fun s p => s.rearm x.core p.2) s4)

/-- R357: a switch on a die is complete but for the saving of its rings: nothing of the outgoing context is resident. -/
def State.drained (s : State) (die : Nat) : Bool :=
  let ctx := (s.die die).sched.ctx
  !s.wgs.any (fun p => Config.dieOfCore p.2.core = die && p.2.phase = 0 && s.ctxOfWg p.1 = ctx && !s.beingEnded p.1)

/-- R355-R357, R360: SWITCH_COMPLETE: the rings of the outgoing context are saved, its leases are back, and the next entry's turn begins; where that has no work
any longer, an urgent one's, the rest of the interrupted entry's slice, or the next one's. A die on which no turn goes on begins one when an entry is ready.
While the outgoing context is being reset nothing begins: its turn ends with the reset. -/
def execSwitchComplete (die : Nat) (s : State) : Out :=
  let x := (s.die die).sched
  if x.ctx ≠ 64 && !(x.draining && s.drained die && (s.ctx x.ctx).st ≠ 2) then .next s
  else
    let s1 := if x.ctx = 64 then s else
      s.modCores (fun c => Config.dieOfCore c = die) (fun c => { c with rings := c.rings.map (fun (r : Nat × RxRing) => if (s.launch r.1).ctx = x.ctx then (r.1, { r.2 with saved := true }) else r) })
    let begin' (e : Nat) : State := s1.startTurn die e (rlSlice (s.rlWord e))
    let back := x.interrupted < 64 && s.entryReady die false x.interrupted
    .next (
      if x.nextEntry < 64 && x.nextEntry = x.interrupted && back then s1.resumeEntry die
      else if x.nextEntry < 64 && (s.entryReady die true x.nextEntry || s.entryReady die false x.nextEntry) then begin' x.nextEntry
      else match s.urgentReady die with
        | some e => begin' e
        | none =>
          if back then s1.resumeEntry die
          else match s.nextReady die false x.after with
            | some e => (begin' e).modSched die (fun y => { y with interrupted := 64, remaining := 0 })
            | none => s1.modSched die (fun y => { y with ctx := 64, draining := false, nextEntry := 64 }))

/-- R359: PREEMPTION_LIMIT_EXPIRY: the switch is not complete at the limit: the outgoing context is reset. In the cycle the switch completes
nothing is reset. -/
def execPreemptionLimitExpiry (die : Nat) (s : State) : Out :=
  let x := (s.die die).sched
  .next (if x.draining && s.tick ≥ x.drainAt && !s.drained die then s.reset1 x.ctx 1 false else s)

/-! ### Forced reset (R359, R360) -/

/-- R359: FORCED_RESET. -/
def execForcedReset (ctx reason : Nat) (s : State) : Out := .next (s.reset1 ctx reason false)

/-- R203, R360: a store that its L1 shows is performed at .wg, and goes on to its home slice; any other that a reset finds on its way is not performed. -/
def Msg.lostAtReset (m : Msg) : Bool := m.lanes ≠ 0 && (m.hidden || m.atHome)

/-- R286, R360: a workgroup is discarded: nothing it issued that is not performed will be, and no lease of its context goes back: its slots are freed with
the reset's (freeSlotsOf). -/
def State.discardWg (s : State) (w : Nat) : State :=
  let s0 := (s.groupsOf w).foldl (fun s g => s.dropPubs (s.ctxOfWg w) g) s
  let s1 := (s0.dropWgWork w).modCore (s.wg w).core (fun c => { c with leases := c.leases.filter (fun p => p.1 / 12 ≠ s.ctxOfWg w) })
  { s1 with msgs := s1.msgs.filter (fun m => m.2.wg ≠ w || !m.2.lostAtReset) }.freeWg w

/-- R360: RESET_HALT_ARRIVAL: the first announcement of the halt reaches a core: the context's groups stop and its workgroups there are
discarded; with the last core the reset is complete. -/
def execResetHaltArrival (ctx core : Nat) (s : State) : Out :=
  let c := s.ctx ctx
  if c.st ≠ 2 || !c.resetCores.contains core then .next s
  else
    let mine := s.wgs.filter (fun p => p.2.core = core && s.ctxOfWg p.1 = ctx)
    let s1 := mine.foldl (fun s p => s.discardWg p.1) s
    let left := c.resetCores.filter (· ≠ core)
    let s2 := s1.modCtx ctx (fun c => { c with resetCores := left })
    .next (if left.isEmpty then s2.now (.contextResetComplete ctx) else s2)

/-- R286, R360: every slot of a context is free at every home, its generation one higher, its lease requests and its operations gone; the
cores hold no number of it. -/
def State.freeSlotsOf (s : State) (ctx : Nat) : State :=
  let s1 := (List.range 12).foldl (fun s h => s.modHome h (fun x => { x with
    slots := x.slots.map (fun (p : Nat × SbSlot) => if p.2.st ≠ 0 && p.2.ctx = ctx then (p.1, { gen := (p.2.gen + 1) % 64 }) else p)
    reqs := x.reqs.filter (fun r => r.ctx ≠ ctx) })) s
  let s2 := s1.modCores (fun _ => true) (fun c => { c with
    leases := c.leases.filter (fun p => p.1 / 12 ≠ ctx)
    rel := (c.rel.map (fun (p : Nat × RelBatch) => (p.1, { p.2 with nums := p.2.nums.filter (fun n => n.2 ≠ ctx) }))).filter (fun p => !p.2.nums.isEmpty) })
  { s2 with homeOps := s2.homeOps.filter (fun o => o.2.ctx ≠ ctx) }

/-- R360, steps 2 to 6: what is left of a context's work is discarded, its gather entries leave whole, its slots and regions are free, its
counts 0 and its auto-materialise counter too (R293); what its records' release waits for is kept (R174). -/
def State.clearCtx (s : State) (ctx : Nat) : State :=
  let mine := s.wgs.filter (fun p => s.ctxOfWg p.1 = ctx)
  let s1 := mine.foldl (fun s p => s.discardWg p.1) s
  let s2 := { s1 with
    submits := s1.submits.filter (fun p => p.2.ctx ≠ ctx)
    msgs := s1.msgs.filter (fun m => m.2.ctx ≠ ctx || !m.2.lostAtReset) }
  let s3 := ((s2.freeSlotsOf ctx).flushAll ctx).modCtx ctx (fun c => { c with ximp := 0, xexp := 0, xauto := 0, pauto := 0, saveUsed := 0 })
  let s4 := (s3.launches.filter (fun p => p.2.ctx = ctx)).foldl (fun s p => s.leaveRegions p.1) s3
  s4.modCtx ctx (fun c => { c with regions := [], closing := some (s4.unperformed ctx) })

/-- R353, R360: CONTEXT_RESET_COMPLETE: every die has stopped the context: its work is discarded, and, once what it flushed is performed, each
accepted launch receives status 2 with the reason. The context is started again, or free after a stop. -/
def execContextResetComplete (ctx : Nat) (s : State) : Out :=
  let c := s.ctx ctx
  if c.st ≠ 2 || !c.resetCores.isEmpty then .next s
  else match c.closing with
    | none => .next ((s.clearCtx ctx).again (.contextResetComplete ctx))
    | some ids =>
      if ids.any s.outstanding then .next (s.again (.contextResetComplete ctx))
      else
        let s1 := (s.launches.filter (fun p => p.2.ctx = ctx)).foldl (fun s p => s.endLaunch p.1 2 c.reason) s
        let s2 := s1.modCtx ctx (fun c => { c with st := 1, stopAfter := false, closing := none })
        let s3 := { s2 with dies := s2.dies.map (fun (d : Nat × Die) => if d.2.sched.ctx = ctx then (d.1, { d.2 with sched := { d.2.sched with ctx := 64, draining := false } }) else d) }
        .next (if c.stopAfter then s3.modCtx ctx (fun c => { idle := c.idle }) else s3)

end Sys2Proof.Machine
end

