-- ==== Sys2Proof/Machine/Kick.lean ====
section
/-! DEFINITION. Kick pages (R372-R375): writing one, taking a command, its arguments, and its completion. -/

namespace Sys2Proof.Machine

/-- Table 22-3: a kick page by its number. -/
def State.kick (s : State) (p : BitVec 6) : Kick := tblGet {} s.kicks p.toNat
def State.modKick (s : State) (p : BitVec 6) (f : Kick → Kick) : State := { s with kicks := tblPut s.kicks p.toNat (f (s.kick p)) }

/-- R372, R373: status, result and completed sequence of a page, and MSI-X vector k where the interrupt is asked for (assumption log 32, 44). -/
def State.complete (s : State) (p : BitVec 6) (seq status : Nat) (res : List Byte) (irq : Bool) : State :=
  let s1 := s.modKick p (fun k => { k with done := seq, status := status, resLen := (res.take 2032).length, result := res.take 2032, running := false, phase := 0 })
  if irq then { s1 with msix := s1.msix ||| BitVec.ofNat 64 (2 ^ p.toNat) } else s1

/-- R372, R373: firmware takes the sequence value a page holds: it starts the command with the arguments as they stand, or refuses the
value with status 0x03 (assumption log 35); n is the place of its write in the order of arrival (R374). -/
def State.takeKick (s : State) (p : BitVec 6) (v n : Nat) : State :=
  let k := s.kick p
  if v ≠ (k.done + 1) % 2 ^ 64 then (s.modKick p (fun k => { k with seq := v })).complete p v 3 [] (bit k.flags 0)
  else
    let s1 := s.modKick p (fun k => { k with seq := v, running := true, phase := 0, undo := [], stops := [], keep := none, irq := bit k.flags 0, taken := n, latched := none, args0 := tabBytes k.args 0 (min k.argLen 2032), code0 := k.code, flags0 := k.flags, len0 := k.argLen })
    let s2 := s1.tickFresh.inTicks Config.commandTicks (.commandTimeout p)
    { s2 with agenda := .command p.toNat :: s2.agenda }

/-- R372, R373: a command completes; a sequence value latched meanwhile is taken then. -/
def State.reply (s : State) (p : BitVec 6) (status : Nat) (res : List Byte) : State :=
  let k := s.kick p
  let s1 := { s with timers := s.timers.filter (fun t => t.ev ≠ Instr.commandTimeout p) }
  let s2 := s1.complete p k.seq status res k.irq
  match k.latched with
  | none => s2
  | some v => (s2.modKick p (fun k => { k with latched := none })).takeKick p v k.latchedAt

/-- A command that is not finished goes on in the next tick from a later phase. -/
def State.notYet (s : State) (p : BitVec 6) (phase : Nat) : State := s.modKick p (fun k => { k with phase := phase })

/-- R374: a command marked P outside kick page 0 is refused (assumption log 35). -/
def State.admin (s : State) (p : BitVec 6) (k : State) : State := if p ≠ 0 then s.reply p 6 [] else k

/-- R352, Table 22-4: a command that needs a started context: 0x02 for a number that is none, 0x04 for one that is not started (assumption log 35). -/
def State.started (s : State) (p : BitVec 6) (c : Word) (k : State) : State :=
  if c.toNat ≥ 64 then s.reply p 2 [] else if (s.ctx c.toNat).st ≠ 1 then s.reply p 4 [] else k

/-- The little-endian argument of n bytes at an offset of the arguments a command was taken with. -/
def State.arg (s : State) (p : BitVec 6) (off n : Nat) : Nat := leNat (((s.kick p).args0.drop off).take n)

/-- R372, Table 22-3: the bytes a host write puts into the fields of a page; result fields are read-only. -/
def Kick.write (k : Kick) (off : Nat) (data : List Byte) : Kick :=
  let field (old base n : Nat) : Nat := leNat ((List.range n).map (fun i =>
    if off ≤ base + i && base + i < off + data.length then data.getD (base + i - off) 0 else BitVec.ofNat 8 (old / 256 ^ i)))
  { k with
    seq := field k.seq 0 8
    code := field k.code 8 2
    flags := field k.flags 0xA 2
    argLen := field k.argLen 0xC 4
    args := tabSetAll k.args ((placed off data).filterMap (fun b => if 0x10 ≤ b.1 && b.1 < 0x800 then some (b.1 - 0x10, b.2) else none)) }

/-- R372, R373: KICK_PAGE_WRITE: a host write to a kick page; a write of the sequence field makes firmware take the command, or is latched
while one runs (assumption log 10). -/
def execKickPageWrite (page : BitVec 6) (off : Nat) (data : List Byte) (s : State) : Out :=
  let k := s.kick page
  let w := k.write off data
  let hit := off < 8 && !data.isEmpty
  .next (
    if !hit then s.modKick page (fun _ => w)
    else if k.running then (s.modKick page (fun _ => { w with seq := k.seq, latched := some w.seq, latchedAt := s.fresh })).tickFresh
    else (s.modKick page (fun _ => { w with seq := k.seq })).tickFresh.takeKick page w.seq s.fresh)

/-- R366, R367: a copy that is queued or running was assembled with a translation that its page no longer has. -/
def State.staleCopies (s : State) : Bool :=
  s.wgs.any (fun w => w.2.copies.any (fun c => (c.2.st = 2 || c.2.st = 3) && c.2.pages.any (fun p =>
    match s.walk (s.ctxOfWg w.1) (65536 * p.1) with | .ok pa e => decide ((pa, e) ≠ p.2) | _ => true)))

/-- R366, R367: something that a context, or another that maps memory in common with it, issued before a number is still not performed: writes, those in
gather entries too, and their invalidations, fills, results that wait, elements of ld.p; or a copy translated before goes on (assumption log 36). -/
def State.oldWork (s : State) (ctx n : Nat) : Bool :=
  let cs := s.related ctx
  cs.any (fun c => (s.elementsOf c).any (fun id => decide (id < n))) || s.staleCopies ||
  s.msgs.any (fun m => (m.1 < n || m.2.causes.any (· < n)) && cs.any (fun c => m.2.ctxs.getLsbD c)) ||
  s.invals.any (fun v => v.causes.any (· < n) && cs.any (fun c => v.ctxs.getLsbD c)) ||
  s.dies.any (fun d => d.2.gather.any (fun g => g.2.causes.any (· < n) && cs.any (fun c => g.2.ctxs.getLsbD c))) ||
  s.fills.any (fun f => f.1 < n && cs.contains f.2.ctx) ||
  s.pends.any (fun p => p.1 < n && (!p.2.missing.isEmpty || p.2.wait > 0) && cs.contains (s.ctxOfWg (s.wgOf p.2.core p.2.slot)))

end Sys2Proof.Machine
end

