-- ==== Sys2Proof/Machine/Special.lean ====
section
/-! DEFINITION. Special registers: rdsr and wrsr (R25-R29, Tables 01-1, 01-8, 11-10). -/

namespace Sys2Proof.Machine

/-- Tables 01-1, 01-8, 11-10: assigned indices, those of 64 bits, and those software may write. -/
def srAssigned (i : Nat) : Bool := i ≤ 0x14 || (0x100 ≤ i && i ≤ 0x103)
def srWide (i : Nat) : Bool := i == 0x06 || i == 0x07 || i == 0x0D || i == 0x0E || i == 0x13 || i == 0x103
def srWritable (i : Nat) : Bool := i == 0x09 || i == 0x0A || i == 0x0F || i == 0x103

/-- Table 21-1: the context's flags as sr.ctxflags shows them. -/
def Ctx.flags (c : Ctx) : Nat := bitNat c.priv 0 + bitNat c.debug 1 + bitNat c.replay 2

/-- R25, R27: the value of a special register for a thread of a group in a slot. -/
def State.srRead (s : State) (core slot l i : Nat) : Nat :=
  let g := s.group core slot
  let w := s.wg g.wg
  let c := s.ctx (s.ctxOfWg g.wg)
  let t := g.thread l
  match i with
  | 0x00 => l
  | 0x01 => g.idx
  | 0x02 => w.index.toNat
  | 0x03 => core
  | 0x04 => w.team
  | 0x05 => t.depth
  | 0x06 => s.tick
  | 0x07 => w.rwc
  | 0x08 => w.ival.toNat
  | 0x09 => t.fpflags.toNat
  | 0x0A => t.fpctl.toNat
  | 0x0B => t.tcause.toNat
  | 0x0C => t.tlanes.toNat
  | 0x0D => t.tpc.toNat
  | 0x0E => t.tvalue.toNat
  | 0x0F => bitNat t.chk 0
  | 0x10 => g.n
  | 0x11 => w.gcount
  | 0x12 => s.ctxOfWg g.wg
  | 0x13 => (c.ximp + c.xexp + c.xauto).toNat
  | 0x14 => t.amsrc.toNat
  | 0x100 => if s.mcNext = 0 then 0xFFFFFFFF else s.mcNext - 1
  | 0x101 => (s.core core).point % 4 + 4 * ((s.core core).cap % 4)
  | 0x102 => c.flags
  | 0x103 => t.pscratch.toNat
  | _ => 0

/-- The instruction header of an instruction, as sr.tvalue shows it. -/
def headerTv (i : Instr) : Long := match encode i with | some w => headerValue w | none => 0

/-- Table 01-5, order 2: the register field of rdsr, or of wrsr from a register (assumption log 16). -/
def srFieldOk (n i : Nat) (a : BitVec 9) : Bool :=
  a == 0x1FE || (if srWide i then a.toNat % 2 == 0 && a.toNat + 1 < n else a.toNat < n)

/-- Table 01-5, orders 2 and 3: the fault of a special-register instruction. -/
def State.srFault (s : State) (i : Instr) (idx : Nat) (write fromReg : Bool) (a : BitVec 9) : Option (Nat × Long) :=
  let n := (s.group s.cur.core s.cur.slot).n
  if !srAssigned idx || (write && !srWritable idx) || (fromReg && !srFieldOk n idx a) then some (cILLEGAL, headerTv i)
  else if idx ≥ 0x100 && !(s.ctx s.curCtx).priv then some (cPRIV, BitVec.ofNat 64 idx)
  else none

/-- R394: the special registers whose reads are logged: sr.time and sr.xing. -/
def srLogged (i : Nat) : Bool := i == 0x06 || i == 0x13

/-- R28, R29, R394: rdsr reads at issue and writes 6 cycles later. -/
def execRdsr (h : Hdr) (f : FmtS) (s : State) : Out :=
  let i := Instr.rdsr h f
  let act := s.active h
  let idx := f.idx.toNat
  .next (match s.srFault i idx false true f.a with
    | some (code, tv) => s.raise h act code tv
    | none => s.withOperands h i act [] (dstRegs f.a.toNat (srWide idx)) [] stayNone 0 (fun s =>
      let k := s.cur
      let ws := ((lanesOf act).map (fun l => laneWrites l f.a.toNat (srWide idx) (s.srRead k.core k.slot l idx) false)).flatten
      let p : Pend := { core := k.core, slot := k.slot, kind := 0, path := k.path, lanes := k.lanes, act := act, pos := k.pos, tok := h.tok.toNat, writes := ws }
      let s := if srLogged idx then s.noteLoads s.curWg ((lanesOf act).map (fun l => s.srRead k.core k.slot l idx)) else s
      ((s.takeToken h).pendFixed 6 p).retireSeq h))

/-- R29, R50: the special registers whose write takes effect for the next instruction of the thread; the others are written with the result,
6 cycles after issue. -/
def srAtOnce (i : Nat) : Bool := i == 0x09 || i == 0x0A

/-- R28, R29, R50: wrsr; its token falls 6 cycles later. -/
def execWrsr (h : Hdr) (f : FmtS) (s : State) : Out :=
  let i := Instr.wrsr h f
  let act := s.active h
  let idx := f.idx.toNat
  let imm := f.modi.getLsbD 0
  let src : Src := if imm then .imm (f.imm.setWidth 64) else if srWide idx then .pair f.a.toNat else .reg f.a.toNat
  .next (match if s.cur.phase > 0 then none else s.srFault i idx true (!imm) f.a with
    | some (code, tv) => s.raise h act code tv
    | none => s.withOperands h i act [src] [] [] stayNone 0 (fun s =>
      let k := s.cur
      let s0 := s.takeToken h
      let s1 := if srAtOnce idx then (lanesOf act).foldl (fun s' l => s'.modThread k.core k.slot l (fun t => t.srWrite idx (s.srcVal l src))) s0 else s0
      let p : Pend := { core := k.core, slot := k.slot, kind := 0, path := k.path, lanes := k.lanes, act := act, pos := k.pos, tok := h.tok.toNat, srs := if srAtOnce idx then [] else (lanesOf act).map (fun l => (l, idx, s.srcVal l src)) }
      let id := s1.fresh
      let s2 := (s1.pendFixed 6 p).retireSeq h
      if k.phase > 0 then s2.hold k.lanes i id 7 else s2))

end Sys2Proof.Machine
end

