-- ==== Sys2Proof/Machine/Debug.lean ====
section
/-! DEFINITION. Debug (R381-R390), checkpoints and precise stops (R391-R396): brk, halt, rfe and the debug commands. -/

namespace Sys2Proof.Machine

/-! ### Targets and resuming (R341, R382, R388) -/

/-- R382: the workgroup a target word names (assumption log 31). -/
def State.target (s : State) (t : Nat) : Option Nat :=
  if bits t 31 25 ≠ 0 || bits t 7 6 ≠ 0 then none
  else
    let v := bits t 63 32
    (s.wgs.find? (fun (p : Nat × Workgroup) =>
      let l := s.launch p.2.launch
      l.ctx = bits t 5 0 && l.number = bits t 15 8 && p.2.core = bits t 24 16 &&
      (if p.2.handler then v = 0xFFFFFFFF || (v ≥ 0xFFFFFF00 && p.2.slots.contains (v - 0xFFFFFF00)) else p.2.index.toNat = v))).map (fun p => p.1)

/-- R382: the target word of a workgroup, as command 0x45 lists it. -/
def State.targetWord (s : State) (w : Nat) : Nat :=
  let x := s.wg w
  let l := s.launch x.launch
  (if x.handler then 0xFFFFFF00 + x.slots.headD 0 else x.index.toNat) * 2 ^ 32 + x.core * 2 ^ 16 + l.number % 256 * 2 ^ 8 + l.ctx

/-- R340, R388: a debug-stopped workgroup: halted and settled, in a context with debug. -/
def State.debugStopped (s : State) (w : Nat) : Bool :=
  (tblFind s.wgs w).isSome && (s.wg w).halt.isSome && (s.wg w).settled && (s.ctx (s.ctxOfWg w)).debug

/-- R341: a group is eligible again at the positions it holds. -/
def Group.resumed (g : Group) : Group := { g with stopped := false, stopKind := 1, skid := 0, ownFault := 0 }

/-- R341: A HALTED WORKGROUP RESUMES. Its gathering and queued copies go on as well (R307). -/
def State.resumeWg (s : State) (w : Nat) : State :=
  let x := s.wg w
  let s1 := s.modWg w (fun x => { x with
    halt := none, reach := 0, settled := false, step := none, stepDone := none, saved := x.saved.map (fun (p : Nat × Group) => (p.1, p.2.resumed)) })
  let s2 := { s1 with groups := s1.groups.map (fun (p : Nat × Group) => if p.2.wg = w then (p.1, p.2.resumed) else p) }
  if x.phase = 1 then s2
  else
    let s3 := (s2.groups.filter (fun p => p.2.wg = w)).foldl (fun s p => s.rearm (p.1 / 128) (p.1 % 128)) s2
    x.copies.foldl (fun s c => if c.2.st = 1 || c.2.st = 2 then s.now (.copyStart w c.1) else s) s3

/-! ### brk, halt and rfe (R386, R387) -/

/-- R386: brk. -/
def execBrk (h : Hdr) (f : FmtS) (s : State) : Out := .next (s.softTrap h cBREAK (f.imm.setWidth 64))

/-- R386: halt: it retires, and in a context with debug, with an active thread, takes a debug stop in its issue cycle. -/
def execHaltI (h : Hdr) (f : FmtS) (s : State) : Out :=
  let act := s.active h
  let k := s.cur
  .next (
    if act = 0 || !(s.ctx s.curCtx).debug then s.retireSeq h
    else ((if k.path = 0 then s.dropPathB else s).retireSeq h).stopGroup k.core k.slot act act
      { code := 0, kind := 4, pathB := k.path == 1, pos := k.pos, tvalue := f.imm.setWidth 64 })

/-- R386: one lane of rfe: a debug-stopped workgroup of a context with debug resumes; any other word does nothing. -/
def State.rfeLane (s : State) (t : Nat) : State :=
  match s.target t with
  | some w => if s.debugStopped w then s.resumeWg w else s
  | none => s

/-- R386, R387: rfe. -/
def execRfe (h : Hdr) (f : FmtS) (s : State) : Out :=
  let act := s.active h
  let r := f.a.toNat
  .next (s.withOperands h (.rfe h f) act [.pair r] [] [] stayNone 0 (fun s =>
    (((lanesOf act).foldl (fun s l => s.rfeLane (s.selPair l r).toNat) s).doneNow h).retireSeq h))

/-! ### Records a debugger sees (Tables 20-2, 20-3, 18-3, 19-10, R32, R389) -/

/-- Table 20-2. -/
def skidBytes (x : Nat × Nat × Nat × Nat) : List Byte :=
  leBytes 8 x.1 ++ leBytes 1 x.2.1 ++ leBytes 1 x.2.2.1 ++ leBytes 1 x.2.2.2 ++ List.replicate 5 0

/-- Table 20-3. -/
def FaultKept.bytes (f : FaultKept) : List Byte :=
  let r := f.halt
  leBytes 1 r.code ++ leBytes 1 r.kind ++ leBytes 1 r.group ++ leBytes 1 (bitNat r.pathB 0) ++ leBytes 4 r.lanes.toNat ++ leBytes 8 r.pos.toNat ++
  leBytes 8 r.tvalue.toNat ++ leBytes 8 r.time ++ leBytes 4 f.wg.toNat ++ leBytes 2 f.core ++ leBytes 2 f.ctx ++ leBytes 4 f.ival.toNat ++
  leBytes 4 0 ++ leBytes 8 f.rwc ++ leBytes 4 r.mc.toNat ++ leBytes 4 (f.skids.filter (fun x => x.2.2.2 ≠ 0)).length

/-- A fault record with its skid records, its own fault entries counted in it (assumption log 32). -/
def FaultKept.all (f : FaultKept) : List Byte := f.bytes ++ (f.skids.map skidBytes).flatten

/-- A group of a workgroup by its number. -/
def State.groupNo (s : State) (w g : Nat) : Option Group := (s.groupsOf w).find? (fun x => x.idx = g)

/-- The slot of a resident group by its number. -/
def State.slotNo (s : State) (w g : Nat) : Option Nat := (s.groups.find? (fun p => p.2.wg = w && p.2.idx = g)).map (fun p => p.1 % 128)

/-- A thread of a group of a workgroup, resident or saved, changed. -/
def State.modHalted (s : State) (w g l : Nat) (f : Thread → Thread) : State :=
  let m (x : Group) : Group := if x.wg = w && x.idx = g then { x with threads := x.threads.modify l f } else x
  let s1 := s.modWg w (fun x => { x with saved := x.saved.map (fun (p : Nat × Group) => (p.1, m p.2)) })
  { s1 with groups := s1.groups.map (fun (p : Nat × Group) => (p.1, m p.2)) }

/-- R32: a register lane as it is presented: bit 0 its tag, bit 1 that the value in its slot could be fetched; its word; the fetched value. -/
def State.laneShown (s : State) (w : Nat) (r : Reg) : List Byte :=
  if r.tag && !s.replaying w then
    match s.slotValue (proxyStack r.val) (proxySlot r.val) with
    | some v => leBytes 1 3 ++ leBytes 4 r.val.toNat ++ leBytes 4 v.toNat
    | none => leBytes 1 1 ++ leBytes 4 r.val.toNat ++ leBytes 4 0
  else leBytes 1 0 ++ leBytes 4 r.val.toNat ++ leBytes 4 0

/-- R32, Table 01-7: an item of a halted thread; none where it names nothing (assumption log 32). The cycles since its last issue of a thread that
has never issued count from cycle 0 of its core, a choice of the model (assumption log 14). -/
def State.threadItem (s : State) (w : Nat) (g : Group) (l : Nat) : Config.ThreadItem → Option (List Byte)
  | .reg r => if r < g.n then some (s.laneShown w ((g.thread l).reg r)) else none
  | .preds => some (leBytes 1 ((g.thread l).preds.toNat % 128 + 128))
  | .pred p => if p < 8 then some (leBytes 1 (bitNat ((g.thread l).pred p) 0)) else none
  | .pos => some (leBytes 8 (g.thread l).pos.toNat)
  | .depth => some (leBytes 1 (g.thread l).depth)
  | .ret d => if d < (g.thread l).depth then some (leBytes 8 ((g.thread l).ret d).toNat) else none
  | .path => some (leBytes 1 (g.thread l).path ++ leBytes 8 (g.stopCycle - (g.thread l).since))
  | .stall => some (leBytes 1 (g.thread l).stall)
  | .tokens => some ((List.range 6).map (fun k => BitVec.ofNat 8 (g.token (k + 1))))
  | .special i => if srAssigned i then
      (match s.slotNo w g.idx with
      | some k => some (leBytes 8 (s.srRead (s.wg w).core k l i))
      | none =>
        let core := (s.wg w).core
        some (leBytes 8 (({ s with groups := tblPut s.groups (gkey core (2 ^ 16)) g }).srRead core (2 ^ 16) l i)))
    else none

/-- R389: the barriers and route tags of a workgroup (assumption log 32). -/
def State.barItem (s : State) (w : Nat) : List Byte :=
  let x := s.wg w
  let waits (t : Nat) : Bool := (s.groupsOf w).any (fun g => g.waits.any (fun y => match y.cond with | .bartGen k _ => k / 2 ^ 24 % 8 = t | _ => false))
  let left (t : Nat) : Nat := match tblFind s.bsets (setKey x.launch t (s.setInst x.launch t x.team x.core)) with
    | some b => if b.closing then b.relAt - s.tick else 0
    | none => 0
  ((List.range 16).map (fun k => leBytes 1 (tblGet {} x.bars k).arrived ++ leBytes 1 (s.liveThreads w))).flatten ++
  (List.range 8).map (fun t => BitVec.ofNat 8 (bitNat (waits t) 0 + 2 * (left t % 64)))

/-- Table 18-3. -/
def Ring.bytes (r : Ring) : List Byte :=
  leBytes 1 (bitNat r.inited 0) ++ leBytes 8 r.control.toNat ++ leBytes 16 (((List.range 64).map (fun m => r.slot m % 4 * 4 ^ m)).foldl (· + ·) 0) ++
  leBytes 1 r.free ++ leBytes 1 r.filled ++ leBytes 1 r.fill ++ leBytes 1 r.pop ++ leBytes 1 r.rel

/-- Table 19-10: an entry of the queue: its block, the issuing slot and lane, the bindings of its A and B slots (slot, and which load of it),
whether it runs, and the chunks applied. -/
def State.queueEntry (s : State) (core : Nat) (o : MmaOp) : List Byte :=
  let bind (x : Nat × Nat) : List Byte := leBytes 1 x.1 ++ leBytes 4 x.2
  o.block ++ leBytes 1 o.slot ++ leBytes 1 o.lane ++ leBytes 1 o.aslots.length ++ ((o.aslots ++ o.bslots).map bind).flatten ++
  leBytes 1 (bitNat o.running 0) ++ leBytes 1 (s.chunksApplied core o)

/-- Table 19-10 (assumption log 22, 32): a bank is shown as an acc.ld would read it after the running operation. -/
def State.matrixItem (s : State) (w : Nat) : List Byte :=
  let x := s.wg w
  let k := s.core x.core
  let parked := x.phase = 1
  let slots := if parked then x.savedOpm else k.opm.filter (fun p => s.holdsSlot x.core w p.1)
  let banks := if parked then x.savedBanks else k.banks.filter (fun p => s.holdsBank x.core w p.1)
  let q := (if parked then x.savedMq else k.mq).filter (fun o => o.wg = w && o.kind = 0)
  let shown (n : Nat) (b : Bank) : Tbl Word := match q.find? (fun o => o.running && o.banks.contains n) with
    | some o => s.mmaBank x.core o (s.chunksDone x.core o)
    | none => b.elems
  leBytes 4 ((slots.map (fun p => 2 ^ p.1)).foldl (· + ·) 0) ++ leBytes 8 ((slots.map (fun p => p.2.st % 4 * 4 ^ p.1)).foldl (· + ·) 0) ++
  leBytes 1 ((banks.map (fun p => 2 ^ p.1)).foldl (· + ·) 0) ++ leBytes 1 q.length ++ (q.map (s.queueEntry x.core)).flatten ++
  (banks.map (fun p => let e := shown p.1 p.2; ((List.range 16384).map (fun n => leBytes 4 (tblGet 0 e n).toNat)).flatten)).flatten

/-- R393: what first writes of the interval to operand-memory slots and banks have put into the undo log (assumption log 33). -/
def State.unitUse (s : State) (w : Nat) : Nat :=
  ((s.wg w).replay.firsts.map (fun u => match u.1 with | 3 => 16384 | 4 => 65536 | _ => 0)).foldl (· + ·) 0

/-- R394: the undo, load-value and schedule log entries a core's workgroups of a context hold, in the sizes the model counts them with
(assumption log 33). -/
def State.logUse (s : State) (core ctx : Nat) : Nat × Nat × Nat :=
  (s.wgs.filter (fun p => p.2.core = core && s.ctxOfWg p.1 = ctx)).foldl (fun a p =>
    (a.1 + 10 * p.2.replay.undo.length + s.unitUse p.1, a.2.1 + 8 * p.2.replay.loads.length, a.2.2 + 2 * p.2.replay.sched.length)) (0, 0, 0)

/-! ### Checkpoints (R392, R393) -/

/-- R393: what first writes of the interval have put into the chest reserve: group-registers, lane-private slices and 256-byte scratchpad blocks. -/
def State.reserveUse (s : State) (w : Nat) : Nat :=
  ((s.wg w).replay.firsts.map (fun u => match u.1 with | 0 => 128 | 1 => 1024 | 2 => 256 | _ => 0)).foldl (· + ·) 0

/-- R391, R392: a log of a workgroup's core, or the chest reserve, is full (assumption log 33). -/
def State.logsFull (s : State) (w : Nat) : Bool :=
  let x := s.wg w
  let ctx := s.ctxOfWg w
  let u := s.logUse x.core ctx
  u.1 ≥ 2097152 || u.2.1 ≥ 1835008 || u.2.2 ≥ 262144 ||
  ((s.wgs.filter (fun p => p.2.core = x.core && p.2.phase = 0 && s.replaying p.1)).map (fun p => s.reserveUse p.1)).foldl (· + ·) 0 ≥ 1048576

/-- R392: a checkpoint of a replay workgroup is due. -/
def State.checkpointDue (s : State) (w : Nat) : Bool := s.replaying w && (s.wg w).phase = 0 && ((s.wg w).rwc ≥ 65536 || s.logsFull w)

/-- R392: CHECKPOINT: with no copy slot out of idle, no unfinished matrix operation and no unaccepted packet, the next interval begins. -/
def execCheckpoint (wg : Nat) (s : State) : Out :=
  let x := s.wg wg
  if !s.checkpointDue wg || x.copies.any (fun c => c.2.st ≠ 0) || (s.core x.core).mq.any (fun o => o.wg = wg) || s.sent.any (fun p => p.2.packet.senderWg = wg) then
    .next s
  else .next ((s.modWg wg (fun x => { x with ival := x.ival + 1, rwc := 0 })).startInterval wg)

/-! ### Precise stops (R395, R396; assumption log 12) -/

/-- R394, R395: one byte an undo entry names, as memory, a die scratchpad or another workgroup's scratchpad holds it, and that byte written. -/
def State.undoByte (s : State) (a : Nat) : Byte :=
  if a ≥ 2 ^ 49 then tblGet 0 (s.wg ((a - 2 ^ 49) / 2 ^ 19)).sp ((a - 2 ^ 49) % 2 ^ 19)
  else if a ≥ 2 ^ 48 then tblGet 0 (tblGet [] (s.die ((a - 2 ^ 48) / 2 ^ 26 % 4)).ds ((a - 2 ^ 48) / 2 ^ 28)) ((a - 2 ^ 48) % 2 ^ 26)
  else memGet s.mem a

def State.putUndoByte (s : State) (a : Nat) (v : Byte) : State :=
  if a ≥ 2 ^ 49 then s.modWg ((a - 2 ^ 49) / 2 ^ 19) (fun x => { x with sp := tblSet 0 x.sp ((a - 2 ^ 49) % 2 ^ 19) v })
  else if a ≥ 2 ^ 48 then s.modDie ((a - 2 ^ 48) / 2 ^ 26 % 4) (fun d =>
    { d with ds := tblPut d.ds ((a - 2 ^ 48) / 2 ^ 28) (tblSet 0 (tblGet [] d.ds ((a - 2 ^ 48) / 2 ^ 28)) ((a - 2 ^ 48) % 2 ^ 26) v) })
  else { (s.removeBlocks (fun b => b.frame = frameOf a)) with mem := memSet s.mem a v }

/-- R395, step 2: the undo log newest first: a byte returns to its before-image only where it still holds its after-image. -/
def State.undoAll (s : State) (l : List Undo) : State :=
  l.foldl (fun s u => if s.undoByte u.pa = u.after then s.putUndoByte u.pa u.before else s) s

/-- R396: the stores of the re-executed part are performed again, oldest first. -/
def State.redoAll (s : State) (l : List Undo) : State := l.reverse.foldl (fun s u => s.putUndoByte u.pa u.after) s

/-- R395: what was issued before the count and had not been written there completes: a stop lets operations complete. -/
def State.relandAll (s : State) (core : Nat) (l : List Landed) : State :=
  l.foldl (fun s x =>
    let s1 := x.writes.foldl (fun s w => (s.noteFirst (s.wgOf core x.slot) [(0, (s.group core x.slot).idx, w.reg)]).modThread core x.slot w.lane (fun t =>
      { t with regs := tblSet {} t.regs w.reg ⟨w.val, w.tag⟩ })) s
    let s2 := x.preds.foldl (fun s q => s.modThread core x.slot q.1 (fun t => t.setPred q.2.1 q.2.2)) s1
    (x.flags.foldl (fun s q => s.modThread core x.slot q.1 (fun t => { t with fpflags := t.fpflags ||| q.2 })) s2).tokDown core x.slot x.tok) s

/-- R303: the entries of a running copy. -/
def CopySlot.locksAt (c : CopySlot) (w k : Nat) : List Lock :=
  (if c.live.isEmpty || c.kind = 2 then [] else [⟨w, k, true, c.dest, if c.taken then (layoutOf c.layout).footprint else 0⟩]) ++
  (match c.span with | some (b, n) => [⟨w, k, false, b, n⟩] | none => [])

/-- R229, R380: the pubs that wait in a group are in flight again. -/
def State.addPubs (s : State) (ctx : Nat) (g : Group) : State :=
  g.waits.foldl (fun s w => match w.instr with
    | .pub _ f => { s with windows := s.windows.map (fun (p : Nat × Window) => if p.1 = ctx * 64 + f.off.toNat % 64 then (p.1, { p.2 with busy := p.2.busy + 1 }) else p) }
    | _ => s) s

/-- R395: the workgroup as it stood at a count: the image of its history, with what had been issued by then written (assumption log 12). -/
def State.restoreAt (s : State) (w c : Nat) (n : Snap) : State :=
  let x := s.wg w
  let rp := x.replay
  let s1 := s.modWg w (fun y => { y with
    sp := n.sp, bars := n.bars, copies := n.copies, rings := n.rings, rwc := c, settled := true, reach := 15, slots := y.slots
    replay := { rp with firsts := n.firsts, faults := rp.faults.filter (fun x => x.1 < c), sched := rp.sched.take c, undo := rp.undo.filter (fun u => u.rwc < c), loads := rp.loads.take n.loads, hist := rp.hist.filter (fun m => m.rwc ≤ c), lands := rp.lands.filter (fun d => d.rwc < c) } })
  let s1 := (n.groups.map (fun p => p.2)).foldl (fun s g => s.addPubs (s.ctxOfWg w) g) ((s1.groups.filter (fun p => p.2.wg = w)).foldl (fun s p => s.dropPubs (s.ctxOfWg w) p.2) s1)
  let gs := n.groups.foldl (fun (t : Tbl Group) (p : Nat × Group) => tblPut t p.1 (p.2.stopIn 2 (s.core x.core).cycles)) (s1.groups.filter (fun p => p.2.wg ≠ w))
  let s2 := { s1 with groups := gs }
  let s3 := (s2.freeAllUnits x.core w).modCore x.core (fun k => { k with
    opm := n.opm.foldl (fun (t : Tbl OpmSlot) (p : Nat × OpmSlot) => tblPut t p.1 p.2) k.opm
    banks := n.banks.foldl (fun (t : Tbl Bank) (p : Nat × Bank) => tblPut t p.1 p.2) k.banks
    mq := k.mq.filter (fun (o : MmaOp) => o.wg ≠ w) ++ n.mq.map (fun (o : MmaOp) => { o with running := false, due := 0 })
    locks := k.locks.filter (fun (y : Lock) => y.owner ≠ w) ++ (n.copies.map (fun (c : Nat × CopySlot) => if c.2.st = 3 then c.2.locksAt w c.1 else [])).flatten })
  let s4 := s3.relandAll x.core ((rp.lands.filter (fun d => c ≤ d.rwc && d.id < n.fresh)))
  let s5 := n.bars.foldl (fun s b => if b.2.closing then s.inCycles x.core 4 (.barrierComplete w b.1) else s) s4
  (n.copies.filter (fun c => c.2.st = 3)).foldl (fun s c =>
    if !c.2.taken then s.now (.copyStart w c.1) else if c.2.done ≥ c.2.items.length then s.later (.copyComplete w c.1) else s) s5

/-- R396: a fault that the re-execution to a count meets: one of the interval before the count, after which a debugger has written a thread, so that the original
run went on from state that the re-execution does not have. -/
def Replay.metFault (r : Replay) (c : Nat) : Option (Nat × HaltRec) := r.faults.find? (fun x => x.1 < c)

/-- R395, R396: the rollback of a stopped workgroup to a count of its current interval. By R396 every value at a count of the re-execution is that of the
original run, which the history keeps; a fault on the way ends it at the count reached, with the fault in its record (assumption log 12). -/
def State.rollback (s : State) (w c : Nat) : State :=
  let rp := (s.wg w).replay
  let d := ((rp.metFault c).map (fun x => x.1)).getD c
  match rp.hist.find? (fun m => m.rwc = d) with
  | none => s
  | some n =>
    let s1 := (s.undoAll rp.undo).restoreAt w d n
    let s2 := s1.redoAll (rp.undo.filter (fun u => u.rwc < d))
    s2.modWg w (fun x => { x with halt := some (match rp.metFault c with
      | some (_, r) => { r with kind := 4, time := s.tick }
      | none => { code := cSTEP, kind := 4, time := s.tick }) })

/-- R389, R395: a workgroup stops as an asynchronous debug stop; a parked one is stopped where it is saved (assumption log 31). -/
def State.stopWith (s : State) (w : Nat) (r : HaltRec) : State :=
  if (s.wg w).phase = 1 then
    if (s.wg w).halt.isSome then s
    else s.modWg w (fun x => { x with halt := some r, reach := 15, settled := true, saved := x.saved.map (fun (p : Nat × Group) => (p.1, p.2.stopIn 2 (s.core x.core).cycles)) })
  else s.haltWg w none r
def State.debugStop (s : State) (w : Nat) : State := s.stopWith w { code := 0, kind := 4, time := s.tick }

/-- R375, R389: workgroups stop for a command, which keeps the halts that it makes. -/
def State.stopAll (s : State) (page : BitVec 6) (l : List Nat) : State :=
  let s1 := l.foldl (fun s w => s.debugStop w) s
  s1.modKick page (fun k => { k with stops := (l.filter (fun w => (s.wg w).halt.isNone)).filterMap (fun w => (s1.wg w).halt.map (fun r => (w, r))) })

/-- R375, R390, R395: a stopped workgroup goes on for a command, which keeps its halt record. -/
def State.letRun (s : State) (page : BitVec 6) (w : Nat) (f : Workgroup → Workgroup) : State :=
  ((s.resumeWg w).modWg w f).modKick page (fun k => { k with keep := (s.wg w).halt })

/-- R390, R395: single steps and runs to a count that have come to their stop: with T's instruction done, or the count reached, the workgroup
takes a debug stop with code STEP (assumption log 31). -/
def State.stepStops (s : State) (core : Nat) : State :=
  (s.wgs.filter (fun p => p.2.core = core && p.2.phase = 0 && p.2.halt.isNone)).foldl (fun s p =>
    match p.2.stepDone with
    | some (g, l) =>
      (match s.slotNo p.1 g with
      | some k =>
        let m := BitVec.ofNat 32 (2 ^ l)
        let t := s.thread core k l
        if !(s.pendsOf core k m).isEmpty || (s.group core k).waits.any (fun y => y.iss.lanes &&& m ≠ 0 && (match y.cond with | .yield _ => false | _ => true)) then s
        else s.stopGroup core k m m { code := cSTEP, kind := 4, pos := t.pos }
      | none => s.haltWg p.1 none { code := cSTEP, kind := 4, group := g, lanes := BitVec.ofNat 32 (2 ^ l), time := s.tick })
    | none =>
      match p.2.stopAt with
      | some c => if p.2.rwc ≥ c then s.haltWg p.1 none { code := cSTEP, kind := 4, time := s.tick } else s
      | none => s) s

/-! ### The commands of Table 23-3 -/

/-- R381: a debug command names a context with debug; one that is being reset is not started. -/
def State.debugCtx (s : State) (p : BitVec 6) (c : Nat) (k : State) : State :=
  if c ≥ 64 || !(s.ctx c).debug then s.reply p 2 [] else if (s.ctx c).st ≠ 1 then s.reply p 4 [] else k

/-- R381, R382: a debug command that names a workgroup. -/
def State.debugWg (s : State) (p : BitVec 6) (t : Long) (k : Nat → State) : State :=
  s.debugCtx p (bits t.toNat 5 0) (match s.target t.toNat with | none => s.reply p 2 [] | some w => k w)

/-- R388: one that names a debug-stopped workgroup. -/
def State.stoppedWg (s : State) (p : BitVec 6) (t : Long) (k : Nat → State) : State :=
  s.debugWg p t (fun w => if s.debugStopped w then k w else s.reply p 4 [])

/-- R383: command 0x40; the change takes effect at its take (assumption log 5). -/
def execBreakpointSet (page : BitVec 6) (ctx index enable : Word) (pos : Long) (s : State) : Out :=
  .next (s.debugCtx page ctx.toNat (
    if index.toNat ≥ 8 || enable.toNat > 1 || bits pos.toNat 5 3 ≠ 0 || pos.toNat % 8 > 4 || pos.toNat ≥ 2 ^ 57 then s.reply page 2 []
    else (s.modCtx ctx.toNat (fun c => { c with bps := if enable = 1 then tblPut c.bps index.toNat pos else tblDel c.bps index.toNat })).reply page 0 []))

/-- R383: command 0x41; the change takes effect at its take (assumption log 5). -/
def execWatchpointSet (page : BitVec 6) (ctx index kind : Word) (va : Long) (len : Word) (s : State) : Out :=
  .next (s.debugCtx page ctx.toNat (
    if index.toNat ≥ 8 || kind.toNat ≥ 16 || len = 0 || len.toNat > 2 ^ 30 then s.reply page 2 []
    else (s.modCtx ctx.toNat (fun c => { c with wps := if kind.getLsbD 0 then tblPut c.wps index.toNat { kinds := kind.toNat, base := va.toNat, len := len.toNat } else tblDel c.wps index.toNat })).reply page 0 []))

/-- R389: command 0x42: the workgroups it names stop; it completes when each has settled. -/
def execDebugHalt (page : BitVec 6) (target : Long) (all : Bool) (s : State) : Out :=
  let c := bits target.toNat 5 0
  let mine := (s.wgs.filter (fun p => s.ctxOfWg p.1 = c)).map (fun p => p.1)
  let settled (s : State) (l : List Nat) : Bool := l.all (fun w => (s.wg w).halt.isNone || (s.wg w).settled || (s.wg w).phase = 1)
  .next (
    if all then s.debugCtx page c (
      if (s.kick page).phase = 0 then (s.stopAll page mine).notYet page 1
      else if settled s mine then s.reply page 0 [] else s)
    else if (s.kick page).phase = 0 then s.debugWg page target (fun w => (s.stopAll page [w]).notYet page 1)
    else match s.target target.toNat with
      | some w => if settled s [w] then s.reply page 0 [] else s
      | none => s.reply page 0 [])

/-- R341: command 0x43. -/
def execDebugResume (page : BitVec 6) (target : Long) (s : State) : Out :=
  .next (s.stoppedWg page target (fun w => (s.resumeWg w).reply page 0 []))

/-- R390: command 0x44: one thread goes on by one instruction; the command completes at the stop, once the workgroup has settled. -/
def execStepCmd (page : BitVec 6) (target : Long) (group lane : Word) (s : State) : Out :=
  .next (
    if (s.kick page).phase = 0 then s.stoppedWg page target (fun w =>
      match s.groupNo w group.toNat with
      | some g =>
        if lane.toNat ≥ 32 || (g.thread lane.toNat).exited then s.reply page 2 []
        else (s.letRun page w (fun x => { x with step := some (group.toNat, lane.toNat) })).notYet page 1
      | none => s.reply page 2 [])
    else match s.target target.toNat with
      | some w => if s.debugStopped w then s.reply page 0 [] else s
      | none => s.reply page 0 [])

/-- R388: command 0x45: the debug-stopped workgroups of a context, target word and fault record of each. -/
def execListStopped (page : BitVec 6) (ctx : Word) (s : State) : Out :=
  .next (s.debugCtx page ctx.toNat (s.reply page 0 (((s.wgs.filter (fun p => s.ctxOfWg p.1 = ctx.toNat && s.debugStopped p.1)).map (fun p =>
    leBytes 8 (s.targetWord p.1) ++ (s.faultKept p.1 (p.2.halt.getD {})).bytes)).flatten)))

/-- A halted thread by group and lane, none where the arguments name none. -/
def State.haltedThread (s : State) (w : Nat) (group lane : Word) : Option Group :=
  if lane.toNat ≥ 32 then none
  else match s.groupNo w group.toNat with
    | some g => if (g.thread lane.toNat).exited then none else some g
    | none => none

/-- R32: command 0x46. -/
def execReadThread (page : BitVec 6) (target : Long) (group lane item : Word) (s : State) : Out :=
  .next (s.stoppedWg page target (fun w =>
    match s.haltedThread w group lane with
    | none => s.reply page 2 []
    | some g => match (Config.threadItem item.toNat).bind (s.threadItem w g lane.toNat) with
      | some b => s.reply page 0 b
      | none => s.reply page 2 []))

/-- R157: a mask that crossed from a register lane is kept no longer. -/
def Group.dropMasks (g : Group) (l r : Nat) : Group := { g with masks := g.masks.filter (fun m => !(m.lane = l && m.reg = r)) }

/-- R18, R32: a debugger's write of a register lane: the slot it held is released and its tag is clear. -/
def State.writeHaltedReg (s : State) (w g l r : Nat) (v : Word) : State :=
  let old := match s.groupNo w g with | some x => (x.thread l).reg r | none => {}
  let drop (x : Group) : Group := if x.wg = w && x.idx = g then x.dropMasks l r else x
  let s0 := ((s.noteFirst w [(0, g, r)]).modHalted w g l (fun t => { t with regs := tblSet {} t.regs r ⟨v, false⟩ })).modWg w (fun x => { x with saved := x.saved.map (fun (p : Nat × Group) => (p.1, drop p.2)) })
  let s1 := { s0 with groups := s0.groups.map (fun (p : Nat × Group) => (p.1, drop p.2)) }
  if old.tag && !s.replaying w then s1.release (s.wg w).core (s.ctxOfWg w) old.val else s1

/-- R396: a debugger writes a thread of a replay workgroup that a precise fault stopped: the re-execution, which has no such write, meets the fault again. -/
def State.noteMended (s : State) (w : Nat) : State :=
  match (s.wg w).halt with
  | some r => if s.replaying w && r.kind = 0 && !(s.wg w).replay.faults.any (fun x => x.1 = (s.wg w).rwc) then
      s.modWg w (fun x => { x with replay := { x.replay with faults := x.replay.faults ++ [(x.rwc, r)] } }) else s
  | none => s

/-- R32, R389: command 0x47. -/
def execWriteThread (page : BitVec 6) (target : Long) (group lane item : Word) (value : Long) (s : State) : Out :=
  .next (s.stoppedWg page target (fun w =>
    match s.haltedThread w group lane with
    | none => s.reply page 2 []
    | some g =>
      let l := lane.toNat
      match Config.threadItem item.toNat with
      | some (.reg r) => if r < g.n then ((s.noteMended w).writeHaltedReg w g.idx l r (value.setWidth 32)).reply page 0 [] else s.reply page 2 []
      | some (.pred p) => if p < 7 then ((s.noteMended w).modHalted w g.idx l (fun t => t.setPred p (value.getLsbD 0))).reply page 0 [] else s.reply page 2 []
      | some .preds => ((s.noteMended w).modHalted w g.idx l (fun t => (List.range 7).foldl (fun t p => t.setPred p (value.getLsbD p)) t)).reply page 0 []
      | some (.ret d) => if d < (g.thread l).depth then ((s.noteMended w).modHalted w g.idx l (fun t => t.setRet d value)).reply page 0 [] else s.reply page 2 []
      | _ => s.reply page 2 []))

/-- R331, R389, Table 23-3: an item of a halted workgroup. -/
def State.wgItem (s : State) (w : Nat) : Nat → Option (List Byte)
  | 0 => some (s.barItem w)
  | 1 => some (((List.range 16).map (fun j => (tblGet {} (s.wg w).rings j).bytes)).flatten)
  | 2 => some (s.matrixItem w)
  | 3 => some (((s.skidsOf w).map skidBytes).flatten)
  | 4 =>
    let u := s.logUse (s.wg w).core (s.ctxOfWg w)
    some (leBytes 8 u.1 ++ leBytes 8 u.2.1 ++ leBytes 8 u.2.2)
  | _ => none

/-- R389: command 0x48. An item longer than the 2032 bytes of a result is read in parts: bits 31:8 of the item word number them (assumption log 32). -/
def execReadWorkgroup (page : BitVec 6) (target : Long) (item : Word) (s : State) : Out :=
  let part := item.toNat / 256
  .next (s.stoppedWg page target (fun w =>
    match s.wgItem w (item.toNat % 256) with
    | some b => if part = 0 || 2032 * part < b.length then s.reply page 0 ((b.drop (2032 * part)).take 2032) else s.reply page 2 []
    | none => s.reply page 2 []))

/-- R395: command 0x49: to a count of the current interval, forward by running, back by rollback once every other workgroup of the context
has stopped and what the context's gather entries hold is in memory, where the undo log acts, and, where the workgroup is parked, once it has its core again
(assumption log 12); the result is the count reached. -/
def execPreciseStop (page : BitVec 6) (target interval count : Long) (s : State) : Out :=
  let c := count.toNat
  let others (w : Nat) : List Nat := (s.wgs.filter (fun p => p.1 ≠ w && s.ctxOfWg p.1 = s.ctxOfWg w)).map (fun p => p.1)
  .next (
    match (s.kick page).phase with
    | 0 => s.stoppedWg page target (fun w =>
        let x := s.wg w
        if !s.replaying w || interval.toNat ≠ x.ival.toNat then s.reply page 2 []
        else if c ≥ x.rwc then (s.letRun page w (fun x => { x with stopAt := some c })).notYet page 1
        else (s.stopAll page (others w)).notYet page 2)
    | 1 => match s.target target.toNat with
        | some w => if s.debugStopped w then s.reply page 0 (leBytes 8 (s.wg w).rwc) else s
        | none => s.reply page 0 (leBytes 8 0)
    | 2 => match s.target target.toNat with
        | some w => if (others w).all (fun v => (s.wg v).settled || (s.wg v).phase = 1) then (s.flushAll (s.ctxOfWg w)).notYet page (s.fresh + 3) else s
        | none => s.reply page 0 (leBytes 8 0)
    | n => match s.target target.toNat with
        | some w => if s.oldWork (s.ctxOfWg w) n || (s.wg w).phase = 1 then s else
            let s1 := s.rollback w c
            s1.reply page 0 (leBytes 8 (s1.wg w).rwc)
        | none => s.reply page 0 (leBytes 8 0))

end Sys2Proof.Machine
end

