-- ==== Sys2Proof/Machine/Observe.lean ====
section
/-! DEFINITION. Trace, sampling, causal trials and progress counters (R397-R411), and commands 0x4C to 0x4F (R416). -/

namespace Sys2Proof.Machine

/-! ### Buffers (R397) -/

/-- R397: a leaf below a table at some level maps a byte of [pa, pa + n). -/
def tableMaps (mem : List Host.Cell) (pa n : Nat) (lv table : Nat) : Bool :=
  match lv with
  | 0 => false
  | k + 1 => (List.range (levelEntries k)).any (fun i =>
      let e := memNat mem (table + 8 * i) 8
      bit e 0 && !badEntry k e &&
      (if bit e 1 then bits e 47 16 * 256 < pa + n && pa < bits e 47 16 * 256 + 2 ^ levelShift k
       else tableMaps mem pa n k (bits e 47 16 * 256)))

/-- R397: a page of some context maps a byte of a range. -/
def State.someMaps (s : State) (pa n : Nat) : Bool := s.ctxs.any (fun c => c.2.st ≠ 0 && tableMaps s.mem pa n 5 c.2.root)

/-- R368: the ranges of the layout tables of started contexts. -/
def State.layoutTables (s : State) : List (Nat × Nat) := (s.ctxs.filter (fun c => c.2.st ≠ 0 && c.2.layLen ≠ 0)).map (fun c => (c.2.layPA, 64 * c.2.layLen))

/-- R397: the ranges of armed buffers. -/
def State.buffers (s : State) : List (Nat × Nat) :=
  (s.cores.map (fun c =>
    (match c.2.trace with | some t => if t.on then [(t.base, t.size)] else [] | none => []) ++
    (c.2.samplers.filter (fun p => p.2.on)).map (fun p => (p.2.base, p.2.size)))).flatten

/-- R397: a range of device physical memory. -/
def deviceRange (pa n : Nat) : Bool := stackOf pa < 12 && pa + n ≤ 12 * 2 ^ 36

/-- R397, R401: the bytes of a core's trace queue are written, and what the buffer cannot take is lost. -/
def State.drainTrace (s : State) (core : Nat) : State :=
  match (s.core core).trace with
  | none => s
  | some t =>
    if t.queue.isEmpty then s
    else
      let l := t.queue.take (t.size - t.written)
      (s.bufferWrite (t.base + t.written) l).modCore core (fun c => { c with trace := some { t with queue := [], written := t.written + l.length, lost := t.lost + (t.queue.length - l.length) } })

/-! ### Trace packets (R399, R401) -/

/-- R397: every core's trace queue is written: a disarming command and a query complete only then. -/
def State.drainAll (s : State) : State := (s.cores.map (fun c => c.1)).foldl (fun s c => s.drainTrace c) s

/-- R400, R401: every group of some cores, resident or parked, changes what its trace has reached. -/
def State.modTraces (s : State) (on : Nat → Bool) (f : TraceSt → TraceSt) : State :=
  { s with
    groups := s.groups.map (fun (p : Nat × Group) => if on (p.1 / 128) then (p.1, { p.2 with trace := f p.2.trace }) else p)
    wgs := s.wgs.map (fun (w : Nat × Workgroup) => if on w.2.core then (w.1, { w.2 with saved := w.2.saved.map (fun (p : Nat × Group) => (p.1, { p.2 with trace := f p.2.trace })) }) else w) }

/-- R399: TRACE_TIME_PACKET. -/
def execTraceTimePacket (core : Nat) (s : State) : Out := .next (s.traceBytes core (escaped ([7, 0xFF] ++ leBytes 8 s.tick)))

/-- R401: TRACE_LOST_PACKET: once the queue has room, one LOST packet carries the bytes dropped, and every group synchronises again. -/
def execTraceLostPacket (core : Nat) (s : State) : Out :=
  match (s.core core).trace with
  | none => .next s
  | some t =>
    let l := escaped ([6, 0xFF] ++ leBytes 4 t.drop)
    if !t.on || t.drop = 0 || t.queue.length + l.length > 4096 then .next s
    else
      .next ((s.modCore core (fun c => { c with trace := some { t with queue := t.queue ++ l, drop := 0 } })).modTraces (fun c => c = core) (fun t => { t with lost := true }))

/-! ### prog and tmark (R410, R411) -/

/-- R409, R410: prog. -/
def execProg (h : Hdr) (f : FmtS) (s : State) : Out :=
  let k := f.imm.toNat % 16
  let n := (lanesOf (s.active h)).length
  .next ((s.modCtx s.curCtx (fun c => { c with progress := tblPut c.progress k (tblGet 0 c.progress k + BitVec.ofNat 64 n) })).retireSeq h)

/-- R404: a sampler of the context that waits for a mark starts. -/
def State.markSampler (s : State) : State :=
  s.modCore s.cur.core (fun c => { c with samplers := c.samplers.map (fun (p : Nat × Sampler) =>
    if p.1 = s.curCtx && p.2.on && p.2.atMark then (p.1, { p.2 with atMark := false, started := true, next := c.cycles + p.2.period }) else p) })

/-- R410: tmark. -/
def execTmark (h : Hdr) (f : FmtS) (s : State) : Out :=
  let act := s.active h
  let k := s.cur
  let s1 := s.retireSeq h
  .next (if act = 0 then s1
    else (s1.traceNote k.core k.slot ([4] ++ leBytes 1 k.slot ++ leBytes 4 act.toNat ++ leBytes 4 f.imm.toNat ++ leBytes 8 s.tick)).markSampler)

/-! ### Sampling (R403-R406) -/

/-- R404: the next slot after the last one sampled, in cyclic order, that holds a group of a context. -/
def State.nextSampled (s : State) (core part ctx : Nat) (last : Option Nat) : Option Nat :=
  let mine (k : Nat) : Bool := s.hasGroup core (32 * part + k) && s.ctxOfWg (s.group core (32 * part + k)).wg = ctx
  let from' := match last with | some k => k + 1 | none => 0
  (List.range 32).findSome? (fun i => let k := (from' + i) % 32; if mine k then some k else none)

/-- R405: a sample record. -/
def sampleRecord (part slot : Nat) (pos : Long) (time : Nat) (ival : Word) (rwc n reason : Nat) : List Byte :=
  leBytes 8 (part * 2 ^ 62 + slot * 2 ^ 57 + pos.toNat % 2 ^ 57) ++ leBytes 4 (time % 2 ^ 32) ++
  leBytes 4 (ival.toNat % 64 * 2 ^ 26 + rwc % 2 ^ 16 * 2 ^ 10 + n * 2 ^ 4 + reason)

/-- R406: a record is written while there is capacity, and counted as dropped after that. -/
def State.putSample (s : State) (core ctx : Nat) (l : List Byte) : State :=
  match tblFind (s.core core).samplers ctx with
  | none => s
  | some m =>
    let put (s : State) (m : Sampler) : State := s.modCore core (fun c => { c with samplers := tblPut c.samplers ctx m })
    if m.written ≥ m.capacity then put s { m with dropped := m.dropped + 1 }
    else put (s.bufferWrite (m.base + 16 * m.written) l) { m with written := m.written + 1 }

/-- R404, R405: one partition samples. -/
def State.samplePart (s : State) (core ctx part : Nat) : State :=
  match tblFind (s.core core).samplers ctx with
  | none => s
  | some m =>
    match s.nextSampled core part ctx (tblFind m.last part) with
    | none => s.putSample core ctx (sampleRecord part 0 0 s.tick 0 0 0 12)
    | some k =>
      let g := s.group core (32 * part + k)
      let w := s.wg g.wg
      let s1 := s.modCore core (fun c => { c with samplers := tblPut c.samplers ctx { m with last := tblPut m.last part k } })
      s1.putSample core ctx (sampleRecord part k g.lead s.tick w.ival w.rwcStart g.leadN g.reason)

/-- Whether a core holds a group of a context. -/
def State.holdsGroup (s : State) (core ctx : Nat) : Bool := s.groups.any (fun p => p.1 / 128 = core && s.ctxOfWg p.2.wg = ctx)

/-- R404: one context's sampler in a sample cycle. -/
def State.sampleCtx (s : State) (core ctx : Nat) (m : Sampler) : State :=
  let put (m : Sampler) : State := s.modCore core (fun c => { c with samplers := tblPut c.samplers ctx m })
  if !m.on || !m.started || (s.core core).cycles < m.next then s
  else if m.stopEmpty && m.seen && !s.holdsGroup core ctx then put { m with started := false }
  else ((List.range 4).filter (fun q => bit m.mask q)).foldl (fun s q => s.samplePart core ctx q) (put { m with next := m.next + m.period })

/-- R404: SAMPLE_TICK. -/
def execSampleTick (core : Nat) (s : State) : Out := .next ((s.core core).samplers.foldl (fun s p => s.sampleCtx core p.1 p.2) s)

/-- R404: a started sampler has seen a group of its context. -/
def State.seeGroups (s : State) (core : Nat) : State :=
  if (s.core core).samplers.isEmpty then s
  else s.modCore core (fun c => { c with samplers := c.samplers.map (fun (p : Nat × Sampler) => (p.1, { p.2 with seen := p.2.seen || (p.2.started && s.holdsGroup core p.1) })) })

/-! ### Causal trials (R407, R408) -/

/-- R407: a trial ends: the counters are recorded and every debt is cleared. -/
def State.endTrial (s : State) (ctx : Nat) : State :=
  let c := s.ctx ctx
  if c.trial.isNone then s
  else
    let s1 := s.modCtx ctx (fun c => { c with trial := none, trialEnd := c.progress })
    { s1 with
      groups := s1.groups.map (fun (p : Nat × Group) => if s1.ctxOfWg p.2.wg = ctx then (p.1, { p.2 with debt := 0 }) else p)
      wgs := s1.wgs.map (fun (w : Nat × Workgroup) => if s1.ctxOfWg w.1 = ctx then (w.1, { w.2 with saved := w.2.saved.map (fun (p : Nat × Group) => (p.1, { p.2 with debt := 0 })) }) else w) }

/-- R407: TRIAL_END. -/
def execTrialEnd (ctx : Nat) (s : State) : Out :=
  .next (match (s.ctx ctx).trial with
    | some t => if t.ends ≤ s.tick then s.endTrial ctx else s
    | none => s)

/-! ### Commands 0x4C to 0x4F (R416) -/

/-- The cores a core argument names. -/
def namedCores (core : Nat) : List Nat := if core = 0xFFFF then List.range 320 else [core]

/-- R397: a buffer's size and base keep their limits. -/
def bufferOk (size base : Nat) : Bool := size % 4096 = 0 && 4096 ≤ size && size ≤ 2 ^ 26 && base % 4096 = 0

/-- R397, R416: command 0x4C (assumption log 5, 34). -/
def execTraceArm (page : BitVec 6) (ctx : Word) (core enable : BitVec 16) (size : Word) (base : Long) (s : State) : Out :=
  let cs := namedCores core.toNat
  let all := size.toNat * (if core = 0xFFFF then 320 else 1)
  let at' (c : Nat) : Nat := base.toNat + (if core = 0xFFFF then c * size.toNat else 0)
  .next (
    if ctx.toNat ≥ 64 || (core.toNat ≥ 320 && core ≠ 0xFFFF) || enable.toNat > 1 || !bufferOk size.toNat base.toNat then s.reply page 2 []
    else if enable = 0 then
      (cs.foldl (fun s c => s.modCore c (fun k => { k with trace := k.trace.map (fun t => if t.ctx = ctx.toNat then { t with on := false } else t) })) s.drainAll).reply page 0 []
    else if !deviceRange base.toNat all || s.someMaps base.toNat all then s.reply page 0xA []
    else
      let s1 := cs.foldl (fun s c => s.modCore c (fun k => { k with trace := some { ctx := ctx.toNat, base := at' c, size := size.toNat } })) s
      (s1.modTraces cs.contains (fun _ => {})).reply page 0 [])

/-- R403, R416: command 0x4D (assumption log 34). -/
def execSamplerArm (page : BitVec 6) (rec : BitVec 224) (s : State) : Out :=
  let f (o n : Nat) : Nat := rec.toNat / 256 ^ o % 256 ^ n
  let ctx := f 0 4
  let core := f 4 2
  let flags := f 7 1
  let size := f 0x18 4
  let base := f 0x10 8
  let cs := namedCores core
  let all := size * (if core = 0xFFFF then 320 else 1)
  .next (
    if ctx ≥ 64 || (core ≥ 320 && core ≠ 0xFFFF) || flags ≥ 8 || f 6 1 % 16 = 0 || f 8 4 < 16 || f 8 4 > 65535 || !bufferOk size base || f 0xC 4 = 0 || f 0xC 4 > size / 16 then s.reply page 2 []
    else if bit flags 2 then
      (cs.foldl (fun s c => s.modCore c (fun k => { k with samplers := k.samplers.map (fun (p : Nat × Sampler) => if p.1 = ctx then (ctx, { p.2 with on := false, started := false, atMark := false }) else p) })) s.drainAll).reply page 0 []
    else if !deviceRange base all || s.someMaps base all then s.reply page 0xA []
    else
      (cs.foldl (fun s c => s.modCore c (fun k => { k with samplers := tblPut k.samplers ctx { mask := f 6 1, atMark := bit flags 0, stopEmpty := bit flags 1, period := f 8 4, capacity := f 0xC 4, base := base + (if core = 0xFFFF then c * size else 0), size := size, started := !bit flags 0, next := k.cycles + f 8 4 } })) s).reply page 0 [])

/-- R407, R416: command 0x4E (assumption log 34). -/
def execTrialArm (page : BitVec 6) (rec : BitVec 224) (s : State) : Out :=
  let f (o n : Nat) : Nat := rec.toNat / 256 ^ o % 256 ^ n
  let ctx := f 0 4
  let core := f 4 2
  .next (
    if ctx ≥ 64 || (core ≥ 320 && core ≠ 0xFFFF) || f 6 1 = 0 || f 6 1 > 64 || f 7 1 ≠ 0 || f 8 8 ≥ f 16 8 || f 24 4 < 10 || f 24 4 > 1000000 then s.reply page 2 []
    else
      let ends := s.tick + f 24 4 * Config.ticksPerMicrosecond
      let s1 := (s.endTrial ctx).modCtx ctx (fun c => { c with trial := some { core := core, delay := f 6 1, lo := f 8 8, hi := f 16 8, ends := ends }, trialStart := c.progress, trialHeld := 0 })
      (s1.inTicks (f 24 4 * Config.ticksPerMicrosecond) (.trialEnd ctx)).reply page 0 [])

/-- R397, R416: a query names a context, and completes once every packet produced before its take has been written. -/
def State.query (s : State) (p : BitVec 6) (ctx : Word) (l : State → List Byte) : State :=
  if ctx.toNat ≥ 64 then s.reply p 2 [] else s.drainAll.reply p 0 (l s.drainAll)

/-- R409: the sixteen counters of a table. -/
def counters (t : Tbl Long) : List Byte := ((List.range 16).map (fun k => leBytes 8 (tblGet 0 t k).toNat)).flatten

/-- R397, R416: command 0x4F, item 0. -/
def execQueryTraceBytes (page : BitVec 6) (ctx : Word) (s : State) : Out :=
  .next (s.query page ctx (fun s => Config.perCoreCounts ((List.range 320).map (fun c => match (s.core c).trace with
    | some t => if t.ctx = ctx.toNat then (t.written, t.lost) else (0, 0)
    | none => (0, 0)))))

/-- R406: item 1. -/
def execQuerySampleCounts (page : BitVec 6) (ctx : Word) (s : State) : Out :=
  .next (s.query page ctx (fun s => Config.perCoreCounts ((List.range 320).map (fun c => match tblFind (s.core c).samplers ctx.toNat with
    | some m => (m.written, m.dropped)
    | none => (0, 0)))))

/-- R409: item 2. -/
def execQueryProgressCounters (page : BitVec 6) (ctx : Word) (s : State) : Out := .next (s.query page ctx (fun s => counters (s.ctx ctx.toNat).progress))

/-- R407: item 3. -/
def execQueryTrialCounters (page : BitVec 6) (ctx : Word) (s : State) : Out :=
  .next (s.query page ctx (fun s => counters (s.ctx ctx.toNat).trialStart ++ counters (s.ctx ctx.toNat).trialEnd ++ leBytes 8 (s.ctx ctx.toNat).trialHeld))

/-- R415: item 4: the idle account of every context, then that of the device. -/
def execQueryEnergyAccounts (page : BitVec 6) (ctx : Word) (s : State) : Out :=
  let acc (x : Nat) : List Byte := leBytes 8 (min x (2 ^ 64 - 1))
  .next (s.query page ctx (fun s => ((List.range 64).map (fun c => acc (s.ctx c).idle)).flatten ++ acc s.idle))

end Sys2Proof.Machine
end

