-- ==== Sys2Proof/Machine/Power.lean ====
section
/-! DEFINITION. Operating points, module and thermal limits, wear (R437-R442), firmware images and attestation (R443-R445). -/

namespace Sys2Proof.Machine

/-! ### Operating points (R437, R442) -/

/-- R437, R442: a core column goes to a point, its clock stopped for at most 1 µs (assumption log 4); its cap and a thermal hold stand. -/
def State.setPoint (s : State) (core p : Nat) : State :=
  let k := s.core core
  let q := if s.thermalHold then 3 else min 3 (max p k.cap)
  if q = k.point then s
  else s.tickFresh.modCore core (fun c => { c with point := q, stopped := s.tick + 1 + s.anyValue.toNat % Config.ticksPerMicrosecond })

/-- R437: OPERATING_POINT_CHANGE. -/
def execOperatingPointChange (core point : Nat) (s : State) : Out := .next (if core < 320 then s.setPoint core point else s)

/-- R439, R440: firmware lowers a core column to a point; each step is remembered for the recovery (assumption log 41). -/
def State.lowerTo (s : State) (core p : Nat) : State :=
  let old := (s.core core).point
  if old ≥ p then s else { s.setPoint core p with lowered := s.lowered ++ List.replicate (p - old) core }

/-- R439: what a core column has metered over the last 10 ms. -/
def State.metered10 (s : State) (core : Nat) : Nat :=
  (((tblGet [] s.spent core).filter (fun p => p.1 + 11000000 > s.tick)).map (fun p => p.2)).foldl (· + ·) 0

/-- R439: the module's power in mW, averaged over the last 10 ms, from what its columns metered in units of 2^-40 J: every joule the module spends is in
some account (assumption log 41). -/
def State.modulePower (s : State) : Nat :=
  ((s.spent.map (fun c => ((c.2.filter (fun p => p.1 + 11000000 > s.tick)).map (fun p => p.2)).foldl (· + ·) 0)).foldl (· + ·) 0) * 100000 / 2 ^ 40

/-- R439: the column of the highest metered energy among those not yet taken and not at point 3; ties to the lower number. -/
def State.hottest (s : State) : Option Nat :=
  (List.range 320).foldl (fun a c =>
    if s.powerNext.contains c || (s.core c).point ≥ 3 then a
    else match a with
      | none => some c
      | some b => if s.metered10 c > s.metered10 b then some c else a) none

/-- R439: POWER_LIMIT_STEP with the 10 ms average in mW. -/
def execPowerLimitStep (milliwatts : Nat) (s : State) : Out :=
  let s1 := if milliwatts > 3400000 then (List.range 320).foldl (fun s c => s.lowerTo c 2) s else s
  .next (
    if milliwatts > 3200000 || (milliwatts > 3100000 && !s.powerNext.isEmpty) then
      let s2 := if s1.hottest.isNone then { s1 with powerNext := [] } else s1
      match s2.hottest with
      | some c => { s2.lowerTo c ((s2.core c).point + 1) with powerNext := s2.powerNext ++ [c] }
      | none => s2
    else if milliwatts ≤ 3100000 then { s1 with powerNext := [] } else s1)

/-- R439: POWER_RECOVERY_STEP: the column lowered last is raised one point. -/
def execPowerRecoveryStep (milliwatts : Nat) (s : State) : Out :=
  .next (
    if milliwatts > 3100000 || s.thermalHold then s
    else match s.lowered.getLast? with
      | none => s
      | some c => { s.setPoint c ((s.core c).point - 1) with lowered := s.lowered.dropLast })

/-! ### Temperature (R440) -/

/-- R440: every core column goes to point 3 and is held there; every started context is reset. -/
def State.thermalStop (s : State) : State :=
  let s1 := (List.range 320).foldl (fun s c => s.lowerTo c 3) s
  (List.range 64).foldl (fun s c => if (s.ctx c).st = 1 then s.reset1 c 5 false else s) { s1 with thermalHold := true }

/-- R440: 100 µs have passed since a column was last lowered for its temperature (assumption log 41). -/
def State.thermalDue (s : State) (core : Nat) : Bool :=
  match tblFind s.thermalAt core with
  | some t => decide (s.tick ≥ t + 110000)
  | none => true

/-- R440, Table 26-2: THERMAL_ACTION for a junction reading: columns 0 to 319 are the core columns, those after them the uncore columns (assumption log 41). -/
def execThermalAction (core celsius : Nat) (s : State) : Out :=
  let s1 := { s with junction := tblPut s.junction core celsius }
  let s2 := if s1.thermalHold && s1.junction.all (fun p => p.2 < 95) then { s1 with thermalHold := false } else s1
  let old := if core < 320 then (s2.core core).point else tblGet 0 s2.uncore core
  let go (s : State) (p : Nat) : State := if core < 320 then s.lowerTo core p else { s with uncore := tblSet 0 s.uncore core (max p old) }
  .next (
    if celsius ≥ 115 then s2.thermalStop
    else if celsius ≥ 110 then go s2 3
    else if celsius ≥ 100 then (if s2.thermalDue core then go { s2 with thermalAt := tblPut s2.thermalAt core s2.tick } (min 3 (old + 1)) else s2)
    else if core ≥ 320 then { s2 with uncore := tblSet 0 s2.uncore core 0 } else s2)

/-! ### Wear (R441, R442) -/

/-- R442: the highest point a predicted life allows (assumption log 42). -/
def capOf (hours : Nat) : Nat := if hours < 8760 then 2 else if hours < 17520 then 1 else 0

/-- R441, R442: WEAR_PREDICTION: the predicted hours of a column of a die; a core column's cap follows and is never taken back (assumption log 42). -/
def execWearPrediction (die column hours : Nat) (s : State) : Out :=
  let s1 := { s with wear := tblPut s.wear (die * 124 + column) (BitVec.ofNat 32 (min hours (2 ^ 32 - 1))) }
  let core := die * 80 + column
  .next (
    if column ≥ 80 then s1
    else
      let cap := max (s1.core core).cap (capOf hours)
      (s1.modCore core (fun c => { c with cap := cap })).setPoint core (max (s1.core core).point cap))

/-- Table 26-4: the kind of a column of a die, and its entry. -/
def columnKind (i : Nat) : Nat := if i < 80 then 0 else if i < 112 then 1 else if i < 116 then 2 else 3
def State.wearEntry (s : State) (die i : Nat) : List Byte :=
  leBytes 2 i ++ leBytes 1 (columnKind i) ++ leBytes 1 (if i < 80 then (s.core (die * 80 + i)).cap else 0) ++
  leBytes 4 (tblGet 0xFFFFFFFF s.wear (die * 124 + i)).toNat

/-! ### Firmware images and identity (R443-R445) -/

/-- R443: the fused minimum of the security version; the running image's measurement, security version and firmware version. -/
def State.fusedMin (s : State) : Word := s.fw.fused.getD Config.securityVersion
def State.image (s : State) : BitVec 512 × Word × Long :=
  s.fw.running.getD (Config.firmwareMeasurement, Config.securityVersion, Config.firmwareVersion)

/-- The part number, as ASCII bytes. -/
def partNumber : List Byte := [0x43, 0x4C, 0x39, 0x2D, 0x33, 0x32, 0x30, 0x2D, 0x37, 0x36, 0x38]

/-- R443: command 0x58. -/
def execImageVerify (page : BitVec 6) (image len sig : Long) (s : State) : Out :=
  let inMem (pa n : Nat) : Bool := stackOf pa < 12 && pa + n ≤ 12 * 2 ^ 36
  .next (s.admin page (
    if len.toNat > 2 ^ 24 then s.reply page 2 []
    else if !inMem image.toNat len.toNat || !inMem sig.toNat 1280 then s.reply page 0xA []
    else
      let b := memBytes s.mem image.toNat len.toNat
      let m := Config.shake256 b
      let v := Config.imageSecurityVersion b
      if !Config.falconVerify m (memBytes s.mem sig.toNat 1280) || v.toNat < s.fusedMin.toNat then s.reply page 8 []
      else ({ s with fw := { s.fw with verified := some (m, v, Config.imageVersion b) } }).reply page 0 (leBytes 64 m.toNat ++ leBytes 4 v.toNat)))

/-- R444: a command that came to a page meanwhile is taken, with the arguments it came with. -/
def State.takeHeld (s : State) (p : Nat) (k : Kick) : State :=
  match k.latched with
  | none => s
  | some v =>
    let page := BitVec.ofNat 6 p
    (s.modKick page (fun _ => { code := k.code, flags := k.flags, argLen := k.argLen, args := k.args, done := k.seq })).takeKick page v k.latchedAt

/-- R444: command 0x59: the fused minimum rises, firmware restarts with the image, and the kick pages are cleared; a command that came
meanwhile is then taken (assumption log 38). -/
def execImageActivate (page : BitVec 6) (s : State) : Out :=
  .next (s.admin page (
    match s.fw.verified with
    | none => s.reply page 4 []
    | some im =>
      if s.ctxs.any (fun c => c.2.st = 1) then s.reply page 4 []
      else
        let irq := (s.kick page).irq
        let s1 := { s with fw := { verified := none, running := some im, fused := some (if im.2.1.toNat > s.fusedMin.toNat then im.2.1 else s.fusedMin) }, kicks := [], timers := s.timers.filter (fun t => match t.ev with | .commandTimeout _ => false | _ => true), agenda := s.agenda.filter (fun a => match a with | .command _ => false | _ => true) }
        let s2 := if irq then { s1 with msix := s1.msix ||| BitVec.ofNat 64 (2 ^ page.toNat) } else s1
        s.kicks.foldl (fun t k => t.takeHeld k.1 k.2) s2))

/-- Table 26-6: the bytes an attestation report signs. -/
def State.reportBody (s : State) (nonce : BitVec 256) : List Byte :=
  let im := s.image
  leBytes 4 1 ++ leBytes 4 im.2.1.toNat ++ leBytes 8 im.2.2.toNat ++ partNumber ++ List.replicate 5 0 ++ leBytes 16 Config.serialNumber.toNat ++
  leBytes 64 im.1.toNat ++ leBytes 32 nonce.toNat ++ leBytes 8 s.tick ++ leBytes 8 0

/-- R445: command 0x5A. -/
def execAttestationReport (page : BitVec 6) (nonce : BitVec 256) (s : State) : Out :=
  let b := s.reportBody nonce
  .next (s.admin page (s.reply page 0 (b ++ leBytes 1280 (Config.falconSign b).toNat)))

/-- R445: command 0x5B. -/
def execIdentityPublicKey (page : BitVec 6) (s : State) : Out := .next (s.admin page (s.reply page 0 (leBytes 1793 Config.identityKey.toNat)))

end Sys2Proof.Machine
end

