-- ==== Sys2Proof/Machine/Stack.lean ====
section
/-! DEFINITION. Memory stacks (R418-R436): shift repair, the bank remap table, testing, errors, retirement, rotation, and the vbt instructions. -/

namespace Sys2Proof.Machine

/-! ### Registers of a stack (R420, R421, R430) -/

/-- R420, Table 25-1: the VBREP register of a spare group of a bus. -/
def Home.vb (h : Home) (bus g : Nat) : Word := tblGet 0 h.vbrep (bus * 16 + g)
def Home.setVb (h : Home) (bus g : Nat) (v : Word) : Home := { h with vbrep := tblSet 0 h.vbrep (bus * 16 + g) v }

/-- R421: the state of a physical bank group: 0 in service, 1 reserve, 2 retired. -/
def Home.bgState (h : Home) (b : Nat) : Nat := tblGet 0 h.bg b

/-- R421: the logical bank group a physical one holds. -/
def Home.logicalOf (h : Home) (b : Nat) : Option Nat := (List.range 32).find? (fun l => remapPhys (h.remapEntry l) = b)

/-- R423, R434: a bus serves a migrating entry. -/
def Home.migrates (h : Home) (b : Nat) : Bool :=
  match h.mig with
  | some m => b = m.target || b = remapPhys (h.remapEntry m.group)
  | none => false

/-- R419: the spare group and the position of a connection. -/
def connGroup (c : Nat) : Nat := if c < 1024 then c / 64 else (c - 1024) / 2
def connPos (c : Nat) : Nat := if c < 1024 then c % 64 else 64 + (c - 1024) % 2

/-- R420: a legal VBREP value. -/
def vbLegal (v : Word) : Bool :=
  let x := v.toNat
  bits x 31 16 = 0 && bits x 6 0 ≤ 65 && bits x 14 8 ≤ 65 && (!bit x 15 || (bit x 7 && bits x 6 0 < bits x 14 8))

/-- Table 25-3: a legal ROTCTL value; its reserved bits ignore writes (R13). -/
def rotLegal (v : Word) : Bool := 5 ≤ bits v.toNat 10 1 && bits v.toNat 10 1 ≤ 1000

/-- R420: the positions a VBREP value repairs. -/
def vbRepairs (v : Word) : List Nat :=
  if bit v.toNat 7 then bits v.toNat 6 0 :: (if bit v.toNat 15 then [bits v.toNat 14 8] else []) else []

/-- R420: the physical position that carries a logical bit of a group. -/
def vbPos (v : Word) (j : Nat) : Nat := (vbRepairs v).foldl (fun p f => if p ≥ f then p + 1 else p) j

/-- R419: the connection at a position of a spare group. -/
def connAt (g p : Nat) : Nat := if p < 64 then 64 * g + p else 1024 + 2 * g + (p - 64)

/-- R420: a position is added to a VBREP value that has room. -/
def vbAdd (v : Word) (q : Nat) : Word :=
  match vbRepairs v with
  | [] => BitVec.ofNat 32 (v.toNat / 256 * 256 + 2 ^ 7 + q)
  | f :: _ => if q > f then BitVec.ofNat 32 (f + 2 ^ 7 + q * 2 ^ 8 + 2 ^ 15) else BitVec.ofNat 32 (q + 2 ^ 7 + f * 2 ^ 8 + 2 ^ 15)

/-- R420: a faulty connection is repaired where its group has room; a position repaired already needs nothing. -/
def Home.repair (h : Home) (bus c : Nat) : Home :=
  let v := h.vb bus (connGroup c)
  if (vbRepairs v).contains (connPos c) || (vbRepairs v).length ≥ 2 then h else h.setVb bus (connGroup c) (vbAdd v (connPos c))

/-- R425, R426: a persistent error on a connection: a repair, or the mark beyond repair; a position repaired already needs none. -/
def Home.persistent (h : Home) (bus c : Nat) : Home :=
  let v := h.vb bus (connGroup c)
  if !(vbRepairs v).contains (connPos c) && (vbRepairs v).length ≥ 2 then
    { h with beyond := if h.beyond.contains bus then h.beyond else h.beyond ++ [bus] }
  else h.repair bus c

/-! ### Migration, retirement and rotation (R428-R430) -/

/-- R424: a quiesce or a background test of a bus ends at a demand. -/
def Home.demand (h : Home) (bus : Nat) : Home :=
  let h1 := if h.testBus = some bus then { h with testBus := none, testNext := (bus + 1) % 34 } else h
  match tblFind h1.quiesce bus with
  | some q => { h1 with quiesce := tblDel h1.quiesce bus, ended := h1.ended.filter (· ≠ (q.wg, bus)) ++ [(q.wg, bus)] }
  | none => h1

/-- R429: a migration of a logical bank group to the longest-standing reserve begins; both buses serve it (assumption log 39). -/
def State.startMigration (s : State) (stack l target : Nat) (retire : Option Nat) : State :=
  (s.modHome stack (fun h =>
    let src := remapPhys (h.remapEntry l)
    let h1 := (h.demand src).demand target
    { h1 with
      mig := some { group := l, target := target, stripe := 0, retire := retire }
      resOrder := h1.resOrder.filter (· ≠ target)
      remap := tblPut h1.remap l (BitVec.ofNat 32 (2 ^ 31 + target * 2 ^ 8 + src)) })).later (.stripeMigrate stack)

/-- R434: the vbt.retire instructions that retire a bus receive their result word. -/
def State.retireDone (s : State) (stack bus word : Nat) : State :=
  let mine := (s.home stack).retiring.filter (fun (p : Nat × Nat) => p.1 = bus)
  let s1 := s.modHome stack (fun h => { h with retiring := h.retiring.filter (fun (p : Nat × Nat) => p.1 ≠ bus) })
  mine.foldl (fun s p => (s.modPend p.2 (fun q => { q with wait := 0, writes := q.writes.map (fun w => { w with val := BitVec.ofNat 32 word }) })).now (.loadCompletion p.2)) s1

/-- R428: BUS_RETIRE: a bus is retired: it waits for a migration in progress; a bus that holds no logical bank group is marked; otherwise its
group migrates to the reserve that has been one the longest. With no reserve nothing is retired. -/
def execBusRetire (stack bus : Nat) (s : State) : Out :=
  let h := s.home stack
  .next (
    if h.bgState bus = 2 then s.retireDone stack bus (2 * 2 ^ 30)
    else if h.mig.isSome then s.modHome stack (fun h => { h with retireQ := if h.retireQ.contains bus then h.retireQ else h.retireQ ++ [bus] })
    else match h.logicalOf bus with
      | none => (s.modHome stack (fun h => { h with bg := tblPut h.bg bus 2, resOrder := h.resOrder.filter (· ≠ bus) })).retireDone stack bus 0
      | some l => match h.resOrder with
        | [] => s.retireDone stack bus (2 * 2 ^ 30)
        | t :: _ => s.startMigration stack l t (some bus))

/-- R428, R429: the end of a migration: the entry names its target, and the source is a reserve, or retired. The retirements that waited are next, in
their order. -/
def State.endMigration (s : State) (stack : Nat) (m : Migration) : State :=
  let src := remapPhys ((s.home stack).remapEntry m.group)
  let s1 := s.modHome stack (fun h => { h with
    mig := none, retireQ := [], remap := tblPut h.remap m.group (BitVec.ofNat 32 m.target)
    bg := tblPut (tblPut h.bg m.target 0) src (if m.retire.isSome then 2 else 1)
    resOrder := if m.retire.isSome then h.resOrder else h.resOrder ++ [src] })
  let s2 := match m.retire with | some b => s1.retireDone stack b m.target | none => s1
  { s2 with agenda := (s.home stack).retireQ.map (fun b => Act.event (.busRetire stack b)) ++ s2.agenda }

/-- R350, R428: the uncorrectable codewords of the stripe that is copied are moved as they are, and recorded. -/
def State.recordStripe (s : State) (stack : Nat) (m : Migration) : State :=
  (s.bad.filter (fun b => b.unit = 7 && b.index = stack && bits b.loc 12 8 = m.group && stripeOf b.loc = m.stripe)).foldl
    (fun s b => s.machineCheck b.unit 0 b.index b.loc 0xFFFF) s

/-- R429: STRIPE_MIGRATE: the next stripe is copied and the pointer advances; with the last one the migration ends. Memory keeps every value
(R431), and the bytes are moved for no launch (R413). -/
def execStripeMigrate (stack : Nat) (s0 : State) : Out :=
  match (s0.home stack).mig with
  | none => .next s0
  | some m =>
    let s := (s0.recordStripe stack m).movedAt none 65536 [meterKey 2 stack, meterKey 3 stack]
    .next (
      if m.stripe ≥ 32767 then s.endMigration stack m
      else
        let src := remapPhys ((s.home stack).remapEntry m.group)
        (s.modHome stack (fun h => { h with
          mig := some { m with stripe := m.stripe + 1 }
          remap := tblPut h.remap m.group (BitVec.ofNat 32 (2 ^ 31 + (m.stripe + 1) * 2 ^ 14 + m.target * 2 ^ 8 + src)) })).later (.stripeMigrate stack))

/-- R430: the interval in ticks between rotations: with one reserve left twice the field's value; none without a reserve or with enable clear. -/
def Home.rotTicks (h : Home) : Option Nat :=
  if !bit h.rotctl.toNat 0 || h.resOrder.isEmpty then none
  else some (1100000 * bits h.rotctl.toNat 10 1 * (if h.resOrder.length = 1 then 2 else 1))

/-- R430: ROTATION_INTERVAL: the group at the pointer migrates to the longest-standing reserve. -/
def execRotationInterval (stack : Nat) (s : State) : Out :=
  let h := s.home stack
  .next (
    if h.rotTicks.isNone || h.mig.isSome then s
    else match h.resOrder with
      | [] => s
      | t :: _ => (s.startMigration stack h.rotPtr t none).modHome stack (fun h => { h with rotPtr := (h.rotPtr + 1) % 32 }))

/-! ### Testing and errors (R422-R427) -/

/-- R423: the next bus, from one on, that the background tester may take. -/
def Home.nextTest (h : Home) : Option Nat :=
  (List.range 34).findSome? (fun i =>
    let b := (h.testNext + i) % 34
    if h.bgState b ≠ 2 && (tblFind h.quiesce b).isNone && !h.migrates b then some b else none)

/-- R422: the connections of a bus that a walking test finds wrong (assumption log 4, 39). -/
def failing (stack bus draw : Nat) : List Nat := (List.range 1056).filter (fun c => Config.connFails stack bus c draw)

/-- R419, R423: a pass takes 264 bursts of 8 beats of 0.3125 ns, and each beat carries 128 bytes. -/
def passTicks : Nat := 726
def passBytes : Nat := 264 * 8 * 128

/-- R423: BACKGROUND_TEST_PASS: a pass begins on the next bus; when it has run to its end, each connection that failed is a persistent error. -/
def execBackgroundTestPass (stack : Nat) (s : State) : Out :=
  let h := s.home stack
  .next (match h.testBus with
    | none => (match h.nextTest with
      | some b => s.modHome stack (fun h => { h with testBus := some b, testEnd := s.tick + passTicks })
      | none => s)
    | some b =>
      if s.tick < h.testEnd then s
      else (s.tickFresh.movedAt none passBytes [meterKey 2 stack, meterKey 3 stack]).modHome stack (fun h => (failing stack b s.fresh).foldl (fun h c => h.persistent b c) { h with testBus := none, testNext := (b + 1) % 34 }))

/-- R424: DEMAND_PREEMPT_TEST. -/
def execDemandPreemptTest (stack bus : Nat) (s : State) : Out := .next (s.modHome stack (fun h => h.demand bus))

/-- R425, R426: the error on a connection is persistent; its group counts anew. -/
def State.persists (s : State) (stack bus conn : Nat) : State :=
  s.modHome stack (fun h => { h.persistent bus conn with streak := tblDel h.streak (bus * 16 + connGroup conn) })

/-- R425, R426: PERSISTENT_ERROR_REPAIR (assumption log 10, 39). -/
def execPersistentErrorRepair (stack bus conn : Nat) (s : State) : Out := .next (s.persists stack bus conn)

/-- R349, R425: a correction in the codeword of a spare group of a bus: its logical bit and the group's VBREP name the connection; the fourth in
succession on one connection makes the error persistent. -/
def State.correctAt (s : State) (stack bus g j : Nat) : State :=
  let h := s.home stack
  let c := connAt g (vbPos (h.vb bus g) j)
  let n := match tblFind h.streak (bus * 16 + g) with | some x => if x.1 = c then x.2 + 1 else 1 | none => 1
  let s1 := (s.corrects 7 1).modHome stack (fun h => { h with streak := tblPut h.streak (bus * 16 + g) (c, n) })
  if n ≥ 4 then s1.persists stack bus c else s1

/-- R427: whether the connections of a double error can all be repaired. -/
def Home.repairable (h : Home) (bus : Nat) (conns : List Nat) : Bool :=
  !conns.isEmpty && conns.all (fun c =>
    let g := connGroup c
    let new := (conns.filter (fun d => connGroup d = g && !(vbRepairs (h.vb bus g)).contains (connPos d))).eraseDups
    (vbRepairs (h.vb bus g)).length + new.length ≤ 2)

/-- R350: a codeword of a stack is uncorrectable from now on. Its consumer finds it as it reads it, and faults as what it is: a line, a window word or
a submission at issue, a load as it completes, an element of ld.p at its home, an engine as it moves; where nothing consumes it, it is only
recorded (assumption log 46). -/
def State.uncorrectable (s : State) (stack pa wg : Nat) : State :=
  let s1 := { s with bad := ⟨7, stack, pa⟩ :: s.bad }
  if (tblFind s.wgs wg).isNone then s1.machineCheck 7 0 stack pa 0xFFFF else s1

/-- R428, R436: a bus that a retirement is migrating. -/
def Home.leaving (h : Home) (bus : Nat) : Bool := match h.mig with | some m => m.retire = some bus | none => false

/-- R427, R436: DOUBLE_ERROR: the faulty connections are repaired where they can be and the burst is read again; a burst that is still uncorrectable
(a free choice) or was not repaired faults its consumer; where no repair was possible the bus is retired. On a bus that a retirement is migrating
the codeword is moved with its bits unchanged, and recorded as its stripe is (assumption log 10). -/
def execDoubleError (stack bus pa wg : Nat) (conns : List Nat) (s : State) : Out :=
  .next (
    if (s.home stack).leaving bus then { s with bad := ⟨7, stack, pa⟩ :: s.bad }
    else if (s.home stack).repairable bus conns then
      let s1 := s.tickFresh.modHome stack (fun h => conns.foldl (fun h c => h.persistent bus c) h)
      if Config.freeBool s.fresh then s1.uncorrectable stack pa wg else s1
    else (s.uncorrectable stack pa wg).now (.busRetire stack bus))

/-- R422: the walking test of one bus at device reset: faulty positions are repaired; a group with three or more of them retires the bus where a
reserve is left, whose remap entry alone changes. -/
def State.resetTest (s : State) (stack bus : Nat) : State :=
  let bad := failing stack bus s.fresh
  s.tickFresh.modHome stack (fun h0 =>
    let h := bad.foldl (fun h c => h.repair bus c) h0
    if !(List.range 16).any (fun g => (bad.filter (fun c => connGroup c = g)).length ≥ 3) then h
    else match h.logicalOf bus with
      | none => { h with bg := tblPut h.bg bus 2, resOrder := h.resOrder.filter (· ≠ bus) }
      | some l => match h.resOrder with
        | [] => h
        | t :: r => { h with remap := tblPut h.remap l (BitVec.ofNat 32 t), bg := tblPut (tblPut h.bg bus 2) t 0, resOrder := r })

/-! ### The vbt instructions (R433-R436) -/

/-- Table 25-4: fields of a bus word. -/
def busStack (w : Word) : Nat := bits w.toNat 3 0
def busNo (w : Word) : Nat := bits w.toNat 13 8
def busConn (w : Word) : Nat := bits w.toNat 26 16

/-- R435, order 3. -/
def busBad (w : Word) (conn : Bool) : Bool :=
  bits w.toNat 31 27 ≠ 0 || bits w.toNat 15 14 ≠ 0 || bits w.toNat 7 4 ≠ 0 || busStack w > 11 || busNo w > 33 || (conn && busConn w > 1055)

/-- R424, R434: whether a bus is quiesced by a workgroup: 0 yes, 1 its quiesce has ended at a demand, 2 no. -/
def Home.quiesced (h : Home) (bus w : Nat) : Nat :=
  match tblFind h.quiesce bus with
  | some q => if q.wg = w then 0 else if h.ended.contains (w, bus) then 1 else 2
  | none => if h.ended.contains (w, bus) then 1 else 2

/-- R433, R434: a vbt instruction: the lowest active lane's bus word is checked, act gives, for the tick in which the word arrives at the home die
(assumption log 5), the state after the effect with the result word and the tick of completion, or none where the result comes later; every
active lane receives the word at completion. -/
def State.vbt (s : State) (h : Hdr) (i : Instr) (f : FmtS) (both conn : Bool) (act : State → Word → Word → Nat → State × Option (Nat × Nat)) : State :=
  let m := s.active h
  let r := f.a.toNat
  s.lowOperands h i m (if both then [.pair r] else [.reg r]) [r, r + 1] (fun s =>
    if m = 0 then (s.doneNow h).retireSeq h
    else
      let l := (lanesOf m).headD 0
      let w := s.selWord l r
      if busBad w conn then s.raise h m cACCESS (w.setWidth 64)
      else
        let k := s.cur
        let a := act s.tickFresh w (if both then s.selWord l (r + 1) else 0) (s.tick + 1 + Config.latency s.fresh)
        let s1 := a.1.takeToken h
        let word := (a.2.map (fun x => x.1)).getD 0
        let p : Pend := { core := k.core, slot := k.slot, kind := 5, path := k.path, lanes := k.lanes, act := m, pos := k.pos, tok := h.tok.toNat, wait := if a.2.isSome then 0 else 1, writes := (lanesOf m).map (fun l => ({ lane := l, reg := r + 1, val := BitVec.ofNat 32 word } : LaneWrite)) }
        let s2 := s1.addPend p
        (match a.2 with
          | some x => s2.inTicks (x.2 - s.tick) (.loadCompletion s1.fresh)
          | none => (s2.modHome (busStack w) (fun x => { x with retiring := x.retiring ++ [(busNo w, s1.fresh)] })).later (.busRetire (busStack w) (busNo w))).retireSeq h)

/-- Table 25-4: the result word of a status. -/
def vbtWord (status low : Nat) : Nat := status * 2 ^ 30 + low

/-- R434: vbt.quiesce; it completes within 48 cycles of the home die. -/
def execVbtQuiesce (h : Hdr) (f : FmtS) (s : State) : Out :=
  .next (s.vbt h (.vbtQuiesce h f) f false false (fun s w _ arr =>
    let x := s.home (busStack w)
    let b := busNo w
    let own := s.curWg
    let other := match tblFind x.quiesce b with | some q => q.wg ≠ own | none => false
    let at' := arr + s.anyValue.toNat % 49
    if x.bgState b = 2 || other || x.migrates b then (s, some (vbtWord 2 0, at'))
    else (s.modHome (busStack w) (fun x => { x.demand b with
      quiesce := tblPut (x.demand b).quiesce b { wg := own }, ended := (x.demand b).ended.filter (· ≠ (own, b)) }), some (0, at'))))

/-- R434: vbt.drive of a connection, or of every connection. -/
def State.drive (s : State) (w : Word) (flat : Bool) (arr : Nat) : State × Option (Nat × Nat) :=
  let b := busNo w
  let st := (s.home (busStack w)).quiesced b s.curWg
  if st ≠ 0 then (s, some (vbtWord st 0, arr + 16))
  else (s.modHome (busStack w) (fun x => { x with quiesce := x.quiesce.map (fun (q : Nat × Quiesce) =>
    if q.1 = b then (b, { q.2 with drive := some (busConn w, flat), driveEnd := arr + 16 }) else q) }), some (0, arr + 16))

/-- R434: vbt.drive.walk. -/
def execVbtDriveWalk (h : Hdr) (f : FmtS) (s : State) : Out := .next (s.vbt h (.vbtDriveWalk h f) f false true (fun s w _ arr => s.drive w false arr))
/-- R434: vbt.drive.flat. -/
def execVbtDriveFlat (h : Hdr) (f : FmtS) (s : State) : Out := .next (s.vbt h (.vbtDriveFlat h f) f false false (fun s w _ arr => s.drive w true arr))

/-- R434: vbt.sample waits for the last drive's loopback; what the loopback of a connection shows is physical (assumption log 4). -/
def execVbtSample (h : Hdr) (f : FmtS) (s : State) : Out :=
  .next (s.vbt h (.vbtSample h f) f false false (fun s w _ arr =>
    let b := busNo w
    let x := s.home (busStack w)
    let st := x.quiesced b s.curWg
    let at' := max arr (match tblFind x.quiesce b with | some q => q.driveEnd | none => 0) + 16
    if st ≠ 0 then (s, some (vbtWord st 0, arr + 16))
    else match (tblFind x.quiesce b).bind (fun q => q.drive) with
      | none => (s, some (vbtWord 2 0, arr + 16))
      | some (c, flat) =>
        let bad := if flat then !(failing (busStack w) b s.fresh).isEmpty else Config.connFails (busStack w) b c s.fresh
        (s.tickFresh, some (vbtWord 0 (bitNat bad 0), at'))))

/-- R434: vbt.rep.grp. -/
def execVbtRepGrp (h : Hdr) (f : FmtS) (s : State) : Out :=
  .next (s.vbt h (.vbtRepGrp h f) f true true (fun s w v arr =>
    if vbLegal v then (s.modHome (busStack w) (fun x => x.setVb (busNo w) (connGroup (busConn w)) v), some (0, arr + 40)) else (s, some (vbtWord 2 0, arr + 40))))

/-- R434: vbt.rep.rot. -/
def execVbtRepRot (h : Hdr) (f : FmtS) (s : State) : Out :=
  .next (s.vbt h (.vbtRepRot h f) f true false (fun s w v arr =>
    if rotLegal v then (s.modHome (busStack w) (fun x => { x with rotctl := v &&& 0x7FF }), some (0, arr + 40)) else (s, some (vbtWord 2 0, arr + 40))))

/-- R428, R434: vbt.retire: its result comes when the retirement ends (assumption log 39). -/
def execVbtRetire (h : Hdr) (f : FmtS) (s : State) : Out :=
  .next (s.vbt h (.vbtRetire h f) f false false (fun s w _ arr =>
    let x := s.home (busStack w)
    let b := busNo w
    let own := s.curWg
    let s1 := s.modHome (busStack w) (fun x => { x with quiesce := x.quiesce.filter (fun (q : Nat × Quiesce) => !(q.1 = b && q.2.wg = own)), ended := x.ended.filter (· ≠ (own, b)) })
    if x.bgState b = 2 || (x.resOrder.isEmpty && (x.logicalOf b).isSome && x.mig.isNone) then (s1, some (vbtWord 2 0, arr)) else (s1, none)))

/-- R434: vbt.resume. -/
def execVbtResume (h : Hdr) (f : FmtS) (s : State) : Out :=
  .next (s.vbt h (.vbtResume h f) f false false (fun s w _ arr =>
    let b := busNo w
    let st := (s.home (busStack w)).quiesced b s.curWg
    if st = 0 then (s.modHome (busStack w) (fun x => { x with quiesce := tblDel x.quiesce b }), some (0, arr + 40)) else (s, some (vbtWord st 0, arr + 40))))

end Sys2Proof.Machine
end

