-- ==== Sys2Proof/Machine/Firmware.lean ====
section
/-! DEFINITION. The firmware command set (R374-R380, R352, R354, R366-R369), host accesses to device memory (R378), device reset (R422), and
which command the code of a kick page names. -/

namespace Sys2Proof.Machine

/-! ### identify and device query (R375, R376) -/

/-- Table 22-5: identify. -/
def execIdentify (page : BitVec 6) (s : State) : Out :=
  .next (s.reply page 0 (partNumber ++ leBytes 8 s.image.2.2.toNat ++ leBytes 64 s.image.1.toNat))

/-- Table 22-6, item 0. -/
def execDeviceQueryErrorCounts (page : BitVec 6) (arg : Word) (s : State) : Out :=
  .next (if arg ≠ 0 then s.reply page 2 [] else s.reply page 0 (((List.range 13).map (fun u => leBytes 8 (tblGet 0 s.corrected (u + 1)))).flatten))

/-- Table 20-6. -/
def McRec.bytes (r : McRec) : List Byte :=
  leBytes 4 r.seq ++ leBytes 1 r.unit ++ leBytes 1 r.flags ++ leBytes 2 r.index ++ leBytes 8 r.location ++ leBytes 8 r.time ++ leBytes 2 r.ctx ++
  leBytes 2 r.syndrome ++ leBytes 4 0

/-- Table 22-6, item 1. -/
def execDeviceQueryMachineChecks (page : BitVec 6) (arg : Word) (s : State) : Out :=
  .next (if arg.toNat > 255 then s.reply page 2 []
    else s.reply page 0 (leBytes 4 (s.mcNext - s.mclog.length) ++ leBytes 4 s.mclog.length ++ (((s.mclog.drop arg.toNat).take 63).map McRec.bytes).flatten))

/-- Table 22-6, item 2. -/
def execDeviceQueryMalformedEntries (page : BitVec 6) (arg : Word) (s : State) : Out :=
  .next (if arg.toNat > 255 then s.reply page 2 []
    else s.reply page 0 (leBytes 4 s.malformed.length ++ leBytes 4 0 ++
      (((s.malformed.drop arg.toNat).take 126).map (fun r => leBytes 2 r.ctx ++ leBytes 2 r.level ++ leBytes 4 0 ++ leBytes 8 r.va)).flatten))

/-- Table 22-6, item 3 (R441). -/
def execDeviceQueryWear (page : BitVec 6) (arg : Word) (s : State) : Out :=
  .next (if arg.toNat > 3 then s.reply page 2 []
    else s.reply page 0 (leBytes 4 124 ++ ((List.range 124).map (fun i => s.wearEntry arg.toNat i)).flatten))

/-- Table 25-5. -/
def Home.repairBytes (h : Home) (bus : Nat) : List Byte :=
  ((List.range 16).map (fun g => leBytes 4 (h.vb bus g).toNat)).flatten ++
  leBytes 4 (h.bgState bus % 4 + bitNat (h.beyond.contains bus) 2 + bitNat (tblFind h.quiesce bus).isSome 3 + bitNat (decide (h.testBus = some bus)) 4) ++
  ((List.range 32).map (fun l => leBytes 4 (h.remapEntry l).toNat)).flatten ++ leBytes 4 h.rotctl.toNat ++ leBytes 4 (h.rotPtr % 32)

/-- Table 22-6, item 4 (R432). -/
def execDeviceQueryRepairState (page : BitVec 6) (arg : Word) (s : State) : Out :=
  .next (if busBad arg false then s.reply page 2 [] else s.reply page 0 ((s.home (busStack arg)).repairBytes (busNo arg)))

/-- Table 22-7. -/
def EvRec.bytes (r : EvRec) : List Byte :=
  leBytes 1 r.kind ++ leBytes 1 r.link ++ leBytes 2 r.ctx ++ leBytes 4 r.arg ++ leBytes 8 r.addr ++ leBytes 8 r.time

/-- Table 22-6, item 5. -/
def execDeviceQueryEvents (page : BitVec 6) (arg : Word) (s : State) : Out :=
  .next (if arg.toNat > 255 then s.reply page 2 []
    else s.reply page 0 (leBytes 4 s.evlog.length ++ leBytes 4 s.evLost ++ (((s.evlog.drop arg.toNat).take 84).map EvRec.bytes).flatten))

/-! ### Contexts (R352, R359, R375) -/

/-- Table 21-1: the fields of a context record. -/
def recField (rec : BitVec 1024) (o n : Nat) : Nat := rec.toNat / 256 ^ o % 256 ^ n

/-- Table 21-1: a record breaks a limit. -/
def ctxRecBad (rec : BitVec 1024) : Bool :=
  let f := recField rec
  let on := bit (f 0 4) 9 || bit (f 0 4) 10
  bits (f 0 4) 7 6 ≠ 0 || bits (f 0 4) 31 11 ≠ 0 || bits (f 4 4) 31 20 ≠ 0 || f 8 8 % 4096 ≠ 0 || f 8 8 ≥ 2 ^ 40 || f 0x10 8 % 65536 ≠ 0 ||
  f 0x18 8 % 65536 ≠ 0 || f 0x20 8 % 65536 ≠ 0 || (f 0x20 8 ≠ 0 && !on) || f 0x28 4 > 65536 || f 0x2C 4 ≠ 0 || f 0x30 8 % 64 ≠ 0 ||
  (List.range 4).any (fun d => f (0x38 + 2 * d) 2 > 1024) || (List.range 12).any (fun h => f (0x40 + 4 * h) 4 > 4194304) || f 0x78 8 ≠ 0

/-- R275, R379: the quotas at a home, and the die scratchpad taken on a die in units of 64 KiB, of contexts other than c. -/
def State.quotaSum (s : State) (home c : Nat) : Nat := ((s.ctxs.filter (fun p => p.1 ≠ c && p.2.st ≠ 0)).map (fun p => p.2.quota.getD home 0)).foldl (· + ·) 0
def State.dsTaken (s : State) (die : Nat) : Nat :=
  ((s.ctxs.filter (fun p => p.2.st ≠ 0)).map (fun p => p.2.ds.getD die 0)).foldl (· + ·) 0 + (s.windows.map (fun w => w.2.len / 65536)).foldl (· + ·) 0

/-- R352, R368: command 0x10 (assumption log 29, 37). -/
def execContextStart (page : BitVec 6) (rec : BitVec 1024) (s : State) : Out :=
  let f := recField rec
  let n := f 0 4 % 64
  let quota := (List.range 12).map (fun h => f (0x40 + 4 * h) 4)
  let ds := (List.range 4).map (fun d => f (0x38 + 2 * d) 2)
  .next (s.admin page (
    if ctxRecBad rec then s.reply page 2 []
    else if (s.ctx n).st ≠ 0 then s.reply page 4 []
    else if !deviceRange (f 8 8) 1 || (f 0x18 8 ≠ 0 && !deviceRange (f 0x10 8) (f 0x18 8)) || (f 0x28 4 ≠ 0 && (!deviceRange (f 0x30 8) (64 * f 0x28 4) ||
        s.someMaps (f 0x30 8) (64 * f 0x28 4) || tableMaps s.mem (f 0x30 8) (64 * f 0x28 4) 5 (f 8 8))) then s.reply page 0xA []
    else if (List.range 12).any (fun h => s.quotaSum h n + quota.getD h 0 > 4194304) || (List.range 4).any (fun d => s.dsTaken d + ds.getD d 0 > 1024) then s.reply page 5 []
    else
      let c : Ctx := { st := 1, priv := bit (f 0 4) 8, debug := bit (f 0 4) 9, replay := bit (f 0 4) 10, pasid := f 4 4, root := f 8 8, save := f 0x10 8, saveSize := f 0x18 8, debugVA := f 0x20 8, layLen := f 0x28 4, layPA := f 0x30 8, ds := ds, quota := quota, idle := (s.ctx n).idle }
      ({ s with ctxs := tblPut s.ctxs n c }).reply page 0 []))

/-- R359: a command that resets a context: it completes when the reset has (assumption log 29). -/
def State.resetCommand (s : State) (page : BitVec 6) (ctx : Word) (reason : Nat) (stop : Bool) : State :=
  let c := ctx.toNat
  s.admin page (
    if c ≥ 64 then s.reply page 2 []
    else if (s.kick page).phase = 0 then (if (s.ctx c).st = 0 then s.reply page 4 [] else (s.reset1 c reason stop).notYet page 1)
    else if (s.ctx c).st = 2 then s else s.reply page 0 [])

/-- R359: command 0x11. -/
def execContextStop (page : BitVec 6) (ctx : Word) (s : State) : Out := .next (s.resetCommand page ctx 2 true)
/-- R359: command 0x12. -/
def execContextReset (page : BitVec 6) (ctx : Word) (s : State) : Out := .next (s.resetCommand page ctx 4 false)

/-- R375: what a root launch cannot use of its record: the kernel record, a wait event, the completion record, the region table. -/
def State.rootBad (s : State) (ctx va : Nat) : Bool :=
  let bad (v n : Nat) (w : Bool) : Bool := match s.recordCheck ctx v n w with | .ok _ => false | _ => true
  let k := krOf (s.sysBytes ctx 0 va 256)
  bad va 256 false || k.waitVAs.any (fun v => bad v 4 false) || (k.comp ≠ 0 && bad k.comp 64 true) || bad k.regVA (16 * k.regN) false

/-- R375: the submission of a root launch. -/
def rootSubmit (ctx va : Nat) : Submit := { ctx := ctx, va := va, timed := false, die := 0, op := none }

/-- R375: command 0x13: the record is accepted or rejected as a launch's is; an accepted one returns the status word of its completion record (assumption log 35). -/
def execRootLaunch (page : BitVec 6) (ctx : Word) (va : Long) (s : State) : Out :=
  let c := ctx.toNat
  .next (s.started page ctx (
    if va.toNat % 256 ≠ 0 then s.reply page 2 []
    else if s.rootBad c va.toNat then s.reply page 0xA []
    else if s.launchCount c ≥ 256 then s.reply page 5 []
    else match s.accept (rootSubmit c va.toNat) with
      | (some r, s1) => s1.reply page 0xB (leBytes 4 r)
      | (none, s1) => s1.reply page 0 (leBytes 4 0)))

/-- Table 21-1: a context's record as it stands. -/
def Ctx.record (c : Ctx) (n : Nat) : List Byte :=
  leBytes 4 (n + bitNat c.priv 8 + bitNat c.debug 9 + bitNat c.replay 10) ++ leBytes 4 c.pasid ++ leBytes 8 c.root ++ leBytes 8 c.save ++
  leBytes 8 c.saveSize ++ leBytes 8 c.debugVA ++ leBytes 4 c.layLen ++ leBytes 4 0 ++ leBytes 8 c.layPA ++
  ((List.range 4).map (fun d => leBytes 2 (c.ds.getD d 0))).flatten ++ ((List.range 12).map (fun h => leBytes 4 (c.quota.getD h 0))).flatten ++
  leBytes 8 (c.ximp + c.xexp + c.xauto).toNat ++ leBytes 8 0

/-- R375: command 0x14. -/
def execContextQuery (page : BitVec 6) (ctx : Word) (s : State) : Out :=
  let c := s.ctx ctx.toNat
  .next (if ctx.toNat ≥ 64 then s.reply page 2 []
    else if c.st = 0 then s.reply page 0 (List.replicate 132 0) else s.reply page 0 (c.record ctx.toNat ++ leBytes 4 c.st))

/-- R275, R375: command 0x15; requests a home holds for the context are looked at again. -/
def execQuotaSet (page : BitVec 6) (ctx home quota : Word) (s : State) : Out :=
  let c := ctx.toNat
  let h := home.toNat
  let q := quota.toNat
  .next (s.admin page (
    if h ≥ 12 || q > 4194304 then s.reply page 2 []
    else s.started page ctx (
      if s.quotaSum h c + q > 4194304 || q < s.slotCount c h then s.reply page 5 []
      else ((s.modCtx c (fun x => { x with quota := ((List.range 12).map (fun j => x.quota.getD j 0)).set h q })).regrant h c).reply page 0 [])))

/-- R354: command 0x18. -/
def execRunListEdit (page : BitVec 6) (entry : Word) (word : Long) (s : State) : Out :=
  let w := word.toNat
  let inLimit (x : Nat) : Bool := 10 ≤ x && x ≤ 1000000
  .next (s.admin page (
    if entry.toNat ≥ 64 || (bit w 63 && (bits w 55 52 = 0 || !inLimit (bits w 51 32) || !inLimit (bits w 31 0))) then s.reply page 2 []
    else ({ s with runList := tblSet 0 s.runList entry.toNat word }).reply page 0 []))

/-! ### Translation and handover (R366, R367, R377) -/

/-- R362: the address of the entry of a level for a VA: none where a table on the path is absent, malformed or stands as a leaf. -/
def entryAddr (mem : List Host.Cell) (va level : Nat) (lv table : Nat) : Option Nat :=
  match lv with
  | 0 => none
  | k + 1 =>
    let a := table + 8 * (va / 2 ^ levelShift k % levelEntries k)
    let e := memNat mem a 8
    if k = level then some a
    else if !bit e 0 || badEntry k e || bit e 1 then none
    else entryAddr mem va level k (bits e 47 16 * 256)

/-- R363: the address and the value of the leaf that maps a VA. -/
def leafAddr (mem : List Host.Cell) (va : Nat) (lv table : Nat) : Option (Nat × Nat) :=
  match lv with
  | 0 => none
  | k + 1 =>
    let a := table + 8 * (va / 2 ^ levelShift k % levelEntries k)
    let e := memNat mem a 8
    if !bit e 0 || badEntry k e then none
    else if bit e 1 then some (a, e)
    else leafAddr mem va k (bits e 47 16 * 256)

/-- R261: whether a frame is mapped by a page of a region among n bytes of VAs. -/
def State.mappedIn (s : State) (ctx va n : Nat) (r : Region) (frame : Nat) : Bool :=
  (List.range r.len).any (fun p => let v := r.base + p * 65536
    va ≤ v && v < va + n && (match s.walk ctx v with | .ok pa _ => pa / 65536 = frame / 256 | _ => false))

/-- R261: the frames that a span of VAs maps inside the regions of a context leave every L1 and every replica, and the fills under way form no
block of them. -/
def State.purgeSpan (s : State) (ctx va n : Nat) : State :=
  (s.ctx ctx).regions.foldl (fun s p => if spansMeet va n p.2.base (p.2.len * 65536) then
    (s.removeBlocks (fun b => s.mappedIn ctx va n p.2 b.frame)).cutFills (fun f => f.tag.isNone && s.mappedIn ctx va n p.2 f.frame) else s) s

/-- R368, R397: an entry would map an armed buffer, or a layout table (assumption log 37). -/
def State.hitsBuffer (s : State) (level e : Nat) : Bool :=
  let pa := bits e 47 16 * 256
  bit e 0 && (s.buffers ++ s.layoutTables).any (fun b => if bit e 1 then spansMeet pa (2 ^ levelShift level) b.1 b.2 else tableMaps s.mem b.1 b.2 level pa)

/-- R364, R366, R375: command 0x20; one that replaces a valid entry completes when what was translated through it has been performed (assumption log 36). -/
def execMapCmd (page : BitVec 6) (ctx : Word) (va : Long) (level : Word) (entry : Long) (s : State) : Out :=
  let c := ctx.toNat
  let e := entry.toNat
  let lv := level.toNat
  let v := va.toNat
  .next (
    if (s.kick page).phase > 0 then (if s.oldWork c (s.kick page).phase then s else s.reply page 0 [])
    else s.started page ctx (
      if lv > 4 || v ≥ 2 ^ 57 || (bit e 0 && badEntry lv e) then s.reply page 2 []
      else match entryAddr s.mem v lv 5 (s.ctx c).root with
        | none => s.reply page 0xA []
        | some a =>
          if s.hitsBuffer lv e then s.reply page 0xA []
          else
            let old := memNat s.mem a 8
            let span := 2 ^ levelShift lv
            let s1 := s.flushAll c
            let s2 := ((s1.bufferWrite a (leBytes 8 e)).purgeSpan c (v / span * span) span).wakeParked
            if bit old 0 && old ≠ e then (s2.modKick page (fun k => { k with undo := [(a, old, e)] })).notYet page (s2.fresh + 1) else s2.reply page 0 []))

/-- R377: the leaves of a handover range: none where a page is no valid shared leaf. -/
def State.handoverLeaves (s : State) (ctx va len : Nat) : Option (List (Nat × Nat × Nat)) :=
  (List.range (len / 65536)).foldr (fun i a =>
    match a, leafAddr s.mem (va + 65536 * i) 5 (s.ctx ctx).root, s.walk ctx (va + 65536 * i) with
    | some l, some (ad, e), .ok pa _ => if bit e 14 then some ((ad, e, pa) :: l) else none
    | _, _, _ => none) (some [])

/-- R377: another handover of the context that is not complete overlaps a range. -/
def State.handoverBusy (s : State) (page : BitVec 6) (ctx va len : Nat) : Bool :=
  s.kicks.any (fun p => p.1 ≠ page.toNat && p.2.running && p.2.phase > 0 && (p.2.code0 = 0x28 || p.2.code0 = 0x29) &&
    leNat (p.2.args0.take 4) = ctx && spansMeet va len (leNat ((p.2.args0.drop 4).take 8)) (leNat ((p.2.args0.drop 12).take 8)))

/-- R363, R377: a leaf with its host-owned attribute set or cleared. -/
def leafOwned (host : Bool) (e : Nat) : Nat := e / 256 * 256 + e % 128 + bitNat host 7

/-- R377: the host-owned attribute of leaves, and the cached words of their pages, change hands (assumption log 36). -/
def State.flip (s : State) (host : Bool) (l : List (Nat × Nat × Nat)) : State :=
  let ext := l.map (fun x => (x.2.2, 65536))
  let s1 := l.foldl (fun s x => s.bufferWrite x.1 (leBytes 8 (leafOwned host x.2.1))) s
  if host then
    let s2 := s1.dies.foldl (fun s d => (d.2.gather.filter (fun g => g.2.bytes.any (fun b => inExtents ext (g.1 * 256 + b.1)))).foldl (fun s g => s.flushGather d.1 g.1) s) s1
    { s2 with dies := s2.dies.map (fun (d : Nat × Die) => (d.1, { d.2 with l2 := d.2.l2.map (fun b => if extentMask ext b.frame ≠ 0 then { b with dirty := false } else b) })) }
  else
    let s2 := (s1.cores.map (fun c => c.1)).foldl (fun s c => s.invalidateL1 ext c) s1
    (s2.dies.map (fun d => d.1)).foldl (fun s d => s.invalidateL2 ext false d) s2

/-- R377: a handover in one direction (assumption log 36). -/
def State.handover (s : State) (page : BitVec 6) (ctx : Word) (va len : Nat) (host : Bool) : State :=
  let c := ctx.toNat
  if (s.kick page).phase > 0 then (if s.oldWork c (s.kick page).phase then s else s.reply page 0 [])
  else s.started page ctx (
    if va % 65536 ≠ 0 || len % 65536 ≠ 0 || va + len > 2 ^ 57 then s.reply page 2 []
    else if s.handoverBusy page c va len then s.reply page 7 []
    else match s.handoverLeaves c va len with
      | none => s.reply page 2 []
      | some l => let s1 := (s.flip host l).modKick page (fun k => { k with undo := l.map (fun x => (x.1, x.2.1, leafOwned host x.2.1)) })
        s1.notYet page (s1.fresh + 1))

/-- R377: command 0x28. -/
def execHandoverToDevice (page : BitVec 6) (ctx : Word) (va len : Long) (s : State) : Out := .next (s.handover page ctx va.toNat len.toNat false)
/-- R377: command 0x29. -/
def execHandoverToHost (page : BitVec 6) (ctx : Word) (va len : Long) (s : State) : Out := .next (s.handover page ctx va.toNat len.toNat true)

/-! ### Layout records (R368, R369) -/

/-- R13, Table 21-10: the reserved bits of the control word ignore writes and read zero. -/
def layoutKept (rec : BitVec 512) : BitVec 512 := rec &&& ~~~ (BitVec.ofNat 512 (2 ^ 64 * 0x40FFFC8C))

/-- R369, Tables 21-9 and 21-10: a layout record breaks a limit. -/
def layoutBad (rec : BitVec 512) : Bool :=
  let f (o n : Nat) : Nat := rec.toNat / 256 ^ o % 256 ^ n
  let w := f 8 4
  let n := bits w 6 4
  let esz := 2 ^ (w % 4)
  let z (d : Nat) : Nat := f (0x14 + 4 * d) 4
  let t (d : Nat) : Nat := if d = 0 then f 0x12 2 else f (0x28 + 5 * (d - 1)) 5
  n = 0 || n > 5 || f 0 8 ≥ 2 ^ 57 || f 0 8 % esz ≠ 0 || f 0x11 1 ≠ 0 || f 0x3C 4 ≠ 0 ||
  (List.range 5).any (fun d => if d < n then z d = 0 || t d = 0 || t d % esz ≠ 0 else f (0xC + d) 1 ≠ 0 || z d ≠ 0 || t d ≠ 0)

/-- Table 21-10: the owning context of a record. -/
def layoutOwner (rec : BitVec 512) : Nat := bits (rec.toNat / 2 ^ 64 % 2 ^ 32) 29 24

/-- R368: a record of a context's layout table is written. -/
def State.putLayout (s : State) (c h : Nat) (rec : BitVec 512) : State := s.bufferWrite ((s.ctx c).layPA + 64 * h) (leBytes 64 rec.toNat)

/-- R368, R369: command 0x30 (assumption log 37). -/
def execLayoutWrite (page : BitVec 6) (ctx handle : Word) (rec : BitVec 512) (s : State) : Out :=
  let c := ctx.toNat
  .next (s.started page ctx (
    if handle.toNat ≥ (s.ctx c).layLen then s.reply page 2 []
    else if layoutOwner rec ≠ c then s.reply page 9 []
    else if layoutBad rec then s.reply page 2 []
    else (s.putLayout c handle.toNat (layoutKept rec)).reply page 0 []))

/-- R368: command 0x31: the valid bit is cleared. -/
def execLayoutInvalidate (page : BitVec 6) (ctx handle : Word) (s : State) : Out :=
  let c := ctx.toNat
  .next (s.started page ctx (
    if handle.toNat ≥ (s.ctx c).layLen then s.reply page 2 []
    else (s.putLayout c handle.toNat (s.layoutRec c handle.toNat &&& ~~~ (BitVec.ofNat 512 (2 ^ 95)))).reply page 0 []))

/-! ### Host-visible windows (R379, R380) -/

/-- R379: every page of a range is a leaf with the host-window attribute that names a window (assumption log 37). -/
def State.windowPages (s : State) (ctx w va len : Nat) : Bool :=
  (List.range (len / 65536)).all (fun i => match s.walk ctx (va + 65536 * i) with | .ok _ e => leafWindow e && bits e 13 8 = w | _ => false)

/-- R380: some page below a table maps a window. -/
def mapsWindow (mem : List Host.Cell) (w : Nat) (lv table : Nat) : Bool :=
  match lv with
  | 0 => false
  | k + 1 => (List.range (levelEntries k)).any (fun i =>
      let e := memNat mem (table + 8 * i) 8
      bit e 0 && !badEntry k e && (if bit e 1 then leafWindow e && bits e 13 8 = w else mapsWindow mem w k (bits e 47 16 * 256)))

/-- R370, R379: command 0x38 (assumption log 37). -/
def execWindowBind (page : BitVec 6) (ctx window : Word) (va len host counter : Long) (s : State) : Out :=
  let c := ctx.toNat
  let w := window.toNat
  .next (s.started page ctx (
    if w ≥ 64 || va.toNat % 65536 ≠ 0 || len = 0 || len.toNat % 65536 ≠ 0 || len.toNat > 2 ^ 26 || va.toNat + len.toNat > 2 ^ 57 || counter.toNat % 8 ≠ 0 ||
      (tblFind s.windows (c * 64 + w)).isSome || !s.windowPages c w va.toNat len.toNat then s.reply page 2 []
    else if (List.range 4).any (fun d => s.dsTaken d + len.toNat / 65536 > 1024) then s.reply page 5 []
    else
      let x : Window := { pasid := (s.ctx c).pasid, va := va.toNat, len := len.toNat, host := host.toNat, counter := counter.toNat }
      ({ s with windows := tblPut s.windows (c * 64 + w) x, hostMem := memSetAll s.hostMem (placed (x.hostAt counter.toNat) (leBytes 8 0)) }).reply page 0 []))

/-- R380: command 0x39. -/
def execWindowUnbind (page : BitVec 6) (ctx window : Word) (s : State) : Out :=
  let c := ctx.toNat
  let w := c * 64 + window.toNat
  .next (s.started page ctx (
    match tblFind s.windows w with
    | none => s.reply page 2 []
    | some x =>
      if window.toNat ≥ 64 then s.reply page 2 []
      else if (s.kick page).phase = 0 && mapsWindow s.mem window.toNat 5 (s.ctx c).root then s.reply page 4 []
      else if x.busy > 0 then s.notYet page 1
      else ({ s with windows := tblDel s.windows w }).reply page 0 []))

/-- R380: ATS_TRANSLATION_INVALIDATE: the device no longer holds the window's translation (assumption log 10). -/
def execAtsTranslationInvalidate (ctx window : Nat) (s : State) : Out :=
  .next { s with windows := s.windows.map (fun (p : Nat × Window) => if p.1 = ctx * 64 + window then (p.1, { p.2 with held := false }) else p) }

/-! ### Faults, time-outs, host accesses, device reset -/

/-- R340: command 0x50. -/
def execFaultQuery (page : BitVec 6) (ctx : Word) (s : State) : Out :=
  .next (if ctx.toNat ≥ 64 then s.reply page 2 [] else s.reply page 0 (((s.ctx ctx.toNat).faults.map FaultKept.all).flatten))

/-- R375: the translation entries that a command wrote before it ran out of time hold what they held, where no other has written them since
(assumption log 36). -/
def State.undoEntries (s : State) (k : Kick) : State :=
  if k.undo.isEmpty then s
  else
    let ctx := leNat (k.args0.take 4)
    let s1 := k.undo.foldl (fun s x => if memNat s.mem x.1 8 = x.2.2 then s.bufferWrite x.1 (leBytes 8 x.2.1) else s) s
    let s2 := if k.code0 = 0x20 then
        let span := 2 ^ levelShift (leNat ((k.args0.drop 12).take 4))
        s1.purgeSpan ctx (leNat ((k.args0.drop 4).take 8) / span * span) span
      else s1
    s2.wakeParked

/-- R375: the workgroups that a command stopped go on, where the halt it made still stands; one that it let run and that has come to no stop stops again
with the record it had (assumption log 36). -/
def State.undoStops (s : State) (p : BitVec 6) (k : Kick) : State :=
  let s1 := k.stops.foldl (fun s x => if (s.wg x.1).halt = some x.2 then s.resumeWg x.1 else s) s
  match k.keep, s1.target (s.arg p 0 8) with
  | some r, some w => if (s1.wg w).halt.isNone then s1.stopWith w r else s1
  | _, _ => s1

/-- R375, R390, R395: COMMAND_TIMEOUT: a command not finished within 1 s completes with status 0x0C, and what it wrote, stopped or let run is taken back
(assumption log 36). -/
def execCommandTimeout (page : BitVec 6) (s : State) : Out :=
  let k := s.kick page
  .next (if !k.running then s else ((s.undoStops page k).undoEntries k).reply page 0xC [])

/-- R378: the leaves below a table that map a physical address, each with the VA it maps it at; va is where the table's VAs begin. -/
def leavesOf (mem : List Host.Cell) (pa : Nat) (lv table va : Nat) : List (Nat × Nat) :=
  match lv with
  | 0 => []
  | k + 1 => ((List.range (levelEntries k)).map (fun i =>
      let e := memNat mem (table + 8 * i) 8
      let v := va + i * 2 ^ levelShift k
      if !bit e 0 || badEntry k e then []
      else if bit e 1 then (if pa / 2 ^ levelShift k = bits e 47 16 * 256 / 2 ^ levelShift k then [(v + pa % 2 ^ levelShift k, e)] else [])
      else leavesOf mem pa k (bits e 47 16 * 256) v)).flatten

/-- R378, R379: a VA lies in a window that is bound. -/
def State.inWindow (s : State) (w va : Nat) : Bool := match tblFind s.windows w with | some x => x.va ≤ va && va < x.va + x.len | none => false

/-- R368, R378: a host or peer access through BAR2 is performed: every page of a started context that maps the address is shared and
host-owned, or lies in a bound window; the layout tables are reached by none. -/
def State.apertureOk (s : State) (pa : Nat) : Bool :=
  !s.layoutTables.any (fun t => t.1 ≤ pa && pa < t.1 + t.2) &&
  (s.ctxs.filter (fun c => c.2.st = 1)).all (fun c =>
    (leavesOf s.mem pa 5 c.2.root 0).all (fun x => leafHostOwned x.2 || (leafWindow x.2 && s.inWindow (windowOf c.1 x.2) x.1)))

/-- R378: HOST_APERTURE_ACCESS: an access that is performed writes at the home slice; any other writes nothing and is recorded (assumption log 10). -/
def execHostApertureAccess (link : BitVec 1) (write : Bool) (pa len : Nat) (data : List Byte) (s : State) : Out :=
  let bad := s.logEvent { kind := 1, link := link.toNat, ctx := 0xFFFF, arg := 8, addr := pa, time := s.tick }
  .next (
    if stackOf pa ≥ 12 || !s.apertureOk pa || !s.apertureOk (pa + (len - 1)) then bad
    else if write then (s.demands [pa]).bufferWrite pa (data.take len) else (s.demands [pa]).moved pa none len)

/-- R422, R351, R442, R443: DEVICE_RESET: every unit is as after reset and the walking test runs on every bus. Fuses, the verified firmware and
the caps of wear stay; whether memory keeps its contents is not stated (assumption log 4, 10, 38). -/
def execDeviceReset (s : State) : Out :=
  let base : State := { State.reset with
    fresh := s.fresh + 1
    mem := if Config.freeBool s.fresh then s.mem else []
    hostMem := s.hostMem
    cores := (s.cores.filter (fun c => c.2.cap ≠ 0)).map (fun (c : Nat × Core) => (c.1, { cap := c.2.cap, point := c.2.cap }))
    wear := s.wear
    fw := { s.fw with verified := none } }
  .next ((List.range 12).foldl (fun s st => (List.range 34).foldl (fun s b => s.resetTest st b) s) base)

/-! ### Which command a page holds (R374, Table 22-5) -/

/-- Table 22-5: the argument length of each command code; none for a code that is no command. -/
def commandLength (code : Nat) : Option Nat :=
  match code with
  | 0x01 => some 0
  | 0x02 => some 8
  | 0x10 => some 128
  | 0x11 => some 4
  | 0x12 => some 4
  | 0x13 => some 12
  | 0x14 => some 4
  | 0x15 => some 12
  | 0x18 => some 12
  | 0x20 => some 24
  | 0x28 => some 20
  | 0x29 => some 20
  | 0x30 => some 72
  | 0x31 => some 8
  | 0x38 => some 40
  | 0x39 => some 8
  | 0x40 => some 20
  | 0x41 => some 24
  | 0x42 => some 8
  | 0x43 => some 8
  | 0x44 => some 16
  | 0x45 => some 4
  | 0x46 => some 20
  | 0x47 => some 28
  | 0x48 => some 12
  | 0x49 => some 20
  | 0x4C => some 20
  | 0x4D => some 28
  | 0x4E => some 28
  | 0x4F => some 8
  | 0x50 => some 4
  | 0x58 => some 24
  | 0x59 => some 0
  | 0x5A => some 32
  | 0x5B => some 0
  | _ => none

/-- R374: the context a command names, none for the commands that name none. -/
def commandCtx (code arg : Nat) : Option Nat :=
  if code < 0x10 || code = 0x18 || code ≥ 0x58 then none else some (arg % 64)

/-- R374: a command that reached the device earlier and names the same context has not taken effect: it is still to begin, waits in its page for the one before
it, or is an unbind that waits for a publication. -/
def State.heldBack (s : State) (p : BitVec 6) : Bool :=
  let k := s.kick p
  let mine := commandCtx k.code0 (leNat (k.args0.take 4))
  k.phase = 0 && mine.isSome && s.kicks.any (fun q => q.1 ≠ p.toNat &&
    ((q.2.running && (q.2.phase = 0 || q.2.code0 = 0x39) && q.2.taken < k.taken && commandCtx q.2.code0 (leNat (q.2.args0.take 4)) = mine) ||
     (q.2.latched.isSome && q.2.latchedAt < k.taken && commandCtx q.2.code (leNat (tabBytes q.2.args 0 4)) = mine)))

/-- Table 22-5, Table 23-3, Table 24-6, Table 26-5: the command of a page runs, or runs on (assumption log 35). -/
def runCommand (page : Nat) (s : State) : Out :=
  let p := BitVec.ofNat 6 page
  let k := s.kick p
  let w (o : Nat) : Word := BitVec.ofNat 32 (s.arg p o 4)
  let d (o : Nat) : Long := BitVec.ofNat 64 (s.arg p o 8)
  if !k.running || s.heldBack p then .next s
  else match commandLength k.code0 with
    | none => .next (s.reply p 1 [])
    | some n =>
      if k.flags0 > 1 then .next (s.reply p 1 [])
      else if k.len0 ≠ n then .next (s.reply p 2 [])
      else match k.code0 with
        | 0x01 => execIdentify p s
        | 0x02 => (match s.arg p 0 4 with
          | 0 => execDeviceQueryErrorCounts p (w 4) s
          | 1 => execDeviceQueryMachineChecks p (w 4) s
          | 2 => execDeviceQueryMalformedEntries p (w 4) s
          | 3 => execDeviceQueryWear p (w 4) s
          | 4 => execDeviceQueryRepairState p (w 4) s
          | 5 => execDeviceQueryEvents p (w 4) s
          | _ => .next (s.reply p 2 []))
        | 0x10 => execContextStart p (BitVec.ofNat 1024 (s.arg p 0 128)) s
        | 0x11 => execContextStop p (w 0) s
        | 0x12 => execContextReset p (w 0) s
        | 0x13 => execRootLaunch p (w 0) (d 4) s
        | 0x14 => execContextQuery p (w 0) s
        | 0x15 => execQuotaSet p (w 0) (w 4) (w 8) s
        | 0x18 => execRunListEdit p (w 0) (d 4) s
        | 0x20 => execMapCmd p (w 0) (d 4) (w 12) (d 16) s
        | 0x28 => execHandoverToDevice p (w 0) (d 4) (d 12) s
        | 0x29 => execHandoverToHost p (w 0) (d 4) (d 12) s
        | 0x30 => execLayoutWrite p (w 0) (w 4) (BitVec.ofNat 512 (s.arg p 8 64)) s
        | 0x31 => execLayoutInvalidate p (w 0) (w 4) s
        | 0x38 => execWindowBind p (w 0) (w 4) (d 8) (d 16) (d 24) (d 32) s
        | 0x39 => execWindowUnbind p (w 0) (w 4) s
        | 0x40 => execBreakpointSet p (w 0) (w 4) (w 8) (d 12) s
        | 0x41 => execWatchpointSet p (w 0) (w 4) (w 8) (d 12) (w 20) s
        | 0x42 =>
          let all := s.arg p 4 4 = 1 && s.arg p 0 4 < 64 && ((s.target (s.arg p 0 8)).isNone || Config.haltAllForm)
          execDebugHalt p (d 0) all s
        | 0x43 => execDebugResume p (d 0) s
        | 0x44 => execStepCmd p (d 0) (w 8) (w 12) s
        | 0x45 => execListStopped p (w 0) s
        | 0x46 => execReadThread p (d 0) (w 8) (w 12) (w 16) s
        | 0x47 => execWriteThread p (d 0) (w 8) (w 12) (w 16) (d 20) s
        | 0x48 => execReadWorkgroup p (d 0) (w 8) s
        | 0x49 => execPreciseStop p (d 0) (BitVec.ofNat 64 (s.arg p 8 4)) (d 12) s
        | 0x4C => execTraceArm p (w 0) (BitVec.ofNat 16 (s.arg p 4 2)) (BitVec.ofNat 16 (s.arg p 6 2)) (w 8) (d 12) s
        | 0x4D => execSamplerArm p (BitVec.ofNat 224 (s.arg p 0 28)) s
        | 0x4E => execTrialArm p (BitVec.ofNat 224 (s.arg p 0 28)) s
        | 0x4F => (match s.arg p 4 4 with
          | 0 => execQueryTraceBytes p (w 0) s
          | 1 => execQuerySampleCounts p (w 0) s
          | 2 => execQueryProgressCounters p (w 0) s
          | 3 => execQueryTrialCounters p (w 0) s
          | 4 => execQueryEnergyAccounts p (w 0) s
          | _ => .next (s.reply p 2 []))
        | 0x50 => execFaultQuery p (w 0) s
        | 0x58 => execImageVerify p (d 0) (d 8) (d 16) s
        | 0x59 => execImageActivate p s
        | 0x5A => execAttestationReport p (BitVec.ofNat 256 (s.arg p 0 32)) s
        | _ => execIdentityPublicKey p s

end Sys2Proof.Machine
end

