-- ==== Sys2Proof/Machine/GroupWide.lean ====
section
/-! DEFINITION. Group-wide instructions (R154, R156-R169) and GROUP_WIDE_COMPLETION. -/

namespace Sys2Proof.Machine

/-- R156: the mask field as a source. -/
def maskSrc (f : FmtG) : List Src := if f.mask = 0x1FE then [] else [.reg f.mask.toNat]

/-- R156: the participation set of a contributing lane. -/
def State.partSet (s : State) (f : FmtG) (l : Nat) : BitVec 32 :=
  if f.mask = 0x1FE then BitVec.allOnes 32 else s.selWord l f.mask.toNat ||| BitVec.ofNat 32 (2 ^ l)

/-- R157: what the mask register of a lane held when it crossed for the gathering at the lane's position. -/
def Group.maskVal (g : Group) (l r : Nat) : Option Word :=
  (g.masks.find? (fun m => m.lane = l && m.pos == (g.thread l).pos && m.reg = r)).map MaskVal.val

/-- R157: mask registers that crossed while gathering are read from the crossing, and those that failed are noted. -/
def State.useMasks (s : State) (f : FmtG) : State :=
  let here (m : MaskVal) : Bool := s.cur.lanes.getLsbD m.lane && m.pos == s.cur.pos
  let used := (s.group s.cur.core s.cur.slot).masks.filter (fun m => here m && m.reg = f.mask.toNat)
  { s with cur := { s.cur with
      caps := used.foldl (fun (t : Tbl Word) (m : MaskVal) => tblPut t (crossKey m.lane m.reg) m.val) s.cur.caps
      failed := s.cur.failed ++ used.filterMap MaskVal.fail } }.modGroup s.cur.core s.cur.slot
    (fun g => { g with masks := g.masks.filter (fun m => !here m) })

/-- R157, R160: a mask that has crossed for its instance does not cross again; an operand in the same register does. -/
def State.maskStays (s : State) (f : FmtG) (l j : Nat) : Bool :=
  f.mask != 0x1FE && j == 0 && (tblFind s.cur.caps (crossKey l f.mask.toNat)).isSome

/-- What a lane of a group-wide instruction receives. -/
structure LaneOut where
  val : Option Nat := none
  pred : Option Bool := none
  flags : BitVec 5 := 0
  deriving DecidableEq, Repr

/-- R158-R160, R170: a group-wide instruction issues for the lanes gathered: operands, predicates read and destinations are checked, operands cross, each contributing lane's result is computed from
its set R, and all results are written lat cycles later. -/
def State.groupWide (s : State) (h : Hdr) (i : Instr) (f : FmtG) (srcs : List Src) (psrcs : List Nat) (dst pdst lat : Nat) (fpu : Bool)
    (out : State → BitVec 32 → Nat → BitVec 32 → LaneOut) : State :=
  let act := s.active h
  let s := if s.cur.phase > 0 then s else s.useMasks f
  s.withOperands h i act (maskSrc f ++ srcs) (dstRegs dst false) (psrcs ++ (if pdst = 7 then [] else [pdst])) (s.maskStays f) 0 (fun s =>
    let k := s.cur
    let lane (p : Pend) (l : Nat) : Pend :=
      let o := out s act l (act &&& s.partSet f l)
      let en := o.flags &&& (s.thread k.core k.slot l).fpctl
      let p1 := { p with flags := if o.flags = 0 then p.flags else p.flags ++ [(l, o.flags)] }
      if en ≠ 0 then { p1 with traps := p1.traps ||| BitVec.ofNat 32 (2 ^ l), exc := p1.exc ||| en }
      else { p1 with
        writes := p1.writes ++ (match o.val with | some v => laneWrites l dst false v false | none => [])
        preds := p1.preds ++ (match o.pred with | some b => [(l, pdst, b)] | none => []) }
    let p0 : Pend := { core := k.core, slot := k.slot, kind := 2, path := k.path, lanes := k.lanes, act := act, pos := k.pos, tok := h.tok.toNat, fpu := fpu }
    let p := (lanesOf act).foldl lane p0
    let s1 := s.takeToken h
    ((s1.addPend p).inCycles k.core lat (.groupWideCompletion s1.fresh)).retireSeq h)

/-- The lowest lane of a set. -/
def lowest (m : BitVec 32) : Nat := (lanesOf m).headD 0

/-- R154: elect. -/
def execElect (h : Hdr) (f : FmtG) (s : State) : Out :=
  .next (s.groupWide h (.elect h f) f [] [] f.dst.toNat (f.modi.toNat % 8) 8 false
    (fun _ _ l r => { val := some (lowest r), pred := some (decide (lowest r = l)) }))

/-- R163: predicate source S of a lane, negated or not (Table 10-2). -/
def votePred (f : FmtG) (s : State) (l : Nat) : Bool := s.lanePred l (bits f.modi.toNat 7 5) != bit f.modi.toNat 8

/-- Table 10-2: the predicate destination. -/
def predDst (f : FmtG) : Nat := bits f.modi.toNat 11 9

/-- R163: vote.all. -/
def execVoteAll (h : Hdr) (f : FmtG) (s : State) : Out :=
  .next (s.groupWide h (.voteAll h f) f [] [bits f.modi.toNat 7 5] 0x1FE (predDst f) 8 false
    (fun s _ _ r => { pred := some ((lanesOf r).all (fun k => votePred f s k)) }))

/-- R163: vote.any. -/
def execVoteAny (h : Hdr) (f : FmtG) (s : State) : Out :=
  .next (s.groupWide h (.voteAny h f) f [] [bits f.modi.toNat 7 5] 0x1FE (predDst f) 8 false
    (fun s _ _ r => { pred := some ((lanesOf r).any (fun k => votePred f s k)) }))

/-- Operand a as a source, a pair for b64. -/
def groupA (f : FmtG) : Src := if f.modi.toNat % 16 = 0xF then .pair f.a.toNat else .reg f.a.toNat

/-- The lanes of a set whose operand a equals that of lane l. -/
def State.equalTo (s : State) (f : FmtG) (l : Nat) (r : BitVec 32) : BitVec 32 :=
  maskOf ((lanesOf r).filter (fun k => s.srcVal k (groupA f) == s.srcVal l (groupA f)))

/-- R163: vote.eq. -/
def execVoteEq (h : Hdr) (f : FmtG) (s : State) : Out :=
  .next (s.groupWide h (.voteEq h f) f [groupA f] [] 0x1FE (predDst f) 8 false
    (fun s _ l r => { pred := some (decide (s.equalTo f l r = r)) }))

/-- R164: ballot. -/
def execBallot (h : Hdr) (f : FmtG) (s : State) : Out :=
  .next (s.groupWide h (.ballot h f) f [] [bits f.modi.toNat 7 5] f.dst.toNat 7 8 false
    (fun s _ _ r => { val := some (maskOf ((lanesOf r).filter (fun k => votePred f s k))).toNat }))

/-- R165: the window width of a code. -/
def shflWidth (code : Nat) : Nat := if code = 0 then 32 else 2 ^ code

/-- R165: the source lane of shfl in lane l, as an integer; v is idx, up, down, xor. -/
def shflSource (v w l n : Nat) : Int :=
  let b := l - l % w
  match v with
  | 0 => (b + n % w : Nat)
  | 1 => (l : Int) - n
  | 2 => (l + n : Nat)
  | _ => (l ^^^ (n % w) : Nat)

/-- R165: shfl. -/
def execShfl (h : Hdr) (v : BitVec 5) (f : FmtG) (s : State) : Out :=
  let w := shflWidth (bits f.lane.toNat 7 5)
  .next (s.groupWide h (.shfl h v f) f (if f.b = 0x1FE then [.reg f.a.toNat] else [.reg f.a.toNat, .reg f.b.toNat]) [] f.dst.toNat (predDst f) 8 false
    (fun s _ l r =>
      let n := if f.b = 0x1FE then f.lane.toNat % 32 else (s.selWord l f.b.toNat).toNat % 32
      let q := shflSource v.toNat w l n
      let b : Int := (l - l % w : Nat)
      let ok := decide (b ≤ q) && decide (q < b + w) && r.getLsbD q.toNat
      { val := some (if ok then (s.selWord q.toNat f.a.toNat).toNat else if bit f.lane.toNat 8 then 0 else (s.selWord l f.a.toNat).toNat)
        pred := some ok }))

/-- R166: xchg. -/
def execXchg (h : Hdr) (f : FmtG) (s : State) : Out :=
  let d := f.lane.toNat
  .next (s.groupWide h (.xchg h f) f [.reg f.a.toNat, .reg f.b.toNat] [] f.dst.toNat 7 8 false
    (fun s _ l r =>
      let a := s.selWord l f.a.toNat
      let y := if r.getLsbD (l ^^^ d) then s.selWord (l ^^^ d) f.a.toNat else a
      let m := s.selWord l f.b.toNat
      { val := some (if l &&& d = 0 then (a &&& m) ||| ((y <<< d) &&& ~~~ m) else (a &&& ~~~ m) ||| ((y >>> d) &&& m)).toNat }))

/-- R167: a node of the tree: two present children combine, one passes. -/
def treeNode (op : Nat → Nat → FRes) (x y : Option Nat) : Option Nat × BitVec 5 :=
  match x, y with
  | some a, some b => let r := op a b; (some r.bits, r.flags)
  | some a, none => (some a, 0)
  | none, y => (y, 0)

/-- R167: one level of the tree, and the exceptions its nodes raise. -/
def treeLevel (op : Nat → Nat → FRes) (l : List (Option Nat)) : List (Option Nat) × BitVec 5 :=
  match l with
  | x :: y :: r =>
    let n := treeNode op x y
    let m := treeLevel op r
    (n.1 :: m.1, n.2 ||| m.2)
  | l => (l, 0)

/-- R167: the five levels over the leaf positions 0 to 31. -/
def treeRoot (op : Nat → Nat → FRes) (l : List (Option Nat)) : Nat × BitVec 5 :=
  let a := treeLevel op l
  let b := treeLevel op a.1
  let c := treeLevel op b.1
  let d := treeLevel op c.1
  let e := treeLevel op d.1
  ((e.1.headD none).getD 0, a.2 ||| b.2 ||| c.2 ||| d.2 ||| e.2)

/-- R167: redux over integers or bit patterns. -/
def reduxInt (v ty : Nat) (xs : List Nat) : Nat :=
  let fold (f : Nat → Nat → Nat) : Nat := (xs.drop 1).foldl f (xs.headD 0)
  match v with
  | 0 => xs.foldl (· + ·) 0 % 2 ^ 32
  | 1 => fold (fun a b => if readInt ty b < readInt ty a then b else a)
  | 2 => fold (fun a b => if readInt ty b > readInt ty a then b else a)
  | 3 => fold (· &&& ·)
  | 4 => fold (· ||| ·)
  | _ => fold (· ^^^ ·)

/-- R167: redux over f32. The result of the root is flushed as R84 flushes any result; whether the flush of a min or max raises underflow and inexact,
as R84 says, or nothing but invalid counts, as R116 says, is left open: R84 is followed (assumption log 49). -/
def reduxFloat (v : Nat) (fin fout : Bool) (leaves : List (Option Nat)) : FRes :=
  let op (a b : Nat) : FRes := if v = 0 then fmt32.arithCore .add 0 a b 0 else fmt32.minMax (v == 2) false false a b
  let r := treeRoot op (leaves.map (fun x => x.map (fmt32.flushIn fin)))
  let tiny := r.1 / 2 ^ 23 % 256 = 0 && r.1 % 2 ^ 23 ≠ 0
  fmt32.flushOut fout ⟨r.1, r.2, tiny⟩

/-- R167: redux; redux.f32 completes 12 cycles after issue. -/
def execRedux (h : Hdr) (v : BitVec 5) (f : FmtG) (s : State) : Out :=
  let ty := f.modi.toNat % 16
  .next (s.groupWide h (.redux h v f) f [.reg f.a.toNat] [] f.dst.toNat 7 (if ty = 8 then 12 else 8) (ty == 8)
    (fun s _ _ r =>
      if ty = 8 then
        let kr := s.curLaunch.kr
        let x := reduxFloat v.toNat (flagFlushIn kr) (flagFlushOut kr)
          ((List.range 32).map (fun k => if r.getLsbD k then some (s.selWord k f.a.toNat).toNat else none))
        { val := some x.bits, flags := x.flags }
      else { val := some (reduxInt v.toNat ty ((lanesOf r).map (fun k => (s.selWord k f.a.toNat).toNat))) }))

/-- R168: match.any. -/
def execMatchAny (h : Hdr) (f : FmtG) (s : State) : Out :=
  .next (s.groupWide h (.matchAny h f) f [groupA f] [] f.dst.toNat 7 8 false
    (fun s _ l r => { val := some (s.equalTo f l r).toNat }))

/-- R168: match.all. -/
def execMatchAll (h : Hdr) (f : FmtG) (s : State) : Out :=
  .next (s.groupWide h (.matchAll h f) f [groupA f] [] f.dst.toNat (predDst f) 8 false
    (fun s _ l r =>
      let e := decide (s.equalTo f l r = r)
      { val := some (if e then r.toNat else 0), pred := some e }))

/-- R169: gsync has no effect but its gathering. -/
def execGsync (h : Hdr) (f : FmtG) (s : State) : Out :=
  .next (s.groupWide h (.gsync h f) f [] [] 0x1FE 7 8 false (fun _ _ _ _ => {}))

/-- R159: GROUP_WIDE_COMPLETION. -/
def execGroupWideCompletion (id : Nat) (s : State) : Out := .next (s.arriveLate id)

/-- R157: the union of the sets of the threads that stand at a group-wide instruction, the predicate of each read as it stands; none
while a mask register that holds a proxy has not crossed. -/
def Group.gatherSet (g : Group) (replay : Bool) (h : Hdr) (f : FmtG) (standing : BitVec 32) : Option (BitVec 32) :=
  (lanesOf standing).foldl (fun u l =>
    let t := g.thread l
    let own := BitVec.ofNat 32 (2 ^ l)
    if t.pred h.pred.toNat == (h.neg == 1) then u.map (· ||| own)
    else if f.mask = 0x1FE then u.map (fun _ => BitVec.allOnes 32)
    else match g.maskVal l f.mask.toNat with
      | some v => u.map (· ||| v ||| own)
      | none => if (t.reg f.mask.toNat).tag && !replay then none else u.map (· ||| (t.reg f.mask.toNat).val ||| own)) (some 0)

end Sys2Proof.Machine
end

