-- ==== Sys2Proof/Machine/Issue.lean ====
section
/-! DEFINITION. Issue, paths and reconvergence (R126-R140, R157, R277, R384, R390, R408): which threads are eligible, the group and the paths a
partition issues in a cycle, and lowering and raising. -/

namespace Sys2Proof.Machine

/-! ### Waits that end (Table 08-4) -/

/-- Table 08-4: a wait has come to its end. -/
def State.waitOver (s : State) (core slot : Nat) (c : WaitCond) : Bool :=
  let w := s.wgOf core slot
  match c with
  | .gone ids rounds => ids.all (fun i => !s.outstanding i) && s.roundsReached rounds
  | .yield due => decide (due ≤ (s.core core).cycles)
  | .cycle due => decide (due ≤ (s.core core).cycles)
  | .barGen k gen => decide ((tblGet {} (s.wg w).bars k).gen > gen)
  | .bartGen set gen => (match tblFind s.bsets set with
    | some b => decide (b.gen > gen)
    | none => true)
  | .token k n => decide ((s.group core slot).token k ≤ n)
  | .packets => s.packetsDone w
  | .copies m => (List.range 8).all (fun k => !bit m k || (s.copySlot w k).st = 0)
  | .ringFull j => decide ((s.ring w j).slot (s.ring w j).pop = 2)
  | .bufState j m st => decide ((s.ring w j).slot m = st)
  | .claim id => s.claimReady core id
  | .release kind b n => s.unitsIdle core kind b n
  | .lease home n =>
    let l := s.lease core (s.ctxOfWg w) home
    decide (l.nums.length ≥ n) || l.refused
  | .leases needs => needs.any (fun p => decide ((s.lease core (s.ctxOfWg w) p.1).nums.length ≥ p.2)) ||
    needs.any (fun p => let l := s.lease core (s.ctxOfWg w) p.1; l.nums.length < p.2 && l.refused)
  | .launches => decide (s.launchCount (s.ctxOfWg w) < 256)
  | .page _ => false
  | .refetch launch line => !s.refetching core launch line
  | .hold id => (tblFind s.pends id).isNone
  | .event => false

/-- R337, R390: waits of operations issued before go on ending while a group is stopped or held by a step; the others do not. -/
def State.mayGoOn (s : State) (g : Group) (w : Waiting) : Bool :=
  w.counts || (match w.cond with | .lease .. => true | _ => false) ||
  (!g.stopped && (match (s.wg g.wg).step with | some (i, l) => g.idx = i && w.iss.lanes.getLsbD l | none => true))

/-- R290, R294: the homes whose lease a wait still needs. -/
def WaitCond.homes : WaitCond → List (Nat × Nat)
  | .lease home n => [(home, n)]
  | .leases needs => needs
  | _ => []

/-- R276, R290, R294: a lease a wait needs asks again where it has room to. -/
def State.askFor (s : State) (core ctx : Nat) (l : List (Nat × Nat)) : State :=
  l.foldl (fun s p =>
    let x := s.lease core ctx p.1
    if x.nums.length < p.2 && !x.refused then s.askLease core ctx p.1 else s) s

/-- Table 08-4: one wait of a group: it ends, its instruction going on next, or it stays. -/
def State.resolveWait (s : State) (core slot : Nat) (w : Waiting) : State :=
  let g := s.group core slot
  if !s.mayGoOn g w then s
  else if s.waitOver core slot w.cond then
    (match w.cond with
    | .hold _ => s.dropWait core slot w.id
    | .yield _ => s.dropWait core slot w.id
    | _ => s.endWait core slot w.id)
  else s.askFor core (s.ctxOfWg g.wg) w.cond.homes

/-- The slots of a partition of a core that hold a group. -/
def State.slotsOf (s : State) (core part : Nat) : List Nat :=
  (s.groups.filter (fun p => p.1 / 128 = core && p.1 % 128 / 32 = part)).map (fun p => p.1 % 128)

/-- Table 08-4: the waits of a partition's groups that have come to their end (assumption log 14, 28). -/
def State.resolvePart (s : State) (core part : Nat) : State :=
  (s.slotsOf core part).foldl (fun s slot => (s.group core slot).waits.foldl (fun s w => s.resolveWait core slot w) s) s

/-! ### Conditions of a thread (Table 08-1) -/

/-- The issue of lanes at a position, for what the rules ask of an instruction that has not issued. -/
def State.asIf (s : State) (core slot : Nat) (m : BitVec 32) (p : Long) : State := { s with cur := { core := core, slot := slot, lanes := m, pos := p } }

/-- R136, R298: the group-wide instructions; cpy.slice gathers as one with mask `all`. -/
def gathersOf : Instr → Option (Hdr × FmtG)
  | .elect h f => some (h, f)
  | .voteAll h f => some (h, f)
  | .voteAny h f => some (h, f)
  | .voteEq h f => some (h, f)
  | .ballot h f => some (h, f)
  | .shfl h _ f => some (h, f)
  | .xchg h f => some (h, f)
  | .redux h _ f => some (h, f)
  | .matchAny h f => some (h, f)
  | .matchAll h f => some (h, f)
  | .gsync h f => some (h, f)
  | .cpySlice h _ => some (h, ⟨0x1FE, 0x1FE, 0x1FE, 0x1FE, 0, 0⟩)
  | _ => none

/-- R273, R277: the form of a proxy-capable instruction. -/
def homeFormOf : Instr → Option Form
  | .add _ f => some (f.two 2 4)
  | .addImm _ f => some (f.two 1 4)
  | .sub _ f => some (f.two 2 4)
  | .subImm _ f => some (f.two 1 4)
  | .mulLo _ f => some (f.two 2 6)
  | .mulLoImm _ f => some (f.two 1 6)
  | .minI _ f => some (f.two 2 4)
  | .minImm _ f => some (f.two 1 4)
  | .maxI _ f => some (f.two 2 4)
  | .maxImm _ f => some (f.two 1 4)
  | .andB _ f => some (f.two 2 4)
  | .andImm _ f => some (f.two 1 4)
  | .orB _ f => some (f.two 2 4)
  | .orImm _ f => some (f.two 1 4)
  | .xorB _ f => some (f.two 2 4)
  | .xorImm _ f => some (f.two 1 4)
  | .shl _ f => some (f.two 2 4)
  | .shlImm _ f => some (f.two 1 4)
  | .shr _ f => some (f.two 2 4)
  | .shrImm _ f => some (f.two 1 4)
  | .sel _ f => some (f.three 3 4)
  | .mov _ f => if f.ty == 0xE then some (f.bits2 1 4) else none
  | .fadd _ f => some (f.two 2 4)
  | .fmul _ f => some (f.two 2 4)
  | .ffma _ f => some (f.three 3 4)
  | .fmin _ f => some (f.two 2 4)
  | .fmax _ f => some (f.two 2 4)
  | .bfadd2 _ f => some (f.two 2 4)
  | .bfma2 _ f => some (f.three 3 4)
  | .cvt _ v f => if homeCvt v.toNat f.ty.toNat then some (f.cvtForm v.toNat 1 6) else none
  | .cvtSr _ v f => if homeCvt v.toNat f.ty.toNat then some (f.cvtForm v.toNat 1 6) else none
  | _ => none

/-- R86: whether a thread has a flag-raising instruction that has not completed. -/
def State.flagsUnderWay (s : State) (core slot l : Nat) : Bool :=
  s.pends.any (fun p => p.2.core = core && p.2.slot = slot && p.2.fpu && p.2.kind ≠ 4 && p.2.act.getLsbD l)

/-- R20, R43: a token a header waits for is nonzero, or the token it sets is full. -/
def Group.tokensHold (g : Group) (h : Hdr) : Bool :=
  (List.range 6).any (fun k => h.wait.getLsbD k && g.token (k + 1) ≠ 0) || (h.tok ≠ 0 && g.token h.tok.toNat ≥ 255)

/-- Table 08-4: the rows that a thread's next instruction brings about by what has gone before it. -/
def State.instrRows (s : State) (core slot l : Nat) (i : Instr) : List Nat :=
  let g := s.group core slot
  match i with
  | .rdsr _ f => if f.idx = 9 && s.flagsUnderWay core slot l then [7] else []
  | .wrsr _ f => if f.idx = 9 && s.flagsUnderWay core slot l then [7] else []
  | .ldsp .. => if tblGet 0 (s.core core).port (slot / 32) > (s.core core).cycles then [9] else []
  | .stsp .. => if tblGet 0 (s.core core).port (slot / 32) > (s.core core).cycles then [9] else []
  | .cpySlice _ f =>
    let c := s.copySlot g.wg (f.par.toNat % 8)
    if c.st ≥ 2 || (c.st = 1 && c.slices.any (fun x => x.group = g.idx)) then [4] else []
  | _ => []

/-- R230: the entries in use of a core's outstanding memory requests: one for each frame of an instruction under way, one for each fill of a cpf, one
for each store that waits. -/
def State.requestsOf (s : State) (core : Nat) : Nat :=
  ((s.pends.filter (fun p => p.2.core = core)).map (fun p => p.2.frames)).foldl (· + ·) 0 +
  (s.fills.filter (fun f => f.2.core = core && f.2.pend.isNone)).length + (s.msgs.filter (fun m => m.2.core = core && m.2.held && m.2.pend.isNone)).length

/-- R48, R218: the VAs of the words that the threads standing at a position read through a constant window, a window operand of format A or
ldc; a word beyond its window is none. -/
def State.constReads (s : State) (core slot : Nat) (p : Long) (x : Slot) (i : Instr) : List Nat :=
  let g := s.group core slot
  let h := slotHdr x
  let ts := g.threads.filter (fun t => !t.exited && t.pos == p && (t.pred h.pred.toNat != (h.neg == 1)))
  let win (k : Nat) : Nat × Nat := (s.launch (s.launchOfWg g.wg)).kr.windows.getD k (0, 0)
  match i with
  | .ldc _ f =>
    let w := win (f.off.toNat / 2 ^ 20)
    ts.filterMap (fun t =>
      let r := if f.addr = 0x1FE then ({} : Reg) else t.reg f.addr.toNat
      let b := r.val.toNat + f.off.toNat % 2 ^ 20
      if r.tag || b + sizeBytes f > 4 * w.2 then none else some (w.1 + b))
  | _ =>
    let f := slotA x
    let w := win f.win.toNat
    if ts.isEmpty || (i.specA f).isNone || !f.usesWindow || f.off.toNat ≥ w.2 then [] else [w.1 + 4 * f.off.toNat]

/-- R48: the lines of constants that a position still lacks: translated and not in the constant cache, or not translated (which ldc finds when
it issues). -/
def State.constLacks (s : State) (core slot : Nat) (p : Long) (x : Slot) (i : Instr) : List Nat :=
  let l := s.launchOfWg (s.group core slot).wg
  let ldc := match i with | .ldc .. => true | _ => false
  ((s.constReads core slot p x i).filter (fun va => match s.walk (s.launch l).ctx va with
    | .ok .. => !(s.core core).consts.any (fun c => c.1 = l && c.2.1 = va / 64 * 64 && c.2.2 ≤ (s.core core).cycles)
    | .absent _ => !ldc
    | .bad _ => false)).map (fun va => va / 64 * 64)

/-- Rows 7 to 9 of Table 08-1 for a thread, by what stands at its position: a line that is not there holds it by row 8; a word that is
no instruction, or fails its parity, is held by its header alone, and faults once it issues (R36, R74). -/
def State.slotRows (s : State) (core slot l : Nat) (t : Thread) : List Nat :=
  match s.slotAt core slot t.pos t.entering with
  | .present x i _ =>
    (if (s.group core slot).tokensHold (slotHdr x) then [7] else []) ++
    (match i with
      | some j => s.instrRows core slot l j ++ (if (s.constLacks core slot t.pos x j).isEmpty then [] else [8]) ++
          (if (slotOp x).toNat / 128 = 3 && s.requestsOf core ≥ 8192 then [9] else [])
      | none => [])
  | .faulty x => if (x.map (fun x => (s.group core slot).tokensHold (slotHdr x))).getD false then [7] else []
  | .mismatch _ x => if (x.map (fun x => (s.group core slot).tokensHold (slotHdr x))).getD false then [7] else [8]
  | _ => [8]

/-- R344: a fixed-latency instruction of Table 04-6 or Table 04-7. -/
def fixedFloat (i : Instr) : Bool :=
  match i.parts with
  | some p => p.op.toNat / 128 = 1 || (0x101 ≤ p.op.toNat && p.op.toNat ≤ 0x103)
  | none => false

/-- R390, R395: the thread of a step has had its instruction, and a run to a count has come to it. -/
def Workgroup.ranEnough (x : Workgroup) : Bool := x.stepDone.isSome || (x.stopAt.map (fun c => decide (x.rwc ≥ c))).getD false

/-- Table 08-1: the rows 1 to 4 and 6 to 9 that hold for a thread; while its crossings are on their way, a float instruction holds it by row 6
too where a trap is enabled (R344) (assumption log 33). -/
def State.threadRows (s : State) (core slot l : Nat) : List Nat :=
  let g := s.group core slot
  let t := g.thread l
  let w := s.wg g.wg
  let other := match w.step with | some (i, k) => !(g.idx = i && l = k) | none => false
  (if g.stopped || g.held || other || w.ranEnough || (s.replaying g.wg && s.logsFull g.wg) then [1] else []) ++
  (if g.chest ≠ 0 then [2] else []) ++ (if t.stall ≠ 0 then [6] else []) ++
  (g.waits.filter (fun x => x.iss.lanes.getLsbD l)).map Waiting.row ++
  ((g.xings.filter (fun x => x.iss.phase ≠ 0 && x.iss.lanes.getLsbD l)).map (fun x => if fixedFloat x.instr && t.fpctl ≠ 0 then [6, 7] else [7])).flatten ++
  s.slotRows core slot l t

/-! ### What a cycle finds of a group -/

/-- The rows of each non-exited thread of a group: its lane, its position, the rows. -/
abbrev Rows := List (Nat × Long × List Nat)

def State.groupRows (s : State) (core slot : Nat) : Rows :=
  let g := s.group core slot
  ((List.range 32).filter (fun l => !(g.thread l).exited && l < g.threads.length)).map (fun l => (l, (g.thread l).pos, s.threadRows core slot l))

/-- R157: the threads that stand at a position. -/
def Rows.standing (r : Rows) (p : Long) : BitVec 32 := maskOf ((r.filter (fun x => x.2.1 == p && x.2.2.all (· < 6))).map (fun x => x.1))

/-- R157: whether the gathering at a position is complete. -/
def State.gathered (s : State) (core slot : Nat) (r : Rows) (p : Long) (h : Hdr) (f : FmtG) : Bool :=
  let g := s.group core slot
  let st := r.standing p
  match g.gatherSet (s.replaying g.wg) h f st with
  | none => false
  | some u => r.all (fun x => !u.getLsbD x.1 || st.getLsbD x.1)

/-- R277: the threads of a position whose need is counted, and the result slots they would take, by home. -/
def State.needsAt (s : State) (core slot : Nat) (r : Rows) (p : Long) : List Nat :=
  match s.peek core slot p with
  | none => []
  | some (i, _) =>
    match homeFormOf i with
    | none => []
    | some fm =>
      let m := maskOf ((r.filter (fun x => x.2.1 == p && x.2.2.isEmpty)).map (fun x => x.1))
      let s1 := s.asIf core slot m p
      s1.homeNeeds (s1.active (headerOf i)) (fm.srcs.take fm.home) fm.dst

/-- R276-R278: the homes that hold back a position: the lease is short, and no request that the need has waited for has been refused. -/
def State.shortAt (s : State) (core slot : Nat) (needs : List Nat) : List Nat :=
  let g := s.group core slot
  needs.eraseDups.filter (fun h =>
    let l := s.lease core (s.ctxOfWg g.wg) h
    l.nums.length < needs.count h && !(g.asked.contains h && l.refused))

/-- Table 08-1, rows 5 and 10, which concern all threads of a position. -/
def State.posRows (s : State) (core slot : Nat) (r : Rows) (p : Long) : List Nat :=
  (match s.peek core slot p with
    | some (i, _) => (match gathersOf i with
      | some (h, f) => if s.gathered core slot r p h f then [] else [5]
      | none => [])
    | none => []) ++
  (if (s.shortAt core slot (s.needsAt core slot r p)).isEmpty then [] else [10])

/-- The positions at which threads of a group stand. -/
def Rows.positions (r : Rows) : List Long := (r.map (fun x => x.2.1)).eraseDups

/-- R41: whether a thread's next instruction executes, by its predicate. -/
def State.guardOf (s : State) (core slot : Nat) (t : Thread) : Bool :=
  match s.peek core slot t.pos with
  | some (i, _) => t.pred (headerOf i).pred.toNat != ((headerOf i).neg == 1)
  | none => false

/-- Table 08-1: every row of each thread; row 10 is for the threads with a true predicate that no row 1 to 9 holds (R277). -/
def State.fullRows (s : State) (core slot : Nat) (r : Rows) : Rows :=
  let at' : List (Long × List Nat) := r.positions.map (fun p => (p, s.posRows core slot r p))
  r.map (fun x =>
    let q := ((at'.find? (fun y => y.1 == x.2.1)).map (fun y => y.2)).getD []
    (x.1, x.2.1, x.2.2 ++ q.filter (fun n => n = 5 || (x.2.2.isEmpty && s.guardOf core slot (s.thread core slot x.1)))))

/-- R126: the eligible threads. -/
def Rows.eligible (r : Rows) : List (Nat × Long) := (r.filter (fun x => x.2.2.isEmpty)).map (fun x => (x.1, x.2.1))

/-- Table 08-1: the reason code of a row. -/
def reasonOf (row : Nat) : Nat := [1, 11, 6, 4, 5, 10, 2, 3, 7, 8, 9].getD row 1

/-- R127: the reason of a group that is not ready: that of the first row that holds for any thread. -/
def Rows.reason (r : Rows) : Nat := reasonOf (((r.map (fun x => x.2.2)).flatten).foldl min 10)

/-! ### The group and the paths (R129-R133) -/

/-- R131: the position held by the most, the lower among equals. -/
def mostHeld (l : List Long) : Option Long :=
  l.foldl (fun a p => match a with
    | none => some p
    | some b => if l.count p > l.count b || (l.count p = l.count b && p.toNat < b.toNat) then some p else some b) none

/-- R131, R133: path A: the most overdue thread's position where one is overdue, else the position held by the most. -/
def Group.pathA (g : Group) (e : List (Nat × Long)) : Option Long :=
  let od := e.filter (fun x => (g.thread x.1).overdue ≥ 64)
  match od with
  | [] => mostHeld (e.map (fun x => x.2))
  | x :: r => some (r.foldl (fun (b : Nat × Long) y =>
      let m := (g.thread y.1).overdue
      let n := (g.thread b.1).overdue
      if m > n || (m = n && y.2.toNat < b.2.toNat) then y else b) x).2

/-- The template class of the slot at a position, as its line word gives it. -/
def State.classAt (s : State) (core slot : Nat) (p : Long) : Option Nat :=
  let w := (s.group core slot).wg
  match s.walk (s.ctxOfWg w) (lineOf p) with
  | .ok pa _ => some (lineClass (lineWord (s.lineBytes (s.launchOfWg w) pa)) (p.toNat % 8))
  | _ => none

/-- R20: whether one token that two positions set has room for one of them only. -/
def State.tokenShort (s : State) (core slot : Nat) (a b : Long) : Bool :=
  match s.slotAt core slot a false, s.slotAt core slot b false with
  | .present x .., .present y .. =>
    (slotHdr x).tok ≠ 0 && (slotHdr x).tok = (slotHdr y).tok && (s.group core slot).token (slotHdr x).tok.toNat ≥ 254
  | _, _ => false

/-- R131: the position of path B. -/
def secondHeld (e : List (Nat × Long)) (a : Long) : Option Long := mostHeld ((e.filter (fun x => x.2 != a)).map (fun x => x.2))

/-- R132, R20, R277, R390, R395: path B issues beside path A: the same class, 0, 1 or 3; tokens and numbers enough for both; never during a
step, nor past the count a run stops at. Two scratchpad accesses may issue so: they pass the port together (assumption log 18). -/
def State.pathB (s : State) (core slot : Nat) (r : Rows) (e : List (Nat × Long)) (a : Long) : Option Long :=
  let g := s.group core slot
  match secondHeld e a with
  | none => none
  | some b =>
    match s.classAt core slot a, s.classAt core slot b with
    | some x, some y =>
      if (s.wg g.wg).step.isNone && ((s.wg g.wg).stopAt.map (fun c => decide ((s.wg g.wg).rwc + 2 ≤ c))).getD true && x = y && x ≠ 2 && !s.tokenShort core slot a b &&
          (s.shortLease core (s.ctxOfWg g.wg) (s.needsAt core slot r a ++ s.needsAt core slot r b)).isNone then some b else none
    | _, _ => none

/-- R131, R157, R390: the lanes that issue at a position: the eligible threads there; for a group-wide instruction every thread that stands there. -/
def State.pathLanes (s : State) (core slot : Nat) (r : Rows) (e : List (Nat × Long)) (p : Long) : BitVec 32 :=
  match s.peek core slot p with
  | some (i, _) => if (gathersOf i).isSome then r.standing p else maskOf ((e.filter (fun x => x.2 == p)).map (fun x => x.1))
  | none => maskOf ((e.filter (fun x => x.2 == p)).map (fun x => x.1))

/-! ### What happens in every cycle of a partition -/

/-- R129, R137: what a cycle does to a group whether or not it issues: its age rises, stall countdowns fall. A stopped group keeps the paths of
its last cycle (R32): an eligible thread that was on neither path then is shown as not eligible, a choice of the model (assumption log 14). -/
def Group.cycle (g : Group) : Group :=
  { g with
    age := min 65535 (g.age + 1)
    threads := g.threads.map (fun (t : Thread) => { t with stall := t.stall - 1, path := if g.stopped then t.path else 0 }) }

/-- R139, R140: a group whose move into or out of the chest has ended. -/
def Group.moved (g : Group) (now : Nat) : Group :=
  if g.raiseAt > now then g
  else if g.chest = 2 then { g with chest := 0, forced := false, entered := false, readySince := 0 }
  else if g.chest = 3 then { g with chest := 1 }
  else g

/-- R157: the mask registers that hold a proxy begin to cross in the first cycle in which their threads stand at a group-wide instruction (assumption log 27). -/
def State.crossMasks (s : State) (core slot : Nat) (r : Rows) : State :=
  r.positions.foldl (fun s p =>
    match s.peek core slot p with
    | some (i, _) => (match gathersOf i with
      | some (h, f) => (lanesOf (r.standing p)).foldl (fun s l =>
          let g := s.group core slot
          let t := g.thread l
          let x := t.reg f.mask.toNat
          if f.mask = 0x1FE || !x.tag || s.replaying g.wg || t.pred h.pred.toNat == (h.neg == 1) || (g.maskVal l f.mask.toNat).isSome ||
              g.xings.any (fun y => y.iss.phase = 0 && y.iss.lanes.getLsbD l) then s
          else
            let m : BitVec 32 := BitVec.ofNat 32 (2 ^ l)
            let op : XOp := { lane := l, reg := f.mask.toNat, word := x.val, count := 0 }
            let y : Xing := { id := s.fresh, iss := { core := core, slot := slot, lanes := m, pos := p }, instr := i, ops := [op] }
            (((s.modGroup core slot (fun g => { g with xings := g.xings ++ [y] })).tickFresh).addReader x.val).later (.crossingReturn core slot s.fresh 0)) s
      | none => s)
    | none => s) s

/-- R276, R277: the leases that hold a position back are asked for numbers; the group remembers that it has asked. -/
def State.askLeases (s : State) (core slot : Nat) (r : Rows) : State :=
  r.positions.foldl (fun s p =>
    (s.shortAt core slot (s.needsAt core slot r p)).foldl (fun s h =>
      (s.askLease core (s.ctxOfWg (s.group core slot).wg) h).modGroup core slot (fun g => { g with asked := if g.asked.contains h then g.asked else h :: g.asked })) s) s

/-! ### Trials (R407, R408) -/

/-- R408: the trial that concerns a core in a context. -/
def State.trialOn (s : State) (core ctx : Nat) : Option Trial :=
  match (s.ctx ctx).trial with
  | some t => if t.core = core || t.core = 0xFFFF then some t else none
  | none => none

/-- R408: a group with an eligible thread is held to pay its debt. -/
def State.paysDebt (s : State) (core slot : Nat) : Bool :=
  let g := s.group core slot
  (s.trialOn core (s.ctxOfWg g.wg)).isSome && g.debt ≥ 16

/-- R408: at the end of a cycle, the issues in the range add to the debt of the other groups of the context that lead outside it (assumption log 34). -/
def State.accrue (s : State) (core : Nat) : State :=
  let hits := (s.core core).hits
  if hits.isEmpty then s
  else
    let more (key : Nat) (g : Group) : Nat :=
      match s.trialOn core (s.ctxOfWg g.wg) with
      | some t => if t.lo ≤ g.lead.toNat && g.lead.toNat < t.hi then 0
          else t.delay * ((hits.filter (fun q => q.1 ≠ key && q.2.1 = s.ctxOfWg g.wg)).map (fun q => q.2.2)).foldl (· + ·) 0
      | none => 0
    { s with groups := s.groups.map (fun (p : Nat × Group) => if p.1 / 128 = core then (p.1, { p.2 with debt := min (2 ^ 20) (p.2.debt + more p.1 p.2) }) else p) }.modCore
      core (fun k => { k with hits := [] })

/-! ### Breakpoints (R384) -/

/-- R384: the enabled breakpoint at a position that some thread of a mask without the skip bit meets. -/
def State.breakAt (s : State) (core slot : Nat) (m : BitVec 32) (p : Long) : Option Nat :=
  let g := s.group core slot
  let c := s.ctx (s.ctxOfWg g.wg)
  if (s.wg g.wg).step.isSome || (lanesOf m).all (fun l => (g.thread l).skip) then none
  else (c.bps.find? (fun b => b.2 == p)).map (fun b => b.1)

/-- R384: the threads of a group that stand at a position. -/
def Group.standingAt (g : Group) (p : Long) : BitVec 32 := maskOf ((List.range 32).filter (fun l => !(g.thread l).exited && (g.thread l).pos == p))

/-- R32: the paths of a cycle in which neither issues. -/
def State.showPaths (s : State) (core slot : Nat) (ma mb : BitVec 32) : State :=
  s.modLanes core slot (ma ||| mb) (fun l t => { t with path := if ma.getLsbD l then 1 else 2 })

/-- R384: neither path issues; the workgroup takes a debug stop, and every thread of the group at a matched position receives a skip bit
(assumption log 31). -/
def State.breakStop (s : State) (core slot : Nat) (m skips : BitVec 32) (index : Nat) (p : Long) (b : Bool) : State :=
  (s.modLanes core slot skips (fun _ t => { t with skip := true })).stopGroup core slot m m
    { code := cBREAK, kind := 4, pathB := b, pos := p, tvalue := BitVec.ofNat 64 (2 ^ 63 + index) }

/-! ### The issue -/

/-- R129, R133, R147: the selected group issues its paths: its age and the overdue counts, the skip bits, and the yields that another thread's
issue ends. -/
def Group.issued (g : Group) (now : Nat) (e : List (Nat × Long)) (ma mb : BitVec 32) (a : Long) : Group :=
  { g with
    age := 0, lastA := a
    waits := g.waits.filter (fun w => match w.cond with | .yield _ => (ma ||| mb) &&& ~~~ w.iss.lanes = 0 | _ => true)
    threads := g.threads.mapIdx (fun l t =>
      if ma.getLsbD l || mb.getLsbD l then { t with overdue := 0, skip := false, path := if ma.getLsbD l then 1 else 2, since := now }
      else if e.any (fun x => x.1 = l) then { t with overdue := min 255 (t.overdue + 1) } else t) }

/-- R278: a need that has been refused is met by the issue of its path. -/
def Group.forgets (g : Group) (needs : List Nat) : Group := { g with asked := g.asked.filter (fun h => !needs.contains h) }

/-- R412: one issue slot of a launch on a core (assumption log 40). -/
def Core.useSlots (k : Core) (launch n : Nat) : Core := { k with issued := tblPut k.issued (launch + 1) (tblGet 0 k.issued (launch + 1) + n) }

/-- R127, Table 24-3: what a group reports for the cycle (assumption log 34). -/
def State.report (s : State) (core slot : Nat) (reason : Nat) (lead : Long) : State :=
  s.modGroup core slot (fun g => { g with reason := reason, lead := lead, leadN := (g.threads.filter (fun t => !t.exited && t.pos == lead)).length })

/-- R336, R408: the counts of an issuing group: its skid after a fault of its workgroup, its issues in a trial's range. -/
def State.countIssue (s : State) (core slot : Nat) (ps : List Long) : State :=
  let g := s.group core slot
  let skid := match (s.wg g.wg).halt with | some r => if r.time < s.tick then 1 else 0 | none => 0
  let hits := match s.trialOn core (s.ctxOfWg g.wg) with
    | some t => (ps.filter (fun p => t.lo ≤ p.toNat && p.toNat < t.hi)).length
    | none => 0
  (s.modGroup core slot (fun g => { g with skid := g.skid + skid })).modCore core (fun k =>
    { k with hits := if hits = 0 then k.hits else (gkey core slot, s.ctxOfWg g.wg, hits) :: k.hits })

/-- R131-R133, R384, R390: the selected group issues path A and, where it may, path B; the issues are next on the agenda (assumption log 14). A
breakpoint is met at the position of path B even where that path would not issue. -/
def State.issueGroup (s : State) (core slot : Nat) (r : Rows) (e : List (Nat × Long)) (a : Long) : State :=
  let g := s.group core slot
  let ma := s.pathLanes core slot r e a
  let b := s.pathB core slot r e a
  let mb := match b with | some p => s.pathLanes core slot r e p | none => 0
  let pb := b.getD 0
  let p2 := (secondHeld e a).getD 0
  let m2 := if (secondHeld e a).isSome then s.pathLanes core slot r e p2 else 0
  let ba := s.breakAt core slot ma a
  let bb := if m2 = 0 then none else s.breakAt core slot m2 p2
  let shown := (s.report core slot 0 a).showPaths core slot ma m2
  match ba, bb with
  | some k, _ => shown.breakStop core slot ma (g.standingAt a ||| (if bb.isSome then g.standingAt p2 else 0)) k a false
  | none, some k => shown.breakStop core slot m2 (g.standingAt p2) k p2 true
  | none, none =>
    let ps := match b with | some p => [a, p] | none => [a]
    let needs := (ps.map (fun p => s.needsAt core slot r p)).flatten
    let s1 := (s.countIssue core slot ps).report core slot 0 a
    let s2 := s1.modGroup core slot (fun g => (g.issued (s.core core).cycles e ma mb a).forgets needs)
    let s3 := s2.modCore core (fun k => k.useSlots (s.launchOfWg g.wg) ps.length)
    let ia : Issue := { core := core, slot := slot, path := 0, lanes := ma, pos := a }
    let ib : Issue := { core := core, slot := slot, path := 1, lanes := mb, pos := pb }
    { s3 with agenda := (.issue ia :: (if b.isSome then [.issue ib] else [])) ++ s3.agenda }

/-- R413: a line of 64 bytes at a VA is moved for a launch. -/
def State.movedFor (s : State) (l va : Nat) : State :=
  match s.walk (s.launch l).ctx va with
  | .ok pa _ => s.moved pa (some l) 64
  | _ => s

/-- R36, R48, R126, R347: what threads that only row 8 holds, at a position, set off: a line that is not translated parks them, one that the core
does not have is fetched, one that fails its parity is fetched once more, constants are fetched into the constant cache, each in a time that no
rule fixes (assumption log 5). -/
def State.fetchAhead (s : State) (core slot : Nat) (r : Rows) (p : Long) : State :=
  let m := maskOf ((r.filter (fun x => x.2.1 == p && x.2.2 == [8])).map (fun x => x.1))
  let g := s.group core slot
  let l := s.launchOfWg g.wg
  if m = 0 then s
  else
    let ent := (lanesOf m).any (fun k => (g.thread k).entering)
    match s.slotAt core slot p ent with
    | .absent => (s.asIf core slot m p).park (.lineRefetch core l (lineOf p)) (parkedOn ent p)
    | .missing => if s.lineComes core l (lineOf p) then s
      else ((s.movedFor l (lineOf p)).modCore core (fun c => { c with fetched := (l, lineOf p, c.cycles + 1 + Config.latency s.fresh) :: c.fetched })).tickFresh
    | .mismatch k _ => s.startRefetch core l (lineOf p) k
    | .present x (some i) _ =>
      if g.waits.any (fun w => w.iss.lanes &&& m ≠ 0) then s
      else (s.constLacks core slot p x i).eraseDups.foldl (fun s va => match s.walk (s.ctxOfWg g.wg) va with
        | .absent _ => (s.asIf core slot m p).park i (BitVec.ofNat 64 va)
        | _ => if (s.core core).consts.any (fun c => c.1 = l && c.2.1 = va) then s
          else ((s.movedFor l va).modCore core (fun c => { c with consts := ((l, va, c.cycles + 1 + Config.latency s.fresh) :: c.consts).take 1024 })).tickFresh) s
    | _ => s

/-- Table 08-3: the predicted wait of an access to a physical address: the word in the core's own L2 slice, as its home or, but for a store or an
atomic, which its home performs (R208, R224), as a replica; else at its home slice, or at its stack. -/
def State.accessWait (s : State) (core pa : Nat) (atHome : Bool) : Nat :=
  let own := Config.dieOfCore core
  let there (die : Nat) (replicas : Bool) : Bool :=
    (s.die die).l2.any (fun b => b.frame = frameOf pa && b.lo ≤ wordOf pa && wordOf pa ≤ b.hi && (replicas || !b.replica))
  if there own (!atHome) then 180
  else if homeDie pa = own then 480
  else if there (homeDie pa) false then 520 else 820

/-- Table 08-3: the predicted wait of an access by its number, as the caches stand: that of its farthest word (assumption log 43). -/
def State.accessOf (s : State) (core id : Nat) : Option Nat :=
  let msg (m : Msg) : Nat := match m.kind with
    | .round .. => 0
    | .stage .. => 0
    | _ => s.accessWait core m.pa true
  match tblFind s.pends id with
  | some p => some ((p.missing.map (fun x => s.accessWait core x.2 false) ++
      (s.msgs.filter (fun m => m.2.pend = some id)).map (fun m => msg m.2)).foldl max 0)
  | none => (tblFind s.msgs id).map msg

/-- R139, R140: the tokens that a group's threads wait for, in their next instruction (one whose counter is full among them, R20) or in waitt. -/
def State.waitedTokens (s : State) (core slot : Nat) : List Nat :=
  let g := s.group core slot
  let live := (List.range 32).filter (fun l => !(g.thread l).exited && l < g.threads.length)
  let waitsFor (x : Slot) : List Nat := (List.range 6).filterMap (fun k => if (slotHdr x).wait.getLsbD k then some (k + 1) else none) ++
    (if g.token (slotHdr x).tok.toNat ≥ 255 then [(slotHdr x).tok.toNat] else [])
  let next := (live.map (fun l => match s.slotAt core slot (g.thread l).pos (g.thread l).entering with
    | .present x .. => waitsFor x
    | .faulty (some x) => waitsFor x
    | .mismatch _ (some x) => waitsFor x
    | _ => [])).flatten
  let held := g.waits.filterMap (fun w => match w.cond with | .token k _ => some k | _ => none)
  (next ++ held).eraseDups

/-- R86: the threads of a group whose next instruction reads or writes sr.fpflags. -/
def State.flagReaders (s : State) (core slot : Nat) : BitVec 32 :=
  let g := s.group core slot
  maskOf ((List.range 32).filter (fun l => l < g.threads.length && !(g.thread l).exited && (match s.peek core slot (g.thread l).pos with
    | some (.rdsr _ f, _) => f.idx = 9
    | some (.wrsr _ f, _) => f.idx = 9
    | _ => false)))

/-- R128, R139: the outstanding operations that a group's row-7 waits and waited tokens stand for. -/
def State.waitedOps (s : State) (core slot : Nat) : List Nat :=
  let g := s.group core slot
  let toks := s.waitedTokens core slot
  let readers := s.flagReaders core slot
  let mine := s.pends.filter (fun p => p.2.core = core && p.2.slot = slot)
  let byTok := (mine.filter (fun p => toks.contains p.2.tok && p.2.tok ≠ 0)).map (fun p => p.1)
  let byFlags := (mine.filter (fun p => p.2.fpu && p.2.kind ≠ 4 && p.2.act &&& readers ≠ 0)).map (fun p => p.1)
  let byWait := (g.waits.map (fun w => match w.cond with
    | .gone ids _ => ids.filter s.outstanding
    | .hold id => [id]
    | _ => [])).flatten
  let begun := (g.waits.filter (fun w => w.iss.phase > 0 && toks.contains (headerOf w.instr).tok.toNat)).map Waiting.id
  byTok ++ byFlags ++ byWait ++ begun ++ g.xings.map Xing.id

/-- R139: the levels known as the last thread of a group becomes ineligible are kept until a thread is eligible again. -/
def State.noteLevels (s : State) (core slot : Nat) (idle : Bool) : State :=
  let g := s.group core slot
  if !idle then s.modGroup core slot (fun g => { g with levels := none, sunk := false })
  else if g.levels.isSome then s
  else
    let lv := (s.waitedOps core slot).foldl (fun (t : Tbl Nat) i => match s.accessOf core i with | some n => tblPut t i n | none => t) []
    s.modGroup core slot (fun g => { g with levels := some lv })

/-- R126, R127, R408: one group in a cycle: what it finds, what it reports, and, where it is ready, its rows and eligible threads. A group that
has been lowered reports reason 6 until it is eligible again, a halted one too (R31, R140; assumption log 43). -/
def State.lookAt (s : State) (core slot : Nat) : State × Option (Nat × Rows × List (Nat × Long)) :=
  let g := s.group core slot
  let r0 := s.groupRows core slot
  let r := s.fullRows core slot r0
  let e := r.eligible
  let lead := (mostHeld (r.map (fun x => x.2.1))).getD 0
  let s0 := (r.positions.foldl (fun s p => s.fetchAhead core slot r p) s).noteLevels core slot e.isEmpty
  let s1 := (s0.crossMasks core slot r0).askLeases core slot r0
  if e.isEmpty then (s1.report core slot (if g.sunk then 6 else r.reason) lead, none)
  else if s.paysDebt core slot then
    let s2 := (s1.report core slot 1 lead).modGroup core slot (fun g => { g with debt := g.debt - 16 })
    (s2.modCtx (s.ctxOfWg g.wg) (fun c => { c with trialHeld := c.trialHeld + 1 }), none)
  else (s1.report core slot 1 lead, some (slot, r0, e))

/-- R129: the ready group of greatest age, the lowest slot among equals. -/
def State.oldest (s : State) (core : Nat) (l : List (Nat × Rows × List (Nat × Long))) : Option (Nat × Rows × List (Nat × Long)) :=
  l.foldl (fun a x => match a with
    | none => some x
    | some b => if (s.group core x.1).age > (s.group core b.1).age then some x else some b) none

/-- A result in its place among those that became due earlier. -/
def insertDue (p : Nat × Pend) : List (Nat × Pend) → List (Nat × Pend)
  | [] => [p]
  | q :: r => if p.2.due < q.2.due then p :: q :: r else q :: insertDue p r

/-- R121: the traps of completed results that were due when their threads were waiting, in the order of completion. -/
def State.dueTraps (s : State) (core part : Nat) : State :=
  ((s.pends.filter (fun p => p.2.kind = 4 && p.2.core = core && p.2.slot % 128 / 32 = part)).foldl (fun l p => insertDue p l) []).foldl
    (fun s p => s.lateTraps p.1) s

/-- R412: what a core's launches occupy and run in a cycle: group-registers in the file, and running copies and matrix operations (assumption log 34, 40). -/
def State.meterCycle (s : State) (core : Nat) : State :=
  let occ := (s.groups.filter (fun p => p.1 / 128 = core)).foldl (fun (t : Tbl Nat) p =>
    let key := s.launchOfWg p.2.wg + 1
    tblPut t key (tblGet 0 t key + (if p.2.chest ≠ 1 then p.2.n else 0))) (s.core core).occupied
  let runs := ((s.copiesOn core).filter (fun c => c.2.2.st = 3)).map (fun c => c.1) ++ ((s.core core).mq.filter (fun o => o.running)).map (fun o => o.wg)
  s.modCore core (fun k => runs.foldl (fun k w => k.useSlots (s.launchOfWg w) 1) { k with occupied := occ })

/-- What the first partition of a core does for the whole core: steps that have ended, the counts as the cycle begins, the meters (assumption log 14). -/
def State.beginCycle (s : State) (core : Nat) : State :=
  let s1 := (s.stepStops core).meterCycle core
  { s1 with wgs := s1.wgs.map (fun (p : Nat × Workgroup) => if p.2.core = core then (p.1, { p.2 with rwcStart := p.2.rwc }) else p) }

/-- R126-R137: ISSUE_CYCLE: one cycle of a partition of a core. -/
def execIssueCycle (core part : Nat) (s : State) : Out :=
  let s0 := if part = 0 then s.beginCycle core else s
  let slots := s0.slotsOf core part
  let s1 := slots.foldl (fun s k => s.modGroup core k (fun g => g.moved (s.core core).cycles)) (s0.dueTraps core part)
  let (s2, ready) := slots.foldl (fun (a : State × List (Nat × Rows × List (Nat × Long))) k =>
    let x := a.1.lookAt core k
    match x.2 with
    | some y => (x.1, a.2 ++ [y])
    | none => (x.1, a.2)) (s1, [])
  let best := s2.oldest core ready
  let s3 := slots.foldl (fun s k => s.modGroup core k Group.cycle) s2
  let s4 := match best with
    | some (k, r, e) => (match (s3.group core k).pathA e with
      | some a => s3.issueGroup core k r e a
      | none => s3)
    | none => s3
  .next s4

/-- R126, R408: the end of a cycle of a core: debts rise by the issues of the cycle, and the groups whose threads have all exited leave. -/
def State.endCycle (s : State) (core : Nat) : State := (s.accrue core).leaveSlots core

/-! ### Lowering and raising (R139, R140) -/

/-- Table 08-3: the predicted wait of an operation of a group by its number: of an access, what was known as the group's last thread became
ineligible. -/
def State.opWait (s : State) (core slot id : Nat) : Nat :=
  match tblFind ((s.group core slot).levels.getD []) id with
  | some n => n
  | none =>
    match s.accessOf core id with
    | some n => n
    | none =>
      match (s.core core).mq.findIdx? (fun o => o.id = id) with
      | some j => 128 * (((s.core core).mq.take j).filter (fun o => o.kind = 0)).length + 128
      | none => if s.groups.any (fun g => g.2.xings.any (fun x => x.id = id)) then 480 else 0

/-- R139: a group may be lowered by choice (assumption log 43). -/
def State.mayLower (s : State) (core slot : Nat) : Bool :=
  let g := s.group core slot
  let r := s.groupRows core slot
  g.chest = 0 && g.n > 48 && !r.isEmpty && r.all (fun x => x.2.2.contains 7) &&
  (((s.waitedOps core slot).min?.map (fun i => s.opWait core slot i)).getD 0) > 400

/-- R139: a group begins to move into the chest, for N/8 cycles (assumption log 43). -/
def State.lower (s : State) (core slot : Nat) (forced : Bool) : State :=
  s.modGroup core slot (fun g => { g with chest := 3, sunk := true, forced := forced, entered := false, readySince := 0, raiseAt := (s.core core).cycles + g.n / 8 })

/-- R140: a lowered group stays lowered while it is halted. -/
def State.staysLowered (s : State) (core slot : Nat) : Bool :=
  let g := s.group core slot
  g.chest ≠ 1 || g.stopped || (s.wg g.wg).halt.isSome

/-- R140: a lowered group is ready to be raised: nothing of row 7 holds its threads, or it is lowered since it entered its slot. -/
def State.mayRaise (s : State) (core slot : Nat) : Bool :=
  !s.staysLowered core slot && ((s.group core slot).entered || (s.groupRows core slot).all (fun x => !x.2.2.contains 7))

/-- The slots of a core that hold a group. -/
def State.slotsOn (s : State) (core : Nat) : List Nat := (s.groups.filter (fun p => p.1 / 128 = core)).map (fun p => p.1 % 128)

/-- R15, R140: N group-registers of a core are free (assumption log 43). -/
def State.regsFree (s : State) (core n : Nat) : Bool := s.regsUsed core + n ≤ 6144

/-- R140: the resident group of smallest age that a predicate selects; of equal ages the lowest slot, a choice of the model (assumption log
43). -/
def State.youngest (s : State) (core : Nat) (f : Nat → Bool) : Option Nat :=
  ((s.slotsOn core).filter (fun k => (s.group core k).chest = 0 && f k)).foldl (fun a k => match a with
    | none => some k
    | some b => if (s.group core k).age < (s.group core b).age then some k else some b) none

/-- R140: a group ready to be raised finds no registers free. -/
def State.raiseBlocked (s : State) (core : Nat) : Bool :=
  (s.slotsOn core).any (fun k => s.mayRaise core k && !s.regsFree core (s.group core k).n) &&
  !(s.slotsOn core).any (fun k => (s.group core k).chest = 3)

/-- R139: GROUP_LOWER (assumption log 43). -/
def execGroupLower (core slot : Nat) (s : State) : Out := .next (if s.mayLower core slot then s.lower core slot false else s)

/-- R140: whether a group begins to be raised: N registers are free, and it is ready to be raised, or was lowered by force and no group lowered
by choice, or lowered as it entered its slot (assumption log 43), is ready. -/
def State.raises (s : State) (core slot : Nat) : Bool :=
  let g := s.group core slot
  s.regsFree core g.n &&
  (if g.forced then !s.staysLowered core slot && !(s.slotsOn core).any (fun k => !(s.group core k).forced && s.mayRaise core k)
    else s.mayRaise core slot)

/-- R140: GROUP_RAISE. -/
def execGroupRaise (core slot : Nat) (s : State) : Out :=
  .next (if s.raises core slot then
    s.modGroup core slot (fun g => { g with chest := 2, readySince := 0, raiseAt := (s.core core).cycles + g.n / 8 })
  else s)

/-- R140: FORCED_LOWER: a group that has been ready to be raised for 2048 cycles, without registers and without a resident group that R139 lets
go, makes the youngest resident group leave; it does so again every 2048 cycles (assumption log 43). -/
def execForcedLower (core : Nat) (s : State) : Out :=
  let now := (s.core core).cycles
  let blocked (s : State) (k : Nat) : Bool :=
    s.mayRaise core k && !s.regsFree core (s.group core k).n && (s.youngest core (fun j => s.mayLower core j)).isNone
  let s1 := (s.slotsOn core).foldl (fun s k => s.modGroup core k (fun g =>
    { g with readySince := if !blocked s k then 0 else if g.readySince = 0 then now + 1 else g.readySince })) s
  let due := (s1.slotsOn core).any (fun k => (s1.group core k).readySince ≠ 0 && now ≥ (s1.group core k).readySince - 1 + 2048)
  .next (
    if !due then s1
    else match s1.youngest core (fun _ => true) with
      | none => s1
      | some k =>
        (s1.slotsOn core).foldl (fun s j => s.modGroup core j (fun g => { g with readySince := if g.readySince = 0 then 0 else now + 1 })) (s1.lower core k true))

end Sys2Proof.Machine
end

