-- ==== Sys2Proof/Machine/Schedule.lean ====
section
/-! DEFINITION. Which agent moves next (assumption log 3): the time base and the core clocks (R10, R181, R437), the events a tick lays out, and
the meaning of the scheduler's own events. -/

namespace Sys2Proof.Machine

/-! ### Time (R10, R181, R437) -/

/-- The cores that something happens on. -/
def State.liveCores (s : State) : List Nat :=
  (s.cores.map (fun (c : Nat × Core) => c.1) ++ s.groups.map (fun (g : Nat × Group) => g.1 / 128) ++ s.timers.filterMap (fun (t : Timer) => if t.clk = 0 then none else some (t.clk - 1))).eraseDups

/-- R10, R437: a core's clock runs at its point's frequency beside the time base of 1100 MHz, and stands still while the point changes. -/
def State.advanceCore (s : State) (core : Nat) : State :=
  let k := s.core core
  if s.tick < k.stopped then s.setCore core { k with ran := false }
  else
    let ph := k.phase + Config.frequencyMHz k.point
    s.setCore core (if ph ≥ 1100 then { k with phase := ph - 1100, cycles := k.cycles + 1, ran := true, landed := [] } else { k with phase := ph, ran := false })

/-- R401: a core writes what its trace queue holds when it can: a free choice in each tick (assumption log 4). -/
def State.drainSome (s : State) (core : Nat) : State :=
  match (s.core core).trace with
  | some t => if t.queue.isEmpty then s else if Config.freeBool s.fresh then s.tickFresh.drainTrace core else s.tickFresh
  | none => s

/-- R350: a codeword found uncorrectable where nothing consumes it: moved as it is, and recorded (assumption log 46). -/
def State.foundBad (s : State) (k : Nat) : State :=
  match s.bad[k]? with
  | some b => s.machineCheck b.unit 0 b.index b.loc 0xFFFF
  | none => s

/-- R349, R350: soft errors are a free choice in each tick: one corrected where it is read, one found where nothing consumes it, one that
makes a codeword uncorrectable (assumption log 46). One corrected in a stack falls on a bit of a codeword of some bus (R425). -/
def State.softError (s : State) : State :=
  let v := s.anyValue.toNat
  let s1 := match Config.corrected s.fresh with
    | some u => if u % 13 = 6 then s.correctAt (v % 12) (v / 2 ^ 8 % 34) (v / 2 ^ 16 % 16) (v / 2 ^ 24 % 64) else s.corrects (u % 13 + 1) 1
    | none => s
  let s2 := match Config.found s.fresh with | some k => s1.foundBad k | none => s1
  match Config.upset s.fresh with
  | some (u, i, l) => { s2.tickFresh with bad := ⟨u, i, l⟩ :: s2.bad }
  | none => s2.tickFresh

/-- R181: TIME_BASE_TICK. -/
def execTimeBaseTick (s : State) : Out :=
  let s1 := { s.softError with tick := s.tick + 1 }
  let cs := s.liveCores
  .next (cs.foldl (fun s c => ((s.advanceCore c).seeGroups c).drainSome c) s1)

/-! ### The scheduler's own events -/

/-- A reading of a sensor or a meter, a free value (assumption log 4). -/
def State.reading (s : State) (n : Nat) : Nat := s.anyValue.toNat % n

/-- The meaning of the scheduler's own events (assumption log 3). -/
def Poll.run (p : Poll) (s : State) : Out :=
  match p with
  | .timeBaseTick => execTimeBaseTick s
  | .resolve core part => .next (s.resolvePart core part)
  | .issueCycle core part => execIssueCycle core part s
  | .slotLeave core => .next (s.endCycle core)
  | .lecternAnnounce die => execLecternAnnounce die s
  | .launchStart launch => execLaunchStart launch s
  | .teamPlace launch => execTeamPlace launch s
  | .workgroupComplete wg => execWorkgroupComplete wg s
  | .launchComplete launch => execLaunchComplete launch s
  | .workgroupSettle wg => execWorkgroupSettle wg s
  | .mmaStart core => execMmaStart core s
  | .copyMove core => .next (s.moveCopies core)
  | .groupLower core slot => execGroupLower core slot s
  | .groupRaise core slot => execGroupRaise core slot s
  | .forcedLower core => execForcedLower core s
  | .workgroupResume wg => execWorkgroupResume wg s
  | .urgentPreempt die => execUrgentPreempt die s
  | .switchComplete die => execSwitchComplete die s
  | .energyClose kind n => .next (s.closeRead kind n)
  | .powerLimit => execPowerLimitStep s.modulePower s
  | .powerRecovery => execPowerRecoveryStep s.modulePower s
  | .thermal column => execThermalAction column (s.reading 256) s.tickFresh
  | .wear die column => execWearPrediction die column (s.reading (2 ^ 32)) s.tickFresh

/-! ### What a tick lays out -/

/-- An event that has come due: at its tick, or at its cycle of its core. -/
def State.isDue (s : State) (t : Timer) : Bool := if t.clk = 0 then decide (t.due ≤ s.tick) else decide (t.due ≤ (s.core (t.clk - 1)).cycles)

/-- A list where a condition holds. -/
def whenever (b : Bool) (l : List Act) : List Act := if b then l else []

/-- R178-R180: what is due for launches. -/
def State.launchActs (s : State) : List Act :=
  (s.launches.map (fun p =>
    whenever (p.2.phase = 0) [.poll (.launchStart p.1)] ++ whenever (p.2.phase = 1 && (s.nextTeamOf p.1).isSome) [.poll (.teamPlace p.1)] ++
    whenever (s.launchDone p.1 || p.2.closing.isSome) [.poll (.launchComplete p.1)])).flatten

/-- R146, R337, R358, R392: what is due for workgroups. -/
def State.wgActs (s : State) : List Act :=
  (s.wgs.map (fun p =>
    whenever (!s.groups.any (fun g => g.2.wg = p.1)) [.poll (.workgroupComplete p.1)] ++ whenever (s.mayDeclareSettled p.1) [.poll (.workgroupSettle p.1)] ++
    whenever (s.mustPark p.1) [.event (.workgroupPark p.1)] ++ whenever (p.2.phase = 1) [.poll (.workgroupResume p.1)] ++
    whenever (s.checkpointDue p.1) [.event (.checkpoint p.1)])).flatten

/-- R276: the leases of the contexts resident on a core that ask for numbers. -/
def State.leaseActs (s : State) : List Act :=
  let res := ((s.wgs.filter (fun p => p.2.phase = 0 && !s.replaying p.1)).map (fun p => (p.2.core, s.ctxOfWg p.1))).eraseDups
  (res.map (fun p => ((List.range 12).filter (fun h =>
    let l := s.lease p.1 p.2 h
    l.nums.length < 32 && l.asked = 0 && !l.refused)).map (fun h => Act.event (.leaseRequest p.1 p.2 h)))).flatten

/-- R139, R140, R320: what is due on a core beside issuing: the matrix engine, raising and lowering. Groups are raised in ascending order of
slots; one that R139 lets go is lowered where a raise needs its registers, and otherwise by a free choice. Several groups of a core may move at
once, each in N/8 cycles: the spec does not say that moves wait for each other (assumption log 43). -/
def State.coreActs (s : State) (core : Nat) : List Act :=
  let gs := s.slotsOn core
  let low := s.raiseBlocked core
  whenever ((s.nextOp core).isSome) [.poll (.mmaStart core)] ++
  (gs.filter (fun k => s.raises core k)).map (fun k => .poll (.groupRaise core k)) ++
  whenever (gs.any (fun k => (s.group core k).chest = 1)) [.poll (.forcedLower core)] ++
  (if low then (match s.youngest core (fun k => s.mayLower core k) with | some k => [.poll (.groupLower core k)] | none => [])
    else (gs.filter (fun k => s.mayLower core k && Config.freeBool (s.fresh * 2 ^ 40 + core * 128 + k))).map (fun k => .poll (.groupLower core k)))

/-- R355-R357: what is due on a die. -/
def State.dieActs (s : State) (die : Nat) : List Act :=
  let x := (s.die die).sched
  let ready := (s.urgentReady die).isSome || (s.nextReady die false x.entry).isSome
  whenever ((s.urgentDue die).isSome) [.poll (.urgentPreempt die)] ++
  whenever (if x.ctx = 64 then ready else x.draining && s.drained die) [.poll (.switchComplete die)] ++
  whenever (x.ctx ≠ 64 && !x.draining && !s.hasWork die x.ctx && ready) [.event (.sliceExpiry die)]

/-- R424: the physical addresses of accesses under way: fills, writes and atomics, elements of ld.p, code lines and constants. -/
def State.demandPAs (s : State) : List Nat :=
  let lines := (s.cores.map (fun (c : Nat × Core) => (c.2.fetched ++ c.2.consts).filter (fun x => x.2.2 > c.2.cycles))).flatten
  s.fills.map (fun f => f.2.frame * 256) ++ s.msgs.map (fun m => m.2.pa) ++ s.homeOps.filterMap (fun o => o.2.elem) ++
  lines.filterMap (fun x => match s.walk (s.launch x.1).ctx x.2.1 with | .ok pa _ => some pa | _ => none)

/-- R423, R430: what is due at a stack. -/
def State.stackActs (s : State) (stack : Nat) : List Act :=
  let h := s.home stack
  whenever (match h.testBus with | some _ => decide (s.tick ≥ h.testEnd) | none => s.tick % 1100000 = 0) [.event (.backgroundTestPass stack)] ++
  whenever (match h.rotTicks with | some n => s.tick % n = 0 | none => false) [.event (.rotationInterval stack)]

/-- R412, R439-R441: what firmware and the meters do at fixed times (assumption log 41). -/
def State.meterActs (s : State) : List Act :=
  whenever (s.tick % 4096 = 0) ((List.range 320).map (fun n => .poll (.energyClose 0 n)) ++ (List.range 176).map (fun n => .poll (.energyClose 1 n)) ++
    (List.range 12).map (fun n => .poll (.energyClose 2 n)) ++ (List.range 12).map (fun n => .poll (.energyClose 3 n))) ++
  whenever (s.tick % 110000 = 0) ((List.range 496).map (fun n => .poll (.thermal n))) ++
  whenever (s.tick % 1100000 = 0) [.poll .powerLimit] ++ whenever (s.tick % 11000000 = 0) [.poll .powerRecovery] ++
  whenever (s.tick % 3960000000000 = 0) ((List.range 496).map (fun n => .poll (.wear (n / 124) (n % 124))))

/-- R399, R401: the trace packets that are due (assumption log 34). -/
def State.traceActs (s : State) : List Act :=
  (s.cores.map (fun c => match c.2.trace with
    | some t => whenever (t.on && s.tick % 65536 = 0) [.event (.traceTimePacket c.1)] ++ whenever (t.on && t.drop > 0) [.event (.traceLostPacket c.1)]
    | none => [])).flatten

/-- A kick page in its place among those taken earlier. -/
def insertKick (k : Nat × Kick) : List (Nat × Kick) → List (Nat × Kick)
  | [] => [k]
  | j :: r => if k.2.taken < j.2.taken then k :: j :: r else j :: insertKick k r

/-- R374: the commands under way go on, in the order they were taken. -/
def State.kickActs (s : State) : List Act :=
  ((s.kicks.filter (fun k => k.2.running)).foldl (fun l k => insertKick k l) []).map (fun k => Act.command k.1)

/-- R126-R137, R302, R309, R404: the cycle of a core whose clock has run: its copy engine; partition by partition the waits that end and the
issues; the samplers, which see the groups as they issued; and the groups that leave (assumption log 14). -/
def State.cycleActs (s : State) (core : Nat) : List Act :=
  whenever ((s.copiesOn core).any (fun c => c.2.2.st = 3)) [.poll (.copyMove core)] ++
  ((List.range 4).map (fun q => [Act.poll (.resolve core q), .poll (.issueCycle core q)])).flatten ++
  whenever ((s.core core).samplers.any (fun p => p.2.on && p.2.started && p.2.next ≤ (s.core core).cycles)) [.event (.sampleTick core)] ++ [.poll (.slotLeave core)]

/-- R264: the arrival of a round, which comes before everything else of its tick. -/
def Timer.isRound (t : Timer) : Bool := match t.ev with | .roundAnnouncementArrival .. => true | _ => false

/-- The agenda of a tick: the events that are due, the arrivals of rounds first, then what conditions bring about, then the cycles of the cores
that ran, and last the lectern ports, which announce what has come to them in the tick (assumption log 3, 47). -/
def State.plan (s : State) : State :=
  let all := s.timers.filter s.isDue
  let due := all.filter Timer.isRound ++ all.filter (fun t => !t.isRound)
  let cs := s.liveCores
  { s with
    timers := s.timers.filter (fun (t : Timer) => !s.isDue t)
    agenda := due.map (fun (t : Timer) => Act.event t.ev) ++ s.launchActs ++ s.wgActs ++ s.leaseActs ++ (cs.map s.coreActs).flatten ++
      ((List.range 4).map s.dieActs).flatten ++ ((List.range 12).map s.stackActs).flatten ++ (s.demandEvents s.demandPAs).map Act.event ++ s.meterActs ++ s.traceActs ++ s.kickActs ++
      ((cs.filter (fun c => (s.core c).ran)).map s.cycleActs).flatten ++ (List.range 4).map (fun d => Act.poll (.lecternAnnounce d)) ++
      s.agenda }.tickFresh

/-- The agenda of the next tick (assumption log 3). -/
def State.schedule (s : State) : State := { s with agenda := [.poll .timeBaseTick, .plan] }

end Sys2Proof.Machine
end

