-- ==== Sys2Proof/Machine/Dispatch.lean ====
section
/-! DEFINITION. Which meaning each instruction has: one arm a constructor, each one direct call. -/

namespace Sys2Proof.Machine

open Sys2Proof

def exec (i : Instr) (s : State) : Host.Outcome State Fault Refusal :=
  match i with
  | .add h f => Sys2Proof.Machine.execAdd h f s
  | .addImm h f => Sys2Proof.Machine.execAddImm h f s
  | .sub h f => Sys2Proof.Machine.execSub h f s
  | .subImm h f => Sys2Proof.Machine.execSubImm h f s
  | .addc h f => Sys2Proof.Machine.execAddc h f s
  | .subc h f => Sys2Proof.Machine.execSubc h f s
  | .mulLo h f => Sys2Proof.Machine.execMulLo h f s
  | .mulLoImm h f => Sys2Proof.Machine.execMulLoImm h f s
  | .mulHi h f => Sys2Proof.Machine.execMulHi h f s
  | .mulHiImm h f => Sys2Proof.Machine.execMulHiImm h f s
  | .mulWide h f => Sys2Proof.Machine.execMulWide h f s
  | .mulWideImm h f => Sys2Proof.Machine.execMulWideImm h f s
  | .mad h f => Sys2Proof.Machine.execMad h f s
  | .madWide h f => Sys2Proof.Machine.execMadWide h f s
  | .minI h f => Sys2Proof.Machine.execMinI h f s
  | .minImm h f => Sys2Proof.Machine.execMinImm h f s
  | .maxI h f => Sys2Proof.Machine.execMaxI h f s
  | .maxImm h f => Sys2Proof.Machine.execMaxImm h f s
  | .abs h f => Sys2Proof.Machine.execAbs h f s
  | .neg h f => Sys2Proof.Machine.execNeg h f s
  | .absdiff h f => Sys2Proof.Machine.execAbsdiff h f s
  | .sad h f => Sys2Proof.Machine.execSad h f s
  | .dp4 h f => Sys2Proof.Machine.execDp4 h f s
  | .dp2 h f => Sys2Proof.Machine.execDp2 h f s
  | .lea h f => Sys2Proof.Machine.execLea h f s
  | .leaImm h f => Sys2Proof.Machine.execLeaImm h f s
  | .add64 h f => Sys2Proof.Machine.execAdd64 h f s
  | .sub64 h f => Sys2Proof.Machine.execSub64 h f s
  | .andB h f => Sys2Proof.Machine.execAndB h f s
  | .andImm h f => Sys2Proof.Machine.execAndImm h f s
  | .orB h f => Sys2Proof.Machine.execOrB h f s
  | .orImm h f => Sys2Proof.Machine.execOrImm h f s
  | .xorB h f => Sys2Proof.Machine.execXorB h f s
  | .xorImm h f => Sys2Proof.Machine.execXorImm h f s
  | .notB h f => Sys2Proof.Machine.execNotB h f s
  | .lop3 h f => Sys2Proof.Machine.execLop3 h f s
  | .shl h f => Sys2Proof.Machine.execShl h f s
  | .shlImm h f => Sys2Proof.Machine.execShlImm h f s
  | .shr h f => Sys2Proof.Machine.execShr h f s
  | .shrImm h f => Sys2Proof.Machine.execShrImm h f s
  | .sar h f => Sys2Proof.Machine.execSar h f s
  | .sarImm h f => Sys2Proof.Machine.execSarImm h f s
  | .rot h f => Sys2Proof.Machine.execRot h f s
  | .rotImm h f => Sys2Proof.Machine.execRotImm h f s
  | .shfL h f => Sys2Proof.Machine.execShfL h f s
  | .shfR h f => Sys2Proof.Machine.execShfR h f s
  | .bfe h f => Sys2Proof.Machine.execBfe h f s
  | .bfi h f => Sys2Proof.Machine.execBfi h f s
  | .brev h f => Sys2Proof.Machine.execBrev h f s
  | .popc h f => Sys2Proof.Machine.execPopc h f s
  | .clz h f => Sys2Proof.Machine.execClz h f s
  | .ctz h f => Sys2Proof.Machine.execCtz h f s
  | .prmt h f => Sys2Proof.Machine.execPrmt h f s
  | .sel h f => Sys2Proof.Machine.execSel h f s
  | .cmp h v f => Sys2Proof.Machine.execCmp h v f s
  | .cmpImm h v f => Sys2Proof.Machine.execCmpImm h v f s
  | .setc h v f => Sys2Proof.Machine.execSetc h v f s
  | .setcImm h v f => Sys2Proof.Machine.execSetcImm h v f s
  | .mov h f => Sys2Proof.Machine.execMov h f s
  | .movImm h f => Sys2Proof.Machine.execMovImm h f s
  | .fadd h f => Sys2Proof.Machine.execFadd h f s
  | .fsub h f => Sys2Proof.Machine.execFsub h f s
  | .fmul h f => Sys2Proof.Machine.execFmul h f s
  | .ffma h f => Sys2Proof.Machine.execFfma h f s
  | .fmin h f => Sys2Proof.Machine.execFmin h f s
  | .fmax h f => Sys2Proof.Machine.execFmax h f s
  | .fcmp h v f => Sys2Proof.Machine.execFcmp h v f s
  | .fclass h f => Sys2Proof.Machine.execFclass h f s
  | .frint h f => Sys2Proof.Machine.execFrint h f s
  | .ffrac h f => Sys2Proof.Machine.execFfrac h f s
  | .fscale h f => Sys2Proof.Machine.execFscale h f s
  | .fgetexp h f => Sys2Proof.Machine.execFgetexp h f s
  | .dadd h f => Sys2Proof.Machine.execDadd h f s
  | .dmul h f => Sys2Proof.Machine.execDmul h f s
  | .dfma h f => Sys2Proof.Machine.execDfma h f s
  | .hadd2 h f => Sys2Proof.Machine.execHadd2 h f s
  | .hmul2 h f => Sys2Proof.Machine.execHmul2 h f s
  | .hfma2 h f => Sys2Proof.Machine.execHfma2 h f s
  | .bfadd2 h f => Sys2Proof.Machine.execBfadd2 h f s
  | .bfma2 h f => Sys2Proof.Machine.execBfma2 h f s
  | .cvt h v f => Sys2Proof.Machine.execCvt h v f s
  | .cvtSr h v f => Sys2Proof.Machine.execCvtSr h v f s
  | .pk4 h f => Sys2Proof.Machine.execPk4 h f s
  | .upk4 h f => Sys2Proof.Machine.execUpk4 h f s
  | .frcp h f => Sys2Proof.Machine.execFrcp h f s
  | .frsq h f => Sys2Proof.Machine.execFrsq h f s
  | .fsqrt h f => Sys2Proof.Machine.execFsqrt h f s
  | .fsin h f => Sys2Proof.Machine.execFsin h f s
  | .fcos h f => Sys2Proof.Machine.execFcos h f s
  | .fex2 h f => Sys2Proof.Machine.execFex2 h f s
  | .flg2 h f => Sys2Proof.Machine.execFlg2 h f s
  | .ftanh h f => Sys2Proof.Machine.execFtanh h f s
  | .specialFunctionCompletion id => Sys2Proof.Machine.execSpecialFunctionCompletion id s
  | .ld h f => Sys2Proof.Machine.execLd h f s
  | .st h f => Sys2Proof.Machine.execSt h f s
  | .ldB h f => Sys2Proof.Machine.execLdB h f s
  | .ldAcq h f => Sys2Proof.Machine.execLdAcq h f s
  | .stRel h f => Sys2Proof.Machine.execStRel h f s
  | .ldsp h f => Sys2Proof.Machine.execLdsp h f s
  | .stsp h f => Sys2Proof.Machine.execStsp h f s
  | .ldcl h f => Sys2Proof.Machine.execLdcl h f s
  | .stcl h f => Sys2Proof.Machine.execStcl h f s
  | .ldds h f => Sys2Proof.Machine.execLdds h f s
  | .stds h f => Sys2Proof.Machine.execStds h f s
  | .ldlp h f => Sys2Proof.Machine.execLdlp h f s
  | .stlp h f => Sys2Proof.Machine.execStlp h f s
  | .ldc h f => Sys2Proof.Machine.execLdc h f s
  | .atom h v f => Sys2Proof.Machine.execAtom h v f s
  | .red h v f => Sys2Proof.Machine.execRed h v f s
  | .fenceAcq h f => Sys2Proof.Machine.execFenceAcq h f s
  | .fenceRel h f => Sys2Proof.Machine.execFenceRel h f s
  | .fenceAr h f => Sys2Proof.Machine.execFenceAr h f s
  | .cwb h f => Sys2Proof.Machine.execCwb h f s
  | .cinv h f => Sys2Proof.Machine.execCinv h f s
  | .cpf h f => Sys2Proof.Machine.execCpf h f s
  | .rndAdv h f => Sys2Proof.Machine.execRndAdv h f s
  | .rndGet h f => Sys2Proof.Machine.execRndGet h f s
  | .pub h f => Sys2Proof.Machine.execPub h f s
  | .nop h f => Sys2Proof.Machine.execNop h f s
  | .bra h f => Sys2Proof.Machine.execBra h f s
  | .brx h f => Sys2Proof.Machine.execBrx h f s
  | .brz h f => Sys2Proof.Machine.execBrz h f s
  | .brnz h f => Sys2Proof.Machine.execBrnz h f s
  | .call h f => Sys2Proof.Machine.execCall h f s
  | .callx h f => Sys2Proof.Machine.execCallx h f s
  | .ret h f => Sys2Proof.Machine.execRet h f s
  | .exitI h f => Sys2Proof.Machine.execExitI h f s
  | .yield h f => Sys2Proof.Machine.execYield h f s
  | .yieldTimeout core slot id => Sys2Proof.Machine.execYieldTimeout core slot id s
  | .bar h f => Sys2Proof.Machine.execBar h f s
  | .barrierComplete wg k => Sys2Proof.Machine.execBarrierComplete wg k s
  | .bart h f => Sys2Proof.Machine.execBart h f s
  | .bartRelease set t => Sys2Proof.Machine.execBartRelease set t s
  | .waitt h f => Sys2Proof.Machine.execWaitt h f s
  | .trapI h f => Sys2Proof.Machine.execTrapI h f s
  | .rti h f => Sys2Proof.Machine.execRti h f s
  | .elect h f => Sys2Proof.Machine.execElect h f s
  | .pset h f => Sys2Proof.Machine.execPset h f s
  | .pand h f => Sys2Proof.Machine.execPand h f s
  | .por h f => Sys2Proof.Machine.execPor h f s
  | .pxor h f => Sys2Proof.Machine.execPxor h f s
  | .pnot h f => Sys2Proof.Machine.execPnot h f s
  | .voteAll h f => Sys2Proof.Machine.execVoteAll h f s
  | .voteAny h f => Sys2Proof.Machine.execVoteAny h f s
  | .voteEq h f => Sys2Proof.Machine.execVoteEq h f s
  | .ballot h f => Sys2Proof.Machine.execBallot h f s
  | .shfl h v f => Sys2Proof.Machine.execShfl h v f s
  | .xchg h f => Sys2Proof.Machine.execXchg h f s
  | .redux h v f => Sys2Proof.Machine.execRedux h v f s
  | .matchAny h f => Sys2Proof.Machine.execMatchAny h f s
  | .matchAll h f => Sys2Proof.Machine.execMatchAll h f s
  | .gsync h f => Sys2Proof.Machine.execGsync h f s
  | .groupWideCompletion id => Sys2Proof.Machine.execGroupWideCompletion id s
  | .cpySlice h f => Sys2Proof.Machine.execCpySlice h f s
  | .copyStart wg k => Sys2Proof.Machine.execCopyStart wg k s
  | .copyComplete wg k => Sys2Proof.Machine.execCopyComplete wg k s
  | .cpyWait h f => Sys2Proof.Machine.execCpyWait h f s
  | .ringInit h f => Sys2Proof.Machine.execRingInit h f s
  | .ringPop h f => Sys2Proof.Machine.execRingPop h f s
  | .ringRel h f => Sys2Proof.Machine.execRingRel h f s
  | .bufWait h f => Sys2Proof.Machine.execBufWait h f s
  | .bufSet h f => Sys2Proof.Machine.execBufSet h f s
  | .opmClaim h f => Sys2Proof.Machine.execOpmClaim h f s
  | .opmRel h f => Sys2Proof.Machine.execOpmRel h f s
  | .mma h f => Sys2Proof.Machine.execMma h f s
  | .mmaAccept core slot id => Sys2Proof.Machine.execMmaAccept core slot id s
  | .mmaStart core => Sys2Proof.Machine.execMmaStart core s
  | .mmaComplete core => Sys2Proof.Machine.execMmaComplete core s
  | .mmaWait h f => Sys2Proof.Machine.execMmaWait h f s
  | .accLd h f => Sys2Proof.Machine.execAccLd h f s
  | .accClr h f => Sys2Proof.Machine.execAccClr h f s
  | .amSend h f => Sys2Proof.Machine.execAmSend h f s
  | .amPacketRetry id => Sys2Proof.Machine.execAmPacketRetry id s
  | .amDone h f => Sys2Proof.Machine.execAmDone h f s
  | .handlerSpawn core launch => Sys2Proof.Machine.execHandlerSpawn core launch s
  | .ldP h f => Sys2Proof.Machine.execLdP h f s
  | .mat h f => Sys2Proof.Machine.execMat h f s
  | .pxrel h f => Sys2Proof.Machine.execPxrel h f s
  | .pxq h f => Sys2Proof.Machine.execPxq h f s
  | .pxlease h f => Sys2Proof.Machine.execPxlease h f s
  | .pxleaseRet h f => Sys2Proof.Machine.execPxleaseRet h f s
  | .crossingReturn core slot id k => Sys2Proof.Machine.execCrossingReturn core slot id k s
  | .homeOperationExecute id => Sys2Proof.Machine.execHomeOperationExecute id s
  | .leaseRequest core ctx home => Sys2Proof.Machine.execLeaseRequest core ctx home s
  | .leaseGrant core ctx home => Sys2Proof.Machine.execLeaseGrant core ctx home s
  | .leaseRefuse core ctx home => Sys2Proof.Machine.execLeaseRefuse core ctx home s
  | .releaseBatchSend core home => Sys2Proof.Machine.execReleaseBatchSend core home s
  | .slotFree home slot => Sys2Proof.Machine.execSlotFree home slot s
  | .rdsr h f => Sys2Proof.Machine.execRdsr h f s
  | .wrsr h f => Sys2Proof.Machine.execWrsr h f s
  | .launch h f => Sys2Proof.Machine.execLaunch h f s
  | .launchAt h f => Sys2Proof.Machine.execLaunchAt h f s
  | .launchAccept id => Sys2Proof.Machine.execLaunchAccept id s
  | .launchStart launch => Sys2Proof.Machine.execLaunchStart launch s
  | .teamPlace launch => Sys2Proof.Machine.execTeamPlace launch s
  | .timedLaunchRelease launch => Sys2Proof.Machine.execTimedLaunchRelease launch s
  | .workgroupComplete wg => Sys2Proof.Machine.execWorkgroupComplete wg s
  | .launchComplete launch => Sys2Proof.Machine.execLaunchComplete launch s
  | .brk h f => Sys2Proof.Machine.execBrk h f s
  | .haltI h f => Sys2Proof.Machine.execHaltI h f s
  | .rfe h f => Sys2Proof.Machine.execRfe h f s
  | .prog h f => Sys2Proof.Machine.execProg h f s
  | .tmark h f => Sys2Proof.Machine.execTmark h f s
  | .vbtQuiesce h f => Sys2Proof.Machine.execVbtQuiesce h f s
  | .vbtDriveWalk h f => Sys2Proof.Machine.execVbtDriveWalk h f s
  | .vbtDriveFlat h f => Sys2Proof.Machine.execVbtDriveFlat h f s
  | .vbtSample h f => Sys2Proof.Machine.execVbtSample h f s
  | .vbtRepGrp h f => Sys2Proof.Machine.execVbtRepGrp h f s
  | .vbtRepRot h f => Sys2Proof.Machine.execVbtRepRot h f s
  | .vbtRetire h f => Sys2Proof.Machine.execVbtRetire h f s
  | .vbtResume h f => Sys2Proof.Machine.execVbtResume h f s
  | .issueCycle core part => Sys2Proof.Machine.execIssueCycle core part s
  | .lineRefetch core launch line => Sys2Proof.Machine.execLineRefetch core launch line s
  | .fixedLatencyWrite id => Sys2Proof.Machine.execFixedLatencyWrite id s
  | .loadCompletion id => Sys2Proof.Machine.execLoadCompletion id s
  | .fillArrival id => Sys2Proof.Machine.execFillArrival id s
  | .storePerformedAtHome id => Sys2Proof.Machine.execStorePerformedAtHome id s
  | .invalidationApply core => Sys2Proof.Machine.execInvalidationApply core s
  | .readMostlyCollapse id => Sys2Proof.Machine.execReadMostlyCollapse id s
  | .gatherFlush die frame => Sys2Proof.Machine.execGatherFlush die frame s
  | .gatherIdleFlush die frame => Sys2Proof.Machine.execGatherIdleFlush die frame s
  | .settleEscape settle => Sys2Proof.Machine.execSettleEscape settle s
  | .timeBaseTick => Sys2Proof.Machine.execTimeBaseTick s
  | .lecternAnnounce die => Sys2Proof.Machine.execLecternAnnounce die s
  | .roundAnnouncementArrival ctx slot round => Sys2Proof.Machine.execRoundAnnouncementArrival ctx slot round s
  | .groupLower core slot => Sys2Proof.Machine.execGroupLower core slot s
  | .groupRaise core slot => Sys2Proof.Machine.execGroupRaise core slot s
  | .forcedLower core => Sys2Proof.Machine.execForcedLower core s
  | .haltDelivery wg part => Sys2Proof.Machine.execHaltDelivery wg part s
  | .asyncFaultArrival wg code lane pos tvalue => Sys2Proof.Machine.execAsyncFaultArrival wg code lane pos tvalue s
  | .launchHaltArrival launch core => Sys2Proof.Machine.execLaunchHaltArrival launch core s
  | .workgroupSettle wg => Sys2Proof.Machine.execWorkgroupSettle wg s
  | .pageFaultResolve core slot id => Sys2Proof.Machine.execPageFaultResolve core slot id s
  | .pageFaultTimeout core slot id => Sys2Proof.Machine.execPageFaultTimeout core slot id s
  | .sliceExpiry die => Sys2Proof.Machine.execSliceExpiry die s
  | .urgentPreempt die => Sys2Proof.Machine.execUrgentPreempt die s
  | .switchComplete die => Sys2Proof.Machine.execSwitchComplete die s
  | .workgroupPark wg => Sys2Proof.Machine.execWorkgroupPark wg s
  | .workgroupResume wg => Sys2Proof.Machine.execWorkgroupResume wg s
  | .preemptionLimitExpiry die => Sys2Proof.Machine.execPreemptionLimitExpiry die s
  | .forcedReset ctx reason => Sys2Proof.Machine.execForcedReset ctx reason s
  | .checkpoint wg => Sys2Proof.Machine.execCheckpoint wg s
  | .traceTimePacket core => Sys2Proof.Machine.execTraceTimePacket core s
  | .traceLostPacket core => Sys2Proof.Machine.execTraceLostPacket core s
  | .sampleTick core => Sys2Proof.Machine.execSampleTick core s
  | .trialEnd ctx => Sys2Proof.Machine.execTrialEnd ctx s
  | .energyIntervalClose kind column dynamic leakage => Sys2Proof.Machine.execEnergyIntervalClose kind column dynamic leakage s
  | .backgroundTestPass stack => Sys2Proof.Machine.execBackgroundTestPass stack s
  | .demandPreemptTest stack bus => Sys2Proof.Machine.execDemandPreemptTest stack bus s
  | .persistentErrorRepair stack bus conn => Sys2Proof.Machine.execPersistentErrorRepair stack bus conn s
  | .doubleError stack bus pa wg conns => Sys2Proof.Machine.execDoubleError stack bus pa wg conns s
  | .busRetire stack bus => Sys2Proof.Machine.execBusRetire stack bus s
  | .stripeMigrate stack => Sys2Proof.Machine.execStripeMigrate stack s
  | .rotationInterval stack => Sys2Proof.Machine.execRotationInterval stack s
  | .powerLimitStep milliwatts => Sys2Proof.Machine.execPowerLimitStep milliwatts s
  | .powerRecoveryStep milliwatts => Sys2Proof.Machine.execPowerRecoveryStep milliwatts s
  | .thermalAction core celsius => Sys2Proof.Machine.execThermalAction core celsius s
  | .operatingPointChange core point => Sys2Proof.Machine.execOperatingPointChange core point s
  | .wearPrediction die column hours => Sys2Proof.Machine.execWearPrediction die column hours s
  | .pubTranslationRetry core slot id => Sys2Proof.Machine.execPubTranslationRetry core slot id s
  | .deviceReset => Sys2Proof.Machine.execDeviceReset s
  | .kickPageWrite page off data => Sys2Proof.Machine.execKickPageWrite page off data s
  | .hostApertureAccess link write pa len data => Sys2Proof.Machine.execHostApertureAccess link write pa len data s
  | .commandTimeout page => Sys2Proof.Machine.execCommandTimeout page s
  | .identify page => Sys2Proof.Machine.execIdentify page s
  | .deviceQueryErrorCounts page arg => Sys2Proof.Machine.execDeviceQueryErrorCounts page arg s
  | .deviceQueryMachineChecks page arg => Sys2Proof.Machine.execDeviceQueryMachineChecks page arg s
  | .deviceQueryMalformedEntries page arg => Sys2Proof.Machine.execDeviceQueryMalformedEntries page arg s
  | .deviceQueryWear page arg => Sys2Proof.Machine.execDeviceQueryWear page arg s
  | .deviceQueryRepairState page arg => Sys2Proof.Machine.execDeviceQueryRepairState page arg s
  | .deviceQueryEvents page arg => Sys2Proof.Machine.execDeviceQueryEvents page arg s
  | .contextStart page rec => Sys2Proof.Machine.execContextStart page rec s
  | .contextStop page ctx => Sys2Proof.Machine.execContextStop page ctx s
  | .contextReset page ctx => Sys2Proof.Machine.execContextReset page ctx s
  | .rootLaunch page ctx va => Sys2Proof.Machine.execRootLaunch page ctx va s
  | .contextQuery page ctx => Sys2Proof.Machine.execContextQuery page ctx s
  | .quotaSet page ctx home quota => Sys2Proof.Machine.execQuotaSet page ctx home quota s
  | .runListEdit page entry word => Sys2Proof.Machine.execRunListEdit page entry word s
  | .mapCmd page ctx va level entry => Sys2Proof.Machine.execMapCmd page ctx va level entry s
  | .handoverToDevice page ctx va len => Sys2Proof.Machine.execHandoverToDevice page ctx va len s
  | .handoverToHost page ctx va len => Sys2Proof.Machine.execHandoverToHost page ctx va len s
  | .layoutWrite page ctx handle rec => Sys2Proof.Machine.execLayoutWrite page ctx handle rec s
  | .layoutInvalidate page ctx handle => Sys2Proof.Machine.execLayoutInvalidate page ctx handle s
  | .windowBind page ctx window va len host counter => Sys2Proof.Machine.execWindowBind page ctx window va len host counter s
  | .windowUnbind page ctx window => Sys2Proof.Machine.execWindowUnbind page ctx window s
  | .faultQuery page ctx => Sys2Proof.Machine.execFaultQuery page ctx s
  | .imageVerify page image len sig => Sys2Proof.Machine.execImageVerify page image len sig s
  | .imageActivate page => Sys2Proof.Machine.execImageActivate page s
  | .attestationReport page nonce => Sys2Proof.Machine.execAttestationReport page nonce s
  | .identityPublicKey page => Sys2Proof.Machine.execIdentityPublicKey page s
  | .breakpointSet page ctx index enable pos => Sys2Proof.Machine.execBreakpointSet page ctx index enable pos s
  | .watchpointSet page ctx index kind va len => Sys2Proof.Machine.execWatchpointSet page ctx index kind va len s
  | .debugHalt page target all => Sys2Proof.Machine.execDebugHalt page target all s
  | .debugResume page target => Sys2Proof.Machine.execDebugResume page target s
  | .stepCmd page target group lane => Sys2Proof.Machine.execStepCmd page target group lane s
  | .listStopped page ctx => Sys2Proof.Machine.execListStopped page ctx s
  | .readThread page target group lane item => Sys2Proof.Machine.execReadThread page target group lane item s
  | .writeThread page target group lane item value => Sys2Proof.Machine.execWriteThread page target group lane item value s
  | .readWorkgroup page target item => Sys2Proof.Machine.execReadWorkgroup page target item s
  | .preciseStop page target interval count => Sys2Proof.Machine.execPreciseStop page target interval count s
  | .traceArm page ctx core enable size base => Sys2Proof.Machine.execTraceArm page ctx core enable size base s
  | .samplerArm page rec => Sys2Proof.Machine.execSamplerArm page rec s
  | .trialArm page rec => Sys2Proof.Machine.execTrialArm page rec s
  | .queryTraceBytes page ctx => Sys2Proof.Machine.execQueryTraceBytes page ctx s
  | .querySampleCounts page ctx => Sys2Proof.Machine.execQuerySampleCounts page ctx s
  | .queryProgressCounters page ctx => Sys2Proof.Machine.execQueryProgressCounters page ctx s
  | .queryTrialCounters page ctx => Sys2Proof.Machine.execQueryTrialCounters page ctx s
  | .queryEnergyAccounts page ctx => Sys2Proof.Machine.execQueryEnergyAccounts page ctx s
  | .amPacketArrival id => Sys2Proof.Machine.execAmPacketArrival id s
  | .resetHaltArrival ctx core => Sys2Proof.Machine.execResetHaltArrival ctx core s
  | .contextResetComplete ctx => Sys2Proof.Machine.execContextResetComplete ctx s
  | .atsTranslationInvalidate ctx window => Sys2Proof.Machine.execAtsTranslationInvalidate ctx window s

end Sys2Proof.Machine
end

