-- ==== Sys2Proof/Machine/Step.lean ====
section
/-! DEFINITION. One step of the machine: the agent at the head of the agenda acts; with an empty agenda the next tick is laid out. -/

namespace Sys2Proof.Machine

/-- One indivisible step of one agent (assumption log 3, 9). -/
def step (s : State) : Host.Outcome State Fault Refusal :=
  match s.agenda with
  | [] => .next s.schedule
  | .event i :: r => exec i { s with agenda := r }
  | .poll p :: r => p.run { s with agenda := r }
  | .command k :: r => runCommand k { s with agenda := r }
  | .plan :: r => .next (State.plan { s with agenda := r })
  | .resume k i :: r => exec i (State.keepHistory { s with agenda := r, cur := k } k.core k.slot)
  | .issue k :: r =>
    if s.hasGroup k.core k.slot then
      match State.fetch { s with agenda := r, cur := k } with
      | (t, some i) => exec i (t.keepHistory k.core k.slot)
      | (t, none) => .next t
    else .fault .issueWithoutGroup

/-- The state with an instruction placed where step fetches next (assumption log 7). -/
def State.withFetchWord (s : State) (_nbits w : Nat) : State := s.place (BitVec.ofNat 96 w)

end Sys2Proof.Machine
end

