-- ==== Sys2Proof/Laws/Encoding.lean ====
section
/-! SUPPORT. What the fields of an encoded word read as: each field of Tables 02-4 to 02-11 that the encoder places is the field the
decoder takes. -/

namespace Sys2Proof.Laws

theorem slotOp_bits (op : BitVec 10) (v : BitVec 5) (h : Hdr) (b : BitVec 64) : slotOp (Hdr.bits op v h ++ b) = op := by
  unfold slotOp Slot.field Hdr.bits
  repeat first | exact BitVec.extractLsb'_eq_self | refine (BitVec.extractLsb'_append_eq_of_le (by decide)).trans ?_

theorem slotVariant_bits (op : BitVec 10) (v : BitVec 5) (h : Hdr) (b : BitVec 64) : slotVariant (Hdr.bits op v h ++ b) = v := by
  unfold slotVariant Slot.field Hdr.bits
  repeat first
    | exact BitVec.extractLsb'_eq_self
    | refine (BitVec.extractLsb'_append_eq_of_le (by decide)).trans ?_
    | refine (BitVec.extractLsb'_append_eq_of_add_le (by decide)).trans ?_

theorem slotHdr_bits (op : BitVec 10) (v : BitVec 5) (h : Hdr) (b : BitVec 64) : slotHdr (Hdr.bits op v h ++ b) = h := by
  unfold slotHdr Slot.field Hdr.bits
  congr <;>
  repeat first
    | exact BitVec.extractLsb'_eq_self
    | refine (BitVec.extractLsb'_append_eq_of_le (by decide)).trans ?_
    | refine (BitVec.extractLsb'_append_eq_of_add_le (by decide)).trans ?_

theorem slotA_bits (x : BitVec 32) (f : FmtA) : slotA (x ++ f.bits) = f := by
  unfold slotA Slot.field FmtA.bits
  congr <;>
  repeat first
    | exact BitVec.extractLsb'_eq_self
    | refine (BitVec.extractLsb'_append_eq_of_le (by decide)).trans ?_
    | refine (BitVec.extractLsb'_append_eq_of_add_le (by decide)).trans ?_

/-- A format A word decodes to what its opcode and variant stand for, with the fields it was encoded with. -/
theorem decode_a (op : BitVec 10) (v : BitVec 5) (h : Hdr) (k : FmtA → Instr) (f : FmtA)
    (hd : ∀ w, slotA w = f → decodeClass op.toNat v h w = some (k (slotA w))) :
    decode (Parts.bits ⟨op, v, h, .a f⟩) = .ok (k f) := by
  unfold decode
  have e : Parts.bits ⟨op, v, h, .a f⟩ = Hdr.bits op v h ++ f.bits := rfl
  rw [e, slotOp_bits, slotVariant_bits, slotHdr_bits, hd _ (slotA_bits _ _), slotA_bits]

theorem slotI_bits (x : BitVec 32) (f : FmtI) : slotI (x ++ f.bits) = f := by
  unfold slotI Slot.field FmtI.bits
  congr <;>
  repeat first
    | exact BitVec.extractLsb'_eq_self
    | refine (BitVec.extractLsb'_append_eq_of_le (by decide)).trans ?_
    | refine (BitVec.extractLsb'_append_eq_of_add_le (by decide)).trans ?_

/-- A format I word decodes to what its opcode and variant stand for, with the fields it was encoded with. -/
theorem decode_i (op : BitVec 10) (v : BitVec 5) (h : Hdr) (k : FmtI → Instr) (f : FmtI)
    (hd : ∀ w, slotI w = f → decodeClass op.toNat v h w = some (k (slotI w))) :
    decode (Parts.bits ⟨op, v, h, .i f⟩) = .ok (k f) := by
  unfold decode
  have e : Parts.bits ⟨op, v, h, .i f⟩ = Hdr.bits op v h ++ f.bits := rfl
  rw [e, slotOp_bits, slotVariant_bits, slotHdr_bits, hd _ (slotI_bits _ _), slotI_bits]

theorem slotM_bits (x : BitVec 32) (f : FmtM) : slotM (x ++ f.bits) = f := by
  unfold slotM Slot.field FmtM.bits
  congr <;>
  repeat first
    | exact BitVec.extractLsb'_eq_self
    | refine (BitVec.extractLsb'_append_eq_of_le (by decide)).trans ?_
    | refine (BitVec.extractLsb'_append_eq_of_add_le (by decide)).trans ?_

/-- A format M word decodes to what its opcode and variant stand for, with the fields it was encoded with. -/
theorem decode_m (op : BitVec 10) (v : BitVec 5) (h : Hdr) (k : FmtM → Instr) (f : FmtM)
    (hd : ∀ w, slotM w = f → decodeClass op.toNat v h w = some (k (slotM w))) :
    decode (Parts.bits ⟨op, v, h, .m f⟩) = .ok (k f) := by
  unfold decode
  have e : Parts.bits ⟨op, v, h, .m f⟩ = Hdr.bits op v h ++ f.bits := rfl
  rw [e, slotOp_bits, slotVariant_bits, slotHdr_bits, hd _ (slotM_bits _ _), slotM_bits]

theorem slotB_bits (x : BitVec 32) (f : FmtB) : slotB (x ++ f.bits) = f := by
  unfold slotB Slot.field FmtB.bits
  congr <;>
  repeat first
    | exact BitVec.extractLsb'_eq_self
    | refine (BitVec.extractLsb'_append_eq_of_le (by decide)).trans ?_
    | refine (BitVec.extractLsb'_append_eq_of_add_le (by decide)).trans ?_

/-- A format B word decodes to what its opcode and variant stand for, with the fields it was encoded with. -/
theorem decode_b (op : BitVec 10) (v : BitVec 5) (h : Hdr) (k : FmtB → Instr) (f : FmtB)
    (hd : ∀ w, slotB w = f → decodeClass op.toNat v h w = some (k (slotB w))) :
    decode (Parts.bits ⟨op, v, h, .b f⟩) = .ok (k f) := by
  unfold decode
  have e : Parts.bits ⟨op, v, h, .b f⟩ = Hdr.bits op v h ++ f.bits := rfl
  rw [e, slotOp_bits, slotVariant_bits, slotHdr_bits, hd _ (slotB_bits _ _), slotB_bits]

theorem slotG_bits (x : BitVec 32) (f : FmtG) : slotG (x ++ f.bits) = f := by
  unfold slotG Slot.field FmtG.bits
  congr <;>
  repeat first
    | exact BitVec.extractLsb'_eq_self
    | refine (BitVec.extractLsb'_append_eq_of_le (by decide)).trans ?_
    | refine (BitVec.extractLsb'_append_eq_of_add_le (by decide)).trans ?_

/-- A format G word decodes to what its opcode and variant stand for, with the fields it was encoded with. -/
theorem decode_g (op : BitVec 10) (v : BitVec 5) (h : Hdr) (k : FmtG → Instr) (f : FmtG)
    (hd : ∀ w, slotG w = f → decodeClass op.toNat v h w = some (k (slotG w))) :
    decode (Parts.bits ⟨op, v, h, .g f⟩) = .ok (k f) := by
  unfold decode
  have e : Parts.bits ⟨op, v, h, .g f⟩ = Hdr.bits op v h ++ f.bits := rfl
  rw [e, slotOp_bits, slotVariant_bits, slotHdr_bits, hd _ (slotG_bits _ _), slotG_bits]

theorem slotE_bits (x : BitVec 32) (f : FmtE) : slotE (x ++ f.bits) = f := by
  unfold slotE Slot.field FmtE.bits
  congr <;>
  repeat first
    | exact BitVec.extractLsb'_eq_self
    | refine (BitVec.extractLsb'_append_eq_of_le (by decide)).trans ?_
    | refine (BitVec.extractLsb'_append_eq_of_add_le (by decide)).trans ?_

/-- A format E word decodes to what its opcode and variant stand for, with the fields it was encoded with. -/
theorem decode_e (op : BitVec 10) (v : BitVec 5) (h : Hdr) (k : FmtE → Instr) (f : FmtE)
    (hd : ∀ w, slotE w = f → decodeClass op.toNat v h w = some (k (slotE w))) :
    decode (Parts.bits ⟨op, v, h, .e f⟩) = .ok (k f) := by
  unfold decode
  have e : Parts.bits ⟨op, v, h, .e f⟩ = Hdr.bits op v h ++ f.bits := rfl
  rw [e, slotOp_bits, slotVariant_bits, slotHdr_bits, hd _ (slotE_bits _ _), slotE_bits]

theorem slotS_bits (x : BitVec 32) (f : FmtS) : slotS (x ++ f.bits) = f := by
  unfold slotS Slot.field FmtS.bits
  congr <;>
  repeat first
    | exact BitVec.extractLsb'_eq_self
    | refine (BitVec.extractLsb'_append_eq_of_le (by decide)).trans ?_
    | refine (BitVec.extractLsb'_append_eq_of_add_le (by decide)).trans ?_

/-- A format S word decodes to what its opcode and variant stand for, with the fields it was encoded with. -/
theorem decode_s (op : BitVec 10) (v : BitVec 5) (h : Hdr) (k : FmtS → Instr) (f : FmtS)
    (hd : ∀ w, slotS w = f → decodeClass op.toNat v h w = some (k (slotS w))) :
    decode (Parts.bits ⟨op, v, h, .s f⟩) = .ok (k f) := by
  unfold decode
  have e : Parts.bits ⟨op, v, h, .s f⟩ = Hdr.bits op v h ++ f.bits := rfl
  rw [e, slotOp_bits, slotVariant_bits, slotHdr_bits, hd _ (slotS_bits _ _), slotS_bits]

end Sys2Proof.Laws
end

