-- ==== Sys2Proof/Laws/PerInstr.lean ====
section
/-! SUPPORT. The family RoundTrip, one lemma a constructor: what is encoded decodes to what it was (Tables 02-4 to 02-11 and 04-5 to
04-12). An event or a command has no word. -/

/-- Decoding the word of a well-formed instruction gives the instruction back. -/
def Sys2Proof.Laws.RoundTrip.Statement (i : Sys2Proof.Instr) : Prop :=
  ∀ (n : Nat) (w : Sys2Proof.Slot), i.wf n = true → Sys2Proof.encode i = some w → Sys2Proof.decode w = .ok i

namespace Sys2Proof.Laws.RoundTrip

open Sys2Proof

/-- R70: the rounding code of cvt and cvt.sr. -/
theorem cvt_rounding {n : Nat} {h : Hdr} {v : BitVec 5} {f : FmtA} (q : (Instr.cvt h v f).wf n = true) : (f.rnd == 4) = false := by
  have q2 : (h.ok && (f.rnd != 4 && cvtPairOk v.toNat f.ty.toNat f.rnd.toNat) && (Instr.specA f (.cvt h v f)).any (fun r => r.ok n f)) = true := q
  simp only [Bool.and_eq_true] at q2
  simpa using q2.1.2.1

theorem cvtSr_rounding {n : Nat} {h : Hdr} {v : BitVec 5} {f : FmtA} (q : (Instr.cvtSr h v f).wf n = true) : (f.rnd == 4) = true := by
  have q2 : (h.ok && (f.rnd == 4 && cvtPairOk v.toNat f.ty.toNat 4) && (Instr.specA f (.cvtSr h v f)).any (fun r => r.ok n f)) = true := q
  simp only [Bool.and_eq_true] at q2
  exact q2.1.2.1

theorem add (h : Hdr) (f : FmtA) : Statement (.add h f) := fun _ _ _ e => Option.some.inj e ▸ decode_a 0x001 0 h (.add h) f (fun _ _ => rfl)
theorem addImm (h : Hdr) (f : FmtI) : Statement (.addImm h f) := fun _ _ _ e => Option.some.inj e ▸ decode_i 0x041 0 h (.addImm h) f (fun _ _ => rfl)
theorem sub (h : Hdr) (f : FmtA) : Statement (.sub h f) := fun _ _ _ e => Option.some.inj e ▸ decode_a 0x002 0 h (.sub h) f (fun _ _ => rfl)
theorem subImm (h : Hdr) (f : FmtI) : Statement (.subImm h f) := fun _ _ _ e => Option.some.inj e ▸ decode_i 0x042 0 h (.subImm h) f (fun _ _ => rfl)
theorem addc (h : Hdr) (f : FmtA) : Statement (.addc h f) := fun _ _ _ e => Option.some.inj e ▸ decode_a 0x003 0 h (.addc h) f (fun _ _ => rfl)
theorem subc (h : Hdr) (f : FmtA) : Statement (.subc h f) := fun _ _ _ e => Option.some.inj e ▸ decode_a 0x004 0 h (.subc h) f (fun _ _ => rfl)
theorem mulLo (h : Hdr) (f : FmtA) : Statement (.mulLo h f) := fun _ _ _ e => Option.some.inj e ▸ decode_a 0x005 0 h (.mulLo h) f (fun _ _ => rfl)
theorem mulLoImm (h : Hdr) (f : FmtI) : Statement (.mulLoImm h f) := fun _ _ _ e => Option.some.inj e ▸ decode_i 0x045 0 h (.mulLoImm h) f (fun _ _ => rfl)
theorem mulHi (h : Hdr) (f : FmtA) : Statement (.mulHi h f) := fun _ _ _ e => Option.some.inj e ▸ decode_a 0x005 1 h (.mulHi h) f (fun _ _ => rfl)
theorem mulHiImm (h : Hdr) (f : FmtI) : Statement (.mulHiImm h f) := fun _ _ _ e => Option.some.inj e ▸ decode_i 0x045 1 h (.mulHiImm h) f (fun _ _ => rfl)
theorem mulWide (h : Hdr) (f : FmtA) : Statement (.mulWide h f) := fun _ _ _ e => Option.some.inj e ▸ decode_a 0x005 2 h (.mulWide h) f (fun _ _ => rfl)
theorem mulWideImm (h : Hdr) (f : FmtI) : Statement (.mulWideImm h f) := fun _ _ _ e => Option.some.inj e ▸ decode_i 0x045 2 h (.mulWideImm h) f (fun _ _ => rfl)
theorem mad (h : Hdr) (f : FmtA) : Statement (.mad h f) := fun _ _ _ e => Option.some.inj e ▸ decode_a 0x006 0 h (.mad h) f (fun _ _ => rfl)
theorem madWide (h : Hdr) (f : FmtA) : Statement (.madWide h f) := fun _ _ _ e => Option.some.inj e ▸ decode_a 0x006 2 h (.madWide h) f (fun _ _ => rfl)
theorem minI (h : Hdr) (f : FmtA) : Statement (.minI h f) := fun _ _ _ e => Option.some.inj e ▸ decode_a 0x007 0 h (.minI h) f (fun _ _ => rfl)
theorem minImm (h : Hdr) (f : FmtI) : Statement (.minImm h f) := fun _ _ _ e => Option.some.inj e ▸ decode_i 0x047 0 h (.minImm h) f (fun _ _ => rfl)
theorem maxI (h : Hdr) (f : FmtA) : Statement (.maxI h f) := fun _ _ _ e => Option.some.inj e ▸ decode_a 0x008 0 h (.maxI h) f (fun _ _ => rfl)
theorem maxImm (h : Hdr) (f : FmtI) : Statement (.maxImm h f) := fun _ _ _ e => Option.some.inj e ▸ decode_i 0x048 0 h (.maxImm h) f (fun _ _ => rfl)
theorem abs (h : Hdr) (f : FmtA) : Statement (.abs h f) := fun _ _ _ e => Option.some.inj e ▸ decode_a 0x009 0 h (.abs h) f (fun _ _ => rfl)
theorem neg (h : Hdr) (f : FmtA) : Statement (.neg h f) := fun _ _ _ e => Option.some.inj e ▸ decode_a 0x00A 0 h (.neg h) f (fun _ _ => rfl)
theorem absdiff (h : Hdr) (f : FmtA) : Statement (.absdiff h f) := fun _ _ _ e => Option.some.inj e ▸ decode_a 0x00B 0 h (.absdiff h) f (fun _ _ => rfl)
theorem sad (h : Hdr) (f : FmtA) : Statement (.sad h f) := fun _ _ _ e => Option.some.inj e ▸ decode_a 0x00C 0 h (.sad h) f (fun _ _ => rfl)
theorem dp4 (h : Hdr) (f : FmtA) : Statement (.dp4 h f) := fun _ _ _ e => Option.some.inj e ▸ decode_a 0x024 0 h (.dp4 h) f (fun _ _ => rfl)
theorem dp2 (h : Hdr) (f : FmtA) : Statement (.dp2 h f) := fun _ _ _ e => Option.some.inj e ▸ decode_a 0x025 0 h (.dp2 h) f (fun _ _ => rfl)
theorem lea (h : Hdr) (f : FmtA) : Statement (.lea h f) := fun _ _ _ e => Option.some.inj e ▸ decode_a 0x00D 0 h (.lea h) f (fun _ _ => rfl)
theorem leaImm (h : Hdr) (f : FmtI) : Statement (.leaImm h f) := fun _ _ _ e => Option.some.inj e ▸ decode_i 0x04D 0 h (.leaImm h) f (fun _ _ => rfl)
theorem add64 (h : Hdr) (f : FmtA) : Statement (.add64 h f) := fun _ _ _ e => Option.some.inj e ▸ decode_a 0x00E 0 h (.add64 h) f (fun _ _ => rfl)
theorem sub64 (h : Hdr) (f : FmtA) : Statement (.sub64 h f) := fun _ _ _ e => Option.some.inj e ▸ decode_a 0x00F 0 h (.sub64 h) f (fun _ _ => rfl)
theorem andB (h : Hdr) (f : FmtA) : Statement (.andB h f) := fun _ _ _ e => Option.some.inj e ▸ decode_a 0x010 0 h (.andB h) f (fun _ _ => rfl)
theorem andImm (h : Hdr) (f : FmtI) : Statement (.andImm h f) := fun _ _ _ e => Option.some.inj e ▸ decode_i 0x050 0 h (.andImm h) f (fun _ _ => rfl)
theorem orB (h : Hdr) (f : FmtA) : Statement (.orB h f) := fun _ _ _ e => Option.some.inj e ▸ decode_a 0x011 0 h (.orB h) f (fun _ _ => rfl)
theorem orImm (h : Hdr) (f : FmtI) : Statement (.orImm h f) := fun _ _ _ e => Option.some.inj e ▸ decode_i 0x051 0 h (.orImm h) f (fun _ _ => rfl)
theorem xorB (h : Hdr) (f : FmtA) : Statement (.xorB h f) := fun _ _ _ e => Option.some.inj e ▸ decode_a 0x012 0 h (.xorB h) f (fun _ _ => rfl)
theorem xorImm (h : Hdr) (f : FmtI) : Statement (.xorImm h f) := fun _ _ _ e => Option.some.inj e ▸ decode_i 0x052 0 h (.xorImm h) f (fun _ _ => rfl)
theorem notB (h : Hdr) (f : FmtA) : Statement (.notB h f) := fun _ _ _ e => Option.some.inj e ▸ decode_a 0x013 0 h (.notB h) f (fun _ _ => rfl)
theorem lop3 (h : Hdr) (f : FmtA) : Statement (.lop3 h f) := fun _ _ _ e => Option.some.inj e ▸ decode_a 0x014 0 h (.lop3 h) f (fun _ _ => rfl)
theorem shl (h : Hdr) (f : FmtA) : Statement (.shl h f) := fun _ _ _ e => Option.some.inj e ▸ decode_a 0x015 0 h (.shl h) f (fun _ _ => rfl)
theorem shlImm (h : Hdr) (f : FmtI) : Statement (.shlImm h f) := fun _ _ _ e => Option.some.inj e ▸ decode_i 0x055 0 h (.shlImm h) f (fun _ _ => rfl)
theorem shr (h : Hdr) (f : FmtA) : Statement (.shr h f) := fun _ _ _ e => Option.some.inj e ▸ decode_a 0x016 0 h (.shr h) f (fun _ _ => rfl)
theorem shrImm (h : Hdr) (f : FmtI) : Statement (.shrImm h f) := fun _ _ _ e => Option.some.inj e ▸ decode_i 0x056 0 h (.shrImm h) f (fun _ _ => rfl)
theorem sar (h : Hdr) (f : FmtA) : Statement (.sar h f) := fun _ _ _ e => Option.some.inj e ▸ decode_a 0x017 0 h (.sar h) f (fun _ _ => rfl)
theorem sarImm (h : Hdr) (f : FmtI) : Statement (.sarImm h f) := fun _ _ _ e => Option.some.inj e ▸ decode_i 0x057 0 h (.sarImm h) f (fun _ _ => rfl)
theorem rot (h : Hdr) (f : FmtA) : Statement (.rot h f) := fun _ _ _ e => Option.some.inj e ▸ decode_a 0x018 0 h (.rot h) f (fun _ _ => rfl)
theorem rotImm (h : Hdr) (f : FmtI) : Statement (.rotImm h f) := fun _ _ _ e => Option.some.inj e ▸ decode_i 0x058 0 h (.rotImm h) f (fun _ _ => rfl)
theorem shfL (h : Hdr) (f : FmtA) : Statement (.shfL h f) := fun _ _ _ e => Option.some.inj e ▸ decode_a 0x019 0 h (.shfL h) f (fun _ _ => rfl)
theorem shfR (h : Hdr) (f : FmtA) : Statement (.shfR h f) := fun _ _ _ e => Option.some.inj e ▸ decode_a 0x019 1 h (.shfR h) f (fun _ _ => rfl)
theorem bfe (h : Hdr) (f : FmtA) : Statement (.bfe h f) := fun _ _ _ e => Option.some.inj e ▸ decode_a 0x01A 0 h (.bfe h) f (fun _ _ => rfl)
theorem bfi (h : Hdr) (f : FmtA) : Statement (.bfi h f) := fun _ _ _ e => Option.some.inj e ▸ decode_a 0x01B 0 h (.bfi h) f (fun _ _ => rfl)
theorem brev (h : Hdr) (f : FmtA) : Statement (.brev h f) := fun _ _ _ e => Option.some.inj e ▸ decode_a 0x01C 0 h (.brev h) f (fun _ _ => rfl)
theorem popc (h : Hdr) (f : FmtA) : Statement (.popc h f) := fun _ _ _ e => Option.some.inj e ▸ decode_a 0x01D 0 h (.popc h) f (fun _ _ => rfl)
theorem clz (h : Hdr) (f : FmtA) : Statement (.clz h f) := fun _ _ _ e => Option.some.inj e ▸ decode_a 0x01E 0 h (.clz h) f (fun _ _ => rfl)
theorem ctz (h : Hdr) (f : FmtA) : Statement (.ctz h f) := fun _ _ _ e => Option.some.inj e ▸ decode_a 0x01F 0 h (.ctz h) f (fun _ _ => rfl)
theorem prmt (h : Hdr) (f : FmtA) : Statement (.prmt h f) := fun _ _ _ e => Option.some.inj e ▸ decode_a 0x020 0 h (.prmt h) f (fun _ _ => rfl)
theorem sel (h : Hdr) (f : FmtA) : Statement (.sel h f) := fun _ _ _ e => Option.some.inj e ▸ decode_a 0x021 0 h (.sel h) f (fun _ _ => rfl)
theorem cmp (h : Hdr) (v : BitVec 5) (f : FmtA) : Statement (.cmp h v f) := fun _ _ _ e => Option.some.inj e ▸ decode_a 0x022 v h (.cmp h v) f (fun _ _ => rfl)
theorem cmpImm (h : Hdr) (v : BitVec 5) (f : FmtI) : Statement (.cmpImm h v f) := fun _ _ _ e => Option.some.inj e ▸ decode_i 0x062 v h (.cmpImm h v) f (fun _ _ => rfl)
theorem setc (h : Hdr) (v : BitVec 5) (f : FmtA) : Statement (.setc h v f) := fun _ _ _ e => Option.some.inj e ▸ decode_a 0x023 v h (.setc h v) f (fun _ _ => rfl)
theorem setcImm (h : Hdr) (v : BitVec 5) (f : FmtI) : Statement (.setcImm h v f) := fun _ _ _ e => Option.some.inj e ▸ decode_i 0x063 v h (.setcImm h v) f (fun _ _ => rfl)
theorem mov (h : Hdr) (f : FmtA) : Statement (.mov h f) := fun _ _ _ e => Option.some.inj e ▸ decode_a 0x026 0 h (.mov h) f (fun _ _ => rfl)
theorem movImm (h : Hdr) (f : FmtI) : Statement (.movImm h f) := fun _ _ _ e => Option.some.inj e ▸ decode_i 0x066 0 h (.movImm h) f (fun _ _ => rfl)
theorem fadd (h : Hdr) (f : FmtA) : Statement (.fadd h f) := fun _ _ _ e => Option.some.inj e ▸ decode_a 0x081 0 h (.fadd h) f (fun _ _ => rfl)
theorem fsub (h : Hdr) (f : FmtA) : Statement (.fsub h f) := fun _ _ _ e => Option.some.inj e ▸ decode_a 0x082 0 h (.fsub h) f (fun _ _ => rfl)
theorem fmul (h : Hdr) (f : FmtA) : Statement (.fmul h f) := fun _ _ _ e => Option.some.inj e ▸ decode_a 0x083 0 h (.fmul h) f (fun _ _ => rfl)
theorem ffma (h : Hdr) (f : FmtA) : Statement (.ffma h f) := fun _ _ _ e => Option.some.inj e ▸ decode_a 0x084 0 h (.ffma h) f (fun _ _ => rfl)
theorem fmin (h : Hdr) (f : FmtA) : Statement (.fmin h f) := fun _ _ _ e => Option.some.inj e ▸ decode_a 0x085 0 h (.fmin h) f (fun _ _ => rfl)
theorem fmax (h : Hdr) (f : FmtA) : Statement (.fmax h f) := fun _ _ _ e => Option.some.inj e ▸ decode_a 0x086 0 h (.fmax h) f (fun _ _ => rfl)
theorem fcmp (h : Hdr) (v : BitVec 5) (f : FmtA) : Statement (.fcmp h v f) := fun _ _ _ e => Option.some.inj e ▸ decode_a 0x087 v h (.fcmp h v) f (fun _ _ => rfl)
theorem fclass (h : Hdr) (f : FmtA) : Statement (.fclass h f) := fun _ _ _ e => Option.some.inj e ▸ decode_a 0x088 0 h (.fclass h) f (fun _ _ => rfl)
theorem frint (h : Hdr) (f : FmtA) : Statement (.frint h f) := fun _ _ _ e => Option.some.inj e ▸ decode_a 0x089 0 h (.frint h) f (fun _ _ => rfl)
theorem ffrac (h : Hdr) (f : FmtA) : Statement (.ffrac h f) := fun _ _ _ e => Option.some.inj e ▸ decode_a 0x08A 0 h (.ffrac h) f (fun _ _ => rfl)
theorem fscale (h : Hdr) (f : FmtA) : Statement (.fscale h f) := fun _ _ _ e => Option.some.inj e ▸ decode_a 0x08B 0 h (.fscale h) f (fun _ _ => rfl)
theorem fgetexp (h : Hdr) (f : FmtA) : Statement (.fgetexp h f) := fun _ _ _ e => Option.some.inj e ▸ decode_a 0x08C 0 h (.fgetexp h) f (fun _ _ => rfl)
theorem dadd (h : Hdr) (f : FmtA) : Statement (.dadd h f) := fun _ _ _ e => Option.some.inj e ▸ decode_a 0x090 0 h (.dadd h) f (fun _ _ => rfl)
theorem dmul (h : Hdr) (f : FmtA) : Statement (.dmul h f) := fun _ _ _ e => Option.some.inj e ▸ decode_a 0x091 0 h (.dmul h) f (fun _ _ => rfl)
theorem dfma (h : Hdr) (f : FmtA) : Statement (.dfma h f) := fun _ _ _ e => Option.some.inj e ▸ decode_a 0x092 0 h (.dfma h) f (fun _ _ => rfl)
theorem hadd2 (h : Hdr) (f : FmtA) : Statement (.hadd2 h f) := fun _ _ _ e => Option.some.inj e ▸ decode_a 0x098 0 h (.hadd2 h) f (fun _ _ => rfl)
theorem hmul2 (h : Hdr) (f : FmtA) : Statement (.hmul2 h f) := fun _ _ _ e => Option.some.inj e ▸ decode_a 0x099 0 h (.hmul2 h) f (fun _ _ => rfl)
theorem hfma2 (h : Hdr) (f : FmtA) : Statement (.hfma2 h f) := fun _ _ _ e => Option.some.inj e ▸ decode_a 0x09A 0 h (.hfma2 h) f (fun _ _ => rfl)
theorem bfadd2 (h : Hdr) (f : FmtA) : Statement (.bfadd2 h f) := fun _ _ _ e => Option.some.inj e ▸ decode_a 0x09C 0 h (.bfadd2 h) f (fun _ _ => rfl)
theorem bfma2 (h : Hdr) (f : FmtA) : Statement (.bfma2 h f) := fun _ _ _ e => Option.some.inj e ▸ decode_a 0x09D 0 h (.bfma2 h) f (fun _ _ => rfl)
theorem cvt (h : Hdr) (v : BitVec 5) (f : FmtA) : Statement (.cvt h v f) := fun _ _ q e =>
  Option.some.inj e ▸ decode_a 0x101 v h (.cvt h v) f (fun w hw => by
    change some (if (slotA w).rnd == 4 then _ else _) = _
    rw [hw, cvt_rounding q]
    rfl)
theorem cvtSr (h : Hdr) (v : BitVec 5) (f : FmtA) : Statement (.cvtSr h v f) := fun _ _ q e =>
  Option.some.inj e ▸ decode_a 0x101 v h (.cvtSr h v) f (fun w hw => by
    change some (if (slotA w).rnd == 4 then _ else _) = _
    rw [hw, cvtSr_rounding q]
    rfl)
theorem pk4 (h : Hdr) (f : FmtA) : Statement (.pk4 h f) := fun _ _ _ e => Option.some.inj e ▸ decode_a 0x102 0 h (.pk4 h) f (fun _ _ => rfl)
theorem upk4 (h : Hdr) (f : FmtA) : Statement (.upk4 h f) := fun _ _ _ e => Option.some.inj e ▸ decode_a 0x103 0 h (.upk4 h) f (fun _ _ => rfl)
theorem frcp (h : Hdr) (f : FmtA) : Statement (.frcp h f) := fun _ _ _ e => Option.some.inj e ▸ decode_a 0x110 0 h (.frcp h) f (fun _ _ => rfl)
theorem frsq (h : Hdr) (f : FmtA) : Statement (.frsq h f) := fun _ _ _ e => Option.some.inj e ▸ decode_a 0x111 0 h (.frsq h) f (fun _ _ => rfl)
theorem fsqrt (h : Hdr) (f : FmtA) : Statement (.fsqrt h f) := fun _ _ _ e => Option.some.inj e ▸ decode_a 0x112 0 h (.fsqrt h) f (fun _ _ => rfl)
theorem fsin (h : Hdr) (f : FmtA) : Statement (.fsin h f) := fun _ _ _ e => Option.some.inj e ▸ decode_a 0x113 0 h (.fsin h) f (fun _ _ => rfl)
theorem fcos (h : Hdr) (f : FmtA) : Statement (.fcos h f) := fun _ _ _ e => Option.some.inj e ▸ decode_a 0x114 0 h (.fcos h) f (fun _ _ => rfl)
theorem fex2 (h : Hdr) (f : FmtA) : Statement (.fex2 h f) := fun _ _ _ e => Option.some.inj e ▸ decode_a 0x115 0 h (.fex2 h) f (fun _ _ => rfl)
theorem flg2 (h : Hdr) (f : FmtA) : Statement (.flg2 h f) := fun _ _ _ e => Option.some.inj e ▸ decode_a 0x116 0 h (.flg2 h) f (fun _ _ => rfl)
theorem ftanh (h : Hdr) (f : FmtA) : Statement (.ftanh h f) := fun _ _ _ e => Option.some.inj e ▸ decode_a 0x117 0 h (.ftanh h) f (fun _ _ => rfl)
theorem specialFunctionCompletion (id : Nat) : Statement (.specialFunctionCompletion id) := fun _ _ _ e => nomatch e
theorem ld (h : Hdr) (f : FmtM) : Statement (.ld h f) := fun _ _ _ e => Option.some.inj e ▸ decode_m 0x181 0 h (.ld h) f (fun _ _ => rfl)
theorem st (h : Hdr) (f : FmtM) : Statement (.st h f) := fun _ _ _ e => Option.some.inj e ▸ decode_m 0x182 0 h (.st h) f (fun _ _ => rfl)
theorem ldB (h : Hdr) (f : FmtM) : Statement (.ldB h f) := fun _ _ _ e => Option.some.inj e ▸ decode_m 0x183 0 h (.ldB h) f (fun _ _ => rfl)
theorem ldAcq (h : Hdr) (f : FmtM) : Statement (.ldAcq h f) := fun _ _ _ e => Option.some.inj e ▸ decode_m 0x184 0 h (.ldAcq h) f (fun _ _ => rfl)
theorem stRel (h : Hdr) (f : FmtM) : Statement (.stRel h f) := fun _ _ _ e => Option.some.inj e ▸ decode_m 0x185 0 h (.stRel h) f (fun _ _ => rfl)
theorem ldsp (h : Hdr) (f : FmtM) : Statement (.ldsp h f) := fun _ _ _ e => Option.some.inj e ▸ decode_m 0x186 0 h (.ldsp h) f (fun _ _ => rfl)
theorem stsp (h : Hdr) (f : FmtM) : Statement (.stsp h f) := fun _ _ _ e => Option.some.inj e ▸ decode_m 0x187 0 h (.stsp h) f (fun _ _ => rfl)
theorem ldcl (h : Hdr) (f : FmtM) : Statement (.ldcl h f) := fun _ _ _ e => Option.some.inj e ▸ decode_m 0x188 0 h (.ldcl h) f (fun _ _ => rfl)
theorem stcl (h : Hdr) (f : FmtM) : Statement (.stcl h f) := fun _ _ _ e => Option.some.inj e ▸ decode_m 0x189 0 h (.stcl h) f (fun _ _ => rfl)
theorem ldds (h : Hdr) (f : FmtM) : Statement (.ldds h f) := fun _ _ _ e => Option.some.inj e ▸ decode_m 0x18A 0 h (.ldds h) f (fun _ _ => rfl)
theorem stds (h : Hdr) (f : FmtM) : Statement (.stds h f) := fun _ _ _ e => Option.some.inj e ▸ decode_m 0x18B 0 h (.stds h) f (fun _ _ => rfl)
theorem ldlp (h : Hdr) (f : FmtM) : Statement (.ldlp h f) := fun _ _ _ e => Option.some.inj e ▸ decode_m 0x18C 0 h (.ldlp h) f (fun _ _ => rfl)
theorem stlp (h : Hdr) (f : FmtM) : Statement (.stlp h f) := fun _ _ _ e => Option.some.inj e ▸ decode_m 0x18D 0 h (.stlp h) f (fun _ _ => rfl)
theorem ldc (h : Hdr) (f : FmtM) : Statement (.ldc h f) := fun _ _ _ e => Option.some.inj e ▸ decode_m 0x18E 0 h (.ldc h) f (fun _ _ => rfl)
theorem atom (h : Hdr) (v : BitVec 5) (f : FmtM) : Statement (.atom h v f) := fun _ _ _ e => Option.some.inj e ▸ decode_m 0x190 v h (.atom h v) f (fun _ _ => rfl)
theorem red (h : Hdr) (v : BitVec 5) (f : FmtM) : Statement (.red h v f) := fun _ _ _ e => Option.some.inj e ▸ decode_m 0x191 v h (.red h v) f (fun _ _ => rfl)
theorem fenceAcq (h : Hdr) (f : FmtM) : Statement (.fenceAcq h f) := fun _ _ _ e => Option.some.inj e ▸ decode_m 0x198 0 h (.fenceAcq h) f (fun _ _ => rfl)
theorem fenceRel (h : Hdr) (f : FmtM) : Statement (.fenceRel h f) := fun _ _ _ e => Option.some.inj e ▸ decode_m 0x198 1 h (.fenceRel h) f (fun _ _ => rfl)
theorem fenceAr (h : Hdr) (f : FmtM) : Statement (.fenceAr h f) := fun _ _ _ e => Option.some.inj e ▸ decode_m 0x198 2 h (.fenceAr h) f (fun _ _ => rfl)
theorem cwb (h : Hdr) (f : FmtM) : Statement (.cwb h f) := fun _ _ _ e => Option.some.inj e ▸ decode_m 0x199 0 h (.cwb h) f (fun _ _ => rfl)
theorem cinv (h : Hdr) (f : FmtM) : Statement (.cinv h f) := fun _ _ _ e => Option.some.inj e ▸ decode_m 0x19A 0 h (.cinv h) f (fun _ _ => rfl)
theorem cpf (h : Hdr) (f : FmtM) : Statement (.cpf h f) := fun _ _ _ e => Option.some.inj e ▸ decode_m 0x19B 0 h (.cpf h) f (fun _ _ => rfl)
theorem rndAdv (h : Hdr) (f : FmtM) : Statement (.rndAdv h f) := fun _ _ _ e => Option.some.inj e ▸ decode_m 0x1A0 0 h (.rndAdv h) f (fun _ _ => rfl)
theorem rndGet (h : Hdr) (f : FmtM) : Statement (.rndGet h f) := fun _ _ _ e => Option.some.inj e ▸ decode_m 0x1A1 0 h (.rndGet h) f (fun _ _ => rfl)
theorem pub (h : Hdr) (f : FmtM) : Statement (.pub h f) := fun _ _ _ e => Option.some.inj e ▸ decode_m 0x1A2 0 h (.pub h) f (fun _ _ => rfl)
theorem nop (h : Hdr) (f : FmtS) : Statement (.nop h f) := fun _ _ _ e => Option.some.inj e ▸ decode_s 0x200 0 h (.nop h) f (fun _ _ => rfl)
theorem bra (h : Hdr) (f : FmtB) : Statement (.bra h f) := fun _ _ _ e => Option.some.inj e ▸ decode_b 0x201 0 h (.bra h) f (fun _ _ => rfl)
theorem brx (h : Hdr) (f : FmtB) : Statement (.brx h f) := fun _ _ _ e => Option.some.inj e ▸ decode_b 0x202 0 h (.brx h) f (fun _ _ => rfl)
theorem brz (h : Hdr) (f : FmtB) : Statement (.brz h f) := fun _ _ _ e => Option.some.inj e ▸ decode_b 0x203 0 h (.brz h) f (fun _ _ => rfl)
theorem brnz (h : Hdr) (f : FmtB) : Statement (.brnz h f) := fun _ _ _ e => Option.some.inj e ▸ decode_b 0x204 0 h (.brnz h) f (fun _ _ => rfl)
theorem call (h : Hdr) (f : FmtB) : Statement (.call h f) := fun _ _ _ e => Option.some.inj e ▸ decode_b 0x205 0 h (.call h) f (fun _ _ => rfl)
theorem callx (h : Hdr) (f : FmtB) : Statement (.callx h f) := fun _ _ _ e => Option.some.inj e ▸ decode_b 0x206 0 h (.callx h) f (fun _ _ => rfl)
theorem ret (h : Hdr) (f : FmtB) : Statement (.ret h f) := fun _ _ _ e => Option.some.inj e ▸ decode_b 0x207 0 h (.ret h) f (fun _ _ => rfl)
theorem exitI (h : Hdr) (f : FmtB) : Statement (.exitI h f) := fun _ _ _ e => Option.some.inj e ▸ decode_b 0x208 0 h (.exitI h) f (fun _ _ => rfl)
theorem yield (h : Hdr) (f : FmtS) : Statement (.yield h f) := fun _ _ _ e => Option.some.inj e ▸ decode_s 0x209 0 h (.yield h) f (fun _ _ => rfl)
theorem yieldTimeout (core slot id : Nat) : Statement (.yieldTimeout core slot id) := fun _ _ _ e => nomatch e
theorem bar (h : Hdr) (f : FmtS) : Statement (.bar h f) := fun _ _ _ e => Option.some.inj e ▸ decode_s 0x20A 0 h (.bar h) f (fun _ _ => rfl)
theorem barrierComplete (wg k : Nat) : Statement (.barrierComplete wg k) := fun _ _ _ e => nomatch e
theorem bart (h : Hdr) (f : FmtS) : Statement (.bart h f) := fun _ _ _ e => Option.some.inj e ▸ decode_s 0x20B 0 h (.bart h) f (fun _ _ => rfl)
theorem bartRelease (set t : Nat) : Statement (.bartRelease set t) := fun _ _ _ e => nomatch e
theorem waitt (h : Hdr) (f : FmtS) : Statement (.waitt h f) := fun _ _ _ e => Option.some.inj e ▸ decode_s 0x20C 0 h (.waitt h) f (fun _ _ => rfl)
theorem trapI (h : Hdr) (f : FmtS) : Statement (.trapI h f) := fun _ _ _ e => Option.some.inj e ▸ decode_s 0x20D 0 h (.trapI h) f (fun _ _ => rfl)
theorem rti (h : Hdr) (f : FmtS) : Statement (.rti h f) := fun _ _ _ e => Option.some.inj e ▸ decode_s 0x20E 0 h (.rti h) f (fun _ _ => rfl)
theorem elect (h : Hdr) (f : FmtG) : Statement (.elect h f) := fun _ _ _ e => Option.some.inj e ▸ decode_g 0x20F 0 h (.elect h) f (fun _ _ => rfl)
theorem pset (h : Hdr) (f : FmtI) : Statement (.pset h f) := fun _ _ _ e => Option.some.inj e ▸ decode_i 0x210 0 h (.pset h) f (fun _ _ => rfl)
theorem pand (h : Hdr) (f : FmtI) : Statement (.pand h f) := fun _ _ _ e => Option.some.inj e ▸ decode_i 0x211 0 h (.pand h) f (fun _ _ => rfl)
theorem por (h : Hdr) (f : FmtI) : Statement (.por h f) := fun _ _ _ e => Option.some.inj e ▸ decode_i 0x212 0 h (.por h) f (fun _ _ => rfl)
theorem pxor (h : Hdr) (f : FmtI) : Statement (.pxor h f) := fun _ _ _ e => Option.some.inj e ▸ decode_i 0x213 0 h (.pxor h) f (fun _ _ => rfl)
theorem pnot (h : Hdr) (f : FmtI) : Statement (.pnot h f) := fun _ _ _ e => Option.some.inj e ▸ decode_i 0x214 0 h (.pnot h) f (fun _ _ => rfl)
theorem voteAll (h : Hdr) (f : FmtG) : Statement (.voteAll h f) := fun _ _ _ e => Option.some.inj e ▸ decode_g 0x281 0 h (.voteAll h) f (fun _ _ => rfl)
theorem voteAny (h : Hdr) (f : FmtG) : Statement (.voteAny h f) := fun _ _ _ e => Option.some.inj e ▸ decode_g 0x281 1 h (.voteAny h) f (fun _ _ => rfl)
theorem voteEq (h : Hdr) (f : FmtG) : Statement (.voteEq h f) := fun _ _ _ e => Option.some.inj e ▸ decode_g 0x281 2 h (.voteEq h) f (fun _ _ => rfl)
theorem ballot (h : Hdr) (f : FmtG) : Statement (.ballot h f) := fun _ _ _ e => Option.some.inj e ▸ decode_g 0x282 0 h (.ballot h) f (fun _ _ => rfl)
theorem shfl (h : Hdr) (v : BitVec 5) (f : FmtG) : Statement (.shfl h v f) := fun _ _ _ e => Option.some.inj e ▸ decode_g 0x283 v h (.shfl h v) f (fun _ _ => rfl)
theorem xchg (h : Hdr) (f : FmtG) : Statement (.xchg h f) := fun _ _ _ e => Option.some.inj e ▸ decode_g 0x284 0 h (.xchg h) f (fun _ _ => rfl)
theorem redux (h : Hdr) (v : BitVec 5) (f : FmtG) : Statement (.redux h v f) := fun _ _ _ e => Option.some.inj e ▸ decode_g 0x285 v h (.redux h v) f (fun _ _ => rfl)
theorem matchAny (h : Hdr) (f : FmtG) : Statement (.matchAny h f) := fun _ _ _ e => Option.some.inj e ▸ decode_g 0x286 0 h (.matchAny h) f (fun _ _ => rfl)
theorem matchAll (h : Hdr) (f : FmtG) : Statement (.matchAll h f) := fun _ _ _ e => Option.some.inj e ▸ decode_g 0x286 1 h (.matchAll h) f (fun _ _ => rfl)
theorem gsync (h : Hdr) (f : FmtG) : Statement (.gsync h f) := fun _ _ _ e => Option.some.inj e ▸ decode_g 0x287 0 h (.gsync h) f (fun _ _ => rfl)
theorem groupWideCompletion (id : Nat) : Statement (.groupWideCompletion id) := fun _ _ _ e => nomatch e
theorem cpySlice (h : Hdr) (f : FmtE) : Statement (.cpySlice h f) := fun _ _ _ e => Option.some.inj e ▸ decode_e 0x301 0 h (.cpySlice h) f (fun _ _ => rfl)
theorem copyStart (wg k : Nat) : Statement (.copyStart wg k) := fun _ _ _ e => nomatch e
theorem copyComplete (wg k : Nat) : Statement (.copyComplete wg k) := fun _ _ _ e => nomatch e
theorem cpyWait (h : Hdr) (f : FmtE) : Statement (.cpyWait h f) := fun _ _ _ e => Option.some.inj e ▸ decode_e 0x302 0 h (.cpyWait h) f (fun _ _ => rfl)
theorem ringInit (h : Hdr) (f : FmtE) : Statement (.ringInit h f) := fun _ _ _ e => Option.some.inj e ▸ decode_e 0x303 0 h (.ringInit h) f (fun _ _ => rfl)
theorem ringPop (h : Hdr) (f : FmtE) : Statement (.ringPop h f) := fun _ _ _ e => Option.some.inj e ▸ decode_e 0x304 0 h (.ringPop h) f (fun _ _ => rfl)
theorem ringRel (h : Hdr) (f : FmtE) : Statement (.ringRel h f) := fun _ _ _ e => Option.some.inj e ▸ decode_e 0x305 0 h (.ringRel h) f (fun _ _ => rfl)
theorem bufWait (h : Hdr) (f : FmtE) : Statement (.bufWait h f) := fun _ _ _ e => Option.some.inj e ▸ decode_e 0x306 0 h (.bufWait h) f (fun _ _ => rfl)
theorem bufSet (h : Hdr) (f : FmtE) : Statement (.bufSet h f) := fun _ _ _ e => Option.some.inj e ▸ decode_e 0x307 0 h (.bufSet h) f (fun _ _ => rfl)
theorem opmClaim (h : Hdr) (f : FmtE) : Statement (.opmClaim h f) := fun _ _ _ e => Option.some.inj e ▸ decode_e 0x310 0 h (.opmClaim h) f (fun _ _ => rfl)
theorem opmRel (h : Hdr) (f : FmtE) : Statement (.opmRel h f) := fun _ _ _ e => Option.some.inj e ▸ decode_e 0x311 0 h (.opmRel h) f (fun _ _ => rfl)
theorem mma (h : Hdr) (f : FmtE) : Statement (.mma h f) := fun _ _ _ e => Option.some.inj e ▸ decode_e 0x312 0 h (.mma h) f (fun _ _ => rfl)
theorem mmaAccept (core slot id : Nat) : Statement (.mmaAccept core slot id) := fun _ _ _ e => nomatch e
theorem mmaComplete (core : Nat) : Statement (.mmaComplete core) := fun _ _ _ e => nomatch e
theorem mmaWait (h : Hdr) (f : FmtE) : Statement (.mmaWait h f) := fun _ _ _ e => Option.some.inj e ▸ decode_e 0x313 0 h (.mmaWait h) f (fun _ _ => rfl)
theorem accLd (h : Hdr) (f : FmtE) : Statement (.accLd h f) := fun _ _ _ e => Option.some.inj e ▸ decode_e 0x314 0 h (.accLd h) f (fun _ _ => rfl)
theorem accClr (h : Hdr) (f : FmtE) : Statement (.accClr h f) := fun _ _ _ e => Option.some.inj e ▸ decode_e 0x315 0 h (.accClr h) f (fun _ _ => rfl)
theorem amSend (h : Hdr) (f : FmtE) : Statement (.amSend h f) := fun _ _ _ e => Option.some.inj e ▸ decode_e 0x318 0 h (.amSend h) f (fun _ _ => rfl)
theorem amPacketRetry (id : Nat) : Statement (.amPacketRetry id) := fun _ _ _ e => nomatch e
theorem amDone (h : Hdr) (f : FmtE) : Statement (.amDone h f) := fun _ _ _ e => Option.some.inj e ▸ decode_e 0x319 0 h (.amDone h) f (fun _ _ => rfl)
theorem handlerSpawn (core launch : Nat) : Statement (.handlerSpawn core launch) := fun _ _ _ e => nomatch e
theorem ldP (h : Hdr) (f : FmtM) : Statement (.ldP h f) := fun _ _ _ e => Option.some.inj e ▸ decode_m 0x320 0 h (.ldP h) f (fun _ _ => rfl)
theorem mat (h : Hdr) (f : FmtA) : Statement (.mat h f) := fun _ _ _ e => Option.some.inj e ▸ decode_a 0x321 0 h (.mat h) f (fun _ _ => rfl)
theorem pxrel (h : Hdr) (f : FmtE) : Statement (.pxrel h f) := fun _ _ _ e => Option.some.inj e ▸ decode_e 0x322 0 h (.pxrel h) f (fun _ _ => rfl)
theorem pxq (h : Hdr) (f : FmtE) : Statement (.pxq h f) := fun _ _ _ e => Option.some.inj e ▸ decode_e 0x323 0 h (.pxq h) f (fun _ _ => rfl)
theorem pxlease (h : Hdr) (f : FmtE) : Statement (.pxlease h f) := fun _ _ q e => by
  have q2 : (h.ok && true && (f.handle.toNat ≤ 11 && f.a == 0x1FE && f.b == 0x1FE && f.c == 0x1FE && 1 ≤ f.par.toNat && f.par.toNat ≤ 64)) = true := q
  have q3 : (f.par.toNat / 128 % 2 == 1) = false := by
    simp only [Bool.and_eq_true, decide_eq_true_eq] at q2
    have := q2.2.2
    simp only [beq_eq_false_iff_ne]
    omega
  exact Option.some.inj e ▸ decode_e 0x324 0 h (.pxlease h) f (fun w hw => by
    change plain 0 (if (slotE w).par.toNat / 128 % 2 == 1 then _ else _) = _
    rw [hw, q3]
    rfl)
theorem pxleaseRet (h : Hdr) (f : FmtE) : Statement (.pxleaseRet h f) := fun _ _ q e => by
  have q2 : (h.ok && true && (f.handle.toNat ≤ 11 && f.a == 0x1FE && f.b == 0x1FE && f.c == 0x1FE && f.par.toNat == 128)) = true := q
  have q3 : (f.par.toNat / 128 % 2 == 1) = true := by
    simp only [Bool.and_eq_true, beq_iff_eq] at q2
    simp [q2.2.2]
  exact Option.some.inj e ▸ decode_e 0x324 0 h (.pxleaseRet h) f (fun w hw => by
    change plain 0 (if (slotE w).par.toNat / 128 % 2 == 1 then _ else _) = _
    rw [hw, q3]
    rfl)
theorem crossingReturn (core slot id k : Nat) : Statement (.crossingReturn core slot id k) := fun _ _ _ e => nomatch e
theorem homeOperationExecute (id : Nat) : Statement (.homeOperationExecute id) := fun _ _ _ e => nomatch e
theorem leaseRequest (core ctx home : Nat) : Statement (.leaseRequest core ctx home) := fun _ _ _ e => nomatch e
theorem leaseGrant (core ctx home : Nat) : Statement (.leaseGrant core ctx home) := fun _ _ _ e => nomatch e
theorem leaseRefuse (core ctx home : Nat) : Statement (.leaseRefuse core ctx home) := fun _ _ _ e => nomatch e
theorem releaseBatchSend (core home : Nat) : Statement (.releaseBatchSend core home) := fun _ _ _ e => nomatch e
theorem slotFree (home slot : Nat) : Statement (.slotFree home slot) := fun _ _ _ e => nomatch e
theorem rdsr (h : Hdr) (f : FmtS) : Statement (.rdsr h f) := fun _ _ _ e => Option.some.inj e ▸ decode_s 0x380 0 h (.rdsr h) f (fun _ _ => rfl)
theorem wrsr (h : Hdr) (f : FmtS) : Statement (.wrsr h f) := fun _ _ _ e => Option.some.inj e ▸ decode_s 0x381 0 h (.wrsr h) f (fun _ _ => rfl)
theorem launch (h : Hdr) (f : FmtS) : Statement (.launch h f) := fun _ _ _ e => Option.some.inj e ▸ decode_s 0x388 0 h (.launch h) f (fun _ _ => rfl)
theorem launchAt (h : Hdr) (f : FmtS) : Statement (.launchAt h f) := fun _ _ _ e => Option.some.inj e ▸ decode_s 0x389 0 h (.launchAt h) f (fun _ _ => rfl)
theorem launchAccept (id : Nat) : Statement (.launchAccept id) := fun _ _ _ e => nomatch e
theorem timedLaunchRelease (launch : Nat) : Statement (.timedLaunchRelease launch) := fun _ _ _ e => nomatch e
theorem brk (h : Hdr) (f : FmtS) : Statement (.brk h f) := fun _ _ _ e => Option.some.inj e ▸ decode_s 0x390 0 h (.brk h) f (fun _ _ => rfl)
theorem haltI (h : Hdr) (f : FmtS) : Statement (.haltI h f) := fun _ _ _ e => Option.some.inj e ▸ decode_s 0x391 0 h (.haltI h) f (fun _ _ => rfl)
theorem rfe (h : Hdr) (f : FmtS) : Statement (.rfe h f) := fun _ _ _ e => Option.some.inj e ▸ decode_s 0x392 0 h (.rfe h) f (fun _ _ => rfl)
theorem prog (h : Hdr) (f : FmtS) : Statement (.prog h f) := fun _ _ _ e => Option.some.inj e ▸ decode_s 0x398 0 h (.prog h) f (fun _ _ => rfl)
theorem tmark (h : Hdr) (f : FmtS) : Statement (.tmark h f) := fun _ _ _ e => Option.some.inj e ▸ decode_s 0x399 0 h (.tmark h) f (fun _ _ => rfl)
theorem vbtQuiesce (h : Hdr) (f : FmtS) : Statement (.vbtQuiesce h f) := fun _ _ _ e => Option.some.inj e ▸ decode_s 0x3A0 0 h (.vbtQuiesce h) f (fun _ _ => rfl)
theorem vbtDriveWalk (h : Hdr) (f : FmtS) : Statement (.vbtDriveWalk h f) := fun n _ q e => by
  have q2 : (h.ok && true && (f.idx == 0 && Role.ok n false .regPair f.a && f.imm == 0 && f.modi == 0)) = true := q
  have q3 : (f.modi.toNat % 2 == 1) = false := by
    simp only [Bool.and_eq_true, beq_iff_eq] at q2
    simp [q2.2.2]
  exact Option.some.inj e ▸ decode_s 0x3A1 0 h (.vbtDriveWalk h) f (fun w hw => by
    change plain 0 (if (slotS w).modi.toNat % 2 == 1 then _ else _) = _
    rw [hw, q3]
    rfl)
theorem vbtDriveFlat (h : Hdr) (f : FmtS) : Statement (.vbtDriveFlat h f) := fun n _ q e => by
  have q2 : (h.ok && true && (f.idx == 0 && Role.ok n false .regPair f.a && f.imm == 0 && f.modi == 1)) = true := q
  have q3 : (f.modi.toNat % 2 == 1) = true := by
    simp only [Bool.and_eq_true, beq_iff_eq] at q2
    simp [q2.2.2]
  exact Option.some.inj e ▸ decode_s 0x3A1 0 h (.vbtDriveFlat h) f (fun w hw => by
    change plain 0 (if (slotS w).modi.toNat % 2 == 1 then _ else _) = _
    rw [hw, q3]
    rfl)
theorem vbtSample (h : Hdr) (f : FmtS) : Statement (.vbtSample h f) := fun _ _ _ e => Option.some.inj e ▸ decode_s 0x3A2 0 h (.vbtSample h) f (fun _ _ => rfl)
theorem vbtRepGrp (h : Hdr) (f : FmtS) : Statement (.vbtRepGrp h f) := fun n _ q e => by
  have q2 : (h.ok && true && (f.idx == 0 && Role.ok n false .regPair f.a && f.imm == 0 && f.modi == 0)) = true := q
  have q3 : (f.modi.toNat % 2 == 1) = false := by
    simp only [Bool.and_eq_true, beq_iff_eq] at q2
    simp [q2.2.2]
  exact Option.some.inj e ▸ decode_s 0x3A3 0 h (.vbtRepGrp h) f (fun w hw => by
    change plain 0 (if (slotS w).modi.toNat % 2 == 1 then _ else _) = _
    rw [hw, q3]
    rfl)
theorem vbtRepRot (h : Hdr) (f : FmtS) : Statement (.vbtRepRot h f) := fun n _ q e => by
  have q2 : (h.ok && true && (f.idx == 0 && Role.ok n false .regPair f.a && f.imm == 0 && f.modi == 1)) = true := q
  have q3 : (f.modi.toNat % 2 == 1) = true := by
    simp only [Bool.and_eq_true, beq_iff_eq] at q2
    simp [q2.2.2]
  exact Option.some.inj e ▸ decode_s 0x3A3 0 h (.vbtRepRot h) f (fun w hw => by
    change plain 0 (if (slotS w).modi.toNat % 2 == 1 then _ else _) = _
    rw [hw, q3]
    rfl)
theorem vbtRetire (h : Hdr) (f : FmtS) : Statement (.vbtRetire h f) := fun _ _ _ e => Option.some.inj e ▸ decode_s 0x3A4 0 h (.vbtRetire h) f (fun _ _ => rfl)
theorem vbtResume (h : Hdr) (f : FmtS) : Statement (.vbtResume h f) := fun _ _ _ e => Option.some.inj e ▸ decode_s 0x3A5 0 h (.vbtResume h) f (fun _ _ => rfl)
theorem lineRefetch (core launch line : Nat) : Statement (.lineRefetch core launch line) := fun _ _ _ e => nomatch e
theorem fixedLatencyWrite (id : Nat) : Statement (.fixedLatencyWrite id) := fun _ _ _ e => nomatch e
theorem loadCompletion (id : Nat) : Statement (.loadCompletion id) := fun _ _ _ e => nomatch e
theorem fillArrival (id : Nat) : Statement (.fillArrival id) := fun _ _ _ e => nomatch e
theorem storePerformedAtHome (id : Nat) : Statement (.storePerformedAtHome id) := fun _ _ _ e => nomatch e
theorem invalidationApply (core : Nat) : Statement (.invalidationApply core) := fun _ _ _ e => nomatch e
theorem readMostlyCollapse (id : Nat) : Statement (.readMostlyCollapse id) := fun _ _ _ e => nomatch e
theorem gatherIdleFlush (die frame : Nat) : Statement (.gatherIdleFlush die frame) := fun _ _ _ e => nomatch e
theorem settleEscape (settle : Nat) : Statement (.settleEscape settle) := fun _ _ _ e => nomatch e
theorem roundAnnouncementArrival (ctx slot : Nat) (round : Word) : Statement (.roundAnnouncementArrival ctx slot round) := fun _ _ _ e => nomatch e
theorem haltDelivery (wg part : Nat) : Statement (.haltDelivery wg part) := fun _ _ _ e => nomatch e
theorem launchHaltArrival (launch core : Nat) : Statement (.launchHaltArrival launch core) := fun _ _ _ e => nomatch e
theorem pageFaultResolve (core slot id : Nat) : Statement (.pageFaultResolve core slot id) := fun _ _ _ e => nomatch e
theorem pageFaultTimeout (core slot id : Nat) : Statement (.pageFaultTimeout core slot id) := fun _ _ _ e => nomatch e
theorem sliceExpiry (die : Nat) : Statement (.sliceExpiry die) := fun _ _ _ e => nomatch e
theorem workgroupPark (wg : Nat) : Statement (.workgroupPark wg) := fun _ _ _ e => nomatch e
theorem preemptionLimitExpiry (die : Nat) : Statement (.preemptionLimitExpiry die) := fun _ _ _ e => nomatch e
theorem forcedReset (ctx reason : Nat) : Statement (.forcedReset ctx reason) := fun _ _ _ e => nomatch e
theorem checkpoint (wg : Nat) : Statement (.checkpoint wg) := fun _ _ _ e => nomatch e
theorem traceTimePacket (core : Nat) : Statement (.traceTimePacket core) := fun _ _ _ e => nomatch e
theorem traceLostPacket (core : Nat) : Statement (.traceLostPacket core) := fun _ _ _ e => nomatch e
theorem sampleTick (core : Nat) : Statement (.sampleTick core) := fun _ _ _ e => nomatch e
theorem trialEnd (ctx : Nat) : Statement (.trialEnd ctx) := fun _ _ _ e => nomatch e
theorem backgroundTestPass (stack : Nat) : Statement (.backgroundTestPass stack) := fun _ _ _ e => nomatch e
theorem demandPreemptTest (stack bus : Nat) : Statement (.demandPreemptTest stack bus) := fun _ _ _ e => nomatch e
theorem busRetire (stack bus : Nat) : Statement (.busRetire stack bus) := fun _ _ _ e => nomatch e
theorem stripeMigrate (stack : Nat) : Statement (.stripeMigrate stack) := fun _ _ _ e => nomatch e
theorem rotationInterval (stack : Nat) : Statement (.rotationInterval stack) := fun _ _ _ e => nomatch e
theorem operatingPointChange (core point : Nat) : Statement (.operatingPointChange core point) := fun _ _ _ e => nomatch e
theorem pubTranslationRetry (core slot id : Nat) : Statement (.pubTranslationRetry core slot id) := fun _ _ _ e => nomatch e
theorem commandTimeout (page : BitVec 6) : Statement (.commandTimeout page) := fun _ _ _ e => nomatch e
theorem amPacketArrival (id : Nat) : Statement (.amPacketArrival id) := fun _ _ _ e => nomatch e
theorem resetHaltArrival (ctx core : Nat) : Statement (.resetHaltArrival ctx core) := fun _ _ _ e => nomatch e
theorem contextResetComplete (ctx : Nat) : Statement (.contextResetComplete ctx) := fun _ _ _ e => nomatch e
theorem mmaStart (core : Nat) : Statement (.mmaStart core) := fun _ _ _ e => nomatch e
theorem launchStart (launch : Nat) : Statement (.launchStart launch) := fun _ _ _ e => nomatch e
theorem teamPlace (launch : Nat) : Statement (.teamPlace launch) := fun _ _ _ e => nomatch e
theorem workgroupComplete (wg : Nat) : Statement (.workgroupComplete wg) := fun _ _ _ e => nomatch e
theorem launchComplete (launch : Nat) : Statement (.launchComplete launch) := fun _ _ _ e => nomatch e
theorem issueCycle (core part : Nat) : Statement (.issueCycle core part) := fun _ _ _ e => nomatch e
theorem gatherFlush (die frame : Nat) : Statement (.gatherFlush die frame) := fun _ _ _ e => nomatch e
theorem timeBaseTick : Statement (.timeBaseTick) := fun _ _ _ e => nomatch e
theorem lecternAnnounce (die : Nat) : Statement (.lecternAnnounce die) := fun _ _ _ e => nomatch e
theorem groupLower (core slot : Nat) : Statement (.groupLower core slot) := fun _ _ _ e => nomatch e
theorem groupRaise (core slot : Nat) : Statement (.groupRaise core slot) := fun _ _ _ e => nomatch e
theorem forcedLower (core : Nat) : Statement (.forcedLower core) := fun _ _ _ e => nomatch e
theorem asyncFaultArrival (wg code lane : Nat) (pos tvalue : Long) : Statement (.asyncFaultArrival wg code lane pos tvalue) := fun _ _ _ e => nomatch e
theorem workgroupSettle (wg : Nat) : Statement (.workgroupSettle wg) := fun _ _ _ e => nomatch e
theorem urgentPreempt (die : Nat) : Statement (.urgentPreempt die) := fun _ _ _ e => nomatch e
theorem switchComplete (die : Nat) : Statement (.switchComplete die) := fun _ _ _ e => nomatch e
theorem workgroupResume (wg : Nat) : Statement (.workgroupResume wg) := fun _ _ _ e => nomatch e
theorem energyIntervalClose (kind column dynamic leakage : Nat) : Statement (.energyIntervalClose kind column dynamic leakage) := fun _ _ _ e => nomatch e
theorem persistentErrorRepair (stack bus conn : Nat) : Statement (.persistentErrorRepair stack bus conn) := fun _ _ _ e => nomatch e
theorem doubleError (stack bus pa wg : Nat) (conns : List Nat) : Statement (.doubleError stack bus pa wg conns) := fun _ _ _ e => nomatch e
theorem powerLimitStep (milliwatts : Nat) : Statement (.powerLimitStep milliwatts) := fun _ _ _ e => nomatch e
theorem powerRecoveryStep (milliwatts : Nat) : Statement (.powerRecoveryStep milliwatts) := fun _ _ _ e => nomatch e
theorem thermalAction (core celsius : Nat) : Statement (.thermalAction core celsius) := fun _ _ _ e => nomatch e
theorem wearPrediction (die column hours : Nat) : Statement (.wearPrediction die column hours) := fun _ _ _ e => nomatch e
theorem deviceReset : Statement (.deviceReset) := fun _ _ _ e => nomatch e
theorem kickPageWrite (page : BitVec 6) (off : Nat) (data : List Byte) : Statement (.kickPageWrite page off data) := fun _ _ _ e => nomatch e
theorem hostApertureAccess (link : BitVec 1) (write : Bool) (pa len : Nat) (data : List Byte) : Statement (.hostApertureAccess link write pa len data) := fun _ _ _ e => nomatch e
theorem identify (page : BitVec 6) : Statement (.identify page) := fun _ _ _ e => nomatch e
theorem deviceQueryErrorCounts (page : BitVec 6) (arg : Word) : Statement (.deviceQueryErrorCounts page arg) := fun _ _ _ e => nomatch e
theorem deviceQueryMachineChecks (page : BitVec 6) (arg : Word) : Statement (.deviceQueryMachineChecks page arg) := fun _ _ _ e => nomatch e
theorem deviceQueryMalformedEntries (page : BitVec 6) (arg : Word) : Statement (.deviceQueryMalformedEntries page arg) := fun _ _ _ e => nomatch e
theorem deviceQueryWear (page : BitVec 6) (arg : Word) : Statement (.deviceQueryWear page arg) := fun _ _ _ e => nomatch e
theorem deviceQueryRepairState (page : BitVec 6) (arg : Word) : Statement (.deviceQueryRepairState page arg) := fun _ _ _ e => nomatch e
theorem deviceQueryEvents (page : BitVec 6) (arg : Word) : Statement (.deviceQueryEvents page arg) := fun _ _ _ e => nomatch e
theorem contextStart (page : BitVec 6) (record : BitVec 1024) : Statement (.contextStart page record) := fun _ _ _ e => nomatch e
theorem contextStop (page : BitVec 6) (ctx : Word) : Statement (.contextStop page ctx) := fun _ _ _ e => nomatch e
theorem contextReset (page : BitVec 6) (ctx : Word) : Statement (.contextReset page ctx) := fun _ _ _ e => nomatch e
theorem rootLaunch (page : BitVec 6) (ctx : Word) (va : Long) : Statement (.rootLaunch page ctx va) := fun _ _ _ e => nomatch e
theorem contextQuery (page : BitVec 6) (ctx : Word) : Statement (.contextQuery page ctx) := fun _ _ _ e => nomatch e
theorem quotaSet (page : BitVec 6) (ctx home quota : Word) : Statement (.quotaSet page ctx home quota) := fun _ _ _ e => nomatch e
theorem runListEdit (page : BitVec 6) (entry : Word) (word : Long) : Statement (.runListEdit page entry word) := fun _ _ _ e => nomatch e
theorem mapCmd (page : BitVec 6) (ctx : Word) (va : Long) (level : Word) (entry : Long) : Statement (.mapCmd page ctx va level entry) := fun _ _ _ e => nomatch e
theorem handoverToDevice (page : BitVec 6) (ctx : Word) (va len : Long) : Statement (.handoverToDevice page ctx va len) := fun _ _ _ e => nomatch e
theorem handoverToHost (page : BitVec 6) (ctx : Word) (va len : Long) : Statement (.handoverToHost page ctx va len) := fun _ _ _ e => nomatch e
theorem layoutWrite (page : BitVec 6) (ctx handle : Word) (record : BitVec 512) : Statement (.layoutWrite page ctx handle record) := fun _ _ _ e => nomatch e
theorem layoutInvalidate (page : BitVec 6) (ctx handle : Word) : Statement (.layoutInvalidate page ctx handle) := fun _ _ _ e => nomatch e
theorem windowBind (page : BitVec 6) (ctx window : Word) (va len host counter : Long) : Statement (.windowBind page ctx window va len host counter) := fun _ _ _ e => nomatch e
theorem windowUnbind (page : BitVec 6) (ctx window : Word) : Statement (.windowUnbind page ctx window) := fun _ _ _ e => nomatch e
theorem faultQuery (page : BitVec 6) (ctx : Word) : Statement (.faultQuery page ctx) := fun _ _ _ e => nomatch e
theorem imageVerify (page : BitVec 6) (image len sig : Long) : Statement (.imageVerify page image len sig) := fun _ _ _ e => nomatch e
theorem imageActivate (page : BitVec 6) : Statement (.imageActivate page) := fun _ _ _ e => nomatch e
theorem attestationReport (page : BitVec 6) (nonce : BitVec 256) : Statement (.attestationReport page nonce) := fun _ _ _ e => nomatch e
theorem identityPublicKey (page : BitVec 6) : Statement (.identityPublicKey page) := fun _ _ _ e => nomatch e
theorem breakpointSet (page : BitVec 6) (ctx index enable : Word) (pos : Long) : Statement (.breakpointSet page ctx index enable pos) := fun _ _ _ e => nomatch e
theorem watchpointSet (page : BitVec 6) (ctx index kind : Word) (va : Long) (len : Word) : Statement (.watchpointSet page ctx index kind va len) := fun _ _ _ e => nomatch e
theorem debugHalt (page : BitVec 6) (target : Long) (all : Bool) : Statement (.debugHalt page target all) := fun _ _ _ e => nomatch e
theorem debugResume (page : BitVec 6) (target : Long) : Statement (.debugResume page target) := fun _ _ _ e => nomatch e
theorem stepCmd (page : BitVec 6) (target : Long) (group lane : Word) : Statement (.stepCmd page target group lane) := fun _ _ _ e => nomatch e
theorem listStopped (page : BitVec 6) (ctx : Word) : Statement (.listStopped page ctx) := fun _ _ _ e => nomatch e
theorem readThread (page : BitVec 6) (target : Long) (group lane item : Word) : Statement (.readThread page target group lane item) := fun _ _ _ e => nomatch e
theorem writeThread (page : BitVec 6) (target : Long) (group lane item : Word) (value : Long) : Statement (.writeThread page target group lane item value) := fun _ _ _ e => nomatch e
theorem readWorkgroup (page : BitVec 6) (target : Long) (item : Word) : Statement (.readWorkgroup page target item) := fun _ _ _ e => nomatch e
theorem preciseStop (page : BitVec 6) (target interval count : Long) : Statement (.preciseStop page target interval count) := fun _ _ _ e => nomatch e
theorem traceArm (page : BitVec 6) (ctx : Word) (core enable : BitVec 16) (size : Word) (base : Long) : Statement (.traceArm page ctx core enable size base) := fun _ _ _ e => nomatch e
theorem samplerArm (page : BitVec 6) (record : BitVec 224) : Statement (.samplerArm page record) := fun _ _ _ e => nomatch e
theorem trialArm (page : BitVec 6) (record : BitVec 224) : Statement (.trialArm page record) := fun _ _ _ e => nomatch e
theorem queryTraceBytes (page : BitVec 6) (ctx : Word) : Statement (.queryTraceBytes page ctx) := fun _ _ _ e => nomatch e
theorem querySampleCounts (page : BitVec 6) (ctx : Word) : Statement (.querySampleCounts page ctx) := fun _ _ _ e => nomatch e
theorem queryProgressCounters (page : BitVec 6) (ctx : Word) : Statement (.queryProgressCounters page ctx) := fun _ _ _ e => nomatch e
theorem queryTrialCounters (page : BitVec 6) (ctx : Word) : Statement (.queryTrialCounters page ctx) := fun _ _ _ e => nomatch e
theorem queryEnergyAccounts (page : BitVec 6) (ctx : Word) : Statement (.queryEnergyAccounts page ctx) := fun _ _ _ e => nomatch e
theorem atsTranslationInvalidate (ctx window : Nat) : Statement (.atsTranslationInvalidate ctx window) := fun _ _ _ e => nomatch e

end Sys2Proof.Laws.RoundTrip
end

