-- ==== Sys2Proof/Safety.lean ====
section
/-! DEFINITION. What a safe step is, the invariant, and the words the statements use: when the operands of an issue are ready, and the
state an issue whose results are under way leaves. -/

namespace Sys2Proof.Machine

/-- A step that goes on: the machine neither stops with the model's own fault nor meets an instruction without a meaning. -/
def Safe (s : State) : Prop := ∃ t, step s = .next t

/-- The invariant that every step keeps: memory and host memory stand in their canonical form. -/
def Inv (s : State) : Prop := Memory.wf s.mem = true ∧ Memory.wf s.hostMem = true

/-- The operands of a first issue are ready: no checking thread names a pending lane (R52), every window word lies in its window on a
readable, translated page (R23, R347), no active lane holds a proxy in a source (R281), and no codeword read is uncorrectable (R350). -/
def Ready (s : State) (act : BitVec 32) (srcs : List Src) (dsts preds : List Nat) : Prop :=
  s.cur.phase = 0 ∧ s.cur.nums = [] ∧ s.shortFault act (srcRegs srcs ++ dsts) preds = none ∧
  (act = 0 ∨ (s.windowFault srcs = false ∧ s.windowAbsent srcs = none)) ∧
  (∀ l ∈ lanesOf act, ∀ x ∈ srcs, s.srcProxy l x = false) ∧ s.badOperands act srcs = [] ∧ s.cur.failed = []

/-- Ready, for an arithmetic form. -/
def ReadyFor (s : State) (h : Hdr) (fm : Form) : Prop := Ready s (s.active h) fm.srcs (dstRegs fm.dst fm.pair) []

/-- What a form computes in a lane: the bits and the exceptions. -/
def laneRes (s : State) (fm : Form) (ev : Eval) (l : Nat) : FRes :=
  ev (flagFlushIn s.curLaunch.kr) (flagFlushOut s.curLaunch.kr) (fm.srcs.map (fun x => (s.srcVal l x).toNat))

/-- R288: whether the result of a lane carries the home mark. -/
def laneMark (s : State) (fm : Form) (l : Nat) : Bool := (fm.srcs.take fm.home).any (fun x => s.srcMarked l x)

/-- R87: the exceptions of a lane, and those of them its sr.fpctl enables. -/
def laneFlags (s : State) (fm : Form) (ev : Eval) (l : Nat) : BitVec 5 := if laneMark s fm l then 0 else (laneRes s fm ev l).flags
def laneTraps (s : State) (fm : Form) (ev : Eval) (l : Nat) : BitVec 5 :=
  laneFlags s fm ev l &&& (s.thread s.cur.core s.cur.slot l).fpctl

/-- R50, R87: the result of a form in the lanes act, under way. -/
def resultOf (s : State) (h : Hdr) (fm : Form) (ev : Eval) (act : BitVec 32) : Pend :=
  { core := s.cur.core, slot := s.cur.slot, kind := 0, path := s.cur.path, lanes := s.cur.lanes, act := act, pos := s.cur.pos,
    tok := h.tok.toNat, fpu := fm.fpu,
    writes := (((lanesOf act).filter (fun l => laneTraps s fm ev l == 0)).map
      (fun l => laneWrites l fm.dst fm.pair (laneRes s fm ev l).bits (laneMark s fm l))).flatten,
    flags := ((lanesOf act).filter (fun l => laneFlags s fm ev l != 0)).map (fun l => (l, laneFlags s fm ev l)),
    traps := maskOf ((lanesOf act).filter (fun l => laneTraps s fm ev l != 0)),
    exc := (lanesOf act).foldl (fun e l => e ||| laneTraps s fm ev l) 0 }

/-- An integer result: the value v in each active lane, no exception. -/
def valueResult (s : State) (h : Hdr) (fm : Form) (v : Nat → Nat) : Pend :=
  { core := s.cur.core, slot := s.cur.slot, kind := 0, path := s.cur.path, lanes := s.cur.lanes, act := s.active h, pos := s.cur.pos,
    tok := h.tok.toNat,
    writes := ((lanesOf (s.active h)).map (fun l => laneWrites l fm.dst fm.pair (v l) (laneMark s fm l))).flatten }

/-- R20, R42, R50: the issue raises its token, its result is due a fixed latency from now, and its threads go on at the successor. -/
def issued (s : State) (h : Hdr) (lat : Nat) (p : Pend) : State := ((s.takeToken h).pendFixed lat p).retireSeq h

end Sys2Proof.Machine
end

