-- ==== Sys2Proof/Certificates/Slice0/Obligations.lean ====
section
/-! DEFINITION. The statements for the provers. Sys2Proof.Claims holds the words they use beside those of Sys2Proof/Safety.lean. -/

namespace Sys2Proof.Claims

open Sys2Proof Sys2Proof.Machine

/-- A source as a 32-bit word and as a 64-bit value, in a lane. -/
def word (s : State) (x : Src) (l : Nat) : Word := (s.srcVal l x).setWidth 32

/-- Table 04-1: the integer a word holds in i32 (0) or n32 (1), and a pair in i64 (2) or n64 (3). -/
def int32 (ty : BitVec 4) (w : Word) : Int := if ty = 0 then w.toInt else w.toNat
def int64 (ty : BitVec 4) (x : Long) : Int := if ty = 2 then x.toInt else x.toNat

/-- R76: an exact integer clamped to the range of its type, or wrapped. -/
def fit32 (ty : BitVec 4) (sat : Bool) (x : Int) : Word :=
  BitVec.ofInt 32 (if sat then (if ty = 0 then max (-2147483648) (min 2147483647 x) else max 0 (min 4294967295 x)) else x)
def fit64 (ty : BitVec 4) (sat : Bool) (x : Int) : Long :=
  BitVec.ofInt 64 (if sat then (if ty = 2 then max (-9223372036854775808) (min 9223372036854775807 x) else max 0 (min 18446744073709551615 x))
    else x)

/-- The state in which the value v of each active lane of a form is under way, due after the form's latency. -/
def computed (s : State) (h : Hdr) (fm : Form) (v : Nat → Nat) : Host.Outcome State Fault Refusal :=
  .next (issued s h fm.lat (valueResult s h fm v))

/-- The types i32 and n32. -/
def is32 (ty : BitVec 4) : Prop := ty = 0 ∨ ty = 1
/-- The types i64 and n64. -/
def is64 (ty : BitVec 4) : Prop := ty = 2 ∨ ty = 3

/-- The sources of a format A word, and of a format I word: register and immediate. -/
def srcB (f : FmtA) : Src := srcA f f.b false
def srcC (f : FmtA) : Src := srcA f f.c false
def srcA0 (f : FmtA) : Src := srcA f f.a false

end Sys2Proof.Claims

open Sys2Proof Sys2Proof.Machine Sys2Proof.Claims

namespace Sys2Proof.Claims

/-- The last value among writes to a register of a lane, or what stood there. -/
def lastWrite (ws : List LaneWrite) (l r : Nat) (old : Reg) : Reg :=
  (((ws.filter (fun w => w.lane == l && w.reg == r)).getLast?).map (fun w => ⟨w.val, w.tag⟩)).getD old

/-- The last value among writes to a predicate of a lane, or what stood there. -/
def lastPred (ws : List (Nat × Nat × Bool)) (l q : Nat) (old : Bool) : Bool :=
  (((ws.filter (fun w => w.1 == l && w.2.1 == q)).getLast?).map (fun w => w.2.2)).getD old

/-- R18, R20, R50, R51, R146: the writes ws of a result arrive at its group: registers of lanes that have not ended, predicates, special
registers, sticky exception bits, and its token falls; every other part of every thread, every other group and memory stand as before. -/
def Lands (s t : State) (p : Pend) (ws : List LaneWrite) : Prop :=
  t.mem = s.mem ∧ t.hostMem = s.hostMem ∧
  (∀ c q, gkey c q ≠ gkey p.core p.slot → t.group c q = s.group c q) ∧
  (∀ k, (t.group p.core p.slot).token k = (s.group p.core p.slot).token k - (if k = p.tok ∧ k ≠ 0 then 1 else 0)) ∧
  ∀ l, l < (s.group p.core p.slot).threads.length →
    let a := (p.srs.filter (fun x => x.1 == l)).foldl (fun e x => e.srWrite x.2.1 x.2.2) (s.thread p.core p.slot l)
    let b := t.thread p.core p.slot l
    { b with regs := [], preds := 0, fpflags := 0 } = { a with regs := [], preds := 0, fpflags := 0 } ∧
    (∀ r, b.reg r = if a.exited = true ∨ r = 0x1FE then a.reg r else lastWrite ws l r (a.reg r)) ∧
    (∀ q, q < 7 → b.pred q = lastPred p.preds l q (a.pred q)) ∧
    b.fpflags = (p.flags.filter (fun x => x.1 == l)).foldl (fun e x => e ||| x.2) a.fpflags

/-- The outcome is a state in which the result lands, and is no longer under way. -/
def Landed (s : State) (id : Nat) (p : Pend) (ws : List LaneWrite) (o : Host.Outcome State Fault Refusal) : Prop :=
  ∃ t, o = .next t ∧ Lands s t p ws ∧ t.pends = tblDel s.pends id

/-- R51: no result of a later instruction has been written to a register of the core in the present cycle. -/
def NoneLater (s : State) (core id : Nat) : Prop := ∀ k, tblGet 0 (s.core core).landed k ≤ id

/-- No write on its way, invalidation or gathered byte is one that operation id waits for. -/
def Unwaited (s : State) (id : Nat) : Prop := s.msgs.any (fun m => m.2.causes.contains id) = false ∧
  s.invals.any (fun v => v.causes.contains id) = false ∧ s.dies.any (fun d => d.2.gather.any (fun g => g.2.causes.contains id)) = false

end Sys2Proof.Claims

/-- R18, R20, R50, R51: a result under way is written when it is due: FIXED_LATENCY_WRITE, SPECIAL_FUNCTION_COMPLETION,
GROUP_WIDE_COMPLETION and LOAD_COMPLETION write exactly its registers, predicates, special registers and sticky bits and lower its token. -/
def Sys2Proof.Claims.ResultsAreWritten : Prop := ∀ (s : State) (id : Nat) (p : Pend), tblFind s.pends id = some p →
  s.hasGroup p.core p.slot = true → NoneLater s p.core id →
  (p.traps = 0 → (p.bad = none → Landed s id p p.writes (exec (.fixedLatencyWrite id) s)) ∧
    Landed s id p p.writes (exec (.specialFunctionCompletion id) s) ∧ Landed s id p p.writes (exec (.groupWideCompletion id) s)) ∧
  (p.missing = [] → p.wait = 0 → p.bad = none → Unwaited s id →
    (p.size = 0 → Landed s id p p.writes (exec (.loadCompletion id) s)) ∧
    (p.size ≠ 0 → p.dst ≠ 0x1FE → Landed s id p (((lanesOf p.act).map (fun l =>
      let x := leNat (tabBytes p.bytes (l * 16) p.size)
      let v := if p.sx = true ∧ p.size < 4 ∧ 2 ^ (8 * p.size - 1) ≤ x then x + 2 ^ 32 - 2 ^ (8 * p.size) else x
      (List.range ((p.size + 3) / 4)).map (fun j => { lane := l, reg := p.dst + j, val := BitVec.ofNat 32 (v / 2 ^ (32 * j)), tag := p.overtaken : LaneWrite }))).flatten) (exec (.loadCompletion id) s)))

/-- R231, R335, R350: a load, or an ldsp, whose data held an uncorrectable codeword writes nothing: the threads of the issue stop with
UNCORRECTABLE 0x12, wherever they stand, sr.tlanes holding the lanes of ACTIVE (R334) and sr.tvalue the lane's address; a record is written and the token falls. -/
def Sys2Proof.Claims.LoadFaults : Prop := ∀ (s : State) (id : Nat) (p : Pend) (lane : Nat) (b : Bad), tblFind s.pends id = some p →
  s.hasGroup p.core p.slot = true → p.bad = some (lane, b) →
  let ea := ((p.eas.find? (fun x => x.1 == lane)).map (fun x => x.2)).getD 0
  let stops (i : Instr) : Prop := ∃ t, exec i s = .next t ∧ t.mem = s.mem ∧ t.pends = tblDel s.pends id ∧ t.mcNext = s.mcNext + 1 ∧
    (t.group p.core p.slot).stopped = true ∧
    (∀ k, (t.group p.core p.slot).token k = (s.group p.core p.slot).token k - (if k = p.tok ∧ k ≠ 0 then 1 else 0)) ∧
    ∀ l, l < (s.group p.core p.slot).threads.length → t.thread p.core p.slot l = if p.lanes.getLsbD l then
      { s.thread p.core p.slot l with tcause := 0x12, tlanes := p.act, tpc := p.pos, tvalue := ea } else s.thread p.core p.slot l
  stops (.fixedLatencyWrite id) ∧ (p.missing = [] → p.wait = 0 → Unwaited s id → stops (.loadCompletion id))

/-- R87, R334, R344, R342, R343, R346: an enabled exception is taken when the results are written: with a handler for it the active threads enter it with FP_TRAP
0x0E, the lanes that trapped and the exceptions; without one the group stops with it, every issuing thread at the instruction, which has not retired.
R121, R51: the result of a special function or of a group-wide operation is written too, and its threads, none of them waiting, resume where they then stand. -/
def Sys2Proof.Claims.FloatTrapEntry : Prop := ∀ (s : State) (id : Nat) (p : Pend), tblFind s.pends id = some p →
  s.hasGroup p.core p.slot = true → p.bad = none → p.traps ≠ 0 →
  let w := s.wgOf p.core p.slot
  let entry := (s.launch (s.launchOfWg w)).kr.traps.getD 0 0
  let n := (s.group p.core p.slot).threads.length
  let trapped (t : State) (l : Nat) : Prop := (t.thread p.core p.slot l).tcause = 0x0E ∧ (t.thread p.core p.slot l).tlanes = p.traps ∧
    (t.thread p.core p.slot l).tpc = p.pos ∧ (t.thread p.core p.slot l).tvalue = p.exc.setWidth 64
  let enters (t : State) (res : Nat → Long) : Prop := (t.wg w).rwc = (s.wg w).rwc ∧ ∀ l ∈ lanesOf p.act, l < n → trapped t l ∧
    (t.thread p.core p.slot l).pos = BitVec.ofNat 64 entry ∧ (t.thread p.core p.slot l).resume = res l ∧ (t.thread p.core p.slot l).inHandler = true
  let outside : Prop := ∀ l ∈ lanesOf p.act, (s.thread p.core p.slot l).inHandler = false
  (entry ≠ 0 → outside → ∃ t, exec (.fixedLatencyWrite id) s = .next t ∧ t.mem = s.mem ∧ enters t (fun _ => seqPos p.pos)) ∧
  (entry = 0 → ∃ t, exec (.fixedLatencyWrite id) s = .next t ∧ t.mem = s.mem ∧ (t.group p.core p.slot).stopped = true ∧ (t.wg w).rwc = (s.wg w).rwc - 1 ∧
    ∀ l ∈ lanesOf p.lanes, l < n → trapped t l ∧ (t.thread p.core p.slot l).pos = p.pos) ∧
  (entry ≠ 0 → outside → p.srs = [] → (s.group p.core p.slot).waits = [] → (s.group p.core p.slot).xings = [] →
    (∀ l ∈ lanesOf p.act, (s.thread p.core p.slot l).exited = false) →
    (∃ t, exec (.specialFunctionCompletion id) s = .next t ∧ t.mem = s.mem ∧ enters t (fun l => (s.thread p.core p.slot l).pos)) ∧
    ∃ t, exec (.groupWideCompletion id) s = .next t ∧ t.mem = s.mem ∧ enters t (fun l => (s.thread p.core p.slot l).pos))

/-- R99: add and sub write the exact sum and difference of their operands in the type, clamped with .sat and wrapped without. -/
def Sys2Proof.Claims.AddAndSubtract : Prop := ∀ (s : State) (h : Hdr) (f : FmtA) (g : FmtI), is32 f.ty → is32 g.ty →
  (ReadyFor s h (f.two 2 4) →
    exec (.add h f) s = computed s h (f.two 2 4) (fun l =>
      (fit32 f.ty (f.sat == 1) (int32 f.ty (word s (srcA0 f) l) + int32 f.ty (word s (srcB f) l))).toNat) ∧
    exec (.sub h f) s = computed s h (f.two 2 4) (fun l =>
      (fit32 f.ty (f.sat == 1) (int32 f.ty (word s (srcA0 f) l) - int32 f.ty (word s (srcB f) l))).toNat)) ∧
  (ReadyFor s h (g.two 1 4) →
    exec (.addImm h g) s = computed s h (g.two 1 4) (fun l =>
      (fit32 g.ty (g.modi == 1) (int32 g.ty (word s (immA g false) l) + int32 g.ty g.imm)).toNat) ∧
    exec (.subImm h g) s = computed s h (g.two 1 4) (fun l =>
      (fit32 g.ty (g.modi == 1) (int32 g.ty (word s (immA g false) l) - int32 g.ty g.imm)).toNat))

/-- R100: addc and subc write the 32-bit result to the low register and the carry or borrow, 0 or 1, to the high one. -/
def Sys2Proof.Claims.CarryChain : Prop := ∀ (s : State) (h : Hdr) (f : FmtA), ReadyFor s h (f.threeP 0 4) →
  exec (.addc h f) s = computed s h (f.threeP 0 4) (fun l =>
    (word s (srcA0 f) l).toNat + (word s (srcB f) l).toNat + (word s (srcC f) l).toNat % 2) ∧
  exec (.subc h f) s = computed s h (f.threeP 0 4) (fun l =>
    let a := (word s (srcA0 f) l).toNat
    let b := (word s (srcB f) l).toNat + (word s (srcC f) l).toNat % 2
    if b ≤ a then a - b else (4294967296 + a - b) + 4294967296)

/-- R101: mul.lo, mul.hi and mul.wide write the low half, the high half and the whole of the exact product. -/
def Sys2Proof.Claims.Multiply : Prop := ∀ (s : State) (h : Hdr) (f : FmtA) (g : FmtI), is32 f.ty → is32 g.ty →
  let p (l : Nat) : Int := int32 f.ty (word s (srcA0 f) l) * int32 f.ty (word s (srcB f) l)
  let q (l : Nat) : Int := int32 g.ty (word s (immA g false) l) * int32 g.ty g.imm
  (ReadyFor s h (f.two 2 6) → exec (.mulLo h f) s = computed s h (f.two 2 6) (fun l => (BitVec.ofInt 32 (p l)).toNat)) ∧
  (ReadyFor s h (f.two 0 6) → exec (.mulHi h f) s = computed s h (f.two 0 6) (fun l => (BitVec.ofInt 32 (p l / 4294967296)).toNat)) ∧
  (ReadyFor s h (f.twoP 0 6) → exec (.mulWide h f) s = computed s h (f.twoP 0 6) (fun l => (BitVec.ofInt 64 (p l)).toNat)) ∧
  (ReadyFor s h (g.two 1 6) → exec (.mulLoImm h g) s = computed s h (g.two 1 6) (fun l => (BitVec.ofInt 32 (q l)).toNat)) ∧
  (ReadyFor s h (g.two 0 6) → exec (.mulHiImm h g) s = computed s h (g.two 0 6) (fun l => (BitVec.ofInt 32 (q l / 4294967296)).toNat)) ∧
  (ReadyFor s h (g.twoP 0 6) → exec (.mulWideImm h g) s = computed s h (g.twoP 0 6) (fun l => (BitVec.ofInt 64 (q l)).toNat))

/-- R102: mad clamps or wraps the exact product and sum; mad.wide adds a pair to the 64-bit product; sad, dp4 and dp2 accumulate. -/
def Sys2Proof.Claims.MultiplyAdd : Prop := ∀ (s : State) (h : Hdr) (f : FmtA), is32 f.ty →
  let a (l : Nat) : Word := word s (srcA0 f) l
  let b (l : Nat) : Word := word s (srcB f) l
  let c (l : Nat) : Word := word s (srcC f) l
  let part (n : Nat) (x : Word) (k : Nat) : Int :=
    if f.ty = 0 then (BitVec.extractLsb' (n * k) n x).toInt else (BitVec.extractLsb' (n * k) n x).toNat
  (ReadyFor s h (f.three 0 6) →
    exec (.mad h f) s = computed s h (f.three 0 6) (fun l =>
      (fit32 f.ty (f.sat == 1) (int32 f.ty (a l) * int32 f.ty (b l) + int32 f.ty (c l))).toNat) ∧
    exec (.sad h f) s = computed s h (f.three 0 6) (fun l =>
      (BitVec.ofInt 32 ((int32 f.ty (a l) - int32 f.ty (b l)).natAbs + (c l).toNat)).toNat) ∧
    exec (.dp4 h f) s = computed s h (f.three 0 6) (fun l => (BitVec.ofInt 32 (int32 f.ty (c l) + part 8 (a l) 0 * part 8 (b l) 0 +
      part 8 (a l) 1 * part 8 (b l) 1 + part 8 (a l) 2 * part 8 (b l) 2 + part 8 (a l) 3 * part 8 (b l) 3)).toNat) ∧
    exec (.dp2 h f) s = computed s h (f.three 0 6) (fun l =>
      (BitVec.ofInt 32 (int32 f.ty (c l) + part 16 (a l) 0 * part 16 (b l) 0 + part 16 (a l) 1 * part 16 (b l) 1)).toNat)) ∧
  (ReadyFor s h (f.madWideForm 0 6) → exec (.madWide h f) s = computed s h (f.madWideForm 0 6) (fun l =>
    (BitVec.ofInt 64 (int32 f.ty (a l) * int32 f.ty (b l) + (s.srcVal l (srcA f f.c true)).toNat)).toNat))

/-- R99: min, max, abs, neg and absdiff in the type of the instruction. -/
def Sys2Proof.Claims.MinMaxAbsNeg : Prop := ∀ (s : State) (h : Hdr) (f : FmtA) (g : FmtI), is32 f.ty → is32 g.ty →
  let a (l : Nat) : Int := int32 f.ty (word s (srcA0 f) l)
  let b (l : Nat) : Int := int32 f.ty (word s (srcB f) l)
  let x (l : Nat) : Int := int32 g.ty (word s (immA g false) l)
  (ReadyFor s h (f.two 2 4) →
    exec (.minI h f) s = computed s h (f.two 2 4) (fun l => (BitVec.ofInt 32 (min (a l) (b l))).toNat) ∧
    exec (.maxI h f) s = computed s h (f.two 2 4) (fun l => (BitVec.ofInt 32 (max (a l) (b l))).toNat)) ∧
  (ReadyFor s h (f.two 0 4) →
    exec (.absdiff h f) s = computed s h (f.two 0 4) (fun l => (BitVec.ofInt 32 (a l - b l).natAbs).toNat)) ∧
  (ReadyFor s h (f.one 0 4) →
    exec (.abs h f) s = computed s h (f.one 0 4) (fun l => (fit32 f.ty (f.sat == 1) (a l).natAbs).toNat) ∧
    exec (.neg h f) s = computed s h (f.one 0 4) (fun l => (fit32 f.ty (f.sat == 1) (-(a l))).toNat)) ∧
  (ReadyFor s h (g.two 1 4) →
    exec (.minImm h g) s = computed s h (g.two 1 4) (fun l => (BitVec.ofInt 32 (min (x l) (int32 g.ty g.imm))).toNat) ∧
    exec (.maxImm h g) s = computed s h (g.two 1 4) (fun l => (BitVec.ofInt 32 (max (x l) (int32 g.ty g.imm))).toNat))

/-- R103: lea adds a word shifted left by c bits 5:0 to a pair, or a sign-extended displacement; add64 and sub64 clamp or wrap. -/
def Sys2Proof.Claims.PairArithmetic : Prop := ∀ (s : State) (h : Hdr) (f : FmtA) (g : FmtI),
  let a (l : Nat) : Long := s.srcVal l (srcA f f.a true)
  let b (l : Nat) : Long := s.srcVal l (srcA f f.b true)
  (ReadyFor s h (f.leaForm 0 4) → exec (.lea h f) s = computed s h (f.leaForm 0 4) (fun l =>
    (a l + (word s (srcB f) l).setWidth 64 <<< ((word s (srcC f) l).toNat % 64)).toNat)) ∧
  (ReadyFor s h (g.leaImmForm 0 4) → exec (.leaImm h g) s = computed s h (g.leaImmForm 0 4) (fun l =>
    (s.srcVal l (immA g true) + g.imm.signExtend 64).toNat)) ∧
  (is64 f.ty → ReadyFor s h (f.wide2 0 4) →
    exec (.add64 h f) s = computed s h (f.wide2 0 4) (fun l => (fit64 f.ty (f.sat == 1) (int64 f.ty (a l) + int64 f.ty (b l))).toNat) ∧
    exec (.sub64 h f) s = computed s h (f.wide2 0 4) (fun l => (fit64 f.ty (f.sat == 1) (int64 f.ty (a l) - int64 f.ty (b l))).toNat))

/-- R104, R105: the bitwise operations, sel, mov and the truth table of lop3. -/
def Sys2Proof.Claims.BitwiseLogic : Prop := ∀ (s : State) (h : Hdr) (f : FmtA) (g : FmtI),
  let a (l : Nat) : Word := word s (srcA0 f) l
  let b (l : Nat) : Word := word s (srcB f) l
  let c (l : Nat) : Word := word s (srcC f) l
  let x (l : Nat) : Word := word s (immA g false) l
  (ReadyFor s h (f.two 2 4) →
    exec (.andB h f) s = computed s h (f.two 2 4) (fun l => (a l &&& b l).toNat) ∧
    exec (.orB h f) s = computed s h (f.two 2 4) (fun l => (a l ||| b l).toNat) ∧
    exec (.xorB h f) s = computed s h (f.two 2 4) (fun l => (a l ^^^ b l).toNat)) ∧
  (ReadyFor s h (f.one 0 4) → exec (.notB h f) s = computed s h (f.one 0 4) (fun l => (~~~ (a l)).toNat)) ∧
  (ReadyFor s h (f.three 3 4) →
    exec (.sel h f) s = computed s h (f.three 3 4) (fun l => (if c l = 0 then b l else a l).toNat)) ∧
  (ReadyFor s h (f.three 0 4) → ∃ v : Nat → Word, exec (.lop3 h f) s = computed s h (f.three 0 4) (fun l => (v l).toNat) ∧
    ∀ l k, k < 32 → (v l).getLsbD k = (f.ty ++ f.rnd ++ f.sat).getLsbD
      (((a l).getLsbD k).toNat + 2 * ((b l).getLsbD k).toNat + 4 * ((c l).getLsbD k).toNat)) ∧
  (ReadyFor s h (f.bits2 (if f.ty == 0xE then 1 else 0) 4) →
    exec (.mov h f) s = computed s h (f.bits2 (if f.ty == 0xE then 1 else 0) 4) (fun l => (s.srcVal l (srcA f f.a (f.ty == 0xF))).toNat)) ∧
  (g.ty = 0xE ∨ g.ty = 0xF → ReadyFor s h (g.movImmForm 0 4) → exec (.movImm h g) s = computed s h (g.movImmForm 0 4) (fun _ =>
    if g.ty = 0xF then (g.imm.signExtend 64).toNat else g.imm.toNat)) ∧
  (g.ty = 0xE → ReadyFor s h (g.two 1 4) →
    exec (.andImm h g) s = computed s h (g.two 1 4) (fun l => (x l &&& g.imm).toNat) ∧
    exec (.orImm h g) s = computed s h (g.two 1 4) (fun l => (x l ||| g.imm).toNat) ∧
    exec (.xorImm h g) s = computed s h (g.two 1 4) (fun l => (x l ^^^ g.imm).toNat))

/-- R106: the shifts, rotates and funnel shifts; a shift by 32 or more leaves no bit (sar: the sign), a rotate counts modulo 32. -/
def Sys2Proof.Claims.Shifts : Prop := ∀ (s : State) (h : Hdr) (f : FmtA) (g : FmtI),
  let a (l : Nat) : Word := word s (srcA0 f) l
  let b (l : Nat) : Word := word s (srcB f) l
  let c (l : Nat) : Nat := (word s (srcC f) l).toNat
  let x (l : Nat) : Word := word s (immA g false) l
  (ReadyFor s h (f.two 2 4) →
    exec (.shl h f) s = computed s h (f.two 2 4) (fun l => (a l <<< (b l).toNat).toNat) ∧
    exec (.shr h f) s = computed s h (f.two 2 4) (fun l => (a l >>> (b l).toNat).toNat)) ∧
  (ReadyFor s h (f.two 0 4) →
    exec (.sar h f) s = computed s h (f.two 0 4) (fun l => ((a l).sshiftRight (b l).toNat).toNat) ∧
    exec (.rot h f) s = computed s h (f.two 0 4) (fun l => ((a l).rotateLeft ((b l).toNat % 32)).toNat)) ∧
  (ReadyFor s h (f.three 0 4) →
    exec (.shfL h f) s = computed s h (f.three 0 4) (fun l => (BitVec.extractLsb' 32 32 ((b l ++ a l) <<< (min (c l) 32))).toNat) ∧
    exec (.shfR h f) s = computed s h (f.three 0 4) (fun l => (BitVec.extractLsb' 0 32 ((b l ++ a l) >>> (min (c l) 32))).toNat)) ∧
  (g.ty = 0xE → ReadyFor s h (g.two 1 4) →
    exec (.shlImm h g) s = computed s h (g.two 1 4) (fun l => (x l <<< g.imm.toNat).toNat) ∧
    exec (.shrImm h g) s = computed s h (g.two 1 4) (fun l => (x l >>> g.imm.toNat).toNat)) ∧
  (g.ty = 0xE → ReadyFor s h (g.two 0 4) →
    exec (.sarImm h g) s = computed s h (g.two 0 4) (fun l => ((x l).sshiftRight g.imm.toNat).toNat) ∧
    exec (.rotImm h g) s = computed s h (g.two 0 4) (fun l => ((x l).rotateLeft (g.imm.toNat % 32)).toNat))

/-- R107, R108, R109: bit fields, bit reversal and counts, and the byte permutation, bit by bit. -/
def Sys2Proof.Claims.BitFields : Prop := ∀ (s : State) (h : Hdr) (f : FmtA),
  let a (l : Nat) : Word := word s (srcA0 f) l
  let b (l : Nat) : Word := word s (srcB f) l
  let c (l : Nat) : Word := word s (srcC f) l
  let wide : Bool := f.ty == 0xF
  let width : Nat := if wide then 64 else 32
  let y (l : Nat) : Long := s.srcVal l (srcA f f.a wide)
  (ReadyFor s h (f.two 0 4) → ∃ v : Nat → Word, exec (.bfe h f) s = computed s h (f.two 0 4) (fun l => (v l).toNat) ∧ ∀ l k, k < 32 →
    let p := (b l).toNat % 256
    let len := min ((b l).toNat / 256 % 256) 32
    let bitAt (i : Nat) : Bool := if i < 32 then (a l).getLsbD i else f.ty == 0 && (a l).getLsbD 31
    (v l).getLsbD k = if k < len then bitAt (p + k) else len != 0 && f.ty == 0 && bitAt (p + len - 1)) ∧
  (ReadyFor s h (f.three 0 4) → ∃ v : Nat → Word, exec (.bfi h f) s = computed s h (f.three 0 4) (fun l => (v l).toNat) ∧ ∀ l k, k < 32 →
    let p := (c l).toNat % 256
    let len := min ((c l).toNat / 256 % 256) 32
    (v l).getLsbD k = if p ≤ k ∧ k < p + len then (a l).getLsbD (k - p) else (b l).getLsbD k) ∧
  (ReadyFor s h (f.three 0 4) → ∃ v : Nat → Word, exec (.prmt h f) s = computed s h (f.three 0 4) (fun l => (v l).toNat) ∧ ∀ l j, j < 4 →
    let byte : BitVec 8 := BitVec.extractLsb' (8 * ((c l).toNat / 2 ^ (3 * j) % 8)) 8 (b l ++ a l)
    BitVec.extractLsb' (8 * j) 8 (v l) =
      if (c l).getLsbD (16 + j) then 0 else if (c l).getLsbD (12 + j) then (if byte.msb then 255 else 0) else byte) ∧
  (ReadyFor s h (f.bits2 0 4) → ∃ v : Nat → Long, exec (.brev h f) s = computed s h (f.bits2 0 4) (fun l => (v l).toNat) ∧
    ∀ l k, (v l).getLsbD k = (decide (k < width) && (y l).getLsbD (width - 1 - k))) ∧
  (ReadyFor s h (f.bits1 0 4) → ∃ v w z : Nat → Nat, exec (.popc h f) s = computed s h (f.bits1 0 4) v ∧
    exec (.clz h f) s = computed s h (f.bits1 0 4) w ∧ exec (.ctz h f) s = computed s h (f.bits1 0 4) z ∧
    ∀ l, v l = ((List.range width).filter (fun k => (y l).getLsbD k)).length ∧
      (w l ≤ width ∧ (∀ k, k < w l → (y l).getLsbD (width - 1 - k) = false) ∧ (w l < width → (y l).getLsbD (width - 1 - w l) = true)) ∧
      (z l ≤ width ∧ (∀ k, k < z l → (y l).getLsbD k = false) ∧ (z l < width → (y l).getLsbD (z l) = true)))

/-- R110: cmp writes all ones and setc one where the condition of Table 04-4 holds, and zero elsewhere, on each integer type. -/
def Sys2Proof.Claims.Compare : Prop := ∀ (s : State) (h : Hdr) (v : BitVec 5) (f : FmtA) (g : FmtI), v.toNat ≤ 5 →
  (is32 f.ty ∨ is64 f.ty) → (is32 g.ty ∨ is64 g.ty) →
  let holds (x y : Int) : Prop := match v.toNat with
    | 0 => x = y
    | 1 => x ≠ y
    | 2 => x < y
    | 3 => x ≤ y
    | 4 => x > y
    | _ => x ≥ y
  let val (ty : BitVec 4) (x : Src) (l : Nat) : Int := if ty.toNat < 2 then int32 ty (word s x l) else int64 ty (s.srcVal l x)
  let p (l : Nat) : Prop := holds (val f.ty (srcA f f.a (typeIs64 f.ty.toNat)) l) (val f.ty (srcA f f.b (typeIs64 f.ty.toNat)) l)
  let q (l : Nat) : Prop := holds (val g.ty (immA g (typeIs64 g.ty.toNat)) l)
    (if g.ty.toNat < 2 then int32 g.ty g.imm else if g.ty = 2 then (g.imm.signExtend 64).toInt else g.imm.toNat)
  ∃ r c x y : Nat → Nat,
    (ReadyFor s h (f.cmpForm 0 4) → exec (.cmp h v f) s = computed s h (f.cmpForm 0 4) r ∧ exec (.setc h v f) s = computed s h (f.cmpForm 0 4) c) ∧
    (ReadyFor s h (g.cmpForm 0 4) → exec (.cmpImm h v g) s = computed s h (g.cmpForm 0 4) x ∧ exec (.setcImm h v g) s = computed s h (g.cmpForm 0 4) y) ∧
    ∀ l, (p l → r l = 4294967295 ∧ c l = 1) ∧ (¬ p l → r l = 0 ∧ c l = 0) ∧ (q l → x l = 4294967295 ∧ y l = 1) ∧ (¬ q l → x l = 0 ∧ y l = 0)

/-- What a float or convert form leaves: its result under way; threads with an enabled trap are held until it is written (R344). -/
def Sys2Proof.Claims.floatIssued (s : State) (h : Hdr) (i : Instr) (fm : Form) (ev : Eval) : Host.Outcome State Fault Refusal :=
  let t := issued s h fm.lat (resultOf s h fm ev (s.active h))
  let held := maskOf ((lanesOf s.cur.lanes).filter (fun l => (s.thread s.cur.core s.cur.slot l).fpctl != 0))
  .next (if held = 0 then t else t.hold held i s.fresh 6)

/-- R115-R119, R50: every f32 instruction of fixed latency puts its result of each active lane under way, with the exceptions it raises,
and its threads go on. -/
def Sys2Proof.Claims.SinglePrecisionIssue : Prop := ∀ (s : State) (h : Hdr) (v : BitVec 5) (f : FmtA),
  let one (n : Nat) : Form := { f.one n 4 with fpu := true }
  let two (n : Nat) : Form := { f.two n 4 with fpu := true }
  let three (n : Nat) : Form := { f.three n 4 with fpu := true }
  (ReadyFor s h (two 2) → exec (.fadd h f) s = floatIssued s h (.fadd h f) (two 2) (evalFadd f) ∧
    exec (.fmul h f) s = floatIssued s h (.fmul h f) (two 2) (evalFmul f) ∧
    exec (.fmin h f) s = floatIssued s h (.fmin h f) (two 2) (evalFmin f) ∧
    exec (.fmax h f) s = floatIssued s h (.fmax h f) (two 2) (evalFmax f)) ∧
  (ReadyFor s h (two 0) → exec (.fsub h f) s = floatIssued s h (.fsub h f) (two 0) (evalFsub f) ∧
    exec (.fcmp h v f) s = floatIssued s h (.fcmp h v f) (two 0) (evalFcmp v f) ∧
    exec (.fscale h f) s = floatIssued s h (.fscale h f) (two 0) (evalFscale f)) ∧
  (ReadyFor s h (three 3) → exec (.ffma h f) s = floatIssued s h (.ffma h f) (three 3) (evalFfma f)) ∧
  (ReadyFor s h (one 0) → exec (.fclass h f) s = floatIssued s h (.fclass h f) (one 0) (evalFclass f) ∧
    exec (.frint h f) s = floatIssued s h (.frint h f) (one 0) (evalFrint f) ∧
    exec (.ffrac h f) s = floatIssued s h (.ffrac h f) (one 0) (evalFfrac f) ∧
    exec (.fgetexp h f) s = floatIssued s h (.fgetexp h f) (one 0) (evalFgetexp f))

/-- R115, R122-R125, R50: the same of the f64, two-element and convert instructions. -/
def Sys2Proof.Claims.OtherPrecisionsAndConvertIssue : Prop := ∀ (s : State) (h : Hdr) (v : BitVec 5) (f : FmtA),
  let pair2 : Form := { f.wide2 0 8 with fpu := true }
  let pair3 : Form := { f.wide3 0 8 with fpu := true }
  let two (n : Nat) : Form := { f.two n 4 with fpu := true }
  let three (n : Nat) : Form := { f.three n 4 with fpu := true }
  let cv : Form := { f.cvtForm v.toNat (if homeCvt v.toNat f.ty.toNat then 1 else 0) 6 with fpu := true }
  let pk : Form := { f.pk4Form 0 6 with fpu := true }
  let up : Form := { f.oneP 0 6 with fpu := true }
  (ReadyFor s h pair2 → exec (.dadd h f) s = floatIssued s h (.dadd h f) pair2 (evalDadd f) ∧
    exec (.dmul h f) s = floatIssued s h (.dmul h f) pair2 (evalDmul f)) ∧
  (ReadyFor s h pair3 → exec (.dfma h f) s = floatIssued s h (.dfma h f) pair3 (evalDfma f)) ∧
  (ReadyFor s h (two 0) → exec (.hadd2 h f) s = floatIssued s h (.hadd2 h f) (two 0) (evalHadd2 f) ∧
    exec (.hmul2 h f) s = floatIssued s h (.hmul2 h f) (two 0) (evalHmul2 f)) ∧
  (ReadyFor s h (three 0) → exec (.hfma2 h f) s = floatIssued s h (.hfma2 h f) (three 0) (evalHfma2 f)) ∧
  (ReadyFor s h (two 2) → exec (.bfadd2 h f) s = floatIssued s h (.bfadd2 h f) (two 2) (evalBfadd2 f)) ∧
  (ReadyFor s h (three 3) → exec (.bfma2 h f) s = floatIssued s h (.bfma2 h f) (three 3) (evalBfma2 f)) ∧
  (ReadyFor s h cv → exec (.cvt h v f) s = floatIssued s h (.cvt h v f) cv (evalCvt v f) ∧
    exec (.cvtSr h v f) s = floatIssued s h (.cvtSr h v f) cv (evalCvtSr v f)) ∧
  (ReadyFor s h pk → exec (.pk4 h f) s = floatIssued s h (.pk4 h f) pk (evalPk4 f)) ∧
  (ReadyFor s h up → exec (.upk4 h f) s = floatIssued s h (.upk4 h f) up (evalUpk4 f))

/-- R120, R121: a special function puts its result under way, due within 40 cycles, and its threads go on. -/
def Sys2Proof.Claims.SpecialFunctionIssue : Prop := ∀ (s : State) (h : Hdr) (f : FmtA), ReadyFor s h (f.one 0 0) →
  let t (ev : Eval) : State := (s.takeToken h).addPend
    { resultOf s h { f.one 0 0 with fpu := true } ev (s.active h) with kind := 1 }
  let goes (o : Host.Outcome State Fault Refusal) (ev : Eval) : Prop := ∃ n, 1 ≤ n ∧ n ≤ 40 ∧
    o = .next (((t ev).inCycles s.cur.core n (.specialFunctionCompletion s.fresh)).retireSeq h)
  goes (exec (.frcp h f) s) evalFrcp ∧ goes (exec (.frsq h f) s) evalFrsq ∧ goes (exec (.fsqrt h f) s) evalFsqrt ∧ goes (exec (.fsin h f) s) evalFsin ∧
  goes (exec (.fcos h f) s) evalFcos ∧ goes (exec (.fex2 h f) s) evalFex2 ∧ goes (exec (.flg2 h f) s) evalFlg2 ∧ goes (exec (.ftanh h f) s) evalFtanh

/-- Table 05-2: a 32-bit word that is an f32 NaN, and a signalling one. -/
def Sys2Proof.Claims.isNaN (x : Nat) : Prop := x / 8388608 % 256 = 255 ∧ x % 8388608 ≠ 0
def Sys2Proof.Claims.isSignalling (x : Nat) : Prop := isNaN x ∧ x / 4194304 % 2 = 0

/-- R79, R78: the first NaN among the sources of fadd, fsub, fmul and ffma is the result, made quiet; invalid is raised when a source is a
signalling NaN. -/
def Sys2Proof.Claims.NaNPropagation : Prop := ∀ (f : FmtA) (fin fout : Bool) (a b c : Nat), a < 2 ^ 32 → b < 2 ^ 32 → c < 2 ^ 32 → f.sat = 0 →
  let quiet (x : Nat) : Nat := if x / 4194304 % 2 = 1 then x else x + 4194304
  let gives (r : FRes) (x : Nat) : Prop := r.bits = quiet x
  (isNaN a → gives (evalFadd f fin fout [a, b]) a ∧ gives (evalFsub f fin fout [a, b]) a ∧ gives (evalFmul f fin fout [a, b]) a ∧
    gives (evalFfma f fin fout [a, b, c]) a) ∧
  (¬ isNaN a → isNaN b → gives (evalFadd f fin fout [a, b]) b ∧ gives (evalFsub f fin fout [a, b]) b ∧ gives (evalFmul f fin fout [a, b]) b ∧
    gives (evalFfma f fin fout [a, b, c]) b) ∧
  (¬ isNaN a → ¬ isNaN b → isNaN c → gives (evalFfma f fin fout [a, b, c]) c) ∧
  (isNaN a ∨ isNaN b → (evalFadd f fin fout [a, b]).flags.getLsbD 0 = (decide (a / 4194304 % 512 = 510 ∧ a % 4194304 ≠ 0) ||
    decide (b / 4194304 % 512 = 510 ∧ b % 4194304 ≠ 0)))

namespace Sys2Proof.Claims

/-- An issue that has not waited, of a group that stands in its slot. -/
def First (s : State) : Prop := s.cur.phase = 0 ∧ s.cur.nums = [] ∧ s.cur.caps = [] ∧ s.cur.slots = [] ∧ s.cur.failed = [] ∧ s.hasGroup s.cur.core s.cur.slot = true

/-- A lane of the group that issues. -/
def mine (s : State) (l : Nat) : Thread := s.thread s.cur.core s.cur.slot l

/-- Memory, host memory, and the threads of every other group stand as before. -/
def Elsewhere (s t : State) : Prop := t.mem = s.mem ∧ t.hostMem = s.hostMem ∧
  ∀ c q, gkey c q ≠ gkey s.cur.core s.cur.slot → (t.group c q).threads = (s.group c q).threads

/-- The threads of the issue stand at p with their stall countdown begun (where they have not waited, R42), changed by e; every other thread
of the group stands as before (came tells that a transfer brought a thread to its position, R400), and the workgroup counts one more retired group-instruction (R38, R133, R392). -/
def Advanced (s t : State) (h : Hdr) (p : Nat → Long) (e : Nat → Thread → Thread) : Prop :=
  (t.wg s.curWg).rwc = (s.wg s.curWg).rwc + 1 ∧
  ∀ l, l < (s.group s.cur.core s.cur.slot).threads.length → t.thread s.cur.core s.cur.slot l =
    if s.cur.lanes.getLsbD l then e l { mine s l with pos := p l, came := decide (p l ≠ seqPos s.cur.pos), stall := if s.cur.phase = 0 then h.stall.toNat else (mine s l).stall } else mine s l

/-- The issue advances and everything elsewhere stands as before. -/
def Moved (s t : State) (h : Hdr) (p : Nat → Long) (e : Nat → Thread → Thread) : Prop := Elsewhere s t ∧ Advanced s t h p e

/-- The issue goes on at the sequential successor and changes nothing of its threads. -/
def Passed (s t : State) (h : Hdr) : Prop := Moved s t h (fun _ => seqPos s.cur.pos) (fun _ x => x)

/-- The outcome is a state in which the issue has passed, and of which more holds. -/
def PassesTo (s : State) (h : Hdr) (o : Host.Outcome State Fault Refusal) (more : State → Prop) : Prop := ∃ t, o = .next t ∧ Passed s t h ∧ more t

/-- A group's active threads begin to wait for c, at their instruction; its other threads go on (R142). -/
def Waits (s t : State) (h : Hdr) (c : WaitCond) : Prop :=
  Elsewhere s t ∧ (t.wg s.curWg).rwc = (s.wg s.curWg).rwc ∧
  (∃ w, (t.group s.cur.core s.cur.slot).waits = (s.group s.cur.core s.cur.slot).waits ++ [w] ∧ w.cond = c ∧ w.iss.lanes = s.active h) ∧
  ∀ l, l < (s.group s.cur.core s.cur.slot).threads.length → t.thread s.cur.core s.cur.slot l = if s.cur.lanes.getLsbD l then
    { mine s l with pos := if (s.active h).getLsbD l then (mine s l).pos else seqPos s.cur.pos, came := (s.active h).getLsbD l && (mine s l).came, stall := h.stall.toNat } else mine s l

/-- The tokens of the issuing group stand as before (R142). -/
def TokensKept (s t : State) : Prop :=
  ∀ k, (t.group s.cur.core s.cur.slot).token k = (s.group s.cur.core s.cur.slot).token k

/-- The instruction retires, its threads at p and changed by e. -/
def Retires (s : State) (h : Hdr) (o : Host.Outcome State Fault Refusal) (p : Nat → Long) (e : Nat → Thread → Thread) : Prop :=
  ∃ t, o = .next t ∧ Moved s t h p e ∧ TokensKept s t

/-- R334, Table 20-3: the group stops with every thread of the issue at its instruction and its trap registers written; nothing retires, and
a workgroup not halted before keeps the record. -/
def Stops (s t : State) (kind : Nat) (lanes : BitVec 32) (code : Nat) (tv : Long) : Prop :=
  Elsewhere s t ∧ (t.wg s.curWg).rwc = (s.wg s.curWg).rwc ∧ (t.group s.cur.core s.cur.slot).stopped = true ∧
  (∀ l, l < (s.group s.cur.core s.cur.slot).threads.length → t.thread s.cur.core s.cur.slot l =
    if s.cur.lanes.getLsbD l then
      { mine s l with tcause := BitVec.ofNat 32 code, tlanes := lanes, tpc := s.cur.pos, tvalue := tv } else mine s l) ∧
  ((s.wg s.curWg).halt = none → (t.wg s.curWg).halt = some { code := code, kind := kind, group := (s.group s.cur.core s.cur.slot).idx, pathB := s.cur.path == 1, lanes := lanes, pos := s.cur.pos, tvalue := tv, time := s.tick })

/-- Table 02-3: a position passes the checks of a control transfer. -/
def Passes (s : State) (p : Long) : Prop := ∃ b, s.targetCheck (s.launchOfWg s.curWg) p = .ok b

/-- R143: a position that a branch or a call may go on at: the sequential successor, which is not checked, or one that passes. -/
def Reaches (s : State) (p : Long) : Prop := p = seqPos s.cur.pos ∨ Passes s p

/-- R36: a target's line fails its parity, and the core has not fetched it again. -/
def Mismatch (s : State) (p : Long) : Prop := s.targetCheck (s.launchOfWg s.curWg) p = .fault 0x03 none ∧
  lineReservedOk (s.lineWordAt (s.launchOfWg s.curWg) p) = true ∧
  s.refetched s.cur.core (s.launchOfWg s.curWg) (p.toNat / 64 * 64) 5 = false

/-- R39, R143: lane l is the first of act whose target may not be gone to: its line word has been fetched anew where that can help, and a check
of it fails with a code. -/
def FailsAt (s : State) (act : BitVec 32) (ok : Long → Prop) (tgt : Nat → Long) (l code : Nat) : Prop :=
  l ∈ lanesOf act ∧ ¬ ok (tgt l) ∧ ¬ Mismatch s (tgt l) ∧ (∃ bad, s.targetCheck (s.launchOfWg s.curWg) (tgt l) = .fault code bad) ∧
  ∀ k ∈ lanesOf act, k < l → ok (tgt k)

/-- R46: the target in a line off lines away. -/
def branchTo (f : FmtB) (p : Long) : Long := BitVec.ofInt 64 ((p.toNat / 64 * 64 : Nat) + 64 * f.off.toInt + f.slot.toNat)

/-- The active lanes at p, the others at the sequential successor. -/
def goes (s : State) (h : Hdr) (p : Nat → Long) (l : Nat) : Long := if (s.active h).getLsbD l then p l else seqPos s.cur.pos

end Sys2Proof.Claims

/-- R39, Table 02-3: the checks of a control transfer's target, in their order: slot and alignment (CODE_ALIGN 0x04), the 57-bit range,
translation and executability (ACCESS 0x08), the line word (LINE_WORD 0x03), and the entry mask (ENTRY 0x05). -/
def Obligations.ControlTargetChecks : Prop := ∀ (s : State) (l : Nat) (p : Long),
  let r := s.targetCheck l p
  let walk := s.walk (s.launch l).ctx (p.toNat / 64 * 64)
  let aligned : Prop := p.toNat / 8 % 8 = 0 ∧ p.toNat % 8 ≤ 4
  (¬ aligned → r = .fault 0x04 none) ∧
  (aligned → 2 ^ 57 ≤ p.toNat → r = .fault 0x08 none) ∧
  (aligned → p.toNat < 2 ^ 57 →
    (∀ lv, walk = .absent lv → r = .absent) ∧
    (∀ lv, walk = .bad lv → r = .fault 0x08 (some lv)) ∧
    (∀ pa e, walk = .ok pa e →
      (e.testBit 4 = false → r = .fault 0x08 none) ∧
      (e.testBit 4 = true → leafHostOwned e = false → s.inDebugArea (s.launch l).ctx (p.toNat / 64 * 64) = false →
        let b := s.lineBytes l pa
        (lineParityOk (lineWord b) = false → r = .fault 0x03 none) ∧
        (lineReservedOk (lineWord b) = true → lineParityOk (lineWord b) = true →
          r = if (lineEntry (lineWord b)).getLsbD (p.toNat % 8) then .ok b else .fault 0x05 none))))

/-- R143, R46: bra, brz, brnz and brx move the lanes they take to their target, which is checked unless it is the sequential successor, and the others to the
sequential successor. -/
def Sys2Proof.Claims.Branches : Prop := ∀ (s : State) (h : Hdr) (f : FmtB), First s →
  let r := f.cond.toNat
  let act := s.active h
  let tgt := branchTo f s.cur.pos
  (Reaches s tgt → Retires s h (exec (.bra h f) s) (goes s h (fun _ => tgt)) (fun _ t => t)) ∧
  (Reaches s tgt → Ready s act [.reg r] [] [] →
    Retires s h (exec (.brz h f) s) (goes s h (fun l => if s.selWord l r = 0 then tgt else seqPos s.cur.pos)) (fun _ t => t) ∧
    Retires s h (exec (.brnz h f) s) (goes s h (fun l => if s.selWord l r = 0 then seqPos s.cur.pos else tgt)) (fun _ t => t)) ∧
  (Ready s act [.pair r] [] [] → (∀ l ∈ lanesOf act, Reaches s (s.selPair l r)) →
    Retires s h (exec (.brx h f) s) (goes s h (fun l => s.selPair l r)) (fun _ t => t))

/-- R143, R144, R145, R22: call and callx push the sequential successor on the return stack, ret pops it. -/
def Sys2Proof.Claims.CallsAndReturn : Prop :=
  (∀ (s : State) (h : Hdr) (f : FmtB), First s →
    let r := f.cond.toNat
    let act := s.active h
    let tgt := branchTo f s.cur.pos
    let push (l : Nat) (t : Thread) : Thread := if act.getLsbD l then
      { t.setRet (mine s l).depth (seqPos s.cur.pos) with depth := (mine s l).depth + 1 } else t
    let pop (l : Nat) (t : Thread) : Thread := if act.getLsbD l then { t with depth := (mine s l).depth - 1 } else t
    ((∀ l ∈ lanesOf act, (mine s l).depth < 32) → Reaches s tgt →
      Retires s h (exec (.call h f) s) (goes s h (fun _ => tgt)) push) ∧
    ((∀ l ∈ lanesOf act, (mine s l).depth < 32) → Ready s act [.pair r] [] [] → (∀ l ∈ lanesOf act, Reaches s (s.selPair l r)) →
      Retires s h (exec (.callx h f) s) (goes s h (fun l => s.selPair l r)) push) ∧
    (s.badReturn act = none → (∀ l ∈ lanesOf act, (mine s l).depth ≠ 0 ∧ Passes s ((mine s l).ret ((mine s l).depth - 1))) →
      Retires s h (exec (.ret h f) s) (goes s h (fun l => (mine s l).ret ((mine s l).depth - 1))) pop)) ∧
  ∀ (t : Thread) (d : Nat) (p : Long), (t.setRet d p).ret d = p ∧ (∀ e, e ≠ d → (t.setRet d p).ret e = t.ret e) ∧
    ∀ a, a < 768 → tblGet 0 (t.setRet d p).lp a = tblGet 0 t.lp a

/-- R36, R39, R142, R143, R144, R145, R152, R350: a control transfer whose target fails a check, a call at depth 32, a return at depth 0 or through
an uncorrectable entry, and an rti outside a handler are precise faults at the instruction: no thread moves. Of several lanes the lowest whose target fails decides, and sr.tvalue
is that target whichever check fails: the model's choice (assumption log 15). A target line that fails its parity
is first fetched once more, while the threads wait at the transfer. -/
def Obligations.ControlFaults : Prop := ∀ (s : State) (h : Hdr) (f : FmtB) (g : FmtS), First s → s.active h ≠ 0 →
  let r := f.cond.toNat
  let tgt := branchTo f s.cur.pos
  let act := s.active h
  let stops (o : Host.Outcome State Fault Refusal) (code : Nat) (tv : Long) : Prop := ∃ t, o = .next t ∧ Stops s t 0 act code tv
  let shallow : Prop := ∀ l ∈ lanesOf act, (mine s l).depth < 32
  let onZero (l : Nat) : Long := if s.selWord l r = 0 then tgt else seqPos s.cur.pos
  let onOther (l : Nat) : Long := if s.selWord l r = 0 then seqPos s.cur.pos else tgt
  let back (l : Nat) : Long := (mine s l).ret ((mine s l).depth - 1)
  (∀ l code,
    (FailsAt s act (Reaches s) (fun _ => tgt) l code → stops (exec (.bra h f) s) code tgt ∧ (shallow → stops (exec (.call h f) s) code tgt)) ∧
    (Ready s act [.reg r] [] [] →
      (FailsAt s act (Reaches s) onZero l code → stops (exec (.brz h f) s) code tgt) ∧
      (FailsAt s act (Reaches s) onOther l code → stops (exec (.brnz h f) s) code tgt)) ∧
    (Ready s act [.pair r] [] [] → FailsAt s act (Reaches s) (fun l => s.selPair l r) l code →
      stops (exec (.brx h f) s) code (s.selPair l r) ∧ (shallow → stops (exec (.callx h f) s) code (s.selPair l r))) ∧
    (s.badReturn act = none → (∀ k ∈ lanesOf act, (mine s k).depth ≠ 0) → FailsAt s act (Passes s) back l code →
      stops (exec (.ret h f) s) code (back l)) ∧
    ((∀ k ∈ lanesOf act, (mine s k).inHandler = true) → FailsAt s act (Passes s) (fun k => (mine s k).resume) l code →
      stops (exec (.rti h g) s) code (mine s l).resume)) ∧
  (tgt ≠ seqPos s.cur.pos → Mismatch s tgt → ∃ t w, exec (.bra h f) s = .next t ∧ Elsewhere s t ∧
    (t.group s.cur.core s.cur.slot).waits = (s.group s.cur.core s.cur.slot).waits ++ [w] ∧ w.iss.lanes = s.cur.lanes ∧ w.row = 8 ∧
    w.cond = .refetch (s.launchOfWg s.curWg) (tgt.toNat / 64 * 64) ∧
    t.refetching s.cur.core (s.launchOfWg s.curWg) (tgt.toNat / 64 * 64) = true ∧ ∀ l, (t.thread s.cur.core s.cur.slot l).pos = (mine s l).pos) ∧
  ((∃ l ∈ lanesOf act, 32 ≤ (mine s l).depth) → stops (exec (.call h f) s) 0x19 32 ∧
    (Ready s act [.pair r] [] [] → stops (exec (.callx h f) s) 0x19 32)) ∧
  (s.badReturn act = none → (∃ l ∈ lanesOf act, (mine s l).depth = 0) → stops (exec (.ret h f) s) 0x19 0) ∧
  (∀ b, s.badReturn act = some b → ∃ t, exec (.ret h f) s = .next t ∧ t.mcNext = s.mcNext + 1 ∧ (t.group s.cur.core s.cur.slot).stopped = true ∧
    ∀ l, l < (s.group s.cur.core s.cur.slot).threads.length → t.thread s.cur.core s.cur.slot l = if s.cur.lanes.getLsbD l then
      { mine s l with tcause := 0x12, tlanes := act, tpc := s.cur.pos, tvalue := BitVec.ofNat 64 s.mcNext } else mine s l) ∧
  ((∃ l ∈ lanesOf act, (mine s l).inHandler = false) → stops (exec (.rti h g) s) 0x01 0)

/-- R126, R146, R147: nop only advances; exit ends its active threads and empties their registers; at the end of a cycle of its core a group whose threads have all
ended leaves its slot; yield makes its threads wait at most 64 cycles; YIELD_TIMEOUT ends that wait. -/
def Sys2Proof.Claims.NopExitYield : Prop :=
  (∀ (s : State) (h : Hdr) (f : FmtS) (b : FmtB), First s →
    let act := s.active h
    let next (_ : Nat) : Long := seqPos s.cur.pos
    Retires s h (exec (.nop h f) s) next (fun _ t => t) ∧
    (act = 0 → Retires s h (exec (.yield h f) s) next (fun _ t => t)) ∧
    (act ≠ 0 → ∃ t w, exec (.yield h f) s = .next t ∧ Moved s t h next (fun _ t => t) ∧
      (t.group s.cur.core s.cur.slot).waits = (s.group s.cur.core s.cur.slot).waits ++ [w] ∧ w.iss.lanes = act ∧
      w.cond = .yield ((s.core s.cur.core).cycles + 64) ∧
      ⟨s.cur.core + 1, (s.core s.cur.core).cycles + 64, .yieldTimeout s.cur.core s.cur.slot w.id⟩ ∈ t.timers) ∧
    Retires s h (exec (.exitI h b) s) next (fun l t => if act.getLsbD l then { t with exited := true, regs := [] } else t)) ∧
  (∀ (s : State) (core slot : Nat), slot < 128 → (s.leaveSlots core).mem = s.mem ∧
    (((s.group core slot).threads.all (fun t => t.exited) = true → (s.leaveSlots core).hasGroup core slot = false) ∧
      ((s.group core slot).threads.all (fun t => t.exited) = false → (s.leaveSlots core).group core slot = s.group core slot))) ∧
  ∀ (s : State) (core slot id : Nat), s.hasGroup core slot = true → ∃ t, exec (.yieldTimeout core slot id) s = .next t ∧
    (t.group core slot).waits = (s.group core slot).waits.filter (fun w => w.id ≠ id) ∧
    (t.group core slot).threads = (s.group core slot).threads

/-- R153: pset tests a register against zero; pand, por and pxor combine two predicates, each inverted where its modifier bit says so; pnot
inverts one: each active lane's predicate is written 2 cycles after issue. -/
def Sys2Proof.Claims.Predicates : Prop := ∀ (s : State) (h : Hdr) (f : FmtI),
  let act := s.active h
  let d := f.dst.toNat
  let ds := if d = 7 then [] else [d]
  let p (l n : Nat) : Bool := n == 7 || (mine s l).preds.getLsbD n
  let a (l : Nat) : Bool := p l f.a.toNat ^^ f.modi.getLsbD 3
  let b (l : Nat) : Bool := p l (f.modi.toNat % 8) ^^ f.modi.getLsbD 4
  let wrote (v : Nat → Bool) : Host.Outcome State Fault Refusal := .next (issued s h 2
    { core := s.cur.core, slot := s.cur.slot, kind := 0, path := s.cur.path, lanes := s.cur.lanes, act := act, pos := s.cur.pos,
      tok := h.tok.toNat, preds := (lanesOf act).map (fun l => (l, d, v l)) })
  First s →
  (Ready s act [.reg f.a.toNat] [] ds → exec (.pset h f) s = wrote (fun l => (s.selWord l f.a.toNat == 0) == (f.modi == 1))) ∧
  (Ready s act [] [] ds →
    exec (.pand h f) s = wrote (fun l => a l && b l) ∧ exec (.por h f) s = wrote (fun l => a l || b l) ∧
    exec (.pxor h f) s = wrote (fun l => a l ^^ b l) ∧ exec (.pnot h f) s = wrote (fun l => !(p l f.a.toNat)))

/-- R151, R342, R343, R345, R152, R386: TAKING A USER TRAP AND RETURNING. trap (and brk) with a handler writes the resume position and the trap registers
and stands its active threads at the handler's entry; without one it is a fault at the instruction, or for brk in a context with debug
a debug stop past it; halt in a context with debug stops past it; rti goes on at the resume position outside the handler. -/
def Sys2Proof.Claims.UserTrapEntryAndReturn : Prop := ∀ (s : State) (h : Hdr) (f : FmtS), First s →
  let act := s.active h
  let kr := (s.launch (s.launchOfWg s.curWg)).kr
  let debug := (s.ctx s.curCtx).debug
  let next (_ : Nat) : Long := seqPos s.cur.pos
  let enters (entry code : Nat) (l : Nat) (t : Thread) : Thread := if act.getLsbD l then
    { t with resume := seqPos s.cur.pos, inHandler := true, tcause := BitVec.ofNat 32 code, tlanes := act, tpc := s.cur.pos,
             tvalue := f.imm.setWidth 64, pos := BitVec.ofNat 64 entry, entering := true, came := true, stall := 0 } else t
  let stopsPast (i : Instr) (code : Nat) : Prop := ∃ t, exec i s = .next t ∧ (t.group s.cur.core s.cur.slot).stopped = true ∧
    Moved s t h next (fun l t => if act.getLsbD l then
      { t with tcause := BitVec.ofNat 32 code, tlanes := act, tpc := s.cur.pos, tvalue := f.imm.setWidth 64 } else t)
  act ≠ 0 →
  ((∀ l ∈ lanesOf act, (mine s l).inHandler = false) →
    (kr.traps.getD 1 0 ≠ 0 → ∃ t, exec (.trapI h f) s = .next t ∧ Moved s t h next (enters (kr.traps.getD 1 0) 0x16)) ∧
    (kr.traps.getD 2 0 ≠ 0 → ∃ t, exec (.brk h f) s = .next t ∧ Moved s t h next (enters (kr.traps.getD 2 0) 0x14)) ∧
    (kr.traps.getD 1 0 = 0 → ∃ t, exec (.trapI h f) s = .next t ∧ Stops s t 0 act 0x16 (f.imm.setWidth 64)) ∧
    (kr.traps.getD 2 0 = 0 → debug = true → stopsPast (.brk h f) 0x14)) ∧
  (debug = true → stopsPast (.haltI h f) 0) ∧
  (debug = false → Retires s h (exec (.haltI h f) s) next (fun _ t => t)) ∧
  ((∀ l ∈ lanesOf act, (mine s l).inHandler = true ∧ Passes s (mine s l).resume) →
    Retires s h (exec (.rti h f) s) (goes s h (fun l => (mine s l).resume))
      (fun l t => if act.getLsbD l then { t with inHandler := false } else t))

/-- R409, R410, R386, R387: prog adds the number of its active lanes to a progress counter of the context; tmark retires and changes no thread
beside; rfe makes the debug-stopped workgroup its lane names eligible again, and does nothing with a word that names none. -/
def Sys2Proof.Claims.ProgressMarksAndResume : Prop := ∀ (s : State) (h : Hdr) (f : FmtS), First s →
  let next (_ : Nat) : Long := seqPos s.cur.pos
  let act := s.active h
  let named (l : Nat) : Option Nat := (s.target (s.selPair l f.a.toNat).toNat).filter (fun w => s.debugStopped w)
  (∃ t, exec (.prog h f) s = .next t ∧ Moved s t h next (fun _ t => t) ∧ ∀ k, tblGet 0 (t.ctx s.curCtx).progress k =
    tblGet 0 (s.ctx s.curCtx).progress k + if k = f.imm.toNat % 16 then BitVec.ofNat 64 (lanesOf act).length else 0) ∧
  (∃ t, exec (.tmark h f) s = .next t ∧ Moved s t h next (fun _ t => t)) ∧
  (Ready s act [.pair f.a.toNat] [] [] →
    ((∀ l ∈ lanesOf act, named l = none) → Retires s h (exec (.rfe h f) s) next (fun _ t => t)) ∧
    ∀ l w, lanesOf act = [l] → named l = some w → ∃ t, exec (.rfe h f) s = .next t ∧ Moved s t h next (fun _ t => t) ∧
      (t.wg w).halt = none ∧ ∀ p ∈ t.groups, p.2.wg = w → p.2.stopped = false)

namespace Sys2Proof.Claims

/-- The state in which a group-wide instruction reads its operands. -/
def gathered (s : State) (f : FmtG) : State := s.useMasks f

/-- R156: the set R of a contributing lane: of the lanes that contribute, those its mask register names, and itself; all where the field is
0x1FE. -/
def rset (s : State) (h : Hdr) (f : FmtG) (l : Nat) : List Nat :=
  (lanesOf (s.active h)).filter (fun k => f.mask == 0x1FE || k == l || ((gathered s f).selWord l f.mask.toNat).getLsbD k)

/-- R158-R160: a group-wide result under way, due lat cycles from now: a value of each contributing lane for the destination d and a
predicate for pd, where there are any; the threads go on at the successor. -/
def groupIssued (s : State) (h : Hdr) (f : FmtG) (lat d pd : Nat) (v : Nat → Option Nat) (q : Nat → Option Bool) :
    Host.Outcome State Fault Refusal :=
  let t := (gathered s f).takeToken h
  let p : Pend :=
    { core := s.cur.core, slot := s.cur.slot, kind := 2, path := s.cur.path, lanes := s.cur.lanes, act := s.active h, pos := s.cur.pos,
      tok := h.tok.toNat,
      writes := ((lanesOf (s.active h)).map (fun l => match v l with | some x => laneWrites l d false x false | none => [])).flatten,
      preds := ((lanesOf (s.active h)).map (fun l => match q l with | some b => [(l, pd, b)] | none => [])).flatten }
  .next (((t.addPend p).inCycles s.cur.core lat (.groupWideCompletion t.fresh)).retireSeq h)

/-- The operands of a group-wide instruction with the sources srcs, the predicates ps read, the destination d and the predicate pd are ready. -/
def GroupReady (s : State) (h : Hdr) (f : FmtG) (srcs : List Src) (ps : List Nat) (d pd : Nat) : Prop :=
  First s ∧ Ready (gathered s f) (s.active h) ((if f.mask = 0x1FE then [] else [.reg f.mask.toNat]) ++ srcs)
    (if d = 0x1FE then [] else [d]) (ps ++ if pd = 7 then [] else [pd])

/-- R167: node m of a level of the tree, and the exceptions of the nodes below it: two present children are combined, one alone passes. -/
def treeAt (op : Nat → Nat → FRes) (leaf : Nat → Option Nat) : Nat → Nat → Option Nat × BitVec 5
  | 0, m => (leaf m, 0)
  | n + 1, m => match treeAt op leaf n (2 * m), treeAt op leaf n (2 * m + 1) with
    | (some x, e), (some y, e') => (some (op x y).bits, e ||| e' ||| (op x y).flags)
    | (some x, e), (none, e') => (some x, e ||| e')
    | (none, e), (y, e') => (y, e ||| e')

/-- R167: redux over f32 in a lane whose set is r: FlushOut of the root over the leaves FlushIn(a of k), and the union of the exceptions. -/
def reduced (s : State) (f : FmtG) (op : BitVec 5) (r : List Nat) : FRes :=
  let node (x y : Nat) : FRes := if op = 0 then fmt32.arithCore .add 0 x y 0 else fmt32.minMax (op == 2) false false x y
  let leaf (k : Nat) : Option Nat := if r.contains k then some (fmt32.flushIn (flagFlushIn s.curLaunch.kr) ((gathered s f).selWord k f.a.toNat).toNat) else none
  let root := treeAt node leaf 5 0
  let x := root.1.getD 0
  fmt32.flushOut (flagFlushOut s.curLaunch.kr) ⟨x, root.2, decide (x / 8388608 % 256 = 0 ∧ x % 8388608 ≠ 0)⟩

/-- Operand a of a lane, a 64-bit pair for type b64. -/
def opA (s : State) (f : FmtG) (l : Nat) : Long :=
  if f.modi.toNat % 16 = 0xF then (gathered s f).selPair l f.a.toNat else ((gathered s f).selWord l f.a.toNat).setWidth 64

end Sys2Proof.Claims

/-- R154, R163, R164, R169: elect names the lowest lane of the set; vote.all and vote.any ask a predicate of every or some lane of it; ballot
gives the mask of those with it; gsync has no effect but its gathering. -/
def Sys2Proof.Claims.ElectVoteAndBallot : Prop := ∀ (s : State) (h : Hdr) (f : FmtG),
  let d := f.dst.toNat
  let pd := f.modi.toNat / 512 % 8
  let q (k : Nat) : Bool := (f.modi.toNat / 32 % 8 == 7 || (mine s k).preds.getLsbD (f.modi.toNat / 32 % 8)) ^^ f.modi.getLsbD 8
  let set := rset s h f
  let ps : List Nat := [f.modi.toNat / 32 % 8]
  (GroupReady s h f [] [] d (f.modi.toNat % 8) → exec (.elect h f) s = groupIssued s h f 8 d (f.modi.toNat % 8)
    (fun l => some ((set l).headD 0)) (fun l => some ((set l).headD 0 == l))) ∧
  (GroupReady s h f [] ps 0x1FE pd →
    exec (.voteAll h f) s = groupIssued s h f 8 0x1FE pd (fun _ => none) (fun l => some ((set l).all q)) ∧
    exec (.voteAny h f) s = groupIssued s h f 8 0x1FE pd (fun _ => none) (fun l => some ((set l).any q))) ∧
  (GroupReady s h f [] ps d 7 → exec (.ballot h f) s = groupIssued s h f 8 d 7
    (fun l => some (maskOf ((set l).filter q)).toNat) (fun _ => none)) ∧
  (GroupReady s h f [] [] 0x1FE 7 → exec (.gsync h f) s = groupIssued s h f 8 0x1FE 7 (fun _ => none) (fun _ => none))

/-- R163, R168: vote.eq, match.any and match.all compare operand a over the set of a lane. -/
def Sys2Proof.Claims.GroupMatches : Prop := ∀ (s : State) (h : Hdr) (f : FmtG),
  let d := f.dst.toNat
  let pd := f.modi.toNat / 512 % 8
  let a : Src := if f.modi.toNat % 16 = 0xF then .pair f.a.toNat else .reg f.a.toNat
  let set := rset s h f
  let same (l k : Nat) : Bool := opA s f k == opA s f l
  (GroupReady s h f [a] [] 0x1FE pd → exec (.voteEq h f) s = groupIssued s h f 8 0x1FE pd (fun _ => none)
    (fun l => some ((set l).all (same l)))) ∧
  (GroupReady s h f [a] [] d 7 → exec (.matchAny h f) s = groupIssued s h f 8 d 7
    (fun l => some (maskOf ((set l).filter (same l))).toNat) (fun _ => none)) ∧
  (GroupReady s h f [a] [] d pd → exec (.matchAll h f) s = groupIssued s h f 8 d pd
    (fun l => some (if (set l).all (same l) then (maskOf (set l)).toNat else 0)) (fun l => some ((set l).all (same l))))

/-- R165, R166: shfl reads a lane of its window that is in the set, or keeps its own value (or 0); xchg exchanges bit fields with the lane d away. -/
def Sys2Proof.Claims.ShuffleAndExchange : Prop := ∀ (s : State) (h : Hdr) (f : FmtG) (v : BitVec 5), v.toNat < 4 →
  let d := f.dst.toNat
  let pd := f.modi.toNat / 512 % 8
  let set := rset s h f
  let code := f.lane.toNat / 32 % 8
  let w := if code = 0 then 32 else 2 ^ code
  let word (k r : Nat) : Word := (gathered s f).selWord k r
  let n (l : Nat) : Nat := if f.b = 0x1FE then f.lane.toNat % 32 else (word l f.b.toNat).toNat % 32
  let q (l : Nat) : Int := if v = 0 then (l / w * w + n l % w : Nat) else if v = 1 then (l : Int) - n l else if v = 2 then (l + n l : Nat)
    else (l ^^^ (n l % w) : Nat)
  let hit (l : Nat) : Bool := decide (((l / w * w : Nat) : Int) ≤ q l) && decide (q l < ((l / w * w + w : Nat) : Int)) &&
    (set l).contains (q l).toNat
  (GroupReady s h f (if f.b = 0x1FE then [.reg f.a.toNat] else [.reg f.a.toNat, .reg f.b.toNat]) [] d pd →
    exec (.shfl h v f) s = groupIssued s h f 8 d pd
      (fun l => some (if hit l then (word (q l).toNat f.a.toNat).toNat else if f.lane.getLsbD 8 then 0 else (word l f.a.toNat).toNat))
      (fun l => some (hit l))) ∧
  (GroupReady s h f [.reg f.a.toNat, .reg f.b.toNat] [] d 7 → exec (.xchg h f) s = groupIssued s h f 8 d 7 (fun l =>
    let far := l ^^^ f.lane.toNat
    let a := word l f.a.toNat
    let m := word l f.b.toNat
    let y := if (set l).contains far then word far f.a.toNat else a
    some (if l &&& f.lane.toNat = 0 then (a &&& m) ||| ((y <<< f.lane.toNat) &&& ~~~ m)
      else (a &&& ~~~ m) ||| ((y >>> f.lane.toNat) &&& m)).toNat) (fun _ => none))

/-- R167: redux gives each lane the sum modulo 2^32, the least, the greatest, or the bitwise and, or, xor of operand a over its set; over f32 the
value of the tree, due 12 cycles after issue, with the exceptions of its nodes. -/
def Sys2Proof.Claims.Reductions : Prop := ∀ (s : State) (h : Hdr) (f : FmtG), GroupReady s h f [.reg f.a.toNat] [] f.dst.toNat 7 →
  let ty := f.modi.extractLsb' 0 4
  let set := rset s h f
  let a (k : Nat) : Word := (gathered s f).selWord k f.a.toNat
  let gives (op : BitVec 5) (good : Nat → Word → Prop) : Prop := ∃ v : Nat → Word, (∀ l ∈ lanesOf (s.active h), good l (v l)) ∧
    exec (.redux h op f) s = groupIssued s h f 8 f.dst.toNat 7 (fun l => some (v l).toNat) (fun _ => none)
  (ty ≠ 8 →
    gives 0 (fun l v => v = BitVec.ofNat 32 ((set l).map (fun k => (a k).toNat)).sum) ∧
    gives 3 (fun l v => ∀ i, i < 32 → v.getLsbD i = (set l).all (fun k => (a k).getLsbD i)) ∧
    gives 4 (fun l v => ∀ i, i < 32 → v.getLsbD i = (set l).any (fun k => (a k).getLsbD i)) ∧
    gives 5 (fun l v => v = (set l).foldl (fun x k => x ^^^ a k) 0)) ∧
  (is32 ty →
    gives 1 (fun l v => (∃ k ∈ set l, v = a k) ∧ ∀ k ∈ set l, int32 ty v ≤ int32 ty (a k)) ∧
    gives 2 (fun l v => (∃ k ∈ set l, v = a k) ∧ ∀ k ∈ set l, int32 ty (a k) ≤ int32 ty v)) ∧
  (ty = 8 → ∀ op, op = 0 ∨ op = 1 ∨ op = 2 →
    let x (l : Nat) : FRes := reduced s f op (set l)
    let act := lanesOf (s.active h)
    let t := (gathered s f).takeToken h
    let p : Pend :=
    { core := s.cur.core, slot := s.cur.slot, kind := 2, path := s.cur.path, lanes := s.cur.lanes, act := s.active h,
      pos := s.cur.pos, tok := h.tok.toNat, fpu := true, writes := (act.map (fun l => laneWrites l f.dst.toNat false (x l).bits false)).flatten,
      flags := (act.filter (fun l => (x l).flags != 0)).map (fun l => (l, (x l).flags)) }
    (∀ l ∈ act, (x l).flags &&& (mine s l).fpctl = 0) →
      exec (.redux h op f) s = .next (((t.addPend p).inCycles s.cur.core 12 (.groupWideCompletion t.fresh)).retireSeq h)) ∧
  (ty = 8 → ∀ op, ∃ t, exec (.redux h op f) s = .next t ∧ Moved s t h (fun _ => seqPos s.cur.pos) (fun _ t => t) ∧
    ⟨s.cur.core + 1, (s.core s.cur.core).cycles + 12, .groupWideCompletion s.fresh⟩ ∈ t.timers)

namespace Sys2Proof.Claims

/-- R217: the effective address of a lane. -/
def addrOf (s : State) (f : FmtM) (l : Nat) : Nat := ((s.selPair l f.addr.toNat).toNat + (f.off.signExtend 64).toNat) % 2 ^ 64
/-- The lanes of an access with their addresses. -/
def addrs (s : State) (h : Hdr) (f : FmtM) : List (Nat × Nat) := (lanesOf (s.active h)).map (fun l => (l, addrOf s f l))
/-- R214: the bytes of an access. -/
def width (f : FmtM) : Nat := 2 ^ f.size.toNat
/-- R216: byte j of the data of a lane. -/
def dataByte (s : State) (f : FmtM) (l j : Nat) : Byte :=
  if f.data = 0x1FE then 0 else (s.selWord l (f.data.toNat + j / 4)).extractLsb' (8 * (j % 4)) 8
/-- R216: the n bytes of the data of a lane from byte a, as a number. -/
def dataNum (s : State) (f : FmtM) (l a n : Nat) : Nat := leNat ((List.range n).map (fun j => dataByte s f l (a + j)))
/-- R216: the data registers of n bytes, as sources. -/
def dataRegs (f : FmtM) (n : Nat) : List Src :=
  if n ≤ 4 then [.reg f.data.toNat] else if n = 8 then [.pair f.data.toNat] else [.quad f.data.toNat]
/-- R216: the destination registers of a load of n bytes. -/
def destRegs (f : FmtM) (n : Nat) : List Nat := if f.data = 0x1FE then [] else (List.range ((n + 3) / 4)).map (fun j => f.data.toNat + j)
/-- The operands of a load, and of a store of n bytes, are ready. -/
def LoadReady (s : State) (h : Hdr) (f : FmtM) (addr : Src) (n : Nat) : Prop := First s ∧ Ready s (s.active h) [addr] (destRegs f n) []
def StoreReady (s : State) (h : Hdr) (f : FmtM) (n : Nat) : Prop :=
  First s ∧ Ready s (s.active h) (.pair f.addr.toNat :: dataRegs f n) [] []

/-- R43: the token of an issue has been raised once. -/
def TokenUp (s t : State) (h : Hdr) : Prop := ∀ k, (t.group s.cur.core s.cur.slot).token k =
  (s.group s.cur.core s.cur.slot).token k + if k = h.tok.toNat ∧ k ≠ 0 then 1 else 0

/-- The result of an issue is under way as p: of its lanes, with its token, no exception and, where no codeword is uncorrectable, no fault. -/
def UnderWay (s t : State) (h : Hdr) (id : Nat) (p : Pend) : Prop := tblFind t.pends id = some p ∧ p.core = s.cur.core ∧ p.slot = s.cur.slot ∧
  p.path = s.cur.path ∧ p.lanes = s.cur.lanes ∧ p.act = s.active h ∧ p.pos = s.cur.pos ∧ p.tok = h.tok.toNat ∧ p.traps = 0 ∧ (s.bad = [] → p.bad = none)

/-- A byte of memory is on its way to its home: in a write, or in a gather entry of a die. -/
def Carried (t : State) (die pa : Nat) (b : Byte) : Prop := (∃ m ∈ t.msgs, (pa, b) ∈ m.2.bytes) ∨
  ∃ g, tblFind (t.die die).gather (pa / 256) = some g ∧ tblFind g.bytes (pa % 256) = some b

/-- Of the lanes of an access that write one address, the highest-numbered one writes it (R220). -/
def writesLast (l : List Acc) (x : Acc) : Prop := x ∈ l ∧ ∀ y ∈ l, y.pa = x.pa → y.lane ≤ x.lane

end Sys2Proof.Claims

/-- R217, R231, Table 13-3: what the checks of an access of the g space find, in their order: alignment (0x07), access (0x08), a page not
translated, for a write a range lock (0x0A), a watchpoint (0x15); the lowest lane decides within each. -/
def Sys2Proof.Claims.MemoryChecks : Prop := ∀ (s : State) (k : AccKind) (n : Nat) (l : List (Nat × Nat)),
  let r := s.checkG k n n l
  let untranslated (p : Nat × Nat) : Bool := match s.walk s.curCtx p.2 with | .absent _ => true | _ => false
  let ok (p : Nat × Nat) : Prop := p.2 % n = 0
  (∀ (a : List (Nat × Nat)) p b, l = a ++ p :: b → (∀ q ∈ a, ok q) → ¬ ok p → r = .fault 0x07 p.2 []) ∧
  ((∀ q ∈ l, ok q) →
    (∀ (a : List (Nat × Nat)) p b, l = a ++ p :: b → (∀ q ∈ a, s.accessFault k q.2 = false) → s.accessFault k p.2 = true →
      r = .fault 0x08 p.2 (s.badWalks s.curCtx (l.map (fun q => q.2)))) ∧
    ((∀ q ∈ l, s.accessFault k q.2 = false) →
      (∀ (a : List (Nat × Nat)) p b, l = a ++ p :: b → (∀ q ∈ a, untranslated q = false) → untranslated p = true → r = .park p.2) ∧
      ((∀ q ∈ l, untranslated q = false) →
        (∀ (a : List (Nat × Nat)) p b, l = a ++ p :: b → k ≠ .load → k ≠ .element → (∀ q ∈ a, s.sourceLocked q.2 n = false) → s.sourceLocked p.2 n = true →
          r = .fault 0x0A p.2 []) ∧
        ((∀ q ∈ l, k = .load ∨ k = .element ∨ s.sourceLocked q.2 n = false) →
          (∀ (a : List (Nat × Nat)) p b, l = a ++ p :: b → (∀ q ∈ a, s.watched k q.2 n = false) → s.watched k p.2 n = true →
            r = .fault 0x15 p.2 []) ∧
          ((∀ q ∈ l, s.watched k q.2 n = false) → ∃ x, r = .ok x ∧ x.map (fun y => (y.lane, y.ea)) = l ∧
            ∀ y ∈ x, s.walk s.curCtx y.ea = .ok y.pa y.entry))))) ∧
  (∀ va, va < 2 ^ 57 → s.inDebugArea s.curCtx va = false → (s.accessFault k va = match s.walk s.curCtx va with
    | .bad _ => true
    | .ok _ e => forbids k e
    | .absent _ => false)) ∧
  (∀ va, 2 ^ 57 ≤ va → s.accessFault k va = true) ∧
  ∀ e, forbids k e = (leafHostOwned e || (match k with
    | .load => !e.testBit 2
    | .element => !e.testBit 2 || e.testBit 6
    | .store => !e.testBit 3
    | .atomic => !e.testBit 3 || !e.testBit 2 || e.testBit 6
    | .reduce => !e.testBit 3 || !e.testBit 2 || e.testBit 6))

/-- R231, R334, R347: what a check finds happens at the instruction: a fault stops the group with nothing accessed (a watchpoint as a debug
stop), and a page that is not translated makes its threads wait for it. -/
def Sys2Proof.Claims.MemoryFaults : Prop := ∀ (s : State) (h : Hdr) (v : BitVec 5) (f : FmtM),
  let n := width f
  let act := s.active h
  let acts (r : MemChk) (i : Instr) : Prop :=
    (∀ code tv bad, r = .fault code tv bad → ∃ t, exec i s = .next t ∧ Stops s t (if code = 0x15 then 4 else 0) act code (BitVec.ofNat 64 tv)) ∧
    (∀ va, r = .park va → ∃ t, exec i s = .next t ∧ Elsewhere s t ∧ (t.wg s.curWg).rwc = (s.wg s.curWg).rwc ∧
      ∃ w, (t.group s.cur.core s.cur.slot).waits = (s.group s.cur.core s.cur.slot).waits ++ [w] ∧ w.cond = .page (BitVec.ofNat 64 va) ∧
        w.iss.lanes = s.cur.lanes)
  (LoadReady s h f (.pair f.addr.toNat) n → acts (s.checkG .load n n (addrs s h f)) (.ld h f) ∧ acts (s.checkSpace .sp n (addrs s h f)) (.ldsp h f)) ∧
  (StoreReady s h f n → acts (s.checkG .store n n (addrs s h f)) (.st h f) ∧ acts (s.checkSpace .sp n (addrs s h f)) (.stsp h f)) ∧
  (First s → Ready s act (.pair f.addr.toNat :: dataRegs f n) (destRegs f n) [] → v.toNat ≠ 7 →
    acts (s.checkG .atomic n n (addrs s h f)) (.atom h v f))

/-- R219, R221, R230, R271: ld and ld.b put their result under way: every byte of every lane has been delivered or is one the result waits for;
ld.b's report goes to its guard predicate. ld.acq makes its active threads wait until its load is performed and the rounds then due are
reached, and retires then. -/
def Sys2Proof.Claims.LoadsIssue : Prop := ∀ (s : State) (h : Hdr) (f : FmtM) (l : List Acc),
  let n := width f
  let found (p : Pend) : Prop := p.kind = 3 ∧ p.size = n ∧ p.dst = f.data.toNat ∧ p.wait = 0 ∧ ∀ x ∈ l, ∀ j, j < n →
    (tblFind p.bytes (x.lane * 16 + j)).isSome = true ∨ ∃ a, (x.lane * 16 + j, a) ∈ p.missing ∧ (leafWindow x.entry = false → a = x.pa + j)
  (LoadReady s h f (.pair f.addr.toNat) n → s.checkG .load n n (addrs s h f) = .ok l →
    (∃ t p, exec (.ld h f) s = .next t ∧ Passed s t h ∧ TokenUp s t h ∧ UnderWay s t h s.fresh p ∧ found p ∧ p.preds = [] ∧ p.sx = (f.mode == 1)) ∧
    (∃ t p, exec (.ldAcq h f) s = .next t ∧ Waits s t h (.gone [s.fresh] []) ∧ tblFind t.pends s.fresh = some p ∧ p.tok = h.tok.toNat ∧ found p)) ∧
  (First s → Ready s (s.active h) [.pair f.addr.toNat] (destRegs f n) (if h.pred = 7 then [] else [h.pred.toNat]) →
    s.checkG .load n n (addrs s h f) = .ok l →
    ∃ t p, exec (.ldB h f) s = .next t ∧ Passed s t h ∧ TokenUp s t h ∧ UnderWay s t h s.fresh p ∧ found p ∧
      p.preds.map (fun q => (q.1, q.2.1)) = (lanesOf (s.active h)).map (fun l => (l, h.pred.toNat))) ∧
  (s.hasGroup s.cur.core s.cur.slot = true → s.cur.nums = [4] ∨ s.cur.nums = [3] ∧ s.roundsDue s.curCtx = [] →
    ∃ t, exec (.ldAcq h f) s = .next t ∧ Passed s t h) ∧
  (s.hasGroup s.cur.core s.cur.slot = true → s.cur.phase > 0 → s.cur.nums = [3] → s.roundsDue s.curCtx ≠ [] →
    ∃ t w, exec (.ldAcq h f) s = .next t ∧ Elsewhere s t ∧ (t.group s.cur.core s.cur.slot).threads = (s.group s.cur.core s.cur.slot).threads ∧
      (t.group s.cur.core s.cur.slot).waits = (s.group s.cur.core s.cur.slot).waits ++ [w] ∧ w.cond = .gone [] (s.roundsDue s.curCtx) ∧
      w.iss.lanes = s.cur.lanes ∧ w.iss.nums = [4])

/-- R220, R222, R223, R238, R252, R379: st and st.rel send every byte of the highest lane that writes its address towards its home, and change no
memory at issue; a write of st.rel comes after the accesses that its threads have under way, then after what they may have observed, and the time of its scope. A st to a host-window
page, behind no other store, is staged on its die. -/
def Sys2Proof.Claims.StoresIssue : Prop := ∀ (s : State) (h : Hdr) (f : FmtM) (l : List Acc),
  let n := width f
  StoreReady s h f n → s.checkG .store n n (addrs s h f) = .ok l →
  ((∀ x ∈ l, leafWindow x.entry = true ∧ ∀ w, tblFind s.windows (s.curCtx * 64 + x.entry / 256 % 64) = some w → w.va ≤ x.ea) →
    s.msgs = [] → s.pends = [] → s.homeOps = [] → ∃ t, exec (.st h f) s = .next t ∧ Passed s t h ∧ TokensKept s t ∧ t.msgs = [] ∧
    ∀ x ∈ l, (∀ y ∈ l, y.ea = x.ea → y.lane ≤ x.lane) → ∀ j, j < n → ∀ w, tblFind s.windows (s.curCtx * 64 + x.entry / 256 % 64) = some w →
      ∃ z, tblFind t.windows (s.curCtx * 64 + x.entry / 256 % 64) = some z ∧
        tblFind z.staged (Config.dieOfCore s.cur.core * 2 ^ 26 + (x.ea - w.va) + j) = some (dataByte s f x.lane j)) ∧
  ((∀ x ∈ l, leafWindow x.entry = false) →
  (∃ t, exec (.st h f) s = .next t ∧ Passed s t h ∧ ∀ x, writesLast l x → ∀ j, j < n →
    Carried t (Config.dieOfCore s.cur.core) (x.pa + j) (dataByte s f x.lane j)) ∧
  (∃ t, exec (.stRel h f) s = .next t ∧ Passed s t h ∧ ∀ x, writesLast l x → ∀ j, j < n →
    ∃ m ∈ t.msgs, (x.pa + j, dataByte s f x.lane j) ∈ m.2.bytes ∧ m.2.overhead = overheadOf f.scope.toNat ∧
      m.2.widen = true ∧ m.2.scope = f.scope.toNat ∧ ∀ d ∈ s.accessesOf (s.active h) false, d ∈ m.2.after))

/-- R224: atom and red send one operation of each lane to the home of its address with the lane's operand, and for cas (7) its swap value; atom's result
waits for the old values. -/
def Sys2Proof.Claims.AtomicsIssue : Prop := ∀ (s : State) (h : Hdr) (v : BitVec 5) (f : FmtM) (l : List Acc), First s → s.active h ≠ 0 →
  let n := width f
  let m := if v = 7 then 2 * n else n
  let sent (t : State) (p : Pend) (old : Bool) : Prop := p.kind = 3 ∧ p.wait = l.length ∧ p.size = (if old then n else 0) ∧
    p.dst = f.data.toNat ∧ ∀ x ∈ l, ∃ q ∈ t.msgs, q.2.pa = x.pa ∧ q.2.pend = some s.fresh ∧ q.2.kind =
      .atomic v.toNat f.mode.toNat n (BitVec.ofNat 64 (dataNum s f x.lane 0 n))
        (if v = 7 then BitVec.ofNat 64 (dataNum s f x.lane n n) else 0) x.lane (if old then some s.fresh else none)
  (Ready s (s.active h) (.pair f.addr.toNat :: dataRegs f m) (destRegs f n) [] → s.checkG .atomic n n (addrs s h f) = .ok l →
    ∃ t p, exec (.atom h v f) s = .next t ∧ Passed s t h ∧ TokenUp s t h ∧ UnderWay s t h s.fresh p ∧ sent t p true) ∧
  (Ready s (s.active h) (.pair f.addr.toNat :: dataRegs f m) [] [] → s.checkG .reduce n n (addrs s h f) = .ok l →
    ∃ t p, exec (.red h v f) s = .next t ∧ Passed s t h ∧ TokenUp s t h ∧ UnderWay s t h s.fresh p ∧ sent t p false)

namespace Sys2Proof.Claims

/-- The bytes of the spaces beside g, as the issue in hand of s names them and t holds them. -/
def spaceByte (s t : State) (spc : Space) (lane a : Nat) : Byte :=
  match spc with
  | .sp => tblGet 0 (t.wg s.curWg).sp a
  | .cl => tblGet 0 (t.wg ((s.rankWg (a / 2 ^ 19)).getD 0)).sp (a % 2 ^ 19)
  | .ds => tblGet 0 (tblGet [] (t.die (Config.dieOfCore s.cur.core)).ds s.curCtx) a
  | .lp => tblGet 0 (t.thread s.cur.core s.cur.slot lane).lp a

end Sys2Proof.Claims

/-- R188-R192, R22, R50, R219: ldsp, ldcl, ldds and ldlp read the bytes of their space at issue; ldsp's result is due 24 cycles later. ldc reads
each word of its window as at launch start, or as it stands where it has changed since (R24). -/
def Sys2Proof.Claims.SpaceLoads : Prop := ∀ (s : State) (h : Hdr) (f : FmtM) (l : List Acc), f.size.toNat ≤ 4 →
  let n := width f
  let under (o : Host.Outcome State Fault Refusal) (good : Pend → Prop) : Prop := ∃ t p, o = .next t ∧ Passed s t h ∧ TokenUp s t h ∧
    UnderWay s t h s.fresh p ∧ good p
  let later (spc : Space) (p : Pend) : Prop := p.kind = 3 ∧ p.size = n ∧ p.dst = f.data.toNat ∧ p.missing = [] ∧ p.wait = 0 ∧
    p.sx = (f.mode == 1) ∧ ∀ x ∈ l, ∀ j, j < n → tblGet 0 p.bytes (x.lane * 16 + j) = spaceByte s s spc x.lane (x.pa + j)
  (LoadReady s h f (.pair f.addr.toNat) n →
    (s.checkSpace .sp n (addrs s h f) = .ok l → under (exec (.ldsp h f) s) (fun p => p.kind = 0 ∧ p.due = (s.core s.cur.core).cycles + 24 ∧
      p.writes.map (fun w => (w.lane, w.reg)) = ((lanesOf (s.active h)).map (fun x => (destRegs f n).map (fun r => (x, r)))).flatten ∧
      ∀ x ∈ l, 4 ≤ n → ∀ w ∈ p.writes, w.lane = x.lane → ∀ j, j < 4 → w.val.extractLsb' (8 * j) 8 =
        spaceByte s s .sp x.lane (x.pa + 4 * (w.reg - f.data.toNat) + j))) ∧
    (s.checkSpace .cl n (addrs s h f) = .ok l → under (exec (.ldcl h f) s) (later .cl)) ∧
    (s.checkSpace .ds n (addrs s h f) = .ok l → under (exec (.ldds h f) s) (later .ds)) ∧
    (s.checkSpace .lp n (addrs s h f) = .ok l → under (exec (.ldlp h f) s) (later .lp))) ∧
  (LoadReady s h f (.reg f.addr.toNat) n → 4 ≤ n → s.checkLdc f n (s.active h) = .ok l → under (exec (.ldc h f) s) (fun p =>
    p.size = n ∧ p.dst = f.data.toNat ∧ p.missing = [] ∧ ∀ x ∈ l, ∀ j, j < n / 4 →
      let w := tabBytes p.bytes (x.lane * 16 + 4 * j) 4
      w = memBytes (s.launch (s.launchOfWg s.curWg)).snap (x.pa + 4 * j) 4 ∨ w = memBytes s.mem (x.pa + 4 * j) 4))

/-- R188-R192, R22, R220: stsp, stcl, stds and stlp write the bytes of the highest lane at each address of their space at issue and no other byte of
it; the other registers and positions, and memory, stand as before. -/
def Sys2Proof.Claims.SpaceStores : Prop := ∀ (s : State) (h : Hdr) (f : FmtM) (l : List Acc), StoreReady s h f (width f) →
  tblSorted s.wgs = true → (tblFind s.wgs s.curWg).isSome = true →
  let n := width f
  let stored (o : Host.Outcome State Fault Refusal) (spc : Space) : Prop := s.checkSpace spc n (addrs s h f) = .ok l → ∃ t, o = .next t ∧ Elsewhere s t ∧
    Advanced s t h (fun _ => seqPos s.cur.pos) (fun k x => { x with lp := (t.thread s.cur.core s.cur.slot k).lp }) ∧
    (∀ x ∈ l, x.lane < (s.group s.cur.core s.cur.slot).threads.length → (∀ y ∈ l, y.pa = x.pa → (spc ≠ .lp ∨ y.lane = x.lane) → y.lane ≤ x.lane) →
      ∀ j, j < n → spaceByte s t spc x.lane (x.pa + j) = dataByte s f x.lane j) ∧
    ∀ k a, k < (s.group s.cur.core s.cur.slot).threads.length → (spc = .cl → s.inSpace spc a 1 = true) →
      (∀ y ∈ l, (spc ≠ .lp ∨ y.lane = k) → ¬ (y.pa ≤ a ∧ a < y.pa + n)) → spaceByte s t spc k a = spaceByte s s spc k a
  stored (exec (.stsp h f) s) .sp ∧ stored (exec (.stcl h f) s) .cl ∧ stored (exec (.stds h f) s) .ds ∧ stored (exec (.stlp h f) s) .lp

namespace Sys2Proof.Claims

/-- A first issue makes its active threads wait for c, its token raised, to go on with the numbers l. -/
def WaitsTo (s t : State) (h : Hdr) (c : WaitCond) (l : List Nat) : Prop := Waits s t h c ∧
  ∀ w, (t.group s.cur.core s.cur.slot).waits = (s.group s.cur.core s.cur.slot).waits ++ [w] → w.iss.nums = l ∧ w.iss.phase = 1

/-- An issue that has waited waits again, for c, with the numbers l; no thread changes. -/
def WaitsOn (s t : State) (c : WaitCond) (l : List Nat) : Prop := Elsewhere s t ∧ (t.wg s.curWg).rwc = (s.wg s.curWg).rwc ∧
  (t.group s.cur.core s.cur.slot).threads = (s.group s.cur.core s.cur.slot).threads ∧
  ∃ w, (t.group s.cur.core s.cur.slot).waits = (s.group s.cur.core s.cur.slot).waits ++ [w] ∧ w.cond = c ∧ w.iss.lanes = s.cur.lanes ∧
    w.iss.nums = l ∧ w.iss.phase = s.cur.phase + 1

/-- The token of an instruction that has waited falls (R43). -/
def TokenDown (s t : State) (h : Hdr) : Prop := ∀ k, (t.group s.cur.core s.cur.slot).token k =
  (s.group s.cur.core s.cur.slot).token k - if k = h.tok.toNat ∧ k ≠ 0 then 1 else 0

/-- R240, R241: what a release or fence at a scope waits for beside its threads' own accesses: the writes that they may have observed, with the gather entries
that may hold such a byte flushed from .die on (R210). -/
def seen (s : State) (scope : Nat) : List Nat :=
  let s1 := s.flushDie (Config.dieOfCore s.cur.core) s.curCtx scope
  (s1.observed s.curCtx scope).filter s1.outstanding

/-- R252, Table 15-1: the cycle of the core in which the time of a scope, counted from now, has passed. -/
def overheadEnds (s : State) (scope : Nat) : Nat := (s.core s.cur.core).cycles + (if scope = 0 then 4 else if scope ≤ 2 then 8 else 16)

end Sys2Proof.Claims

/-- R225, R238-R241, R252, R271, Table 15-1: the active threads of a fence wait for their own accesses, of fence.acq for their loads; those of a release then, with the
gather entries flushed from .die on that may hold a byte they have observed (R210), for what they may have observed; with those performed they wait for the time of its scope, and an acquire for the rounds then due. -/
def Obligations.Fences : Prop := ∀ (s : State) (h : Hdr) (f : FmtM),
  let act := s.active h
  let scope := f.scope.toNat
  let obs := seen s scope
  let flushed (t : State) : Prop := 2 ≤ scope → ∀ p ∈ (t.die (Config.dieOfCore s.cur.core)).gather, s.reaches s.curCtx p.2.ctxs = false
  let ends (next : WaitCond → List Nat → Prop) (rs : List (Nat × Nat × Word)) : Prop :=
    (rs = [] → next (.cycle (overheadEnds s scope)) [3]) ∧ (rs ≠ [] → next (.gone [] rs) [2, overheadEnds s scope])
  let starts (i : Instr) (more : State → Prop) (c : WaitCond) (l : List Nat) : Prop := ∃ t, exec i s = .next t ∧ WaitsTo s t h c l ∧ TokenUp s t h ∧ more t
  let again (i : Instr) (more : State → Prop) (c : WaitCond) (l : List Nat) : Prop := ∃ t, exec i s = .next t ∧ WaitsOn s t c l ∧ more t
  let any (_ : State) : Prop := True
  let due := s.roundsDue s.curCtx
  let release (i : Instr) (rs : List (Nat × Nat × Word)) : Prop :=
    (First s → act ≠ 0 →
      (s.accessesOf act false ≠ [] → starts i any (.gone (s.accessesOf act false) []) [1]) ∧
      (s.accessesOf act false = [] → obs ≠ [] → starts i flushed (.gone obs []) [4]) ∧
      (s.accessesOf act false = [] → obs = [] → ends (starts i flushed) rs)) ∧
    (s.hasGroup s.cur.core s.cur.slot = true → s.cur.phase > 0 →
      (s.cur.nums = [1] → obs ≠ [] → again i flushed (.gone obs []) [4]) ∧
      (s.cur.nums = [1] → obs = [] → ends (again i flushed) rs) ∧ (s.cur.nums = [4] → ends (again i any) rs))
  let last (i : Instr) : Prop := s.hasGroup s.cur.core s.cur.slot = true → s.cur.phase > 0 →
    ∀ d, s.cur.nums = [2, d] → (s.core s.cur.core).cycles < d → again i any (.cycle d) [3]
  (First s → act ≠ 0 →
    (s.accessesOf act true ≠ [] → starts (.fenceAcq h f) any (.gone (s.accessesOf act true) []) [1]) ∧
    (s.accessesOf act true = [] → ends (starts (.fenceAcq h f) any) due)) ∧
  (s.hasGroup s.cur.core s.cur.slot = true → s.cur.phase > 0 → s.cur.nums = [1] → ends (again (.fenceAcq h f) any) due) ∧
  release (.fenceRel h f) [] ∧ release (.fenceAr h f) due ∧ last (.fenceAcq h f) ∧ last (.fenceRel h f) ∧ last (.fenceAr h f)

/-- R142, R225, R252: fence.acq, fence.rel and fence.ar complete: without an active thread at once; otherwise when the wait for the time of their scope, or
the wait for their rounds, is over and that time has passed: the threads go on at the successor and the token falls. -/
def Sys2Proof.Claims.FencesComplete : Prop := ∀ (s : State) (h : Hdr) (f : FmtM),
  (First s → s.active h = 0 →
    (∃ t, exec (.fenceAcq h f) s = .next t ∧ Passed s t h ∧ TokensKept s t) ∧
    (∃ t, exec (.fenceRel h f) s = .next t ∧ Passed s t h ∧ TokensKept s t) ∧
    ∃ t, exec (.fenceAr h f) s = .next t ∧ Passed s t h ∧ TokensKept s t) ∧
  (s.hasGroup s.cur.core s.cur.slot = true → s.cur.phase > 0 →
    (s.cur.nums = [3] ∨ ∃ due, s.cur.nums = [2, due] ∧ due ≤ (s.core s.cur.core).cycles) →
    (∃ t, exec (.fenceAcq h f) s = .next t ∧ Passed s t h ∧ TokenDown s t h) ∧
    (∃ t, exec (.fenceRel h f) s = .next t ∧ Passed s t h ∧ TokenDown s t h) ∧
    ∃ t, exec (.fenceAr h f) s = .next t ∧ Passed s t h ∧ TokenDown s t h)

/-- R226, R227, R230: cwb makes every gather entry of its die that holds a byte of the ranges leave, and its result waits for them; cinv of one active lane empties, of the one block its L1 holds, the
words of its range, and its result is under way; neither they nor cpf change memory or a register, and cpf has no result. -/
def Sys2Proof.Claims.CacheOperations : Prop := ∀ (s : State) (h : Hdr) (f : FmtM),
  let act := s.active h
  let words (l : Nat) : Nat := (s.selWord l f.data.toNat).toNat
  let range (l : Nat) : RangeChk := s.rangeCheck s.curCtx (addrOf s f l) (4 * words l) 1100
  let under (t : State) : Prop := Passed s t h ∧ TokenUp s t h ∧ ∃ p, UnderWay s t h s.fresh p ∧ p.kind = 3 ∧ p.size = 0 ∧ p.writes = []
  First s →
  (Ready s act [.pair f.addr.toNat, .reg f.data.toNat] [] [] →
    (∀ l ∈ lanesOf act, addrOf s f l % 4 = 0 ∧ addrOf s f l < 2 ^ 57 ∧ words l ≤ 2 ^ 24 ∧ ∃ e, range l = .ok e) →
    (∃ t, exec (.cwb h f) s = .next t ∧ under t ∧ ∀ l ∈ lanesOf act, ∀ e, range l = .ok e →
      ∀ g ∈ (t.die (Config.dieOfCore s.cur.core)).gather, ∀ b ∈ g.2.bytes, inExtents e (g.1 * 256 + b.1) = false) ∧
    ∃ t, exec (.cinv h f) s = .next t ∧ under t ∧ ∀ l e b, lanesOf act = [l] → range l = .ok e → f.scope = 0 → (s.core s.cur.core).l1 = [b] →
      ∀ x ∈ (t.core s.cur.core).l1, ∀ w, x.lo ≤ w → w ≤ x.hi → w < 64 → inExtents e (x.frame * 256 + 4 * w) = false) ∧
  (Ready s act [.pair f.addr.toNat] [] [] → ∃ t, exec (.cpf h f) s = .next t ∧ Passed s t h ∧ TokensKept s t ∧ t.pends = s.pends)

/-- R228, R252, R260, R263: rnd.adv sends one message of each lane to the die of its region's counter, after the accesses its thread has under way, then, as a release, what that may have observed, and the time of its scope; rnd.get reads the mirror of each lane's region. Both ask
for an aligned address (0x07) in an active region (0x08). -/
def Sys2Proof.Claims.RoundInstructions : Prop := ∀ (s : State) (h : Hdr) (f : FmtM), LoadReady s h f (.pair f.addr.toNat) 4 →
  let act := s.active h
  let region (l : Nat) : Option (Nat × Region) := s.regionAt s.curCtx (addrOf s f l)
  ((∀ l ∈ lanesOf act, addrOf s f l % 4 = 0 ∧ addrOf s f l < 2 ^ 57 ∧ (region l).isSome = true) →
    (∃ t p, exec (.rndGet h f) s = .next t ∧ Passed s t h ∧ TokenUp s t h ∧ UnderWay s t h s.fresh p ∧ p.size = 4 ∧ p.dst = f.data.toNat ∧
      p.missing = [] ∧ ∀ l ∈ lanesOf act, ∀ r, region l = some r → leNat (tabBytes p.bytes (l * 16) 4) = r.2.mirror.toNat) ∧
    (act ≠ 0 → ∃ t id p, exec (.rndAdv h f) s = .next t ∧ Passed s t h ∧ TokenUp s t h ∧ UnderWay s t h id p ∧ p.size = 4 ∧
      p.dst = f.data.toNat ∧ p.wait = (lanesOf act).length ∧ ∀ l ∈ lanesOf act, ∀ r, region l = some r →
        ∃ m ∈ t.msgs, m.2.kind = .round r.1 l id ∧ m.2.overhead = overheadOf f.scope.toNat ∧ m.2.widen = true ∧ m.2.scope = f.scope.toNat ∧
          ∀ d ∈ s.accessesOf act false, d ∈ m.2.after)) ∧
  (∀ (a b : List Nat) l, lanesOf act = a ++ l :: b → (∀ k ∈ a, addrOf s f k % 4 = 0) → addrOf s f l % 4 ≠ 0 →
    (∃ t, exec (.rndGet h f) s = .next t ∧ Stops s t 0 act 0x07 (BitVec.ofNat 64 (addrOf s f l))) ∧
    ∃ t, exec (.rndAdv h f) s = .next t ∧ Stops s t 0 act 0x07 (BitVec.ofNat 64 (addrOf s f l))) ∧
  (∀ (a b : List Nat) l, (∀ k ∈ lanesOf act, addrOf s f k % 4 = 0) → lanesOf act = a ++ l :: b →
    (∀ k ∈ a, addrOf s f k < 2 ^ 57 ∧ (region k).isSome = true) → (2 ^ 57 ≤ addrOf s f l ∨ region l = none) →
    (∃ t, exec (.rndGet h f) s = .next t ∧ Stops s t 0 act 0x08 (BitVec.ofNat 64 (addrOf s f l))) ∧
    ∃ t, exec (.rndAdv h f) s = .next t ∧ Stops s t 0 act 0x08 (BitVec.ofNat 64 (addrOf s f l)))

/-- R229, R240, R252, R370, R379, R380: pub waits for its threads' accesses, for what a release at .sys finds them to have observed, and then for the time of that scope; with the translation of its
window held it then writes the staged bytes to the host memory of its PASID and after them the raised version to the window's counter; without a window it is
ACCESS 0x08. PUB_TRANSLATION_RETRY makes a pub that waits go on. -/
def Obligations.Publication : Prop :=
  (∀ (s : State) (h : Hdr) (f : FmtM), First s → s.active h ≠ 0 →
    let w := s.curCtx * 64 + f.off.toNat % 64
    (∀ x, tblFind s.windows w = some x →
      let begins (c : WaitCond) (l : List Nat) : Prop := ∃ t, exec (.pub h f) s = .next t ∧ WaitsTo s t h c l ∧
        tblFind t.windows w = some { x with busy := x.busy + 1 }
      let own := s.accessesOf (s.active h) false
      (own ≠ [] → begins (.gone own []) [1]) ∧ (own = [] → seen s 4 ≠ [] → begins (.gone (seen s 4) []) [3]) ∧
      (own = [] → seen s 4 = [] → begins (.cycle (overheadEnds s 4)) [2])) ∧
    (tblFind s.windows w = none → ∃ t, exec (.pub h f) s = .next t ∧ Stops s t 0 (s.active h) 0x08 (BitVec.ofNat 64 (f.off.toNat % 64)))) ∧
  (∀ (s : State) (h : Hdr) (f : FmtM) (x : Window), s.hasGroup s.cur.core s.cur.slot = true → s.cur.phase > 0 →
    let w := s.curCtx * 64 + f.off.toNat % 64
    let counter := x.pasid * 2 ^ 64 + x.counter
    let host (o : Nat) : Nat := x.pasid * 2 ^ 64 + (x.host + o % 2 ^ 26)
    (s.cur.nums = [1] → seen s 4 ≠ [] → ∃ t, exec (.pub h f) s = .next t ∧ WaitsOn s t (.gone (seen s 4) []) [3]) ∧
    (s.cur.nums = [1] ∧ seen s 4 = [] ∨ s.cur.nums = [3] → ∃ t, exec (.pub h f) s = .next t ∧ WaitsOn s t (.cycle (overheadEnds s 4)) [2]) ∧
    (s.cur.nums = [2] → tblFind s.windows w = some x → x.held = true → x.version.toNat + 1 < 2 ^ 64 →
      ∃ t y, exec (.pub h f) s = .next t ∧ t.mem = s.mem ∧ Advanced s t h (fun _ => seqPos s.cur.pos) (fun _ x => x) ∧ TokenDown s t h ∧
        tblFind t.windows w = some y ∧ y.version = x.version + 1 ∧ y.staged = [] ∧ y.busy = x.busy - 1 ∧
        memNat t.hostMem counter 8 = x.version.toNat + 1 ∧
        (∀ b ∈ x.staged, (∀ c ∈ x.staged, c.1 % 2 ^ 26 = b.1 % 2 ^ 26 → c.2 = b.2) →
          ¬ (counter ≤ host b.1 ∧ host b.1 < counter + 8) → memGet t.hostMem (host b.1) = b.2) ∧
        ∀ a, (∀ b ∈ x.staged, a ≠ host b.1) → ¬ (counter ≤ a ∧ a < counter + 8) → memGet t.hostMem a = memGet s.hostMem a)) ∧
  ∀ (s : State) (core slot : Nat) (w : Waiting), s.hasGroup core slot = true → (s.group core slot).waits = [w] →
    ∃ t, exec (.pubTranslationRetry core slot w.id) s = .next t ∧ t.agenda = .resume w.iss w.instr :: s.agenda ∧
      (t.group core slot).waits = [] ∧ (t.group core slot).threads = (s.group core slot).threads

/-- R142, R150: waitt completes, at once or after it has waited, when the counter of its token is at most n: its threads go on at the successor and no token
changes. A first waitt with active threads and a larger counter waits. -/
def Sys2Proof.Claims.TokenWait : Prop := ∀ (s : State) (h : Hdr) (f : FmtS), s.hasGroup s.cur.core s.cur.slot = true →
  let k := f.imm.toNat % 8
  let n := f.imm.toNat / 256 % 256
  let c := (s.group s.cur.core s.cur.slot).token k
  (s.active h = 0 ∨ c ≤ n → ∃ t, exec (.waitt h f) s = .next t ∧ Passed s t h ∧ TokensKept s t) ∧
  (First s → s.active h ≠ 0 → n < c → ∃ t, exec (.waitt h f) s = .next t ∧ Waits s t h (.token k n) ∧ TokensKept s t)

/-- R148, R149, R179, R249, R252, R257: a barrier with nothing to wait for adds its active threads to the arrivals and makes them wait, bart after the
time of its scope; the last arrival of bar lets it complete 4 cycles later, which empties the count and lets the threads retire; bart waits for
the core set of its tag, whose release comes 12, 24 or 40 ticks after the last arrival; an unbound tag is BARRIER_TAG 0x13. -/
def Obligations.Barriers : Prop :=
  (∀ (s : State) (h : Hdr) (f : FmtS), First s → s.active h ≠ 0 →
    let k := f.imm.toNat % 16
    let g := f.imm.toNat % 8
    let w := s.curWg
    let n := (lanesOf (s.active h)).length
    let b := tblGet {} (s.wg w).bars k
    let kr := (s.launch (s.launchOfWg w)).kr
    let scope := kr.routes / 4 ^ g % 4
    let own := s.accessesOf (s.active h) false
    (own ≠ [] → ∃ t, exec (.bar h f) s = .next t ∧ WaitsTo s t h (.gone own []) [1] ∧ TokensKept s t) ∧
    (own = [] → seen s 0 ≠ [] → ∃ t, exec (.bar h f) s = .next t ∧ WaitsTo s t h (.gone (seen s 0) []) [5] ∧ TokensKept s t) ∧
    (own = [] → seen s 0 = [] → ∃ t, exec (.bar h f) s = .next t ∧ WaitsTo s t h (.barGen k b.gen) [2] ∧ TokensKept s t ∧
      (tblGet {} (t.wg w).bars k).arrived = b.arrived + n ∧ (tblGet {} (t.wg w).bars k).gen = b.gen ∧
      (b.closing = false → s.liveThreads w ≤ b.arrived + n →
        ⟨(s.wg w).core + 1, (s.core (s.wg w).core).cycles + 4, .barrierComplete w k⟩ ∈ t.timers)) ∧
    (scope = 0 → ∃ t, exec (.bart h f) s = .next t ∧ Stops s t 0 (s.active h) 0x13 (BitVec.ofNat 64 g)) ∧
    (scope ≠ 0 → (s.wg w).handler = false → own = [] → seen s (bartScope kr g) = [] →
      ∃ t, exec (.bart h f) s = .next t ∧ WaitsTo s t h (.cycle (overheadEnds s (bartScope kr g))) [4] ∧ TokensKept s t)) ∧
  (∀ (s : State) (h : Hdr) (f : FmtS), s.hasGroup s.cur.core s.cur.slot = true → s.cur.phase > 0 → s.cur.nums = [4] →
    let g := f.imm.toNat % 8
    let l := s.launchOfWg s.curWg
    let inst := s.setInst l g (s.wg s.curWg).team (s.wg s.curWg).core
    let x := tblGet { launch := l, tag := g, inst := inst } s.bsets (setKey l g inst)
    ∃ t, exec (.bart h f) s = .next t ∧ WaitsOn s t (.bartGen (setKey l g inst) x.gen) [2] ∧
      tblFind t.bsets (setKey l g inst) = some { x with arrived := x.arrived + (lanesOf (s.active h)).length } ∧
      ∃ r, t.agenda = .event (.bartRelease (setKey l g inst) g) :: r) ∧
  (∀ (s : State) (h : Hdr) (f : FmtS), s.hasGroup s.cur.core s.cur.slot = true → s.cur.phase > 0 → s.cur.nums = [2] →
    s.roundsDue s.curCtx = [] → (∃ t, exec (.bar h f) s = .next t ∧ Passed s t h) ∧ ∃ t, exec (.bart h f) s = .next t ∧ Passed s t h) ∧
  (∀ (s : State) (w k : Nat), (tblGet {} (s.wg w).bars k).closing = true → ∃ t, exec (.barrierComplete w k) s = .next t ∧
    tblGet {} (t.wg w).bars k = { arrived := 0, gen := (tblGet {} (s.wg w).bars k).gen + 1, closing := false } ∧ t.groups = s.groups) ∧
  ∀ (s : State) (set tag : Nat) (x : BartSet), tblFind s.bsets set = some x → ∃ t, exec (.bartRelease set tag) s = .next t ∧ t.groups = s.groups ∧
    (x.closing = true → x.relAt ≤ s.tick → tblFind t.bsets set = some { x with arrived := 0, gen := x.gen + 1, closing := false }) ∧
    (x.closing = false → 0 < x.arrived → s.setPlaced x = true → s.setLive x ≤ x.arrived →
      let scope := (s.launch x.launch).kr.routes / 4 ^ x.tag % 4
      let d := if scope = 1 then 12 else if scope = 2 ∨ countOnes 4 (s.launch x.launch).kr.dieMask ≤ 1 then 24 else 40
      tblFind t.bsets set = some { x with closing := true, relAt := s.tick + d } ∧ ⟨0, s.tick + d, .bartRelease set x.tag⟩ ∈ t.timers)

namespace Sys2Proof.Claims

/-- R210: the gather entry g of a frame has left its die as one write of its bytes. -/
def Leaves (s : State) (die frame : Nat) (g : Gather) (o : Host.Outcome State Fault Refusal) : Prop := ∃ t, o = .next t ∧ t.mem = s.mem ∧
  tblFind (t.die die).gather frame = none ∧
  ∃ m, tblFind t.msgs s.fresh = some m ∧ m.kind = .write ∧ m.bytes = g.bytes.map (fun b => (frame * 256 + b.1, b.2)) ∧ m.causes = g.causes

end Sys2Proof.Claims

/-- R25-R29, R50, Tables 01-1, 01-5, 01-8: rdsr reads at issue and writes 6 cycles later, its sr.time and sr.xing logged under replay (R394); wrsr writes sr.fpflags and sr.fpctl at issue, sr.chk and
sr.pscratch with its result 6 cycles later, reserved bits ignored; an unassigned index, one
that software may not write, or a register outside the file is ILLEGAL 0x01, and a privileged index in a context without privilege PRIVILEGE 0x02. -/
def Obligations.SpecialRegisters : Prop := ∀ (s : State) (h : Hdr) (f : FmtS), First s →
  let act := s.active h
  let i := f.idx.toNat
  let g := s.group s.cur.core s.cur.slot
  let w := s.wg g.wg
  let c := s.ctx s.curCtx
  let wide := i = 0x06 ∨ i = 0x07 ∨ i = 0x0D ∨ i = 0x0E ∨ i = 0x13 ∨ i = 0x103
  let assigned := i ≤ 0x14 ∨ 0x100 ≤ i ∧ i ≤ 0x103
  let writable := i = 0x09 ∨ i = 0x0A ∨ i = 0x0F ∨ i = 0x103
  let fits := f.a = 0x1FE ∨ (if wide then f.a.toNat % 2 = 0 ∧ f.a.toNat + 1 < g.n else f.a.toNat < g.n)
  let imm := f.modi.getLsbD 0 = true
  let allowed := i < 0x100 ∨ c.priv = true
  let reads (l v : Nat) : Prop :=
    let t := mine s l
    (i = 0x00 → v = l) ∧ (i = 0x01 → v = g.idx) ∧ (i = 0x02 → v = w.index.toNat) ∧ (i = 0x03 → v = s.cur.core) ∧ (i = 0x04 → v = w.team) ∧
    (i = 0x05 → v = t.depth) ∧ (i = 0x06 → v = s.tick) ∧ (i = 0x07 → v = w.rwc) ∧ (i = 0x08 → v = w.ival.toNat) ∧
    (i = 0x09 → v = t.fpflags.toNat) ∧ (i = 0x0A → v = t.fpctl.toNat) ∧ (i = 0x0B → v = t.tcause.toNat) ∧ (i = 0x0C → v = t.tlanes.toNat) ∧
    (i = 0x0D → v = t.tpc.toNat) ∧ (i = 0x0E → v = t.tvalue.toNat) ∧ (i = 0x0F → v = t.chk.toNat) ∧ (i = 0x10 → v = g.n) ∧
    (i = 0x11 → v = w.gcount) ∧ (i = 0x12 → v = s.curCtx) ∧ (i = 0x13 → v = (c.ximp + c.xexp + c.xauto).toNat) ∧ (i = 0x14 → v = t.amsrc.toNat) ∧
    (i = 0x100 → v = if s.mcNext = 0 then 0xFFFFFFFF else s.mcNext - 1) ∧
    (i = 0x101 → v = (s.core s.cur.core).point % 4 + 4 * ((s.core s.cur.core).cap % 4)) ∧
    (i = 0x102 → v = c.priv.toNat + 2 * (c.debug).toNat + 4 * c.replay.toNat) ∧ (i = 0x103 → v = t.pscratch.toNat)
  let x (l : Nat) : Long := if imm then f.imm.setWidth 64 else if wide then s.selPair l f.a.toNat else (s.selWord l f.a.toNat).setWidth 64
  let takes (l : Nat) (t : Thread) : Thread := if act.getLsbD l = false then t
    else if i = 0x09 then { t with fpflags := (x l).setWidth 5 } else if i = 0x0A then { t with fpctl := (x l).setWidth 5 } else t
  (assigned → fits → allowed → Ready s act [] (if f.a = 0x1FE then [] else if wide then [f.a.toNat, f.a.toNat + 1] else [f.a.toNat]) [] →
    ∃ (v : Nat → Nat) (p : Pend), exec (.rdsr h f) s = .next (issued
        (if i = 0x06 ∨ i = 0x13 then s.noteLoads s.curWg ((lanesOf act).map (fun l => BitVec.ofNat 64 (v l))) else s) h 6 p) ∧ p.act = act ∧ p.tok = h.tok.toNat ∧ p.size = 0 ∧ p.traps = 0 ∧
      p.flags = [] ∧ p.preds = [] ∧ (∀ l ∈ lanesOf act, reads l (v l)) ∧
      p.writes = ((lanesOf act).map (fun l => laneWrites l f.a.toNat (decide wide) (v l) false)).flatten) ∧
  (assigned → writable → imm ∨ fits → allowed → Ready s act (if imm then [] else if wide then [.pair f.a.toNat] else [.reg f.a.toNat]) [] [] →
    ∃ t p, exec (.wrsr h f) s = .next t ∧ Moved s t h (fun _ => seqPos s.cur.pos) takes ∧ TokenUp s t h ∧ UnderWay s t h s.fresh p ∧
      p.due = (s.core s.cur.core).cycles + 6 ∧ p.writes = [] ∧
      p.srs = if i = 0x09 ∨ i = 0x0A then [] else (lanesOf act).map (fun l => (l, i, x l))) ∧
  (∀ (t : Thread) (y : Long), t.srWrite 0x0F y = { t with chk := y.getLsbD 0 } ∧ t.srWrite 0x103 y = { t with pscratch := y }) ∧
  (¬ (assigned ∧ fits) → ∃ t, exec (.rdsr h f) s = .next t ∧ Stops s t 0 act 0x01 (headerTv (.rdsr h f))) ∧
  (¬ (assigned ∧ writable ∧ (imm ∨ fits)) → ∃ t, exec (.wrsr h f) s = .next t ∧ Stops s t 0 act 0x01 (headerTv (.wrsr h f))) ∧
  (assigned → fits → ¬ allowed → ∃ t, exec (.rdsr h f) s = .next t ∧ Stops s t 0 act 0x02 (BitVec.ofNat 64 i))

/-- R203-R205, R224, R228, R238, R240, R252: STORE_PERFORMED_AT_HOME, once everything the message comes after is done, and no gather entry of its die holds a byte of an atomic: a release first finds what its
thread may have observed, then takes the time of its scope; a store that is held is then performed at its L1 and carries its bytes on; a write writes exactly its bytes to memory; an atomic writes
the new value, whose old one it returns; a lane of rnd.adv joins the lectern port of its region's die. A message performed is gone, and the result
that waits for it waits for one less. -/
def Obligations.WritesArePerformed : Prop := ∀ (s : State) (id : Nat) (m : Msg), tblFind s.msgs id = some m → s.msgReady m = true →
  m.proxy = none → m.readMostly = false ∨ m.collapsing = true → m.kind.isAtomic = false ∨ s.atomicGathered m = false →
  (m.widen = true → ∃ t n, exec (.storePerformedAtHome id) s = .next t ∧ t.mem = s.mem ∧ tblFind t.msgs id = some n ∧ n.widen = false ∧ n.bytes = m.bytes ∧
    (n.after = [] ∨ n.overhead = m.overhead)) ∧
  (m.widen = false →
  (m.overhead ≠ 0 → ∃ t, exec (.storePerformedAtHome id) s = .next t ∧ t.mem = s.mem ∧ tblFind t.msgs id = some { m with overhead := 0 } ∧
    ⟨m.core + 1, (s.core m.core).cycles + m.overhead, .storePerformedAtHome id⟩ ∈ t.timers) ∧
  (m.overhead = 0 → m.held = true → (∀ b ∈ m.bytes, b.1 / 256 = m.pa / 256 ∧ ∀ c ∈ m.bytes, c.1 = b.1 → c = b) →
    ∃ t, exec (.storePerformedAtHome id) s = .next t ∧ t.mem = s.mem ∧ t.hostMem = s.hostMem ∧ ∀ b ∈ m.bytes, Carried t m.die b.1 b.2) ∧
  (m.overhead = 0 → m.held = false → m.kind = .write → ∃ t, exec (.storePerformedAtHome id) s = .next t ∧ tblFind t.msgs id = none ∧
    t.hostMem = s.hostMem ∧
    ∀ a, memGet t.mem a = (((m.bytes.filter (fun b => b.1 == a)).getLast?).map (fun b => b.2)).getD (memGet s.mem a)) ∧
  (∀ slot lane pend, m.overhead = 0 → m.held = false → m.kind = .round slot lane pend → ∃ t, exec (.storePerformedAtHome id) s = .next t ∧
    t.mem = s.mem ∧ tblFind t.msgs id = none ∧
    .round m.ctx slot lane (some pend) ∈ (t.die (Config.dieOfStack (tblGet { base := 0, len := 0, stack := 0 } (s.ctx m.ctx).regions slot).stack)).lect) ∧
  ∀ op mode size src swp lane pend, m.overhead = 0 → m.held = false →
    m.kind = .atomic op mode size src swp lane pend → mode = 0 ∨ mode = 1 → size = 4 ∨ size = 8 →
    src.toNat < 2 ^ (8 * size) → swp.toNat < 2 ^ (8 * size) → op ≤ 9 → ∃ t, exec (.storePerformedAtHome id) s = .next t ∧ tblFind t.msgs id = none ∧
      let old := memNat s.mem m.pa size
      let int (x : Nat) : Int := if mode = 1 ∧ 2 ^ (8 * size - 1) ≤ x then (x : Int) - 2 ^ (8 * size) else x
      let a := src.toNat
      memNat t.mem m.pa size = (match op with
        | 0 => (old + a) % 2 ^ (8 * size)
        | 1 => if int a < int old then a else old
        | 2 => if int old < int a then a else old
        | 3 => old &&& a
        | 4 => old ||| a
        | 5 => old ^^^ a
        | 6 => a
        | 7 => if old = a then swp.toNat else old
        | 8 => if a ≤ old then 0 else old + 1
        | _ => if old = 0 ∨ a < old then a else old - 1) ∧
      (∀ b, ¬ (m.pa ≤ b ∧ b < m.pa + size) → memGet t.mem b = memGet s.mem b) ∧
      ∀ q p, pend = some q → m.pend = some q → tblFind s.pends q = some p → ∃ p', tblFind t.pends q = some p' ∧ p'.wait = p.wait - 1 ∧
        leNat (tabBytes p'.bytes (lane * 16) size) = old)

/-- R199-R201, R204, R206, R208, R210, R243, R222: FILL_ARRIVAL, which nothing blocks, gives the loads of its core that wait each byte of its fill as the die reads it or a store shown by their L1 has it (R237), an aligned 8 bytes of a lane whole;
INVALIDATION_APPLY of the one invalidation under way empties, of the one block its L1 holds, the words it names; READ_MOSTLY_COLLAPSE removes one die's replicas, and lets the write be performed
when none is left; GATHER_FLUSH and GATHER_IDLE_FLUSH make a gather entry leave as one write of its bytes. None of them changes memory. -/
def Obligations.CacheEvents : Prop :=
  (∀ (s : State) (id : Nat) (f : Fill), tblFind s.fills id = some f → s.fillBlocked f = false → f.replica = false →
    ∃ t, exec (.fillArrival id) s = .next t ∧ t.mem = s.mem ∧ tblFind t.fills id = none ∧
      ∀ q p, tblFind s.pends q = some p → p.core = f.core → (∀ x ∈ p.missing, s.waitsFor q p x.2 = false) →
        let within (x : Nat × Nat) : Prop := x.2 / 256 = f.frame ∧ f.lo ≤ x.2 / 4 % 64 ∧ x.2 / 4 % 64 ≤ f.hi
        ∃ p', tblFind t.pends q = some p' ∧ (∀ x ∈ p'.missing, x ∈ p.missing) ∧
        ∀ x ∈ p.missing, (within x → x ∉ p'.missing ∧ ((∀ y ∈ p.missing, y.1 = x.1 → y = x) →
            tblFind p'.bytes x.1 = some (s.byteFor q p x.2))) ∧
          ((∀ y ∈ p.missing, within y → p.together y x = false) → x ∈ p'.missing)) ∧
  (∀ (s : State) (core : Nat) (v : Inval) (b : Block), s.invals = [v] → v.core = core → (∃ d, v.due = some d ∧ d ≤ s.tick) → (s.core core).l1 = [b] → b.frame = v.frame → b.tag = none →
    ∃ t, exec (.invalidationApply core) s = .next t ∧ t.mem = s.mem ∧ t.invals = [] ∧
      ∀ x ∈ (t.core core).l1, ∀ w, x.lo ≤ w → w ≤ x.hi → w < 64 → v.mask.getLsbD w = false) ∧
  (∀ (s : State) (id : Nat) (m : Msg), tblFind s.msgs id = some m → s.msgReady m = true → m.widen = false → m.overhead = 0 →
    ∃ t n, exec (.readMostlyCollapse id) s = .next t ∧ t.mem = s.mem ∧ tblFind t.msgs id = some n ∧ n.collapsing = true ∧ n.bytes = m.bytes ∧
      (s.replicasOf m.pa = [] → t.agenda = .event (.storePerformedAtHome id) :: s.agenda) ∧
      ∀ d r, s.replicasOf m.pa = d :: r → n.acked = m.acked ++ [d] ∧ d ∉ t.replicasOf m.pa ∧
        (∀ b ∈ (t.die d).l2, ¬ (b.replica = true ∧ b.frame = m.pa / 256)) ∧
        ∀ c ∈ t.cores, Config.dieOfCore c.1 = d → ∀ b ∈ c.2.l1, ¬ (b.replica = true ∧ b.frame = m.pa / 256)) ∧
  ∀ (s : State) (die frame : Nat) (g : Gather), tblFind (s.die die).gather frame = some g →
    Leaves s die frame g (exec (.gatherFlush die frame) s) ∧
    ((∀ x ∈ s.timers, x.ev ≠ .gatherIdleFlush die frame) → Leaves s die frame g (exec (.gatherIdleFlush die frame) s))

/-- R274-R278, R284, R286, R294, Tables 17-1, 17-2: leases and slots. LEASE_REQUEST asks for 64 minus the numbers held; LEASE_GRANT grants
the least of the request and what the quota leaves; LEASE_REFUSE refuses a request held 2048 ticks; RELEASE_BATCH_SEND makes ready and pending
slots releasing; SLOT_FREE frees a releasing slot that nothing reads, its generation one higher modulo 64. -/
def Sys2Proof.Claims.LeasesAndSlots : Prop := ∀ (s : State) (core ctx home : Nat),
  let lease := s.lease core ctx home
  let count := ((s.home home).slots.filter (fun p => p.2.st ≠ 0 && p.2.ctx = ctx)).length
  let quota := (s.ctx ctx).quota.getD home 0
  (∃ t, exec (.leaseRequest core ctx home) s = .next t ∧ t.mem = s.mem ∧ t.homes = s.homes ∧
    t.lease core ctx home = if lease.nums.length < 32 ∧ lease.refused = false ∧ lease.asked = 0 then
      { lease with asked := 64 - lease.nums.length, refused := false } else lease) ∧
  (lease.asked ≠ 0 → s.residentOn core ctx = true → ∃ t, exec (.leaseGrant core ctx home) s = .next t ∧ t.mem = s.mem ∧
    (count < quota → ∃ ns, ns.length = min lease.asked (quota - count) ∧ t.lease core ctx home = { nums := lease.nums ++ ns, asked := 0, refused := false } ∧
      ∀ n ∈ ns, (tblGet {} (s.home home).slots n.1).st = 0 ∧ n.2 = (tblGet {} (s.home home).slots n.1).gen ∧
        tblGet {} (t.home home).slots n.1 = { st := 1, gen := n.2, ctx := ctx })) ∧
  ((∃ r ∈ (s.home home).reqs, r.core = core ∧ r.ctx = ctx ∧ r.due ≤ s.tick) → ∃ t, exec (.leaseRefuse core ctx home) s = .next t ∧
    t.lease core ctx home = { lease with asked := 0, refused := true } ∧ ∀ r ∈ (t.home home).reqs, ¬ (r.core = core ∧ r.ctx = ctx)) ∧
  (let b := tblGet {} (s.core core).rel home
   b.nums ≠ [] → 32 ≤ b.nums.length ∨ b.oldest + 64 ≤ (s.core core).cycles → ∃ t, exec (.releaseBatchSend core home) s = .next t ∧
    tblFind (t.core core).rel home = none ∧ ∀ n ∈ b.nums, (tblGet {} (s.home home).slots n.1).st = 2 ∨ (tblGet {} (s.home home).slots n.1).st = 3 →
      (tblGet {} (t.home home).slots n.1).st = 4) ∧
  ∀ n, (tblGet {} (s.home home).slots n).st = 4 → (tblGet {} (s.home home).slots n).readers = 0 → s.forming home n = false →
    ∃ t, exec (.slotFree home n) s = .next t ∧
      tblGet {} (t.home home).slots n = { st := 0, gen := ((tblGet {} (s.home home).slots n).gen + 1) % 64 }

/-- R279-R283, R287: HOME_OPERATION_EXECUTE computes what its instruction computes of its arguments, the value of each slot for a proxy word, makes its slot
ready and gives each slot read back one reader; CROSSING_RETURN brings one value, counted, and with the last one the instruction goes on. -/
def Sys2Proof.Claims.HomeOperationsAndCrossings : Prop :=
  (∀ (s : State) (id n : Nat) (o : HomeOp), tblFind s.homeOps id = some o → s.bad = [] → o.after = [] → o.res = some n →
    let words := (o.args.map (fun a => match a with | .plain _ => [] | .slot w => [w])).flatten
    let slotOf (w : Word) : SbSlot := tblGet {} (s.home (w.toNat / 2 ^ 28)).slots (w.toNat / 64 % 2 ^ 22)
    (∀ w ∈ words, (slotOf w).full = true ∧ (slotOf w).gen = w.toNat % 64) → (tblGet {} (s.home o.stack).slots n).st = 2 →
    (∀ w ∈ words, ¬ (w.toNat / 2 ^ 28 = o.stack ∧ w.toNat / 64 % 2 ^ 22 = n)) →
    let args := o.args.map (fun a => match a with | .plain w => w.toNat | .slot w => (slotOf w).val.toNat)
    ∃ t, exec (.homeOperationExecute id) s = .next t ∧ t.mem = s.mem ∧ tblFind t.homeOps id = none ∧
      let x := tblGet {} (t.home o.stack).slots n
      x.st = 3 ∧ x.full = true ∧ (∀ pa, o.elem = some pa → x.val = BitVec.ofNat 32 (memNat s.mem pa 4)) ∧
      (o.elem = none → x.val = BitVec.ofNat 32 (homeEval o.instr (o.flags.testBit 0) (o.flags.testBit 1) args).bits)) ∧
  ∀ (s : State) (core slot : Nat) (x : Xing) (o : XOp), s.hasGroup core slot = true → (s.group core slot).xings = [x] → x.ops = [o] → o.got = false →
    x.iss.phase > 0 → s.bad = [] →
    let z := tblGet {} (s.home (o.word.toNat / 2 ^ 28)).slots (o.word.toNat / 64 % 2 ^ 22)
    z.full = true → z.gen = o.word.toNat % 64 → ∃ t k r, exec (.crossingReturn core slot x.id 0) s = .next t ∧ t.mem = s.mem ∧
      (t.group core slot).xings = [] ∧ t.agenda = .resume k x.instr :: r ∧
      tblFind k.caps (crossKey o.lane o.reg) = some z.val ∧ k.failed = x.iss.failed ∧
      let c := s.ctx (s.ctxOfWg (s.wgOf core slot))
      let d := t.ctx (s.ctxOfWg (s.wgOf core slot))
      (d.ximp, d.xexp, d.xauto) = (c.ximp + if o.count = 0 then 1 else 0, c.xexp + if o.count = 1 then 1 else 0, c.xauto + if o.count = 2 then 1 else 0)

/-- R290-R295: ld.p of one active lane names a slot of its home and writes that slot's proxy word; mat puts the plain values under way; pxrel writes zeros 4 cycles
later; pxq asks the home, or counts crossings; pxlease keeps its token raised until its lease holds n numbers; pxlease.ret gives all back. -/
def Obligations.ProxyInstructions : Prop := ∀ (s : State) (h : Hdr) (a : FmtA) (e : FmtE) (m : FmtM), First s → s.replaying s.curWg = false →
  let act := s.active h
  let regs := (List.range (e.par.toNat % 512)).map (fun j => e.a.toNat + j)
  let item := e.handle.toNat % 16
  let home := e.par.toNat % 16
  let lease := s.lease s.cur.core s.curCtx item
  (Ready s act [.reg a.a.toNat] (if a.dst = 0x1FE then [] else [a.dst.toNat]) [] → PassesTo s h (exec (.mat h a) s) (fun t => TokenUp s t h ∧
    ∃ p, UnderWay s t h s.fresh p ∧ p.size = 0 ∧ p.writes =
      ((lanesOf act).map (fun l => laneWrites l a.dst.toNat false (s.selWord l a.a.toNat).toNat false)).flatten)) ∧
  (Ready s act [] regs [] → PassesTo s h (exec (.pxrel h e) s) (fun t => TokenUp s t h ∧ ∃ p, UnderWay s t h s.fresh p ∧ p.kind = 0 ∧
    p.due = (s.core s.cur.core).cycles + 4 ∧ p.writes = ((lanesOf act).map (fun l => regs.map (fun r => (⟨l, r, 0, false⟩ : LaneWrite)))).flatten)) ∧
  (Ready s act [] (if e.a = 0x1FE then [] else if item ≥ 3 then [e.a.toNat, e.a.toNat + 1] else [e.a.toNat]) [] → act ≠ 0 →
    (item < 3 → PassesTo s h (exec (.pxq h e) s) (fun t => ∃ p q, UnderWay s t h s.fresh p ∧ p.wait = 1 ∧ q ∈ t.homeOps ∧ q.2.stack = home ∧
      q.2.flags = item ∧ q.2.msg = some s.fresh)) ∧
    (3 ≤ item → item ≤ 6 → PassesTo s h (exec (.pxq h e) s) (fun t => ∃ p, UnderWay s t h s.fresh p ∧ p.due = (s.core s.cur.core).cycles + 8 ∧
      p.writes = ((lanesOf act).map (fun l => laneWrites l e.a.toNat true (if item = 3 then (s.ctx s.curCtx).ximp else if item = 4 then
        (s.ctx s.curCtx).xexp else if item = 5 then (s.ctx s.curCtx).xauto else (s.ctx s.curCtx).pauto).toNat false)).flatten))) ∧
  (act ≠ 0 → e.par.toNat % 128 ≤ lease.nums.length → PassesTo s h (exec (.pxlease h e) s) (fun t => TokensKept s t)) ∧
  (act ≠ 0 → lease.nums.length < e.par.toNat % 128 → lease.asked = 0 → lease.nums.length < 64 → PassesTo s h (exec (.pxlease h e) s) (fun t => TokenUp s t h ∧
    (t.lease s.cur.core s.curCtx item).asked = 64 - lease.nums.length ∧ ∃ w, (t.group s.cur.core s.cur.slot).waits =
      (s.group s.cur.core s.cur.slot).waits ++ [w] ∧ w.cond = .lease item (e.par.toNat % 128) ∧ w.iss.lanes = 0)) ∧
  (act ≠ 0 → PassesTo s h (exec (.pxleaseRet h e) s) (fun t => (t.lease s.cur.core s.curCtx item).nums = [] ∧
    ∀ n ∈ lease.nums, (tblGet {} (t.home item).slots n.1).st = 0)) ∧
  (LoadReady s h m (.pair m.addr.toNat) 4 → ∀ l pa en n g, lanesOf act = [l] → m.data ≠ 0x1FE → addrOf s m l % 4 = 0 →
    s.checkG .element 4 4 (addrs s h m) = .ok [⟨l, addrOf s m l, pa, en⟩] →
    (s.lease s.cur.core s.curCtx (pa / 2 ^ 36 % 16)).nums.head? = some (n, g) → l < (s.group s.cur.core s.cur.slot).threads.length →
    ∃ t, exec (.ldP h m) s = .next t ∧ t.mem = s.mem ∧ (t.wg s.curWg).rwc = (s.wg s.curWg).rwc + 1 ∧
      (t.thread s.cur.core s.cur.slot l).reg m.data.toNat = ⟨BitVec.ofNat 32 (pa / 2 ^ 36 % 16 * 2 ^ 28 + n * 64 + g), true⟩ ∧
      (t.thread s.cur.core s.cur.slot l).pos = seqPos s.cur.pos ∧ (tblGet {} (t.home (pa / 2 ^ 36 % 16)).slots n).st = 2 ∧
      ∃ q ∈ t.homeOps, q.2.res = some n ∧ q.2.elem = some pa ∧ q.2.stack = pa / 2 ^ 36 % 16)

namespace Sys2Proof.Claims

/-- R308: the operands that the lowest active lane alone reads are ready. -/
def LowReady (s : State) (h : Hdr) (srcs : List Src) : Prop := First s ∧ (s.active h = 0 ∨
  s.shortFault (BitVec.ofNat 32 (2 ^ s.lowLane h)) (srcRegs srcs) [] = none ∧ (∀ x ∈ srcs, s.srcProxy (s.lowLane h) x = false) ∧ s.badOperands (BitVec.ofNat 32 (2 ^ s.lowLane h)) srcs = [])

/-- R309: an instruction that does not wait passes, and its token falls 8 cycles after its effect. -/
def Passed8 (s t : State) (h : Hdr) : Prop := Passed s t h ∧ TokenUp s t h ∧
  ∃ p ∈ t.pends, p.2.tok = h.tok.toNat ∧ p.2.due = (s.core s.cur.core).cycles + 8 ∧ p.2.core = s.cur.core ∧ p.2.slot = s.cur.slot

/-- Table 18-1: the unit in bytes, depth and base of a ring control word. -/
def unitOf (c : Long) : Nat := c.toNat / 2 ^ 31 % 2 ^ 11 * 256
def depthOf (c : Long) : Nat := c.toNat / 2 ^ 24 % 2 ^ 7
def baseOf (c : Long) : Nat := c.toNat % 2 ^ 19

end Sys2Proof.Claims

/-- R298, R309: cpy.slice supplies its group's slice, after its own accesses; cpy.wait passes when the copy slots of its mask are idle, waits while they
are not, and is BUF_STATE 0x10 for a slot its group still owes a slice. -/
def Obligations.CopyInstructions : Prop := ∀ (s : State) (h : Hdr) (f : FmtE),
  let act := s.active h
  let w := s.curWg
  let k := f.par.toNat % 8
  let dk := f.par.toNat / 8 % 4
  let l := s.lowLane h
  let srcs := (List.range 5).map (fun j => Src.reg (f.a.toNat + j)) ++ [.reg f.b.toNat, .reg f.c.toNat]
  let idle (j : Nat) : Prop := f.par.toNat.testBit j = true → (s.copySlot w j).st = 0
  let owed (j : Nat) : Prop := f.par.toNat.testBit j = true ∧ (s.copySlot w j).st = 1 ∧
    ∀ x ∈ (s.copySlot w j).slices, x.group ≠ (s.group s.cur.core s.cur.slot).idx
  (LowReady s h srcs → (act = 0 ∨ dk ≠ 1) → s.accessesOf s.cur.lanes false = [] → seen s 0 = [] →
    ∃ t, exec (.cpySlice h f) s = .next t ∧ Passed8 s t h ∧ (∃ r, t.agenda = .event (.copyStart w k) :: r) ∧
      ∃ x, (t.copySlot w k).slices = (s.copySlot w k).slices ++ [x] ∧ ((s.copySlot w k).st = 0 → (t.copySlot w k).st = 1) ∧
        x.group = (s.group s.cur.core s.cur.slot).idx ∧ x.empty = decide (act = 0) ∧ x.pos = s.cur.pos ∧ x.handle = f.handle.toNat ∧ x.dk = dk ∧
        x.org = (List.range 5).map (fun j => s.selWord l (f.a.toNat + j)) ∧ x.dst = s.selWord l f.b.toNat ∧ x.part = s.selWord l f.c.toNat) ∧
  (First s →
    ((∀ j, j < 8 → idle j) → s.roundsDue s.curCtx = [] → Retires s h (exec (.cpyWait h f) s) (fun _ => seqPos s.cur.pos) (fun _ x => x)) ∧
    (∀ j, j < 8 → owed j → (∀ i, i < j → ¬ owed i) → ∃ t, exec (.cpyWait h f) s = .next t ∧
      Stops s t 0 act 0x10 (BitVec.ofNat 64 (2 ^ 20 + 256 * j))) ∧
    ((∀ j, j < 8 → ¬ owed j) → (∃ j, j < 8 ∧ ¬ idle j) → ∃ t x, exec (.cpyWait h f) s = .next t ∧ Elsewhere s t ∧
      (t.group s.cur.core s.cur.slot).waits = (s.group s.cur.core s.cur.slot).waits ++ [x] ∧ x.cond = .copies (f.par.toNat % 256) ∧
      x.iss.lanes = s.cur.lanes))

/-- R298-R303, R307, R310, R312, Table 18-4: COPY_START queues a copy whose slices are all in and pass the checks, to start 8 cycles later, or halts its
workgroup at assembly; those of a workgroup that is halted, parked or about to be parked stay as they are; a queued copy that may start locks its destination and source; in each cycle of its core a running copy writes the next
of its elements, each as its source stands then, at the address its page was translated to at assembly (R366), up to 256 bytes; COPY_COMPLETE removes the locks, fills the slot the copy wrote and leaves the copy slot idle. -/
def Obligations.CopyEngine : Prop := ∀ (s : State) (w k : Nat),
  let c := s.copySlot w k
  let core := (s.wg w).core
  let l := layoutOf c.layout
  let org := match c.live with | a :: _ => a.org | [] => []
  (c.st = 1 → s.copyFull w c = false → exec (.copyStart w k) s = .next s) ∧
  (c.st = 1 → s.copiesGoOn w = false → exec (.copyStart w k) s = .next s) ∧
  (c.st = 1 → s.copyFull w c = true → s.copiesGoOn w = true →
    (s.copyCheck w k = .ok → ∃ t, exec (.copyStart w k) s = .next t ∧ t.mem = s.mem ∧ (t.copySlot w k).st = 2 ∧ (t.copySlot w k).slices = c.slices ∧
      (t.copySlot w k).ready = (s.core core).cycles + 8 ∧ ⟨core + 1, (s.core core).cycles + 8, .copyStart w k⟩ ∈ t.timers) ∧
    (∀ code tv x, s.copyCheck w k = .fault code tv x → ∃ t, exec (.copyStart w k) s = .next t ∧ t.mem = s.mem ∧
      (t.wg w).halt = some { code := code, kind := 2, pos := x.pos, tvalue := BitVec.ofNat 64 tv, time := s.tick })) ∧
  (c.st = 2 → (∀ y ∈ s.copiesOn core, y.2.2.st = 2 → y.1 = w ∧ y.2.1 = k) → s.mayStart w k = true → c.kind = 0 → c.live ≠ [] →
    ∃ t, exec (.copyStart w k) s = .next t ∧ (t.copySlot w k).st = 3 ∧ (t.copySlot w k).taken = true ∧ (t.copySlot w k).dest = c.value ∧
    ⟨w, k, true, c.value, l.footprint⟩ ∈ (t.core core).locks ∧ ∀ b n, c.span = some (b, n) → ⟨w, k, false, b, n⟩ ∈ (t.core core).locks) ∧
  ((s.wg w).phase = 1 ∨ (s.wg w).halt.isSome = true ∨ s.mustPark w = true → s.copiesGoOn w = false ∧ s.mayStart w k = false) ∧
  (s.copiesInOrder core 3 = [(w, k)] → c.st = 3 → c.taken = true → c.ready ≤ (s.core core).cycles →
    let todo := (c.items.drop c.done).take (256 / l.esz)
    todo ≠ [] → ∃ t, Poll.run (.copyMove core) s = .next t ∧ (t.copySlot w k).done = c.done + todo.length ∧
      (c.done + todo.length = c.items.length → ∃ r, t.agenda = .event (.copyComplete w k) :: r)) ∧
  (∀ x, s.bad = [] → c.kind ≠ 2 →
    let data : List Byte := match l.elemVA org x.1 x.2 with
      | some va => (match tblFind c.pages (va / 65536) with
        | some (p, e) => (List.range l.esz).map (fun j => s.leafByte core (s.ctxOfWg w) (va + j) (p + (va + j) % 65536) e)
        | none => List.replicate l.esz 0)
      | none => List.replicate l.esz 0
    let bytes := placed (l.destOff x.1 x.2) data ++ if x.2 + 1 = l.ext.headD 1 then l.padding x.1 else []
    (State.copyElem w k s x).mem = s.mem ∧ ∀ a, tblGet 0 ((State.copyElem w k s x).wg w).sp a =
      (((bytes.filter (fun b => c.dest + b.1 == a)).getLast?).map (fun b => b.2)).getD (tblGet 0 (s.wg w).sp a)) ∧
  (c.st = 3 → c.taken = true → c.items.length ≤ c.done →
    (c.kind = 0 → ∃ t, exec (.copyComplete w k) s = .next t ∧ t.mem = s.mem ∧ t.copySlot w k = {} ∧ (t.wg w).sp = (s.wg w).sp ∧
      ∀ y ∈ (t.core core).locks, ¬ (y.owner = w ∧ y.slot = k)) ∧
    (c.kind = 2 → c.live ≠ [] → ∃ t, exec (.copyComplete w k) s = .next t ∧ t.copySlot w k = {} ∧
      (t.opmSlot core c.value).st = 3 ∧ (t.opmSlot core c.value).version = (s.opmSlot core c.value).version + 1))

/-- R304, R305, R308, R309, Tables 18-1, 18-2: ring.init reads its control word from scratchpad and starts with every slot free, RANGE_LOCK 0x0A where a copy is writing that word; ring.pop takes the full slot at
the pop index for draining and writes its offset; ring.rel frees the draining slot at the release index; an uninitialised ring or a slot in another
state is BUF_STATE 0x10. -/
def Sys2Proof.Claims.StagingRings : Prop := ∀ (s : State) (h : Hdr) (f : FmtE), s.active h ≠ 0 →
  let act := s.active h
  let w := s.curWg
  let j := f.handle.toNat % 16
  let r := s.ring w j
  let d := depthOf r.control
  let off := (s.selWord (s.lowLane h) f.a.toNat).toNat
  let c := BitVec.ofNat 64 (leNat (tabBytes (s.wg w).sp off 8))
  (LowReady s h [.reg f.a.toNat] → off % 8 = 0 → off + 8 ≤ (s.wg w).spSize → s.destLocked w off 8 = true →
    ∃ t, exec (.ringInit h f) s = .next t ∧ Stops s t 0 act 0x0A (BitVec.ofNat 64 off)) ∧
  (LowReady s h [.reg f.a.toNat] → off % 8 = 0 → off + 8 ≤ (s.wg w).spSize → s.destLocked w off 8 = false → c.toNat / 2 ^ 42 = 0 → c.toNat / 2 ^ 19 % 2 ^ 5 = 0 →
    unitOf c ≠ 0 → 1 ≤ depthOf c → depthOf c ≤ 64 → baseOf c % 256 = 0 → baseOf c + depthOf c * unitOf c ≤ (s.wg w).spSize →
    (r.inited = true → ∀ m, m < d → r.slot m = 0) → ∃ t, exec (.ringInit h f) s = .next t ∧ Passed8 s t h ∧
      t.ring w j = { inited := true, control := c, free := depthOf c }) ∧
  (First s → Ready s act [] (if f.a = 0x1FE then [] else [f.a.toNat]) [] →
    (r.inited = true → r.slot r.pop = 2 → s.roundsDue s.curCtx = [] → ∃ t, exec (.ringPop h f) s = .next t ∧ Elsewhere s t ∧
      t.ring w j = { r with slots := tblPut r.slots r.pop 3, filled := r.filled - 1, pop := (r.pop + 1) % d } ∧
      (t.wg w).rwc = (s.wg w).rwc + 1 ∧ ∀ l ∈ lanesOf act, l < (s.group s.cur.core s.cur.slot).threads.length → f.a ≠ 0x1FE →
        (t.thread s.cur.core s.cur.slot l).pos = seqPos s.cur.pos ∧
        (t.thread s.cur.core s.cur.slot l).reg f.a.toNat = ⟨BitVec.ofNat 32 (baseOf r.control + r.pop * unitOf r.control), false⟩) ∧
    (r.inited = true → r.slot r.pop ≠ 2 → ∃ t, exec (.ringPop h f) s = .next t ∧ Waits s t h (.ringFull j)) ∧
    (r.inited = false → ∃ t, exec (.ringPop h f) s = .next t ∧ Stops s t 0 act 0x10 (BitVec.ofNat 64 (j + 2 ^ 19)))) ∧
  (First s →
    (r.inited = true → r.slot r.rel = 3 → s.accessesOf act false = [] → seen s 0 = [] → ∃ t, exec (.ringRel h f) s = .next t ∧ Passed8 s t h ∧
      t.ring w j = { r with slots := tblPut r.slots r.rel 0, free := r.free + 1, rel := (r.rel + 1) % d }) ∧
    (r.inited = true → r.slot r.rel ≠ 3 → ∃ t, exec (.ringRel h f) s = .next t ∧
      Stops s t 0 act 0x10 (BitVec.ofNat 64 (j + 256 * (r.rel % 64) + 65536 * r.slot r.rel))))

/-- R305, R308, R309, Table 18-2: buf.wait passes when its slot is in the state it names and waits otherwise; buf.set moves the slot at the fill index to filling, a
slot it filled to full, or the draining slot at the release index to free, and is BUF_STATE 0x10 where the slot is in no such state. -/
def Sys2Proof.Claims.BufferSlots : Prop := ∀ (s : State) (h : Hdr) (f : FmtE), s.active h ≠ 0 → LowReady s h (if f.a = 0x1FE then [] else [.reg f.a.toNat]) →
  let act := s.active h
  let w := s.curWg
  let j := f.handle.toNat % 16
  let r := s.ring w j
  let d := depthOf r.control
  let st := f.par.toNat / 64 % 4
  let m := (f.par.toNat % 64 + if f.a = 0x1FE then 0 else (s.selWord (s.lowLane h) f.a.toNat).toNat) % d
  r.inited = true →
  (r.slot m = st → st = 2 → s.roundsDue s.curCtx = [] → ∃ t, exec (.bufWait h f) s = .next t ∧ Passed s t h) ∧
  (r.slot m = st → st ≠ 2 → ∃ t, exec (.bufWait h f) s = .next t ∧ Passed s t h) ∧
  (r.slot m ≠ st → ∃ t, exec (.bufWait h f) s = .next t ∧ Waits s t h (.bufState j m st)) ∧
  (st = 1 → r.slot m = 0 → m = r.fill → ∃ t, exec (.bufSet h f) s = .next t ∧ Passed8 s t h ∧
    t.ring w j = { r with slots := tblPut r.slots m 1, free := r.free - 1, fill := (r.fill + 1) % d, bySet := m :: r.bySet }) ∧
  (s.accessesOf act false = [] → seen s 0 = [] →
    (st = 2 → r.slot m = 1 → m ∈ r.bySet → ∃ t, exec (.bufSet h f) s = .next t ∧ Passed8 s t h ∧
      (t.ring w j).slot m = 2 ∧ (t.ring w j).filled = r.filled + 1) ∧
    (st = 0 → r.slot m = 3 → m = r.rel → ∃ t, exec (.bufSet h f) s = .next t ∧ Passed8 s t h ∧
      t.ring w j = { r with slots := tblPut r.slots m 0, free := r.free + 1, rel := (r.rel + 1) % d })) ∧
  (st = 3 ∨ st = 1 ∧ r.slot m ≠ 0 ∨ st = 2 ∧ r.slot m ≠ 1 ∨ st = 0 ∧ r.slot m ≠ 3 → ∃ t, exec (.bufSet h f) s = .next t ∧
    Stops s t 0 act 0x10 (BitVec.ofNat 64 (j + 256 * (m % 64) + 65536 * r.slot m)))

/-- R311, R313, R324, R325, R330: opm.claim takes the lowest run of free units, zeroing banks, and gives its first number, or waits in order; opm.rel gives
units back once they are idle, and is OPM 0x0F, reason 1, for a unit the workgroup does not hold. -/
def Obligations.OperandUnits : Prop := ∀ (s : State) (h : Hdr) (f : FmtE), s.active h ≠ 0 →
  let act := s.active h
  let core := s.cur.core
  let w := s.curWg
  let kind := f.par.toNat / 64 % 2
  let n := f.par.toNat % 64
  let total := if kind = 0 then 32 else 4
  let free (t : State) (u : Nat) : Prop := if kind = 0 then (t.opmSlot core u).st = 0 else (t.bank core u).held = false
  let held (t : State) (u : Nat) : Prop := if kind = 0 then (t.opmSlot core u).st ≠ 0 ∧ (t.opmSlot core u).holder = w
    else (t.bank core u).held = true ∧ (t.bank core u).holder = w
  let run (b : Nat) : Prop := b + n ≤ total ∧ ∀ i, i < n → free s (b + i)
  let first := (s.selWord (s.lowLane h) f.a.toNat).toNat
  (First s → Ready s act [] (if f.a = 0x1FE then [] else [f.a.toNat]) [] → 1 ≤ n →
    (∀ b, (∀ c ∈ (s.core core).claims, c.kind ≠ kind) → run b → (∀ a, a < b → ¬ run a) → ∃ t p, exec (.opmClaim h f) s = .next t ∧ Passed8 s t h ∧
      UnderWay s t h s.fresh p ∧ p.writes = ((lanesOf act).map (fun l => laneWrites l f.a.toNat false b false)).flatten ∧
      ∀ i, i < n → held t (b + i) ∧ (kind = 1 → (t.bank core (b + i)).elems = [])) ∧
    ((∃ c ∈ (s.core core).claims, c.kind = kind) ∨ (∀ b, ¬ run b) → ∃ t, exec (.opmClaim h f) s = .next t ∧ Waits s t h (.claim s.fresh) ∧
      (t.core core).claims = (s.core core).claims ++ [⟨s.fresh, w, kind, n⟩])) ∧
  (LowReady s h [.reg f.a.toNat] → first + n ≤ total →
    ((∀ i, i < n → held s (first + i)) → s.unitsIdle core kind first n = true → ∃ t, exec (.opmRel h f) s = .next t ∧ Passed8 s t h ∧
      ∀ i, i < n → free t (first + i)) ∧
    (∀ i, i < n → ¬ held s (first + i) → (∀ k, k < i → held s (first + k)) → ∃ t, exec (.opmRel h f) s = .next t ∧
      Stops s t 0 act 0x0F (BitVec.ofNat 64 (1 + 256 * (first + i)))))

/-- R318, R319, R326-R329: mma makes its threads wait while its blocks are read, 8 + 2 cycles a chunk; MMA_ACCEPT lets an operation enter the queue of 8; mma.wait waits
for the mma of its banks; acc.ld and acc.clr enter the queue for a bank the workgroup holds, and are OPM 0x0F, reason 1, for another. -/
def Sys2Proof.Claims.MatrixInstructions : Prop :=
  (∀ (s : State) (h : Hdr) (f : FmtE), First s → s.active h ≠ 0 →
    let act := s.active h
    let core := s.cur.core
    let w := s.curWg
    let off := (s.selWord (s.lowLane h) f.a.toNat).toNat
    let n := f.par.toNat % 64 + 1
    let ids := ((s.core core).mq.filter (fun o => o.kind == 0 && o.wg == w && o.banks.any (fun b => f.par.toNat.testBit b))).map MmaOp.id
    let place (l : Nat) : Nat := (s.selWord l f.a.toNat).toNat
    let b := (s.selWord (s.lowLane h) f.a.toNat).toNat % 4
    (Ready s act [.reg f.a.toNat] [] [] → ∃ t id, exec (.mma h f) s = .next t ∧ Waits s t h .event ∧ TokenUp s t h ∧
      ⟨core + 1, (s.core core).cycles + 8 + 2 * ((leNat (tabBytes (s.wg w).sp off 4)) / 4 % 8 + 1), .mmaAccept core s.cur.slot id⟩ ∈ t.timers) ∧
    (ids = [] → Retires s h (exec (.mmaWait h f) s) (fun _ => seqPos s.cur.pos) (fun _ x => x)) ∧
    (ids ≠ [] → ∃ t, exec (.mmaWait h f) s = .next t ∧ Waits s t h (.gone ids [])) ∧
    (Ready s act [.reg f.a.toNat] ((List.range n).map (fun j => f.b.toNat + j)) [] →
      (∀ l ∈ lanesOf act, s.holdsBank core w (place l / 2 ^ 16 % 4) = true ∧ place l / 2 ^ 8 % 2 ^ 7 + n ≤ 128) →
      ∃ t p o, exec (.accLd h f) s = .next t ∧ Passed s t h ∧ TokenUp s t h ∧ UnderWay s t h s.fresh p ∧ p.wait = 1 ∧
        (t.core core).mq = (s.core core).mq ++ [o] ∧ o.id = s.fresh ∧ o.kind = 2) ∧
    (LowReady s h [.reg f.a.toNat] →
      (s.holdsBank core w b = true → ∃ t o, exec (.accClr h f) s = .next t ∧ Passed s t h ∧ TokenUp s t h ∧
        (t.core core).mq = (s.core core).mq ++ [o] ∧ o.id = s.fresh ∧ o.kind = 1 ∧ o.banks = [b]) ∧
      (s.holdsBank core w b = false → ∃ t, exec (.accClr h f) s = .next t ∧ Stops s t 0 act 0x0F (BitVec.ofNat 64 (1 + 256 * b))))) ∧
  (∀ (s : State) (h : Hdr) (f : FmtE), s.hasGroup s.cur.core s.cur.slot = true → s.cur.phase > 0 → s.cur.nums = [9] →
    (∃ t, exec (.mma h f) s = .next t ∧ Passed s t h) ∧ ∃ t, exec (.mmaWait h f) s = .next t ∧ Passed s t h) ∧
  ∀ (s : State) (core slot l : Nat) (x : Waiting) (h : Hdr) (f : FmtE) (b : List Byte), s.hasGroup core slot = true → (s.group core slot).waits = [x] →
    x.iss.nums = [l] → x.instr = .mma h f → x.iss.core = core → x.iss.slot = slot →
    x.iss.failed = [] → State.blockCheck { s with cur := x.iss } (s.wgOf core slot) (State.selWord { s with cur := x.iss } l f.a.toNat).toNat = .ok b →
    (((s.core core).mq.filter (fun o => o.kind = 0)).length < 8 → ∃ t o, exec (.mmaAccept core slot x.id) s = .next t ∧ t.mem = s.mem ∧
      t.agenda = .resume { x.iss with nums := [9] } (.mma h f) :: s.agenda ∧ (t.core core).mq = (s.core core).mq ++ [o] ∧
      o.kind = 0 ∧ o.wg = s.wgOf core slot ∧ o.lane = l ∧ o.block = b ∧ o.running = false) ∧
    (8 ≤ ((s.core core).mq.filter (fun o => o.kind = 0)).length → exec (.mmaAccept core slot x.id) s = .next (s.inTicks 1 (.mmaAccept core slot x.id)))

/-- R317, R320, R322, R328, R329, Table 19-6: MMA_START lets an mma run 16 cycles and 128 or 256 for each chunk it applies, clears a bank for acc.clr, and
reads the banks for acc.ld, each staying an operation until it is complete; MMA_COMPLETE applies to each element of the bank of the mma the chunks before
an uncorrectable codeword (all where there is none), which leaves the queue; where there is one its workgroup halts with UNCORRECTABLE 0x12. -/
def Sys2Proof.Claims.MatrixEngine : Prop := ∀ (s : State) (core : Nat) (o : MmaOp),
  let cycles := (s.core core).cycles
  let n := s.chunksDone core o
  (s.badChunk core o = none → n = o.control.toNat / 4 % 8 + 1) ∧
  (∀ kc b, s.badChunk core o = some (kc, b) → n = kc) ∧
  (s.nextOp core = some o → o.kind = 0 → ∃ t, exec (.mmaStart core) s = .next t ∧
    let due := cycles + 16 + (if o.control.toNat % 4 = 0 then 128 else 256) * n
    (∀ x ∈ (t.core core).mq, x.id = o.id → x.running = true ∧ x.due = due) ∧ ⟨core + 1, due, .mmaComplete core⟩ ∈ t.timers) ∧
  (∀ p, s.nextOp core = some o → o.kind = 1 → tblFind s.pends o.id = some p → ∃ t p', exec (.mmaStart core) s = .next t ∧
    (∀ x ∈ (t.core core).mq, x.id = o.id → x.running = true) ∧ tblFind t.pends o.id = some p' ∧ p'.wait = 0 ∧
    (t.bank core (o.banks.headD 0)).elems = [] ∧ ⟨core + 1, cycles + 4, .loadCompletion o.id⟩ ∈ t.timers) ∧
  (∀ p w l, s.nextOp core = some o → o.kind = 2 → tblFind s.pends o.id = some p → o.sa = [w] → o.sb = [l] →
    ∃ t p', exec (.mmaStart core) s = .next t ∧ (∀ x ∈ (t.core core).mq, x.id = o.id → x.running = true) ∧ tblFind t.pends o.id = some p' ∧ p'.wait = 0 ∧
      (s.bad = [] → p'.bad = none) ∧
      p'.writes = (List.range o.lane).map (fun j => ⟨l.toNat, p.dst + j, tblGet 0 (s.bank core (w.toNat / 2 ^ 16 % 4)).elems
        (128 * (w.toNat % 2 ^ 7) + w.toNat / 2 ^ 8 % 2 ^ 7 + j), false⟩) ∧
      ⟨core + 1, cycles + (8 + (o.lane + 3) / 4), .loadCompletion o.id⟩ ∈ t.timers) ∧
  (∀ p, tblFind s.pends o.id = some p → p.missing = [] → p.wait = 0 → Unwaited s o.id →
    ∃ t, exec (.loadCompletion o.id) s = .next t ∧ ∀ x ∈ (t.core p.core).mq, x.id ≠ o.id) ∧
  ((s.core core).mq.find? (fun x => x.running && x.kind = 0 && x.due ≤ cycles) = some o → ∃ t, exec (.mmaComplete core) s = .next t ∧ t.mem = s.mem ∧
    (∀ x ∈ (t.core core).mq, x.id ≠ o.id) ∧ (∀ e, e < 16384 → tblGet 0 (t.bank core (o.banks.headD 0)).elems e =
      BitVec.ofNat 32 (s.mmaElem core o n (tblGet 0 (s.bank core (o.banks.headD 0)).elems e).toNat (e / 128) (e % 128))) ∧
    ∀ x, s.badChunk core o = some x → t.mcNext = s.mcNext + 1 ∧ ((s.wg o.wg).halt = none → ∃ r, (t.wg o.wg).halt = some r ∧ r.code = 0x12 ∧ r.kind = 2))

namespace Sys2Proof.Claims

/-- The physical address of a completion record that may be written to memory. -/
def RecordAt (s : State) (ctx va pa : Nat) : Prop := va ≠ 0 ∧ s.mayWrite ctx va = true ∧ ∃ e, s.walk ctx va = .ok pa e ∧ leafWindow e = false

/-- R175: the outcome is a state in which launch or launch.at has submitted the record of each active lane, after that lane's own accesses. -/
def Submits (s : State) (h : Hdr) (f : FmtS) (timed : Bool) (o : Host.Outcome State Fault Refusal) : Prop :=
  ∃ t p, o = .next t ∧ Passed s t h ∧ TokenUp s t h ∧ UnderWay s t h s.fresh p ∧ p.writes = [] ∧
    p.wait = (t.submits.filter (fun u => u.2.op == some s.fresh)).length ∧
    ∀ l ∈ lanesOf (s.active h), ∃ u ∈ t.submits, u.2.ctx = s.curCtx ∧ u.2.va = (s.selPair l f.a.toNat).toNat ∧ u.2.timed = timed ∧ u.2.op = some s.fresh ∧
      u.2.after = s.accessesOf (BitVec.ofNat 32 (2 ^ l)) false ∧ u.2.widen = true

/-- R184: a packet p reaches the ring r of its launch: the outcome where it has room, and where it has none or is saved. -/
def Accepted (s : State) (id : Nat) (p : Sent) (r : RxRing) (o : Host.Outcome State Fault Refusal) : Prop :=
  ∃ t r', o = .next t ∧ tblFind t.sent id = none ∧ tblFind (t.core p.core).rings p.launch = some r' ∧
    r'.packets = r.packets ++ [{ p.packet with arrived := (s.core p.core).cycles, rounds := if p.rel then s.roundsDue (s.launch p.launch).ctx else [] }] ∧
    (t.wg p.packet.senderWg).packets = (s.wg p.packet.senderWg).packets + 1

/-- R184, R241: the outcome is a state in which what has been observed before a released packet is judged at .pkg. -/
def Judged (s : State) (id : Nat) (p : Sent) (o : Host.Outcome State Fault Refusal) : Prop :=
  ∃ t, o = .next t ∧ t.mem = s.mem ∧ tblFind t.sent id = some { p with widen := false, prev :=
    (s.flushDie (Config.dieOfCore p.packet.sender) (s.launch p.launch).ctx 3).observed (s.launch p.launch).ctx 3 }

end Sys2Proof.Claims

/-- R175, Table 11-6: launch and launch.at submit the record of each active lane, after the lane's own accesses, and hold their token until every submission is
decided; a record that is not aligned to 256 bytes is MISALIGNED 0x07. -/
def Obligations.LaunchInstructions : Prop := ∀ (s : State) (h : Hdr) (f : FmtS), First s → Ready s (s.active h) [.pair f.a.toNat] [] [] →
  let act := s.active h
  let va (l : Nat) : Nat := (s.selPair l f.a.toNat).toNat
  (s.bad = [] → (∀ l ∈ lanesOf act, va l % 256 = 0 ∧ s.submitCheck (va l) = none) → s.launchCount s.curCtx + (lanesOf act).length ≤ 256 →
    Submits s h f false (exec (.launch h f) s) ∧ Submits s h f true (exec (.launchAt h f) s)) ∧
  ∀ l r, lanesOf act = l :: r → va l % 256 ≠ 0 →
    (∃ t, exec (.launch h f) s = .next t ∧ Stops s t 0 act 0x07 (BitVec.ofNat 64 (va l))) ∧
    ∃ t, exec (.launchAt h f) s = .next t ∧ Stops s t 0 act 0x07 (BitVec.ofNat 64 (va l))

/-- R173, R174, R176, R177, R183, R241, R260: LAUNCH_ACCEPT waits for what the submission orders before it, reads the record and its region table and accepts the launch
with status 0, or rejects it with status 5 and the lowest reason; LAUNCH_START starts a launch whose wait events are all done, its rings reserved once every core has
room, waits for one that is pending, and cancels a launch, status 4, where one has ended otherwise or cannot be read; LAUNCH_COMPLETE ends a launch that is done with
status 1, once the writes on their way then are performed, and one that ends otherwise with its own status. -/
def Sys2Proof.Claims.LaunchLifeCycle : Prop := ∀ (s : State) (id pa : Nat),
  (∀ u, tblFind s.submits id = some u →
    let b := s.sysBytes u.ctx u.die u.va 256
    let k := krOf b
    let rs := if k.regN ≤ 64 then regEntries (s.sysBytes u.ctx u.die k.regVA (16 * k.regN)) k.regN else []
    (u.after.any s.outstanding = true → exec (.launchAccept id) s = .next (s.again (.launchAccept id))) ∧
    (u.after.any s.outstanding = false → u.widen = true → ∃ t, exec (.launchAccept id) s = .next t ∧ t.mem = s.mem ∧ t.launches = s.launches ∧
      tblFind t.submits id = some { u with widen := false, after := (s.flushDie u.die u.ctx 3).observed u.ctx 3 }) ∧
    (∀ r, u.after.any s.outstanding = false → u.widen = false → s.rejectReason u.ctx u.timed k b rs = some r → ∃ t, exec (.launchAccept id) s = .next t ∧
      t.launches = s.launches ∧ tblFind t.submits id = none ∧ (r < 256 → RecordAt s u.ctx k.comp pa → memNat t.mem pa 4 = 5 ∧ memNat t.mem (pa + 4) 4 = r)) ∧
    (u.after.any s.outstanding = false → u.widen = false → s.rejectReason u.ctx u.timed k b rs = none → ∃ t l, exec (.launchAccept id) s = .next t ∧
      tblFind t.submits id = none ∧ tblFind t.launches (s.fresh + 1) = some l ∧ l.kr = k ∧ l.ctx = u.ctx ∧ l.timed = u.timed ∧ l.phase = 0 ∧
      (RecordAt s u.ctx k.comp pa → memNat t.mem pa 4 = 0))) ∧
  ∀ l, tblFind s.launches id = some l →
    let word (va : Nat) : Option Nat := s.statusWord l.ctx l.die va
    let named (va : Nat) : Prop := va ∈ l.kr.waits ∧ va ≠ 0
    let room : Prop := l.kr.ringCap = 0 ∨ ∀ c ∈ maskCores l.kr.dieMask, (s.spFree c l.kr.ringBytes).isSome = true
    (l.phase = 0 → (s.ctx l.ctx).st ≠ 2 → (∀ va, named va → word va = some 1) → room →
      ∃ t, exec (.launchStart id) s = .next t ∧ (t.launch id).phase = 1 ∧ (t.launch id).kr = l.kr ∧ t.mem = s.mem ∧
        (l.kr.ringCap ≠ 0 → ∀ c ∈ maskCores l.kr.dieMask, ∃ r, tblFind (t.core c).rings id = some r ∧ r.cap = l.kr.ringCap ∧
          s.spFree c l.kr.ringBytes = some r.base ∧ r.packets = [] ∧ r.saved = false)) ∧
    (l.phase = 0 → (s.ctx l.ctx).st ≠ 2 → (∀ va, named va → word va = some 1) → ¬ room → exec (.launchStart id) s = .next s) ∧
    (l.phase = 0 → (∀ va, named va → word va ≠ none) → (∃ va, named va ∧ word va = some 0) → exec (.launchStart id) s = .next s) ∧
    (l.phase = 0 → (s.ctx l.ctx).st ≠ 2 → (∃ va, named va ∧ word va = none) ∨ (∀ va, named va → word va ≠ some 0) ∧ (∃ va, named va ∧ word va ≠ some 1) →
      ∃ t, exec (.launchStart id) s = .next t ∧ tblFind t.launches id = none ∧ (RecordAt s l.ctx l.kr.comp pa → memNat t.mem pa 4 = 4)) ∧
    (s.launchDone id = true → l.closing = none → ∃ t, exec (.launchComplete id) s = .next t ∧ (t.launch id).closing.isSome = true ∧
      (t.launch id).ending = (1, 0) ∧ t.mem = s.mem) ∧
    ∀ ids, l.closing = some ids → (ids.any s.outstanding = true → exec (.launchComplete id) s = .next s) ∧
      (ids.any s.outstanding = false → ∃ t, exec (.launchComplete id) s = .next t ∧ tblFind t.launches id = none ∧
        (RecordAt s l.ctx l.kr.comp pa → l.ending.1 < 2 ^ 32 → memNat t.mem pa 4 = l.ending.1))

/-- R146, R178-R182: TEAM_PLACE gives the next team of a launch that may begin its cores: workgroup r of the team begins with index T times the team plus r, its groups at the entry;
TIMED_LAUNCH_RELEASE makes every group of a launch.at eligible; WORKGROUP_COMPLETE frees a workgroup whose groups have left and whose operations are done. -/
def Sys2Proof.Claims.PlacementAndCompletion : Prop :=
  (∀ (s : State) (launch k : Nat) (cs : List Nat), s.mayBegin launch = true → s.nextTeamOf launch = some k → s.teamCores launch k = some cs →
    let kr := (s.launch launch).kr
    ∃ t, exec (.teamPlace launch) s = .next t ∧ t.mem = s.mem ∧
      ((s.launch launch).redo = [] → (t.launch launch).nextTeam = (s.launch launch).nextTeam + 1) ∧
      ∀ r, r < cs.length → ∃ w x, tblFind t.wgs w = some x ∧ x.launch = launch ∧ x.core = cs.getD r 0 ∧ x.team = k ∧
        x.index = BitVec.ofNat 32 (k * kr.t + r) ∧ x.gcount = kr.g ∧ x.slots.length = kr.g ∧ ∀ j, j < kr.g →
          let g := t.group x.core (x.slots.getD j 0)
          g.wg = w ∧ g.idx = j ∧ g.n = kr.n ∧ g.threads.length = 32 ∧ ∀ y ∈ g.threads, y.pos = kr.entry ∧ y.exited = false ∧ y.regs = [] ∧ y.depth = 0 ∧
            y.fpctl = BitVec.ofNat 5 (kr.flags / 2 ^ 5 % 2 ^ 5) ∧ y.chk = kr.flags.testBit 4) ∧
  (∀ (s : State) (launch : Nat), let x := s.launch launch
    x.timed = true → x.released = false → s.nextTeamOf launch = none → x.halting = false → x.kr.start ≤ s.tick →
    (∀ p ∈ s.wgs, p.2.launch = launch → s.running (Config.dieOfCore p.2.core) x.ctx = true) → ∃ t, exec (.timedLaunchRelease launch) s = .next t ∧
      (t.launch launch).released = true ∧ (t.launch launch).began = s.tick ∧ (t.launch launch).late = decide (s.tick ≠ x.kr.start) ∧
      ∀ p ∈ t.groups, (s.wg p.2.wg).launch = launch → p.2.held = false) ∧
  ∀ (s : State) (wg : Nat) (x : Workgroup), tblFind s.wgs wg = some x → (∀ p ∈ s.groups, p.2.wg ≠ wg) → x.saved = [] → x.halt = none → s.wgBusy wg = false →
    ∃ t, exec (.workgroupComplete wg) s = .next t ∧ t.mem = s.mem ∧ tblFind t.wgs wg = none ∧ ∀ n, n < 32 → s.holdsSlot x.core wg n = true →
      (t.opmSlot x.core n).st = 0

/-- R183-R187: am.send sends a packet of each active lane, and am.done passes when no packet of its workgroup is outstanding; a packet is accepted by a ring with room or tried again 64 cycles
later; HANDLER_SPAWN begins a handler group with packets of one index in its lanes, or ends the launch with AM_HANDLER 0x11. -/
def Obligations.ActiveMessages : Prop :=
  (∀ (s : State) (h : Hdr) (f : FmtE), First s →
    let act := s.active h
    let n := f.par.toNat % 8
    let kr := s.curLaunch.kr
    let target (l : Nat) : Nat := (s.selWord l f.a.toNat).toNat
    let good (l : Nat) : Prop := kr.flags / 2 ^ 10 % 4 ≠ 0 ∧ target l < 320 ∧ kr.dieMask.testBit (Config.dieOfCore (target l)) = true
    (Ready s act (.reg f.a.toNat :: (List.range n).map (fun j => Src.reg (f.b.toNat + j))) [] [] → act ≠ 0 →
      ((∀ l ∈ lanesOf act, good l) → ∃ t id p, exec (.amSend h f) s = .next t ∧ Passed s t h ∧ TokenUp s t h ∧ UnderWay s t h id p ∧
        p.wait = (lanesOf act).length ∧ ∀ l ∈ lanesOf act, ∃ q ∈ t.sent, q.2.core = target l ∧ q.2.launch = s.launchOfWg s.curWg ∧ q.2.lane = l ∧
          q.2.op = id ∧ q.2.packet.handler = f.handle.toNat % 256 ∧ q.2.packet.sender = s.cur.core ∧ q.2.packet.senderWg = s.curWg ∧
          q.2.packet.words = (List.range n).map (fun j => s.selWord l (f.b.toNat + j))) ∧
      (∀ l r, lanesOf act = l :: r → ¬ good l → ∃ t, exec (.amSend h f) s = .next t ∧ Stops s t 0 act 0x08 (BitVec.ofNat 64 (target l)))) ∧
    (act = 0 ∨ s.packetsDone s.curWg = true ∧ (s.unperformed s.curCtx).filter s.outstanding = [] ∧ s.roundsDue s.curCtx = [] →
      Retires s h (exec (.amDone h f) s) (fun _ => seqPos s.cur.pos) (fun _ x => x)) ∧
    (act ≠ 0 → s.packetsDone s.curWg = false → ∃ t, exec (.amDone h f) s = .next t ∧ Waits s t h .packets) ∧
    (act ≠ 0 → s.packetsDone s.curWg = true → (s.unperformed s.curCtx).filter s.outstanding ≠ [] ∨ s.roundsDue s.curCtx ≠ [] →
      ∃ t, exec (.amDone h f) s = .next t ∧ Waits s t h (.gone ((s.unperformed s.curCtx).filter s.outstanding) (s.roundsDue s.curCtx)))) ∧
  (∀ (s : State) (id : Nat) (p : Sent) (r : RxRing), tblFind s.sent id = some p → p.prev.any s.outstanding = false →
    (p.widen = true → Judged s id p (exec (.amPacketArrival id) s) ∧ Judged s id p (exec (.amPacketRetry id) s)) ∧
    (p.widen = false → (s.launch p.launch).halting = false → tblFind (s.core p.core).rings p.launch = some r →
      (r.saved = false → r.packets.length < r.cap → Accepted s id p r (exec (.amPacketArrival id) s) ∧ Accepted s id p r (exec (.amPacketRetry id) s)) ∧
      (r.saved = true ∨ r.cap ≤ r.packets.length → exec (.amPacketArrival id) s = .next (s.inCycles p.packet.sender 64 (.amPacketRetry id)) ∧
        exec (.amPacketRetry id) s = .next (s.inCycles p.packet.sender 64 (.amPacketRetry id))))) ∧
  ∀ (s : State) (core launch : Nat) (r : RxRing) (p : Packet) (rest : List Packet), tblFind (s.core core).rings launch = some r → r.packets = p :: rest →
    let x := s.launch launch
    let ps := (r.packets.filter (fun q => q.handler = p.handler)).take 32
    let e := s.handlerEntry launch p.handler
    s.spawnDue core launch = true → s.running (Config.dieOfCore core) x.ctx = true → x.halting = false → (∀ q ∈ ps, s.roundsReached q.rounds = true) →
    (∀ slot more, e ≠ 0 → s.slotsFree core 0 = slot :: more → ∃ t, exec (.handlerSpawn core launch) s = .next t ∧ t.mem = s.mem ∧
      let g := t.group core slot
      (t.wg g.wg).handler = true ∧ (t.wg g.wg).launch = launch ∧ (t.wg g.wg).core = core ∧ g.threads.length = 32 ∧
      (∀ k, k < ps.length → (g.thread k).pos = BitVec.ofNat 64 e ∧ (g.thread k).exited = false ∧
        (g.thread k).amsrc = BitVec.ofNat 32 (ps.getD k p).sender ∧ ∀ j, j < 4 → (g.thread k).reg j = ⟨(ps.getD k p).words.getD j 0, false⟩) ∧
      ∀ k, ps.length ≤ k → k < 32 → (g.thread k).exited = true) ∧
    (e = 0 → x.fault = none → tblFind s.launches launch = some x → (s.ctx x.ctx).debug = false → ∃ t y, exec (.handlerSpawn core launch) s = .next t ∧ (t.launch launch).halting = true ∧
      (t.launch launch).fault = some y ∧ y.halt.code = 0x11 ∧ y.halt.tvalue = BitVec.ofNat 64 (p.sender + 2 ^ 16 * p.handler) ∧
      ∀ w z, (w, z) ∈ s.wgs → z.launch = launch → ⟨0, s.tick + s.haltDelay (Config.dieOfCore core), .launchHaltArrival launch z.core⟩ ∈ t.timers)

/-- R336-R340: HALT_DELIVERY stops the groups of a halted workgroup in one partition; ASYNC_FAULT_ARRIVAL and LAUNCH_HALT_ARRIVAL halt workgroups that do not halt already; WORKGROUP_SETTLE declares a
workgroup settled, keeps the launch's first fault, and with the last workgroup of a launch that is being ended frees them all: the launch is to end with status 3 and the code of that fault. -/
def Sys2Proof.Claims.HaltingAndSettling : Prop :=
  (∀ (s : State) (wg part : Nat) (r : HaltRec), (s.wg wg).halt = some r → ∃ t, exec (.haltDelivery wg part) s = .next t ∧ t.mem = s.mem ∧
    (t.wg wg).reach = (s.wg wg).reach ||| BitVec.ofNat 4 (2 ^ part) ∧ (t.wg wg).halt = some r ∧
    ∀ core slot, (t.group core slot).threads = (s.group core slot).threads ∧
      (slot < 128 → s.hasGroup core slot = true → (s.group core slot).wg = wg → core = (s.wg wg).core → slot / 32 = part → (t.group core slot).stopped = true) ∧
      ((s.group core slot).wg ≠ wg → t.group core slot = s.group core slot)) ∧
  (∀ (s : State) (wg code lane : Nat) (pos tv : Long), (tblFind s.wgs wg).isSome = true → (s.wg wg).halt = none →
    let mc := code = 0x12 ∨ code = 0x0D
    ∃ t, exec (.asyncFaultArrival wg code lane pos tv) s = .next t ∧ t.mem = s.mem ∧ t.groups = s.groups ∧
      (t.wg wg).halt = some { code := code, kind := 2, lanes := if lane < 32 then BitVec.ofNat 32 (2 ^ lane) else 0, pos := pos, tvalue := if code = 0x12 then BitVec.ofNat 64 s.mcNext else tv, time := s.tick, mc := if mc then BitVec.ofNat 32 s.mcNext else 0xFFFFFFFF } ∧
      (mc → t.mcNext = s.mcNext + 1) ∧ (¬ mc → t.mclog = s.mclog) ∧
      ∀ q, q < 4 → ⟨(s.wg wg).core + 1, (s.core (s.wg wg).core).cycles + 1, .haltDelivery wg q⟩ ∈ t.timers) ∧
  (∀ (s : State) (launch core w : Nat) (x : Workgroup), tblFind s.wgs w = some x → (w, x) ∈ s.wgs → x.launch = launch → x.core = core → x.phase = 0 → x.halt = none →
    ∃ t, exec (.launchHaltArrival launch core) s = .next t ∧ (t.wg w).halt = some { code := 0, kind := 3, time := s.tick }) ∧
  ∀ (s : State) (wg : Nat) (r : HaltRec), s.mayDeclareSettled wg = true → (s.wg wg).halt = some r → (tblFind s.wgs wg).isSome = true →
    let l := s.launchOfWg wg
    let x := s.launch l
    ((s.ctx x.ctx).debug = true → ∃ t, exec (.workgroupSettle wg) s = .next t ∧ t.mem = s.mem ∧ t.groups = s.groups ∧ (t.wg wg).settled = true) ∧
    ((s.ctx x.ctx).debug = false → r.kind ≠ 4 → r.kind ≠ 3 → x.fault = none → x.halting = false → ∃ t f, exec (.workgroupSettle wg) s = .next t ∧
      (t.wg wg).settled = true ∧ (t.launch l).fault = some f ∧ f.halt = r ∧ f.rwc = (s.wg wg).rwc ∧ f.wg = (s.wg wg).index) ∧
    ((s.ctx x.ctx).debug = false → r.kind ≠ 4 → r.kind ≠ 3 → x.fault = none → x.halting = true → x.closing = none →
      tblSorted s.wgs = true → (∀ p ∈ s.wgs, p.2.launch = l → p.1 = wg ∨ p.2.settled = true ∨ p.2.phase = 1) → ∃ t f, exec (.workgroupSettle wg) s = .next t ∧
        (t.launch l).closing.isSome = true ∧ (t.launch l).ending = (3, r.code) ∧ (t.ctx x.ctx).faults.head? = some f ∧ f.halt = r ∧ t.mem = s.mem ∧
        ∀ p ∈ t.wgs, p.2.launch ≠ l)

/-- R347: PAGE_FAULT_RESOLVE lets a parked access go on once its page is translated; PAGE_FAULT_TIMEOUT stops its group with PAGE 0x09 at the
instruction while it is not. -/
def Sys2Proof.Claims.PageFaults : Prop := ∀ (s : State) (core slot : Nat) (w : Waiting) (va : Long), s.hasGroup core slot = true → (s.group core slot).waits = [w] →
  w.cond = .page va → (s.group core slot).stopped = false →
  let absent : Prop := ∃ lv, s.walk (s.ctxOfWg (s.wgOf core slot)) va.toNat = .absent lv
  (¬ absent → ∃ t, exec (.pageFaultResolve core slot w.id) s = .next t ∧ (t.group core slot).waits = [] ∧
    (t.group core slot).threads = (s.group core slot).threads ∧ t.agenda = if w.iss.phase = 0 then s.agenda else .resume w.iss w.instr :: s.agenda) ∧
  (absent → exec (.pageFaultResolve core slot w.id) s = .next s) ∧
  (absent → w.iss.core = core → w.iss.slot = slot → (∀ h f, w.instr ≠ .cwb h f ∧ w.instr ≠ .cinv h f) → ∃ t, exec (.pageFaultTimeout core slot w.id) s = .next t ∧
    t.mem = s.mem ∧ (t.group core slot).stopped = true ∧ (t.group core slot).waits = [] ∧
    (∀ l, w.iss.lanes.getLsbD l = true → l < (s.group core slot).threads.length → (t.thread core slot l).tcause = 0x09 ∧
      (t.thread core slot l).tvalue = va ∧ (t.thread core slot l).tpc = w.iss.pos ∧ (t.thread core slot l).pos = (s.thread core slot l).pos) ∧
    ((s.wg (s.wgOf core slot)).halt = none → ∃ r, (t.wg (s.wgOf core slot)).halt = some r ∧ r.code = 0x09 ∧ r.kind = 0 ∧ r.pos = w.iss.pos ∧ r.tvalue = va))

/-- R7, R204, R212, R263, R264, R269: LECTERN_ANNOUNCE announces the first item of a port, but in a tick that a halt of the die takes, a round as the lane's result, a sequence number to the L1s its write invalidates; ROUND_ANNOUNCEMENT_ARRIVAL moves the mirror;
SETTLE_ESCAPE moves the packet that waited and those of its triple. -/
def Obligations.LecternAndSettles : Prop :=
  (∀ (s : State) (die : Nat) (i : Item) (r : List Item), (s.die die).lect = i :: r → (s.tick < (s.die die).haltNext → exec (.lecternAnnounce die) s = .next s) ∧
    ((s.die die).haltNext ≤ s.tick → ∃ t, exec (.lecternAnnounce die) s = .next t ∧ t.mem = s.mem ∧
    (t.die die).lect = r ∧
    (∀ ctx slot lane q x p, i = .round ctx slot lane (some q) → tblFind (s.ctx ctx).regions slot = some x → tblFind s.pends q = some p →
      tblFind (t.ctx ctx).regions slot = some { x with counter := x.counter + 1 } ∧
      ⟨0, s.tick + Config.lecternLatency, .roundAnnouncementArrival ctx slot (x.counter + 1)⟩ ∈ t.timers ∧
      ∃ p', tblFind t.pends q = some p' ∧ p'.wait = p.wait - 1 ∧ leNat (tabBytes p'.bytes (lane * 16) 4) = (x.counter + 1).toNat) ∧
    (∀ n, i = .seqNo n → t.invals = s.invals.map (fun v => if v.die = die ∧ v.seq = n ∧ v.due = none then { v with due := some (s.tick + Config.lecternLatency) } else v) ∧
      ∀ v ∈ s.invals, v.die = die → v.seq = n → v.due = none → ⟨0, s.tick + Config.lecternLatency, .invalidationApply v.core⟩ ∈ t.timers))) ∧
  (∀ (s : State) (ctx slot : Nat) (round : Word) (r : Region), tblFind (s.ctx ctx).regions slot = some r →
    ∃ t, exec (.roundAnnouncementArrival ctx slot round) s = .next t ∧ t.mem = s.mem ∧
      tblFind (t.ctx ctx).regions slot = some { r with mirror := round, announced := true } ∧
      (round.toNat % 2 ^ 28 ≠ 0 → t.cores = s.cores) ∧
      (round.toNat % 2 ^ 28 = 0 → ∀ c ∈ t.cores, ∀ b ∈ c.2.l1, ∀ w, b.tag = some (ctx, slot, w) → (round - w).toNat ≤ 15)) ∧
  ∀ (s : State) (n : Nat) (p : Nat × Nat × Nat × Nat) (r : List (Nat × Nat × Nat × Nat)),
    let x := tblGet {} s.settles n
    x.queue.filter (fun q => q.2.2.1 = 0) = p :: r → 63 ≤ r.length → p.2.2.2 + 256 ≤ s.tick → ∃ t, exec (.settleEscape n) s = .next t ∧ t.mem = s.mem ∧
      let y := tblGet {} t.settles n
      (∀ q ∈ x.queue, q ∈ y.escape ∨ q ∈ y.queue) ∧ p ∈ y.escape ∧
      ∀ q ∈ x.queue, (q ∈ y.queue ↔ ¬ (q.1 = p.1 ∧ q.2.1 = p.2.1 ∧ q.2.2.1 = p.2.2.1 ∧ q.2.2.2 ≤ p.2.2.2))

/-- R355-R357, R359: SLICE_EXPIRY gives the next ready entry its turn, a new slice where it names the running context and a pre-emption otherwise; URGENT_PREEMPT keeps the rest of the interrupted
slice; SWITCH_COMPLETE begins the next entry's turn once the die is drained, or goes on with the rest of the interrupted one's slice, and never while
the outgoing context is being reset; PREEMPTION_LIMIT_EXPIRY resets a context that has not left. -/
def Obligations.TurnsOfContexts : Prop := ∀ (s : State) (die e : Nat),
  let x := (s.die die).sched
  let ctxOf (k : Nat) : Nat := (tblGet 0 s.runList k).toNat / 2 ^ 56 % 2 ^ 6
  let urgent (k : Nat) : Bool := (tblGet 0 s.runList k).toNat.testBit 62
  let slice (k : Nat) : Nat := (tblGet 0 s.runList k).toNat % 2 ^ 32 * Config.ticksPerMicrosecond
  let limit (k : Nat) : Nat := (tblGet 0 s.runList k).toNat / 2 ^ 32 % 2 ^ 20 * Config.ticksPerMicrosecond
  let turn (t : State) (k n : Nat) : Prop := (t.die die).sched.entry = k ∧ (t.die die).sched.ctx = ctxOf k ∧ (t.die die).sched.sliceEnd = s.tick + n ∧
    (t.die die).sched.draining = false ∧ ⟨0, s.tick + n, .sliceExpiry die⟩ ∈ t.timers
  let drains (t : State) (k : Nat) : Prop := (t.die die).sched.draining = true ∧ (t.die die).sched.nextEntry = k ∧ (t.die die).sched.drainAt = s.tick + limit x.entry ∧
    ⟨0, s.tick + limit x.entry, .preemptionLimitExpiry die⟩ ∈ t.timers
  (x.ctx ≠ 64 → x.draining = false → (s.ctx x.ctx).st ≠ 2 → x.sliceEnd ≤ s.tick → urgent x.entry = false → s.urgentReady die = none →
    (s.nextReady die false (if x.interrupted < 64 then x.interrupted else x.entry) = some e → ∃ t, exec (.sliceExpiry die) s = .next t ∧ t.mem = s.mem ∧
      (ctxOf e = x.ctx → turn t e (slice e)) ∧ (ctxOf e ≠ x.ctx → drains t e)) ∧
    (s.nextReady die false (if x.interrupted < 64 then x.interrupted else x.entry) = none → ∃ t, exec (.sliceExpiry die) s = .next t ∧ t.mem = s.mem ∧
      let n := if (tblGet 0 s.runList x.entry).toNat.testBit 63 = true ∧ ctxOf x.entry = x.ctx then slice x.entry else x.slice
      (t.die die).sched.entry = x.entry ∧ (t.die die).sched.ctx = x.ctx ∧ (t.die die).sched.sliceEnd = s.tick + n ∧
      (t.die die).sched.draining = false ∧ ⟨0, s.tick + n, .sliceExpiry die⟩ ∈ t.timers)) ∧
  (x.ctx ≠ 64 → x.draining = false → (s.ctx x.ctx).st ≠ 2 → urgent x.entry = false → s.urgentReady die = some e → ctxOf e ≠ x.ctx → ∃ t, exec (.urgentPreempt die) s = .next t ∧
    t.mem = s.mem ∧ drains t e ∧ (t.die die).sched.interrupted = x.entry ∧ (t.die die).sched.remaining = x.sliceEnd - s.tick) ∧
  (x.ctx ≠ 64 → x.draining = true → s.drained die = true → (s.ctx x.ctx).st ≠ 2 →
    (x.nextEntry < 64 → x.nextEntry ≠ x.interrupted → s.entryReady die true x.nextEntry = true ∨ s.entryReady die false x.nextEntry = true →
      ∃ t, exec (.switchComplete die) s = .next t ∧ t.mem = s.mem ∧ turn t x.nextEntry (slice x.nextEntry)) ∧
    (x.interrupted < 64 → s.entryReady die false x.interrupted = true → s.urgentReady die = none →
      x.nextEntry = x.interrupted ∨ s.entryReady die true x.nextEntry = false ∧ s.entryReady die false x.nextEntry = false →
      ∃ t, exec (.switchComplete die) s = .next t ∧ t.mem = s.mem ∧ turn t x.interrupted x.remaining ∧ (t.die die).sched.interrupted = 64)) ∧
  (x.ctx ≠ 64 → (s.ctx x.ctx).st = 2 → exec (.switchComplete die) s = .next s) ∧
  (x.draining = true → x.drainAt ≤ s.tick → s.drained die = false → (s.ctx x.ctx).st = 1 → ∃ t, exec (.preemptionLimitExpiry die) s = .next t ∧
    t.mem = s.mem ∧ (t.ctx x.ctx).st = 2 ∧ (t.ctx x.ctx).reason = 1)

/-- R353, R358-R360: WORKGROUP_PARK saves a quiet workgroup where the save area has room, writing its bytes there and no others (which the spec does not give: log 29), and resets its context where it has none; WORKGROUP_RESUME restores it on its core; a forced reset halts
the context on every core, discards its workgroups as the halt arrives, flushes what it gathered, and completes with status 2 for every launch once that is performed. -/
def Obligations.ParkingAndReset : Prop :=
  (∀ (s : State) (wg : Nat), (tblFind s.wgs wg).isSome = true →
    let x := s.wg wg
    let ctx := s.ctxOfWg wg
    (s.mustPark wg = true → s.quietWg wg = true → (s.ctx ctx).saveUsed + s.saveBytes wg ≤ (s.ctx ctx).saveSize →
      ∃ t, exec (.workgroupPark wg) s = .next t ∧ (t.wg wg).phase = 1 ∧ (t.wg wg).saveLen = s.saveBytes wg ∧
        (∀ a, let at' := (s.ctx ctx).save + (s.ctx ctx).saveUsed
          a < at' ∨ at' + s.saveBytes wg ≤ a → memGet t.mem a = memGet s.mem a) ∧
        (t.wg wg).saved = (s.groups.filter (fun p => p.2.wg = wg)).map (fun p => (p.1 % 128, p.2)) ∧ (∀ p ∈ t.groups, p.2.wg ≠ wg) ∧
        (t.ctx ctx).saveUsed = (s.ctx ctx).saveUsed + s.saveBytes wg) ∧
    (s.mustPark wg = true → s.quietWg wg = true → (s.ctx ctx).saveSize < (s.ctx ctx).saveUsed + s.saveBytes wg → (s.ctx ctx).st = 1 →
      ∃ t, exec (.workgroupPark wg) s = .next t ∧ (t.ctx ctx).st = 2 ∧ (t.ctx ctx).reason = 3) ∧
    (s.mayResume wg = true → ∃ t, exec (.workgroupResume wg) s = .next t ∧ t.mem = s.mem ∧ (t.wg wg).phase = 0 ∧ (t.wg wg).saved = [] ∧
      ∀ k g, x.saved = [(k, g)] → s.hasGroup x.core k = false → k < 128 → (t.group x.core k).threads = g.threads ∧ (t.group x.core k).wg = g.wg ∧
        (t.group x.core k).stopped = g.stopped)) ∧
  (∀ (s : State) (ctx reason : Nat), (s.ctx ctx).st = 1 → ∃ t, exec (.forcedReset ctx reason) s = .next t ∧ t.mem = s.mem ∧ (t.ctx ctx).st = 2 ∧
    (t.ctx ctx).reason = reason ∧
    (∀ p ∈ s.wgs, s.ctxOfWg p.1 = ctx → p.2.phase = 0 → p.2.core ∈ (t.ctx ctx).resetCores) ∧
    (∀ d, d < 4 → ∀ c ∈ (t.ctx ctx).resetCores, ⟨0, s.tick + s.haltDelay d, .resetHaltArrival ctx c⟩ ∈ t.timers) ∧
    ((t.ctx ctx).resetCores = [] → ⟨0, s.tick + Config.lecternLatency, .contextResetComplete ctx⟩ ∈ t.timers)) ∧
  (∀ (s : State) (ctx core : Nat), (s.ctx ctx).st = 2 → core ∈ (s.ctx ctx).resetCores → ∃ t, exec (.resetHaltArrival ctx core) s = .next t ∧ t.mem = s.mem ∧
    (∀ p ∈ s.wgs, p.2.core = core → s.ctxOfWg p.1 = ctx → tblFind t.wgs p.1 = none) ∧ core ∉ (t.ctx ctx).resetCores ∧
    ((∀ c ∈ (s.ctx ctx).resetCores, c = core) → ∃ r, t.agenda = .event (.contextResetComplete ctx) :: r)) ∧
  ∀ (s : State) (ctx : Nat), (s.ctx ctx).st = 2 → (s.ctx ctx).resetCores = [] →
    ((s.ctx ctx).closing = none → ∃ t, exec (.contextResetComplete ctx) s = .next t ∧ t.mem = s.mem ∧ (t.ctx ctx).closing.isSome = true ∧ (t.ctx ctx).st = 2 ∧
      (t.ctx ctx).ximp = 0 ∧ (t.ctx ctx).xexp = 0 ∧ (t.ctx ctx).xauto = 0 ∧ (t.ctx ctx).pauto = 0 ∧ (t.ctx ctx).regions = [] ∧
      ∀ p ∈ s.wgs, s.ctxOfWg p.1 = ctx → tblFind t.wgs p.1 = none) ∧
    ∀ ids, (s.ctx ctx).closing = some ids → ids.any s.outstanding = false → ∃ t, exec (.contextResetComplete ctx) s = .next t ∧
      (∀ p ∈ t.launches, p.2.ctx ≠ ctx) ∧ (t.ctx ctx).st = (if (s.ctx ctx).stopAfter then 0 else 1) ∧ (t.ctx ctx).closing = none ∧
      ∀ l x pa, tblSorted s.launches = true → s.launches.filter (fun p => p.2.ctx = ctx) = [(l, x)] → RecordAt s ctx x.kr.comp pa → memNat t.mem pa 4 = 2

/-- R126-R133, R129, R137: in a cycle a partition issues nothing, or one or two paths of one of its groups, whose age begins again; where it issues nothing and no trap is due, every group
of it is a cycle older and every stall countdown a cycle shorter. -/
def Sys2Proof.Claims.IssueCycle : Prop := ∀ (s : State) (core part : Nat), ∃ t l, exec (.issueCycle core part) s = .next t ∧ t.mem = s.mem ∧ t.hostMem = s.hostMem ∧
  t.agenda = l ++ s.agenda ∧
  (l = [] ∨ ∃ a, a.core = core ∧ a.slot / 32 = part ∧ a.path = 0 ∧ a.phase = 0 ∧ (t.group core a.slot).age = 0 ∧
    (l = [.issue a] ∨ ∃ b, b.core = core ∧ b.slot = a.slot ∧ b.path = 1 ∧ b.phase = 0 ∧ b.pos ≠ a.pos ∧ l = [.issue a, .issue b])) ∧
  (l = [] → tblSorted s.groups = true → (∀ p ∈ s.pends, p.2.kind ≠ 4) → ∀ slot, slot / 32 = part → slot < 128 → s.hasGroup core slot = true →
    (t.group core slot).age = min 65535 ((s.group core slot).age + 1) ∧
    ∀ k, k < (s.group core slot).threads.length → (t.thread core slot k).stall = (s.thread core slot k).stall - 1)

/-- R36, R139, R140: LINE_REFETCH brings in the copy of a line that a core fetches again; GROUP_LOWER, GROUP_RAISE and FORCED_LOWER begin a move of N/8 cycles between the register file and the chest, the last of
the youngest resident group; a group lowered by force is raised where none that was lowered by choice is ready. -/
def Sys2Proof.Claims.RefetchLowerAndRaise : Prop := ∀ (s : State) (core slot : Nat),
  let g := s.group core slot
  let now := (s.core core).cycles
  (∀ launch line, ∃ t, exec (.lineRefetch core launch line) s = .next t ∧ t.mem = s.mem ∧ t.groups = s.groups ∧
    ∀ c, c ∈ (t.core core).lines ↔ ∃ d ∈ (s.core core).lines, c = if d.launch = launch ∧ d.line = line then { d with got := true } else d) ∧
  (s.hasGroup core slot = true →
    (s.mayLower core slot = true → ∃ t, exec (.groupLower core slot) s = .next t ∧ t.mem = s.mem ∧
      t.group core slot = { g with chest := 3, sunk := true, forced := false, entered := false, readySince := 0, raiseAt := now + g.n / 8 }) ∧
    (s.mayLower core slot = false → exec (.groupLower core slot) s = .next s) ∧
    (s.regsUsed core + g.n ≤ 6144 → (if g.forced = true then s.staysLowered core slot = false ∧ ∀ p ∈ s.groups, p.1 / 128 = core →
        (s.group core (p.1 % 128)).forced = true ∨ s.mayRaise core (p.1 % 128) = false else s.mayRaise core slot = true) → ∃ t, exec (.groupRaise core slot) s = .next t ∧ t.mem = s.mem ∧
      t.group core slot = { g with chest := 2, readySince := 0, raiseAt := now + g.n / 8 })) ∧
  (∀ k y, k < 128 → slot < 128 → s.hasGroup core k = true → (s.group core k).readySince ≠ 0 → (s.group core k).readySince - 1 + 2048 ≤ now → s.mayRaise core k = true →
    6144 < s.regsUsed core + (s.group core k).n → s.youngest core (fun j => s.mayLower core j) = none → s.youngest core (fun _ => true) = some y →
    ∃ t, exec (.forcedLower core) s = .next t ∧ t.mem = s.mem ∧ (t.group core y).chest = 3 ∧ (t.group core y).forced = true ∧ (t.group core y).sunk = true ∧
      (t.group core y).raiseAt = now + (s.group core y).n / 8)

namespace Sys2Proof.Claims

/-- R415: the sum of every account: of each launch, each context and the device. -/
def accounts (s : State) : Nat :=
  s.idle + (s.launches.map (fun p => p.2.energy)).foldl (· + ·) 0 + (s.ctxs.map (fun p => p.2.idle)).foldl (· + ·) 0

/-- R404, R405: the sampler of a context samples in this cycle, one partition of it: it is the only one of the core, on, started and due. -/
def Samples (s : State) (core ctx part : Nat) (m : Sampler) : Prop := (s.core core).samplers = [(ctx, m)] ∧ m.on = true ∧ m.started = true ∧
  m.next ≤ (s.core core).cycles ∧ (m.stopEmpty = false ∨ m.seen = false ∨ s.holdsGroup core ctx = true) ∧ part < 4 ∧
  ∀ p, p < 4 → (m.mask.testBit p = true ↔ p = part)

end Sys2Proof.Claims

/-- R10, R181, R437: TIME_BASE_TICK counts one tick; each core's clock runs beside it in the ratio of its point's frequency to 1100 MHz, and
stands while its point changes. -/
def Sys2Proof.Claims.TimeBase : Prop := ∀ (s : State), ∃ t, exec .timeBaseTick s = .next t ∧
  t.tick = s.tick + 1 ∧ ((∀ c k x, tblFind s.cores c = some k → k.trace = some x → x.queue = []) → t.mem = s.mem) ∧ t.groups = s.groups ∧ t.wgs = s.wgs ∧
  ∀ c k, tblFind s.cores c = some k → (t.core c).point = k.point ∧ (t.core c).ran = decide ((t.core c).cycles = k.cycles + 1) ∧
    (s.tick + 1 < k.stopped → (t.core c).cycles = k.cycles ∧ (t.core c).phase = k.phase) ∧
    (k.stopped ≤ s.tick + 1 → (t.core c).cycles * 1100 + (t.core c).phase = k.cycles * 1100 + k.phase +
      (if k.point = 0 then 1100 else if k.point = 1 then 950 else if k.point = 2 then 800 else 550))

/-- R399, R401: a TIME packet enters a core's trace queue of 4096 bytes or is lost; a LOST packet of an armed buffer carries the bytes dropped once the queue has room, and the core's groups
synchronise again. -/
def Sys2Proof.Claims.TracePackets : Prop := ∀ (s : State) (core : Nat) (x : Trace), (s.core core).trace = some x →
  let time := escaped ([7, 0xFF] ++ leBytes 8 s.tick)
  let lost := escaped ([6, 0xFF] ++ leBytes 4 x.drop)
  (x.on = true → ∃ t, exec (.traceTimePacket core) s = .next t ∧ t.mem = s.mem ∧ t.groups = s.groups ∧ (t.core core).trace = some
    (if x.queue.length + time.length ≤ 4096 then { x with queue := x.queue ++ time }
      else { x with lost := x.lost + time.length, drop := x.drop + time.length })) ∧
  (x.on = true → x.drop ≠ 0 → x.queue.length + lost.length ≤ 4096 → ∃ t, exec (.traceLostPacket core) s = .next t ∧ t.mem = s.mem ∧
    (t.core core).trace = some { x with queue := x.queue ++ lost, drop := 0 } ∧
    ∀ slot, slot < 128 → s.hasGroup core slot = true → (t.group core slot).trace.lost = true ∧ (t.group core slot).threads = (s.group core slot).threads) ∧
  (x.on = false ∨ x.drop = 0 ∨ 4096 < x.queue.length + lost.length → exec (.traceLostPacket core) s = .next s)

/-- R404-R406: SAMPLE_TICK writes a record of 16 bytes for the next slot of a sampled partition that holds a group of the context, or for none, and counts what has no
room. -/
def Sys2Proof.Claims.Sampling : Prop := ∀ (s : State) (core ctx part : Nat) (m : Sampler), Samples s core ctx part m →
  let a := m.base + 16 * m.written
  let next := s.nextSampled core part ctx (tblFind m.last part)
  (∀ k, next = some k → m.written < m.capacity →
    let g := s.group core (32 * part + k)
    ∃ t, exec (.sampleTick core) s = .next t ∧
      tblFind (t.core core).samplers ctx = some { m with next := m.next + m.period, last := tblPut m.last part k, written := m.written + 1 } ∧
      memNat t.mem a 8 = part * 2 ^ 62 + k * 2 ^ 57 + g.lead.toNat % 2 ^ 57 ∧ memNat t.mem (a + 8) 4 = s.tick % 2 ^ 32 ∧
      memNat t.mem (a + 12) 4 = ((s.wg g.wg).ival.toNat % 64 * 2 ^ 26 + (s.wg g.wg).rwcStart % 2 ^ 16 * 2 ^ 10 + g.leadN * 2 ^ 4 + g.reason) % 2 ^ 32 ∧
      ∀ x, x < a ∨ a + 16 ≤ x → memGet t.mem x = memGet s.mem x) ∧
  (next = none → m.written < m.capacity → ∃ t, exec (.sampleTick core) s = .next t ∧ memNat t.mem a 8 = part * 2 ^ 62 ∧
    memNat t.mem (a + 8) 4 = s.tick % 2 ^ 32 ∧ memNat t.mem (a + 12) 4 = 12) ∧
  (m.capacity ≤ m.written → ∃ t y, exec (.sampleTick core) s = .next t ∧ t.mem = s.mem ∧ tblFind (t.core core).samplers ctx = some y ∧
    y.dropped = m.dropped + 1 ∧ y.written = m.written ∧ y.next = m.next + m.period)

/-- R407, R408: TRIAL_END records the progress counters and clears every debt of the context once the trial's time has come. -/
def Sys2Proof.Claims.TrialEnd : Prop := ∀ (s : State) (ctx : Nat) (x : Trial), (s.ctx ctx).trial = some x →
  (s.tick < x.ends → exec (.trialEnd ctx) s = .next s) ∧
  (x.ends ≤ s.tick → ∃ t, exec (.trialEnd ctx) s = .next t ∧ t.mem = s.mem ∧ (t.ctx ctx).trial = none ∧ (t.ctx ctx).trialEnd = (s.ctx ctx).progress ∧
    (t.ctx ctx).trialStart = (s.ctx ctx).trialStart ∧ ∀ core slot, (t.group core slot).threads = (s.group core slot).threads ∧
      (s.hasGroup core slot = true → s.ctxOfWg (s.group core slot).wg = ctx → (t.group core slot).debt = 0) ∧
      (s.ctxOfWg (s.group core slot).wg ≠ ctx → t.group core slot = s.group core slot))

/-- R412-R415: an interval's energy goes to the accounts and none of it is lost; a column that one launch has held charges that launch, once its first workgroup has begun, and one that
no launch has held (which of the stations of a die are, no rule says: log 40) charges the context whose turn it is on its die, or the device where none is. -/
def Obligations.EnergyAccounts : Prop := ∀ (s : State) (kind column dyn leak : Nat),
  let key := kind * 512 + column
  let who := (s.die (if kind = 0 then column / 80 else if kind = 1 then column / 44 else column / 3)).sched.ctx
  let station : Prop := kind = 1 ∧ 32 ≤ column % 44 ∧ column % 44 < 36
  let alone (l b : Nat) : Prop := b ≠ 0 ∧ (if kind = 0 then (∃ a, a ≠ 0 ∧ (s.core column).occupied = [(l + 1, a)]) ∧ (s.core column).issued = [(l + 1, b)]
    else ¬ station ∧ tblGet [] s.metered key = [(l + 1, b)])
  let unheld : Prop := if kind = 0 then (s.core column).occupied = [] ∧ (s.core column).issued = [] else ¬ station ∧ tblGet [] s.metered key = []
  ∃ t, exec (.energyIntervalClose kind column dyn leak) s = .next t ∧ t.mem = s.mem ∧ t.groups = s.groups ∧
    (tblSorted s.launches = true → tblSorted s.ctxs = true → accounts t = accounts s + dyn + leak) ∧
    (if kind = 0 then (t.core column).issued = [] ∧ (t.core column).occupied = [] else tblGet [] t.metered key = []) ∧
    (∀ l b x, alone l b → tblFind s.launches l = some x → x.begun = true → (t.launch l).energy = x.energy + dyn + leak ∧ t.idle = s.idle) ∧
    (∀ l b x, alone l b → tblFind s.launches l = some x → x.begun = false → (t.launch l).energy = x.energy ∧ t.idle = s.idle + dyn + leak) ∧
    (unheld → who < 64 → (t.ctx who).idle = (s.ctx who).idle + dyn + leak ∧ t.idle = s.idle) ∧
    (unheld → 64 ≤ who → t.idle = s.idle + dyn + leak)

namespace Sys2Proof.Claims

/-- R419: the spare group of a connection, and its position there. -/
def groupOf (conn : Nat) : Nat := if conn < 1024 then conn / 64 else (conn - 1024) / 2
def placeOf (conn : Nat) : Nat := if conn < 1024 then conn % 64 else 64 + (conn - 1024) % 2

/-- Table 25-4: the stack, bus and connection of a bus word. -/
def wordStack (w : Word) : Nat := w.toNat % 16
def wordBus (w : Word) : Nat := w.toNat / 2 ^ 8 % 64
def wordConn (w : Word) : Nat := w.toNat / 2 ^ 16 % 2 ^ 11

/-- R433, R435: the operands of a vbt instruction are ready and its bus word names a bus, and a connection where it needs one. -/
def BusReady (s : State) (h : Hdr) (f : FmtS) (both conn : Bool) : Prop :=
  LowReady s h (if both then [.pair f.a.toNat] else [.reg f.a.toNat]) ∧ s.active h ≠ 0 ∧
  s.shortFault (s.active h) [f.a.toNat, f.a.toNat + 1] [] = none ∧ busBad (s.selWord (s.lowLane h) f.a.toNat) conn = false

/-- R433: every active lane will receive the word, or a word that comes later (none). -/
def Reports (s t : State) (h : Hdr) (f : FmtS) (word : Option Nat) : Prop := Passed s t h ∧ TokenUp s t h ∧ ∃ id p, UnderWay s t h id p ∧
  (∀ w, word = some w → p.wait = 0 ∧ p.writes = (lanesOf (s.active h)).map (fun l => (⟨l, f.a.toNat + 1, BitVec.ofNat 32 w, false⟩ : LaneWrite))) ∧
  (word = none → p.wait = 1 ∧ p.writes.map (fun x => (x.lane, x.reg)) = (lanesOf (s.active h)).map (fun l => (l, f.a.toNat + 1)))

/-- The outcome is a state in which a vbt instruction has passed and reports a word, and of which more holds. -/
def Runs (s : State) (h : Hdr) (f : FmtS) (o : Host.Outcome State Fault Refusal) (word : Option Nat) (more : State → Prop) : Prop :=
  ∃ t, o = .next t ∧ Reports s t h f word ∧ more t

/-- R435: the outcome is the fault of a bus word that names no bus. -/
def NoBus (s : State) (h : Hdr) (w : Word) (o : Host.Outcome State Fault Refusal) : Prop :=
  ∃ t, o = .next t ∧ Stops s t 0 (s.active h) 0x08 (w.setWidth 64)

end Sys2Proof.Claims

/-- R422-R427, R349: a background test of a bus begins, runs its 726 ticks and ends; a demand ends a test and a quiesce; a persistent error takes one of the two
repairs of its spare group, whose corrections count anew, or marks the bus beyond repair. -/
def Sys2Proof.Claims.TestsAndRepairs : Prop := ∀ (s : State) (stack bus : Nat),
  let h := s.home stack
  (∀ b, h.testBus = none → h.nextTest = some b → ∃ t, exec (.backgroundTestPass stack) s = .next t ∧ t.mem = s.mem ∧
    t.home stack = { h with testBus := some b, testEnd := s.tick + 726 }) ∧
  (h.testBus = some bus → s.tick < h.testEnd → exec (.backgroundTestPass stack) s = .next s) ∧
  (h.testBus = some bus → h.testEnd ≤ s.tick → ∃ t, exec (.backgroundTestPass stack) s = .next t ∧ t.mem = s.mem ∧ (t.home stack).testBus = none ∧
    (t.home stack).testNext = (bus + 1) % 34 ∧ (t.home stack).remap = h.remap ∧ (t.home stack).bg = h.bg ∧
    ∀ b g, b ≠ bus → g < 16 → (t.home stack).vb b g = h.vb b g) ∧
  (∃ t, exec (.demandPreemptTest stack bus) s = .next t ∧ t.mem = s.mem ∧ (t.home stack).vbrep = h.vbrep ∧ tblFind (t.home stack).quiesce bus = none ∧
    (h.testBus = some bus → (t.home stack).testBus = none ∧ (t.home stack).testNext = (bus + 1) % 34) ∧
    (h.testBus ≠ some bus → (t.home stack).testBus = h.testBus) ∧
    ∀ q, tblFind h.quiesce bus = some q → (q.wg, bus) ∈ (t.home stack).ended) ∧
  ∀ conn, conn < 1056 →
    let g := groupOf conn
    let q := placeOf conn
    let old := vbRepairs (h.vb bus g)
    vbLegal (h.vb bus g) = true → ∃ t, exec (.persistentErrorRepair stack bus conn) s = .next t ∧ t.mem = s.mem ∧
      t.corrected = s.corrected ∧ tblFind (t.home stack).streak (bus * 16 + g) = none ∧ vbLegal ((t.home stack).vb bus g) = true ∧
      (q ∈ old → { t.home stack with streak := [] } = { h with streak := [] }) ∧
      (q ∉ old → old.length < 2 → ∀ p, p ∈ vbRepairs ((t.home stack).vb bus g) ↔ p ∈ old ∨ p = q) ∧
      (q ∉ old → 2 ≤ old.length → (t.home stack).vb bus g = h.vb bus g ∧ bus ∈ (t.home stack).beyond)

/-- R427, R350, R351, R436: a double error whose connections can be repaired repairs them; one that cannot leaves the codeword uncorrectable, for its consumer to find, or for
a machine check of unit 7 where nothing consumes it, and retires the bus; on a bus that a retirement is migrating the codeword is left as it is. -/
def Sys2Proof.Claims.DoubleErrors : Prop := ∀ (s : State) (stack bus pa wg : Nat) (conns : List Nat),
  let x := s.home stack
  (x.leaving bus = true → exec (.doubleError stack bus pa wg conns) s = .next { s with bad := ⟨7, stack, pa⟩ :: s.bad }) ∧
  (x.leaving bus = false → x.repairable bus conns = false → ∃ t r, exec (.doubleError stack bus pa wg conns) s = .next t ∧ t.mem = s.mem ∧ t.wgs = s.wgs ∧
    t.agenda = .event (.busRetire stack bus) :: r ∧ t.bad = ⟨7, stack, pa⟩ :: s.bad ∧
    ((tblFind s.wgs wg).isSome = true → t.mclog = s.mclog) ∧
    (tblFind s.wgs wg = none → t.mclog.head? = some ⟨s.mcNext, 7, 0, stack, pa, s.tick, 0xFFFF, 0⟩ ∧ t.mcNext = s.mcNext + 1)) ∧
  (x.leaving bus = false → x.repairable bus conns = true → ∃ t, exec (.doubleError stack bus pa wg conns) s = .next t ∧ t.mem = s.mem ∧ t.wgs = s.wgs ∧
    (t.bad = s.bad ∧ t.mclog = s.mclog ∨ t.bad = ⟨7, stack, pa⟩ :: s.bad) ∧ (t.home stack).remap = x.remap ∧
    ((∀ g, vbLegal (x.vb bus g) = true) → ∀ c ∈ conns, c < 1056 → placeOf c ∈ vbRepairs ((t.home stack).vb bus (groupOf c))))

/-- R428-R431: BUS_RETIRE marks a bus that holds no logical bank group, and begins to migrate the group of one that does to the reserve of longest standing; STRIPE_MIGRATE advances
stripe by stripe to the end, where the entry names its target and the retirements that waited are next; ROTATION_INTERVAL migrates the group at the pointer. Memory keeps every value. -/
def Sys2Proof.Claims.BankMigration : Prop := ∀ (s : State) (stack bus : Nat),
  let h := s.home stack
  let moves (t : State) (l b : Nat) (r : Option Nat) : Prop := (t.home stack).mig = some { group := l, target := b, stripe := 0, retire := r } ∧
    b ∉ (t.home stack).resOrder ∧ (t.home stack).remapEntry l = BitVec.ofNat 32 (2 ^ 31 + b * 2 ^ 8 + remapPhys (h.remapEntry l)) ∧
    (t.home stack).testBus ≠ some b ∧ tblFind (t.home stack).quiesce b = none
  (h.bgState bus ≠ 2 → h.mig = none →
    (h.logicalOf bus = none → ∃ t, exec (.busRetire stack bus) s = .next t ∧ t.mem = s.mem ∧ (t.home stack).bgState bus = 2 ∧
      bus ∉ (t.home stack).resOrder ∧ (t.home stack).remap = h.remap) ∧
    (∀ l b r, h.logicalOf bus = some l → h.resOrder = b :: r → ∃ t, exec (.busRetire stack bus) s = .next t ∧ t.mem = s.mem ∧ moves t l b (some bus)) ∧
    (∀ l, h.logicalOf bus = some l → h.resOrder = [] → ∃ t, exec (.busRetire stack bus) s = .next t ∧ t.mem = s.mem ∧
      (t.home stack).remap = h.remap ∧ (t.home stack).bg = h.bg)) ∧
  (h.bgState bus ≠ 2 → h.mig ≠ none → ∃ t, exec (.busRetire stack bus) s = .next t ∧ t.mem = s.mem ∧ bus ∈ (t.home stack).retireQ ∧ (t.home stack).mig = h.mig) ∧
  (∀ m, h.mig = some m →
    let src := remapPhys (h.remapEntry m.group)
    (m.stripe < 32767 → ∃ t, exec (.stripeMigrate stack) s = .next t ∧ t.mem = s.mem ∧ (t.home stack).mig = some { m with stripe := m.stripe + 1 } ∧
      (t.home stack).remapEntry m.group = BitVec.ofNat 32 (2 ^ 31 + (m.stripe + 1) * 2 ^ 14 + m.target * 2 ^ 8 + src)) ∧
    (32767 ≤ m.stripe → src ≠ m.target → ∃ t, exec (.stripeMigrate stack) s = .next t ∧ t.mem = s.mem ∧ (t.home stack).mig = none ∧
      (t.home stack).remapEntry m.group = BitVec.ofNat 32 m.target ∧ (t.home stack).bgState m.target = 0 ∧
      (t.home stack).retireQ = [] ∧ (∃ r, t.agenda = h.retireQ.map (fun b => Act.event (.busRetire stack b)) ++ r) ∧
      (m.retire = none → (t.home stack).bgState src = 1 ∧ (t.home stack).resOrder = h.resOrder ++ [src]) ∧
      (m.retire ≠ none → (t.home stack).bgState src = 2 ∧ (t.home stack).resOrder = h.resOrder))) ∧
  (∀ b r, h.resOrder = b :: r → h.rotctl.getLsbD 0 = true → h.mig = none → ∃ t, exec (.rotationInterval stack) s = .next t ∧ t.mem = s.mem ∧
    moves t h.rotPtr b none ∧ (t.home stack).rotPtr = (h.rotPtr + 1) % 32) ∧
  (h.rotctl.getLsbD 0 = false ∨ h.mig ≠ none ∨ h.resOrder = [] → exec (.rotationInterval stack) s = .next s)

/-- R13, R433-R436: each vbt instruction acts on the bus its lowest active lane names and reports a status in the top two bits of every active lane's result: 0 done, 1 the quiesce has
ended at a demand, 2 refused; a sample waits for the loopback of the last drive; a word that names no bus is ACCESS 0x08. -/
def Obligations.VbtInstructions : Prop := ∀ (s : State) (h : Hdr) (f : FmtS),
  let w := s.selWord (s.lowLane h) f.a.toNat
  let v := s.selWord (s.lowLane h) (f.a.toNat + 1)
  let b := wordBus w
  let x := s.home (wordStack w)
  let own := s.curWg
  let mine : Prop := ∃ q, tblFind x.quiesce b = some q ∧ q.wg = own
  let refused : Nat := if (own, b) ∈ x.ended then 2 ^ 30 else 2 * 2 ^ 30
  let same (t : State) : Prop := t.homes = s.homes
  let driven (flat : Bool) (t : State) : Prop := ∃ q, tblFind (t.home (wordStack w)).quiesce b = some q ∧ q.wg = own ∧
    q.drive = some (wordConn w, flat) ∧ s.tick + 16 < q.driveEnd ∧ ∃ id, ⟨0, q.driveEnd, .loadCompletion id⟩ ∈ t.timers
  let none' := s.shortFault (s.active h) [f.a.toNat, f.a.toNat + 1] [] = none
  (BusReady s h f false false →
    (x.bgState b ≠ 2 → x.migrates b = false → (∀ q, tblFind x.quiesce b = some q → q.wg = own) → Runs s h f (exec (.vbtQuiesce h f) s) (some 0) (fun t =>
      tblFind (t.home (wordStack w)).quiesce b = some { wg := own } ∧ (t.home (wordStack w)).testBus ≠ some b ∧ (own, b) ∉ (t.home (wordStack w)).ended)) ∧
    (x.bgState b = 2 ∨ x.migrates b = true ∨ (∃ q, tblFind x.quiesce b = some q ∧ q.wg ≠ own) → Runs s h f (exec (.vbtQuiesce h f) s) (some (2 * 2 ^ 30)) same) ∧
    (mine → Runs s h f (exec (.vbtDriveFlat h f) s) (some 0) (driven true)) ∧
    (¬ mine → Runs s h f (exec (.vbtDriveFlat h f) s) (some refused) same ∧ Runs s h f (exec (.vbtSample h f) s) (some refused) same ∧
      Runs s h f (exec (.vbtResume h f) s) (some refused) same) ∧
    (∀ q, tblFind x.quiesce b = some q → q.wg = own → (q.drive = none → Runs s h f (exec (.vbtSample h f) s) (some (2 * 2 ^ 30)) same) ∧
      (q.drive ≠ none → ∃ z, z < 2 ∧ Runs s h f (exec (.vbtSample h f) s) (some z) (fun t => t.homes = s.homes ∧
        ∃ id due, ⟨0, due, .loadCompletion id⟩ ∈ t.timers ∧ q.driveEnd + 16 ≤ due))) ∧
    (mine → Runs s h f (exec (.vbtResume h f) s) (some 0) (fun t => tblFind (t.home (wordStack w)).quiesce b = none)) ∧
    (x.bgState b = 2 → Runs s h f (exec (.vbtRetire h f) s) (some (2 * 2 ^ 30)) (fun _ => True)) ∧
    (x.bgState b ≠ 2 → x.resOrder ≠ [] → Runs s h f (exec (.vbtRetire h f) s) none (fun t => (∃ id, (b, id) ∈ (t.home (wordStack w)).retiring) ∧
      ∃ due, ⟨0, due, .busRetire (wordStack w) b⟩ ∈ t.timers))) ∧
  (BusReady s h f false true → (mine → Runs s h f (exec (.vbtDriveWalk h f) s) (some 0) (driven false)) ∧
    (¬ mine → Runs s h f (exec (.vbtDriveWalk h f) s) (some refused) same)) ∧
  (BusReady s h f true true → (vbLegal v = true → Runs s h f (exec (.vbtRepGrp h f) s) (some 0) (fun t => (t.home (wordStack w)).vb b (groupOf (wordConn w)) = v)) ∧
    (vbLegal v = false → Runs s h f (exec (.vbtRepGrp h f) s) (some (2 * 2 ^ 30)) same)) ∧
  (BusReady s h f true false → (rotLegal v = true → Runs s h f (exec (.vbtRepRot h f) s) (some 0) (fun t => (t.home (wordStack w)).rotctl = v &&& 0x7FF)) ∧
    (rotLegal v = false → Runs s h f (exec (.vbtRepRot h f) s) (some (2 * 2 ^ 30)) same)) ∧
  (s.active h ≠ 0 → none' → LowReady s h [.reg f.a.toNat] →
    (busBad w false = true → NoBus s h w (exec (.vbtQuiesce h f) s) ∧ NoBus s h w (exec (.vbtDriveFlat h f) s) ∧ NoBus s h w (exec (.vbtSample h f) s) ∧
      NoBus s h w (exec (.vbtRetire h f) s) ∧ NoBus s h w (exec (.vbtResume h f) s)) ∧
    (busBad w true = true → NoBus s h w (exec (.vbtDriveWalk h f) s))) ∧
  (s.active h ≠ 0 → none' → LowReady s h [.pair f.a.toNat] →
    (busBad w true = true → NoBus s h w (exec (.vbtRepGrp h f) s)) ∧ (busBad w false = true → NoBus s h w (exec (.vbtRepRot h f) s)))

/-- R437-R440, R442: a column goes to a point no higher than its cap and the thermal hold allow, its clock stopped for at most 1 µs; over 3.2 kW the column that has metered the most over 10 ms goes
down a point, over 3.4 kW every column to point 2 or below; at 3.1 kW or less the column lowered last comes back. -/
def Sys2Proof.Claims.OperatingPoints : Prop := ∀ (s : State) (c mw : Nat),
  let k := s.core c
  let q (p : Nat) : Nat := if s.thermalHold then 3 else min 3 (max p k.cap)
  let others (t : State) : Prop := ∀ d, d ≠ c → t.core d = s.core d
  let below (d : Nat) : Prop := d < 320 ∧ (s.core d).point < 3
  (∀ p, c < 320 → (q p = k.point → exec (.operatingPointChange c p) s = .next s) ∧
    (q p ≠ k.point → ∃ t, exec (.operatingPointChange c p) s = .next t ∧ t.mem = s.mem ∧ others t ∧ (t.core c).point = q p ∧
      s.tick < (t.core c).stopped ∧ (t.core c).stopped ≤ s.tick + 1100)) ∧
  (mw ≤ 3100000 → exec (.powerLimitStep mw) s = .next { s with powerNext := [] }) ∧
  (3100000 < mw → mw ≤ 3200000 → s.powerNext = [] → exec (.powerLimitStep mw) s = .next s) ∧
  (3200000 < mw → mw ≤ 3400000 → s.powerNext = [] → below c → (∀ d, below d → s.metered10 d < s.metered10 c ∨ s.metered10 d = s.metered10 c ∧ c ≤ d) →
    ∃ t, exec (.powerLimitStep mw) s = .next t ∧ t.mem = s.mem ∧ others t ∧ (t.core c).point = q (k.point + 1) ∧ t.powerNext = [c] ∧ t.lowered = s.lowered ++ [c]) ∧
  (3400000 < mw → c < 320 → ∃ t, exec (.powerLimitStep mw) s = .next t ∧ t.mem = s.mem ∧ 2 ≤ (t.core c).point) ∧
  (mw ≤ 3100000 → s.thermalHold = false → s.lowered.getLast? = some c → ∃ t, exec (.powerRecoveryStep mw) s = .next t ∧ t.mem = s.mem ∧ others t ∧
    (t.core c).point = q (k.point - 1) ∧ t.lowered = s.lowered.dropLast) ∧
  (3100000 < mw ∨ s.thermalHold = true ∨ s.lowered = [] → exec (.powerRecoveryStep mw) s = .next s)

/-- R440-R442: a junction of 100 °C lowers its column a point each 100 µs, one of 110 °C puts it at point 3, and one of 115 °C holds every column there and resets every started context with
reason 5, until all read below 95 °C; a predicted life caps a core column's point, for good, and never an uncore column's. -/
def Sys2Proof.Claims.TemperatureAndWear : Prop := ∀ (s : State) (c deg : Nat),
  let k := s.core c
  (115 ≤ deg → ∃ t, exec (.thermalAction c deg) s = .next t ∧ t.mem = s.mem ∧ t.thermalHold = true ∧ (∀ d, d < 320 → 3 ≤ (t.core d).point) ∧
    ∀ x, x < 64 → (s.ctx x).st = 1 → (t.ctx x).st = 2 ∧ (t.ctx x).reason = 5) ∧
  (110 ≤ deg → deg < 115 → c < 320 → ∃ t, exec (.thermalAction c deg) s = .next t ∧ t.mem = s.mem ∧ 3 ≤ (t.core c).point ∧ ∀ d, d ≠ c → t.core d = s.core d) ∧
  (100 ≤ deg → deg < 110 → c < 320 → s.thermalHold = false → k.point < 3 → tblFind s.thermalAt c = none → ∃ t, exec (.thermalAction c deg) s = .next t ∧
    t.mem = s.mem ∧ (t.core c).point = min 3 (max (k.point + 1) k.cap) ∧ tblFind t.thermalAt c = some s.tick ∧ c ∈ t.lowered) ∧
  (∀ n, 100 ≤ deg → deg < 110 → tblFind s.thermalAt c = some n → s.tick < n + 110000 → ∃ t, exec (.thermalAction c deg) s = .next t ∧ t.mem = s.mem ∧ t.cores = s.cores) ∧
  (deg < 100 → ∃ t, exec (.thermalAction c deg) s = .next t ∧ t.mem = s.mem ∧ t.cores = s.cores ∧ tblFind t.junction c = some deg ∧
    (deg < 95 → (∀ p ∈ s.junction, p.2 < 95) → t.thermalHold = false) ∧ (95 ≤ deg → t.thermalHold = s.thermalHold)) ∧
  (∀ die i, 80 ≤ i → (s.wearEntry die i).getD 3 0 = 0) ∧
  ∀ die column hours, ∃ t, exec (.wearPrediction die column hours) s = .next t ∧ t.mem = s.mem ∧
    tblGet 0xFFFFFFFF t.wear (die * 124 + column) = BitVec.ofNat 32 (min hours 4294967295) ∧ (80 ≤ column → t.cores = s.cores) ∧
    (column < 80 →
      let x := s.core (die * 80 + column)
      let y := t.core (die * 80 + column)
      y.cap = max x.cap (if hours < 8760 then 2 else if hours < 17520 then 1 else 0) ∧ y.point = (if s.thermalHold then 3 else min 3 (max x.point y.cap)))

/-- R422, R351, R442, R443: DEVICE_RESET leaves no context, launch, workgroup or command and the time base at zero; caps, fuses and the verified image's absence stand; memory is kept or empty.
R378, R368: a host access that every mapping page allows is performed, any other is recorded with event kind 1. R380: ATS_TRANSLATION_INVALIDATE ends a window's translation. -/
def Obligations.HostAccessesAndReset : Prop := ∀ (s : State),
  (∃ t, exec .deviceReset s = .next t ∧ (t.mem = s.mem ∨ t.mem = []) ∧ t.hostMem = s.hostMem ∧ t.tick = 0 ∧ t.groups = [] ∧ t.wgs = [] ∧
    t.launches = [] ∧ t.ctxs = [] ∧ t.kicks = [] ∧ t.agenda = [] ∧ t.timers = [] ∧ t.runList = [] ∧ t.windows = [] ∧ t.mclog = [] ∧ t.wear = s.wear ∧
    t.fw.verified = none ∧ t.fw.running = s.fw.running ∧ t.fw.fused = s.fw.fused ∧
    (∀ c, (t.core c).cycles = 0) ∧ (tblSorted s.cores = true → ∀ c, (t.core c).cap = (s.core c).cap ∧ (t.core c).point = (s.core c).cap)) ∧
  (∀ (link : BitVec 1) (pa len : Nat) (data : List Byte),
    (pa < 12 * 2 ^ 36 → s.apertureOk pa = true → s.apertureOk (pa + (len - 1)) = true →
      (∃ t, exec (.hostApertureAccess link false pa len data) s = .next t ∧ t.mem = s.mem ∧ t.hostMem = s.hostMem ∧ t.evlog = s.evlog) ∧
      ∃ t, exec (.hostApertureAccess link true pa len data) s = .next t ∧ t.hostMem = s.hostMem ∧
        (∀ j, j < len → j < data.length → memGet t.mem (pa + j) = data.getD j 0) ∧
        ∀ x, x < pa ∨ pa + len ≤ x → memGet t.mem x = memGet s.mem x) ∧
    (∀ w, s.apertureOk pa = false → ∃ t, exec (.hostApertureAccess link w pa len data) s = .next t ∧ t.mem = s.mem ∧
      t.evlog.head? = some { kind := 1, link := link.toNat, ctx := 0xFFFF, arg := 8, addr := pa, time := s.tick })) ∧
  ∀ ctx n x, n < 64 → tblFind s.windows (ctx * 64 + n) = some x → ∃ t, exec (.atsTranslationInvalidate ctx n) s = .next t ∧ t.mem = s.mem ∧
    tblFind t.windows (ctx * 64 + n) = some { x with held := false } ∧ ∀ j, j ≠ ctx * 64 + n → tblFind t.windows j = tblFind s.windows j

namespace Sys2Proof.Claims

/-- R372: a kick page whose command has completed with a status and a result. -/
def replyOf (k : Kick) (status : Nat) (res : List Byte) : Kick :=
  { k with done := k.seq, status := status, resLen := (res.take 2032).length, result := res.take 2032, running := false, phase := 0 }

/-- R372: the state in which the command of a page has completed and nothing else has changed: the page, its time-out, its interrupt. -/
def answered (s : State) (p : BitVec 6) (status : Nat) (res : List Byte) : State :=
  { s with kicks := tblPut s.kicks p.toNat (replyOf (s.kick p) status res), timers := s.timers.filter (fun t => t.ev ≠ Instr.commandTimeout p), msix := if (s.kick p).irq then s.msix ||| BitVec.ofNat 64 (2 ^ p.toNat) else s.msix }

/-- The command of a page has completed with status 0 and a result. -/
def Done (s t : State) (p : BitVec 6) (res : List Byte) : Prop := t.kick p = replyOf (s.kick p) 0 res

/-- The command of a page is not finished and goes on from a later phase. -/
def Pending (s t : State) (p : BitVec 6) : Prop := 0 < (t.kick p).phase ∧ (t.kick p).running = (s.kick p).running ∧ (t.kick p).status = (s.kick p).status

/-- R397: the trace queues of the cores have been written, and the command of a page has completed with status 0 and a result. -/
def drained (s : State) (p : BitVec 6) (res : List Byte) : Host.Outcome State Fault Refusal := .next (answered s.drainAll p 0 res)

/-- Field of n bytes at an offset of a record. -/
def recAt {w : Nat} (rec' : BitVec w) (o n : Nat) : Nat := rec'.toNat / 2 ^ (8 * o) % 2 ^ (8 * n)

/-- R381, R388: a debug command may act on a workgroup: it is debug-stopped, of a started context with debug. -/
def Halted (s : State) (target : Long) (w : Nat) : Prop := (s.ctx (target.toNat % 64)).debug = true ∧ (s.ctx (target.toNat % 64)).st = 1 ∧
  s.target target.toNat = some w ∧ s.debugStopped w = true

end Sys2Proof.Claims

/-- R372-R375: KICK_PAGE_WRITE puts bytes into a page's arguments; a write of the next sequence value starts the command with a time-out of 1 s, another value is refused with status 0x03, and one that
comes while a command runs is kept for later; COMMAND_TIMEOUT completes a running command with status 0x0C, a translation entry that it wrote holds what it held, and a workgroup that it stopped goes on; a code that is no command completes with 0x01 and a wrong argument length with 0x02. -/
def Obligations.KickPages : Prop := ∀ (s : State) (p : BitVec 6),
  let k := s.kick p
  (∀ (off : Nat) (data : List Byte), 0x10 ≤ off → off + data.length ≤ 0x800 → ∃ t, exec (.kickPageWrite p off data) s = .next t ∧ t.mem = s.mem ∧ t.agenda = s.agenda ∧
    (∀ j, j < data.length → tblGet 0 (t.kick p).args (off - 0x10 + j) = data.getD j 0) ∧
    (∀ a, a < off - 0x10 ∨ off - 0x10 + data.length ≤ a → tblGet 0 (t.kick p).args a = tblGet 0 k.args a) ∧
    (t.kick p).done = k.done ∧ (t.kick p).status = k.status ∧ (t.kick p).result = k.result ∧ (t.kick p).running = k.running) ∧
  (∀ data : List Byte, data.length = 8 → k.running = false → k.code < 2 ^ 16 → k.flags < 2 ^ 16 → k.argLen < 2 ^ 32 →
    (leNat data = (k.done + 1) % 2 ^ 64 → ∃ t, exec (.kickPageWrite p 0 data) s = .next t ∧ t.mem = s.mem ∧ (t.kick p).running = true ∧
      (t.kick p).seq = leNat data ∧ (t.kick p).code0 = k.code ∧ (t.kick p).len0 = k.argLen ∧ (t.kick p).args0 = tabBytes k.args 0 (min k.argLen 2032) ∧
      t.agenda = .command p.toNat :: s.agenda ∧ ⟨0, s.tick + 1100000000, .commandTimeout p⟩ ∈ t.timers) ∧
    (leNat data ≠ (k.done + 1) % 2 ^ 64 → ∃ t, exec (.kickPageWrite p 0 data) s = .next t ∧ t.mem = s.mem ∧ (t.kick p).running = false ∧
      (t.kick p).status = 3 ∧ (t.kick p).done = leNat data ∧ t.agenda = s.agenda)) ∧
  (∀ data : List Byte, data.length = 8 → k.running = true → ∃ t, exec (.kickPageWrite p 0 data) s = .next t ∧ t.mem = s.mem ∧
    (t.kick p).latched = some (leNat data) ∧ (t.kick p).seq = k.seq ∧ (t.kick p).running = true) ∧
  (k.latched = none → k.running = true → k.stops = [] → k.keep = none → k.undo = [] → exec (.commandTimeout p) s = .next (answered s p 0x0C [])) ∧
  (∀ w r, k.latched = none → k.running = true → k.stops = [(w, r)] → k.keep = none → k.undo = [] → (s.wg w).halt = some r →
    ∃ t, exec (.commandTimeout p) s = .next t ∧ t.mem = s.mem ∧ t.kick p = replyOf k 0x0C [] ∧ (t.wg w).halt = none) ∧
  (∀ a old new : Nat, k.latched = none → k.running = true → k.code0 = 0x20 → k.stops = [] → k.keep = none → k.undo = [(a, old, new)] → old < 2 ^ 64 →
    ∃ t, exec (.commandTimeout p) s = .next t ∧ t.kick p = replyOf k 0x0C [] ∧ (∀ b, b < a ∨ a + 8 ≤ b → memGet t.mem b = memGet s.mem b) ∧
      memNat t.mem a 8 = if memNat s.mem a 8 = new then old else memNat s.mem a 8) ∧
  (k.running = false → exec (.commandTimeout p) s = .next s) ∧
  ∀ r, s.agenda = .command p.toNat :: r → k.latched = none → k.running = true → s.heldBack p = false →
    (commandLength k.code0 = none → step s = .next (answered { s with agenda := r } p 1 [])) ∧
    (∀ n, commandLength k.code0 = some n → k.flags0 ≤ 1 → k.len0 ≠ n → step s = .next (answered { s with agenda := r } p 2 []))

/-- R352-R354, R359, R374, R375, R275: the context commands: contextStart begins a context from its record, contextStop and contextReset reset one and complete when the reset has, rootLaunch
submits a record, contextQuery returns a context's record and state, quotaSet and runListEdit write a quota and an entry; those marked P are refused with 0x06 outside page 0. -/
def Obligations.ContextCommands : Prop := ∀ (s : State) (p : BitVec 6) (c : Word), (s.kick p).latched = none → c.toNat < 64 →
  let x := s.ctx c.toNat
  (∀ r : BitVec 1024, ctxRecBad r = false → p = 0 →
    let n := recAt r 0 4 % 64
    let quota (h : Nat) : Nat := recAt r (0x40 + 4 * h) 4
    let ds (d : Nat) : Nat := recAt r (0x38 + 2 * d) 2
    (s.ctx n).st = 0 → deviceRange (recAt r 8 8) 1 = true → (recAt r 0x18 8 = 0 ∨ deviceRange (recAt r 0x10 8) (recAt r 0x18 8) = true) →
    (recAt r 0x28 4 = 0 ∨ deviceRange (recAt r 0x30 8) (64 * recAt r 0x28 4) = true ∧ s.someMaps (recAt r 0x30 8) (64 * recAt r 0x28 4) = false ∧
      tableMaps s.mem (recAt r 0x30 8) (64 * recAt r 0x28 4) 5 (recAt r 8 8) = false) → (∀ h, h < 12 → s.quotaSum h n + quota h ≤ 4194304) →
    (∀ d, d < 4 → s.dsTaken d + ds d ≤ 1024) → ∃ t, exec (.contextStart p r) s = .next t ∧ Done s t p [] ∧ t.mem = s.mem ∧ (∀ m, m ≠ n → t.ctx m = s.ctx m) ∧
      let y := t.ctx n
      y.st = 1 ∧ y.priv = (recAt r 0 4).testBit 8 ∧ y.debug = (recAt r 0 4).testBit 9 ∧ y.replay = (recAt r 0 4).testBit 10 ∧ y.pasid = recAt r 4 4 ∧ y.root = recAt r 8 8 ∧
      y.save = recAt r 0x10 8 ∧ y.saveSize = recAt r 0x18 8 ∧ y.debugVA = recAt r 0x20 8 ∧ y.layLen = recAt r 0x28 4 ∧ y.layPA = recAt r 0x30 8 ∧
      (∀ h, h < 12 → y.quota.getD h 0 = quota h) ∧ (∀ d, d < 4 → y.ds.getD d 0 = ds d) ∧ y.regions = [] ∧ y.bps = [] ∧ y.wps = [] ∧ y.idle = (s.ctx n).idle) ∧
  (∀ (r : BitVec 1024) (e : Word) (w : Long), p ≠ 0 → exec (.contextStart p r) s = .next (answered s p 6 []) ∧ exec (.contextStop p c) s = .next (answered s p 6 []) ∧
    exec (.contextReset p c) s = .next (answered s p 6 []) ∧ exec (.quotaSet p c e e) s = .next (answered s p 6 []) ∧ exec (.runListEdit p e w) s = .next (answered s p 6 [])) ∧
  (p = 0 → (s.kick p).phase = 0 → x.st = 1 → (∃ t, exec (.contextStop p c) s = .next t ∧ t.mem = s.mem ∧ Pending s t p ∧ (t.ctx c.toNat).st = 2 ∧
      (t.ctx c.toNat).reason = 2 ∧ (t.ctx c.toNat).stopAfter = true) ∧
    ∃ t, exec (.contextReset p c) s = .next t ∧ t.mem = s.mem ∧ Pending s t p ∧ (t.ctx c.toNat).st = 2 ∧ (t.ctx c.toNat).reason = 4 ∧ (t.ctx c.toNat).stopAfter = false) ∧
  (p = 0 → (s.kick p).phase ≠ 0 → x.st ≠ 2 → exec (.contextStop p c) s = .next (answered s p 0 []) ∧ exec (.contextReset p c) s = .next (answered s p 0 [])) ∧
  (∀ va : Long, x.st = 1 →
    (va.toNat % 256 ≠ 0 → exec (.rootLaunch p c va) s = .next (answered s p 2 [])) ∧
    (va.toNat % 256 = 0 → s.rootBad c.toNat va.toNat = true → exec (.rootLaunch p c va) s = .next (answered s p 0x0A [])) ∧
    (va.toNat % 256 = 0 → s.rootBad c.toNat va.toNat = false → s.launchCount c.toNat < 256 →
      let a := s.accept (rootSubmit c.toNat va.toNat)
      ∃ t, exec (.rootLaunch p c va) s = .next t ∧ t.mem = a.2.mem ∧ t.launches = a.2.launches ∧
        t.kick p = (match a.1 with
          | none => replyOf (s.kick p) 0 [0, 0, 0, 0]
          | some r => replyOf (s.kick p) 0x0B (leBytes 4 r)))) ∧
  (x.st = 0 → exec (.contextQuery p c) s = .next (answered s p 0 (List.replicate 132 0))) ∧
  (x.st ≠ 0 → exec (.contextQuery p c) s = .next (answered s p 0 (x.record c.toNat ++ leBytes 4 x.st))) ∧
  (∀ home q : Word, p = 0 → x.st = 1 → home.toNat < 12 → q.toNat ≤ 4194304 → s.quotaSum home.toNat c.toNat + q.toNat ≤ 4194304 → s.slotCount c.toNat home.toNat ≤ q.toNat →
    ∃ t, exec (.quotaSet p c home q) s = .next t ∧ Done s t p [] ∧ t.mem = s.mem ∧ (t.ctx c.toNat).quota.getD home.toNat 0 = q.toNat ∧
      ∀ h, h < 12 → h ≠ home.toNat → (t.ctx c.toNat).quota.getD h 0 = x.quota.getD h 0) ∧
  ∀ (e : Word) (w : Long), p = 0 → e.toNat < 64 → (w.getLsbD 63 = true → w.toNat / 2 ^ 52 % 16 ≠ 0 ∧ 10 ≤ w.toNat / 2 ^ 32 % 2 ^ 20 ∧ w.toNat / 2 ^ 32 % 2 ^ 20 ≤ 1000000 ∧
      10 ≤ w.toNat % 2 ^ 32 ∧ w.toNat % 2 ^ 32 ≤ 1000000) →
    ∃ t, exec (.runListEdit p e w) s = .next t ∧ Done s t p [] ∧ t.mem = s.mem ∧ tblGet 0 t.runList e.toNat = w ∧ ∀ j, j ≠ e.toNat → tblGet 0 t.runList j = tblGet 0 s.runList j

/-- R364, R366-R369, R377, R379, R380: mapCmd writes one entry and, where it replaces a valid one, completes when what was translated through that has been performed; a handover sets or clears the
host-owned attribute of its leaves; the layout and window commands write and clear a record, which lies in memory, and a window, whose counter lies in host memory of the context's PASID. -/
def Obligations.TranslationCommands : Prop := ∀ (s : State) (p : BitVec 6) (c : Word), (s.kick p).latched = none → c.toNat < 64 → (s.ctx c.toNat).st = 1 →
  let x := s.ctx c.toNat
  let new := (s.kick p).phase = 0
  let old := (s.kick p).phase ≠ 0
  (∀ (va : Long) (lv : Word) (e : Long) (a : Nat), new → lv.toNat ≤ 4 → va.toNat < 2 ^ 57 → (e.getLsbD 0 = true → badEntry lv.toNat e.toNat = false) →
    entryAddr s.mem va.toNat lv.toNat 5 x.root = some a → s.hitsBuffer lv.toNat e.toNat = false → ∃ t, exec (.mapCmd p c va lv e) s = .next t ∧
      memNat t.mem a 8 = e.toNat ∧ (∀ b, b < a ∨ a + 8 ≤ b → memGet t.mem b = memGet s.mem b) ∧
      ((memNat s.mem a 8).testBit 0 = false ∨ memNat s.mem a 8 = e.toNat → Done s t p []) ∧
      ((memNat s.mem a 8).testBit 0 = true → memNat s.mem a 8 ≠ e.toNat → Pending s t p)) ∧
  (∀ (va len : Long) (lv : Word) (e : Long), old → s.oldWork c.toNat (s.kick p).phase = false → exec (.mapCmd p c va lv e) s = .next (answered s p 0 []) ∧
    exec (.handoverToDevice p c va len) s = .next (answered s p 0 []) ∧ exec (.handoverToHost p c va len) s = .next (answered s p 0 [])) ∧
  (∀ (va len : Long) (l : List (Nat × Nat × Nat)), new → va.toNat % 65536 = 0 → len.toNat % 65536 = 0 → va.toNat + len.toNat ≤ 2 ^ 57 →
    s.handoverBusy p c.toNat va.toNat len.toNat = false → s.handoverLeaves c.toNat va.toNat len.toNat = some l →
    (∃ t, exec (.handoverToDevice p c va len) s = .next t ∧ Pending s t p ∧ ∀ y ∈ l, memNat t.mem y.1 8 = y.2.1 / 256 * 256 + y.2.1 % 128) ∧
    ∃ t, exec (.handoverToHost p c va len) s = .next t ∧ Pending s t p ∧ ∀ y ∈ l, memNat t.mem y.1 8 = y.2.1 / 256 * 256 + y.2.1 % 128 + 128) ∧
  (∀ (n : Word) (r : BitVec 512), n.toNat < x.layLen →
    let at' := x.layPA + 64 * n.toNat
    let only (t : State) : Prop := ∀ b, b < at' ∨ at' + 64 ≤ b → memGet t.mem b = memGet s.mem b
    (layoutOwner r = c.toNat → layoutBad r = false → ∃ t, exec (.layoutWrite p c n r) s = .next t ∧ Done s t p [] ∧ only t ∧
      memNat t.mem at' 64 = (r &&& ~~~ (BitVec.ofNat 512 (2 ^ 64 * 0x40FFFC8C))).toNat) ∧
    (layoutOwner r ≠ c.toNat → exec (.layoutWrite p c n r) s = .next (answered s p 9 [])) ∧
    ∃ t, exec (.layoutInvalidate p c n) s = .next t ∧ Done s t p [] ∧ only t ∧ ∀ k, (memNat t.mem at' 64).testBit k = (k != 95 && (memNat s.mem at' 64).testBit k)) ∧
  (∀ va len host counter w : Long, w.toNat < 64 → va.toNat % 65536 = 0 → len ≠ 0 → len.toNat % 65536 = 0 → len.toNat ≤ 2 ^ 26 → va.toNat + len.toNat ≤ 2 ^ 57 →
    counter.toNat % 8 = 0 → tblFind s.windows (c.toNat * 64 + w.toNat) = none → s.windowPages c.toNat w.toNat va.toNat len.toNat = true →
    (∀ d, d < 4 → s.dsTaken d + len.toNat / 65536 ≤ 1024) → ∃ t y, exec (.windowBind p c (w.setWidth 32) va len host counter) s = .next t ∧ Done s t p [] ∧ t.mem = s.mem ∧
      tblFind t.windows (c.toNat * 64 + w.toNat) = some y ∧ y.va = va.toNat ∧ y.len = len.toNat ∧ y.host = host.toNat ∧ y.counter = counter.toNat ∧
      y.pasid = x.pasid ∧ (let at' := x.pasid * 2 ^ 64 + counter.toNat
        (∀ b, b < at' ∨ at' + 8 ≤ b → memGet t.hostMem b = memGet s.hostMem b) ∧ memNat t.hostMem at' 8 = 0)) ∧
  ∀ (w : Word) (y : Window), w.toNat < 64 → tblFind s.windows (c.toNat * 64 + w.toNat) = some y →
    (y.busy = 0 → (old ∨ mapsWindow s.mem w.toNat 5 x.root = false) → ∃ t, exec (.windowUnbind p c w) s = .next t ∧ Done s t p [] ∧ t.mem = s.mem ∧
      tblFind t.windows (c.toNat * 64 + w.toNat) = none) ∧
    (new → mapsWindow s.mem w.toNat 5 x.root = true → exec (.windowUnbind p c w) s = .next (answered s p 4 []))

/-- R381-R384, R388-R390, R32: the debug commands set and clear breakpoints and watchpoints, halt, resume and step workgroups, list the stopped ones, and read and write a halted thread. -/
def Sys2Proof.Claims.DebugCommands : Prop := ∀ (s : State) (p : BitVec 6), (s.kick p).latched = none →
  (∀ c i e kind len : Word, ∀ pos va : Long, c.toNat < 64 → (s.ctx c.toNat).debug = true → (s.ctx c.toNat).st = 1 → i.toNat < 8 →
    (pos.toNat / 8 % 8 = 0 → pos.toNat % 8 ≤ 4 → pos.toNat < 2 ^ 57 → e.toNat ≤ 1 → ∃ t, exec (.breakpointSet p c i e pos) s = .next t ∧ Done s t p [] ∧
      t.mem = s.mem ∧ tblFind (t.ctx c.toNat).bps i.toNat = if e = 1 then some pos else none) ∧
    (kind.toNat < 16 → len ≠ 0 → len.toNat ≤ 2 ^ 30 → ∃ t, exec (.watchpointSet p c i kind va len) s = .next t ∧ Done s t p [] ∧ t.mem = s.mem ∧
      tblFind (t.ctx c.toNat).wps i.toNat = if kind.getLsbD 0 then some { kinds := kind.toNat, base := va.toNat, len := len.toNat } else none)) ∧
  (∀ (target : Long) (w : Nat), (s.ctx (target.toNat % 64)).debug = true → (s.ctx (target.toNat % 64)).st = 1 → (s.kick p).phase = 0 →
    (s.target target.toNat = some w → (s.wg w).phase = 0 → (s.wg w).halt = none → ∃ t, exec (.debugHalt p target false) s = .next t ∧ t.mem = s.mem ∧
      Pending s t p ∧ (t.wg w).halt = some { code := 0, kind := 4, time := s.tick }) ∧
    ∃ t, exec (.debugHalt p target true) s = .next t ∧ t.mem = s.mem ∧ Pending s t p ∧ ∀ y ∈ s.wgs, s.ctxOfWg y.1 = target.toNat % 64 → (t.wg y.1).halt ≠ none) ∧
  (∀ (target : Long) (w : Nat), (s.kick p).phase ≠ 0 → s.target target.toNat = some w → (s.wg w).settled = true →
    exec (.debugHalt p target false) s = .next (answered s p 0 [])) ∧
  ∀ (target : Long) (w : Nat), Halted s target w →
    (∃ t, exec (.debugResume p target) s = .next t ∧ Done s t p [] ∧ t.mem = s.mem ∧ (t.wg w).halt = none ∧ (t.wg w).settled = false ∧
      ∀ core slot, s.hasGroup core slot = true → (s.group core slot).wg = w → (t.group core slot).stopped = false ∧ (t.group core slot).threads = (s.group core slot).threads) ∧
    (∀ i : Word,
      let part (b : List Byte) : Prop := exec (.readWorkgroup p target i) s = .next (if i.toNat / 256 = 0 ∨ 2032 * (i.toNat / 256) < b.length
        then answered s p 0 ((b.drop (2032 * (i.toNat / 256))).take 2032) else answered s p 2 [])
      (i.toNat % 256 = 0 → part (s.barItem w)) ∧ (i.toNat % 256 = 2 → part (s.matrixItem w)) ∧
      (4 < i.toNat % 256 → exec (.readWorkgroup p target i) s = .next (answered s p 2 []))) ∧
    (∀ c : Word, c.toNat = target.toNat % 64 → exec (.listStopped p c) s = .next (answered s p 0 (((s.wgs.filter (fun y => s.ctxOfWg y.1 = c.toNat && s.debugStopped y.1)).map
      (fun y => leBytes 8 (s.targetWord y.1) ++ (s.faultKept y.1 (y.2.halt.getD {})).bytes)).flatten))) ∧
    ∀ (gn lane item : Word) (core slot : Nat), s.hasGroup core slot = true → (s.group core slot).wg = w → (s.group core slot).idx = gn.toNat →
      s.groupNo w gn.toNat = some (s.group core slot) → lane.toNat < 32 → lane.toNat < (s.group core slot).threads.length → (s.thread core slot lane.toNat).exited = false →
      ((s.kick p).phase = 0 → ∃ t, exec (.stepCmd p target gn lane) s = .next t ∧ t.mem = s.mem ∧ Pending s t p ∧ (t.wg w).halt = none ∧
        (t.wg w).step = some (gn.toNat, lane.toNat)) ∧
      exec (.readThread p target gn lane item) s = .next (match (Config.threadItem item.toNat).bind (s.threadItem w (s.group core slot) lane.toNat) with
        | some b => answered s p 0 b
        | none => answered s p 2 []) ∧
      ∀ v : Long, ∃ t, exec (.writeThread p target gn lane item v) s = .next t ∧ t.mem = s.mem ∧
        let y := s.thread core slot lane.toNat
        let z := t.thread core slot lane.toNat
        match Config.threadItem item.toNat with
        | some (.reg r) => if r < (s.group core slot).n then Done s t p [] ∧ z.reg r = ⟨v.setWidth 32, false⟩ ∧ ∀ q, q ≠ r → z.reg q = y.reg q else t = answered s p 2 []
        | some (.pred q) => if q < 7 then Done s t p [] ∧ z = y.setPred q (v.getLsbD 0) else t = answered s p 2 []
        | some .preds => Done s t p [] ∧ ∀ q, q < 7 → z.pred q = v.getLsbD q
        | some (.ret d) => if d < y.depth then Done s t p [] ∧ z = y.setRet d v else t = answered s p 2 []
        | _ => t = answered s p 2 []

/-- R391, R392: CHECKPOINT begins the next interval of a replay workgroup with empty logs. R395, R396: a precise stop runs forward to a count, or, once every other workgroup of the context has
settled and the gathered stores of the context have been performed, goes back to one whose history is held, and stops there with code STEP 0x18,
or at the count of a fault that the re-execution meets, with that fault's record. -/
def Sys2Proof.Claims.CheckpointsAndPreciseStops : Prop := ∀ (s : State) (w : Nat),
  (s.checkpointDue w = true → (∀ c ∈ (s.wg w).copies, c.2.st = 0) → (∀ o ∈ (s.core (s.wg w).core).mq, o.wg ≠ w) → (∀ q ∈ s.sent, q.2.packet.senderWg ≠ w) →
    ∃ t, exec (.checkpoint w) s = .next t ∧ t.mem = s.mem ∧ t.groups = s.groups ∧ (t.wg w).ival = (s.wg w).ival + 1 ∧ (t.wg w).rwc = 0 ∧
      (t.wg w).replay.undo = [] ∧ (t.wg w).replay.loads = [] ∧ (t.wg w).replay.sched = [] ∧ (t.wg w).replay.firsts = [] ∧ (t.wg w).replay.faults = []) ∧
  ∀ (p : BitVec 6) (target interval count : Long), (s.kick p).latched = none → s.target target.toNat = some w →
    (Halted s target w → s.replaying w = true → interval.toNat = (s.wg w).ival.toNat → (s.kick p).phase = 0 →
      ((s.wg w).rwc ≤ count.toNat → ∃ t, exec (.preciseStop p target interval count) s = .next t ∧ t.mem = s.mem ∧ Pending s t p ∧ (t.wg w).halt = none ∧
        (t.wg w).stopAt = some count.toNat) ∧
      (count.toNat < (s.wg w).rwc → ∃ t, exec (.preciseStop p target interval count) s = .next t ∧ t.mem = s.mem ∧ Pending s t p ∧ t.wg w = s.wg w)) ∧
    ((s.kick p).phase = 1 → s.debugStopped w = true → exec (.preciseStop p target interval count) s = .next (answered s p 0 (leBytes 8 (s.wg w).rwc))) ∧
    ((s.kick p).phase = 2 → (∀ v ∈ s.wgs, v.1 ≠ w → s.ctxOfWg v.1 = s.ctxOfWg w → (s.wg v.1).settled = true ∨ (s.wg v.1).phase = 1) →
      ∃ t, exec (.preciseStop p target interval count) s = .next t ∧ t.mem = s.mem ∧ t.wg w = s.wg w ∧ Pending s t p ∧ 2 < (t.kick p).phase) ∧
    (∀ n d, 2 < (s.kick p).phase → s.oldWork (s.ctxOfWg w) (s.kick p).phase = false → (s.wg w).phase ≠ 1 →
      (s.wg w).replay.hist.find? (fun m => m.rwc = d) = some n →
      ((s.wg w).replay.metFault count.toNat = none → d = count.toNat → ∃ t x, exec (.preciseStop p target interval count) s = .next t ∧
        Done s t p (leBytes 8 d) ∧ (t.wg w).rwc = d ∧ (t.wg w).halt = some x ∧ x.code = 0x18 ∧ x.kind = 4) ∧
      ∀ r, (s.wg w).replay.metFault count.toNat = some (d, r) → ∃ t x, exec (.preciseStop p target interval count) s = .next t ∧
        Done s t p (leBytes 8 d) ∧ (t.wg w).rwc = d ∧ (t.wg w).halt = some x ∧ x.code = r.code ∧ x.tvalue = r.tvalue ∧ x.kind = 4)

/-- R397, R403, R404, R407, R409, R415, R416: arming a trace, a sampler and a trial, disarming the first two, and the queries of their counts and of the energy accounts. -/
def Obligations.ObserveCommands : Prop := ∀ (s : State) (p : BitVec 6), (s.kick p).latched = none →
  (∀ (c : Word) (core : BitVec 16) (size : Word) (base : Long), c.toNat < 64 → core.toNat < 320 →
    (bufferOk size.toNat base.toNat = true → deviceRange base.toNat size.toNat = true → s.someMaps base.toNat size.toNat = false → ∃ t,
      exec (.traceArm p c core 1 size base) s = .next t ∧ Done s t p [] ∧ t.mem = s.mem ∧
      (t.core core.toNat).trace = some { ctx := c.toNat, base := base.toNat, size := size.toNat } ∧
      ∀ slot, slot < 128 → s.hasGroup core.toNat slot = true → (t.group core.toNat slot).trace = {}) ∧
    (∀ x, bufferOk size.toNat base.toNat = true → (s.core core.toNat).trace = some x → x.ctx = c.toNat → ∃ t y, exec (.traceArm p c core 0 size base) s = .next t ∧ Done s t p [] ∧
      (t.core core.toNat).trace = some y ∧ y.on = false ∧ y.queue = [] ∧ y.written + y.lost = x.written + x.lost + x.queue.length)) ∧
  (∀ r : BitVec 224,
    let c := recAt r 0 4
    let core := recAt r 4 2
    let size := recAt r 0x18 4
    let base := recAt r 0x10 8
    c < 64 → core < 320 → recAt r 7 1 < 8 → recAt r 6 1 % 16 ≠ 0 → 16 ≤ recAt r 8 4 → recAt r 8 4 ≤ 65535 → bufferOk size base = true → 1 ≤ recAt r 0xC 4 →
    recAt r 0xC 4 ≤ size / 16 →
    ((recAt r 7 1).testBit 2 = false → deviceRange base size = true → s.someMaps base size = false → ∃ t m, exec (.samplerArm p r) s = .next t ∧ Done s t p [] ∧ t.mem = s.mem ∧
        tblFind (t.core core).samplers c = some m ∧ m.on = true ∧ m.mask = recAt r 6 1 ∧ m.period = recAt r 8 4 ∧ m.capacity = recAt r 0xC 4 ∧ m.base = base ∧
        m.atMark = (recAt r 7 1).testBit 0 ∧ m.started = !(recAt r 7 1).testBit 0 ∧ m.stopEmpty = (recAt r 7 1).testBit 1 ∧ m.written = 0 ∧ m.dropped = 0 ∧
        m.next = (s.core core).cycles + recAt r 8 4) ∧
    ((recAt r 7 1).testBit 2 = true → ∃ t, exec (.samplerArm p r) s = .next t ∧ Done s t p [] ∧
      ∀ m, tblFind (t.core core).samplers c = some m → m.on = false)) ∧
  (∀ r : BitVec 224,
    let c := recAt r 0 4
    let ticks := 1100 * recAt r 24 4
    c < 64 → recAt r 4 2 < 320 → 1 ≤ recAt r 6 1 → recAt r 6 1 ≤ 64 → recAt r 7 1 = 0 → recAt r 8 8 < recAt r 16 8 → 10 ≤ recAt r 24 4 → recAt r 24 4 ≤ 1000000 →
      ∃ t, exec (.trialArm p r) s = .next t ∧ Done s t p [] ∧ t.mem = s.mem ∧ (t.ctx c).trialStart = (s.ctx c).progress ∧ (t.ctx c).trialHeld = 0 ∧
        (t.ctx c).trial = some { core := recAt r 4 2, delay := recAt r 6 1, lo := recAt r 8 8, hi := recAt r 16 8, ends := s.tick + ticks } ∧
        ⟨0, s.tick + ticks, .trialEnd c⟩ ∈ t.timers) ∧
  ∀ c : Word, c.toNat < 64 →
    let x := s.ctx c.toNat
    let sixteen (t : Tbl Long) : List Byte := ((List.range 16).map (fun k => leBytes 8 (tblGet 0 t k).toNat)).flatten
    let account (n : Nat) : List Byte := leBytes 8 (min n 18446744073709551615)
    exec (.queryProgressCounters p c) s = drained s p ((sixteen x.progress)) ∧
    exec (.queryTrialCounters p c) s = drained s p ((sixteen x.trialStart ++ sixteen x.trialEnd ++ leBytes 8 x.trialHeld)) ∧
    exec (.queryEnergyAccounts p c) s = drained s p ((((List.range 64).map (fun k => account (s.ctx k).idle)).flatten ++ account s.idle)) ∧
    exec (.querySampleCounts p c) s = drained s p ((Config.perCoreCounts ((List.range 320).map (fun k =>
      match tblFind (s.core k).samplers c.toNat with | some m => (m.written, m.dropped) | none => (0, 0))))) ∧
    ∃ t l, exec (.queryTraceBytes p c) s = .next t ∧ Done s t p (Config.perCoreCounts l) ∧ l.length = 320 ∧ ∀ k x, k < 320 → (s.core k).trace = some x → x.ctx = c.toNat →
      l.getD k (0, 0) = (x.written + min x.queue.length (x.size - x.written), x.lost + (x.queue.length - (x.size - x.written)))

/-- R375, R376, R340, R349, R351, R432, R441: identify and the device queries answer from the state and change nothing but their page. -/
def Sys2Proof.Claims.DeviceQueries : Prop := ∀ (s : State) (p : BitVec 6) (a : Word), (s.kick p).latched = none →
  let ok (l : List Byte) : Host.Outcome State Fault Refusal := .next (answered s p 0 l)
  let bad : Host.Outcome State Fault Refusal := .next (answered s p 2 [])
  exec (.identify p) s = ok ([0x43, 0x4C, 0x39, 0x2D, 0x33, 0x32, 0x30, 0x2D, 0x37, 0x36, 0x38] ++ leBytes 8 s.image.2.2.toNat ++ leBytes 64 s.image.1.toNat) ∧
  (exec (.deviceQueryErrorCounts p a) s = if a = 0 then ok (((List.range 13).map (fun u => leBytes 8 (tblGet 0 s.corrected (u + 1)))).flatten) else bad) ∧
  (exec (.deviceQueryMachineChecks p a) s = if a.toNat ≤ 255 then ok (leBytes 4 (s.mcNext - s.mclog.length) ++ leBytes 4 s.mclog.length ++
    (((s.mclog.drop a.toNat).take 63).map McRec.bytes).flatten) else bad) ∧
  (exec (.deviceQueryMalformedEntries p a) s = if a.toNat ≤ 255 then ok (leBytes 4 s.malformed.length ++ [0, 0, 0, 0] ++
    (((s.malformed.drop a.toNat).take 126).map (fun r => leBytes 2 r.ctx ++ leBytes 2 r.level ++ [0, 0, 0, 0] ++ leBytes 8 r.va)).flatten) else bad) ∧
  (exec (.deviceQueryWear p a) s = if a.toNat ≤ 3 then ok (leBytes 4 124 ++ ((List.range 124).map (fun i => leBytes 2 i ++
    [if i < 80 then 0 else if i < 112 then 1 else if i < 116 then 2 else 3] ++ leBytes 1 (if i < 80 then (s.core (a.toNat * 80 + i)).cap else 0) ++
    leBytes 4 (tblGet 0xFFFFFFFF s.wear (a.toNat * 124 + i)).toNat)).flatten) else bad) ∧
  (exec (.deviceQueryRepairState p a) s = if busBad a false = true then bad else ok ((s.home (a.toNat % 16)).repairBytes (a.toNat / 2 ^ 8 % 64))) ∧
  (exec (.deviceQueryEvents p a) s = if a.toNat ≤ 255 then ok (leBytes 4 s.evlog.length ++ leBytes 4 s.evLost ++ (((s.evlog.drop a.toNat).take 84).map EvRec.bytes).flatten) else bad) ∧
  (exec (.faultQuery p a) s = if a.toNat < 64 then ok (((s.ctx a.toNat).faults.map FaultKept.all).flatten) else bad)

/-- R443-R445: an image is verified and measured; activation runs the verified image, never lowers the fused minimum and clears the pages, taking the commands that came meanwhile; the attestation report signs the identity, the measurement
and the nonce. -/
def Sys2Proof.Claims.ImagesAndIdentity : Prop := ∀ (s : State) (p : BitVec 6), (s.kick p).latched = none →
  (p ≠ 0 → ∀ (a b c : Long) (n : BitVec 256), exec (.imageVerify p a b c) s = .next (answered s p 6 []) ∧ exec (.imageActivate p) s = .next (answered s p 6 []) ∧
    exec (.attestationReport p n) s = .next (answered s p 6 []) ∧ exec (.identityPublicKey p) s = .next (answered s p 6 [])) ∧
  (p = 0 → (∀ image len sig : Long, len.toNat ≤ 2 ^ 24 → deviceRange image.toNat len.toNat = true → deviceRange sig.toNat 1280 = true →
      let b := memBytes s.mem image.toNat len.toNat
      let m := Config.shake256 b
      let v := Config.imageSecurityVersion b
      exec (.imageVerify p image len sig) s = .next (
        if Config.falconVerify m (memBytes s.mem sig.toNat 1280) = true ∧ s.fusedMin.toNat ≤ v.toNat then
          answered { s with fw := { s.fw with verified := some (m, v, Config.imageVersion b) } } p 0 (leBytes 64 m.toNat ++ leBytes 4 v.toNat)
        else answered s p 8 [])) ∧
    (s.fw.verified = none → exec (.imageActivate p) s = .next (answered s p 4 [])) ∧
    (∀ im, s.fw.verified = some im → (∀ c ∈ s.ctxs, c.2.st ≠ 1) → ∃ t, exec (.imageActivate p) s = .next t ∧ t.mem = s.mem ∧ t.image = im ∧ t.fw.verified = none ∧
      s.fusedMin.toNat ≤ t.fusedMin.toNat ∧ im.2.1.toNat ≤ t.fusedMin.toNat ∧ (t.fusedMin = im.2.1 ∨ t.fusedMin = s.fusedMin) ∧
      ((∀ k ∈ s.kicks, k.2.latched = none) → t.kicks = []) ∧
      ∀ (q : BitVec 6) (k : Kick) (v : Nat), tblSorted s.kicks = true → (∀ x ∈ s.kicks, x.1 < 64) → tblFind s.kicks q.toNat = some k → k.latched = some v → v = (k.seq + 1) % 2 ^ 64 →
        (t.kick q).running = true ∧ (t.kick q).seq = v ∧ (t.kick q).code0 = k.code) ∧
    (s.fw.verified ≠ none → (∃ c ∈ s.ctxs, c.2.st = 1) → exec (.imageActivate p) s = .next (answered s p 4 [])) ∧
    (∀ n : BitVec 256,
      let r := leBytes 4 1 ++ leBytes 4 s.image.2.1.toNat ++ leBytes 8 s.image.2.2.toNat ++ [0x43, 0x4C, 0x39, 0x2D, 0x33, 0x32, 0x30, 0x2D, 0x37, 0x36, 0x38] ++
        List.replicate 5 0 ++ leBytes 16 Config.serialNumber.toNat ++ leBytes 64 s.image.1.toNat ++ leBytes 32 n.toNat ++ leBytes 8 s.tick ++ List.replicate 8 0
      exec (.attestationReport p n) s = .next (answered s p 0 (r ++ leBytes 1280 (Config.falconSign r).toNat))) ∧
    exec (.identityPublicKey p) s = .next (answered s p 0 (leBytes 1793 Config.identityKey.toNat)))

namespace Sys2Proof.Claims

/-- The instructions and events that write memory or host memory. -/
def WritesMemory (i : Instr) : Prop := (∃ id, i = .storePerformedAtHome id) ∨ (∃ h f, i = .pub h f) ∨ (∃ id, i = .launchAccept id) ∨ (∃ l, i = .launchStart l) ∨
  (∃ l, i = .launchComplete l) ∨ (∃ c, i = .contextResetComplete c) ∨
  (∃ p t v n, i = .preciseStop p t v n) ∨ (∃ c, i = .sampleTick c) ∨ (∃ p c k e z b, i = .traceArm p c k e z b) ∨ (∃ p c, i = .queryTraceBytes p c) ∨
  (∃ p c, i = .querySampleCounts p c) ∨ (∃ p c, i = .queryProgressCounters p c) ∨ (∃ p c, i = .queryTrialCounters p c) ∨ (∃ p c, i = .queryEnergyAccounts p c) ∨ (∃ p r, i = .samplerArm p r) ∨
  (∃ p c h r, i = .layoutWrite p c h r) ∨ (∃ p c h, i = .layoutInvalidate p c h) ∨ (∃ w, i = .workgroupPark w) ∨
  (∃ p c v, i = .rootLaunch p c v) ∨ (∃ p c v l e, i = .mapCmd p c v l e) ∨ (∃ p c v n, i = .handoverToDevice p c v n) ∨ (∃ p c v n, i = .handoverToHost p c v n) ∨
  (∃ l w a n d, i = .hostApertureAccess l w a n d) ∨ i = .timeBaseTick ∨ (∃ p c w v n o k, i = .windowBind p c w v n o k) ∨ (∃ p, i = .commandTimeout p) ∨ i = .deviceReset

/-- The slot at the position of an issue k, in a line of the code that passes its checks (R34-R36, R39) and holds no uncorrectable codeword (R350): the issue is the first item of the agenda. -/
structure Fetches (s : State) (k : Issue) (r : List Act) (b : List Byte) : Prop where
  agenda : s.agenda = .issue k :: r
  group : s.hasGroup k.core k.slot = true
  line : s.lineCheck (s.launchOfWg (s.wgOf k.core k.slot)) k.pos = .ok b
  aligned : k.pos.toNat / 8 % 8 = 0 ∧ k.pos.toNat % 8 ≤ 4
  parity : slotParityOk (lineWord b) (k.pos.toNat % 8) (lineSlot b (k.pos.toNat % 8)) = true
  sound : State.badLine { s with agenda := r, cur := k } k.pos = none
  entry : (∀ l ∈ lanesOf k.lanes, (s.thread k.core k.slot l).entering = false) ∨ (lineEntry (lineWord b)).getLsbD (k.pos.toNat % 8) = true

/-- R36: the state after a line and its slot have passed: the core keeps no refetched copy of it for them, and the threads no longer enter. -/
def fetched (s : State) (k : Issue) (r : List Act) : State :=
  (State.lineGood { s with agenda := r, cur := k } (k.pos.toNat / 64 * 64) (k.pos.toNat % 8)).modLanes k.core k.slot k.lanes (fun _ t => { t with entering := false })

end Sys2Proof.Claims

/-- Tables 02-4 to 02-11: what is encoded decodes to what it was: every program instruction, with every value of every field. -/
def Obligations.DecodeOfEncode : Prop := ∀ i : Instr, Laws.RoundTrip.Statement i

/-- R69, Tables 02-4 to 02-11: every word that decodes is the encoding of what it decodes to, so no bit of it is dropped and no two words stand for one instruction. -/
def Obligations.EncodeOfDecode : Prop := ∀ (w : Slot) (i : Instr), decode w = .ok i → encode i = some w

/-- Chapters 01 to 10: words of the spec's examples, and what they stand for. -/
def Obligations.WordsOfTheExamples : Prop :=
  decode 0x80000E00000FF00000000000 = .ok (.nop ⟨0, 0, 7, 0, 0⟩ ⟨0, 0x1FE, 0, 0⟩) ∧
  decode 0xE0002E000060200000000000 = .ok (.rdsr ⟨1, 0, 7, 0, 0⟩ ⟨6, 4, 0, 0⟩) ∧
  decode 0x05006E000500404039600000 = .ok (.lop3 ⟨3, 0, 7, 0, 0⟩ ⟨10, 1, 2, 3, 9, 3, 0, 0, 0⟩) ∧
  decode 0x20C06E000482417FE8000000 = .ok (.fmul ⟨3, 0, 7, 0, 0⟩ ⟨9, 9, 11, 0x1FE, 8, 0, 0, 0, 0⟩) ∧
  decode 0x81000E000190FFFFFFFE0000 = .ok (.brnz ⟨0, 0, 7, 0, 0⟩ ⟨3, 1, 0, 0xFFFFFFFE, 0⟩) ∧
  decode 0x60C006010300820120800100 = .ok (.ldB ⟨0, 0, 3, 0, 1⟩ ⟨6, 2, 0, 2, 0, 0, 2, 16, 1, 256⟩) ∧
  decode 0xA1000E010502817FE001000E = .ok (.xchg ⟨0, 0, 7, 0, 1⟩ ⟨10, 10, 11, 0x1FE, 16, 14⟩) ∧
  decode 0xC48002100000107FBFC00000 = .ok (.mma ⟨0, 0, 1, 2, 0⟩ ⟨0, 32, 0x1FE, 0x1FE, 0⟩)

/-- R193: every step keeps memory and host memory in their canonical form. -/
def Obligations.EveryStepKeepsTheInvariant : Prop := ∀ s t : State, Inv s → step s = .next t → Inv t

/-- R193: the invariant holds at reset. -/
def Obligations.TheInvariantHoldsAtReset : Prop := Inv State.reset

/-- R203-R205, R174, R229, R377, R397: only these instructions and events change memory or host memory: a store changes memory when it is performed at its home, not when it issues. -/
def Obligations.OnlyTheseChangeMemory : Prop := ∀ (i : Instr) (s t : State), ¬ WritesMemory i → exec i s = .next t → t.mem = s.mem ∧ t.hostMem = s.hostMem

/-- R33-R39, R72-R74, Table 04-13: a step whose issue stands at a good line executes the instruction its slot decodes to; an event that is next happens, and an instruction that waited goes on. -/
def Obligations.AStepRunsTheDecodedInstruction : Prop :=
  (∀ (s : State) (k : Issue) (r : List Act) (b : List Byte) (i : Instr), Fetches s k r b →
    let w := lineSlot b (k.pos.toNat % 8)
    decode w = .ok i → issueClass (slotOp w) = some (lineClass (lineWord b) (k.pos.toNat % 8)) → i.wf (s.group k.core k.slot).n = true →
    (privileged i = false ∨ (s.ctx (s.ctxOfWg (s.wgOf k.core k.slot))).priv = true) →
    step s = exec i ((fetched s k r).keepHistory k.core k.slot)) ∧
  (∀ (s : State) (i : Instr) (r : List Act), s.agenda = .event i :: r → step s = exec i { s with agenda := r }) ∧
  (∀ (s : State) (k : Issue) (i : Instr) (r : List Act), s.agenda = .resume k i :: r → step s = exec i (State.keepHistory { s with agenda := r, cur := k } k.core k.slot))

/-- R34, R72-R74, Table 04-13: a slot at a good line stops its group, in this order: an opcode that is not assigned is ILLEGAL 0x01, one of another template class LINE_FORMAT 0x03, a word that does not
decode or breaks a rule of its encoding ILLEGAL 0x01, and a privileged instruction in a context without the privilege PRIV 0x02. -/
def Obligations.FetchFaults : Prop := ∀ (s : State) (k : Issue) (r : List Act) (b : List Byte), Fetches s k r b →
  let w := lineSlot b (k.pos.toNat % 8)
  let c := lineClass (lineWord b) (k.pos.toNat % 8)
  let g := s.group k.core k.slot
  let stops (code : Nat) (tv : Long) : Prop := ∃ t, step s = .next t ∧ t.mem = s.mem ∧ (t.group k.core k.slot).stopped = true ∧
    (∀ l, l < g.threads.length → k.lanes.getLsbD l = true → (t.thread k.core k.slot l).pos = (s.thread k.core k.slot l).pos ∧
      (t.thread k.core k.slot l).tcause = BitVec.ofNat 32 code ∧ (t.thread k.core k.slot l).tpc = k.pos ∧ (t.thread k.core k.slot l).tvalue = tv) ∧
    ((s.wg (s.wgOf k.core k.slot)).halt = none → ∃ x, (t.wg (s.wgOf k.core k.slot)).halt = some x ∧ x.code = code ∧ x.kind = 0 ∧ x.pos = k.pos ∧ x.tvalue = tv)
  (k.phase = 0 →
    (issueClass (slotOp w) = none → stops 0x01 ((Slot.field w 64 32).setWidth 64)) ∧
    (∀ n, issueClass (slotOp w) = some n → n ≠ c → stops 0x03 ((lineWord b).setWidth 64)) ∧
    (issueClass (slotOp w) = some c →
      ((∀ i, decode w ≠ .ok i) → stops 0x01 ((Slot.field w 64 32).setWidth 64)) ∧
      ∀ i, decode w = .ok i → (i.wf g.n = false → stops 0x01 ((Slot.field w 64 32).setWidth 64)) ∧
        (i.wf g.n = true → privileged i = true → (s.ctx (s.ctxOfWg (s.wgOf k.core k.slot))).priv = false → stops 0x02 ((Slot.field w 64 32).setWidth 64))))

/-- R20, R38, R42, R50, R133, R392: the issue of a fixed-latency instruction changes no register, predicate or flag of any thread and no byte of memory: its threads go on at the sequential successor, its token
rises, and its result is due its latency later. -/
def Obligations.IssueFrame : Prop := ∀ (s : State) (h : Hdr) (lat : Nat) (p : Pend), First s → p.core = s.cur.core →
  let t := issued s h lat p
  Passed s t h ∧ TokenUp s t h ∧ tblFind t.pends s.fresh = some { p with due := (s.core s.cur.core).cycles + lat } ∧
  ⟨s.cur.core + 1, (s.core s.cur.core).cycles + lat, .fixedLatencyWrite s.fresh⟩ ∈ t.timers ∧
  t.ctxs = s.ctxs ∧ t.homes = s.homes ∧ t.dies = s.dies ∧ t.launches = s.launches ∧ t.msgs = s.msgs ∧ t.tick = s.tick

/-- R422, R181, R420, R421, R437: after reset the time base is 0, no context is started, no kick page holds a command, every VBREP is 0, the remap table maps each logical bank group to itself with groups 32 and 33 in
reserve, and every core is at point 0; the values no rule gives (memory and host memory list nothing) are the model's choice (assumption log 1, 2). -/
def Obligations.ResetState : Prop := let s := State.reset
  s.tick = 0 ∧ s.mem = [] ∧ s.hostMem = [] ∧ s.agenda = [] ∧ s.groups = [] ∧ s.launches = [] ∧ s.mclog = [] ∧ s.thermalHold = false ∧
  (∀ c, (s.ctx c).st = 0 ∧ (s.core c).point = 0 ∧ (s.core c).cap = 0) ∧ (∀ p, (s.kick p).running = false ∧ (s.kick p).seq = 0) ∧
  ∀ n, (∀ b g, (s.home n).vb b g = 0) ∧ (∀ l, l < 32 → (s.home n).remapEntry l = BitVec.ofNat 32 l ∧ (s.home n).bgState l = 0) ∧ (s.home n).bgState 32 = 1 ∧
    (s.home n).bgState 33 = 1 ∧ (s.home n).mig = none ∧ (s.home n).quiesce = []

/-- R18, R20, R50, R51, R231, R335, R350: results under way. -/
def Obligations.ResultsArrive : Prop := Sys2Proof.Claims.ResultsAreWritten ∧ Sys2Proof.Claims.LoadFaults

/-- R99, R100, R103: the integer instructions that add, subtract and compare, and those on pairs. -/
def Obligations.IntegerArithmetic : Prop := Sys2Proof.Claims.AddAndSubtract ∧ Sys2Proof.Claims.CarryChain ∧ Sys2Proof.Claims.MinMaxAbsNeg ∧ Sys2Proof.Claims.PairArithmetic

/-- R101, R102: the multiply instructions. -/
def Obligations.Multiplication : Prop := Sys2Proof.Claims.Multiply ∧ Sys2Proof.Claims.MultiplyAdd

/-- R104-R109: the instructions on bits. -/
def Obligations.LogicShiftsAndFields : Prop := Sys2Proof.Claims.BitwiseLogic ∧ Sys2Proof.Claims.Shifts ∧ Sys2Proof.Claims.BitFields

/-- R110, R153: comparisons and predicates. -/
def Obligations.ComparisonsAndPredicates : Prop := Sys2Proof.Claims.Compare ∧ Sys2Proof.Claims.Predicates

/-- R81, R115-R125, R50: the float and convert instructions; where a special function may answer any value within its bound, the value is the free one of log entry 6. -/
def Obligations.FloatInstructions : Prop := Sys2Proof.Claims.SinglePrecisionIssue ∧ Sys2Proof.Claims.OtherPrecisionsAndConvertIssue ∧ Sys2Proof.Claims.SpecialFunctionIssue ∧ Sys2Proof.Claims.NaNPropagation

/-- R87, R342-R346, R151, R152, R386: what a user trap saves and where it goes, and the return. -/
def Obligations.UserTraps : Prop := Sys2Proof.Claims.FloatTrapEntry ∧ Sys2Proof.Claims.UserTrapEntryAndReturn

/-- R143-R145, R22, R46: control transfers. -/
def Obligations.BranchesAndCalls : Prop := Sys2Proof.Claims.Branches ∧ Sys2Proof.Claims.CallsAndReturn

/-- R146, R147, R386, R387, R409, R410: the control and system instructions without a target. -/
def Obligations.NopExitYieldAndMarks : Prop := Sys2Proof.Claims.NopExitYield ∧ Sys2Proof.Claims.ProgressMarksAndResume

/-- R154-R169: the group-wide instructions. -/
def Obligations.GroupWideInstructions : Prop := Sys2Proof.Claims.ElectVoteAndBallot ∧ Sys2Proof.Claims.GroupMatches ∧ Sys2Proof.Claims.ShuffleAndExchange ∧ Sys2Proof.Claims.Reductions

/-- R217, R231, R334, R347: the checks of an access. -/
def Obligations.ChecksOfMemoryAccesses : Prop := Sys2Proof.Claims.MemoryChecks ∧ Sys2Proof.Claims.MemoryFaults

/-- R219-R224, R230, R238: accesses of the g space; no byte of memory changes at issue. -/
def Obligations.GlobalAccesses : Prop := Sys2Proof.Claims.LoadsIssue ∧ Sys2Proof.Claims.StoresIssue ∧ Sys2Proof.Claims.AtomicsIssue

/-- R188-R192, R219, R220: accesses of the other spaces. -/
def Obligations.ScratchpadAccesses : Prop := Sys2Proof.Claims.SpaceLoads ∧ Sys2Proof.Claims.SpaceStores

/-- R142, R150, R225, R252: the fences and waitt complete. -/
def Obligations.FencesAndTokenWaitsComplete : Prop := Sys2Proof.Claims.FencesComplete ∧ Sys2Proof.Claims.TokenWait

/-- R226-R228, R260, R263. -/
def Obligations.CacheAndRoundInstructions : Prop := Sys2Proof.Claims.CacheOperations ∧ Sys2Proof.Claims.RoundInstructions

/-- R274-R287: the sideboard of a home. -/
def Obligations.LeasesSlotsAndHomeOperations : Prop := Sys2Proof.Claims.LeasesAndSlots ∧ Sys2Proof.Claims.HomeOperationsAndCrossings

/-- R305, R308, R309: rings and buffer slots. -/
def Obligations.RingsAndBuffers : Prop := Sys2Proof.Claims.StagingRings ∧ Sys2Proof.Claims.BufferSlots

/-- R317-R329: the matrix engine. -/
def Obligations.MatrixOperations : Prop := Sys2Proof.Claims.MatrixInstructions ∧ Sys2Proof.Claims.MatrixEngine

/-- R173-R182: the life of a launch. -/
def Obligations.LaunchesAndPlacement : Prop := Sys2Proof.Claims.LaunchLifeCycle ∧ Sys2Proof.Claims.PlacementAndCompletion

/-- R336-R340, R347: what follows a fault. -/
def Obligations.HaltsAndPageFaults : Prop := Sys2Proof.Claims.HaltingAndSettling ∧ Sys2Proof.Claims.PageFaults

/-- R36, R126-R140: issue and residency. -/
def Obligations.IssueAndResidency : Prop := Sys2Proof.Claims.IssueCycle ∧ Sys2Proof.Claims.RefetchLowerAndRaise

/-- R10, R181, R399-R408, R437. -/
def Obligations.TimeTraceAndSampling : Prop := Sys2Proof.Claims.TimeBase ∧ Sys2Proof.Claims.TracePackets ∧ Sys2Proof.Claims.Sampling ∧ Sys2Proof.Claims.TrialEnd

/-- R422-R431: the memory stacks; what a test finds is free (log entry 4). -/
def Obligations.StacksAndErrors : Prop := Sys2Proof.Claims.TestsAndRepairs ∧ Sys2Proof.Claims.DoubleErrors ∧ Sys2Proof.Claims.BankMigration

/-- R437-R442. -/
def Obligations.PowerTemperatureAndWear : Prop := Sys2Proof.Claims.OperatingPoints ∧ Sys2Proof.Claims.TemperatureAndWear

/-- R32, R381-R396. -/
def Obligations.DebugAndReplay : Prop := Sys2Proof.Claims.DebugCommands ∧ Sys2Proof.Claims.CheckpointsAndPreciseStops

/-- R375, R376, R443-R445. -/
def Obligations.QueriesImagesAndIdentity : Prop := Sys2Proof.Claims.DeviceQueries ∧ Sys2Proof.Claims.ImagesAndIdentity
end

