-- ==== Sys2Proof/Laws/Integer.lean ====
section
/-! SUPPORT. What the integer reader and writer of Table 04-1 are on the 32- and 64-bit types, in terms of bit vectors. -/

namespace Sys2Proof.Machine

theorem readInt_n32 (x : Long) : readInt 1 x.toNat = ((x.setWidth 32).toNat : Int) := by
  simp [readInt, intSigned, intWidth]

theorem readInt_i32 (x : Long) : readInt 0 x.toNat = (x.setWidth 32).toInt := by
  simp only [readInt, intSigned, intWidth, sext, BitVec.toInt_eq_toNat_cond, BitVec.toNat_setWidth]
  norm_num
  split <;> split <;> omega

theorem readInt_n64 (x : Long) : readInt 3 x.toNat = (x.toNat : Int) := by
  simp only [readInt, intSigned, intWidth]
  norm_num
  have := x.isLt
  omega

theorem readInt_i64 (x : Long) : readInt 2 x.toNat = x.toInt := by
  simp only [readInt, intSigned, intWidth, sext, BitVec.toInt_eq_toNat_cond]
  norm_num
  have := x.isLt
  split <;> split <;> omega

theorem writeInt_n32 (v : Int) : writeInt 1 v = (BitVec.ofInt 32 v).toNat := by
  simp only [writeInt, intSigned, intWidth, BitVec.toNat_ofInt]
  norm_num

theorem writeInt_i32 (v : Int) : writeInt 0 v = (BitVec.ofInt 32 v).toNat := by
  simp only [writeInt, intSigned, intWidth, BitVec.toNat_ofInt, sext]
  norm_num
  split <;> omega

theorem writeInt_n64 (v : Int) : writeInt 3 v = (BitVec.ofInt 64 v).toNat := by
  simp only [writeInt, intSigned, intWidth, BitVec.toNat_ofInt]
  norm_num

theorem writeInt_i64 (v : Int) : writeInt 2 v = (BitVec.ofInt 64 v).toNat := by
  simp only [writeInt, intSigned, intWidth, BitVec.toNat_ofInt, sext]
  norm_num
  split <;> omega

end Sys2Proof.Machine
end

