-- ==== Sys2Proof/Laws/Memory.lean ====
section
/-! SUPPORT. Tables and memory: reading after writing, and that every memory operation keeps the canonical form (R12, R193). -/

namespace Sys2Proof.Machine

variable {α : Type}

/-! ### Tables -/

theorem tblFind_tblPut_self (t : Tbl α) (k : Nat) (x : α) : tblFind (tblPut t k x) k = some x := by
  induction t with
  | nil => simp [tblPut, tblFind]
  | cons p r ih =>
    obtain ⟨j, y⟩ := p
    simp only [tblPut]
    split
    · simp [tblFind]
    · split
      · simp [tblFind]
      · rename_i h
        simp [tblFind, h, ih]

theorem tblFind_tblPut_other (t : Tbl α) {k i : Nat} (x : α) (h : i ≠ k) : tblFind (tblPut t k x) i = tblFind t i := by
  induction t with
  | nil => simp [tblPut, tblFind, h.symm]
  | cons p r ih =>
    obtain ⟨j, y⟩ := p
    simp only [tblPut]
    split
    · simp [tblFind, h.symm]
    · split
      · rename_i e
        subst e
        simp [tblFind, h.symm]
      · simp [tblFind, ih]

theorem tblGet_tblPut_self (d : α) (t : Tbl α) (k : Nat) (x : α) : tblGet d (tblPut t k x) k = x := by
  simp [tblGet, tblFind_tblPut_self]

theorem tblGet_tblPut_other (d : α) (t : Tbl α) {k i : Nat} (x : α) (h : i ≠ k) : tblGet d (tblPut t k x) i = tblGet d t i := by
  simp [tblGet, tblFind_tblPut_other t x h]

theorem tblFind_tblDel_self (t : Tbl α) (k : Nat) : tblFind (tblDel t k) k = none := by
  induction t with
  | nil => rfl
  | cons p r ih =>
    obtain ⟨j, y⟩ := p
    by_cases h : j = k
    · simpa [tblDel, h] using ih
    · simpa [tblDel, tblFind, h] using ih

theorem tblFind_tblDel_other (t : Tbl α) {k i : Nat} (h : i ≠ k) : tblFind (tblDel t k) i = tblFind t i := by
  induction t with
  | nil => rfl
  | cons p r ih =>
    obtain ⟨j, y⟩ := p
    by_cases e : j = k
    · simpa [tblDel, tblFind, e, h.symm] using ih
    · simp only [tblDel, ne_eq, e, not_false_eq_true, decide_true, List.filter_cons_of_pos, tblFind] at ih ⊢
      rw [ih]

theorem tblSorted_tail {p : Nat × α} {r : Tbl α} (h : tblSorted (p :: r) = true) : tblSorted r = true := by
  cases r with
  | nil => rfl
  | cons q r' =>
    obtain ⟨j, y⟩ := p
    obtain ⟨j', y'⟩ := q
    simp only [tblSorted, Bool.and_eq_true] at h
    exact h.2

theorem tblSorted_cons {j : Nat} {y : α} {r : Tbl α} :
    tblSorted ((j, y) :: r) = true ↔ tblSorted r = true ∧ ∀ k x, r.head? = some (k, x) → j < k := by
  cases r with
  | nil => simp [tblSorted]
  | cons q r' =>
    obtain ⟨j', y'⟩ := q
    simp only [tblSorted, Bool.and_eq_true, decide_eq_true_eq, List.head?_cons, Option.some.injEq, Prod.mk.injEq, and_imp]
    constructor
    · rintro ⟨h1, h2⟩
      exact ⟨h2, fun k x e _ => e ▸ h1⟩
    · rintro ⟨h1, h2⟩
      exact ⟨h2 j' y' rfl rfl, h1⟩

theorem tblGet_tblSet_self [DecidableEq α] (d : α) (t : Tbl α) (k : Nat) (x : α) : tblGet d (tblSet d t k x) k = x := by
  by_cases h : x = d
  · simp [tblSet, h, tblGet, tblFind_tblDel_self]
  · simp [tblSet, h, tblGet_tblPut_self]

theorem tblGet_tblSet_other [DecidableEq α] (d : α) (t : Tbl α) {k i : Nat} (x : α) (h : i ≠ k) :
    tblGet d (tblSet d t k x) i = tblGet d t i := by
  by_cases e : x = d
  · simp [tblSet, e, tblGet, tblFind_tblDel_other t h]
  · simp [tblSet, e, tblGet_tblPut_other d t x h]

/-- Every key of a sorted table lies above the key in front of it. -/
theorem tblSorted_below {j : Nat} {y : α} {r : Tbl α} (h : tblSorted ((j, y) :: r) = true) : ∀ p ∈ r, j < p.1 := by
  induction r generalizing j y with
  | nil => simp
  | cons q r' ih =>
    obtain ⟨a, z⟩ := q
    have ha : j < a := (tblSorted_cons.1 h).2 a z rfl
    intro p hp
    rcases List.mem_cons.1 hp with rfl | hp
    · exact ha
    · exact ha.trans (ih (tblSorted_tail h) p hp)

theorem tblSorted_tblDel (t : Tbl α) (k : Nat) (hs : tblSorted t = true) : tblSorted (tblDel t k) = true := by
  induction t with
  | nil => rfl
  | cons p r ih =>
    obtain ⟨j, y⟩ := p
    have ihr := ih (tblSorted_tail hs)
    by_cases h : j = k
    · simpa [tblDel, h] using ihr
    · have e : tblDel ((j, y) :: r) k = (j, y) :: tblDel r k := by simp [tblDel, h]
      rw [e]
      refine tblSorted_cons.2 ⟨ihr, fun a b hab => ?_⟩
      have : (a, b) ∈ tblDel r k := List.mem_of_mem_head? hab
      exact tblSorted_below hs (a, b) (List.mem_of_mem_filter this)

theorem tblPut_head (t : Tbl α) (k : Nat) (x : α) {j : Nat} {y : α} (h : (tblPut t k x).head? = some (j, y)) (b : Nat) (hb : b < k)
    (ht : ∀ a z, t.head? = some (a, z) → b < a) : b < j := by
  cases t with
  | nil =>
    simp only [tblPut, List.head?_cons, Option.some.injEq, Prod.mk.injEq] at h
    omega
  | cons p r =>
    obtain ⟨a, z⟩ := p
    have ha := ht a z rfl
    simp only [tblPut] at h
    split at h
    · simp at h
      omega
    · split at h <;> simp at h <;> omega

theorem tblSorted_tblPut (t : Tbl α) (k : Nat) (x : α) (hs : tblSorted t = true) : tblSorted (tblPut t k x) = true := by
  induction t with
  | nil => rfl
  | cons p r ih =>
    obtain ⟨j, y⟩ := p
    have hr := tblSorted_tail hs
    simp only [tblPut]
    split
    · exact tblSorted_cons.2 ⟨hs, fun a b e => by simp at e; omega⟩
    · split
      · rename_i e
        subst e
        exact tblSorted_cons.2 ⟨hr, (tblSorted_cons.1 hs).2⟩
      · exact tblSorted_cons.2 ⟨ih hr, fun a b e => tblPut_head r k x e j (by omega) (tblSorted_cons.1 hs).2⟩

theorem tblSorted_tblSet [DecidableEq α] (d : α) (t : Tbl α) (k : Nat) (x : α) (hs : tblSorted t = true) :
    tblSorted (tblSet d t k x) = true := by
  unfold tblSet
  split
  · exact tblSorted_tblDel t k hs
  · exact tblSorted_tblPut t k x hs

theorem mem_tblPut {t : Tbl α} {k : Nat} {x : α} {p : Nat × α} (h : p ∈ tblPut t k x) : p = (k, x) ∨ p ∈ t := by
  induction t with
  | nil => simpa [tblPut] using h
  | cons q r ih =>
    obtain ⟨j, y⟩ := q
    simp only [tblPut] at h
    split at h
    · simpa using h
    · split at h
      · rcases List.mem_cons.1 h with h | h
        · exact .inl h
        · exact .inr (List.mem_cons_of_mem _ h)
      · rcases List.mem_cons.1 h with h | h
        · exact .inr (h ▸ List.mem_cons_self)
        · exact (ih h).imp_right (List.mem_cons_of_mem _)

theorem tblSet_all [DecidableEq α] (d : α) (t : Tbl α) (k : Nat) (x : α) (h : t.all (fun c => c.2 ≠ d) = true) :
    (tblSet d t k x).all (fun c => c.2 ≠ d) = true := by
  rw [List.all_eq_true] at h ⊢
  intro p hp
  unfold tblSet at hp
  split at hp
  · exact h p (List.mem_of_mem_filter hp)
  · rename_i e
    rcases mem_tblPut hp with rfl | hp
    · simpa using e
    · exact h p hp

/-! ### Memory -/

theorem memSet_wf (m : List Host.Cell) (a : Nat) (v : Byte) (h : Memory.wf m = true) : Memory.wf (memSet m a v) = true := by
  simp only [Memory.wf, Bool.and_eq_true] at h ⊢
  exact ⟨tblSorted_tblSet _ _ _ _ h.1, tblSet_all _ _ _ _ h.2⟩

theorem memSetAll_wf (l : List (Nat × Byte)) (m : List Host.Cell) (h : Memory.wf m = true) : Memory.wf (memSetAll m l) = true := by
  induction l generalizing m with
  | nil => exact h
  | cons p r ih => exact ih _ (memSet_wf m p.1 p.2 h)

theorem memGet_memSet_self (m : List Host.Cell) (a : Nat) (v : Byte) : memGet (memSet m a v) a = v :=
  tblGet_tblSet_self _ _ _ _

theorem memGet_memSet_other (m : List Host.Cell) {a b : Nat} (v : Byte) (h : b ≠ a) : memGet (memSet m a v) b = memGet m b :=
  tblGet_tblSet_other _ _ _ h

theorem memGet_memSetAll_other (l : List (Nat × Byte)) (m : List Host.Cell) {b : Nat} (h : ∀ p ∈ l, p.1 ≠ b) :
    memGet (memSetAll m l) b = memGet m b := by
  induction l generalizing m with
  | nil => rfl
  | cons p r ih =>
    have hp : b ≠ p.1 := (h p (by simp)).symm
    have : memGet (memSetAll (memSet m p.1 p.2) r) b = memGet (memSet m p.1 p.2) b := ih _ (fun q hq => h q (by simp [hq]))
    exact this.trans (memGet_memSet_other m p.2 hp)

end Sys2Proof.Machine
end

