-- ==== Sys2Proof/Laws/State.lean ====
section
/-! SUPPORT. What each update of the state leaves alone, field by field, and what it changes; no later proof unfolds a record update. -/

namespace Sys2Proof.Machine

@[simp] theorem State.setCore_frame (s : State) (c : Nat) (k : Core) :
    (s.setCore c k).agenda = s.agenda ∧
    (s.setCore c k).timers = s.timers ∧
    (s.setCore c k).cur = s.cur ∧
    (s.setCore c k).fresh = s.fresh ∧
    (s.setCore c k).tick = s.tick ∧
    (s.setCore c k).mem = s.mem ∧
    (s.setCore c k).hostMem = s.hostMem ∧
    (s.setCore c k).groups = s.groups ∧
    (s.setCore c k).wgs = s.wgs ∧
    (s.setCore c k).launches = s.launches ∧
    (s.setCore c k).submits = s.submits ∧
    (s.setCore c k).bsets = s.bsets ∧
    (s.setCore c k).dies = s.dies ∧
    (s.setCore c k).homes = s.homes ∧
    (s.setCore c k).ctxs = s.ctxs ∧
    (s.setCore c k).pends = s.pends ∧
    (s.setCore c k).fills = s.fills ∧
    (s.setCore c k).msgs = s.msgs ∧
    (s.setCore c k).invals = s.invals ∧
    (s.setCore c k).homeOps = s.homeOps ∧
    (s.setCore c k).sent = s.sent ∧
    (s.setCore c k).settles = s.settles ∧
    (s.setCore c k).runList = s.runList ∧
    (s.setCore c k).kicks = s.kicks ∧
    (s.setCore c k).windows = s.windows ∧
    (s.setCore c k).msix = s.msix ∧
    (s.setCore c k).mclog = s.mclog ∧
    (s.setCore c k).mcNext = s.mcNext ∧
    (s.setCore c k).evlog = s.evlog ∧
    (s.setCore c k).evLost = s.evLost ∧
    (s.setCore c k).malformed = s.malformed ∧
    (s.setCore c k).corrected = s.corrected ∧
    (s.setCore c k).lowered = s.lowered ∧
    (s.setCore c k).powerNext = s.powerNext ∧
    (s.setCore c k).thermalHold = s.thermalHold ∧
    (s.setCore c k).thermalAt = s.thermalAt ∧
    (s.setCore c k).junction = s.junction ∧
    (s.setCore c k).uncore = s.uncore ∧
    (s.setCore c k).wear = s.wear ∧
    (s.setCore c k).idle = s.idle ∧
    (s.setCore c k).metered = s.metered ∧
    (s.setCore c k).spent = s.spent ∧
    (s.setCore c k).fw = s.fw ∧
    (s.setCore c k).bad = s.bad := ⟨rfl, rfl, rfl, rfl, rfl, rfl, rfl, rfl, rfl, rfl, rfl, rfl, rfl, rfl, rfl, rfl, rfl, rfl, rfl, rfl, rfl, rfl, rfl, rfl, rfl, rfl, rfl, rfl, rfl, rfl, rfl, rfl, rfl, rfl, rfl, rfl, rfl, rfl, rfl, rfl, rfl, rfl, rfl, rfl⟩

@[simp] theorem State.setCore_reads (s : State) (c : Nat) (k : Core) :
    (s.setCore c k).die = s.die ∧
    (s.setCore c k).home = s.home ∧
    (s.setCore c k).ctx = s.ctx ∧
    (s.setCore c k).wg = s.wg ∧
    (s.setCore c k).launch = s.launch := by
  refine ⟨?_, ?_, ?_, ?_, ?_⟩ <;> funext c <;> simp [State.die, State.home, State.ctx, State.wg, State.launch]

@[simp] theorem State.setCore_group (s : State) (c : Nat) (k : Core) : (s.setCore c k).group = s.group ∧ (s.setCore c k).hasGroup = s.hasGroup ∧ (s.setCore c k).thread = s.thread := by
  refine ⟨?_, ?_, ?_⟩
  · funext c q; simp [State.group]
  · funext c q; simp [State.hasGroup]
  · funext c q l; simp [State.thread, State.group]

@[simp] theorem State.modCore_frame (s : State) (c : Nat) (f : Core → Core) :
    (s.modCore c f).agenda = s.agenda ∧
    (s.modCore c f).timers = s.timers ∧
    (s.modCore c f).cur = s.cur ∧
    (s.modCore c f).fresh = s.fresh ∧
    (s.modCore c f).tick = s.tick ∧
    (s.modCore c f).mem = s.mem ∧
    (s.modCore c f).hostMem = s.hostMem ∧
    (s.modCore c f).groups = s.groups ∧
    (s.modCore c f).wgs = s.wgs ∧
    (s.modCore c f).launches = s.launches ∧
    (s.modCore c f).submits = s.submits ∧
    (s.modCore c f).bsets = s.bsets ∧
    (s.modCore c f).dies = s.dies ∧
    (s.modCore c f).homes = s.homes ∧
    (s.modCore c f).ctxs = s.ctxs ∧
    (s.modCore c f).pends = s.pends ∧
    (s.modCore c f).fills = s.fills ∧
    (s.modCore c f).msgs = s.msgs ∧
    (s.modCore c f).invals = s.invals ∧
    (s.modCore c f).homeOps = s.homeOps ∧
    (s.modCore c f).sent = s.sent ∧
    (s.modCore c f).settles = s.settles ∧
    (s.modCore c f).runList = s.runList ∧
    (s.modCore c f).kicks = s.kicks ∧
    (s.modCore c f).windows = s.windows ∧
    (s.modCore c f).msix = s.msix ∧
    (s.modCore c f).mclog = s.mclog ∧
    (s.modCore c f).mcNext = s.mcNext ∧
    (s.modCore c f).evlog = s.evlog ∧
    (s.modCore c f).evLost = s.evLost ∧
    (s.modCore c f).malformed = s.malformed ∧
    (s.modCore c f).corrected = s.corrected ∧
    (s.modCore c f).lowered = s.lowered ∧
    (s.modCore c f).powerNext = s.powerNext ∧
    (s.modCore c f).thermalHold = s.thermalHold ∧
    (s.modCore c f).thermalAt = s.thermalAt ∧
    (s.modCore c f).junction = s.junction ∧
    (s.modCore c f).uncore = s.uncore ∧
    (s.modCore c f).wear = s.wear ∧
    (s.modCore c f).idle = s.idle ∧
    (s.modCore c f).metered = s.metered ∧
    (s.modCore c f).spent = s.spent ∧
    (s.modCore c f).fw = s.fw ∧
    (s.modCore c f).bad = s.bad := ⟨rfl, rfl, rfl, rfl, rfl, rfl, rfl, rfl, rfl, rfl, rfl, rfl, rfl, rfl, rfl, rfl, rfl, rfl, rfl, rfl, rfl, rfl, rfl, rfl, rfl, rfl, rfl, rfl, rfl, rfl, rfl, rfl, rfl, rfl, rfl, rfl, rfl, rfl, rfl, rfl, rfl, rfl, rfl, rfl⟩

@[simp] theorem State.modCore_reads (s : State) (c : Nat) (f : Core → Core) :
    (s.modCore c f).die = s.die ∧
    (s.modCore c f).home = s.home ∧
    (s.modCore c f).ctx = s.ctx ∧
    (s.modCore c f).wg = s.wg ∧
    (s.modCore c f).launch = s.launch := by
  refine ⟨?_, ?_, ?_, ?_, ?_⟩ <;> funext c <;> simp [State.die, State.home, State.ctx, State.wg, State.launch]

@[simp] theorem State.modCore_group (s : State) (c : Nat) (f : Core → Core) : (s.modCore c f).group = s.group ∧ (s.modCore c f).hasGroup = s.hasGroup ∧ (s.modCore c f).thread = s.thread := by
  refine ⟨?_, ?_, ?_⟩
  · funext c q; simp [State.group]
  · funext c q; simp [State.hasGroup]
  · funext c q l; simp [State.thread, State.group]

@[simp] theorem State.modDie_frame (s : State) (d : Nat) (f : Die → Die) :
    (s.modDie d f).agenda = s.agenda ∧
    (s.modDie d f).timers = s.timers ∧
    (s.modDie d f).cur = s.cur ∧
    (s.modDie d f).fresh = s.fresh ∧
    (s.modDie d f).tick = s.tick ∧
    (s.modDie d f).mem = s.mem ∧
    (s.modDie d f).hostMem = s.hostMem ∧
    (s.modDie d f).cores = s.cores ∧
    (s.modDie d f).groups = s.groups ∧
    (s.modDie d f).wgs = s.wgs ∧
    (s.modDie d f).launches = s.launches ∧
    (s.modDie d f).submits = s.submits ∧
    (s.modDie d f).bsets = s.bsets ∧
    (s.modDie d f).homes = s.homes ∧
    (s.modDie d f).ctxs = s.ctxs ∧
    (s.modDie d f).pends = s.pends ∧
    (s.modDie d f).fills = s.fills ∧
    (s.modDie d f).msgs = s.msgs ∧
    (s.modDie d f).invals = s.invals ∧
    (s.modDie d f).homeOps = s.homeOps ∧
    (s.modDie d f).sent = s.sent ∧
    (s.modDie d f).settles = s.settles ∧
    (s.modDie d f).runList = s.runList ∧
    (s.modDie d f).kicks = s.kicks ∧
    (s.modDie d f).windows = s.windows ∧
    (s.modDie d f).msix = s.msix ∧
    (s.modDie d f).mclog = s.mclog ∧
    (s.modDie d f).mcNext = s.mcNext ∧
    (s.modDie d f).evlog = s.evlog ∧
    (s.modDie d f).evLost = s.evLost ∧
    (s.modDie d f).malformed = s.malformed ∧
    (s.modDie d f).corrected = s.corrected ∧
    (s.modDie d f).lowered = s.lowered ∧
    (s.modDie d f).powerNext = s.powerNext ∧
    (s.modDie d f).thermalHold = s.thermalHold ∧
    (s.modDie d f).thermalAt = s.thermalAt ∧
    (s.modDie d f).junction = s.junction ∧
    (s.modDie d f).uncore = s.uncore ∧
    (s.modDie d f).wear = s.wear ∧
    (s.modDie d f).idle = s.idle ∧
    (s.modDie d f).metered = s.metered ∧
    (s.modDie d f).spent = s.spent ∧
    (s.modDie d f).fw = s.fw ∧
    (s.modDie d f).bad = s.bad := ⟨rfl, rfl, rfl, rfl, rfl, rfl, rfl, rfl, rfl, rfl, rfl, rfl, rfl, rfl, rfl, rfl, rfl, rfl, rfl, rfl, rfl, rfl, rfl, rfl, rfl, rfl, rfl, rfl, rfl, rfl, rfl, rfl, rfl, rfl, rfl, rfl, rfl, rfl, rfl, rfl, rfl, rfl, rfl, rfl⟩

@[simp] theorem State.modDie_reads (s : State) (d : Nat) (f : Die → Die) :
    (s.modDie d f).core = s.core ∧
    (s.modDie d f).home = s.home ∧
    (s.modDie d f).ctx = s.ctx ∧
    (s.modDie d f).wg = s.wg ∧
    (s.modDie d f).launch = s.launch := by
  refine ⟨?_, ?_, ?_, ?_, ?_⟩ <;> funext c <;> simp [State.core, State.home, State.ctx, State.wg, State.launch]

@[simp] theorem State.modDie_group (s : State) (d : Nat) (f : Die → Die) : (s.modDie d f).group = s.group ∧ (s.modDie d f).hasGroup = s.hasGroup ∧ (s.modDie d f).thread = s.thread := by
  refine ⟨?_, ?_, ?_⟩
  · funext c q; simp [State.group]
  · funext c q; simp [State.hasGroup]
  · funext c q l; simp [State.thread, State.group]

@[simp] theorem State.modHome_frame (s : State) (h : Nat) (f : Home → Home) :
    (s.modHome h f).agenda = s.agenda ∧
    (s.modHome h f).timers = s.timers ∧
    (s.modHome h f).cur = s.cur ∧
    (s.modHome h f).fresh = s.fresh ∧
    (s.modHome h f).tick = s.tick ∧
    (s.modHome h f).mem = s.mem ∧
    (s.modHome h f).hostMem = s.hostMem ∧
    (s.modHome h f).cores = s.cores ∧
    (s.modHome h f).groups = s.groups ∧
    (s.modHome h f).wgs = s.wgs ∧
    (s.modHome h f).launches = s.launches ∧
    (s.modHome h f).submits = s.submits ∧
    (s.modHome h f).bsets = s.bsets ∧
    (s.modHome h f).dies = s.dies ∧
    (s.modHome h f).ctxs = s.ctxs ∧
    (s.modHome h f).pends = s.pends ∧
    (s.modHome h f).fills = s.fills ∧
    (s.modHome h f).msgs = s.msgs ∧
    (s.modHome h f).invals = s.invals ∧
    (s.modHome h f).homeOps = s.homeOps ∧
    (s.modHome h f).sent = s.sent ∧
    (s.modHome h f).settles = s.settles ∧
    (s.modHome h f).runList = s.runList ∧
    (s.modHome h f).kicks = s.kicks ∧
    (s.modHome h f).windows = s.windows ∧
    (s.modHome h f).msix = s.msix ∧
    (s.modHome h f).mclog = s.mclog ∧
    (s.modHome h f).mcNext = s.mcNext ∧
    (s.modHome h f).evlog = s.evlog ∧
    (s.modHome h f).evLost = s.evLost ∧
    (s.modHome h f).malformed = s.malformed ∧
    (s.modHome h f).corrected = s.corrected ∧
    (s.modHome h f).lowered = s.lowered ∧
    (s.modHome h f).powerNext = s.powerNext ∧
    (s.modHome h f).thermalHold = s.thermalHold ∧
    (s.modHome h f).thermalAt = s.thermalAt ∧
    (s.modHome h f).junction = s.junction ∧
    (s.modHome h f).uncore = s.uncore ∧
    (s.modHome h f).wear = s.wear ∧
    (s.modHome h f).idle = s.idle ∧
    (s.modHome h f).metered = s.metered ∧
    (s.modHome h f).spent = s.spent ∧
    (s.modHome h f).fw = s.fw ∧
    (s.modHome h f).bad = s.bad := ⟨rfl, rfl, rfl, rfl, rfl, rfl, rfl, rfl, rfl, rfl, rfl, rfl, rfl, rfl, rfl, rfl, rfl, rfl, rfl, rfl, rfl, rfl, rfl, rfl, rfl, rfl, rfl, rfl, rfl, rfl, rfl, rfl, rfl, rfl, rfl, rfl, rfl, rfl, rfl, rfl, rfl, rfl, rfl, rfl⟩

@[simp] theorem State.modHome_reads (s : State) (h : Nat) (f : Home → Home) :
    (s.modHome h f).core = s.core ∧
    (s.modHome h f).die = s.die ∧
    (s.modHome h f).ctx = s.ctx ∧
    (s.modHome h f).wg = s.wg ∧
    (s.modHome h f).launch = s.launch := by
  refine ⟨?_, ?_, ?_, ?_, ?_⟩ <;> funext c <;> simp [State.core, State.die, State.ctx, State.wg, State.launch]

@[simp] theorem State.modHome_group (s : State) (h : Nat) (f : Home → Home) : (s.modHome h f).group = s.group ∧ (s.modHome h f).hasGroup = s.hasGroup ∧ (s.modHome h f).thread = s.thread := by
  refine ⟨?_, ?_, ?_⟩
  · funext c q; simp [State.group]
  · funext c q; simp [State.hasGroup]
  · funext c q l; simp [State.thread, State.group]

@[simp] theorem State.modCtx_frame (s : State) (c : Nat) (f : Ctx → Ctx) :
    (s.modCtx c f).agenda = s.agenda ∧
    (s.modCtx c f).timers = s.timers ∧
    (s.modCtx c f).cur = s.cur ∧
    (s.modCtx c f).fresh = s.fresh ∧
    (s.modCtx c f).tick = s.tick ∧
    (s.modCtx c f).mem = s.mem ∧
    (s.modCtx c f).hostMem = s.hostMem ∧
    (s.modCtx c f).cores = s.cores ∧
    (s.modCtx c f).groups = s.groups ∧
    (s.modCtx c f).wgs = s.wgs ∧
    (s.modCtx c f).launches = s.launches ∧
    (s.modCtx c f).submits = s.submits ∧
    (s.modCtx c f).bsets = s.bsets ∧
    (s.modCtx c f).dies = s.dies ∧
    (s.modCtx c f).homes = s.homes ∧
    (s.modCtx c f).pends = s.pends ∧
    (s.modCtx c f).fills = s.fills ∧
    (s.modCtx c f).msgs = s.msgs ∧
    (s.modCtx c f).invals = s.invals ∧
    (s.modCtx c f).homeOps = s.homeOps ∧
    (s.modCtx c f).sent = s.sent ∧
    (s.modCtx c f).settles = s.settles ∧
    (s.modCtx c f).runList = s.runList ∧
    (s.modCtx c f).kicks = s.kicks ∧
    (s.modCtx c f).windows = s.windows ∧
    (s.modCtx c f).msix = s.msix ∧
    (s.modCtx c f).mclog = s.mclog ∧
    (s.modCtx c f).mcNext = s.mcNext ∧
    (s.modCtx c f).evlog = s.evlog ∧
    (s.modCtx c f).evLost = s.evLost ∧
    (s.modCtx c f).malformed = s.malformed ∧
    (s.modCtx c f).corrected = s.corrected ∧
    (s.modCtx c f).lowered = s.lowered ∧
    (s.modCtx c f).powerNext = s.powerNext ∧
    (s.modCtx c f).thermalHold = s.thermalHold ∧
    (s.modCtx c f).thermalAt = s.thermalAt ∧
    (s.modCtx c f).junction = s.junction ∧
    (s.modCtx c f).uncore = s.uncore ∧
    (s.modCtx c f).wear = s.wear ∧
    (s.modCtx c f).idle = s.idle ∧
    (s.modCtx c f).metered = s.metered ∧
    (s.modCtx c f).spent = s.spent ∧
    (s.modCtx c f).fw = s.fw ∧
    (s.modCtx c f).bad = s.bad := ⟨rfl, rfl, rfl, rfl, rfl, rfl, rfl, rfl, rfl, rfl, rfl, rfl, rfl, rfl, rfl, rfl, rfl, rfl, rfl, rfl, rfl, rfl, rfl, rfl, rfl, rfl, rfl, rfl, rfl, rfl, rfl, rfl, rfl, rfl, rfl, rfl, rfl, rfl, rfl, rfl, rfl, rfl, rfl, rfl⟩

@[simp] theorem State.modCtx_reads (s : State) (c : Nat) (f : Ctx → Ctx) :
    (s.modCtx c f).core = s.core ∧
    (s.modCtx c f).die = s.die ∧
    (s.modCtx c f).home = s.home ∧
    (s.modCtx c f).wg = s.wg ∧
    (s.modCtx c f).launch = s.launch := by
  refine ⟨?_, ?_, ?_, ?_, ?_⟩ <;> funext c <;> simp [State.core, State.die, State.home, State.wg, State.launch]

@[simp] theorem State.modCtx_group (s : State) (c : Nat) (f : Ctx → Ctx) : (s.modCtx c f).group = s.group ∧ (s.modCtx c f).hasGroup = s.hasGroup ∧ (s.modCtx c f).thread = s.thread := by
  refine ⟨?_, ?_, ?_⟩
  · funext c q; simp [State.group]
  · funext c q; simp [State.hasGroup]
  · funext c q l; simp [State.thread, State.group]

@[simp] theorem State.modWg_frame (s : State) (w : Nat) (f : Workgroup → Workgroup) :
    (s.modWg w f).agenda = s.agenda ∧
    (s.modWg w f).timers = s.timers ∧
    (s.modWg w f).cur = s.cur ∧
    (s.modWg w f).fresh = s.fresh ∧
    (s.modWg w f).tick = s.tick ∧
    (s.modWg w f).mem = s.mem ∧
    (s.modWg w f).hostMem = s.hostMem ∧
    (s.modWg w f).cores = s.cores ∧
    (s.modWg w f).groups = s.groups ∧
    (s.modWg w f).launches = s.launches ∧
    (s.modWg w f).submits = s.submits ∧
    (s.modWg w f).bsets = s.bsets ∧
    (s.modWg w f).dies = s.dies ∧
    (s.modWg w f).homes = s.homes ∧
    (s.modWg w f).ctxs = s.ctxs ∧
    (s.modWg w f).pends = s.pends ∧
    (s.modWg w f).fills = s.fills ∧
    (s.modWg w f).msgs = s.msgs ∧
    (s.modWg w f).invals = s.invals ∧
    (s.modWg w f).homeOps = s.homeOps ∧
    (s.modWg w f).sent = s.sent ∧
    (s.modWg w f).settles = s.settles ∧
    (s.modWg w f).runList = s.runList ∧
    (s.modWg w f).kicks = s.kicks ∧
    (s.modWg w f).windows = s.windows ∧
    (s.modWg w f).msix = s.msix ∧
    (s.modWg w f).mclog = s.mclog ∧
    (s.modWg w f).mcNext = s.mcNext ∧
    (s.modWg w f).evlog = s.evlog ∧
    (s.modWg w f).evLost = s.evLost ∧
    (s.modWg w f).malformed = s.malformed ∧
    (s.modWg w f).corrected = s.corrected ∧
    (s.modWg w f).lowered = s.lowered ∧
    (s.modWg w f).powerNext = s.powerNext ∧
    (s.modWg w f).thermalHold = s.thermalHold ∧
    (s.modWg w f).thermalAt = s.thermalAt ∧
    (s.modWg w f).junction = s.junction ∧
    (s.modWg w f).uncore = s.uncore ∧
    (s.modWg w f).wear = s.wear ∧
    (s.modWg w f).idle = s.idle ∧
    (s.modWg w f).metered = s.metered ∧
    (s.modWg w f).spent = s.spent ∧
    (s.modWg w f).fw = s.fw ∧
    (s.modWg w f).bad = s.bad := ⟨rfl, rfl, rfl, rfl, rfl, rfl, rfl, rfl, rfl, rfl, rfl, rfl, rfl, rfl, rfl, rfl, rfl, rfl, rfl, rfl, rfl, rfl, rfl, rfl, rfl, rfl, rfl, rfl, rfl, rfl, rfl, rfl, rfl, rfl, rfl, rfl, rfl, rfl, rfl, rfl, rfl, rfl, rfl, rfl⟩

@[simp] theorem State.modWg_reads (s : State) (w : Nat) (f : Workgroup → Workgroup) :
    (s.modWg w f).core = s.core ∧
    (s.modWg w f).die = s.die ∧
    (s.modWg w f).home = s.home ∧
    (s.modWg w f).ctx = s.ctx ∧
    (s.modWg w f).launch = s.launch := by
  refine ⟨?_, ?_, ?_, ?_, ?_⟩ <;> funext c <;> simp [State.core, State.die, State.home, State.ctx, State.launch]

@[simp] theorem State.modWg_group (s : State) (w : Nat) (f : Workgroup → Workgroup) : (s.modWg w f).group = s.group ∧ (s.modWg w f).hasGroup = s.hasGroup ∧ (s.modWg w f).thread = s.thread := by
  refine ⟨?_, ?_, ?_⟩
  · funext c q; simp [State.group]
  · funext c q; simp [State.hasGroup]
  · funext c q l; simp [State.thread, State.group]

@[simp] theorem State.modLaunch_frame (s : State) (l : Nat) (f : Launch → Launch) :
    (s.modLaunch l f).agenda = s.agenda ∧
    (s.modLaunch l f).timers = s.timers ∧
    (s.modLaunch l f).cur = s.cur ∧
    (s.modLaunch l f).fresh = s.fresh ∧
    (s.modLaunch l f).tick = s.tick ∧
    (s.modLaunch l f).mem = s.mem ∧
    (s.modLaunch l f).hostMem = s.hostMem ∧
    (s.modLaunch l f).cores = s.cores ∧
    (s.modLaunch l f).groups = s.groups ∧
    (s.modLaunch l f).wgs = s.wgs ∧
    (s.modLaunch l f).submits = s.submits ∧
    (s.modLaunch l f).bsets = s.bsets ∧
    (s.modLaunch l f).dies = s.dies ∧
    (s.modLaunch l f).homes = s.homes ∧
    (s.modLaunch l f).ctxs = s.ctxs ∧
    (s.modLaunch l f).pends = s.pends ∧
    (s.modLaunch l f).fills = s.fills ∧
    (s.modLaunch l f).msgs = s.msgs ∧
    (s.modLaunch l f).invals = s.invals ∧
    (s.modLaunch l f).homeOps = s.homeOps ∧
    (s.modLaunch l f).sent = s.sent ∧
    (s.modLaunch l f).settles = s.settles ∧
    (s.modLaunch l f).runList = s.runList ∧
    (s.modLaunch l f).kicks = s.kicks ∧
    (s.modLaunch l f).windows = s.windows ∧
    (s.modLaunch l f).msix = s.msix ∧
    (s.modLaunch l f).mclog = s.mclog ∧
    (s.modLaunch l f).mcNext = s.mcNext ∧
    (s.modLaunch l f).evlog = s.evlog ∧
    (s.modLaunch l f).evLost = s.evLost ∧
    (s.modLaunch l f).malformed = s.malformed ∧
    (s.modLaunch l f).corrected = s.corrected ∧
    (s.modLaunch l f).lowered = s.lowered ∧
    (s.modLaunch l f).powerNext = s.powerNext ∧
    (s.modLaunch l f).thermalHold = s.thermalHold ∧
    (s.modLaunch l f).thermalAt = s.thermalAt ∧
    (s.modLaunch l f).junction = s.junction ∧
    (s.modLaunch l f).uncore = s.uncore ∧
    (s.modLaunch l f).wear = s.wear ∧
    (s.modLaunch l f).idle = s.idle ∧
    (s.modLaunch l f).metered = s.metered ∧
    (s.modLaunch l f).spent = s.spent ∧
    (s.modLaunch l f).fw = s.fw ∧
    (s.modLaunch l f).bad = s.bad := ⟨rfl, rfl, rfl, rfl, rfl, rfl, rfl, rfl, rfl, rfl, rfl, rfl, rfl, rfl, rfl, rfl, rfl, rfl, rfl, rfl, rfl, rfl, rfl, rfl, rfl, rfl, rfl, rfl, rfl, rfl, rfl, rfl, rfl, rfl, rfl, rfl, rfl, rfl, rfl, rfl, rfl, rfl, rfl, rfl⟩

@[simp] theorem State.modLaunch_reads (s : State) (l : Nat) (f : Launch → Launch) :
    (s.modLaunch l f).core = s.core ∧
    (s.modLaunch l f).die = s.die ∧
    (s.modLaunch l f).home = s.home ∧
    (s.modLaunch l f).ctx = s.ctx ∧
    (s.modLaunch l f).wg = s.wg := by
  refine ⟨?_, ?_, ?_, ?_, ?_⟩ <;> funext c <;> simp [State.core, State.die, State.home, State.ctx, State.wg]

@[simp] theorem State.modLaunch_group (s : State) (l : Nat) (f : Launch → Launch) : (s.modLaunch l f).group = s.group ∧ (s.modLaunch l f).hasGroup = s.hasGroup ∧ (s.modLaunch l f).thread = s.thread := by
  refine ⟨?_, ?_, ?_⟩
  · funext c q; simp [State.group]
  · funext c q; simp [State.hasGroup]
  · funext c q l; simp [State.thread, State.group]

@[simp] theorem State.setGroup_frame (s : State) (core slot : Nat) (g : Group) :
    (s.setGroup core slot g).agenda = s.agenda ∧
    (s.setGroup core slot g).timers = s.timers ∧
    (s.setGroup core slot g).cur = s.cur ∧
    (s.setGroup core slot g).fresh = s.fresh ∧
    (s.setGroup core slot g).tick = s.tick ∧
    (s.setGroup core slot g).mem = s.mem ∧
    (s.setGroup core slot g).hostMem = s.hostMem ∧
    (s.setGroup core slot g).cores = s.cores ∧
    (s.setGroup core slot g).wgs = s.wgs ∧
    (s.setGroup core slot g).launches = s.launches ∧
    (s.setGroup core slot g).submits = s.submits ∧
    (s.setGroup core slot g).bsets = s.bsets ∧
    (s.setGroup core slot g).dies = s.dies ∧
    (s.setGroup core slot g).homes = s.homes ∧
    (s.setGroup core slot g).ctxs = s.ctxs ∧
    (s.setGroup core slot g).pends = s.pends ∧
    (s.setGroup core slot g).fills = s.fills ∧
    (s.setGroup core slot g).msgs = s.msgs ∧
    (s.setGroup core slot g).invals = s.invals ∧
    (s.setGroup core slot g).homeOps = s.homeOps ∧
    (s.setGroup core slot g).sent = s.sent ∧
    (s.setGroup core slot g).settles = s.settles ∧
    (s.setGroup core slot g).runList = s.runList ∧
    (s.setGroup core slot g).kicks = s.kicks ∧
    (s.setGroup core slot g).windows = s.windows ∧
    (s.setGroup core slot g).msix = s.msix ∧
    (s.setGroup core slot g).mclog = s.mclog ∧
    (s.setGroup core slot g).mcNext = s.mcNext ∧
    (s.setGroup core slot g).evlog = s.evlog ∧
    (s.setGroup core slot g).evLost = s.evLost ∧
    (s.setGroup core slot g).malformed = s.malformed ∧
    (s.setGroup core slot g).corrected = s.corrected ∧
    (s.setGroup core slot g).lowered = s.lowered ∧
    (s.setGroup core slot g).powerNext = s.powerNext ∧
    (s.setGroup core slot g).thermalHold = s.thermalHold ∧
    (s.setGroup core slot g).thermalAt = s.thermalAt ∧
    (s.setGroup core slot g).junction = s.junction ∧
    (s.setGroup core slot g).uncore = s.uncore ∧
    (s.setGroup core slot g).wear = s.wear ∧
    (s.setGroup core slot g).idle = s.idle ∧
    (s.setGroup core slot g).metered = s.metered ∧
    (s.setGroup core slot g).spent = s.spent ∧
    (s.setGroup core slot g).fw = s.fw ∧
    (s.setGroup core slot g).bad = s.bad := ⟨rfl, rfl, rfl, rfl, rfl, rfl, rfl, rfl, rfl, rfl, rfl, rfl, rfl, rfl, rfl, rfl, rfl, rfl, rfl, rfl, rfl, rfl, rfl, rfl, rfl, rfl, rfl, rfl, rfl, rfl, rfl, rfl, rfl, rfl, rfl, rfl, rfl, rfl, rfl, rfl, rfl, rfl, rfl, rfl⟩

@[simp] theorem State.setGroup_reads (s : State) (core slot : Nat) (g : Group) :
    (s.setGroup core slot g).core = s.core ∧
    (s.setGroup core slot g).die = s.die ∧
    (s.setGroup core slot g).home = s.home ∧
    (s.setGroup core slot g).ctx = s.ctx ∧
    (s.setGroup core slot g).wg = s.wg ∧
    (s.setGroup core slot g).launch = s.launch := by
  refine ⟨?_, ?_, ?_, ?_, ?_, ?_⟩ <;> funext c <;> simp [State.core, State.die, State.home, State.ctx, State.wg, State.launch]

@[simp] theorem State.modGroup_frame (s : State) (core slot : Nat) (f : Group → Group) :
    (s.modGroup core slot f).agenda = s.agenda ∧
    (s.modGroup core slot f).timers = s.timers ∧
    (s.modGroup core slot f).cur = s.cur ∧
    (s.modGroup core slot f).fresh = s.fresh ∧
    (s.modGroup core slot f).tick = s.tick ∧
    (s.modGroup core slot f).mem = s.mem ∧
    (s.modGroup core slot f).hostMem = s.hostMem ∧
    (s.modGroup core slot f).cores = s.cores ∧
    (s.modGroup core slot f).wgs = s.wgs ∧
    (s.modGroup core slot f).launches = s.launches ∧
    (s.modGroup core slot f).submits = s.submits ∧
    (s.modGroup core slot f).bsets = s.bsets ∧
    (s.modGroup core slot f).dies = s.dies ∧
    (s.modGroup core slot f).homes = s.homes ∧
    (s.modGroup core slot f).ctxs = s.ctxs ∧
    (s.modGroup core slot f).pends = s.pends ∧
    (s.modGroup core slot f).fills = s.fills ∧
    (s.modGroup core slot f).msgs = s.msgs ∧
    (s.modGroup core slot f).invals = s.invals ∧
    (s.modGroup core slot f).homeOps = s.homeOps ∧
    (s.modGroup core slot f).sent = s.sent ∧
    (s.modGroup core slot f).settles = s.settles ∧
    (s.modGroup core slot f).runList = s.runList ∧
    (s.modGroup core slot f).kicks = s.kicks ∧
    (s.modGroup core slot f).windows = s.windows ∧
    (s.modGroup core slot f).msix = s.msix ∧
    (s.modGroup core slot f).mclog = s.mclog ∧
    (s.modGroup core slot f).mcNext = s.mcNext ∧
    (s.modGroup core slot f).evlog = s.evlog ∧
    (s.modGroup core slot f).evLost = s.evLost ∧
    (s.modGroup core slot f).malformed = s.malformed ∧
    (s.modGroup core slot f).corrected = s.corrected ∧
    (s.modGroup core slot f).lowered = s.lowered ∧
    (s.modGroup core slot f).powerNext = s.powerNext ∧
    (s.modGroup core slot f).thermalHold = s.thermalHold ∧
    (s.modGroup core slot f).thermalAt = s.thermalAt ∧
    (s.modGroup core slot f).junction = s.junction ∧
    (s.modGroup core slot f).uncore = s.uncore ∧
    (s.modGroup core slot f).wear = s.wear ∧
    (s.modGroup core slot f).idle = s.idle ∧
    (s.modGroup core slot f).metered = s.metered ∧
    (s.modGroup core slot f).spent = s.spent ∧
    (s.modGroup core slot f).fw = s.fw ∧
    (s.modGroup core slot f).bad = s.bad := by
  unfold State.modGroup
  split <;> simp

@[simp] theorem State.modGroup_reads (s : State) (core slot : Nat) (f : Group → Group) :
    (s.modGroup core slot f).core = s.core ∧
    (s.modGroup core slot f).die = s.die ∧
    (s.modGroup core slot f).home = s.home ∧
    (s.modGroup core slot f).ctx = s.ctx ∧
    (s.modGroup core slot f).wg = s.wg ∧
    (s.modGroup core slot f).launch = s.launch := by
  refine ⟨?_, ?_, ?_, ?_, ?_, ?_⟩ <;> funext c <;> simp [State.core, State.die, State.home, State.ctx, State.wg, State.launch]

@[simp] theorem State.modThread_frame (s : State) (core slot l : Nat) (f : Thread → Thread) :
    (s.modThread core slot l f).agenda = s.agenda ∧
    (s.modThread core slot l f).timers = s.timers ∧
    (s.modThread core slot l f).cur = s.cur ∧
    (s.modThread core slot l f).fresh = s.fresh ∧
    (s.modThread core slot l f).tick = s.tick ∧
    (s.modThread core slot l f).mem = s.mem ∧
    (s.modThread core slot l f).hostMem = s.hostMem ∧
    (s.modThread core slot l f).cores = s.cores ∧
    (s.modThread core slot l f).wgs = s.wgs ∧
    (s.modThread core slot l f).launches = s.launches ∧
    (s.modThread core slot l f).submits = s.submits ∧
    (s.modThread core slot l f).bsets = s.bsets ∧
    (s.modThread core slot l f).dies = s.dies ∧
    (s.modThread core slot l f).homes = s.homes ∧
    (s.modThread core slot l f).ctxs = s.ctxs ∧
    (s.modThread core slot l f).pends = s.pends ∧
    (s.modThread core slot l f).fills = s.fills ∧
    (s.modThread core slot l f).msgs = s.msgs ∧
    (s.modThread core slot l f).invals = s.invals ∧
    (s.modThread core slot l f).homeOps = s.homeOps ∧
    (s.modThread core slot l f).sent = s.sent ∧
    (s.modThread core slot l f).settles = s.settles ∧
    (s.modThread core slot l f).runList = s.runList ∧
    (s.modThread core slot l f).kicks = s.kicks ∧
    (s.modThread core slot l f).windows = s.windows ∧
    (s.modThread core slot l f).msix = s.msix ∧
    (s.modThread core slot l f).mclog = s.mclog ∧
    (s.modThread core slot l f).mcNext = s.mcNext ∧
    (s.modThread core slot l f).evlog = s.evlog ∧
    (s.modThread core slot l f).evLost = s.evLost ∧
    (s.modThread core slot l f).malformed = s.malformed ∧
    (s.modThread core slot l f).corrected = s.corrected ∧
    (s.modThread core slot l f).lowered = s.lowered ∧
    (s.modThread core slot l f).powerNext = s.powerNext ∧
    (s.modThread core slot l f).thermalHold = s.thermalHold ∧
    (s.modThread core slot l f).thermalAt = s.thermalAt ∧
    (s.modThread core slot l f).junction = s.junction ∧
    (s.modThread core slot l f).uncore = s.uncore ∧
    (s.modThread core slot l f).wear = s.wear ∧
    (s.modThread core slot l f).idle = s.idle ∧
    (s.modThread core slot l f).metered = s.metered ∧
    (s.modThread core slot l f).spent = s.spent ∧
    (s.modThread core slot l f).fw = s.fw ∧
    (s.modThread core slot l f).bad = s.bad := by
  simp [State.modThread]

@[simp] theorem State.modThread_reads (s : State) (core slot l : Nat) (f : Thread → Thread) :
    (s.modThread core slot l f).core = s.core ∧
    (s.modThread core slot l f).die = s.die ∧
    (s.modThread core slot l f).home = s.home ∧
    (s.modThread core slot l f).ctx = s.ctx ∧
    (s.modThread core slot l f).wg = s.wg ∧
    (s.modThread core slot l f).launch = s.launch := by
  refine ⟨?_, ?_, ?_, ?_, ?_, ?_⟩ <;> funext c <;> simp [State.core, State.die, State.home, State.ctx, State.wg, State.launch]

@[simp] theorem State.modLanes_frame (s : State) (core slot : Nat) (m : BitVec 32) (f : Nat → Thread → Thread) :
    (s.modLanes core slot m f).agenda = s.agenda ∧
    (s.modLanes core slot m f).timers = s.timers ∧
    (s.modLanes core slot m f).cur = s.cur ∧
    (s.modLanes core slot m f).fresh = s.fresh ∧
    (s.modLanes core slot m f).tick = s.tick ∧
    (s.modLanes core slot m f).mem = s.mem ∧
    (s.modLanes core slot m f).hostMem = s.hostMem ∧
    (s.modLanes core slot m f).cores = s.cores ∧
    (s.modLanes core slot m f).wgs = s.wgs ∧
    (s.modLanes core slot m f).launches = s.launches ∧
    (s.modLanes core slot m f).submits = s.submits ∧
    (s.modLanes core slot m f).bsets = s.bsets ∧
    (s.modLanes core slot m f).dies = s.dies ∧
    (s.modLanes core slot m f).homes = s.homes ∧
    (s.modLanes core slot m f).ctxs = s.ctxs ∧
    (s.modLanes core slot m f).pends = s.pends ∧
    (s.modLanes core slot m f).fills = s.fills ∧
    (s.modLanes core slot m f).msgs = s.msgs ∧
    (s.modLanes core slot m f).invals = s.invals ∧
    (s.modLanes core slot m f).homeOps = s.homeOps ∧
    (s.modLanes core slot m f).sent = s.sent ∧
    (s.modLanes core slot m f).settles = s.settles ∧
    (s.modLanes core slot m f).runList = s.runList ∧
    (s.modLanes core slot m f).kicks = s.kicks ∧
    (s.modLanes core slot m f).windows = s.windows ∧
    (s.modLanes core slot m f).msix = s.msix ∧
    (s.modLanes core slot m f).mclog = s.mclog ∧
    (s.modLanes core slot m f).mcNext = s.mcNext ∧
    (s.modLanes core slot m f).evlog = s.evlog ∧
    (s.modLanes core slot m f).evLost = s.evLost ∧
    (s.modLanes core slot m f).malformed = s.malformed ∧
    (s.modLanes core slot m f).corrected = s.corrected ∧
    (s.modLanes core slot m f).lowered = s.lowered ∧
    (s.modLanes core slot m f).powerNext = s.powerNext ∧
    (s.modLanes core slot m f).thermalHold = s.thermalHold ∧
    (s.modLanes core slot m f).thermalAt = s.thermalAt ∧
    (s.modLanes core slot m f).junction = s.junction ∧
    (s.modLanes core slot m f).uncore = s.uncore ∧
    (s.modLanes core slot m f).wear = s.wear ∧
    (s.modLanes core slot m f).idle = s.idle ∧
    (s.modLanes core slot m f).metered = s.metered ∧
    (s.modLanes core slot m f).spent = s.spent ∧
    (s.modLanes core slot m f).fw = s.fw ∧
    (s.modLanes core slot m f).bad = s.bad := by
  simp [State.modLanes]

@[simp] theorem State.modLanes_reads (s : State) (core slot : Nat) (m : BitVec 32) (f : Nat → Thread → Thread) :
    (s.modLanes core slot m f).core = s.core ∧
    (s.modLanes core slot m f).die = s.die ∧
    (s.modLanes core slot m f).home = s.home ∧
    (s.modLanes core slot m f).ctx = s.ctx ∧
    (s.modLanes core slot m f).wg = s.wg ∧
    (s.modLanes core slot m f).launch = s.launch := by
  refine ⟨?_, ?_, ?_, ?_, ?_, ?_⟩ <;> funext c <;> simp [State.core, State.die, State.home, State.ctx, State.wg, State.launch]

@[simp] theorem State.moveTo_frame (s : State) (core slot : Nat) (m : BitVec 32) (p : Nat → Long) :
    (s.moveTo core slot m p).agenda = s.agenda ∧
    (s.moveTo core slot m p).timers = s.timers ∧
    (s.moveTo core slot m p).cur = s.cur ∧
    (s.moveTo core slot m p).fresh = s.fresh ∧
    (s.moveTo core slot m p).tick = s.tick ∧
    (s.moveTo core slot m p).mem = s.mem ∧
    (s.moveTo core slot m p).hostMem = s.hostMem ∧
    (s.moveTo core slot m p).cores = s.cores ∧
    (s.moveTo core slot m p).wgs = s.wgs ∧
    (s.moveTo core slot m p).launches = s.launches ∧
    (s.moveTo core slot m p).submits = s.submits ∧
    (s.moveTo core slot m p).bsets = s.bsets ∧
    (s.moveTo core slot m p).dies = s.dies ∧
    (s.moveTo core slot m p).homes = s.homes ∧
    (s.moveTo core slot m p).ctxs = s.ctxs ∧
    (s.moveTo core slot m p).pends = s.pends ∧
    (s.moveTo core slot m p).fills = s.fills ∧
    (s.moveTo core slot m p).msgs = s.msgs ∧
    (s.moveTo core slot m p).invals = s.invals ∧
    (s.moveTo core slot m p).homeOps = s.homeOps ∧
    (s.moveTo core slot m p).sent = s.sent ∧
    (s.moveTo core slot m p).settles = s.settles ∧
    (s.moveTo core slot m p).runList = s.runList ∧
    (s.moveTo core slot m p).kicks = s.kicks ∧
    (s.moveTo core slot m p).windows = s.windows ∧
    (s.moveTo core slot m p).msix = s.msix ∧
    (s.moveTo core slot m p).mclog = s.mclog ∧
    (s.moveTo core slot m p).mcNext = s.mcNext ∧
    (s.moveTo core slot m p).evlog = s.evlog ∧
    (s.moveTo core slot m p).evLost = s.evLost ∧
    (s.moveTo core slot m p).malformed = s.malformed ∧
    (s.moveTo core slot m p).corrected = s.corrected ∧
    (s.moveTo core slot m p).lowered = s.lowered ∧
    (s.moveTo core slot m p).powerNext = s.powerNext ∧
    (s.moveTo core slot m p).thermalHold = s.thermalHold ∧
    (s.moveTo core slot m p).thermalAt = s.thermalAt ∧
    (s.moveTo core slot m p).junction = s.junction ∧
    (s.moveTo core slot m p).uncore = s.uncore ∧
    (s.moveTo core slot m p).wear = s.wear ∧
    (s.moveTo core slot m p).idle = s.idle ∧
    (s.moveTo core slot m p).metered = s.metered ∧
    (s.moveTo core slot m p).spent = s.spent ∧
    (s.moveTo core slot m p).fw = s.fw ∧
    (s.moveTo core slot m p).bad = s.bad := by
  simp [State.moveTo]

@[simp] theorem State.moveTo_reads (s : State) (core slot : Nat) (m : BitVec 32) (p : Nat → Long) :
    (s.moveTo core slot m p).core = s.core ∧
    (s.moveTo core slot m p).die = s.die ∧
    (s.moveTo core slot m p).home = s.home ∧
    (s.moveTo core slot m p).ctx = s.ctx ∧
    (s.moveTo core slot m p).wg = s.wg ∧
    (s.moveTo core slot m p).launch = s.launch := by
  refine ⟨?_, ?_, ?_, ?_, ?_, ?_⟩ <;> funext c <;> simp [State.core, State.die, State.home, State.ctx, State.wg, State.launch]

@[simp] theorem State.tokUp_frame (s : State) (core slot k : Nat) :
    (s.tokUp core slot k).agenda = s.agenda ∧
    (s.tokUp core slot k).timers = s.timers ∧
    (s.tokUp core slot k).cur = s.cur ∧
    (s.tokUp core slot k).fresh = s.fresh ∧
    (s.tokUp core slot k).tick = s.tick ∧
    (s.tokUp core slot k).mem = s.mem ∧
    (s.tokUp core slot k).hostMem = s.hostMem ∧
    (s.tokUp core slot k).cores = s.cores ∧
    (s.tokUp core slot k).wgs = s.wgs ∧
    (s.tokUp core slot k).launches = s.launches ∧
    (s.tokUp core slot k).submits = s.submits ∧
    (s.tokUp core slot k).bsets = s.bsets ∧
    (s.tokUp core slot k).dies = s.dies ∧
    (s.tokUp core slot k).homes = s.homes ∧
    (s.tokUp core slot k).ctxs = s.ctxs ∧
    (s.tokUp core slot k).pends = s.pends ∧
    (s.tokUp core slot k).fills = s.fills ∧
    (s.tokUp core slot k).msgs = s.msgs ∧
    (s.tokUp core slot k).invals = s.invals ∧
    (s.tokUp core slot k).homeOps = s.homeOps ∧
    (s.tokUp core slot k).sent = s.sent ∧
    (s.tokUp core slot k).settles = s.settles ∧
    (s.tokUp core slot k).runList = s.runList ∧
    (s.tokUp core slot k).kicks = s.kicks ∧
    (s.tokUp core slot k).windows = s.windows ∧
    (s.tokUp core slot k).msix = s.msix ∧
    (s.tokUp core slot k).mclog = s.mclog ∧
    (s.tokUp core slot k).mcNext = s.mcNext ∧
    (s.tokUp core slot k).evlog = s.evlog ∧
    (s.tokUp core slot k).evLost = s.evLost ∧
    (s.tokUp core slot k).malformed = s.malformed ∧
    (s.tokUp core slot k).corrected = s.corrected ∧
    (s.tokUp core slot k).lowered = s.lowered ∧
    (s.tokUp core slot k).powerNext = s.powerNext ∧
    (s.tokUp core slot k).thermalHold = s.thermalHold ∧
    (s.tokUp core slot k).thermalAt = s.thermalAt ∧
    (s.tokUp core slot k).junction = s.junction ∧
    (s.tokUp core slot k).uncore = s.uncore ∧
    (s.tokUp core slot k).wear = s.wear ∧
    (s.tokUp core slot k).idle = s.idle ∧
    (s.tokUp core slot k).metered = s.metered ∧
    (s.tokUp core slot k).spent = s.spent ∧
    (s.tokUp core slot k).fw = s.fw ∧
    (s.tokUp core slot k).bad = s.bad := by
  unfold State.tokUp
  split <;> simp

@[simp] theorem State.tokUp_reads (s : State) (core slot k : Nat) :
    (s.tokUp core slot k).core = s.core ∧
    (s.tokUp core slot k).die = s.die ∧
    (s.tokUp core slot k).home = s.home ∧
    (s.tokUp core slot k).ctx = s.ctx ∧
    (s.tokUp core slot k).wg = s.wg ∧
    (s.tokUp core slot k).launch = s.launch := by
  refine ⟨?_, ?_, ?_, ?_, ?_, ?_⟩ <;> funext c <;> simp [State.core, State.die, State.home, State.ctx, State.wg, State.launch]

@[simp] theorem State.tokDown_frame (s : State) (core slot k : Nat) :
    (s.tokDown core slot k).agenda = s.agenda ∧
    (s.tokDown core slot k).timers = s.timers ∧
    (s.tokDown core slot k).cur = s.cur ∧
    (s.tokDown core slot k).fresh = s.fresh ∧
    (s.tokDown core slot k).tick = s.tick ∧
    (s.tokDown core slot k).mem = s.mem ∧
    (s.tokDown core slot k).hostMem = s.hostMem ∧
    (s.tokDown core slot k).cores = s.cores ∧
    (s.tokDown core slot k).wgs = s.wgs ∧
    (s.tokDown core slot k).launches = s.launches ∧
    (s.tokDown core slot k).submits = s.submits ∧
    (s.tokDown core slot k).bsets = s.bsets ∧
    (s.tokDown core slot k).dies = s.dies ∧
    (s.tokDown core slot k).homes = s.homes ∧
    (s.tokDown core slot k).ctxs = s.ctxs ∧
    (s.tokDown core slot k).pends = s.pends ∧
    (s.tokDown core slot k).fills = s.fills ∧
    (s.tokDown core slot k).msgs = s.msgs ∧
    (s.tokDown core slot k).invals = s.invals ∧
    (s.tokDown core slot k).homeOps = s.homeOps ∧
    (s.tokDown core slot k).sent = s.sent ∧
    (s.tokDown core slot k).settles = s.settles ∧
    (s.tokDown core slot k).runList = s.runList ∧
    (s.tokDown core slot k).kicks = s.kicks ∧
    (s.tokDown core slot k).windows = s.windows ∧
    (s.tokDown core slot k).msix = s.msix ∧
    (s.tokDown core slot k).mclog = s.mclog ∧
    (s.tokDown core slot k).mcNext = s.mcNext ∧
    (s.tokDown core slot k).evlog = s.evlog ∧
    (s.tokDown core slot k).evLost = s.evLost ∧
    (s.tokDown core slot k).malformed = s.malformed ∧
    (s.tokDown core slot k).corrected = s.corrected ∧
    (s.tokDown core slot k).lowered = s.lowered ∧
    (s.tokDown core slot k).powerNext = s.powerNext ∧
    (s.tokDown core slot k).thermalHold = s.thermalHold ∧
    (s.tokDown core slot k).thermalAt = s.thermalAt ∧
    (s.tokDown core slot k).junction = s.junction ∧
    (s.tokDown core slot k).uncore = s.uncore ∧
    (s.tokDown core slot k).wear = s.wear ∧
    (s.tokDown core slot k).idle = s.idle ∧
    (s.tokDown core slot k).metered = s.metered ∧
    (s.tokDown core slot k).spent = s.spent ∧
    (s.tokDown core slot k).fw = s.fw ∧
    (s.tokDown core slot k).bad = s.bad := by
  unfold State.tokDown
  split <;> simp

@[simp] theorem State.tokDown_reads (s : State) (core slot k : Nat) :
    (s.tokDown core slot k).core = s.core ∧
    (s.tokDown core slot k).die = s.die ∧
    (s.tokDown core slot k).home = s.home ∧
    (s.tokDown core slot k).ctx = s.ctx ∧
    (s.tokDown core slot k).wg = s.wg ∧
    (s.tokDown core slot k).launch = s.launch := by
  refine ⟨?_, ?_, ?_, ?_, ?_, ?_⟩ <;> funext c <;> simp [State.core, State.die, State.home, State.ctx, State.wg, State.launch]

@[simp] theorem State.takeToken_frame (s : State) (h : Hdr) :
    (s.takeToken h).agenda = s.agenda ∧
    (s.takeToken h).timers = s.timers ∧
    (s.takeToken h).cur = s.cur ∧
    (s.takeToken h).fresh = s.fresh ∧
    (s.takeToken h).tick = s.tick ∧
    (s.takeToken h).mem = s.mem ∧
    (s.takeToken h).hostMem = s.hostMem ∧
    (s.takeToken h).cores = s.cores ∧
    (s.takeToken h).wgs = s.wgs ∧
    (s.takeToken h).launches = s.launches ∧
    (s.takeToken h).submits = s.submits ∧
    (s.takeToken h).bsets = s.bsets ∧
    (s.takeToken h).dies = s.dies ∧
    (s.takeToken h).homes = s.homes ∧
    (s.takeToken h).ctxs = s.ctxs ∧
    (s.takeToken h).pends = s.pends ∧
    (s.takeToken h).fills = s.fills ∧
    (s.takeToken h).msgs = s.msgs ∧
    (s.takeToken h).invals = s.invals ∧
    (s.takeToken h).homeOps = s.homeOps ∧
    (s.takeToken h).sent = s.sent ∧
    (s.takeToken h).settles = s.settles ∧
    (s.takeToken h).runList = s.runList ∧
    (s.takeToken h).kicks = s.kicks ∧
    (s.takeToken h).windows = s.windows ∧
    (s.takeToken h).msix = s.msix ∧
    (s.takeToken h).mclog = s.mclog ∧
    (s.takeToken h).mcNext = s.mcNext ∧
    (s.takeToken h).evlog = s.evlog ∧
    (s.takeToken h).evLost = s.evLost ∧
    (s.takeToken h).malformed = s.malformed ∧
    (s.takeToken h).corrected = s.corrected ∧
    (s.takeToken h).lowered = s.lowered ∧
    (s.takeToken h).powerNext = s.powerNext ∧
    (s.takeToken h).thermalHold = s.thermalHold ∧
    (s.takeToken h).thermalAt = s.thermalAt ∧
    (s.takeToken h).junction = s.junction ∧
    (s.takeToken h).uncore = s.uncore ∧
    (s.takeToken h).wear = s.wear ∧
    (s.takeToken h).idle = s.idle ∧
    (s.takeToken h).metered = s.metered ∧
    (s.takeToken h).spent = s.spent ∧
    (s.takeToken h).fw = s.fw ∧
    (s.takeToken h).bad = s.bad := by
  unfold State.takeToken
  split <;> simp

@[simp] theorem State.takeToken_reads (s : State) (h : Hdr) :
    (s.takeToken h).core = s.core ∧
    (s.takeToken h).die = s.die ∧
    (s.takeToken h).home = s.home ∧
    (s.takeToken h).ctx = s.ctx ∧
    (s.takeToken h).wg = s.wg ∧
    (s.takeToken h).launch = s.launch := by
  refine ⟨?_, ?_, ?_, ?_, ?_, ?_⟩ <;> funext c <;> simp [State.core, State.die, State.home, State.ctx, State.wg, State.launch]

@[simp] theorem State.dropToken_frame (s : State) (h : Hdr) :
    (s.dropToken h).agenda = s.agenda ∧
    (s.dropToken h).timers = s.timers ∧
    (s.dropToken h).cur = s.cur ∧
    (s.dropToken h).fresh = s.fresh ∧
    (s.dropToken h).tick = s.tick ∧
    (s.dropToken h).mem = s.mem ∧
    (s.dropToken h).hostMem = s.hostMem ∧
    (s.dropToken h).cores = s.cores ∧
    (s.dropToken h).wgs = s.wgs ∧
    (s.dropToken h).launches = s.launches ∧
    (s.dropToken h).submits = s.submits ∧
    (s.dropToken h).bsets = s.bsets ∧
    (s.dropToken h).dies = s.dies ∧
    (s.dropToken h).homes = s.homes ∧
    (s.dropToken h).ctxs = s.ctxs ∧
    (s.dropToken h).pends = s.pends ∧
    (s.dropToken h).fills = s.fills ∧
    (s.dropToken h).msgs = s.msgs ∧
    (s.dropToken h).invals = s.invals ∧
    (s.dropToken h).homeOps = s.homeOps ∧
    (s.dropToken h).sent = s.sent ∧
    (s.dropToken h).settles = s.settles ∧
    (s.dropToken h).runList = s.runList ∧
    (s.dropToken h).kicks = s.kicks ∧
    (s.dropToken h).windows = s.windows ∧
    (s.dropToken h).msix = s.msix ∧
    (s.dropToken h).mclog = s.mclog ∧
    (s.dropToken h).mcNext = s.mcNext ∧
    (s.dropToken h).evlog = s.evlog ∧
    (s.dropToken h).evLost = s.evLost ∧
    (s.dropToken h).malformed = s.malformed ∧
    (s.dropToken h).corrected = s.corrected ∧
    (s.dropToken h).lowered = s.lowered ∧
    (s.dropToken h).powerNext = s.powerNext ∧
    (s.dropToken h).thermalHold = s.thermalHold ∧
    (s.dropToken h).thermalAt = s.thermalAt ∧
    (s.dropToken h).junction = s.junction ∧
    (s.dropToken h).uncore = s.uncore ∧
    (s.dropToken h).wear = s.wear ∧
    (s.dropToken h).idle = s.idle ∧
    (s.dropToken h).metered = s.metered ∧
    (s.dropToken h).spent = s.spent ∧
    (s.dropToken h).fw = s.fw ∧
    (s.dropToken h).bad = s.bad := by
  simp [State.dropToken]

@[simp] theorem State.dropToken_reads (s : State) (h : Hdr) :
    (s.dropToken h).core = s.core ∧
    (s.dropToken h).die = s.die ∧
    (s.dropToken h).home = s.home ∧
    (s.dropToken h).ctx = s.ctx ∧
    (s.dropToken h).wg = s.wg ∧
    (s.dropToken h).launch = s.launch := by
  refine ⟨?_, ?_, ?_, ?_, ?_, ?_⟩ <;> funext c <;> simp [State.core, State.die, State.home, State.ctx, State.wg, State.launch]

@[simp] theorem State.tickFresh_frame (s : State)  :
    (s.tickFresh).agenda = s.agenda ∧
    (s.tickFresh).timers = s.timers ∧
    (s.tickFresh).cur = s.cur ∧
    (s.tickFresh).tick = s.tick ∧
    (s.tickFresh).mem = s.mem ∧
    (s.tickFresh).hostMem = s.hostMem ∧
    (s.tickFresh).cores = s.cores ∧
    (s.tickFresh).groups = s.groups ∧
    (s.tickFresh).wgs = s.wgs ∧
    (s.tickFresh).launches = s.launches ∧
    (s.tickFresh).submits = s.submits ∧
    (s.tickFresh).bsets = s.bsets ∧
    (s.tickFresh).dies = s.dies ∧
    (s.tickFresh).homes = s.homes ∧
    (s.tickFresh).ctxs = s.ctxs ∧
    (s.tickFresh).pends = s.pends ∧
    (s.tickFresh).fills = s.fills ∧
    (s.tickFresh).msgs = s.msgs ∧
    (s.tickFresh).invals = s.invals ∧
    (s.tickFresh).homeOps = s.homeOps ∧
    (s.tickFresh).sent = s.sent ∧
    (s.tickFresh).settles = s.settles ∧
    (s.tickFresh).runList = s.runList ∧
    (s.tickFresh).kicks = s.kicks ∧
    (s.tickFresh).windows = s.windows ∧
    (s.tickFresh).msix = s.msix ∧
    (s.tickFresh).mclog = s.mclog ∧
    (s.tickFresh).mcNext = s.mcNext ∧
    (s.tickFresh).evlog = s.evlog ∧
    (s.tickFresh).evLost = s.evLost ∧
    (s.tickFresh).malformed = s.malformed ∧
    (s.tickFresh).corrected = s.corrected ∧
    (s.tickFresh).lowered = s.lowered ∧
    (s.tickFresh).powerNext = s.powerNext ∧
    (s.tickFresh).thermalHold = s.thermalHold ∧
    (s.tickFresh).thermalAt = s.thermalAt ∧
    (s.tickFresh).junction = s.junction ∧
    (s.tickFresh).uncore = s.uncore ∧
    (s.tickFresh).wear = s.wear ∧
    (s.tickFresh).idle = s.idle ∧
    (s.tickFresh).metered = s.metered ∧
    (s.tickFresh).spent = s.spent ∧
    (s.tickFresh).fw = s.fw ∧
    (s.tickFresh).bad = s.bad := ⟨rfl, rfl, rfl, rfl, rfl, rfl, rfl, rfl, rfl, rfl, rfl, rfl, rfl, rfl, rfl, rfl, rfl, rfl, rfl, rfl, rfl, rfl, rfl, rfl, rfl, rfl, rfl, rfl, rfl, rfl, rfl, rfl, rfl, rfl, rfl, rfl, rfl, rfl, rfl, rfl, rfl, rfl, rfl, rfl⟩

@[simp] theorem State.tickFresh_reads (s : State)  :
    (s.tickFresh).core = s.core ∧
    (s.tickFresh).die = s.die ∧
    (s.tickFresh).home = s.home ∧
    (s.tickFresh).ctx = s.ctx ∧
    (s.tickFresh).wg = s.wg ∧
    (s.tickFresh).launch = s.launch := by
  refine ⟨?_, ?_, ?_, ?_, ?_, ?_⟩ <;> funext c <;> simp [State.core, State.die, State.home, State.ctx, State.wg, State.launch]

@[simp] theorem State.tickFresh_group (s : State)  : (s.tickFresh).group = s.group ∧ (s.tickFresh).hasGroup = s.hasGroup ∧ (s.tickFresh).thread = s.thread := by
  refine ⟨?_, ?_, ?_⟩
  · funext c q; simp [State.group]
  · funext c q; simp [State.hasGroup]
  · funext c q l; simp [State.thread, State.group]

@[simp] theorem State.inTicks_frame (s : State) (n : Nat) (ev : Instr) :
    (s.inTicks n ev).agenda = s.agenda ∧
    (s.inTicks n ev).cur = s.cur ∧
    (s.inTicks n ev).fresh = s.fresh ∧
    (s.inTicks n ev).tick = s.tick ∧
    (s.inTicks n ev).mem = s.mem ∧
    (s.inTicks n ev).hostMem = s.hostMem ∧
    (s.inTicks n ev).cores = s.cores ∧
    (s.inTicks n ev).groups = s.groups ∧
    (s.inTicks n ev).wgs = s.wgs ∧
    (s.inTicks n ev).launches = s.launches ∧
    (s.inTicks n ev).submits = s.submits ∧
    (s.inTicks n ev).bsets = s.bsets ∧
    (s.inTicks n ev).dies = s.dies ∧
    (s.inTicks n ev).homes = s.homes ∧
    (s.inTicks n ev).ctxs = s.ctxs ∧
    (s.inTicks n ev).pends = s.pends ∧
    (s.inTicks n ev).fills = s.fills ∧
    (s.inTicks n ev).msgs = s.msgs ∧
    (s.inTicks n ev).invals = s.invals ∧
    (s.inTicks n ev).homeOps = s.homeOps ∧
    (s.inTicks n ev).sent = s.sent ∧
    (s.inTicks n ev).settles = s.settles ∧
    (s.inTicks n ev).runList = s.runList ∧
    (s.inTicks n ev).kicks = s.kicks ∧
    (s.inTicks n ev).windows = s.windows ∧
    (s.inTicks n ev).msix = s.msix ∧
    (s.inTicks n ev).mclog = s.mclog ∧
    (s.inTicks n ev).mcNext = s.mcNext ∧
    (s.inTicks n ev).evlog = s.evlog ∧
    (s.inTicks n ev).evLost = s.evLost ∧
    (s.inTicks n ev).malformed = s.malformed ∧
    (s.inTicks n ev).corrected = s.corrected ∧
    (s.inTicks n ev).lowered = s.lowered ∧
    (s.inTicks n ev).powerNext = s.powerNext ∧
    (s.inTicks n ev).thermalHold = s.thermalHold ∧
    (s.inTicks n ev).thermalAt = s.thermalAt ∧
    (s.inTicks n ev).junction = s.junction ∧
    (s.inTicks n ev).uncore = s.uncore ∧
    (s.inTicks n ev).wear = s.wear ∧
    (s.inTicks n ev).idle = s.idle ∧
    (s.inTicks n ev).metered = s.metered ∧
    (s.inTicks n ev).spent = s.spent ∧
    (s.inTicks n ev).fw = s.fw ∧
    (s.inTicks n ev).bad = s.bad := ⟨rfl, rfl, rfl, rfl, rfl, rfl, rfl, rfl, rfl, rfl, rfl, rfl, rfl, rfl, rfl, rfl, rfl, rfl, rfl, rfl, rfl, rfl, rfl, rfl, rfl, rfl, rfl, rfl, rfl, rfl, rfl, rfl, rfl, rfl, rfl, rfl, rfl, rfl, rfl, rfl, rfl, rfl, rfl, rfl⟩

@[simp] theorem State.inTicks_reads (s : State) (n : Nat) (ev : Instr) :
    (s.inTicks n ev).core = s.core ∧
    (s.inTicks n ev).die = s.die ∧
    (s.inTicks n ev).home = s.home ∧
    (s.inTicks n ev).ctx = s.ctx ∧
    (s.inTicks n ev).wg = s.wg ∧
    (s.inTicks n ev).launch = s.launch := by
  refine ⟨?_, ?_, ?_, ?_, ?_, ?_⟩ <;> funext c <;> simp [State.core, State.die, State.home, State.ctx, State.wg, State.launch]

@[simp] theorem State.inTicks_group (s : State) (n : Nat) (ev : Instr) : (s.inTicks n ev).group = s.group ∧ (s.inTicks n ev).hasGroup = s.hasGroup ∧ (s.inTicks n ev).thread = s.thread := by
  refine ⟨?_, ?_, ?_⟩
  · funext c q; simp [State.group]
  · funext c q; simp [State.hasGroup]
  · funext c q l; simp [State.thread, State.group]

@[simp] theorem State.inCycles_frame (s : State) (core n : Nat) (ev : Instr) :
    (s.inCycles core n ev).agenda = s.agenda ∧
    (s.inCycles core n ev).cur = s.cur ∧
    (s.inCycles core n ev).fresh = s.fresh ∧
    (s.inCycles core n ev).tick = s.tick ∧
    (s.inCycles core n ev).mem = s.mem ∧
    (s.inCycles core n ev).hostMem = s.hostMem ∧
    (s.inCycles core n ev).cores = s.cores ∧
    (s.inCycles core n ev).groups = s.groups ∧
    (s.inCycles core n ev).wgs = s.wgs ∧
    (s.inCycles core n ev).launches = s.launches ∧
    (s.inCycles core n ev).submits = s.submits ∧
    (s.inCycles core n ev).bsets = s.bsets ∧
    (s.inCycles core n ev).dies = s.dies ∧
    (s.inCycles core n ev).homes = s.homes ∧
    (s.inCycles core n ev).ctxs = s.ctxs ∧
    (s.inCycles core n ev).pends = s.pends ∧
    (s.inCycles core n ev).fills = s.fills ∧
    (s.inCycles core n ev).msgs = s.msgs ∧
    (s.inCycles core n ev).invals = s.invals ∧
    (s.inCycles core n ev).homeOps = s.homeOps ∧
    (s.inCycles core n ev).sent = s.sent ∧
    (s.inCycles core n ev).settles = s.settles ∧
    (s.inCycles core n ev).runList = s.runList ∧
    (s.inCycles core n ev).kicks = s.kicks ∧
    (s.inCycles core n ev).windows = s.windows ∧
    (s.inCycles core n ev).msix = s.msix ∧
    (s.inCycles core n ev).mclog = s.mclog ∧
    (s.inCycles core n ev).mcNext = s.mcNext ∧
    (s.inCycles core n ev).evlog = s.evlog ∧
    (s.inCycles core n ev).evLost = s.evLost ∧
    (s.inCycles core n ev).malformed = s.malformed ∧
    (s.inCycles core n ev).corrected = s.corrected ∧
    (s.inCycles core n ev).lowered = s.lowered ∧
    (s.inCycles core n ev).powerNext = s.powerNext ∧
    (s.inCycles core n ev).thermalHold = s.thermalHold ∧
    (s.inCycles core n ev).thermalAt = s.thermalAt ∧
    (s.inCycles core n ev).junction = s.junction ∧
    (s.inCycles core n ev).uncore = s.uncore ∧
    (s.inCycles core n ev).wear = s.wear ∧
    (s.inCycles core n ev).idle = s.idle ∧
    (s.inCycles core n ev).metered = s.metered ∧
    (s.inCycles core n ev).spent = s.spent ∧
    (s.inCycles core n ev).fw = s.fw ∧
    (s.inCycles core n ev).bad = s.bad := ⟨rfl, rfl, rfl, rfl, rfl, rfl, rfl, rfl, rfl, rfl, rfl, rfl, rfl, rfl, rfl, rfl, rfl, rfl, rfl, rfl, rfl, rfl, rfl, rfl, rfl, rfl, rfl, rfl, rfl, rfl, rfl, rfl, rfl, rfl, rfl, rfl, rfl, rfl, rfl, rfl, rfl, rfl, rfl, rfl⟩

@[simp] theorem State.inCycles_reads (s : State) (core n : Nat) (ev : Instr) :
    (s.inCycles core n ev).core = s.core ∧
    (s.inCycles core n ev).die = s.die ∧
    (s.inCycles core n ev).home = s.home ∧
    (s.inCycles core n ev).ctx = s.ctx ∧
    (s.inCycles core n ev).wg = s.wg ∧
    (s.inCycles core n ev).launch = s.launch := by
  refine ⟨?_, ?_, ?_, ?_, ?_, ?_⟩ <;> funext c <;> simp [State.core, State.die, State.home, State.ctx, State.wg, State.launch]

@[simp] theorem State.inCycles_group (s : State) (core n : Nat) (ev : Instr) : (s.inCycles core n ev).group = s.group ∧ (s.inCycles core n ev).hasGroup = s.hasGroup ∧ (s.inCycles core n ev).thread = s.thread := by
  refine ⟨?_, ?_, ?_⟩
  · funext c q; simp [State.group]
  · funext c q; simp [State.hasGroup]
  · funext c q l; simp [State.thread, State.group]

@[simp] theorem State.later_frame (s : State) (ev : Instr) :
    (s.later ev).agenda = s.agenda ∧
    (s.later ev).cur = s.cur ∧
    (s.later ev).tick = s.tick ∧
    (s.later ev).mem = s.mem ∧
    (s.later ev).hostMem = s.hostMem ∧
    (s.later ev).cores = s.cores ∧
    (s.later ev).groups = s.groups ∧
    (s.later ev).wgs = s.wgs ∧
    (s.later ev).launches = s.launches ∧
    (s.later ev).submits = s.submits ∧
    (s.later ev).bsets = s.bsets ∧
    (s.later ev).dies = s.dies ∧
    (s.later ev).homes = s.homes ∧
    (s.later ev).ctxs = s.ctxs ∧
    (s.later ev).pends = s.pends ∧
    (s.later ev).fills = s.fills ∧
    (s.later ev).msgs = s.msgs ∧
    (s.later ev).invals = s.invals ∧
    (s.later ev).homeOps = s.homeOps ∧
    (s.later ev).sent = s.sent ∧
    (s.later ev).settles = s.settles ∧
    (s.later ev).runList = s.runList ∧
    (s.later ev).kicks = s.kicks ∧
    (s.later ev).windows = s.windows ∧
    (s.later ev).msix = s.msix ∧
    (s.later ev).mclog = s.mclog ∧
    (s.later ev).mcNext = s.mcNext ∧
    (s.later ev).evlog = s.evlog ∧
    (s.later ev).evLost = s.evLost ∧
    (s.later ev).malformed = s.malformed ∧
    (s.later ev).corrected = s.corrected ∧
    (s.later ev).lowered = s.lowered ∧
    (s.later ev).powerNext = s.powerNext ∧
    (s.later ev).thermalHold = s.thermalHold ∧
    (s.later ev).thermalAt = s.thermalAt ∧
    (s.later ev).junction = s.junction ∧
    (s.later ev).uncore = s.uncore ∧
    (s.later ev).wear = s.wear ∧
    (s.later ev).idle = s.idle ∧
    (s.later ev).metered = s.metered ∧
    (s.later ev).spent = s.spent ∧
    (s.later ev).fw = s.fw ∧
    (s.later ev).bad = s.bad := ⟨rfl, rfl, rfl, rfl, rfl, rfl, rfl, rfl, rfl, rfl, rfl, rfl, rfl, rfl, rfl, rfl, rfl, rfl, rfl, rfl, rfl, rfl, rfl, rfl, rfl, rfl, rfl, rfl, rfl, rfl, rfl, rfl, rfl, rfl, rfl, rfl, rfl, rfl, rfl, rfl, rfl, rfl, rfl⟩

@[simp] theorem State.later_reads (s : State) (ev : Instr) :
    (s.later ev).core = s.core ∧
    (s.later ev).die = s.die ∧
    (s.later ev).home = s.home ∧
    (s.later ev).ctx = s.ctx ∧
    (s.later ev).wg = s.wg ∧
    (s.later ev).launch = s.launch := by
  refine ⟨?_, ?_, ?_, ?_, ?_, ?_⟩ <;> funext c <;> simp [State.core, State.die, State.home, State.ctx, State.wg, State.launch]

@[simp] theorem State.later_group (s : State) (ev : Instr) : (s.later ev).group = s.group ∧ (s.later ev).hasGroup = s.hasGroup ∧ (s.later ev).thread = s.thread := by
  refine ⟨?_, ?_, ?_⟩
  · funext c q; simp [State.group]
  · funext c q; simp [State.hasGroup]
  · funext c q l; simp [State.thread, State.group]

@[simp] theorem State.again_frame (s : State) (ev : Instr) :
    (s.again ev).agenda = s.agenda ∧
    (s.again ev).cur = s.cur ∧
    (s.again ev).fresh = s.fresh ∧
    (s.again ev).tick = s.tick ∧
    (s.again ev).mem = s.mem ∧
    (s.again ev).hostMem = s.hostMem ∧
    (s.again ev).cores = s.cores ∧
    (s.again ev).groups = s.groups ∧
    (s.again ev).wgs = s.wgs ∧
    (s.again ev).launches = s.launches ∧
    (s.again ev).submits = s.submits ∧
    (s.again ev).bsets = s.bsets ∧
    (s.again ev).dies = s.dies ∧
    (s.again ev).homes = s.homes ∧
    (s.again ev).ctxs = s.ctxs ∧
    (s.again ev).pends = s.pends ∧
    (s.again ev).fills = s.fills ∧
    (s.again ev).msgs = s.msgs ∧
    (s.again ev).invals = s.invals ∧
    (s.again ev).homeOps = s.homeOps ∧
    (s.again ev).sent = s.sent ∧
    (s.again ev).settles = s.settles ∧
    (s.again ev).runList = s.runList ∧
    (s.again ev).kicks = s.kicks ∧
    (s.again ev).windows = s.windows ∧
    (s.again ev).msix = s.msix ∧
    (s.again ev).mclog = s.mclog ∧
    (s.again ev).mcNext = s.mcNext ∧
    (s.again ev).evlog = s.evlog ∧
    (s.again ev).evLost = s.evLost ∧
    (s.again ev).malformed = s.malformed ∧
    (s.again ev).corrected = s.corrected ∧
    (s.again ev).lowered = s.lowered ∧
    (s.again ev).powerNext = s.powerNext ∧
    (s.again ev).thermalHold = s.thermalHold ∧
    (s.again ev).thermalAt = s.thermalAt ∧
    (s.again ev).junction = s.junction ∧
    (s.again ev).uncore = s.uncore ∧
    (s.again ev).wear = s.wear ∧
    (s.again ev).idle = s.idle ∧
    (s.again ev).metered = s.metered ∧
    (s.again ev).spent = s.spent ∧
    (s.again ev).fw = s.fw ∧
    (s.again ev).bad = s.bad := ⟨rfl, rfl, rfl, rfl, rfl, rfl, rfl, rfl, rfl, rfl, rfl, rfl, rfl, rfl, rfl, rfl, rfl, rfl, rfl, rfl, rfl, rfl, rfl, rfl, rfl, rfl, rfl, rfl, rfl, rfl, rfl, rfl, rfl, rfl, rfl, rfl, rfl, rfl, rfl, rfl, rfl, rfl, rfl, rfl⟩

@[simp] theorem State.again_reads (s : State) (ev : Instr) :
    (s.again ev).core = s.core ∧
    (s.again ev).die = s.die ∧
    (s.again ev).home = s.home ∧
    (s.again ev).ctx = s.ctx ∧
    (s.again ev).wg = s.wg ∧
    (s.again ev).launch = s.launch := by
  refine ⟨?_, ?_, ?_, ?_, ?_, ?_⟩ <;> funext c <;> simp [State.core, State.die, State.home, State.ctx, State.wg, State.launch]

@[simp] theorem State.again_group (s : State) (ev : Instr) : (s.again ev).group = s.group ∧ (s.again ev).hasGroup = s.hasGroup ∧ (s.again ev).thread = s.thread := by
  refine ⟨?_, ?_, ?_⟩
  · funext c q; simp [State.group]
  · funext c q; simp [State.hasGroup]
  · funext c q l; simp [State.thread, State.group]

@[simp] theorem State.now_frame (s : State) (ev : Instr) :
    (s.now ev).timers = s.timers ∧
    (s.now ev).cur = s.cur ∧
    (s.now ev).fresh = s.fresh ∧
    (s.now ev).tick = s.tick ∧
    (s.now ev).mem = s.mem ∧
    (s.now ev).hostMem = s.hostMem ∧
    (s.now ev).cores = s.cores ∧
    (s.now ev).groups = s.groups ∧
    (s.now ev).wgs = s.wgs ∧
    (s.now ev).launches = s.launches ∧
    (s.now ev).submits = s.submits ∧
    (s.now ev).bsets = s.bsets ∧
    (s.now ev).dies = s.dies ∧
    (s.now ev).homes = s.homes ∧
    (s.now ev).ctxs = s.ctxs ∧
    (s.now ev).pends = s.pends ∧
    (s.now ev).fills = s.fills ∧
    (s.now ev).msgs = s.msgs ∧
    (s.now ev).invals = s.invals ∧
    (s.now ev).homeOps = s.homeOps ∧
    (s.now ev).sent = s.sent ∧
    (s.now ev).settles = s.settles ∧
    (s.now ev).runList = s.runList ∧
    (s.now ev).kicks = s.kicks ∧
    (s.now ev).windows = s.windows ∧
    (s.now ev).msix = s.msix ∧
    (s.now ev).mclog = s.mclog ∧
    (s.now ev).mcNext = s.mcNext ∧
    (s.now ev).evlog = s.evlog ∧
    (s.now ev).evLost = s.evLost ∧
    (s.now ev).malformed = s.malformed ∧
    (s.now ev).corrected = s.corrected ∧
    (s.now ev).lowered = s.lowered ∧
    (s.now ev).powerNext = s.powerNext ∧
    (s.now ev).thermalHold = s.thermalHold ∧
    (s.now ev).thermalAt = s.thermalAt ∧
    (s.now ev).junction = s.junction ∧
    (s.now ev).uncore = s.uncore ∧
    (s.now ev).wear = s.wear ∧
    (s.now ev).idle = s.idle ∧
    (s.now ev).metered = s.metered ∧
    (s.now ev).spent = s.spent ∧
    (s.now ev).fw = s.fw ∧
    (s.now ev).bad = s.bad := ⟨rfl, rfl, rfl, rfl, rfl, rfl, rfl, rfl, rfl, rfl, rfl, rfl, rfl, rfl, rfl, rfl, rfl, rfl, rfl, rfl, rfl, rfl, rfl, rfl, rfl, rfl, rfl, rfl, rfl, rfl, rfl, rfl, rfl, rfl, rfl, rfl, rfl, rfl, rfl, rfl, rfl, rfl, rfl, rfl⟩

@[simp] theorem State.now_reads (s : State) (ev : Instr) :
    (s.now ev).core = s.core ∧
    (s.now ev).die = s.die ∧
    (s.now ev).home = s.home ∧
    (s.now ev).ctx = s.ctx ∧
    (s.now ev).wg = s.wg ∧
    (s.now ev).launch = s.launch := by
  refine ⟨?_, ?_, ?_, ?_, ?_, ?_⟩ <;> funext c <;> simp [State.core, State.die, State.home, State.ctx, State.wg, State.launch]

@[simp] theorem State.now_group (s : State) (ev : Instr) : (s.now ev).group = s.group ∧ (s.now ev).hasGroup = s.hasGroup ∧ (s.now ev).thread = s.thread := by
  refine ⟨?_, ?_, ?_⟩
  · funext c q; simp [State.group]
  · funext c q; simp [State.hasGroup]
  · funext c q l; simp [State.thread, State.group]

@[simp] theorem State.carry_frame (s : State) (l : List Nat) :
    (s.carry l).agenda = s.agenda ∧
    (s.carry l).timers = s.timers ∧
    (s.carry l).fresh = s.fresh ∧
    (s.carry l).tick = s.tick ∧
    (s.carry l).mem = s.mem ∧
    (s.carry l).hostMem = s.hostMem ∧
    (s.carry l).cores = s.cores ∧
    (s.carry l).groups = s.groups ∧
    (s.carry l).wgs = s.wgs ∧
    (s.carry l).launches = s.launches ∧
    (s.carry l).submits = s.submits ∧
    (s.carry l).bsets = s.bsets ∧
    (s.carry l).dies = s.dies ∧
    (s.carry l).homes = s.homes ∧
    (s.carry l).ctxs = s.ctxs ∧
    (s.carry l).pends = s.pends ∧
    (s.carry l).fills = s.fills ∧
    (s.carry l).msgs = s.msgs ∧
    (s.carry l).invals = s.invals ∧
    (s.carry l).homeOps = s.homeOps ∧
    (s.carry l).sent = s.sent ∧
    (s.carry l).settles = s.settles ∧
    (s.carry l).runList = s.runList ∧
    (s.carry l).kicks = s.kicks ∧
    (s.carry l).windows = s.windows ∧
    (s.carry l).msix = s.msix ∧
    (s.carry l).mclog = s.mclog ∧
    (s.carry l).mcNext = s.mcNext ∧
    (s.carry l).evlog = s.evlog ∧
    (s.carry l).evLost = s.evLost ∧
    (s.carry l).malformed = s.malformed ∧
    (s.carry l).corrected = s.corrected ∧
    (s.carry l).lowered = s.lowered ∧
    (s.carry l).powerNext = s.powerNext ∧
    (s.carry l).thermalHold = s.thermalHold ∧
    (s.carry l).thermalAt = s.thermalAt ∧
    (s.carry l).junction = s.junction ∧
    (s.carry l).uncore = s.uncore ∧
    (s.carry l).wear = s.wear ∧
    (s.carry l).idle = s.idle ∧
    (s.carry l).metered = s.metered ∧
    (s.carry l).spent = s.spent ∧
    (s.carry l).fw = s.fw ∧
    (s.carry l).bad = s.bad := ⟨rfl, rfl, rfl, rfl, rfl, rfl, rfl, rfl, rfl, rfl, rfl, rfl, rfl, rfl, rfl, rfl, rfl, rfl, rfl, rfl, rfl, rfl, rfl, rfl, rfl, rfl, rfl, rfl, rfl, rfl, rfl, rfl, rfl, rfl, rfl, rfl, rfl, rfl, rfl, rfl, rfl, rfl, rfl, rfl⟩

@[simp] theorem State.carry_reads (s : State) (l : List Nat) :
    (s.carry l).core = s.core ∧
    (s.carry l).die = s.die ∧
    (s.carry l).home = s.home ∧
    (s.carry l).ctx = s.ctx ∧
    (s.carry l).wg = s.wg ∧
    (s.carry l).launch = s.launch := by
  refine ⟨?_, ?_, ?_, ?_, ?_, ?_⟩ <;> funext c <;> simp [State.core, State.die, State.home, State.ctx, State.wg, State.launch]

@[simp] theorem State.carry_group (s : State) (l : List Nat) : (s.carry l).group = s.group ∧ (s.carry l).hasGroup = s.hasGroup ∧ (s.carry l).thread = s.thread := by
  refine ⟨?_, ?_, ?_⟩
  · funext c q; simp [State.group]
  · funext c q; simp [State.hasGroup]
  · funext c q l; simp [State.thread, State.group]

@[simp] theorem State.noteBad_frame (s : State) (ctx level va : Nat) :
    (s.noteBad ctx level va).agenda = s.agenda ∧
    (s.noteBad ctx level va).timers = s.timers ∧
    (s.noteBad ctx level va).cur = s.cur ∧
    (s.noteBad ctx level va).fresh = s.fresh ∧
    (s.noteBad ctx level va).tick = s.tick ∧
    (s.noteBad ctx level va).mem = s.mem ∧
    (s.noteBad ctx level va).hostMem = s.hostMem ∧
    (s.noteBad ctx level va).cores = s.cores ∧
    (s.noteBad ctx level va).groups = s.groups ∧
    (s.noteBad ctx level va).wgs = s.wgs ∧
    (s.noteBad ctx level va).launches = s.launches ∧
    (s.noteBad ctx level va).submits = s.submits ∧
    (s.noteBad ctx level va).bsets = s.bsets ∧
    (s.noteBad ctx level va).dies = s.dies ∧
    (s.noteBad ctx level va).homes = s.homes ∧
    (s.noteBad ctx level va).ctxs = s.ctxs ∧
    (s.noteBad ctx level va).pends = s.pends ∧
    (s.noteBad ctx level va).fills = s.fills ∧
    (s.noteBad ctx level va).msgs = s.msgs ∧
    (s.noteBad ctx level va).invals = s.invals ∧
    (s.noteBad ctx level va).homeOps = s.homeOps ∧
    (s.noteBad ctx level va).sent = s.sent ∧
    (s.noteBad ctx level va).settles = s.settles ∧
    (s.noteBad ctx level va).runList = s.runList ∧
    (s.noteBad ctx level va).kicks = s.kicks ∧
    (s.noteBad ctx level va).windows = s.windows ∧
    (s.noteBad ctx level va).msix = s.msix ∧
    (s.noteBad ctx level va).mclog = s.mclog ∧
    (s.noteBad ctx level va).mcNext = s.mcNext ∧
    (s.noteBad ctx level va).evlog = s.evlog ∧
    (s.noteBad ctx level va).evLost = s.evLost ∧
    (s.noteBad ctx level va).corrected = s.corrected ∧
    (s.noteBad ctx level va).lowered = s.lowered ∧
    (s.noteBad ctx level va).powerNext = s.powerNext ∧
    (s.noteBad ctx level va).thermalHold = s.thermalHold ∧
    (s.noteBad ctx level va).thermalAt = s.thermalAt ∧
    (s.noteBad ctx level va).junction = s.junction ∧
    (s.noteBad ctx level va).uncore = s.uncore ∧
    (s.noteBad ctx level va).wear = s.wear ∧
    (s.noteBad ctx level va).idle = s.idle ∧
    (s.noteBad ctx level va).metered = s.metered ∧
    (s.noteBad ctx level va).spent = s.spent ∧
    (s.noteBad ctx level va).fw = s.fw ∧
    (s.noteBad ctx level va).bad = s.bad := ⟨rfl, rfl, rfl, rfl, rfl, rfl, rfl, rfl, rfl, rfl, rfl, rfl, rfl, rfl, rfl, rfl, rfl, rfl, rfl, rfl, rfl, rfl, rfl, rfl, rfl, rfl, rfl, rfl, rfl, rfl, rfl, rfl, rfl, rfl, rfl, rfl, rfl, rfl, rfl, rfl, rfl, rfl, rfl, rfl⟩

@[simp] theorem State.noteBad_reads (s : State) (ctx level va : Nat) :
    (s.noteBad ctx level va).core = s.core ∧
    (s.noteBad ctx level va).die = s.die ∧
    (s.noteBad ctx level va).home = s.home ∧
    (s.noteBad ctx level va).ctx = s.ctx ∧
    (s.noteBad ctx level va).wg = s.wg ∧
    (s.noteBad ctx level va).launch = s.launch := by
  refine ⟨?_, ?_, ?_, ?_, ?_, ?_⟩ <;> funext c <;> simp [State.core, State.die, State.home, State.ctx, State.wg, State.launch]

@[simp] theorem State.noteBad_group (s : State) (ctx level va : Nat) : (s.noteBad ctx level va).group = s.group ∧ (s.noteBad ctx level va).hasGroup = s.hasGroup ∧ (s.noteBad ctx level va).thread = s.thread := by
  refine ⟨?_, ?_, ?_⟩
  · funext c q; simp [State.group]
  · funext c q; simp [State.hasGroup]
  · funext c q l; simp [State.thread, State.group]

@[simp] theorem State.machineCheck_frame (s : State) (unit flags index loc ctx : Nat) :
    (s.machineCheck unit flags index loc ctx).agenda = s.agenda ∧
    (s.machineCheck unit flags index loc ctx).timers = s.timers ∧
    (s.machineCheck unit flags index loc ctx).cur = s.cur ∧
    (s.machineCheck unit flags index loc ctx).fresh = s.fresh ∧
    (s.machineCheck unit flags index loc ctx).tick = s.tick ∧
    (s.machineCheck unit flags index loc ctx).mem = s.mem ∧
    (s.machineCheck unit flags index loc ctx).hostMem = s.hostMem ∧
    (s.machineCheck unit flags index loc ctx).cores = s.cores ∧
    (s.machineCheck unit flags index loc ctx).groups = s.groups ∧
    (s.machineCheck unit flags index loc ctx).wgs = s.wgs ∧
    (s.machineCheck unit flags index loc ctx).launches = s.launches ∧
    (s.machineCheck unit flags index loc ctx).submits = s.submits ∧
    (s.machineCheck unit flags index loc ctx).bsets = s.bsets ∧
    (s.machineCheck unit flags index loc ctx).dies = s.dies ∧
    (s.machineCheck unit flags index loc ctx).homes = s.homes ∧
    (s.machineCheck unit flags index loc ctx).ctxs = s.ctxs ∧
    (s.machineCheck unit flags index loc ctx).pends = s.pends ∧
    (s.machineCheck unit flags index loc ctx).fills = s.fills ∧
    (s.machineCheck unit flags index loc ctx).msgs = s.msgs ∧
    (s.machineCheck unit flags index loc ctx).invals = s.invals ∧
    (s.machineCheck unit flags index loc ctx).homeOps = s.homeOps ∧
    (s.machineCheck unit flags index loc ctx).sent = s.sent ∧
    (s.machineCheck unit flags index loc ctx).settles = s.settles ∧
    (s.machineCheck unit flags index loc ctx).runList = s.runList ∧
    (s.machineCheck unit flags index loc ctx).kicks = s.kicks ∧
    (s.machineCheck unit flags index loc ctx).windows = s.windows ∧
    (s.machineCheck unit flags index loc ctx).msix = s.msix ∧
    (s.machineCheck unit flags index loc ctx).evlog = s.evlog ∧
    (s.machineCheck unit flags index loc ctx).evLost = s.evLost ∧
    (s.machineCheck unit flags index loc ctx).malformed = s.malformed ∧
    (s.machineCheck unit flags index loc ctx).corrected = s.corrected ∧
    (s.machineCheck unit flags index loc ctx).lowered = s.lowered ∧
    (s.machineCheck unit flags index loc ctx).powerNext = s.powerNext ∧
    (s.machineCheck unit flags index loc ctx).thermalHold = s.thermalHold ∧
    (s.machineCheck unit flags index loc ctx).thermalAt = s.thermalAt ∧
    (s.machineCheck unit flags index loc ctx).junction = s.junction ∧
    (s.machineCheck unit flags index loc ctx).uncore = s.uncore ∧
    (s.machineCheck unit flags index loc ctx).wear = s.wear ∧
    (s.machineCheck unit flags index loc ctx).idle = s.idle ∧
    (s.machineCheck unit flags index loc ctx).metered = s.metered ∧
    (s.machineCheck unit flags index loc ctx).spent = s.spent ∧
    (s.machineCheck unit flags index loc ctx).fw = s.fw ∧
    (s.machineCheck unit flags index loc ctx).bad = s.bad := ⟨rfl, rfl, rfl, rfl, rfl, rfl, rfl, rfl, rfl, rfl, rfl, rfl, rfl, rfl, rfl, rfl, rfl, rfl, rfl, rfl, rfl, rfl, rfl, rfl, rfl, rfl, rfl, rfl, rfl, rfl, rfl, rfl, rfl, rfl, rfl, rfl, rfl, rfl, rfl, rfl, rfl, rfl, rfl⟩

@[simp] theorem State.machineCheck_reads (s : State) (unit flags index loc ctx : Nat) :
    (s.machineCheck unit flags index loc ctx).core = s.core ∧
    (s.machineCheck unit flags index loc ctx).die = s.die ∧
    (s.machineCheck unit flags index loc ctx).home = s.home ∧
    (s.machineCheck unit flags index loc ctx).ctx = s.ctx ∧
    (s.machineCheck unit flags index loc ctx).wg = s.wg ∧
    (s.machineCheck unit flags index loc ctx).launch = s.launch := by
  refine ⟨?_, ?_, ?_, ?_, ?_, ?_⟩ <;> funext c <;> simp [State.core, State.die, State.home, State.ctx, State.wg, State.launch]

@[simp] theorem State.machineCheck_group (s : State) (unit flags index loc ctx : Nat) : (s.machineCheck unit flags index loc ctx).group = s.group ∧ (s.machineCheck unit flags index loc ctx).hasGroup = s.hasGroup ∧ (s.machineCheck unit flags index loc ctx).thread = s.thread := by
  refine ⟨?_, ?_, ?_⟩
  · funext c q; simp [State.group]
  · funext c q; simp [State.hasGroup]
  · funext c q l; simp [State.thread, State.group]

@[simp] theorem State.mend_frame (s : State) (p : Bad → Bool) :
    (s.mend p).agenda = s.agenda ∧
    (s.mend p).timers = s.timers ∧
    (s.mend p).cur = s.cur ∧
    (s.mend p).fresh = s.fresh ∧
    (s.mend p).tick = s.tick ∧
    (s.mend p).mem = s.mem ∧
    (s.mend p).hostMem = s.hostMem ∧
    (s.mend p).cores = s.cores ∧
    (s.mend p).groups = s.groups ∧
    (s.mend p).wgs = s.wgs ∧
    (s.mend p).launches = s.launches ∧
    (s.mend p).submits = s.submits ∧
    (s.mend p).bsets = s.bsets ∧
    (s.mend p).dies = s.dies ∧
    (s.mend p).homes = s.homes ∧
    (s.mend p).ctxs = s.ctxs ∧
    (s.mend p).pends = s.pends ∧
    (s.mend p).fills = s.fills ∧
    (s.mend p).msgs = s.msgs ∧
    (s.mend p).invals = s.invals ∧
    (s.mend p).homeOps = s.homeOps ∧
    (s.mend p).sent = s.sent ∧
    (s.mend p).settles = s.settles ∧
    (s.mend p).runList = s.runList ∧
    (s.mend p).kicks = s.kicks ∧
    (s.mend p).windows = s.windows ∧
    (s.mend p).msix = s.msix ∧
    (s.mend p).mclog = s.mclog ∧
    (s.mend p).mcNext = s.mcNext ∧
    (s.mend p).evlog = s.evlog ∧
    (s.mend p).evLost = s.evLost ∧
    (s.mend p).malformed = s.malformed ∧
    (s.mend p).corrected = s.corrected ∧
    (s.mend p).lowered = s.lowered ∧
    (s.mend p).powerNext = s.powerNext ∧
    (s.mend p).thermalHold = s.thermalHold ∧
    (s.mend p).thermalAt = s.thermalAt ∧
    (s.mend p).junction = s.junction ∧
    (s.mend p).uncore = s.uncore ∧
    (s.mend p).wear = s.wear ∧
    (s.mend p).idle = s.idle ∧
    (s.mend p).metered = s.metered ∧
    (s.mend p).spent = s.spent ∧
    (s.mend p).fw = s.fw := ⟨rfl, rfl, rfl, rfl, rfl, rfl, rfl, rfl, rfl, rfl, rfl, rfl, rfl, rfl, rfl, rfl, rfl, rfl, rfl, rfl, rfl, rfl, rfl, rfl, rfl, rfl, rfl, rfl, rfl, rfl, rfl, rfl, rfl, rfl, rfl, rfl, rfl, rfl, rfl, rfl, rfl, rfl, rfl, rfl⟩

@[simp] theorem State.mend_reads (s : State) (p : Bad → Bool) :
    (s.mend p).core = s.core ∧
    (s.mend p).die = s.die ∧
    (s.mend p).home = s.home ∧
    (s.mend p).ctx = s.ctx ∧
    (s.mend p).wg = s.wg ∧
    (s.mend p).launch = s.launch := by
  refine ⟨?_, ?_, ?_, ?_, ?_, ?_⟩ <;> funext c <;> simp [State.core, State.die, State.home, State.ctx, State.wg, State.launch]

@[simp] theorem State.mend_group (s : State) (p : Bad → Bool) : (s.mend p).group = s.group ∧ (s.mend p).hasGroup = s.hasGroup ∧ (s.mend p).thread = s.thread := by
  refine ⟨?_, ?_, ?_⟩
  · funext c q; simp [State.group]
  · funext c q; simp [State.hasGroup]
  · funext c q l; simp [State.thread, State.group]

@[simp] theorem State.addPend_frame (s : State) (p : Pend) :
    (s.addPend p).agenda = s.agenda ∧
    (s.addPend p).timers = s.timers ∧
    (s.addPend p).cur = s.cur ∧
    (s.addPend p).tick = s.tick ∧
    (s.addPend p).mem = s.mem ∧
    (s.addPend p).hostMem = s.hostMem ∧
    (s.addPend p).cores = s.cores ∧
    (s.addPend p).groups = s.groups ∧
    (s.addPend p).wgs = s.wgs ∧
    (s.addPend p).launches = s.launches ∧
    (s.addPend p).submits = s.submits ∧
    (s.addPend p).bsets = s.bsets ∧
    (s.addPend p).dies = s.dies ∧
    (s.addPend p).homes = s.homes ∧
    (s.addPend p).ctxs = s.ctxs ∧
    (s.addPend p).fills = s.fills ∧
    (s.addPend p).msgs = s.msgs ∧
    (s.addPend p).invals = s.invals ∧
    (s.addPend p).homeOps = s.homeOps ∧
    (s.addPend p).sent = s.sent ∧
    (s.addPend p).settles = s.settles ∧
    (s.addPend p).runList = s.runList ∧
    (s.addPend p).kicks = s.kicks ∧
    (s.addPend p).windows = s.windows ∧
    (s.addPend p).msix = s.msix ∧
    (s.addPend p).mclog = s.mclog ∧
    (s.addPend p).mcNext = s.mcNext ∧
    (s.addPend p).evlog = s.evlog ∧
    (s.addPend p).evLost = s.evLost ∧
    (s.addPend p).malformed = s.malformed ∧
    (s.addPend p).corrected = s.corrected ∧
    (s.addPend p).lowered = s.lowered ∧
    (s.addPend p).powerNext = s.powerNext ∧
    (s.addPend p).thermalHold = s.thermalHold ∧
    (s.addPend p).thermalAt = s.thermalAt ∧
    (s.addPend p).junction = s.junction ∧
    (s.addPend p).uncore = s.uncore ∧
    (s.addPend p).wear = s.wear ∧
    (s.addPend p).idle = s.idle ∧
    (s.addPend p).metered = s.metered ∧
    (s.addPend p).spent = s.spent ∧
    (s.addPend p).fw = s.fw ∧
    (s.addPend p).bad = s.bad := ⟨rfl, rfl, rfl, rfl, rfl, rfl, rfl, rfl, rfl, rfl, rfl, rfl, rfl, rfl, rfl, rfl, rfl, rfl, rfl, rfl, rfl, rfl, rfl, rfl, rfl, rfl, rfl, rfl, rfl, rfl, rfl, rfl, rfl, rfl, rfl, rfl, rfl, rfl, rfl, rfl, rfl, rfl, rfl⟩

@[simp] theorem State.addPend_reads (s : State) (p : Pend) :
    (s.addPend p).core = s.core ∧
    (s.addPend p).die = s.die ∧
    (s.addPend p).home = s.home ∧
    (s.addPend p).ctx = s.ctx ∧
    (s.addPend p).wg = s.wg ∧
    (s.addPend p).launch = s.launch := by
  refine ⟨?_, ?_, ?_, ?_, ?_, ?_⟩ <;> funext c <;> simp [State.core, State.die, State.home, State.ctx, State.wg, State.launch]

@[simp] theorem State.addPend_group (s : State) (p : Pend) : (s.addPend p).group = s.group ∧ (s.addPend p).hasGroup = s.hasGroup ∧ (s.addPend p).thread = s.thread := by
  refine ⟨?_, ?_, ?_⟩
  · funext c q; simp [State.group]
  · funext c q; simp [State.hasGroup]
  · funext c q l; simp [State.thread, State.group]

@[simp] theorem State.pendFixed_frame (s : State) (n : Nat) (p : Pend) :
    (s.pendFixed n p).agenda = s.agenda ∧
    (s.pendFixed n p).cur = s.cur ∧
    (s.pendFixed n p).tick = s.tick ∧
    (s.pendFixed n p).mem = s.mem ∧
    (s.pendFixed n p).hostMem = s.hostMem ∧
    (s.pendFixed n p).cores = s.cores ∧
    (s.pendFixed n p).groups = s.groups ∧
    (s.pendFixed n p).wgs = s.wgs ∧
    (s.pendFixed n p).launches = s.launches ∧
    (s.pendFixed n p).submits = s.submits ∧
    (s.pendFixed n p).bsets = s.bsets ∧
    (s.pendFixed n p).dies = s.dies ∧
    (s.pendFixed n p).homes = s.homes ∧
    (s.pendFixed n p).ctxs = s.ctxs ∧
    (s.pendFixed n p).fills = s.fills ∧
    (s.pendFixed n p).msgs = s.msgs ∧
    (s.pendFixed n p).invals = s.invals ∧
    (s.pendFixed n p).homeOps = s.homeOps ∧
    (s.pendFixed n p).sent = s.sent ∧
    (s.pendFixed n p).settles = s.settles ∧
    (s.pendFixed n p).runList = s.runList ∧
    (s.pendFixed n p).kicks = s.kicks ∧
    (s.pendFixed n p).windows = s.windows ∧
    (s.pendFixed n p).msix = s.msix ∧
    (s.pendFixed n p).mclog = s.mclog ∧
    (s.pendFixed n p).mcNext = s.mcNext ∧
    (s.pendFixed n p).evlog = s.evlog ∧
    (s.pendFixed n p).evLost = s.evLost ∧
    (s.pendFixed n p).malformed = s.malformed ∧
    (s.pendFixed n p).corrected = s.corrected ∧
    (s.pendFixed n p).lowered = s.lowered ∧
    (s.pendFixed n p).powerNext = s.powerNext ∧
    (s.pendFixed n p).thermalHold = s.thermalHold ∧
    (s.pendFixed n p).thermalAt = s.thermalAt ∧
    (s.pendFixed n p).junction = s.junction ∧
    (s.pendFixed n p).uncore = s.uncore ∧
    (s.pendFixed n p).wear = s.wear ∧
    (s.pendFixed n p).idle = s.idle ∧
    (s.pendFixed n p).metered = s.metered ∧
    (s.pendFixed n p).spent = s.spent ∧
    (s.pendFixed n p).fw = s.fw ∧
    (s.pendFixed n p).bad = s.bad := ⟨rfl, rfl, rfl, rfl, rfl, rfl, rfl, rfl, rfl, rfl, rfl, rfl, rfl, rfl, rfl, rfl, rfl, rfl, rfl, rfl, rfl, rfl, rfl, rfl, rfl, rfl, rfl, rfl, rfl, rfl, rfl, rfl, rfl, rfl, rfl, rfl, rfl, rfl, rfl, rfl, rfl, rfl⟩

@[simp] theorem State.pendFixed_reads (s : State) (n : Nat) (p : Pend) :
    (s.pendFixed n p).core = s.core ∧
    (s.pendFixed n p).die = s.die ∧
    (s.pendFixed n p).home = s.home ∧
    (s.pendFixed n p).ctx = s.ctx ∧
    (s.pendFixed n p).wg = s.wg ∧
    (s.pendFixed n p).launch = s.launch := by
  refine ⟨?_, ?_, ?_, ?_, ?_, ?_⟩ <;> funext c <;> simp [State.core, State.die, State.home, State.ctx, State.wg, State.launch]

@[simp] theorem State.pendFixed_group (s : State) (n : Nat) (p : Pend) : (s.pendFixed n p).group = s.group ∧ (s.pendFixed n p).hasGroup = s.hasGroup ∧ (s.pendFixed n p).thread = s.thread := by
  refine ⟨?_, ?_, ?_⟩
  · funext c q; simp [State.group]
  · funext c q; simp [State.hasGroup]
  · funext c q l; simp [State.thread, State.group]

@[simp] theorem State.modCore_self (s : State) (k : Nat) (f : Core → Core) : (s.modCore k f).core k = f (s.core k) := by
  simp [State.modCore, State.core, State.setCore, tblGet_tblPut_self]

theorem State.modCore_other (s : State) {k j : Nat} (f : Core → Core) (h : j ≠ k) : (s.modCore k f).core j = s.core j := by
  simp [State.modCore, State.core, State.setCore, tblGet_tblPut_other _ _ _ h]

@[simp] theorem State.modDie_self (s : State) (k : Nat) (f : Die → Die) : (s.modDie k f).die k = f (s.die k) := by
  simp [State.modDie, State.die, tblGet_tblPut_self]

theorem State.modDie_other (s : State) {k j : Nat} (f : Die → Die) (h : j ≠ k) : (s.modDie k f).die j = s.die j := by
  simp [State.modDie, State.die, tblGet_tblPut_other _ _ _ h]

@[simp] theorem State.modHome_self (s : State) (k : Nat) (f : Home → Home) : (s.modHome k f).home k = f (s.home k) := by
  simp [State.modHome, State.home, tblGet_tblPut_self]

theorem State.modHome_other (s : State) {k j : Nat} (f : Home → Home) (h : j ≠ k) : (s.modHome k f).home j = s.home j := by
  simp [State.modHome, State.home, tblGet_tblPut_other _ _ _ h]

@[simp] theorem State.modCtx_self (s : State) (k : Nat) (f : Ctx → Ctx) : (s.modCtx k f).ctx k = f (s.ctx k) := by
  simp [State.modCtx, State.ctx, tblGet_tblPut_self]

theorem State.modCtx_other (s : State) {k j : Nat} (f : Ctx → Ctx) (h : j ≠ k) : (s.modCtx k f).ctx j = s.ctx j := by
  simp [State.modCtx, State.ctx, tblGet_tblPut_other _ _ _ h]

@[simp] theorem State.modWg_self (s : State) (k : Nat) (f : Workgroup → Workgroup) : (s.modWg k f).wg k = f (s.wg k) := by
  simp [State.modWg, State.wg, tblGet_tblPut_self]

theorem State.modWg_other (s : State) {k j : Nat} (f : Workgroup → Workgroup) (h : j ≠ k) : (s.modWg k f).wg j = s.wg j := by
  simp [State.modWg, State.wg, tblGet_tblPut_other _ _ _ h]

@[simp] theorem State.modLaunch_self (s : State) (k : Nat) (f : Launch → Launch) : (s.modLaunch k f).launch k = f (s.launch k) := by
  simp [State.modLaunch, State.launch, tblGet_tblPut_self]

theorem State.modLaunch_other (s : State) {k j : Nat} (f : Launch → Launch) (h : j ≠ k) : (s.modLaunch k f).launch j = s.launch j := by
  simp [State.modLaunch, State.launch, tblGet_tblPut_other _ _ _ h]

@[simp] theorem State.setGroup_self (s : State) (core slot : Nat) (g : Group) : (s.setGroup core slot g).group core slot = g := by
  simp [State.setGroup, State.group, tblGet_tblPut_self]

@[simp] theorem State.setGroup_present (s : State) (core slot : Nat) (g : Group) : (s.setGroup core slot g).hasGroup core slot = true := by
  simp [State.setGroup, State.hasGroup, tblFind_tblPut_self]

theorem State.setGroup_other (s : State) {core slot c q : Nat} (g : Group) (h : gkey c q ≠ gkey core slot) :
    (s.setGroup core slot g).group c q = s.group c q := by
  simp [State.setGroup, State.group, tblGet_tblPut_other _ _ _ h]

theorem State.setGroup_presentOther (s : State) {core slot c q : Nat} (g : Group) (h : gkey c q ≠ gkey core slot) :
    (s.setGroup core slot g).hasGroup c q = s.hasGroup c q := by
  simp [State.setGroup, State.hasGroup, tblFind_tblPut_other _ _ h]

/-- A present group is changed by f. -/
theorem State.modGroup_self (s : State) {core slot : Nat} (f : Group → Group) (h : s.hasGroup core slot = true) :
    (s.modGroup core slot f).group core slot = f (s.group core slot) := by
  simp [State.modGroup, h]

/-- No other group is. -/
theorem State.modGroup_other (s : State) {core slot c q : Nat} (f : Group → Group) (h : gkey c q ≠ gkey core slot) :
    (s.modGroup core slot f).group c q = s.group c q := by
  unfold State.modGroup
  split
  · exact s.setGroup_other _ h
  · rfl

/-- An update of a group adds and removes none. -/
@[simp] theorem State.modGroup_present (s : State) (core slot c q : Nat) (f : Group → Group) :
    (s.modGroup core slot f).hasGroup c q = s.hasGroup c q := by
  unfold State.modGroup
  split
  · rename_i h
    by_cases e : gkey c q = gkey core slot
    · have h2 : s.hasGroup c q = true := by simpa [State.hasGroup, e] using h
      simp [State.setGroup, State.hasGroup, e, tblFind_tblPut_self]
      simpa [State.hasGroup, e] using h2
    · exact s.setGroup_presentOther _ e
  · rfl

theorem State.group_absent (s : State) {core slot : Nat} (h : s.hasGroup core slot = false) : s.group core slot = {} := by
  simp only [State.hasGroup, Option.isSome_eq_false_iff, Option.isNone_iff_eq_none] at h
  simp [State.group, tblGet, h]

@[simp] theorem Group.modLanes_thread (g : Group) (m : BitVec 32) (f : Nat → Thread → Thread) (l : Nat) (h : l < g.threads.length) :
    (g.modLanes m f).thread l = if m.getLsbD l then f l (g.thread l) else g.thread l := by
  simp [Group.modLanes, Group.thread, List.getD_eq_getElem?_getD, h]

theorem lanesOf_nodup (m : BitVec 32) : (lanesOf m).Nodup := List.nodup_range.filter _

theorem mem_lanesOf {m : BitVec 32} {l : Nat} : l ∈ lanesOf m ↔ m.getLsbD l = true := by
  simp only [lanesOf, List.mem_filter, List.mem_range, and_iff_right_iff_imp]
  intro h
  exact BitVec.lt_of_getLsbD h

@[simp] theorem lanesOf_zero : lanesOf 0 = [] := by decide

end Sys2Proof.Machine
end

