-- ==== Sys2Proof/Laws/KeepCore.lean ====
section
/-! SUPPORT. What each operation does to memory and host memory, over the shared operations, fetch, control, caches, memory and ordering: nothing, or a write in the canonical
form. Each lemma says it of one operation whole. -/

namespace Sys2Proof.Machine

/-! ### What keeps memory: general forms -/

@[simp] theorem ite_fst_mem {β : Type} (c : Prop) [Decidable c] (a b : State × β) :
    (if c then a else b).1.mem = if c then a.1.mem else b.1.mem := by split <;> rfl

@[simp] theorem ite_fst_hostMem {β : Type} (c : Prop) [Decidable c] (a b : State × β) :
    (if c then a else b).1.hostMem = if c then a.1.hostMem else b.1.hostMem := by split <;> rfl

@[simp] theorem ite_snd_mem {β : Type} (c : Prop) [Decidable c] (a b : β × State) :
    (if c then a else b).2.mem = if c then a.2.mem else b.2.mem := by split <;> rfl

@[simp] theorem ite_snd_hostMem {β : Type} (c : Prop) [Decidable c] (a b : β × State) :
    (if c then a else b).2.hostMem = if c then a.2.hostMem else b.2.hostMem := by split <;> rfl

@[simp] theorem ite_mem (c : Prop) [Decidable c] (a b : State) : (if c then a else b).mem = if c then a.mem else b.mem := by split <;> rfl

@[simp] theorem ite_hostMem (c : Prop) [Decidable c] (a b : State) : (if c then a else b).hostMem = if c then a.hostMem else b.hostMem := by
  split <;> rfl

@[simp] theorem foldl_mem {α : Type} {f : State → α → State} (hf : ∀ s a, (f s a).mem = s.mem) (l : List α) (s : State) :
    (l.foldl f s).mem = s.mem := by
  induction l generalizing s with
  | nil => rfl
  | cons a r ih => exact (ih (f s a)).trans (hf s a)

@[simp] theorem foldl_hostMem {α : Type} {f : State → α → State} (hf : ∀ s a, (f s a).hostMem = s.hostMem) (l : List α) (s : State) :
    (l.foldl f s).hostMem = s.hostMem := by
  induction l generalizing s with
  | nil => rfl
  | cons a r ih => exact (ih (f s a)).trans (hf s a)

theorem foldl_wf {α : Type} {f : State → α → State} (hf : ∀ s a, Memory.wf s.mem = true → Memory.wf (f s a).mem = true) (l : List α)
    (s : State) (h : Memory.wf s.mem = true) : Memory.wf (l.foldl f s).mem = true := by
  induction l generalizing s with
  | nil => exact h
  | cons a r ih => exact ih (f s a) (hf s a h)

@[simp] theorem foldl_fst_mem {α β : Type} {f : State × β → α → State × β} (hf : ∀ s a, (f s a).1.mem = s.1.mem) (l : List α)
    (s : State × β) : (l.foldl f s).1.mem = s.1.mem := by
  induction l generalizing s with
  | nil => rfl
  | cons a r ih => exact (ih (f s a)).trans (hf s a)

@[simp] theorem foldl_fst_hostMem {α β : Type} {f : State × β → α → State × β} (hf : ∀ s a, (f s a).1.hostMem = s.1.hostMem) (l : List α)
    (s : State × β) : (l.foldl f s).1.hostMem = s.1.hostMem := by
  induction l generalizing s with
  | nil => rfl
  | cons a r ih => exact (ih (f s a)).trans (hf s a)

/-! ### Ops -/

@[simp] theorem State.noteWalks_mem (s : State) (ctx : Nat) (l : List Nat) : (s.noteWalks ctx l).mem = s.mem ∧ (s.noteWalks ctx l).hostMem = s.hostMem := by
  unfold State.noteWalks
  constructor <;> (repeat first
    | rfl
    | (refine foldl_mem ?_ _ _; intro t p)
    | (refine foldl_hostMem ?_ _ _; intro t p)
    | split
    | (simp; done))

@[simp] theorem State.addReader_mem (s : State) (w : Word) : (s.addReader w).mem = s.mem ∧ (s.addReader w).hostMem = s.hostMem := by
  simp [State.addReader]

@[simp] theorem State.dropReader_mem (s : State) (w : Word) : (s.dropReader w).mem = s.mem ∧ (s.dropReader w).hostMem = s.hostMem := by
  simp [State.dropReader]

@[simp] theorem State.modLease_mem (s : State) (core ctx home : Nat) (f : Lease → Lease) : (s.modLease core ctx home f).mem = s.mem ∧ (s.modLease core ctx home f).hostMem = s.hostMem := by
  simp [State.modLease]

@[simp] theorem State.takeSlot_mem (s : State) (core ctx home : Nat) : (s.takeSlot core ctx home).2.mem = s.mem ∧ (s.takeSlot core ctx home).2.hostMem = s.hostMem := by
  unfold State.takeSlot
  constructor <;> (repeat' split) <;> simp

@[simp] theorem State.untakeSlot_mem (s : State) (core ctx home n gen : Nat) : (s.untakeSlot core ctx home n gen).mem = s.mem ∧ (s.untakeSlot core ctx home n gen).hostMem = s.hostMem := by
  simp [State.untakeSlot]

@[simp] theorem State.noteLoads_mem (s : State) (w : Nat) (l : List Long) : (s.noteLoads w l).mem = s.mem ∧ (s.noteLoads w l).hostMem = s.hostMem := by
  simp [State.noteLoads]

@[simp] theorem State.noteFirst_mem (s : State) (w : Nat) (l : List (Nat × Nat × Nat)) : (s.noteFirst w l).mem = s.mem ∧ (s.noteFirst w l).hostMem = s.hostMem := by
  simp [State.noteFirst]

@[simp] theorem State.putSp_mem (s : State) (w : Nat) (l : List (Nat × Byte)) : (s.putSp w l).mem = s.mem ∧ (s.putSp w l).hostMem = s.hostMem := by
  simp [State.putSp]

@[simp] theorem State.putOpm_mem (s : State) (core n : Nat) (l : List (Nat × Byte)) : (s.putOpm core n l).mem = s.mem ∧ (s.putOpm core n l).hostMem = s.hostMem := by
  simp [State.putOpm]

@[simp] theorem State.release_mem (s : State) (core ctx : Nat) (w : Word) : (s.release core ctx w).mem = s.mem ∧ (s.release core ctx w).hostMem = s.hostMem := by
  simp [State.release]

@[simp] theorem State.writeReg_mem (s : State) (core slot lane r : Nat) (v : Word) (tag : Bool) : (s.writeReg core slot lane r v tag).mem = s.mem ∧ (s.writeReg core slot lane r v tag).hostMem = s.hostMem := by
  simp [State.writeReg]

@[simp] theorem State.traceBytes_mem (s : State) (core : Nat) (l : List Byte) : (s.traceBytes core l).mem = s.mem ∧ (s.traceBytes core l).hostMem = s.hostMem := by
  simp [State.traceBytes]

@[simp] theorem State.traceSync_mem (s : State) (core slot : Nat) (x : Traced) : (s.traceSync core slot x).mem = s.mem ∧ (s.traceSync core slot x).hostMem = s.hostMem := by
  simp [State.traceSync]

@[simp] theorem State.tracePacket_mem (s : State) (core slot : Nat) (x : Traced) (l : List Byte) : (s.tracePacket core slot x l).mem = s.mem ∧ (s.tracePacket core slot x l).hostMem = s.hostMem := by
  simp [State.tracePacket]

@[simp] theorem State.traceFlush_mem (s : State) (core slot : Nat) : (s.traceFlush core slot).mem = s.mem ∧ (s.traceFlush core slot).hostMem = s.hostMem := by
  simp [State.traceFlush]

@[simp] theorem State.traceNote_mem (s : State) (core slot : Nat) (l : List Byte) : (s.traceNote core slot l).mem = s.mem ∧ (s.traceNote core slot l).hostMem = s.hostMem := by
  simp [State.traceNote]

@[simp] theorem State.traceRetire_mem (s : State) (core slot : Nat) (p : Long) (lanes : BitVec 32) : (s.traceRetire core slot p lanes).mem = s.mem ∧ (s.traceRetire core slot p lanes).hostMem = s.hostMem := by
  simp [State.traceRetire]

@[simp] theorem State.corrects_mem (s : State) (unit n : Nat) : (s.corrects unit n).mem = s.mem ∧ (s.corrects unit n).hostMem = s.hostMem := by
  simp [State.corrects]

@[simp] theorem State.announce_mem (s : State) (die : Nat) (i : Item) : (s.announce die i).mem = s.mem ∧ (s.announce die i).hostMem = s.hostMem := by
  simp [State.announce]

@[simp] theorem State.takeHaltTick_mem (s : State) (die : Nat) : (s.takeHaltTick die).mem = s.mem ∧ (s.takeHaltTick die).hostMem = s.hostMem := by
  simp [State.takeHaltTick]

@[simp] theorem State.announceLaunchHalt_mem (s : State) (die launch : Nat) : (s.announceLaunchHalt die launch).mem = s.mem ∧ (s.announceLaunchHalt die launch).hostMem = s.hostMem := by
  simp [State.announceLaunchHalt]

@[simp] theorem State.announceResetHalt_mem (s : State) (die ctx : Nat) : (s.announceResetHalt die ctx).mem = s.mem ∧ (s.announceResetHalt die ctx).hostMem = s.hostMem := by
  simp [State.announceResetHalt]

@[simp] theorem State.endLaunchOf_mem (s : State) (w : Nat) : (s.endLaunchOf w).mem = s.mem ∧ (s.endLaunchOf w).hostMem = s.hostMem := by
  simp [State.endLaunchOf]

@[simp] theorem State.deliverHalt_mem (s : State) (w : Nat) (part : Option Nat) : (s.deliverHalt w part).mem = s.mem ∧ (s.deliverHalt w part).hostMem = s.hostMem := by
  simp [State.deliverHalt]

@[simp] theorem State.haltAgain_mem (s : State) (w : Nat) (part : Option Nat) (r : HaltRec) : (s.haltAgain w part r).mem = s.mem ∧ (s.haltAgain w part r).hostMem = s.hostMem := by
  simp [State.haltAgain]

@[simp] theorem State.haltWg_mem (s : State) (w : Nat) (part : Option Nat) (r : HaltRec) : (s.haltWg w part r).mem = s.mem ∧ (s.haltWg w part r).hostMem = s.hostMem := by
  simp [State.haltWg]

@[simp] theorem State.stopGroup_mem (s : State) (core slot : Nat) (m : BitVec 32) (lanes : BitVec 32) (r : HaltRec) : (s.stopGroup core slot m lanes r).mem = s.mem ∧ (s.stopGroup core slot m lanes r).hostMem = s.hostMem := by
  simp [State.stopGroup]

@[simp] theorem State.dropPathB_mem (s : State) : (s.dropPathB).mem = s.mem ∧ (s.dropPathB).hostMem = s.hostMem := by
  simp [State.dropPathB]

@[simp] theorem State.dropHeld_mem (s : State) : (s.dropHeld).mem = s.mem ∧ (s.dropHeld).hostMem = s.hostMem := by
  simp [State.dropHeld]

@[simp] theorem State.dropSlots_mem (s : State) : (s.dropSlots).mem = s.mem ∧ (s.dropSlots).hostMem = s.hostMem := by
  simp [State.dropSlots]

@[simp] theorem State.raiseMc_mem (s : State) (h : Hdr) (lanes : BitVec 32) (code : Nat) (tv : Long) (mc : Word) : (s.raiseMc h lanes code tv mc).mem = s.mem ∧ (s.raiseMc h lanes code tv mc).hostMem = s.hostMem := by
  simp [State.raiseMc]

@[simp] theorem State.raise_mem (s : State) (h : Hdr) (lanes : BitVec 32) (code : Nat) (tv : Long) : (s.raise h lanes code tv).mem = s.mem ∧ (s.raise h lanes code tv).hostMem = s.hostMem := by
  simp [State.raise]

@[simp] theorem State.raiseBad_mem (s : State) (h : Hdr) (lanes : BitVec 32) (b : Bad) : (s.raiseBad h lanes b).mem = s.mem ∧ (s.raiseBad h lanes b).hostMem = s.hostMem := by
  simp [State.raiseBad]

@[simp] theorem State.raiseCross_mem (s : State) (h : Hdr) (lanes : BitVec 32) (f : CrossFail) : (s.raiseCross h lanes f).mem = s.mem ∧ (s.raiseCross h lanes f).hostMem = s.hostMem := by
  unfold State.raiseCross
  constructor <;> (repeat' split) <;> simp

@[simp] theorem State.raiseFailed_mem (s : State) (h : Hdr) (lanes : BitVec 32) (k : State → State) (hk : ∀ s , (k s ).mem = s.mem ∧ (k s ).hostMem = s.hostMem) : (s.raiseFailed h lanes k).mem = s.mem ∧ (s.raiseFailed h lanes k).hostMem = s.hostMem := by
  unfold State.raiseFailed
  constructor <;> (repeat' split) <;> simp_all

@[simp] theorem State.completionFault_mem (s : State) (core slot path : Nat) (m lanes : BitVec 32) (pos : Long) (code : Nat) (tv : Long) (mc : Word) : (s.completionFault core slot path m lanes pos code tv mc).mem = s.mem ∧ (s.completionFault core slot path m lanes pos code tv mc).hostMem = s.hostMem := by
  simp [State.completionFault]

@[simp] theorem State.loadFault_mem (s : State) (p : Pend) (lane : Nat) (b : Bad) : (s.loadFault p lane b).mem = s.mem ∧ (s.loadFault p lane b).hostMem = s.hostMem := by
  simp [State.loadFault]

@[simp] theorem State.asyncFault_mem (s : State) (w code : Nat) (lanes : BitVec 32) (pos tv : Long) (mc : Word) : (s.asyncFault w code lanes pos tv mc).mem = s.mem ∧ (s.asyncFault w code lanes pos tv mc).hostMem = s.hostMem := by
  simp [State.asyncFault]

@[simp] theorem State.enterHandler_mem (s : State) (core slot : Nat) (m lanes : BitVec 32) (code : Nat) (pos tv : Long) (stall : Nat) (res : Nat → Long) : (s.enterHandler core slot m lanes code pos tv stall res).mem = s.mem ∧ (s.enterHandler core slot m lanes code pos tv stall res).hostMem = s.hostMem := by
  simp [State.enterHandler]

@[simp] theorem State.leaveHandler_mem (s : State) (core slot : Nat) (m : BitVec 32) : (s.leaveHandler core slot m).mem = s.mem ∧ (s.leaveHandler core slot m).hostMem = s.hostMem := by
  simp [State.leaveHandler]

@[simp] theorem State.startInterval_mem (s : State) (w : Nat) : (s.startInterval w).mem = s.mem ∧ (s.startInterval w).hostMem = s.hostMem := by
  simp [State.startInterval]

@[simp] theorem State.keepHistory_mem (s : State) (core slot : Nat) : (s.keepHistory core slot).mem = s.mem ∧ (s.keepHistory core slot).hostMem = s.hostMem := by
  simp [State.keepHistory]

@[simp] theorem State.noteIssue_mem (s : State) (core slot : Nat) : (s.noteIssue core slot).mem = s.mem ∧ (s.noteIssue core slot).hostMem = s.hostMem := by
  simp [State.noteIssue]

@[simp] theorem State.retire_mem (s : State) (h : Hdr) (p : Nat → Long) : (s.retire h p).mem = s.mem ∧ (s.retire h p).hostMem = s.hostMem := by
  simp [State.retire]

@[simp] theorem State.retireSeq_mem (s : State) (h : Hdr) : (s.retireSeq h).mem = s.mem ∧ (s.retireSeq h).hostMem = s.hostMem := by
  simp [State.retireSeq]

@[simp] theorem State.doneNow_mem (s : State) (h : Hdr) : (s.doneNow h).mem = s.mem ∧ (s.doneNow h).hostMem = s.hostMem := by
  simp [State.doneNow]

@[simp] theorem State.beginWait_mem (s : State) (h : Hdr) : (s.beginWait h).mem = s.mem ∧ (s.beginWait h).hostMem = s.hostMem := by
  simp [State.beginWait]

@[simp] theorem State.park_mem (s : State) (i : Instr) (va : Long) : (s.park i va).mem = s.mem ∧ (s.park i va).hostMem = s.hostMem := by
  simp [State.park]

@[simp] theorem State.waitFor_mem (s : State) (h : Hdr) (i : Instr) (c : WaitCond) (row : Nat) : (s.waitFor h i c row).mem = s.mem ∧ (s.waitFor h i c row).hostMem = s.hostMem := by
  simp [State.waitFor]

@[simp] theorem State.waitActive_mem (s : State) (h : Hdr) (i : Instr) (c : WaitCond) (row : Nat) : (s.waitActive h i c row).mem = s.mem ∧ (s.waitActive h i c row).hostMem = s.hostMem := by
  simp [State.waitActive]

@[simp] theorem State.hold_mem (s : State) (lanes : BitVec 32) (i : Instr) (id row : Nat) : (s.hold lanes i id row).mem = s.mem ∧ (s.hold lanes i id row).hostMem = s.hostMem := by
  simp [State.hold]

@[simp] theorem State.endWait_mem (s : State) (core slot id : Nat) : (s.endWait core slot id).mem = s.mem ∧ (s.endWait core slot id).hostMem = s.hostMem := by
  unfold State.endWait
  constructor <;> (repeat' split) <;> simp

@[simp] theorem State.endWaitWith_mem (s : State) (core slot id : Nat) (l : List Nat) : (s.endWaitWith core slot id l).mem = s.mem ∧ (s.endWaitWith core slot id l).hostMem = s.hostMem := by
  unfold State.endWaitWith
  constructor <;> (repeat' split) <;> simp

@[simp] theorem State.landLane_mem (s : State) (id core slot ctx : Nat) (rep : Bool) (w : LaneWrite) : (s.landLane id core slot ctx rep w).mem = s.mem ∧ (s.landLane id core slot ctx rep w).hostMem = s.hostMem := by
  simp [State.landLane]

@[simp] theorem State.land_mem (s : State) (id : Nat) (p : Pend) : (s.land id p).mem = s.mem ∧ (s.land id p).hostMem = s.hostMem := by
  simp [State.land]

/-! ### Operands -/

@[simp] theorem State.capture_mem (s : State) (act : BitVec 32) (regs : List Nat) : (s.capture act regs).mem = s.mem ∧ (s.capture act regs).hostMem = s.hostMem := by
  simp [State.capture]

@[simp] theorem State.noteBadOperands_mem (s : State) (act : BitVec 32) (srcs : List Src) : (s.noteBadOperands act srcs).mem = s.mem ∧ (s.noteBadOperands act srcs).hostMem = s.hostMem := by
  simp [State.noteBadOperands]

@[simp] theorem State.startXing_mem (s : State) (h : Hdr) (i : Instr) (act : BitVec 32) (regs : List Nat) (ops : List XOp) (staying : List Word) : (s.startXing h i act regs ops staying).mem = s.mem ∧ (s.startXing h i act regs ops staying).hostMem = s.hostMem := by
  simp [State.startXing]

@[simp] theorem State.claimRead_mem (s : State) (w : Word) : (s.claimRead w).mem = s.mem ∧ (s.claimRead w).hostMem = s.hostMem := by
  simp [State.claimRead]

@[simp] theorem State.withOperandsLate_mem (s : State) (h : Hdr) (i : Instr) (act : BitVec 32) (srcs : List Src) (dsts preds : List Nat) (stay : Nat → Nat → Bool) (count : Nat) (pre k : State → State) (hpre : ∀ s , (pre s ).mem = s.mem ∧ (pre s ).hostMem = s.hostMem) (hk : ∀ s , (k s ).mem = s.mem ∧ (k s ).hostMem = s.hostMem) : (s.withOperandsLate h i act srcs dsts preds stay count pre k).mem = s.mem ∧ (s.withOperandsLate h i act srcs dsts preds stay count pre k).hostMem = s.hostMem := by
  unfold State.withOperandsLate
  constructor <;> (repeat' split) <;> simp_all

@[simp] theorem State.withOperandsPre_mem (s : State) (h : Hdr) (i : Instr) (act : BitVec 32) (srcs : List Src) (dsts preds : List Nat) (stay : Nat → Nat → Bool) (count : Nat) (pre k : State → State) (hpre : ∀ s , (pre s ).mem = s.mem ∧ (pre s ).hostMem = s.hostMem) (hk : ∀ s , (k s ).mem = s.mem ∧ (k s ).hostMem = s.hostMem) : (s.withOperandsPre h i act srcs dsts preds stay count pre k).mem = s.mem ∧ (s.withOperandsPre h i act srcs dsts preds stay count pre k).hostMem = s.hostMem := by
  unfold State.withOperandsPre
  constructor <;> (repeat' split) <;> simp_all

@[simp] theorem State.withOperands_mem (s : State) (h : Hdr) (i : Instr) (act : BitVec 32) (srcs : List Src) (dsts preds : List Nat) (stay : Nat → Nat → Bool) (count : Nat) (k : State → State) (hk : ∀ s , (k s ).mem = s.mem ∧ (k s ).hostMem = s.hostMem) : (s.withOperands h i act srcs dsts preds stay count k).mem = s.mem ∧ (s.withOperands h i act srcs dsts preds stay count k).hostMem = s.hostMem := by
  unfold State.withOperands
  constructor <;> (repeat' split) <;> simp_all

@[simp] theorem State.resultSlot_mem (s : State) (lane home : Nat) : (s.resultSlot lane home).2.mem = s.mem ∧ (s.resultSlot lane home).2.hostMem = s.hostMem := by
  unfold State.resultSlot
  constructor <;> (repeat' split) <;> simp

@[simp] theorem State.sendHome_mem (s : State) (i : Instr) (lane home : Nat) (args : List HArg) : (s.sendHome i lane home args).2.mem = s.mem ∧ (s.sendHome i lane home args).2.hostMem = s.hostMem := by
  have h := State.resultSlot_mem s lane home
  unfold State.sendHome
  dsimp only
  generalize s.resultSlot lane home = y at *
  obtain ⟨_ | ⟨n, g⟩, s1⟩ := y
  · exact h
  · simpa using h

/-! ### Alu -/

@[simp] theorem State.aluLane_mem (fm : Form) (i : Instr) (ev : Eval) (a : State × Pend) (l : Nat) : (State.aluLane fm i ev a l).1.mem = a.1.mem ∧ (State.aluLane fm i ev a l).1.hostMem = a.1.hostMem := by
  unfold State.aluLane
  constructor <;> (repeat' split) <;> simp

@[simp] theorem State.aluCompute_mem (s : State) (h : Hdr) (i : Instr) (fm : Form) (ev : Eval) (act : BitVec 32) : (s.aluCompute h i fm ev act).mem = s.mem ∧ (s.aluCompute h i fm ev act).hostMem = s.hostMem := by
  simp [State.aluCompute]

@[simp] theorem State.aluLease_mem (s : State) (h : Hdr) (i : Instr) (fm : Form) (ev : Eval) (act : BitVec 32) : (s.aluLease h i fm ev act).mem = s.mem ∧ (s.aluLease h i fm ev act).hostMem = s.hostMem := by
  unfold State.aluLease
  dsimp only
  constructor <;> (repeat' split) <;> simp

@[simp] theorem State.takeSlots_mem (s : State) (fm : Form) (act : BitVec 32) : (s.takeSlots fm act).mem = s.mem ∧ (s.takeSlots fm act).hostMem = s.hostMem := by
  unfold State.takeSlots
  dsimp only
  constructor <;> split
  · rfl
  · refine foldl_mem (fun t x => ?_) _ _
    have h := State.takeSlot_mem t t.cur.core t.curCtx x.2
    generalize t.takeSlot t.cur.core t.curCtx x.2 = y at *
    obtain ⟨_ | ⟨n, g⟩, s1⟩ := y <;> exact h.1
  · rfl
  · refine foldl_hostMem (fun t x => ?_) _ _
    have h := State.takeSlot_mem t t.cur.core t.curCtx x.2
    generalize t.takeSlot t.cur.core t.curCtx x.2 = y at *
    obtain ⟨_ | ⟨n, g⟩, s1⟩ := y <;> exact h.2

@[simp] theorem State.alu_mem (s : State) (h : Hdr) (i : Instr) (fm : Form) (ev : Eval) : (s.alu h i fm ev).mem = s.mem ∧ (s.alu h i fm ev).hostMem = s.hostMem := by
  simp [State.alu]

/-! ### Energy -/

@[simp] theorem State.movedAt_mem (s : State) (launch : Option Nat) (n : Nat) (keys : List Nat) : (s.movedAt launch n keys).mem = s.mem ∧ (s.movedAt launch n keys).hostMem = s.hostMem := by
  simp [State.movedAt]

@[simp] theorem State.moved_mem (s : State) (pa : Nat) (launch : Option Nat) (n : Nat) : (s.moved pa launch n).mem = s.mem ∧ (s.moved pa launch n).hostMem = s.hostMem := by
  simp [State.moved]

@[simp] theorem State.demands_mem (s : State) (pas : List Nat) : (s.demands pas).mem = s.mem ∧ (s.demands pas).hostMem = s.hostMem := by
  simp [State.demands]

@[simp] theorem State.charge_mem (s : State) (launch : Option Nat) (x : Nat) : (s.charge launch x).mem = s.mem ∧ (s.charge launch x).hostMem = s.hostMem := by
  unfold State.charge
  constructor <;> (repeat' split) <;> simp

@[simp] theorem State.share_mem (s : State) (total : Nat) (w : Tbl Nat) : (s.share total w).mem = s.mem ∧ (s.share total w).hostMem = s.hostMem := by
  simp [State.share]

@[simp] theorem State.idleOn_mem (s : State) (die x : Nat) : (s.idleOn die x).mem = s.mem ∧ (s.idleOn die x).hostMem = s.hostMem := by
  simp [State.idleOn]

@[simp] theorem State.logSpent_mem (s : State) (key x : Nat) : (s.logSpent key x).mem = s.mem ∧ (s.logSpent key x).hostMem = s.hostMem := by
  simp [State.logSpent]

@[simp] theorem State.closeCore_mem (s : State) (core dynamic leakage : Nat) : (s.closeCore core dynamic leakage).mem = s.mem ∧ (s.closeCore core dynamic leakage).hostMem = s.hostMem := by
  simp [State.closeCore]

@[simp] theorem State.closeOther_mem (s : State) (kind n energy : Nat) : (s.closeOther kind n energy).mem = s.mem ∧ (s.closeOther kind n energy).hostMem = s.hostMem := by
  simp [State.closeOther]

@[simp] theorem State.closeRead_mem (s : State) (kind n : Nat) : (s.closeRead kind n).mem = s.mem ∧ (s.closeRead kind n).hostMem = s.hostMem := by
  unfold State.closeRead
  constructor <;> (repeat' split) <;> simp

@[simp] theorem State.closeLaunch_mem (s : State) (l : Nat) : (s.closeLaunch l).mem = s.mem ∧ (s.closeLaunch l).hostMem = s.hostMem := by
  simp [State.closeLaunch]

/-! ### Cache -/

@[simp] theorem State.dropL1_mem (s : State) (core frame : Nat) (mask : BitVec 64) (pred : Block → Bool) : (s.dropL1 core frame mask pred).mem = s.mem ∧ (s.dropL1 core frame mask pred).hostMem = s.hostMem := by
  simp [State.dropL1]

@[simp] theorem State.updateL1_mem (s : State) (core : Nat) (bytes : List (Nat × Byte)) (hint : Nat) : (s.updateL1 core bytes hint).mem = s.mem ∧ (s.updateL1 core bytes hint).hostMem = s.hostMem := by
  simp [State.updateL1]

@[simp] theorem State.sendMsg_mem (s : State) (m : Msg) : (s.sendMsg m).mem = s.mem ∧ (s.sendMsg m).hostMem = s.hostMem := by
  simp [State.sendMsg]

@[simp] theorem State.flushGather_mem (s : State) (die frame : Nat) (extra : List Nat := []) : (s.flushGather die frame extra).mem = s.mem ∧ (s.flushGather die frame extra).hostMem = s.hostMem := by
  unfold State.flushGather
  constructor <;> (repeat' split) <;> simp

@[simp] theorem State.gatherStore_mem (s : State) (die frame ctx launch : Nat) (causes : List Nat) (bytes : List (Nat × Byte)) : (s.gatherStore die frame ctx launch causes bytes).mem = s.mem ∧ (s.gatherStore die frame ctx launch causes bytes).hostMem = s.hostMem := by
  unfold State.gatherStore
  dsimp only
  constructor <;> (repeat' split) <;> simp

@[simp] theorem State.filled_mem (s old : State) : (s.filled old).mem = s.mem ∧ (s.filled old).hostMem = s.hostMem := by
  simp [State.filled]

@[simp] theorem State.fixLoads_mem (s : State) (core before : Nat) (pas : List Nat) : (s.fixLoads core before pas).mem = s.mem ∧ (s.fixLoads core before pas).hostMem = s.hostMem := by
  simp [State.fixLoads]

@[simp] theorem State.touchL2_mem (s : State) (die frame lo hi : Nat) (dirty : Bool) (hint : Nat) : (s.touchL2 die frame lo hi dirty hint).mem = s.mem ∧ (s.touchL2 die frame lo hi dirty hint).hostMem = s.hostMem := by
  unfold State.touchL2
  constructor <;> (repeat' split) <;> simp

@[simp] theorem State.noteUndo_mem (s : State) (w rwc : Nat) (l : List (Nat × Byte × Byte)) : (s.noteUndo w rwc l).mem = s.mem ∧ (s.noteUndo w rwc l).hostMem = s.hostMem := by
  simp [State.noteUndo]

/-- R204: a write performed at its home writes its bytes and nothing else. -/
@[simp] theorem State.performWrite_mem (s : State) (m : Msg) (id : Nat) (bytes : List (Nat × Byte)) :
    (s.performWrite m id bytes).mem = memSetAll s.mem bytes ∧ (s.performWrite m id bytes).hostMem = s.hostMem := by
  unfold State.performWrite
  constructor <;> (repeat' split) <;> simp

@[simp] theorem State.reportStale_mem (s : State) (ctx wg lane : Nat) (pos : Long) (w : Word) : (s.reportStale ctx wg lane pos w).mem = s.mem ∧ (s.reportStale ctx wg lane pos w).hostMem = s.hostMem := by
  simp [State.reportStale]

@[simp] theorem State.reportBad_mem (s : State) (ctx wg lane : Nat) (pos : Long) (b : Bad) : (s.reportBad ctx wg lane pos b).mem = s.mem ∧ (s.reportBad ctx wg lane pos b).hostMem = s.hostMem := by
  simp [State.reportBad]

@[simp] theorem State.modPend_mem (s : State) (q : Nat) (f : Pend → Pend) : (s.modPend q f).mem = s.mem ∧ (s.modPend q f).hostMem = s.hostMem := by
  unfold State.modPend
  constructor <;> (repeat' split) <;> simp

@[simp] theorem State.modCores_mem (s : State) (sel : Nat → Bool) (f : Core → Core) : (s.modCores sel f).mem = s.mem ∧ (s.modCores sel f).hostMem = s.hostMem := by
  simp [State.modCores]

@[simp] theorem State.pendDown_mem (s : State) (q : Option Nat) : (s.pendDown q).mem = s.mem ∧ (s.pendDown q).hostMem = s.hostMem := by
  unfold State.pendDown
  dsimp only
  constructor <;> (repeat' split) <;> simp

@[simp] theorem State.startFill_mem (s : State) (f : Fill) : (s.startFill f).mem = s.mem ∧ (s.startFill f).hostMem = s.hostMem := by
  simp [State.startFill]

@[simp] theorem State.removeBlocks_mem (s : State) (sel : Block → Bool) : (s.removeBlocks sel).mem = s.mem ∧ (s.removeBlocks sel).hostMem = s.hostMem := by
  simp [State.removeBlocks]

@[simp] theorem State.cutFills_mem (s : State) (sel : Fill → Bool) : (s.cutFills sel).mem = s.mem ∧ (s.cutFills sel).hostMem = s.hostMem := by
  simp [State.cutFills]

@[simp] theorem State.installRun_mem (s : State) (f : Fill) (r : Nat × Nat × FillSrc) : (s.installRun f r).mem = s.mem ∧ (s.installRun f r).hostMem = s.hostMem := by
  unfold State.installRun
  dsimp only
  constructor <;> (repeat' split) <;> simp

@[simp] theorem State.flushDie_mem (s : State) (die ctx scope : Nat) : (s.flushDie die ctx scope).mem = s.mem ∧ (s.flushDie die ctx scope).hostMem = s.hostMem := by
  simp [State.flushDie]

@[simp] theorem State.takeOverhead_mem (s : State) (id : Nat) (m : Msg) (ev : Instr) : (s.takeOverhead id m ev).mem = s.mem ∧ (s.takeOverhead id m ev).hostMem = s.hostMem := by
  simp [State.takeOverhead]

@[simp] theorem State.widenMsg_mem (s : State) (id : Nat) (m : Msg) (ev : Instr) : (s.widenMsg id m ev).mem = s.mem ∧ (s.widenMsg id m ev).hostMem = s.hostMem := by
  simp [State.widenMsg]

@[simp] theorem State.performAtL1_mem (s : State) (id : Nat) (m : Msg) : (s.performAtL1 id m).mem = s.mem ∧ (s.performAtL1 id m).hostMem = s.hostMem := by
  simp [State.performAtL1]

@[simp] theorem State.stageAt_mem (s : State) (die w va : Nat) (bytes : List Byte) : (s.stageAt die w va bytes).mem = s.mem ∧ (s.stageAt die w va bytes).hostMem = s.hostMem := by
  simp [State.stageAt]

/-! ### Fetch -/

@[simp] theorem State.startRefetch_mem (s : State) (core launch line slot : Nat) : (s.startRefetch core launch line slot).mem = s.mem ∧ (s.startRefetch core launch line slot).hostMem = s.hostMem := by
  simp [State.startRefetch]

@[simp] theorem State.parityFault_mem (s : State) (line slot : Nat) (tv : Long) : (s.parityFault line slot tv).mem = s.mem ∧ (s.parityFault line slot tv).hostMem = s.hostMem := by
  simp [State.parityFault]

@[simp] theorem State.lineGood_mem (s : State) (line slot : Nat) : (s.lineGood line slot).mem = s.mem ∧ (s.lineGood line slot).hostMem = s.hostMem := by
  simp [State.lineGood]

@[simp] theorem State.fetch_mem (s : State) : (s.fetch).1.mem = s.mem ∧ (s.fetch).1.hostMem = s.hostMem := by
  unfold State.fetch
  dsimp only
  constructor <;> (repeat' split) <;> simp

/-! ### Control -/

@[simp] theorem State.awaitTarget_mem (s : State) (h : Hdr) (i : Instr) (targets : List (Nat × Long)) (c : WaitCond) : (s.awaitTarget h i targets c).mem = s.mem ∧ (s.awaitTarget h i targets c).hostMem = s.hostMem := by
  simp [State.awaitTarget]

@[simp] theorem State.transfer_mem (s : State) (h : Hdr) (i : Instr) (act : BitVec 32) (found : List (Nat × Long)) (eff : State → State) (heff : ∀ s , (eff s ).mem = s.mem ∧ (eff s ).hostMem = s.hostMem) : (s.transfer h i act found eff).mem = s.mem ∧ (s.transfer h i act found eff).hostMem = s.hostMem := by
  unfold State.transfer
  dsimp only
  constructor <;> (repeat' split) <;> simp_all

@[simp] theorem State.branchTo_mem (s : State) (h : Hdr) (i : Instr) (act : BitVec 32) (targets : List (Nat × Long)) (eff : State → State) (heff : ∀ s , (eff s ).mem = s.mem ∧ (eff s ).hostMem = s.hostMem) : (s.branchTo h i act targets eff).mem = s.mem ∧ (s.branchTo h i act targets eff).hostMem = s.hostMem := by
  unfold State.branchTo
  constructor <;> (repeat' split) <;> simp_all

@[simp] theorem State.branchOn_mem (s : State) (h : Hdr) (i : Instr) (f : FmtB) (z : Bool) : (s.branchOn h i f z).mem = s.mem ∧ (s.branchOn h i f z).hostMem = s.hostMem := by
  simp [State.branchOn]

@[simp] theorem State.callTo_mem (s : State) (h : Hdr) (i : Instr) (act : BitVec 32) (targets : List (Nat × Long)) : (s.callTo h i act targets).mem = s.mem ∧ (s.callTo h i act targets).hostMem = s.hostMem := by
  simp [State.callTo]

@[simp] theorem State.barCheck_mem (s : State) (w k : Nat) : (s.barCheck w k).mem = s.mem ∧ (s.barCheck w k).hostMem = s.hostMem := by
  simp [State.barCheck]

@[simp] theorem State.releaseRegs_mem (s : State) (core w : Nat) (t : Thread) : (s.releaseRegs core w t).mem = s.mem ∧ (s.releaseRegs core w t).hostMem = s.hostMem := by
  unfold State.releaseRegs
  constructor <;> (repeat' split) <;> simp

@[simp] theorem State.releaseThread_mem (s : State) (core slot l : Nat) : (s.releaseThread core slot l).mem = s.mem ∧ (s.releaseThread core slot l).hostMem = s.hostMem := by
  simp [State.releaseThread]

@[simp] theorem State.exitThreads_mem (s : State) (core slot : Nat) (m : BitVec 32) : (s.exitThreads core slot m).mem = s.mem ∧ (s.exitThreads core slot m).hostMem = s.hostMem := by
  simp [State.exitThreads]

@[simp] theorem State.handlerExit_mem (s : State) (w : Nat) : (s.handlerExit w).mem = s.mem ∧ (s.handlerExit w).hostMem = s.hostMem := by
  simp [State.handlerExit]

@[simp] theorem State.vacate_mem (s : State) (core slot : Nat) : (s.vacate core slot).mem = s.mem ∧ (s.vacate core slot).hostMem = s.hostMem := by
  simp [State.vacate]

@[simp] theorem State.leaveSlot_mem (s : State) (core slot : Nat) : (s.leaveSlot core slot).mem = s.mem ∧ (s.leaveSlot core slot).hostMem = s.hostMem := by
  simp [State.leaveSlot]

@[simp] theorem State.leaveSlots_mem (s : State) (core : Nat) : (s.leaveSlots core).mem = s.mem ∧ (s.leaveSlots core).hostMem = s.hostMem := by
  simp [State.leaveSlots]

@[simp] theorem State.softTrap_mem (s : State) (h : Hdr) (code : Nat) (tv : Long) : (s.softTrap h code tv).mem = s.mem ∧ (s.softTrap h code tv).hostMem = s.hostMem := by
  simp [State.softTrap]

@[simp] theorem State.predOp_mem (s : State) (h : Hdr) (i : Instr) (srcs : List Src) (d : Nat) (v : State → Nat → Bool) : (s.predOp h i srcs d v).mem = s.mem ∧ (s.predOp h i srcs d v).hostMem = s.hostMem := by
  simp [State.predOp]

/-! ### Memory -/

@[simp] theorem State.parkMem_mem (s : State) (h : Hdr) (i : Instr) (act : BitVec 32) (srcs : List Src) (va : Nat) : (s.parkMem h i act srcs va).mem = s.mem ∧ (s.parkMem h i act srcs va).hostMem = s.hostMem := by
  simp [State.parkMem]

@[simp] theorem State.memOp_mem (s : State) (h : Hdr) (i : Instr) (addr : Src) (data : List Src) (dsts preds : List Nat) (stay : State → Nat → Bool) (check : State → BitVec 32 → MemChk) (k : State → BitVec 32 → List Acc → State) (hk : ∀ s a0 a1, (k s a0 a1).mem = s.mem ∧ (k s a0 a1).hostMem = s.hostMem) : (s.memOp h i addr data dsts preds stay check k).mem = s.mem ∧ (s.memOp h i addr data dsts preds stay check k).hostMem = s.hostMem := by
  unfold State.memOp
  dsimp only
  refine State.withOperandsLate_mem _ _ _ _ _ _ _ _ _ _ _ (fun _ => ⟨rfl, rfl⟩) ?_
  intro s'
  constructor <;> (repeat' split) <;> simp_all

@[simp] theorem loadWindow_mem (n die : Nat) (mine : List Acc) (a : Loading) : (loadWindow n die mine a).1.mem = a.1.mem ∧ (loadWindow n die mine a).1.hostMem = a.1.hostMem := by
  simp [loadWindow]

@[simp] theorem loadFrame_mem (f : FmtM) (n : Nat) (bound : Option Bound) (bounded prefetch : Bool) (id : Nat) (accs : List Acc) (a : Loading) (req : Nat × Option (Nat × Nat)) : (loadFrame f n bound bounded prefetch id accs a req).1.mem = a.1.mem ∧ (loadFrame f n bound bounded prefetch id accs a req).1.hostMem = a.1.hostMem := by
  obtain ⟨s, p, bad⟩ := a
  obtain ⟨frame, region⟩ := req
  have fill_keeps (t : State) (fl : Fill) (c : Prop) [Decidable c] (h : t.mem = s.mem ∧ t.hostMem = s.hostMem) :
      (if c then t.tickFresh else t.startFill fl).mem = s.mem ∧ (if c then t.tickFresh else t.startFill fl).hostMem = s.hostMem := by
    split
    · exact h
    · exact ⟨(t.startFill_mem fl).1.trans h.1, (t.startFill_mem fl).2.trans h.2⟩
  have took_keeps (c : Prop) [Decidable c] (core : Nat) (f : Core → Core) :
      (if c then s else s.modCore core f).mem = s.mem ∧ (if c then s else s.modCore core f).hostMem = s.hostMem := by
    split <;> exact ⟨rfl, rfl⟩
  unfold loadFrame
  dsimp -zeta only
  extract_lets
  split
  · exact ⟨rfl, rfl⟩
  · extract_lets
    split <;> exact fill_keeps _ _ _ (took_keeps _ _ _)

@[simp] theorem State.loadG_mem (s : State) (f : FmtM) (n : Nat) (sx : Bool) (bound : Option Bound) (report : Option Nat) (tok : Nat) (act : BitVec 32) (accs : List Acc) (mark : Bool) : (s.loadG f n sx bound report tok act accs mark).2.mem = s.mem ∧ (s.loadG f n sx bound report tok act accs mark).2.hostMem = s.hostMem := by
  simp [State.loadG]

@[simp] theorem State.stage_mem (s : State) (w va : Nat) (bytes : List Byte) : (s.stage w va bytes).mem = s.mem ∧ (s.stage w va bytes).hostMem = s.hostMem := by
  simp [State.stage]

@[simp] theorem stageLane_mem (f : FmtM) (n pend : Nat) (a : State × Nat) (x : Acc) : (stageLane f n pend a x).1.mem = a.1.mem ∧ (stageLane f n pend a x).1.hostMem = a.1.hostMem := by
  simp [stageLane]

@[simp] theorem storeFrame_mem (f : FmtM) (n : Nat) (ord : StoreOrder) (pend : Nat) (accs : List Acc) (a : State × Nat) (frame : Nat) : (storeFrame f n ord pend accs a frame).1.mem = a.1.mem ∧ (storeFrame f n ord pend accs a frame).1.hostMem = a.1.hostMem := by
  unfold storeFrame
  dsimp only
  constructor <;> (repeat' split) <;> simp

@[simp] theorem proxyStore_mem (f : FmtM) (pend : Nat) (a : State × Nat) (x : Acc) : (proxyStore f pend a x).1.mem = a.1.mem ∧ (proxyStore f pend a x).1.hostMem = a.1.hostMem := by
  simp [proxyStore]

@[simp] theorem State.storeG_mem (s : State) (h : Hdr) (f : FmtM) (n : Nat) (ord : StoreOrder) (act : BitVec 32) (accs : List Acc) (homeData : Bool) : (s.storeG h f n ord act accs homeData).mem = s.mem ∧ (s.storeG h f n ord act accs homeData).hostMem = s.hostMem := by
  simp [State.storeG]

@[simp] theorem State.spaceWrite_mem (s : State) (spc : Space) (lane a : Nat) (l : List Byte) : (s.spaceWrite spc lane a l).mem = s.mem ∧ (s.spaceWrite spc lane a l).hostMem = s.hostMem := by
  unfold State.spaceWrite
  constructor <;> (repeat' split) <;> simp

@[simp] theorem State.meterSpace_mem (s : State) (spc : Space) (n : Nat) (l : List Acc) : (s.meterSpace spc n l).mem = s.mem ∧ (s.meterSpace spc n l).hostMem = s.hostMem := by
  simp [State.meterSpace]

@[simp] theorem State.holdPort_mem (s : State) (n : Nat) (accs : List Acc) : (s.holdPort n accs).mem = s.mem ∧ (s.holdPort n accs).hostMem = s.hostMem := by
  simp [State.holdPort]

@[simp] theorem State.loadSpace_mem (s : State) (h : Hdr) (i : Instr) (f : FmtM) (spc : Space) : (s.loadSpace h i f spc).mem = s.mem ∧ (s.loadSpace h i f spc).hostMem = s.hostMem := by
  simp [State.loadSpace]

@[simp] theorem State.storeSpace_mem (s : State) (h : Hdr) (i : Instr) (f : FmtM) (spc : Space) : (s.storeSpace h i f spc).mem = s.mem ∧ (s.storeSpace h i f spc).hostMem = s.hostMem := by
  simp [State.storeSpace]

/-! ### Ordering -/

@[simp] theorem State.waitOverhead_mem (s : State) (h : Hdr) (i : Instr) (scope row : Nat) : (s.waitOverhead h i scope row).mem = s.mem ∧ (s.waitOverhead h i scope row).hostMem = s.hostMem := by
  simp [State.waitOverhead]

@[simp] theorem State.afterObserved_mem (s : State) (h : Hdr) (i : Instr) (scope row : Nat) (mark : List Nat) (k : State → State) (hk : ∀ s , (k s ).mem = s.mem ∧ (k s ).hostMem = s.hostMem) : (s.afterObserved h i scope row mark k).mem = s.mem ∧ (s.afterObserved h i scope row mark k).hostMem = s.hostMem := by
  unfold State.afterObserved
  constructor <;> (repeat' split) <;> simp_all

@[simp] theorem State.atomLane_mem (op : Nat) (f : FmtM) (old : Bool) (id : Nat) (a : State × List Nat) (x : Acc) : (State.atomLane op f old id a x).1.mem = a.1.mem ∧ (State.atomLane op f old id a x).1.hostMem = a.1.hostMem := by
  simp [State.atomLane]

@[simp] theorem State.atomOp_mem (s : State) (h : Hdr) (i : Instr) (v : BitVec 5) (f : FmtM) (old : Bool) : (s.atomOp h i v f old).mem = s.mem ∧ (s.atomOp h i v f old).hostMem = s.hostMem := by
  simp [State.atomOp]

@[simp] theorem State.fenceEnd_mem (s : State) (h : Hdr) (i : Instr) (kind scope : Nat) : (s.fenceEnd h i kind scope).mem = s.mem ∧ (s.fenceEnd h i kind scope).hostMem = s.hostMem := by
  simp [State.fenceEnd]

@[simp] theorem State.fence_mem (s : State) (h : Hdr) (i : Instr) (kind scope : Nat) : (s.fence h i kind scope).mem = s.mem ∧ (s.fence h i kind scope).hostMem = s.hostMem := by
  unfold State.fence
  constructor <;> (repeat' split) <;> simp

@[simp] theorem State.invalidateL1_mem (s : State) (ext : List (Nat × Nat)) (core : Nat) : (s.invalidateL1 ext core).mem = s.mem ∧ (s.invalidateL1 ext core).hostMem = s.hostMem := by
  simp [State.invalidateL1]

@[simp] theorem State.invalidateL2_mem (s : State) (ext : List (Nat × Nat)) (clean : Bool) (die : Nat) : (s.invalidateL2 ext clean die).mem = s.mem ∧ (s.invalidateL2 ext clean die).hostMem = s.hostMem := by
  simp [State.invalidateL2]

@[simp] theorem State.cinvExtents_mem (s : State) (scope : Nat) (ext : List (Nat × Nat)) : (s.cinvExtents scope ext).mem = s.mem ∧ (s.cinvExtents scope ext).hostMem = s.hostMem := by
  simp [State.cinvExtents]

@[simp] theorem State.cwbExtents_mem (s : State) (scope id : Nat) (ext : List (Nat × Nat)) : (s.cwbExtents scope id ext).mem = s.mem ∧ (s.cwbExtents scope id ext).hostMem = s.hostMem := by
  simp [State.cwbExtents]

@[simp] theorem State.rangeOp_mem (s : State) (h : Hdr) (i : Instr) (f : FmtM) (eff : State → Nat → List (Nat × Nat) → State) (heff : ∀ s a0 a1, (eff s a0 a1).mem = s.mem ∧ (eff s a0 a1).hostMem = s.hostMem) : (s.rangeOp h i f eff).mem = s.mem ∧ (s.rangeOp h i f eff).hostMem = s.hostMem := by
  unfold State.rangeOp
  dsimp only
  refine State.withOperandsLate_mem _ _ _ _ _ _ _ _ _ _ _ (fun _ => ⟨rfl, rfl⟩) ?_
  intro s'
  split
  · simp
  · simp
  · refine State.raiseFailed_mem _ _ _ _ (fun u => ?_)
    simp only [State.retireSeq_mem, State.later_frame]
    constructor
    · exact (foldl_mem (fun t x => (heff t _ x).1) _ _).trans (by simp)
    · exact (foldl_hostMem (fun t x => (heff t _ x).2) _ _).trans (by simp)

@[simp] theorem State.roundOp_mem (s : State) (h : Hdr) (i : Instr) (f : FmtM) (k : State → BitVec 32 → List (Nat × Nat × Region) → State) (hk : ∀ s a0 a1, (k s a0 a1).mem = s.mem ∧ (k s a0 a1).hostMem = s.hostMem) : (s.roundOp h i f k).mem = s.mem ∧ (s.roundOp h i f k).hostMem = s.hostMem := by
  unfold State.roundOp
  dsimp only
  refine State.withOperandsLate_mem _ _ _ _ _ _ _ _ _ _ _ (fun _ => ⟨rfl, rfl⟩) ?_
  intro s'
  constructor <;> (repeat' split) <;> simp_all

/-- R229: what a pub publishes goes to host memory, in its canonical form. -/
@[simp] theorem State.publish_mem (s : State) (w : Nat) : (s.publish w).mem = s.mem := rfl

theorem State.publish_wf (s : State) (w : Nat) (h : Memory.wf s.hostMem = true) : Memory.wf (s.publish w).hostMem = true :=
  memSetAll_wf _ _ (memSetAll_wf _ _ h)

@[simp] theorem State.logEvent_mem (s : State) (e : EvRec) : (s.logEvent e).mem = s.mem ∧ (s.logEvent e).hostMem = s.hostMem := by
  simp [State.logEvent]

/-! ### Barrier -/

@[simp] theorem State.barrier_mem (s : State) (h : Hdr) (i : Instr) (scope : Nat) (timed : Bool) (arrive : State → State) (harrive : ∀ s , (arrive s ).mem = s.mem ∧ (arrive s ).hostMem = s.hostMem) : (s.barrier h i scope timed arrive).mem = s.mem ∧ (s.barrier h i scope timed arrive).hostMem = s.hostMem := by
  unfold State.barrier
  constructor <;> (repeat' split) <;> simp_all

end Sys2Proof.Machine
end

