-- ==== Sys2Proof/Laws/KeepEngines.lean ====
section
/-! SUPPORT. What each operation does to memory and host memory, over copies, matrix, float, proxies, launches, halts, contexts and kick pages: nothing, or a write in the canonical
form. Each lemma says it of one operation whole. -/

namespace Sys2Proof.Machine

/-! ### Copy -/

@[simp] theorem State.modCopy_mem (s : State) (w k : Nat) (f : CopySlot → CopySlot) : (s.modCopy w k f).mem = s.mem ∧ (s.modCopy w k f).hostMem = s.hostMem := by
  simp [State.modCopy]

@[simp] theorem State.modRing_mem (s : State) (w j : Nat) (f : Ring → Ring) : (s.modRing w j f).mem = s.mem ∧ (s.modRing w j f).hostMem = s.hostMem := by
  simp [State.modRing]

@[simp] theorem State.modOpm_mem (s : State) (core n : Nat) (f : OpmSlot → OpmSlot) : (s.modOpm core n f).mem = s.mem ∧ (s.modOpm core n f).hostMem = s.hostMem := by
  simp [State.modOpm]

@[simp] theorem State.copyFault_mem (s : State) (w code : Nat) (tv : Long) (x : Slice) : (s.copyFault w code tv x).mem = s.mem ∧ (s.copyFault w code tv x).hostMem = s.hostMem := by
  simp [State.copyFault]

@[simp] theorem State.engineBad_mem (s : State) (w : Nat) (b : Bad) : (s.engineBad w b).mem = s.mem ∧ (s.engineBad w b).hostMem = s.hostMem := by
  simp [State.engineBad]

@[simp] theorem State.takeRingSlot_mem (s : State) (w k : Nat) : (s.takeRingSlot w k).mem = s.mem ∧ (s.takeRingSlot w k).hostMem = s.hostMem := by
  simp [State.takeRingSlot]

@[simp] theorem State.copyDelay_mem (s : State) (w k : Nat) : (s.copyDelay w k).mem = s.mem ∧ (s.copyDelay w k).hostMem = s.hostMem := by
  simp [State.copyDelay]

@[simp] theorem State.beginCopy_mem (s : State) (w k : Nat) : (s.beginCopy w k).mem = s.mem ∧ (s.beginCopy w k).hostMem = s.hostMem := by
  simp [State.beginCopy]

@[simp] theorem State.serveCopies_mem (s : State) (core : Nat) : (s.serveCopies core).mem = s.mem ∧ (s.serveCopies core).hostMem = s.hostMem := by
  simp [State.serveCopies]

@[simp] theorem State.copyElem_mem (w k : Nat) (s : State) (x : Nat × Nat) : (State.copyElem w k s x).mem = s.mem ∧ (State.copyElem w k s x).hostMem = s.hostMem := by
  unfold State.copyElem
  dsimp only
  constructor <;> (repeat' split) <;> simp

@[simp] theorem State.moveCopy_mem (a : State × Nat) (p : Nat × Nat) : (State.moveCopy a p).1.mem = a.1.mem ∧ (State.moveCopy a p).1.hostMem = a.1.hostMem := by
  simp [State.moveCopy]

@[simp] theorem State.moveCopies_mem (s : State) (core : Nat) : (s.moveCopies core).mem = s.mem ∧ (s.moveCopies core).hostMem = s.hostMem := by
  simp [State.moveCopies]

@[simp] theorem State.assemble_mem (s : State) (w k : Nat) : (s.assemble w k).mem = s.mem ∧ (s.assemble w k).hostMem = s.hostMem := by
  unfold State.assemble
  dsimp only
  constructor <;> (repeat' split) <;> simp

@[simp] theorem State.lowOperands_mem (s : State) (h : Hdr) (i : Instr) (act : BitVec 32) (srcs : List Src) (dsts : List Nat) (k : State → State) (hk : ∀ s , (k s ).mem = s.mem ∧ (k s ).hostMem = s.hostMem) : (s.lowOperands h i act srcs dsts k).mem = s.mem ∧ (s.lowOperands h i act srcs dsts k).hostMem = s.hostMem := by
  unfold State.lowOperands
  dsimp only
  constructor <;> (repeat' split) <;> simp_all

@[simp] theorem State.finish8_mem (s : State) (h : Hdr) : (s.finish8 h).mem = s.mem ∧ (s.finish8 h).hostMem = s.hostMem := by
  simp [State.finish8]

@[simp] theorem State.afterRelease_mem (s : State) (h : Hdr) (i : Instr) (m : BitVec 32) (srcs : List Src) (row : Nat) (k : State → State) (hk : ∀ s , (k s ).mem = s.mem ∧ (k s ).hostMem = s.hostMem) : (s.afterRelease h i m srcs row k).mem = s.mem ∧ (s.afterRelease h i m srcs row k).hostMem = s.hostMem := by
  unfold State.afterRelease
  constructor <;> (repeat' split) <;> simp_all

@[simp] theorem State.acquireDone_mem (s : State) (h : Hdr) (i : Instr) (row : Nat) : (s.acquireDone h i row).mem = s.mem ∧ (s.acquireDone h i row).hostMem = s.hostMem := by
  simp [State.acquireDone]

@[simp] theorem State.popRing_mem (s : State) (h : Hdr) (i : Instr) (f : FmtE) : (s.popRing h i f).mem = s.mem ∧ (s.popRing h i f).hostMem = s.hostMem := by
  simp [State.popRing]

/-! ### Matrix -/

@[simp] theorem State.modBank_mem (s : State) (core n : Nat) (f : Bank → Bank) : (s.modBank core n f).mem = s.mem ∧ (s.modBank core n f).hostMem = s.hostMem := by
  simp [State.modBank]

@[simp] theorem State.writeBank_mem (s : State) (core n : Nat) (elems : Tbl Word) : (s.writeBank core n elems).mem = s.mem ∧ (s.writeBank core n elems).hostMem = s.hostMem := by
  simp [State.writeBank]

@[simp] theorem State.takeUnits_mem (s : State) (core w kind b n : Nat) : (s.takeUnits core w kind b n).mem = s.mem ∧ (s.takeUnits core w kind b n).hostMem = s.hostMem := by
  simp [State.takeUnits]

@[simp] theorem State.freeUnits_mem (s : State) (core kind b n : Nat) : (s.freeUnits core kind b n).mem = s.mem ∧ (s.freeUnits core kind b n).hostMem = s.hostMem := by
  simp [State.freeUnits]

@[simp] theorem State.acceptMma_mem (s : State) (core slot lane w : Nat) (b : List Byte) : (s.acceptMma core slot lane w b).mem = s.mem ∧ (s.acceptMma core slot lane w b).hostMem = s.hostMem := by
  simp [State.acceptMma]

@[simp] theorem State.startOp_mem (s : State) (core : Nat) (o : MmaOp) (due : Nat) : (s.startOp core o due).mem = s.mem ∧ (s.startOp core o due).hostMem = s.hostMem := by
  simp [State.startOp]

@[simp] theorem State.freeAllUnits_mem (s : State) (core w : Nat) : (s.freeAllUnits core w).mem = s.mem ∧ (s.freeAllUnits core w).hostMem = s.hostMem := by
  simp [State.freeAllUnits]

/-! ### Float -/

@[simp] theorem State.special_mem (s : State) (h : Hdr) (i : Instr) (f : FmtA) (ev : Eval) : (s.special h i f ev).mem = s.mem ∧ (s.special h i f ev).hostMem = s.hostMem := by
  simp [State.special]

@[simp] theorem State.lateTrap_mem (s : State) (core slot path : Nat) (iss m lanes : BitVec 32) (pos : Long) (exc : BitVec 5) : (s.lateTrap core slot path iss m lanes pos exc).mem = s.mem ∧ (s.lateTrap core slot path iss m lanes pos exc).hostMem = s.hostMem := by
  simp [State.lateTrap]

@[simp] theorem State.lateTraps_mem (s : State) (id : Nat) : (s.lateTraps id).mem = s.mem ∧ (s.lateTraps id).hostMem = s.hostMem := by
  unfold State.lateTraps
  constructor <;> (repeat' split) <;> simp

@[simp] theorem State.arriveLate_mem (s : State) (id : Nat) : (s.arriveLate id).mem = s.mem ∧ (s.arriveLate id).hostMem = s.hostMem := by
  unfold State.arriveLate
  constructor <;> (repeat' split) <;> simp

@[simp] theorem State.fixedTrap_mem (s : State) (p : Pend) : (s.fixedTrap p).mem = s.mem ∧ (s.fixedTrap p).hostMem = s.hostMem := by
  simp [State.fixedTrap]

/-! ### Proxy -/

@[simp] theorem State.askLease_mem (s : State) (core ctx home : Nat) : (s.askLease core ctx home).mem = s.mem ∧ (s.askLease core ctx home).hostMem = s.hostMem := by
  simp [State.askLease]

@[simp] theorem State.regrant_mem (s : State) (home ctx : Nat) : (s.regrant home ctx).mem = s.mem ∧ (s.regrant home ctx).hostMem = s.hostMem := by
  simp [State.regrant]

@[simp] theorem State.returnLease_mem (s : State) (core ctx home : Nat) : (s.returnLease core ctx home).mem = s.mem ∧ (s.returnLease core ctx home).hostMem = s.hostMem := by
  simp [State.returnLease]

@[simp] theorem State.leaveCore_mem (s : State) (core ctx : Nat) : (s.leaveCore core ctx).mem = s.mem ∧ (s.leaveCore core ctx).hostMem = s.hostMem := by
  simp [State.leaveCore]

@[simp] theorem State.formSlot_mem (s : State) (home n : Nat) (v : Word) : (s.formSlot home n v).mem = s.mem ∧ (s.formSlot home n v).hostMem = s.hostMem := by
  simp [State.formSlot]

@[simp] theorem State.formAny_mem (s : State) (o : HomeOp) : (s.formAny o).mem = s.mem ∧ (s.formAny o).hostMem = s.hostMem := by
  unfold State.formAny
  constructor <;> (repeat' split) <;> simp

@[simp] theorem State.countCrossing_mem (s : State) (ctx kind : Nat) : (s.countCrossing ctx kind).mem = s.mem ∧ (s.countCrossing ctx kind).hostMem = s.hostMem := by
  simp [State.countCrossing]

@[simp] theorem State.crossed_mem (s : State) (core slot : Nat) (x : Xing) : (s.crossed core slot x).mem = s.mem ∧ (s.crossed core slot x).hostMem = s.hostMem := by
  unfold State.crossed
  dsimp only
  constructor <;> (repeat' split) <;> simp

@[simp] theorem State.takeNumbers_mem (s : State) (l : List Acc) : (s.takeNumbers l).mem = s.mem ∧ (s.takeNumbers l).hostMem = s.hostMem := by
  unfold State.takeNumbers
  have hm (t : State) (x : Acc) : _ ∧ _ := State.takeSlot_mem t t.cur.core t.curCtx (stackOf x.pa)
  constructor
  · refine (foldl_mem ?_ _ _).trans (by simp)
    intro t x
    have h := (hm t x).1
    generalize t.takeSlot t.cur.core t.curCtx (stackOf x.pa) = y at h ⊢
    obtain ⟨_ | ⟨n, g⟩, s1⟩ := y <;> split <;> first | rfl | exact h
  · refine (foldl_hostMem ?_ _ _).trans (by simp)
    intro t x
    have h := (hm t x).2
    generalize t.takeSlot t.cur.core t.curCtx (stackOf x.pa) = y at h ⊢
    obtain ⟨_ | ⟨n, g⟩, s1⟩ := y <;> split <;> first | rfl | exact h

@[simp] theorem State.ldpLane_mem (h : Hdr) (f : FmtM) (a : State × List Acc) (x : Acc) : (State.ldpLane h f a x).1.mem = a.1.mem ∧ (State.ldpLane h f a x).1.hostMem = a.1.hostMem := by
  obtain ⟨s, l⟩ := a
  have h := State.resultSlot_mem s x.lane (stackOf x.pa)
  unfold State.ldpLane
  dsimp only
  generalize s.resultSlot x.lane (stackOf x.pa) = y at *
  obtain ⟨_ | ⟨n, g⟩, s1⟩ := y
  · exact ⟨rfl, rfl⟩
  · simpa using h

@[simp] theorem State.ldpName_mem (s : State) (h : Hdr) (f : FmtM) (l : List Acc) : (s.ldpName h f l).mem = s.mem ∧ (s.ldpName h f l).hostMem = s.hostMem := by
  simp [State.ldpName]

/-! ### Launch -/

@[simp] theorem State.collapseFrame_mem (s : State) (pa : Nat) : (s.collapseFrame pa).mem = s.mem ∧ (s.collapseFrame pa).hostMem = s.hostMem := by
  simp [State.collapseFrame]

@[simp] theorem State.bufferWrite_hostMem (s : State) (pa : Nat) (l : List Byte) : (s.bufferWrite pa l).hostMem = s.hostMem := by
  simp [State.bufferWrite]

/-- R397: the device's own writes put bytes one after another at an address. -/
@[simp] theorem State.bufferWrite_mem (s : State) (pa : Nat) (l : List Byte) : (s.bufferWrite pa l).mem = memSetAll s.mem (placed pa l) := by
  unfold State.bufferWrite
  generalize placed pa l = bs
  induction bs generalizing s with
  | nil => rfl
  | cons b r ih => exact (ih _).trans (by simp [memSetAll])

theorem State.bufferWrite_wf (s : State) (pa : Nat) (l : List Byte) (h : Memory.wf s.mem = true) : Memory.wf (s.bufferWrite pa l).mem = true := by
  simpa using memSetAll_wf _ _ h

@[simp] theorem State.deviceWrite_hostMem (s : State) (ctx die va : Nat) (bytes : List Byte) : (s.deviceWrite ctx die va bytes).hostMem = s.hostMem := by
  unfold State.deviceWrite
  (repeat' split) <;> simp

theorem State.deviceWrite_wf (s : State) (ctx die va : Nat) (bytes : List Byte) (h : Memory.wf s.mem = true) : Memory.wf (s.deviceWrite ctx die va bytes).mem = true := by
  unfold State.deviceWrite
  split
  · split
    · exact h
    · simpa using memSetAll_wf _ _ h
  · exact h

@[simp] theorem State.writeStatus_hostMem (s : State) (ctx die va status : Nat) (rest : List Byte) : (s.writeStatus ctx die va status rest).hostMem = s.hostMem := by
  unfold State.writeStatus
  (repeat' split) <;> simp

theorem State.writeStatus_wf (s : State) (ctx die va status : Nat) (rest : List Byte) (h : Memory.wf s.mem = true) : Memory.wf (s.writeStatus ctx die va status rest).mem = true := by
  unfold State.writeStatus
  (repeat' split) <;> first
    | exact h
    | exact State.deviceWrite_wf _ _ _ _ _ h
    | simpa using h

@[simp] theorem State.purgeRegion_mem (s : State) (ctx slot : Nat) (r : Region) : (s.purgeRegion ctx slot r).mem = s.mem ∧ (s.purgeRegion ctx slot r).hostMem = s.hostMem := by
  simp [State.purgeRegion]

@[simp] theorem State.activateRegion_mem (s : State) (ctx slot launch : Nat) (e : RegEntry) : (s.activateRegion ctx slot launch e).mem = s.mem ∧ (s.activateRegion ctx slot launch e).hostMem = s.hostMem := by
  simp [State.activateRegion]

@[simp] theorem State.deactivateRegion_mem (s : State) (ctx slot : Nat) : (s.deactivateRegion ctx slot).mem = s.mem ∧ (s.deactivateRegion ctx slot).hostMem = s.hostMem := by
  unfold State.deactivateRegion
  constructor <;> (repeat' split) <;> simp

@[simp] theorem State.leaveRegions_mem (s : State) (l : Nat) : (s.leaveRegions l).mem = s.mem ∧ (s.leaveRegions l).hostMem = s.hostMem := by
  simp [State.leaveRegions]

@[simp] theorem State.accept_hostMem (s : State) (u : Submit) : (s.accept u).2.hostMem = s.hostMem := by
  unfold State.accept
  dsimp only
  split <;> simp

theorem State.accept_wf (s : State) (u : Submit) (h : Memory.wf s.mem = true) : Memory.wf (s.accept u).2.mem = true := by
  unfold State.accept
  extract_lets b k s1
  have h1 : Memory.wf s1.mem = true := by simpa [s1] using h
  clear_value s1 k b
  split
  · exact State.writeStatus_wf _ _ _ _ _ _ h1
  · next s2 s3 _ _ =>
    refine State.writeStatus_wf _ _ _ _ _ _ ?_
    simpa [s3, s2] using h1

@[simp] theorem State.freeLaunch_mem (s : State) (l : Nat) : (s.freeLaunch l).mem = s.mem ∧ (s.freeLaunch l).hostMem = s.hostMem := by
  simp [State.freeLaunch]

@[simp] theorem State.endLaunch_hostMem (s : State) (l status code : Nat) : (s.endLaunch l status code).hostMem = s.hostMem := by
  unfold State.endLaunch
  (repeat' split) <;> simp

theorem State.endLaunch_wf (s : State) (l status code : Nat) (h : Memory.wf s.mem = true) : Memory.wf (s.endLaunch l status code).mem = true := by
  unfold State.endLaunch
  simp only [State.freeLaunch_mem]
  refine State.writeStatus_wf _ _ _ _ _ _ ?_
  simpa using h

@[simp] theorem State.beginGroup_mem (s : State) (w core slot idx : Nat) (kr : KRec) (pos : Long) (held : Bool) (f : Nat → Thread → Thread) : (s.beginGroup w core slot idx kr pos held f).mem = s.mem ∧ (s.beginGroup w core slot idx kr pos held f).hostMem = s.hostMem := by
  simp [State.beginGroup]

@[simp] theorem State.beginWg_mem (s : State) (l core team idx : Nat) : (s.beginWg l core team idx).mem = s.mem ∧ (s.beginWg l core team idx).hostMem = s.hostMem := by
  simp [State.beginWg]

@[simp] theorem State.endSets_mem (s : State) (l : Nat) : (s.endSets l).mem = s.mem ∧ (s.endSets l).hostMem = s.hostMem := by
  simp [State.endSets]

@[simp] theorem State.dropQuiesces_mem (s : State) (w : Nat) (parked : Bool) : (s.dropQuiesces w parked).mem = s.mem ∧ (s.dropQuiesces w parked).hostMem = s.hostMem := by
  simp [State.dropQuiesces]

@[simp] theorem State.freeWg_mem (s : State) (w : Nat) : (s.freeWg w).mem = s.mem ∧ (s.freeWg w).hostMem = s.hostMem := by
  simp [State.freeWg]

@[simp] theorem State.flushAll_mem (s : State) (ctx : Nat) : (s.flushAll ctx).mem = s.mem ∧ (s.flushAll ctx).hostMem = s.hostMem := by
  simp [State.flushAll]

@[simp] theorem State.finishLaunch_mem (s : State) (l status code : Nat) : (s.finishLaunch l status code).mem = s.mem ∧ (s.finishLaunch l status code).hostMem = s.hostMem := by
  simp [State.finishLaunch]

@[simp] theorem State.submitOne_mem (s : State) (timed : Bool) (q lane va : Nat) : (s.submitOne timed q lane va).mem = s.mem ∧ (s.submitOne timed q lane va).hostMem = s.hostMem := by
  simp [State.submitOne]

@[simp] theorem State.submitLanes_mem (s : State) (h : Hdr) (i : Instr) (f : FmtS) (timed : Bool) (q : Nat) (lanes : List Nat) : (s.submitLanes h i f timed q lanes).mem = s.mem ∧ (s.submitLanes h i f timed q lanes).hostMem = s.hostMem := by
  induction lanes generalizing s with
  | nil => constructor <;> simp [State.submitLanes] <;> split <;> simp
  | cons l r ih =>
    unfold State.submitLanes
    constructor <;> dsimp only <;> (repeat' split) <;> first | (simp; done) | simp [ih]

@[simp] theorem State.launchOp_mem (s : State) (h : Hdr) (i : Instr) (f : FmtS) (timed : Bool) : (s.launchOp h i f timed).mem = s.mem ∧ (s.launchOp h i f timed).hostMem = s.hostMem := by
  unfold State.launchOp
  dsimp only
  refine State.withOperandsLate_mem _ _ _ _ _ _ _ _ _ _ _ (fun _ => ⟨rfl, rfl⟩) ?_
  intro s'
  constructor <;> (repeat' split) <;> simp_all

@[simp] theorem State.sendPacket_mem (f : FmtE) (n q : Nat) (rel : Bool) (s : State) (l : Nat) : (State.sendPacket f n q rel s l).mem = s.mem ∧ (State.sendPacket f n q rel s l).hostMem = s.hostMem := by
  simp [State.sendPacket]

@[simp] theorem State.packetArrives_mem (s : State) (id : Nat) : (s.packetArrives id).mem = s.mem ∧ (s.packetArrives id).hostMem = s.hostMem := by
  unfold State.packetArrives
  dsimp only
  constructor <;> (repeat' split) <;> simp

@[simp] theorem State.handlerFault_mem (s : State) (core l : Nat) (p : Packet) : (s.handlerFault core l p).mem = s.mem ∧ (s.handlerFault core l p).hostMem = s.hostMem := by
  simp [State.handlerFault]

@[simp] theorem State.beginHandler_mem (s : State) (core l slot entry : Nat) (ps : List Packet) : (s.beginHandler core l slot entry ps).mem = s.mem ∧ (s.beginHandler core l slot entry ps).hostMem = s.hostMem := by
  simp [State.beginHandler]

/-! ### Halt -/

@[simp] theorem State.dropWgWork_mem (s : State) (w : Nat) : (s.dropWgWork w).mem = s.mem ∧ (s.dropWgWork w).hostMem = s.hostMem := by
  simp [State.dropWgWork]

@[simp] theorem State.dropPubs_mem (s : State) (ctx : Nat) (g : Group) : (s.dropPubs ctx g).mem = s.mem ∧ (s.dropPubs ctx g).hostMem = s.hostMem := by
  unfold State.dropPubs
  constructor
  · refine foldl_mem ?_ _ _; intro t w; split <;> rfl
  · refine foldl_hostMem ?_ _ _; intro t w; split <;> rfl

@[simp] theorem State.dropReads_mem (s : State) (core ctx : Nat) (g : Group) : (s.dropReads core ctx g).mem = s.mem ∧ (s.dropReads core ctx g).hostMem = s.hostMem := by
  simp [State.dropReads]

@[simp] theorem State.releaseGroups_mem (s : State) (w : Nat) : (s.releaseGroups w).mem = s.mem ∧ (s.releaseGroups w).hostMem = s.hostMem := by
  simp [State.releaseGroups]

@[simp] theorem State.endFaulted_mem (s : State) (l : Nat) : (s.endFaulted l).mem = s.mem ∧ (s.endFaulted l).hostMem = s.hostMem := by
  unfold State.endFaulted
  dsimp only
  constructor <;> (repeat' split) <;> simp

@[simp] theorem State.dropWait_mem (s : State) (core slot id : Nat) : (s.dropWait core slot id).mem = s.mem ∧ (s.dropWait core slot id).hostMem = s.hostMem := by
  simp [State.dropWait]

@[simp] theorem State.unpark_mem (s : State) (core slot : Nat) (w : Waiting) : (s.unpark core slot w).mem = s.mem ∧ (s.unpark core slot w).hostMem = s.hostMem := by
  simp [State.unpark]

@[simp] theorem State.rearm_mem (s : State) (core slot : Nat) : (s.rearm core slot).mem = s.mem ∧ (s.rearm core slot).hostMem = s.hostMem := by
  unfold State.rearm
  constructor <;> (repeat first
    | rfl
    | (refine foldl_mem ?_ _ _; intro t p)
    | (refine foldl_hostMem ?_ _ _; intro t p)
    | split
    | (simp; done))

@[simp] theorem State.wakeParked_mem (s : State) : (s.wakeParked).mem = s.mem ∧ (s.wakeParked).hostMem = s.hostMem := by
  unfold State.wakeParked
  constructor <;> (repeat first
    | rfl
    | (refine foldl_mem ?_ _ _; intro t p)
    | (refine foldl_hostMem ?_ _ _; intro t p)
    | split
    | (simp; done))

@[simp] theorem State.announceRound_mem (s : State) (ctx slot lane : Nat) (id : Option Nat) : (s.announceRound ctx slot lane id).mem = s.mem ∧ (s.announceRound ctx slot lane id).hostMem = s.hostMem := by
  unfold State.announceRound
  dsimp only
  constructor <;> (repeat' split) <;> simp

@[simp] theorem State.announceSeq_mem (s : State) (die n : Nat) : (s.announceSeq die n).mem = s.mem ∧ (s.announceSeq die n).hostMem = s.hostMem := by
  simp [State.announceSeq]

/-! ### Context -/

@[simp] theorem State.modSched_mem (s : State) (die : Nat) (f : Sched → Sched) : (s.modSched die f).mem = s.mem ∧ (s.modSched die f).hostMem = s.hostMem := by
  simp [State.modSched]

@[simp] theorem State.startTurn_mem (s : State) (die e slice : Nat) : (s.startTurn die e slice).mem = s.mem ∧ (s.startTurn die e slice).hostMem = s.hostMem := by
  simp [State.startTurn]

@[simp] theorem State.newSlice_mem (s : State) (die : Nat) : (s.newSlice die).mem = s.mem ∧ (s.newSlice die).hostMem = s.hostMem := by
  simp [State.newSlice]

@[simp] theorem State.resumeEntry_mem (s : State) (die : Nat) : (s.resumeEntry die).mem = s.mem ∧ (s.resumeEntry die).hostMem = s.hostMem := by
  simp [State.resumeEntry]

@[simp] theorem State.releaseReservations_mem (s : State) (die ctx : Nat) : (s.releaseReservations die ctx).mem = s.mem ∧ (s.releaseReservations die ctx).hostMem = s.hostMem := by
  simp [State.releaseReservations]

@[simp] theorem State.preempt_mem (s : State) (die e : Nat) : (s.preempt die e).mem = s.mem ∧ (s.preempt die e).hostMem = s.hostMem := by
  simp [State.preempt]

@[simp] theorem State.passTurn_mem (s : State) (die e : Nat) : (s.passTurn die e).mem = s.mem ∧ (s.passTurn die e).hostMem = s.hostMem := by
  simp [State.passTurn]

@[simp] theorem State.saveWg_hostMem (s : State) (w : Nat) : (s.saveWg w).hostMem = s.hostMem := by
  simp [State.saveWg]

theorem State.saveWg_wf (s : State) (w : Nat) (h : Memory.wf s.mem = true) : Memory.wf (s.saveWg w).mem = true := by
  simpa [State.saveWg] using memSetAll_wf _ _ h

@[simp] theorem State.reset1_mem (s : State) (ctx reason : Nat) (stop : Bool) : (s.reset1 ctx reason stop).mem = s.mem ∧ (s.reset1 ctx reason stop).hostMem = s.hostMem := by
  simp [State.reset1]

@[simp] theorem State.discardWg_mem (s : State) (w : Nat) : (s.discardWg w).mem = s.mem ∧ (s.discardWg w).hostMem = s.hostMem := by
  simp [State.discardWg]

@[simp] theorem State.freeSlotsOf_mem (s : State) (ctx : Nat) : (s.freeSlotsOf ctx).mem = s.mem ∧ (s.freeSlotsOf ctx).hostMem = s.hostMem := by
  simp [State.freeSlotsOf]

@[simp] theorem State.clearCtx_mem (s : State) (ctx : Nat) : (s.clearCtx ctx).mem = s.mem ∧ (s.clearCtx ctx).hostMem = s.hostMem := by
  simp [State.clearCtx]

/-! ### Kick -/

@[simp] theorem State.modKick_mem (s : State) (p : BitVec 6) (f : Kick → Kick) : (s.modKick p f).mem = s.mem ∧ (s.modKick p f).hostMem = s.hostMem := by
  simp [State.modKick]

@[simp] theorem State.complete_mem (s : State) (p : BitVec 6) (seq status : Nat) (res : List Byte) (irq : Bool) : (s.complete p seq status res irq).mem = s.mem ∧ (s.complete p seq status res irq).hostMem = s.hostMem := by
  simp [State.complete]

@[simp] theorem State.takeKick_mem (s : State) (p : BitVec 6) (v n : Nat) : (s.takeKick p v n).mem = s.mem ∧ (s.takeKick p v n).hostMem = s.hostMem := by
  simp [State.takeKick]

@[simp] theorem State.reply_mem (s : State) (p : BitVec 6) (status : Nat) (res : List Byte) : (s.reply p status res).mem = s.mem ∧ (s.reply p status res).hostMem = s.hostMem := by
  unfold State.reply
  dsimp only
  constructor <;> (repeat' split) <;> simp

@[simp] theorem State.notYet_mem (s : State) (p : BitVec 6) (phase : Nat) : (s.notYet p phase).mem = s.mem ∧ (s.notYet p phase).hostMem = s.hostMem := by
  simp [State.notYet]

@[simp] theorem State.admin_mem (s : State) (p : BitVec 6) (k : State) :
    (s.admin p k).mem = (if p ≠ 0 then s.mem else k.mem) ∧ (s.admin p k).hostMem = (if p ≠ 0 then s.hostMem else k.hostMem) := by
  unfold State.admin
  constructor <;> split <;> simp

@[simp] theorem State.started_mem (s : State) (p : BitVec 6) (c : Word) (k : State) :
    (s.started p c k).mem = (if c.toNat ≥ 64 then s.mem else if (s.ctx c.toNat).st ≠ 1 then s.mem else k.mem) ∧
    (s.started p c k).hostMem = (if c.toNat ≥ 64 then s.hostMem else if (s.ctx c.toNat).st ≠ 1 then s.hostMem else k.hostMem) := by
  unfold State.started
  constructor <;> (repeat' split) <;> simp_all

theorem State.started_wf (s : State) (p : BitVec 6) (c : Word) (k : State) (h : Memory.wf s.mem = true) (hk : Memory.wf k.mem = true) :
    Memory.wf (s.started p c k).mem = true := by
  rw [(s.started_mem p c k).1]
  (repeat' split) <;> assumption

theorem State.started_keepsHost (s : State) (p : BitVec 6) (c : Word) (k : State) (hk : k.hostMem = s.hostMem) :
    (s.started p c k).hostMem = s.hostMem := by
  rw [(s.started_mem p c k).2, hk]
  simp

end Sys2Proof.Machine
end

