-- ==== Sys2Proof/Laws/KeepDevice.lean ====
section
/-! SUPPORT. What each operation does to memory and host memory, over debug, observation, stacks, firmware, issue and the scheduler: nothing, or a write in the canonical
form. Each lemma says it of one operation whole. -/

namespace Sys2Proof.Machine

/-! ### Debug -/

@[simp] theorem State.resumeWg_mem (s : State) (w : Nat) : (s.resumeWg w).mem = s.mem ∧ (s.resumeWg w).hostMem = s.hostMem := by
  simp [State.resumeWg]

@[simp] theorem State.rfeLane_mem (s : State) (t : Nat) : (s.rfeLane t).mem = s.mem ∧ (s.rfeLane t).hostMem = s.hostMem := by
  unfold State.rfeLane
  constructor <;> (repeat' split) <;> simp

@[simp] theorem State.modHalted_mem (s : State) (w g l : Nat) (f : Thread → Thread) : (s.modHalted w g l f).mem = s.mem ∧ (s.modHalted w g l f).hostMem = s.hostMem := by
  simp [State.modHalted]

@[simp] theorem State.putUndoByte_hostMem (s : State) (a : Nat) (v : Byte) : (s.putUndoByte a v).hostMem = s.hostMem := by
  unfold State.putUndoByte
  (repeat' split) <;> simp

theorem State.putUndoByte_wf (s : State) (a : Nat) (v : Byte) (h : Memory.wf s.mem = true) : Memory.wf (s.putUndoByte a v).mem = true := by
  unfold State.putUndoByte
  (repeat' split) <;> first
    | exact h
    | exact memSet_wf _ _ _ h

@[simp] theorem State.undoAll_hostMem (s : State) (l : List Undo) : (s.undoAll l).hostMem = s.hostMem := by
  unfold State.undoAll
  (repeat' split) <;> simp

theorem State.undoAll_wf (s : State) (l : List Undo) (h : Memory.wf s.mem = true) : Memory.wf (s.undoAll l).mem = true := by
  unfold State.undoAll
  refine foldl_wf (fun t u ht => ?_) _ _ h
  split
  · exact State.putUndoByte_wf _ _ _ ht
  · exact ht

@[simp] theorem State.redoAll_hostMem (s : State) (l : List Undo) : (s.redoAll l).hostMem = s.hostMem :=
  foldl_hostMem (fun t u => by simp) _ _

theorem State.redoAll_wf (s : State) (l : List Undo) (h : Memory.wf s.mem = true) : Memory.wf (s.redoAll l).mem = true := by
  unfold State.redoAll
  exact foldl_wf (fun t u ht => State.putUndoByte_wf _ _ _ ht) _ _ h

@[simp] theorem State.relandAll_mem (s : State) (core : Nat) (l : List Landed) : (s.relandAll core l).mem = s.mem ∧ (s.relandAll core l).hostMem = s.hostMem := by
  simp [State.relandAll]

@[simp] theorem State.addPubs_mem (s : State) (ctx : Nat) (g : Group) : (s.addPubs ctx g).mem = s.mem ∧ (s.addPubs ctx g).hostMem = s.hostMem := by
  unfold State.addPubs
  constructor <;> (repeat first
    | rfl
    | (refine foldl_mem ?_ _ _; intro t p)
    | (refine foldl_hostMem ?_ _ _; intro t p)
    | split
    | (simp; done))

@[simp] theorem State.restoreAt_mem (s : State) (w c : Nat) (n : Snap) : (s.restoreAt w c n).mem = s.mem ∧ (s.restoreAt w c n).hostMem = s.hostMem := by
  simp [State.restoreAt]

@[simp] theorem State.rollback_hostMem (s : State) (w c : Nat) : (s.rollback w c).hostMem = s.hostMem := by
  unfold State.rollback
  dsimp only
  split <;> simp

theorem State.rollback_wf (s : State) (w c : Nat) (h : Memory.wf s.mem = true) : Memory.wf (s.rollback w c).mem = true := by
  unfold State.rollback
  dsimp only
  split
  · exact h
  · simp only [State.modWg_frame]
    refine State.redoAll_wf _ _ ?_
    simp only [State.restoreAt_mem]
    exact State.undoAll_wf _ _ h

@[simp] theorem State.stopWith_mem (s : State) (w : Nat) (r : HaltRec) : (s.stopWith w r).mem = s.mem ∧ (s.stopWith w r).hostMem = s.hostMem := by
  simp [State.stopWith]

@[simp] theorem State.debugStop_mem (s : State) (w : Nat) : (s.debugStop w).mem = s.mem ∧ (s.debugStop w).hostMem = s.hostMem := by
  simp [State.debugStop]

@[simp] theorem State.stopAll_mem (s : State) (page : BitVec 6) (l : List Nat) : (s.stopAll page l).mem = s.mem ∧ (s.stopAll page l).hostMem = s.hostMem := by
  simp [State.stopAll]

@[simp] theorem State.letRun_mem (s : State) (page : BitVec 6) (w : Nat) (f : Workgroup → Workgroup) : (s.letRun page w f).mem = s.mem ∧ (s.letRun page w f).hostMem = s.hostMem := by
  simp [State.letRun]

@[simp] theorem State.stepStops_mem (s : State) (core : Nat) : (s.stepStops core).mem = s.mem ∧ (s.stepStops core).hostMem = s.hostMem := by
  unfold State.stepStops
  constructor
  · refine foldl_mem (fun t p => ?_) _ _
    split
    · split
      · dsimp only
        split <;> simp
      · simp
    · split
      · split <;> simp
      · rfl
  · refine foldl_hostMem (fun t p => ?_) _ _
    split
    · split
      · dsimp only
        split <;> simp
      · simp
    · split
      · split <;> simp
      · rfl

@[simp] theorem State.debugCtx_mem (s : State) (p : BitVec 6) (c : Nat) (k : State) :
    (s.debugCtx p c k).mem = (if c ≥ 64 || !(s.ctx c).debug then s.mem else if (s.ctx c).st ≠ 1 then s.mem else k.mem) ∧
    (s.debugCtx p c k).hostMem = (if c ≥ 64 || !(s.ctx c).debug then s.hostMem else if (s.ctx c).st ≠ 1 then s.hostMem else k.hostMem) := by
  unfold State.debugCtx
  constructor <;> (repeat' split) <;> simp_all

@[simp] theorem State.debugWg_mem (s : State) (p : BitVec 6) (t : Long) (k : Nat → State) (hk : ∀ a, (k a).mem = s.mem ∧ (k a).hostMem = s.hostMem) : (s.debugWg p t k).mem = s.mem ∧ (s.debugWg p t k).hostMem = s.hostMem := by
  unfold State.debugWg
  constructor <;> (repeat' split) <;> simp_all

@[simp] theorem State.stoppedWg_mem (s : State) (p : BitVec 6) (t : Long) (k : Nat → State) (hk : ∀ a, (k a).mem = s.mem ∧ (k a).hostMem = s.hostMem) : (s.stoppedWg p t k).mem = s.mem ∧ (s.stoppedWg p t k).hostMem = s.hostMem := by
  unfold State.stoppedWg
  constructor <;> (repeat' split) <;> simp_all

@[simp] theorem State.writeHaltedReg_mem (s : State) (w g l r : Nat) (v : Word) : (s.writeHaltedReg w g l r v).mem = s.mem ∧ (s.writeHaltedReg w g l r v).hostMem = s.hostMem := by
  simp [State.writeHaltedReg]

@[simp] theorem State.noteMended_mem (s : State) (w : Nat) : (s.noteMended w).mem = s.mem ∧ (s.noteMended w).hostMem = s.hostMem := by
  unfold State.noteMended
  constructor <;> (repeat' split) <;> simp

/-! ### Observe -/

@[simp] theorem State.drainTrace_hostMem (s : State) (core : Nat) : (s.drainTrace core).hostMem = s.hostMem := by
  unfold State.drainTrace
  (repeat' split) <;> simp

theorem State.drainTrace_wf (s : State) (core : Nat) (h : Memory.wf s.mem = true) : Memory.wf (s.drainTrace core).mem = true := by
  unfold State.drainTrace
  split
  · exact h
  · split
    · exact h
    · simpa using memSetAll_wf _ _ h

@[simp] theorem State.drainAll_hostMem (s : State) : s.drainAll.hostMem = s.hostMem := by
  simp [State.drainAll]

theorem State.drainAll_wf (s : State) (h : Memory.wf s.mem = true) : Memory.wf s.drainAll.mem = true :=
  foldl_wf (fun _ _ ht => State.drainTrace_wf _ _ ht) _ _ h

@[simp] theorem State.modTraces_mem (s : State) (on : Nat → Bool) (f : TraceSt → TraceSt) : (s.modTraces on f).mem = s.mem ∧ (s.modTraces on f).hostMem = s.hostMem := by
  simp [State.modTraces]

@[simp] theorem State.markSampler_mem (s : State) : (s.markSampler).mem = s.mem ∧ (s.markSampler).hostMem = s.hostMem := by
  simp [State.markSampler]

@[simp] theorem State.putSample_hostMem (s : State) (core ctx : Nat) (l : List Byte) : (s.putSample core ctx l).hostMem = s.hostMem := by
  unfold State.putSample
  split
  · rfl
  · dsimp only
    split <;> simp

theorem State.putSample_wf (s : State) (core ctx : Nat) (l : List Byte) (h : Memory.wf s.mem = true) : Memory.wf (s.putSample core ctx l).mem = true := by
  unfold State.putSample
  split
  · exact h
  · dsimp only
    split
    · simpa using h
    · simpa using memSetAll_wf _ _ h

@[simp] theorem State.samplePart_hostMem (s : State) (core ctx part : Nat) : (s.samplePart core ctx part).hostMem = s.hostMem := by
  unfold State.samplePart
  (repeat' split) <;> simp

theorem State.samplePart_wf (s : State) (core ctx part : Nat) (h : Memory.wf s.mem = true) : Memory.wf (s.samplePart core ctx part).mem = true := by
  unfold State.samplePart
  (repeat' split)
  · exact h
  · exact State.putSample_wf _ _ _ _ h
  · exact State.putSample_wf _ _ _ _ (by simpa using h)

@[simp] theorem State.sampleCtx_hostMem (s : State) (core ctx : Nat) (m : Sampler) : (s.sampleCtx core ctx m).hostMem = s.hostMem := by
  unfold State.sampleCtx
  dsimp only
  (repeat' split) <;> simp

theorem State.sampleCtx_wf (s : State) (core ctx : Nat) (m : Sampler) (h : Memory.wf s.mem = true) : Memory.wf (s.sampleCtx core ctx m).mem = true := by
  unfold State.sampleCtx
  dsimp only
  (repeat' split)
  · exact h
  · simpa using h
  · exact foldl_wf (fun t p ht => State.samplePart_wf _ _ _ _ ht) _ _ (by simpa using h)

@[simp] theorem State.seeGroups_mem (s : State) (core : Nat) : (s.seeGroups core).mem = s.mem ∧ (s.seeGroups core).hostMem = s.hostMem := by
  simp [State.seeGroups]

@[simp] theorem State.endTrial_mem (s : State) (ctx : Nat) : (s.endTrial ctx).mem = s.mem ∧ (s.endTrial ctx).hostMem = s.hostMem := by
  simp [State.endTrial]

@[simp] theorem State.query_hostMem (s : State) (p : BitVec 6) (ctx : Word) (l : State → List Byte) : (s.query p ctx l).hostMem = s.hostMem := by
  unfold State.query
  split <;> simp

theorem State.query_wf (s : State) (p : BitVec 6) (ctx : Word) (l : State → List Byte) (h : Memory.wf s.mem = true) :
    Memory.wf (s.query p ctx l).mem = true := by
  unfold State.query
  split
  · simpa using h
  · simpa using s.drainAll_wf h

/-! ### Power -/

@[simp] theorem State.setPoint_mem (s : State) (core p : Nat) : (s.setPoint core p).mem = s.mem ∧ (s.setPoint core p).hostMem = s.hostMem := by
  simp [State.setPoint]

@[simp] theorem State.lowerTo_mem (s : State) (core p : Nat) : (s.lowerTo core p).mem = s.mem ∧ (s.lowerTo core p).hostMem = s.hostMem := by
  simp [State.lowerTo]

@[simp] theorem State.thermalStop_mem (s : State) : (s.thermalStop).mem = s.mem ∧ (s.thermalStop).hostMem = s.hostMem := by
  simp [State.thermalStop]

@[simp] theorem State.takeHeld_mem (s : State) (p : Nat) (k : Kick) : (s.takeHeld p k).mem = s.mem ∧ (s.takeHeld p k).hostMem = s.hostMem := by
  unfold State.takeHeld
  constructor <;> (repeat' split) <;> simp

/-! ### Stack -/

@[simp] theorem State.startMigration_mem (s : State) (stack l target : Nat) (retire : Option Nat) : (s.startMigration stack l target retire).mem = s.mem ∧ (s.startMigration stack l target retire).hostMem = s.hostMem := by
  simp [State.startMigration]

@[simp] theorem State.retireDone_mem (s : State) (stack bus word : Nat) : (s.retireDone stack bus word).mem = s.mem ∧ (s.retireDone stack bus word).hostMem = s.hostMem := by
  simp [State.retireDone]

@[simp] theorem State.endMigration_mem (s : State) (stack : Nat) (m : Migration) : (s.endMigration stack m).mem = s.mem ∧ (s.endMigration stack m).hostMem = s.hostMem := by
  unfold State.endMigration
  constructor <;> (repeat' split) <;> simp

@[simp] theorem State.recordStripe_mem (s : State) (stack : Nat) (m : Migration) : (s.recordStripe stack m).mem = s.mem ∧ (s.recordStripe stack m).hostMem = s.hostMem := by
  simp [State.recordStripe]

@[simp] theorem State.persists_mem (s : State) (stack bus conn : Nat) : (s.persists stack bus conn).mem = s.mem ∧ (s.persists stack bus conn).hostMem = s.hostMem := by
  simp [State.persists]

@[simp] theorem State.correctAt_mem (s : State) (stack bus g j : Nat) : (s.correctAt stack bus g j).mem = s.mem ∧ (s.correctAt stack bus g j).hostMem = s.hostMem := by
  simp [State.correctAt]

@[simp] theorem State.uncorrectable_mem (s : State) (stack pa wg : Nat) : (s.uncorrectable stack pa wg).mem = s.mem ∧ (s.uncorrectable stack pa wg).hostMem = s.hostMem := by
  simp [State.uncorrectable]

@[simp] theorem State.resetTest_mem (s : State) (stack bus : Nat) : (s.resetTest stack bus).mem = s.mem ∧ (s.resetTest stack bus).hostMem = s.hostMem := by
  simp [State.resetTest]

@[simp] theorem State.vbt_mem (s : State) (h : Hdr) (i : Instr) (f : FmtS) (both conn : Bool) (act : State → Word → Word → Nat → State × Option (Nat × Nat)) (hact : ∀ s a b n, (act s a b n).1.mem = s.mem ∧ (act s a b n).1.hostMem = s.hostMem) : (s.vbt h i f both conn act).mem = s.mem ∧ (s.vbt h i f both conn act).hostMem = s.hostMem := by
  unfold State.vbt
  dsimp only
  refine State.lowOperands_mem _ _ _ _ _ _ _ ?_
  intro t
  constructor <;> (repeat' split) <;> (simp_all; done)

@[simp] theorem State.drive_mem (s : State) (w : Word) (flat : Bool) (arr : Nat) : (s.drive w flat arr).1.mem = s.mem ∧ (s.drive w flat arr).1.hostMem = s.hostMem := by
  simp [State.drive]

/-! ### Firmware -/

@[simp] theorem State.resetCommand_mem (s : State) (page : BitVec 6) (ctx : Word) (reason : Nat) (stop : Bool) : (s.resetCommand page ctx reason stop).mem = s.mem ∧ (s.resetCommand page ctx reason stop).hostMem = s.hostMem := by
  simp [State.resetCommand]

@[simp] theorem State.purgeSpan_mem (s : State) (ctx va n : Nat) : (s.purgeSpan ctx va n).mem = s.mem ∧ (s.purgeSpan ctx va n).hostMem = s.hostMem := by
  simp [State.purgeSpan]

@[simp] theorem State.flip_hostMem (s : State) (host : Bool) (l : List (Nat × Nat × Nat)) : (s.flip host l).hostMem = s.hostMem := by
  unfold State.flip
  dsimp only
  split <;> simp

theorem State.flip_wf (s : State) (host : Bool) (l : List (Nat × Nat × Nat)) (h : Memory.wf s.mem = true) : Memory.wf (s.flip host l).mem = true := by
  have h1 : Memory.wf (l.foldl (fun s x => s.bufferWrite x.1 (leBytes 8 (leafOwned host x.2.1))) s).mem = true :=
    foldl_wf (fun t x ht => State.bufferWrite_wf _ _ _ ht) _ _ h
  unfold State.flip
  dsimp only
  split <;> simpa using h1

@[simp] theorem State.handover_hostMem (s : State) (page : BitVec 6) (ctx : Word) (va len : Nat) (host : Bool) :
    (s.handover page ctx va len host).hostMem = s.hostMem := by
  unfold State.handover
  dsimp only
  split
  · split <;> simp
  · refine State.started_keepsHost _ _ _ _ ?_
    (repeat' split) <;> simp

theorem State.handover_wf (s : State) (page : BitVec 6) (ctx : Word) (va len : Nat) (host : Bool) (h : Memory.wf s.mem = true) :
    Memory.wf (s.handover page ctx va len host).mem = true := by
  unfold State.handover
  dsimp only
  split
  · split <;> simpa using h
  · refine State.started_wf _ _ _ _ h ?_
    (repeat' split) <;> first
      | (simpa using h)
      | (simpa using State.flip_wf _ _ _ h)

@[simp] theorem State.putLayout_hostMem (s : State) (c h : Nat) (rec : BitVec 512) : (s.putLayout c h rec).hostMem = s.hostMem :=
  State.bufferWrite_hostMem _ _ _

theorem State.putLayout_wf (s : State) (c h : Nat) (rec : BitVec 512) (hm : Memory.wf s.mem = true) : Memory.wf (s.putLayout c h rec).mem = true :=
  State.bufferWrite_wf _ _ _ hm

@[simp] theorem State.undoEntries_hostMem (s : State) (k : Kick) : (s.undoEntries k).hostMem = s.hostMem := by
  unfold State.undoEntries
  dsimp only
  split
  · rfl
  · have h1 : (k.undo.foldl (fun s x => if memNat s.mem x.1 8 = x.2.2 then s.bufferWrite x.1 (leBytes 8 x.2.1) else s) s).hostMem = s.hostMem :=
      foldl_hostMem (fun t x => by split <;> simp) _ _
    split <;> simpa using h1

theorem State.undoEntries_wf (s : State) (k : Kick) (h : Memory.wf s.mem = true) : Memory.wf (s.undoEntries k).mem = true := by
  have h1 : Memory.wf (k.undo.foldl (fun s x => if memNat s.mem x.1 8 = x.2.2 then s.bufferWrite x.1 (leBytes 8 x.2.1) else s) s).mem = true :=
    foldl_wf (fun t x ht => by
      split
      · exact State.bufferWrite_wf _ _ _ ht
      · exact ht) _ _ h
  unfold State.undoEntries
  dsimp only
  split
  · exact h
  · split <;> simpa using h1

@[simp] theorem State.undoStops_mem (s : State) (p : BitVec 6) (k : Kick) : (s.undoStops p k).mem = s.mem ∧ (s.undoStops p k).hostMem = s.hostMem := by
  unfold State.undoStops
  dsimp only
  constructor <;> (repeat' split) <;> simp

/-! ### GroupWide -/

@[simp] theorem State.useMasks_mem (s : State) (f : FmtG) : (s.useMasks f).mem = s.mem ∧ (s.useMasks f).hostMem = s.hostMem := by
  simp [State.useMasks]

@[simp] theorem State.groupWide_mem (s : State) (h : Hdr) (i : Instr) (f : FmtG) (srcs : List Src) (psrcs : List Nat) (dst pdst lat : Nat) (fpu : Bool) (out : State → BitVec 32 → Nat → BitVec 32 → LaneOut) : (s.groupWide h i f srcs psrcs dst pdst lat fpu out).mem = s.mem ∧ (s.groupWide h i f srcs psrcs dst pdst lat fpu out).hostMem = s.hostMem := by
  simp [State.groupWide]

/-! ### Issue -/

@[simp] theorem State.askFor_mem (s : State) (core ctx : Nat) (l : List (Nat × Nat)) : (s.askFor core ctx l).mem = s.mem ∧ (s.askFor core ctx l).hostMem = s.hostMem := by
  simp [State.askFor]

@[simp] theorem State.resolveWait_mem (s : State) (core slot : Nat) (w : Waiting) : (s.resolveWait core slot w).mem = s.mem ∧ (s.resolveWait core slot w).hostMem = s.hostMem := by
  unfold State.resolveWait
  constructor <;> (repeat' split) <;> simp

@[simp] theorem State.resolvePart_mem (s : State) (core part : Nat) : (s.resolvePart core part).mem = s.mem ∧ (s.resolvePart core part).hostMem = s.hostMem := by
  simp [State.resolvePart]

@[simp] theorem State.asIf_mem (s : State) (core slot : Nat) (m : BitVec 32) (p : Long) : (s.asIf core slot m p).mem = s.mem ∧ (s.asIf core slot m p).hostMem = s.hostMem := by
  simp [State.asIf]

@[simp] theorem State.crossMasks_mem (s : State) (core slot : Nat) (r : Rows) : (s.crossMasks core slot r).mem = s.mem ∧ (s.crossMasks core slot r).hostMem = s.hostMem := by
  unfold State.crossMasks
  constructor
  · refine foldl_mem (fun t p => ?_) _ _
    split
    · split
      · refine foldl_mem (fun u l => ?_) _ _
        dsimp only
        split <;> simp
      · rfl
    · rfl
  · refine foldl_hostMem (fun t p => ?_) _ _
    split
    · split
      · refine foldl_hostMem (fun u l => ?_) _ _
        dsimp only
        split <;> simp
      · rfl
    · rfl

@[simp] theorem State.askLeases_mem (s : State) (core slot : Nat) (r : Rows) : (s.askLeases core slot r).mem = s.mem ∧ (s.askLeases core slot r).hostMem = s.hostMem := by
  simp [State.askLeases]

@[simp] theorem State.accrue_mem (s : State) (core : Nat) : (s.accrue core).mem = s.mem ∧ (s.accrue core).hostMem = s.hostMem := by
  simp [State.accrue]

@[simp] theorem State.showPaths_mem (s : State) (core slot : Nat) (ma mb : BitVec 32) : (s.showPaths core slot ma mb).mem = s.mem ∧ (s.showPaths core slot ma mb).hostMem = s.hostMem := by
  simp [State.showPaths]

@[simp] theorem State.breakStop_mem (s : State) (core slot : Nat) (m skips : BitVec 32) (index : Nat) (p : Long) (b : Bool) : (s.breakStop core slot m skips index p b).mem = s.mem ∧ (s.breakStop core slot m skips index p b).hostMem = s.hostMem := by
  simp [State.breakStop]

@[simp] theorem State.report_mem (s : State) (core slot : Nat) (reason : Nat) (lead : Long) : (s.report core slot reason lead).mem = s.mem ∧ (s.report core slot reason lead).hostMem = s.hostMem := by
  simp [State.report]

@[simp] theorem State.countIssue_mem (s : State) (core slot : Nat) (ps : List Long) : (s.countIssue core slot ps).mem = s.mem ∧ (s.countIssue core slot ps).hostMem = s.hostMem := by
  simp [State.countIssue]

@[simp] theorem State.issueGroup_mem (s : State) (core slot : Nat) (r : Rows) (e : List (Nat × Long)) (a : Long) : (s.issueGroup core slot r e a).mem = s.mem ∧ (s.issueGroup core slot r e a).hostMem = s.hostMem := by
  unfold State.issueGroup
  dsimp only
  constructor <;> (repeat' split) <;> simp

@[simp] theorem State.movedFor_mem (s : State) (l va : Nat) : (s.movedFor l va).mem = s.mem ∧ (s.movedFor l va).hostMem = s.hostMem := by
  unfold State.movedFor
  constructor <;> (repeat' split) <;> simp

@[simp] theorem State.fetchAhead_mem (s : State) (core slot : Nat) (r : Rows) (p : Long) : (s.fetchAhead core slot r p).mem = s.mem ∧ (s.fetchAhead core slot r p).hostMem = s.hostMem := by
  unfold State.fetchAhead
  dsimp only
  constructor <;> (repeat' split) <;> first
    | (simp; done)
    | (refine foldl_mem (fun t va => ?_) _ _; (repeat' split) <;> simp)
    | (refine foldl_hostMem (fun t va => ?_) _ _; (repeat' split) <;> simp)

@[simp] theorem State.noteLevels_mem (s : State) (core slot : Nat) (idle : Bool) : (s.noteLevels core slot idle).mem = s.mem ∧ (s.noteLevels core slot idle).hostMem = s.hostMem := by
  simp [State.noteLevels]

@[simp] theorem State.lookAt_mem (s : State) (core slot : Nat) : (s.lookAt core slot).1.mem = s.mem ∧ (s.lookAt core slot).1.hostMem = s.hostMem := by
  simp [State.lookAt]

@[simp] theorem State.dueTraps_mem (s : State) (core part : Nat) : (s.dueTraps core part).mem = s.mem ∧ (s.dueTraps core part).hostMem = s.hostMem := by
  simp [State.dueTraps]

@[simp] theorem State.meterCycle_mem (s : State) (core : Nat) : (s.meterCycle core).mem = s.mem ∧ (s.meterCycle core).hostMem = s.hostMem := by
  simp [State.meterCycle]

@[simp] theorem State.beginCycle_mem (s : State) (core : Nat) : (s.beginCycle core).mem = s.mem ∧ (s.beginCycle core).hostMem = s.hostMem := by
  simp [State.beginCycle]

@[simp] theorem State.endCycle_mem (s : State) (core : Nat) : (s.endCycle core).mem = s.mem ∧ (s.endCycle core).hostMem = s.hostMem := by
  simp [State.endCycle]

@[simp] theorem State.lower_mem (s : State) (core slot : Nat) (forced : Bool) : (s.lower core slot forced).mem = s.mem ∧ (s.lower core slot forced).hostMem = s.hostMem := by
  simp [State.lower]

/-! ### Schedule -/

@[simp] theorem State.advanceCore_mem (s : State) (core : Nat) : (s.advanceCore core).mem = s.mem ∧ (s.advanceCore core).hostMem = s.hostMem := by
  simp [State.advanceCore]

@[simp] theorem State.drainSome_hostMem (s : State) (core : Nat) : (s.drainSome core).hostMem = s.hostMem := by
  unfold State.drainSome
  (repeat' split) <;> simp

theorem State.drainSome_wf (s : State) (core : Nat) (h : Memory.wf s.mem = true) : Memory.wf (s.drainSome core).mem = true := by
  unfold State.drainSome
  (repeat' split) <;> first
    | exact h
    | exact State.drainTrace_wf _ _ h

@[simp] theorem State.foundBad_mem (s : State) (k : Nat) : (s.foundBad k).mem = s.mem ∧ (s.foundBad k).hostMem = s.hostMem := by
  unfold State.foundBad
  constructor <;> split <;> simp

@[simp] theorem State.softError_mem (s : State) : (s.softError).mem = s.mem ∧ (s.softError).hostMem = s.hostMem := by
  unfold State.softError
  dsimp only
  constructor <;> (repeat' split) <;> simp

@[simp] theorem State.plan_mem (s : State) : (s.plan).mem = s.mem ∧ (s.plan).hostMem = s.hostMem := by
  simp [State.plan]

@[simp] theorem State.schedule_mem (s : State) : (s.schedule).mem = s.mem ∧ (s.schedule).hostMem = s.hostMem := by
  simp [State.schedule]

end Sys2Proof.Machine
end

