-- ==== Sys2Proof/Laws/Operands.lean ====
section
/-! SUPPORT. What an issue whose operands are ready does: the checks pass, every lane computes at the core, and the result is under
way. -/

namespace Sys2Proof.Machine

/-! ### Raising a token changes no operand -/

theorem State.tokUp_group (s : State) (core slot k c q : Nat) :
    ((s.tokUp core slot k).group c q).threads = (s.group c q).threads ∧ ((s.tokUp core slot k).group c q).wg = (s.group c q).wg := by
  unfold State.tokUp
  split
  · exact ⟨rfl, rfl⟩
  · by_cases hg : s.hasGroup core slot = true
    · by_cases e : gkey c q = gkey core slot
      · have h2 : (s.modGroup core slot (fun g => { g with tokens := tblSet 0 g.tokens k (g.token k + 1) })).group c q =
            { s.group core slot with tokens := tblSet 0 (s.group core slot).tokens k ((s.group core slot).token k + 1) } := by
          have := s.modGroup_self (fun g => { g with tokens := tblSet 0 g.tokens k (g.token k + 1) }) hg
          simpa [State.group, e] using this
        have h3 : s.group c q = s.group core slot := by simp [State.group, e]
        rw [h2, h3]
        exact ⟨rfl, rfl⟩
      · rw [State.modGroup_other s _ e]
        exact ⟨rfl, rfl⟩
    · simp [State.modGroup, hg]

theorem State.takeToken_thread (s : State) (h : Hdr) : (s.takeToken h).thread = s.thread := by
  funext c q l
  unfold State.takeToken
  split
  · simp [State.thread, Group.thread, (s.tokUp_group _ _ _ c q).1]
  · rfl

theorem State.tokUp_found (s : State) (core slot k key : Nat) :
    ((tblFind (s.tokUp core slot k).groups key).map (fun g => g.wg)) = (tblFind s.groups key).map (fun g => g.wg) := by
  unfold State.tokUp State.modGroup
  split
  · rfl
  · split
    · rename_i hg
      by_cases e : key = gkey core slot
      · subst e
        obtain ⟨g, hg'⟩ := Option.isSome_iff_exists.1 hg
        simp [State.setGroup, State.group, tblGet, tblFind_tblPut_self, hg']
      · simp [State.setGroup, tblFind_tblPut_other _ _ e]
    · rfl

theorem State.takeToken_wgOf (s : State) (h : Hdr) : (s.takeToken h).wgOf = s.wgOf := by
  funext c q
  have hw : (s.takeToken h).wgs = s.wgs := by simp
  have hf : (tblFind (s.takeToken h).groups (gkey c q)).map (fun g => g.wg) = (tblFind s.groups (gkey c q)).map (fun g => g.wg) := by
    unfold State.takeToken
    split
    · exact s.tokUp_found _ _ _ _
    · rfl
  unfold State.wgOf
  rw [hw]
  cases h1 : tblFind (s.takeToken h).groups (gkey c q) <;> cases h2 : tblFind s.groups (gkey c q) <;> simp [h1, h2] at hf
  · rfl
  · simpa using hf

/-- Every operand reads the same once the token is raised. -/
theorem State.takeToken_operands (s : State) (h : Hdr) :
    (s.takeToken h).curWg = s.curWg ∧ (s.takeToken h).curLaunch = s.curLaunch ∧ (s.takeToken h).curCtx = s.curCtx ∧
    (s.takeToken h).laneBits = s.laneBits ∧ (s.takeToken h).laneTag = s.laneTag ∧ (s.takeToken h).selWord = s.selWord ∧
    (s.takeToken h).selPair = s.selPair ∧ (s.takeToken h).windowWord = s.windowWord ∧ (s.takeToken h).srcVal = s.srcVal ∧
    (s.takeToken h).srcProxy = s.srcProxy ∧ (s.takeToken h).srcMarked = s.srcMarked := by
  have e1 : (s.takeToken h).curWg = s.curWg := by simp [State.curWg, s.takeToken_wgOf h]
  have e2 : (s.takeToken h).curLaunch = s.curLaunch := by simp [State.curLaunch, State.launchOfWg, e1]
  have e3 : (s.takeToken h).curCtx = s.curCtx := by simp [State.curCtx, State.ctxOfWg, e1]
  have e4 : (s.takeToken h).laneBits = s.laneBits := by
    funext l r
    simp [State.laneBits, s.takeToken_thread h]
  have e5 : (s.takeToken h).laneTag = s.laneTag := by
    funext l r
    simp [State.laneTag, s.takeToken_thread h]
  have e6 : (s.takeToken h).selWord = s.selWord := by
    funext l r
    simp [State.selWord, e4]
  have e7 : (s.takeToken h).selPair = s.selPair := by
    funext l r
    simp [State.selPair, e6]
  have e8 : (s.takeToken h).windowWord = s.windowWord := by
    funext w o
    simp [State.windowWord, State.walk, State.window, State.startOrNow, State.launchOfWg, e1, e2, e3]
    rfl
  have e9 : (s.takeToken h).srcVal = s.srcVal := by
    funext l x
    cases x <;> simp [State.srcVal, e6, e7, e8]
  have e10 : (s.takeToken h).isProxy = s.isProxy := by
    funext l r
    simp [State.isProxy, State.replaying, State.ctxOfWg, e1, e5]
  have e11 : (s.takeToken h).isMarked = s.isMarked := by
    funext l r
    simp [State.isMarked, State.replaying, State.ctxOfWg, e1, e5]
  refine ⟨e1, e2, e3, e4, e5, e6, e7, e8, e9, ?_, ?_⟩
  · funext l x
    simp [State.srcProxy, e10]
  · funext l x
    simp [State.srcMarked, e11]

/-! ### The checks pass -/

theorem State.crossings_plain (s : State) (act : BitVec 32) (srcs : List Src) (stay : Nat → Nat → Bool) (count : Nat)
    (h : ∀ l ∈ lanesOf act, ∀ x ∈ srcs, s.srcProxy l x = false) : s.crossings act srcs stay count = [] := by
  simp only [State.crossings, List.flatten_eq_nil_iff, List.mem_map, forall_exists_index, and_imp]
  rintro l a ha rfl
  simp only [List.flatten_eq_nil_iff, List.mem_mapIdx, forall_exists_index]
  rintro m j hj rfl
  split
  · rfl
  · have := h a ha _ (List.getElem_mem hj)
    simp only [State.srcProxy, List.any_eq_false] at this
    have e : (srcs[j].regs.filter (fun r => s.isProxy a r)) = [] := by
      rw [List.filter_eq_nil_iff]
      exact this
    simp [State.xopsOf, e]

/-- Where no codeword that is read is uncorrectable, nothing is noted. -/
theorem State.noteBadOperands_none (s : State) (act : BitVec 32) (srcs : List Src) (h : s.badOperands act srcs = []) : s.noteBadOperands act srcs = s := by
  simp [State.noteBadOperands, h]

/-- Where no operand lane failed, the instruction goes on. -/
theorem State.raiseFailed_none (s : State) (h : Hdr) (lanes : BitVec 32) (k : State → State) (hf : s.cur.failed = []) : s.raiseFailed h lanes k = k s := by
  simp [State.raiseFailed, hf, crossFail, lowestFail]

/-- Operands that are ready: the instruction goes on at once, and takes nothing before. -/
theorem State.withOperandsLate_ready (s : State) (h : Hdr) (i : Instr) (act : BitVec 32) (srcs : List Src) (dsts preds : List Nat)
    (stay : Nat → Nat → Bool) (count : Nat) (pre k : State → State) (r : Ready s act srcs dsts preds) :
    s.withOperandsLate h i act srcs dsts preds stay count pre k = k s := by
  obtain ⟨h0, -, h1, h2, h3, h4, -⟩ := r
  have hc := s.crossings_plain act srcs stay count h3
  have hb := s.noteBadOperands_none act srcs h4
  unfold State.withOperandsLate
  rw [if_neg (by omega), h1]
  by_cases ha : act = 0
  · simp only [ne_eq, ha, not_true_eq_false, false_and, if_false] at hb hc ⊢
    rw [hb, hc]
    simp
  · have hw := h2.resolve_left ha
    simp [hw.1, hw.2, hb, hc]

/-- Operands that are ready: nothing failed. -/
theorem State.withOperandsPre_ready (s : State) (h : Hdr) (i : Instr) (act : BitVec 32) (srcs : List Src) (dsts preds : List Nat)
    (stay : Nat → Nat → Bool) (count : Nat) (pre k : State → State) (r : Ready s act srcs dsts preds) :
    s.withOperandsPre h i act srcs dsts preds stay count pre k = k s := by
  unfold State.withOperandsPre
  rw [s.withOperandsLate_ready _ _ _ _ _ _ _ _ _ _ r]
  obtain ⟨-, -, -, -, -, -, h5⟩ := r
  exact s.raiseFailed_none _ _ _ h5

theorem State.withOperands_ready (s : State) (h : Hdr) (i : Instr) (act : BitVec 32) (srcs : List Src) (dsts preds : List Nat)
    (stay : Nat → Nat → Bool) (count : Nat) (k : State → State) (r : Ready s act srcs dsts preds) :
    s.withOperands h i act srcs dsts preds stay count k = k s :=
  s.withOperandsPre_ready h i act srcs dsts preds stay count id k r

/-- A form whose sources are plain executes in no home. -/
theorem State.formHome_plain (s : State) (fm : Form) (l : Nat) (h : ∀ x ∈ fm.srcs, s.srcProxy l x = false) : s.formHome fm l = none := by
  unfold State.formHome
  split
  · rfl
  · have : (fm.srcs.take fm.home).find? (fun x => s.srcProxy l x) = none := by
      rw [List.find?_eq_none]
      intro x hx
      simp [h x (List.mem_of_mem_take hx)]
    simp [State.homeOf, this]

/-! ### The arithmetic form -/

/-- One lane with plain sources: its writes, flags and traps join the result. -/
theorem State.aluLane_plain (s : State) (h : Hdr) (i : Instr) (fm : Form) (ev : Eval) (p : Pend) (l : Nat)
    (hp : ∀ x ∈ fm.srcs, s.srcProxy l x = false) :
    State.aluLane fm i ev (s.takeToken h, p) l = (s.takeToken h, { p with
      writes := p.writes ++ if laneTraps s fm ev l == 0 then laneWrites l fm.dst fm.pair (laneRes s fm ev l).bits (laneMark s fm l) else []
      flags := p.flags ++ if laneFlags s fm ev l != 0 then [(l, laneFlags s fm ev l)] else []
      traps := p.traps ||| if laneTraps s fm ev l != 0 then BitVec.ofNat 32 (2 ^ l) else 0
      exc := p.exc ||| laneTraps s fm ev l }) := by
  obtain ⟨-, e2, -, -, -, -, -, -, e9, e10, e11⟩ := s.takeToken_operands h
  have hf : (s.takeToken h).formHome fm l = none := State.formHome_plain _ _ _ (by simpa [e10] using hp)
  have ht : (s.takeToken h).thread = s.thread := s.takeToken_thread h
  unfold State.aluLane
  simp only [hf, e2, e9, e11, ht, State.takeToken_frame]
  have ef : (if ((fm.srcs.take fm.home).any fun x => s.srcMarked l x) = true then (0 : BitVec 5)
      else (ev (flagFlushIn s.curLaunch.kr) (flagFlushOut s.curLaunch.kr) (fm.srcs.map (fun x => (s.srcVal l x).toNat))).flags) =
      laneFlags s fm ev l := rfl
  have et : laneFlags s fm ev l &&& (s.thread s.cur.core s.cur.slot l).fpctl = laneTraps s fm ev l := rfl
  have er : ev (flagFlushIn s.curLaunch.kr) (flagFlushOut s.curLaunch.kr) (fm.srcs.map (fun x => (s.srcVal l x).toNat)) =
      laneRes s fm ev l := rfl
  have em : ((fm.srcs.take fm.home).any fun x => s.srcMarked l x) = laneMark s fm l := rfl
  rw [ef, et]
  simp only [er, em]
  by_cases h1 : laneTraps s fm ev l = 0#5
  · by_cases h2 : laneFlags s fm ev l = 0#5 <;> simp [h1, h2]
  · have h2 : laneFlags s fm ev l ≠ 0#5 := by
      intro e
      simp [laneTraps, e] at h1
    simp [h1, h2]

/-- The lanes of a list with plain sources, one after another. -/
theorem State.aluFold_plain (s : State) (h : Hdr) (i : Instr) (fm : Form) (ev : Eval) (L : List Nat) (p : Pend)
    (hp : ∀ l ∈ L, ∀ x ∈ fm.srcs, s.srcProxy l x = false) :
    L.foldl (fun a l => State.aluLane fm i ev a l) (s.takeToken h, p) = (s.takeToken h, { p with
      writes := p.writes ++ ((L.filter (fun l => laneTraps s fm ev l == 0)).map
        (fun l => laneWrites l fm.dst fm.pair (laneRes s fm ev l).bits (laneMark s fm l))).flatten
      flags := p.flags ++ (L.filter (fun l => laneFlags s fm ev l != 0)).map (fun l => (l, laneFlags s fm ev l))
      traps := (L.filter (fun l => laneTraps s fm ev l != 0)).foldl (fun m i => m ||| BitVec.ofNat 32 (2 ^ i)) p.traps
      exc := L.foldl (fun e l => e ||| laneTraps s fm ev l) p.exc }) := by
  induction L generalizing p with
  | nil => simp
  | cons l r ih =>
    rw [List.foldl_cons, s.aluLane_plain h i fm ev p l (hp l (by simp)), ih _ (fun m hm => hp m (by simp [hm]))]
    simp only [List.filter_cons, List.foldl_cons]
    by_cases h1 : laneTraps s fm ev l = 0#5 <;> by_cases h2 : laneFlags s fm ev l = 0#5 <;> simp [h1, h2]

/-- An arithmetic instruction whose operands are ready: its result is under way and its threads go on; with traps enabled a float form
holds them (R344). -/
theorem State.alu_ready (s : State) (h : Hdr) (i : Instr) (fm : Form) (ev : Eval) (r : ReadyFor s h fm) :
    s.alu h i fm ev =
      let t := issued s h fm.lat (resultOf s h fm ev (s.active h))
      let held := maskOf ((lanesOf s.cur.lanes).filter (fun l => (s.thread s.cur.core s.cur.slot l).fpctl != 0))
      if fm.fpu && held != 0 then t.hold held i s.fresh 6 else t := by
  obtain ⟨h0, h4, h1, h2, h3, h5, h6⟩ := r
  have hneed : (if fm.dst = 0x1FE || !s.cur.slots.isEmpty then [] else (lanesOf (s.active h)).filterMap (s.formHome fm)) = [] := by
    split
    · rfl
    · rw [List.filterMap_eq_nil_iff]
      intro l hl
      exact s.formHome_plain fm l (h3 l hl)
  unfold State.alu
  dsimp only
  rw [s.withOperandsPre_ready _ _ _ _ _ _ _ _ _ _ ⟨h0, h4, h1, h2, h3, h5, h6⟩]
  unfold State.aluLease
  simp only [hneed]
  have hs : s.shortLease s.cur.core s.curCtx [] = none := rfl
  simp only [hs]
  unfold State.aluCompute
  simp only
  rw [s.aluFold_plain h i fm ev _ _ h3]
  have hk : ¬ s.cur.phase > 0 := by omega
  simp only [hk, if_false, issued, resultOf, State.takeToken_frame, List.nil_append, maskOf]
  rfl

/-- The same of a form that raises no exception: every active lane receives its value. -/
theorem State.alu_value (s : State) (h : Hdr) (i : Instr) (fm : Form) (ev : Eval) (r : ReadyFor s h fm) (hf : fm.fpu = false)
    (he : ∀ l, (laneRes s fm ev l).flags = 0) :
    s.alu h i fm ev = issued s h fm.lat (valueResult s h fm (fun l => (laneRes s fm ev l).bits)) := by
  have hfl : ∀ l, laneFlags s fm ev l = 0 := by
    intro l
    simp [laneFlags, he]
  have htr : ∀ l, laneTraps s fm ev l = 0 := by
    intro l
    simp [laneTraps, hfl]
  rw [s.alu_ready h i fm ev r]
  simp [hf, resultOf, valueResult, hfl, htr, maskOf]

end Sys2Proof.Machine
end

