-- ==== Sys2Proof/Tests/Slice0.lean ====
section
/-! SUPPORT. Tests: ill-formed terms that the checks refuse, words of the spec's examples, results the spec states, and a state and operands that meet the hypotheses of each statement. -/

namespace Sys2Proof.Tests

open Sys2Proof Sys2Proof.Machine Sys2Proof.Claims

set_option Elab.async false

/-- A header that every lane executes, with no token, and one with token 1. -/
def h0 : Hdr := ⟨0, 0, 7, 0, 0⟩
def h1 : Hdr := ⟨0, 0, 7, 0, 1⟩

/-- The state of log entry 7 with a nop placed: a group of 32 threads on core 0, slot 0, at 0x8000, in a started privileged context; its issue is in hand. -/
def W : State := { State.place State.reset 0x80000E00000FF00000000000 with cur := { core := 0, slot := 0, lanes := 0xFFFFFFFF, pos := 0x8000 }, agenda := [] }

/-- The same with lane 0 alone at the instruction, and with a change of every thread. -/
def W1 : State := { W with cur := { W.cur with lanes := 1 } }
def Wt (f : Thread → Thread) : State := W.modLanes 0 0 0xFFFFFFFF (fun _ t => f t)

/-- Format A and I words over registers v8, v10, v12 to v14, in a type. -/
def fa (ty : BitVec 4) : FmtA := ⟨8, 10, 12, 14, ty, 0, 0, 0, 0⟩
def fi (ty : BitVec 4) : FmtI := ⟨8, 10, ty, 0, 0xFFFFFFFF⟩

/-- Ready and First as tests. -/
def readyB (s : State) (act : BitVec 32) (srcs : List Src) (dsts preds : List Nat) : Bool :=
  s.cur.phase == 0 && s.cur.nums.isEmpty && (s.shortFault act (srcRegs srcs ++ dsts) preds).isNone &&
  (act == 0 || (s.windowFault srcs == false && (s.windowAbsent srcs).isNone)) && (lanesOf act).all (fun l => srcs.all (fun x => s.srcProxy l x == false)) &&
  (s.badOperands act srcs).isEmpty && s.cur.failed.isEmpty

theorem ready_of {s : State} {act : BitVec 32} {srcs : List Src} {dsts preds : List Nat} (h : readyB s act srcs dsts preds = true) :
    Ready s act srcs dsts preds := by
  simp only [readyB, Bool.and_eq_true, Bool.or_eq_true, beq_iff_eq, List.isEmpty_iff, Option.isNone_iff_eq_none, List.all_eq_true] at h
  exact ⟨h.1.1.1.1.1.1, h.1.1.1.1.1.2, h.1.1.1.1.2, h.1.1.1.2, h.1.1.2, h.1.2, h.2⟩

theorem ready_for {s : State} {h : Hdr} {fm : Form} (q : readyB s (s.active h) fm.srcs (dstRegs fm.dst fm.pair) [] = true) : ReadyFor s h fm := ready_of q

def firstB (s : State) : Bool := s.cur.phase == 0 && s.cur.nums.isEmpty && s.cur.caps.isEmpty && s.cur.slots.isEmpty && s.cur.failed.isEmpty && s.hasGroup s.cur.core s.cur.slot

theorem first_of {s : State} (h : firstB s = true) : First s := by
  simp only [firstB, Bool.and_eq_true, beq_iff_eq, List.isEmpty_iff] at h
  exact ⟨h.1.1.1.1.1, h.1.1.1.1.2, h.1.1.1.2, h.1.1.2, h.1.2, h.2⟩

/-! ### Ill-formed terms, one for each check -/

theorem test_header_token_seven_refused : Hdr.ok ⟨0, 0, 7, 0, 7⟩ = false := by decide
theorem test_selects_refused : Role.ok 64 false .unused 0 = false ∧ Role.ok 64 false .src 64 = false ∧ Role.ok 64 false .src 0x1FF = false ∧
    Role.ok 64 false .srcPair 5 = false ∧ Role.ok 64 false .dst 0x1FD = false ∧ Role.ok 64 false .dstPair 64 = false ∧ Role.ok 64 false .reg 0x1FE = false ∧
    Role.ok 64 false .regPair 0x1FE = false ∧ Role.ok 64 false .regOrZero 0x1FD = false ∧ Role.ok 64 false .regLaneZero 0x1FF = false ∧
    Role.ok 64 false .regLane 0x1FE = false ∧ Role.ok 64 false .quad 6 = false := by decide
theorem test_format_a_refused : (Instr.add h0 (fa 0)).wf 64 = false ∧ (Instr.fadd h0 { fa 9 with c := 0x1FE }).wf 64 = false ∧
    (Instr.add h0 { fa 0 with c := 0x1FE, rnd := 1 }).wf 64 = false ∧ (Instr.mulLo h0 { fa 0 with c := 0x1FE, sat := 1 }).wf 64 = false ∧
    (Instr.add h0 { fa 0 with c := 0x1FE, off := 1 }).wf 64 = false ∧ (Instr.add64 h0 { fa 2 with a := 0x1FF, c := 0x1FE, off := 1 }).wf 64 = false ∧
    (Instr.add h0 { fa 0 with c := 0x1FE }).wf 64 = true := by decide +kernel
theorem test_conversions_refused : cvtPairOk 8 8 0 = false ∧ cvtPairOk 8 9 1 = false ∧ cvtPairOk 0xC 9 0 = false ∧ cvtPairOk 0xE 8 0 = false ∧ cvtPairOk 8 0xB 4 = true := by decide
theorem test_format_i_refused : (Instr.addImm h0 { fi 0 with modi := 2 }).wf 64 = false ∧ (Instr.mulLoImm h0 { fi 0 with modi := 1 }).wf 64 = false ∧
    (Instr.leaImm h0 { fi 3 with a := 7 }).wf 64 = false ∧ (Instr.addImm h0 (fi 0)).wf 64 = true := by decide +kernel
theorem test_predicates_refused : (Instr.pset h0 { fi 0 with imm := 1 }).wf 64 = false ∧ (Instr.pand h0 ⟨8, 1, 0, 0, 0⟩).wf 64 = false ∧ (Instr.pnot h0 ⟨1, 8, 0, 0, 0⟩).wf 64 = false ∧
    (Instr.por h0 ⟨1, 2, 0, 31, 0⟩).wf 64 = true := by decide +kernel
theorem test_format_m_refused : let f : FmtM := ⟨12, 8, 0, 2, 0, 0, 0, 0, 0, 0⟩
    (Instr.ld h0 { f with space := 1 }).wf 64 = false ∧ (Instr.ld h0 { f with mode := 1 }).wf 64 = false ∧ (Instr.ld h0 { f with bound := 1 }).wf 64 = false ∧ (Instr.ld h0 { f with data := 14, size := 4 }).wf 64 = false ∧
    (Instr.st h0 { f with scope := 1 }).wf 64 = false ∧ (Instr.st h0 { f with data := 0x1FD, size := 3 }).wf 64 = false ∧ (Instr.rndGet h0 { f with size := 3 }).wf 64 = false ∧
    (Instr.atom h0 10 f).wf 64 = false ∧ (Instr.red h0 6 f).wf 64 = false ∧ (Instr.fenceAcq h0 { f with data := 0x1FE, addr := 0x1FE, size := 0, off := 4 }).wf 64 = false ∧
    (Instr.pub h0 { f with data := 0x1FE, addr := 0x1FE, size := 0, off := 64 }).wf 64 = false ∧ (Instr.ld h0 f).wf 64 = true := by decide +kernel
theorem test_branches_refused : (Instr.bra h0 ⟨3, 0, 0, 0, 0⟩).wf 64 = false ∧ (Instr.brz h0 ⟨0x1FF, 0, 0, 0, 0⟩).wf 64 = false ∧ (Instr.brx h0 ⟨8, 1, 0, 0, 0⟩).wf 64 = false ∧
    (Instr.ret h0 ⟨0x1FF, 0, 1, 0, 0⟩).wf 64 = false ∧ (Instr.exitI h0 ⟨0x1FF, 0, 0, 0, 1⟩).wf 64 = false ∧ (Instr.bra h0 ⟨0x1FF, 4, 0, 0xFFFFFFFF, 0⟩).wf 64 = true := by decide +kernel
theorem test_group_wide_refused : (Instr.elect h0 ⟨5, 0x1FE, 0x1FE, 0x1FE, 0, 8⟩).wf 64 = false ∧ (Instr.shfl h0 4 ⟨5, 8, 9, 0x1FE, 0, 0xE⟩).wf 64 = false ∧ (Instr.xchg h0 ⟨5, 8, 9, 0x1FE, 3, 0xE⟩).wf 64 = false ∧
    (Instr.redux h0 3 ⟨5, 8, 0x1FE, 0x1FE, 0, 8⟩).wf 64 = false ∧ (Instr.gsync h0 ⟨0x1FE, 0x1FE, 0x1FE, 0x1FD, 0, 0⟩).wf 64 = false ∧ (Instr.ballot h0 ⟨5, 0x1FE, 0x1FE, 0x1FE, 0, 0x1E0⟩).wf 64 = true := by
  decide +kernel
theorem test_engines_refused : (Instr.cpySlice h0 ⟨0, 60, 2, 3, 0⟩).wf 64 = false ∧ (Instr.cpyWait h0 ⟨0, 0x1FE, 0x1FE, 0x1FE, 0⟩).wf 64 = false ∧ (Instr.ringPop h0 ⟨16, 5, 0x1FE, 0x1FE, 0⟩).wf 64 = false ∧
    (Instr.opmClaim h0 ⟨0, 5, 0x1FE, 0x1FE, 33⟩).wf 64 = false ∧ (Instr.mmaWait h0 ⟨0, 0x1FE, 0x1FE, 0x1FE, 16⟩).wf 64 = false ∧ (Instr.accLd h0 ⟨0, 5, 63, 0x1FE, 1⟩).wf 64 = false ∧
    (Instr.amSend h0 ⟨256, 5, 8, 0x1FE, 4⟩).wf 64 = false ∧ (Instr.pxq h0 ⟨7, 8, 0x1FE, 0x1FE, 0⟩).wf 64 = false ∧ (Instr.pxlease h0 ⟨12, 0x1FE, 0x1FE, 0x1FE, 1⟩).wf 64 = false ∧ (Instr.mma h0 ⟨0, 32, 0x1FE, 0x1FE, 0⟩).wf 64 = true := by
  decide +kernel
theorem test_system_refused : (Instr.nop h0 ⟨0, 0x1FE, 0, 1⟩).wf 64 = false ∧ (Instr.bar h0 ⟨0, 0x1FE, 0, 16⟩).wf 64 = false ∧ (Instr.bart h0 ⟨0, 0x1FE, 0, 8⟩).wf 64 = false ∧ (Instr.waitt h0 ⟨0, 0x1FE, 0, 7⟩).wf 64 = false ∧
    (Instr.prog h0 ⟨0, 0x1FE, 0, 16⟩).wf 64 = false ∧ (Instr.rdsr h0 ⟨6, 4, 1, 0⟩).wf 64 = false ∧ (Instr.wrsr h0 ⟨10, 4, 0, 1⟩).wf 64 = false ∧ (Instr.launch h0 ⟨0, 5, 0, 0⟩).wf 64 = false ∧
    (Instr.vbtDriveFlat h0 ⟨0, 4, 0, 0⟩).wf 64 = false ∧ (Instr.waitt h0 ⟨0, 0x1FE, 0, 0xFF06⟩).wf 64 = true := by decide +kernel

/-! ### Words of the spec's examples (Tables 02-14, 04-5 to 04-12, and the words worked to the bit in chapters 06 to 25) -/

theorem test_word_wrsr : decode 0xE0402E0000AFF00100000001 = .ok (.wrsr ⟨1, 0, 7, 0, 0⟩ ⟨10, 0x1FE, 1, 1⟩) := by decide +kernel
theorem test_word_cvt_sr : decode 0x4050AE000300807FEB800000 = .ok (.cvtSr ⟨5, 0, 7, 0, 0⟩ 8 ⟨6, 2, 3, 0x1FE, 0xB, 4, 0, 0, 0⟩) := by decide +kernel
theorem test_word_am_send : decode 0xC6000E01000501023FC00004 = .ok (.amSend ⟨0, 0, 7, 0, 1⟩ ⟨5, 2, 8, 0x1FE, 4⟩) := by decide +kernel
theorem test_word_launch : decode 0xE2000E010000200000000000 = .ok (.launch ⟨0, 0, 7, 0, 1⟩ ⟨0, 4, 0, 0⟩) := by decide +kernel
theorem test_word_rnd_adv : decode 0x680006010700021000000000 = .ok (.rndAdv ⟨0, 0, 3, 0, 1⟩ ⟨14, 0, 0, 2, 0, 2, 0, 0, 0, 0⟩) := by decide +kernel
theorem test_word_ld_p : decode 0xC8000E010A02020000000000 = .ok (.ldP ⟨0, 0, 7, 0, 1⟩ ⟨20, 8, 0, 2, 0, 0, 0, 0, 0, 0⟩) := by decide +kernel
theorem test_word_cpy_slice : decode 0xC0400E010003040301A00009 = .ok (.cpySlice ⟨0, 0, 7, 0, 1⟩ ⟨3, 8, 12, 13, 9⟩) := by decide +kernel
theorem test_word_acc_ld : decode 0xC5000E010000138C3FC0000F = .ok (.accLd ⟨0, 0, 7, 0, 1⟩ ⟨0, 39, 48, 0x1FE, 15⟩) := by decide +kernel
theorem test_word_brk : decode 0xE4000E00000FF00000000007 = .ok (.brk ⟨0, 0, 7, 0, 0⟩ ⟨0, 0x1FE, 0, 7⟩) := by decide +kernel
theorem test_word_tmark : decode 0xE6400E00000FF00000000001 = .ok (.tmark ⟨0, 0, 7, 0, 0⟩ ⟨0, 0x1FE, 0, 1⟩) := by decide +kernel
theorem test_word_of_zeros_refused : decode 0 = .error (.unassigned 0) := by decide +kernel
theorem test_host_asks_for_a_row : decodeTableWord 96 0x80000E00000FF00000000000 = some (.nop ⟨0, 0, 7, 0, 0⟩ ⟨0, 0x1FE, 0, 0⟩) := by decide +kernel

/-! ### Results the spec states -/

/-- R107's example. -/
theorem test_bfe : evalBfe (fa 1) false false [0xABCD1234, 0x0810] = { bits := 0xCD } ∧ evalBfe (fa 0) false false [0xABCD1234, 0x0810] = { bits := 0xFFFFFFCD } := by decide +kernel
/-- R119's examples: fgetexp of the smallest subnormal is -149.0, or negative infinity with divide-by-zero where inputs are flushed. -/
theorem test_fgetexp : (evalFgetexp (fa 8) false false [1]).bits = 0xC3150000 ∧ (evalFgetexp (fa 8) true false [1]).bits = 0xFF800000 ∧ (evalFgetexp (fa 8) true false [1]).flags = 2 := by decide +kernel
/-- R119's examples: ffrac of -0.25 is 0.75 exactly; of -2^-30 it is 1 - 2^-24 with inexact. -/
theorem test_ffrac : evalFfrac (fa 8) false false [0xBE800000] = { bits := 0x3F400000 } ∧ (evalFfrac (fa 8) false false [0xB0800000]).bits = 0x3F7FFFFF ∧
    (evalFfrac (fa 8) false false [0xB0800000]).flags = 16 := by decide +kernel
/-- Table 05-4. -/
theorem test_stochastic_rounding : (evalCvtSr 8 (fa 0xB) false false [0x3F804000, 0x3FFF]).bits = 0x3F81 ∧ (evalCvtSr 8 (fa 0xB) false false [0x3F804000, 0x4000]).bits = 0x3F80 ∧
    (evalCvtSr 8 (fa 0xB) false false [0x3F804000, 0x12000]).bits = 0x3F81 := by decide +kernel
/-- Table 05-6: 464.0, 470.0 in rn without and with saturation, and -1000.0. -/
theorem test_cvt_e4m3 : (evalCvt 8 (fa 0xC) false false [0x43E80000]).bits = 0x7E ∧ evalCvt 8 (fa 0xC) false false [0x43EB0000] = { bits := 0x7F, flags := 20 } ∧
    evalCvt 8 { fa 0xC with sat := 1 } false false [0x43EB0000] = { bits := 0x7E, flags := 20 } ∧ (evalCvt 8 (fa 0xC) false false [0xC47A0000]).bits = 0xFF := by decide +kernel
/-- R46: a branch to slot 1 of the line two lines back. -/
theorem test_branch_target : branchTo ⟨3, 1, 0, 0xFFFFFFFE, 0⟩ 0x8082 = 0x8001 := by decide +kernel

/-- Log entry 7: the step after State.withFetchWord runs the placed word, and the workgroup has retired one instruction. -/
theorem test_step_runs_the_placed_word : (match step (State.withFetchWord State.reset 96 0x80000E00000FF00000000000) with
    | .next t => (t.wg 0).rwc == 1 && (t.thread 0 0 31).pos == 0x8001
    | _ => false) = true := by decide +kernel

/-! ### States and operands that meet the hypotheses of the statements: witness_X for Sys2Proof.Claims.X or Obligations.X -/

theorem witness_DecodeOfEncode : (Instr.nop h0 ⟨0, 0x1FE, 0, 0⟩).wf 8 = true ∧ encode (.nop h0 ⟨0, 0x1FE, 0, 0⟩) = some 0x80000E00000FF00000000000 := by decide +kernel

theorem witness_AddAndSubtract : is32 (fa 0).ty ∧ is32 (fi 1).ty ∧ ReadyFor W h0 ((fa 0).two 2 4) ∧ ReadyFor W h0 ((fi 1).two 1 4) :=
  ⟨Or.inl rfl, Or.inr rfl, ready_for (by decide +kernel), ready_for (by decide +kernel)⟩
theorem witness_CarryChain : ReadyFor W h0 ((fa 1).threeP 0 4) :=
  ready_for (by decide +kernel)
theorem witness_Multiply : is32 (fa 0).ty ∧ is32 (fi 1).ty ∧ ReadyFor W h0 ((fa 0).two 2 6) ∧ ReadyFor W h0 ((fa 0).two 0 6) ∧ ReadyFor W h0 ((fa 0).twoP 0 6) ∧ ReadyFor W h0 ((fi 1).two 1 6) ∧ ReadyFor W h0 ((fi 1).two 0 6) ∧ ReadyFor W h0 ((fi 1).twoP 0 6) :=
  ⟨Or.inl rfl, Or.inr rfl, ready_for (by decide +kernel), ready_for (by decide +kernel), ready_for (by decide +kernel), ready_for (by decide +kernel), ready_for (by decide +kernel), ready_for (by decide +kernel)⟩
theorem witness_MultiplyAdd : is32 (fa 0).ty ∧ ReadyFor W h0 ((fa 0).three 0 6) ∧ ReadyFor W h0 ((fa 0).madWideForm 0 6) :=
  ⟨Or.inl rfl, ready_for (by decide +kernel), ready_for (by decide +kernel)⟩
theorem witness_MinMaxAbsNeg : is32 (fa 0).ty ∧ is32 (fi 1).ty ∧ ReadyFor W h0 ((fa 0).two 2 4) ∧ ReadyFor W h0 ((fa 0).two 0 4) ∧ ReadyFor W h0 ((fa 0).one 0 4) ∧ ReadyFor W h0 ((fi 1).two 1 4) :=
  ⟨Or.inl rfl, Or.inr rfl, ready_for (by decide +kernel), ready_for (by decide +kernel), ready_for (by decide +kernel), ready_for (by decide +kernel)⟩
theorem witness_PairArithmetic : is64 (fa 3).ty ∧ ReadyFor W h0 ((fa 3).leaForm 0 4) ∧ ReadyFor W h0 ((fi 3).leaImmForm 0 4) ∧ ReadyFor W h0 ((fa 3).wide2 0 4) :=
  ⟨Or.inr rfl, ready_for (by decide +kernel), ready_for (by decide +kernel), ready_for (by decide +kernel)⟩
theorem witness_BitwiseLogic : ReadyFor W h0 ((fa 14).two 2 4) ∧ ReadyFor W h0 ((fa 14).one 0 4) ∧ ReadyFor W h0 ((fa 14).three 3 4) ∧ ReadyFor W h0 ((fa 14).three 0 4) ∧ ReadyFor W h0 ((fa 15).bits2 0 4) ∧ ReadyFor W h0 ((fa 14).bits2 1 4) ∧ (fi 15).ty = 0xF ∧ ReadyFor W h0 ((fi 15).movImmForm 0 4) ∧ (fi 14).ty = 0xE ∧ ReadyFor W h0 ((fi 14).two 1 4) :=
  ⟨ready_for (by decide +kernel), ready_for (by decide +kernel), ready_for (by decide +kernel), ready_for (by decide +kernel), ready_for (by decide +kernel), ready_for (by decide +kernel), by decide, ready_for (by decide +kernel), by decide, ready_for (by decide +kernel)⟩
theorem witness_Shifts : ReadyFor W h0 ((fa 14).two 2 4) ∧ ReadyFor W h0 ((fa 14).two 0 4) ∧ ReadyFor W h0 ((fa 14).three 0 4) ∧ (fi 14).ty = 0xE ∧ ReadyFor W h0 ((fi 14).two 1 4) ∧ ReadyFor W h0 ((fi 14).two 0 4) :=
  ⟨ready_for (by decide +kernel), ready_for (by decide +kernel), ready_for (by decide +kernel), by decide, ready_for (by decide +kernel), ready_for (by decide +kernel)⟩
theorem witness_BitFields : ReadyFor W h0 ((fa 0).two 0 4) ∧ ReadyFor W h0 ((fa 0).three 0 4) ∧ ReadyFor W h0 ((fa 15).bits2 0 4) ∧ ReadyFor W h0 ((fa 15).bits1 0 4) :=
  ⟨ready_for (by decide +kernel), ready_for (by decide +kernel), ready_for (by decide +kernel), ready_for (by decide +kernel)⟩
theorem witness_Compare : (5 : BitVec 5).toNat ≤ 5 ∧ (is32 (fa 0).ty ∨ is64 (fa 0).ty) ∧ (is32 (fi 3).ty ∨ is64 (fi 3).ty) ∧ ReadyFor W h0 ((fa 0).cmpForm 0 4) ∧ ReadyFor W h0 ((fi 3).cmpForm 0 4) :=
  ⟨by decide, Or.inl (Or.inl rfl), Or.inr (Or.inr rfl), ready_for (by decide +kernel), ready_for (by decide +kernel)⟩

/-- Changes of W: its group, workgroup, launch, context, and bytes of memory. -/
def Wg (f : Group → Group) : State := W.modGroup 0 0 f
def Ww (f : Workgroup → Workgroup) : State := W.modWg 0 f
def Wl (f : Launch → Launch) : State := W.modLaunch 0 f
def Wc (f : Ctx → Ctx) : State := W.modCtx 0 f
def Wm (cells : List (Nat × Byte)) : State := { W with mem := memSetAll W.mem cells }

/-- A result of lane 0 under way to register v5, its number 7. -/
def pd : Pend := { core := 0, slot := 0, kind := 0, path := 0, lanes := 1, act := 1, pos := 0x8000, writes := [⟨0, 5, 9, false⟩] }
def Wp (p : Pend) : State := { W with pends := [(7, p)] }

theorem none_later {s : State} {c n : Nat} (h : (s.core c).landed = []) : NoneLater s c n := fun k => by
  rw [h]; exact Nat.zero_le n
theorem witness_ResultsAreWritten : NoneLater (Wp pd) pd.core 7 ∧ tblFind (Wp pd).pends 7 = some pd ∧ (Wp pd).hasGroup pd.core pd.slot = true ∧ pd.traps = 0 ∧
    pd.missing = [] ∧ pd.wait = 0 ∧ pd.bad = none ∧ Unwaited (Wp pd) 7 ∧ pd.size = 0 :=
  ⟨none_later (by decide +kernel), by unfold Unwaited; decide +kernel⟩
theorem witness_ResultsAreWritten_loaded : let p := { pd with size := 1, sx := true, dst := 0x1FD, bytes := [(0, 0x80)] }
    tblFind (Wp p).pends 7 = some p ∧ (Wp p).hasGroup p.core p.slot = true ∧ p.missing = [] ∧ p.wait = 0 ∧ p.bad = none ∧
    Unwaited (Wp p) 7 ∧ p.size ≠ 0 ∧ p.dst ≠ 0x1FE ∧ NoneLater (Wp p) p.core 7 := by
  refine ⟨?_, ?_, ?_, ?_, ?_, ?_, ?_, ?_, none_later (by decide +kernel)⟩ <;> first | decide +kernel | (unfold Unwaited; decide +kernel)
theorem witness_LoadFaults : let p := { pd with bad := some (0, ⟨7, 0, 0x9000⟩), eas := [(0, 0x9000)] }
    tblFind (Wp p).pends 7 = some p ∧ (Wp p).hasGroup p.core p.slot = true ∧ p.bad = some (0, ⟨7, 0, 0x9000⟩) ∧ p.missing = [] ∧ p.wait = 0 ∧
    Unwaited (Wp p) 7 := by unfold Unwaited; decide +kernel
theorem witness_FloatTrapEntry : let p := { pd with traps := 1 }
    tblFind (Wp p).pends 7 = some p ∧ (Wp p).hasGroup p.core p.slot = true ∧ p.bad = none ∧ p.traps ≠ 0 ∧
    ((Wp p).launch ((Wp p).launchOfWg ((Wp p).wgOf p.core p.slot))).kr.traps.getD 0 0 = 0 ∧
    let s := { Wl (fun l => { l with kr := { l.kr with traps := [0x8000, 0, 0, 0] } }) with pends := [(7, p)] }
    tblFind s.pends 7 = some p ∧ s.hasGroup p.core p.slot = true ∧ (s.launch (s.launchOfWg (s.wgOf p.core p.slot))).kr.traps.getD 0 0 ≠ 0 ∧
    ∀ l ∈ lanesOf p.act, (s.thread p.core p.slot l).inHandler = false := by decide +kernel

theorem witness_SinglePrecisionIssue : ReadyFor W h0 { (fa 8).two 2 4 with fpu := true } ∧ ReadyFor W h0 { (fa 8).two 0 4 with fpu := true } ∧
    ReadyFor W h0 { (fa 8).three 3 4 with fpu := true } ∧ ReadyFor W h0 { (fa 8).one 0 4 with fpu := true } :=
  ⟨ready_for (by decide +kernel), ready_for (by decide +kernel), ready_for (by decide +kernel), ready_for (by decide +kernel)⟩
theorem witness_OtherPrecisionsAndConvertIssue : ReadyFor W h0 { (fa 9).wide2 0 8 with fpu := true } ∧ ReadyFor W h0 { (fa 9).wide3 0 8 with fpu := true } ∧
    ReadyFor W h0 { (fa 10).two 0 4 with fpu := true } ∧ ReadyFor W h0 { (fa 10).three 0 4 with fpu := true } ∧
    ReadyFor W h0 { (fa 11).two 2 4 with fpu := true } ∧ ReadyFor W h0 { (fa 11).three 3 4 with fpu := true } ∧
    ReadyFor W h0 { (fa 0).cvtForm 8 (if homeCvt 8 0 then 1 else 0) 6 with fpu := true } ∧
    ReadyFor W h0 { (fa 13).pk4Form 0 6 with fpu := true } ∧ ReadyFor W h0 { (fa 13).oneP 0 6 with fpu := true } :=
  ⟨ready_for (by decide +kernel), ready_for (by decide +kernel), ready_for (by decide +kernel), ready_for (by decide +kernel),
    ready_for (by decide +kernel), ready_for (by decide +kernel), ready_for (by decide +kernel), ready_for (by decide +kernel), ready_for (by decide +kernel)⟩
theorem witness_SpecialFunctionIssue : ReadyFor W h0 ((fa 8).one 0 0) := ready_for (by decide +kernel)
theorem witness_NaNPropagation : (fa 8).sat = 0 ∧ isNaN 0x7FC00000 ∧ isNaN 0xFFFFFFFF ∧ isSignalling 0x7F800001 ∧ ¬ isNaN 0x7F800000 ∧
    ¬ isNaN 0x3F800000 := by unfold isSignalling isNaN; decide

/-- A target that passes its checks. -/
def passesB (s : State) (p : Long) : Bool := match s.targetCheck (s.launchOfWg s.curWg) p with | .ok _ => true | _ => false
theorem passes_of {s : State} {p : Long} (h : passesB s p = true) : Passes s p := by
  unfold passesB at h; split at h <;> first | exact ⟨_, ‹_›⟩ | cases h
theorem passes_all {s : State} {m : BitVec 32} {p : Nat → Long} (h : (lanesOf m).all (fun l => passesB s (p l)) = true) :
    ∀ l ∈ lanesOf m, Passes s (p l) := fun l hl => passes_of (List.all_eq_true.mp h l hl)

/-- A word of format B to slot 0 of its own line, and one to slot 5. -/
def fb : FmtB := ⟨0x1FE, 0, 0, 0, 0⟩
def fb5 : FmtB := ⟨0x1FE, 5, 0, 0, 0⟩
def fsys : FmtS := ⟨0, 0x1FE, 0, 7⟩
/-- Every thread holds 0x8000 in its pair v8, one return position 0x8000, and is in a handler that resumes there. -/
def Wh : State := Wt (fun t => { t.setRet 0 0x8000 with regs := [(8, ⟨0x8000, false⟩)], depth := 1, inHandler := true, resume := 0x8000 })

theorem witness_ControlTargetChecks : let aligned (p : Long) : Prop := p.toNat / 8 % 8 = 0 ∧ p.toNat % 8 ≤ 4
    ¬ aligned 0x8005 ∧ aligned 0x200000000000000 ∧ 2 ^ 57 ≤ (0x200000000000000 : Long).toNat ∧ aligned 0x8000 ∧ (0x8000 : Long).toNat < 2 ^ 57 ∧
    W.walk 0 (0x40000000 : Long).toNat = .absent 2 ∧ (Wm [(0x3008, 1)]).walk 0 (0x40000000 : Long).toNat = .absent 1 ∧
    (Wm (placed 0x3008 (leBytes 8 0x8001))).walk 0 (0x40000000 : Long).toNat = .bad 2 ∧
    W.walk 0 0x8000 = .ok 0x8000 0x1F ∧ (0x1F).testBit 4 = true ∧ leafHostOwned 0x1F = false ∧ W.inDebugArea 0 0x8000 = false ∧
    lineReservedOk (lineWord (W.lineBytes 0 0x8000)) = true ∧ lineParityOk (lineWord (W.lineBytes 0 0x8000)) = true ∧
    lineParityOk (lineWord ((let s := Wm [(0x803C, 0x80)]; s.modLaunch 0 (fun l => { l with snap := s.mem })).lineBytes 0 0x8000)) = false ∧
    (Wm (placed 0x3008 (leBytes 8 0x400000000F))).walk 0 (0x40000000 : Long).toNat = .ok 0x40000000 0x400000000F ∧ (0x400000000F).testBit 4 = false := by
  decide +kernel
theorem reaches_of {s : State} {p : Long} (h : passesB s p = true) : Reaches s p := Or.inr (passes_of h)
theorem reaches_all {s : State} {m : BitVec 32} {p : Nat → Long} (h : (lanesOf m).all (fun l => passesB s (p l)) = true) :
    ∀ l ∈ lanesOf m, Reaches s (p l) := fun l hl => Or.inr (passes_all h l hl)
theorem witness_Branches : First W ∧ Reaches W (branchTo fb W.cur.pos) ∧ Reaches W (branchTo ⟨0x1FE, 1, 0, 0, 0⟩ W.cur.pos) ∧ Ready W (W.active h0) [.reg fb.cond.toNat] [] [] ∧
    First Wh ∧ Ready Wh (Wh.active h0) [.pair 8] [] [] ∧ ∀ l ∈ lanesOf (Wh.active h0), Reaches Wh (Wh.selPair l 8) :=
  ⟨first_of (by decide +kernel), reaches_of (by decide +kernel), Or.inl (by decide +kernel), ready_of (by decide +kernel), first_of (by decide +kernel), ready_of (by decide +kernel),
    reaches_all (by decide +kernel)⟩
theorem witness_CallsAndReturn : First Wh ∧ Ready Wh (Wh.active h0) [.pair 8] [] [] ∧ (∀ l ∈ lanesOf (Wh.active h0), (mine Wh l).depth < 32) ∧
    Reaches Wh (branchTo fb Wh.cur.pos) ∧ (∀ l ∈ lanesOf (Wh.active h0), Reaches Wh (Wh.selPair l 8)) ∧ Wh.badReturn (Wh.active h0) = none ∧
    (∀ l ∈ lanesOf (Wh.active h0), (mine Wh l).depth ≠ 0) ∧
    (∀ l ∈ lanesOf (Wh.active h0), Passes Wh ((mine Wh l).ret ((mine Wh l).depth - 1))) :=
  ⟨first_of (by decide +kernel), ready_of (by decide +kernel), by decide +kernel, reaches_of (by decide +kernel), reaches_all (by decide +kernel), by decide +kernel,
    by decide +kernel, passes_all (by decide +kernel)⟩
/-- A line at 0x9000 whose word fails its parity, and a word of format B to it. -/
def Wpar : State := let s := Wm [(0x903C, 0x80)]; s.modLaunch 0 (fun l => { l with snap := s.mem })
def fbl : FmtB := ⟨0x1FE, 0, 0, 64, 0⟩
theorem witness_ControlFaults : First W ∧ W.active h0 ≠ 0 ∧ branchTo fb5 W.cur.pos ≠ seqPos W.cur.pos ∧ ¬ Mismatch W (branchTo fb5 W.cur.pos) ∧ W.badReturn (W.active h0) = none ∧
    (First Wpar ∧ Wpar.active h0 ≠ 0 ∧ branchTo fbl Wpar.cur.pos ≠ seqPos Wpar.cur.pos ∧ Mismatch Wpar (branchTo fbl Wpar.cur.pos)) ∧
    (let s := { Wh with bad := [⟨uSCRATCH, 0, retLoc 0 0 0⟩] }; First s ∧ s.active h0 ≠ 0 ∧ (s.badReturn (s.active h0)).isSome = true) ∧ W.targetCheck (W.launchOfWg W.curWg) (branchTo fb5 W.cur.pos) = .fault 4 none ∧
    (∃ l ∈ lanesOf (W.active h0), (mine W l).depth = 0) ∧ (∃ l ∈ lanesOf (W.active h0), (mine W l).inHandler = false) ∧
    let s := Wt (fun t => { t with depth := 32 })
    First s ∧ s.active h0 ≠ 0 ∧ ∃ l ∈ lanesOf (s.active h0), 32 ≤ (mine s l).depth :=
  ⟨first_of (by decide +kernel), by decide +kernel, by decide +kernel, by unfold Mismatch; decide +kernel, by decide +kernel,
    ⟨first_of (by decide +kernel), by decide +kernel, by decide +kernel, by unfold Mismatch; decide +kernel⟩, ⟨first_of (by decide +kernel), by decide +kernel⟩, by decide +kernel, ⟨0, by decide +kernel⟩, ⟨0, by decide +kernel⟩, first_of (by decide +kernel),
    by decide +kernel, ⟨0, by decide +kernel⟩⟩
theorem witness_NopExitYield : First W ∧ W.active h0 ≠ 0 ∧ W.active ⟨0, 0, 0, 0, 0⟩ = 0 ∧
    (∀ l, l < (W.group 0 0).threads.length → ((mine W l).exited || (W.active h0).getLsbD l) = true) ∧
    (∃ l, l < (W1.group 0 0).threads.length ∧ ((mine W1 l).exited || (W1.active h0).getLsbD l) = false) ∧ W.hasGroup 0 0 = true :=
  ⟨first_of (by decide +kernel), by decide +kernel, by decide +kernel, by decide +kernel, ⟨31, by decide +kernel⟩, by decide +kernel⟩
theorem witness_Predicates : First W ∧ Ready W (W.active h0) [.reg (fi 14).a.toNat] [] [6] ∧ Ready W (W.active h0) [] [] [6] ∧ Ready W (W.active h0) [] [] [] :=
  ⟨first_of (by decide +kernel), ready_of (by decide +kernel), ready_of (by decide +kernel), ready_of (by decide +kernel)⟩
theorem witness_UserTrapEntryAndReturn : First W ∧ W.active h0 ≠ 0 ∧ (∀ l ∈ lanesOf (W.active h0), (mine W l).inHandler = false) ∧
    (W.launch (W.launchOfWg W.curWg)).kr.traps.getD 1 0 = 0 ∧ (W.launch (W.launchOfWg W.curWg)).kr.traps.getD 2 0 = 0 ∧
    (W.ctx W.curCtx).debug = false ∧ ((Wc (fun c => { c with debug := true })).ctx W.curCtx).debug = true ∧
    (let s := Wl (fun l => { l with kr := { l.kr with traps := [0, 0x8000, 0x8000, 0] } })
     First s ∧ (∀ l ∈ lanesOf (s.active h0), (mine s l).inHandler = false) ∧ (s.launch (s.launchOfWg s.curWg)).kr.traps.getD 1 0 ≠ 0 ∧
     (s.launch (s.launchOfWg s.curWg)).kr.traps.getD 2 0 ≠ 0) ∧
    First Wh ∧ (∀ l ∈ lanesOf (Wh.active h0), (mine Wh l).inHandler = true) ∧ ∀ l ∈ lanesOf (Wh.active h0), Passes Wh (mine Wh l).resume :=
  ⟨first_of (by decide +kernel), by decide +kernel, by decide +kernel, by decide +kernel, by decide +kernel, by decide +kernel, by decide +kernel,
    ⟨first_of (by decide +kernel), by decide +kernel, by decide +kernel, by decide +kernel⟩, first_of (by decide +kernel), by decide +kernel,
    passes_all (by decide +kernel)⟩
theorem witness_ProgressMarksAndResume : let named (s : State) (l : Nat) : Option Nat := (s.target (s.selPair l 8).toNat).filter (fun w => s.debugStopped w)
    First Wh ∧ Ready Wh (Wh.active h0) [.pair 8] [] [] ∧ (∀ l ∈ lanesOf (Wh.active h0), named Wh l = none) ∧
    let s := { ((Wh.modWg 0 (fun w => { w with halt := some {}, settled := true })).modCtx 0 (fun c => { c with debug := true })).modThread 0 0 0 (fun t => { t with regs := [] }) with
      cur := W1.cur }
    First s ∧ Ready s (s.active h0) [.pair 8] [] [] ∧ lanesOf (s.active h0) = [0] ∧ named s 0 = some 0 :=
  ⟨first_of (by decide +kernel), ready_of (by decide +kernel), by decide +kernel, first_of (by decide +kernel), ready_of (by decide +kernel), by decide +kernel, by decide +kernel⟩

/-- Group-wide words: every lane its set, register operands v8 and v9; the modifiers and the lane field as given. -/
def fg (d : BitVec 9) (m : BitVec 12) (lane : BitVec 16) : FmtG := { dst := d, a := 8, b := 9, mask := 0x1FE, modi := m, lane := lane }
def groupReadyB (s : State) (h : Hdr) (f : FmtG) (srcs : List Src) (ps : List Nat) (d pd : Nat) : Bool :=
  firstB s && readyB (gathered s f) (s.active h) ((if f.mask = 0x1FE then [] else [.reg f.mask.toNat]) ++ srcs) (if d = 0x1FE then [] else [d]) (ps ++ if pd = 7 then [] else [pd])
theorem group_ready_of {s : State} {h : Hdr} {f : FmtG} {srcs : List Src} {ps : List Nat} {d pd : Nat} (q : groupReadyB s h f srcs ps d pd = true) : GroupReady s h f srcs ps d pd := by
  simp only [groupReadyB, Bool.and_eq_true] at q
  exact ⟨first_of q.1, ready_of q.2⟩
theorem witness_ElectVoteAndBallot : GroupReady W h0 (fg 5 0 0) [] [] 5 0 ∧ GroupReady W h0 (fg 0x1FE 0 0) [] [0] 0x1FE 0 ∧ GroupReady W h0 (fg 5 0 0) [] [0] 5 7 ∧
    GroupReady W h0 (fg 0x1FE 0 0) [] [] 0x1FE 7 ∧ GroupReady W h0 { fg 5 0 0 with mask := 11 } [] [0] 5 7 :=
  ⟨group_ready_of (by decide +kernel), group_ready_of (by decide +kernel), group_ready_of (by decide +kernel), group_ready_of (by decide +kernel), group_ready_of (by decide +kernel)⟩
theorem witness_GroupMatches : GroupReady W h0 (fg 5 14 0) [.reg 8] [] 0x1FE 0 ∧ GroupReady W h0 (fg 5 15 0) [.pair 8] [] 0x1FE 0 ∧ GroupReady W h0 (fg 5 14 0) [.reg 8] [] 5 7 ∧
    GroupReady W h0 (fg 5 14 0) [.reg 8] [] 5 0 :=
  ⟨group_ready_of (by decide +kernel), group_ready_of (by decide +kernel), group_ready_of (by decide +kernel), group_ready_of (by decide +kernel)⟩
theorem witness_ShuffleAndExchange : (3 : BitVec 5).toNat < 4 ∧ GroupReady W h0 (fg 5 0 0) [.reg 8, .reg 9] [] 5 0 ∧ GroupReady W h0 { fg 5 0 0 with b := 0x1FE } [.reg 8] [] 5 0 ∧
    GroupReady W h0 (fg 5 0 16) [.reg 8, .reg 9] [] 5 7 :=
  ⟨by decide, group_ready_of (by decide +kernel), group_ready_of (by decide +kernel), group_ready_of (by decide +kernel)⟩
theorem witness_Reductions : GroupReady W h0 (fg 5 0 0) [.reg 8] [] 5 7 ∧ (fg 5 0 0).modi.extractLsb' 0 4 ≠ 8 ∧ is32 ((fg 5 1 0).modi.extractLsb' 0 4) ∧
    GroupReady W h0 (fg 5 8 0) [.reg 8] [] 5 7 ∧ (fg 5 8 0).modi.extractLsb' 0 4 = 8 :=
  ⟨group_ready_of (by decide +kernel), by decide, by unfold is32; decide, group_ready_of (by decide +kernel), by decide⟩

/-- A word of format M over the address pair v8 and the data register v10, of 2^size bytes, with an offset. -/
def fm (size : BitVec 3) (off : BitVec 23) : FmtM := { data := 10, addr := 8, space := 0, size := size, cache := 0, scope := 0, bound := 0, span := 0, mode := 0, off := off }
def accs (r : MemChk) : List Acc := match r with | .ok l => l | _ => []
def loadReadyB (s : State) (h : Hdr) (f : FmtM) (a : Src) (n : Nat) : Bool := firstB s && readyB s (s.active h) [a] (destRegs f n) []
theorem load_ready_of {s : State} {h : Hdr} {f : FmtM} {a : Src} {n : Nat} (q : loadReadyB s h f a n = true) : LoadReady s h f a n := by
  simp only [loadReadyB, Bool.and_eq_true] at q; exact ⟨first_of q.1, ready_of q.2⟩
def storeReadyB (s : State) (h : Hdr) (f : FmtM) (n : Nat) : Bool := firstB s && readyB s (s.active h) (.pair f.addr.toNat :: dataRegs f n) [] []
theorem store_ready_of {s : State} {h : Hdr} {f : FmtM} {n : Nat} (q : storeReadyB s h f n = true) : StoreReady s h f n := by
  simp only [storeReadyB, Bool.and_eq_true] at q; exact ⟨first_of q.1, ready_of q.2⟩

theorem witness_MemoryChecks : let l : List (Nat × Nat) := [(0, 0x9000), (1, 0x9004)]
    (∀ q ∈ l, q.2 % 4 = 0) ∧ (∀ q ∈ l, W.accessFault .store q.2 = false) ∧ (∀ q ∈ l, W.sourceLocked q.2 4 = false) ∧ (∀ q ∈ l, W.watched .store q.2 4 = false) ∧
    ¬ 0x9002 % 4 = 0 ∧ W.accessFault .load (2 ^ 57) = true ∧ W.walk 0 0x40000000 = .absent 2 ∧ W.accessFault .load 0x40000000 = false ∧
    (W.modCore 0 (fun c => { c with locks := [⟨0, 0, false, 0x9000, 8⟩] })).sourceLocked 0x9004 4 = true ∧
    (Wc (fun c => { c with wps := [(0, ⟨4, 0x9000, 8⟩)] })).watched .store 0x9004 4 = true ∧ W.inDebugArea W.curCtx 0x9000 = false := by decide +kernel
theorem witness_MemoryFaults : LoadReady W h0 (fm 2 1) (.pair 8) 4 ∧ W.checkG .load 4 4 (addrs W h0 (fm 2 1)) = .fault 0x07 1 [] ∧
    W.checkSpace .sp 4 (addrs W h0 (fm 2 1)) = .fault 0x07 1 [] ∧ StoreReady W h0 (fm 2 1) 4 ∧ W.checkG .store 4 4 (addrs W h0 (fm 2 1)) = .fault 0x07 1 [] ∧
    Ready W (W.active h0) (.pair 8 :: dataRegs (fm 2 1) 4) (destRegs (fm 2 1) 4) [] ∧ (5 : BitVec 5).toNat ≠ 7 ∧
    W.checkG .atomic 4 4 (addrs W h0 (fm 2 1)) = .fault 0x07 1 [] ∧
    let s := Wt (fun t => { t with regs := [(8, ⟨0x40000000, false⟩)] })
    LoadReady s h0 (fm 2 0) (.pair 8) 4 ∧ s.checkG .load 4 4 (addrs s h0 (fm 2 0)) = .park 0x40000000 :=
  ⟨load_ready_of (by decide +kernel), by decide +kernel, by decide +kernel, store_ready_of (by decide +kernel), by decide +kernel, ready_of (by decide +kernel), by decide,
    by decide +kernel, load_ready_of (by decide +kernel), by decide +kernel⟩
theorem witness_LoadsIssue : LoadReady W h0 (fm 4 0) (.pair 8) 16 ∧ W.checkG .load 16 16 (addrs W h0 (fm 4 0)) = .ok (accs (W.checkG .load 16 16 (addrs W h0 (fm 4 0)))) ∧
    Ready W (W.active ⟨0, 0, 2, 0, 1⟩) [.pair 8] (destRegs (fm 2 0) 4) [2] ∧ ({ W with cur := { W.cur with nums := [4] } }).hasGroup 0 0 = true ∧
    ({ W with cur := { W.cur with nums := [3] } }).roundsDue W.curCtx = [] ∧
    (let s := { Wc (fun c => { c with regions := [(0, { base := 0, len := 1, stack := 0, counter := 1 })] }) with cur := { W.cur with phase := 1, nums := [3] } }
     s.hasGroup s.cur.core s.cur.slot = true ∧ s.cur.phase > 0 ∧ s.roundsDue s.curCtx ≠ []) :=
  ⟨load_ready_of (by decide +kernel), by decide +kernel, ready_of (by decide +kernel), by decide +kernel, by decide +kernel, by decide +kernel⟩
/-- A window of 64 KiB at 0x40000000, which every thread names. -/
def hw : Window := { va := 0x40000000, len := 0x10000, host := 0x10000, counter := 0x20000 }
def Ww5 : State := { Wm (placed 0x3008 (leBytes 8 0x400000055F)) with windows := [(5, hw)] }.modLanes 0 0 0xFFFFFFFF (fun _ t => { t with regs := [(8, ⟨0x40000000, false⟩)] })
theorem witness_StoresIssue : StoreReady W h0 (fm 3 0) 8 ∧ (let r := W.checkG .store 8 8 (addrs W h0 (fm 3 0)); r = .ok (accs r) ∧ ∀ x ∈ accs r, leafWindow x.entry = false) ∧
    StoreReady Ww5 h0 (fm 3 0) 8 ∧ (Ww5.msgs = [] ∧ Ww5.pends = [] ∧ Ww5.homeOps = []) ∧ (let r := Ww5.checkG .store 8 8 (addrs Ww5 h0 (fm 3 0)); r = .ok (accs r) ∧ accs r ≠ [] ∧
      ∀ x ∈ accs r, leafWindow x.entry = true ∧ tblFind Ww5.windows (Ww5.curCtx * 64 + x.entry / 256 % 64) = some hw ∧ hw.va ≤ x.ea) :=
  ⟨store_ready_of (by decide +kernel), by decide +kernel, store_ready_of (by decide +kernel), by decide +kernel, by decide +kernel⟩
theorem witness_AtomicsIssue : First W ∧ W.active h0 ≠ 0 ∧ Ready W (W.active h0) (.pair 8 :: dataRegs (fm 2 0) 8) (destRegs (fm 2 0) 4) [] ∧
    (let r := W.checkG .atomic 4 4 (addrs W h0 (fm 2 0)); r = .ok (accs r)) ∧ Ready W (W.active h0) (.pair 8 :: dataRegs (fm 2 0) 4) [] [] ∧
    (let r := W.checkG .reduce 4 4 (addrs W h0 (fm 2 0)); r = .ok (accs r)) :=
  ⟨first_of (by decide +kernel), by decide +kernel, ready_of (by decide +kernel), by decide +kernel, ready_of (by decide +kernel), by decide +kernel⟩

/-- A cluster of one workgroup and a segment of each die. -/
def Wd : State := (Wc (fun c => { c with ds := [1, 1, 1, 1] })).modLaunch 0 (fun l => { l with kr := { l.kr with routes := 0 } })
theorem witness_SpaceLoads : (fm 2 0).size.toNat ≤ 4 ∧ LoadReady Wd h0 (fm 2 0) (.pair 8) 4 ∧ LoadReady Wd h0 (fm 2 0) (.reg 8) 4 ∧
    (let r := Wd.checkSpace .sp 4 (addrs Wd h0 (fm 2 0)); r = .ok (accs r)) ∧ (let r := Wd.checkSpace .cl 4 (addrs Wd h0 (fm 2 0)); r = .ok (accs r)) ∧
    (let r := Wd.checkSpace .ds 4 (addrs Wd h0 (fm 2 0)); r = .ok (accs r)) ∧ (let r := Wd.checkSpace .lp 4 (addrs Wd h0 (fm 2 0)); r = .ok (accs r)) ∧
    (let r := Wd.checkLdc (fm 2 0) 4 (Wd.active h0); r = .ok (accs r)) :=
  ⟨by decide, load_ready_of (by decide +kernel), load_ready_of (by decide +kernel), by decide +kernel, by decide +kernel, by decide +kernel, by decide +kernel, by decide +kernel⟩
theorem witness_SpaceStores : StoreReady Wd h0 (fm 2 0) 4 ∧ tblSorted Wd.wgs = true ∧ (tblFind Wd.wgs Wd.curWg).isSome = true ∧
    (let r := Wd.checkSpace .sp 4 (addrs Wd h0 (fm 2 0)); r = .ok (accs r)) ∧ (let r := Wd.checkSpace .lp 4 (addrs Wd h0 { fm 2 0 with off := 764 }); r = .ok (accs r)) :=
  ⟨store_ready_of (by decide +kernel), by decide +kernel, by decide +kernel, by decide +kernel, by decide +kernel⟩
/-- A state in which an instruction goes on after a wait, with the numbers l. -/
def Wnum (l : List Nat) : State := { W with cur := { W.cur with phase := 1, nums := l } }
/-- A context with a region whose mirror is behind its counter. -/
def Wdue (l : List Nat) (p : Nat) : State := { Wc (fun c => { c with regions := [(0, { base := 0, len := 1, stack := 0, counter := 1 })] }) with cur := { W.cur with phase := p, nums := l } }
/-- A write to a read-mostly page on its way, which threads of the context may have observed. -/
def wr1 : Msg := { core := 0, die := 0, slot := 1, lanes := 1, wg := 0, ctx := 0, pa := 0x9000, bytes := [(0x9000, 1)], kind := .write, atHome := true, ctxs := 1 }
def Wo (l : List Nat) : State := { Wnum l with msgs := [(9, wr1)] }
theorem witness_Fences : First W ∧ W.active h0 ≠ 0 ∧ W.accessesOf (W.active h0) true = [] ∧ W.accessesOf (W.active h0) false = [] ∧ seen W 0 = [] ∧ seen W 4 = [] ∧
    W.roundsDue W.curCtx = [] ∧
    (let s := Wp { pd with kind := 3, size := 4, eas := [(0, 0x9000)] }
     First s ∧ s.active h0 ≠ 0 ∧ s.accessesOf (s.active h0) true = [7] ∧ s.accessesOf (s.active h0) false = [7]) ∧
    (let s := { W with msgs := [(9, wr1)] }; First s ∧ s.active h0 ≠ 0 ∧ s.accessesOf (s.active h0) false = [] ∧ seen s 0 = [9]) ∧
    (let s := Wdue [] 0; First s ∧ s.active h0 ≠ 0 ∧ s.accessesOf (s.active h0) true = [] ∧ seen s 0 = [] ∧ s.roundsDue s.curCtx ≠ []) ∧
    (let s := Wo [1]; s.hasGroup s.cur.core s.cur.slot = true ∧ s.cur.phase > 0 ∧ s.cur.nums = [1] ∧ seen s 0 = [9]) ∧
    (let s := Wnum [1]; s.hasGroup s.cur.core s.cur.slot = true ∧ s.cur.phase > 0 ∧ s.cur.nums = [1] ∧ seen s 4 = [] ∧ s.roundsDue s.curCtx = []) ∧
    (let s := Wdue [1] 1; s.hasGroup s.cur.core s.cur.slot = true ∧ s.cur.phase > 0 ∧ seen s 0 = [] ∧ s.roundsDue s.curCtx ≠ []) ∧
    (let s := Wnum [4]; s.hasGroup s.cur.core s.cur.slot = true ∧ s.cur.phase > 0 ∧ s.cur.nums = [4]) ∧
    (let s := Wnum [2, 1]; s.hasGroup s.cur.core s.cur.slot = true ∧ s.cur.phase > 0 ∧ s.cur.nums = [2, 1] ∧ (s.core s.cur.core).cycles < 1) :=
  ⟨first_of (by decide +kernel), by decide +kernel, by decide +kernel, by decide +kernel, by decide +kernel, by decide +kernel, by decide +kernel,
    ⟨first_of (by decide +kernel), by decide +kernel, by decide +kernel, by decide +kernel⟩, ⟨first_of (by decide +kernel), by decide +kernel, by decide +kernel, by decide +kernel⟩,
    ⟨first_of (by decide +kernel), by decide +kernel, by decide +kernel, by decide +kernel, by decide +kernel⟩, by decide +kernel, by decide +kernel, by decide +kernel, by decide +kernel, by decide +kernel⟩
theorem witness_FencesComplete : First W ∧ W.active ⟨0, 0, 0, 0, 0⟩ = 0 ∧ (let s := Wnum [3]; s.hasGroup s.cur.core s.cur.slot = true ∧ s.cur.phase > 0 ∧ s.cur.nums = [3]) ∧
    (let s := Wnum [2, 0]; s.hasGroup s.cur.core s.cur.slot = true ∧ s.cur.phase > 0 ∧ s.cur.nums = [2, 0] ∧ 0 ≤ (s.core s.cur.core).cycles) :=
  ⟨first_of (by decide +kernel), by decide +kernel, by decide +kernel, by decide +kernel⟩
/-- Every thread names 4 words at 0x9000; lane 0 alone; a line copy of that frame in the L1. -/
def Wr : State := Wt (fun t => { t with regs := [(8, ⟨0x9000, false⟩), (10, ⟨4, false⟩)] })
def Wr1 : State := ({ Wr with cur := W1.cur }).modCore 0 (fun c => { c with l1 := [{ frame := 0x90, lo := 0, hi := 7 }] })
theorem witness_CacheOperations : First Wr ∧ Ready Wr (Wr.active h0) [.pair 8, .reg 10] [] [] ∧ (∀ l ∈ lanesOf (Wr.active h0), addrOf Wr (fm 2 0) l % 4 = 0 ∧
      addrOf Wr (fm 2 0) l < 2 ^ 57 ∧ (Wr.selWord l 10).toNat ≤ 2 ^ 24 ∧ Wr.rangeCheck Wr.curCtx (addrOf Wr (fm 2 0) l) (4 * (Wr.selWord l 10).toNat) 1100 = .ok [(0x9000, 16)]) ∧
    First Wr1 ∧ Ready Wr1 (Wr1.active h0) [.pair 8, .reg 10] [] [] ∧ lanesOf (Wr1.active h0) = [0] ∧ (fm 2 0).scope = 0 ∧
    Wr1.rangeCheck Wr1.curCtx (addrOf Wr1 (fm 2 0) 0) 16 1100 = .ok [(0x9000, 16)] ∧ (Wr1.core 0).l1 = [{ frame := 0x90, lo := 0, hi := 7 }] ∧
    Ready Wr (Wr.active h0) [.pair 8] [] [] :=
  ⟨first_of (by decide +kernel), ready_of (by decide +kernel), by decide +kernel, first_of (by decide +kernel), ready_of (by decide +kernel), by decide +kernel, by decide,
    by decide +kernel, by decide +kernel, ready_of (by decide +kernel)⟩
def Wn : State := Wc (fun c => { c with regions := [(0, { base := 0, len := 1, stack := 0 })] })
theorem witness_RoundInstructions : LoadReady Wn h0 (fm 2 0) (.pair 8) 4 ∧ Wn.active h0 ≠ 0 ∧ (∀ l ∈ lanesOf (Wn.active h0), addrOf Wn (fm 2 0) l % 4 = 0 ∧ addrOf Wn (fm 2 0) l < 2 ^ 57 ∧
    (Wn.regionAt Wn.curCtx (addrOf Wn (fm 2 0) l)).isSome = true) ∧ addrOf Wn (fm 2 2) 0 % 4 ≠ 0 ∧
    LoadReady W h0 (fm 2 0) (.pair 8) 4 ∧ (∀ l ∈ lanesOf (W.active h0), addrOf W (fm 2 0) l % 4 = 0) ∧ W.regionAt W.curCtx (addrOf W (fm 2 0) 0) = none ∧ lanesOf (W.active h0) = [] ++ 0 :: (lanesOf (W.active h0)).tail :=
  ⟨load_ready_of (by decide +kernel), by decide +kernel, by decide +kernel, by decide +kernel, load_ready_of (by decide +kernel), by decide +kernel, by decide +kernel, by decide +kernel⟩
def win : Window := { va := 0, len := 1, host := 0x10000, counter := 0x20000, staged := [(3, 9)] }
def wt1 : Waiting := { id := 9, iss := { W.cur with nums := [] }, instr := .nop h0 ⟨0, 0x1FE, 0, 7⟩, cond := .event, row := 7 }
/-- A window of the context, with a pasid. -/
def Wpub (s : State) : State := { s with windows := [(5, win)] }
theorem witness_Publication : First W ∧ W.active h0 ≠ 0 ∧ tblFind W.windows (W.curCtx * 64 + (fm 0 5).off.toNat % 64) = none ∧
    (let s := Wpub W
     First s ∧ s.active h0 ≠ 0 ∧ tblFind s.windows (s.curCtx * 64 + (fm 0 5).off.toNat % 64) = some win ∧ s.accessesOf (s.active h0) false = [] ∧ seen s 4 = []) ∧
    (let s := Wpub (Wp { pd with kind := 3 }); First s ∧ s.accessesOf (s.active h0) false ≠ []) ∧
    (let s := Wpub { W with msgs := [(9, wr1)] }; First s ∧ s.accessesOf (s.active h0) false = [] ∧ seen s 4 ≠ []) ∧
    (let s := Wpub (Wo [1]); s.hasGroup s.cur.core s.cur.slot = true ∧ s.cur.phase > 0 ∧ s.cur.nums = [1] ∧ seen s 4 ≠ []) ∧
    (let s := Wpub (Wnum [1]); s.hasGroup s.cur.core s.cur.slot = true ∧ s.cur.phase > 0 ∧ s.cur.nums = [1] ∧ seen s 4 = []) ∧
    (let s := Wpub (Wnum [3]); s.hasGroup s.cur.core s.cur.slot = true ∧ s.cur.phase > 0 ∧ s.cur.nums = [3]) ∧
    (let s := Wpub (Wnum [2]); s.hasGroup s.cur.core s.cur.slot = true ∧ s.cur.phase > 0 ∧ s.cur.nums = [2] ∧ tblFind s.windows (s.curCtx * 64 + (fm 0 5).off.toNat % 64) = some win ∧
     win.held = true ∧ win.version.toNat + 1 < 2 ^ 64 ∧ (∀ b ∈ win.staged, (∀ c ∈ win.staged, c.1 % 2 ^ 26 = b.1 % 2 ^ 26 → c.2 = b.2) ∧
       ¬ (win.pasid * 2 ^ 64 + win.counter ≤ win.pasid * 2 ^ 64 + (win.host + b.1 % 2 ^ 26) ∧ win.pasid * 2 ^ 64 + (win.host + b.1 % 2 ^ 26) < win.pasid * 2 ^ 64 + win.counter + 8))) ∧
    (let s := Wg (fun g => { g with waits := [wt1] }); s.hasGroup 0 0 = true ∧ (s.group 0 0).waits = [wt1]) :=
  ⟨first_of (by decide +kernel), by decide +kernel, by decide +kernel, ⟨first_of (by decide +kernel), by decide +kernel, by decide +kernel, by decide +kernel, by decide +kernel⟩,
    ⟨first_of (by decide +kernel), by decide +kernel⟩, ⟨first_of (by decide +kernel), by decide +kernel, by decide +kernel⟩, by decide +kernel, by decide +kernel, by decide +kernel, by decide +kernel, by decide +kernel⟩
theorem witness_TokenWait : First W ∧ W.active h0 ≠ 0 ∧ (W.group 0 0).token 7 ≤ 0 ∧ (let s := Wg (fun g => { g with tokens := [(7, 1)] }); First s ∧ 0 < (s.group 0 0).token 7) :=
  ⟨first_of (by decide +kernel), by decide +kernel, by decide +kernel, ⟨first_of (by decide +kernel), by decide +kernel⟩⟩
def bs (c : Bool) : BartSet := { launch := 0, tag := 0, inst := 0, arrived := 32, closing := c }
theorem witness_Barriers : First W ∧ W.active h0 ≠ 0 ∧ W.accessesOf (W.active h0) false = [] ∧ seen W 0 = [] ∧ (Wp { pd with kind := 3 }).accessesOf (W.active h0) false ≠ [] ∧
    seen { W with msgs := [(9, wr1)] } 0 ≠ [] ∧ (tblGet {} (W.wg W.curWg).bars 7).closing = false ∧
    W.liveThreads W.curWg ≤ (tblGet {} (W.wg W.curWg).bars 7).arrived + (lanesOf (W.active h0)).length ∧ (W.launch (W.launchOfWg W.curWg)).kr.routes / 4 ^ 7 % 4 = 0 ∧
    (let s := Wl (fun l => { l with kr := { l.kr with routes := 0x4000 } })
     First s ∧ (s.launch (s.launchOfWg s.curWg)).kr.routes / 4 ^ 7 % 4 ≠ 0 ∧ (s.wg s.curWg).handler = false ∧
     s.accessesOf (s.active h0) false = [] ∧ seen s (bartScope (s.launch (s.launchOfWg s.curWg)).kr 7) = []) ∧
    (let s := Wnum [2]; s.hasGroup s.cur.core s.cur.slot = true ∧ s.roundsDue s.curCtx = [] ∧ s.cur.phase > 0 ∧ s.cur.nums = [2]) ∧ (Wnum [4]).hasGroup 0 0 = true ∧ (Wnum [4]).cur.phase > 0 ∧
    (tblGet {} ((Ww (fun w => { w with bars := [(0, { closing := true })] })).wg 0).bars 0).closing = true ∧
    (let s := { W with bsets := [(0, bs true)] }; tblFind s.bsets 0 = some (bs true) ∧ (bs true).relAt ≤ s.tick) ∧
    (let s := { Wl (fun l => { l with kr := { l.kr with routes := 1 } }) with bsets := [(0, bs false)] }
     tblFind s.bsets 0 = some (bs false) ∧ s.setPlaced (bs false) = true ∧ s.setLive (bs false) ≤ (bs false).arrived) :=
  ⟨first_of (by decide +kernel), by decide +kernel, by decide +kernel, by decide +kernel, by decide +kernel, by decide +kernel, by decide +kernel, by decide +kernel, by decide +kernel,
    ⟨first_of (by decide +kernel), by decide +kernel⟩, by decide +kernel, by decide +kernel, by decide +kernel⟩

theorem witness_SpecialRegisters : First W ∧ Ready W (W.active h0) [] [320 - 1] [] ∧ Ready W (W.active h0) [] [318, 319] [] ∧ Ready W (W.active h0) [.reg 8] [] [] ∧
    Ready W (W.active h0) [.pair 8] [] [] ∧ Ready W (W.active h0) [] [] [] ∧ (319 < (W.group 0 0).n ∧ 318 % 2 = 0) ∧ ¬ 320 < (W.group 0 0).n ∧
    (W.ctx W.curCtx).priv = true ∧ ¬ ((Wc (fun c => { c with priv := false })).ctx W.curCtx).priv = true :=
  ⟨first_of (by decide +kernel), ready_of (by decide +kernel), ready_of (by decide +kernel), ready_of (by decide +kernel), ready_of (by decide +kernel), ready_of (by decide +kernel),
    by decide +kernel, by decide +kernel, by decide +kernel, by decide +kernel⟩
def slot0 : SbSlot := { st := 0 }
def msg (k : MsgKind) : Msg := { core := 0, die := 0, slot := 0, lanes := 1, wg := 0, ctx := 0, pa := 0x9000, bytes := [(0x9000, 1)], kind := k }
theorem witness_WritesArePerformed : (let s := { W with msgs := [(9, msg .write)] }
     tblFind s.msgs 9 = some (msg .write) ∧ s.msgReady (msg .write) = true ∧ (msg .write).proxy = none ∧ (msg .write).readMostly = false ∧ (msg .write).kind.isAtomic = false ∧ (msg .write).widen = false ∧ (msg .write).overhead = 0 ∧ (msg .write).held = false) ∧
    (let m := { msg .write with widen := true }; let s := { W with msgs := [(9, m)] }; tblFind s.msgs 9 = some m ∧ s.msgReady m = true ∧ m.widen = true) ∧
    (let m := { msg .write with overhead := 8 }; let s := { W with msgs := [(9, m)] }; tblFind s.msgs 9 = some m ∧ s.msgReady m = true ∧ m.overhead ≠ 0) ∧
    (let m := { msg .write with held := true }; let s := { W with msgs := [(9, m)] }; tblFind s.msgs 9 = some m ∧ s.msgReady m = true ∧ m.overhead = 0 ∧ m.held = true ∧
      ∀ b ∈ m.bytes, b.1 / 256 = m.pa / 256 ∧ ∀ c ∈ m.bytes, c.1 = b.1 → c = b) ∧
    (let m := msg (.round 0 1 7); let s := { W with msgs := [(9, m)] }; tblFind s.msgs 9 = some m ∧ s.msgReady m = true ∧ m.overhead = 0 ∧ m.held = false) ∧
    let k := MsgKind.atomic 9 1 8 0x80000000 0 0 (some 7)
    let s := { Wp { pd with kind := 3, wait := 1 } with msgs := [(9, { msg k with pend := some 7 })] }
    tblFind s.msgs 9 = some { msg k with pend := some 7 } ∧ s.msgReady { msg k with pend := some 7 } = true ∧ s.atomicGathered { msg k with pend := some 7 } = false ∧ (0x80000000 : Long).toNat < 2 ^ (8 * 8) ∧
    tblFind s.pends 7 = some { pd with kind := 3, wait := 1 } := by decide +kernel
def fil : Fill := { core := 0, frame := 0x90, lo := 0, hi := 7, hint := 0, filler := 0, train := true, install := true, replica := false, tag := none, pend := some 7, ctx := 0 }
theorem witness_CacheEvents : (let p := { pd with kind := 3, missing := [(0, 0x9000), (1, 0x9020)] }
     let s := { Wp p with fills := [(9, fil)] }
     tblFind s.fills 9 = some fil ∧ s.fillBlocked fil = false ∧ fil.replica = false ∧ tblFind s.pends 7 = some p ∧ p.core = fil.core ∧ (∀ x ∈ p.missing, s.waitsFor 7 p x.2 = false) ∧
     (∀ y ∈ p.missing, y.1 = 0 → y = (0, 0x9000)) ∧ 0x9000 / 256 = fil.frame ∧ 0x9000 / 4 % 64 ≤ fil.hi ∧ ¬ 0x9020 / 4 % 64 ≤ fil.hi ∧ p.together (0, 0x9000) (1, 0x9020) = false) ∧
    (let v : Inval := { core := 0, die := 0, seq := 1, frame := 0x90, mask := 1, causes := [], due := some 0 }
     let s := { Wr1 with invals := [v] }
     s.invals = [v] ∧ v.core = 0 ∧ v.due = some 0 ∧ 0 ≤ s.tick ∧ (s.core 0).l1 = [{ frame := 0x90, lo := 0, hi := 7 }]) ∧
    (let s := { W with msgs := [(9, msg .write)] }; tblFind s.msgs 9 = some (msg .write) ∧ s.msgReady (msg .write) = true ∧ (msg .write).widen = false ∧ (msg .write).overhead = 0 ∧ s.replicasOf 0x9000 = []) ∧
    (let s := { W with msgs := [(9, msg .write)] }.modDie 0 (fun d => { d with replicas := [(0x90, [2])] }); s.msgReady (msg .write) = true ∧ s.replicasOf 0x9000 = [2]) ∧
    let s := W.modDie 0 (fun d => { d with gather := [(0x90, { bytes := [(1, 5)] })] })
    tblFind (s.die 0).gather 0x90 = some { bytes := [(1, 5)] } ∧ ∀ x ∈ s.timers, x.ev ≠ .gatherIdleFlush 0 0x90 := by decide +kernel
theorem witness_LeasesAndSlots : (W.lease 0 0 3).nums.length < 32 ∧ (W.lease 0 0 3).refused = false ∧ (W.lease 0 0 3).asked = 0 ∧
    (let s := W.modLease 0 0 3 (fun x => { x with asked := 64 })
     (s.lease 0 0 3).asked ≠ 0 ∧ s.residentOn 0 0 = true ∧ ((s.home 3).slots.filter (fun p => p.2.st ≠ 0 && p.2.ctx = 0)).length < (s.ctx 0).quota.getD 3 0) ∧
    (let s := W.modHome 3 (fun h => { h with reqs := [⟨0, 0, 64, 0⟩] }); ∃ r ∈ (s.home 3).reqs, r.core = 0 ∧ r.ctx = 0 ∧ r.due ≤ s.tick) ∧
    (let s := (W.modCore 0 (fun c => { c with cycles := 64, rel := [(3, { nums := [(5, 0)] })] })).modHome 3 (fun h => { h with slots := [(5, { st := 3 })] })
     (tblGet {} (s.core 0).rel 3).nums = [(5, 0)] ∧ (tblGet {} (s.core 0).rel 3).oldest + 64 ≤ (s.core 0).cycles ∧ (tblGet slot0 (s.home 3).slots 5).st = 3) ∧
    let s := W.modHome 3 (fun h => { h with slots := [(5, { st := 4, gen := 63 })] })
    (tblGet slot0 (s.home 3).slots 5).st = 4 ∧ (tblGet slot0 (s.home 3).slots 5).readers = 0 ∧ s.forming 3 5 = false :=
  ⟨by decide +kernel, by decide +kernel, by decide +kernel, by decide +kernel, ⟨⟨0, 0, 64, 0⟩, by decide +kernel⟩, by decide +kernel, by decide +kernel⟩
def hop : HomeOp := { stack := 3, res := some 6, instr := .add h0 (fa 0), args := [.plain 2, .slot 0x30000140], flags := 0, ctx := 0, wg := 0, slot := 0, core := 0, lane := 0, pos := 0x8000 }
def xo : XOp := { lane := 0, reg := 8, word := 0x30000140, count := 2 }
def xg : Xing := { id := 9, iss := { W.cur with phase := 1, nums := [] }, instr := .nop h0 ⟨0, 0x1FE, 0, 7⟩, ops := [xo] }
theorem witness_HomeOperationsAndCrossings : let h : Home → Home := fun h => { h with slots := [(5, { st := 3, val := 4, full := true }), (6, { st := 2 })] }
    (let s := { W with homeOps := [(9, hop)] }.modHome 3 h
     tblFind s.homeOps 9 = some hop ∧ s.bad = [] ∧ hop.after = [] ∧ hop.res = some 6 ∧ (tblGet slot0 (s.home ((0x30000140 : Word).toNat / 2 ^ 28)).slots ((0x30000140 : Word).toNat / 64 % 2 ^ 22)).full = true ∧
     (tblGet slot0 (s.home 3).slots 6).st = 2) ∧
    let s := (Wg (fun g => { g with xings := [xg] })).modHome 3 h
    s.hasGroup 0 0 = true ∧ (s.group 0 0).xings = [xg] ∧ xg.ops = [xo] ∧ xo.got = false ∧ xg.iss.phase > 0 ∧ s.bad = [] ∧
    (tblGet slot0 (s.home (xo.word.toNat / 2 ^ 28)).slots (xo.word.toNat / 64 % 2 ^ 22)).full = true ∧
    (tblGet slot0 (s.home (xo.word.toNat / 2 ^ 28)).slots (xo.word.toNat / 64 % 2 ^ 22)).gen = xo.word.toNat % 64 := by decide +kernel
def fe (a : BitVec 9) (handle : BitVec 16) (par : BitVec 21) : FmtE := { handle := handle, a := a, b := 12, c := 14, par := par }
def WL : State := W1.modLease 0 0 0 (fun x => { x with nums := [(5, 0), (6, 0)] })
theorem witness_ProxyInstructions : First W ∧ W.replaying W.curWg = false ∧ W.active h0 ≠ 0 ∧ Ready W (W.active h0) [.reg 10] [8] [] ∧
    Ready W (W.active h0) [] ((List.range 4).map (fun j => 8 + j)) [] ∧ Ready W (W.active h0) [] [8] [] ∧ Ready W (W.active h0) [] [8, 9] [] ∧
    0 ≤ (W.lease W.cur.core W.curCtx 5).nums.length ∧ (W.lease W.cur.core W.curCtx 5).nums.length < 64 ∧ (W.lease W.cur.core W.curCtx 5).asked = 0 ∧
    LoadReady WL h0 (fm 2 0) (.pair 8) 4 ∧ lanesOf (WL.active h0) = [0] ∧ WL.checkG .element 4 4 (addrs WL h0 (fm 2 0)) = .ok [⟨0, addrOf WL (fm 2 0) 0, 0, 0x1F⟩] ∧
    leafWindow 0x1F = false ∧ (WL.lease WL.cur.core WL.curCtx 0).nums.head? = some (5, 0) ∧ 0 < (WL.group 0 0).threads.length :=
  ⟨first_of (by decide +kernel), by decide +kernel, by decide +kernel, ready_of (by decide +kernel), ready_of (by decide +kernel), ready_of (by decide +kernel), ready_of (by decide +kernel),
    by decide +kernel, by decide +kernel, by decide +kernel, load_ready_of (by decide +kernel), by decide +kernel, by decide +kernel, by decide +kernel, by decide +kernel, by decide +kernel⟩
theorem low_ready_of {s : State} {h : Hdr} {srcs : List Src} (q : (firstB s && ((s.shortFault (BitVec.ofNat 32 (2 ^ s.lowLane h)) (srcRegs srcs) []).isNone &&
    srcs.all (fun x => s.srcProxy (s.lowLane h) x == false) && (s.badOperands (BitVec.ofNat 32 (2 ^ s.lowLane h)) srcs).isEmpty)) = true) : LowReady s h srcs := by
  simp only [Bool.and_eq_true, beq_iff_eq, Option.isNone_iff_eq_none, List.isEmpty_iff, List.all_eq_true] at q
  exact ⟨first_of q.1, Or.inr ⟨q.2.1.1, q.2.1.2, q.2.2⟩⟩
def slice : Slice := { group := 0, lane := 0, pos := 0x8000, empty := false, handle := 0, org := [0, 0, 0, 0, 0], dst := 0, part := 0x10000, dk := 0 }
/-- A record of one row of four words at 0x9000, and copy slot 3 with one slice of it, in a state. -/
def layRec : BitVec 512 := 0x9000 + 0x80000012 * 2 ^ 64 + 3 * 2 ^ 96 + 4 * 2 ^ 144 + 4 * 2 ^ 160
def Wk (f : CopySlot → CopySlot) : State :=
  ({ Wm (placed 0xA000 (leBytes 64 layRec.toNat)) with ctxs := (Wc (fun c => { c with layPA := 0xA000, layLen := 1 })).ctxs }).modCopy 0 3 (fun c => f { c with slices := [slice], layout := layRec })
theorem witness_CopyInstructions : LowReady W h0 ((List.range 5).map (fun j => Src.reg (8 + j)) ++ [.reg 12, .reg 14]) ∧ W.accessesOf W.cur.lanes false = [] ∧ seen W 0 = [] ∧
    First W ∧ (∀ j, j < 8 → (W.copySlot W.curWg j).st = 0) ∧ W.roundsDue W.curCtx = [] ∧
    (let s := Wk (fun c => { c with st := 1 }); First s ∧ (s.copySlot s.curWg 3).st = 1 ∧ ∀ x ∈ (s.copySlot s.curWg 3).slices, x.group = (s.group 0 0).idx) ∧
    let s := Wk (fun c => { c with st := 1, slices := [{ slice with group := 1 }] }); First s ∧ (s.copySlot s.curWg 3).st = 1 ∧ ∀ x ∈ (s.copySlot s.curWg 3).slices, x.group ≠ (s.group 0 0).idx :=
  ⟨low_ready_of (by decide +kernel), by decide +kernel, by decide +kernel, first_of (by decide +kernel), by decide +kernel, by decide +kernel,
    ⟨first_of (by decide +kernel), by decide +kernel⟩, ⟨first_of (by decide +kernel), by decide +kernel⟩⟩
theorem witness_CopyEngine : (let s := Wk (fun c => { c with st := 1, slices := [] }); (s.copySlot 0 3).st = 1 ∧ s.copyFull 0 (s.copySlot 0 3) = false) ∧
    (let s := Wk (fun c => { c with st := 1 }); (s.copySlot 0 3).st = 1 ∧ s.copyFull 0 (s.copySlot 0 3) = true ∧ s.copiesGoOn 0 = true ∧ s.copyCheck 0 3 = .ok) ∧
    (let s := Wk (fun c => { c with st := 1, slices := [{ slice with handle := 1 }] }); s.copyFull 0 (s.copySlot 0 3) = true ∧ s.copyCheck 0 3 = .fault cLAYOUT 1 { slice with handle := 1 }) ∧
    (let s := Wk (fun c => { c with st := 2 }); (s.copySlot 0 3).st = 2 ∧ (∀ y ∈ s.copiesOn 0, y.2.2.st = 2 → y.1 = 0 ∧ y.2.1 = 3) ∧ s.mayStart 0 3 = true ∧ (s.copySlot 0 3).kind = 0 ∧ (s.copySlot 0 3).live ≠ [] ∧ (s.copySlot 0 3).span = some (0x9000, 16)) ∧
    (let s := (Wk (fun c => { c with st := 2 })).modWg 0 (fun w => { w with phase := 1 }); (s.copySlot 0 3).st = 2 ∧ (s.wg 0).phase = 1) ∧
    (let s := Wk (fun c => { c with st := 3, taken := true }); s.copiesInOrder (s.wg 0).core 3 = [(0, 3)] ∧ (s.copySlot 0 3).taken = true ∧
      (s.copySlot 0 3).ready ≤ (s.core 0).cycles ∧ ((s.copySlot 0 3).items.drop (s.copySlot 0 3).done).take (256 / (layoutOf (s.copySlot 0 3).layout).esz) ≠ [] ∧
      s.bad = [] ∧ (s.copySlot 0 3).kind ≠ 2) ∧
    (let s := Wk (fun c => { c with st := 3, taken := true, done := 4 }); (s.copySlot 0 3).st = 3 ∧ (s.copySlot 0 3).taken = true ∧ (s.copySlot 0 3).kind = 0 ∧
      (s.copySlot 0 3).items.length ≤ (s.copySlot 0 3).done) ∧
    let s := Wk (fun c => { c with st := 3, taken := true, done := 4, slices := [{ slice with dk := 2 }] })
    (s.copySlot 0 3).st = 3 ∧ (s.copySlot 0 3).taken = true ∧ (s.copySlot 0 3).kind = 2 ∧ (s.copySlot 0 3).live ≠ [] ∧ (s.copySlot 0 3).items.length ≤ (s.copySlot 0 3).done :=
  ⟨by decide +kernel, by decide +kernel, by decide +kernel, by decide +kernel, by decide +kernel, by decide +kernel, by decide +kernel, by decide +kernel⟩
def Wring (slots : Tbl Nat) (by1 : List Nat) : State := Ww (fun w => { w with rings := [(0, { inited := true, control := 0x82000000, slots := slots, bySet := by1 })] })
theorem witness_StagingRings : W.active h0 ≠ 0 ∧ (let s := Ww (fun w => { w with sp := [(3, 0x82)] })
     LowReady s h0 [.reg 8] ∧ (s.selWord (s.lowLane h0) 8).toNat = 0 ∧ leNat (tabBytes (s.wg 0).sp 0 8) = 0x82000000 ∧ unitOf 0x82000000 = 256 ∧ depthOf 0x82000000 = 2 ∧
     baseOf 0x82000000 = 0 ∧ 512 ≤ (s.wg 0).spSize ∧ s.destLocked s.curWg 0 8 = false ∧
     (s.modCore 0 (fun c => { c with locks := [⟨0, 3, true, 0, 16⟩] })).destLocked s.curWg 0 8 = true ∧ (s.ring s.curWg 0).inited = false) ∧
    First W ∧ Ready W (W.active h0) [] [8] [] ∧
    (let s := Wring [(0, 2)] []; First s ∧ Ready s (s.active h0) [] [8] [] ∧ (s.ring s.curWg 0).slot (s.ring s.curWg 0).pop = 2 ∧ s.roundsDue s.curCtx = []) ∧
    (let s := Wring [(0, 1)] []; First s ∧ Ready s (s.active h0) [] [8] [] ∧ (s.ring s.curWg 0).slot (s.ring s.curWg 0).pop ≠ 2) ∧
    let s := Wring [(0, 3)] []; First s ∧ (s.ring s.curWg 0).slot (s.ring s.curWg 0).rel = 3 ∧ s.accessesOf (s.active h0) false = [] ∧ seen s 0 = [] ∧
      (Wring [] []).ring 0 0 = { inited := true, control := 0x82000000 } :=
  ⟨by decide +kernel, ⟨low_ready_of (by decide +kernel), by decide +kernel⟩, first_of (by decide +kernel), ready_of (by decide +kernel),
    ⟨first_of (by decide +kernel), ready_of (by decide +kernel), by decide +kernel⟩, ⟨first_of (by decide +kernel), ready_of (by decide +kernel), by decide +kernel⟩,
    ⟨first_of (by decide +kernel), by decide +kernel⟩⟩
theorem witness_BufferSlots : (let s := Wring [(1, 2)] []; s.active h0 ≠ 0 ∧ LowReady s h0 [.reg 8] ∧ (s.ring 0 0).inited = true ∧ (s.ring 0 0).slot ((1 + (s.selWord (s.lowLane h0) 8).toNat) % 2) = 2 ∧
      (s.ring 0 0).slot 0 = 0 ∧ (s.ring 0 0).fill = 0 ∧ s.roundsDue s.curCtx = []) ∧
    (let s := Wring [(0, 1)] [0]; LowReady s h0 [] ∧ (s.ring 0 0).slot 0 = 1 ∧ 0 ∈ (s.ring 0 0).bySet ∧ s.accessesOf (s.active h0) false = [] ∧ seen s 0 = []) ∧
    let s := Wring [(0, 3)] []; LowReady s h0 [] ∧ (s.ring 0 0).slot 0 = 3 ∧ (s.ring 0 0).rel = 0 ∧ s.accessesOf (s.active h0) false = [] ∧ seen s 0 = [] :=
  ⟨⟨by decide +kernel, low_ready_of (by decide +kernel), by decide +kernel⟩, ⟨low_ready_of (by decide +kernel), by decide +kernel⟩, ⟨low_ready_of (by decide +kernel), by decide +kernel⟩⟩
/-- Operand slots 0 and 1 claimed and bank 2 held by the workgroup. -/
def Wmq (q : List MmaOp) (cl : List Claim) : State := W.modCore 0 (fun c => { c with opm := [(0, { st := 1 }), (1, { st := 3 })], banks := [(2, { held := true })], mq := q, claims := cl })
theorem witness_OperandUnits : W.active h0 ≠ 0 ∧ First W ∧ Ready W (W.active h0) [] [8] [] ∧ (W.core 0).claims = [] ∧ (∀ i, i < 32 → (W.opmSlot 0 (0 + i)).st = 0) ∧
    (∀ i, i < 4 → (W.bank 0 (0 + i)).held = false) ∧ (∀ b, b ≤ 1 → ¬ ((Wmq [] []).opmSlot 0 b).st = 0) ∧ ((Wmq [] []).opmSlot 0 2).st = 0 ∧
    (let s := Wmq [] [⟨3, 0, 0, 1⟩]; First s ∧ Ready s (s.active h0) [] [8] [] ∧ ∃ c ∈ (s.core 0).claims, c.kind = 0) ∧
    let s := Wmq [] []; LowReady s h0 [.reg 8] ∧ (s.selWord (s.lowLane h0) 8).toNat = 0 ∧ (∀ i, i < 2 → (s.opmSlot 0 i).st ≠ 0 ∧ (s.opmSlot 0 i).holder = s.curWg) ∧
      s.unitsIdle 0 0 0 2 = true ∧ ¬ (s.opmSlot 0 2).st ≠ 0 :=
  ⟨by decide +kernel, first_of (by decide +kernel), ready_of (by decide +kernel), by decide +kernel, by decide +kernel, by decide +kernel, by decide +kernel, by decide +kernel,
    ⟨first_of (by decide +kernel), ready_of (by decide +kernel), ⟨⟨3, 0, 0, 1⟩, by decide +kernel⟩⟩, ⟨low_ready_of (by decide +kernel), by decide +kernel⟩⟩
def mop (kind : Nat) : MmaOp := { id := 9, kind := kind, wg := 0, slot := 0, lane := 1, banks := [2] }
def blk : List Byte := List.replicate 64 0
def wtm : Waiting := { id := 9, iss := { W.cur with nums := [0] }, instr := .mma h1 (fe 8 0 0), cond := .event, row := 7 }
theorem witness_MatrixInstructions : First W ∧ W.active h0 ≠ 0 ∧ Ready W (W.active h0) [.reg 8] [] [] ∧ (W.core 0).mq = [] ∧
    (((Wmq [mop 0] []).core 0).mq.filter (fun o => o.kind == 0 && o.wg == 0 && o.banks.any (fun b => (4).testBit b))).map MmaOp.id = [9] ∧
    (let s := (Wmq [] []).modLanes 0 0 0xFFFFFFFF (fun _ t => { t with regs := [(8, ⟨0x27002, false⟩)] })
     First s ∧ Ready s (s.active h0) [.reg 8] ((List.range 16).map (fun j => 12 + j)) [] ∧ LowReady s h0 [.reg 8] ∧ (s.selWord (s.lowLane h0) 8).toNat % 4 = 2 ∧
     ∀ l ∈ lanesOf (s.active h0), s.holdsBank 0 0 ((s.selWord l 8).toNat / 2 ^ 16 % 4) = true ∧ (s.selWord l 8).toNat / 2 ^ 8 % 2 ^ 7 + 16 ≤ 128) ∧
    LowReady W h0 [.reg 8] ∧ W.holdsBank 0 W.curWg 0 = false ∧ (let s := { W with cur := { W.cur with phase := 1, nums := [9] } }; s.hasGroup s.cur.core s.cur.slot = true) :=
  ⟨first_of (by decide +kernel), by decide +kernel, ready_of (by decide +kernel), by decide +kernel, by decide +kernel,
    ⟨first_of (by decide +kernel), ready_of (by decide +kernel), low_ready_of (by decide +kernel), by decide +kernel⟩, low_ready_of (by decide +kernel), by decide +kernel, by decide +kernel⟩
def Wb : State := (W.modCore 0 (fun c => { c with opm := [(0, { st := 3 })], banks := [(0, { held := true })] })).modGroup 0 0 (fun g => { g with waits := [wtm] })
theorem witness_MatrixAccept : Wb.hasGroup 0 0 = true ∧ (Wb.group 0 0).waits = [wtm] ∧ wtm.iss.nums = [0] ∧ wtm.instr = .mma h1 (fe 8 0 0) ∧
    State.blockCheck { Wb with cur := wtm.iss } (Wb.wgOf 0 0) (State.selWord { Wb with cur := wtm.iss } 0 8).toNat = .ok blk ∧
    ((Wb.core 0).mq.filter (fun o => o.kind = 0)).length < 8 ∧
    8 ≤ (((Wb.modCore 0 (fun c => { c with mq := List.replicate 8 (mop 0) })).core 0).mq.filter (fun o => o.kind = 0)).length := by
  refine ⟨by decide +kernel, by decide +kernel, rfl, rfl, by rfl, by decide +kernel, by decide +kernel⟩
theorem witness_MatrixEngine : (Wmq [mop 0] []).nextOp 0 = some (mop 0) ∧ (Wmq [mop 1] []).nextOp 0 = some (mop 1) ∧
    (let s := { Wmq [{ mop 2 with sa := [0x27002], sb := [0] }] [] with pends := [(9, { pd with kind := 3, wait := 1 })] }
     s.nextOp 0 = some { mop 2 with sa := [0x27002], sb := [0] } ∧ tblFind s.pends 9 = some { pd with kind := 3, wait := 1 }) ∧
    ((Wmq [{ mop 0 with running := true }] []).core 0).mq.find? (fun x => x.running && x.kind = 0 && x.due ≤ 0) = some { mop 0 with running := true } ∧
    (Wmq [] []).badChunk 0 (mop 0) = none ∧ ({ Wmq [] [] with bad := [⟨uOPM, 0, 8⟩] } : State).badChunk 0 (mop 0) = some (0, ⟨uOPM, 0, 8⟩) ∧
    (let s := Wp { pd with kind := 3 }; tblFind s.pends 7 = some { pd with kind := 3 } ∧ Unwaited s 7) := by unfold Unwaited; decide +kernel
theorem witness_LaunchInstructions : First W ∧ Ready W (W.active h0) [.pair 8] [] [] ∧ (W.die (Config.dieOfCore W.cur.core)).gather = [] ∧ W.bad = [] ∧ (lanesOf (W1.active h0)).length ≤ 1 ∧
    (∀ l ∈ lanesOf (W1.active h0), (W1.selPair l 8).toNat % 256 = 0 ∧ W1.submitCheck (W1.selPair l 8).toNat = none) ∧ W1.launchCount W1.curCtx + (lanesOf (W1.active h0)).length ≤ 256 ∧
    (let s := Wt (fun t => { t with regs := [(8, ⟨64, false⟩)] }); First s ∧ Ready s (s.active h0) [.pair 8] [] [] ∧ (lanesOf (s.active h0)).head? = some 0 ∧ (s.selPair 0 8).toNat % 256 ≠ 0) :=
  ⟨first_of (by decide +kernel), ready_of (by decide +kernel), by decide +kernel, by decide +kernel, by decide +kernel, by decide +kernel, by decide +kernel, ⟨first_of (by decide +kernel), ready_of (by decide +kernel), by decide +kernel⟩⟩
/-- A record at 0xA000 of one workgroup of one group of 8 registers on die 0, its completion record at 0xC000, and one of no workgroup at 0xB000; a status word 1 at 0xD000,
and a handler table at 0xE000. -/
def recCells : List (Nat × Byte) := [(0xA001, 0x80), (0xA009, 0xC0), (0xA030, 1), (0xA034, 1), (0xA035, 1), (0xA036, 1), (0xA037, 1), (0xB009, 0xC0), (0xD000, 1), (0xE001, 0x80)]
def sub (va : Nat) : Submit := { ctx := 0, va := va, timed := false, die := 0, op := none }
def Ws (f : Launch → Launch) : State := { (Wm recCells).modLaunch 0 f with submits := [(9, sub 0xA000), (10, sub 0xB000)] }
theorem record_at : RecordAt (Ws id) 0 0xC000 0xC000 := ⟨by decide +kernel, by decide +kernel, 0x1F, by decide +kernel⟩
theorem witness_LaunchLifeCycle : tblFind (Ws id).submits 9 = some (sub 0xA000) ∧ (sub 0xA000).after.any (Ws id).outstanding = false ∧ (sub 0xA000).widen = false ∧ RecordAt (Ws id) 0 0xC000 0xC000 ∧
    (let s := { Ws id with msgs := [(9, msg .write)] }; let u := { sub 0xA000 with after := [9] }; u.after.any s.outstanding = true) ∧
    ({ sub 0xA000 with widen := true }).after.any (Ws id).outstanding = false ∧
    (let b := (Ws id).sysBytes 0 0 0xA000 256; (krOf b).comp = 0xC000 ∧ (Ws id).rejectReason 0 false (krOf b) b [] = none) ∧
    (let b := (Ws id).sysBytes 0 0 0xB000 256; (krOf b).regN ≤ 64 ∧ (krOf b).comp = 0xC000 ∧ (Ws id).rejectReason 0 false (krOf b) b [] = some 1) ∧
    (let s := Ws (fun l => { l with phase := 0, kr := { l.kr with waits := [0xD000, 0, 0] } }); tblFind s.launches 0 = some (s.launch 0) ∧ (s.launch 0).phase = 0 ∧ (s.ctx (s.launch 0).ctx).st ≠ 2 ∧
      (∀ va ∈ (s.launch 0).kr.waits, va ≠ 0 → s.statusWord (s.launch 0).ctx (s.launch 0).die va = some 1) ∧ (s.launch 0).kr.ringCap = 0) ∧
    (let s := Ws (fun l => { l with phase := 0, kr := { l.kr with flags := 0x400, dieMask := 1, waits := [0, 0, 0] } }); (s.launch 0).kr.ringCap ≠ 0 ∧ (s.launch 0).phase = 0 ∧ (s.ctx (s.launch 0).ctx).st ≠ 2 ∧
      ∀ c ∈ maskCores (s.launch 0).kr.dieMask, (s.spFree c (s.launch 0).kr.ringBytes).isSome = true) ∧
    (let s := (Ws (fun l => { l with phase := 0, kr := { l.kr with flags := 0x400, dieMask := 1, waits := [0, 0, 0] } })).modWg 0 (fun w => { w with spSize := 2 ^ 19 }); (s.spFree 0 (s.launch 0).kr.ringBytes).isSome = false ∧ 0 ∈ maskCores (s.launch 0).kr.dieMask) ∧
    (let s := Ws (fun l => { l with phase := 0, kr := { l.kr with waits := [0xC000, 0, 0] } }); (s.launch 0).phase = 0 ∧ s.statusWord 0 0 0xC000 = some 0) ∧
    (let s := Ws (fun l => { l with phase := 0, kr := { l.kr with waits := [0xE001, 0, 0] } }); (s.launch 0).phase = 0 ∧ (s.ctx (s.launch 0).ctx).st ≠ 2 ∧ s.statusWord 0 0 0xE001 ≠ some 0 ∧ s.statusWord 0 0 0xE001 ≠ some 1) ∧
    (let s := Ws (fun l => { l with phase := 0, kr := { l.kr with waits := [0x40000000, 0, 0] } }); (s.launch 0).phase = 0 ∧ (s.ctx (s.launch 0).ctx).st ≠ 2 ∧ s.statusWord 0 0 0x40000000 = none) ∧
    (let s := { Wl (fun l => { l with nextTeam := 1 }) with wgs := [] }; s.launchDone 0 = true ∧ (s.launch 0).closing = none) ∧
    (let s := Wl (fun l => { l with closing := some [], ending := (3, 7) }); tblFind s.launches 0 = some (s.launch 0) ∧ (s.launch 0).closing = some [] ∧ ([] : List Nat).any s.outstanding = false ∧ (s.launch 0).ending.1 < 2 ^ 32) ∧
    let s := { Wl (fun l => { l with closing := some [9] }) with msgs := [(9, msg .write)] }; (s.launch 0).closing = some [9] ∧ [9].any s.outstanding = true :=
  ⟨by decide +kernel, by decide +kernel, by decide, record_at, by decide +kernel, by decide +kernel, by decide +kernel, by decide +kernel, by decide +kernel, by decide +kernel, by decide +kernel, by decide +kernel, by decide +kernel, by decide +kernel, by decide +kernel, by decide +kernel, by decide +kernel⟩
def Wrun (f : Launch → Launch) : State := ((Wm recCells).modLaunch 0 f).modDie 0 (fun d => { d with sched := { ctx := 0 } })
theorem witness_PlacementAndCompletion : (let s := Wrun (fun l => { l with kr := { l.kr with entry := 0x8000, w := 4, g := 1, t := 2, n := 8, dieMask := 1 } })
     s.mayBegin 0 = true ∧ s.nextTeamOf 0 = some 0 ∧ s.teamCores 0 0 = some [0, 1] ∧ (s.launch 0).redo = []) ∧
    (let s := Wrun (fun l => { l with timed := true, released := false, nextTeam := 1 })
     (s.launch 0).timed = true ∧ (s.launch 0).released = false ∧ s.nextTeamOf 0 = none ∧ (s.launch 0).halting = false ∧ (s.launch 0).kr.start ≤ s.tick ∧
     ∀ p ∈ s.wgs, p.2.launch = 0 → s.running (Config.dieOfCore p.2.core) (s.launch 0).ctx = true) ∧
    let s := { W with groups := [] }
    tblFind s.wgs 0 = some (s.wg 0) ∧ (∀ p ∈ s.groups, p.2.wg ≠ 0) ∧ (s.wg 0).saved = [] ∧ (s.wg 0).halt = none ∧ s.wgBusy 0 = false := by decide +kernel
def pk : Packet := { handler := 0, words := [], sender := 3, senderWg := 0, arrived := 0 }
def sn : Sent := { launch := 0, core := 0, slot := 0, lane := 0, packet := pk, op := 7, prev := [] }
def Wx (r : RxRing) (f : KRec → KRec) : State := (Wrun (fun l => { l with kr := f l.kr })).modCore 0 (fun c => { c with cycles := 256, rings := [(0, r)] })
theorem witness_ActiveMessages : (let s := Wl (fun l => { l with kr := { l.kr with flags := 0x400, dieMask := 1 } })
     First s ∧ Ready s (s.active h0) (.reg 8 :: (List.range 4).map (fun j => Src.reg (9 + j))) [] [] ∧ s.active h0 ≠ 0 ∧ s.curLaunch.kr.flags / 2 ^ 10 % 4 ≠ 0 ∧
     ∀ l ∈ lanesOf (s.active h0), (s.selWord l 8).toNat < 320 ∧ s.curLaunch.kr.dieMask.testBit (Config.dieOfCore (s.selWord l 8).toNat) = true) ∧
    First W ∧ W.active h0 ≠ 0 ∧ W.packetsDone W.curWg = true ∧ (W.unperformed W.curCtx).filter W.outstanding = [] ∧ W.roundsDue W.curCtx = [] ∧
    (Ww (fun w => { w with packets := 1 })).packetsDone 0 = false ∧
    (let s := { W with msgs := [(9, wr1)] }; s.packetsDone s.curWg = true ∧ (s.unperformed s.curCtx).filter s.outstanding ≠ []) ∧
    (let s := { Wx { cap := 1 } id with sent := [(9, sn)] }; tblFind s.sent 9 = some sn ∧ sn.prev.any s.outstanding = false ∧ sn.widen = false ∧ (s.launch 0).halting = false ∧ tblFind (s.core 0).rings 0 = some { cap := 1 }) ∧
    (let n := { sn with widen := true }; let s := { Wx { cap := 1 } id with sent := [(9, n)] }; tblFind s.sent 9 = some n ∧ n.prev.any s.outstanding = false ∧ n.widen = true) ∧
    (let s := { Wx { cap := 1, packets := [pk] } id with sent := [(9, sn)] }; tblFind (s.core 0).rings 0 = some { cap := 1, packets := [pk] }) ∧
    (let s := Wx { cap := 64, packets := [pk] } (fun k => { k with handVA := 0xE000, handN := 1 })
     tblFind (s.core 0).rings 0 = some { cap := 64, packets := [pk] } ∧ s.spawnDue 0 0 = true ∧ s.running (Config.dieOfCore 0) (s.launch 0).ctx = true ∧ (s.launch 0).halting = false ∧
     s.roundsReached pk.rounds = true ∧ s.handlerEntry 0 0 = 0x8000 ∧ s.handlerEntry 0 0 ≠ 0 ∧ (s.slotsFree 0 0).head? = some 1) ∧
    let s := Wx { cap := 64, packets := [pk] } id; s.handlerEntry 0 0 = 0 ∧ s.spawnDue 0 0 = true ∧ (s.launch 0).fault = none ∧ tblFind s.launches 0 = some (s.launch 0) ∧ (s.ctx (s.launch 0).ctx).debug = false :=
  ⟨⟨first_of (by decide +kernel), ready_of (by decide +kernel), by decide +kernel⟩, first_of (by decide +kernel), by decide +kernel⟩
def hr (kind : Nat) : HaltRec := { code := 7, kind := kind }
def Whalt (kind : Nat) (f : Launch → Launch) : State :=
  (((Ws f).modGroup 0 0 (fun g => { g with stopped := true })).modWg 0 (fun w => { w with halt := some (hr kind), reach := 15 })).modCtx 0 (fun c => { c with debug := false })
theorem witness_HaltingAndSettling : ((Whalt 0 id).wg 0).halt = some (hr 0) ∧ (Whalt 0 id).hasGroup 0 0 = true ∧ (W.wg 0).halt = none ∧ tblFind W.wgs 0 = some (W.wg 0) ∧
    (0, W.wg 0) ∈ W.wgs ∧ (W.wg 0).launch = 0 ∧ (W.wg 0).core = 0 ∧ (W.wg 0).phase = 0 ∧
    (Whalt 0 id).mayDeclareSettled 0 = true ∧ (tblFind (Whalt 0 id).wgs 0).isSome = true ∧ ((Whalt 0 id).ctx ((Whalt 0 id).launch ((Whalt 0 id).launchOfWg 0)).ctx).debug = false ∧
    ((Whalt 0 id).launch ((Whalt 0 id).launchOfWg 0)).fault = none ∧ ((Whalt 0 id).launch ((Whalt 0 id).launchOfWg 0)).halting = false ∧
    ((Whalt 4 id).modCtx 0 (fun c => { c with debug := true })).mayDeclareSettled 0 = true ∧
    let s := Whalt 1 (fun l => { l with halting := true })
    s.mayDeclareSettled 0 = true ∧ (s.launch (s.launchOfWg 0)).halting = true ∧ (s.launch (s.launchOfWg 0)).closing = none ∧ tblSorted s.wgs = true ∧ (∀ p ∈ s.wgs, p.1 = 0) := by decide +kernel
def wpf (p : Nat) : Waiting := { id := 9, iss := { W.cur with phase := p }, instr := .nop h0 ⟨0, 0x1FE, 0, 7⟩, cond := .page 0x40000000, row := 7 }
theorem witness_PageFaults : (let s := Wg (fun g => { g with waits := [wpf 0] })
     s.hasGroup 0 0 = true ∧ (s.group 0 0).waits = [wpf 0] ∧ (wpf 0).cond = .page 0x40000000 ∧ (s.group 0 0).stopped = false ∧ s.walk (s.ctxOfWg (s.wgOf 0 0)) (0x40000000 : Long).toNat = .absent 2 ∧
     (wpf 0).iss.core = 0 ∧ (wpf 0).iss.slot = 0) ∧
    let s := (Wm (placed 0x3008 (leBytes 8 0x400000000F))).modGroup 0 0 (fun g => { g with waits := [wpf 1] })
    s.hasGroup 0 0 = true ∧ (s.group 0 0).waits = [wpf 1] ∧ s.walk (s.ctxOfWg (s.wgOf 0 0)) (0x40000000 : Long).toNat = .ok 0x40000000 0x400000000F := by decide +kernel
theorem witness_PageFaults_instr : ∀ h f, (wpf 0).instr ≠ .cwb h f ∧ (wpf 0).instr ≠ .cinv h f := fun _ _ => ⟨nofun, nofun⟩
theorem witness_LecternAndSettles : (let s := { Wn with pends := [(7, { pd with kind := 3, wait := 1 })] }.modDie 1 (fun d => { d with lect := [.round 0 0 5 (some 7)] })
     (s.die 1).lect = [.round 0 0 5 (some 7)] ∧ (s.die 1).haltNext ≤ s.tick ∧ s.tick < (s.modDie 1 (fun d => { d with haltNext := 5 }) |>.die 1).haltNext ∧ tblFind (s.ctx 0).regions 0 = some { base := 0, len := 1, stack := 0 } ∧ tblFind s.pends 7 = some { pd with kind := 3, wait := 1 }) ∧
    (let v : Inval := { core := 0, die := 1, seq := 1, frame := 0x90, mask := 1, causes := [] }
     let s := { W.modDie 1 (fun d => { d with lect := [.seqNo 1] }) with invals := [v] }; (s.die 1).lect = [.seqNo 1] ∧ v ∈ s.invals ∧ v.die = 1 ∧ v.seq = 1 ∧ v.due = none) ∧
    let p : Nat × Nat × Nat × Nat := (0, 1, 0, 0)
    let s := { W with tick := 256, settles := [(0, { queue := List.replicate 64 p })] }
    (tblGet ({} : Settle) s.settles 0).queue.filter (fun q => q.2.2.1 = 0) = p :: List.replicate 63 p ∧ 63 ≤ (List.replicate 63 p).length ∧ p.2.2.2 + 256 ≤ s.tick := by decide +kernel
/-- Two entries of the run list: context 0, and context c, urgent or not; die 0 runs the first. -/
def Wt2 (c : Nat) (u : Bool) (sch : Sched) : State :=
  let k := 2 ^ 63 + 2 ^ 52 + 1000
  { (Wc (fun c => { c with st := 1 })) with
    runList := [(0, BitVec.ofNat 64 k), (1, BitVec.ofNat 64 (k + c * 2 ^ 56 + if u then 2 ^ 62 else 0))]
    launches := [(0, { phase := 1, kr := { w := 2, dieMask := 1 } }), (1, { ctx := 1, phase := 1, kr := { w := 2, dieMask := 1 } })] }.modCtx 1 (fun c => { c with st := 1 }) |>.modDie 0 (fun d => { d with sched := sch })
theorem witness_TurnsOfContexts : (let s := Wt2 1 false { entry := 0, ctx := 0 }
     (s.die 0).sched.ctx ≠ 64 ∧ (s.die 0).sched.draining = false ∧ (s.ctx (s.die 0).sched.ctx).st ≠ 2 ∧ (s.die 0).sched.sliceEnd ≤ s.tick ∧ (tblGet 0 s.runList 0).toNat.testBit 62 = false ∧ s.urgentReady 0 = none ∧ s.nextReady 0 false 0 = some 1) ∧
    (let s := Wt2 0 false { entry := 0, ctx := 0 }; s.nextReady 0 false 0 = some 1 ∧ (tblGet 0 s.runList 1).toNat / 2 ^ 56 % 2 ^ 6 = 0) ∧
    (let s := { Wt2 1 false { entry := 0, ctx := 0 } with launches := [], wgs := [] }; s.urgentReady 0 = none ∧ s.nextReady 0 false 0 = none) ∧
    (let s := Wt2 1 true { entry := 0, ctx := 0 }; s.urgentReady 0 = some 1 ∧ (tblGet 0 s.runList 0).toNat.testBit 62 = false) ∧
    (let s := { Wt2 1 false { entry := 0, ctx := 0, draining := true, nextEntry := 1 } with wgs := [] }
     (s.die 0).sched.draining = true ∧ s.drained 0 = true ∧ (s.die 0).sched.nextEntry ≠ (s.die 0).sched.interrupted ∧ s.entryReady 0 false 1 = true) ∧
    (let s := { Wt2 1 false { entry := 1, ctx := 1, draining := true, nextEntry := 0, interrupted := 0, remaining := 5 } with wgs := [] }
     s.drained 0 = true ∧ (s.die 0).sched.interrupted < 64 ∧ s.entryReady 0 false (s.die 0).sched.interrupted = true ∧ s.urgentReady 0 = none ∧ (s.die 0).sched.nextEntry = (s.die 0).sched.interrupted ∧ (s.ctx 1).st ≠ 2) ∧
    (let s := (Wt2 1 false { entry := 0, ctx := 0 }).modCtx 0 (fun c => { c with st := 2 }); (s.die 0).sched.ctx ≠ 64 ∧ (s.ctx (s.die 0).sched.ctx).st = 2) ∧
    let s := Wt2 1 false { entry := 0, ctx := 0, draining := true, nextEntry := 1 }
    (s.die 0).sched.drainAt ≤ s.tick ∧ s.drained 0 = false ∧ (s.ctx 0).st = 1 := by decide +kernel
def Wpk (sz : Nat) : State := ((Ww (fun w => { w with halt := some (hr 0) })).modCtx 0 (fun c => { c with saveSize := sz })).modDie 0 (fun d => { d with sched := { ctx := 0, draining := true } })
theorem witness_ParkingAndReset : (let s := Wpk 1000000; (tblFind s.wgs 0).isSome = true ∧ s.mustPark 0 = true ∧ s.quietWg 0 = true ∧ (s.ctx (s.ctxOfWg 0)).saveUsed + s.saveBytes 0 ≤ (s.ctx (s.ctxOfWg 0)).saveSize) ∧
    (let s := Wpk 0; s.mustPark 0 = true ∧ s.quietWg 0 = true ∧ (s.ctx (s.ctxOfWg 0)).saveSize < (s.ctx (s.ctxOfWg 0)).saveUsed + s.saveBytes 0 ∧ (s.ctx (s.ctxOfWg 0)).st = 1) ∧
    (let s := { (Ww (fun w => { w with phase := 1, saved := [(5, placeGroup)] })).modDie 0 (fun d => { d with sched := { ctx := 0 } }) with groups := [] }
     s.mayResume 0 = true ∧ (s.wg 0).saved = [(5, placeGroup)] ∧ s.hasGroup 0 5 = false) ∧
    (W.ctx 0).st = 1 ∧ (let s := Wc (fun c => { c with st := 2, resetCores := [0] }); (s.ctx 0).st = 2 ∧ 0 ∈ (s.ctx 0).resetCores ∧ ∀ c ∈ (s.ctx 0).resetCores, c = 0) ∧
    (let s := Wc (fun c => { c with st := 2 }); (s.ctx 0).st = 2 ∧ (s.ctx 0).resetCores = [] ∧ (s.ctx 0).closing = none) ∧
    let s := (Ws id).modCtx 0 (fun c => { c with st := 2, closing := some [] })
    (s.ctx 0).st = 2 ∧ (s.ctx 0).resetCores = [] ∧ (s.ctx 0).closing = some [] ∧ ([] : List Nat).any s.outstanding = false ∧ tblSorted s.launches = true ∧
    s.launches.filter (fun p => p.2.ctx = 0) = [(0, s.launch 0)] := by decide +kernel
theorem witness_ResetRecord : let s := (Ws (fun l => { l with kr := { l.kr with comp := 0xC000 } })).modCtx 0 (fun c => { c with st := 2, closing := some [] })
    (s.ctx 0).st = 2 ∧ (s.ctx 0).resetCores = [] ∧ (s.ctx 0).closing = some [] ∧ s.launches.filter (fun p => p.2.ctx = 0) = [(0, s.launch 0)] ∧ RecordAt s 0 (s.launch 0).kr.comp 0xC000 :=
  ⟨by decide +kernel, by decide +kernel, by decide +kernel, by decide +kernel, by decide +kernel, by decide +kernel, 0x1F, by decide +kernel⟩
theorem witness_IssueCycle : tblSorted W.groups = true ∧ (∀ p ∈ W.pends, p.2.kind ≠ 4) ∧ W.hasGroup 0 0 = true := by decide +kernel
/-- Group 0 waits for a crossing; and 20 groups of 320 registers, group 0 ready to be raised. -/
def Wlow : State := Wg (fun g => { g with xings := [xg] })
def Wfull : State := ({ W with groups := (0, { placeGroup with chest := 1, readySince := 1 }) :: (List.range 19).map (fun k => (k + 1, placeGroup)) }).modCore 0 (fun c => { c with cycles := 2048 })
theorem witness_RefetchLowerAndRaise : Wlow.hasGroup 0 0 = true ∧ Wlow.mayLower 0 0 = true ∧ W.mayLower 0 0 = false ∧
    (let s := Wg (fun g => { g with chest := 1 }); s.mayRaise 0 0 = true ∧ s.regsUsed 0 + (s.group 0 0).n ≤ 6144 ∧ (s.group 0 0).forced = false) ∧
    (let s := Wg (fun g => { g with chest := 1, forced := true }); s.staysLowered 0 0 = false ∧ s.regsUsed 0 + (s.group 0 0).n ≤ 6144 ∧ (s.group 0 0).forced = true ∧ ∀ p ∈ s.groups, p.1 = 0) ∧
    Wfull.hasGroup 0 0 = true ∧ (Wfull.group 0 0).readySince ≠ 0 ∧ (Wfull.group 0 0).readySince - 1 + 2048 ≤ (Wfull.core 0).cycles ∧ Wfull.mayRaise 0 0 = true ∧
    6144 < Wfull.regsUsed 0 + (Wfull.group 0 0).n ∧ Wfull.youngest 0 (fun j => Wfull.mayLower 0 j) = none ∧ Wfull.youngest 0 (fun _ => true) = some 1 := by decide +kernel
theorem witness_TimeBase : (∀ c k, tblFind W.cores c = some k → k.trace = none) ∧ tblFind W.cores 0 = some (W.core 0) ∧ (W.core 0).stopped ≤ W.tick + 1 ∧
    W.tick + 1 < ((W.modCore 0 (fun c => { c with stopped := 2 })).core 0).stopped := by
  refine ⟨fun c k h => ?_, by decide +kernel, by decide +kernel, by decide +kernel⟩
  have e : ∀ p ∈ W.cores, p.2.trace = none := by decide +kernel
  have mem : ∀ (t : Tbl Core), tblFind t c = some k → (c, k) ∈ t := by
    intro t
    induction t with
    | nil => intro h; cases h
    | cons a r ih =>
      intro h
      simp only [tblFind] at h
      split at h
      · rename_i q; cases h; subst q; exact List.mem_cons_self
      · exact List.mem_cons_of_mem _ (ih h)
  exact e _ (mem _ h)
def tr (d n : Nat) : Trace := { ctx := 0, base := 0, size := 0, drop := d, queue := List.replicate n 0 }
theorem witness_TracePackets : (let s := W.modCore 0 (fun c => { c with trace := some (tr 5 4000) }); (s.core 0).trace = some (tr 5 4000) ∧ (tr 5 4000).on = true ∧
      (tr 5 4000).queue.length + (escaped ([7, 0xFF] ++ leBytes 8 s.tick)).length ≤ 4096 ∧ (tr 5 4000).queue.length + (escaped ([6, 0xFF] ++ leBytes 4 5)).length ≤ 4096 ∧ s.hasGroup 0 0 = true) ∧
    let s := W.modCore 0 (fun c => { c with trace := some (tr 5 4096) }); (s.core 0).trace = some (tr 5 4096) ∧ 4096 < (tr 5 4096).queue.length + 1 := by decide +kernel
def smp (w : Nat) : Sampler := { mask := 1, atMark := false, stopEmpty := false, period := 256, capacity := 1, base := 0x9000, size := 16, started := true, written := w }
def Wsm (w : Nat) (m : Nat) : State := W.modCore 0 (fun c => { c with samplers := [(0, { smp w with mask := m })] })
theorem witness_Sampling : Samples (Wsm 0 1) 0 0 0 (smp 0) ∧ (Wsm 0 1).nextSampled 0 0 0 (tblFind (smp 0).last 0) = some 0 ∧ (smp 0).written < (smp 0).capacity ∧
    Samples (Wsm 0 4) 0 0 2 { smp 0 with mask := 4 } ∧ (Wsm 0 4).nextSampled 0 2 0 (tblFind (smp 0).last 2) = none ∧
    Samples (Wsm 1 1) 0 0 0 (smp 1) ∧ (smp 1).capacity ≤ (smp 1).written := by unfold Samples; decide +kernel
theorem witness_TrialEnd : let x : Trial := { core := 0, delay := 0, lo := 0, hi := 0, ends := 1 }
    ((Wc (fun c => { c with trial := some x })).ctx 0).trial = some x ∧ (Wc (fun c => { c with trial := some x })).tick < x.ends ∧
    ((Wc (fun c => { c with trial := some { x with ends := 0 } })).ctx 0).trial = some { x with ends := 0 } := by decide +kernel
theorem witness_EnergyAccounts : tblSorted W.launches = true ∧ tblSorted W.ctxs = true ∧ (W.core 0).occupied = [] ∧ (W.core 0).issued = [] ∧ 64 ≤ (W.die (0 / 80)).sched.ctx ∧
    ((Wrun id).die (0 / 80)).sched.ctx < 64 ∧ (let s := W.modCore 0 (fun c => { c with occupied := [(1, 3)], issued := [(1, 4)] })
     (s.core 0).occupied = [(0 + 1, 3)] ∧ (s.core 0).issued = [(0 + 1, 4)] ∧ tblFind s.launches 0 = some (s.launch 0) ∧ (s.launch 0).begun = true) ∧ ((Wl (fun l => { l with begun := false })).launch 0).begun = false ∧
    (let s := { W with metered := [(2 * 512 + 5, [(1, 4)])] }; tblGet [] s.metered (2 * 512 + 5) = [(0 + 1, 4)] ∧ tblGet [] W.metered (2 * 512 + 5) = []) := by decide +kernel

def Wst (f : Home → Home) : State := W.modHome 3 f
def qz : Quiesce := { wg := 0, drive := some (1055, true) }
theorem witness_TestsAndRepairs : (W.home 3).testBus = none ∧ (W.home 3).nextTest = some 0 ∧
    (let s := Wst (fun h => { h with testBus := some 5, testEnd := 726 }); (s.home 3).testBus = some 5 ∧ s.tick < (s.home 3).testEnd) ∧
    (let s := Wst (fun h => { h with testBus := some 5 }); (s.home 3).testBus = some 5 ∧ (s.home 3).testEnd ≤ s.tick) ∧
    (let s := Wst (fun h => { h with quiesce := [(5, qz)] }); tblFind (s.home 3).quiesce 5 = some qz) ∧ vbLegal ((W.home 3).vb 5 15) = true ∧ groupOf 1055 = 15 ∧ placeOf 1055 = 65 ∧
    (let s := Wst (fun h => h.setVb 5 15 0xC1C0); vbLegal ((s.home 3).vb 5 15) = true ∧ 65 ∈ vbRepairs ((s.home 3).vb 5 15) ∧ 1 ∉ vbRepairs ((s.home 3).vb 5 15) ∧
      2 ≤ (vbRepairs ((s.home 3).vb 5 15)).length) := by decide +kernel
theorem witness_DoubleErrors : (W.home 3).repairable 5 [] = false ∧ (W.home 3).repairable 5 [7, 9] = true ∧ (W.home 3).leaving 5 = false ∧ (tblFind W.wgs 0).isSome = true ∧
    tblFind W.wgs 9 = none ∧ (∀ g, g < 16 → vbLegal ((W.home 3).vb 5 g) = true) ∧
    ((Wst (fun h => { h with mig := some { group := 5, target := 32, stripe := 0, retire := some 5 } })).home 3).leaving 5 = true := by decide +kernel
def mg (st : Nat) (r : Option Nat) : Migration := { group := 5, target := 32, stripe := st, retire := r }
theorem witness_BankMigration : (W.home 3).bgState 5 ≠ 2 ∧ (W.home 3).mig = none ∧ (W.home 3).logicalOf 5 = some 5 ∧ (W.home 3).resOrder = [32, 33] ∧ (W.home 3).logicalOf 33 = none ∧
    (W.home 3).bgState 33 ≠ 2 ∧ (W.home 3).rotctl.getLsbD 0 = true ∧ ((Wst (fun h => { h with resOrder := [] })).home 3).resOrder = [] ∧ ((Wst (fun h => { h with rotctl := 0x28 })).home 3).rotctl.getLsbD 0 = false ∧
    (let s := Wst (fun h => { h with mig := some (mg 32766 none) }); (s.home 3).mig = some (mg 32766 none) ∧ (s.home 3).bgState 5 ≠ 2) ∧
    (let s := Wst (fun h => { h with mig := some (mg 32767 none) }); (s.home 3).mig = some (mg 32767 none) ∧ remapPhys ((s.home 3).remapEntry 5) ≠ 32) ∧
    let s := Wst (fun h => { h with mig := some (mg 32767 (some 5)) }); (s.home 3).mig = some (mg 32767 (some 5)) ∧ remapPhys ((s.home 3).remapEntry 5) ≠ 32 := by decide +kernel
/-- Every thread names stack 3, bus 5, connection 1055 in v8 and a word in v9. -/
def Wvt (v : Word) (h : Home → Home) : State := (Wt (fun t => { t with regs := [(8, ⟨0x041F0503, false⟩), (9, ⟨v, false⟩)] })).modHome 3 h
def fvt : FmtS := { idx := 0, a := 8, modi := 0, imm := 0 }
theorem bus_ready_of {s : State} {h : Hdr} {f : FmtS} {b c : Bool} (q : (firstB s && ((s.shortFault (BitVec.ofNat 32 (2 ^ s.lowLane h)) (srcRegs (if b then [.pair f.a.toNat] else [.reg f.a.toNat])) []).isNone &&
    (if b then [.pair f.a.toNat] else [.reg f.a.toNat]).all (fun x => s.srcProxy (s.lowLane h) x == false) &&
    (s.badOperands (BitVec.ofNat 32 (2 ^ s.lowLane h)) (if b then [.pair f.a.toNat] else [.reg f.a.toNat])).isEmpty)) = true)
    (r : decide (s.active h ≠ 0 ∧ s.shortFault (s.active h) [f.a.toNat, f.a.toNat + 1] [] = none ∧ busBad (s.selWord (s.lowLane h) f.a.toNat) c = false) = true) : BusReady s h f b c := by
  have r := of_decide_eq_true r
  exact ⟨low_ready_of q, r⟩
theorem witness_VbtInstructions : BusReady (Wvt 0 id) h0 fvt false false ∧ BusReady (Wvt 0 id) h0 fvt false true ∧ BusReady (Wvt 0xC180 id) h0 fvt true true ∧ BusReady (Wvt 2000 id) h0 fvt true false ∧
    ((Wvt 0 id).home 3).bgState 5 ≠ 2 ∧ ((Wvt 0 id).home 3).migrates 5 = false ∧ tblFind ((Wvt 0 id).home 3).quiesce 5 = none ∧ ((Wvt 0 id).home 3).resOrder ≠ [] ∧
    (let s := Wvt 0 (fun h => { h with quiesce := [(5, qz)] }); BusReady s h0 fvt false false ∧ BusReady s h0 fvt false true ∧ tblFind (s.home 3).quiesce 5 = some qz ∧ qz.wg = s.curWg ∧ qz.drive ≠ none) ∧
    (let s := Wvt 0 (fun h => { h with quiesce := [(5, { qz with wg := 8, drive := none })] }); BusReady s h0 fvt false false ∧ tblFind (s.home 3).quiesce 5 = some { qz with wg := 8, drive := none } ∧ 8 ≠ s.curWg) ∧
    (let s := Wvt 0 (fun h => { h with bg := [(5, 2)], ended := [(0, 5)] }); BusReady s h0 fvt false false ∧ (s.home 3).bgState 5 = 2 ∧ (s.curWg, 5) ∈ (s.home 3).ended) ∧
    vbLegal 0xC180 = true ∧ vbLegal 0x8000 = false ∧ rotLegal 2000 = true ∧ rotLegal 8 = false ∧ rotLegal 2003 = false ∧
    (let s := Wt (fun t => { t with regs := [(8, ⟨12, false⟩)] }); LowReady s h0 [.reg 8] ∧ s.active h0 ≠ 0 ∧ s.shortFault (s.active h0) [8, 9] [] = none ∧ busBad (s.selWord (s.lowLane h0) 8) false = true) :=
  ⟨bus_ready_of (by decide +kernel) (by decide +kernel), bus_ready_of (by decide +kernel) (by decide +kernel), bus_ready_of (by decide +kernel) (by decide +kernel), bus_ready_of (by decide +kernel) (by decide +kernel),
    by decide +kernel, by decide +kernel, by decide +kernel, by decide +kernel,
    ⟨bus_ready_of (by decide +kernel) (by decide +kernel), bus_ready_of (by decide +kernel) (by decide +kernel), by decide +kernel⟩, ⟨bus_ready_of (by decide +kernel) (by decide +kernel), by decide +kernel⟩,
    ⟨bus_ready_of (by decide +kernel) (by decide +kernel), by decide +kernel⟩, by decide, by decide, by decide, by decide, by decide, ⟨low_ready_of (by decide +kernel), by decide +kernel⟩⟩
theorem witness_OperatingPoints : (0 : Nat) < 320 ∧ (if W.thermalHold then 3 else min 3 (max 0 (W.core 0).cap)) = (W.core 0).point ∧ ¬ (if W.thermalHold then 3 else min 3 (max 1 (W.core 0).cap)) = (W.core 0).point ∧
    W.powerNext = [] ∧ (W.core 0).point < 3 ∧ (∀ d, d < 320 → W.metered10 d = W.metered10 0 ∧ 0 ≤ d) ∧ W.thermalHold = false ∧ ({ W with lowered := [7] } : State).lowered.getLast? = some 7 ∧ W.lowered = [] := by
  decide +kernel
theorem witness_TemperatureAndWear : W.thermalHold = false ∧ (W.core 0).point < 3 ∧ tblFind W.thermalAt 0 = none ∧ (W.ctx 0).st = 1 ∧
    tblFind ({ W with thermalAt := [(0, 0)] } : State).thermalAt 0 = some 0 ∧ W.tick < 0 + 110000 ∧ ∀ p ∈ W.junction, p.2 < 95 := by decide +kernel
theorem witness_HostAccessesAndReset : tblSorted W.cores = true ∧ State.reset.apertureOk 0x9000 = true ∧ State.reset.apertureOk (0x9000 + (4 - 1)) = true ∧ W.apertureOk 0x9000 = false ∧
    tblFind ({ W with windows := [(5, win)] } : State).windows (0 * 64 + 5) = some win := by decide +kernel

/-- A placed word as the step finds it. -/
def Wf (w : Slot) : State := State.place State.reset w
def kf : Issue := { core := 0, slot := 0, lanes := 0xFFFFFFFF, pos := 0x8000 }
def lf (w : Slot) : List Byte := leBytes 12 w.toNat ++ List.replicate 48 0 ++ leBytes 4 (lineWordFor w).toNat
theorem fetches_of {w : Slot} (h : decide ((Wf w).agenda = [.issue kf] ∧ (Wf w).hasGroup 0 0 = true ∧ (Wf w).lineCheck ((Wf w).launchOfWg ((Wf w).wgOf 0 0)) 0x8000 = .ok (lf w) ∧
    slotParityOk (lineWord (lf w)) 0 (lineSlot (lf w) 0) = true ∧ State.badLine { Wf w with agenda := [], cur := kf } 0x8000 = none ∧ ∀ l ∈ lanesOf kf.lanes, ((Wf w).thread 0 0 l).entering = false) = true) : Fetches (Wf w) kf [] (lf w) := by
  have h := of_decide_eq_true h
  exact ⟨h.1, h.2.1, h.2.2.1, by decide, h.2.2.2.1, h.2.2.2.2.1, Or.inl h.2.2.2.2.2⟩
theorem witness_AStepRunsTheDecodedInstruction : let w : Slot := 0x80000E00000FF00000000000
    Fetches (Wf w) kf [] (lf w) ∧ decode (lineSlot (lf w) 0) = .ok (.nop h0 ⟨0, 0x1FE, 0, 0⟩) ∧ issueClass (slotOp (lineSlot (lf w) 0)) = some (lineClass (lineWord (lf w)) 0) ∧
    (Instr.nop h0 ⟨0, 0x1FE, 0, 0⟩).wf ((Wf w).group 0 0).n = true ∧ privileged (.nop h0 ⟨0, 0x1FE, 0, 0⟩) = false ∧ W1.agenda = [] ∧
    ({ W with agenda := [.event .timeBaseTick] } : State).agenda = .event .timeBaseTick :: [] ∧ ({ W with agenda := [.resume kf (.nop h0 ⟨0, 0x1FE, 0, 0⟩)] } : State).agenda = .resume kf (.nop h0 ⟨0, 0x1FE, 0, 0⟩) :: [] :=
  ⟨fetches_of (by decide +kernel), by decide +kernel, by decide +kernel, by decide +kernel, by decide +kernel, rfl, rfl, rfl⟩
/-- An unassigned opcode, a nop with a variant, a nop with an immediate, a nop in a line of class 5, and rdsr in a context without the privilege of a privileged instruction. -/
theorem witness_FetchFaults : kf.phase = 0 ∧ (let w : Slot := 0xFFC00E00000FF00000000000; Fetches (Wf w) kf [] (lf w) ∧ issueClass (slotOp w) = none) ∧
    (let w : Slot := 0x80020E00000FF00000000000; Fetches (Wf w) kf [] (lf w) ∧ (match decode w with | .ok _ => false | _ => true) = true ∧ issueClass (slotOp w) = some (lineClass (lineWord (lf w)) 0)) ∧
    (let w : Slot := 0x80000E00000FF00000000001; Fetches (Wf w) kf [] (lf w) ∧ (match decode w with | .ok i => i.wf 320 | _ => true) = false ∧ issueClass (slotOp w) = some (lineClass (lineWord (lf w)) 0)) :=
  ⟨rfl, ⟨fetches_of (by decide +kernel), by decide +kernel⟩, ⟨fetches_of (by decide +kernel), by decide +kernel, by decide +kernel⟩, fetches_of (by decide +kernel), by decide +kernel, by decide +kernel⟩
theorem next_of {o : Host.Outcome State Fault Refusal} (h : (match o with | .next _ => true | _ => false) = true) : ∃ t, o = .next t := by
  cases o with
  | next t => exact ⟨t, rfl⟩
  | _ => cases h
theorem witness_OnlyTheseChangeMemory : ¬ WritesMemory (.nop h0 ⟨0, 0x1FE, 0, 7⟩) ∧ ∃ t, exec (.nop h0 ⟨0, 0x1FE, 0, 7⟩) W = .next t := by
  refine ⟨?_, next_of (by decide +kernel)⟩
  simp [WritesMemory]
theorem witness_EveryStepKeepsTheInvariant : Machine.Inv (Wf 0x80000E00000FF00000000000) ∧ ∃ t, step (Wf 0x80000E00000FF00000000000) = .next t := by
  exact ⟨by unfold Machine.Inv; decide +kernel, next_of (by decide +kernel)⟩
theorem witness_IssueFrame : First W ∧ pd.core = W.cur.core := ⟨first_of (by decide +kernel), by decide +kernel⟩
theorem witness_EncodeOfDecode : decode 0x80000E00000FF00000000000 = .ok (.nop h0 ⟨0, 0x1FE, 0, 0⟩) := by decide +kernel
/-- A state with kick page 2 changed, and states of debugging. -/
def Wq (s : State) (f : Kick → Kick) : State := s.modKick 2 f
def Wdb (f : Workgroup → Workgroup) : State := (Ww (fun w => f { w with halt := some (hr 4), settled := true })).modCtx 0 (fun c => { c with debug := true, replay := true })
theorem witness_KickPages : (0x10 ≤ 0x7F8 ∧ 0x7F8 + (leBytes 8 1).length ≤ 0x800) ∧ (W.kick 2).running = false ∧ (W.kick 2).code < 2 ^ 16 ∧ (W.kick 2).flags < 2 ^ 16 ∧ (W.kick 2).argLen < 2 ^ 32 ∧
    leNat (leBytes 8 1) = ((W.kick 2).done + 1) % 2 ^ 64 ∧ leNat (leBytes 8 2) ≠ ((W.kick 2).done + 1) % 2 ^ 64 ∧ (leBytes 8 2).length = 8 ∧
    (let s := { Wq W (fun k => { k with running := true, code0 := 0x01, len0 := 4 }) with agenda := [.command 2] }
     (s.kick 2).latched = none ∧ (s.kick 2).running = true ∧ (s.kick 2).code0 ≠ 0x44 ∧ (s.kick 2).code0 ≠ 0x49 ∧ (s.kick 2).undo = [] ∧ s.agenda = .command (2 : BitVec 6).toNat :: [] ∧ s.heldBack 2 = false ∧
     commandLength (s.kick 2).code0 = some 0 ∧ (s.kick 2).flags0 ≤ 1 ∧ (s.kick 2).len0 ≠ 0) ∧ commandLength 0xFF = none ∧
    (let s := Wq W (fun k => { k with running := true, code0 := 0x20, undo := [(0x3008, 5, 0)] })
     (s.kick 2).latched = none ∧ (s.kick 2).running = true ∧ (s.kick 2).code0 = 0x20 ∧ (s.kick 2).undo = [(0x3008, 5, 0)] ∧ memNat s.mem 0x3008 8 = 0) := by decide +kernel
theorem witness_KickPages_running : (let s := Wq W (fun k => { k with running := true }); (s.kick 2).running = true ∧ (s.kick 2).latched = none ∧ (s.kick 2).stops = [] ∧ (s.kick 2).keep = none ∧ (s.kick 2).undo = []) ∧
    (let s := Wq (Ww (fun w => { w with halt := some (hr 4) })) (fun k => { k with running := true, stops := [(0, hr 4)] })
     (s.kick 2).running = true ∧ (s.kick 2).latched = none ∧ (s.kick 2).stops = [(0, hr 4)] ∧ (s.kick 2).keep = none ∧ (s.kick 2).undo = [] ∧ (s.wg 0).halt = some (hr 4)) ∧
    (Wq W (fun k => { k with running := false })).kick 2 = W.kick 2 := by decide +kernel
/-- R375: a map that replaced an entry and runs out of time leaves the entry as it was, and its status is 0x0C. -/
theorem test_commandTimeout_undo : (match exec (.commandTimeout 2) (Wq W (fun k => { k with running := true, code0 := 0x20, undo := [(0x3008, 5, 0)] })) with
    | .next t => decide (memNat t.mem 0x3008 8 = 5 ∧ (t.kick 2).status = 0x0C) | _ => false) = true := by decide +kernel
theorem witness_ContextCommands : (W.kick 0).latched = none ∧ (W.kick 2).latched = none ∧ ctxRecBad 0 = false ∧ (State.reset.ctx (recAt (0 : BitVec 1024) 0 4 % 64)).st = 0 ∧ deviceRange 0 1 = true ∧
    (∀ h, h < 12 → State.reset.quotaSum h 0 + 0 ≤ 4194304) ∧ (∀ d, d < 4 → State.reset.dsTaken d + 0 ≤ 1024) ∧ (W.kick 0).phase = 0 ∧ (W.ctx 0).st = 1 ∧
    (let s := (Wc (fun c => { c with st := 0 })).modKick 0 (fun k => { k with phase := 3 }); (s.kick 0).phase ≠ 0 ∧ (s.ctx 0).st ≠ 2 ∧ (s.ctx 0).st = 0) ∧
    (Ws id).rootBad 0 0xA000 = false ∧ (Ws id).launchCount 0 < 256 ∧ (Ws id).rootBad 0 0x40000000 = true ∧ W.quotaSum 11 0 + 4194304 ≤ 4194304 ∧ W.slotCount 0 11 ≤ 4194304 ∧
    (let w : Long := 0x801F4240_000F4240; 10 ≤ w.toNat / 2 ^ 32 % 2 ^ 20 ∧ w.toNat / 2 ^ 52 % 16 ≠ 0 ∧ w.toNat / 2 ^ 32 % 2 ^ 20 ≤ 1000000 ∧ w.toNat % 2 ^ 32 ≤ 1000000 ∧ w.getLsbD 63 = true) := by decide +kernel
/-- A record with a table of one layout at 0x10000, which no page maps. -/
theorem witness_ContextCommands_table : let r : BitVec 1024 := 0x4000 * 2 ^ 64 + 1 * 2 ^ 320 + 0x10000 * 2 ^ 384
    ctxRecBad r = false ∧ recAt r 8 8 = 0x4000 ∧ recAt r 0x28 4 = 1 ∧ recAt r 0x30 8 = 0x10000 ∧ deviceRange (recAt r 8 8) 1 = true ∧
    deviceRange (recAt r 0x30 8) (64 * recAt r 0x28 4) = true ∧ State.reset.someMaps (recAt r 0x30 8) (64 * recAt r 0x28 4) = false ∧
    tableMaps State.reset.mem (recAt r 0x30 8) (64 * recAt r 0x28 4) 5 (recAt r 8 8) = false := by decide +kernel
theorem witness_TranslationCommands : (W.kick 2).latched = none ∧ (W.ctx 0).st = 1 ∧ (W.kick 2).phase = 0 ∧ badEntry 2 0x400000001F = false ∧ entryAddr W.mem 0x40000000 2 5 (W.ctx 0).root = some 0x3008 ∧
    W.hitsBuffer 2 0x400000001F = false ∧ (memNat W.mem 0x3008 8).testBit 0 = false ∧ (memNat W.mem 0x3000 8).testBit 0 = true ∧
    ((Wq W (fun k => { k with phase := 9 })).kick 2).phase ≠ 0 ∧ (Wq W (fun k => { k with phase := 9 })).oldWork 0 9 = false ∧
    (let s := Wm (placed 0x3008 (leBytes 8 0x400000401F)); s.handoverBusy 2 0 0x40000000 0x10000 = false ∧ s.handoverLeaves 0 0x40000000 0x10000 = some [(0x3008, 0x400000401F, 0x40000000)]) ∧
    (let s := Wc (fun c => { c with layLen := 1 }); 0 < (s.ctx 0).layLen ∧ layoutOwner layRec = 0 ∧ layoutBad layRec = false ∧ layoutOwner (2 ^ 88) ≠ 0) ∧
    (let s := Wm (placed 0x3008 (leBytes 8 0x400000055F)); tblFind s.windows (0 * 64 + 5) = none ∧ s.windowPages 0 5 0x40000000 0x10000 = true ∧ (∀ d, d < 4 → s.dsTaken d + 0x10000 / 65536 ≤ 1024) ∧
     mapsWindow s.mem 5 5 (s.ctx 0).root = true) ∧
    (let s := { W with windows := [(5, win)] }; tblFind s.windows (0 * 64 + 5) = some win ∧ win.busy = 0 ∧ mapsWindow s.mem 5 5 (s.ctx 0).root = false) := by decide +kernel
theorem witness_DebugCommands : ((Wdb id).kick 2).latched = none ∧ ((Wdb id).ctx 0).debug = true ∧ ((Wdb id).ctx 0).st = 1 ∧ ((Wdb id).kick 2).phase = 0 ∧ Halted (Wdb id) 0 0 ∧
    (let s := Wc (fun c => { c with debug := true }); s.target 0 = some 0 ∧ (s.wg 0).phase = 0 ∧ (s.wg 0).halt = none) ∧
    (let s := Wq (Wdb id) (fun k => { k with phase := 1 }); (s.kick 2).phase ≠ 0 ∧ s.target 0 = some 0 ∧ (s.wg 0).settled = true) ∧
    (Wdb id).hasGroup 0 0 = true ∧ ((Wdb id).group 0 0).idx = 0 ∧ (Wdb id).groupNo 0 0 = some ((Wdb id).group 0 0) ∧ 31 < ((Wdb id).group 0 0).threads.length ∧ ((Wdb id).thread 0 0 31).exited = false := by
  unfold Halted; decide +kernel
theorem witness_CheckpointsAndPreciseStops : (let s := Wdb (fun w => { w with rwc := 65536 })
     s.checkpointDue 0 = true ∧ (∀ c ∈ (s.wg 0).copies, c.2.st = 0) ∧ (∀ o ∈ (s.core (s.wg 0).core).mq, o.wg ≠ 0) ∧ (∀ q ∈ s.sent, q.2.packet.senderWg ≠ 0)) ∧
    (let s := Wdb (fun w => { w with rwc := 5 }); (s.kick 2).latched = none ∧ s.target 0 = some 0 ∧ Halted s 0 0 ∧ s.replaying 0 = true ∧ (s.wg 0).ival.toNat = 0 ∧ (s.kick 2).phase = 0 ∧ (s.wg 0).rwc ≤ 5 ∧ 4 < (s.wg 0).rwc) ∧
    (let s := Wq (Wdb id) (fun k => { k with phase := 1 }); (s.kick 2).phase = 1 ∧ s.debugStopped 0 = true) ∧
    let s := Wq (Wdb (fun w => { w with replay := { w.replay with hist := [{ rwc := 3 }] } })) (fun k => { k with phase := 9 })
    (∀ v ∈ s.wgs, v.1 = 0) ∧ ((Wq (Wdb id) (fun k => { k with phase := 2 })).kick 2).phase = 2 ∧ (∀ v ∈ (Wq (Wdb id) (fun k => { k with phase := 2 })).wgs, v.1 = 0) ∧
    2 < (s.kick 2).phase ∧ s.oldWork (s.ctxOfWg 0) (s.kick 2).phase = false ∧ (s.wg 0).replay.hist.find? (fun m => m.rwc = 3) = some { rwc := 3 } ∧ (s.wg 0).phase ≠ 1 ∧
    (s.wg 0).replay.metFault 3 = none := by unfold Halted; decide +kernel
theorem witness_PreciseStops_fault : let s := Wq (Wdb (fun w => { w with replay := { w.replay with hist := [{ rwc := 3 }], faults := [(3, hr 0)] } })) (fun k => { k with phase := 9 })
    (s.wg 0).replay.metFault 4 = some (3, hr 0) ∧ (s.wg 0).replay.hist.find? (fun m => m.rwc = 3) = some { rwc := 3 } ∧ 2 < (s.kick 2).phase ∧ s.oldWork (s.ctxOfWg 0) (s.kick 2).phase = false := by decide +kernel
/-- Tables of the arguments of samplerArm and trialArm: context 0, core 319. -/
def recSampler : BitVec 224 := 0x013F * 2 ^ 32 + 0xF * 2 ^ 48 + 256 * 2 ^ 64 + 256 * 2 ^ 96 + 0x10000 * 2 ^ 128 + 4096 * 2 ^ 192
def recTrial : BitVec 224 := 0x013F * 2 ^ 32 + 64 * 2 ^ 48 + 8 * 2 ^ 128 + 10 * 2 ^ 192
theorem witness_ObserveCommands : let s := State.reset
    (s.kick 2).latched = none ∧ bufferOk 4096 0x10000 = true ∧ deviceRange 0x10000 4096 = true ∧ s.someMaps 0x10000 4096 = false ∧
    ((W.modCore 0 (fun c => { c with trace := some (tr 5 4000) })).core 0).trace = some (tr 5 4000) ∧ (tr 5 4000).ctx = 0 ∧
    (let r := recSampler; recAt r 0 4 < 64 ∧ recAt r 4 2 < 320 ∧ recAt r 7 1 < 8 ∧ (recAt r 7 1).testBit 2 = false ∧ recAt r 6 1 % 16 ≠ 0 ∧ 16 ≤ recAt r 8 4 ∧ recAt r 8 4 ≤ 65535 ∧
      bufferOk (recAt r 0x18 4) (recAt r 0x10 8) = true ∧ 1 ≤ recAt r 0xC 4 ∧ recAt r 0xC 4 ≤ recAt r 0x18 4 / 16) ∧
    (recAt (recSampler + 4 * 2 ^ 56) 7 1).testBit 2 = true ∧
    let r := recTrial
    recAt r 0 4 < 64 ∧ recAt r 4 2 < 320 ∧ 1 ≤ recAt r 6 1 ∧ recAt r 6 1 ≤ 64 ∧ recAt r 7 1 = 0 ∧ recAt r 8 8 < recAt r 16 8 ∧ 10 ≤ recAt r 24 4 ∧ recAt r 24 4 ≤ 1000000 := by decide +kernel
theorem witness_ImagesAndIdentity : (State.reset.kick 0).latched = none ∧ deviceRange 0x10000 (2 ^ 24) = true ∧ deviceRange 0x9000 1280 = true ∧ State.reset.fw.verified = none ∧
    (let s := { State.reset with fw := { State.reset.fw with verified := some (7, 2, 3) } }; s.fw.verified = some (7, 2, 3) ∧ ∀ c ∈ s.ctxs, c.2.st ≠ 1) ∧
    (let s := { Wc (fun c => { c with st := 2 }) with fw := { W.fw with verified := some (7, 2, 3) } }; (∀ c ∈ s.ctxs, c.2.st ≠ 1) ∧ s.fw.verified ≠ none) ∧
    (let s := { W with fw := { W.fw with verified := some (7, 2, 3) } }; s.fw.verified ≠ none ∧ ∃ c ∈ s.ctxs, c.2.st = 1) ∧
    (let s := Wq { State.reset with fw := { State.reset.fw with verified := some (7, 2, 3) } } (fun k => { k with latched := some 1 })
     tblSorted s.kicks = true ∧ (∀ x ∈ s.kicks, x.1 < 64) ∧ (s.kick 2).latched = some 1 ∧ 1 = ((s.kick 2).seq + 1) % 2 ^ 64) := by decide +kernel
theorem witness_DeviceQueries : (W.kick 2).latched = none := by decide +kernel
end Sys2Proof.Tests
end

section
/-! SUPPORT. The values of plain sources, the issue of an integer instruction whose operands are ready, and the sums, differences and
address arithmetic of R99, R100 and R103 as exact integers and bit vectors. -/

namespace Sys2Proof.Machine

open Sys2Proof.Claims

/-! ### Values of sources -/

theorem toNat_word_toLong (w : Word) : (w.setWidth 64).toNat = w.toNat := BitVec.toNat_setWidth_of_le (by decide)

theorem toNat_low_word (w : Word) : ((w.setWidth 64).setWidth 32).toNat = w.toNat := by
  rw [BitVec.setWidth_setWidth_of_le w (by decide), BitVec.setWidth_eq]

theorem State.srcVal_srcA_toNat (s : State) (l : Nat) (f : FmtA) (sel : BitVec 9) :
    (s.srcVal l (srcA f sel false)).toNat = (word s (srcA f sel false) l).toNat := by
  unfold word srcA
  split <;> exact (toNat_word_toLong _).trans (toNat_low_word _).symm

theorem State.srcVal_immA_toNat (s : State) (l : Nat) (g : FmtI) :
    (s.srcVal l (immA g false)).toNat = (word s (immA g false) l).toNat :=
  (toNat_word_toLong _).trans (toNat_low_word _).symm

/-- R94: the immediate of a 32-bit operation. -/
theorem State.srcVal_immValue_narrow (s : State) (l : Nat) (g : FmtI) (h : g.ty ≠ 2 ∧ g.ty ≠ 0xF) :
    s.srcVal l (immValue g) = g.imm.setWidth 64 := by
  obtain ⟨h2, hF⟩ := h
  have hn : (g.ty = 2 || g.ty = 0xF) = false := by simpa using ⟨h2, hF⟩
  simp only [State.srcVal, immValue, hn, Bool.false_eq_true, if_false]

/-- R94: the immediate of i64 and mov.b64. -/
theorem State.srcVal_immValue_wide (s : State) (l : Nat) (g : FmtI) (h : g.ty = 2 ∨ g.ty = 0xF) :
    s.srcVal l (immValue g) = g.imm.signExtend 64 := by
  obtain h | h := h <;> simp [State.srcVal, immValue, h]

theorem ne_wide_of_is32 {ty : BitVec 4} (h : is32 ty) : ty ≠ 2 ∧ ty ≠ 0xF := by
  obtain rfl | rfl := h <;> decide

theorem ne_wide_of_b32 {ty : BitVec 4} (h : ty = 0xE) : ty ≠ 2 ∧ ty ≠ 0xF := by
  subst h
  decide

/-! ### The issue of an integer instruction whose operands are ready -/

section Issue

variable {s : State} {h : Hdr} {i : Instr} {fm : Form} {ev : Eval} {v : Nat → Nat} {f : FmtA} {g : FmtI}

/-- An integer form whose operands are ready puts the value its operation computes in each lane under way. -/
theorem alu_computed (r : ReadyFor s h fm) (hf : fm.fpu = false) (hv : ∀ l, laneRes s fm ev l = resN (v l)) :
    .next (s.alu h i fm ev) = computed s h fm v := by
  rw [s.alu_value h i fm ev r hf (fun l => by rw [hv]; rfl), computed]
  simp only [hv, resN]

/-- The same of a form with one 32-bit register source. -/
theorem alu_one (r : ReadyFor s h fm) (hf : fm.fpu = false) (hs : fm.srcs = [srcA f f.a false])
    (hv : ∀ l, ev (flagFlushIn s.curLaunch.kr) (flagFlushOut s.curLaunch.kr) [(word s (srcA0 f) l).toNat] = resN (v l)) :
    .next (s.alu h i fm ev) = computed s h fm v := by
  refine alu_computed r hf fun l => ?_
  simpa [laneRes, hs, State.srcVal_srcA_toNat, srcA0] using hv l

/-- The same of a form with two 32-bit register sources. -/
theorem alu_two (r : ReadyFor s h fm) (hf : fm.fpu = false) (hs : fm.srcs = [srcA f f.a false, srcA f f.b false])
    (hv : ∀ l, ev (flagFlushIn s.curLaunch.kr) (flagFlushOut s.curLaunch.kr)
      [(word s (srcA0 f) l).toNat, (word s (srcB f) l).toNat] = resN (v l)) :
    .next (s.alu h i fm ev) = computed s h fm v := by
  refine alu_computed r hf fun l => ?_
  simpa [laneRes, hs, State.srcVal_srcA_toNat, srcA0, srcB] using hv l

/-- The same of a form with three 32-bit register sources. -/
theorem alu_three (r : ReadyFor s h fm) (hf : fm.fpu = false)
    (hs : fm.srcs = [srcA f f.a false, srcA f f.b false, srcA f f.c false])
    (hv : ∀ l, ev (flagFlushIn s.curLaunch.kr) (flagFlushOut s.curLaunch.kr)
      [(word s (srcA0 f) l).toNat, (word s (srcB f) l).toNat, (word s (srcC f) l).toNat] = resN (v l)) :
    .next (s.alu h i fm ev) = computed s h fm v := by
  refine alu_computed r hf fun l => ?_
  simpa [laneRes, hs, State.srcVal_srcA_toNat, srcA0, srcB, srcC] using hv l

/-- The same of a form with a 32-bit register source and a 32-bit immediate. -/
theorem alu_imm (r : ReadyFor s h fm) (hf : fm.fpu = false) (hs : fm.srcs = [immA g false, immValue g])
    (ht : g.ty ≠ 2 ∧ g.ty ≠ 0xF)
    (hv : ∀ l, ev (flagFlushIn s.curLaunch.kr) (flagFlushOut s.curLaunch.kr)
      [(word s (immA g false) l).toNat, g.imm.toNat] = resN (v l)) :
    .next (s.alu h i fm ev) = computed s h fm v := by
  refine alu_computed r hf fun l => ?_
  simp only [laneRes, hs, List.map, State.srcVal_immA_toNat, s.srcVal_immValue_narrow _ _ ht, toNat_word_toLong]
  exact hv l

end Issue

/-! ### Integers of the 32- and 64-bit types (Table 04-1, R75, R76) -/

theorem readInt_word {ty : BitVec 4} (h : is32 ty) (w : Word) : readInt ty.toNat w.toNat = int32 ty w := by
  have hw : (w.setWidth 64).setWidth 32 = w := BitVec.eq_of_toNat_eq (toNat_low_word w)
  rw [← toNat_word_toLong]
  obtain rfl | rfl := h
  · exact (readInt_i32 _).trans (congrArg BitVec.toInt hw)
  · exact (readInt_n32 _).trans (congrArg (fun w => (w.toNat : Int)) hw)

theorem readInt_long {ty : BitVec 4} (h : is64 ty) (x : Long) : readInt ty.toNat x.toNat = int64 ty x := by
  obtain rfl | rfl := h
  · exact readInt_i64 x
  · exact readInt_n64 x

theorem resI_word {ty : BitVec 4} (h : is32 ty) (sat : Bool) (x : Int) :
    resI ty.toNat sat x = resN (fit32 ty sat x).toNat := by
  obtain rfl | rfl := h
  · simp [resI, resN, fit32, clampInt, intSigned, intWidth, writeInt_i32]
  · simp [resI, resN, fit32, clampInt, intSigned, intWidth, writeInt_n32]

theorem resI_long {ty : BitVec 4} (h : is64 ty) (sat : Bool) (x : Int) :
    resI ty.toNat sat x = resN (fit64 ty sat x).toNat := by
  obtain rfl | rfl := h
  · simp [resI, resN, fit64, clampInt, intSigned, intWidth, writeInt_i64]
  · simp [resI, resN, fit64, clampInt, intSigned, intWidth, writeInt_n64]

theorem resI_wrap {ty : BitVec 4} (h : is32 ty) (x : Int) : resI ty.toNat false x = resN (BitVec.ofInt 32 x).toNat := by
  simpa [fit32] using resI_word h false x

/-! ### Sums, differences, minima and maxima (R99, R100, R103) -/

section Arithmetic

variable {ty : BitVec 4} (sat : Bool) (a b c : Word) (x y : Long)

theorem addI_word (h : is32 ty) : addI ty.toNat sat [a.toNat, b.toNat] = resN (fit32 ty sat (int32 ty a + int32 ty b)).toNat := by
  simp [addI, arg, readInt_word h, resI_word h]

theorem subI_word (h : is32 ty) : subI ty.toNat sat [a.toNat, b.toNat] = resN (fit32 ty sat (int32 ty a - int32 ty b)).toNat := by
  simp [subI, arg, readInt_word h, resI_word h]

theorem minI_word (h : is32 ty) :
    minmaxI false ty.toNat [a.toNat, b.toNat] = resN (BitVec.ofInt 32 (min (int32 ty a) (int32 ty b))).toNat := by
  simp [minmaxI, arg, readInt_word h, resI_wrap h, min_def]

theorem maxI_word (h : is32 ty) :
    minmaxI true ty.toNat [a.toNat, b.toNat] = resN (BitVec.ofInt 32 (max (int32 ty a) (int32 ty b))).toNat := by
  rw [max_comm]
  simp [minmaxI, arg, readInt_word h, resI_wrap h, max_def]

theorem absdiffI_word (h : is32 ty) :
    absdiffI ty.toNat [a.toNat, b.toNat] = resN (BitVec.ofInt 32 (int32 ty a - int32 ty b).natAbs).toNat := by
  simp [absdiffI, arg, readInt_word h, resI, resN, writeInt_n32]

theorem absI_word (h : is32 ty) : absI ty.toNat sat [a.toNat] = resN (fit32 ty sat (int32 ty a).natAbs).toNat := by
  simp [absI, arg, readInt_word h, resI_word h]

theorem negI_word (h : is32 ty) : negI ty.toNat sat [a.toNat] = resN (fit32 ty sat (-int32 ty a)).toNat := by
  simp [negI, arg, readInt_word h, resI_word h]

/-- R100: the sum with its carry above bit 31. -/
theorem addcI_word : addcI [a.toNat, b.toNat, c.toNat] = resN (a.toNat + b.toNat + c.toNat % 2) := by
  have ha := a.isLt
  have hb := b.isLt
  simp only [addcI, arg, List.getD_cons_zero, List.getD_cons_succ]
  congr 1
  split <;> omega

/-- R100: the difference, wrapped, with the borrow above bit 31. -/
theorem subcI_word : subcI [a.toNat, b.toNat, c.toNat] =
    resN (if b.toNat + c.toNat % 2 ≤ a.toNat then a.toNat - (b.toNat + c.toNat % 2)
      else 4294967296 + a.toNat - (b.toNat + c.toNat % 2) + 4294967296) := by
  have ha := a.isLt
  have hb := b.isLt
  simp only [subcI, arg, List.getD_cons_zero, List.getD_cons_succ]
  congr 1
  split <;> split <;> omega

theorem add64I_long (h : is64 ty) : add64I ty.toNat sat [x.toNat, y.toNat] = resN (fit64 ty sat (int64 ty x + int64 ty y)).toNat := by
  simp [add64I, arg, readInt_long h, resI_long h]

theorem sub64I_long (h : is64 ty) : sub64I ty.toNat sat [x.toNat, y.toNat] = resN (fit64 ty sat (int64 ty x - int64 ty y)).toNat := by
  simp [sub64I, arg, readInt_long h, resI_long h]

theorem leaI_long : leaI [x.toNat, b.toNat, c.toNat] = resN (x + b.setWidth 64 <<< (c.toNat % 64)).toNat := by
  simp [leaI, arg, Nat.shiftLeft_eq, Nat.mod_eq_of_lt b.isLt]

theorem leaDispI_long : leaDispI [x.toNat, y.toNat] = resN (x + y).toNat := by
  simp [leaDispI, arg]

end Arithmetic

end Sys2Proof.Machine

namespace Sys2Proof.Proofs.Integer

open Sys2Proof.Machine Sys2Proof.Claims

/-- R99: add and sub, of two registers or of a register and an immediate (R94). -/
theorem addAndSubtract : Claims.AddAndSubtract := by
  intro s h f g hf hg
  refine ⟨fun r => ⟨?_, ?_⟩, fun r => ⟨?_, ?_⟩⟩
  · exact alu_two r rfl rfl fun _ => addI_word _ _ _ hf
  · exact alu_two r rfl rfl fun _ => subI_word _ _ _ hf
  · exact alu_imm r rfl rfl (ne_wide_of_is32 hg) fun _ => addI_word _ _ _ hg
  · exact alu_imm r rfl rfl (ne_wide_of_is32 hg) fun _ => subI_word _ _ _ hg

/-- R100: the carry or borrow stands in the high word of the pair. -/
theorem carryChain : Claims.CarryChain := by
  intro s h f r
  refine ⟨?_, ?_⟩
  · exact alu_three r rfl rfl fun _ => addcI_word _ _ _
  · exact alu_three r rfl rfl fun _ => subcI_word _ _ _

/-- R99: the operations that compare or change the sign. -/
theorem minMaxAbsNeg : Claims.MinMaxAbsNeg := by
  intro s h f g hf hg
  refine ⟨fun r => ⟨?_, ?_⟩, fun r => ?_, fun r => ⟨?_, ?_⟩, fun r => ⟨?_, ?_⟩⟩
  · exact alu_two r rfl rfl fun _ => minI_word _ _ hf
  · exact alu_two r rfl rfl fun _ => maxI_word _ _ hf
  · exact alu_two r rfl rfl fun _ => absdiffI_word _ _ hf
  · exact alu_one r rfl rfl fun _ => absI_word _ _ hf
  · exact alu_one r rfl rfl fun _ => negI_word _ _ hf
  · exact alu_imm r rfl rfl (ne_wide_of_is32 hg) fun _ => minI_word _ _ hg
  · exact alu_imm r rfl rfl (ne_wide_of_is32 hg) fun _ => maxI_word _ _ hg

/-- R103: the first source of a lea is a pair, its index and its count are words. -/
theorem pairArithmetic : Claims.PairArithmetic := by
  intro s h f g
  refine ⟨fun r => ?_, fun r => ?_, fun hf r => ⟨?_, ?_⟩⟩
  · refine alu_computed r rfl fun l => ?_
    simp only [laneRes, FmtA.leaForm, List.map, State.srcVal_srcA_toNat]
    exact leaI_long _ _ _
  · exact alu_computed r rfl fun _ => leaDispI_long _ _
  · exact alu_computed r rfl fun _ => add64I_long _ _ _ hf
  · exact alu_computed r rfl fun _ => sub64I_long _ _ _ hf

/-- Settles O3: each operation, on plain values, is the exact integer or bit-vector expression of its rule. -/
theorem integerArithmetic : Obligations.IntegerArithmetic := ⟨addAndSubtract, carryChain, minMaxAbsNeg, pairArithmetic⟩

end Sys2Proof.Proofs.Integer
end

section
/-! SUPPORT. The products of R101 and R102 as exact integers. -/

namespace Sys2Proof.Machine

open Sys2Proof.Claims

/-! ### Products (R101, R102) -/

/-- R101, R102: a result that fills a pair. -/
theorem resI_pair (x : Int) : resI 3 false x = resN (BitVec.ofInt 64 x).toNat := by
  simp [resI, resN, writeInt_n64]

/-- R102: part k, of n bits, of a word, in the signedness of the type. -/
def partOf (ty : BitVec 4) (n : Nat) (x : Word) (k : Nat) : Int :=
  if ty = 0 then (BitVec.extractLsb' (n * k) n x).toInt else (BitVec.extractLsb' (n * k) n x).toNat

/-- The model's signed reading of n bits is that of the bit vector they form. -/
theorem sext_eq_toInt {n : Nat} (hn : 0 < n) (x : Nat) : sext x n = (BitVec.ofNat n x).toInt := by
  have hp : 2 ^ n = 2 * 2 ^ (n - 1) := by rw [← pow_succ', Nat.sub_add_cancel hn]
  have hx := Nat.mod_lt x (Nat.two_pow_pos n)
  have hq : 0 < 2 ^ (n - 1) := Nat.two_pow_pos _
  simp only [sext, BitVec.toInt_eq_toNat_cond, BitVec.toNat_ofNat, beq_iff_eq]
  rw [hp] at hx ⊢
  generalize 2 ^ (n - 1) = q at *
  have hd : x % (2 * q) / q = 1 ↔ q ≤ x % (2 * q) := by
    rw [Nat.div_eq_iff hq]
    omega
  simp only [hd]
  split <;> split <;> omega

theorem part_eq_partOf {ty : BitVec 4} (h : is32 ty) {n : Nat} (hn : 0 < n) (x : Word) (k : Nat) :
    (if ty.toNat = 0 then sext (x.toNat / 2 ^ (n * k)) n else ((x.toNat / 2 ^ (n * k) % 2 ^ n : Nat) : Int)) = partOf ty n x k := by
  obtain rfl | rfl := h
  · simp [partOf, sext_eq_toInt hn, BitVec.extractLsb', Nat.shiftRight_eq_div_pow]
  · simp [partOf, BitVec.extractLsb', Nat.shiftRight_eq_div_pow]

section Product

variable {ty : BitVec 4} (sat : Bool) (a b c : Word) (x : Long)

theorem mulLoI_word (h : is32 ty) : mulLoI ty.toNat [a.toNat, b.toNat] = resN (BitVec.ofInt 32 (int32 ty a * int32 ty b)).toNat := by
  simp [mulLoI, arg, readInt_word h, resI_wrap h]

theorem mulHiI_word (h : is32 ty) :
    mulHiI ty.toNat [a.toNat, b.toNat] = resN (BitVec.ofInt 32 (int32 ty a * int32 ty b / 4294967296)).toNat := by
  simp [mulHiI, arg, readInt_word h, resI_wrap h]

theorem mulWideI_word (h : is32 ty) : mulWideI ty.toNat [a.toNat, b.toNat] = resN (BitVec.ofInt 64 (int32 ty a * int32 ty b)).toNat := by
  simp [mulWideI, arg, readInt_word h, resI_pair]

theorem madI_word (h : is32 ty) :
    madI ty.toNat sat [a.toNat, b.toNat, c.toNat] = resN (fit32 ty sat (int32 ty a * int32 ty b + int32 ty c)).toNat := by
  simp [madI, arg, readInt_word h, resI_word h]

theorem madWideI_word (h : is32 ty) :
    madWideI ty.toNat [a.toNat, b.toNat, x.toNat] = resN (BitVec.ofInt 64 (int32 ty a * int32 ty b + x.toNat)).toNat := by
  simp [madWideI, arg, readInt_word h, resI_pair]

theorem sadI_word (h : is32 ty) : sadI ty.toNat [a.toNat, b.toNat, c.toNat] =
    resN (BitVec.ofInt 32 ((int32 ty a - int32 ty b).natAbs + c.toNat)).toNat := by
  rw [← Nat.cast_add, BitVec.ofInt_natCast, BitVec.toNat_ofNat]
  simp [sadI, arg, readInt_word h]

theorem dp4_word (h : is32 ty) : dotI 8 ty.toNat [a.toNat, b.toNat, c.toNat] =
    resN (BitVec.ofInt 32 (int32 ty c + partOf ty 8 a 0 * partOf ty 8 b 0 + partOf ty 8 a 1 * partOf ty 8 b 1 +
      partOf ty 8 a 2 * partOf ty 8 b 2 + partOf ty 8 a 3 * partOf ty 8 b 3)).toNat := by
  simp only [dotI, arg, List.getD_cons_zero, List.getD_cons_succ, part_eq_partOf h (show 0 < 8 by decide), readInt_word h, resI_wrap h]
  rfl

theorem dp2_word (h : is32 ty) : dotI 16 ty.toNat [a.toNat, b.toNat, c.toNat] =
    resN (BitVec.ofInt 32 (int32 ty c + partOf ty 16 a 0 * partOf ty 16 b 0 + partOf ty 16 a 1 * partOf ty 16 b 1)).toNat := by
  simp only [dotI, arg, List.getD_cons_zero, List.getD_cons_succ, part_eq_partOf h (show 0 < 16 by decide), readInt_word h, resI_wrap h]
  rfl

end Product

end Sys2Proof.Machine

namespace Sys2Proof.Proofs.Integer

open Sys2Proof.Machine Sys2Proof.Claims

/-- R101: the three parts of a product, of registers and with an immediate. -/
theorem multiply : Claims.Multiply := by
  intro s h f g hf hg
  refine ⟨fun r => ?_, fun r => ?_, fun r => ?_, fun r => ?_, fun r => ?_, fun r => ?_⟩
  · exact alu_two r rfl rfl fun _ => mulLoI_word _ _ hf
  · exact alu_two r rfl rfl fun _ => mulHiI_word _ _ hf
  · exact alu_two r rfl rfl fun _ => mulWideI_word _ _ hf
  · exact alu_imm r rfl rfl (ne_wide_of_is32 hg) fun _ => mulLoI_word _ _ hg
  · exact alu_imm r rfl rfl (ne_wide_of_is32 hg) fun _ => mulHiI_word _ _ hg
  · exact alu_imm r rfl rfl (ne_wide_of_is32 hg) fun _ => mulWideI_word _ _ hg

/-- R102: the third source is a word, and for mad.wide a pair. -/
theorem multiplyAdd : Claims.MultiplyAdd := by
  intro s h f hf
  refine ⟨fun r => ⟨?_, ?_, ?_, ?_⟩, fun r => ?_⟩
  · exact alu_three r rfl rfl fun _ => madI_word _ _ _ _ hf
  · exact alu_three r rfl rfl fun _ => sadI_word _ _ _ hf
  · exact alu_three r rfl rfl fun _ => dp4_word _ _ _ hf
  · exact alu_three r rfl rfl fun _ => dp2_word _ _ _ hf
  · refine alu_computed r rfl fun l => ?_
    simp only [laneRes, FmtA.madWideForm, List.map, State.srcVal_srcA_toNat]
    exact madWideI_word _ _ _ hf

/-- Settles O4: the products and sums are exact before the low or high half, the wrap or the clamp is taken. -/
theorem multiplication : Obligations.Multiplication := ⟨multiply, multiplyAdd⟩

end Sys2Proof.Proofs.Integer
end

section
/-! SUPPORT. The bitwise operations, shifts, bit fields, counts and permutation of R104-R109 as bit vectors, or bit by bit. -/

namespace Sys2Proof.Machine

open Sys2Proof.Claims

/-! ### Bits of numbers -/

theorem bit_eq_testBit (x k : Nat) : bit x k = x.testBit k := by
  rw [Nat.testBit_eq_decide_div_mod_eq, bit]
  rfl

theorem bit_toNat {n : Nat} (x : BitVec n) (k : Nat) : bit x.toNat k = x.getLsbD k := bit_eq_testBit _ _

theorem bits_self (x k : Nat) : bits x k k = (x.testBit k).toNat := by
  rw [Nat.toNat_testBit, bits, Nat.add_sub_cancel_left, pow_one]

theorem toNat_mul_two_pow (b : Bool) (k : Nat) : b.toNat * 2 ^ k = bitNat b k := by
  cases b <;> simp [bitNat]

/-- The sum of the bits g below n, each at its own place. -/
def sumBits (n : Nat) (g : Nat → Bool) : Nat := (List.range n).foldl (fun r k => r + bitNat (g k) k) 0

theorem sumBits_succ (n : Nat) (g : Nat → Bool) : sumBits (n + 1) g = 2 ^ n * (g n).toNat + sumBits n g := by
  simp [sumBits, List.range_succ, ← toNat_mul_two_pow, Nat.add_comm, Nat.mul_comm]

theorem sumBits_lt (n : Nat) (g : Nat → Bool) : sumBits n g < 2 ^ n := by
  induction n with
  | zero => simp [sumBits]
  | succ n ih =>
    have := Nat.mul_le_mul_left (2 ^ n) (Bool.toNat_le (g n))
    rw [sumBits_succ, pow_succ]
    omega

theorem testBit_sumBits (n : Nat) (g : Nat → Bool) (j : Nat) : (sumBits n g).testBit j = (decide (j < n) && g j) := by
  induction n with
  | zero => simp [sumBits]
  | succ n ih =>
    rw [sumBits_succ, Nat.testBit_two_pow_mul_add _ (sumBits_lt n g), ih]
    rcases lt_trichotomy j n with hj | rfl | hj
    · simp [hj, Nat.lt_succ_of_lt hj]
    · cases g j <;> simp
    · obtain ⟨m, rfl⟩ := Nat.exists_eq_add_of_lt hj
      have hm : n + m + 1 - n = m + 1 := by omega
      simp [hm, hj.not_gt, Nat.testBit_succ, Nat.div_eq_of_lt (Bool.toNat_lt (g n))]

/-- A sum of bits, each at its own place, is the bit vector of those bits. -/
theorem sumBits_eq_toNat (n : Nat) (g : Nat → Bool) : sumBits n g = (BitVec.ofFnLE (fun i : Fin n => g i)).toNat := by
  refine Nat.eq_of_testBit_eq fun j => ?_
  rw [testBit_sumBits, BitVec.testBit_toNat, BitVec.getLsbD_ofFnLE]
  by_cases hj : j < n <;> simp [hj]

theorem toNat_append_eq_add {m n : Nat} (x : BitVec m) (y : BitVec n) : (x ++ y).toNat = x.toNat * 2 ^ n + y.toNat := by
  rw [BitVec.toNat_append, ← Nat.shiftLeft_add_eq_or_of_lt y.isLt, Nat.shiftLeft_eq]

/-! ### Bitwise logic (R104, R105) -/

section Logic

variable (a b c : Word)

theorem andI_word : andI [a.toNat, b.toNat] = resN (a &&& b).toNat := by
  simp [andI, arg]

theorem orI_word : orI [a.toNat, b.toNat] = resN (a ||| b).toNat := by
  simp [orI, arg]

theorem xorI_word : xorI [a.toNat, b.toNat] = resN (a ^^^ b).toNat := by
  simp [xorI, arg]

theorem notI_word : notI [a.toNat] = resN (~~~ a).toNat := by
  rw [BitVec.toNat_not, notI, arg, List.getD_cons_zero, Nat.mod_eq_of_lt a.isLt]

theorem selI_word : selI [a.toNat, b.toNat, c.toNat] = resN (if c = 0 then b else a).toNat := by
  have hc : c.toNat % 2 ^ 32 = 0 ↔ c = 0 := by
    rw [Nat.mod_eq_of_lt c.isLt, BitVec.toNat_eq]
    rfl
  simp only [selI, arg, List.getD_cons_zero, List.getD_cons_succ, ne_eq, hc]
  by_cases h : c = 0
  · simp only [h, not_true_eq_false, if_false, if_true]
  · simp only [h, not_false_eq_true, if_false, if_true]

/-- R70: the truth table, over the type, rounding and sat fields. -/
theorem table_toNat (f : FmtA) : f.ty.toNat * 16 + f.rnd.toNat * 2 + f.sat.toNat = (f.ty ++ f.rnd ++ f.sat).toNat := by
  rw [toNat_append_eq_add, toNat_append_eq_add]
  omega

theorem lop3I_word (t : BitVec 8) : ∃ v : Word, lop3I t.toNat [a.toNat, b.toNat, c.toNat] = resN v.toNat ∧ ∀ k, k < 32 →
    v.getLsbD k = t.getLsbD ((a.getLsbD k).toNat + 2 * (b.getLsbD k).toNat + 4 * (c.getLsbD k).toNat) := by
  refine ⟨BitVec.ofFnLE fun k : Fin 32 => t.getLsbD ((a.getLsbD k).toNat + 2 * (b.getLsbD k).toNat + 4 * (c.getLsbD k).toNat), ?_,
    fun k hk => by simp [hk]⟩
  rw [← sumBits_eq_toNat 32 fun k => t.getLsbD ((a.getLsbD k).toNat + 2 * (b.getLsbD k).toNat + 4 * (c.getLsbD k).toNat)]
  simp only [lop3I, arg, List.getD_cons_zero, List.getD_cons_succ, bits_self, BitVec.testBit_toNat, ← Nat.toNat_testBit,
    toNat_mul_two_pow, sumBits]

end Logic

/-! ### Shifts and rotates (R106) -/

section Shift

variable (a b c : Word)

theorem shlI_word : shlI [a.toNat, b.toNat] = resN (a <<< b.toNat).toNat := by
  simp only [shlI, arg, List.getD_cons_zero, List.getD_cons_succ, Nat.mod_eq_of_lt b.isLt]
  by_cases h : b.toNat ≥ 32
  · rw [if_pos h, BitVec.shiftLeft_eq_zero h]
    rfl
  · rw [if_neg h, BitVec.toNat_shiftLeft, Nat.shiftLeft_eq]

theorem shrI_word : shrI [a.toNat, b.toNat] = resN (a >>> b.toNat).toNat := by
  simp only [shrI, arg, List.getD_cons_zero, List.getD_cons_succ, Nat.mod_eq_of_lt b.isLt, Nat.mod_eq_of_lt a.isLt]
  by_cases h : b.toNat ≥ 32
  · rw [if_pos h, BitVec.ushiftRight_eq_zero h]
    rfl
  · rw [if_neg h, BitVec.toNat_ushiftRight, Nat.shiftRight_eq_div_pow]

/-- An arithmetic shift of a word by 32 or more leaves what a shift by 32 leaves: its sign. -/
theorem toInt_shiftRight_min (n : Nat) : a.toInt / (2 ^ min n 32 : Nat) = a.toInt >>> n := by
  rw [Int.shiftRight_eq_div_pow]
  obtain h | h := le_total n 32
  · rw [min_eq_left h]
  · have hp : (2 ^ 32 : Nat) ≤ 2 ^ n := Nat.pow_le_pow_right (by decide) h
    have hlt := a.toInt_lt
    have hle := a.le_toInt
    rw [min_eq_right h]
    generalize 2 ^ n = q at *
    obtain hs | hs := le_or_gt 0 a.toInt
    · rw [Int.ediv_eq_zero_of_lt hs (by omega), Int.ediv_eq_zero_of_lt hs (by omega)]
    · rw [Int.ediv_eq_neg_one_of_neg_of_le hs (by omega), Int.ediv_eq_neg_one_of_neg_of_le hs (by omega)]

theorem sarI_word : sarI [a.toNat, b.toNat] = resN (a.sshiftRight b.toNat).toNat := by
  have hs : sext a.toNat 32 = a.toInt := by rw [sext_eq_toInt (by decide), BitVec.ofNat_toNat, BitVec.setWidth_eq]
  simp only [sarI, arg, List.getD_cons_zero, List.getD_cons_succ, Nat.mod_eq_of_lt b.isLt, hs, toInt_shiftRight_min]
  exact resI_wrap (Or.inl rfl) _

theorem rotI_word : rotI [a.toNat, b.toNat] = resN (a.rotateLeft (b.toNat % 32)).toNat := by
  have hn : b.toNat % 32 < 32 := Nat.mod_lt _ (by decide)
  simp only [rotI, arg, List.getD_cons_zero, List.getD_cons_succ, Nat.mod_eq_of_lt a.isLt, BitVec.toNat_rotateLeft, Nat.mod_eq_of_lt hn]
  generalize b.toNat % 32 = n at *
  congr 1
  have hlow : a.toNat >>> (32 - n) < 2 ^ n := by
    rw [Nat.shiftRight_eq_div_pow, Nat.div_lt_iff_lt_mul (Nat.two_pow_pos _), ← pow_add, Nat.add_sub_cancel' hn.le]
    exact a.isLt
  have hhigh : a.toNat <<< n % 2 ^ 32 = (a.toNat % 2 ^ (32 - n)) <<< n := by
    rw [Nat.shiftLeft_eq, Nat.shiftLeft_eq, ← Nat.mul_mod_mul_right, ← pow_add, Nat.sub_add_cancel hn.le]
  have hsum := Nat.shiftLeft_add_eq_or_of_lt hlow (a.toNat % 2 ^ (32 - n))
  have hlt : a.toNat <<< n % 2 ^ 32 + a.toNat >>> (32 - n) < 2 ^ 32 := by
    rw [hhigh, hsum]
    refine Nat.or_lt_two_pow ?_ (hlow.trans_le (Nat.pow_le_pow_right (by decide) hn.le))
    rw [← hhigh]
    exact Nat.mod_lt _ (by decide)
  rw [← Nat.shiftLeft_eq, ← Nat.shiftRight_eq_div_pow, hhigh, ← hsum, ← hhigh, ← Nat.mod_add_mod, Nat.mod_eq_of_lt hlt]

theorem shfLI_word : shfLI [a.toNat, b.toNat, c.toNat] =
    resN (BitVec.extractLsb' 32 32 ((b ++ a) <<< (min c.toNat 32))).toNat := by
  simp only [shfLI, arg, List.getD_cons_zero, List.getD_cons_succ, Nat.mod_eq_of_lt a.isLt, Nat.mod_eq_of_lt b.isLt,
    Nat.mod_eq_of_lt c.isLt, ← toNat_append_eq_add, BitVec.extractLsb'_toNat, BitVec.toNat_shiftLeft, Nat.shiftLeft_eq,
    Nat.shiftRight_eq_div_pow]
  congr 1
  omega

theorem shfRI_word : shfRI [a.toNat, b.toNat, c.toNat] =
    resN (BitVec.extractLsb' 0 32 ((b ++ a) >>> (min c.toNat 32))).toNat := by
  simp only [shfRI, arg, List.getD_cons_zero, List.getD_cons_succ, Nat.mod_eq_of_lt a.isLt, Nat.mod_eq_of_lt b.isLt,
    Nat.mod_eq_of_lt c.isLt, ← toNat_append_eq_add, BitVec.extractLsb'_toNat, BitVec.toNat_ushiftRight,
    Nat.shiftRight_eq_div_pow, pow_zero, Nat.div_one]

end Shift

/-! ### Bit fields and byte permutation (R107, R109) -/

section Field

variable (a b c : Word)

theorem fieldPos_word : fieldPos c.toNat = c.toNat % 256 := by
  simp [fieldPos, bits]

theorem fieldLen_word : fieldLen c.toNat = min (c.toNat / 256 % 256) 32 := by
  simp [fieldLen, bits]

theorem bfeI_word (signed : Bool) : ∃ v : Word, bfeI signed [a.toNat, b.toNat] = resN v.toNat ∧ ∀ k, k < 32 →
    let p := b.toNat % 256
    let len := min (b.toNat / 256 % 256) 32
    let bitAt (i : Nat) : Bool := if i < 32 then a.getLsbD i else signed && a.getLsbD 31
    v.getLsbD k = if k < len then bitAt (p + k) else len != 0 && signed && bitAt (p + len - 1) := by
  refine ⟨_, congrArg resN (sumBits_eq_toNat 32 _), fun k hk => ?_⟩
  simp only [BitVec.getLsbD_ofFnLE, hk, dif_pos, arg, List.getD_cons_zero, List.getD_cons_succ, Nat.mod_eq_of_lt a.isLt, bit_toNat,
    fieldPos_word, fieldLen_word, Nat.lt_succ_iff]
  generalize min (b.toNat / 256 % 256) 32 = len
  obtain rfl | hlen := Nat.eq_zero_or_pos len
  · simp
  · simp [← Nat.add_sub_assoc hlen, hlen.ne', bne_iff_ne.2 hlen.ne']

theorem bfiI_word : ∃ v : Word, bfiI [a.toNat, b.toNat, c.toNat] = resN v.toNat ∧ ∀ k, k < 32 →
    let p := c.toNat % 256
    let len := min (c.toNat / 256 % 256) 32
    v.getLsbD k = if p ≤ k ∧ k < p + len then a.getLsbD (k - p) else b.getLsbD k := by
  refine ⟨_, congrArg resN (sumBits_eq_toNat 32 _), fun k hk => ?_⟩
  simp only [BitVec.getLsbD_ofFnLE, hk, dif_pos, arg, List.getD_cons_zero, List.getD_cons_succ, bit_toNat, fieldPos_word, fieldLen_word,
    Bool.and_eq_true, decide_eq_true_eq]

/-- Four bytes in a word: byte j of the word is the j-th of them. -/
theorem byte_of_bytes (o : Nat → BitVec 8) (j : Nat) (hj : j < 4) :
    BitVec.extractLsb' (8 * j) 8 (o 3 ++ o 2 ++ o 1 ++ o 0 : Word) = o j := by
  refine BitVec.eq_of_toNat_eq ?_
  rw [BitVec.extractLsb'_toNat, Nat.shiftRight_eq_div_pow]
  simp only [toNat_append_eq_add]
  interval_cases j <;> omega

/-- R109: byte j of the result. -/
def prmtByte (j : Nat) : BitVec 8 :=
  let byte : BitVec 8 := BitVec.extractLsb' (8 * (c.toNat / 2 ^ (3 * j) % 8)) 8 (b ++ a)
  if c.getLsbD (16 + j) then 0 else if c.getLsbD (12 + j) then (if byte.msb then 255 else 0) else byte

/-- R109: byte j of the result as the model computes it from the control word and the eight source bytes. -/
def outByte (c all j : Nat) : Nat :=
  let y := all / 2 ^ (8 * bits c (3 * j + 2) (3 * j)) % 256
  if bit c (16 + j) then 0 else if bit c (12 + j) then (if y ≥ 128 then 255 else 0) else y

theorem prmtI_eq_outByte (x y z : Nat) :
    let all := y % 2 ^ 32 * 2 ^ 32 + x % 2 ^ 32
    prmtI [x, y, z] = resN (outByte z all 0 + outByte z all 1 * 2 ^ 8 + outByte z all 2 * 2 ^ 16 + outByte z all 3 * 2 ^ 24) := rfl

theorem outByte_eq_prmtByte (j : Nat) : outByte c.toNat (b ++ a).toNat j = (prmtByte a b c j).toNat := by
  have hb : bits c.toNat (3 * j + 2) (3 * j) = c.toNat / 2 ^ (3 * j) % 8 := by
    rw [bits, show 3 * j + 2 + 1 - 3 * j = 3 by omega]
    rfl
  simp only [outByte, prmtByte, bit_toNat, hb]
  generalize hy : BitVec.extractLsb' (8 * (c.toNat / 2 ^ (3 * j) % 8)) 8 (b ++ a) = byte
  have hn : (b ++ a).toNat / 2 ^ (8 * (c.toNat / 2 ^ (3 * j) % 8)) % 256 = byte.toNat := by
    rw [← hy, BitVec.extractLsb'_toNat, Nat.shiftRight_eq_div_pow]
  rw [hn, BitVec.msb_eq_decide]
  split
  · rfl
  · split
    · by_cases h : 128 ≤ byte.toNat <;> simp [h]
    · rfl

theorem prmtI_word : ∃ v : Word, prmtI [a.toNat, b.toNat, c.toNat] = resN v.toNat ∧
    ∀ j, j < 4 → BitVec.extractLsb' (8 * j) 8 v = prmtByte a b c j := by
  refine ⟨_, ?_, byte_of_bytes (prmtByte a b c)⟩
  simp only [prmtI_eq_outByte, Nat.mod_eq_of_lt a.isLt, Nat.mod_eq_of_lt b.isLt, ← toNat_append_eq_add, outByte_eq_prmtByte]
  simp only [toNat_append_eq_add]
  congr 1
  omega

end Field

/-! ### Bit reversal and counts (R108) -/

section Count

variable (wide : Bool) (y : Long)

theorem bitW_le : bitW wide ≤ 64 := by
  cases wide <;> decide

theorem brevI_long : ∃ v : Long, brevI wide [y.toNat] = resN v.toNat ∧
    ∀ k, v.getLsbD k = (decide (k < bitW wide) && y.getLsbD (bitW wide - 1 - k)) := by
  have hlt := (sumBits_lt (bitW wide) (fun k => y.getLsbD (bitW wide - 1 - k))).trans_le (Nat.pow_le_pow_right (by decide) (bitW_le wide))
  refine ⟨BitVec.ofNat 64 (sumBits (bitW wide) fun k => y.getLsbD (bitW wide - 1 - k)), ?_, fun k => ?_⟩
  · rw [BitVec.toNat_ofNat, Nat.mod_eq_of_lt hlt]
    simp only [brevI, arg, List.getD_cons_zero, bit_toNat, sumBits]
  · rw [← BitVec.testBit_toNat, BitVec.toNat_ofNat, Nat.mod_eq_of_lt hlt, testBit_sumBits]

theorem countOnes_toNat (n : Nat) : countOnes n y.toNat = ((List.range n).filter (fun k => y.getLsbD k)).length := by
  induction n with
  | zero => rfl
  | succ n ih =>
    rw [countOnes] at ih
    rw [countOnes, List.range_succ, List.foldl_append, ih, List.filter_append, List.length_append, List.foldl_cons, List.foldl_nil,
      ← Nat.toNat_testBit, BitVec.testBit_toNat]
    cases hb : y.getLsbD n <;> simp [hb]

theorem lt_two_pow_bitLen (m : Nat) : m < 2 ^ bitLen m := by
  unfold bitLen
  split
  · simp [*]
  · exact Nat.lt_log2_self

theorem testBit_bitLen_pred {m : Nat} (h : 0 < bitLen m) : m.testBit (bitLen m - 1) = true := by
  unfold bitLen at *
  split at h
  · contradiction
  · rw [if_neg ‹_›]
    exact Nat.testBit_log2 ‹_›

theorem bitLen_le {m n : Nat} (h : m < 2 ^ n) : bitLen m ≤ n := by
  unfold bitLen
  split
  · exact Nat.zero_le n
  · exact (Nat.log2_lt ‹_›).2 h

/-- R108: the zero bits above the highest set bit of the low n bits. -/
theorem leadingZeros_spec (n : Nat) :
    let w := n - bitLen (y.toNat % 2 ^ n)
    w ≤ n ∧ (∀ k, k < w → y.getLsbD (n - 1 - k) = false) ∧ (w < n → y.getLsbD (n - 1 - w) = true) := by
  have hle := bitLen_le (Nat.mod_lt y.toNat (Nat.two_pow_pos n))
  have hbit (k : Nat) (hk : k < n) : y.getLsbD k = (y.toNat % 2 ^ n).testBit k := by simp [Nat.testBit_mod_two_pow, hk, BitVec.testBit_toNat]
  refine ⟨Nat.sub_le _ _, fun k hk => ?_, fun hw => ?_⟩
  · rw [hbit _ (by omega)]
    exact Nat.testBit_lt_two_pow ((lt_two_pow_bitLen _).trans_le (Nat.pow_le_pow_right (by decide) (by omega)))
  · have hi : n - 1 - (n - bitLen (y.toNat % 2 ^ n)) = bitLen (y.toNat % 2 ^ n) - 1 := by omega
    rw [hbit _ (by omega), hi]
    exact testBit_bitLen_pred (by omega)

/-- R108: the zero bits below the lowest set bit of the low n bits. -/
theorem trailingZeros_spec (n : Nat) :
    let z := ((List.range n).find? (fun k => bit y.toNat k)).getD n
    z ≤ n ∧ (∀ k, k < z → y.getLsbD k = false) ∧ (z < n → y.getLsbD z = true) := by
  simp only [bit_toNat]
  cases hf : (List.range n).find? (fun k => y.getLsbD k) with
  | none =>
    have hnone := List.find?_range_eq_none.1 hf
    exact ⟨le_rfl, fun k hk => by simpa using hnone k hk, fun h => absurd h (lt_irrefl _)⟩
  | some z =>
    obtain ⟨hz, hmem, hbelow⟩ := List.find?_range_eq_some.1 hf
    exact ⟨(List.mem_range.1 hmem).le, fun k hk => by simpa using hbelow k hk, fun _ => hz⟩

end Count

end Sys2Proof.Machine

namespace Sys2Proof.Proofs.Integer

open Sys2Proof.Machine Sys2Proof.Claims

/-- R104, R105: with an immediate these operations are of type b32 only. -/
theorem bitwiseLogic : Claims.BitwiseLogic := by
  intro s h f g
  refine ⟨fun r => ⟨?_, ?_, ?_⟩, fun r => ?_, fun r => ?_, fun r => ?_, fun r => ?_, fun ht r => ?_, fun ht r => ⟨?_, ?_, ?_⟩⟩
  · exact alu_two r rfl rfl fun _ => andI_word _ _
  · exact alu_two r rfl rfl fun _ => orI_word _ _
  · exact alu_two r rfl rfl fun _ => xorI_word _ _
  · exact alu_one r rfl rfl fun _ => notI_word _
  · exact alu_three r rfl rfl fun _ => selI_word _ _ _
  · choose v hv using fun l => lop3I_word (word s (srcA0 f) l) (word s (srcB f) l) (word s (srcC f) l) (f.ty ++ f.rnd ++ f.sat)
    refine ⟨v, alu_three r rfl rfl fun l => ?_, fun l => (hv l).2⟩
    rw [evalLop3, table_toNat, (hv l).1]
  · exact alu_computed r rfl fun _ => rfl
  · refine alu_computed r rfl fun l => ?_
    obtain ht | ht := ht
    · have hn := ne_wide_of_b32 ht
      simp only [laneRes, FmtI.movImmForm, List.map, s.srcVal_immValue_narrow l g hn, toNat_word_toLong, if_neg hn.2]
      rfl
    · simp only [laneRes, FmtI.movImmForm, List.map, s.srcVal_immValue_wide l g (Or.inr ht), if_pos ht]
      rfl
  · exact alu_imm r rfl rfl (ne_wide_of_b32 ht) fun _ => andI_word _ _
  · exact alu_imm r rfl rfl (ne_wide_of_b32 ht) fun _ => orI_word _ _
  · exact alu_imm r rfl rfl (ne_wide_of_b32 ht) fun _ => xorI_word _ _

/-- R106: an immediate count is read like a register count. -/
theorem shifts : Claims.Shifts := by
  intro s h f g
  refine ⟨fun r => ⟨?_, ?_⟩, fun r => ⟨?_, ?_⟩, fun r => ⟨?_, ?_⟩, fun ht r => ⟨?_, ?_⟩, fun ht r => ⟨?_, ?_⟩⟩
  · exact alu_two r rfl rfl fun _ => shlI_word _ _
  · exact alu_two r rfl rfl fun _ => shrI_word _ _
  · exact alu_two r rfl rfl fun _ => sarI_word _ _
  · exact alu_two r rfl rfl fun _ => rotI_word _ _
  · exact alu_three r rfl rfl fun _ => shfLI_word _ _ _
  · exact alu_three r rfl rfl fun _ => shfRI_word _ _ _
  · exact alu_imm r rfl rfl (ne_wide_of_b32 ht) fun _ => shlI_word _ _
  · exact alu_imm r rfl rfl (ne_wide_of_b32 ht) fun _ => shrI_word _ _
  · exact alu_imm r rfl rfl (ne_wide_of_b32 ht) fun _ => sarI_word _ _
  · exact alu_imm r rfl rfl (ne_wide_of_b32 ht) fun _ => rotI_word _ _

/-- R107-R109: the results of bfe, bfi, prmt and brev are given by their bits, those of the counts by what they count. -/
theorem bitFields : Claims.BitFields := by
  intro s h f
  refine ⟨fun r => ?_, fun r => ?_, fun r => ?_, fun r => ?_, fun r => ?_⟩
  · choose v hv using fun l => bfeI_word (word s (srcA0 f) l) (word s (srcB f) l) (f.ty == 0)
    exact ⟨v, alu_two r rfl rfl fun l => (hv l).1, fun l => (hv l).2⟩
  · choose v hv using fun l => bfiI_word (word s (srcA0 f) l) (word s (srcB f) l) (word s (srcC f) l)
    exact ⟨v, alu_three r rfl rfl fun l => (hv l).1, fun l => (hv l).2⟩
  · choose v hv using fun l => prmtI_word (word s (srcA0 f) l) (word s (srcB f) l) (word s (srcC f) l)
    exact ⟨v, alu_three r rfl rfl fun l => (hv l).1, fun l => (hv l).2⟩
  · choose v hv using fun l => brevI_long (f.ty == 0xF) (s.srcVal l (srcA f f.a (f.ty == 0xF)))
    exact ⟨v, alu_computed r rfl fun l => (hv l).1, fun l => (hv l).2⟩
  · refine ⟨_, _, _, alu_computed r rfl fun _ => rfl, alu_computed r rfl fun _ => rfl, alu_computed r rfl fun _ => rfl, fun l => ?_⟩
    exact ⟨countOnes_toNat _ _, leadingZeros_spec _ _, trailingZeros_spec _ _⟩

/-- Settles O5: each operation is the bit-vector expression of its rule, or has the bits its rule gives. -/
theorem logicShiftsAndFields : Obligations.LogicShiftsAndFields := ⟨bitwiseLogic, shifts, bitFields⟩

end Sys2Proof.Proofs.Integer
end

section
/-! SUPPORT. The comparisons of R110 as conditions on exact integers, and what a predicate instruction of R153 leaves. -/

namespace Sys2Proof.Machine

open Sys2Proof.Claims

/-! ### Comparisons (R110) and predicates (R153) -/

/-- Table 04-4: the conditions of the integer comparisons. -/
def Holds (cc : Nat) (x y : Int) : Prop :=
  match cc with
  | 0 => x = y
  | 1 => x ≠ y
  | 2 => x < y
  | 3 => x ≤ y
  | 4 => x > y
  | _ => x ≥ y

theorem condI_iff (cc : Nat) (x y : Int) : condI cc x y = true ↔ Holds cc x y := by
  unfold condI Holds
  split <;> simp

/-- Table 04-1: what a source reads as in an integer type. -/
def intOf (s : State) (ty : BitVec 4) (x : Src) (l : Nat) : Int :=
  if ty.toNat < 2 then int32 ty (word s x l) else int64 ty (s.srcVal l x)

theorem readInt_srcVal (s : State) {ty : BitVec 4} (h : is32 ty ∨ is64 ty) (x : Src) (l : Nat) :
    readInt ty.toNat (s.srcVal l x).toNat = intOf s ty x l := by
  obtain (rfl | rfl) | h := h
  · exact readInt_i32 _
  · exact readInt_n32 _
  · rw [readInt_long h, intOf, if_neg]
    obtain rfl | rfl := h <;> decide

/-- R94: an immediate reads as a word, or as its sign or zero extension. -/
theorem intOf_immValue (s : State) (g : FmtI) (h : is32 g.ty ∨ is64 g.ty) (l : Nat) : intOf s g.ty (immValue g) l =
    if g.ty.toNat < 2 then int32 g.ty g.imm else if g.ty = 2 then (g.imm.signExtend 64).toInt else g.imm.toNat := by
  obtain h | h | h := h
  · have hw : word s (immValue g) l = g.imm := by
      rw [word, s.srcVal_immValue_narrow l g (ne_wide_of_is32 h), BitVec.setWidth_setWidth_of_le _ (by decide), BitVec.setWidth_eq]
    have ht : g.ty.toNat < 2 := by obtain h | h := h <;> simp [h]
    rw [intOf, if_pos ht, if_pos ht, hw]
  · simp [intOf, h, int64, s.srcVal_immValue_wide l g (Or.inl h)]
  · have hn : g.ty ≠ 2 ∧ g.ty ≠ 0xF := by rw [h]; decide
    rw [intOf, s.srcVal_immValue_narrow l g hn, int64, toNat_word_toLong]
    simp [h]

/-- R110: the value t where the condition holds, and zero elsewhere. -/
def cmpVal (cc t : Nat) (x y : Int) : Nat := if condI cc x y then t else 0

theorem cmpVal_of_holds {cc : Nat} {x y : Int} (h : Holds cc x y) (t : Nat) : cmpVal cc t x y = t := if_pos ((condI_iff cc x y).2 h)

theorem cmpVal_of_not_holds {cc : Nat} {x y : Int} (h : ¬ Holds cc x y) (t : Nat) : cmpVal cc t x y = 0 :=
  if_neg fun hc => h ((condI_iff cc x y).1 hc)

/-- A comparison whose operands are ready. -/
theorem alu_cmp {s : State} {h : Hdr} {i : Instr} {fm : Form} {ev : Eval} {cc t : Nat} {ty : BitVec 4} {x y : Src} (r : ReadyFor s h fm)
    (hf : fm.fpu = false) (hs : fm.srcs = [x, y]) (hev : ev = fun _ _ z => cmpI cc ty.toNat t z) (ht : is32 ty ∨ is64 ty) :
    .next (s.alu h i fm ev) = computed s h fm (fun l => cmpVal cc t (intOf s ty x l) (intOf s ty y l)) := by
  refine alu_computed r hf fun l => ?_
  simp only [laneRes, hs, hev, List.map, cmpI, arg, List.getD_cons_zero, List.getD_cons_succ, readInt_srcVal s ht, cmpVal]

/-- R153: the result of a predicate instruction: predicate d of each active lane takes the value v. -/
def predResult (s : State) (h : Hdr) (d : Nat) (v : Nat → Bool) : Pend :=
  { core := s.cur.core, slot := s.cur.slot, kind := 0, path := s.cur.path, lanes := s.cur.lanes, act := s.active h, pos := s.cur.pos,
    tok := h.tok.toNat, preds := (lanesOf (s.active h)).map (fun l => (l, d, v l)) }

/-- R153: a predicate instruction whose operands are ready has its result under way, due 2 cycles from now. -/
theorem State.predOp_ready (s : State) (h : Hdr) (i : Instr) (srcs : List Src) (d : Nat) (v : State → Nat → Bool)
    (r : Ready s (s.active h) srcs [] (if d = 7 then [] else [d])) :
    s.predOp h i srcs d v = issued s h 2 (predResult s h d (v s)) := by
  have hk : ¬ s.cur.phase > 0 := by
    obtain ⟨h0, -⟩ := r
    omega
  rw [State.predOp, s.withOperands_ready _ _ _ _ _ _ _ _ _ r]
  simp only [hk, if_false, issued, predResult]

theorem State.lanePred_first (s : State) (l p : Nat) (hc : s.cur.caps = []) : s.lanePred l p = (mine s l).pred p := by
  simp [State.lanePred, hc, tblFind, mine]

theorem predA_first (s : State) (f : FmtI) (l : Nat) (hc : s.cur.caps = []) :
    predA f s l = ((mine s l).pred f.a.toNat ^^ f.modi.getLsbD 3) := by
  rw [predA, s.lanePred_first _ _ hc, bit_toNat, Bool.bne_eq_xor]

theorem predB_first (s : State) (f : FmtI) (l : Nat) (hc : s.cur.caps = []) :
    predB f s l = ((mine s l).pred (f.modi.toNat % 8) ^^ f.modi.getLsbD 4) := by
  rw [predB, s.lanePred_first _ _ hc, bit_toNat, Bool.bne_eq_xor]

end Sys2Proof.Machine

namespace Sys2Proof.Proofs.Integer

open Sys2Proof.Machine Sys2Proof.Claims

/-- R110: cmp and setc decide the same condition and write different values. -/
theorem compare : Claims.Compare := by
  intro s h v f g _ hf hg
  refine ⟨_, _, _, _, fun r => ⟨alu_cmp r rfl rfl rfl hf, alu_cmp r rfl rfl rfl hf⟩,
    fun r => ⟨alu_cmp r rfl rfl rfl hg, alu_cmp r rfl rfl rfl hg⟩, fun l => ?_⟩
  rw [intOf_immValue s g hg l]
  exact ⟨fun hp => ⟨cmpVal_of_holds hp _, cmpVal_of_holds hp _⟩, fun hp => ⟨cmpVal_of_not_holds hp _, cmpVal_of_not_holds hp _⟩,
    fun hq => ⟨cmpVal_of_holds hq _, cmpVal_of_holds hq _⟩, fun hq => ⟨cmpVal_of_not_holds hq _, cmpVal_of_not_holds hq _⟩⟩

/-- R153: on a first issue nothing has been captured, so predicates read as they stand. -/
theorem predicates : Claims.Predicates := by
  intro s h f act d ds p a b wrote hfirst
  obtain ⟨-, -, hc, -⟩ := hfirst
  have ha : predA f s = a := funext fun l => predA_first s f l hc
  have hb : predB f s = b := funext fun l => predB_first s f l hc
  have hp (l n : Nat) : s.lanePred l n = p l n := s.lanePred_first l n hc
  have ready {i : Instr} {v : State → Nat → Bool} (r : Ready s act [] [] ds) : .next (s.predOp h i [] d v) = wrote (v s) :=
    congrArg Host.Outcome.next (s.predOp_ready h i [] d v r)
  refine ⟨fun r => congrArg Host.Outcome.next (s.predOp_ready h _ _ d _ r), fun r => ?_⟩
  rw [← ha, ← hb]
  simp only [← hp]
  exact ⟨ready r, ready r, ready r, ready r⟩

/-- Settles O6: a comparison decides the condition on the exact integers, and a predicate instruction writes what it computes. -/
theorem comparisonsAndPredicates : Obligations.ComparisonsAndPredicates := ⟨compare, predicates⟩

end Sys2Proof.Proofs.Integer
end

section
/-! SUPPORT. Masks and the lists of their lanes, the values that redux forms over a list of lanes, and its tree over f32 (R163-R168). -/

namespace Sys2Proof.Machine

open Sys2Proof.Claims

/-! ### Masks and the lanes they name -/

theorem lt_of_mem_lanesOf {m : BitVec 32} {l : Nat} (h : l ∈ lanesOf m) : l < 32 := BitVec.lt_of_getLsbD (mem_lanesOf.1 h)

theorem lanesOf_contains (m : BitVec 32) (k : Nat) : (lanesOf m).contains k = m.getLsbD k := by
  rw [Bool.eq_iff_iff, List.contains_iff_mem, mem_lanesOf]

theorem ofNat_two_pow_eq_twoPow (i : Nat) : BitVec.ofNat 32 (2 ^ i) = BitVec.twoPow 32 i :=
  BitVec.eq_of_toNat_eq (by rw [BitVec.toNat_ofNat, BitVec.toNat_twoPow])

theorem getLsbD_ofNat_two_pow {l k : Nat} (h : k < 32) : (BitVec.ofNat 32 (2 ^ l)).getLsbD k = (k == l) := by
  rw [ofNat_two_pow_eq_twoPow, BitVec.getLsbD_twoPow, Bool.eq_iff_iff]
  simp only [Bool.and_eq_true, decide_eq_true_eq, beq_iff_eq]
  omega

theorem getLsbD_maskOf (L : List Nat) (k : Nat) (h : k < 32) : (maskOf L).getLsbD k = L.contains k := by
  have joined (m : BitVec 32) : (L.foldl (fun m i => m ||| BitVec.ofNat 32 (2 ^ i)) m).getLsbD k = (m.getLsbD k || L.contains k) := by
    induction L generalizing m with
    | nil => simp
    | cons i r ih => rw [List.foldl_cons, ih, BitVec.getLsbD_or, getLsbD_ofNat_two_pow h, List.contains_cons, Bool.or_assoc]
  rw [maskOf, joined]
  simp

theorem maskOf_lanesOf (m : BitVec 32) : maskOf (lanesOf m) = m :=
  BitVec.eq_of_getLsbD_eq fun k hk => by rw [getLsbD_maskOf _ _ hk, lanesOf_contains]

/-- The lanes of a mask that pass a test are all of them exactly when each passes. -/
theorem maskOf_filter_eq_iff (m : BitVec 32) (p : Nat → Bool) : maskOf ((lanesOf m).filter p) = m ↔ (lanesOf m).all p = true := by
  constructor
  · intro h
    refine List.all_eq_true.2 fun k hk => ?_
    have hm := mem_lanesOf.1 hk
    rw [← h, getLsbD_maskOf _ _ (lt_of_mem_lanesOf hk), List.contains_iff_mem] at hm
    exact (List.mem_filter.1 hm).2
  · intro h
    rw [List.filter_eq_self.2 (List.all_eq_true.1 h), maskOf_lanesOf]

/-! ### The values of redux over integers and bit patterns (R167) -/

/-- Words of a list of lanes combined in order, the first lane's the start. -/
def foldWords (op : Word → Word → Word) (a : Nat → Word) (K : List Nat) : Word :=
  (K.drop 1).foldl (fun x k => op x (a k)) (a (K.headD 0))

/-- The word that a comparison of keys keeps: the later one where its key is the less. -/
def keepLeast (key : Word → Int) (x y : Word) : Word := if key y < key x then y else x

section Redux

variable (a : Nat → Word) (K : List Nat)

theorem reduxInt_add (ty : Nat) : reduxInt 0 ty (K.map (fun j => (a j).toNat)) = (BitVec.ofNat 32 (K.map (fun j => (a j).toNat)).sum).toNat := by
  rw [BitVec.toNat_ofNat, List.sum_eq_foldl]
  rfl

variable {K} (hK : K ≠ [])
include hK

/-- An operation on the words' numbers folds them as the operation on words does. -/
theorem foldl_toNat (f : Nat → Nat → Nat) (op : Word → Word → Word) (h : ∀ x y : Word, f x.toNat y.toNat = (op x y).toNat) :
    ((K.map (fun j => (a j).toNat)).drop 1).foldl f ((K.map (fun j => (a j).toNat)).headD 0) = (foldWords op a K).toNat := by
  obtain ⟨k, r, rfl⟩ := List.exists_cons_of_ne_nil hK
  simp only [foldWords, List.map_cons, List.drop_one, List.tail_cons, List.headD_cons, List.foldl_map]
  exact List.foldl_hom BitVec.toNat fun x j => h x (a j)

theorem reduxInt_and (ty : Nat) : reduxInt 3 ty (K.map (fun j => (a j).toNat)) = (foldWords (· &&& ·) a K).toNat :=
  foldl_toNat a hK _ _ fun x y => (BitVec.toNat_and x y).symm

theorem reduxInt_or (ty : Nat) : reduxInt 4 ty (K.map (fun j => (a j).toNat)) = (foldWords (· ||| ·) a K).toNat :=
  foldl_toNat a hK _ _ fun x y => (BitVec.toNat_or x y).symm

theorem reduxInt_xor (ty : Nat) : reduxInt 5 ty (K.map (fun j => (a j).toNat)) = (foldWords (· ^^^ ·) a K).toNat :=
  foldl_toNat a hK _ _ fun x y => (BitVec.toNat_xor x y).symm

theorem reduxInt_min {ty : BitVec 4} (h : is32 ty) :
    reduxInt 1 ty.toNat (K.map (fun j => (a j).toNat)) = (foldWords (keepLeast (int32 ty)) a K).toNat := by
  refine foldl_toNat a hK _ _ fun x y => ?_
  rw [readInt_word h, readInt_word h, keepLeast, apply_ite BitVec.toNat]

theorem reduxInt_max {ty : BitVec 4} (h : is32 ty) :
    reduxInt 2 ty.toNat (K.map (fun j => (a j).toNat)) = (foldWords (keepLeast (fun w => -int32 ty w)) a K).toNat := by
  refine foldl_toNat a hK _ _ fun x y => ?_
  rw [readInt_word h, readInt_word h, keepLeast, apply_ite BitVec.toNat]
  simp only [gt_iff_lt, neg_lt_neg_iff]

theorem getLsbD_foldWords_and (i : Nat) : (foldWords (· &&& ·) a K).getLsbD i = K.all (fun j => (a j).getLsbD i) := by
  obtain ⟨k, r, rfl⟩ := List.exists_cons_of_ne_nil hK
  have folded (x : Word) : (r.foldl (fun x j => x &&& a j) x).getLsbD i = (x.getLsbD i && r.all (fun j => (a j).getLsbD i)) := by
    clear hK
    induction r generalizing x with
    | nil => simp
    | cons j r ih => rw [List.foldl_cons, ih, BitVec.getLsbD_and, List.all_cons, Bool.and_assoc]
  exact folded (a k)

theorem getLsbD_foldWords_or (i : Nat) : (foldWords (· ||| ·) a K).getLsbD i = K.any (fun j => (a j).getLsbD i) := by
  obtain ⟨k, r, rfl⟩ := List.exists_cons_of_ne_nil hK
  have folded (x : Word) : (r.foldl (fun x j => x ||| a j) x).getLsbD i = (x.getLsbD i || r.any (fun j => (a j).getLsbD i)) := by
    clear hK
    induction r generalizing x with
    | nil => simp
    | cons j r ih => rw [List.foldl_cons, ih, BitVec.getLsbD_or, List.any_cons, Bool.or_assoc]
  exact folded (a k)

theorem foldWords_xor : foldWords (· ^^^ ·) a K = K.foldl (fun x j => x ^^^ a j) 0 := by
  obtain ⟨k, r, rfl⟩ := List.exists_cons_of_ne_nil hK
  simp [foldWords]

/-- What is kept of a list of lanes is the word of one of them, and its key the least. -/
theorem foldWords_keepLeast (key : Word → Int) : (∃ j ∈ K, foldWords (keepLeast key) a K = a j) ∧
    ∀ j ∈ K, key (foldWords (keepLeast key) a K) ≤ key (a j) := by
  obtain ⟨k, r, rfl⟩ := List.exists_cons_of_ne_nil hK
  clear hK
  rw [foldWords, List.headD_cons, List.drop_one, List.tail_cons]
  induction r generalizing k with
  | nil => simp
  | cons n r ih =>
    rw [List.foldl_cons, keepLeast]
    split
    · next h =>
      obtain ⟨⟨j, hj, he⟩, hle⟩ := ih n
      exact ⟨⟨j, List.mem_cons_of_mem _ hj, he⟩, List.forall_mem_cons.2 ⟨(hle n List.mem_cons_self).trans h.le, hle⟩⟩
    · next h =>
      obtain ⟨⟨j, hj, he⟩, hle⟩ := ih k
      obtain ⟨hk, hr⟩ := List.forall_mem_cons.1 hle
      refine ⟨⟨j, ?_, he⟩, List.forall_mem_cons.2 ⟨hk, List.forall_mem_cons.2 ⟨hk.trans (not_lt.1 h), hr⟩⟩⟩
      simp only [List.mem_cons] at hj ⊢
      tauto

end Redux

/-! ### The tree of redux over f32 (R167) -/

section Tree

variable (op : Nat → Nat → FRes) (leaf : Nat → Option Nat)

theorem treeAt_succ (n m : Nat) : treeAt op leaf (n + 1) m =
    let x := treeAt op leaf n (2 * m)
    let y := treeAt op leaf n (2 * m + 1)
    let z := treeNode op x.1 y.1
    (z.1, x.2 ||| y.2 ||| z.2) := by
  rw [treeAt]
  obtain ⟨x, e⟩ := treeAt op leaf n (2 * m)
  obtain ⟨y, e'⟩ := treeAt op leaf n (2 * m + 1)
  cases x <;> cases y <;> simp [treeNode]

/-- The n nodes of a level from node m on. -/
def treeNodes (level m n : Nat) : List (Option Nat × BitVec 5) := (List.range' m n).map (treeAt op leaf level)

/-- The exceptions of a list of nodes and of those below them. -/
def nodeFlags (l : List (Option Nat × BitVec 5)) : BitVec 5 := l.foldr (fun x e => x.2 ||| e) 0

/-- A level of the tree computes the nodes of the next one, and their exceptions are those of the nodes below and those it raises. -/
theorem treeLevel_treeNodes (level m n : Nat) :
    let r := treeLevel op ((treeNodes op leaf level (2 * m) (2 * n)).map Prod.fst)
    r.1 = (treeNodes op leaf (level + 1) m n).map Prod.fst ∧
    nodeFlags (treeNodes op leaf (level + 1) m n) = nodeFlags (treeNodes op leaf level (2 * m) (2 * n)) ||| r.2 := by
  induction n generalizing m with
  | zero => exact ⟨rfl, BitVec.zero_or.symm⟩
  | succ n ih =>
    obtain ⟨hv, hf⟩ := ih (m + 1)
    have pair : treeNodes op leaf level (2 * m) (2 * (n + 1)) =
        treeAt op leaf level (2 * m) :: treeAt op leaf level (2 * m + 1) :: treeNodes op leaf level (2 * (m + 1)) (2 * n) := rfl
    have node : treeNodes op leaf (level + 1) m (n + 1) = treeAt op leaf (level + 1) m :: treeNodes op leaf (level + 1) (m + 1) n := rfl
    rw [pair, node]
    simp only [List.map_cons, treeLevel, nodeFlags, List.foldr_cons, hv, treeAt_succ, true_and] at hf ⊢
    rw [hf]
    ac_rfl

/-- The leaves raise nothing. -/
theorem nodeFlags_leaves (m n : Nat) : nodeFlags (treeNodes op leaf 0 m n) = 0#5 := by
  induction n generalizing m with
  | zero => rfl
  | succ n ih => exact (BitVec.zero_or).trans (ih (m + 1))

/-- Five levels over the leaf positions 0 to 31 compute the root. -/
theorem treeRoot_eq_treeAt :
    treeRoot op ((List.range 32).map leaf) = ((treeAt op leaf 5 0).1.getD 0, (treeAt op leaf 5 0).2) := by
  have leaves : (List.range 32).map leaf = (treeNodes op leaf 0 0 32).map Prod.fst := by
    rw [List.range_eq_range', treeNodes, List.map_map]
    rfl
  have h0 := nodeFlags_leaves op leaf 0 32
  obtain ⟨v1, f1⟩ := treeLevel_treeNodes op leaf 0 0 16
  obtain ⟨v2, f2⟩ := treeLevel_treeNodes op leaf 1 0 8
  obtain ⟨v3, f3⟩ := treeLevel_treeNodes op leaf 2 0 4
  obtain ⟨v4, f4⟩ := treeLevel_treeNodes op leaf 3 0 2
  obtain ⟨v5, f5⟩ := treeLevel_treeNodes op leaf 4 0 1
  have root : nodeFlags (treeNodes op leaf 5 0 1) = (treeAt op leaf 5 0).2 := BitVec.or_zero
  simp only [Nat.mul_zero, Nat.reduceMul, Nat.reduceAdd] at v1 v2 v3 v4 v5 f1 f2 f3 f4 f5
  rw [root, f4, f3, f2, f1, h0, BitVec.zero_or] at f5
  rw [treeRoot, leaves]
  simp only [v1, v2, v3, v4, v5, f5]
  rfl

end Tree

end Sys2Proof.Machine
end

section
/-! SUPPORT. What stands while an issue raises its token, takes the masks gathered for it and is traced, and where its threads stand once it
has retired (R38, R133, R157, R392, R399). -/

namespace Sys2Proof.Machine

open Sys2Proof.Claims

/-! ### Memory, the workgroups and the threads of every group stand as before -/

/-- Memory, the workgroups and the threads of every group of two states are the same, and a group is present in both or in neither. -/
structure SameThreads (s t : State) : Prop where
  mem : t.mem = s.mem
  hostMem : t.hostMem = s.hostMem
  wgs : t.wgs = s.wgs
  present : ∀ c q, t.hasGroup c q = s.hasGroup c q
  owner : ∀ c q, (t.group c q).wg = (s.group c q).wg
  threads : ∀ c q, (t.group c q).threads = (s.group c q).threads

theorem SameThreads.refl (s : State) : SameThreads s s := ⟨rfl, rfl, rfl, fun _ _ => rfl, fun _ _ => rfl, fun _ _ => rfl⟩

theorem SameThreads.trans {s t u : State} (h : SameThreads s t) (k : SameThreads t u) : SameThreads s u where
  mem := k.mem.trans h.mem
  hostMem := k.hostMem.trans h.hostMem
  wgs := k.wgs.trans h.wgs
  present c q := (k.present c q).trans (h.present c q)
  owner c q := (k.owner c q).trans (h.owner c q)
  threads c q := (k.threads c q).trans (h.threads c q)

theorem SameThreads.of_groups {s t : State} (mem : t.mem = s.mem) (hostMem : t.hostMem = s.hostMem) (wgs : t.wgs = s.wgs)
    (groups : t.groups = s.groups) : SameThreads s t := by
  have hg (c q : Nat) : t.group c q = s.group c q := by rw [State.group, State.group, groups]
  exact ⟨mem, hostMem, wgs, fun c q => by rw [State.hasGroup, State.hasGroup, groups], fun c q => by rw [hg], fun c q => by rw [hg]⟩

theorem State.wgOf_present (s : State) {c q : Nat} (h : s.hasGroup c q = true) : s.wgOf c q = (s.group c q).wg := by
  obtain ⟨g, hg⟩ := Option.isSome_iff_exists.1 h
  simp [State.wgOf, State.group, tblGet, hg]

theorem State.wgOf_absent (s : State) {c q : Nat} (h : s.hasGroup c q = false) :
    s.wgOf c q = s.wgs.foldl (fun m p => if p.2.core = c && p.2.slots.contains q then p.1 else m) 0 := by
  simp only [State.hasGroup, Option.isSome_eq_false_iff, Option.isNone_iff_eq_none] at h
  simp [State.wgOf, h]

section SameThreads

variable {s t : State} (h : SameThreads s t)
include h

theorem SameThreads.wgOf : t.wgOf = s.wgOf := by
  funext c q
  cases hp : s.hasGroup c q with
  | true => rw [s.wgOf_present hp, t.wgOf_present ((h.present c q).trans hp), h.owner]
  | false => rw [s.wgOf_absent hp, t.wgOf_absent ((h.present c q).trans hp), h.wgs]

theorem SameThreads.wg : t.wg = s.wg := by
  funext w
  rw [State.wg, State.wg, h.wgs]

theorem SameThreads.thread : t.thread = s.thread := by
  funext c q l
  rw [State.thread, State.thread, Group.thread, Group.thread, h.threads]

end SameThreads

/-- Changing a group, its threads and its workgroup apart. -/
theorem SameThreads.modGroup (s : State) (core slot : Nat) (f : Group → Group) (ht : ∀ g, (f g).threads = g.threads := by intro _; rfl)
    (hw : ∀ g, (f g).wg = g.wg := by intro _; rfl) :
    SameThreads s (s.modGroup core slot f) := by
  have kept {α : Type} (field : Group → α) (hf : ∀ g, field (f g) = field g) (c q : Nat) :
      field ((s.modGroup core slot f).group c q) = field (s.group c q) := by
    by_cases e : gkey c q = gkey core slot
    · have same (u : State) : u.group c q = u.group core slot := by rw [State.group, State.group, e]
      rw [same, same]
      by_cases hp : s.hasGroup core slot = true
      · rw [s.modGroup_self f hp, hf]
      · rw [State.modGroup, if_neg hp]
    · rw [s.modGroup_other f e]
  exact ⟨by simp, by simp, by simp, fun c q => s.modGroup_present core slot c q f, kept _ hw, kept _ ht⟩

theorem SameThreads.takeToken (s : State) (h : Hdr) : SameThreads s (s.takeToken h) := by
  unfold State.takeToken State.tokUp
  split_ifs
  · exact .refl s
  · exact .modGroup s _ _ _
  · exact .refl s

theorem SameThreads.useMasks (s : State) (f : FmtG) : SameThreads s (s.useMasks f) := by
  unfold State.useMasks
  refine SameThreads.trans ?_ (.modGroup _ _ _ _ ?_ ?_)
  · exact .of_groups rfl rfl rfl rfl
  · exact fun _ => rfl
  · exact fun _ => rfl

theorem SameThreads.addPend (s : State) (p : Pend) : SameThreads s (s.addPend p) := .of_groups rfl rfl rfl rfl

theorem SameThreads.inCycles (s : State) (core n : Nat) (ev : Instr) : SameThreads s (s.inCycles core n ev) := .of_groups rfl rfl rfl rfl

/-! ### The trace of an issue -/

/-- Beside what SameThreads says, the same events are due. -/
structure OnlyTraced (s t : State) : Prop extends SameThreads s t where
  timers : t.timers = s.timers

theorem OnlyTraced.refl (s : State) : OnlyTraced s s := ⟨.refl s, rfl⟩

theorem OnlyTraced.trans {s t u : State} (h : OnlyTraced s t) (k : OnlyTraced t u) : OnlyTraced s u :=
  ⟨h.toSameThreads.trans k.toSameThreads, k.timers.trans h.timers⟩

/-- A change of a group's trace. -/
theorem OnlyTraced.modTrace (s : State) (core slot : Nat) (f : Group → TraceSt) :
    OnlyTraced s (s.modGroup core slot (fun g => { g with trace := f g })) :=
  ⟨.modGroup s core slot _, by simp⟩

theorem OnlyTraced.traceBytes (s : State) (core : Nat) (l : List Byte) : OnlyTraced s (s.traceBytes core l) :=
  ⟨.of_groups rfl rfl rfl rfl, rfl⟩

theorem OnlyTraced.traceSync (s : State) (core slot : Nat) (x : Traced) : OnlyTraced s (s.traceSync core slot x) := by
  unfold State.traceSync
  exact (OnlyTraced.traceBytes s core _).trans (.modTrace _ core slot _)

theorem OnlyTraced.tracePacket (s : State) (core slot : Nat) (x : Traced) (l : List Byte) : OnlyTraced s (s.tracePacket core slot x l) := by
  unfold State.tracePacket
  refine OnlyTraced.trans ?_ ((OnlyTraced.traceBytes _ core _).trans (.modTrace _ core slot _))
  split
  · exact .traceSync s core slot x
  · exact .refl s

theorem OnlyTraced.traceFlush (s : State) (core slot : Nat) : OnlyTraced s (s.traceFlush core slot) := by
  unfold State.traceFlush
  dsimp only
  split
  · exact .refl s
  · exact (OnlyTraced.tracePacket s core slot _ _).trans (.modTrace _ core slot _)

theorem OnlyTraced.traceNote (s : State) (core slot : Nat) (l : List Byte) : OnlyTraced s (s.traceNote core slot l) := by
  unfold State.traceNote
  split
  · exact (OnlyTraced.traceFlush s core slot).trans (.tracePacket _ core slot _ _)
  · exact .refl s

theorem OnlyTraced.traceRetire (s : State) (core slot : Nat) (p : Long) (lanes : BitVec 32) : OnlyTraced s (s.traceRetire core slot p lanes) := by
  unfold State.traceRetire
  dsimp only
  split_ifs
  · exact .refl s
  · exact (OnlyTraced.traceSync s core slot _).trans (.modTrace _ core slot _)
  · exact .refl s
  · exact (OnlyTraced.modTrace s core slot _).trans (.traceFlush _ core slot)
  · exact .modTrace s core slot _
  · exact (OnlyTraced.traceNote s core slot _).trans (.modTrace _ core slot _)

/-! ### Retiring a first issue -/

theorem State.noteIssue_frame (s : State) (core slot : Nat) :
    (s.noteIssue core slot).groups = s.groups ∧ (s.noteIssue core slot).timers = s.timers := by
  unfold State.noteIssue
  dsimp only
  split <;> exact ⟨rfl, rfl⟩

/-- A change of a workgroup that keeps its count of retired group-instructions keeps every workgroup's. -/
theorem State.modWg_rwc (s : State) (w v : Nat) (f : Workgroup → Workgroup) (hf : ∀ x, (f x).rwc = x.rwc) :
    ((s.modWg w f).wg v).rwc = (s.wg v).rwc := by
  by_cases e : v = w
  · rw [e, s.modWg_self, hf]
  · rw [s.modWg_other f e]

theorem State.noteIssue_rwc (s : State) (core slot v : Nat) : ((s.noteIssue core slot).wg v).rwc = (s.wg v).rwc := by
  unfold State.noteIssue
  dsimp only
  split
  · exact s.modWg_rwc _ _ _ fun _ => rfl
  · rfl

section Retire

variable (s : State) (h : Hdr) (p : Nat → Long)

/-- The state in which an issue has been counted and traced, before its threads go on. -/
def State.counted : State :=
  let s0 := (if s.cur.phase > 0 then s.dropHeld else s).noteIssue s.cur.core s.cur.slot
  (s0.traceRetire s.cur.core s.cur.slot s.cur.pos s.cur.lanes).modWg (s0.wgOf s.cur.core s.cur.slot) (fun x => { x with rwc := x.rwc + 1 })

/-- What retiring does to a thread of the issue. -/
def State.goesOn (l : Nat) (t : Thread) : Thread :=
  { t with pos := p l, came := p l ≠ seqPos s.cur.pos, stall := if s.cur.phase = 0 then h.stall.toNat else t.stall }

/-- Once an issue is counted its threads go on, and a single step that it ends is noted. -/
theorem State.retire_counted : ∃ w f, (∀ x : Workgroup, (f x).rwc = x.rwc) ∧
    s.retire h p = (s.counted.modLanes s.cur.core s.cur.slot s.cur.lanes (s.goesOn h p)).modWg w f := by
  unfold State.retire
  refine ⟨_, _, ?_, rfl⟩
  intro _
  rfl

variable (first : s.cur.phase = 0)
include first

/-- A first issue is noted in the schedule log, traced, and counted. -/
theorem State.counted_traced : ∃ u, OnlyTraced (s.noteIssue s.cur.core s.cur.slot) u ∧
    s.counted = u.modWg ((s.noteIssue s.cur.core s.cur.slot).wgOf s.cur.core s.cur.slot) (fun x => { x with rwc := x.rwc + 1 }) := by
  refine ⟨_, .traceRetire _ s.cur.core s.cur.slot s.cur.pos s.cur.lanes, ?_⟩
  simp only [State.counted, first, gt_iff_lt, Nat.lt_irrefl, if_false]

theorem State.counted_groups (c q : Nat) : s.counted.hasGroup c q = s.hasGroup c q ∧ (s.counted.group c q).threads = (s.group c q).threads := by
  obtain ⟨hg, -⟩ := s.noteIssue_frame s.cur.core s.cur.slot
  obtain ⟨u, traced, e⟩ := s.counted_traced first
  simp only [e, State.modWg_group, traced.present, traced.threads]
  simp only [State.hasGroup, State.group, hg, and_self]

theorem State.counted_timers : s.counted.timers = s.timers := by
  obtain ⟨-, ht⟩ := s.noteIssue_frame s.cur.core s.cur.slot
  obtain ⟨u, traced, e⟩ := s.counted_traced first
  simp only [e, State.modWg_frame, traced.timers, ht]

theorem State.retire_timers : (s.retire h p).timers = s.timers := by
  obtain ⟨w, f, -, e⟩ := s.retire_counted h p
  rw [e]
  simp [s.counted_timers first]

variable (present : s.hasGroup s.cur.core s.cur.slot = true)
include present

theorem State.counted_rwc : (s.counted.wg s.curWg).rwc = (s.wg s.curWg).rwc + 1 := by
  obtain ⟨hg, -⟩ := s.noteIssue_frame s.cur.core s.cur.slot
  obtain ⟨u, traced, e⟩ := s.counted_traced first
  have owner : (s.noteIssue s.cur.core s.cur.slot).wgOf s.cur.core s.cur.slot = s.curWg := by
    rw [State.curWg, s.wgOf_present present, State.wgOf_present _ (by rw [State.hasGroup, hg]; exact present), State.group, State.group, hg]
  simp only [e, owner, State.modWg_self, traced.wg, s.noteIssue_rwc]

/-- R38, R42, R133, R392: a first issue that retires advances its threads and counts once; nothing elsewhere moves. -/
theorem State.retire_moved : Moved s (s.retire h p) h p (fun _ t => t) := by
  obtain ⟨w, f, hf, e⟩ := s.retire_counted h p
  have own : s.counted.hasGroup s.cur.core s.cur.slot = true := (s.counted_groups first _ _).1.trans present
  refine ⟨⟨(s.retire_mem h p).1, (s.retire_mem h p).2, fun c q hne => ?_⟩, ?_, fun l hl => ?_⟩
  · rw [e]
    simp only [State.modWg_group, State.modLanes, State.modGroup_other _ _ hne, s.counted_groups first c q]
  · rw [e, State.modWg_rwc _ _ _ f hf]
    simp only [State.modLanes_reads, s.counted_rwc first present]
  · have kept := (s.counted_groups first s.cur.core s.cur.slot).2
    rw [e]
    simp only [State.modWg_group, State.thread, State.modLanes, State.modGroup_self _ _ own]
    rw [Group.modLanes_thread _ _ _ _ (by rw [kept]; exact hl)]
    simp only [Group.thread, kept, mine, State.thread, State.goesOn]

end Retire

/-- An issue that advances from a state advances from one of the same threads, in which the same threads issue. -/
theorem moved_of_sameThreads {s u t : State} {h : Hdr} {p : Nat → Long} {e : Nat → Thread → Thread} (same : SameThreads s u)
    (hcur : u.cur.core = s.cur.core ∧ u.cur.slot = s.cur.slot ∧ u.cur.lanes = s.cur.lanes ∧ u.cur.pos = s.cur.pos ∧ u.cur.phase = s.cur.phase)
    (moved : Moved u t h p e) : Moved s t h p e := by
  obtain ⟨hcore, hslot, hlanes, hpos, hphase⟩ := hcur
  obtain ⟨⟨hmem, hhost, hother⟩, hrwc, hown⟩ := moved
  have hwg : u.curWg = s.curWg := by rw [State.curWg, State.curWg, same.wgOf, hcore, hslot]
  have hmine : mine u = mine s := by
    funext l
    rw [mine, mine, same.thread, hcore, hslot]
  rw [hwg, same.wg] at hrwc
  simp only [hcore, hslot, same.threads] at hother hown
  simp only [hlanes, hpos, hphase, hmine] at hown
  exact ⟨⟨hmem.trans same.mem, hhost.trans same.hostMem, hother⟩, hrwc, hown⟩

end Sys2Proof.Machine
end

section
/-! SUPPORT. What a group-wide instruction reads, which lanes each lane counts, and the result it puts under way (R156-R160). -/

namespace Sys2Proof.Machine

open Sys2Proof.Claims

/-! ### What a group-wide instruction reads -/

@[simp] theorem gathered_cur (s : State) (f : FmtG) :
    (gathered s f).cur.core = s.cur.core ∧ (gathered s f).cur.slot = s.cur.slot ∧ (gathered s f).cur.path = s.cur.path ∧
    (gathered s f).cur.lanes = s.cur.lanes ∧ (gathered s f).cur.pos = s.cur.pos ∧ (gathered s f).cur.phase = s.cur.phase := by
  simp [gathered, State.useMasks]

@[simp] theorem gathered_core (s : State) (f : FmtG) : (gathered s f).core = s.core ∧ (gathered s f).fresh = s.fresh := by
  refine ⟨?_, by simp [gathered, State.useMasks]⟩
  funext c
  simp [gathered, State.useMasks, State.core]

theorem gathered_thread (s : State) (f : FmtG) : (gathered s f).thread = s.thread := (SameThreads.useMasks s f).thread

theorem gathered_curWg (s : State) (f : FmtG) : (gathered s f).curWg = s.curWg := by
  simp only [State.curWg, gathered_cur]
  rw [gathered, (SameThreads.useMasks s f).wgOf]

theorem gathered_curLaunch (s : State) (f : FmtG) : (gathered s f).curLaunch = s.curLaunch := by
  have hl : (gathered s f).launches = s.launches := by simp [gathered, State.useMasks]
  have hw : (gathered s f).wg = s.wg := (SameThreads.useMasks s f).wg
  simp only [State.curLaunch, State.launch, State.launchOfWg, gathered_curWg, hl, hw]

theorem tblFind_foldl_tblPut {α β : Type} (key : β → Nat) (val : β → α) (L : List β) (t : Tbl α) {k : Nat} (h : ∀ x ∈ L, key x ≠ k) :
    tblFind (L.foldl (fun t x => tblPut t (key x) (val x)) t) k = tblFind t k := by
  induction L generalizing t with
  | nil => rfl
  | cons x r ih =>
    rw [List.foldl_cons, ih _ fun y hy => h y (List.mem_cons_of_mem _ hy), tblFind_tblPut_other _ _ (h x List.mem_cons_self).symm]

/-- R157: what crossed for the gathering is kept by lane and register; no predicate is. -/
theorem gathered_predKey (s : State) (f : FmtG) (l : Nat) :
    tblFind (gathered s f).cur.caps (predKey l) = tblFind s.cur.caps (predKey l) := by
  have hcaps : (gathered s f).cur.caps = ((s.group s.cur.core s.cur.slot).masks.filter
      (fun m => (s.cur.lanes.getLsbD m.lane && m.pos == s.cur.pos) && decide (m.reg = f.mask.toNat))).foldl
        (fun t m => tblPut t (crossKey m.lane m.reg) m.val) s.cur.caps := by
    simp only [gathered, State.useMasks, State.modGroup_frame]
  rw [hcaps]
  refine tblFind_foldl_tblPut (k := predKey l) (fun m : MaskVal => crossKey m.lane m.reg) MaskVal.val _ _ ?_
  intro m hm
  simp only [List.mem_filter, Bool.and_eq_true, decide_eq_true_eq] at hm
  obtain ⟨-, ⟨hlane, -⟩, hreg⟩ := hm
  have hl : m.lane < 32 := BitVec.lt_of_getLsbD hlane
  have hr : f.mask.toNat < 512 := f.mask.isLt
  simp only [crossKey, predKey]
  omega

theorem gathered_lanePred (s : State) (f : FmtG) (l p : Nat) (hc : s.cur.caps = []) : (gathered s f).lanePred l p = (mine s l).pred p := by
  have hk := gathered_predKey s f l
  rw [hc, tblFind] at hk
  simp only [State.lanePred, hk, gathered_cur, gathered_thread, mine]

/-! ### The lanes that a lane counts -/

theorem lanesOf_and (a b : BitVec 32) : lanesOf (a &&& b) = (lanesOf a).filter b.getLsbD := by
  rw [lanesOf, lanesOf, List.filter_filter]
  exact List.filter_congr fun k _ => by rw [BitVec.getLsbD_and, Bool.and_comm]

theorem getLsbD_partSet (s : State) (f : FmtG) (l : Nat) {k : Nat} (hk : k < 32) :
    (s.partSet f l).getLsbD k = (f.mask == 0x1FE || k == l || (s.selWord l f.mask.toNat).getLsbD k) := by
  rw [State.partSet]
  split
  · next h => rw [BitVec.getLsbD_allOnes, decide_eq_true hk, beq_iff_eq.2 h, Bool.true_or, Bool.true_or]
  · next h => rw [BitVec.getLsbD_or, getLsbD_ofNat_two_pow hk, beq_eq_false_iff_ne.2 h, Bool.false_or, Bool.or_comm]

/-- R158: the set R of a lane is the contributors that its participation set names. -/
theorem lanesOf_partSet (s : State) (h : Hdr) (f : FmtG) (l : Nat) :
    lanesOf (s.active h &&& (gathered s f).partSet f l) = rset s h f l := by
  rw [lanesOf_and, rset]
  exact List.filter_congr fun k hk => getLsbD_partSet _ f l (lt_of_mem_lanesOf hk)

/-- R158: the set of a contributing lane contains it. -/
theorem mem_rset_self {s : State} {h : Hdr} {l : Nat} (f : FmtG) (hl : l ∈ lanesOf (s.active h)) : l ∈ rset s h f l := by
  simp [rset, hl]

/-! ### The result under way -/

/-- R159: the issue in hand raises its token, its result is due lat cycles from now, and its threads go on at the successor. -/
def State.groupUnderWay (s : State) (h : Hdr) (lat : Nat) (p : Pend) : State :=
  let t := s.takeToken h
  ((t.addPend p).inCycles s.cur.core lat (.groupWideCompletion t.fresh)).retireSeq h

/-- The result of a group-wide instruction that no lane has joined. -/
def groupPend (s : State) (h : Hdr) (fpu : Bool) : Pend :=
  { core := s.cur.core, slot := s.cur.slot, kind := 2, path := s.cur.path, lanes := s.cur.lanes, act := s.active h, pos := s.cur.pos,
    tok := h.tok.toNat, fpu := fpu }

/-- What a lane's value and predicate write. -/
def valueWrites (d l : Nat) : Option Nat → List LaneWrite
  | some x => laneWrites l d false x false
  | none => []

def predWrites (pd l : Nat) : Option Bool → List (Nat × Nat × Bool)
  | some b => [(l, pd, b)]
  | none => []

/-- R87: a lane joins the result; one with an enabled exception en traps and writes nothing. -/
def groupLane (d pd : Nat) (en : BitVec 5) (o : LaneOut) (p : Pend) (l : Nat) : Pend :=
  let q := { p with flags := if o.flags = 0 then p.flags else p.flags ++ [(l, o.flags)] }
  if en ≠ 0 then { q with traps := q.traps ||| BitVec.ofNat 32 (2 ^ l), exc := q.exc ||| en }
  else { q with writes := q.writes ++ valueWrites d l o.val, preds := q.preds ++ predWrites pd l o.pred }

section Issue

variable {s : State} {h : Hdr} {f : FmtG} {srcs : List Src} {ps : List Nat} {d pd : Nat}

/-- What the instruction's function out gives a lane. -/
def laneOut (s : State) (h : Hdr) (f : FmtG) (out : State → BitVec 32 → Nat → BitVec 32 → LaneOut) (l : Nat) : LaneOut :=
  out (gathered s f) (s.active h) l (s.active h &&& (gathered s f).partSet f l)

/-- R159, R170: a group-wide instruction whose operands are ready puts what its lanes compute under way. -/
theorem groupWide_ready (r : GroupReady s h f srcs ps d pd) (i : Instr) (lat : Nat) (fpu : Bool)
    (out : State → BitVec 32 → Nat → BitVec 32 → LaneOut) :
    s.groupWide h i f srcs ps d pd lat fpu out = (gathered s f).groupUnderWay h lat ((lanesOf (s.active h)).foldl
      (fun p l => groupLane d pd ((laneOut s h f out l).flags &&& (mine s l).fpctl) (laneOut s h f out l) p l) (groupPend s h fpu)) := by
  obtain ⟨⟨first, -⟩, ready⟩ := r
  have hk : ¬ s.cur.phase > 0 := by omega
  have ready : Ready (s.useMasks f) (s.active h) (maskSrc f ++ srcs) (dstRegs d false) (ps ++ if pd = 7 then [] else [pd]) := ready
  rw [State.groupWide]
  simp only [hk, if_false]
  rw [State.withOperands_ready _ _ _ _ _ _ _ _ _ _ ready, ← gathered]
  simp only [State.groupUnderWay, groupPend, groupLane, laneOut, gathered_cur, gathered_thread, mine]
  rfl

/-- Lanes none of which has an enabled exception join the result one after another. -/
theorem groupFold_untrapped (o : Nat → LaneOut) (en : Nat → BitVec 5) (L : List Nat) (hen : ∀ l ∈ L, en l = 0) (p : Pend) :
    L.foldl (fun p l => groupLane d pd (en l) (o l) p l) p = { p with
      writes := p.writes ++ (L.map (fun l => valueWrites d l (o l).val)).flatten
      preds := p.preds ++ (L.map (fun l => predWrites pd l (o l).pred)).flatten
      flags := p.flags ++ (L.filter (fun l => (o l).flags != 0)).map (fun l => (l, (o l).flags)) } := by
  induction L generalizing p with
  | nil => simp
  | cons l r ih =>
    obtain ⟨hl, hr⟩ := List.forall_mem_cons.1 hen
    rw [List.foldl_cons, ih hr, groupLane, hl]
    by_cases hf : (o l).flags = 0#5 <;> simp [hf]

theorem groupIssued_eq (lat : Nat) (v : Nat → Option Nat) (q : Nat → Option Bool) :
    groupIssued s h f lat d pd v q = .next ((gathered s f).groupUnderWay h lat { groupPend s h false with
      writes := ((lanesOf (s.active h)).map (fun l => valueWrites d l (v l))).flatten
      preds := ((lanesOf (s.active h)).map (fun l => predWrites pd l (q l))).flatten }) := by
  simp only [groupIssued, State.groupUnderWay, groupPend, gathered_cur]
  rfl

/-- A group-wide instruction that raises no exception, whose function gives each contributing lane a value and a predicate of its set R. -/
theorem groupWide_issued (r : GroupReady s h f srcs ps d pd) {i : Instr} {lat : Nat} {out : State → BitVec 32 → Nat → BitVec 32 → LaneOut}
    {v : Nat → Option Nat} {q : Nat → Option Bool}
    (ho : ∀ l ∈ lanesOf (s.active h), ∀ m, lanesOf m = rset s h f l → out (gathered s f) (s.active h) l m = { val := v l, pred := q l }) :
    .next (s.groupWide h i f srcs ps d pd lat false out) = groupIssued s h f lat d pd v q := by
  have lane : ∀ l ∈ lanesOf (s.active h), laneOut s h f out l = { val := v l, pred := q l } :=
    fun l hl => ho l hl _ (lanesOf_partSet s h f l)
  rw [groupWide_ready r, groupIssued_eq, groupFold_untrapped _ _ _ fun l hl => by rw [lane l hl]; exact BitVec.zero_and]
  have hv : (lanesOf (s.active h)).map (fun l => valueWrites d l (laneOut s h f out l).val) =
      (lanesOf (s.active h)).map (fun l => valueWrites d l (v l)) := List.map_congr_left fun l hl => by rw [lane l hl]
  have hq : (lanesOf (s.active h)).map (fun l => predWrites pd l (laneOut s h f out l).pred) =
      (lanesOf (s.active h)).map (fun l => predWrites pd l (q l)) := List.map_congr_left fun l hl => by rw [lane l hl]
  have hf : (lanesOf (s.active h)).filter (fun l => (laneOut s h f out l).flags != 0) = [] :=
    List.filter_eq_nil_iff.2 fun l hl => by simp [lane l hl]
  rw [hv, hq, hf]
  rfl

/-- R38, R159: whatever its result, the threads of a group-wide issue go on at the successor and its completion is due lat cycles from now. -/
theorem groupUnderWay_moved (first : First s) (lat : Nat) (p : Pend) :
    Moved s ((gathered s f).groupUnderWay h lat p) h (fun _ => seqPos s.cur.pos) (fun _ t => t) ∧
    ⟨s.cur.core + 1, (s.core s.cur.core).cycles + lat, .groupWideCompletion s.fresh⟩ ∈ ((gathered s f).groupUnderWay h lat p).timers := by
  obtain ⟨hphase, -, -, -, -, present⟩ := first
  let u := ((((gathered s f).takeToken h).addPend p).inCycles s.cur.core lat (.groupWideCompletion s.fresh))
  have ht : (gathered s f).groupUnderWay h lat p = u.retire h (fun _ => seqPos s.cur.pos) := by
    simp only [State.groupUnderWay, State.retireSeq, u, State.inCycles_frame, State.addPend_frame, State.takeToken_frame, gathered_cur, gathered_core]
  have hcur : u.cur = (gathered s f).cur := by
    simp only [u, State.inCycles_frame, State.addPend_frame, State.takeToken_frame]
  have same : SameThreads s u := (SameThreads.useMasks s f).trans ((SameThreads.takeToken _ h).trans ((SameThreads.addPend _ p).trans (.inCycles _ _ _ _)))
  have hu : u.cur.phase = 0 := by simp only [hcur, gathered_cur, hphase]
  rw [ht]
  constructor
  · refine moved_of_sameThreads same (by simp only [hcur, gathered_cur, and_self]) (u.retire_moved h _ hu ?_)
    simpa only [same.present, hcur, gathered_cur] using present
  · rw [u.retire_timers h _ hu]
    simp [u, State.inCycles]

end Issue

end Sys2Proof.Machine
end

section
/-! SUPPORT. The value that each group-wide instruction gives a lane (R154, R163-R169). -/

namespace Sys2Proof.Machine

open Sys2Proof.Claims

/-- R163: predicate source S of a lane, negated or not, on a first issue. -/
theorem votePred_gathered {s : State} (first : First s) (f : FmtG) (k : Nat) : votePred f (gathered s f) k =
    ((f.modi.toNat / 32 % 8 == 7 || (mine s k).preds.getLsbD (f.modi.toNat / 32 % 8)) ^^ f.modi.getLsbD 8) := by
  obtain ⟨-, -, hc, -⟩ := first
  rw [votePred, gathered_lanePred s f k _ hc, bit_toNat, Bool.bne_eq_xor]
  rfl

/-- Operand a of a lane. -/
theorem srcVal_groupA (s : State) (f : FmtG) (k : Nat) : (gathered s f).srcVal k (groupA f) = opA s f k := by
  rw [groupA, opA]
  split <;> rfl

section Match

variable {s : State} {f : FmtG} {l : Nat} {m : BitVec 32}

theorem equalTo_gathered : (gathered s f).equalTo f l m = maskOf ((lanesOf m).filter (fun k => opA s f k == opA s f l)) := by
  simp only [State.equalTo, srcVal_groupA]

/-- Every lane of a set holds the operand of lane l. -/
theorem equalTo_eq_self : decide ((gathered s f).equalTo f l m = m) = (lanesOf m).all (fun k => opA s f k == opA s f l) := by
  rw [equalTo_gathered, Bool.eq_iff_iff, decide_eq_true_iff, maskOf_filter_eq_iff]

end Match

/-! ### shfl (R165) -/

/-- R165: the source lane of idx, up, down and xor, in a window of width w. -/
theorem shflSource_eq (v : BitVec 5) (w l n : Nat) : shflSource v.toNat w l n =
    if v = 0 then ((l / w * w + n % w : Nat) : Int) else if v = 1 then (l : Int) - n else if v = 2 then ((l + n : Nat) : Int)
    else ((l ^^^ (n % w) : Nat) : Int) := by
  unfold shflSource
  simp only [← Nat.div_mul_self_eq_mod_sub_self]
  split
  · next h => rw [if_pos (BitVec.eq_of_toNat_eq h)]
  · next h =>
    obtain rfl : v = 1 := BitVec.eq_of_toNat_eq h
    rfl
  · next h =>
    obtain rfl : v = 2 := BitVec.eq_of_toNat_eq h
    rfl
  · next h0 h1 h2 =>
    have other (x : BitVec 5) (h : v.toNat ≠ x.toNat) : v ≠ x := fun e => h (congrArg BitVec.toNat e)
    rw [if_neg (other 0 h0), if_neg (other 1 h1), if_neg (other 2 h2)]

/-! ### redux (R167) -/

/-- What redux gives a lane. -/
def reduxOut (v : BitVec 5) (f : FmtG) (s : State) (_ : BitVec 32) (_ : Nat) (r : BitVec 32) : LaneOut :=
  if f.modi.toNat % 16 = 8 then
    let x := reduxFloat v.toNat (flagFlushIn s.curLaunch.kr) (flagFlushOut s.curLaunch.kr)
      ((List.range 32).map (fun k => if r.getLsbD k then some (s.selWord k f.a.toNat).toNat else none))
    { val := some x.bits, flags := x.flags }
  else { val := some (reduxInt v.toNat (f.modi.toNat % 16) ((lanesOf r).map (fun k => (s.selWord k f.a.toNat).toNat))) }

theorem toNat_groupType (f : FmtG) : (f.modi.extractLsb' 0 4).toNat = f.modi.toNat % 16 := by
  rw [BitVec.extractLsb'_toNat, Nat.shiftRight_zero]

/-- The type of redux is f32. -/
theorem groupType_eq_f32 (f : FmtG) : f.modi.extractLsb' 0 4 = 8 ↔ f.modi.toNat % 16 = 8 := by
  rw [← toNat_groupType]
  exact ⟨congrArg BitVec.toNat, fun h => BitVec.eq_of_toNat_eq h⟩

section Redux

variable {s : State} {h : Hdr} {f : FmtG}

theorem exec_redux (op : BitVec 5) : exec (.redux h op f) s = .next (s.groupWide h (.redux h op f) f [.reg f.a.toNat] [] f.dst.toNat 7
    (if f.modi.toNat % 16 = 8 then 12 else 8) (f.modi.toNat % 16 == 8) (reduxOut op f)) := rfl

/-- Redux over integers or bit patterns gives each lane the value of its set. -/
theorem redux_word (r : GroupReady s h f [.reg f.a.toNat] [] f.dst.toNat 7) (hty : f.modi.extractLsb' 0 4 ≠ 8) {op : BitVec 5} {v : Nat → Word}
    (hv : ∀ l ∈ lanesOf (s.active h), reduxInt op.toNat (f.modi.extractLsb' 0 4).toNat
      ((rset s h f l).map (fun k => ((gathered s f).selWord k f.a.toNat).toNat)) = (v l).toNat) :
    exec (.redux h op f) s = groupIssued s h f 8 f.dst.toNat 7 (fun l => some (v l).toNat) (fun _ => none) := by
  have hn : ¬ f.modi.toNat % 16 = 8 := (groupType_eq_f32 f).not.1 hty
  rw [exec_redux, if_neg hn, beq_eq_false_iff_ne.2 hn]
  refine groupWide_issued r fun l hl m hm => ?_
  rw [reduxOut, if_neg hn, hm, ← toNat_groupType, hv l hl]

/-- The tree over the operands of a set, as redux forms it. -/
theorem reduxFloat_eq_reduced (op : BitVec 5) {m : BitVec 32} {K : List Nat} (hm : lanesOf m = K) :
    reduxFloat op.toNat (flagFlushIn (gathered s f).curLaunch.kr) (flagFlushOut (gathered s f).curLaunch.kr)
      ((List.range 32).map (fun k => if m.getLsbD k then some ((gathered s f).selWord k f.a.toNat).toNat else none)) = reduced s f op K := by
  have hzero : op.toNat = 0 ↔ op = 0 := ⟨fun e => BitVec.eq_of_toNat_eq e, congrArg BitVec.toNat⟩
  have htwo : (op.toNat == 2) = (op == 2) := by
    rw [Bool.eq_iff_iff, beq_iff_eq, beq_iff_eq]
    exact ⟨fun e => BitVec.eq_of_toNat_eq e, congrArg BitVec.toNat⟩
  simp only [reduxFloat, reduced, List.map_map, Function.comp_def, gathered_curLaunch, treeRoot_eq_treeAt, apply_ite (Option.map _),
    Option.map_some, Option.map_none, hzero, htwo, ← hm, lanesOf_contains, Nat.reducePow, ← Bool.decide_and]

variable (hty : f.modi.extractLsb' 0 4 = 8)
include hty

theorem laneOut_redux_float (op : BitVec 5) (l : Nat) : laneOut s h f (reduxOut op f) l =
    { val := some (reduced s f op (rset s h f l)).bits, flags := (reduced s f op (rset s h f l)).flags } := by
  rw [laneOut, reduxOut, if_pos ((groupType_eq_f32 f).1 hty)]
  simp only [reduxFloat_eq_reduced op (lanesOf_partSet s h f l)]

/-- Redux over f32 puts what the lanes compute under way, due in 12 cycles. -/
theorem redux_float (r : GroupReady s h f [.reg f.a.toNat] [] f.dst.toNat 7) (op : BitVec 5) : ∃ p : Pend,
    exec (.redux h op f) s = .next ((gathered s f).groupUnderWay h 12 p) ∧
    ((∀ l ∈ lanesOf (s.active h), (reduced s f op (rset s h f l)).flags &&& (mine s l).fpctl = 0) → p = { groupPend s h true with
      writes := ((lanesOf (s.active h)).map (fun l => laneWrites l f.dst.toNat false (reduced s f op (rset s h f l)).bits false)).flatten
      flags := ((lanesOf (s.active h)).filter (fun l => (reduced s f op (rset s h f l)).flags != 0)).map
        (fun l => (l, (reduced s f op (rset s h f l)).flags)) }) := by
  have hn := (groupType_eq_f32 f).1 hty
  rw [exec_redux, if_pos hn, beq_iff_eq.2 hn, groupWide_ready r]
  refine ⟨_, rfl, fun en => ?_⟩
  simp only [laneOut_redux_float hty]
  rw [groupFold_untrapped _ _ _ en]
  simp [valueWrites, predWrites, groupPend]

end Redux

end Sys2Proof.Machine

namespace Sys2Proof.Proofs.GroupWide

open Sys2Proof.Machine Sys2Proof.Claims

/-- R154, R163, R164, R169: on a first issue the predicates read as they stand. -/
theorem electVoteAndBallot : Claims.ElectVoteAndBallot := by
  intro s h f d pd q set ps
  have hq (first : First s) : votePred f (gathered s f) = q := funext (votePred_gathered first f)
  refine ⟨fun r => ?_, fun r => ⟨?_, ?_⟩, fun r => ?_, fun r => ?_⟩
  · exact groupWide_issued r fun l _ m hm => by simp only [lowest, hm, set, Bool.beq_eq_decide_eq]
  · exact groupWide_issued r fun l _ m hm => by simp only [hq r.1, hm, set]
  · exact groupWide_issued r fun l _ m hm => by simp only [hq r.1, hm, set]
  · exact groupWide_issued r fun l _ m hm => by simp only [hq r.1, hm, set]
  · exact groupWide_issued r fun _ _ _ _ => rfl

/-- R163, R168: the lanes of a set that hold the operand of lane l. -/
theorem groupMatches : Claims.GroupMatches := by
  intro s h f d pd a set same
  refine ⟨fun r => ?_, fun r => ?_, fun r => ?_⟩
  · exact groupWide_issued r fun l _ m hm => by simp only [equalTo_eq_self, hm, set, same]
  · exact groupWide_issued r fun l _ m hm => by simp only [equalTo_gathered, hm, set, same]
  · refine groupWide_issued r fun l _ m hm => ?_
    have hr : maskOf (set l) = m := by rw [← maskOf_lanesOf m, hm]
    simp only [equalTo_eq_self, hm, hr, set, same]

/-- R165, R166: a lane is in the set of lane l exactly when its bit is set in the mask that the instruction tests. -/
theorem shuffleAndExchange : Claims.ShuffleAndExchange := by
  intro s h f v _ d pd set code w word n q hit
  constructor
  · intro r
    refine groupWide_issued r fun l _ m hm => ?_
    have hc (k : Nat) : m.getLsbD k = (set l).contains k := by rw [← lanesOf_contains, hm]
    have hw : shflWidth (bits f.lane.toNat 7 5) = w := rfl
    have hn : (if f.b = 0x1FE then f.lane.toNat % 32 else ((gathered s f).selWord l f.b.toNat).toNat % 32) = n l := rfl
    have hq : shflSource v.toNat w l (n l) = q l := shflSource_eq v w l (n l)
    simp only [hw, hn, hq, hc, bit_toNat, ← Nat.div_mul_self_eq_mod_sub_self, ← Nat.cast_add]
    rfl
  · intro r
    refine groupWide_issued r fun l _ m hm => ?_
    have hc (k : Nat) : m.getLsbD k = (set l).contains k := by rw [← lanesOf_contains, hm]
    simp only [hc, word]

/-- R167: over integers and bit patterns each lane's set is combined in order; over f32 by the tree, whose root is flushed as R84 says also for
min and max (assumption log 49). -/
theorem reductions : Claims.Reductions := by
  intro s h f r ty set a gives
  have nonempty {l : Nat} (hl : l ∈ lanesOf (s.active h)) : set l ≠ [] := List.ne_nil_of_mem (mem_rset_self f hl)
  refine ⟨fun hty => ⟨?_, ?_, ?_, ?_⟩, fun hty => ?_, fun hty op _ => ?_, fun hty op => ?_⟩
  · exact ⟨_, fun _ _ => rfl, redux_word r hty fun l _ => reduxInt_add a (set l) _⟩
  · exact ⟨_, fun l hl i _ => getLsbD_foldWords_and a (nonempty hl) i, redux_word r hty fun l hl => reduxInt_and a (nonempty hl) _⟩
  · exact ⟨_, fun l hl i _ => getLsbD_foldWords_or a (nonempty hl) i, redux_word r hty fun l hl => reduxInt_or a (nonempty hl) _⟩
  · exact ⟨_, fun l hl => foldWords_xor a (nonempty hl), redux_word r hty fun l hl => reduxInt_xor a (nonempty hl) _⟩
  · have hn : ty ≠ 8 := by obtain hty | hty := hty <;> rw [hty] <;> decide
    refine ⟨⟨_, fun l hl => foldWords_keepLeast a (nonempty hl) (int32 ty), redux_word r hn fun l hl => reduxInt_min a (nonempty hl) hty⟩,
      ⟨_, fun l hl => ?_, redux_word r hn fun l hl => reduxInt_max a (nonempty hl) hty⟩⟩
    obtain ⟨hmem, hle⟩ := foldWords_keepLeast a (nonempty hl) (fun w => -int32 ty w)
    exact ⟨hmem, fun k hk => neg_le_neg_iff.1 (hle k hk)⟩
  · obtain ⟨p, hp, value⟩ := redux_float hty r op
    intro x act t p' en
    rw [hp, value en]
    simp only [State.groupUnderWay, gathered_cur]
    rfl
  · obtain ⟨p, hp, -⟩ := redux_float hty r op
    obtain ⟨first, -⟩ := r
    obtain ⟨moved, due⟩ := groupUnderWay_moved (h := h) (f := f) first 12 p
    exact ⟨_, hp, moved, due⟩

/-- Settles O13: each contributing lane's value is that of its instruction's rule over the lane's set R. -/
theorem groupWideInstructions : Obligations.GroupWideInstructions := ⟨electVoteAndBallot, groupMatches, shuffleAndExchange, reductions⟩

end Sys2Proof.Proofs.GroupWide
end

section
/-! SUPPORT. The point a core column goes to, what lowering columns leaves, and the steps of the power limit (R437, R439, R442). -/

namespace Sys2Proof.Machine

/-! ### Operating points (R437, R442) -/

/-- R440, R442: the point a column goes to when point p is asked for. -/
def State.allowedPoint (s : State) (c p : Nat) : Nat := if s.thermalHold then 3 else min 3 (max p (s.core c).cap)

theorem State.le_allowedPoint (s : State) (c : Nat) {n p : Nat} (h3 : n ≤ 3) (h : n ≤ p) : n ≤ s.allowedPoint c p := by
  unfold State.allowedPoint
  split <;> omega

section SetPoint

variable (s : State) (c p : Nat)

theorem State.setPoint_same (h : s.allowedPoint c p = (s.core c).point) : s.setPoint c p = s := if_pos h

theorem State.setPoint_change (h : s.allowedPoint c p ≠ (s.core c).point) : s.setPoint c p = s.tickFresh.modCore c (fun k =>
    { k with point := s.allowedPoint c p, stopped := s.tick + 1 + s.anyValue.toNat % Config.ticksPerMicrosecond }) := if_neg h

@[simp] theorem State.setPoint_frame : (s.setPoint c p).ctx = s.ctx ∧ (s.setPoint c p).thermalHold = s.thermalHold ∧
    (s.setPoint c p).thermalAt = s.thermalAt ∧ (s.setPoint c p).wear = s.wear := by
  by_cases h : s.allowedPoint c p = (s.core c).point
  · simp [s.setPoint_same c p h]
  · simp [s.setPoint_change c p h]

@[simp] theorem State.setPoint_point : ((s.setPoint c p).core c).point = s.allowedPoint c p := by
  by_cases h : s.allowedPoint c p = (s.core c).point
  · rw [s.setPoint_same c p h, h]
  · simp [s.setPoint_change c p h]

@[simp] theorem State.setPoint_cap : ((s.setPoint c p).core c).cap = (s.core c).cap := by
  by_cases h : s.allowedPoint c p = (s.core c).point
  · rw [s.setPoint_same c p h]
  · simp [s.setPoint_change c p h]

theorem State.setPoint_other {d : Nat} (hd : d ≠ c) : (s.setPoint c p).core d = s.core d := by
  by_cases h : s.allowedPoint c p = (s.core c).point
  · rw [s.setPoint_same c p h]
  · rw [s.setPoint_change c p h, State.modCore_other _ _ hd, s.tickFresh_reads.1]

/-- R437: the clock of a column whose point changes stands still for at most 1 µs. -/
theorem State.setPoint_stopped (h : s.allowedPoint c p ≠ (s.core c).point) :
    s.tick < ((s.setPoint c p).core c).stopped ∧ ((s.setPoint c p).core c).stopped ≤ s.tick + 1100 := by
  have : s.anyValue.toNat % 1100 < 1100 := Nat.mod_lt _ (by decide)
  simp only [s.setPoint_change c p h, State.modCore_self, Config.ticksPerMicrosecond]
  omega

end SetPoint

/-! ### Lowering (R439, R440) -/

section LowerTo

variable (s : State) (c p : Nat)

theorem State.lowerTo_same (h : p ≤ (s.core c).point) : s.lowerTo c p = s := if_pos h

theorem State.lowerTo_lower (h : (s.core c).point < p) :
    s.lowerTo c p = { s.setPoint c p with lowered := s.lowered ++ List.replicate (p - (s.core c).point) c } := if_neg (Nat.not_le.2 h)

@[simp] theorem State.lowerTo_frame : (s.lowerTo c p).ctx = s.ctx ∧ (s.lowerTo c p).thermalHold = s.thermalHold ∧
    (s.lowerTo c p).thermalAt = s.thermalAt := by
  rcases Nat.lt_or_ge (s.core c).point p with h | h
  · rw [s.lowerTo_lower c p h]
    obtain ⟨hctx, hhold, hat, -⟩ := s.setPoint_frame c p
    exact ⟨hctx, hhold, hat⟩
  · simp [s.lowerTo_same c p h]

theorem State.lowerTo_point (h : (s.core c).point < p) : ((s.lowerTo c p).core c).point = s.allowedPoint c p := by
  rw [s.lowerTo_lower c p h]
  exact s.setPoint_point c p

theorem State.lowerTo_other {d : Nat} (hd : d ≠ c) : (s.lowerTo c p).core d = s.core d := by
  rcases Nat.lt_or_ge (s.core c).point p with h | h
  · rw [s.lowerTo_lower c p h]
    exact s.setPoint_other c p hd
  · rw [s.lowerTo_same c p h]

/-- A column lowered to a point stands at it or below. -/
theorem State.le_lowerTo_self {n : Nat} (h3 : n ≤ 3) (hp : n ≤ p) : n ≤ ((s.lowerTo c p).core c).point := by
  rcases Nat.lt_or_ge (s.core c).point p with h | h
  · rw [s.lowerTo_point c p h]
    exact s.le_allowedPoint c h3 hp
  · rw [s.lowerTo_same c p h]
    exact hp.trans h

/-- Lowering a column raises none. -/
theorem State.le_lowerTo {n d : Nat} (h3 : n ≤ 3) (hd : n ≤ (s.core d).point) : n ≤ ((s.lowerTo c p).core d).point := by
  by_cases e : d = c
  · subst e
    rcases Nat.lt_or_ge (s.core d).point p with h | h
    · exact s.le_lowerTo_self d p h3 (hd.trans h.le)
    · rwa [s.lowerTo_same d p h]
  · rwa [s.lowerTo_other c p e]

end LowerTo

/-- R439, R440: several columns are lowered to a point. -/
def State.lowerAll (s : State) (l : List Nat) (p : Nat) : State := l.foldl (fun s c => s.lowerTo c p) s

@[simp] theorem State.lowerAll_ctx (s : State) (l : List Nat) (p : Nat) : (s.lowerAll l p).ctx = s.ctx :=
  List.foldlRecOn (motive := fun t : State => t.ctx = s.ctx) l _ rfl fun t h c _ => (t.lowerTo_frame c p).1.trans h

@[simp] theorem State.lowerAll_mem (s : State) (l : List Nat) (p : Nat) : (s.lowerAll l p).mem = s.mem :=
  foldl_mem (fun t c => (t.lowerTo_mem c p).1) l s

/-- Each of them stands at the point or below in the end. -/
theorem State.le_lowerAll {n p d : Nat} (h3 : n ≤ 3) (hp : n ≤ p) {l : List Nat} (s : State) (hd : d ∈ l) :
    n ≤ ((s.lowerAll l p).core d).point := by
  induction l generalizing s with
  | nil => exact absurd hd List.not_mem_nil
  | cons c r ih =>
    rcases List.mem_cons.1 hd with rfl | hr
    · exact List.foldlRecOn (motive := fun t : State => n ≤ (t.core d).point) r _ (s.le_lowerTo_self d p h3 hp)
        fun t h c _ => t.le_lowerTo c p h3 h
    · exact ih (s.lowerTo c p) hr

/-! ### The column that has metered the most (R439) -/

/-- R439: a column that the power limit may take next. -/
def State.takeable (s : State) (d : Nat) : Prop := d ∉ s.powerNext ∧ (s.core d).point < 3

/-- R439: a column against the one that has metered the most so far. -/
def State.hotter (s : State) (a : Option Nat) (d : Nat) : Option Nat :=
  if s.powerNext.contains d || (s.core d).point ≥ 3 then a
  else match a with
    | none => some d
    | some b => if s.metered10 d > s.metered10 b then some d else a

theorem State.hottest_eq_foldl (s : State) : s.hottest = (List.range 320).foldl s.hotter none := rfl

section Hottest

variable {s : State} {a : Option Nat} {c d : Nat}

theorem State.hotter_taken (h : ¬ s.takeable d) : s.hotter a d = a := by
  refine if_pos ?_
  simpa [State.takeable, Decidable.imp_iff_not_or] using h

theorem State.hotter_first (h : s.takeable d) : s.hotter none d = some d :=
  if_neg (by simpa [State.takeable] using h)

theorem State.hotter_next {b : Nat} (h : s.takeable d) : s.hotter (some b) d = if s.metered10 d > s.metered10 b then some d else some b :=
  if_neg (by simpa [State.takeable] using h)

/-- What is kept once the columns below n have had their turn: c itself where it is one of them, else a column that has metered less. -/
def State.leads (s : State) (c n : Nat) (a : Option Nat) : Prop :=
  (c < n → a = some c) ∧ (n ≤ c → ∀ b, a = some b → s.metered10 b < s.metered10 c)

/-- The turn of column n. -/
theorem State.leads_hotter {n : Nat} (h : s.leads c n a) (tc : s.takeable c)
    (most : s.takeable n → s.metered10 n < s.metered10 c ∨ s.metered10 n = s.metered10 c ∧ c ≤ n) : s.leads c (n + 1) (s.hotter a n) := by
  obtain ⟨after, before⟩ := h
  by_cases tn : s.takeable n
  · rcases Nat.lt_trichotomy c n with hc | rfl | hc
    · refine ⟨fun _ => ?_, fun h => absurd h (by omega)⟩
      rw [after hc, State.hotter_next tn]
      exact if_neg (by have := most tn; omega)
    · refine ⟨fun _ => ?_, fun h => absurd h (by omega)⟩
      cases a with
      | none => exact State.hotter_first tn
      | some b => rw [State.hotter_next tn, if_pos (before le_rfl b rfl)]
    · have hn : s.metered10 n < s.metered10 c := by have := most tn; omega
      refine ⟨fun h => absurd h (by omega), fun _ b hb => ?_⟩
      cases a with
      | none =>
        rw [State.hotter_first tn] at hb
        exact Option.some.inj hb ▸ hn
      | some e =>
        rw [State.hotter_next tn] at hb
        split at hb
        · exact Option.some.inj hb ▸ hn
        · exact before hc.le b hb
  · have hne : c ≠ n := fun e => tn (e ▸ tc)
    rw [State.hotter_taken tn]
    exact ⟨fun h => after (by omega), fun h => before (by omega)⟩

/-- R439: the lowest of the columns that have metered the most is the hottest. -/
theorem State.hottest_eq_some (hc : c < 320) (tc : s.takeable c)
    (most : ∀ d, d < 320 → s.takeable d → s.metered10 d < s.metered10 c ∨ s.metered10 d = s.metered10 c ∧ c ≤ d) :
    s.hottest = some c := by
  have turns (n : Nat) (hn : n ≤ 320) : s.leads c n ((List.range n).foldl s.hotter none) := by
    induction n with
    | zero => exact ⟨fun h => absurd h (Nat.not_lt_zero c), fun _ _ h => nomatch h⟩
    | succ n ih =>
      rw [List.range_succ, List.foldl_append]
      exact State.leads_hotter (ih (by omega)) tc (most n (by omega))
  obtain ⟨after, -⟩ := turns 320 le_rfl
  rw [s.hottest_eq_foldl]
  exact after hc

end Hottest

/-- R439: the power limit takes the hottest column that it has not taken yet, or starts anew where it has taken all. -/
def State.takeHottest (s : State) : State :=
  let t := if s.hottest.isNone then { s with powerNext := [] } else s
  match t.hottest with
  | some c => { t.lowerTo c ((t.core c).point + 1) with powerNext := t.powerNext ++ [c] }
  | none => t

theorem State.takeHottest_eq {s : State} {c : Nat} (h : s.hottest = some c) :
    s.takeHottest = { s.lowerTo c ((s.core c).point + 1) with powerNext := s.powerNext ++ [c] } := by
  have taken : ¬ s.hottest.isNone = true := by simp [h]
  unfold State.takeHottest
  rw [if_neg taken]
  dsimp only
  rw [h]

/-- Taking the hottest column writes no memory and raises no column. -/
theorem State.takeHottest_keeps (s : State) : s.takeHottest.mem = s.mem ∧
    ∀ n d, n ≤ 3 → n ≤ (s.core d).point → n ≤ (s.takeHottest.core d).point := by
  have ht : ∃ l, (if s.hottest.isNone then { s with powerNext := [] } else s) = { s with powerNext := l } := by
    split
    · exact ⟨[], rfl⟩
    · exact ⟨s.powerNext, rfl⟩
  obtain ⟨l, ht⟩ := ht
  dsimp only [State.takeHottest]
  rw [ht]
  generalize hu : ({ s with powerNext := l } : State) = u
  have hmem : u.mem = s.mem := by rw [← hu]
  have hcore : u.core = s.core := by rw [← hu]; rfl
  rw [← hmem, ← hcore]
  split
  · next c _ => exact ⟨(u.lowerTo_mem c _).1, fun n d h3 hd => u.le_lowerTo c _ h3 hd⟩
  · exact ⟨rfl, fun _ _ _ hd => hd⟩

section PowerSteps

variable (s : State) {mw : Nat}

theorem exec_powerLimitStep_below (h : mw ≤ 3100000) : exec (.powerLimitStep mw) s = .next { s with powerNext := [] } := by
  have h1 : ¬ mw > 3100000 := by omega
  have h2 : ¬ mw > 3200000 := by omega
  have h4 : ¬ mw > 3400000 := by omega
  refine congrArg Host.Outcome.next ((if_neg (by simp [h1, h2])).trans ((if_pos h).trans ?_))
  rw [if_neg h4]

theorem exec_powerLimitStep_between (h : 3100000 < mw) (h' : mw ≤ 3200000) (hp : s.powerNext = []) : exec (.powerLimitStep mw) s = .next s := by
  have h4 : ¬ mw > 3400000 := by omega
  have h2 : ¬ mw > 3200000 := by omega
  exact congrArg Host.Outcome.next ((if_neg (by simp [h2, hp])).trans ((if_neg (by omega)).trans (if_neg h4)))

theorem exec_powerLimitStep_above (h : 3200000 < mw) : exec (.powerLimitStep mw) s =
    .next (if mw > 3400000 then s.lowerAll (List.range 320) 2 else s).takeHottest := by
  have above : (decide (mw > 3200000) || (decide (mw > 3100000) && !s.powerNext.isEmpty)) = true := by simp [h]
  change execPowerLimitStep mw s = _
  unfold execPowerLimitStep State.lowerAll State.takeHottest
  generalize (if mw > 3400000 then (List.range 320).foldl (fun s c => s.lowerTo c 2) s else s) = v
  dsimp only
  refine (congrArg Host.Outcome.next (if_pos above)).trans ?_
  generalize (if v.hottest.isNone then { v with powerNext := [] } else v) = t
  cases t.hottest <;> rfl

theorem exec_powerRecoveryStep_raise (h : mw ≤ 3100000) (hold : s.thermalHold = false) {c : Nat} (last : s.lowered.getLast? = some c) :
    exec (.powerRecoveryStep mw) s = .next { s.setPoint c ((s.core c).point - 1) with lowered := s.lowered.dropLast } := by
  refine congrArg Host.Outcome.next ((if_neg ?_).trans ?_)
  · simp [hold, h]
  · rw [last]

theorem exec_powerRecoveryStep_none (h : 3100000 < mw ∨ s.thermalHold = true ∨ s.lowered = []) : exec (.powerRecoveryStep mw) s = .next s := by
  refine congrArg Host.Outcome.next ?_
  rcases h with h | h | h
  · exact if_pos (by simp [h])
  · exact if_pos (by simp [h])
  · rw [h]
    exact ite_self s

end PowerSteps

end Sys2Proof.Machine

namespace Sys2Proof.Proofs.Power

open Sys2Proof.Machine Sys2Proof.Claims

/-- R437, R439, R442: each step acts as its rule says; the columns it does not name stand as before. -/
theorem operatingPoints : Claims.OperatingPoints := by
  intro s c mw k q others below
  refine ⟨fun p hc => ?_, exec_powerLimitStep_below s, exec_powerLimitStep_between s, fun h h' hp hb most => ?_, fun h hc => ?_,
    fun h hold last => ?_, exec_powerRecoveryStep_none s⟩
  · have hexec : exec (.operatingPointChange c p) s = .next (s.setPoint c p) := congrArg Host.Outcome.next (if_pos hc)
    refine ⟨fun same => ?_, fun change => ⟨_, hexec, (s.setPoint_mem c p).1, fun d => s.setPoint_other c p, s.setPoint_point c p, ?_⟩⟩
    · rw [hexec, s.setPoint_same c p same]
    · exact s.setPoint_stopped c p change
  · obtain ⟨hc, h3⟩ := hb
    have hottest : s.hottest = some c := State.hottest_eq_some hc ⟨by simp [hp], h3⟩ fun d hd td => most d ⟨hd, td.2⟩
    have hexec := exec_powerLimitStep_above s h
    have up : (s.core c).point < (s.core c).point + 1 := Nat.lt_succ_self _
    rw [if_neg (by omega), State.takeHottest_eq hottest, hp] at hexec
    refine ⟨_, hexec, (s.lowerTo_mem c _).1, fun d => s.lowerTo_other c _, s.lowerTo_point c _ up, rfl, ?_⟩
    simp [s.lowerTo_lower c _ up]
  · obtain ⟨hmem, hpoint⟩ := (s.lowerAll (List.range 320) 2).takeHottest_keeps
    have hexec := exec_powerLimitStep_above s (mw := mw) (by omega)
    rw [if_pos h] at hexec
    exact ⟨_, hexec, hmem.trans (s.lowerAll_mem _ 2), hpoint 2 c (by decide) (s.le_lowerAll (by decide) le_rfl (List.mem_range.2 hc))⟩
  · exact ⟨_, exec_powerRecoveryStep_raise s h hold last, (s.setPoint_mem c _).1, fun d => s.setPoint_other c _, s.setPoint_point c _, rfl⟩

end Sys2Proof.Proofs.Power
end

section
/-! SUPPORT. What the thermal stop, a junction reading and a predicted life leave (R440-R442). -/

namespace Sys2Proof.Machine

/-! ### Resetting the started contexts (R360, R440) -/

@[simp] theorem State.takeHaltTick_frame (s : State) (die : Nat) : (s.takeHaltTick die).core = s.core ∧ (s.takeHaltTick die).ctx = s.ctx ∧
    (s.takeHaltTick die).thermalHold = s.thermalHold := by
  simp [State.takeHaltTick]

@[simp] theorem State.announceResetHalt_frame (s : State) (die x : Nat) : (s.announceResetHalt die x).core = s.core ∧
    (s.announceResetHalt die x).ctx = s.ctx ∧ (s.announceResetHalt die x).thermalHold = s.thermalHold := by
  simp only [State.announceResetHalt, State.takeHaltTick_frame]
  refine List.foldlRecOn (motive := fun t : State => t.core = s.core ∧ t.ctx = s.ctx ∧ t.thermalHold = s.thermalHold) _ _ ⟨rfl, rfl, rfl⟩ ?_
  intro t h c _
  simpa using h

theorem State.foldl_announceResetHalt_frame (s : State) (l : List Nat) (x : Nat) :
    (l.foldl (fun s d => s.announceResetHalt d x) s).core = s.core ∧ (l.foldl (fun s d => s.announceResetHalt d x) s).ctx = s.ctx ∧
    (l.foldl (fun s d => s.announceResetHalt d x) s).thermalHold = s.thermalHold := by
  refine List.foldlRecOn (motive := fun t : State => t.core = s.core ∧ t.ctx = s.ctx ∧ t.thermalHold = s.thermalHold) l _ ⟨rfl, rfl, rfl⟩ ?_
  intro t h d _
  simpa using h

/-- R360: the cores that hold work of a context. -/
def State.coresOfCtx (s : State) (x : Nat) : List Nat := s.coresOf (fun p => s.ctxOfWg p.1 = x && p.2.phase = 0)

/-- R360: a context in which a reset begins; its groups on its cores are to halt. -/
def State.resetBegun (s : State) (x reason : Nat) (stop : Bool) : State :=
  s.modCtx x (fun c => { c with st := 2, reason := reason, stopAfter := stop, resetCores := s.coresOfCtx x })

theorem State.reset1_eq (s : State) {x : Nat} (reason : Nat) (stop : Bool) (h : (s.ctx x).st = 1) :
    s.reset1 x reason stop =
      if (s.coresOfCtx x).isEmpty then ((List.range 4).foldl (fun s d => s.announceResetHalt d x) (s.resetBegun x reason stop)).inTicks
        Config.lecternLatency (.contextResetComplete x)
      else (List.range 4).foldl (fun s d => s.announceResetHalt d x) (s.resetBegun x reason stop) :=
  (if_neg (by omega)).trans (if_neg (by omega))

/-- R360: beside the change of the context, a reset of a started one only announces halts. -/
theorem State.reset1_begun (s : State) {x : Nat} (reason : Nat) (stop : Bool) (h : (s.ctx x).st = 1) :
    (s.reset1 x reason stop).core = s.core ∧ (s.reset1 x reason stop).ctx = (s.resetBegun x reason stop).ctx ∧
    (s.reset1 x reason stop).thermalHold = s.thermalHold := by
  have begun : (s.resetBegun x reason stop).core = s.core ∧ (s.resetBegun x reason stop).thermalHold = s.thermalHold := by simp [State.resetBegun]
  rw [s.reset1_eq reason stop h]
  split <;> simpa [State.foldl_announceResetHalt_frame] using begun

/-- R360: a reset of a started context changes it and no other, and no core. -/
theorem State.reset1_started (s : State) {x : Nat} (reason : Nat) (stop : Bool) (h : (s.ctx x).st = 1) :
    (s.reset1 x reason stop).core = s.core ∧ (s.reset1 x reason stop).thermalHold = s.thermalHold ∧
    ((s.reset1 x reason stop).ctx x).st = 2 ∧ ((s.reset1 x reason stop).ctx x).reason = reason ∧
    ∀ y, y ≠ x → (s.reset1 x reason stop).ctx y = s.ctx y := by
  obtain ⟨hcore, hctx, hhold⟩ := s.reset1_begun reason stop h
  rw [hctx]
  exact ⟨hcore, hhold, by simp [State.resetBegun], by simp [State.resetBegun], fun y hy => State.modCtx_other _ _ hy⟩

/-- R440: a context that is started is reset with reason 5. -/
def State.heatReset (s : State) (x : Nat) : State := if (s.ctx x).st = 1 then s.reset1 x 5 false else s

/-- R440: a context of which a reset with reason 5 has begun. -/
def State.heatStopped (s : State) (x : Nat) : Prop := (s.ctx x).st = 2 ∧ (s.ctx x).reason = 5

theorem State.heatReset_started {s : State} {x : Nat} (h : (s.ctx x).st = 1) : (s.heatReset x).heatStopped x := by
  obtain ⟨-, -, hst, hreason, -⟩ := s.reset1_started 5 false h
  rw [State.heatReset, if_pos h]
  exact ⟨hst, hreason⟩

theorem State.heatReset_other (s : State) {x y : Nat} (h : y ≠ x) : (s.heatReset x).ctx y = s.ctx y := by
  unfold State.heatReset
  split
  · next hx =>
    obtain ⟨-, -, -, -, others⟩ := s.reset1_started 5 false hx
    exact others y h
  · rfl

@[simp] theorem State.heatReset_frame (s : State) (x : Nat) : (s.heatReset x).core = s.core ∧ (s.heatReset x).thermalHold = s.thermalHold := by
  unfold State.heatReset
  split
  · next hx =>
    obtain ⟨hcore, hhold, -⟩ := s.reset1_started 5 false hx
    exact ⟨hcore, hhold⟩
  · exact ⟨rfl, rfl⟩

theorem State.heatStopped.heatReset {s : State} {y : Nat} (h : s.heatStopped y) (x : Nat) : (s.heatReset x).heatStopped y := by
  by_cases e : y = x
  · have hst : (s.ctx x).st ≠ 1 := by
      obtain ⟨hst, -⟩ := h
      rw [← e, hst]
      decide
    rwa [State.heatReset, if_neg hst]
  · rwa [State.heatStopped, s.heatReset_other e]

/-- Every context of a list that is started is reset. -/
theorem State.heatStopped_foldl {y : Nat} {l : List Nat} (s : State) (hy : y ∈ l) (h : (s.ctx y).st = 1) :
    (l.foldl State.heatReset s).heatStopped y := by
  induction l generalizing s with
  | nil => exact absurd hy List.not_mem_nil
  | cons x r ih =>
    by_cases e : y = x
    · subst e
      exact List.foldlRecOn (motive := fun t : State => t.heatStopped y) r _ (State.heatReset_started h) fun t ht z _ => ht.heatReset z
    · exact ih (s.heatReset x) ((List.mem_cons.1 hy).resolve_left e) (by rwa [s.heatReset_other e])

theorem State.foldl_heatReset_frame (s : State) (l : List Nat) :
    (l.foldl State.heatReset s).core = s.core ∧ (l.foldl State.heatReset s).thermalHold = s.thermalHold := by
  refine List.foldlRecOn (motive := fun t : State => t.core = s.core ∧ t.thermalHold = s.thermalHold) l _ ⟨rfl, rfl⟩ ?_
  intro t ht x _
  simpa using ht

theorem State.thermalStop_eq (s : State) :
    s.thermalStop = (List.range 64).foldl State.heatReset { s.lowerAll (List.range 320) 3 with thermalHold := true } := rfl

/-- R440: at 115 °C every core column is held at point 3 and every started context is reset with reason 5. -/
theorem State.thermalStop_holds (s : State) : s.thermalStop.thermalHold = true ∧ (∀ d, d < 320 → 3 ≤ (s.thermalStop.core d).point) ∧
    ∀ x, x < 64 → (s.ctx x).st = 1 → s.thermalStop.heatStopped x := by
  have low : ∀ d, d < 320 → 3 ≤ ((s.lowerAll (List.range 320) 3).core d).point := fun d hd => s.le_lowerAll le_rfl le_rfl (List.mem_range.2 hd)
  have hctx : (s.lowerAll (List.range 320) 3).ctx = s.ctx := s.lowerAll_ctx _ 3
  rw [s.thermalStop_eq]
  generalize s.lowerAll (List.range 320) 3 = v at low hctx ⊢
  obtain ⟨hcore, hhold⟩ := State.foldl_heatReset_frame { v with thermalHold := true } (List.range 64)
  refine ⟨hhold, fun d hd => ?_, fun x hx h => State.heatStopped_foldl _ (List.mem_range.2 hx) ?_⟩
  · rw [hcore]
    exact low d hd
  · rw [← hctx] at h
    exact h

/-! ### Junction readings (R440, Table 26-2) -/

theorem mem_of_tblFind {α : Type} {t : Tbl α} {k : Nat} {x : α} (h : tblFind t k = some x) : (k, x) ∈ t := by
  induction t with
  | nil => exact nomatch h
  | cons p r ih =>
    obtain ⟨j, y⟩ := p
    simp only [tblFind] at h
    split at h
    · next e => simp [← e, Option.some.inj h]
    · exact List.mem_cons_of_mem _ (ih h)

/-- R440: the state in which a reading has been noted, and the hold has ended where every junction reads below 95. -/
def State.noted (s : State) (c deg : Nat) : State :=
  let t := { s with junction := tblPut s.junction c deg }
  if t.thermalHold && t.junction.all (fun p => p.2 < 95) then { t with thermalHold := false } else t

section Noted

variable (s : State) (c deg : Nat)

@[simp] theorem State.noted_frame : (s.noted c deg).mem = s.mem ∧ (s.noted c deg).cores = s.cores ∧ (s.noted c deg).core = s.core ∧
    (s.noted c deg).ctx = s.ctx ∧ (s.noted c deg).tick = s.tick ∧ (s.noted c deg).thermalAt = s.thermalAt ∧
    (s.noted c deg).junction = tblPut s.junction c deg := by
  dsimp only [State.noted]
  split <;> exact ⟨rfl, rfl, rfl, rfl, rfl, rfl, rfl⟩

theorem State.noted_thermalHold :
    (s.noted c deg).thermalHold = (s.thermalHold && !(tblPut s.junction c deg).all (fun p => p.2 < 95)) := by
  dsimp only [State.noted]
  generalize (tblPut s.junction c deg).all (fun p => p.2 < 95) = cool
  cases cool with
  | false => simp
  | true => cases s.thermalHold <;> simp

/-- A reading of 95 or more keeps the hold. -/
theorem State.noted_keeps_hold (h : 95 ≤ deg) : (s.noted c deg).thermalHold = s.thermalHold := by
  have hall : (tblPut s.junction c deg).all (fun p => p.2 < 95) = false :=
    List.all_eq_false.2 ⟨(c, deg), mem_of_tblFind (tblFind_tblPut_self _ c deg), by simpa using h⟩
  simp [s.noted_thermalHold c deg, hall]

/-- Readings all below 95 end it. -/
theorem State.noted_ends_hold (h : deg < 95) (hj : ∀ p ∈ s.junction, p.2 < 95) : (s.noted c deg).thermalHold = false := by
  have hall : (tblPut s.junction c deg).all (fun p => p.2 < 95) = true := by
    refine List.all_eq_true.2 fun p hp => decide_eq_true ?_
    rcases mem_tblPut hp with rfl | hp
    · exact h
    · exact hj p hp
  simp [s.noted_thermalHold c deg, hall]

end Noted

/-- R440: 100 µs have passed since a column was lowered, or it never was. -/
theorem State.thermalDue_eq (s : State) (c : Nat) : s.thermalDue c = (tblFind s.thermalAt c).all (fun n => s.tick ≥ n + 110000) := by
  unfold State.thermalDue
  cases tblFind s.thermalAt c <;> rfl

/-- R440: beside the reading, the time at which a column is lowered for it has been noted. -/
def State.timed (s : State) (c deg : Nat) : State := { s.noted c deg with thermalAt := tblPut s.thermalAt c s.tick }

theorem State.timed_frame (s : State) (c deg : Nat) : (s.timed c deg).mem = s.mem ∧ (s.timed c deg).core = s.core ∧
    (s.timed c deg).thermalHold = (s.noted c deg).thermalHold ∧ (s.timed c deg).thermalAt = tblPut s.thermalAt c s.tick := by
  obtain ⟨hmem, -, hcore, -⟩ := s.noted_frame c deg
  exact ⟨hmem, hcore, rfl, rfl⟩

section ThermalAction

variable (s : State) {c deg : Nat}

theorem exec_thermalAction_stop (h : 115 ≤ deg) : exec (.thermalAction c deg) s = .next (s.noted c deg).thermalStop :=
  congrArg Host.Outcome.next (if_pos h)

theorem exec_thermalAction_set3 (h : 110 ≤ deg) (h' : deg < 115) (hc : c < 320) :
    exec (.thermalAction c deg) s = .next ((s.noted c deg).lowerTo c 3) :=
  congrArg Host.Outcome.next ((if_neg (by omega)).trans ((if_pos h).trans (if_pos hc)))

/-- R440: at 100 °C a column goes down a point where 100 µs have passed since it last did. -/
theorem exec_thermalAction_step (h : 100 ≤ deg) (h' : deg < 110) (hc : c < 320) (due : (s.noted c deg).thermalDue c = true) :
    exec (.thermalAction c deg) s = .next ((s.timed c deg).lowerTo c (min 3 ((s.core c).point + 1))) := by
  have old : (if c < 320 then ((s.noted c deg).core c).point else tblGet 0 (s.noted c deg).uncore c) = (s.core c).point := by simp [hc]
  obtain ⟨-, -, -, -, htick, hat, -⟩ := s.noted_frame c deg
  rw [State.timed, ← old, ← htick, ← hat]
  exact congrArg Host.Outcome.next ((if_neg (by omega)).trans ((if_neg (by omega)).trans ((if_pos h).trans ((if_pos due).trans (if_pos hc)))))

theorem exec_thermalAction_early (h : 100 ≤ deg) (h' : deg < 110) (due : (s.noted c deg).thermalDue c = false) :
    exec (.thermalAction c deg) s = .next (s.noted c deg) :=
  congrArg Host.Outcome.next ((if_neg (by omega)).trans ((if_neg (by omega)).trans ((if_pos h).trans (if_neg (Bool.eq_false_iff.1 due)))))

theorem exec_thermalAction_cool (h : deg < 100) :
    exec (.thermalAction c deg) s =
      .next (if c ≥ 320 then { s.noted c deg with uncore := tblSet 0 (s.noted c deg).uncore c 0 } else s.noted c deg) :=
  congrArg Host.Outcome.next ((if_neg (by omega)).trans ((if_neg (by omega)).trans (if_neg (by omega))))

end ThermalAction

/-! ### Predicted life (R441, R442) -/

/-- R441: the state in which a predicted life has been noted. -/
def State.predicted (s : State) (die column hours : Nat) : State :=
  { s with wear := tblPut s.wear (die * 124 + column) (BitVec.ofNat 32 (min hours (2 ^ 32 - 1))) }

/-- R442: a core column's cap is set, and its point goes down to it. -/
def State.capTo (s : State) (c cap : Nat) : State := (s.modCore c (fun k => { k with cap := cap })).setPoint c (max (s.core c).point cap)

theorem State.capTo_frame (s : State) (c cap : Nat) : (s.capTo c cap).mem = s.mem ∧ (s.capTo c cap).wear = s.wear := by
  simp [State.capTo]

theorem State.capTo_self (s : State) (c cap : Nat) : ((s.capTo c cap).core c).cap = cap ∧
    ((s.capTo c cap).core c).point = if s.thermalHold then 3 else min 3 (max (s.core c).point cap) := by
  simp [State.capTo, State.allowedPoint]

section Wear

variable (s : State) (die : Nat) {column : Nat} (hours : Nat)

theorem exec_wearPrediction_uncore (h : 80 ≤ column) : exec (.wearPrediction die column hours) s = .next (s.predicted die column hours) :=
  congrArg Host.Outcome.next (if_pos h)

theorem exec_wearPrediction_core (h : column < 80) :
    exec (.wearPrediction die column hours) s =
      .next ((s.predicted die column hours).capTo (die * 80 + column) (max (s.core (die * 80 + column)).cap (capOf hours))) :=
  congrArg Host.Outcome.next (if_neg (by omega))

/-- R442: the entry of an uncore column shows no cap. -/
theorem State.wearEntry_uncore (h : 80 ≤ column) : (s.wearEntry die column).getD 3 0 = 0 := by
  have : ¬ column < 80 := by omega
  simp [State.wearEntry, leBytes, this]

end Wear

end Sys2Proof.Machine

namespace Sys2Proof.Proofs.Power

open Sys2Proof.Machine Sys2Proof.Claims

/-- R440, R441, R442: a row of Table 26-2 for each range of a reading, and the cap that a predicted life gives. -/
theorem temperatureAndWear : Claims.TemperatureAndWear := by
  intro s c deg k
  obtain ⟨hmem, hcores, hcore, hctx, -, -, hjunction⟩ := s.noted_frame c deg
  refine ⟨fun h => ?_, fun h h' hc => ?_, fun h h' hc hold h3 never => ?_, fun n h h' last early => ?_, fun h => ?_,
    fun die i => s.wearEntry_uncore die, ?_⟩
  · obtain ⟨hold, low, reset⟩ := (s.noted c deg).thermalStop_holds
    rw [hctx] at reset
    exact ⟨_, exec_thermalAction_stop s h, (s.noted c deg).thermalStop_mem.1.trans hmem, hold, low, reset⟩
  · refine ⟨_, exec_thermalAction_set3 s h h' hc, ((s.noted c deg).lowerTo_mem c 3).1.trans hmem, ?_, fun d hd => ?_⟩
    · exact (s.noted c deg).le_lowerTo_self c 3 le_rfl le_rfl
    · rw [State.lowerTo_other _ _ _ hd, hcore]
  · have due : (s.noted c deg).thermalDue c = true := by simp [State.thermalDue_eq, never]
    have up : min 3 ((s.core c).point + 1) = (s.core c).point + 1 := Nat.min_eq_right h3
    have hexec := exec_thermalAction_step s h h' hc due
    rw [up] at hexec
    obtain ⟨umem, ucore, uhold, uat⟩ := s.timed_frame c deg
    rw [s.noted_thermalHold, hold, Bool.false_and] at uhold
    generalize s.timed c deg = u at hexec umem ucore uhold uat
    have lower : (u.core c).point < (s.core c).point + 1 := by rw [ucore]; exact Nat.lt_succ_self _
    refine ⟨_, hexec, (u.lowerTo_mem c _).1.trans umem, ?_, ?_, ?_⟩
    · rw [u.lowerTo_point c _ lower, State.allowedPoint, uhold, ucore]
      rfl
    · simp [uat, tblFind_tblPut_self]
    · simp [u.lowerTo_lower c _ lower, ucore]
  · have due : (s.noted c deg).thermalDue c = false := by simp [State.thermalDue_eq, last, early]
    exact ⟨_, exec_thermalAction_early s h h' due, hmem, hcores⟩
  · have cool : ∃ t, exec (.thermalAction c deg) s = .next t ∧ t.mem = (s.noted c deg).mem ∧ t.cores = (s.noted c deg).cores ∧
        t.junction = (s.noted c deg).junction ∧ t.thermalHold = (s.noted c deg).thermalHold := by
      refine ⟨_, exec_thermalAction_cool s h, ?_⟩
      split <;> exact ⟨rfl, rfl, rfl, rfl⟩
    obtain ⟨t, hexec, tmem, tcores, tjunction, thold⟩ := cool
    refine ⟨t, hexec, tmem.trans hmem, tcores.trans hcores, ?_, fun low all => ?_, fun high => ?_⟩
    · rw [tjunction, hjunction, tblFind_tblPut_self]
    · rw [thold, s.noted_ends_hold c deg low all]
    · rw [thold, s.noted_keeps_hold c deg high]
  · intro die column hours
    rcases Nat.lt_or_ge column 80 with h | h
    · refine ⟨_, exec_wearPrediction_core s die hours h, ?_⟩
      obtain ⟨umem, uwear⟩ := (s.predicted die column hours).capTo_frame (die * 80 + column) (max (s.core (die * 80 + column)).cap (capOf hours))
      obtain ⟨ucap, upoint⟩ := (s.predicted die column hours).capTo_self (die * 80 + column) (max (s.core (die * 80 + column)).cap (capOf hours))
      refine ⟨umem, ?_, fun h' => absurd h' (by omega), fun _ => ⟨ucap, ?_⟩⟩
      · rw [uwear]
        exact tblGet_tblPut_self _ _ _ _
      · rw [upoint, ucap]
        rfl
    · exact ⟨_, exec_wearPrediction_uncore s die hours h, rfl, tblGet_tblPut_self _ _ _ _, fun _ => rfl, fun h' => absurd h' (by omega)⟩

/-- Settles O44. How long the clock stops is free up to 1 µs (assumption log 4); that a column lowered for its temperature joins those the power
limit has lowered, and comes back with them, is the model's choice (log 41), as is how a cap follows a predicted life (log 42). -/
theorem powerTemperatureAndWear : Obligations.PowerTemperatureAndWear := ⟨operatingPoints, temperatureAndWear⟩

end Sys2Proof.Proofs.Power
end

section
/-! SUPPORT. Decoding and encoding are inverse to each other (R33, R69, Tables 02-4 to 02-11 and 04-5 to 04-12). -/

namespace Sys2Proof.Laws

/-! ### A word is its header and its body -/

/-- The 32 bits of the header and the 64 bits of the body. -/
theorem slot_eq_append (w : Slot) (b : BitVec 64) (h : b = w.extractLsb' 0 64) : Hdr.bits (slotOp w) (slotVariant w) (slotHdr w) ++ b = w := by
  subst h
  simp only [Hdr.bits, slotOp, slotVariant, slotHdr, Slot.field]
  repeat rw [BitVec.extractLsb'_append_extractLsb'_eq_extractLsb' (by decide)]
  simp

/-- The body of a word, as each of the seven formats reads it. -/
@[simp] theorem bits_slotA (w : Slot) : (slotA w).bits = w.extractLsb' 0 64 := by
  simp only [FmtA.bits, slotA, Slot.field]
  repeat rw [BitVec.extractLsb'_append_extractLsb'_eq_extractLsb' (by decide)]

@[simp] theorem bits_slotI (w : Slot) : (slotI w).bits = w.extractLsb' 0 64 := by
  simp only [FmtI.bits, slotI, Slot.field]
  repeat rw [BitVec.extractLsb'_append_extractLsb'_eq_extractLsb' (by decide)]

@[simp] theorem bits_slotM (w : Slot) : (slotM w).bits = w.extractLsb' 0 64 := by
  simp only [FmtM.bits, slotM, Slot.field]
  repeat rw [BitVec.extractLsb'_append_extractLsb'_eq_extractLsb' (by decide)]

@[simp] theorem bits_slotB (w : Slot) : (slotB w).bits = w.extractLsb' 0 64 := by
  simp only [FmtB.bits, slotB, Slot.field]
  repeat rw [BitVec.extractLsb'_append_extractLsb'_eq_extractLsb' (by decide)]

@[simp] theorem bits_slotG (w : Slot) : (slotG w).bits = w.extractLsb' 0 64 := by
  simp only [FmtG.bits, slotG, Slot.field]
  repeat rw [BitVec.extractLsb'_append_extractLsb'_eq_extractLsb' (by decide)]

@[simp] theorem bits_slotE (w : Slot) : (slotE w).bits = w.extractLsb' 0 64 := by
  simp only [FmtE.bits, slotE, Slot.field]
  repeat rw [BitVec.extractLsb'_append_extractLsb'_eq_extractLsb' (by decide)]

@[simp] theorem bits_slotS (w : Slot) : (slotS w).bits = w.extractLsb' 0 64 := by
  simp only [FmtS.bits, slotS, Slot.field]
  repeat rw [BitVec.extractLsb'_append_extractLsb'_eq_extractLsb' (by decide)]

/-! ### What each table decodes is encoded with the opcode, the variant and the body it was decoded from -/

/-- An instruction is encoded with an opcode, a variant and a header, and the body of a word. -/
def EncodesTo (w : Slot) (op : Nat) (v : BitVec 5) (h : Hdr) (i : Instr) : Prop :=
  ∃ b, i.parts = some ⟨BitVec.ofNat 10 op, v, h, b⟩ ∧ b.bits = w.extractLsb' 0 64

theorem plain_eq_some {v : BitVec 5} {i j : Instr} : plain v i = some j ↔ v = 0 ∧ i = j := by
  simp [plain]

variable {op : Nat} {v : BitVec 5} {h : Hdr} {w : Slot} {i : Instr}

theorem decodeAlu_encodes (d : decodeAlu op v h w = some i) : EncodesTo w op v h i := by
  unfold decodeAlu at d
  split at d
  case h_5 | h_6 | h_25 =>
    split_ifs at d <;> simp_all only [beq_iff_eq, Option.some.injEq] <;> subst d <;> exact ⟨_, rfl, by simp [Body.bits]⟩
  case h_34 | h_35 =>
    cases d
    exact ⟨_, rfl, by simp [Body.bits]⟩
  case h_39 => cases d
  all_goals
    obtain ⟨rfl, rfl⟩ := plain_eq_some.1 d
    exact ⟨_, rfl, by simp [Body.bits]⟩

theorem decodeImm_encodes (d : decodeImm op v h w = some i) : EncodesTo w op v h i := by
  unfold decodeImm at d
  split at d
  case h_3 =>
    split_ifs at d <;> simp_all only [beq_iff_eq, Option.some.injEq] <;> subst d <;> exact ⟨_, rfl, by simp [Body.bits]⟩
  case h_14 | h_15 =>
    cases d
    exact ⟨_, rfl, by simp [Body.bits]⟩
  case h_17 => cases d
  all_goals
    obtain ⟨rfl, rfl⟩ := plain_eq_some.1 d
    exact ⟨_, rfl, by simp [Body.bits]⟩

theorem decodeFloat_encodes (d : decodeFloat op v h w = some i) : EncodesTo w op v h i := by
  unfold decodeFloat at d
  split at d
  case h_7 =>
    cases d
    exact ⟨_, rfl, by simp [Body.bits]⟩
  case h_21 => cases d
  all_goals
    obtain ⟨rfl, rfl⟩ := plain_eq_some.1 d
    exact ⟨_, rfl, by simp [Body.bits]⟩

theorem decodeConvert_encodes (d : decodeConvert op v h w = some i) : EncodesTo w op v h i := by
  unfold decodeConvert at d
  split at d
  case h_1 =>
    cases d
    split <;> exact ⟨_, rfl, by simp [Body.bits]⟩
  case h_12 => cases d
  all_goals
    obtain ⟨rfl, rfl⟩ := plain_eq_some.1 d
    exact ⟨_, rfl, by simp [Body.bits]⟩

theorem decodeMemory_encodes (d : decodeMemory op v h w = some i) : EncodesTo w op v h i := by
  unfold decodeMemory at d
  split at d
  case h_17 =>
    split_ifs at d <;> simp_all only [beq_iff_eq, Option.some.injEq] <;> subst d <;> exact ⟨_, rfl, by simp [Body.bits]⟩
  case h_15 | h_16 =>
    cases d
    exact ⟨_, rfl, by simp [Body.bits]⟩
  case h_24 => cases d
  all_goals
    obtain ⟨rfl, rfl⟩ := plain_eq_some.1 d
    exact ⟨_, rfl, by simp [Body.bits]⟩

theorem decodeControl_encodes (d : decodeControl op v h w = some i) : EncodesTo w op v h i := by
  unfold decodeControl at d
  split at d
  case h_22 => cases d
  all_goals
    obtain ⟨rfl, rfl⟩ := plain_eq_some.1 d
    exact ⟨_, rfl, by simp [Body.bits]⟩

theorem decodeGroup_encodes (d : decodeGroup op v h w = some i) : EncodesTo w op v h i := by
  unfold decodeGroup at d
  split at d
  case h_1 | h_6 =>
    split_ifs at d <;> simp_all only [beq_iff_eq, Option.some.injEq] <;> subst d <;> exact ⟨_, rfl, by simp [Body.bits]⟩
  case h_3 | h_5 =>
    cases d
    exact ⟨_, rfl, by simp [Body.bits]⟩
  case h_8 => cases d
  all_goals
    obtain ⟨rfl, rfl⟩ := plain_eq_some.1 d
    exact ⟨_, rfl, by simp [Body.bits]⟩

theorem decodeEngine_encodes (d : decodeEngine op v h w = some i) : EncodesTo w op v h i := by
  unfold decodeEngine at d
  split at d
  case h_20 =>
    obtain ⟨rfl, rfl⟩ := plain_eq_some.1 d
    split <;> exact ⟨_, rfl, by simp [Body.bits]⟩
  case h_21 => cases d
  all_goals
    obtain ⟨rfl, rfl⟩ := plain_eq_some.1 d
    exact ⟨_, rfl, by simp [Body.bits]⟩

theorem decodeSystem_encodes (d : decodeSystem op v h w = some i) : EncodesTo w op v h i := by
  unfold decodeSystem at d
  split at d
  case h_11 | h_13 =>
    obtain ⟨rfl, rfl⟩ := plain_eq_some.1 d
    split <;> exact ⟨_, rfl, by simp [Body.bits]⟩
  case h_16 => cases d
  all_goals
    obtain ⟨rfl, rfl⟩ := plain_eq_some.1 d
    exact ⟨_, rfl, by simp [Body.bits]⟩

theorem decodeClass_encodes (d : decodeClass op v h w = some i) : EncodesTo w op v h i := by
  unfold decodeClass at d
  split at d
  · split at d
    · exact decodeAlu_encodes d
    · exact decodeImm_encodes d
  · exact decodeFloat_encodes d
  · exact decodeConvert_encodes d
  · exact decodeMemory_encodes d
  · exact decodeControl_encodes d
  · exact decodeGroup_encodes d
  · exact decodeEngine_encodes d
  · exact decodeSystem_encodes d

theorem decodeClass_of_decode (d : decode w = .ok i) : decodeClass (slotOp w).toNat (slotVariant w) (slotHdr w) w = some i := by
  unfold decode at d
  split at d
  next j hj => rw [hj, Except.ok.inj d]
  next => split at d <;> cases d

end Sys2Proof.Laws

namespace Sys2Proof.Proofs.Encoding

open Sys2Proof.Laws

/-- Settles O52: each constructor by its own law. -/
theorem decodeOfEncode : Obligations.DecodeOfEncode := fun i =>
  match i with
    | .add .. => RoundTrip.add _ _ | .addImm .. => RoundTrip.addImm _ _ | .sub .. => RoundTrip.sub _ _ | .subImm .. => RoundTrip.subImm _ _
    | .addc .. => RoundTrip.addc _ _ | .subc .. => RoundTrip.subc _ _ | .mulLo .. => RoundTrip.mulLo _ _ | .mulLoImm .. => RoundTrip.mulLoImm _ _
    | .mulHi .. => RoundTrip.mulHi _ _ | .mulHiImm .. => RoundTrip.mulHiImm _ _ | .mulWide .. => RoundTrip.mulWide _ _
    | .mulWideImm .. => RoundTrip.mulWideImm _ _ | .mad .. => RoundTrip.mad _ _ | .madWide .. => RoundTrip.madWide _ _
    | .minI .. => RoundTrip.minI _ _ | .minImm .. => RoundTrip.minImm _ _ | .maxI .. => RoundTrip.maxI _ _ | .maxImm .. => RoundTrip.maxImm _ _
    | .abs .. => RoundTrip.abs _ _ | .neg .. => RoundTrip.neg _ _ | .absdiff .. => RoundTrip.absdiff _ _ | .sad .. => RoundTrip.sad _ _
    | .dp4 .. => RoundTrip.dp4 _ _ | .dp2 .. => RoundTrip.dp2 _ _ | .lea .. => RoundTrip.lea _ _ | .leaImm .. => RoundTrip.leaImm _ _
    | .add64 .. => RoundTrip.add64 _ _ | .sub64 .. => RoundTrip.sub64 _ _ | .andB .. => RoundTrip.andB _ _ | .andImm .. => RoundTrip.andImm _ _
    | .orB .. => RoundTrip.orB _ _ | .orImm .. => RoundTrip.orImm _ _ | .xorB .. => RoundTrip.xorB _ _ | .xorImm .. => RoundTrip.xorImm _ _
    | .notB .. => RoundTrip.notB _ _ | .lop3 .. => RoundTrip.lop3 _ _ | .shl .. => RoundTrip.shl _ _ | .shlImm .. => RoundTrip.shlImm _ _
    | .shr .. => RoundTrip.shr _ _ | .shrImm .. => RoundTrip.shrImm _ _ | .sar .. => RoundTrip.sar _ _ | .sarImm .. => RoundTrip.sarImm _ _
    | .rot .. => RoundTrip.rot _ _ | .rotImm .. => RoundTrip.rotImm _ _ | .shfL .. => RoundTrip.shfL _ _ | .shfR .. => RoundTrip.shfR _ _
    | .bfe .. => RoundTrip.bfe _ _ | .bfi .. => RoundTrip.bfi _ _ | .brev .. => RoundTrip.brev _ _ | .popc .. => RoundTrip.popc _ _
    | .clz .. => RoundTrip.clz _ _ | .ctz .. => RoundTrip.ctz _ _ | .prmt .. => RoundTrip.prmt _ _ | .sel .. => RoundTrip.sel _ _
    | .cmp .. => RoundTrip.cmp _ _ _ | .cmpImm .. => RoundTrip.cmpImm _ _ _ | .setc .. => RoundTrip.setc _ _ _
    | .setcImm .. => RoundTrip.setcImm _ _ _ | .mov .. => RoundTrip.mov _ _ | .movImm .. => RoundTrip.movImm _ _ | .fadd .. => RoundTrip.fadd _ _
    | .fsub .. => RoundTrip.fsub _ _ | .fmul .. => RoundTrip.fmul _ _ | .ffma .. => RoundTrip.ffma _ _ | .fmin .. => RoundTrip.fmin _ _
    | .fmax .. => RoundTrip.fmax _ _ | .fcmp .. => RoundTrip.fcmp _ _ _ | .fclass .. => RoundTrip.fclass _ _ | .frint .. => RoundTrip.frint _ _
    | .ffrac .. => RoundTrip.ffrac _ _ | .fscale .. => RoundTrip.fscale _ _ | .fgetexp .. => RoundTrip.fgetexp _ _ | .dadd .. => RoundTrip.dadd _ _
    | .dmul .. => RoundTrip.dmul _ _ | .dfma .. => RoundTrip.dfma _ _ | .hadd2 .. => RoundTrip.hadd2 _ _ | .hmul2 .. => RoundTrip.hmul2 _ _
    | .hfma2 .. => RoundTrip.hfma2 _ _ | .bfadd2 .. => RoundTrip.bfadd2 _ _ | .bfma2 .. => RoundTrip.bfma2 _ _ | .cvt .. => RoundTrip.cvt _ _ _
    | .cvtSr .. => RoundTrip.cvtSr _ _ _ | .pk4 .. => RoundTrip.pk4 _ _ | .upk4 .. => RoundTrip.upk4 _ _ | .frcp .. => RoundTrip.frcp _ _
    | .frsq .. => RoundTrip.frsq _ _ | .fsqrt .. => RoundTrip.fsqrt _ _ | .fsin .. => RoundTrip.fsin _ _ | .fcos .. => RoundTrip.fcos _ _
    | .fex2 .. => RoundTrip.fex2 _ _ | .flg2 .. => RoundTrip.flg2 _ _ | .ftanh .. => RoundTrip.ftanh _ _
    | .specialFunctionCompletion .. => RoundTrip.specialFunctionCompletion _ | .ld .. => RoundTrip.ld _ _ | .st .. => RoundTrip.st _ _
    | .ldB .. => RoundTrip.ldB _ _ | .ldAcq .. => RoundTrip.ldAcq _ _ | .stRel .. => RoundTrip.stRel _ _ | .ldsp .. => RoundTrip.ldsp _ _
    | .stsp .. => RoundTrip.stsp _ _ | .ldcl .. => RoundTrip.ldcl _ _ | .stcl .. => RoundTrip.stcl _ _ | .ldds .. => RoundTrip.ldds _ _
    | .stds .. => RoundTrip.stds _ _ | .ldlp .. => RoundTrip.ldlp _ _ | .stlp .. => RoundTrip.stlp _ _ | .ldc .. => RoundTrip.ldc _ _
    | .atom .. => RoundTrip.atom _ _ _ | .red .. => RoundTrip.red _ _ _ | .fenceAcq .. => RoundTrip.fenceAcq _ _
    | .fenceRel .. => RoundTrip.fenceRel _ _ | .fenceAr .. => RoundTrip.fenceAr _ _ | .cwb .. => RoundTrip.cwb _ _ | .cinv .. => RoundTrip.cinv _ _
    | .cpf .. => RoundTrip.cpf _ _ | .rndAdv .. => RoundTrip.rndAdv _ _ | .rndGet .. => RoundTrip.rndGet _ _ | .pub .. => RoundTrip.pub _ _
    | .nop .. => RoundTrip.nop _ _ | .bra .. => RoundTrip.bra _ _ | .brx .. => RoundTrip.brx _ _ | .brz .. => RoundTrip.brz _ _
    | .brnz .. => RoundTrip.brnz _ _ | .call .. => RoundTrip.call _ _ | .callx .. => RoundTrip.callx _ _ | .ret .. => RoundTrip.ret _ _
    | .exitI .. => RoundTrip.exitI _ _ | .yield .. => RoundTrip.yield _ _ | .yieldTimeout .. => RoundTrip.yieldTimeout _ _ _
    | .bar .. => RoundTrip.bar _ _ | .barrierComplete .. => RoundTrip.barrierComplete _ _ | .bart .. => RoundTrip.bart _ _
    | .bartRelease .. => RoundTrip.bartRelease _ _ | .waitt .. => RoundTrip.waitt _ _ | .trapI .. => RoundTrip.trapI _ _
    | .rti .. => RoundTrip.rti _ _ | .elect .. => RoundTrip.elect _ _ | .pset .. => RoundTrip.pset _ _ | .pand .. => RoundTrip.pand _ _
    | .por .. => RoundTrip.por _ _ | .pxor .. => RoundTrip.pxor _ _ | .pnot .. => RoundTrip.pnot _ _ | .voteAll .. => RoundTrip.voteAll _ _
    | .voteAny .. => RoundTrip.voteAny _ _ | .voteEq .. => RoundTrip.voteEq _ _ | .ballot .. => RoundTrip.ballot _ _
    | .shfl .. => RoundTrip.shfl _ _ _ | .xchg .. => RoundTrip.xchg _ _ | .redux .. => RoundTrip.redux _ _ _ | .matchAny .. => RoundTrip.matchAny _ _
    | .matchAll .. => RoundTrip.matchAll _ _ | .gsync .. => RoundTrip.gsync _ _ | .groupWideCompletion .. => RoundTrip.groupWideCompletion _
    | .cpySlice .. => RoundTrip.cpySlice _ _ | .copyStart .. => RoundTrip.copyStart _ _ | .copyComplete .. => RoundTrip.copyComplete _ _
    | .cpyWait .. => RoundTrip.cpyWait _ _ | .ringInit .. => RoundTrip.ringInit _ _ | .ringPop .. => RoundTrip.ringPop _ _
    | .ringRel .. => RoundTrip.ringRel _ _ | .bufWait .. => RoundTrip.bufWait _ _ | .bufSet .. => RoundTrip.bufSet _ _
    | .opmClaim .. => RoundTrip.opmClaim _ _ | .opmRel .. => RoundTrip.opmRel _ _ | .mma .. => RoundTrip.mma _ _
    | .mmaAccept .. => RoundTrip.mmaAccept _ _ _ | .mmaComplete .. => RoundTrip.mmaComplete _ | .mmaWait .. => RoundTrip.mmaWait _ _
    | .accLd .. => RoundTrip.accLd _ _ | .accClr .. => RoundTrip.accClr _ _ | .amSend .. => RoundTrip.amSend _ _
    | .amPacketRetry .. => RoundTrip.amPacketRetry _ | .amDone .. => RoundTrip.amDone _ _ | .handlerSpawn .. => RoundTrip.handlerSpawn _ _
    | .ldP .. => RoundTrip.ldP _ _ | .mat .. => RoundTrip.mat _ _ | .pxrel .. => RoundTrip.pxrel _ _ | .pxq .. => RoundTrip.pxq _ _
    | .pxlease .. => RoundTrip.pxlease _ _ | .pxleaseRet .. => RoundTrip.pxleaseRet _ _ | .crossingReturn .. => RoundTrip.crossingReturn _ _ _ _
    | .homeOperationExecute .. => RoundTrip.homeOperationExecute _ | .leaseRequest .. => RoundTrip.leaseRequest _ _ _
    | .leaseGrant .. => RoundTrip.leaseGrant _ _ _ | .leaseRefuse .. => RoundTrip.leaseRefuse _ _ _
    | .releaseBatchSend .. => RoundTrip.releaseBatchSend _ _ | .slotFree .. => RoundTrip.slotFree _ _ | .rdsr .. => RoundTrip.rdsr _ _
    | .wrsr .. => RoundTrip.wrsr _ _ | .launch .. => RoundTrip.launch _ _ | .launchAt .. => RoundTrip.launchAt _ _
    | .launchAccept .. => RoundTrip.launchAccept _ | .timedLaunchRelease .. => RoundTrip.timedLaunchRelease _ | .brk .. => RoundTrip.brk _ _
    | .haltI .. => RoundTrip.haltI _ _ | .rfe .. => RoundTrip.rfe _ _ | .prog .. => RoundTrip.prog _ _ | .tmark .. => RoundTrip.tmark _ _
    | .vbtQuiesce .. => RoundTrip.vbtQuiesce _ _ | .vbtDriveWalk .. => RoundTrip.vbtDriveWalk _ _ | .vbtDriveFlat .. => RoundTrip.vbtDriveFlat _ _
    | .vbtSample .. => RoundTrip.vbtSample _ _ | .vbtRepGrp .. => RoundTrip.vbtRepGrp _ _ | .vbtRepRot .. => RoundTrip.vbtRepRot _ _
    | .vbtRetire .. => RoundTrip.vbtRetire _ _ | .vbtResume .. => RoundTrip.vbtResume _ _ | .lineRefetch .. => RoundTrip.lineRefetch _ _ _
    | .fixedLatencyWrite .. => RoundTrip.fixedLatencyWrite _ | .loadCompletion .. => RoundTrip.loadCompletion _
    | .fillArrival .. => RoundTrip.fillArrival _ | .storePerformedAtHome .. => RoundTrip.storePerformedAtHome _
    | .invalidationApply .. => RoundTrip.invalidationApply _ | .readMostlyCollapse .. => RoundTrip.readMostlyCollapse _
    | .gatherIdleFlush .. => RoundTrip.gatherIdleFlush _ _ | .settleEscape .. => RoundTrip.settleEscape _
    | .roundAnnouncementArrival .. => RoundTrip.roundAnnouncementArrival _ _ _ | .haltDelivery .. => RoundTrip.haltDelivery _ _
    | .launchHaltArrival .. => RoundTrip.launchHaltArrival _ _ | .pageFaultResolve .. => RoundTrip.pageFaultResolve _ _ _
    | .pageFaultTimeout .. => RoundTrip.pageFaultTimeout _ _ _ | .sliceExpiry .. => RoundTrip.sliceExpiry _
    | .workgroupPark .. => RoundTrip.workgroupPark _ | .preemptionLimitExpiry .. => RoundTrip.preemptionLimitExpiry _
    | .forcedReset .. => RoundTrip.forcedReset _ _ | .checkpoint .. => RoundTrip.checkpoint _ | .traceTimePacket .. => RoundTrip.traceTimePacket _
    | .traceLostPacket .. => RoundTrip.traceLostPacket _ | .sampleTick .. => RoundTrip.sampleTick _ | .trialEnd .. => RoundTrip.trialEnd _
    | .backgroundTestPass .. => RoundTrip.backgroundTestPass _ | .demandPreemptTest .. => RoundTrip.demandPreemptTest _ _
    | .busRetire .. => RoundTrip.busRetire _ _ | .stripeMigrate .. => RoundTrip.stripeMigrate _ | .rotationInterval .. => RoundTrip.rotationInterval _
    | .operatingPointChange .. => RoundTrip.operatingPointChange _ _ | .pubTranslationRetry .. => RoundTrip.pubTranslationRetry _ _ _
    | .commandTimeout .. => RoundTrip.commandTimeout _ | .amPacketArrival .. => RoundTrip.amPacketArrival _
    | .resetHaltArrival .. => RoundTrip.resetHaltArrival _ _ | .contextResetComplete .. => RoundTrip.contextResetComplete _
    | .mmaStart .. => RoundTrip.mmaStart _ | .launchStart .. => RoundTrip.launchStart _ | .teamPlace .. => RoundTrip.teamPlace _
    | .workgroupComplete .. => RoundTrip.workgroupComplete _ | .launchComplete .. => RoundTrip.launchComplete _
    | .issueCycle .. => RoundTrip.issueCycle _ _ | .gatherFlush .. => RoundTrip.gatherFlush _ _ | .lecternAnnounce .. => RoundTrip.lecternAnnounce _
    | .groupLower .. => RoundTrip.groupLower _ _ | .groupRaise .. => RoundTrip.groupRaise _ _ | .forcedLower .. => RoundTrip.forcedLower _
    | .asyncFaultArrival .. => RoundTrip.asyncFaultArrival _ _ _ _ _ | .workgroupSettle .. => RoundTrip.workgroupSettle _
    | .urgentPreempt .. => RoundTrip.urgentPreempt _ | .switchComplete .. => RoundTrip.switchComplete _
    | .workgroupResume .. => RoundTrip.workgroupResume _ | .energyIntervalClose .. => RoundTrip.energyIntervalClose _ _ _ _
    | .persistentErrorRepair .. => RoundTrip.persistentErrorRepair _ _ _ | .doubleError .. => RoundTrip.doubleError _ _ _ _ _
    | .powerLimitStep .. => RoundTrip.powerLimitStep _ | .powerRecoveryStep .. => RoundTrip.powerRecoveryStep _
    | .thermalAction .. => RoundTrip.thermalAction _ _ | .wearPrediction .. => RoundTrip.wearPrediction _ _ _
    | .kickPageWrite .. => RoundTrip.kickPageWrite _ _ _ | .hostApertureAccess .. => RoundTrip.hostApertureAccess _ _ _ _ _
    | .identify .. => RoundTrip.identify _ | .deviceQueryErrorCounts .. => RoundTrip.deviceQueryErrorCounts _ _
    | .deviceQueryMachineChecks .. => RoundTrip.deviceQueryMachineChecks _ _
    | .deviceQueryMalformedEntries .. => RoundTrip.deviceQueryMalformedEntries _ _ | .deviceQueryWear .. => RoundTrip.deviceQueryWear _ _
    | .deviceQueryRepairState .. => RoundTrip.deviceQueryRepairState _ _ | .deviceQueryEvents .. => RoundTrip.deviceQueryEvents _ _
    | .contextStart .. => RoundTrip.contextStart _ _ | .contextStop .. => RoundTrip.contextStop _ _ | .contextReset .. => RoundTrip.contextReset _ _
    | .rootLaunch .. => RoundTrip.rootLaunch _ _ _ | .contextQuery .. => RoundTrip.contextQuery _ _ | .quotaSet .. => RoundTrip.quotaSet _ _ _ _
    | .runListEdit .. => RoundTrip.runListEdit _ _ _ | .mapCmd .. => RoundTrip.mapCmd _ _ _ _ _
    | .handoverToDevice .. => RoundTrip.handoverToDevice _ _ _ _ | .handoverToHost .. => RoundTrip.handoverToHost _ _ _ _
    | .layoutWrite .. => RoundTrip.layoutWrite _ _ _ _ | .layoutInvalidate .. => RoundTrip.layoutInvalidate _ _ _
    | .windowBind .. => RoundTrip.windowBind _ _ _ _ _ _ _ | .windowUnbind .. => RoundTrip.windowUnbind _ _ _
    | .faultQuery .. => RoundTrip.faultQuery _ _ | .imageVerify .. => RoundTrip.imageVerify _ _ _ _ | .imageActivate .. => RoundTrip.imageActivate _
    | .attestationReport .. => RoundTrip.attestationReport _ _ | .identityPublicKey .. => RoundTrip.identityPublicKey _
    | .breakpointSet .. => RoundTrip.breakpointSet _ _ _ _ _ | .watchpointSet .. => RoundTrip.watchpointSet _ _ _ _ _ _
    | .debugHalt .. => RoundTrip.debugHalt _ _ _ | .debugResume .. => RoundTrip.debugResume _ _ | .stepCmd .. => RoundTrip.stepCmd _ _ _ _
    | .listStopped .. => RoundTrip.listStopped _ _ | .readThread .. => RoundTrip.readThread _ _ _ _ _
    | .writeThread .. => RoundTrip.writeThread _ _ _ _ _ _ | .readWorkgroup .. => RoundTrip.readWorkgroup _ _ _
    | .preciseStop .. => RoundTrip.preciseStop _ _ _ _ | .traceArm .. => RoundTrip.traceArm _ _ _ _ _ _ | .samplerArm .. => RoundTrip.samplerArm _ _
    | .trialArm .. => RoundTrip.trialArm _ _ | .queryTraceBytes .. => RoundTrip.queryTraceBytes _ _
    | .querySampleCounts .. => RoundTrip.querySampleCounts _ _ | .queryProgressCounters .. => RoundTrip.queryProgressCounters _ _
    | .queryTrialCounters .. => RoundTrip.queryTrialCounters _ _ | .queryEnergyAccounts .. => RoundTrip.queryEnergyAccounts _ _
    | .atsTranslationInvalidate .. => RoundTrip.atsTranslationInvalidate _ _
    | .timeBaseTick => RoundTrip.timeBaseTick | .deviceReset => RoundTrip.deviceReset

/-- Settles O53: the header of a word and its body are the bits it was decoded from. -/
theorem encodeOfDecode : Obligations.EncodeOfDecode := by
  intro w i d
  obtain ⟨b, parts, body⟩ := decodeClass_encodes (decodeClass_of_decode d)
  rw [encode, parts, Option.map_some, Parts.bits, BitVec.ofNat_toNat, BitVec.setWidth_eq, slot_eq_append w _ body]

/-- Settles O54: each word is decoded. -/
theorem wordsOfTheExamples : Obligations.WordsOfTheExamples := by
  unfold Obligations.WordsOfTheExamples
  decide +kernel

end Sys2Proof.Proofs.Encoding
end

section
/-! SUPPORT. Which instructions and events write memory, and that those which do keep it canonical (R193, R203-R205). -/

namespace Sys2Proof.Machine

open Sys2Proof.Claims

/-! ### Outcomes that leave memory alone -/

/-- Where the outcome is a next state, memory and host memory stand in it as before. -/
def Keeps (s : State) (o : Out) : Prop := ∀ t, o = .next t → t.mem = s.mem ∧ t.hostMem = s.hostMem

theorem Keeps.next {s t : State} (h : t.mem = s.mem ∧ t.hostMem = s.hostMem) : Keeps s (.next t) := by
  rintro _ ⟨⟩
  exact h

theorem foldl_keeps {α : Type} {f : State → α → State} (hf : ∀ s a, (f s a).mem = s.mem ∧ (f s a).hostMem = s.hostMem) (l : List α) (s : State) :
    (l.foldl f s).mem = s.mem ∧ (l.foldl f s).hostMem = s.hostMem :=
  ⟨foldl_mem (fun s a => (hf s a).1) l s, foldl_hostMem (fun s a => (hf s a).2) l s⟩

section Keeps

variable (s : State) (h : Hdr)

theorem execRingInit_keeps (f : FmtE) : Keeps s (execRingInit h f s) := by
  refine .next (State.lowOperands_mem _ _ _ _ _ _ _ fun t => ?_)
  dsimp only
  repeat' split
  all_goals simp

theorem execBufSet_keeps (f : FmtE) : Keeps s (execBufSet h f s) := by
  refine .next (State.lowOperands_mem _ _ _ _ _ _ _ fun t => ?_)
  dsimp only
  repeat' split
  all_goals simp

theorem execOpmClaim_keeps (f : FmtE) : Keeps s (execOpmClaim h f s) := by
  refine .next (State.withOperands_mem _ _ _ _ _ _ _ _ _ _ fun t => ?_)
  dsimp only
  repeat' split
  all_goals simp

theorem execOpmRel_keeps (f : FmtE) : Keeps s (execOpmRel h f s) := by
  refine .next (State.lowOperands_mem _ _ _ _ _ _ _ fun t => ?_)
  dsimp only
  repeat' split
  all_goals simp

theorem execAccLd_keeps (f : FmtE) : Keeps s (execAccLd h f s) := by
  refine .next (State.withOperands_mem _ _ _ _ _ _ _ _ _ _ fun t => ?_)
  dsimp only
  repeat' split
  all_goals simp

theorem execAmSend_keeps (f : FmtE) : Keeps s (execAmSend h f s) := by
  refine .next (State.withOperandsLate_mem _ _ _ _ _ _ _ _ _ _ _ (fun _ => ⟨rfl, rfl⟩) fun t => ?_)
  dsimp only
  split
  · simp
  · refine State.raiseFailed_mem _ _ _ _ fun u => ?_
    split <;> simp

theorem execLdP_keeps (f : FmtM) : Keeps s (execLdP h f s) := by
  refine .next (State.memOp_mem _ _ _ _ _ _ _ _ _ _ fun t a l => ?_)
  dsimp only
  repeat' split
  all_goals simp

theorem execVbtSample_keeps (f : FmtS) : Keeps s (execVbtSample h f s) := by
  refine .next (State.vbt_mem _ _ _ _ _ _ _ fun t a b n => ?_)
  dsimp only
  repeat' split
  all_goals simp

theorem execStepCmd_keeps (page : BitVec 6) (target : Long) (group lane : Word) : Keeps s (execStepCmd page target group lane s) := by
  unfold execStepCmd
  split
  · refine .next (State.stoppedWg_mem _ _ _ _ fun w => ?_)
    repeat' split
    all_goals simp
  · split
    · split <;> exact .next (by simp)
    · exact .next (by simp)

theorem execReadThread_keeps (page : BitVec 6) (target : Long) (group lane item : Word) : Keeps s (execReadThread page target group lane item s) := by
  refine .next (State.stoppedWg_mem _ _ _ _ fun w => ?_)
  repeat' split
  all_goals simp

theorem execWriteThread_keeps (page : BitVec 6) (target : Long) (group lane item : Word) (value : Long) :
    Keeps s (execWriteThread page target group lane item value s) := by
  refine .next (State.stoppedWg_mem _ _ _ _ fun w => ?_)
  dsimp only
  repeat' split
  all_goals simp

theorem execReadWorkgroup_keeps (page : BitVec 6) (target : Long) (item : Word) : Keeps s (execReadWorkgroup page target item s) := by
  refine .next (State.stoppedWg_mem _ _ _ _ fun w => ?_)
  repeat' split
  all_goals simp

theorem execAsyncFaultArrival_keeps (wg code lane : Nat) (pos tvalue : Long) : Keeps s (execAsyncFaultArrival wg code lane pos tvalue s) := by
  unfold execAsyncFaultArrival
  dsimp only
  repeat' split
  all_goals exact .next (by simp)

theorem execBackgroundTestPass_keeps (stack : Nat) : Keeps s (execBackgroundTestPass stack s) := by
  unfold execBackgroundTestPass
  dsimp only
  repeat' split
  all_goals exact .next (by simp)

theorem execBartRelease_keeps (set t : Nat) : Keeps s (execBartRelease set t s) := by
  unfold execBartRelease
  dsimp only
  repeat' split
  all_goals exact .next (by simp)

theorem execBusRetire_keeps (stack bus : Nat) : Keeps s (execBusRetire stack bus s) := by
  unfold execBusRetire
  dsimp only
  repeat' split
  all_goals exact .next (by simp)

theorem execCheckpoint_keeps (wg : Nat) : Keeps s (execCheckpoint wg s) := by
  unfold execCheckpoint
  dsimp only
  repeat' split
  all_goals exact .next (by simp)

theorem execCopyComplete_keeps (wg k : Nat) : Keeps s (execCopyComplete wg k s) := by
  unfold execCopyComplete
  dsimp only
  repeat' split
  all_goals exact .next (by simp)

theorem execCopyStart_keeps (wg k : Nat) : Keeps s (execCopyStart wg k s) := by
  unfold execCopyStart
  dsimp only
  repeat' split
  all_goals exact .next (by simp)

theorem execCpyWait_keeps (f : FmtE) : Keeps s (execCpyWait h f s) := by
  unfold execCpyWait
  dsimp only
  repeat' split
  all_goals exact .next (by simp)

theorem execCrossingReturn_keeps (core slot id k : Nat) : Keeps s (execCrossingReturn core slot id k s) := by
  unfold execCrossingReturn
  dsimp only
  repeat' split
  all_goals exact .next (by simp)

theorem execDebugHalt_keeps (page : BitVec 6) (target : Long) (all : Bool) : Keeps s (execDebugHalt page target all s) := by
  unfold execDebugHalt
  dsimp only
  repeat' split
  all_goals exact .next (by simp)

theorem execEnergyIntervalClose_keeps (kind column dynamic leakage : Nat) : Keeps s (execEnergyIntervalClose kind column dynamic leakage s) := by
  unfold execEnergyIntervalClose
  repeat' split
  all_goals exact .next (by simp)

theorem execFillArrival_keeps (id : Nat) : Keeps s (execFillArrival id s) := by
  unfold execFillArrival
  dsimp only
  repeat' split
  all_goals exact .next (by simp)

theorem execFixedLatencyWrite_keeps (id : Nat) : Keeps s (execFixedLatencyWrite id s) := by
  unfold execFixedLatencyWrite
  dsimp only
  repeat' split
  all_goals exact .next (by simp)

theorem execForcedLower_keeps (core : Nat) : Keeps s (execForcedLower core s) := by
  unfold execForcedLower
  dsimp only
  repeat' split
  all_goals exact .next (by simp)

theorem execHaltDelivery_keeps (wg part : Nat) : Keeps s (execHaltDelivery wg part s) := by
  unfold execHaltDelivery
  dsimp only
  repeat' split
  all_goals exact .next (by simp)

theorem execHandlerSpawn_keeps (core launch : Nat) : Keeps s (execHandlerSpawn core launch s) := by
  unfold execHandlerSpawn
  dsimp only
  repeat' split
  all_goals exact .next (by simp)

theorem execHomeOperationExecute_keeps (id : Nat) : Keeps s (execHomeOperationExecute id s) := by
  unfold execHomeOperationExecute
  dsimp only
  repeat' split
  all_goals exact .next (by simp)

theorem execImageActivate_keeps (page : BitVec 6) : Keeps s (execImageActivate page s) := by
  unfold execImageActivate
  dsimp only
  repeat' split
  all_goals exact .next (by simp)

theorem execInvalidationApply_keeps (core : Nat) : Keeps s (execInvalidationApply core s) := by
  unfold execInvalidationApply
  repeat' split
  all_goals exact .next (by simp)

theorem execLdAcq_keeps (f : FmtM) : Keeps s (execLdAcq h f s) := by
  unfold execLdAcq
  dsimp only
  repeat' split
  all_goals exact .next (by simp)

theorem execLeaseGrant_keeps (core ctx home : Nat) : Keeps s (execLeaseGrant core ctx home s) := by
  unfold execLeaseGrant
  dsimp only
  repeat' split
  all_goals exact .next (by simp)

theorem execLeaseRefuse_keeps (core ctx home : Nat) : Keeps s (execLeaseRefuse core ctx home s) := by
  unfold execLeaseRefuse
  repeat' split
  all_goals exact .next (by simp)

theorem execLecternAnnounce_keeps (die : Nat) : Keeps s (execLecternAnnounce die s) := by
  unfold execLecternAnnounce
  dsimp only
  repeat' split
  all_goals exact .next (by simp)

theorem execLoadCompletion_keeps (id : Nat) : Keeps s (execLoadCompletion id s) := by
  unfold execLoadCompletion
  dsimp only
  repeat' split
  all_goals exact .next (by simp)

theorem execMmaAccept_keeps (core slot id : Nat) : Keeps s (execMmaAccept core slot id s) := by
  unfold execMmaAccept
  dsimp only
  repeat' split
  all_goals exact .next (by simp)

theorem execMmaComplete_keeps (core : Nat) : Keeps s (execMmaComplete core s) := by
  unfold execMmaComplete
  dsimp only
  repeat' split
  all_goals exact .next (by simp)

theorem execMmaStart_keeps (core : Nat) : Keeps s (execMmaStart core s) := by
  unfold execMmaStart
  dsimp only
  repeat' split
  all_goals exact .next (by simp)

theorem execPageFaultResolve_keeps (core slot id : Nat) : Keeps s (execPageFaultResolve core slot id s) := by
  unfold execPageFaultResolve
  repeat' split
  all_goals exact .next (by simp)

theorem execPageFaultTimeout_keeps (core slot id : Nat) : Keeps s (execPageFaultTimeout core slot id s) := by
  unfold execPageFaultTimeout
  dsimp only
  repeat' split
  all_goals exact .next (by simp)

theorem execPowerLimitStep_keeps (milliwatts : Nat) : Keeps s (execPowerLimitStep milliwatts s) := by
  unfold execPowerLimitStep
  dsimp only
  repeat' split
  all_goals exact .next (by simp)

theorem execPowerRecoveryStep_keeps (milliwatts : Nat) : Keeps s (execPowerRecoveryStep milliwatts s) := by
  unfold execPowerRecoveryStep
  dsimp only
  repeat' split
  all_goals exact .next (by simp)

theorem execRdsr_keeps (f : FmtS) : Keeps s (execRdsr h f s) := by
  unfold execRdsr
  dsimp only
  repeat' split
  all_goals exact .next (by simp)

theorem execReadMostlyCollapse_keeps (id : Nat) : Keeps s (execReadMostlyCollapse id s) := by
  unfold execReadMostlyCollapse
  dsimp only
  repeat' split
  all_goals exact .next (by simp)

theorem execReleaseBatchSend_keeps (core home : Nat) : Keeps s (execReleaseBatchSend core home s) := by
  unfold execReleaseBatchSend
  dsimp only
  repeat' split
  all_goals exact .next (by simp)

theorem execResetHaltArrival_keeps (ctx core : Nat) : Keeps s (execResetHaltArrival ctx core s) := by
  unfold execResetHaltArrival
  dsimp only
  repeat' split
  all_goals exact .next (by simp)

theorem execRet_keeps (f : FmtB) : Keeps s (execRet h f s) := by
  unfold execRet
  dsimp only
  repeat' split
  all_goals exact .next (by simp)

theorem execRotationInterval_keeps (stack : Nat) : Keeps s (execRotationInterval stack s) := by
  unfold execRotationInterval
  dsimp only
  repeat' split
  all_goals exact .next (by simp)

theorem execRoundAnnouncementArrival_keeps (ctx slot : Nat) (round : Word) : Keeps s (execRoundAnnouncementArrival ctx slot round s) := by
  unfold execRoundAnnouncementArrival
  dsimp only
  repeat' split
  all_goals exact .next (by simp)

theorem execSettleEscape_keeps (settle : Nat) : Keeps s (execSettleEscape settle s) := by
  unfold execSettleEscape
  dsimp only
  repeat' split
  all_goals exact .next (by simp)

theorem execSliceExpiry_keeps (die : Nat) : Keeps s (execSliceExpiry die s) := by
  unfold execSliceExpiry
  dsimp only
  repeat' split
  all_goals exact .next (by simp)

theorem execSlotFree_keeps (home slot : Nat) : Keeps s (execSlotFree home slot s) := by
  unfold execSlotFree
  dsimp only
  repeat' split
  all_goals exact .next (by simp)

theorem execStripeMigrate_keeps (stack : Nat) : Keeps s (execStripeMigrate stack s) := by
  unfold execStripeMigrate
  dsimp only
  repeat' split
  all_goals exact .next (by simp)

theorem execSwitchComplete_keeps (die : Nat) : Keeps s (execSwitchComplete die s) := by
  unfold execSwitchComplete
  dsimp only
  repeat' split
  all_goals exact .next (by simp)

theorem execTeamPlace_keeps (launch : Nat) : Keeps s (execTeamPlace launch s) := by
  unfold execTeamPlace
  dsimp only
  repeat' split
  all_goals exact .next (by simp)

theorem execTimedLaunchRelease_keeps (launch : Nat) : Keeps s (execTimedLaunchRelease launch s) := by
  unfold execTimedLaunchRelease
  dsimp only
  repeat' split
  all_goals exact .next (by simp)

theorem execTraceLostPacket_keeps (core : Nat) : Keeps s (execTraceLostPacket core s) := by
  unfold execTraceLostPacket
  dsimp only
  repeat' split
  all_goals exact .next (by simp)

theorem execTrialEnd_keeps (ctx : Nat) : Keeps s (execTrialEnd ctx s) := by
  unfold execTrialEnd
  repeat' split
  all_goals exact .next (by simp)

theorem execUrgentPreempt_keeps (die : Nat) : Keeps s (execUrgentPreempt die s) := by
  unfold execUrgentPreempt
  repeat' split
  all_goals exact .next (by simp)

theorem execWindowUnbind_keeps (page : BitVec 6) (ctx window : Word) : Keeps s (execWindowUnbind page ctx window s) := by
  unfold execWindowUnbind
  dsimp only
  repeat' split
  all_goals exact .next (by simp)

theorem execWorkgroupComplete_keeps (wg : Nat) : Keeps s (execWorkgroupComplete wg s) := by
  unfold execWorkgroupComplete
  repeat' split
  all_goals exact .next (by simp)

theorem execWorkgroupResume_keeps (wg : Nat) : Keeps s (execWorkgroupResume wg s) := by
  unfold execWorkgroupResume
  dsimp only
  repeat' split
  all_goals exact .next (by simp)

theorem execWorkgroupSettle_keeps (wg : Nat) : Keeps s (execWorkgroupSettle wg s) := by
  unfold execWorkgroupSettle
  dsimp only
  repeat' split
  all_goals exact .next (by simp)

theorem execWrsr_keeps (f : FmtS) : Keeps s (execWrsr h f s) := by
  unfold execWrsr
  dsimp only
  repeat' split
  all_goals exact .next (by simp)

theorem execYield_keeps (f : FmtS) : Keeps s (execYield h f s) := by
  unfold execYield
  dsimp only
  repeat' split
  all_goals exact .next (by simp)

/-- A cycle of a partition looks at its groups one by one, and then issues at most one. -/
theorem execIssueCycle_keeps (core part : Nat) : Keeps s (execIssueCycle core part s) := by
  unfold execIssueCycle
  extract_lets s0 slots s1
  have h0 : s0.mem = s.mem ∧ s0.hostMem = s.hostMem := by
    simp only [s0]
    split <;> simp
  have h1 : s1.mem = s.mem ∧ s1.hostMem = s.hostMem := by simp [s1, h0]
  split
  next s2 ready looked =>
  have h2 : s2.mem = s.mem ∧ s2.hostMem = s.hostMem := by
    have e : s2 = (s2, ready).1 := rfl
    rw [e, ← looked, foldl_fst_mem, foldl_fst_hostMem]
    · exact h1
    all_goals
      intro a k
      dsimp only
      split <;> simp
  dsimp only
  repeat' split
  all_goals exact .next (by simp [h2])

end Keeps

/-- R203-R205: what an instruction or event outside the list does to memory: nothing. -/
theorem exec_keeps {i : Instr} (hw : ¬ WritesMemory i) (s : State) : Keeps s (exec i s) := by
  cases i
  case storePerformedAtHome | pub | launchAccept | launchStart | launchComplete | contextResetComplete | preciseStop | sampleTick | traceArm
    | queryTraceBytes | querySampleCounts | queryProgressCounters | queryTrialCounters | queryEnergyAccounts | samplerArm | layoutWrite
    | layoutInvalidate | workgroupPark | rootLaunch | mapCmd | handoverToDevice | handoverToHost | hostApertureAccess | timeBaseTick | windowBind
    | commandTimeout | deviceReset =>
    exact absurd (by simp [WritesMemory]) hw
  case ldAcq => exact execLdAcq_keeps _ _ _
  case ret => exact execRet_keeps _ _ _
  case yield => exact execYield_keeps _ _ _
  case bartRelease set t => exact execBartRelease_keeps _ set t
  case copyStart => exact execCopyStart_keeps _ _ _
  case copyComplete => exact execCopyComplete_keeps _ _ _
  case cpyWait => exact execCpyWait_keeps _ _ _
  case ringInit => exact execRingInit_keeps _ _ _
  case bufSet => exact execBufSet_keeps _ _ _
  case opmClaim => exact execOpmClaim_keeps _ _ _
  case opmRel => exact execOpmRel_keeps _ _ _
  case mmaAccept => exact execMmaAccept_keeps _ _ _ _
  case mmaStart => exact execMmaStart_keeps _ _
  case mmaComplete => exact execMmaComplete_keeps _ _
  case accLd => exact execAccLd_keeps _ _ _
  case amSend => exact execAmSend_keeps _ _ _
  case handlerSpawn => exact execHandlerSpawn_keeps _ _ _
  case ldP => exact execLdP_keeps _ _ _
  case crossingReturn => exact execCrossingReturn_keeps _ _ _ _ _
  case homeOperationExecute => exact execHomeOperationExecute_keeps _ _
  case leaseGrant => exact execLeaseGrant_keeps _ _ _ _
  case leaseRefuse => exact execLeaseRefuse_keeps _ _ _ _
  case releaseBatchSend => exact execReleaseBatchSend_keeps _ _ _
  case slotFree => exact execSlotFree_keeps _ _ _
  case rdsr => exact execRdsr_keeps _ _ _
  case wrsr => exact execWrsr_keeps _ _ _
  case teamPlace => exact execTeamPlace_keeps _ _
  case timedLaunchRelease => exact execTimedLaunchRelease_keeps _ _
  case workgroupComplete => exact execWorkgroupComplete_keeps _ _
  case vbtSample => exact execVbtSample_keeps _ _ _
  case issueCycle => exact execIssueCycle_keeps _ _ _
  case fixedLatencyWrite => exact execFixedLatencyWrite_keeps _ _
  case loadCompletion => exact execLoadCompletion_keeps _ _
  case fillArrival => exact execFillArrival_keeps _ _
  case invalidationApply => exact execInvalidationApply_keeps _ _
  case readMostlyCollapse => exact execReadMostlyCollapse_keeps _ _
  case settleEscape => exact execSettleEscape_keeps _ _
  case lecternAnnounce => exact execLecternAnnounce_keeps _ _
  case roundAnnouncementArrival => exact execRoundAnnouncementArrival_keeps _ _ _ _
  case forcedLower => exact execForcedLower_keeps _ _
  case haltDelivery => exact execHaltDelivery_keeps _ _ _
  case asyncFaultArrival => exact execAsyncFaultArrival_keeps _ _ _ _ _ _
  case workgroupSettle => exact execWorkgroupSettle_keeps _ _
  case pageFaultResolve => exact execPageFaultResolve_keeps _ _ _ _
  case pageFaultTimeout => exact execPageFaultTimeout_keeps _ _ _ _
  case sliceExpiry => exact execSliceExpiry_keeps _ _
  case urgentPreempt => exact execUrgentPreempt_keeps _ _
  case switchComplete => exact execSwitchComplete_keeps _ _
  case workgroupResume => exact execWorkgroupResume_keeps _ _
  case checkpoint => exact execCheckpoint_keeps _ _
  case traceLostPacket => exact execTraceLostPacket_keeps _ _
  case trialEnd => exact execTrialEnd_keeps _ _
  case energyIntervalClose => exact execEnergyIntervalClose_keeps _ _ _ _ _
  case backgroundTestPass => exact execBackgroundTestPass_keeps _ _
  case busRetire => exact execBusRetire_keeps _ _ _
  case stripeMigrate => exact execStripeMigrate_keeps _ _
  case rotationInterval => exact execRotationInterval_keeps _ _
  case powerLimitStep mw => exact execPowerLimitStep_keeps s mw
  case powerRecoveryStep mw => exact execPowerRecoveryStep_keeps s mw
  case windowUnbind => exact execWindowUnbind_keeps _ _ _ _
  case imageActivate => exact execImageActivate_keeps _ _
  case debugHalt => exact execDebugHalt_keeps _ _ _ _
  case stepCmd => exact execStepCmd_keeps _ _ _ _ _
  case readThread => exact execReadThread_keeps _ _ _ _ _ _
  case writeThread => exact execWriteThread_keeps _ _ _ _ _ _ _
  case readWorkgroup => exact execReadWorkgroup_keeps _ _ _ _
  case resetHaltArrival => exact execResetHaltArrival_keeps _ _ _
  all_goals exact .next (by simp)

/-! ### Outcomes that keep memory canonical -/

/-- Where memory and host memory are canonical and the outcome is a next state, they are canonical in it. -/
def KeepsInv (s : State) (o : Out) : Prop := Inv s → ∀ t, o = .next t → Inv t

theorem KeepsInv.of_keeps {s : State} {o : Out} (k : Keeps s o) : KeepsInv s o := by
  intro inv t ht
  obtain ⟨hm, hh⟩ := k t ht
  rwa [Inv, hm, hh]

theorem KeepsInv.next {s t : State} (h : Inv s → Inv t) : KeepsInv s (.next t) := by
  rintro inv _ ⟨⟩
  exact h inv

/-- Memory is written in its canonical form, host memory not at all. -/
theorem KeepsInv.device {s t : State} (wf : Memory.wf s.mem = true → Memory.wf t.mem = true) (host : t.hostMem = s.hostMem) : KeepsInv s (.next t) :=
  .next fun inv => ⟨wf inv.1, by rw [host]; exact inv.2⟩

/-- Host memory is written in its canonical form, memory not at all. -/
theorem KeepsInv.host {s t : State} (dev : t.mem = s.mem) (wf : Memory.wf s.hostMem = true → Memory.wf t.hostMem = true) : KeepsInv s (.next t) :=
  .next fun inv => ⟨by rw [dev]; exact inv.1, wf inv.2⟩

section Writers

variable (s : State)

theorem execStorePerformedAtHome_keepsInv (id : Nat) : KeepsInv s (execStorePerformedAtHome id s) := by
  unfold execStorePerformedAtHome
  dsimp only
  repeat' split
  all_goals exact .next fun inv => by simp [Inv, inv.1, inv.2, memSetAll_wf]

theorem execPub_keepsInv (h : Hdr) (f : FmtM) : KeepsInv s (execPub h f s) := by
  unfold execPub
  dsimp only
  repeat' split
  all_goals exact .next fun inv => by simp [Inv, inv.1, inv.2, State.publish_wf]

theorem execLaunchAccept_keepsInv (id : Nat) : KeepsInv s (execLaunchAccept id s) := by
  unfold execLaunchAccept
  dsimp only
  repeat' split
  all_goals exact .next fun inv => by simp [Inv, inv.1, inv.2, State.accept_wf]

theorem execLaunchStart_keepsInv (launch : Nat) : KeepsInv s (execLaunchStart launch s) := by
  unfold execLaunchStart
  dsimp only
  repeat' split
  all_goals exact .next fun inv => by simp [Inv, inv.1, inv.2, State.endLaunch_wf]

theorem execLaunchComplete_keepsInv (launch : Nat) : KeepsInv s (execLaunchComplete launch s) := by
  unfold execLaunchComplete
  dsimp only
  repeat' split
  all_goals exact .next fun inv => by simp [Inv, inv.1, inv.2, State.endLaunch_wf]

theorem execContextResetComplete_keepsInv (ctx : Nat) : KeepsInv s (execContextResetComplete ctx s) := by
  unfold execContextResetComplete
  dsimp only
  have ends (L : List (Nat × Launch)) (reason : Nat) (h : Memory.wf s.mem = true) :
      Memory.wf (L.foldl (fun s p => s.endLaunch p.1 2 reason) s).mem = true := foldl_wf (fun t p ht => t.endLaunch_wf _ _ _ ht) L s h
  repeat' split
  all_goals exact .next fun inv => by simp [Inv, inv.1, inv.2, ends]

theorem execPreciseStop_keepsInv (page : BitVec 6) (target interval count : Long) : KeepsInv s (execPreciseStop page target interval count s) := by
  unfold execPreciseStop
  dsimp only
  repeat' split
  all_goals exact .next fun inv => by simp [Inv, inv.1, inv.2, State.rollback_wf]

theorem execSampleTick_keepsInv (core : Nat) : KeepsInv s (execSampleTick core s) :=
  .device (foldl_wf (fun t p ht => t.sampleCtx_wf _ _ _ ht) _ _) (foldl_hostMem (fun t p => t.sampleCtx_hostMem _ _ _) _ _)

theorem execTraceArm_keepsInv (page : BitVec 6) (ctx : Word) (core enable : BitVec 16) (size : Word) (base : Long) : KeepsInv s (execTraceArm page ctx core enable size base s) := by
  unfold execTraceArm
  dsimp only
  repeat' split
  all_goals exact .next fun inv => by simp [Inv, inv.1, inv.2, State.drainAll_wf]

theorem execQueryTraceBytes_keepsInv (page : BitVec 6) (ctx : Word) : KeepsInv s (execQueryTraceBytes page ctx s) :=
  .device (s.query_wf page ctx _) (s.query_hostMem page ctx _)

theorem execQuerySampleCounts_keepsInv (page : BitVec 6) (ctx : Word) : KeepsInv s (execQuerySampleCounts page ctx s) :=
  .device (s.query_wf page ctx _) (s.query_hostMem page ctx _)

theorem execQueryProgressCounters_keepsInv (page : BitVec 6) (ctx : Word) : KeepsInv s (execQueryProgressCounters page ctx s) :=
  .device (s.query_wf page ctx _) (s.query_hostMem page ctx _)

theorem execQueryTrialCounters_keepsInv (page : BitVec 6) (ctx : Word) : KeepsInv s (execQueryTrialCounters page ctx s) :=
  .device (s.query_wf page ctx _) (s.query_hostMem page ctx _)

theorem execQueryEnergyAccounts_keepsInv (page : BitVec 6) (ctx : Word) : KeepsInv s (execQueryEnergyAccounts page ctx s) :=
  .device (s.query_wf page ctx _) (s.query_hostMem page ctx _)

theorem execSamplerArm_keepsInv (page : BitVec 6) (rec : BitVec 224) : KeepsInv s (execSamplerArm page rec s) := by
  unfold execSamplerArm
  dsimp only
  repeat' split
  all_goals exact .next fun inv => by simp [Inv, inv.1, inv.2, State.drainAll_wf]

theorem execLayoutWrite_keepsInv (page : BitVec 6) (ctx handle : Word) (rec : BitVec 512) : KeepsInv s (execLayoutWrite page ctx handle rec s) := by
  refine .device (fun wf => s.started_wf _ _ _ wf ?_) (s.started_keepsHost _ _ _ ?_)
  · repeat' split
    all_goals simp [wf, State.putLayout_wf]
  · repeat' split
    all_goals simp

theorem execLayoutInvalidate_keepsInv (page : BitVec 6) (ctx handle : Word) : KeepsInv s (execLayoutInvalidate page ctx handle s) := by
  refine .device (fun wf => s.started_wf _ _ _ wf ?_) (s.started_keepsHost _ _ _ ?_)
  · repeat' split
    all_goals simp [wf, State.putLayout_wf]
  · repeat' split
    all_goals simp

theorem execWorkgroupPark_keepsInv (wg : Nat) : KeepsInv s (execWorkgroupPark wg s) := by
  unfold execWorkgroupPark
  dsimp only
  repeat' split
  all_goals exact .next fun inv => by simp [Inv, inv.1, inv.2, State.saveWg_wf]

theorem execRootLaunch_keepsInv (page : BitVec 6) (ctx : Word) (va : Long) : KeepsInv s (execRootLaunch page ctx va s) := by
  refine .device (fun wf => s.started_wf _ _ _ wf ?_) (s.started_keepsHost _ _ _ ?_)
  · have accepted := s.accept_wf (rootSubmit ctx.toNat va.toNat) wf
    repeat' split
    all_goals simp_all
  · have accepted := s.accept_hostMem (rootSubmit ctx.toNat va.toNat)
    repeat' split
    all_goals simp_all

theorem execMapCmd_keepsInv (page : BitVec 6) (ctx : Word) (va : Long) (level : Word) (entry : Long) : KeepsInv s (execMapCmd page ctx va level entry s) := by
  unfold execMapCmd
  dsimp only
  split
  · split <;> exact .next fun inv => by simpa [Inv] using inv
  · refine .device (fun wf => s.started_wf _ _ _ wf ?_) (s.started_keepsHost _ _ _ ?_)
    · repeat' split
      all_goals simp [wf, memSetAll_wf]
    · repeat' split
      all_goals simp

theorem execHandoverToDevice_keepsInv (page : BitVec 6) (ctx : Word) (va len : Long) : KeepsInv s (execHandoverToDevice page ctx va len s) :=
  .device (s.handover_wf page ctx _ _ _) (s.handover_hostMem page ctx _ _ _)

theorem execHandoverToHost_keepsInv (page : BitVec 6) (ctx : Word) (va len : Long) : KeepsInv s (execHandoverToHost page ctx va len s) :=
  .device (s.handover_wf page ctx _ _ _) (s.handover_hostMem page ctx _ _ _)

theorem execHostApertureAccess_keepsInv (link : BitVec 1) (write : Bool) (pa len : Nat) (data : List Byte) : KeepsInv s (execHostApertureAccess link write pa len data s) := by
  unfold execHostApertureAccess
  dsimp only
  repeat' split
  all_goals exact .next fun inv => by simp [Inv, inv.1, inv.2, memSetAll_wf]

theorem execTimeBaseTick_keepsInv  : KeepsInv s (execTimeBaseTick  s) := by
  refine .device (fun wf => ?_) ?_
  · exact foldl_wf (fun t c ht => State.drainSome_wf _ _ (by simpa using ht)) _ _ (by simpa using wf)
  · exact (foldl_hostMem (fun t c => by simp) _ _).trans (by simp)

theorem execWindowBind_keepsInv (page : BitVec 6) (ctx window : Word) (va len host counter : Long) : KeepsInv s (execWindowBind page ctx window va len host counter s) := by
  unfold execWindowBind
  dsimp only
  refine .next fun inv => ?_
  rw [Inv, (s.started_mem page ctx _).1, (s.started_mem page ctx _).2]
  repeat' split
  all_goals simp [inv.1, inv.2, memSetAll_wf]

theorem execCommandTimeout_keepsInv (page : BitVec 6) : KeepsInv s (execCommandTimeout page s) := by
  unfold execCommandTimeout
  dsimp only
  split <;> exact .next fun inv => by simp [Inv, inv.1, inv.2, State.undoEntries_wf]

theorem execDeviceReset_keepsInv  : KeepsInv s (execDeviceReset  s) := by
  unfold execDeviceReset
  dsimp only
  refine .next fun inv => ?_
  rw [Inv, foldl_mem, foldl_hostMem]
  · split
    · exact inv
    · exact ⟨rfl, inv.2⟩
  all_goals simp

end Writers

/-- R193: what every instruction, event and command does to memory and host memory keeps them canonical. -/
theorem exec_keepsInv (i : Instr) (s : State) : KeepsInv s (exec i s) := by
  by_cases hw : WritesMemory i
  · rcases hw with ⟨_, rfl⟩ | ⟨_, _, rfl⟩ | ⟨_, rfl⟩ | ⟨_, rfl⟩ | ⟨_, rfl⟩ | ⟨_, rfl⟩ | ⟨_, _, _, _, rfl⟩ | ⟨_, rfl⟩
        | ⟨_, _, _, _, _, _, rfl⟩ | ⟨_, _, rfl⟩ | ⟨_, _, rfl⟩ | ⟨_, _, rfl⟩ | ⟨_, _, rfl⟩ | ⟨_, _, rfl⟩ | ⟨_, _, rfl⟩
        | ⟨_, _, _, _, rfl⟩ | ⟨_, _, _, rfl⟩ | ⟨_, rfl⟩ | ⟨_, _, _, rfl⟩ | ⟨_, _, _, _, _, rfl⟩ | ⟨_, _, _, _, rfl⟩
        | ⟨_, _, _, _, rfl⟩ | ⟨_, _, _, _, _, rfl⟩ | rfl | ⟨_, _, _, _, _, _, _, rfl⟩ | ⟨_, rfl⟩ | rfl
    · exact execStorePerformedAtHome_keepsInv _ _
    · exact execPub_keepsInv _ _ _
    · exact execLaunchAccept_keepsInv _ _
    · exact execLaunchStart_keepsInv _ _
    · exact execLaunchComplete_keepsInv _ _
    · exact execContextResetComplete_keepsInv _ _
    · exact execPreciseStop_keepsInv _ _ _ _ _
    · exact execSampleTick_keepsInv _ _
    · exact execTraceArm_keepsInv _ _ _ _ _ _ _
    · exact execQueryTraceBytes_keepsInv _ _ _
    · exact execQuerySampleCounts_keepsInv _ _ _
    · exact execQueryProgressCounters_keepsInv _ _ _
    · exact execQueryTrialCounters_keepsInv _ _ _
    · exact execQueryEnergyAccounts_keepsInv _ _ _
    · exact execSamplerArm_keepsInv _ _ _
    · exact execLayoutWrite_keepsInv _ _ _ _ _
    · exact execLayoutInvalidate_keepsInv _ _ _ _
    · exact execWorkgroupPark_keepsInv _ _
    · exact execRootLaunch_keepsInv _ _ _ _
    · exact execMapCmd_keepsInv _ _ _ _ _ _
    · exact execHandoverToDevice_keepsInv _ _ _ _ _
    · exact execHandoverToHost_keepsInv _ _ _ _ _
    · exact execHostApertureAccess_keepsInv _ _ _ _ _ _
    · exact execTimeBaseTick_keepsInv _
    · exact execWindowBind_keepsInv _ _ _ _ _ _ _ _
    · exact execCommandTimeout_keepsInv _ _
    · exact execDeviceReset_keepsInv _
  · exact .of_keeps (exec_keeps hw s)

theorem KeepsInv.of_same {s u : State} {o : Out} (k : KeepsInv u o) (same : u.mem = s.mem ∧ u.hostMem = s.hostMem) : KeepsInv s o := by
  intro inv
  refine k ?_
  rwa [Inv, same.1, same.2]

theorem Poll.run_keepsInv (p : Poll) (s : State) : KeepsInv s (p.run s) := by
  cases p with
  | timeBaseTick => exact exec_keepsInv (.timeBaseTick) _
  | resolve => exact .of_keeps (.next (by simp))
  | issueCycle => exact exec_keepsInv (.issueCycle _ _) _
  | slotLeave => exact .of_keeps (.next (by simp))
  | lecternAnnounce => exact exec_keepsInv (.lecternAnnounce _) _
  | launchStart => exact exec_keepsInv (.launchStart _) _
  | teamPlace => exact exec_keepsInv (.teamPlace _) _
  | workgroupComplete => exact exec_keepsInv (.workgroupComplete _) _
  | launchComplete => exact exec_keepsInv (.launchComplete _) _
  | workgroupSettle => exact exec_keepsInv (.workgroupSettle _) _
  | mmaStart => exact exec_keepsInv (.mmaStart _) _
  | copyMove => exact .of_keeps (.next (by simp))
  | groupLower => exact exec_keepsInv (.groupLower _ _) _
  | groupRaise => exact exec_keepsInv (.groupRaise _ _) _
  | forcedLower => exact exec_keepsInv (.forcedLower _) _
  | workgroupResume => exact exec_keepsInv (.workgroupResume _) _
  | urgentPreempt => exact exec_keepsInv (.urgentPreempt _) _
  | switchComplete => exact exec_keepsInv (.switchComplete _) _
  | energyClose => exact .of_keeps (.next (by simp))
  | powerLimit => exact exec_keepsInv (.powerLimitStep _) _
  | powerRecovery => exact exec_keepsInv (.powerRecoveryStep _) _
  | thermal => exact (exec_keepsInv (.thermalAction _ _) _).of_same (by simp)
  | wear => exact (exec_keepsInv (.wearPrediction _ _ _) _).of_same (by simp)

/-- A command is one of the commands of Table 22-4, waits, or is answered at once. -/
theorem runCommand_cases (page : Nat) (s : State) : (∃ i, runCommand page s = exec i s) ∨ runCommand page s = .next s ∨
    ∃ status, runCommand page s = .next (s.reply (BitVec.ofNat 6 page) status []) := by
  unfold runCommand
  extract_lets p k w d
  split
  · exact .inr (.inl rfl)
  split
  · exact .inr (.inr ⟨1, rfl⟩)
  split
  · exact .inr (.inr ⟨1, rfl⟩)
  split
  · exact .inr (.inr ⟨2, rfl⟩)
  repeat' split
  · exact .inl ⟨.identify _, rfl⟩
  · exact .inl ⟨.deviceQueryErrorCounts _ _, rfl⟩
  · exact .inl ⟨.deviceQueryMachineChecks _ _, rfl⟩
  · exact .inl ⟨.deviceQueryMalformedEntries _ _, rfl⟩
  · exact .inl ⟨.deviceQueryWear _ _, rfl⟩
  · exact .inl ⟨.deviceQueryRepairState _ _, rfl⟩
  · exact .inl ⟨.deviceQueryEvents _ _, rfl⟩
  · exact .inr (.inr ⟨2, rfl⟩)
  · exact .inl ⟨.contextStart _ _, rfl⟩
  · exact .inl ⟨.contextStop _ _, rfl⟩
  · exact .inl ⟨.contextReset _ _, rfl⟩
  · exact .inl ⟨.rootLaunch _ _ _, rfl⟩
  · exact .inl ⟨.contextQuery _ _, rfl⟩
  · exact .inl ⟨.quotaSet _ _ _ _, rfl⟩
  · exact .inl ⟨.runListEdit _ _ _, rfl⟩
  · exact .inl ⟨.mapCmd _ _ _ _ _, rfl⟩
  · exact .inl ⟨.handoverToDevice _ _ _ _, rfl⟩
  · exact .inl ⟨.handoverToHost _ _ _ _, rfl⟩
  · exact .inl ⟨.layoutWrite _ _ _ _, rfl⟩
  · exact .inl ⟨.layoutInvalidate _ _ _, rfl⟩
  · exact .inl ⟨.windowBind _ _ _ _ _ _ _, rfl⟩
  · exact .inl ⟨.windowUnbind _ _ _, rfl⟩
  · exact .inl ⟨.breakpointSet _ _ _ _ _, rfl⟩
  · exact .inl ⟨.watchpointSet _ _ _ _ _ _, rfl⟩
  · exact .inl ⟨.debugHalt _ _ _, rfl⟩
  · exact .inl ⟨.debugResume _ _, rfl⟩
  · exact .inl ⟨.stepCmd _ _ _ _, rfl⟩
  · exact .inl ⟨.listStopped _ _, rfl⟩
  · exact .inl ⟨.readThread _ _ _ _ _, rfl⟩
  · exact .inl ⟨.writeThread _ _ _ _ _ _, rfl⟩
  · exact .inl ⟨.readWorkgroup _ _ _, rfl⟩
  · exact .inl ⟨.preciseStop _ _ _ _, rfl⟩
  · exact .inl ⟨.traceArm _ _ _ _ _ _, rfl⟩
  · exact .inl ⟨.samplerArm _ _, rfl⟩
  · exact .inl ⟨.trialArm _ _, rfl⟩
  · exact .inl ⟨.queryTraceBytes _ _, rfl⟩
  · exact .inl ⟨.querySampleCounts _ _, rfl⟩
  · exact .inl ⟨.queryProgressCounters _ _, rfl⟩
  · exact .inl ⟨.queryTrialCounters _ _, rfl⟩
  · exact .inl ⟨.queryEnergyAccounts _ _, rfl⟩
  · exact .inr (.inr ⟨2, rfl⟩)
  · exact .inl ⟨.faultQuery _ _, rfl⟩
  · exact .inl ⟨.imageVerify _ _ _ _, rfl⟩
  · exact .inl ⟨.imageActivate _, rfl⟩
  · exact .inl ⟨.attestationReport _ _, rfl⟩
  · exact .inl ⟨.identityPublicKey _, rfl⟩

theorem runCommand_keepsInv (page : Nat) (s : State) : KeepsInv s (runCommand page s) := by
  obtain ⟨i, e⟩ | e | ⟨status, e⟩ := runCommand_cases page s
  · exact e ▸ exec_keepsInv i s
  · exact e ▸ .of_keeps (.next ⟨rfl, rfl⟩)
  · exact e ▸ .of_keeps (.next (by simp))

theorem step_keepsInv (s : State) : KeepsInv s (step s) := by
  unfold step
  split
  · exact .of_keeps (.next (by simp))
  · exact (exec_keepsInv _ _).of_same ⟨rfl, rfl⟩
  · exact (Poll.run_keepsInv _ _).of_same ⟨rfl, rfl⟩
  · exact (runCommand_keepsInv _ _).of_same ⟨rfl, rfl⟩
  · exact .of_keeps (.next (by simp))
  · exact (exec_keepsInv _ _).of_same (by simp)
  · next k r _ =>
    have fetched := State.fetch_mem { s with agenda := r, cur := k }
    split
    · split
      next u i e =>
        rw [e] at fetched
        exact (exec_keepsInv _ _).of_same (by simpa using fetched)
      next u e =>
        rw [e] at fetched
        exact .of_keeps (.next fetched)
    · rintro _ _ ⟨⟩

end Sys2Proof.Machine

namespace Sys2Proof.Proofs.Memory

open Sys2Proof.Machine

/-- Settles O59: each instruction outside the list is made of operations that leave memory alone. -/
theorem onlyTheseChangeMemory : Obligations.OnlyTheseChangeMemory := fun _ s t hw => exec_keeps hw s t

/-- Settles O57: a step is an instruction, an event, a command or the scheduler's own, and each keeps the invariant. -/
theorem everyStepKeepsTheInvariant : Obligations.EveryStepKeepsTheInvariant := fun s t inv e => step_keepsInv s inv t e

/-- Settles O58: memory and host memory list nothing. -/
theorem theInvariantHoldsAtReset : Obligations.TheInvariantHoldsAtReset := ⟨rfl, rfl⟩

/-- Settles O60: a table that lists nothing reads as its default, and the bank groups in reserve are the two that are listed. -/
theorem resetState : Obligations.ResetState := by
  refine ⟨rfl, rfl, rfl, rfl, rfl, rfl, rfl, rfl, fun c => ⟨rfl, rfl, rfl⟩, fun p => ⟨rfl, rfl⟩, fun n => ⟨fun b g => rfl, fun l hl => ⟨rfl, ?_⟩, rfl, rfl, rfl, rfl⟩⟩
  have low : 32 ≠ l ∧ 33 ≠ l := by omega
  simp [State.home, State.reset, Home.bgState, tblGet, tblFind, low]

end Sys2Proof.Proofs.Memory
end

section
/-! SUPPORT. What retiring an issue leaves alone, in every field of the state (R38, R133, R392, R399), and what raising a token does (R20). -/

namespace Sys2Proof.Machine

open Sys2Proof.Claims

/-! ### What stands when an issue retires -/

/-- Two states that differ in no more than what retiring an issue changes: the traces of cores and groups, threads, and the counts, schedule
logs and finished steps of workgroups. -/
structure Retired (s t : State) : Prop where
  state : t = { s with cores := t.cores, groups := t.groups, wgs := t.wgs }
  core : ∀ c, t.core c = { s.core c with trace := (t.core c).trace }
  present : ∀ c q, t.hasGroup c q = s.hasGroup c q
  group : ∀ c q, t.group c q = { s.group c q with threads := (t.group c q).threads, trace := (t.group c q).trace }
  wg : ∀ w, t.wg w = { s.wg w with rwc := (t.wg w).rwc, replay := (t.wg w).replay, stepDone := (t.wg w).stepDone }
  all : ∀ P : Group → Prop, (∀ g l x, P g → P { g with threads := l, trace := x }) → (∀ p ∈ s.groups, P p.2) → ∀ p ∈ t.groups, P p.2

theorem Retired.refl (s : State) : Retired s s := ⟨rfl, fun _ => rfl, fun _ _ => rfl, fun _ _ => rfl, fun _ => rfl, fun _ _ h => h⟩

theorem Retired.trans {s t u : State} (h : Retired s t) (k : Retired t u) : Retired s u where
  state := by rw [k.state, h.state]
  core c := by rw [k.core, h.core]
  present c q := (k.present c q).trans (h.present c q)
  group c q := by rw [k.group, h.group]
  wg w := by rw [k.wg, h.wg]
  all P keeps hs := k.all P keeps (h.all P keeps hs)

/-- Where only the workgroups change, and of them only what retiring changes. -/
theorem Retired.modWg (s : State) (w : Nat) (f : Workgroup → Workgroup)
    (hf : ∀ x, f x = { x with rwc := (f x).rwc, replay := (f x).replay, stepDone := (f x).stepDone } := by intro _; rfl) :
    Retired s (s.modWg w f) where
  state := rfl
  core _ := rfl
  present _ _ := rfl
  group _ _ := rfl
  wg v := by
    by_cases e : v = w
    · rw [e, s.modWg_self]
      exact hf _
    · rw [s.modWg_other f e]
  all _ _ h := h

/-- Where only a core's trace changes. -/
theorem Retired.traceBytes (s : State) (core : Nat) (l : List Byte) : Retired s (s.traceBytes core l) where
  state := rfl
  core c := by
    unfold State.traceBytes
    by_cases e : c = core
    · rw [e, s.modCore_self]
    · rw [s.modCore_other _ e]
  present _ _ := rfl
  group _ _ := rfl
  wg _ := rfl
  all _ _ h := h

/-- What holds of every group holds of every group after one has changed, where the change keeps it. -/
theorem State.modGroup_all (s : State) (core slot : Nat) (f : Group → Group) {P : Group → Prop} (hs : ∀ p ∈ s.groups, P p.2) (hf : ∀ g, P g → P (f g)) :
    ∀ p ∈ (s.modGroup core slot f).groups, P p.2 := by
  unfold State.modGroup
  split
  next h =>
    intro p hp
    rcases mem_tblPut hp with rfl | old
    · obtain ⟨g, hg⟩ := Option.isSome_iff_exists.1 h
      refine hf _ ?_
      rw [State.group, tblGet, hg]
      exact hs _ (mem_of_tblFind hg)
    · exact hs p old
  next => exact hs

/-- Where only one group changes, and of it only its threads and its trace. -/
theorem Retired.modGroup (s : State) (core slot : Nat) (f : Group → Group)
    (hf : ∀ g, f g = { g with threads := (f g).threads, trace := (f g).trace } := by intro _; rfl) :
    Retired s (s.modGroup core slot f) := by
  refine ⟨?_, fun c => by simp, fun c q => s.modGroup_present core slot c q f, fun c q => ?_, fun w => by simp, fun P keeps hs => s.modGroup_all core slot f hs fun g hg => ?_⟩
  · unfold State.modGroup
    split <;> rfl
  · by_cases e : gkey c q = gkey core slot
    · have same (u : State) : u.group c q = u.group core slot := by rw [State.group, State.group, e]
      rw [same, same]
      by_cases hp : s.hasGroup core slot = true
      · rw [s.modGroup_self f hp]
        exact hf _
      · rw [State.modGroup, if_neg hp]
    · rw [s.modGroup_other f e]
  · rw [hf]
    exact keeps _ _ _ hg

theorem Retired.traceSync (s : State) (core slot : Nat) (x : Traced) : Retired s (s.traceSync core slot x) := by
  unfold State.traceSync
  exact (Retired.traceBytes s core _).trans (.modGroup _ core slot _)

theorem Retired.tracePacket (s : State) (core slot : Nat) (x : Traced) (l : List Byte) : Retired s (s.tracePacket core slot x l) := by
  unfold State.tracePacket
  refine Retired.trans ?_ ((Retired.traceBytes _ core _).trans (.modGroup _ core slot _))
  split
  · exact .traceSync s core slot x
  · exact .refl s

theorem Retired.traceFlush (s : State) (core slot : Nat) : Retired s (s.traceFlush core slot) := by
  unfold State.traceFlush
  dsimp only
  split
  · exact .refl s
  · exact (Retired.tracePacket s core slot _ _).trans (.modGroup _ core slot _)

theorem Retired.traceNote (s : State) (core slot : Nat) (l : List Byte) : Retired s (s.traceNote core slot l) := by
  unfold State.traceNote
  split
  · exact (Retired.traceFlush s core slot).trans (.tracePacket _ core slot _ _)
  · exact .refl s

theorem Retired.traceRetire (s : State) (core slot : Nat) (p : Long) (lanes : BitVec 32) : Retired s (s.traceRetire core slot p lanes) := by
  unfold State.traceRetire
  dsimp only
  split_ifs
  · exact .refl s
  · exact (Retired.traceSync s core slot _).trans (.modGroup _ core slot _)
  · exact .refl s
  · exact (Retired.modGroup s core slot _).trans (.traceFlush _ core slot)
  · exact .modGroup s core slot _
  · exact (Retired.traceNote s core slot _).trans (.modGroup _ core slot _)

theorem Retired.noteIssue (s : State) (core slot : Nat) : Retired s (s.noteIssue core slot) := by
  unfold State.noteIssue
  dsimp only
  split
  · exact .modWg s _ _
  · exact .refl s

theorem Retired.modLanes (s : State) (core slot : Nat) (m : BitVec 32) (f : Nat → Thread → Thread) : Retired s (s.modLanes core slot m f) :=
  .modGroup s core slot _

theorem Retired.retire_from (s s0 : State) (h : Hdr) (p : Nat → Long) (hs : s0 = if s.cur.phase > 0 then s.dropHeld else s) : Retired s0 (s.retire h p) := by
  subst hs
  unfold State.retire
  exact (((Retired.noteIssue _ _ _).trans (.traceRetire _ _ _ _ _)).trans (.modWg _ _ _)).trans ((Retired.modLanes _ _ _ _ _).trans (.modWg _ _ _))

theorem Retired.retire (s : State) (h : Hdr) (p : Nat → Long) (first : s.cur.phase = 0) : Retired s (s.retire h p) :=
  .retire_from s s h p (by rw [first]; rfl)

theorem Retired.retireSeq (s : State) (h : Hdr) (first : s.cur.phase = 0) : Retired s (s.retireSeq h) := .retire s h _ first

section Fields

variable {s t : State} (r : Retired s t)
include r

theorem Retired.token (c q k : Nat) : (t.group c q).token k = (s.group c q).token k := by rw [r.group]; rfl
theorem Retired.waits (c q : Nat) : (t.group c q).waits = (s.group c q).waits := by rw [r.group]
theorem Retired.pends : t.pends = s.pends := by rw [r.state]
theorem Retired.timers : t.timers = s.timers := by rw [r.state]
theorem Retired.wgOf_present {c q : Nat} (hp : s.hasGroup c q = true) : t.wgOf c q = s.wgOf c q := by
  rw [s.wgOf_present hp, t.wgOf_present ((r.present c q).trans hp), r.group]

/-- R142: the tokens of the issuing group stand as before. -/
theorem Retired.tokensKept : TokensKept s t := fun k => r.token _ _ k

end Fields

/-! ### Tokens (R20) -/

theorem Group.token_tblSet (g : Group) (k v j : Nat) : ({ g with tokens := tblSet 0 g.tokens k v } : Group).token j = if j = k then v else g.token j := by
  unfold Group.token
  split
  next e => rw [e, tblGet_tblSet_self]
  next e => rw [tblGet_tblSet_other _ _ _ e]

theorem State.tokUp_token (s : State) {core slot : Nat} (present : s.hasGroup core slot = true) (n k : Nat) :
    ((s.tokUp core slot n).group core slot).token k = (s.group core slot).token k + if k = n ∧ k ≠ 0 then 1 else 0 := by
  unfold State.tokUp
  split
  next e => 
    have : ¬ (k = n ∧ k ≠ 0) := by omega
    simp [this]
  next e =>
    rw [s.modGroup_self _ present, Group.token_tblSet]
    split <;> simp_all

theorem State.tokDown_token (s : State) {core slot : Nat} (present : s.hasGroup core slot = true) (n k : Nat) :
    ((s.tokDown core slot n).group core slot).token k = (s.group core slot).token k - if k = n ∧ k ≠ 0 then 1 else 0 := by
  unfold State.tokDown
  split
  next e => 
    have : ¬ (k = n ∧ k ≠ 0) := by omega
    simp [this]
  next e =>
    rw [s.modGroup_self _ present, Group.token_tblSet]
    split <;> simp_all

@[simp] theorem State.tokUp_present (s : State) (core slot n c q : Nat) : (s.tokUp core slot n).hasGroup c q = s.hasGroup c q := by
  unfold State.tokUp
  split <;> simp

@[simp] theorem State.tokDown_present (s : State) (core slot n c q : Nat) : (s.tokDown core slot n).hasGroup c q = s.hasGroup c q := by
  unfold State.tokDown
  split <;> simp

/-- A change of the tokens of a group changes nothing else of any group. -/
theorem State.modGroup_tokens (s : State) (core slot : Nat) (f : Group → Tbl Nat) (c q : Nat) :
    (s.modGroup core slot (fun g => { g with tokens := f g })).group c q = { s.group c q with tokens := ((s.modGroup core slot (fun g => { g with tokens := f g })).group c q).tokens } := by
  by_cases e : gkey c q = gkey core slot
  · have same (u : State) : u.group c q = u.group core slot := by rw [State.group, State.group, e]
    rw [same, same]
    by_cases hp : s.hasGroup core slot = true
    · rw [s.modGroup_self _ hp]
    · rw [State.modGroup, if_neg hp]
  · rw [s.modGroup_other _ e]

theorem State.tokUp_tokens (s : State) (core slot n c q : Nat) : (s.tokUp core slot n).group c q = { s.group c q with tokens := ((s.tokUp core slot n).group c q).tokens } := by
  unfold State.tokUp
  split
  · rfl
  · exact s.modGroup_tokens core slot _ c q

theorem State.tokDown_tokens (s : State) (core slot n c q : Nat) : (s.tokDown core slot n).group c q = { s.group c q with tokens := ((s.tokDown core slot n).group c q).tokens } := by
  unfold State.tokDown
  split
  · rfl
  · exact s.modGroup_tokens core slot _ c q

/-- R20, R43: a first issue raises the token it names. -/
theorem State.takeToken_token (s : State) (h : Hdr) (first : s.cur.phase = 0) (present : s.hasGroup s.cur.core s.cur.slot = true) : TokenUp s (s.takeToken h) h := by
  intro k
  rw [State.takeToken, if_pos first, s.tokUp_token present]

theorem TokenUp.retired {s u t : State} {h : Hdr} (up : TokenUp s u h) (r : Retired u t) : TokenUp s t h := fun k => (r.token _ _ k).trans (up k)

/-! ### The issue of a result under way -/

/-- R38, R42, R133: an issue of fixed latency, as the first issue of a group that stands in its slot. -/
theorem issued_moved {s : State} (first : First s) (h : Hdr) (lat : Nat) (p : Pend) : Passed s (issued s h lat p) h := by
  obtain ⟨hphase, -, -, -, -, present⟩ := first
  have same : SameThreads s ((s.takeToken h).pendFixed lat p) := (SameThreads.takeToken s h).trans ((SameThreads.addPend _ _).trans (.inCycles _ _ _ _))
  have moved := State.retire_moved ((s.takeToken h).pendFixed lat p) h (fun _ => seqPos s.cur.pos) (by simpa using hphase) (by simpa using (same.present _ _).trans present)
  exact moved_of_sameThreads same (by simp) (by simpa [issued, State.retireSeq] using moved)

end Sys2Proof.Machine

namespace Sys2Proof.Proofs.Issue

open Sys2Proof.Machine Sys2Proof.Claims

/-- Settles O2: raising the token and putting the result under way touches no thread, and retiring moves them on. -/
theorem issueFrame : Obligations.IssueFrame := by
  intro s h lat p first hcore
  have hphase : s.cur.phase = 0 := first.1
  have present := first.2.2.2.2.2
  have r : Retired ((s.takeToken h).pendFixed lat p) (issued s h lat p) := .retireSeq _ h (by simpa using hphase)
  have up : TokenUp s ((s.takeToken h).pendFixed lat p) h := by
    intro k
    rw [(State.pendFixed_group _ _ _).1]
    exact s.takeToken_token h hphase present k
  refine ⟨issued_moved first h lat p, TokenUp.retired up r, ?_, ?_, ?_⟩
  · rw [r.pends]
    simp [State.pendFixed, State.addPend, State.inCycles, hcore, tblFind_tblPut_self]
  · rw [r.timers]
    simp [State.pendFixed, State.inCycles, hcore]
  · rw [r.state]
    simp

end Sys2Proof.Proofs.Issue
end

section
/-! SUPPORT. What a halt leaves alone (R336-R340), and what taking a precise fault at a first issue leaves (R334, Table 20-3). -/

namespace Sys2Proof.Machine

open Sys2Proof.Claims

/-! ### What stands when a workgroup halts -/

/-- Two states that differ in no more than what the halt of a workgroup changes. -/
structure HaltFrame (s t : State) : Prop where
  state : t = { s with groups := t.groups, wgs := t.wgs, launches := t.launches, dies := t.dies, timers := t.timers }
  present : ∀ c q, t.hasGroup c q = s.hasGroup c q
  group : ∀ c q, t.group c q = { s.group c q with ownFault := (t.group c q).ownFault, stopKind := (t.group c q).stopKind }
  wg : ∀ w, t.wg w = { s.wg w with halt := (t.wg w).halt, settled := (t.wg w).settled, reach := (t.wg w).reach, step := (t.wg w).step, stepDone := (t.wg w).stepDone, stopAt := (t.wg w).stopAt }
  launch : ∀ l, t.launch l = { s.launch l with halting := (t.launch l).halting }
  die : ∀ d, t.die d = { s.die d with haltNext := (t.die d).haltNext }

namespace HaltFrame

theorem refl (s : State) : HaltFrame s s := ⟨rfl, fun _ _ => rfl, fun _ _ => rfl, fun _ => rfl, fun _ => rfl, fun _ => rfl⟩

theorem trans {s t u : State} (h : HaltFrame s t) (k : HaltFrame t u) : HaltFrame s u where
  state := by rw [k.state, h.state]
  present c q := (k.present c q).trans (h.present c q)
  group c q := by rw [k.group, h.group]
  wg w := by rw [k.wg, h.wg]
  launch l := by rw [k.launch, h.launch]
  die d := by rw [k.die, h.die]

theorem foldl {α : Type} {f : State → α → State} (hf : ∀ s a, HaltFrame s (f s a)) (l : List α) (s : State) : HaltFrame s (l.foldl f s) := by
  induction l generalizing s with
  | nil => exact refl s
  | cons a r ih => exact (hf s a).trans (ih _)

/-- Events come due later. -/
theorem of_timers (s : State) (l : List Timer) : HaltFrame s { s with timers := l } :=
  ⟨rfl, fun _ _ => rfl, fun _ _ => rfl, fun _ => rfl, fun _ => rfl, fun _ => rfl⟩

theorem modDie (s : State) (d : Nat) (f : Die → Die) (hf : ∀ x, f x = { x with haltNext := (f x).haltNext } := by intro _; rfl) : HaltFrame s (s.modDie d f) := by
  refine ⟨rfl, fun _ _ => rfl, fun _ _ => rfl, fun _ => rfl, fun _ => rfl, fun e => ?_⟩
  by_cases h : e = d
  · rw [h, s.modDie_self]
    exact hf _
  · rw [s.modDie_other f h]

theorem modLaunch (s : State) (l : Nat) (f : Launch → Launch) (hf : ∀ x, f x = { x with halting := (f x).halting } := by intro _; rfl) :
    HaltFrame s (s.modLaunch l f) := by
  refine ⟨rfl, fun _ _ => rfl, fun _ _ => rfl, fun _ => rfl, fun e => ?_, fun _ => rfl⟩
  by_cases h : e = l
  · rw [h, s.modLaunch_self]
    exact hf _
  · rw [s.modLaunch_other f h]

theorem modWg (s : State) (w : Nat) (f : Workgroup → Workgroup)
    (hf : ∀ x, f x = { x with halt := (f x).halt, settled := (f x).settled, reach := (f x).reach, step := (f x).step, stepDone := (f x).stepDone, stopAt := (f x).stopAt } := by intro _; rfl) :
    HaltFrame s (s.modWg w f) := by
  refine ⟨rfl, fun _ _ => rfl, fun _ _ => rfl, fun e => ?_, fun _ => rfl, fun _ => rfl⟩
  by_cases h : e = w
  · rw [h, s.modWg_self]
    exact hf _
  · rw [s.modWg_other f h]

end HaltFrame

theorem tblFind_map {α β : Type} (f : Nat × α → Nat × β) (g : α → β) (hf : ∀ p, f p = (p.1, g p.2)) (t : Tbl α) (k : Nat) : 
    tblFind (t.map f) k = (tblFind t k).map g := by
  induction t with
  | nil => rfl
  | cons p r ih =>
    obtain ⟨j, x⟩ := p
    rw [List.map_cons, hf]
    simp only [tblFind]
    split
    · rfl
    · exact ih

/-- Every group changed by f, of which a change of its own fault and the kind of its stop is all. -/
theorem HaltFrame.mapGroups (s : State) (f : Nat × Group → Nat × Group) (g : Group → Group) (hf : ∀ p, f p = (p.1, g p.2))
    (hg : ∀ x, g x = { x with ownFault := (g x).ownFault, stopKind := (g x).stopKind }) : HaltFrame s { s with groups := s.groups.map f } := by
  refine ⟨rfl, fun c q => ?_, fun c q => ?_, fun _ => rfl, fun _ => rfl, fun _ => rfl⟩
  · simp [State.hasGroup, tblFind_map f g hf]
  · simp only [State.group, tblGet, tblFind_map f g hf]
    cases tblFind s.groups (gkey c q) with
    | none => rfl
    | some x => exact hg x

/-- The group whose fault another outranks keeps the code as its own fault. -/
def ownFaultOf (w : Nat) (q : HaltRec) (g : Group) : Group := if g.wg = w && g.idx = q.group then { g with ownFault := q.code, stopKind := 1 } else g

namespace HaltFrame

theorem takeHaltTick (s : State) (die : Nat) : HaltFrame s (s.takeHaltTick die) := modDie s die _

theorem announceLaunchHalt (s : State) (die launch : Nat) : HaltFrame s (s.announceLaunchHalt die launch) := by
  unfold State.announceLaunchHalt
  exact (foldl (fun t c => of_timers t _) _ s).trans (takeHaltTick _ die)

theorem endLaunchOf (s : State) (w : Nat) : HaltFrame s (s.endLaunchOf w) := by
  unfold State.endLaunchOf
  dsimp only
  split
  · exact refl s
  · exact (modLaunch s _ _).trans (announceLaunchHalt _ _ _)

theorem deliverHalt (s : State) (w : Nat) (part : Option Nat) : HaltFrame s (s.deliverHalt w part) := by
  unfold State.deliverHalt
  exact foldl (fun t q => of_timers t _) _ s

theorem haltAgain (s : State) (w : Nat) (part : Option Nat) (r : HaltRec) : HaltFrame s (s.haltAgain w part r) := by
  unfold State.haltAgain
  dsimp only
  split
  · exact refl s
  · split
    · exact (modWg s w _).trans (deliverHalt _ w part)
    · refine (((modWg s w (fun x => { x with halt := some r, settled := false })).trans (.mapGroups _ _ (ownFaultOf w ((s.wg w).halt.getD {})) (fun p => ?_) (fun g => ?_))).trans
        (.of_timers _ _)).trans (deliverHalt _ w part)
      · unfold ownFaultOf
        split <;> rfl
      · unfold ownFaultOf
        split <;> rfl

theorem haltWg (s : State) (w : Nat) (part : Option Nat) (r : HaltRec) : HaltFrame s (s.haltWg w part r) := by
  unfold State.haltWg
  dsimp only
  split
  · exact haltAgain s w part r
  · split
    · exact (modWg s w _).trans (deliverHalt _ w part)
    · exact ((modWg s w _).trans (deliverHalt _ w part)).trans (endLaunchOf _ w)

end HaltFrame

/-! ### A group stops (R334, R335, Table 20-3) -/

/-- R336: a workgroup that does not halt yet keeps the record. -/
theorem State.haltWg_halt (s : State) (w : Nat) (part : Option Nat) (r : HaltRec) (running : (s.wg w).halt = none) : ((s.haltWg w part r).wg w).halt = some r := by
  have keep : ∀ u : State, ((u.deliverHalt w part).wg w) = u.wg w := by
    intro u
    have : (u.deliverHalt w part).wgs = u.wgs := by
      unfold State.deliverHalt
      exact List.foldlRecOn (motive := fun (t : State) => t.wgs = u.wgs) (List.range 4) _ rfl (fun t ih q _ => ih)
    rw [State.wg, this, State.wg]
  have endKeeps : ∀ u : State, (u.endLaunchOf w).wg w = u.wg w := by
    intro u
    have die : ∀ (v : State) d l, (v.announceLaunchHalt d l).wgs = v.wgs := by
      intro v d l
      unfold State.announceLaunchHalt
      exact List.foldlRecOn (motive := fun (t : State) => t.wgs = v.wgs) _ _ rfl (fun t ih q _ => ih)
    unfold State.endLaunchOf
    dsimp only
    split
    · rfl
    · rw [State.wg, die]
      rfl
  unfold State.haltWg
  simp only [running, Option.isSome_none, Bool.false_eq_true, if_false]
  split <;> simp [keep, endKeeps, s.modWg_self]

/-- The threads m of a group carry the fault registers. -/
def trapRegs (code : Nat) (lanes : BitVec 32) (pos tv : Long) (_ : Nat) (t : Thread) : Thread :=
  { t with tcause := BitVec.ofNat 32 code, tlanes := lanes, tpc := pos, tvalue := tv }

/-- What stopping the group in a slot leaves: the frame of a halt, beside the group itself, its threads and its stop. -/
structure StopsGroup (s t : State) (core slot : Nat) (m lanes : BitVec 32) (r : HaltRec) : Prop where
  mem : t.mem = s.mem
  hostMem : t.hostMem = s.hostMem
  present : ∀ c q, t.hasGroup c q = s.hasGroup c q
  others : ∀ c q, gkey c q ≠ gkey core slot → (t.group c q).threads = (s.group c q).threads
  token : ∀ k, (t.group core slot).token k = (s.group core slot).token k
  stopped : (t.group core slot).stopped = true
  thread : ∀ l, l < (s.group core slot).threads.length → t.thread core slot l = if m.getLsbD l then trapRegs r.code lanes r.pos r.tvalue l (s.thread core slot l) else s.thread core slot l
  rwc : ∀ w, (t.wg w).rwc = (s.wg w).rwc
  pends : t.pends = s.pends
  mcNext : t.mcNext = s.mcNext
  wgOf : t.wgOf core slot = s.wgOf core slot
  halt : (s.wg (s.wgOf core slot)).halt = none →
    (t.wg (s.wgOf core slot)).halt = some { r with group := (s.group core slot).idx, lanes := lanes, time := s.tick }

/-- The group as it stops, before its workgroup halts. -/
def Group.stopWith (g : Group) (m lanes : BitVec 32) (r : HaltRec) (kind cycle own : Nat) : Group :=
  { ((g.modLanes m (trapRegs r.code lanes r.pos r.tvalue)).stopIn kind cycle) with ownFault := own }

theorem State.stopGroup_eq (s : State) (core slot : Nat) (m lanes : BitVec 32) (r : HaltRec) : ∃ (late : Bool),
    s.stopGroup core slot m lanes r = (s.modGroup core slot (fun g => g.stopWith m lanes r (if late then g.stopKind else 0) (s.core core).cycles
      (if late then r.code else g.ownFault))).haltWg (s.wgOf core slot) (some (slot % 128 / 32))
      { r with group := if s.hasGroup core slot then (s.group core slot).idx else 0xFF, lanes := lanes, time := s.tick } :=
  ⟨_, rfl⟩

theorem State.stopGroup_stopsGroup (s : State) {core slot : Nat} (present : s.hasGroup core slot = true) (m lanes : BitVec 32) (r : HaltRec) :
    StopsGroup s (s.stopGroup core slot m lanes r) core slot m lanes r := by
  obtain ⟨late, e⟩ := s.stopGroup_eq core slot m lanes r
  rw [e, if_pos present]
  generalize hf : (fun g : Group => g.stopWith m lanes r (if late then g.stopKind else 0) (s.core core).cycles (if late then r.code else g.ownFault)) = f
  have frame := HaltFrame.haltWg (s.modGroup core slot f) (s.wgOf core slot) (some (slot % 128 / 32)) { r with group := (s.group core slot).idx, lanes := lanes, time := s.tick }
  have halts := (s.modGroup core slot f).haltWg_halt (s.wgOf core slot) (some (slot % 128 / 32)) { r with group := (s.group core slot).idx, lanes := lanes, time := s.tick }
  generalize (s.modGroup core slot f).haltWg (s.wgOf core slot) (some (slot % 128 / 32)) { r with group := (s.group core slot).idx, lanes := lanes, time := s.tick } = t at frame halts
  have here := frame.group core slot
  rw [s.modGroup_self f present, ← hf] at here
  have there : t.hasGroup core slot = true := by rw [frame.present, s.modGroup_present, present]
  refine ⟨?_, ?_, fun c q => ?_, fun c q ne => ?_, fun k => ?_, ?_, fun l hl => ?_, fun w => ?_, ?_, ?_, ?_, fun running => halts (by simpa using running)⟩
  · rw [frame.state]
    simp
  · rw [frame.state]
    simp
  · rw [frame.present, s.modGroup_present]
  · rw [frame.group, s.modGroup_other f ne]
  · rw [here]
    rfl
  · rw [here]
    rfl
  · rw [State.thread, State.thread, here]
    exact Group.modLanes_thread _ _ _ _ hl
  · rw [frame.wg]
    simp
  · rw [frame.state]
    simp
  · rw [frame.state]
    simp
  · rw [t.wgOf_present there, s.wgOf_present present, here]
    rfl

/-! ### A precise fault at a first issue (R334) -/

/-- What the agenda held is no part of it. -/
theorem StopsGroup.of_agenda {s t : State} {l : List Act} {core slot : Nat} {m lanes : BitVec 32} {r : HaltRec} (st : StopsGroup { s with agenda := l } t core slot m lanes r) :
    StopsGroup s t core slot m lanes r :=
  ⟨st.mem, st.hostMem, st.present, st.others, st.token, st.stopped, st.thread, st.rwc, st.pends, st.mcNext, st.wgOf, st.halt⟩

/-- R334: with a first issue a precise fault stops its group, after what path B had laid out beside path A is dropped. -/
theorem State.raiseMc_stopsGroup (s : State) (h : Hdr) (lanes : BitVec 32) (code : Nat) (tv : Long) (mc : Word) (first : s.cur.phase = 0)
    (present : s.hasGroup s.cur.core s.cur.slot = true) :
    StopsGroup s (s.raiseMc h lanes code tv mc) s.cur.core s.cur.slot s.cur.lanes lanes
      { code := code, kind := if code = cWATCH || code = cSTEP then 4 else 0, pathB := s.cur.path == 1, pos := s.cur.pos, tvalue := tv, mc := mc } := by
  have quiet : ¬ s.cur.phase > 0 := by omega
  rw [State.raiseMc]
  simp only [quiet, if_false]
  split
  · exact StopsGroup.of_agenda (s.dropPathB.stopGroup_stopsGroup present _ _ _)
  · exact s.stopGroup_stopsGroup present _ _ _

theorem State.raise_stops (s : State) (h : Hdr) (lanes : BitVec 32) (code : Nat) (tv : Long) (first : s.cur.phase = 0)
    (present : s.hasGroup s.cur.core s.cur.slot = true) :
    Stops s (s.raise h lanes code tv) (if code = cWATCH || code = cSTEP then 4 else 0) lanes code tv := by
  have st : StopsGroup s (s.raise h lanes code tv) s.cur.core s.cur.slot s.cur.lanes lanes _ := s.raiseMc_stopsGroup h lanes code tv 0xFFFFFFFF first present
  exact ⟨⟨st.mem, st.hostMem, st.others⟩, st.rwc _, st.stopped, st.thread, st.halt⟩

end Sys2Proof.Machine
end

section
/-! SUPPORT. What an issue fetches (R33-R39, R72-R74, Table 04-13), and the checks of a control transfer's target (Table 02-3). -/

namespace Sys2Proof.Machine

open Sys2Proof.Claims

/-! ### The checks of a target (R39, Table 02-3) -/

/-- Table 02-3, check 1: the slot number and the alignment of a position. -/
theorem State.targetCheck_misaligned (s : State) (l : Nat) {p : Long} (h : ¬ (p.toNat / 8 % 8 = 0 ∧ p.toNat % 8 ≤ 4)) : s.targetCheck l p = .fault cALIGN none := by
  have bad : (bits p.toNat 5 3 ≠ 0 || p.toNat % 8 > 4) = true := by
    norm_num [bits]
    omega
  rw [State.targetCheck, if_pos bad]

theorem State.targetCheck_aligned (s : State) (l : Nat) {p : Long} (h : p.toNat / 8 % 8 = 0 ∧ p.toNat % 8 ≤ 4) : s.targetCheck l p = match s.lineCheck l p with
    | .ok b => if (lineEntry (lineWord b)).getLsbD (p.toNat % 8) then .ok b else .fault cENTRY none
    | r => r := by
  have fine : ¬ (bits p.toNat 5 3 ≠ 0 || p.toNat % 8 > 4) = true := by
    norm_num [bits]
    omega
  rw [State.targetCheck, if_neg fine] <;> rfl

/-- Table 02-3, check 2: the 57-bit range. -/
theorem State.lineCheck_beyond (s : State) (l : Nat) {p : Long} (h : 2 ^ 57 ≤ p.toNat) : s.lineCheck l p = .fault cACCESS none := by
  rw [State.lineCheck]
  exact if_pos (by omega)

theorem State.lineCheck_within (s : State) (l : Nat) {p : Long} (h : p.toNat < 2 ^ 57) : s.lineCheck l p = match s.walk (s.launch l).ctx (lineOf p) with
    | .absent _ => .absent
    | .bad lv => .fault cACCESS (some lv)
    | .ok pa e => if !leafX e || leafHostOwned e || s.inDebugArea (s.launch l).ctx (lineOf p) then .fault cACCESS none
        else if lineReservedOk (lineWord (s.lineBytes l pa)) && lineParityOk (lineWord (s.lineBytes l pa)) then .ok (s.lineBytes l pa) else .fault cLINE none := by
  rw [State.lineCheck]
  exact if_neg (by omega)

/-! ### Fetching a slot of a good line (R34, R72-R74, Table 04-13) -/

/-- Table 04-13, orders 3 to 6, of the slot that an issue fetches. -/
def slotChecked (s : State) (k : Issue) (b : List Byte) : Except (Nat × Long) Instr :=
  checkSlot (lineSlot b (k.pos.toNat % 8)) (lineClass (lineWord b) (k.pos.toNat % 8)) (s.group k.core k.slot).n
    (s.ctx (s.ctxOfWg (s.wgOf k.core k.slot))).priv (lineWord b)

/-- A line that passes its checks passes them as the target of an entry too, where its entry mask names the slot. -/
theorem fetches_line_ok {s : State} {k : Issue} {r : List Act} {b : List Byte} (f : Fetches s k r b) :
    let u : State := { s with agenda := r, cur := k }
    (if u.enteringNow then u.targetCheck (u.launchOfWg u.curWg) k.pos else u.lineCheck (u.launchOfWg u.curWg) k.pos) = .ok b := by
  intro u
  have line : u.lineCheck (u.launchOfWg u.curWg) k.pos = .ok b := f.line
  split
  next enters =>
    have mask : (lineEntry (lineWord b)).getLsbD (k.pos.toNat % 8) = true := by
      refine f.entry.resolve_left fun none => ?_
      obtain ⟨l, hl, he⟩ := List.any_eq_true.1 enters
      exact absurd ((none l hl).symm.trans he) (by decide)
    rw [u.targetCheck_aligned _ f.aligned, line]
    exact if_pos mask
  next => exact line

theorem fetches_fetch {s : State} {k : Issue} {r : List Act} {b : List Byte} (f : Fetches s k r b) :
    State.fetch { s with agenda := r, cur := k } = match slotChecked s k b with
      | .error (code, tv) => let w := lineSlot b (k.pos.toNat % 8)
        ((fetched s k r).raise (slotHdr w) (State.active { s with agenda := r, cur := k } (slotHdr w)) code tv, none)
      | .ok i => (fetched s k r, some i) := by
  have parity := f.parity
  have sound := f.sound
  rw [State.fetch]
  simp only [fetches_line_ok f, parity, sound, Bool.not_true, Bool.false_eq_true, if_false]
  rfl

/-- A step whose issue fetches an instruction executes it; one whose issue fetches none stops its group. -/
theorem fetches_step_ok {s : State} {k : Issue} {r : List Act} {b : List Byte} (f : Fetches s k r b) {i : Instr} (ok : slotChecked s k b = .ok i) :
    step s = exec i ((fetched s k r).keepHistory k.core k.slot) := by
  have group := f.group
  have fetch := fetches_fetch f
  simp only [ok] at fetch
  simp only [step, f.agenda, group, if_true, fetch]

theorem fetches_step_error {s : State} {k : Issue} {r : List Act} {b : List Byte} (f : Fetches s k r b) {code : Nat} {tv : Long} (bad : slotChecked s k b = .error (code, tv)) :
    let w := lineSlot b (k.pos.toNat % 8)
    step s = .next ((fetched s k r).raise (slotHdr w) (State.active { s with agenda := r, cur := k } (slotHdr w)) code tv) := by
  have group := f.group
  have fetch := fetches_fetch f
  simp only [bad] at fetch
  simp only [step, f.agenda, group, if_true, fetch]

theorem checkSlot_unassigned {w : Slot} (h : issueClass (slotOp w) = none) (c n : Nat) (priv : Bool) (line : Word) : checkSlot w c n priv line = .error (cILLEGAL, headerValue w) := by
  rw [checkSlot, h]

theorem checkSlot_otherClass {w : Slot} {k c : Nat} (h : issueClass (slotOp w) = some k) (ne : k ≠ c) (n : Nat) (priv : Bool) (line : Word) :
    checkSlot w c n priv line = .error (cLINE, line.setWidth 64) := by
  rw [checkSlot, h]
  exact if_pos ne

theorem checkSlot_class {w : Slot} {c : Nat} (h : issueClass (slotOp w) = some c) (n : Nat) (priv : Bool) (line : Word) : checkSlot w c n priv line = match decode w with
    | .error _ => .error (cILLEGAL, headerValue w)
    | .ok i => if !i.wf n then .error (cILLEGAL, headerValue w) else if privileged i && !priv then .error (cPRIV, headerValue w) else .ok i := by
  rw [checkSlot, h]
  exact if_neg (fun ne => ne rfl)

/-- What a slot that is no instruction leaves: its group stopped with the fault, every thread where it stood. -/
theorem fetches_stops {s : State} {k : Issue} {r : List Act} {b : List Byte} (f : Fetches s k r b) (first : k.phase = 0) {code : Nat} {tv : Long}
    (bad : slotChecked s k b = .error (code, tv)) (fault : code ≠ cWATCH ∧ code ≠ cSTEP) : ∃ t, step s = .next t ∧ t.mem = s.mem ∧ (t.group k.core k.slot).stopped = true ∧
    (∀ l, l < (s.group k.core k.slot).threads.length → k.lanes.getLsbD l = true → (t.thread k.core k.slot l).pos = (s.thread k.core k.slot l).pos ∧
      (t.thread k.core k.slot l).tcause = BitVec.ofNat 32 code ∧ (t.thread k.core k.slot l).tpc = k.pos ∧ (t.thread k.core k.slot l).tvalue = tv) ∧
    ((s.wg (s.wgOf k.core k.slot)).halt = none → ∃ x, (t.wg (s.wgOf k.core k.slot)).halt = some x ∧ x.code = code ∧ x.kind = 0 ∧ x.pos = k.pos ∧ x.tvalue = tv) := by
  have group : s.hasGroup k.core k.slot = true := f.group
  have cur : (fetched s k r).cur = k := by simp [fetched, State.lineGood]
  have present : (fetched s k r).hasGroup k.core k.slot = true := (State.modGroup_present _ _ _ _ _ _).trans group
  have here : (fetched s k r).group k.core k.slot = (s.group k.core k.slot).modLanes k.lanes (fun _ t => { t with entering := false }) :=
    State.modGroup_self _ _ group
  have st := (fetched s k r).raise_stops (slotHdr (lineSlot b (k.pos.toNat % 8))) (State.active { s with agenda := r, cur := k } (slotHdr (lineSlot b (k.pos.toNat % 8)))) code tv
    (by rw [cur, first]) (by rw [cur]; exact present)
  have wg : (fetched s k r).curWg = s.wgOf k.core k.slot := by
    rw [State.curWg, cur, State.wgOf_present _ present, here, s.wgOf_present group]
    rfl
  have wgs : ∀ w, (fetched s k r).wg w = s.wg w := fun w => by
    simp [fetched, State.lineGood, State.modLanes]
    rfl
  have kind : (if code = cWATCH || code = cSTEP then 4 else 0) = 0 := by simp [fault]
  obtain ⟨-, -, stopped, threads, halt⟩ := st
  rw [cur, here] at threads halt
  rw [cur] at stopped
  refine ⟨_, fetches_step_error f bad, by simp [fetched, State.lineGood], stopped, fun l hl lane => ?_, fun running => ⟨_, by
    rw [← wg]
    exact halt (by rw [wg, wgs]; exact running), rfl, kind, by rfl, rfl⟩⟩
  have old : mine (fetched s k r) l = { s.thread k.core k.slot l with entering := false } := by
    rw [mine, cur, State.thread, here, Group.modLanes_thread _ _ _ _ hl, if_pos lane]
    rfl
  rw [threads l (by simpa [Group.modLanes] using hl), if_pos lane, old]
  exact ⟨rfl, rfl, rfl, rfl⟩

end Sys2Proof.Machine

namespace Sys2Proof.Proofs.Targets

open Sys2Proof.Machine Sys2Proof.Claims

/-- Settles O9, check by check of Table 02-3. -/
theorem controlTargetChecks : Obligations.ControlTargetChecks := by
  intro s l p
  dsimp only
  refine ⟨fun h => s.targetCheck_misaligned l h, fun h hp => ?_, fun h hp => ⟨fun lv w => ?_, fun lv w => ?_, fun pa e w => ⟨fun x => ?_, fun x host debug => ⟨fun parity => ?_, fun res parity => ?_⟩⟩⟩⟩
  · rw [s.targetCheck_aligned l h, s.lineCheck_beyond l hp]
    rfl
  all_goals rw [s.targetCheck_aligned l h, s.lineCheck_within l hp, lineOf, w]
  · rfl
  · have : leafX e = false := by rw [leafX, bit_eq_testBit, x]
    simp [this, cACCESS]
  · have : leafX e = true := by rw [leafX, bit_eq_testBit, x]
    simp [this, host, debug, parity, cLINE]
  · have : leafX e = true := by rw [leafX, bit_eq_testBit, x]
    simp [this, host, debug, res, parity, cENTRY]

end Sys2Proof.Proofs.Targets

namespace Sys2Proof.Proofs.Fetching

open Sys2Proof.Machine Sys2Proof.Claims

/-- Settles O55: the slot passes the checks of Table 04-13, and an event or an instruction that waited is the first item of the agenda. -/
theorem aStepRunsTheDecodedInstruction : Obligations.AStepRunsTheDecodedInstruction := by
  refine ⟨fun s k r b i f dec cls wf priv => fetches_step_ok f ?_, fun s i r h => by rw [step, h], fun s k i r h => by rw [step, h]⟩
  rw [slotChecked, checkSlot_class cls, dec]
  rcases priv with free | allowed
  · simp [wf, free]
  · simp [wf, allowed]

/-- Settles O56, check by check of Table 04-13. -/
theorem fetchFaults : Obligations.FetchFaults := by
  intro s k r b f w c g stops first
  refine ⟨fun none => fetches_stops f first (checkSlot_unassigned none _ _ _ _) (by decide), fun n some ne => fetches_stops f first (checkSlot_otherClass some ne _ _ _) (by decide),
    fun cls => ⟨fun no => fetches_stops f first ?_ (by decide), fun i dec => ⟨fun wf => fetches_stops f first ?_ (by decide), fun wf needs lacks => fetches_stops f first ?_ (by decide)⟩⟩⟩
  all_goals rw [slotChecked, checkSlot_class cls]
  · cases dec : decode w with
    | ok i => exact absurd dec (no i)
    | error e => rfl
  · simp only [dec, wf, g]
    rfl
  · simp only [dec, wf, needs, lacks, g]
    rfl

end Sys2Proof.Proofs.Fetching
end

section
/-! SUPPORT. How a result under way arrives at its group (R18, R20, R50, R51): what landing changes in a thread, and what it leaves alone. -/

namespace Sys2Proof.Machine

open Sys2Proof.Claims

/-! ### A step of a landing -/

/-- Two states that differ in no more than a landing at the group in a slot changes; each of its threads is changed by e. -/
structure LandStep (s t : State) (core slot : Nat) (e : Nat → Thread → Thread) : Prop where
  state : t = { s with cores := t.cores, groups := t.groups, wgs := t.wgs, timers := t.timers, agenda := t.agenda, bad := t.bad }
  coreKept : ∀ c, t.core c = { s.core c with rel := (t.core c).rel, landed := (t.core c).landed }
  wgKept : ∀ w, t.wg w = { s.wg w with replay := (t.wg w).replay, bars := (t.wg w).bars }
  present : ∀ c q, t.hasGroup c q = s.hasGroup c q
  others : ∀ c q, gkey c q ≠ gkey core slot → t.group c q = s.group c q
  here : t.group core slot = { s.group core slot with threads := (t.group core slot).threads, masks := (t.group core slot).masks }
  length : (t.group core slot).threads.length = (s.group core slot).threads.length
  thread : ∀ l, l < (s.group core slot).threads.length → t.thread core slot l = e l (s.thread core slot l)

namespace LandStep

variable {s t u : State} {core slot : Nat} {e d : Nat → Thread → Thread}

theorem refl (s : State) (core slot : Nat) : LandStep s s core slot (fun _ t => t) :=
  ⟨rfl, fun _ => rfl, fun _ => rfl, fun _ _ => rfl, fun _ _ _ => rfl, rfl, rfl, fun _ _ => rfl⟩

theorem trans (h : LandStep s t core slot e) (k : LandStep t u core slot d) : LandStep s u core slot (fun l t => d l (e l t)) where
  state := by rw [k.state, h.state]
  coreKept c := by rw [k.coreKept, h.coreKept]
  wgKept w := by rw [k.wgKept, h.wgKept]
  present c q := (k.present c q).trans (h.present c q)
  others c q ne := (k.others c q ne).trans (h.others c q ne)
  here := by rw [k.here, h.here]
  length := k.length.trans h.length
  thread l hl := by rw [k.thread l (by rw [h.length]; exact hl), h.thread l hl]

theorem congr (h : LandStep s t core slot e) (same : ∀ l x, e l x = d l x) : LandStep s t core slot d := by
  obtain rfl : e = d := funext fun l => funext fun x => same l x
  exact h

theorem congr_at (h : LandStep s t core slot e) (same : ∀ l, e l (s.thread core slot l) = d l (s.thread core slot l)) : LandStep s t core slot d :=
  ⟨h.state, h.coreKept, h.wgKept, h.present, h.others, h.here, h.length, fun l hl => (h.thread l hl).trans (same l)⟩

/-- Where nothing of a group changes. -/
theorem of_groups (core slot : Nat) (hs : t = { s with cores := t.cores, wgs := t.wgs, timers := t.timers, agenda := t.agenda, bad := t.bad })
    (hc : ∀ c, t.core c = { s.core c with rel := (t.core c).rel, landed := (t.core c).landed }) (hw : ∀ w, t.wg w = { s.wg w with replay := (t.wg w).replay, bars := (t.wg w).bars }) :
    LandStep s t core slot (fun _ x => x) := by
  have hg : t.groups = s.groups := by rw [hs]
  have group (c q : Nat) : t.group c q = s.group c q := by rw [State.group, hg, State.group]
  refine ⟨by rw [hs], hc, hw, fun c q => by rw [State.hasGroup, hg, State.hasGroup], fun c q _ => group c q, by rw [group], by rw [group], fun l _ => by rw [State.thread, group, State.thread]⟩

/-- Of the group's fields only its threads, each changed by e, and its masks change. -/
theorem modGroup (s : State) {core slot : Nat} (present : s.hasGroup core slot = true) (f : Group → Group)
    (hf : ∀ g, f g = { g with threads := (f g).threads, masks := (f g).masks })
    (hl : ∀ g, (f g).threads.length = g.threads.length) (ht : ∀ (g : Group) l, l < g.threads.length → (f g).thread l = e l (g.thread l)) :
    LandStep s (s.modGroup core slot f) core slot e := by
  have self := s.modGroup_self f present
  refine ⟨?_, fun c => by simp, fun w => by simp, fun c q => s.modGroup_present core slot c q f, fun c q ne => s.modGroup_other f ne, ?_, ?_, fun l hl' => ?_⟩
  · rw [State.modGroup, if_pos present]
    rfl
  · rw [self]
    exact hf _
  · rw [self, hl]
  · rw [State.thread, self, ht _ _ hl', State.thread]

theorem modThread (s : State) {core slot : Nat} (present : s.hasGroup core slot = true) (k : Nat) (f : Thread → Thread) :
    LandStep s (s.modThread core slot k f) core slot (fun l t => if k == l then f t else t) := by
  refine modGroup s present _ (fun g => rfl) (fun g => by simp) (fun g l hl => ?_)
  simp only [Group.thread, List.getD_eq_getElem?_getD, List.getElem?_modify, List.getElem?_eq_getElem hl, Option.map_some, Option.getD_some, beq_iff_eq]
  split <;> rfl

theorem modWg (s : State) (core slot w : Nat) (f : Workgroup → Workgroup) (hf : ∀ x, f x = { x with replay := (f x).replay, bars := (f x).bars } := by intro _; rfl) :
    LandStep s (s.modWg w f) core slot (fun _ x => x) := by
  refine of_groups core slot rfl (fun _ => rfl) (fun v => ?_)
  by_cases h : v = w
  · rw [h, s.modWg_self]
    exact hf _
  · rw [s.modWg_other f h]

theorem modCore (s : State) (core slot k : Nat) (f : Core → Core) (hf : ∀ x, f x = { x with rel := (f x).rel, landed := (f x).landed } := by intro _; rfl) :
    LandStep s (s.modCore k f) core slot (fun _ x => x) := by
  refine of_groups core slot rfl (fun c => ?_) (fun _ => rfl)
  by_cases h : c = k
  · rw [h, s.modCore_self]
    exact hf _
  · rw [s.modCore_other f h]

theorem noteFirst (s : State) (core slot w : Nat) (l : List (Nat × Nat × Nat)) : LandStep s (s.noteFirst w l) core slot (fun _ x => x) := by
  unfold State.noteFirst
  split
  · exact modWg s core slot w _
  · exact refl s core slot

theorem noteLoads (s : State) (core slot w : Nat) (l : List Long) : LandStep s (s.noteLoads w l) core slot (fun _ x => x) := by
  unfold State.noteLoads
  split
  · exact refl s core slot
  · exact modWg s core slot w _

theorem mend (s : State) (core slot : Nat) (p : Bad → Bool) : LandStep s (s.mend p) core slot (fun _ x => x) := of_groups core slot rfl (fun _ => rfl) (fun _ => rfl)

theorem release (s : State) (core slot k ctx : Nat) (w : Word) : LandStep s (s.release k ctx w) core slot (fun _ x => x) := by
  have base (b : RelBatch) : LandStep s (s.modCore k (fun x => { x with rel := tblPut x.rel (proxyStack w) b })) core slot (fun _ x => x) := modCore s core slot k _
  have now (u : State) (i : Instr) : LandStep u (u.now i) core slot (fun _ x => x) := of_groups core slot rfl (fun _ => rfl) (fun _ => rfl)
  have later (u : State) (n : Nat) (i : Instr) : LandStep u (u.inCycles k n i) core slot (fun _ x => x) := of_groups core slot rfl (fun _ => rfl) (fun _ => rfl)
  unfold State.release
  dsimp only
  split
  · exact (base _).trans (now _ _)
  · split
    · exact (base _).trans (later _ _ _)
    · exact base _

/-- A list of steps, each of which keeps a property that it needs. -/
theorem foldl {α : Type} {f : State → α → State} {e : α → Nat → Thread → Thread} {P : State → Prop}
    (hf : ∀ s a, P s → LandStep s (f s a) core slot (e a) ∧ P (f s a)) (l : List α) (s : State) (hs : P s) :
    LandStep s (l.foldl f s) core slot (fun k t => l.foldl (fun t a => e a k t) t) ∧ P (l.foldl f s) := by
  induction l generalizing s with
  | nil => exact ⟨refl s core slot, hs⟩
  | cons a r ih =>
    obtain ⟨one, keeps⟩ := hf s a hs
    obtain ⟨rest, last⟩ := ih _ keeps
    exact ⟨one.trans rest, last⟩

end LandStep

/-! ### One register of a lane (R18, R51) -/

/-- A register of a thread takes a value; register 0x1FE discards it. -/
def Thread.putReg (t : Thread) (r : Nat) (v : Reg) : Thread := if r = 0x1FE then t else { t with regs := tblSet {} t.regs r v }

/-- R51, R146: what a lane's write does to a thread of the group. -/
def LaneWrite.put (w : LaneWrite) (l : Nat) (t : Thread) : Thread := if w.lane == l && !t.exited then t.putReg w.reg ⟨w.val, w.tag⟩ else t

theorem LandStep.writeReg (s : State) {core slot : Nat} (present : s.hasGroup core slot = true) (lane r : Nat) (v : Word) (tag : Bool) :
    LandStep s (s.writeReg core slot lane r v tag) core slot (fun l t => if lane == l then t.putReg r ⟨v, tag⟩ else t) := by
  unfold State.writeReg
  split
  next h =>
    refine (LandStep.refl s core slot).congr fun l x => ?_
    simp [Thread.putReg, h]
  next h =>
    have noted := LandStep.noteFirst s core slot (s.wgOf core slot) [(0, (s.group core slot).idx, r)]
    have written := noted.trans (LandStep.modThread _ ((noted.present _ _).trans present) lane (fun t => { t with regs := tblSet {} t.regs r ⟨v, tag⟩ }))
    have masked := written.trans (LandStep.modGroup (e := fun _ x => x) _ ((written.present _ _).trans present)
      (fun g => { g with masks := g.masks.filter (fun m => !(m.lane = lane && m.reg = r)) }) (fun _ => rfl) (fun _ => rfl) (fun _ _ _ => rfl))
    have mended := masked.trans (LandStep.mend _ core slot (fun b => b.unit == uREG && b.index == core && b.loc == regLoc slot lane r))
    have put : ∀ l (x : Thread), (if lane == l then { x with regs := tblSet {} x.regs r ⟨v, tag⟩ } else x) = if lane == l then x.putReg r ⟨v, tag⟩ else x := by
      intro l x
      simp [Thread.putReg, h]
    dsimp only
    split
    · exact (mended.trans (LandStep.release _ core slot core _ _)).congr put
    · exact mended.congr put

/-! ### A whole result (R51) -/

/-- The core of the result, and its group, as a landing needs them. -/
def MayLand (s : State) (core slot id : Nat) : Prop := s.hasGroup core slot = true ∧ NoneLater s core id

theorem tblGet_tblPut_le {t : Tbl Nat} {id : Nat} (h : ∀ k, tblGet 0 t k ≤ id) (key k : Nat) : tblGet 0 (tblPut t key id) k ≤ id := by
  by_cases e : k = key
  · rw [e, tblGet_tblPut_self]
  · rw [tblGet_tblPut_other _ _ _ e]
    exact h k

theorem LandStep.mayLand {s t : State} {core slot : Nat} {e : Nat → Thread → Thread} (h : LandStep s t core slot e) {id : Nat} (may : MayLand s core slot id)
    (landed : (t.core core).landed = (s.core core).landed) : MayLand t core slot id :=
  ⟨(h.present _ _).trans may.1, fun k => by rw [landed]; exact may.2 k⟩

theorem State.release_landed (s : State) (core k ctx : Nat) (w : Word) : ((s.release core ctx w).core k).landed = (s.core k).landed := by
  have base (b : RelBatch) : ((s.modCore core (fun x => { x with rel := tblPut x.rel (proxyStack w) b })).core k).landed = (s.core k).landed := by
    by_cases e : k = core
    · rw [e, s.modCore_self]
    · rw [s.modCore_other _ e]
  unfold State.release
  dsimp only
  split
  · exact base _
  · split
    · exact base _
    · exact base _

theorem State.writeReg_landed (s : State) (core slot lane r : Nat) (v : Word) (tag : Bool) (k : Nat) :
    ((s.writeReg core slot lane r v tag).core k).landed = (s.core k).landed := by
  have noted (w : Nat) (l : List (Nat × Nat × Nat)) : (s.noteFirst w l).core k = s.core k := by
    unfold State.noteFirst
    split <;> simp
  unfold State.writeReg
  dsimp only
  split
  · rfl
  · split
    · rw [State.release_landed]
      simp [noted]
    · simp [noted]

theorem LandStep.landLane (s : State) {id core slot : Nat} (may : MayLand s core slot id) (ctx : Nat) (rep : Bool) (w : LaneWrite) :
    LandStep s (s.landLane id core slot ctx rep w) core slot w.put ∧ MayLand (s.landLane id core slot ctx rep w) core slot id := by
  obtain ⟨present, noneLater⟩ := may
  have first := noneLater (laneKey slot w.lane w.reg)
  unfold State.landLane
  simp only [present, Bool.true_and, first, decide_true, Bool.and_true]
  by_cases out : (s.thread core slot w.lane).exited = true
  · have discards : ∀ l, s.thread core slot l = w.put l (s.thread core slot l) := by
      intro l
      by_cases hl : w.lane = l
      · subst hl
        simp [LaneWrite.put, out]
      · simp [LaneWrite.put, hl]
    simp only [out, Bool.not_true, Bool.false_eq_true, if_false]
    split
    · have step := (LandStep.release s core slot core ctx w.val).congr_at discards
      exact ⟨step, step.mayLand ⟨present, noneLater⟩ (s.release_landed _ _ _ _)⟩
    · exact ⟨(LandStep.refl s core slot).congr_at discards, present, noneLater⟩
  · have writes : ∀ l, (if w.lane == l then (s.thread core slot l).putReg w.reg ⟨w.val, w.tag⟩ else s.thread core slot l) = w.put l (s.thread core slot l) := by
      intro l
      by_cases hl : w.lane = l
      · subst hl
        simp [LaneWrite.put, out]
      · simp [LaneWrite.put, hl]
    simp only [out, Bool.not_false, if_true]
    have step := ((LandStep.writeReg s present w.lane w.reg w.val w.tag).trans
      (LandStep.modCore _ core slot core (fun k => { k with landed := tblPut k.landed (laneKey slot w.lane w.reg) id }))).congr_at writes
    refine ⟨step, (step.present _ _).trans present, fun k => ?_⟩
    rw [State.modCore_self]
    refine tblGet_tblPut_le ?_ _ k
    rw [s.writeReg_landed]
    exact noneLater

/-- What a whole result does to a thread of its group, the lane's writes being ws. -/
def landsOn (p : Pend) (l : Nat) (t : Thread) : Thread :=
  let a := p.srs.foldl (fun t x => if x.1 == l then t.srWrite x.2.1 x.2.2 else t) t
  let b := p.writes.foldl (fun t w => w.put l t) a
  let c := p.preds.foldl (fun t q => if q.1 == l then t.setPred q.2.1 q.2.2 else t) b
  p.flags.foldl (fun t q => if q.1 == l then { t with fpflags := t.fpflags ||| q.2 } else t) c

theorem LandStep.modThreads {α : Type} (s : State) {core slot id : Nat} (may : MayLand s core slot id) (k : α → Nat) (f : α → Thread → Thread) (l : List α) :
    LandStep s (l.foldl (fun s a => s.modThread core slot (k a) (f a)) s) core slot (fun j t => l.foldl (fun t a => if k a == j then f a t else t) t) ∧
      MayLand (l.foldl (fun s a => s.modThread core slot (k a) (f a)) s) core slot id := by
  refine LandStep.foldl (P := fun s => MayLand s core slot id) (e := fun a j t => if k a == j then f a t else t) (fun u a hu => ?_) l s may
  have step := LandStep.modThread u hu.1 (k a) (f a)
  exact ⟨step, step.mayLand hu (by simp)⟩

/-- R51, R146: every part of a result arrives. -/
theorem LandStep.land (s : State) (id : Nat) (p : Pend) (may : MayLand s p.core p.slot id) : LandStep s (s.land id p) p.core p.slot (landsOn p) := by
  obtain ⟨srs, may1⟩ := LandStep.modThreads s may (fun x => x.1) (fun x t => t.srWrite x.2.1 x.2.2) p.srs
  obtain ⟨writes, may2⟩ := LandStep.foldl (P := fun s => MayLand s p.core p.slot id) (e := fun w => w.put)
    (fun u w hu => LandStep.landLane u hu (s.ctxOfWg (s.wgOf p.core p.slot)) (s.replaying (s.wgOf p.core p.slot)) w) p.writes _ may1
  obtain ⟨preds, may3⟩ := LandStep.modThreads _ may2 (fun x => x.1) (fun q t => t.setPred q.2.1 q.2.2) p.preds
  obtain ⟨flags, -⟩ := LandStep.modThreads _ may3 (fun x => x.1) (fun q t => { t with fpflags := t.fpflags ||| q.2 }) p.flags
  have all := ((srs.trans writes).trans preds).trans flags
  unfold State.land
  dsimp only
  split
  · exact all.trans (LandStep.modWg _ p.core p.slot _ _)
  · exact all

/-! ### What a thread reads after a result has landed (R18, R50, R51) -/

theorem Thread.putReg_regs (t : Thread) (r : Nat) (v : Reg) : t.putReg r v = { t with regs := (t.putReg r v).regs } := by
  unfold Thread.putReg
  split <;> rfl

theorem Thread.putReg_reg (t : Thread) (r k : Nat) (v : Reg) : (t.putReg r v).reg k = if k = r ∧ r ≠ 0x1FE then v else t.reg k := by
  unfold Thread.putReg Thread.reg
  split
  next h => simp [h]
  next h =>
    by_cases e : k = r
    · simp [e, h, tblGet_tblSet_self]
    · simp [e, tblGet_tblSet_other _ _ _ e]

theorem LaneWrite.put_regs (w : LaneWrite) (l : Nat) (t : Thread) : w.put l t = { t with regs := (w.put l t).regs } := by
  unfold LaneWrite.put
  split
  · exact t.putReg_regs _ _
  · rfl

theorem puts_regs (ws : List LaneWrite) (l : Nat) (t : Thread) :
    ws.foldl (fun t w => w.put l t) t = { t with regs := (ws.foldl (fun t w => w.put l t) t).regs } := by
  induction ws generalizing t with
  | nil => rfl
  | cons w r ih =>
    rw [List.foldl_cons, ih, w.put_regs]

theorem lastWrite_cons (w : LaneWrite) (ws : List LaneWrite) (l r : Nat) (old : Reg) :
    lastWrite (w :: ws) l r old = lastWrite ws l r (if w.lane = l ∧ w.reg = r then ⟨w.val, w.tag⟩ else old) := by
  unfold lastWrite
  by_cases h : w.lane = l ∧ w.reg = r
  · simp only [h, beq_self_eq_true, Bool.and_self, List.filter_cons_of_pos, and_self, if_true, List.getLast?_cons]
    cases (ws.filter (fun w => w.lane == l && w.reg == r)).getLast? <;> rfl
  · have : (w.lane == l && w.reg == r) = false := by simpa using h
    simp [this, h]

theorem puts_reg (ws : List LaneWrite) (l r : Nat) (t : Thread) :
    (ws.foldl (fun t w => w.put l t) t).reg r = if t.exited = true ∨ r = 0x1FE then t.reg r else lastWrite ws l r (t.reg r) := by
  induction ws generalizing t with
  | nil =>
    rw [List.foldl_nil]
    split <;> rfl
  | cons w ws ih =>
    have same : (w.put l t).exited = t.exited := by rw [w.put_regs]
    have one : (w.put l t).reg r = if t.exited = false ∧ r ≠ 0x1FE ∧ w.lane = l ∧ w.reg = r then ⟨w.val, w.tag⟩ else t.reg r := by
      unfold LaneWrite.put
      by_cases here : w.lane = l
      · cases out : t.exited
        · simp only [here, beq_self_eq_true, Bool.not_false, Bool.and_self, if_true, t.putReg_reg]
          by_cases e : w.reg = r
          · simp [e]
          · simp [e, Ne.symm e]
        · simp
      · simp [here]
    rw [List.foldl_cons, ih, same, one]
    by_cases stays : t.exited = true ∨ r = 0x1FE
    · rw [if_pos stays, if_pos stays, if_neg]
      rintro ⟨inside, ne, -⟩
      exact stays.elim (fun h => by rw [inside] at h; cases h) ne
    · obtain ⟨inside, ne⟩ := not_or.1 stays
      rw [if_neg stays, if_neg stays, lastWrite_cons]
      simp [inside, ne]

/-- The predicates of lane l after those of a list are written. -/
def setPreds (ps : List (Nat × Nat × Bool)) (l : Nat) (t : Thread) : Thread := ps.foldl (fun t q => if q.1 == l then t.setPred q.2.1 q.2.2 else t) t

theorem Thread.setPred_preds (t : Thread) (q : Nat) (b : Bool) : t.setPred q b = { t with preds := (t.setPred q b).preds } := by
  unfold Thread.setPred
  split <;> rfl

theorem setPreds_preds (ps : List (Nat × Nat × Bool)) (l : Nat) (t : Thread) : setPreds ps l t = { t with preds := (setPreds ps l t).preds } := by
  unfold setPreds
  induction ps generalizing t with
  | nil => rfl
  | cons q r ih =>
    rw [List.foldl_cons]
    split
    · rw [ih, t.setPred_preds]
    · exact ih t

theorem Thread.setPred_pred (t : Thread) (q k : Nat) (b : Bool) (hk : k < 7) : (t.setPred q b).pred k = if q = k then b else t.pred k := by
  have high : (k == 7) = false := by simp; omega
  unfold Thread.setPred Thread.pred
  by_cases e : q = k
  · subst e
    simp only [high, Bool.false_eq_true, if_false, Bool.false_or, if_true]
    cases b <;> interval_cases q <;> simp
  · simp only [high, Bool.false_or, e, if_false]
    split
    · rfl
    next h =>
      have : (BitVec.ofNat 8 (2 ^ q)).getLsbD k = false := by
        rw [BitVec.getLsbD_ofNat, Nat.testBit_two_pow_of_ne e, Bool.and_false]
      generalize BitVec.ofNat 8 (2 ^ q) = x at this
      have small : k < 8 := by omega
      cases b with
      | false =>
        simp only [Bool.false_eq_true, if_false, BitVec.getLsbD_and, BitVec.getLsbD_not, this, small, decide_true, Bool.not_false, Bool.and_true]
      | true => simp only [if_true, BitVec.getLsbD_or, this, Bool.or_false]

theorem lastPred_cons (q : Nat × Nat × Bool) (ps : List (Nat × Nat × Bool)) (l k : Nat) (old : Bool) :
    lastPred (q :: ps) l k old = lastPred ps l k (if q.1 = l ∧ q.2.1 = k then q.2.2 else old) := by
  unfold lastPred
  by_cases h : q.1 = l ∧ q.2.1 = k
  · simp only [h, beq_self_eq_true, Bool.and_self, List.filter_cons_of_pos, and_self, if_true, List.getLast?_cons]
    cases (ps.filter (fun w => w.1 == l && w.2.1 == k)).getLast? <;> rfl
  · have : (q.1 == l && q.2.1 == k) = false := by simpa using h
    simp [this, h]

theorem setPreds_pred (ps : List (Nat × Nat × Bool)) (l k : Nat) (t : Thread) (hk : k < 7) : (setPreds ps l t).pred k = lastPred ps l k (t.pred k) := by
  unfold setPreds
  induction ps generalizing t with
  | nil => rfl
  | cons q r ih =>
    rw [List.foldl_cons, ih, lastPred_cons]
    by_cases here : q.1 = l
    · simp [here, t.setPred_pred _ _ _ hk]
    · simp [here]

theorem orFlags (fs : List (Nat × BitVec 5)) (l : Nat) (t : Thread) : fs.foldl (fun t q => if q.1 == l then { t with fpflags := t.fpflags ||| q.2 } else t) t =
    { t with fpflags := (fs.filter (fun x => x.1 == l)).foldl (fun e x => e ||| x.2) t.fpflags } := by
  induction fs generalizing t with
  | nil => rfl
  | cons q r ih =>
    rw [List.foldl_cons, ih]
    by_cases here : q.1 = l
    · simp [here]
    · simp [here]

/-- The special registers that a result writes to lane l. -/
def srsOn (p : Pend) (l : Nat) (t : Thread) : Thread := (p.srs.filter (fun x => x.1 == l)).foldl (fun e x => e.srWrite x.2.1 x.2.2) t

theorem srsOn_eq (p : Pend) (l : Nat) (t : Thread) : srsOn p l t = p.srs.foldl (fun t x => if x.1 == l then t.srWrite x.2.1 x.2.2 else t) t := List.foldl_filter

theorem landsOn_eq (p : Pend) (l : Nat) (t : Thread) : landsOn p l t =
    let b := setPreds p.preds l (p.writes.foldl (fun t w => w.put l t) (srsOn p l t))
    { b with fpflags := (p.flags.filter (fun x => x.1 == l)).foldl (fun e x => e ||| x.2) b.fpflags } := by
  rw [landsOn, orFlags, srsOn_eq]
  rfl

/-- A landing and the fall of its token make a result arrive. -/
theorem LandStep.lands {s t : State} {p : Pend} (h : LandStep s t p.core p.slot (landsOn p)) (present : s.hasGroup p.core p.slot = true) :
    Lands s (t.tokDown p.core p.slot p.tok) p p.writes := by
  have there : t.hasGroup p.core p.slot = true := (h.present _ _).trans present
  refine ⟨?_, ?_, fun c q ne => ?_, fun k => ?_, fun l hl => ?_⟩
  · rw [h.state]
    simp
  · rw [h.state]
    simp
  · rw [← h.others c q ne]
    unfold State.tokDown
    split
    · rfl
    · exact t.modGroup_other _ ne
  · rw [t.tokDown_token there, h.here]
    rfl
  · have at_l : (t.tokDown p.core p.slot p.tok).thread p.core p.slot l = landsOn p l (s.thread p.core p.slot l) := by
      rw [State.thread, t.tokDown_tokens, ← h.thread l hl]
      rfl
    have regs := puts_regs p.writes l (srsOn p l (s.thread p.core p.slot l))
    have preds := setPreds_preds p.preds l (p.writes.foldl (fun t w => w.put l t) (srsOn p l (s.thread p.core p.slot l)))
    dsimp only
    rw [at_l, landsOn_eq]
    refine ⟨?_, fun r => ?_, fun q hq => ?_, ?_⟩
    · dsimp only
      rw [preds, regs]
      rfl
    · refine Eq.trans ?_ (puts_reg p.writes l r (srsOn p l (s.thread p.core p.slot l)))
      dsimp only
      rw [preds]
      rfl
    · refine (setPreds_pred p.preds l q _ hq).trans ?_
      rw [regs]
      rfl
    · dsimp only
      rw [preds, regs]
      rfl

/-! ### The events that bring a result (R50, R51, R121, R230) -/

/-- A result that has left the table arrives, and is no longer under way. -/
theorem landed_of_land {s s0 t : State} {id : Nat} {p : Pend} (ws : List LaneWrite) (present : s.hasGroup p.core p.slot = true) (noneLater : NoneLater s p.core id)
    (removed : s0 = { s with cores := s0.cores, pends := tblDel s.pends id }) (landed : (s0.core p.core).landed = (s.core p.core).landed)
    (step : ∀ {e}, LandStep s0 (s0.land id { p with writes := ws }) p.core p.slot e → LandStep s0 t p.core p.slot e) :
    Claims.Landed s id p ws (.next (t.tokDown p.core p.slot p.tok)) := by
  have groups : s0.groups = s.groups := by rw [removed]
  have group (c q : Nat) : s0.group c q = s.group c q := by rw [State.group, groups, State.group]
  have present0 : s0.hasGroup p.core p.slot = true := by rw [State.hasGroup, groups]; exact present
  have land := step (LandStep.land s0 id { p with writes := ws } ⟨present0, fun k => by rw [landed]; exact noneLater k⟩)
  obtain ⟨mem, hostMem, others, token, threads⟩ := LandStep.lands (p := { p with writes := ws }) land present0
  refine ⟨_, rfl, ⟨?_, ?_, fun c q ne => (others c q ne).trans (group c q), ?_, ?_⟩, ?_⟩
  · exact mem.trans (by rw [removed])
  · exact hostMem.trans (by rw [removed])
  · simpa only [group] using token
  · have thread (l : Nat) : s0.thread p.core p.slot l = s.thread p.core p.slot l := by rw [State.thread, group, State.thread]
    simp only [group, thread] at threads
    exact threads
  · have : (t.tokDown p.core p.slot p.tok).pends = s0.pends := by
      rw [land.state]
      simp
    rw [this, removed]

/-- What a load that met an uncorrectable codeword leaves (R231, R335, R350). -/
def FaultsWith (s t : State) (id : Nat) (p : Pend) (ea : Long) : Prop :=
  t.mem = s.mem ∧ t.pends = tblDel s.pends id ∧ t.mcNext = s.mcNext + 1 ∧ (t.group p.core p.slot).stopped = true ∧
    (∀ k, (t.group p.core p.slot).token k = (s.group p.core p.slot).token k - (if k = p.tok ∧ k ≠ 0 then 1 else 0)) ∧
    ∀ l, l < (s.group p.core p.slot).threads.length → t.thread p.core p.slot l = if p.lanes.getLsbD l then
      { s.thread p.core p.slot l with tcause := 0x12, tlanes := p.act, tpc := p.pos, tvalue := ea } else s.thread p.core p.slot l

theorem loadFault_faults {s s0 : State} {id : Nat} {p : Pend} (present : s.hasGroup p.core p.slot = true)
    (removed : s0 = { s with cores := s0.cores, pends := tblDel s.pends id }) (lane : Nat) (b : Bad) :
    FaultsWith s (s0.loadFault p lane b) id p (((p.eas.find? (fun x => x.1 == lane)).map (fun x => x.2)).getD 0) := by
  have groups : s0.groups = s.groups := by rw [removed]
  have group (c q : Nat) : s0.group c q = s.group c q := by rw [State.group, groups, State.group]
  have present0 : s0.hasGroup p.core p.slot = true := by rw [State.hasGroup, groups]; exact present
  have mem : s0.mem = s.mem := by rw [removed]
  have pends : s0.pends = tblDel s.pends id := by rw [removed]
  have mcNext : s0.mcNext = s.mcNext := by rw [removed]
  let v := s0.machineCheck b.unit 3 b.index b.loc (s0.ctxOfWg (s0.wgOf p.core p.slot))
  let u := v.tokDown p.core p.slot p.tok
  have presentU : u.hasGroup p.core p.slot = true := by
    rw [State.tokDown_present]
    exact present0
  have groupU : u.group p.core p.slot = { s.group p.core p.slot with tokens := (u.group p.core p.slot).tokens } := by
    rw [v.tokDown_tokens, ← group]
    rfl
  have st := u.stopGroup_stopsGroup presentU p.lanes p.act { code := cUNCORR, kind := 1, pathB := p.path == 1, pos := p.pos, tvalue := ((p.eas.find? (fun x => x.1 = lane)).map (fun x => x.2)).getD 0, mc := BitVec.ofNat 32 s0.mcNext }
  refine ⟨?_, ?_, ?_, st.stopped, fun k => ?_, fun l hl => ?_⟩
  · refine st.mem.trans ?_
    simp [u, v, mem]
  · refine st.pends.trans ?_
    simp [u, v, pends]
  · refine st.mcNext.trans ?_
    simp [u, v, State.machineCheck, mcNext]
  · refine (st.token k).trans ((v.tokDown_token present0 p.tok k).trans ?_)
    rw [← group]
    rfl
  · have threads : u.thread p.core p.slot l = s.thread p.core p.slot l := by
      rw [State.thread, groupU]
      rfl
    refine (st.thread l ?_).trans ?_
    · rw [groupU]
      exact hl
    · rw [threads]
      rfl

theorem fixedLatencyWrite_lands {s : State} {id : Nat} {p : Pend} (found : tblFind s.pends id = some p) (present : s.hasGroup p.core p.slot = true)
    (noneLater : NoneLater s p.core id) (quiet : p.traps = 0) (good : p.bad = none) : Claims.Landed s id p p.writes (exec (.fixedLatencyWrite id) s) := by
  have run : exec (.fixedLatencyWrite id) s = .next ((State.land { s with pends := tblDel s.pends id } id p).tokDown p.core p.slot p.tok) := by
    show execFixedLatencyWrite id s = _
    simp only [execFixedLatencyWrite, found, good, quiet, if_true]
  rw [run]
  exact landed_of_land (s0 := { s with pends := tblDel s.pends id }) p.writes present noneLater rfl rfl fun step => step

theorem arriveLate_lands {s : State} {id : Nat} {p : Pend} (found : tblFind s.pends id = some p) (present : s.hasGroup p.core p.slot = true)
    (noneLater : NoneLater s p.core id) (quiet : p.traps = 0) : Claims.Landed s id p p.writes (.next (s.arriveLate id)) := by
  have run : s.arriveLate id = (State.land { s with pends := tblDel s.pends id } id p).tokDown p.core p.slot p.tok := by
    simp only [State.arriveLate, found, quiet, if_true]
  rw [run]
  exact landed_of_land (s0 := { s with pends := tblDel s.pends id }) p.writes present noneLater rfl rfl fun step => step

/-- What a completed load writes. -/
def loadedWrites (p : Pend) : List LaneWrite :=
  if p.size = 0 then p.writes else ((lanesOf p.act).map (fun l => loadWrites p.dst p.size p.sx l p.bytes p.overtaken)).flatten

theorem leNat_lt (l : List Byte) : leNat l < 256 ^ l.length := by
  induction l with
  | nil => simp [leNat]
  | cons b r ih =>
    have := b.isLt
    rw [leNat, List.length_cons, pow_succ]
    omega

/-- R219: the words of a load, its value extended by its sign where it is shorter than a word and signed. -/
theorem loadWrites_eq {dst n : Nat} (some : n ≠ 0) (hd : dst ≠ 0x1FE) (sx : Bool) (l : Nat) (bytes : Tbl Byte) (tag : Bool) : loadWrites dst n sx l bytes tag =
    (let x := leNat (tabBytes bytes (l * 16) n)
      let v := if sx = true ∧ n < 4 ∧ 2 ^ (8 * n - 1) ≤ x then x + 2 ^ 32 - 2 ^ (8 * n) else x
      (List.range ((n + 3) / 4)).map (fun j => { lane := l, reg := dst + j, val := BitVec.ofNat 32 (v / 2 ^ (32 * j)), tag := tag : LaneWrite })) := by
  have bound := leNat_lt (tabBytes bytes (l * 16) n)
  rw [tabBytes, List.length_map, List.length_range] at bound
  unfold loadWrites
  rw [if_neg hd]
  unfold tabBytes
  generalize leNat ((List.range n).map fun i => tblGet 0 bytes (l * 16 + i)) = x at bound
  have value : (if sx && n < 4 then (wrap32 (sext x (8 * n))).toNat else x) = if sx = true ∧ n < 4 ∧ 2 ^ (8 * n - 1) ≤ x then x + 2 ^ 32 - 2 ^ (8 * n) else x := by
    by_cases short : sx = true ∧ n < 4
    · obtain ⟨signed, lt⟩ := short
      simp only [signed, lt, decide_true, Bool.and_self, if_true, true_and, sext, wrap32]
      interval_cases n
      · omega
      all_goals
        norm_num at bound ⊢
        rw [Nat.mod_eq_of_lt bound]
        split_ifs
        all_goals omega
    · have off : (sx && decide (n < 4)) = false := by simpa using short
      have off' : ¬ (sx = true ∧ n < 4 ∧ 2 ^ (8 * n - 1) ≤ x) := fun h => short ⟨h.1, h.2.1⟩
      rw [off, if_neg off']
      rfl
  simp only [value]

/-- The values and the report that a completed load logs under replay (R394). -/
def loadedValues (p : Pend) : List Long :=
  (if p.size = 0 then [] else (lanesOf p.act).flatMap (fun l =>
    (List.range ((p.size + 7) / 8)).map (fun j => BitVec.ofNat 64 (leNat (tabBytes p.bytes (l * 16 + 8 * j) (min 8 (p.size - 8 * j))))))) ++
  p.preds.map (fun q => if q.2.2 then (1 : Long) else 0)

/-- The queue of its core lets a completed load go. -/
def State.loadGone (s : State) (id : Nat) (p : Pend) : State :=
  { s with pends := tblDel s.pends id }.modCore p.core (fun c => { c with mq := c.mq.filter (fun o => o.id ≠ id) })

theorem State.loadGone_eq (s : State) (id : Nat) (p : Pend) : s.loadGone id p = { s with cores := (s.loadGone id p).cores, pends := tblDel s.pends id } := rfl

/-- R230: a load whose bytes have come and for which nothing is on its way. -/
structure LoadDone (s : State) (id : Nat) (p : Pend) : Prop where
  found : tblFind s.pends id = some p
  missing : p.missing = []
  wait : p.wait = 0
  unwaited : Unwaited s id

theorem loadCompletion_faults {s : State} {id : Nat} {p : Pend} {lane : Nat} {b : Bad} (ready : LoadDone s id p) (bad : p.bad = some (lane, b)) :
    exec (.loadCompletion id) s = .next ((s.loadGone id p).loadFault p lane b) := by
  obtain ⟨found, missing, wait, msgs, invals, gathered⟩ := ready
  show execLoadCompletion id s = _
  simp only [execLoadCompletion, found, missing, wait, msgs, invals, gathered, bad]
  rfl

theorem loadCompletion_lands {s : State} {id : Nat} {p : Pend} (ready : LoadDone s id p) (present : s.hasGroup p.core p.slot = true) (noneLater : NoneLater s p.core id)
    (good : p.bad = none) : Claims.Landed s id p (loadedWrites p) (exec (.loadCompletion id) s) := by
  obtain ⟨found, missing, wait, msgs, invals, gathered⟩ := ready
  have run : exec (.loadCompletion id) s = .next ((((s.loadGone id p).land id { p with writes := loadedWrites p }).noteLoads ((s.loadGone id p).wgOf p.core p.slot) (loadedValues p)).tokDown
      p.core p.slot p.tok) := by
    show execLoadCompletion id s = _
    simp only [execLoadCompletion, found, missing, wait, msgs, invals, gathered, good]
    rfl
  rw [run]
  refine landed_of_land (loadedWrites p) present noneLater (s.loadGone_eq id p) ?_ fun step => step.trans (LandStep.noteLoads _ p.core p.slot _ _)
  rw [State.loadGone, State.modCore_self]
  rfl

end Sys2Proof.Machine

namespace Sys2Proof.Proofs.Results

open Sys2Proof.Machine Sys2Proof.Claims

/-- R20: a result is written when it is due. -/
theorem resultsAreWritten : ResultsAreWritten := by
  intro s id p found present noneLater
  refine ⟨fun quiet => ⟨fixedLatencyWrite_lands found present noneLater quiet, arriveLate_lands found present noneLater quiet, arriveLate_lands found present noneLater quiet⟩,
    fun missing wait good unwaited => ?_⟩
  have lands := loadCompletion_lands ⟨found, missing, wait, unwaited⟩ present noneLater good
  refine ⟨fun none => ?_, fun some dst => ?_⟩
  · rw [loadedWrites, if_pos none] at lands
    exact lands
  · rw [loadedWrites, if_neg some] at lands
    have same : (fun l => loadWrites p.dst p.size p.sx l p.bytes p.overtaken) = fun l => _ := funext fun l => loadWrites_eq some dst p.sx l p.bytes p.overtaken
    rw [same] at lands
    exact lands

theorem loadFaults : LoadFaults := by
  intro s id p lane b found present bad ea stops
  refine ⟨⟨_, ?_, loadFault_faults (s0 := { s with pends := tblDel s.pends id }) present rfl lane b⟩, fun missing wait unwaited =>
    ⟨_, loadCompletion_faults ⟨found, missing, wait, unwaited⟩ bad, loadFault_faults present (s.loadGone_eq id p) lane b⟩⟩
  show execFixedLatencyWrite id s = _
  simp only [execFixedLatencyWrite, found, bad]

/-- Settles O1: a landing is a fold of writes to its group's threads, and an uncorrectable codeword stops the group instead. -/
theorem resultsArrive : Obligations.ResultsArrive := ⟨resultsAreWritten, loadFaults⟩

end Sys2Proof.Proofs.Results
end

section
/-! SUPPORT. Control transfers (R143-R145): the lanes that go to a target and those that go on, and what stops a transfer. -/

namespace Sys2Proof.Machine

open Sys2Proof.Claims

/-! ### The lanes of a first issue -/

/-- R41: a lane that a guard selects is one of the issue. -/
theorem State.active_lane {s : State} (first : s.cur.phase = 0) (h : Hdr) {l : Nat} (act : (s.active h).getLsbD l = true) : s.cur.lanes.getLsbD l = true := by
  have small : l < 32 := BitVec.lt_of_getLsbD act
  rw [State.active, if_neg (by omega), getLsbD_maskOf _ _ small, List.contains_iff_mem] at act
  exact mem_lanesOf.1 (List.mem_filter.1 act).1

theorem LandStep.cur {s t : State} {core slot : Nat} {e : Nat → Thread → Thread} (h : LandStep s t core slot e) : t.cur = s.cur := by rw [h.state]

/-! ### An effect on lanes, and then the issue retires (R38, R133) -/

/-- An issue that changes its threads and then retires advances; the change may be read after the advance. -/
theorem LandStep.moved {s u : State} {g e : Nat → Thread → Thread} (step : LandStep s u s.cur.core s.cur.slot g) (first : First s) (h : Hdr) (p : Nat → Long)
    (inside : ∀ l, s.cur.lanes.getLsbD l = true → s.goesOn h p l (g l (mine s l)) = e l (s.goesOn h p l (mine s l)))
    (outside : ∀ l, s.cur.lanes.getLsbD l = false → g l (mine s l) = mine s l) : Moved s (u.retire h p) h p e ∧ TokensKept s (u.retire h p) := by
  have hphase := first.1
  have present := first.2.2.2.2.2
  have cur := step.cur
  have there : u.hasGroup u.cur.core u.cur.slot = true := by rw [cur, step.present, present]
  have r : Retired u (u.retire h p) := .retire u h p (by rw [cur]; exact hphase)
  obtain ⟨⟨mem, hostMem, others⟩, rwc, threads⟩ := u.retire_moved h p (by rw [cur]; exact hphase) there
  have wg : u.curWg = s.curWg := by
    rw [State.curWg, u.wgOf_present there, State.curWg, s.wgOf_present present, cur, step.here]
  rw [wg] at rwc
  simp only [cur] at others threads
  refine ⟨⟨⟨mem.trans (by rw [step.state]), hostMem.trans (by rw [step.state]), fun c q ne => (others c q ne).trans (by rw [step.others c q ne])⟩, ?_, fun l hl => ?_⟩, fun k => ?_⟩
  · rw [rwc, step.wgKept]
  · have at_l : mine u l = g l (mine s l) := by
      rw [mine, cur]
      exact step.thread l hl
    rw [threads l (by rw [step.length]; exact hl), at_l]
    by_cases i : s.cur.lanes.getLsbD l = true
    · rw [if_pos i, if_pos i]
      exact inside l i
    · rw [if_neg i, if_neg i]
      exact outside l (by simpa using i)
  · have := r.token s.cur.core s.cur.slot k
    rw [this, step.here]
    rfl

/-- An effect on the lanes that a guard selects, which moves none of them, and then the issue retires. -/
theorem LandStep.retires {s u : State} {g : Nat → Thread → Thread} {h : Hdr} (step : LandStep s u s.cur.core s.cur.slot (fun l t => if (s.active h).getLsbD l then g l t else t))
    (first : First s) (p : Nat → Long) {e : Nat → Thread → Thread} (commutes : ∀ l, s.goesOn h p l (g l (mine s l)) = e l (s.goesOn h p l (mine s l)) ) {o : Host.Outcome State Fault Refusal}
    (out : o = .next (u.retire h p)) : Retires s h o p (fun l t => if (s.active h).getLsbD l then e l t else t) := by
  refine ⟨_, out, step.moved first h p (fun l _ => ?_) fun l o => ?_⟩
  · by_cases a : (s.active h).getLsbD l = true
    · rw [if_pos a, if_pos a, commutes]
    · rw [if_neg a, if_neg a]
  · rw [if_neg]
    intro a
    rw [s.active_lane first.1 h a] at o
    cases o

/-- A first issue that changes nothing and retires. -/
theorem retires_of_retire {s : State} (first : First s) (h : Hdr) (p : Nat → Long) : Retires s h (.next (s.retire h p)) p (fun _ t => t) :=
  ⟨_, rfl, (LandStep.refl s _ _).moved first h p (fun _ _ => rfl) fun _ _ => rfl⟩

theorem LandStep.modLanes (s : State) {core slot : Nat} (present : s.hasGroup core slot = true) (m : BitVec 32) (g : Nat → Thread → Thread) :
    LandStep s (s.modLanes core slot m g) core slot (fun l t => if m.getLsbD l then g l t else t) :=
  .modGroup s present _ (fun _ => rfl) (fun _ => by simp [Group.modLanes]) (fun _ _ hl => Group.modLanes_thread _ _ _ _ hl)

/-! ### A transfer whose targets pass -/

/-- What the transfer's lanes go to: the target found for the lane, or the sequential successor. -/
def destOf (s : State) (found : List (Nat × Long)) (l : Nat) : Long := ((found.find? (fun p => p.1 = l)).map (fun p => p.2)).getD (seqPos s.cur.pos)

theorem State.badTarget_none {s : State} {found : List (Nat × Long)} (pass : ∀ p ∈ found, Passes s p.2) : s.badTarget found = none := by
  rw [State.badTarget, List.findSome?_eq_none_iff]
  intro p hp
  obtain ⟨b, hb⟩ := pass p hp
  rw [hb]

theorem State.transfer_passes {s : State} (first : First s) (h : Hdr) (i : Instr) (act : BitVec 32) {found : List (Nat × Long)} (eff : State → State)
    (pass : ∀ p ∈ found, Passes s p.2) (cur : (eff s).cur = s.cur) : s.transfer h i act found eff = (eff s).retire h (destOf s found) := by
  obtain ⟨hphase, hnums, -⟩ := first
  have quiet : ¬ (eff s).cur.phase > 0 := by rw [cur]; omega
  rw [State.transfer]
  simp only [hnums, List.isEmpty_nil, if_true, s.badTarget_none pass]
  rw [State.doneNow, if_neg quiet]
  rfl

/-- A list of lanes, each with its target. -/
theorem find?_map_lane (L : List Nat) (tgt : Nat → Long) (l : Nat) : ((L.map (fun k => (k, tgt k))).find? (fun p => p.1 = l)).map (fun p => p.2) = if l ∈ L then some (tgt l) else none := by
  induction L with
  | nil => rfl
  | cons k r ih =>
    rw [List.map_cons, List.find?_cons]
    by_cases e : k = l
    · simp [e]
    · simpa [e, Ne.symm e] using ih

/-- The lanes of a list that pass a test on lane and target, with their targets. -/
theorem filter_map_lane (L : List Nat) (tgt : Nat → Long) (q : Nat × Long → Bool) :
    (L.map (fun k => (k, tgt k))).filter q = (L.filter (fun k => q (k, tgt k))).map (fun k => (k, tgt k)) := by
  rw [List.filter_map]
  rfl

/-- The active lanes that q selects go to their target. -/
theorem destOf_lanes (s : State) (act : BitVec 32) (q : Nat → Bool) (tgt : Nat → Long) (l : Nat) :
    destOf s (((lanesOf act).filter q).map (fun k => (k, tgt k))) l = if act.getLsbD l = true ∧ q l = true then tgt l else seqPos s.cur.pos := by
  rw [destOf, find?_map_lane]
  simp only [List.mem_filter, mem_lanesOf]
  split <;> rfl

/-- The lanes of a branch go to their targets; one whose target is the sequential successor needs none. -/
theorem destOf_branch (s : State) (h : Hdr) (tgt : Nat → Long) :
    destOf s (((lanesOf (s.active h)).map (fun k => (k, tgt k))).filter (fun p => p.2 ≠ seqPos s.cur.pos)) = goes s h tgt := by
  funext l
  rw [filter_map_lane, destOf_lanes, goes]
  by_cases seq : tgt l = seqPos s.cur.pos
  · simp [seq]
  · simp [seq]

theorem destOf_all (s : State) (h : Hdr) (tgt : Nat → Long) : destOf s ((lanesOf (s.active h)).map (fun k => (k, tgt k))) = goes s h tgt := by
  funext l
  rw [← List.filter_true (lanesOf (s.active h)), destOf_lanes, goes]
  simp

/-- R143: a branch or a call whose targets may be gone to. -/
theorem State.branchTo_reaches {s : State} (first : First s) (h : Hdr) (i : Instr) (act : BitVec 32) {targets : List (Nat × Long)} (eff : State → State)
    (reach : ∀ p ∈ targets, Reaches s p.2) (cur : (eff s).cur = s.cur) :
    s.branchTo h i act targets eff = (eff s).retire h (destOf s (targets.filter (fun p => p.2 ≠ seqPos s.cur.pos))) := by
  refine State.transfer_passes first h i act eff (fun p hp => ?_) cur
  obtain ⟨mem, ne⟩ := List.mem_filter.1 hp
  exact (reach p mem).resolve_left (by simpa using ne)

/-- R46: the target of a branch, as the claims write it. -/
theorem branchTarget_eq (f : FmtB) (p : Long) : branchTarget f p = branchTo f p := by
  rw [branchTarget, Claims.branchTo, lineOf]

/-- R143: a branch that changes nothing of its threads. -/
theorem branch_retires {s : State} (first : First s) (h : Hdr) (i : Instr) {tgt : Nat → Long} (reach : ∀ l ∈ lanesOf (s.active h), Reaches s (tgt l)) :
    Retires s h (.next (s.branchTo h i (s.active h) ((lanesOf (s.active h)).map (fun l => (l, tgt l))) id)) (goes s h tgt) (fun _ t => t) := by
  rw [State.branchTo_reaches first h i _ id (by simpa using reach) rfl, destOf_branch]
  exact retires_of_retire first h _

/-- R143: a branch on a register: the lanes that q does not select have the sequential successor as their target. -/
theorem State.branchTo_selected (s : State) (h : Hdr) (i : Instr) (act : BitVec 32) (q : Nat → Bool) (tgt : Long) (eff : State → State) :
    s.branchTo h i act (((lanesOf act).filter q).map (fun l => (l, tgt))) eff =
      s.branchTo h i act ((lanesOf act).map (fun l => (l, if q l then tgt else seqPos s.cur.pos))) eff := by
  have same : (((lanesOf act).filter q).map (fun l => (l, tgt))).filter (fun p => p.2 ≠ seqPos s.cur.pos) =
      ((lanesOf act).map (fun l => (l, if q l then tgt else seqPos s.cur.pos))).filter (fun p => p.2 ≠ seqPos s.cur.pos) := by
    induction lanesOf act with
    | nil => rfl
    | cons k r ih =>
      by_cases sel : q k = true
      · simp only [List.filter_cons, List.map_cons, sel, if_true, ih]
      · simp only [List.filter_cons, List.map_cons, sel, Bool.false_eq_true, if_false, ih, ne_eq, not_true_eq_false, decide_false]
  rw [State.branchTo, same, State.branchTo]

/-! ### The return stack (R22) -/

/-- A byte of a table after bytes are placed in it. -/
theorem tblGet_tabSetAll_placed (l : List Byte) (t : Tbl Byte) (a k : Nat) :
    tblGet 0 (tabSetAll t (placed a l)) k = if a ≤ k ∧ k < a + l.length then l.getD (k - a) 0 else tblGet 0 t k := by
  induction l generalizing t a with
  | nil =>
    rw [if_neg (by simp)]
    rfl
  | cons b r ih =>
    show tblGet 0 (tabSetAll (tblSet 0 t a b) (placed (a + 1) r)) k = _
    rw [ih]
    by_cases e : k = a
    · subst e
      rw [if_neg (by omega), if_pos (by simp), tblGet_tblSet_self, Nat.sub_self, List.getD_cons_zero]
    · rw [tblGet_tblSet_other _ _ _ e]
      have same : (a + 1 ≤ k ∧ k < a + 1 + r.length) ↔ (a ≤ k ∧ k < a + (b :: r).length) := by
        rw [List.length_cons]
        omega
      by_cases inside : a + 1 ≤ k ∧ k < a + 1 + r.length
      · rw [if_pos inside, if_pos (same.1 inside), show k - a = (k - (a + 1)) + 1 by omega, List.getD_cons_succ]
      · rw [if_neg inside, if_neg (fun h => inside (same.2 h))]

theorem leBytes_length (n x : Nat) : (leBytes n x).length = n := by
  induction n generalizing x with
  | zero => rfl
  | succ k ih => rw [leBytes, List.length_cons, ih]

theorem leNat_leBytes (n x : Nat) : leNat (leBytes n x) = x % 256 ^ n := by
  induction n generalizing x with
  | zero => simp [leBytes, leNat, Nat.mod_one]
  | succ k ih =>
    rw [leBytes, leNat, ih, BitVec.toNat_ofNat]
    show x % 256 + 256 * (x / 256 % 256 ^ k) = x % 256 ^ (k + 1)
    rw [pow_succ, Nat.mul_comm (256 ^ k) 256, Nat.mod_mul]

/-- The bytes that were placed are read back. -/
theorem tabBytes_placed (t : Tbl Byte) (a : Nat) (l : List Byte) : tabBytes (tabSetAll t (placed a l)) a l.length = l := by
  refine List.ext_getElem (by simp [tabBytes]) fun i hi hi' => ?_
  simp only [tabBytes, List.getElem_map, List.getElem_range, tblGet_tabSetAll_placed]
  rw [if_pos (by omega), Nat.add_sub_cancel_left, List.getD_eq_getElem _ _ hi']

theorem Thread.setRet_ret_self (t : Thread) (d : Nat) (p : Long) : (t.setRet d p).ret d = p := by
  have bytes := tabBytes_placed t.lp (768 + 8 * d) (leBytes 8 p.toNat)
  rw [leBytes_length] at bytes
  rw [Thread.ret, Thread.setRet]
  refine BitVec.eq_of_toNat_eq ?_
  simp only [bytes, leNat_leBytes, BitVec.toNat_ofNat]
  omega

theorem Thread.setRet_ret_other (t : Thread) {d e : Nat} (p : Long) (ne : e ≠ d) : (t.setRet d p).ret e = t.ret e := by
  have bytes : tabBytes (t.setRet d p).lp (768 + 8 * e) 8 = tabBytes t.lp (768 + 8 * e) 8 := by
    refine List.map_congr_left fun i hi => ?_
    have := List.mem_range.1 hi
    rw [Thread.setRet, tblGet_tabSetAll_placed, if_neg]
    rw [leBytes_length]
    omega
  rw [Thread.ret, Thread.ret, bytes]

/-- The bytes below the return stack stand as before. -/
theorem Thread.setRet_below (t : Thread) (d : Nat) (p : Long) {a : Nat} (ha : a < 768) : tblGet 0 (t.setRet d p).lp a = tblGet 0 t.lp a := by
  rw [Thread.setRet, tblGet_tabSetAll_placed, if_neg]
  omega

/-- What a call does to a thread before it moves: the sequential successor is pushed (R22). -/
def State.pushed (s : State) (t : Thread) : Thread := { t.setRet t.depth (seqPos s.cur.pos) with depth := t.depth + 1 }

/-- R143, R144: a call from less than full depth pushes the sequential successor and moves. -/
theorem callTo_retires {s : State} (first : First s) (h : Hdr) (i : Instr) {tgt : Nat → Long} (shallow : ∀ l ∈ lanesOf (s.active h), (mine s l).depth < 32)
    (reach : ∀ l ∈ lanesOf (s.active h), Reaches s (tgt l)) :
    Retires s h (.next (s.callTo h i (s.active h) ((lanesOf (s.active h)).map (fun l => (l, tgt l))))) (goes s h tgt)
      (fun l t => if (s.active h).getLsbD l then { t.setRet (mine s l).depth (seqPos s.cur.pos) with depth := (mine s l).depth + 1 } else t) := by
  have room : (lanesOf (s.active h)).any (fun l => (s.thread s.cur.core s.cur.slot l).depth ≥ 32) = false := by
    rw [List.any_eq_false]
    intro l hl
    have := shallow l hl
    rw [mine] at this
    simp only [ge_iff_le, decide_eq_true_eq]
    omega
  rw [State.callTo]
  simp only [room, Bool.false_eq_true, if_false]
  have noted := LandStep.noteFirst s s.cur.core s.cur.slot s.curWg ((lanesOf (s.active h)).map (fun l => (1, (s.group s.cur.core s.cur.slot).idx, l)))
  have present := (noted.present _ _).trans first.2.2.2.2.2
  have pushes := (noted.trans (LandStep.modLanes _ present (s.active h) (fun _ t => s.pushed t))).trans (LandStep.mend _ s.cur.core s.cur.slot (fun b => b.unit == uSCRATCH && b.index == s.cur.core &&
      (lanesOf (s.active h)).any (fun l => b.loc == retLoc s.cur.slot l (s.thread s.cur.core s.cur.slot l).depth)))
  refine LandStep.retires pushes first _ (e := fun l t => { t.setRet (mine s l).depth (seqPos s.cur.pos) with depth := (mine s l).depth + 1 }) (fun l => rfl) ?_
  rw [State.branchTo_reaches first h i _ _ (by simpa using reach), destOf_branch]
  · rfl
  · exact pushes.cur

end Sys2Proof.Machine

namespace Sys2Proof.Proofs.Transfers

open Sys2Proof.Machine Sys2Proof.Claims

theorem branches : Branches := by
  intro s h f first r act tgt
  have target : branchTarget f s.cur.pos = tgt := branchTarget_eq f s.cur.pos
  refine ⟨fun reach => ?_, fun reach ready => ⟨?_, ?_⟩, fun ready reach => ?_⟩
  · show Retires s h (execBra h f s) _ _
    rw [execBra, target]
    exact branch_retires first h _ fun _ _ => reach
  · show Retires s h (execBrz h f s) _ _
    rw [execBrz, State.branchOn, State.withOperands_ready _ _ _ _ _ _ _ _ _ _ ready, target]
    rw [State.branchTo_selected]
    simp only [beq_true, beq_iff_eq]
    exact branch_retires first h _ fun l _ => by
      split
      · exact reach
      · exact .inl rfl
  · show Retires s h (execBrnz h f s) _ _
    rw [execBrnz, State.branchOn, State.withOperands_ready _ _ _ _ _ _ _ _ _ _ ready, target]
    rw [State.branchTo_selected]
    simp only [beq_false, Bool.not_eq_true', beq_eq_false_iff_ne, ne_eq, ite_not]
    exact branch_retires first h _ fun l _ => by
      split
      · exact .inl rfl
      · exact reach
  · show Retires s h (execBrx h f s) _ _
    rw [execBrx, State.withOperands_ready _ _ _ _ _ _ _ _ _ _ ready]
    exact branch_retires first h _ reach

theorem callsAndReturn : CallsAndReturn := by
  refine ⟨?_, fun t d p => ⟨t.setRet_ret_self d p, fun e ne => t.setRet_ret_other p ne, fun a ha => t.setRet_below d p ha⟩⟩
  intro s h f first r act tgt push pop
  refine ⟨fun shallow reach => ?_, fun shallow ready reach => ?_, fun good pass => ?_⟩
  · show Retires s h (execCall h f s) _ _
    rw [execCall, branchTarget_eq]
    exact callTo_retires first h _ shallow fun _ _ => reach
  · show Retires s h (execCallx h f s) _ _
    rw [execCallx, State.withOperands_ready _ _ _ _ _ _ _ _ _ _ ready]
    exact callTo_retires first h _ shallow reach
  · show Retires s h (execRet h f s) _ _
    have quiet : ¬ s.cur.phase > 0 := by
      have := first.1
      omega
    have deep : (lanesOf act).any (fun l => (s.thread s.cur.core s.cur.slot l).depth = 0) = false := by
      rw [List.any_eq_false]
      intro l hl
      exact fun h => (pass l hl).1 (of_decide_eq_true h)
    have step := LandStep.modLanes s first.2.2.2.2.2 (s.active h) (fun _ t => { t with depth := t.depth - 1 })
    refine LandStep.retires step first _ (e := fun l t => { t with depth := (mine s l).depth - 1 }) (fun l => rfl) ?_
    rw [execRet]
    simp only [quiet, if_false]
    rw [show s.badReturn (s.active h) = none from good]
    simp only [show (lanesOf (s.active h)).any (fun l => (s.thread s.cur.core s.cur.slot l).depth = 0) = false from deep, Bool.false_eq_true, if_false]
    rw [State.transfer_passes first h _ _ _ (fun q hq => ?_), destOf_all]
    · rfl
    · exact step.cur
    · obtain ⟨l, hl, rfl⟩ := List.mem_map.1 hq
      exact (pass l hl).2

/-- Settles O10: a transfer whose targets pass moves its lanes, after what it does to the return stack. -/
theorem branchesAndCalls : Obligations.BranchesAndCalls := ⟨branches, callsAndReturn⟩

end Sys2Proof.Proofs.Transfers
end

section
/-! SUPPORT. Control transfers that fault, and those that wait for a line to be fetched again (R36, R39, R143-R145, R152). -/

namespace Sys2Proof.Machine

open Sys2Proof.Claims

/-! ### Which checks a target fails (Table 02-3) -/

/-- A check of a target's line fails with ACCESS or LINE_WORD. -/
theorem State.lineCheck_code {s : State} {l code : Nat} {p : Long} {bad : Option Nat} (h : s.lineCheck l p = .fault code bad) : code = cACCESS ∨ code = cLINE ∧ bad = none := by
  unfold State.lineCheck at h
  dsimp only at h
  split at h
  · cases h; exact .inl rfl
  · split at h
    · cases h
    · cases h; exact .inl rfl
    · split at h
      · cases h; exact .inl rfl
      · split at h
        · cases h
        · cases h; exact .inr ⟨rfl, rfl⟩

/-- The codes with which a check of a target fails; LINE_WORD names no malformed entry. -/
theorem State.targetCheck_code {s : State} {l code : Nat} {p : Long} {bad : Option Nat} (h : s.targetCheck l p = .fault code bad) :
    code = cALIGN ∨ code = cENTRY ∨ code = cACCESS ∨ code = cLINE ∧ bad = none := by
  by_cases al : p.toNat / 8 % 8 = 0 ∧ p.toNat % 8 ≤ 4
  · rw [s.targetCheck_aligned l al] at h
    split at h
    · split at h
      · cases h
      · cases h; exact .inr (.inl rfl)
    · exact (s.lineCheck_code h).elim (fun e => .inr (.inr (.inl e))) fun e => .inr (.inr (.inr e))
  · rw [s.targetCheck_misaligned l al] at h
    cases h
    exact .inl rfl

/-- A target's fault that is no mismatch of its line word, or one that persists, is raised. -/
theorem not_refetches {s : State} {p : Long} {code : Nat} {bad : Option Nat} (h : s.targetCheck (s.launchOfWg s.curWg) p = .fault code bad) (persists : ¬ Mismatch s p) :
    (code = cLINE && lineReservedOk (s.lineWordAt (s.launchOfWg s.curWg) p) && !s.refetched s.cur.core (s.launchOfWg s.curWg) (lineOf p) 5) = false := by
  by_contra again
  simp only [Bool.not_eq_false, Bool.and_eq_true, decide_eq_true_eq, Bool.not_eq_true'] at again
  obtain ⟨⟨line, reserved⟩, fetched⟩ := again
  subst line
  obtain ⟨-, rfl⟩ : cLINE = cLINE ∧ bad = none := by
    rcases s.targetCheck_code h with e | e | e | e
    · cases e
    · cases e
    · cases e
    · exact e
  exact persists ⟨h, reserved, fetched⟩

/-! ### The first lane whose target fails (R39) -/

theorem findSome?_first {α : Type} {L : List Nat} (sorted : L.Pairwise (· < ·)) {f : Nat → Option α} {l : Nat} {x : α} (mem : l ∈ L) (here : f l = some x)
    (before : ∀ k ∈ L, k < l → f k = none) : L.findSome? f = some x := by
  induction L with
  | nil => cases mem
  | cons k r ih =>
    obtain ⟨first, rest⟩ := List.pairwise_cons.1 sorted
    rw [List.findSome?_cons]
    rcases List.mem_cons.1 mem with rfl | inside
    · rw [here]
    · rw [before k List.mem_cons_self (first l inside)]
      exact ih rest inside fun j hj => before j (List.mem_cons_of_mem _ hj)

theorem lanesOf_sorted (m : BitVec 32) : (lanesOf m).Pairwise (· < ·) := List.pairwise_lt_range.filter _

/-- Of the lanes that q selects, the lowest whose target does not pass decides. -/
theorem State.badTarget_first {s : State} (act : BitVec 32) (q : Nat → Bool) (tgt : Nat → Long) {l code : Nat} {bad : Option Nat} (mem : l ∈ lanesOf act) (sel : q l = true)
    (fault : s.targetCheck (s.launchOfWg s.curWg) (tgt l) = .fault code bad) (before : ∀ k ∈ lanesOf act, k < l → q k = true → Passes s (tgt k)) :
    s.badTarget (((lanesOf act).filter q).map (fun k => (k, tgt k))) = some (.fault code bad, tgt l) := by
  rw [State.badTarget, List.findSome?_map]
  refine findSome?_first ((lanesOf_sorted act).filter q) (List.mem_filter.2 ⟨mem, sel⟩) ?_ fun k hk lt => ?_
  · simp only [Function.comp_apply, fault]
  · obtain ⟨hk, hq⟩ := List.mem_filter.1 hk
    obtain ⟨b, pass⟩ := before k hk lt hq
    simp only [Function.comp_apply, pass]

/-! ### A transfer that faults -/

/-- What a stop leaves depends on no more of a state than its groups, its workgroups, its memories, its tick and the issue in hand. -/
theorem stops_congr {s u t : State} {kind code : Nat} {lanes : BitVec 32} {tv : Long} (same : u = { s with malformed := u.malformed }) (h : Stops u t kind lanes code tv) : Stops s t kind lanes code tv := by
  rw [same] at h
  exact h

/-- A fault of a target is raised at the transfer. -/
theorem transfer_stops {s : State} (first : First s) (h : Hdr) (i : Instr) (act : BitVec 32) {found : List (Nat × Long)} (eff : State → State) {code : Nat} {bad : Option Nat} {t : Long}
    (fails : s.badTarget found = some (.fault code bad, t)) (fault : s.targetCheck (s.launchOfWg s.curWg) t = .fault code bad) (persists : ¬ Mismatch s t) :
    Stops s (s.transfer h i act found eff) 0 act code t := by
  have hphase := first.1
  have hnums := first.2.1
  have present := first.2.2.2.2.2
  have kind : (if code = cWATCH || code = cSTEP then 4 else 0) = 0 := by
    rcases s.targetCheck_code fault with rfl | rfl | rfl | ⟨rfl, -⟩ <;> rfl
  rw [State.transfer]
  simp only [hnums, List.isEmpty_nil, if_true, fails, not_refetches fault persists, Bool.false_eq_true, if_false]
  rw [← kind]
  cases bad with
  | none => exact s.raise_stops h act code t hphase present
  | some lv => exact stops_congr rfl ((s.noteBad s.curCtx lv (lineOf t)).raise_stops h act code t hphase present)

theorem branch_stops {s : State} (first : First s) (h : Hdr) (i : Instr) {act : BitVec 32} {tgt : Nat → Long} (eff : State → State) {l code : Nat} (fails : FailsAt s act (Reaches s) tgt l code) :
    Stops s (s.branchTo h i act ((lanesOf act).map (fun k => (k, tgt k))) eff) 0 act code (tgt l) := by
  obtain ⟨mem, no, persists, ⟨bad, fault⟩, before⟩ := fails
  rw [State.branchTo, filter_map_lane]
  refine transfer_stops first h i act eff (State.badTarget_first act _ tgt mem ?_ fault fun k hk lt sel => ?_) fault persists
  · simpa using fun e => no (.inl e)
  · exact (before k hk lt).resolve_left (by simpa using sel)

theorem transferAll_stops {s : State} (first : First s) (h : Hdr) (i : Instr) {act : BitVec 32} {tgt : Nat → Long} (eff : State → State) {l code : Nat} (fails : FailsAt s act (Passes s) tgt l code) :
    Stops s (s.transfer h i act ((lanesOf act).map (fun k => (k, tgt k))) eff) 0 act code (tgt l) := by
  obtain ⟨mem, -, persists, ⟨bad, fault⟩, before⟩ := fails
  have bad_first := State.badTarget_first act (fun _ => true) tgt mem rfl fault fun k hk lt _ => before k hk lt
  rw [List.filter_true] at bad_first
  exact transfer_stops first h i act eff bad_first fault persists

theorem callTo_shallow {s : State} (h : Hdr) (i : Instr) {act : BitVec 32} (targets : List (Nat × Long)) (shallow : ∀ l ∈ lanesOf act, (mine s l).depth < 32) :
    ∃ eff, s.callTo h i act targets = s.branchTo h i act targets eff := by
  refine ⟨_, if_neg ?_⟩
  rw [List.any_eq_true]
  rintro ⟨l, hl, deep⟩
  have := shallow l hl
  rw [mine] at this
  have := of_decide_eq_true deep
  omega

theorem callTo_deep {s : State} (h : Hdr) (i : Instr) {act : BitVec 32} (targets : List (Nat × Long)) (deep : ∃ l ∈ lanesOf act, 32 ≤ (mine s l).depth) :
    s.callTo h i act targets = s.raise h act cDEPTH 32 := by
  obtain ⟨l, hl, full⟩ := deep
  exact if_pos (List.any_eq_true.2 ⟨l, hl, decide_eq_true full⟩)

/-! ### The threads of a first issue begin to wait (R20, R42, Table 08-4) -/

theorem State.modGroup_groups (s : State) (core slot : Nat) (f : Group → Group) : s.modGroup core slot f = { s with groups := (s.modGroup core slot f).groups } := by
  unfold State.modGroup
  split <;> rfl

theorem State.takeToken_groups (s : State) (h : Hdr) : s.takeToken h = { s with groups := (s.takeToken h).groups } := by
  unfold State.takeToken State.tokUp
  split_ifs
  · rfl
  · exact s.modGroup_groups _ _ _
  · rfl

/-- What the issue in hand keeps while it waits: the lanes its guard selects, and the predicates of its lanes (R41). -/
def State.keptCaps (s : State) (h : Hdr) : Tbl (BitVec 32) :=
  (lanesOf s.cur.lanes).foldl (fun t l => tblPut t (predKey l) ((s.thread s.cur.core s.cur.slot l).preds.setWidth 32)) (tblPut s.cur.caps actKey (s.active h))

/-- The wait that an issue begins. -/
def State.waitOf (s : State) (h : Hdr) (i : Instr) (c : WaitCond) (row : Nat) : Waiting :=
  ⟨s.fresh, { s.cur with caps := s.keptCaps h, phase := s.cur.phase + 1 }, i, c, row⟩

/-- What waiting for a condition changes: the group of the issue, its waits, its token and the stall of its threads. -/
structure BeginsToWait (s t : State) (h : Hdr) (i : Instr) (c : WaitCond) (row : Nat) : Prop where
  state : t = { s with groups := t.groups, cur := { s.cur with caps := s.keptCaps h }, fresh := s.fresh + 1 }
  present : ∀ k q, t.hasGroup k q = s.hasGroup k q
  others : ∀ k q, gkey k q ≠ gkey s.cur.core s.cur.slot → t.group k q = s.group k q
  here : t.group s.cur.core s.cur.slot = { s.group s.cur.core s.cur.slot with
    threads := (t.group s.cur.core s.cur.slot).threads, tokens := (t.group s.cur.core s.cur.slot).tokens, waits := (s.group s.cur.core s.cur.slot).waits ++ [s.waitOf h i c row] }
  token : TokenUp s t h
  length : (t.group s.cur.core s.cur.slot).threads.length = (s.group s.cur.core s.cur.slot).threads.length
  thread : ∀ l, l < (s.group s.cur.core s.cur.slot).threads.length →
    t.thread s.cur.core s.cur.slot l = if s.cur.lanes.getLsbD l then { mine s l with stall := h.stall.toNat } else mine s l

theorem State.waitFor_begins {s : State} (hphase : s.cur.phase = 0) (hcaps : tblFind s.cur.caps actKey = none) (present : s.hasGroup s.cur.core s.cur.slot = true)
    (h : Hdr) (i : Instr) (c : WaitCond) (row : Nat) : BeginsToWait s (s.waitFor h i c row) h i c row := by
  let a := s.takeToken h
  let b := a.modLanes s.cur.core s.cur.slot s.cur.lanes (fun _ t => { t with stall := h.stall.toNat })
  let d : State := { b with cur := { b.cur with caps := s.keptCaps h } }
  have acur : a.cur = s.cur := by simp [a]
  have bcur : b.cur = s.cur := by simp [b, acur]
  have bfresh : b.fresh = s.fresh := by simp [b, a]
  have begun : s.beginWait h = d := by
    have quiet : ¬ (s.cur.phase > 0 || (tblFind s.cur.caps actKey).isSome) = true := by simp [hphase, hcaps]
    rw [State.beginWait, if_neg quiet]
    simp only [d, b, State.keptCaps]
    congr 2
    simp [a]
  have run : s.waitFor h i c row = (d.modGroup s.cur.core s.cur.slot (fun g => { g with waits := g.waits ++ [s.waitOf h i c row] })).tickFresh := by
    rw [State.waitFor, begun]
    simp only [d, bcur, bfresh, State.waitOf]
  have same := SameThreads.takeToken s h
  have pa : a.hasGroup s.cur.core s.cur.slot = true := (same.present _ _).trans present
  have pb : b.hasGroup s.cur.core s.cur.slot = true := (a.modGroup_present _ _ _ _ _).trans pa
  have pd : d.hasGroup s.cur.core s.cur.slot = true := pb
  have tokens : ∀ k q, a.group k q = { s.group k q with tokens := (a.group k q).tokens } := by
    intro k q
    simp only [a, State.takeToken, hphase, if_true]
    exact s.tokUp_tokens _ _ _ k q
  have here : (s.waitFor h i c row).group s.cur.core s.cur.slot =
      { ((a.group s.cur.core s.cur.slot).modLanes s.cur.lanes (fun _ t => { t with stall := h.stall.toNat })) with waits := (s.group s.cur.core s.cur.slot).waits ++ [s.waitOf h i c row] } := by
    rw [run]
    refine (State.modGroup_self d _ pd).trans ?_
    have : d.group s.cur.core s.cur.slot = (a.group s.cur.core s.cur.slot).modLanes s.cur.lanes (fun _ t => { t with stall := h.stall.toNat }) := State.modGroup_self a _ pa
    rw [this]
    simp only [Group.modLanes]
    rw [tokens]
  refine ⟨?_, fun k q => ?_, fun k q ne => ?_, ?_, fun k => ?_, ?_, fun l hl => ?_⟩
  · rw [run]
    have ha : a = { s with groups := a.groups } := s.takeToken_groups h
    have hb : b = { a with groups := b.groups } := a.modGroup_groups _ _ _
    have hd : d = { s with groups := d.groups, cur := { s.cur with caps := s.keptCaps h } } := by
      show ({ b with cur := { b.cur with caps := s.keptCaps h } } : State) = _
      rw [bcur, hb, ha]
    have he := d.modGroup_groups s.cur.core s.cur.slot (fun g => { g with waits := g.waits ++ [s.waitOf h i c row] })
    have dfresh : d.fresh = s.fresh := bfresh
    rw [State.tickFresh, he, hd]
  · rw [run]
    refine (State.modGroup_present d _ _ _ _ _).trans ((State.modGroup_present a _ _ _ _ _).trans (same.present _ _))
  · rw [run]
    refine (State.modGroup_other d _ ne).trans ((State.modGroup_other a _ ne).trans ?_)
    have : a.groups = s.groups ∨ a.group k q = s.group k q := by
      simp only [a, State.takeToken, hphase, if_true, State.tokUp]
      split
      · exact .inl rfl
      · exact .inr (s.modGroup_other _ ne)
    rcases this with e | e
    · rw [State.group, e, State.group]
    · exact e
  · rw [here]
    simp only [Group.modLanes]
    rw [tokens]
  · rw [here]
    exact s.takeToken_token h hphase present k
  · rw [here]
    simp only [Group.modLanes, List.length_mapIdx]
    rw [tokens]
  · rw [State.thread, here]
    have hl' : l < (a.group s.cur.core s.cur.slot).threads.length := by rw [tokens]; exact hl
    refine (Group.modLanes_thread _ _ _ l hl').trans ?_
    rw [tokens]
    rfl

/-! ### A line is fetched again (R36) -/

/-- Once a refetch is asked for the line is being fetched again, and no group has changed. -/
theorem State.startRefetch_spec (s : State) (core launch line slot : Nat) :
    (s.startRefetch core launch line slot).refetching core launch line = true ∧ (s.startRefetch core launch line slot).group = s.group ∧
      (s.startRefetch core launch line slot).mem = s.mem ∧ (s.startRefetch core launch line slot).hostMem = s.hostMem := by
  unfold State.startRefetch
  split
  next h => exact ⟨h, rfl, rfl, rfl⟩
  next h =>
    refine ⟨?_, rfl, rfl, rfl⟩
    rw [State.refetching]
    simp [State.later]

theorem lanesOf_ne_nil {m : BitVec 32} (h : m ≠ 0) : lanesOf m ≠ [] := fun e => h (by rw [← maskOf_lanesOf m, e]; rfl)

end Sys2Proof.Machine

namespace Sys2Proof.Proofs.TransferFaults

open Sys2Proof.Machine Sys2Proof.Claims

/-- R36: a branch whose target's line fails its parity waits while the core fetches the line once more. -/
theorem bra_refetches {s : State} {h : Hdr} {f : FmtB} (first : First s) (some : s.active h ≠ 0) (away : branchTo f s.cur.pos ≠ seqPos s.cur.pos) (mismatch : Mismatch s (branchTo f s.cur.pos)) :
    ∃ t w, exec (.bra h f) s = .next t ∧ Elsewhere s t ∧
      (t.group s.cur.core s.cur.slot).waits = (s.group s.cur.core s.cur.slot).waits ++ [w] ∧ w.iss.lanes = s.cur.lanes ∧ w.row = 8 ∧
      w.cond = .refetch (s.launchOfWg s.curWg) ((branchTo f s.cur.pos).toNat / 64 * 64) ∧
      t.refetching s.cur.core (s.launchOfWg s.curWg) ((branchTo f s.cur.pos).toNat / 64 * 64) = true ∧ ∀ l, (t.thread s.cur.core s.cur.slot l).pos = (mine s l).pos := by
  obtain ⟨hphase, hnums, hcaps, -, -, present⟩ := first
  obtain ⟨fault, reserved, fresh⟩ := mismatch
  obtain ⟨l, r, lanes⟩ := List.exists_cons_of_ne_nil (lanesOf_ne_nil some)
  generalize hp : branchTo f s.cur.pos = p at *
  have fails : s.badTarget (((lanesOf (s.active h)).map (fun l => (l, p))).filter (fun x => x.2 ≠ seqPos s.cur.pos)) = Option.some (.fault 0x03 none, p) := by
    rw [lanes, List.map_cons, List.filter_cons_of_pos (by simpa using away), State.badTarget, List.findSome?_cons]
    simp only [fault]
  let u := s.carry (packTargets (((lanesOf (s.active h)).map (fun l => (l, p))).filter (fun x => x.2 ≠ seqPos s.cur.pos)))
  have begun := State.waitFor_begins (s := u) hphase (by simp [u, State.carry, hcaps, tblFind]) present h (.bra h f) (.refetch (s.launchOfWg s.curWg) (lineOf p)) 8
  have run : exec (.bra h f) s = .next ((u.waitFor h (.bra h f) (.refetch (s.launchOfWg s.curWg) (lineOf p)) 8).startRefetch s.cur.core (s.launchOfWg s.curWg) (lineOf p) 5) := by
    show execBra h f s = _
    rw [execBra, branchTarget_eq, hp, State.branchTo, State.transfer]
    simp only [hnums, List.isEmpty_nil, if_true, fails]
    have again : (decide ((0x03 : Nat) = cLINE) && lineReservedOk (s.lineWordAt (s.launchOfWg s.curWg) p) && !s.refetched s.cur.core (s.launchOfWg s.curWg) (lineOf p) 5) = true := by
      rw [reserved, lineOf, fresh]
      rfl
    rw [if_pos again]
    rfl
  obtain ⟨state, -, others, here, -, length, threads⟩ := begun
  generalize u.waitFor h (.bra h f) (.refetch (s.launchOfWg s.curWg) (lineOf p)) 8 = v at *
  obtain ⟨fetching, group, mem, hostMem⟩ := v.startRefetch_spec s.cur.core (s.launchOfWg s.curWg) (lineOf p) 5
  have waits : (v.group s.cur.core s.cur.slot).waits = (s.group s.cur.core s.cur.slot).waits ++ [u.waitOf h (.bra h f) (.refetch (s.launchOfWg s.curWg) (lineOf p)) 8] := congrArg Group.waits here
  refine ⟨_, _, run, ⟨mem.trans (by rw [state]; rfl), hostMem.trans (by rw [state]; rfl), fun c q ne => ?_⟩, by rw [group]; exact waits, rfl, rfl, rfl, fetching, fun k => ?_⟩
  · rw [group]
    exact congrArg Group.threads (others c q ne)
  · rw [State.thread, group]
    by_cases hk : k < (s.group s.cur.core s.cur.slot).threads.length
    · refine (congrArg Thread.pos (threads k hk)).trans ?_
      split <;> rfl
    · have out : (v.group s.cur.core s.cur.slot).threads.length ≤ k := by
        rw [show (v.group s.cur.core s.cur.slot).threads.length = _ from length]
        exact not_lt.1 hk
      rw [Group.thread, List.getD_eq_default _ _ out, mine, State.thread, Group.thread, List.getD_eq_default _ _ (not_lt.1 hk)]

/-- Settles O11: the lowest lane whose target fails decides, and the depth and the handler are checked before. -/
theorem controlFaults : Obligations.ControlFaults := by
  intro s h f g first some r tgt act stops shallow onZero onOther back
  have hphase := first.1
  have present := first.2.2.2.2.2
  have quiet : ¬ s.cur.phase > 0 := by omega
  have target : branchTarget f s.cur.pos = tgt := branchTarget_eq f s.cur.pos
  have raised (code : Nat) (tv : Long) (fault : code ≠ cWATCH ∧ code ≠ cSTEP) : Stops s (s.raise h act code tv) 0 act code tv := by
    have := s.raise_stops h act code tv hphase present
    simpa [fault] using this
  have full (i : Instr) (targets : List (Nat × Long)) (deep : ∃ l ∈ lanesOf act, 32 ≤ (mine s l).depth) : Stops s (s.callTo h i act targets) 0 act 0x19 32 := by
    rw [callTo_deep h i targets deep]
    exact raised cDEPTH 32 (by decide)
  refine ⟨fun l code => ⟨fun fails => ⟨?_, fun shal => ?_⟩, fun ready => ⟨fun fails => ?_, fun fails => ?_⟩, fun ready fails => ⟨?_, fun shal => ?_⟩, fun good deep fails => ?_, fun inside fails => ?_⟩,
    fun away mismatch => bra_refetches first some away mismatch, fun deep => ⟨⟨_, rfl, full _ _ deep⟩, fun ready => ?_⟩, fun good shal => ?_, fun b bad => ?_, fun outside => ?_⟩
  · show stops (execBra h f s) code tgt
    rw [execBra, target]
    exact ⟨_, rfl, branch_stops first h _ id fails⟩
  · show stops (execCall h f s) code tgt
    obtain ⟨eff, e⟩ := callTo_shallow h (.call h f) ((lanesOf act).map (fun l => (l, tgt))) shal
    rw [execCall, target, e]
    exact ⟨_, rfl, branch_stops first h _ eff fails⟩
  · show stops (execBrz h f s) code tgt
    have there : onZero l = tgt := if_pos (by
      by_contra ne
      exact fails.2.1 (.inl (if_neg ne)))
    rw [execBrz, State.branchOn, State.withOperands_ready _ _ _ _ _ _ _ _ _ _ ready, target, State.branchTo_selected]
    simp only [beq_true, beq_iff_eq]
    have st := branch_stops first h (.brz h f) id fails
    rw [there] at st
    exact ⟨_, rfl, st⟩
  · show stops (execBrnz h f s) code tgt
    have there : onOther l = tgt := if_neg (fun e => fails.2.1 (.inl (if_pos e)))
    rw [execBrnz, State.branchOn, State.withOperands_ready _ _ _ _ _ _ _ _ _ _ ready, target, State.branchTo_selected]
    simp only [beq_false, Bool.not_eq_true', beq_eq_false_iff_ne, ne_eq, ite_not]
    have st := branch_stops first h (.brnz h f) id fails
    rw [there] at st
    exact ⟨_, rfl, st⟩
  · show stops (execBrx h f s) code _
    rw [execBrx, State.withOperands_ready _ _ _ _ _ _ _ _ _ _ ready]
    exact ⟨_, rfl, branch_stops first h _ id fails⟩
  · show stops (execCallx h f s) code _
    obtain ⟨eff, e⟩ := callTo_shallow h (.callx h f) ((lanesOf act).map (fun l => (l, s.selPair l r))) shal
    rw [execCallx, State.withOperands_ready _ _ _ _ _ _ _ _ _ _ ready, e]
    exact ⟨_, rfl, branch_stops first h _ eff fails⟩
  · show stops (execRet h f s) code _
    have some : (lanesOf (s.active h)).any (fun l => (s.thread s.cur.core s.cur.slot l).depth = 0) = false := by
      rw [List.any_eq_false]
      exact fun k hk e => deep k hk (of_decide_eq_true e)
    rw [execRet]
    simp only [quiet, if_false]
    rw [show s.badReturn (s.active h) = Option.none from good]
    simp only [some, Bool.false_eq_true, if_false]
    exact ⟨_, rfl, transferAll_stops first h _ _ fails⟩
  · show stops (execRti h g s) code _
    have none : (lanesOf (s.active h)).any (fun l => !(s.thread s.cur.core s.cur.slot l).inHandler) = false := by
      rw [List.any_eq_false]
      exact fun k hk e => by
        rw [show (s.thread s.cur.core s.cur.slot k).inHandler = true from inside k hk] at e
        cases e
    rw [execRti]
    simp only [none, Bool.false_eq_true, if_false]
    exact ⟨_, rfl, transferAll_stops first h _ _ fails⟩
  · show stops (execCallx h f s) _ _
    rw [execCallx, State.withOperands_ready _ _ _ _ _ _ _ _ _ _ ready]
    exact ⟨_, rfl, full _ _ deep⟩
  · show stops (execRet h f s) _ _
    obtain ⟨l, hl, zero⟩ := shal
    have any : (lanesOf (s.active h)).any (fun l => (s.thread s.cur.core s.cur.slot l).depth = 0) = true := List.any_eq_true.2 ⟨l, hl, decide_eq_true zero⟩
    rw [execRet]
    simp only [quiet, if_false]
    rw [show s.badReturn (s.active h) = Option.none from good]
    simp only [any, if_true]
    exact ⟨_, rfl, raised cDEPTH 0 (by decide)⟩
  · have st := (s.machineCheck b.unit 1 b.index b.loc s.curCtx).raiseMc_stopsGroup h act cUNCORR (BitVec.ofNat 64 s.mcNext) (BitVec.ofNat 32 s.mcNext) hphase present
    refine ⟨_, ?_, st.mcNext, st.stopped, st.thread⟩
    show execRet h f s = _
    rw [execRet]
    simp only [quiet, if_false]
    rw [show s.badReturn (s.active h) = Option.some b from bad]
    rfl
  · show stops (execRti h g s) _ _
    obtain ⟨l, hl, out⟩ := outside
    have any : (lanesOf (s.active h)).any (fun l => !(s.thread s.cur.core s.cur.slot l).inHandler) = true := List.any_eq_true.2 ⟨l, hl, by rw [show (s.thread s.cur.core s.cur.slot l).inHandler = false from out]; rfl⟩
    rw [execRti]
    simp only [any, if_true]
    exact ⟨_, rfl, raised cILLEGAL 0 (by decide)⟩

end Sys2Proof.Proofs.TransferFaults
end

section
/-! SUPPORT. The control and system instructions without a target (R126, R146, R147, R386, R387, R409, R410), and groups that leave their slots. -/

namespace Sys2Proof.Machine

open Sys2Proof.Claims

/-! ### What an issue may do before and after its threads go on -/

/-- Two states with the same memories, threads and counts of retired group-instructions. -/
structure KeepsThreads (s t : State) : Prop where
  mem : t.mem = s.mem
  hostMem : t.hostMem = s.hostMem
  rwc : ∀ w, (t.wg w).rwc = (s.wg w).rwc
  present : ∀ c q, t.hasGroup c q = s.hasGroup c q
  owner : ∀ c q, (t.group c q).wg = (s.group c q).wg
  threads : ∀ c q, (t.group c q).threads = (s.group c q).threads

theorem KeepsThreads.refl (s : State) : KeepsThreads s s := ⟨rfl, rfl, fun _ => rfl, fun _ _ => rfl, fun _ _ => rfl, fun _ _ => rfl⟩

theorem KeepsThreads.trans {s t u : State} (h : KeepsThreads s t) (k : KeepsThreads t u) : KeepsThreads s u :=
  ⟨k.mem.trans h.mem, k.hostMem.trans h.hostMem, fun w => (k.rwc w).trans (h.rwc w), fun c q => (k.present c q).trans (h.present c q), fun c q => (k.owner c q).trans (h.owner c q),
    fun c q => (k.threads c q).trans (h.threads c q)⟩

theorem SameThreads.keeps {s t : State} (h : SameThreads s t) : KeepsThreads s t := ⟨h.mem, h.hostMem, fun w => by rw [h.wg], h.present, h.owner, h.threads⟩

theorem KeepsThreads.foldl {α : Type} {f : State → α → State} (hf : ∀ s a, KeepsThreads s (f s a)) (l : List α) (s : State) : KeepsThreads s (l.foldl f s) := by
  induction l generalizing s with
  | nil => exact refl s
  | cons a r ih => exact (hf s a).trans (ih _)

/-- An issue that advances from a state advances from one with the same threads. -/
theorem KeepsThreads.moved {s u t : State} {h : Hdr} {p : Nat → Long} {e : Nat → Thread → Thread} (keeps : KeepsThreads s u) (cur : u.cur = s.cur)
    (present : s.hasGroup s.cur.core s.cur.slot = true) (moved : Moved u t h p e) : Moved s t h p e := by
  obtain ⟨⟨mem, hostMem, others⟩, rwc, own⟩ := moved
  have wg : u.curWg = s.curWg := by
    rw [State.curWg, State.curWg, cur, s.wgOf_present present, u.wgOf_present ((keeps.present _ _).trans present), keeps.owner]
  have thread : mine u = mine s := by
    funext l
    rw [mine, mine, State.thread, State.thread, Group.thread, Group.thread, cur, keeps.threads]
  rw [wg, keeps.rwc] at rwc
  simp only [cur, keeps.threads, thread] at others own
  exact ⟨⟨mem.trans keeps.mem, hostMem.trans keeps.hostMem, others⟩, rwc, own⟩

/-- What comes after an issue has advanced and changes no thread. -/
theorem KeepsThreads.after {s t u : State} {h : Hdr} {p : Nat → Long} {e : Nat → Thread → Thread} (keeps : KeepsThreads t u) (moved : Moved s t h p e) : Moved s u h p e := by
  obtain ⟨⟨mem, hostMem, others⟩, rwc, own⟩ := moved
  refine ⟨⟨keeps.mem.trans mem, keeps.hostMem.trans hostMem, fun c q ne => (keeps.threads c q).trans (others c q ne)⟩, (keeps.rwc _).trans rwc, fun l hl => ?_⟩
  rw [← own l hl, State.thread, State.thread, Group.thread, Group.thread, keeps.threads]

/-- What comes after an issue has advanced and changes lanes of it. -/
theorem LandStep.after {s t u : State} {h : Hdr} {p : Nat → Long} {g : Nat → Thread → Thread} (step : LandStep t u s.cur.core s.cur.slot g) (moved : Moved s t h p (fun _ x => x))
    (length : (t.group s.cur.core s.cur.slot).threads.length = (s.group s.cur.core s.cur.slot).threads.length)
    (outside : ∀ l x, s.cur.lanes.getLsbD l = false → g l x = x) : Moved s u h p g := by
  obtain ⟨⟨mem, hostMem, others⟩, rwc, own⟩ := moved
  refine ⟨⟨?_, ?_, fun c q ne => (congrArg Group.threads (step.others c q ne)).trans (others c q ne)⟩, ?_, fun l hl => ?_⟩
  · rw [step.state]
    exact mem
  · rw [step.state]
    exact hostMem
  · rw [step.wgKept]
    exact rwc
  · rw [step.thread l (by rw [length]; exact hl), own l hl]
    by_cases i : s.cur.lanes.getLsbD l = true
    · rw [if_pos i, if_pos i]
    · rw [if_neg i, if_neg i]
      exact outside l _ (by simpa using i)

theorem State.retire_length {s : State} (h : Hdr) (p : Nat → Long) (first : s.cur.phase = 0) (present : s.hasGroup s.cur.core s.cur.slot = true) :
    ((s.retire h p).group s.cur.core s.cur.slot).threads.length = (s.group s.cur.core s.cur.slot).threads.length := by
  obtain ⟨w, f, -, e⟩ := s.retire_counted h p
  have own : s.counted.hasGroup s.cur.core s.cur.slot = true := (s.counted_groups first _ _).1.trans present
  rw [e]
  simp only [State.modWg_group, State.modLanes, State.modGroup_self _ _ own]
  simp [Group.modLanes, (s.counted_groups first _ _).2]

theorem LandStep.token {s t : State} {core slot : Nat} {e : Nat → Thread → Thread} (h : LandStep s t core slot e) (k : Nat) : (t.group core slot).token k = (s.group core slot).token k := by
  rw [h.here]
  rfl

theorem State.mem_inCycles (s : State) (core n : Nat) (ev : Instr) : ⟨core + 1, (s.core core).cycles + n, ev⟩ ∈ (s.inCycles core n ev).timers := List.mem_append_right _ List.mem_cons_self

/-! ### exit (R146) -/

namespace LandStep

theorem now (s : State) (core slot : Nat) (i : Instr) : LandStep s (s.now i) core slot (fun _ x => x) := of_groups core slot rfl (fun _ => rfl) (fun _ => rfl)

theorem inCycles (s : State) (core slot k n : Nat) (i : Instr) : LandStep s (s.inCycles k n i) core slot (fun _ x => x) := of_groups core slot rfl (fun _ => rfl) (fun _ => rfl)

/-- A list of steps that change no thread. -/
theorem foldl_id {α : Type} {core slot : Nat} {f : State → α → State} (hf : ∀ s a, LandStep s (f s a) core slot (fun _ x => x)) (l : List α) (s : State) :
    LandStep s (l.foldl f s) core slot (fun _ x => x) := by
  induction l generalizing s with
  | nil => exact refl s core slot
  | cons a r ih => exact (hf s a).trans (ih _)

theorem barCheck (s : State) (core slot w k : Nat) : LandStep s (s.barCheck w k) core slot (fun _ x => x) := by
  unfold State.barCheck
  dsimp only
  split
  · exact (modWg s core slot w _).trans (inCycles _ core slot _ _ _)
  · exact refl s core slot

theorem releaseThread (s : State) (core slot l : Nat) : LandStep s (s.releaseThread core slot l) core slot (fun _ x => x) := by
  unfold State.releaseThread State.releaseRegs
  split
  · exact refl s core slot
  · exact foldl_id (fun u p => release u core slot _ _ _) _ s

/-- R146: the threads of m end. -/
theorem exitThreads (s : State) {core slot : Nat} (present : s.hasGroup core slot = true) (m : BitVec 32) :
    LandStep s (s.exitThreads core slot m) core slot (fun l t => if m.getLsbD l then { t with exited := true, regs := [] } else t) := by
  unfold State.exitThreads
  have freed := foldl_id (fun u l => releaseThread u core slot l) (lanesOf m) s
  have ended := freed.trans (modLanes _ ((freed.present _ _).trans present) m (fun _ t => { t with exited := true, regs := [] }))
  have barred := ended.trans (foldl_id (fun u k => barCheck u core slot (s.wgOf core slot) k) (List.range 16) _)
  refine (barred.trans (foldl_id (fun u c => ?_) _ _)).trans (foldl_id (fun u b => ?_) _ _)
  · split
    · exact now u core slot _
    · exact refl u core slot
  · split
    · exact now u core slot _
    · exact refl u core slot

end LandStep

/-! ### Groups that have ended leave their slots (R126) -/

theorem State.flushGather_groups (s : State) (die frame : Nat) (extra : List Nat) : (s.flushGather die frame extra).groups = s.groups := by
  unfold State.flushGather
  split
  · rfl
  · rfl

theorem foldl_groups {α : Type} {f : State → α → State} (hf : ∀ s a, (f s a).groups = s.groups) (l : List α) (s : State) : (l.foldl f s).groups = s.groups := by
  induction l generalizing s with
  | nil => rfl
  | cons a r ih => rw [List.foldl_cons, ih, hf]

theorem State.handlerExit_groups (s : State) (w : Nat) : (s.handlerExit w).groups = s.groups := by
  unfold State.handlerExit
  dsimp only
  rw [foldl_groups fun u p => u.flushGather_groups _ _ _, foldl_groups fun u v => ?_]
  · rfl
  · split <;> rfl

/-- The slot of a group whose threads have all ended is free; no other group is concerned. -/
theorem State.leaveSlot_groups (s : State) (core slot : Nat) :
    (s.leaveSlot core slot).groups = if (s.group core slot).threads.all (fun t => t.exited) then tblDel s.groups (gkey core slot) else s.groups := by
  unfold State.leaveSlot
  dsimp only
  cases (s.group core slot).threads.all (fun t => t.exited) with
  | false => rfl
  | true =>
    simp only [Bool.not_true, Bool.false_eq_true, if_false, if_true]
    split
    · rw [State.handlerExit_groups]
      rfl
    · rfl

theorem State.leaveSlots_groups_kept {s : State} {core slot : Nat} (stays : (s.group core slot).threads.all (fun t => t.exited) = false) (L : List (Nat × Group)) :
    (L.foldl (fun s p => s.leaveSlot core (p.1 % 128)) s).group core slot = s.group core slot := by
  induction L generalizing s with
  | nil => rfl
  | cons p r ih =>
    have one : (s.leaveSlot core (p.1 % 128)).group core slot = s.group core slot := by
      rw [State.group, State.leaveSlot_groups]
      split
      next out =>
        have ne : gkey core slot ≠ gkey core (p.1 % 128) := by
          intro e
          have : s.group core (p.1 % 128) = s.group core slot := by rw [State.group, ← e, State.group]
          rw [this, stays] at out
          cases out
        rw [tblGet, tblFind_tblDel_other _ ne]
        rfl
      next => rfl
    rw [List.foldl_cons, ih (by rw [one]; exact stays), one]

theorem State.leaveSlot_absent {s : State} {core slot k : Nat} (absent : s.hasGroup core slot = false) : (s.leaveSlot core k).hasGroup core slot = false := by
  rw [State.hasGroup, State.leaveSlot_groups]
  split
  · by_cases e : gkey core slot = gkey core k
    · rw [e, tblFind_tblDel_self]
      rfl
    · rw [tblFind_tblDel_other _ e]
      exact absent
  · exact absent

theorem State.leaveSlots_absent {s : State} {core slot : Nat} (absent : s.hasGroup core slot = false) (L : List (Nat × Group)) :
    (L.foldl (fun s p => s.leaveSlot core (p.1 % 128)) s).hasGroup core slot = false :=
  List.foldlRecOn (motive := fun (t : State) => t.hasGroup core slot = false) L _ absent fun _ ih _ _ => State.leaveSlot_absent ih

/-- A group whose threads have all ended leaves as its slot is looked at. -/
theorem State.leaveSlots_gone {s : State} {core slot : Nat} (out : (s.group core slot).threads.all (fun t => t.exited) = true) (L : List (Nat × Group))
    (named : ∃ p ∈ L, p.1 % 128 = slot) : (L.foldl (fun s p => s.leaveSlot core (p.1 % 128)) s).hasGroup core slot = false := by
  induction L generalizing s with
  | nil => simp at named
  | cons p r ih =>
    rw [List.foldl_cons]
    by_cases here : gkey core slot = gkey core (p.1 % 128)
    · refine State.leaveSlots_absent ?_ r
      have same : s.group core (p.1 % 128) = s.group core slot := by rw [State.group, ← here, State.group]
      rw [State.hasGroup, State.leaveSlot_groups, same, if_pos out, ← here, tblFind_tblDel_self]
      rfl
    · have one : (s.leaveSlot core (p.1 % 128)).group core slot = s.group core slot := by
        rw [State.group, State.leaveSlot_groups]
        split
        · rw [tblGet, tblFind_tblDel_other _ here]
          rfl
        · rfl
      obtain ⟨q, hq, e⟩ := named
      refine ih (by rw [one]; exact out) ⟨q, (List.mem_cons.1 hq).resolve_left fun same => here ?_, e⟩
      rw [← e, same]

/-! ### rfe (R386, R387) -/

theorem KeepsThreads.of_groups {s t : State} (mem : t.mem = s.mem) (hostMem : t.hostMem = s.hostMem) (wgs : ∀ w, (t.wg w).rwc = (s.wg w).rwc) (groups : t.groups = s.groups) : KeepsThreads s t := by
  have group (c q : Nat) : t.group c q = s.group c q := by rw [State.group, State.group, groups]
  exact ⟨mem, hostMem, wgs, fun c q => by rw [State.hasGroup, State.hasGroup, groups], fun c q => by rw [group], fun c q => by rw [group]⟩

/-- What a resumed workgroup's groups are. -/
def resumedIf (w : Nat) (g : Group) : Group := if g.wg = w then g.resumed else g

/-- Two states that differ in no more than the events that are due. -/
def OnlyEvents (s t : State) : Prop := t = { s with agenda := t.agenda, timers := t.timers }

theorem OnlyEvents.refl (s : State) : OnlyEvents s s := rfl

theorem OnlyEvents.trans {s t u : State} (h : OnlyEvents s t) (k : OnlyEvents t u) : OnlyEvents s u := by
  unfold OnlyEvents at *
  rw [k, h]

theorem OnlyEvents.foldl {α : Type} {f : State → α → State} (hf : ∀ s a, OnlyEvents s (f s a)) (l : List α) (s : State) : OnlyEvents s (l.foldl f s) := by
  induction l generalizing s with
  | nil => exact refl s
  | cons a r ih => exact (hf s a).trans (ih _)

theorem OnlyEvents.keeps {s t : State} (h : OnlyEvents s t) : KeepsThreads s t := by
  refine .of_groups ?_ ?_ (fun w => ?_) ?_
  all_goals
    rw [h]
    try rfl

theorem OnlyEvents.rearm (s : State) (core slot : Nat) : OnlyEvents s (s.rearm core slot) := by
  unfold State.rearm
  refine foldl (fun u w => ?_) _ s
  split <;> rfl

/-- R341: a workgroup that resumes. -/
def Workgroup.resumed (x : Workgroup) : Workgroup :=
  { x with halt := none, reach := 0, settled := false, step := none, stepDone := none, saved := x.saved.map (fun (p : Nat × Group) => (p.1, p.2.resumed)) }

/-- The state in which a workgroup and its groups are resumed, before what it waits for is looked at again. -/
def State.unhalted (s : State) (w : Nat) : State :=
  { s.modWg w Workgroup.resumed with groups := s.groups.map (fun p => (p.1, resumedIf w p.2)) }

theorem resumedIf_same (w : Nat) (g : Group) : (resumedIf w g).wg = g.wg ∧ (resumedIf w g).threads = g.threads := by
  unfold resumedIf
  split <;> exact ⟨rfl, rfl⟩

theorem State.unhalted_group (s : State) (w c q : Nat) : (s.unhalted w).group c q = resumedIf w (s.group c q) ∨ (s.unhalted w).group c q = s.group c q := by
  simp only [State.group, tblGet, State.unhalted, tblFind_map (fun (p : Nat × Group) => (p.1, resumedIf w p.2)) (resumedIf w) fun _ => rfl]
  cases tblFind s.groups (gkey c q) with
  | none => exact .inr rfl
  | some g => exact .inl rfl

theorem State.unhalted_keeps (s : State) (w : Nat) : KeepsThreads s (s.unhalted w) := by
  refine ⟨rfl, rfl, fun v => s.modWg_rwc w v Workgroup.resumed fun _ => rfl, fun c q => ?_, fun c q => ?_, fun c q => ?_⟩
  · simp only [State.hasGroup, State.unhalted, tblFind_map (fun (p : Nat × Group) => (p.1, resumedIf w p.2)) (resumedIf w) fun _ => rfl, Option.isSome_map]
  · rcases s.unhalted_group w c q with e | e
    · rw [e, (resumedIf_same w _).1]
    · rw [e]
  · rcases s.unhalted_group w c q with e | e
    · rw [e, (resumedIf_same w _).2]
    · rw [e]

theorem State.unhalted_running (s : State) (w : Nat) : ∀ p ∈ (s.unhalted w).groups, p.2.wg = w → p.2.stopped = false := by
  intro p hp hw
  obtain ⟨q, -, rfl⟩ := List.mem_map.1 hp
  have own : q.2.wg = w := (resumedIf_same w q.2).1.symm.trans hw
  show (resumedIf w q.2).stopped = false
  rw [resumedIf, if_pos own]
  rfl

/-- Beside the workgroup and its groups, only events become due. -/
theorem State.resumeWg_events (s : State) (w : Nat) : OnlyEvents (s.unhalted w) (s.resumeWg w) := by
  have base : { s.modWg w Workgroup.resumed with groups := s.groups.map (fun (p : Nat × Group) => if p.2.wg = w then (p.1, p.2.resumed) else p) } = s.unhalted w := by
    have : (fun (p : Nat × Group) => if p.2.wg = w then (p.1, p.2.resumed) else p) = fun p => (p.1, resumedIf w p.2) := by
      funext p
      unfold resumedIf
      split <;> rfl
    rw [this]
    rfl
  unfold State.resumeWg
  dsimp only
  split
  · exact base.symm ▸ .refl _
  · have first : OnlyEvents (s.unhalted w) _ := .foldl (f := fun s (p : Nat × Group) => s.rearm (p.1 / 128) (p.1 % 128)) (fun u p => .rearm u _ _) ((s.unhalted w).groups.filter (fun p => p.2.wg = w)) (s.unhalted w)
    rw [← base] at first ⊢
    refine first.trans (.foldl (fun u c => ?_) _ _)
    split <;> rfl

/-- The workgroup that rfe resumes, and its groups: none of them stopped, every thread where it was. -/
theorem State.resumeWg_spec (s : State) (w : Nat) : KeepsThreads s (s.resumeWg w) ∧ (s.resumeWg w).cur = s.cur ∧ ((s.resumeWg w).wg w).halt = none ∧
    ∀ p ∈ (s.resumeWg w).groups, p.2.wg = w → p.2.stopped = false := by
  have events := s.resumeWg_events w
  refine ⟨(s.unhalted_keeps w).trans events.keeps, ?_, ?_, ?_⟩
  · rw [events]
    rfl
  · rw [events]
    exact congrArg Workgroup.halt (s.modWg_self w Workgroup.resumed)
  · rw [events]
    exact s.unhalted_running w

end Sys2Proof.Machine

namespace Sys2Proof.Proofs.System

open Sys2Proof.Machine Sys2Proof.Claims

theorem yield_waits {s : State} {h : Hdr} {f : FmtS} (first : First s) (some : s.active h ≠ 0) : ∃ t w, exec (.yield h f) s = .next t ∧ Moved s t h (fun _ => seqPos s.cur.pos) (fun _ t => t) ∧
    (t.group s.cur.core s.cur.slot).waits = (s.group s.cur.core s.cur.slot).waits ++ [w] ∧ w.iss.lanes = s.active h ∧ w.cond = .yield ((s.core s.cur.core).cycles + 64) ∧
    ⟨s.cur.core + 1, (s.core s.cur.core).cycles + 64, .yieldTimeout s.cur.core s.cur.slot w.id⟩ ∈ t.timers := by
  have hphase := first.1
  have present := first.2.2.2.2.2
  have moved := s.retire_moved h (fun _ => seqPos s.cur.pos) hphase present
  have r : Retired s (s.retireSeq h) := .retireSeq s h hphase
  have there := (r.present s.cur.core s.cur.slot).trans present
  have cycles : ((s.retireSeq h).core s.cur.core).cycles = (s.core s.cur.core).cycles := by rw [r.core]
  let w : Waiting := ⟨(s.retireSeq h).fresh, { s.cur with lanes := s.active h }, .yield h f, .yield ((s.core s.cur.core).cycles + 64), 6⟩
  let t := (s.retireSeq h).modGroup s.cur.core s.cur.slot (fun g => { g with waits := g.waits ++ [w] })
  have run : exec (.yield h f) s = .next ((t.inCycles s.cur.core 64 (.yieldTimeout s.cur.core s.cur.slot (s.retireSeq h).fresh)).tickFresh) := by
    show execYield h f s = _
    rw [execYield]
    simp only [some, if_false, cycles]
    rfl
  have waits : (t.group s.cur.core s.cur.slot).waits = (s.group s.cur.core s.cur.slot).waits ++ [w] := by
    rw [State.modGroup_self _ _ there, r.waits]
  have same : SameThreads (s.retireSeq h) t := .modGroup _ s.cur.core s.cur.slot _
  have tcycles : (t.core s.cur.core).cycles = (s.core s.cur.core).cycles := by
    simp only [t, State.modGroup_reads, cycles]
  clear_value t
  have last : SameThreads t ((t.inCycles s.cur.core 64 (.yieldTimeout s.cur.core s.cur.slot (s.retireSeq h).fresh)).tickFresh) := .of_groups rfl rfl rfl rfl
  refine ⟨_, w, run, (same.trans last).keeps.after moved, waits, rfl, rfl, ?_⟩
  have due := t.mem_inCycles s.cur.core 64 (.yieldTimeout s.cur.core s.cur.slot (s.retireSeq h).fresh)
  rw [tcycles] at due
  exact due

theorem exit_retires {s : State} {h : Hdr} {f : FmtB} (first : First s) : Retires s h (exec (.exitI h f) s) (fun _ => seqPos s.cur.pos)
    (fun l t => if (s.active h).getLsbD l then { t with exited := true, regs := [] } else t) := by
  have hphase := first.1
  have present := first.2.2.2.2.2
  have r : Retired s (s.retireSeq h) := .retireSeq s h hphase
  have traced : OnlyTraced (s.retireSeq h) _ := .traceNote _ s.cur.core s.cur.slot ([5] ++ leBytes 1 s.cur.slot ++ leBytes 4 (s.active h).toNat)
  have r2 := r.trans (.traceNote _ s.cur.core s.cur.slot ([5] ++ leBytes 1 s.cur.slot ++ leBytes 4 (s.active h).toNat))
  have moved := traced.toSameThreads.keeps.after (s.retire_moved h (fun _ => seqPos s.cur.pos) hphase present)
  have step := LandStep.exitThreads _ ((r2.present _ _).trans present) (s.active h)
  refine ⟨_, rfl, step.after moved ?_ fun l x out => ?_, fun k => ?_⟩
  · rw [traced.threads]
    exact State.retire_length h _ hphase present
  · rw [if_neg]
    intro act
    rw [s.active_lane hphase h act] at out
    cases out
  · exact (step.token k).trans (r2.token s.cur.core s.cur.slot k)

theorem nopExitYield : NopExitYield := by
  refine ⟨fun s h f b first => ?_, fun s core slot small => ⟨(s.leaveSlots_mem core).1, fun out => ?_, fun stays => State.leaveSlots_groups_kept stays _⟩, fun s core slot id present => ?_⟩
  · intro act next
    have hphase := first.1
    have present := first.2.2.2.2.2
    have retires : Retires s h (.next (s.retireSeq h)) next (fun _ t => t) := retires_of_retire first h _
    refine ⟨retires, fun none => ?_, fun some => ?_, ?_⟩
    · show Retires s h (execYield h f s) _ _
      rw [execYield]
      simp only [show s.active h = 0 from none, if_true]
      exact retires
    · exact yield_waits first some
    · exact exit_retires first
  · by_cases present : s.hasGroup core slot = true
    · obtain ⟨g, hg⟩ := Option.isSome_iff_exists.1 present
      refine State.leaveSlots_gone out _ ⟨(gkey core slot, g), List.mem_filter.2 ⟨mem_of_tblFind hg, decide_eq_true ?_⟩, ?_⟩
      · show (core * 128 + slot) / 128 = core
        omega
      · simp only [gkey]
        omega
    · exact State.leaveSlots_absent (by simpa using present) _
  · refine ⟨_, rfl, ?_, ?_⟩
    · rw [s.modGroup_self _ present]
    · rw [s.modGroup_self _ present]

theorem prog_counts {s : State} {h : Hdr} {f : FmtS} (first : First s) : ∃ t, exec (.prog h f) s = .next t ∧ Moved s t h (fun _ => seqPos s.cur.pos) (fun _ t => t) ∧
    ∀ k, tblGet 0 (t.ctx s.curCtx).progress k = tblGet 0 (s.ctx s.curCtx).progress k + if k = f.imm.toNat % 16 then BitVec.ofNat 64 (lanesOf (s.active h)).length else 0 := by
  let c (x : Ctx) : Ctx := { x with progress := tblPut x.progress (f.imm.toNat % 16) (tblGet 0 x.progress (f.imm.toNat % 16) + BitVec.ofNat 64 (lanesOf (s.active h)).length) }
  have present := first.2.2.2.2.2
  have keeps : KeepsThreads s (s.modCtx s.curCtx c) := .of_groups rfl rfl (fun _ => rfl) rfl
  have r : Retired (s.modCtx s.curCtx c) ((s.modCtx s.curCtx c).retireSeq h) := .retireSeq _ h first.1
  refine ⟨_, rfl, keeps.moved rfl present (State.retire_moved (s.modCtx s.curCtx c) h _ first.1 present), fun k => ?_⟩
  have ctx : (((s.modCtx s.curCtx c).retireSeq h).ctx s.curCtx) = c (s.ctx s.curCtx) := by
    rw [State.ctx, r.state]
    exact s.modCtx_self s.curCtx c
  refine (congrArg (fun x => tblGet 0 (Ctx.progress x) k) ctx).trans ?_
  show tblGet 0 (tblPut _ _ _) k = _
  by_cases e : k = f.imm.toNat % 16
  · rw [e, tblGet_tblPut_self, if_pos rfl]
  · rw [tblGet_tblPut_other _ _ _ e, if_neg e]
    exact (BitVec.add_zero _).symm

theorem tmark_marks {s : State} {h : Hdr} {f : FmtS} (first : First s) : ∃ t, exec (.tmark h f) s = .next t ∧ Moved s t h (fun _ => seqPos s.cur.pos) (fun _ t => t) := by
  have moved := s.retire_moved h (fun _ => seqPos s.cur.pos) first.1 first.2.2.2.2.2
  let u := (s.retireSeq h).traceNote s.cur.core s.cur.slot ([4] ++ leBytes 1 s.cur.slot ++ leBytes 4 (s.active h).toNat ++ leBytes 4 f.imm.toNat ++ leBytes 8 s.tick)
  have run : exec (.tmark h f) s = .next (if s.active h = 0 then s.retireSeq h else u.markSampler) := rfl
  have traced : OnlyTraced (s.retireSeq h) u := .traceNote _ _ _ _
  clear_value u
  have marked : SameThreads u u.markSampler := .of_groups rfl rfl rfl rfl
  rw [run]
  split
  · exact ⟨_, rfl, moved⟩
  · exact ⟨_, rfl, (traced.toSameThreads.trans marked).keeps.after moved⟩

/-- The workgroup a lane of rfe names, where it stands debug-stopped. -/
theorem rfeLane_eq (s : State) (t : Nat) : s.rfeLane t = match (s.target t).filter (fun w => s.debugStopped w) with
    | some w => s.resumeWg w
    | none => s := by
  unfold State.rfeLane
  cases s.target t with
  | none => rfl
  | some w =>
    rw [Option.filter_some]
    dsimp only
    cases s.debugStopped w <;> rfl

theorem rfe_resumes {s : State} {h : Hdr} {f : FmtS} (first : First s) (ready : Ready s (s.active h) [.pair f.a.toNat] [] []) :
    let named (l : Nat) : Option Nat := (s.target (s.selPair l f.a.toNat).toNat).filter (fun w => s.debugStopped w)
    ((∀ l ∈ lanesOf (s.active h), named l = none) → Retires s h (exec (.rfe h f) s) (fun _ => seqPos s.cur.pos) (fun _ t => t)) ∧
    ∀ l w, lanesOf (s.active h) = [l] → named l = some w → ∃ t, exec (.rfe h f) s = .next t ∧ Moved s t h (fun _ => seqPos s.cur.pos) (fun _ t => t) ∧
      (t.wg w).halt = none ∧ ∀ p ∈ t.groups, p.2.wg = w → p.2.stopped = false := by
  intro named
  have hphase := first.1
  have present := first.2.2.2.2.2
  have run : exec (.rfe h f) s = .next ((((lanesOf (s.active h)).foldl (fun u l => u.rfeLane (u.selPair l f.a.toNat).toNat) s).doneNow h).retireSeq h) := by
    show execRfe h f s = _
    rw [execRfe, State.withOperands_ready _ _ _ _ _ _ _ _ _ _ ready]
  have quiet (u : State) (hu : u.cur = s.cur) : u.doneNow h = u := by
    rw [State.doneNow, hu, hphase]
    rfl
  refine ⟨fun none => ?_, fun l w one some => ?_⟩
  · have idle : (lanesOf (s.active h)).foldl (fun u l => u.rfeLane (u.selPair l f.a.toNat).toNat) s = s :=
      List.foldlRecOn (motive := fun (u : State) => u = s) (lanesOf (s.active h)) _ rfl fun u hu l hl => by
        rw [hu, rfeLane_eq, show (s.target (s.selPair l f.a.toNat).toNat).filter (fun w => s.debugStopped w) = Option.none from none l hl]
    rw [run, idle, quiet s rfl]
    exact retires_of_retire first h _
  · have resumed : (lanesOf (s.active h)).foldl (fun u l => u.rfeLane (u.selPair l f.a.toNat).toNat) s = s.resumeWg w := by
      rw [one, List.foldl_cons, List.foldl_nil, rfeLane_eq, show (s.target (s.selPair l f.a.toNat).toNat).filter (fun w => s.debugStopped w) = Option.some w from some]
    obtain ⟨keeps, cur, halt, running⟩ := s.resumeWg_spec w
    rw [run, resumed, quiet _ cur]
    generalize s.resumeWg w = u at *
    have r : Retired u (u.retireSeq h) := .retireSeq u h (by rw [cur]; exact hphase)
    refine ⟨_, rfl, keeps.moved cur present ?_, ?_, ?_⟩
    · rw [State.retireSeq, cur]
      exact u.retire_moved h _ (by rw [cur]; exact hphase) (by rw [cur]; exact (keeps.present _ _).trans present)
    · rw [r.wg]
      exact halt
    · exact r.all (fun g => g.wg = w → g.stopped = false) (fun _ _ _ hg => hg) running

/-- Settles O12. -/
theorem nopExitYieldAndMarks : Obligations.NopExitYieldAndMarks :=
  ⟨nopExitYield, fun _ _ _ first => ⟨prog_counts first, tmark_marks first, fun ready => rfe_resumes first ready⟩⟩

end Sys2Proof.Proofs.System
end

section
/-! SUPPORT. User traps (R342-R346, R151, R152, R386): the handler that threads enter, and the group that stops where there is none. -/

namespace Sys2Proof.Machine

open Sys2Proof.Claims

/-! ### A step that changes threads of one group -/

/-- Two states with the same memories and counts, of which the threads of one group differ by g and the other groups' threads do not. -/
structure LanesStep (s t : State) (core slot : Nat) (g : Nat → Thread → Thread) : Prop where
  mem : t.mem = s.mem
  hostMem : t.hostMem = s.hostMem
  rwc : ∀ w, (t.wg w).rwc = (s.wg w).rwc
  others : ∀ c q, gkey c q ≠ gkey core slot → (t.group c q).threads = (s.group c q).threads
  thread : ∀ l, l < (s.group core slot).threads.length → t.thread core slot l = g l (s.thread core slot l)

theorem LandStep.lanes {s t : State} {core slot : Nat} {g : Nat → Thread → Thread} (h : LandStep s t core slot g) : LanesStep s t core slot g :=
  ⟨by rw [h.state], by rw [h.state], fun w => by rw [h.wgKept], fun c q ne => congrArg Group.threads (h.others c q ne), h.thread⟩

theorem StopsGroup.lanesStep {s t : State} {core slot : Nat} {m lanes : BitVec 32} {r : HaltRec} (h : StopsGroup s t core slot m lanes r) :
    LanesStep s t core slot (fun l x => if m.getLsbD l then trapRegs r.code lanes r.pos r.tvalue l x else x) := ⟨h.mem, h.hostMem, h.rwc, h.others, h.thread⟩

theorem KeepsThreads.lanes {s t : State} (h : KeepsThreads s t) (core slot : Nat) : LanesStep s t core slot (fun _ x => x) :=
  ⟨h.mem, h.hostMem, h.rwc, fun c q _ => h.threads c q, fun l _ => by rw [State.thread, Group.thread, h.threads]; rfl⟩

/-- What comes after an issue has advanced and changes lanes that its guard selects. -/
theorem LanesStep.after {s t u : State} {h : Hdr} {p : Nat → Long} {g : Nat → Thread → Thread} (step : LanesStep t u s.cur.core s.cur.slot (fun l x => if (s.active h).getLsbD l then g l x else x))
    (first : s.cur.phase = 0) (moved : Moved s t h p (fun _ x => x)) (length : (t.group s.cur.core s.cur.slot).threads.length = (s.group s.cur.core s.cur.slot).threads.length) :
    Moved s u h p (fun l x => if (s.active h).getLsbD l then g l x else x) := by
  obtain ⟨⟨mem, hostMem, others⟩, rwc, own⟩ := moved
  refine ⟨⟨step.mem.trans mem, step.hostMem.trans hostMem, fun c q ne => (step.others c q ne).trans (others c q ne)⟩, (step.rwc _).trans rwc, fun l hl => ?_⟩
  rw [step.thread l (by rw [length]; exact hl), own l hl]
  by_cases i : s.cur.lanes.getLsbD l = true
  · rw [if_pos i, if_pos i]
  · rw [if_neg i, if_neg i, if_neg]
    exact fun act => i (s.active_lane first h act)

/-! ### Entering a handler (R342, R343) -/

/-- What a thread that enters a handler is. -/
def enteredAt (entry code : Nat) (lanes : BitVec 32) (pos tv : Long) (stall : Nat) (res : Nat → Long) (l : Nat) (t : Thread) : Thread :=
  { t with resume := res l, inHandler := true, tcause := BitVec.ofNat 32 code, tlanes := lanes, tpc := pos, tvalue := tv, pos := BitVec.ofNat 64 entry, entering := true, came := true, stall := stall }

theorem State.enterHandler_lanes (s : State) {core slot : Nat} (present : s.hasGroup core slot = true) (m lanes : BitVec 32) (code : Nat) (pos tv : Long) (stall : Nat) (res : Nat → Long) :
    LanesStep s (s.enterHandler core slot m lanes code pos tv stall res) core slot
      (fun l x => if m.getLsbD l then enteredAt (s.trapEntry (s.wgOf core slot) code) code lanes pos tv stall res l x else x) := by
  have step := LandStep.modLanes s present m (enteredAt (s.trapEntry (s.wgOf core slot) code) code lanes pos tv stall res)
  have traced := OnlyTraced.traceNote (s.modLanes core slot m (enteredAt (s.trapEntry (s.wgOf core slot) code) code lanes pos tv stall res)) core slot
    ([3] ++ leBytes 1 slot ++ leBytes 1 code ++ leBytes 8 (s.trapEntry (s.wgOf core slot) code) ++ leBytes 4 m.toNat)
  refine ⟨traced.mem.trans (by rw [step.state]), traced.hostMem.trans (by rw [step.state]), fun w => ?_, fun c q ne => (traced.threads c q).trans (congrArg Group.threads (step.others c q ne)), fun l hl => ?_⟩
  · refine (congrArg Workgroup.rwc (congrFun traced.wg w)).trans ?_
    rw [step.wgKept]
  · refine Eq.trans ?_ (step.thread l hl)
    exact congrFun (congrFun (congrFun traced.thread core) slot) l

/-- The entry of a handler is a matter of a workgroup's launch. -/
theorem State.trapEntry_congr {s t : State} {w v : Nat} (launches : t.launches = s.launches) (launch : (t.wg v).launch = (s.wg w).launch) (code : Nat) : t.trapEntry v code = s.trapEntry w code := by
  simp only [State.trapEntry, State.launchOfWg, State.launch, launches, launch]

theorem Retired.trapEntry {s t : State} (r : Retired s t) {core slot : Nat} (present : s.hasGroup core slot = true) (code : Nat) :
    t.trapEntry (t.wgOf core slot) code = s.trapEntry (s.wgOf core slot) code := by
  rw [r.wgOf_present present]
  exact State.trapEntry_congr (by rw [r.state]) (by rw [r.wg]) code

/-! ### What a landing leaves of the threads (R50, R51) -/

/-- What no part of a result changes in a thread. -/
def Standing (e : Nat → Thread → Thread) : Prop := ∀ l t, (e l t).pos = t.pos ∧ (e l t).inHandler = t.inHandler ∧ (e l t).exited = t.exited

/-- A landing of which only that is said that its threads stand where they stood. -/
def LandsStanding (s t : State) (core slot : Nat) : Prop := ∃ e, LandStep s t core slot e ∧ Standing e

theorem LandsStanding.refl (s : State) (core slot : Nat) : LandsStanding s s core slot := ⟨_, .refl s core slot, fun _ _ => ⟨rfl, rfl, rfl⟩⟩

theorem LandsStanding.trans {s t u : State} {core slot : Nat} (h : LandsStanding s t core slot) (k : LandsStanding t u core slot) : LandsStanding s u core slot := by
  obtain ⟨e, step, stand⟩ := h
  obtain ⟨d, step2, stand2⟩ := k
  refine ⟨_, step.trans step2, fun l x => ?_⟩
  obtain ⟨pos, inside, out⟩ := stand l x
  obtain ⟨pos2, inside2, out2⟩ := stand2 l (e l x)
  exact ⟨pos2.trans pos, inside2.trans inside, out2.trans out⟩

theorem LandsStanding.foldl {α : Type} {core slot : Nat} {f : State → α → State} (hf : ∀ s a, s.hasGroup core slot = true → LandsStanding s (f s a) core slot) (l : List α) (s : State)
    (present : s.hasGroup core slot = true) : LandsStanding s (l.foldl f s) core slot := by
  induction l generalizing s with
  | nil => exact refl s core slot
  | cons a r ih =>
    have one := hf s a present
    obtain ⟨_, step, -⟩ := one
    exact (hf s a present).trans (ih _ ((step.present _ _).trans present))

theorem LandsStanding.modThreads {α : Type} {core slot : Nat} (k : α → Nat) (f : α → Thread → Thread) (hf : ∀ a t, (f a t).pos = t.pos ∧ (f a t).inHandler = t.inHandler ∧ (f a t).exited = t.exited)
    (l : List α) (s : State) (present : s.hasGroup core slot = true) : LandsStanding s (l.foldl (fun s a => s.modThread core slot (k a) (f a)) s) core slot := by
  refine foldl (fun u a hu => ⟨_, .modThread u hu (k a) (f a), fun j t => ?_⟩) l s present
  split
  · exact hf a t
  · exact ⟨rfl, rfl, rfl⟩

theorem Thread.srWrite_standing (t : Thread) (i : Nat) (x : Long) : (t.srWrite i x).pos = t.pos ∧ (t.srWrite i x).inHandler = t.inHandler ∧ (t.srWrite i x).exited = t.exited := by
  unfold Thread.srWrite
  split <;> exact ⟨rfl, rfl, rfl⟩

theorem LandsStanding.landLane (s : State) {core slot : Nat} (present : s.hasGroup core slot = true) (id ctx : Nat) (rep : Bool) (w : LaneWrite) :
    LandsStanding s (s.landLane id core slot ctx rep w) core slot := by
  unfold State.landLane
  dsimp only
  split
  · refine ⟨_, (LandStep.writeReg s present w.lane w.reg w.val w.tag).trans (LandStep.modCore _ core slot core _), fun l t => ?_⟩
    split
    · rw [t.putReg_regs]
      exact ⟨rfl, rfl, rfl⟩
    · exact ⟨rfl, rfl, rfl⟩
  · split
    · exact ⟨_, .release s core slot core ctx w.val, fun _ _ => ⟨rfl, rfl, rfl⟩⟩
    · exact refl s core slot

/-- Whatever a result writes, its threads stand where they stood. -/
theorem LandsStanding.land (s : State) (id : Nat) (p : Pend) (present : s.hasGroup p.core p.slot = true) : LandsStanding s (s.land id p) p.core p.slot := by
  have keep {u v : State} (h : LandsStanding u v p.core p.slot) (hu : u.hasGroup p.core p.slot = true) : v.hasGroup p.core p.slot = true := by
    obtain ⟨_, step, -⟩ := h
    exact (step.present _ _).trans hu
  have srs : LandsStanding s _ p.core p.slot := modThreads (fun (x : Nat × Nat × Long) => x.1) (fun x t => t.srWrite x.2.1 x.2.2) (fun x t => t.srWrite_standing _ _) p.srs s present
  have writes := srs.trans (foldl (fun u w hu => landLane u hu id (s.ctxOfWg (s.wgOf p.core p.slot)) (s.replaying (s.wgOf p.core p.slot)) w) p.writes _ (keep srs present))
  have preds := writes.trans (modThreads (fun (x : Nat × Nat × Bool) => x.1) (fun q t => t.setPred q.2.1 q.2.2) (fun q t => by rw [t.setPred_preds]; exact ⟨rfl, rfl, rfl⟩) p.preds _ (keep writes present))
  have flags := preds.trans (modThreads (fun (x : Nat × BitVec 5) => x.1) (fun q t => { t with fpflags := t.fpflags ||| q.2 }) (fun _ _ => ⟨rfl, rfl, rfl⟩) p.flags _ (keep preds present))
  unfold State.land
  dsimp only
  split
  · exact flags.trans ⟨_, .modWg _ p.core p.slot _ _, fun _ _ => ⟨rfl, rfl, rfl⟩⟩
  · exact flags

/-- What a result that has arrived leaves of its group and its workgroup, before a trap is taken. -/
structure Arrived (s t : State) (core slot : Nat) : Prop where
  mem : t.mem = s.mem
  present : t.hasGroup core slot = true
  wgOf : t.wgOf core slot = s.wgOf core slot
  rwc : ∀ w, (t.wg w).rwc = (s.wg w).rwc
  entry : ∀ code, t.trapEntry (t.wgOf core slot) code = s.trapEntry (s.wgOf core slot) code
  length : (t.group core slot).threads.length = (s.group core slot).threads.length
  thread : ∀ l, (t.thread core slot l).pos = (s.thread core slot l).pos ∧ (t.thread core slot l).inHandler = (s.thread core slot l).inHandler ∧ (t.thread core slot l).exited = (s.thread core slot l).exited

theorem LandsStanding.arrived {s t : State} {core slot : Nat} (h : LandsStanding s t core slot) (present : s.hasGroup core slot = true) (k : Nat) : Arrived s (t.tokDown core slot k) core slot := by
  obtain ⟨e, step, stand⟩ := h
  have there : t.hasGroup core slot = true := (step.present _ _).trans present
  have there2 : (t.tokDown core slot k).hasGroup core slot = true := by rw [State.tokDown_present]; exact there
  have group := t.tokDown_tokens core slot k core slot
  have wgOf : (t.tokDown core slot k).wgOf core slot = s.wgOf core slot := by
    rw [State.wgOf_present _ there2, group, s.wgOf_present present, step.here]
  have wg (w : Nat) : (t.tokDown core slot k).wg w = t.wg w := by simp
  have threads : ((t.tokDown core slot k).group core slot).threads = (t.group core slot).threads := by rw [group]
  refine ⟨?_, there2, wgOf, fun w => ?_, fun code => ?_, ?_, fun l => ?_⟩
  · rw [step.state]
    simp
  · rw [wg, step.wgKept]
  · rw [wgOf]
    refine State.trapEntry_congr ?_ ?_ code
    · rw [step.state]
      simp
    · rw [wg, step.wgKept]
  · rw [threads, step.length]
  · have at_l : (t.tokDown core slot k).thread core slot l = t.thread core slot l := by rw [State.thread, Group.thread, threads]; rfl
    rw [at_l]
    by_cases hl : l < (s.group core slot).threads.length
    · rw [step.thread l hl]
      exact stand l _
    · have out (u : State) (hu : (u.group core slot).threads.length = (s.group core slot).threads.length) : u.thread core slot l = {} := by
        rw [State.thread, Group.thread, List.getD_eq_default _ _ (by omega)]
      rw [out t step.length, out s rfl]
      exact ⟨rfl, rfl, rfl⟩

/-- No wait and no crossing of the group ends or begins as a result arrives. -/
theorem LandsStanding.waits {s t : State} {core slot : Nat} (h : LandsStanding s t core slot) (k : Nat) : ((t.tokDown core slot k).group core slot).waits = (s.group core slot).waits ∧
    ((t.tokDown core slot k).group core slot).xings = (s.group core slot).xings := by
  obtain ⟨_, step, -⟩ := h
  rw [t.tokDown_tokens core slot k core slot, step.here]
  exact ⟨rfl, rfl⟩

/-- What comes after and changes no thread. -/
theorem Arrived.same {s t u : State} {core slot : Nat} (a : Arrived s t core slot) (same : SameThreads t u) (launches : u.launches = t.launches) : Arrived s u core slot where
  mem := same.mem.trans a.mem
  present := (same.present _ _).trans a.present
  wgOf := by rw [same.wgOf, a.wgOf]
  rwc w := by rw [same.wg, a.rwc]
  entry code := by
    rw [same.wgOf, ← a.entry]
    exact State.trapEntry_congr launches (by rw [same.wg]) code
  length := by rw [same.threads, a.length]
  thread l := by rw [same.thread]; exact a.thread l

/-- Nothing that an event arrives at depends on what was under way before it. -/
theorem Arrived.of_pends {s t : State} {core slot : Nat} {l : Tbl Pend} (a : Arrived { s with pends := l } t core slot) : Arrived s t core slot :=
  ⟨a.mem, a.present, a.wgOf, a.rwc, a.entry, a.length, a.thread⟩

/-- What entering the handler of FP_TRAP leaves (R343, R344). -/
structure EntersFp (s t : State) (core slot : Nat) (m lanes : BitVec 32) (pos tv : Long) (res : Nat → Long) : Prop where
  mem : t.mem = s.mem
  rwc : ∀ w, (t.wg w).rwc = (s.wg w).rwc
  thread : ∀ l ∈ lanesOf m, l < (s.group core slot).threads.length → ∃ x st, t.thread core slot l = enteredAt (s.trapEntry (s.wgOf core slot) cFP) cFP lanes pos tv st res l x

theorem Arrived.enters {s u : State} {core slot : Nat} (a : Arrived s u core slot) (m lanes : BitVec 32) (pos tv : Long) (stall : Nat) (res : Nat → Long) :
    EntersFp s (u.enterHandler core slot m lanes cFP pos tv stall res) core slot m lanes pos tv res := by
  have step := u.enterHandler_lanes a.present m lanes cFP pos tv stall res
  refine ⟨step.mem.trans a.mem, fun w => (step.rwc w).trans (a.rwc w), fun l hl small => ⟨u.thread core slot l, stall, ?_⟩⟩
  rw [step.thread l (by rw [a.length]; exact small), if_pos (mem_lanesOf.1 hl), a.entry]

/-- R342, R345: whether the threads of a result that has arrived take its trap in a handler. -/
theorem Arrived.takes {s u : State} {core slot : Nat} (a : Arrived s u core slot) {m : BitVec 32} (installed : s.trapEntry (s.wgOf core slot) cFP ≠ 0)
    (outside : ∀ l ∈ lanesOf m, (s.thread core slot l).inHandler = false) : u.traps core slot m cFP = true := by
  rw [State.traps, a.entry]
  simp only [installed, ne_eq, not_false_eq_true, decide_true, Bool.true_and, Bool.not_eq_true', List.any_eq_false]
  intro l hl
  rw [(a.thread l).2.1, outside l hl]
  exact Bool.false_ne_true

/-- R121: of threads none of which waits or has ended, all take the trap of a late result now. -/
theorem State.lateTraps_now {t : State} {id : Nat} {p : Pend} (found : tblFind t.pends id = some p) (present : t.hasGroup p.core p.slot = true)
    (waits : (t.group p.core p.slot).waits = []) (xings : (t.group p.core p.slot).xings = []) (live : ∀ l ∈ lanesOf p.act, (t.thread p.core p.slot l).exited = false) :
    t.lateTraps id = if p.act = 0 then { t with pends := tblDel t.pends id }
      else State.lateTrap { t with pends := tblDel t.pends id } p.core p.slot p.path p.lanes p.act p.traps p.pos p.exc := by
  have idle (l : Nat) : (t.group p.core p.slot).waitingIn l = false := by simp [Group.waitingIn, waits, xings]
  have alive : (lanesOf p.act).filter (fun l => !((t.group p.core p.slot).thread l).exited) = lanesOf p.act := by
    rw [List.filter_eq_self]
    intro l hl
    rw [show ((t.group p.core p.slot).thread l).exited = false from live l hl]
    rfl
  unfold State.lateTraps
  simp only [found, present, if_true, alive, idle, Bool.false_and, Bool.not_false, List.filter_true, List.filter_false, maskOf_lanesOf]
  rfl

/-- The trap of a late result, where it is taken in a handler. -/
theorem Arrived.lateTrap {s u : State} {core slot : Nat} (a : Arrived s u core slot) {m : BitVec 32} (takes : u.traps core slot m cFP = true) (path : Nat) (iss lanes : BitVec 32) (pos : Long) (exc : BitVec 5) :
    EntersFp s (u.lateTrap core slot path iss m lanes pos exc) core slot m lanes pos (exc.setWidth 64) (fun l => (u.thread core slot l).pos) := by
  rw [State.lateTrap]
  simp only [takes, if_true]
  have moved := a.same (SameThreads.modGroup u core slot (fun g => { g with waits := g.waits.map (fun x =>
      if x.iss.phase = 0 && x.row = 8 then { x with iss := { x.iss with lanes := x.iss.lanes &&& ~~~ m } } else x) })) (by simp)
  exact moved.enters m lanes pos (exc.setWidth 64) 1 _


end Sys2Proof.Machine

namespace Sys2Proof.Proofs.Traps

open Sys2Proof.Machine Sys2Proof.Claims

section First

variable {s : State} {h : Hdr} (first : First s) (some : s.active h ≠ 0)
include first some

/-- R342, R343: a software trap with a handler, outside of one. -/
theorem softTrap_enters {code entry : Nat} {tv : Long} (outside : ∀ l ∈ lanesOf (s.active h), (mine s l).inHandler = false) (there : s.trapEntry s.curWg code = entry) (installed : entry ≠ 0) :
    Moved s (s.softTrap h code tv) h (fun _ => seqPos s.cur.pos)
      (fun l x => if (s.active h).getLsbD l then enteredAt entry code (s.active h) s.cur.pos tv 0 (fun _ => seqPos s.cur.pos) l x else x) := by
  have hphase := first.1
  have present := first.2.2.2.2.2
  have r : Retired s (s.retireSeq h) := .retireSeq s h hphase
  have takes : s.traps s.cur.core s.cur.slot (s.active h) code = true := by
    rw [State.traps, show s.trapEntry (s.wgOf s.cur.core s.cur.slot) code = entry from there]
    simp only [ne_eq, installed, not_false_eq_true, decide_true, Bool.true_and, Bool.not_eq_true', List.any_eq_false]
    exact fun l hl => by rw [show (s.thread s.cur.core s.cur.slot l).inHandler = false from outside l hl]; exact Bool.false_ne_true
  have step := (s.retireSeq h).enterHandler_lanes ((r.present _ _).trans present) (s.active h) (s.active h) code s.cur.pos tv 0 (fun _ => seqPos s.cur.pos)
  rw [r.trapEntry present, show s.trapEntry (s.wgOf s.cur.core s.cur.slot) code = entry from there] at step
  have run : s.softTrap h code tv = (s.retireSeq h).enterHandler s.cur.core s.cur.slot (s.active h) (s.active h) code s.cur.pos tv 0 (fun _ => seqPos s.cur.pos) := by
    rw [State.softTrap]
    simp only [some, if_false, takes, if_true]
  rw [run]
  exact step.after hphase (s.retire_moved h _ hphase present) (State.retire_length h _ hphase present)

end First

/-- R386: a group that retires and then stops, as a debug stop. -/
theorem retires_and_stops {s : State} {h : Hdr} (first : First s) (lanes : BitVec 32) (r : HaltRec) : 
    let t := ((if s.cur.path = 0 then s.dropPathB else s).retireSeq h).stopGroup s.cur.core s.cur.slot (s.active h) lanes r
    (t.group s.cur.core s.cur.slot).stopped = true ∧ Moved s t h (fun _ => seqPos s.cur.pos) (fun l x => if (s.active h).getLsbD l then trapRegs r.code lanes r.pos r.tvalue l x else x) := by
  intro t
  have hphase := first.1
  have present := first.2.2.2.2.2
  obtain ⟨u, hu, keeps, cur⟩ : ∃ u, u = (if s.cur.path = 0 then s.dropPathB else s) ∧ KeepsThreads s u ∧ u.cur = s.cur := by
    refine ⟨_, rfl, ?_, ?_⟩
    · split
      · exact .of_groups rfl rfl (fun _ => rfl) rfl
      · exact .refl s
    · split <;> rfl
  have run : t = (u.retireSeq h).stopGroup s.cur.core s.cur.slot (s.active h) lanes r := by rw [hu]
  have uphase : u.cur.phase = 0 := by rw [cur]; exact hphase
  have upresent : u.hasGroup u.cur.core u.cur.slot = true := by rw [cur]; exact (keeps.present _ _).trans present
  have ret : Retired u (u.retireSeq h) := .retireSeq u h uphase
  have moved : Moved s (u.retireSeq h) h (fun _ => seqPos s.cur.pos) (fun _ x => x) := by
    refine keeps.moved cur present ?_
    rw [State.retireSeq, cur]
    exact u.retire_moved h _ uphase upresent
  have there : (u.retireSeq h).hasGroup s.cur.core s.cur.slot = true := by rw [ret.present, keeps.present, present]
  have st := (u.retireSeq h).stopGroup_stopsGroup there (s.active h) lanes r
  rw [run]
  refine ⟨st.stopped, st.lanesStep.after hphase moved ?_⟩
  have := State.retire_length h (fun _ => seqPos u.cur.pos) uphase upresent
  rw [cur] at this
  rw [State.retireSeq, cur, this, keeps.threads]

/-- A kernel that installs no handler for a cause. -/
theorem no_handler {s : State} {core slot code : Nat} {m : BitVec 32} (none : s.trapEntry (s.wgOf core slot) code = 0) : s.traps core slot m code = false := by
  rw [State.traps, none]
  rfl

theorem userTrapEntryAndReturn : UserTrapEntryAndReturn := by
  intro s h f first act kr debug next enters stopsPast some
  have hphase := first.1
  have present := first.2.2.2.2.2
  refine ⟨fun outside => ⟨fun installed => ⟨_, rfl, softTrap_enters first some outside rfl installed⟩, fun installed => ⟨_, rfl, softTrap_enters first some outside rfl installed⟩, fun none => ?_, fun none dbg => ?_⟩, fun dbg => ?_, fun dbg => ?_, fun back => ?_⟩
  · have untaken : s.traps s.cur.core s.cur.slot (s.active h) cTRAP = false := no_handler none
    refine ⟨_, rfl, ?_⟩
    have st := s.raise_stops h act cTRAP (f.imm.setWidth 64) hphase present
    rw [State.softTrap]
    simp only [show s.active h ≠ 0 from some, if_false, untaken, Bool.false_eq_true]
    exact st
  · have untaken : s.traps s.cur.core s.cur.slot (s.active h) cBREAK = false := no_handler none
    have free : s.trapEntry s.curWg cBREAK = 0 := none
    refine ⟨_, rfl, ?_⟩
    rw [State.softTrap]
    simp only [show s.active h ≠ 0 from some, if_false, untaken, Bool.false_eq_true, show (s.ctx s.curCtx).debug = true from dbg, free, decide_true, Bool.and_self, if_true]
    exact retires_and_stops first (s.active h) { code := cBREAK, kind := 4, pathB := s.cur.path == 1, pos := s.cur.pos, tvalue := f.imm.setWidth 64 }
  · refine ⟨_, rfl, ?_⟩
    simp only [show s.active h ≠ 0 from some, decide_false, show (s.ctx s.curCtx).debug = true from dbg, Bool.not_true, Bool.or_false, Bool.false_eq_true, if_false]
    exact retires_and_stops first (s.active h) { code := 0, kind := 4, pathB := s.cur.path == 1, pos := s.cur.pos, tvalue := f.imm.setWidth 64 }
  · show Retires s h (execHaltI h f s) _ _
    rw [execHaltI]
    simp only [show (s.ctx s.curCtx).debug = false from dbg, Bool.not_false, Bool.or_true, if_true]
    exact retires_of_retire first h _
  · show Retires s h (execRti h f s) _ _
    have inside : (lanesOf (s.active h)).any (fun l => !(s.thread s.cur.core s.cur.slot l).inHandler) = false := by
      rw [List.any_eq_false]
      exact fun l hl e => by
        rw [show (s.thread s.cur.core s.cur.slot l).inHandler = true from (back l hl).1] at e
        cases e
    have step : LandStep s (s.leaveHandler s.cur.core s.cur.slot (s.active h)) s.cur.core s.cur.slot _ := LandStep.modLanes s present (s.active h) (fun _ t => { t with pos := t.resume, inHandler := false })
    refine LandStep.retires step first _ (e := fun _ t => { t with inHandler := false }) (fun l => rfl) ?_
    rw [execRti]
    simp only [inside, Bool.false_eq_true, if_false]
    rw [State.transfer_passes first h _ _ _ (fun q hq => ?_), destOf_all]
    · rfl
    · exact step.cur
    · obtain ⟨l, hl, rfl⟩ := List.mem_map.1 hq
      exact (back l hl).2

theorem floatTrapEntry : FloatTrapEntry := by
  intro s id p found present good traps w entry n trapped enters outside
  have standing : LandsStanding { s with pends := tblDel s.pends id } (State.land { s with pends := tblDel s.pends id } id p) p.core p.slot := .land _ id p present
  have fixed : exec (.fixedLatencyWrite id) s = .next (((State.land { s with pends := tblDel s.pends id } id p).tokDown p.core p.slot p.tok).fixedTrap p) := by
    show execFixedLatencyWrite id s = _
    simp only [execFixedLatencyWrite, found, good, traps, if_false]
  have late : s.arriveLate id = State.lateTraps (State.tickFresh (let u := (State.land { s with pends := tblDel s.pends id } id p).tokDown p.core p.slot p.tok
      { u with pends := tblPut u.pends id { p with kind := 4, writes := [], flags := [], due := u.fresh } })) id := by
    simp only [State.arriveLate, found, traps, if_false]
  have a : Arrived s _ p.core p.slot := (standing.arrived present p.tok).of_pends
  obtain ⟨waits, xings⟩ := standing.waits p.tok
  generalize (State.land { s with pends := tblDel s.pends id } id p).tokDown p.core p.slot p.tok = u at *
  have enters_of {t : State} {res : Nat → Long} (e : EntersFp s t p.core p.slot p.act p.traps p.pos (p.exc.setWidth 64) res) : enters t res := by
    refine ⟨e.rwc w, fun l hl small => ?_⟩
    obtain ⟨x, st, at_l⟩ := e.thread l hl small
    simp only [trapped, at_l]
    exact ⟨⟨rfl, rfl, rfl, rfl⟩, rfl, rfl, rfl⟩
  refine ⟨fun installed out => ?_, fun none => ?_, fun installed out noSrs noWaits noXings live => ?_⟩
  · have takes := a.takes (m := p.act) installed out
    have e := a.enters p.act p.traps p.pos (p.exc.setWidth 64) 1 (fun _ => seqPos p.pos)
    refine ⟨_, fixed, ?_⟩
    rw [State.fixedTrap]
    simp only [takes, if_true]
    exact ⟨e.mem, enters_of e⟩
  · have untaken : u.traps p.core p.slot p.act cFP = false := no_handler ((a.entry cFP).trans none)
    have step := LandStep.modLanes u a.present p.lanes (fun _ t => { t with pos := p.pos })
    have st := ((u.modLanes p.core p.slot p.lanes (fun _ t => { t with pos := p.pos })).modWg (u.wgOf p.core p.slot) (fun x => { x with rwc := x.rwc - 1 })).stopGroup_stopsGroup
      (core := p.core) (slot := p.slot) ((step.present _ _).trans a.present) p.lanes p.traps { code := cFP, kind := 0, pathB := p.path == 1, pos := p.pos, tvalue := p.exc.setWidth 64 }
    refine ⟨_, fixed, ?_⟩
    rw [State.fixedTrap]
    simp only [untaken, Bool.false_eq_true, if_false]
    refine ⟨st.mem.trans (step.lanes.mem.trans a.mem), st.stopped, ?_, fun l hl small => ?_⟩
    · rw [st.rwc, ← a.rwc, show w = u.wgOf p.core p.slot from a.wgOf.symm, State.modWg_self, step.wgKept]
    · have small' : l < (u.group p.core p.slot).threads.length := by rw [a.length]; exact small
      have at_l := st.thread l (by rw [(State.modWg_group _ _ _).1, step.length]; exact small')
      rw [if_pos (mem_lanesOf.1 hl), show State.thread (State.modWg _ _ _) p.core p.slot l = _ from step.thread l small', if_pos (mem_lanesOf.1 hl)] at at_l
      simp only [trapped, at_l]
      exact ⟨⟨rfl, rfl, rfl, rfl⟩, rfl⟩
  · have run : s.arriveLate id = if p.act = 0 then _ else _ := late.trans (State.lateTraps_now (p := { p with kind := 4, writes := [], flags := [], due := u.fresh }) (tblFind_tblPut_self _ _ _) a.present (waits.trans noWaits)
      (xings.trans noXings) fun l hl => (a.thread l).2.2.trans (live l hl))
    have both : ∃ t, s.arriveLate id = t ∧ t.mem = s.mem ∧ enters t (fun l => (s.thread p.core p.slot l).pos) := by
      refine ⟨_, run, ?_⟩
      split
      next none =>
        refine ⟨a.mem, a.rwc w, fun l hl => ?_⟩
        rw [none, lanesOf_zero] at hl
        cases hl
      next some =>
        have same := a.same (u := { u with pends := tblDel (tblPut u.pends id { p with kind := 4, writes := [], flags := [], due := u.fresh }) id, fresh := u.fresh + 1 }) (.of_groups rfl rfl rfl rfl) rfl
        have e := same.lateTrap (m := p.act) (same.takes installed out) p.path p.lanes p.traps p.pos p.exc
        refine ⟨e.mem, e.rwc w, fun l hl small => ?_⟩
        obtain ⟨x, st, at_l⟩ := e.thread l hl small
        exact ⟨⟨congrArg Thread.tcause at_l, congrArg Thread.tlanes at_l, congrArg Thread.tpc at_l, congrArg Thread.tvalue at_l⟩, congrArg Thread.pos at_l,
          (congrArg Thread.resume at_l).trans (a.thread l).1, congrArg Thread.inHandler at_l⟩
    obtain ⟨t, ht, enter⟩ := both
    exact ⟨⟨t, congrArg Host.Outcome.next ht, enter⟩, t, congrArg Host.Outcome.next ht, enter⟩

/-- Settles O8. -/
theorem userTraps : Obligations.UserTraps := ⟨floatTrapEntry, userTrapEntryAndReturn⟩

end Sys2Proof.Proofs.Traps
end

section
/-! SUPPORT. Float, convert and special-function instructions (R115-R125), and the NaN that sums and products give (R78, R79). -/

namespace Sys2Proof.Machine

open Sys2Proof.Claims

/-! ### A float result under way (R50, R344) -/

/-- An arithmetic instruction of a float form whose operands are ready. -/
theorem alu_float (s : State) (h : Hdr) (i : Instr) (fm : Form) (ev : Eval) (float : fm.fpu = true) (r : ReadyFor s h fm) : Host.Outcome.next (s.alu h i fm ev) = floatIssued s h i fm ev := by
  rw [s.alu_ready h i fm ev r, floatIssued]
  simp only [float, Bool.true_and, bne_iff_ne, ne_eq, ite_not]

/-- R120, R121: a special function whose operands are ready. -/
theorem special_ready (s : State) (h : Hdr) (i : Instr) (f : FmtA) (ev : Eval) (r : ReadyFor s h (f.one 0 0)) : ∃ n, 1 ≤ n ∧ n ≤ 40 ∧
    s.special h i f ev = ((((s.takeToken h).addPend { resultOf s h { f.one 0 0 with fpu := true } ev (s.active h) with kind := 1 }).inCycles s.cur.core n (.specialFunctionCompletion s.fresh)).retireSeq h) := by
  have plain := r.2.2.2.2.1
  have fresh : (s.takeToken h).fresh = s.fresh := by simp
  refine ⟨1 + Config.latency s.fresh % 40, by omega, by omega, ?_⟩
  have r' : Ready s (s.active h) (f.one 0 0).srcs (dstRegs (f.one 0 0).dst false) [] := r
  rw [State.special]
  refine (s.withOperands_ready _ _ _ _ _ _ _ _ _ r').trans ?_
  dsimp only
  rw [s.aluFold_plain h i (f.one 0 0) ev _ _ plain, fresh]
  rfl

/-! ### NaNs of the 32-bit format (Table 05-2, R78, R79) -/

theorem fmt32_decode_nan {x : Nat} (h : isNaN x) : fmt32.decode x = .nan (x / 2147483648 % 2 == 1) (x % 8388608 / 4194304 == 1) (x % 8388608 % 4194304) := by
  obtain ⟨ex, fr⟩ := h
  have ex' : x / 8388608 % 256 = 255 := ex
  simp [FFmt.decode, fmt32, FFmt.signBit, ex', fr]

theorem fmt32_decode_isNan (x : Nat) : (fmt32.decode x).isNan = true ↔ isNaN x := by
  by_cases h : isNaN x
  · rw [fmt32_decode_nan h]
    exact iff_of_true rfl h
  · refine iff_of_false ?_ h
    have apart : ¬ (x / 8388608 % 256 = 255 ∧ x % 8388608 ≠ 0) := h
    simp only [FFmt.decode, fmt32, FFmt.signBit]
    norm_num
    split_ifs <;> simp_all [FVal.isNan]

theorem fmt32_decode_isSnan (x : Nat) : (fmt32.decode x).isSnan = decide (x / 4194304 % 512 = 510 ∧ x % 4194304 ≠ 0) := by
  by_cases h : isNaN x
  · rw [fmt32_decode_nan h]
    obtain ⟨ex, fr⟩ := h
    simp only [FVal.isSnan]
    by_cases q : x % 8388608 / 4194304 = 1
    · rw [q, decide_eq_false (by omega)]
      rfl
    · rw [decide_eq_true (by omega)]
      simpa using q
  · have no := mt (fmt32_decode_isNan x).1 h
    have apart : ¬ (x / 8388608 % 256 = 255 ∧ x % 8388608 ≠ 0) := h
    rw [decide_eq_false (by omega)]
    cases e : fmt32.decode x with
    | nan n q p => exact absurd (by rw [e]; rfl) no
    | inf n => rfl
    | fin n m k => rfl

/-- R84: the flush of operands changes no NaN, and makes none. -/
theorem fmt32_flushIn_nan {x : Nat} (h : isNaN x) (fin : Bool) : fmt32.flushIn fin x = x := by
  have ex : x / 8388608 % 256 = 255 := h.1
  simp [FFmt.flushIn, fmt32, ex]

theorem fmt32_flushIn_isNaN (x : Nat) (fin : Bool) : isNaN (fmt32.flushIn fin x) ↔ isNaN x := by
  unfold FFmt.flushIn
  split
  next h =>
    simp only [Bool.and_eq_true, decide_eq_true_eq] at h
    have ex : x / 8388608 % 256 = 0 := h.2
    have zero : x / fmt32.signBit % 2 * fmt32.signBit = x / 2147483648 % 2 * 2147483648 := rfl
    rw [zero]
    constructor
    · rintro ⟨h1, -⟩
      omega
    · rintro ⟨h1, -⟩
      omega
  next => rfl

theorem fmt32_flushIn_isSnan (x : Nat) (fin : Bool) : (fmt32.decode (fmt32.flushIn fin x)).isSnan = (fmt32.decode x).isSnan := by
  by_cases h : isNaN x
  · rw [fmt32_flushIn_nan h]
  · have h' := fun k => h ((fmt32_flushIn_isNaN x fin).1 k)
    have no (y : Nat) (hy : ¬ isNaN y) : (fmt32.decode y).isSnan = false := by
      rw [fmt32_decode_isSnan, decide_eq_false]
      rintro ⟨h1, h2⟩
      exact hy ⟨by omega, by omega⟩
    rw [no x h, no _ h']

/-- R79: a NaN made quiet. -/
def quietNaN (x : Nat) : Nat := if x / 4194304 % 2 = 1 then x else x + 4194304

theorem quietTo_fmt32 {x : Nat} (small : x < 2 ^ 32) (h : isNaN x) : quietTo fmt32 fmt32 (fmt32.decode x) = quietNaN x := by
  have dec := fmt32_decode_nan h
  obtain ⟨ex, fr⟩ := h
  rw [dec]
  simp only [quietTo, fmt32, FFmt.signBit, FFmt.canon, quietNaN, beq_iff_eq]
  norm_num
  split_ifs <;> omega

/-- The data of the sources of an operation, flushed. -/
def sourcesOf (op : FOp) (fin : Bool) (a b c : Nat) : List FVal :=
  if op = .fma then [fmt32.decode (fmt32.flushIn fin a), fmt32.decode (fmt32.flushIn fin b), fmt32.decode (fmt32.flushIn fin c)]
  else [fmt32.decode (fmt32.flushIn fin a), fmt32.decode (fmt32.flushIn fin b)]

/-- R79: the first NaN among the sources is the result of an operation without .sat, made quiet; of a sum or a product a signalling NaN raises invalid. -/
theorem arith_nan {op : FOp} (mode : Nat) {fin : Bool} (fout : Bool) {a b c : Nat} {v : FVal} (first : (sourcesOf op fin a b c).find? FVal.isNan = some v) :
    (fmt32.arith op mode false fin fout a b c).bits = quietTo fmt32 fmt32 v ∧
      (op ≠ .fma → (fmt32.arith op mode false fin fout a b c).flags = if (sourcesOf op fin a b c).any FVal.isSnan then xINV else 0) := by
  have core : ∃ fl, fmt32.arithCore op mode (fmt32.flushIn fin a) (fmt32.flushIn fin b) (fmt32.flushIn fin c) = ⟨quietTo fmt32 fmt32 v, fl, false⟩ ∧
      (op ≠ .fma → fl = if (sourcesOf op fin a b c).any FVal.isSnan then xINV else 0) := by
    unfold FFmt.arithCore
    dsimp only
    rw [sourcesOf] at first ⊢
    rw [first]
    refine ⟨_, rfl, fun other => ?_⟩
    rw [decide_eq_false other, Bool.false_and, Bool.or_false]
  obtain ⟨fl, run, inv⟩ := core
  have whole : fmt32.arith op mode false fin fout a b c = ⟨quietTo fmt32 fmt32 v, fl, false⟩ := by
    rw [FFmt.arith, run]
    simp [FFmt.saturate, FFmt.flushOut]
  rw [whole]
  exact ⟨rfl, inv⟩

section Sources

variable {fin : Bool} {a b c : Nat}

theorem flushed_isNan (x : Nat) (fin : Bool) : (fmt32.decode (fmt32.flushIn fin x)).isNan = true ↔ isNaN x := (fmt32_decode_isNan _).trans (fmt32_flushIn_isNaN x fin)

theorem sources_first (op : FOp) (ha : isNaN a) : (sourcesOf op fin a b c).find? FVal.isNan = some (fmt32.decode a) := by
  have here := (flushed_isNan a fin).2 ha
  rw [fmt32_flushIn_nan ha] at here
  unfold sourcesOf
  rw [fmt32_flushIn_nan ha]
  split <;> rw [List.find?_cons_of_pos here]

theorem sources_second (op : FOp) (ha : ¬ isNaN a) (hb : isNaN b) : (sourcesOf op fin a b c).find? FVal.isNan = some (fmt32.decode b) := by
  have no := mt (flushed_isNan a fin).1 ha
  have here := (flushed_isNan b fin).2 hb
  rw [fmt32_flushIn_nan hb] at here
  unfold sourcesOf
  rw [fmt32_flushIn_nan hb]
  split <;> rw [List.find?_cons_of_neg no, List.find?_cons_of_pos here]

theorem sources_third (ha : ¬ isNaN a) (hb : ¬ isNaN b) (hc : isNaN c) : (sourcesOf .fma fin a b c).find? FVal.isNan = some (fmt32.decode c) := by
  have noA := mt (flushed_isNan a fin).1 ha
  have noB := mt (flushed_isNan b fin).1 hb
  have here := (flushed_isNan c fin).2 hc
  rw [fmt32_flushIn_nan hc] at here
  rw [sourcesOf, if_pos rfl, fmt32_flushIn_nan hc, List.find?_cons_of_neg noA, List.find?_cons_of_neg noB, List.find?_cons_of_pos here]

end Sources

end Sys2Proof.Machine

namespace Sys2Proof.Proofs.Floats

open Sys2Proof.Machine Sys2Proof.Claims

theorem singlePrecisionIssue : SinglePrecisionIssue := by
  intro s h v f one two three
  refine ⟨fun r => ⟨?_, ?_, ?_, ?_⟩, fun r => ⟨?_, ?_, ?_⟩, fun r => ?_, fun r => ⟨?_, ?_, ?_, ?_⟩⟩
  all_goals exact alu_float s h _ _ _ rfl r

theorem otherPrecisionsAndConvertIssue : OtherPrecisionsAndConvertIssue := by
  intro s h v f pair2 pair3 two three cv pk up
  refine ⟨fun r => ⟨?_, ?_⟩, fun r => ?_, fun r => ⟨?_, ?_⟩, fun r => ?_, fun r => ?_, fun r => ?_, fun r => ⟨?_, ?_⟩, fun r => ?_, fun r => ?_⟩
  all_goals exact alu_float s h _ _ _ rfl r

theorem specialFunctionIssue : SpecialFunctionIssue := by
  intro s h f r t goes
  have each (i : Instr) (ev : Eval) : goes (.next (s.special h i f ev)) ev := by
    obtain ⟨n, low, high, run⟩ := special_ready s h i f ev r
    exact ⟨n, low, high, congrArg Host.Outcome.next run⟩
  exact ⟨each _ _, each _ _, each _ _, each _ _, each _ _, each _ _, each _ _, each _ _⟩

theorem naNPropagation : NaNPropagation := by
  intro f fin fout a b c sa sb sc sat quiet gives
  have off : (f.sat == 1) = false := by rw [sat]; rfl
  have of_first {op : FOp} {x y z n : Nat} (small : n < 2 ^ 32) (nan : isNaN n) (first : (sourcesOf op fin x y z).find? FVal.isNan = some (fmt32.decode n)) :
      gives (fmt32.arith op f.rnd.toNat (f.sat == 1) fin fout x y z) n := by
    rw [off]
    exact ((arith_nan f.rnd.toNat fout first).1.trans (quietTo_fmt32 small nan))
  refine ⟨fun ha => ?_, fun ha hb => ?_, fun ha hb hc => of_first sc hc (sources_third ha hb hc), fun some => ?_⟩
  · exact ⟨of_first sa ha (sources_first _ ha), of_first sa ha (sources_first _ ha), of_first sa ha (sources_first _ ha), of_first sa ha (sources_first _ ha)⟩
  · exact ⟨of_first sb hb (sources_second _ ha hb), of_first sb hb (sources_second _ ha hb), of_first sb hb (sources_second _ ha hb), of_first sb hb (sources_second _ ha hb)⟩
  · obtain ⟨n, first⟩ : ∃ v, (sourcesOf .add fin a b 0).find? FVal.isNan = Option.some v := by
      by_cases ha : isNaN a
      · exact ⟨_, sources_first _ ha⟩
      · exact ⟨_, sources_second _ ha (some.resolve_left ha)⟩
    have flags := (arith_nan f.rnd.toNat fout first).2 (by decide)
    show (fmt32.arith .add f.rnd.toNat (f.sat == 1) fin fout a b 0).flags.getLsbD 0 = _
    have two : sourcesOf .add fin a b 0 = [fmt32.decode (fmt32.flushIn fin a), fmt32.decode (fmt32.flushIn fin b)] := rfl
    rw [off, flags, two]
    simp only [List.any_cons, List.any_nil, Bool.or_false]
    rw [fmt32_flushIn_isSnan, fmt32_flushIn_isSnan, fmt32_decode_isSnan, fmt32_decode_isSnan]
    cases decide (a / 4194304 % 512 = 510 ∧ a % 4194304 ≠ 0) || decide (b / 4194304 % 512 = 510 ∧ b % 4194304 ≠ 0) <;> rfl

/-- Settles O7. -/
theorem floatInstructions : Obligations.FloatInstructions := ⟨singlePrecisionIssue, otherPrecisionsAndConvertIssue, specialFunctionIssue, naNPropagation⟩

end Sys2Proof.Proofs.Floats
end

section
/-! SUPPORT. Issues that wait (R20, R42, R142): what a wait begun, a wait begun again and the completion after a wait change; what leaves the gather entries of a die (R210). -/

namespace Sys2Proof.Machine

open Sys2Proof.Claims

/-! ### An issue that has waited retires (R38, R274) -/

theorem SameThreads.dropHeld (s : State) : SameThreads s s.dropHeld := by
  have each (u : State) (w : Word) : SameThreads u (u.dropReader w) := by
    unfold State.dropReader
    dsimp only
    split <;> exact .of_groups rfl rfl rfl rfl
  have all (l : List Word) (u : State) : SameThreads u (l.foldl (fun u w => u.dropReader w) u) := by
    induction l generalizing u with
    | nil => exact .refl u
    | cons w r ih => exact (each u w).trans (ih _)
  unfold State.dropHeld
  exact (all s.cur.held s).trans (.of_groups rfl rfl rfl rfl)

theorem State.dropHeld_groups (s : State) : s.dropHeld.groups = s.groups := by
  have each (u : State) (w : Word) : (u.dropReader w).groups = u.groups := by
    unfold State.dropReader
    dsimp only
    split <;> rfl
  exact foldl_groups each s.cur.held s

/-- The state in which retiring begins: announced reads that an issue which has waited did not make are given up. -/
def State.unheld (s : State) : State := if s.cur.phase > 0 then s.dropHeld else s

theorem State.unheld_same (s : State) : SameThreads s s.unheld := by
  unfold State.unheld
  split
  · exact .dropHeld s
  · exact .refl s

theorem State.unheld_groups (s : State) : s.unheld.groups = s.groups := by
  unfold State.unheld
  split
  · exact s.dropHeld_groups
  · rfl

/-- R38, R42, R133, R392: an issue that retires advances its threads and counts once; nothing elsewhere moves, and no token (R142). -/
theorem State.retire_advances (s : State) (h : Hdr) (p : Nat → Long) (present : s.hasGroup s.cur.core s.cur.slot = true) :
    Moved s (s.retire h p) h p (fun _ t => t) ∧ TokensKept s (s.retire h p) := by
  have same := s.unheld_same
  have r : Retired s.unheld (s.retire h p) := .retire_from s _ h p rfl
  have group (c q : Nat) : s.unheld.group c q = s.group c q := by rw [State.group, State.group, s.unheld_groups]
  obtain ⟨hg, -⟩ := s.unheld.noteIssue_frame s.cur.core s.cur.slot
  have traced : OnlyTraced (s.unheld.noteIssue s.cur.core s.cur.slot) _ := .traceRetire _ s.cur.core s.cur.slot s.cur.pos s.cur.lanes
  have counted : s.counted = ((s.unheld.noteIssue s.cur.core s.cur.slot).traceRetire s.cur.core s.cur.slot s.cur.pos s.cur.lanes).modWg
      ((s.unheld.noteIssue s.cur.core s.cur.slot).wgOf s.cur.core s.cur.slot) (fun x => { x with rwc := x.rwc + 1 }) := rfl
  have threads (c q : Nat) : (s.counted.group c q).threads = (s.group c q).threads := by
    simp only [counted, State.modWg_group, traced.threads]
    rw [State.group, hg, s.unheld_groups]
    rfl
  have there : s.counted.hasGroup s.cur.core s.cur.slot = true := by
    simp only [counted, State.modWg_group, traced.present]
    rw [State.hasGroup, hg, s.unheld_groups]
    exact present
  have owner : (s.unheld.noteIssue s.cur.core s.cur.slot).wgOf s.cur.core s.cur.slot = s.curWg := by
    rw [State.curWg, s.wgOf_present present, State.wgOf_present _ (by rw [State.hasGroup, hg, s.unheld_groups]; exact present), State.group, State.group, hg, s.unheld_groups]
  obtain ⟨w, f, hf, e⟩ := s.retire_counted h p
  refine ⟨⟨⟨(s.retire_mem h p).1, (s.retire_mem h p).2, fun c q hne => ?_⟩, ?_, fun l hl => ?_⟩, fun k => ?_⟩
  · rw [e]
    simp only [State.modWg_group, State.modLanes, State.modGroup_other _ _ hne, threads]
  · rw [e, State.modWg_rwc _ _ _ f hf]
    simp only [State.modLanes_reads]
    rw [counted, owner, State.modWg_self, traced.wg, State.noteIssue_rwc, same.wg]
  · rw [e]
    simp only [State.modWg_group, State.thread, State.modLanes, State.modGroup_self _ _ there]
    rw [Group.modLanes_thread _ _ _ _ (by rw [threads]; exact hl)]
    simp only [Group.thread, threads, mine, State.thread, State.goesOn]
  · rw [r.token, group]

/-- What retiring an issue may change. -/
def RetireFrame (s t : State) : Prop := t = { s with cores := t.cores, groups := t.groups, wgs := t.wgs, homes := t.homes, agenda := t.agenda, cur := t.cur }

theorem RetireFrame.trans {s t u : State} (h : RetireFrame s t) (k : RetireFrame t u) : RetireFrame s u := by
  unfold RetireFrame at *
  rw [k, h]

theorem RetireFrame.dropHeld (s : State) : RetireFrame s s.dropHeld := by
  have each (u : State) (w : Word) : RetireFrame u (u.dropReader w) := by
    unfold State.dropReader
    dsimp only
    split <;> rfl
  have all (l : List Word) (u : State) : RetireFrame u (l.foldl (fun u w => u.dropReader w) u) := by
    induction l generalizing u with
    | nil => exact rfl
    | cons w r ih => exact (each u w).trans (ih _)
  have last (u : State) : RetireFrame u { u with cur := { u.cur with held := [] } } := rfl
  exact (all s.cur.held s).trans (last _)

theorem State.retire_frame (s : State) (h : Hdr) (p : Nat → Long) : RetireFrame s (s.retire h p) := by
  have r : Retired s.unheld (s.retire h p) := .retire_from s _ h p rfl
  have first : RetireFrame s s.unheld := by
    unfold State.unheld
    split
    · exact .dropHeld s
    · rfl
  refine first.trans ?_
  rw [RetireFrame, r.state]

theorem State.done_frame (s : State) (h : Hdr) (p : Nat → Long) : RetireFrame s ((s.doneNow h).retire h p) := by
  have first : RetireFrame s (s.doneNow h) := by
    unfold State.doneNow State.dropToken State.tokDown
    split_ifs
    · rfl
    · rw [RetireFrame, s.modGroup_groups]
    · rfl
  exact first.trans ((s.doneNow h).retire_frame h p)

/-- R43: an issue that has waited and completes retires, and its token falls. -/
theorem State.done_passes {s : State} (present : s.hasGroup s.cur.core s.cur.slot = true) (late : s.cur.phase > 0) (h : Hdr) (p : Nat → Long) :
    Moved s ((s.doneNow h).retire h p) h p (fun _ t => t) ∧ TokenDown s ((s.doneNow h).retire h p) h := by
  have e : s.doneNow h = s.tokDown s.cur.core s.cur.slot h.tok.toNat := if_pos late
  have same : SameThreads s (s.doneNow h) := by
    rw [e, State.tokDown]
    split
    · exact .refl s
    · exact .modGroup s _ _ _
  have cur : (s.doneNow h).cur = s.cur := by simp [e]
  obtain ⟨moved, kept⟩ := (s.doneNow h).retire_advances h p (by rw [cur, same.present, present])
  refine ⟨moved_of_sameThreads same (by simp [cur]) moved, fun k => ?_⟩
  have := kept k
  rw [cur] at this
  rw [this, e]
  exact s.tokDown_token present h.tok.toNat k

/-! ### Threads begin to wait, and wait again -/

/-- What an issue does before its threads wait: of the groups nothing, of the workgroups nothing that counts; the issue goes on with the numbers l. -/
structure Prepares (s u : State) (l : List Nat) : Prop where
  mem : u.mem = s.mem
  hostMem : u.hostMem = s.hostMem
  groups : u.groups = s.groups
  rwc : ∀ w, (u.wg w).rwc = (s.wg w).rwc
  cur : u.cur = { s.cur with nums := l }

theorem Prepares.carry (s : State) (l : List Nat) : Prepares s (s.carry l) l := ⟨rfl, rfl, rfl, fun _ => rfl, rfl⟩

/-- What a wait leaves beside the group that waits. -/
def WaitFrame (u t : State) : Prop := t = { u with groups := t.groups, cur := t.cur, fresh := t.fresh }

theorem State.waitFor_first {s u : State} {l : List Nat} (prep : Prepares s u l) (first : First s) (h : Hdr) (i : Instr) (c : WaitCond) (row : Nat) :
    WaitsTo s (u.waitActive h i c row) h c l ∧ TokenUp s (u.waitActive h i c row) h ∧ WaitFrame u (u.waitActive h i c row) := by
  obtain ⟨hphase, -, hcaps, -, -, present⟩ := first
  obtain ⟨mem, hostMem, groups, rwc, cur⟩ := prep
  have ugroup (k q : Nat) : u.group k q = s.group k q := by rw [State.group, State.group, groups]
  have there : u.hasGroup s.cur.core s.cur.slot = true := by rw [State.hasGroup, groups]; exact present
  have act : u.active h = s.active h := by
    rw [State.active, State.active, cur]
    simp only [hphase, State.thread, ugroup]
  let rest := s.cur.lanes &&& ~~~ s.active h
  let v := u.modLanes s.cur.core s.cur.slot rest (fun _ t => { t with pos := seqPos s.cur.pos, came := false, stall := h.stall.toNat })
  let w : State := { v with cur := { u.cur with lanes := s.active h } }
  have run : u.waitActive h i c row = w.waitFor h i c row := by
    rw [State.waitActive, if_neg (by rw [cur]; show ¬ s.cur.phase > 0; omega), act]
    simp only [w, v, rest, cur]
  have wcur : w.cur = { s.cur with nums := l, lanes := s.active h } := by simp only [w, cur]
  have pv : v.hasGroup s.cur.core s.cur.slot = true := (u.modGroup_present _ _ _ _ _).trans there
  have wgroup (k q : Nat) : w.group k q = v.group k q := rfl
  have vhere : v.group s.cur.core s.cur.slot = (s.group s.cur.core s.cur.slot).modLanes rest (fun _ t => { t with pos := seqPos s.cur.pos, came := false, stall := h.stall.toNat }) := by
    refine (State.modGroup_self u _ there).trans ?_
    rw [ugroup]
  have begun := State.waitFor_begins (s := w) (by rw [wcur]; exact hphase) (by rw [wcur]; simp [hcaps, tblFind]) (by rw [wcur]; exact pv) h i c row
  rw [run]
  have vframe : v = { u with groups := v.groups } := u.modGroup_groups _ _ _
  have wframe : w = { u with groups := w.groups, cur := w.cur } := by
    show ({ v with cur := _ } : State) = _
    rw [vframe]
  obtain ⟨state, -, others, here, token, -, threads⟩ := begun
  clear_value w
  generalize w.waitFor h i c row = t at *
  simp only [TokenUp, wcur, wgroup, vhere] at others here token threads
  have frame : WaitFrame u t := by
    rw [WaitFrame, state, wframe]
  have waits : (t.group s.cur.core s.cur.slot).waits = (s.group s.cur.core s.cur.slot).waits ++ [w.waitOf h i c row] := congrArg Group.waits here
  refine ⟨⟨⟨⟨by rw [frame]; exact mem, by rw [frame]; exact hostMem, fun k q ne => ?_⟩, ?_, ⟨_, waits, rfl, ?_⟩, fun k hk => ?_⟩, fun x hx => ?_⟩, fun k => token k, frame⟩
  · rw [others k q ne]
    exact congrArg Group.threads ((u.modGroup_other _ ne).trans (ugroup k q))
  · rw [State.wg, frame]
    exact rwc s.curWg
  · simp [State.waitOf, wcur]
  · have length : ((s.group s.cur.core s.cur.slot).modLanes rest (fun _ t => { t with pos := seqPos s.cur.pos, came := false, stall := h.stall.toNat })).threads.length = (s.group s.cur.core s.cur.slot).threads.length := by
      simp [Group.modLanes]
    have at_k : mine w k = if rest.getLsbD k then { mine s k with pos := seqPos s.cur.pos, came := false, stall := h.stall.toNat } else mine s k := by
      rw [mine, wcur, State.thread, wgroup, vhere]
      exact Group.modLanes_thread _ _ _ _ hk
    rw [threads k (by rw [length]; exact hk), at_k]
    have inside := s.active_lane hphase h (l := k)
    have restBit : rest.getLsbD k = (s.cur.lanes.getLsbD k && !(s.active h).getLsbD k) := by
      by_cases small : k < 32
      · simp [rest, small]
      · simp [rest, BitVec.getLsbD_of_ge _ _ (not_lt.1 small)]
    rw [restBit]
    by_cases a : (s.active h).getLsbD k = true
    · simp [a, inside a]
    · by_cases b : s.cur.lanes.getLsbD k = true <;> simp [a, b]
  · rw [waits] at hx
    obtain rfl : w.waitOf h i c row = x := by simpa using hx
    simp [State.waitOf, wcur, hphase]

/-- An issue that has waited waits again. -/
theorem State.waitFor_again {s u : State} {l : List Nat} (prep : Prepares s u l) (present : s.hasGroup s.cur.core s.cur.slot = true) (late : s.cur.phase > 0)
    (h : Hdr) (i : Instr) (c : WaitCond) (row : Nat) : WaitsOn s (u.waitFor h i c row) c l ∧ TokensKept s (u.waitFor h i c row) ∧ WaitFrame u (u.waitFor h i c row) := by
  obtain ⟨mem, hostMem, groups, rwc, cur⟩ := prep
  have ugroup (k q : Nat) : u.group k q = s.group k q := by rw [State.group, State.group, groups]
  have there : u.hasGroup s.cur.core s.cur.slot = true := by rw [State.hasGroup, groups]; exact present
  let x : Waiting := ⟨u.fresh, { u.cur with phase := u.cur.phase + 1 }, i, c, row⟩
  have run : u.waitFor h i c row = (u.modGroup s.cur.core s.cur.slot (fun g => { g with waits := g.waits ++ [x] })).tickFresh := by
    have begun : u.beginWait h = u := by
      rw [State.beginWait, if_pos]
      rw [cur]
      simp [late]
    rw [State.waitFor, begun]
    simp only [x, cur]
  have here : (u.waitFor h i c row).group s.cur.core s.cur.slot = { s.group s.cur.core s.cur.slot with waits := (s.group s.cur.core s.cur.slot).waits ++ [x] } := by
    rw [run]
    refine (State.modGroup_self u _ there).trans ?_
    rw [ugroup]
  have frame : WaitFrame u (u.waitFor h i c row) := by
    have := u.modGroup_groups s.cur.core s.cur.slot (fun g => { g with waits := g.waits ++ [x] })
    rw [run, WaitFrame, this]
    rfl
  have others (k q : Nat) (ne : gkey k q ≠ gkey s.cur.core s.cur.slot) : (u.waitFor h i c row).group k q = s.group k q := by
    rw [run]
    exact (u.modGroup_other _ ne).trans (ugroup k q)
  generalize u.waitFor h i c row = t at *
  refine ⟨⟨⟨by rw [frame]; exact mem, by rw [frame]; exact hostMem, fun k q ne => by rw [others k q ne]⟩, ?_, by rw [here], x, by rw [here], rfl, ?_, ?_, ?_⟩, fun k => by rw [here]; rfl, frame⟩
  · rw [State.wg, frame]
    exact rwc s.curWg
  all_goals simp [x, cur]

theorem State.waitActive_again {s u : State} {l : List Nat} (prep : Prepares s u l) (present : s.hasGroup s.cur.core s.cur.slot = true) (late : s.cur.phase > 0)
    (h : Hdr) (i : Instr) (c : WaitCond) (row : Nat) : WaitsOn s (u.waitActive h i c row) c l ∧ TokensKept s (u.waitActive h i c row) ∧ WaitFrame u (u.waitActive h i c row) := by
  rw [State.waitActive, if_pos (by rw [prep.cur]; exact late)]
  exact State.waitFor_again prep present late h i c row

/-! ### Gather entries leave a die (R210) -/

/-- What sending writes from the gather entries of dies may change. -/
def Sends (s t : State) : Prop := t = { s with dies := t.dies, msgs := t.msgs, agenda := t.agenda, timers := t.timers, fresh := t.fresh }

theorem Sends.refl (s : State) : Sends s s := rfl

theorem Sends.trans {s t u : State} (h : Sends s t) (k : Sends t u) : Sends s u := by
  unfold Sends at *
  rw [k, h]

theorem Sends.foldl {α : Type} {f : State → α → State} (hf : ∀ s a, Sends s (f s a)) (l : List α) (s : State) : Sends s (l.foldl f s) := by
  induction l generalizing s with
  | nil => exact refl s
  | cons a r ih => exact (hf s a).trans (ih _)

theorem Sends.sendMsg (s : State) (m : Msg) : Sends s (s.sendMsg m) := by
  unfold State.sendMsg
  dsimp only
  split <;> rfl

theorem Sends.flushGather (s : State) (die frame : Nat) (extra : List Nat) : Sends s (s.flushGather die frame extra) := by
  unfold State.flushGather
  split
  · exact refl s
  next g e =>
    have taken : Sends s (s.modDie die (fun d => { d with gather := tblDel d.gather frame })) := rfl
    exact taken.trans (.sendMsg _ _)

theorem Sends.flushDie (s : State) (die ctx scope : Nat) : Sends s (s.flushDie die ctx scope) := by
  unfold State.flushDie
  split
  · exact refl s
  · exact .foldl (f := fun u (p : Nat × Gather) => u.flushGather die p.1) (fun u p => .flushGather u die p.1 []) _ s

section Sends

variable {s t : State} (h : Sends s t)
include h

theorem Sends.groups : t.groups = s.groups := by rw [h]
theorem Sends.wgs : t.wgs = s.wgs := by rw [h]
theorem Sends.cur : t.cur = s.cur := by rw [h]
theorem Sends.core : t.core = s.core := by funext c; rw [h]; rfl
theorem Sends.curCtx : t.curCtx = s.curCtx := by rw [h]; rfl
theorem Sends.roundsDue : t.roundsDue = s.roundsDue := by funext c; rw [h]; rfl

/-- The issue may go on to wait, with the numbers l. -/
theorem Sends.prepares (l : List Nat) : Prepares s (t.carry l) l := ⟨by rw [h]; rfl, by rw [h]; rfl, by rw [h]; rfl, fun _ => by rw [h]; rfl, by rw [h]; rfl⟩

end Sends

theorem tblDel_eq_self {α : Type} {t : Tbl α} {k : Nat} (h : tblFind t k = none) : tblDel t k = t := by
  refine List.filter_eq_self.2 fun p hp => ?_
  rw [decide_eq_true_eq]
  rintro rfl
  induction t with
  | nil => cases hp
  | cons q r ih =>
    rw [tblFind] at h
    split at h
    · cases h
    · rcases List.mem_cons.1 hp with rfl | inside
      · contradiction
      · exact ih inside h

theorem State.flushGather_gather (s : State) (die frame : Nat) (extra : List Nat) : ((s.flushGather die frame extra).die die).gather = tblDel (s.die die).gather frame := by
  unfold State.flushGather
  split
  next e => rw [tblDel_eq_self e]
  next g e =>
    have sent (u : State) (m : Msg) : (u.sendMsg m).die die = u.die die := by
      unfold State.sendMsg
      dsimp only
      split <;> rfl
    dsimp only
    rw [sent, State.modDie_self]

/-- The entries that are left after those of some frames have left. -/
theorem State.flushed_gather (die : Nat) (l : List (Nat × Gather)) (s : State) (p : Nat × Gather)
    (hp : p ∈ ((l.foldl (fun s p => s.flushGather die p.1) s).die die).gather) : p ∈ (s.die die).gather ∧ ∀ q ∈ l, p.1 ≠ q.1 := by
  induction l generalizing s with
  | nil => exact ⟨hp, fun q hq => by cases hq⟩
  | cons a r ih =>
    obtain ⟨old, out⟩ := ih _ hp
    rw [State.flushGather_gather] at old
    obtain ⟨old, ne⟩ := List.mem_filter.1 old
    refine ⟨old, fun q hq => ?_⟩
    rcases List.mem_cons.1 hq with rfl | inside
    · exact of_decide_eq_true ne
    · exact out q inside

/-- R210: from .die on, no entry is left whose bytes a thread of the context may have observed. -/
theorem State.flushDie_gather (s : State) (die ctx : Nat) {scope : Nat} (wide : 2 ≤ scope) : ∀ p ∈ ((s.flushDie die ctx scope).die die).gather, s.reaches ctx p.2.ctxs = false := by
  intro p hp
  rw [State.flushDie, if_neg (by omega)] at hp
  obtain ⟨old, out⟩ := State.flushed_gather die _ s p hp
  by_contra reached
  exact out p (List.mem_filter.2 ⟨old, by simpa using reached⟩) rfl

end Sys2Proof.Machine
end

section
/-! SUPPORT. Fences and token waits (R142, R150, R225, R238-R241, R252, R271): the stages of a fence, and how it completes. -/

namespace Sys2Proof.Machine

open Sys2Proof.Claims

/-! ### The stages of a fence -/

/-- The state in which the gather entries that a fence flushes have left. -/
def State.fenced (s : State) (scope : Nat) : State := s.flushDie (Config.dieOfCore s.cur.core) s.curCtx scope

/-- The rounds that a fence of a kind waits for (R271). -/
def State.fenceRounds (s : State) (kind : Nat) : List (Nat × Nat × Word) := if kind = 1 then [] else s.roundsDue s.curCtx

theorem Sends.fenced (s : State) (scope : Nat) : Sends s (s.fenced scope) := .flushDie s _ _ scope

theorem overheadEnds_eq (s : State) (scope : Nat) : (s.core s.cur.core).cycles + overheadOf scope = overheadEnds s scope := by
  unfold overheadEnds
  match scope with
  | 0 => rfl
  | 1 => rfl
  | 2 => rfl
  | n + 3 => rfl

section Stages

variable (s : State) (h : Hdr) (i : Instr) (kind scope : Nat)

theorem State.fenceEnd_cycle {u : State} (sent : Sends s u) (none : s.fenceRounds kind = []) :
    u.fenceEnd h i kind scope = (u.carry [3]).waitActive h i (.cycle (overheadEnds s scope)) 7 := by
  have rounds : (if kind = 1 then [] else u.roundsDue u.curCtx) = [] := by
    rw [sent.roundsDue, sent.curCtx]
    exact none
  simp only [State.fenceEnd, rounds, List.isEmpty_nil, if_true, sent.core, sent.cur, overheadEnds_eq]

theorem State.fenceEnd_rounds {u : State} (sent : Sends s u) (some : s.fenceRounds kind ≠ []) :
    u.fenceEnd h i kind scope = (u.carry [2, overheadEnds s scope]).waitActive h i (.gone [] (s.fenceRounds kind)) 7 := by
  have rounds : (if kind = 1 then [] else u.roundsDue u.curCtx) = s.fenceRounds kind := by
    rw [sent.roundsDue, sent.curCtx]
    rfl
  simp only [State.fenceEnd, rounds, List.isEmpty_iff, some, if_false, sent.core, sent.cur, overheadEnds_eq]

/-- What a fence does once its threads' own accesses are performed. -/
def State.fenceWide : State := if kind = 0 then s.fenceEnd h i kind scope else s.afterObserved h i scope 7 [4] (fun s => s.fenceEnd h i kind scope)

theorem State.fence_own (nums : s.cur.nums = []) (act : s.active h ≠ 0) (own : s.accessesOf (s.active h) (kind == 0) ≠ []) :
    s.fence h i kind scope = (s.carry [1]).waitActive h i (.gone (s.accessesOf (s.active h) (kind == 0)) []) 7 := by
  simp only [State.fence, nums, act, if_false, List.isEmpty_iff, own]

theorem State.fence_alone (nums : s.cur.nums = []) (act : s.active h ≠ 0) (own : s.accessesOf (s.active h) (kind == 0) = []) : s.fence h i kind scope = s.fenceWide h i kind scope := by
  simp only [State.fence, nums, act, if_false, own, List.isEmpty_nil, if_true]
  rfl

theorem State.fence_one (nums : s.cur.nums = [1]) : s.fence h i kind scope = s.fenceWide h i kind scope := by
  simp only [State.fence, nums]
  rfl

theorem State.fence_four (nums : s.cur.nums = [4]) : s.fence h i kind scope = s.fenceEnd h i kind scope := by
  simp only [State.fence, nums]

theorem State.fenceWide_acquire : s.fenceWide h i 0 scope = s.fenceEnd h i 0 scope := rfl

variable {kind}

theorem State.fenceWide_observed (release : kind ≠ 0) (obs : seen s scope ≠ []) :
    s.fenceWide h i kind scope = ((s.fenced scope).carry [4]).waitActive h i (.gone (seen s scope) []) 7 := by
  rw [State.fenceWide, if_neg release, State.afterObserved]
  have ids : ((s.fenced scope).observed s.curCtx scope).filter (s.fenced scope).outstanding ≠ [] := obs
  exact if_neg (by rw [List.isEmpty_iff]; exact ids)

theorem State.fenceWide_alone (release : kind ≠ 0) (obs : seen s scope = []) : s.fenceWide h i kind scope = (s.fenced scope).fenceEnd h i kind scope := by
  rw [State.fenceWide, if_neg release, State.afterObserved]
  have ids : ((s.fenced scope).observed s.curCtx scope).filter (s.fenced scope).outstanding = [] := obs
  exact if_pos (by rw [List.isEmpty_iff]; exact ids)

end Stages

/-! ### The waits of a fence -/

/-- A first fence that waits, with what stands of the dies. -/
theorem fence_starts {s u : State} (sent : Sends s u) (first : First s) {h : Hdr} {i : Instr} {c : WaitCond} {l : List Nat} {x : State} (run : x = (u.carry l).waitActive h i c 7) :
    WaitsTo s x h c l ∧ TokenUp s x h ∧ x.die = u.die := by
  obtain ⟨waits, up, frame⟩ := State.waitFor_first (sent.prepares l) first h i c 7
  rw [run]
  exact ⟨waits, up, by funext d; rw [State.die, frame]; rfl⟩

/-- A fence that has waited waits again. -/
theorem fence_again {s u : State} (sent : Sends s u) (present : s.hasGroup s.cur.core s.cur.slot = true) (late : s.cur.phase > 0) {h : Hdr} {i : Instr} {c : WaitCond} {l : List Nat} {x : State}
    (run : x = (u.carry l).waitActive h i c 7) : WaitsOn s x c l ∧ x.die = u.die := by
  obtain ⟨waits, -, frame⟩ := State.waitActive_again (sent.prepares l) present late h i c 7
  rw [run]
  exact ⟨waits, by funext d; rw [State.die, frame]; rfl⟩

/-- R210: what a fence of a wide scope leaves in the gather entries. -/
def Flushed (s : State) (scope : Nat) (t : State) : Prop := 2 ≤ scope → ∀ p ∈ (t.die (Config.dieOfCore s.cur.core)).gather, s.reaches s.curCtx p.2.ctxs = false

theorem flushed_of_die {s t : State} {scope : Nat} (die : t.die = (s.fenced scope).die) : Flushed s scope t := by
  intro wide
  rw [die]
  exact s.flushDie_gather _ _ wide

section Release

variable {s : State} {h : Hdr} {i : Instr} {kind scope : Nat}

/-- The last stage of a fence, in which threads wait for the time of its scope or for rounds. -/
theorem fenceEnd_ends {u : State} (sent : Sends s u) {P : State → WaitCond → List Nat → Prop}
    (waits : ∀ {c l x}, x = (u.carry l).waitActive h i c 7 → P x c l) :
    (s.fenceRounds kind = [] → P (u.fenceEnd h i kind scope) (.cycle (overheadEnds s scope)) [3]) ∧
    (s.fenceRounds kind ≠ [] → P (u.fenceEnd h i kind scope) (.gone [] (s.fenceRounds kind)) [2, overheadEnds s scope]) :=
  ⟨fun none => waits (s.fenceEnd_cycle h i kind scope sent none), fun some => waits (s.fenceEnd_rounds h i kind scope sent some)⟩

end Release

end Sys2Proof.Machine

namespace Sys2Proof.Proofs.Fences

open Sys2Proof.Machine Sys2Proof.Claims

/-- A release or an acquire-release: its stages. -/
theorem release_waits (s : State) (h : Hdr) (i : Instr) {kind : Nat} (scope : Nat) (release : kind ≠ 0) (run : exec i s = .next (s.fence h i kind scope)) :
    let starts (more : State → Prop) (c : WaitCond) (l : List Nat) : Prop := ∃ t, exec i s = .next t ∧ WaitsTo s t h c l ∧ TokenUp s t h ∧ more t
    let again (more : State → Prop) (c : WaitCond) (l : List Nat) : Prop := ∃ t, exec i s = .next t ∧ WaitsOn s t c l ∧ more t
    let ends (next : WaitCond → List Nat → Prop) : Prop := (s.fenceRounds kind = [] → next (.cycle (overheadEnds s scope)) [3]) ∧ (s.fenceRounds kind ≠ [] → next (.gone [] (s.fenceRounds kind)) [2, overheadEnds s scope])
    let own := s.accessesOf (s.active h) false
    (First s → s.active h ≠ 0 →
      (own ≠ [] → starts (fun _ => True) (.gone own []) [1]) ∧
      (own = [] → seen s scope ≠ [] → starts (Flushed s scope) (.gone (seen s scope) []) [4]) ∧
      (own = [] → seen s scope = [] → ends (starts (Flushed s scope)))) ∧
    (s.hasGroup s.cur.core s.cur.slot = true → s.cur.phase > 0 →
      (s.cur.nums = [1] → seen s scope ≠ [] → again (Flushed s scope) (.gone (seen s scope) []) [4]) ∧
      (s.cur.nums = [1] → seen s scope = [] → ends (again (Flushed s scope))) ∧ (s.cur.nums = [4] → ends (again (fun _ => True)))) := by
  intro starts again ends own
  have bit : (kind == 0) = false := by simpa using release
  have owned := s.fence_own h i kind scope
  have alone := s.fence_alone h i kind scope
  rw [bit] at owned alone
  have sent := Sends.fenced s scope
  refine ⟨fun first act => ⟨fun some => ?_, fun none obs => ?_, fun none obs => ?_⟩, fun present late => ⟨fun nums obs => ?_, fun nums obs => ?_, fun nums => ?_⟩⟩
  · obtain ⟨waits, up, -⟩ := fence_starts (.refl s) first (owned first.2.1 act some)
    exact ⟨_, run, waits, up, trivial⟩
  · obtain ⟨waits, up, die⟩ := fence_starts sent first ((alone first.2.1 act none).trans (s.fenceWide_observed h i scope release obs))
    exact ⟨_, run, waits, up, flushed_of_die die⟩
  · have e := (alone first.2.1 act none).trans (s.fenceWide_alone h i scope release obs)
    have stage := fenceEnd_ends (kind := kind) (scope := scope) (h := h) (i := i) sent (P := fun x c l => WaitsTo s x h c l ∧ TokenUp s x h ∧ x.die = (s.fenced scope).die) (fun {_ _ _} e => fence_starts sent first e)
    rw [← e] at stage
    exact ⟨fun nil => let ⟨waits, up, die⟩ := stage.1 nil; ⟨_, run, waits, up, flushed_of_die die⟩, fun cons => let ⟨waits, up, die⟩ := stage.2 cons; ⟨_, run, waits, up, flushed_of_die die⟩⟩
  · obtain ⟨waits, die⟩ := fence_again sent present late ((s.fence_one h i kind scope nums).trans (s.fenceWide_observed h i scope release obs))
    exact ⟨_, run, waits, flushed_of_die die⟩
  · have e := (s.fence_one h i kind scope nums).trans (s.fenceWide_alone h i scope release obs)
    have stage := fenceEnd_ends (kind := kind) (scope := scope) (h := h) (i := i) sent (P := fun x c l => WaitsOn s x c l ∧ x.die = (s.fenced scope).die) (fun {_ _ _} e => fence_again sent present late e)
    rw [← e] at stage
    exact ⟨fun nil => let ⟨waits, die⟩ := stage.1 nil; ⟨_, run, waits, flushed_of_die die⟩, fun cons => let ⟨waits, die⟩ := stage.2 cons; ⟨_, run, waits, flushed_of_die die⟩⟩
  · have stage := fenceEnd_ends (kind := kind) (scope := scope) (h := h) (i := i) (.refl s) (P := fun x c l => WaitsOn s x c l ∧ x.die = s.die) (fun {_ _ _} e => fence_again (.refl s) present late e)
    rw [← s.fence_four h i kind scope nums] at stage
    exact ⟨fun nil => ⟨_, run, (stage.1 nil).1, trivial⟩, fun cons => ⟨_, run, (stage.2 cons).1, trivial⟩⟩

/-- Every fence: with the rounds reached before the time of its scope has passed, it waits for that. -/
theorem fence_lasts (s : State) (h : Hdr) (i : Instr) (kind scope : Nat) (present : s.hasGroup s.cur.core s.cur.slot = true) (late : s.cur.phase > 0) (d : Nat)
    (nums : s.cur.nums = [2, d]) (early : (s.core s.cur.core).cycles < d) : WaitsOn s (s.fence h i kind scope) (.cycle d) [3] := by
  refine (fence_again (.refl s) present late (h := h) (i := i) ?_).1
  simp only [State.fence, nums, not_le.2 early, if_false]

/-- Settles O17. -/
theorem fences : Obligations.Fences := by
  intro s h f act scope obs flushed ends starts again any due release last
  have lasts (i : Instr) (kind : Nat) (run : exec i s = .next (s.fence h i kind scope)) : last i :=
    fun present late d nums early => ⟨_, run, fence_lasts s h i kind scope present late d nums early, trivial⟩
  refine ⟨fun first some => ⟨fun own => ?_, fun own => ?_⟩, fun present late nums => ?_, release_waits s h _ scope (kind := 1) (by decide) rfl, release_waits s h _ scope (kind := 2) (by decide) rfl,
    lasts _ 0 rfl, lasts _ 1 rfl, lasts _ 2 rfl⟩
  · obtain ⟨waits, up, -⟩ := fence_starts (.refl s) first (s.fence_own h (.fenceAcq h f) 0 scope first.2.1 some own)
    exact ⟨_, rfl, waits, up, trivial⟩
  · have stage := fenceEnd_ends (kind := 0) (scope := scope) (h := h) (i := .fenceAcq h f) (.refl s) (P := fun x c l => WaitsTo s x h c l ∧ TokenUp s x h ∧ x.die = s.die) (fun {_ _ _} e => fence_starts (.refl s) first e)
    rw [← s.fenceWide_acquire, ← s.fence_alone h _ 0 scope first.2.1 some own] at stage
    exact ⟨fun nil => ⟨_, rfl, (stage.1 nil).1, (stage.1 nil).2.1, trivial⟩, fun cons => ⟨_, rfl, (stage.2 cons).1, (stage.2 cons).2.1, trivial⟩⟩
  · have stage := fenceEnd_ends (kind := 0) (scope := scope) (h := h) (i := .fenceAcq h f) (.refl s) (P := fun x c l => WaitsOn s x c l ∧ x.die = s.die) (fun {_ _ _} e => fence_again (.refl s) present late e)
    rw [← s.fenceWide_acquire, ← s.fence_one h _ 0 scope nums] at stage
    exact ⟨fun nil => ⟨_, rfl, (stage.1 nil).1, trivial⟩, fun cons => ⟨_, rfl, (stage.2 cons).1, trivial⟩⟩

theorem fencesComplete : FencesComplete := by
  intro s h f
  refine ⟨fun first none => ?_, fun present late done => ?_⟩
  · have each (i : Instr) (kind : Nat) (run : exec i s = .next (s.fence h i kind f.scope.toNat)) : ∃ t, exec i s = .next t ∧ Passed s t h ∧ TokensKept s t := by
      refine ⟨_, run, ?_⟩
      simp only [State.fence, first.2.1, none, if_true]
      exact s.retire_advances h _ first.2.2.2.2.2
    exact ⟨each _ 0 rfl, each _ 1 rfl, each _ 2 rfl⟩
  · have each (i : Instr) (kind : Nat) (run : exec i s = .next (s.fence h i kind f.scope.toNat)) : ∃ t, exec i s = .next t ∧ Passed s t h ∧ TokenDown s t h := by
      refine ⟨_, run, ?_⟩
      have e : s.fence h i kind f.scope.toNat = (s.doneNow h).retireSeq h := by
        rcases done with nums | ⟨due, nums, passed⟩
        · simp only [State.fence, nums]
        · simp only [State.fence, nums, passed, if_true]
      have cur : (s.doneNow h).cur = s.cur := by
        rw [State.doneNow, if_pos late]
        simp [State.dropToken]
      rw [e, State.retireSeq, cur]
      exact State.done_passes present late h _
    exact ⟨each _ 0 rfl, each _ 1 rfl, each _ 2 rfl⟩

theorem tokenWait : TokenWait := by
  intro s h f present k n c
  have run : exec (.waitt h f) s = .next (if s.active h = 0 || c ≤ n then s.retireSeq h else s.waitActive { h with tok := 0 } (.waitt h f) (.token k n) 7) := rfl
  refine ⟨fun passes => ⟨_, run, ?_⟩, fun first some more => ⟨_, run, ?_⟩⟩
  · rw [if_pos (by simpa using passes)]
    exact s.retire_advances h _ present
  · rw [if_neg (by simpa using ⟨some, more⟩)]
    have prep : Prepares s s [] := ⟨rfl, rfl, rfl, fun _ => rfl, by rw [← first.2.1]⟩
    obtain ⟨⟨waits, -⟩, up, -⟩ := State.waitFor_first prep first { h with tok := 0 } (.waitt h f) (.token k n) 7
    refine ⟨waits, fun j => ?_⟩
    have none : ¬ (j = 0 ∧ j ≠ 0) := by omega
    simpa [none] using up j

/-- Settles O18. -/
theorem fencesAndTokenWaitsComplete : Obligations.FencesAndTokenWaitsComplete := ⟨fencesComplete, tokenWait⟩

end Sys2Proof.Proofs.Fences
end

section
/-! SUPPORT. Publication (R229, R240, R380): the stages of pub, and what it writes to host memory. -/

namespace Sys2Proof.Machine

open Sys2Proof.Claims

/-! ### Bytes written to a memory -/

/-- The last of a list of writes to an address decides what it holds. -/
theorem memGet_memSetAll (l : List (Nat × Byte)) (m : List Host.Cell) {a : Nat} {v : Byte} (some : ∃ p ∈ l, p.1 = a) (all : ∀ p ∈ l, p.1 = a → p.2 = v) : memGet (memSetAll m l) a = v := by
  induction l generalizing m with
  | nil =>
    obtain ⟨p, hp, -⟩ := some
    cases hp
  | cons q r ih =>
    show memGet (memSetAll (memSet m q.1 q.2) r) a = v
    by_cases later : ∃ p ∈ r, p.1 = a
    · exact ih _ later fun p hp => all p (List.mem_cons_of_mem _ hp)
    · have here : q.1 = a := by
        obtain ⟨p, hp, e⟩ := some
        rcases List.mem_cons.1 hp with rfl | inside
        · exact e
        · exact absurd ⟨p, inside, e⟩ later
      rw [memGet_memSetAll_other r _ fun p hp e => later ⟨p, hp, e⟩, ← here, memGet_memSet_self]
      exact all q List.mem_cons_self here

/-- A byte of a memory after bytes are placed in it. -/
theorem memGet_memSetAll_placed (l : List Byte) (m : List Host.Cell) (a k : Nat) :
    memGet (memSetAll m (placed a l)) k = if a ≤ k ∧ k < a + l.length then l.getD (k - a) 0 else memGet m k := tblGet_tabSetAll_placed l m a k

/-- R12: a number that was written is read back. -/
theorem memNat_placed (m : List Host.Cell) (a n x : Nat) : memNat (memSetAll m (placed a (leBytes n x))) a n = x % 256 ^ n := by
  have bytes := tabBytes_placed m a (leBytes n x)
  rw [leBytes_length] at bytes
  rw [← leNat_leBytes]
  exact congrArg leNat bytes

/-! ### Windows and the gather entries of a die -/

theorem State.sendMsg_windows (s : State) (x : Tbl Window) (m : Msg) : ({ s with windows := x }.sendMsg m) = { s.sendMsg m with windows := x } := by
  unfold State.sendMsg
  dsimp only
  split <;> rfl

theorem State.flushGather_windows (s : State) (x : Tbl Window) (die frame : Nat) (extra : List Nat) :
    ({ s with windows := x }.flushGather die frame extra) = { s.flushGather die frame extra with windows := x } := by
  unfold State.flushGather
  have same : ({ s with windows := x } : State).die die = s.die die := rfl
  rw [same]
  cases tblFind (s.die die).gather frame with
  | none => rfl
  | some g =>
    dsimp only
    exact State.sendMsg_windows (s.modDie die (fun d => { d with gather := tblDel d.gather frame })) x _

theorem State.flushDie_windows (s : State) (x : Tbl Window) (die ctx scope : Nat) :
    ({ s with windows := x }.flushDie die ctx scope) = { s.flushDie die ctx scope with windows := x } := by
  have all (l : List (Nat × Gather)) (u : State) : l.foldl (fun (s : State) p => s.flushGather die p.1) { u with windows := x } = { l.foldl (fun (s : State) p => s.flushGather die p.1) u with windows := x } := by
    induction l generalizing u with
    | nil => rfl
    | cons p r ih => rw [List.foldl_cons, State.flushGather_windows, ih, List.foldl_cons]
  unfold State.flushDie
  split
  · rfl
  · exact all _ s

theorem seen_windows (s : State) (x : Tbl Window) (scope : Nat) : seen { s with windows := x } scope = seen s scope := by
  have fenced : State.fenced { s with windows := x } scope = { s.fenced scope with windows := x } := s.flushDie_windows x _ _ scope
  have eq (u : State) : seen u scope = ((u.fenced scope).observed u.curCtx scope).filter (u.fenced scope).outstanding := rfl
  rw [eq, eq, fenced]
  generalize s.fenced scope = u
  rfl

/-! ### The stages of a publication -/

/-- R240: what a publication does once its threads' own accesses are performed. -/
def State.pubWide (s : State) (h : Hdr) (i : Instr) : State := s.afterObserved h i 4 7 [3] (fun s => (s.carry [2]).waitOverhead h i 4 7)

theorem State.pubWide_observed (s : State) (h : Hdr) (i : Instr) (obs : seen s 4 ≠ []) : s.pubWide h i = ((s.fenced 4).carry [3]).waitActive h i (.gone (seen s 4) []) 7 := by
  have ids : ((s.fenced 4).observed s.curCtx 4).filter (s.fenced 4).outstanding ≠ [] := obs
  exact if_neg (by rw [List.isEmpty_iff]; exact ids)

theorem State.pubWide_alone (s : State) (h : Hdr) (i : Instr) (obs : seen s 4 = []) : s.pubWide h i = ((s.fenced 4).carry [2]).waitActive h i (.cycle (overheadEnds s 4)) 7 := by
  have ids : ((s.fenced 4).observed s.curCtx 4).filter (s.fenced 4).outstanding = [] := obs
  have sent := Sends.fenced s 4
  refine (if_pos (by rw [List.isEmpty_iff]; exact ids)).trans ?_
  show ((s.fenced 4).carry [2]).waitActive h i (.cycle (((s.fenced 4).core (s.fenced 4).cur.core).cycles + overheadOf 4)) 7 = _
  rw [sent.core, sent.cur, overheadEnds_eq]

/-- R229, R380: the state in which the staged bytes of a window and then its counter have been written. -/
theorem State.publish_eq (s : State) (w : Nat) {x : Window} (window : tblFind s.windows w = some x) : ∃ data : List (Nat × Byte),
    (∀ p, p ∈ data ↔ ∃ b ∈ x.staged, p = (x.hostAt (x.host + b.1 % 2 ^ 26), b.2)) ∧
    s.publish w = { s with
      hostMem := memSetAll (memSetAll s.hostMem data) (placed (x.hostAt x.counter) (leBytes 8 (x.version + 1).toNat))
      windows := tblPut s.windows w { x with version := x.version + 1, staged := [], busy := x.busy - 1 }
      fresh := s.fresh + 1 } := by
  have get : tblGet { va := 0, len := 0, host := 0, counter := 0 } s.windows w = x := by rw [tblGet, window]; rfl
  refine ⟨(if Config.freeBool s.fresh then x.staged else x.staged.reverse).map (fun b => (x.hostAt (x.host + b.1 % 2 ^ 26), b.2)), fun p => ?_, ?_⟩
  · split <;> simp [eq_comm]
  · rw [State.publish, get]
    rfl

end Sys2Proof.Machine

namespace Sys2Proof.Proofs.Publish

open Sys2Proof.Machine Sys2Proof.Claims

theorem pub_begins {s : State} {h : Hdr} {f : FmtM} (first : First s) (some : s.active h ≠ 0) {x : Window} (window : tblFind s.windows (s.curCtx * 64 + f.off.toNat % 64) = Option.some x) :
    let w := s.curCtx * 64 + f.off.toNat % 64
    let begins (c : WaitCond) (l : List Nat) : Prop := ∃ t, exec (.pub h f) s = .next t ∧ WaitsTo s t h c l ∧ tblFind t.windows w = Option.some { x with busy := x.busy + 1 }
    let own := s.accessesOf (s.active h) false
    (own ≠ [] → begins (.gone own []) [1]) ∧ (own = [] → seen s 4 ≠ [] → begins (.gone (seen s 4) []) [3]) ∧ (own = [] → seen s 4 = [] → begins (.cycle (overheadEnds s 4)) [2]) := by
  intro w begins own
  let s0 : State := { s with windows := tblPut s.windows w { x with busy := x.busy + 1 } }
  have run : exec (.pub h f) s = .next (if own.isEmpty then s0.pubWide h (.pub h f) else (s0.carry [1]).waitActive h (.pub h f) (.gone own []) 7) := by
    show execPub h f s = _
    rw [execPub]
    simp only [first.2.1, some, if_false, window]
    rfl
  have waits {u : State} {c : WaitCond} {l : List Nat} (sent : Sends s0 u) (e : exec (.pub h f) s = .next ((u.carry l).waitActive h (.pub h f) c 7)) : begins c l := by
    have prep := sent.prepares l
    obtain ⟨waits, -, frame⟩ := State.waitFor_first (s := s) (u := u.carry l) ⟨prep.mem, prep.hostMem, prep.groups, prep.rwc, prep.cur⟩ first h (.pub h f) c 7
    refine ⟨_, e, waits, ?_⟩
    rw [frame]
    show tblFind u.windows w = _
    rw [sent]
    exact tblFind_tblPut_self _ _ _
  refine ⟨fun ne => waits (.refl s0) ?_, fun nil obs => waits (.fenced s0 4) ?_, fun nil obs => waits (.fenced s0 4) ?_⟩
  · rw [run, if_neg (by rw [List.isEmpty_iff]; exact ne)]
  · rw [run, if_pos (by rw [List.isEmpty_iff]; exact nil), State.pubWide_observed _ _ _ (by rw [seen_windows]; exact obs), seen_windows]
  · rw [run, if_pos (by rw [List.isEmpty_iff]; exact nil), State.pubWide_alone _ _ _ (by rw [seen_windows]; exact obs)]
    rfl

theorem pub_writes {s : State} {h : Hdr} {f : FmtM} {x : Window} (present : s.hasGroup s.cur.core s.cur.slot = true) (late : s.cur.phase > 0) (nums : s.cur.nums = [2])
    (window : tblFind s.windows (s.curCtx * 64 + f.off.toNat % 64) = some x) (held : x.held = true) (room : x.version.toNat + 1 < 2 ^ 64) :
    let w := s.curCtx * 64 + f.off.toNat % 64
    let counter := x.pasid * 2 ^ 64 + x.counter
    let host (o : Nat) : Nat := x.pasid * 2 ^ 64 + (x.host + o % 2 ^ 26)
    ∃ t y, exec (.pub h f) s = .next t ∧ t.mem = s.mem ∧ Advanced s t h (fun _ => seqPos s.cur.pos) (fun _ x => x) ∧ TokenDown s t h ∧
      tblFind t.windows w = some y ∧ y.version = x.version + 1 ∧ y.staged = [] ∧ y.busy = x.busy - 1 ∧
      memNat t.hostMem counter 8 = x.version.toNat + 1 ∧
      (∀ b ∈ x.staged, (∀ c ∈ x.staged, c.1 % 2 ^ 26 = b.1 % 2 ^ 26 → c.2 = b.2) →
        ¬ (counter ≤ host b.1 ∧ host b.1 < counter + 8) → memGet t.hostMem (host b.1) = b.2) ∧
      ∀ a, (∀ b ∈ x.staged, a ≠ host b.1) → ¬ (counter ≤ a ∧ a < counter + 8) → memGet t.hostMem a = memGet s.hostMem a := by
  intro w counter host
  obtain ⟨data, mem_data, published⟩ := s.publish_eq w window
  have cur : ((s.publish w).doneNow h).cur = s.cur := by
    have published_cur : (s.publish w).cur = s.cur := by rw [published]
    rw [State.doneNow]
    split
    · simp [State.dropToken, published_cur]
    · exact published_cur
  have run : exec (.pub h f) s = .next (((s.publish w).doneNow h).retire h (fun _ => seqPos s.cur.pos)) := by
    show execPub h f s = _
    rw [execPub]
    simp only [nums]
    have get : tblGet { va := 0, len := 0, host := 0, counter := 0 } s.windows w = x := by rw [tblGet, window]; rfl
    simp only [show tblGet { va := 0, len := 0, host := 0, counter := 0 } s.windows (s.curCtx * 64 + f.off.toNat % 64) = x from get, held, if_true]
    rw [State.retireSeq, cur]
  have frame := (s.publish w).done_frame h (fun _ => seqPos s.cur.pos)
  obtain ⟨⟨-, advanced⟩, down⟩ := State.done_passes (s := s.publish w) (by rw [published]; exact present) (by rw [published]; exact late) h (fun _ => seqPos s.cur.pos)
  generalize ((s.publish w).doneNow h).retire h (fun _ => seqPos s.cur.pos) = t at *
  rw [published] at frame advanced down
  have hostMem : t.hostMem = memSetAll (memSetAll s.hostMem data) (placed counter (leBytes 8 (x.version + 1).toNat)) := by rw [frame]; rfl
  have at_host (b : Nat × Byte) : x.hostAt (x.host + b.1 % 2 ^ 26) = host b.1 := rfl
  refine ⟨t, { x with version := x.version + 1, staged := [], busy := x.busy - 1 }, run, by rw [frame], advanced, down, ?_, rfl, rfl, rfl, ?_, fun b hb same out => ?_, fun a other out => ?_⟩
  · rw [frame]
    exact tblFind_tblPut_self _ _ _
  · rw [hostMem, memNat_placed]
    have : (x.version + 1).toNat = x.version.toNat + 1 := by bv_omega
    omega
  · rw [hostMem, memGet_memSetAll_placed, leBytes_length, if_neg out]
    refine memGet_memSetAll data _ ⟨_, (mem_data _).2 ⟨b, hb, rfl⟩, rfl⟩ fun p hp e => ?_
    obtain ⟨c, hc, rfl⟩ := (mem_data p).1 hp
    exact same c hc (by
      have : host c.1 = host b.1 := e
      simp only [host] at this
      omega)
  · rw [hostMem, memGet_memSetAll_placed, leBytes_length, if_neg out]
    refine memGet_memSetAll_other data _ fun p hp e => ?_
    obtain ⟨c, hc, rfl⟩ := (mem_data p).1 hp
    exact other c hc e.symm

/-- Settles O20. -/
theorem publication : Obligations.Publication := by
  refine ⟨?_, ?_, fun s core slot w present waits => ?_⟩
  · intro s h f first some w
    refine ⟨fun x window => pub_begins first some window, fun none => ?_⟩
    have run : exec (.pub h f) s = .next (s.raise h (s.active h) cACCESS (BitVec.ofNat 64 (f.off.toNat % 64))) := by
      show execPub h f s = _
      rw [execPub]
      simp only [first.2.1, some, if_false, show tblFind s.windows (s.curCtx * 64 + f.off.toNat % 64) = Option.none from none]
    exact ⟨_, run, s.raise_stops h (s.active h) cACCESS _ first.1 first.2.2.2.2.2⟩
  · intro s h f x present late w counter host
    refine ⟨fun nums obs => ?_, fun done => ?_, fun nums window held room => pub_writes present late nums window held room⟩
    · have run : exec (.pub h f) s = .next (s.pubWide h (.pub h f)) := by
        show execPub h f s = _
        rw [execPub]
        simp only [nums]
        rfl
      exact ⟨_, run, (fence_again (.fenced s 4) present late (s.pubWide_observed h _ obs)).1⟩
    · have run : ∃ u, Sends s u ∧ exec (.pub h f) s = .next ((u.carry [2]).waitActive h (.pub h f) (.cycle (overheadEnds s 4)) 7) := by
        rcases done with ⟨nums, obs⟩ | nums
        · refine ⟨_, .fenced s 4, ?_⟩
          rw [← s.pubWide_alone h _ obs]
          show execPub h f s = _
          rw [execPub]
          simp only [nums]
          rfl
        · refine ⟨s, .refl s, ?_⟩
          show execPub h f s = _
          rw [execPub]
          simp only [nums, State.waitOverhead]
          rw [← overheadEnds_eq]
          rfl
      obtain ⟨u, sent, run⟩ := run
      exact ⟨_, run, (fence_again sent present late rfl).1⟩
  · have run : exec (.pubTranslationRetry core slot w.id) s = .next { s.modGroup core slot (fun g => { g with waits := g.waits.filter (fun x => x.id ≠ w.id) }) with
        agenda := .resume w.iss w.instr :: (s.modGroup core slot (fun g => { g with waits := g.waits.filter (fun x => x.id ≠ w.id) })).agenda } := by
      show Host.Outcome.next (s.endWait core slot w.id) = _
      rw [State.endWait, waits]
      simp
    have here : (s.modGroup core slot (fun g => { g with waits := g.waits.filter (fun x => x.id ≠ w.id) })).group core slot = { s.group core slot with waits := [] } := by
      rw [s.modGroup_self _ present]
      simp [waits]
    have agenda : (s.modGroup core slot (fun g => { g with waits := g.waits.filter (fun x => x.id ≠ w.id) })).agenda = s.agenda := by simp
    generalize s.modGroup core slot (fun g => { g with waits := g.waits.filter (fun x => x.id ≠ w.id) }) = u at *
    refine ⟨_, run, by rw [agenda], ?_, ?_⟩
    · exact congrArg Group.waits here
    · show (u.group core slot).threads = _
      rw [here]

end Sys2Proof.Proofs.Publish
end

section
/-! SUPPORT. Barriers (R148): a state that the statement about them does not hold of. -/

namespace Sys2Proof.Proofs.Barrier

open Sys2Proof.Machine Sys2Proof.Claims

/-- Group 0 of core 0 issues with its only thread; its table of groups lists the slot of another workgroup, 5, in front of its own, 0. -/
def outOfOrder : State := { cur := { lanes := 1 }, groups := [(5, { wg := 1 }), (0, { n := 1, threads := [{}] })] }

/-- A header without a guard. -/
def unguarded : Hdr := { stall := 0, neg := 0, pred := 7, wait := 0, tok := 0 }

/-- bar 0. -/
def barZero : FmtS := { idx := 0, a := 0, modi := 0, imm := 0 }

/-- The events that are due after an outcome. -/
def dueAfter (o : Host.Outcome State Fault Refusal) : List Timer := match o with
  | .next t => t.timers
  | _ => []

theorem outOfOrder_first : First outOfOrder := ⟨rfl, rfl, rfl, rfl, rfl, rfl⟩

theorem outOfOrder_live : outOfOrder.liveThreads 0 = 1 := by decide

/-- The thread is the last to arrive, but its group is listed twice after it began to wait, and no completion becomes due. -/
theorem outOfOrder_due : dueAfter (exec (.bar unguarded barZero) outOfOrder) = [] := by decide

/-- Refutes O21: the statement speaks of every state, also of one whose table of groups is not in order. There the entry that bar writes for its
group stands in front of the old one, the workgroup's live threads count twice, and the barrier whose last thread has arrived does not complete. -/
theorem not_barriers : ¬ Obligations.Barriers := by
  intro h
  obtain ⟨-, -, alone, -⟩ := h.1 outOfOrder unguarded barZero outOfOrder_first (by decide)
  obtain ⟨t, run, -, -, -, -, completes⟩ := alone (by decide) (by decide)
  have due := outOfOrder_due
  rw [run] at due
  have timer := completes (by decide) (by decide)
  rw [show t.timers = [] from due] at timer
  cases timer

end Sys2Proof.Proofs.Barrier
end

section
/-! SUPPORT. Special registers (R25-R29, R50): what rdsr reads, what wrsr writes, and the words of them that fault. -/

namespace Sys2Proof.Machine

open Sys2Proof.Claims

/-! ### An issue that changes its threads and retires -/

/-- An issue that changes lanes of its group and then retires advances; the change may be read after the advance. -/
theorem LanesStep.moved {s u : State} {g e : Nat → Thread → Thread} (step : LanesStep s u s.cur.core s.cur.slot g) (present : s.hasGroup s.cur.core s.cur.slot = true)
    (cur : u.cur = s.cur) (there : u.hasGroup s.cur.core s.cur.slot = true) (owner : (u.group s.cur.core s.cur.slot).wg = (s.group s.cur.core s.cur.slot).wg)
    (length : (u.group s.cur.core s.cur.slot).threads.length = (s.group s.cur.core s.cur.slot).threads.length) (h : Hdr) (p : Nat → Long)
    (inside : ∀ l, s.cur.lanes.getLsbD l = true → s.goesOn h p l (g l (mine s l)) = e l (s.goesOn h p l (mine s l)))
    (outside : ∀ l, s.cur.lanes.getLsbD l = false → g l (mine s l) = mine s l) : Moved s (u.retire h p) h p e := by
  obtain ⟨⟨⟨mem, hostMem, others⟩, rwc, threads⟩, -⟩ := u.retire_advances h p (by rw [cur]; exact there)
  have wg : u.curWg = s.curWg := by
    rw [State.curWg, State.curWg, cur, s.wgOf_present present, u.wgOf_present there, owner]
  rw [wg] at rwc
  simp only [cur] at others threads
  refine ⟨⟨mem.trans step.mem, hostMem.trans step.hostMem, fun c q ne => (others c q ne).trans (step.others c q ne)⟩, by rw [rwc, step.rwc], fun l hl => ?_⟩
  have at_l : mine u l = g l (mine s l) := by
    rw [mine, cur]
    exact step.thread l hl
  rw [threads l (by rw [length]; exact hl), at_l]
  by_cases i : s.cur.lanes.getLsbD l = true
  · rw [if_pos i, if_pos i]
    exact inside l i
  · rw [if_neg i, if_neg i]
    exact outside l (by simpa using i)

/-- A change of every lane of a list that names no lane twice. -/
theorem foldl_lanes {L : List Nat} (nodup : L.Nodup) (g : Nat → Thread → Thread) (j : Nat) (t : Thread) : L.foldl (fun t a => if a == j then g a t else t) t = if j ∈ L then g j t else t := by
  induction L generalizing t with
  | nil => rfl
  | cons a r ih =>
    obtain ⟨out, rest⟩ := List.nodup_cons.1 nodup
    rw [List.foldl_cons, ih rest]
    by_cases e : a = j
    · subst e
      rw [if_neg out, if_pos (beq_self_eq_true a), if_pos List.mem_cons_self]
    · rw [if_neg (show ¬ (a == j) = true by simpa using e)]
      have : (j ∈ a :: r) ↔ j ∈ r := by simp [Ne.symm e]
      simp only [this]

/-- Lanes of a mask, each changed in turn. -/
theorem LandStep.modThreadLanes (s : State) {core slot : Nat} (present : s.hasGroup core slot = true) (m : BitVec 32) (g : Nat → Thread → Thread) :
    LandStep s ((lanesOf m).foldl (fun s l => s.modThread core slot l (g l)) s) core slot (fun l t => if m.getLsbD l then g l t else t) := by
  obtain ⟨step, -⟩ := LandStep.foldl (P := fun u => u.hasGroup core slot = true) (f := fun (s : State) l => s.modThread core slot l (g l)) (e := fun a j t => if a == j then g a t else t)
    (fun u a hu => ⟨LandStep.modThread u hu a (g a), (u.modGroup_present _ _ _ _ _).trans hu⟩) (lanesOf m) s present
  refine step.congr fun l t => ?_
  rw [foldl_lanes (lanesOf_nodup m)]
  simp only [mem_lanesOf]

/-- An immediate asks for nothing. -/
theorem ready_imm {s : State} {act : BitVec 32} (r : Ready s act [] [] []) (x : Long) : Ready s act [.imm x] [] [] := by
  obtain ⟨phase, nums, short, -, -, bad, failed⟩ := r
  have same : s.badOperands act [.imm x] = s.badOperands act [] := by
    unfold State.badOperands
    simp [Src.regs]
  refine ⟨phase, nums, short, .inr ⟨rfl, rfl⟩, fun l _ y hy => ?_, same.trans bad, failed⟩
  rw [List.mem_singleton.1 hy]
  rfl

/-! ### The fields of special-register instructions (Tables 01-1, 01-5, 01-8) -/

theorem srAssigned_iff (i : Nat) : srAssigned i = true ↔ i ≤ 0x14 ∨ 0x100 ≤ i ∧ i ≤ 0x103 := by simp [srAssigned]

theorem srWide_iff (i : Nat) : srWide i = true ↔ i = 0x06 ∨ i = 0x07 ∨ i = 0x0D ∨ i = 0x0E ∨ i = 0x13 ∨ i = 0x103 := by simp [srWide, or_assoc]

theorem srWritable_iff (i : Nat) : srWritable i = true ↔ i = 0x09 ∨ i = 0x0A ∨ i = 0x0F ∨ i = 0x103 := by simp [srWritable, or_assoc]

theorem srLogged_iff (i : Nat) : srLogged i = true ↔ i = 0x06 ∨ i = 0x13 := by simp [srLogged]

theorem srAtOnce_iff (i : Nat) : srAtOnce i = true ↔ i = 0x09 ∨ i = 0x0A := by simp [srAtOnce]

/-- The register field of a special-register instruction of a group of n registers. -/
def SrFits (n i : Nat) (a : BitVec 9) : Prop := a = 0x1FE ∨ (if srWide i = true then a.toNat % 2 = 0 ∧ a.toNat + 1 < n else a.toNat < n)

theorem srFieldOk_iff (n i : Nat) (a : BitVec 9) : srFieldOk n i a = true ↔ SrFits n i a := by
  unfold srFieldOk SrFits
  cases srWide i <;> simp

/-- The first check of a special-register instruction: of its index, of writing it, and of its register field. -/
theorem srChecks_fail (assigned write writable fromReg fits : Bool) :
    (!assigned || (write && !writable) || (fromReg && !fits)) = true ↔ ¬ (assigned = true ∧ (write = true → writable = true) ∧ (fromReg = true → fits = true)) := by
  revert assigned write writable fromReg fits
  decide

section Fault

variable (s : State) (i : Instr) (idx : Nat) (write fromReg : Bool) (a : BitVec 9)

/-- What the first check asks for. -/
def State.SrGood : Prop := srAssigned idx = true ∧ (write = true → srWritable idx = true) ∧ (fromReg = true → srFieldOk (s.group s.cur.core s.cur.slot).n idx a = true)

theorem State.srFault_illegal (bad : ¬ s.SrGood idx write fromReg a) : s.srFault i idx write fromReg a = some (cILLEGAL, headerTv i) := by
  rw [State.srFault]
  simp only [(srChecks_fail _ _ _ _ _).2 bad, if_true]

variable (good : s.SrGood idx write fromReg a)
include good

theorem State.srFault_none (allowed : idx < 0x100 ∨ (s.ctx s.curCtx).priv = true) : s.srFault i idx write fromReg a = none := by
  have may : (decide (idx ≥ 0x100) && !(s.ctx s.curCtx).priv) = false := by
    rcases allowed with low | priv
    · simp [not_le.2 low]
    · simp [priv]
  rw [State.srFault]
  simp only [mt (srChecks_fail _ _ _ _ _).1 (not_not.2 good), may, Bool.false_eq_true, if_false]

theorem State.srFault_privilege (not : ¬ (idx < 0x100 ∨ (s.ctx s.curCtx).priv = true)) : s.srFault i idx write fromReg a = some (cPRIV, BitVec.ofNat 64 idx) := by
  obtain ⟨high, none⟩ := not_or.1 not
  have no : (decide (idx ≥ 0x100) && !(s.ctx s.curCtx).priv) = true := by simp [not_lt.1 high, Bool.eq_false_iff.2 none]
  rw [State.srFault]
  simp only [mt (srChecks_fail _ _ _ _ _).1 (not_not.2 good), no, Bool.false_eq_true, if_false, if_true]

end Fault

theorem dstRegs_sr (a : BitVec 9) (wide : Bool) : dstRegs a.toNat wide = if a = 0x1FE then [] else if wide = true then [a.toNat, a.toNat + 1] else [a.toNat] := by
  have same : (a.toNat = 0x1FE) = (a = 0x1FE) := propext ⟨fun e => BitVec.eq_of_toNat_eq e, fun e => by rw [e]; rfl⟩
  simp only [dstRegs, same]

theorem State.curCtx_present {s : State} (present : s.hasGroup s.cur.core s.cur.slot = true) : s.ctxOfWg (s.group s.cur.core s.cur.slot).wg = s.curCtx := by
  rw [State.curCtx, State.curWg, s.wgOf_present present]

theorem bitNat_zero (b : Bool) : bitNat b 0 = b.toNat := by cases b <;> rfl

theorem Ctx.flags_eq (c : Ctx) : c.flags = c.priv.toNat + 2 * (c.debug).toNat + 4 * c.replay.toNat := by
  rw [Ctx.flags]
  cases c.priv <;> cases c.debug <;> cases c.replay <;> rfl

/-- The result of rdsr: the value v of each active lane. -/
def srReadResult (s : State) (h : Hdr) (dst : Nat) (wide : Bool) (v : Nat → Nat) : Pend :=
  { core := s.cur.core, slot := s.cur.slot, kind := 0, path := s.cur.path, lanes := s.cur.lanes, act := s.active h, pos := s.cur.pos, tok := h.tok.toNat,
    writes := ((lanesOf (s.active h)).map (fun l => laneWrites l dst wide (v l) false)).flatten }

/-! ### wrsr (R28, R29, R50) -/

/-- What wrsr does to a lane at issue. -/
def srTakes (i : Nat) (x : Nat → Long) (l : Nat) (t : Thread) : Thread := if srAtOnce i then t.srWrite i (x l) else t

/-- The result of wrsr. -/
def srResult (s : State) (h : Hdr) (i : Nat) (x : Nat → Long) : Pend :=
  { core := s.cur.core, slot := s.cur.slot, kind := 0, path := s.cur.path, lanes := s.cur.lanes, act := s.active h, pos := s.cur.pos, tok := h.tok.toNat,
    srs := if srAtOnce i then [] else (lanesOf (s.active h)).map (fun l => (l, i, x l)) }

/-- The state in which wrsr has written what it writes at issue. -/
def srWritten (s : State) (h : Hdr) (i : Nat) (x : Nat → Long) : State :=
  if srAtOnce i then (lanesOf (s.active h)).foldl (fun u l => u.modThread s.cur.core s.cur.slot l (fun t => t.srWrite i (x l))) (s.takeToken h) else s.takeToken h

theorem srWritten_step {s : State} (first : First s) (h : Hdr) (i : Nat) (x : Nat → Long) :
    LandStep (s.takeToken h) (srWritten s h i x) s.cur.core s.cur.slot (fun l t => if (s.active h).getLsbD l then srTakes i x l t else t) := by
  have there : (s.takeToken h).hasGroup s.cur.core s.cur.slot = true := (SameThreads.takeToken s h).present _ _ |>.trans first.2.2.2.2.2
  unfold srWritten srTakes
  cases srAtOnce i with
  | true => exact LandStep.modThreadLanes (s.takeToken h) there (s.active h) (fun l t => t.srWrite i (x l))
  | false => exact (LandStep.refl _ _ _).congr fun l t => by simp

theorem srTakes_eq (act : BitVec 32) (i : Nat) (x : Nat → Long) (l : Nat) (t : Thread) : (if act.getLsbD l = false then t
    else if i = 0x09 then { t with fpflags := (x l).setWidth 5 } else if i = 0x0A then { t with fpctl := (x l).setWidth 5 } else t) = if act.getLsbD l then srTakes i x l t else t := by
  cases act.getLsbD l with
  | false => rfl
  | true =>
    rw [if_neg (by decide), if_pos rfl, srTakes]
    by_cases nine : i = 0x09
    · subst nine
      rfl
    · by_cases ten : i = 0x0A
      · subst ten
        rfl
      · rw [if_neg nine, if_neg ten, if_neg]
        rw [srAtOnce_iff]
        exact fun e => e.elim nine ten

/-- What a special register written at issue leaves of a thread. -/
theorem srTakes_goesOn (s : State) (h : Hdr) (p : Nat → Long) (i : Nat) (x : Nat → Long) (l : Nat) (t : Thread) : s.goesOn h p l (srTakes i x l t) = srTakes i x l (s.goesOn h p l t) := by
  unfold srTakes
  split
  next e =>
    rcases (srAtOnce_iff i).1 e with rfl | rfl <;> rfl
  next => rfl

theorem wrsr_issues {s : State} (first : First s) (h : Hdr) (i : Nat) (x : Nat → Long) :
    let t := ((srWritten s h i x).pendFixed 6 (srResult s h i x)).retireSeq h
    let p := { srResult s h i x with due := (s.core s.cur.core).cycles + 6 }
    Moved s t h (fun _ => seqPos s.cur.pos) (fun l t => if (s.active h).getLsbD l then srTakes i x l t else t) ∧ TokenUp s t h ∧ UnderWay s t h s.fresh p := by
  intro t p
  have hphase := first.1
  have present := first.2.2.2.2.2
  have step := srWritten_step first h i x
  have took := SameThreads.takeToken s h
  have cur : (srWritten s h i x).cur = s.cur := step.cur.trans (by simp)
  have pcur : ((srWritten s h i x).pendFixed 6 (srResult s h i x)).cur = s.cur := by simp [cur]
  have fresh : (srWritten s h i x).fresh = s.fresh := by rw [step.state]; simp
  have there : (srWritten s h i x).hasGroup s.cur.core s.cur.slot = true := (step.present _ _).trans ((took.present _ _).trans present)
  have core : (srWritten s h i x).core s.cur.core = { s.core s.cur.core with rel := ((srWritten s h i x).core s.cur.core).rel, landed := ((srWritten s h i x).core s.cur.core).landed } := by
    have := step.coreKept s.cur.core
    simpa using this
  have lanes : LanesStep s ((srWritten s h i x).pendFixed 6 (srResult s h i x)) s.cur.core s.cur.slot (fun l t => if (s.active h).getLsbD l then srTakes i x l t else t) := by
    obtain ⟨mem, hostMem, rwc, others, thread⟩ := step.lanes
    refine ⟨by simp [mem], by simp [hostMem], fun w => by simp [rwc], fun c q ne => ?_, fun l hl => ?_⟩
    · simp only [State.pendFixed_group]
      exact (others c q ne).trans (took.threads c q)
    · simp only [State.pendFixed_group]
      rw [thread l (by rw [took.threads]; exact hl), took.thread]
  have moved := lanes.moved present pcur (by simpa using there) (by simp only [State.pendFixed_group]; rw [step.here]; exact took.owner _ _)
    (by simp only [State.pendFixed_group]; rw [step.length, took.threads]) h (fun _ => seqPos s.cur.pos)
    (e := fun l t => if (s.active h).getLsbD l then srTakes i x l t else t) (fun l _ => ?_) fun l out => ?_
  · have r : Retired ((srWritten s h i x).pendFixed 6 (srResult s h i x)) t := .retireSeq _ h (by rw [pcur]; exact hphase)
    refine ⟨?_, fun k => ?_, ?_, rfl, rfl, rfl, rfl, rfl, rfl, rfl, rfl, fun _ => rfl⟩
    · show Moved s (((srWritten s h i x).pendFixed 6 (srResult s h i x)).retireSeq h) h _ _
      rw [State.retireSeq, pcur]
      exact moved
    · rw [r.token]
      simp only [State.pendFixed_group]
      rw [step.token]
      exact s.takeToken_token h hphase present k
    · rw [r.pends, State.pendFixed, fresh]
      show tblFind (tblPut _ (srWritten s h i x).fresh { srResult s h i x with due := ((srWritten s h i x).core s.cur.core).cycles + 6 }) s.fresh = some p
      rw [fresh, tblFind_tblPut_self, core]
  · split
    · exact srTakes_goesOn s h _ i x l _
    · rfl
  · rw [if_neg]
    intro act
    rw [s.active_lane hphase h act] at out
    cases out

end Sys2Proof.Machine

namespace Sys2Proof.Proofs.Special

open Sys2Proof.Machine Sys2Proof.Claims

/-- Settles O22. -/
theorem specialRegisters : Obligations.SpecialRegisters := by
  intro s h f first act i g w c wide assigned writable fits imm allowed reads x takes
  have hphase := first.1
  have present := first.2.2.2.2.2
  have quiet : ¬ s.cur.phase > 0 := by omega
  have isWide : srWide i = decide wide := by
    rw [Bool.eq_iff_iff, decide_eq_true_iff]
    exact srWide_iff i
  have isFits : srFieldOk (s.group s.cur.core s.cur.slot).n i f.a = true ↔ fits := by
    rw [srFieldOk_iff, SrFits]
    simp only [srWide_iff]
    rfl
  have raised (code : Nat) (tv : Long) (fault : code ≠ cWATCH ∧ code ≠ cSTEP) : Stops s (s.raise h act code tv) 0 act code tv := by
    have := s.raise_stops h act code tv hphase present
    simpa [fault] using this
  have readGood (assigned : i ≤ 0x14 ∨ 0x100 ≤ i ∧ i ≤ 0x103) (ok : fits) : s.SrGood i false true f.a := ⟨(srAssigned_iff i).2 assigned, by simp, fun _ => isFits.2 ok⟩
  refine ⟨fun assigned fits allowed ready => ?_, fun assigned writable fits allowed ready => ?_, fun t y => ⟨rfl, rfl⟩, fun bad => ?_, fun bad => ?_, fun assigned fits not => ?_⟩
  · have none : s.srFault (.rdsr h f) i false true f.a = none := s.srFault_none _ i false true f.a (readGood assigned fits) allowed
    have ready' : Ready s act [] (dstRegs f.a.toNat (srWide i)) [] := by
      rw [dstRegs_sr, isWide]
      simpa using ready
    let v (l : Nat) : Nat := s.srRead s.cur.core s.cur.slot l i
    refine ⟨v, srReadResult s h f.a.toNat (decide wide) v, ?_, rfl, rfl, rfl, rfl, rfl, rfl, fun l hl => ?_, rfl⟩
    · show execRdsr h f s = _
      rw [execRdsr]
      simp only [show s.srFault (.rdsr h f) f.idx.toNat false true f.a = Option.none from none]
      refine congrArg Host.Outcome.next ((s.withOperands_ready _ _ _ _ _ _ _ _ _ ready').trans ?_)
      rw [← isWide]
      have logged : (srLogged i = true) = (i = 0x06 ∨ i = 0x13) := propext (srLogged_iff i)
      simp only [show f.idx.toNat = i from rfl, logged]
      rfl
    · have ctx := State.curCtx_present present
      have read {k n : Nat} (e : i = k) (value : s.srRead s.cur.core s.cur.slot l k = n) : v l = n := by rw [← value, ← e]
      refine ⟨?_, ?_, ?_, ?_, ?_, ?_, ?_, ?_, ?_, ?_, ?_, ?_, ?_, ?_, ?_, ?_, ?_, ?_, ?_, ?_, ?_, ?_, ?_, ?_, ?_⟩
      all_goals
        intro e
        refine read e ?_
      case refine_16 => exact bitNat_zero _
      case refine_19 => exact ctx
      case refine_20 => exact congrArg (fun k => ((s.ctx k).ximp + (s.ctx k).xexp + (s.ctx k).xauto).toNat) ctx
      case refine_24 => exact (congrArg (fun k => (s.ctx k).flags) ctx).trans (Ctx.flags_eq _)
      all_goals rfl
  · have good : s.SrGood i true (!f.modi.getLsbD 0) f.a := by
      refine ⟨(srAssigned_iff i).2 assigned, fun _ => (srWritable_iff i).2 writable, fun reg => isFits.2 (fits.resolve_left fun k => ?_)⟩
      rw [show f.modi.getLsbD 0 = true from k] at reg
      cases reg
    have none : s.srFault (.wrsr h f) i true (!f.modi.getLsbD 0) f.a = none := s.srFault_none _ i true _ f.a good allowed
    let src : Src := if f.modi.getLsbD 0 then .imm (f.imm.setWidth 64) else if srWide i then .pair f.a.toNat else .reg f.a.toNat
    have ready' : Ready s act [src] [] [] := by
      by_cases k : f.modi.getLsbD 0 = true
      · rw [if_pos k] at ready
        rw [show src = .imm (f.imm.setWidth 64) from if_pos k]
        exact ready_imm ready _
      · rw [if_neg k] at ready
        have : src = if srWide i then .pair f.a.toNat else .reg f.a.toNat := if_neg k
        rw [this, isWide]
        by_cases w : wide
        · rw [if_pos w] at ready
          rw [decide_eq_true w]
          exact ready
        · rw [if_neg w] at ready
          rw [decide_eq_false w]
          exact ready
    have value : (fun l => s.srcVal l src) = x := by
      funext l
      by_cases k : f.modi.getLsbD 0 = true
      · exact (congrArg (s.srcVal l) (if_pos k)).trans (if_pos k).symm
      · refine (congrArg (s.srcVal l) (if_neg k)).trans (Eq.trans ?_ (if_neg k).symm)
        rw [isWide]
        by_cases w : wide
        · rw [if_pos w, decide_eq_true w]
          rfl
        · rw [if_neg w, decide_eq_false w]
          rfl
    obtain ⟨moved, up, underWay⟩ := wrsr_issues first h i x
    refine ⟨_, { srResult s h i x with due := (s.core s.cur.core).cycles + 6 }, ?_, ?_, up, underWay, rfl, rfl, ?_⟩
    · show execWrsr h f s = _
      rw [execWrsr]
      simp only [quiet, if_false, show s.srFault (.wrsr h f) f.idx.toNat true (!f.modi.getLsbD 0) f.a = Option.none from none]
      refine congrArg Host.Outcome.next ((s.withOperands_ready _ _ _ _ _ _ _ _ _ ready').trans ?_)
      simp only [quiet, if_false]
      rw [← value]
      rfl
    · have same : takes = fun l t => if (s.active h).getLsbD l then srTakes i x l t else t := by
        funext l t
        exact srTakes_eq (s.active h) i x l t
      rw [same]
      exact moved
    · have once : (srAtOnce i = true) = (i = 0x09 ∨ i = 0x0A) := propext (srAtOnce_iff i)
      show (if srAtOnce i = true then _ else _) = _
      simp only [once]
      rfl
  · have fails : s.srFault (.rdsr h f) i false true f.a = some (cILLEGAL, headerTv (.rdsr h f)) :=
      s.srFault_illegal _ i false true f.a fun good => bad ⟨(srAssigned_iff i).1 good.1, isFits.1 (good.2.2 rfl)⟩
    refine ⟨_, ?_, raised cILLEGAL _ (by decide)⟩
    show execRdsr h f s = _
    rw [execRdsr]
    simp only [show s.srFault (.rdsr h f) f.idx.toNat false true f.a = _ from fails]
    rfl
  · have fails : s.srFault (.wrsr h f) i true (!f.modi.getLsbD 0) f.a = some (cILLEGAL, headerTv (.wrsr h f)) := by
      refine s.srFault_illegal _ i true _ f.a fun good => bad ⟨(srAssigned_iff i).1 good.1, (srWritable_iff i).1 (good.2.1 rfl), ?_⟩
      by_cases e : f.modi.getLsbD 0 = true
      · exact .inl e
      · exact .inr (isFits.1 (good.2.2 (by simpa using e)))
    refine ⟨_, ?_, raised cILLEGAL _ (by decide)⟩
    show execWrsr h f s = _
    rw [execWrsr]
    simp only [quiet, if_false, show s.srFault (.wrsr h f) f.idx.toNat true (!f.modi.getLsbD 0) f.a = _ from fails]
    rfl
  · have fails : s.srFault (.rdsr h f) i false true f.a = some (cPRIV, BitVec.ofNat 64 i) := s.srFault_privilege _ i false true f.a (readGood assigned fits) not
    refine ⟨_, ?_, raised cPRIV _ (by decide)⟩
    show execRdsr h f s = _
    rw [execRdsr]
    simp only [show s.srFault (.rdsr h f) f.idx.toNat false true f.a = _ from fails]
    rfl

end Sys2Proof.Proofs.Special
end

section
/-! SUPPORT. The checks of a memory access (R217, R231, Table 13-3), and what a memory instruction does with what they find (R334, R347). -/

namespace Sys2Proof.Machine

open Sys2Proof.Claims

/-! ### The first of a list -/

theorem find?_first {α : Type} {f : α → Bool} {l a b : List α} {p : α} (cut : l = a ++ p :: b) (before : ∀ q ∈ a, f q = false) (here : f p = true) : l.find? f = some p := by
  rw [cut, List.find?_append, List.find?_eq_none.2 fun q hq => by simp [before q hq], List.find?_cons_of_pos here]
  rfl

theorem find?_nowhere {α : Type} {f : α → Bool} {l : List α} (nowhere : ∀ q ∈ l, f q = false) : l.find? f = none := List.find?_eq_none.2 fun q hq => by simp [nowhere q hq]

/-! ### The checks of the g space -/

section CheckG

variable {s : State} {k : AccKind} {n : Nat} {l : List (Nat × Nat)}

/-- Whether an address is aligned to n bytes. -/
def misaligned (n : Nat) (p : Nat × Nat) : Bool := p.2 % n ≠ 0

/-- Whether the page of an address is not translated. -/
def State.untranslated (s : State) (p : Nat × Nat) : Bool := match s.walk s.curCtx p.2 with | .absent _ => true | _ => false

theorem State.checkG_eq (s : State) (k : AccKind) (n : Nat) (l : List (Nat × Nat)) : s.checkG k n n l =
    match l.find? (misaligned n) with
    | some p => .fault cMISALIGN p.2
    | none => match l.find? (fun p => s.accessFault k p.2) with
      | some p => .fault cACCESS p.2 (s.badWalks s.curCtx (l.map (fun p => p.2)))
      | none => match l.find? s.untranslated with
        | some p => .park p.2
        | none => match if k = .load || k = .element then none else l.find? (fun p => s.sourceLocked p.2 n) with
          | some p => .fault cRANGE p.2
          | none => match l.find? (fun p => s.watched k p.2 n) with
            | some p => .fault cWATCH p.2
            | none => .ok (s.translated l) := rfl

theorem State.checkG_misaligned {p : Nat × Nat} (bad : l.find? (misaligned n) = some p) : s.checkG k n n l = .fault 0x07 p.2 [] := by
  rw [s.checkG_eq, bad]
  rfl

variable (aligned : l.find? (misaligned n) = none)
include aligned

theorem State.checkG_access {p : Nat × Nat} (bad : l.find? (fun p => s.accessFault k p.2) = some p) :
    s.checkG k n n l = .fault 0x08 p.2 (s.badWalks s.curCtx (l.map (fun q => q.2))) := by
  rw [s.checkG_eq, aligned]
  simp only [bad]
  rfl

variable (allowed : l.find? (fun p => s.accessFault k p.2) = none)
include allowed

theorem State.checkG_parks {p : Nat × Nat} (absent : l.find? s.untranslated = some p) : s.checkG k n n l = .park p.2 := by
  rw [s.checkG_eq, aligned]
  simp only [allowed, absent]

variable (present : l.find? s.untranslated = none)
include present

theorem State.checkG_locked {p : Nat × Nat} (writes : k ≠ .load ∧ k ≠ .element) (locked : l.find? (fun p => s.sourceLocked p.2 n) = some p) : s.checkG k n n l = .fault 0x0A p.2 [] := by
  rw [s.checkG_eq, aligned]
  have kind : (decide (k = .load) || decide (k = .element)) = false := by simp [writes]
  simp only [allowed, present, kind, Bool.false_eq_true, if_false, locked]
  rfl

variable (free : (if k = .load || k = .element then none else l.find? (fun p => s.sourceLocked p.2 n)) = none)
include free

theorem State.checkG_watched {p : Nat × Nat} (watched : l.find? (fun p => s.watched k p.2 n) = some p) : s.checkG k n n l = .fault 0x15 p.2 [] := by
  rw [s.checkG_eq, aligned]
  simp only [allowed, present, free, watched]
  rfl

theorem State.checkG_ok (quiet : l.find? (fun p => s.watched k p.2 n) = none) : s.checkG k n n l = .ok (s.translated l) := by
  rw [s.checkG_eq, aligned]
  simp only [allowed, present, free, quiet]

end CheckG

/-- An address that no access check forbids, of a page that is translated. -/
theorem State.walk_ok {s : State} {k : AccKind} {p : Nat × Nat} (allowed : s.accessFault k p.2 = false) (present : s.untranslated p = false) : ∃ pa e, s.walk s.curCtx p.2 = .ok pa e := by
  unfold State.accessFault at allowed
  unfold State.untranslated at present
  cases e : s.walk s.curCtx p.2 with
  | ok pa en => exact ⟨pa, en, rfl⟩
  | absent lv => simp [e] at present
  | bad lv => simp [e] at allowed

theorem State.translated_spec {s : State} {l : List (Nat × Nat)} (found : ∀ p ∈ l, ∃ pa e, s.walk s.curCtx p.2 = .ok pa e) :
    (s.translated l).map (fun y => (y.lane, y.ea)) = l ∧ ∀ y ∈ s.translated l, s.walk s.curCtx y.ea = .ok y.pa y.entry := by
  induction l with
  | nil => exact ⟨rfl, fun y hy => by cases hy⟩
  | cons p r ih =>
    obtain ⟨pa, e, walk⟩ := found p List.mem_cons_self
    obtain ⟨lanes, each⟩ := ih fun q hq => found q (List.mem_cons_of_mem _ hq)
    have cons : s.translated (p :: r) = ⟨p.1, p.2, pa, e⟩ :: s.translated r := by
      unfold State.translated
      rw [List.filterMap_cons, walk]
    rw [cons]
    refine ⟨by rw [List.map_cons, lanes], fun y hy => ?_⟩
    rcases List.mem_cons.1 hy with rfl | inside
    · exact walk
    · exact each y inside

/-- The codes with which the checks of an access fail. -/
def MemCode (code : Nat) : Prop := code = 0x07 ∨ code = 0x08 ∨ code = 0x0A ∨ code = 0x15

theorem State.checkG_code {s : State} {k : AccKind} {n code tv : Nat} {l : List (Nat × Nat)} {bad : List Nat} (h : s.checkG k n n l = .fault code tv bad) : MemCode code := by
  rw [s.checkG_eq] at h
  split at h
  · cases h; exact .inl rfl
  · split at h
    · cases h; exact .inr (.inl rfl)
    · split at h
      · cases h
      · split at h
        · cases h; exact .inr (.inr (.inl rfl))
        · split at h
          · cases h; exact .inr (.inr (.inr rfl))
          · cases h

theorem State.checkSpace_code {s : State} {spc : Space} {n code tv : Nat} {l : List (Nat × Nat)} {bad : List Nat} (h : s.checkSpace spc n l = .fault code tv bad) : MemCode code := by
  unfold State.checkSpace at h
  split at h
  · cases h; exact .inl rfl
  · split at h
    · cases h; exact .inr (.inl rfl)
    · split at h
      · cases h; exact .inr (.inr (.inl rfl))
      · cases h

/-! ### A memory instruction whose operands are ready -/

theorem State.knownLanes_all {s : State} (failed : s.cur.failed = []) (m : BitVec 32) (rs : List Nat) : s.knownLanes m rs = m := by
  rw [State.knownLanes, failed]
  rfl

theorem State.checkKnown_ready {s : State} (failed : s.cur.failed = []) (addr : Src) (act : BitVec 32) (check : State → BitVec 32 → MemChk) : s.checkKnown addr act check = check s act := by
  rw [State.checkKnown, s.knownLanes_all failed, s.knownLanes_all failed]
  split
  next code tv bad e =>
    split
    · exact e.symm
    · rfl
  next => rfl

/-- R231: a memory instruction whose operands are ready does what its checks find. -/
theorem State.memOp_ready {s : State} {addr : Src} {data : List Src} {dsts preds : List Nat} {h : Hdr} (r : Ready s (s.active h) (addr :: data) dsts preds) (i : Instr) (stay : State → Nat → Bool)
    (check : State → BitVec 32 → MemChk) (k : State → BitVec 32 → List Acc → State) : s.memOp h i addr data dsts preds stay check k =
      match check s (s.active h) with
      | .fault code tv bad => (s.noteWalks s.curCtx bad).raise h (s.active h) code (BitVec.ofNat 64 tv)
      | .park va => s.parkMem h i (s.active h) (addr :: data) va
      | .ok l => k s (s.active h) l := by
  have failed := r.2.2.2.2.2.2
  have plain := r.2.2.2.2.1
  rw [State.memOp, State.withOperandsLate_ready _ _ _ _ _ _ _ _ _ _ _ r, State.checkKnown_ready failed]
  have none := s.crossings_plain (s.active h) data (fun l _ => stay s l) 0 fun l hl x hx => plain l hl x (List.mem_cons_of_mem _ hx)
  cases e : check s (s.active h) <;> simp only [e, none, List.isEmpty_nil, Bool.true_or, if_true, s.raiseFailed_none h (s.active h) _ failed]

/-! ### What a check finds happens at the instruction -/

theorem State.noteWalks_frame (s : State) (ctx : Nat) (l : List Nat) : s.noteWalks ctx l = { s with malformed := (s.noteWalks ctx l).malformed } := by
  unfold State.noteWalks
  refine List.foldlRecOn (motive := fun (t : State) => t = { s with malformed := t.malformed }) l _ rfl fun t ht va _ => ?_
  split
  · rw [State.noteBad, ht]
  · exact ht

/-- R231, R334: a fault that a check finds stops the group at the instruction. -/
theorem checked_stops {s : State} (first : First s) (h : Hdr) (act : BitVec 32) {code : Nat} (tv : Long) (bad : List Nat) (known : MemCode code) :
    Stops s ((s.noteWalks s.curCtx bad).raise h act code tv) (if code = 0x15 then 4 else 0) act code tv := by
  have frame := s.noteWalks_frame s.curCtx bad
  have kind : (if code = 0x15 then 4 else 0) = if code = cWATCH || code = cSTEP then 4 else 0 := by
    rcases known with rfl | rfl | rfl | rfl <;> rfl
  have cur : (s.noteWalks s.curCtx bad).cur = s.cur := by rw [frame]
  rw [kind]
  refine stops_congr frame ((s.noteWalks s.curCtx bad).raise_stops h act code tv (by rw [cur]; exact first.1) ?_)
  rw [cur, frame]
  exact first.2.2.2.2.2

/-! ### A memory instruction parks (R347) -/

theorem tblFind_tblPut_isSome {α : Type} {t : Tbl α} {k : Nat} (j : Nat) (x : α) (h : (tblFind t k).isSome = true) : (tblFind (tblPut t j x) k).isSome = true := by
  by_cases e : k = j
  · rw [e, tblFind_tblPut_self]
    rfl
  · rw [tblFind_tblPut_other _ _ e]
    exact h

/-- The lanes that a guard selected are among the values captured. -/
theorem State.capture_keeps (s : State) (act : BitVec 32) (regs : List Nat) {k : Nat} (h : (tblFind s.cur.caps k).isSome = true) : (tblFind (s.capture act regs).cur.caps k).isSome = true := by
  refine List.foldlRecOn (motive := fun t => (tblFind t k).isSome = true) (lanesOf act) _ h fun t ht l _ => ?_
  exact List.foldlRecOn (motive := fun t => (tblFind t k).isSome = true) regs _ ht fun t ht r _ => tblFind_tblPut_isSome _ _ (tblFind_tblPut_isSome _ _ ht)

theorem State.keptCaps_act (s : State) (h : Hdr) : (tblFind (s.keptCaps h) actKey).isSome = true := by
  refine List.foldlRecOn (motive := fun t => (tblFind t actKey).isSome = true) (lanesOf s.cur.lanes) _ ?_ fun t ht l _ => tblFind_tblPut_isSome _ _ ht
  rw [tblFind_tblPut_self]
  rfl

/-- What beginning to wait leaves: memories, counts, the slot of every group, the threads of every other group, and the waits. -/
structure Begun (s t : State) : Prop where
  mem : t.mem = s.mem
  hostMem : t.hostMem = s.hostMem
  wgs : t.wgs = s.wgs
  present : ∀ c q, t.hasGroup c q = s.hasGroup c q
  others : ∀ c q, gkey c q ≠ gkey s.cur.core s.cur.slot → (t.group c q).threads = (s.group c q).threads
  waits : (t.group s.cur.core s.cur.slot).waits = (s.group s.cur.core s.cur.slot).waits
  issue : t.cur.core = s.cur.core ∧ t.cur.slot = s.cur.slot ∧ t.cur.lanes = s.cur.lanes

theorem State.beginWait_begun {s : State} (hphase : s.cur.phase = 0) (hcaps : tblFind s.cur.caps actKey = none) (present : s.hasGroup s.cur.core s.cur.slot = true) (h : Hdr) :
    Begun s (s.beginWait h) ∧ (tblFind (s.beginWait h).cur.caps actKey).isSome = true := by
  let a := s.takeToken h
  let b := a.modLanes s.cur.core s.cur.slot s.cur.lanes (fun _ t => { t with stall := h.stall.toNat })
  have bcur : b.cur = s.cur := by simp [b, a]
  have begun : s.beginWait h = { b with cur := { b.cur with caps := s.keptCaps h } } := by
    have quiet : ¬ (s.cur.phase > 0 || (tblFind s.cur.caps actKey).isSome) = true := by simp [hphase, hcaps]
    rw [State.beginWait, if_neg quiet]
    simp only [b, State.keptCaps]
    congr 2
    simp [a]
  have same := SameThreads.takeToken s h
  have there : a.hasGroup s.cur.core s.cur.slot = true := (same.present _ _).trans present
  have tokens := s.takeToken_groups h
  have waits : (a.group s.cur.core s.cur.slot).waits = (s.group s.cur.core s.cur.slot).waits := by
    simp only [a, State.takeToken, hphase, if_true]
    rw [s.tokUp_tokens]
  have lanes := a.modGroup_groups s.cur.core s.cur.slot (fun g => g.modLanes s.cur.lanes (fun _ t => { t with stall := h.stall.toNat }))
  have bframe : b = { s with groups := b.groups } := by
    have : b = { a with groups := b.groups } := lanes
    rw [this, show a = { s with groups := a.groups } from tokens]
  rw [begun]
  refine ⟨⟨?_, ?_, ?_, fun c q => (a.modGroup_present _ _ _ _ _).trans (same.present c q), fun c q ne => (congrArg Group.threads (a.modGroup_other _ ne)).trans (same.threads c q),
    (congrArg Group.waits (a.modGroup_self _ there)).trans waits, by simp [bcur]⟩, s.keptCaps_act h⟩
  · show b.mem = _
    rw [bframe]
  · show b.hostMem = _
    rw [bframe]
  · show b.wgs = _
    rw [bframe]

/-- R347: a memory instruction parks for a page. -/
theorem parkMem_waits {s : State} (first : First s) (h : Hdr) (i : Instr) {srcs : List Src} (plain : ∀ l ∈ lanesOf (s.active h), ∀ x ∈ srcs, s.srcProxy l x = false) (va : Nat) :
    let t := s.parkMem h i (s.active h) srcs va
    Elsewhere s t ∧ (t.wg s.curWg).rwc = (s.wg s.curWg).rwc ∧
      ∃ w, (t.group s.cur.core s.cur.slot).waits = (s.group s.cur.core s.cur.slot).waits ++ [w] ∧ w.cond = .page (BitVec.ofNat 64 va) ∧ w.iss.lanes = s.cur.lanes := by
  obtain ⟨hphase, -, hcaps, -, -, present⟩ := first
  have none := s.crossings_plain (s.active h) srcs stayNone 0 plain
  have quiet : ¬ s.cur.phase > 0 := by omega
  let s0 : State := { s with cur := { s.cur with held := [] } }
  obtain ⟨begun, kept⟩ := State.beginWait_begun (s := s0) hphase (by simp [s0, hcaps, tblFind]) present h
  let s1 := (s0.beginWait h).capture (s.active h) (srcRegs srcs)
  have run : s.parkMem h i (s.active h) srcs va = (s1.waitFor h i (.page (BitVec.ofNat 64 va)) 7).inTicks Config.pageFaultTicks (.pageFaultTimeout s.cur.core s.cur.slot s1.fresh) := by
    rw [State.parkMem, none]
    simp only [quiet, if_false, List.map_nil, List.foldl_nil]
    rfl
  have again : s1.beginWait h = s1 := by
    rw [State.beginWait, if_pos]
    rw [(s0.beginWait h).capture_keeps (s.active h) (srcRegs srcs) kept, Bool.or_true]
  obtain ⟨mem, hostMem, wgs, groups, others, waits, core, slot, lanes⟩ := begun
  have core1 : s1.cur.core = s.cur.core := core
  have slot1 : s1.cur.slot = s.cur.slot := slot
  let w : Waiting := ⟨s1.fresh, { s1.cur with phase := s1.cur.phase + 1 }, i, .page (BitVec.ofNat 64 va), 7⟩
  have waiting : s1.waitFor h i (.page (BitVec.ofNat 64 va)) 7 = (s1.modGroup s.cur.core s.cur.slot (fun g => { g with waits := g.waits ++ [w] })).tickFresh := by
    rw [State.waitFor, again]
    simp only [core1, slot1, w]
  have there : s1.hasGroup s.cur.core s.cur.slot = true := (groups _ _).trans present
  have group1 (c q : Nat) : s1.group c q = (s0.beginWait h).group c q := rfl
  have wgs1 : s1.wgs = s.wgs := wgs
  have lanes1 : s1.cur.lanes = s.cur.lanes := lanes
  have mem1 : s1.mem = s.mem := mem
  have hostMem1 : s1.hostMem = s.hostMem := hostMem
  intro t
  have e : t = ((s1.modGroup s.cur.core s.cur.slot (fun g => { g with waits := g.waits ++ [w] })).tickFresh).inTicks Config.pageFaultTicks (.pageFaultTimeout s.cur.core s.cur.slot s1.fresh) := by
    rw [← waiting]
    exact run
  clear_value t
  subst e
  refine ⟨⟨?_, ?_, fun c q ne => ?_⟩, ?_, w, ?_, rfl, lanes1⟩
  · simpa using mem1
  · simpa using hostMem1
  · simp only [State.inTicks_group, State.tickFresh_group, State.modGroup_other _ _ ne, group1]
    exact others c q ne
  · simp [State.wg, wgs1]
  · simp only [State.inTicks_group, State.tickFresh_group, State.modGroup_self _ _ there, group1]
    exact congrArg (· ++ [w]) waits

/-- R231, R334, R347: what the checks of a memory instruction find happens at the instruction. -/
theorem memOp_acts {s : State} (first : First s) {addr : Src} {data : List Src} {dsts preds : List Nat} {h : Hdr} (r : Ready s (s.active h) (addr :: data) dsts preds) (i : Instr)
    (stay : State → Nat → Bool) {check : State → BitVec 32 → MemChk} (k : State → BitVec 32 → List Acc → State) (known : ∀ code tv bad, check s (s.active h) = .fault code tv bad → MemCode code) :
    (∀ code tv bad, check s (s.active h) = .fault code tv bad →
      Stops s (s.memOp h i addr data dsts preds stay check k) (if code = 0x15 then 4 else 0) (s.active h) code (BitVec.ofNat 64 tv)) ∧
    (∀ va, check s (s.active h) = .park va → let t := s.memOp h i addr data dsts preds stay check k
      Elsewhere s t ∧ (t.wg s.curWg).rwc = (s.wg s.curWg).rwc ∧
        ∃ w, (t.group s.cur.core s.cur.slot).waits = (s.group s.cur.core s.cur.slot).waits ++ [w] ∧ w.cond = .page (BitVec.ofNat 64 va) ∧ w.iss.lanes = s.cur.lanes) := by
  rw [State.memOp_ready r]
  refine ⟨fun code tv bad e => ?_, fun va e => ?_⟩
  · rw [e]
    exact checked_stops first h _ _ bad (known code tv bad e)
  · rw [e]
    exact parkMem_waits first h i r.2.2.2.2.1 va

/-! ### Memory instructions are memory operations -/

/-- An instruction is a memory operation of an address, data and a check. -/
def IsMemOp (s : State) (h : Hdr) (i : Instr) (addr : Src) (data : List Src) (dsts : List Nat) (check : State → BitVec 32 → MemChk) : Prop :=
  ∃ stay k, exec i s = .next (s.memOp h i addr data dsts [] stay check k)

/-- R189, R219: a load of a space beside g whose checks pass. -/
def State.loadedSpace (s : State) (h : Hdr) (i : Instr) (f : FmtM) (spc : Space) (act : BitVec 32) (l : List Acc) : State :=
  let n := sizeBytes f
  let k := s.cur
  let bytes := l.foldl (fun t x => (placed (x.lane * 16) (s.spaceRead spc x.lane x.pa n)).foldl (fun t b => tblPut t b.1 b.2) t) ([] : Tbl Byte)
  let p : Pend := { core := k.core, slot := k.slot, kind := 3, path := k.path, lanes := k.lanes, act := act, pos := k.pos, tok := h.tok.toNat, size := n, sx := f.mode == 1, dst := f.data.toNat, bytes := bytes, eas := l.map (fun x => (x.lane, BitVec.ofNat 64 x.ea)), bad := l.findSome? (fun x => (s.badSpace spc x.lane x.pa n).map (fun b => (x.lane, b))) }
  let s1 := (s.meterSpace spc n l).takeToken h
  let id := s1.fresh
  if spc = .sp then
    let p' := { p with kind := 0, size := 0, writes := ((lanesOf act).map (fun l => loadWrites p.dst n p.sx l bytes false)).flatten }
    let s2 := ((s1.holdPort n l).pendFixed 24 p').retireSeq h
    if k.phase > 0 then s2.hold k.lanes i id 7 else s2
  else ((s1.addPend p).later (.loadCompletion id)).retireSeq h

/-- R189, R220: a store of a space beside g whose checks pass. -/
def State.storedSpace (s : State) (h : Hdr) (i : Instr) (f : FmtM) (spc : Space) (act : BitVec 32) (l : List Acc) : State :=
  let n := sizeBytes f
  let k := s.cur
  let s1 := l.foldl (fun s x => s.spaceWrite spc x.lane x.pa (s.dataBytes f.data.toNat n x.lane)) ((s.meterSpace spc n l).takeToken h)
  if spc = .sp then
    let p : Pend := { core := k.core, slot := k.slot, kind := 0, path := k.path, lanes := k.lanes, act := act, pos := k.pos, tok := h.tok.toNat }
    let id := s1.fresh
    let s2 := ((s1.holdPort n l).pendFixed 24 p).retireSeq h
    if k.phase > 0 then s2.hold k.lanes i id 7 else s2
  else (s1.dropToken h).retireSeq h

/-- R224: an atomic operation whose checks pass. -/
def State.sentAtoms (s : State) (h : Hdr) (v : BitVec 5) (f : FmtM) (old : Bool) (act : BitVec 32) (l : List Acc) : State :=
  let n := sizeBytes f
  let k := s.cur
  let die := Config.dieOfCore k.core
  let id := s.fresh
  let s0 := (framesOf (l.map Acc.pa)).foldl (fun s fr => s.flushGather die fr) (s.takeToken h).tickFresh
  let (s1, _) := l.foldl (fun a x => State.atomLane v.toNat f old id a x) (s0, [])
  if l.isEmpty then (s1.dropToken h).retireSeq h
  else
    let p : Pend := { core := k.core, slot := k.slot, kind := 3, path := k.path, lanes := k.lanes, act := act, pos := k.pos, tok := h.tok.toNat, size := if old then n else 0, dst := f.data.toNat, wait := l.length, eas := l.map (fun x => (x.lane, BitVec.ofNat 64 x.ea)), frames := (framesOf (l.map Acc.pa)).length }
    { s1 with pends := tblPut s1.pends id p }.retireSeq h

section MemOps

variable (s : State) (h : Hdr) (i : Instr) (f : FmtM)

theorem State.loadSpace_eq (spc : Space) : s.loadSpace h i f spc = s.memOp h i (addrSrc f) [] (loadRegs f.data.toNat (sizeBytes f)) [] (fun _ _ => false)
    (fun s act => s.checkSpace spc (sizeBytes f) (s.eas f act)) (fun s act l => s.loadedSpace h i f spc act l) := rfl

theorem State.storeSpace_eq (spc : Space) : s.storeSpace h i f spc = s.memOp h i (addrSrc f) (dataSrcs f.data.toNat (sizeBytes f)) [] [] (fun _ _ => false)
    (fun s act => s.checkSpace spc (sizeBytes f) (s.eas f act)) (fun s act l => s.storedSpace h i f spc act l) := rfl

theorem State.atomOp_eq (v : BitVec 5) (old : Bool) : s.atomOp h i v f old =
    s.memOp h i (addrSrc f) (dataSrcs f.data.toNat (if v.toNat = 7 then 2 * sizeBytes f else sizeBytes f)) (if old then loadRegs f.data.toNat (sizeBytes f) else []) []
      (fun _ _ => v.toNat ≠ 7 && f.size == 2) (fun s act => s.checkG (if old then .atomic else .reduce) (sizeBytes f) (sizeBytes f) (s.eas f act)) (fun s act l => s.sentAtoms h v f old act l) := rfl

theorem ld_memOp : IsMemOp s h (.ld h f) (addrSrc f) [] (loadRegs f.data.toNat (sizeBytes f)) (fun s act => s.checkG .load (sizeBytes f) (sizeBytes f) (s.eas f act)) := ⟨_, _, rfl⟩

theorem ldsp_memOp : IsMemOp s h (.ldsp h f) (addrSrc f) [] (loadRegs f.data.toNat (sizeBytes f)) (fun s act => s.checkSpace .sp (sizeBytes f) (s.eas f act)) :=
  ⟨_, _, congrArg Host.Outcome.next (s.loadSpace_eq h (.ldsp h f) f .sp)⟩

theorem st_memOp : IsMemOp s h (.st h f) (addrSrc f) (dataSrcs f.data.toNat (sizeBytes f)) [] (fun s act => s.checkG .store (sizeBytes f) (sizeBytes f) (s.eas f act)) := ⟨_, _, rfl⟩

theorem stsp_memOp : IsMemOp s h (.stsp h f) (addrSrc f) (dataSrcs f.data.toNat (sizeBytes f)) [] (fun s act => s.checkSpace .sp (sizeBytes f) (s.eas f act)) :=
  ⟨_, _, congrArg Host.Outcome.next (s.storeSpace_eq h (.stsp h f) f .sp)⟩

theorem atom_memOp (v : BitVec 5) : IsMemOp s h (.atom h v f) (addrSrc f) (dataSrcs f.data.toNat (if v.toNat = 7 then 2 * sizeBytes f else sizeBytes f)) (loadRegs f.data.toNat (sizeBytes f))
    (fun s act => s.checkG .atomic (sizeBytes f) (sizeBytes f) (s.eas f act)) := ⟨_, _, congrArg Host.Outcome.next (s.atomOp_eq h (.atom h v f) f v true)⟩

end MemOps

/-! ### The fields of memory instructions -/

theorem eas_eq (s : State) (h : Hdr) (f : FmtM) : s.eas f (s.active h) = addrs s h f := by
  unfold State.eas addrs addrOf State.ea
  simp only [BitVec.toNat_add]

theorem loadRegs_eq (f : FmtM) (n : Nat) : loadRegs f.data.toNat n = destRegs f n := by
  have same : (f.data.toNat = 0x1FE) = (f.data = 0x1FE) := propext ⟨fun e => BitVec.eq_of_toNat_eq e, fun e => by rw [e]; rfl⟩
  simp only [loadRegs, destRegs, same]

end Sys2Proof.Machine

namespace Sys2Proof.Proofs.MemoryCheck

open Sys2Proof.Machine Sys2Proof.Claims

theorem memoryChecks : MemoryChecks := by
  intro s k n l r untranslated ok
  have misaligns (q : Nat × Nat) (h : ok q) : misaligned n q = false := by simpa [misaligned] using h
  have translates (q : Nat × Nat) : untranslated q = s.untranslated q := by
    cases e : s.walk s.curCtx q.2 <;> simp only [untranslated, State.untranslated, e]
  have noMisaligned (aligned : ∀ q ∈ l, ok q) : l.find? (misaligned n) = none := find?_nowhere fun q hq => misaligns q (aligned q hq)
  have noFault (allowed : ∀ q ∈ l, s.accessFault k q.2 = false) : l.find? (fun p => s.accessFault k p.2) = none := find?_nowhere allowed
  have noAbsent (present : ∀ q ∈ l, untranslated q = false) : l.find? s.untranslated = none := find?_nowhere fun q hq => (translates q).symm.trans (present q hq)
  have noLock (free : ∀ q ∈ l, k = .load ∨ k = .element ∨ s.sourceLocked q.2 n = false) : (if k = .load || k = .element then none else l.find? (fun p => s.sourceLocked p.2 n)) = none := by
    split
    · rfl
    next writes =>
      simp only [Bool.or_eq_true, decide_eq_true_eq, not_or] at writes
      exact find?_nowhere fun q hq => ((free q hq).resolve_left writes.1).resolve_left writes.2
  refine ⟨fun a p b cut before bad => ?_, fun aligned => ⟨fun a p b cut before bad => ?_, fun allowed => ⟨fun a p b cut before absent => ?_, fun present =>
    ⟨fun a p b cut notLoad notElement before locked => ?_, fun free => ⟨fun a p b cut before watched => ?_, fun quiet => ?_⟩⟩⟩⟩, fun va small out => ?_, fun va large => ?_, fun e => ?_⟩
  · exact s.checkG_misaligned (find?_first cut (fun q hq => misaligns q (before q hq)) (by simpa [misaligned] using bad))
  · exact s.checkG_access (noMisaligned aligned) (find?_first (f := fun p => s.accessFault k p.2) cut before bad)
  · exact s.checkG_parks (noMisaligned aligned) (noFault allowed) (find?_first cut (fun q hq => (translates q).symm.trans (before q hq)) ((translates p).symm.trans absent))
  · exact s.checkG_locked (noMisaligned aligned) (noFault allowed) (noAbsent present) ⟨notLoad, notElement⟩ (find?_first (f := fun p => s.sourceLocked p.2 n) cut before locked)
  · exact s.checkG_watched (noMisaligned aligned) (noFault allowed) (noAbsent present) (noLock free) (find?_first (f := fun p => s.watched k p.2 n) cut before watched)
  · refine ⟨_, s.checkG_ok (noMisaligned aligned) (noFault allowed) (noAbsent present) (noLock free) (find?_nowhere quiet), ?_⟩
    exact s.translated_spec fun p hp => s.walk_ok (allowed p hp) ((translates p).symm.trans (present p hp))
  · have low : decide (va ≥ 2 ^ 57) = false := decide_eq_false (not_le.2 small)
    cases e : s.walk s.curCtx va <;> simp only [State.accessFault, low, out, e, Bool.false_or]
  · rw [State.accessFault, decide_eq_true large]
    rfl
  · cases k <;> simp only [forbids, leafR, leafW, leafWindow, bit_eq_testBit]

theorem memoryFaults : MemoryFaults := by
  intro s h v f n act acts
  have of {addr : Src} {data : List Src} {dsts : List Nat} (first : First s) (ready : Ready s act (addr :: data) dsts []) {i : Instr} {check : State → BitVec 32 → MemChk}
      (op : IsMemOp s h i addr data dsts check) (known : ∀ code tv bad, check s act = .fault code tv bad → MemCode code) : acts (check s act) i := by
    obtain ⟨stay, k, run⟩ := op
    obtain ⟨stops, parks⟩ := memOp_acts first ready i stay k known
    exact ⟨fun code tv bad e => ⟨_, run, stops code tv bad e⟩, fun va e => ⟨_, run, parks va e⟩⟩
  have regs (ready : Ready s act [.pair f.addr.toNat] (destRegs f n) []) : Ready s act [addrSrc f] (loadRegs f.data.toNat n) [] := by
    rw [loadRegs_eq]
    exact ready
  rw [← eas_eq s h f]
  refine ⟨fun ⟨first, ready⟩ => ⟨?_, ?_⟩, fun ⟨first, ready⟩ => ⟨?_, ?_⟩, fun first ready other => ?_⟩
  · exact of first (regs ready) (ld_memOp s h f) fun _ _ _ => State.checkG_code
  · exact of first (regs ready) (ldsp_memOp s h f) fun _ _ _ => State.checkSpace_code
  · exact of first ready (st_memOp s h f) fun _ _ _ => State.checkG_code
  · exact of first ready (stsp_memOp s h f) fun _ _ _ => State.checkSpace_code
  · have width : (if v.toNat = 7 then 2 * sizeBytes f else sizeBytes f) = n := if_neg other
    refine of first ?_ (atom_memOp s h f v) fun _ _ _ => State.checkG_code
    rw [width]
    exact (loadRegs_eq f n).symm ▸ ready

/-- Settles O14. -/
theorem checksOfMemoryAccesses : Obligations.ChecksOfMemoryAccesses := ⟨memoryChecks, memoryFaults⟩

end Sys2Proof.Proofs.MemoryCheck
end

section
/-! SUPPORT. Kick pages (R372-R375): how a command completes, and what completes at once: the device queries, firmware images and identity (R376, R441-R445). -/

namespace Sys2Proof.Machine

open Sys2Proof.Claims

/-! ### A command completes (R372) -/

section Reply

variable {s : State} {p : BitVec 6} (free : (s.kick p).latched = none)
include free

theorem State.reply_answered (status : Nat) (res : List Byte) : s.reply p status res = answered s p status res := by
  rw [State.reply]
  simp only [free]
  unfold State.complete answered
  cases (s.kick p).irq <;> rfl

/-- R374: a command marked P outside page 0. -/
theorem State.admin_refused (k : State) (other : p ≠ 0) : s.admin p k = answered s p 6 [] := by
  rw [State.admin, if_pos other, State.reply_answered free]

end Reply

theorem State.admin_zero (s : State) (k : State) {p : BitVec 6} (zero : p = 0) : s.admin p k = k := by
  rw [State.admin, if_neg (not_not.2 zero)]

theorem answered_kick (s : State) (p : BitVec 6) (status : Nat) (res : List Byte) : (answered s p status res).kick p = replyOf (s.kick p) status res := tblGet_tblPut_self _ _ _ _

theorem State.modKick_self (s : State) (p : BitVec 6) (f : Kick → Kick) : (s.modKick p f).kick p = f (s.kick p) := tblGet_tblPut_self _ _ _ _

theorem State.modKick_other (s : State) {p q : BitVec 6} (f : Kick → Kick) (ne : q ≠ p) : (s.modKick p f).kick q = s.kick q :=
  tblGet_tblPut_other _ _ _ fun e => ne (BitVec.eq_of_toNat_eq e)

/-! ### A command is taken (R373) -/

/-- The page whose command has begun. -/
def Kick.begun (k : Kick) (v n : Nat) : Kick :=
  { k with seq := v, running := true, phase := 0, undo := [], stops := [], keep := none, irq := bit k.flags 0, taken := n, latched := none, args0 := tabBytes k.args 0 (min k.argLen 2032), code0 := k.code, flags0 := k.flags, len0 := k.argLen }

theorem State.complete_other (s : State) {p q : BitVec 6} (seq status : Nat) (res : List Byte) (irq : Bool) (ne : q ≠ p) : (s.complete p seq status res irq).kick q = s.kick q := by
  unfold State.complete
  dsimp only
  split <;> exact s.modKick_other (fun k => { k with done := seq, status := status, resLen := (res.take 2032).length, result := res.take 2032, running := false, phase := 0 }) ne

/-- What taking a command of a page leaves of another page. -/
theorem State.takeKick_other (s : State) {p q : BitVec 6} (v n : Nat) (ne : q ≠ p) : (s.takeKick p v n).kick q = s.kick q := by
  unfold State.takeKick
  dsimp only
  split
  · rw [State.complete_other _ _ _ _ _ ne, State.modKick_other _ _ ne]
  · exact s.modKick_other (fun k => k.begun v n) ne

/-- The state in which a page holds the next sequence value: its command runs. -/
theorem State.takeKick_next (s : State) (p : BitVec 6) {v : Nat} (n : Nat) (next : v = ((s.kick p).done + 1) % 2 ^ 64) : (s.takeKick p v n).kick p = (s.kick p).begun v n := by
  rw [State.takeKick, if_neg (not_not.2 next)]
  exact s.modKick_self p fun k => k.begun v n

/-- What taking commands changes. -/
def KickFrame (s t : State) : Prop := t = { s with kicks := t.kicks, timers := t.timers, agenda := t.agenda, fresh := t.fresh, msix := t.msix }

theorem KickFrame.trans {s t u : State} (h : KickFrame s t) (k : KickFrame t u) : KickFrame s u := by
  unfold KickFrame at *
  rw [k, h]

theorem KickFrame.keeps {s t : State} (h : KickFrame s t) : t.mem = s.mem ∧ t.fw = s.fw := by
  unfold KickFrame at h
  rw [h]
  exact ⟨rfl, rfl⟩

theorem State.takeKick_frame (s : State) (p : BitVec 6) (v n : Nat) : KickFrame s (s.takeKick p v n) := by
  unfold State.takeKick State.complete
  dsimp only
  split
  · split <;> rfl
  · rfl

theorem State.takeHeld_frame (s : State) (p : Nat) (k : Kick) : KickFrame s (s.takeHeld p k) := by
  unfold State.takeHeld
  split
  · rfl
  · have first (f : Kick → Kick) : KickFrame s (s.modKick (BitVec.ofNat 6 p) f) := rfl
    exact (first _).trans (State.takeKick_frame _ _ _ _)

theorem takeHelds_frame (l : List (Nat × Kick)) (s : State) : KickFrame s (l.foldl (fun t k => t.takeHeld k.1 k.2) s) := by
  induction l generalizing s with
  | nil => exact rfl
  | cons a r ih => exact (s.takeHeld_frame a.1 a.2).trans (ih _)

theorem State.takeHeld_other (s : State) {p : Nat} (k : Kick) {q : BitVec 6} (ne : q ≠ BitVec.ofNat 6 p) : (s.takeHeld p k).kick q = s.kick q := by
  unfold State.takeHeld
  split
  · rfl
  · dsimp only
    rw [State.takeKick_other _ _ _ ne, State.modKick_other _ _ ne]

theorem takeHelds_other (l : List (Nat × Kick)) (s : State) {q : BitVec 6} (others : ∀ x ∈ l, q ≠ BitVec.ofNat 6 x.1) : (l.foldl (fun t k => t.takeHeld k.1 k.2) s).kick q = s.kick q := by
  induction l generalizing s with
  | nil => rfl
  | cons a r ih => rw [List.foldl_cons, ih _ fun x hx => others x (List.mem_cons_of_mem _ hx), s.takeHeld_other _ (others a List.mem_cons_self)]

/-- R444: a command that came meanwhile runs. -/
theorem State.takeHeld_next (s : State) (p : Nat) {k : Kick} {v : Nat} (held : k.latched = some v) (next : v = (k.seq + 1) % 2 ^ 64) :
    ((s.takeHeld p k).kick (BitVec.ofNat 6 p)).running = true ∧ ((s.takeHeld p k).kick (BitVec.ofNat 6 p)).seq = v ∧ ((s.takeHeld p k).kick (BitVec.ofNat 6 p)).code0 = k.code := by
  have page := s.modKick_self (BitVec.ofNat 6 p) (fun _ => { code := k.code, flags := k.flags, argLen := k.argLen, args := k.args, done := k.seq })
  unfold State.takeHeld
  rw [held]
  dsimp only
  rw [State.takeKick_next _ _ _ (by rw [page]; exact next), page]
  exact ⟨rfl, rfl, rfl⟩

/-- Of pages in order, each once, the command of one runs once all have been taken. -/
theorem takeHelds_next (l : List (Nat × Kick)) (sorted : tblSorted l = true) (small : ∀ x ∈ l, x.1 < 64) (s : State) {q : BitVec 6} {k : Kick} {v : Nat} (here : tblFind l q.toNat = some k)
    (held : k.latched = some v) (next : v = (k.seq + 1) % 2 ^ 64) :
    let t := l.foldl (fun t k => t.takeHeld k.1 k.2) s
    (t.kick q).running = true ∧ (t.kick q).seq = v ∧ (t.kick q).code0 = k.code := by
  induction l generalizing s with
  | nil => cases here
  | cons a r ih =>
    obtain ⟨j, y⟩ := a
    rw [tblFind] at here
    rw [List.foldl_cons]
    split at here
    next e =>
      cases here
      have page : q = BitVec.ofNat 6 j := by rw [e, BitVec.ofNat_toNat, BitVec.setWidth_eq]
      intro t
      have stays : t.kick q = (s.takeHeld j k).kick q := takeHelds_other _ _ ?_
      · rw [stays, page]
        exact s.takeHeld_next j held next
      · intro x hx same
        have above := tblSorted_below sorted x hx
        have low := small x (List.mem_cons_of_mem _ hx)
        have : q.toNat = x.1 := by rw [same, BitVec.toNat_ofNat, Nat.mod_eq_of_lt (by omega)]
        omega
    next => exact ih (tblSorted_tail sorted) (fun x hx => small x (List.mem_cons_of_mem _ hx)) _ here

end Sys2Proof.Machine

namespace Sys2Proof.Proofs.Queries

open Sys2Proof.Machine Sys2Proof.Claims

theorem columnKind_byte (i : Nat) : leBytes 1 (columnKind i) = [if i < 80 then 0 else if i < 112 then 1 else if i < 116 then 2 else 3] := by
  unfold columnKind
  split
  · rfl
  · split
    · rfl
    · split <;> rfl

theorem deviceQueries : DeviceQueries := by
  intro s p a free ok bad
  have good (l : List Byte) : (Host.Outcome.next (s.reply p 0 l) : Host.Outcome State Fault Refusal) = ok l := congrArg Host.Outcome.next (State.reply_answered free 0 l)
  have refuse : (Host.Outcome.next (s.reply p 2 []) : Host.Outcome State Fault Refusal) = bad := congrArg Host.Outcome.next (State.reply_answered free 2 [])
  have choose (c d : Prop) [Decidable c] [Decidable d] (l : List Byte) (same : c ↔ ¬ d) :
      (Host.Outcome.next (if c then s.reply p 2 [] else s.reply p 0 l) : Host.Outcome State Fault Refusal) = if d then ok l else bad := by
    by_cases h : d
    · rw [if_neg (fun e => same.1 e h), if_pos h]
      exact good l
    · rw [if_pos (same.2 h), if_neg h]
      exact refuse
  have upTo (n : Nat) : a.toNat > n ↔ ¬ a.toNat ≤ n := not_le.symm
  refine ⟨good _, choose _ _ _ Iff.rfl, choose _ _ _ (upTo 255), choose _ _ _ (upTo 255), ?_, ?_, choose _ _ _ (upTo 255), choose _ _ _ not_lt.symm⟩
  · simp only [← columnKind_byte]
    exact choose _ _ _ (upTo 3)
  · by_cases h : busBad a false = true
    · rw [if_pos h]
      exact (congrArg Host.Outcome.next (if_pos h)).trans refuse
    · rw [if_neg h]
      have stack : busStack a = a.toNat % 16 := by rw [busStack, bits, Nat.pow_zero, Nat.div_one]; rfl
      have bus : busNo a = a.toNat / 2 ^ 8 % 64 := rfl
      rw [← stack, ← bus]
      exact (congrArg Host.Outcome.next (if_neg h)).trans (good _)

/-- R443: an image that lies in memory, and what its signature and its security version decide. -/
theorem imageVerify_decides {s : State} {p : BitVec 6} (free : (s.kick p).latched = none) (zero : p = 0) (image len sig : Long) (short : len.toNat ≤ 2 ^ 24) (inside : deviceRange image.toNat len.toNat = true)
    (insideSig : deviceRange sig.toNat 1280 = true) :
    let b := memBytes s.mem image.toNat len.toNat
    let m := Config.shake256 b
    let v := Config.imageSecurityVersion b
    exec (.imageVerify p image len sig) s = .next (
      if Config.falconVerify m (memBytes s.mem sig.toNat 1280) = true ∧ s.fusedMin.toNat ≤ v.toNat then
        answered { s with fw := { s.fw with verified := some (m, v, Config.imageVersion b) } } p 0 (leBytes 64 m.toNat ++ leBytes 4 v.toNat)
      else answered s p 8 []) := by
  intro b m v
  show execImageVerify p image len sig s = _
  rw [execImageVerify]
  refine congrArg Host.Outcome.next ?_
  have both : (!deviceRange image.toNat len.toNat || !deviceRange sig.toNat 1280) = false := by rw [inside, insideSig]; rfl
  rw [s.admin_zero _ zero, if_neg (not_lt.2 short)]
  refine (if_neg (show ¬ (!deviceRange image.toNat len.toNat || !deviceRange sig.toNat 1280) = true by rw [both]; decide)).trans ?_
  have verdict : (!Config.falconVerify m (memBytes s.mem sig.toNat 1280) || decide (v.toNat < s.fusedMin.toNat)) = true ↔
      ¬ (Config.falconVerify m (memBytes s.mem sig.toNat 1280) = true ∧ s.fusedMin.toNat ≤ v.toNat) := by
    rw [Bool.or_eq_true, Bool.not_eq_true', decide_eq_true_eq, not_and_or, Bool.not_eq_true, not_le]
  by_cases h : Config.falconVerify m (memBytes s.mem sig.toNat 1280) = true ∧ s.fusedMin.toNat ≤ v.toNat
  · rw [if_pos h]
    refine (if_neg fun e => verdict.1 e h).trans (State.reply_answered ?_ _ _)
    exact free
  · rw [if_neg h]
    exact (if_pos (verdict.2 h)).trans (State.reply_answered free 8 [])

/-- R444: firmware with a new image, before the commands that came meanwhile are taken. -/
def restarted (s : State) (im : BitVec 512 × Word × Long) (page : BitVec 6) : State :=
  let s1 := { s with fw := { verified := none, running := some im, fused := some (if im.2.1.toNat > s.fusedMin.toNat then im.2.1 else s.fusedMin) }, kicks := [], timers := s.timers.filter (fun t => match t.ev with | .commandTimeout _ => false | _ => true), agenda := s.agenda.filter (fun a => match a with | .command _ => false | _ => true) }
  if (s.kick page).irq then { s1 with msix := s1.msix ||| BitVec.ofNat 64 (2 ^ page.toNat) } else s1

theorem restarted_reads (s : State) (im : BitVec 512 × Word × Long) (p : BitVec 6) :
    (restarted s im p).mem = s.mem ∧ (restarted s im p).kicks = [] ∧
      (restarted s im p).fw = { verified := none, running := some im, fused := some (if im.2.1.toNat > s.fusedMin.toNat then im.2.1 else s.fusedMin) } := by
  unfold restarted
  dsimp only
  split <;> exact ⟨rfl, rfl, rfl⟩

theorem takeHelds_nothing (l : List (Nat × Kick)) (s : State) (quiet : ∀ k ∈ l, k.2.latched = none) : l.foldl (fun t k => t.takeHeld k.1 k.2) s = s := by
  induction l generalizing s with
  | nil => rfl
  | cons a r ih =>
    have none : s.takeHeld a.1 a.2 = s := by rw [State.takeHeld, quiet a List.mem_cons_self]
    rw [List.foldl_cons, none, ih _ fun k hk => quiet k (List.mem_cons_of_mem _ hk)]

theorem imageActivate_runs (s : State) {p : BitVec 6} (zero : p = 0) {im : BitVec 512 × Word × Long} (verified : s.fw.verified = some im) (idle : ∀ c ∈ s.ctxs, c.2.st ≠ 1) :
    exec (.imageActivate p) s = .next (s.kicks.foldl (fun t k => t.takeHeld k.1 k.2) (restarted s im p)) := by
  have rest : ¬ s.ctxs.any (fun c => c.2.st = 1) = true := by
    rw [List.any_eq_true]
    rintro ⟨c, hc, h⟩
    exact idle c hc (of_decide_eq_true h)
  show execImageActivate p s = _
  rw [execImageActivate, s.admin_zero _ zero]
  simp only [verified]
  exact congrArg Host.Outcome.next (if_neg rest)

theorem imageActivate_refused {s : State} {p : BitVec 6} (free : (s.kick p).latched = none) (zero : p = 0) (why : s.fw.verified = none ∨ ∃ c ∈ s.ctxs, c.2.st = 1) :
    exec (.imageActivate p) s = .next (answered s p 4 []) := by
  show execImageActivate p s = _
  rw [execImageActivate, s.admin_zero _ zero]
  refine congrArg Host.Outcome.next ?_
  cases verified : s.fw.verified with
  | none => exact State.reply_answered free 4 []
  | some im =>
    obtain h | ⟨c, hc, h⟩ := why
    · rw [verified] at h
      cases h
    · exact (if_pos (List.any_eq_true.2 ⟨c, hc, decide_eq_true h⟩)).trans (State.reply_answered free 4 [])

theorem imagesAndIdentity : ImagesAndIdentity := by
  intro s p free
  have refused (k : State) (other : p ≠ 0) : (Host.Outcome.next (s.admin p k) : Host.Outcome State Fault Refusal) = .next (answered s p 6 []) := congrArg Host.Outcome.next (State.admin_refused free k other)
  refine ⟨fun other image len sig n => ⟨refused _ other, refused _ other, refused _ other, refused _ other⟩, fun zero => ⟨imageVerify_decides free zero,
    fun none => imageActivate_refused free zero (.inl none), fun im verified idle => ?_, fun _ started => imageActivate_refused free zero (.inr started), ?_, ?_⟩⟩
  · obtain ⟨mem, kicks, fw⟩ := restarted_reads s im p
    obtain ⟨sameMem, sameFw⟩ := (takeHelds_frame s.kicks (restarted s im p)).keeps
    have lands := @takeHelds_next s.kicks
    have quiet := takeHelds_nothing s.kicks (restarted s im p)
    refine ⟨_, imageActivate_runs s zero verified idle, ?_⟩
    generalize built : s.kicks.foldl (fun t k => t.takeHeld k.1 k.2) (restarted s im p) = t at *
    rw [fw] at sameFw
    have fused : t.fusedMin = if im.2.1.toNat > s.fusedMin.toNat then im.2.1 else s.fusedMin := by rw [State.fusedMin, sameFw]; rfl
    refine ⟨sameMem.trans mem, by rw [State.image, sameFw]; rfl, by rw [sameFw], ?_, ?_, ?_, fun k => (congrArg State.kicks (quiet k)).trans kicks, fun q k v sorted small here held next => built ▸ lands sorted small (restarted s im p) here held next⟩
    all_goals
      rw [fused]
      split
    · omega
    · omega
    · omega
    · omega
    · exact .inl rfl
    · exact .inr rfl
  · intro n r
    exact congrArg Host.Outcome.next ((s.admin_zero _ zero).trans (State.reply_answered free 0 _))
  · exact congrArg Host.Outcome.next ((s.admin_zero _ zero).trans (State.reply_answered free 0 _))

/-- Settles O51. -/
theorem queriesImagesAndIdentity : Obligations.QueriesImagesAndIdentity := ⟨deviceQueries, imagesAndIdentity⟩

end Sys2Proof.Proofs.Queries
end

section
/-! SUPPORT. The buffers of cores (R397): what writing bytes at their home slices changes, what the trace queues hold once they have been written, and the commands that arm and query (R416). -/

namespace Sys2Proof.Machine

open Sys2Proof.Claims

/-! ### Bytes are written at their home slices (R204) -/

/-- What writing bytes of a buffer changes: memory, the dies, invalidations, what is metered and the words that are bad. -/
def HomeFrame (s t : State) : Prop := t = { s with mem := t.mem, dies := t.dies, invals := t.invals, metered := t.metered, bad := t.bad, fresh := t.fresh }

theorem HomeFrame.trans {s t u : State} (h : HomeFrame s t) (k : HomeFrame t u) : HomeFrame s u := by
  unfold HomeFrame at *
  rw [k, h]

theorem HomeFrame.foldl {α : Type} (f : State → α → State) (one : ∀ s a, HomeFrame s (f s a)) (l : List α) (s : State) : HomeFrame s (l.foldl f s) := by
  induction l generalizing s with
  | nil => exact rfl
  | cons a r ih => exact (one s a).trans (ih _)

theorem State.moved_home (s : State) (pa : Nat) (launch : Option Nat) (n : Nat) : HomeFrame s (s.moved pa launch n) := by
  unfold State.moved State.movedAt
  refine HomeFrame.foldl _ (fun u key => ?_) _ s
  exact rfl

theorem State.touchL2_home (s : State) (die frame lo hi : Nat) (dirty : Bool) (hint : Nat) : HomeFrame s (s.touchL2 die frame lo hi dirty hint) := by
  unfold State.touchL2
  split
  · rfl
  · split <;> rfl

/-- A write that no lane of a group made. -/
theorem State.performWrite_home (s : State) (m : Msg) (id : Nat) (bytes : List (Nat × Byte)) (device : m.lanes = 0) (free : m.owners = []) : HomeFrame s (s.performWrite m id bytes) := by
  unfold State.performWrite
  dsimp only
  rw [if_pos device, if_neg (not_not.2 device), free, List.isEmpty_nil, if_pos rfl]
  simp only [device, decide_true, Bool.true_or, ↓reduceIte]
  refine (s.moved_home m.pa none bytes.length).trans ?_
  generalize s.moved m.pa none bytes.length = u
  generalize touched : State.touchL2 _ _ _ _ _ _ _ = x
  have home : HomeFrame u x := by
    rw [← touched]
    refine HomeFrame.trans ?_ (State.touchL2_home _ _ _ _ _ _ _)
    exact rfl
  exact home.trans rfl

theorem State.bufferWrite_home (s : State) (pa : Nat) (l : List Byte) : HomeFrame s (s.bufferWrite pa l) := by
  refine HomeFrame.foldl _ (fun s b => ?_) _ s
  have fresh : HomeFrame s s.tickFresh := rfl
  exact fresh.trans (State.performWrite_home _ _ _ _ rfl rfl)

/-! ### The trace queues are written (R397, R401) -/

/-- A trace once its queue has been written. -/
def Trace.drained (t : Trace) : Trace :=
  if t.queue.isEmpty then t
  else { t with queue := [], written := t.written + (t.queue.take (t.size - t.written)).length, lost := t.lost + (t.queue.length - (t.queue.take (t.size - t.written)).length) }

theorem Trace.drained_queue (t : Trace) : t.drained.queue = [] := by
  unfold Trace.drained
  split
  next h => exact List.isEmpty_iff.1 h
  · rfl

theorem Trace.drained_drained (t : Trace) : t.drained.drained = t.drained := by
  rw [Trace.drained.eq_1 t.drained, Trace.drained_queue]
  rfl

/-- R401: what is written, and what the buffer cannot take. -/
theorem Trace.drained_counts (t : Trace) :
    t.drained.ctx = t.ctx ∧ t.drained.written = t.written + min t.queue.length (t.size - t.written) ∧ t.drained.lost = t.lost + (t.queue.length - (t.size - t.written)) := by
  unfold Trace.drained
  split
  next h => simp [List.isEmpty_iff.1 h]
  · refine ⟨rfl, ?_, ?_⟩
    · rw [List.length_take, Nat.min_comm]
    · simp only [List.length_take]
      omega

/-- What writing the trace queues changes. -/
def DrainFrame (s t : State) : Prop := t = { s with mem := t.mem, dies := t.dies, invals := t.invals, metered := t.metered, bad := t.bad, fresh := t.fresh, cores := t.cores }

theorem DrainFrame.trans {s t u : State} (h : DrainFrame s t) (k : DrainFrame t u) : DrainFrame s u := by
  unfold DrainFrame at *
  rw [k, h]

theorem HomeFrame.drain {s t : State} (h : HomeFrame s t) : DrainFrame s t ∧ t.cores = s.cores := by
  unfold HomeFrame at h
  unfold DrainFrame
  constructor <;> rw [h]

/-- A core once its trace queue has been written. -/
def Core.drained (c : Sys2Proof.Machine.Core) : Sys2Proof.Machine.Core := { c with trace := c.trace.map Trace.drained }

theorem Core.drained_drained (c : Sys2Proof.Machine.Core) : c.drained.drained = c.drained := by
  unfold Core.drained
  cases c.trace with
  | none => rfl
  | some t => simp only [Option.map_some, t.drained_drained]

theorem State.drainTrace_frame (s : State) (c : Nat) : DrainFrame s (s.drainTrace c) := by
  unfold State.drainTrace
  split
  · rfl
  · split
    · rfl
    · exact (s.bufferWrite_home _ _).drain.1.trans rfl

theorem State.drainTrace_core (s : State) (c k : Nat) : (s.drainTrace c).core k = if k = c then (s.core c).drained else s.core k := by
  have same (h : (s.core c).drained = s.core c) : s.core k = if k = c then (s.core c).drained else s.core k := by
    split
    next e => rw [e, h]
    · rfl
  unfold State.drainTrace
  split
  next none =>
    refine same ?_
    rw [Core.drained, none]
    exact congrArg (fun t => { s.core c with trace := t }) none.symm
  next t trace =>
    split
    next empty =>
      refine same ?_
      rw [Core.drained, trace, Option.map_some, Trace.drained, if_pos empty]
      exact congrArg (fun t => { s.core c with trace := t }) trace.symm
    next full =>
      dsimp only
      have cores : ∀ j, (s.bufferWrite (t.base + t.written) (t.queue.take (t.size - t.written))).core j = s.core j := fun j => by rw [State.core, (s.bufferWrite_home _ _).drain.2]; rfl
      split
      next e =>
        rw [e, State.modCore_self, cores, Core.drained, trace, Option.map_some, Trace.drained, if_neg full]
      next ne => rw [State.modCore_other _ _ ne, cores]

theorem drainTraces_core (l : List Nat) (s : State) (k : Nat) : (l.foldl (fun s c => s.drainTrace c) s).core k = if k ∈ l then (s.core k).drained else s.core k := by
  induction l generalizing s with
  | nil => rw [if_neg List.not_mem_nil]; rfl
  | cons a r ih =>
    rw [List.foldl_cons, ih, s.drainTrace_core]
    by_cases e : k = a
    · subst e
      rw [if_pos rfl, if_pos List.mem_cons_self, Core.drained_drained, ite_self]
    · rw [if_neg e]
      simp only [List.mem_cons, e, false_or]

theorem State.drainAll_core (s : State) (k : Nat) : s.drainAll.core k = (s.core k).drained := by
  rw [State.drainAll, drainTraces_core]
  split
  · rfl
  next out =>
    have nowhere : s.core k = {} := by
      rw [State.core, tblGet]
      cases h : tblFind s.cores k with
      | none => rfl
      | some x => exact absurd (List.mem_map.2 ⟨_, mem_of_tblFind h, rfl⟩) out
    rw [nowhere]
    rfl

theorem State.drainAll_frame (s : State) : DrainFrame s s.drainAll := by
  unfold State.drainAll
  generalize s.cores.map (fun c => c.1) = l
  induction l generalizing s with
  | nil => exact rfl
  | cons a r ih => exact (s.drainTrace_frame a).trans (ih _)

/-- The tables that writing the trace queues leaves as they are. -/
theorem State.drainAll_keeps (s : State) : s.drainAll.kicks = s.kicks ∧ s.drainAll.ctxs = s.ctxs ∧ s.drainAll.idle = s.idle := by
  have frame := s.drainAll_frame
  unfold DrainFrame at frame
  rw [frame]
  exact ⟨rfl, rfl, rfl⟩


/-! ### A field of a record -/

theorem recAt_eq {w : Nat} (r : BitVec w) (o n : Nat) : r.toNat / 256 ^ o % 256 ^ n = recAt r o n := by
  rw [recAt, Nat.pow_mul, Nat.pow_mul]

theorem namedCores_one {core : Nat} (small : core < 320) : namedCores core = [core] := if_neg (by omega)

/-- A reply of status 0. -/
theorem State.reply_done {s : State} (t : State) {p : BitVec 6} (same : t.kick p = s.kick p) (free : (s.kick p).latched = none) (res : List Byte) :
    t.reply p 0 res = answered t p 0 res ∧ Done s (answered t p 0 res) p res := by
  refine ⟨State.reply_answered (by rw [same]; exact free) 0 res, ?_⟩
  rw [Done, answered_kick, same]

theorem State.drainAll_kick (s : State) (p : BitVec 6) : s.drainAll.kick p = s.kick p := by
  rw [State.kick, s.drainAll_keeps.1]
  rfl

theorem State.drainAll_ctx (s : State) (c : Nat) : s.drainAll.ctx c = s.ctx c := by
  rw [State.ctx, s.drainAll_keeps.2.1]
  rfl

/-- R397: a query. -/
theorem query_drained {s : State} {p : BitVec 6} (free : (s.kick p).latched = none) {c : Word} (small : c.toNat < 64) (l : State → List Byte) :
    (Host.Outcome.next (s.query p c l) : Host.Outcome State Fault Refusal) = drained s p (l s.drainAll) := by
  rw [State.query, if_neg (by omega), (State.reply_done s.drainAll (s.drainAll_kick p) free _).1]
  rfl

/-! ### Groups and their traces (R400) -/

theorem tblFind_map_at {α β : Type} (f : Nat × α → Nat × β) (key : ∀ p, (f p).1 = p.1) (t : Tbl α) (k : Nat) : tblFind (t.map f) k = (tblFind t k).map fun x => (f (k, x)).2 := by
  induction t with
  | nil => rfl
  | cons p r ih =>
    obtain ⟨j, x⟩ := p
    rw [List.map_cons, tblFind, tblFind, key]
    split
    next e => cases e; rfl
    · exact ih

theorem State.modTraces_group (s : State) (on : Nat → Bool) (f : TraceSt → TraceSt) {core slot : Nat} (low : slot < 128) (here : on core = true) (present : s.hasGroup core slot = true) :
    ((s.modTraces on f).group core slot).trace = f (s.group core slot).trace := by
  obtain ⟨g, found⟩ := Option.isSome_iff_exists.1 present
  have key : gkey core slot / 128 = core := by rw [gkey]; omega
  have reads : tblFind (s.modTraces on f).groups (gkey core slot) = some { g with trace := f g.trace } := by
    unfold State.modTraces
    dsimp only
    rw [tblFind_map_at _ (fun p => by split <;> rfl), found, Option.map_some, key, if_pos here]
  rw [State.group, State.group, tblGet, tblGet, reads, found]
  rfl

/-- R407: a trial's end leaves the page, memory, time and the progress counters. -/
theorem State.endTrial_reads (s : State) (p : BitVec 6) (c : Nat) :
    (s.endTrial c).kick p = s.kick p ∧ (s.endTrial c).mem = s.mem ∧ (s.endTrial c).tick = s.tick ∧ ((s.endTrial c).ctx c).progress = (s.ctx c).progress := by
  unfold State.endTrial
  dsimp only
  split
  · exact ⟨rfl, rfl, rfl, rfl⟩
  · have ended : (s.modCtx c fun c => { c with trial := none, trialEnd := c.progress }).ctx c = _ := s.modCtx_self c _
    refine ⟨rfl, rfl, rfl, ?_⟩
    exact (congrArg Ctx.progress ended :)

end Sys2Proof.Machine

namespace Sys2Proof.Proofs.Observe

open Sys2Proof.Machine Sys2Proof.Claims

theorem traceArm_arms {s : State} {p : BitVec 6} (free : (s.kick p).latched = none) {c : Word} {core : BitVec 16} {size : Word} {base : Long} (small : c.toNat < 64) (inRange : core.toNat < 320)
    (good : bufferOk size.toNat base.toNat = true) (device : deviceRange base.toNat size.toNat = true) (unmapped : s.someMaps base.toNat size.toNat = false) :
    ∃ t, exec (.traceArm p c core 1 size base) s = .next t ∧ Done s t p [] ∧ t.mem = s.mem ∧ (t.core core.toNat).trace = some { ctx := c.toNat, base := base.toNat, size := size.toNat } ∧
      ∀ slot, slot < 128 → s.hasGroup core.toNat slot = true → (t.group core.toNat slot).trace = {} := by
  have one : ¬ core = 0xFFFF := by
    intro e
    rw [e] at inRange
    exact absurd inRange (by decide)
  let armed := (s.modCore core.toNat fun k => { k with trace := some { ctx := c.toNat, base := base.toNat, size := size.toNat } }).modTraces [core.toNat].contains fun _ => {}
  have ran : exec (.traceArm p c core 1 size base) s = .next (armed.reply p 0 []) := by
    show execTraceArm p c core 1 size base s = _
    rw [execTraceArm, namedCores_one inRange]
    refine congrArg Host.Outcome.next ((if_neg ?_).trans ((if_neg (by decide)).trans ((if_neg ?_).trans ?_)))
    · simp [good, not_le.2 small, not_le.2 inRange]
    · rw [if_neg one, Nat.mul_one, device, unmapped]
      decide
    · simp only [if_neg one, List.foldl_cons, List.foldl_nil, Nat.add_zero]
      rfl
  obtain ⟨answer, done⟩ := State.reply_done (s := s) (p := p) armed rfl free []
  refine ⟨_, ran, ?_, ?_, ?_, ?_⟩
  all_goals rw [answer]
  · exact done
  · rfl
  · exact congrArg Core.trace (State.modCore_self s core.toNat fun k => { k with trace := some { ctx := c.toNat, base := base.toNat, size := size.toNat } })
  · intro slot low present
    exact State.modTraces_group (s.modCore core.toNat _) _ (fun _ => {}) low (by simp) present

theorem traceArm_disarms {s : State} {p : BitVec 6} (free : (s.kick p).latched = none) {c : Word} {core : BitVec 16} {size : Word} {base : Long} (small : c.toNat < 64) (inRange : core.toNat < 320)
    {x : Trace} (good : bufferOk size.toNat base.toNat = true) (trace : (s.core core.toNat).trace = some x) (mine : x.ctx = c.toNat) :
    ∃ t y, exec (.traceArm p c core 0 size base) s = .next t ∧ Done s t p [] ∧ (t.core core.toNat).trace = some y ∧ y.on = false ∧ y.queue = [] ∧
      y.written + y.lost = x.written + x.lost + x.queue.length := by
  let off := s.drainAll.modCore core.toNat fun k => { k with trace := k.trace.map fun t => if t.ctx = c.toNat then { t with on := false } else t }
  have ran : exec (.traceArm p c core 0 size base) s = .next (off.reply p 0 []) := by
    show execTraceArm p c core 0 size base s = _
    rw [execTraceArm, namedCores_one inRange]
    refine congrArg Host.Outcome.next ((if_neg ?_).trans ((if_pos rfl).trans ?_))
    · simp [good, not_le.2 small, not_le.2 inRange]
    · rfl
  obtain ⟨answer, done⟩ := State.reply_done (s := s) (p := p) off (s.drainAll_kick p) free []
  obtain ⟨ctx, written, lost⟩ := x.drained_counts
  refine ⟨_, { x.drained with on := false }, ran, ?_, ?_, rfl, x.drained_queue, ?_⟩
  · rw [answer]
    exact done
  · rw [answer]
    show (off.core core.toNat).trace = _
    rw [State.modCore_self, s.drainAll_core, Core.drained, trace]
    simp only [Option.map_some, ctx, mine, ↓reduceIte]
  · show x.drained.written + x.drained.lost = _
    rw [written, lost]
    omega

theorem samplerArm_runs {s : State} {p : BitVec 6} (free : (s.kick p).latched = none) (r : BitVec 224) :
    let c := recAt r 0 4
    let core := recAt r 4 2
    let size := recAt r 0x18 4
    let base := recAt r 0x10 8
    c < 64 → core < 320 → recAt r 7 1 < 8 → recAt r 6 1 % 16 ≠ 0 → 16 ≤ recAt r 8 4 → recAt r 8 4 ≤ 65535 → bufferOk size base = true → 1 ≤ recAt r 0xC 4 →
    recAt r 0xC 4 ≤ size / 16 →
    ((recAt r 7 1).testBit 2 = false → deviceRange base size = true → s.someMaps base size = false → ∃ t m, exec (.samplerArm p r) s = .next t ∧ Done s t p [] ∧ t.mem = s.mem ∧
        tblFind (t.core core).samplers c = some m ∧ m.on = true ∧ m.mask = recAt r 6 1 ∧ m.period = recAt r 8 4 ∧ m.capacity = recAt r 0xC 4 ∧ m.base = base ∧
        m.atMark = (recAt r 7 1).testBit 0 ∧ m.started = !(recAt r 7 1).testBit 0 ∧ m.stopEmpty = (recAt r 7 1).testBit 1 ∧ m.written = 0 ∧ m.dropped = 0 ∧
        m.next = (s.core core).cycles + recAt r 8 4) ∧
    ((recAt r 7 1).testBit 2 = true → ∃ t, exec (.samplerArm p r) s = .next t ∧ Done s t p [] ∧
      ∀ m, tblFind (t.core core).samplers c = some m → m.on = false) := by
  intro c core size base small inRange flags mask low high good room fits
  have one : ¬ core = 0xFFFF := by omega
  have valid : ¬ (decide (c ≥ 64) || (decide (core ≥ 320) && decide (core ≠ 0xFFFF)) || decide (recAt r 7 1 ≥ 8) || decide (recAt r 6 1 % 16 = 0) || decide (recAt r 8 4 < 16) || decide (recAt r 8 4 > 65535) ||
      !bufferOk size base || decide (recAt r 0xC 4 = 0) || decide (recAt r 0xC 4 > size / 16)) = true := by
    simp [good, not_le.2 small, not_le.2 inRange, not_le.2 flags, mask, low, high, fits, Nat.ne_of_gt room]
  have run : exec (.samplerArm p r) s = execSamplerArm p r s := rfl
  simp only [execSamplerArm, recAt_eq] at run
  refine ⟨fun arm device unmapped => ?_, fun disarm => ?_⟩
  · let m : Sampler := { mask := recAt r 6 1, atMark := bit (recAt r 7 1) 0, stopEmpty := bit (recAt r 7 1) 1, period := recAt r 8 4, capacity := recAt r 0xC 4, base := base, size := size, started := !bit (recAt r 7 1) 0, next := (s.core core).cycles + recAt r 8 4 }
    let armed := s.modCore core fun k => { k with samplers := tblPut k.samplers c { m with next := k.cycles + recAt r 8 4 } }
    obtain ⟨answer, done⟩ := State.reply_done (s := s) (p := p) armed rfl free []
    refine ⟨answered armed p 0 [], m, ?_, done, rfl, ?_, rfl, rfl, rfl, rfl, rfl, bit_eq_testBit _ _, congrArg (! ·) (bit_eq_testBit _ _), bit_eq_testBit _ _, rfl, rfl, rfl⟩
    · refine run.trans (congrArg Host.Outcome.next ((if_neg valid).trans ((if_neg ?_).trans ((if_neg ?_).trans ?_))))
      · rw [bit_eq_testBit, arm]
        decide
      · rw [if_neg one, Nat.mul_one, device, unmapped]
        decide
      · rw [← answer, namedCores_one inRange]
        simp only [show ¬ recAt r 4 2 = 0xFFFF from one, ↓reduceIte, List.foldl_cons, List.foldl_nil, Nat.add_zero]
        rfl
    · show tblFind (armed.core core).samplers c = _
      rw [State.modCore_self]
      exact tblFind_tblPut_self _ _ _
  · let off := s.drainAll.modCore core fun k => { k with samplers := k.samplers.map fun (q : Nat × Sampler) => if q.1 = c then (c, { q.2 with on := false, started := false, atMark := false }) else q }
    obtain ⟨answer, done⟩ := State.reply_done (s := s) (p := p) off (s.drainAll_kick p) free []
    refine ⟨answered off p 0 [], ?_, done, fun m found => ?_⟩
    · refine run.trans (congrArg Host.Outcome.next ((if_neg valid).trans ((if_pos ?_).trans ?_)))
      · rw [bit_eq_testBit, disarm]
      · rw [← answer, namedCores_one inRange]
        rfl
    · replace found : tblFind (off.core core).samplers c = some m := found
      rw [State.modCore_self, tblFind_map_at _ (fun q => by split; exacts [Eq.symm ‹_›, rfl])] at found
      obtain ⟨x, _, e⟩ := Option.map_eq_some_iff.1 found
      rw [if_pos rfl] at e
      rw [← e]

theorem trialArm_runs {s : State} {p : BitVec 6} (free : (s.kick p).latched = none) (r : BitVec 224) :
    let c := recAt r 0 4
    let ticks := 1100 * recAt r 24 4
    c < 64 → recAt r 4 2 < 320 → 1 ≤ recAt r 6 1 → recAt r 6 1 ≤ 64 → recAt r 7 1 = 0 → recAt r 8 8 < recAt r 16 8 → 10 ≤ recAt r 24 4 → recAt r 24 4 ≤ 1000000 →
      ∃ t, exec (.trialArm p r) s = .next t ∧ Done s t p [] ∧ t.mem = s.mem ∧ (t.ctx c).trialStart = (s.ctx c).progress ∧ (t.ctx c).trialHeld = 0 ∧
        (t.ctx c).trial = some { core := recAt r 4 2, delay := recAt r 6 1, lo := recAt r 8 8, hi := recAt r 16 8, ends := s.tick + ticks } ∧
        ⟨0, s.tick + ticks, .trialEnd c⟩ ∈ t.timers := by
  intro c ticks small inRange low high zero ordered least most
  have valid : ¬ (decide (c ≥ 64) || (decide (recAt r 4 2 ≥ 320) && decide (recAt r 4 2 ≠ 0xFFFF)) || decide (recAt r 6 1 = 0) || decide (recAt r 6 1 > 64) || decide (recAt r 7 1 ≠ 0) || decide (recAt r 8 8 ≥ recAt r 16 8) ||
      decide (recAt r 24 4 < 10) || decide (recAt r 24 4 > 1000000)) = true := by
    simp [not_le.2 small, not_le.2 inRange, Nat.ne_of_gt low, high, zero, not_le.2 ordered, least, most]
  have run : exec (.trialArm p r) s = execTrialArm p r s := rfl
  simp only [execTrialArm, recAt_eq] at run
  obtain ⟨kick, mem, tick, progress⟩ := s.endTrial_reads p c
  let x : Trial := { core := recAt r 4 2, delay := recAt r 6 1, lo := recAt r 8 8, hi := recAt r 16 8, ends := s.tick + ticks }
  have whole : recAt r 24 4 * Config.ticksPerMicrosecond = ticks := Nat.mul_comm _ _
  let armed := ((s.endTrial c).modCtx c fun c => { c with trial := some x, trialStart := c.progress, trialHeld := 0 }).inTicks ticks (.trialEnd c)
  obtain ⟨answer, done⟩ := State.reply_done (s := s) (p := p) armed kick free []
  have ctx : armed.ctx c = { (s.endTrial c).ctx c with trial := some x, trialStart := ((s.endTrial c).ctx c).progress, trialHeld := 0 } :=
    (s.endTrial c).modCtx_self c fun c => { c with trial := some x, trialStart := c.progress, trialHeld := 0 }
  refine ⟨answered armed p 0 [], ?_, done, mem, ?_, ?_, ?_, ?_⟩
  · refine run.trans (congrArg Host.Outcome.next ((if_neg valid).trans ?_))
    rw [whole, ← answer]
  · exact (congrArg Ctx.trialStart ctx).trans progress
  · exact congrArg Ctx.trialHeld ctx
  · exact congrArg Ctx.trial ctx
  · have due : (⟨0, s.tick + ticks, .trialEnd c⟩ : Timer) ∈ armed.timers := by
      rw [← tick]
      exact List.mem_append_right _ List.mem_cons_self
    exact List.mem_filter.2 ⟨due, decide_eq_true fun e => nomatch e⟩

/-- Settles O50. -/
theorem observeCommands : Obligations.ObserveCommands := by
  intro s p free
  refine ⟨fun c core size base small inRange => ⟨traceArm_arms free small inRange, fun x => traceArm_disarms free small inRange⟩, samplerArm_runs free, trialArm_runs free, ?_⟩
  intro c small x sixteen account
  refine ⟨(query_drained free small _).trans ?_, (query_drained free small _).trans ?_, (query_drained free small _).trans ?_, (query_drained free small _).trans ?_, ?_⟩
  · rw [s.drainAll_ctx]
    rfl
  · rw [s.drainAll_ctx]
    rfl
  · simp only [s.drainAll_ctx, s.drainAll_keeps.2.2]
    rfl
  · simp only [s.drainAll_core, Core.drained] <;> rfl
  · let count (k : Nat) : Nat × Nat := match (s.drainAll.core k).trace with
      | some t => if t.ctx = c.toNat then (t.written, t.lost) else (0, 0)
      | none => (0, 0)
    refine ⟨answered s.drainAll p 0 (Config.perCoreCounts ((List.range 320).map count)), (List.range 320).map count, query_drained free small _, ?_, by rw [List.length_map, List.length_range],
      fun k y low trace mine => ?_⟩
    · rw [Done, answered_kick, s.drainAll_kick]
    · obtain ⟨ctx, written, lost⟩ := y.drained_counts
      have here : (s.drainAll.core k).trace = some y.drained := by rw [s.drainAll_core, Core.drained, trace]; rfl
      rw [List.getD_eq_getElem?_getD, List.getElem?_map, List.getElem?_range low]
      show count k = _
      simp only [count, here, ctx, mine, ↓reduceIte, written, lost]

end Sys2Proof.Proofs.Observe
end

section
/-! SUPPORT. What leaves the kick pages as they are, and the context commands (R375). -/

namespace Sys2Proof.Machine

open Sys2Proof.Claims

/-! ### The kick pages stand -/

/-- A part of the state that each step of a fold leaves stands after it. -/
theorem foldl_same {α β : Type} (part : State → β) {f : State → α → State} (one : ∀ s a, part (f s a) = part s) (l : List α) (s : State) : part (l.foldl f s) = part s := by
  induction l generalizing s with
  | nil => rfl
  | cons a r ih => exact (ih _).trans (one s a)

theorem HomeFrame.kicks {s t : State} (h : HomeFrame s t) : t.kicks = s.kicks := by
  unfold HomeFrame at h
  rw [h]

theorem State.noteWalks_kicks (s : State) (ctx : Nat) (l : List Nat) : (s.noteWalks ctx l).kicks = s.kicks := by
  unfold State.noteWalks
  refine foldl_same State.kicks (fun u va => ?_) l s
  cases u.walk ctx va <;> simp

theorem State.deviceWrite_kicks (s : State) (ctx die va : Nat) (bytes : List Byte) : (s.deviceWrite ctx die va bytes).kicks = s.kicks := by
  unfold State.deviceWrite
  split
  · split
    · rfl
    · refine (State.performWrite_home _ _ _ _ rfl rfl).kicks.trans ?_
      split <;> rfl
  · rfl

theorem State.writeStatus_kicks (s : State) (ctx die va status : Nat) (rest : List Byte) : (s.writeStatus ctx die va status rest).kicks = s.kicks := by
  unfold State.writeStatus
  split
  · rfl
  · split
    · exact s.deviceWrite_kicks _ _ _ _
    · exact s.noteWalks_kicks _ _

theorem State.accept_kicks (s : State) (u : Submit) : (s.accept u).2.kicks = s.kicks := by
  unfold State.accept
  extract_lets b k v rs
  have same : v.kicks = s.kicks := s.noteWalks_kicks _ _
  clear_value v rs
  split
  · simp only [State.writeStatus_kicks, same]
  · simp only [State.writeStatus_kicks]
    refine Eq.trans (foldl_same State.kicks (fun w x => ?_) _ _) same
    split <;> rfl

theorem State.now_foldl {α : Type} (ev : α → Instr) (l : List α) (s : State) : ∃ a, l.foldl (fun s r => s.now (ev r)) s = { s with agenda := a } := by
  induction l generalizing s with
  | nil => exact ⟨s.agenda, rfl⟩
  | cons r rest ih => exact ih _

theorem State.announceResetHalt_kicks (s : State) (d x : Nat) : (s.announceResetHalt d x).kicks = s.kicks := by
  unfold State.announceResetHalt
  exact foldl_same State.kicks (f := fun s c => s.inTicks _ (.resetHaltArrival x c)) (fun _ _ => rfl) _ s

theorem State.reset1_kicks (s : State) {x : Nat} (reason : Nat) (stop : Bool) (started : (s.ctx x).st = 1) : (s.reset1 x reason stop).kicks = s.kicks := by
  have begun : (s.resetBegun x reason stop).kicks = s.kicks := rfl
  have halts := foldl_same State.kicks (f := fun s d => s.announceResetHalt d x) (fun s d => s.announceResetHalt_kicks d x) (List.range 4) (s.resetBegun x reason stop)
  rw [s.reset1_eq reason stop started]
  generalize (List.range 4).foldl (fun s d => s.announceResetHalt d x) (s.resetBegun x reason stop) = t at halts ⊢
  split <;> exact halts.trans begun

theorem State.started_passes {s : State} {p : BitVec 6} {c : Word} (small : c.toNat < 64) (started : (s.ctx c.toNat).st = 1) (k : State) : s.started p c k = k := by
  rw [State.started, if_neg (by omega), if_neg (not_not.2 started)]

end Sys2Proof.Machine

namespace Sys2Proof.Proofs.ContextCommands

open Sys2Proof.Machine Sys2Proof.Claims

theorem contextStart_starts {s : State} {p : BitVec 6} (free : (s.kick p).latched = none) (r : BitVec 1024) (good : ctxRecBad r = false) (zero : p = 0) :
    let n := recAt r 0 4 % 64
    let quota (h : Nat) : Nat := recAt r (0x40 + 4 * h) 4
    let ds (d : Nat) : Nat := recAt r (0x38 + 2 * d) 2
    (s.ctx n).st = 0 → deviceRange (recAt r 8 8) 1 = true → (recAt r 0x18 8 = 0 ∨ deviceRange (recAt r 0x10 8) (recAt r 0x18 8) = true) →
    (recAt r 0x28 4 = 0 ∨ deviceRange (recAt r 0x30 8) (64 * recAt r 0x28 4) = true ∧ s.someMaps (recAt r 0x30 8) (64 * recAt r 0x28 4) = false ∧
      tableMaps s.mem (recAt r 0x30 8) (64 * recAt r 0x28 4) 5 (recAt r 8 8) = false) → (∀ h, h < 12 → s.quotaSum h n + quota h ≤ 4194304) →
    (∀ d, d < 4 → s.dsTaken d + ds d ≤ 1024) → ∃ t, exec (.contextStart p r) s = .next t ∧ Done s t p [] ∧ t.mem = s.mem ∧ (∀ m, m ≠ n → t.ctx m = s.ctx m) ∧
      let y := t.ctx n
      y.st = 1 ∧ y.priv = (recAt r 0 4).testBit 8 ∧ y.debug = (recAt r 0 4).testBit 9 ∧ y.replay = (recAt r 0 4).testBit 10 ∧ y.pasid = recAt r 4 4 ∧ y.root = recAt r 8 8 ∧
      y.save = recAt r 0x10 8 ∧ y.saveSize = recAt r 0x18 8 ∧ y.debugVA = recAt r 0x20 8 ∧ y.layLen = recAt r 0x28 4 ∧ y.layPA = recAt r 0x30 8 ∧
      (∀ h, h < 12 → y.quota.getD h 0 = quota h) ∧ (∀ d, d < 4 → y.ds.getD d 0 = ds d) ∧ y.regions = [] ∧ y.bps = [] ∧ y.wps = [] ∧ y.idle = (s.ctx n).idle := by
  intro n quota ds off root save layout quotas scratch
  let c : Ctx := { st := 1, priv := bit (recAt r 0 4) 8, debug := bit (recAt r 0 4) 9, replay := bit (recAt r 0 4) 10, pasid := recAt r 4 4, root := recAt r 8 8, save := recAt r 0x10 8, saveSize := recAt r 0x18 8, debugVA := recAt r 0x20 8, layLen := recAt r 0x28 4, layPA := recAt r 0x30 8, ds := (List.range 4).map ds, quota := (List.range 12).map quota, idle := (s.ctx n).idle }
  let begun : State := { s with ctxs := tblPut s.ctxs n c }
  obtain ⟨answer, done⟩ := State.reply_done (s := s) (p := p) begun rfl free []
  have quotaAt (h : Nat) (low : h < 12) : c.quota.getD h 0 = quota h := by simp [c, low]
  have dsAt (d : Nat) (low : d < 4) : c.ds.getD d 0 = ds d := by simp [c, low]
  have ran : exec (.contextStart p r) s = .next (answered begun p 0 []) := by
    have run : exec (.contextStart p r) s = execContextStart p r s := rfl
    simp only [execContextStart, recField, recAt_eq] at run
    refine run.trans (congrArg Host.Outcome.next ((s.admin_zero _ zero).trans ((if_neg ?_).trans ((if_neg ?_).trans ((if_neg ?_).trans ((if_neg ?_).trans ?_))))))
    · rw [good]
      decide
    · exact not_not.2 off
    · rw [root]
      have save' : (decide (recAt r 0x18 8 ≠ 0) && !deviceRange (recAt r 0x10 8) (recAt r 0x18 8)) = false := by
        obtain h | h := save
        · rw [h]
          rfl
        · rw [h, Bool.not_true, Bool.and_false]
      have layout' : (decide (recAt r 0x28 4 ≠ 0) && (!deviceRange (recAt r 0x30 8) (64 * recAt r 0x28 4) || s.someMaps (recAt r 0x30 8) (64 * recAt r 0x28 4) ||
          tableMaps s.mem (recAt r 0x30 8) (64 * recAt r 0x28 4) 5 (recAt r 8 8))) = false := by
        obtain h | ⟨h, k, l⟩ := layout
        · rw [h]
          rfl
        · rw [h, k, l, Bool.not_true, Bool.or_false, Bool.or_false, Bool.and_false]
      rw [save', layout']
      decide
    · simp only [Bool.or_eq_true, List.any_eq_true, List.mem_range, decide_eq_true_eq, not_or, not_exists, not_and, not_lt]
      refine ⟨fun h low => ?_, fun d low => ?_⟩
      · exact (quotaAt h low).symm ▸ quotas h low
      · exact (dsAt d low).symm ▸ scratch d low
    · exact answer
  have here : (answered begun p 0 []).ctx n = c := tblGet_tblPut_self _ _ _ _
  refine ⟨answered begun p 0 [], ran, done, rfl, fun m ne => tblGet_tblPut_other _ _ _ ne, ?_⟩
  intro y
  have reads : y = c := here
  rw [reads]
  exact ⟨rfl, bit_eq_testBit _ _, bit_eq_testBit _ _, bit_eq_testBit _ _, rfl, rfl, rfl, rfl, rfl, rfl, rfl, quotaAt, dsAt, rfl, rfl, rfl, rfl⟩

/-- R359: a command that resets a context begins the reset. -/
theorem resetCommand_begins {s : State} {p : BitVec 6} {c : Word} (small : c.toNat < 64) (zero : p = 0) (new : (s.kick p).phase = 0) (started : (s.ctx c.toNat).st = 1) (reason : Nat) (stop : Bool) :
    let t := s.resetCommand p c reason stop
    t.mem = s.mem ∧ Pending s t p ∧ (t.ctx c.toNat).st = 2 ∧ (t.ctx c.toNat).reason = reason ∧ (t.ctx c.toNat).stopAfter = stop := by
  have begins : s.resetCommand p c reason stop = (s.reset1 c.toNat reason stop).notYet p 1 := by
    rw [State.resetCommand, s.admin_zero _ zero]
    exact (if_neg (by omega)).trans ((if_pos new).trans (if_neg (by omega)))
  intro t
  have built : t = (s.reset1 c.toNat reason stop).notYet p 1 := begins
  have ctx : t.ctx c.toNat = (s.resetBegun c.toNat reason stop).ctx c.toNat := by
    rw [built]
    exact congrFun (s.reset1_begun reason stop started).2.1 _
  have page : t.kick p = { s.kick p with phase := 1 } := by
    rw [built, State.notYet, State.modKick_self, State.kick, s.reset1_kicks reason stop started]
    rfl
  have begun : (s.resetBegun c.toNat reason stop).ctx c.toNat = { s.ctx c.toNat with st := 2, reason := reason, stopAfter := stop, resetCores := s.coresOfCtx c.toNat } := s.modCtx_self _ _
  refine ⟨?_, ⟨?_, ?_, ?_⟩, ?_, ?_, ?_⟩
  · rw [built]
    exact (s.reset1_mem _ _ _).1
  · rw [page]
    exact Nat.one_pos
  · rw [page]
  · rw [page]
  all_goals rw [ctx, begun]

/-- R359: the reset that the command began is over. -/
theorem resetCommand_ends {s : State} {p : BitVec 6} (free : (s.kick p).latched = none) {c : Word} (small : c.toNat < 64) (zero : p = 0) (old : (s.kick p).phase ≠ 0) (over' : (s.ctx c.toNat).st ≠ 2)
    (reason : Nat) (stop : Bool) : s.resetCommand p c reason stop = answered s p 0 [] := by
  rw [State.resetCommand, s.admin_zero _ zero]
  exact (if_neg (by omega)).trans ((if_neg old).trans ((if_neg over').trans (State.reply_answered free 0 [])))

/-- R375: what a root launch that has been accepted, or rejected for a reason, answers. -/
def rootAnswer (p : BitVec 6) : Option Nat × State → State
  | (some r, s) => s.reply p 0xB (leBytes 4 r)
  | (none, s) => s.reply p 0 (leBytes 4 0)

theorem rootLaunch_answers {s : State} {p : BitVec 6} (free : (s.kick p).latched = none) {c : Word} (small : c.toNat < 64) (va : Long) (started : (s.ctx c.toNat).st = 1) :
    (va.toNat % 256 ≠ 0 → exec (.rootLaunch p c va) s = .next (answered s p 2 [])) ∧
    (va.toNat % 256 = 0 → s.rootBad c.toNat va.toNat = true → exec (.rootLaunch p c va) s = .next (answered s p 0x0A [])) ∧
    (va.toNat % 256 = 0 → s.rootBad c.toNat va.toNat = false → s.launchCount c.toNat < 256 →
      let a := s.accept (rootSubmit c.toNat va.toNat)
      ∃ t, exec (.rootLaunch p c va) s = .next t ∧ t.mem = a.2.mem ∧ t.launches = a.2.launches ∧
        t.kick p = (match a.1 with
          | none => replyOf (s.kick p) 0 [0, 0, 0, 0]
          | some r => replyOf (s.kick p) 0x0B (leBytes 4 r))) := by
  have run := State.started_passes (p := p) small started
  refine ⟨fun odd => ?_, fun even bad => ?_, fun even good room => ?_⟩
  · exact congrArg Host.Outcome.next ((run _).trans ((if_pos odd).trans (State.reply_answered free 2 [])))
  · exact congrArg Host.Outcome.next ((run _).trans ((if_neg (not_not.2 even)).trans ((if_pos bad).trans (State.reply_answered free 0x0A []))))
  · intro a
    have kicks : a.2.kicks = s.kicks := s.accept_kicks _
    have page : a.2.kick p = s.kick p := by
      rw [State.kick, kicks]
      rfl
    have free' : (a.2.kick p).latched = none := by rw [page]; exact free
    have ran : exec (.rootLaunch p c va) s = .next (rootAnswer p a) :=
      congrArg Host.Outcome.next ((run _).trans ((if_neg (not_not.2 even)).trans ((if_neg (by rw [good]; decide)).trans ((if_neg (by exact not_le.2 room)).trans (rootAnswer.eq_def p _).symm))))
    clear_value a
    obtain ⟨o, t⟩ := a
    cases o with
    | none =>
      refine ⟨answered t p 0 (leBytes 4 0), ran.trans (congrArg Host.Outcome.next (State.reply_answered free' 0 _)), rfl, rfl, ?_⟩
      rw [answered_kick]
      exact congrArg (fun k => replyOf k 0 _) page
    | some r =>
      refine ⟨answered t p 0xB (leBytes 4 r), ran.trans (congrArg Host.Outcome.next (State.reply_answered free' 0xB _)), rfl, rfl, ?_⟩
      rw [answered_kick]
      exact congrArg (fun k => replyOf k 0xB _) page

theorem quotaSet_sets {s : State} {p : BitVec 6} (free : (s.kick p).latched = none) {c : Word} (small : c.toNat < 64) (home q : Word) (zero : p = 0) (started : (s.ctx c.toNat).st = 1) (isHome : home.toNat < 12)
    (low : q.toNat ≤ 4194304) (room : s.quotaSum home.toNat c.toNat + q.toNat ≤ 4194304) (held : s.slotCount c.toNat home.toNat ≤ q.toNat) :
    ∃ t, exec (.quotaSet p c home q) s = .next t ∧ Done s t p [] ∧ t.mem = s.mem ∧ (t.ctx c.toNat).quota.getD home.toNat 0 = q.toNat ∧
      ∀ h, h < 12 → h ≠ home.toNat → (t.ctx c.toNat).quota.getD h 0 = (s.ctx c.toNat).quota.getD h 0 := by
  let put := s.modCtx c.toNat fun x => { x with quota := ((List.range 12).map fun j => x.quota.getD j 0).set home.toNat q.toNat }
  obtain ⟨a, granted⟩ := State.now_foldl (fun r : LeaseReq => .leaseGrant r.core r.ctx home.toNat) ((put.home home.toNat).reqs.filter fun r => r.ctx = c.toNat) put
  obtain ⟨answer, done⟩ := State.reply_done (s := s) (p := p) { put with agenda := a } rfl free []
  have ctx : (answered { put with agenda := a } p 0 []).ctx c.toNat = put.ctx c.toNat := rfl
  refine ⟨answered { put with agenda := a } p 0 [], ?_, done, rfl, ?_, fun h isHome' other => ?_⟩
  · refine congrArg Host.Outcome.next ((s.admin_zero _ zero).trans ((if_neg ?_).trans ((State.started_passes small started _).trans ((if_neg ?_).trans ?_))))
    · simp [isHome, low]
    · simp [room, held]
    · rw [← answer, ← granted]
      rfl
  all_goals
    rw [ctx, State.modCtx_self]
  · simp [isHome]
  · simp [other.symm, isHome']

theorem runListEdit_writes {s : State} {p : BitVec 6} (free : (s.kick p).latched = none) (e : Word) (w : Long) (zero : p = 0) (low : e.toNat < 64)
    (limits : w.getLsbD 63 = true → w.toNat / 2 ^ 52 % 16 ≠ 0 ∧ 10 ≤ w.toNat / 2 ^ 32 % 2 ^ 20 ∧ w.toNat / 2 ^ 32 % 2 ^ 20 ≤ 1000000 ∧ 10 ≤ w.toNat % 2 ^ 32 ∧ w.toNat % 2 ^ 32 ≤ 1000000) :
    ∃ t, exec (.runListEdit p e w) s = .next t ∧ Done s t p [] ∧ t.mem = s.mem ∧ tblGet 0 t.runList e.toNat = w ∧ ∀ j, j ≠ e.toNat → tblGet 0 t.runList j = tblGet 0 s.runList j := by
  obtain ⟨answer, done⟩ := State.reply_done (s := s) (p := p) { s with runList := tblSet 0 s.runList e.toNat w } rfl free []
  refine ⟨answered { s with runList := tblSet 0 s.runList e.toNat w } p 0 [], ?_, done, rfl, tblGet_tblSet_self _ _ _ _, fun j ne => tblGet_tblSet_other _ _ _ ne⟩
  refine congrArg Host.Outcome.next ((s.admin_zero _ zero).trans ((if_neg ?_).trans answer))
  have top : bit w.toNat 63 = w.getLsbD 63 := bit_eq_testBit _ _
  have low' : bits w.toNat 31 0 = w.toNat % 2 ^ 32 := by rw [bits, Nat.pow_zero, Nat.div_one]
  have weight : bits w.toNat 55 52 = w.toNat / 2 ^ 52 % 16 := rfl
  have slice : bits w.toNat 51 32 = w.toNat / 2 ^ 32 % 2 ^ 20 := rfl
  rw [← low', ← weight, ← slice] at limits
  rw [top]
  cases valid : w.getLsbD 63 with
  | false => simp [low]
  | true =>
    obtain ⟨some', sliceLow, sliceHigh, limitLow, limitHigh⟩ := limits valid
    simp [low, some', sliceLow, sliceHigh, limitLow, limitHigh]

/-- Settles O47. -/
theorem contextCommands : Obligations.ContextCommands := by
  intro s p c free small x
  have refused (k : State) (other : p ≠ 0) : (Host.Outcome.next (s.admin p k) : Host.Outcome State Fault Refusal) = .next (answered s p 6 []) := congrArg Host.Outcome.next (State.admin_refused free k other)
  refine ⟨contextStart_starts free, fun r e w other => ⟨refused _ other, refused _ other, refused _ other, refused _ other, refused _ other⟩, fun zero new started => ⟨⟨_, rfl, ?_⟩, ⟨_, rfl, ?_⟩⟩,
    fun zero old ended => ⟨?_, ?_⟩, rootLaunch_answers free small, fun off => ?_, fun on => ?_, fun home q zero started => quotaSet_sets free small home q zero started, runListEdit_writes free⟩
  · exact resetCommand_begins small zero new started 2 true
  · exact resetCommand_begins small zero new started 4 false
  · exact congrArg Host.Outcome.next (resetCommand_ends free small zero old ended 2 true)
  · exact congrArg Host.Outcome.next (resetCommand_ends free small zero old ended 4 false)
  · exact congrArg Host.Outcome.next ((if_neg (by omega)).trans ((if_pos off).trans (State.reply_answered free 0 _)))
  · exact congrArg Host.Outcome.next ((if_neg (by omega)).trans ((if_neg on).trans (State.reply_answered free 0 _)))

end Sys2Proof.Proofs.ContextCommands
end

section
/-! SUPPORT. Translation entries, handovers, layout records and windows (R366-R369, R377, R379, R380). -/

namespace Sys2Proof.Machine

open Sys2Proof.Claims

/-! ### The kick pages stand -/

theorem Sends.kicks {s t : State} (h : Sends s t) : t.kicks = s.kicks := by
  unfold Sends at h
  rw [h]

theorem Sends.mem {s t : State} (h : Sends s t) : t.mem = s.mem := by
  unfold Sends at h
  rw [h]

theorem State.flushAll_sends (s : State) (ctx : Nat) : Sends s (s.flushAll ctx) := by
  unfold State.flushAll
  refine Sends.foldl (fun u d => ?_) s.dies s
  refine Sends.foldl (fun v p => ?_) _ u
  exact Sends.flushGather v d.1 p.1 []

theorem State.bufferWrite_kicks (s : State) (pa : Nat) (l : List Byte) : (s.bufferWrite pa l).kicks = s.kicks := (s.bufferWrite_home pa l).kicks

theorem State.purgeSpan_kicks (s : State) (ctx va n : Nat) : (s.purgeSpan ctx va n).kicks = s.kicks := by
  unfold State.purgeSpan
  refine foldl_same State.kicks (fun u p => ?_) _ s
  split <;> rfl

theorem State.wakeParked_kicks (s : State) : s.wakeParked.kicks = s.kicks := by
  unfold State.wakeParked
  refine foldl_same State.kicks (fun u p => foldl_same State.kicks (fun v w => ?_) _ u) _ s
  split <;> rfl

theorem State.invalidateL1_kicks (s : State) (ext : List (Nat × Nat)) (core : Nat) : (s.invalidateL1 ext core).kicks = s.kicks := by
  unfold State.invalidateL1
  refine foldl_same State.kicks (fun u fr => ?_) _ s
  unfold State.dropL1
  dsimp only
  split <;> rfl

/-! ### Entries are written -/

/-- R377: the leaves as a handover leaves them. -/
def handed (host : Bool) (m : List Host.Cell) (l : List (Nat × Nat × Nat)) : List Host.Cell := l.foldl (fun m x => memSetAll m (placed x.1 (leBytes 8 (leafOwned host x.2.1)))) m

theorem handed_mem (host : Bool) (l : List (Nat × Nat × Nat)) (s : State) :
    (l.foldl (fun s x => s.bufferWrite x.1 (leBytes 8 (leafOwned host x.2.1))) s).mem = handed host s.mem l := by
  induction l generalizing s with
  | nil => rfl
  | cons a r ih => rw [List.foldl_cons, ih, State.bufferWrite_mem]; rfl

/-- R377: a handover writes its leaves, and leaves the kick pages. -/
theorem State.flip_spec (s : State) (host : Bool) (l : List (Nat × Nat × Nat)) : (s.flip host l).mem = handed host s.mem l ∧ (s.flip host l).kicks = s.kicks := by
  have mem := handed_mem host l s
  have kicks := foldl_same State.kicks (f := fun s (x : Nat × Nat × Nat) => s.bufferWrite x.1 (leBytes 8 (leafOwned host x.2.1))) (fun s x => s.bufferWrite_kicks x.1 _) l s
  unfold State.flip
  extract_lets ext s1 flushed cleaned
  have sent : Sends s1 flushed := by
    refine Sends.foldl (fun u d => ?_) s1.dies s1
    refine Sends.foldl (fun v g => ?_) _ u
    exact Sends.flushGather v d.1 g.1 []
  have clean : cleaned.mem = s1.mem ∧ cleaned.kicks = s1.kicks := ⟨foldl_same State.mem (fun u c => (u.invalidateL1_mem ext c).1) _ s1, foldl_same State.kicks (fun u c => u.invalidateL1_kicks ext c) _ s1⟩
  clear_value cleaned flushed
  split
  · exact ⟨sent.mem.trans mem, sent.kicks.trans kicks⟩
  · exact ⟨((foldl_same State.mem (fun u d => (u.invalidateL2_mem ext false d).1) _ cleaned).trans clean.1).trans mem,
      ((foldl_same State.kicks (f := fun u d => u.invalidateL2 ext false d) (fun _ _ => rfl) _ cleaned).trans clean.2).trans kicks⟩

/-- The number at an address that writes of 8 bytes elsewhere leave. -/
theorem memNat_placed_apart (m : List Host.Cell) {a b x : Nat} (apart : a + 8 ≤ b ∨ b + 8 ≤ a) : memNat (memSetAll m (placed b (leBytes 8 x))) a 8 = memNat m a 8 := by
  have same : memBytes (memSetAll m (placed b (leBytes 8 x))) a 8 = memBytes m a 8 := by
    refine List.map_congr_left fun i hi => ?_
    rw [List.mem_range] at hi
    have out := memGet_memSetAll_placed (leBytes 8 x) m b (a + i)
    rw [leBytes_length, if_neg (by omega)] at out
    exact out
  exact congrArg leNat same

theorem leafOwned_lt (host : Bool) {e : Nat} (small : e < 2 ^ 64) : leafOwned host e < 256 ^ 8 := by
  unfold leafOwned bitNat
  split <;> omega

/-- Every leaf of a list, once or more in it, holds its value after all have been written. -/
theorem handed_holds (host : Bool) (l : List (Nat × Nat × Nat)) (m : List Host.Cell) (aligned : ∀ x ∈ l, x.1 % 8 = 0) (small : ∀ x ∈ l, x.2.1 < 2 ^ 64) {a e : Nat} (even : a % 8 = 0)
    (same : ∀ x ∈ l, x.1 = a → x.2.1 = e) (holds : (∃ x ∈ l, x.1 = a) ∨ memNat m a 8 = leafOwned host e) : memNat (handed host m l) a 8 = leafOwned host e := by
  induction l generalizing m with
  | nil =>
    obtain ⟨x, hx, -⟩ | h := holds
    · cases hx
    · exact h
  | cons y r ih =>
    refine ih _ (fun x hx => aligned x (List.mem_cons_of_mem _ hx)) (fun x hx => small x (List.mem_cons_of_mem _ hx)) (fun x hx => same x (List.mem_cons_of_mem _ hx)) ?_
    by_cases here : y.1 = a
    · right
      have value := same y List.mem_cons_self here
      dsimp only
      rw [here, memNat_placed, Nat.mod_eq_of_lt (leafOwned_lt host (small y List.mem_cons_self)), value]
    · have apart := aligned y List.mem_cons_self
      obtain ⟨x, hx, e⟩ | h := holds
      · obtain rfl | hx := List.mem_cons.1 hx
        · exact absurd e here
        · exact .inl ⟨x, hx, e⟩
      · right
        rw [memNat_placed_apart _ (by omega)]
        exact h

/-! ### Leaves (R363) -/

theorem memNat_lt (m : List Host.Cell) (a n : Nat) : memNat m a n < 256 ^ n := by
  have lt := leNat_lt (memBytes m a n)
  rwa [show (memBytes m a n).length = n by simp [memBytes]] at lt

/-- A leaf is an entry of a table, whose address is a multiple of 8. -/
theorem leafAddr_spec {m : List Host.Cell} {va a e : Nat} (lv table : Nat) (aligned : table % 8 = 0 ∨ lv = 5) (leaf : leafAddr m va lv table = some (a, e)) : e = memNat m a 8 ∧ a % 8 = 0 := by
  induction lv generalizing table with
  | zero => cases leaf
  | succ k ih =>
    rw [leafAddr] at leaf
    split at leaf
    · cases leaf
    next valid =>
      simp only [Bool.or_eq_true, not_or, Bool.not_eq_true] at valid
      split at leaf
      next top =>
        cases leaf
        refine ⟨rfl, ?_⟩
        obtain h | h := aligned
        · omega
        · have four : k = 4 := by omega
          subst four
          have bad := valid.2
          rw [badEntry] at bad
          simp [top] at bad
      next top =>
        exact ih _ (.inl (by omega)) leaf

/-- R377: what a handover names are leaves. -/
theorem handoverLeaves_spec {s : State} {ctx va len : Nat} {l : List (Nat × Nat × Nat)} (found : s.handoverLeaves ctx va len = some l) :
    ∀ x ∈ l, x.2.1 = memNat s.mem x.1 8 ∧ x.1 % 8 = 0 := by
  unfold State.handoverLeaves at found
  generalize List.range (len / 65536) = is at found
  induction is generalizing l with
  | nil =>
    cases found
    exact fun x hx => nomatch hx
  | cons i r ih =>
    rw [List.foldr_cons] at found
    split at found
    next rest ad e pa below leaf walk =>
      split at found
      · cases found
        intro x hx
        obtain rfl | hx := List.mem_cons.1 hx
        · exact leafAddr_spec 5 _ (.inr rfl) leaf
        · exact ih below x hx
      · cases found
    · cases found

theorem leafOwned_eq (e : Nat) : leafOwned false e = e / 256 * 256 + e % 128 ∧ leafOwned true e = e / 256 * 256 + e % 128 + 128 := by
  constructor <;> simp [leafOwned, bitNat]

theorem answered_mem (s : State) (p : BitVec 6) (status : Nat) (res : List Byte) : (answered s p status res).mem = s.mem := rfl

/-- Bytes at an address, and nothing else, have been written. -/
theorem memNat_written (m : List Host.Cell) (a n : Nat) {x : Nat} (small : x < 2 ^ (8 * n)) :
    memNat (memSetAll m (placed a (leBytes n x))) a n = x ∧ ∀ b, b < a ∨ a + n ≤ b → memGet (memSetAll m (placed a (leBytes n x))) b = memGet m b := by
  refine ⟨?_, fun b out => ?_⟩
  · rw [memNat_placed, Nat.mod_eq_of_lt]
    rwa [Nat.pow_mul] at small
  · rw [memGet_memSetAll_placed, leBytes_length, if_neg (by omega)]

end Sys2Proof.Machine

namespace Sys2Proof.Proofs.TranslationCommands

open Sys2Proof.Machine Sys2Proof.Claims

/-- R366: the state in which an entry has been written. -/
def mapped (s : State) (c va lv e a : Nat) : State :=
  (((s.flushAll c).bufferWrite a (leBytes 8 e)).purgeSpan c (va / 2 ^ levelShift lv * 2 ^ levelShift lv) (2 ^ levelShift lv)).wakeParked

theorem mapped_kick (s : State) (p : BitVec 6) (c va lv e a : Nat) : (mapped s c va lv e a).kick p = s.kick p := by
  have kicks : (mapped s c va lv e a).kicks = s.kicks := (State.wakeParked_kicks _).trans ((State.purgeSpan_kicks _ _ _ _).trans ((State.bufferWrite_kicks _ _ _).trans (s.flushAll_sends _).kicks))
  rw [State.kick, kicks]
  rfl

theorem mapped_mem (s : State) (c va lv e a : Nat) : (mapped s c va lv e a).mem = memSetAll s.mem (placed a (leBytes 8 e)) := by
  simp only [mapped, State.wakeParked_mem, State.purgeSpan_mem, State.bufferWrite_mem, State.flushAll_mem]

/-- R375: a command that wrote is not finished, and goes on once what it found has been performed. -/
theorem notYet_pending {s u : State} {p : BitVec 6} (page : u.kick p = s.kick p) (undo : List (Nat × Nat × Nat)) (n : Nat) : Pending s ((u.modKick p fun k => { k with undo := undo }).notYet p (n + 1)) p := by
  have here : ((u.modKick p fun k => { k with undo := undo }).notYet p (n + 1)).kick p = { s.kick p with undo := undo, phase := n + 1 } := by
    rw [State.notYet, State.modKick_self, State.modKick_self, page]
  rw [Pending, here]
  exact ⟨Nat.succ_pos n, rfl, rfl⟩

theorem mapCmd_runs {s : State} (p : BitVec 6) {c : Word} (small : c.toNat < 64) (started : (s.ctx c.toNat).st = 1) (va : Long) (lv : Word) (e : Long) (a : Nat)
    (new : (s.kick p).phase = 0) (level : lv.toNat ≤ 4) (inRange : va.toNat < 2 ^ 57) (good : e.getLsbD 0 = true → badEntry lv.toNat e.toNat = false)
    (entry : entryAddr s.mem va.toNat lv.toNat 5 (s.ctx c.toNat).root = some a) (off : s.hitsBuffer lv.toNat e.toNat = false) :
    let u := mapped s c.toNat va.toNat lv.toNat e.toNat a
    exec (.mapCmd p c va lv e) s = .next (
      if (memNat s.mem a 8).testBit 0 && memNat s.mem a 8 ≠ e.toNat then (u.modKick p fun k => { k with undo := [(a, memNat s.mem a 8, e.toNat)] }).notYet p (u.fresh + 1) else u.reply p 0 []) := by
  intro u
  have run : exec (.mapCmd p c va lv e) s = execMapCmd p c va lv e s := rfl
  refine run.trans ?_
  rw [execMapCmd]
  dsimp only
  have valid : ¬ (decide (lv.toNat > 4) || decide (va.toNat ≥ 2 ^ 57) || (bit e.toNat 0 && badEntry lv.toNat e.toNat)) = true := by
    have low : bit e.toNat 0 = e.getLsbD 0 := bit_eq_testBit _ _
    rw [low, decide_eq_false (not_lt.2 level), decide_eq_false (not_le.2 inRange)]
    cases h : e.getLsbD 0 with
    | false => exact Bool.false_ne_true
    | true => rw [good h]; decide
  rw [if_neg (by omega), State.started_passes small started, if_neg valid]
  simp only [entry, off, ← bit_eq_testBit]
  rfl

theorem mapCmd_writes {s : State} {p : BitVec 6} (free : (s.kick p).latched = none) {c : Word} (small : c.toNat < 64) (started : (s.ctx c.toNat).st = 1) (va : Long) (lv : Word) (e : Long) (a : Nat)
    (new : (s.kick p).phase = 0) (level : lv.toNat ≤ 4) (inRange : va.toNat < 2 ^ 57) (good : e.getLsbD 0 = true → badEntry lv.toNat e.toNat = false)
    (entry : entryAddr s.mem va.toNat lv.toNat 5 (s.ctx c.toNat).root = some a) (off : s.hitsBuffer lv.toNat e.toNat = false) :
    ∃ t, exec (.mapCmd p c va lv e) s = .next t ∧
      memNat t.mem a 8 = e.toNat ∧ (∀ b, b < a ∨ a + 8 ≤ b → memGet t.mem b = memGet s.mem b) ∧
      ((memNat s.mem a 8).testBit 0 = false ∨ memNat s.mem a 8 = e.toNat → Done s t p []) ∧
      ((memNat s.mem a 8).testBit 0 = true → memNat s.mem a 8 ≠ e.toNat → Pending s t p) := by
  have ran := mapCmd_runs p small started va lv e a new level inRange good entry off
  have page := mapped_kick s p c.toNat va.toNat lv.toNat e.toNat a
  have mem := mapped_mem s c.toNat va.toNat lv.toNat e.toNat a
  obtain ⟨written, others⟩ := memNat_written s.mem a 8 e.isLt
  generalize mapped s c.toNat va.toNat lv.toNat e.toNat a = u at ran page mem
  rw [← mem] at written others
  obtain ⟨answer, done⟩ := State.reply_done (s := s) (p := p) u page free []
  by_cases replaces : (memNat s.mem a 8).testBit 0 = true ∧ memNat s.mem a 8 ≠ e.toNat
  · rw [replaces.1, decide_eq_true replaces.2] at ran
    refine ⟨_, ran, written, others, fun h => ?_, fun _ _ => notYet_pending page _ _⟩
    obtain h | h := h
    · rw [replaces.1] at h
      cases h
    · exact absurd h replaces.2
  · have stays : ¬ ((memNat s.mem a 8).testBit 0 && decide (memNat s.mem a 8 ≠ e.toNat)) = true := by
      rw [Bool.and_eq_true, decide_eq_true_eq]
      exact replaces
    dsimp only at ran
    rw [if_neg stays, answer] at ran
    exact ⟨_, ran, written, others, fun _ => done, fun h k => absurd ⟨h, k⟩ replaces⟩

/-- R366, R377: what was translated before has been performed. -/
theorem mapCmd_ends {s : State} {p : BitVec 6} (free : (s.kick p).latched = none) {c : Word} (old : (s.kick p).phase ≠ 0) (performed : s.oldWork c.toNat (s.kick p).phase = false) (va len : Long) (lv : Word) (e : Long) :
    exec (.mapCmd p c va lv e) s = .next (answered s p 0 []) ∧ exec (.handoverToDevice p c va len) s = .next (answered s p 0 []) ∧
      exec (.handoverToHost p c va len) s = .next (answered s p 0 []) := by
  have begun : (s.kick p).phase > 0 := Nat.pos_of_ne_zero old
  have over' : ¬ s.oldWork c.toNat (s.kick p).phase = true := by rw [performed]; decide
  have ends (k : State) : (if (s.kick p).phase > 0 then (if s.oldWork c.toNat (s.kick p).phase then s else s.reply p 0 []) else k) = answered s p 0 [] :=
    (if_pos begun).trans ((if_neg over').trans (State.reply_answered free 0 []))
  exact ⟨congrArg Host.Outcome.next (ends _), congrArg Host.Outcome.next (ends _), congrArg Host.Outcome.next (ends _)⟩

theorem handover_flips {s : State} (p : BitVec 6) {c : Word} (small : c.toNat < 64) (started : (s.ctx c.toNat).st = 1) {va len : Nat} {l : List (Nat × Nat × Nat)} (new : (s.kick p).phase = 0)
    (page : va % 65536 = 0) (whole : len % 65536 = 0) (inRange : va + len ≤ 2 ^ 57) (alone : s.handoverBusy p c.toNat va len = false) (leaves : s.handoverLeaves c.toNat va len = some l) (host : Bool) :
    Pending s (s.handover p c va len host) p ∧ ∀ y ∈ l, memNat (s.handover p c va len host).mem y.1 8 = leafOwned host y.2.1 := by
  obtain ⟨mem, kicks⟩ := s.flip_spec host l
  have flips : s.handover p c va len host = ((s.flip host l).modKick p fun k => { k with undo := l.map fun x => (x.1, x.2.1, leafOwned host x.2.1) }).notYet p ((s.flip host l).fresh + 1) := by
    have valid : ¬ (va % 65536 ≠ 0 || len % 65536 ≠ 0 || va + len > 2 ^ 57) = true := by
      simp [page, whole]
      exact inRange
    rw [State.handover]
    dsimp only
    rw [if_neg (by omega), State.started_passes small started, if_neg valid, if_neg (by rw [alone]; decide)]
    simp only [leaves]
    rfl
  have kick : (s.flip host l).kick p = s.kick p := by
    rw [State.kick, kicks]
    rfl
  have spec := handoverLeaves_spec leaves
  rw [flips]
  refine ⟨notYet_pending kick _ _, fun y hy => ?_⟩
  have value (x : Nat × Nat × Nat) (hx : x ∈ l) : x.2.1 < 2 ^ 64 := by
    rw [(spec x hx).1]
    exact memNat_lt s.mem x.1 8
  show memNat (s.flip host l).mem y.1 8 = _
  rw [mem]
  refine handed_holds host l s.mem (fun x hx => (spec x hx).2) value (spec y hy).2 (fun x hx e => ?_) (.inl ⟨y, hy, rfl⟩)
  rw [(spec x hx).1, (spec y hy).1, e]

theorem putLayout_mem (s : State) (c h : Nat) (r : BitVec 512) : (s.putLayout c h r).mem = memSetAll s.mem (placed ((s.ctx c).layPA + 64 * h) (leBytes 64 r.toNat)) := State.bufferWrite_mem _ _ _

/-- R368: a number of 64 bytes with bit 95 cleared. -/
theorem cleared_testBit (m : List Host.Cell) {a : Nat} (k : Nat) :
    (BitVec.ofNat 512 (memNat m a 64) &&& ~~~ (BitVec.ofNat 512 (2 ^ 95))).toNat.testBit k = (k != 95 && (memNat m a 64).testBit k) := by
  rw [BitVec.testBit_toNat, BitVec.getLsbD_and, BitVec.getLsbD_not, BitVec.getLsbD_ofNat, BitVec.getLsbD_ofNat, Nat.testBit_two_pow]
  by_cases low : k < 512
  · by_cases top : 95 = k
    · subst top
      simp
    · simp [low, top, Ne.symm top]
  · have small : memNat m a 64 < 2 ^ k := lt_of_lt_of_le (memNat_lt m a 64) (by rw [show (256 : Nat) = 2 ^ 8 from rfl, ← Nat.pow_mul]; exact Nat.pow_le_pow_right (by decide) (by omega))
    rw [Nat.testBit_lt_two_pow small]
    simp [low]

theorem layouts {s : State} {p : BitVec 6} (free : (s.kick p).latched = none) {c : Word} (small : c.toNat < 64) (started : (s.ctx c.toNat).st = 1) (n : Word) (r : BitVec 512)
    (inTable : n.toNat < (s.ctx c.toNat).layLen) :
    let at' := (s.ctx c.toNat).layPA + 64 * n.toNat
    let only (t : State) : Prop := ∀ b, b < at' ∨ at' + 64 ≤ b → memGet t.mem b = memGet s.mem b
    (layoutOwner r = c.toNat → layoutBad r = false → ∃ t, exec (.layoutWrite p c n r) s = .next t ∧ Done s t p [] ∧ only t ∧
      memNat t.mem at' 64 = (r &&& ~~~ (BitVec.ofNat 512 (2 ^ 64 * 0x40FFFC8C))).toNat) ∧
    (layoutOwner r ≠ c.toNat → exec (.layoutWrite p c n r) s = .next (answered s p 9 [])) ∧
    ∃ t, exec (.layoutInvalidate p c n) s = .next t ∧ Done s t p [] ∧ only t ∧ ∀ k, (memNat t.mem at' 64).testBit k = (k != 95 && (memNat s.mem at' 64).testBit k) := by
  intro at' only
  have run (k : State) := State.started_passes (p := p) small started k
  have inside : ¬ n.toNat ≥ (s.ctx c.toNat).layLen := by omega
  have put (x : BitVec 512) : ∃ t, (s.putLayout c.toNat n.toNat x).reply p 0 [] = t ∧ Done s t p [] ∧ only t ∧ memNat t.mem at' 64 = x.toNat := by
    have kick : (s.putLayout c.toNat n.toNat x).kick p = s.kick p := by
      rw [State.kick, State.putLayout, State.bufferWrite_kicks]
      rfl
    obtain ⟨answer, done⟩ := State.reply_done (s := s) (p := p) (s.putLayout c.toNat n.toNat x) kick free []
    obtain ⟨written, others⟩ := memNat_written s.mem at' 64 x.isLt
    have mem := (answered_mem (s.putLayout c.toNat n.toNat x) p 0 []).trans (putLayout_mem s c.toNat n.toNat x)
    refine ⟨_, answer, done, fun b out => ?_, ?_⟩
    · rw [mem]
      exact others b out
    · rw [mem]
      exact written
  refine ⟨fun owner good => ?_, fun other => ?_, ?_⟩
  · obtain ⟨t, answer, done, rest, value⟩ := put (layoutKept r)
    refine ⟨t, congrArg Host.Outcome.next ((run _).trans ((if_neg inside).trans ((if_neg (not_not.2 owner)).trans ((if_neg (by rw [good]; decide)).trans answer)))), done, rest, value⟩
  · exact congrArg Host.Outcome.next ((run _).trans ((if_neg inside).trans ((if_pos other).trans (State.reply_answered free 9 []))))
  · obtain ⟨t, answer, done, rest, value⟩ := put (s.layoutRec c.toNat n.toNat &&& ~~~ (BitVec.ofNat 512 (2 ^ 95)))
    refine ⟨t, congrArg Host.Outcome.next ((run _).trans ((if_neg inside).trans answer)), done, rest, fun k => ?_⟩
    rw [value]
    exact cleared_testBit _ k

theorem windowBind_binds {s : State} {p : BitVec 6} (free : (s.kick p).latched = none) {c : Word} (small : c.toNat < 64) (started : (s.ctx c.toNat).st = 1) (va len host counter w : Long) (low : w.toNat < 64)
    (page : va.toNat % 65536 = 0) (some' : len ≠ 0) (whole : len.toNat % 65536 = 0) (short : len.toNat ≤ 2 ^ 26) (inRange : va.toNat + len.toNat ≤ 2 ^ 57) (aligned : counter.toNat % 8 = 0)
    (unbound : tblFind s.windows (c.toNat * 64 + w.toNat) = none) (pages : s.windowPages c.toNat w.toNat va.toNat len.toNat = true) (room : ∀ d, d < 4 → s.dsTaken d + len.toNat / 65536 ≤ 1024) :
    ∃ t y, exec (.windowBind p c (w.setWidth 32) va len host counter) s = .next t ∧ Done s t p [] ∧ t.mem = s.mem ∧
      tblFind t.windows (c.toNat * 64 + w.toNat) = some y ∧ y.va = va.toNat ∧ y.len = len.toNat ∧ y.host = host.toNat ∧ y.counter = counter.toNat ∧
      y.pasid = (s.ctx c.toNat).pasid ∧ (let at' := (s.ctx c.toNat).pasid * 2 ^ 64 + counter.toNat
        (∀ b, b < at' ∨ at' + 8 ≤ b → memGet t.hostMem b = memGet s.hostMem b) ∧ memNat t.hostMem at' 8 = 0) := by
  let y : Window := { pasid := (s.ctx c.toNat).pasid, va := va.toNat, len := len.toNat, host := host.toNat, counter := counter.toNat }
  let bound : State := { s with windows := tblPut s.windows (c.toNat * 64 + w.toNat) y, hostMem := memSetAll s.hostMem (placed (y.hostAt counter.toNat) (leBytes 8 0)) }
  obtain ⟨answer, done⟩ := State.reply_done (s := s) (p := p) bound rfl free []
  have width : (w.setWidth 32).toNat = w.toNat := by
    rw [BitVec.toNat_setWidth, Nat.mod_eq_of_lt (by omega)]
  obtain ⟨written, others⟩ := memNat_written s.hostMem (y.hostAt counter.toNat) 8 (x := 0) (by omega)
  refine ⟨answered bound p 0 [], y, ?_, done, rfl, tblFind_tblPut_self _ _ _, rfl, rfl, rfl, rfl, rfl, others, written⟩
  have run : exec (.windowBind p c (w.setWidth 32) va len host counter) s = execWindowBind p c (w.setWidth 32) va len host counter s := rfl
  rw [execWindowBind, width] at run
  refine run.trans (congrArg Host.Outcome.next ((State.started_passes small started _).trans ((if_neg ?_).trans ((if_neg ?_).trans answer))))
  · simp [low, page, whole, aligned, unbound, pages]
    exact ⟨⟨some', short⟩, inRange⟩
  · rw [List.any_eq_true]
    rintro ⟨d, isDie, full⟩
    have fits := room d (List.mem_range.1 isDie)
    exact absurd (of_decide_eq_true full) (by omega)

theorem windowUnbind_unbinds {s : State} {p : BitVec 6} (free : (s.kick p).latched = none) {c : Word} (small : c.toNat < 64) (started : (s.ctx c.toNat).st = 1) (w : Word) (y : Window) (low : w.toNat < 64)
    (bound : tblFind s.windows (c.toNat * 64 + w.toNat) = some y) :
    (y.busy = 0 → ((s.kick p).phase ≠ 0 ∨ mapsWindow s.mem w.toNat 5 (s.ctx c.toNat).root = false) → ∃ t, exec (.windowUnbind p c w) s = .next t ∧ Done s t p [] ∧ t.mem = s.mem ∧
      tblFind t.windows (c.toNat * 64 + w.toNat) = none) ∧
    ((s.kick p).phase = 0 → mapsWindow s.mem w.toNat 5 (s.ctx c.toNat).root = true → exec (.windowUnbind p c w) s = .next (answered s p 4 [])) := by
  have run : exec (.windowUnbind p c w) s = execWindowUnbind p c w s := rfl
  rw [execWindowUnbind] at run
  rw [State.started_passes small started] at run
  simp only [bound] at run
  rw [if_neg (not_le.2 low)] at run
  refine ⟨fun idle unmapped => ?_, fun new mapped => ?_⟩
  · obtain ⟨answer, done⟩ := State.reply_done (s := s) (p := p) { s with windows := tblDel s.windows (c.toNat * 64 + w.toNat) } rfl free []
    have gone : ¬ (decide ((s.kick p).phase = 0) && mapsWindow s.mem w.toNat 5 (s.ctx c.toNat).root) = true := by
      rw [Bool.and_eq_true, decide_eq_true_eq]
      rintro ⟨new, maps⟩
      obtain h | h := unmapped
      · exact h new
      · rw [h] at maps
        cases maps
    rw [if_neg gone, if_neg (by omega), answer] at run
    exact ⟨_, run, done, rfl, tblFind_tblDel_self _ _⟩
  · have maps : (decide ((s.kick p).phase = 0) && mapsWindow s.mem w.toNat 5 (s.ctx c.toNat).root) = true := by rw [mapped, decide_eq_true new]; rfl
    rw [if_pos maps, State.reply_answered free] at run
    exact run

/-- Settles O48. -/
theorem translationCommands : Obligations.TranslationCommands := by
  intro s p c free small started x new old
  have hand (va len : Long) (l : List (Nat × Nat × Nat)) (isNew : new) (page : va.toNat % 65536 = 0) (whole : len.toNat % 65536 = 0) (inRange : va.toNat + len.toNat ≤ 2 ^ 57)
      (alone : s.handoverBusy p c.toNat va.toNat len.toNat = false) (leaves : s.handoverLeaves c.toNat va.toNat len.toNat = some l) (host : Bool) :=
    handover_flips p small started isNew page whole inRange alone leaves host
  refine ⟨mapCmd_writes free small started, fun va len lv e isOld performed => mapCmd_ends free isOld performed va len lv e, fun va len l isNew page whole inRange alone leaves => ⟨⟨_, rfl, ?_⟩, ⟨_, rfl, ?_⟩⟩,
    layouts free small started, windowBind_binds free small started, windowUnbind_unbinds free small started⟩
  · obtain ⟨pending, leaves⟩ := hand va len l isNew page whole inRange alone leaves false
    exact ⟨pending, fun y hy => (leaves y hy).trans (leafOwned_eq _).1⟩
  · obtain ⟨pending, leaves⟩ := hand va len l isNew page whole inRange alone leaves true
    exact ⟨pending, fun y hy => (leaves y hy).trans (leafOwned_eq _).2⟩

end Sys2Proof.Proofs.TranslationCommands
end

section
/-! SUPPORT. What a host's write to a kick page does, the time-out of a command, and what a page that holds none is answered (R372-R375). -/

namespace Sys2Proof.Machine

open Sys2Proof.Claims

/-! ### The fields of a page (Table 22-3) -/

/-- A byte that a list of bytes puts at an offset. -/
def overlaid (old base off : Nat) (data : List Byte) (i : Nat) : Byte :=
  if off ≤ base + i && base + i < off + data.length then data.getD (base + i - off) 0 else BitVec.ofNat 8 (old / 256 ^ i)

theorem leBytes_range (n x : Nat) : (List.range n).map (fun i => (BitVec.ofNat 8 (x / 256 ^ i) : Byte)) = leBytes n x := by
  induction n generalizing x with
  | zero => rfl
  | succ k ih =>
    rw [List.range_succ_eq_map, List.map_cons, List.map_map, leBytes, ← ih, Nat.pow_zero, Nat.div_one]
    congr 1
    refine List.map_congr_left fun i _ => ?_
    rw [Function.comp, Nat.pow_succ, Nat.mul_comm, ← Nat.div_div_eq_div_mul]

/-- A field that no byte of the write lies in. -/
theorem field_apart {old base off n : Nat} {data : List Byte} (small : old < 256 ^ n) (apart : base + n ≤ off ∨ off + data.length ≤ base) : leNat ((List.range n).map (overlaid old base off data)) = old := by
  have same : (List.range n).map (overlaid old base off data) = leBytes n old := by
    rw [← leBytes_range]
    refine List.map_congr_left fun i hi => ?_
    rw [List.mem_range] at hi
    rw [overlaid, if_neg]
    simp only [Bool.and_eq_true, decide_eq_true_eq]
    omega
  rw [same, leNat_leBytes, Nat.mod_eq_of_lt small]

/-- The field that the write covers. -/
theorem field_whole {old base : Nat} (data : List Byte) : leNat ((List.range data.length).map (overlaid old base base data)) = leNat data := by
  refine congrArg leNat (List.ext_getElem (by simp) fun i _ hi => ?_)
  have inside : (base ≤ base + i && base + i < base + data.length) = true := by
    simp only [Bool.and_eq_true, decide_eq_true_eq]
    omega
  rw [List.getElem_map, List.getElem_range, overlaid, if_pos inside, Nat.add_sub_cancel_left, List.getD_eq_getElem _ _ hi]

/-- The bytes of the write that lie among the arguments. -/
def argBytes (off : Nat) (data : List Byte) : List (Nat × Byte) := (placed off data).filterMap fun b => if 0x10 ≤ b.1 && b.1 < 0x800 then some (b.1 - 0x10, b.2) else none

theorem argBytes_inside {off : Nat} {data : List Byte} (low : 0x10 ≤ off) (high : off + data.length ≤ 0x800) : argBytes off data = placed (off - 0x10) data := by
  unfold argBytes
  induction data generalizing off with
  | nil => rfl
  | cons b r ih =>
    rw [List.length_cons] at high
    have inside : (0x10 ≤ off && off < 0x800) = true := by
      simp only [Bool.and_eq_true, decide_eq_true_eq]
      omega
    rw [placed, List.filterMap_cons, if_pos inside, placed, ih (by omega) (by omega), show off + 1 - 0x10 = off - 0x10 + 1 by omega]

theorem argBytes_below {off : Nat} {data : List Byte} (high : off + data.length ≤ 0x10) : argBytes off data = [] := by
  unfold argBytes
  induction data generalizing off with
  | nil => rfl
  | cons b r ih =>
    rw [List.length_cons] at high
    have out : ¬ (0x10 ≤ off && off < 0x800) = true := by
      simp only [Bool.and_eq_true, decide_eq_true_eq]
      omega
    rw [placed, List.filterMap_cons, if_neg out, ih (by omega)]

theorem Kick.write_eq (k : Kick) (off : Nat) (data : List Byte) : k.write off data =
    { k with seq := leNat ((List.range 8).map (overlaid k.seq 0 off data)), code := leNat ((List.range 2).map (overlaid k.code 8 off data)), flags := leNat ((List.range 2).map (overlaid k.flags 0xA off data)), argLen := leNat ((List.range 4).map (overlaid k.argLen 0xC off data)), args := tabSetAll k.args (argBytes off data) } := rfl

theorem Kick.write_keeps (k : Kick) (off : Nat) (data : List Byte) :
    (k.write off data).done = k.done ∧ (k.write off data).status = k.status ∧ (k.write off data).result = k.result ∧ (k.write off data).running = k.running := by
  rw [k.write_eq]
  exact ⟨rfl, rfl, rfl, rfl⟩

/-- R372: a host writes a whole sequence value. -/
theorem Kick.write_seq (k : Kick) {data : List Byte} (eight : data.length = 8) (code : k.code < 2 ^ 16) (flags : k.flags < 2 ^ 16) (argLen : k.argLen < 2 ^ 32) : k.write 0 data = { k with seq := leNat data } := by
  have seq := field_whole (old := k.seq) (base := 0) data
  rw [eight] at seq
  rw [Kick.write_eq, seq, field_apart code (.inr (by omega)), field_apart flags (.inr (by omega)), field_apart argLen (.inr (by omega)), argBytes_below (by omega)]
  rfl

/-! ### What a command that ran out of time had stopped (R375) -/

theorem State.complete_kick (s : State) (p : BitVec 6) (seq status : Nat) (res : List Byte) (irq : Bool) :
    (s.complete p seq status res irq).kick p = { s.kick p with done := seq, status := status, resLen := (res.take 2032).length, result := res.take 2032, running := false, phase := 0 } := by
  have here := s.modKick_self p fun k => { k with done := seq, status := status, resLen := (res.take 2032).length, result := res.take 2032, running := false, phase := 0 }
  unfold State.complete
  dsimp only
  split <;> exact here

theorem State.resumeWg_kicks (s : State) (w : Nat) : (s.resumeWg w).kicks = s.kicks := by
  rw [s.resumeWg_events w]
  rfl

end Sys2Proof.Machine

namespace Sys2Proof.Proofs.KickPages

open Sys2Proof.Machine Sys2Proof.Claims

theorem argsWrite (s : State) (p : BitVec 6) (off : Nat) (data : List Byte) (low : 0x10 ≤ off) (high : off + data.length ≤ 0x800) :
    ∃ t, exec (.kickPageWrite p off data) s = .next t ∧ t.mem = s.mem ∧ t.agenda = s.agenda ∧
      (∀ j, j < data.length → tblGet 0 (t.kick p).args (off - 0x10 + j) = data.getD j 0) ∧
      (∀ a, a < off - 0x10 ∨ off - 0x10 + data.length ≤ a → tblGet 0 (t.kick p).args a = tblGet 0 (s.kick p).args a) ∧
      (t.kick p).done = (s.kick p).done ∧ (t.kick p).status = (s.kick p).status ∧ (t.kick p).result = (s.kick p).result ∧ (t.kick p).running = (s.kick p).running := by
  have miss : (!(decide (off < 8) && !data.isEmpty)) = true := by
    rw [decide_eq_false (by omega), Bool.false_and]
    rfl
  have args : ((s.kick p).write off data).args = tabSetAll (s.kick p).args (placed (off - 0x10) data) := by
    rw [Kick.write_eq, argBytes_inside low high]
  have others := (s.kick p).write_keeps off data
  have ran : exec (.kickPageWrite p off data) s = .next (s.modKick p fun _ => (s.kick p).write off data) := congrArg Host.Outcome.next (if_pos miss)
  generalize (s.kick p).write off data = w at ran args others
  refine ⟨_, ran, rfl, rfl, ?_⟩
  rw [State.modKick_self, args]
  refine ⟨fun j inside => ?_, fun a out => ?_, others⟩
  · rw [tblGet_tabSetAll_placed, if_pos (by omega), Nat.add_sub_cancel_left]
  · rw [tblGet_tabSetAll_placed, if_neg (by omega)]

theorem nonempty {data : List Byte} (eight : data.length = 8) : data.isEmpty = false := by
  cases data with
  | nil => cases eight
  | cons b r => rfl

/-- R373: a write of a sequence value while no command runs. -/
theorem seqWrite (s : State) (p : BitVec 6) (data : List Byte) (eight : data.length = 8) (idle : (s.kick p).running = false) (code : (s.kick p).code < 2 ^ 16) (flags : (s.kick p).flags < 2 ^ 16)
    (argLen : (s.kick p).argLen < 2 ^ 32) : ∃ u : State, u.kick p = s.kick p ∧ u.mem = s.mem ∧ u.agenda = s.agenda ∧ u.tick = s.tick ∧ exec (.kickPageWrite p 0 data) s = .next (u.takeKick p (leNat data) s.fresh) := by
  have some' := nonempty eight
  have written := (s.kick p).write_seq eight code flags argLen
  refine ⟨(s.modKick p fun _ => { (s.kick p).write 0 data with seq := (s.kick p).seq }).tickFresh, ?_, rfl, rfl, rfl, ?_⟩
  · refine (s.modKick_self p fun _ => { (s.kick p).write 0 data with seq := (s.kick p).seq }).trans ?_
    rw [written]
  · have seq : ((s.kick p).write 0 data).seq = leNat data := by rw [written]
    rw [← seq]
    have hit : ¬ (!(decide (0 < 8) && !data.isEmpty)) = true := by
      rw [some']
      decide
    exact congrArg Host.Outcome.next ((if_neg hit).trans (if_neg (by rw [idle]; decide)))

theorem seqWrite_takes (s : State) (p : BitVec 6) (data : List Byte) (eight : data.length = 8) (idle : (s.kick p).running = false) (code : (s.kick p).code < 2 ^ 16) (flags : (s.kick p).flags < 2 ^ 16)
    (argLen : (s.kick p).argLen < 2 ^ 32) :
    (leNat data = ((s.kick p).done + 1) % 2 ^ 64 → ∃ t, exec (.kickPageWrite p 0 data) s = .next t ∧ t.mem = s.mem ∧ (t.kick p).running = true ∧
      (t.kick p).seq = leNat data ∧ (t.kick p).code0 = (s.kick p).code ∧ (t.kick p).len0 = (s.kick p).argLen ∧ (t.kick p).args0 = tabBytes (s.kick p).args 0 (min (s.kick p).argLen 2032) ∧
      t.agenda = .command p.toNat :: s.agenda ∧ ⟨0, s.tick + 1100000000, .commandTimeout p⟩ ∈ t.timers) ∧
    (leNat data ≠ ((s.kick p).done + 1) % 2 ^ 64 → ∃ t, exec (.kickPageWrite p 0 data) s = .next t ∧ t.mem = s.mem ∧ (t.kick p).running = false ∧
      (t.kick p).status = 3 ∧ (t.kick p).done = leNat data ∧ t.agenda = s.agenda) := by
  obtain ⟨u, page, mem, agenda, tick, ran⟩ := seqWrite s p data eight idle code flags argLen
  rw [← page] at *
  refine ⟨fun next => ?_, fun other => ?_⟩
  · have kick := u.takeKick_next p s.fresh next
    refine ⟨_, ran, (u.takeKick_mem _ _ _).1.trans mem, ?_⟩
    rw [kick]
    refine ⟨rfl, rfl, rfl, rfl, rfl, ?_, ?_⟩
    · rw [State.takeKick, if_neg (not_not.2 next), ← agenda]
      rfl
    · rw [State.takeKick, if_neg (not_not.2 next), ← tick]
      exact List.mem_append_right _ List.mem_cons_self
  · have refused : u.takeKick p (leNat data) s.fresh = (u.modKick p fun k => { k with seq := leNat data }).complete p (leNat data) 3 [] (bit (u.kick p).flags 0) := by
      rw [State.takeKick, if_pos other]
    have kick := State.complete_kick (u.modKick p fun k => { k with seq := leNat data }) p (leNat data) 3 [] (bit (u.kick p).flags 0)
    refine ⟨_, ran, (u.takeKick_mem _ _ _).1.trans mem, ?_⟩
    rw [refused, kick]
    refine ⟨rfl, rfl, rfl, ?_⟩
    rw [← agenda]
    unfold State.complete
    dsimp only
    split <;> rfl

/-- R373: a sequence value that comes while a command runs is kept for later. -/
theorem seqWrite_held (s : State) (p : BitVec 6) (data : List Byte) (eight : data.length = 8) (runs : (s.kick p).running = true) :
    ∃ t, exec (.kickPageWrite p 0 data) s = .next t ∧ t.mem = s.mem ∧ (t.kick p).latched = some (leNat data) ∧ (t.kick p).seq = (s.kick p).seq ∧ (t.kick p).running = true := by
  have hit : ¬ (!(decide (0 < 8) && !data.isEmpty)) = true := by
    rw [nonempty eight]
    decide
  have seq : ((s.kick p).write 0 data).seq = leNat data := by
    have whole := field_whole (old := (s.kick p).seq) (base := 0) data
    rw [eight] at whole
    rw [Kick.write_eq, whole]
  obtain ⟨-, -, -, still⟩ := (s.kick p).write_keeps 0 data
  have ran : exec (.kickPageWrite p 0 data) s = .next (s.modKick p fun _ => { (s.kick p).write 0 data with seq := (s.kick p).seq, latched := some ((s.kick p).write 0 data).seq, latchedAt := s.fresh }).tickFresh :=
    congrArg Host.Outcome.next ((if_neg hit).trans (if_pos runs))
  generalize (s.kick p).write 0 data = w at ran seq still
  have kick := s.modKick_self p fun _ => { w with seq := (s.kick p).seq, latched := some w.seq, latchedAt := s.fresh }
  refine ⟨_, ran, rfl, ?_⟩
  have page (u : State) : u.tickFresh.kick p = u.kick p := rfl
  rw [page, kick, seq]
  exact ⟨rfl, rfl, still.trans runs⟩

/-! ### COMMAND_TIMEOUT (R375) -/

theorem timeout_runs {s : State} {p : BitVec 6} (runs : (s.kick p).running = true) : exec (.commandTimeout p) s = .next (((s.undoStops p (s.kick p)).undoEntries (s.kick p)).reply p 0xC []) :=
  congrArg Host.Outcome.next (if_neg (by rw [runs]; decide))

theorem undoStops_none (s : State) (p : BitVec 6) {k : Kick} (stops : k.stops = []) (keep : k.keep = none) : s.undoStops p k = s := by
  rw [State.undoStops, stops, keep]
  rfl

theorem undoEntries_none (s : State) {k : Kick} (undo : k.undo = []) : s.undoEntries k = s := by
  rw [State.undoEntries, undo]
  rfl

theorem timeout_stops (s : State) (p : BitVec 6) (w : Nat) (r : HaltRec) (free : (s.kick p).latched = none) (runs : (s.kick p).running = true) (stops : (s.kick p).stops = [(w, r)]) (keep : (s.kick p).keep = none)
    (undo : (s.kick p).undo = []) (halted : (s.wg w).halt = some r) :
    ∃ t, exec (.commandTimeout p) s = .next t ∧ t.mem = s.mem ∧ t.kick p = replyOf (s.kick p) 0x0C [] ∧ (t.wg w).halt = none := by
  have goes : s.undoStops p (s.kick p) = s.resumeWg w := by
    rw [State.undoStops, stops, keep, List.foldl_cons, List.foldl_nil, if_pos halted]
  have page : (s.resumeWg w).kick p = s.kick p := by
    rw [State.kick, s.resumeWg_kicks]
    rfl
  obtain ⟨-, -, runs', -⟩ := s.resumeWg_spec w
  have ran := timeout_runs runs
  rw [goes, undoEntries_none _ undo, State.reply_answered (by rw [page]; exact free)] at ran
  refine ⟨_, ran, (s.resumeWg_mem w).1, ?_, runs'⟩
  rw [answered_kick, page]

theorem undoEntries_one (s : State) {k : Kick} {a old new : Nat} (undo : k.undo = [(a, old, new)]) (map : k.code0 = 0x20) :
    ∃ c va n, s.undoEntries k = ((if memNat s.mem a 8 = new then s.bufferWrite a (leBytes 8 old) else s).purgeSpan c va n).wakeParked := by
  refine ⟨leNat (k.args0.take 4), leNat ((k.args0.drop 4).take 8) / 2 ^ levelShift (leNat ((k.args0.drop 12).take 4)) * 2 ^ levelShift (leNat ((k.args0.drop 12).take 4)), 2 ^ levelShift (leNat ((k.args0.drop 12).take 4)), ?_⟩
  rw [State.undoEntries, undo, List.isEmpty_cons, if_neg Bool.false_ne_true]
  dsimp only
  rw [if_pos map, List.foldl_cons, List.foldl_nil]

theorem timeout_entries (s : State) (p : BitVec 6) (a old new : Nat) (free : (s.kick p).latched = none) (runs : (s.kick p).running = true) (map : (s.kick p).code0 = 0x20) (stops : (s.kick p).stops = [])
    (keep : (s.kick p).keep = none) (undo : (s.kick p).undo = [(a, old, new)]) (small : old < 2 ^ 64) :
    ∃ t, exec (.commandTimeout p) s = .next t ∧ t.kick p = replyOf (s.kick p) 0x0C [] ∧ (∀ b, b < a ∨ a + 8 ≤ b → memGet t.mem b = memGet s.mem b) ∧
      memNat t.mem a 8 = if memNat s.mem a 8 = new then old else memNat s.mem a 8 := by
  let back := if memNat s.mem a 8 = new then s.bufferWrite a (leBytes 8 old) else s
  have ran := timeout_runs runs
  obtain ⟨c, va, n, entries⟩ := undoEntries_one s undo map
  have kicks : back.kicks = s.kicks := by
    unfold back
    split
    · exact s.bufferWrite_kicks _ _
    · rfl
  have page : ((back.purgeSpan c va n).wakeParked).kick p = s.kick p := by
    rw [State.kick, State.wakeParked_kicks, State.purgeSpan_kicks, kicks]
    rfl
  have mem : ((back.purgeSpan c va n).wakeParked).mem = back.mem := by
    simp only [State.wakeParked_mem, State.purgeSpan_mem]
  rw [undoStops_none s p stops keep, entries, State.reply_answered (by rw [page]; exact free)] at ran
  refine ⟨_, ran, ?_, ?_⟩
  · rw [answered_kick, page]
  · rw [answered_mem, mem]
    unfold back
    split
    · obtain ⟨written, others⟩ := memNat_written s.mem a 8 small
      rw [State.bufferWrite_mem]
      exact ⟨others, written⟩
    · exact ⟨fun _ _ => rfl, rfl⟩

/-- R374: a code that is no command, or an argument length that is not the command's. -/
theorem step_unknown {s : State} {p : BitVec 6} {r : List Act} (agenda : s.agenda = .command p.toNat :: r) (free : (s.kick p).latched = none) (runs : (s.kick p).running = true) (ready : s.heldBack p = false) :
    (commandLength (s.kick p).code0 = none → step s = .next (answered { s with agenda := r } p 1 [])) ∧
    (∀ n, commandLength (s.kick p).code0 = some n → (s.kick p).flags0 ≤ 1 → (s.kick p).len0 ≠ n → step s = .next (answered { s with agenda := r } p 2 [])) := by
  let u : State := { s with agenda := r }
  have page : u.kick p = s.kick p := rfl
  have run : step s = runCommand p.toNat u := by
    rw [step, agenda]
  have num : BitVec.ofNat 6 p.toNat = p := by simp
  rw [runCommand, num] at run
  have begins : ¬ (!(u.kick p).running || u.heldBack p) = true := by
    rw [page, runs, show u.heldBack p = s.heldBack p from rfl, ready]
    decide
  rw [if_neg begins, page] at run
  refine ⟨fun unknown => ?_, fun n known flags wrong => ?_⟩
  · simp only [unknown] at run
    exact run.trans (congrArg Host.Outcome.next (State.reply_answered (s := u) free 1 []))
  · simp only [known] at run
    rw [if_neg (by omega), if_pos wrong] at run
    exact run.trans (congrArg Host.Outcome.next (State.reply_answered (s := u) free 2 []))

/-- Settles O46. -/
theorem kickPages : Obligations.KickPages := by
  intro s p k
  refine ⟨argsWrite s p, fun data eight idle code flags argLen => seqWrite_takes s p data eight idle code flags argLen, seqWrite_held s p, fun free runs stops keep undo => ?_, timeout_stops s p,
    timeout_entries s p, fun idle => ?_, fun r agenda free runs ready => ?_⟩
  · rw [timeout_runs runs, undoStops_none s p stops keep, undoEntries_none s undo, State.reply_answered free]
  · exact congrArg Host.Outcome.next (if_pos (by rw [show (s.kick p).running = false from idle]; rfl))
  · exact step_unknown agenda free runs ready

end Sys2Proof.Proofs.KickPages
end

section
/-! SUPPORT. Device reset, accesses of the host to memory, and what ends the translation of a window (R368, R378, R380, R422). -/

namespace Sys2Proof.Machine

open Sys2Proof.Claims

/-- What the walking test at reset changes (R422). -/
def TestFrame (s t : State) : Prop := t = { s with homes := t.homes, fresh := t.fresh }

theorem TestFrame.trans {s t u : State} (h : TestFrame s t) (k : TestFrame t u) : TestFrame s u := by
  unfold TestFrame at *
  rw [k, h]

theorem TestFrame.foldl {α : Type} {f : State → α → State} (one : ∀ s a, TestFrame s (f s a)) (l : List α) (s : State) : TestFrame s (l.foldl f s) := by
  induction l generalizing s with
  | nil => exact rfl
  | cons a r ih => exact (one s a).trans (ih _)

/-- R351, R442: the state in which the walking test of reset begins. -/
def State.resetBase (s : State) : State :=
  { State.reset with fresh := s.fresh + 1, mem := if Config.freeBool s.fresh then s.mem else [], hostMem := s.hostMem, cores := (s.cores.filter fun c => c.2.cap ≠ 0).map fun (c : Nat × Core) => (c.1, { cap := c.2.cap, point := c.2.cap }), wear := s.wear, fw := { s.fw with verified := none } }

theorem deviceReset_frame (s : State) : ∃ t, exec .deviceReset s = .next t ∧ TestFrame s.resetBase t := by
  refine ⟨_, rfl, ?_⟩
  refine TestFrame.foldl (fun u st => ?_) _ _
  refine TestFrame.foldl (fun v b => ?_) _ u
  exact rfl

/-- Of a table in order, an entry that a filter drops is found no more, and one that it keeps as before. -/
theorem tblFind_filter {α : Type} (p : Nat × α → Bool) (t : Tbl α) (sorted : tblSorted t = true) (k : Nat) : tblFind (t.filter p) k = (tblFind t k).filter fun x => p (k, x) := by
  induction t with
  | nil => rfl
  | cons a r ih =>
    obtain ⟨j, x⟩ := a
    have rest := ih (tblSorted_tail sorted)
    by_cases here : j = k
    · subst here
      have above : tblFind (r.filter p) j = none := by
        cases found : tblFind (r.filter p) j with
        | none => rfl
        | some y => exact absurd (tblSorted_below sorted _ (List.mem_of_mem_filter (mem_of_tblFind found))) (Nat.lt_irrefl j)
      rw [List.filter_cons]
      split
      next kept => simp only [tblFind, if_pos, Option.filter_some, kept]
      next dropped => simp only [tblFind, if_pos, Option.filter_some, dropped, above]; rfl
    · rw [List.filter_cons]
      split
      · rw [tblFind, if_neg here, tblFind, if_neg here, rest]
      · rw [rest, tblFind, if_neg here]

/-- R442: the caps stand after a reset, and every core column is at its cap. -/
theorem State.resetBase_core (s : State) (c : Nat) : (s.resetBase.core c).cycles = 0 ∧ (tblSorted s.cores = true → (s.resetBase.core c).cap = (s.core c).cap ∧ (s.resetBase.core c).point = (s.core c).cap) := by
  have reads : s.resetBase.core c = ((tblFind (s.cores.filter fun c => c.2.cap ≠ 0) c).map fun x => ({ cap := x.cap, point := x.cap } : Core)).getD {} := by
    have base : s.resetBase.core c = (tblFind ((s.cores.filter fun c => c.2.cap ≠ 0).map fun (c : Nat × Core) => (c.1, ({ cap := c.2.cap, point := c.2.cap } : Core))) c).getD {} := rfl
    rw [base, tblFind_map _ (fun x : Core => ({ cap := x.cap, point := x.cap } : Core)) fun _ => rfl]
  refine ⟨?_, fun sorted => ?_⟩
  · rw [reads]
    cases tblFind (s.cores.filter fun c => c.2.cap ≠ 0) c <;> rfl
  · rw [reads, tblFind_filter _ _ sorted]
    rw [State.core, tblGet]
    cases found : tblFind s.cores c with
    | none => exact ⟨rfl, rfl⟩
    | some x =>
      by_cases capped : x.cap = 0
      · simp [Option.filter_some, capped]
      · simp [Option.filter_some, capped]

end Sys2Proof.Machine

namespace Sys2Proof.Proofs.HostAccesses

open Sys2Proof.Machine Sys2Proof.Claims

theorem deviceReset_resets (s : State) : ∃ t, exec .deviceReset s = .next t ∧ (t.mem = s.mem ∨ t.mem = []) ∧ t.hostMem = s.hostMem ∧ t.tick = 0 ∧ t.groups = [] ∧ t.wgs = [] ∧
    t.launches = [] ∧ t.ctxs = [] ∧ t.kicks = [] ∧ t.agenda = [] ∧ t.timers = [] ∧ t.runList = [] ∧ t.windows = [] ∧ t.mclog = [] ∧ t.wear = s.wear ∧
    t.fw.verified = none ∧ t.fw.running = s.fw.running ∧ t.fw.fused = s.fw.fused ∧
    (∀ c, (t.core c).cycles = 0) ∧ (tblSorted s.cores = true → ∀ c, (t.core c).cap = (s.core c).cap ∧ (t.core c).point = (s.core c).cap) := by
  obtain ⟨t, ran, frame⟩ := deviceReset_frame s
  unfold TestFrame at frame
  have core (c : Nat) : t.core c = s.resetBase.core c := by rw [frame]; rfl
  have mem : s.resetBase.mem = s.mem ∨ s.resetBase.mem = [] := by
    show (if Config.freeBool s.fresh then s.mem else []) = _ ∨ (if Config.freeBool s.fresh then s.mem else []) = _
    split
    · exact .inl rfl
    · exact .inr rfl
  refine ⟨t, ran, ?_⟩
  simp only [core]
  rw [frame]
  exact ⟨mem, rfl, rfl, rfl, rfl, rfl, rfl, rfl, rfl, rfl, rfl, rfl, rfl, rfl, rfl, rfl, rfl, fun c => (s.resetBase_core c).1, fun sorted c => (s.resetBase_core c).2 sorted⟩

/-- R378: the host reads and writes what every mapping page allows. -/
theorem aperture_allowed (s : State) (link : BitVec 1) {pa len : Nat} (data : List Byte) (inside : pa < 12 * 2 ^ 36) (first : s.apertureOk pa = true) (last : s.apertureOk (pa + (len - 1)) = true) :
    (∃ t, exec (.hostApertureAccess link false pa len data) s = .next t ∧ t.mem = s.mem ∧ t.hostMem = s.hostMem ∧ t.evlog = s.evlog) ∧
      ∃ t, exec (.hostApertureAccess link true pa len data) s = .next t ∧ t.hostMem = s.hostMem ∧
        (∀ j, j < len → j < data.length → memGet t.mem (pa + j) = data.getD j 0) ∧
        ∀ x, x < pa ∨ pa + len ≤ x → memGet t.mem x = memGet s.mem x := by
  have good : ¬ (decide (stackOf pa ≥ 12) || !s.apertureOk pa || !s.apertureOk (pa + (len - 1))) = true := by
    have stack : ¬ stackOf pa ≥ 12 := by
      rw [stackOf]
      omega
    rw [first, last, decide_eq_false stack]
    decide
  have demands : (s.demands [pa]).mem = s.mem ∧ (s.demands [pa]).hostMem = s.hostMem ∧ (s.demands [pa]).evlog = s.evlog := ⟨rfl, rfl, rfl⟩
  have reads : exec (.hostApertureAccess link false pa len data) s = .next ((s.demands [pa]).moved pa none len) := congrArg Host.Outcome.next (if_neg good)
  have writes : exec (.hostApertureAccess link true pa len data) s = .next ((s.demands [pa]).bufferWrite pa (data.take len)) := congrArg Host.Outcome.next (if_neg good)
  generalize s.demands [pa] = u at demands reads writes
  obtain ⟨mem, hostMem, evlog⟩ := demands
  refine ⟨⟨_, reads, ?_, ?_, ?_⟩, ⟨_, writes, ?_, fun j low inside' => ?_, fun x out => ?_⟩⟩
  · rw [(u.moved_mem pa none len).1, mem]
  · rw [(u.moved_mem pa none len).2, hostMem]
  · have frame := u.moved_home pa none len
    unfold HomeFrame at frame
    rw [frame]
    exact evlog
  · rw [State.bufferWrite_hostMem, hostMem]
  · rw [State.bufferWrite_mem, memGet_memSetAll_placed, List.length_take, if_pos (by omega), Nat.add_sub_cancel_left, List.getD_eq_getElem?_getD, List.getD_eq_getElem?_getD, List.getElem?_take_of_lt low]
  · rw [State.bufferWrite_mem, memGet_memSetAll_placed, List.length_take, if_neg (by omega), mem]

theorem aperture_refused (s : State) (link : BitVec 1) {pa len : Nat} (data : List Byte) (w : Bool) (refused : s.apertureOk pa = false) :
    ∃ t, exec (.hostApertureAccess link w pa len data) s = .next t ∧ t.mem = s.mem ∧ t.evlog.head? = some { kind := 1, link := link.toNat, ctx := 0xFFFF, arg := 8, addr := pa, time := s.tick } := by
  have bad : (decide (stackOf pa ≥ 12) || !s.apertureOk pa || !s.apertureOk (pa + (len - 1))) = true := by
    rw [refused, Bool.not_false, Bool.or_true, Bool.true_or]
  exact ⟨_, congrArg Host.Outcome.next (if_pos bad), rfl, rfl⟩

/-- Settles O45. -/
theorem hostAccessesAndReset : Obligations.HostAccessesAndReset := by
  intro s
  refine ⟨deviceReset_resets s, fun link pa len data => ⟨fun inside first last => aperture_allowed s link data inside first last, fun w refused => aperture_refused s link data w refused⟩, fun ctx n x _ bound => ?_⟩
  have found (j : Nat) : tblFind (s.windows.map fun (p : Nat × Window) => if p.1 = ctx * 64 + n then (p.1, { p.2 with held := false }) else p) j =
      (tblFind s.windows j).map fun y => if j = ctx * 64 + n then { y with held := false } else y := by
    rw [tblFind_map_at _ fun p => by split <;> rfl]
    refine congrArg (fun f => (tblFind s.windows j).map f) (funext fun y => ?_)
    split <;> rfl
  refine ⟨_, rfl, rfl, ?_, fun j other => ?_⟩
  · refine (found _).trans ?_
    rw [bound, Option.map_some, if_pos rfl]
  · refine (found j).trans ?_
    simp only [if_neg other]
    exact Option.map_id'

end Sys2Proof.Proofs.HostAccesses
end

section
/-! SUPPORT. The energy accounts (R412-R415): what each charge adds to them, and where the energy of an interval goes. -/

namespace Sys2Proof.Machine

open Sys2Proof.Claims

/-! ### Sums over a table -/

theorem foldl_add (l : List Nat) (a : Nat) : l.foldl (· + ·) a = a + l.foldl (· + ·) 0 := by
  induction l generalizing a with
  | nil => rfl
  | cons b r ih => rw [List.foldl_cons, List.foldl_cons, ih (a + b), ih (0 + b)]; omega

/-- The sum of what f gives of a table's entries. -/
def tblSum {α : Type} (f : α → Nat) (t : Tbl α) : Nat := (t.map fun p => f p.2).foldl (· + ·) 0

theorem tblSum_cons {α : Type} (f : α → Nat) (k : Nat) (x : α) (t : Tbl α) : tblSum f ((k, x) :: t) = f x + tblSum f t := by
  rw [tblSum, List.map_cons, List.foldl_cons, foldl_add, Nat.zero_add]
  rfl

/-- Of a table in order, an entry set changes the sum by what it changes itself; one that is not there counts as d. -/
theorem tblSum_tblPut {α : Type} (f : α → Nat) {d : α} (zero : f d = 0) (t : Tbl α) (sorted : tblSorted t = true) (k : Nat) (x : α) : tblSum f (tblPut t k x) + f (tblGet d t k) = tblSum f t + f x := by
  induction t with
  | nil =>
    rw [tblPut, tblSum_cons, tblGet, tblFind, Option.getD_none, zero, Nat.add_zero, Nat.add_comm]
  | cons p r ih =>
    obtain ⟨j, y⟩ := p
    have rest := ih (tblSorted_tail sorted)
    rw [tblPut]
    split
    next below =>
      have nowhere : tblFind ((j, y) :: r) k = none := by
        cases found : tblFind ((j, y) :: r) k with
        | none => rfl
        | some z =>
          obtain e | later := List.mem_cons.1 (mem_of_tblFind found)
          · cases e
            omega
          · have above := tblSorted_below sorted _ later
            exact absurd above (by simp only; omega)
      rw [tblSum_cons, tblGet, nowhere, Option.getD_none, zero]
      omega
    next =>
      split
      next here => rw [tblSum_cons, tblSum_cons, tblGet, tblFind, if_pos here, Option.getD_some]; omega
      next apart =>
        have skip : tblGet d ((j, y) :: r) k = tblGet d r k := by rw [tblGet, tblFind, if_neg apart, ← tblGet]
        rw [tblSum_cons, tblSum_cons, skip]
        omega

theorem accounts_eq (s : State) : accounts s = s.idle + tblSum Launch.energy s.launches + tblSum Ctx.idle s.ctxs := rfl

/-! ### Charges -/

/-- A state in which an energy has gone to the accounts, whose tables are in order. -/
def Pays (s t : State) (x : Nat) : Prop := tblSorted s.launches = true → tblSorted s.ctxs = true → accounts t = accounts s + x ∧ tblSorted t.launches = true ∧ tblSorted t.ctxs = true

theorem Pays.trans {s t u : State} {x y : Nat} (h : Pays s t x) (k : Pays t u y) : Pays s u (x + y) := by
  intro launches ctxs
  obtain ⟨first, launches', ctxs'⟩ := h launches ctxs
  obtain ⟨second, launches'', ctxs''⟩ := k launches' ctxs'
  exact ⟨by omega, launches'', ctxs''⟩

theorem Pays.device (s : State) (x : Nat) : Pays s { s with idle := s.idle + x } x := by
  intro launches ctxs
  refine ⟨?_, launches, ctxs⟩
  simp only [accounts_eq]
  omega

theorem Pays.modLaunch (s : State) (l : Nat) (f : Launch → Launch) (x : Nat) (adds : ∀ y, (f y).energy = y.energy + x) : Pays s (s.modLaunch l f) x := by
  intro launches ctxs
  have sum := tblSum_tblPut Launch.energy (d := {}) rfl s.launches launches l (f (s.launch l))
  have reads : accounts (s.modLaunch l f) = s.idle + tblSum Launch.energy (tblPut s.launches l (f (s.launch l))) + tblSum Ctx.idle s.ctxs := rfl
  rw [adds, show tblGet {} s.launches l = s.launch l from rfl] at sum
  refine ⟨?_, tblSorted_tblPut _ _ _ launches, ctxs⟩
  rw [reads, accounts_eq]
  omega

theorem Pays.modCtx (s : State) (c : Nat) (f : Ctx → Ctx) (x : Nat) (adds : ∀ y, (f y).idle = y.idle + x) : Pays s (s.modCtx c f) x := by
  intro launches ctxs
  have sum := tblSum_tblPut Ctx.idle (d := {}) rfl s.ctxs ctxs c (f (s.ctx c))
  have reads : accounts (s.modCtx c f) = s.idle + tblSum Launch.energy s.launches + tblSum Ctx.idle (tblPut s.ctxs c (f (s.ctx c))) := rfl
  rw [adds, show tblGet {} s.ctxs c = s.ctx c from rfl] at sum
  refine ⟨?_, launches, tblSorted_tblPut _ _ _ ctxs⟩
  rw [reads, accounts_eq]
  omega

theorem Pays.charge (s : State) (l : Option Nat) (x : Nat) : Pays s (s.charge l x) x := by
  unfold State.charge
  split
  · split
    · exact .modLaunch s _ _ x fun _ => rfl
    · exact .device s x
  · exact .device s x

theorem Pays.idleOn (s : State) (die x : Nat) : Pays s (s.idleOn die x) x := by
  unfold State.idleOn
  dsimp only
  split
  · exact .modCtx s _ _ x fun _ => rfl
  · exact .device s x

theorem weightSum_cons (k x : Nat) (w : Tbl Nat) : weightSum ((k, x) :: w) = x + weightSum w := tblSum_cons id k x w

/-- R415: what the weights receive is no more than the energy. -/
theorem shares_le (total : Nat) (w : Tbl Nat) : weightSum (shares total w) ≤ total := by
  have each (n : Nat) (w : Tbl Nat) : weightSum (w.map fun p => (p.1, total * p.2 / n)) * n ≤ total * weightSum w := by
    induction w with
    | nil => exact Nat.le_of_eq (Nat.zero_mul n)
    | cons p r ih =>
      rw [List.map_cons, weightSum_cons, weightSum_cons, Nat.add_mul, Nat.mul_add]
      exact Nat.add_le_add (Nat.div_mul_le_self _ _) ih
  have nothing (w : Tbl Nat) : weightSum (w.map fun p => (p.1, total * p.2 / 0)) = 0 := by
    induction w with
    | nil => rfl
    | cons p r ih => rw [List.map_cons, weightSum_cons, Nat.div_zero, ih]
  by_cases none : weightSum w = 0
  · rw [shares, none, nothing]
    exact Nat.zero_le total
  · have all := each (weightSum w) w
    rw [Nat.mul_comm total] at all
    exact Nat.le_of_mul_le_mul_left (by rwa [Nat.mul_comm] at all) (Nat.pos_of_ne_zero none)

theorem Pays.shareOut (s : State) (l : Tbl Nat) : Pays s (l.foldl (fun s p => s.charge (if p.1 = 0 then none else some (p.1 - 1)) p.2) s) (weightSum l) := by
  induction l generalizing s with
  | nil => exact fun launches ctxs => ⟨rfl, launches, ctxs⟩
  | cons p r ih =>
    obtain ⟨k, x⟩ := p
    rw [weightSum_cons]
    exact (Pays.charge s _ x).trans (ih _)

/-- R415: the whole of an energy goes to the accounts, the remainder of the shares too. -/
theorem Pays.share (s : State) (total : Nat) (w : Tbl Nat) : Pays s (s.share total w) total := by
  have paid := (Pays.shareOut s (shares total w)).trans (.device _ (total - weightSum (shares total w)))
  have whole : weightSum (shares total w) + (total - weightSum (shares total w)) = total := Nat.add_sub_cancel' (shares_le total w)
  rwa [whole] at paid

/-- R415: a launch that alone has the weight receives the whole energy. -/
theorem State.share_alone (s : State) (total l : Nat) {b : Nat} (some' : b ≠ 0) : s.share total [(l + 1, b)] = s.charge (some l) total := by
  have mine : shares total [(l + 1, b)] = [(l + 1, total)] := by
    have weight : weightSum [(l + 1, b)] = b := by rw [weightSum_cons]; rfl
    rw [shares, weight, List.map_cons, List.map_nil, Nat.mul_div_cancel _ (Nat.pos_of_ne_zero some')]
  have rest : total - weightSum [(l + 1, total)] = 0 := by
    rw [weightSum_cons]
    exact Nat.sub_self total
  rw [State.share, mine, rest, List.foldl_cons, List.foldl_nil, if_neg (Nat.succ_ne_zero l)]
  rfl

/-- R415: a launch whose first workgroup has begun is charged, the device where it has not. -/
theorem State.charge_launch (s : State) (l x : Nat) :
    ((s.launch l).begun = true → (s.charge (some l) x).launch l = { s.launch l with energy := (s.launch l).energy + x } ∧ (s.charge (some l) x).idle = s.idle) ∧
    ((s.launch l).begun = false → (s.charge (some l) x).launch l = s.launch l ∧ (s.charge (some l) x).idle = s.idle + x) := by
  refine ⟨fun begun => ?_, fun waits => ?_⟩
  · rw [State.charge, if_pos begun]
    exact ⟨s.modLaunch_self l fun y => { y with energy := y.energy + x }, rfl⟩
  · rw [State.charge, if_neg (by rw [waits]; decide)]
    exact ⟨rfl, rfl⟩

/-- What the accounts and the meters of an interval change. -/
def EnergyFrame (s t : State) : Prop := t = { s with launches := t.launches, ctxs := t.ctxs, idle := t.idle, cores := t.cores, metered := t.metered, spent := t.spent, fresh := t.fresh }

theorem EnergyFrame.trans {s t u : State} (h : EnergyFrame s t) (k : EnergyFrame t u) : EnergyFrame s u := by
  unfold EnergyFrame at *
  rw [k, h]

theorem EnergyFrame.charge (s : State) (l : Option Nat) (x : Nat) : EnergyFrame s (s.charge l x) ∧ (s.charge l x).cores = s.cores := by
  unfold State.charge
  split
  · split <;> exact ⟨rfl, rfl⟩
  · exact ⟨rfl, rfl⟩

theorem EnergyFrame.share (s : State) (total : Nat) (w : Tbl Nat) : EnergyFrame s (s.share total w) ∧ (s.share total w).cores = s.cores := by
  have all (l : Tbl Nat) (s : State) : EnergyFrame s (l.foldl (fun s p => s.charge (if p.1 = 0 then none else some (p.1 - 1)) p.2) s) ∧
      (l.foldl (fun s p => s.charge (if p.1 = 0 then none else some (p.1 - 1)) p.2) s).cores = s.cores := by
    induction l generalizing s with
    | nil => exact ⟨rfl, rfl⟩
    | cons p r ih =>
      obtain ⟨frame, cores⟩ := EnergyFrame.charge s (if p.1 = 0 then none else some (p.1 - 1)) p.2
      exact ⟨frame.trans (ih _).1, (ih _).2.trans cores⟩
  obtain ⟨frame, cores⟩ := all (shares total w) s
  exact ⟨frame.trans rfl, cores⟩

theorem EnergyFrame.idleOn (s : State) (die x : Nat) : EnergyFrame s (s.idleOn die x) ∧ (s.idleOn die x).cores = s.cores := by
  unfold State.idleOn
  dsimp only
  split <;> exact ⟨rfl, rfl⟩

end Sys2Proof.Machine

namespace Sys2Proof.Proofs.Energy

open Sys2Proof.Machine Sys2Proof.Claims

/-- R412, R414: the accounts once a core column's interval has been charged. -/
def coreCharged (s : State) (core dyn leak : Nat) : State :=
  if (s.core core).occupied.isEmpty && (s.core core).issued.isEmpty then s.idleOn (Config.dieOfCore core) (dyn + leak)
  else (s.share dyn (if weightSum (s.core core).issued = 0 then (s.core core).occupied else (s.core core).issued)).share leak (s.core core).occupied

/-- R413, R414: the accounts once the interval of a column that is no core has been charged. -/
def otherCharged (s : State) (kind n energy : Nat) : State :=
  if (s.weights kind n).isEmpty then s.idleOn (dieOfColumn kind n) energy else s.tickFresh.share energy (s.weights kind n)

theorem coreCharged_spec (s : State) (core dyn leak : Nat) : EnergyFrame s (coreCharged s core dyn leak) ∧ Pays s (coreCharged s core dyn leak) (dyn + leak) := by
  unfold coreCharged
  split
  · exact ⟨(EnergyFrame.idleOn s _ _).1, .idleOn s _ _⟩
  · exact ⟨(EnergyFrame.share s _ _).1.trans (EnergyFrame.share _ _ _).1, (Pays.share s dyn _).trans (.share _ leak _)⟩

theorem otherCharged_spec (s : State) (kind n energy : Nat) : EnergyFrame s (otherCharged s kind n energy) ∧ Pays s (otherCharged s kind n energy) energy := by
  have fresh : EnergyFrame s s.tickFresh := rfl
  have paid (t : State) (h : Pays s.tickFresh t energy) : Pays s t energy := h
  unfold otherCharged
  split
  · exact ⟨(EnergyFrame.idleOn s _ _).1, .idleOn s _ _⟩
  · exact ⟨fresh.trans (EnergyFrame.share _ _ _).1, paid _ (.share _ _ _)⟩

/-- R415: one launch alone is charged two energies. -/
theorem charge_twice (s : State) (l dyn leak : Nat) :
    let t := (s.charge (some l) dyn).charge (some l) leak
    ((s.launch l).begun = true → (t.launch l).energy = (s.launch l).energy + dyn + leak ∧ t.idle = s.idle) ∧
    ((s.launch l).begun = false → (t.launch l).energy = (s.launch l).energy ∧ t.idle = s.idle + dyn + leak) := by
  intro t
  have first := s.charge_launch l dyn
  have second := (s.charge (some l) dyn).charge_launch l leak
  refine ⟨fun begun => ?_, fun waits => ?_⟩
  · obtain ⟨launch, idle⟩ := first.1 begun
    obtain ⟨launch', idle'⟩ := second.1 (by rw [launch]; exact begun)
    exact ⟨by rw [launch', launch], idle'.trans idle⟩
  · obtain ⟨launch, idle⟩ := first.2 waits
    obtain ⟨launch', idle'⟩ := second.2 (by rw [launch]; exact waits)
    exact ⟨by rw [launch', launch], by rw [idle', idle]⟩

theorem charge_once (s : State) (l dyn leak : Nat) :
    let t := s.charge (some l) (dyn + leak)
    ((s.launch l).begun = true → (t.launch l).energy = (s.launch l).energy + dyn + leak ∧ t.idle = s.idle) ∧
    ((s.launch l).begun = false → (t.launch l).energy = (s.launch l).energy ∧ t.idle = s.idle + dyn + leak) := by
  intro t
  have charge := s.charge_launch l (dyn + leak)
  refine ⟨fun begun => ?_, fun waits => ?_⟩
  · obtain ⟨launch, idle⟩ := charge.1 begun
    exact ⟨by rw [launch, ← Nat.add_assoc], idle⟩
  · obtain ⟨launch, idle⟩ := charge.2 waits
    exact ⟨by rw [launch], by rw [idle, ← Nat.add_assoc]⟩

theorem idleOn_pays (s : State) (die dyn leak : Nat) :
    ((s.die die).sched.ctx < 64 → ((s.idleOn die (dyn + leak)).ctx (s.die die).sched.ctx).idle = (s.ctx (s.die die).sched.ctx).idle + dyn + leak ∧ (s.idleOn die (dyn + leak)).idle = s.idle) ∧
    (64 ≤ (s.die die).sched.ctx → (s.idleOn die (dyn + leak)).idle = s.idle + dyn + leak) := by
  refine ⟨fun turn => ?_, fun idle => ?_⟩
  · rw [State.idleOn, if_pos turn, State.modCtx_self, Nat.add_assoc]
    exact ⟨rfl, rfl⟩
  · rw [State.idleOn, if_neg (not_lt.2 idle), Nat.add_assoc]

/-- Who pays for an interval, by the accounts of the state u once it has been charged. -/
def Charged (s u : State) (alone : Nat → Prop) (unheld : Prop) (who dyn leak : Nat) : Prop :=
  (∀ l, alone l → ((s.launch l).begun = true → (u.launch l).energy = (s.launch l).energy + dyn + leak ∧ u.idle = s.idle) ∧
    ((s.launch l).begun = false → (u.launch l).energy = (s.launch l).energy ∧ u.idle = s.idle + dyn + leak)) ∧
  (unheld → (who < 64 → (u.ctx who).idle = (s.ctx who).idle + dyn + leak ∧ u.idle = s.idle) ∧ (64 ≤ who → u.idle = s.idle + dyn + leak))

theorem coreCharged_charged (s : State) (core dyn leak : Nat) :
    Charged s (coreCharged s core dyn leak) (fun l => ∃ a b, a ≠ 0 ∧ b ≠ 0 ∧ (s.core core).occupied = [(l + 1, a)] ∧ (s.core core).issued = [(l + 1, b)])
      ((s.core core).occupied = [] ∧ (s.core core).issued = []) (s.die (core / 80)).sched.ctx dyn leak := by
  refine ⟨?_, ?_⟩
  · rintro l ⟨a, b, some', issues, occupied, issued⟩
    have weight : weightSum [(l + 1, b)] = b := by rw [weightSum_cons]; rfl
    have charged : coreCharged s core dyn leak = (s.charge (some l) dyn).charge (some l) leak := by
      rw [coreCharged, occupied, issued, weight, if_neg issues, State.share_alone _ _ _ issues, State.share_alone _ _ _ some']
      rfl
    rw [charged]
    exact charge_twice s l dyn leak
  · rintro ⟨occupied, issued⟩
    have charged : coreCharged s core dyn leak = s.idleOn (core / 80) (dyn + leak) := by
      rw [coreCharged, occupied, issued]
      rfl
    rw [charged]
    exact idleOn_pays s (core / 80) dyn leak

theorem otherCharged_charged (s : State) (kind n dyn leak : Nat) (other : kind ≠ 0) :
    Charged s (otherCharged s kind n (dyn + leak)) (fun l => ∃ b, b ≠ 0 ∧ ¬ (kind = 1 ∧ 32 ≤ n % 44 ∧ n % 44 < 36) ∧ tblGet [] s.metered (meterKey kind n) = [(l + 1, b)])
      (¬ (kind = 1 ∧ 32 ≤ n % 44 ∧ n % 44 < 36) ∧ tblGet [] s.metered (meterKey kind n) = []) (s.die (if kind = 1 then n / 44 else n / 3)).sched.ctx dyn leak := by
  have weights (noStation : ¬ (kind = 1 ∧ 32 ≤ n % 44 ∧ n % 44 < 36)) : s.weights kind n = tblGet [] s.metered (meterKey kind n) := by
    rw [State.weights, if_neg]
    simpa [isStation] using noStation
  have die : dieOfColumn kind n = if kind = 1 then n / 44 else n / 3 := by
    unfold dieOfColumn
    split
    · exact absurd rfl other
    · rfl
    next notOne => rw [if_neg notOne]; rfl
  refine ⟨?_, ?_⟩
  · rintro l ⟨b, some', noStation, metered⟩
    have charged : otherCharged s kind n (dyn + leak) = s.tickFresh.charge (some l) (dyn + leak) := by
      rw [otherCharged, weights noStation, metered, State.share_alone _ _ _ some']
      rfl
    rw [charged]
    exact charge_once s.tickFresh l dyn leak
  · rintro ⟨noStation, metered⟩
    have charged : otherCharged s kind n (dyn + leak) = s.idleOn (dieOfColumn kind n) (dyn + leak) := by
      rw [otherCharged, weights noStation, metered]
      rfl
    rw [charged, die]
    exact idleOn_pays s _ dyn leak

/-- The meters of the interval are cleared: the accounts stand. -/
structure Cleared (u t : State) : Prop where
  frame : EnergyFrame u t
  launches : t.launches = u.launches
  ctxs : t.ctxs = u.ctxs
  idle : t.idle = u.idle

/-- What an interval's close leaves, by who paid for it. -/
theorem interval_closes {s u t : State} {alone : Nat → Prop} {unheld : Prop} {who dyn leak : Nat} (cleared : Cleared u t) (spec : EnergyFrame s u ∧ Pays s u (dyn + leak)) (charged : Charged s u alone unheld who dyn leak) :
    t.mem = s.mem ∧ t.groups = s.groups ∧ (tblSorted s.launches = true → tblSorted s.ctxs = true → accounts t = accounts s + dyn + leak) ∧
    (∀ l x, alone l → tblFind s.launches l = some x → x.begun = true → (t.launch l).energy = x.energy + dyn + leak ∧ t.idle = s.idle) ∧
    (∀ l x, alone l → tblFind s.launches l = some x → x.begun = false → (t.launch l).energy = x.energy ∧ t.idle = s.idle + dyn + leak) ∧
    (unheld → who < 64 → (t.ctx who).idle = (s.ctx who).idle + dyn + leak ∧ t.idle = s.idle) ∧
    (unheld → 64 ≤ who → t.idle = s.idle + dyn + leak) := by
  obtain ⟨frame, pays⟩ := spec
  obtain ⟨held, free⟩ := charged
  have whole := frame.trans cleared.frame
  have found {l : Nat} {x : Launch} (h : tblFind s.launches l = some x) : s.launch l = x := by rw [State.launch, tblGet, h]; rfl
  have launch (l : Nat) : t.launch l = u.launch l := by rw [State.launch, cleared.launches]; rfl
  have ctx (c : Nat) : t.ctx c = u.ctx c := by rw [State.ctx, cleared.ctxs]; rfl
  refine ⟨?_, ?_, fun launches ctxs => ?_, fun l x mine h begun => ?_, fun l x mine h waits => ?_, fun none turn => ?_, fun none off => ?_⟩
  · rw [whole]
  · rw [whole]
  · rw [accounts_eq t, cleared.launches, cleared.ctxs, cleared.idle, ← accounts_eq, (pays launches ctxs).1, Nat.add_assoc]
  · rw [launch, cleared.idle, ← found h]
    exact (held l mine).1 (by rw [found h]; exact begun)
  · rw [launch, cleared.idle, ← found h]
    exact (held l mine).2 (by rw [found h]; exact waits)
  · rw [ctx, cleared.idle]
    exact (free none).1 turn
  · rw [cleared.idle]
    exact (free none).2 off

theorem closeCore_cleared (s : State) (column dyn leak : Nat) : Cleared (coreCharged s column dyn leak) (s.closeCore column dyn leak) ∧ ((s.closeCore column dyn leak).core column).issued = [] ∧
    ((s.closeCore column dyn leak).core column).occupied = [] := by
  have built : s.closeCore column dyn leak = ((coreCharged s column dyn leak).modCore column fun c => { c with issued := [], occupied := [] }).logSpent (meterKey 0 column) (dyn + leak) := rfl
  generalize coreCharged s column dyn leak = u at built ⊢
  have core : (s.closeCore column dyn leak).core column = { u.core column with issued := [], occupied := [] } := by
    rw [built]
    exact u.modCore_self column fun c => { c with issued := [], occupied := [] }
  rw [core, built]
  exact ⟨⟨rfl, rfl, rfl, rfl⟩, rfl, rfl⟩

theorem closeOther_cleared (s : State) (kind column energy : Nat) : Cleared (otherCharged s kind column energy) (s.closeOther kind column energy) ∧
    tblGet [] (s.closeOther kind column energy).metered (meterKey kind column) = [] := by
  have built : s.closeOther kind column energy = { otherCharged s kind column energy with metered := tblDel s.metered (meterKey kind column) }.logSpent (meterKey kind column) energy := rfl
  generalize otherCharged s kind column energy = u at built ⊢
  rw [built]
  refine ⟨⟨rfl, rfl, rfl, rfl⟩, ?_⟩
  show tblGet [] (tblDel s.metered (meterKey kind column)) _ = []
  rw [tblGet, tblFind_tblDel_self]
  rfl

/-- Settles O41. -/
theorem energyAccounts : Obligations.EnergyAccounts := by
  intro s kind column dyn leak key who station alone unheld
  by_cases core : kind = 0
  · subst core
    obtain ⟨cleared, issued, occupied⟩ := closeCore_cleared s column dyn leak
    obtain ⟨mem, groups, all, begun, waits, turn, off⟩ := interval_closes cleared (coreCharged_spec s column dyn leak) (coreCharged_charged s column dyn leak)
    refine ⟨s.closeCore column dyn leak, rfl, mem, groups, all, ⟨issued, occupied⟩, ?_, ?_, turn, off⟩
    · rintro l b x ⟨some', ⟨a, issues, occ⟩, iss⟩
      exact begun l x ⟨a, b, issues, some', occ, iss⟩
    · rintro l b x ⟨some', ⟨a, issues, occ⟩, iss⟩
      exact waits l x ⟨a, b, issues, some', occ, iss⟩
  · obtain ⟨cleared, metered⟩ := closeOther_cleared s kind column (dyn + leak)
    obtain ⟨mem, groups, all, begun, waits, turn, off⟩ := interval_closes cleared (otherCharged_spec s kind column (dyn + leak)) (otherCharged_charged s kind column dyn leak core)
    have ran : exec (.energyIntervalClose kind column dyn leak) s = .next (s.closeOther kind column (dyn + leak)) := by
      cases kind with
      | zero => exact absurd rfl core
      | succ k => rfl
    refine ⟨s.closeOther kind column (dyn + leak), ran, mem, groups, all, ?_, ?_, ?_, ?_, ?_⟩
    · rw [if_neg core]
      exact metered
    · rintro l b x ⟨some', h⟩
      rw [if_neg core] at h
      exact begun l x ⟨b, some', h⟩
    · rintro l b x ⟨some', h⟩
      rw [if_neg core] at h
      exact waits l x ⟨b, some', h⟩
    · intro h
      rw [show unheld = _ from if_neg core] at h
      rw [show who = _ from congrArg (fun d => (s.die d).sched.ctx) (if_neg core)]
      exact turn h
    · intro h
      rw [show unheld = _ from if_neg core] at h
      rw [show who = _ from congrArg (fun d => (s.die d).sched.ctx) (if_neg core)]
      exact off h

end Sys2Proof.Proofs.Energy
end

section
/-! SUPPORT. The time base and the core clocks (R10, R437), trace packets (R399, R401), sampling (R404-R406) and the end of a trial (R407). -/

namespace Sys2Proof.Machine

open Sys2Proof.Claims

/-! ### One tick (R10, R437) -/

theorem eraseDups_nodup {α : Type} [BEq α] [LawfulBEq α] (l : List α) : l.eraseDups.Nodup := by
  induction n : l.length using Nat.strong_induction_on generalizing l with
  | _ n ih =>
    cases l with
    | nil => exact List.nodup_nil
    | cons a r =>
      rw [List.eraseDups_cons]
      refine List.nodup_cons.2 ⟨fun h => ?_, ih _ ?_ _ rfl⟩
      · have kept := (List.mem_filter.1 (List.mem_eraseDups.1 h)).2
        simp at kept
      · rw [← n, List.length_cons]
        exact Nat.lt_succ_of_le (List.length_filter_le _ _)

/-- What soft errors change (R349, R350). -/
def ErrorFrame (s t : State) : Prop := t = { s with homes := t.homes, corrected := t.corrected, mclog := t.mclog, mcNext := t.mcNext, bad := t.bad, fresh := t.fresh }

theorem ErrorFrame.trans {s t u : State} (h : ErrorFrame s t) (k : ErrorFrame t u) : ErrorFrame s u := by
  unfold ErrorFrame at *
  rw [k, h]

theorem ErrorFrame.keeps {s t : State} (h : ErrorFrame s t) : t.cores = s.cores ∧ t.mem = s.mem ∧ t.groups = s.groups ∧ t.wgs = s.wgs := by
  unfold ErrorFrame at h
  rw [h]
  exact ⟨rfl, rfl, rfl, rfl⟩

theorem State.correctAt_frame (s : State) (stack bus g j : Nat) : ErrorFrame s (s.correctAt stack bus g j) := by
  unfold State.correctAt
  extract_lets h c n s1
  have first : ErrorFrame s s1 := rfl
  split
  · exact first.trans rfl
  · exact first

theorem State.softError_frame (s : State) : ErrorFrame s s.softError := by
  unfold State.softError
  extract_lets v s1 s2
  have first : ErrorFrame s s1 := by
    unfold s1
    split
    · split
      · exact s.correctAt_frame _ _ _ _
      · rfl
    · rfl
  have second : ErrorFrame s1 s2 := by
    unfold s2
    split
    · unfold State.foundBad
      split <;> rfl
    · rfl
  clear_value s1 s2
  refine (first.trans second).trans ?_
  split <;> rfl

/-- A core's clock after a tick. -/
def Core.clocked (tick : Nat) (k : Sys2Proof.Machine.Core) : Sys2Proof.Machine.Core :=
  if tick < k.stopped then { k with ran := false }
  else if k.phase + Config.frequencyMHz k.point ≥ 1100 then { k with phase := k.phase + Config.frequencyMHz k.point - 1100, cycles := k.cycles + 1, ran := true, landed := [] } else { k with phase := k.phase + Config.frequencyMHz k.point, ran := false }

/-- The clock of a core. -/
def Core.clock (k : Sys2Proof.Machine.Core) : Nat × Bool × Nat × Nat := (k.point, k.ran, k.cycles, k.phase)

/-- What a core does in a tick. -/
def State.tickCore (s : State) (c : Nat) : State := ((s.advanceCore c).seeGroups c).drainSome c

theorem State.advanceCore_eq (s : State) (c : Nat) : s.advanceCore c = s.setCore c ((s.core c).clocked s.tick) := by
  unfold State.advanceCore Core.clocked
  dsimp only
  split
  · rfl
  · rfl

theorem State.seeGroups_core (s : State) (c d : Nat) : (d ≠ c → (s.seeGroups c).core d = s.core d) ∧ ∃ l, (s.seeGroups c).core c = { s.core c with samplers := l } := by
  unfold State.seeGroups
  split
  · exact ⟨fun _ => rfl, (s.core c).samplers, rfl⟩
  · exact ⟨fun ne => s.modCore_other _ ne, _, s.modCore_self c _⟩

theorem State.drainSome_core (s : State) (c d : Nat) : (d ≠ c → (s.drainSome c).core d = s.core d) ∧ ∃ x, (s.drainSome c).core c = { s.core c with trace := x } := by
  have drained (u : State) : (d ≠ c → (u.drainTrace c).core d = u.core d) ∧ ∃ x, (u.drainTrace c).core c = { u.core c with trace := x } := by
    refine ⟨fun ne => by rw [u.drainTrace_core, if_neg ne], (u.core c).trace.map Trace.drained, ?_⟩
    rw [u.drainTrace_core, if_pos rfl]
    rfl
  have same : (d ≠ c → s.core d = s.core d) ∧ ∃ x, s.core c = { s.core c with trace := x } := ⟨fun _ => rfl, (s.core c).trace, rfl⟩
  unfold State.drainSome
  split
  · split
    · exact same
    · split
      · exact drained s.tickFresh
      · exact same
  · exact same

theorem State.tickCore_core (s : State) (c d : Nat) : (d ≠ c → (s.tickCore c).core d = s.core d) ∧ ((s.tickCore c).core c).clock = ((s.core c).clocked s.tick).clock := by
  have first (e : Nat) : (s.advanceCore c).core e = if e = c then (s.core c).clocked s.tick else s.core e := by
    rw [s.advanceCore_eq]
    split
    next h => subst h; exact tblGet_tblPut_self _ _ _ _
    next h => exact tblGet_tblPut_other _ _ _ h
  obtain ⟨others, l, here⟩ := (s.advanceCore c).seeGroups_core c d
  obtain ⟨others', x, here'⟩ := ((s.advanceCore c).seeGroups c).drainSome_core c d
  refine ⟨fun ne => ?_, ?_⟩
  · rw [State.tickCore, others' ne, others ne, first, if_neg ne]
  · rw [State.tickCore, here', here, first, if_pos rfl]
    rfl

theorem State.tickCore_frame (s : State) (c : Nat) : DrainFrame s (s.tickCore c) := by
  have first : DrainFrame s (s.advanceCore c) := by
    rw [s.advanceCore_eq]
    rfl
  have second (u : State) : DrainFrame u (u.seeGroups c) := by
    unfold State.seeGroups
    split <;> rfl
  have third (u : State) : DrainFrame u (u.drainSome c) := by
    unfold State.drainSome
    split
    · split
      · rfl
      · split
        · exact DrainFrame.trans (t := u.tickFresh) rfl (State.drainTrace_frame _ c)
        · rfl
    · rfl
  exact (first.trans (second _)).trans (third _)

theorem DrainFrame.foldl {α : Type} {f : State → α → State} (one : ∀ s a, DrainFrame s (f s a)) (l : List α) (s : State) : DrainFrame s (l.foldl f s) := by
  induction l generalizing s with
  | nil => exact rfl
  | cons a r ih => exact (one s a).trans (ih _)

theorem DrainFrame.tick {s t : State} (h : DrainFrame s t) : t.tick = s.tick := by
  unfold DrainFrame at h
  rw [h]

/-- Each core of a list, once in it, has had its tick. -/
theorem tickCores_clock (l : List Nat) (once : l.Nodup) (s : State) (c : Nat) : ((l.foldl State.tickCore s).core c).clock = if c ∈ l then ((s.core c).clocked s.tick).clock else (s.core c).clock := by
  induction l generalizing s with
  | nil => rfl
  | cons a r ih =>
    obtain ⟨out, once'⟩ := List.nodup_cons.1 once
    have tick := (s.tickCore_frame a).tick
    rw [List.foldl_cons, ih once', tick]
    by_cases here : c = a
    · subst here
      rw [if_neg out, if_pos List.mem_cons_self]
      exact (s.tickCore_core c c).2
    · rw [(s.tickCore_core a c).1 here]
      simp only [List.mem_cons, here, false_or]

/-- A core without a queue to write writes nothing. -/
theorem State.tickCore_quiet (s : State) (c : Nat) (empty : ∀ x, (s.core c).trace = some x → x.queue = []) : (s.tickCore c).mem = s.mem ∧ ∀ d, ((s.tickCore c).core d).trace = (s.core d).trace := by
  have advanced (d : Nat) : ((s.advanceCore c).core d).trace = (s.core d).trace := by
    rw [s.advanceCore_eq]
    by_cases here : d = c
    · subst here
      refine (congrArg Core.trace (tblGet_tblPut_self _ _ _ _)).trans ?_
      unfold Core.clocked
      split
      · rfl
      · split <;> rfl
    · exact congrArg Core.trace (tblGet_tblPut_other _ _ _ here)
  have seen (d : Nat) : (((s.advanceCore c).seeGroups c).core d).trace = (s.core d).trace := by
    refine Eq.trans ?_ (advanced d)
    by_cases here : d = c
    · subst here
      obtain ⟨-, l, e⟩ := (s.advanceCore d).seeGroups_core d d
      rw [e]
    · rw [((s.advanceCore c).seeGroups_core c d).1 here]
  have mem : ((s.advanceCore c).seeGroups c).mem = s.mem := by
    rw [s.advanceCore_eq]
    unfold State.seeGroups
    split <;> rfl
  have quiet : s.tickCore c = (s.advanceCore c).seeGroups c := by
    unfold State.tickCore State.drainSome
    split
    next t trace => rw [if_pos (List.isEmpty_iff.2 (empty t ((seen c).symm.trans trace)))]
    · rfl
  rw [quiet]
  exact ⟨mem, seen⟩

/-- The memory stands where no core has a queue to write. -/
theorem tickCores_mem (l : List Nat) (s : State) (empty : ∀ c x, (s.core c).trace = some x → x.queue = []) : (l.foldl State.tickCore s).mem = s.mem := by
  induction l generalizing s with
  | nil => rfl
  | cons a r ih =>
    obtain ⟨mem, traces⟩ := s.tickCore_quiet a (empty a)
    exact (ih _ fun c x h => empty c x ((traces c).symm.trans h)).trans mem

/-- R437: a clock of 1100, 950, 800 or 550 MHz beside the time base. -/
theorem Core.clocked_clock (tick : Nat) (k : Sys2Proof.Machine.Core) : (k.clocked tick).point = k.point ∧ (k.clocked tick).ran = decide ((k.clocked tick).cycles = k.cycles + 1) ∧
    (tick < k.stopped → (k.clocked tick).cycles = k.cycles ∧ (k.clocked tick).phase = k.phase) ∧
    (k.stopped ≤ tick → (k.clocked tick).cycles * 1100 + (k.clocked tick).phase = k.cycles * 1100 + k.phase + Config.frequencyMHz k.point) := by
  unfold Core.clocked
  split
  next still => exact ⟨rfl, by simp, fun _ => ⟨rfl, rfl⟩, fun h => absurd h (by omega)⟩
  next moves =>
    split
    next wraps => exact ⟨rfl, by simp, fun h => absurd h moves, fun _ => by simp only; omega⟩
    next stays => exact ⟨rfl, by simp, fun h => absurd h moves, fun _ => by simp only; omega⟩

theorem frequency_eq (p : Nat) : Config.frequencyMHz p = if p = 0 then 1100 else if p = 1 then 950 else if p = 2 then 800 else 550 := by
  match p with
  | 0 => rfl
  | 1 => rfl
  | 2 => rfl
  | p + 3 => rfl

/-! ### Trace packets (R399, R401) -/

theorem State.modTraces_threads (s : State) (on : Nat → Bool) (f : TraceSt → TraceSt) {core slot : Nat} (present : s.hasGroup core slot = true) :
    ((s.modTraces on f).group core slot).threads = (s.group core slot).threads := by
  obtain ⟨g, found⟩ := Option.isSome_iff_exists.1 present
  have reads : tblFind (s.modTraces on f).groups (gkey core slot) = some (if on (gkey core slot / 128) then { g with trace := f g.trace } else g) := by
    unfold State.modTraces
    dsimp only
    rw [tblFind_map_at _ (fun p => by split <;> rfl), found, Option.map_some]
    split <;> rfl
  rw [State.group, State.group, tblGet, tblGet, reads, found, Option.getD_some, Option.getD_some]
  split <;> rfl

/-! ### A sample's record (R405) -/

/-- A number that lies inside bytes that were written. -/
theorem memNat_within (m : List Host.Cell) (a o n x : Nat) (l r : List Byte) (before : l.length = o) : memNat (memSetAll m (placed a (l ++ leBytes n x ++ r))) (a + o) n = x % 256 ^ n := by
  have bytes : memBytes (memSetAll m (placed a (l ++ leBytes n x ++ r))) (a + o) n = leBytes n x := by
    refine List.ext_getElem (by simp [memBytes, leBytes_length]) fun i hi hj => ?_
    rw [leBytes_length] at hj
    have here : (memBytes (memSetAll m (placed a (l ++ leBytes n x ++ r))) (a + o) n)[i] = memGet (memSetAll m (placed a (l ++ leBytes n x ++ r))) (a + o + i) := by
      simp [memBytes]
    rw [here, memGet_memSetAll_placed, if_pos (by simp only [List.length_append, leBytes_length]; omega), List.getD_eq_getElem?_getD, show a + o + i - a = o + i by omega,
      List.append_assoc, List.getElem?_append_right (by omega), before, Nat.add_sub_cancel_left, List.getElem?_append_left (by rw [leBytes_length]; exact hj),
      List.getElem?_eq_getElem (by rw [leBytes_length]; exact hj), Option.getD_some]
  rw [memNat, bytes, leNat_leBytes]

/-- The record of a sample, as it stands in memory. -/
theorem sampleRecord_reads (m : List Host.Cell) (a part slot : Nat) (pos : Long) (time : Nat) (ival : Word) (rwc n reason : Nat) (isPart : part < 4) (isSlot : slot < 32) :
    let t := memSetAll m (placed a (sampleRecord part slot pos time ival rwc n reason))
    memNat t a 8 = part * 2 ^ 62 + slot * 2 ^ 57 + pos.toNat % 2 ^ 57 ∧ memNat t (a + 8) 4 = time % 2 ^ 32 ∧
      memNat t (a + 12) 4 = (ival.toNat % 64 * 2 ^ 26 + rwc % 2 ^ 16 * 2 ^ 10 + n * 2 ^ 4 + reason) % 2 ^ 32 ∧ ∀ x, x < a ∨ a + 16 ≤ x → memGet t x = memGet m x := by
  intro t
  have first := memNat_within m a 0 8 (part * 2 ^ 62 + slot * 2 ^ 57 + pos.toNat % 2 ^ 57) [] (leBytes 4 (time % 2 ^ 32) ++ leBytes 4 (ival.toNat % 64 * 2 ^ 26 + rwc % 2 ^ 16 * 2 ^ 10 + n * 2 ^ 4 + reason)) rfl
  have second := memNat_within m a 8 4 (time % 2 ^ 32) (leBytes 8 (part * 2 ^ 62 + slot * 2 ^ 57 + pos.toNat % 2 ^ 57)) (leBytes 4 (ival.toNat % 64 * 2 ^ 26 + rwc % 2 ^ 16 * 2 ^ 10 + n * 2 ^ 4 + reason)) (leBytes_length 8 _)
  have third := memNat_within m a 12 4 (ival.toNat % 64 * 2 ^ 26 + rwc % 2 ^ 16 * 2 ^ 10 + n * 2 ^ 4 + reason) (leBytes 8 (part * 2 ^ 62 + slot * 2 ^ 57 + pos.toNat % 2 ^ 57) ++ leBytes 4 (time % 2 ^ 32)) []
    (by rw [List.length_append, leBytes_length, leBytes_length])
  rw [List.nil_append, ← List.append_assoc] at first
  rw [List.append_nil] at third
  refine ⟨first.trans (Nat.mod_eq_of_lt (by omega)), second.trans (Nat.mod_eq_of_lt (by omega)), third, fun x out => ?_⟩
  rw [memGet_memSetAll_placed, sampleRecord]
  simp only [List.length_append, leBytes_length]
  rw [if_neg (by omega)]

end Sys2Proof.Machine

namespace Sys2Proof.Proofs.TimeTrace

open Sys2Proof.Machine Sys2Proof.Claims

theorem timeBase : TimeBase := by
  intro s
  let u : State := { s.softError with tick := s.tick + 1 }
  have cores : u.cores = s.cores ∧ u.mem = s.mem ∧ u.groups = s.groups ∧ u.wgs = s.wgs := s.softError_frame.keeps
  have core (c : Nat) : u.core c = s.core c := by rw [State.core, cores.1]; rfl
  have ran : exec .timeBaseTick s = .next (s.liveCores.foldl State.tickCore u) := rfl
  have frame : DrainFrame u (s.liveCores.foldl State.tickCore u) := .foldl (fun s c => s.tickCore_frame c) _ u
  have once : s.liveCores.Nodup := eraseDups_nodup _
  refine ⟨_, ran, frame.tick, fun quiet => ?_, ?_, ?_, fun c k found => ?_⟩
  · refine (tickCores_mem _ u fun c x trace => ?_).trans cores.2.1
    rw [core, State.core, tblGet] at trace
    cases found : tblFind s.cores c with
    | none =>
      rw [found] at trace
      cases trace
    | some k =>
      rw [found] at trace
      exact quiet c k x found trace
  · unfold DrainFrame at frame
    rw [frame]
    exact cores.2.2.1
  · unfold DrainFrame at frame
    rw [frame]
    exact cores.2.2.2
  · have live : c ∈ s.liveCores := List.mem_eraseDups.2 (List.mem_append_left _ (List.mem_append_left _ (List.mem_map.2 ⟨_, mem_of_tblFind found, rfl⟩)))
    have here : u.core c = k := by rw [core, State.core, tblGet, found]; rfl
    have clock := tickCores_clock _ once u c
    rw [if_pos live, here] at clock
    obtain ⟨point, rans, stands, runs⟩ := k.clocked_clock u.tick
    simp only [Core.clock, Prod.mk.injEq] at clock
    obtain ⟨point', rans', cycles', phase'⟩ := clock
    rw [point', rans', cycles', phase']
    rw [frequency_eq] at runs
    exact ⟨point, rans, stands, runs⟩

theorem tracePackets : TracePackets := by
  intro s core x trace time lost
  have run : exec (.traceLostPacket core) s = execTraceLostPacket core s := rfl
  rw [execTraceLostPacket] at run
  simp only [trace] at run
  refine ⟨fun on => ⟨_, rfl, rfl, rfl, ?_⟩, fun on dropped room => ?_, fun none => ?_⟩
  · refine (congrArg Core.trace (s.modCore_self core _)).trans ?_
    simp only [trace, Option.map_some, on, Bool.not_true, Bool.false_eq_true, ↓reduceIte]
    rfl
  · have goes : ¬ (!x.on || decide (x.drop = 0) || decide (x.queue.length + lost.length > 4096)) = true := by
      rw [on, decide_eq_false dropped, decide_eq_false (not_lt.2 room)]
      decide
    rw [if_neg goes] at run
    refine ⟨_, run, rfl, ?_, fun slot low present => ⟨?_, ?_⟩⟩
    · exact congrArg Core.trace (s.modCore_self core fun c => { c with trace := some { x with queue := x.queue ++ lost, drop := 0 } })
    · exact congrArg TraceSt.lost (State.modTraces_group (s.modCore core _) (fun c => c = core) (fun t => { t with lost := true }) low (decide_eq_true rfl) present)
    · exact State.modTraces_threads (s.modCore core _) (fun c => c = core) (fun t => { t with lost := true }) present
  · refine run.trans (if_pos ?_)
    obtain h | h | h := none
    · rw [h]
      rfl
    · rw [decide_eq_true h, Bool.or_true, Bool.true_or]
    · rw [decide_eq_true (show x.queue.length + lost.length > 4096 from h), Bool.or_true]

/-- R404, R405: the state in which a sampler's next sample is a period later. -/
def resampled (s : State) (core ctx : Nat) (m : Sampler) : State := s.modCore core fun c => { c with samplers := tblPut c.samplers ctx m }

theorem resampled_sampler (s : State) (core ctx : Nat) (m : Sampler) : tblFind ((resampled s core ctx m).core core).samplers ctx = some m := by
  rw [resampled, State.modCore_self]
  exact tblFind_tblPut_self _ _ _

theorem onePart {mask part : Nat} (isPart : part < 4) (one : ∀ p, p < 4 → (mask.testBit p = true ↔ p = part)) : (List.range 4).filter (fun q => bit mask q) = [part] := by
  have bits (p : Nat) (low : p < 4) : bit mask p = decide (p = part) := by
    rw [bit_eq_testBit, Bool.eq_iff_iff, one p low, decide_eq_true_eq]
  have same : (List.range 4).filter (fun q => bit mask q) = (List.range 4).filter (fun q => decide (q = part)) := List.filter_congr fun q h => bits q (List.mem_range.1 h)
  rw [same]
  obtain rfl | rfl | rfl | rfl : part = 0 ∨ part = 1 ∨ part = 2 ∨ part = 3 := by omega
  all_goals rfl

theorem sampleTick_runs {s : State} {core ctx part : Nat} {m : Sampler} (samples : Samples s core ctx part m) :
    exec (.sampleTick core) s = .next ((resampled s core ctx { m with next := m.next + m.period }).samplePart core ctx part) := by
  obtain ⟨only, on, started, due, stays, isPart, one⟩ := samples
  show execSampleTick core s = _
  rw [execSampleTick, only, List.foldl_cons, List.foldl_nil]
  have first : ¬ (!m.on || !m.started || decide ((s.core core).cycles < m.next)) = true := by
    rw [on, started, decide_eq_false (not_lt.2 due)]
    decide
  have second : ¬ (m.stopEmpty && m.seen && !s.holdsGroup core ctx) = true := by
    obtain h | h | h := stays <;> simp [h]
  rw [State.sampleCtx, onePart isPart one]
  exact congrArg Host.Outcome.next ((if_neg first).trans (if_neg second))

theorem putSample_room {s : State} {core ctx : Nat} {m : Sampler} (found : tblFind (s.core core).samplers ctx = some m) (room : m.written < m.capacity) (l : List Byte) :
    let t := s.putSample core ctx l
    t.mem = memSetAll s.mem (placed (m.base + 16 * m.written) l) ∧ tblFind (t.core core).samplers ctx = some { m with written := m.written + 1 } := by
  have built : s.putSample core ctx l = resampled (s.bufferWrite (m.base + 16 * m.written) l) core ctx { m with written := m.written + 1 } := by
    rw [State.putSample, found]
    exact if_neg (not_le.2 room)
  intro t
  have t' : t = resampled (s.bufferWrite (m.base + 16 * m.written) l) core ctx { m with written := m.written + 1 } := built
  rw [t']
  exact ⟨State.bufferWrite_mem _ _ _, resampled_sampler _ _ _ _⟩

theorem putSample_full {s : State} {core ctx : Nat} {m : Sampler} (found : tblFind (s.core core).samplers ctx = some m) (full : m.capacity ≤ m.written) (l : List Byte) :
    (s.putSample core ctx l).mem = s.mem ∧ tblFind ((s.putSample core ctx l).core core).samplers ctx = some { m with dropped := m.dropped + 1 } := by
  have built : s.putSample core ctx l = resampled s core ctx { m with dropped := m.dropped + 1 } := by
    rw [State.putSample, found]
    exact if_pos full
  rw [built]
  exact ⟨rfl, resampled_sampler _ _ _ _⟩

theorem nextSampled_lt {s : State} {core part ctx k : Nat} {last : Option Nat} (found : s.nextSampled core part ctx last = some k) : k < 32 := by
  have low (c : Bool) (x : Nat) (h : (if c then some (x % 32) else none) = some k) : k < 32 := by
    split at h
    · cases h
      exact Nat.mod_lt _ (by decide)
    · cases h
  obtain ⟨i, -, h⟩ := List.exists_of_findSome?_eq_some found
  exact low _ _ h

theorem sampling : Sampling := by
  intro s core ctx part m samples a next
  have isPart : part < 4 := samples.2.2.2.2.2.1
  have ran := sampleTick_runs samples
  have found := resampled_sampler s core ctx { m with next := m.next + m.period }
  have same (q : Option Nat) : (resampled s core ctx { m with next := m.next + m.period }).nextSampled core part ctx q = s.nextSampled core part ctx q := rfl
  have rest : (resampled s core ctx { m with next := m.next + m.period }).mem = s.mem ∧ (resampled s core ctx { m with next := m.next + m.period }).groups = s.groups ∧
    (resampled s core ctx { m with next := m.next + m.period }).wgs = s.wgs ∧ (resampled s core ctx { m with next := m.next + m.period }).tick = s.tick := ⟨rfl, rfl, rfl, rfl⟩
  generalize resampled s core ctx { m with next := m.next + m.period } = u at ran found same rest
  obtain ⟨mem, groups, wgs, tick⟩ := rest
  have onNone (h : next = none) : u.samplePart core ctx part = u.putSample core ctx (sampleRecord part 0 0 s.tick 0 0 0 12) := by
    rw [State.samplePart, found]
    dsimp only
    rw [same, show s.nextSampled core part ctx (tblFind m.last part) = none from h, tick]
  have onSome {k : Nat} (h : next = some k) : u.samplePart core ctx part = (resampled u core ctx { m with next := m.next + m.period, last := tblPut m.last part k }).putSample core ctx
      (sampleRecord part k (s.group core (32 * part + k)).lead s.tick (s.wg (s.group core (32 * part + k)).wg).ival (s.wg (s.group core (32 * part + k)).wg).rwcStart
        (s.group core (32 * part + k)).leadN (s.group core (32 * part + k)).reason) := by
    have group : u.group core (32 * part + k) = s.group core (32 * part + k) := by rw [State.group, groups]; rfl
    have wg (w : Nat) : u.wg w = s.wg w := by rw [State.wg, wgs]; rfl
    rw [State.samplePart, found]
    dsimp only
    rw [same, show s.nextSampled core part ctx (tblFind m.last part) = some k from h, tick]
    dsimp only
    rw [group, wg]
    rfl
  refine ⟨?_, fun h room => ?_, fun full => ?_⟩
  · intro k h room g
    have sampler := resampled_sampler u core ctx { m with next := m.next + m.period, last := tblPut m.last part k }
    obtain ⟨written, counted⟩ := putSample_room sampler room (sampleRecord part k g.lead s.tick (s.wg g.wg).ival (s.wg g.wg).rwcStart g.leadN g.reason)
    rw [onSome h] at ran
    refine ⟨_, ran, counted, ?_⟩
    have there : (resampled u core ctx { m with next := m.next + m.period, last := tblPut m.last part k }).mem = s.mem := mem
    rw [written, there]
    exact sampleRecord_reads s.mem a part k g.lead s.tick (s.wg g.wg).ival (s.wg g.wg).rwcStart g.leadN g.reason isPart (nextSampled_lt h)
  · obtain ⟨written, -⟩ := putSample_room found room (sampleRecord part 0 0 s.tick 0 0 0 12)
    rw [onNone h] at ran
    refine ⟨_, ran, ?_⟩
    rw [written, mem]
    obtain ⟨first, second, third, -⟩ := sampleRecord_reads s.mem a part 0 0 s.tick 0 0 0 12 isPart (by decide)
    exact ⟨by simpa using first, second, third⟩
  · cases h : next with
    | none =>
      obtain ⟨same', dropped⟩ := putSample_full found full (sampleRecord part 0 0 s.tick 0 0 0 12)
      rw [onNone h] at ran
      exact ⟨_, _, ran, same'.trans mem, dropped, rfl, rfl, rfl⟩
    | some k =>
      have sampler := resampled_sampler u core ctx { m with next := m.next + m.period, last := tblPut m.last part k }
      obtain ⟨same', dropped⟩ := putSample_full sampler full (sampleRecord part k (s.group core (32 * part + k)).lead s.tick (s.wg (s.group core (32 * part + k)).wg).ival
        (s.wg (s.group core (32 * part + k)).wg).rwcStart (s.group core (32 * part + k)).leadN (s.group core (32 * part + k)).reason)
      rw [onSome h] at ran
      exact ⟨_, _, ran, same'.trans mem, dropped, rfl, rfl, rfl⟩

/-- R407: a group as the end of a context's trial leaves it. -/
def undebted (s : State) (ctx : Nat) (g : Group) : Group := if s.ctxOfWg g.wg = ctx then { g with debt := 0 } else g

theorem undebted_same (s : State) (ctx : Nat) (g : Group) : (undebted s ctx g).threads = g.threads ∧ (s.ctxOfWg g.wg = ctx → (undebted s ctx g).debt = 0) ∧ (s.ctxOfWg g.wg ≠ ctx → undebted s ctx g = g) := by
  unfold undebted
  split
  next h => exact ⟨rfl, fun _ => rfl, fun k => absurd h k⟩
  next h => exact ⟨rfl, fun k => absurd k h, fun _ => rfl⟩

theorem trialEnd : TrialEnd := by
  intro s ctx x trial
  have run : exec (.trialEnd ctx) s = execTrialEnd ctx s := rfl
  rw [execTrialEnd] at run
  simp only [trial] at run
  refine ⟨fun early => run.trans (congrArg Host.Outcome.next (if_neg (not_le.2 early))), fun due => ⟨s.endTrial ctx, run.trans (congrArg Host.Outcome.next (if_pos due)), (s.endTrial_mem ctx).1, ?_⟩⟩
  have some' : ¬ (s.ctx ctx).trial.isNone = true := by
    rw [trial]
    exact Bool.false_ne_true
  have ended : (s.endTrial ctx).ctxs = (s.modCtx ctx fun c => { c with trial := none, trialEnd := c.progress }).ctxs ∧
      (s.endTrial ctx).groups = s.groups.map fun (p : Nat × Group) => (p.1, undebted s ctx p.2) := by
    rw [State.endTrial, if_neg some']
    refine ⟨rfl, List.map_congr_left fun p _ => ?_⟩
    by_cases h : s.ctxOfWg p.2.wg = ctx
    · exact (if_pos h).trans (congrArg (Prod.mk p.1) (if_pos h).symm)
    · exact (if_neg h).trans (congrArg (Prod.mk p.1) (if_neg h).symm)
  have ctx' : (s.endTrial ctx).ctx ctx = { s.ctx ctx with trial := none, trialEnd := (s.ctx ctx).progress } := by
    rw [State.ctx, ended.1]
    exact s.modCtx_self ctx fun c => { c with trial := none, trialEnd := c.progress }
  have found (core slot : Nat) : tblFind (s.endTrial ctx).groups (gkey core slot) = (tblFind s.groups (gkey core slot)).map (undebted s ctx) := by
    rw [ended.2, tblFind_map _ (undebted s ctx) fun _ => rfl]
  rw [ctx']
  refine ⟨rfl, rfl, rfl, fun core slot => ?_⟩
  rw [State.group, State.group, State.hasGroup, tblGet, tblGet, found]
  cases tblFind s.groups (gkey core slot) with
  | none => exact ⟨rfl, fun h => absurd h Bool.false_ne_true, fun _ => rfl⟩
  | some g =>
    obtain ⟨threads, mine, other⟩ := undebted_same s ctx g
    exact ⟨threads, fun _ => mine, other⟩

/-- Settles O40. -/
theorem timeTraceAndSampling : Obligations.TimeTraceAndSampling := ⟨timeBase, tracePackets, sampling, trialEnd⟩

end Sys2Proof.Proofs.TimeTrace
end

section
/-! SUPPORT. The lectern (R7, R204, R263, R264) and the settles of the ring (R212). -/

namespace Sys2Proof.Machine

open Sys2Proof.Claims

theorem tblGet_placedAll (l : List Byte) (t : Tbl Byte) (a k : Nat) : tblGet 0 ((placed a l).foldl (fun t b => tblPut t b.1 b.2) t) k = if a ≤ k ∧ k < a + l.length then l.getD (k - a) 0 else tblGet 0 t k := by
  induction l generalizing t a with
  | nil =>
    rw [if_neg (by simp)]
    rfl
  | cons b r ih =>
    rw [placed, List.foldl_cons, ih, List.length_cons]
    by_cases here : k = a
    · subst here
      rw [if_neg (by omega), if_pos (by omega), Nat.sub_self, tblGet_tblPut_self]
      rfl
    · rw [tblGet_tblPut_other _ _ _ here]
      by_cases inside : a + 1 ≤ k ∧ k < a + 1 + r.length
      · rw [if_pos inside, if_pos (by omega), show k - a = (k - (a + 1)) + 1 by omega, List.getD_cons_succ]
      · rw [if_neg inside, if_neg (by omega)]

/-- Bytes put into a result are read back. -/
theorem leNat_placedAll (t : Tbl Byte) (a n : Nat) {x : Nat} (small : x < 256 ^ n) : leNat (tabBytes ((placed a (leBytes n x)).foldl (fun t b => tblPut t b.1 b.2) t) a n) = x := by
  have bytes : tabBytes ((placed a (leBytes n x)).foldl (fun t b => tblPut t b.1 b.2) t) a n = leBytes n x := by
    refine List.ext_getElem (by simp [tabBytes, leBytes_length]) fun i hi hj => ?_
    simp only [tabBytes, List.getElem_map, List.getElem_range, tblGet_placedAll]
    rw [leBytes_length] at hj
    rw [leBytes_length, if_pos (by omega), Nat.add_sub_cancel_left, List.getD_eq_getElem _ _ (by rw [leBytes_length]; exact hj)]
  rw [bytes, leNat_leBytes, Nat.mod_eq_of_lt small]

theorem State.modPend_found (s : State) {q : Nat} {p : Pend} (f : Pend → Pend) (found : tblFind s.pends q = some p) : tblFind (s.modPend q f).pends q = some (f p) := by
  rw [State.modPend, found]
  exact tblFind_tblPut_self _ _ _

theorem State.modPend_keeps (s : State) (q : Nat) (f : Pend → Pend) : (s.modPend q f).ctxs = s.ctxs ∧ (s.modPend q f).timers = s.timers ∧ (s.modPend q f).dies = s.dies ∧ (s.modPend q f).tick = s.tick := by
  unfold State.modPend
  split <;> exact ⟨rfl, rfl, rfl, rfl⟩

/-- R263: a result with the round that a lane's increment has given it. -/
def Pend.rounded (p : Pend) (lane : Nat) (v : Word) : Pend := { p with bytes := (placed (lane * 16) (leBytes 4 v.toNat)).foldl (fun t b => tblPut t b.1 b.2) p.bytes, wait := p.wait - 1 }

/-- R263: an increment that a lane of a result waits for. -/
theorem State.announceRound_lane (s : State) {ctx slot q : Nat} (lane : Nat) {x : Region} {p : Pend} (region : tblFind (s.ctx ctx).regions slot = some x) (waits : tblFind s.pends q = some p) :
    let t := s.announceRound ctx slot lane (some q)
    tblFind (t.ctx ctx).regions slot = some { x with counter := x.counter + 1 } ∧ ⟨0, s.tick + Config.lecternLatency, .roundAnnouncementArrival ctx slot (x.counter + 1)⟩ ∈ t.timers ∧
      tblFind t.pends q = some (p.rounded lane (x.counter + 1)) ∧ t.dies = s.dies ∧ t.mem = s.mem := by
  let s1 := s.modCtx ctx fun c => { c with regions := tblPut c.regions slot { x with counter := x.counter + 1 } }
  let s2 := s1.modPend q fun p => p.rounded lane (x.counter + 1)
  let s3 := s2.inTicks Config.lecternLatency (.roundAnnouncementArrival ctx slot (x.counter + 1))
  have found : tblFind s3.pends q = some (p.rounded lane (x.counter + 1)) := s1.modPend_found _ waits
  obtain ⟨ctxs, timers, dies, tick⟩ := s1.modPend_keeps q fun p => p.rounded lane (x.counter + 1)
  have regions : tblFind (s3.ctx ctx).regions slot = some { x with counter := x.counter + 1 } := by
    have here : s3.ctx ctx = s1.ctx ctx := by
      show tblGet {} s2.ctxs ctx = _
      rw [ctxs]
      rfl
    rw [here, State.modCtx_self]
    exact tblFind_tblPut_self _ _ _
  have due : (⟨0, s.tick + Config.lecternLatency, .roundAnnouncementArrival ctx slot (x.counter + 1)⟩ : Timer) ∈ s3.timers := by
    rw [show s.tick = s2.tick from tick.symm]
    exact List.mem_append_right _ List.mem_cons_self
  have mem : s3.mem = s.mem := (s1.modPend_mem q _).1
  have ends : s.announceRound ctx slot lane (some q) = if (p.rounded lane (x.counter + 1)).wait = 0 then s3.now (.loadCompletion q) else s3 := by
    rw [State.announceRound, region]
    dsimp only
    change (match tblFind s3.pends q with | some p => if p.wait = 0 then s3.now (.loadCompletion q) else s3 | none => s3) = _
    simp only [found]
  intro t
  have built : t = if (p.rounded lane (x.counter + 1)).wait = 0 then s3.now (.loadCompletion q) else s3 := ends
  rw [built]
  split <;> exact ⟨regions, due, found, dies, mem⟩

theorem State.announceRound_dies (s : State) (ctx slot lane : Nat) (id : Option Nat) : (s.announceRound ctx slot lane id).dies = s.dies := by
  unfold State.announceRound
  split
  · rfl
  · split
    · rfl
    · extract_lets v s1 s2 s3
      have dies : s3.dies = s.dies := (s1.modPend_keeps _ _).2.2.1
      clear_value s3
      split
      · split <;> exact dies
      · exact dies

/-- R204: the invalidations that an announced sequence number makes effective. -/
theorem State.announceSeq_spec (s : State) (die n : Nat) :
    (s.announceSeq die n).dies = s.dies ∧ (s.announceSeq die n).mem = s.mem ∧
      (s.announceSeq die n).invals = s.invals.map (fun v => if v.die = die ∧ v.seq = n ∧ v.due = none then { v with due := some (s.tick + Config.lecternLatency) } else v) ∧
      ∀ v ∈ s.invals, v.die = die → v.seq = n → v.due = none → ⟨0, s.tick + Config.lecternLatency, .invalidationApply v.core⟩ ∈ (s.announceSeq die n).timers := by
  have all (l : List Inval) (u : State) : ∃ ts, l.foldl (fun (s : State) (v : Inval) => s.inTicks Config.lecternLatency (.invalidationApply v.core)) u = { u with timers := u.timers ++ ts } ∧
      ∀ v ∈ l, ⟨0, u.tick + Config.lecternLatency, .invalidationApply v.core⟩ ∈ ts := by
    induction l generalizing u with
    | nil => exact ⟨[], by rw [List.append_nil]; rfl, fun v hv => nomatch hv⟩
    | cons a r ih =>
      obtain ⟨ts, e, due⟩ := ih (u.inTicks Config.lecternLatency (.invalidationApply a.core))
      refine ⟨⟨0, u.tick + Config.lecternLatency, .invalidationApply a.core⟩ :: ts, ?_, fun v hv => ?_⟩
      · rw [List.foldl_cons, e]
        simp only [State.inTicks, List.append_assoc, List.singleton_append]
      · obtain rfl | hv := List.mem_cons.1 hv
        · exact List.mem_cons_self
        · exact List.mem_cons_of_mem _ (due v hv)
  obtain ⟨ts, e, due⟩ := all (s.invals.filter fun v => v.die = die && v.seq = n && v.due.isNone)
    { s with invals := s.invals.map (fun (v : Inval) => if v.die = die && v.seq = n && v.due.isNone then { v with due := some (s.tick + Config.lecternLatency) } else v) }
  have built : s.announceSeq die n = _ := e
  rw [built]
  refine ⟨rfl, rfl, List.map_congr_left fun v _ => ?_, fun v hv isDie isSeq waits => List.mem_append_right _ (due v (List.mem_filter.2 ⟨hv, ?_⟩))⟩
  · simp only [Bool.and_eq_true, decide_eq_true_eq, Option.isNone_iff_eq_none, and_assoc]
  · simp [isDie, isSeq, waits]

end Sys2Proof.Machine

namespace Sys2Proof.Proofs.Lectern

open Sys2Proof.Machine Sys2Proof.Claims

/-- R7: the port without its first item, and the item announced. -/
theorem lecternAnnounce_announces {s : State} {die : Nat} {i : Item} {r : List Item} (first : (s.die die).lect = i :: r) (free : (s.die die).haltNext ≤ s.tick) :
    ∃ t, exec (.lecternAnnounce die) s = .next t ∧ t.mem = s.mem ∧ (t.die die).lect = r ∧
    (∀ ctx slot lane q x p, i = .round ctx slot lane (some q) → tblFind (s.ctx ctx).regions slot = some x → tblFind s.pends q = some p →
      tblFind (t.ctx ctx).regions slot = some { x with counter := x.counter + 1 } ∧
      ⟨0, s.tick + Config.lecternLatency, .roundAnnouncementArrival ctx slot (x.counter + 1)⟩ ∈ t.timers ∧
      ∃ p', tblFind t.pends q = some p' ∧ p'.wait = p.wait - 1 ∧ leNat (tabBytes p'.bytes (lane * 16) 4) = (x.counter + 1).toNat) ∧
    (∀ n, i = .seqNo n → t.invals = s.invals.map (fun v => if v.die = die ∧ v.seq = n ∧ v.due = none then { v with due := some (s.tick + Config.lecternLatency) } else v) ∧
      ∀ v ∈ s.invals, v.die = die → v.seq = n → v.due = none → ⟨0, s.tick + Config.lecternLatency, .invalidationApply v.core⟩ ∈ t.timers) := by
  let s1 := s.modDie die fun d => { d with lect := r }
  have port : (s1.die die).lect = r := congrArg Die.lect (s.modDie_self die fun d => { d with lect := r })
  have lect (t : State) (dies : t.dies = s1.dies) : (t.die die).lect = r := by
    rw [State.die, dies]
    exact port
  have run : exec (.lecternAnnounce die) s = execLecternAnnounce die s := rfl
  rw [execLecternAnnounce] at run
  simp only [first] at run
  rw [if_neg (not_lt.2 free)] at run
  cases i with
  | round ctx slot lane id =>
    refine ⟨s1.announceRound ctx slot lane id, run, (s1.announceRound_mem _ _ _ _).1, lect _ (s1.announceRound_dies _ _ _ _), ?_, fun n e => nomatch e⟩
    rintro c k l q x p e region waits
    cases e
    obtain ⟨regions, due, found, -, -⟩ := s1.announceRound_lane lane region waits
    exact ⟨regions, due, _, found, rfl, leNat_placedAll _ _ _ (x.counter + 1).isLt⟩
  | seqNo n =>
    obtain ⟨dies, mem, invals, due⟩ := s1.announceSeq_spec die n
    refine ⟨s1.announceSeq die n, run, mem, lect _ dies, fun c k l q x p e => (nomatch e), ?_⟩
    rintro m e
    cases e
    exact ⟨invals, due⟩
  | preempt c => exact ⟨s1, run, rfl, port, fun c k l q x p e => (nomatch e), fun n e => nomatch e⟩

theorem roundArrival_moves (s : State) (ctx slot : Nat) (round : Word) (r : Region) (region : tblFind (s.ctx ctx).regions slot = some r) :
    ∃ t, exec (.roundAnnouncementArrival ctx slot round) s = .next t ∧ t.mem = s.mem ∧
      tblFind (t.ctx ctx).regions slot = some { r with mirror := round, announced := true } ∧
      (round.toNat % 2 ^ 28 ≠ 0 → t.cores = s.cores) ∧
      (round.toNat % 2 ^ 28 = 0 → ∀ c ∈ t.cores, ∀ b ∈ c.2.l1, ∀ w, b.tag = some (ctx, slot, w) → (round - w).toNat ≤ 15) := by
  let s1 := s.modCtx ctx fun c => { c with regions := tblPut c.regions slot { r with mirror := round, announced := true } }
  have found : tblFind (s1.ctx ctx).regions slot = some { r with mirror := round, announced := true } := by
    rw [State.modCtx_self]
    exact tblFind_tblPut_self _ _ _
  have run : exec (.roundAnnouncementArrival ctx slot round) s = execRoundAnnouncementArrival ctx slot round s := rfl
  rw [execRoundAnnouncementArrival] at run
  simp only [region] at run
  by_cases whole : round.toNat % 2 ^ 28 = 0
  · rw [if_pos whole] at run
    refine ⟨_, run, (State.removeBlocks_mem _ _).1, found, fun h => absurd whole h, fun _ c hc b hb w tag => ?_⟩
    obtain ⟨c', -, rfl⟩ := List.mem_map.1 hc
    have stays := (List.mem_filter.1 hb).2
    have stale : s1.staleness (ctx, slot, w) = (round - w).toNat := by
      rw [State.staleness, tblGet, found]
      rfl
    simp only [tag] at stays
    have low : ¬ s1.staleness (ctx, slot, w) > 15 := fun high => by
      change (!(decide True && decide True && decide (s1.staleness (ctx, slot, w) > 15))) = true at stays
      rw [decide_eq_true high] at stays
      simp at stays
    rw [← stale]
    exact not_lt.1 low
  · rw [if_neg whole] at run
    exact ⟨s1, run, rfl, found, fun _ => rfl, fun h => absurd h whole⟩

theorem settleEscape_moves (s : State) (n : Nat) (p : Nat × Nat × Nat × Nat) (r : List (Nat × Nat × Nat × Nat)) :
    let x := tblGet {} s.settles n
    x.queue.filter (fun q => q.2.2.1 = 0) = p :: r → 63 ≤ r.length → p.2.2.2 + 256 ≤ s.tick → ∃ t, exec (.settleEscape n) s = .next t ∧ t.mem = s.mem ∧
      let y := tblGet {} t.settles n
      (∀ q ∈ x.queue, q ∈ y.escape ∨ q ∈ y.queue) ∧ p ∈ y.escape ∧
      ∀ q ∈ x.queue, (q ∈ y.queue ↔ ¬ (q.1 = p.1 ∧ q.2.1 = p.2.1 ∧ q.2.2.1 = p.2.2.1 ∧ q.2.2.2 ≤ p.2.2.2)) := by
  intro x waiting full old
  let same (q : Nat × Nat × Nat × Nat) : Bool := q.1 = p.1 && q.2.1 = p.2.1 && q.2.2.1 = p.2.2.1 && q.2.2.2 ≤ p.2.2.2
  let y : Settle := { queue := x.queue.filter fun q => !same q, escape := x.escape ++ x.queue.filter same }
  have run : exec (.settleEscape n) s = execSettleEscape n s := rfl
  have long : ¬ (p :: r).length < 64 := by
    rw [List.length_cons]
    omega
  rw [execSettleEscape] at run
  simp only [show (tblGet {} s.settles n).queue.filter (fun q => decide (q.2.2.1 = 0)) = p :: r from waiting, if_neg long, if_pos old] at run
  refine ⟨{ s with settles := tblPut s.settles n y }, run, rfl, ?_⟩
  rw [tblGet_tblPut_self]
  have mine (q : Nat × Nat × Nat × Nat) : same q = true ↔ q.1 = p.1 ∧ q.2.1 = p.2.1 ∧ q.2.2.1 = p.2.2.1 ∧ q.2.2.2 ≤ p.2.2.2 := by
    simp only [same, Bool.and_eq_true, decide_eq_true_eq, and_assoc]
  have head : p ∈ x.queue := List.mem_of_mem_filter (waiting ▸ List.mem_cons_self)
  refine ⟨fun q hq => ?_, List.mem_append_right _ (List.mem_filter.2 ⟨head, (mine p).2 ⟨rfl, rfl, rfl, Nat.le_refl _⟩⟩), fun q hq => ?_⟩
  · by_cases h : same q = true
    · exact .inl (List.mem_append_right _ (List.mem_filter.2 ⟨hq, h⟩))
    · exact .inr (List.mem_filter.2 ⟨hq, by rw [Bool.not_eq_true] at h; rw [h]; rfl⟩)
  · rw [← mine q, List.mem_filter]
    refine ⟨fun h k => ?_, fun h => ⟨hq, ?_⟩⟩
    · rw [k] at h
      exact absurd h.2 Bool.false_ne_true
    · rw [Bool.not_eq_true] at h
      rw [h]
      rfl

/-- Settles O36. -/
theorem lecternAndSettles : Obligations.LecternAndSettles := by
  refine ⟨fun s die i r first => ⟨fun taken => ?_, lecternAnnounce_announces first⟩, roundArrival_moves, settleEscape_moves⟩
  show execLecternAnnounce die s = _
  rw [execLecternAnnounce]
  simp only [first]
  exact if_pos taken

end Sys2Proof.Proofs.Lectern
end

section
/-! SUPPORT. What the release of a group's slots and operations leaves alone, and what freeing a workgroup takes away (R179, R284, R340);
a precise fault of an instruction that had begun to wait (R334). -/

namespace Sys2Proof.Machine

open Sys2Proof.Claims

/-! ### Tables -/

theorem mem_tblDel {α : Type} {t : Tbl α} {k : Nat} {p : Nat × α} : p ∈ tblDel t k ↔ p ∈ t ∧ p.1 ≠ k := by
  rw [tblDel, List.mem_filter, decide_eq_true_eq]

/-- In a table in order an entry is the one its key names. -/
theorem tblFind_of_mem {α : Type} {t : Tbl α} (sorted : tblSorted t = true) {p : Nat × α} (hp : p ∈ t) : tblFind t p.1 = some p.2 := by
  induction t with
  | nil => nomatch hp
  | cons q r ih =>
    obtain ⟨j, y⟩ := q
    rw [tblFind]
    rcases List.mem_cons.1 hp with rfl | old
    · exact if_pos rfl
    · have above : j < p.1 := tblSorted_below sorted p old
      rw [if_neg (by omega)]
      exact ih (tblSorted_tail sorted) old

/-! ### Slots, reads and operations are given up (R274, R277, R284) -/

/-- Two states that differ in no more than slots, leases, operations under way and what is then due. -/
def WorkFrame (s t : State) : Prop :=
  t = { s with cores := t.cores, homes := t.homes, windows := t.windows, agenda := t.agenda, timers := t.timers, pends := t.pends, homeOps := t.homeOps, sent := t.sent, cur := t.cur }

namespace WorkFrame

theorem refl (s : State) : WorkFrame s s := rfl

theorem trans {s t u : State} (h : WorkFrame s t) (k : WorkFrame t u) : WorkFrame s u := by
  unfold WorkFrame at *
  rw [k, h]

theorem foldl {α : Type} {f : State → α → State} (hf : ∀ s a, WorkFrame s (f s a)) (l : List α) (s : State) : WorkFrame s (l.foldl f s) := by
  induction l generalizing s with
  | nil => exact refl s
  | cons a r ih => exact (hf s a).trans (ih _)

theorem ite {s t u : State} {p : Prop} [Decidable p] (h : WorkFrame s t) (k : WorkFrame s u) : WorkFrame s (if p then t else u) := by
  split
  · exact h
  · exact k

theorem modCore (s : State) (c : Nat) (f : Core → Core) : WorkFrame s (s.modCore c f) := rfl

theorem modHome (s : State) (h : Nat) (f : Home → Home) : WorkFrame s (s.modHome h f) := rfl

theorem modCores (s : State) (sel : Nat → Bool) (f : Core → Core) : WorkFrame s (s.modCores sel f) := rfl

theorem ofCur (s : State) (k : Issue) : WorkFrame s { s with cur := k } := rfl

theorem now (s : State) (i : Instr) : WorkFrame s (s.now i) := rfl

theorem inCycles (s : State) (c n : Nat) (i : Instr) : WorkFrame s (s.inCycles c n i) := rfl

theorem dropReader (s : State) (w : Word) : WorkFrame s (s.dropReader w) := by
  unfold State.dropReader
  exact ite ((modHome s _ _).trans (now _ _)) (modHome s _ _)

theorem untakeSlot (s : State) (core ctx home n gen : Nat) : WorkFrame s (s.untakeSlot core ctx home n gen) := by
  unfold State.untakeSlot State.modLease
  exact (modCore s _ _).trans (modHome _ _ _)

theorem release (s : State) (core ctx : Nat) (w : Word) : WorkFrame s (s.release core ctx w) := by
  unfold State.release
  exact ite ((modCore s _ _).trans (now _ _)) (ite ((modCore s _ _).trans (inCycles _ _ _ _)) (modCore s _ _))

theorem releaseRegs (s : State) (core w : Nat) (x : Thread) : WorkFrame s (s.releaseRegs core w x) := by
  unfold State.releaseRegs
  exact ite (refl s) (foldl (fun u p => release u _ _ _) _ s)

theorem dropHeld (s : State) : WorkFrame s s.dropHeld := by
  unfold State.dropHeld
  have words : WorkFrame s (s.cur.held.foldl (fun u w => u.dropReader w) s) := foldl (fun u w => dropReader u w) _ s
  exact words.trans (ofCur _ _)

theorem dropSlots (s : State) : WorkFrame s s.dropSlots := by
  unfold State.dropSlots
  have taken : WorkFrame s (s.cur.slots.foldl (fun u x => u.untakeSlot u.cur.core u.curCtx x.2.1 x.2.2.1 x.2.2.2) s) := foldl (fun u x => untakeSlot u _ _ _ _ _) _ s
  exact taken.trans (ofCur _ _)

theorem dropPubs (s : State) (ctx : Nat) (g : Group) : WorkFrame s (s.dropPubs ctx g) := by
  unfold State.dropPubs
  refine foldl (fun u w => ?_) _ s
  split
  · rfl
  · exact refl u

theorem dropReads (s : State) (core ctx : Nat) (g : Group) : WorkFrame s (s.dropReads core ctx g) := by
  unfold State.dropReads
  exact (foldl (fun u w => dropReader u w) _ s).trans (foldl (fun u x => untakeSlot u _ _ _ _ _) _ _)

theorem releaseGroups (s : State) (w : Nat) : WorkFrame s (s.releaseGroups w) := by
  unfold State.releaseGroups
  exact foldl (fun u g => ((dropPubs u _ g).trans (dropReads _ _ _ g)).trans (foldl (fun v l => releaseRegs v _ _ _) _ _)) _ s

theorem dropWgWork (s : State) (w : Nat) : WorkFrame s (s.dropWgWork w) := rfl

theorem freeAllUnits (s : State) (core w : Nat) : WorkFrame s (s.freeAllUnits core w) := by
  unfold State.freeAllUnits State.modOpm State.modBank
  exact ((foldl (fun u n => ite (modCore u _ _) (refl u)) _ s).trans (foldl (fun u n => ite (modCore u _ _) (refl u)) _ _)).trans (modCore _ _ _)

theorem returnLease (s : State) (core ctx home : Nat) : WorkFrame s (s.returnLease core ctx home) := by
  unfold State.returnLease State.modLease State.regrant
  exact ite (refl s) (((modCore s _ _).trans (modHome _ _ _)).trans (foldl (fun u r => now u _) _ _))

theorem leaveCore (s : State) (core ctx : Nat) : WorkFrame s (s.leaveCore core ctx) := by
  unfold State.leaveCore State.modLease
  exact ite (refl s) (foldl (fun u h => (returnLease u _ _ _).trans (modCore _ _ _)) _ s)

theorem dropQuiesces (s : State) (w : Nat) (parked : Bool) : WorkFrame s (s.dropQuiesces w parked) := rfl

section

variable {s t : State} (h : WorkFrame s t)
include h

theorem wgs : t.wgs = s.wgs := by rw [h]

theorem groups : t.groups = s.groups := by rw [h]

theorem launches : t.launches = s.launches := by rw [h]

theorem ctxs : t.ctxs = s.ctxs := by rw [h]

theorem tick : t.tick = s.tick := by rw [h]

theorem mem : t.mem = s.mem := by rw [h]

end

end WorkFrame

/-! ### A workgroup's resources are free (R179) -/

/-- The state once a workgroup and its groups are gone and the save area has its part back. -/
def State.without (s : State) (w : Nat) : State :=
  { s.modCtx (s.ctxOfWg w) (fun c => { c with saveUsed := c.saveUsed - (s.wg w).saveLen }) with wgs := tblDel s.wgs w, groups := s.groups.filter (fun p => p.2.wg ≠ w) }

theorem State.freeWg_frame (s : State) (w : Nat) : WorkFrame (s.without w) (s.freeWg w) := by
  have units := WorkFrame.freeAllUnits s (s.wg w).core w
  rw [State.freeWg]
  generalize s.freeAllUnits (s.wg w).core w = u at units
  have gone : WorkFrame (s.without w) { u.modCtx (s.ctxOfWg w) (fun c => { c with saveUsed := c.saveUsed - (s.wg w).saveLen }) with
      wgs := tblDel u.wgs w, groups := u.groups.filter (fun p => p.2.wg ≠ w) } := by
    unfold WorkFrame at units ⊢
    rw [units]
    rfl
  exact (((gone.trans (.ite (.refl _) (.modCores _ _ _))).trans (.modCore _ _ _)).trans (.leaveCore _ _ _)).trans (.dropQuiesces _ _ _)

/-- R174, R340: a workgroup's groups release what they hold, its operations are dropped, and it is gone. -/
def State.discard (s : State) (w : Nat) : State := ((s.releaseGroups w).dropWgWork w).freeWg w

theorem State.discard_wgs (s : State) (w : Nat) : (s.discard w).wgs = tblDel s.wgs w := by
  have given := (WorkFrame.releaseGroups s w).trans (.dropWgWork _ w)
  rw [State.discard, (State.freeWg_frame _ w).wgs]
  exact congrArg (tblDel · w) given.wgs

theorem State.discard_launches (s : State) (w : Nat) : (s.discard w).launches = s.launches := by
  have given := (WorkFrame.releaseGroups s w).trans (.dropWgWork _ w)
  rw [State.discard, (State.freeWg_frame _ w).launches]
  exact given.launches

theorem State.discardAll_wgs (l : List (Nat × Workgroup)) (s : State) {p : Nat × Workgroup} (hp : p ∈ (l.foldl (fun u q => u.discard q.1) s).wgs) :
    p ∈ s.wgs ∧ ∀ q ∈ l, p.1 ≠ q.1 := by
  induction l generalizing s with
  | nil => exact ⟨hp, fun q h => nomatch h⟩
  | cons a r ih =>
    obtain ⟨kept, rest⟩ := ih _ hp
    rw [State.discard_wgs] at kept
    obtain ⟨old, apart⟩ := mem_tblDel.1 kept
    refine ⟨old, fun q hq => ?_⟩
    rcases List.mem_cons.1 hq with rfl | later
    · exact apart
    · exact rest q later

theorem State.discardAll_launches (l : List (Nat × Workgroup)) (s : State) : (l.foldl (fun u q => u.discard q.1) s).launches = s.launches := by
  induction l generalizing s with
  | nil => rfl
  | cons a r ih =>
    rw [List.foldl_cons, ih]
    exact s.discard_launches a.1

/-! ### A workgroup halts -/

theorem State.deliverHalt_wgs (s : State) (w : Nat) (part : Option Nat) : (s.deliverHalt w part).wgs = s.wgs := foldl_same State.wgs (by intros; rfl) _ s

theorem State.deliverHalt_cores (s : State) (w : Nat) (part : Option Nat) : (s.deliverHalt w part).cores = s.cores := foldl_same State.cores (by intros; rfl) _ s

theorem State.endLaunchOf_groups (s : State) (w : Nat) : (s.endLaunchOf w).groups = s.groups := by
  unfold State.endLaunchOf State.announceLaunchHalt State.takeHaltTick
  dsimp only
  split
  · rfl
  · simp only [State.modDie_frame]
    exact foldl_same State.groups (by intros; rfl) _ _

theorem State.endLaunchOf_timers (s : State) (w : Nat) : ∀ x ∈ s.timers, x ∈ (s.endLaunchOf w).timers := by
  intro x hx
  unfold State.endLaunchOf State.announceLaunchHalt State.takeHaltTick
  dsimp only
  split
  · exact hx
  · simp only [State.modDie_frame]
    exact List.foldlRecOn (motive := fun (t : State) => x ∈ t.timers) _ _ hx (fun t ih c _ => List.mem_append_left _ ih)

/-- R336, R338: a halt that no group raises reaches every partition of the core a cycle later. -/
theorem State.deliverHalt_due (s : State) (w q : Nat) (hq : q < 4) : ⟨(s.wg w).core + 1, (s.core (s.wg w).core).cycles + 1, .haltDelivery w q⟩ ∈ (s.deliverHalt w none).timers := by
  have due : ∀ (l : List Nat) (u : State), u.wg w = s.wg w → u.core = s.core → (q ∈ l ∨ ⟨(s.wg w).core + 1, (s.core (s.wg w).core).cycles + 1, .haltDelivery w q⟩ ∈ u.timers) →
      ⟨(s.wg w).core + 1, (s.core (s.wg w).core).cycles + 1, .haltDelivery w q⟩ ∈
        (l.foldl (fun v p => v.inCycles (v.wg w).core (if (none : Option Nat) = none || (none : Option Nat) = some p then 1 else 24) (.haltDelivery w p)) u).timers := by
    intro l
    induction l with
    | nil => exact fun u _ _ h => h.resolve_left List.not_mem_nil
    | cons p r ih =>
      intro u same cores h
      refine ih _ same cores ?_
      rcases h with here | before
      · rcases List.mem_cons.1 here with rfl | later
        · right
          have added := u.mem_inCycles (u.wg w).core 1 (.haltDelivery w q)
          rw [same, cores] at added
          show _ ∈ (u.inCycles (u.wg w).core 1 (.haltDelivery w q)).timers
          rw [same]
          exact added
        · exact .inl later
      · exact .inr (List.mem_append_left _ before)
  exact due _ s rfl rfl (.inl (List.mem_range.2 hq))

/-- R336, R338: a workgroup that does not halt yet: its groups stand, and the halt is on its way. -/
theorem State.haltWg_running (s : State) (w : Nat) (r : HaltRec) (running : (s.wg w).halt = none) : (s.haltWg w none r).groups = s.groups ∧
    ∀ q, q < 4 → ⟨(s.wg w).core + 1, (s.core (s.wg w).core).cycles + 1, .haltDelivery w q⟩ ∈ (s.haltWg w none r).timers := by
  let s1 := s.modWg w (fun x => { x with halt := some r, reach := 0, settled := false, step := none, stepDone := none, stopAt := none })
  have groups : (s1.deliverHalt w none).groups = s.groups := foldl_same State.groups (by intros; rfl) _ s1
  have due (q : Nat) (hq : q < 4) : ⟨(s.wg w).core + 1, (s.core (s.wg w).core).cycles + 1, .haltDelivery w q⟩ ∈ (s1.deliverHalt w none).timers := by
    have added := s1.deliverHalt_due w q hq
    have kept : (s1.wg w).core = (s.wg w).core := by rw [State.modWg_self]
    rw [kept] at added
    exact added
  have e : s.haltWg w none r = if r.kind = 4 then s1.deliverHalt w none else (s1.deliverHalt w none).endLaunchOf w := by
    rw [State.haltWg, running]
    rfl
  rw [e]
  split
  · exact ⟨groups, due⟩
  · exact ⟨(State.endLaunchOf_groups _ w).trans groups, fun q hq => State.endLaunchOf_timers _ w _ (due q hq)⟩

theorem State.endLaunchOf_wgs (s : State) (w : Nat) : (s.endLaunchOf w).wgs = s.wgs := by
  unfold State.endLaunchOf State.announceLaunchHalt State.takeHaltTick
  dsimp only
  split
  · rfl
  · simp only [State.modDie_frame]
    exact foldl_same State.wgs (by intros; rfl) _ _

theorem State.haltWg_settled (s : State) (w : Nat) (r : HaltRec) (running : (s.wg w).halt = none) : ((s.haltWg w none r).wg w).settled = false := by
  let s1 := s.modWg w (fun x => { x with halt := some r, reach := 0, settled := false, step := none, stepDone := none, stopAt := none })
  have e : s.haltWg w none r = if r.kind = 4 then s1.deliverHalt w none else (s1.deliverHalt w none).endLaunchOf w := by
    rw [State.haltWg, running]
    rfl
  have wgs : (s.haltWg w none r).wgs = s1.wgs := by
    rw [e]
    split
    · exact s1.deliverHalt_wgs w none
    · exact (State.endLaunchOf_wgs _ w).trans (s1.deliverHalt_wgs w none)
  rw [State.wg, wgs]
  exact congrArg Workgroup.settled (s.modWg_self w _)

/-- The halt of a workgroup changes no other. -/
theorem State.haltWg_other (s : State) {w v : Nat} (apart : v ≠ w) (part : Option Nat) (r : HaltRec) : (s.haltWg w part r).wg v = s.wg v := by
  have delivered (u : State) : (u.deliverHalt w part).wg v = u.wg v := by rw [State.wg, State.deliverHalt_wgs, State.wg]
  have ended (u : State) : (u.endLaunchOf w).wg v = u.wg v := by rw [State.wg, State.endLaunchOf_wgs, State.wg]
  unfold State.haltWg State.haltAgain
  dsimp only
  split
  · split
    · rfl
    · split
      · rw [delivered, s.modWg_other _ apart]
      · rw [delivered]
        exact s.modWg_other (fun x => { x with halt := some r, settled := false }) apart
  · split
    · rw [delivered, s.modWg_other _ apart]
    · rw [ended, delivered, s.modWg_other _ apart]

/-- R348: a halt without a raising group leaves the record that stands, and the workgroup as it is. -/
theorem State.haltWg_stands (s : State) {w : Nat} {q : HaltRec} (halting : (s.wg w).halt = some q) (r : HaltRec) : s.haltWg w none r = s := by
  have low : s.outranks w none r = false := by
    simp only [State.outranks, halting]
  rw [State.haltWg, halting]
  simp [State.haltAgain, low]

/-! ### A precise fault of an instruction that had begun to wait (R334) -/

theorem State.stopGroup_waits (s : State) {core slot : Nat} (present : s.hasGroup core slot = true) (m lanes : BitVec 32) (r : HaltRec) :
    ((s.stopGroup core slot m lanes r).group core slot).waits = (s.group core slot).waits := by
  obtain ⟨late, e⟩ := s.stopGroup_eq core slot m lanes r
  rw [e, (HaltFrame.haltWg _ _ _ _).group core slot, s.modGroup_self _ present]
  rfl

/-- What the fault of the instruction in hand gives up before its group stops. -/
def State.givenUp (s : State) (h : Hdr) : State :=
  if s.cur.phase > 0 then (s.dropHeld.dropSlots).tokDown s.cur.core s.cur.slot h.tok.toNat else if s.cur.path = 0 then s.dropPathB else s

theorem State.raise_eq (s : State) (h : Hdr) (lanes : BitVec 32) (code : Nat) (tv : Long) : s.raise h lanes code tv =
    (s.givenUp h).stopGroup s.cur.core s.cur.slot s.cur.lanes lanes
      { code := code, kind := if code = cWATCH || code = cSTEP then 4 else 0, pathB := s.cur.path == 1, pos := s.cur.pos, tvalue := tv, mc := 0xFFFFFFFF } := rfl

/-- What is given up is no thread, wait or workgroup. -/
structure GivesUp (s t : State) : Prop where
  mem : t.mem = s.mem
  wgs : t.wgs = s.wgs
  present : ∀ c q, t.hasGroup c q = s.hasGroup c q
  group : ∀ c q, t.group c q = { s.group c q with tokens := (t.group c q).tokens }

theorem State.givenUp_givesUp (s : State) (h : Hdr) : GivesUp s (s.givenUp h) := by
  rw [State.givenUp]
  split
  · have work := (WorkFrame.dropHeld s).trans (.dropSlots _)
    have group (c q : Nat) : s.dropHeld.dropSlots.group c q = s.group c q := by rw [State.group, work.groups, State.group]
    refine ⟨?_, ?_, fun c q => ?_, fun c q => ?_⟩
    · simp
    · rw [← work.wgs]
      unfold State.tokDown
      split
      · rfl
      · exact (State.modGroup_frame _ _ _ _).2.2.2.2.2.2.2.2.1
    · rw [State.tokDown_present, State.hasGroup, work.groups, State.hasGroup]
    · rw [State.tokDown_tokens, group]
  · split <;> exact ⟨rfl, rfl, fun _ _ => rfl, fun _ _ => rfl⟩

end Sys2Proof.Machine

namespace Sys2Proof.Proofs.Halts

open Sys2Proof.Machine Sys2Proof.Claims

/-! ### A halt reaches its groups (R336) -/

/-- The group in a slot, once a halt of a workgroup has reached a partition of a core. -/
def reached (wg core part kind cycle : Nat) (p : Nat × Group) : Nat × Group :=
  if p.2.wg = wg && p.1 / 128 = core && p.1 % 128 / 32 = part && !p.2.stopped then (p.1, p.2.stopIn kind cycle) else p

theorem reached_key (wg core part kind cycle : Nat) (p : Nat × Group) : (reached wg core part kind cycle p).1 = p.1 := by
  unfold reached
  split <;> rfl

theorem reached_threads (wg core part kind cycle : Nat) (p : Nat × Group) : (reached wg core part kind cycle p).2.threads = p.2.threads := by
  unfold reached
  split <;> rfl

theorem reached_other {wg core part kind cycle : Nat} {p : Nat × Group} (other : p.2.wg ≠ wg) : reached wg core part kind cycle p = p := by
  rw [reached, if_neg]
  simp [other]

theorem reached_stops {wg core part kind cycle : Nat} {p : Nat × Group} (own : p.2.wg = wg) (here : p.1 / 128 = core) (side : p.1 % 128 / 32 = part) :
    (reached wg core part kind cycle p).2.stopped = true := by
  unfold reached
  by_cases still : p.2.stopped = true
  · rw [if_neg (by simp [still])]
    exact still
  · rw [if_pos (by simp [own, here, side, still])]
    rfl

theorem haltDelivery_delivers (s : State) (wg part : Nat) (r : HaltRec) (halting : (s.wg wg).halt = some r) : ∃ t, exec (.haltDelivery wg part) s = .next t ∧ t.mem = s.mem ∧
    (t.wg wg).reach = (s.wg wg).reach ||| BitVec.ofNat 4 (2 ^ part) ∧ (t.wg wg).halt = some r ∧
    ∀ core slot, (t.group core slot).threads = (s.group core slot).threads ∧
      (slot < 128 → s.hasGroup core slot = true → (s.group core slot).wg = wg → core = (s.wg wg).core → slot / 32 = part → (t.group core slot).stopped = true) ∧
      ((s.group core slot).wg ≠ wg → t.group core slot = s.group core slot) := by
  let f := reached wg (s.wg wg).core part r.siblingKind (s.core (s.wg wg).core).cycles
  let s1 := s.modWg wg (fun x => { x with reach := x.reach ||| BitVec.ofNat 4 (2 ^ part) })
  have run : exec (.haltDelivery wg part) s = execHaltDelivery wg part s := rfl
  rw [execHaltDelivery] at run
  simp only [halting] at run
  have found (core slot : Nat) : tblFind (s.groups.map f) (gkey core slot) = (tblFind s.groups (gkey core slot)).map fun x => (f (gkey core slot, x)).2 :=
    tblFind_map_at f (fun p => reached_key ..) s.groups (gkey core slot)
  have now : ({ s1 with groups := s.groups.map f } : State).wg wg = { s.wg wg with reach := (s.wg wg).reach ||| BitVec.ofNat 4 (2 ^ part) } :=
    s.modWg_self wg fun x => { x with reach := x.reach ||| BitVec.ofNat 4 (2 ^ part) }
  refine ⟨{ s1 with groups := s.groups.map f }, run, rfl, ?_, ?_, fun core slot => ?_⟩
  · rw [now]
  · rw [now]
    exact halting
  · have after : ({ s1 with groups := s.groups.map f } : State).group core slot = ((tblFind s.groups (gkey core slot)).map fun x => (f (gkey core slot, x)).2).getD {} := by
      rw [State.group, tblGet, found]
    have before : s.group core slot = (tblFind s.groups (gkey core slot)).getD {} := rfl
    rw [after, before]
    cases e : tblFind s.groups (gkey core slot) with
    | none => exact ⟨rfl, fun _ present => by simp [State.hasGroup, e] at present, fun _ => rfl⟩
    | some x =>
      refine ⟨reached_threads .., fun low _ own here side => ?_, fun other => congrArg Prod.snd (reached_other other)⟩
      refine reached_stops own ?_ ?_
      · show gkey core slot / 128 = (s.wg wg).core
        rw [gkey]
        omega
      · show gkey core slot % 128 / 32 = part
        rw [gkey]
        omega

/-! ### Asynchronous faults and the halt of a launch (R338, R339) -/

/-- What the arrival of an asynchronous fault leaves, whatever records it wrote before. -/
theorem asyncFault_halts {s s1 : State} {wg : Nat} (running : (s.wg wg).halt = none) (wgs : s1.wgs = s.wgs) (groups : s1.groups = s.groups) (cores : s1.cores = s.cores)
    (tick : s1.tick = s.tick) (code : Nat) (lanes : BitVec 32) (pos tv : Long) (mc : Word) :
    (s1.asyncFault wg code lanes pos tv mc).groups = s.groups ∧ (s1.asyncFault wg code lanes pos tv mc).mcNext = s1.mcNext ∧
      (s1.asyncFault wg code lanes pos tv mc).mclog = s1.mclog ∧
      ((s1.asyncFault wg code lanes pos tv mc).wg wg).halt = some { code := code, kind := 2, lanes := lanes, pos := pos, tvalue := tv, time := s.tick, mc := mc } ∧
      ∀ q, q < 4 → ⟨(s.wg wg).core + 1, (s.core (s.wg wg).core).cycles + 1, .haltDelivery wg q⟩ ∈ (s1.asyncFault wg code lanes pos tv mc).timers := by
  have same : s1.wg wg = s.wg wg := by rw [State.wg, wgs, State.wg]
  have coresSame : s1.core = s.core := by
    funext c
    rw [State.core, cores, State.core]
  rw [State.asyncFault]
  generalize r' : ({ code := code, kind := 2, lanes := lanes, pos := pos, tvalue := tv, time := s1.tick, mc := mc } : HaltRec) = r
  have frame := HaltFrame.haltWg s1 wg none r
  obtain ⟨stand, due⟩ := s1.haltWg_running wg r (same ▸ running)
  have halts := s1.haltWg_halt wg none r (same ▸ running)
  rw [same, coresSame] at due
  refine ⟨stand.trans groups, ?_, ?_, ?_, due⟩
  · rw [frame.state]
  · rw [frame.state]
  · rw [halts, ← r', tick]

theorem asyncFaultArrival_halts (s : State) (wg code lane : Nat) (pos tv : Long) (found : (tblFind s.wgs wg).isSome = true) (running : (s.wg wg).halt = none) :
    let mc := code = 0x12 ∨ code = 0x0D
    ∃ t, exec (.asyncFaultArrival wg code lane pos tv) s = .next t ∧ t.mem = s.mem ∧ t.groups = s.groups ∧
      (t.wg wg).halt = some { code := code, kind := 2, lanes := if lane < 32 then BitVec.ofNat 32 (2 ^ lane) else 0, pos := pos, tvalue := if code = 0x12 then BitVec.ofNat 64 s.mcNext else tv, time := s.tick, mc := if mc then BitVec.ofNat 32 s.mcNext else 0xFFFFFFFF } ∧
      (mc → t.mcNext = s.mcNext + 1) ∧ (¬ mc → t.mclog = s.mclog) ∧
      ∀ q, q < 4 → ⟨(s.wg wg).core + 1, (s.core (s.wg wg).core).cycles + 1, .haltDelivery wg q⟩ ∈ t.timers := by
  intro mc
  have run : exec (.asyncFaultArrival wg code lane pos tv) s = execAsyncFaultArrival wg code lane pos tv s := rfl
  have here : ¬ (tblFind s.wgs wg).isNone = true := by
    rw [← Option.not_isSome, found]
    exact Bool.false_ne_true
  rw [execAsyncFaultArrival, if_neg here] at run
  refine ⟨_, run, by split <;> [skip; split] <;> simp, ?_⟩
  by_cases broken : code = 0x12
  · rw [if_pos (show code = cUNCORR from broken), if_pos broken, if_pos (show mc from .inl broken)]
    obtain ⟨groups, next, -, halts, due⟩ := asyncFault_halts (s1 := s.tickFresh.machineCheck (1 + s.anyValue.toNat % 13) 3 (s.wg wg).core tv.toNat (s.ctxOfWg wg))
      running rfl rfl rfl rfl code (if lane < 32 then BitVec.ofNat 32 (2 ^ lane) else 0) pos (BitVec.ofNat 64 s.mcNext) (BitVec.ofNat 32 s.mcNext)
    exact ⟨groups, halts, fun _ => next, fun no => absurd (.inl broken) no, due⟩
  · rw [if_neg (show ¬ code = cUNCORR from broken), if_neg broken]
    by_cases stale : code = 0x0D
    · rw [if_pos (show code = cSTALE from stale), if_pos (show mc from .inr stale)]
      obtain ⟨groups, next, -, halts, due⟩ := asyncFault_halts (s1 := s.machineCheck 8 3 (proxyStack (tv.setWidth 32)) (proxySlot (tv.setWidth 32)) (s.ctxOfWg wg))
        running rfl rfl rfl rfl code (if lane < 32 then BitVec.ofNat 32 (2 ^ lane) else 0) pos tv (BitVec.ofNat 32 s.mcNext)
      exact ⟨groups, halts, fun _ => next, fun no => absurd (.inr stale) no, due⟩
    · rw [if_neg (show ¬ code = cSTALE from stale), if_neg (show ¬ mc from not_or.2 ⟨broken, stale⟩)]
      obtain ⟨groups, -, log, halts, due⟩ := asyncFault_halts (s1 := s) running rfl rfl rfl rfl code (if lane < 32 then BitVec.ofNat 32 (2 ^ lane) else 0) pos tv 0xFFFFFFFF
      exact ⟨groups, halts, fun yes => absurd yes (not_or.2 ⟨broken, stale⟩), fun _ => log, due⟩

/-- A launch that has a workgroup not settled and not parked does not end. -/
theorem endFaulted_waits {s : State} {l w : Nat} {x : Workgroup} (found : tblFind s.wgs w = some x) (own : x.launch = l) (unsettled : x.settled = false) (here : x.phase = 0) :
    s.endFaulted l = s := by
  have listed : (w, x) ∈ s.wgs.filter (fun p => p.2.launch = l) := by
    rw [List.mem_filter, decide_eq_true_eq]
    exact ⟨mem_of_tblFind found, own⟩
  have left : (s.wgs.filter (fun p => p.2.launch = l)).all (fun p => p.2.settled || p.2.phase = 1) = false := by
    rw [Bool.eq_false_iff]
    intro all
    have done := List.all_eq_true.1 all _ listed
    simp [unsettled, here] at done
  rw [State.endFaulted]
  exact if_pos (by rw [left]; simp)

theorem launchHaltArrival_halts (s : State) (launch core w : Nat) (x : Workgroup) (found : tblFind s.wgs w = some x) (listed : (w, x) ∈ s.wgs) (own : x.launch = launch)
    (there : x.core = core) (here : x.phase = 0) (running : x.halt = none) :
    ∃ t, exec (.launchHaltArrival launch core) s = .next t ∧ (t.wg w).halt = some { code := 0, kind := 3, time := s.tick } := by
  let r : HaltRec := { code := 0, kind := 3, time := s.tick }
  let mine := s.wgs.filter (fun p => p.2.launch = launch && p.2.core = core && p.2.phase = 0)
  have run : exec (.launchHaltArrival launch core) s = execLaunchHaltArrival launch core s := rfl
  let stop (u : State) (p : Nat × Workgroup) : State := u.haltWg p.1 none { code := 0, kind := 3, time := u.tick }
  change _ = Host.Outcome.next ((mine.foldl stop s).endFaulted launch) at run
  let ended (u : State) : Prop := (u.wg w).halt = some r ∧ (u.wg w).settled = false ∧ (u.wg w).launch = launch ∧ (u.wg w).phase = 0
  have halted : ∀ (l : List (Nat × Workgroup)) (u : State), u.tick = s.tick → (u.wg w = x ∧ (∃ p ∈ l, p.1 = w) ∨ ended u) → ended (l.foldl stop u) := by
    intro l
    induction l with
    | nil => exact fun u _ h => h.resolve_left (fun ⟨_, p, hp, _⟩ => nomatch hp)
    | cons a rest ih =>
      intro u time h
      have same : stop u a = u.haltWg a.1 none r := by
        show u.haltWg a.1 none { code := 0, kind := 3, time := u.tick } = _
        rw [time]
      rw [List.foldl_cons, same]
      refine ih _ (by rw [(HaltFrame.haltWg u a.1 none r).state]; exact time) ?_
      rcases h with ⟨before, p, hp, key⟩ | ⟨halting, settled, launchKept, phase⟩
      · by_cases this : a.1 = w
        · right
          rw [this]
          have frame := (HaltFrame.haltWg u w none r).wg w
          refine ⟨u.haltWg_halt w none r (before ▸ running), u.haltWg_settled w r (before ▸ running), ?_, ?_⟩
          · rw [frame, before]
            exact own
          · rw [frame, before]
            exact here
        · left
          refine ⟨(u.haltWg_other (fun e => this e.symm) none r).trans before, p, ?_, key⟩
          exact (List.mem_cons.1 hp).resolve_left (fun e => this (e ▸ key))
      · right
        by_cases this : a.1 = w
        · rw [this, u.haltWg_stands halting r]
          exact ⟨halting, settled, launchKept, phase⟩
        · show _ ∧ _
          rw [u.haltWg_other (fun e => this e.symm) none r]
          exact ⟨halting, settled, launchKept, phase⟩
  have chosen : ∃ p ∈ mine, p.1 = w := ⟨(w, x), List.mem_filter.2 ⟨listed, by simp [own, there, here]⟩, rfl⟩
  have before : s.wg w = x := by rw [State.wg, tblGet, found]; rfl
  obtain ⟨halting, settled, launchKept, phase⟩ := halted mine s rfl (.inl ⟨before, chosen⟩)
  refine ⟨_, run, ?_⟩
  generalize mine.foldl stop s = t at halting settled launchKept phase
  have present : ∃ y, tblFind t.wgs w = some y := by
    cases e : tblFind t.wgs w with
    | some y => exact ⟨y, rfl⟩
    | none =>
      rw [State.wg, tblGet, e] at halting
      exact nomatch halting
  obtain ⟨y, e⟩ := present
  have same : t.wg w = y := by rw [State.wg, tblGet, e]; rfl
  rw [same] at settled launchKept phase
  rw [endFaulted_waits e launchKept settled phase]
  exact halting

/-! ### A workgroup settles (R337, R340) -/

/-- The state in which the last workgroup of a launch that is being ended has settled: all its workgroups have gone, and the first fault is kept for the query. -/
theorem endFaulted_ends {s : State} {l : Nat} {f : FaultKept} (halting : (s.launch l).halting = true) (open' : (s.launch l).closing = none) (first : (s.launch l).fault = some f)
    (all : ∀ p ∈ s.wgs, p.2.launch = l → p.2.settled = true ∨ p.2.phase = 1) :
    let t := s.endFaulted l
    (t.launch l).closing.isSome = true ∧ (t.launch l).ending = (3, f.halt.code) ∧ (t.ctx (s.launch l).ctx).faults.head? = some f ∧ ∀ p ∈ t.wgs, p.2.launch ≠ l := by
  let mine := s.wgs.filter (fun p => p.2.launch = l)
  let s1 := mine.foldl (fun u p => u.discard p.1) s
  let s2 := s1.modCtx (s.launch l).ctx (fun c => { c with faults := (f :: c.faults).take 64 })
  have done : mine.all (fun p => p.2.settled || p.2.phase = 1) = true := by
    rw [List.all_eq_true]
    intro p hp
    obtain ⟨listed, own⟩ := List.mem_filter.1 hp
    rw [decide_eq_true_eq] at own
    rcases all p listed own with h | h <;> simp [h]
  have e : s.endFaulted l = s2.finishLaunch l 3 f.halt.code := by
    rw [State.endFaulted]
    have go : ¬ (!(s.launch l).halting || (s.launch l).closing.isSome || !mine.all (fun p => p.2.settled || p.2.phase = 1)) = true := by
      rw [halting, open', done]
      decide
    refine (if_neg go).trans ?_
    rw [first]
    rfl
  have gone (p : Nat × Workgroup) (hp : p ∈ s1.wgs) : p.2.launch ≠ l := by
    obtain ⟨listed, apart⟩ := State.discardAll_wgs mine s hp
    intro own
    exact apart p (List.mem_filter.2 ⟨listed, decide_eq_true own⟩) rfl
  intro t
  have sends := State.flushAll_sends s2 (s2.launch l).ctx
  have t' : t = (s2.flushAll (s2.launch l).ctx).modLaunch l (fun x => { x with closing := some ((s2.flushAll (s2.launch l).ctx).unperformed (s2.launch l).ctx), ending := (3, f.halt.code) }) := e
  clear_value t
  subst t'
  generalize s2.flushAll (s2.launch l).ctx = u at sends
  refine ⟨?_, ?_, ?_, fun p hp => ?_⟩
  · rw [State.modLaunch_self]
    rfl
  · rw [State.modLaunch_self]
  · simp only [State.modLaunch_reads]
    rw [sends]
    show (s2.ctx (s.launch l).ctx).faults.head? = some f
    rw [State.modCtx_self]
    rfl
  · refine gone p ?_
    have wgs : u.wgs = s2.wgs := sends.wgs
    rw [show (u.modLaunch l _).wgs = u.wgs from rfl, wgs] at hp
    exact hp

theorem workgroupSettle_settles (s : State) (wg : Nat) (r : HaltRec) (may : s.mayDeclareSettled wg = true) (halting : (s.wg wg).halt = some r) :
    let l := s.launchOfWg wg
    let x := s.launch l
    ((s.ctx x.ctx).debug = true → ∃ t, exec (.workgroupSettle wg) s = .next t ∧ t.mem = s.mem ∧ t.groups = s.groups ∧ (t.wg wg).settled = true) ∧
    ((s.ctx x.ctx).debug = false → r.kind ≠ 4 → r.kind ≠ 3 → x.fault = none → x.halting = false → ∃ t f, exec (.workgroupSettle wg) s = .next t ∧
      (t.wg wg).settled = true ∧ (t.launch l).fault = some f ∧ f.halt = r ∧ f.rwc = (s.wg wg).rwc ∧ f.wg = (s.wg wg).index) ∧
    ((s.ctx x.ctx).debug = false → r.kind ≠ 4 → r.kind ≠ 3 → x.fault = none → x.halting = true → x.closing = none →
      tblSorted s.wgs = true → (∀ p ∈ s.wgs, p.2.launch = l → p.1 = wg ∨ p.2.settled = true ∨ p.2.phase = 1) → ∃ t f, exec (.workgroupSettle wg) s = .next t ∧
        (t.launch l).closing.isSome = true ∧ (t.launch l).ending = (3, r.code) ∧ (t.ctx x.ctx).faults.head? = some f ∧ f.halt = r ∧ t.mem = s.mem ∧
        ∀ p ∈ t.wgs, p.2.launch ≠ l) := by
  intro l x
  let s1 := s.modWg wg (fun y => { y with settled := true })
  let f := s1.faultKept wg r
  let s2 := s1.modLaunch l (fun y => { y with fault := match y.fault with | some g => if earlier g f then some g else some f | none => some f })
  have run : exec (.workgroupSettle wg) s = execWorkgroupSettle wg s := rfl
  rw [execWorkgroupSettle, may] at run
  simp only [Bool.not_true, Bool.false_eq_true, if_false, halting] at run
  have settled : (s1.wg wg).settled = true := congrArg Workgroup.settled (s.modWg_self wg _)
  have plain (undebugged : (s.ctx x.ctx).debug = false) (stop : r.kind ≠ 4) (own : r.kind ≠ 3) : exec (.workgroupSettle wg) s = .next (s2.endFaulted l) := by
    have go : ¬ ((s.ctx (s.ctxOfWg wg)).debug || decide (r.kind = 4)) = true := by
      rw [show (s.ctx (s.ctxOfWg wg)).debug = false from undebugged, decide_eq_false stop]
      decide
    rw [if_neg go, if_neg own] at run
    exact run
  have first (none' : x.fault = none) : (s2.launch l).fault = some f := by
    rw [State.modLaunch_self]
    show (match (s.launch l).fault with | some g => if earlier g f then some g else some f | none => some f) = some f
    rw [show (s.launch l).fault = none from none']
  have other : (s2.launch l).halting = x.halting ∧ (s2.launch l).closing = x.closing ∧ (s2.launch l).ctx = x.ctx := by
    rw [State.modLaunch_self]
    exact ⟨rfl, rfl, rfl⟩
  obtain ⟨haltingKept, closingKept, ctxKept⟩ := other
  have now : s1.wg wg = { s.wg wg with settled := true } := s.modWg_self wg fun y => { y with settled := true }
  have rwc : f.rwc = (s.wg wg).rwc := by
    show (s1.wg wg).rwc = _
    rw [now]
  have index : f.wg = (s.wg wg).index := by
    show (s1.wg wg).index = _
    rw [now]
  refine ⟨fun debugged => ?_, fun undebugged stop own none' still => ?_, fun undebugged stop own none' ends open' sorted rest => ?_⟩
  · have stays : ((s.ctx (s.ctxOfWg wg)).debug || decide (r.kind = 4)) = true := by
      rw [show (s.ctx (s.ctxOfWg wg)).debug = true from debugged]
      rfl
    rw [if_pos stays] at run
    exact ⟨s1, run, rfl, rfl, settled⟩
  · have waits : s2.endFaulted l = s2 := by
      rw [State.endFaulted]
      exact if_pos (by rw [haltingKept, still]; rfl)
    exact ⟨s2, f, (plain undebugged stop own).trans (by rw [waits]), settled, first none', rfl, rwc, index⟩
  · have all (p : Nat × Workgroup) (hp : p ∈ s2.wgs) (mine : p.2.launch = l) : p.2.settled = true ∨ p.2.phase = 1 := by
      have listed : p ∈ tblPut s.wgs wg { s.wg wg with settled := true } := hp
      by_cases this : p.1 = wg
      · have named := tblFind_of_mem (tblSorted_tblPut s.wgs wg { s.wg wg with settled := true } sorted) listed
        rw [this, tblFind_tblPut_self] at named
        rw [← Option.some.inj named]
        exact .inl rfl
      · rcases mem_tblPut listed with rfl | old
        · exact absurd rfl this
        · exact (rest p old mine).resolve_left this
    obtain ⟨closing, ending, kept, gone⟩ := endFaulted_ends (haltingKept.trans ends) (closingKept.trans open') (first none') all
    rw [ctxKept] at kept
    exact ⟨_, f, plain undebugged stop own, closing, ending, kept, rfl, (State.endFaulted_mem s2 l).1, gone⟩

theorem haltingAndSettling : HaltingAndSettling :=
  ⟨haltDelivery_delivers, asyncFaultArrival_halts, launchHaltArrival_halts, fun s wg r may halting _ => workgroupSettle_settles s wg r may halting⟩

/-! ### Page faults (R347) -/

theorem stillAbsent_iff (s : State) (core slot : Nat) (va : Long) :
    s.stillAbsent core slot va = true ↔ ∃ lv, s.walk (s.ctxOfWg (s.wgOf core slot)) va.toNat = .absent lv := by
  rw [State.stillAbsent]
  cases e : s.walk (s.ctxOfWg (s.wgOf core slot)) va.toNat with
  | ok pa e => simp
  | absent lv => simp
  | bad lv => simp

theorem findWait_only {s : State} {core slot : Nat} {w : Waiting} (only : (s.group core slot).waits = [w]) : s.findWait core slot w.id = some w := by
  rw [State.findWait, only]
  simp

theorem dropWait_only {s : State} {core slot : Nat} {w : Waiting} (present : s.hasGroup core slot = true) (only : (s.group core slot).waits = [w]) :
    (s.dropWait core slot w.id).group core slot = { s.group core slot with waits := [] } := by
  rw [State.dropWait, s.modGroup_self _ present, only]
  simp

/-- R347: the access that a group's one wait parks goes on. -/
theorem unpark_goesOn {s : State} {core slot : Nat} {w : Waiting} (present : s.hasGroup core slot = true) (only : (s.group core slot).waits = [w]) :
    (s.unpark core slot w).group core slot = { s.group core slot with waits := [] } ∧
      (s.unpark core slot w).agenda = if w.iss.phase = 0 then s.agenda else .resume w.iss w.instr :: s.agenda := by
  have same : (s.dropWait core slot w.id).agenda = s.agenda := by
    rw [State.dropWait]
    simp only [State.modGroup_frame]
  have gone := dropWait_only present only
  have goes : s.endWait core slot w.id = { s.dropWait core slot w.id with agenda := .resume w.iss w.instr :: (s.dropWait core slot w.id).agenda } := by
    rw [State.endWait, only]
    simp only [List.find?_cons, decide_true]
    rfl
  rw [State.unpark]
  split
  · exact ⟨gone, same⟩
  · rw [goes, same]
    exact ⟨gone, rfl⟩

theorem pageFaultResolve_resolves (s : State) (core slot : Nat) (w : Waiting) (va : Long) (present : s.hasGroup core slot = true) (only : (s.group core slot).waits = [w])
    (parked : w.cond = .page va) (running : (s.group core slot).stopped = false) :
    (s.stillAbsent core slot va = false → ∃ t, exec (.pageFaultResolve core slot w.id) s = .next t ∧ (t.group core slot).waits = [] ∧
      (t.group core slot).threads = (s.group core slot).threads ∧ t.agenda = if w.iss.phase = 0 then s.agenda else .resume w.iss w.instr :: s.agenda) ∧
    (s.stillAbsent core slot va = true → exec (.pageFaultResolve core slot w.id) s = .next s) := by
  have run : exec (.pageFaultResolve core slot w.id) s = execPageFaultResolve core slot w.id s := rfl
  rw [execPageFaultResolve, findWait_only only] at run
  simp only [parked, running, Bool.or_false] at run
  refine ⟨fun back => ?_, fun absent => ?_⟩
  · rw [back, if_neg Bool.false_ne_true] at run
    obtain ⟨group, agenda⟩ := unpark_goesOn present only
    exact ⟨_, run, by rw [group], by rw [group], agenda⟩
  · rw [absent, if_pos rfl] at run
    exact run

theorem pageFaultTimeout_stops (s : State) (core slot : Nat) (w : Waiting) (va : Long) (present : s.hasGroup core slot = true) (only : (s.group core slot).waits = [w])
    (parked : w.cond = .page va) (running : (s.group core slot).stopped = false) (absent : s.stillAbsent core slot va = true) (hcore : w.iss.core = core) (hslot : w.iss.slot = slot)
    (plain : ∀ h f, w.instr ≠ .cwb h f ∧ w.instr ≠ .cinv h f) : ∃ t, exec (.pageFaultTimeout core slot w.id) s = .next t ∧
    t.mem = s.mem ∧ (t.group core slot).stopped = true ∧ (t.group core slot).waits = [] ∧
    (∀ l, w.iss.lanes.getLsbD l = true → l < (s.group core slot).threads.length → (t.thread core slot l).tcause = 0x09 ∧
      (t.thread core slot l).tvalue = va ∧ (t.thread core slot l).tpc = w.iss.pos ∧ (t.thread core slot l).pos = (s.thread core slot l).pos) ∧
    ((s.wg (s.wgOf core slot)).halt = none → ∃ r, (t.wg (s.wgOf core slot)).halt = some r ∧ r.code = 0x09 ∧ r.kind = 0 ∧ r.pos = w.iss.pos ∧ r.tvalue = va) := by
  let s1 : State := { s.dropWait core slot w.id with cur := w.iss }
  let h := headerOf w.instr
  let lanes := match w.instr with | .lineRefetch .. => w.iss.lanes | _ => s1.active h
  have run : exec (.pageFaultTimeout core slot w.id) s = execPageFaultTimeout core slot w.id s := rfl
  rw [execPageFaultTimeout, findWait_only only] at run
  simp only [parked, running, Bool.false_eq_true, if_false, absent, Bool.not_true] at run
  have tv : (match w.instr with | .cwb .. => BitVec.ofNat 64 (w.iss.nums.headD 0) | .cinv .. => BitVec.ofNat 64 (w.iss.nums.headD 0) | _ => va) = va := by
    split
    next h' f' e => exact absurd e (plain h' f').1
    next h' f' e => exact absurd e (plain h' f').2
    next => rfl
  have raised : exec (.pageFaultTimeout core slot w.id) s = .next (s1.raise h lanes cPAGE va) := run.trans (congrArg (fun v => Host.Outcome.next (s1.raise h lanes cPAGE v)) tv)
  have gone : s1.group core slot = { s.group core slot with waits := [] } := dropWait_only present only
  have present1 : s1.hasGroup core slot = true := by
    rw [show s1.hasGroup core slot = (s.dropWait core slot w.id).hasGroup core slot from rfl, State.dropWait, s.modGroup_present]
    exact present
  have wgs : s1.wgs = s.wgs := by
    show (s.dropWait core slot w.id).wgs = _
    rw [State.dropWait]
    simp only [State.modGroup_frame]
  have mem : s1.mem = s.mem := (State.dropWait_mem s core slot w.id).1
  have gives := s1.givenUp_givesUp h
  rw [State.raise_eq, show s1.cur = w.iss from rfl, hcore, hslot] at raised
  generalize s1.givenUp h = u at gives raised
  have presentU : u.hasGroup core slot = true := (gives.present core slot).trans present1
  have groupU : u.group core slot = { s.group core slot with waits := [], tokens := (u.group core slot).tokens } := by
    rw [gives.group, gone]
  have own : u.wgOf core slot = s.wgOf core slot := by
    rw [u.wgOf_present presentU, s.wgOf_present present, groupU]
  have halts : u.wg (s.wgOf core slot) = s.wg (s.wgOf core slot) := by
    rw [State.wg, gives.wgs, wgs, State.wg]
  have st := u.stopGroup_stopsGroup presentU w.iss.lanes lanes
    { code := cPAGE, kind := if cPAGE = cWATCH || cPAGE = cSTEP then 4 else 0, pathB := w.iss.path == 1, pos := w.iss.pos, tvalue := va, mc := 0xFFFFFFFF }
  have waits := u.stopGroup_waits presentU w.iss.lanes lanes
    { code := cPAGE, kind := if cPAGE = cWATCH || cPAGE = cSTEP then 4 else 0, pathB := w.iss.path == 1, pos := w.iss.pos, tvalue := va, mc := 0xFFFFFFFF }
  refine ⟨_, raised, ?_, st.stopped, ?_, fun l mine short => ?_, fun none' => ?_⟩
  · rw [st.mem, gives.mem, mem]
  · rw [waits, groupU]
  · rw [st.thread l (by rw [groupU]; exact short), if_pos mine]
    refine ⟨rfl, rfl, rfl, ?_⟩
    show ((u.group core slot).thread l).pos = _
    rw [groupU]
    rfl
  · have record := st.halt (by rw [own, halts]; exact none')
    rw [own] at record
    exact ⟨_, record, rfl, rfl, rfl, rfl⟩

theorem pageFaults : PageFaults := by
  intro s core slot w va present only parked running absent
  obtain ⟨back, stays⟩ := pageFaultResolve_resolves s core slot w va present only parked running
  refine ⟨fun no => back ?_, fun yes => stays ((stillAbsent_iff ..).2 yes), fun yes hcore hslot plain =>
    pageFaultTimeout_stops s core slot w va present only parked running ((stillAbsent_iff ..).2 yes) hcore hslot plain⟩
  rw [Bool.eq_false_iff]
  exact fun yes => no ((stillAbsent_iff ..).1 yes)

/-- Settles O35. -/
theorem haltsAndPageFaults : Obligations.HaltsAndPageFaults := ⟨haltingAndSettling, pageFaults⟩

end Sys2Proof.Proofs.Halts
end

section
/-! SUPPORT. The turns of contexts on a die (R354-R357): what a turn that begins, a slice, and a pre-emption set, and what they leave. -/

namespace Sys2Proof.Machine

open Sys2Proof.Claims

/-! ### The fields of a run-list entry (Table 21-3) -/

theorem rlSlice_eq (w : Nat) : rlSlice w = w % 2 ^ 32 * Config.ticksPerMicrosecond := by
  show w / 2 ^ 0 % 2 ^ 32 * _ = _
  rw [Nat.pow_zero, Nat.div_one]

theorem rlUrgent_eq (w : Nat) : rlUrgent w = w.testBit 62 := bit_eq_testBit w 62

theorem rlEnabled_eq (w : Nat) : rlEnabled w = w.testBit 63 := bit_eq_testBit w 63

/-! ### The schedule of a die -/

theorem State.modSched_self (s : State) (die : Nat) (f : Sched → Sched) : ((s.modSched die f).die die).sched = f (s.die die).sched := by
  rw [State.modSched, State.modDie_self]

/-- Slots, leases and operations given up are no part of any die. -/
theorem WorkFrame.dies {s t : State} (h : WorkFrame s t) : t.dies = s.dies := by rw [h]

theorem State.freeWg_dies (s : State) (w : Nat) : (s.freeWg w).dies = s.dies := (s.freeWg_frame w).dies

theorem State.releaseReservations_dies (s : State) (die ctx : Nat) : (s.releaseReservations die ctx).dies = s.dies := by
  unfold State.releaseReservations
  refine foldl_same State.dies (fun u p => ?_) _ s
  exact State.freeWg_dies _ p.1

theorem State.releaseReservations_tick (s : State) (die ctx : Nat) : (s.releaseReservations die ctx).tick = s.tick := by
  unfold State.releaseReservations
  refine foldl_same State.tick (fun u p => ?_) _ s
  exact (State.freeWg_frame _ p.1).tick

/-- R355: an entry's turn begins, with n ticks of a slice. -/
structure Begins (s t : State) (die e n : Nat) : Prop where
  entry : (t.die die).sched.entry = e
  ctx : (t.die die).sched.ctx = rlCtx (s.rlWord e)
  ends : (t.die die).sched.sliceEnd = s.tick + n
  running : (t.die die).sched.draining = false
  due : ⟨0, s.tick + n, .sliceExpiry die⟩ ∈ t.timers

/-- The schedule of a die once an entry's turn has begun. -/
def Sched.begun (x : Sched) (e ctx ends slice : Nat) : Sched := { x with entry := e, ctx := ctx, sliceEnd := ends, draining := false, nextEntry := 64, slice := slice }

theorem State.startTurn_sched (s : State) (die e n : Nat) :
    ((s.startTurn die e n).die die).sched = (s.die die).sched.begun e (rlCtx (s.rlWord e)) (s.tick + n) (rlSlice (s.rlWord e)) ∧
      ⟨0, s.tick + n, .sliceExpiry die⟩ ∈ (s.startTurn die e n).timers := by
  let s1 := s.modSched die (fun x => x.begun e (rlCtx (s.rlWord e)) (s.tick + n) (rlSlice (s.rlWord e)))
  let s2 := s1.modCores (fun c => Config.dieOfCore c = die) (fun c => { c with rings := c.rings.map (fun (r : Nat × RxRing) => if (s.launch r.1).ctx = rlCtx (s.rlWord e) then (r.1, { r.2 with saved := false }) else r) })
  have looked : ∃ u : State, s.startTurn die e n = u.inTicks n (.sliceExpiry die) ∧ u.dies = s2.dies ∧ u.tick = s2.tick := by
    refine ⟨_, rfl, ?_, ?_⟩
    · refine (foldl_same State.dies (by intros; rfl) _ _).trans (foldl_same State.dies (fun u k => ?_) _ s2)
      exact foldl_same State.dies (by intros; rfl) _ u
    · refine (foldl_same State.tick (by intros; rfl) _ _).trans (foldl_same State.tick (fun u k => ?_) _ s2)
      exact foldl_same State.tick (by intros; rfl) _ u
  obtain ⟨u, e', dies, tick⟩ := looked
  rw [e']
  refine ⟨?_, ?_⟩
  · show (tblGet {} u.dies die).sched = _
    rw [dies]
    exact s.modSched_self die fun x => x.begun e (rlCtx (s.rlWord e)) (s.tick + n) (rlSlice (s.rlWord e))
  · have time : u.tick = s.tick := tick
    rw [← time]
    exact List.mem_append_right _ List.mem_cons_self

theorem State.startTurn_begins (s : State) (die e n : Nat) : Begins s (s.startTurn die e n) die e n := by
  obtain ⟨sched, due⟩ := s.startTurn_sched die e n
  exact ⟨by rw [sched]; rfl, by rw [sched]; rfl, by rw [sched]; rfl, by rw [sched]; rfl, due⟩

/-- R357: the running context is to leave the die, entry e comes next, and its limit counts. -/
structure Drains (s t : State) (die e lim : Nat) : Prop where
  draining : (t.die die).sched.draining = true
  next : (t.die die).sched.nextEntry = e
  limit : (t.die die).sched.drainAt = s.tick + lim
  due : ⟨0, s.tick + lim, .preemptionLimitExpiry die⟩ ∈ t.timers
  interrupted : (t.die die).sched.interrupted = (s.die die).sched.interrupted
  remaining : (t.die die).sched.remaining = (s.die die).sched.remaining

theorem State.preempt_drains (s : State) (die e : Nat) : Drains s (s.preempt die e) die e (rlLimit (s.rlWord (s.die die).sched.entry)) := by
  let lim := rlLimit (s.rlWord (s.die die).sched.entry)
  let s1 := (s.modSched die (fun x => { x with draining := true, drainAt := s.tick + lim, nextEntry := e })).announce die (.preempt (s.die die).sched.ctx)
  have time : (s1.releaseReservations die (s.die die).sched.ctx).tick = s.tick := s1.releaseReservations_tick die _
  have sched : ((s.preempt die e).die die).sched = { (s.die die).sched with draining := true, drainAt := s.tick + lim, nextEntry := e } := by
    show (tblGet {} (s1.releaseReservations die (s.die die).sched.ctx).dies die).sched = _
    rw [State.releaseReservations_dies]
    have kept (u : State) (i : Item) : ((u.announce die i).die die).sched = (u.die die).sched := by
      unfold State.announce
      rw [State.modDie_self]
    refine (kept _ _).trans ?_
    exact s.modSched_self die fun x => { x with draining := true, drainAt := s.tick + lim, nextEntry := e }
  refine ⟨by rw [sched], by rw [sched], by rw [sched], ?_, by rw [sched], by rw [sched]⟩
  have added : ⟨0, (s1.releaseReservations die (s.die die).sched.ctx).tick + lim, .preemptionLimitExpiry die⟩ ∈ (s.preempt die e).timers := List.mem_append_right _ List.mem_cons_self
  rw [time] at added
  exact added

/-- R355: a new slice of the context that runs. -/
theorem State.newSlice_sched (s : State) (die : Nat) :
    let x := (s.die die).sched
    let n := if rlEnabled (s.rlWord x.entry) && rlCtx (s.rlWord x.entry) = x.ctx then rlSlice (s.rlWord x.entry) else x.slice
    ((s.newSlice die).die die).sched = { x with sliceEnd := s.tick + n, slice := n } ∧ ⟨0, s.tick + n, .sliceExpiry die⟩ ∈ (s.newSlice die).timers := by
  intro x n
  exact ⟨s.modSched_self die fun y => { y with sliceEnd := s.tick + n, slice := n }, List.mem_append_right _ List.mem_cons_self⟩

end Sys2Proof.Machine

namespace Sys2Proof.Proofs.Turns

open Sys2Proof.Machine Sys2Proof.Claims

/-- The interrupted entry is remembered no more, and nothing of its slice. -/
def unbroken (s : State) (die : Nat) : State := s.modSched die (fun y => { y with interrupted := 64, remaining := 0 })

/-- What SLICE_EXPIRY does of a non-urgent entry whose slice has ended, where no urgent context has work. -/
theorem sliceExpiry_passes {s : State} {die : Nat} (turn : (s.die die).sched.ctx ≠ 64) (stays : (s.die die).sched.draining = false) (live : (s.ctx (s.die die).sched.ctx).st ≠ 2)
    (ended : (s.die die).sched.sliceEnd ≤ s.tick) (plain : rlUrgent (s.rlWord (s.die die).sched.entry) = false) (calm : s.urgentReady die = none) :
    (∀ e, s.nextReady die false (s.die die).sched.after = some e → exec (.sliceExpiry die) s = .next ((unbroken s die).passTurn die e)) ∧
    (s.nextReady die false (s.die die).sched.after = none → exec (.sliceExpiry die) s = .next ((unbroken s die).newSlice die)) := by
  have run : exec (.sliceExpiry die) s = execSliceExpiry die s := rfl
  have go : ¬ (decide ((s.die die).sched.ctx = 64) || (s.die die).sched.draining || decide ((s.ctx (s.die die).sched.ctx).st = 2) ||
      (decide (s.tick < (s.die die).sched.sliceEnd) && s.hasWork die (s.die die).sched.ctx)) = true := by
    rw [decide_eq_false turn, stays, decide_eq_false live, decide_eq_false (Nat.not_lt.2 ended)]
    exact Bool.false_ne_true
  rw [execSliceExpiry] at run
  simp only [] at run
  rw [if_neg go, plain, if_neg Bool.false_ne_true, calm] at run
  refine ⟨fun e next => ?_, fun none' => ?_⟩
  · rw [next] at run
    exact run
  · rw [none'] at run
    exact run

/-- The turn passes to an entry of the running context, or that context leaves. -/
theorem passTurn_turns (s : State) (die e : Nat) : (rlCtx (s.rlWord e) = (s.die die).sched.ctx → Begins s (s.passTurn die e) die e (rlSlice (s.rlWord e))) ∧
    (rlCtx (s.rlWord e) ≠ (s.die die).sched.ctx → Drains s (s.passTurn die e) die e (rlLimit (s.rlWord (s.die die).sched.entry))) := by
  rw [State.passTurn]
  refine ⟨fun same => ?_, fun other => ?_⟩
  · rw [if_pos same]
    exact s.startTurn_begins die e _
  · rw [if_neg other]
    exact s.preempt_drains die e

theorem urgentPreempt_preempts {s : State} {die e : Nat} (turn : (s.die die).sched.ctx ≠ 64) (stays : (s.die die).sched.draining = false) (live : (s.ctx (s.die die).sched.ctx).st ≠ 2)
    (plain : rlUrgent (s.rlWord (s.die die).sched.entry) = false) (ready : s.urgentReady die = some e) :
    exec (.urgentPreempt die) s = .next ((s.modSched die (fun x => { x with interrupted := x.entry, remaining := x.sliceEnd - s.tick })).passTurn die e) := by
  have run : exec (.urgentPreempt die) s = execUrgentPreempt die s := rfl
  have due : s.urgentDue die = some e := by
    rw [State.urgentDue]
    rw [if_neg ?_]
    · exact ready
    · rw [decide_eq_false turn, stays, decide_eq_false live, plain]
      exact Bool.false_ne_true
  rw [execUrgentPreempt, due] at run
  exact run

/-- The rings of the outgoing context on a die are saved. -/
def ringsSaved (s : State) (die : Nat) : State :=
  s.modCores (fun c => Config.dieOfCore c = die) (fun c => { c with rings := c.rings.map (fun (r : Nat × RxRing) => if (s.launch r.1).ctx = (s.die die).sched.ctx then (r.1, { r.2 with saved := true }) else r) })

/-- What SWITCH_COMPLETE does of a die that is drained: the next entry's turn, or the rest of the interrupted one's. -/
theorem switchComplete_switches {s : State} {die : Nat} (turn : (s.die die).sched.ctx ≠ 64) (leaving : (s.die die).sched.draining = true) (empty : s.drained die = true)
    (live : (s.ctx (s.die die).sched.ctx).st ≠ 2) :
    let x := (s.die die).sched
    (x.nextEntry < 64 → x.nextEntry ≠ x.interrupted → (s.entryReady die true x.nextEntry || s.entryReady die false x.nextEntry) = true →
      exec (.switchComplete die) s = .next ((ringsSaved s die).startTurn die x.nextEntry (rlSlice (s.rlWord x.nextEntry)))) ∧
    (x.interrupted < 64 → s.entryReady die false x.interrupted = true → s.urgentReady die = none →
      x.nextEntry = x.interrupted ∨ (s.entryReady die true x.nextEntry || s.entryReady die false x.nextEntry) = false →
      exec (.switchComplete die) s = .next ((ringsSaved s die).resumeEntry die)) := by
  intro x
  have run : exec (.switchComplete die) s = execSwitchComplete die s := rfl
  have go : ¬ (decide (x.ctx ≠ 64) && !(x.draining && s.drained die && decide ((s.ctx x.ctx).st ≠ 2))) = true := by
    rw [leaving, empty, decide_eq_true live, Bool.and_self, Bool.and_self, Bool.not_true, Bool.and_false]
    exact Bool.false_ne_true
  rw [execSwitchComplete] at run
  simp only [] at run
  rw [if_neg go, if_neg turn] at run
  refine ⟨fun low apart ready => ?_, fun low back calm which => ?_⟩
  · rw [if_neg ?_, if_pos ?_] at run
    · exact run
    · rw [decide_eq_true low]
      exact ready
    · rw [decide_eq_false apart, Bool.and_false, Bool.false_and]
      exact Bool.false_ne_true
  · have goes : (decide (x.interrupted < 64) && s.entryReady die false x.interrupted) = true := by
      rw [decide_eq_true low]
      exact back
    rcases which with same | idle
    · rw [if_pos ?_] at run
      · exact run
      · rw [goes, decide_eq_true same, same, decide_eq_true low]
        rfl
    · by_cases first : (decide (x.nextEntry < 64) && decide (x.nextEntry = x.interrupted) && (decide (x.interrupted < 64) && s.entryReady die false x.interrupted)) = true
      · rw [if_pos first] at run
        exact run
      · rw [if_neg first, if_neg ?_, calm] at run
        · simp only [] at run
          rw [if_pos goes] at run
          exact run
        · rw [idle, Bool.and_false]
          exact Bool.false_ne_true

/-- R356: the interrupted entry goes on with the rest of its slice, and is no longer the interrupted one. -/
theorem resumeEntry_goesOn (s : State) (die : Nat) : Begins s (s.resumeEntry die) die (s.die die).sched.interrupted (s.die die).sched.remaining ∧
    ((s.resumeEntry die).die die).sched.interrupted = 64 := by
  obtain ⟨sched, due⟩ := s.startTurn_sched die (s.die die).sched.interrupted (s.die die).sched.remaining
  have after := (s.startTurn die (s.die die).sched.interrupted (s.die die).sched.remaining).modSched_self die fun y => { y with interrupted := 64, remaining := 0 }
  rw [sched] at after
  have e : ((s.resumeEntry die).die die).sched = _ := after
  exact ⟨⟨by rw [e]; rfl, by rw [e]; rfl, by rw [e]; rfl, by rw [e]; rfl, due⟩, by rw [e]⟩

/-- Settles O37. -/
theorem turnsOfContexts : Obligations.TurnsOfContexts := by
  intro s die e x ctxOf urgent slice limit turn drains
  have sliceEq (k : Nat) : slice k = rlSlice (s.rlWord k) := (rlSlice_eq _).symm
  have urgentEq (k : Nat) : urgent k = rlUrgent (s.rlWord k) := (rlUrgent_eq _).symm
  have turnOf {t : State} {k n : Nat} (b : Begins s t die k n) : turn t k n := ⟨b.entry, b.ctx, b.ends, b.running, b.due⟩
  refine ⟨fun on stays live ended plain calm => ?_, fun on stays live plain ready apart => ?_, fun on leaving empty live => ?_, fun on reset => ?_, fun leaving late full live => ?_⟩
  · obtain ⟨passes, slices⟩ := sliceExpiry_passes on stays live ended (urgentEq _ ▸ plain) calm
    have fresh : ((unbroken s die).die die).sched = { x with interrupted := 64, remaining := 0 } := s.modSched_self die fun y => { y with interrupted := 64, remaining := 0 }
    refine ⟨fun next => ⟨_, passes e next, ((unbroken s die).passTurn_mem die e).1, fun same => ?_, fun other => ?_⟩, fun none' => ?_⟩
    · have b := (passTurn_turns (unbroken s die) die e).1 (by rw [fresh]; exact same)
      rw [sliceEq]
      exact turnOf ⟨b.entry, b.ctx, b.ends, b.running, b.due⟩
    · have d := (passTurn_turns (unbroken s die) die e).2 (by rw [fresh]; exact other)
      rw [fresh] at d
      exact ⟨d.draining, d.next, d.limit, d.due⟩
    · obtain ⟨sched, due⟩ := (unbroken s die).newSlice_sched die
      rw [fresh] at sched due
      have length : (if rlEnabled ((unbroken s die).rlWord x.entry) && decide (rlCtx ((unbroken s die).rlWord x.entry) = x.ctx) then rlSlice ((unbroken s die).rlWord x.entry) else x.slice) =
          if (tblGet 0 s.runList x.entry).toNat.testBit 63 = true ∧ ctxOf x.entry = x.ctx then slice x.entry else x.slice := by
        rw [show (unbroken s die).rlWord x.entry = s.rlWord x.entry from rfl, rlEnabled_eq, sliceEq]
        refine if_congr ?_ rfl rfl
        rw [Bool.and_eq_true, decide_eq_true_eq]
        rfl
      refine ⟨_, slices none', ((unbroken s die).newSlice_mem die).1, ?_⟩
      simp only [] at sched due ⊢
      rw [length] at sched due
      rw [sched]
      exact ⟨rfl, rfl, rfl, stays, due⟩
  · have run := urgentPreempt_preempts on stays live (urgentEq _ ▸ plain) ready
    have kept : ((s.modSched die (fun x => { x with interrupted := x.entry, remaining := x.sliceEnd - s.tick })).die die).sched =
        { x with interrupted := x.entry, remaining := x.sliceEnd - s.tick } := s.modSched_self die fun x => { x with interrupted := x.entry, remaining := x.sliceEnd - s.tick }
    have d := (passTurn_turns (s.modSched die (fun x => { x with interrupted := x.entry, remaining := x.sliceEnd - s.tick })) die e).2 (by rw [kept]; exact apart)
    rw [kept] at d
    refine ⟨_, run, (State.passTurn_mem _ die e).1, ⟨d.draining, d.next, d.limit, d.due⟩, ?_, ?_⟩
    · rw [d.interrupted, kept]
    · rw [d.remaining, kept]
  · obtain ⟨next, back⟩ := switchComplete_switches on leaving empty live
    refine ⟨fun low apart ready => ?_, fun low ready calm which => ?_⟩
    · have b := (ringsSaved s die).startTurn_begins die x.nextEntry (rlSlice (s.rlWord x.nextEntry))
      refine ⟨_, next low apart (by rw [Bool.or_eq_true]; exact ready), (State.startTurn_mem _ _ _ _).1, ?_⟩
      rw [sliceEq]
      exact turnOf ⟨b.entry, b.ctx, b.ends, b.running, b.due⟩
    · obtain ⟨b, gone⟩ := resumeEntry_goesOn (ringsSaved s die) die
      refine ⟨_, back low ready calm (which.imp_right fun ⟨a, b⟩ => by rw [a, b]; rfl), (State.resumeEntry_mem _ _).1, turnOf ⟨b.entry, b.ctx, b.ends, b.running, b.due⟩, gone⟩
  · have run : exec (.switchComplete die) s = execSwitchComplete die s := rfl
    rw [execSwitchComplete] at run
    simp only [] at run
    rw [if_pos ?_] at run
    · exact run
    · rw [decide_eq_true on, decide_eq_false (not_not.2 reset), Bool.and_false]
      rfl
  · have run : exec (.preemptionLimitExpiry die) s = execPreemptionLimitExpiry die s := rfl
    rw [execPreemptionLimitExpiry] at run
    rw [if_pos ?_] at run
    · obtain ⟨-, -, st, reason, -⟩ := s.reset1_started 1 false live
      exact ⟨_, run, (s.reset1_mem _ _ _).1, st, reason⟩
    · rw [leaving, full, decide_eq_true late]
      rfl

end Sys2Proof.Proofs.Turns
end

section
/-! SUPPORT. What the end of a launch changes (R174, R262, R412), and the bytes of its completion record. -/

namespace Sys2Proof.Machine

open Sys2Proof.Claims

/-! ### The launches that stand -/

/-- Every launch of t stands in s, in the same context. -/
def StandBefore (s t : State) : Prop := ∀ p ∈ t.launches, ∃ q ∈ s.launches, q.1 = p.1 ∧ q.2.ctx = p.2.ctx

theorem StandBefore.of_launches {s t : State} (h : t.launches = s.launches) : StandBefore s t := fun p hp => ⟨p, h ▸ hp, rfl, rfl⟩

theorem StandBefore.trans {s t u : State} (h : StandBefore s t) (k : StandBefore t u) : StandBefore s u := fun p hp => by
  obtain ⟨q, hq, key, ctx⟩ := k p hp
  obtain ⟨r, hr, key', ctx'⟩ := h q hq
  exact ⟨r, hr, key'.trans key, ctx'.trans ctx⟩

/-- A context of t is that of s, but for its regions and its idle account. -/
def SameButAccounts (s t : State) : Prop := ∀ c, t.ctx c = { s.ctx c with regions := (t.ctx c).regions, idle := (t.ctx c).idle }

theorem SameButAccounts.of_ctxs {s t : State} (h : t.ctxs = s.ctxs) : SameButAccounts s t := fun c => by rw [State.ctx, State.ctx, h]

theorem SameButAccounts.trans {s t u : State} (h : SameButAccounts s t) (k : SameButAccounts t u) : SameButAccounts s u := fun c => by rw [k c, h c]

theorem SameButAccounts.modCtx (s : State) (x : Nat) (f : Ctx → Ctx) (hf : ∀ y, f y = { y with regions := (f y).regions, idle := (f y).idle }) : SameButAccounts s (s.modCtx x f) := fun c => by
  by_cases h : c = x
  · rw [h, State.modCtx_self]
    exact hf _
  · rw [State.modCtx_other _ _ h]

/-! ### The intervals of a launch close (R412-R415) -/

/-- What closing intervals leaves: the launches, each context but for its account, and memory. -/
structure Settles (s t : State) : Prop where
  launches : StandBefore s t
  ctx : SameButAccounts s t
  mem : t.mem = s.mem

namespace Settles

theorem of_same {s t : State} (launches : t.launches = s.launches) (ctxs : t.ctxs = s.ctxs) (mem : t.mem = s.mem) : Settles s t :=
  ⟨.of_launches launches, .of_ctxs ctxs, mem⟩

theorem refl (s : State) : Settles s s := of_same rfl rfl rfl

theorem trans {s t u : State} (h : Settles s t) (k : Settles t u) : Settles s u := ⟨h.launches.trans k.launches, h.ctx.trans k.ctx, k.mem.trans h.mem⟩

theorem foldl {α : Type} {f : State → α → State} (one : ∀ s a, Settles s (f s a)) (l : List α) (s : State) : Settles s (l.foldl f s) := by
  induction l generalizing s with
  | nil => exact refl s
  | cons a r ih => exact (one s a).trans (ih _)

/-- R415: only a launch whose first workgroup has begun is charged, so no launch comes to be. -/
theorem charge (s : State) (l : Option Nat) (x : Nat) : Settles s (s.charge l x) := by
  unfold State.charge
  split
  next k =>
    split
    next begun =>
      refine ⟨fun p hp => ?_, .of_ctxs rfl, rfl⟩
      rcases mem_tblPut hp with rfl | old
      · cases e : tblFind s.launches k with
        | none => 
          rw [State.launch, tblGet, e] at begun
          exact absurd begun Bool.false_ne_true
        | some y => 
          refine ⟨(k, y), mem_of_tblFind e, rfl, ?_⟩
          show y.ctx = (s.launch k).ctx
          rw [State.launch, tblGet, e]
          rfl
      · exact ⟨p, old, rfl, rfl⟩
    · exact of_same rfl rfl rfl
  · exact of_same rfl rfl rfl

theorem share (s : State) (total : Nat) (w : Tbl Nat) : Settles s (s.share total w) := by
  unfold State.share
  exact (foldl (fun u p => charge u _ _) (shares total w) s).trans (of_same rfl rfl rfl)

theorem idleOn (s : State) (die x : Nat) : Settles s (s.idleOn die x) := by
  unfold State.idleOn
  dsimp only
  split
  · exact ⟨.of_launches rfl, .modCtx s _ _ fun y => rfl, rfl⟩
  · exact of_same rfl rfl rfl

theorem closeCore (s : State) (core dynamic leakage : Nat) : Settles s (s.closeCore core dynamic leakage) := by
  unfold State.closeCore
  dsimp only
  split
  · exact (idleOn s _ _).trans (of_same rfl rfl rfl)
  · exact ((share s _ _).trans (share _ _ _)).trans (of_same rfl rfl rfl)

theorem closeOther (s : State) (kind n energy : Nat) : Settles s (s.closeOther kind n energy) := by
  unfold State.closeOther
  dsimp only
  split
  · exact (idleOn s _ _).trans (of_same rfl rfl rfl)
  · have fresh : Settles s s.tickFresh := of_same rfl rfl rfl
    exact (fresh.trans (share _ _ _)).trans (of_same rfl rfl rfl)

theorem closeLaunch (s : State) (l : Nat) : Settles s (s.closeLaunch l) := by
  unfold State.closeLaunch
  have fresh (u : State) : Settles u u.tickFresh := of_same rfl rfl rfl
  refine (fresh s).trans (foldl (fun u c => ?_) _ _)
  unfold State.closeRead
  dsimp only
  split
  · exact (fresh u).trans (closeCore _ _ _ _)
  · exact (fresh u).trans (closeOther _ _ _ _)

end Settles

/-! ### The regions of a launch are left (R262) -/

/-- What leaving regions changes: the regions of contexts, and what is on its way to them. -/
structure LeavesRegions (s t : State) : Prop where
  state : t = { s with cores := t.cores, dies := t.dies, fills := t.fills, msgs := t.msgs, timers := t.timers, pends := t.pends, agenda := t.agenda, fresh := t.fresh, ctxs := t.ctxs }
  ctx : ∀ c, t.ctx c = { s.ctx c with regions := (t.ctx c).regions }

namespace LeavesRegions

theorem of_ctxs {s t : State} (state : t = { s with cores := t.cores, dies := t.dies, fills := t.fills, msgs := t.msgs, timers := t.timers, pends := t.pends, agenda := t.agenda, fresh := t.fresh })
    (ctxs : t.ctxs = s.ctxs) : LeavesRegions s t where
  state := by rw [ctxs]; exact state
  ctx c := by rw [State.ctx, State.ctx, ctxs]

theorem trans {s t u : State} (h : LeavesRegions s t) (k : LeavesRegions t u) : LeavesRegions s u where
  state := by rw [k.state, h.state]
  ctx c := by rw [k.ctx, h.ctx]

theorem refl (s : State) : LeavesRegions s s := of_ctxs rfl rfl

theorem foldl {α : Type} {f : State → α → State} (one : ∀ s a, LeavesRegions s (f s a)) (l : List α) (s : State) : LeavesRegions s (l.foldl f s) := by
  induction l generalizing s with
  | nil => exact refl s
  | cons a r ih => exact (one s a).trans (ih _)

theorem regions (s : State) (x : Nat) (f : Ctx → Tbl Region) : LeavesRegions s (s.modCtx x fun c => { c with regions := f c }) := by
  refine ⟨rfl, fun c => ?_⟩
  by_cases h : c = x
  · rw [h, State.modCtx_self]
  · rw [State.modCtx_other _ _ h]

theorem modPend (s : State) (q : Nat) (f : Pend → Pend) : LeavesRegions s (s.modPend q f) := by
  unfold State.modPend
  split
  · exact of_ctxs rfl rfl
  · exact refl s

theorem pendDown (s : State) (q : Option Nat) : LeavesRegions s (s.pendDown q) := by
  unfold State.pendDown
  split
  · exact refl s
  next k =>
    refine (modPend s k fun x => { x with wait := x.wait - 1 }).trans ?_
    dsimp only
    split
    · split
      · exact of_ctxs rfl rfl
      · exact refl _
    · exact refl _

theorem deactivateRegion (s : State) (ctx slot : Nat) : LeavesRegions s (s.deactivateRegion ctx slot) := by
  unfold State.deactivateRegion
  split
  · exact refl s
  next r _ =>
    have purged : LeavesRegions s (s.purgeRegion ctx slot r) := of_ctxs rfl rfl
    refine (purged.trans (regions _ ctx fun c => tblDel c.regions slot)).trans ?_
    generalize (s.purgeRegion ctx slot r).modCtx ctx (fun c => { c with regions := tblDel c.regions slot }) = u
    dsimp only
    refine LeavesRegions.trans ?_ (foldl (fun v x => ?_) _ _)
    · exact of_ctxs rfl rfl
    · have fresh (w : State) : LeavesRegions w w.tickFresh := of_ctxs rfl rfl
      exact ((modPend v _ _).trans (fresh _)).trans (pendDown _ _)

theorem leaveRegions (s : State) (l : Nat) : LeavesRegions s (s.leaveRegions l) := by
  unfold State.leaveRegions
  refine foldl (fun u k => ?_) _ s
  have goes (v : State) (empty : Bool) : LeavesRegions v (if empty then v.deactivateRegion (s.launch l).ctx k else v) := by
    cases empty
    · exact refl v
    · exact deactivateRegion v _ k
  refine LeavesRegions.trans ?_ (goes _ _)
  exact regions u _ _

section

variable {s t : State} (h : LeavesRegions s t)
include h

theorem launches : t.launches = s.launches := by rw [h.state]

theorem wgs : t.wgs = s.wgs := by rw [h.state]

theorem mem : t.mem = s.mem := by rw [h.state]

theorem settles : Settles s t := ⟨.of_launches h.launches, fun c => by rw [h.ctx], h.mem⟩

end

end LeavesRegions

theorem HomeFrame.launches {s t : State} (h : HomeFrame s t) : t.launches = s.launches := by
  unfold HomeFrame at h
  rw [h]

/-! ### The completion record (R174, Table 11-4) -/

/-- Translation is the same where memory and what a context is translated by are. -/
theorem Settles.record {s t : State} (h : Settles s t) {ctx va pa : Nat} (record : RecordAt s ctx va pa) : RecordAt t ctx va pa := by
  have walk (a : Nat) : t.walk ctx a = s.walk ctx a := by rw [State.walk, State.walk, h.mem, h.ctx]
  have area : t.inDebugArea ctx va = s.inDebugArea ctx va := by rw [State.inDebugArea, State.inDebugArea, h.ctx]
  obtain ⟨some', may, e, found, memory⟩ := record
  refine ⟨some', ?_, e, by rw [walk]; exact found, memory⟩
  rw [State.mayWrite, area, walk]
  exact may

theorem State.noteWalks_same {α : Type} (part : State → α) (note : ∀ (u : State) c l v, part (u.noteBad c l v) = part u) (s : State) (ctx : Nat) (l : List Nat) :
    part (s.noteWalks ctx l) = part s := by
  unfold State.noteWalks
  refine foldl_same part (fun u va => ?_) l s
  cases u.walk ctx va with
  | ok pa e => rfl
  | absent lv => rfl
  | bad lv => exact note u ctx lv va

theorem State.writeStatus_launches (s : State) (ctx die va status : Nat) (rest : List Byte) : (s.writeStatus ctx die va status rest).launches = s.launches := by
  unfold State.writeStatus
  split
  · rfl
  · split
    · unfold State.deviceWrite
      split
      · split
        · rfl
        · refine (State.performWrite_home _ _ _ _ rfl rfl).launches.trans ?_
          split <;> rfl
      · rfl
    · exact s.noteWalks_same State.launches (by intros; rfl) _ _

/-- A record in memory that may be written receives the status and what follows it. -/
theorem State.writeStatus_written (s : State) {ctx va pa : Nat} (record : RecordAt s ctx va pa) (die status : Nat) (rest : List Byte) :
    (s.writeStatus ctx die va status rest).mem = memSetAll s.mem (placed pa (leBytes 4 status ++ rest)) := by
  obtain ⟨some', may, e, found, memory⟩ := record
  rw [State.writeStatus, if_neg some', if_pos may, State.deviceWrite, found]
  simp only [memory, Bool.false_eq_true, if_false, State.performWrite_mem]
  split <;> simp

theorem memNat_status (m : List Host.Cell) (pa status : Nat) (rest : List Byte) (small : status < 2 ^ 32) : memNat (memSetAll m (placed pa (leBytes 4 status ++ rest))) pa 4 = status := by
  have word := memNat_within m pa 0 4 status [] rest rfl
  rw [Nat.add_zero, List.nil_append] at word
  rw [word]
  exact Nat.mod_eq_of_lt small

/-! ### A launch ends (R174, R262) -/

/-- R174: no launch comes to be where one ends, and that one is gone. -/
theorem State.endLaunch_launches (s : State) (l status code : Nat) : StandBefore s (s.endLaunch l status code) ∧ ∀ p ∈ (s.endLaunch l status code).launches, p.1 ≠ l := by
  let s1 := (s.leaveRegions l).closeLaunch l
  have settled : Settles s s1 := (LeavesRegions.leaveRegions s l).settles.trans (.closeLaunch _ l)
  have gone : (s.endLaunch l status code).launches = tblDel s1.launches l := congrArg (tblDel · l) (State.writeStatus_launches s1 _ _ _ _ _)
  rw [StandBefore, gone]
  exact ⟨fun p hp => settled.launches p (mem_tblDel.1 hp).1, fun p hp => (mem_tblDel.1 hp).2⟩

theorem State.endLaunch_record (s : State) {l status pa : Nat} (code : Nat) (record : RecordAt s (s.launch l).ctx (s.launch l).kr.comp pa) (small : status < 2 ^ 32) :
    memNat (s.endLaunch l status code).mem pa 4 = status := by
  let s1 := (s.leaveRegions l).closeLaunch l
  have settled : Settles s s1 := (LeavesRegions.leaveRegions s l).settles.trans (.closeLaunch _ l)
  have written := s1.writeStatus_written (settled.record record) (s.launch l).die status
    (s1.statusRest (code + bitNat (s.launch l).late 8) (if status = 4 || status = 5 then 0 else (s1.launch l).energy) (s.launch l).began)
  have e : (s.endLaunch l status code).mem = memSetAll s1.mem (placed pa (leBytes 4 status ++ _)) := written
  rw [e]
  exact memNat_status _ _ _ _ small

/-! ### Workgroups are discarded (R360) -/

/-- A context of t is that of s, but for what is used of its save area. -/
def SameButSaved (s t : State) : Prop := ∀ c, t.ctx c = { s.ctx c with saveUsed := (t.ctx c).saveUsed }

theorem SameButSaved.trans {s t u : State} (h : SameButSaved s t) (k : SameButSaved t u) : SameButSaved s u := fun c => by rw [k c, h c]

theorem State.freeWg_wgs (s : State) (w : Nat) : (s.freeWg w).wgs = tblDel s.wgs w := (s.freeWg_frame w).wgs

theorem State.freeWg_ctx (s : State) (w : Nat) : SameButSaved s (s.freeWg w) := fun c => by
  have freed : (s.freeWg w).ctx c = (s.without w).ctx c := by rw [State.ctx, (s.freeWg_frame w).ctxs, State.ctx]
  rw [freed]
  by_cases h : c = s.ctxOfWg w
  · have own : (s.without w).ctx c = { s.ctx c with saveUsed := (s.ctx c).saveUsed - (s.wg w).saveLen } := by
      rw [h]
      exact s.modCtx_self (s.ctxOfWg w) fun c => { c with saveUsed := c.saveUsed - (s.wg w).saveLen }
    rw [own]
  · have other : (s.without w).ctx c = s.ctx c := s.modCtx_other (fun c => { c with saveUsed := c.saveUsed - (s.wg w).saveLen }) h
    rw [other]

theorem State.discardWg_spec (s : State) (w : Nat) : (s.discardWg w).wgs = tblDel s.wgs w ∧ SameButSaved s (s.discardWg w) := by
  have pubs : WorkFrame s ((s.groupsOf w).foldl (fun u g => u.dropPubs (u.ctxOfWg w) g) s) := .foldl (fun u g => .dropPubs u _ g) _ s
  unfold State.discardWg
  generalize (s.groupsOf w).foldl (fun u g => u.dropPubs (u.ctxOfWg w) g) s = u at pubs
  refine ⟨(State.freeWg_wgs _ w).trans (congrArg (tblDel · w) pubs.wgs), SameButSaved.trans (fun c => ?_) (State.freeWg_ctx _ w)⟩
  have same : u.ctx c = s.ctx c := by rw [State.ctx, pubs.ctxs, State.ctx]
  rw [← same]
  rfl

theorem State.discardWgs_spec (l : List (Nat × Workgroup)) (s : State) : SameButSaved s (l.foldl (fun u p => u.discardWg p.1) s) ∧
    ∀ p ∈ l, tblFind (l.foldl (fun u p => u.discardWg p.1) s).wgs p.1 = none := by
  have fewer : ∀ (r : List (Nat × Workgroup)) (u : State) (k : Nat), tblFind u.wgs k = none → tblFind (r.foldl (fun u p => u.discardWg p.1) u).wgs k = none := by
    intro r
    induction r with
    | nil => exact fun u k h => h
    | cons a rest ih =>
      intro u k h
      refine ih _ k ?_
      rw [(u.discardWg_spec a.1).1]
      by_cases e : k = a.1
      · rw [e]
        exact tblFind_tblDel_self _ _
      · rw [tblFind_tblDel_other _ e]
        exact h
  induction l generalizing s with
  | nil => exact ⟨fun _ => rfl, fun p hp => nomatch hp⟩
  | cons a r ih =>
    obtain ⟨same, gone⟩ := ih (s.discardWg a.1)
    refine ⟨(s.discardWg_spec a.1).2.trans same, fun p hp => ?_⟩
    rcases List.mem_cons.1 hp with rfl | later
    · refine fewer r _ _ ?_
      rw [(s.discardWg_spec p.1).1]
      exact tblFind_tblDel_self _ _
    · exact gone p later

/-! ### A workgroup is parked, and resumes (R358) -/

/-- The workgroup as it is saved, with its groups, units, operations and claims. -/
def State.packed (s : State) (w : Nat) (x : Workgroup) : Workgroup :=
  let c := s.core (s.wg w).core
  { x with phase := 1, saveLen := s.saveBytes w, saved := (s.groups.filter (fun p => p.2.wg = w)).map (fun (p : Nat × Group) => (p.1 % 128, p.2)),
           savedOpm := c.opm.filter (fun p => s.holdsSlot (s.wg w).core w p.1), savedBanks := c.banks.filter (fun p => s.holdsBank (s.wg w).core w p.1),
           savedMq := c.mq.filter (fun o => o.wg = w), savedClaims := c.claims.filter (fun d => d.wg = w) }

/-- The save area of a workgroup's context, from which its bytes go. -/
def State.saveAt (s : State) (w : Nat) : Nat := (s.ctx (s.ctxOfWg w)).save + (s.ctx (s.ctxOfWg w)).saveUsed

/-- The bytes written to the save area, which the spec does not give. -/
def State.saveImage (s : State) (w : Nat) : List Byte := (List.range (s.saveBytes w)).map (fun i => (Config.freeValue (s.fresh + i)).setWidth 8)

/-- The state in which a workgroup has been saved and has left its core. -/
def State.stored (s : State) (w : Nat) : State :=
  let u := (s.bufferWrite (s.saveAt w) (s.saveImage w)).modWg w (s.packed w)
  { u with groups := s.groups.filter (fun p => p.2.wg ≠ w) }.modCtx (s.ctxOfWg w) (fun c => { c with saveUsed := c.saveUsed + s.saveBytes w })

theorem State.stored_reads (s : State) (w : Nat) : (s.stored w).wg w = s.packed w (s.wg w) ∧
    (s.stored w).ctx (s.ctxOfWg w) = { s.ctx (s.ctxOfWg w) with saveUsed := (s.ctx (s.ctxOfWg w)).saveUsed + s.saveBytes w } := by
  have home := s.bufferWrite_home (s.saveAt w) (s.saveImage w)
  have own : (s.bufferWrite (s.saveAt w) (s.saveImage w)).wg w = s.wg w := by
    unfold HomeFrame at home
    rw [home]
    rfl
  have ctx : (s.bufferWrite (s.saveAt w) (s.saveImage w)).ctx (s.ctxOfWg w) = s.ctx (s.ctxOfWg w) := by
    unfold HomeFrame at home
    rw [home]
    rfl
  unfold State.stored
  generalize s.bufferWrite (s.saveAt w) (s.saveImage w) = v at own ctx
  refine ⟨?_, ?_⟩
  · rw [← own]
    exact v.modWg_self w (s.packed w)
  · rw [← ctx]
    exact State.modCtx_self _ _ fun c => { c with saveUsed := c.saveUsed + s.saveBytes w }

theorem State.saveWg_frame (s : State) (w : Nat) : WorkFrame (s.stored w) (s.saveWg w) := by
  have home := s.bufferWrite_home (s.saveAt w) (s.saveImage w)
  let u := (s.bufferWrite (s.saveAt w) (s.saveImage w)).modWg w (s.packed w)
  have units : WorkFrame u ((u.freeAllUnits (s.wg w).core w).modCore (s.wg w).core (fun c => { c with mq := c.mq.filter (fun o => o.wg ≠ w) })) :=
    (WorkFrame.freeAllUnits u _ w).trans (.modCore _ _ _)
  have groups : u.groups = s.groups := by
    show (s.bufferWrite (s.saveAt w) (s.saveImage w)).groups = _
    unfold HomeFrame at home
    rw [home]
  have left : s.saveWg w = (State.leaveCore (State.modCtx { ((u.freeAllUnits (s.wg w).core w).modCore (s.wg w).core (fun c => { c with mq := c.mq.filter (fun o => o.wg ≠ w) })) with
      groups := ((u.freeAllUnits (s.wg w).core w).modCore (s.wg w).core (fun c => { c with mq := c.mq.filter (fun o => o.wg ≠ w) })).groups.filter (fun p => p.2.wg ≠ w) }
      (s.ctxOfWg w) (fun c => { c with saveUsed := c.saveUsed + s.saveBytes w })) (s.wg w).core (s.ctxOfWg w)).dropQuiesces w true := rfl
  have stored : s.stored w = State.modCtx { u with groups := u.groups.filter (fun p => p.2.wg ≠ w) } (s.ctxOfWg w) (fun c => { c with saveUsed := c.saveUsed + s.saveBytes w }) := by
    rw [groups]
    rfl
  rw [left, stored]
  generalize (u.freeAllUnits (s.wg w).core w).modCore (s.wg w).core (fun c => { c with mq := c.mq.filter (fun o => o.wg ≠ w) }) = v at units
  refine (WorkFrame.trans ?_ (.leaveCore _ _ _)).trans (.dropQuiesces _ _ _)
  unfold WorkFrame at units ⊢
  rw [units]
  rfl

theorem State.rearm_keeps (s : State) (core slot : Nat) : (s.rearm core slot).groups = s.groups ∧ (s.rearm core slot).wgs = s.wgs := by
  have one (u : State) (w : Waiting) : (match w.cond with
    | .page _ => (u.now (.pageFaultResolve core slot w.id)).inTicks Config.pageFaultTicks (.pageFaultTimeout core slot w.id)
    | _ => u).groups = u.groups ∧ (match w.cond with
    | .page _ => (u.now (.pageFaultResolve core slot w.id)).inTicks Config.pageFaultTicks (.pageFaultTimeout core slot w.id)
    | _ => u).wgs = u.wgs := by
    cases e : w.cond <;> exact ⟨rfl, rfl⟩
  unfold State.rearm
  exact ⟨foldl_same State.groups (fun u w => (one u w).1) _ s, foldl_same State.wgs (fun u w => (one u w).2) _ s⟩

/-! ### The halt of a reset is announced (R7, R360) -/

theorem State.announceResetHalt_reads (s : State) (d x : Nat) : (s.announceResetHalt d x).ctx = s.ctx ∧ (s.announceResetHalt d x).tick = s.tick ∧
    (∀ e, e ≠ d → (s.announceResetHalt d x).die e = s.die e) ∧ (∀ y ∈ s.timers, y ∈ (s.announceResetHalt d x).timers) ∧
    ∀ c ∈ (s.ctx x).resetCores, ⟨0, s.tick + s.haltDelay d, .resetHaltArrival x c⟩ ∈ (s.announceResetHalt d x).timers := by
  have added : ∀ (n : Nat) (l : List Nat) (u : State), (l.foldl (fun u c => u.inTicks n (.resetHaltArrival x c)) u).timers = u.timers ++ l.map fun c => ⟨0, u.tick + n, .resetHaltArrival x c⟩ := by
    intro n l
    induction l with
    | nil => exact fun u => (List.append_nil _).symm
    | cons a r ih =>
      intro u
      rw [List.foldl_cons, ih, List.map_cons, List.append_cons]
      rfl
  have cores := added (s.haltDelay d) (s.ctx x).resetCores s
  have same : ∀ (n : Nat) (l : List Nat) (u : State), ∃ y, l.foldl (fun u c => u.inTicks n (.resetHaltArrival x c)) u = { u with timers := y } := by
    intro n l
    induction l with
    | nil => exact fun u => ⟨u.timers, rfl⟩
    | cons a r ih => exact fun u => ih _
  obtain ⟨y, e⟩ := same (s.haltDelay d) (s.ctx x).resetCores s
  unfold State.announceResetHalt State.takeHaltTick
  rw [e] at cores
  dsimp only
  rw [e]
  have timers : y = s.timers ++ (s.ctx x).resetCores.map fun c => ⟨0, s.tick + s.haltDelay d, .resetHaltArrival x c⟩ := cores
  refine ⟨rfl, rfl, fun e ne => State.modDie_other _ _ ne, fun z hz => ?_, fun c hc => ?_⟩
  · show z ∈ y
    rw [timers]
    exact List.mem_append_left _ hz
  · show _ ∈ y
    rw [timers]
    exact List.mem_append_right _ (List.mem_map.2 ⟨c, hc, rfl⟩)

/-- R7, R360: each die of a list announces the halt, in its own next tick. -/
theorem State.announceResetHalts_due {x d c : Nat} (l : List Nat) (s : State) (hd : d ∈ l) (hc : c ∈ (s.ctx x).resetCores) :
    ⟨0, s.tick + s.haltDelay d, .resetHaltArrival x c⟩ ∈ (l.foldl (fun u d => u.announceResetHalt d x) s).timers := by
  have due : ∀ (l : List Nat) (u : State), u.ctx = s.ctx → u.tick = s.tick → (d ∈ l ∧ u.die d = s.die d ∨ ⟨0, s.tick + s.haltDelay d, .resetHaltArrival x c⟩ ∈ u.timers) →
      ⟨0, s.tick + s.haltDelay d, .resetHaltArrival x c⟩ ∈ (l.foldl (fun u d => u.announceResetHalt d x) u).timers := by
    intro l
    induction l with
    | nil => exact fun u _ _ h => h.resolve_left fun k => nomatch k.1
    | cons a r ih =>
      intro u ctx tick h
      obtain ⟨ctx', tick', others, kept, added⟩ := u.announceResetHalt_reads a x
      refine ih _ (ctx'.trans ctx) (tick'.trans tick) ?_
      rcases h with ⟨listed, die⟩ | before
      · by_cases this : d = a
        · right
          have here := added c (by rw [ctx]; exact hc)
          rw [← this, State.haltDelay, tick, die] at here
          rw [← this]
          exact here
        · exact .inl ⟨(List.mem_cons.1 listed).resolve_left this, (others d this).trans die⟩
      · exact .inr (kept _ before)
  exact due l s rfl rfl (.inl ⟨hd, rfl⟩)

end Sys2Proof.Machine

namespace Sys2Proof.Proofs.Parking

open Sys2Proof.Machine Sys2Proof.Claims

/-! ### Parking and resuming (R358) -/

theorem workgroupPark_saves {s : State} {wg : Nat} (must : s.mustPark wg = true) (quiet : s.quietWg wg = true)
    (room : (s.ctx (s.ctxOfWg wg)).saveUsed + s.saveBytes wg ≤ (s.ctx (s.ctxOfWg wg)).saveSize) :
    ∃ t, exec (.workgroupPark wg) s = .next t ∧ (t.wg wg).phase = 1 ∧ (t.wg wg).saveLen = s.saveBytes wg ∧
      (∀ a, let at' := (s.ctx (s.ctxOfWg wg)).save + (s.ctx (s.ctxOfWg wg)).saveUsed
        a < at' ∨ at' + s.saveBytes wg ≤ a → memGet t.mem a = memGet s.mem a) ∧
      (t.wg wg).saved = (s.groups.filter (fun p => p.2.wg = wg)).map (fun p => (p.1 % 128, p.2)) ∧ (∀ p ∈ t.groups, p.2.wg ≠ wg) ∧
      (t.ctx (s.ctxOfWg wg)).saveUsed = (s.ctx (s.ctxOfWg wg)).saveUsed + s.saveBytes wg := by
  have run : exec (.workgroupPark wg) s = execWorkgroupPark wg s := rfl
  rw [execWorkgroupPark, must, quiet] at run
  simp only [Bool.not_true, Bool.or_self, Bool.false_eq_true, if_false] at run
  rw [if_neg (Nat.not_lt.2 room)] at run
  have frame := s.saveWg_frame wg
  have workgroup : (s.saveWg wg).wg wg = s.packed wg (s.wg wg) := by
    rw [State.wg, frame.wgs]
    exact (s.stored_reads wg).1
  have ctx : (s.saveWg wg).ctx (s.ctxOfWg wg) = { s.ctx (s.ctxOfWg wg) with saveUsed := (s.ctx (s.ctxOfWg wg)).saveUsed + s.saveBytes wg } := by
    rw [State.ctx, frame.ctxs]
    exact (s.stored_reads wg).2
  refine ⟨_, run, by rw [workgroup]; rfl, by rw [workgroup]; rfl, ?_, by rw [workgroup]; rfl, fun p hp => ?_, by rw [ctx]⟩
  · intro a at' out
    rw [frame.mem]
    show memGet (s.bufferWrite (s.saveAt wg) (s.saveImage wg)).mem a = _
    have length : (s.saveImage wg).length = s.saveBytes wg := by rw [State.saveImage, List.length_map, List.length_range]
    rw [State.bufferWrite_mem, memGet_memSetAll_placed, length, if_neg]
    show ¬ (at' ≤ a ∧ a < at' + s.saveBytes wg)
    omega
  · rw [frame.groups] at hp
    exact of_decide_eq_true (List.mem_filter.1 hp).2

theorem workgroupPark_resets {s : State} {wg : Nat} (must : s.mustPark wg = true) (quiet : s.quietWg wg = true)
    (full : (s.ctx (s.ctxOfWg wg)).saveSize < (s.ctx (s.ctxOfWg wg)).saveUsed + s.saveBytes wg) (live : (s.ctx (s.ctxOfWg wg)).st = 1) :
    ∃ t, exec (.workgroupPark wg) s = .next t ∧ (t.ctx (s.ctxOfWg wg)).st = 2 ∧ (t.ctx (s.ctxOfWg wg)).reason = 3 := by
  have run : exec (.workgroupPark wg) s = execWorkgroupPark wg s := rfl
  rw [execWorkgroupPark, must, quiet] at run
  simp only [Bool.not_true, Bool.or_self, Bool.false_eq_true, if_false] at run
  rw [if_pos full] at run
  obtain ⟨-, -, st, reason, -⟩ := s.reset1_started 3 false live
  exact ⟨_, run, st, reason⟩

/-- The slots that the workgroup's groups resume in, by those they left. -/
def newSlots (s : State) (wg : Nat) : List (Nat × Nat) := (s.resumeSlots (s.wg wg).core (s.wg wg).saved).getD []

def newSlot (s : State) (wg k : Nat) : Nat := (((newSlots s wg).find? (fun p => p.1 = k)).map (fun p => p.2)).getD k

/-- The workgroup stands on its core again. -/
def unpacked (s : State) (wg : Nat) (y : Workgroup) : Workgroup :=
  { y with phase := 0, saveLen := 0, replay := y.replay.moved (s.wg wg).core (newSlot s wg), saved := [], savedOpm := [], savedBanks := [], savedMq := [], savedClaims := [],
           spBase := (s.spFree (s.wg wg).core (s.wg wg).spSize).getD 0, slots := (newSlots s wg).map (fun p => p.2) }

/-- A group as it resumes in a slot. -/
def resumed (s : State) (core k : Nat) (g : Group) : Group :=
  { g.atSlot k with age := 0, chest := if s.regsUsed core + g.n ≤ 6144 then 0 else 1, entered := true, sunk := !(s.regsUsed core + g.n ≤ 6144) }

/-- The groups that a workgroup has saved stand in slots again. -/
def regrouped (s : State) (wg : Nat) : State :=
  (s.wg wg).saved.foldl (fun u p => u.setGroup (s.wg wg).core (newSlot s wg p.1) (resumed u (s.wg wg).core (newSlot s wg p.1) p.2)) (s.modWg wg (unpacked s wg))

theorem workgroupResume_eq {s : State} {wg : Nat} (may : s.mayResume wg = true) :
    ∃ t, exec (.workgroupResume wg) s = .next t ∧ t.mem = s.mem ∧ t.groups = (regrouped s wg).groups ∧ t.wgs = (regrouped s wg).wgs := by
  have run : exec (.workgroupResume wg) s = execWorkgroupResume wg s := rfl
  let x := s.wg wg
  rw [execWorkgroupResume, may, if_neg (by decide)] at run
  refine ⟨_, run, by simp, ?_, ?_⟩
  · refine (foldl_same State.groups (fun u (p : Nat × Nat) => (u.rearm_keeps x.core p.2).1) _ _).trans ?_
    refine (foldl_same State.groups (fun u c => ?_) _ _).trans ?_
    · split <;> rfl
    · simp only [State.modCtx_frame, State.modCore_frame]
      rfl
  · refine (foldl_same State.wgs (fun u (p : Nat × Nat) => (u.rearm_keeps x.core p.2).2) _ _).trans ?_
    refine (foldl_same State.wgs (fun u c => ?_) _ _).trans ?_
    · split <;> rfl
    · simp only [State.modCtx_frame, State.modCore_frame]
      rfl

theorem workgroupResume_restores {s : State} {wg : Nat} (may : s.mayResume wg = true) :
    ∃ t, exec (.workgroupResume wg) s = .next t ∧ t.mem = s.mem ∧ (t.wg wg).phase = 0 ∧ (t.wg wg).saved = [] ∧
      ∀ k g, (s.wg wg).saved = [(k, g)] → s.hasGroup (s.wg wg).core k = false → k < 128 → (t.group (s.wg wg).core k).threads = g.threads ∧ (t.group (s.wg wg).core k).wg = g.wg ∧
        (t.group (s.wg wg).core k).stopped = g.stopped := by
  obtain ⟨t, run, mem, groups, wgs⟩ := workgroupResume_eq may
  have workgroup : t.wg wg = unpacked s wg (s.wg wg) := by
    have kept : (regrouped s wg).wgs = (s.modWg wg (unpacked s wg)).wgs := foldl_same State.wgs (by intros; rfl) _ _
    rw [State.wg, wgs, kept]
    exact s.modWg_self wg _
  refine ⟨t, run, mem, by rw [workgroup]; rfl, by rw [workgroup]; rfl, fun k g only free low => ?_⟩
  have slots : newSlots s wg = [(k, k)] := by
    rw [newSlots, State.resumeSlots, only]
    simp [free]
  have slot : newSlot s wg k = k := by
    rw [newSlot, slots]
    simp
  have group : t.group (s.wg wg).core k = resumed (s.modWg wg (unpacked s wg)) (s.wg wg).core k g := by
    rw [State.group, groups, regrouped, only, List.foldl_cons, List.foldl_nil]
    simp only [slot]
    exact tblGet_tblPut_self _ _ _ _
  rw [group]
  exact ⟨rfl, rfl, rfl⟩

/-! ### Forced reset (R359, R360) -/

theorem forcedReset_begins (s : State) (ctx reason : Nat) (live : (s.ctx ctx).st = 1) : ∃ t, exec (.forcedReset ctx reason) s = .next t ∧ t.mem = s.mem ∧ (t.ctx ctx).st = 2 ∧
    (t.ctx ctx).reason = reason ∧
    (∀ p ∈ s.wgs, s.ctxOfWg p.1 = ctx → p.2.phase = 0 → p.2.core ∈ (t.ctx ctx).resetCores) ∧
    (∀ d, d < 4 → ∀ c ∈ (t.ctx ctx).resetCores, ⟨0, s.tick + s.haltDelay d, .resetHaltArrival ctx c⟩ ∈ t.timers) ∧
    ((t.ctx ctx).resetCores = [] → ⟨0, s.tick + Config.lecternLatency, .contextResetComplete ctx⟩ ∈ t.timers) := by
  obtain ⟨-, same, -⟩ := s.reset1_begun reason false live
  obtain ⟨-, -, st, why, -⟩ := s.reset1_started reason false live
  have cores : ((s.reset1 ctx reason false).ctx ctx).resetCores = s.coresOfCtx ctx := by
    rw [same, State.resetBegun, State.modCtx_self]
  have begun : ((s.resetBegun ctx reason false).ctx ctx).resetCores = s.coresOfCtx ctx := by
    rw [State.resetBegun, State.modCtx_self]
  refine ⟨_, rfl, (s.reset1_mem _ _ _).1, st, why, fun p hp own here => ?_, fun d hd c hc => ?_, fun none' => ?_⟩
  · rw [cores, State.coresOfCtx, State.coresOf, List.mem_eraseDups]
    exact List.mem_map.2 ⟨p, List.mem_filter.2 ⟨hp, by simp [own, here]⟩, rfl⟩
  · rw [cores] at hc
    have due := State.announceResetHalts_due (List.range 4) (s.resetBegun ctx reason false) (List.mem_range.2 hd) (begun ▸ hc)
    rw [s.reset1_eq reason false live]
    split
    · exact List.mem_append_left _ due
    · exact due
  · rw [cores] at none'
    rw [s.reset1_eq reason false live, none', List.isEmpty_nil, if_pos rfl]
    have tick : ((List.range 4).foldl (fun u d => u.announceResetHalt d ctx) (s.resetBegun ctx reason false)).tick = s.tick :=
      foldl_same State.tick (fun u d => (u.announceResetHalt_reads d ctx).2.1) _ _
    rw [← tick]
    exact List.mem_append_right _ List.mem_cons_self

theorem resetHaltArrival_discards (s : State) (ctx core : Nat) (resets : (s.ctx ctx).st = 2) (listed : core ∈ (s.ctx ctx).resetCores) :
    ∃ t, exec (.resetHaltArrival ctx core) s = .next t ∧ t.mem = s.mem ∧
      (∀ p ∈ s.wgs, p.2.core = core → s.ctxOfWg p.1 = ctx → tblFind t.wgs p.1 = none) ∧ core ∉ (t.ctx ctx).resetCores ∧
      ((∀ c ∈ (s.ctx ctx).resetCores, c = core) → ∃ r, t.agenda = .event (.contextResetComplete ctx) :: r) := by
  let mine := s.wgs.filter (fun p => p.2.core = core && s.ctxOfWg p.1 = ctx)
  let s1 := mine.foldl (fun u p => u.discardWg p.1) s
  let left := (s.ctx ctx).resetCores.filter (· ≠ core)
  let s2 := s1.modCtx ctx (fun c => { c with resetCores := left })
  let t := if left.isEmpty then s2.now (.contextResetComplete ctx) else s2
  have run : exec (.resetHaltArrival ctx core) s = execResetHaltArrival ctx core s := rfl
  have go : ¬ (decide ((s.ctx ctx).st ≠ 2) || !(s.ctx ctx).resetCores.contains core) = true := by
    rw [decide_eq_false (not_not.2 resets), List.contains_iff_mem.2 listed]
    decide
  rw [execResetHaltArrival, if_neg go] at run
  have run' : exec (.resetHaltArrival ctx core) s = Host.Outcome.next t := run
  have wgs : t.wgs = s1.wgs := by
    show (if left.isEmpty then s2.now (.contextResetComplete ctx) else s2).wgs = _
    split <;> rfl
  have cores : (t.ctx ctx).resetCores = left := by
    have now : (s2.ctx ctx).resetCores = left := by rw [State.modCtx_self]
    show ((if left.isEmpty then s2.now (.contextResetComplete ctx) else s2).ctx ctx).resetCores = _
    split <;> exact now
  refine ⟨t, run', ?_, fun p hp here own => ?_, ?_, fun only => ?_⟩
  · show (if left.isEmpty then s2.now (.contextResetComplete ctx) else s2).mem = _
    split <;> simp [s2, s1]
  · rw [wgs]
    exact (State.discardWgs_spec mine s).2 p (List.mem_filter.2 ⟨hp, by simp [here, own]⟩)
  · rw [cores]
    intro h
    exact of_decide_eq_true (List.mem_filter.1 h).2 rfl
  · have none' : left = [] := List.filter_eq_nil_iff.2 fun c hc => by simp [only c hc]
    refine ⟨s2.agenda, ?_⟩
    show (if left.isEmpty then s2.now (.contextResetComplete ctx) else s2).agenda = _
    rw [none']
    rfl

/-! ### A reset completes (R360) -/

theorem freeSlotsOf_frame (s : State) (ctx : Nat) : WorkFrame s (s.freeSlotsOf ctx) := by
  have operations (u : State) (o : Tbl HomeOp) : WorkFrame u { u with homeOps := o } := rfl
  unfold State.freeSlotsOf
  exact ((WorkFrame.foldl (fun u h => .modHome u _ _) _ s).trans (.modCores _ _ _)).trans (operations _ _)

/-- The workgroups of a context. -/
def wgsOf (s : State) (ctx : Nat) : List (Nat × Workgroup) := s.wgs.filter (fun p => s.ctxOfWg p.1 = ctx)

/-- R360: the workgroups of a context are discarded, with what of it is on its way. -/
def discarded (s : State) (ctx : Nat) : State :=
  let s1 := (wgsOf s ctx).foldl (fun u p => u.discardWg p.1) s
  { s1 with submits := s1.submits.filter (fun p => p.2.ctx ≠ ctx), msgs := s1.msgs.filter (fun m => m.2.ctx ≠ ctx || !m.2.lostAtReset) }

/-- R360: its counts are 0. -/
def zeroed (c : Ctx) : Ctx := { c with ximp := 0, xexp := 0, xauto := 0, pauto := 0, saveUsed := 0 }

/-- R262: the launches of a context leave their regions. -/
def regionsLeft (s : State) (ctx : Nat) : State := (s.launches.filter (fun p => p.2.ctx = ctx)).foldl (fun u p => u.leaveRegions p.1) s

/-- The state of a reset before its context's regions are free and what its records wait for is kept. -/
def emptied (s : State) (ctx : Nat) : State := regionsLeft ((((discarded s ctx).freeSlotsOf ctx).flushAll ctx).modCtx ctx zeroed) ctx

theorem clearCtx_eq (s : State) (ctx : Nat) :
    s.clearCtx ctx = (emptied s ctx).modCtx ctx (fun c => { c with regions := [], closing := some ((emptied s ctx).unperformed ctx) }) := rfl

theorem discarded_spec (s : State) (ctx : Nat) : SameButSaved s (discarded s ctx) ∧ ∀ p ∈ wgsOf s ctx, tblFind (discarded s ctx).wgs p.1 = none :=
  State.discardWgs_spec (wgsOf s ctx) s

theorem regionsLeft_leaves (s : State) (ctx : Nat) : LeavesRegions s (regionsLeft s ctx) := by
  unfold regionsLeft
  exact .foldl (fun u (p : Nat × Launch) => .leaveRegions u p.1) _ s

theorem flushed_keeps (s : State) (ctx : Nat) : ((s.freeSlotsOf ctx).flushAll ctx).ctxs = s.ctxs ∧ ((s.freeSlotsOf ctx).flushAll ctx).wgs = s.wgs := by
  have freed := freeSlotsOf_frame s ctx
  have sends := State.flushAll_sends (s.freeSlotsOf ctx) ctx
  have ctxs : ((s.freeSlotsOf ctx).flushAll ctx).ctxs = (s.freeSlotsOf ctx).ctxs := by rw [sends]
  exact ⟨ctxs.trans freed.ctxs, sends.wgs.trans freed.wgs⟩

theorem emptied_wgs (s : State) (ctx : Nat) : (emptied s ctx).wgs = (discarded s ctx).wgs :=
  (regionsLeft_leaves _ ctx).wgs.trans (flushed_keeps (discarded s ctx) ctx).2

theorem emptied_ctx (s : State) (ctx : Nat) : ∃ r, (emptied s ctx).ctx ctx = { zeroed (s.ctx ctx) with regions := r } := by
  have left := (regionsLeft_leaves ((((discarded s ctx).freeSlotsOf ctx).flushAll ctx).modCtx ctx zeroed) ctx).ctx ctx
  have same := (discarded_spec s ctx).1 ctx
  have kept : ((((discarded s ctx).freeSlotsOf ctx).flushAll ctx)).ctx ctx = (discarded s ctx).ctx ctx := by
    rw [State.ctx, (flushed_keeps (discarded s ctx) ctx).1, State.ctx]
  rw [State.modCtx_self, kept, same] at left
  exact ⟨_, left⟩

theorem clearCtx_clears (s : State) (ctx : Nat) : ((s.clearCtx ctx).ctx ctx).closing.isSome = true ∧ ((s.clearCtx ctx).ctx ctx).st = (s.ctx ctx).st ∧
    ((s.clearCtx ctx).ctx ctx).ximp = 0 ∧ ((s.clearCtx ctx).ctx ctx).xexp = 0 ∧ ((s.clearCtx ctx).ctx ctx).xauto = 0 ∧ ((s.clearCtx ctx).ctx ctx).pauto = 0 ∧
    ((s.clearCtx ctx).ctx ctx).regions = [] ∧ ∀ p ∈ s.wgs, s.ctxOfWg p.1 = ctx → tblFind (s.clearCtx ctx).wgs p.1 = none := by
  obtain ⟨r, same⟩ := emptied_ctx s ctx
  have gone (p : Nat × Workgroup) (hp : p ∈ s.wgs) (own : s.ctxOfWg p.1 = ctx) : tblFind (emptied s ctx).wgs p.1 = none := by
    rw [emptied_wgs]
    exact (discarded_spec s ctx).2 p (List.mem_filter.2 ⟨hp, decide_eq_true own⟩)
  rw [clearCtx_eq, State.modCtx_self, same]
  exact ⟨rfl, rfl, rfl, rfl, rfl, rfl, rfl, gone⟩

/-- R360: every launch of a list ends, none comes to be, and those of the list are gone. -/
theorem endLaunches_end (l : List (Nat × Launch)) (s : State) (status code : Nat) : StandBefore s (l.foldl (fun u p => u.endLaunch p.1 status code) s) ∧
    ∀ p ∈ (l.foldl (fun u p => u.endLaunch p.1 status code) s).launches, ∀ q ∈ l, p.1 ≠ q.1 := by
  induction l generalizing s with
  | nil => exact ⟨.of_launches rfl, fun p _ q hq => nomatch hq⟩
  | cons a r ih =>
    obtain ⟨before, gone⟩ := s.endLaunch_launches a.1 status code
    obtain ⟨before', gone'⟩ := ih (s.endLaunch a.1 status code)
    refine ⟨before.trans before', fun p hp q hq => ?_⟩
    rcases List.mem_cons.1 hq with rfl | later
    · obtain ⟨z, hz, key, -⟩ := before' p hp
      rw [← key]
      exact gone z hz
    · exact gone' p hp q later

theorem contextResetComplete_ends (s : State) (ctx : Nat) (resets : (s.ctx ctx).st = 2) (none' : (s.ctx ctx).resetCores = []) {ids : List Nat}
    (closing : (s.ctx ctx).closing = some ids) (performed : ids.any s.outstanding = false) : ∃ t, exec (.contextResetComplete ctx) s = .next t ∧
      (∀ p ∈ t.launches, p.2.ctx ≠ ctx) ∧ (t.ctx ctx).st = (if (s.ctx ctx).stopAfter then 0 else 1) ∧ (t.ctx ctx).closing = none ∧
      ∀ l x pa, tblSorted s.launches = true → s.launches.filter (fun p => p.2.ctx = ctx) = [(l, x)] → RecordAt s ctx x.kr.comp pa → memNat t.mem pa 4 = 2 := by
  let s1 := (s.launches.filter (fun p => p.2.ctx = ctx)).foldl (fun u p => u.endLaunch p.1 2 (s.ctx ctx).reason) s
  let s2 := s1.modCtx ctx (fun c => { c with st := 1, stopAfter := false, closing := none })
  let s3 : State := { s2 with dies := s2.dies.map (fun (d : Nat × Die) => if d.2.sched.ctx = ctx then (d.1, { d.2 with sched := { d.2.sched with ctx := 64, draining := false } }) else d) }
  let t := if (s.ctx ctx).stopAfter then s3.modCtx ctx (fun c => { idle := c.idle }) else s3
  have run : exec (.contextResetComplete ctx) s = execContextResetComplete ctx s := rfl
  have go : ¬ (decide ((s.ctx ctx).st ≠ 2) || !(s.ctx ctx).resetCores.isEmpty) = true := by
    rw [decide_eq_false (not_not.2 resets), none']
    decide
  rw [execContextResetComplete, if_neg go] at run
  simp only [closing, performed, Bool.false_eq_true, if_false] at run
  have run' : exec (.contextResetComplete ctx) s = Host.Outcome.next t := run
  obtain ⟨before, gone⟩ := endLaunches_end (s.launches.filter (fun p => p.2.ctx = ctx)) s 2 (s.ctx ctx).reason
  have launches : t.launches = s1.launches := by
    show (if (s.ctx ctx).stopAfter then s3.modCtx ctx (fun c => { idle := c.idle }) else s3).launches = _
    split <;> rfl
  have mem : t.mem = s1.mem := by
    show (if (s.ctx ctx).stopAfter then s3.modCtx ctx (fun c => { idle := c.idle }) else s3).mem = _
    split <;> rfl
  have three : s3.ctx ctx = { s1.ctx ctx with st := 1, stopAfter := false, closing := none } :=
    s1.modCtx_self ctx fun c => { c with st := 1, stopAfter := false, closing := none }
  have now : (t.ctx ctx).st = (if (s.ctx ctx).stopAfter then 0 else 1) ∧ (t.ctx ctx).closing = none := by
    show ((if (s.ctx ctx).stopAfter then s3.modCtx ctx (fun c => { idle := c.idle }) else s3).ctx ctx).st = _ ∧
      ((if (s.ctx ctx).stopAfter then s3.modCtx ctx (fun c => { idle := c.idle }) else s3).ctx ctx).closing = _
    split
    · rw [s3.modCtx_self]
      exact ⟨rfl, rfl⟩
    · rw [three]
      exact ⟨rfl, rfl⟩
  refine ⟨t, run', fun p hp own => ?_, now.1, now.2, fun l x pa sorted only record => ?_⟩
  · rw [launches] at hp
    obtain ⟨q, hq, key, ctx'⟩ := before p hp
    exact gone p hp q (List.mem_filter.2 ⟨hq, decide_eq_true (ctx'.trans own)⟩) key.symm
  · have listed : (l, x) ∈ s.launches.filter (fun p => p.2.ctx = ctx) := by
      rw [only]
      exact List.mem_cons_self
    obtain ⟨stands, own⟩ := List.mem_filter.1 listed
    have named : s.launch l = x := by
      rw [State.launch, tblGet, tblFind_of_mem sorted stands]
      rfl
    have one : s1 = s.endLaunch l 2 (s.ctx ctx).reason := by
      show (s.launches.filter (fun p => p.2.ctx = ctx)).foldl (fun u p => u.endLaunch p.1 2 (s.ctx ctx).reason) s = _
      rw [only]
      rfl
    rw [mem, one]
    refine s.endLaunch_record _ ?_ (by decide)
    rw [named, show x.ctx = ctx from of_decide_eq_true own]
    exact record

/-- Settles O38. -/
theorem parkingAndReset : Obligations.ParkingAndReset := by
  refine ⟨fun s wg _ => ⟨workgroupPark_saves, workgroupPark_resets, workgroupResume_restores⟩, forcedReset_begins, resetHaltArrival_discards, fun s ctx resets none' => ⟨fun open' => ?_, fun ids closing performed =>
    contextResetComplete_ends s ctx resets none' closing performed⟩⟩
  have run : exec (.contextResetComplete ctx) s = execContextResetComplete ctx s := rfl
  have go : ¬ (decide ((s.ctx ctx).st ≠ 2) || !(s.ctx ctx).resetCores.isEmpty) = true := by
    rw [decide_eq_false (not_not.2 resets), none']
    decide
  rw [execContextResetComplete, if_neg go] at run
  simp only [open'] at run
  obtain ⟨closing, st, ximp, xexp, xauto, pauto, regions, gone⟩ := clearCtx_clears s ctx
  exact ⟨_, run, (s.clearCtx_mem ctx).1, closing, st.trans resets, ximp, xexp, xauto, pauto, regions, gone⟩

end Sys2Proof.Proofs.Parking
end

section
/-! SUPPORT. The registers and tables of a memory stack (R418-R431): what a repair, a demand and a migration set. -/

namespace Sys2Proof.Machine

open Sys2Proof.Claims

/-! ### VBREP values (R420) -/

theorem connGroup_lt {c : Nat} (low : c < 1056) : connGroup c < 16 := by
  unfold connGroup
  split <;> omega

theorem connPos_le (c : Nat) : connPos c ≤ 65 := by
  unfold connPos
  split <;> omega

/-- R419: group and position name a connection. -/
theorem conn_unique {c d : Nat} (group : connGroup c = connGroup d) (place : connPos c = connPos d) : c = d := by
  unfold connGroup at group
  unfold connPos at place
  split at group <;> split at group <;> simp_all <;> omega

theorem bit7_iff (x : Nat) : bit x 7 = true ↔ x / 128 % 2 = 1 := by simp [bit]

theorem bit15_iff (x : Nat) : bit x 15 = true ↔ x / 32768 % 2 = 1 := by simp [bit]

/-- R420: a legal value in its fields: what repairs it holds, and the bounds they keep. -/
theorem vbLegal_iff (v : Word) : vbLegal v = true ↔ v.toNat < 65536 ∧ v.toNat % 128 ≤ 65 ∧ v.toNat / 256 % 128 ≤ 65 ∧
    (v.toNat / 32768 % 2 = 1 → v.toNat / 128 % 2 = 1 ∧ v.toNat % 128 < v.toNat / 256 % 128) := by
  have lt := v.isLt
  have high : bits v.toNat 31 16 = v.toNat / 65536 % 65536 := by simp [bits]
  have first : bits v.toNat 6 0 = v.toNat % 128 := by simp [bits]
  have second : bits v.toNat 14 8 = v.toNat / 256 % 128 := by simp [bits]
  unfold vbLegal
  simp only [high, first, second, Bool.and_eq_true, Bool.or_eq_true, decide_eq_true_eq, Bool.not_eq_true', ← Bool.not_eq_true, bit7_iff, bit15_iff, ← imp_iff_not_or]
  constructor
  · rintro ⟨⟨⟨zero, one⟩, two⟩, order⟩
    exact ⟨by omega, one, two, order⟩
  · rintro ⟨small, one, two, order⟩
    exact ⟨⟨⟨by omega, one⟩, two⟩, order⟩

/-- R420: the repairs of a value: none, one, or two in their order. -/
theorem vbRepairs_cases (v : Word) : (v.toNat / 128 % 2 ≠ 1 ∧ vbRepairs v = []) ∨ (v.toNat / 128 % 2 = 1 ∧ v.toNat / 32768 % 2 ≠ 1 ∧ vbRepairs v = [v.toNat % 128]) ∨
    (v.toNat / 128 % 2 = 1 ∧ v.toNat / 32768 % 2 = 1 ∧ vbRepairs v = [v.toNat % 128, v.toNat / 256 % 128]) := by
  have low : bits v.toNat 6 0 = v.toNat % 128 := by simp [bits]
  have high : bits v.toNat 14 8 = v.toNat / 256 % 128 := by simp [bits]
  have b7 := bit7_iff v.toNat
  have b15 := bit15_iff v.toNat
  unfold vbRepairs
  rw [low, high]
  by_cases one : bit v.toNat 7 = true
  · rw [if_pos one]
    by_cases two : bit v.toNat 15 = true
    · rw [if_pos two]
      exact .inr (.inr ⟨b7.1 one, b15.1 two, rfl⟩)
    · rw [if_neg two]
      exact .inr (.inl ⟨b7.1 one, fun h => two (b15.2 h), rfl⟩)
  · rw [if_neg one]
    exact .inl ⟨fun h => one (b7.2 h), rfl⟩

theorem vbRepairs_nodup {v : Word} (legal : vbLegal v = true) : (vbRepairs v).Nodup := by
  obtain ⟨-, -, -, order⟩ := (vbLegal_iff v).1 legal
  rcases vbRepairs_cases v with ⟨-, e⟩ | ⟨-, -, e⟩ | ⟨-, both, e⟩ <;> rw [e]
  · exact List.nodup_nil
  · exact List.nodup_singleton _
  · have := (order both).2
    simp only [List.nodup_cons, List.mem_singleton, List.not_mem_nil, not_false_eq_true, List.nodup_nil, and_true]
    omega

/-- The value of two repairs in their order. -/
theorem vb_pair {f g : Nat} (order : f < g) (small : g ≤ 65) : let v := (BitVec.ofNat 32 (f + 2 ^ 7 + g * 2 ^ 8 + 2 ^ 15) : Word)
    vbLegal v = true ∧ vbRepairs v = [f, g] := by
  intro v
  have value : v.toNat = f + 128 + g * 256 + 32768 := by
    show (BitVec.ofNat 32 _).toNat = _
    rw [BitVec.toNat_ofNat]
    exact Nat.mod_eq_of_lt (by omega)
  clear_value v
  have low : v.toNat % 128 = f := by omega
  have high : v.toNat / 256 = g + 128 := by omega
  refine ⟨(vbLegal_iff v).2 (by omega), ?_⟩
  rcases vbRepairs_cases v with ⟨h, -⟩ | ⟨-, h, -⟩ | ⟨-, -, e⟩
  · rw [value] at h
    omega
  · rw [value] at h
    omega
  · rw [e, value]
    simp only [List.cons.injEq, and_true]
    omega

/-- R420: a position is added to a legal value that has room. -/
theorem vbAdd_adds {v : Word} {q : Nat} (legal : vbLegal v = true) (small : q ≤ 65) (new : q ∉ vbRepairs v) (room : (vbRepairs v).length < 2) :
    vbLegal (vbAdd v q) = true ∧ ∀ p, p ∈ vbRepairs (vbAdd v q) ↔ p ∈ vbRepairs v ∨ p = q := by
  obtain ⟨low, first, second, order⟩ := (vbLegal_iff v).1 legal
  rcases vbRepairs_cases v with ⟨none', e⟩ | ⟨one, notTwo, e⟩ | ⟨-, -, e⟩
  · have single : v.toNat / 32768 % 2 ≠ 1 := fun both => none' (order both).1
    have add : vbAdd v q = BitVec.ofNat 32 (v.toNat / 256 * 256 + 2 ^ 7 + q) := by
      rw [vbAdd, e]
    have value : (vbAdd v q).toNat = v.toNat / 256 * 256 + 128 + q := by
      rw [add, BitVec.toNat_ofNat]
      exact Nat.mod_eq_of_lt (by omega)
    refine ⟨(vbLegal_iff _).2 (by rw [value]; omega), fun p => ?_⟩
    have repairs : vbRepairs (vbAdd v q) = [q] := by
      rcases vbRepairs_cases (vbAdd v q) with ⟨h, -⟩ | ⟨-, -, k⟩ | ⟨-, h, -⟩
      · rw [value] at h
        omega
      · rw [k, value, show (v.toNat / 256 * 256 + 128 + q) % 128 = q by omega]
      · rw [value] at h
        omega
    rw [repairs, e]
    simp
  · rw [e, List.mem_singleton] at new
    have add : vbAdd v q = if q > v.toNat % 128 then BitVec.ofNat 32 (v.toNat % 128 + 2 ^ 7 + q * 2 ^ 8 + 2 ^ 15) else BitVec.ofNat 32 (q + 2 ^ 7 + v.toNat % 128 * 2 ^ 8 + 2 ^ 15) := by
      rw [vbAdd, e]
    rw [add, e]
    split
    next above =>
      obtain ⟨legal', repairs⟩ := vb_pair above small
      refine ⟨legal', fun p => ?_⟩
      rw [repairs]
      simp
    next below =>
      obtain ⟨legal', repairs⟩ := vb_pair (show q < v.toNat % 128 by omega) first
      refine ⟨legal', fun p => ?_⟩
      rw [repairs]
      simp [or_comm]
  · rw [e] at room
    simp at room

/-! ### A repair (R420, R425, R426) -/

/-- A home whose VBREP registers and marks beyond repair alone differ. -/
def Home.RepairFrame (h k : Home) : Prop := k = { h with vbrep := k.vbrep, beyond := k.beyond }

theorem Home.RepairFrame.trans {h k l : Home} (a : h.RepairFrame k) (b : k.RepairFrame l) : h.RepairFrame l := by
  unfold Home.RepairFrame at *
  rw [b, a]

theorem Home.setVb_self (h : Home) (bus g : Nat) (v : Word) : (h.setVb bus g v).vb bus g = v := tblGet_tblSet_self _ _ _ _

theorem Home.setVb_other (h : Home) {bus g b k : Nat} (v : Word) (apart : b * 16 + k ≠ bus * 16 + g) : (h.setVb bus g v).vb b k = h.vb b k :=
  tblGet_tblSet_other _ _ _ apart

/-- R425, R426: the three cases of a persistent error: repaired already, room in its group, or none. -/
theorem Home.persistent_cases (h : Home) (bus c : Nat) :
    (connPos c ∈ vbRepairs (h.vb bus (connGroup c)) ∧ h.persistent bus c = h) ∨
    (connPos c ∉ vbRepairs (h.vb bus (connGroup c)) ∧ (vbRepairs (h.vb bus (connGroup c))).length < 2 ∧
      h.persistent bus c = h.setVb bus (connGroup c) (vbAdd (h.vb bus (connGroup c)) (connPos c))) ∨
    (connPos c ∉ vbRepairs (h.vb bus (connGroup c)) ∧ 2 ≤ (vbRepairs (h.vb bus (connGroup c))).length ∧
      h.persistent bus c = { h with beyond := if h.beyond.contains bus then h.beyond else h.beyond ++ [bus] }) := by
  unfold Home.persistent Home.repair
  by_cases old : connPos c ∈ vbRepairs (h.vb bus (connGroup c))
  · exact .inl ⟨old, by simp [old]⟩
  · by_cases full : 2 ≤ (vbRepairs (h.vb bus (connGroup c))).length
    · exact .inr (.inr ⟨old, full, by simp [old, full]⟩)
    · exact .inr (.inl ⟨old, by omega, by simp [old, full]⟩)

theorem Home.persistent_frame (h : Home) (bus c : Nat) : h.RepairFrame (h.persistent bus c) := by
  rcases h.persistent_cases bus c with ⟨-, e⟩ | ⟨-, -, e⟩ | ⟨-, -, e⟩ <;> rw [e] <;> rfl

theorem Home.persistent_other (h : Home) (bus c b g : Nat) (apart : b * 16 + g ≠ bus * 16 + connGroup c) : (h.persistent bus c).vb b g = h.vb b g := by
  rcases h.persistent_cases bus c with ⟨-, e⟩ | ⟨-, -, e⟩ | ⟨-, -, e⟩ <;> rw [e]
  · exact h.setVb_other _ apart
  · rfl

theorem Home.persistent_legal (h : Home) (bus c g : Nat) (legal : vbLegal (h.vb bus g) = true) : vbLegal ((h.persistent bus c).vb bus g) = true := by
  by_cases own : g = connGroup c
  · subst own
    rcases h.persistent_cases bus c with ⟨-, e⟩ | ⟨new, room, e⟩ | ⟨-, -, e⟩ <;> rw [e]
    · exact legal
    · rw [h.setVb_self]
      exact (vbAdd_adds legal (connPos_le c) new room).1
    · exact legal
  · rw [h.persistent_other bus c bus g (by omega)]
    exact legal

/-- What is repaired after a persistent error: what was, and, in its group with room, its position. -/
theorem Home.persistent_repairs (h : Home) {bus c g : Nat} (legal : vbLegal (h.vb bus g) = true) :
    (∀ p ∈ vbRepairs (h.vb bus g), p ∈ vbRepairs ((h.persistent bus c).vb bus g)) ∧
    (∀ p ∈ vbRepairs ((h.persistent bus c).vb bus g), p ∈ vbRepairs (h.vb bus g) ∨ g = connGroup c ∧ p = connPos c) ∧
    (g = connGroup c → connPos c ∈ vbRepairs (h.vb bus g) ∨ (vbRepairs (h.vb bus g)).length < 2 → connPos c ∈ vbRepairs ((h.persistent bus c).vb bus g)) := by
  by_cases own : g = connGroup c
  · subst own
    rcases h.persistent_cases bus c with ⟨old, e⟩ | ⟨new, room, e⟩ | ⟨new, full, e⟩ <;> rw [e]
    · exact ⟨fun p hp => hp, fun p hp => .inl hp, fun _ _ => old⟩
    · rw [h.setVb_self]
      have adds := (vbAdd_adds legal (connPos_le c) new room).2
      exact ⟨fun p hp => (adds p).2 (.inl hp), fun p hp => ((adds p).1 hp).imp_right fun e => ⟨rfl, e⟩, fun _ _ => (adds _).2 (.inr rfl)⟩
    · exact ⟨fun p hp => hp, fun p hp => .inl hp, fun _ which => (which.resolve_left new).not_ge full |>.elim⟩
  · rw [h.persistent_other bus c bus g (by omega)]
    exact ⟨fun p hp => hp, fun p hp => .inl hp, fun e => absurd e own⟩

/-! ### A demand for a bus (R424) -/

theorem Home.demand_frame (h : Home) (b : Nat) :
    h.demand b = { h with testBus := (h.demand b).testBus, testNext := (h.demand b).testNext, quiesce := (h.demand b).quiesce, ended := (h.demand b).ended } := by
  unfold Home.demand
  by_cases tested : h.testBus = some b
  · simp only [if_pos tested]
    split <;> rfl
  · simp only [if_neg tested]
    split <;> rfl

theorem Home.demand_spec (h : Home) (b : Nat) : tblFind (h.demand b).quiesce b = none ∧ (h.demand b).testBus ≠ some b ∧
    (h.testBus = some b → (h.demand b).testBus = none ∧ (h.demand b).testNext = (b + 1) % 34) ∧ (h.testBus ≠ some b → (h.demand b).testBus = h.testBus) ∧
    ∀ q, tblFind h.quiesce b = some q → (q.wg, b) ∈ (h.demand b).ended := by
  let h1 := if h.testBus = some b then { h with testBus := none, testNext := (b + 1) % 34 } else h
  have quiesce : h1.quiesce = h.quiesce := by
    show (if h.testBus = some b then { h with testBus := none, testNext := (b + 1) % 34 } else h).quiesce = _
    split <;> rfl
  have tested : (h.testBus = some b → h1.testBus = none ∧ h1.testNext = (b + 1) % 34) ∧ (h.testBus ≠ some b → h1.testBus = h.testBus) :=
    ⟨fun e => by simp only [h1, if_pos e, and_self], fun e => by simp only [h1, if_neg e]⟩
  have off : h1.testBus ≠ some b := by
    by_cases e : h.testBus = some b
    · rw [(tested.1 e).1]
      exact nofun
    · rw [tested.2 e]
      exact e
  have e : h.demand b = match tblFind h1.quiesce b with
    | some q => { h1 with quiesce := tblDel h1.quiesce b, ended := h1.ended.filter (· ≠ (q.wg, b)) ++ [(q.wg, b)] }
    | none => h1 := rfl
  clear_value h1
  rw [e]
  cases found : tblFind h1.quiesce b with
  | none => exact ⟨found, off, tested.1, tested.2, fun q hq => by rw [← quiesce, found] at hq; exact nomatch hq⟩
  | some q =>
    refine ⟨tblFind_tblDel_self _ _, off, tested.1, tested.2, fun q' hq => ?_⟩
    rw [← quiesce, found] at hq
    rw [← Option.some.inj hq]
    exact List.mem_append_right _ List.mem_cons_self

/-! ### Retirement and migration (R428, R429) -/

theorem State.retireDone_home (s : State) (stack bus word : Nat) :
    (s.retireDone stack bus word).home stack = { s.home stack with retiring := (s.home stack).retiring.filter (fun (p : Nat × Nat) => p.1 ≠ bus) } := by
  unfold State.retireDone
  have homes : ∀ (l : List (Nat × Nat)) (u : State), (l.foldl (fun s p => (s.modPend p.2 (fun q => { q with wait := 0, writes := q.writes.map (fun w => { w with val := BitVec.ofNat 32 word }) })).now (.loadCompletion p.2)) u).homes = u.homes := by
    intro l
    induction l with
    | nil => exact fun u => rfl
    | cons a r ih =>
      intro u
      refine (ih _).trans ?_
      show (u.modPend a.2 _).homes = _
      unfold State.modPend
      split <;> rfl
  dsimp only
  rw [State.home, homes]
  exact s.modHome_self stack fun h => { h with retiring := h.retiring.filter (fun (p : Nat × Nat) => p.1 ≠ bus) }

/-- R429: a home in which the migration of a logical bank group to a reserve has begun. -/
def Home.migrating (h : Home) (l b : Nat) (r : Option Nat) : Home :=
  let h1 := (h.demand (remapPhys (h.remapEntry l))).demand b
  { h1 with
    mig := some { group := l, target := b, stripe := 0, retire := r }
    resOrder := h1.resOrder.filter (· ≠ b)
    remap := tblPut h1.remap l (BitVec.ofNat 32 (2 ^ 31 + b * 2 ^ 8 + remapPhys (h.remapEntry l))) }

/-- R429: a migration begins: the stack's home as it then is. -/
theorem State.startMigration_begins (s : State) (stack l b : Nat) (r : Option Nat) : let h := s.home stack
    let k := (s.startMigration stack l b r).home stack
    k.mig = some { group := l, target := b, stripe := 0, retire := r } ∧ b ∉ k.resOrder ∧
      k.remapEntry l = BitVec.ofNat 32 (2 ^ 31 + b * 2 ^ 8 + remapPhys (h.remapEntry l)) ∧ k.testBus ≠ some b ∧ tblFind k.quiesce b = none ∧ k.rotPtr = h.rotPtr := by
  intro h k
  let h1 := (h.demand (remapPhys (h.remapEntry l))).demand b
  have e : k = h.migrating l b r := s.modHome_self stack fun h => h.migrating l b r
  obtain ⟨quiesce, tested, -⟩ := (h.demand (remapPhys (h.remapEntry l))).demand_spec b
  have rot : h1.rotPtr = h.rotPtr := by
    show ((h.demand (remapPhys (h.remapEntry l))).demand b).rotPtr = _
    rw [Home.demand_frame _ b, Home.demand_frame h]
  rw [e]
  refine ⟨rfl, fun listed => ?_, tblGet_tblPut_self _ _ _ _, tested, quiesce, rot⟩
  exact of_decide_eq_true (List.mem_filter.1 listed).2 rfl

end Sys2Proof.Machine

namespace Sys2Proof.Proofs.Stacks

open Sys2Proof.Machine Sys2Proof.Claims

/-! ### Tests and repairs (R422-R427) -/

/-- A list of persistent errors of a bus: the registers of other buses, and every legal value, stay so. -/
theorem persistents_keep (h : Home) (bus : Nat) (l : List Nat) : h.RepairFrame (l.foldl (fun h c => h.persistent bus c) h) ∧
    ((∀ c ∈ l, connGroup c < 16) → ∀ b g, b ≠ bus → g < 16 → (l.foldl (fun h c => h.persistent bus c) h).vb b g = h.vb b g) := by
  induction l generalizing h with
  | nil => exact ⟨rfl, fun _ _ _ _ _ => rfl⟩
  | cons c r ih =>
    obtain ⟨frame, others⟩ := ih (h.persistent bus c)
    refine ⟨(h.persistent_frame bus c).trans frame, fun small b g apart low => ?_⟩
    have here := small c List.mem_cons_self
    rw [List.foldl_cons, others (fun d hd => small d (List.mem_cons_of_mem _ hd)) b g apart low]
    exact h.persistent_other bus c b g (by omega)

theorem backgroundTest_ends (s : State) (stack bus : Nat) (tested : (s.home stack).testBus = some bus) (ended : (s.home stack).testEnd ≤ s.tick) :
    ∃ t, exec (.backgroundTestPass stack) s = .next t ∧ t.mem = s.mem ∧ (t.home stack).testBus = none ∧
      (t.home stack).testNext = (bus + 1) % 34 ∧ (t.home stack).remap = (s.home stack).remap ∧ (t.home stack).bg = (s.home stack).bg ∧
      ∀ b g, b ≠ bus → g < 16 → (t.home stack).vb b g = (s.home stack).vb b g := by
  let l := failing stack bus s.fresh
  let u := s.tickFresh.movedAt none passBytes [meterKey 2 stack, meterKey 3 stack]
  let f (h : Home) : Home := l.foldl (fun h c => h.persistent bus c) { h with testBus := none, testNext := (bus + 1) % 34 }
  have run : exec (.backgroundTestPass stack) s = execBackgroundTestPass stack s := rfl
  rw [execBackgroundTestPass] at run
  simp only [tested, if_neg (Nat.not_lt.2 ended)] at run
  have run' : exec (.backgroundTestPass stack) s = Host.Outcome.next (u.modHome stack f) := run
  have home : (u.modHome stack f).home stack = f (s.home stack) := u.modHome_self stack f
  obtain ⟨frame, others⟩ := persistents_keep { s.home stack with testBus := none, testNext := (bus + 1) % 34 } bus l
  have small (c : Nat) (hc : c ∈ l) : connGroup c < 16 := connGroup_lt (List.mem_range.1 (List.mem_filter.1 hc).1)
  refine ⟨_, run', by simp [u], ?_⟩
  rw [home]
  have kept : f (s.home stack) = l.foldl (fun h c => h.persistent bus c) { s.home stack with testBus := none, testNext := (bus + 1) % 34 } := rfl
  rw [kept]
  refine ⟨?_, ?_, ?_, ?_, others small⟩ <;> rw [frame]

theorem persistentError_repairs (s : State) (stack bus conn : Nat) :
    let h := s.home stack
    let g := connGroup conn
    let q := connPos conn
    let old := vbRepairs (h.vb bus g)
    vbLegal (h.vb bus g) = true → ∃ t, exec (.persistentErrorRepair stack bus conn) s = .next t ∧ t.mem = s.mem ∧
      t.corrected = s.corrected ∧ tblFind (t.home stack).streak (bus * 16 + g) = none ∧ vbLegal ((t.home stack).vb bus g) = true ∧
      (q ∈ old → { t.home stack with streak := [] } = { h with streak := [] }) ∧
      (q ∉ old → old.length < 2 → ∀ p, p ∈ vbRepairs ((t.home stack).vb bus g) ↔ p ∈ old ∨ p = q) ∧
      (q ∉ old → 2 ≤ old.length → (t.home stack).vb bus g = h.vb bus g ∧ bus ∈ (t.home stack).beyond) := by
  intro h g q old legal
  have home : (s.persists stack bus conn).home stack = { h.persistent bus conn with streak := tblDel h.streak (bus * 16 + g) } :=
    s.modHome_self stack fun h => { h.persistent bus conn with streak := tblDel h.streak (bus * 16 + connGroup conn) }
  have vb : ((s.persists stack bus conn).home stack).vb bus g = (h.persistent bus conn).vb bus g := by
    rw [home]
    rfl
  refine ⟨s.persists stack bus conn, rfl, rfl, rfl, ?_, ?_, fun known => ?_, fun new room p => ?_, fun new full => ?_⟩
  · rw [home]
    exact tblFind_tblDel_self _ _
  · rw [vb]
    exact h.persistent_legal bus conn g legal
  · rw [home]
    rcases h.persistent_cases bus conn with ⟨-, e⟩ | ⟨new, -, -⟩ | ⟨new, -, -⟩
    · rw [e]
    · exact absurd known new
    · exact absurd known new
  · rw [vb]
    obtain ⟨stay, come, adds⟩ := h.persistent_repairs (c := conn) legal
    refine ⟨fun hp => (come p hp).imp_right And.right, fun hp => ?_⟩
    rcases hp with was | rfl
    · exact stay p was
    · exact adds rfl (.inr room)
  · rw [vb, home]
    rcases h.persistent_cases bus conn with ⟨known, -⟩ | ⟨-, room, -⟩ | ⟨-, -, e⟩
    · exact absurd known new
    · exact absurd room (Nat.not_lt.2 full)
    · rw [e]
      refine ⟨rfl, ?_⟩
      show bus ∈ if h.beyond.contains bus then h.beyond else h.beyond ++ [bus]
      split
      next there => exact List.contains_iff_mem.1 there
      next => exact List.mem_append_right _ List.mem_cons_self

theorem testsAndRepairs : TestsAndRepairs := by
  intro s stack bus h
  refine ⟨fun b free next => ?_, fun tested early => ?_, backgroundTest_ends s stack bus, ?_, fun conn _ => persistentError_repairs s stack bus conn⟩
  · have run : exec (.backgroundTestPass stack) s = execBackgroundTestPass stack s := rfl
    rw [execBackgroundTestPass] at run
    simp only [show (s.home stack).testBus = none from free, show (s.home stack).nextTest = some b from next] at run
    exact ⟨_, run, rfl, s.modHome_self stack fun h => { h with testBus := some b, testEnd := s.tick + passTicks }⟩
  · have run : exec (.backgroundTestPass stack) s = execBackgroundTestPass stack s := rfl
    rw [execBackgroundTestPass] at run
    simp only [show (s.home stack).testBus = some bus from tested] at run
    rw [if_pos early] at run
    exact run
  · have home : (s.modHome stack (fun h => h.demand bus)).home stack = h.demand bus := s.modHome_self stack fun h => h.demand bus
    obtain ⟨quiesce, -, on, off, ended⟩ := h.demand_spec bus
    refine ⟨_, rfl, rfl, ?_⟩
    rw [home]
    refine ⟨?_, quiesce, on, off, ended⟩
    rw [Home.demand_frame]

/-! ### Double errors (R427, R350) -/

/-- The positions a group is to be repaired at in the end: those it is, and those of the connections of an error. -/
def positions (h : Home) (bus : Nat) (conns : List Nat) (g : Nat) : List Nat :=
  vbRepairs (h.vb bus g) ++ ((conns.filter (fun d => connGroup d = g && !(vbRepairs (h.vb bus g)).contains (connPos d))).eraseDups).map connPos

theorem positions_length {h : Home} {bus : Nat} {conns : List Nat} (can : h.repairable bus conns = true) {c : Nat} (hc : c ∈ conns) : (positions h bus conns (connGroup c)).length ≤ 2 := by
  unfold Home.repairable at can
  rw [Bool.and_eq_true, List.all_eq_true] at can
  have here := of_decide_eq_true (can.2 c hc)
  rw [positions, List.length_append, List.length_map]
  exact here

theorem mem_positions {h : Home} {bus : Nat} {conns : List Nat} {c : Nat} (hc : c ∈ conns) : connPos c ∈ positions h bus conns (connGroup c) := by
  by_cases old : connPos c ∈ vbRepairs (h.vb bus (connGroup c))
  · exact List.mem_append_left _ old
  · refine List.mem_append_right _ (List.mem_map.2 ⟨c, ?_, rfl⟩)
    rw [List.mem_eraseDups]
    exact List.mem_filter.2 ⟨hc, by simp [old]⟩

/-- R427: with room for all of them every connection of a list is repaired. -/
theorem persistents_repair {bus : Nat} (target : Nat → List Nat) (l : List Nat) (room : ∀ c ∈ l, (target (connGroup c)).length ≤ 2 ∧ connPos c ∈ target (connGroup c)) (h : Home)
    (legal : ∀ g, vbLegal (h.vb bus g) = true) (within : ∀ g, ∀ p ∈ vbRepairs (h.vb bus g), p ∈ target g) :
    let k := l.foldl (fun h c => h.persistent bus c) h
    (∀ g, ∀ p ∈ vbRepairs (h.vb bus g), p ∈ vbRepairs (k.vb bus g)) ∧ ∀ c ∈ l, connPos c ∈ vbRepairs (k.vb bus (connGroup c)) := by
  induction l generalizing h with
  | nil => exact ⟨fun _ _ hp => hp, fun c hc => nomatch hc⟩
  | cons c r ih =>
    obtain ⟨small, listed⟩ := room c List.mem_cons_self
    have next (g : Nat) := h.persistent_repairs (c := c) (legal g)
    obtain ⟨stay, rest⟩ := ih (fun d hd => room d (List.mem_cons_of_mem _ hd)) (h.persistent bus c) (fun g => h.persistent_legal bus c g (legal g)) (fun g p hp => by
      rcases (next g).2.1 p hp with old | ⟨rfl, rfl⟩
      · exact within g p old
      · exact listed)
    have fits : connPos c ∈ vbRepairs (h.vb bus (connGroup c)) ∨ (vbRepairs (h.vb bus (connGroup c))).length < 2 := by
      by_cases old : connPos c ∈ vbRepairs (h.vb bus (connGroup c))
      · exact .inl old
      · right
        have distinct : (connPos c :: vbRepairs (h.vb bus (connGroup c))).Nodup := List.nodup_cons.2 ⟨old, vbRepairs_nodup (legal _)⟩
        have sub : connPos c :: vbRepairs (h.vb bus (connGroup c)) ⊆ target (connGroup c) := List.cons_subset.2 ⟨listed, within _⟩
        have short := (List.subperm_of_subset distinct sub).length_le
        rw [List.length_cons] at short
        omega
    refine ⟨fun g p hp => stay g p ((next g).1 p hp), fun d hd => ?_⟩
    rcases List.mem_cons.1 hd with rfl | later
    · exact stay _ _ ((next _).2.2 rfl fits)
    · exact rest d later

theorem uncorrectable_spec (s : State) (stack pa wg : Nat) : (s.uncorrectable stack pa wg).mem = s.mem ∧ (s.uncorrectable stack pa wg).wgs = s.wgs ∧
    (s.uncorrectable stack pa wg).homes = s.homes ∧ (s.uncorrectable stack pa wg).agenda = s.agenda ∧ (s.uncorrectable stack pa wg).bad = ⟨7, stack, pa⟩ :: s.bad ∧
    ((tblFind s.wgs wg).isSome = true → (s.uncorrectable stack pa wg).mclog = s.mclog) ∧
    (tblFind s.wgs wg = none → (s.uncorrectable stack pa wg).mclog.head? = some ⟨s.mcNext, 7, 0, stack, pa, s.tick, 0xFFFF, 0⟩ ∧ (s.uncorrectable stack pa wg).mcNext = s.mcNext + 1) := by
  unfold State.uncorrectable
  cases found : tblFind s.wgs wg with
  | none => exact ⟨rfl, rfl, rfl, rfl, rfl, (nomatch ·), fun _ => ⟨rfl, rfl⟩⟩
  | some x => exact ⟨rfl, rfl, rfl, rfl, rfl, fun _ => rfl, (nomatch ·)⟩

theorem doubleErrors : DoubleErrors := by
  intro s stack bus pa wg conns x
  have run : exec (.doubleError stack bus pa wg conns) s = execDoubleError stack bus pa wg conns s := rfl
  rw [execDoubleError] at run
  refine ⟨fun leaves => ?_, fun stays cannot => ?_, fun stays can => ?_⟩
  · rw [if_pos leaves] at run
    exact run
  · rw [if_neg (by rw [stays]; decide), if_neg (by rw [cannot]; decide)] at run
    obtain ⟨mem, wgs, -, agenda, bad, silent, recorded⟩ := uncorrectable_spec s stack pa wg
    exact ⟨_, _, run, mem, wgs, congrArg (Act.event (.busRetire stack bus) :: ·) agenda, bad, silent, recorded⟩
  · rw [if_neg (by rw [stays]; decide), if_pos can] at run
    let f (h : Home) : Home := conns.foldl (fun h c => h.persistent bus c) h
    let s1 := s.tickFresh.modHome stack f
    let t := if Config.freeBool s.fresh then s1.uncorrectable stack pa wg else s1
    have run' : exec (.doubleError stack bus pa wg conns) s = Host.Outcome.next t := run
    obtain ⟨mem, wgs, homes, -, bad, -, -⟩ := uncorrectable_spec s1 stack pa wg
    have kept : t.mem = s.mem ∧ t.wgs = s.wgs ∧ t.homes = s1.homes ∧ (t.bad = s.bad ∧ t.mclog = s.mclog ∨ t.bad = ⟨7, stack, pa⟩ :: s.bad) := by
      show (if Config.freeBool s.fresh then s1.uncorrectable stack pa wg else s1).mem = _ ∧ (if Config.freeBool s.fresh then s1.uncorrectable stack pa wg else s1).wgs = _ ∧
        (if Config.freeBool s.fresh then s1.uncorrectable stack pa wg else s1).homes = _ ∧ ((if Config.freeBool s.fresh then s1.uncorrectable stack pa wg else s1).bad = _ ∧
        (if Config.freeBool s.fresh then s1.uncorrectable stack pa wg else s1).mclog = _ ∨ (if Config.freeBool s.fresh then s1.uncorrectable stack pa wg else s1).bad = _)
      split
      · exact ⟨mem, wgs, homes, .inr bad⟩
      · exact ⟨rfl, rfl, rfl, .inl ⟨rfl, rfl⟩⟩
    obtain ⟨memKept, wgsKept, homesKept, which⟩ := kept
    have home : t.home stack = f x := by
      rw [State.home, homesKept]
      exact s.tickFresh.modHome_self stack f
    refine ⟨t, run', memKept, wgsKept, which, ?_, fun legal c hc _ => ?_⟩
    · rw [home]
      show (conns.foldl (fun h c => h.persistent bus c) x).remap = _
      rw [(persistents_keep x bus conns).1]
    · rw [home]
      exact (persistents_repair (positions x bus conns) conns (fun d hd => ⟨positions_length can hd, mem_positions hd⟩) x legal (fun g p hp => List.mem_append_left _ hp)).2 c hc

/-! ### Retirement, migration and rotation (R428-R431) -/

theorem recordStripe_same (s : State) (stack : Nat) (m : Migration) : (s.recordStripe stack m).homes = s.homes ∧ (s.recordStripe stack m).mem = s.mem := by
  unfold State.recordStripe
  exact ⟨foldl_same State.homes (by intros; rfl) _ s, foldl_same State.mem (by intros; rfl) _ s⟩

/-- The state in which a stripe has been copied: its uncorrectable codewords are recorded and its bytes are moved for no launch. -/
def copied (s : State) (stack : Nat) (m : Migration) : State := (s.recordStripe stack m).movedAt none 65536 [meterKey 2 stack, meterKey 3 stack]

theorem copied_home (s : State) (stack : Nat) (m : Migration) : (copied s stack m).home = s.home ∧ (copied s stack m).mem = s.mem := by
  obtain ⟨homes, mem⟩ := recordStripe_same s stack m
  refine ⟨?_, mem⟩
  funext k
  show tblGet {} (s.recordStripe stack m).homes k = _
  rw [homes]
  rfl

theorem busRetire_retires (s : State) (stack bus : Nat) (serves : (s.home stack).bgState bus ≠ 2) (still : (s.home stack).mig = none) :
    ((s.home stack).logicalOf bus = none → exec (.busRetire stack bus) s =
      .next ((s.modHome stack (fun h => { h with bg := tblPut h.bg bus 2, resOrder := h.resOrder.filter (· ≠ bus) })).retireDone stack bus 0)) ∧
    (∀ l b r, (s.home stack).logicalOf bus = some l → (s.home stack).resOrder = b :: r → exec (.busRetire stack bus) s = .next (s.startMigration stack l b (some bus))) ∧
    (∀ l, (s.home stack).logicalOf bus = some l → (s.home stack).resOrder = [] → exec (.busRetire stack bus) s = .next (s.retireDone stack bus (2 * 2 ^ 30))) := by
  have run : exec (.busRetire stack bus) s = execBusRetire stack bus s := rfl
  rw [execBusRetire] at run
  simp only [if_neg serves, still, Option.isSome_none, Bool.false_eq_true, if_false] at run
  refine ⟨fun none' => ?_, fun l b r holds reserve => ?_, fun l holds reserve => ?_⟩
  · rw [none'] at run
    exact run
  · rw [holds] at run
    simp only [reserve] at run
    exact run
  · rw [holds] at run
    simp only [reserve] at run
    exact run

theorem stripeMigrate_ends (s : State) (stack : Nat) {m : Migration} (migrates : (s.home stack).mig = some m) (last : 32767 ≤ m.stripe)
    (apart : remapPhys ((s.home stack).remapEntry m.group) ≠ m.target) : let h := s.home stack
    let src := remapPhys (h.remapEntry m.group)
    ∃ t, exec (.stripeMigrate stack) s = .next t ∧ t.mem = s.mem ∧ (t.home stack).mig = none ∧
      (t.home stack).remapEntry m.group = BitVec.ofNat 32 m.target ∧ (t.home stack).bgState m.target = 0 ∧
      (t.home stack).retireQ = [] ∧ (∃ r, t.agenda = h.retireQ.map (fun b => Act.event (.busRetire stack b)) ++ r) ∧
      (m.retire = none → (t.home stack).bgState src = 1 ∧ (t.home stack).resOrder = h.resOrder ++ [src]) ∧
      (m.retire ≠ none → (t.home stack).bgState src = 2 ∧ (t.home stack).resOrder = h.resOrder) := by
  intro h src
  let u := copied s stack m
  obtain ⟨homes, mem⟩ := copied_home s stack m
  have same : u.home stack = h := congrFun homes stack
  let f (h : Home) : Home := { h with
    mig := none, retireQ := [], remap := tblPut h.remap m.group (BitVec.ofNat 32 m.target)
    bg := tblPut (tblPut h.bg m.target 0) src (if m.retire.isSome then 2 else 1)
    resOrder := if m.retire.isSome then h.resOrder else h.resOrder ++ [src] }
  let s1 := u.modHome stack f
  let s2 := match m.retire with | some b => s1.retireDone stack b m.target | none => s1
  have run : exec (.stripeMigrate stack) s = execStripeMigrate stack s := rfl
  rw [execStripeMigrate] at run
  simp only [migrates] at run
  rw [if_pos last] at run
  have ended : u.endMigration stack m = { s2 with agenda := h.retireQ.map (fun b => Act.event (.busRetire stack b)) ++ s2.agenda } := by
    unfold State.endMigration
    simp only [same]
    rfl
  have run' : exec (.stripeMigrate stack) s = Host.Outcome.next { s2 with agenda := h.retireQ.map (fun b => Act.event (.busRetire stack b)) ++ s2.agenda } :=
    run.trans (congrArg Host.Outcome.next ended)
  have one : s1.home stack = f h := by
    rw [← same]
    exact u.modHome_self stack f
  have two : ∃ r, s2.home stack = { f h with retiring := r } := by
    show ∃ r, (match m.retire with | some b => s1.retireDone stack b m.target | none => s1).home stack = _
    cases m.retire with
    | none => exact ⟨_, one⟩
    | some b => exact ⟨_, (s1.retireDone_home stack b m.target).trans (by rw [one])⟩
  have memTwo : s2.mem = s.mem := by
    show (match m.retire with | some b => s1.retireDone stack b m.target | none => s1).mem = _
    cases m.retire with
    | none => exact mem
    | some b => exact (State.retireDone_mem s1 stack b m.target).1.trans mem
  obtain ⟨r, home⟩ := two
  refine ⟨_, run', memTwo, ?_⟩
  show (s2.home stack).mig = none ∧ (s2.home stack).remapEntry m.group = _ ∧ (s2.home stack).bgState m.target = 0 ∧ (s2.home stack).retireQ = [] ∧ _ ∧
    (_ → (s2.home stack).bgState src = 1 ∧ (s2.home stack).resOrder = _) ∧ (_ → (s2.home stack).bgState src = 2 ∧ (s2.home stack).resOrder = _)
  rw [home]
  refine ⟨rfl, tblGet_tblPut_self _ _ _ _, ?_, rfl, ⟨s2.agenda, rfl⟩, fun none' => ⟨?_, ?_⟩, fun retires => ⟨?_, ?_⟩⟩
  · exact (tblGet_tblPut_other _ _ _ (Ne.symm apart)).trans (tblGet_tblPut_self _ _ _ _)
  · exact (tblGet_tblPut_self _ _ _ _).trans (by rw [none']; rfl)
  · show (if m.retire.isSome then h.resOrder else h.resOrder ++ [src]) = _
    rw [none']
    rfl
  · exact (tblGet_tblPut_self _ _ _ _).trans (if_pos (Option.isSome_iff_ne_none.2 retires))
  · exact if_pos (Option.isSome_iff_ne_none.2 retires)

theorem stripeMigrate_advances (s : State) (stack : Nat) {m : Migration} (migrates : (s.home stack).mig = some m) (more : m.stripe < 32767) :
    ∃ t, exec (.stripeMigrate stack) s = .next t ∧ t.mem = s.mem ∧ (t.home stack).mig = some { m with stripe := m.stripe + 1 } ∧
      (t.home stack).remapEntry m.group = BitVec.ofNat 32 (2 ^ 31 + (m.stripe + 1) * 2 ^ 14 + m.target * 2 ^ 8 + remapPhys ((s.home stack).remapEntry m.group)) := by
  let u := copied s stack m
  obtain ⟨homes, mem⟩ := copied_home s stack m
  have same : u.home stack = s.home stack := congrFun homes stack
  let f (h : Home) : Home := { h with
    mig := some { m with stripe := m.stripe + 1 }
    remap := tblPut h.remap m.group (BitVec.ofNat 32 (2 ^ 31 + (m.stripe + 1) * 2 ^ 14 + m.target * 2 ^ 8 + remapPhys ((s.home stack).remapEntry m.group))) }
  have run : exec (.stripeMigrate stack) s = execStripeMigrate stack s := rfl
  rw [execStripeMigrate] at run
  simp only [migrates] at run
  rw [if_neg (Nat.not_le.2 more)] at run
  have goes : (u.modHome stack (fun h => { h with
      mig := some { m with stripe := m.stripe + 1 }
      remap := tblPut h.remap m.group (BitVec.ofNat 32 (2 ^ 31 + (m.stripe + 1) * 2 ^ 14 + m.target * 2 ^ 8 + remapPhys ((u.home stack).remapEntry m.group))) })) = u.modHome stack f := by
    rw [same]
  have run' : exec (.stripeMigrate stack) s = Host.Outcome.next ((u.modHome stack f).later (.stripeMigrate stack)) :=
    run.trans (congrArg (fun v => Host.Outcome.next (State.later v (.stripeMigrate stack))) goes)
  have home : ((u.modHome stack f).later (.stripeMigrate stack)).home stack = f (u.home stack) := u.modHome_self stack f
  refine ⟨_, run', by simpa using mem, ?_⟩
  rw [home]
  exact ⟨rfl, tblGet_tblPut_self _ _ _ _⟩

theorem bankMigration : BankMigration := by
  intro s stack bus h moves
  have begins (l b : Nat) (r : Option Nat) : moves (s.startMigration stack l b r) l b r := by
    obtain ⟨mig, reserve, entry, tested, quiesce, -⟩ := s.startMigration_begins stack l b r
    exact ⟨mig, reserve, entry, tested, quiesce⟩
  refine ⟨fun serves still => ?_, fun serves moving => ?_, fun m migrates => ⟨stripeMigrate_advances s stack migrates, stripeMigrate_ends s stack migrates⟩, fun b r reserve on still => ?_, fun which => ?_⟩
  · obtain ⟨marks, migrates, refuses⟩ := busRetire_retires s stack bus serves still
    refine ⟨fun none' => ?_, fun l b r holds reserve => ⟨_, migrates l b r holds reserve, by simp, begins l b _⟩, fun l holds reserve => ⟨_, refuses l holds reserve, by simp, ?_⟩⟩
    · have home := (s.modHome stack (fun h => { h with bg := tblPut h.bg bus 2, resOrder := h.resOrder.filter (· ≠ bus) })).retireDone_home stack bus 0
      rw [s.modHome_self stack fun h => { h with bg := tblPut h.bg bus 2, resOrder := h.resOrder.filter (· ≠ bus) }] at home
      refine ⟨_, marks none', by simp, ?_⟩
      rw [home]
      exact ⟨tblGet_tblPut_self _ _ _ _, fun listed => of_decide_eq_true (List.mem_filter.1 listed).2 rfl, rfl⟩
    · rw [s.retireDone_home stack bus (2 * 2 ^ 30)]
      exact ⟨rfl, rfl⟩
  · have run : exec (.busRetire stack bus) s = execBusRetire stack bus s := rfl
    rw [execBusRetire] at run
    simp only [if_neg (show ¬ (s.home stack).bgState bus = 2 from serves), show (s.home stack).mig.isSome = true from Option.isSome_iff_ne_none.2 moving, if_true] at run
    have home := s.modHome_self stack fun h => { h with retireQ := if h.retireQ.contains bus then h.retireQ else h.retireQ ++ [bus] }
    refine ⟨_, run, rfl, ?_⟩
    rw [home]
    refine ⟨?_, rfl⟩
    show bus ∈ if h.retireQ.contains bus then h.retireQ else h.retireQ ++ [bus]
    split
    next there => exact List.contains_iff_mem.1 there
    next => exact List.mem_append_right _ List.mem_cons_self
  · have run : exec (.rotationInterval stack) s = execRotationInterval stack s := rfl
    have due : ((s.home stack).rotTicks.isNone || (s.home stack).mig.isSome) = false := by
      have enabled : bit (s.home stack).rotctl.toNat 0 = true := by
        rw [bit_eq_testBit]
        exact on
      rw [show (s.home stack).mig = none from still, Home.rotTicks, enabled, show (s.home stack).resOrder = b :: r from reserve]
      rfl
    rw [execRotationInterval] at run
    simp only [due, Bool.false_eq_true, if_false, show (s.home stack).resOrder = b :: r from reserve] at run
    have home := (s.startMigration stack h.rotPtr b none).modHome_self stack fun h => { h with rotPtr := (h.rotPtr + 1) % 32 }
    obtain ⟨mig, free, entry, tested, quiesce, ptr⟩ := s.startMigration_begins stack h.rotPtr b none
    refine ⟨_, run, by simp, ?_⟩
    show moves ((s.startMigration stack h.rotPtr b none).modHome stack _) h.rotPtr b none ∧ _
    rw [show (((s.startMigration stack h.rotPtr b none).modHome stack fun h => { h with rotPtr := (h.rotPtr + 1) % 32 }).home stack).rotPtr = (h.rotPtr + 1) % 32 by rw [home, ptr]]
    refine ⟨?_, rfl⟩
    show (State.home ((s.startMigration stack h.rotPtr b none).modHome stack fun h => { h with rotPtr := (h.rotPtr + 1) % 32 }) stack).mig = _ ∧ _
    rw [home]
    exact ⟨mig, free, entry, tested, quiesce⟩
  · have run : exec (.rotationInterval stack) s = execRotationInterval stack s := rfl
    rw [execRotationInterval] at run
    rw [if_pos ?_] at run
    · exact run
    · rw [Bool.or_eq_true]
      rcases which with off | moving | none'
      · left
        have disabled : bit (s.home stack).rotctl.toNat 0 = false := by
          rw [bit_eq_testBit]
          exact off
        rw [Home.rotTicks, disabled]
        rfl
      · exact .inr (Option.isSome_iff_ne_none.2 moving)
      · left
        rw [Home.rotTicks, show (s.home stack).resOrder = [] from none', List.isEmpty_nil, Bool.or_true]
        rfl

/-- Settles O42. -/
theorem stacksAndErrors : Obligations.StacksAndErrors := ⟨testsAndRepairs, doubleErrors, bankMigration⟩

end Sys2Proof.Proofs.Stacks
end

section
/-! SUPPORT. An instruction that its lowest active lane alone decides (R308, R433): its operands, and its result under way. -/

namespace Sys2Proof.Machine

open Sys2Proof.Claims

/-! ### A change beside the threads -/

/-- Groups, workgroups, memory and the issue in hand are the same. -/
structure Aside (s t : State) : Prop where
  groups : t.groups = s.groups
  wgs : t.wgs = s.wgs
  mem : t.mem = s.mem
  hostMem : t.hostMem = s.hostMem
  cur : t.cur = s.cur
  tick : t.tick = s.tick

namespace Aside

theorem refl (s : State) : Aside s s := ⟨rfl, rfl, rfl, rfl, rfl, rfl⟩

theorem trans {s t u : State} (h : Aside s t) (k : Aside t u) : Aside s u :=
  ⟨k.groups.trans h.groups, k.wgs.trans h.wgs, k.mem.trans h.mem, k.hostMem.trans h.hostMem, k.cur.trans h.cur, k.tick.trans h.tick⟩

theorem modHome (s : State) (d : Nat) (f : Home → Home) : Aside s (s.modHome d f) := ⟨rfl, rfl, rfl, rfl, rfl, rfl⟩

theorem tickFresh (s : State) : Aside s s.tickFresh := ⟨rfl, rfl, rfl, rfl, rfl, rfl⟩

theorem addPend (s : State) (p : Pend) : Aside s (s.addPend p) := ⟨rfl, rfl, rfl, rfl, rfl, rfl⟩

theorem inTicks (s : State) (n : Nat) (i : Instr) : Aside s (s.inTicks n i) := ⟨rfl, rfl, rfl, rfl, rfl, rfl⟩

theorem later (s : State) (i : Instr) : Aside s (s.later i) := ⟨rfl, rfl, rfl, rfl, rfl, rfl⟩

theorem sameThreads {s t : State} (h : Aside s t) : SameThreads s t := .of_groups h.mem h.hostMem h.wgs h.groups

theorem active {s t : State} (k : Aside s t) (h : Hdr) : t.active h = s.active h := by
  rw [State.active, State.active, k.cur]
  have threads : t.thread = s.thread := k.sameThreads.thread
  rw [threads]

end Aside

/-- R38, R42, R133: an issue that raises its token, changes what is beside its threads, and retires. -/
theorem passes_aside {s u v : State} (first : First s) (h : Hdr) (before : Aside s u) (after : Aside (u.takeToken h) v) :
    Passed s (v.retireSeq h) h ∧ TokenUp s (v.retireSeq h) h ∧ Retired v (v.retireSeq h) := by
  obtain ⟨phase, -, -, -, -, present⟩ := first
  have same : SameThreads s v := before.sameThreads.trans ((SameThreads.takeToken u h).trans after.sameThreads)
  have cur : v.cur = s.cur := by
    rw [after.cur, ← before.cur]
    simp
  have moved := State.retire_moved v h (fun _ => seqPos s.cur.pos) (by rw [cur]; exact phase) (by rw [cur, same.present]; exact present)
  have retired : v.retireSeq h = v.retire h (fun _ => seqPos s.cur.pos) := by rw [State.retireSeq, cur]
  have steps : Retired v (v.retireSeq h) := .retireSeq v h (by rw [cur]; exact phase)
  refine ⟨?_, fun k => ?_, steps⟩
  · rw [retired]
    exact moved_of_sameThreads same (by simp [cur]) moved
  · have up := u.takeToken_token h (by rw [before.cur]; exact phase) (by rw [before.sameThreads.present, before.cur]; exact present) k
    have group (c q : Nat) : v.group c q = (u.takeToken h).group c q := by rw [State.group, after.groups, State.group]
    have group' (c q : Nat) : u.group c q = s.group c q := by rw [State.group, before.groups, State.group]
    rw [before.cur] at up
    rw [steps.token, group, up, group']

/-- The tables that retiring does not touch. -/
theorem Retired.homes {s t : State} (r : Retired s t) : t.homes = s.homes := by rw [r.state]

/-! ### Operands of the lowest active lane (R308) -/

theorem lanesOf_pow {l : Nat} (small : l < 32) : lanesOf (BitVec.ofNat 32 (2 ^ l)) = [l] := by
  have bit (k : Nat) : (BitVec.ofNat 32 (2 ^ l)).getLsbD k = true ↔ k = l := by
    rw [BitVec.getLsbD_ofNat, Bool.and_eq_true, decide_eq_true_eq, Nat.testBit_two_pow, decide_eq_true_eq]
    omega
  refine List.perm_singleton.1 ((List.perm_ext_iff_of_nodup (lanesOf_nodup _) (List.nodup_singleton _)).2 fun k => ?_)
  rw [mem_lanesOf, bit, List.mem_singleton]

theorem State.lowLane_mem {s : State} {h : Hdr} (some' : s.active h ≠ 0) : s.lowLane h ∈ lanesOf (s.active h) := by
  rw [State.lowLane]
  cases e : lanesOf (s.active h) with
  | nil => exact absurd e (lanesOf_ne_nil some')
  | cons a r => exact List.mem_cons_self

theorem State.lowLane_lt {s : State} {h : Hdr} (some' : s.active h ≠ 0) : s.lowLane h < 32 := BitVec.lt_of_getLsbD (mem_lanesOf.1 (State.lowLane_mem some'))

/-- R49: a lane waits for none of two lists of registers, where it waits for none of either. -/
theorem State.shortFault_append {s : State} {l : Nat} (small : l < 32) (a b : List Nat) (first : s.shortFault (BitVec.ofNat 32 (2 ^ l)) a [] = none)
    {act : BitVec 32} (listed : l ∈ lanesOf act) (second : s.shortFault act b [] = none) : s.shortFault (BitVec.ofNat 32 (2 ^ l)) (a ++ b) [] = none := by
  rw [State.shortFault, lanesOf_pow small, List.findSome?_eq_none_iff] at first ⊢
  rw [State.shortFault, List.findSome?_eq_none_iff] at second
  intro k hk
  rw [List.mem_singleton] at hk
  subst hk
  have one := first k List.mem_cons_self
  have two := second k listed
  split at one
  next plain => rw [if_pos plain]
  next checked =>
    rw [if_neg checked] at two ⊢
    cases ea : a.find? (fun r => s.pendingReg s.cur.core s.cur.slot k r) with
    | some x => simp [ea] at one
    | none =>
      cases eb : b.find? (fun r => s.pendingReg s.cur.core s.cur.slot k r) with
      | some x => simp [eb] at two
      | none => simp [List.find?_append, ea, eb]

/-- R308: with its operands ready an instruction does at issue what it does. -/
theorem State.lowOperands_ready {s : State} {h : Hdr} {srcs : List Src} (ready : LowReady s h srcs) (i : Instr) (dsts : List Nat)
    (free : s.shortFault (s.active h) dsts [] = none) (k : State → State) : s.lowOperands h i (s.active h) srcs dsts k = k s := by
  obtain ⟨⟨phase, -, -, -, failed, -⟩, which⟩ := ready
  have plain : s.raiseFailed h (s.active h) k = k s := by
    rw [State.raiseFailed, failed]
    rfl
  rw [State.lowOperands]
  by_cases none' : s.active h = 0
  · rw [if_pos (by simp [none'])]
    exact plain
  · obtain ⟨short, proxies, bad⟩ := which.resolve_left none'
    have small := State.lowLane_lt none'
    have low : BitVec.ofNat 32 (2 ^ (lanesOf (s.active h)).headD 0) = BitVec.ofNat 32 (2 ^ s.lowLane h) := rfl
    have note : s.noteBadOperands (BitVec.ofNat 32 (2 ^ s.lowLane h)) srcs = s := by
      rw [State.noteBadOperands, bad, List.append_nil]
    have cross := s.crossings_plain (BitVec.ofNat 32 (2 ^ s.lowLane h)) srcs stayNone 0 (fun l hl x hx => by
      rw [lanesOf_pow small, List.mem_singleton] at hl
      rw [hl]
      exact proxies x hx)
    rw [if_neg (by rw [phase, decide_eq_false none']; decide)]
    dsimp only
    rw [low, State.shortFault_append small _ _ short (State.lowLane_mem none') free, free]
    dsimp only [Option.or]
    rw [note, cross]
    exact plain

/-! ### A vbt instruction (R433, R435) -/

/-- What a vbt instruction does in the tick in which its bus word arrives: the state after its effect, and its word with the tick of its completion, or none. -/
def VbtAct : Type := State → Word → Word → Nat → State × Option (Nat × Nat)

/-- A vbt instruction's result under way, with its word where it has one. -/
def State.vbtResult (s : State) (h : Hdr) (f : FmtS) (word : Option Nat) : Pend :=
  { core := s.cur.core
    slot := s.cur.slot
    kind := 5
    path := s.cur.path
    lanes := s.cur.lanes
    act := s.active h
    pos := s.cur.pos
    tok := h.tok.toNat
    wait := if word.isSome then 0 else 1
    writes := (lanesOf (s.active h)).map (fun l => ({ lane := l, reg := f.a.toNat + 1, val := BitVec.ofNat 32 (word.getD 0) } : LaneWrite)) }

/-- The state in which it is under way. -/
def State.vbtPend (s : State) (h : Hdr) (f : FmtS) (u : State) (word : Option Nat) : State := (u.takeToken h).addPend (s.vbtResult h f word)

/-- The bus word and the second word of a vbt instruction, and what it does with them. -/
def State.vbtDone (s : State) (h : Hdr) (f : FmtS) (both : Bool) (act : VbtAct) : State × Option (Nat × Nat) :=
  act s.tickFresh (s.selWord (s.lowLane h) f.a.toNat) (if both then s.selWord (s.lowLane h) (f.a.toNat + 1) else 0) (s.tick + 1 + Config.latency s.fresh)

theorem State.vbt_eq {s : State} {h : Hdr} {f : FmtS} {both conn : Bool} (ready : BusReady s h f both conn) (i : Instr) (act : VbtAct) :
    s.vbt h i f both conn act = (match (s.vbtDone h f both act).2 with
      | some x => (s.vbtPend h f (s.vbtDone h f both act).1 (some x.1)).inTicks (x.2 - s.tick) (.loadCompletion ((s.vbtDone h f both act).1.takeToken h).fresh)
      | none => ((s.vbtPend h f (s.vbtDone h f both act).1 none).modHome (busStack (s.selWord (s.lowLane h) f.a.toNat)) (fun x => { x with
          retiring := x.retiring ++ [(busNo (s.selWord (s.lowLane h) f.a.toNat), ((s.vbtDone h f both act).1.takeToken h).fresh)] })).later
          (.busRetire (busStack (s.selWord (s.lowLane h) f.a.toNat)) (busNo (s.selWord (s.lowLane h) f.a.toNat)))).retireSeq h := by
  obtain ⟨low, some', free, good⟩ := ready
  unfold State.vbt
  dsimp only
  rw [State.lowOperands_ready low i _ free, if_neg some', if_neg (by rw [← Bool.not_eq_true] at good; exact good)]
  cases e : (s.vbtDone h f both act).2 with
  | none =>
    have none' : (act s.tickFresh (s.selWord ((lanesOf (s.active h)).headD 0) f.a.toNat) (if both then s.selWord ((lanesOf (s.active h)).headD 0) (f.a.toNat + 1) else 0) (s.tick + 1 + Config.latency s.fresh)).2 = none := e
    rw [none']
    rfl
  | some x =>
    have some'' : (act s.tickFresh (s.selWord ((lanesOf (s.active h)).headD 0) f.a.toNat) (if both then s.selWord ((lanesOf (s.active h)).headD 0) (f.a.toNat + 1) else 0) (s.tick + 1 + Config.latency s.fresh)).2 = some x := e
    rw [some'']
    rfl

theorem underWay_vbt {s u v : State} {h : Hdr} {f : FmtS} {word : Option Nat} (pends : v.pends = (s.vbtPend h f u word).pends) : ∃ id p, UnderWay s v h id p ∧
    p.wait = (if word.isSome then 0 else 1) ∧ p.writes = (lanesOf (s.active h)).map (fun l => (⟨l, f.a.toNat + 1, BitVec.ofNat 32 (word.getD 0), false⟩ : LaneWrite)) := by
  refine ⟨(u.takeToken h).fresh, s.vbtResult h f word, ⟨?_, rfl, rfl, rfl, rfl, rfl, rfl, rfl, rfl, fun _ => rfl⟩, rfl, rfl⟩
  rw [pends]
  exact tblFind_tblPut_self _ _ _

/-- R433: a vbt instruction that reports its word at once. -/
theorem vbt_reports {s : State} {h : Hdr} {f : FmtS} {both conn : Bool} (ready : BusReady s h f both conn) (i : Instr) (act : VbtAct) {word due : Nat}
    (aside : Aside s (s.vbtDone h f both act).1) (reports : (s.vbtDone h f both act).2 = some (word, due)) :
    Reports s (s.vbt h i f both conn act) h f (some word) ∧ (s.vbt h i f both conn act).homes = (s.vbtDone h f both act).1.homes ∧
      (s.tick ≤ due → ∃ id, ⟨0, due, .loadCompletion id⟩ ∈ (s.vbt h i f both conn act).timers) := by
  have e := State.vbt_eq ready i act
  rw [reports] at e
  generalize (s.vbtDone h f both act).1 = u at aside e ⊢
  dsimp only at e
  have after : Aside (u.takeToken h) ((s.vbtPend h f u (some word)).inTicks (due - s.tick) (.loadCompletion (u.takeToken h).fresh)) := (Aside.addPend _ _).trans (.inTicks _ _ _)
  obtain ⟨passed, token, retired⟩ := passes_aside ready.1.1 h aside after
  rw [e]
  obtain ⟨id, p, way, wait, writes⟩ := underWay_vbt (v := ((s.vbtPend h f u (some word)).inTicks (due - s.tick) (.loadCompletion (u.takeToken h).fresh)).retireSeq h)
    (s := s) (u := u) (h := h) (f := f) (word := some word) retired.pends
  refine ⟨⟨passed, token, id, p, way, fun w hw => ?_, fun h => nomatch h⟩, ?_, fun early => ⟨(u.takeToken h).fresh, ?_⟩⟩
  · rw [Option.some.inj hw] at writes wait
    exact ⟨wait, writes⟩
  · rw [retired.homes]
    show (u.takeToken h).homes = _
    simp
  · have tick : (s.vbtPend h f u (some word)).tick = s.tick := by
      show (u.takeToken h).tick = _
      simp [aside.tick]
    have added : ⟨0, (s.vbtPend h f u (some word)).tick + (due - s.tick), .loadCompletion (u.takeToken h).fresh⟩ ∈
        ((s.vbtPend h f u (some word)).inTicks (due - s.tick) (.loadCompletion (u.takeToken h).fresh)).timers := List.mem_append_right _ List.mem_cons_self
    rw [tick, Nat.add_sub_cancel' early] at added
    rw [retired.timers]
    exact added

/-- R428, R434: one whose word comes at the end of a retirement. -/
theorem vbt_retires {s : State} {h : Hdr} {f : FmtS} {both conn : Bool} (ready : BusReady s h f both conn) (i : Instr) (act : VbtAct)
    (aside : Aside s (s.vbtDone h f both act).1) (waits : (s.vbtDone h f both act).2 = none) : let w := s.selWord (s.lowLane h) f.a.toNat
    Reports s (s.vbt h i f both conn act) h f none ∧ (∃ id, (busNo w, id) ∈ ((s.vbt h i f both conn act).home (busStack w)).retiring) ∧
      ∃ due, ⟨0, due, .busRetire (busStack w) (busNo w)⟩ ∈ (s.vbt h i f both conn act).timers := by
  intro w
  have e := State.vbt_eq ready i act
  rw [waits] at e
  generalize (s.vbtDone h f both act).1 = u at aside e ⊢
  let v := (s.vbtPend h f u none).modHome (busStack w) (fun x => { x with retiring := x.retiring ++ [(busNo w, (u.takeToken h).fresh)] })
  change s.vbt h i f both conn act = (v.later (.busRetire (busStack w) (busNo w))).retireSeq h at e
  have after : Aside (u.takeToken h) (v.later (.busRetire (busStack w) (busNo w))) := ((Aside.addPend _ _).trans (.modHome _ _ _)).trans (.later _ _)
  obtain ⟨passed, token, retired⟩ := passes_aside ready.1.1 h aside after
  rw [e]
  obtain ⟨id, p, way, wait, writes⟩ := underWay_vbt (v := (v.later (.busRetire (busStack w) (busNo w))).retireSeq h) (s := s) (u := u) (h := h) (f := f) (word := none) retired.pends
  refine ⟨⟨passed, token, id, p, way, (fun _ h => nomatch h), fun _ => ⟨wait, ?_⟩⟩, ⟨(u.takeToken h).fresh, ?_⟩, v.tick + (1 + Config.latency v.fresh), ?_⟩
  · rw [writes, List.map_map]
    rfl
  · rw [State.home, retired.homes]
    show _ ∈ (v.home (busStack w)).retiring
    rw [State.modHome_self]
    exact List.mem_append_right _ List.mem_cons_self
  · rw [retired.timers]
    exact List.mem_append_right _ List.mem_cons_self

/-- R435: a bus word that names no bus is a fault at the instruction. -/
theorem vbt_stops {s : State} {h : Hdr} {f : FmtS} {both conn : Bool} (low : LowReady s h (if both then [.pair f.a.toNat] else [.reg f.a.toNat])) (some' : s.active h ≠ 0)
    (free : s.shortFault (s.active h) [f.a.toNat, f.a.toNat + 1] [] = none) (bad : busBad (s.selWord (s.lowLane h) f.a.toNat) conn = true) (i : Instr) (act : VbtAct) :
    Stops s (s.vbt h i f both conn act) 0 (s.active h) 0x08 ((s.selWord (s.lowLane h) f.a.toNat).setWidth 64) := by
  unfold State.vbt
  dsimp only
  rw [State.lowOperands_ready low i _ free, if_neg some', if_pos (show busBad (s.selWord ((lanesOf (s.active h)).headD 0) f.a.toNat) conn = true from bad)]
  exact s.raise_stops h (s.active h) cACCESS _ low.1.1 low.1.2.2.2.2.2

end Sys2Proof.Machine

namespace Sys2Proof.Proofs.Vbt

open Sys2Proof.Machine Sys2Proof.Claims

/-! ### Words and buses -/

theorem busStack_eq (w : Word) : busStack w = wordStack w := by
  show w.toNat / 2 ^ 0 % 2 ^ 4 = w.toNat % 16
  rw [Nat.pow_zero, Nat.div_one]
  rfl

theorem busNo_eq (w : Word) : busNo w = wordBus w := rfl

theorem busConn_eq (w : Word) : busConn w = wordConn w := rfl

/-- R433: a vbt instruction that reports at once, from what it does. -/
theorem vbt_runs {s u : State} {h : Hdr} {f : FmtS} {both conn : Bool} {i : Instr} {act : VbtAct} {o : Out} {word due : Nat} {more : State → Prop} (ready : BusReady s h f both conn)
    (run : o = .next (s.vbt h i f both conn act)) (done : s.vbtDone h f both act = (u, some (word, due))) (aside : Aside s u)
    (then' : ∀ t : State, t.homes = u.homes → (s.tick ≤ due → ∃ id, ⟨0, due, .loadCompletion id⟩ ∈ t.timers) → more t) : Runs s h f o (some word) more := by
  have one : (s.vbtDone h f both act).1 = u := congrArg Prod.fst done
  have two : (s.vbtDone h f both act).2 = some (word, due) := congrArg Prod.snd done
  obtain ⟨reports, homes, timers⟩ := vbt_reports ready i act (by rw [one]; exact aside) two
  rw [one] at homes
  exact ⟨_, run, reports, then' _ homes timers⟩

/-- R424, R434: a workgroup that quiesces a bus, and one that does not. -/
theorem quiesced_mine {x : Home} {b own : Nat} (mine : ∃ q, tblFind x.quiesce b = some q ∧ q.wg = own) : x.quiesced b own = 0 := by
  obtain ⟨q, found, same⟩ := mine
  rw [Home.quiesced, found]
  exact if_pos same

theorem quiesced_other {x : Home} {b own : Nat} (other : ¬ ∃ q, tblFind x.quiesce b = some q ∧ q.wg = own) :
    x.quiesced b own = if (own, b) ∈ x.ended then 1 else 2 := by
  have which : (if x.ended.contains (own, b) then 1 else 2) = if (own, b) ∈ x.ended then 1 else 2 := by
    refine if_congr ?_ rfl rfl
    exact List.contains_iff_mem
  rw [Home.quiesced]
  cases found : tblFind x.quiesce b with
  | none => exact which
  | some q =>
    have apart : q.wg ≠ own := fun e => other ⟨q, found, e⟩
    exact (if_neg apart).trans which

/-- The word of a status that refuses. -/
theorem vbtWord_refused (own b : Nat) (ended : List (Nat × Nat)) : vbtWord (if (own, b) ∈ ended then 1 else 2) 0 = if (own, b) ∈ ended then 2 ^ 30 else 2 * 2 ^ 30 := by
  split <;> rfl

theorem quiesced_nonzero {x : Home} {b own : Nat} (other : ¬ ∃ q, tblFind x.quiesce b = some q ∧ q.wg = own) : x.quiesced b own ≠ 0 := by
  rw [quiesced_other other]
  split <;> decide

section

variable {s : State} {h : Hdr} {f : FmtS}

/-! ### Quiescing a bus -/

theorem vbtQuiesce_quiesces (ready : BusReady s h f false false) : let w := s.selWord (s.lowLane h) f.a.toNat
    let b := wordBus w
    let x := s.home (wordStack w)
    x.bgState b ≠ 2 → x.migrates b = false → (∀ q, tblFind x.quiesce b = some q → q.wg = s.curWg) → Runs s h f (exec (.vbtQuiesce h f) s) (some 0) (fun t =>
      tblFind (t.home (wordStack w)).quiesce b = some { wg := s.curWg } ∧ (t.home (wordStack w)).testBus ≠ some b ∧ (s.curWg, b) ∉ (t.home (wordStack w)).ended) := by
  intro w b x serves stays free
  let k (x : Home) : Home := { x.demand b with quiesce := tblPut (x.demand b).quiesce b { wg := s.curWg }, ended := (x.demand b).ended.filter (· ≠ (s.curWg, b)) }
  have other : (match tblFind x.quiesce b with | some q => decide (q.wg ≠ s.curWg) | none => false) = false := by
    cases found : tblFind x.quiesce b with
    | none => rfl
    | some q => exact decide_eq_false (not_not.2 (free q found))
  refine vbt_runs (u := s.tickFresh.modHome (wordStack w) k) (due := s.tick + 1 + Config.latency s.fresh + s.tickFresh.anyValue.toNat % 49) ready rfl ?_ ((Aside.tickFresh s).trans (.modHome _ _ _)) fun t homes _ => ?_
  · unfold State.vbtDone
    dsimp only
    rw [if_neg ?_]
    · rw [busStack_eq]
      rfl
    · rw [busStack_eq]
      show ¬ (decide (x.bgState b = 2) || (match tblFind x.quiesce b with | some q => decide (q.wg ≠ s.curWg) | none => false) || x.migrates b) = true
      rw [other, stays, decide_eq_false serves]
      decide
  · have home : t.home (wordStack w) = k x := by
      rw [State.home, homes]
      exact s.tickFresh.modHome_self (wordStack w) k
    rw [home]
    exact ⟨tblFind_tblPut_self _ _ _, (x.demand_spec b).2.1, fun listed => of_decide_eq_true (List.mem_filter.1 listed).2 rfl⟩

theorem vbtQuiesce_refuses (ready : BusReady s h f false false) : let w := s.selWord (s.lowLane h) f.a.toNat
    let b := wordBus w
    let x := s.home (wordStack w)
    x.bgState b = 2 ∨ x.migrates b = true ∨ (∃ q, tblFind x.quiesce b = some q ∧ q.wg ≠ s.curWg) → Runs s h f (exec (.vbtQuiesce h f) s) (some (2 * 2 ^ 30)) (fun t => t.homes = s.homes) := by
  intro w b x why
  refine vbt_runs (u := s.tickFresh) (due := s.tick + 1 + Config.latency s.fresh + s.tickFresh.anyValue.toNat % 49) ready rfl ?_ (.tickFresh s) fun t homes _ => homes
  unfold State.vbtDone
  dsimp only
  rw [if_pos ?_]
  · rfl
  · rw [busStack_eq]
    show (decide (x.bgState b = 2) || (match tblFind x.quiesce b with | some q => decide (q.wg ≠ s.curWg) | none => false) || x.migrates b) = true
    rcases why with gone | moves | ⟨q, found, apart⟩
    · rw [decide_eq_true gone]
      rfl
    · rw [moves, Bool.or_true]
    · rw [found]
      simp [apart]

/-! ### Driving and sampling -/

theorem drive_drives (u : State) (w : Word) (flat : Bool) (arr : Nat) (mine : ∃ q, tblFind (u.home (wordStack w)).quiesce (wordBus w) = some q ∧ q.wg = u.curWg) :
    u.drive w flat arr = (u.modHome (wordStack w) (fun x => { x with quiesce := x.quiesce.map (fun (q : Nat × Quiesce) =>
      if q.1 = wordBus w then (wordBus w, { q.2 with drive := some (wordConn w, flat), driveEnd := arr + 16 }) else q) }), some (0, arr + 16)) := by
  rw [State.drive, busStack_eq]
  dsimp only
  rw [busNo_eq, busConn_eq, quiesced_mine mine]
  exact if_neg (not_not.2 rfl)

theorem drive_refuses (u : State) (w : Word) (flat : Bool) (arr : Nat) (other : ¬ ∃ q, tblFind (u.home (wordStack w)).quiesce (wordBus w) = some q ∧ q.wg = u.curWg) :
    u.drive w flat arr = (u, some (if (u.curWg, wordBus w) ∈ (u.home (wordStack w)).ended then 2 ^ 30 else 2 * 2 ^ 30, arr + 16)) := by
  rw [State.drive, busStack_eq]
  dsimp only
  rw [busNo_eq, if_pos (quiesced_nonzero other), quiesced_other other, vbtWord_refused]

/-- R434: a bus driven by a workgroup that has quiesced it, as the drive ends. -/
def Driven (s t : State) (w : Word) (flat : Bool) : Prop := ∃ q, tblFind (t.home (wordStack w)).quiesce (wordBus w) = some q ∧ q.wg = s.curWg ∧
  q.drive = some (wordConn w, flat) ∧ s.tick + 16 < q.driveEnd ∧ ∃ id, ⟨0, q.driveEnd, .loadCompletion id⟩ ∈ t.timers

theorem vbtDrive_drives {conn : Bool} (ready : BusReady s h f false conn) (flat : Bool) {i : Instr} {o : Out}
    (run : o = .next (s.vbt h i f false conn (fun s w _ arr => s.drive w flat arr))) : let w := s.selWord (s.lowLane h) f.a.toNat
    let b := wordBus w
    let x := s.home (wordStack w)
    ((∃ q, tblFind x.quiesce b = some q ∧ q.wg = s.curWg) → Runs s h f o (some 0) (fun t => Driven s t w flat)) ∧
    ((¬ ∃ q, tblFind x.quiesce b = some q ∧ q.wg = s.curWg) → Runs s h f o (some (if (s.curWg, b) ∈ x.ended then 2 ^ 30 else 2 * 2 ^ 30)) (fun t => t.homes = s.homes)) := by
  intro w b x
  let arr := s.tick + 1 + Config.latency s.fresh
  refine ⟨fun mine => ?_, fun other => ?_⟩
  · let g (q : Nat × Quiesce) : Nat × Quiesce := if q.1 = b then (b, { q.2 with drive := some (wordConn w, flat), driveEnd := arr + 16 }) else q
    let k (x : Home) : Home := { x with quiesce := x.quiesce.map g }
    refine vbt_runs (u := s.tickFresh.modHome (wordStack w) k) (due := arr + 16) ready run (drive_drives s.tickFresh w flat arr mine) ((Aside.tickFresh s).trans (.modHome _ _ _)) fun t homes timers => ?_
    have home : t.home (wordStack w) = k x := by
      rw [State.home, homes]
      exact s.tickFresh.modHome_self (wordStack w) k
    have key (p : Nat × Quiesce) : (g p).1 = p.1 := by
      show (if p.1 = b then (b, { p.2 with drive := some (wordConn w, flat), driveEnd := arr + 16 }) else p).1 = _
      split
      next e => exact e.symm
      next => rfl
    obtain ⟨q, found, own⟩ := mine
    refine ⟨{ q with drive := some (wordConn w, flat), driveEnd := arr + 16 }, ?_, own, rfl, ?_, timers ?_⟩
    · rw [home]
      show tblFind (x.quiesce.map g) b = _
      rw [tblFind_map_at g key, found]
      exact congrArg some (congrArg Prod.snd (if_pos rfl))
    · show s.tick + 16 < arr + 16
      show s.tick + 16 < s.tick + 1 + Config.latency s.fresh + 16
      omega
    · show s.tick ≤ s.tick + 1 + Config.latency s.fresh + 16
      omega
  · exact vbt_runs (u := s.tickFresh) (due := arr + 16) ready run (drive_refuses s.tickFresh w flat arr other) (.tickFresh s) fun t homes _ => homes

theorem vbtSample_samples (ready : BusReady s h f false false) : let w := s.selWord (s.lowLane h) f.a.toNat
    let b := wordBus w
    let x := s.home (wordStack w)
    ((¬ ∃ q, tblFind x.quiesce b = some q ∧ q.wg = s.curWg) → Runs s h f (exec (.vbtSample h f) s) (some (if (s.curWg, b) ∈ x.ended then 2 ^ 30 else 2 * 2 ^ 30)) (fun t => t.homes = s.homes)) ∧
    ∀ q, tblFind x.quiesce b = some q → q.wg = s.curWg → (q.drive = none → Runs s h f (exec (.vbtSample h f) s) (some (2 * 2 ^ 30)) (fun t => t.homes = s.homes)) ∧
      (q.drive ≠ none → ∃ z, z < 2 ∧ Runs s h f (exec (.vbtSample h f) s) (some z) (fun t => t.homes = s.homes ∧
        ∃ id due, ⟨0, due, .loadCompletion id⟩ ∈ t.timers ∧ q.driveEnd + 16 ≤ due)) := by
  intro w b x
  let arr := s.tick + 1 + Config.latency s.fresh
  refine ⟨fun other => ?_, fun q found own => ⟨fun idle => ?_, fun drove => ?_⟩⟩
  · refine vbt_runs (u := s.tickFresh) (due := arr + 16) ready rfl ?_ (.tickFresh s) fun t homes _ => homes
    unfold State.vbtDone
    dsimp only
    rw [busStack_eq, busNo_eq, if_pos (show (s.tickFresh.home (wordStack w)).quiesced b s.tickFresh.curWg ≠ 0 from quiesced_nonzero other)]
    rw [show (s.tickFresh.home (wordStack w)).quiesced b s.tickFresh.curWg = _ from quiesced_other other, vbtWord_refused]
    rfl
  · refine vbt_runs (u := s.tickFresh) (due := arr + 16) ready rfl ?_ (.tickFresh s) fun t homes _ => homes
    unfold State.vbtDone
    dsimp only
    rw [busStack_eq, busNo_eq, if_neg (not_not.2 (show (s.tickFresh.home (wordStack w)).quiesced b s.tickFresh.curWg = 0 from quiesced_mine ⟨q, found, own⟩))]
    rw [show tblFind (s.tickFresh.home (wordStack w)).quiesce b = some q from found, Option.bind_some, idle]
    rfl
  · obtain ⟨⟨c, flat⟩, drive⟩ := Option.ne_none_iff_exists'.1 drove
    let bad := if flat then !(failing (wordStack w) b s.tickFresh.fresh).isEmpty else Config.connFails (wordStack w) b c s.tickFresh.fresh
    refine ⟨bitNat bad 0, by cases bad <;> decide, ?_⟩
    refine vbt_runs (u := s.tickFresh.tickFresh) (due := max arr q.driveEnd + 16) ready rfl ?_ ((Aside.tickFresh s).trans (.tickFresh _)) fun t homes timers => ⟨homes, ?_⟩
    · unfold State.vbtDone
      dsimp only
      rw [busStack_eq, busNo_eq, if_neg (not_not.2 (show (s.tickFresh.home (wordStack w)).quiesced b s.tickFresh.curWg = 0 from quiesced_mine ⟨q, found, own⟩))]
      rw [show tblFind (s.tickFresh.home (wordStack w)).quiesce b = some q from found, Option.bind_some, drive]
      show _ = (s.tickFresh.tickFresh, some (bitNat bad 0, max arr q.driveEnd + 16))
      rw [← Nat.zero_add (bitNat bad 0)]
      rfl
    · obtain ⟨id, due⟩ := timers (by show s.tick ≤ max (s.tick + 1 + Config.latency s.fresh) q.driveEnd + 16; omega)
      exact ⟨id, _, due, by omega⟩

/-! ### Resuming and retiring -/

theorem vbtResume_resumes (ready : BusReady s h f false false) : let w := s.selWord (s.lowLane h) f.a.toNat
    let b := wordBus w
    let x := s.home (wordStack w)
    ((¬ ∃ q, tblFind x.quiesce b = some q ∧ q.wg = s.curWg) → Runs s h f (exec (.vbtResume h f) s) (some (if (s.curWg, b) ∈ x.ended then 2 ^ 30 else 2 * 2 ^ 30)) (fun t => t.homes = s.homes)) ∧
    ((∃ q, tblFind x.quiesce b = some q ∧ q.wg = s.curWg) → Runs s h f (exec (.vbtResume h f) s) (some 0) (fun t => tblFind (t.home (wordStack w)).quiesce b = none)) := by
  intro w b x
  let arr := s.tick + 1 + Config.latency s.fresh
  refine ⟨fun other => ?_, fun mine => ?_⟩
  · refine vbt_runs (u := s.tickFresh) (due := arr + 40) ready rfl ?_ (.tickFresh s) fun t homes _ => homes
    unfold State.vbtDone
    dsimp only
    rw [busStack_eq, busNo_eq, if_neg (show ¬ (s.tickFresh.home (wordStack w)).quiesced b s.tickFresh.curWg = 0 from quiesced_nonzero other)]
    rw [show (s.tickFresh.home (wordStack w)).quiesced b s.tickFresh.curWg = _ from quiesced_other other, vbtWord_refused]
    rfl
  · let k (x : Home) : Home := { x with quiesce := tblDel x.quiesce b }
    refine vbt_runs (u := s.tickFresh.modHome (wordStack w) k) (due := arr + 40) ready rfl ?_ ((Aside.tickFresh s).trans (.modHome _ _ _)) fun t homes _ => ?_
    · unfold State.vbtDone
      dsimp only
      rw [busStack_eq, busNo_eq, if_pos (show (s.tickFresh.home (wordStack w)).quiesced b s.tickFresh.curWg = 0 from quiesced_mine mine)]
    · rw [State.home, homes]
      show tblFind ((s.tickFresh.modHome (wordStack w) k).home (wordStack w)).quiesce b = none
      rw [State.modHome_self]
      exact tblFind_tblDel_self _ _

theorem vbtRetire_retires (ready : BusReady s h f false false) : let w := s.selWord (s.lowLane h) f.a.toNat
    let b := wordBus w
    let x := s.home (wordStack w)
    (x.bgState b = 2 → Runs s h f (exec (.vbtRetire h f) s) (some (2 * 2 ^ 30)) (fun _ => True)) ∧
    (x.bgState b ≠ 2 → x.resOrder ≠ [] → Runs s h f (exec (.vbtRetire h f) s) none (fun t => (∃ id, (b, id) ∈ (t.home (wordStack w)).retiring) ∧
      ∃ due, ⟨0, due, .busRetire (wordStack w) b⟩ ∈ t.timers)) := by
  intro w b x
  let arr := s.tick + 1 + Config.latency s.fresh
  let k (x : Home) : Home := { x with quiesce := x.quiesce.filter (fun (q : Nat × Quiesce) => !(q.1 = b && q.2.wg = s.curWg)), ended := x.ended.filter (· ≠ (s.curWg, b)) }
  refine ⟨fun gone => ?_, fun serves reserve => ?_⟩
  · refine vbt_runs (u := s.tickFresh.modHome (wordStack w) k) (due := arr) ready rfl ?_ ((Aside.tickFresh s).trans (.modHome _ _ _)) fun _ _ _ => trivial
    unfold State.vbtDone
    dsimp only
    rw [busStack_eq, busNo_eq, if_pos ?_]
    · rfl
    · rw [show (s.tickFresh.home (wordStack w)).bgState b = 2 from gone, decide_eq_true rfl]
      rfl
  · let act : VbtAct := fun s w _ arr =>
      let x := s.home (busStack w)
      let b := busNo w
      let own := s.curWg
      let s1 := s.modHome (busStack w) (fun x => { x with quiesce := x.quiesce.filter (fun (q : Nat × Quiesce) => !(q.1 = b && q.2.wg = own)), ended := x.ended.filter (· ≠ (own, b)) })
      if x.bgState b = 2 || (x.resOrder.isEmpty && (x.logicalOf b).isSome && x.mig.isNone) then (s1, some (vbtWord 2 0, arr)) else (s1, none)
    have done : s.vbtDone h f false act = (s.tickFresh.modHome (wordStack w) k, none) := by
      unfold State.vbtDone
      dsimp only [act]
      rw [busStack_eq, busNo_eq, if_neg ?_]
      · rfl
      · have some' : (s.tickFresh.home (wordStack w)).resOrder.isEmpty = false := by
          rw [Bool.eq_false_iff]
          exact fun e => reserve (List.isEmpty_iff.1 e)
        rw [show decide ((s.tickFresh.home (wordStack w)).bgState b = 2) = false from decide_eq_false serves, some']
        exact Bool.false_ne_true
    obtain ⟨reports, retiring, due⟩ := vbt_retires ready (.vbtRetire h f) act (by rw [done]; exact (Aside.tickFresh s).trans (.modHome _ _ _)) (by rw [done])
    rw [busStack_eq, busNo_eq] at retiring due
    exact ⟨_, rfl, reports, retiring, due⟩

/-! ### Writing repair registers -/

theorem vbtRepGrp_writes (ready : BusReady s h f true true) : let w := s.selWord (s.lowLane h) f.a.toNat
    let v := s.selWord (s.lowLane h) (f.a.toNat + 1)
    (vbLegal v = true → Runs s h f (exec (.vbtRepGrp h f) s) (some 0) (fun t => (t.home (wordStack w)).vb (wordBus w) (groupOf (wordConn w)) = v)) ∧
    (vbLegal v = false → Runs s h f (exec (.vbtRepGrp h f) s) (some (2 * 2 ^ 30)) (fun t => t.homes = s.homes)) := by
  intro w v
  let arr := s.tick + 1 + Config.latency s.fresh
  refine ⟨fun legal => ?_, fun bad => ?_⟩
  · let k (x : Home) : Home := x.setVb (wordBus w) (connGroup (wordConn w)) v
    refine vbt_runs (u := s.tickFresh.modHome (wordStack w) k) (due := arr + 40) ready rfl ?_ ((Aside.tickFresh s).trans (.modHome _ _ _)) fun t homes _ => ?_
    · unfold State.vbtDone
      dsimp only
      rw [if_pos rfl, if_pos legal, busStack_eq]
      rfl
    · rw [State.home, homes]
      show ((s.tickFresh.modHome (wordStack w) k).home (wordStack w)).vb _ _ = v
      rw [State.modHome_self]
      exact Home.setVb_self _ _ _ _
  · refine vbt_runs (u := s.tickFresh) (due := arr + 40) ready rfl ?_ (.tickFresh s) fun t homes _ => homes
    unfold State.vbtDone
    dsimp only
    rw [if_pos rfl, if_neg (by rw [show vbLegal (s.selWord (s.lowLane h) (f.a.toNat + 1)) = false from bad]; decide)]
    rfl

theorem vbtRepRot_writes (ready : BusReady s h f true false) : let w := s.selWord (s.lowLane h) f.a.toNat
    let v := s.selWord (s.lowLane h) (f.a.toNat + 1)
    (rotLegal v = true → Runs s h f (exec (.vbtRepRot h f) s) (some 0) (fun t => (t.home (wordStack w)).rotctl = v &&& 0x7FF)) ∧
    (rotLegal v = false → Runs s h f (exec (.vbtRepRot h f) s) (some (2 * 2 ^ 30)) (fun t => t.homes = s.homes)) := by
  intro w v
  let arr := s.tick + 1 + Config.latency s.fresh
  refine ⟨fun legal => ?_, fun bad => ?_⟩
  · let k (x : Home) : Home := { x with rotctl := v &&& 0x7FF }
    refine vbt_runs (u := s.tickFresh.modHome (wordStack w) k) (due := arr + 40) ready rfl ?_ ((Aside.tickFresh s).trans (.modHome _ _ _)) fun t homes _ => ?_
    · unfold State.vbtDone
      dsimp only
      rw [if_pos rfl, if_pos legal, busStack_eq]
    · rw [State.home, homes]
      show ((s.tickFresh.modHome (wordStack w) k).home (wordStack w)).rotctl = _
      rw [State.modHome_self]
  · refine vbt_runs (u := s.tickFresh) (due := arr + 40) ready rfl ?_ (.tickFresh s) fun t homes _ => homes
    unfold State.vbtDone
    dsimp only
    rw [if_pos rfl, if_neg (by rw [show rotLegal (s.selWord (s.lowLane h) (f.a.toNat + 1)) = false from bad]; decide)]
    rfl

/-- R435: the outcome of a vbt instruction whose bus word names no bus. -/
theorem vbt_noBus {both conn : Bool} {i : Instr} {act : VbtAct} {o : Out} (run : o = .next (s.vbt h i f both conn act)) (some' : s.active h ≠ 0)
    (free : s.shortFault (s.active h) [f.a.toNat, f.a.toNat + 1] [] = none) (low : LowReady s h (if both then [.pair f.a.toNat] else [.reg f.a.toNat]))
    (bad : busBad (s.selWord (s.lowLane h) f.a.toNat) conn = true) : NoBus s h (s.selWord (s.lowLane h) f.a.toNat) o :=
  ⟨_, run, vbt_stops low some' free bad i act⟩

end

/-- Settles O43. -/
theorem vbtInstructions : Obligations.VbtInstructions := by
  intro s h f w v b x own mine refused same driven none'
  refine ⟨fun ready => ?_, fun ready => vbtDrive_drives ready false rfl, vbtRepGrp_writes, vbtRepRot_writes, fun some' free low => ⟨fun bad => ?_, vbt_noBus rfl some' free low⟩, fun some' free low => ?_⟩
  · obtain ⟨drives, driveRefuses⟩ := vbtDrive_drives ready true (rfl : exec (.vbtDriveFlat h f) s = _)
    obtain ⟨sampleRefuses, samples⟩ := vbtSample_samples ready
    obtain ⟨resumeRefuses, resumes⟩ := vbtResume_resumes ready
    obtain ⟨gone, retires⟩ := vbtRetire_retires ready
    exact ⟨vbtQuiesce_quiesces ready, vbtQuiesce_refuses ready, drives, fun other => ⟨driveRefuses other, sampleRefuses other, resumeRefuses other⟩, samples, resumes, gone, retires⟩
  · exact ⟨vbt_noBus rfl some' free low bad, vbt_noBus rfl some' free low bad, vbt_noBus rfl some' free low bad, vbt_noBus rfl some' free low bad, vbt_noBus rfl some' free low bad⟩
  · exact ⟨vbt_noBus rfl some' free low, vbt_noBus rfl some' free low⟩

end Sys2Proof.Proofs.Vbt
end

section
/-! SUPPORT. What the instructions of the engines share (R248, R271, R309): a change beside the threads, a completion 8 cycles later, a release first, an acquire at the end. -/

namespace Sys2Proof.Machine

open Sys2Proof.Claims

/-! ### A change beside the threads and their counts -/

/-- Groups, memory and the issue in hand are the same, and of each workgroup what it has retired and its launch. -/
structure Beside (s t : State) : Prop where
  groups : t.groups = s.groups
  mem : t.mem = s.mem
  hostMem : t.hostMem = s.hostMem
  cur : t.cur = s.cur
  rwc : ∀ w, (t.wg w).rwc = (s.wg w).rwc
  launch : ∀ w, (t.wg w).launch = (s.wg w).launch

namespace Beside

theorem refl (s : State) : Beside s s := ⟨rfl, rfl, rfl, rfl, fun _ => rfl, fun _ => rfl⟩

theorem trans {s t u : State} (h : Beside s t) (k : Beside t u) : Beside s u :=
  ⟨k.groups.trans h.groups, k.mem.trans h.mem, k.hostMem.trans h.hostMem, k.cur.trans h.cur, fun w => (k.rwc w).trans (h.rwc w), fun w => (k.launch w).trans (h.launch w)⟩

theorem foldl {α : Type} {f : State → α → State} (hf : ∀ s a, Beside s (f s a)) (l : List α) (s : State) : Beside s (l.foldl f s) := by
  induction l generalizing s with
  | nil => exact refl s
  | cons a r ih => exact (hf s a).trans (ih _)

theorem of_wgs {s t : State} (groups : t.groups = s.groups) (mem : t.mem = s.mem) (hostMem : t.hostMem = s.hostMem) (cur : t.cur = s.cur) (wgs : t.wgs = s.wgs) : Beside s t :=
  ⟨groups, mem, hostMem, cur, fun w => by rw [State.wg, State.wg, wgs], fun w => by rw [State.wg, State.wg, wgs]⟩

theorem modWg (s : State) (w : Nat) (f : Workgroup → Workgroup) (rwc : ∀ x, (f x).rwc = x.rwc := by intro _; rfl) (launch : ∀ x, (f x).launch = x.launch := by intro _; rfl) :
    Beside s (s.modWg w f) := by
  refine ⟨rfl, rfl, rfl, rfl, fun v => s.modWg_rwc w v f rwc, fun v => ?_⟩
  by_cases e : v = w
  · rw [e, s.modWg_self, launch]
  · rw [s.modWg_other f e]

theorem modCore (s : State) (k : Nat) (f : Core → Core) : Beside s (s.modCore k f) := of_wgs rfl rfl rfl rfl rfl

theorem mend (s : State) (p : Bad → Bool) : Beside s (s.mend p) := of_wgs rfl rfl rfl rfl rfl

theorem noteFirst (s : State) (w : Nat) (l : List (Nat × Nat × Nat)) : Beside s (s.noteFirst w l) := by
  unfold State.noteFirst
  split
  · exact modWg s w _
  · exact refl s

theorem noteLoads (s : State) (w : Nat) (l : List Long) : Beside s (s.noteLoads w l) := by
  unfold State.noteLoads
  split
  · exact refl s
  · exact modWg s w _

theorem pendFixed (s : State) (n : Nat) (p : Pend) : Beside s (s.pendFixed n p) := of_wgs rfl rfl rfl rfl rfl

end Beside

section Fields

variable {s t : State} (b : Beside s t)
include b

theorem Beside.present (c q : Nat) : t.hasGroup c q = s.hasGroup c q := by rw [State.hasGroup, State.hasGroup, b.groups]
theorem Beside.group (c q : Nat) : t.group c q = s.group c q := by rw [State.group, State.group, b.groups]
theorem Beside.lanes (core slot : Nat) : LanesStep s t core slot (fun _ x => x) :=
  ⟨b.mem, b.hostMem, b.rwc, fun c q _ => by rw [b.group], fun l _ => by rw [State.thread, State.thread, b.group]⟩
theorem Beside.curWg (present : s.hasGroup s.cur.core s.cur.slot = true) : t.curWg = s.curWg := by
  rw [State.curWg, State.curWg, b.cur, s.wgOf_present present, t.wgOf_present ((b.present _ _).trans present), b.group]

end Fields

/-- R38, R42, R133: an issue that changes what is beside its threads and retires. -/
theorem retires_beside {s v : State} (first : First s) (h : Hdr) (beside : Beside s v) :
    Passed s (v.retireSeq h) h ∧ TokensKept s (v.retireSeq h) ∧ Retired v (v.retireSeq h) := by
  have present := first.2.2.2.2.2
  have retired : v.retireSeq h = v.retire h (fun _ => seqPos s.cur.pos) := by rw [State.retireSeq, beside.cur]
  have steps : Retired v (v.retireSeq h) := .retireSeq v h (by rw [beside.cur]; exact first.1)
  refine ⟨?_, fun k => by rw [steps.token, beside.group], steps⟩
  rw [retired]
  exact (beside.lanes _ _).moved present beside.cur ((beside.present _ _).trans present) (by rw [beside.group]) (by rw [beside.group]) h _ (fun _ _ => rfl) fun _ _ => rfl

/-- R20, R38, R133: one that raises its token too. -/
theorem passes_taken {s u v : State} (phase : s.cur.phase = 0) (present : s.hasGroup s.cur.core s.cur.slot = true) (h : Hdr) (before : Beside s u) (after : Beside (u.takeToken h) v) :
    Passed s (v.retireSeq h) h ∧ TokenUp s (v.retireSeq h) h ∧ Retired v (v.retireSeq h) := by
  have taken := SameThreads.takeToken u h
  have cur : v.cur = s.cur := by
    rw [after.cur, ← before.cur]
    simp
  have there (c q : Nat) : v.hasGroup c q = s.hasGroup c q := (after.present c q).trans ((taken.present c q).trans (before.present c q))
  have owner (c q : Nat) : (v.group c q).wg = (s.group c q).wg := by rw [after.group, taken.owner, before.group]
  have threads (c q : Nat) : (v.group c q).threads = (s.group c q).threads := by rw [after.group, taken.threads, before.group]
  have step : LanesStep s v s.cur.core s.cur.slot (fun _ x => x) := ⟨after.mem.trans (taken.mem.trans before.mem), after.hostMem.trans (taken.hostMem.trans before.hostMem),
    fun w => by rw [after.rwc, taken.wg, before.rwc], fun c q _ => threads c q, fun l _ => by rw [State.thread, State.thread, Group.thread, Group.thread, threads]⟩
  have retired : v.retireSeq h = v.retire h (fun _ => seqPos s.cur.pos) := by rw [State.retireSeq, cur]
  have steps : Retired v (v.retireSeq h) := .retireSeq v h (by rw [cur]; exact phase)
  refine ⟨?_, fun k => ?_, steps⟩
  · rw [retired]
    exact step.moved present cur ((there _ _).trans present) (owner _ _) (by rw [threads]) h _ (fun _ _ => rfl) fun _ _ => rfl
  · have up := u.takeToken_token h (by rw [before.cur]; exact phase) (by rw [before.present, before.cur]; exact present) k
    rw [before.cur] at up
    rw [steps.token, after.group, up, before.group]

theorem passes_beside {s u v : State} (first : First s) (h : Hdr) (before : Beside s u) (after : Beside (u.takeToken h) v) :
    Passed s (v.retireSeq h) h ∧ TokenUp s (v.retireSeq h) h ∧ Retired v (v.retireSeq h) := passes_taken first.1 first.2.2.2.2.2 h before after

/-! ### Completion 8 cycles later (R309) -/

/-- R309: the completion of an instruction of the engines, 8 cycles after its effect in u. -/
theorem pends8_passes {s u : State} (first : First s) (h : Hdr) (beside : Beside s u) (cycles : (u.core s.cur.core).cycles = (s.core s.cur.core).cycles) {p : Pend}
    (core : p.core = s.cur.core) (slot : p.slot = s.cur.slot) (tok : p.tok = h.tok.toNat) :
    Passed8 s (((u.takeToken h).pendFixed 8 p).retireSeq h) h ∧ Retired ((u.takeToken h).pendFixed 8 p) (((u.takeToken h).pendFixed 8 p).retireSeq h) := by
  obtain ⟨passed, token, retired⟩ := passes_beside first h beside (.pendFixed (u.takeToken h) 8 p)
  refine ⟨⟨passed, token, ((u.takeToken h).fresh, { p with due := ((u.takeToken h).core p.core).cycles + 8 }), ?_, tok, ?_, core, slot⟩, retired⟩
  · rw [retired.pends]
    exact mem_of_tblFind (tblFind_tblPut_self _ _ _)
  · show ((u.takeToken h).core p.core).cycles + 8 = _
    rw [core, show (u.takeToken h).core = u.core by simp, cycles]

theorem finish8_passes {s u : State} (first : First s) (h : Hdr) (beside : Beside s u) (cycles : (u.core s.cur.core).cycles = (s.core s.cur.core).cycles) :
    Passed8 s (u.finish8 h) h ∧ ∃ v, Retired v (u.finish8 h) ∧ v.core = u.core ∧ v.wg = u.wg ∧ v.agenda = u.agenda := by
  obtain ⟨passed, retired⟩ := pends8_passes first h beside cycles
    (p := { core := u.cur.core, slot := u.cur.slot, kind := 5, path := u.cur.path, lanes := u.cur.lanes, pos := u.cur.pos, tok := h.tok.toNat })
    (congrArg Issue.core beside.cur) (congrArg Issue.slot beside.cur) rfl
  exact ⟨passed, _, retired, by simp, by simp, by simp⟩

/-! ### A release first, an acquire last (R248, R271) -/

theorem State.afterRelease_alone {s : State} (nums : s.cur.nums = []) (h : Hdr) (i : Instr) {m : BitVec 32} (own : s.accessesOf m false = []) (obs : seen s 0 = []) (srcs : List Src) (row : Nat)
    (k : State → State) : s.afterRelease h i m srcs row k = k s := by
  have none' : (s.observed s.curCtx 0).filter s.outstanding = [] := obs
  rw [State.afterRelease, nums, own]
  simp [none']

theorem State.acquireDone_alone {s : State} (phase : s.cur.phase = 0) (h : Hdr) (i : Instr) (row : Nat) (none' : s.roundsDue s.curCtx = []) : s.acquireDone h i row = s.retireSeq h := by
  rw [State.acquireDone, none', State.doneNow, phase]
  rfl

theorem State.doneNow_first {s : State} (phase : s.cur.phase = 0) (h : Hdr) : s.doneNow h = s := if_neg (by omega)

theorem Prepares.first {s : State} (first : First s) : Prepares s s [] := by
  refine ⟨rfl, rfl, rfl, fun _ => rfl, ?_⟩
  rw [← first.2.1]

/-- R41, R142: a first issue whose active threads wait, to go on with the numbers l. -/
theorem waits_first {s u : State} {l : List Nat} (prep : Prepares s u l) (first : First s) (h : Hdr) (i : Instr) (c : WaitCond) (row : Nat) : Waits s (u.waitActive h i c row) h c :=
  (State.waitFor_first prep first h i c row).1.1

/-! ### A ring of a workgroup (Table 18-1) -/

theorem State.modRing_self (s : State) (w j : Nat) (f : Ring → Ring) : (s.modRing w j f).ring w j = f (s.ring w j) := by
  rw [State.ring, State.modRing, s.modWg_self]
  exact tblGet_tblPut_self _ _ _ _

theorem Beside.modRing (s : State) (w j : Nat) (f : Ring → Ring) : Beside s (s.modRing w j f) := .modWg s w _

theorem Retired.ring {s t : State} (r : Retired s t) (w j : Nat) : t.ring w j = s.ring w j := by rw [State.ring, State.ring, r.wg]

theorem ring_unit (r : Ring) : r.unit = unitOf r.control := rfl
theorem ring_depth (r : Ring) : r.depth = depthOf r.control := rfl
theorem ring_base (r : Ring) : r.base = baseOf r.control := by
  show r.control.toNat / 2 ^ 0 % 2 ^ 19 = _
  rw [Nat.pow_zero, Nat.div_one]
  rfl

/-- R309: a ring takes a new value in 8 cycles. -/
theorem modRing_finishes {s : State} (first : First s) (h : Hdr) (j : Nat) (f : Ring → Ring) :
    Passed8 s ((s.modRing s.curWg j f).finish8 h) h ∧ ((s.modRing s.curWg j f).finish8 h).ring s.curWg j = f (s.ring s.curWg j) := by
  obtain ⟨passed, v, retired, -, wg, -⟩ := finish8_passes first h (Beside.modRing s s.curWg j f) rfl
  refine ⟨passed, ?_⟩
  rw [retired.ring, State.ring, wg]
  exact State.modRing_self s _ _ _

/-- R49: no registers, nothing pending. -/
theorem State.shortFault_nil (s : State) (act : BitVec 32) : s.shortFault act [] [] = none := by
  rw [State.shortFault, List.findSome?_eq_none_iff]
  intro l _
  split <;> rfl

/-- R308: the outcome of an instruction whose operands its lowest active lane reads, with those ready. -/
theorem low_runs {s : State} {h : Hdr} {srcs : List Src} (ready : LowReady s h srcs) {i : Instr} {k : State → State} {o : Out}
    (run : o = .next (s.lowOperands h i (s.active h) srcs [] k)) {P : State → Prop} (holds : P (k s)) : ∃ t, o = .next t ∧ P t :=
  ⟨k s, by rw [run, State.lowOperands_ready ready i [] (s.shortFault_nil _) k], holds⟩

/-- The fault of a first issue, of the codes that are no debug stops. -/
theorem raises {s : State} (first : First s) (h : Hdr) (lanes : BitVec 32) {code : Nat} (tv : Long) (fault : code ≠ cWATCH ∧ code ≠ cSTEP) :
    Stops s (s.raise h lanes code tv) 0 lanes code tv := by
  have stops := s.raise_stops h lanes code tv first.1 first.2.2.2.2.2
  rwa [if_neg (by simp [fault])] at stops

end Sys2Proof.Machine

namespace Sys2Proof.Proofs.Rings

open Sys2Proof.Machine Sys2Proof.Claims

theorem bufTv_eq (j m st : Nat) : bufTv (j % 16) m st = BitVec.ofNat 64 (j % 16 + 256 * (m % 64) + 65536 * st) := by
  rw [bufTv, Nat.mod_mod]

section Ring

variable {s : State} {h : Hdr} {f : FmtE}

/-- The ring that ring.init begins with. -/
abbrev begunRing (c : Long) : Ring := { inited := true, control := c, free := depthOf c }

theorem ringInit_begins (some' : s.active h ≠ 0) (low : LowReady s h [.reg f.a.toNat]) : let w := s.curWg
    let j := f.handle.toNat % 16
    let r := s.ring w j
    let off := (s.selWord (s.lowLane h) f.a.toNat).toNat
    let c := BitVec.ofNat 64 (leNat (tabBytes (s.wg w).sp off 8))
    off % 8 = 0 → off + 8 ≤ (s.wg w).spSize →
    (s.destLocked w off 8 = true → ∃ t, exec (.ringInit h f) s = .next t ∧ Stops s t 0 (s.active h) 0x0A (BitVec.ofNat 64 off)) ∧
    (s.destLocked w off 8 = false → c.toNat / 2 ^ 42 = 0 → c.toNat / 2 ^ 19 % 2 ^ 5 = 0 → unitOf c ≠ 0 → 1 ≤ depthOf c → depthOf c ≤ 64 → baseOf c % 256 = 0 →
      baseOf c + depthOf c * unitOf c ≤ (s.wg w).spSize → (r.inited = true → ∀ m, m < depthOf r.control → r.slot m = 0) →
      ∃ t, exec (.ringInit h f) s = .next t ∧ Passed8 s t h ∧ t.ring w j = begunRing c) := by
  intro w j r off c aligned inside
  have first := low.1
  refine ⟨fun locked => low_runs low rfl ?_, fun free high mid unit some depth base fits idle => low_runs low rfl ?_⟩
  · dsimp only
    rw [if_neg some', if_neg (not_not.2 aligned), if_neg (not_lt.2 inside), if_pos locked]
    exact raises first h _ _ (by decide)
  · have bottom : bits c.toNat 18 0 = baseOf c := ring_base (begunRing c)
    have busy : (if r.inited = true then (List.range r.depth).find? (fun m => r.slot m ≠ 0) else none) = none := by
      split
      next on => exact find?_nowhere fun m hm => by simp [idle on m (List.mem_range.1 hm)]
      next => rfl
    have malformed : (bits c.toNat 63 42 ≠ 0 || bits c.toNat 23 19 ≠ 0 || (begunRing c).unit = 0 || (begunRing c).depth = 0 || (begunRing c).depth > 64 || (begunRing c).base % 256 ≠ 0) = false := by
      have top : bits c.toNat 63 42 = 0 := by rw [bits, high]; rfl
      have middle : bits c.toNat 23 19 = 0 := mid
      rw [ring_unit, ring_depth, ring_base, decide_eq_false (not_not.2 top), decide_eq_false (not_not.2 middle), decide_eq_false unit,
        decide_eq_false (show ¬ depthOf c = 0 by omega), decide_eq_false (show ¬ depthOf c > 64 by omega), decide_eq_false (not_not.2 base)]
      rfl
    have room : ¬ (begunRing c).base + (begunRing c).depth * (begunRing c).unit > (s.wg w).spSize := by
      rw [ring_base]
      exact not_lt.2 fits
    dsimp only
    rw [if_neg some', if_neg (not_not.2 aligned), if_neg (not_lt.2 inside), if_neg (by rw [free]; decide)]
    split
    next bad => exact absurd (malformed.symm.trans bad) Bool.false_ne_true
    next =>
      rw [busy]
      exact (congrArg (fun t => Passed8 s t h ∧ t.ring w j = begunRing c) (if_neg room)).mpr (modRing_finishes first h j _)

/-! ### ring.pop and ring.rel -/

/-- A write of one register of each lane of a mask. -/
theorem LandStep.writeLanes {s u : State} (cur : u.cur = s.cur) (there : u.hasGroup s.cur.core s.cur.slot = true) (m : BitVec 32) (r : Nat) (v : Word) :
    LandStep u ((lanesOf m).foldl (fun s l => s.writeReg s.cur.core s.cur.slot l r v false) u) s.cur.core s.cur.slot (fun l t => if m.getLsbD l then t.putReg r ⟨v, false⟩ else t) := by
  obtain ⟨step, -⟩ := LandStep.foldl (P := fun u => u.cur = s.cur ∧ u.hasGroup s.cur.core s.cur.slot = true) (core := s.cur.core) (slot := s.cur.slot)
    (f := fun (s : State) l => s.writeReg s.cur.core s.cur.slot l r v false) (e := fun a j t => if a == j then t.putReg r ⟨v, false⟩ else t)
    (fun u a ⟨cur, there⟩ => by
      have step := LandStep.writeReg u there a r v false
      rw [cur]
      exact ⟨step, step.cur.trans cur, (step.present _ _).trans there⟩) (lanesOf m) u ⟨cur, there⟩
  refine step.congr fun l t => ?_
  rw [foldl_lanes (lanesOf_nodup m) (fun _ t => t.putReg r ⟨v, false⟩)]
  simp only [mem_lanesOf]

theorem Thread.putReg_pos (t : Thread) (r : Nat) (v : Reg) : (t.putReg r v).pos = t.pos := by rw [Thread.putReg_regs]

theorem popRing_pops (first : First s) (h : Hdr) (f : FmtE) {i : Instr} (none' : s.roundsDue s.curCtx = []) : let w := s.curWg
    let j := f.handle.toNat % 16
    let r := s.ring w j
    Moved s (s.popRing h i f) h (fun _ => seqPos s.cur.pos) (fun l t => if (s.active h).getLsbD l then t.putReg f.a.toNat ⟨BitVec.ofNat 32 (baseOf r.control + r.pop * unitOf r.control), false⟩ else t) ∧
    (s.popRing h i f).ring w j = { r with slots := tblPut r.slots r.pop 3, filled := r.filled - 1, pop := (r.pop + 1) % depthOf r.control } := by
  intro w j r
  have present := first.2.2.2.2.2
  let g (r : Ring) : Ring := { r with slots := tblPut r.slots r.pop 3, filled := r.filled - 1, pop := (r.pop + 1) % r.depth }
  let u := s.modRing w j g
  let v := BitVec.ofNat 32 (baseOf r.control + r.pop * unitOf r.control)
  let x := (lanesOf (s.active h)).foldl (fun s l => s.writeReg s.cur.core s.cur.slot l f.a.toNat v false) u
  let y := x.noteLoads w [BitVec.ofNat 64 (baseOf r.control + r.pop * unitOf r.control)]
  have step : LandStep u y s.cur.core s.cur.slot (fun l t => if (s.active h).getLsbD l then t.putReg f.a.toNat ⟨v, false⟩ else t) :=
    (LandStep.writeLanes (s := s) (u := u) rfl present (s.active h) f.a.toNat v).trans (.noteLoads x _ _ w _)
  have cur : y.cur = s.cur := step.cur
  have rounds : y.roundsDue y.curCtx = [] := by
    have wg : y.curWg = s.curWg := by
      rw [State.curWg, cur, y.wgOf_present ((step.present _ _).trans present), step.here, State.curWg, s.wgOf_present present]
      rfl
    have launch : (y.wg s.curWg).launch = (s.wg s.curWg).launch := by
      rw [step.wgKept]
      exact (Beside.modRing s w j g).launch _
    have ctx : y.curCtx = s.curCtx := by
      rw [State.curCtx, State.ctxOfWg, wg, launch, step.state]
      rfl
    rw [ctx, step.state]
    exact none'
  have run : s.popRing h i f = y.retire h (fun _ => seqPos s.cur.pos) := by
    have e : s.popRing h i f = y.acquireDone h i 4 := by
      unfold State.popRing
      dsimp only
      rw [ring_base, ring_unit]
    rw [e, State.acquireDone_alone (by rw [cur]; exact first.1) h i 4 rounds, State.retireSeq, cur]
  clear_value y
  rw [run]
  have retired : Retired y (y.retire h (fun _ => seqPos s.cur.pos)) := .retire y h _ (by rw [cur]; exact first.1)
  have lanes : LanesStep s y s.cur.core s.cur.slot (fun l t => if (s.active h).getLsbD l then t.putReg f.a.toNat ⟨v, false⟩ else t) :=
    ⟨(step.lanes.mem), step.lanes.hostMem, fun w => (step.lanes.rwc w).trans ((Beside.modRing s _ j g).rwc w), step.lanes.others, step.lanes.thread⟩
  refine ⟨lanes.moved present cur ((step.present _ _).trans present) (by rw [step.here]; rfl) (step.length) h _ (fun l _ => ?_) fun l out => ?_, ?_⟩
  · split
    · unfold Thread.putReg
      split <;> rfl
    · rfl
  · rw [if_neg]
    intro a
    rw [s.active_lane first.1 h a] at out
    cases out
  · rw [retired.ring, State.ring, step.wgKept]
    exact State.modRing_self s w j g

theorem ringPop_pops (some' : s.active h ≠ 0) (first : First s) (ready : Ready s (s.active h) [] (if f.a = 0x1FE then [] else [f.a.toNat]) []) : let w := s.curWg
    let j := f.handle.toNat % 16
    let r := s.ring w j
    (r.inited = true → r.slot r.pop = 2 → s.roundsDue s.curCtx = [] → ∃ t, exec (.ringPop h f) s = .next t ∧ Elsewhere s t ∧
      t.ring w j = { r with slots := tblPut r.slots r.pop 3, filled := r.filled - 1, pop := (r.pop + 1) % depthOf r.control } ∧
      (t.wg w).rwc = (s.wg w).rwc + 1 ∧ ∀ l ∈ lanesOf (s.active h), l < (s.group s.cur.core s.cur.slot).threads.length → f.a ≠ 0x1FE →
        (t.thread s.cur.core s.cur.slot l).pos = seqPos s.cur.pos ∧
        (t.thread s.cur.core s.cur.slot l).reg f.a.toNat = ⟨BitVec.ofNat 32 (baseOf r.control + r.pop * unitOf r.control), false⟩) ∧
    (r.inited = true → r.slot r.pop ≠ 2 → ∃ t, exec (.ringPop h f) s = .next t ∧ Waits s t h (.ringFull j)) ∧
    (r.inited = false → ∃ t, exec (.ringPop h f) s = .next t ∧ Stops s t 0 (s.active h) 0x10 (BitVec.ofNat 64 (j + 2 ^ 19))) := by
  intro w j r
  have nums : s.cur.nums.contains 7 = false := by rw [first.2.1]; rfl
  have ops : dstRegs f.a.toNat false = if f.a = 0x1FE then [] else [f.a.toNat] := dstRegs_sr f.a false
  rw [← ops] at ready
  refine ⟨fun on full none' => ⟨_, rfl, ?_⟩, fun on empty => ⟨_, rfl, ?_⟩, fun off => ⟨_, rfl, ?_⟩⟩ <;>
    rw [if_neg (by rw [nums]; decide), State.withOperands_ready _ _ _ _ _ _ _ _ _ _ ready, if_neg some']
  · rw [if_neg (by rw [on]; decide), if_pos full]
    obtain ⟨⟨elsewhere, rwc, threads⟩, ring⟩ := popRing_pops first h f none'
    refine ⟨elsewhere, ring, rwc, fun l hl inside named => ?_⟩
    rw [threads l inside, if_pos (s.active_lane first.1 h (mem_lanesOf.1 hl))]
    dsimp only
    rw [if_pos (mem_lanesOf.1 hl), Thread.putReg_pos, Thread.putReg_reg]
    exact ⟨rfl, if_pos ⟨rfl, fun e => named (BitVec.eq_of_toNat_eq e)⟩⟩
  · rw [if_neg (by rw [on]; decide), if_neg empty]
    exact waits_first (.first first) first h _ _ 4
  · rw [if_pos (by rw [off]; rfl)]
    exact raises first h _ _ (by decide)

theorem ringRel_frees (some' : s.active h ≠ 0) (first : First s) : let w := s.curWg
    let j := f.handle.toNat % 16
    let r := s.ring w j
    (r.inited = true → r.slot r.rel = 3 → s.accessesOf (s.active h) false = [] → seen s 0 = [] → ∃ t, exec (.ringRel h f) s = .next t ∧ Passed8 s t h ∧
      t.ring w j = { r with slots := tblPut r.slots r.rel 0, free := r.free + 1, rel := (r.rel + 1) % depthOf r.control }) ∧
    (r.inited = true → r.slot r.rel ≠ 3 → ∃ t, exec (.ringRel h f) s = .next t ∧
      Stops s t 0 (s.active h) 0x10 (BitVec.ofNat 64 (j + 256 * (r.rel % 64) + 65536 * r.slot r.rel))) := by
  intro w j r
  refine ⟨fun on drains own obs => ⟨_, rfl, ?_⟩, fun on other => ⟨_, rfl, ?_⟩⟩
  · rw [if_neg some', if_neg (by rw [on]; decide), if_neg (not_not.2 drains), State.afterRelease_alone first.2.1 h _ own obs]
    exact modRing_finishes first h j _
  · rw [if_neg some', if_neg (by rw [on]; decide), if_pos other, bufTv_eq]
    exact raises first h _ _ (by decide)

/-! ### buf.wait and buf.set -/

/-- What buf.wait does with its operand. -/
def bufWaited (h : Hdr) (f : FmtE) (act : BitVec 32) (s : State) : State :=
  let r := s.ring s.curWg (f.handle.toNat % 16)
  if act = 0 then s.retireSeq h
  else if !r.inited then s.raise h (act) cBUF (bufTvUninit (f.handle.toNat % 16))
  else if r.slot (s.bufSlot h f r) = bits f.par.toNat 7 6 then
    (if bits f.par.toNat 7 6 = 2 then s.acquireDone h (.bufWait h f) 4 else (s.doneNow h).retireSeq h)
  else (s.carry [8]).waitActive h (.bufWait h f) (.bufState (f.handle.toNat % 16) (s.bufSlot h f r) (bits f.par.toNat 7 6)) 4

theorem bufWait_waits (some' : s.active h ≠ 0) (low : LowReady s h (bufSrcs f)) : let r := s.ring s.curWg (f.handle.toNat % 16)
    let m := s.bufSlot h f r
    let st := f.par.toNat / 64 % 4
    r.inited = true → (r.slot m = st → st = 2 → s.roundsDue s.curCtx = [] → ∃ t, exec (.bufWait h f) s = .next t ∧ Passed s t h) ∧
      (r.slot m = st → st ≠ 2 → ∃ t, exec (.bufWait h f) s = .next t ∧ Passed s t h) ∧
      (r.slot m ≠ st → ∃ t, exec (.bufWait h f) s = .next t ∧ Waits s t h (.bufState (f.handle.toNat % 16) m st)) := by
  intro r m st on
  have first := low.1
  have nums (k : Nat) : ¬ s.cur.nums.contains k = true := by rw [first.2.1]; exact Bool.false_ne_true
  have run : exec (.bufWait h f) s = .next (s.lowOperands h (.bufWait h f) (s.active h) (bufSrcs f) [] (bufWaited h f (s.active h))) := by
    show execBufWait h f s = _
    unfold execBufWait
    dsimp only
    rw [if_neg (nums 7), if_neg (nums 8)]
    rfl
  have st_eq : bits f.par.toNat 7 6 = st := rfl
  clear_value st
  refine ⟨fun here two none' => low_runs low run ?_, fun here other => low_runs low run ?_, fun other => low_runs low run ?_⟩ <;> unfold bufWaited <;> dsimp only <;>
    rw [if_neg some', if_neg (by rw [on]; decide), st_eq]
  · rw [if_pos here, if_pos two, State.acquireDone_alone first.1 h _ 4 none']
    exact (retires_beside first h (.refl s)).1
  · rw [if_pos here, if_neg other, State.doneNow_first first.1]
    exact (retires_beside first h (.refl s)).1
  · rw [if_neg other]
    exact waits_first (.carry s [8]) first h _ _ 4

/-- Table 18-2: what buf.set does where its ring allows it, and its fault where it does not. -/
theorem bufSet_sets (some' : s.active h ≠ 0) (low : LowReady s h (bufSrcs f)) : let j := f.handle.toNat % 16
    let r := s.ring s.curWg j
    let m := s.bufSlot h f r
    let st := f.par.toNat / 64 % 4
    r.inited = true → (∀ r', r.setTo m st = some r' → st = 1 ∨ s.accessesOf (s.active h) false = [] ∧ seen s 0 = [] →
        ∃ t, exec (.bufSet h f) s = .next t ∧ Passed8 s t h ∧ t.ring s.curWg j = r') ∧
      (r.setTo m st = none → ∃ t, exec (.bufSet h f) s = .next t ∧ Stops s t 0 (s.active h) 0x10 (BitVec.ofNat 64 (j + 256 * (m % 64) + 65536 * r.slot m))) := by
  intro j r m st on
  have first := low.1
  refine ⟨fun r' moves why => low_runs low rfl ?_, fun none' => low_runs low rfl ?_⟩ <;> dsimp only <;> rw [if_neg some', if_neg (by rw [on]; decide)]
  · rw [show (s.ring s.curWg (f.handle.toNat % 16)).setTo (s.bufSlot h f (s.ring s.curWg (f.handle.toNat % 16))) (bits f.par.toNat 7 6) = some r' from moves]
    dsimp only
    have set := modRing_finishes first h j fun _ => r'
    by_cases one : st = 1
    · rw [if_pos (show bits f.par.toNat 7 6 = 1 from one)]
      exact set
    · obtain ⟨own, obs⟩ := why.resolve_left one
      rw [if_neg (show ¬ bits f.par.toNat 7 6 = 1 from one), State.afterRelease_alone first.2.1 h _ own obs]
      exact set
  · rw [show (s.ring s.curWg (f.handle.toNat % 16)).setTo (s.bufSlot h f (s.ring s.curWg (f.handle.toNat % 16))) (bits f.par.toNat 7 6) = none from none']
    dsimp only
    rw [bufTv_eq]
    exact raises first h _ _ (by decide)

end Ring

theorem stagingRings : StagingRings := by
  intro s h f some' act w j r d off c
  refine ⟨fun low aligned inside locked => (ringInit_begins some' low aligned inside).1 locked, fun low aligned inside free high mid unit some depth base fits idle =>
    (ringInit_begins some' low aligned inside).2 free high mid unit some depth base fits idle, fun first ready => ringPop_pops some' first ready, fun first => ringRel_frees some' first⟩

theorem bufferSlots : BufferSlots := by
  intro s h f some' low act w j r d st m on
  have slot : s.bufSlot h f r = m := rfl
  obtain ⟨acquires, passes, waits⟩ := bufWait_waits some' low on
  obtain ⟨sets, fails⟩ := bufSet_sets some' low on
  refine ⟨acquires, passes, waits, fun one empty fill => ?_, fun own obs => ⟨fun two filling mine => ?_, fun zero draining rel => ?_⟩, fun bad => fails ?_⟩
  · refine sets _ ?_ (.inl one)
    show r.setTo m st = _
    rw [one, Ring.setTo, if_pos (by rw [empty, ← fill]; simp)]
    rfl
  · obtain ⟨t, run, passed, ring⟩ := sets { r with slots := tblPut r.slots m 2, filled := r.filled + 1, bySet := r.bySet.filter (· ≠ m) } (by
      show r.setTo m st = _
      rw [two, Ring.setTo, if_pos (by simp [filling, mine])]) (.inr ⟨own, obs⟩)
    refine ⟨t, run, passed, ?_, ?_⟩
    · rw [ring]
      exact tblGet_tblPut_self _ _ _ _
    · rw [ring]
  · refine sets _ ?_ (.inr ⟨own, obs⟩)
    show r.setTo m st = _
    rw [zero, Ring.setTo, if_pos (by rw [draining, ← rel]; simp)]
    rfl
  · show r.setTo m st = none
    rcases bad with three | ⟨one, no⟩ | ⟨two, no⟩ | ⟨zero, no⟩
    · rw [three]
      rfl
    · rw [one, Ring.setTo, if_neg (by simp [no])]
    · rw [two, Ring.setTo, if_neg (by simp [no])]
    · rw [zero, Ring.setTo, if_neg (by simp [no])]

/-- Settles O29. -/
theorem ringsAndBuffers : Obligations.RingsAndBuffers := ⟨stagingRings, bufferSlots⟩
end Sys2Proof.Proofs.Rings
end

section
/-! SUPPORT. Copy slots, and the units of operand memory and of the accumulator. -/

namespace Sys2Proof.Machine

open Sys2Proof.Claims

theorem State.modCopy_self (s : State) (w k : Nat) (f : CopySlot → CopySlot) : (s.modCopy w k f).copySlot w k = f (s.copySlot w k) := by
  rw [State.copySlot, State.modCopy, s.modWg_self]
  exact tblGet_tblPut_self _ _ _ _

theorem Beside.modCopy (s : State) (w k : Nat) (f : CopySlot → CopySlot) : Beside s (s.modCopy w k f) := .modWg s w _

theorem Retired.copySlot {s t : State} (r : Retired s t) (w k : Nat) : t.copySlot w k = s.copySlot w k := by rw [State.copySlot, State.copySlot, r.wg]

theorem Passed8.now {s u : State} {h : Hdr} (passed : Passed8 s u h) (ev : Instr) : Passed8 s (u.now ev) h := passed

/-- R309: a copy slot takes a new value, and the instruction completes 8 cycles later. -/
theorem modCopy_finishes {s : State} (first : First s) (h : Hdr) (k : Nat) (g : CopySlot → CopySlot) :
    Passed8 s ((s.modCopy s.curWg k g).finish8 h) h ∧ ((s.modCopy s.curWg k g).finish8 h).copySlot s.curWg k = g (s.copySlot s.curWg k) := by
  obtain ⟨passed, v, retired, -, wg, -⟩ := finish8_passes first h (Beside.modCopy s s.curWg k g) rfl
  refine ⟨passed, ?_⟩
  rw [retired.copySlot, State.copySlot, wg]
  exact State.modCopy_self s _ _ _

end Sys2Proof.Machine

namespace Sys2Proof.Proofs.Copies

open Sys2Proof.Machine Sys2Proof.Claims

variable {s : State} {h : Hdr} {f : FmtE}

/-- R298: the slice that an issue of cpy.slice supplies. -/
def suppliedSlice (s : State) (h : Hdr) (f : FmtE) : Slice where
  group := (s.group s.cur.core s.cur.slot).idx
  lane := s.lowLane h
  pos := s.cur.pos
  empty := s.active h = 0
  handle := f.handle.toNat
  org := (List.range 5).map (fun j => s.selWord (s.lowLane h) (f.a.toNat + j))
  dst := s.selWord (s.lowLane h) f.b.toNat
  part := s.selWord (s.lowLane h) f.c.toNat
  dk := bits f.par.toNat 4 3

theorem cpySlice_supplies : let act := s.active h
    let w := s.curWg
    let k := f.par.toNat % 8
    let dk := f.par.toNat / 8 % 4
    let l := s.lowLane h
    let srcs := (List.range 5).map (fun j => Src.reg (f.a.toNat + j)) ++ [.reg f.b.toNat, .reg f.c.toNat]
    LowReady s h srcs → (act = 0 ∨ dk ≠ 1) → s.accessesOf s.cur.lanes false = [] → seen s 0 = [] →
    ∃ t, exec (.cpySlice h f) s = .next t ∧ Passed8 s t h ∧ (∃ r, t.agenda = .event (.copyStart w k) :: r) ∧
      ∃ x, (t.copySlot w k).slices = (s.copySlot w k).slices ++ [x] ∧ ((s.copySlot w k).st = 0 → (t.copySlot w k).st = 1) ∧
        x.group = (s.group s.cur.core s.cur.slot).idx ∧ x.empty = decide (act = 0) ∧ x.pos = s.cur.pos ∧ x.handle = f.handle.toNat ∧ x.dk = dk ∧
        x.org = (List.range 5).map (fun j => s.selWord l (f.a.toNat + j)) ∧ x.dst = s.selWord l f.b.toNat ∧ x.part = s.selWord l f.c.toNat := by
  intro act w k dk l srcs low memory own obs
  have first := low.1
  refine low_runs low rfl ?_
  dsimp only
  rw [if_neg ?_, State.afterRelease_alone first.2.1 h _ own obs]
  · let x := suppliedSlice s h f
    obtain ⟨passed, slot⟩ := modCopy_finishes first h k (fun c => { c with st := if c.st = 0 then 1 else c.st, slices := c.slices ++ [x] })
    exact ⟨Passed8.now passed _, ⟨_, rfl⟩, x, congrArg CopySlot.slices slot, fun idle => (congrArg CopySlot.st slot).trans (if_pos idle), rfl, rfl, rfl, rfl, rfl, rfl, rfl, rfl⟩
  · rcases memory with none' | other
    · rw [show s.active h = 0 from none']
      simp
    · rw [show decide (bits f.par.toNat 4 3 = 1) = false from decide_eq_false other]
      simp

/-- R309: whether the issuing group still owes a slice of copy slot k that cpy.wait names. -/
def owesSlice (s : State) (f : FmtE) (k : Nat) : Bool :=
  bit (f.par.toNat % 256) k && (s.copySlot s.curWg k).st = 1 && !(s.copySlot s.curWg k).slices.any (fun x => x.group = (s.group s.cur.core s.cur.slot).idx)

/-- R309: whether copy slot k is idle, or one that cpy.wait does not name. -/
def sliceIdle (s : State) (f : FmtE) (k : Nat) : Bool := !bit (f.par.toNat % 256) k || (s.copySlot s.curWg k).st = 0

theorem cpyWait_faults (first : First s) {k : Nat} (owed : (List.range 8).find? (owesSlice s f) = some k) :
    exec (.cpyWait h f) s = .next (s.raise h (s.active h) cBUF (BitVec.ofNat 64 (2 ^ 20 + 256 * k))) := by
  have nums : ¬ s.cur.nums.contains 7 = true := by rw [first.2.1]; exact Bool.false_ne_true
  have early : ¬ s.cur.phase > 0 := by rw [first.1]; exact Nat.lt_irrefl 0
  show execCpyWait h f s = _
  unfold execCpyWait
  unfold owesSlice at owed
  dsimp only
  rw [if_neg nums, if_neg early, owed]

theorem cpyWait_goes (first : First s) (free : (List.range 8).find? (owesSlice s f) = none) : exec (.cpyWait h f) s = .next
    (if (List.range 8).all (sliceIdle s f) then s.acquireDone h (.cpyWait h f) 4 else s.waitFor h (.cpyWait h f) (.copies (f.par.toNat % 256)) 4) := by
  have nums : ¬ s.cur.nums.contains 7 = true := by rw [first.2.1]; exact Bool.false_ne_true
  have early : ¬ s.cur.phase > 0 := by rw [first.1]; exact Nat.lt_irrefl 0
  show execCpyWait h f s = _
  unfold execCpyWait
  unfold owesSlice at free
  dsimp only
  rw [if_neg nums, if_neg early, free]
  rfl

theorem cpyWait_waits (first : First s) : let w := s.curWg
    let idle (j : Nat) : Prop := f.par.toNat.testBit j = true → (s.copySlot w j).st = 0
    let owed (j : Nat) : Prop := f.par.toNat.testBit j = true ∧ (s.copySlot w j).st = 1 ∧
      ∀ x ∈ (s.copySlot w j).slices, x.group ≠ (s.group s.cur.core s.cur.slot).idx
    ((∀ j, j < 8 → idle j) → s.roundsDue s.curCtx = [] → Retires s h (exec (.cpyWait h f) s) (fun _ => seqPos s.cur.pos) (fun _ x => x)) ∧
    (∀ j, j < 8 → owed j → (∀ i, i < j → ¬ owed i) → ∃ t, exec (.cpyWait h f) s = .next t ∧
      Stops s t 0 (s.active h) 0x10 (BitVec.ofNat 64 (2 ^ 20 + 256 * j))) ∧
    ((∀ j, j < 8 → ¬ owed j) → (∃ j, j < 8 ∧ ¬ idle j) → ∃ t x, exec (.cpyWait h f) s = .next t ∧ Elsewhere s t ∧
      (t.group s.cur.core s.cur.slot).waits = (s.group s.cur.core s.cur.slot).waits ++ [x] ∧ x.cond = .copies (f.par.toNat % 256) ∧
      x.iss.lanes = s.cur.lanes) := by
  intro w idle owed
  have named {j : Nat} (small : j < 8) : bit (f.par.toNat % 256) j = f.par.toNat.testBit j := by
    rw [bit_eq_testBit, show (256 : Nat) = 2 ^ 8 from rfl, Nat.testBit_mod_two_pow, decide_eq_true small, Bool.true_and]
  have owes_iff {j : Nat} (small : j < 8) : owesSlice s f j = true ↔ owed j := by
    simp only [owesSlice, named small, Bool.and_eq_true, decide_eq_true_eq, Bool.not_eq_true', List.any_eq_false, owed, and_assoc, w]
  have idle_iff {j : Nat} (small : j < 8) : sliceIdle s f j = true ↔ idle j := by
    simp only [sliceIdle, named small, Bool.or_eq_true, Bool.not_eq_true', decide_eq_true_eq, idle, w]
    cases f.par.toNat.testBit j <;> simp
  have none' (free : ∀ j, j < 8 → ¬ owed j) : (List.range 8).find? (owesSlice s f) = none :=
    find?_nowhere fun j hj => Bool.eq_false_iff.2 fun e => free j (List.mem_range.1 hj) ((owes_iff (List.mem_range.1 hj)).1 e)
  refine ⟨fun all rounds => ?_, fun j small owe before => ⟨_, cpyWait_faults first (k := j) ?_, raises first h _ _ (by decide)⟩, fun free busy => ?_⟩
  · have free (j : Nat) (small : j < 8) : ¬ owed j := fun ⟨on, one, _⟩ => by
      rw [all j small on] at one
      cases one
    refine ⟨_, (cpyWait_goes first (none' free)).trans (congrArg Host.Outcome.next (if_pos ?_)), ?_⟩
    · rw [List.all_eq_true]
      exact fun j hj => (idle_iff (List.mem_range.1 hj)).2 (all j (List.mem_range.1 hj))
    · rw [State.acquireDone_alone first.1 h _ 4 rounds]
      obtain ⟨passed, kept, -⟩ := retires_beside first h (.refl s)
      exact ⟨passed, kept⟩
  · rw [List.find?_range_eq_some]
    exact ⟨(owes_iff small).2 owe, List.mem_range.2 small, fun i less => by
      rw [Bool.not_eq_true']
      exact Bool.eq_false_iff.2 fun e => before i less ((owes_iff (less.trans small)).1 e)⟩
  · have begun := State.waitFor_begins first.1 (by rw [first.2.2.1]; rfl) first.2.2.2.2.2 h (.cpyWait h f) (.copies (f.par.toNat % 256)) 4
    refine ⟨_, s.waitOf h (.cpyWait h f) (.copies (f.par.toNat % 256)) 4, (cpyWait_goes first (none' free)).trans (congrArg Host.Outcome.next (if_neg ?_)), ?_, ?_, rfl, rfl⟩
    · obtain ⟨j, small, some'⟩ := busy
      exact fun all => some' ((idle_iff small).1 (List.all_eq_true.1 all j (List.mem_range.2 small)))
    · exact ⟨by rw [begun.state], by rw [begun.state], fun c q ne => congrArg Group.threads (begun.others c q ne)⟩
    · exact congrArg Group.waits begun.here

/-- Settles O27. -/
theorem copyInstructions : Obligations.CopyInstructions := fun _ _ _ =>
  ⟨fun low memory own obs => cpySlice_supplies low memory own obs, fun first => cpyWait_waits first⟩

end Sys2Proof.Proofs.Copies
end

section
/-! SUPPORT. Slots of operand memory and banks of the accumulator (R311, R324, R325). -/

namespace Sys2Proof.Machine

open Sys2Proof.Claims

/-! ### One unit -/

theorem State.modOpm_self (s : State) (core n : Nat) (f : OpmSlot → OpmSlot) : (s.modOpm core n f).opmSlot core n = f (s.opmSlot core n) := by
  rw [State.opmSlot, State.modOpm, s.modCore_self]
  exact tblGet_tblPut_self _ _ _ _

theorem State.modOpm_other (s : State) {core n k : Nat} (f : OpmSlot → OpmSlot) (ne : k ≠ n) : (s.modOpm core n f).opmSlot core k = s.opmSlot core k := by
  rw [State.opmSlot, State.modOpm, s.modCore_self]
  exact tblGet_tblPut_other _ _ _ ne

theorem State.modBank_self (s : State) (core n : Nat) (f : Bank → Bank) : (s.modBank core n f).bank core n = f (s.bank core n) := by
  rw [State.bank, State.modBank, s.modCore_self]
  exact tblGet_tblPut_self _ _ _ _

theorem State.modBank_other (s : State) {core n k : Nat} (f : Bank → Bank) (ne : k ≠ n) : (s.modBank core n f).bank core k = s.bank core k := by
  rw [State.bank, State.modBank, s.modCore_self]
  exact tblGet_tblPut_other _ _ _ ne

theorem State.noteFirst_core (s : State) (w : Nat) (l : List (Nat × Nat × Nat)) : (s.noteFirst w l).core = s.core := by
  unfold State.noteFirst
  split <;> rfl

theorem State.writeBank_self (s : State) (core n : Nat) (e : Tbl Word) : (s.writeBank core n e).bank core n = { s.bank core n with elems := e } := by
  show ((s.noteFirst (s.bank core n).holder [(4, n, 0)]).modBank core n (fun b => { b with elems := e })).bank core n = _
  rw [State.modBank_self, State.bank, State.noteFirst_core]
  rfl

theorem State.writeBank_other (s : State) {core n k : Nat} (e : Tbl Word) (ne : k ≠ n) : (s.writeBank core n e).bank core k = s.bank core k := by
  show ((s.noteFirst (s.bank core n).holder [(4, n, 0)]).modBank core n (fun b => { b with elems := e })).bank core k = _
  rw [State.modBank_other _ _ ne, State.bank, State.noteFirst_core]
  rfl

/-! ### Several units -/

/-- No more than units, replay logs and codewords changes. -/
structure UnitsStep (s t : State) : Prop where
  state : t = { s with cores := t.cores, wgs := t.wgs, bad := t.bad }
  core : ∀ c, t.core c = { s.core c with opm := (t.core c).opm, banks := (t.core c).banks }
  rwc : ∀ w, (t.wg w).rwc = (s.wg w).rwc
  launch : ∀ w, (t.wg w).launch = (s.wg w).launch

namespace UnitsStep

theorem refl (s : State) : UnitsStep s s := ⟨rfl, fun _ => rfl, fun _ => rfl, fun _ => rfl⟩

theorem trans {s t u : State} (h : UnitsStep s t) (k : UnitsStep t u) : UnitsStep s u where
  state := by rw [k.state, h.state]
  core c := by rw [k.core, h.core]
  rwc w := (k.rwc w).trans (h.rwc w)
  launch w := (k.launch w).trans (h.launch w)

theorem foldl {α : Type} {f : State → α → State} (hf : ∀ s a, UnitsStep s (f s a)) (l : List α) (s : State) : UnitsStep s (l.foldl f s) := by
  induction l generalizing s with
  | nil => exact refl s
  | cons a r ih => exact (hf s a).trans (ih _)

theorem modCore (s : State) (c : Nat) (f : Core → Core) (hf : ∀ x, f x = { x with opm := (f x).opm, banks := (f x).banks } := by intro _; rfl) : UnitsStep s (s.modCore c f) := by
  refine ⟨rfl, fun d => ?_, fun _ => rfl, fun _ => rfl⟩
  by_cases e : d = c
  · rw [e, s.modCore_self]
    exact hf _
  · rw [s.modCore_other f e]

theorem modOpm (s : State) (core n : Nat) (f : OpmSlot → OpmSlot) : UnitsStep s (s.modOpm core n f) := modCore s core _

theorem modBank (s : State) (core n : Nat) (f : Bank → Bank) : UnitsStep s (s.modBank core n f) := modCore s core _

theorem noteFirst (s : State) (w : Nat) (l : List (Nat × Nat × Nat)) : UnitsStep s (s.noteFirst w l) := by
  have beside := Beside.noteFirst s w l
  refine ⟨?_, fun c => by rw [s.noteFirst_core], beside.rwc, beside.launch⟩
  unfold State.noteFirst
  split <;> rfl

theorem noteLoads (s : State) (w : Nat) (l : List Long) : UnitsStep s (s.noteLoads w l) := by
  have beside := Beside.noteLoads s w l
  have core : (s.noteLoads w l).core = s.core := by
    unfold State.noteLoads
    split <;> rfl
  refine ⟨?_, fun c => by rw [core], beside.rwc, beside.launch⟩
  unfold State.noteLoads
  split <;> rfl

theorem mend (s : State) (p : Bad → Bool) : UnitsStep s (s.mend p) := ⟨rfl, fun _ => rfl, fun _ => rfl, fun _ => rfl⟩

theorem writeBank (s : State) (core n : Nat) (e : Tbl Word) : UnitsStep s (s.writeBank core n e) :=
  (noteFirst s _ _).trans ((modBank _ core n _).trans (mend _ _))

theorem takeUnits (s : State) (core w kind b n : Nat) : UnitsStep s (s.takeUnits core w kind b n) := by
  refine foldl (fun s j => ?_) _ s
  split
  · exact modOpm s core _ _
  · exact (modBank s core _ _).trans (writeBank _ core _ _)

theorem freeUnits (s : State) (core kind b n : Nat) : UnitsStep s (s.freeUnits core kind b n) := by
  refine foldl (fun s j => ?_) _ s
  split
  · exact modOpm s core _ _
  · exact modBank s core _ _

theorem beside {s t : State} (h : UnitsStep s t) : Beside s t := ⟨by rw [h.state], by rw [h.state], by rw [h.state], by rw [h.state], h.rwc, h.launch⟩

theorem cycles {s t : State} (h : UnitsStep s t) (c : Nat) : (t.core c).cycles = (s.core c).cycles := by rw [h.core]

end UnitsStep

/-- R311: a unit of a kind as it stands. -/
def State.unit (s : State) (core kind u : Nat) : OpmSlot × Bank := if kind = 0 then (s.opmSlot core u, {}) else ({}, s.bank core u)

/-- R311: what holds of the units of a run once each has been changed in turn, where a change makes it hold of its own unit and changes no other. -/
theorem units_foldl {core kind b : Nat} {f : State → Nat → State} {P : OpmSlot × Bank → Prop} (self : ∀ s j, P ((f s j).unit core kind (b + j)))
    (other : ∀ s j k, k ≠ b + j → (f s j).unit core kind k = s.unit core kind k) (n : Nat) (s : State) :
    ∀ i, i < n → P (((List.range n).foldl f s).unit core kind (b + i)) := by
  induction n with
  | zero => exact fun i hi => absurd hi (Nat.not_lt_zero i)
  | succ n ih =>
    intro i hi
    rw [List.range_succ, List.foldl_append]
    by_cases e : i = n
    · rw [e]
      exact self _ n
    · rw [List.foldl_cons, List.foldl_nil, other _ _ _ (by omega)]
      exact ih i (by omega)

/-- R311, R313: a unit just taken by a workgroup. -/
def UnitTaken (kind w : Nat) (x : OpmSlot × Bank) : Prop := if kind = 0 then x.1.st = 1 ∧ x.1.holder = w else x.2.held = true ∧ x.2.holder = w ∧ x.2.elems = []

/-- R325: a unit that is free. -/
def UnitFree (kind : Nat) (x : OpmSlot × Bank) : Prop := if kind = 0 then x.1.st = 0 else x.2.held = false

theorem State.takeUnits_taken (s : State) (core w kind b n : Nat) : ∀ i, i < n → UnitTaken kind w ((s.takeUnits core w kind b n).unit core kind (b + i)) := by
  refine units_foldl (fun s j => ?_) (fun s j k ne => ?_) n s
  · by_cases zero : kind = 0
    · rw [UnitTaken, State.unit, if_pos zero, if_pos zero, if_pos zero, State.modOpm_self]
      exact ⟨rfl, rfl⟩
    · rw [UnitTaken, State.unit, if_neg zero, if_neg zero, if_neg zero, State.writeBank_self, State.modBank_self]
      exact ⟨rfl, rfl, rfl⟩
  · by_cases zero : kind = 0
    · rw [State.unit, State.unit, if_pos zero, if_pos zero, if_pos zero, State.modOpm_other _ _ ne]
    · rw [State.unit, State.unit, if_neg zero, if_neg zero, if_neg zero, State.writeBank_other _ _ ne, State.modBank_other _ _ ne]

theorem State.freeUnits_free (s : State) (core kind b n : Nat) : ∀ i, i < n → UnitFree kind ((s.freeUnits core kind b n).unit core kind (b + i)) := by
  refine units_foldl (fun s j => ?_) (fun s j k ne => ?_) n s
  · by_cases zero : kind = 0
    · rw [UnitFree, State.unit, if_pos zero, if_pos zero, if_pos zero, State.modOpm_self]
    · rw [UnitFree, State.unit, if_neg zero, if_neg zero, if_neg zero, State.modBank_self]
  · by_cases zero : kind = 0
    · rw [State.unit, State.unit, if_pos zero, if_pos zero, if_pos zero, State.modOpm_other _ _ ne]
    · rw [State.unit, State.unit, if_neg zero, if_neg zero, if_neg zero, State.modBank_other _ _ ne]

theorem State.unit_congr {s t : State} {core : Nat} (opm : (t.core core).opm = (s.core core).opm) (banks : (t.core core).banks = (s.core core).banks) (kind u : Nat) :
    t.unit core kind u = s.unit core kind u := by
  rw [State.unit, State.unit, State.opmSlot, State.opmSlot, State.bank, State.bank, opm, banks]

theorem Retired.unit {s t : State} (r : Retired s t) (core kind u : Nat) : t.unit core kind u = s.unit core kind u := State.unit_congr (by rw [r.core]) (by rw [r.core]) kind u

/-! ### Runs of free units (R324) -/

/-- R324: n units from b on are units and free. -/
def State.FreeRun (s : State) (core kind n b : Nat) : Prop := b + n ≤ (if kind = 0 then 32 else 4) ∧ ∀ i, i < n → UnitFree kind (s.unit core kind (b + i))

theorem State.unitFree_iff (s : State) (core kind u : Nat) : UnitFree kind (s.unit core kind u) ↔ (if kind = 0 then decide ((s.opmSlot core u).st = 0) else !(s.bank core u).held) = true := by
  rw [UnitFree, State.unit]
  by_cases zero : kind = 0
  · rw [if_pos zero, if_pos zero, if_pos zero, decide_eq_true_eq]
  · rw [if_neg zero, if_neg zero, if_neg zero, Bool.not_eq_true']

theorem State.runs_iff (s : State) (core kind n b : Nat) : s.FreeRun core kind n b ↔ b < (if kind = 0 then 32 else 4) + 1 - n ∧
    ((List.range n).all (fun j => if kind = 0 then decide ((s.opmSlot core (b + j)).st = 0) else !(s.bank core (b + j)).held)) = true := by
  rw [State.FreeRun, List.all_eq_true]
  simp only [List.mem_range, ← s.unitFree_iff]
  exact and_congr_left fun _ => by omega

theorem State.freeRun_first {s : State} {core kind n b : Nat} (run : s.FreeRun core kind n b) (lowest : ∀ a, a < b → ¬ s.FreeRun core kind n a) : s.freeRun core kind n = some b := by
  have here := (s.runs_iff core kind n b).1 run
  refine List.find?_range_eq_some.2 ⟨here.2, List.mem_range.2 here.1, fun a less => ?_⟩
  rw [Bool.not_eq_true']
  exact Bool.eq_false_iff.2 fun e => lowest a less ((s.runs_iff core kind n a).2 ⟨less.trans here.1, e⟩)

theorem State.freeRun_none {s : State} {core kind n : Nat} (none' : ∀ b, ¬ s.FreeRun core kind n b) : s.freeRun core kind n = none :=
  find?_nowhere fun b hb => Bool.eq_false_iff.2 fun e => none' b ((s.runs_iff core kind n b).2 ⟨List.mem_range.1 hb, e⟩)

end Sys2Proof.Machine

namespace Sys2Proof.Proofs.Units

open Sys2Proof.Machine Sys2Proof.Claims

section Claim

variable {s : State} {h : Hdr} {f : FmtE}

/-- R309, R324: the result of opm.claim under way, with the first number b. -/
def claimed (s : State) (h : Hdr) (f : FmtE) (b : Nat) : Pend where
  core := s.cur.core
  slot := s.cur.slot
  kind := 5
  path := s.cur.path
  lanes := s.cur.lanes
  act := s.active h
  pos := s.cur.pos
  tok := h.tok.toNat
  writes := ((lanesOf (s.active h)).map (fun l => laneWrites l f.a.toNat false b false)).flatten

theorem opmClaim_takes (some' : s.active h ≠ 0) (first : First s) (ready : Ready s (s.active h) [] (dstRegs f.a.toNat false) []) {b : Nat}
    (alone : ∀ c ∈ (s.core s.cur.core).claims, c.kind ≠ bits f.par.toNat 6 6) (run : s.freeRun s.cur.core (bits f.par.toNat 6 6) (f.par.toNat % 64) = some b) :
    exec (.opmClaim h f) s = .next ((((((s.takeUnits s.cur.core s.curWg (bits f.par.toNat 6 6) b (f.par.toNat % 64)).noteLoads s.curWg [BitVec.ofNat 64 b]).takeToken h).pendFixed 8
      (claimed s h f b))).retireSeq h) := by
  have early : ¬ s.cur.phase > 0 := by rw [first.1]; exact Nat.lt_irrefl 0
  have may : ((s.core s.cur.core).claims.all (fun d => d.kind ≠ bits f.par.toNat 6 6) && (s.freeRun s.cur.core (bits f.par.toNat 6 6) (f.par.toNat % 64)).isSome) = true := by
    rw [run, Option.isSome_some, Bool.and_true, List.all_eq_true]
    exact fun c hc => decide_eq_true (alone c hc)
  show execOpmClaim h f s = _
  unfold execOpmClaim
  dsimp only
  rw [State.withOperands_ready _ _ _ _ _ _ _ _ _ _ ready, if_neg early, if_neg some', if_pos may, run]
  rfl

theorem opmClaim_waits (some' : s.active h ≠ 0) (first : First s) (ready : Ready s (s.active h) [] (dstRegs f.a.toNat false) [])
    (busy : (∃ c ∈ (s.core s.cur.core).claims, c.kind = bits f.par.toNat 6 6) ∨ s.freeRun s.cur.core (bits f.par.toNat 6 6) (f.par.toNat % 64) = none) :
    exec (.opmClaim h f) s = .next ((((s.modCore s.cur.core (fun c => { c with claims := c.claims ++ [⟨s.fresh, s.curWg, bits f.par.toNat 6 6, f.par.toNat % 64⟩] })).tickFresh.carry [s.fresh])).waitActive h
      (.opmClaim h f) (.claim s.fresh) 4) := by
  have early : ¬ s.cur.phase > 0 := by rw [first.1]; exact Nat.lt_irrefl 0
  have may : ¬ ((s.core s.cur.core).claims.all (fun d => d.kind ≠ bits f.par.toNat 6 6) && (s.freeRun s.cur.core (bits f.par.toNat 6 6) (f.par.toNat % 64)).isSome) = true := by
    rw [Bool.and_eq_true, List.all_eq_true]
    rintro ⟨alone, run⟩
    rcases busy with ⟨c, hc, same⟩ | none'
    · exact of_decide_eq_true (alone c hc) same
    · rw [none'] at run
      cases run
  show execOpmClaim h f s = _
  unfold execOpmClaim
  dsimp only
  rw [State.withOperands_ready _ _ _ _ _ _ _ _ _ _ ready, if_neg early, if_neg some', if_neg may]
  rfl

/-- R311, R313, R324: the units that opm.claim takes are under way to its lanes. -/
theorem opmClaim_claims (some' : s.active h ≠ 0) (first : First s) (ready : Ready s (s.active h) [] (dstRegs f.a.toNat false) []) {b : Nat}
    (alone : ∀ c ∈ (s.core s.cur.core).claims, c.kind ≠ bits f.par.toNat 6 6) (run : s.freeRun s.cur.core (bits f.par.toNat 6 6) (f.par.toNat % 64) = some b) :
    ∃ t p, exec (.opmClaim h f) s = .next t ∧ Passed8 s t h ∧ UnderWay s t h s.fresh p ∧ p.writes = ((lanesOf (s.active h)).map (fun l => laneWrites l f.a.toNat false b false)).flatten ∧
      ∀ i, i < f.par.toNat % 64 → UnitTaken (bits f.par.toNat 6 6) s.curWg (t.unit s.cur.core (bits f.par.toNat 6 6) (b + i)) := by
  have takes := opmClaim_takes some' first ready alone run
  have taken := UnitsStep.takeUnits s s.cur.core s.curWg (bits f.par.toNat 6 6) b (f.par.toNat % 64)
  have units := State.takeUnits_taken s s.cur.core s.curWg (bits f.par.toNat 6 6) b (f.par.toNat % 64)
  generalize s.takeUnits s.cur.core s.curWg (bits f.par.toNat 6 6) b (f.par.toNat % 64) = u at *
  have noted := UnitsStep.noteLoads u s.curWg [BitVec.ofNat 64 b]
  have core : (u.noteLoads s.curWg [BitVec.ofNat 64 b]).core = u.core := by
    unfold State.noteLoads
    split <;> rfl
  have step := taken.trans noted
  generalize u.noteLoads s.curWg [BitVec.ofNat 64 b] = v at *
  obtain ⟨passed, retired⟩ := pends8_passes (p := claimed s h f b) first h step.beside (step.cycles _) rfl rfl rfl
  have fresh : (v.takeToken h).fresh = s.fresh := by
    rw [show (v.takeToken h).fresh = v.fresh by simp, step.state]
  refine ⟨_, { claimed s h f b with due := ((v.takeToken h).core s.cur.core).cycles + 8 }, takes, passed, ⟨?_, rfl, rfl, rfl, rfl, rfl, rfl, rfl, rfl, fun _ => rfl⟩, rfl, fun i hi => ?_⟩
  · rw [retired.pends, ← fresh]
    exact tblFind_tblPut_self _ _ _
  · have same : ((v.takeToken h).pendFixed 8 (claimed s h f b)).core = u.core := by
      rw [show ((v.takeToken h).pendFixed 8 (claimed s h f b)).core = v.core by simp, core]
    rw [retired.unit, State.unit_congr (s := u) (by rw [same]) (by rw [same])]
    exact units i hi

/-- R324: a claim that waits joins the claims of its core. -/
theorem opmClaim_queues (some' : s.active h ≠ 0) (first : First s) (ready : Ready s (s.active h) [] (dstRegs f.a.toNat false) [])
    (busy : (∃ c ∈ (s.core s.cur.core).claims, c.kind = bits f.par.toNat 6 6) ∨ s.freeRun s.cur.core (bits f.par.toNat 6 6) (f.par.toNat % 64) = none) :
    ∃ t, exec (.opmClaim h f) s = .next t ∧ Waits s t h (.claim s.fresh) ∧
      (t.core s.cur.core).claims = (s.core s.cur.core).claims ++ [⟨s.fresh, s.curWg, bits f.par.toNat 6 6, f.par.toNat % 64⟩] := by
  refine ⟨_, opmClaim_waits some' first ready busy, ?_⟩
  let u := (s.modCore s.cur.core (fun c => { c with claims := c.claims ++ [⟨s.fresh, s.curWg, bits f.par.toNat 6 6, f.par.toNat % 64⟩] })).tickFresh
  obtain ⟨⟨waits, -⟩, -, frame⟩ := State.waitFor_first (s := s) (u := u.carry [s.fresh]) (l := [s.fresh]) ⟨rfl, rfl, rfl, fun _ => rfl, rfl⟩ first h (.opmClaim h f) (.claim s.fresh) 4
  refine ⟨waits, ?_⟩
  have core : ((u.carry [s.fresh]).waitActive h (.opmClaim h f) (.claim s.fresh) 4).core = u.core := by
    rw [frame]
    rfl
  show (((u.carry [s.fresh]).waitActive h (.opmClaim h f) (.claim s.fresh) 4).core s.cur.core).claims = _
  rw [core]
  show ((s.modCore s.cur.core (fun c => { c with claims := c.claims ++ [⟨s.fresh, s.curWg, bits f.par.toNat 6 6, f.par.toNat % 64⟩] })).core s.cur.core).claims = _
  rw [State.modCore_self]

/-! ### opm.rel -/

/-- R311: a workgroup holds a unit. -/
theorem holds_iff (s : State) (core kind u : Nat) (inside : u < if kind = 0 then 32 else 4) : (if kind = 0 then s.holdsSlot core s.curWg u else s.holdsBank core s.curWg u) = true ↔
    if kind = 0 then (s.opmSlot core u).st ≠ 0 ∧ (s.opmSlot core u).holder = s.curWg else (s.bank core u).held = true ∧ (s.bank core u).holder = s.curWg := by
  split at inside
  next zero => simp [zero, State.holdsSlot, inside]
  next one => simp [one, State.holdsBank, inside]

theorem opmRel_frees (some' : s.active h ≠ 0) (low : LowReady s h [.reg f.a.toNat]) : let kind := bits f.par.toNat 6 6
    let n := f.par.toNat % 64
    let b := (s.selWord (s.lowLane h) f.a.toNat).toNat
    let held (u : Nat) : Prop := (if kind = 0 then s.holdsSlot s.cur.core s.curWg u else s.holdsBank s.cur.core s.curWg u) = true
    b + n ≤ (if kind = 0 then 32 else 4) →
    ((∀ i, i < n → held (b + i)) → s.unitsIdle s.cur.core kind b n = true → ∃ t, exec (.opmRel h f) s = .next t ∧ Passed8 s t h ∧
      ∀ i, i < n → UnitFree kind (t.unit s.cur.core kind (b + i))) ∧
    (∀ i, i < n → ¬ held (b + i) → (∀ k, k < i → held (b + k)) → ∃ t, exec (.opmRel h f) s = .next t ∧
      Stops s t 0 (s.active h) 0x0F (BitVec.ofNat 64 (1 + 256 * (b + i)))) := by
  intro kind n b held fits
  have first := low.1
  have nums : ¬ s.cur.nums.length = 2 := by rw [first.2.1]; decide
  refine ⟨fun all idle => low_runs low rfl ?_, fun i hi not' before => low_runs low rfl ?_⟩ <;> dsimp only <;> rw [if_neg some', if_neg nums, if_neg (not_lt.2 fits)]
  · have none' : (List.range n).find? (fun j => !(if kind = 0 then s.holdsSlot s.cur.core s.curWg (b + j) else s.holdsBank s.cur.core s.curWg (b + j))) = none :=
      find?_nowhere fun j hj => by
        rw [Bool.not_eq_false']
        exact all j (List.mem_range.1 hj)
    rw [none']
    dsimp only
    rw [if_pos idle]
    have step := UnitsStep.freeUnits s s.cur.core kind b n
    have units := State.freeUnits_free s s.cur.core kind b n
    obtain ⟨passed, v, retired, core, -⟩ := finish8_passes first h step.beside (step.cycles _)
    refine ⟨passed, fun i hi => ?_⟩
    rw [retired.unit, State.unit_congr (s := s.freeUnits s.cur.core kind b n) (by rw [core]) (by rw [core])]
    exact units i hi
  · have some'' : (List.range n).find? (fun j => !(if kind = 0 then s.holdsSlot s.cur.core s.curWg (b + j) else s.holdsBank s.cur.core s.curWg (b + j))) = some i := by
      refine List.find?_range_eq_some.2 ⟨?_, List.mem_range.2 hi, fun k less => ?_⟩
      · rw [Bool.not_eq_true']
        exact Bool.eq_false_iff.2 not'
      · rw [Bool.not_not]
        exact before k less
    rw [some'']
    dsimp only
    have small : (b + i) % 256 = b + i := by
      refine Nat.mod_eq_of_lt ?_
      split at fits <;> omega
    rw [opmTv, small]
    exact raises first h _ _ (by decide)

end Claim

/-- Settles O30. -/
theorem operandUnits : Obligations.OperandUnits := by
  intro s h f some' act core w kind n total free held run low'
  have kinds : bits f.par.toNat 6 6 = kind := rfl
  have free_iff (t : State) (u : Nat) : UnitFree kind (t.unit core kind u) ↔ free t u := by
    rw [UnitFree, State.unit]
    show _ ↔ if kind = 0 then _ else _
    split <;> rfl
  have run_iff (b : Nat) : s.FreeRun core kind n b ↔ run b := by
    simp only [State.FreeRun, free_iff]
    rfl
  have held_of (t : State) (u : Nat) (taken : UnitTaken kind w (t.unit core kind u)) : held t u ∧ (kind = 1 → (t.bank core u).elems = []) := by
    rw [UnitTaken, State.unit] at taken
    show (if kind = 0 then _ else _) ∧ _
    by_cases zero : kind = 0
    · rw [if_pos zero, if_pos zero] at taken
      rw [if_pos zero]
      exact ⟨⟨by rw [taken.1]; exact Nat.one_ne_zero, taken.2⟩, fun one => by rw [zero] at one; cases one⟩
    · rw [if_neg zero, if_neg zero] at taken
      rw [if_neg zero]
      exact ⟨⟨taken.1, taken.2.1⟩, fun _ => taken.2.2⟩
  refine ⟨fun first ready _ => ?_, fun low fits => ?_⟩
  · have ops : dstRegs f.a.toNat false = if f.a = 0x1FE then [] else [f.a.toNat] := dstRegs_sr f.a false
    rw [← ops] at ready
    refine ⟨fun b alone here lowest => ?_, fun busy => ?_⟩
    · obtain ⟨t, p, exec', passed, way, writes, units⟩ := opmClaim_claims some' first ready alone (State.freeRun_first ((run_iff b).2 here) fun a less r => lowest a less ((run_iff a).1 r))
      exact ⟨t, p, exec', passed, way, writes, fun i hi => held_of t (b + i) (units i hi)⟩
    · exact opmClaim_queues some' first ready (busy.imp id fun none' => State.freeRun_none fun b r => none' b ((run_iff b).1 r))
  · obtain ⟨frees, fails⟩ := opmRel_frees some' low fits
    have holds (i : Nat) (hi : i < n) := holds_iff s core kind (low' + i) (by show low' + i < total; omega)
    refine ⟨fun all idle => ?_, fun i hi not' before => fails i hi (fun e => not' ((holds i hi).1 e)) fun k less => (holds k (less.trans hi)).2 (before k less)⟩
    obtain ⟨t, run, passed, units⟩ := frees (fun i hi => (holds i hi).2 (all i hi)) idle
    exact ⟨t, run, passed, fun i hi => (free_iff t (low' + i)).1 (units i hi)⟩

end Sys2Proof.Proofs.Units
end

section
/-! SUPPORT. An instruction that begins to wait with its operands captured (R41, R142, R326), and the queue of a core's matrix engine. -/

namespace Sys2Proof.Machine

open Sys2Proof.Claims

/-! ### A wait that keeps more than its guard -/

/-- R20, R41, R42: what an issue does before it begins to wait: its token is raised, its threads' countdown begins, and its guard is kept. -/
structure HasBegun (s d : State) (h : Hdr) : Prop where
  state : d = { s with groups := d.groups, cur := { s.cur with caps := s.keptCaps h } }
  present : ∀ k q, d.hasGroup k q = s.hasGroup k q
  others : ∀ k q, gkey k q ≠ gkey s.cur.core s.cur.slot → d.group k q = s.group k q
  here : d.group s.cur.core s.cur.slot = { s.group s.cur.core s.cur.slot with
    threads := (d.group s.cur.core s.cur.slot).threads, tokens := (d.group s.cur.core s.cur.slot).tokens }
  token : TokenUp s d h
  length : (d.group s.cur.core s.cur.slot).threads.length = (s.group s.cur.core s.cur.slot).threads.length
  thread : ∀ l, l < (s.group s.cur.core s.cur.slot).threads.length →
    d.thread s.cur.core s.cur.slot l = if s.cur.lanes.getLsbD l then { mine s l with stall := h.stall.toNat } else mine s l

theorem Group.of_waits {g k : Group} {x y : List Waiting} {a : List Thread} {b : Tbl Nat} (same : { g with waits := x } = { k with threads := a, tokens := b, waits := y })
    (waits : g.waits = k.waits) : g = { k with threads := g.threads, tokens := g.tokens } := by
  cases g
  cases k
  simp_all

/-- Read off from a wait that begins at once. -/
theorem State.beginWait_first {s : State} (first : First s) (h : Hdr) : HasBegun s (s.beginWait h) h := by
  obtain ⟨phase, -, caps, -, -, present⟩ := first
  have begun := State.waitFor_begins phase (by rw [caps]; rfl) present h .timeBaseTick .event 0
  let d := s.beginWait h
  let w : Waiting := ⟨d.fresh, { d.cur with phase := d.cur.phase + 1 }, .timeBaseTick, .event, 0⟩
  let e := d.modGroup d.cur.core d.cur.slot (fun g => { g with waits := g.waits ++ [w] })
  have run : s.waitFor h .timeBaseTick .event 0 = e.tickFresh := rfl
  obtain ⟨state, there, others, here, token, length, thread⟩ := begun
  rw [run] at state there others here token length thread
  have same : e = { d with groups := e.groups } := d.modGroup_groups _ _ _
  have cur : d.cur = { s.cur with caps := s.keptCaps h } := by
    have : d.cur = e.cur := by rw [same]
    rw [this]
    exact congrArg State.cur state
  have fresh : d.fresh = s.fresh := by
    have : e.fresh + 1 = s.fresh + 1 := congrArg State.fresh state
    rw [same] at this
    exact Nat.succ.inj this
  have dpresent (k q : Nat) : d.hasGroup k q = s.hasGroup k q := by rw [← there]; exact (d.modGroup_present _ _ _ _ _).symm
  have core : d.cur.core = s.cur.core := by rw [cur]
  have slot : d.cur.slot = s.cur.slot := by rw [cur]
  have group : e.group s.cur.core s.cur.slot = { d.group s.cur.core s.cur.slot with waits := (d.group s.cur.core s.cur.slot).waits ++ [w] } := by
    show (d.modGroup d.cur.core d.cur.slot _).group _ _ = _
    rw [core, slot]
    exact State.modGroup_self d _ ((dpresent _ _).trans present)
  have threads : (e.group s.cur.core s.cur.slot).threads = (d.group s.cur.core s.cur.slot).threads := by rw [group]
  have tokens : (e.group s.cur.core s.cur.slot).tokens = (d.group s.cur.core s.cur.slot).tokens := by rw [group]
  refine ⟨?_, dpresent, fun k q ne => ?_, ?_, fun k => ?_, ?_, fun l hl => ?_⟩
  · have back : d = { e.tickFresh with groups := d.groups, fresh := d.fresh } := by
      rw [State.tickFresh, same]
    show d = _
    rw [back, state, fresh]
  · rw [← others k q ne]
    exact (State.modGroup_other d _ (by rw [core, slot]; exact ne)).symm
  · have here' : e.group s.cur.core s.cur.slot = _ := here
    rw [group] at here'
    have waits : (d.group s.cur.core s.cur.slot).waits = (s.group s.cur.core s.cur.slot).waits := (List.append_inj' (congrArg Group.waits here') rfl).1
    exact Group.of_waits here' waits
  · rw [← token k]
    exact congrArg (fun t => tblGet 0 t k) tokens.symm
  · rw [← threads]
    exact length
  · rw [← thread l hl]
    exact congrArg (fun t => t.getD l {}) threads.symm

/-- The preds of every thread stand as before. -/
theorem HasBegun.preds {s d : State} {h : Hdr} (b : HasBegun s d h) (l : Nat) : (d.thread s.cur.core s.cur.slot l).preds = (s.thread s.cur.core s.cur.slot l).preds := by
  by_cases hl : l < (s.group s.cur.core s.cur.slot).threads.length
  · rw [b.thread l hl]
    split <;> rfl
  · have out {t : State} (short : ¬ l < (t.group s.cur.core s.cur.slot).threads.length) : t.thread s.cur.core s.cur.slot l = {} := by
      rw [State.thread, Group.thread, List.getD_eq_default _ _ (not_lt.1 short)]
    rw [out hl, out (by rw [b.length]; exact hl)]

/-- What else waiting leaves, of a state in which an issue has begun to wait with more captured: the wait is numbered by the next fresh number. -/
structure WaitsHeld (s t : State) (h : Hdr) (c : WaitCond) (l : List Nat) : Prop where
  waits : Waits s t h c
  token : TokenUp s t h
  frame : t = { s with groups := t.groups, cur := t.cur, fresh := s.fresh + 1 }
  held : ∃ w, (t.group s.cur.core s.cur.slot).waits = (s.group s.cur.core s.cur.slot).waits ++ [w] ∧ w.id = s.fresh ∧ w.iss.nums = l

/-- R41, R142: the active threads of a first issue wait with more than their guard captured. -/
theorem State.waitActive_held {s : State} (first : First s) (h : Hdr) (caps : Tbl (BitVec 32)) (kept : (tblFind caps actKey).isSome = true) (l : List Nat) (i : Instr) (c : WaitCond) (row : Nat) :
    WaitsHeld s (({ s.beginWait h with cur := { s.cur with caps := caps, nums := l } } : State).waitActive h i c row) h c l := by
  have begun := State.beginWait_first first h
  generalize s.beginWait h = d at begun
  obtain ⟨phase, -, -, -, -, present⟩ := first
  let u : State := { d with cur := { s.cur with caps := caps, nums := l } }
  let rest := s.cur.lanes &&& ~~~ s.active h
  let v := u.modLanes s.cur.core s.cur.slot rest (fun _ t => { t with pos := seqPos s.cur.pos, came := false, stall := h.stall.toNat })
  let w : Waiting := ⟨s.fresh, { s.cur with caps := caps, nums := l, lanes := s.active h, phase := 1 }, i, c, row⟩
  let x : State := { v with cur := { s.cur with caps := caps, nums := l, lanes := s.active h } }
  have act : u.active h = s.active h := by
    have preds (k : Nat) : (u.thread s.cur.core s.cur.slot k).preds = (s.thread s.cur.core s.cur.slot k).preds := begun.preds k
    have early : ¬ s.cur.phase > 0 := by rw [phase]; exact Nat.lt_irrefl 0
    rw [State.active, State.active, if_neg early, if_neg (show ¬ u.cur.phase > 0 from early)]
    show maskOf ((lanesOf s.cur.lanes).filter (fun k => (u.thread s.cur.core s.cur.slot k).pred h.pred.toNat != (h.neg == 1))) = _
    simp only [Thread.pred, preds]
  have ufresh : u.fresh = s.fresh := by
    show d.fresh = _
    rw [begun.state]
  have run : u.waitActive h i c row = (x.modGroup s.cur.core s.cur.slot (fun g => { g with waits := g.waits ++ [w] })).tickFresh := by
    have vfresh : v.fresh = s.fresh := by
      rw [show v.fresh = u.fresh by simp [v], ufresh]
    rw [State.waitActive, if_neg (show ¬ s.cur.phase > 0 by rw [phase]; exact Nat.lt_irrefl 0), act]
    show State.waitFor x h i c row = _
    have quiet : x.beginWait h = x := by
      rw [State.beginWait, if_pos]
      rw [show (tblFind x.cur.caps actKey).isSome = true from kept, Bool.or_true]
    rw [State.waitFor, quiet]
    show (x.modGroup s.cur.core s.cur.slot (fun g => { g with waits := g.waits ++ [⟨v.fresh, { s.cur with caps := caps, nums := l, lanes := s.active h, phase := s.cur.phase + 1 }, i, c, row⟩] })).tickFresh = _
    rw [vfresh, phase]
  have there : u.hasGroup s.cur.core s.cur.slot = true := (begun.present _ _).trans present
  have xthere : x.hasGroup s.cur.core s.cur.slot = true := (u.modGroup_present _ _ _ _ _).trans there
  have vhere : x.group s.cur.core s.cur.slot = (d.group s.cur.core s.cur.slot).modLanes rest (fun _ t => { t with pos := seqPos s.cur.pos, came := false, stall := h.stall.toNat }) :=
    State.modGroup_self u _ there
  have here : (u.waitActive h i c row).group s.cur.core s.cur.slot = { x.group s.cur.core s.cur.slot with waits := (x.group s.cur.core s.cur.slot).waits ++ [w] } := by
    rw [run]
    exact State.modGroup_self x _ xthere
  have others (k q : Nat) (ne : gkey k q ≠ gkey s.cur.core s.cur.slot) : (u.waitActive h i c row).group k q = s.group k q := by
    rw [run]
    exact (State.modGroup_other x _ ne).trans ((State.modGroup_other u _ ne).trans (begun.others k q ne))
  have frame : u.waitActive h i c row = { s with groups := (u.waitActive h i c row).groups, cur := (u.waitActive h i c row).cur, fresh := s.fresh + 1 } := by
    have xframe : x = { s with groups := x.groups, cur := x.cur } := by
      have : x = { d with groups := x.groups, cur := x.cur } := by
        show ({ v with cur := x.cur } : State) = _
        rw [show v = { u with groups := v.groups } from u.modGroup_groups _ _ _]
      rw [this, begun.state]
    rw [run, State.tickFresh, x.modGroup_groups, xframe]
  have waits : ((u.waitActive h i c row).group s.cur.core s.cur.slot).waits = (s.group s.cur.core s.cur.slot).waits ++ [w] := by
    rw [here, vhere, begun.here]
    rfl
  show WaitsHeld s (u.waitActive h i c row) h c l
  clear_value x
  generalize u.waitActive h i c row = t at *
  refine ⟨⟨⟨by rw [frame], by rw [frame], fun k q ne => by rw [others k q ne]⟩, by rw [State.wg, State.wg, frame], ⟨w, waits, rfl, rfl⟩, fun k hk => ?_⟩, fun k => ?_, frame, w, waits, rfl, rfl⟩
  · have inside := s.active_lane phase h (l := k)
    have restBit : rest.getLsbD k = (s.cur.lanes.getLsbD k && !(s.active h).getLsbD k) := by
      by_cases small : k < 32
      · simp [rest, small]
      · simp [rest, BitVec.getLsbD_of_ge _ _ (not_lt.1 small)]
    have at_k : t.thread s.cur.core s.cur.slot k = if rest.getLsbD k then { d.thread s.cur.core s.cur.slot k with pos := seqPos s.cur.pos, came := false, stall := h.stall.toNat } else d.thread s.cur.core s.cur.slot k := by
      rw [State.thread, here, vhere]
      exact Group.modLanes_thread _ _ _ _ (by rw [begun.length]; exact hk)
    rw [at_k, restBit, begun.thread k hk]
    by_cases a : (s.active h).getLsbD k = true
    · simp [a, inside a]
    · by_cases b : s.cur.lanes.getLsbD k = true <;> simp [a, b]
  · rw [← begun.token k, here, vhere]
    rfl

/-! ### The queue of a core's matrix engine -/

/-- Every core's queue stands as before. -/
def QueuesKept (s t : State) : Prop := ∀ c, (t.core c).mq = (s.core c).mq

namespace QueuesKept

theorem refl (s : State) : QueuesKept s s := fun _ => rfl

theorem trans {s t u : State} (h : QueuesKept s t) (k : QueuesKept t u) : QueuesKept s u := fun c => (k c).trans (h c)

theorem of_cores {s t : State} (cores : t.cores = s.cores) : QueuesKept s t := fun c => by rw [State.core, State.core, cores]

theorem foldl {α : Type} {f : State → α → State} (hf : ∀ s a, QueuesKept s (f s a)) (l : List α) (s : State) : QueuesKept s (l.foldl f s) := by
  induction l generalizing s with
  | nil => exact refl s
  | cons a r ih => exact (hf s a).trans (ih _)

theorem modCore (s : State) (k : Nat) (f : Core → Core) (hf : ∀ x, (f x).mq = x.mq := by intro _; rfl) : QueuesKept s (s.modCore k f) := fun c => by
  by_cases e : c = k
  · rw [e, s.modCore_self, hf]
  · rw [s.modCore_other f e]

theorem modGroup (s : State) (core slot : Nat) (f : Group → Group) : QueuesKept s (s.modGroup core slot f) := of_cores (by rw [s.modGroup_groups])

theorem tokDown (s : State) (core slot k : Nat) : QueuesKept s (s.tokDown core slot k) := by
  unfold State.tokDown
  split
  · exact refl s
  · exact modGroup s _ _ _

theorem noteLoads (s : State) (w : Nat) (l : List Long) : QueuesKept s (s.noteLoads w l) := of_cores (by unfold State.noteLoads; split <;> rfl)

theorem release (s : State) (core ctx : Nat) (w : Word) : QueuesKept s (s.release core ctx w) := fun c => by
  have step := (LandStep.release s 0 0 core ctx w).coreKept c
  rw [step]

theorem writeReg (s : State) (core slot lane r : Nat) (v : Word) (tag : Bool) : QueuesKept s (s.writeReg core slot lane r v tag) := by
  unfold State.writeReg
  split
  · exact refl s
  · have noted : QueuesKept s (s.noteFirst (s.wgOf core slot) [(0, (s.group core slot).idx, r)]) := of_cores (by unfold State.noteFirst; split <;> rfl)
    have written := noted.trans ((modGroup _ core slot fun g => { g with threads := g.threads.modify lane (fun t => { t with regs := tblSet {} t.regs r ⟨v, tag⟩ }) }).trans
      (modGroup _ core slot fun g => { g with masks := g.masks.filter (fun m => !(m.lane = lane && m.reg = r)) }))
    dsimp only
    split
    · exact written.trans (release _ _ _ _)
    · exact written

theorem landLane (s : State) (id core slot ctx : Nat) (rep : Bool) (w : LaneWrite) : QueuesKept s (s.landLane id core slot ctx rep w) := by
  unfold State.landLane
  dsimp only
  split_ifs
  · exact (writeReg s core slot _ _ _ _).trans (modCore _ _ _)
  · exact release s _ _ _
  · exact refl s

theorem land (s : State) (id : Nat) (p : Pend) : QueuesKept s (s.land id p) := by
  unfold State.land
  have threads (u : State) {α : Type} (k : α → Nat) (f : α → Thread → Thread) (l : List α) : QueuesKept u (l.foldl (fun s q => s.modThread p.core p.slot (k q) (f q)) u) :=
    foldl (fun u q => modGroup u _ _ _) l u
  have writes (u : State) : QueuesKept u (p.writes.foldl (fun u w => u.landLane id p.core p.slot (s.ctxOfWg (s.wgOf p.core p.slot)) (s.replaying (s.wgOf p.core p.slot)) w) u) :=
    foldl (fun u w => landLane u _ _ _ _ _ w) _ u
  have all := (((threads s (fun q => q.1) (fun q t => t.srWrite q.2.1 q.2.2) p.srs).trans (writes _)).trans
    (threads _ (fun q => q.1) (fun q t => t.setPred q.2.1 q.2.2) p.preds)).trans (threads _ (fun q => q.1) (fun q t => { t with fpflags := t.fpflags ||| q.2 }) p.flags)
  dsimp only
  split
  · exact all.trans (of_cores rfl)
  · exact all

theorem haltWg (s : State) (w : Nat) (part : Option Nat) (r : HaltRec) : QueuesKept s (s.haltWg w part r) := of_cores (by rw [(HaltFrame.haltWg s w part r).state])

theorem stopGroup (s : State) (core slot : Nat) (m lanes : BitVec 32) (r : HaltRec) : QueuesKept s (s.stopGroup core slot m lanes r) := by
  unfold State.stopGroup
  exact (modGroup s core slot _).trans (haltWg _ _ _ _)

theorem loadFault (s : State) (p : Pend) (lane : Nat) (b : Bad) : QueuesKept s (s.loadFault p lane b) := by
  unfold State.loadFault State.completionFault
  exact QueuesKept.trans (t := (s.machineCheck b.unit 3 b.index b.loc (s.ctxOfWg (s.wgOf p.core p.slot))).tokDown p.core p.slot p.tok)
    (tokDown (s.machineCheck b.unit 3 b.index b.loc (s.ctxOfWg (s.wgOf p.core p.slot))) _ _ _) (stopGroup _ _ _ _ _ _)

end QueuesKept

end Sys2Proof.Machine

namespace Sys2Proof.Proofs.Matrix

open Sys2Proof.Machine Sys2Proof.Claims

/-! ### The engine (R317, R320, R322) -/

/-- R317: what a table of computed words lists. -/
theorem tblGet_filterMap (v : Nat → Word) (l : List Nat) (e : Nat) : tblGet 0 (l.filterMap (fun k => if v k = 0 then none else some (k, v k))) e = if e ∈ l then v e else 0 := by
  induction l with
  | nil => rfl
  | cons a r ih =>
    by_cases zero : v a = 0
    · rw [List.filterMap_cons_none (by rw [if_pos zero]), ih]
      by_cases same : e = a
      · subst same
        simp [zero]
      · simp [same]
    · rw [List.filterMap_cons_some (by rw [if_neg zero])]
      by_cases same : e = a
      · subst same
        simp [tblGet, tblFind]
      · rw [tblGet, tblFind, if_neg (Ne.symm same), ← tblGet, ih]
        simp [same]

section Engine

variable {s : State} {core : Nat} {o : MmaOp}

/-- R320: an operation of the queue is under way. -/
theorem startOp_runs (s : State) (core : Nat) (o : MmaOp) (due : Nat) : ∀ x ∈ ((s.startOp core o due).core core).mq, x.id = o.id → x.running = true ∧ x.due = due := by
  rw [State.startOp, State.modCore_self]
  intro x hx same
  obtain ⟨y, -, e⟩ := List.mem_map.1 hx
  split at e
  · rw [← e]
    exact ⟨rfl, rfl⟩
  next other => exact absurd (by rw [e]; exact same) other

theorem mmaStart_runs (next : s.nextOp core = some o) (kind : o.kind = 0) : ∃ t, exec (.mmaStart core) s = .next t ∧
    let due := (s.core core).cycles + 16 + (if o.control.toNat % 4 = 0 then 128 else 256) * s.chunksDone core o
    (∀ x ∈ (t.core core).mq, x.id = o.id → x.running = true ∧ x.due = due) ∧ ⟨core + 1, due, .mmaComplete core⟩ ∈ t.timers := by
  refine ⟨(s.startOp core o ((s.core core).cycles + o.cycles (s.chunksDone core o))).inCycles core (o.cycles (s.chunksDone core o)) (.mmaComplete core), ?_, ?_⟩
  · show execMmaStart core s = _
    simp only [execMmaStart, next, kind]
    rfl
  · have due : (s.core core).cycles + 16 + (if o.control.toNat % 4 = 0 then 128 else 256) * s.chunksDone core o = (s.core core).cycles + o.cycles (s.chunksDone core o) := by
      rw [MmaOp.cycles, ctlFormat, Nat.add_assoc]
    rw [due]
    refine ⟨startOp_runs s core o _, ?_⟩
    have cycles : ((s.startOp core o ((s.core core).cycles + o.cycles (s.chunksDone core o))).core core).cycles = (s.core core).cycles := by
      rw [State.startOp, State.modCore_self]
    have added := State.mem_inCycles (s.startOp core o ((s.core core).cycles + o.cycles (s.chunksDone core o))) core (o.cycles (s.chunksDone core o)) (.mmaComplete core)
    rw [cycles] at added
    exact added

/-- R328, R329: the result of an operation that starts is due. -/
theorem startOp_due (s : State) (core : Nat) (o : MmaOp) {u : State} (units : UnitsStep (s.startOp core o 0) u) (id : Nat) (f : Pend → Pend) (n : Nat) (ev : Instr) :
    ⟨core + 1, (s.core core).cycles + n, ev⟩ ∈ ((u.modPend id f).inCycles core n ev).timers ∧
      ∀ x ∈ (((u.modPend id f).inCycles core n ev).core core).mq, x.id = o.id → x.running = true := by
  have core' : (u.modPend id f).core = u.core := by
    unfold State.modPend
    split <;> rfl
  have start : (s.startOp core o 0).core core = { s.core core with mq := ((s.startOp core o 0).core core).mq } := by
    rw [State.startOp, State.modCore_self]
  have cycles : ((u.modPend id f).core core).cycles = (s.core core).cycles := by
    rw [core', units.core, start]
  have added := State.mem_inCycles (u.modPend id f) core n ev
  rw [cycles] at added
  refine ⟨added, fun x hx same => (startOp_runs s core o 0 x ?_ same).1⟩
  have mq : (((u.modPend id f).inCycles core n ev).core core).mq = ((s.startOp core o 0).core core).mq := by
    show ((u.modPend id f).core core).mq = _
    rw [core', units.core]
  rwa [mq] at hx

theorem mmaStart_clears {p : Pend} (next : s.nextOp core = some o) (kind : o.kind = 1) (found : tblFind s.pends o.id = some p) : ∃ t p', exec (.mmaStart core) s = .next t ∧
    (∀ x ∈ (t.core core).mq, x.id = o.id → x.running = true) ∧ tblFind t.pends o.id = some p' ∧ p'.wait = 0 ∧
    (t.bank core (o.banks.headD 0)).elems = [] ∧ ⟨core + 1, (s.core core).cycles + 4, .loadCompletion o.id⟩ ∈ t.timers := by
  let u := (s.startOp core o 0).writeBank core (o.banks.headD 0) []
  have units : UnitsStep (s.startOp core o 0) u := .writeBank (s.startOp core o 0) core (o.banks.headD 0) []
  have pend : tblFind u.pends o.id = some p := by
    rw [show u.pends = s.pends by rw [units.state]; rfl]
    exact found
  obtain ⟨due, runs⟩ := startOp_due s core o units o.id (fun p => { p with wait := 0 }) 4 (.loadCompletion o.id)
  refine ⟨(u.modPend o.id (fun p => { p with wait := 0 })).inCycles core 4 (.loadCompletion o.id), { p with wait := 0 }, ?_, runs, u.modPend_found _ pend, rfl, ?_, due⟩
  · show execMmaStart core s = _
    simp only [execMmaStart, next, kind, found]
    rfl
  · have bank : ((u.modPend o.id (fun p => { p with wait := 0 })).inCycles core 4 (.loadCompletion o.id)).bank core (o.banks.headD 0) = u.bank core (o.banks.headD 0) := by
      have : (u.modPend o.id (fun p => { p with wait := 0 })).core = u.core := by
        unfold State.modPend
        split <;> rfl
      show State.bank (u.modPend o.id (fun p => { p with wait := 0 })) core _ = _
      rw [State.bank, this, State.bank]
    rw [bank]
    exact congrArg Bank.elems (State.writeBank_self _ core _ [])

theorem mmaStart_reads {p : Pend} {w l : Word} (next : s.nextOp core = some o) (kind : o.kind = 2) (found : tblFind s.pends o.id = some p) (sa : o.sa = [w]) (sb : o.sb = [l]) :
    ∃ t p', exec (.mmaStart core) s = .next t ∧ (∀ x ∈ (t.core core).mq, x.id = o.id → x.running = true) ∧ tblFind t.pends o.id = some p' ∧ p'.wait = 0 ∧
      (s.bad = [] → p'.bad = none) ∧
      p'.writes = (List.range o.lane).map (fun j => ⟨l.toNat, p.dst + j, tblGet 0 (s.bank core (w.toNat / 2 ^ 16 % 4)).elems
        (128 * (w.toNat % 2 ^ 7) + w.toNat / 2 ^ 8 % 2 ^ 7 + j), false⟩) ∧
      ⟨core + 1, (s.core core).cycles + (8 + (o.lane + 3) / 4), .loadCompletion o.id⟩ ∈ t.timers := by
  let g (p : Pend) : Pend := { p with wait := 0, writes := s.accWrites core p.dst o, bad := s.accBad core o }
  obtain ⟨due, runs⟩ := startOp_due s core o (.refl _) o.id g (8 + (o.lane + 3) / 4) (.loadCompletion o.id)
  refine ⟨((s.startOp core o 0).modPend o.id g).inCycles core (8 + (o.lane + 3) / 4) (.loadCompletion o.id), g p, ?_, runs, (s.startOp core o 0).modPend_found g found, rfl, fun good => ?_, ?_, due⟩
  · show execMmaStart core s = _
    simp only [execMmaStart, next, kind, found]
    rfl
  · show s.accBad core o = none
    rw [State.accBad, sa, sb]
    simp [State.badIn, good]
  · show s.accWrites core p.dst o = _
    have row : accRow w = w.toNat % 2 ^ 7 := by
      show w.toNat / 2 ^ 0 % 2 ^ 7 = _
      rw [Nat.pow_zero, Nat.div_one]
    rw [State.accWrites, sa, sb]
    simp only [List.zip_cons_cons, List.zip_nil_left, List.map_cons, List.map_nil, List.flatten_cons, List.flatten_nil, List.append_nil, row]
    rfl

theorem loadCompletion_leaves {p : Pend} (found : tblFind s.pends o.id = some p) (missing : p.missing = []) (wait : p.wait = 0) (unwaited : Unwaited s o.id) :
    ∃ t, exec (.loadCompletion o.id) s = .next t ∧ ∀ x ∈ (t.core p.core).mq, x.id ≠ o.id := by
  have gone : ∀ x ∈ ((s.loadGone o.id p).core p.core).mq, x.id ≠ o.id := by
    rw [State.loadGone, State.modCore_self]
    intro x hx
    exact of_decide_eq_true (List.mem_filter.1 hx).2
  cases bad : p.bad with
  | some b =>
    refine ⟨_, loadCompletion_faults ⟨found, missing, wait, unwaited⟩ bad, ?_⟩
    rw [QueuesKept.loadFault _ p b.1 b.2 p.core]
    exact gone
  | none =>
    let u := (s.loadGone o.id p).land o.id { p with writes := loadedWrites p }
    refine ⟨(u.noteLoads ((s.loadGone o.id p).wgOf p.core p.slot) (loadedValues p)).tokDown p.core p.slot p.tok, ?_, ?_⟩
    · obtain ⟨msgs, invals, gathered⟩ := unwaited
      show execLoadCompletion o.id s = _
      simp only [execLoadCompletion, found, missing, wait, msgs, invals, gathered, bad]
      rfl
    · have kept := ((QueuesKept.land (s.loadGone o.id p) o.id { p with writes := loadedWrites p }).trans (.noteLoads u ((s.loadGone o.id p).wgOf p.core p.slot) (loadedValues p))).trans
        (.tokDown _ p.core p.slot p.tok)
      rw [kept p.core]
      exact gone

/-- R317: the bank of an mma that completes, and its queue without it. -/
def mmaApplied (s : State) (core : Nat) (o : MmaOp) : State :=
  (if s.chunksDone core o = 0 then s else s.writeBank core (o.banks.headD 0) (s.mmaBank core o (s.chunksDone core o))).modCore core (fun c => { c with mq := c.mq.filter (fun x => x.id ≠ o.id) })

theorem mmaBank_lists (s : State) (core : Nat) (o : MmaOp) (n : Nat) {e : Nat} (small : e < 16384) : tblGet 0 (s.mmaBank core o n) e =
    BitVec.ofNat 32 (s.mmaElem core o n (tblGet 0 (s.bank core (o.banks.headD 0)).elems e).toNat (e / 128) (e % 128)) := by
  have listed := List.mem_range.2 small
  unfold State.mmaBank
  dsimp only
  generalize List.range 16384 = l at listed ⊢
  exact (tblGet_filterMap (fun e => BitVec.ofNat 32 (s.mmaElem core o n (tblGet 0 (s.bank core (o.banks.headD 0)).elems e).toNat (e / 128) (e % 128))) l e).trans (if_pos listed)

theorem mmaApplied_bank (s : State) (core : Nat) (o : MmaOp) {e : Nat} (small : e < 16384) : tblGet 0 ((mmaApplied s core o).bank core (o.banks.headD 0)).elems e =
    BitVec.ofNat 32 (s.mmaElem core o (s.chunksDone core o) (tblGet 0 (s.bank core (o.banks.headD 0)).elems e).toNat (e / 128) (e % 128)) := by
  have bank : (mmaApplied s core o).bank core (o.banks.headD 0) =
      (if s.chunksDone core o = 0 then s else s.writeBank core (o.banks.headD 0) (s.mmaBank core o (s.chunksDone core o))).bank core (o.banks.headD 0) := by
    rw [mmaApplied, State.bank, State.modCore_self, State.bank]
  rw [bank]
  split
  next zero =>
    rw [zero]
    show _ = BitVec.ofNat 32 (tblGet 0 (s.bank core (o.banks.headD 0)).elems e).toNat
    rw [BitVec.ofNat_toNat, BitVec.setWidth_eq]
  next =>
    rw [State.writeBank_self]
    dsimp only
    exact mmaBank_lists s core o (s.chunksDone core o) small

theorem mmaApplied_frame (s : State) (core : Nat) (o : MmaOp) : (mmaApplied s core o).mem = s.mem ∧ (mmaApplied s core o).mcNext = s.mcNext ∧
    (∀ w, ((mmaApplied s core o).wg w).halt = (s.wg w).halt) ∧ ∀ x ∈ ((mmaApplied s core o).core core).mq, x.id ≠ o.id := by
  have halt (w : Nat) : ((s.writeBank core (o.banks.headD 0) (s.mmaBank core o (s.chunksDone core o))).wg w).halt = (s.wg w).halt := by
    have noted := (LandStep.noteFirst s 0 0 (s.bank core (o.banks.headD 0)).holder [(4, o.banks.headD 0, 0)]).wgKept w
    show ((s.noteFirst (s.bank core (o.banks.headD 0)).holder [(4, o.banks.headD 0, 0)]).wg w).halt = _
    rw [noted]
  have units := UnitsStep.writeBank s core (o.banks.headD 0) (s.mmaBank core o (s.chunksDone core o))
  have mem : (s.writeBank core (o.banks.headD 0) (s.mmaBank core o (s.chunksDone core o))).mem = s.mem := by rw [units.state]
  have next : (s.writeBank core (o.banks.headD 0) (s.mmaBank core o (s.chunksDone core o))).mcNext = s.mcNext := by rw [units.state]
  rw [mmaApplied]
  refine ⟨?_, ?_, fun w => ?_, fun x hx => ?_⟩
  · split
    · rfl
    · exact mem
  · split
    · rfl
    · exact next
  · split
    · rfl
    · exact halt w
  · rw [State.modCore_self] at hx
    exact of_decide_eq_true (List.mem_filter.1 hx).2

theorem mmaComplete_applies (done : (s.core core).mq.find? (fun x => x.running && x.kind = 0 && x.due ≤ (s.core core).cycles) = some o) : let n := s.chunksDone core o
    ∃ t, exec (.mmaComplete core) s = .next t ∧ t.mem = s.mem ∧
    (∀ x ∈ (t.core core).mq, x.id ≠ o.id) ∧ (∀ e, e < 16384 → tblGet 0 (t.bank core (o.banks.headD 0)).elems e =
      BitVec.ofNat 32 (s.mmaElem core o n (tblGet 0 (s.bank core (o.banks.headD 0)).elems e).toNat (e / 128) (e % 128))) ∧
    ∀ x, s.badChunk core o = some x → t.mcNext = s.mcNext + 1 ∧ ((s.wg o.wg).halt = none → ∃ r, (t.wg o.wg).halt = some r ∧ r.code = 0x12 ∧ r.kind = 2) := by
  intro n
  obtain ⟨mem, next, halt, left⟩ := mmaApplied_frame s core o
  have elems (e : Nat) (small : e < 16384) := mmaApplied_bank s core o small
  have run (t : State) (e : (match s.badChunk core o with | some x => (mmaApplied s core o).engineBad o.wg x.2 | none => mmaApplied s core o) = t) : exec (.mmaComplete core) s = .next t := by
    show execMmaComplete core s = _
    rw [execMmaComplete, done, ← e]
    rfl
  generalize mmaApplied s core o = u at *
  cases bad : s.badChunk core o with
  | none => exact ⟨u, run u (by rw [bad]), mem, left, elems, fun x h => nomatch h⟩
  | some x =>
    refine ⟨u.engineBad o.wg x.2, run _ (by rw [bad]), ?_⟩
    let v := u.machineCheck x.2.unit 3 x.2.index x.2.loc (u.ctxOfWg o.wg)
    let r : HaltRec := { code := cUNCORR, kind := 2, lanes := 0, pos := 0, tvalue := BitVec.ofNat 64 u.mcNext, time := v.tick, mc := BitVec.ofNat 32 u.mcNext }
    have frame : HaltFrame v (u.engineBad o.wg x.2) := HaltFrame.haltWg v o.wg none r
    have halts (running : (u.wg o.wg).halt = none) : ((u.engineBad o.wg x.2).wg o.wg).halt = some r := State.haltWg_halt v o.wg none r running
    generalize u.engineBad o.wg x.2 = t at frame halts
    have core' : t.core = u.core := by
      rw [frame.state]
      rfl
    refine ⟨?_, ?_, ?_, fun y hy => ⟨?_, fun running => ⟨r, halts ((halt _).trans running), rfl, rfl⟩⟩⟩
    · rw [frame.state]
      exact mem
    · rw [core']
      exact left
    · rw [State.bank, core']
      exact elems
    · rw [frame.state, ← next]
      rfl

end Engine

theorem matrixEngine : MatrixEngine := by
  intro s core o cycles n
  refine ⟨fun good => ?_, fun kc b bad => ?_, mmaStart_runs, fun p => mmaStart_clears, fun p w l => mmaStart_reads, fun p => loadCompletion_leaves, mmaComplete_applies⟩
  · show s.chunksDone core o = _
    rw [State.chunksDone, good]
    rfl
  · show s.chunksDone core o = _
    rw [State.chunksDone, bad]
    rfl

/-! ### The instructions (R318, R326-R329) -/

section Instructions

variable {s : State} {h : Hdr} {f : FmtE}

theorem ctlChunks_word (l : List Byte) (four : l.length = 4) : ctlChunks (BitVec.ofNat 32 (leNat l)) = leNat l / 4 % 8 + 1 := by
  have small := leNat_lt l
  rw [four, show 256 ^ 4 = 2 ^ 32 from rfl] at small
  rw [ctlChunks, BitVec.toNat_ofNat, Nat.mod_eq_of_lt small]
  rfl

theorem mma_waits (first : First s) (some' : s.active h ≠ 0) (ready : Ready s (s.active h) [.reg f.a.toNat] [] []) : let off := (s.selWord (s.lowLane h) f.a.toNat).toNat
    ∃ t id, exec (.mma h f) s = .next t ∧ Waits s t h .event ∧ TokenUp s t h ∧
      ⟨s.cur.core + 1, (s.core s.cur.core).cycles + 8 + 2 * ((leNat (tabBytes (s.wg s.curWg).sp off 4)) / 4 % 8 + 1), .mmaAccept s.cur.core s.cur.slot id⟩ ∈ t.timers := by
  intro off
  let nk := ctlChunks (BitVec.ofNat 32 (leNat (tabBytes (s.wg s.curWg).sp off 4)))
  let caps := ((s.beginWait h).capture (s.active h) (srcRegs [.reg f.a.toNat])).cur.caps
  have begun := State.beginWait_first first h
  have kept : (tblFind caps actKey).isSome = true := (s.beginWait h).capture_keeps _ _ (by rw [begun.state]; exact s.keptCaps_act h)
  have held := State.waitActive_held first h caps kept (lanesOf (s.active h)) (.mma h f) .event 4
  have dcur : (s.beginWait h).cur = { s.cur with caps := s.keptCaps h } := by rw [begun.state]
  let u := ((s.beginWait h).capture (s.active h) (srcRegs [.reg f.a.toNat])).carry (lanesOf (s.active h))
  have capt : u = { s.beginWait h with cur := { s.cur with caps := caps, nums := lanesOf (s.active h) } } := by
    show ({ s.beginWait h with cur := { (s.beginWait h).cur with caps := caps, nums := lanesOf (s.active h) } } : State) = _
    rw [dcur]
  rw [← capt] at held
  have run : exec (.mma h f) s = .next ((u.waitActive h (.mma h f) .event 4).inCycles s.cur.core (8 + 2 * nk) (.mmaAccept s.cur.core s.cur.slot u.fresh)) := by
    show execMma h f s = _
    unfold execMma
    dsimp only
    rw [if_neg (by rw [first.2.1]; exact List.cons_ne_nil _ _ ∘ Eq.symm), State.withOperandsLate_ready _ _ _ _ _ _ _ _ _ _ _ ready, if_neg some']
  obtain ⟨waits, token, frame, -⟩ := held
  clear_value u
  generalize u.waitActive h (.mma h f) .event 4 = t at *
  refine ⟨_, u.fresh, run, waits, token, ?_⟩
  have added := State.mem_inCycles t s.cur.core (8 + 2 * nk) (.mmaAccept s.cur.core s.cur.slot u.fresh)
  have core : t.core = s.core := by
    rw [frame]
    rfl
  rw [core, ← Nat.add_assoc] at added
  rw [← show nk = _ from ctlChunks_word _ (by simp [tabBytes])]
  exact added

theorem mmaWait_waits (first : First s) (some' : s.active h ≠ 0) : let ids := ((s.core s.cur.core).mq.filter (fun o => o.kind == 0 && o.wg == s.curWg && o.banks.any (fun b => f.par.toNat.testBit b))).map MmaOp.id
    (ids = [] → Retires s h (exec (.mmaWait h f) s) (fun _ => seqPos s.cur.pos) (fun _ x => x)) ∧
    (ids ≠ [] → ∃ t, exec (.mmaWait h f) s = .next t ∧ Waits s t h (.gone ids [])) := by
  intro ids
  have early : ¬ s.cur.phase > 0 := by rw [first.1]; exact Nat.lt_irrefl 0
  have same : ((s.core s.cur.core).mq.filter (fun o => o.kind = 0 && o.wg = s.curWg && o.banks.any (fun b => bit f.par.toNat b))).map MmaOp.id = ids := by
    simp only [bit_eq_testBit]
    rfl
  have run : exec (.mmaWait h f) s = .next (if s.active h = 0 || ids.isEmpty then s.retireSeq h else s.waitActive h (.mmaWait h f) (.gone ids []) 7) := by
    show execMmaWait h f s = _
    unfold execMmaWait
    dsimp only
    rw [if_neg early, same]
  clear_value ids
  refine ⟨fun none' => ?_, fun some'' => ⟨_, run.trans (congrArg Host.Outcome.next (if_neg ?_)), waits_first (.first first) first h _ _ 7⟩⟩
  · rw [run, none', if_pos (by simp)]
    exact retires_of_retire first h _
  · rw [decide_eq_false some', Bool.false_or, List.isEmpty_iff]
    exact some''

theorem mma_goesOn (present : s.hasGroup s.cur.core s.cur.slot = true) (late : s.cur.phase > 0) (nums : s.cur.nums = [9]) :
    (∃ t, exec (.mma h f) s = .next t ∧ Passed s t h) ∧ ∃ t, exec (.mmaWait h f) s = .next t ∧ Passed s t h := by
  have cur : (s.doneNow h).cur = s.cur := by
    rw [State.doneNow, if_pos late]
    simp
  have done : Passed s ((s.doneNow h).retireSeq h) h := by
    rw [State.retireSeq, cur]
    exact (State.done_passes present late h _).1
  exact ⟨⟨_, congrArg Host.Outcome.next (if_pos nums), done⟩, _, congrArg Host.Outcome.next (if_pos late), done⟩

/-- R328, R329: an operation enters the queue of its core with its result under way. -/
theorem queues_passes (first : First s) (h : Hdr) (p : Pend) (o : MmaOp) : let t := (((s.takeToken h).addPend p).modCore s.cur.core (fun c => { c with mq := c.mq ++ [o] })).retireSeq h
    Passed s t h ∧ TokenUp s t h ∧ tblFind t.pends s.fresh = some p ∧ (t.core s.cur.core).mq = (s.core s.cur.core).mq ++ [o] := by
  intro t
  obtain ⟨passed, token, retired⟩ := passes_beside (v := ((s.takeToken h).addPend p).modCore s.cur.core (fun c => { c with mq := c.mq ++ [o] })) first h (.refl s)
    (Beside.trans (t := (s.takeToken h).addPend p) (.of_wgs rfl rfl rfl rfl rfl) (.modCore _ _ _))
  refine ⟨passed, token, ?_, ?_⟩
  · rw [retired.pends]
    have fresh : (s.takeToken h).fresh = s.fresh := by simp
    show tblFind (tblPut (s.takeToken h).pends (s.takeToken h).fresh p) s.fresh = _
    rw [fresh]
    exact tblFind_tblPut_self _ _ _
  · rw [retired.core, State.modCore_self]
    show ((s.takeToken h).core s.cur.core).mq ++ [o] = _
    simp

/-- R328: acc.ld's result under way, until its operation has read the banks. -/
def accPend (s : State) (h : Hdr) (f : FmtE) : Pend where
  core := s.cur.core
  slot := s.cur.slot
  kind := 5
  path := s.cur.path
  lanes := s.cur.lanes
  act := s.active h
  pos := s.cur.pos
  tok := h.tok.toNat
  wait := 1
  dst := f.b.toNat
  eas := (lanesOf (s.active h)).map (fun l => (l, (s.selWord l f.a.toNat).setWidth 64))
  writes := ((lanesOf (s.active h)).map (fun l => (List.range (f.par.toNat % 64 + 1)).map (fun j => (⟨l, f.b.toNat + j, 0, false⟩ : LaneWrite)))).flatten

/-- R328: the operation of an acc.ld, with its position words. -/
def accOp (s : State) (h : Hdr) (f : FmtE) : MmaOp where
  id := s.fresh
  kind := 2
  wg := s.curWg
  slot := s.cur.slot
  lane := f.par.toNat % 64 + 1
  banks := ((lanesOf (s.active h)).map (fun l => accBank (s.selWord l f.a.toNat))).eraseDups
  sa := (lanesOf (s.active h)).map (fun l => s.selWord l f.a.toNat)
  sb := (lanesOf (s.active h)).map (fun l => BitVec.ofNat 32 l)

theorem accLd_queues (first : First s) (some' : s.active h ≠ 0) (ready : Ready s (s.active h) [.reg f.a.toNat] ((List.range (f.par.toNat % 64 + 1)).map (fun j => f.b.toNat + j)) [])
    (good : ∀ l ∈ lanesOf (s.active h), s.holdsBank s.cur.core s.curWg ((s.selWord l f.a.toNat).toNat / 2 ^ 16 % 4) = true ∧ (s.selWord l f.a.toNat).toNat / 2 ^ 8 % 2 ^ 7 + (f.par.toNat % 64 + 1) ≤ 128) :
    ∃ t p o, exec (.accLd h f) s = .next t ∧ Passed s t h ∧ TokenUp s t h ∧ UnderWay s t h s.fresh p ∧ p.wait = 1 ∧
        (t.core s.cur.core).mq = (s.core s.cur.core).mq ++ [o] ∧ o.id = s.fresh ∧ o.kind = 2 := by
  obtain ⟨passed, token, pend, queue⟩ := queues_passes first h (accPend s h f) (accOp s h f)
  refine ⟨_, accPend s h f, accOp s h f, ?_, passed, token, ⟨pend, rfl, rfl, rfl, rfl, rfl, rfl, rfl, rfl, fun _ => rfl⟩, rfl, queue, rfl, rfl⟩
  have none' : (lanesOf (s.active h)).findSome? (fun l =>
      if !s.holdsBank s.cur.core s.curWg (accBank (s.selWord l f.a.toNat)) then some (opmTv 1 (accBank (s.selWord l f.a.toNat)))
      else if accCol (s.selWord l f.a.toNat) + (f.par.toNat % 64 + 1) > 128 then some (opmTv 4 (accBank (s.selWord l f.a.toNat))) else none) = none := by
    rw [List.findSome?_eq_none_iff]
    intro l hl
    obtain ⟨holds, fits⟩ := good l hl
    rw [if_neg (by rw [show s.holdsBank s.cur.core s.curWg (accBank (s.selWord l f.a.toNat)) = true from holds]; decide)]
    exact if_neg (not_lt.2 fits)
  show execAccLd h f s = _
  unfold execAccLd
  dsimp only
  rw [State.withOperands_ready _ _ _ _ _ _ _ _ _ _ ready, none']
  dsimp only
  rw [if_neg some']
  rfl

/-- R329: acc.clr's completion under way. -/
def clrPend (s : State) (h : Hdr) : Pend where
  core := s.cur.core
  slot := s.cur.slot
  kind := 5
  path := s.cur.path
  lanes := s.cur.lanes
  pos := s.cur.pos
  tok := h.tok.toNat
  wait := 1

theorem accClr_queues (some' : s.active h ≠ 0) (low : LowReady s h [.reg f.a.toNat]) : let b := (s.selWord (s.lowLane h) f.a.toNat).toNat % 4
    (s.holdsBank s.cur.core s.curWg b = true → ∃ t, exec (.accClr h f) s = .next t ∧ ∃ o : MmaOp, Passed s t h ∧ TokenUp s t h ∧
      (t.core s.cur.core).mq = (s.core s.cur.core).mq ++ [o] ∧ o.id = s.fresh ∧ o.kind = 1 ∧ o.banks = [b]) ∧
    (s.holdsBank s.cur.core s.curWg b = false → ∃ t, exec (.accClr h f) s = .next t ∧ Stops s t 0 (s.active h) 0x0F (BitVec.ofNat 64 (1 + 256 * b))) := by
  intro b
  have first := low.1
  refine ⟨fun holds => low_runs low rfl ?_, fun lacks => low_runs low rfl ?_⟩ <;> dsimp only <;> rw [if_neg some']
  · rw [if_neg (by rw [show s.holdsBank s.cur.core s.curWg ((s.selWord (s.lowLane h) f.a.toNat).toNat % 4) = true from holds]; decide)]
    let o : MmaOp := { id := s.fresh, kind := 1, wg := s.curWg, slot := s.cur.slot, lane := 0, banks := [b] }
    obtain ⟨passed, token, -, queue⟩ := queues_passes first h (clrPend s h) o
    exact ⟨o, passed, token, queue, rfl, rfl, rfl⟩
  · rw [if_pos (by rw [show s.holdsBank s.cur.core s.curWg ((s.selWord (s.lowLane h) f.a.toNat).toNat % 4) = false from lacks]; rfl)]
    have small : b % 256 = b := Nat.mod_eq_of_lt ((Nat.mod_lt _ (by decide)).trans (by decide))
    have stops := raises first h (s.active h) (code := cOPM) (opmTv 1 b) (by decide)
    rw [opmTv, small] at stops
    rw [opmTv, show (s.selWord (s.lowLane h) f.a.toNat).toNat % 4 = b from rfl, small]
    exact stops

end Instructions

/-! ### Acceptance (R318, R326) -/

section Accept

variable {s : State} {core slot l : Nat} {x : Waiting} {h : Hdr} {f : FmtE} {b : List Byte}

/-- R318, R319: the operation that MMA_ACCEPT accepts for a lane. -/
def acceptedOp (s : State) (core slot lane w : Nat) (b : List Byte) : MmaOp :=
  let c := blockWord b 0
  let words (off n : Nat) : List Word := (List.range n).map (fun j => BitVec.ofNat 32 (leNat (tabBytes (s.wg w).sp (off + 4 * j) 4)))
  let bound (off : Nat) : List (Nat × Nat) := (List.range (ctlChunks c)).map (fun kc => (blockByte b (off + kc), s.boundVersion core (blockByte b (off + kc))))
  { id := s.fresh
    kind := 0
    wg := w
    slot := slot
    lane := lane
    banks := [ctlBank c]
    control := c
    aslots := bound 16
    bslots := bound 24
    sa := if ctlSaAbsent c then [] else words (blockWord b 4).toNat (128 * ctlChunks c)
    sb := if ctlSbAbsent c then [] else words (blockWord b 8).toNat (ctlChunks c)
    block := b }

theorem acceptMma_queues (s : State) (core slot lane w : Nat) (b : List Byte) :
    ((s.acceptMma core slot lane w b).core core).mq = (s.core core).mq ++ [acceptedOp s core slot lane w b] := by
  show ((s.modCore core (fun k => { k with mq := k.mq ++ [acceptedOp s core slot lane w b] })).core core).mq = _
  rw [State.modCore_self]

theorem mmaAccept_goes (waits : (s.group core slot).waits = [x]) (nums : x.iss.nums = [l]) (instr : x.instr = .mma h f) (failed : x.iss.failed = [])
    (good : State.blockCheck { s with cur := x.iss } (s.wgOf core slot) (State.selWord { s with cur := x.iss } l f.a.toNat).toNat = .ok b) : exec (.mmaAccept core slot x.id) s =
    if ((s.core core).mq.filter (fun o => o.kind = 0)).length ≥ 8 then .next (s.again (.mmaAccept core slot x.id))
      else .next ((State.acceptMma { s with cur := x.iss } core slot l (s.wgOf core slot) b).endWaitWith core slot x.id [9]) := by
  have found : (s.group core slot).waits.find? (fun w => w.id = x.id) = some x := by
    rw [waits]
    exact List.find?_cons_of_pos (decide_eq_true rfl)
  show execMmaAccept core slot x.id s = _
  have none' : crossFail [] = none := rfl
  simp only [execMmaAccept, found, nums, instr, failed, good, List.filter_nil, none', List.isEmpty_nil, if_true]

theorem mmaAccept_accepts (waits : (s.group core slot).waits = [x]) (nums : x.iss.nums = [l]) (instr : x.instr = .mma h f) (failed : x.iss.failed = [])
    (good : State.blockCheck { s with cur := x.iss } (s.wgOf core slot) (State.selWord { s with cur := x.iss } l f.a.toNat).toNat = .ok b) :
    (((s.core core).mq.filter (fun o => o.kind = 0)).length < 8 → ∃ t o, exec (.mmaAccept core slot x.id) s = .next t ∧ t.mem = s.mem ∧
      t.agenda = .resume { x.iss with nums := [9] } (.mma h f) :: s.agenda ∧ (t.core core).mq = (s.core core).mq ++ [o] ∧
      o.kind = 0 ∧ o.wg = s.wgOf core slot ∧ o.lane = l ∧ o.block = b ∧ o.running = false) ∧
    (8 ≤ ((s.core core).mq.filter (fun o => o.kind = 0)).length → exec (.mmaAccept core slot x.id) s = .next (s.inTicks 1 (.mmaAccept core slot x.id))) := by
  have run := mmaAccept_goes waits nums instr failed good
  refine ⟨fun room => ?_, fun full => run.trans (if_pos full)⟩
  let u : State := State.acceptMma { s with cur := x.iss } core slot l (s.wgOf core slot) b
  let v := u.modGroup core slot (fun g => { g with waits := g.waits.filter (fun w => w.id ≠ x.id) })
  have ended : u.endWaitWith core slot x.id [9] = { v with agenda := .resume { x.iss with nums := [9] } (.mma h f) :: v.agenda } := by
    have found : (u.group core slot).waits.find? (fun w => w.id = x.id) = some x := by
      show (s.group core slot).waits.find? (fun w => w.id = x.id) = some x
      rw [waits]
      exact List.find?_cons_of_pos (decide_eq_true rfl)
    rw [State.endWaitWith, found, ← instr]
  have frame : v = { u with groups := v.groups } := u.modGroup_groups _ _ _
  have mq := acceptMma_queues { s with cur := x.iss } core slot l (s.wgOf core slot) b
  refine ⟨_, acceptedOp { s with cur := x.iss } core slot l (s.wgOf core slot) b, run.trans (if_neg (not_le.2 room)), ?_⟩
  rw [show (State.acceptMma { s with cur := x.iss } core slot l (s.wgOf core slot) b).endWaitWith core slot x.id [9] = _ from ended]
  have mem : u.mem = s.mem := rfl
  have agenda : u.agenda = s.agenda := rfl
  clear_value v
  rw [frame]
  exact ⟨mem, congrArg _ agenda, mq, rfl, rfl, rfl, rfl, rfl⟩

end Accept

theorem matrixInstructions : MatrixInstructions := by
  refine ⟨?_, fun s h f => mma_goesOn, fun s core slot l x h f b _ waits nums instr _ _ failed good => mmaAccept_accepts waits nums instr failed good⟩
  intro s h f first some' act core w off n ids place b
  obtain ⟨passes, waits⟩ := mmaWait_waits first some' (f := f)
  refine ⟨mma_waits first some', passes, waits, accLd_queues first some', fun low => ⟨fun holds => ?_, (accClr_queues some' low).2⟩⟩
  obtain ⟨t, run, o, more⟩ := (accClr_queues some' low).1 holds
  exact ⟨t, o, run, more⟩

/-- Settles O31. -/
theorem matrixOperations : Obligations.MatrixOperations := ⟨matrixInstructions, matrixEngine⟩

end Sys2Proof.Proofs.Matrix
end

section
/-! SUPPORT. Operands captured by an issue that goes on (R51), and the submissions of launch and launch.at (R175). -/

namespace Sys2Proof.Machine

open Sys2Proof.Claims

/-! ### What an issue captures (R51) -/

/-- The values captured are those of the registers, and none has crossed. -/
def CapturesRegs (s : State) (t : Tbl (BitVec 32)) : Prop := ∀ l r, l < 32 → r < 512 → tblFind t (crossKey l r) = none ∧ ∀ v, tblFind t (bitsKey l r) = some v → v = s.laneBits l r

theorem CapturesRegs.put {s : State} {t : Tbl (BitVec 32)} (h : CapturesRegs s t) {l r : Nat} (lane : l < 32) (reg : r < 512) (v : BitVec 32) :
    CapturesRegs s (tblPut (tblPut t (bitsKey l r) (s.laneBits l r)) (tagKey l r) v) := by
  intro k q hk hq
  obtain ⟨cross, bits⟩ := h k q hk hq
  refine ⟨?_, fun w found => ?_⟩
  · rw [tblFind_tblPut_other _ _ (by rw [crossKey, tagKey]; omega), tblFind_tblPut_other _ _ (by rw [crossKey, bitsKey]; omega)]
    exact cross
  · rw [tblFind_tblPut_other _ _ (by rw [bitsKey, tagKey]; omega)] at found
    by_cases same : bitsKey k q = bitsKey l r
    · rw [same, tblFind_tblPut_self] at found
      rw [bitsKey, bitsKey] at same
      obtain rfl : k = l := by omega
      obtain rfl : q = r := by omega
      exact (Option.some.inj found).symm
    · rw [tblFind_tblPut_other _ _ same] at found
      exact bits w found

/-- An issue that captures its plain operands reads them as before. -/
theorem State.capture_selWord {s : State} (caps : s.cur.caps = []) (act : BitVec 32) {regs : List Nat} (named : ∀ r ∈ regs, r < 512) {l r : Nat} (lane : l < 32) (reg : r < 512) :
    (s.capture act regs).selWord l r = s.selWord l r := by
  have kept : CapturesRegs s (s.capture act regs).cur.caps := by
    refine List.foldlRecOn (motive := CapturesRegs s) (lanesOf act) _ (by rw [caps]; exact fun _ _ _ _ => ⟨rfl, fun _ h => nomatch h⟩) fun t ht k hk => ?_
    exact List.foldlRecOn (motive := CapturesRegs s) regs _ ht fun t ht q hq => ht.put (BitVec.lt_of_getLsbD (mem_lanesOf.1 hk)) (named q hq) _
  obtain ⟨cross, bits⟩ := kept l r lane reg
  have plain : s.laneBits l r = ((s.thread s.cur.core s.cur.slot l).reg r).val := by
    rw [State.laneBits, caps]
    rfl
  have same : (s.capture act regs).laneBits l r = s.laneBits l r := by
    rw [State.laneBits]
    cases found : tblFind (s.capture act regs).cur.caps (bitsKey l r) with
    | some v => exact bits v found
    | none => exact plain.symm
  rw [State.selWord, State.selWord, cross, same, caps]
  rfl

theorem srcRegs_pair_lt (a : BitVec 9) : ∀ r ∈ srcRegs [.pair a.toNat], r < 512 := by
  intro r hr
  simp only [srcRegs, List.map_cons, List.map_nil, List.flatten_cons, List.flatten_nil, List.append_nil, Src.regs] at hr
  split at hr
  · simp only [List.mem_cons, List.not_mem_nil, or_false] at hr
    omega
  · cases hr

theorem State.capture_selPair {s : State} (caps : s.cur.caps = []) (act : BitVec 32) (a : BitVec 9) {l : Nat} (lane : l < 32) :
    (s.capture act (srcRegs [.pair a.toNat])).selPair l a.toNat = s.selPair l a.toNat := by
  by_cases small : a.toNat + 1 < 512
  · rw [State.selPair, State.selPair, State.capture_selWord caps act (srcRegs_pair_lt a) lane (by omega), State.capture_selWord caps act (srcRegs_pair_lt a) lane small]
  · have none' : srcRegs [.pair a.toNat] = [] := by
      simp only [srcRegs, List.map_cons, List.map_nil, List.flatten_cons, List.flatten_nil, List.append_nil, Src.regs]
      exact if_neg (by omega)
    have same : s.capture act [] = s := by
      have : (lanesOf act).foldl (fun t _ => t) s.cur.caps = s.cur.caps := List.foldlRecOn (motive := (· = s.cur.caps)) (lanesOf act) _ rfl fun _ h _ _ => h
      show ({ s with cur := { s.cur with caps := (lanesOf act).foldl (fun t _ => t) s.cur.caps } } : State) = s
      rw [this]
    rw [none', same]

/-! ### Submissions (R175, R177) -/

/-- What submitting changes: the submissions, and when they are looked at; and the values that the issue has captured. -/
def SubmitStep (s t : State) : Prop := t = { s with cur := { s.cur with caps := t.cur.caps }, submits := t.submits, fresh := t.fresh, timers := t.timers }

theorem SubmitStep.trans {s t u : State} (h : SubmitStep s t) (k : SubmitStep t u) : SubmitStep s u := by
  rw [SubmitStep, k, h]

theorem SubmitStep.submitOne (s : State) (timed : Bool) (q lane va : Nat) : SubmitStep s (s.submitOne timed q lane va) := rfl

section Fields

variable {s t : State} (h : SubmitStep s t)
include h

theorem SubmitStep.curCtx : t.curCtx = s.curCtx := by rw [h]; rfl
theorem SubmitStep.bad : t.bad = s.bad := by rw [h]
theorem SubmitStep.failed : t.cur.failed = s.cur.failed := by rw [h]
theorem SubmitStep.walk : t.walk = s.walk := by rw [h]; rfl
theorem SubmitStep.rangeCheck (ctx va len fuel : Nat) : t.rangeCheck ctx va len fuel = s.rangeCheck ctx va len fuel := by
  have area : t.inDebugArea = s.inDebugArea := by rw [h]; rfl
  have page : t.pageEnd = s.pageEnd := by rw [h]; rfl
  induction fuel generalizing va len with
  | zero => rfl
  | succ k ih =>
    unfold State.rangeCheck
    simp only [h.walk, area, page, ih]
theorem SubmitStep.submitCheck (va : Nat) : t.submitCheck va = s.submitCheck va := by
  have engine : t.engineByte = s.engineByte := by rw [h]; rfl
  have core : t.cur.core = s.cur.core := by rw [h]
  have record (ctx v n : Nat) (w : Bool) : t.recordCheck ctx v n w = s.recordCheck ctx v n w := by
    unfold State.recordCheck
    simp only [h.walk, h.rangeCheck]
  unfold State.submitCheck
  simp only [h.curCtx, engine, core, record]
theorem SubmitStep.accessesOf (m : BitVec 32) : t.accessesOf m false = s.accessesOf m false := by rw [h]; rfl

end Fields

/-- R175: the submission of a lane. -/
def submission (s : State) (timed : Bool) (q lane va : Nat) : Submit where
  ctx := s.curCtx
  va := va
  timed := timed
  die := Config.dieOfCore s.cur.core
  op := some q
  after := s.accessesOf (BitVec.ofNat 32 (2 ^ lane)) false
  widen := true

theorem SubmitStep.submission {s t : State} (h : SubmitStep s t) (timed : Bool) (q lane va : Nat) : submission t timed q lane va = submission s timed q lane va := by
  have core : t.cur.core = s.cur.core := by rw [h]
  rw [Machine.submission, Machine.submission, h.curCtx, h.accessesOf, core]

/-- R175: what every lane has submitted, the lowest first. -/
def State.submitted (s : State) (timed : Bool) (q : Nat) (va : Nat → Nat) (lanes : List Nat) : State := lanes.foldl (fun s l => s.submitOne timed q l (va l)) s

theorem SubmitStep.submitted (s : State) (timed : Bool) (q : Nat) (va : Nat → Nat) (lanes : List Nat) : SubmitStep s (s.submitted timed q va lanes) := by
  induction lanes generalizing s with
  | nil => rfl
  | cons l r ih => exact (SubmitStep.submitOne s timed q l (va l)).trans (ih _)

/-- A submission that is made stays, and every lane's is made. -/
theorem State.submitted_lists (s : State) (timed : Bool) (q : Nat) (va : Nat → Nat) (lanes : List Nat) :
    (∀ k, k < s.fresh → tblFind (s.submitted timed q va lanes).submits k = tblFind s.submits k) ∧
    ∀ l ∈ lanes, ∃ k, tblFind (s.submitted timed q va lanes).submits k = some (submission s timed q l (va l)) := by
  induction lanes generalizing s with
  | nil => exact ⟨fun _ _ => rfl, fun l hl => absurd hl List.not_mem_nil⟩
  | cons a r ih =>
    let u := s.submitOne timed q a (va a)
    have step : SubmitStep s u := .submitOne s timed q a (va a)
    have fresh : u.fresh = s.fresh + 1 + 1 := rfl
    have submits : u.submits = tblPut s.submits s.fresh (submission s timed q a (va a)) := rfl
    obtain ⟨below, listed⟩ := ih u
    refine ⟨fun k less => ?_, fun l hl => ?_⟩
    · show tblFind (u.submitted timed q va r).submits k = _
      rw [below k (by omega), submits, tblFind_tblPut_other _ _ (by omega)]
    · rcases List.mem_cons.1 hl with rfl | rest
      · refine ⟨s.fresh, ?_⟩
        show tblFind (u.submitted timed q va r).submits s.fresh = _
        rw [below _ (by omega), submits, tblFind_tblPut_self]
      · obtain ⟨k, found⟩ := listed l rest
        exact ⟨k, by rw [← step.submission]; exact found⟩

theorem length_filter_tblPut {α : Type} (p : Nat × α → Bool) (t : Tbl α) (k : Nat) (x : α) : ((tblPut t k x).filter p).length ≤ (t.filter p).length + 1 := by
  induction t with
  | nil =>
    rw [tblPut]
    exact List.length_filter_le p _
  | cons y r ih =>
    obtain ⟨j, y⟩ := y
    have one (z : Nat × α) (l : List (Nat × α)) : (l.filter p).length ≤ ((z :: l).filter p).length ∧ ((z :: l).filter p).length ≤ (l.filter p).length + 1 := by
      rw [List.filter_cons]
      split
      · exact ⟨Nat.le_succ _, le_rfl⟩
      · exact ⟨le_rfl, Nat.le_succ _⟩
    rw [tblPut]
    split_ifs
    · exact (one _ _).2
    · exact ((one (k, x) r).2).trans (Nat.add_le_add_right (one (j, y) r).1 1)
    · rw [List.filter_cons, List.filter_cons]
      split
      · exact Nat.succ_le_succ ih
      · exact ih

theorem State.submitOne_count (s : State) (timed : Bool) (q lane va : Nat) : (s.submitOne timed q lane va).launchCount (s.submitOne timed q lane va).curCtx ≤ s.launchCount s.curCtx + 1 := by
  have step : SubmitStep s (s.submitOne timed q lane va) := .submitOne s timed q lane va
  rw [step.curCtx, State.launchCount, State.launchCount, Nat.add_assoc]
  refine Nat.add_le_add_left ?_ _
  exact length_filter_tblPut _ _ _ _

/-- R175: the result of launch under way, until its submissions are decided. -/
def submitPend (s : State) (h : Hdr) (n : Nat) : Pend where
  core := s.cur.core
  slot := s.cur.slot
  kind := 5
  path := s.cur.path
  lanes := s.cur.lanes
  act := s.active h
  pos := s.cur.pos
  tok := h.tok.toNat
  wait := n

theorem SubmitStep.active {s t : State} (step : SubmitStep s t) (phase : s.cur.phase = 0) (h : Hdr) : t.active h = s.active h := by
  have early : ¬ s.cur.phase > 0 := by rw [phase]; exact Nat.lt_irrefl 0
  have early' : ¬ t.cur.phase > 0 := by rw [step]; exact early
  rw [State.active, State.active, if_neg early, if_neg early', step]
  rfl

theorem SubmitStep.submitPend {s t : State} (step : SubmitStep s t) (phase : s.cur.phase = 0) (h : Hdr) (n : Nat) : submitPend t h n = submitPend s h n := by
  rw [Machine.submitPend, step.active phase, step]
  rfl

/-- R175: the issue goes on with every record submitted. -/
def State.submitEnds (s : State) (h : Hdr) (q : Nat) : State :=
  let n := (s.submits.filter (fun p => p.2.op = some q)).length
  let t : State := { s.takeToken h with pends := tblPut (s.takeToken h).pends q (submitPend s h n) }
  (if n = 0 then t.later (.loadCompletion q) else t).retireSeq h

/-- R175: what is left when launch goes on. -/
theorem State.submitEnds_ends {s a : State} (phase : s.cur.phase = 0) (present : s.hasGroup s.cur.core s.cur.slot = true) (step : SubmitStep s a) (h : Hdr) (q : Nat) :
    Passed s (a.submitEnds h q) h ∧ TokenUp s (a.submitEnds h q) h ∧ (a.submitEnds h q).submits = a.submits ∧
      tblFind (a.submitEnds h q).pends q = some (submitPend s h (a.submits.filter (fun p => p.2.op = some q)).length) := by
  let n := (a.submits.filter (fun p => p.2.op = some q)).length
  let t : State := { a.takeToken h with pends := tblPut (a.takeToken h).pends q (submitPend a h n) }
  let v := if n = 0 then t.later (.loadCompletion q) else t
  let s' : State := { s with cur := { s.cur with caps := a.cur.caps } }
  have before : Beside s' a := .of_wgs (by rw [step]) (by rw [step]) (by rw [step]) (by rw [step]) (by rw [step])
  have after : Beside (a.takeToken h) v := by
    show Beside _ (if n = 0 then t.later (.loadCompletion q) else t)
    split
    · exact .of_wgs rfl rfl rfl rfl rfl
    · exact .of_wgs rfl rfl rfl rfl rfl
  obtain ⟨passed, token, retired⟩ := passes_taken (s := s') phase present h before after
  have same : v.submits = a.submits ∧ v.pends = t.pends := by
    show (if n = 0 then t.later (.loadCompletion q) else t).submits = _ ∧ (if n = 0 then t.later (.loadCompletion q) else t).pends = _
    have kept : t.submits = a.submits := by
      show (a.takeToken h).submits = _
      rw [a.takeToken_groups h]
    split
    · exact ⟨kept, rfl⟩
    · exact ⟨kept, rfl⟩
  refine ⟨passed, token, ?_, ?_⟩
  · show (v.retireSeq h).submits = _
    rw [retired.state]
    exact same.1
  · show tblFind (v.retireSeq h).pends q = _
    rw [retired.pends, same.2, ← step.submitPend phase]
    exact tblFind_tblPut_self _ _ _

/-- R175, Table 11-6: lanes whose records are aligned, pass the checks and find room submit them in turn. -/
theorem State.submitLanes_all {s : State} (good : s.bad = []) (failed : s.cur.failed = []) (h : Hdr) (i : Instr) (f : FmtS) (timed : Bool) (q : Nat) (va : Nat → Nat) (lanes : List Nat)
    (named : ∀ l ∈ lanes, (s.selPair l f.a.toNat).toNat = va l) (fine : ∀ l ∈ lanes, va l % 256 = 0 ∧ s.submitCheck (va l) = none) (room : s.launchCount s.curCtx + lanes.length ≤ 256) :
    s.submitLanes h i f timed q lanes = (s.submitted timed q va lanes).submitEnds h q := by
  induction lanes generalizing s with
  | nil =>
    rw [State.submitLanes]
    rfl
  | cons l r ih =>
    obtain ⟨aligned, allowed⟩ := fine l List.mem_cons_self
    have name := named l List.mem_cons_self
    have step : SubmitStep s (s.submitOne timed q l (va l)) := .submitOne s timed q l (va l)
    have none' (va n : Nat) : s.recordBadWord s.curCtx va n = none := by
      rw [State.recordBadWord, good]
      rfl
    have cross : crossFail (s.cur.failed.filter (fun x => x.lane = l)) = none := by
      rw [failed]
      rfl
    have space : ¬ s.launchCount s.curCtx ≥ 256 := by
      rw [List.length_cons] at room
      omega
    have sel : (s.submitOne timed q l (va l)).selPair = s.selPair := by
      rfl
    have goes : s.submitLanes h i f timed q (l :: r) = (s.submitOne timed q l (va l)).submitLanes h i f timed q r := by
      rw [State.submitLanes]
      dsimp only
      rw [name, if_neg (by rw [decide_eq_false (not_not.2 aligned), Bool.and_false]; exact Bool.false_ne_true), cross]
      dsimp only
      rw [allowed]
      dsimp only
      rw [none', none']
      dsimp only [Option.or]
      rw [if_neg space]
    rw [goes]
    refine ih (by rw [step.bad]; exact good) (by rw [step.failed]; exact failed) (fun k hk => by rw [sel]; exact named k (List.mem_cons_of_mem _ hk))
      (fun k hk => by rw [step.submitCheck]; exact fine k (List.mem_cons_of_mem _ hk)) ?_
    have := s.submitOne_count timed q l (va l)
    rw [List.length_cons] at room
    omega

theorem State.submitLanes_misaligned {s : State} (failed : s.cur.failed = []) (h : Hdr) (i : Instr) (f : FmtS) (timed : Bool) (q l : Nat) (r : List Nat) (bad : (s.selPair l f.a.toNat).toNat % 256 ≠ 0) :
    s.submitLanes h i f timed q (l :: r) = s.raise h (s.active h) cMISALIGN (BitVec.ofNat 64 (s.selPair l f.a.toNat).toNat) := by
  rw [State.submitLanes]
  dsimp only
  rw [if_pos (by rw [State.hasFailed, failed, decide_eq_true bad]; rfl)]

end Sys2Proof.Machine

namespace Sys2Proof.Proofs.Submissions

open Sys2Proof.Machine Sys2Proof.Claims

section Launch

variable {s : State} {h : Hdr} {f : FmtS}

/-- R175: an issue of launch with its operand captured, known by the number q. -/
def launching (s : State) (h : Hdr) (f : FmtS) : State := (s.capture (s.active h) (srcRegs [.pair f.a.toNat])).tickFresh

theorem launchOp_submits (first : First s) (ready : Ready s (s.active h) [.pair f.a.toNat] [] []) (i : Instr) (timed : Bool) :
    s.launchOp h i f timed = (launching s h f).submitLanes h i f timed s.fresh (lanesOf (s.active h)) := by
  unfold State.launchOp
  dsimp only
  rw [State.withOperandsLate_ready _ _ _ _ _ _ _ _ _ _ _ ready, first.2.1]
  rfl

theorem launching_step (s : State) (h : Hdr) (f : FmtS) : SubmitStep s (launching s h f) := rfl

theorem launch_submits (first : First s) (ready : Ready s (s.active h) [.pair f.a.toNat] [] []) (good : s.bad = [])
    (fine : ∀ l ∈ lanesOf (s.active h), (s.selPair l f.a.toNat).toNat % 256 = 0 ∧ s.submitCheck (s.selPair l f.a.toNat).toNat = none)
    (room : s.launchCount s.curCtx + (lanesOf (s.active h)).length ≤ 256) {i : Instr} {timed : Bool} {o : Out} (run : o = .next (s.launchOp h i f timed)) : Submits s h f timed o := by
  let va (l : Nat) : Nat := (s.selPair l f.a.toNat).toNat
  let u := launching s h f
  have step := launching_step s h f
  have all : s.launchOp h i f timed = (u.submitted timed s.fresh va (lanesOf (s.active h))).submitEnds h s.fresh := by
    rw [launchOp_submits first ready]
    refine State.submitLanes_all (s := u) (by rw [step.bad]; exact good) (by rw [step.failed]; exact first.2.2.2.2.1) h i f timed s.fresh va _ (fun l hl => ?_) (fun l hl => ?_) ?_
    · exact congrArg BitVec.toNat (State.capture_selPair first.2.2.1 (s.active h) f.a (BitVec.lt_of_getLsbD (mem_lanesOf.1 hl)))
    · rw [step.submitCheck]
      exact fine l hl
    · rw [step.curCtx]
      exact room
  have steps : SubmitStep s (u.submitted timed s.fresh va (lanesOf (s.active h))) := step.trans (.submitted u timed s.fresh va _)
  obtain ⟨-, listed⟩ := u.submitted_lists timed s.fresh va (lanesOf (s.active h))
  obtain ⟨passed, token, submits, pend⟩ := State.submitEnds_ends first.1 first.2.2.2.2.2 steps h s.fresh
  generalize u.submitted timed s.fresh va (lanesOf (s.active h)) = a at all steps listed passed token submits pend
  refine ⟨_, _, run.trans (congrArg Host.Outcome.next all), passed, token, ⟨pend, rfl, rfl, rfl, rfl, rfl, rfl, rfl, rfl, fun _ => rfl⟩, rfl, ?_, fun l hl => ?_⟩
  · show (a.submits.filter (fun p => p.2.op = some s.fresh)).length = _
    rw [submits]
    simp only [beq_eq_decide]
  · obtain ⟨k, found⟩ := listed l hl
    refine ⟨(k, submission u timed s.fresh l (va l)), ?_, ?_⟩
    · rw [submits]
      exact mem_of_tblFind found
    · rw [step.submission]
      exact ⟨rfl, rfl, rfl, rfl, rfl, rfl⟩

theorem launch_misaligned (first : First s) (ready : Ready s (s.active h) [.pair f.a.toNat] [] []) {l : Nat} {r : List Nat} (lanes : lanesOf (s.active h) = l :: r)
    (bad : (s.selPair l f.a.toNat).toNat % 256 ≠ 0) {i : Instr} {timed : Bool} {o : Out} (run : o = .next (s.launchOp h i f timed)) :
    ∃ t, o = .next t ∧ Stops s t 0 (s.active h) 0x07 (BitVec.ofNat 64 (s.selPair l f.a.toNat).toNat) := by
  let u := launching s h f
  have step := launching_step s h f
  have small : l < 32 := BitVec.lt_of_getLsbD (mem_lanesOf.1 (by rw [lanes]; exact List.mem_cons_self))
  have sel : u.selPair l f.a.toNat = s.selPair l f.a.toNat := State.capture_selPair first.2.2.1 (s.active h) f.a small
  have raised : s.launchOp h i f timed = u.raise h (s.active h) cMISALIGN (BitVec.ofNat 64 (s.selPair l f.a.toNat).toNat) := by
    rw [launchOp_submits first ready, lanes, State.submitLanes_misaligned (by rw [step.failed]; exact first.2.2.2.2.1) h i f timed s.fresh l r (by rw [show launching s h f = u from rfl, sel]; exact bad)]
    rw [step.active first.1, show launching s h f = u from rfl, sel]
  have stops := u.raise_stops h (s.active h) cMISALIGN (BitVec.ofNat 64 (s.selPair l f.a.toNat).toNat) first.1 first.2.2.2.2.2
  exact ⟨_, run.trans (congrArg Host.Outcome.next raised), stops⟩

end Launch

/-- Settles O32. -/
theorem launchInstructions : Obligations.LaunchInstructions := by
  intro s h f first ready act va
  exact ⟨fun good fine room => ⟨launch_submits first ready good fine room rfl, launch_submits first ready good fine room rfl⟩, fun l r lanes bad =>
    ⟨launch_misaligned first ready lanes bad rfl, launch_misaligned first ready lanes bad rfl⟩⟩

end Sys2Proof.Proofs.Submissions
end

section
/-! SUPPORT. Packets of active messages: their sending, their acceptance, and the handler groups that take them (R183-R187). -/

namespace Sys2Proof.Machine

open Sys2Proof.Claims

/-! ### Sending (R184) -/

/-- What sending changes: the packets on their way, and when they arrive. -/
def SendStep (s t : State) : Prop := t = { s with sent := t.sent, fresh := t.fresh, timers := t.timers }

theorem SendStep.trans {s t u : State} (h : SendStep s t) (k : SendStep t u) : SendStep s u := by
  rw [SendStep, k, h]

theorem SendStep.beside {s t : State} (h : SendStep s t) : Beside s t := by
  refine .of_wgs ?_ ?_ ?_ ?_ ?_ <;> rw [h]

/-- R184: the packet of a lane, sent as part of the operation q. -/
structure PacketOf (s : State) (f : FmtE) (n q l : Nat) (p : Sent) : Prop where
  core : p.core = (s.selWord l f.a.toNat).toNat
  launch : p.launch = s.launchOfWg s.curWg
  lane : p.lane = l
  op : p.op = q
  handler : p.packet.handler = f.handle.toNat % 256
  sender : p.packet.sender = s.cur.core
  senderWg : p.packet.senderWg = s.curWg
  words : p.packet.words = (List.range n).map (fun j => s.selWord l (f.b.toNat + j))

/-- R184: what every lane has sent, the lowest first. -/
def State.sentPackets (s : State) (f : FmtE) (n q : Nat) (rel : Bool) (lanes : List Nat) : State := lanes.foldl (fun s l => State.sendPacket f n q rel s l) s

theorem SendStep.sendPacket (s : State) (f : FmtE) (n q : Nat) (rel : Bool) (l : Nat) : SendStep s (State.sendPacket f n q rel s l) := rfl

theorem SendStep.packetOf {s t : State} (step : SendStep s t) {f : FmtE} {n q l : Nat} {p : Sent} (h : PacketOf t f n q l p) : PacketOf s f n q l p := by
  rw [step] at h
  exact ⟨h.core, h.launch, h.lane, h.op, h.handler, h.sender, h.senderWg, h.words⟩

theorem SendStep.sentPackets (s : State) (f : FmtE) (n q : Nat) (rel : Bool) (lanes : List Nat) : SendStep s (s.sentPackets f n q rel lanes) := by
  induction lanes generalizing s with
  | nil => rfl
  | cons l r ih => exact (SendStep.sendPacket s f n q rel l).trans (ih _)

/-- A packet that is sent stays on its way while the others are, and every lane's is sent. -/
theorem State.sentPackets_lists (s : State) (f : FmtE) (n q : Nat) (rel : Bool) (lanes : List Nat) :
    (∀ k, k < s.fresh → tblFind (s.sentPackets f n q rel lanes).sent k = tblFind s.sent k) ∧
    ∀ l ∈ lanes, ∃ k p, tblFind (s.sentPackets f n q rel lanes).sent k = some p ∧ PacketOf s f n q l p := by
  induction lanes generalizing s with
  | nil => exact ⟨fun _ _ => rfl, fun l hl => absurd hl List.not_mem_nil⟩
  | cons a r ih =>
    let u := State.sendPacket f n q rel s a
    have step : SendStep s u := .sendPacket s f n q rel a
    have fresh : u.fresh = s.fresh + 1 + 1 := rfl
    obtain ⟨p, put, one⟩ : ∃ p, u.sent = tblPut s.sent s.fresh p ∧ PacketOf s f n q a p := ⟨_, rfl, rfl, rfl, rfl, rfl, rfl, rfl, rfl, rfl⟩
    obtain ⟨below, listed⟩ := ih u
    refine ⟨fun k less => ?_, fun l hl => ?_⟩
    · show tblFind (u.sentPackets f n q rel r).sent k = _
      rw [below k (by omega), put, tblFind_tblPut_other _ _ (by omega)]
    · rcases List.mem_cons.1 hl with rfl | rest
      · refine ⟨s.fresh, p, ?_, one⟩
        show tblFind (u.sentPackets f n q rel r).sent s.fresh = _
        rw [below _ (by omega), put, tblFind_tblPut_self]
      · obtain ⟨k, p, found, is⟩ := listed l rest
        exact ⟨k, p, found, step.packetOf is⟩

/-- R184: the result of am.send under way, until each packet is accepted. -/
def packetPend (s : State) (h : Hdr) : Pend where
  core := s.cur.core
  slot := s.cur.slot
  kind := 5
  path := s.cur.path
  lanes := s.cur.lanes
  act := s.active h
  pos := s.cur.pos
  tok := h.tok.toNat
  wait := (lanesOf (s.active h)).length

/-- Table 11-11: a lane names a ring of its launch. -/
def RingNamed (s : State) (f : FmtE) (l : Nat) : Prop := s.curLaunch.kr.flags / 2 ^ 10 % 4 ≠ 0 ∧ (s.selWord l f.a.toNat).toNat < 320 ∧
  s.curLaunch.kr.dieMask.testBit (Config.dieOfCore (s.selWord l f.a.toNat).toNat) = true

theorem State.amTargetBad_iff {s : State} (failed : s.cur.failed = []) (f : FmtE) (l : Nat) : s.amTargetBad f l = true ↔ ¬ RingNamed s f l := by
  have noneFailed : s.hasFailed l f.a.toNat = false := by
    rw [State.hasFailed, failed]
    rfl
  have field : bits s.curLaunch.kr.flags 11 10 = s.curLaunch.kr.flags / 2 ^ 10 % 4 := rfl
  unfold State.amTargetBad RingNamed
  dsimp only
  rw [noneFailed, bit_eq_testBit, field, Bool.not_false, Bool.true_and, Bool.or_eq_true, Bool.or_eq_true, decide_eq_true_eq, decide_eq_true_eq, Bool.not_eq_true']
  cases s.curLaunch.kr.dieMask.testBit (Config.dieOfCore (s.selWord l f.a.toNat).toNat)
  · simp
  · simp only [Bool.true_eq_false, or_false, and_true]
    omega

/-! ### Acceptance (R184) -/

/-- R184: a packet leaves the sender's core: the result that waits for it waits for one less. -/
def State.packetTaken (s : State) (id : Nat) (p : Sent) : State :=
  let s1 := State.modPend { s with sent := tblDel s.sent id } p.op (fun q => { q with wait := q.wait - 1 })
  match tblFind s1.pends p.op with
  | some q => if q.wait = 0 then s1.now (.loadCompletion p.op) else s1
  | none => s1

theorem State.packetTaken_frame (s : State) (id : Nat) (p : Sent) :
    s.packetTaken id p = { s with sent := tblDel s.sent id, pends := (s.packetTaken id p).pends, agenda := (s.packetTaken id p).agenda } := by
  have one (u : State) (q : Nat) (f : Pend → Pend) : u.modPend q f = { u with pends := (u.modPend q f).pends } := by
    unfold State.modPend
    split <;> rfl
  unfold State.packetTaken
  dsimp only
  rw [one]
  dsimp only
  split
  · split <;> rfl
  · rfl

/-- R184: the packet that a ring takes. -/
def State.ringed (s : State) (p : Sent) : Packet := { p.packet with arrived := (s.core p.core).cycles, rounds := if p.rel then s.roundsDue (s.launch p.launch).ctx else [] }

/-- R184: a ring with room takes a packet. -/
def State.ringTakes (s : State) (p : Sent) (r : RxRing) : State :=
  (s.modCore p.core (fun c => { c with rings := tblPut c.rings p.launch { r with packets := r.packets ++ [s.ringed p] } })).modWg p.packet.senderWg (fun w => { w with packets := w.packets + 1 })

/-- R186: a ring that has taken a packet is looked at again, when it may spawn. -/
def State.spawnSoon (s : State) (p : Sent) (n : Nat) : State :=
  let s5 := s.inCycles p.core 256 (.handlerSpawn p.core p.launch)
  if n + 1 ≥ 32 then s5.now (.handlerSpawn p.core p.launch) else s5

theorem State.spawnSoon_frame (s : State) (p : Sent) (n : Nat) : s.spawnSoon p n = { s with timers := (s.spawnSoon p n).timers, agenda := (s.spawnSoon p n).agenda } := by
  unfold State.spawnSoon
  dsimp only
  split <;> rfl

/-- R184, R241: a released packet for which what has been observed is found. -/
def State.packetJudged (s : State) (p : Sent) : Sent :=
  { p with widen := false, prev := (s.flushDie (Config.dieOfCore p.packet.sender) (s.launch p.launch).ctx 3).observed (s.launch p.launch).ctx 3 }

section Arrival

variable {s : State} {id : Nat} {p : Sent} (found : tblFind s.sent id = some p) (alone : p.prev.any s.outstanding = false)
include found alone

theorem State.packetArrives_judged (widen : p.widen = true) : (s.packetArrives id).mem = s.mem ∧ tblFind (s.packetArrives id).sent id = some (s.packetJudged p) := by
  unfold State.packetArrives
  rw [found]
  dsimp only
  rw [if_neg (by rw [alone]; exact Bool.false_ne_true), if_pos widen]
  exact ⟨(s.flushDie_mem _ _ _).1, tblFind_tblPut_self _ _ _⟩

variable (judged : p.widen = false) (live : (s.launch p.launch).halting = false) {r : RxRing} (ring : tblFind (s.core p.core).rings p.launch = some r)
include judged live ring

theorem State.packetArrives_refused (full : r.saved = true ∨ r.cap ≤ r.packets.length) : s.packetArrives id = s.inCycles p.packet.sender 64 (.amPacketRetry id) := by
  unfold State.packetArrives
  rw [found]
  dsimp only
  rw [if_neg (by rw [alone]; exact Bool.false_ne_true), if_neg (by rw [judged]; exact Bool.false_ne_true), if_neg (by rw [live]; exact Bool.false_ne_true), ring]
  dsimp only
  rw [if_pos (by simpa using full)]

theorem State.packetArrives_taken (kept : r.saved = false) (room : r.packets.length < r.cap) :
    s.packetArrives id = ((s.ringTakes p r).packetTaken id p).spawnSoon p r.packets.length := by
  unfold State.packetArrives
  rw [found]
  dsimp only
  rw [if_neg (by rw [alone]; exact Bool.false_ne_true), if_neg (by rw [judged]; exact Bool.false_ne_true), if_neg (by rw [live]; exact Bool.false_ne_true), ring]
  dsimp only
  rw [if_neg (by rw [kept]; simpa using room)]
  rfl

theorem State.packetArrives_accepted (kept : r.saved = false) (room : r.packets.length < r.cap) {o : Out} (run : o = .next (s.packetArrives id)) : Accepted s id p r o := by
  rw [State.packetArrives_taken found alone judged live ring kept room] at run
  refine ⟨_, { r with packets := r.packets ++ [s.ringed p] }, run, ?_, ?_, rfl, ?_⟩
  · rw [State.spawnSoon_frame, State.packetTaken_frame]
    exact tblFind_tblDel_self _ _
  · have cores : (((s.ringTakes p r).packetTaken id p).spawnSoon p r.packets.length).core = (s.ringTakes p r).core := by
      rw [State.spawnSoon_frame, State.packetTaken_frame]
      rfl
    have taken : ((s.ringTakes p r).core p.core).rings = tblPut (s.core p.core).rings p.launch { r with packets := r.packets ++ [s.ringed p] } :=
      congrArg Core.rings (s.modCore_self p.core (fun c => { c with rings := tblPut c.rings p.launch { r with packets := r.packets ++ [s.ringed p] } }))
    rw [cores, taken]
    exact tblFind_tblPut_self _ _ _
  · have wgs : (((s.ringTakes p r).packetTaken id p).spawnSoon p r.packets.length).wg = (s.ringTakes p r).wg := by
      rw [State.spawnSoon_frame, State.packetTaken_frame]
      rfl
    rw [wgs, State.ringTakes, State.modWg_self]
    rfl

end Arrival

/-! ### Handler groups (R186, R187) -/

theorem tblGet_foldl_tblSet {α : Type} [DecidableEq α] (d : α) (v : Nat → α) (n : Nat) {j : Nat} (less : j < n) :
    tblGet d ((List.range n).foldl (fun t j => tblSet d t j (v j)) []) j = v j := by
  induction n with
  | zero => exact absurd less (Nat.not_lt_zero j)
  | succ n ih =>
    rw [List.range_succ, List.foldl_append, List.foldl_cons, List.foldl_nil]
    by_cases same : j = n
    · rw [same, tblGet_tblSet_self]
    · rw [tblGet_tblSet_other _ _ _ same]
      exact ih (by omega)

/-- R186: a thread of a handler group: the packet it takes in its first registers, or, without one, at its end. -/
def packetThread (ps : List Packet) (k : Nat) (t : Thread) : Thread :=
  match ps[k]? with
  | none => { t with exited := true }
  | some p => { t with amsrc := BitVec.ofNat 32 p.sender, regs := (List.range 4).foldl (fun t j => tblSet {} t j ⟨p.words.getD j 0, false⟩) [] }

theorem packetThread_idle {ps : List Packet} {k : Nat} (past : ps.length ≤ k) (t : Thread) : (packetThread ps k t).exited = true := by
  rw [packetThread, List.getElem?_eq_none past]

theorem packetThread_takes {ps : List Packet} {k : Nat} (less : k < ps.length) (t : Thread) : (packetThread ps k t).pos = t.pos ∧ (packetThread ps k t).exited = t.exited ∧
    (packetThread ps k t).amsrc = BitVec.ofNat 32 (ps.getD k p).sender ∧ ∀ j, j < 4 → (packetThread ps k t).reg j = ⟨(ps.getD k p).words.getD j 0, false⟩ := by
  rw [packetThread, List.getElem?_eq_getElem less, List.getD_eq_getElem _ _ less]
  refine ⟨rfl, rfl, rfl, fun j small => ?_⟩
  exact tblGet_foldl_tblSet {} (fun j => (⟨(ps[k]).words.getD j 0, false⟩ : Reg)) 4 small

/-- R30: the thread in which a group of a kernel begins. -/
def enteredThread (kr : KRec) (pos : Long) : Thread := { pos := pos, entering := true, came := true, fpctl := BitVec.ofNat 5 (bits kr.flags 9 5), chk := bit kr.flags 4 }

theorem State.beginGroup_self (s : State) (w core slot idx : Nat) (kr : KRec) (pos : Long) (held : Bool) (f : Nat → Thread → Thread) :
    ((s.beginGroup w core slot idx kr pos held f).group core slot).wg = w ∧ ((s.beginGroup w core slot idx kr pos held f).group core slot).threads = (List.range 32).map (fun l => f l (enteredThread kr pos)) := by
  unfold State.beginGroup State.setGroup State.group
  rw [tblGet_tblPut_self]
  exact ⟨rfl, rfl⟩

/-- R393: the first interval of a workgroup begins. -/
theorem State.startInterval_keeps (s : State) (w : Nat) : (s.startInterval w).groups = s.groups ∧ ((s.startInterval w).wg w).launch = (s.wg w).launch ∧
    ((s.startInterval w).wg w).core = (s.wg w).core ∧ ((s.startInterval w).wg w).handler = (s.wg w).handler := by
  unfold State.startInterval
  split
  · rw [State.modWg_self]
    exact ⟨rfl, rfl, rfl, rfl⟩
  · exact ⟨rfl, rfl, rfl, rfl⟩

/-- R186: a workgroup for a handler group, and a ring without the packets that the group takes. -/
def State.handlerMade (s : State) (core l slot : Nat) (ps : List Packet) : State :=
  let w := s.fresh + 1
  let wg : Workgroup := { launch := l, core := core, index := 0xFFFFFFFF, gcount := 1, slots := [slot], handler := true }
  let s1 := { s with wgs := tblPut s.wgs w wg }.tickFresh
  s1.modCore core (fun c => { c with rings := c.rings.map (fun (r : Nat × RxRing) =>
    if r.1 = l then (r.1, { r.2 with packets := leavePackets ps.length ((ps.map (fun p => p.handler)).headD 0) r.2.packets, spawned := r.2.spawned ++ [(w, ps.map (fun p => p.senderWg))] }) else r) })

theorem State.beginHandler_eq (s : State) (core l slot entry : Nat) (ps : List Packet) : s.beginHandler core l slot entry ps =
    ((s.handlerMade core l slot ps).beginGroup (s.fresh + 1) core slot 0 (s.launch l).kr (BitVec.ofNat 64 entry) false (packetThread ps)).startInterval (s.fresh + 1) := rfl

/-- R186: the handler group that begins, and its workgroup. -/
theorem State.beginHandler_begins (s : State) (core l slot entry : Nat) (ps : List Packet) :
    ((s.beginHandler core l slot entry ps).group core slot).threads = (List.range 32).map (fun k => packetThread ps k (enteredThread (s.launch l).kr (BitVec.ofNat 64 entry))) ∧
    ((s.beginHandler core l slot entry ps).wg ((s.beginHandler core l slot entry ps).group core slot).wg).handler = true ∧
    ((s.beginHandler core l slot entry ps).wg ((s.beginHandler core l slot entry ps).group core slot).wg).launch = l ∧
    ((s.beginHandler core l slot entry ps).wg ((s.beginHandler core l slot entry ps).group core slot).wg).core = core := by
  have made : (s.handlerMade core l slot ps).wg (s.fresh + 1) = { launch := l, core := core, index := 0xFFFFFFFF, gcount := 1, slots := [slot], handler := true } := tblGet_tblPut_self _ _ _ _
  rw [s.beginHandler_eq]
  generalize s.handlerMade core l slot ps = a at made
  obtain ⟨owner, threads⟩ := a.beginGroup_self (s.fresh + 1) core slot 0 (s.launch l).kr (BitVec.ofNat 64 entry) false (packetThread ps)
  have kept : (a.beginGroup (s.fresh + 1) core slot 0 (s.launch l).kr (BitVec.ofNat 64 entry) false (packetThread ps)).wg (s.fresh + 1) = a.wg (s.fresh + 1) := rfl
  generalize a.beginGroup (s.fresh + 1) core slot 0 (s.launch l).kr (BitVec.ofNat 64 entry) false (packetThread ps) = b at owner threads kept
  obtain ⟨groups, launch, home, handler⟩ := b.startInterval_keeps (s.fresh + 1)
  rw [kept, made] at launch home handler
  have group : (b.startInterval (s.fresh + 1)).group core slot = b.group core slot := by rw [State.group, State.group, groups]
  rw [group, owner]
  exact ⟨threads, handler, launch, home⟩

/-- R187, R339: the halt of a launch reaches each core that holds a workgroup of it. -/
theorem State.announceLaunchHalt_due (s : State) (die l : Nat) : (s.announceLaunchHalt die l).launches = s.launches ∧
    ∀ w z, (w, z) ∈ s.wgs → z.launch = l → ⟨0, s.tick + s.haltDelay die, .launchHaltArrival l z.core⟩ ∈ (s.announceLaunchHalt die l).timers := by
  have added (n : Nat) (cs : List Nat) (u : State) : ∃ y, cs.foldl (fun u c => u.inTicks n (.launchHaltArrival l c)) u = { u with timers := y } ∧
      y = u.timers ++ cs.map fun c => ⟨0, u.tick + n, .launchHaltArrival l c⟩ := by
    induction cs generalizing u with
    | nil => exact ⟨_, rfl, (List.append_nil _).symm⟩
    | cons a r ih =>
      obtain ⟨y, run, is⟩ := ih (u.inTicks n (.launchHaltArrival l a))
      refine ⟨y, run, ?_⟩
      rw [is, List.map_cons, List.append_cons]
      rfl
  unfold State.announceLaunchHalt State.takeHaltTick
  dsimp only
  obtain ⟨y, run, is⟩ := added (s.haltDelay die) (if (((s.wgs.filter (fun p => p.2.launch = l)).map (fun p => p.2.core)).eraseDups).isEmpty then [0]
    else ((s.wgs.filter (fun p => p.2.launch = l)).map (fun p => p.2.core)).eraseDups) s
  rw [run]
  refine ⟨rfl, fun w z listed mine => ?_⟩
  have core : z.core ∈ ((s.wgs.filter (fun p => p.2.launch = l)).map (fun p => p.2.core)).eraseDups :=
    List.mem_eraseDups.2 (List.mem_map.2 ⟨(w, z), List.mem_filter.2 ⟨listed, decide_eq_true mine⟩, rfl⟩)
  have some' : ¬ (((s.wgs.filter (fun p => p.2.launch = l)).map (fun p => p.2.core)).eraseDups).isEmpty = true := by
    rw [List.isEmpty_iff]
    exact List.ne_nil_of_mem core
  rw [if_neg some'] at is
  show _ ∈ y
  rw [is]
  exact List.mem_append_right _ (List.mem_map.2 ⟨z.core, core, rfl⟩)

/-- R187: the fault that a core records for a packet of an invalid index. -/
def State.packetFault (s : State) (core l : Nat) (p : Packet) : FaultKept where
  wg := 0xFFFFFFFF
  core := core
  ctx := (s.launch l).ctx
  ival := 0
  rwc := 0
  halt := { code := cHANDLER, kind := 3, tvalue := BitVec.ofNat 64 (p.sender + 2 ^ 16 * p.handler), time := s.tick }
  skids := []

/-- R187: a packet of an invalid index ends a launch that was not being ended. -/
theorem State.handlerFault_ends (s : State) (core l : Nat) (p : Packet) (live : (s.launch l).halting = false) (none' : (s.launch l).fault = none) (plain : (s.ctx (s.launch l).ctx).debug = false) :
    ((s.handlerFault core l p).launch l).halting = true ∧ ((s.handlerFault core l p).launch l).fault = some (s.packetFault core l p) ∧
    ∀ w z, (w, z) ∈ s.wgs → z.launch = l → ⟨0, s.tick + s.haltDelay (Config.dieOfCore core), .launchHaltArrival l z.core⟩ ∈ (s.handlerFault core l p).timers := by
  let f (x : Launch) : Launch := { x with fault := if x.fault.isSome then x.fault else some (s.packetFault core l p), halting := !(s.ctx (s.launch l).ctx).debug || x.halting }
  have run : s.handlerFault core l p = (s.modLaunch l f).announceLaunchHalt (Config.dieOfCore core) l := by
    unfold State.handlerFault
    dsimp only
    rw [if_neg (by rw [live]; exact Bool.false_ne_true)]
    rfl
  obtain ⟨launches, due⟩ := (s.modLaunch l f).announceLaunchHalt_due (Config.dieOfCore core) l
  have self : (s.modLaunch l f).launch l = f (s.launch l) := s.modLaunch_self l f
  have mine : (s.handlerFault core l p).launch l = f (s.launch l) := by
    rw [run, State.launch, launches]
    exact self
  refine ⟨?_, ?_, ?_⟩
  · rw [mine]
    show (!(s.ctx (s.launch l).ctx).debug || _) = true
    rw [plain]
    rfl
  · rw [mine]
    show (if (s.launch l).fault.isSome = true then _ else _) = _
    rw [none']
    rfl
  · rw [run]
    exact due

end Sys2Proof.Machine

namespace Sys2Proof.Proofs.Packets

open Sys2Proof.Machine Sys2Proof.Claims

section Send

variable {s : State} {h : Hdr} {f : FmtE}

/-- R184: an issue of am.send with its token raised and every packet sent. -/
def sending (s : State) (h : Hdr) (f : FmtE) : State :=
  (s.takeToken h).tickFresh.sentPackets f (f.par.toNat % 8) s.fresh (bit f.par.toNat 3) (lanesOf (s.active h))

/-- R184: its result is under way. -/
def sendPending (s : State) (h : Hdr) (f : FmtE) : State := { sending s h f with pends := tblPut (sending s h f).pends s.fresh (packetPend s h) }

variable (first : First s) (ready : Ready s (s.active h) (.reg f.a.toNat :: (List.range (f.par.toNat % 8)).map (fun j => Src.reg (f.b.toNat + j))) [] []) (some' : s.active h ≠ 0)
include first ready some'

theorem amSend_runs (good : ∀ l ∈ lanesOf (s.active h), RingNamed s f l) : exec (.amSend h f) s = .next ((sendPending s h f).retireSeq h) := by
  have fine : (lanesOf (s.active h)).find? (fun l => s.amTargetBad f l) = none := List.find?_eq_none.2 fun l hl bad => (State.amTargetBad_iff first.2.2.2.2.1 f l).1 bad (good l hl)
  show execAmSend h f s = _
  unfold execAmSend
  dsimp only
  rw [State.withOperandsLate_ready _ _ _ _ _ _ _ _ _ _ _ ready]
  rw [fine]
  dsimp only
  rw [s.raiseFailed_none _ _ _ first.2.2.2.2.1, if_neg some']
  rfl

theorem amSend_passes (good : ∀ l ∈ lanesOf (s.active h), RingNamed s f l) : ∃ t id p, exec (.amSend h f) s = .next t ∧ Passed s t h ∧ TokenUp s t h ∧ UnderWay s t h id p ∧
    p.wait = (lanesOf (s.active h)).length ∧ ∀ l ∈ lanesOf (s.active h), ∃ q ∈ t.sent, PacketOf s f (f.par.toNat % 8) id l q.2 := by
  have steps : SendStep (s.takeToken h) (sending s h f) := SendStep.trans (t := (s.takeToken h).tickFresh) rfl (.sentPackets _ f _ _ _ _)
  have after : Beside (s.takeToken h) (sendPending s h f) := steps.beside.trans (.of_wgs rfl rfl rfl rfl rfl)
  obtain ⟨passed, token, retired⟩ := passes_beside first h (.refl s) after
  obtain ⟨-, listed⟩ := (s.takeToken h).tickFresh.sentPackets_lists f (f.par.toNat % 8) s.fresh (bit f.par.toNat 3) (lanesOf (s.active h))
  refine ⟨_, s.fresh, packetPend s h, amSend_runs first ready some' good, passed, token, ⟨?_, rfl, rfl, rfl, rfl, rfl, rfl, rfl, rfl, fun _ => rfl⟩, rfl, fun l hl => ?_⟩
  · rw [retired.pends]
    exact tblFind_tblPut_self _ _ _
  · obtain ⟨k, p, found, is⟩ := listed l hl
    refine ⟨(k, p), ?_, ?_⟩
    · rw [retired.state]
      exact mem_of_tblFind found
    · obtain ⟨wg, -, -, -, -, sel, -⟩ := s.takeToken_operands h
      have cur : (s.takeToken h).tickFresh.cur = s.cur := by simp
      have wg' : (s.takeToken h).tickFresh.curWg = s.curWg := wg
      have sel' : (s.takeToken h).tickFresh.selWord = s.selWord := sel
      have launch : (s.takeToken h).tickFresh.launchOfWg = s.launchOfWg := by rw [s.takeToken_groups h]; rfl
      obtain ⟨a, b, c, d, e, g, i, j⟩ := is
      rw [sel'] at a j
      rw [launch, wg'] at b
      rw [cur] at g
      rw [wg'] at i
      exact ⟨a, b, c, d, e, g, i, j⟩

omit some' in
theorem amSend_bad {l : Nat} {r : List Nat} (lanes : lanesOf (s.active h) = l :: r) (bad : ¬ RingNamed s f l) :
    ∃ t, exec (.amSend h f) s = .next t ∧ Stops s t 0 (s.active h) 0x08 (BitVec.ofNat 64 (s.selWord l f.a.toNat).toNat) := by
  have found : (lanesOf (s.active h)).find? (fun l => s.amTargetBad f l) = some l := by
    rw [lanes, List.find?_cons, (State.amTargetBad_iff first.2.2.2.2.1 f l).2 bad]
  refine ⟨_, ?_, raises first h (s.active h) (code := cACCESS) _ (by decide)⟩
  show execAmSend h f s = _
  unfold execAmSend
  dsimp only
  rw [State.withOperandsLate_ready _ _ _ _ _ _ _ _ _ _ _ ready]
  rw [found, BitVec.ofNat_toNat]

end Send

section Done

variable {s : State} (first : First s) (h : Hdr) (f : FmtE)
include first

theorem amDone_passes (done : s.active h = 0 ∨ s.packetsDone s.curWg = true ∧ (s.unperformed s.curCtx).filter s.outstanding = [] ∧ s.roundsDue s.curCtx = []) :
    Retires s h (exec (.amDone h f) s) (fun _ => seqPos s.cur.pos) (fun _ x => x) := by
  obtain ⟨passed, kept, -⟩ := retires_beside first h (.refl s)
  refine ⟨s.retireSeq h, ?_, passed, kept⟩
  show execAmDone h f s = _
  unfold execAmDone
  dsimp only
  rw [State.doneNow_first first.1, first.2.1]
  rcases done with none' | ⟨accepted, own, rounds⟩
  · rw [if_pos (by simp [none'])]
  · by_cases none' : s.active h = 0
    · rw [if_pos (by simp [none'])]
    · rw [if_neg (by simpa using none'), if_neg (by simp [accepted]), own, rounds]
      rfl

theorem amDone_waits (some' : s.active h ≠ 0) (sent : s.packetsDone s.curWg = false) : ∃ t, exec (.amDone h f) s = .next t ∧ Waits s t h .packets := by
  refine ⟨_, ?_, waits_first (Prepares.first first) first h (.amDone h f) .packets 4⟩
  show execAmDone h f s = _
  unfold execAmDone
  dsimp only
  rw [first.2.1, if_neg (by simpa using some'), if_pos (by simp [sent])]

theorem amDone_acquires (some' : s.active h ≠ 0) (accepted : s.packetsDone s.curWg = true) (due : (s.unperformed s.curCtx).filter s.outstanding ≠ [] ∨ s.roundsDue s.curCtx ≠ []) :
    ∃ t, exec (.amDone h f) s = .next t ∧ Waits s t h (.gone ((s.unperformed s.curCtx).filter s.outstanding) (s.roundsDue s.curCtx)) := by
  refine ⟨_, ?_, waits_first (Prepares.carry s [2]) first h (.amDone h f) _ 4⟩
  show execAmDone h f s = _
  unfold execAmDone
  dsimp only
  rw [first.2.1, if_neg (by simpa using some'), if_neg (by simp [accepted]), if_neg (by simpa [Decidable.or_iff_not_imp_left] using due)]

end Done

section Spawn

variable {s : State} {core launch : Nat} {r : RxRing} {p : Packet} {rest : List Packet} (ring : tblFind (s.core core).rings launch = some r) (packets : r.packets = p :: rest)
  (due : s.spawnDue core launch = true) (runs : s.running (Config.dieOfCore core) (s.launch launch).ctx = true) (live : (s.launch launch).halting = false)
  (reached : ∀ q ∈ takePackets r.packets, s.roundsReached q.rounds = true)
include ring packets due runs live reached

/-- R187: the first packet of a ring that is due has an invalid index. -/
theorem handlerSpawn_faults (invalid : s.handlerEntry launch p.handler = 0) : exec (.handlerSpawn core launch) s =
    .next ((((if p.handler < (s.launch launch).kr.handN then s.noteWalks (s.launch launch).ctx (s.badWalks (s.launch launch).ctx [(s.launch launch).kr.handVA + 8 * p.handler]) else s).modCore core
      (fun c => { c with rings := tblPut c.rings launch { r with packets := rest } })).handlerFault core launch p).again (.handlerSpawn core launch)) := by
  have all : s.roundsReached ((takePackets (p :: rest)).map (fun p => p.rounds)).flatten = true := by
    rw [State.roundsReached, List.all_flatten, List.all_map, List.all_eq_true, ← packets]
    exact reached
  show execHandlerSpawn core launch s = _
  unfold execHandlerSpawn
  rw [ring]
  dsimp only
  rw [packets]
  dsimp only
  rw [all, due, runs, live, if_neg (by decide), if_neg (by decide), if_pos invalid]

/-- R186: a ring that is due, with a free slot. -/
theorem handlerSpawn_begins {slot : Nat} {more : List Nat} (valid : s.handlerEntry launch p.handler ≠ 0) (free : s.slotsFree core 0 = slot :: more) : exec (.handlerSpawn core launch) s =
    .next (if (s.beginHandler core launch slot (s.handlerEntry launch p.handler) (takePackets r.packets)).spawnDue core launch then
      (s.beginHandler core launch slot (s.handlerEntry launch p.handler) (takePackets r.packets)).again (.handlerSpawn core launch)
      else s.beginHandler core launch slot (s.handlerEntry launch p.handler) (takePackets r.packets)) := by
  have all : s.roundsReached ((takePackets (p :: rest)).map (fun p => p.rounds)).flatten = true := by
    rw [State.roundsReached, List.all_flatten, List.all_map, List.all_eq_true, ← packets]
    exact reached
  show execHandlerSpawn core launch s = _
  unfold execHandlerSpawn
  rw [ring]
  dsimp only
  rw [packets]
  dsimp only
  rw [all, due, runs, live, if_neg (by decide), if_neg (by decide), if_neg valid, free]

end Spawn

/-- R186: the group of packets that begins. -/
theorem spawned_of {s u : State} {core launch slot e : Nat} {ps : List Packet} {o : Out} {ev : Instr} {due : Bool} (run : o = .next (if due then u.again ev else u)) (mem : u.mem = s.mem)
    (begins : (u.group core slot).threads = (List.range 32).map (fun k => packetThread ps k (enteredThread (s.launch launch).kr (BitVec.ofNat 64 e))) ∧
      (u.wg (u.group core slot).wg).handler = true ∧ (u.wg (u.group core slot).wg).launch = launch ∧ (u.wg (u.group core slot).wg).core = core) (small : ps.length ≤ 32) :
    ∃ t, o = .next t ∧ t.mem = s.mem ∧
      let g := t.group core slot
      (t.wg g.wg).handler = true ∧ (t.wg g.wg).launch = launch ∧ (t.wg g.wg).core = core ∧ g.threads.length = 32 ∧
      (∀ k, k < ps.length → (g.thread k).pos = BitVec.ofNat 64 e ∧ (g.thread k).exited = false ∧
        (g.thread k).amsrc = BitVec.ofNat 32 (ps.getD k p).sender ∧ ∀ j, j < 4 → (g.thread k).reg j = ⟨(ps.getD k p).words.getD j 0, false⟩) ∧
      ∀ k, ps.length ≤ k → k < 32 → (g.thread k).exited = true := by
  obtain ⟨threads, handler, launched, home⟩ := begins
  have thread (k : Nat) (hk : k < 32) : (u.group core slot).thread k = packetThread ps k (enteredThread (s.launch launch).kr (BitVec.ofNat 64 e)) := by
    rw [Group.thread, threads, List.getD_eq_getElem _ _ (by simpa using hk)]
    simp
  have last : ∃ y, (if due then u.again ev else u) = { u with timers := y } := by
    cases due
    · exact ⟨_, rfl⟩
    · exact ⟨_, rfl⟩
  obtain ⟨y, same⟩ := last
  refine ⟨_, run, ?_⟩
  rw [same]
  refine ⟨mem, handler, launched, home, ?_, fun k less => ?_, fun k past hk => ?_⟩
  · show (u.group core slot).threads.length = 32
    rw [threads]
    simp
  · show ((u.group core slot).thread k).pos = _ ∧ ((u.group core slot).thread k).exited = _ ∧ ((u.group core slot).thread k).amsrc = _ ∧ ∀ j, j < 4 → ((u.group core slot).thread k).reg j = _
    rw [thread k (by omega)]
    exact packetThread_takes less _
  · show ((u.group core slot).thread k).exited = true
    rw [thread k hk]
    exact packetThread_idle past _

/-- Settles O34. -/
theorem activeMessages : Obligations.ActiveMessages := by
  refine ⟨?_, ?_, ?_⟩
  · intro s h f first act n kr target good
    refine ⟨fun ready some' => ⟨fun fine => ?_, fun l r lanes bad => amSend_bad first ready lanes bad⟩, amDone_passes first h f, amDone_waits first h f, amDone_acquires first h f⟩
    obtain ⟨t, id, p, run, passed, token, pend, wait, sent⟩ := amSend_passes first ready some' fine
    refine ⟨t, id, p, run, passed, token, pend, wait, fun l hl => ?_⟩
    obtain ⟨q, listed, is⟩ := sent l hl
    exact ⟨q, listed, is.core, is.launch, is.lane, is.op, is.handler, is.sender, is.senderWg, is.words⟩
  · intro s id p r found alone
    refine ⟨fun widen => ?_, fun judged live ring => ⟨fun kept room => ?_, fun full => ?_⟩⟩
    · obtain ⟨mem, sent⟩ := State.packetArrives_judged found alone widen
      exact ⟨⟨_, rfl, mem, sent⟩, ⟨_, rfl, mem, sent⟩⟩
    · exact ⟨State.packetArrives_accepted found alone judged live ring kept room rfl, State.packetArrives_accepted found alone judged live ring kept room rfl⟩
    · have refused := State.packetArrives_refused found alone judged live ring full
      exact ⟨congrArg Host.Outcome.next refused, congrArg Host.Outcome.next refused⟩
  · intro s core launch r p rest ring packets x ps e due runs live reached
    have taken : takePackets r.packets = ps := by
      show takePackets r.packets = (r.packets.filter _).take 32
      rw [packets]
      rfl
    rw [← taken] at reached
    refine ⟨fun slot more valid free => ?_, fun invalid none' listed plain => ?_⟩
    · have run := handlerSpawn_begins ring packets due runs live reached valid free
      rw [taken] at run
      exact spawned_of run (s.beginHandler_mem core launch slot (s.handlerEntry launch p.handler) ps).1 (s.beginHandler_begins core launch slot (s.handlerEntry launch p.handler) ps)
        (List.length_take_le 32 _)
    · have run := handlerSpawn_faults ring packets due runs live reached invalid
      have noted : ∀ (a : Bool) (l : List Nat), ∃ b, (if a then s.noteWalks x.ctx l else s) = { s with malformed := b } := by
        intro a l
        cases a
        · exact ⟨_, rfl⟩
        · exact ⟨_, s.noteWalks_frame x.ctx l⟩
      obtain ⟨b, note⟩ := noted (decide (p.handler < x.kr.handN)) (s.badWalks x.ctx [x.kr.handVA + 8 * p.handler])
      simp only [decide_eq_true_eq] at note
      rw [note] at run
      obtain ⟨halting, fault, due⟩ := State.handlerFault_ends (({ s with malformed := b } : State).modCore core (fun c => { c with rings := tblPut c.rings launch { r with packets := rest } })) core launch p live none' plain
      refine ⟨_, _, run, halting, fault, rfl, rfl, fun w z mine is => List.mem_append_left _ (due w z mine is)⟩

end Sys2Proof.Proofs.Packets
end

section
/-! SUPPORT. The spaces beside g: their bytes as loads read them and stores write them (R188-R192, R22), and constants (R218, R24). -/

namespace Sys2Proof.Machine

open Sys2Proof.Claims

/-! ### The last of a run of writes -/

section LastWrite

variable {σ α β : Type} {step : σ → α → σ} {view : σ → β} {hit : α → Prop} {val : α → β} {I : σ → Prop} {l : List α}
  (steps : ∀ s, I s → ∀ x ∈ l, I (step s x) ∧ (¬ hit x → view (step s x) = view s) ∧ (hit x → view (step s x) = val x))
include steps

theorem foldl_holds : ∀ s, I s → I (l.foldl step s) := by
  induction l with
  | nil => exact fun _ h => h
  | cons a r ih => exact fun s h => ih (fun s hs x hx => steps s hs x (List.mem_cons_of_mem _ hx)) _ (steps s h a List.mem_cons_self).1

theorem foldl_unhit (none' : ∀ x ∈ l, ¬ hit x) : ∀ s, I s → view (l.foldl step s) = view s := by
  induction l with
  | nil => exact fun _ _ => rfl
  | cons a r ih =>
    intro s h
    obtain ⟨keeps, miss, -⟩ := steps s h a List.mem_cons_self
    rw [List.foldl_cons, ih (fun s hs x hx => steps s hs x (List.mem_cons_of_mem _ hx)) (fun x hx => none' x (List.mem_cons_of_mem _ hx)) _ keeps]
    exact miss (none' a List.mem_cons_self)

/-- What is written last stays. -/
theorem foldl_last {a c : List α} {x : α} (cut : l = a ++ x :: c) (here : hit x) (after : ∀ y ∈ c, ¬ hit y) (s : σ) (h : I s) : view (l.foldl step s) = val x := by
  subst cut
  have before := foldl_holds (l := a) (view := view) (hit := hit) (val := val) (fun s hs y hy => steps s hs y (List.mem_append_left _ hy)) s h
  obtain ⟨keeps, -, writes⟩ := steps _ before x (List.mem_append_right _ List.mem_cons_self)
  rw [List.foldl_append, List.foldl_cons, foldl_unhit (fun s hs y hy => steps s hs y (List.mem_append_right _ (List.mem_cons_of_mem _ hy))) after _ keeps]
  exact writes here

end LastWrite

/-! ### Bytes of numbers -/

theorem leNat_byte (l : List Byte) (j : Nat) : leNat l / 256 ^ j % 256 = (l.getD j 0).toNat := by
  induction l generalizing j with
  | nil => simp [leNat]
  | cons b r ih =>
    have small := b.isLt
    cases j with
    | zero =>
      rw [leNat, Nat.pow_zero, Nat.div_one, List.getD_cons_zero]
      omega
    | succ k =>
      rw [leNat, List.getD_cons_succ, ← ih, Nat.pow_succ, Nat.mul_comm (256 ^ k), ← Nat.div_div_eq_div_mul]
      congr 2
      omega

theorem leBytes_byte (n x : Nat) {j : Nat} (less : j < n) : (leBytes n x).getD j 0 = BitVec.ofNat 8 (x / 256 ^ j) := by
  rw [← leBytes_range, List.getD_eq_getElem _ _ (by simpa using less)]
  simp

theorem extract_byte (x i j : Nat) (less : j < 4) : (BitVec.ofNat 32 (x / 2 ^ (32 * i))).extractLsb' (8 * j) 8 = BitVec.ofNat 8 (x / 256 ^ (4 * i + j)) := by
  apply BitVec.eq_of_toNat_eq
  have split : x / 256 ^ (4 * i + j) = x / 2 ^ (32 * i) / 2 ^ (8 * j) := by
    rw [Nat.div_div_eq_div_mul, ← Nat.pow_add, show 256 = 2 ^ 8 from rfl, ← Nat.pow_mul]
    congr 2
    omega
  rw [BitVec.extractLsb'_toNat, BitVec.toNat_ofNat, BitVec.toNat_ofNat, split, Nat.shiftRight_eq_div_pow]
  generalize x / 2 ^ (32 * i) = y
  interval_cases j <;> omega

theorem word_byte (w : Word) {j : Nat} (less : j < 4) : BitVec.ofNat 8 (w.toNat / 256 ^ j) = w.extractLsb' (8 * j) 8 := by
  have same := extract_byte w.toNat 0 j less
  simpa using same.symm

/-- Byte j of a list of pieces of c bytes. -/
theorem flatten_byte {c : Nat} (f : Nat → List Byte) (width : ∀ i, (f i).length = c) (m : Nat) {j : Nat} (less : j < m * c) : ((List.range m).map f).flatten.getD j 0 = (f (j / c)).getD (j % c) 0 := by
  induction m generalizing f j with
  | zero => omega
  | succ m ih =>
    rw [List.range_succ_eq_map, List.map_cons, List.map_map, List.flatten_cons]
    by_cases low : j < c
    · rw [List.getD_append _ _ _ _ (by rw [width]; exact low), Nat.div_eq_of_lt low, Nat.mod_eq_of_lt low]
    · have pos : 0 < c := by
        rcases Nat.eq_zero_or_pos c with rfl | h
        · omega
        · exact h
      rw [List.getD_append_right _ _ _ _ (by rw [width]; omega), width, ih (f ∘ Nat.succ) (fun i => width _) (by rw [Nat.succ_mul] at less; omega)]
      obtain ⟨k, rfl⟩ : ∃ k, j = k + c := ⟨j - c, by omega⟩
      rw [Nat.add_sub_cancel, Nat.add_mod_right, Nat.add_div_right _ pos]
      rfl

theorem memBytes_length (m : List Host.Cell) (a n : Nat) : (memBytes m a n).length = n := by simp [memBytes]

theorem tabBytes_length (t : Tbl Byte) (a n : Nat) : (tabBytes t a n).length = n := by simp [tabBytes]

theorem tabBytes_byte (t : Tbl Byte) (a n : Nat) {j : Nat} (less : j < n) : (tabBytes t a n).getD j 0 = tblGet 0 t (a + j) := by
  rw [List.getD_eq_getElem _ _ (by rw [tabBytes_length]; exact less)]
  simp [tabBytes]

/-! ### What a load gathers (R219) -/

/-- R219: the bytes of each lane, 16 to a lane. -/
def gatherBytes (rd : Acc → List Byte) (l : List Acc) : Tbl Byte := l.foldl (fun t x => (placed (x.lane * 16) (rd x)).foldl (fun t b => tblPut t b.1 b.2) t) []

theorem gatherBytes_byte {rd : Acc → List Byte} {l : List Acc} (lanes : l.Pairwise (fun x y => x.lane < y.lane)) {n : Nat} (width : ∀ x ∈ l, (rd x).length = n) (small : n ≤ 16) {x : Acc} (hx : x ∈ l) {j : Nat}
    (less : j < n) : tblGet 0 (gatherBytes rd l) (x.lane * 16 + j) = (rd x).getD j 0 := by
  obtain ⟨a, c, cut⟩ := List.append_of_mem hx
  have after : ∀ y ∈ c, ¬ y.lane = x.lane := by
    rw [cut] at lanes
    intro y hy
    have := List.rel_of_pairwise_cons (List.pairwise_append.1 lanes).2.1 hy
    omega
  refine foldl_last (l := l) (view := fun t => tblGet 0 t (x.lane * 16 + j)) (hit := fun y => y.lane = x.lane) (val := fun y => (rd y).getD j 0) (I := fun _ => True)
    (fun t _ y hy => ⟨trivial, fun ne => ?_, fun e => ?_⟩) cut rfl after [] trivial
  · show tblGet 0 (List.foldl _ t _) _ = _
    rw [tblGet_placedAll, if_neg]
    rw [width y hy]
    omega
  · show tblGet 0 (List.foldl _ t _) _ = _
    rw [tblGet_placedAll, if_pos (by rw [width y hy, e]; omega), e, Nat.add_sub_cancel_left]

/-! ### The checks of a space (R188, Table 13-3) -/

theorem State.checkSpace_ok {s : State} {spc : Space} {n : Nat} {m : List (Nat × Nat)} {l : List Acc} (ok : s.checkSpace spc n m = .ok l) :
    l = m.map (fun p => ⟨p.1, p.2, p.2, 0⟩) ∧ ∀ p ∈ m, p.2 % n = 0 ∧ s.inSpace spc p.2 n = true := by
  unfold State.checkSpace at ok
  split at ok
  · cases ok
  next aligned =>
    split at ok
    · cases ok
    next inside =>
      split at ok
      · cases ok
      · refine ⟨(MemChk.ok.inj ok).symm, fun p hp => ⟨?_, ?_⟩⟩
        · simpa using List.find?_eq_none.1 aligned p hp
        · simpa using List.find?_eq_none.1 inside p hp

/-- The accesses of lanes of a space, in the order of their lanes, each aligned and inside it. -/
structure SpaceAccs (s : State) (h : Hdr) (spc : Space) (n : Nat) (l : List Acc) : Prop where
  lanes : l.map Acc.lane = lanesOf (s.active h)
  order : l.Pairwise (fun x y => x.lane < y.lane)
  aligned : ∀ x ∈ l, x.pa % n = 0
  inside : ∀ x ∈ l, s.inSpace spc x.pa n = true

theorem State.checkSpace_accs {s : State} {h : Hdr} {f : FmtM} {spc : Space} {n : Nat} {l : List Acc} (ok : s.checkSpace spc n (addrs s h f) = .ok l) : SpaceAccs s h spc n l := by
  obtain ⟨rfl, fine⟩ := State.checkSpace_ok ok
  have lanes : ((addrs s h f).map (fun p => (⟨p.1, p.2, p.2, 0⟩ : Acc))).map Acc.lane = lanesOf (s.active h) := by
    simp [addrs, Function.comp_def]
  refine ⟨lanes, ?_, fun x hx => ?_, fun x hx => ?_⟩
  · have sorted := lanesOf_sorted (s.active h)
    rw [← lanes] at sorted
    exact List.pairwise_map.1 sorted
  · obtain ⟨p, hp, rfl⟩ := List.mem_map.1 hx
    exact (fine p hp).1
  · obtain ⟨p, hp, rfl⟩ := List.mem_map.1 hx
    exact (fine p hp).2

theorem SpaceAccs.active {s : State} {h : Hdr} {spc : Space} {n : Nat} {l : List Acc} (a : SpaceAccs s h spc n l) {x : Acc} (hx : x ∈ l) : (s.active h).getLsbD x.lane = true := by
  refine mem_lanesOf.1 ?_
  rw [← a.lanes]
  exact List.mem_map.2 ⟨x, hx, rfl⟩

/-! ### Bytes of a space (R188-R192) -/

/-- An aligned access of a power of two of bytes crosses no boundary of a larger one. -/
theorem aligned_within {n b a j : Nat} (pow : n ∣ b) (aligned : a % n = 0) (less : j < n) (pos : 0 < b) : (a + j) / b = a / b ∧ (a + j) % b = a % b + j := by
  obtain ⟨c, rfl⟩ := pow
  obtain ⟨d, rfl⟩ := Nat.dvd_of_mod_eq_zero aligned
  have cpos : 0 < c := Nat.pos_of_ne_zero (by
    rintro rfl
    exact absurd pos (by simp))
  have npos : 0 < n := by omega
  have within : n * (d % c) + j < n * c := by
    have : d % c + 1 ≤ c := Nat.mod_lt d cpos
    calc n * (d % c) + j < n * (d % c) + n := by omega
      _ = n * (d % c + 1) := by rw [Nat.mul_succ]
      _ ≤ n * c := Nat.mul_le_mul_left n this
  have split : n * d + j = n * (d % c) + j + n * c * (d / c) := by
    have := Nat.mod_add_div d c
    calc n * d + j = n * (d % c + c * (d / c)) + j := by rw [this]
      _ = _ := by ring
  rw [split, Nat.add_mul_div_left _ _ pos, Nat.div_eq_of_lt within, Nat.zero_add, Nat.add_mul_mod_self_left, Nat.mod_eq_of_lt within, Nat.mul_div_mul_left _ _ npos, Nat.mul_mod_mul_left]
  exact ⟨rfl, rfl⟩

/-- R191: an access of at most 2^19 bytes lies in the scratchpad of one workgroup. -/
theorem cluster_within {k a j : Nat} (small : k ≤ 19) (aligned : a % 2 ^ k = 0) (less : j < 2 ^ k) : (a + j) / 2 ^ 19 = a / 2 ^ 19 ∧ (a + j) % 2 ^ 19 = a % 2 ^ 19 + j :=
  aligned_within (Nat.pow_dvd_pow 2 small) aligned less (by decide)

theorem State.spaceRead_length (s : State) (spc : Space) (lane a n : Nat) : (s.spaceRead spc lane a n).length = n := by
  cases spc <;> exact tabBytes_length _ _ _

theorem State.spaceRead_byte (s : State) (spc : Space) (lane : Nat) {k a j : Nat} (small : k ≤ 19) (aligned : a % 2 ^ k = 0) (less : j < 2 ^ k) :
    (s.spaceRead spc lane a (2 ^ k)).getD j 0 = spaceByte s s spc lane (a + j) := by
  cases spc with
  | sp => exact tabBytes_byte _ _ _ less
  | ds => exact tabBytes_byte _ _ _ less
  | lp => exact tabBytes_byte _ _ _ less
  | cl =>
    obtain ⟨rank, off⟩ := cluster_within small aligned less
    show (tabBytes (s.wg ((s.rankWg (a / 2 ^ 19)).getD 0)).sp (a % 2 ^ 19) (2 ^ k)).getD j 0 = tblGet 0 (s.wg ((s.rankWg ((a + j) / 2 ^ 19)).getD 0)).sp ((a + j) % 2 ^ 19)
    rw [tabBytes_byte _ _ _ less, rank, off]

/-! ### The loads (R219) -/

theorem State.meterSpace_frame (s : State) (spc : Space) (n : Nat) (l : List Acc) : s.meterSpace spc n l = { s with metered := (s.meterSpace spc n l).metered } := by
  unfold State.meterSpace
  split
  · refine List.foldlRecOn (motive := fun (t : State) => t = { s with metered := t.metered }) l _ rfl fun t ht x _ => ?_
    unfold State.movedAt
    exact ht ▸ rfl
  · rfl

theorem Beside.meterSpace (s : State) (spc : Space) (n : Nat) (l : List Acc) : Beside s (s.meterSpace spc n l) := by
  refine .of_wgs ?_ ?_ ?_ ?_ ?_ <;> rw [s.meterSpace_frame]

theorem Beside.holdPort (s : State) (n : Nat) (l : List Acc) : Beside s (s.holdPort n l) := by
  unfold State.holdPort
  dsimp only
  split
  · exact .refl s
  · exact .modCore s _ _

/-- R189, R219: the result of a load that gathers bytes, under way. -/
def gatheredPend (s : State) (h : Hdr) (f : FmtM) (sx : Bool) (bytes : Tbl Byte) (l : List Acc) (bad : Option (Nat × Bad)) : Pend where
  core := s.cur.core
  slot := s.cur.slot
  kind := 3
  path := s.cur.path
  lanes := s.cur.lanes
  act := s.active h
  pos := s.cur.pos
  tok := h.tok.toNat
  size := sizeBytes f
  sx := sx
  dst := f.data.toNat
  bytes := bytes
  eas := l.map (fun x => (x.lane, BitVec.ofNat 64 x.ea))
  bad := bad

/-- R219, R230: a load that completes later has its result under way. -/
theorem gathers {s u : State} (first : First s) (h : Hdr) (before : Beside s u) (fresh : u.fresh = s.fresh) (p : Pend) :
    let t := (((u.takeToken h).addPend p).later (.loadCompletion (u.takeToken h).fresh)).retireSeq h
    Passed s t h ∧ TokenUp s t h ∧ tblFind t.pends s.fresh = some p := by
  obtain ⟨passed, token, retired⟩ := passes_beside first h before (v := ((u.takeToken h).addPend p).later (.loadCompletion (u.takeToken h).fresh)) (.of_wgs rfl rfl rfl rfl rfl)
  refine ⟨passed, token, ?_⟩
  rw [retired.pends]
  have number : (u.takeToken h).fresh = s.fresh := by rw [u.takeToken_groups h]; exact fresh
  show tblFind (tblPut (u.takeToken h).pends (u.takeToken h).fresh p) s.fresh = _
  rw [number, tblFind_tblPut_self]

/-- R350: where no codeword is uncorrectable, no access meets one. -/
theorem State.badSpace_none {s : State} (good : s.bad = []) (spc : Space) (lane a n : Nat) : s.badSpace spc lane a n = none := by
  cases spc <;> simp [State.badSpace, State.badIn, good]

theorem State.badMem_none {s : State} (good : s.bad = []) (pa n : Nat) : s.badMem pa n = none := by
  simp [State.badMem, good]

/-- R219: the registers that a load writes, the lowest lane first. -/
theorem loadWrites_regs (f : FmtM) (n : Nat) (sx : Bool) (lane : Nat) (bytes : Tbl Byte) (tag : Bool) :
    (loadWrites f.data.toNat n sx lane bytes tag).map (fun w => (w.lane, w.reg)) = (destRegs f n).map (fun r => (lane, r)) := by
  unfold loadWrites destRegs
  by_cases zero : f.data = 0x1FE
  · rw [if_pos (by rw [zero]; rfl), if_pos zero]
    rfl
  · rw [if_neg (fun e : f.data.toNat = 510 => zero (BitVec.eq_of_toNat_eq e)), if_neg zero, List.map_map, List.map_map]
    rfl

theorem loadWrites_lane {dst n : Nat} {sx : Bool} {lane : Nat} {bytes : Tbl Byte} {tag : Bool} {w : LaneWrite} (hw : w ∈ loadWrites dst n sx lane bytes tag) : w.lane = lane := by
  unfold loadWrites at hw
  split at hw
  · cases hw
  · obtain ⟨i, -, rfl⟩ := List.mem_map.1 hw
    rfl

/-- R219: the words of a load of whole words are the bytes it gathered. -/
theorem loadWrites_byte {dst k : Nat} {sx : Bool} {lane : Nat} {bytes : Tbl Byte} {tag : Bool} {w : LaneWrite} (whole : 2 ≤ k) (hw : w ∈ loadWrites dst (2 ^ k) sx lane bytes tag) {j : Nat} (less : j < 4) :
    4 * (w.reg - dst) + j < 2 ^ k ∧ w.val.extractLsb' (8 * j) 8 = tblGet 0 bytes (lane * 16 + (4 * (w.reg - dst) + j)) := by
  obtain ⟨m, rfl⟩ : ∃ m, k = m + 2 := ⟨k - 2, by omega⟩
  have four : 2 ^ (m + 2) = 4 * 2 ^ m := by rw [Nat.pow_add, Nat.mul_comm]
  have long : ¬ 2 ^ (m + 2) < 4 := by
    have := Nat.one_le_two_pow (n := m)
    omega
  unfold loadWrites at hw
  split at hw
  · cases hw
  · obtain ⟨i, hi, rfl⟩ := List.mem_map.1 hw
    rw [List.mem_range] at hi
    have inside : 4 * i + j < 2 ^ (m + 2) := by
      rw [four] at hi ⊢
      omega
    dsimp only
    rw [if_neg (by simp [long]), Nat.add_sub_cancel_left, extract_byte _ _ _ less]
    refine ⟨inside, ?_⟩
    apply BitVec.eq_of_toNat_eq
    rw [BitVec.toNat_ofNat, show 2 ^ 8 = 256 from rfl, leNat_byte, tabBytes_byte _ _ _ inside]

end Sys2Proof.Machine

namespace Sys2Proof.Proofs.Spaces

open Sys2Proof.Machine Sys2Proof.Claims

section Loads

variable {s : State} {h : Hdr} {f : FmtM} {l : List Acc}

/-- R189, R219: the bytes that a load of a space gathers. -/
def spaceBytes (s : State) (f : FmtM) (spc : Space) (l : List Acc) : Tbl Byte := gatherBytes (fun x => s.spaceRead spc x.lane x.pa (sizeBytes f)) l

theorem spaceBytes_byte {spc : Space} (small : f.size.toNat ≤ 4) (accs : SpaceAccs s h spc (width f) l) {x : Acc} (hx : x ∈ l) {j : Nat} (less : j < width f) :
    tblGet 0 (spaceBytes s f spc l) (x.lane * 16 + j) = spaceByte s s spc x.lane (x.pa + j) := by
  have sixteen : sizeBytes f ≤ 16 := Nat.pow_le_pow_right (by decide) small
  rw [spaceBytes, gatherBytes_byte accs.order (fun y _ => s.spaceRead_length spc y.lane y.pa _) sixteen hx less]
  exact s.spaceRead_byte spc x.lane (by omega) (accs.aligned x hx) less

/-- R350: the uncorrectable codeword that a load of a space meets first. -/
def spaceBad (s : State) (f : FmtM) (spc : Space) (l : List Acc) : Option (Nat × Bad) := l.findSome? (fun x => (s.badSpace spc x.lane x.pa (sizeBytes f)).map (fun b => (x.lane, b)))

theorem spaceBad_none (good : s.bad = []) (spc : Space) : spaceBad s f spc l = none := by
  rw [spaceBad, List.findSome?_eq_none_iff]
  intro x _
  rw [State.badSpace_none good]
  rfl

variable (small : f.size.toNat ≤ 4) (ready : LoadReady s h f (.pair f.addr.toNat) (width f))
include small ready

omit small in
theorem load_runs {spc : Space} {i : Instr} (ok : s.checkSpace spc (width f) (addrs s h f) = .ok l) : s.loadSpace h i f spc = s.loadedSpace h i f spc (s.active h) l := by
  rw [State.loadSpace_eq, State.memOp_ready (by rw [loadRegs_eq]; exact ready.2), eas_eq, show sizeBytes f = width f from rfl, ok]

/-- R190, R192, R22, R219: a load of a space that completes later. -/
theorem load_later {spc : Space} (other : spc ≠ .sp) {i : Instr} {o : Out} (run : o = .next (s.loadSpace h i f spc)) (ok : s.checkSpace spc (width f) (addrs s h f) = .ok l) :
    ∃ t p, o = .next t ∧ Passed s t h ∧ TokenUp s t h ∧ UnderWay s t h s.fresh p ∧ p.kind = 3 ∧ p.size = width f ∧ p.dst = f.data.toNat ∧ p.missing = [] ∧ p.wait = 0 ∧
      p.sx = (f.mode == 1) ∧ ∀ x ∈ l, ∀ j, j < width f → tblGet 0 p.bytes (x.lane * 16 + j) = spaceByte s s spc x.lane (x.pa + j) := by
  let p := gatheredPend s h f (f.mode == 1) (spaceBytes s f spc l) l (spaceBad s f spc l)
  have fresh : (s.meterSpace spc (sizeBytes f) l).fresh = s.fresh := by rw [s.meterSpace_frame]
  obtain ⟨passed, token, pend⟩ := gathers ready.1 h (.meterSpace s spc (sizeBytes f) l) fresh p
  rw [load_runs ready ok, State.loadedSpace, if_neg other] at run
  exact ⟨_, p, run, passed, token, ⟨pend, rfl, rfl, rfl, rfl, rfl, rfl, rfl, rfl, fun good => spaceBad_none good spc⟩, rfl, rfl, rfl, rfl, rfl, rfl,
    fun x hx j less => spaceBytes_byte small (State.checkSpace_accs ok) hx less⟩

omit small in
/-- R50, R191, R219: ldsp writes its registers 24 cycles later. -/
theorem ldsp_fixed (ok : s.checkSpace .sp (width f) (addrs s h f) = .ok l) :
    ∃ t p, exec (.ldsp h f) s = .next t ∧ Passed s t h ∧ TokenUp s t h ∧ UnderWay s t h s.fresh p ∧ p.kind = 0 ∧ p.due = (s.core s.cur.core).cycles + 24 ∧
      p.writes = ((lanesOf (s.active h)).map (fun y => loadWrites f.data.toNat (width f) (f.mode == 1) y (spaceBytes s f .sp l) false)).flatten := by
  let writes := ((lanesOf (s.active h)).map (fun y => loadWrites f.data.toNat (sizeBytes f) (f.mode == 1) y (spaceBytes s f .sp l) false)).flatten
  let p : Pend := { gatheredPend s h f (f.mode == 1) (spaceBytes s f .sp l) l (spaceBad s f .sp l) with kind := 0, size := 0, writes := writes }
  have first := ready.1
  have run : exec (.ldsp h f) s = .next (((((s.meterSpace .sp (sizeBytes f) l).takeToken h).holdPort (sizeBytes f) l).pendFixed 24 p).retireSeq h) := by
    refine congrArg Host.Outcome.next ((load_runs (i := .ldsp h f) ready ok).trans ?_)
    rw [State.loadedSpace, if_pos rfl]
    exact if_neg (by rw [first.1]; exact Nat.lt_irrefl 0)
  let u := s.meterSpace .sp (sizeBytes f) l
  have frame : u = { s with metered := u.metered } := s.meterSpace_frame _ _ _
  have held : ((u.takeToken h).holdPort (sizeBytes f) l).fresh = s.fresh ∧ (((u.takeToken h).holdPort (sizeBytes f) l).core s.cur.core).cycles = (s.core s.cur.core).cycles := by
    have taken : (u.takeToken h).fresh = s.fresh ∧ (u.takeToken h).core = s.core := by
      rw [u.takeToken_groups h, frame]
      exact ⟨rfl, rfl⟩
    unfold State.holdPort
    dsimp only
    split
    · exact ⟨taken.1, by rw [taken.2]⟩
    · refine ⟨taken.1, ?_⟩
      rw [← taken.2]
      have cur : (u.takeToken h).cur = s.cur := by
        rw [u.takeToken_groups h, frame]
      rw [cur, State.modCore_self]
  have after : Beside (u.takeToken h) (((u.takeToken h).holdPort (sizeBytes f) l).pendFixed 24 p) := (Beside.holdPort _ _ _).trans (.pendFixed _ 24 p)
  obtain ⟨passed, token, retired⟩ := passes_beside first h (Beside.meterSpace s .sp (sizeBytes f) l) after
  refine ⟨_, { p with due := (s.core s.cur.core).cycles + 24 }, run, passed, token, ⟨?_, rfl, rfl, rfl, rfl, rfl, rfl, rfl, rfl, fun good => spaceBad_none good .sp⟩, rfl, rfl, rfl⟩
  rw [retired.pends]
  generalize (u.takeToken h).holdPort (sizeBytes f) l = v at held
  show tblFind (tblPut v.pends v.fresh { p with due := (v.core s.cur.core).cycles + 24 }) s.fresh = _
  rw [held.1, held.2, tblFind_tblPut_self]

omit ready in
theorem ldsp_values (accs : SpaceAccs s h .sp (width f) l) {x : Acc} (hx : x ∈ l) (whole : 4 ≤ width f) {w : LaneWrite}
    (hw : w ∈ ((lanesOf (s.active h)).map (fun y => loadWrites f.data.toNat (width f) (f.mode == 1) y (spaceBytes s f .sp l) false)).flatten) (mine : w.lane = x.lane) {j : Nat} (less : j < 4) :
    w.val.extractLsb' (8 * j) 8 = spaceByte s s .sp x.lane (x.pa + 4 * (w.reg - f.data.toNat) + j) := by
  obtain ⟨m, hm, inm⟩ := List.mem_flatten.1 hw
  obtain ⟨y, -, rfl⟩ := List.mem_map.1 hm
  have lane := loadWrites_lane inm
  have two : 2 ≤ f.size.toNat := by
    by_contra h
    have : width f ≤ 2 := Nat.pow_le_pow_right (n := 2) (j := 1) (by decide) (by omega)
    omega
  obtain ⟨inside, byte⟩ := loadWrites_byte (k := f.size.toNat) two inm less
  rw [byte, ← lane, mine, spaceBytes_byte small accs hx inside, Nat.add_assoc]

/-- R218, R24: the words that ldc gathers. -/
def constBytes (s : State) (f : FmtM) (l : List Acc) : Tbl Byte :=
  gatherBytes (fun x => ((List.range (sizeBytes f / 4)).map (fun j => s.startOrNow (s.launchOfWg s.curWg) (x.pa + 4 * j) 4)).flatten) l

end Loads

theorem checkLdc_order {s : State} {f : FmtM} {n : Nat} {act : BitVec 32} {l : List Acc} (ok : s.checkLdc f n act = .ok l) : l.Pairwise (fun x y => x.lane < y.lane) := by
  unfold State.checkLdc at ok
  dsimp only at ok
  split at ok
  · cases ok
  · split at ok
    · cases ok
    · split at ok
      · cases ok
      · split at ok
        · cases ok
        · rw [← MemChk.ok.inj ok]
          refine List.pairwise_filterMap.2 (List.pairwise_map.2 ((lanesOf_sorted act).imp fun {a b} less x hx y hy => ?_))
          have lane {p : Nat × Nat} {z : Acc} (hz : (match s.walk s.curCtx ((s.window (f.off.toNat / 2 ^ 20)).1 + p.2) with | .ok pa e => some (⟨p.1, p.2, pa, e⟩ : Acc) | _ => none) = some z) : z.lane = p.1 := by
            split at hz
            · rw [← Option.some.inj hz]
            · cases hz
          rw [lane hx, lane hy]
          exact less

/-- R24: a word as at launch start or as it stands. -/
theorem startOrNow_word (s : State) (l pa : Nat) : (s.startOrNow l pa 4).length = 4 ∧ (s.startOrNow l pa 4 = memBytes (s.launch l).snap pa 4 ∨ s.startOrNow l pa 4 = memBytes s.mem pa 4) := by
  unfold State.startOrNow snapBytes
  dsimp only
  split
  · exact ⟨memBytes_length _ _ _, .inr rfl⟩
  · split
    · exact ⟨memBytes_length _ _ _, .inl rfl⟩
    · exact ⟨memBytes_length _ _ _, .inr rfl⟩

section Constants

variable {s : State} {h : Hdr} {f : FmtM} {l : List Acc}

theorem constBytes_word (small : f.size.toNat ≤ 4) (order : l.Pairwise (fun x y => x.lane < y.lane)) {x : Acc} (hx : x ∈ l) {j : Nat} (less : j < width f / 4) :
    tabBytes (constBytes s f l) (x.lane * 16 + 4 * j) 4 = s.startOrNow (s.launchOfWg s.curWg) (x.pa + 4 * j) 4 := by
  have words (y : Acc) (i : Nat) : (s.startOrNow (s.launchOfWg s.curWg) (y.pa + 4 * i) 4).length = 4 := (startOrNow_word s _ _).1
  have whole : width f / 4 * 4 = width f := by
    have two : 2 ≤ f.size.toNat := by
      by_contra h
      have : width f ≤ 2 := Nat.pow_le_pow_right (n := 2) (j := 1) (by decide) (by omega)
      omega
    exact Nat.div_mul_cancel (Nat.pow_dvd_pow 2 (m := 2) two)
  have len (y : Acc) : (((List.range (sizeBytes f / 4)).map (fun j => s.startOrNow (s.launchOfWg s.curWg) (y.pa + 4 * j) 4)).flatten).length = width f := by
    have each : ((List.range (sizeBytes f / 4)).map (fun j => s.startOrNow (s.launchOfWg s.curWg) (y.pa + 4 * j) 4)).map List.length = List.replicate (sizeBytes f / 4) 4 := by
      rw [List.map_map, List.eq_replicate_iff]
      refine ⟨by simp, fun b hb => ?_⟩
      obtain ⟨i, -, rfl⟩ := List.mem_map.1 hb
      exact words y i
    rw [List.length_flatten, each, List.sum_replicate, smul_eq_mul]
    exact whole
  have sixteen : width f ≤ 16 := Nat.pow_le_pow_right (by decide) small
  refine List.ext_getElem (by rw [tabBytes_length, words]) fun i hi hi' => ?_
  rw [tabBytes_length] at hi
  rw [← List.getD_eq_getElem _ 0 (by rw [tabBytes_length]; exact hi), ← List.getD_eq_getElem _ 0 hi', tabBytes_byte _ _ _ hi, Nat.add_assoc, constBytes,
    gatherBytes_byte order (fun y _ => len y) sixteen hx (by omega), flatten_byte _ (words x) _ (by rw [show sizeBytes f = width f from rfl]; omega)]
  rw [show (4 * j + i) / 4 = j by omega, show (4 * j + i) % 4 = i by omega]

theorem ldc_gathers (small : f.size.toNat ≤ 4) (ready : LoadReady s h f (.reg f.addr.toNat) (width f)) (ok : s.checkLdc f (width f) (s.active h) = .ok l) :
    ∃ t p, exec (.ldc h f) s = .next t ∧ Passed s t h ∧ TokenUp s t h ∧ UnderWay s t h s.fresh p ∧ p.size = width f ∧ p.dst = f.data.toNat ∧ p.missing = [] ∧
      ∀ x ∈ l, ∀ j, j < width f / 4 → tabBytes p.bytes (x.lane * 16 + 4 * j) 4 = s.startOrNow (s.launchOfWg s.curWg) (x.pa + 4 * j) 4 := by
  let bad := l.findSome? (fun x => (s.badMem x.pa (sizeBytes f)).map (fun b => (x.lane, b)))
  let p := gatheredPend s h f false (constBytes s f l) l bad
  obtain ⟨passed, token, pend⟩ := gathers ready.1 h (.refl s) rfl p
  refine ⟨_, p, ?_, passed, token, ⟨pend, rfl, rfl, rfl, rfl, rfl, rfl, rfl, rfl, fun good => ?_⟩, rfl, rfl, rfl, fun x hx j less => constBytes_word small (checkLdc_order ok) hx less⟩
  · show execLdc h f s = _
    unfold execLdc
    dsimp only
    rw [State.memOp_ready (by rw [loadRegs_eq]; exact ready.2), show sizeBytes f = width f from rfl, ok]
    rfl
  · show bad = none
    rw [List.findSome?_eq_none_iff]
    intro x _
    rw [State.badMem_none good]
    rfl

end Constants

theorem spaceLoads : SpaceLoads := by
  intro s h f l small n under later
  refine ⟨fun ready => ⟨fun ok => ?_, fun ok => load_later small ready (spc := .cl) (fun e => nomatch e) rfl ok, fun ok => load_later small ready (spc := .ds) (fun e => nomatch e) rfl ok,
    fun ok => load_later small ready (spc := .lp) (fun e => nomatch e) rfl ok⟩, fun ready whole ok => ?_⟩
  · obtain ⟨t, p, run, passed, token, pend, kind, due, writes⟩ := ldsp_fixed ready ok
    refine ⟨t, p, run, passed, token, pend, kind, due, ?_, fun x hx whole w hw mine j less => ?_⟩
    · rw [writes, List.map_flatten, List.map_map]
      congr 1
      exact List.map_congr_left fun y _ => loadWrites_regs f _ _ y _ _
    · rw [writes] at hw
      exact ldsp_values small (State.checkSpace_accs ok) hx whole hw mine less
  · obtain ⟨t, p, run, passed, token, pend, size, dst, missing, words⟩ := ldc_gathers small ready ok
    refine ⟨t, p, run, passed, token, pend, size, dst, missing, fun x hx j less => ?_⟩
    show tabBytes p.bytes (x.lane * 16 + 4 * j) 4 = _ ∨ tabBytes p.bytes (x.lane * 16 + 4 * j) 4 = _
    rw [words x hx j less]
    exact (startOrNow_word s _ _).2

end Sys2Proof.Proofs.Spaces
end

section
/-! SUPPORT. Stores to the spaces beside g: what one of them writes, and what it leaves as it is (R188-R192, R22, R220). -/

namespace Sys2Proof.Machine

open Sys2Proof.Claims

/-! ### Tables whose entries keep what names them -/

theorem tblPut_map {α β : Type} {t : Tbl α} (sorted : tblSorted t = true) {k : Nat} {x y : α} (found : tblFind t k = some y) {g : Nat × α → β} (same : g (k, x) = g (k, y)) : (tblPut t k x).map g = t.map g := by
  induction t with
  | nil => nomatch found
  | cons p r ih =>
    obtain ⟨j, z⟩ := p
    rw [tblPut]
    rw [tblFind] at found
    by_cases here : j = k
    · subst here
      rw [if_pos rfl] at found
      rw [if_neg (Nat.lt_irrefl j), if_pos rfl, List.map_cons, List.map_cons, same, Option.some.inj found]
    · rw [if_neg here] at found
      have above := tblSorted_below sorted (k, y) (mem_of_tblFind found)
      rw [if_neg (by omega), if_neg here, List.map_cons, List.map_cons, ih (tblSorted_tail sorted) found]

theorem tblFind_map_same {α β : Type} {g : α → β} {t u : Tbl α} (same : t.map (fun p => (p.1, g p.2)) = u.map (fun p => (p.1, g p.2))) (k : Nat) : (tblFind t k).map g = (tblFind u k).map g := by
  induction t generalizing u with
  | nil =>
    obtain rfl := List.map_eq_nil_iff.1 same.symm
    rfl
  | cons p r ih =>
    cases u with
    | nil => nomatch same
    | cons q w =>
      obtain ⟨j, x⟩ := p
      obtain ⟨i, y⟩ := q
      rw [List.map_cons, List.map_cons, List.cons.injEq, Prod.mk.injEq] at same
      obtain ⟨⟨rfl, value⟩, rest⟩ := same
      rw [tblFind, tblFind]
      split
      · exact congrArg some value
      · exact ih rest

/-! ### What a store of a space changes -/

/-- What names a workgroup among those of its team. -/
def Workgroup.place (x : Workgroup) : Nat × Nat × Nat × Bool × BitVec 32 := (x.launch, x.team, x.phase, x.handler, x.index)

/-- R188-R192: between the state of an issue and one in which lanes of m have stored to a space. -/
structure StoringTo (s v : State) (m : BitVec 32) : Prop where
  mem : v.mem = s.mem
  hostMem : v.hostMem = s.hostMem
  cur : v.cur = s.cur
  launches : v.launches = s.launches
  rwc : ∀ w, (v.wg w).rwc = (s.wg w).rwc
  sorted : tblSorted v.wgs = true
  places : v.wgs.map (fun p => (p.1, p.2.place)) = s.wgs.map (fun p => (p.1, p.2.place))
  present : v.hasGroup s.cur.core s.cur.slot = true
  owner : (v.group s.cur.core s.cur.slot).wg = (s.group s.cur.core s.cur.slot).wg
  length : (v.group s.cur.core s.cur.slot).threads.length = (s.group s.cur.core s.cur.slot).threads.length
  others : ∀ c q, gkey c q ≠ gkey s.cur.core s.cur.slot → (v.group c q).threads = (s.group c q).threads
  thread : ∀ k, v.thread s.cur.core s.cur.slot k = { s.thread s.cur.core s.cur.slot k with lp := (v.thread s.cur.core s.cur.slot k).lp }
  outside : ∀ k, m.getLsbD k = false → v.thread s.cur.core s.cur.slot k = s.thread s.cur.core s.cur.slot k

namespace StoringTo

variable {s v : State} {m : BitVec 32}

theorem of_same {u : State} (h : StoringTo s v m) (mem : u.mem = v.mem) (hostMem : u.hostMem = v.hostMem) (cur : u.cur = v.cur) (launches : u.launches = v.launches) (wgs : u.wgs = v.wgs)
    (groups : u.groups = v.groups) : StoringTo s u m := by
  have group (c q : Nat) : u.group c q = v.group c q := by rw [State.group, State.group, groups]
  have wg (w : Nat) : u.wg w = v.wg w := by rw [State.wg, State.wg, wgs]
  have thread (k : Nat) : u.thread s.cur.core s.cur.slot k = v.thread s.cur.core s.cur.slot k := by rw [State.thread, State.thread, group]
  refine ⟨mem.trans h.mem, hostMem.trans h.hostMem, cur.trans h.cur, launches.trans h.launches, fun w => by rw [wg, h.rwc], by rw [wgs]; exact h.sorted, by rw [wgs]; exact h.places,
    ?_, by rw [group]; exact h.owner, by rw [group]; exact h.length, fun c q ne => by rw [group]; exact h.others c q ne, fun k => by rw [thread]; exact h.thread k, fun k out => by rw [thread]; exact h.outside k out⟩
  rw [State.hasGroup, groups]
  exact h.present

theorem mend (h : StoringTo s v m) (p : Bad → Bool) : StoringTo s (v.mend p) m := h.of_same rfl rfl rfl rfl rfl rfl

theorem modDie (h : StoringTo s v m) (d : Nat) (f : Die → Die) : StoringTo s (v.modDie d f) m := h.of_same rfl rfl rfl rfl rfl rfl

/-- A workgroup that there is changes, but not what names it, nor its count. -/
theorem modWg (h : StoringTo s v m) {w : Nat} (found : (tblFind s.wgs w).isSome = true) (f : Workgroup → Workgroup) (place : ∀ x, (f x).place = x.place := by intro _; rfl)
    (rwc : ∀ x, (f x).rwc = x.rwc := by intro _; rfl) : StoringTo s (v.modWg w f) m := by
  have here : ∃ y, tblFind v.wgs w = some y := by
    have same := tblFind_map_same h.places w
    obtain ⟨x, hx⟩ := Option.isSome_iff_exists.1 found
    rw [hx] at same
    obtain ⟨y, hy, -⟩ := Option.map_eq_some_iff.1 same
    exact ⟨y, hy⟩
  obtain ⟨y, hy⟩ := here
  have now : v.wg w = y := by rw [State.wg, tblGet, hy]; rfl
  refine { h with rwc := fun j => (v.modWg_rwc w j f rwc).trans (h.rwc j), sorted := tblSorted_tblPut _ _ _ h.sorted, places := ?_ }
  refine Eq.trans ?_ h.places
  show (tblPut v.wgs w (f (v.wg w))).map _ = _
  exact tblPut_map h.sorted hy (by rw [place, now])

theorem noteFirst (h : StoringTo s v m) {w : Nat} (found : (tblFind s.wgs w).isSome = true) (l : List (Nat × Nat × Nat)) : StoringTo s (v.noteFirst w l) m := by
  unfold State.noteFirst
  split
  · exact h.modWg found _
  · exact h

theorem noteUndo (h : StoringTo s v m) {w : Nat} (found : (tblFind s.wgs w).isSome = true) (rwc : Nat) (l : List (Nat × Byte × Byte)) : StoringTo s (v.noteUndo w rwc l) m := by
  unfold State.noteUndo
  split
  · exact h
  · exact h.modWg found _

theorem putSp (h : StoringTo s v m) {w : Nat} (found : (tblFind s.wgs w).isSome = true) (l : List (Nat × Byte)) : StoringTo s (v.putSp w l) m :=
  ((h.noteFirst found _).modWg found _).mend _

/-- R22: a lane of m stores to its slice. -/
theorem modLp (h : StoringTo s v m) {lane : Nat} (inside : m.getLsbD lane = true) (f : Tbl Byte → Tbl Byte) : StoringTo s (v.modThread s.cur.core s.cur.slot lane (fun t => { t with lp := f t.lp })) m := by
  have step := LandStep.modThread v h.present lane (fun t => { t with lp := f t.lp })
  have length : ((v.modThread s.cur.core s.cur.slot lane (fun t => { t with lp := f t.lp })).group s.cur.core s.cur.slot).threads.length = (v.group s.cur.core s.cur.slot).threads.length := step.length
  have thread (k : Nat) : ∃ x, (v.modThread s.cur.core s.cur.slot lane (fun t => { t with lp := f t.lp })).thread s.cur.core s.cur.slot k = { v.thread s.cur.core s.cur.slot k with lp := x } ∧
      (lane ≠ k → x = (v.thread s.cur.core s.cur.slot k).lp) := by
    by_cases small : k < (v.group s.cur.core s.cur.slot).threads.length
    · rw [step.thread k small]
      by_cases e : lane = k
      · rw [if_pos (by simpa using e)]
        exact ⟨_, rfl, fun ne => absurd e ne⟩
      · rw [if_neg (by simpa using e)]
        exact ⟨_, rfl, fun _ => rfl⟩
    · refine ⟨_, ?_, fun _ => rfl⟩
      rw [State.thread, State.thread, Group.thread, Group.thread, List.getD_eq_default _ _ (by rw [length]; omega), List.getD_eq_default _ _ (by omega)]
  refine ⟨?_, ?_, ?_, ?_, fun w => ?_, ?_, ?_, (step.present _ _).trans h.present, ?_, length.trans h.length, fun c q ne => (congrArg Group.threads (step.others c q ne)).trans (h.others c q ne), fun k => ?_, fun k out => ?_⟩
  · rw [step.state]; exact h.mem
  · rw [step.state]; exact h.hostMem
  · rw [step.state]; exact h.cur
  · rw [step.state]; exact h.launches
  · rw [step.wgKept]; exact h.rwc w
  · simpa using h.sorted
  · simpa using h.places
  · rw [step.here]; exact h.owner
  · obtain ⟨x, same, -⟩ := thread k
    rw [same, h.thread k]
  · obtain ⟨x, same, kept⟩ := thread k
    rw [same, kept (fun e => by rw [e, out] at inside; exact absurd inside Bool.false_ne_true)]
    exact h.outside k out

section Reads

variable (h : StoringTo s v m) (present : s.hasGroup s.cur.core s.cur.slot = true)
include h present

theorem curWg : v.curWg = s.curWg := by
  rw [State.curWg, State.curWg, h.cur, s.wgOf_present present, v.wgOf_present h.present, h.owner]

omit present in
theorem place (w : Nat) : (v.wg w).place = (s.wg w).place := by
  have same := tblFind_map_same h.places w
  rw [State.wg, State.wg, tblGet, tblGet]
  cases a : tblFind v.wgs w <;> cases b : tblFind s.wgs w <;> rw [a, b] at same
  · cases same
  · cases same
  · exact Option.some.inj same

theorem curCtx : v.curCtx = s.curCtx := by
  have launch : (v.wg s.curWg).launch = (s.wg s.curWg).launch := congrArg Prod.fst (h.place s.curWg)
  rw [State.curCtx, State.curCtx, State.ctxOfWg, State.ctxOfWg, h.curWg present, launch, State.launch, State.launch, h.launches]

/-- R190: the workgroups of the team have the ranks they had. -/
theorem rankWg (r : Nat) : v.rankWg r = s.rankWg r := by
  have place := h.place s.curWg
  have launch : (v.wg s.curWg).launch = (s.wg s.curWg).launch := congrArg Prod.fst place
  have team : (v.wg s.curWg).team = (s.wg s.curWg).team := congrArg (fun x => x.2.1) place
  have cur : v.curLaunch = s.curLaunch := by
    rw [State.curLaunch, State.curLaunch, h.curWg present, State.launchOfWg, State.launchOfWg, launch, State.launch, State.launch, h.launches]
  let named (p : Nat × Nat × Nat × Nat × Bool × BitVec 32) : Bool := p.2.1 = (s.wg s.curWg).launch && p.2.2.1 = (s.wg s.curWg).team && p.2.2.2.1 = 0 && !p.2.2.2.2.1 &&
    p.2.2.2.2.2.toNat = s.curLaunch.kr.t * (s.wg s.curWg).team + r
  have one (t : Tbl Workgroup) : (t.find? (fun p => p.2.launch = (s.wg s.curWg).launch && p.2.team = (s.wg s.curWg).team && p.2.phase = 0 && !p.2.handler &&
      p.2.index.toNat = s.curLaunch.kr.t * (s.wg s.curWg).team + r)).map (fun p => p.1) = ((t.map (fun p => (p.1, p.2.place))).find? named).map (fun p => p.1) := by
    rw [List.find?_map, Option.map_map]
    rfl
  rw [State.rankWg, State.rankWg, h.curWg present, launch, team, cur, one, one, h.places]

omit present in
theorem selWord (l r : Nat) : v.selWord l r = s.selWord l r := by
  have regs : v.laneBits l r = s.laneBits l r := by
    rw [State.laneBits, State.laneBits, h.cur, h.thread l]
    rfl
  rw [State.selWord, State.selWord, regs, h.cur]

omit present in
theorem dataBytes (r n l : Nat) : v.dataBytes r n l = s.dataBytes r n l := by
  unfold State.dataBytes
  simp only [h.selWord]

end Reads

end StoringTo

/-! ### Ranks name workgroups (R190) -/

theorem State.rankWg_named {s : State} (sorted : tblSorted s.wgs = true) {r w : Nat} (named : s.rankWg r = some w) :
    ∃ x, tblFind s.wgs w = some x ∧ x.index.toNat = s.curLaunch.kr.t * (s.wg s.curWg).team + r := by
  unfold State.rankWg at named
  dsimp only at named
  split at named
  · cases named
  · obtain ⟨p, found, rfl⟩ := Option.map_eq_some_iff.1 named
    have is := List.find?_some found
    simp only [Bool.and_eq_true, decide_eq_true_eq] at is
    exact ⟨p.2, tblFind_of_mem sorted (List.mem_of_find?_eq_some found), is.2⟩

theorem State.rankWg_inj {s : State} (sorted : tblSorted s.wgs = true) {r q w : Nat} (one : s.rankWg r = some w) (two : s.rankWg q = some w) : r = q := by
  obtain ⟨x, hx, ix⟩ := State.rankWg_named sorted one
  obtain ⟨y, hy, iy⟩ := State.rankWg_named sorted two
  rw [hx] at hy
  rw [Option.some.inj hy] at ix
  omega

theorem State.inSpace_rank {s : State} {a n : Nat} (inside : s.inSpace .cl a n = true) : ∃ w, s.rankWg (a / 2 ^ 19) = some w := by
  unfold State.inSpace at inside
  cases e : s.rankWg (a / 2 ^ 19) with
  | some w => exact ⟨w, rfl⟩
  | none =>
    dsimp only at inside
    rw [e] at inside
    simp at inside

/-! ### One store (R220) -/

theorem State.noteFirst_sp (s : State) (w : Nat) (l : List (Nat × Nat × Nat)) (j : Nat) : ((s.noteFirst w l).wg j).sp = (s.wg j).sp := by
  unfold State.noteFirst
  split
  · by_cases e : j = w
    · rw [e, State.modWg_self]
    · rw [State.modWg_other _ _ e]
  · rfl

theorem State.noteUndo_sp (s : State) (w rwc : Nat) (l : List (Nat × Byte × Byte)) (j : Nat) : ((s.noteUndo w rwc l).wg j).sp = (s.wg j).sp := by
  unfold State.noteUndo
  split
  · rfl
  · by_cases e : j = w
    · rw [e, State.modWg_self]
    · rw [State.modWg_other _ _ e]

theorem State.putSp_sp (s : State) (w : Nat) (l : List (Nat × Byte)) (j : Nat) : ((s.putSp w l).wg j).sp = if j = w then tabSetAll (s.wg j).sp l else (s.wg j).sp := by
  have same : (s.putSp w l).wg j = ((s.noteFirst w (l.map (fun b => (2, b.1 / 256, 0)))).modWg w (fun y => { y with sp := tabSetAll y.sp l })).wg j := rfl
  rw [same]
  split
  next e => rw [e, State.modWg_self, State.noteFirst_sp]
  next e => rw [State.modWg_other _ _ e, State.noteFirst_sp]

theorem State.noteUndo_dies (s : State) (w rwc : Nat) (l : List (Nat × Byte × Byte)) : (s.noteUndo w rwc l).dies = s.dies := by
  unfold State.noteUndo
  split <;> rfl

/-- R220: whether the access y writes the byte a of a space, as lane k sees it. -/
def Acc.writesAt (spc : Space) (n k a : Nat) (y : Acc) : Prop := (spc ≠ .lp ∨ y.lane = k) ∧ y.pa ≤ a ∧ a < y.pa + n

section OneStore

variable {s v : State} {m : BitVec 32} (at' : StoringTo s v m) (present : s.hasGroup s.cur.core s.cur.slot = true) (sorted : tblSorted s.wgs = true) (home : (tblFind s.wgs s.curWg).isSome = true)
include at' present sorted home

theorem StoringTo.write {spc : Space} {lane a : Nat} {l : List Byte} (active : m.getLsbD lane = true) (inside : spc = .cl → ∃ w, s.rankWg (a / 2 ^ 19) = some w) : StoringTo s (v.spaceWrite spc lane a l) m := by
  have curWg := at'.curWg present
  cases spc with
  | sp =>
    show StoringTo s (v.putSp v.curWg (placed a l)) m
    rw [curWg]
    exact at'.putSp home _
  | cl =>
    obtain ⟨w, named⟩ := inside rfl
    obtain ⟨x, found, -⟩ := State.rankWg_named sorted named
    have undone := at'.noteUndo home (v.wg v.curWg).rwc ((List.range l.length).map (fun j => (undoCl w (a % 2 ^ 19) + j, (v.spaceRead .cl lane a l.length).getD j 0, l.getD j 0)))
    have stored := undone.putSp (w := w) (by rw [found]; rfl) (placed (a % 2 ^ 19) l)
    unfold State.spaceWrite
    dsimp only
    rw [at'.rankWg present, named, Option.getD_some, curWg] at *
    exact stored
  | ds =>
    have undone := at'.noteUndo home (v.wg v.curWg).rwc ((List.range l.length).map (fun j => (undoDs v.curCtx (Config.dieOfCore v.cur.core) a + j, (v.spaceRead .ds lane a l.length).getD j 0, l.getD j 0)))
    unfold State.spaceWrite
    dsimp only
    rw [curWg] at *
    exact (undone.modDie _ _).mend _
  | lp =>
    unfold State.spaceWrite
    dsimp only
    rw [curWg, at'.cur]
    exact ((at'.noteFirst home _).modLp active (fun t => tabSetAll t (placed a l))).mend _

end OneStore

theorem State.spaceWrite_die (s : State) (lane a : Nat) (l : List Byte) : (s.spaceWrite .ds lane a l).die (Config.dieOfCore s.cur.core) =
    { s.die (Config.dieOfCore s.cur.core) with ds := tblPut (s.die (Config.dieOfCore s.cur.core)).ds s.curCtx (tabSetAll (tblGet [] (s.die (Config.dieOfCore s.cur.core)).ds s.curCtx) (placed a l)) } := by
  unfold State.spaceWrite
  dsimp only
  generalize (List.range l.length).map _ = z
  have dies := s.noteUndo_dies s.curWg (s.wg s.curWg).rwc z
  generalize s.noteUndo s.curWg (s.wg s.curWg).rwc z = u at dies
  have same : u.die (Config.dieOfCore s.cur.core) = s.die (Config.dieOfCore s.cur.core) := by rw [State.die, State.die, dies]
  have mended (v : State) (p : Bad → Bool) : (v.mend p).die = v.die := rfl
  rw [mended, State.modDie_self, same]

theorem State.spaceWrite_cluster (s : State) (lane a : Nat) (l : List Byte) (j : Nat) : ((s.spaceWrite .cl lane a l).wg j).sp =
    if j = (s.rankWg (a / 2 ^ 19)).getD 0 then tabSetAll (s.wg j).sp (placed (a % 2 ^ 19) l) else (s.wg j).sp := by
  unfold State.spaceWrite
  dsimp only
  generalize (List.range l.length).map _ = z
  rw [State.putSp_sp, State.noteUndo_sp]

/-- R220: the bytes of a space after one store. -/
theorem State.spaceWrite_byte {s v : State} {m : BitVec 32} (at' : StoringTo s v m) (present : s.hasGroup s.cur.core s.cur.slot = true) (sorted : tblSorted s.wgs = true)
    {spc : Space} {e : Nat} (small : e ≤ 19) {y : Acc} {l : List Byte} (width : l.length = 2 ^ e) (aligned : y.pa % 2 ^ e = 0) (inside : s.inSpace spc y.pa (2 ^ e) = true)
    {k a : Nat} (thread : k < (s.group s.cur.core s.cur.slot).threads.length) (here : spc = .cl → ∃ w, s.rankWg (a / 2 ^ 19) = some w) :
    (¬ y.writesAt spc (2 ^ e) k a → spaceByte s (v.spaceWrite spc y.lane y.pa l) spc k a = spaceByte s v spc k a) ∧
    (y.writesAt spc (2 ^ e) k a → spaceByte s (v.spaceWrite spc y.lane y.pa l) spc k a = l.getD (a - y.pa) 0) := by
  have curWg := at'.curWg present
  have both {x z : Byte} {spc : Space} (other : spc ≠ .lp) (is : x = if y.pa ≤ a ∧ a < y.pa + l.length then l.getD (a - y.pa) 0 else z) :
      (¬ y.writesAt spc (2 ^ e) k a → x = z) ∧ (y.writesAt spc (2 ^ e) k a → x = l.getD (a - y.pa) 0) := by
    rw [width] at is
    refine ⟨fun miss => ?_, fun ⟨_, hit⟩ => by rw [is, if_pos hit]⟩
    rw [is, if_neg fun hit => miss ⟨.inl other, hit⟩]
  cases spc with
  | sp =>
    refine both (fun e => nomatch e) ?_
    show tblGet 0 ((v.putSp v.curWg (placed y.pa l)).wg s.curWg).sp a = _
    rw [State.putSp_sp, curWg, if_pos rfl, tblGet_tabSetAll_placed]
    rfl
  | ds =>
    refine both (fun e => nomatch e) ?_
    have now := v.spaceWrite_die y.lane y.pa l
    rw [at'.cur, at'.curCtx present] at now
    rw [spaceByte, spaceByte, now]
    dsimp only
    rw [tblGet_tblPut_self, tblGet_tabSetAll_placed]
  | cl =>
    refine both (fun e => nomatch e) ?_
    obtain ⟨w, named⟩ := State.inSpace_rank inside
    obtain ⟨q, seen⟩ := here rfl
    rw [spaceByte, spaceByte, State.spaceWrite_cluster, at'.rankWg present, named, seen, Option.getD_some, Option.getD_some]
    have low := Nat.div_add_mod a (2 ^ 19)
    have base := Nat.div_add_mod y.pa (2 ^ 19)
    by_cases same : q = w
    · have rank : a / 2 ^ 19 = y.pa / 2 ^ 19 := State.rankWg_inj sorted (same ▸ seen) named
      rw [if_pos same, tblGet_tabSetAll_placed]
      rw [rank] at low
      have iff : (y.pa % 2 ^ 19 ≤ a % 2 ^ 19 ∧ a % 2 ^ 19 < y.pa % 2 ^ 19 + l.length) = (y.pa ≤ a ∧ a < y.pa + l.length) := by
        refine propext ⟨fun ⟨p, r⟩ => ?_, fun ⟨p, r⟩ => ?_⟩ <;> constructor <;> omega
      have off : a % 2 ^ 19 - y.pa % 2 ^ 19 = a - y.pa := by omega
      simp only [iff, off]
    · rw [if_neg same, if_neg]
      rintro ⟨p, r⟩
      obtain ⟨j, rfl⟩ : ∃ j, a = y.pa + j := ⟨a - y.pa, by omega⟩
      obtain ⟨rank, -⟩ := cluster_within small aligned (j := j) (by omega)
      rw [rank, named] at seen
      exact same (Option.some.inj seen).symm
  | lp =>
    have kept : (v.noteFirst v.curWg [(1, (v.group v.cur.core v.cur.slot).idx, y.lane)]).groups = v.groups := by
      unfold State.noteFirst
      split <;> rfl
    let u := v.noteFirst v.curWg [(1, (v.group v.cur.core v.cur.slot).idx, y.lane)]
    have group (c q : Nat) : u.group c q = v.group c q := by rw [State.group, State.group, kept]
    have there : u.hasGroup s.cur.core s.cur.slot = true := by
      rw [State.hasGroup, kept]
      exact at'.present
    have step := LandStep.modThread u there y.lane (fun t => { t with lp := tabSetAll t.lp (placed y.pa l) })
    have now := step.thread k (by rw [group, at'.length]; exact thread)
    have run : spaceByte s (v.spaceWrite .lp y.lane y.pa l) .lp k a = tblGet 0 ((u.modThread s.cur.core s.cur.slot y.lane (fun t => { t with lp := tabSetAll t.lp (placed y.pa l) })).thread s.cur.core s.cur.slot k).lp a := by
      show tblGet 0 ((u.modThread v.cur.core v.cur.slot y.lane _).thread s.cur.core s.cur.slot k).lp a = _
      rw [at'.cur]
    have before : u.thread s.cur.core s.cur.slot k = v.thread s.cur.core s.cur.slot k := by rw [State.thread, State.thread, group]
    rw [run, now, before]
    by_cases mine : y.lane = k
    · rw [if_pos (by simpa using mine)]
      dsimp only
      rw [tblGet_tabSetAll_placed, width]
      refine ⟨fun miss => ?_, fun ⟨_, hit⟩ => by rw [if_pos hit]⟩
      rw [if_neg fun hit => miss ⟨.inr mine, hit⟩]
      rfl
    · rw [if_neg (by simpa using mine)]
      exact ⟨fun _ => rfl, fun ⟨own, _⟩ => absurd (own.resolve_left fun h => h rfl) mine⟩

theorem SameThreads.pendFixed (s : State) (n : Nat) (p : Pend) : SameThreads s (s.pendFixed n p) := .of_groups rfl rfl rfl rfl

/-- Two aligned accesses of n bytes that share one are to one place. -/
theorem aligned_meets {n a b j : Nat} (one : a % n = 0) (two : b % n = 0) (less : j < n) (low : a ≤ b + j) (high : b + j < a + n) : a = b := by
  obtain ⟨c, rfl⟩ := Nat.dvd_of_mod_eq_zero one
  obtain ⟨d, rfl⟩ := Nat.dvd_of_mod_eq_zero two
  have apart {p q : Nat} (h : p + 1 ≤ q) : n * p + n ≤ n * q := by
    calc n * p + n = n * (p + 1) := (Nat.mul_succ n p).symm
      _ ≤ n * q := Nat.mul_le_mul_left n h
  rcases Nat.lt_trichotomy c d with h | h | h
  · have := apart h
    omega
  · rw [h]
  · have := apart h
    omega

/-! ### Every lane stores (R220) -/

/-- R216: the bytes that a lane stores. -/
theorem State.dataBytes_byte (s : State) (f : FmtM) (n lane : Nat) {j : Nat} (less : j < n) : (s.dataBytes f.data.toNat n lane).getD j 0 = dataByte s f lane j := by
  let word (i : Nat) : Nat := if f.data.toNat = 0x1FE then 0 else (s.selWord lane (f.data.toNat + i)).toNat
  have bytes : s.dataBytes f.data.toNat n lane = leBytes n (leNat ((List.range ((n + 3) / 4)).map (fun i => leBytes 4 (word i))).flatten) := rfl
  have four (i : Nat) : (leBytes 4 (word i)).length = 4 := leBytes_length 4 _
  rw [bytes, leBytes_byte _ _ less]
  have byte := leNat_byte ((List.range ((n + 3) / 4)).map (fun i => leBytes 4 (word i))).flatten j
  rw [flatten_byte _ four _ (by omega), leBytes_byte _ _ (Nat.mod_lt j (by decide))] at byte
  have value : BitVec.ofNat 8 (leNat ((List.range ((n + 3) / 4)).map (fun i => leBytes 4 (word i))).flatten / 256 ^ j) = BitVec.ofNat 8 (word (j / 4) / 256 ^ (j % 4)) := by
    apply BitVec.eq_of_toNat_eq
    rw [← byte, BitVec.toNat_ofNat]
  rw [value]
  unfold dataByte
  by_cases zero : f.data = 0x1FE
  · have none' : word (j / 4) = 0 := if_pos (by rw [zero]; rfl)
    rw [none', if_pos zero, Nat.zero_div]
    rfl
  · have some' : word (j / 4) = (s.selWord lane (f.data.toNat + j / 4)).toNat := if_neg fun e : f.data.toNat = 510 => zero (BitVec.eq_of_toNat_eq e)
    rw [some', if_neg zero, word_byte _ (Nat.mod_lt j (by decide))]

end Sys2Proof.Machine

namespace Sys2Proof.Proofs.SpaceStoring

open Sys2Proof.Machine Sys2Proof.Claims

section Stores

variable {s : State} {h : Hdr} {f : FmtM} {l : List Acc} {spc : Space}

/-- R220: every lane has stored, the lowest first. -/
def storedLanes (s : State) (h : Hdr) (f : FmtM) (spc : Space) (l : List Acc) : State :=
  l.foldl (fun s x => s.spaceWrite spc x.lane x.pa (s.dataBytes f.data.toNat (sizeBytes f) x.lane)) ((s.meterSpace spc (sizeBytes f) l).takeToken h)

variable (present : s.hasGroup s.cur.core s.cur.slot = true) (sorted : tblSorted s.wgs = true) (home : (tblFind s.wgs s.curWg).isSome = true)

include present sorted in
theorem storing_begins : StoringTo s ((s.meterSpace spc (sizeBytes f) l).takeToken h) (s.active h) := by
  have taken := SameThreads.takeToken (s.meterSpace spc (sizeBytes f) l) h
  have frame := (s.meterSpace spc (sizeBytes f) l).takeToken_groups h
  rw [s.meterSpace_frame] at frame taken ⊢
  have thread (k : Nat) : (({ s with metered := (s.meterSpace spc (sizeBytes f) l).metered } : State).takeToken h).thread s.cur.core s.cur.slot k = s.thread s.cur.core s.cur.slot k := by
    rw [State.thread, Group.thread, taken.threads]
    rfl
  refine ⟨taken.mem, taken.hostMem, ?_, ?_, fun w => by rw [taken.wg]; rfl, by rw [taken.wgs]; exact sorted, by rw [taken.wgs], (taken.present _ _).trans present, taken.owner _ _,
    by rw [taken.threads]; rfl, fun c q _ => taken.threads c q, fun k => ?_, fun k _ => thread k⟩
  · rw [frame]
  · rw [frame]
  · rw [thread]

include present sorted home in
/-- R220: one of the lanes stores. -/
theorem storing_step (accs : SpaceAccs s h spc (width f) l) {v : State} (at' : StoringTo s v (s.active h)) {x : Acc} (hx : x ∈ l) :
    StoringTo s (v.spaceWrite spc x.lane x.pa (v.dataBytes f.data.toNat (sizeBytes f) x.lane)) (s.active h) :=
  at'.write present sorted home (accs.active hx) fun e => State.inSpace_rank (s := s) (a := x.pa) (n := width f) (by rw [← e]; exact accs.inside x hx)

include present sorted home in
theorem stored_lanes (accs : SpaceAccs s h spc (width f) l) : StoringTo s (storedLanes s h f spc l) (s.active h) ∧
    ∀ k a, k < (s.group s.cur.core s.cur.slot).threads.length → (spc = .cl → ∃ w, s.rankWg (a / 2 ^ 19) = some w) →
      ((∀ y ∈ l, ¬ y.writesAt spc (width f) k a) → spaceByte s (storedLanes s h f spc l) spc k a = spaceByte s s spc k a) ∧
      (∀ x ∈ l, x.writesAt spc (width f) k a → (∀ y ∈ l, y.writesAt spc (width f) k a → y.lane ≤ x.lane) → spaceByte s (storedLanes s h f spc l) spc k a = dataByte s f x.lane (a - x.pa)) := by
  have begins := storing_begins (s := s) (h := h) (f := f) (l := l) (spc := spc) present sorted
  have seven : f.size.toNat ≤ 19 := by omega
  have steps (k a : Nat) (thread : k < (s.group s.cur.core s.cur.slot).threads.length) (here : spc = .cl → ∃ w, s.rankWg (a / 2 ^ 19) = some w) (v : State) (at' : StoringTo s v (s.active h)) (x : Acc) (hx : x ∈ l) :
      StoringTo s (v.spaceWrite spc x.lane x.pa (v.dataBytes f.data.toNat (sizeBytes f) x.lane)) (s.active h) ∧
      (¬ x.writesAt spc (width f) k a → spaceByte s (v.spaceWrite spc x.lane x.pa (v.dataBytes f.data.toNat (sizeBytes f) x.lane)) spc k a = spaceByte s v spc k a) ∧
      (x.writesAt spc (width f) k a → spaceByte s (v.spaceWrite spc x.lane x.pa (v.dataBytes f.data.toNat (sizeBytes f) x.lane)) spc k a = dataByte s f x.lane (a - x.pa)) := by
    obtain ⟨miss, hit⟩ := State.spaceWrite_byte at' present sorted seven (y := x) (l := v.dataBytes f.data.toNat (sizeBytes f) x.lane) (leBytes_length _ _) (accs.aligned x hx) (accs.inside x hx) thread here
    refine ⟨storing_step present sorted home accs at' hx, miss, fun w => ?_⟩
    rw [hit w, at'.dataBytes]
    obtain ⟨-, low, high⟩ := w
    exact s.dataBytes_byte f _ _ (by rw [show sizeBytes f = width f from rfl]; omega)
  have start (k a : Nat) (thread : k < (s.group s.cur.core s.cur.slot).threads.length) : spaceByte s ((s.meterSpace spc (sizeBytes f) l).takeToken h) spc k a = spaceByte s s spc k a := by
    have taken := SameThreads.takeToken (s.meterSpace spc (sizeBytes f) l) h
    have frame := (s.meterSpace spc (sizeBytes f) l).takeToken_groups h
    rw [s.meterSpace_frame] at frame taken ⊢
    unfold spaceByte
    cases spc with
    | sp => dsimp only; rw [taken.wg]; rfl
    | cl => dsimp only; rw [taken.wg]; rfl
    | ds => dsimp only; rw [frame]; rfl
    | lp => dsimp only; rw [State.thread, Group.thread, taken.threads]; rfl
  refine ⟨foldl_holds (view := fun _ => ()) (hit := fun _ => False) (val := fun _ => ()) (I := fun v => StoringTo s v (s.active h))
    (fun v at' x hx => ⟨storing_step present sorted home accs at' hx, fun _ => rfl, fun h => absurd h id⟩) _ begins, fun k a thread here => ⟨fun none' => ?_, fun x hx writes last => ?_⟩⟩
  · rw [← start k a thread]
    exact foldl_unhit (view := fun v => spaceByte s v spc k a) (hit := fun x => x.writesAt spc (width f) k a) (val := fun x => dataByte s f x.lane (a - x.pa)) (I := fun v => StoringTo s v (s.active h))
      (steps k a thread here) none' _ begins
  · obtain ⟨b, c, cut⟩ := List.append_of_mem hx
    refine foldl_last (view := fun v => spaceByte s v spc k a) (hit := fun x => x.writesAt spc (width f) k a) (val := fun x => dataByte s f x.lane (a - x.pa)) (I := fun v => StoringTo s v (s.active h))
      (steps k a thread here) cut writes (fun y hy over' => ?_) _ begins
    have order := accs.order
    rw [cut] at order
    have above := List.rel_of_pairwise_cons (List.pairwise_append.1 order).2.1 hy
    have := last y (by rw [cut]; exact List.mem_append_right _ (List.mem_cons_of_mem _ hy)) over'
    omega

/-- R43, R50: the completion of stsp. -/
def fixedPend (s : State) (h : Hdr) : Pend where
  core := s.cur.core
  slot := s.cur.slot
  kind := 0
  path := s.cur.path
  lanes := s.cur.lanes
  act := s.active h
  pos := s.cur.pos
  tok := h.tok.toNat

/-- R189, R220: with every lane stored the issue retires: stsp's token falls 24 cycles later. -/
def storeEnds (s u : State) (h : Hdr) (f : FmtM) (spc : Space) (l : List Acc) : State :=
  if spc = .sp then ((u.holdPort (sizeBytes f) l).pendFixed 24 (fixedPend s h)) else u.dropToken h

section Retire

variable {u : State} (at' : StoringTo s u (s.active h)) (first : First s)
include at' first

/-- R38, R220: the issue retires with the bytes that its lanes have stored. -/
theorem store_retires {v : State} (ends : KeepsThreads u v) (cur : v.cur = u.cur) (sp : ∀ w, (v.wg w).sp = (u.wg w).sp) (dies : v.dies = u.dies) :
    Elsewhere s (v.retireSeq h) ∧ Advanced s (v.retireSeq h) h (fun _ => seqPos s.cur.pos) (fun k x => { x with lp := ((v.retireSeq h).thread s.cur.core s.cur.slot k).lp }) ∧
    ∀ k a, k < (s.group s.cur.core s.cur.slot).threads.length → spaceByte s (v.retireSeq h) spc k a = spaceByte s u spc k a := by
  have present := first.2.2.2.2.2
  have same : v.cur = s.cur := cur.trans at'.cur
  have thread (k : Nat) : v.thread s.cur.core s.cur.slot k = u.thread s.cur.core s.cur.slot k := by rw [State.thread, State.thread, Group.thread, Group.thread, ends.threads]
  have step : LanesStep s v s.cur.core s.cur.slot (fun k x => { x with lp := (u.thread s.cur.core s.cur.slot k).lp }) := by
    refine ⟨ends.mem.trans at'.mem, ends.hostMem.trans at'.hostMem, fun w => (ends.rwc w).trans (at'.rwc w), fun c q ne => (ends.threads c q).trans (at'.others c q ne), fun k _ => ?_⟩
    rw [thread]
    exact at'.thread k
  have quiet (k : Nat) (out : s.cur.lanes.getLsbD k = false) : u.thread s.cur.core s.cur.slot k = s.thread s.cur.core s.cur.slot k := by
    refine at'.outside k ?_
    by_contra on
    have := State.active_lane first.1 h (by simpa using on)
    rw [out] at this
    exact Bool.false_ne_true this
  have moved := step.moved present same ((ends.present _ _).trans at'.present) ((ends.owner _ _).trans at'.owner) (by rw [ends.threads, at'.length]) h (fun _ => seqPos s.cur.pos)
    (e := fun k x => { x with lp := (u.thread s.cur.core s.cur.slot k).lp }) (fun k _ => rfl) fun k out => by
      rw [quiet k out]
      rfl
  have run : v.retireSeq h = v.retire h (fun _ => seqPos s.cur.pos) := by rw [State.retireSeq, same]
  have retired : Retired v (v.retireSeq h) := .retireSeq v h (by rw [same]; exact first.1)
  rw [← run] at moved
  generalize v.retireSeq h = t at moved retired
  obtain ⟨elsewhere, rwc, threads⟩ := moved
  have lp (k : Nat) (hk : k < (s.group s.cur.core s.cur.slot).threads.length) : (t.thread s.cur.core s.cur.slot k).lp = (u.thread s.cur.core s.cur.slot k).lp := by
    rw [threads k hk]
    by_cases on : s.cur.lanes.getLsbD k = true
    · rw [if_pos on]
    · rw [if_neg on, quiet k (by simpa using on)]
      rfl
  refine ⟨elsewhere, ⟨rwc, fun k hk => ?_⟩, fun k a hk => ?_⟩
  · rw [threads k hk]
    by_cases on : s.cur.lanes.getLsbD k = true
    · rw [if_pos on, if_pos on]
      dsimp only
      rw [lp k hk]
    · rw [if_neg on, if_neg on]
  · cases spc with
    | sp => rw [spaceByte, spaceByte, retired.wg]; exact congrArg (tblGet 0 · a) (sp _)
    | cl => rw [spaceByte, spaceByte, retired.wg]; exact congrArg (tblGet 0 · (a % 2 ^ 19)) (sp _)
    | ds =>
      have same : t.die = u.die := by
        rw [retired.state]
        show v.die = u.die
        funext d
        rw [State.die, State.die, dies]
      rw [spaceByte, spaceByte, same]
    | lp => rw [spaceByte, spaceByte, lp k hk]

end Retire

theorem storeEnds_keeps (s u : State) (h : Hdr) (f : FmtM) (spc : Space) (l : List Acc) : KeepsThreads u (storeEnds s u h f spc l) ∧ (storeEnds s u h f spc l).cur = u.cur ∧
    (storeEnds s u h f spc l).wg = u.wg ∧ (storeEnds s u h f spc l).dies = u.dies := by
  unfold storeEnds
  split
  · have held : SameThreads u (u.holdPort (sizeBytes f) l) ∧ (u.holdPort (sizeBytes f) l).cur = u.cur ∧ (u.holdPort (sizeBytes f) l).dies = u.dies := by
      unfold State.holdPort
      dsimp only
      split
      · exact ⟨.refl u, rfl, rfl⟩
      · exact ⟨.of_groups rfl rfl rfl rfl, rfl, rfl⟩
    obtain ⟨same, cur, dies⟩ := held
    generalize u.holdPort (sizeBytes f) l = v at same cur dies
    have all := same.trans (.pendFixed v 24 (fixedPend s h))
    exact ⟨all.keeps, cur, all.wg, dies⟩
  · have down : SameThreads u (u.dropToken h) := by
      unfold State.dropToken State.tokDown
      split
      · exact .refl u
      · exact .modGroup u _ _ _
    refine ⟨down.keeps, ?_, down.wg, ?_⟩
    · simp
    · simp

/-- R220: a store of a space whose checks pass. -/
theorem space_stores (sorted : tblSorted s.wgs = true) (home : (tblFind s.wgs s.curWg).isSome = true) (ready : StoreReady s h f (width f)) {i : Instr} {o : Out} (run : o = .next (s.storeSpace h i f spc))
    (ok : s.checkSpace spc (width f) (addrs s h f) = .ok l) : ∃ t, o = .next t ∧ Elsewhere s t ∧
    Advanced s t h (fun _ => seqPos s.cur.pos) (fun k x => { x with lp := (t.thread s.cur.core s.cur.slot k).lp }) ∧
    ∀ k a, k < (s.group s.cur.core s.cur.slot).threads.length → spaceByte s t spc k a = spaceByte s (storedLanes s h f spc l) spc k a := by
  obtain ⟨first, operands⟩ := ready
  have present := first.2.2.2.2.2
  obtain ⟨at', -⟩ := stored_lanes present sorted home (State.checkSpace_accs ok)
  obtain ⟨ends, cur, wg, dies⟩ := storeEnds_keeps s (storedLanes s h f spc l) h f spc l
  have ran : s.storeSpace h i f spc = (storeEnds s (storedLanes s h f spc l) h f spc l).retireSeq h := by
    rw [State.storeSpace_eq, State.memOp_ready (addr := addrSrc f) (data := dataSrcs f.data.toNat (sizeBytes f)) operands, eas_eq, show sizeBytes f = width f from rfl, ok]
    unfold storeEnds
    by_cases own : spc = .sp
    · rw [if_pos own]
      show s.storedSpace h i f spc (s.active h) l = _
      rw [State.storedSpace, if_pos own]
      exact if_neg (by rw [first.1]; exact Nat.lt_irrefl 0)
    · rw [if_neg own]
      show s.storedSpace h i f spc (s.active h) l = _
      rw [State.storedSpace, if_neg own]
      rfl
  obtain ⟨elsewhere, advanced, bytes⟩ := store_retires at' first (spc := spc) ends cur (fun w => by rw [wg]) dies
  exact ⟨_, run.trans (congrArg Host.Outcome.next ran), elsewhere, advanced, bytes⟩

end Stores

theorem spaceStores : SpaceStores := by
  intro s h f l ready sorted home n stored
  have all (spc : Space) {i : Instr} {o : Out} (run : o = .next (s.storeSpace h i f spc)) : stored o spc := by
    intro ok
    have first := ready.1
    have accs := State.checkSpace_accs ok
    obtain ⟨t, out, elsewhere, advanced, bytes⟩ := space_stores sorted home ready run ok
    obtain ⟨-, written⟩ := stored_lanes first.2.2.2.2.2 sorted home accs
    refine ⟨t, out, elsewhere, advanced, fun x hx small last j less => ?_, fun k a hk inside apart => ?_⟩
    · have here : spc = .cl → ∃ w, s.rankWg ((x.pa + j) / 2 ^ 19) = some w := by
        rintro rfl
        rw [(cluster_within (k := f.size.toNat) (by omega) (accs.aligned x hx) less).1]
        exact State.inSpace_rank (accs.inside x hx)
      rw [bytes _ _ small, (written x.lane (x.pa + j) small here).2 x hx ⟨.inr rfl, by omega, Nat.add_lt_add_left less _⟩ fun y hy writes => ?_, Nat.add_sub_cancel_left]
      exact last y hy (aligned_meets (accs.aligned y hy) (accs.aligned x hx) less writes.2.1 writes.2.2) writes.1
    · rw [bytes k a hk]
      have here : spc = .cl → ∃ w, s.rankWg (a / 2 ^ 19) = some w := by
        rintro rfl
        exact State.inSpace_rank (inside rfl)
      exact (written k a hk here).1 fun y hy writes => apart y hy writes.1 ⟨writes.2.1, writes.2.2⟩
  exact ⟨all .sp rfl, all .cl rfl, all .ds rfl, all .lp rfl⟩

/-- Settles O16. -/
theorem scratchpadAccesses : Obligations.ScratchpadAccesses := ⟨Spaces.spaceLoads, spaceStores⟩

end Sys2Proof.Proofs.SpaceStoring
end
section
/-! SUPPORT. Loads of the g space: every byte of a load is delivered at issue, or is one that its result waits for (R219, R221). -/

namespace Sys2Proof.Machine

open Sys2Proof.Claims

/-! ### What a load gathers at issue -/

/-- What gathering changes of a state: the L1 of its core, and fills that leave. -/
def LoadStep (s t : State) : Prop := t = { s with cores := t.cores, fills := t.fills, fresh := t.fresh, timers := t.timers }

theorem LoadStep.trans {s t u : State} (h : LoadStep s t) (k : LoadStep t u) : LoadStep s u := by
  rw [LoadStep, k, h]

theorem LoadStep.beside {s t : State} (h : LoadStep s t) : Beside s t := by
  refine .of_wgs ?_ ?_ ?_ ?_ ?_ <;> rw [h]

theorem LoadStep.accRegion {s t : State} (h : LoadStep s t) : t.accRegion = s.accRegion := by
  rw [h]
  rfl

theorem LoadStep.bad {s t : State} (h : LoadStep s t) : t.bad = s.bad := by rw [h]

/-- A result has gathered more bytes, or waits for more; where no codeword is uncorrectable it has met none. -/
structure Gathered (s : State) (p q : Pend) : Prop where
  same : q = { p with bytes := q.bytes, missing := q.missing, bad := q.bad }
  bytes : ∀ k, (tblFind p.bytes k).isSome = true → (tblFind q.bytes k).isSome = true
  missing : ∀ m ∈ p.missing, m ∈ q.missing
  good : s.bad = [] → q.bad = p.bad

theorem Gathered.refl (s : State) (p : Pend) : Gathered s p p := ⟨rfl, fun _ h => h, fun _ h => h, fun _ => rfl⟩

theorem Gathered.trans {s : State} {p q r : Pend} (h : Gathered s p q) (k : Gathered s q r) : Gathered s p r :=
  ⟨by rw [k.same, h.same], fun i hi => k.bytes i (h.bytes i hi), fun m hm => k.missing m (h.missing m hm), fun b => (k.good b).trans (h.good b)⟩

/-- A byte of an access has been delivered, or is waited for. -/
def Pend.has (p : Pend) (x : Acc) (j : Nat) : Prop :=
  (tblFind p.bytes (x.lane * 16 + j)).isSome = true ∨ ∃ a, (x.lane * 16 + j, a) ∈ p.missing ∧ (leafWindow x.entry = false → a = x.pa + j)

theorem Gathered.has {s : State} {p q : Pend} (h : Gathered s p q) {x : Acc} {j : Nat} (there : p.has x j) : q.has x j := by
  rcases there with found | ⟨a, waits, is⟩
  · exact .inl (h.bytes _ found)
  · exact .inr ⟨a, h.missing _ waits, is⟩

theorem State.received_gathers (s : State) (l : List (Nat × Nat)) (p : Pend) : s.received l p = { p with bad := (s.received l p).bad } ∧ (s.bad = [] → s.received l p = p) := by
  have hurt (q : Pend) (k : Nat) (b : Bad) : q.hurt k b = { q with bad := (q.hurt k b).bad } := by
    unfold Pend.hurt
    split
    · split <;> rfl
    · rfl
  unfold State.received
  constructor
  · split
    · rfl
    · refine List.foldlRecOn (motive := fun (q : Pend) => q = { p with bad := q.bad }) l _ rfl fun q hq m _ => ?_
      split
      · rw [hurt, hq]
      · exact hq
  · intro good
    rw [good]
    rfl

/-! ### A request (R196, R197) -/

theorem foldl_delivered {α : Type} (key : α → Nat) (byte : α → Option Byte) (l : List α) (t : Tbl Byte) :
    (∀ k, (tblFind t k).isSome = true → (tblFind (l.foldl (fun t m => match byte m with | some b => tblPut t (key m) b | none => t) t) k).isSome = true) ∧
    ∀ m ∈ l, (byte m).isSome = true → (tblFind (l.foldl (fun t m => match byte m with | some b => tblPut t (key m) b | none => t) t) (key m)).isSome = true := by
  induction l generalizing t with
  | nil => exact ⟨fun _ h => h, fun m hm => absurd hm List.not_mem_nil⟩
  | cons a r ih =>
    rw [List.foldl_cons]
    cases e : byte a with
    | none =>
      obtain ⟨keeps, puts⟩ := ih t
      refine ⟨keeps, fun m hm some' => ?_⟩
      rcases List.mem_cons.1 hm with rfl | rest
      · rw [e] at some'
        cases some'
      · exact puts m rest some'
    | some b =>
      obtain ⟨keeps, puts⟩ := ih (tblPut t (key a) b)
      refine ⟨fun k hk => keeps k (tblFind_tblPut_isSome _ _ hk), fun m hm some' => ?_⟩
      rcases List.mem_cons.1 hm with rfl | rest
      · exact keeps _ (by rw [tblFind_tblPut_self]; rfl)
      · exact puts m rest some'

theorem LoadStep.startFill (s : State) (f : Fill) : LoadStep s (s.startFill f) := rfl

/-- The byte at an address as the words served give it. -/
def servedByte (served : List (Nat × Block × Bool)) (a : Nat) : Option Byte := (served.find? (fun t => t.1 = wordOf a)).map (fun t => t.2.1.data.getD (a % 256 - 4 * t.2.1.lo) 0)

/-- The bytes of lanes that a load of accesses asks for, with their addresses. -/
def loadKeys (n : Nat) (mine : List Acc) : List (Nat × Nat) := (mine.map (fun x => (List.range n).map (fun j => (x.lane * 16 + j, x.pa + j)))).flatten

/-- The result of a load once a request has delivered the words served. -/
def Pend.served (p : Pend) (served : List (Nat × Block × Bool)) (keys : List (Nat × Nat)) : Pend :=
  { p with
    bytes := keys.foldl (fun t m => match servedByte served m.2 with | some b => tblPut t m.1 b | none => t) p.bytes
    missing := p.missing ++ keys.filter (fun m => (servedByte served m.2).isNone) }

/-- The accesses of a load that a request is for. -/
def requested (s : State) (accs : List Acc) (req : Nat × Option (Nat × Nat)) : List Acc := accs.filter (fun x => frameOf x.pa = req.1 && s.accRegion x = req.2)

/-- R196, R197: what a request does. -/
theorem loadFrame_run (f : FmtM) (n : Nat) (bound : Option Bound) (bounded : Bool) (id : Nat) (accs : List Acc) (s : State) (p : Pend) (bad : BitVec 32) (req : Nat × Option (Nat × Nat))
    (some' : requested s accs req ≠ []) : ∃ served t bad', LoadStep s t ∧ loadFrame f n bound bounded false id accs (s, p, bad) req =
      (t, s.received ((loadKeys n (requested s accs req)).filter (fun m => (servedByte served m.2).isSome)) (p.served served (loadKeys n (requested s accs req))), bad') := by
  obtain ⟨x, rest, is⟩ := List.exists_cons_of_ne_nil some'
  obtain ⟨frame, region⟩ := req
  unfold loadFrame
  dsimp only
  rw [show accs.filter (fun x => frameOf x.pa = frame && s.accRegion x = region) = x :: rest from is, is]
  refine ⟨_, _, _, ?_, rfl⟩
  have one (c : Bool) (u v : State) (h : LoadStep s u) (k : LoadStep s v) : LoadStep s (if c then u else v) := by
    cases c
    · exact k
    · exact h
  have first (c : Bool) (g : Core → Core) : LoadStep s (if c then s else s.modCore s.cur.core g) := one c _ _ rfl rfl
  exact one _ _ _ ((first _ _).trans rfl) ((first _ _).trans (.startFill _ _))

/-- R196, R197: a request of a load delivers the bytes of its accesses, or makes its result wait for them. -/
theorem loadFrame_gathers (f : FmtM) (n : Nat) (bound : Option Bound) (bounded : Bool) (id : Nat) (accs : List Acc) (a : Loading) (req : Nat × Option (Nat × Nat)) :
    LoadStep a.1 (loadFrame f n bound bounded false id accs a req).1 ∧ Gathered a.1 a.2.1 (loadFrame f n bound bounded false id accs a req).2.1 ∧
    ∀ x ∈ accs, frameOf x.pa = req.1 → a.1.accRegion x = req.2 → ∀ j, j < n → (loadFrame f n bound bounded false id accs a req).2.1.has x j := by
  obtain ⟨s, p, bad⟩ := a
  by_cases none' : requested s accs req = []
  · have idle : loadFrame f n bound bounded false id accs (s, p, bad) req = (s, p, bad) := by
      obtain ⟨frame, region⟩ := req
      unfold loadFrame
      dsimp only
      rw [show accs.filter (fun x => frameOf x.pa = frame && s.accRegion x = region) = [] from none']
      rfl
    rw [idle]
    refine ⟨rfl, .refl s p, fun x hx inFrame inRegion => ?_⟩
    have listed : x ∈ requested s accs req := List.mem_filter.2 ⟨hx, by simp [inFrame, inRegion]⟩
    rw [none'] at listed
    cases listed
  · obtain ⟨served, t, bad', step, run⟩ := loadFrame_run f n bound bounded id accs s p bad req none'
    rw [run]
    dsimp only
    let keys := loadKeys n (requested s accs req)
    obtain ⟨received, good⟩ := s.received_gathers (keys.filter (fun m => (servedByte served m.2).isSome)) (p.served served keys)
    obtain ⟨keeps, puts⟩ := foldl_delivered (fun m : Nat × Nat => m.1) (fun m => servedByte served m.2) keys p.bytes
    refine ⟨step, ⟨?_, fun k hk => ?_, fun m hm => ?_, fun none => by rw [good none]; rfl⟩, fun x hx inFrame inRegion j less => ?_⟩
    · rw [received]
      rfl
    · rw [received]
      exact keeps k hk
    · rw [received]
      exact List.mem_append_left _ hm
    · have listed : x ∈ requested s accs req := List.mem_filter.2 ⟨hx, by simp [inFrame, inRegion]⟩
      have key : (x.lane * 16 + j, x.pa + j) ∈ keys := List.mem_flatten.2 ⟨_, List.mem_map.2 ⟨x, listed, rfl⟩, List.mem_map.2 ⟨j, List.mem_range.2 less, rfl⟩⟩
      unfold Pend.has
      rw [received]
      by_cases found : (servedByte served (x.pa + j)).isSome = true
      · exact .inl (puts _ key found)
      · refine .inr ⟨x.pa + j, List.mem_append_right _ (List.mem_filter.2 ⟨key, ?_⟩), fun _ => rfl⟩
        simpa using found

/-- R196: with every request made, every byte of the accesses that one is for has been delivered or is waited for. -/
theorem requests_gather (f : FmtM) (n : Nat) (bound : Option Bound) (bounded : Bool) (id : Nat) (accs : List Acc) (reqs : List (Nat × Option (Nat × Nat))) (a : Loading) :
    let r := reqs.foldl (fun a r => loadFrame f n bound bounded false id accs a r) a
    LoadStep a.1 r.1 ∧ Gathered a.1 a.2.1 r.2.1 ∧ ∀ x ∈ accs, (frameOf x.pa, a.1.accRegion x) ∈ reqs → ∀ j, j < n → r.2.1.has x j := by
  induction reqs generalizing a with
  | nil => exact ⟨rfl, .refl _ _, fun x _ h => absurd h List.not_mem_nil⟩
  | cons q rest ih =>
    obtain ⟨step, gathered, all⟩ := loadFrame_gathers f n bound bounded id accs a q
    obtain ⟨steps, more, others⟩ := ih (loadFrame f n bound bounded false id accs a q)
    have later : Gathered a.1 (loadFrame f n bound bounded false id accs a q).2.1 (rest.foldl (fun a r => loadFrame f n bound bounded false id accs a r) (loadFrame f n bound bounded false id accs a q)).2.1 :=
      ⟨more.same, more.bytes, more.missing, fun good => more.good (step.bad.trans good)⟩
    refine ⟨step.trans steps, gathered.trans later, fun x hx listed j less => ?_⟩
    rw [List.foldl_cons]
    rcases List.mem_cons.1 listed with here | there
    · exact later.has (all x hx (congrArg Prod.fst here) (congrArg Prod.snd here) j less)
    · exact others x hx (by rw [step.accRegion]; exact there) j less

/-! ### Host-window pages (R379, R222) -/

/-- One byte of a load of a host-window page: as its die reads it, or waited for. -/
def windowLoad (s : State) (die : Nat) (x : Acc) (a : Loading) (j : Nat) : Loading :=
  let w := windowOf s.curCtx x.entry
  let off := x.ea - (tblGet { va := 0, len := 0, host := 0, counter := 0 } s.windows w).va
  let key := x.lane * 16 + j
  if (s.behind [winKey die w (off + j)]).isEmpty then (a.1, { a.2.1 with bytes := tblPut a.2.1.bytes key (s.windowByte die w (x.ea + j)) }, a.2.2)
  else (a.1, { a.2.1 with missing := a.2.1.missing ++ [(key, winKey die w (off + j))] }, a.2.2)

theorem windowLoad_gathers (s : State) (die : Nat) (x : Acc) (a : Loading) (j : Nat) (window : leafWindow x.entry = true) :
    (windowLoad s die x a j).1 = a.1 ∧ Gathered a.1 a.2.1 (windowLoad s die x a j).2.1 ∧ (windowLoad s die x a j).2.1.has x j := by
  unfold windowLoad
  dsimp only
  split
  · exact ⟨rfl, ⟨rfl, fun k hk => tblFind_tblPut_isSome _ _ hk, fun _ h => h, fun _ => rfl⟩, .inl (by rw [tblFind_tblPut_self]; rfl)⟩
  · exact ⟨rfl, ⟨rfl, fun _ h => h, fun _ h => List.mem_append_left _ h, fun _ => rfl⟩, .inr ⟨_, List.mem_append_right _ List.mem_cons_self, fun plain => by rw [window] at plain; cases plain⟩⟩

/-- A run of steps that each gather one more byte. -/
theorem foldl_gathers {α : Type} (step : Loading → α → Loading) (goal : α → Pend → Prop) (keeps : ∀ s p q b, Gathered s p q → goal b p → goal b q) (l : List α)
    (one : ∀ a, ∀ b ∈ l, (step a b).1 = a.1 ∧ Gathered a.1 a.2.1 (step a b).2.1 ∧ goal b (step a b).2.1) (a : Loading) :
    (l.foldl step a).1 = a.1 ∧ Gathered a.1 a.2.1 (l.foldl step a).2.1 ∧ ∀ b ∈ l, goal b (l.foldl step a).2.1 := by
  induction l generalizing a with
  | nil => exact ⟨rfl, .refl _ _, fun b hb => absurd hb List.not_mem_nil⟩
  | cons c r ih =>
    obtain ⟨same, gathered, now⟩ := one a c List.mem_cons_self
    obtain ⟨same', more, rest⟩ := ih (fun a b hb => one a b (List.mem_cons_of_mem _ hb)) (step a c)
    rw [same] at same' more
    refine ⟨same', gathered.trans more, fun b hb => ?_⟩
    rcases List.mem_cons.1 hb with rfl | inside
    · exact keeps _ _ _ _ more now
    · exact rest b inside

theorem loadWindow_gathers (n die : Nat) (mine : List Acc) (windows : ∀ x ∈ mine, leafWindow x.entry = true) (s : State) (p : Pend) (bad : BitVec 32) :
    (loadWindow n die mine (s, p, bad)).1 = s ∧ Gathered s p (loadWindow n die mine (s, p, bad)).2.1 ∧ ∀ x ∈ mine, ∀ j, j < n → (loadWindow n die mine (s, p, bad)).2.1.has x j := by
  have run : loadWindow n die mine (s, p, bad) = mine.foldl (fun a x => (List.range n).foldl (windowLoad s die x) a) (s, p, bad) := rfl
  rw [run]
  refine foldl_gathers _ (fun x q => ∀ j, j < n → q.has x j) (fun _ _ _ _ g h j less => g.has (h j less)) mine (fun a x hx => ?_) (s, p, bad)
  obtain ⟨same, gathered, all⟩ := foldl_gathers (windowLoad s die x) (fun j q => q.has x j) (fun _ _ _ _ g h => g.has h) (List.range n) (fun a j _ => windowLoad_gathers s die x a j (windows x hx)) a
  exact ⟨same, gathered, fun j less => all j (List.mem_range.2 less)⟩

/-! ### A load (R219, R221) -/

/-- The result of a load before it has gathered a byte. -/
def loadPend (s : State) (f : FmtM) (n : Nat) (sx : Bool) (tok : Nat) (act : BitVec 32) (accs : List Acc) (mark : Bool) : Pend where
  core := s.cur.core
  slot := s.cur.slot
  kind := 3
  path := s.cur.path
  lanes := s.cur.lanes
  act := act
  pos := s.cur.pos
  tok := tok
  size := n
  sx := sx
  dst := f.data.toNat
  eas := accs.map (fun x => (x.lane, BitVec.ofNat 64 x.ea))
  overtaken := mark
  frames := (framesOf (accs.map Acc.pa)).length

/-- The reports of ld.b for lanes of which those of a mask have failed their bound. -/
def loadReports (report : Option Nat) (act bad : BitVec 32) : List (Nat × Nat × Bool) :=
  match report with
  | some q => (lanesOf act).map (fun l => (l, q, !bad.getLsbD l))
  | none => []

theorem mem_framesOf {pas : List Nat} {pa : Nat} (h : pa ∈ pas) : frameOf pa ∈ framesOf pas := by
  have member (l : List Nat) (acc : List Nat) (k : Nat) (hk : k ∈ l ∨ k ∈ acc) : k ∈ l.foldl (fun l f => (l.filter (· < f)) ++ [f] ++ l.filter (· > f)) acc := by
    induction l generalizing acc with
    | nil => exact hk.resolve_left List.not_mem_nil
    | cons a r ih =>
      refine ih _ ?_
      rcases hk with here | there
      · rcases List.mem_cons.1 here with rfl | rest
        · exact .inr (by simp)
        · exact .inl rest
      · refine .inr ?_
        simp only [List.mem_append, List.mem_filter, decide_eq_true_eq, List.mem_singleton]
        rcases Nat.lt_trichotomy k a with h | h | h
        · exact .inl (.inl ⟨there, h⟩)
        · exact .inl (.inr h)
        · exact .inr ⟨there, h⟩
  exact member _ [] _ (.inl (List.mem_map.2 ⟨pa, h, rfl⟩))

theorem State.mem_requests (s : State) {accs : List Acc} {x : Acc} (hx : x ∈ accs) : (frameOf x.pa, s.accRegion x) ∈ s.requests accs := by
  refine List.mem_flatten.2 ⟨_, List.mem_map.2 ⟨frameOf x.pa, mem_framesOf (List.mem_map.2 ⟨x, hx, rfl⟩), rfl⟩, List.mem_map.2 ⟨s.accRegion x, List.mem_eraseDups.2 ?_, rfl⟩⟩
  exact List.mem_map.2 ⟨x, List.mem_filter.2 ⟨hx, by simp⟩, rfl⟩

/-- R219, R221: a load's result is under way, every byte of its accesses delivered or waited for. -/
theorem State.loadG_gathers (s : State) (f : FmtM) (n : Nat) (sx : Bool) (bound : Option Bound) (report : Option Nat) (tok : Nat) (act : BitVec 32) (accs : List Acc) (mark : Bool) :
    let r := s.loadG f n sx bound report tok act accs mark
    r.1 = s.fresh ∧ Beside s r.2 ∧ ∃ p bad, tblFind r.2.pends s.fresh = some { p with preds := loadReports report act bad } ∧ Gathered s (loadPend s f n sx tok act accs mark) p ∧
      ∀ x ∈ accs, ∀ j, j < n → p.has x j := by
  intro r
  let dev := inDevice accs
  let w := loadWindow n (Config.dieOfCore s.cur.core) (Machine.inWindow accs) ((s.tickFresh, loadPend s f n sx tok act accs mark, 0) : Loading)
  let e := (s.requests dev).foldl (fun a r => loadFrame f n bound bound.isSome false s.fresh dev a r) w
  obtain ⟨same, window, inside⟩ := loadWindow_gathers n (Config.dieOfCore s.cur.core) (Machine.inWindow accs) (fun x hx => (List.mem_filter.1 hx).2) s.tickFresh (loadPend s f n sx tok act accs mark) 0
  obtain ⟨step, device, outside⟩ := requests_gather f n bound bound.isSome s.fresh dev (s.requests dev) w
  have start : w.1 = s.tickFresh := same
  rw [start] at step device outside
  let p1 : Pend := { e.2.1 with preds := loadReports report act e.2.2 }
  let t : State := { e.1 with pends := tblPut e.1.pends s.fresh p1 }
  have gathered : Gathered s (loadPend s f n sx tok act accs mark) e.2.1 := by
    have both := window.trans device
    exact ⟨both.same, both.bytes, both.missing, both.good⟩
  have run : r = (s.fresh, if p1.missing.isEmpty then t.later (.loadCompletion s.fresh) else t) := by
    cases report with
    | some q => rfl
    | none =>
      have plain : p1 = e.2.1 := by
        have preds : e.2.1.preds = [] := by
          rw [gathered.same]
          rfl
        show { e.2.1 with preds := [] } = e.2.1
        rw [← preds]
      show r = (s.fresh, if p1.missing.isEmpty then ({ e.1 with pends := tblPut e.1.pends s.fresh p1 } : State).later (.loadCompletion s.fresh) else { e.1 with pends := tblPut e.1.pends s.fresh p1 })
      rw [plain]
      rfl
  have beside : Beside s t := (Beside.of_wgs (s := s) (t := s.tickFresh) rfl rfl rfl rfl rfl).trans (step.beside.trans (.of_wgs (t := t) rfl rfl rfl rfl rfl))
  have ends (c : Bool) : Beside s (if c then t.later (.loadCompletion s.fresh) else t) ∧ (if c then t.later (.loadCompletion s.fresh) else t).pends = t.pends := by
    cases c
    · exact ⟨beside, rfl⟩
    · exact ⟨beside.trans (.of_wgs rfl rfl rfl rfl rfl), rfl⟩
  obtain ⟨all, pends⟩ := ends p1.missing.isEmpty
  rw [run]
  refine ⟨rfl, all, e.2.1, e.2.2, ?_, gathered, fun x hx j less => ?_⟩
  · show tblFind (if p1.missing.isEmpty then t.later (.loadCompletion s.fresh) else t).pends s.fresh = _
    rw [pends]
    exact tblFind_tblPut_self _ _ _
  · by_cases kind : leafWindow x.entry = true
    · exact device.has (inside x (List.mem_filter.2 ⟨hx, kind⟩) j less)
    · have listed : x ∈ dev := List.mem_filter.2 ⟨hx, by simpa using kind⟩
      exact outside x listed (s.mem_requests listed) j less

/-- R219: what is said of the result of a load. -/
structure LoadUnderWay (f : FmtM) (l : List Acc) (p : Pend) : Prop where
  kind : p.kind = 3
  size : p.size = width f
  dst : p.dst = f.data.toNat
  wait : p.wait = 0
  bytes : ∀ x ∈ l, ∀ j, j < width f → p.has x j

theorem Gathered.underWay {s u : State} {f : FmtM} {l : List Acc} {p : Pend} {sx : Bool} {tok : Nat} {act : BitVec 32} {mark : Bool} (g : Gathered u (loadPend s f (width f) sx tok act l mark) p) (preds : List (Nat × Nat × Bool))
    (all : ∀ x ∈ l, ∀ j, j < width f → p.has x j) : LoadUnderWay f l { p with preds := preds } := by
  rw [g.same]
  exact ⟨rfl, rfl, rfl, rfl, fun x hx j less => all x hx j less⟩

end Sys2Proof.Machine

namespace Sys2Proof.Proofs.Loads

open Sys2Proof.Machine Sys2Proof.Claims

section Load

variable {s : State} {h : Hdr} {f : FmtM} {l : List Acc}

/-- R219, R221: a load that passes. -/
theorem load_passes (first : First s) (sx : Bool) (bound : Option Bound) (report : Option Nat) :
    let t := ((s.takeToken h).loadG f (width f) sx bound report h.tok.toNat (s.active h) l false).2.retireSeq h
    Passed s t h ∧ TokenUp s t h ∧ ∃ p bad, UnderWay s t h s.fresh p ∧ LoadUnderWay f l p ∧ p.preds = loadReports report (s.active h) bad ∧ p.sx = sx := by
  have frame := s.takeToken_groups h
  obtain ⟨-, beside, p, bad, found, gathered, all⟩ := (s.takeToken h).loadG_gathers f (width f) sx bound report h.tok.toNat (s.active h) l false
  obtain ⟨passed, token, retired⟩ := passes_beside first h (.refl s) beside
  have same : loadPend (s.takeToken h) f (width f) sx h.tok.toNat (s.active h) l false = loadPend s f (width f) sx h.tok.toNat (s.active h) l false := by rw [frame]; rfl
  have fresh : (s.takeToken h).fresh = s.fresh := by rw [frame]
  have bads : (s.takeToken h).bad = s.bad := by rw [frame]
  rw [same] at gathered
  rw [fresh] at found
  refine ⟨passed, token, { p with preds := loadReports report (s.active h) bad }, bad, ⟨?_, ?_⟩, gathered.underWay _ all, rfl, ?_⟩
  · rw [retired.pends]
    exact found
  · have none' := gathered.good
    rw [bads] at none'
    have is := gathered.same
    exact ⟨congrArg Pend.core is, congrArg Pend.slot is, congrArg Pend.path is, congrArg Pend.lanes is, congrArg Pend.act is, congrArg Pend.pos is, congrArg Pend.tok is, congrArg Pend.traps is, none'⟩
  · exact congrArg Pend.sx gathered.same

/-- R219, R230, R271: ld.acq makes its active threads wait for its load. -/
theorem acquire_waits (first : First s) (i : Instr) :
    let r := s.loadG f (width f) (f.mode == 1) none none h.tok.toNat (s.active h) l false
    let t := (r.2.carry [3]).waitActive h i (.gone [r.1] []) 7
    Waits s t h (.gone [s.fresh] []) ∧ ∃ p, tblFind t.pends s.fresh = some p ∧ p.tok = h.tok.toNat ∧ LoadUnderWay f l p := by
  obtain ⟨number, beside, p, bad, found, gathered, all⟩ := s.loadG_gathers f (width f) (f.mode == 1) none none h.tok.toNat (s.active h) l false
  have prep : Prepares s ((s.loadG f (width f) (f.mode == 1) none none h.tok.toNat (s.active h) l false).2.carry [3]) [3] :=
    ⟨beside.mem, beside.hostMem, beside.groups, beside.rwc, by rw [State.carry, beside.cur]⟩
  obtain ⟨waits, -, frame⟩ := State.waitFor_first prep first h i (.gone [s.fresh] []) 7
  intro r t
  have same : t = (r.2.carry [3]).waitActive h i (.gone [s.fresh] []) 7 := by rw [← number]
  rw [same]
  refine ⟨waits.1, { p with preds := loadReports none (s.active h) bad }, ?_, congrArg Pend.tok gathered.same, gathered.underWay _ all⟩
  rw [frame]
  exact found

/-- R219: the operands of a load are ready and its checks pass. -/
theorem load_runs {preds : List Nat} (ready : Ready s (s.active h) [.pair f.addr.toNat] (destRegs f (width f)) preds) (ok : s.checkG .load (width f) (width f) (addrs s h f) = .ok l) (i : Instr)
    (k : State → BitVec 32 → List Acc → State) : s.memOp h i (addrSrc f) [] (loadRegs f.data.toNat (sizeBytes f)) preds (fun _ _ => false)
      (fun s act => s.checkG .load (sizeBytes f) (sizeBytes f) (s.eas f act)) k = k s (s.active h) l := by
  rw [State.memOp_ready (by rw [loadRegs_eq]; exact ready), eas_eq, show sizeBytes f = width f from rfl, ok]

end Load

theorem loadsIssue : LoadsIssue := by
  intro s h f l n found
  have is {p : Pend} (u : LoadUnderWay f l p) : found p := ⟨u.kind, u.size, u.dst, u.wait, u.bytes⟩
  refine ⟨fun ⟨first, ready⟩ ok => ⟨?_, ?_⟩, fun first ready ok => ?_, fun present last => ?_, fun present late nums rounds => ?_⟩
  · obtain ⟨passed, token, p, bad, under, load, preds, sx⟩ := load_passes (h := h) (f := f) (l := l) first (f.mode == 1) none none
    exact ⟨_, p, congrArg Host.Outcome.next (load_runs ready ok (.ld h f) _), passed, token, under, is load, preds, sx⟩
  · obtain ⟨waits, p, pend, tok, load⟩ := acquire_waits (h := h) (f := f) (l := l) first (.ldAcq h f)
    refine ⟨_, p, ?_, waits, pend, tok, is load⟩
    show execLdAcq h f s = _
    unfold execLdAcq
    dsimp only
    rw [first.2.1, if_neg (by simp), if_neg (by simp)]
    exact congrArg Host.Outcome.next (load_runs ready ok (.ldAcq h f) _)
  · obtain ⟨passed, token, p, bad, under, load, preds, -⟩ := load_passes (h := h) (f := f) (l := l) first false (some ⟨f.bound.toNat, f.mode == 1⟩) (some h.pred.toNat)
    refine ⟨_, p, congrArg Host.Outcome.next (load_runs ready ok (.ldB h f) _), passed, token, under, is load, ?_⟩
    rw [preds, loadReports, List.map_map]
    rfl
  · refine ⟨s.retireSeq h, ?_, (s.retire_advances h (fun _ => seqPos s.cur.pos) present).1⟩
    show execLdAcq h f s = _
    unfold execLdAcq
    dsimp only
    rcases last with nums | ⟨nums, rounds⟩
    · rw [nums, if_neg (by simp), if_pos rfl]
    · rw [nums, if_pos rfl, rounds]
      rfl
  · obtain ⟨⟨elsewhere, -, threads, w, waits, cond, lanes, carried, -⟩, -, -⟩ := State.waitFor_again (Prepares.carry s [4]) present late h (.ldAcq h f) (.gone [] (s.roundsDue s.curCtx)) 7
    refine ⟨_, w, ?_, elsewhere, threads, waits, cond, lanes, carried⟩
    show execLdAcq h f s = _
    unfold execLdAcq
    dsimp only
    rw [nums, if_pos rfl, if_neg (by simpa using rounds)]

end Sys2Proof.Proofs.Loads
end

section
/-! SUPPORT. Accesses of the g space that pass their checks, and the writes that an issue sends towards their homes (R203, R217, R220). -/

namespace Sys2Proof.Machine

open Sys2Proof.Claims

/-! ### Accesses that pass (R217, R362) -/

/-- R362: a leaf maps whole pages, of 64 KiB at least. -/
theorem walkFrom_aligned {mem : List Host.Cell} {va lv table pa e : Nat} (found : walkFrom mem va lv table = .ok pa e) : pa % 2 ^ 16 = va % 2 ^ 16 := by
  induction lv generalizing table with
  | zero => cases found
  | succ k ih =>
    rw [walkFrom] at found
    generalize memNat mem (table + 8 * (va / 2 ^ levelShift k % levelEntries k)) 8 = x at found
    split at found
    · cases found
    · split at found
      · cases found
      next sound =>
        split at found
        next leaf =>
          obtain ⟨rfl, rfl⟩ := Walk.ok.inj found
          have base : bits x 47 16 * 256 % 2 ^ levelShift k = 0 := by
            by_contra ne
            refine sound ?_
            unfold badEntry
            simp only [leaf, if_true, Bool.or_eq_true, decide_eq_true_eq]
            exact .inl (.inl (.inl (.inr ne)))
          have large : 16 ≤ levelShift k := by
            unfold levelShift
            split <;> decide
          have divides : 2 ^ 16 ∣ 2 ^ levelShift k := Nat.pow_dvd_pow 2 large
          rw [Nat.add_mod, Nat.mod_mod_of_dvd va divides, Nat.mod_eq_zero_of_dvd (divides.trans (Nat.dvd_of_mod_eq_zero base)), Nat.zero_add, Nat.mod_mod]
        next => exact ih found

/-- The accesses of the active lanes, in the order of their lanes, aligned and translated. -/
structure GlobalAccs (s : State) (h : Hdr) (f : FmtM) (l : List Acc) : Prop where
  lanes : l.map (fun y => (y.lane, y.ea)) = addrs s h f
  ea : ∀ y ∈ l, y.ea % width f = 0
  pa : ∀ y ∈ l, y.pa % width f = 0

theorem State.checkG_passes {s : State} {k : AccKind} {n : Nat} {l : List (Nat × Nat)} {m : List Acc} (ok : s.checkG k n n l = .ok m) :
    (∀ p ∈ l, p.2 % n = 0) ∧ m.map (fun y => (y.lane, y.ea)) = l ∧ ∀ y ∈ m, s.walk s.curCtx y.ea = .ok y.pa y.entry := by
  rw [s.checkG_eq] at ok
  split at ok
  · cases ok
  next aligned =>
    split at ok
    · cases ok
    next allowed =>
      split at ok
      · cases ok
      next present =>
        split at ok
        · cases ok
        · split at ok
          · cases ok
          · rw [← MemChk.ok.inj ok]
            refine ⟨fun p hp => by simpa [misaligned] using List.find?_eq_none.1 aligned p hp, ?_⟩
            refine State.translated_spec fun p hp => s.walk_ok (k := k) ?_ ?_
            · simpa using List.find?_eq_none.1 allowed p hp
            · simpa using List.find?_eq_none.1 present p hp

theorem State.checkG_accs {s : State} {h : Hdr} {f : FmtM} {k : AccKind} {l : List Acc} (ok : s.checkG k (width f) (width f) (addrs s h f) = .ok l) : GlobalAccs s h f l := by
  obtain ⟨aligned, lanes, walks⟩ := State.checkG_passes ok
  have ea (y : Acc) (hy : y ∈ l) : y.ea % width f = 0 := by
    refine aligned (y.lane, y.ea) ?_
    rw [← lanes]
    exact List.mem_map.2 ⟨y, hy, rfl⟩
  refine ⟨lanes, ea, fun y hy => ?_⟩
  have same := walkFrom_aligned (walks y hy)
  have divides : width f ∣ 2 ^ 16 := Nat.pow_dvd_pow 2 (by omega)
  rw [← Nat.mod_mod_of_dvd y.pa divides, same, Nat.mod_mod_of_dvd _ divides]
  exact ea y hy

section Accs

variable {s : State} {h : Hdr} {f : FmtM} {l : List Acc} (a : GlobalAccs s h f l)
include a

theorem GlobalAccs.lanesOf : l.map Acc.lane = lanesOf (s.active h) := by
  have := congrArg (List.map Prod.fst) a.lanes
  simpa [addrs, Function.comp_def] using this

theorem GlobalAccs.order : l.Pairwise (fun x y => x.lane < y.lane) := by
  have sorted := lanesOf_sorted (s.active h)
  rw [← a.lanesOf] at sorted
  exact List.pairwise_map.1 sorted

theorem GlobalAccs.active {x : Acc} (hx : x ∈ l) : x.lane ∈ Machine.lanesOf (s.active h) := by
  rw [← a.lanesOf]
  exact List.mem_map.2 ⟨x, hx, rfl⟩

/-- A lane makes one access. -/
theorem GlobalAccs.one {x y : Acc} (hx : x ∈ l) (hy : y ∈ l) (same : x.lane = y.lane) : x = y := by
  have order := a.order
  clear a
  induction l with
  | nil => cases hx
  | cons z r ih =>
    obtain ⟨above, rest⟩ := List.pairwise_cons.1 order
    rcases List.mem_cons.1 hx with rfl | hx' <;> rcases List.mem_cons.1 hy with rfl | hy'
    · rfl
    · exact absurd (above y hy') (by omega)
    · exact absurd (above x hx') (by omega)
    · exact ih hx' hy' rest

/-- Two accesses of l that share a byte are to one place. -/
theorem GlobalAccs.meets {x y : Acc} (hx : x ∈ l) (hy : y ∈ l) {j i : Nat} (jl : j < width f) (il : i < width f) (same : x.pa + j = y.pa + i) : x.pa = y.pa :=
  aligned_meets (a.pa x hx) (a.pa y hy) il (by omega) (by omega)

/-- An access lies in one frame. -/
theorem GlobalAccs.frame {x : Acc} (hx : x ∈ l) {j : Nat} (jl : j < width f) : (x.pa + j) / 256 = frameOf x.pa ∧ (x.pa + j) % 256 = x.pa % 256 + j :=
  aligned_within (Nat.pow_dvd_pow 2 (n := 8) (by omega)) (a.pa x hx) jl (by decide)

end Accs

/-! ### Writes on their way (R203) -/

/-- A write that has been sent with a property: its number is below those to come. -/
def Sent' (t : State) (P : Msg → Prop) : Prop := ∃ k m, k < t.fresh ∧ tblFind t.msgs k = some m ∧ P m

/-- The writes sent before stay as they are. -/
structure MsgsKept (s t : State) : Prop where
  fresh : s.fresh ≤ t.fresh
  msgs : ∀ k, k < s.fresh → tblFind t.msgs k = tblFind s.msgs k

namespace MsgsKept

theorem refl (s : State) : MsgsKept s s := ⟨le_rfl, fun _ _ => rfl⟩

theorem trans {s t u : State} (h : MsgsKept s t) (k : MsgsKept t u) : MsgsKept s u :=
  ⟨h.fresh.trans k.fresh, fun i hi => (k.msgs i (hi.trans_le h.fresh)).trans (h.msgs i hi)⟩

theorem of_same {s t : State} (fresh : s.fresh ≤ t.fresh) (msgs : t.msgs = s.msgs) : MsgsKept s t := ⟨fresh, fun _ _ => by rw [msgs]⟩

theorem sent {s t : State} (h : MsgsKept s t) {P : Msg → Prop} (there : Sent' s P) : Sent' t P := by
  obtain ⟨k, m, less, found, is⟩ := there
  exact ⟨k, m, less.trans_le h.fresh, (h.msgs k less).trans found, is⟩

theorem foldl {α : Type} {f : State → α → State} (hf : ∀ s a, MsgsKept s (f s a)) (l : List α) (s : State) : MsgsKept s (l.foldl f s) := by
  induction l generalizing s with
  | nil => exact refl s
  | cons a r ih => exact (hf s a).trans (ih _)

end MsgsKept

theorem State.sendMsg_spec (s : State) (m : Msg) : s.fresh < (s.sendMsg m).fresh ∧ (s.sendMsg m).msgs = tblPut s.msgs s.fresh { m with stamp := s.fresh } ∧ (s.sendMsg m).dies = s.dies := by
  have later (u : State) (ev : Instr) : (u.later ev).fresh = u.fresh + 1 ∧ (u.later ev).msgs = u.msgs ∧ (u.later ev).dies = u.dies := ⟨rfl, rfl, rfl⟩
  unfold State.sendMsg
  dsimp only
  split
  · exact ⟨by rw [(later _ _).1]; exact Nat.lt_add_right 1 (Nat.lt_succ_self _), rfl, rfl⟩
  · exact ⟨by rw [(later _ _).1]; exact Nat.lt_add_right 1 (Nat.lt_succ_self _), rfl, rfl⟩

theorem MsgsKept.sendMsg (s : State) (m : Msg) : MsgsKept s (s.sendMsg m) := by
  obtain ⟨fresh, msgs, -⟩ := s.sendMsg_spec m
  exact ⟨fresh.le, fun k hk => by rw [msgs, tblFind_tblPut_other _ _ (by omega)]⟩

theorem State.sendMsg_sends (s : State) (m : Msg) {P : Msg → Prop} (is : P { m with stamp := s.fresh }) : Sent' (s.sendMsg m) P := by
  obtain ⟨fresh, msgs, -⟩ := s.sendMsg_spec m
  exact ⟨s.fresh, _, fresh, by rw [msgs, tblFind_tblPut_self], is⟩

theorem MsgsKept.flushGather (s : State) (die frame : Nat) (extra : List Nat) : MsgsKept s (s.flushGather die frame extra) := by
  unfold State.flushGather
  split
  · exact refl s
  next g e => exact (of_same (s := s) (t := s.modDie die (fun d => { d with gather := tblDel d.gather frame })) le_rfl rfl).trans (sendMsg _ _)

/-- A byte of memory is on its way in a write that has been sent, or in a gather entry of a die. -/
def Going (t : State) (die pa : Nat) (b : Byte) : Prop := Sent' t (fun m => (pa, b) ∈ m.bytes) ∨
  ∃ g, tblFind (t.die die).gather (pa / 256) = some g ∧ tblFind g.bytes (pa % 256) = some b

theorem Going.carried {t : State} {die pa : Nat} {b : Byte} (h : Going t die pa b) : Carried t die pa b := by
  rcases h with ⟨k, m, -, found, inside⟩ | gathered
  · exact .inl ⟨(k, m), mem_of_tblFind found, inside⟩
  · exact .inr gathered

theorem Going.kept {s t : State} {die pa : Nat} {b : Byte} (h : Going s die pa b) (kept : MsgsKept s t) (gather : (t.die die).gather = (s.die die).gather) : Going t die pa b := by
  rcases h with sent | gathered
  · exact .inl (kept.sent sent)
  · exact .inr (by rw [gather]; exact gathered)

/-- R210: a byte that leaves its gather entry goes on in a write. -/
theorem Going.flushGather {s : State} {die pa : Nat} {b : Byte} (h : Going s die pa b) (frame : Nat) (extra : List Nat) : Going (s.flushGather die frame extra) die pa b := by
  rcases h with sent | ⟨g, found, inside⟩
  · exact .inl ((MsgsKept.flushGather s die frame extra).sent sent)
  · by_cases here : pa / 256 = frame
    · subst here
      have place : pa / 256 * 256 + pa % 256 = pa := by omega
      unfold State.flushGather
      rw [found]
      dsimp only
      exact .inl (State.sendMsg_sends _ _ (List.mem_map.2 ⟨_, mem_of_tblFind inside, by rw [place]⟩))
    · refine .inr ⟨g, ?_, inside⟩
      rw [State.flushGather_gather, tblFind_tblDel_other _ here]
      exact found

/-- An entry of a die takes bytes. -/
def State.gatherPut (s : State) (die frame : Nat) (g : Gather) : State :=
  (s.modDie die (fun d => { d with gather := tblPut d.gather frame g })).tickFresh.inTicks 65536 (.gatherIdleFlush die frame)

theorem State.gatherPut_gather (s : State) (die frame : Nat) (g : Gather) : ((s.gatherPut die frame g).die die).gather = tblPut (s.die die).gather frame g :=
  congrArg Die.gather (s.modDie_self die (fun d => { d with gather := tblPut d.gather frame g }))

theorem MsgsKept.gatherPut (s : State) (die frame : Nat) (g : Gather) : MsgsKept s (s.gatherPut die frame g) := .of_same (Nat.le_succ s.fresh) rfl

theorem Beside.gatherPut (s : State) (die frame : Nat) (g : Gather) : Beside s (s.gatherPut die frame g) := .of_wgs rfl rfl rfl rfl rfl

/-- R210, R243: bytes enter the entry of their frame, another entry having left where the slice is full. -/
theorem State.gatherStore_run (s : State) (die frame ctx launch : Nat) (causes : List Nat) (bytes : List (Nat × Byte)) :
    ∃ u g, s.gatherStore die frame ctx launch causes bytes = u.gatherPut die frame g ∧ g.bytes = bytes.foldl (fun t p => tblPut t (p.1 % 256) p.2) (tblGet {} (u.die die).gather frame).bytes ∧
      (u = s ∨ ∃ v, u = s.flushGather die v) := by
  unfold State.gatherStore
  dsimp only
  refine ⟨_, _, rfl, rfl, ?_⟩
  split
  · split
    next v _ => exact .inr ⟨v.1, rfl⟩
    next => exact .inl rfl
  · exact .inl rfl

/-- The gather entry of a frame once bytes have entered it. -/
theorem State.gatherStore_spec (s : State) (die frame ctx launch : Nat) (causes : List Nat) (bytes : List (Nat × Byte)) : Beside s (s.gatherStore die frame ctx launch causes bytes) ∧
    MsgsKept s (s.gatherStore die frame ctx launch causes bytes) ∧
    (∀ pa b, pa / 256 ≠ frame → Going s die pa b → Going (s.gatherStore die frame ctx launch causes bytes) die pa b) ∧
    ∃ t g, tblFind ((s.gatherStore die frame ctx launch causes bytes).die die).gather frame = some g ∧ g.bytes = bytes.foldl (fun t p => tblPut t (p.1 % 256) p.2) t := by
  obtain ⟨u, g, run, entered, made⟩ := s.gatherStore_run die frame ctx launch causes bytes
  have spec : Beside s u ∧ MsgsKept s u ∧ ∀ pa b, Going s die pa b → Going u die pa b := by
    rcases made with rfl | ⟨v, rfl⟩
    · exact ⟨.refl u, .refl u, fun _ _ h => h⟩
    · have sends := Sends.flushGather s die v []
      exact ⟨.of_wgs sends.groups (by rw [sends]) (by rw [sends]) sends.cur sends.wgs, .flushGather s die v [], fun pa b h => h.flushGather v []⟩
  obtain ⟨beside, kept, going⟩ := spec
  rw [run]
  refine ⟨beside.trans (.gatherPut u die frame g), kept.trans (.gatherPut u die frame g), fun pa b other there => ?_, _, g, ?_, entered⟩
  · rcases going pa b there with sent | ⟨g', found, inside⟩
    · exact .inl ((MsgsKept.gatherPut u die frame g).sent sent)
    · refine .inr ⟨g', ?_, inside⟩
      rw [State.gatherPut_gather, tblFind_tblPut_other _ _ other]
      exact found
  · rw [State.gatherPut_gather, tblFind_tblPut_self]

end Sys2Proof.Machine
end

section
/-! SUPPORT. Stores of the g space: every byte is on its way to its home when its issue goes on (R220, R222, R223). -/

namespace Sys2Proof.Machine

open Sys2Proof.Claims

/-! ### What leaves the writes on their way alone -/

/-- What changes no group, no byte and no write on its way. -/
structure Quiet (s t : State) : Prop where
  beside : Beside s t
  kept : MsgsKept s t
  gather : ∀ d, (t.die d).gather = (s.die d).gather

namespace Quiet

theorem refl (s : State) : Quiet s s := ⟨.refl s, .refl s, fun _ => rfl⟩

theorem trans {s t u : State} (h : Quiet s t) (k : Quiet t u) : Quiet s u := ⟨h.beside.trans k.beside, h.kept.trans k.kept, fun d => (k.gather d).trans (h.gather d)⟩

theorem going {s t : State} (h : Quiet s t) {die pa : Nat} {b : Byte} (there : Going s die pa b) : Going t die pa b := there.kept h.kept (h.gather die)

theorem filled (s old : State) : Quiet s (s.filled old) := by
  unfold State.filled
  refine List.foldlRecOn (motive := fun t => Quiet s t) _ _ (.refl s) fun t ht q _ => ht.trans ?_
  exact ⟨.of_wgs rfl rfl rfl rfl rfl, .of_same (Nat.le_succ _) rfl, fun _ => rfl⟩

theorem fixLoads (s : State) (core before : Nat) (pas : List Nat) : Quiet s (s.fixLoads core before pas) := by
  unfold State.fixLoads
  dsimp only
  generalize s.pends.map _ = ps
  have step : Quiet s { s with pends := ps } := ⟨.of_wgs rfl rfl rfl rfl rfl, .of_same le_rfl rfl, fun _ => rfl⟩
  exact step.trans (.filled _ s)

theorem updateL1 (s : State) (core : Nat) (bytes : List (Nat × Byte)) (hint : Nat) : Quiet s (s.updateL1 core bytes hint) := by
  unfold State.updateL1
  dsimp only
  split
  · exact .refl s
  · exact ⟨.modCore s _ _, .of_same le_rfl rfl, fun _ => rfl⟩

theorem noteUndo (s : State) (w rwc : Nat) (l : List (Nat × Byte × Byte)) : Quiet s (s.noteUndo w rwc l) := by
  unfold State.noteUndo
  split
  · exact .refl s
  · exact ⟨.modWg s w _, .of_same le_rfl rfl, fun _ => rfl⟩

theorem dropL1 (s : State) (core frame : Nat) (mask : BitVec 64) (pred : Block → Bool) : Quiet s (s.dropL1 core frame mask pred) := by
  unfold State.dropL1
  dsimp only
  split
  · exact ⟨.of_wgs rfl rfl rfl rfl rfl, .of_same le_rfl rfl, fun _ => rfl⟩
  · exact .refl s

end Quiet

theorem Beside.sendMsg (s : State) (m : Msg) : Beside s (s.sendMsg m) := by
  have sends := Sends.sendMsg s m
  exact .of_wgs sends.groups (by rw [sends]) (by rw [sends]) sends.cur sends.wgs

theorem Going.sendMsg {s : State} {die pa : Nat} {b : Byte} (h : Going s die pa b) (m : Msg) : Going (s.sendMsg m) die pa b :=
  h.kept (.sendMsg s m) (by rw [State.die, State.die, (s.sendMsg_spec m).2.2])

/-! ### The store of a frame (R203, R208, R209, R220) -/

/-- The accesses of a store to a frame. -/
def inFrame (accs : List Acc) (frame : Nat) : List Acc := accs.filter (fun x => frameOf x.pa = frame)

/-- The bytes that lanes write. -/
def storeBytes (s : State) (f : FmtM) (n : Nat) (mine : List Acc) : List (Nat × Byte) := (mine.map (fun x => placed x.pa (s.dataBytes f.data.toNat n x.lane))).flatten

/-- What a release says of a write. -/
structure Ordered (ord : StoreOrder) (m : Msg) : Prop where
  overhead : m.overhead = ord.overhead
  widen : m.widen = ord.release
  scope : m.scope = ord.scope
  after : ∀ d ∈ ord.after, d ∈ m.after

/-- R203, R209, R220: the bytes of a frame leave in a write, or, of a store that is no release, enter a gather entry. -/
theorem storeFrame_run (f : FmtM) (n : Nat) (ord : StoreOrder) (pend : Nat) (accs : List Acc) (s : State) (c frame : Nat) (some' : inFrame accs frame ≠ []) :
    ∃ u, Quiet s u ∧ ((∃ m, (storeFrame f n ord pend accs (s, c) frame).1 = u.sendMsg m ∧ m.bytes = storeBytes s f n (inFrame accs frame) ∧ Ordered ord m) ∨
      ord.release = false ∧ ∃ ctx launch causes, (storeFrame f n ord pend accs (s, c) frame).1 =
        u.gatherStore (Config.dieOfCore s.cur.core) frame ctx launch causes (storeBytes s f n (inFrame accs frame))) := by
  obtain ⟨x0, rest, is⟩ := List.exists_cons_of_ne_nil some'
  unfold storeFrame
  dsimp only
  rw [show accs.filter (fun x => frameOf x.pa = frame) = x0 :: rest from is, ← is]
  have head : (inFrame accs frame).head? = some x0 := by rw [is]; rfl
  rw [head]
  dsimp only
  have fixed (b : Bool) (v : State) (hv : Quiet s v) : Quiet s (if b then s else v) := by
    cases b
    · exact hv
    · exact .refl s
  rw [show ((inFrame accs frame).map (fun x => placed x.pa (s.dataBytes f.data.toNat n x.lane))).flatten = storeBytes s f n (inFrame accs frame) from rfl]
  generalize storeBytes s f n (inFrame accs frame) = bytes
  have quiet := fixed (leafReadMostly x0.entry || ord.release) _ (.fixLoads s s.cur.core s.fresh (bytes.map (fun b => b.1)))
  generalize (if leafReadMostly x0.entry || ord.release then s else s.fixLoads s.cur.core s.fresh (bytes.map (fun b => b.1))) = v at quiet ⊢
  generalize v.behind _ ++ v.missers _ ++ v.elemReads _ _ = before
  have sent (u : State) (m : Msg) (d : Nat) (hu : Quiet s u) (hb : m.bytes = bytes) (ho : Ordered ord m) : ∃ w, Quiet s w ∧
      ((∃ k, (u.sendMsg m, d).1 = w.sendMsg k ∧ k.bytes = bytes ∧ Ordered ord k) ∨
        ord.release = false ∧ ∃ ctx launch causes, (u.sendMsg m, d).1 = w.gatherStore (Config.dieOfCore s.cur.core) frame ctx launch causes bytes) :=
    ⟨u, hu, .inl ⟨m, rfl, hb, ho⟩⟩
  split
  next => exact sent _ _ _ (quiet) rfl ⟨rfl, rfl, rfl, fun d hd => List.mem_append_right _ hd⟩
  next =>
    split
    next => exact sent _ _ _ (quiet) rfl ⟨rfl, rfl, rfl, fun d hd => List.mem_append_right _ hd⟩
    next plain =>
      have early : ord.release = false := by
        rw [Bool.or_eq_true, not_or] at plain
        exact Bool.eq_false_iff.2 plain.1
      split
      next => exact sent _ _ _ (quiet.trans (.updateL1 v _ _ _)) rfl ⟨rfl, rfl, rfl, fun d hd => List.mem_append_right _ hd⟩
      next =>
        split
        next => exact sent _ _ _ (quiet.trans (.updateL1 v _ _ _)) rfl ⟨rfl, rfl, rfl, fun d hd => List.mem_append_right _ hd⟩
        next => exact ⟨_, quiet.trans ((Quiet.noteUndo v _ _ _).trans (.updateL1 _ _ _ _)), .inr ⟨early, _, _, _, rfl⟩⟩

/-- The bytes of an entry that takes those of a frame. -/
theorem foldl_entered (l : List (Nat × Byte)) (t : Tbl Byte) {k : Nat} {b : Byte} (there : ∃ p ∈ l, p.1 % 256 = k) (all : ∀ p ∈ l, p.1 % 256 = k → p.2 = b) :
    tblFind (l.foldl (fun t p => tblPut t (p.1 % 256) p.2) t) k = some b := by
  have later (m : List (Nat × Byte)) (u : Tbl Byte) (found : tblFind u k = some b) (same : ∀ p ∈ m, p.1 % 256 = k → p.2 = b) : tblFind (m.foldl (fun t p => tblPut t (p.1 % 256) p.2) u) k = some b := by
    refine List.foldlRecOn (motive := fun t => tblFind t k = some b) m _ found fun v hv p hp => ?_
    by_cases here : p.1 % 256 = k
    · rw [here, tblFind_tblPut_self, same p hp here]
    · rw [tblFind_tblPut_other _ _ (Ne.symm here)]
      exact hv
  induction l generalizing t with
  | nil =>
    obtain ⟨p, hp, -⟩ := there
    cases hp
  | cons a r ih =>
    rw [List.foldl_cons]
    by_cases here : a.1 % 256 = k
    · refine later r _ ?_ fun p hp => all p (List.mem_cons_of_mem _ hp)
      rw [here, tblFind_tblPut_self, all a List.mem_cons_self here]
    · obtain ⟨p, hp, at'⟩ := there
      rcases List.mem_cons.1 hp with rfl | inside
      · exact absurd at' here
      · exact ih _ ⟨p, inside, at'⟩ fun p hp => all p (List.mem_cons_of_mem _ hp)

theorem mem_placed {a : Nat} {l : List Byte} {p : Nat × Byte} (hp : p ∈ placed a l) : ∃ j, j < l.length ∧ p = (a + j, l.getD j 0) := by
  induction l generalizing a with
  | nil => cases hp
  | cons b r ih =>
    rcases List.mem_cons.1 hp with rfl | inside
    · exact ⟨0, Nat.succ_pos _, rfl⟩
    · obtain ⟨j, less, rfl⟩ := ih inside
      exact ⟨j + 1, Nat.succ_lt_succ less, by rw [List.getD_cons_succ]; congr 1; omega⟩

theorem placed_mem (a : Nat) {l : List Byte} {j : Nat} (less : j < l.length) : (a + j, l.getD j 0) ∈ placed a l := by
  induction l generalizing a j with
  | nil => exact absurd less (Nat.not_lt_zero j)
  | cons b r ih =>
    cases j with
    | zero => exact List.mem_cons_self
    | succ k =>
      refine List.mem_cons_of_mem _ ?_
      have := ih (a + 1) (j := k) (Nat.lt_of_succ_lt_succ less)
      rw [List.getD_cons_succ, show a + (k + 1) = a + 1 + k by omega]
      exact this

/-- R216, R220: the bytes that lanes write, each at its address. -/
theorem mem_storeBytes {s : State} {f : FmtM} {mine : List Acc} {p : Nat × Byte} : p ∈ storeBytes s f (width f) mine ↔ ∃ x ∈ mine, ∃ j, j < width f ∧ p = (x.pa + j, dataByte s f x.lane j) := by
  have len (x : Acc) : (s.dataBytes f.data.toNat (width f) x.lane).length = width f := leBytes_length _ _
  constructor
  · intro hp
    obtain ⟨q, hq, inside⟩ := List.mem_flatten.1 hp
    obtain ⟨x, hx, rfl⟩ := List.mem_map.1 hq
    obtain ⟨j, less, rfl⟩ := mem_placed inside
    rw [len] at less
    exact ⟨x, hx, j, less, by rw [s.dataBytes_byte f _ _ less]⟩
  · rintro ⟨x, hx, j, less, rfl⟩
    refine List.mem_flatten.2 ⟨_, List.mem_map.2 ⟨x, hx, rfl⟩, ?_⟩
    rw [← s.dataBytes_byte f (width f) x.lane less]
    exact placed_mem x.pa (by rw [len]; exact less)

end Sys2Proof.Machine
end

section
/-! SUPPORT. A store of the g space: what its issue leaves, with the writes of its frames sent or gathered (R220, R222, R223, R230). -/

namespace Sys2Proof.Machine

open Sys2Proof.Claims

/-! ### An issue that has not gone on yet -/

theorem State.dropToken_groups (s : State) (h : Hdr) : s.dropToken h = { s with groups := (s.dropToken h).groups } := by
  unfold State.dropToken State.tokDown
  split
  · rfl
  · exact s.modGroup_groups _ _ _

/-- What an issue may do before its threads go on: it keeps its issuer and every thread. -/
structure Issuing (s t : State) : Prop where
  keeps : KeepsThreads s t
  cur : t.cur = s.cur

namespace Issuing

theorem refl (s : State) : Issuing s s := ⟨.refl s, rfl⟩

theorem trans {s t u : State} (h : Issuing s t) (k : Issuing t u) : Issuing s u := ⟨h.keeps.trans k.keeps, k.cur.trans h.cur⟩

theorem of_beside {s t : State} (h : Beside s t) : Issuing s t :=
  ⟨⟨h.mem, h.hostMem, h.rwc, h.present, fun c q => by rw [h.group], fun c q => by rw [h.group]⟩, h.cur⟩

theorem takeToken (s : State) (h : Hdr) : Issuing s (s.takeToken h) := ⟨(SameThreads.takeToken s h).keeps, by rw [s.takeToken_groups h]⟩

theorem dropToken (s : State) (h : Hdr) : Issuing s (s.dropToken h) := by
  refine ⟨?_, by rw [s.dropToken_groups h]⟩
  unfold State.dropToken State.tokDown
  split
  · exact .refl s
  · exact (SameThreads.modGroup s _ _ _).keeps

variable {s t : State} (i : Issuing s t)
include i

theorem dataBytes (r n l : Nat) : t.dataBytes r n l = s.dataBytes r n l := by
  have thread : t.thread s.cur.core s.cur.slot l = s.thread s.cur.core s.cur.slot l := by
    rw [State.thread, State.thread, Group.thread, Group.thread, i.keeps.threads]
  have word (q : Nat) : t.selWord l q = s.selWord l q := by
    rw [State.selWord, State.selWord, State.laneBits, State.laneBits, i.cur, thread]
  unfold State.dataBytes
  simp only [word]

/-- R142: what an issue does before it goes on is no obstacle to its going on. -/
theorem passes (present : s.hasGroup s.cur.core s.cur.slot = true) (h : Hdr) : Passed s (t.retireSeq h) h := by
  have advances := (t.retire_advances h (fun _ => seqPos t.cur.pos) (by rw [i.cur, i.keeps.present]; exact present)).1
  have moved := i.keeps.moved i.cur present advances
  rw [i.cur] at moved
  rw [State.retireSeq, i.cur]
  exact moved

end Issuing

/-! ### The frames of a store -/

/-- Of the accesses of a store each writes a place of its own, in one frame. -/
structure OwnPlaces (f : FmtM) (accs : List Acc) : Prop where
  one : ∀ x ∈ accs, ∀ y ∈ accs, ∀ j i, j < width f → i < width f → x.pa + j = y.pa + i → x = y
  frame : ∀ x ∈ accs, ∀ j, j < width f → (x.pa + j) / 256 = frameOf x.pa

section Frames

variable {b s : State} (issue : Issuing b s) {f : FmtM} {ord : StoreOrder} {accs : List Acc} (own : OwnPlaces f accs) (pend c frame : Nat)
include issue own

/-- The bytes of the access of a lane are on their way. -/
def Acc.Goes (x : Acc) (b : State) (f : FmtM) (t : State) : Prop := ∀ j, j < width f → Going t (Config.dieOfCore b.cur.core) (x.pa + j) (dataByte b f x.lane j)

/-- The bytes of the access of a lane have been sent in a write ordered as ord. -/
def Acc.Released (x : Acc) (b : State) (f : FmtM) (ord : StoreOrder) (t : State) : Prop :=
  Sent' t (fun m => Ordered ord m ∧ ∀ j, j < width f → (x.pa + j, dataByte b f x.lane j) ∈ m.bytes)

omit own in
theorem storeBytes_issue (mine : List Acc) : storeBytes s f (width f) mine = storeBytes b f (width f) mine := by
  unfold storeBytes
  simp only [issue.dataBytes]

/-- R203, R209, R220: the store of one frame. -/
theorem storeFrame_goes : Beside s (storeFrame f (width f) ord pend accs (s, c) frame).1 ∧ MsgsKept s (storeFrame f (width f) ord pend accs (s, c) frame).1 ∧
    (∀ pa v, pa / 256 ≠ frame → Going s (Config.dieOfCore b.cur.core) pa v → Going (storeFrame f (width f) ord pend accs (s, c) frame).1 (Config.dieOfCore b.cur.core) pa v) ∧
    ∀ x ∈ accs, frameOf x.pa = frame → x.Goes b f (storeFrame f (width f) ord pend accs (s, c) frame).1 ∧
      (ord.release = true → x.Released b f ord (storeFrame f (width f) ord pend accs (s, c) frame).1) := by
  by_cases none' : inFrame accs frame = []
  · have run : storeFrame f (width f) ord pend accs (s, c) frame = (s, c) := by
      unfold storeFrame
      dsimp only
      rw [show accs.filter (fun x => frameOf x.pa = frame) = [] from none']
      rfl
    rw [run]
    refine ⟨.refl s, .refl s, fun _ _ _ h => h, fun x hx here => ?_⟩
    have : x ∈ inFrame accs frame := List.mem_filter.2 ⟨hx, by simpa using here⟩
    rw [none'] at this
    cases this
  · obtain ⟨u, quiet, cases⟩ := storeFrame_run f (width f) ord pend accs s c frame none'
    have mine (x : Acc) (hx : x ∈ accs) (here : frameOf x.pa = frame) (j : Nat) (less : j < width f) : (x.pa + j, dataByte b f x.lane j) ∈ storeBytes s f (width f) (inFrame accs frame) := by
      rw [storeBytes_issue issue]
      exact mem_storeBytes.2 ⟨x, List.mem_filter.2 ⟨hx, by simpa using here⟩, j, less, rfl⟩
    rcases cases with ⟨m, run, bytes, ordered⟩ | ⟨early, ctx, launch, causes, run⟩
    · rw [run]
      refine ⟨quiet.beside.trans (.sendMsg u m), quiet.kept.trans (.sendMsg u m), fun pa v _ going => (quiet.going going).sendMsg m, fun x hx here => ⟨fun j less => .inl ?_, fun _ => ?_⟩⟩
      · refine State.sendMsg_sends u m ?_
        show _ ∈ m.bytes
        rw [bytes]
        exact mine x hx here j less
      · refine State.sendMsg_sends u m ⟨⟨ordered.overhead, ordered.widen, ordered.scope, ordered.after⟩, fun j less => ?_⟩
        show _ ∈ m.bytes
        rw [bytes]
        exact mine x hx here j less
    · rw [run, issue.cur]
      obtain ⟨beside, kept, others, t, g, found, entered⟩ := u.gatherStore_spec (Config.dieOfCore b.cur.core) frame ctx launch causes (storeBytes s f (width f) (inFrame accs frame))
      refine ⟨quiet.beside.trans beside, quiet.kept.trans kept, fun pa v other going => others pa v other (quiet.going going), fun x hx here => ⟨fun j less => .inr ⟨g, ?_, ?_⟩, fun late => ?_⟩⟩
      · rw [own.frame x hx j less, here]
        exact found
      · rw [entered]
        refine foldl_entered _ _ ⟨_, mine x hx here j less, rfl⟩ fun p hp same => ?_
        rw [storeBytes_issue issue] at hp
        obtain ⟨y, hy, i, less', rfl⟩ := mem_storeBytes.1 hp
        obtain ⟨hy, there⟩ := List.mem_filter.1 hy
        have there : frameOf y.pa = frame := by simpa using there
        have fx := own.frame x hx j less
        have fy := own.frame y hy i less'
        have place : x.pa + j = y.pa + i := by
          rw [here] at fx
          rw [there] at fy
          dsimp only at same
          omega
        obtain rfl := own.one x hx y hy j i less less' place
        have : j = i := by omega
        rw [this]
      · rw [early] at late
        cases late

/-- R203, R220: the stores of frames, one after another. -/
theorem storeFrames_go (frames : List Nat) : Issuing b (frames.foldl (fun a fr => storeFrame f (width f) ord pend accs a fr) (s, c)).1 ∧
    MsgsKept s (frames.foldl (fun a fr => storeFrame f (width f) ord pend accs a fr) (s, c)).1 ∧
    (∀ x ∈ accs, frameOf x.pa ∉ frames → x.Goes b f s → x.Goes b f (frames.foldl (fun a fr => storeFrame f (width f) ord pend accs a fr) (s, c)).1) ∧
    ∀ x ∈ accs, frameOf x.pa ∈ frames → x.Goes b f (frames.foldl (fun a fr => storeFrame f (width f) ord pend accs a fr) (s, c)).1 ∧
      (ord.release = true → x.Released b f ord (frames.foldl (fun a fr => storeFrame f (width f) ord pend accs a fr) (s, c)).1) := by
  induction frames generalizing s c with
  | nil => exact ⟨issue, .refl s, fun _ _ _ h => h, fun x hx h => absurd h List.not_mem_nil⟩
  | cons fr rest ih =>
    obtain ⟨beside, kept, others, here⟩ := storeFrame_goes issue (ord := ord) own pend c fr
    obtain ⟨issue', kept', out, inn⟩ := ih (s := (storeFrame f (width f) ord pend accs (s, c) fr).1) (issue.trans (.of_beside beside)) (storeFrame f (width f) ord pend accs (s, c) fr).2
    rw [List.foldl_cons]
    refine ⟨issue', kept.trans kept', fun x hx no goes => ?_, fun x hx there => ?_⟩
    · obtain ⟨ne, no'⟩ := not_or.1 fun e => no (List.mem_cons.2 e)
      exact out x hx no' fun j less => others _ _ (by rw [own.frame x hx j less]; exact ne) (goes j less)
    · by_cases later : frameOf x.pa ∈ rest
      · exact inn x hx later
      · have first : frameOf x.pa = fr := (List.mem_cons.1 there).resolve_right later
        obtain ⟨goes, released⟩ := here x hx first
        exact ⟨out x hx later goes, fun rel => kept'.sent (released rel)⟩

end Frames

/-! ### The store as a whole -/

/-- R230: a store whose writes are under way, r telling how many it waits for, goes on. -/
def State.storeEnds (h : Hdr) (id : Nat) (p : Nat → Pend) (r : State × Nat) : State :=
  if r.2 = 0 then (r.1.dropToken h).retireSeq h else { r.1 with pends := tblPut r.1.pends id (p r.2) }.retireSeq h

/-- The result under way of a store that waits for c writes. -/
def storePend (s : State) (h : Hdr) (act : BitVec 32) (accs : List Acc) (c : Nat) : Pend :=
  { core := s.cur.core, slot := s.cur.slot, kind := 3, path := s.cur.path, lanes := s.cur.lanes, act := act, pos := s.cur.pos, tok := h.tok.toNat, wait := c, frames := (framesOf (accs.map Acc.pa)).length }

/-- R220: with no proxy among the data, a store stages its lanes in host windows and then stores its frames. -/
theorem State.storeG_eq (s : State) (h : Hdr) (f : FmtM) (n : Nat) (ord : StoreOrder) (act : BitVec 32) (accs : List Acc) (homeData : Bool)
    (plain : ∀ x ∈ accs, (homeData && s.isProxy x.lane f.data.toNat) = false) : s.storeG h f n ord act accs homeData =
      State.storeEnds h s.fresh (storePend s h act accs) ((framesOf ((inDevice (winners accs)).map Acc.pa)).foldl (fun a fr => storeFrame f n ord s.fresh (inDevice (winners accs)) a fr)
        ((Machine.inWindow (winners accs)).foldl (fun a x => stageLane f n s.fresh a x) ((s.takeToken h).tickFresh, 0))) := by
  have none' : (winners accs).filter (fun x => homeData && s.isProxy x.lane f.data.toNat) = [] :=
    List.filter_eq_nil_iff.2 fun x hx => by rw [plain x (List.mem_filter.1 hx).1]; simp
  have all : (winners accs).filter (fun x => !([] : List Acc).contains x) = winners accs := List.filter_eq_self.2 fun x _ => rfl
  unfold State.storeG
  dsimp only
  rw [none', all]
  rfl

/-- R142: a store goes on, and its writes stay under way. -/
theorem State.storeEnds_passes {s : State} (first : First s) (h : Hdr) (id : Nat) (p : Nat → Pend) {r : State × Nat} (issue : Issuing s r.1) :
    Passed s (State.storeEnds h id p r) h ∧ (State.storeEnds h id p r).msgs = r.1.msgs ∧ (State.storeEnds h id p r).dies = r.1.dies := by
  have phase (v : State) (i : Issuing s v) : v.cur.phase = 0 := by rw [i.cur]; exact first.1
  unfold State.storeEnds
  split
  · have i := issue.trans (.dropToken r.1 h)
    have retired := Retired.retireSeq _ h (phase _ i)
    have drop := r.1.dropToken_groups h
    exact ⟨i.passes first.2.2.2.2.2 h, by rw [retired.state, drop], by rw [retired.state, drop]⟩
  · have i : Issuing s { r.1 with pends := tblPut r.1.pends id (p r.2) } := issue.trans ⟨⟨rfl, rfl, fun _ => rfl, fun _ _ => rfl, fun _ _ => rfl, fun _ _ => rfl⟩, rfl⟩
    have retired := Retired.retireSeq _ h (phase _ i)
    exact ⟨i.passes first.2.2.2.2.2 h, by rw [retired.state], by rw [retired.state]⟩

theorem lands_device {l : List Acc} (device : ∀ x ∈ l, leafWindow x.entry = false) : Machine.inWindow l = [] ∧ inDevice l = l :=
  ⟨List.filter_eq_nil_iff.2 fun x hx => by rw [device x hx]; simp, List.filter_eq_self.2 fun x hx => by rw [device x hx]; rfl⟩

/-- R220: of the lanes that write one address of device memory, the highest wins. -/
theorem writesLast_wins {l : List Acc} (device : ∀ x ∈ l, leafWindow x.entry = false) {x : Acc} (last : writesLast l x) : x ∈ winners l := by
  obtain ⟨hx, highest⟩ := last
  refine List.mem_filter.2 ⟨hx, ?_⟩
  rw [Bool.not_eq_true', List.any_eq_false]
  intro y hy beats
  rw [Bool.and_eq_true, decide_eq_true_eq, Acc.meets, device x hx, device y hy] at beats
  obtain ⟨above, same⟩ := beats
  have place : x.pa = y.pa := by simpa using same
  have := highest y hy place.symm
  omega

theorem GlobalAccs.ownPlaces {s : State} {h : Hdr} {f : FmtM} {l : List Acc} (a : GlobalAccs s h f l) (device : ∀ x ∈ l, leafWindow x.entry = false) : OwnPlaces f (winners l) := by
  refine ⟨fun x hx y hy j i jl il same => ?_, fun x hx j jl => (a.frame (List.mem_filter.1 hx).1 jl).1⟩
  obtain ⟨hx, wx⟩ := List.mem_filter.1 hx
  obtain ⟨hy, wy⟩ := List.mem_filter.1 hy
  have place := a.meets hx hy jl il same
  rw [Bool.not_eq_true', List.any_eq_false] at wx wy
  have one (x y : Acc) (hx : x ∈ l) (hy : y ∈ l) (place : x.pa = y.pa) (wins : ¬ (decide (y.lane > x.lane) && x.meets y) = true) : y.lane ≤ x.lane := by
    rw [Acc.meets, device x hx, device y hy] at wins
    simp [place] at wins
    exact wins
  have := one x y hx hy place (wx y hy)
  have := one y x hy hx place.symm (wy x hx)
  exact a.one hx hy (by omega)

/-- R220, R222, R223: a store to device memory goes on with every byte on its way to its home. -/
theorem State.storeG_carries {s : State} (first : First s) {h : Hdr} {f : FmtM} {l : List Acc} (a : GlobalAccs s h f l) (device : ∀ x ∈ l, leafWindow x.entry = false) (ord : StoreOrder) (homeData : Bool)
    (plain : ∀ x ∈ l, (homeData && s.isProxy x.lane f.data.toNat) = false) :
    Passed s (s.storeG h f (width f) ord (s.active h) l homeData) h ∧ ∀ x, writesLast l x →
      (∀ j, j < width f → Carried (s.storeG h f (width f) ord (s.active h) l homeData) (Config.dieOfCore s.cur.core) (x.pa + j) (dataByte s f x.lane j)) ∧
      (ord.release = true → ∃ m ∈ (s.storeG h f (width f) ord (s.active h) l homeData).msgs, Ordered ord m.2 ∧ ∀ j, j < width f → (x.pa + j, dataByte s f x.lane j) ∈ m.2.bytes) := by
  obtain ⟨windows, devices⟩ := lands_device (l := winners l) fun x hx => device x (List.mem_filter.1 hx).1
  rw [s.storeG_eq _ _ _ _ _ _ _ plain, windows, devices, List.foldl_nil]
  have begun : Issuing s (s.takeToken h).tickFresh := (Issuing.takeToken s h).trans (.of_beside (.of_wgs rfl rfl rfl rfl rfl))
  obtain ⟨issue, -, -, goes⟩ := storeFrames_go (ord := ord) begun (a.ownPlaces device) s.fresh 0 (framesOf ((winners l).map Acc.pa))
  obtain ⟨passed, msgs, dies⟩ := State.storeEnds_passes first h s.fresh (storePend s h (s.active h) l) issue
  refine ⟨passed, fun x last => ?_⟩
  have wins := writesLast_wins device last
  obtain ⟨going, released⟩ := goes x wins (mem_framesOf (List.mem_map.2 ⟨x, wins, rfl⟩))
  refine ⟨fun j less => ?_, fun rel => ?_⟩
  · have := (going j less).carried
    unfold Carried State.die at this ⊢
    rw [msgs, dies]
    exact this
  · obtain ⟨k, m, -, found, ordered, bytes⟩ := released rel
    rw [msgs]
    exact ⟨(k, m), mem_of_tblFind found, ordered, bytes⟩

end Sys2Proof.Machine
end

section
/-! SUPPORT. Stores to host windows, released stores, and atomics (R220, R223, R224, R379). -/

namespace Sys2Proof.Machine

open Sys2Proof.Claims

/-! ### Stores that are staged (R220, R379) -/

theorem tblFind_placedAll (l : List Byte) (t : Tbl Byte) (a k : Nat) : tblFind ((placed a l).foldl (fun t b => tblPut t b.1 b.2) t) k = if a ≤ k ∧ k < a + l.length then some (l.getD (k - a) 0) else tblFind t k := by
  induction l generalizing t a with
  | nil =>
    rw [if_neg (by simp)]
    rfl
  | cons b r ih =>
    rw [placed, List.foldl_cons, ih, List.length_cons]
    by_cases here : k = a
    · subst here
      rw [if_neg (by omega), if_pos (by omega), tblFind_tblPut_self, Nat.sub_self, List.getD_cons_zero]
    · rw [tblFind_tblPut_other _ _ here]
      by_cases later : a + 1 ≤ k ∧ k < a + 1 + r.length
      · rw [if_pos later, if_pos (by omega), show k - a = (k - (a + 1)) + 1 by omega, List.getD_cons_succ]
      · rw [if_neg later, if_neg (by omega)]

/-- A host window of which nothing is known. -/
def noWindow : Window := { va := 0, len := 0, host := 0, counter := 0 }

/-- A window with bytes staged on a die. -/
def Window.takes (z : Window) (die va : Nat) (bytes : List Byte) : Window :=
  { z with staged := (placed (die * 2 ^ 26 + (va - z.va)) bytes).foldl (fun t b => tblPut t b.1 b.2) z.staged }

/-- R379: where no load waits, staging changes the window alone. -/
theorem State.stageAt_alone {v : State} (alone : v.pends = []) (die w va : Nat) (bytes : List Byte) :
    v.stageAt die w va bytes = { v with windows := tblPut v.windows w ((tblGet noWindow v.windows w).takes die va bytes) } := by
  obtain ⟨u, rfl⟩ : ∃ u : State, v = { u with pends := [] } := ⟨v, by rw [← alone]⟩
  rfl

/-- R222: where nothing is under way, a write comes after nothing. -/
theorem State.earlier_alone {v : State} (msgs : v.msgs = []) (pends : v.pends = []) (homeOps : v.homeOps = []) (pas : List Nat) : v.earlier pas = [] := by
  rw [State.earlier, State.behind, State.missers, State.elemReads, msgs, pends, homeOps]
  rfl

theorem stageLane_alone {v : State} (msgs : v.msgs = []) (pends : v.pends = []) (homeOps : v.homeOps = []) (f : FmtM) (n pend c : Nat) (x : Acc) :
    stageLane f n pend (v, c) x = ({ v with windows := tblPut v.windows (windowOf v.curCtx x.entry) ((tblGet noWindow v.windows (windowOf v.curCtx x.entry)).takes
      (Config.dieOfCore v.cur.core) x.ea (v.dataBytes f.data.toNat n x.lane)) }, c) := by
  unfold stageLane
  dsimp only
  rw [State.earlier_alone msgs pends homeOps, State.stage, State.stageAt_alone pends]
  rfl

/-- The byte at a place of the staged bytes of a window. -/
def stagedByte (a : State × Nat) (k p : Nat) : Option Byte := (tblFind a.1.windows k).bind (fun z => tblFind z.staged p)

/-- An access of a store writes a place of the staged bytes of a window. -/
def Acc.stages (x : Acc) (s : State) (f : FmtM) (k : Nat) (w : Window) (p : Nat) : Prop :=
  windowOf s.curCtx x.entry = k ∧ Config.dieOfCore s.cur.core * 2 ^ 26 + (x.ea - w.va) ≤ p ∧ p < Config.dieOfCore s.cur.core * 2 ^ 26 + (x.ea - w.va) + width f

/-- What has been staged by lanes of a store of s from u. -/
structure Staging (s u : State) (a : State × Nat) : Prop where
  count : a.2 = 0
  state : a.1 = { u with windows := a.1.windows }

section Stage

variable {s : State} {h : Hdr} {f : FmtM} {l : List Acc} (a : GlobalAccs s h f l) {u : State} (issue : Issuing s u) (ctx : u.curCtx = s.curCtx)
  (msgs : u.msgs = []) (pends : u.pends = []) (homeOps : u.homeOps = [])
include issue ctx msgs pends homeOps

/-- R220, R379: one lane of a store is staged. -/
theorem Staging.lane {v : State × Nat} (st : Staging s u v) (id : Nat) (x : Acc) : Staging s u (stageLane f (width f) id v x) ∧
    (stageLane f (width f) id v x).1.windows = tblPut v.1.windows (windowOf s.curCtx x.entry) ((tblGet noWindow v.1.windows (windowOf s.curCtx x.entry)).takes
      (Config.dieOfCore s.cur.core) x.ea (s.dataBytes f.data.toNat (width f) x.lane)) := by
  obtain ⟨v, c⟩ := v
  obtain ⟨count, state⟩ := st
  have count : c = 0 := count
  have state : v = { u with windows := v.windows } := state
  have run := stageLane_alone (v := v) (by rw [state]; exact msgs) (by rw [state]; exact pends) (by rw [state]; exact homeOps) f (width f) id c x
  have cur : v.cur = s.cur := by
    rw [state]
    exact issue.cur
  have ctx' : v.curCtx = s.curCtx := by
    rw [state]
    exact ctx
  have bytes : v.dataBytes f.data.toNat (width f) x.lane = s.dataBytes f.data.toNat (width f) x.lane := by
    rw [state]
    exact issue.dataBytes _ _ _
  generalize at' : tblPut v.windows _ _ = z at run
  rw [cur, ctx', bytes] at at'
  rw [run]
  exact ⟨⟨count, congrArg (fun t : State => { t with windows := z }) state⟩, at'.symm⟩

theorem Staging.lanes (id : Nat) (m : List Acc) : Staging s u (m.foldl (fun a x => stageLane f (width f) id a x) (u, 0)) := by
  refine List.foldlRecOn (motive := Staging s u) m _ ⟨rfl, rfl⟩ fun v st x _ => ?_
  exact (st.lane issue ctx msgs pends homeOps id x).1

include a

/-- R220, R379: the bytes of the highest lane that writes their address are staged for its window. -/
theorem Staging.byte (id : Nat) {k : Nat} {w : Window} (found : tblFind u.windows k = some w) (within : ∀ x ∈ l, windowOf s.curCtx x.entry = k → w.va ≤ x.ea) (window : ∀ x ∈ l, leafWindow x.entry = true)
    {x : Acc} (hx : x ∈ l) (here : windowOf s.curCtx x.entry = k) (last : ∀ y ∈ l, y.ea = x.ea → y.lane ≤ x.lane) {j : Nat} (less : j < width f) :
    ∃ z, tblFind ((winners l).foldl (fun a x => stageLane f (width f) id a x) (u, 0)).1.windows k = some z ∧
      tblFind z.staged (Config.dieOfCore s.cur.core * 2 ^ 26 + (x.ea - w.va) + j) = some (dataByte s f x.lane j) := by
  have meets (y z : Acc) (hy : y ∈ l) (hz : z ∈ l) : y.meets z = true ↔ y.ea = z.ea := by simp [Acc.meets, window y hy, window z hz]
  have wins : x ∈ winners l := by
    refine List.mem_filter.2 ⟨hx, ?_⟩
    rw [Bool.not_eq_true', List.any_eq_false]
    intro y hy beats
    rw [Bool.and_eq_true, decide_eq_true_eq, meets x y hx hy] at beats
    have := last y hy beats.2.symm
    omega
  obtain ⟨before, after, cut⟩ := List.append_of_mem wins
  generalize place : Config.dieOfCore s.cur.core * 2 ^ 26 + (x.ea - w.va) + j = p
  have above : ∀ y ∈ after, x.lane < y.lane := by
    have order := a.order.sublist (List.filter_sublist (l := l) (p := fun x => !l.any (fun y => y.lane > x.lane && x.meets y)))
    rw [show l.filter _ = before ++ x :: after from cut] at order
    exact (List.pairwise_cons.1 (List.pairwise_append.1 order).2.1).1
  have others : ∀ y ∈ after, ¬ y.stages s f k w p := by
    rintro y hy ⟨there, low, high⟩
    have hy' : y ∈ winners l := by
      rw [cut]
      exact List.mem_append_right _ (List.mem_cons_of_mem _ hy)
    obtain ⟨hy', -⟩ := List.mem_filter.1 hy'
    have base := within x hx here
    have base' := within y hy' there
    have same : x.ea = y.ea := aligned_meets (a.ea x hx) (a.ea y hy') (j := p - (Config.dieOfCore s.cur.core * 2 ^ 26 + (y.ea - w.va))) (by omega) (by omega) (by omega)
    have := above y hy
    have := last y hy' same.symm
    omega
  have steps (v : State × Nat) (hv : Staging s u v ∧ (tblFind v.1.windows k).map Window.va = some w.va) (y : Acc) (hy : y ∈ winners l) :
      (Staging s u (stageLane f (width f) id v y) ∧ (tblFind (stageLane f (width f) id v y).1.windows k).map Window.va = some w.va) ∧
      (¬ y.stages s f k w p →
        stagedByte (stageLane f (width f) id v y) k p = stagedByte v k p) ∧
      (y.stages s f k w p →
        stagedByte (stageLane f (width f) id v y) k p = some (dataByte s f y.lane (p - (Config.dieOfCore s.cur.core * 2 ^ 26 + (y.ea - w.va))))) := by
    obtain ⟨st, va⟩ := hv
    obtain ⟨st', windows⟩ := st.lane issue ctx msgs pends homeOps (f := f) id y
    obtain ⟨z, hz, at'⟩ := Option.map_eq_some_iff.1 va
    have length : (s.dataBytes f.data.toNat (width f) y.lane).length = width f := leBytes_length _ _
    rw [stagedByte, stagedByte, windows]
    by_cases there : windowOf s.curCtx y.entry = k
    · rw [there, tblFind_tblPut_self, tblGet, hz, Option.getD_some, Option.map_some, Option.bind_some, Option.bind_some, Window.takes, at', tblFind_placedAll, length]
      refine ⟨⟨st', rfl⟩, fun out => if_neg fun inside => out ⟨there, inside⟩, fun ⟨_, inside⟩ => ?_⟩
      rw [if_pos inside, s.dataBytes_byte f _ _ (by omega)]
    · rw [tblFind_tblPut_other _ _ (Ne.symm there)]
      exact ⟨⟨st', va⟩, fun _ => rfl, fun ⟨e, _⟩ => absurd e there⟩
  have written := foldl_last (view := fun v => stagedByte v k p) (hit := fun y => y.stages s f k w p) (val := fun y => some (dataByte s f y.lane (p - (Config.dieOfCore s.cur.core * 2 ^ 26 + (y.ea - w.va)))))
    (I := fun v => Staging s u v ∧ (tblFind v.1.windows k).map Window.va = some w.va) steps cut ⟨here, by omega, by omega⟩ others (u, 0) ⟨⟨rfl, rfl⟩, by rw [found]; rfl⟩
  obtain ⟨z, hz, byte⟩ := Option.bind_eq_some_iff.1 written
  refine ⟨z, hz, ?_⟩
  rw [byte, ← place, Nat.add_sub_cancel_left]

end Stage

/-- R142: a store all of whose writes are staged leaves the tokens as they stand. -/
theorem State.storeEnds_staged {s : State} (first : First s) (h : Hdr) (id : Nat) (p : Nat → Pend) {r : State × Nat} (st : Staging s (s.takeToken h).tickFresh r) :
    Passed s (State.storeEnds h id p r) h ∧ TokensKept s (State.storeEnds h id p r) ∧ (State.storeEnds h id p r).msgs = s.msgs ∧ (State.storeEnds h id p r).windows = r.1.windows := by
  obtain ⟨count, state⟩ := st
  have groups : r.1.groups = (s.takeToken h).groups := by rw [state]; rfl
  have issue : Issuing s r.1 := by
    rw [state]
    exact (Issuing.takeToken s h).trans (.of_beside (.of_wgs rfl rfl rfl rfl rfl))
  obtain ⟨passed, msgs, -⟩ := State.storeEnds_passes first h id p issue
  have taken := s.takeToken_groups h
  have present := first.2.2.2.2.2
  have run : State.storeEnds h id p r = (r.1.dropToken h).retireSeq h := if_pos count
  have retired : Retired (r.1.dropToken h) ((r.1.dropToken h).retireSeq h) := Retired.retireSeq _ h (by rw [(Issuing.dropToken r.1 h).cur, issue.cur]; exact first.1)
  refine ⟨passed, fun k => ?_, ?_, ?_⟩
  · have up := s.takeToken_token h first.1 present k
    have group : r.1.group s.cur.core s.cur.slot = (s.takeToken h).group s.cur.core s.cur.slot := by rw [State.group, State.group, groups]
    have there : r.1.hasGroup s.cur.core s.cur.slot = true := by
      rw [issue.keeps.present]
      exact present
    have down := r.1.tokDown_token there h.tok.toNat k
    rw [run, retired.token, State.dropToken, issue.cur, down, group, up]
    exact Nat.add_sub_cancel _ _
  · rw [msgs, state, taken]
    rfl
  · rw [run, retired.state, r.1.dropToken_groups h]

/-! ### The operations of atomics (R224) -/

section Atomics

variable {s : State} {h : Hdr} {f : FmtM} {v : BitVec 5} {l : List Acc}

/-- The bytes that a lane of an atomic takes. -/
def atomWidth (v : BitVec 5) (f : FmtM) : Nat := if v = 7 then 2 * width f else width f

/-- R224: the operand and the swap value of a lane. -/
theorem State.atomArgs_eq (s : State) (v : BitVec 5) (f : FmtM) (k : Nat) : s.atomArgs (v.toNat = 7) f k =
    (BitVec.ofNat 64 (dataNum s f k 0 (width f)), if v = 7 then BitVec.ofNat 64 (dataNum s f k (width f) (width f)) else 0) := by
  have list (n : Nat) : s.dataBytes f.data.toNat n k = (List.range n).map (fun j => dataByte s f k j) := by
    refine List.ext_getElem (by rw [State.dataBytes, leBytes_length, List.length_map, List.length_range]) fun i h1 h2 => ?_
    have less : i < n := by rwa [List.length_map, List.length_range] at h2
    have byte := s.dataBytes_byte f n k less
    rw [List.getD_eq_getElem?_getD, List.getElem?_eq_getElem h1, Option.getD_some] at byte
    rw [byte, List.getElem_map, List.getElem_range]
  have seven : (v.toNat = 7) ↔ v = 7 := ⟨fun e => BitVec.eq_of_toNat_eq e, fun e => by rw [e]; rfl⟩
  unfold State.atomArgs dataNum
  dsimp only
  rw [show sizeBytes f = width f from rfl, list]
  by_cases cas : v = 7
  · rw [if_pos cas, if_pos (decide_eq_true (seven.2 cas)), ← List.map_take, ← List.map_drop, List.take_range, Nat.min_eq_left (by omega)]
    congr 3
    · simp
    · rw [Nat.two_mul, List.range_add, List.drop_left' (by simp), List.map_map]
      rfl
  · rw [if_neg cas, if_neg (by simpa using fun e => cas (seven.1 e)), List.take_of_length_le (by simp), List.drop_of_length_le (by simp)]
    simp [leNat]

end Atomics

/-- What sends writes and empties words of L1s. -/
def SendsNear (s t : State) : Prop := t = { s with dies := t.dies, msgs := t.msgs, agenda := t.agenda, timers := t.timers, fresh := t.fresh, cores := t.cores }

namespace SendsNear

theorem trans {s t u : State} (h : SendsNear s t) (k : SendsNear t u) : SendsNear s u := by
  unfold SendsNear at *
  rw [k, h]

theorem of_sends {s t : State} (h : Sends s t) : SendsNear s t := by
  unfold Sends at h
  unfold SendsNear
  rw [h]

theorem dropL1 (s : State) (core frame : Nat) (mask : BitVec 64) (pred : Block → Bool) : SendsNear s (s.dropL1 core frame mask pred) := by
  unfold State.dropL1
  dsimp only
  split <;> rfl

theorem isProxy {s t : State} (h : SendsNear s t) (l r : Nat) : t.isProxy l r = s.isProxy l r := by
  rw [h]
  rfl

theorem beside {s t : State} (h : SendsNear s t) : Beside s t := .of_wgs (by rw [h]) (by rw [h]) (by rw [h]) (by rw [h]) (by rw [h])

end SendsNear

/-- A source that is a register holds a proxy where the register does. -/
theorem State.srcProxy_reg (s : State) (l r : Nat) : s.srcProxy l (.reg r) = s.isProxy l r := by
  unfold State.srcProxy Src.regs
  dsimp only
  split
  · simp
  next out =>
    have : decide (r < 0x1FD) = false := by simpa using out
    rw [State.isProxy, this]
    rfl

/-- R281: no lane of a ready store or atomic of a word holds a proxy in its data. -/
theorem data_plain {s : State} {h : Hdr} {f : FmtM} {a : Src} {n : Nat} (plain : ∀ l ∈ lanesOf (s.active h), ∀ x ∈ a :: dataRegs f n, s.srcProxy l x = false) (word : n ≤ 4) {l : Nat}
    (active : l ∈ lanesOf (s.active h)) : s.isProxy l f.data.toNat = false := by
  rw [← s.srcProxy_reg]
  refine plain l active _ (List.mem_cons_of_mem _ ?_)
  rw [dataRegs, if_pos word]
  exact List.mem_cons_self

section Lanes

variable {s : State} {h : Hdr} {f : FmtM} {v : BitVec 5} {l : List Acc} {old : Bool}

/-- R224: a write carries the operation of a lane. -/
def Operates (s : State) (f : FmtM) (v : BitVec 5) (old : Bool) (id : Nat) (x : Acc) (m : Msg) : Prop := m.pa = x.pa ∧ m.pend = some id ∧
  m.kind = .atomic v.toNat f.mode.toNat (width f) (BitVec.ofNat 64 (dataNum s f x.lane 0 (width f)))
    (if v = 7 then BitVec.ofNat 64 (dataNum s f x.lane (width f) (width f)) else 0) x.lane (if old then some id else none)

/-- R224: one lane of an atomic whose operand is no proxy. -/
theorem atomLane_sends {u : State} (issue : Issuing s u) (id : Nat) (prev : List Nat) (x : Acc) (plain : (decide (v.toNat ≠ 7) && f.size == 2 && u.isProxy x.lane f.data.toNat) = false) :
    SendsNear u (State.atomLane v.toNat f old id (u, prev) x).1 ∧ MsgsKept u (State.atomLane v.toNat f old id (u, prev) x).1 ∧
    Sent' (State.atomLane v.toNat f old id (u, prev) x).1 (Operates s f v old id x) := by
  unfold State.atomLane
  dsimp only
  rw [plain]
  have args : u.atomArgs (v.toNat = 7) f x.lane = s.atomArgs (v.toNat = 7) f x.lane := by
    unfold State.atomArgs
    simp only [issue.dataBytes]
  rw [if_neg (by simp), if_neg (by simp), args, s.atomArgs_eq]
  generalize wordMask (frameOf x.pa) _ = mask
  have quiet := Quiet.dropL1 u u.cur.core (frameOf x.pa) mask (fun _ => true)
  refine ⟨(SendsNear.dropL1 u _ _ mask _).trans (.of_sends (.sendMsg _ _)), quiet.kept.trans (.sendMsg _ _), State.sendMsg_sends _ _ ⟨rfl, rfl, rfl⟩⟩

/-- R224: the lanes of an atomic, one after another. -/
theorem atomLanes_send {t u : State} (id : Nat) (issue : Issuing s t) (near : SendsNear t u) (prev : List Nat)
    (plain : ∀ x ∈ l, (decide (v.toNat ≠ 7) && f.size == 2 && t.isProxy x.lane f.data.toNat) = false) :
    SendsNear t (l.foldl (fun a x => State.atomLane v.toNat f old id a x) (u, prev)).1 ∧ MsgsKept u (l.foldl (fun a x => State.atomLane v.toNat f old id a x) (u, prev)).1 ∧
    ∀ x ∈ l, Sent' (l.foldl (fun a x => State.atomLane v.toNat f old id a x) (u, prev)).1 (Operates s f v old id x) := by
  induction l generalizing u prev with
  | nil => exact ⟨near, .refl u, fun x hx => nomatch hx⟩
  | cons x r ih =>
    obtain ⟨near', kept, sent⟩ := atomLane_sends (old := old) (issue.trans (.of_beside near.beside)) id prev x (by rw [near.isProxy]; exact plain x List.mem_cons_self)
    obtain ⟨nears, kepts, sents⟩ := ih (near.trans near') (State.atomLane v.toNat f old id (u, prev) x).2 fun y hy => plain y (List.mem_cons_of_mem _ hy)
    refine ⟨nears, kept.trans kepts, fun y hy => ?_⟩
    rcases List.mem_cons.1 hy with rfl | later
    · exact kepts.sent sent
    · exact sents y later

/-- The result under way of an atomic. -/
def atomPend (s : State) (h : Hdr) (f : FmtM) (old : Bool) (l : List Acc) : Pend :=
  { core := s.cur.core, slot := s.cur.slot, kind := 3, path := s.cur.path, lanes := s.cur.lanes, act := s.active h, pos := s.cur.pos, tok := h.tok.toNat, size := if old then width f else 0,
    dst := f.data.toNat, wait := l.length, eas := l.map (fun x => (x.lane, BitVec.ofNat 64 x.ea)), frames := (framesOf (l.map Acc.pa)).length }

/-- R224, R230: an atomic goes on with the operations of its lanes sent and its result waiting for them. -/
theorem atoms_pass (first : First s) (some' : s.active h ≠ 0) (a : GlobalAccs s h f l) (plain : ∀ x ∈ l, (decide (v.toNat ≠ 7) && f.size == 2 && s.isProxy x.lane f.data.toNat) = false) :
    Passed s (s.sentAtoms h v f old (s.active h) l) h ∧ TokenUp s (s.sentAtoms h v f old (s.active h) l) h ∧
    tblFind (s.sentAtoms h v f old (s.active h) l).pends s.fresh = some (atomPend s h f old l) ∧
    ∀ x ∈ l, ∃ q ∈ (s.sentAtoms h v f old (s.active h) l).msgs, Operates s f v old s.fresh x q.2 := by
  have busy : l.isEmpty = false := by
    rw [List.isEmpty_eq_false_iff]
    rintro rfl
    exact lanesOf_ne_nil some' a.lanesOf.symm
  have flushed : Sends (s.takeToken h) ((framesOf (l.map Acc.pa)).foldl (fun u fr => u.flushGather (Config.dieOfCore s.cur.core) fr) (s.takeToken h).tickFresh) :=
    Sends.trans (t := (s.takeToken h).tickFresh) rfl (.foldl (fun u fr => .flushGather u _ fr []) _ _)
  have proxies (x : Acc) (hx : x ∈ l) : (decide (v.toNat ≠ 7) && f.size == 2 && (s.takeToken h).isProxy x.lane f.data.toNat) = false := by
    have same := (s.takeToken_operands h).2.2.2.2.2.2.2.2.2.1
    rw [← State.srcProxy_reg, same, State.srcProxy_reg]
    exact plain x hx
  obtain ⟨near, -, sent⟩ := atomLanes_send (old := old) s.fresh (Issuing.takeToken s h) (.of_sends flushed) [] proxies
  have run : s.sentAtoms h v f old (s.active h) l = if l.isEmpty = true then ((l.foldl (fun a x => State.atomLane v.toNat f old s.fresh a x)
        ((framesOf (l.map Acc.pa)).foldl (fun u fr => u.flushGather (Config.dieOfCore s.cur.core) fr) (s.takeToken h).tickFresh, [])).1.dropToken h).retireSeq h
      else { (l.foldl (fun a x => State.atomLane v.toNat f old s.fresh a x)
        ((framesOf (l.map Acc.pa)).foldl (fun u fr => u.flushGather (Config.dieOfCore s.cur.core) fr) (s.takeToken h).tickFresh, [])).1 with
        pends := tblPut (l.foldl (fun a x => State.atomLane v.toNat f old s.fresh a x)
          ((framesOf (l.map Acc.pa)).foldl (fun u fr => u.flushGather (Config.dieOfCore s.cur.core) fr) (s.takeToken h).tickFresh, [])).1.pends s.fresh (atomPend s h f old l) }.retireSeq h := rfl
  generalize (l.foldl (fun a x => State.atomLane v.toNat f old s.fresh a x) _).1 = r at near sent run
  rw [run, if_neg (by rw [busy]; simp)]
  have beside : Beside r { r with pends := tblPut r.pends s.fresh (atomPend s h f old l) } := .of_wgs rfl rfl rfl rfl rfl
  obtain ⟨passed, up, retired⟩ := passes_beside first h (.refl s) (near.beside.trans beside)
  refine ⟨passed, up, ?_, fun x hx => ?_⟩
  · rw [retired.pends, tblFind_tblPut_self]
  · obtain ⟨k, m, -, found, is⟩ := sent x hx
    rw [retired.state]
    exact ⟨(k, m), mem_of_tblFind found, is⟩

end Lanes

end Sys2Proof.Machine
end

section
namespace Sys2Proof.Proofs.Accesses

open Sys2Proof.Machine Sys2Proof.Claims

section

variable {s : State} {h : Hdr} {f : FmtM} {l : List Acc}

theorem dataSrcs_eq (f : FmtM) (n : Nat) : dataSrcs f.data.toNat n = dataRegs f n := rfl

/-- R281: no lane of a ready store keeps its data at a home. -/
theorem store_plain (a : GlobalAccs s h f l) (ready : Ready s (s.active h) (.pair f.addr.toNat :: dataRegs f (width f)) [] []) (x : Acc) (hx : x ∈ l) : (f.size == 2 && s.isProxy x.lane f.data.toNat) = false := by
  obtain ⟨-, -, -, -, plain, -, -⟩ := ready
  by_cases word : f.size = 2
  · rw [data_plain plain (by rw [width, word]; decide) (a.active hx), Bool.and_false]
  · rw [beq_false_of_ne word, Bool.false_and]

/-- R217: a ready store whose accesses pass acts on them. -/
theorem store_runs (ready : Ready s (s.active h) (.pair f.addr.toNat :: dataRegs f (width f)) [] []) (ok : s.checkG .store (width f) (width f) (addrs s h f) = .ok l) (i : Instr) (stay : State → Nat → Bool)
    (k : State → BitVec 32 → List Acc → State) : s.memOp h i (addrSrc f) (dataSrcs f.data.toNat (sizeBytes f)) [] [] stay
      (fun s act => s.checkG .store (sizeBytes f) (sizeBytes f) (s.eas f act)) k = k s (s.active h) l := by
  rw [State.memOp_ready (by exact ready), eas_eq, show sizeBytes f = width f from rfl, ok]

/-- R220, R379: a store of which every lane is staged. -/
theorem store_stages (first : First s) (a : GlobalAccs s h f l) (ready : Ready s (s.active h) (.pair f.addr.toNat :: dataRegs f (width f)) [] []) (window : ∀ x ∈ l, leafWindow x.entry = true)
    (msgs : s.msgs = []) (pends : s.pends = []) (homeOps : s.homeOps = []) :
    s.storeG h f (width f) {} (s.active h) l (f.size == 2) = State.storeEnds h s.fresh (storePend s h (s.active h) l) ((winners l).foldl (fun a x => stageLane f (width f) s.fresh a x) ((s.takeToken h).tickFresh, 0)) ∧
    Issuing s (s.takeToken h).tickFresh ∧ (s.takeToken h).tickFresh.curCtx = s.curCtx ∧ (s.takeToken h).tickFresh.msgs = [] ∧ (s.takeToken h).tickFresh.pends = [] ∧ (s.takeToken h).tickFresh.homeOps = [] ∧
    (s.takeToken h).tickFresh.windows = s.windows := by
  have all : Machine.inWindow (winners l) = winners l ∧ inDevice (winners l) = [] :=
    ⟨List.filter_eq_self.2 fun x hx => window x (List.mem_filter.1 hx).1, List.filter_eq_nil_iff.2 fun x hx => by rw [window x (List.mem_filter.1 hx).1]; simp⟩
  have frame := s.takeToken_groups h
  refine ⟨?_, (Issuing.takeToken s h).trans (.of_beside (.of_wgs rfl rfl rfl rfl rfl)), (s.takeToken_operands h).2.2.1, ?_, ?_, ?_, ?_⟩
  · rw [State.storeG_eq _ _ _ _ _ _ _ _ (store_plain a ready), all.1, all.2]
    rfl
  · rw [frame]
    exact msgs
  · rw [frame]
    exact pends
  · rw [frame]
    exact homeOps
  · rw [frame]
    rfl

theorem storesIssue : StoresIssue := by
  intro s h f l n ⟨first, ready⟩ ok
  have a := State.checkG_accs ok
  refine ⟨fun windows msgs pends homeOps => ?_, fun device => ⟨?_, ?_⟩⟩
  · have window (x : Acc) (hx : x ∈ l) := (windows x hx).1
    obtain ⟨run, issue, ctx, msgs', pends', homeOps', same⟩ := store_stages first a ready window msgs pends homeOps
    have st := Staging.lanes issue ctx msgs' pends' homeOps' (f := f) s.fresh (winners l)
    obtain ⟨passed, kept, none', staged⟩ := State.storeEnds_staged first h s.fresh (storePend s h (s.active h) l) st
    refine ⟨s.storeG h f (width f) {} (s.active h) l (f.size == 2), congrArg Host.Outcome.next (store_runs ready ok (.st h f) _ _), ?_⟩
    rw [run]
    refine ⟨passed, kept, none'.trans msgs, fun x hx last j less w found => ?_⟩
    have place (y : Acc) : windowOf s.curCtx y.entry = s.curCtx * 64 + y.entry / 256 % 64 := rfl
    rw [staged, ← place]
    rw [← place] at found
    refine Staging.byte a issue ctx msgs' pends' homeOps' s.fresh (by rw [same]; exact found) (fun y hy there => (windows y hy).2 w ?_) window hx rfl last less
    rw [← place, there]
    exact found
  · obtain ⟨passed, carried⟩ := State.storeG_carries first a device {} (f.size == 2) (store_plain a ready)
    exact ⟨_, congrArg Host.Outcome.next (store_runs ready ok (.st h f) _ _), passed, fun x last => (carried x last).1⟩
  · obtain ⟨passed, carried⟩ := State.storeG_carries first a device { after := s.accessesOf (s.active h) false, release := true, scope := f.scope.toNat, overhead := overheadOf f.scope.toNat } false fun _ _ => rfl
    refine ⟨_, congrArg Host.Outcome.next ((store_runs ready ok (.stRel h f) _ _).trans (if_pos ?_)), passed, fun x last j less => ?_⟩
    · rw [Bool.not_eq_true', List.any_eq_false]
      intro x hx
      rw [device x hx]
      simp
    · obtain ⟨m, hm, ordered, bytes⟩ := (carried x last).2 rfl
      exact ⟨m, hm, bytes j less, ordered.overhead, ordered.widen, ordered.scope, ordered.after⟩

/-- R281: no lane of a ready atomic keeps its operand at a home. -/
theorem atom_plain {v : BitVec 5} (a : GlobalAccs s h f l) {dsts : List Nat} (ready : Ready s (s.active h) (.pair f.addr.toNat :: dataRegs f (if v = 7 then 2 * width f else width f)) dsts []) (x : Acc) (hx : x ∈ l) :
    (decide (v.toNat ≠ 7) && f.size == 2 && s.isProxy x.lane f.data.toNat) = false := by
  obtain ⟨-, -, -, -, plain, -, -⟩ := ready
  by_cases cas : v = 7
  · rw [cas]
    rfl
  · by_cases word : f.size = 2
    · rw [data_plain plain (by rw [if_neg cas, width, word]; decide) (a.active hx), Bool.and_false]
    · rw [beq_false_of_ne word, Bool.and_false, Bool.false_and]

/-- R217: a ready atomic whose accesses pass sends its operations. -/
theorem atom_runs (v : BitVec 5) (old : Bool) (i : Instr)
    (ready : Ready s (s.active h) (.pair f.addr.toNat :: dataRegs f (if v = 7 then 2 * width f else width f)) (if old then destRegs f (width f) else []) [])
    (ok : s.checkG (if old then .atomic else .reduce) (width f) (width f) (addrs s h f) = .ok l) : s.atomOp h i v f old = s.sentAtoms h v f old (s.active h) l := by
  have seven : (v.toNat = 7) = (v = 7) := propext ⟨fun e => BitVec.eq_of_toNat_eq e, fun e => by rw [e]; rfl⟩
  have width' : sizeBytes f = width f := rfl
  rw [State.atomOp_eq, width', loadRegs_eq, dataSrcs_eq]
  simp only [seven]
  rw [State.memOp_ready (by exact ready), eas_eq, ok]

theorem atomicsIssue : AtomicsIssue := by
  intro s h v f l first some' n m sent
  refine ⟨fun ready ok => ?_, fun ready ok => ?_⟩
  · have a := State.checkG_accs ok
    obtain ⟨passed, up, found, sends⟩ := atoms_pass (old := true) first some' a (atom_plain a ready)
    refine ⟨_, _, congrArg Host.Outcome.next (atom_runs v true _ ready ok), passed, up, ⟨found, rfl, rfl, rfl, rfl, rfl, rfl, rfl, rfl, fun _ => rfl⟩, rfl, rfl, rfl, rfl, sends⟩
  · have a := State.checkG_accs ok
    obtain ⟨passed, up, found, sends⟩ := atoms_pass (old := false) first some' a (atom_plain a ready)
    refine ⟨_, _, congrArg Host.Outcome.next (atom_runs v false _ ready ok), passed, up, ⟨found, rfl, rfl, rfl, rfl, rfl, rfl, rfl, rfl, fun _ => rfl⟩, rfl, rfl, rfl, rfl, sends⟩

end

/-- Settles O15: what a load misses it waits for; a store's bytes go to writes, gather entries or windows frame by frame and lane by lane; an atomic sends one operation a lane. -/
theorem globalAccesses : Obligations.GlobalAccesses := by
  unfold Obligations.GlobalAccesses
  exact ⟨Loads.loadsIssue, storesIssue, atomicsIssue⟩

end Sys2Proof.Proofs.Accesses
end

section
/-! SUPPORT. The copy engine of a core: assembly, starts, and the elements that a running copy moves (R298-R303, R307, R310). -/

namespace Sys2Proof.Machine

open Sys2Proof.Claims

/-! ### Copies in the order of assembly or of start -/

theorem mem_insertRank {p q : Nat × Nat × Nat} {l : List (Nat × Nat × Nat)} : p ∈ insertRank q l ↔ p = q ∨ p ∈ l := by
  induction l with
  | nil => simp [insertRank]
  | cons a r ih =>
    rw [insertRank]
    split
    · exact List.mem_cons
    · rw [List.mem_cons, ih, List.mem_cons]
      exact or_left_comm

/-- The copies of a core in a state, whatever their order. -/
theorem State.mem_copiesInOrder {s : State} {core st : Nat} {p : Nat × Nat} : p ∈ s.copiesInOrder core st ↔ ∃ y ∈ s.copiesOn core, y.2.2.st = st ∧ (y.1, y.2.1) = p := by
  have member (m acc : List (Nat × Nat × Nat)) (q : Nat × Nat × Nat) : q ∈ m.foldl (fun l p => insertRank p l) acc ↔ q ∈ m ∨ q ∈ acc := by
    induction m generalizing acc with
    | nil => simp
    | cons a r ih =>
      rw [List.foldl_cons, ih, mem_insertRank, List.mem_cons]
      exact ⟨fun h => h.elim (fun h => .inl (.inr h)) fun h => h.elim (fun h => .inl (.inl h)) .inr, fun h => h.elim (fun h => h.elim (fun h => .inr (.inl h)) .inl) fun h => .inr (.inr h)⟩
  unfold State.copiesInOrder
  constructor
  · intro hp
    obtain ⟨q, hq, rfl⟩ := List.mem_map.1 hp
    obtain ⟨y, hy, rfl⟩ := List.mem_map.1 (((member _ [] q).1 hq).resolve_right List.not_mem_nil)
    obtain ⟨hy, is⟩ := List.mem_filter.1 hy
    exact ⟨y, hy, by simpa using is, rfl⟩
  · rintro ⟨y, hy, is, rfl⟩
    exact List.mem_map.2 ⟨_, (member _ [] _).2 (.inl (List.mem_map.2 ⟨y, List.mem_filter.2 ⟨hy, by simpa using is⟩, rfl⟩)), rfl⟩

/-- A copy slot in use is one of its core. -/
theorem State.copySlot_on {s : State} {w k : Nat} (used : (s.copySlot w k).st ≠ 0) : (w, k, s.copySlot w k) ∈ s.copiesOn (s.wg w).core := by
  cases inner : tblFind (s.wg w).copies k with
  | none =>
    refine absurd ?_ used
    rw [State.copySlot, tblGet, inner]
    rfl
  | some c =>
    have slot : s.copySlot w k = c := by rw [State.copySlot, tblGet, inner, Option.getD_some]
    cases outer : tblFind s.wgs w with
    | none =>
      rw [State.wg, tblGet, outer] at inner
      cases inner
    | some g =>
      have wg : s.wg w = g := by rw [State.wg, tblGet, outer, Option.getD_some]
      rw [wg] at inner ⊢
      rw [slot]
      exact List.mem_flatten.2 ⟨_, List.mem_map.2 ⟨(w, g), List.mem_filter.2 ⟨mem_of_tblFind outer, by simp⟩, rfl⟩, List.mem_map.2 ⟨(k, c), mem_of_tblFind inner, rfl⟩⟩

/-! ### A copy that starts (R303) -/

/-- The entry of a copy that writes scratchpad. -/
def CopySlot.lock (c : CopySlot) (w k : Nat) : Lock := ⟨w, k, true, c.value, (layoutOf c.layout).footprint⟩

/-- The entry of the elements that a copy reads. -/
def CopySlot.sourceLocks (c : CopySlot) (w k : Nat) : List Lock := match c.span with | some (b, n) => [⟨w, k, false, b, n⟩] | none => []

/-- A core with the entries of a copy to scratchpad. -/
def Core.locked (x : Core) (c : CopySlot) (w k : Nat) : Core := { x with locks := x.locks ++ [c.lock w k] ++ c.sourceLocks w k }

theorem State.copyDelay_slot (s : State) (w k : Nat) : ∃ n, (s.copyDelay w k).copySlot w k = { s.copySlot w k with ready := n } :=
  ⟨(s.core (s.wg w).core).cycles + 1 + Config.latency s.fresh, s.modCopy_self w k (fun c => { c with ready := (s.core (s.wg w).core).cycles + 1 + Config.latency s.fresh })⟩

/-- R303: a copy to scratchpad starts with its entries written. -/
theorem State.beginCopy_starts (s : State) (w k : Nat) (kind : (s.copySlot w k).kind = 0) (live : (s.copySlot w k).live ≠ []) :
    ((s.beginCopy w k).copySlot w k).st = 3 ∧ ((s.beginCopy w k).copySlot w k).taken = true ∧ ((s.beginCopy w k).copySlot w k).dest = (s.copySlot w k).value ∧
    (s.copySlot w k).lock w k ∈ ((s.beginCopy w k).core (s.wg w).core).locks ∧
    ∀ b n, (s.copySlot w k).span = some (b, n) → ⟨w, k, false, b, n⟩ ∈ ((s.beginCopy w k).core (s.wg w).core).locks := by
  have some' : (s.copySlot w k).live.isEmpty = false := List.isEmpty_eq_false_iff.2 live
  have run : ∃ v : State, (s.beginCopy w k = v ∨ s.beginCopy w k = v.later (.copyComplete w k)) ∧
      v = ((((s.modCore (s.wg w).core (fun x => x.locked (s.copySlot w k) w k)).modCopy w k
        (fun c => { c with st := 3, order := s.fresh, taken := c.kind ≠ 1, dest := if c.kind = 0 then c.value else 0, done := 0 }))).copyDelay w k) := by
    refine ⟨_, ?_, rfl⟩
    unfold State.beginCopy
    dsimp only
    rw [kind, some']
    by_cases none' : (s.copySlot w k).items.isEmpty = true
    · right
      rw [none']
      rfl
    · left
      rw [Bool.eq_false_iff.2 none']
      rfl
  obtain ⟨v, cases, is⟩ := run
  have copy : v.copySlot w k = { s.copySlot w k with st := 3, order := s.fresh, taken := true, dest := (s.copySlot w k).value, done := 0, ready := (v.copySlot w k).ready } := by
    rw [is, State.copyDelay]
    rw [show ∀ u : State, u.tickFresh.copySlot w k = u.copySlot w k from fun _ => rfl, State.modCopy_self, State.modCopy_self]
    rw [show ∀ (u : State) c f, (u.modCore c f).copySlot w k = u.copySlot w k from fun _ _ _ => rfl, kind]
    rfl
  have locks : (v.core (s.wg w).core).locks = (s.core (s.wg w).core).locks ++ [(s.copySlot w k).lock w k] ++ (s.copySlot w k).sourceLocks w k := by
    rw [is]
    exact congrArg Core.locks (s.modCore_self (s.wg w).core (fun x => x.locked (s.copySlot w k) w k))
  have result : ((s.beginCopy w k).copySlot w k) = v.copySlot w k ∧ ((s.beginCopy w k).core (s.wg w).core).locks = (v.core (s.wg w).core).locks := by
    rcases cases with e | e <;> rw [e] <;> exact ⟨rfl, rfl⟩
  rw [result.1, result.2, locks, copy]
  refine ⟨rfl, rfl, rfl, List.mem_append_left _ (List.mem_append_right _ List.mem_cons_self), fun b n span => List.mem_append_right _ ?_⟩
  rw [CopySlot.sourceLocks, span]
  exact List.mem_cons_self

/-- A copy that runs does not start again. -/
theorem State.mayStart_running {s : State} {w k : Nat} (st : (s.copySlot w k).st = 3) : s.mayStart w k = false := by
  have : s.served w k = false := by simp [State.served, st]
  simp [State.mayStart, this]

/-- R303: where one copy alone is queued on a core and may start, it does. -/
theorem State.serveCopies_one {s : State} {w k : Nat} (queued : (s.copySlot w k).st = 2) (alone : ∀ y ∈ s.copiesOn (s.wg w).core, y.2.2.st = 2 → y.1 = w ∧ y.2.1 = k)
    (may : s.mayStart w k = true) (begun : ((s.beginCopy w k).copySlot w k).st = 3) : s.serveCopies (s.wg w).core = s.beginCopy w k := by
  have there : (w, k) ∈ s.copiesInOrder (s.wg w).core 2 := State.mem_copiesInOrder.2 ⟨_, State.copySlot_on (by rw [queued]; decide), queued, rfl⟩
  have all : ∀ p ∈ s.copiesInOrder (s.wg w).core 2, p = (w, k) := by
    intro p hp
    obtain ⟨y, hy, st, rfl⟩ := State.mem_copiesInOrder.1 hp
    obtain ⟨rfl, rfl⟩ := alone y hy st
    rfl
  have after (l : List (Nat × Nat)) (same : ∀ p ∈ l, p = (w, k)) : l.foldl (fun s p => if s.mayStart p.1 p.2 then s.beginCopy p.1 p.2 else s) (s.beginCopy w k) = s.beginCopy w k := by
    induction l with
    | nil => rfl
    | cons p r ih =>
      obtain rfl := same p List.mem_cons_self
      rw [List.foldl_cons, if_neg (by rw [State.mayStart_running begun]; simp)]
      exact ih fun q hq => same q (List.mem_cons_of_mem _ hq)
  unfold State.serveCopies
  generalize s.copiesInOrder (s.wg w).core 2 = l at there all ⊢
  cases l with
  | nil => cases there
  | cons p r =>
    obtain rfl := all p List.mem_cons_self
    rw [List.foldl_cons, if_pos may]
    exact after r fun q hq => all q (List.mem_cons_of_mem _ hq)

/-! ### What keeps the copy slots -/

/-- The copy slots of every workgroup stand as before. -/
def CopiesKept (s t : State) : Prop := ∀ w, (t.wg w).copies = (s.wg w).copies

theorem State.putSp_wgs (s : State) (w : Nat) (l : List (Nat × Byte)) : (s.putSp w l).wgs = ((s.noteFirst w (l.map (fun b => (2, b.1 / 256, 0)))).modWg w (fun y => { y with sp := tabSetAll y.sp l })).wgs := rfl

namespace CopiesKept

theorem refl (s : State) : CopiesKept s s := fun _ => rfl

theorem trans {s t u : State} (h : CopiesKept s t) (k : CopiesKept t u) : CopiesKept s u := fun w => (k w).trans (h w)

theorem of_wgs {s t : State} (wgs : t.wgs = s.wgs) : CopiesKept s t := fun w => by rw [State.wg, State.wg, wgs]

theorem modWg (s : State) (v : Nat) (f : Workgroup → Workgroup) (hf : ∀ x, (f x).copies = x.copies := by intro _; rfl) : CopiesKept s (s.modWg v f) := by
  intro w
  by_cases e : w = v
  · subst e
    rw [s.modWg_self, hf]
  · rw [s.modWg_other f e]

theorem noteFirst (s : State) (w : Nat) (l : List (Nat × Nat × Nat)) : CopiesKept s (s.noteFirst w l) := by
  unfold State.noteFirst
  split
  · exact modWg s w _
  · exact refl s

theorem noteLoads (s : State) (w : Nat) (l : List Long) : CopiesKept s (s.noteLoads w l) := by
  unfold State.noteLoads
  split
  · exact refl s
  · exact modWg s w _

theorem putSp (s : State) (w : Nat) (l : List (Nat × Byte)) : CopiesKept s (s.putSp w l) :=
  ((noteFirst s w _).trans (modWg _ w _)).trans (of_wgs (s.putSp_wgs w l))

theorem putOpm (s : State) (core n : Nat) (l : List (Nat × Byte)) : CopiesKept s (s.putOpm core n l) :=
  (noteFirst s _ _).trans (of_wgs rfl)

theorem engineBad (s : State) (w : Nat) (b : Bad) : CopiesKept s (s.engineBad w b) := by
  have frame := HaltFrame.haltWg (s.machineCheck b.unit 3 b.index b.loc (s.ctxOfWg w)) w none
  exact (of_wgs rfl : CopiesKept s (s.machineCheck b.unit 3 b.index b.loc (s.ctxOfWg w))).trans fun v => by rw [State.engineBad, State.asyncFault, (frame _).wg v]

end CopiesKept

theorem CopiesKept.copySlot {s t : State} (h : CopiesKept s t) (w k : Nat) : t.copySlot w k = s.copySlot w k := by
  rw [State.copySlot, State.copySlot, h]

/-! ### The element that a copy moves (R300, R302) -/

/-- The origin of a copy. -/
def CopySlot.origin (c : CopySlot) : List Word := match c.live with | a :: _ => a.org | [] => []

/-- The bytes of an element as its source stands, and the uncorrectable codeword among them. -/
def State.elemRead (s : State) (w k : Nat) (x : Nat × Nat) : List Byte × Option Bad :=
  match (layoutOf (s.copySlot w k).layout).elemVA (s.copySlot w k).origin x.1 x.2 with
  | some va => s.engineRead (s.wg w).core (s.ctxOfWg w) (s.copySlot w k).pages va (layoutOf (s.copySlot w k).layout).esz
  | none => (List.replicate (layoutOf (s.copySlot w k).layout).esz 0, none)

/-- The bytes that an element's data writes, the padding of its row with the last. -/
def CopySlot.written (c : CopySlot) (x : Nat × Nat) (data : List Byte) : List (Nat × Byte) :=
  placed ((layoutOf c.layout).destOff x.1 x.2) data ++ if x.2 + 1 = (layoutOf c.layout).ext.headD 1 then (layoutOf c.layout).padding x.1 else []

/-- R413, R424: the source is metered, and its bus is demanded. -/
def State.elemMoved (s : State) (w k : Nat) (x : Nat × Nat) : State :=
  match ((layoutOf (s.copySlot w k).layout).elemVA (s.copySlot w k).origin x.1 x.2).bind (fun va => (tblFind (s.copySlot w k).pages (va / 65536)).map (fun p => p.1 + va % 65536)) with
  | some pa => (s.moved pa (some (s.launchOfWg w)) (layoutOf (s.copySlot w k).layout).esz).demands [pa]
  | none => s

/-- The bytes of an element are written where the copy goes. -/
def State.elemPut (s : State) (w k : Nat) (x : Nat × Nat) (data : List Byte) : State :=
  if (s.copySlot w k).kind = 2 then (s.elemMoved w k x).putOpm (s.wg w).core (s.copySlot w k).value ((s.copySlot w k).written x data)
  else (s.elemMoved w k x).putSp w (((s.copySlot w k).written x data).map (fun b => ((s.copySlot w k).dest + b.1, b.2)))

theorem State.copyElem_eq (s : State) (w k : Nat) (x : Nat × Nat) : ∃ loads, State.copyElem w k s x =
    (s.elemRead w k x).2.elim ((s.elemPut w k x (s.elemRead w k x).1).noteLoads w loads) (fun b => ((s.elemPut w k x (s.elemRead w k x).1).noteLoads w loads).engineBad w b) := by
  refine ⟨if ((layoutOf (s.copySlot w k).layout).elemVA (s.copySlot w k).origin x.1 x.2).isSome then (s.elemRead w k x).1.map (fun b => b.setWidth 64) else [], ?_⟩
  show (match (s.elemRead w k x).2 with | some b => _ | none => _) = _
  cases (s.elemRead w k x).2 <;> rfl

theorem State.movedAt_wgs (s : State) (launch : Option Nat) (n : Nat) (keys : List Nat) : (s.movedAt launch n keys).wgs = s.wgs ∧ (s.movedAt launch n keys).mem = s.mem := by
  unfold State.movedAt
  exact List.foldlRecOn (motive := fun t : State => t.wgs = s.wgs ∧ t.mem = s.mem) keys _ ⟨rfl, rfl⟩ fun t ht _ _ => ht

theorem State.elemMoved_wgs (s : State) (w k : Nat) (x : Nat × Nat) : (s.elemMoved w k x).wgs = s.wgs ∧ (s.elemMoved w k x).mem = s.mem := by
  unfold State.elemMoved
  split
  next pa _ => exact s.movedAt_wgs _ _ _
  next => exact ⟨rfl, rfl⟩

theorem CopiesKept.copyElem (w k : Nat) (s : State) (x : Nat × Nat) : CopiesKept s (State.copyElem w k s x) := by
  obtain ⟨loads, run⟩ := s.copyElem_eq w k x
  have put : CopiesKept s (s.elemPut w k x (s.elemRead w k x).1) := by
    unfold State.elemPut
    split
    · exact (of_wgs (s.elemMoved_wgs w k x).1).trans (.putOpm _ _ _ _)
    · exact (of_wgs (s.elemMoved_wgs w k x).1).trans (.putSp _ _ _)
  rw [run]
  cases (s.elemRead w k x).2 with
  | none => exact put.trans (.noteLoads _ w loads)
  | some b => exact (put.trans (.noteLoads _ w loads)).trans (.engineBad _ w b)

/-- The last of the bytes written to a place stays there. -/
theorem tblGet_tabSetAll (l : List (Nat × Byte)) (t : Tbl Byte) (a : Nat) :
    tblGet 0 (tabSetAll t l) a = (((l.filter (fun b => b.1 == a)).getLast?).map (fun b => b.2)).getD (tblGet 0 t a) := by
  induction l using List.reverseRecOn with
  | nil => rfl
  | append_singleton l p ih =>
    rw [tabSetAll, List.foldl_append, List.foldl_cons, List.foldl_nil, List.filter_append]
    by_cases here : p.1 = a
    · rw [here, tblGet_tblSet_self, List.filter_cons_of_pos (by simp [here]), List.filter_nil, List.getLast?_append]
      rfl
    · rw [tblGet_tblSet_other _ _ _ (Ne.symm here), List.filter_cons_of_neg (by simpa using here), List.filter_nil, List.append_nil]
      exact ih

theorem State.putSp_byte (s : State) (w : Nat) (l : List (Nat × Byte)) : ((s.putSp w l).wg w).sp = tabSetAll (s.wg w).sp l := by
  have first : ((s.noteFirst w (l.map (fun b => (2, b.1 / 256, 0)))).wg w).sp = (s.wg w).sp := by
    unfold State.noteFirst
    split
    · rw [State.modWg_self]
    · rfl
  rw [State.wg, s.putSp_wgs, ← State.wg, State.modWg_self, first]

/-- R302: n bytes of a source element through the translations the copy was assembled with; 0 where there is none. -/
def State.elemBytes (s : State) (w k : Nat) (x : Nat × Nat) : List Byte :=
  match (layoutOf (s.copySlot w k).layout).elemVA (s.copySlot w k).origin x.1 x.2 with
  | some va => (match tblFind (s.copySlot w k).pages (va / 65536) with
    | some (p, e) => (List.range (layoutOf (s.copySlot w k).layout).esz).map (fun j => s.leafByte (s.wg w).core (s.ctxOfWg w) (va + j) (p + (va + j) % 65536) e)
    | none => List.replicate (layoutOf (s.copySlot w k).layout).esz 0)
  | none => List.replicate (layoutOf (s.copySlot w k).layout).esz 0

theorem State.elemRead_good {s : State} (good : s.bad = []) (w k : Nat) (x : Nat × Nat) : s.elemRead w k x = (s.elemBytes w k x, none) := by
  unfold State.elemRead State.elemBytes
  split
  · unfold State.engineRead
    cases tblFind (s.copySlot w k).pages _ with
    | none => rfl
    | some q =>
      have none' (e n : Nat) : (if leafWindow e = true then none else s.badMem n 1) = (none : Option Bad) := by
        rw [State.badMem_none good, ite_self]
      dsimp only
      simp [none']
  · rfl

/-- R302: an element of a copy to scratchpad writes its bytes and nothing of memory. -/
theorem State.copyElem_writes {s : State} (good : s.bad = []) {w k : Nat} (kind : (s.copySlot w k).kind ≠ 2) (x : Nat × Nat) : (State.copyElem w k s x).mem = s.mem ∧
    ∀ a, tblGet 0 ((State.copyElem w k s x).wg w).sp a =
      (((((s.copySlot w k).written x (s.elemBytes w k x)).filter (fun b => (s.copySlot w k).dest + b.1 == a)).getLast?).map (fun b => b.2)).getD (tblGet 0 (s.wg w).sp a) := by
  obtain ⟨loads, run⟩ := s.copyElem_eq w k x
  rw [State.elemRead_good good, State.elemPut, if_neg kind] at run
  obtain ⟨wgs, mem⟩ := s.elemMoved_wgs w k x
  have loaded (u : State) : ((u.noteLoads w loads).wg w).sp = (u.wg w).sp := by
    unfold State.noteLoads
    split
    · rfl
    · rw [State.modWg_self]
  rw [run]
  refine ⟨?_, fun a => ?_⟩
  · show (State.noteLoads _ w loads).mem = s.mem
    rw [← mem]
    simp
  · show tblGet 0 ((State.noteLoads _ w loads).wg w).sp a = _
    rw [loaded, State.putSp_byte, tblGet_tabSetAll, List.filter_map, List.getLast?_map, Option.map_map, State.wg, wgs]
    rfl

/-! ### A cycle of a copy engine (R302) -/

/-- R302: with one running copy on a core, a cycle moves the next of its elements. -/
theorem State.moveCopies_one {s : State} {core w k : Nat} (alone : s.copiesInOrder core 3 = [(w, k)]) (taken : (s.copySlot w k).taken = true)
    (ready : (s.copySlot w k).ready ≤ (s.core (s.wg w).core).cycles)
    (some' : ((s.copySlot w k).items.drop (s.copySlot w k).done).take (256 / (layoutOf (s.copySlot w k).layout).esz) ≠ []) :
    ((s.moveCopies core).copySlot w k).done = (s.copySlot w k).done + (((s.copySlot w k).items.drop (s.copySlot w k).done).take (256 / (layoutOf (s.copySlot w k).layout).esz)).length ∧
    ((s.copySlot w k).done + (((s.copySlot w k).items.drop (s.copySlot w k).done).take (256 / (layoutOf (s.copySlot w k).layout).esz)).length = (s.copySlot w k).items.length →
      ∃ r, (s.moveCopies core).agenda = .event (.copyComplete w k) :: r) := by
  unfold State.moveCopies State.moveCopy
  rw [alone, List.foldl_cons, List.foldl_nil]
  dsimp only
  generalize ((s.copySlot w k).items.drop (s.copySlot w k).done).take (256 / (layoutOf (s.copySlot w k).layout).esz) = todo at some' ⊢
  rw [taken, List.isEmpty_eq_false_iff.2 some', decide_eq_false (Nat.not_lt.2 ready)]
  have kept : CopiesKept s (todo.foldl (State.copyElem w k) s) := by
    refine List.foldlRecOn (motive := CopiesKept s) todo _ (.refl s) fun t ht x _ => ?_
    exact ht.trans (.copyElem w k t x)
  generalize todo.foldl (State.copyElem w k) s = u at kept ⊢
  have copy := u.modCopy_self w k (fun c => { c with done := c.done + todo.length })
  rw [kept.copySlot] at copy
  rw [if_neg (by simp)]
  dsimp only
  by_cases all : (s.copySlot w k).done + todo.length = (s.copySlot w k).items.length
  · rw [if_pos all]
    exact ⟨congrArg CopySlot.done copy, fun _ => ⟨_, rfl⟩⟩
  · rw [if_neg all]
    refine ⟨?_, fun e => absurd e all⟩
    obtain ⟨n, slot⟩ := State.copyDelay_slot (u.modCopy w k (fun c => { c with done := c.done + todo.length })) w k
    rw [slot, copy]

end Sys2Proof.Machine
end

section
namespace Sys2Proof.Proofs.CopyRuns

open Sys2Proof.Machine Sys2Proof.Claims

section

variable {s : State} {w k : Nat}

/-- R307: a copy of a workgroup that is parked, halted or to be parked neither goes on nor starts. -/
theorem copies_rest (rests : (s.wg w).phase = 1 ∨ (s.wg w).halt.isSome = true ∨ s.mustPark w = true) : s.copiesGoOn w = false ∧ s.mayStart w k = false := by
  have still : s.copiesGoOn w = false := by
    unfold State.copiesGoOn
    rcases rests with parked | halted | must
    · rw [parked]
      rfl
    · rw [Option.isNone_eq_false_iff.2 halted, Bool.and_false, Bool.false_and]
    · rw [must, Bool.not_true, Bool.and_false]
  refine ⟨still, ?_⟩
  rw [State.mayStart, State.served, still, Bool.and_false, Bool.false_and, Bool.false_and, Bool.false_and, Bool.false_and]

theorem gathering_runs (st : (s.copySlot w k).st = 1) : exec (.copyStart w k) s = .next (s.assemble w k) := by
  show execCopyStart w k s = _
  unfold execCopyStart
  dsimp only
  rw [st]
  rfl

/-- R298: a copy whose slices are not all in, or whose workgroup rests, stays as it is. -/
theorem gathering_stays (st : (s.copySlot w k).st = 1) (holds : s.copyFull w (s.copySlot w k) = false ∨ s.copiesGoOn w = false) : exec (.copyStart w k) s = .next s := by
  rw [gathering_runs st]
  unfold State.assemble
  dsimp only
  rw [if_pos]
  rcases holds with h | h <;> rw [h] <;> simp

/-- The layout record that a copy is assembled with. -/
def copyRecord (s : State) (w k : Nat) : BitVec 512 := match (s.copySlot w k).live with | a :: _ => s.layoutRec (s.ctxOfWg w) a.handle | [] => 0

/-- A copy slot that is queued in a state. -/
def queuedCopy (s : State) (w k : Nat) (c : CopySlot) : CopySlot :=
  { c with st := 2, layout := copyRecord s w k, order := (s.core (s.wg w).core).cycles, ready := (s.core (s.wg w).core).cycles + 8, parkedAt := none, num := s.fresh, pages := s.copyPages w k }

/-- R298: a copy that passes its checks is queued. -/
theorem assembly_queues (st : (s.copySlot w k).st = 1) (full : s.copyFull w (s.copySlot w k) = true) (goes : s.copiesGoOn w = true) (ok : s.copyCheck w k = .ok) :
    ∃ t, exec (.copyStart w k) s = .next t ∧ t.mem = s.mem ∧ (t.copySlot w k).st = 2 ∧ (t.copySlot w k).slices = (s.copySlot w k).slices ∧
      (t.copySlot w k).ready = (s.core (s.wg w).core).cycles + 8 ∧ ⟨(s.wg w).core + 1, (s.core (s.wg w).core).cycles + 8, .copyStart w k⟩ ∈ t.timers := by
  rw [gathering_runs st]
  refine ⟨_, rfl, ?_⟩
  have run : s.assemble w k = ((if (s.copySlot w k).kind = 2 && !(s.copySlot w k).live.isEmpty then
      (s.tickFresh.modCopy w k (queuedCopy s w k)).modOpm (s.wg w).core (s.copySlot w k).value (fun o => { o with waiting := o.waiting + 1 })
      else s.tickFresh.modCopy w k (queuedCopy s w k)).inCycles (s.wg w).core 8 (.copyStart w k)) := by
    unfold State.assemble
    dsimp only
    rw [if_neg (by rw [full, goes]; simp), ok]
    rfl
  rw [run]
  have slot := s.tickFresh.modCopy_self w k (queuedCopy s w k)
  have keeps (u v : State) (cycles : (v.core (s.wg w).core).cycles = (s.core (s.wg w).core).cycles) (mem : v.mem = s.mem) (same : v.copySlot w k = u.copySlot w k) (st : (u.copySlot w k).st = 2)
      (slices : (u.copySlot w k).slices = (s.copySlot w k).slices) (ready : (u.copySlot w k).ready = (s.core (s.wg w).core).cycles + 8) :
      (v.inCycles (s.wg w).core 8 (.copyStart w k)).mem = s.mem ∧ ((v.inCycles (s.wg w).core 8 (.copyStart w k)).copySlot w k).st = 2 ∧
      ((v.inCycles (s.wg w).core 8 (.copyStart w k)).copySlot w k).slices = (s.copySlot w k).slices ∧
      ((v.inCycles (s.wg w).core 8 (.copyStart w k)).copySlot w k).ready = (s.core (s.wg w).core).cycles + 8 ∧
      ⟨(s.wg w).core + 1, (s.core (s.wg w).core).cycles + 8, .copyStart w k⟩ ∈ (v.inCycles (s.wg w).core 8 (.copyStart w k)).timers := by
    have due := v.mem_inCycles (s.wg w).core 8 (.copyStart w k)
    rw [cycles] at due
    refine ⟨mem, ?_, ?_, ?_, due⟩
    · show (v.copySlot w k).st = 2
      rw [same, st]
    · show (v.copySlot w k).slices = _
      rw [same, slices]
    · show (v.copySlot w k).ready = _
      rw [same, ready]
  split
  · refine keeps (s.tickFresh.modCopy w k (queuedCopy s w k)) _ ?_ rfl rfl (by rw [slot]; rfl) (by rw [slot]; rfl) (by rw [slot]; rfl)
    rw [State.modOpm, State.modCore_self]
    rfl
  · exact keeps (s.tickFresh.modCopy w k (queuedCopy s w k)) _ rfl rfl rfl (by rw [slot]; rfl) (by rw [slot]; rfl) (by rw [slot]; rfl)

/-- R310, R338: a copy whose checks fault halts its workgroup. -/
theorem assembly_halts (st : (s.copySlot w k).st = 1) (full : s.copyFull w (s.copySlot w k) = true) (goes : s.copiesGoOn w = true) {code tv : Nat} {x : Slice} (fault : s.copyCheck w k = .fault code tv x) :
    ∃ t, exec (.copyStart w k) s = .next t ∧ t.mem = s.mem ∧ (t.wg w).halt = some { code := code, kind := 2, pos := x.pos, tvalue := BitVec.ofNat 64 tv, time := s.tick } := by
  rw [gathering_runs st]
  refine ⟨_, rfl, ?_⟩
  unfold State.assemble
  dsimp only
  rw [if_neg (by rw [full, goes]; simp), fault]
  dsimp only
  have running : (s.wg w).halt = none := by
    rw [State.copiesGoOn, Bool.and_eq_true, Bool.and_eq_true, Option.isNone_iff_eq_none] at goes
    exact goes.1.2
  have halts (u : State) (hu : ∃ m, u = { s with malformed := m }) : (u.copyFault w code (BitVec.ofNat 64 tv) x).mem = s.mem ∧
      ((u.copyFault w code (BitVec.ofNat 64 tv) x).wg w).halt = some { code := code, kind := 2, pos := x.pos, tvalue := BitVec.ofNat 64 tv, time := s.tick } := by
    obtain ⟨m, rfl⟩ := hu
    obtain ⟨-, -, -, halt, -⟩ := Halts.asyncFault_halts (s1 := { s with malformed := m }) running rfl rfl rfl rfl code 0 x.pos (BitVec.ofNat 64 tv) 0xFFFFFFFF
    exact ⟨by rw [State.copyFault, State.asyncFault, (HaltFrame.haltWg _ w none _).state], halt⟩
  refine halts _ ?_
  split
  · exact ⟨_, s.noteWalks_frame _ _⟩
  · exact ⟨s.malformed, rfl⟩

/-- R303: the copy of a core that alone is queued starts once it may. -/
theorem queued_starts (st : (s.copySlot w k).st = 2) (alone : ∀ y ∈ s.copiesOn (s.wg w).core, y.2.2.st = 2 → y.1 = w ∧ y.2.1 = k) (may : s.mayStart w k = true)
    (kind : (s.copySlot w k).kind = 0) (live : (s.copySlot w k).live ≠ []) : exec (.copyStart w k) s = .next (s.beginCopy w k) := by
  have begun := (s.beginCopy_starts w k kind live).1
  show execCopyStart w k s = _
  unfold execCopyStart
  dsimp only
  rw [st]
  show Host.Outcome.next (if ((s.serveCopies (s.wg w).core).copySlot w k).st = 2 then _ else s.serveCopies (s.wg w).core) = _
  rw [State.serveCopies_one st alone may begun, if_neg (by rw [begun]; decide)]

/-- The entries of a core without those of a copy. -/
def unlocked (x : Core) (w k : Nat) : Core := { x with locks := x.locks.filter (fun y => !(y.owner = w && y.slot = k)) }

/-- R302: a copy all of whose elements are written completes. -/
theorem complete_runs (st : (s.copySlot w k).st = 3) (taken : (s.copySlot w k).taken = true) (all : (s.copySlot w k).items.length ≤ (s.copySlot w k).done) (kind : (s.copySlot w k).kind ≠ 1) :
    exec (.copyComplete w k) s = .next (((if (s.copySlot w k).kind = 2 && !(s.copySlot w k).live.isEmpty then
      s.modOpm (s.wg w).core (s.copySlot w k).value (fun o => { o with st := 3, version := o.version + 1, waiting := o.waiting - 1 }) else s).modCore (s.wg w).core (fun x => unlocked x w k)).modCopy w k (fun _ => {})) := by
  show execCopyComplete w k s = _
  unfold execCopyComplete
  dsimp only
  rw [if_neg (by rw [st, taken, decide_eq_false (Nat.not_lt.2 all)]; simp), if_neg (by simp [kind]), if_neg (fun e => kind e)]
  rfl

theorem complete_empties (kind : (s.copySlot w k).kind = 0) (st : (s.copySlot w k).st = 3) (taken : (s.copySlot w k).taken = true) (all : (s.copySlot w k).items.length ≤ (s.copySlot w k).done) :
    ∃ t, exec (.copyComplete w k) s = .next t ∧ t.mem = s.mem ∧ t.copySlot w k = {} ∧ (t.wg w).sp = (s.wg w).sp ∧ ∀ y ∈ (t.core (s.wg w).core).locks, ¬ (y.owner = w ∧ y.slot = k) := by
  refine ⟨_, complete_runs st taken all (by rw [kind]; decide), ?_⟩
  rw [if_neg (by rw [kind]; simp)]
  refine ⟨rfl, State.modCopy_self _ _ _ _, ?_, ?_⟩
  · rw [State.modCopy, State.modWg_self]
    rfl
  · have locks := s.modCore_self (s.wg w).core (fun x => unlocked x w k)
    show ∀ y ∈ ((s.modCore (s.wg w).core (fun x => unlocked x w k)).core (s.wg w).core).locks, _
    rw [locks]
    intro y hy
    have kept := (List.mem_filter.1 hy).2
    rintro ⟨owner, slot⟩
    simp [owner, slot] at kept

theorem complete_fills (kind : (s.copySlot w k).kind = 2) (live : (s.copySlot w k).live ≠ []) (st : (s.copySlot w k).st = 3) (taken : (s.copySlot w k).taken = true)
    (all : (s.copySlot w k).items.length ≤ (s.copySlot w k).done) : ∃ t, exec (.copyComplete w k) s = .next t ∧ t.copySlot w k = {} ∧
      (t.opmSlot (s.wg w).core (s.copySlot w k).value).st = 3 ∧ (t.opmSlot (s.wg w).core (s.copySlot w k).value).version = (s.opmSlot (s.wg w).core (s.copySlot w k).value).version + 1 := by
  refine ⟨_, complete_runs st taken all (by rw [kind]; decide), State.modCopy_self _ _ _ _, ?_⟩
  rw [if_pos (by rw [kind, List.isEmpty_eq_false_iff.2 live]; rfl)]
  generalize (s.copySlot w k).value = n
  have slot (u : State) : ((u.modCore (s.wg w).core (fun x => unlocked x w k)).modCopy w k (fun _ => {})).opmSlot (s.wg w).core n = u.opmSlot (s.wg w).core n := by
    have core := u.modCore_self (s.wg w).core (fun x => unlocked x w k)
    show tblGet {} ((u.modCore (s.wg w).core (fun x => unlocked x w k)).core (s.wg w).core).opm n = _
    rw [core]
    rfl
  rw [slot, State.modOpm_self]
  exact ⟨rfl, rfl⟩

end

/-- Settles O28: assembly, start, moves and completion of a copy, each by what the engine's function does to the copy slot, the entries and the bytes. -/
theorem copyEngine : Obligations.CopyEngine := by
  intro s w k c core l org
  refine ⟨fun st part => gathering_stays st (.inl part), fun st rests => gathering_stays st (.inr rests), fun st full goes => ⟨assembly_queues st full goes, fun code tv x => assembly_halts st full goes⟩,
    fun st alone may kind live => ⟨_, queued_starts st alone may kind live, s.beginCopy_starts w k kind live⟩, copies_rest, ?_, ?_,
    fun st taken all => ⟨fun kind => complete_empties kind st taken all, fun kind live => complete_fills kind live st taken all⟩⟩
  · intro alone _ taken ready todo some'
    exact ⟨_, rfl, State.moveCopies_one alone taken ready some'⟩
  · intro x good kind data bytes
    exact State.copyElem_writes good kind x

end Sys2Proof.Proofs.CopyRuns
end

section
/-! SUPPORT. Acceptance, start and end of a launch (R173-R177, R183, R260). -/

namespace Sys2Proof.Machine

open Sys2Proof.Claims

/-! ### Acceptance (R176, R260) -/

theorem LeavesRegions.activateRegion (s : State) (ctx slot launch : Nat) (e : RegEntry) : LeavesRegions s (s.activateRegion ctx slot launch e) := by
  have ticked : LeavesRegions s s.tickFresh := .of_ctxs rfl rfl
  have active := LeavesRegions.regions s.tickFresh ctx (fun c => tblPut c.regions slot { base := e.base, len := e.len, stack := e.stack, users := [launch], id := s.fresh })
  exact (ticked.trans active).trans (.of_ctxs rfl rfl)

theorem HomeFrame.submits {s t : State} (h : HomeFrame s t) : t.submits = s.submits := by
  unfold HomeFrame at h
  rw [h]

theorem State.writeStatus_submits (s : State) (ctx die va status : Nat) (rest : List Byte) : (s.writeStatus ctx die va status rest).submits = s.submits := by
  unfold State.writeStatus
  split
  · rfl
  · split
    · unfold State.deviceWrite
      split
      · split
        · rfl
        · have home (v : State) (m : Msg) (id : Nat) (b : List (Nat × Byte)) (device : m.lanes = 0) (free : m.owners = []) : (v.performWrite m id b).submits = v.submits :=
            (State.performWrite_home v m id b device free).submits
          rw [home _ _ _ _ rfl rfl]
          split <;> rfl
      · rfl
    · exact s.noteWalks_same State.submits (by intros; rfl) _ _

theorem LeavesRegions.submits {s t : State} (h : LeavesRegions s t) : t.submits = s.submits := by rw [h.state]

/-- A launch that has been accepted. -/
def acceptedLaunch (s : State) (u : Submit) (k : KRec) (slots : List Nat) : Launch :=
  { ctx := u.ctx, number := s.freeNumber u.ctx, kr := k, timed := u.timed, released := !u.timed, regions := slots, die := u.die, rounds := if u.op.isNone then [] else s.roundsDue u.ctx }

/-- The kernel record of a submission, as the device reads it. -/
def recordOf (s : State) (u : Submit) : KRec := krOf (s.sysBytes u.ctx u.die u.va 256)

/-- The region entries that a record names, as the device reads them. -/
def regionTable (s : State) (u : Submit) : List RegEntry :=
  if (recordOf s u).regN ≤ 64 then regEntries (s.sysBytes u.ctx u.die (recordOf s u).regVA (16 * (recordOf s u).regN)) (recordOf s u).regN else []

/-- The reason to reject a submission, or none. -/
def rejected (s : State) (u : Submit) : Option Nat := s.rejectReason u.ctx u.timed (recordOf s u) (s.sysBytes u.ctx u.die u.va 256) (regionTable s u)

/-- A state with what the reads of a submission found wrong on record. -/
def judging (s : State) (u : Submit) : State := s.noteWalks u.ctx (s.badWalks u.ctx (u.va :: if (recordOf s u).regN = 0 then [] else [(recordOf s u).regVA]))

theorem judging_frame (s : State) (u : Submit) : judging s u = { s with malformed := (judging s u).malformed } := s.noteWalks_frame _ _

theorem judging_record {s : State} {u : Submit} {ctx va pa : Nat} (record : RecordAt s ctx va pa) : RecordAt (judging s u) ctx va pa := by
  rw [judging_frame]
  exact record

theorem rejectReason_judging (s : State) (u : Submit) : (judging s u).rejectReason u.ctx u.timed (recordOf s u) (s.sysBytes u.ctx u.die u.va 256) (regionTable s u) = rejected s u := by
  rw [judging_frame]
  rfl

/-- R260: a launch joins the regions its record names. -/
def State.joinRegions (s : State) (ctx id : Nat) (m : List (Nat × RegEntry × Bool)) : State :=
  m.foldl (fun s x =>
    if x.2.2 then s.activateRegion ctx x.1 id x.2.1
    else s.modCtx ctx (fun c => { c with regions := c.regions.map (fun (p : Nat × Region) => if p.1 = x.1 then (p.1, { p.2 with users := p.2.users ++ [id] }) else p) })) s

theorem LeavesRegions.joinRegions (s : State) (ctx id : Nat) (m : List (Nat × RegEntry × Bool)) : LeavesRegions s (s.joinRegions ctx id m) := by
  refine foldl (fun v x => ?_) m s
  dsimp only
  split
  · exact .activateRegion v ctx x.1 id x.2.1
  · exact .regions v ctx _

/-- R176: a record that has been read is accepted, or rejected for a reason. -/
def State.decide (v : State) (u : Submit) (k : KRec) (reason : Option Nat) (m : List (Nat × RegEntry × Bool)) : State :=
  match reason with
  | some r => v.writeStatus u.ctx u.die k.comp 5 (v.statusRest r 0 0)
  | none => (State.joinRegions ({ v with launches := tblPut v.launches (v.fresh + 1) (acceptedLaunch v u k (m.map (fun x => x.1))) } : State).tickFresh u.ctx (v.fresh + 1) m).writeStatus u.ctx u.die k.comp 0 []

theorem State.accept_eq (s : State) (u : Submit) : (s.accept u).2 = (judging s u).decide u (recordOf s u) (rejected s u) ((matchRegions ((judging s u).ctx u.ctx).regions (regionTable s u)).getD []) := by
  rw [← rejectReason_judging s u]
  unfold State.accept State.decide judging regionTable recordOf
  dsimp only
  generalize s.sysBytes u.ctx u.die u.va 256 = b
  have same (l : List Nat) (a n : Nat) : (s.noteWalks u.ctx l).sysBytes u.ctx u.die a n = s.sysBytes u.ctx u.die a n := by
    rw [s.noteWalks_frame]
    rfl
  rw [same]
  generalize s.noteWalks u.ctx _ = v
  generalize (if (krOf b).regN ≤ 64 then _ else _) = table
  generalize krOf b = k
  generalize State.rejectReason _ _ _ _ _ _ = reason
  cases reason with
  | none => rfl
  | some r => rfl

/-- R176: what is left of a rejected submission. -/
theorem State.accept_rejects {s : State} {u : Submit} {r : Nat} (reason : rejected s u = some r) : (s.accept u).2.launches = s.launches ∧ (s.accept u).2.submits = s.submits ∧
    ∀ pa, r < 256 → RecordAt s u.ctx (recordOf s u).comp pa → memNat (s.accept u).2.mem pa 4 = 5 ∧ memNat (s.accept u).2.mem (pa + 4) 4 = r := by
  have frame := judging_frame s u
  rw [State.accept_eq, reason, State.decide]
  refine ⟨?_, ?_, fun pa small record => ?_⟩
  · rw [State.writeStatus_launches, frame]
  · rw [State.writeStatus_submits, frame]
  · rw [State.writeStatus_written _ (judging_record record)]
    refine ⟨memNat_status _ _ _ _ (by decide), ?_⟩
    have second := memNat_within (judging s u).mem pa 4 4 r (leBytes 4 5) (leBytes 8 (min 0 (2 ^ 64 - 1)) ++ leBytes 8 0 ++ leBytes 8 (judging s u).tick ++ List.replicate 32 0) rfl
    rw [Nat.mod_eq_of_lt (by omega)] at second
    have layout : leBytes 4 5 ++ (judging s u).statusRest r 0 0 = leBytes 4 5 ++ leBytes 4 r ++ (leBytes 8 (min 0 (2 ^ 64 - 1)) ++ leBytes 8 0 ++ leBytes 8 (judging s u).tick ++ List.replicate 32 0) := by
      unfold State.statusRest
      simp only [List.append_assoc]
    rw [layout]
    exact second

/-- R176: what an accepted submission leaves. -/
theorem State.accept_accepts {s : State} {u : Submit} (reason : rejected s u = none) : (s.accept u).2.submits = s.submits ∧
    (∃ l, tblFind (s.accept u).2.launches (s.fresh + 1) = some l ∧ l.kr = recordOf s u ∧ l.ctx = u.ctx ∧ l.timed = u.timed ∧ l.phase = 0) ∧
    ∀ pa, RecordAt s u.ctx (recordOf s u).comp pa → memNat (s.accept u).2.mem pa 4 = 0 := by
  have frame := judging_frame s u
  have fresh : (judging s u).fresh = s.fresh := by rw [frame]
  have submits : (judging s u).submits = s.submits := by rw [frame]
  have records (pa : Nat) (record : RecordAt s u.ctx (recordOf s u).comp pa) : RecordAt (judging s u) u.ctx (recordOf s u).comp pa := judging_record record
  rw [State.accept_eq, reason, State.decide, ← fresh, ← submits]
  generalize recordOf s u = k at records ⊢
  generalize (matchRegions ((judging s u).ctx u.ctx).regions (regionTable s u)).getD [] = m
  generalize judging s u = j at records ⊢
  have joins := LeavesRegions.joinRegions ({ j with launches := tblPut j.launches (j.fresh + 1) (acceptedLaunch j u k (m.map (fun x => x.1))) } : State).tickFresh u.ctx (j.fresh + 1) m
  generalize State.joinRegions _ u.ctx (j.fresh + 1) m = v at joins ⊢
  refine ⟨?_, ⟨acceptedLaunch j u k (m.map (fun x => x.1)), ?_, rfl, rfl, rfl, rfl⟩, fun pa record => ?_⟩
  · rw [State.writeStatus_submits, joins.submits]
    rfl
  · rw [State.writeStatus_launches, joins.launches]
    exact tblFind_tblPut_self _ _ _
  · rw [State.writeStatus_written _ (joins.settles.record (records pa record))]
    exact memNat_status _ _ _ _ (by decide)

/-- R176: the instruction that submitted a record counts one less. -/
def State.submitDecided (s : State) (op : Option Nat) : State :=
  match op with
  | none => s
  | some q => (match tblFind (s.modPend q (fun p => { p with wait := p.wait - 1 })).pends q with
    | some p => if p.wait = 0 then (s.modPend q (fun p => { p with wait := p.wait - 1 })).now (.loadCompletion q) else s.modPend q (fun p => { p with wait := p.wait - 1 })
    | none => s.modPend q (fun p => { p with wait := p.wait - 1 }))

theorem State.submitDecided_frame (s : State) (op : Option Nat) : (s.submitDecided op).launches = s.launches ∧ (s.submitDecided op).submits = s.submits ∧ (s.submitDecided op).mem = s.mem := by
  have pend (q : Nat) (f : Pend → Pend) : (s.modPend q f).launches = s.launches ∧ (s.modPend q f).submits = s.submits ∧ (s.modPend q f).mem = s.mem := by
    unfold State.modPend
    split <;> exact ⟨rfl, rfl, rfl⟩
  unfold State.submitDecided
  split
  · exact ⟨rfl, rfl, rfl⟩
  next q =>
    split
    · split
      · exact pend q _
      · exact pend q _
    · exact pend q _

/-- R176: LAUNCH_ACCEPT of a submission with nothing to wait for. -/
theorem launchAccept_decides {s : State} {id : Nat} {u : Submit} (found : tblFind s.submits id = some u) (done : u.after.any s.outstanding = false) (plain : u.widen = false) :
    exec (.launchAccept id) s = .next ((({ s with submits := tblDel s.submits id } : State).accept u).2.submitDecided u.op) := by
  show execLaunchAccept id s = _
  unfold execLaunchAccept
  rw [found]
  dsimp only
  rw [done, plain]
  rfl

end Sys2Proof.Machine
end

section
namespace Sys2Proof.Proofs.LaunchLife

open Sys2Proof.Machine Sys2Proof.Claims

section

variable {s : State} {id : Nat}

/-- R176, R241: LAUNCH_ACCEPT waits, then judges what was observed, then decides. -/
theorem accept_waits {u : Submit} (found : tblFind s.submits id = some u) (busy : u.after.any s.outstanding = true) : exec (.launchAccept id) s = .next (s.again (.launchAccept id)) := by
  show execLaunchAccept id s = _
  unfold execLaunchAccept
  rw [found]
  dsimp only
  rw [if_pos busy]

theorem accept_widens {u : Submit} (found : tblFind s.submits id = some u) (done : u.after.any s.outstanding = false) (wide : u.widen = true) :
    ∃ t, exec (.launchAccept id) s = .next t ∧ t.mem = s.mem ∧ t.launches = s.launches ∧
      tblFind t.submits id = some { u with widen := false, after := (s.flushDie u.die u.ctx 3).observed u.ctx 3 } := by
  have sends := Sends.flushDie s u.die u.ctx 3
  refine ⟨({ s.flushDie u.die u.ctx 3 with submits := tblPut (s.flushDie u.die u.ctx 3).submits id { u with widen := false, after := (s.flushDie u.die u.ctx 3).observed u.ctx 3 } } : State).again (.launchAccept id), ?_, ?_, ?_, ?_⟩
  · show execLaunchAccept id s = _
    unfold execLaunchAccept
    rw [found]
    dsimp only
    rw [done, wide]
    rfl
  · exact sends.mem
  · show (s.flushDie u.die u.ctx 3).launches = s.launches
    rw [sends]
  · exact tblFind_tblPut_self _ _ _

theorem accept_rejects {u : Submit} (found : tblFind s.submits id = some u) (done : u.after.any s.outstanding = false) (plain : u.widen = false) {r : Nat} (reason : rejected s u = some r) (pa : Nat) :
    ∃ t, exec (.launchAccept id) s = .next t ∧ t.launches = s.launches ∧ tblFind t.submits id = none ∧
      (r < 256 → RecordAt s u.ctx (recordOf s u).comp pa → memNat t.mem pa 4 = 5 ∧ memNat t.mem (pa + 4) 4 = r) := by
  obtain ⟨launches, submits, record⟩ := State.accept_rejects (s := { s with submits := tblDel s.submits id }) (u := u) reason
  obtain ⟨launches', submits', mem⟩ := (({ s with submits := tblDel s.submits id } : State).accept u).2.submitDecided_frame u.op
  refine ⟨_, launchAccept_decides found done plain, launches'.trans launches, ?_, fun small written => ?_⟩
  · rw [submits', submits]
    exact tblFind_tblDel_self _ _
  · rw [mem]
    exact record pa small written

theorem accept_accepts {u : Submit} (found : tblFind s.submits id = some u) (done : u.after.any s.outstanding = false) (plain : u.widen = false) (reason : rejected s u = none) (pa : Nat) :
    ∃ t l, exec (.launchAccept id) s = .next t ∧ tblFind t.submits id = none ∧ tblFind t.launches (s.fresh + 1) = some l ∧ l.kr = recordOf s u ∧ l.ctx = u.ctx ∧ l.timed = u.timed ∧ l.phase = 0 ∧
      (RecordAt s u.ctx (recordOf s u).comp pa → memNat t.mem pa 4 = 0) := by
  obtain ⟨submits, ⟨l, there, is⟩, record⟩ := State.accept_accepts (s := { s with submits := tblDel s.submits id }) (u := u) reason
  obtain ⟨launches', submits', mem⟩ := (({ s with submits := tblDel s.submits id } : State).accept u).2.submitDecided_frame u.op
  obtain ⟨kr, ctx, timed, phase⟩ := is
  refine ⟨_, l, launchAccept_decides found done plain, ?_, ?_, kr, ctx, timed, phase, fun written => ?_⟩
  · rw [submits', submits]
    exact tblFind_tblDel_self _ _
  · rw [launches']
    exact there
  · rw [mem]
    exact record pa written

/-- The wait events of a launch whose status word is of a kind. -/
theorem waitWords_any {l : Launch} (p : Option Nat → Bool) : (l.kr.waitVAs.map (fun va => s.statusWord l.ctx l.die va)).any p = true ↔ ∃ va, (va ∈ l.kr.waits ∧ va ≠ 0) ∧ p (s.statusWord l.ctx l.die va) = true := by
  rw [List.any_map, List.any_eq_true]
  constructor
  · rintro ⟨va, hva, is⟩
    obtain ⟨hva, ne⟩ := List.mem_filter.1 hva
    exact ⟨va, ⟨hva, by simpa using ne⟩, is⟩
  · rintro ⟨va, ⟨hva, ne⟩, is⟩
    exact ⟨va, List.mem_filter.2 ⟨hva, by simpa using ne⟩, is⟩

theorem waitWords_none {l : Launch} (p : Option Nat → Bool) (not : ∀ va, va ∈ l.kr.waits ∧ va ≠ 0 → p (s.statusWord l.ctx l.die va) = false) : (l.kr.waitVAs.map (fun va => s.statusWord l.ctx l.die va)).any p = false := by
  refine Bool.eq_false_iff.2 fun yes => ?_
  obtain ⟨va, named, is⟩ := (waitWords_any p).1 yes
  rw [not va named] at is
  cases is

/-- The free part of a core's scratchpad rests on the workgroups and the rings of that core. -/
theorem spFree_congr {s t : State} {c : Nat} (wgs : t.wgs = s.wgs) (core : t.core c = s.core c) (n : Nat) : t.spFree c n = s.spFree c n := by
  rw [State.spFree, State.spFree, State.spTaken, State.spTaken, wgs, core]

/-- A core with a ring of a launch. -/
def ringOn (launch cap base : Nat) (k : Core) : Core := { k with rings := tblPut k.rings launch { cap := cap, base := base } }

/-- The rings of a launch on the cores named. -/
def reserve (launch cap bytes : Nat) (cores : List Nat) (s : State) : State :=
  cores.foldl (fun s c => s.modCore c (ringOn launch cap ((s.spFree c bytes).getD 0))) s

/-- R183: each core named takes a ring where its scratchpad was free. -/
theorem reserve_rings (launch cap bytes : Nat) {cores : List Nat} (nodup : cores.Nodup) (s : State) :
    (∃ cs, reserve launch cap bytes cores s = { s with cores := cs }) ∧ (∀ c, c ∉ cores → (reserve launch cap bytes cores s).core c = s.core c) ∧
    ∀ c ∈ cores, tblFind ((reserve launch cap bytes cores s).core c).rings launch = some { cap := cap, base := (s.spFree c bytes).getD 0 } := by
  induction cores generalizing s with
  | nil => exact ⟨⟨s.cores, rfl⟩, fun _ _ => rfl, fun c hc => nomatch hc⟩
  | cons a r ih =>
    obtain ⟨out, rest⟩ := List.nodup_cons.1 nodup
    obtain ⟨⟨cs, state⟩, others, there⟩ := ih rest (s.modCore a (ringOn launch cap ((s.spFree a bytes).getD 0)))
    have run : reserve launch cap bytes (a :: r) s = reserve launch cap bytes r (s.modCore a (ringOn launch cap ((s.spFree a bytes).getD 0))) := rfl
    rw [run]
    refine ⟨⟨cs, by rw [state]; rfl⟩, fun c hc => ?_, fun c hc => ?_⟩
    · rw [others c fun h => hc (List.mem_cons_of_mem _ h), s.modCore_other _ fun e => hc (by rw [e]; exact List.mem_cons_self)]
    · by_cases here : c = a
      · subst here
        rw [others c out, s.modCore_self]
        exact tblFind_tblPut_self _ _ _
      · rw [there c ((List.mem_cons.1 hc).resolve_left here)]
        have free : (s.modCore a (ringOn launch cap ((s.spFree a bytes).getD 0))).spFree c bytes = s.spFree c bytes :=
          spFree_congr (s := s) (t := s.modCore a (ringOn launch cap ((s.spFree a bytes).getD 0))) rfl (s.modCore_other _ here) bytes
        rw [free]

section Start

variable {l : Launch} (found : tblFind s.launches id = some l) (phase : l.phase = 0)
include found phase

theorem start_starts (live : (s.ctx l.ctx).st ≠ 2) (ready : ∀ va, va ∈ l.kr.waits ∧ va ≠ 0 → s.statusWord l.ctx l.die va = some 1)
    (room : l.kr.ringCap = 0 ∨ ∀ c ∈ maskCores l.kr.dieMask, (s.spFree c l.kr.ringBytes).isSome = true) :
    ∃ t, exec (.launchStart id) s = .next t ∧ (t.launch id).phase = 1 ∧ (t.launch id).kr = l.kr ∧ t.mem = s.mem ∧
      (l.kr.ringCap ≠ 0 → ∀ c ∈ maskCores l.kr.dieMask, ∃ r, tblFind (t.core c).rings id = some r ∧ r.cap = l.kr.ringCap ∧
        s.spFree c l.kr.ringBytes = some r.base ∧ r.packets = [] ∧ r.saved = false) := by
  have nodup : (if l.kr.ringCap = 0 then [] else maskCores l.kr.dieMask).Nodup := by
    split
    · exact List.nodup_nil
    · exact List.nodup_range.filter _
  have fits : (if l.kr.ringCap = 0 then [] else maskCores l.kr.dieMask).any (fun c => (s.spFree c l.kr.ringBytes).isNone) = false := by
    rw [List.any_eq_false]
    intro c hc
    split at hc
    · cases hc
    next some' => simpa [Option.isNone_iff_eq_none] using Option.isSome_iff_ne_none.1 (room.resolve_left some' c hc)
  obtain ⟨⟨cs, state⟩, -, rings⟩ := reserve_rings id l.kr.ringCap l.kr.ringBytes nodup s
  have run : exec (.launchStart id) s = .next ((reserve id l.kr.ringCap l.kr.ringBytes (if l.kr.ringCap = 0 then [] else maskCores l.kr.dieMask) s).modLaunch id
      (fun l' => { l' with phase := 1, rounds := l'.rounds ++ if l'.kr.waitVAs.isEmpty then [] else s.roundsDue l'.ctx })) := by
    show execLaunchStart id s = _
    unfold execLaunchStart
    rw [found]
    dsimp only
    rw [if_neg (by simp [phase, live]), waitWords_none (· = none) fun va named => by rw [ready va named]; rfl, waitWords_none (· = some 0) fun va named => by rw [ready va named]; rfl,
      waitWords_none (fun x => x ≠ some 1) fun va named => by rw [ready va named]; rfl, fits]
    rfl
  have launch : (reserve id l.kr.ringCap l.kr.ringBytes (if l.kr.ringCap = 0 then [] else maskCores l.kr.dieMask) s).launch id = l := by
    rw [state]
    show tblGet _ s.launches id = l
    rw [tblGet, found]
    rfl
  refine ⟨_, run, ?_, ?_, ?_, fun some' c hc => ⟨{ cap := l.kr.ringCap, base := (s.spFree c l.kr.ringBytes).getD 0 }, ?_, rfl, ?_, rfl, rfl⟩⟩
  · rw [State.modLaunch_self]
  · rw [State.modLaunch_self, launch]
  · rw [state]
    rfl
  · refine rings c ?_
    rw [if_neg some']
    exact hc
  · obtain ⟨b, free⟩ := Option.isSome_iff_exists.1 (room.resolve_left some' c hc)
    rw [free]
    rfl

theorem start_noRoom (live : (s.ctx l.ctx).st ≠ 2) (ready : ∀ va, va ∈ l.kr.waits ∧ va ≠ 0 → s.statusWord l.ctx l.die va = some 1)
    (full : ¬ (l.kr.ringCap = 0 ∨ ∀ c ∈ maskCores l.kr.dieMask, (s.spFree c l.kr.ringBytes).isSome = true)) : exec (.launchStart id) s = .next s := by
  obtain ⟨some', short⟩ := not_or.1 full
  have lacks : (if l.kr.ringCap = 0 then [] else maskCores l.kr.dieMask).any (fun c => (s.spFree c l.kr.ringBytes).isNone) = true := by
    rw [if_neg some', List.any_eq_true]
    obtain ⟨c, hc⟩ := not_forall.1 short
    obtain ⟨hc, none'⟩ := Classical.not_imp.1 hc
    exact ⟨c, hc, by simpa using none'⟩
  show execLaunchStart id s = _
  unfold execLaunchStart
  rw [found]
  dsimp only
  rw [if_neg (by simp [phase, live]), waitWords_none (· = none) fun va named => by rw [ready va named]; rfl, waitWords_none (· = some 0) fun va named => by rw [ready va named]; rfl,
    waitWords_none (fun x => x ≠ some 1) fun va named => by rw [ready va named]; rfl, lacks]
  rfl

omit phase in
theorem start_pending (read : ∀ va, va ∈ l.kr.waits ∧ va ≠ 0 → s.statusWord l.ctx l.die va ≠ none) (pending : ∃ va, (va ∈ l.kr.waits ∧ va ≠ 0) ∧ s.statusWord l.ctx l.die va = some 0) :
    exec (.launchStart id) s = .next s := by
  obtain ⟨va, named, zero⟩ := pending
  show execLaunchStart id s = _
  unfold execLaunchStart
  rw [found]
  dsimp only
  rw [waitWords_none (· = none) fun va named => decide_eq_false (read va named), (waitWords_any (· = some 0)).2 ⟨va, named, decide_eq_true zero⟩]
  simp

theorem start_cancels (live : (s.ctx l.ctx).st ≠ 2) (bad : (∃ va, (va ∈ l.kr.waits ∧ va ≠ 0) ∧ s.statusWord l.ctx l.die va = none) ∨
      (∀ va, va ∈ l.kr.waits ∧ va ≠ 0 → s.statusWord l.ctx l.die va ≠ some 0) ∧ ∃ va, (va ∈ l.kr.waits ∧ va ≠ 0) ∧ s.statusWord l.ctx l.die va ≠ some 1) (pa : Nat) :
    ∃ t, exec (.launchStart id) s = .next t ∧ tblFind t.launches id = none ∧ (RecordAt s l.ctx l.kr.comp pa → memNat t.mem pa 4 = 4) := by
  have launch : s.launch id = l := by rw [State.launch, tblGet, found]; rfl
  have gone (v : State) : tblFind (v.endLaunch id 4 0).launches id = none := by
    refine Option.eq_none_iff_forall_ne_some.2 fun x there => ?_
    exact (v.endLaunch_launches id 4 0).2 _ (mem_of_tblFind there) rfl
  have ends (v : State) (hv : ∃ m, v = { s with malformed := m }) (run : exec (.launchStart id) s = .next (v.endLaunch id 4 0)) :
      ∃ t, exec (.launchStart id) s = .next t ∧ tblFind t.launches id = none ∧ (RecordAt s l.ctx l.kr.comp pa → memNat t.mem pa 4 = 4) := by
    obtain ⟨m, rfl⟩ := hv
    refine ⟨_, run, gone _, fun record => State.endLaunch_record _ 0 ?_ (by decide)⟩
    show RecordAt s (s.launch id).ctx (s.launch id).kr.comp pa
    rw [launch]
    exact record
  by_cases unread : ∃ va, (va ∈ l.kr.waits ∧ va ≠ 0) ∧ s.statusWord l.ctx l.die va = none
  · obtain ⟨va, named, none'⟩ := unread
    refine ends (s.noteWalks l.ctx (s.badWalks l.ctx l.kr.waitVAs)) ⟨_, s.noteWalks_frame _ _⟩ ?_
    show execLaunchStart id s = _
    unfold execLaunchStart
    rw [found]
    dsimp only
    rw [if_neg (by simp [phase, live]), (waitWords_any (· = none)).2 ⟨va, named, decide_eq_true none'⟩]
    rfl
  · obtain ⟨done, va, named, other⟩ := bad.resolve_left unread
    refine ends s ⟨s.malformed, rfl⟩ ?_
    show execLaunchStart id s = _
    unfold execLaunchStart
    rw [found]
    dsimp only
    rw [if_neg (by simp [phase, live]), waitWords_none (· = none) fun va named => decide_eq_false fun e => unread ⟨va, named, e⟩, waitWords_none (· = some 0) fun va named => decide_eq_false (done va named),
      (waitWords_any (fun x => x ≠ some 1)).2 ⟨va, named, decide_eq_true other⟩]
    rfl

end Start

section Complete

variable {l : Launch} (found : tblFind s.launches id = some l)
include found

theorem complete_begins (done : s.launchDone id = true) (closing : l.closing = none) :
    ∃ t, exec (.launchComplete id) s = .next t ∧ (t.launch id).closing.isSome = true ∧ (t.launch id).ending = (1, 0) ∧ t.mem = s.mem := by
  have launch : s.launch id = l := by rw [State.launch, tblGet, found]; rfl
  refine ⟨s.finishLaunch id 1 0, ?_, ?_, ?_, ?_⟩
  · show execLaunchComplete id s = _
    unfold execLaunchComplete
    dsimp only
    rw [launch, closing]
    dsimp only
    rw [if_pos done]
  · rw [State.finishLaunch, State.modLaunch_self]
    rfl
  · rw [State.finishLaunch, State.modLaunch_self]
  · exact (State.flushAll_sends s _).mem

theorem complete_ends {ids : List Nat} (closing : l.closing = some ids) (pa : Nat) : (ids.any s.outstanding = true → exec (.launchComplete id) s = .next s) ∧
    (ids.any s.outstanding = false → ∃ t, exec (.launchComplete id) s = .next t ∧ tblFind t.launches id = none ∧
      (RecordAt s l.ctx l.kr.comp pa → l.ending.1 < 2 ^ 32 → memNat t.mem pa 4 = l.ending.1)) := by
  have launch : s.launch id = l := by rw [State.launch, tblGet, found]; rfl
  have run : exec (.launchComplete id) s = .next (if ids.any s.outstanding then s else s.endLaunch id l.ending.1 l.ending.2) := by
    show execLaunchComplete id s = _
    unfold execLaunchComplete
    dsimp only
    rw [launch, closing]
  refine ⟨fun busy => by rw [run, if_pos busy], fun done => ⟨s.endLaunch id l.ending.1 l.ending.2, by rw [run, done]; rfl, ?_, fun record small => ?_⟩⟩
  · exact Option.eq_none_iff_forall_ne_some.2 fun x there => (s.endLaunch_launches id _ _).2 _ (mem_of_tblFind there) rfl
  · exact State.endLaunch_record s _ (by rw [launch]; exact record) small

end Complete

theorem launchLifeCycle : LaunchLifeCycle := by
  intro s id pa
  refine ⟨fun u found => ?_, fun l found => ?_⟩
  · intro b k rs
    exact ⟨accept_waits found, accept_widens found, fun r done plain reason => accept_rejects found done plain reason pa, fun done plain reason => accept_accepts found done plain reason pa⟩
  · intro word named room
    exact ⟨fun phase live ready room => start_starts found phase live ready room, fun phase live ready full => start_noRoom found phase live ready full, fun phase read pending => start_pending found read pending,
      fun phase live bad => start_cancels found phase live bad pa, fun done closing => complete_begins found done closing, fun ids closing => complete_ends found closing pa⟩

end

end Sys2Proof.Proofs.LaunchLife
end

section
/-! SUPPORT. The placement of a team (R178, R179): the slots its groups take, and the workgroups that begin. -/

namespace Sys2Proof.Machine

open Sys2Proof.Claims

/-! ### The slots of a workgroup (R179) -/

/-- Slots of a partition of a core, each once. -/
theorem State.slotsFree_spec (s : State) (core part : Nat) : (s.slotsFree core part).Nodup ∧ ∀ x ∈ s.slotsFree core part, 32 * part ≤ x ∧ x < 32 * part + 32 := by
  unfold State.slotsFree
  refine ⟨(List.nodup_range.map fun a b e => ?_).filter _, fun x hx => ?_⟩
  · exact Nat.add_left_cancel e
  · obtain ⟨k, hk, rfl⟩ := List.mem_map.1 (List.mem_filter.1 hx).1
    have := List.mem_range.1 hk
    omega

/-- The slots of a workgroup of g groups: one of its own for each, group j in partition j mod 4. -/
structure OwnSlots (g : Nat) (slots : List Nat) : Prop where
  length : slots.length = g
  small : ∀ j, j < g → slots.getD j 0 < 128
  apart : ∀ i j, i < j → j < g → slots.getD i 0 ≠ slots.getD j 0

theorem State.slotsFor_own {s : State} {core g : Nat} {slots : List Nat} (found : s.slotsFor core g = some slots) : OwnSlots g slots := by
  have at' (j : Nat) (hj : j < g) : ∃ x, (s.slotsFree core (j % 4))[j / 4]? = some x ∧ slots.getD j 0 = x ∧ slots.length = g := by
    unfold State.slotsFor at found
    dsimp only at found
    split at found
    · cases found
    next all =>
      obtain rfl := Option.some.inj found
      have four : ((List.range 4).map (fun q => s.slotsFree core q)).getD (j % 4) [] = s.slotsFree core (j % 4) := by
        rw [List.getD_eq_getElem?_getD, List.getElem?_map, List.getElem?_range (Nat.mod_lt j (by decide))]
        rfl
      rw [Bool.not_eq_true, List.any_eq_false] at all
      have some' := all _ (List.mem_map.2 ⟨j, List.mem_range.2 hj, rfl⟩)
      rw [four] at some'
      obtain ⟨x, hx⟩ : ∃ x, (s.slotsFree core (j % 4))[j / 4]? = some x := Option.ne_none_iff_exists'.1 fun e => some' (by rw [e]; rfl)
      refine ⟨x, hx, ?_, by simp⟩
      rw [List.getD_eq_getElem?_getD, List.getElem?_map, List.getElem?_map, List.getElem?_range hj]
      show ((((List.range 4).map (fun q => s.slotsFree core q)).getD (j % 4) [])[j / 4]?.getD 0) = x
      rw [four, hx]
      rfl
  refine ⟨?_, fun j hj => ?_, fun i j less hj same => ?_⟩
  · cases g with
    | zero =>
      obtain rfl := Option.some.inj found
      rfl
    | succ n =>
      obtain ⟨x, -, -, length⟩ := at' 0 (Nat.succ_pos n)
      exact length
  · obtain ⟨x, hx, is, -⟩ := at' j hj
    have := ((s.slotsFree_spec core (j % 4)).2 x (List.mem_of_getElem? hx)).2
    omega
  · obtain ⟨x, hx, is, -⟩ := at' i (less.trans hj)
    obtain ⟨y, hy, is', -⟩ := at' j hj
    have inX := (s.slotsFree_spec core (i % 4)).2 x (List.mem_of_getElem? hx)
    have inY := (s.slotsFree_spec core (j % 4)).2 y (List.mem_of_getElem? hy)
    have equal : x = y := by omega
    have part : i % 4 = j % 4 := by omega
    rw [part, equal] at hx
    obtain ⟨hi, ei⟩ := List.getElem?_eq_some_iff.1 hx
    obtain ⟨hj', ej⟩ := List.getElem?_eq_some_iff.1 hy
    have := ((s.slotsFree_spec core (j % 4)).1.getElem_inj_iff (hi := hi) (hj := hj')).1 (ei.trans ej.symm)
    omega

/-- The free slots of a core rest on the groups that stand there. -/
theorem State.slotsFor_congr {s t : State} {core : Nat} (same : ∀ q, q < 128 → t.hasGroup core q = s.hasGroup core q) (g : Nat) : t.slotsFor core g = s.slotsFor core g := by
  have part (q : Nat) (hq : q < 4) : t.slotsFree core q = s.slotsFree core q := by
    unfold State.slotsFree
    refine List.filter_congr fun x hx => ?_
    obtain ⟨k, hk, rfl⟩ := List.mem_map.1 hx
    have := List.mem_range.1 hk
    rw [same _ (by omega)]
  have all : (List.range 4).map (fun q => t.slotsFree core q) = (List.range 4).map (fun q => s.slotsFree core q) := List.map_congr_left fun q hq => part q (List.mem_range.1 hq)
  unfold State.slotsFor
  rw [all]

theorem gkey_apart {c d q r : Nat} (small : q < 128) (small' : r < 128) (apart : ¬ (c = d ∧ q = r)) : gkey c q ≠ gkey d r := by
  unfold gkey
  omega

/-! ### A workgroup that begins (R178-R180) -/

/-- A group of a workgroup as it begins. -/
structure GroupBegun (g : Group) (w j : Nat) (kr : KRec) : Prop where
  wg : g.wg = w
  idx : g.idx = j
  n : g.n = kr.n
  length : g.threads.length = 32
  threads : ∀ y ∈ g.threads, y = enteredThread kr kr.entry

theorem State.beginGroup_begun (s : State) (w core slot j : Nat) (kr : KRec) (held : Bool) : GroupBegun ((s.beginGroup w core slot j kr kr.entry held (fun _ t => t)).group core slot) w j kr := by
  unfold State.beginGroup
  dsimp only
  rw [State.setGroup_self]
  refine ⟨rfl, rfl, rfl, by simp, fun y hy => ?_⟩
  obtain ⟨-, -, rfl⟩ := List.mem_map.1 hy
  rfl

/-- The groups of a workgroup begin, n of them. -/
def State.beginGroups (s : State) (w core : Nat) (slots : List Nat) (kr : KRec) (held : Bool) (n : Nat) : State :=
  (List.range n).foldl (fun s j => s.beginGroup w core (slots.getD j 0) j kr kr.entry held (fun _ t => t)) s

theorem State.beginGroups_spec (s : State) (w core : Nat) {slots : List Nat} (kr : KRec) (held : Bool) {g : Nat} (own : OwnSlots g slots) {n : Nat} (le : n ≤ g) :
    (∃ gs, s.beginGroups w core slots kr held n = { s with groups := gs }) ∧
    (∀ c q, c ≠ core → q < 128 → (s.beginGroups w core slots kr held n).group c q = s.group c q ∧ (s.beginGroups w core slots kr held n).hasGroup c q = s.hasGroup c q) ∧
    ∀ j, j < n → GroupBegun ((s.beginGroups w core slots kr held n).group core (slots.getD j 0)) w j kr := by
  induction n with
  | zero => exact ⟨⟨s.groups, rfl⟩, fun _ _ _ _ => ⟨rfl, rfl⟩, fun j hj => absurd hj (Nat.not_lt_zero j)⟩
  | succ n ih =>
    obtain ⟨⟨gs, state⟩, others, begun⟩ := ih (Nat.le_of_succ_le le)
    have run : s.beginGroups w core slots kr held (n + 1) = (s.beginGroups w core slots kr held n).beginGroup w core (slots.getD n 0) n kr kr.entry held (fun _ t => t) := by
      rw [State.beginGroups, List.range_succ, List.foldl_append]
      rfl
    rw [run]
    have small := own.small n le
    generalize s.beginGroups w core slots kr held n = v at state others begun ⊢
    refine ⟨?_, fun c q ne hq => ?_, fun j hj => ?_⟩
    · rw [state]
      exact ⟨_, rfl⟩
    · obtain ⟨same, there⟩ := others c q ne hq
      have apart := gkey_apart hq small fun e => ne e.1
      exact ⟨(v.setGroup_other _ apart).trans same, (v.setGroup_presentOther _ apart).trans there⟩
    · by_cases last : j = n
      · subst last
        exact v.beginGroup_begun w core _ j kr held
      · have less : j < n := by omega
        have apart := gkey_apart (c := core) (d := core) (own.small j (less.trans le)) small fun e => own.apart j n less le e.2
        have same : (v.beginGroup w core (slots.getD n 0) n kr kr.entry held (fun _ t => t)).group core (slots.getD j 0) = v.group core (slots.getD j 0) := v.setGroup_other _ apart
        rw [same]
        exact begun j less

/-- Workgroup w of a launch has begun on a core, in a team, with its index. -/
def Placed (t : State) (launch core team idx : Nat) (kr : KRec) (w : Nat) : Prop :=
  ∃ x, tblFind t.wgs w = some x ∧ x.launch = launch ∧ x.core = core ∧ x.team = team ∧ x.index = BitVec.ofNat 32 idx ∧ x.gcount = kr.g ∧ OwnSlots kr.g x.slots ∧
    ∀ j, j < kr.g → GroupBegun (t.group core (x.slots.getD j 0)) w j kr

/-- What the beginning of a workgroup on a core leaves as it is. -/
structure Begins' (v t : State) (core : Nat) : Prop where
  state : t = { v with wgs := t.wgs, groups := t.groups, cores := t.cores, fresh := v.fresh + 1 }
  wgs : ∀ k, k ≠ v.fresh + 1 → tblFind t.wgs k = tblFind v.wgs k
  groups : ∀ c q, c ≠ core → q < 128 → t.group c q = v.group c q ∧ t.hasGroup c q = v.hasGroup c q

theorem State.beginWg_begins (v : State) (l core team idx : Nat) {slots : List Nat} (free : v.slotsFor core (v.launch l).kr.g = some slots) :
    Begins' v (v.beginWg l core team idx) core ∧ Placed (v.beginWg l core team idx) l core team idx (v.launch l).kr (v.fresh + 1) := by
  have own := State.slotsFor_own free
  generalize made : ({ launch := l, core := core, index := BitVec.ofNat 32 idx, team := team, gcount := (v.launch l).kr.g, slots := slots, spBase := (v.spFree core (v.launch l).kr.sp).getD 0, spSize := (v.launch l).kr.sp } : Workgroup) = x
  obtain ⟨⟨gs, state⟩, others, begun⟩ := ({ v with wgs := tblPut v.wgs (v.fresh + 1) x } : State).tickFresh.beginGroups_spec (v.fresh + 1) core (v.launch l).kr (!(v.launch l).released) own le_rfl
  have run : ∃ cs, v.beginWg l core team idx = ({ ({ v with wgs := tblPut v.wgs (v.fresh + 1) x } : State).tickFresh.beginGroups (v.fresh + 1) core slots (v.launch l).kr (!(v.launch l).released) (v.launch l).kr.g with cores := cs } : State).startInterval (v.fresh + 1) := by
    unfold State.beginWg
    dsimp only
    rw [free, Option.getD_some, made]
    exact ⟨_, rfl⟩
  obtain ⟨cs, run⟩ := run
  generalize ({ v with wgs := tblPut v.wgs (v.fresh + 1) x } : State).tickFresh.beginGroups (v.fresh + 1) core slots (v.launch l).kr (!(v.launch l).released) (v.launch l).kr.g = u at state others begun run
  have wgs : u.wgs = tblPut v.wgs (v.fresh + 1) x := by
    rw [state]
    rfl
  have interval (a : State) (n : Nat) : ∃ ws, a.startInterval n = { a with wgs := ws } ∧ (∀ k, k ≠ n → tblFind ws k = tblFind a.wgs k) ∧
      ∀ y, tblFind a.wgs n = some y → ∃ r, tblFind ws n = some { y with replay := r } := by
    unfold State.startInterval
    split
    · refine ⟨_, rfl, fun k ne => tblFind_tblPut_other _ _ ne, fun y hy => ?_⟩
      rw [tblFind_tblPut_self, State.wg, tblGet, hy]
      exact ⟨_, rfl⟩
    · exact ⟨a.wgs, rfl, fun _ _ => rfl, fun y hy => ⟨y.replay, hy⟩⟩
  obtain ⟨ws, started, elsewhere, here⟩ := interval { u with cores := cs } (v.fresh + 1)
  rw [run, started]
  obtain ⟨r, found⟩ := here x (by show tblFind u.wgs _ = _; rw [wgs, tblFind_tblPut_self])
  refine ⟨⟨?_, fun k ne => ?_, others⟩, { x with replay := r }, found, ?_⟩
  · show ({ u with cores := cs, wgs := ws } : State) = { v with wgs := ws, groups := u.groups, cores := cs, fresh := v.fresh + 1 }
    rw [state]
    rfl
  · exact (elsewhere k ne).trans ((congrArg (tblFind · k) wgs).trans (tblFind_tblPut_other _ _ ne))
  · subst made
    exact ⟨rfl, rfl, rfl, rfl, rfl, own, begun⟩

theorem Placed.later {v t : State} {c d : Nat} (b : Begins' v t d) {launch team idx w : Nat} {kr : KRec} (placed : Placed v launch c team idx kr w) (earlier : w ≤ v.fresh) (apart : c ≠ d) :
    Placed t launch c team idx kr w := by
  obtain ⟨x, found, is1, is2, is3, is4, is5, own, begun⟩ := placed
  refine ⟨x, by rw [b.wgs w (by omega)]; exact found, is1, is2, is3, is4, is5, own, fun j hj => ?_⟩
  rw [(b.groups c _ apart (own.small j hj)).1]
  exact begun j hj

/-- R178: the workgroups of a team begin, n of them. -/
def State.beginTeam (s : State) (launch k : Nat) (kr : KRec) (cs : List Nat) (n : Nat) : State :=
  (List.range n).foldl (fun s r => s.beginWg launch (cs.getD r 0) k (k * kr.t + r)) s

theorem State.beginTeam_spec {s : State} {launch k : Nat} {cs : List Nat} (nodup : cs.Nodup) (room : ∀ c ∈ cs, (s.slotsFor c (s.launch launch).kr.g).isSome = true) {n : Nat} (le : n ≤ cs.length) :
    (∃ ws gs cores f, s.beginTeam launch k (s.launch launch).kr cs n = { s with wgs := ws, groups := gs, cores := cores, fresh := f }) ∧
    (∀ r, n ≤ r → r < cs.length → ∀ q, q < 128 → (s.beginTeam launch k (s.launch launch).kr cs n).hasGroup (cs.getD r 0) q = s.hasGroup (cs.getD r 0) q) ∧
    ∀ r, r < n → ∃ w, w ≤ (s.beginTeam launch k (s.launch launch).kr cs n).fresh ∧
      Placed (s.beginTeam launch k (s.launch launch).kr cs n) launch (cs.getD r 0) k (k * (s.launch launch).kr.t + r) (s.launch launch).kr w := by
  have apart (i j : Nat) (hi : i < cs.length) (hj : j < cs.length) (ne : i ≠ j) : cs.getD i 0 ≠ cs.getD j 0 := by
    rw [List.getD_eq_getElem?_getD, List.getD_eq_getElem?_getD, List.getElem?_eq_getElem hi, List.getElem?_eq_getElem hj]
    exact fun e => ne (nodup.getElem_inj_iff.1 e)
  induction n with
  | zero => exact ⟨⟨s.wgs, s.groups, s.cores, s.fresh, rfl⟩, fun _ _ _ _ _ => rfl, fun r hr => absurd hr (Nat.not_lt_zero r)⟩
  | succ n ih =>
    obtain ⟨⟨ws, gs, cores, f, state⟩, free, placed⟩ := ih (Nat.le_of_succ_le le)
    have run : s.beginTeam launch k (s.launch launch).kr cs (n + 1) = (s.beginTeam launch k (s.launch launch).kr cs n).beginWg launch (cs.getD n 0) k (k * (s.launch launch).kr.t + n) := by
      rw [State.beginTeam, List.range_succ, List.foldl_append]
      rfl
    rw [run]
    generalize s.beginTeam launch k (s.launch launch).kr cs n = v at state free placed ⊢
    have launches : v.launch launch = s.launch launch := by
      rw [state]
      rfl
    have member : cs.getD n 0 ∈ cs := by
      rw [List.getD_eq_getElem?_getD, List.getElem?_eq_getElem le]
      exact List.getElem_mem le
    obtain ⟨slots, found⟩ := Option.isSome_iff_exists.1 (room _ member)
    rw [← State.slotsFor_congr (free n le_rfl le), ← launches] at found
    obtain ⟨begins, here⟩ := v.beginWg_begins launch (cs.getD n 0) k (k * (s.launch launch).kr.t + n) found
    rw [launches] at here
    generalize v.beginWg launch (cs.getD n 0) k (k * (s.launch launch).kr.t + n) = t at begins here ⊢
    have fresh : t.fresh = v.fresh + 1 := by rw [begins.state]
    refine ⟨?_, fun r ge hr q hq => ?_, fun r hr => ?_⟩
    · rw [begins.state, state]
      exact ⟨_, _, _, _, rfl⟩
    · rw [(begins.groups _ q (apart r n hr le (by omega)) hq).2]
      exact free r (by omega) hr q hq
    · by_cases last : r = n
      · subst last
        exact ⟨v.fresh + 1, fresh.ge, here⟩
      · obtain ⟨w, small, placed⟩ := placed r (by omega)
        exact ⟨w, by omega, placed.later begins small (apart r n (by omega) le last)⟩

end Sys2Proof.Machine
end

section
/-! SUPPORT. The operand memory of a workgroup that completes (R179, R312). -/

namespace Sys2Proof.Machine

open Sys2Proof.Claims

/-- The operand-memory slots of every core stand as before. -/
def OpmKept (s t : State) : Prop := ∀ c, (t.core c).opm = (s.core c).opm

namespace OpmKept

theorem refl (s : State) : OpmKept s s := fun _ => rfl

theorem trans {s t u : State} (h : OpmKept s t) (k : OpmKept t u) : OpmKept s u := fun c => (k c).trans (h c)

theorem of_cores {s t : State} (cores : t.cores = s.cores) : OpmKept s t := fun c => by rw [State.core, State.core, cores]

theorem modCore (s : State) (k : Nat) (f : Core → Core) (hf : ∀ x, (f x).opm = x.opm := by intro _; rfl) : OpmKept s (s.modCore k f) := fun c => by
  by_cases e : c = k
  · subst e
    rw [s.modCore_self, hf]
  · rw [s.modCore_other f e]

theorem modCores (s : State) (sel : Nat → Bool) (f : Core → Core) (hf : ∀ x, (f x).opm = x.opm := by intro _; rfl) : OpmKept s (s.modCores sel f) := fun c => by
  have key (m : Tbl Core) : (tblFind (m.map (fun (p : Nat × Core) => if sel p.1 then (p.1, f p.2) else p)) c).map Core.opm = (tblFind m c).map Core.opm := by
    induction m with
    | nil => rfl
    | cons p r ih =>
      obtain ⟨j, x⟩ := p
      rw [List.map_cons]
      by_cases chosen : sel j = true
      · rw [if_pos chosen, tblFind, tblFind]
        split
        · exact congrArg some (hf x)
        · exact ih
      · rw [if_neg chosen, tblFind, tblFind]
        split
        · rfl
        · exact ih
  have found := key s.cores
  unfold State.core tblGet
  have cores : (s.modCores sel f).cores = s.cores.map (fun (p : Nat × Core) => if sel p.1 then (p.1, f p.2) else p) := rfl
  rw [cores]
  generalize tblFind (s.cores.map _) c = a at found ⊢
  generalize tblFind s.cores c = b at found ⊢
  cases a <;> cases b
  · rfl
  · cases found
  · cases found
  · exact Option.some.inj found

theorem foldl {α : Type} {f : State → α → State} (hf : ∀ s a, OpmKept s (f s a)) (l : List α) (s : State) : OpmKept s (l.foldl f s) := by
  induction l generalizing s with
  | nil => exact refl s
  | cons a r ih => exact (hf s a).trans (ih _)

theorem leaveCore (s : State) (core ctx : Nat) : OpmKept s (s.leaveCore core ctx) := by
  have lease (u : State) (c h : Nat) (f : Lease → Lease) : OpmKept u (u.modLease c ctx h f) := modCore u c _
  have regrant (u : State) (h : Nat) : OpmKept u (u.regrant h ctx) := by
    unfold State.regrant
    refine foldl (fun u r => ?_) _ u
    exact of_cores rfl
  have back (u : State) (h : Nat) : OpmKept u (u.returnLease core ctx h) := by
    unfold State.returnLease
    dsimp only
    split
    · exact refl u
    · refine OpmKept.trans ?_ (regrant _ h)
      exact (lease u core h (fun l => { l with nums := [] })).trans (of_cores rfl)
  unfold State.leaveCore
  split
  · exact refl s
  · exact foldl (fun u h => (back u h).trans (lease _ core h _)) _ s

theorem opmSlot {s t : State} (h : OpmKept s t) (core n : Nat) : t.opmSlot core n = s.opmSlot core n := by rw [State.opmSlot, State.opmSlot, h]

end OpmKept

/-- R312: the slots that a workgroup holds become free. -/
def State.freeSlots (s : State) (core w : Nat) (l : List Nat) : State :=
  l.foldl (fun s n => if s.holdsSlot core w n then s.modOpm core n (fun o => { o with st := 0, waiting := 0 }) else s) s

theorem State.freeSlots_free (s : State) (core w n : Nat) (l : List Nat) : ((s.opmSlot core n).st = 0 → ((s.freeSlots core w l).opmSlot core n).st = 0) ∧
    (n ∈ l → s.holdsSlot core w n = true → ((s.freeSlots core w l).opmSlot core n).st = 0) := by
  induction l generalizing s with
  | nil => exact ⟨id, fun h => nomatch h⟩
  | cons a r ih =>
    have run : s.freeSlots core w (a :: r) = (if s.holdsSlot core w a then s.modOpm core a (fun o => { o with st := 0, waiting := 0 }) else s).freeSlots core w r := rfl
    rw [run]
    by_cases here : n = a
    · subst here
      by_cases holds : s.holdsSlot core w n = true
      · rw [if_pos holds]
        have free := (ih (s.modOpm core n (fun o => { o with st := 0, waiting := 0 }))).1 (by rw [State.modOpm_self])
        exact ⟨fun _ => free, fun _ _ => free⟩
      · rw [if_neg holds]
        exact ⟨(ih s).1, fun _ h => absurd h holds⟩
    · have same : (if s.holdsSlot core w a then s.modOpm core a (fun o => { o with st := 0, waiting := 0 }) else s).opmSlot core n = s.opmSlot core n := by
        split
        · exact s.modOpm_other _ here
        · rfl
      obtain ⟨stays, frees⟩ := ih (if s.holdsSlot core w a then s.modOpm core a (fun o => { o with st := 0, waiting := 0 }) else s)
      rw [State.holdsSlot, same] at frees
      rw [same] at stays
      exact ⟨stays, fun h => frees ((List.mem_cons.1 h).resolve_left here)⟩

/-- R179, R312: a workgroup that completes leaves its slots free. -/
theorem State.freeWg_slots (s : State) (w n : Nat) (small : n < 32) (holds : s.holdsSlot (s.wg w).core w n = true) : ((s.freeWg w).opmSlot (s.wg w).core n).st = 0 := by
  have bank (u : State) (k : Nat) (f : Bank → Bank) : OpmKept u (u.modBank (s.wg w).core k f) := .modCore u _ _
  have claims (u : State) : OpmKept u (u.modCore (s.wg w).core (fun c => { c with claims := c.claims.filter (fun d => d.wg ≠ w) })) := .modCore u _ _
  have locks (u : State) : OpmKept u (u.modCore (s.wg w).core (fun c => { c with locks := c.locks.filter (fun y => y.owner ≠ w) })) := .modCore u _ _
  have tags (u : State) : OpmKept u (u.modCores (fun _ => true) (fun c => { c with tags := c.tags.filter (fun (t : Nat × Nat) => !(s.endedSets w).contains t.2) })) := .modCores u _ _
  have quiesces (u : State) : OpmKept u (u.dropQuiesces w false) := .of_cores rfl
  have gone (u : State) : OpmKept u { u.modCtx (s.ctxOfWg w) (fun c => { c with saveUsed := c.saveUsed - (s.wg w).saveLen }) with
      wgs := tblDel (u.modCtx (s.ctxOfWg w) (fun c => { c with saveUsed := c.saveUsed - (s.wg w).saveLen })).wgs w
      groups := (u.modCtx (s.ctxOfWg w) (fun c => { c with saveUsed := c.saveUsed - (s.wg w).saveLen })).groups.filter (fun p => p.2.wg ≠ w) } := .of_cores rfl
  have units : OpmKept (s.freeSlots (s.wg w).core w (List.range 32)) (s.freeAllUnits (s.wg w).core w) := by
    have step (u : State) (k : Nat) : OpmKept u (if u.holdsBank (s.wg w).core w k then u.modBank (s.wg w).core k (fun _ => {}) else u) := by
      split
      · exact bank u k _
      · exact .refl u
    exact (OpmKept.foldl step (List.range 4) (s.freeSlots (s.wg w).core w (List.range 32))).trans (claims _)
  have rest : OpmKept (s.freeAllUnits (s.wg w).core w) (s.freeWg w) := by
    rw [State.freeWg]
    refine OpmKept.trans ?_ (quiesces _)
    refine OpmKept.trans ?_ (.leaveCore _ (s.wg w).core (s.ctxOfWg w))
    refine OpmKept.trans ?_ (locks _)
    split
    · exact gone _
    · exact (gone _).trans (tags _)
  rw [(units.trans rest).opmSlot]
  exact (s.freeSlots_free (s.wg w).core w n (List.range 32)).2 (List.mem_range.2 small) holds

end Sys2Proof.Machine
end

section
namespace Sys2Proof.Proofs.Placement

open Sys2Proof.Machine Sys2Proof.Claims

/-- R178: the cores of a team are distinct and can each take a workgroup. -/
theorem teamCores_take {s : State} {launch k : Nat} {cs : List Nat} (found : s.teamCores launch k = some cs) : cs.Nodup ∧ ∀ c ∈ cs, s.coreTakes launch k c = true := by
  unfold State.teamCores at found
  dsimp only at found
  obtain ⟨q, -, here⟩ := List.exists_of_findSome?_eq_some found
  split at here
  · cases here
  · split at here
    · obtain rfl := Option.some.inj here
      refine ⟨(((List.nodup_range.map fun a b e => Nat.add_left_cancel e).filter _).sublist (List.take_sublist _ _)), fun c hc => ?_⟩
      exact (List.mem_filter.1 (List.mem_of_mem_take hc)).2
    · cases here

/-- A state in which a launch has been told that a team of it is placed. -/
structure Told (s v : State) (launch : Nat) : Prop where
  state : ∃ ls, v = { s with launches := ls }
  kr : (v.launch launch).kr = (s.launch launch).kr
  redo : (v.launch launch).redo = (s.launch launch).redo
  next : (v.launch launch).nextTeam = (s.launch launch).nextTeam

theorem Told.refl (s : State) (launch : Nat) : Told s s launch := ⟨⟨s.launches, rfl⟩, rfl, rfl, rfl⟩

theorem Told.modLaunch {s v : State} {launch : Nat} (told : Told s v launch) (f : Launch → Launch) (kr : ∀ x, (f x).kr = x.kr) (redo : ∀ x, (f x).redo = x.redo) (next : ∀ x, (f x).nextTeam = x.nextTeam) :
    Told s (v.modLaunch launch f) launch := by
  obtain ⟨⟨ls, state⟩, kr', redo', next'⟩ := told
  refine ⟨?_, ?_, ?_, ?_⟩
  · rw [state]
    exact ⟨_, rfl⟩
  · rw [State.modLaunch_self, kr, kr']
  · rw [State.modLaunch_self, redo, redo']
  · rw [State.modLaunch_self, next, next']

/-- The launch of a team that is placed counts it. -/
def countTeam (cs : List Nat) (x : Launch) : Launch :=
  { x with lastQuad := (cs.head?).map (· / 20), redo := x.redo.drop 1, nextTeam := if x.redo.isEmpty then x.nextTeam + 1 else x.nextTeam }

/-- What placing a team does after its workgroups have begun. -/
structure Announces (u t : State) : Prop where
  state : ∃ cs ag ti, t = { u with cores := cs, agenda := ag, timers := ti }

theorem Announces.refl (u : State) : Announces u u := ⟨u.cores, u.agenda, u.timers, rfl⟩

theorem Announces.trans {s t u : State} (h : Announces s t) (k : Announces t u) : Announces s u := by
  obtain ⟨cs, ag, ti, rfl⟩ := h
  obtain ⟨cs', ag', ti', rfl⟩ := k
  exact ⟨cs', ag', ti', rfl⟩

theorem Announces.now (u : State) (ev : Instr) : Announces u (u.now ev) := ⟨u.cores, _, u.timers, rfl⟩

/-- R182: the start of a launch.at is due once its last team is placed. -/
def startDue (s : State) (launch : Nat) (u : State) : State :=
  if (s.launch launch).timed && !(s.launch launch).released && (u.nextTeamOf launch).isNone then
    (if (s.launch launch).kr.start ≤ s.tick then u.now (.timedLaunchRelease launch) else u.inTicks ((s.launch launch).kr.start - s.tick) (.timedLaunchRelease launch)) else u

/-- R257: the barriers that the team may complete are looked at. -/
def setsDue (launch : Nat) (u : State) : State := u.bsets.foldl (fun s b => if b.2.launch = launch && b.2.arrived > 0 then s.now (.bartRelease b.1 b.2.tag) else s) u

/-- R178: TEAM_PLACE of a team that finds its cores. -/
theorem teamPlace_runs {s : State} {launch k : Nat} {cs : List Nat} (may : s.mayBegin launch = true) (next : s.nextTeamOf launch = some k) (found : s.teamCores launch k = some cs) :
    ∃ v t, exec (.teamPlace launch) s = .next t ∧ Told s v launch ∧
      Announces ((v.modLaunch launch (countTeam cs)).beginTeam launch k (s.launch launch).kr cs cs.length) t := by
  have begun : Told s (if (s.launch launch).begun || (s.launch launch).timed then s else s.modLaunch launch (fun x => { x with begun := true, began := s.tick })) launch := by
    split
    · exact .refl s launch
    · exact (Told.refl s launch).modLaunch _ (fun _ => rfl) (fun _ => rfl) fun _ => rfl
  generalize made : (if (s.launch launch).begun || (s.launch launch).timed then s else s.modLaunch launch (fun x => { x with begun := true, began := s.tick })) = a at begun
  have snapped : Told s (if (s.launch launch).snap.isEmpty then a.modLaunch launch (fun x => { x with snap := s.mem }) else a) launch := by
    split
    · exact begun.modLaunch _ (fun _ => rfl) (fun _ => rfl) fun _ => rfl
    · exact begun
  have ends (u : State) : Announces u (u.endSets launch) := by
    unfold State.endSets
    split
    · exact .refl u
    · exact ⟨_, u.agenda, u.timers, rfl⟩
  have due (u : State) : Announces u (startDue s launch u) := by
    unfold startDue
    split
    · split
      · exact .now u _
      · exact ⟨u.cores, u.agenda, _, rfl⟩
    · exact .refl u
  have sets (u : State) : Announces u (setsDue launch u) := by
    refine List.foldlRecOn (motive := Announces u) u.bsets _ (.refl u) fun v hv b _ => hv.trans ?_
    split
    · exact .now v _
    · exact .refl v
  generalize told : (if (s.launch launch).snap.isEmpty then a.modLaunch launch (fun x => { x with snap := s.mem }) else a) = v at snapped
  refine ⟨v, setsDue launch (startDue s launch (((v.modLaunch launch (countTeam cs)).beginTeam launch k (s.launch launch).kr cs cs.length).endSets launch)), ?_, snapped, ((ends _).trans (due _)).trans (sets _)⟩
  show execTeamPlace launch s = _
  unfold execTeamPlace
  dsimp only
  rw [next]
  dsimp only
  rw [if_neg (by rw [may]; simp), found]
  dsimp only
  rw [made, told]
  rfl

theorem team_places {s : State} {launch k : Nat} {cs : List Nat} (may : s.mayBegin launch = true) (next : s.nextTeamOf launch = some k) (found : s.teamCores launch k = some cs) :
    ∃ t, exec (.teamPlace launch) s = .next t ∧ t.mem = s.mem ∧ ((s.launch launch).redo = [] → (t.launch launch).nextTeam = (s.launch launch).nextTeam + 1) ∧
      ∀ r, r < cs.length → ∃ w, Placed t launch (cs.getD r 0) k (k * (s.launch launch).kr.t + r) (s.launch launch).kr w := by
  obtain ⟨nodup, take⟩ := teamCores_take found
  obtain ⟨v, t, run, told, ann⟩ := teamPlace_runs may next found
  obtain ⟨⟨ls, state⟩, kr, redo, nextTeam⟩ := told
  have launch' := v.modLaunch_self launch (countTeam cs)
  have same : ((v.modLaunch launch (countTeam cs)).launch launch).kr = (s.launch launch).kr := by rw [launch', ← kr]; rfl
  have room : ∀ c ∈ cs, ((v.modLaunch launch (countTeam cs)).slotsFor c ((v.modLaunch launch (countTeam cs)).launch launch).kr.g).isSome = true := by
    intro c hc
    have takes := take c hc
    unfold State.coreTakes at takes
    simp only [Bool.and_eq_true] at takes
    rw [same, State.slotsFor_congr (s := s) (fun q _ => by rw [state]; rfl)]
    exact takes.1.1.1.1
  obtain ⟨⟨ws, gs, cores, f, begun⟩, -, placed⟩ := State.beginTeam_spec (k := k) nodup room le_rfl
  rw [same] at begun placed
  obtain ⟨cs', ag, ti, after⟩ := ann
  generalize (v.modLaunch launch (countTeam cs)).beginTeam launch k (s.launch launch).kr cs cs.length = u at begun placed after
  refine ⟨t, run, ?_, fun none' => ?_, fun r hr => ?_⟩
  · rw [after, begun, state]
    rfl
  · have kept : t.launch launch = (v.modLaunch launch (countTeam cs)).launch launch := by
      rw [after, begun]
      rfl
    rw [kept, launch', countTeam, redo, none', nextTeam]
    rfl
  · obtain ⟨w, -, x, found, is⟩ := placed r hr
    refine ⟨w, x, ?_, ?_⟩
    · rw [after]
      exact found
    · rw [after]
      exact is

/-- R182: TIMED_LAUNCH_RELEASE of a launch whose start has come. -/
theorem timed_releases {s : State} {launch : Nat} (timed : (s.launch launch).timed = true) (held : (s.launch launch).released = false) (placed : s.nextTeamOf launch = none) (goes : (s.launch launch).halting = false)
    (due : (s.launch launch).kr.start ≤ s.tick) (turns : ∀ p ∈ s.wgs, p.2.launch = launch → s.running (Config.dieOfCore p.2.core) (s.launch launch).ctx = true) :
    ∃ t, exec (.timedLaunchRelease launch) s = .next t ∧ (t.launch launch).released = true ∧ (t.launch launch).began = s.tick ∧
      (t.launch launch).late = decide (s.tick ≠ (s.launch launch).kr.start) ∧ ∀ p ∈ t.groups, (s.wg p.2.wg).launch = launch → p.2.held = false := by
  have all : (s.wgs.filter (fun p => p.2.launch = launch)).all (fun p => s.running (Config.dieOfCore p.2.core) (s.launch launch).ctx) = true := by
    rw [List.all_eq_true]
    intro p hp
    obtain ⟨hp, own⟩ := List.mem_filter.1 hp
    exact turns p hp (of_decide_eq_true own)
  have run : exec (.timedLaunchRelease launch) s = .next { s.modLaunch launch (fun x => { x with released := true, begun := true, began := s.tick, late := s.tick ≠ x.kr.start, snap := s.mem }) with
      groups := s.groups.map (fun (p : Nat × Group) => if (s.wg p.2.wg).launch = launch then (p.1, { p.2 with held := false }) else p) } := by
    show execTimedLaunchRelease launch s = _
    unfold execTimedLaunchRelease
    dsimp only
    rw [if_neg (by rw [timed, held, placed, goes, all]; simpa using due)]
    rfl
  have launch' := s.modLaunch_self launch (fun x => { x with released := true, begun := true, began := s.tick, late := s.tick ≠ x.kr.start, snap := s.mem })
  refine ⟨_, run, congrArg Launch.released launch', congrArg Launch.began launch', congrArg Launch.late launch', fun p hp own => ?_⟩
  obtain ⟨q, -, rfl⟩ := List.mem_map.1 hp
  dsimp only at own ⊢
  split at own
  next mine => rw [if_pos mine]
  next mine => exact absurd own mine

/-- R146, R179: WORKGROUP_COMPLETE of a workgroup with nothing left. -/
theorem workgroup_completes {s : State} {wg : Nat} {x : Workgroup} (found : tblFind s.wgs wg = some x) (left : ∀ p ∈ s.groups, p.2.wg ≠ wg) (unsaved : x.saved = []) (running : x.halt = none)
    (idle : s.wgBusy wg = false) : ∃ t, exec (.workgroupComplete wg) s = .next t ∧ t.mem = s.mem ∧ tblFind t.wgs wg = none ∧ ∀ n, n < 32 → s.holdsSlot x.core wg n = true → (t.opmSlot x.core n).st = 0 := by
  have same : s.wg wg = x := by rw [State.wg, tblGet, found]; rfl
  have none' : s.groups.any (fun p => p.2.wg = wg) = false := List.any_eq_false.2 fun p hp => by simpa using left p hp
  refine ⟨s.freeWg wg, ?_, by simp, ?_, ?_⟩
  · show execWorkgroupComplete wg s = _
    unfold execWorkgroupComplete
    rw [found]
    dsimp only
    rw [none', unsaved, running, idle]
    rfl
  · rw [s.freeWg_wgs]
    exact tblFind_tblDel_self _ _
  · have free := s.freeWg_slots wg
    rw [same] at free
    exact free

theorem placementAndCompletion : PlacementAndCompletion := by
  refine ⟨fun s launch k cs may next found => ?_, fun s launch => ?_, fun s wg x => workgroup_completes⟩
  · intro kr
    obtain ⟨t, run, mem, counted, placed⟩ := team_places may next found
    refine ⟨t, run, mem, counted, fun r hr => ?_⟩
    obtain ⟨w, x, there, launch', core, team, index, count, own, begun⟩ := placed r hr
    refine ⟨w, x, there, launch', core, team, index, count, own.length, fun j hj => ?_⟩
    obtain ⟨wg, idx, n, length, threads⟩ := begun j hj
    intro g
    have here : g = t.group (cs.getD r 0) (x.slots.getD j 0) := by
      show t.group x.core _ = _
      rw [core]
    rw [here]
    refine ⟨wg, idx, n, length, fun y hy => ?_⟩
    rw [threads y hy]
    exact ⟨rfl, rfl, rfl, rfl, rfl, bit_eq_testBit _ _⟩
  · intro x timed held placed goes due turns
    exact timed_releases timed held placed goes due turns

/-- Settles O33: acceptance, start and end of a launch, and the team that takes slots of its own on each of its cores. -/
theorem launchesAndPlacement : Obligations.LaunchesAndPlacement := by
  unfold Obligations.LaunchesAndPlacement
  exact ⟨LaunchLife.launchLifeCycle, placementAndCompletion⟩

end Sys2Proof.Proofs.Placement
end

section
/-! SUPPORT. What a range of addresses empties: words of L1 blocks, gather entries of a die (R204, R226), and the checks of cwb, cinv, rnd.adv and rnd.get. -/

namespace Sys2Proof.Machine

open Sys2Proof.Claims

/-! ### Words leave blocks (R204) -/

/-- A block holds no word from a to c. -/
def Block.clear (b : Block) (a c : Nat) : Prop := b.hi < a ∨ c < b.lo

/-- A block lies inside another of its frame, and pred selects both or neither. -/
structure Block.Inside (pred : Block → Bool) (x y : Block) : Prop where
  frame : x.frame = y.frame
  selected : pred x = pred y
  lo : y.lo ≤ x.lo
  hi : x.hi ≤ y.hi

namespace Block.Inside

theorem refl (pred : Block → Bool) (x : Block) : x.Inside pred x := ⟨rfl, rfl, le_rfl, le_rfl⟩

theorem trans {pred : Block → Bool} {x y z : Block} (h : x.Inside pred y) (k : y.Inside pred z) : x.Inside pred z :=
  ⟨h.frame.trans k.frame, h.selected.trans k.selected, k.lo.trans h.lo, h.hi.trans k.hi⟩

theorem clear {pred : Block → Bool} {x y : Block} (h : x.Inside pred y) {a c : Nat} (clear : y.clear a c) : x.clear a c :=
  clear.imp (fun below => h.hi.trans_lt below) (fun above => above.trans_le h.lo)

end Block.Inside

section Blocks

variable {pred : Block → Bool} (parts : ∀ (b : Block) lo hi, pred (b.part lo hi) = pred b)
include parts

/-- R204: what is left of a block lies inside it and holds none of the words. -/
theorem Block.without_spec {b : Block} {a c : Nat} (low : a ≤ b.hi) (high : b.lo ≤ c) (two : Bool) {x : Block} (hx : x ∈ b.without a c two) : x.Inside pred b ∧ x.clear a c := by
  have lower (some' : b.lo < a) : (b.part b.lo (a - 1)).Inside pred b ∧ (b.part b.lo (a - 1)).clear a c :=
    ⟨⟨rfl, parts _ _ _, le_rfl, by show a - 1 ≤ b.hi; omega⟩, .inl (by show a - 1 < a; omega)⟩
  have upper : (b.part (c + 1) b.hi).Inside pred b ∧ (b.part (c + 1) b.hi).clear a c :=
    ⟨⟨rfl, parts _ _ _, by show b.lo ≤ c + 1; omega, le_rfl⟩, .inr (Nat.lt_succ_self c)⟩
  unfold Block.without at hx
  rw [if_neg (by simp [low, high])] at hx
  by_cases below : b.lo < a <;> by_cases above : c < b.hi
  · simp only [if_pos below, if_pos above] at hx
    have either : x = b.part b.lo (a - 1) ∨ x = b.part (c + 1) b.hi := by
      split at hx
      · simpa using hx
      · split at hx <;> simp_all
    rcases either with rfl | rfl
    · exact lower below
    · exact upper
  · simp only [if_pos below, if_neg above, List.append_nil, List.mem_singleton] at hx
    exact hx ▸ lower below
  · simp only [if_neg below, if_pos above, List.nil_append, List.mem_singleton] at hx
    exact hx ▸ upper
  · simp only [if_neg below, if_neg above, List.append_nil, List.not_mem_nil] at hx

/-- R204: after a run of words has left the blocks of a frame, none of those selected holds one of them. -/
theorem dropRun_spec (sets frame a c : Nat) (l : List Block) {x : Block} (hx : x ∈ dropRun sets frame a c pred l) :
    (∃ y ∈ l, x.Inside pred y) ∧ (x.frame = frame → pred x = true → x.clear a c) := by
  unfold dropRun at hx
  have steps (sel : List Block) (here : ∀ b ∈ sel, (∃ y ∈ l, b.Inside pred y) ∧ a ≤ b.hi ∧ b.lo ≤ c) (m : List Block)
      (held : ∀ x ∈ m, (∃ y ∈ l, x.Inside pred y) ∧ (x ∈ sel ∨ (x.frame = frame → pred x = true → x.clear a c)))
      (hx : x ∈ sel.foldl (fun l b => l.filter (fun x => x ≠ b) ++
        b.without a c (decide (setTags sets frame (l.filter (fun x => x ≠ b) ++ b.without a c true) ≤ 32 && setGranules sets frame (l.filter (fun x => x ≠ b) ++ b.without a c true) ≤ 128))) m) :
      (∃ y ∈ l, x.Inside pred y) ∧ (x.frame = frame → pred x = true → x.clear a c) := by
    induction sel generalizing m with
    | nil => exact ⟨(held x hx).1, (held x hx).2.resolve_left List.not_mem_nil⟩
    | cons b r ih =>
      refine ih (fun y hy => here y (List.mem_cons_of_mem _ hy)) _ (fun z hz => ?_) hx
      rcases List.mem_append.1 hz with old | new
      · obtain ⟨mem, ne⟩ := List.mem_filter.1 old
        obtain ⟨inside, either⟩ := held z mem
        exact ⟨inside, either.imp_left fun h => (List.mem_cons.1 h).resolve_left (by simpa using ne)⟩
      · obtain ⟨⟨y, hy, inside⟩, low, high⟩ := here b List.mem_cons_self
        obtain ⟨within, clear⟩ := Block.without_spec parts low high _ new
        exact ⟨⟨y, hy, within.trans inside⟩, .inr fun _ _ => clear⟩
  refine steps _ (fun b hb => ?_) l (fun y hy => ⟨⟨y, hy, .refl pred y⟩, ?_⟩) hx
  · obtain ⟨mem, sel⟩ := List.mem_filter.1 hb
    simp only [Bool.and_eq_true, decide_eq_true_eq] at sel
    exact ⟨⟨b, mem, .refl pred b⟩, sel.1.2, sel.2⟩
  · by_cases clear : y.clear a c
    · exact .inr fun _ _ => clear
    · by_cases sel : y.frame = frame ∧ pred y = true
      · unfold Block.clear at clear
        exact .inl (List.mem_filter.2 ⟨hy, by simp [sel.1, sel.2]; omega⟩)
      · exact .inr fun f p => absurd ⟨f, p⟩ sel

theorem dropRuns_spec (sets frame : Nat) (runs : List (Nat × Nat)) (l : List Block) {x : Block} (hx : x ∈ runs.foldl (fun l r => dropRun sets frame r.1 r.2 pred l) l) :
    (∃ y ∈ l, x.Inside pred y) ∧ (x.frame = frame → pred x = true → ∀ r ∈ runs, x.clear r.1 r.2) := by
  induction runs generalizing l with
  | nil => exact ⟨⟨x, hx, .refl pred x⟩, fun _ _ r hr => absurd hr List.not_mem_nil⟩
  | cons q rest ih =>
    obtain ⟨⟨y, hy, inside⟩, later⟩ := ih _ hx
    obtain ⟨⟨z, hz, within⟩, first⟩ := dropRun_spec parts sets frame q.1 q.2 l hy
    refine ⟨⟨z, hz, inside.trans within⟩, fun f p r hr => ?_⟩
    rcases List.mem_cons.1 hr with rfl | there
    · exact inside.clear (first (inside.frame.symm.trans f) (inside.selected.symm.trans p))
    · exact later f p r there

end Blocks

/-! ### The runs of a mask -/

/-- Adding one word to the runs of a mask. -/
def addWord (mask : BitVec 64) (l : List (Nat × Nat)) (w : Nat) : List (Nat × Nat) :=
  if !mask.getLsbD w then l
  else match l.getLast? with
    | some r => if r.2 + 1 = w then l.dropLast ++ [(r.1, w)] else l ++ [(w, w)]
    | none => [(w, w)]

theorem addWord_spec {mask : BitVec 64} {l : List (Nat × Nat)} (ordered : ∀ r ∈ l, r.1 ≤ r.2) (w : Nat) : (∀ r ∈ addWord mask l w, r.1 ≤ r.2) ∧
    ∀ v, ((∃ r ∈ l, r.1 ≤ v ∧ v ≤ r.2) ∨ v = w ∧ mask.getLsbD w = true) → ∃ r ∈ addWord mask l w, r.1 ≤ v ∧ v ≤ r.2 := by
  unfold addWord
  by_cases bit : mask.getLsbD w = true
  · rw [bit, if_neg (by decide)]
    split
    next r last =>
      obtain ⟨front, rfl⟩ : ∃ front, l = front ++ [r] := ⟨l.dropLast, (List.dropLast_append_getLast? r last).symm⟩
      split
      next next' =>
        rw [List.dropLast_concat]
        have := ordered r (by simp)
        refine ⟨fun q hq => ?_, ?_⟩
        · rcases List.mem_append.1 hq with old | new
          · exact ordered q (List.mem_append_left _ old)
          · rw [List.mem_singleton.1 new]
            show r.1 ≤ w
            omega
        · rintro v (⟨q, hq, held⟩ | ⟨rfl, -⟩)
          · rcases List.mem_append.1 hq with old | new
            · exact ⟨q, List.mem_append_left _ old, held⟩
            · rw [List.mem_singleton.1 new] at held
              exact ⟨(r.1, w), by simp, held.1, by show v ≤ w; omega⟩
          · exact ⟨(r.1, v), by simp, by show r.1 ≤ v; omega, le_rfl⟩
      next =>
        refine ⟨fun q hq => ?_, ?_⟩
        · rcases List.mem_append.1 hq with old | new
          · exact ordered q old
          · rw [List.mem_singleton.1 new]
        · rintro v (⟨q, hq, held⟩ | ⟨rfl, -⟩)
          · exact ⟨q, List.mem_append_left _ hq, held⟩
          · exact ⟨(v, v), by simp, le_rfl, le_rfl⟩
    next none' =>
      rw [List.getLast?_eq_none_iff] at none'
      subst none'
      refine ⟨fun q hq => by rw [List.mem_singleton.1 hq], ?_⟩
      rintro v (⟨q, hq, -⟩ | ⟨rfl, -⟩)
      · exact absurd hq List.not_mem_nil
      · exact ⟨(v, v), by simp, le_rfl, le_rfl⟩
  · rw [if_pos (by simpa using bit)]
    exact ⟨ordered, fun v hv => hv.resolve_right fun h => bit h.2⟩

/-- Every word of a mask lies in one of its runs. -/
theorem maskRuns_covers (mask : BitVec 64) {w : Nat} (less : w < 64) (bit : mask.getLsbD w = true) : ∃ r ∈ maskRuns mask, r.1 ≤ w ∧ w ≤ r.2 := by
  have steps (ws : List Nat) (l : List (Nat × Nat)) (ordered : ∀ r ∈ l, r.1 ≤ r.2) (here : (∃ r ∈ l, r.1 ≤ w ∧ w ≤ r.2) ∨ w ∈ ws) :
      ∃ r ∈ ws.foldl (addWord mask) l, r.1 ≤ w ∧ w ≤ r.2 := by
    induction ws generalizing l with
    | nil => exact here.resolve_right List.not_mem_nil
    | cons v rest ih =>
      obtain ⟨still, covers⟩ := addWord_spec (mask := mask) ordered v
      refine ih _ still ?_
      rcases here with held | listed
      · exact .inl (covers w (.inl held))
      · rcases List.mem_cons.1 listed with rfl | later
        · exact .inl (covers w (.inr ⟨rfl, bit⟩))
        · exact .inr later
  exact steps _ [] (fun r hr => absurd hr List.not_mem_nil) (.inr (List.mem_range.2 less))

/-- R204: with the words of a mask gone from the blocks of a frame, none of those selected holds one. -/
theorem dropWords_clears {pred : Block → Bool} (parts : ∀ (b : Block) lo hi, pred (b.part lo hi) = pred b) (sets frame : Nat) (mask : BitVec 64) (l : List Block) {x : Block}
    (hx : x ∈ dropWords sets frame mask pred l) : (∃ y ∈ l, x.Inside pred y) ∧
    (x.frame = frame → pred x = true → ∀ w, x.lo ≤ w → w ≤ x.hi → w < 64 → mask.getLsbD w = false) := by
  obtain ⟨inside, clears⟩ := dropRuns_spec parts sets frame (maskRuns mask) l hx
  refine ⟨inside, fun f p w low high less => ?_⟩
  rw [Bool.eq_false_iff]
  intro bit
  obtain ⟨r, hr, below, above⟩ := maskRuns_covers mask less bit
  have := clears f p r hr
  unfold Block.clear at this
  omega

/-- R204: the one block of an L1, once the words of a mask have left it. -/
theorem State.dropL1_clears {pred : Block → Bool} (parts : ∀ (b : Block) lo hi, pred (b.part lo hi) = pred b) {s : State} {core : Nat} {b : Block} (one : (s.core core).l1 = [b])
    (sel : pred b = true) (mask : BitVec 64) {x : Block} (hx : x ∈ ((s.dropL1 core b.frame mask pred).core core).l1) :
    x.frame = b.frame ∧ ∀ w, x.lo ≤ w → w ≤ x.hi → w < 64 → mask.getLsbD w = false := by
  unfold State.dropL1 at hx
  dsimp only at hx
  rw [one, if_pos (by simp), State.setCore, State.core, tblGet_tblPut_self] at hx
  obtain ⟨⟨y, hy, inside⟩, clears⟩ := dropWords_clears parts 128 b.frame mask [b] hx
  rw [List.mem_singleton.1 hy] at inside
  exact ⟨inside.frame, clears inside.frame (inside.selected.trans sel)⟩

/-! ### The words of extents (R226) -/

theorem foldl_or_bit (p : Nat → Bool) {w : Nat} (less : w < 64) (l : List Nat) (m : BitVec 64) :
    (l.foldl (fun m w => if p w then m ||| BitVec.ofNat 64 (2 ^ w) else m) m).getLsbD w = (m.getLsbD w || (l.contains w && p w)) := by
  induction l generalizing m with
  | nil => simp
  | cons v r ih =>
    rw [List.foldl_cons, ih]
    have bit : (BitVec.ofNat 64 (2 ^ v)).getLsbD w = decide (v = w) := by
      rw [BitVec.getLsbD_ofNat, Nat.testBit_two_pow, decide_eq_true less, Bool.true_and]
    rw [List.contains_cons]
    split
    next holds =>
      rw [BitVec.getLsbD_or, bit]
      by_cases here : w = v
      · subst here
        simp [holds]
      · simp [beq_false_of_ne here, Ne.symm here]
    next out =>
      by_cases here : w = v
      · subst here
        simp [out]
      · simp [beq_false_of_ne here]

theorem extentMask_bit (ext : List (Nat × Nat)) (frame : Nat) {w : Nat} (less : w < 64) : (extentMask ext frame).getLsbD w = inExtents ext (frame * 256 + 4 * w) := by
  rw [extentMask, foldl_or_bit (fun w => inExtents ext (frame * 256 + 4 * w)) less]
  simp [less]

/-! ### cwb and cinv (R226) -/

theorem SendsNear.refl (s : State) : SendsNear s s := rfl

theorem SendsNear.foldl {α : Type} {f : State → α → State} (hf : ∀ s a, SendsNear s (f s a)) (l : List α) (s : State) : SendsNear s (l.foldl f s) := by
  induction l generalizing s with
  | nil => exact refl s
  | cons a r ih => exact (hf s a).trans (ih _)

theorem State.cwbExtents_near (s : State) (scope id : Nat) (ext : List (Nat × Nat)) : SendsNear s (s.cwbExtents scope id ext) := by
  unfold State.cwbExtents
  dsimp only
  have fixed (l : List (Nat × Gather)) (d : Nat) : SendsNear s (l.foldl (fun s g => s.flushGather d g.1 [id]) s) :=
    .foldl (f := fun (u : State) (g : Nat × Gather) => u.flushGather d g.1 [id]) (fun u g => .of_sends (.flushGather u d g.1 [id])) _ _
  split
  · exact (fixed _ _).trans rfl
  · exact fixed _ _

theorem State.cinvExtents_near (s : State) (scope : Nat) (ext : List (Nat × Nat)) : SendsNear s (s.cinvExtents scope ext) := by
  have l1 (u : State) (c : Nat) : SendsNear u (u.invalidateL1 ext c) := .foldl (fun u fr => .dropL1 u c fr _ _) _ _
  have l2 (u : State) (clean : Bool) (d : Nat) : SendsNear u (u.invalidateL2 ext clean d) := rfl
  unfold State.cinvExtents
  dsimp only
  split
  · exact l1 _ _
  · exact (SendsNear.foldl (fun u c => l1 u c) _ s).trans (.foldl (fun u d => l2 u _ d) _ _)

/-- Gather entries of a die leave, each at the number of its frame. -/
theorem State.flushes_gather (die id : Nat) (l : List (Nat × Gather)) (s : State) (p : Nat × Gather)
    (hp : p ∈ ((l.foldl (fun s g => s.flushGather die g.1 [id]) s).die die).gather) : p ∈ (s.die die).gather ∧ ∀ q ∈ l, p.1 ≠ q.1 := by
  induction l generalizing s with
  | nil => exact ⟨hp, fun q hq => absurd hq List.not_mem_nil⟩
  | cons a r ih =>
    obtain ⟨old, out⟩ := ih _ hp
    rw [State.flushGather_gather] at old
    obtain ⟨there, ne⟩ := mem_tblDel.1 old
    refine ⟨there, fun q hq => ?_⟩
    rcases List.mem_cons.1 hq with rfl | later
    · exact ne
    · exact out q later

/-- The L2 blocks of a die, each changed. -/
def Die.mapL2 (f : Block → Block) (d : Die) : Die := { d with l2 := d.l2.map f }

/-- R226: no gather entry that cwb leaves in its die holds a byte of the extents. -/
theorem State.cwbExtents_gather (s : State) (scope id : Nat) (ext : List (Nat × Nat)) {g : Nat × Gather} (hg : g ∈ ((s.cwbExtents scope id ext).die (Config.dieOfCore s.cur.core)).gather) :
    g ∈ (s.die (Config.dieOfCore s.cur.core)).gather ∧ ∀ b ∈ g.2.bytes, inExtents ext (g.1 * 256 + b.1) = false := by
  have kept (u : State) (f : Block → Block) (d : Nat) :
      ((({ u with dies := u.dies.map (fun (d : Nat × Die) => (d.1, { d.2 with l2 := d.2.l2.map f })) } : State)).die d).gather = (u.die d).gather := by
    have found := tblFind_map (fun x : Nat × Die => (x.1, x.2.mapL2 f)) (Die.mapL2 f) (fun _ => rfl) u.dies d
    show ((tblFind (u.dies.map fun x : Nat × Die => (x.1, x.2.mapL2 f)) d).getD {}).gather = ((tblFind u.dies d).getD {}).gather
    rw [found]
    cases tblFind u.dies d <;> rfl
  unfold State.cwbExtents at hg
  dsimp only at hg
  have flushed : g ∈ ((((s.die (Config.dieOfCore s.cur.core)).gather.filter (fun g => g.2.bytes.any (fun b => inExtents ext (g.1 * 256 + b.1)))).foldl
      (fun u g => u.flushGather (Config.dieOfCore s.cur.core) g.1 [id]) s).die (Config.dieOfCore s.cur.core)).gather := by
    split at hg
    · rwa [kept] at hg
    · exact hg
  obtain ⟨old, out⟩ := State.flushes_gather _ id _ s g flushed
  refine ⟨old, fun b hb => ?_⟩
  rw [Bool.eq_false_iff]
  intro holds
  exact out g (List.mem_filter.2 ⟨old, List.any_eq_true.2 ⟨b, hb, holds⟩⟩) rfl

end Sys2Proof.Machine
end

section
/-! SUPPORT. cwb, cinv and cpf: their ranges pass the checks, their effect is beside the threads, and their result is under way (R226, R227, R230). -/

namespace Sys2Proof.Machine

open Sys2Proof.Claims

section Range

variable {s : State} {h : Hdr} {f : FmtM}

/-- What the range of a lane of cwb or cinv finds. -/
def laneRange (s : State) (f : FmtM) (l : Nat) : RangeChk := s.rangeCheck s.curCtx (addrOf s f l) (4 * s.rangeWords f l) 1100

/-- R226: the range of a lane passes its checks. -/
structure RangeFits (s : State) (f : FmtM) (l : Nat) : Prop where
  aligned : addrOf s f l % 4 = 0
  below : addrOf s f l < 2 ^ 57
  words : s.rangeWords f l ≤ 2 ^ 24
  found : ∃ e, laneRange s f l = .ok e

theorem mem_addrs {p : Nat × Nat} : p ∈ addrs s h f ↔ ∃ l ∈ lanesOf (s.active h), (l, addrOf s f l) = p := List.mem_map

/-- R231: the checks of ranges that pass. -/
theorem State.rangeChecks_ok (failed : s.cur.failed = []) (fits : ∀ l ∈ lanesOf (s.active h), RangeFits s f l) : ∃ l, s.rangeChecks f (s.active h) = (.ok l, 0) := by
  have known (l r : Nat) : s.hasFailed l r = false := by
    rw [State.hasFailed, failed]
    rfl
  have every {P : Nat × Nat → Prop} (lanes : ∀ l ∈ lanesOf (s.active h), P (l, addrOf s f l)) (p : Nat × Nat) (hp : p ∈ addrs s h f) : P p := by
    obtain ⟨l, hl, rfl⟩ := mem_addrs.1 hp
    exact lanes l hl
  unfold State.rangeChecks
  dsimp only
  simp only [State.knownLanes_all failed, eas_eq, known, Bool.not_false, if_true, Bool.true_and]
  rw [find?_nowhere (every fun l hl => by simp [(fits l hl).aligned])]
  dsimp only
  rw [List.findSome?_eq_none_iff.2 (every fun l hl => ?_)]
  · dsimp only
    rw [List.findSome?_eq_none_iff.2 (every fun l hl => ?_)]
    · exact ⟨_, rfl⟩
    · obtain ⟨e, found⟩ := (fits l hl).found
      unfold laneRange at found
      rw [found]
  · obtain ⟨e, found⟩ := (fits l hl).found
    unfold laneRange at found
    have inside : ¬ (Decidable.decide (addrOf s f l ≥ 2 ^ 57) || Decidable.decide (s.rangeWords f l > 2 ^ 24)) = true := by
      rw [Bool.or_eq_true, decide_eq_true_eq, decide_eq_true_eq, not_or, not_le, not_lt]
      exact ⟨(fits l hl).below, (fits l hl).words⟩
    rw [if_neg inside, found]

/-- The extents of the ranges of the active lanes. -/
def rangeExtents (s : State) (h : Hdr) (f : FmtM) : List (List (Nat × Nat)) :=
  (s.eas f (s.active h)).filterMap (fun p => match s.rangeCheck s.curCtx p.2 (4 * s.rangeWords f p.1) 1100 with | .ok ext => some ext | _ => none)

theorem mem_rangeExtents {l : Nat} (active : l ∈ lanesOf (s.active h)) {e : List (Nat × Nat)} (found : laneRange s f l = .ok e) : e ∈ rangeExtents s h f := by
  refine List.mem_filterMap.2 ⟨(l, addrOf s f l), by rw [eas_eq]; exact mem_addrs.2 ⟨l, active, rfl⟩, ?_⟩
  unfold laneRange at found
  dsimp only
  rw [found]

theorem rangeExtents_single {l : Nat} (one : lanesOf (s.active h) = [l]) {e : List (Nat × Nat)} (found : laneRange s f l = .ok e) : rangeExtents s h f = [e] := by
  unfold laneRange at found
  rw [rangeExtents, eas_eq, addrs, one]
  simp [found]

/-- The result of cwb and cinv. -/
def rangePend (s : State) (h : Hdr) (f : FmtM) : Pend :=
  { core := s.cur.core, slot := s.cur.slot, kind := 3, path := s.cur.path, lanes := s.cur.lanes, act := s.active h, pos := s.cur.pos, tok := h.tok.toNat, frames := extentFrames (rangeExtents s h f).flatten }

/-- The state once every range has had its effect. -/
def rangeEffect (s : State) (h : Hdr) (f : FmtM) (eff : State → Nat → List (Nat × Nat) → State) : State :=
  (rangeExtents s h f).foldl (fun u ext => eff u s.fresh ext) (s.takeToken h).tickFresh

/-- The state in which the result is under way. -/
def rangeDone (s : State) (h : Hdr) (f : FmtM) (r : State) : State := { r with pends := tblPut r.pends s.fresh (rangePend s h f) }.later (.loadCompletion s.fresh)

theorem State.rangeOp_ready (ready : Ready s (s.active h) [.pair f.addr.toNat, .reg f.data.toNat] [] []) (fits : ∀ l ∈ lanesOf (s.active h), RangeFits s f l) (i : Instr)
    (eff : State → Nat → List (Nat × Nat) → State) : s.rangeOp h i f eff = (rangeDone s h f (rangeEffect s h f eff)).retireSeq h := by
  have failed : s.cur.failed = [] := ready.2.2.2.2.2.2
  obtain ⟨l, ok⟩ := State.rangeChecks_ok failed fits
  unfold State.rangeOp
  dsimp only
  rw [State.withOperandsLate_ready _ _ _ _ _ _ _ _ _ _ _ (by exact ready), ok]
  exact s.raiseFailed_none h _ _ failed

theorem SendsNear.pends {s t : State} (h : SendsNear s t) : t.pends = s.pends := by rw [h]

/-- R226, R230: an effect beside the threads, with the result under way. -/
theorem ranges_pass (first : First s) (eff : State → Nat → List (Nat × Nat) → State) (near : ∀ u id ext, SendsNear u (eff u id ext)) :
    let r := rangeEffect s h f eff
    let t := (rangeDone s h f r).retireSeq h
    Passed s t h ∧ TokenUp s t h ∧ UnderWay s t h s.fresh (rangePend s h f) ∧ t.die = r.die ∧ ∀ c, (t.core c).l1 = (r.core c).l1 := by
  intro r t
  have effect : SendsNear (s.takeToken h).tickFresh r := .foldl (fun u ext => near u s.fresh ext) _ _
  have done : Beside r (rangeDone s h f r) := .of_wgs rfl rfl rfl rfl rfl
  have beside : Beside (s.takeToken h) (rangeDone s h f r) := (Beside.of_wgs (s := s.takeToken h) (t := (s.takeToken h).tickFresh) rfl rfl rfl rfl rfl).trans (effect.beside.trans done)
  obtain ⟨passed, up, retired⟩ := passes_beside first h (.refl s) beside
  refine ⟨passed, up, ⟨?_, rfl, rfl, rfl, rfl, rfl, rfl, rfl, rfl, fun _ => rfl⟩, ?_, fun c => ?_⟩
  · rw [retired.pends]
    exact tblFind_tblPut_self _ _ _
  · funext d
    have dies : t.dies = (rangeDone s h f r).dies := by rw [show t = _ from retired.state]
    rw [State.die, dies]
    rfl
  · rw [retired.core]
    rfl

/-- R226: after cwb no gather entry of its die holds a byte of a range. -/
theorem cwb_clears (scope : Nat) {e : List (Nat × Nat)} {g : Nat × Gather}
    (hg : g ∈ ((rangeEffect s h f (fun u id ext => u.cwbExtents scope id ext)).die (Config.dieOfCore s.cur.core)).gather) (he : e ∈ rangeExtents s h f) :
    ∀ b ∈ g.2.bytes, inExtents e (g.1 * 256 + b.1) = false := by
  have steps (exts : List (List (Nat × Nat))) (u : State) (cur : u.cur = s.cur)
      (hg : g ∈ ((exts.foldl (fun u ext => u.cwbExtents scope s.fresh ext) u).die (Config.dieOfCore s.cur.core)).gather) :
      g ∈ (u.die (Config.dieOfCore s.cur.core)).gather ∧ ∀ e ∈ exts, ∀ b ∈ g.2.bytes, inExtents e (g.1 * 256 + b.1) = false := by
    induction exts generalizing u with
    | nil => exact ⟨hg, fun e he => absurd he List.not_mem_nil⟩
    | cons x r ih =>
      obtain ⟨there, later⟩ := ih (u.cwbExtents scope s.fresh x) ((u.cwbExtents_near scope s.fresh x).beside.cur.trans cur) hg
      rw [← cur] at there
      obtain ⟨old, first⟩ := u.cwbExtents_gather scope s.fresh x there
      rw [cur] at old
      refine ⟨old, fun e he => ?_⟩
      rcases List.mem_cons.1 he with rfl | rest
      · exact first
      · exact later e rest
  exact (steps _ _ (by simp) hg).2 e he

/-- R226: after cinv of one lane the one block of its L1 has lost the words of its range. -/
theorem cinv_clears {l : Nat} (one : lanesOf (s.active h) = [l]) {e : List (Nat × Nat)} (found : laneRange s f l = .ok e) {b : Block} (block : (s.core s.cur.core).l1 = [b]) {x : Block}
    (hx : x ∈ ((rangeEffect s h f (fun u _ ext => u.cinvExtents 0 ext)).core s.cur.core).l1) : ∀ w, x.lo ≤ w → w ≤ x.hi → w < 64 → inExtents e (x.frame * 256 + 4 * w) = false := by
  have block' : ((s.takeToken h).tickFresh.core s.cur.core).l1 = [b] := by simpa using block
  have run : rangeEffect s h f (fun u _ ext => u.cinvExtents 0 ext) = (s.takeToken h).tickFresh.dropL1 s.cur.core b.frame (extentMask e b.frame) (fun _ => true) := by
    rw [rangeEffect, rangeExtents_single one found]
    show (s.takeToken h).tickFresh.cinvExtents 0 e = _
    have cur : (s.takeToken h).tickFresh.cur = s.cur := by simp
    rw [State.cinvExtents, if_pos rfl, cur, State.invalidateL1, block']
    rfl
  rw [run] at hx
  obtain ⟨frame, clears⟩ := State.dropL1_clears (fun _ _ _ => rfl) block' rfl _ hx
  intro w low high less
  rw [frame, ← extentMask_bit e b.frame less]
  exact clears w low high less

end Range

/-! ### cpf (R227) -/

/-- R227: a request of cpf leaves a fill, or nothing. -/
theorem loadFrame_prefetch (f : FmtM) (n : Nat) (bound : Option Bound) (bounded : Bool) (id : Nat) (accs : List Acc) (a : Loading) (req : Nat × Option (Nat × Nat)) :
    LoadStep a.1 (loadFrame f n bound bounded true id accs a req).1 := by
  obtain ⟨s, p, bad⟩ := a
  obtain ⟨frame, region⟩ := req
  unfold loadFrame
  dsimp only
  cases (accs.filter (fun x => frameOf x.pa = frame && s.accRegion x = region)).head? with
  | none => exact rfl
  | some x =>
    dsimp only
    rw [if_pos rfl]
    have one (c : Bool) (u v : State) (h : LoadStep s u) (k : LoadStep s v) : LoadStep s (if c then u else v) := by
      cases c
      · exact k
      · exact h
    have first (c : Bool) (g : Core → Core) : LoadStep s (if c then s else s.modCore s.cur.core g) := one c _ _ rfl rfl
    exact one _ _ _ ((first _ _).trans rfl) ((first _ _).trans (.startFill _ _))

theorem requests_prefetch (f : FmtM) (n : Nat) (bound : Option Bound) (bounded : Bool) (id : Nat) (accs : List Acc) (reqs : List (Nat × Option (Nat × Nat))) (a : Loading) :
    LoadStep a.1 (reqs.foldl (fun a r => loadFrame f n bound bounded true id accs a r) a).1 := by
  induction reqs generalizing a with
  | nil => exact rfl
  | cons q r ih => exact (loadFrame_prefetch f n bound bounded id accs a q).trans (ih _)

theorem LoadStep.pends {s t : State} (h : LoadStep s t) : t.pends = s.pends := by rw [h]

theorem Beside.noteWalks (s : State) (ctx : Nat) (l : List Nat) : Beside s (s.noteWalks ctx l) := by
  rw [s.noteWalks_frame ctx l]
  exact .of_wgs rfl rfl rfl rfl rfl

theorem State.noteWalks_pends (s : State) (ctx : Nat) (l : List Nat) : (s.noteWalks ctx l).pends = s.pends := by rw [s.noteWalks_frame ctx l]

theorem cpf_passes {s : State} (first : First s) (h : Hdr) (f : FmtM) (ready : Ready s (s.active h) [.pair f.addr.toNat] [] []) :
    ∃ t, exec (.cpf h f) s = .next t ∧ Passed s t h ∧ TokensKept s t ∧ t.pends = s.pends := by
  let u := s.noteWalks s.curCtx (s.badWalks s.curCtx ((s.eas f (s.active h)).map (fun p => p.2)))
  have noted : Beside s u ∧ u.pends = s.pends := ⟨.noteWalks s _ _, State.noteWalks_pends s _ _⟩
  let v := ((u.requests (inDevice (s.cpfLanes f (s.active h)))).foldl (fun a r => loadFrame f (sizeBytes f) (some ⟨0, false⟩) true true 0 (inDevice (s.cpfLanes f (s.active h))) a r)
    ((u, { core := 0, slot := 0, kind := 3, path := 0, lanes := 0, pos := 0 }, 0) : Loading)).1
  have step : LoadStep u v := requests_prefetch f _ _ _ _ _ _ _
  have beside : Beside s v := noted.1.trans step.beside
  have run : exec (.cpf h f) s = .next ((v.doneNow h).retireSeq h) := by
    show Host.Outcome.next _ = _
    rw [State.withOperands_ready _ _ _ _ _ _ _ _ _ _ (by exact ready)]
  rw [run, State.doneNow_first (by rw [beside.cur]; exact first.1)]
  obtain ⟨passed, kept, retired⟩ := retires_beside first h beside
  exact ⟨_, rfl, passed, kept, retired.pends.trans (step.pends.trans noted.2)⟩

end Sys2Proof.Machine

namespace Sys2Proof.Proofs.CacheOps

open Sys2Proof.Machine Sys2Proof.Claims

theorem cacheOperations : CacheOperations := by
  intro s h f act words range under first
  refine ⟨fun ready fits => ?_, cpf_passes first h f⟩
  have fits' (l : Nat) (hl : l ∈ lanesOf (s.active h)) : RangeFits s f l := by
    obtain ⟨aligned, below, count, found⟩ := fits l hl
    exact ⟨aligned, below, count, found⟩
  obtain ⟨passed, up, way, die, -⟩ := ranges_pass (h := h) (f := f) first (fun u id ext => u.cwbExtents f.scope.toNat id ext) (fun u id ext => u.cwbExtents_near _ id ext)
  obtain ⟨passed', up', way', -, l1⟩ := ranges_pass (h := h) (f := f) first (fun u _ ext => u.cinvExtents f.scope.toNat ext) (fun u _ ext => u.cinvExtents_near _ ext)
  refine ⟨⟨_, congrArg Host.Outcome.next (State.rangeOp_ready ready fits' (.cwb h f) _), ⟨passed, up, _, way, rfl, rfl, rfl⟩, fun l hl e found g hg => ?_⟩,
    ⟨_, congrArg Host.Outcome.next (State.rangeOp_ready ready fits' (.cinv h f) _), ⟨passed', up', _, way', rfl, rfl, rfl⟩, fun l e b one found scope block x hx => ?_⟩⟩
  · rw [die] at hg
    exact cwb_clears _ hg (mem_rangeExtents hl found)
  · rw [l1, scope] at hx
    exact cinv_clears one found block hx

end Sys2Proof.Proofs.CacheOps
end

section
/-! SUPPORT. rnd.adv and rnd.get: the checks of their lanes, the messages sent and the mirrors read (R228, R260, R263). -/

namespace Sys2Proof.Machine

open Sys2Proof.Claims

section Round

variable {s : State} {h : Hdr} {f : FmtM}

/-- R228: the lanes of an issue with their regions. -/
def roundsOf (s : State) (h : Hdr) (f : FmtM) : List (Nat × Nat × Region) :=
  (s.eas f (s.active h)).filterMap (fun p => (s.regionAt s.curCtx p.2).map (fun r => (p.1, r.1, r.2)))

/-- R228: the address of a lane passes. -/
structure RoundFits (s : State) (f : FmtM) (l : Nat) : Prop where
  aligned : addrOf s f l % 4 = 0
  below : addrOf s f l < 2 ^ 57
  region : (s.regionAt s.curCtx (addrOf s f l)).isSome = true

theorem addrs_all {P : Nat × Nat → Prop} {l : List Nat} (lanes : ∀ k ∈ l, P (k, addrOf s f k)) : ∀ p ∈ l.map (fun k => (k, addrOf s f k)), P p := by
  intro p hp
  obtain ⟨k, hk, rfl⟩ := List.mem_map.1 hp
  exact lanes k hk

section Checks

variable (ready : Ready s (s.active h) [.pair f.addr.toNat] (destRegs f 4) []) (i : Instr) (k : State → BitVec 32 → List (Nat × Nat × Region) → State)
include ready

theorem State.roundOp_ready (fits : ∀ l ∈ lanesOf (s.active h), RoundFits s f l) : s.roundOp h i f k = k s (s.active h) (roundsOf s h f) := by
  have failed : s.cur.failed = [] := ready.2.2.2.2.2.2
  unfold State.roundOp
  dsimp only
  rw [loadRegs_eq, State.withOperandsLate_ready _ _ _ _ _ _ _ _ _ _ _ (by exact ready)]
  rw [State.knownLanes_all failed, State.knownLanes_all failed, eas_eq, addrs]
  rw [find?_nowhere (addrs_all fun l hl => by simp [(fits l hl).aligned])]
  dsimp only
  rw [find?_nowhere (addrs_all fun l hl => by simpa [Option.isNone_iff_eq_none, Option.isSome_iff_ne_none] using ⟨(fits l hl).below, (Option.isSome_iff_ne_none.1 (fits l hl).region)⟩)]
  dsimp only
  rw [s.raiseFailed_none h _ _ failed, ← roundsOf]

theorem State.roundOp_misaligned {a b : List Nat} {l : Nat} (cut : lanesOf (s.active h) = a ++ l :: b) (before : ∀ k ∈ a, addrOf s f k % 4 = 0) (here : addrOf s f l % 4 ≠ 0) :
    s.roundOp h i f k = s.raise h (s.active h) cMISALIGN (BitVec.ofNat 64 (addrOf s f l)) := by
  have failed : s.cur.failed = [] := ready.2.2.2.2.2.2
  unfold State.roundOp
  dsimp only
  rw [loadRegs_eq, State.withOperandsLate_ready _ _ _ _ _ _ _ _ _ _ _ (by exact ready)]
  rw [State.knownLanes_all failed, State.knownLanes_all failed, eas_eq, addrs, cut, List.map_append, List.map_cons]
  rw [find?_first (p := (l, addrOf s f l)) rfl (addrs_all fun l hl => by simp [before l hl]) (by simpa using here)]

theorem State.roundOp_outside {a b : List Nat} {l : Nat} (aligned : ∀ k ∈ lanesOf (s.active h), addrOf s f k % 4 = 0) (cut : lanesOf (s.active h) = a ++ l :: b)
    (before : ∀ k ∈ a, addrOf s f k < 2 ^ 57 ∧ (s.regionAt s.curCtx (addrOf s f k)).isSome = true) (here : 2 ^ 57 ≤ addrOf s f l ∨ s.regionAt s.curCtx (addrOf s f l) = none) :
    s.roundOp h i f k = s.raise h (s.active h) cACCESS (BitVec.ofNat 64 (addrOf s f l)) := by
  have failed : s.cur.failed = [] := ready.2.2.2.2.2.2
  unfold State.roundOp
  dsimp only
  rw [loadRegs_eq, State.withOperandsLate_ready _ _ _ _ _ _ _ _ _ _ _ (by exact ready)]
  rw [State.knownLanes_all failed, State.knownLanes_all failed, eas_eq, addrs]
  rw [find?_nowhere (addrs_all fun l hl => by simp [aligned l hl])]
  dsimp only
  rw [cut, List.map_append, List.map_cons]
  rw [find?_first (p := (l, addrOf s f l)) rfl
    (addrs_all fun l hl => by simpa [Option.isNone_iff_eq_none, Option.isSome_iff_ne_none] using ⟨(before l hl).1, Option.isSome_iff_ne_none.1 (before l hl).2⟩) (by simpa [Option.isNone_iff_eq_none] using here)]

end Checks

theorem mem_roundsOf {l : Nat} (active : l ∈ lanesOf (s.active h)) {r : Nat × Region} (found : s.regionAt s.curCtx (addrOf s f l) = some r) : (l, r.1, r.2) ∈ roundsOf s h f := by
  refine List.mem_filterMap.2 ⟨(l, addrOf s f l), by rw [eas_eq]; exact mem_addrs.2 ⟨l, active, rfl⟩, ?_⟩
  rw [found]
  rfl

/-- The lanes of the list are the active lanes, in their order. -/
theorem roundsOf_lanes (fits : ∀ l ∈ lanesOf (s.active h), RoundFits s f l) : (roundsOf s h f).map (fun x => x.1) = lanesOf (s.active h) := by
  rw [roundsOf, eas_eq, addrs]
  have steps (ls : List Nat) (all : ∀ l ∈ ls, RoundFits s f l) :
      ((ls.map (fun l => (l, addrOf s f l))).filterMap (fun p => (s.regionAt s.curCtx p.2).map (fun r => (p.1, r.1, r.2)))).map (fun x => x.1) = ls := by
    induction ls with
    | nil => rfl
    | cons l r ih =>
      obtain ⟨q, found⟩ := Option.isSome_iff_exists.1 (all l List.mem_cons_self).region
      rw [List.map_cons, List.filterMap_cons_some (b := (l, q.1, q.2)) (by rw [found]; rfl), List.map_cons, ih fun k hk => all k (List.mem_cons_of_mem _ hk)]
  exact steps _ fits

/-! ### rnd.get (R228) -/

/-- The mirror of a lane's region enters the bytes of the result. -/
def putMirror (t : Tbl Byte) (x : Nat × Nat × Region) : Tbl Byte := (placed (x.1 * 16) (leBytes 4 x.2.2.mirror.toNat)).foldl (fun t b => tblPut t b.1 b.2) t

theorem putMirror_self (t : Tbl Byte) (x : Nat × Nat × Region) : leNat (tabBytes (putMirror t x) (x.1 * 16) 4) = x.2.2.mirror.toNat :=
  leNat_placedAll t _ 4 (by have := x.2.2.mirror.isLt; omega)

theorem putMirror_other (t : Tbl Byte) (x : Nat × Nat × Region) {l : Nat} (ne : x.1 ≠ l) : tabBytes (putMirror t x) (l * 16) 4 = tabBytes t (l * 16) 4 := by
  refine List.map_congr_left fun i hi => ?_
  have less := List.mem_range.1 hi
  rw [putMirror, tblGet_placedAll, leBytes_length, if_neg (by omega)]

/-- R228: each lane receives the mirror of its region. -/
theorem putMirrors_lane {L : List (Nat × Nat × Region)} (distinct : (L.map (fun x => x.1)).Nodup) {x : Nat × Nat × Region} (hx : x ∈ L) (t : Tbl Byte) :
    leNat (tabBytes (L.foldl putMirror t) (x.1 * 16) 4) = x.2.2.mirror.toNat := by
  obtain ⟨a, c, cut⟩ := List.append_of_mem hx
  have after (y : Nat × Nat × Region) (hy : y ∈ c) : ¬ y = x ∧ y.1 ≠ x.1 := by
    rw [cut, List.map_append, List.map_cons, List.nodup_append] at distinct
    have apart := (List.nodup_cons.1 distinct.2.1).1
    have ne : y.1 ≠ x.1 := fun e => apart (e ▸ List.mem_map.2 ⟨y, hy, rfl⟩)
    exact ⟨fun e => ne (by rw [e]), ne⟩
  exact foldl_last (l := L) (view := fun t => leNat (tabBytes t (x.1 * 16) 4)) (hit := fun y => y.1 = x.1) (val := fun y => if y.1 = x.1 then y.2.2.mirror.toNat else 0) (I := fun _ => True)
    (fun t _ y _ => ⟨trivial, fun ne => by rw [putMirror_other t y ne], fun e => by rw [if_pos e, ← e]; exact putMirror_self t y⟩) cut rfl (fun y hy => (after y hy).2) t trivial
    |>.trans (if_pos rfl)

/-- The result of rnd.get and rnd.adv. -/
def roundPend (s : State) (h : Hdr) (f : FmtM) (wait : Nat) (bytes : Tbl Byte) : Pend :=
  { core := s.cur.core, slot := s.cur.slot, kind := 3, path := s.cur.path, lanes := s.cur.lanes, act := s.active h, pos := s.cur.pos, tok := h.tok.toNat, size := 4, dst := f.data.toNat,
    bytes := bytes, wait := wait }

theorem roundPend_underWay {t : State} {id wait : Nat} {bytes : Tbl Byte} (found : tblFind t.pends id = some (roundPend s h f wait bytes)) : UnderWay s t h id (roundPend s h f wait bytes) :=
  ⟨found, rfl, rfl, rfl, rfl, rfl, rfl, rfl, rfl, fun _ => rfl⟩

/-- R228: rnd.get of lanes that pass. -/
theorem rndGet_passes (first : First s) (ready : Ready s (s.active h) [.pair f.addr.toNat] (destRegs f 4) []) (fits : ∀ l ∈ lanesOf (s.active h), RoundFits s f l) :
    ∃ t p, exec (.rndGet h f) s = .next t ∧ Passed s t h ∧ TokenUp s t h ∧ UnderWay s t h s.fresh p ∧ p.size = 4 ∧ p.dst = f.data.toNat ∧ p.missing = [] ∧
      ∀ l ∈ lanesOf (s.active h), ∀ r, s.regionAt s.curCtx (addrOf s f l) = some r → leNat (tabBytes p.bytes (l * 16) 4) = r.2.mirror.toNat := by
  let p := roundPend s h f 0 ((roundsOf s h f).foldl putMirror [])
  let u := ((s.takeToken h).addPend p).later (.loadCompletion (s.takeToken h).fresh)
  have run : exec (.rndGet h f) s = .next (u.retireSeq h) := congrArg Host.Outcome.next (State.roundOp_ready ready (.rndGet h f) _ fits)
  obtain ⟨passed, up, retired⟩ := passes_beside (v := u) first h (.refl s) (.of_wgs rfl rfl rfl rfl rfl)
  refine ⟨_, p, run, passed, up, roundPend_underWay ?_, rfl, rfl, rfl, fun l hl r found => ?_⟩
  · rw [retired.pends, show s.fresh = (s.takeToken h).fresh by simp]
    exact tblFind_tblPut_self _ _ _
  · exact putMirrors_lane (by rw [roundsOf_lanes fits]; exact lanesOf_nodup _) (mem_roundsOf hl found) []

/-! ### rnd.adv (R228, R252, R260) -/

/-- The message of a lane of rnd.adv. -/
def roundMsg (f : FmtM) (own : List Nat) (id : Nat) (u : State) (x : Nat × Nat × Region) : Msg :=
  { u.newMsg (2 ^ 60) [] with kind := .round x.2.1 x.1 id, atHome := true, after := own, scope := f.scope.toNat, widen := true, overhead := overheadOf f.scope.toNat }

/-- R228, R252: what is said of the message of a lane. -/
structure Announces (f : FmtM) (own : List Nat) (id : Nat) (x : Nat × Nat × Region) (m : Msg) : Prop where
  kind : m.kind = .round x.2.1 x.1 id
  overhead : m.overhead = overheadOf f.scope.toNat
  widen : m.widen = true
  scope : m.scope = f.scope.toNat
  after : m.after = own

theorem roundMsgs_send (own : List Nat) (id : Nat) (L : List (Nat × Nat × Region)) (u : State) :
    Beside u (L.foldl (fun u x => u.sendMsg (roundMsg f own id u x)) u) ∧ MsgsKept u (L.foldl (fun u x => u.sendMsg (roundMsg f own id u x)) u) ∧
    ∀ x ∈ L, Sent' (L.foldl (fun u x => u.sendMsg (roundMsg f own id u x)) u) (Announces f own id x) := by
  induction L generalizing u with
  | nil => exact ⟨.refl u, .refl u, fun x hx => absurd hx List.not_mem_nil⟩
  | cons y r ih =>
    obtain ⟨beside, kept, sent⟩ := ih (u.sendMsg (roundMsg f own id u y))
    refine ⟨(Beside.sendMsg u _).trans beside, (MsgsKept.sendMsg u _).trans kept, fun x hx => ?_⟩
    rcases List.mem_cons.1 hx with rfl | later
    · exact kept.sent (State.sendMsg_sends u _ ⟨rfl, rfl, rfl, rfl, rfl⟩)
    · exact sent x later

/-- R228: what rnd.adv does with lanes that pass. -/
def advances (h : Hdr) (f : FmtM) (s : State) (act : BitVec 32) (l : List (Nat × Nat × Region)) : State :=
  if l.isEmpty then ((s.takeToken h).tickFresh.dropToken h).retireSeq h
  else
    let r := l.foldl (fun u x => u.sendMsg (roundMsg f (s.accessesOf act false) s.fresh u x)) (s.takeToken h).tickFresh
    { r with pends := tblPut (s.takeToken h).tickFresh.pends s.fresh { core := s.cur.core, slot := s.cur.slot, kind := 3, path := s.cur.path, lanes := s.cur.lanes, act := act, pos := s.cur.pos, tok := h.tok.toNat, size := 4, dst := f.data.toNat, wait := l.length } }.retireSeq h

theorem rndAdv_eq (s : State) (h : Hdr) (f : FmtM) : exec (.rndAdv h f) s = .next (s.roundOp h (.rndAdv h f) f (advances h f)) := by
  refine congrArg (fun k => Host.Outcome.next (s.roundOp h (.rndAdv h f) f k)) (funext fun u => funext fun act => funext fun l => ?_)
  cases l with
  | nil => rfl
  | cons x r => rfl

/-- The state in which the result of rnd.adv is under way. -/
def roundDone (s : State) (h : Hdr) (f : FmtM) (r : State) : State := { r with pends := tblPut (s.takeToken h).tickFresh.pends s.fresh (roundPend s h f (roundsOf s h f).length []) }

/-- R228: rnd.adv of lanes that pass. -/
theorem rndAdv_passes (first : First s) (ready : Ready s (s.active h) [.pair f.addr.toNat] (destRegs f 4) []) (fits : ∀ l ∈ lanesOf (s.active h), RoundFits s f l) (some' : s.active h ≠ 0) :
    ∃ t id p, exec (.rndAdv h f) s = .next t ∧ Passed s t h ∧ TokenUp s t h ∧ UnderWay s t h id p ∧ p.size = 4 ∧ p.dst = f.data.toNat ∧ p.wait = (lanesOf (s.active h)).length ∧
      ∀ l ∈ lanesOf (s.active h), ∀ r, s.regionAt s.curCtx (addrOf s f l) = some r → ∃ m ∈ t.msgs, Announces f (s.accessesOf (s.active h) false) id (l, r.1, r.2) m.2 := by
  have count : (roundsOf s h f).length = (lanesOf (s.active h)).length := by rw [← roundsOf_lanes fits, List.length_map]
  have busy : (roundsOf s h f).isEmpty = false := by
    rw [List.isEmpty_eq_false_iff]
    intro none'
    rw [none'] at count
    exact lanesOf_ne_nil some' (List.length_eq_zero_iff.1 count.symm)
  obtain ⟨beside, -, sent⟩ := roundMsgs_send (f := f) (s.accessesOf (s.active h) false) s.fresh (roundsOf s h f) (s.takeToken h).tickFresh
  have run : s.roundOp h (.rndAdv h f) f _ = _ := State.roundOp_ready ready (.rndAdv h f) (advances h f) fits
  rw [advances, busy, if_neg (by decide)] at run
  generalize (roundsOf s h f).foldl _ (s.takeToken h).tickFresh = r at beside sent run
  replace run : s.roundOp h (.rndAdv h f) f (advances h f) = (roundDone s h f r).retireSeq h := run
  have after : Beside (s.takeToken h) (roundDone s h f r) :=
    (Beside.of_wgs (s := s.takeToken h) (t := (s.takeToken h).tickFresh) rfl rfl rfl rfl rfl).trans (beside.trans (.of_wgs rfl rfl rfl rfl rfl))
  obtain ⟨passed, up, retired⟩ := passes_beside first h (.refl s) after
  refine ⟨_, s.fresh, roundPend s h f (roundsOf s h f).length [], (rndAdv_eq s h f).trans (congrArg Host.Outcome.next run), passed, up, roundPend_underWay ?_, rfl, rfl, count, fun l hl q found => ?_⟩
  · rw [retired.pends]
    exact tblFind_tblPut_self _ _ _
  · obtain ⟨k, m, -, there, tells⟩ := sent _ (mem_roundsOf hl found)
    rw [retired.state]
    exact ⟨(k, m), mem_of_tblFind there, tells⟩

end Round

end Sys2Proof.Machine

namespace Sys2Proof.Proofs.CacheOps

open Sys2Proof.Machine Sys2Proof.Claims

theorem roundInstructions : RoundInstructions := by
  intro s h f ⟨first, ready⟩ act region
  refine ⟨fun fits => ?_, fun a b l cut before here => ⟨?_, ?_⟩, fun a b l aligned cut before here => ⟨?_, ?_⟩⟩
  · have fits' (l : Nat) (hl : l ∈ lanesOf (s.active h)) : RoundFits s f l := by
      obtain ⟨aligned, below, found⟩ := fits l hl
      exact ⟨aligned, below, found⟩
    refine ⟨rndGet_passes first ready fits', fun some' => ?_⟩
    obtain ⟨t, id, p, run, passed, up, way, size, dst, wait, sends⟩ := rndAdv_passes first ready fits' some'
    refine ⟨t, id, p, run, passed, up, way, size, dst, wait, fun l hl r found => ?_⟩
    obtain ⟨m, hm, tells⟩ := sends l hl r found
    exact ⟨m, hm, tells.kind, tells.overhead, tells.widen, tells.scope, fun d hd => by rw [tells.after]; exact hd⟩
  · exact ⟨_, congrArg Host.Outcome.next (State.roundOp_misaligned ready (.rndGet h f) _ cut before here), raises first h _ _ (by decide)⟩
  · exact ⟨_, (rndAdv_eq s h f).trans (congrArg Host.Outcome.next (State.roundOp_misaligned ready (.rndAdv h f) (advances h f) cut before here)), raises first h _ _ (by decide)⟩
  · exact ⟨_, congrArg Host.Outcome.next (State.roundOp_outside ready (.rndGet h f) _ aligned cut before here), raises first h _ _ (by decide)⟩
  · exact ⟨_, (rndAdv_eq s h f).trans (congrArg Host.Outcome.next (State.roundOp_outside ready (.rndAdv h f) (advances h f) aligned cut before here)), raises first h _ _ (by decide)⟩

/-- Settles O19: the ranges or addresses pass their checks, each range or lane has its effect beside the threads, and the issue goes on with its result under way. -/
theorem cacheAndRoundInstructions : Obligations.CacheAndRoundInstructions := ⟨cacheOperations, roundInstructions⟩

end Sys2Proof.Proofs.CacheOps
end

section
/-! SUPPORT. The proxy instructions (R290-R295): leases, results under way, and ld.p of one lane. -/

namespace Sys2Proof.Machine

open Sys2Proof.Claims

/-! ### Leases (R276) -/

theorem State.modLease_self (s : State) (core ctx home : Nat) (f : Lease → Lease) : (s.modLease core ctx home f).lease core ctx home = f (s.lease core ctx home) := by
  rw [State.lease, State.modLease, s.modCore_self]
  exact tblGet_tblPut_self _ _ _ _

theorem Beside.modLease (s : State) (core ctx home : Nat) (f : Lease → Lease) : Beside s (s.modLease core ctx home f) := .modCore s core _

theorem Beside.modHome (s : State) (home : Nat) (f : Home → Home) : Beside s (s.modHome home f) := .of_wgs rfl rfl rfl rfl rfl

theorem State.modLease_home (s : State) (core ctx home d : Nat) (f : Lease → Lease) : (s.modLease core ctx home f).home d = s.home d := rfl

theorem State.modHome_lease (s : State) (home core ctx d : Nat) (f : Home → Home) : (s.modHome home f).lease core ctx d = s.lease core ctx d := rfl

theorem Retired.lease {s t : State} (r : Retired s t) (core ctx home : Nat) : t.lease core ctx home = s.lease core ctx home := by rw [State.lease, State.lease, r.core]

theorem Retired.home {s t : State} (r : Retired s t) (d : Nat) : t.home d = s.home d := by rw [State.home, State.home, r.homes]

/-- R276: a lease that may ask asks for what it lacks. -/
theorem State.askLease_spec (s : State) (core ctx home : Nat) : Beside s (s.askLease core ctx home) ∧ (s.askLease core ctx home).homes = s.homes ∧
    (s.askLease core ctx home).lease core ctx home = if (s.lease core ctx home).nums.length < 64 ∧ (s.lease core ctx home).asked = 0 then
      { s.lease core ctx home with asked := 64 - (s.lease core ctx home).nums.length, refused := false } else s.lease core ctx home := by
  unfold State.askLease
  dsimp only
  by_cases may : (s.lease core ctx home).nums.length < 64 ∧ (s.lease core ctx home).asked = 0
  · rw [if_neg (by simp [may.1, may.2]), if_pos may]
    exact ⟨(Beside.modLease s core ctx home (fun l => { l with asked := 64 - l.nums.length, refused := false })).trans (.of_wgs rfl rfl rfl rfl rfl), rfl, s.modLease_self core ctx home (fun l => { l with asked := 64 - l.nums.length, refused := false })⟩
  · rw [if_pos, if_neg may]
    · exact ⟨.refl s, rfl, rfl⟩
    · rw [not_and_or, not_lt] at may
      simpa [or_comm] using may

/-- The events that a home tries again change nothing beside the agenda. -/
theorem State.regrant_agenda (s : State) (home ctx : Nat) : s.regrant home ctx = { s with agenda := (s.regrant home ctx).agenda } := by
  unfold State.regrant
  refine List.foldlRecOn (motive := fun (t : State) => t = { s with agenda := t.agenda }) _ _ rfl fun t ht r _ => ?_
  rw [State.now, ht]

theorem tblGet_foldl_put {α β : Type} (d : β) (key : α → Nat) (val : α → β) (l : List α) (t : Tbl β) {n : Nat} :
    (∃ a ∈ l, key a = n ∧ tblGet d (l.foldl (fun t a => tblPut t (key a) (val a)) t) n = val a) ∨
    (∀ a ∈ l, key a ≠ n) ∧ tblGet d (l.foldl (fun t a => tblPut t (key a) (val a)) t) n = tblGet d t n := by
  induction l generalizing t with
  | nil => exact .inr ⟨fun a ha => absurd ha List.not_mem_nil, rfl⟩
  | cons a r ih =>
    rcases ih (tblPut t (key a) (val a)) with ⟨b, hb, there, is⟩ | ⟨out, is⟩
    · exact .inl ⟨b, List.mem_cons_of_mem _ hb, there, is⟩
    · by_cases here : key a = n
      · refine .inl ⟨a, List.mem_cons_self, here, is.trans ?_⟩
        rw [← here]
        exact tblGet_tblPut_self _ _ _ _
      · refine .inr ⟨fun b hb => ?_, is.trans (tblGet_tblPut_other _ _ _ fun e => here e.symm)⟩
        rcases List.mem_cons.1 hb with rfl | rest
        · exact here
        · exact out b rest

/-- R294: every number of the lease goes back to its home. -/
theorem State.returnLease_spec (s : State) (core ctx home : Nat) : Beside s (s.returnLease core ctx home) ∧ ((s.returnLease core ctx home).lease core ctx home).nums = [] ∧
    ∀ n ∈ (s.lease core ctx home).nums, (tblGet {} ((s.returnLease core ctx home).home home).slots n.1).st = 0 := by
  unfold State.returnLease
  dsimp only
  by_cases none' : (s.lease core ctx home).nums = []
  · rw [if_pos (by rw [none']; rfl)]
    exact ⟨.refl s, none', fun n hn => by rw [none'] at hn; exact absurd hn List.not_mem_nil⟩
  · rw [if_neg (by simpa using none')]
    let u := (s.modLease core ctx home (fun l => { l with nums := [] })).modHome home (fun h => { h with slots := (s.lease core ctx home).nums.foldl (fun t k => tblPut t k.1 { gen := k.2 }) h.slots })
    have same : u.regrant home ctx = _ := u.regrant_agenda home ctx
    have beside : Beside s u := (Beside.modLease s core ctx home _).trans (.modHome _ home _)
    show Beside s (u.regrant home ctx) ∧ ((u.regrant home ctx).lease core ctx home).nums = [] ∧ ∀ n ∈ (s.lease core ctx home).nums, (tblGet {} ((u.regrant home ctx).home home).slots n.1).st = 0
    rw [same]
    refine ⟨beside.trans (.of_wgs rfl rfl rfl rfl rfl), congrArg Lease.nums (s.modLease_self core ctx home (fun l => { l with nums := [] })), fun n hn => ?_⟩
    show (tblGet {} (u.home home).slots n.1).st = 0
    rw [State.modHome_self]
    rcases tblGet_foldl_put ({} : SbSlot) (fun k : Nat × Nat => k.1) (fun k => ({ gen := k.2 } : SbSlot)) (s.lease core ctx home).nums
        ((s.modLease core ctx home (fun l => { l with nums := [] })).home home).slots (n := n.1) with ⟨m, -, -, is⟩ | ⟨out, -⟩
    · rw [is]
    · exact absurd rfl (out n hn)

/-! ### A result under way (R50) -/

/-- The result of an issue, before its writes. -/
def issuePend (s : State) (h : Hdr) : Pend :=
  { core := s.cur.core, slot := s.cur.slot, kind := 0, path := s.cur.path, lanes := s.cur.lanes, act := s.active h, pos := s.cur.pos, tok := h.tok.toNat }

/-- The fields of a result that name its issue. -/
structure OfIssue (s : State) (h : Hdr) (p : Pend) : Prop where
  core : p.core = s.cur.core
  slot : p.slot = s.cur.slot
  path : p.path = s.cur.path
  lanes : p.lanes = s.cur.lanes
  act : p.act = s.active h
  pos : p.pos = s.cur.pos
  tok : p.tok = h.tok.toNat
  traps : p.traps = 0
  bad : p.bad = none

theorem OfIssue.underWay {s t : State} {h : Hdr} {p : Pend} (is : OfIssue s h p) {id : Nat} (found : tblFind t.pends id = some p) : UnderWay s t h id p :=
  ⟨found, is.core, is.slot, is.path, is.lanes, is.act, is.pos, is.tok, is.traps, fun _ => is.bad⟩

/-- R20, R50: a result of fixed latency. -/
theorem fixed_passes {s : State} (first : First s) (h : Hdr) (n : Nat) {p : Pend} (is : OfIssue s h p) :
    Passed s (((s.takeToken h).pendFixed n p).retireSeq h) h ∧ TokenUp s (((s.takeToken h).pendFixed n p).retireSeq h) h ∧
    UnderWay s (((s.takeToken h).pendFixed n p).retireSeq h) h s.fresh { p with due := (s.core s.cur.core).cycles + n } := by
  obtain ⟨passed, up, retired⟩ := passes_beside first h (.refl s) (.pendFixed (s.takeToken h) n p)
  have is' : OfIssue s h { p with due := (s.core s.cur.core).cycles + n } := ⟨is.core, is.slot, is.path, is.lanes, is.act, is.pos, is.tok, is.traps, is.bad⟩
  refine ⟨passed, up, is'.underWay ?_⟩
  rw [retired.pends]
  have found : tblFind ((s.takeToken h).pendFixed n p).pends (s.takeToken h).fresh = some { p with due := ((s.takeToken h).core p.core).cycles + n } := tblFind_tblPut_self _ _ _
  simpa [is.core] using found

/-! ### ld.p of one lane (R290) -/

theorem KeepsThreads.thread {s t : State} (h : KeepsThreads s t) (c q l : Nat) : t.thread c q l = s.thread c q l := by
  rw [State.thread, State.thread, Group.thread, Group.thread, h.threads]

/-- A slot of a home has been taken from its lease, of which r is left. -/
def slotTaken (s : State) (home n : Nat) (r : List (Nat × Nat)) : State :=
  (s.modLease s.cur.core s.curCtx home (fun l => { l with nums := r })).modHome home (fun h => { h with slots := tblPut h.slots n { tblGet {} h.slots n with st := 2, ctx := s.curCtx, full := false } })

/-- R290: the lanes then hold the numbers q. -/
def numbered (s : State) (home n : Nat) (r : List (Nat × Nat)) (q : List (Nat × Nat × Nat × Nat)) : State := { slotTaken s home n r with cur := { s.cur with slots := q } }

theorem Beside.slotTaken (s : State) (home n : Nat) (r : List (Nat × Nat)) : Beside s (slotTaken s home n r) :=
  (Beside.modLease s s.cur.core s.curCtx home (fun l => { l with nums := r })).trans (.of_wgs rfl rfl rfl rfl rfl)

theorem State.takeNumbers_one {s : State} (slots : s.cur.slots = []) {x : Acc} {n g : Nat} {r : List (Nat × Nat)} (nums : (s.lease s.cur.core s.curCtx (stackOf x.pa)).nums = (n, g) :: r) :
    s.takeNumbers [x] = numbered s (stackOf x.pa) n r [(x.lane, stackOf x.pa, n, g)] ∧ (s.takeNumbers [x]).shortHomes [x] = [] := by
  have run : s.takeNumbers [x] = numbered s (stackOf x.pa) n r [(x.lane, stackOf x.pa, n, g)] := by
    have same : ({ s with cur := { s.cur with slots := [] } } : State) = s := by rw [← slots]
    unfold State.takeNumbers
    rw [slots]
    simp only [List.filter_nil, List.foldl_nil, List.foldl_cons]
    rw [same, State.hasNumber, slots, State.takeSlot, nums]
    simp only [List.any_nil, Bool.false_eq_true, if_false]
    have added : s.cur.slots ++ [(x.lane, stackOf x.pa, n, g)] = [(x.lane, stackOf x.pa, n, g)] := by rw [slots, List.nil_append]
    exact congrArg (numbered s (stackOf x.pa) n r) added
  refine ⟨run, ?_⟩
  rw [run, State.shortHomes]
  simp [State.hasNumber, numbered]

/-- The operation that reads the element of ld.p at its home. -/
def elemOp (s : State) (h : Hdr) (f : FmtM) (x : Acc) (n : Nat) (after : List Nat) : HomeOp :=
  { stack := stackOf x.pa, res := some n, instr := .ldP h f, args := [], flags := 0, ctx := s.curCtx, wg := s.curWg, slot := s.cur.slot, core := s.cur.core, lane := x.lane, pos := s.cur.pos, elem := some x.pa, after := after }

/-- R290: the home of the element is asked. -/
def elemSent (s : State) (h : Hdr) (f : FmtM) (x : Acc) (n : Nat) (after : List Nat) : State :=
  ({ s with homeOps := tblPut s.homeOps s.fresh (elemOp s h f x n after) }.later (.homeOperationExecute s.fresh)).tickFresh

/-- R290: a lane that holds a number names its slot: the home will read the element and the lane holds the proxy word. -/
def named (s : State) (h : Hdr) (f : FmtM) (x : Acc) (n g : Nat) (after : List Nat) : State :=
  (elemSent s h f x n after).writeReg s.cur.core s.cur.slot x.lane f.data.toNat (proxyWord (stackOf x.pa) n g) true

theorem ldpLane_named {s : State} {x : Acc} {n g : Nat} (h : Hdr) (f : FmtM) (slots : s.cur.slots = [(x.lane, stackOf x.pa, n, g)]) :
    ∃ after, State.ldpLane h f (s, []) x = (named { s with cur := { s.cur with slots := [] } } h f x n g after, []) := by
  unfold State.ldpLane State.resultSlot
  dsimp only
  rw [slots]
  simp only [List.find?_cons, List.find?_nil, decide_true, List.filter_cons, List.filter_nil, ne_eq, not_true_eq_false, decide_false, Bool.false_eq_true, if_false]
  exact ⟨_, rfl⟩

theorem Beside.elemSent (s : State) (h : Hdr) (f : FmtM) (x : Acc) (n : Nat) (after : List Nat) : Beside s (elemSent s h f x n after) := .of_wgs rfl rfl rfl rfl rfl

/-- R290: what the pre-step of naming leaves. -/
structure LdpDone (s t : State) (h : Hdr) (f : FmtM) (x : Acc) (n g : Nat) : Prop where
  mem : t.mem = s.mem
  rwc : (t.wg s.curWg).rwc = (s.wg s.curWg).rwc + 1
  reg : (t.thread s.cur.core s.cur.slot x.lane).reg f.data.toNat = ⟨proxyWord (stackOf x.pa) n g, true⟩
  pos : (t.thread s.cur.core s.cur.slot x.lane).pos = seqPos s.cur.pos
  slot : (tblGet {} (t.home (stackOf x.pa)).slots n).st = 2
  asked : ∃ q ∈ t.homeOps, q.2.res = some n ∧ q.2.elem = some x.pa ∧ q.2.stack = stackOf x.pa

/-- R290: a lane that has taken a number names its slot and goes on. -/
theorem ldpName_one {s : State} {h : Hdr} {f : FmtM} {x : Acc} {n g : Nat} {r : List (Nat × Nat)} (first : First s) (active : s.cur.lanes.getLsbD x.lane = true) (some' : f.data ≠ 0x1FE)
    (inside : x.lane < (s.group s.cur.core s.cur.slot).threads.length) :
    LdpDone s ((numbered s (stackOf x.pa) n r [(x.lane, stackOf x.pa, n, g)]).ldpName h f [x]) h f x n g := by
  let a := numbered s (stackOf x.pa) n r [(x.lane, stackOf x.pa, n, g)]
  let b := (framesOf ([x].map Acc.pa)).foldl (fun u fr => u.flushGather (Config.dieOfCore u.cur.core) fr) (a.takeToken h)
  let c : State := { b with cur := { b.cur with slots := [] } }
  have sends : Sends (a.takeToken h) b := .foldl (fun u fr => .flushGather u _ fr []) _ _
  have cur : b.cur = { s.cur with slots := [(x.lane, stackOf x.pa, n, g)] } := by
    rw [sends.cur]
    simp [a, numbered]
  have slot : (tblGet {} (c.home (stackOf x.pa)).slots n).st = 2 := by
    have homes : c.home (stackOf x.pa) = a.home (stackOf x.pa) := by
      show b.home _ = _
      rw [State.home, sends]
      show (a.takeToken h).home _ = _
      simp
    rw [homes]
    show (tblGet {} ((slotTaken s (stackOf x.pa) n r).home (stackOf x.pa)).slots n).st = 2
    rw [slotTaken, State.modHome_self, tblGet_tblPut_self]
  obtain ⟨after, lane⟩ := ldpLane_named h f (s := b) (x := x) (n := n) (g := g) (by rw [cur])
  have keeps : KeepsThreads s c := by
    have start : KeepsThreads s a := (Issuing.of_beside (.slotTaken s (stackOf x.pa) n r)).keeps.trans (.of_groups (t := a) rfl rfl (fun _ => rfl) rfl)
    exact start.trans ((Issuing.takeToken a h).keeps.trans (KeepsThreads.trans (t := b) (.of_groups (by rw [sends]) (by rw [sends]) (fun w => by rw [sends]; rfl) sends.groups) (.of_groups rfl rfl (fun _ => rfl) rfl)))
  have own : c.cur = s.cur := by
    show ({ b.cur with slots := [] } : Issue) = _
    rw [cur, ← first.2.2.2.1]
  have present : c.hasGroup c.cur.core c.cur.slot = true := by rw [own, keeps.present]; exact first.2.2.2.2.2
  have asked := Beside.elemSent c h f x n after
  let d := named c h f x n g after
  have step : LandStep (elemSent c h f x n after) d s.cur.core s.cur.slot (fun l t => if x.lane == l then t.putReg f.data.toNat ⟨proxyWord (stackOf x.pa) n g, true⟩ else t) := by
    rw [← own]
    exact .writeReg (elemSent c h f x n after) (by rw [asked.present]; exact present) _ _ _ _
  have before : KeepsThreads s (elemSent c h f x n after) := keeps.trans (Issuing.of_beside asked).keeps
  have drop := Issuing.dropToken d h
  have run : a.ldpName h f [x] = (d.dropToken h).retireSeq h := by
    unfold State.ldpName
    dsimp only
    rw [List.foldl_cons, List.foldl_nil, show State.ldpLane h f (b, []) x = (d, []) from lane]
    rfl
  have dcur : (d.dropToken h).cur = s.cur := drop.cur.trans (step.cur.trans (asked.cur.trans own))
  have lanes : LanesStep s (d.dropToken h) s.cur.core s.cur.slot (fun l t => if x.lane == l then t.putReg f.data.toNat ⟨proxyWord (stackOf x.pa) n g, true⟩ else t) :=
    ⟨drop.keeps.mem.trans (step.lanes.mem.trans before.mem), drop.keeps.hostMem.trans (step.lanes.hostMem.trans before.hostMem),
      fun w => (drop.keeps.rwc w).trans ((step.lanes.rwc w).trans (before.rwc w)), fun c q ne => (drop.keeps.threads c q).trans ((step.lanes.others c q ne).trans (before.threads c q)),
      fun l hl => (drop.keeps.thread _ _ l).trans ((step.thread l (by rw [before.threads]; exact hl)).trans (by rw [before.thread]))⟩
  have moved := lanes.moved (e := fun l t => if x.lane == l then t.putReg f.data.toNat ⟨proxyWord (stackOf x.pa) n g, true⟩ else t) first.2.2.2.2.2 dcur
    (by rw [drop.keeps.present, step.present, before.present]; exact first.2.2.2.2.2) (by rw [drop.keeps.owner, step.here]; exact before.owner _ _)
    (by rw [drop.keeps.threads, step.length, before.threads]) h (fun _ => seqPos s.cur.pos) (fun l _ => ?_) fun l out => ?_
  · have retired : Retired (d.dropToken h) ((d.dropToken h).retireSeq h) := .retireSeq _ h (by rw [dcur]; exact first.1)
    have same : (d.dropToken h).retireSeq h = (d.dropToken h).retire h (fun _ => seqPos s.cur.pos) := by rw [State.retireSeq, dcur]
    rw [run]
    obtain ⟨⟨mem, -, -⟩, rwc, threads⟩ := same ▸ moved
    have at_l := threads x.lane inside
    rw [if_pos active] at at_l
    dsimp only at at_l
    rw [if_pos (beq_self_eq_true x.lane)] at at_l
    refine ⟨mem, rwc, ?_, ?_, ?_, ?_⟩
    · rw [at_l, Thread.putReg_reg, if_pos ⟨rfl, fun e => some' (BitVec.eq_of_toNat_eq e)⟩]
    · rw [at_l, Thread.putReg_regs]
    · rw [retired.home, show (d.dropToken h).home = d.home by simp, State.home, step.state]
      exact slot
    · refine ⟨(c.fresh, elemOp c h f x n after), ?_, rfl, rfl, rfl⟩
      rw [retired.state, d.dropToken_groups h, step.state]
      exact mem_of_tblFind (tblFind_tblPut_self _ _ _)
  · by_cases e : (x.lane == l) = true
    · rw [if_pos e, if_pos e, Thread.putReg, Thread.putReg]
      split <;> rfl
    · rw [if_neg e, if_neg e]
  · rw [if_neg]
    intro e
    rw [beq_iff_eq] at e
    rw [← e, active] at out
    cases out

end Sys2Proof.Machine
end

section
namespace Sys2Proof.Machine

open Sys2Proof.Claims

theorem dstRegs_single (r : BitVec 9) : dstRegs r.toNat false = if r = 0x1FE then [] else [r.toNat] := by
  have same : (r.toNat = 0x1FE) = (r = 0x1FE) := propext ⟨fun e => BitVec.eq_of_toNat_eq e, fun e => by rw [e]; rfl⟩
  simp only [dstRegs, same, Bool.false_eq_true, if_false]

theorem dstRegs_item (r : BitVec 9) (pair : Prop) [Decidable pair] :
    dstRegs r.toNat (Decidable.decide pair) = if r = 0x1FE then [] else if pair then [r.toNat, r.toNat + 1] else [r.toNat] := by
  have same : (r.toNat = 0x1FE) = (r = 0x1FE) := propext ⟨fun e => BitVec.eq_of_toNat_eq e, fun e => by rw [e]; rfl⟩
  simp only [dstRegs, same, decide_eq_true_eq]

/-- The waits of a group stand while its token rises. -/
theorem State.takeToken_waits (s : State) (h : Hdr) (c q : Nat) : ((s.takeToken h).group c q).waits = (s.group c q).waits := by
  unfold State.takeToken State.tokUp
  split
  · split
    · rfl
    · by_cases present : s.hasGroup s.cur.core s.cur.slot = true
      · by_cases e : gkey c q = gkey s.cur.core s.cur.slot
        · have same (u : State) : u.group c q = u.group s.cur.core s.cur.slot := by rw [State.group, State.group, e]
          rw [same, same, State.modGroup_self _ _ present]
        · rw [State.modGroup_other _ _ e]
      · rw [State.modGroup, if_neg present]
  · rfl

/-- A wait joins those of a group. -/
def State.joinWait (s : State) (core slot : Nat) (w : Waiting) : State := (s.modGroup core slot (fun g => { g with waits := g.waits ++ [w] })).tickFresh

theorem State.joinWait_spec (s : State) {core slot : Nat} (w : Waiting) (present : s.hasGroup core slot = true) : KeepsThreads s (s.joinWait core slot w) ∧
    (∀ k, ((s.joinWait core slot w).group core slot).token k = (s.group core slot).token k) ∧ ((s.joinWait core slot w).group core slot).waits = (s.group core slot).waits ++ [w] ∧
    (s.joinWait core slot w).core = s.core := by
  have self := s.modGroup_self (core := core) (slot := slot) (fun g => { g with waits := g.waits ++ [w] }) present
  have same : SameThreads s (s.modGroup core slot (fun g => { g with waits := g.waits ++ [w] })) := .modGroup s _ _ _
  refine ⟨same.keeps.trans (.of_groups rfl rfl (fun _ => rfl) rfl), fun k => ?_, ?_, ?_⟩
  · show ((s.modGroup core slot _).group core slot).token k = _
    rw [self]
    rfl
  · show ((s.modGroup core slot _).group core slot).waits = _
    rw [self]
  · funext c
    rw [State.joinWait]
    simp

end Sys2Proof.Machine

namespace Sys2Proof.Proofs.Proxies

open Sys2Proof.Machine Sys2Proof.Claims

theorem not_idle {m : BitVec 32} {b : Bool} (some' : m ≠ 0) (plain : b = false) : ¬ (Decidable.decide (m = 0) || b) = true := by
  rw [plain, Bool.or_false, decide_eq_true_eq]
  exact some'

section

variable {s : State} {h : Hdr} (first : First s)
include first

/-- R291. -/
theorem mat_passes (a : FmtA) (ready : Ready s (s.active h) [.reg a.a.toNat] (if a.dst = 0x1FE then [] else [a.dst.toNat]) []) :
    PassesTo s h (exec (.mat h a) s) (fun t => TokenUp s t h ∧ ∃ p, UnderWay s t h s.fresh p ∧ p.size = 0 ∧ p.writes =
      ((lanesOf (s.active h)).map (fun l => laneWrites l a.dst.toNat false (s.selWord l a.a.toNat).toNat false)).flatten) := by
  let p : Pend := { issuePend s h with kind := 5, writes := ((lanesOf (s.active h)).map (fun l => laneWrites l a.dst.toNat false (s.selWord l a.a.toNat).toNat false)).flatten }
  let u := ((s.takeToken h).addPend p).later (.loadCompletion (s.takeToken h).fresh)
  have run : exec (.mat h a) s = .next (u.retireSeq h) := by
    show Host.Outcome.next _ = _
    rw [dstRegs_single, State.withOperands_ready _ _ _ _ _ _ _ _ _ _ ready]
    dsimp only
    rw [if_neg (by rw [first.1]; decide)]
    rfl
  obtain ⟨passed, up, retired⟩ := passes_beside (v := u) first h (.refl s) (.of_wgs rfl rfl rfl rfl rfl)
  have is : OfIssue s h p := ⟨rfl, rfl, rfl, rfl, rfl, rfl, rfl, rfl, rfl⟩
  refine ⟨_, run, passed, up, p, is.underWay ?_, rfl, rfl⟩
  rw [retired.pends, show s.fresh = (s.takeToken h).fresh by simp]
  exact tblFind_tblPut_self _ _ _

/-- R292. -/
theorem pxrel_passes (e : FmtE) (ready : Ready s (s.active h) [] ((List.range (e.par.toNat % 512)).map (fun j => e.a.toNat + j)) []) :
    PassesTo s h (exec (.pxrel h e) s) (fun t => TokenUp s t h ∧ ∃ p, UnderWay s t h s.fresh p ∧ p.kind = 0 ∧ p.due = (s.core s.cur.core).cycles + 4 ∧
      p.writes = ((lanesOf (s.active h)).map (fun l => ((List.range (e.par.toNat % 512)).map (fun j => e.a.toNat + j)).map (fun r => (⟨l, r, 0, false⟩ : LaneWrite)))).flatten) := by
  have run : exec (.pxrel h e) s = .next _ := congrArg Host.Outcome.next (State.withOperands_ready s h (.pxrel h e) (s.active h) [] _ [] stayNone 0 _ ready)
  obtain ⟨passed, up, way⟩ := fixed_passes first h 4 (p := { issuePend s h with writes := ((lanesOf (s.active h)).map (fun l => ((List.range (e.par.toNat % 512)).map (fun j => e.a.toNat + j)).map
    (fun r => (⟨l, r, 0, false⟩ : LaneWrite)))).flatten }) ⟨rfl, rfl, rfl, rfl, rfl, rfl, rfl, rfl, rfl⟩
  exact ⟨_, run, passed, up, _, way, rfl, rfl, rfl⟩

section Asks

variable (e : FmtE) (some' : s.active h ≠ 0) (plain : s.replaying s.curWg = false)
include some' plain

/-- R293: the items that a home answers. -/
theorem pxq_asks (ready : Ready s (s.active h) [] (dstRegs e.a.toNat (e.handle.toNat % 16 ≥ 3)) []) (asks : e.handle.toNat % 16 < 3) :
    PassesTo s h (exec (.pxq h e) s) (fun t => ∃ p q, UnderWay s t h s.fresh p ∧ p.wait = 1 ∧ q ∈ t.homeOps ∧ q.2.stack = e.par.toNat % 16 ∧
      q.2.flags = e.handle.toNat % 16 ∧ q.2.msg = some s.fresh) := by
  let p : Pend := { issuePend s h with kind := 5, wait := 1, dst := e.a.toNat, writes := ((lanesOf (s.active h)).map (fun l => laneWrites l e.a.toNat false 0 false)).flatten }
  let op : HomeOp := { stack := e.par.toNat % 16, res := none, instr := .pxq h e, args := [], flags := e.handle.toNat % 16, ctx := s.curCtx, wg := s.curWg, slot := s.cur.slot, core := s.cur.core, lane := 0, pos := s.cur.pos, msg := some (s.takeToken h).fresh }
  let v := (s.takeToken h).addPend p
  let u := ({ v with homeOps := tblPut v.homeOps v.fresh op }.later (.homeOperationExecute v.fresh)).tickFresh
  have run : exec (.pxq h e) s = .next (u.retireSeq h) := by
    show Host.Outcome.next _ = _
    rw [State.withOperands_ready _ _ _ _ _ _ _ _ _ _ ready]
    dsimp only
    rw [if_neg some', if_pos (by rw [plain]; simpa using asks)]
    rfl
  obtain ⟨passed, up, retired⟩ := passes_beside (v := u) first h (.refl s) (.of_wgs rfl rfl rfl rfl rfl)
  have is : OfIssue s h p := ⟨rfl, rfl, rfl, rfl, rfl, rfl, rfl, rfl, rfl⟩
  have fresh : (s.takeToken h).fresh = s.fresh := by simp
  refine ⟨_, run, passed, p, (v.fresh, op), is.underWay ?_, rfl, ?_, rfl, rfl, congrArg some fresh⟩
  · rw [retired.pends, ← fresh]
    exact tblFind_tblPut_self _ _ _
  · rw [retired.state]
    exact mem_of_tblFind (tblFind_tblPut_self _ _ _)

/-- R293: the items that count crossings. -/
theorem pxq_counts (ready : Ready s (s.active h) [] (dstRegs e.a.toNat (e.handle.toNat % 16 ≥ 3)) []) (low : 3 ≤ e.handle.toNat % 16) (high : e.handle.toNat % 16 ≤ 6) :
    PassesTo s h (exec (.pxq h e) s) (fun t => ∃ p, UnderWay s t h s.fresh p ∧ p.due = (s.core s.cur.core).cycles + 8 ∧
      p.writes = ((lanesOf (s.active h)).map (fun l => laneWrites l e.a.toNat true (if e.handle.toNat % 16 = 3 then (s.ctx s.curCtx).ximp else if e.handle.toNat % 16 = 4 then
        (s.ctx s.curCtx).xexp else if e.handle.toNat % 16 = 5 then (s.ctx s.curCtx).xauto else (s.ctx s.curCtx).pauto).toNat false)).flatten) := by
  let v := (if e.handle.toNat % 16 = 3 then (s.ctx s.curCtx).ximp else if e.handle.toNat % 16 = 4 then (s.ctx s.curCtx).xexp else if e.handle.toNat % 16 = 5 then (s.ctx s.curCtx).xauto else (s.ctx s.curCtx).pauto).toNat
  let p : Pend := { issuePend s h with dst := e.a.toNat, writes := ((lanesOf (s.active h)).map (fun l => laneWrites l e.a.toNat true v false)).flatten }
  have run : exec (.pxq h e) s = .next (((s.takeToken h).pendFixed 8 p).retireSeq h) := by
    show Host.Outcome.next _ = _
    rw [State.withOperands_ready _ _ _ _ _ _ _ _ _ _ ready]
    dsimp only
    rw [if_neg some', if_neg (by simpa using fun less => absurd less (not_lt.2 low))]
    obtain is | is | is | is : e.handle.toNat % 16 = 3 ∨ e.handle.toNat % 16 = 4 ∨ e.handle.toNat % 16 = 5 ∨ e.handle.toNat % 16 = 6 := by omega
    all_goals
      simp only [p, v, is]
      rfl
  obtain ⟨passed, -, way⟩ := fixed_passes first h 8 (p := p) ⟨rfl, rfl, rfl, rfl, rfl, rfl, rfl, rfl, rfl⟩
  exact ⟨_, run, passed, _, way, rfl, rfl⟩

/-- R294: a lease that holds the numbers asked for. -/
theorem pxlease_holds (enough : e.par.toNat % 128 ≤ (s.lease s.cur.core s.curCtx (e.handle.toNat % 16)).nums.length) :
    PassesTo s h (exec (.pxlease h e) s) (fun t => TokensKept s t) := by
  obtain ⟨beside, -, lease⟩ := s.askLease_spec s.cur.core s.curCtx (e.handle.toNat % 16)
  have ctx : (s.askLease s.cur.core s.curCtx (e.handle.toNat % 16)).curCtx = s.curCtx := by
    unfold State.askLease
    dsimp only
    split <;> rfl
  have nums : ((s.askLease s.cur.core s.curCtx (e.handle.toNat % 16)).lease s.cur.core s.curCtx (e.handle.toNat % 16)).nums = (s.lease s.cur.core s.curCtx (e.handle.toNat % 16)).nums := by
    rw [lease]
    split <;> rfl
  have run : exec (.pxlease h e) s = .next ((s.askLease s.cur.core s.curCtx (e.handle.toNat % 16)).retireSeq h) := by
    show execPxlease h e s = _
    unfold execPxlease
    dsimp only
    rw [if_neg (by rw [first.1]; decide), if_neg (not_idle some' plain), ctx, if_pos (by rw [nums]; exact enough)]
  obtain ⟨passed, kept, -⟩ := retires_beside first h beside
  exact ⟨_, run, passed, kept⟩

/-- R294: a lease that lacks numbers asks for them, and the instruction keeps its token raised. -/
theorem pxlease_waits (lacks : (s.lease s.cur.core s.curCtx (e.handle.toNat % 16)).nums.length < e.par.toNat % 128) (idle : (s.lease s.cur.core s.curCtx (e.handle.toNat % 16)).asked = 0)
    (room : (s.lease s.cur.core s.curCtx (e.handle.toNat % 16)).nums.length < 64) : PassesTo s h (exec (.pxlease h e) s) (fun t => TokenUp s t h ∧
      (t.lease s.cur.core s.curCtx (e.handle.toNat % 16)).asked = 64 - (s.lease s.cur.core s.curCtx (e.handle.toNat % 16)).nums.length ∧
      ∃ w, (t.group s.cur.core s.cur.slot).waits = (s.group s.cur.core s.cur.slot).waits ++ [w] ∧ w.cond = .lease (e.handle.toNat % 16) (e.par.toNat % 128) ∧ w.iss.lanes = 0) := by
  obtain ⟨beside, -, lease⟩ := s.askLease_spec s.cur.core s.curCtx (e.handle.toNat % 16)
  rw [if_pos ⟨room, idle⟩] at lease
  have ctx : (s.askLease s.cur.core s.curCtx (e.handle.toNat % 16)).curCtx = s.curCtx := by
    unfold State.askLease
    dsimp only
    split <;> rfl
  let u := s.askLease s.cur.core s.curCtx (e.handle.toNat % 16)
  let t := (u.takeToken h).retireSeq h
  let w : Waiting := ⟨t.fresh, { s.cur with lanes := 0, phase := 1 }, .pxlease h e, .lease (e.handle.toNat % 16) (e.par.toNat % 128), 7⟩
  have run : exec (.pxlease h e) s = .next (t.joinWait s.cur.core s.cur.slot w) := by
    show execPxlease h e s = _
    unfold execPxlease
    dsimp only
    rw [if_neg (by rw [first.1]; decide), if_neg (not_idle some' plain), ctx, if_neg]
    · rfl
    · rw [lease]
      exact not_le.2 lacks
  obtain ⟨passed, up, retired⟩ := passes_beside first h beside (.refl (u.takeToken h))
  have present : t.hasGroup s.cur.core s.cur.slot = true := by
    rw [retired.present, (SameThreads.takeToken u h).present, beside.present]
    exact first.2.2.2.2.2
  obtain ⟨keeps, token, waits, core⟩ := t.joinWait_spec w present
  refine ⟨_, run, keeps.after passed, fun k => (token k).trans (up k), ?_, w, ?_, rfl, rfl⟩
  · have same : (t.joinWait s.cur.core s.cur.slot w).lease s.cur.core s.curCtx (e.handle.toNat % 16) = u.lease s.cur.core s.curCtx (e.handle.toNat % 16) := by
      rw [State.lease, core, ← State.lease, retired.lease, State.lease, show (u.takeToken h).core = u.core by simp]
      rfl
    rw [same, show u.lease s.cur.core s.curCtx (e.handle.toNat % 16) = _ from lease]
  · rw [waits, retired.waits, u.takeToken_waits, beside.group]

/-- R294: every number of the lease goes back. -/
theorem pxleaseRet_passes : PassesTo s h (exec (.pxleaseRet h e) s) (fun t => (t.lease s.cur.core s.curCtx (e.handle.toNat % 16)).nums = [] ∧
    ∀ n ∈ (s.lease s.cur.core s.curCtx (e.handle.toNat % 16)).nums, (tblGet {} (t.home (e.handle.toNat % 16)).slots n.1).st = 0) := by
  obtain ⟨beside, nums, free⟩ := s.returnLease_spec s.cur.core s.curCtx (e.handle.toNat % 16)
  obtain ⟨passed, -, retired⟩ := retires_beside first h beside
  refine ⟨_, ?_, passed, ?_, fun n hn => ?_⟩
  · show execPxleaseRet h e s = _
    unfold execPxleaseRet
    rw [if_neg (not_idle some' plain)]
  · rw [retired.lease]
    exact nums
  · rw [retired.home]
    exact free n hn

end Asks

/-- R290: ld.p of one active lane whose lease holds a number. -/
theorem ldP_names {m : FmtM} (plain : s.replaying s.curWg = false) (ready : Ready s (s.active h) [.pair m.addr.toNat] (destRegs m 4) []) {l pa en n g : Nat} (one : lanesOf (s.active h) = [l]) (some' : m.data ≠ 0x1FE)
    (ok : s.checkG .element 4 4 (addrs s h m) = .ok [⟨l, addrOf s m l, pa, en⟩]) (number : (s.lease s.cur.core s.curCtx (pa / 2 ^ 36 % 16)).nums.head? = some (n, g))
    (inside : l < (s.group s.cur.core s.cur.slot).threads.length) : ∃ t, exec (.ldP h m) s = .next t ∧ LdpDone s t h m ⟨l, addrOf s m l, pa, en⟩ n g := by
  let x : Acc := ⟨l, addrOf s m l, pa, en⟩
  obtain ⟨r, nums⟩ : ∃ r, (s.lease s.cur.core s.curCtx (stackOf x.pa)).nums = (n, g) :: r := by
    obtain ⟨r, is⟩ := List.head?_eq_some_iff.1 number
    exact ⟨r, is⟩
  obtain ⟨taken, short⟩ := State.takeNumbers_one first.2.2.2.1 nums
  have active : s.cur.lanes.getLsbD l = true := s.active_lane first.1 h (mem_lanesOf.1 (by rw [one]; exact List.mem_cons_self))
  refine ⟨_, ?_, ldpName_one (h := h) (f := m) (x := x) (n := n) (g := g) (r := r) first active some' inside⟩
  show execLdP h m s = _
  unfold execLdP
  dsimp only
  rw [loadRegs_eq, State.memOp_ready (by exact ready), eas_eq, ok]
  dsimp only
  rw [plain, if_neg (by decide), short, if_pos List.isEmpty_nil, taken]

end

/-- Settles O26: each instruction's operands are ready, so it has its effect at once, beside its threads, and goes on. -/
theorem proxyInstructions : Obligations.ProxyInstructions := by
  intro s h a e m first plain act regs item home lease
  have dsts : (if e.a = 0x1FE then [] else if item ≥ 3 then [e.a.toNat, e.a.toNat + 1] else [e.a.toNat]) = dstRegs e.a.toNat (e.handle.toNat % 16 ≥ 3) := (dstRegs_item e.a _).symm
  rw [dsts]
  refine ⟨mat_passes first a, pxrel_passes first e, fun ready some' => ⟨pxq_asks first e some' plain ready, pxq_counts first e some' plain ready⟩, fun some' => pxlease_holds first e some' plain, fun some' => pxlease_waits first e some' plain,
    fun some' => pxleaseRet_passes first e some' plain, fun ready l pa en n g one some' _ ok number inside => ?_⟩
  obtain ⟨t, run, is⟩ := ldP_names first plain ready.2 one some' ok number inside
  exact ⟨t, run, is.mem, is.rwc, is.reg, is.pos, is.slot, is.asked⟩

end Sys2Proof.Proofs.Proxies
end

section
/-! SUPPORT. What a write performed at its home leaves (R203-R205, R224, R238, R252): the byte written last at each address, the new value of an atomic, and the results that wait. -/

namespace Sys2Proof.Machine

open Sys2Proof.Claims

/-! ### The bytes of a write -/

/-- Of a list of writes the last to an address decides what it holds. -/
theorem memGet_memSetAll_last (l : List (Nat × Byte)) (m : List Host.Cell) (a : Nat) :
    memGet (memSetAll m l) a = (((l.filter (fun b => b.1 == a)).getLast?).map (fun b => b.2)).getD (memGet m a) := by
  induction l generalizing m with
  | nil => rfl
  | cons q r ih =>
    show memGet (memSetAll (memSet m q.1 q.2) r) a = _
    rw [ih]
    by_cases here : q.1 = a
    · subst here
      rw [List.filter_cons_of_pos (by simp), memGet_memSet_self, List.getLast?_cons]
      cases (r.filter (fun b => b.1 == q.1)).getLast? <;> rfl
    · rw [List.filter_cons_of_neg (by simpa using here), memGet_memSet_other _ _ (Ne.symm here)]

/-! ### What a write leaves alone -/

/-- The writes on their way, the results under way and their timers stand. -/
def MsgFrame (s t : State) : Prop := t.msgs = s.msgs ∧ t.pends = s.pends

theorem MsgFrame.trans {s t u : State} (h : MsgFrame s t) (k : MsgFrame t u) : MsgFrame s u := ⟨k.1.trans h.1, k.2.trans h.2⟩

theorem MsgFrame.of_home {s t : State} (h : HomeFrame s t) : MsgFrame s t := by
  unfold HomeFrame at h
  exact ⟨by rw [h], by rw [h]⟩

theorem State.moved_msgs (s : State) (pa : Nat) (launch : Option Nat) (n : Nat) : MsgFrame s (s.moved pa launch n) := .of_home (s.moved_home pa launch n)

theorem MsgFrame.ite {s t u : State} {c : Prop} [Decidable c] (h : MsgFrame s t) (k : MsgFrame s u) : MsgFrame s (if c then t else u) := by
  split
  · exact h
  · exact k

theorem State.performWrite_msgs (s : State) (m : Msg) (id : Nat) (bytes : List (Nat × Byte)) : MsgFrame s (s.performWrite m id bytes) := by
  have undo (l : List (Nat × Byte × Byte)) : MsgFrame s (s.noteUndo m.wg m.rwc l) := by
    unfold State.noteUndo
    split <;> exact ⟨rfl, rfl⟩
  have shared (v : State) : MsgFrame v (m.owners.foldl (fun s o => s.moved m.pa (some o.1) o.2) v) :=
    List.foldlRecOn (motive := fun t => MsgFrame v t) _ _ ⟨rfl, rfl⟩ fun t ht o _ => ht.trans (t.moved_msgs _ _ _)
  have dropped (v : State) (frame : Nat) (mask : BitVec 64) (p : Block → Bool) : MsgFrame v (v.dropL1 m.core frame mask p) := by
    unfold State.dropL1
    dsimp only
    split <;> exact ⟨rfl, rfl⟩
  unfold State.performWrite
  dsimp only
  generalize noted : ite (m.lanes = 0) s _ = a
  have ha : MsgFrame s a := by
    rw [← noted]
    exact .ite ⟨rfl, rfl⟩ (undo _)
  generalize metered : ite (m.lanes ≠ 0) _ _ = b
  have hb : MsgFrame a b := by
    rw [← metered]
    exact .ite (a.moved_msgs _ _ _) (.ite (a.moved_msgs _ _ _) (shared a))
  generalize touched : State.touchL2 _ _ _ _ _ _ _ = c
  have hc : MsgFrame b c := by
    rw [← touched]
    exact MsgFrame.trans ⟨rfl, rfl⟩ (.of_home (State.touchL2_home _ _ _ _ _ _ _))
  generalize emptied : ite ((Decidable.decide (m.lanes = 0) || !m.hidden) = true) c _ = d
  have hd : MsgFrame c d := by
    rw [← emptied]
    exact .ite ⟨rfl, rfl⟩ (dropped c _ _ _)
  exact ha.trans (hb.trans (hc.trans (hd.trans ⟨rfl, rfl⟩)))

/-! ### A result that waits for one less -/

theorem State.modPend_frame (s : State) (q : Nat) (f : Pend → Pend) : s.modPend q f = { s with pends := (s.modPend q f).pends } := by
  unfold State.modPend
  split <;> rfl

theorem State.pendDown_frame (s : State) (q : Option Nat) : s.pendDown q = { s with pends := (s.pendDown q).pends, agenda := (s.pendDown q).agenda } := by
  unfold State.pendDown
  cases q with
  | none => rfl
  | some q =>
    have frame := s.modPend_frame q (fun x => { x with wait := x.wait - 1 })
    dsimp only
    generalize s.modPend q _ = t at frame ⊢
    split
    · split
      · rw [State.now, frame]
      · rw [frame]
    · rw [frame]

theorem State.pendDown_found (s : State) {q : Nat} {p : Pend} (found : tblFind s.pends q = some p) : tblFind (s.pendDown (some q)).pends q = some { p with wait := p.wait - 1 } := by
  have down := s.modPend_found (fun x => { x with wait := x.wait - 1 }) found
  unfold State.pendDown
  dsimp only
  generalize s.modPend q _ = t at down ⊢
  rw [down]
  dsimp only
  split
  · exact down
  · exact down

/-! ### The value of an atomic (R224) -/

/-- The number that w bits stand for as an integer of two's complement. -/
theorem sext_eq {x w : Nat} (pos : 0 < w) (less : x < 2 ^ w) : sext x w = if 2 ^ (w - 1) ≤ x then (x : Int) - 2 ^ w else x := by
  have half : 2 ^ w = 2 * 2 ^ (w - 1) := by rw [← Nat.pow_succ', Nat.succ_eq_add_one, Nat.sub_add_cancel pos]
  unfold sext
  dsimp only
  rw [Nat.mod_eq_of_lt less]
  by_cases high : 2 ^ (w - 1) ≤ x
  · have one : x / 2 ^ (w - 1) = 1 := Nat.div_eq_of_lt_le (by omega) (by omega)
    rw [if_pos high, one, if_pos (beq_self_eq_true 1)]
    push_cast
    rfl
  · have zero : x / 2 ^ (w - 1) = 0 := Nat.div_eq_of_lt (by omega)
    rw [if_neg high, zero]
    rfl

/-- The integer that a value of an atomic of n bytes stands for, in mode n or i. -/
def atomInt (mode size x : Nat) : Int := if mode = 1 ∧ 2 ^ (8 * size - 1) ≤ x then (x : Int) - 2 ^ (8 * size) else x

/-- R224: the new value that an atomic gives. -/
def atomValue (op mode size old a swp : Nat) : Nat :=
  match op with
  | 0 => (old + a) % 2 ^ (8 * size)
  | 1 => if atomInt mode size a < atomInt mode size old then a else old
  | 2 => if atomInt mode size old < atomInt mode size a then a else old
  | 3 => old &&& a
  | 4 => old ||| a
  | 5 => old ^^^ a
  | 6 => a
  | 7 => if old = a then swp else old
  | 8 => if a ≤ old then 0 else old + 1
  | _ => if old = 0 ∨ a < old then a else old - 1

section Atomic

variable {op mode size old a swp : Nat} (int : mode = 0 ∨ mode = 1) (some' : 0 < size) (o : old < 2 ^ (8 * size)) (n : a < 2 ^ (8 * size)) (w : swp < 2 ^ (8 * size))
include int some' o n

theorem atomNew_eq : atomNew op mode (8 * size) old a swp = atomValue op mode size old a swp := by
  have not2 : ¬ mode = 2 := by omega
  have signed {x : Nat} (less : x < 2 ^ (8 * size)) : (if mode = 1 then sext x (8 * size) else ((x % 2 ^ (8 * size) : Nat) : Int)) = atomInt mode size x := by
    unfold atomInt
    rw [sext_eq (by omega) less, Nat.mod_eq_of_lt less]
    by_cases one : mode = 1
    · simp [one]
    · simp [one]
  unfold atomNew atomValue
  dsimp only
  split
  case h_2 => simp only [if_neg not2, signed o, signed n]
  case h_3 => simp only [if_neg not2, signed o, signed n, gt_iff_lt]
  all_goals simp [not2]

include w

/-- The new value is one of the width of the atomic. -/
theorem atomValue_lt : atomValue op mode size old a swp < 2 ^ (8 * size) := by
  unfold atomValue
  split
  · exact Nat.mod_lt _ (by positivity)
  · split <;> assumption
  · split <;> assumption
  · exact Nat.and_lt_two_pow _ n
  · exact Nat.or_lt_two_pow o n
  · exact Nat.xor_lt_two_pow o n
  · exact n
  · split <;> assumption
  · split <;> omega
  · split <;> omega

end Atomic

end Sys2Proof.Machine
end

section
namespace Sys2Proof.Machine

open Sys2Proof.Claims

/-- R224: the old value goes to the lane of the result that asked for it. -/
def State.returnOld (s b : State) (m : Msg) (size lane : Nat) (pend : Option Nat) (old : Nat) : State :=
  match pend with
  | none => s
  | some q => s.modPend q (fun x => b.received ((List.range size).map (fun j => (lane * 16 + j, m.pa + j))) { x with bytes := (placed (lane * 16) (leBytes size old)).foldl (fun t b => tblPut t b.1 b.2) x.bytes })

theorem State.returnOld_frame (s b : State) (m : Msg) (size lane : Nat) (pend : Option Nat) (old : Nat) : s.returnOld b m size lane pend old = { s with pends := (s.returnOld b m size lane pend old).pends } := by
  unfold State.returnOld
  cases pend with
  | none => rfl
  | some q => exact s.modPend_frame q _

theorem State.returnOld_found (s b : State) (m : Msg) (size lane : Nat) {pend : Option Nat} {q : Nat} (asks : pend = some q) (old : Nat) {p : Pend} (found : tblFind s.pends q = some p) :
    ∃ y, tblFind (s.returnOld b m size lane pend old).pends q = some y ∧ y.wait = p.wait ∧ y.bytes = (placed (lane * 16) (leBytes size old)).foldl (fun t b => tblPut t b.1 b.2) p.bytes := by
  subst asks
  have same := (b.received_gathers ((List.range size).map (fun j => (lane * 16 + j, m.pa + j))) { p with bytes := (placed (lane * 16) (leBytes size old)).foldl (fun t b => tblPut t b.1 b.2) p.bytes }).1
  exact ⟨_, s.modPend_found _ found, by rw [same], by rw [same]⟩

/-- R203-R205, R224, R263: what a message that carries no proxy does once nothing holds it back, at its home or in its lectern port. -/
def State.performed (s : State) (m : Msg) (id : Nat) : State :=
  match m.kind with
  | .write => s.performWrite m id m.bytes
  | .stage w va => s.stageAt m.die w va (m.bytes.map (fun b => b.2))
  | .atomic op mode size src swp lane pend =>
    (s.performWrite m id (placed m.pa (leBytes size (atomNew op mode (8 * size) (memNat s.mem m.pa size) src.toNat swp.toNat)))).returnOld s m size lane pend (memNat s.mem m.pa size)
  | .round slot lane pend => s.announce (Config.dieOfStack (tblGet { base := 0, len := 0, stack := 0 } (s.ctx m.ctx).regions slot).stack) (.round m.ctx slot lane (some pend))

/-- A message on its way that nothing holds back. -/
structure MayPerform (s : State) (id : Nat) (m : Msg) : Prop where
  found : tblFind s.msgs id = some m
  ready : s.msgReady m = true
  plain : m.proxy = none
  collapsed : m.readMostly = false ∨ m.collapsing = true
  clear : m.kind.isAtomic = false ∨ s.atomicGathered m = false

section May

variable {s : State} {id : Nat} {m : Msg} (may : MayPerform s id m)
include may

theorem storePerformed_eq : exec (.storePerformedAtHome id) s = .next (
    if m.widen then s.widenMsg id m (.storePerformedAtHome id)
    else if m.overhead > 0 then s.takeOverhead id m (.storePerformedAtHome id)
    else if m.held then s.performAtL1 id m
    else (({ s with msgs := tblDel s.msgs id } : State).performed m id).pendDown m.pend) := by
  show execStorePerformedAtHome id s = _
  have atomic : ¬ (m.kind.isAtomic && s.atomicGathered m) = true := by
    rcases may.clear with none' | none' <;> simp [none']
  have waits : ¬ (!s.msgReady m || (m.readMostly && !m.collapsing) || (m.proxy.isSome && (m.proxy.bind (fun w => s.slotValue (proxyStack w) (proxySlot w))).isNone)) = true := by
    rcases may.collapsed with none' | none' <;> simp [may.ready, may.plain, none']
  unfold execStorePerformedAtHome
  rw [may.found]
  dsimp only
  rw [if_neg atomic, if_neg waits]
  split
  · rfl
  · split
    · rfl
    · split
      · rfl
      · rw [may.plain]
        unfold State.performed
        cases m.kind with
        | write => rfl
        | stage w va => rfl
        | atomic op mode size src swp lane pend =>
          cases pend <;> rfl
        | round slot lane pend => rfl

theorem performs_widened (widen : m.widen = true) : ∃ t n, exec (.storePerformedAtHome id) s = .next t ∧ t.mem = s.mem ∧ tblFind t.msgs id = some n ∧ n.widen = false ∧ n.bytes = m.bytes ∧
    (n.after = [] ∨ n.overhead = m.overhead) := by
  rw [storePerformed_eq may, if_pos widen]
  have flushed := s.flushDie_mem m.die m.ctx m.scope
  unfold State.widenMsg
  dsimp only
  generalize s.flushDie m.die m.ctx m.scope = u at flushed
  split
  next c =>
    rw [Bool.and_eq_true, List.isEmpty_iff] at c
    exact ⟨_, _, rfl, flushed.1, tblFind_tblPut_self _ _ _, rfl, rfl, .inl c.1⟩
  next => exact ⟨_, _, rfl, flushed.1, tblFind_tblPut_self _ _ _, rfl, rfl, .inr rfl⟩

section Own

variable (own : m.widen = false)
include own

theorem performs_overhead (time : m.overhead ≠ 0) : ∃ t, exec (.storePerformedAtHome id) s = .next t ∧ t.mem = s.mem ∧ tblFind t.msgs id = some { m with overhead := 0 } ∧
    ⟨m.core + 1, (s.core m.core).cycles + m.overhead, .storePerformedAtHome id⟩ ∈ t.timers := by
  rw [storePerformed_eq may, if_neg (by rw [own]; decide), if_pos (Nat.pos_of_ne_zero time)]
  exact ⟨_, rfl, rfl, tblFind_tblPut_self _ _ _, State.mem_inCycles { s with msgs := _ } m.core m.overhead _⟩

/-- R203, R209, R220: a store that was held is on its way with its bytes once its L1 has performed it. -/
theorem performs_held (time : m.overhead = 0) (held : m.held = true) (frame : ∀ b ∈ m.bytes, b.1 / 256 = m.pa / 256 ∧ ∀ c ∈ m.bytes, c.1 = b.1 → c = b) :
    ∃ t, exec (.storePerformedAtHome id) s = .next t ∧ t.mem = s.mem ∧ t.hostMem = s.hostMem ∧ ∀ b ∈ m.bytes, Carried t m.die b.1 b.2 := by
  rw [storePerformed_eq may, if_neg (by rw [own]; decide), if_neg (by omega), if_pos held]
  have mem := s.performAtL1_mem id m
  refine ⟨_, rfl, mem.1, mem.2, fun b hb => ?_⟩
  have kept (u : State) (q : Option Nat) (there : Going u m.die b.1 b.2) : Carried (u.pendDown q) m.die b.1 b.2 := by
    have same := u.pendDown_frame q
    exact (there.kept (.of_same (by rw [same]) (by rw [same])) (by rw [same]; rfl)).carried
  clear mem
  unfold State.performAtL1
  dsimp only
  split
  · split
    · rw [State.pendDown_frame]
      exact .inl ⟨_, mem_of_tblFind (tblFind_tblPut_self _ _ _), hb⟩
    · exact .inl ⟨_, mem_of_tblFind (tblFind_tblPut_self _ _ _), hb⟩
  · refine kept _ _ ?_
    generalize State.updateL1 _ _ _ _ = u
    have entered : Going (u.gatherStore m.die (frameOf m.pa) m.ctx (s.launchOfWg m.wg) (id :: if m.scope ≥ 3 then m.causes else []) m.bytes) m.die b.1 b.2 := by
      obtain ⟨-, -, -, t, g, found, bytes⟩ := u.gatherStore_spec m.die (frameOf m.pa) m.ctx (s.launchOfWg m.wg) (id :: if m.scope ≥ 3 then m.causes else []) m.bytes
      refine .inr ⟨g, ?_, ?_⟩
      · rw [(frame b hb).1]
        exact found
      · rw [bytes]
        refine foldl_entered _ _ ⟨b, hb, rfl⟩ fun c hc same => ?_
        have there := (frame c hc).1
        have here := (frame b hb).1
        rw [(frame b hb).2 c hc (by omega)]
    split
    · exact entered.flushGather _ _
    · exact entered

section Home

variable (time : m.overhead = 0) (free : m.held = false)
include time free

theorem performs_home : exec (.storePerformedAtHome id) s = .next ((({ s with msgs := tblDel s.msgs id } : State).performed m id).pendDown m.pend) := by
  rw [storePerformed_eq may, if_neg (by rw [own]; decide), if_neg (by omega), if_neg (by rw [free]; decide)]

theorem performs_write (kind : m.kind = .write) : ∃ t, exec (.storePerformedAtHome id) s = .next t ∧ tblFind t.msgs id = none ∧ t.hostMem = s.hostMem ∧
    ∀ a, memGet t.mem a = (((m.bytes.filter (fun b => b.1 == a)).getLast?).map (fun b => b.2)).getD (memGet s.mem a) := by
  have run : ({ s with msgs := tblDel s.msgs id } : State).performed m id = ({ s with msgs := tblDel s.msgs id } : State).performWrite m id m.bytes := by rw [State.performed, kind]
  obtain ⟨msgs, -⟩ := State.performWrite_msgs { s with msgs := tblDel s.msgs id } m id m.bytes
  refine ⟨_, performs_home may own time free, ?_, ?_, fun a => ?_⟩
  · rw [run, State.pendDown_frame]
    dsimp only
    rw [msgs]
    exact tblFind_tblDel_self _ _
  · rw [(State.pendDown_mem _ _).2, run, (State.performWrite_mem _ _ _ _).2]
  · rw [(State.pendDown_mem _ _).1, run, (State.performWrite_mem _ _ _ _).1]
    exact memGet_memSetAll_last _ _ a

theorem performs_round {slot lane pend : Nat} (kind : m.kind = .round slot lane pend) : ∃ t, exec (.storePerformedAtHome id) s = .next t ∧ t.mem = s.mem ∧ tblFind t.msgs id = none ∧
    .round m.ctx slot lane (some pend) ∈ (t.die (Config.dieOfStack (tblGet { base := 0, len := 0, stack := 0 } (s.ctx m.ctx).regions slot).stack)).lect := by
  let d := Config.dieOfStack (tblGet { base := 0, len := 0, stack := 0 } (s.ctx m.ctx).regions slot).stack
  have run : ({ s with msgs := tblDel s.msgs id } : State).performed m id = ({ s with msgs := tblDel s.msgs id } : State).announce d (.round m.ctx slot lane (some pend)) := by
    rw [State.performed, kind]
    rfl
  have frame := State.pendDown_frame (({ s with msgs := tblDel s.msgs id } : State).announce d (.round m.ctx slot lane (some pend))) m.pend
  refine ⟨_, performs_home may own time free, ?_, ?_, ?_⟩ <;> rw [run, frame]
  · rfl
  · exact tblFind_tblDel_self _ _
  · show _ ∈ ((({ s with msgs := tblDel s.msgs id } : State).announce d (.round m.ctx slot lane (some pend))).die d).lect
    rw [State.announce, State.modDie_self]
    exact List.mem_append_right _ List.mem_cons_self

/-- R224: one lane of an atomic. -/
theorem performs_atomic {op mode size : Nat} {src swp : Long} {lane : Nat} {pend : Option Nat} (kind : m.kind = .atomic op mode size src swp lane pend) (int : mode = 0 ∨ mode = 1) (some' : 0 < size)
    (n : src.toNat < 2 ^ (8 * size)) (w : swp.toNat < 2 ^ (8 * size)) : ∃ t, exec (.storePerformedAtHome id) s = .next t ∧ tblFind t.msgs id = none ∧
      memNat t.mem m.pa size = atomValue op mode size (memNat s.mem m.pa size) src.toNat swp.toNat ∧ (∀ b, ¬ (m.pa ≤ b ∧ b < m.pa + size) → memGet t.mem b = memGet s.mem b) ∧
      ∀ q p, pend = some q → m.pend = some q → tblFind s.pends q = some p → ∃ p', tblFind t.pends q = some p' ∧ p'.wait = p.wait - 1 ∧
        leNat (tabBytes p'.bytes (lane * 16) size) = memNat s.mem m.pa size := by
  let s1 : State := { s with msgs := tblDel s.msgs id }
  let old := memNat s.mem m.pa size
  have o : old < 2 ^ (8 * size) := by
    have less := leNat_lt (memBytes s.mem m.pa size)
    rwa [show (memBytes s.mem m.pa size).length = size by simp [memBytes], show (256 : Nat) = 2 ^ 8 from rfl, ← Nat.pow_mul] at less
  let new := atomValue op mode size old src.toNat swp.toNat
  have small : new < 2 ^ (8 * size) := atomValue_lt int some' o n w
  let v := s1.performWrite m id (placed m.pa (leBytes size new))
  obtain ⟨msgs, pends⟩ : MsgFrame s1 v := State.performWrite_msgs s1 m id _
  have mem : v.mem = memSetAll s.mem (placed m.pa (leBytes size new)) := (State.performWrite_mem _ _ _ _).1
  have back (x : Nat) (less : x < 2 ^ (8 * size)) : x < 256 ^ size := by rwa [show (256 : Nat) = 2 ^ 8 from rfl, ← Nat.pow_mul]
  have run : s1.performed m id = v.returnOld s1 m size lane pend old := by
    show State.performed s1 m id = _
    unfold State.performed State.returnOld
    rw [kind]
    dsimp only
    rw [show atomNew op mode (8 * size) (memNat s1.mem m.pa size) src.toNat swp.toNat = new from atomNew_eq int some' o n]
  have returned := v.returnOld_frame s1 m size lane pend old
  refine ⟨_, performs_home may own time free, ?_, ?_, fun b out => ?_, fun q p lanes result found => ?_⟩
  · rw [run, State.pendDown_frame, returned]
    dsimp only
    rw [msgs]
    exact tblFind_tblDel_self _ _
  · rw [run, State.pendDown_frame, returned]
    dsimp only
    rw [mem, memNat_placed, Nat.mod_eq_of_lt (back _ small)]
  · rw [run, State.pendDown_frame, returned]
    dsimp only
    rw [mem, memGet_memSetAll_placed, leBytes_length, if_neg out]
  · obtain ⟨y, gives, wait, bytes⟩ := v.returnOld_found s1 m size lane lanes old (by rw [pends]; exact found)
    rw [run, result]
    exact ⟨_, State.pendDown_found _ gives, by rw [← wait], by rw [bytes]; exact leNat_placedAll _ _ _ (back _ o)⟩

end Home

end Own

end May

end Sys2Proof.Machine

namespace Sys2Proof.Proofs.Writes

open Sys2Proof.Machine Sys2Proof.Claims

/-- Settles O23: what a message does depends on what it still owes, in this order: what its release waits for, the time of its scope, its L1, its home. -/
theorem writesArePerformed : Obligations.WritesArePerformed := by
  intro s id m found ready plain collapsed clear
  have may : MayPerform s id m := ⟨found, ready, plain, collapsed, clear⟩
  refine ⟨performs_widened may, fun own => ⟨performs_overhead may own, performs_held may own, performs_write may own, fun slot lane pend time free kind => performs_round may own time free kind,
    fun op mode size src swp lane pend time free kind int width n w _ => ?_⟩⟩
  exact performs_atomic may own time free kind int (by omega) n w

end Sys2Proof.Proofs.Writes
end

section
/-! SUPPORT. Fills, invalidations, collapses and gather flushes (R199-R210, R222, R243). -/

namespace Sys2Proof.Machine

open Sys2Proof.Claims

/-! ### A fill that is no replica (R196, R199, R205, R237) -/

/-- The bytes put last under a key that one entry of a list alone has. -/
theorem tblFind_foldl_only {α : Type} (key : α → Nat) (val : α → Byte) {l : List α} {x : α} (hx : x ∈ l) (only : ∀ y ∈ l, key y = key x → y = x) (t : Tbl Byte) :
    tblFind (l.foldl (fun t m => tblPut t (key m) (val m)) t) (key x) = some (val x) := by
  have step (l : List α) (t : Tbl Byte) (only : ∀ y ∈ l, key y = key x → y = x) (there : x ∈ l ∨ tblFind t (key x) = some (val x)) :
      tblFind (l.foldl (fun t m => tblPut t (key m) (val m)) t) (key x) = some (val x) := by
    induction l generalizing t with
    | nil => exact there.resolve_left List.not_mem_nil
    | cons y r ih =>
      refine ih _ (fun z hz => only z (List.mem_cons_of_mem _ hz)) ?_
      by_cases here : key y = key x
      · rw [only y List.mem_cons_self here]
        exact .inr (tblFind_tblPut_self _ _ _)
      · rw [tblFind_tblPut_other _ _ (Ne.symm here)]
        exact there.imp_left fun h => (List.mem_cons.1 h).resolve_left fun e => here (by rw [e])
  exact step l t only (.inl hx)

section Fill

variable {s : State} {f : Fill}

/-- A byte that a load misses lies among the words of a fill. -/
def Fill.within (f : Fill) (x : Nat × Nat) : Prop := x.2 / 256 = f.frame ∧ f.lo ≤ x.2 / 4 % 64 ∧ x.2 / 4 % 64 ≤ f.hi

theorem State.fillSrc_home (plain : f.replica = false) (w : Nat) : s.fillSrc f w = .home := by
  rw [State.fillSrc, plain]
  rfl

/-- The bytes of a load that the fill brings: those it holds, and the other halves of their 8 bytes. -/
def brought (f : Fill) (p : Pend) : List (Nat × Nat) :=
  p.missing.filter (fun m => p.missing.any (fun x => (frameOf x.2 = f.frame && f.lo ≤ wordOf x.2 && wordOf x.2 ≤ f.hi) && p.together x m))

theorem State.give_plain (plain : f.replica = false) {q : Nat} {p : Pend} (core : p.core = f.core) (free : ∀ x ∈ p.missing, s.waitsFor q p x.2 = false) :
    ∃ bad preds, s.give f q p = { p with bytes := (brought f p).foldl (fun t m => tblPut t m.1 (s.byteFor q p m.2)) p.bytes, missing := p.missing.filter (fun m => !(brought f p).contains m), bad := bad, preds := preds } := by
  have passes (m : Nat × Nat) : p.missing.all (fun x => !p.together x m || !s.waitsFor q p x.2) = true := List.all_eq_true.2 fun x hx => by simp [free x hx]
  have mine : p.missing.filter (fun m => p.missing.any (fun x => (frameOf x.2 = f.frame && f.lo ≤ wordOf x.2 && wordOf x.2 ≤ f.hi) && p.together x m) && p.missing.all (fun x => !p.together x m || !s.waitsFor q p x.2)) =
      brought f p := List.filter_congr fun m _ => by rw [passes m, Bool.and_true]
  unfold State.give
  dsimp only
  rw [if_neg (not_not.2 core)]
  simp only [State.fillSrc_home plain, Bool.or_true, Bool.and_true]
  rw [mine, (s.received_gathers _ _).1]
  exact ⟨_, _, rfl⟩

theorem Pend.together_self (p : Pend) (x : Nat × Nat) : p.together x x = true := by simp [Pend.together]

theorem mem_brought {p : Pend} {x : Nat × Nat} : x ∈ brought f p ↔ x ∈ p.missing ∧ ∃ y ∈ p.missing, f.within y ∧ p.together y x = true := by
  simp only [brought, List.mem_filter, List.any_eq_true, Bool.and_eq_true, decide_eq_true_eq, Fill.within, and_assoc]
  rfl

/-- R196, R205, R237: what a fill that nothing holds back gives a load of its core. -/
theorem State.give_spec (plain : f.replica = false) {q : Nat} {p : Pend} (core : p.core = f.core) (free : ∀ x ∈ p.missing, s.waitsFor q p x.2 = false) :
    (∀ x ∈ (s.give f q p).missing, x ∈ p.missing) ∧ ∀ x ∈ p.missing,
      (f.within x → x ∉ (s.give f q p).missing ∧ ((∀ y ∈ p.missing, y.1 = x.1 → y = x) → tblFind (s.give f q p).bytes x.1 = some (s.byteFor q p x.2))) ∧
      ((∀ y ∈ p.missing, f.within y → p.together y x = false) → x ∈ (s.give f q p).missing) := by
  obtain ⟨bad, preds, is⟩ := s.give_plain plain core free
  rw [is]
  refine ⟨fun x hx => (List.mem_filter.1 hx).1, fun x hx => ⟨fun inside => ?_, fun apart => ?_⟩⟩
  · have mine : x ∈ brought f p := mem_brought.2 ⟨hx, x, hx, inside, p.together_self x⟩
    refine ⟨fun left => ?_, fun only => ?_⟩
    · have := (List.mem_filter.1 left).2
      rw [Bool.not_eq_true', List.contains_iff_mem.2 mine] at this
      cases this
    · exact tblFind_foldl_only (fun m : Nat × Nat => m.1) (fun m => s.byteFor q p m.2) mine (fun y hy => only y (mem_brought.1 hy).1) p.bytes
  · refine List.mem_filter.2 ⟨hx, ?_⟩
    rw [Bool.not_eq_true', Bool.eq_false_iff]
    intro mine
    obtain ⟨-, y, hy, inside, joins⟩ := mem_brought.1 (List.contains_iff_mem.1 mine)
    rw [apart y hy inside] at joins
    cases joins

end Fill

/-- What forming the blocks of a fill changes. -/
def Installs (s t : State) : Prop := t = { s with cores := t.cores, dies := t.dies }

theorem Installs.refl (s : State) : Installs s s := rfl

theorem Installs.trans {s t u : State} (h : Installs s t) (k : Installs t u) : Installs s u := by
  unfold Installs at *
  rw [k, h]

theorem Installs.ite {s t u : State} {c : Prop} [Decidable c] (h : Installs s t) (k : Installs s u) : Installs s (if c then t else u) := by
  split
  · exact h
  · exact k

theorem Installs.touchL2 (s : State) (die frame lo hi : Nat) (dirty : Bool) (hint : Nat) : Installs s (s.touchL2 die frame lo hi dirty hint) := by
  unfold State.touchL2
  split
  · rfl
  · split <;> rfl

/-- The blocks and the predictor of an L1 once a block has been put into it, where there is room. -/
theorem Installs.put (s : State) (core : Nat) (r : Option (List Block × List Block)) :
    Installs s (match r with | some (l, gone) => s.modCore core (fun k => { k with l1 := l, pred := gone.foldl trainPred k.pred }) | none => s) := by
  cases r <;> rfl

theorem State.installRun_installs (s : State) (f : Fill) (r : Nat × Nat × FillSrc) : Installs s (s.installRun f r) := by
  unfold State.installRun
  dsimp only
  split
  · generalize read : s.modDie (Config.dieOfCore f.core) _ = u
    have hu : Installs s u := by
      rw [← read]
      rfl
    refine .ite hu (hu.trans ?_)
    split <;> rfl
  · generalize touched : s.touchL2 _ _ _ _ _ _ = u
    have hu : Installs s u := by
      rw [← touched]
      exact .touchL2 s _ _ _ _ _ _
    generalize kept : ite ((!f.replica) = true) u _ = v
    have hv : Installs u v := by
      rw [← kept]
      refine .ite (.refl u) ?_
      split <;> rfl
    refine .ite (hu.trans hv) ((hu.trans hv).trans ?_)
    split <;> rfl

theorem State.filled_pends (s old : State) : (s.filled old).pends = s.pends ∧ (s.filled old).fills = s.fills := by
  unfold State.filled
  exact List.foldlRecOn (motive := fun t => State.pends t = s.pends ∧ State.fills t = s.fills) _ _ ⟨rfl, rfl⟩ fun t ht q _ => ht

/-- R196: the fill that arrives is gone, and every result has what it gives. -/
theorem fillArrival_gives {s : State} {id : Nat} {f : Fill} (found : tblFind s.fills id = some f) (free : s.fillBlocked f = false) :
    ∃ t, exec (.fillArrival id) s = .next t ∧ t.mem = s.mem ∧ tblFind t.fills id = none ∧ ∀ q p, tblFind s.pends q = some p → tblFind t.pends q = some (s.give f q p) := by
  let a := ({ s with fills := tblDel s.fills id } : State).moved (f.frame * 256) (s.fillLaunch f) (4 * (f.hi + 1 - f.lo))
  let b : State := { a with pends := a.pends.map (fun (q : Nat × Pend) => (q.1, s.give f q.1 q.2)) }
  let c := (s.fillRuns f).foldl (fun s r => s.installRun f r) b
  have run : exec (.fillArrival id) s = .next (c.tickFresh.filled s) := by
    show execFillArrival id s = _
    unfold execFillArrival
    rw [found]
    dsimp only
    rw [free]
    rfl
  have moved := State.moved_home { s with fills := tblDel s.fills id } (f.frame * 256) (s.fillLaunch f) (4 * (f.hi + 1 - f.lo))
  have installs : Installs b c := List.foldlRecOn (motive := fun t => Installs b t) _ _ (.refl b) fun t ht r _ => ht.trans (t.installRun_installs f r)
  obtain ⟨pends, fills⟩ := c.tickFresh.filled_pends s
  have keptPends : (c.tickFresh.filled s).pends = s.pends.map (fun (q : Nat × Pend) => (q.1, s.give f q.1 q.2)) := by
    rw [pends]
    show c.pends = _
    rw [installs]
    show a.pends.map _ = _
    rw [show a.pends = s.pends by rw [show a = _ from moved]]
  refine ⟨_, run, ?_, ?_, fun q p waits => ?_⟩
  · rw [(c.tickFresh.filled_mem s).1]
    show c.mem = _
    rw [installs]
    exact (State.moved_mem { s with fills := tblDel s.fills id } (f.frame * 256) (s.fillLaunch f) (4 * (f.hi + 1 - f.lo))).1
  · rw [fills]
    show tblFind c.fills id = none
    rw [installs]
    show tblFind a.fills id = none
    rw [show a.fills = tblDel s.fills id by rw [show a = _ from moved]]
    exact tblFind_tblDel_self _ _
  · rw [keptPends, tblFind_map_at (fun (q : Nat × Pend) => (q.1, s.give f q.1 q.2)) (fun _ => rfl), waits]
    rfl

/-! ### An invalidation (R204) -/

theorem State.dropL1_invals (s : State) (core frame : Nat) (mask : BitVec 64) (pred : Block → Bool) : (s.dropL1 core frame mask pred).invals = s.invals := by
  unfold State.dropL1
  dsimp only
  split <;> rfl

theorem invalidation_empties {s : State} {core : Nat} {v : Inval} {b : Block} (one : s.invals = [v]) (here : v.core = core) (due : ∃ d, v.due = some d ∧ d ≤ s.tick) (block : (s.core core).l1 = [b])
    (frame : b.frame = v.frame) (untagged : b.tag = none) : ∃ t, exec (.invalidationApply core) s = .next t ∧ t.mem = s.mem ∧ t.invals = [] ∧
      ∀ x ∈ (t.core core).l1, ∀ w, x.lo ≤ w → w ≤ x.hi → w < 64 → v.mask.getLsbD w = false := by
  obtain ⟨d, time, past⟩ := due
  let u : State := { s with invals := s.invals.erase v }
  have run : exec (.invalidationApply core) s = .next (u.dropL1 core v.frame v.mask (fun b => b.tag = none)) := by
    show execInvalidationApply core s = _
    unfold execInvalidationApply
    rw [show s.invals.find? (fun v => v.core = core && Decidable.decide (v.due.getD (s.tick + 1) ≤ s.tick)) = some v by rw [one]; simp [here, time, past]]
  refine ⟨_, run, (u.dropL1_mem core v.frame v.mask _).1, ?_, fun x hx w low high less => ?_⟩
  · rw [u.dropL1_invals]
    show s.invals.erase v = []
    rw [one, List.erase_cons_head]
  · rw [← frame] at hx
    exact (State.dropL1_clears (s := u) (pred := fun b => b.tag = none) (fun _ _ _ => rfl) block (by simpa using untagged) v.mask hx).2 w low high less

/-! ### A collapse (R208) -/

/-- Whether a block is a replica of a frame. -/
def Block.copyOf (frame : Nat) (b : Block) : Bool := b.replica && b.frame = frame

/-- R208: the replicas of the frame of a message leave a die. -/
def State.collapse (s : State) (m : Msg) (d : Nat) : State :=
  ((s.modDie d (fun x => { x with l2 := x.l2.filter (fun b => !b.copyOf (frameOf m.pa)) })).modCores (fun c => Config.dieOfCore c = d)
    (fun c => { c with l1 := c.l1.filter (fun b => !b.copyOf (frameOf m.pa)), pred := (c.l1.filter (Block.copyOf (frameOf m.pa))).foldl trainPred c.pred })).modDie (homeDie m.pa)
      (fun x => { x with replicas := tblPut x.replicas (frameOf m.pa) ((tblGet [] x.replicas (frameOf m.pa)).filter (· ≠ d)) })

theorem Block.not_copyOf {b : Block} {frame : Nat} (no : (!b.copyOf frame) = true) : ¬ (b.replica = true ∧ b.frame = frame) := by
  rintro ⟨replica, here⟩
  simp [Block.copyOf, replica, here] at no

theorem State.collapse_spec (s : State) (m : Msg) (d : Nat) : d ∉ (s.collapse m d).replicasOf m.pa ∧ (∀ b ∈ ((s.collapse m d).die d).l2, ¬ (b.replica = true ∧ b.frame = frameOf m.pa)) ∧
    ∀ c ∈ (s.collapse m d).cores, Config.dieOfCore c.1 = d → ∀ b ∈ c.2.l1, ¬ (b.replica = true ∧ b.frame = frameOf m.pa) := by
  let u := s.modDie d (fun x => { x with l2 := x.l2.filter (fun b => !b.copyOf (frameOf m.pa)) })
  let v := u.modCores (fun c => Config.dieOfCore c = d) (fun c => { c with l1 := c.l1.filter (fun b => !b.copyOf (frameOf m.pa)), pred := (c.l1.filter (Block.copyOf (frameOf m.pa))).foldl trainPred c.pred })
  refine ⟨?_, fun b hb => ?_, fun c hc die b hb => ?_⟩
  · rw [State.replicasOf, State.collapse, State.modDie_self, tblGet_tblPut_self]
    intro there
    simpa using (List.mem_filter.1 there).2
  · have l2 : ((s.collapse m d).die d).l2 = (u.die d).l2 := by
      have same : (v.die d).l2 = (u.die d).l2 := rfl
      rw [← same]
      by_cases home : d = homeDie m.pa
      · rw [State.collapse, ← home, State.modDie_self]
      · rw [State.collapse, State.modDie_other _ _ home]
    rw [l2, State.modDie_self] at hb
    exact Block.not_copyOf (List.mem_filter.1 hb).2
  · obtain ⟨k, -, rfl⟩ := List.mem_map.1 (show c ∈ s.cores.map _ from hc)
    by_cases here : Config.dieOfCore k.1 = d
    · rw [if_pos (by simpa using here)] at hb
      exact Block.not_copyOf (List.mem_filter.1 hb).2
    · rw [if_neg (by simpa using here)] at die
      exact absurd die here

theorem readMostly_collapses {s : State} {id : Nat} {m : Msg} (found : tblFind s.msgs id = some m) (ready : s.msgReady m = true) (own : m.widen = false) (time : m.overhead = 0) :
    ∃ t n, exec (.readMostlyCollapse id) s = .next t ∧ t.mem = s.mem ∧ tblFind t.msgs id = some n ∧ n.collapsing = true ∧ n.bytes = m.bytes ∧
      (s.replicasOf m.pa = [] → t.agenda = .event (.storePerformedAtHome id) :: s.agenda) ∧
      ∀ d r, s.replicasOf m.pa = d :: r → n.acked = m.acked ++ [d] ∧ d ∉ t.replicasOf m.pa ∧ (∀ b ∈ (t.die d).l2, ¬ (b.replica = true ∧ b.frame = m.pa / 256)) ∧
        ∀ c ∈ t.cores, Config.dieOfCore c.1 = d → ∀ b ∈ c.2.l1, ¬ (b.replica = true ∧ b.frame = m.pa / 256) := by
  have run : exec (.readMostlyCollapse id) s = execReadMostlyCollapse id s := rfl
  rw [execReadMostlyCollapse, found] at run
  dsimp only at run
  rw [if_neg (by rw [ready]; decide), if_neg (by rw [own]; decide), if_neg (by omega)] at run
  cases held : s.replicasOf m.pa with
  | nil =>
    rw [held] at run
    exact ⟨_, _, run, rfl, tblFind_tblPut_self _ _ _, rfl, rfl, fun _ => rfl, fun d r e => nomatch e⟩
  | cons d r =>
    rw [held] at run
    let u : State := { s with msgs := tblPut s.msgs id { m with collapsing := true, acked := m.acked ++ [d] } }
    have run' : exec (.readMostlyCollapse id) s = .next ((u.collapse m d).later (.readMostlyCollapse id)) := by
      rw [run]
      rfl
    refine ⟨_, { m with collapsing := true, acked := m.acked ++ [d] }, run', rfl, tblFind_tblPut_self _ _ _, rfl, rfl, fun e => (nomatch e), fun k q e => ?_⟩
    cases e
    exact ⟨rfl, u.collapse_spec m d⟩

/-! ### A gather entry (R210, R243) -/

theorem flushGather_leaves {s : State} {die frame : Nat} {g : Gather} (found : tblFind (s.die die).gather frame = some g) : Leaves s die frame g (.next (s.flushGather die frame)) := by
  refine ⟨_, rfl, (s.flushGather_mem die frame).1, ?_, ?_⟩
  · rw [State.flushGather_gather]
    exact tblFind_tblDel_self _ _
  · unfold State.flushGather
    rw [found]
    dsimp only
    rw [(State.sendMsg_spec _ _).2.1]
    exact ⟨_, tblFind_tblPut_self _ _ _, rfl, rfl, List.append_nil _⟩

end Sys2Proof.Machine

namespace Sys2Proof.Proofs.Caches

open Sys2Proof.Machine Sys2Proof.Claims

/-- Settles O24: a fill gives each load what `State.give` says, an invalidation and a collapse take blocks away, and a gather entry leaves as one write. -/
theorem cacheEvents : Obligations.CacheEvents := by
  refine ⟨fun s id f found free plain => ?_, fun s core v b one here due block frame untagged => invalidation_empties one here due block frame untagged,
    fun s id m found ready own time => readMostly_collapses found ready own time, fun s die frame g found => ⟨flushGather_leaves found, fun idle => ?_⟩⟩
  · obtain ⟨t, run, mem, gone, gives⟩ := fillArrival_gives found free
    refine ⟨t, run, mem, gone, fun q p waits core clear => ?_⟩
    intro within
    exact ⟨_, gives q p waits, State.give_spec plain core clear⟩
  · have run : exec (.gatherIdleFlush die frame) s = execGatherIdleFlush die frame s := rfl
    rw [run, execGatherIdleFlush, if_neg]
    · exact flushGather_leaves found
    · rw [List.any_eq_true]
      rintro ⟨x, hx, is⟩
      exact idle x hx (by simpa using is)

end Sys2Proof.Proofs.Caches
end

section
/-! SUPPORT. Leases and slots of a home (R274-R276, R284, R286). -/

namespace Sys2Proof.Machine

open Sys2Proof.Claims

/-! ### The free slots of a home (R276) -/

/-- The numbers of a stretch whose slots are taken. -/
def takenSlots (t : Tbl SbSlot) (k fuel : Nat) : List Nat := (List.range' k fuel).filter (fun i => Decidable.decide ((tblGet {} t i).st ≠ 0))

theorem takenSlots_length (t : Tbl SbSlot) (k fuel : Nat) : (takenSlots t k fuel).length ≤ t.length := by
  have inside : takenSlots t k fuel ⊆ t.map Prod.fst := by
    intro i hi
    have taken : (tblGet {} t i).st ≠ 0 := by simpa using (List.mem_filter.1 hi).2
    unfold tblGet at taken
    cases found : tblFind t i with
    | none =>
      rw [found] at taken
      exact absurd rfl taken
    | some x => exact List.mem_map.2 ⟨(i, x), mem_of_tblFind found, rfl⟩
  calc (takenSlots t k fuel).length ≤ (t.map Prod.fst).length := ((List.nodup_range' (step := 1)).filter _ |>.subperm inside).length_le
    _ = t.length := by simp

theorem takenSlots_succ (t : Tbl SbSlot) (k f : Nat) : takenSlots t k (f + 1) = if (tblGet {} t k).st = 0 then takenSlots t (k + 1) f else k :: takenSlots t (k + 1) f := by
  rw [takenSlots, List.range'_succ, List.filter_cons]
  by_cases free : (tblGet {} t k).st = 0
  · rw [if_pos free, if_neg (by rw [decide_eq_true_eq]; exact not_not_intro free)]
    rfl
  · rw [if_neg free, if_pos (decide_eq_true free)]
    rfl

/-- The lowest free numbers: each free, none twice. -/
theorem freeSlots_free (t : Tbl SbSlot) (k fuel n : Nat) : (freeSlots t k fuel n).Nodup ∧ ∀ i ∈ freeSlots t k fuel n, k ≤ i ∧ (tblGet {} t i).st = 0 := by
  induction fuel generalizing k n with
  | zero => exact ⟨List.nodup_nil, fun i hi => absurd hi List.not_mem_nil⟩
  | succ f ih =>
    unfold freeSlots
    split
    · exact ⟨List.nodup_nil, fun i hi => absurd hi List.not_mem_nil⟩
    · split
      · next free =>
        obtain ⟨nodup, all⟩ := ih (k + 1) (n - 1)
        refine ⟨List.nodup_cons.2 ⟨fun mem => by have := (all k mem).1; omega, nodup⟩, fun i hi => ?_⟩
        rcases List.mem_cons.1 hi with rfl | rest
        · exact ⟨le_rfl, free⟩
        · exact ⟨by have := (all i rest).1; omega, (all i rest).2⟩
      · obtain ⟨nodup, all⟩ := ih (k + 1) n
        exact ⟨nodup, fun i hi => ⟨by have := (all i hi).1; omega, (all i hi).2⟩⟩

/-- A stretch that holds as many more numbers as are asked for gives them all. -/
theorem freeSlots_length (t : Tbl SbSlot) (k fuel n : Nat) (room : (takenSlots t k fuel).length + n ≤ fuel) : (freeSlots t k fuel n).length = n := by
  induction fuel generalizing k n with
  | zero => simp only [freeSlots, List.length_nil]; omega
  | succ f ih =>
    unfold freeSlots
    split
    · next zero => simp [zero]
    · next more =>
      rw [takenSlots_succ] at room
      split
      · next free =>
        rw [if_pos free] at room
        rw [List.length_cons, ih (k + 1) (n - 1) (by omega)]
        omega
      · next taken =>
        rw [if_neg taken, List.length_cons] at room
        exact ih (k + 1) n (by omega)

/-! ### Grants and refusals (R276) -/

/-- The numbers and generations that a grant of n gives. -/
def grantOf (s : State) (home n : Nat) : List (Nat × Nat) :=
  (freeSlots (s.home home).slots 0 ((s.home home).slots.length + n) n).map (fun k => (k, (tblGet {} (s.home home).slots k).gen))

theorem grantOf_length (s : State) (home n : Nat) : (grantOf s home n).length = n := by
  rw [grantOf, List.length_map]
  exact freeSlots_length _ _ _ _ (Nat.add_le_add_right (takenSlots_length _ _ _) n)

theorem grantOf_free {s : State} {home n : Nat} {x : Nat × Nat} (mem : x ∈ grantOf s home n) :
    (tblGet {} (s.home home).slots x.1).st = 0 ∧ x.2 = (tblGet {} (s.home home).slots x.1).gen := by
  obtain ⟨k, hk, rfl⟩ := List.mem_map.1 mem
  exact ⟨((freeSlots_free _ _ _ _).2 k hk).2, rfl⟩

/-- R276: the grant has been made. -/
def granted (s : State) (core ctx home : Nat) (ns : List (Nat × Nat)) : State :=
  (((s.modHome home (fun h => { h with reqs := h.reqs.filter (fun r => !(r.core = core && r.ctx = ctx)) })).modHome home
    (fun h => { h with slots := ns.foldl (fun t k => tblPut t k.1 { st := 1, gen := k.2, ctx := ctx }) h.slots }))).modLease core ctx home
    (fun l => { nums := l.nums ++ ns, asked := 0, refused := false })

theorem granted_lease (s : State) (core ctx home : Nat) (ns : List (Nat × Nat)) :
    (granted s core ctx home ns).lease core ctx home = { nums := (s.lease core ctx home).nums ++ ns, asked := 0, refused := false } :=
  State.modLease_self _ core ctx home (fun l => { nums := l.nums ++ ns, asked := 0, refused := false })

theorem granted_slot (s : State) (core ctx home n : Nat) {x : Nat × Nat} (mem : x ∈ grantOf s home n) :
    tblGet {} ((granted s core ctx home (grantOf s home n)).home home).slots x.1 = { st := 1, gen := x.2, ctx := ctx } := by
  rw [granted, State.modLease_home, State.modHome_self]
  rcases tblGet_foldl_put ({} : SbSlot) (fun k : Nat × Nat => k.1) (fun k => ({ st := 1, gen := k.2, ctx := ctx } : SbSlot)) (grantOf s home n)
    ((s.modHome home (fun h => { h with reqs := h.reqs.filter (fun r => !(r.core = core && r.ctx = ctx)) })).home home).slots (n := x.1) with ⟨y, hy, same, is⟩ | ⟨out, -⟩
  · rw [is, (grantOf_free hy).2, (grantOf_free mem).2, same]
  · exact absurd rfl (out x mem)

theorem leaseGrant_grants (s : State) (core ctx home : Nat) (asked : (s.lease core ctx home).asked ≠ 0) (there : s.residentOn core ctx = true) :
    ∃ t, execLeaseGrant core ctx home s = .next t ∧ t.mem = s.mem ∧
      (s.slotCount ctx home < s.quotaAt ctx home → t = granted s core ctx home (grantOf s home (min (s.lease core ctx home).asked (s.quotaAt ctx home - s.slotCount ctx home)))) := by
  unfold execLeaseGrant
  dsimp only
  rw [if_neg asked, if_neg (by simp [there])]
  by_cases room : s.slotCount ctx home < s.quotaAt ctx home
  · rw [if_neg (by omega)]
    exact ⟨_, rfl, rfl, fun _ => rfl⟩
  · rw [if_pos (by omega)]
    split
    · exact ⟨s, rfl, rfl, fun h => absurd h room⟩
    · exact ⟨_, rfl, rfl, fun h => absurd h room⟩

theorem leaseRefuse_refuses {s : State} {core ctx home : Nat} (due : ∃ r ∈ (s.home home).reqs, r.core = core ∧ r.ctx = ctx ∧ r.due ≤ s.tick) :
    ∃ t, execLeaseRefuse core ctx home s = .next t ∧ t.lease core ctx home = { s.lease core ctx home with asked := 0, refused := true } ∧
      ∀ r ∈ (t.home home).reqs, ¬ (r.core = core ∧ r.ctx = ctx) := by
  obtain ⟨r, hr, hcore, hctx, hdue⟩ := due
  unfold execLeaseRefuse
  rw [if_pos (List.any_eq_true.2 ⟨r, hr, by simp [hcore, hctx, hdue]⟩)]
  refine ⟨_, rfl, State.modLease_self _ core ctx home (fun l => { l with asked := 0, refused := true }), fun q hq => ?_⟩
  rw [State.modLease_home, State.modHome_self] at hq
  exact not_and_or.2 (by simpa using (List.mem_filter.1 hq).2)

/-! ### Releases (R284) -/

/-- R284: one number of a batch has arrived at its home. -/
def State.releaseOne (s : State) (home n : Nat) : State :=
  if (tblGet {} (s.home home).slots n).st = 2 || (tblGet {} (s.home home).slots n).st = 3 then
    (s.modHome home (fun h => { h with slots := tblPut h.slots n { tblGet {} (s.home home).slots n with st := 4 } })).now (.slotFree home n)
  else s

theorem State.releaseOne_spec (s : State) (home n : Nat) : (s.releaseOne home n).cores = s.cores ∧
    ((tblGet {} (s.home home).slots n).st = 2 ∨ (tblGet {} (s.home home).slots n).st = 3 → (tblGet {} ((s.releaseOne home n).home home).slots n).st = 4) ∧
    ∀ k, k ≠ n ∨ (tblGet {} (s.home home).slots k).st = 4 → tblGet {} ((s.releaseOne home n).home home).slots k = tblGet {} (s.home home).slots k := by
  unfold State.releaseOne
  split
  · next held =>
    have slots : ((s.modHome home (fun h => { h with slots := tblPut h.slots n { tblGet {} (s.home home).slots n with st := 4 } })).home home).slots =
        tblPut (s.home home).slots n { tblGet {} (s.home home).slots n with st := 4 } := by rw [State.modHome_self]
    refine ⟨rfl, fun _ => ?_, fun k hk => ?_⟩
    · exact (congrArg (fun t => (tblGet {} t n).st) slots).trans (congrArg SbSlot.st (tblGet_tblPut_self _ _ _ _))
    · refine (congrArg (fun t => tblGet {} t k) slots).trans (tblGet_tblPut_other _ _ _ ?_)
      rcases hk with other | four
      · exact other
      · rintro rfl
        rw [four] at held
        exact absurd held (by decide)
  · next free => exact ⟨rfl, fun held => absurd (by simpa using held) free, fun _ _ => rfl⟩

theorem State.releaseOne_all (l : List (Nat × Nat)) (s : State) (home : Nat) : (l.foldl (fun s n => s.releaseOne home n.1) s).cores = s.cores ∧
    (∀ k, (tblGet {} (s.home home).slots k).st = 4 → (tblGet {} ((l.foldl (fun s n => s.releaseOne home n.1) s).home home).slots k).st = 4) ∧
    ∀ n ∈ l, (tblGet {} (s.home home).slots n.1).st = 2 ∨ (tblGet {} (s.home home).slots n.1).st = 3 →
      (tblGet {} ((l.foldl (fun s n => s.releaseOne home n.1) s).home home).slots n.1).st = 4 := by
  induction l generalizing s with
  | nil => exact ⟨rfl, fun _ h => h, fun n hn => absurd hn List.not_mem_nil⟩
  | cons a r ih =>
    obtain ⟨cores, releasing, others⟩ := s.releaseOne_spec home a.1
    obtain ⟨coresAll, stays, all⟩ := ih (s.releaseOne home a.1)
    refine ⟨coresAll.trans cores, fun k four => stays k (by rw [others k (.inr four)]; exact four), fun n hn held => ?_⟩
    by_cases here : n.1 = a.1
    · exact stays n.1 (by rw [here] at held ⊢; exact releasing held)
    · rcases List.mem_cons.1 hn with rfl | rest
      · exact absurd rfl here
      · exact all n rest (by rw [others n.1 (.inl here)]; exact held)

theorem releaseBatchSend_releases {s : State} {core home : Nat} (holds : (tblGet {} (s.core core).rel home).nums ≠ [])
    (due : 32 ≤ (tblGet {} (s.core core).rel home).nums.length ∨ (tblGet {} (s.core core).rel home).oldest + 64 ≤ (s.core core).cycles) :
    ∃ t, execReleaseBatchSend core home s = .next t ∧ tblFind (t.core core).rel home = none ∧
      ∀ n ∈ (tblGet {} (s.core core).rel home).nums, (tblGet {} (s.home home).slots n.1).st = 2 ∨ (tblGet {} (s.home home).slots n.1).st = 3 →
        (tblGet {} (t.home home).slots n.1).st = 4 := by
  unfold execReleaseBatchSend
  dsimp only
  rw [if_pos (by simpa [holds] using due)]
  obtain ⟨cores, -, all⟩ := State.releaseOne_all (tblGet {} (s.core core).rel home).nums (s.modCore core (fun k => { k with rel := tblDel k.rel home })) home
  refine ⟨_, rfl, ?_, all⟩
  have kept : ((tblGet {} (s.core core).rel home).nums.foldl (fun s n => s.releaseOne home n.1) (s.modCore core (fun k => { k with rel := tblDel k.rel home }))).core core =
      (s.modCore core (fun k => { k with rel := tblDel k.rel home })).core core := by rw [State.core, cores, ← State.core]
  refine (congrArg (fun k => tblFind (Core.rel k) home) kept).trans ?_
  rw [s.modCore_self]
  exact tblFind_tblDel_self _ _

/-! ### A slot is free again (Table 17-2) -/

theorem slotFree_frees {s : State} {home n : Nat} (releasing : (tblGet {} (s.home home).slots n).st = 4) (unread : (tblGet {} (s.home home).slots n).readers = 0)
    (formed : s.forming home n = false) : ∃ t, execSlotFree home n s = .next t ∧ tblGet {} (t.home home).slots n = { st := 0, gen := ((tblGet {} (s.home home).slots n).gen + 1) % 64 } := by
  unfold execSlotFree
  dsimp only
  rw [if_pos (by rw [releasing, unread, formed]; rfl), State.regrant_agenda]
  refine ⟨_, rfl, ?_⟩
  show tblGet {} ((s.modHome home (fun h => { h with slots := tblPut h.slots n { gen := ((tblGet {} (s.home home).slots n).gen + 1) % 64 } })).home home).slots n = _
  rw [State.modHome_self]
  exact tblGet_tblPut_self _ _ _ _

end Sys2Proof.Machine

namespace Sys2Proof.Proofs.Leases

open Sys2Proof.Machine Sys2Proof.Claims

theorem leasesAndSlots : LeasesAndSlots := by
  intro s core ctx home lease count quota
  refine ⟨?_, fun asked there => ?_, fun due => ?_, ?_, fun n releasing unread formed => ?_⟩
  · obtain ⟨beside, homes, is⟩ := s.askLease_spec core ctx home
    have run : exec (.leaseRequest core ctx home) s = .next (if lease.nums.length < 32 && !lease.refused then s.askLease core ctx home else s) := rfl
    by_cases low : lease.nums.length < 32 ∧ lease.refused = false
    · rw [if_pos (by simp [low.1, low.2])] at run
      refine ⟨s.askLease core ctx home, run, (s.askLease_mem core ctx home).1, homes, is.trans ?_⟩
      have same : ((s.lease core ctx home).nums.length < 64 ∧ (s.lease core ctx home).asked = 0) ↔ (lease.nums.length < 32 ∧ lease.refused = false ∧ lease.asked = 0) :=
        ⟨fun h => ⟨low.1, low.2, h.2⟩, fun h => ⟨by have := h.1; simp only [lease] at this; omega, h.2.2⟩⟩
      exact if_congr same rfl rfl
    · rw [if_neg (by simpa using low)] at run
      exact ⟨s, run, rfl, rfl, (if_neg fun h => low ⟨h.1, h.2.1⟩).symm⟩
  · obtain ⟨t, run, mem, grants⟩ := leaseGrant_grants s core ctx home asked there
    refine ⟨t, run, mem, fun room => ⟨grantOf s home (min lease.asked (quota - count)), grantOf_length _ _ _, ?_, fun n hn => ?_⟩⟩
    · rw [grants room]
      exact granted_lease s core ctx home _
    · refine ⟨(grantOf_free hn).1, (grantOf_free hn).2, ?_⟩
      rw [grants room]
      exact granted_slot s core ctx home _ hn
  · exact leaseRefuse_refuses due
  · intro b holds due
    exact releaseBatchSend_releases holds due
  · exact slotFree_frees releasing unread formed

end Sys2Proof.Proofs.Leases

end

section
/-! SUPPORT. Operations of a home and crossings (R279-R283, R287). -/

namespace Sys2Proof.Machine

open Sys2Proof.Claims

/-! ### Reading slots back (R274, R279) -/

/-- The slot that a proxy word names. -/
def slotOf (s : State) (w : Word) : SbSlot := tblGet {} (s.home (w.toNat / 2 ^ 28)).slots (w.toNat / 64 % 2 ^ 22)

theorem proxyStack_eq (w : Word) : proxyStack w = w.toNat / 2 ^ 28 := Nat.mod_eq_of_lt (Nat.div_lt_of_lt_mul w.isLt)

theorem slotOf_eq (s : State) (w : Word) : tblGet {} (s.home (proxyStack w)).slots (proxySlot w) = slotOf s w := by
  rw [proxyStack_eq]
  rfl

theorem proxyGen_eq (w : Word) : proxyGen w = w.toNat % 64 := by
  show w.toNat / 2 ^ 0 % 64 = w.toNat % 64
  rw [pow_zero, Nat.div_one]

theorem State.slotValue_full {s : State} {w : Word} (full : (slotOf s w).full = true) : s.slotValue (proxyStack w) (proxySlot w) = some (slotOf s w).val := by
  unfold State.slotValue
  dsimp only
  rw [slotOf_eq, if_pos full]

theorem State.staleWord_none {s : State} {l : List Word} (fresh : ∀ w ∈ l, (slotOf s w).gen = w.toNat % 64) : s.staleWord l = none := by
  refine List.find?_eq_none.2 fun w hw => ?_
  rw [slotOf_eq, proxyGen_eq, fresh w hw]
  simp

theorem State.badAt_none {s : State} (good : s.bad = []) (unit index loc : Nat) : s.badAt unit index loc = none := by rw [State.badAt, good]; rfl

/-- Slots lose readers; nothing else of them changes, and nothing beside the homes and the agenda. -/
structure SlotsRead (s t : State) : Prop where
  frame : t = { s with homes := t.homes, agenda := t.agenda }
  slot : ∀ d k, ∃ r, tblGet {} (t.home d).slots k = { tblGet {} (s.home d).slots k with readers := r }

theorem SlotsRead.refl (s : State) : SlotsRead s s := ⟨rfl, fun _ _ => ⟨_, rfl⟩⟩

theorem SlotsRead.trans {s t u : State} (h : SlotsRead s t) (k : SlotsRead t u) : SlotsRead s u where
  frame := by rw [k.frame, h.frame]
  slot d i := by
    obtain ⟨p, hp⟩ := h.slot d i
    obtain ⟨q, hq⟩ := k.slot d i
    exact ⟨q, by rw [hq, hp]⟩

/-- R274: one reader of the slot of a word less. -/
def unread (s : State) (w : Word) : State :=
  s.modHome (proxyStack w) (fun h => { h with slots := tblPut h.slots (proxySlot w) { slotOf s w with readers := (slotOf s w).readers - 1 } })

theorem SlotsRead.unread (s : State) (w : Word) : SlotsRead s (unread s w) where
  frame := rfl
  slot d k := by
    by_cases home : d = proxyStack w
    · subst home
      rw [Machine.unread, State.modHome_self]
      by_cases here : k = proxySlot w
      · subst here
        exact ⟨_, by rw [tblGet_tblPut_self, slotOf_eq]⟩
      · exact ⟨_, tblGet_tblPut_other _ _ _ here⟩
    · rw [Machine.unread, State.modHome_other _ _ home]
      exact ⟨_, rfl⟩

theorem SlotsRead.dropReader (s : State) (w : Word) : SlotsRead s (s.dropReader w) := by
  have read := SlotsRead.unread s w
  have run : s.dropReader w = if (slotOf s w).st = 4 && (slotOf s w).readers ≤ 1 then (Machine.unread s w).now (.slotFree (proxyStack w) (proxySlot w)) else Machine.unread s w := by
    unfold State.dropReader Machine.unread
    dsimp only
    rw [slotOf_eq]
  rw [run]
  split
  · exact read.trans ⟨rfl, fun _ _ => ⟨_, rfl⟩⟩
  · exact read

theorem SlotsRead.dropReaders (l : List Word) (s : State) : SlotsRead s (l.foldl (fun s w => s.dropReader w) s) := by
  induction l generalizing s with
  | nil => exact .refl s
  | cons w r ih => exact (SlotsRead.dropReader s w).trans (ih _)

theorem State.movedAt_home (s : State) (launch : Option Nat) (n : Nat) (keys : List Nat) : HomeFrame s (s.movedAt launch n keys) := by
  unfold State.movedAt
  refine HomeFrame.foldl _ (fun u key => ?_) _ s
  exact rfl

theorem HomeFrame.home {s t : State} (h : HomeFrame s t) (d : Nat) : t.home d = s.home d := by rw [h]; rfl

/-! ### An operation is executed (R280) -/

/-- The value of an argument. -/
def argValue (s : State) : HArg → Nat
  | .plain w => w.toNat
  | .slot w => (slotOf s w).val.toNat

theorem State.formSlot_forms {s : State} {home n : Nat} (pending : (tblGet {} (s.home home).slots n).st = 2) (v : Word) :
    (s.formSlot home n v).homeOps = s.homeOps ∧ tblGet {} ((s.formSlot home n v).home home).slots n = { tblGet {} (s.home home).slots n with st := 3, val := v, full := true } := by
  unfold State.formSlot
  dsimp only
  rw [if_neg (by rw [pending]; decide), if_pos pending]
  refine ⟨rfl, ?_⟩
  rw [State.modHome_self]
  exact tblGet_tblPut_self _ _ _ _

/-- What has been moved for an operation, and the slots it reads have been read. -/
theorem homeOperationExecute_eq {s : State} {id n : Nat} {o : HomeOp} (found : tblFind s.homeOps id = some o) (good : s.bad = []) (free : o.after = []) (res : o.res = some n)
    (full : ∀ w ∈ (o.args.map HArg.words).flatten, (slotOf s w).full = true ∧ (slotOf s w).gen = w.toNat % 64) (pending : (tblGet {} (s.home o.stack).slots n).st = 2) :
    ∃ u : State, u.mem = s.mem ∧ u.homeOps = tblDel s.homeOps id ∧ (tblGet {} (u.home o.stack).slots n).st = 2 ∧
      ∀ v, (∀ pa, o.elem = some pa → v = memNat s.mem pa 4) → (o.elem = none → v = (homeEval o.instr (bit o.flags 0) (bit o.flags 1) (o.args.map (argValue s))).bits) →
        execHomeOperationExecute id s = .next (u.formSlot o.stack n (BitVec.ofNat 32 v)) := by
  have ready : (o.after.all (fun a => !s.outstanding a) && (o.args.map HArg.words).flatten.all (fun w => (s.slotValue (proxyStack w) (proxySlot w)).isSome)) = true := by
    rw [free, List.all_nil, Bool.true_and, List.all_eq_true]
    exact fun w hw => by rw [State.slotValue_full (full w hw).1]; rfl
  have fresh : s.staleWord (o.args.map HArg.words).flatten = none := State.staleWord_none fun w hw => (full w hw).2
  have clean : s.badHomeRead o (o.args.map HArg.words).flatten = none := by
    rw [State.badHomeRead, List.findSome?_eq_none_iff.2 fun w _ => State.badAt_none good uSIDE (proxyStack w) (proxySlot w)]
    cases o.elem with
    | none => rfl
    | some pa => exact State.badMem_none good pa 4
  have after {m : State} (moved : HomeFrame { s with homeOps := tblDel s.homeOps id } m) (mem : m.mem = s.mem) (words : List Word) :
      (words.foldl (fun s w => s.dropReader w) m).mem = s.mem ∧ (words.foldl (fun s w => s.dropReader w) m).homeOps = tblDel s.homeOps id ∧
      (tblGet {} ((words.foldl (fun s w => s.dropReader w) m).home o.stack).slots n).st = 2 := by
    have read := SlotsRead.dropReaders words m
    obtain ⟨r, slot⟩ := read.slot o.stack n
    refine ⟨(congrArg State.mem read.frame).trans mem, (congrArg State.homeOps read.frame).trans (congrArg State.homeOps moved), ?_⟩
    rw [slot, moved.home]
    exact pending
  unfold execHomeOperationExecute
  simp only [found]
  rw [ready, fresh, clean, res]
  dsimp only [Bool.not_true, Bool.false_eq_true, ↓reduceIte]
  cases elem : o.elem with
  | none =>
    obtain ⟨mem, ops, st⟩ := after (State.movedAt_home _ (some (s.launchOfWg o.wg)) 4 [meterKey 2 o.stack]) (State.movedAt_mem _ _ _ _).1 (o.args.map HArg.words).flatten
    refine ⟨_, mem, ops, st, fun v _ value => ?_⟩
    rw [value rfl]
    refine congrArg (fun l => Host.Outcome.next (State.formSlot _ o.stack n (BitVec.ofNat 32 (homeEval o.instr (bit o.flags 0) (bit o.flags 1) l).bits))) (List.map_congr_left fun a ha => ?_)
    cases a with
    | plain w => rfl
    | slot w =>
      show ((s.slotValue (proxyStack w) (proxySlot w)).getD 0).toNat = (slotOf s w).val.toNat
      rw [State.slotValue_full (full w (List.mem_flatten.2 ⟨[w], List.mem_map.2 ⟨_, ha, rfl⟩, List.mem_singleton_self w⟩)).1]
      rfl
  | some pa =>
    obtain ⟨mem, ops, st⟩ := after (State.moved_home _ pa (some (s.launchOfWg o.wg)) 4) (State.moved_mem _ _ _ _).1 (o.args.map HArg.words).flatten
    exact ⟨_, mem, ops, st, fun v value _ => by rw [value pa rfl]; rfl⟩

/-! ### A crossing value arrives (R281-R283) -/

/-- The issue of a crossing with the value that has arrived. -/
def withValue (x : Xing) (o : XOp) (v : Word) : Issue := { x.iss with caps := tblPut x.iss.caps (crossKey o.lane o.reg) v }

theorem State.countCrossing_counts (s : State) (ctx kind : Nat) : let d := (s.countCrossing ctx kind).ctx ctx
    (d.ximp, d.xexp, d.xauto) = ((s.ctx ctx).ximp + if kind = 0 then 1 else 0, (s.ctx ctx).xexp + if kind = 1 then 1 else 0, (s.ctx ctx).xauto + if kind = 2 then 1 else 0) := by
  intro d
  have is : d = _ := s.modCtx_self ctx _
  rw [is]
  match kind with
  | 0 => simp
  | 1 => simp
  | 2 => simp
  | k + 3 => simp

/-- The last value of a crossing has arrived: the instruction goes on. -/
def goesOnWith (s : State) (core slot : Nat) (k : Issue) (i : Instr) : State :=
  { s.modGroup core slot (fun g => { g with xings := [] }) with agenda := .resume k i :: (s.modGroup core slot (fun g => { g with xings := [] })).agenda }

theorem crossingReturn_eq {s : State} {core slot : Nat} {x : Xing} {o : XOp} (only : (s.group core slot).xings = [x]) (ops : x.ops = [o]) (waits : o.got = false)
    (late : x.iss.phase > 0) (good : s.bad = []) (full : (slotOf s o.word).full = true) (gen : (slotOf s o.word).gen = o.word.toNat % 64) :
    ∃ k, execCrossingReturn core slot x.id 0 s = .next (goesOnWith ((s.dropReader o.word).countCrossing (s.ctxOfWg (s.wgOf core slot)) o.count) core slot k x.instr) ∧
      k.caps = tblPut x.iss.caps (crossKey o.lane o.reg) (slotOf s o.word).val ∧ k.failed = x.iss.failed := by
  have fresh : s.staleWord [o.word] = none := State.staleWord_none fun w hw => by rw [List.mem_singleton.1 hw]; exact gen
  have read := SlotsRead.dropReader s o.word
  have groups : ((s.dropReader o.word).countCrossing (s.ctxOfWg (s.wgOf core slot)) o.count).group core slot = s.group core slot := by
    show (s.dropReader o.word).group core slot = s.group core slot
    rw [read.frame]
    rfl
  unfold execCrossingReturn
  rw [only, List.find?_cons_of_pos (by simp)]
  dsimp only
  rw [ops, List.getElem?_cons_zero]
  dsimp only
  rw [waits, State.slotValue_full full, fresh, State.badAt_none good, groups, only, List.filter_cons_of_neg (by simp), List.filter_nil]
  dsimp only [List.set_cons_zero, Bool.false_eq_true, ↓reduceIte]
  refine ⟨{ withValue x o (slotOf s o.word).val with failed := x.iss.failed ++ [] }, ?_, rfl, List.append_nil _⟩
  show Host.Outcome.next (State.crossed _ core slot _) = _
  rw [State.crossed, if_neg (Nat.pos_iff_ne_zero.1 late)]
  rfl

end Sys2Proof.Machine

namespace Sys2Proof.Proofs.Leases

open Sys2Proof.Machine Sys2Proof.Claims

theorem homeOperationsAndCrossings : HomeOperationsAndCrossings := by
  refine ⟨fun s id n o found good free res => ?_, fun s core slot x o present only ops waits late good => ?_⟩
  · intro words slots full pending _ args
    have words_eq : words = (o.args.map HArg.words).flatten := congrArg List.flatten (List.map_congr_left fun a _ => by cases a <;> rfl)
    have args_eq : args = o.args.map (argValue s) := List.map_congr_left fun a _ => by cases a <;> rfl
    rw [words_eq] at full
    obtain ⟨u, mem, gone, st, run⟩ := homeOperationExecute_eq found good free res full pending
    cases elem : o.elem with
    | none =>
      obtain ⟨stays, forms⟩ := State.formSlot_forms st (BitVec.ofNat 32 (homeEval o.instr (bit o.flags 0) (bit o.flags 1) (o.args.map (argValue s))).bits)
      refine ⟨_, run _ (fun pa is => absurd (elem.symm.trans is) (by simp)) (fun _ => rfl), (State.formSlot_mem _ _ _ _).1.trans mem, ?_, ?_⟩
      · rw [stays, gone]
        exact tblFind_tblDel_self _ _
      · intro y
        have is : y = _ := forms
        rw [is]
        refine ⟨rfl, rfl, fun pa some' => absurd some' (by simp), fun _ => ?_⟩
        rw [args_eq, ← bit_eq_testBit, ← bit_eq_testBit]
    | some pa =>
      obtain ⟨stays, forms⟩ := State.formSlot_forms st (BitVec.ofNat 32 (memNat s.mem pa 4))
      refine ⟨_, run (memNat s.mem pa 4) (fun q is => by rw [Option.some.inj (elem.symm.trans is)]) (fun is => absurd (elem.symm.trans is) (by simp)), (State.formSlot_mem _ _ _ _).1.trans mem, ?_, ?_⟩
      · rw [stays, gone]
        exact tblFind_tblDel_self _ _
      · intro y
        have is : y = _ := forms
        rw [is]
        exact ⟨rfl, rfl, fun q same => by rw [Option.some.inj same], fun no => absurd no (by simp)⟩
  · intro z full gen
    obtain ⟨k, run, caps, failed⟩ := crossingReturn_eq only ops waits late good full gen
    have read := SlotsRead.dropReader s o.word
    refine ⟨_, k, _, run, ?_, ?_, rfl, ?_, failed, ?_⟩
    · exact (congrArg State.mem (State.modGroup_groups _ core slot _)).trans (s.dropReader_mem o.word).1
    · refine (congrArg Group.xings (State.modGroup_self _ _ ?_))
      show (s.dropReader o.word).hasGroup core slot = true
      rw [read.frame]
      exact present
    · rw [caps]
      exact tblFind_tblPut_self _ _ _
    · intro c d
      have ctxs : (s.dropReader o.word).ctx (s.ctxOfWg (s.wgOf core slot)) = s.ctx (s.ctxOfWg (s.wgOf core slot)) := by rw [read.frame]; rfl
      have is : d = ((s.dropReader o.word).countCrossing (s.ctxOfWg (s.wgOf core slot)) o.count).ctx (s.ctxOfWg (s.wgOf core slot)) := by
        show State.ctx _ _ = _
        rw [goesOnWith, State.modGroup_groups]
        rfl
      rw [is, State.countCrossing_counts, ctxs]

/-- Settles O25: each event by what it does to the lease and the slots of its home; a batch by induction on its numbers. -/
theorem leasesSlotsAndHomeOperations : Obligations.LeasesSlotsAndHomeOperations := ⟨leasesAndSlots, homeOperationsAndCrossings⟩

end Sys2Proof.Proofs.Leases

end

section
/-! SUPPORT. The debug commands (R381-R384, R388-R390, R32). -/

namespace Sys2Proof.Machine

open Sys2Proof.Claims

/-! ### Which command may act (R381, R382, R388) -/

theorem targetCtx (t : Long) : bits t.toNat 5 0 = t.toNat % 64 := by
  show t.toNat / 2 ^ 0 % 64 = t.toNat % 64
  rw [pow_zero, Nat.div_one]

section
variable {s : State} {p : BitVec 6}

theorem State.debugCtx_passes {c : Nat} (small : c < 64) (allowed : (s.ctx c).debug = true) (started : (s.ctx c).st = 1) (k : State) : s.debugCtx p c k = k := by
  rw [State.debugCtx, if_neg (by simp [allowed]; omega), if_neg (not_not.2 started)]

theorem State.debugWg_passes {t : Long} {w : Nat} (allowed : (s.ctx (t.toNat % 64)).debug = true) (started : (s.ctx (t.toNat % 64)).st = 1)
    (named : s.target t.toNat = some w) (k : Nat → State) : s.debugWg p t k = k w := by
  rw [State.debugWg, targetCtx, State.debugCtx_passes (Nat.mod_lt _ (by decide)) allowed started, named]

theorem State.stoppedWg_passes {t : Long} {w : Nat} (halted : Halted s t w) (k : Nat → State) : s.stoppedWg p t k = k w := by
  obtain ⟨allowed, started, named, stopped⟩ := halted
  rw [State.stoppedWg, State.debugWg_passes allowed started named]
  exact if_pos stopped

/-- A command that is not finished, on a page that otherwise runs as before. -/
theorem pending_notYet {u : State} (running : (u.kick p).running = (s.kick p).running) (status : (u.kick p).status = (s.kick p).status) (n : Nat) : Pending s (u.notYet p (n + 1)) p := by
  rw [Pending, State.notYet, State.modKick_self]
  exact ⟨Nat.succ_pos n, running, status⟩

theorem State.kick_of_kicks {t : State} (same : t.kicks = s.kicks) (q : BitVec 6) : t.kick q = s.kick q := by rw [State.kick, State.kick, same]

theorem State.wg_of_wgs {t : State} (same : t.wgs = s.wgs) (v : Nat) : t.wg v = s.wg v := by rw [State.wg, State.wg, same]

/-- A reply with status 0 after a change of something else. -/
theorem State.reply_completes {t : State} (same : t.kicks = s.kicks) (free : (s.kick p).latched = none) (res : List Byte) :
    t.reply p 0 res = answered t p 0 res ∧ Done s (answered t p 0 res) p res := State.reply_done t (State.kick_of_kicks same p) free res

end

/-! ### Debug stops (R389) -/

theorem State.debugStop_kicks (s : State) (w : Nat) : (s.debugStop w).kicks = s.kicks := by
  unfold State.debugStop State.stopWith
  split
  · split <;> rfl
  · cases halt : (s.wg w).halt with
    | some r => rw [s.haltWg_stands halt]
    | none =>
      rw [State.haltWg, halt]
      exact foldl_same State.kicks (by intros; rfl) _ _

theorem State.debugStop_other (s : State) {w v : Nat} (apart : v ≠ w) : (s.debugStop w).wg v = s.wg v := by
  unfold State.debugStop State.stopWith
  split
  · split
    · rfl
    · exact s.modWg_other _ apart
  · exact s.haltWg_other apart _ _

theorem State.debugStop_running (s : State) {w : Nat} (running : (s.wg w).halt = none) : ((s.debugStop w).wg w).halt = some { code := 0, kind := 4, time := s.tick } := by
  unfold State.debugStop State.stopWith
  split
  · rw [if_neg (by simp [running]), State.modWg_self]
  · exact s.haltWg_halt w none _ running

theorem State.debugStop_halted (s : State) {w v : Nat} (here : v = w ∨ (s.wg v).halt ≠ none) : ((s.debugStop w).wg v).halt ≠ none := by
  by_cases own : v = w
  · subst own
    cases halt : (s.wg v).halt with
    | none => simp [s.debugStop_running halt]
    | some r =>
      have stands : s.debugStop v = s := by
        unfold State.debugStop State.stopWith
        split
        · rw [if_pos (by simp [halt])]
        · exact s.haltWg_stands halt _
      rw [stands, halt]
      simp
  · rw [s.debugStop_other own]
    exact here.resolve_left own

theorem State.debugStops_spec (l : List Nat) (s : State) : (l.foldl (fun s w => s.debugStop w) s).kicks = s.kicks ∧
    (∀ v, v ∉ l → (l.foldl (fun s w => s.debugStop w) s).wg v = s.wg v) ∧
    ∀ v, v ∈ l ∨ (s.wg v).halt ≠ none → ((l.foldl (fun s w => s.debugStop w) s).wg v).halt ≠ none := by
  induction l generalizing s with
  | nil => exact ⟨rfl, fun _ _ => rfl, fun v h => h.resolve_left List.not_mem_nil⟩
  | cons w r ih =>
    obtain ⟨kicks, others, halted⟩ := ih (s.debugStop w)
    refine ⟨kicks.trans (s.debugStop_kicks w), fun v out => ?_, fun v h => halted v ?_⟩
    · rw [List.foldl_cons, others v fun m => out (List.mem_cons_of_mem _ m), s.debugStop_other fun e => out (List.mem_cons.2 (.inl e))]
    · rcases h with mem | before
      · rcases List.mem_cons.1 mem with own | rest
        · exact .inr (s.debugStop_halted (.inl own))
        · exact .inl rest
      · exact .inr (s.debugStop_halted (.inr before))

/-- R375, R389: the workgroups stop, and the command goes on. -/
theorem State.stopAll_pending (s : State) (p : BitVec 6) (l : List Nat) (n : Nat) : Pending s ((s.stopAll p l).notYet p (n + 1)) p := by
  have kick : (l.foldl (fun s w => s.debugStop w) s).kick p = s.kick p := State.kick_of_kicks (State.debugStops_spec l s).1 p
  refine pending_notYet ?_ ?_ n
  all_goals
    rw [State.stopAll, State.modKick_self, kick]

theorem State.stopAll_wg (s : State) (p : BitVec 6) (l : List Nat) (n v : Nat) : ((s.stopAll p l).notYet p n).wg v = (l.foldl (fun s w => s.debugStop w) s).wg v := rfl

/-! ### A workgroup goes on (R341, R390, R395) -/

theorem State.letRun_spec (s : State) (p : BitVec 6) (w n : Nat) (f : Workgroup → Workgroup) : Pending s ((s.letRun p w f).notYet p (n + 1)) p ∧
    ((s.letRun p w f).notYet p (n + 1)).mem = s.mem ∧ ((s.letRun p w f).notYet p (n + 1)).wg w = f ((s.resumeWg w).wg w) := by
  have kick : ((s.resumeWg w).modWg w f).kick p = s.kick p := State.kick_of_kicks (s.resumeWg_kicks w) p
  refine ⟨pending_notYet ?_ ?_ n, (s.resumeWg_mem w).1, (s.resumeWg w).modWg_self w f⟩
  all_goals
    rw [State.letRun, State.modKick_self, kick]

theorem State.resumeWg_workgroup (s : State) (w : Nat) : (s.resumeWg w).wg w = (s.wg w).resumed := by
  rw [s.resumeWg_events w]
  exact s.modWg_self w Workgroup.resumed

/-! ### A halted thread (R32) -/

theorem State.haltedThread_named {s : State} {w : Nat} {gn lane : Word} {g : Group} (named : s.groupNo w gn.toNat = some g) (small : lane.toNat < 32)
    (lives : (g.thread lane.toNat).exited = false) : s.haltedThread w gn lane = some g := by
  unfold State.haltedThread
  rw [if_neg (by omega), named]
  exact if_neg (by simp [lives])

/-- What a command that writes a lane of a halted thread changes of a group. -/
def haltedGroup (w g l : Nat) (f : Thread → Thread) (x : Group) : Group := if x.wg = w && x.idx = g then { x with threads := x.threads.modify l f } else x

theorem mapGroups_group (u : State) (m : Group → Group) {core slot : Nat} (present : u.hasGroup core slot = true) :
    ({ u with groups := u.groups.map (fun (p : Nat × Group) => (p.1, m p.2)) } : State).group core slot = m (u.group core slot) := by
  unfold State.group tblGet
  obtain ⟨g, found⟩ := Option.isSome_iff_exists.1 present
  rw [tblFind_map (fun (p : Nat × Group) => (p.1, m p.2)) m fun _ => rfl, found]
  rfl

/-- Two states with the same groups and kick pages. -/
structure SameGroups (s t : State) : Prop where
  groups : t.groups = s.groups
  kicks : t.kicks = s.kicks
  mem : t.mem = s.mem

theorem SameGroups.refl (s : State) : SameGroups s s := ⟨rfl, rfl, rfl⟩

theorem SameGroups.trans {s t u : State} (h : SameGroups s t) (k : SameGroups t u) : SameGroups s u := ⟨k.groups.trans h.groups, k.kicks.trans h.kicks, k.mem.trans h.mem⟩

theorem SameGroups.noteFirst (s : State) (w : Nat) (l : List (Nat × Nat × Nat)) : SameGroups s (s.noteFirst w l) := by
  unfold State.noteFirst
  split
  · exact ⟨rfl, rfl, rfl⟩
  · exact .refl s

theorem SameGroups.noteMended (s : State) (w : Nat) : SameGroups s (s.noteMended w) := by
  unfold State.noteMended
  split
  · split
    · exact ⟨rfl, rfl, rfl⟩
    · exact .refl s
  · exact .refl s

/-- A thread has been changed, and no kick page. -/
structure ThreadWritten (s t : State) (core slot l : Nat) (f : Thread → Thread) : Prop where
  thread : t.thread core slot l = f (s.thread core slot l)
  kicks : t.kicks = s.kicks
  mem : t.mem = s.mem

theorem SameGroups.written {s u t : State} (same : SameGroups s u) {core slot l : Nat} {f : Thread → Thread} (h : ThreadWritten u t core slot l f) : ThreadWritten s t core slot l f where
  thread := by rw [h.thread, State.thread, State.thread, State.group, State.group, same.groups]
  kicks := h.kicks.trans same.kicks
  mem := h.mem.trans same.mem

/-- R32: a lane of a halted thread is written. -/
theorem State.modHalted_written {s u : State} (same : u.groups = s.groups) {core slot w g l : Nat} (present : s.hasGroup core slot = true) (own : (s.group core slot).wg = w)
    (idx : (s.group core slot).idx = g) (long : l < (s.group core slot).threads.length) (f : Thread → Thread) : ThreadWritten u (u.modHalted w g l f) core slot l f where
  thread := by
    have group : u.group core slot = s.group core slot := by rw [State.group, State.group, same]
    have there : u.hasGroup core slot = true := by rw [State.hasGroup, same]; exact present
    have is : (u.modHalted w g l f).group core slot = haltedGroup w g l f (u.group core slot) := mapGroups_group (u.modWg w _) (haltedGroup w g l f) there
    rw [State.thread, State.thread, is, group, haltedGroup, if_pos (by simp [own, idx]), Group.thread, Group.thread]
    simp [List.getD, long]
  kicks := rfl
  mem := rfl

/-- The register lane as a halted thread holds it. -/
def heldReg (s : State) (w g l r : Nat) : Reg := match s.groupNo w g with
  | some x => (x.thread l).reg r
  | none => {}

/-- R18, R157: a lane written loses its mask and releases the slot that it held. -/
theorem State.writeHaltedReg_written {s u : State} (same : u.groups = s.groups) {core slot w g l : Nat} (present : s.hasGroup core slot = true) (own : (s.group core slot).wg = w)
    (idx : (s.group core slot).idx = g) (long : l < (s.group core slot).threads.length) (r : Nat) (v : Word) :
    ThreadWritten u (u.writeHaltedReg w g l r v) core slot l (fun t => { t with regs := tblSet {} t.regs r ⟨v, false⟩ }) := by
  let f : Thread → Thread := fun t => { t with regs := tblSet {} t.regs r ⟨v, false⟩ }
  let drop (x : Group) : Group := if x.wg = w && x.idx = g then x.dropMasks l r else x
  let n := u.noteFirst w [(0, g, r)]
  let a := (n.modHalted w g l f).modWg w (fun x => { x with saved := x.saved.map (fun (p : Nat × Group) => (p.1, drop p.2)) })
  let b : State := { a with groups := a.groups.map (fun (p : Nat × Group) => (p.1, drop p.2)) }
  have noted : SameGroups u n := .noteFirst u w _
  have wrote := noted.written (State.modHalted_written (noted.groups.trans same) present own idx long f)
  have there : a.hasGroup core slot = true := by
    show (n.modHalted w g l f).hasGroup core slot = true
    have here : n.hasGroup core slot = true := by rw [State.hasGroup, noted.groups, same]; exact present
    rw [State.hasGroup, State.modHalted]
    dsimp only
    rw [tblFind_map (fun (p : Nat × Group) => (p.1, if p.2.wg = w && p.2.idx = g then { p.2 with threads := p.2.threads.modify l f } else p.2)) (haltedGroup w g l f) fun _ => rfl, Option.isSome_map]
    exact here
  have cleared : ThreadWritten u b core slot l f := by
    refine ⟨?_, wrote.kicks, wrote.mem⟩
    have is : b.group core slot = drop (a.group core slot) := mapGroups_group a drop there
    have keeps (x : Group) : (drop x).thread l = x.thread l := by
      simp only [drop]
      split <;> rfl
    rw [State.thread, is, keeps]
    exact wrote.thread
  have run : u.writeHaltedReg w g l r v = b ∨ ∃ core ctx old, u.writeHaltedReg w g l r v = b.release core ctx old := by
    have cases' : u.writeHaltedReg w g l r v = if (heldReg u w g l r).tag && !u.replaying w then b.release (u.wg w).core (u.ctxOfWg w) (heldReg u w g l r).val else b := rfl
    rw [cases']
    split
    · exact .inr ⟨_, _, _, rfl⟩
    · exact .inl rfl
  rcases run with run | ⟨c, x, old, run⟩
  · rw [run]
    exact cleared
  · have released := WorkFrame.release b c x old
    rw [run]
    refine ⟨?_, ?_, ?_⟩
    · rw [State.thread, State.group, released]
      exact cleared.thread
    · rw [released]
      exact cleared.kicks
    · rw [released]
      exact cleared.mem

/-- The predicates that a write of all of them sets. -/
theorem Thread.setPreds_pred (v : Long) (n : Nat) (low : n ≤ 7) (t : Thread) {q : Nat} (hq : q < n) :
    ((List.range n).foldl (fun t p => t.setPred p (v.getLsbD p)) t).pred q = v.getLsbD q := by
  induction n with
  | zero => exact absurd hq (Nat.not_lt_zero q)
  | succ n ih =>
    rw [List.range_succ, List.foldl_append, List.foldl_cons, List.foldl_nil, Thread.setPred_pred _ _ _ _ (by omega)]
    by_cases here : n = q
    · rw [if_pos here, here]
    · rw [if_neg here]
      exact ih (by omega) (by omega)

end Sys2Proof.Machine

end

section
/-! SUPPORT. The debug commands act on what their words name (Table 23-3). -/

namespace Sys2Proof.Proofs.DebugAndReplay

open Sys2Proof.Machine Sys2Proof.Claims

section
variable {s : State} {p : BitVec 6} (free : (s.kick p).latched = none)
include free

theorem answers (status : Nat) (res : List Byte) : s.reply p status res = answered s p status res := State.reply_answered free status res

/-- A change of a context, and a reply. -/
theorem ctxWritten (c : Nat) (f : Ctx → Ctx) : ∃ t, (s.modCtx c f).reply p 0 [] = t ∧ Done s t p [] ∧ t.mem = s.mem ∧ t.ctx c = f (s.ctx c) := by
  obtain ⟨run, done⟩ := State.reply_completes (t := s.modCtx c f) rfl free []
  exact ⟨_, run, done, rfl, s.modCtx_self c f⟩

theorem breakpointSet_sets {c i e : Word} {pos : Long} (small : c.toNat < 64) (allowed : (s.ctx c.toNat).debug = true) (started : (s.ctx c.toNat).st = 1) (slot : i.toNat < 8)
    (aligned : pos.toNat / 8 % 8 = 0) (low : pos.toNat % 8 ≤ 4) (within : pos.toNat < 2 ^ 57) (one : e.toNat ≤ 1) :
    ∃ t, exec (.breakpointSet p c i e pos) s = .next t ∧ Done s t p [] ∧ t.mem = s.mem ∧ tblFind (t.ctx c.toNat).bps i.toNat = if e = 1 then some pos else none := by
  obtain ⟨t, run, done, mem, ctx⟩ := ctxWritten free c.toNat (fun x => { x with bps := if e = 1 then tblPut x.bps i.toNat pos else tblDel x.bps i.toNat })
  have step : exec (.breakpointSet p c i e pos) s = execBreakpointSet p c i e pos s := rfl
  refine ⟨t, ?_, done, mem, ?_⟩
  · have bits' : bits pos.toNat 5 3 = 0 := aligned
    rw [step, execBreakpointSet, State.debugCtx_passes small allowed started, if_neg (by simp [bits']; omega), run]
  · rw [ctx]
    by_cases on : e = 1
    · rw [if_pos on, if_pos on]
      exact tblFind_tblPut_self _ _ _
    · rw [if_neg on, if_neg on]
      exact tblFind_tblDel_self _ _

theorem watchpointSet_sets {c i kind len : Word} {va : Long} (small : c.toNat < 64) (allowed : (s.ctx c.toNat).debug = true) (started : (s.ctx c.toNat).st = 1) (slot : i.toNat < 8)
    (kinds : kind.toNat < 16) (some' : len ≠ 0) (within : len.toNat ≤ 2 ^ 30) :
    ∃ t, exec (.watchpointSet p c i kind va len) s = .next t ∧ Done s t p [] ∧ t.mem = s.mem ∧
      tblFind (t.ctx c.toNat).wps i.toNat = if kind.getLsbD 0 then some { kinds := kind.toNat, base := va.toNat, len := len.toNat } else none := by
  obtain ⟨t, run, done, mem, ctx⟩ := ctxWritten free c.toNat
    (fun x => { x with wps := if kind.getLsbD 0 then tblPut x.wps i.toNat { kinds := kind.toNat, base := va.toNat, len := len.toNat } else tblDel x.wps i.toNat })
  have step : exec (.watchpointSet p c i kind va len) s = execWatchpointSet p c i kind va len s := rfl
  have fits : ¬ (decide (i.toNat ≥ 8) || decide (kind.toNat ≥ 16) || decide (len = 0) || decide (len.toNat > 2 ^ 30)) = true := by
    rw [decide_eq_false some']
    simp
    omega
  refine ⟨t, ?_, done, mem, ?_⟩
  · rw [step, execWatchpointSet, State.debugCtx_passes small allowed started, if_neg fits, run]
  · rw [ctx]
    by_cases on : kind.getLsbD 0 = true
    · rw [if_pos on, if_pos on]
      exact tblFind_tblPut_self _ _ _
    · rw [if_neg on, if_neg on]
      exact tblFind_tblDel_self _ _

theorem debugHalt_settled {target : Long} {w : Nat} (late : (s.kick p).phase ≠ 0) (named : s.target target.toNat = some w) (settled : (s.wg w).settled = true) :
    exec (.debugHalt p target false) s = .next (answered s p 0 []) := by
  have step : exec (.debugHalt p target false) s = execDebugHalt p target false s := rfl
  rw [step, execDebugHalt]
  dsimp only
  rw [if_neg Bool.false_ne_true, if_neg late, named]
  dsimp only
  rw [if_pos (by simp [settled]), answers free]

/-! ### Commands on a debug-stopped workgroup -/

variable {target : Long} {w : Nat} (halted : Halted s target w)
include halted

theorem debugResume_resumes : ∃ t, exec (.debugResume p target) s = .next t ∧ Done s t p [] ∧ t.mem = s.mem ∧ (t.wg w).halt = none ∧ (t.wg w).settled = false ∧
    ∀ core slot, s.hasGroup core slot = true → (s.group core slot).wg = w → (t.group core slot).stopped = false ∧ (t.group core slot).threads = (s.group core slot).threads := by
  obtain ⟨run, done⟩ := State.reply_completes (t := s.resumeWg w) (s.resumeWg_kicks w) free []
  obtain ⟨keeps, -, -, goes⟩ := s.resumeWg_spec w
  have step : exec (.debugResume p target) s = execDebugResume p target s := rfl
  refine ⟨_, ?_, done, (s.resumeWg_mem w).1, ?_, ?_, fun core slot present own => ⟨?_, keeps.threads core slot⟩⟩
  · rw [step, execDebugResume, State.stoppedWg_passes halted, run]
  · exact congrArg Workgroup.halt (s.resumeWg_workgroup w)
  · exact congrArg Workgroup.settled (s.resumeWg_workgroup w)
  · have there : (s.resumeWg w).hasGroup core slot = true := (keeps.present core slot).trans present
    obtain ⟨g, found⟩ := Option.isSome_iff_exists.1 there
    have is : (s.resumeWg w).group core slot = g := by rw [State.group, tblGet, found]; rfl
    have owns : g.wg = w := by rw [← is, keeps.owner, own]
    show ((s.resumeWg w).group core slot).stopped = false
    rw [is]
    exact goes (gkey core slot, g) (mem_of_tblFind found) owns

theorem readWorkgroup_eq (i : Word) : exec (.readWorkgroup p target i) s = .next (((s.wgItem w (i.toNat % 256)).map fun b =>
    if i.toNat / 256 = 0 ∨ 2032 * (i.toNat / 256) < b.length then answered s p 0 ((b.drop (2032 * (i.toNat / 256))).take 2032) else answered s p 2 []).getD (answered s p 2 [])) := by
  have step : exec (.readWorkgroup p target i) s = execReadWorkgroup p target i s := rfl
  rw [step, execReadWorkgroup, State.stoppedWg_passes halted]
  cases s.wgItem w (i.toNat % 256) with
  | none => exact congrArg _ (answers free 2 [])
  | some b =>
    refine congrArg Host.Outcome.next ?_
    dsimp only
    rw [answers free, answers free]
    simp only [Bool.or_eq_true, decide_eq_true_eq]
    rfl

theorem listStopped_lists {c : Word} (same : c.toNat = target.toNat % 64) : exec (.listStopped p c) s = .next (answered s p 0
    (((s.wgs.filter (fun y => s.ctxOfWg y.1 = c.toNat && s.debugStopped y.1)).map (fun y => leBytes 8 (s.targetWord y.1) ++ (s.faultKept y.1 (y.2.halt.getD {})).bytes)).flatten)) := by
  obtain ⟨allowed, started, -, -⟩ := halted
  have step : exec (.listStopped p c) s = execListStopped p c s := rfl
  rw [← same] at allowed started
  rw [step, execListStopped, State.debugCtx_passes (by rw [same]; exact Nat.mod_lt _ (by decide)) allowed started, answers free]

/-! ### Commands on a halted thread -/

section
variable {gn lane : Word} {g : Group} (named : s.groupNo w gn.toNat = some g) (small : lane.toNat < 32) (lives : (g.thread lane.toNat).exited = false)
include named small lives

omit free in
theorem stepCmd_steps (first : (s.kick p).phase = 0) : ∃ t, exec (.stepCmd p target gn lane) s = .next t ∧ t.mem = s.mem ∧ Pending s t p ∧ (t.wg w).halt = none ∧
    (t.wg w).step = some (gn.toNat, lane.toNat) := by
  obtain ⟨pending, mem, wg⟩ := s.letRun_spec p w 0 (fun x => { x with step := some (gn.toNat, lane.toNat) })
  have step : exec (.stepCmd p target gn lane) s = execStepCmd p target gn lane s := rfl
  refine ⟨_, ?_, mem, pending, ?_, congrArg Workgroup.step wg⟩
  · rw [step, execStepCmd, if_pos first, State.stoppedWg_passes halted, named]
    exact congrArg _ (if_neg (by simp [lives]; omega))
  · rw [wg]
    exact congrArg Workgroup.halt (s.resumeWg_workgroup w)

theorem readThread_reads (item : Word) : exec (.readThread p target gn lane item) s = .next ((((Config.threadItem item.toNat).bind (s.threadItem w g lane.toNat)).map fun b =>
    answered s p 0 b).getD (answered s p 2 [])) := by
  have step : exec (.readThread p target gn lane item) s = execReadThread p target gn lane item s := rfl
  rw [step, execReadThread, State.stoppedWg_passes halted, State.haltedThread_named named small lives]
  dsimp only
  cases (Config.threadItem item.toNat).bind (s.threadItem w g lane.toNat) with
  | none => exact congrArg _ (answers free 2 [])
  | some b => exact congrArg _ (answers free 0 b)

end

end

/-- A thread has been written, and the command has completed. -/
theorem threadWritten_done {s t : State} {p : BitVec 6} (free : (s.kick p).latched = none) {core slot l : Nat} {f : Thread → Thread} (h : ThreadWritten s t core slot l f) :
    ∃ u, t.reply p 0 [] = u ∧ u.mem = s.mem ∧ Done s u p [] ∧ u.thread core slot l = f (s.thread core slot l) := by
  obtain ⟨run, done⟩ := State.reply_completes (t := t) h.kicks free []
  exact ⟨_, run, h.mem, done, h.thread⟩

/-- A write that is made under a condition, and refused otherwise. -/
theorem writes_if {c : Prop} [Decidable c] {a b : State} {m : List Host.Cell} {made refused : State → Prop} (yes : c → ∃ t, a = t ∧ t.mem = m ∧ made t) (no : b.mem = m ∧ refused b) :
    ∃ t, (Host.Outcome.next (if c then a else b) : Host.Outcome State Fault Refusal) = .next t ∧ t.mem = m ∧ if c then made t else refused t := by
  by_cases h : c
  · obtain ⟨t, run, mem, is⟩ := yes h
    exact ⟨t, by rw [if_pos h, run], mem, by rw [if_pos h]; exact is⟩
  · exact ⟨b, by rw [if_neg h], no.1, by rw [if_neg h]; exact no.2⟩

/-- R32: what a write of an item leaves. -/
theorem writeThread_writes {s : State} {p : BitVec 6} (free : (s.kick p).latched = none) {target : Long} {w : Nat} (halted : Halted s target w) {gn lane : Word} {core slot : Nat}
    (present : s.hasGroup core slot = true) (own : (s.group core slot).wg = w) (named : s.groupNo w gn.toNat = some (s.group core slot)) (small : lane.toNat < 32)
    (long : lane.toNat < (s.group core slot).threads.length) (lives : (s.thread core slot lane.toNat).exited = false) (item : Word) (v : Long) :
    ∃ t, exec (.writeThread p target gn lane item v) s = .next t ∧ t.mem = s.mem ∧
      let y := s.thread core slot lane.toNat
      let z := t.thread core slot lane.toNat
      match Config.threadItem item.toNat with
      | some (.reg r) => if r < (s.group core slot).n then Done s t p [] ∧ z.reg r = ⟨v.setWidth 32, false⟩ ∧ ∀ q, q ≠ r → z.reg q = y.reg q else t = answered s p 2 []
      | some (.pred q) => if q < 7 then Done s t p [] ∧ z = y.setPred q (v.getLsbD 0) else t = answered s p 2 []
      | some .preds => Done s t p [] ∧ ∀ q, q < 7 → z.pred q = v.getLsbD q
      | some (.ret d) => if d < y.depth then Done s t p [] ∧ z = y.setRet d v else t = answered s p 2 []
      | _ => t = answered s p 2 [] := by
  have step : exec (.writeThread p target gn lane item v) s = execWriteThread p target gn lane item v s := rfl
  have noted : SameGroups s (s.noteMended w) := .noteMended s w
  have wrote (f : Thread → Thread) := noted.written (State.modHalted_written noted.groups present own rfl long f)
  have refuses : (s.reply p 2 []).mem = s.mem ∧ s.reply p 2 [] = answered s p 2 [] := ⟨by rw [answers free]; rfl, answers free 2 []⟩
  have refused : ∃ t, (Host.Outcome.next (s.reply p 2 []) : Host.Outcome State Fault Refusal) = .next t ∧ t.mem = s.mem ∧ t = answered s p 2 [] := ⟨_, rfl, refuses⟩
  rw [step, execWriteThread, State.stoppedWg_passes halted, State.haltedThread_named named small lives]
  dsimp only
  cases Config.threadItem item.toNat with
  | none => exact refused
  | some kind =>
    cases kind with
    | reg r =>
      refine writes_if (fun _ => ?_) refuses
      obtain ⟨u, run, mem, done, thread⟩ := threadWritten_done free (noted.written (State.writeHaltedReg_written noted.groups present own rfl long r (v.setWidth 32)))
      refine ⟨u, run, mem, done, ?_⟩
      rw [thread]
      exact ⟨tblGet_tblSet_self _ _ _ _, fun q ne => tblGet_tblSet_other _ _ _ ne⟩
    | pred q => exact writes_if (fun _ => threadWritten_done free (wrote fun t => t.setPred q (v.getLsbD 0))) refuses
    | preds =>
      obtain ⟨u, run, mem, done, thread⟩ := threadWritten_done free (wrote fun t => (List.range 7).foldl (fun t p => t.setPred p (v.getLsbD p)) t)
      refine ⟨u, congrArg _ run, mem, done, fun q hq => ?_⟩
      rw [thread]
      exact Thread.setPreds_pred v 7 le_rfl _ hq
    | ret d => exact writes_if (fun _ => threadWritten_done free (wrote fun t => t.setRet d v)) refuses
    | pos => exact refused
    | depth => exact refused
    | path => exact refused
    | stall => exact refused
    | tokens => exact refused
    | special i => exact refused

theorem debugHalts (s : State) (p : BitVec 6) (target : Long) (w : Nat) (allowed : (s.ctx (target.toNat % 64)).debug = true) (started : (s.ctx (target.toNat % 64)).st = 1)
    (first : (s.kick p).phase = 0) :
    (s.target target.toNat = some w → (s.wg w).phase = 0 → (s.wg w).halt = none → ∃ t, exec (.debugHalt p target false) s = .next t ∧ t.mem = s.mem ∧
      Pending s t p ∧ (t.wg w).halt = some { code := 0, kind := 4, time := s.tick }) ∧
    ∃ t, exec (.debugHalt p target true) s = .next t ∧ t.mem = s.mem ∧ Pending s t p ∧ ∀ y ∈ s.wgs, s.ctxOfWg y.1 = target.toNat % 64 → (t.wg y.1).halt ≠ none := by
  have step (all : Bool) : exec (.debugHalt p target all) s = execDebugHalt p target all s := rfl
  refine ⟨fun named _ running => ⟨(s.stopAll p [w]).notYet p 1, ?_, (s.stopAll_mem p [w]).1, s.stopAll_pending p [w] 0, s.debugStop_running running⟩, ?_⟩
  · rw [step, execDebugHalt]
    dsimp only
    rw [if_neg Bool.false_ne_true, if_pos first, State.debugWg_passes allowed started named]
  · let mine := (s.wgs.filter (fun p => decide (s.ctxOfWg p.1 = bits target.toNat 5 0))).map (fun p => p.1)
    refine ⟨(s.stopAll p mine).notYet p 1, ?_, (s.stopAll_mem p mine).1, s.stopAll_pending p mine 0, fun y hy same => ?_⟩
    · rw [step, execDebugHalt]
      dsimp only
      rw [if_pos rfl, if_pos first, targetCtx, State.debugCtx_passes (Nat.mod_lt _ (by decide)) allowed started]
      rw [← targetCtx]
    · rw [State.stopAll_wg]
      refine (State.debugStops_spec mine s).2.2 y.1 (.inl (List.mem_map.2 ⟨y, List.mem_filter.2 ⟨hy, ?_⟩, rfl⟩))
      rw [targetCtx]
      exact decide_eq_true same

theorem debugCommands : DebugCommands := by
  intro s p free
  refine ⟨fun c i e kind len pos va small allowed started slot => ⟨?_, ?_⟩, fun target w allowed started first => debugHalts s p target w allowed started first,
    fun target w late named settled => debugHalt_settled free late named settled, fun target w halted => ⟨debugResume_resumes free halted, fun i => ?_, fun c same => listStopped_lists free halted same, ?_⟩⟩
  · exact fun aligned low within one => breakpointSet_sets free small allowed started slot aligned low within one
  · exact fun kinds some' within => watchpointSet_sets free small allowed started slot kinds some' within
  · have read := readWorkgroup_eq free halted i
    intro part
    refine ⟨fun item => ?_, fun item => ?_, fun item => ?_⟩
    · rw [item] at read
      exact read
    · rw [item] at read
      exact read
    · obtain ⟨k, hk⟩ : ∃ k, i.toNat % 256 = k + 5 := ⟨i.toNat % 256 - 5, by omega⟩
      rw [hk] at read
      exact read
  · intro gn lane item core slot present own _ named small long lives
    refine ⟨fun first => stepCmd_steps halted named small lives first, ?_, fun v => writeThread_writes free halted present own named small long lives item v⟩
    refine (readThread_reads free halted named small lives item).trans (congrArg _ ?_)
    cases (Config.threadItem item.toNat).bind (s.threadItem w (s.group core slot) lane.toNat) <;> rfl

end Sys2Proof.Proofs.DebugAndReplay

end

section
/-! SUPPORT. Checkpoints and precise stops (R391, R392, R395, R396). -/

namespace Sys2Proof.Machine

open Sys2Proof.Claims

/-! ### Checkpoints (R392) -/

/-- R392: the next interval has begun. -/
theorem State.startInterval_resets {s : State} {w : Nat} (replays : s.replaying w = true) : s.startInterval w = s.modWg w (fun x => { x with replay := { image := { s.snapOf w with loads := 0, firsts := [] } } }) := by
  rw [State.startInterval, if_pos replays]

theorem checkpoint_begins {s : State} {w : Nat} (due : s.checkpointDue w = true) (copies : ∀ c ∈ (s.wg w).copies, c.2.st = 0) (matrix : ∀ o ∈ (s.core (s.wg w).core).mq, o.wg ≠ w)
    (sent : ∀ q ∈ s.sent, q.2.packet.senderWg ≠ w) : ∃ t, execCheckpoint w s = .next t ∧ t.mem = s.mem ∧ t.groups = s.groups ∧ (t.wg w).ival = (s.wg w).ival + 1 ∧ (t.wg w).rwc = 0 ∧
      (t.wg w).replay.undo = [] ∧ (t.wg w).replay.loads = [] ∧ (t.wg w).replay.sched = [] ∧ (t.wg w).replay.firsts = [] ∧ (t.wg w).replay.faults = [] := by
  have idle : (s.wg w).copies.any (fun c => Decidable.decide (c.2.st ≠ 0)) = false := List.any_eq_false.2 fun c hc => by simp [copies c hc]
  have unqueued : (s.core (s.wg w).core).mq.any (fun o => Decidable.decide (o.wg = w)) = false := List.any_eq_false.2 fun o ho => by simp [matrix o ho]
  have unsent : s.sent.any (fun q => Decidable.decide (q.2.packet.senderWg = w)) = false := List.any_eq_false.2 fun q hq => by simp [sent q hq]
  have run : execCheckpoint w s = .next ((s.modWg w (fun x => { x with ival := x.ival + 1, rwc := 0 })).startInterval w) := by
    unfold execCheckpoint
    dsimp only
    rw [due, idle, unqueued, unsent]
    rfl
  let f : Workgroup → Workgroup := fun x => { x with ival := x.ival + 1, rwc := 0 }
  have replays : (s.modWg w f).replaying w = true := by
    have before : s.replaying w = true := by
      simp only [State.checkpointDue, Bool.and_eq_true] at due
      exact due.1.1
    rw [State.replaying, State.ctxOfWg, State.modWg_self]
    exact before
  rw [run, State.startInterval_resets replays]
  refine ⟨_, rfl, rfl, rfl, ?_⟩
  rw [State.modWg_self, State.modWg_self]
  exact ⟨rfl, rfl, rfl, rfl, rfl, rfl, rfl⟩

/-! ### What a rollback keeps of the counts (R395) -/

/-- Kick pages and counts stand. -/
structure CountsKept (s t : State) : Prop where
  kicks : t.kicks = s.kicks
  rwc : ∀ w, (t.wg w).rwc = (s.wg w).rwc

namespace CountsKept

theorem refl (s : State) : CountsKept s s := ⟨rfl, fun _ => rfl⟩

theorem trans {s t u : State} (h : CountsKept s t) (k : CountsKept t u) : CountsKept s u := ⟨k.kicks.trans h.kicks, fun w => (k.rwc w).trans (h.rwc w)⟩

theorem of_wgs {s t : State} (kicks : t.kicks = s.kicks) (wgs : t.wgs = s.wgs) : CountsKept s t := ⟨kicks, fun w => by rw [State.wg, wgs]; rfl⟩

theorem modWg (s : State) (w : Nat) (f : Workgroup → Workgroup) (hf : ∀ x, (f x).rwc = x.rwc) : CountsKept s (s.modWg w f) := ⟨rfl, fun v => s.modWg_rwc w v f hf⟩

theorem foldl {α : Type} {f : State → α → State} (hf : ∀ s a, CountsKept s (f s a)) (l : List α) (s : State) : CountsKept s (l.foldl f s) := by
  induction l generalizing s with
  | nil => exact .refl s
  | cons a r ih => exact (hf s a).trans (ih _)

theorem modGroup (s : State) (core slot : Nat) (f : Group → Group) : CountsKept s (s.modGroup core slot f) := by
  rw [State.modGroup_groups]
  exact .of_wgs rfl rfl

theorem tokDown (s : State) (core slot k : Nat) : CountsKept s (s.tokDown core slot k) := by
  unfold State.tokDown
  split
  · exact .refl s
  · exact .modGroup s core slot _

theorem modCore (s : State) (core : Nat) (f : Core → Core) : CountsKept s (s.modCore core f) := .of_wgs rfl rfl

theorem regroup (s : State) (gs : Tbl Group) : CountsKept s { s with groups := gs } := .of_wgs rfl rfl

theorem noteFirst (s : State) (w : Nat) (l : List (Nat × Nat × Nat)) : CountsKept s (s.noteFirst w l) := by
  unfold State.noteFirst
  split
  · exact .modWg s w _ fun _ => rfl
  · exact .refl s

theorem putUndoByte (s : State) (a : Nat) (v : Byte) : CountsKept s (s.putUndoByte a v) := by
  unfold State.putUndoByte
  split
  · exact .modWg s _ _ fun _ => rfl
  · split
    · exact .of_wgs rfl rfl
    · exact .of_wgs rfl rfl

theorem undoAll (s : State) (l : List Undo) : CountsKept s (s.undoAll l) := .foldl (fun u x => by
  split
  · exact .putUndoByte u _ _
  · exact .refl u) l s

theorem redoAll (s : State) (l : List Undo) : CountsKept s (s.redoAll l) := .foldl (fun u _ => .putUndoByte u _ _) l.reverse s

theorem relandAll (s : State) (core : Nat) (l : List Landed) : CountsKept s (s.relandAll core l) := .foldl (fun u x => by
  have writes := CountsKept.foldl (f := fun s (w : LaneWrite) => (s.noteFirst (s.wgOf core x.slot) [(0, (s.group core x.slot).idx, w.reg)]).modThread core x.slot w.lane (fun t =>
    { t with regs := tblSet {} t.regs w.reg ⟨w.val, w.tag⟩ })) (fun v w => (CountsKept.noteFirst v _ _).trans (.modGroup _ core x.slot _)) x.writes u
  have preds (v : State) := CountsKept.foldl (f := fun s (q : Nat × Nat × Bool) => s.modThread core x.slot q.1 (fun t => t.setPred q.2.1 q.2.2)) (fun v q => .modGroup v core x.slot _) x.preds v
  have flags (v : State) := CountsKept.foldl (f := fun s (q : Nat × BitVec 5) => s.modThread core x.slot q.1 (fun t => { t with fpflags := t.fpflags ||| q.2 })) (fun v q => .modGroup v core x.slot _) x.flags v
  exact ((writes.trans (preds _)).trans (flags _)).trans (.tokDown _ core x.slot x.tok)) l s

theorem pubs (s : State) (ctx : Nat) (g : Group) : CountsKept s (s.dropPubs ctx g) ∧ CountsKept s (s.addPubs ctx g) := by
  constructor
  all_goals
    refine .foldl (fun u w => ?_) g.waits s
    split <;> exact .of_wgs rfl rfl

theorem freeAllUnits (s : State) (core w : Nat) : CountsKept s (s.freeAllUnits core w) := by
  rw [WorkFrame.freeAllUnits s core w]
  exact .of_wgs rfl rfl

end CountsKept

/-- R395: the fields of a workgroup as a history holds them at a count. -/
def restoredWg (rp : Replay) (c : Nat) (n : Snap) (y : Workgroup) : Workgroup :=
  { y with sp := n.sp, bars := n.bars, copies := n.copies, rings := n.rings, rwc := c, settled := true, reach := 15, slots := y.slots,
           replay := { rp with firsts := n.firsts, faults := rp.faults.filter (fun x => x.1 < c), sched := rp.sched.take c, undo := rp.undo.filter (fun u => u.rwc < c), loads := rp.loads.take n.loads, hist := rp.hist.filter (fun m => m.rwc ≤ c), lands := rp.lands.filter (fun d => d.rwc < c) } }

theorem State.restoreAt_counts (s : State) (w c : Nat) (n : Snap) : CountsKept (s.modWg w (restoredWg (s.wg w).replay c n)) (s.restoreAt w c n) := by
  unfold State.restoreAt
  dsimp only
  refine .trans ?_ (.foldl (fun u c => ?copy) _ _)
  case copy =>
    split
    · exact .of_wgs rfl rfl
    · split
      · exact .of_wgs rfl rfl
      · exact .refl u
  refine .trans ?_ (.foldl (fun u b => ?bar) _ _)
  case bar =>
    split
    · exact .of_wgs rfl rfl
    · exact .refl u
  refine .trans ?_ (.relandAll _ _ _)
  refine .trans ?_ (.modCore _ _ _)
  refine .trans ?_ (.freeAllUnits _ _ _)
  refine .trans ?_ (.regroup _ _)
  refine .trans ?_ (.foldl (fun u g => (CountsKept.pubs u _ g).2) _ _)
  exact .foldl (fun u (p : Nat × Group) => (CountsKept.pubs u _ p.2).1) _ _

theorem State.restoreAt_count (s : State) (w c : Nat) (n : Snap) : (s.restoreAt w c n).kicks = s.kicks ∧ ((s.restoreAt w c n).wg w).rwc = c := by
  have kept := s.restoreAt_counts w c n
  refine ⟨kept.kicks, (kept.rwc w).trans ?_⟩
  rw [State.modWg_self]
  rfl

/-- R395, R396: the record of the stop that ends a rollback. -/
def rolledTo (s : State) (rp : Replay) (c : Nat) : HaltRec := match rp.metFault c with
  | some (_, r) => { r with kind := 4, time := s.tick }
  | none => { code := cSTEP, kind := 4, time := s.tick }

/-- R395, R396: a workgroup goes back to a count of its history, and stops there. -/
theorem State.rollback_stops {s : State} {w c d : Nat} {n : Snap} (count : (((s.wg w).replay.metFault c).map (fun x => x.1)).getD c = d)
    (held : (s.wg w).replay.hist.find? (fun m => m.rwc = d) = some n) : (s.rollback w c).kicks = s.kicks ∧ ((s.rollback w c).wg w).rwc = d ∧
    ((s.rollback w c).wg w).halt = some (rolledTo s (s.wg w).replay c) := by
  let a := (s.undoAll (s.wg w).replay.undo).restoreAt w d n
  let b := a.redoAll ((s.wg w).replay.undo.filter (fun u => u.rwc < d))
  have run : s.rollback w c = b.modWg w (fun x => { x with halt := some (rolledTo s (s.wg w).replay c) }) := by
    unfold State.rollback
    dsimp only
    rw [count, held]
    rfl
  obtain ⟨kicks, rwc⟩ := (s.undoAll (s.wg w).replay.undo).restoreAt_count w d n
  have redone : CountsKept a b := .redoAll a _
  rw [run]
  refine ⟨redone.kicks.trans (kicks.trans (CountsKept.undoAll s _).kicks), ?_, ?_⟩
  · rw [State.modWg_self]
    exact (redone.rwc w).trans rwc
  · rw [State.modWg_self]

/-! ### The command (R395) -/

/-- The other workgroups of the context of one. -/
def othersOf (s : State) (w : Nat) : List Nat := (s.wgs.filter (fun p => p.1 ≠ w && s.ctxOfWg p.1 = s.ctxOfWg w)).map (fun p => p.1)

theorem othersOf_apart (s : State) (w : Nat) : w ∉ othersOf s w := by
  intro mem
  obtain ⟨y, hy, same⟩ := List.mem_map.1 mem
  have apart := (List.mem_filter.1 hy).2
  rw [same] at apart
  simp at apart

section
variable {s : State} {p : BitVec 6} {target interval count : Long} {w : Nat}

theorem preciseStop_first (halted : Halted s target w) (replays : s.replaying w = true) (current : interval.toNat = (s.wg w).ival.toNat) (first : (s.kick p).phase = 0) :
    execPreciseStop p target interval count s = .next (if count.toNat ≥ (s.wg w).rwc then (s.letRun p w (fun x => { x with stopAt := some count.toNat })).notYet p 1
      else (s.stopAll p (othersOf s w)).notYet p 2) := by
  unfold execPreciseStop
  rw [first]
  dsimp only
  rw [State.stoppedWg_passes halted, if_neg (by simp [replays, current])]
  rfl

theorem preciseStop_reached (named : s.target target.toNat = some w) (free : (s.kick p).latched = none) (phase : (s.kick p).phase = 1) (stopped : s.debugStopped w = true) :
    execPreciseStop p target interval count s = .next (answered s p 0 (leBytes 8 (s.wg w).rwc)) := by
  unfold execPreciseStop
  rw [phase]
  dsimp only
  rw [named]
  dsimp only
  exact congrArg _ ((if_pos stopped).trans (State.reply_answered free 0 _))

theorem preciseStop_alone (named : s.target target.toNat = some w) (phase : (s.kick p).phase = 2)
    (quiet : ∀ v ∈ s.wgs, v.1 ≠ w → s.ctxOfWg v.1 = s.ctxOfWg w → (s.wg v.1).settled = true ∨ (s.wg v.1).phase = 1) :
    execPreciseStop p target interval count s = .next ((s.flushAll (s.ctxOfWg w)).notYet p (s.fresh + 3)) := by
  have all : (othersOf s w).all (fun v => (s.wg v).settled || Decidable.decide ((s.wg v).phase = 1)) = true := by
    refine List.all_eq_true.2 fun v hv => ?_
    obtain ⟨y, hy, rfl⟩ := List.mem_map.1 hv
    obtain ⟨mem, is⟩ := List.mem_filter.1 hy
    simp only [ne_eq, decide_not, Bool.and_eq_true, Bool.not_eq_true', decide_eq_false_iff_not, decide_eq_true_eq] at is
    simpa using quiet y mem is.1 is.2
  unfold execPreciseStop
  rw [phase]
  dsimp only
  rw [named]
  exact congrArg _ (if_pos all)

theorem preciseStop_back (named : s.target target.toNat = some w) {k : Nat} (phase : (s.kick p).phase = k + 3) (done : s.oldWork (s.ctxOfWg w) (s.kick p).phase = false)
    (here : (s.wg w).phase ≠ 1) : execPreciseStop p target interval count s = .next ((s.rollback w count.toNat).reply p 0 (leBytes 8 ((s.rollback w count.toNat).wg w).rwc)) := by
  rw [phase] at done
  unfold execPreciseStop
  rw [phase]
  dsimp only
  rw [named]
  exact congrArg _ (if_neg (by simp [done, here]))

/-- The command completes at the count that the rollback reached. -/
theorem preciseStop_stops (free : (s.kick p).latched = none) (named : s.target target.toNat = some w) (phase : 2 < (s.kick p).phase) (done : s.oldWork (s.ctxOfWg w) (s.kick p).phase = false)
    (here : (s.wg w).phase ≠ 1) {d : Nat} {n : Snap} (reached : (((s.wg w).replay.metFault count.toNat).map (fun x => x.1)).getD count.toNat = d)
    (held : (s.wg w).replay.hist.find? (fun m => m.rwc = d) = some n) : ∃ t, execPreciseStop p target interval count s = .next t ∧ Done s t p (leBytes 8 d) ∧ (t.wg w).rwc = d ∧
      (t.wg w).halt = some (rolledTo s (s.wg w).replay count.toNat) := by
  obtain ⟨kicks, rwc, halt⟩ := State.rollback_stops reached held
  obtain ⟨run, completes⟩ := State.reply_completes (t := s.rollback w count.toNat) kicks free (leBytes 8 d)
  refine ⟨_, ?_, completes, rwc, halt⟩
  obtain ⟨k, late⟩ : ∃ k, (s.kick p).phase = k + 3 := ⟨(s.kick p).phase - 3, by omega⟩
  rw [preciseStop_back named late done here, rwc, run]

end

end Sys2Proof.Machine

namespace Sys2Proof.Proofs.DebugAndReplay

open Sys2Proof.Machine Sys2Proof.Claims

theorem checkpointsAndPreciseStops : CheckpointsAndPreciseStops := by
  intro s w
  refine ⟨fun due copies matrix sent => checkpoint_begins due copies matrix sent, fun p target interval count free named => ⟨fun halted replays current first => ⟨fun ahead => ?_, fun behind => ?_⟩,
    fun phase stopped => preciseStop_reached named free phase stopped, fun phase quiet => ?_, fun n d phase done here held => ⟨fun unmet same => ?_, fun r met => ?_⟩⟩⟩
  · obtain ⟨pending, mem, wg⟩ := s.letRun_spec p w 0 (fun x => { x with stopAt := some count.toNat })
    refine ⟨_, (preciseStop_first halted replays current first).trans (congrArg _ (if_pos ahead)), mem, pending, ?_, congrArg Workgroup.stopAt wg⟩
    rw [wg]
    exact congrArg Workgroup.halt (s.resumeWg_workgroup w)
  · refine ⟨_, (preciseStop_first halted replays current first).trans (congrArg _ (if_neg (by omega))), (s.stopAll_mem p _).1, s.stopAll_pending p _ 1, ?_⟩
    rw [State.stopAll_wg]
    exact (State.debugStops_spec _ s).2.1 w (othersOf_apart s w)
  · have sends := s.flushAll_sends (s.ctxOfWg w)
    have kick : (s.flushAll (s.ctxOfWg w)).kick p = s.kick p := State.kick_of_kicks sends.kicks p
    refine ⟨_, preciseStop_alone named phase quiet, (s.flushAll_mem _).1, ?_, pending_notYet (by rw [kick]) (by rw [kick]) (s.fresh + 2), ?_⟩
    · exact State.wg_of_wgs (t := s.flushAll (s.ctxOfWg w)) sends.wgs w
    · rw [State.notYet, State.modKick_self]
      show 2 < s.fresh + 3
      omega
  · obtain ⟨t, run, completes, rwc, halt⟩ := preciseStop_stops (interval := interval) free named phase done here (d := d) (by rw [unmet, same]; rfl) held
    rw [rolledTo, unmet] at halt
    exact ⟨t, _, run, completes, rwc, halt, rfl, rfl⟩
  · obtain ⟨t, run, completes, rwc, halt⟩ := preciseStop_stops (interval := interval) free named phase done here (d := d) (by rw [met]; rfl) held
    rw [rolledTo, met] at halt
    exact ⟨t, _, run, completes, rwc, halt, rfl, rfl, rfl⟩

/-- Settles O49: each command by the workgroup or thread that its words name; a rollback keeps the count that the history restores through every later step. -/
theorem debugAndReplay : Obligations.DebugAndReplay := ⟨debugCommands, checkpointsAndPreciseStops⟩

end Sys2Proof.Proofs.DebugAndReplay

end
